-- ==== Sys2Proof/Word.lean ====
section
/-! DEFINITION. The word types of the LZ-1296 model and the names of its instances (hubs, lanes, channels, arms). -/

namespace Sys2Proof

/-- A register, 32 bits (R62). -/
abbrev Word := BitVec 32
/-- One byte of BAR2 memory or of a Wearline frame. -/
abbrev Byte := BitVec 8
/-- An IEEE 754 binary32 value by its bits. -/
abbrev F32 := BitVec 32
/-- An IEEE 754 binary64 value by its bits. -/
abbrev F64 := BitVec 64

/-- A host port and its hub: 0 is `HOST0` on H0, 1 is `HOST1` on H1 (R44). -/
abbrev Port := Fin 2
/-- A hub cartridge: 0 is H0, 1 is H1 (R14). -/
abbrev Hub := Fin 2
/-- A lane cartridge L0 to L2 (R25). -/
abbrev Lane := Fin 3
/-- A cartridge in the order of R58: L0, L1, L2, H0, H1. -/
abbrev Cart := Fin 5
/-- A Wearline channel: 0 is A, 1 is B. -/
abbrev Chan := Fin 2
/-- An arm, 0 to 11. -/
abbrev Arm := Fin 12
/-- A joint of an arm, 0 to 7. -/
abbrev JointNo := Fin 8
/-- An encoder channel, a firefly output, a stepper channel, a safety input or a guard source. -/
abbrev Sixteen := Fin 16
/-- A profile generator. -/
abbrev Prg := Fin 32
/-- An ADC pair. -/
abbrev AdcPair := Fin 4
/-- A Wearline node number. -/
abbrev NodeNo := Fin 64
/-- A MAC core C0 to C7. -/
abbrev CoreNo := Fin 8

/-- Bits `hi:lo` of a word, as a number. -/
def field (w : BitVec n) (hi lo : Nat) : Nat := w.toNat / 2 ^ lo % 2 ^ (hi + 1 - lo)

/-- Bit `i` of a word. -/
def bit (w : BitVec n) (i : Nat) : Bool := w.getLsbD i

/-- `w` with bits `hi:lo` replaced by the low bits of `v`. -/
def setField (w : BitVec n) (hi lo v : Nat) : BitVec n :=
  let m := (2 ^ (hi + 1 - lo) - 1) * 2 ^ lo
  (w &&& ~~~ (BitVec.ofNat n m)) ||| BitVec.ofNat n (v % 2 ^ (hi + 1 - lo) * 2 ^ lo)

/-- `w` with bit `i` set to `b`. -/
def setBit (w : BitVec n) (i : Nat) (b : Bool) : BitVec n := setField w i i b.toNat

/-- A Bool as one bit of a register field. -/
def b2n (b : Bool) : Nat := b.toNat

/-- The twelve arms in ascending order. -/
def allArms : List Arm := [0, 1, 2, 3, 4, 5, 6, 7, 8, 9, 10, 11]
/-- The sixteen instances in ascending order. -/
def allSixteen : List Sixteen := [0, 1, 2, 3, 4, 5, 6, 7, 8, 9, 10, 11, 12, 13, 14, 15]
/-- The thirty-two generators in ascending order. -/
def allPrg : List Prg := [0, 1, 2, 3, 4, 5, 6, 7, 8, 9, 10, 11, 12, 13, 14, 15, 16, 17, 18, 19, 20, 21, 22, 23, 24,
  25, 26, 27, 28, 29, 30, 31]
/-- The eight joints or cores in ascending order. -/
def allEight : List (Fin 8) := [0, 1, 2, 3, 4, 5, 6, 7]
/-- The three lanes in ascending order. -/
def allLanes : List Lane := [0, 1, 2]
/-- The five cartridges in the order of R58. -/
def allCarts : List Cart := [0, 1, 2, 3, 4]
/-- The four ADC pairs in ascending order. -/
def allPairs : List AdcPair := [0, 1, 2, 3]

end Sys2Proof
end

