-- ==== Sys2Proof/Syntax.lean ====
section
/-! DEFINITION. The commands of the LZ-1296: one constructor per row of spec/opcode_table.json, with the operands
that the environment supplies (sampled values, host data, the number of cell-clock edges since the previous command). -/

namespace Sys2Proof

/-- A burst as one hub's receiver sees it (R111, R112): its 10-bit symbols from the start of bus activity on, bit 0 of a symbol first on
the wire (bit a), and the deviation of the frame reference point in nanoseconds (R171, R180). -/
structure Burst where
  syms : List (BitVec 10)
  devNs : Int
  deriving DecidableEq, Repr

/-- A hub's reception: a burst, or nothing. -/
abbrev Reception := Option Burst

/-- The way one lane's released results depart from the values that the lanes in step share (R34 to R38): the release
keys of its results that were voids or wrong at the release instant. [DESIGN CHOICE, log 55] -/
structure LaneDev where
  voids : List Nat
  wrong : List (Nat × BitVec 64)
  deriving DecidableEq, Repr

/-- A lane's safety decisions as released in flow 0 (R39, R396): the arms for which it demands SS1 and STO. -/
structure Decisions where
  ss1 : BitVec 12
  sto : BitVec 12
  deriving DecidableEq, Repr

/-- The kinds of PTP message that R80 names. -/
inductive PtpKind where
  | sync | followUp | delayReq | delayResp | pdelayReq | pdelayResp | pdelayRespFollowUp | announce | management
  | signalling
  deriving DecidableEq, Repr

/-- The transports of a PTP message (R80). -/
inductive PtpTransport where
  | ethernet | udp4 | udp6
  deriving DecidableEq, Repr

/-- The dataset of a PTP clock as an Announce message carries it (R80, R101): priorities, clock quality, grandmaster identity, steps
removed, and the identity of the sending port. -/
structure PtpData where
  prio1 : BitVec 8
  clockClass : BitVec 8
  accuracy : BitVec 8
  variance : BitVec 16
  prio2 : BitVec 8
  gm : BitVec 64
  steps : BitVec 16
  sender : BitVec 80
  deriving DecidableEq, Repr

/-- A received PTP message (R80, R101, R102): its kind, transport, 802.1Q VLAN identifier (none untagged), profile (true for
IEEE 802.1AS), domain, whether it carries unicast negotiation or an alternate timescale, its sequence number and two-step flag, the
dataset and port identity of its sender, and the mean path delay (ns) that the delay exchange it completes measures. -/
structure PtpMsg where
  kind : PtpKind
  transport : PtpTransport
  vlan : Option (BitVec 12)
  gptp : Bool
  domain : BitVec 8
  extra : Bool
  seq : BitVec 16
  twoStep : Bool
  data : PtpData
  delay : Option (BitVec 32)
  deriving DecidableEq, Repr

/-- A configuration response as received on channel `ch` (R153). -/
structure CfgResp where
  ch : Chan
  node : NodeNo
  op : Byte
  req : BitVec 16
  result : Byte
  data : List Byte
  deriving DecidableEq, Repr

/-- Header fields of a command record other than `OP` (R204); `body` holds bytes 8 to 127. -/
structure RecArgs where
  seq : Word
  flags : Byte
  frame : Byte
  res7 : Byte
  body : List Byte
  deriving DecidableEq, Repr

/-- Fields of a multiply word (R320, group 0x1): ACC a, Ds, Dt and the two 7-bit parallel moves. -/
structure MulArgs where
  acc : Fin 4
  ds : Fin 16
  dt : Fin 16
  xmove : BitVec 7
  ymove : BitVec 7
  deriving DecidableEq, Repr

/-- Fields of an ALU word (R320, group 0x2). -/
structure AluArgs where
  dd : Fin 16
  ds : Fin 16
  dt : Fin 16
  useImm : Bool
  imm : BitVec 10
  deriving DecidableEq, Repr

/-- Fields of an accumulator word (R320, group 0x3). -/
structure AccArgs where
  a : Fin 4
  b : Fin 4
  d : Fin 16
  sat : Bool
  sh : BitVec 7
  deriving DecidableEq, Repr

/-- Fields of a load or store word (R320, group 0x4). -/
structure LsArgs where
  mem : BitVec 2
  an : Fin 8
  mm : Fin 8
  reg : Fin 16
  cls : BitVec 2
  noMod : Bool
  deriving DecidableEq, Repr

/-- Fields of an immediate word (R320, group 0x5). -/
structure LdiArgs where
  half : BitVec 2
  reg : Fin 16
  cls : BitVec 2
  value : BitVec 16
  deriving DecidableEq, Repr

/-- Fields of a convert word (R320, group 0x6): Dd, Ds and the signed exponent E. -/
structure CvtArgs where
  dd : Fin 16
  ds : Fin 16
  e : BitVec 6
  deriving DecidableEq, Repr

/-- Fields of a `LOOP` word (R320, group 0x0): LEN (0 stands for 64), CR, COUNT. -/
structure LoopArgs where
  len : BitVec 6
  cr : Bool
  count : BitVec 17
  deriving DecidableEq, Repr

/-- A hub's silence as seen by a cartridge (R16). -/
structure HubSilence where
  hub : Hub
  receiver : Cart
  deriving DecidableEq, Repr

/-- A minislot on a channel; `loopBad` marks a loop-back mismatch of the module's own frame in it (R115, R151). -/
structure MinislotStart where
  ch : Chan
  loopBad : Bool
  deriving DecidableEq, Repr

/-- What the collision-avoidance symbol meets: bit 2h + c of `loopBad` marks a loop-back mismatch of hub h on channel c, `foreign` a
frame or symbol of another node while it lasts (R188). -/
structure ListenEnd where
  loopBad : BitVec 4
  foreign : Bool
  deriving DecidableEq, Repr

/-- An edge on `SRESET` input `input`; `differs` tells whether the other hub's value differs (R17). -/
structure ResetEdge where
  input : Fin 2
  differs : Bool
  deriving DecidableEq, Repr

/-- The commands. A `dt` operand is the number of cell-clock edges since the previous command (R73). -/
inductive Instr where
  -- bus cycle and hubs
  /-- SYNC_INSTANT (R74): `encDis` marks the encoder channels, `lineDis` the line phase, whose hub values differ. -/
  | syncInstant (encDis : BitVec 16) (lineDis : Bool)
  /-- SILENT (R15): the comparators of hub `h` mismatch. -/
  | silent (h : Hub)
  /-- SILENT_HUB_DETECTED (R16): cartridge `x.receiver` has heard no valid transfer of hub `x.hub` for 2 us. -/
  | silentHubDetected (x : HubSilence)
  /-- REFERENCE_TAKEOVER (R23). -/
  | referenceTakeover
  /-- FRAME_RECEIVED (R139): what each hub received on channel `ch`; `fid` is the slot or minislot of the reception. -/
  | frameReceived (dt : Nat) (ch : Chan) (fid : BitVec 10) (rx0 rx1 : Reception)
  /-- INPUT_BUNDLE (R18): a copy of the bundle from hub `h` reaches lane `l`. -/
  | inputBundle (l : Lane) (h : Hub) (tag : BitVec 48) (crcOk : Bool)
  /-- STATIC_SLOT (R131): static slot `s` starts; bit 2h + c of `loopBad` marks a loop-back mismatch of hub h, channel c. -/
  | staticSlot (slot : BitVec 8) (loopBad : BitVec 4)
  /-- MINISLOT (R151) on channel `ch`; `loopBad` marks a loop-back mismatch of the module's own frame. -/
  | minislot (x : MinislotStart)
  /-- HOST_BUFFER_CUT_OFF (R168). -/
  | hostBufferCutOff
  /-- SYMBOL_WINDOW (R192). -/
  | symbolWindow (loopBad : BitVec 4)
  /-- STAGING_CUT_OFF (R54). -/
  | stagingCutOff
  /-- FEEDBACK_INSTANT (R132). -/
  | feedbackInstant
  -- mantis, servo and Plefin events
  /-- MANTIS_PASS (R376). -/
  | mantisPass
  /-- GUARD_SOURCE_LOST (R372). -/
  | guardSourceLost (src : Sixteen)
  /-- SERVO_PHASE_A (R325). -/
  | servoPhaseA
  /-- SERVO_PHASE_B (R325). -/
  | servoPhaseB
  /-- KERNEL_CYCLE_LIMIT (R323) on core `c`. -/
  | kernelCycleLimit (c : CoreNo)
  /-- IDENTIFICATION_UPDATE (R260) of arm `a`. -/
  | identificationUpdate (a : Arm)
  /-- PLAN_CYCLE_START (R232). -/
  | planCycleStart
  /-- WARM_START (R234). -/
  | warmStart
  /-- INTERIOR_POINT_STEP (R281). -/
  | interiorPointStep
  /-- PROGRESS_WORD (R293): lane `l` reports `word` and its fail bit. -/
  | progressWord (l : Lane) (word : BitVec 15) (fail : Bool)
  /-- DEADLINE_AGREEMENT (R294). -/
  | deadlineAgreement
  /-- TIME_SCALE_STOP (R301). -/
  | timeScaleStop (a : Arm)
  /-- TIME_SCALE_STOP_END (R302). -/
  | timeScaleStopEnd (a : Arm)
  /-- TAIL_EXHAUSTED (R300). -/
  | tailExhausted (a : Arm)
  /-- PATTERN_BANK_SWITCH (R306). -/
  | patternBankSwitch
  /-- KERNEL_BANK_SWITCH (R342). -/
  | kernelBankSwitch
  /-- MANTIS_BANK_SWITCH (R392). -/
  | mantisBankSwitch
  -- Wearline events
  /-- EPOCH_SWITCH (R161). -/
  | epochSwitch
  /-- CONSOLIDATION_DECISION (R164). -/
  | consolidationDecision
  /-- CONSOLIDATION (R164). -/
  | consolidation
  /-- CONSOLIDATION_EXIT (R166). -/
  | consolidationExit
  /-- BOTHLOST (R167). -/
  | bothLost
  /-- TRAINING_COMPLETE (R119) of node `n` on channel `ch`. -/
  | trainingComplete (ch : Chan) (n : NodeNo)
  /-- TXFAULT (R448). -/
  | txFault (h : Hub) (ch : Chan)
  /-- SOLDIER_BLOCK (R194) in hub `h`. -/
  | soldierBlock (h : Hub) (ch : Chan)
  /-- SOLDIER_CUT (R194) in hub `h`. -/
  | soldierCut (h : Hub) (ch : Chan)
  /-- SOLDIER_OSCILLATOR_FAILURE (R195) in hub `h`. -/
  | soldierOscillatorFailure (h : Hub) (ch : Chan)
  /-- LISTEN_TIMER_EXPIRY (R185). -/
  | listenTimerExpiry (x : ListenEnd)
  /-- NORMAL_OPERATION (R187). -/
  | normalOperation
  /-- CONFIGURATION_RESPONSE (R153). -/
  | configurationResponse (r : CfgResp)
  /-- CONFIGURATION_TIMEOUT (R153). -/
  | configurationTimeout
  -- ticks and dispatcher
  /-- TICK (R356). -/
  | tick
  /-- TIME_LIST_FIRE (R358). -/
  | timeListFire
  /-- PHASE_LIST_FIRE (R358). -/
  | phaseListFire
  /-- OPERAND (R346). -/
  | operand (tmpl : BitVec 10) (inst : BitVec 16) (idx : BitVec 3) (tag : BitVec 48) (value : BitVec 64)
  /-- COMB_REFILL (R360). -/
  | combRefill
  /-- ENTRY_EXPIRY (R348). -/
  | entryExpiry (tmpl : BitVec 10) (inst : BitVec 16) (tag : BitVec 48)
  /-- TASK_DISPATCH (R349): executor `unit` of class `cls` becomes free. -/
  | taskDispatch (cls : BitVec 3) (unit : BitVec 4)
  /-- TASK_COMPLETION (R351): executor `unit` of class `cls` finishes with result `data`. -/
  | taskCompletion (cls : BitVec 3) (unit : BitVec 4) (data : BitVec 64)
  /-- ORDERED_FLOW_RELEASE (R352) of `flow`; `dev` gives each lane's departures. -/
  | orderedFlowRelease (flow : Fin 64) (dev : Vector LaneDev 3)
  /-- SAFETY_VOTE (R396): the decisions of each lane in step. -/
  | safetyVote (d : Vector Decisions 3)
  /-- DIGEST_WINDOW_CLOSE (R433): `dev` xors each lane's digest, `sent` tells which lanes sent one. -/
  | digestWindowClose (dev : Vector (BitVec 64) 3) (sent : Vector Bool 3)
  /-- LANE_VOTE (R434). -/
  | laneVote
  /-- VERDICT (R435): bits of `wrong0`, `wrong1` flip the lanes that CX, CY name. -/
  | verdict (wrong0 wrong1 : BitVec 3)
  /-- CUSTODIAN_RETURN (R437). -/
  | custodianReturn (c : Hub)
  -- host accesses
  /-- HUB_VIEW_WRITE (R49); `whole` is false for an access that is not one aligned DWORD (R46). -/
  | hubViewWrite (p : Port) (off : BitVec 24) (v : Word) (whole : Bool)
  /-- CELL_VIEW_WRITE (R53). -/
  | cellViewWrite (p : Port) (off : BitVec 24) (v : Word) (whole : Bool)
  /-- STALLED_WRITE (R55). -/
  | stalledWrite
  /-- PRIVATE_WINDOW_WRITE (R59). -/
  | privateWindowWrite (p : Port) (off : BitVec 24) (v : Word) (whole : Bool)
  /-- WRITE_TO_READ_ONLY (R9). -/
  | writeToReadOnly (p : Port) (off : BitVec 24) (v : Word)
  /-- HUB_VIEW_READ (R50); `differs` tells whether the other hub's value differed. -/
  | hubViewRead (p : Port) (off : BitVec 24) (whole : Bool) (differs : Bool)
  /-- CELL_VIEW_READ (R57); each lane's value is the register xor the lane's mask. -/
  | cellViewRead (p : Port) (off : BitVec 24) (whole : Bool) (masks : Vector Word 3)
  /-- BAR2_WRITE (R70). -/
  | bar2Write (p : Port) (off : BitVec 28) (data : List Byte)
  /-- BAR2_READ (R71); `differs` tells whether the second's memory differed. -/
  | bar2Read (p : Port) (off : BitVec 28) (len : BitVec 13) (differs : Bool)
  /-- SRST (R566): a write of 1 to `CTRL.SRST` of the page at offset `page`. -/
  | srst (page : BitVec 24)
  /-- CTRL_EN (R539): a write of `CTRL.EN` of the page at offset `page`. -/
  | ctrlEn (page : BitVec 24) (en : Bool)
  /-- MODE_SEL (R62): a write of `MODE.SEL`. -/
  | modeSel (page : BitVec 24) (sel : BitVec 2)
  /-- IRQ_STAT_CLEAR (R64): a W1C write; `hwSet` are the flags that hardware sets in the same cycle. -/
  | irqStatClear (page : BitVec 24) (v : Word) (hwSet : Word)
  /-- IRQ_SET (R62). -/
  | irqSet (page : BitVec 24) (v : Word)
  /-- UNLOCK (R421). -/
  | unlock (page : BitVec 24) (key : Word)
  /-- PERST (R533). -/
  | perst (p : Port)
  /-- NOW_LO_READ (R76). -/
  | nowLoRead (dt : Nat) (p : Port)
  /-- LINE_LO_READ (R96). -/
  | lineLoRead (p : Port)
  -- plant time and Ethernet
  /-- PTP_MESSAGE (R80) received on port `e`. -/
  | ptpMessage (dt : Nat) (e : Hub) (m : PtpMsg)
  /-- PTP_TRANSMIT (R80) on port `e`. -/
  | ptpTransmit (dt : Nat) (e : Hub) (kind : PtpKind)
  /-- ANNOUNCE_RECEIPT_TIMEOUT (R80). -/
  | announceReceiptTimeout (e : Hub)
  /-- OFFSET_SAMPLE (R83): the offset that the timestamps on port `e` give before `ASYM_COR`, and the mean path delay. -/
  | offsetSample (e : Hub) (offset : BitVec 64) (mpd : BitVec 32)
  /-- STEP_ACK (R88): a write. -/
  | stepAck (v : Word)
  /-- HA_OFS (R93): a write. -/
  | haOfs (v : Word)
  /-- HA_RATE (R93): a write. -/
  | haRate (v : Word)
  /-- TB_HA_WINDOW_EXPIRY (R93). -/
  | tbHaWindowExpiry
  /-- LINE_CFG (R94): a write. -/
  | lineCfg (v : Word)
  /-- LINE_LOAD (R95): a write of 1 to `LINE_CFG.LOAD`, the other fields as they stand. -/
  | lineLoad
  /-- LINK_CHANGE (R571): link of `e` up or down; `master` is the resolved PHY role. -/
  | linkChange (e : Hub) (up : Bool) (master : Bool)
  /-- RENEG (R571). -/
  | reneg (e : Hub)
  /-- MANAGEMENT_CONNECTION (R427) on Ethernet port or SVC port `src` (2 to 5 as the log source of R431). -/
  | managementConnection (src : BitVec 3) (authenticated : Bool)
  -- Wearline pages
  /-- RETRAIN (R124) with CLEAR 0. -/
  | retrain (ch : Chan) (index : NodeNo) (all : Bool)
  /-- RETRAIN_CLEAR (R124) with CLEAR 1. -/
  | retrainClear (ch : Chan) (index : NodeNo) (all : Bool)
  /-- WLS_GO (R161). -/
  | wlsGo
  /-- CONS_ENTER (R166). -/
  | consEnter (keep : Chan)
  /-- CONS_EXIT (R166). -/
  | consExit
  /-- HB_CFG (R168). -/
  | hbCfg (v : Word)
  /-- HB_DATA_WRITE (R168). -/
  | hbDataWrite (v : Word)
  /-- HB_DATA_READ (R168). -/
  | hbDataRead (p : Port)
  /-- RX_DATA_READ (R168). -/
  | rxDataRead (p : Port)
  /-- RX_POP (R168). -/
  | rxPop
  -- arm records, as the path sampler takes them
  /-- MOVE_J (R207). -/
  | moveJ (a : Arm) (r : RecArgs)
  /-- MOVE_L (R207). -/
  | moveL (a : Arm) (r : RecArgs)
  /-- MOVE_C (R207). -/
  | moveC (a : Arm) (r : RecArgs)
  /-- VIA (R208). -/
  | via (a : Arm) (r : RecArgs)
  /-- WAIT_TIME (R212). -/
  | waitTime (a : Arm) (r : RecArgs)
  /-- WAIT_PHASE (R212). -/
  | waitPhase (a : Arm) (r : RecArgs)
  /-- WAIT_INPUT (R212). -/
  | waitInput (a : Arm) (r : RecArgs)
  /-- SET_OUTPUT (R215). -/
  | setOutput (a : Arm) (r : RecArgs)
  /-- TRACK_LINE (R218). -/
  | trackLine (a : Arm) (r : RecArgs)
  /-- RELEASE_LINE (R219). -/
  | releaseLine (a : Arm) (r : RecArgs)
  /-- SPEED (R216). -/
  | speed (a : Arm) (r : RecArgs)
  /-- TOOL (R217). -/
  | tool (a : Arm) (r : RecArgs)
  /-- RENDEZVOUS (R221). -/
  | rendezvous (a : Arm) (r : RecArgs)
  /-- SEGMENT (R226). -/
  | segment (a : Arm) (r : RecArgs)
  /-- END (R229). -/
  | endRec (a : Arm) (r : RecArgs)
  /-- RECORD_COMPLETION (R229) of the record in progress of arm `a`. -/
  | recordCompletion (a : Arm)
  /-- WAIT_TIME_END (R212). -/
  | waitTimeEnd (a : Arm)
  /-- WAIT_PHASE_END (R212). -/
  | waitPhaseEnd (a : Arm)
  /-- WAIT_INPUT_END (R212). -/
  | waitInputEnd (a : Arm)
  /-- WAIT_TIMEOUT (R214). -/
  | waitTimeout (a : Arm)
  /-- RENDEZVOUS_COMPLETION (R221) of the rendezvous at which arm `a` waits. -/
  | rendezvousCompletion (a : Arm)
  -- staged writes applied: ARM, KIN, PLF, SDP
  /-- WR_IDX (R201). -/
  | wrIdx (a : Arm) (v : Word)
  /-- RPT_RD (R228). -/
  | rptRd (a : Arm) (v : Word)
  /-- FLUSH (R225). -/
  | flush (a : Arm)
  /-- RESUME (R225). -/
  | resume (a : Arm)
  /-- ABORT (R223). -/
  | abort (a : Arm)
  /-- ARM_SRST (R567). -/
  | armSrst (a : Arm)
  /-- ARM_SRST_COMPLETION (R567). -/
  | armSrstCompletion (a : Arm)
  /-- PRESET (R264). -/
  | preset (a : Arm)
  /-- KIN_HA_WINDOW_EXPIRY (R265). -/
  | kinHaWindowExpiry (a : Arm)
  /-- PLF_GO (R306). -/
  | plfGo
  /-- TOL_HI (R309). -/
  | tolHi (v : Word)
  /-- FLOOR_HI (R309). -/
  | floorHi (v : Word)
  /-- PDATA (R338). -/
  | pdata (v : Word)
  /-- PCOMMIT (R338). -/
  | pcommit (v : Word)
  /-- SDP_GO (R342). -/
  | sdpGo
  /-- HA_SEQ (R343). -/
  | haSeq (v : Word)
  -- MAC-core instructions, executed by core `c`
  | nop (c : CoreNo)
  | endKernel (c : CoreNo)
  | loop (c : CoreNo) (x : LoopArgs)
  | br (c : CoreNo) (ofs : BitVec 16)
  | brt (c : CoreNo) (ofs : BitVec 16)
  | brf (c : CoreNo) (ofs : BitVec 16)
  | setrot (c : CoreNo) (en : Bool)
  | rot (c : CoreNo)
  | macSS (c : CoreNo) (x : MulArgs)
  | macSU (c : CoreNo) (x : MulArgs)
  | macUU (c : CoreNo) (x : MulArgs)
  | msuSS (c : CoreNo) (x : MulArgs)
  | mpySS (c : CoreNo) (x : MulArgs)
  | mpySU (c : CoreNo) (x : MulArgs)
  | mpyUU (c : CoreNo) (x : MulArgs)
  | mov (c : CoreNo) (x : AluArgs)
  | add (c : CoreNo) (x : AluArgs)
  | sub (c : CoreNo) (x : AluArgs)
  | adds (c : CoreNo) (x : AluArgs)
  | subs (c : CoreNo) (x : AluArgs)
  | and (c : CoreNo) (x : AluArgs)
  | or (c : CoreNo) (x : AluArgs)
  | xor (c : CoreNo) (x : AluArgs)
  | shl (c : CoreNo) (x : AluArgs)
  | shra (c : CoreNo) (x : AluArgs)
  | shrl (c : CoreNo) (x : AluArgs)
  | min (c : CoreNo) (x : AluArgs)
  | max (c : CoreNo) (x : AluArgs)
  | abs (c : CoreNo) (x : AluArgs)
  | neg (c : CoreNo) (x : AluArgs)
  | cmplt (c : CoreNo) (x : AluArgs)
  | cmpltu (c : CoreNo) (x : AluArgs)
  | cmpeq (c : CoreNo) (x : AluArgs)
  | sel (c : CoreNo) (x : AluArgs)
  | clr (c : CoreNo) (x : AccArgs)
  | lda (c : CoreNo) (x : AccArgs)
  | ldau (c : CoreNo) (x : AccArgs)
  | aadd (c : CoreNo) (x : AccArgs)
  | asub (c : CoreNo) (x : AccArgs)
  | amov (c : CoreNo) (x : AccArgs)
  | ash (c : CoreNo) (x : AccArgs)
  | sta (c : CoreNo) (x : AccArgs)
  | ld (c : CoreNo) (x : LsArgs)
  | st (c : CoreNo) (x : LsArgs)
  | ldi (c : CoreNo) (x : LdiArgs)
  | cvtf (c : CoreNo) (x : CvtArgs)
  | cvti (c : CoreNo) (x : CvtArgs)
  | movsFromSpecial (c : CoreNo) (d : Fin 16) (code : BitVec 4)
  | movsToSpecial (c : CoreNo) (d : Fin 16) (code : BitVec 4)
  -- mantis writes, applied
  /-- MNT_GO (R392). -/
  | mntGo
  /-- HT_DATA (R390). -/
  | htData (v : Word)
  /-- HT_COMMIT (R390). -/
  | htCommit
  /-- HT_LIFE_EXPIRY (R390). -/
  | htLifeExpiry
  -- safety events
  /-- SAFETY_INPUT_FILTER (R407): channel (0 a, 1 b) of input `i` takes `level` at the hubs in `hubs`. -/
  | safetyInputFilter (i : Sixteen) (channel : Fin 2) (level : Bool) (hubs : Vector Bool 2)
  /-- INPUT_FAULT (R408). -/
  | inputFault (i : Sixteen)
  /-- STANDSTILL (R403). -/
  | standstill (a : Arm)
  /-- SBC_DELAY_EXPIRY (R403). -/
  | sbcDelayExpiry (a : Arm)
  /-- SS1_TIME_LIMIT (R403). -/
  | ss1TimeLimit (a : Arm)
  /-- FEEDBACK_LOST_SS1 (R405). -/
  | feedbackLostSs1 (a : Arm)
  /-- FEEDBACK_LOST_STO (R405). -/
  | feedbackLostSto (a : Arm)
  /-- SLS_VIOLATION (R406). -/
  | slsViolation (a : Arm)
  /-- OUTPUT_FAULT (R411): output bit `o` of `OUT_FAULT` (0 to 11 STO, 12 to 15 SO, 16 to 27 SBC). -/
  | outputFault (o : Fin 28)
  /-- TEST_PULSE (R412): output `o` (R412 numbering), channel a or b. -/
  | testPulse (o : Sixteen) (channel : Fin 2)
  /-- TEST_PULSE_RESULT (R412): readback off before the end, and on within 100 us after it. -/
  | testPulseResult (o : Sixteen) (channel : Fin 2) (sawOff sawOn : Bool)
  /-- RESET_PULSE (R415): a falling edge. -/
  | resetPulse (dt : Nat) (x : ResetEdge)
  /-- STUCK_RESET (R416). -/
  | stuckReset (i : Fin 2)
  /-- SWRST (R418): a write of `SAF.SWRST` applied. -/
  | swrst (v : Word)
  /-- SWRST_STUCK (R418). -/
  | swrstStuck
  /-- SVCWARN (R420). -/
  | svcwarn
  /-- SERVICE_WINDOW_EXPIRY (R420). -/
  | serviceWindowExpiry
  -- security
  /-- OPEN_SESSION (R422): `PWD_CMD.OP` 1 from source `src` (0 to 5 as R431). -/
  | openSession (src : BitVec 3)
  /-- CHANGE_PASSWORD (R422): `PWD_CMD.OP` 2. -/
  | changePassword (src : BitVec 3)
  /-- END_SESSION (R422): `PWD_CMD.OP` 3. -/
  | endSession
  /-- PWLOCK_EXPIRY (R422). -/
  | pwlockExpiry
  /-- SESSION_TIMEOUT (R423). -/
  | sessionTimeout
  /-- SESS_KEY_READ (R423). -/
  | sessKeyRead (p : Port)
  /-- LOG_ACK (R425). -/
  | logAck (v : Word)
  /-- LOG_DATA_READ (R431). -/
  | logDataRead (p : Port)
  -- cartridges and custodians
  /-- FENCE (R438, R445). -/
  | fence (c : Cart)
  /-- READMIT (R440). -/
  | readmit (c : Cart)
  /-- MOLT (R455). -/
  | molt (c : Cart) (img : BitVec 8)
  /-- MOLT_COMPLETE (R455). -/
  | moltComplete (c : Cart)
  /-- POWEROFF (R440). -/
  | poweroff (c : Cart)
  /-- CUSTODIAN_READMIT (R437). -/
  | custodianReadmit (c : Hub)
  /-- FW_GO (R456). -/
  | fwGo (c : Hub) (v : Word)
  /-- STEP_CLASS_SWITCH (R456). -/
  | stepClassSwitch
  /-- IMAGE_LOAD (R453). -/
  | imageLoad (c : Hub) (v : Word)
  /-- IMAGE_LOAD_COMPLETE (R453). -/
  | imageLoadComplete
  /-- CARTRIDGE_INSERTED (R440). -/
  | cartridgeInserted (c : Cart)
  /-- CARTRIDGE_REMOVED (R449). -/
  | cartridgeRemoved (c : Cart)
  /-- LEVER_OPENED (R449). -/
  | leverOpened (c : Cart)
  /-- LEVER_CLOSED (R449). -/
  | leverClosed (c : Cart)
  /-- SELFTEST_COMPLETE (R440): failed units of the BIST as (unit, index) of R463 and R464, and the firmware check. -/
  | selftestComplete (c : Cart) (failed : List (Nat × Nat)) (fwOk : Bool)
  /-- STATE_REGION_COPY_COMPLETE (R441). -/
  | stateRegionCopyComplete (l : Lane)
  /-- JOURNAL (R442): `bytes` of journal or recorded pages applied; `pagesLeft` recorded pages remain. -/
  | journal (l : Lane) (bytes : Nat) (pagesLeft : Nat)
  /-- TRACK_END (R442). -/
  | trackEnd (l : Lane)
  /-- SHADOW_DIGEST (R443): equal to the voted digest, and every result complete by its release instant. -/
  | shadowDigest (l : Lane) (equal complete : Bool)
  /-- CHECK_PASS (R443). -/
  | checkPass (l : Lane)
  /-- HUB_TRACK_MISMATCH (R447). -/
  | hubTrackMismatch (h : Hub)
  /-- HUB_JOIN (R447). -/
  | hubJoin (h : Hub)
  /-- HUB_LOCK_COMPLETE (R446). -/
  | hubLockComplete (h : Hub)
  /-- SPARE_REMAP_COMMAND (R458): `CMD.GO` of cartridge `c`. -/
  | spareRemapCommand (c : Cart) (unit : BitVec 4) (index : BitVec 6)
  /-- CLEAR_REMAP (R458). -/
  | clearRemap (c : Cart)
  -- encoders
  /-- ENCODER_EDGE (R467): the filtered levels of `A` and `B` after the edge; `hubs` false where a hub missed it. -/
  | encoderEdge (dt : Nat) (n : Sixteen) (a b : Bool)
  /-- ERROR_WINDOW (R469). -/
  | errorWindow (n : Sixteen)
  /-- HALL_STATE_CHANGE (R470): the new (U, V, W). -/
  | hallStateChange (dt : Nat) (n : Sixteen) (uvw : BitVec 3)
  /-- SSI_READING (R471). -/
  | ssiReading (n : Sixteen)
  /-- SSI_READING_COMPLETE (R471): the raw bits, the level at the first sample, and the return high within MONO. -/
  | ssiReadingComplete (dt : Nat) (n : Sixteen) (raw : Word) (firstHigh returned : Bool)
  /-- SSI_DELAY_MEASUREMENT (R472): the sixteen measured delays, none where there was no data edge. -/
  | ssiDelayMeasurement (n : Sixteen) (delays : List (Option Nat))
  /-- REMEASURE (R472). -/
  | remeasure (n : Sixteen)
  /-- INDEX_LATCH (R474). -/
  | indexLatch (dt : Nat) (n : Sixteen)
  /-- LATCH_READ (R474). -/
  | latchRead (p : Port) (n : Sixteen)
  /-- LATCH_T_READ (R474). -/
  | latchTRead (p : Port) (n : Sixteen)
  /-- INTERVAL_SATURATION (R476). -/
  | intervalSaturation (n : Sixteen)
  /-- ENC_LOAD (R478). -/
  | encLoad (n : Sixteen)
  /-- CLRFAULT (R469). -/
  | clrfault (n : Sixteen)
  /-- EMULATED_COUNT (R479). -/
  | emulatedCount (n : Sixteen)
  /-- ENC_HA_CUT_OFF (R480). -/
  | encHaCutOff (n : Sixteen)
  -- firefly
  /-- PULSE_END (R484). -/
  | pulseEnd (dt : Nat) (n : Sixteen)
  /-- LCTL (R491). -/
  | lctl (n : Sixteen) (v : Word)
  /-- REWIND (R486). -/
  | rewind (n : Sixteen)
  /-- REARM (R486). -/
  | rearm (n : Sixteen)
  /-- PULSE (R489). -/
  | pulse (dt : Nat) (n : Sixteen)
  /-- HA_TIME (R489). -/
  | haTime (n : Sixteen) (v : Word)
  /-- HOST_PULSE (R489). -/
  | hostPulse (dt : Nat) (n : Sixteen)
  -- profile generators and steppers
  /-- PRG_GO (R494). -/
  | prgGo (n : Prg)
  /-- PRG_STOP (R497). -/
  | prgStop (n : Prg)
  /-- PRG_LOAD (R497). -/
  | prgLoad (n : Prg)
  /-- HA_POS_HI (R500). -/
  | haPosHi (n : Prg) (v : Word)
  /-- PRG_HA_CUT_OFF (R500). -/
  | prgHaCutOff (n : Prg)
  /-- PWM_PERIOD (R505). -/
  | pwmPeriod (n : Sixteen)
  /-- PWM_CENTRE (R505). -/
  | pwmCentre (n : Sixteen)
  /-- TDATA (R504). -/
  | tdata (n : Sixteen) (v : Word)
  /-- TDEFAULT (R504). -/
  | tdefault (n : Sixteen)
  -- analogue inputs
  /-- CONVERSION (R512): converter `c` of pair `p` reaches the grid point `dt` edges after the previous command. -/
  | conversion (dt : Nat) (p : AdcPair) (c : Fin 2)
  /-- CONVERSION_COMPLETE (R525): raw code of the reference hub and of the other hub. -/
  | conversionComplete (dt : Nat) (p : AdcPair) (c : Fin 2) (code other : BitVec 12)
  /-- CALIBRATION (R521): the period of pair `p` elapses, or converter C1 follows C0. -/
  | calibration (p : AdcPair) (c : Fin 2)
  /-- CALIBRATION_COMPLETE (R522): whether the coefficients lie inside their factory bounds. -/
  | calibrationComplete (p : AdcPair) (c : Fin 2) (ok : Bool)
  /-- CAL (R521): `CMD.CAL`. -/
  | cal (p : AdcPair)
  /-- ADC_FLUSH (R529). -/
  | adcFlush (p : AdcPair)
  /-- RESTART (R529). -/
  | restart (p : AdcPair)
  /-- RES_W0_READ (R525). -/
  | resW0Read (port : Port) (p : AdcPair)
  /-- RES_W1_READ (R525). -/
  | resW1Read (port : Port) (p : AdcPair)
  /-- PRG_POS_LO_READ (R508). -/
  | prgPosLoRead (p : Port) (n : Prg)
  -- bring-up and power
  /-- POWER_GOOD (R530). -/
  | powerGood
  /-- HUB_SELF_TEST_COMPLETE (R532). -/
  | hubSelfTestComplete
  /-- PLL_LOCK (R532). -/
  | pllLock
  /-- HUB_FUNCTIONS_READY (R532). -/
  | hubFunctionsReady
  /-- ADMISSION (R534). -/
  | admission
  /-- SUPPLY_THRESHOLD (R544): input (0 `PWR1`, 1 `PWR2`) at `mv` millivolts. -/
  | supplyThreshold (i : Fin 2) (mv : Nat)
  /-- DIP (R545). -/
  | dip
  /-- SHUTDOWN (R546). -/
  | shutdown
  /-- SUPPLY_MEASUREMENT (R541): what hub `h` measures. -/
  | supplyMeasurement (h : Hub) (vin iin pin tbase : Word) (cart : Vector Word 5) (vcore : Vector Word 3)
  /-- THERMAL_STOP (R548). -/
  | thermalStop (c : Cart)
  /-- FIREFLY_PHASE_CROSSING (R482): line phase is evaluated `dt` edges after the previous command for output `n`. -/
  | fireflyPhaseCrossing (dt : Nat) (n : Sixteen)
  /-- TEST_PULSE_MIDPOINT (R515) of output `o`, channel a or b. -/
  | testPulseMidpoint (o : Sixteen) (channel : Fin 2)
  /-- ILLEGAL_INSTRUCTION (R320): core `c` fetches `word`, or runs past its kernel's end. -/
  | illegalInstruction (c : CoreNo) (word : Word) (pastEnd : Bool)
  /-- SOFT_START_COMPLETE (R440). -/
  | softStartComplete (c : Cart)
  /-- HUB_LOAD_COMPLETE (R446). -/
  | hubLoadComplete (h : Hub)
  /-- LANE_READY (R534). -/
  | laneReady (l : Lane)
  /-- CUSTODIAN_START_COMPLETE (R532). -/
  | custodianStartComplete
  /-- RESET_INPUT_RISING_EDGE (R415). -/
  | resetInputRisingEdge (dt : Nat) (x : ResetEdge)
  /-- MANAGEMENT_CONNECTION_CLOSED (R423). -/
  | managementConnectionClosed (src : BitVec 3)
  /-- HOST_PORT_LINK_CHANGE (R423). -/
  | hostPortLinkChange (p : Port) (up : Bool)
  /-- MSI_X_TABLE_WRITE (R66): a BAR4 table entry or its mask bit. -/
  | msixTableWrite (p : Port) (vector : Fin 64) (addr : BitVec 64) (data : Word) (masked : Bool)
  /-- THERMAL_RECOVERY (R548). -/
  | thermalRecovery (c : Cart)
  deriving DecidableEq, Repr

end Sys2Proof
end

