-- ==== Sys2Proof/Decode.lean ====
section
/-! DEFINITION. The command that a word spells by the bits of spec/opcode_table.json. The table gives no row any bits: the
commands of this block are events and register accesses, which no word spells. -/

namespace Sys2Proof

/-- The command that a word spells: none, since no row of the table has bits. [DEDUCED, log 2] -/
def decodeTableWord (_nbits _w : Nat) : Option Instr := none

end Sys2Proof
end

