-- ==== Sys2Proof/Config.lean ====
section
/-! DEFINITION. What the manufacture or the manual leaves open: constants without a body, so that no proof can evaluate
one. A free value is one of these functions applied to the counter `State.free` or to the operands it depends on. -/

namespace Sys2Proof

/-- A free 32-bit value, by the count of free values drawn before it. [DESIGN CHOICE, log 9] -/
opaque Config.freeWord : Nat → BitVec 32
/-- A free 64-bit value. [DESIGN CHOICE, log 9] -/
opaque Config.freeDword : Nat → BitVec 64
/-- A free bit. [DESIGN CHOICE, log 9] -/
opaque Config.freeBit : Nat → Bool

/-- The salted SHA-256 hash of a password: the manual does not say how the salt and the password enter the hash (R422).
[DEDUCED, log 99] -/
opaque Config.passwordHash : BitVec 128 → List (BitVec 8) → BitVec 256
/-- The salt of a stored password, by the count of free values drawn (R422). [DEDUCED, log 99] -/
opaque Config.salt : Nat → BitVec 128

/-- One step of the 64-bit lane digest over a released result: digest, flow, release key, data or none for a void; the
manual does not give the function (R38, R354). [DESIGN CHOICE, log 56] -/
opaque Config.digestStep : BitVec 64 → Nat → Nat → Option (BitVec 64) → BitVec 64

/-- Sine and cosine in binary64 (R257), and in binary32 (R367); the angle of a point from the x axis, binary64, given y and x: the
manual does not give the routines. [DESIGN CHOICE, log 106] -/
opaque Config.sin64 : F64 → F64
opaque Config.cos64 : F64 → F64
opaque Config.atan64 : F64 → F64 → F64
opaque Config.sin32 : F32 → F32
opaque Config.cos32 : F32 → F32

/-- A component of the measured velocity of a capsule's ends in the first pass of mantis, by the count of free values, the ends and the
component: there is no earlier position (R367). [DESIGN CHOICE, log 76] -/
opaque Config.freeVelocity : Nat → List (BitVec 32) → Nat → F32

/-- The bus cycle, ns, while no schedule bank is loaded: the manual gives none (R128). [DESIGN CHOICE, log 103] -/
opaque Config.freeBus : BitVec 21

/-- The clock accuracy and offset-scaled log variance of the module's own PTP dataset (R80, R101). [PRESUMED, log 84] -/
opaque Config.clockQuality : BitVec 8 × BitVec 16
/-- The serial number of the cartridge in a bay, by bay and exchange; bay 5 is the carrier (R462, R550). [DESIGN CHOICE, log 5] -/
opaque Config.serial : Nat → Nat → BitVec 64
/-- The MAC address of an Ethernet port, by port and exchange of its hub (R572). [DESIGN CHOICE, log 5] -/
opaque Config.mac : Nat → Nat → BitVec 48
/-- The size of the state region, MiB (R441). [DESIGN CHOICE, log 5] -/
opaque Config.regionMiB : BitVec 16
/-- The number of the first failed self-test that `HEALTH.FAILNO` shows, by cartridge: the manual does not number the tests (R62).
[DESIGN CHOICE, log 5; DEDUCED, log 14] -/
opaque Config.failedTest : Nat → BitVec 8

end Sys2Proof
end

