-- ==== Sys2Proof/Machine/Float.lean ====
section
/-! DEFINITION. IEEE 754 binary32 and binary64 arithmetic on bit patterns: every operation computes the exact result and
rounds once, to nearest with ties to even. A result that is not a number is the default quiet NaN. -/

namespace Sys2Proof.Machine

/-- An interchange format: exponent bits and fraction bits. -/
structure Fmt where
  eb : Nat
  mb : Nat
  deriving DecidableEq, Repr

/-- binary32. -/
def single : Fmt := ⟨8, 23⟩
/-- binary64. -/
def double : Fmt := ⟨11, 52⟩

/-- A value: not a number, an infinity, or ± man × 2^exp. -/
inductive FVal where
  | nan
  | inf (neg : Bool)
  | fin (neg : Bool) (man : Nat) (exp : Int)
  deriving DecidableEq, Repr

/-- The exponent of the least significant bit of a subnormal number. -/
def Fmt.qmin (f : Fmt) : Int := 2 - 2 ^ (f.eb - 1) - f.mb

/-- The all-ones exponent field. -/
def Fmt.emax (f : Fmt) : Nat := 2 ^ f.eb - 1

/-- The value of a bit pattern. -/
def Fmt.unpack (f : Fmt) (b : Nat) : FVal :=
  let neg := b / 2 ^ (f.eb + f.mb) % 2 == 1
  let e := b / 2 ^ f.mb % 2 ^ f.eb
  let m := b % 2 ^ f.mb
  if e = f.emax then (if m = 0 then .inf neg else .nan)
  else if e = 0 then .fin neg m f.qmin
  else .fin neg (2 ^ f.mb + m) (f.qmin + (e - 1 : Nat))

/-- The default quiet NaN. -/
def Fmt.nanBits (f : Fmt) : Nat := f.emax * 2 ^ f.mb + 2 ^ (f.mb - 1)

/-- The sign bit. -/
def Fmt.signBit (f : Fmt) (neg : Bool) : Nat := if neg then 2 ^ (f.eb + f.mb) else 0

/-- An infinity. -/
def Fmt.infBits (f : Fmt) (neg : Bool) : Nat := f.signBit neg + f.emax * 2 ^ f.mb

/-- Divide by 2^k, rounding to nearest even; `sticky` tells that the exact value lies a little above `m`. -/
def roundShift (m k : Nat) (sticky : Bool) : Nat :=
  let q := m / 2 ^ k
  let r := 2 * (m % 2 ^ k)
  if 2 ^ k < r ∨ (r = 2 ^ k ∧ (sticky ∨ q % 2 = 1)) then q + 1 else q

/-- Round ± man × 2^exp (and a little more where `sticky`) to the format. -/
def Fmt.round (f : Fmt) (neg : Bool) (man : Nat) (exp : Int) (sticky : Bool) : Nat :=
  if man = 0 then f.signBit neg
  else
    let e := max (exp + (man.log2 + 1 : Nat) - (f.mb + 1 : Nat)) f.qmin
    let q := if exp < e then roundShift man (e - exp).toNat sticky else man * 2 ^ (exp - e).toNat
    let carry := decide (q = 2 ^ (f.mb + 1))
    let q' := if carry then 2 ^ f.mb else q
    let e' := if carry then e + 1 else e
    let field : Nat := if q' < 2 ^ f.mb then 0 else (e' - f.qmin).toNat + 1
    if f.emax ≤ field then f.infBits neg
    else f.signBit neg + field * 2 ^ f.mb + q' % 2 ^ f.mb

/-- A signed integer times 2^exp, rounded; an exact zero takes the sign given. -/
def Fmt.ofScaled (f : Fmt) (zeroNeg : Bool) (x : Int) (exp : Int) : Nat :=
  if x = 0 then f.signBit zeroNeg else f.round (decide (x < 0)) x.natAbs exp false

/-- The signed integer ± man × 2^(exp − e). -/
def scaledTo (neg : Bool) (man : Nat) (exp e : Int) : Int :=
  let v : Int := man * 2 ^ (exp - e).toNat
  if neg then -v else v

/-- Sum. -/
def Fmt.add (f : Fmt) (a b : Nat) : Nat :=
  match f.unpack a, f.unpack b with
  | .nan, _ => f.nanBits
  | _, .nan => f.nanBits
  | .inf x, .inf y => if x = y then f.infBits x else f.nanBits
  | .inf x, _ => f.infBits x
  | _, .inf y => f.infBits y
  | .fin x m i, .fin y n j =>
    let e := min i j
    f.ofScaled (x && y) (scaledTo x m i e + scaledTo y n j e) e

/-- Negation. -/
def Fmt.neg (f : Fmt) (a : Nat) : Nat :=
  let s := 2 ^ (f.eb + f.mb)
  if a / s % 2 = 1 then a - s else a + s

/-- Difference. -/
def Fmt.sub (f : Fmt) (a b : Nat) : Nat := f.add a (f.neg b)

/-- Product. -/
def Fmt.mul (f : Fmt) (a b : Nat) : Nat :=
  match f.unpack a, f.unpack b with
  | .nan, _ => f.nanBits
  | _, .nan => f.nanBits
  | .inf x, .inf y => f.infBits (x != y)
  | .inf x, .fin y n _ => if n = 0 then f.nanBits else f.infBits (x != y)
  | .fin x m _, .inf y => if m = 0 then f.nanBits else f.infBits (x != y)
  | .fin x m i, .fin y n j => f.round (x != y) (m * n) (i + j) false

/-- Product and sum with one rounding. -/
def Fmt.fma (f : Fmt) (a b c : Nat) : Nat :=
  let sum := fun (neg : Bool) (m : Nat) (i : Int) => match f.unpack c with
    | .nan => f.nanBits
    | .inf y => f.infBits y
    | .fin y n j =>
      let e := min i j
      f.ofScaled (neg && y) (scaledTo neg m i e + scaledTo y n j e) e
  let infinite := fun (neg : Bool) => match f.unpack c with
    | .nan => f.nanBits
    | .inf y => if y = neg then f.infBits y else f.nanBits
    | .fin _ _ _ => f.infBits neg
  match f.unpack a, f.unpack b with
  | .nan, _ => f.nanBits
  | _, .nan => f.nanBits
  | .inf x, .inf y => infinite (x != y)
  | .inf x, .fin y n _ => if n = 0 then f.nanBits else infinite (x != y)
  | .fin x m _, .inf y => if m = 0 then f.nanBits else infinite (x != y)
  | .fin x m i, .fin y n j => sum (x != y) (m * n) (i + j)

/-- Quotient. -/
def Fmt.div (f : Fmt) (a b : Nat) : Nat :=
  match f.unpack a, f.unpack b with
  | .nan, _ => f.nanBits
  | _, .nan => f.nanBits
  | .inf _, .inf _ => f.nanBits
  | .inf x, .fin y _ _ => f.infBits (x != y)
  | .fin x _ _, .inf y => f.signBit (x != y)
  | .fin x m i, .fin y n j =>
    if n = 0 then (if m = 0 then f.nanBits else f.infBits (x != y))
    else
      let k := 2 * f.mb + 8
      let q := m * 2 ^ k / n
      f.round (x != y) q (i - j - k) (decide (m * 2 ^ k % n ≠ 0))

/-- The integer square root by bits: `k` bits of the result remain, `r` is the result so far. -/
def isqrtBits (v : Nat) : Nat → Nat → Nat
  | 0, r => r
  | k + 1, r =>
    let t := r + 2 ^ k
    isqrtBits v k (if t * t ≤ v then t else r)

/-- The integer square root. -/
def isqrt (v : Nat) : Nat := isqrtBits v (v.log2 / 2 + 1) 0

/-- Square root. -/
def Fmt.sqrt (f : Fmt) (a : Nat) : Nat :=
  match f.unpack a with
  | .nan => f.nanBits
  | .inf neg => if neg then f.nanBits else f.infBits false
  | .fin neg m i =>
    if m = 0 then f.signBit neg
    else if neg then f.nanBits
    else
      let k := 2 * f.mb + 8
      let odd := decide (i % 2 ≠ 0)
      let v := (if odd then m * 2 else m) * 2 ^ (2 * k)
      let i' := if odd then i - 1 else i
      let r := isqrt v
      f.round false r (i' / 2 - k) (decide (r * r ≠ v))

/-- Less than, false where either is not a number. -/
def Fmt.lt (f : Fmt) (a b : Nat) : Bool :=
  match f.unpack a, f.unpack b with
  | .nan, _ => false
  | _, .nan => false
  | .inf x, .inf y => x && !y
  | .inf x, _ => x
  | _, .inf y => !y
  | .fin x m i, .fin y n j =>
    let e := min i j
    decide (scaledTo x m i e < scaledTo y n j e)

/-- Equality of values, false where either is not a number. -/
def Fmt.eq (f : Fmt) (a b : Nat) : Bool :=
  match f.unpack a, f.unpack b with
  | .nan, _ => false
  | _, .nan => false
  | .inf x, .inf y => x == y
  | .inf _, _ => false
  | _, .inf _ => false
  | .fin x m i, .fin y n j =>
    let e := min i j
    decide (scaledTo x m i e = scaledTo y n j e)

/-- Finite or not. -/
def Fmt.finite (f : Fmt) (a : Nat) : Bool :=
  match f.unpack a with
  | .fin _ _ _ => true
  | _ => false

/-- The greatest integer not above the value times 2^k; 0 where it is not finite. -/
def Fmt.floorScaled (f : Fmt) (k : Int) (a : Nat) : Int :=
  match f.unpack a with
  | .fin neg m i =>
    let e := i + k
    let v : Int := if neg then -(m : Int) else m
    if 0 ≤ e then v * 2 ^ e.toNat else v / 2 ^ (-e).toNat
  | _ => 0

/-- The same value in another format, rounded. -/
def Fmt.convert (f g : Fmt) (a : Nat) : Nat :=
  match f.unpack a with
  | .nan => g.nanBits
  | .inf neg => g.infBits neg
  | .fin neg m i => g.round neg m i false

/-- binary64 sum. -/
def dAdd (a b : F64) : F64 := BitVec.ofNat 64 (double.add a.toNat b.toNat)
/-- binary64 difference. -/
def dSub (a b : F64) : F64 := BitVec.ofNat 64 (double.sub a.toNat b.toNat)
/-- binary64 product. -/
def dMul (a b : F64) : F64 := BitVec.ofNat 64 (double.mul a.toNat b.toNat)
/-- binary64 product and sum with one rounding (R290). -/
def dFma (a b c : F64) : F64 := BitVec.ofNat 64 (double.fma a.toNat b.toNat c.toNat)
/-- binary64 quotient. -/
def dDiv (a b : F64) : F64 := BitVec.ofNat 64 (double.div a.toNat b.toNat)
/-- binary64 square root. -/
def dSqrt (a : F64) : F64 := BitVec.ofNat 64 (double.sqrt a.toNat)
/-- binary64 negation. -/
def dNeg (a : F64) : F64 := BitVec.ofNat 64 (double.neg a.toNat)
/-- binary64 magnitude. -/
def dAbs (a : F64) : F64 := a &&& 0x7FFFFFFFFFFFFFFF
/-- binary64 less than. -/
def dLt (a b : F64) : Bool := double.lt a.toNat b.toNat
/-- binary64 less than or equal. -/
def dLe (a b : F64) : Bool := dLt a b || double.eq a.toNat b.toNat
/-- binary64 equality of values. -/
def dEq (a b : F64) : Bool := double.eq a.toNat b.toNat
/-- binary64 finite. -/
def dFinite (a : F64) : Bool := double.finite a.toNat
/-- An integer as binary64, rounded. -/
def dOfInt (x : Int) : F64 := BitVec.ofNat 64 (double.ofScaled false x 0)
/-- An integer times 2^e as binary64, rounded. -/
def dOfScaled (x e : Int) : F64 := BitVec.ofNat 64 (double.ofScaled false x e)
/-- floor(a × 2^k). -/
def dFloor (k : Int) (a : F64) : Int := double.floorScaled k a.toNat
/-- The lesser of two. -/
def dMin (a b : F64) : F64 := if dLt b a then b else a
/-- The greater of two. -/
def dMax (a b : F64) : F64 := if dLt a b then b else a

/-- binary32 sum. -/
def fAdd (a b : F32) : F32 := BitVec.ofNat 32 (single.add a.toNat b.toNat)
/-- binary32 difference. -/
def fSub (a b : F32) : F32 := BitVec.ofNat 32 (single.sub a.toNat b.toNat)
/-- binary32 product. -/
def fMul (a b : F32) : F32 := BitVec.ofNat 32 (single.mul a.toNat b.toNat)
/-- binary32 quotient. -/
def fDiv (a b : F32) : F32 := BitVec.ofNat 32 (single.div a.toNat b.toNat)
/-- binary32 square root. -/
def fSqrt (a : F32) : F32 := BitVec.ofNat 32 (single.sqrt a.toNat)
/-- binary32 negation. -/
def fNeg (a : F32) : F32 := BitVec.ofNat 32 (single.neg a.toNat)
/-- binary32 magnitude. -/
def fAbs (a : F32) : F32 := a &&& 0x7FFFFFFF
/-- binary32 less than. -/
def fLt (a b : F32) : Bool := single.lt a.toNat b.toNat
/-- binary32 less than or equal. -/
def fLe (a b : F32) : Bool := fLt a b || single.eq a.toNat b.toNat
/-- binary32 finite. -/
def fFinite (a : F32) : Bool := single.finite a.toNat
/-- An integer as binary32, rounded. -/
def fOfInt (x : Int) : F32 := BitVec.ofNat 32 (single.ofScaled false x 0)
/-- An integer times 2^e as binary32, rounded. -/
def fOfScaled (x e : Int) : F32 := BitVec.ofNat 32 (single.ofScaled false x e)
/-- floor(a × 2^k). -/
def fFloor (k : Int) (a : F32) : Int := single.floorScaled k a.toNat
/-- The lesser of two. -/
def fMin (a b : F32) : F32 := if fLt b a then b else a
/-- The greater of two. -/
def fMax (a b : F32) : F32 := if fLt a b then b else a
/-- binary32 to binary64, exact. -/
def dOfF (a : F32) : F64 := BitVec.ofNat 64 (single.convert double a.toNat)
/-- binary64 to binary32, rounded. -/
def fOfD (a : F64) : F32 := BitVec.ofNat 32 (double.convert single a.toNat)

end Sys2Proof.Machine
end

