-- ==== Sys2Proof/Machine/Arith.lean ====
section
/-! DEFINITION. Vectors, rotations and frames over a floating-point format: one text for the binary64 of the kinematics units
(R257) and the binary32 of mantis (R367). -/

namespace Sys2Proof.Machine

/-- A vector. -/
structure V3 (F : Type) where
  x : F
  y : F
  z : F
  deriving DecidableEq, Repr

/-- A rotation matrix by its columns. -/
structure M3 (F : Type) where
  a : V3 F
  b : V3 F
  c : V3 F
  deriving DecidableEq, Repr

/-- A quaternion. -/
structure Q4 (F : Type) where
  w : F
  v : V3 F
  deriving DecidableEq, Repr

/-- A frame: rotation and origin. -/
structure Frame (F : Type) where
  r : M3 F
  p : V3 F
  deriving DecidableEq, Repr

/-- A fixed transform: a translation and a unit quaternion (R257). -/
structure Transform (F : Type) where
  t : V3 F
  q : Q4 F
  deriving DecidableEq, Repr

/-- The operations of a format. -/
structure Arith (F : Type) where
  add : F → F → F
  sub : F → F → F
  mul : F → F → F
  div : F → F → F
  neg : F → F
  sqrt : F → F
  sin : F → F
  cos : F → F
  lt : F → F → Bool
  zero : F
  one : F

/-- binary64 (R257, R290). [DESIGN CHOICE, log 106] -/
def a64 : Arith F64 := ⟨dAdd, dSub, dMul, dDiv, dNeg, dSqrt, Config.sin64, Config.cos64, dLt, 0, dOfInt 1⟩
/-- binary32 (R367). [DESIGN CHOICE, log 106] -/
def a32 : Arith F32 := ⟨fAdd, fSub, fMul, fDiv, fNeg, fSqrt, Config.sin32, Config.cos32, fLt, 0, fOfInt 1⟩

variable {F : Type} (A : Arith F)

/-- Twice a number. -/
def Arith.two (x : F) : F := A.add x x
/-- The greater and the lesser of two. -/
def Arith.max (x y : F) : F := if A.lt x y then y else x
def Arith.min (x y : F) : F := if A.lt y x then y else x
/-- A number within 0 and 1. -/
def Arith.unit (x : F) : F := A.max A.zero (A.min A.one x)
/-- A sum, terms in order. -/
def Arith.sum (l : List F) : F := l.foldl A.add A.zero
/-- A dot product of two lists, terms in order. -/
def Arith.dotL (a b : List F) : F := A.sum (List.zipWith A.mul a b)

def Arith.v0 : V3 F := ⟨A.zero, A.zero, A.zero⟩
def Arith.vadd (u v : V3 F) : V3 F := ⟨A.add u.x v.x, A.add u.y v.y, A.add u.z v.z⟩
def Arith.vsub (u v : V3 F) : V3 F := ⟨A.sub u.x v.x, A.sub u.y v.y, A.sub u.z v.z⟩
def Arith.vneg (v : V3 F) : V3 F := ⟨A.neg v.x, A.neg v.y, A.neg v.z⟩
def Arith.scale (k : F) (v : V3 F) : V3 F := ⟨A.mul k v.x, A.mul k v.y, A.mul k v.z⟩
def Arith.dot (u v : V3 F) : F := A.add (A.add (A.mul u.x v.x) (A.mul u.y v.y)) (A.mul u.z v.z)
def Arith.cross (u v : V3 F) : V3 F :=
  ⟨A.sub (A.mul u.y v.z) (A.mul u.z v.y), A.sub (A.mul u.z v.x) (A.mul u.x v.z), A.sub (A.mul u.x v.y) (A.mul u.y v.x)⟩
def Arith.norm (v : V3 F) : F := A.sqrt (A.dot v v)
/-- A vector over its length. -/
def Arith.dir (v : V3 F) : V3 F := let n := A.norm v; ⟨A.div v.x n, A.div v.y n, A.div v.z n⟩

def Arith.ident : M3 F := ⟨⟨A.one, A.zero, A.zero⟩, ⟨A.zero, A.one, A.zero⟩, ⟨A.zero, A.zero, A.one⟩⟩
/-- A matrix on a vector. -/
def Arith.mulV (m : M3 F) (v : V3 F) : V3 F := A.vadd (A.vadd (A.scale v.x m.a) (A.scale v.y m.b)) (A.scale v.z m.c)
/-- The transpose on a vector. -/
def Arith.mulTV (m : M3 F) (v : V3 F) : V3 F := ⟨A.dot m.a v, A.dot m.b v, A.dot m.c v⟩
def Arith.mulM (m n : M3 F) : M3 F := ⟨A.mulV m n.a, A.mulV m n.b, A.mulV m n.c⟩

/-- The product of two quaternions. -/
def Arith.qmul (p q : Q4 F) : Q4 F :=
  ⟨A.sub (A.mul p.w q.w) (A.dot p.v q.v), A.vadd (A.vadd (A.scale p.w q.v) (A.scale q.w p.v)) (A.cross p.v q.v)⟩
def Arith.qconj (q : Q4 F) : Q4 F := ⟨q.w, A.vneg q.v⟩
/-- The rotation matrix of a unit quaternion. -/
def Arith.qmat (q : Q4 F) : M3 F :=
  let t := fun x y => A.two (A.mul x y)
  let d := fun x y => A.sub A.one (A.add (t x x) (t y y))
  let v := q.v
  ⟨⟨d v.y v.z, A.add (t v.x v.y) (t q.w v.z), A.sub (t v.x v.z) (t q.w v.y)⟩,
    ⟨A.sub (t v.x v.y) (t q.w v.z), d v.x v.z, A.add (t v.y v.z) (t q.w v.x)⟩,
    ⟨A.add (t v.x v.z) (t q.w v.y), A.sub (t v.y v.z) (t q.w v.x), d v.x v.y⟩⟩

/-- A rotation about the local z axis. -/
def Arith.rotZ (m : M3 F) (q : F) : M3 F :=
  let c := A.cos q
  let s := A.sin q
  ⟨A.vadd (A.scale c m.a) (A.scale s m.b), A.vsub (A.scale c m.b) (A.scale s m.a), m.c⟩

/-- A fixed transform after a frame. -/
def Arith.place (f : Frame F) (t : Transform F) : Frame F := ⟨A.mulM f.r (A.qmat t.q), A.vadd f.p (A.mulV f.r t.t)⟩

/-- A point of a frame. -/
def Arith.point (f : Frame F) (v : V3 F) : V3 F := A.vadd f.p (A.mulV f.r v)

/-- A vector from a list. -/
def Arith.ofList (l : List F) : V3 F := ⟨l.getD 0 A.zero, l.getD 1 A.zero, l.getD 2 A.zero⟩

/-- The components of a vector. -/
def V3.toList {F : Type} (v : V3 F) : List F := [v.x, v.y, v.z]

-- Serial chains (R257)

/-- A joint of a serial chain: none for a revolute joint, the travel in m per radian of joint position for a prismatic one, which the
length that stands for one turn gives (R332); and the fixed transform before it. -/
structure ChainJoint (F : Type) where
  travel : Option F
  fix : Transform F
  deriving DecidableEq, Repr

/-- The frame of the link that a joint moves: revolute about the local z axis or prismatic along it (R257). -/
def Arith.jointFrame (f : Frame F) (j : ChainJoint F) (q : F) : Frame F :=
  let g := A.place f j.fix
  match j.travel with
  | some k => ⟨g.r, A.vadd g.p (A.scale (A.mul k q) g.r.c)⟩
  | none => ⟨A.rotZ g.r q, g.p⟩

/-- The frames of the links that the joints move, first to last (R257). -/
def Arith.linkFrames (f : Frame F) : List (ChainJoint F) → List F → List (Frame F)
  | [], _ => []
  | j :: r, q => let g := A.jointFrame f j (q.getD 0 A.zero); g :: linkFrames g r q.tail

/-- The frame of link `k`: 0 the base, k the link that joint k moves (R365). -/
def Arith.frameOf (base : Frame F) (fs : List (Frame F)) (k : Nat) : Frame F := (base :: fs).getD k base

/-- One column of the geometric Jacobian at a point of link `k`: linear and angular part of joint `i` (R257). -/
def Arith.jacColumn (js : List (ChainJoint F)) (fs : List (Frame F)) (k : Nat) (p : V3 F) (i : Nat) : V3 F × V3 F :=
  match js[i]?, fs[i]? with
  | some j, some f =>
    if k ≤ i then (A.v0, A.v0)
    else match j.travel with
      | some t => (A.scale t f.r.c, A.v0)
      | none => (A.cross f.r.c (A.vsub p f.p), f.r.c)
  | _, _ => (A.v0, A.v0)

/-- The geometric Jacobian at a point of link `k`, a column per joint (R257). -/
def Arith.jacobian (js : List (ChainJoint F)) (fs : List (Frame F)) (k : Nat) (p : V3 F) : List (V3 F × V3 F) :=
  (List.range js.length).map (A.jacColumn js fs k p)

/-- A Jacobian on joint rates: linear and angular velocity. -/
def Arith.jacRate (J : List (V3 F × V3 F)) (qd : List F) : V3 F × V3 F :=
  (J.zip qd).foldl (fun a x => (A.vadd a.1 (A.scale x.2 x.1.1), A.vadd a.2 (A.scale x.2 x.1.2))) (A.v0, A.v0)

/-- The time derivative of a column of the Jacobian: the axis turns with its link, the arm of the joint moves (R257). -/
def Arith.jacColumnDot (js : List (ChainJoint F)) (fs : List (Frame F)) (qd : List F) (k : Nat) (p : V3 F) (i : Nat) : V3 F × V3 F :=
  match js[i]?, fs[i]? with
  | some j, some f =>
    if k ≤ i then (A.v0, A.v0)
    else
      let own := A.jacRate (A.jacobian js fs (i + 1) f.p) qd
      let zd := A.cross own.2 f.r.c
      match j.travel with
      | some t => (A.scale t zd, A.v0)
      | none =>
        let v := (A.jacRate (A.jacobian js fs k p) qd).1
        (A.vadd (A.cross zd (A.vsub p f.p)) (A.cross f.r.c (A.vsub v own.1)), zd)
  | _, _ => (A.v0, A.v0)

/-- The time derivative of the Jacobian at a point of link `k` (R257). -/
def Arith.jacobianDot (js : List (ChainJoint F)) (fs : List (Frame F)) (qd : List F) (k : Nat) (p : V3 F) : List (V3 F × V3 F) :=
  (List.range js.length).map (A.jacColumnDot js fs qd k p)

-- Closest points of two segments (R247, R377)

/-- The closest points of the segments p1–q1 and p2–q2: the parameters along them are clamped in turn. [DESIGN CHOICE, log 76] -/
def Arith.closest (p1 q1 p2 q2 : V3 F) : V3 F × V3 F :=
  let d1 := A.vsub q1 p1
  let d2 := A.vsub q2 p2
  let r := A.vsub p1 p2
  let a := A.dot d1 d1
  let e := A.dot d2 d2
  let b := A.dot d1 d2
  let c := A.dot d1 r
  let f := A.dot d2 r
  let pos := fun x => A.lt A.zero x
  let ratio := fun x y => if pos y then A.unit (A.div x y) else A.zero
  let den := A.sub (A.mul a e) (A.mul b b)
  let s0 := if pos e then (if pos a then ratio (A.sub (A.mul b f) (A.mul c e)) den else A.zero) else ratio (A.neg c) a
  let t0 := if pos e then A.div (A.add (A.mul b s0) f) e else A.zero
  let s := if A.lt t0 A.zero then ratio (A.neg c) a else if A.lt A.one t0 then ratio (A.sub b c) a else s0
  (A.vadd p1 (A.scale s d1), A.vadd p2 (A.scale (A.unit t0) d2))

end Sys2Proof.Machine
end

