-- ==== Sys2Proof/Machine/RegMap.lean ====
section
/-! DEFINITION. The register map: the pages of R61, the common registers of R62 and every block-specific register of the
block chapters, with its access type (R9), the bits that a write takes, its reset value and whether that value is the
image's or the factory's. Register offsets have the names of the spec. -/

namespace Sys2Proof

/-- The register pages of R61: sixteen hub-view classes, nine cell-view classes. -/
inductive Pg where
  | mod | cus | pwr | crt | tb | ptp | eth | wlc | wls | enc | ffy | adc | prg | stp | sio | spr | plf | kin | arm | sdp | tds | mnt | saf | sec | lsp
  deriving DecidableEq, Repr

/-- The access types of R9 (WS registers are staged writes of the cell view, R52). -/
inductive Acc where
  | ro | rw | wo | w1c
  deriving DecidableEq, Repr

/-- One register, or `n` equal registers at consecutive words: `mask` holds the bits that a write takes; `image` marks a
value that the cell image, the firmware image or the factory gives (R566 keeps it). -/
structure RegRow where
  off : Nat
  n : Nat
  acc : Acc
  mask : Word
  reset : Word
  image : Bool
  deriving DecidableEq, Repr

/-- A row of the fixed columns of one page (R61 and the block chapters): class, instances, `CAP`, reset of `CTRL`, whether
`CTRL` refuses 0 in `EN` and 1 in `SRST`, and whether `MODE.SEL` = 0b01 exists. -/
structure PgRow where
  cell : Bool
  cls : Nat
  count : Nat
  cap : Word
  ctrl : Word
  ctrlFixed : Bool
  assisted : Bool
  deriving DecidableEq, Repr

/-- The pages of R61. -/
def pgRow : Pg → PgRow
  | .mod => ⟨false, 0x0, 1, 0x0, 1, true, false⟩
  | .cus => ⟨false, 0x1, 2, 0x0, 1, true, false⟩
  | .pwr => ⟨false, 0x2, 1, 0x0, 1, true, false⟩
  | .crt => ⟨false, 0x3, 5, 0x0, 1, true, false⟩
  | .tb => ⟨false, 0x4, 1, 0x3, 1, false, true⟩
  | .ptp => ⟨false, 0x5, 2, 0x0, 0, false, false⟩
  | .eth => ⟨false, 0x6, 2, 0x0, 1, false, false⟩
  | .wlc => ⟨false, 0x7, 2, 0x1, 1, false, false⟩
  | .wls => ⟨false, 0x8, 1, 0x3, 1, false, true⟩
  | .enc => ⟨false, 0x9, 16, 0x107, 1, false, true⟩
  | .ffy => ⟨false, 0xA, 16, 0x100, 1, false, true⟩
  | .adc => ⟨false, 0xB, 4, 0x100, 1, false, true⟩
  | .prg => ⟨false, 0xC, 32, 0x100, 1, false, true⟩
  | .stp => ⟨false, 0xD, 16, 0x7, 0, false, false⟩
  | .sio => ⟨false, 0xE, 1, 0x0, 1, true, false⟩
  | .spr => ⟨false, 0xF, 2, 0x0, 1, false, false⟩
  | .plf => ⟨true, 0x0, 1, 0x200, 1, false, false⟩
  | .kin => ⟨true, 0x1, 12, 0x100, 1, false, true⟩
  | .arm => ⟨true, 0x2, 12, 0x1, 1, false, true⟩
  | .sdp => ⟨true, 0x3, 1, 0x801, 1, false, true⟩
  | .tds => ⟨true, 0x4, 1, 0x40, 1, true, false⟩
  | .mnt => ⟨true, 0x5, 1, 0x104, 1, true, true⟩
  | .saf => ⟨true, 0x6, 1, 0x0, 1, true, false⟩
  | .sec => ⟨true, 0x7, 1, 0x0, 1, true, false⟩
  | .lsp => ⟨true, 0x8, 3, 0x0, 1, false, false⟩

/-- All pages, hub view first, in the order of their classes. -/
def allPages : List Pg :=
  [.mod, .cus, .pwr, .crt, .tb, .ptp, .eth, .wlc, .wls, .enc, .ffy, .adc, .prg, .stp, .sio, .spr, .plf, .kin, .arm, .sdp, .tds, .mnt, .saf, .sec, .lsp]

/-- `ID` (R62). -/
def Reg.ID : Nat := 0x0
/-- `CAP` (R62). -/
def Reg.CAP : Nat := 0x4
/-- `CTRL` (R62). -/
def Reg.CTRL : Nat := 0x8
/-- `MODE` (R62). -/
def Reg.MODE : Nat := 0xC
/-- `READY` (R62). -/
def Reg.READY : Nat := 0x10
/-- `HEALTH` (R62). -/
def Reg.HEALTH : Nat := 0x14
/-- `IRQ_STAT` (R62). -/
def Reg.IRQ_STAT : Nat := 0x18
/-- `IRQ_EN` (R62). -/
def Reg.IRQ_EN : Nat := 0x1C
/-- `IRQ_SET` (R62). -/
def Reg.IRQ_SET : Nat := 0x20
/-- `ERR` (R62). -/
def Reg.ERR : Nat := 0x24
/-- `UNLOCK` (R62). -/
def Reg.UNLOCK : Nat := 0x28
/-- `CHG` (R62). -/
def Reg.CHG : Nat := 0x2C
/-- `CNT_OVF` (R62). -/
def Reg.CNT_OVF : Nat := 0x30
/-- `CNT_THR_A` (R62). -/
def Reg.CNT_THR_A : Nat := 0x34
/-- `CNT_THR_B` (R62). -/
def Reg.CNT_THR_B : Nat := 0x38
/-- `CNT` (R62). -/
def Reg.CNT : Nat := 0x40
/-- `MOD.WINSEL` (R68). -/
def Reg.MOD_WINSEL : Nat := 0x80
/-- `MOD.STAGE_PEND` (R68). -/
def Reg.MOD_STAGE_PEND : Nat := 0x84
/-- `MOD.ACCSTAT` (R68). -/
def Reg.MOD_ACCSTAT : Nat := 0x88
/-- `MOD.ACCADDR` (R68). -/
def Reg.MOD_ACCADDR : Nat := 0x8C
/-- `MOD.STAGE_CUT` (R68). -/
def Reg.MOD_STAGE_CUT : Nat := 0x90
/-- `MOD.STAGE_TAG` (R68). -/
def Reg.MOD_STAGE_TAG : Nat := 0x94
/-- `MOD.BOOT` (R550). -/
def Reg.MOD_BOOT : Nat := 0xA0
/-- `MOD.PWRON` (R550). -/
def Reg.MOD_PWRON : Nat := 0xA4
/-- `MOD.SUMMARY` (R550). -/
def Reg.MOD_SUMMARY : Nat := 0xA8
/-- `MOD.SERIAL_LO` (R550). -/
def Reg.MOD_SERIAL_LO : Nat := 0xAC
/-- `MOD.SERIAL_HI` (R550). -/
def Reg.MOD_SERIAL_HI : Nat := 0xB0
/-- `CUS.STAT` (R461). -/
def Reg.CUS_STAT : Nat := 0x80
/-- `CUS.VERDICT` (R461). -/
def Reg.CUS_VERDICT : Nat := 0x84
/-- `CUS.LANEVOTE` (R461). -/
def Reg.CUS_LANEVOTE : Nat := 0x88
/-- `CUS.CMD` (R461). -/
def Reg.CUS_CMD : Nat := 0x8C
/-- `CUS.STEPCLASS` (R461). -/
def Reg.CUS_STEPCLASS : Nat := 0x90
/-- `CUS.FW_GO` (R461). -/
def Reg.CUS_FW_GO : Nat := 0x94
/-- `CUS.LOAD` (R461). -/
def Reg.CUS_LOAD : Nat := 0x98
/-- `CUS.LOAD_STAT` (R461). -/
def Reg.CUS_LOAD_STAT : Nat := 0x9C
/-- `CUS.IMG_STORED` (R461). -/
def Reg.CUS_IMG_STORED : Nat := 0xA0
/-- `PWR.VIN` (R549). -/
def Reg.PWR_VIN : Nat := 0x80
/-- `PWR.IIN` (R549). -/
def Reg.PWR_IIN : Nat := 0x84
/-- `PWR.PIN` (R549). -/
def Reg.PWR_PIN : Nat := 0x88
/-- `PWR.STAT` (R549). -/
def Reg.PWR_STAT : Nat := 0x8C
/-- `PWR.TBASE` (R549). -/
def Reg.PWR_TBASE : Nat := 0x90
/-- `PWR.TWARN` (R549). -/
def Reg.PWR_TWARN : Nat := 0x94
/-- `PWR.CART` (R549). -/
def Reg.PWR_CART : Nat := 0x98
/-- `PWR.VCORE` (R549). -/
def Reg.PWR_VCORE : Nat := 0xAC
/-- `CRT.STAT` (R462). -/
def Reg.CRT_STAT : Nat := 0x80
/-- `CRT.CMD` (R462). -/
def Reg.CRT_CMD : Nat := 0x84
/-- `CRT.CFG` (R462). -/
def Reg.CRT_CFG : Nat := 0x88
/-- `CRT.FW` (R462). -/
def Reg.CRT_FW : Nat := 0x8C
/-- `CRT.SERIAL_LO` (R462). -/
def Reg.CRT_SERIAL_LO : Nat := 0x90
/-- `CRT.SERIAL_HI` (R462). -/
def Reg.CRT_SERIAL_HI : Nat := 0x94
/-- `CRT.XFER` (R462). -/
def Reg.CRT_XFER : Nat := 0x98
/-- `CRT.TRACK` (R462). -/
def Reg.CRT_TRACK : Nat := 0x9C
/-- `CRT.FENCE_TAG` (R462). -/
def Reg.CRT_FENCE_TAG : Nat := 0xA0
/-- `TB.NOW_LO` (R100). -/
def Reg.TB_NOW_LO : Nat := 0x80
/-- `TB.NOW_HI` (R100). -/
def Reg.TB_NOW_HI : Nat := 0x84
/-- `TB.STATE` (R100). -/
def Reg.TB_STATE : Nat := 0x88
/-- `TB.RATE` (R100). -/
def Reg.TB_RATE : Nat := 0x8C
/-- `TB.KP` (R100). -/
def Reg.TB_KP : Nat := 0x90
/-- `TB.KI` (R100). -/
def Reg.TB_KI : Nat := 0x94
/-- `TB.JUMP_THR` (R100). -/
def Reg.TB_JUMP_THR : Nat := 0x98
/-- `TB.PD_STEP` (R100). -/
def Reg.TB_PD_STEP : Nat := 0x9C
/-- `TB.STEP_VAL_LO` (R100). -/
def Reg.TB_STEP_VAL_LO : Nat := 0xA0
/-- `TB.STEP_VAL_HI` (R100). -/
def Reg.TB_STEP_VAL_HI : Nat := 0xA4
/-- `TB.STEP_ACK` (R100). -/
def Reg.TB_STEP_ACK : Nat := 0xA8
/-- `TB.PLANT_OFS_LO` (R100). -/
def Reg.TB_PLANT_OFS_LO : Nat := 0xAC
/-- `TB.PLANT_OFS_HI` (R100). -/
def Reg.TB_PLANT_OFS_HI : Nat := 0xB0
/-- `TB.HA_OFS` (R100). -/
def Reg.TB_HA_OFS : Nat := 0xB4
/-- `TB.HA_RATE` (R100). -/
def Reg.TB_HA_RATE : Nat := 0xB8
/-- `TB.HA_CFG` (R100). -/
def Reg.TB_HA_CFG : Nat := 0xBC
/-- `TB.LINE_CFG` (R100). -/
def Reg.TB_LINE_CFG : Nat := 0xC0
/-- `TB.LINE_STAT` (R100). -/
def Reg.TB_LINE_STAT : Nat := 0xC4
/-- `TB.LINE_LO` (R100). -/
def Reg.TB_LINE_LO : Nat := 0xC8
/-- `TB.LINE_HI` (R100). -/
def Reg.TB_LINE_HI : Nat := 0xCC
/-- `TB.LINE_SET_LO` (R100). -/
def Reg.TB_LINE_SET_LO : Nat := 0xD0
/-- `TB.LINE_SET_HI` (R100). -/
def Reg.TB_LINE_SET_HI : Nat := 0xD4
/-- `PTP.CFG` (R101). -/
def Reg.PTP_CFG : Nat := 0x80
/-- `PTP.INTV` (R101). -/
def Reg.PTP_INTV : Nat := 0x84
/-- `PTP.PRIO` (R101). -/
def Reg.PTP_PRIO : Nat := 0x88
/-- `PTP.PSTATE` (R101). -/
def Reg.PTP_PSTATE : Nat := 0x8C
/-- `PTP.OFFSET` (R101). -/
def Reg.PTP_OFFSET : Nat := 0x90
/-- `PTP.MPD` (R101). -/
def Reg.PTP_MPD : Nat := 0x94
/-- `PTP.ASYM_COR` (R101). -/
def Reg.PTP_ASYM_COR : Nat := 0x98
/-- `PTP.GM_LO` (R101). -/
def Reg.PTP_GM_LO : Nat := 0x9C
/-- `PTP.GM_HI` (R101). -/
def Reg.PTP_GM_HI : Nat := 0xA0
/-- `ETH.MAC_LO` (R102). -/
def Reg.ETH_MAC_LO : Nat := 0x80
/-- `ETH.MAC_HI` (R102). -/
def Reg.ETH_MAC_HI : Nat := 0x84
/-- `ETH.LINK` (R102). -/
def Reg.ETH_LINK : Nat := 0x88
/-- `ETH.PHYCFG` (R102). -/
def Reg.ETH_PHYCFG : Nat := 0x8C
/-- `ETH.VLAN` (R102). -/
def Reg.ETH_VLAN : Nat := 0x90
/-- `ETH.IPV4` (R102). -/
def Reg.ETH_IPV4 : Nat := 0x94
/-- `WLC.CFG` (R125). -/
def Reg.WLC_CFG : Nat := 0x80
/-- `WLC.STAT` (R125). -/
def Reg.WLC_STAT : Nat := 0x84
/-- `WLC.EQ_SEL` (R125). -/
def Reg.WLC_EQ_SEL : Nat := 0x88
/-- `WLC.EQ_DATA` (R125). -/
def Reg.WLC_EQ_DATA : Nat := 0x8C
/-- `WLC.EQ_DEF` (R125). -/
def Reg.WLC_EQ_DEF : Nat := 0x90
/-- `WLC.DRIFT_LIM` (R125). -/
def Reg.WLC_DRIFT_LIM : Nat := 0x94
/-- `WLC.RETRAIN` (R125). -/
def Reg.WLC_RETRAIN : Nat := 0x98
/-- `WLC.TRAIN_STAT` (R125). -/
def Reg.WLC_TRAIN_STAT : Nat := 0x9C
/-- `WLS.CYCLE` (R168). -/
def Reg.WLS_CYCLE : Nat := 0x80
/-- `WLS.STATIC` (R168). -/
def Reg.WLS_STATIC : Nat := 0x84
/-- `WLS.DYN` (R168). -/
def Reg.WLS_DYN : Nat := 0x88
/-- `WLS.TAIL` (R168). -/
def Reg.WLS_TAIL : Nat := 0x8C
/-- `WLS.FB_END` (R168). -/
def Reg.WLS_FB_END : Nat := 0x90
/-- `WLS.STATE` (R168). -/
def Reg.WLS_STATE : Nat := 0x94
/-- `WLS.SWITCH` (R168). -/
def Reg.WLS_SWITCH : Nat := 0x98
/-- `WLS.NACK_LO` (R168). -/
def Reg.WLS_NACK_LO : Nat := 0x9C
/-- `WLS.NACK_HI` (R168). -/
def Reg.WLS_NACK_HI : Nat := 0xA0
/-- `WLS.CHHEALTH` (R168). -/
def Reg.WLS_CHHEALTH : Nat := 0xA4
/-- `WLS.HB_SEL` (R168). -/
def Reg.WLS_HB_SEL : Nat := 0xA8
/-- `WLS.HB_CFG` (R168). -/
def Reg.WLS_HB_CFG : Nat := 0xAC
/-- `WLS.HB_ADDR` (R168). -/
def Reg.WLS_HB_ADDR : Nat := 0xB0
/-- `WLS.HB_DATA` (R168). -/
def Reg.WLS_HB_DATA : Nat := 0xB4
/-- `WLS.HB_STAT` (R168). -/
def Reg.WLS_HB_STAT : Nat := 0xB8
/-- `WLS.RX_FILT` (R168). -/
def Reg.WLS_RX_FILT : Nat := 0xBC
/-- `WLS.RX_STAT` (R168). -/
def Reg.WLS_RX_STAT : Nat := 0xC0
/-- `WLS.RX_TIME` (R168). -/
def Reg.WLS_RX_TIME : Nat := 0xC4
/-- `WLS.RX_DATA` (R168). -/
def Reg.WLS_RX_DATA : Nat := 0xC8
/-- `WLS.RX_POP` (R168). -/
def Reg.WLS_RX_POP : Nat := 0xCC
/-- `ENC.CFG` (R490). -/
def Reg.ENC_CFG : Nat := 0x80
/-- `ENC.CFG2` (R490). -/
def Reg.ENC_CFG2 : Nat := 0x84
/-- `ENC.CPR` (R490). -/
def Reg.ENC_CPR : Nat := 0x88
/-- `ENC.COUNT` (R490). -/
def Reg.ENC_COUNT : Nat := 0x8C
/-- `ENC.SYNC_COUNT` (R490). -/
def Reg.ENC_SYNC_COUNT : Nat := 0x90
/-- `ENC.STAT` (R490). -/
def Reg.ENC_STAT : Nat := 0x94
/-- `ENC.LATCH` (R490). -/
def Reg.ENC_LATCH : Nat := 0x98
/-- `ENC.LATCH_T` (R490). -/
def Reg.ENC_LATCH_T : Nat := 0x9C
/-- `ENC.LATCH_SEQ` (R490). -/
def Reg.ENC_LATCH_SEQ : Nat := 0xA0
/-- `ENC.IDX_DELTA` (R490). -/
def Reg.ENC_IDX_DELTA : Nat := 0xA4
/-- `ENC.INTERVAL` (R490). -/
def Reg.ENC_INTERVAL : Nat := 0xA8
/-- `ENC.LASTEDGE` (R490). -/
def Reg.ENC_LASTEDGE : Nat := 0xAC
/-- `ENC.QERR` (R490). -/
def Reg.ENC_QERR : Nat := 0xB0
/-- `ENC.SSI_CFG` (R490). -/
def Reg.ENC_SSI_CFG : Nat := 0xB4
/-- `ENC.SSI_DELAY` (R490). -/
def Reg.ENC_SSI_DELAY : Nat := 0xB8
/-- `ENC.SSI_RAW` (R490). -/
def Reg.ENC_SSI_RAW : Nat := 0xBC
/-- `ENC.EMU_N` (R490). -/
def Reg.ENC_EMU_N : Nat := 0xC0
/-- `ENC.EMU_M` (R490). -/
def Reg.ENC_EMU_M : Nat := 0xC4
/-- `ENC.PRESET` (R490). -/
def Reg.ENC_PRESET : Nat := 0xC8
/-- `ENC.CMD` (R490). -/
def Reg.ENC_CMD : Nat := 0xCC
/-- `ENC.HA_POS` (R490). -/
def Reg.ENC_HA_POS : Nat := 0xD0
/-- `FFY.CFG` (R491). -/
def Reg.FFY_CFG : Nat := 0x80
/-- `FFY.WIDTH` (R491). -/
def Reg.FFY_WIDTH : Nat := 0x84
/-- `FFY.END` (R491). -/
def Reg.FFY_END : Nat := 0x88
/-- `FFY.STAT` (R491). -/
def Reg.FFY_STAT : Nat := 0x8C
/-- `FFY.LSEL` (R491). -/
def Reg.FFY_LSEL : Nat := 0x90
/-- `FFY.LPOS_LO` (R491). -/
def Reg.FFY_LPOS_LO : Nat := 0x94
/-- `FFY.LPOS_HI` (R491). -/
def Reg.FFY_LPOS_HI : Nat := 0x98
/-- `FFY.LCTL` (R491). -/
def Reg.FFY_LCTL : Nat := 0x9C
/-- `FFY.STEP_LO` (R491). -/
def Reg.FFY_STEP_LO : Nat := 0xA0
/-- `FFY.STEP_HI` (R491). -/
def Reg.FFY_STEP_HI : Nat := 0xA4
/-- `FFY.LAST_T` (R491). -/
def Reg.FFY_LAST_T : Nat := 0xA8
/-- `FFY.CMD` (R491). -/
def Reg.FFY_CMD : Nat := 0xAC
/-- `FFY.HA_TIME` (R491). -/
def Reg.FFY_HA_TIME : Nat := 0xB0
/-- `ADC.CFG` (R529). -/
def Reg.ADC_CFG : Nat := 0x80
/-- `ADC.SEQ` (R529). -/
def Reg.ADC_SEQ : Nat := 0x84
/-- `ADC.SEQ2` (R529). -/
def Reg.ADC_SEQ2 : Nat := 0x8C
/-- `ADC.INJ_CFG` (R529). -/
def Reg.ADC_INJ_CFG : Nat := 0x90
/-- `ADC.INJ_SEQ` (R529). -/
def Reg.ADC_INJ_SEQ : Nat := 0x94
/-- `ADC.CAL` (R529). -/
def Reg.ADC_CAL : Nat := 0x98
/-- `ADC.CMD` (R529). -/
def Reg.ADC_CMD : Nat := 0x9C
/-- `ADC.STAT` (R529). -/
def Reg.ADC_STAT : Nat := 0xA0
/-- `ADC.AGREE` (R529). -/
def Reg.ADC_AGREE : Nat := 0xA4
/-- `ADC.HA_SEL` (R529). -/
def Reg.ADC_HA_SEL : Nat := 0xA8
/-- `ADC.RES_W` (R529). -/
def Reg.ADC_RES_W : Nat := 0xAC
/-- `ADC.INJ` (R529). -/
def Reg.ADC_INJ : Nat := 0xC0
/-- `ADC.INCFG` (R529). -/
def Reg.ADC_INCFG : Nat := 0xE0
/-- `ADC.POS` (R529). -/
def Reg.ADC_POS : Nat := 0x100
/-- `PRG.CFG` (R508). -/
def Reg.PRG_CFG : Nat := 0x80
/-- `PRG.STAT` (R508). -/
def Reg.PRG_STAT : Nat := 0x84
/-- `PRG.TGT_LO` (R508). -/
def Reg.PRG_TGT_LO : Nat := 0x88
/-- `PRG.TGT_HI` (R508). -/
def Reg.PRG_TGT_HI : Nat := 0x8C
/-- `PRG.VMAX` (R508). -/
def Reg.PRG_VMAX : Nat := 0x90
/-- `PRG.AMAX` (R508). -/
def Reg.PRG_AMAX : Nat := 0x94
/-- `PRG.JMAX` (R508). -/
def Reg.PRG_JMAX : Nat := 0x98
/-- `PRG.CMD` (R508). -/
def Reg.PRG_CMD : Nat := 0x9C
/-- `PRG.POS_LO` (R508). -/
def Reg.PRG_POS_LO : Nat := 0xA0
/-- `PRG.POS_HI` (R508). -/
def Reg.PRG_POS_HI : Nat := 0xA4
/-- `PRG.VEL` (R508). -/
def Reg.PRG_VEL : Nat := 0xA8
/-- `PRG.ACC` (R508). -/
def Reg.PRG_ACC : Nat := 0xAC
/-- `PRG.SLO_LO` (R508). -/
def Reg.PRG_SLO_LO : Nat := 0xB0
/-- `PRG.SLO_HI` (R508). -/
def Reg.PRG_SLO_HI : Nat := 0xB4
/-- `PRG.SHI_LO` (R508). -/
def Reg.PRG_SHI_LO : Nat := 0xB8
/-- `PRG.SHI_HI` (R508). -/
def Reg.PRG_SHI_HI : Nat := 0xBC
/-- `PRG.FERR_LIM` (R508). -/
def Reg.PRG_FERR_LIM : Nat := 0xC0
/-- `PRG.FB` (R508). -/
def Reg.PRG_FB : Nat := 0xC4
/-- `PRG.HA_CFG` (R508). -/
def Reg.PRG_HA_CFG : Nat := 0xC8
/-- `PRG.HA_POS_LO` (R508). -/
def Reg.PRG_HA_POS_LO : Nat := 0xCC
/-- `PRG.HA_POS_HI` (R508). -/
def Reg.PRG_HA_POS_HI : Nat := 0xD0
/-- `PRG.HA_STAT` (R508). -/
def Reg.PRG_HA_STAT : Nat := 0xD4
/-- `STP.CFG` (R509). -/
def Reg.STP_CFG : Nat := 0x80
/-- `STP.SCALE` (R509). -/
def Reg.STP_SCALE : Nat := 0x84
/-- `STP.STAT` (R509). -/
def Reg.STP_STAT : Nat := 0x88
/-- `STP.TSEL` (R509). -/
def Reg.STP_TSEL : Nat := 0x8C
/-- `STP.TDATA` (R509). -/
def Reg.STP_TDATA : Nat := 0x90
/-- `STP.STEPCFG` (R509). -/
def Reg.STP_STEPCFG : Nat := 0x94
/-- `STP.REF` (R509). -/
def Reg.STP_REF : Nat := 0x98
/-- `STP.IMEAS` (R509). -/
def Reg.STP_IMEAS : Nat := 0x9C
/-- `STP.CMD` (R509). -/
def Reg.STP_CMD : Nat := 0xA0
/-- `SIO.IN_STAT` (R429). -/
def Reg.SIO_IN_STAT : Nat := 0x80
/-- `SIO.IN_RAW` (R429). -/
def Reg.SIO_IN_RAW : Nat := 0x84
/-- `SIO.OUT_STAT` (R429). -/
def Reg.SIO_OUT_STAT : Nat := 0x88
/-- `SIO.OUT_FAULT` (R429). -/
def Reg.SIO_OUT_FAULT : Nat := 0x8C
/-- `SIO.TP_CFG` (R429). -/
def Reg.SIO_TP_CFG : Nat := 0x90
/-- `SIO.TP_LAST` (R429). -/
def Reg.SIO_TP_LAST : Nat := 0x94
/-- `SIO.RST_STAT` (R429). -/
def Reg.SIO_RST_STAT : Nat := 0x98
/-- `SIO.SVC` (R429). -/
def Reg.SIO_SVC : Nat := 0x9C
/-- `SIO.SI_CFG` (R429). -/
def Reg.SIO_SI_CFG : Nat := 0x100
/-- `SIO.SO_CFG` (R429). -/
def Reg.SIO_SO_CFG : Nat := 0x140
/-- `SIO.RST_CFG` (R429). -/
def Reg.SIO_RST_CFG : Nat := 0x150
/-- `SPR.MAP` (R463). -/
def Reg.SPR_MAP : Nat := 0x80
/-- `SPR.FAULTS` (R463). -/
def Reg.SPR_FAULTS : Nat := 0x84
/-- `SPR.CMD` (R463). -/
def Reg.SPR_CMD : Nat := 0x88
/-- `PLF.CFG` (R309). -/
def Reg.PLF_CFG : Nat := 0x80
/-- `PLF.DEADLINE` (R309). -/
def Reg.PLF_DEADLINE : Nat := 0x84
/-- `PLF.TOL_LO` (R309). -/
def Reg.PLF_TOL_LO : Nat := 0x88
/-- `PLF.TOL_HI` (R309). -/
def Reg.PLF_TOL_HI : Nat := 0x8C
/-- `PLF.FLOOR_LO` (R309). -/
def Reg.PLF_FLOOR_LO : Nat := 0x90
/-- `PLF.FLOOR_HI` (R309). -/
def Reg.PLF_FLOOR_HI : Nat := 0x94
/-- `PLF.STOP_RATE` (R309). -/
def Reg.PLF_STOP_RATE : Nat := 0x98
/-- `PLF.TS_JERK` (R309). -/
def Reg.PLF_TS_JERK : Nat := 0x9C
/-- `PLF.STAT` (R309). -/
def Reg.PLF_STAT : Nat := 0xA0
/-- `PLF.ARMS` (R309). -/
def Reg.PLF_ARMS : Nat := 0xA4
/-- `PLF.LAST` (R309). -/
def Reg.PLF_LAST : Nat := 0xA8
/-- `PLF.LAST_TAG` (R309). -/
def Reg.PLF_LAST_TAG : Nat := 0xAC
/-- `PLF.AGREED` (R309). -/
def Reg.PLF_AGREED : Nat := 0xB0
/-- `PLF.RESID` (R309). -/
def Reg.PLF_RESID : Nat := 0xB4
/-- `PLF.MU` (R309). -/
def Reg.PLF_MU : Nat := 0xB8
/-- `PLF.ITER_SUM` (R309). -/
def Reg.PLF_ITER_SUM : Nat := 0xBC
/-- `PLF.PIVOT_SUBST` (R309). -/
def Reg.PLF_PIVOT_SUBST : Nat := 0xC0
/-- `PLF.SOLVE_US` (R309). -/
def Reg.PLF_SOLVE_US : Nat := 0xC4
/-- `PLF.SWITCH` (R309). -/
def Reg.PLF_SWITCH : Nat := 0xC8
/-- `PLF.PATID_ACT` (R309). -/
def Reg.PLF_PATID_ACT : Nat := 0xCC
/-- `PLF.PATID_NEXT` (R309). -/
def Reg.PLF_PATID_NEXT : Nat := 0xD0
/-- `PLF.PAT_ROWS` (R309). -/
def Reg.PLF_PAT_ROWS : Nat := 0xD4
/-- `PLF.PAT_NNZ` (R309). -/
def Reg.PLF_PAT_NNZ : Nat := 0xD8
/-- `PLF.PAT_TFACT` (R309). -/
def Reg.PLF_PAT_TFACT : Nat := 0xDC
/-- `PLF.PAT_TITER` (R309). -/
def Reg.PLF_PAT_TITER : Nat := 0xE0
/-- `PLF.PROG` (R309). -/
def Reg.PLF_PROG : Nat := 0xE4
/-- `KIN.ID_CFG` (R273). -/
def Reg.KIN_ID_CFG : Nat := 0x80
/-- `KIN.LAMBDA` (R273). -/
def Reg.KIN_LAMBDA : Nat := 0x84
/-- `KIN.W_TRK` (R273). -/
def Reg.KIN_W_TRK : Nat := 0x88
/-- `KIN.W_PROG` (R273). -/
def Reg.KIN_W_PROG : Nat := 0x8C
/-- `KIN.W_EFF` (R273). -/
def Reg.KIN_W_EFF : Nat := 0x90
/-- `KIN.W_TERM` (R273). -/
def Reg.KIN_W_TERM : Nat := 0x94
/-- `KIN.ID_STAT` (R273). -/
def Reg.KIN_ID_STAT : Nat := 0x98
/-- `KIN.SLOTS` (R273). -/
def Reg.KIN_SLOTS : Nat := 0x9C
/-- `KIN.TRQ_ACT` (R273). -/
def Reg.KIN_TRQ_ACT : Nat := 0xA0
/-- `KIN.RESID` (R273). -/
def Reg.KIN_RESID : Nat := 0xA4
/-- `KIN.HA_CFG` (R273). -/
def Reg.KIN_HA_CFG : Nat := 0xA8
/-- `KIN.PAY` (R273). -/
def Reg.KIN_PAY : Nat := 0xB0
/-- `KIN.LO` (R273). -/
def Reg.KIN_LO : Nat := 0xD8
/-- `KIN.HI` (R273). -/
def Reg.KIN_HI : Nat := 0x100
/-- `ARM.WR_IDX` (R230). -/
def Reg.ARM_WR_IDX : Nat := 0x80
/-- `ARM.RD_IDX` (R230). -/
def Reg.ARM_RD_IDX : Nat := 0x84
/-- `ARM.RPT_WR` (R230). -/
def Reg.ARM_RPT_WR : Nat := 0x88
/-- `ARM.RPT_RD` (R230). -/
def Reg.ARM_RPT_RD : Nat := 0x8C
/-- `ARM.STAT` (R230). -/
def Reg.ARM_STAT : Nat := 0x90
/-- `ARM.CUR_SEQ` (R230). -/
def Reg.ARM_CUR_SEQ : Nat := 0x94
/-- `ARM.CMD` (R230). -/
def Reg.ARM_CMD : Nat := 0x98
/-- `ARM.OVR` (R230). -/
def Reg.ARM_OVR : Nat := 0x9C
/-- `ARM.HFLAG` (R230). -/
def Reg.ARM_HFLAG : Nat := 0xA0
/-- `ARM.LASTERR` (R230). -/
def Reg.ARM_LASTERR : Nat := 0xA4
/-- `SDP.SCALE` (R344). -/
def Reg.SDP_SCALE : Nat := 0x80
/-- `SDP.STAT` (R344). -/
def Reg.SDP_STAT : Nat := 0x84
/-- `SDP.SWITCH` (R344). -/
def Reg.SDP_SWITCH : Nat := 0x88
/-- `SDP.PSEL` (R344). -/
def Reg.SDP_PSEL : Nat := 0x8C
/-- `SDP.PDATA` (R344). -/
def Reg.SDP_PDATA : Nat := 0x90
/-- `SDP.PCOMMIT` (R344). -/
def Reg.SDP_PCOMMIT : Nat := 0x94
/-- `SDP.FAULT` (R344). -/
def Reg.SDP_FAULT : Nat := 0x98
/-- `SDP.PHASE_A` (R344). -/
def Reg.SDP_PHASE_A : Nat := 0x9C
/-- `SDP.PHASE_B` (R344). -/
def Reg.SDP_PHASE_B : Nat := 0xA0
/-- `SDP.SPLICE` (R344). -/
def Reg.SDP_SPLICE : Nat := 0xA4
/-- `SDP.HA_SEQ` (R344). -/
def Reg.SDP_HA_SEQ : Nat := 0xA8
/-- `SDP.KBANK_ACT` (R344). -/
def Reg.SDP_KBANK_ACT : Nat := 0xAC
/-- `SDP.KBANK_NEXT` (R344). -/
def Reg.SDP_KBANK_NEXT : Nat := 0xB0
/-- `SDP.KSEL` (R344). -/
def Reg.SDP_KSEL : Nat := 0xB4
/-- `SDP.KINFO_A` (R344). -/
def Reg.SDP_KINFO_A : Nat := 0xB8
/-- `SDP.KINFO_B` (R344). -/
def Reg.SDP_KINFO_B : Nat := 0xBC
/-- `SDP.JCFG` (R344). -/
def Reg.SDP_JCFG : Nat := 0x100
/-- `SDP.HA_TRQ` (R344). -/
def Reg.SDP_HA_TRQ : Nat := 0x280
/-- `TDS.TSEL` (R363). -/
def Reg.TDS_TSEL : Nat := 0x80
/-- `TDS.TINFO_A` (R363). -/
def Reg.TDS_TINFO_A : Nat := 0x84
/-- `TDS.TINFO_B` (R363). -/
def Reg.TDS_TINFO_B : Nat := 0x88
/-- `TDS.FSEL` (R363). -/
def Reg.TDS_FSEL : Nat := 0x8C
/-- `TDS.FINFO` (R363). -/
def Reg.TDS_FINFO : Nat := 0x90
/-- `TDS.LASTVOID` (R363). -/
def Reg.TDS_LASTVOID : Nat := 0x94
/-- `MNT.SSM_A` (R393). -/
def Reg.MNT_SSM_A : Nat := 0x80
/-- `MNT.SSM_B` (R393). -/
def Reg.MNT_SSM_B : Nat := 0x84
/-- `MNT.STAT` (R393). -/
def Reg.MNT_STAT : Nat := 0x88
/-- `MNT.SWITCH` (R393). -/
def Reg.MNT_SWITCH : Nat := 0x8C
/-- `MNT.PAIRID_ACT` (R393). -/
def Reg.MNT_PAIRID_ACT : Nat := 0x90
/-- `MNT.PAIRID_NEXT` (R393). -/
def Reg.MNT_PAIRID_NEXT : Nat := 0x94
/-- `MNT.COUNTS` (R393). -/
def Reg.MNT_COUNTS : Nat := 0x98
/-- `MNT.PSEL` (R393). -/
def Reg.MNT_PSEL : Nat := 0x9C
/-- `MNT.PINFO` (R393). -/
def Reg.MNT_PINFO : Nat := 0xA0
/-- `MNT.PDIST` (R393). -/
def Reg.MNT_PDIST : Nat := 0xA4
/-- `MNT.PK` (R393). -/
def Reg.MNT_PK : Nat := 0xA8
/-- `MNT.GSEL` (R393). -/
def Reg.MNT_GSEL : Nat := 0xAC
/-- `MNT.GSTAT` (R393). -/
def Reg.MNT_GSTAT : Nat := 0xB0
/-- `MNT.GLOST` (R393). -/
def Reg.MNT_GLOST : Nat := 0xB4
/-- `MNT.ZOCC_LO` (R393). -/
def Reg.MNT_ZOCC_LO : Nat := 0xB8
/-- `MNT.ZOCC_HI` (R393). -/
def Reg.MNT_ZOCC_HI : Nat := 0xBC
/-- `MNT.STSEL` (R393). -/
def Reg.MNT_STSEL : Nat := 0xC0
/-- `MNT.STPT` (R393). -/
def Reg.MNT_STPT : Nat := 0xC4
/-- `MNT.STDATA` (R393). -/
def Reg.MNT_STDATA : Nat := 0xC8
/-- `MNT.HT_CFG` (R393). -/
def Reg.MNT_HT_CFG : Nat := 0xD0
/-- `MNT.HT_SEL` (R393). -/
def Reg.MNT_HT_SEL : Nat := 0xD4
/-- `MNT.HT_DATA` (R393). -/
def Reg.MNT_HT_DATA : Nat := 0xD8
/-- `MNT.HT_COMMIT` (R393). -/
def Reg.MNT_HT_COMMIT : Nat := 0xDC
/-- `MNT.HT_STAT` (R393). -/
def Reg.MNT_HT_STAT : Nat := 0xE0
/-- `MNT.ARMK` (R393). -/
def Reg.MNT_ARMK : Nat := 0x100
/-- `MNT.ARMCFG` (R393). -/
def Reg.MNT_ARMCFG : Nat := 0x130
/-- `SAF.MOTION` (R430). -/
def Reg.SAF_MOTION : Nat := 0x80
/-- `SAF.SWRST` (R430). -/
def Reg.SAF_SWRST : Nat := 0x84
/-- `SAF.GCFG` (R430). -/
def Reg.SAF_GCFG : Nat := 0x88
/-- `SAF.LASTDEM` (R430). -/
def Reg.SAF_LASTDEM : Nat := 0x8C
/-- `SAF.ASEL` (R430). -/
def Reg.SAF_ASEL : Nat := 0x90
/-- `SAF.ACFG_A` (R430). -/
def Reg.SAF_ACFG_A : Nat := 0x94
/-- `SAF.ACFG_B` (R430). -/
def Reg.SAF_ACFG_B : Nat := 0x98
/-- `SAF.ACFG_C` (R430). -/
def Reg.SAF_ACFG_C : Nat := 0x9C
/-- `SAF.JSEL` (R430). -/
def Reg.SAF_JSEL : Nat := 0xA0
/-- `SAF.JCFG_A` (R430). -/
def Reg.SAF_JCFG_A : Nat := 0xA4
/-- `SAF.JCFG_B` (R430). -/
def Reg.SAF_JCFG_B : Nat := 0xA8
/-- `SAF.ARMST` (R430). -/
def Reg.SAF_ARMST : Nat := 0x100
/-- `SAF.ARMV` (R430). -/
def Reg.SAF_ARMV : Nat := 0x130
/-- `SEC.PWD` (R431). -/
def Reg.SEC_PWD : Nat := 0x80
/-- `SEC.PWD_CMD` (R431). -/
def Reg.SEC_PWD_CMD : Nat := 0x90
/-- `SEC.PWD_STAT` (R431). -/
def Reg.SEC_PWD_STAT : Nat := 0x94
/-- `SEC.SESS_KEY` (R431). -/
def Reg.SEC_SESS_KEY : Nat := 0x98
/-- `SEC.LOG_STAT` (R431). -/
def Reg.SEC_LOG_STAT : Nat := 0x9C
/-- `SEC.LOG_SEQ` (R431). -/
def Reg.SEC_LOG_SEQ : Nat := 0xA0
/-- `SEC.LOG_ACK` (R431). -/
def Reg.SEC_LOG_ACK : Nat := 0xA4
/-- `SEC.LOG_SEL` (R431). -/
def Reg.SEC_LOG_SEL : Nat := 0xA8
/-- `SEC.LOG_WSEL` (R431). -/
def Reg.SEC_LOG_WSEL : Nat := 0xAC
/-- `SEC.LOG_DATA` (R431). -/
def Reg.SEC_LOG_DATA : Nat := 0xB0
/-- `SEC.IMG_STAT` (R431). -/
def Reg.SEC_IMG_STAT : Nat := 0xB4
/-- `SEC.CFG_CRC` (R431). -/
def Reg.SEC_CFG_CRC : Nat := 0xB8
/-- `LSP.MAP` (R464). -/
def Reg.LSP_MAP : Nat := 0x80
/-- `LSP.FAULTS` (R464). -/
def Reg.LSP_FAULTS : Nat := 0x84
/-- `LSP.CMD` (R464). -/
def Reg.LSP_CMD : Nat := 0x88

/-- The common registers of R62; `ID`, `CAP` and `CTRL` take their reset values from the page. -/
def commonRows : List RegRow :=
  [⟨0x0, 1, .ro, 0x0, 0x0, false⟩, ⟨0x4, 1, .ro, 0x0, 0x0, false⟩,
   ⟨0x8, 1, .rw, 0x3, 0x0, false⟩, ⟨0xC, 1, .rw, 0x3, 0x0, false⟩,
   ⟨0x10, 1, .ro, 0x0, 0x0, false⟩, ⟨0x14, 1, .ro, 0x0, 0x0, false⟩,
   ⟨0x18, 1, .w1c, 0xFFFFFF0F, 0x0, false⟩, ⟨0x1C, 1, .rw, 0xFFFFFF0F, 0x0, false⟩,
   ⟨0x20, 1, .wo, 0xFFFFFF0F, 0x0, false⟩, ⟨0x24, 1, .ro, 0x0, 0x0, false⟩,
   ⟨0x28, 1, .wo, 0xFFFFFFFF, 0x0, false⟩, ⟨0x2C, 1, .ro, 0x0, 0x0, false⟩,
   ⟨0x30, 1, .w1c, 0xFFFF, 0x0, false⟩, ⟨0x34, 1, .rw, 0xFFFFFF, 0x0, false⟩,
   ⟨0x38, 1, .rw, 0xFFFFFF, 0x0, false⟩, ⟨0x40, 16, .ro, 0x0, 0x0, false⟩]

/-- The block-specific registers of the `MOD` page. -/
def rowsMod : List RegRow :=
  [⟨0x80, 1, .rw, 0x7, 0x0, false⟩, ⟨0x84, 1, .ro, 0x0, 0x0, false⟩,
   ⟨0x88, 1, .w1c, 0x3F, 0x0, false⟩, ⟨0x8C, 1, .ro, 0x0, 0x0, false⟩,
   ⟨0x90, 1, .ro, 0x0, 0x0, false⟩, ⟨0x94, 1, .ro, 0x0, 0x0, false⟩,
   ⟨0xA0, 1, .ro, 0x0, 0x0, false⟩, ⟨0xA4, 1, .ro, 0x0, 0x0, false⟩,
   ⟨0xA8, 1, .ro, 0x0, 0x0, false⟩, ⟨0xAC, 1, .ro, 0x0, 0x0, true⟩,
   ⟨0xB0, 1, .ro, 0x0, 0x0, true⟩]

/-- The block-specific registers of the `CUS` page. -/
def rowsCus : List RegRow :=
  [⟨0x80, 1, .ro, 0x0, 0x0, false⟩, ⟨0x84, 1, .ro, 0x0, 0x0, false⟩,
   ⟨0x88, 1, .ro, 0x0, 0x0, false⟩, ⟨0x8C, 1, .wo, 0x1, 0x0, false⟩,
   ⟨0x90, 1, .ro, 0x0, 0x0, false⟩, ⟨0x94, 1, .wo, 0xFFFF0003, 0x0, false⟩,
   ⟨0x98, 1, .wo, 0x800000FF, 0x0, false⟩, ⟨0x9C, 1, .ro, 0x0, 0x0, false⟩,
   ⟨0xA0, 1, .ro, 0x0, 0x0, false⟩]

/-- The block-specific registers of the `PWR` page. -/
def rowsPwr : List RegRow :=
  [⟨0x80, 1, .ro, 0x0, 0x0, false⟩, ⟨0x84, 1, .ro, 0x0, 0x0, false⟩,
   ⟨0x88, 1, .ro, 0x0, 0x0, false⟩, ⟨0x8C, 1, .ro, 0x0, 0x0, false⟩,
   ⟨0x90, 1, .ro, 0x0, 0x0, false⟩, ⟨0x94, 1, .rw, 0xFFFF, 0x2BC, false⟩,
   ⟨0x98, 5, .ro, 0x0, 0x0, false⟩, ⟨0xAC, 3, .ro, 0x0, 0x0, false⟩]

/-- The block-specific registers of the `CRT` page. -/
def rowsCrt : List RegRow :=
  [⟨0x80, 1, .ro, 0x0, 0x0, false⟩, ⟨0x84, 1, .wo, 0xFF0F, 0x0, false⟩,
   ⟨0x88, 1, .rw, 0x1, 0x1, false⟩, ⟨0x8C, 1, .ro, 0x0, 0x0, false⟩,
   ⟨0x90, 1, .ro, 0x0, 0x0, true⟩, ⟨0x94, 1, .ro, 0x0, 0x0, true⟩,
   ⟨0x98, 1, .ro, 0x0, 0x0, false⟩, ⟨0x9C, 1, .ro, 0x0, 0x0, false⟩,
   ⟨0xA0, 1, .ro, 0x0, 0x0, false⟩]

/-- The block-specific registers of the `TB` page. -/
def rowsTb : List RegRow :=
  [⟨0x80, 1, .ro, 0x0, 0x0, false⟩, ⟨0x84, 1, .ro, 0x0, 0x0, false⟩,
   ⟨0x88, 1, .ro, 0x0, 0x0, false⟩, ⟨0x8C, 1, .ro, 0x0, 0x0, false⟩,
   ⟨0x90, 1, .rw, 0xFFFFFF, 0xB333, false⟩, ⟨0x94, 1, .rw, 0xFFFFFF, 0x4CCD, false⟩,
   ⟨0x98, 1, .rw, 0x3FFFFFFF, 0x3E8, false⟩, ⟨0x9C, 1, .rw, 0x3FFF, 0x32, false⟩,
   ⟨0xA0, 1, .ro, 0x0, 0x0, false⟩, ⟨0xA4, 1, .ro, 0x0, 0x0, false⟩,
   ⟨0xA8, 1, .wo, 0x1, 0x0, false⟩, ⟨0xAC, 1, .ro, 0x0, 0x0, false⟩,
   ⟨0xB0, 1, .ro, 0x0, 0x0, false⟩, ⟨0xB4, 1, .wo, 0xFFFFFFFF, 0x0, false⟩,
   ⟨0xB8, 1, .rw, 0xFFFFFFFF, 0x0, false⟩, ⟨0xBC, 1, .rw, 0xFFFF0001, 0xFA00000, false⟩,
   ⟨0xC0, 1, .rw, 0xF3, 0x0, false⟩, ⟨0xC4, 1, .ro, 0x0, 0x0, false⟩,
   ⟨0xC8, 1, .ro, 0x0, 0x0, false⟩, ⟨0xCC, 1, .ro, 0x0, 0x0, false⟩] ++
  [⟨0xD0, 1, .rw, 0xFFFFFFFF, 0x0, false⟩, ⟨0xD4, 1, .rw, 0xFFFFFFFF, 0x0, false⟩]

/-- The block-specific registers of the `PTP` page. -/
def rowsPtp : List RegRow :=
  [⟨0x80, 1, .rw, 0xFF01F7, 0x1, false⟩, ⟨0x84, 1, .rw, 0xFFFF, 0x3DDD, false⟩,
   ⟨0x88, 1, .rw, 0xFFFFFF, 0xF88080, false⟩, ⟨0x8C, 1, .ro, 0x0, 0x1, false⟩,
   ⟨0x90, 1, .ro, 0x0, 0x0, false⟩, ⟨0x94, 1, .ro, 0x0, 0x0, false⟩,
   ⟨0x98, 1, .rw, 0xFFFFFFFF, 0x0, false⟩, ⟨0x9C, 1, .ro, 0x0, 0x0, false⟩,
   ⟨0xA0, 1, .ro, 0x0, 0x0, false⟩]

/-- The block-specific registers of the `ETH` page. -/
def rowsEth : List RegRow :=
  [⟨0x80, 1, .ro, 0x0, 0x0, true⟩, ⟨0x84, 1, .ro, 0x0, 0x0, true⟩,
   ⟨0x88, 1, .ro, 0x0, 0x0, false⟩, ⟨0x8C, 1, .rw, 0x1, 0x0, false⟩,
   ⟨0x90, 1, .rw, 0xFFFF, 0x0, false⟩, ⟨0x94, 1, .rw, 0xFFFFFFFF, 0x0, false⟩]

/-- The block-specific registers of the `WLC` page. -/
def rowsWlc : List RegRow :=
  [⟨0x80, 1, .rw, 0x1, 0x1, false⟩, ⟨0x84, 1, .ro, 0x0, 0x0, false⟩,
   ⟨0x88, 1, .rw, 0x3F, 0x0, false⟩, ⟨0x8C, 1, .ro, 0x0, 0x0, false⟩,
   ⟨0x90, 1, .rw, 0xF3FFFF, 0x400000, false⟩, ⟨0x94, 1, .rw, 0x3F0F, 0x802, false⟩,
   ⟨0x98, 1, .wo, 0x33F, 0x0, false⟩, ⟨0x9C, 1, .ro, 0x0, 0x0, false⟩]

/-- The block-specific registers of the `WLS` page. -/
def rowsWls : List RegRow :=
  [⟨0x80, 1, .ro, 0x0, 0x0, false⟩, ⟨0x84, 1, .ro, 0x0, 0x0, false⟩,
   ⟨0x88, 1, .ro, 0x0, 0x0, false⟩, ⟨0x8C, 1, .ro, 0x0, 0x0, false⟩,
   ⟨0x90, 1, .ro, 0x0, 0x0, false⟩, ⟨0x94, 1, .ro, 0x0, 0x0, false⟩,
   ⟨0x98, 1, .wo, 0xF, 0x0, false⟩, ⟨0x9C, 1, .ro, 0x0, 0x0, false⟩,
   ⟨0xA0, 1, .ro, 0x0, 0x0, false⟩, ⟨0xA4, 1, .ro, 0x0, 0x0, false⟩,
   ⟨0xA8, 1, .rw, 0xF, 0x0, false⟩, ⟨0xAC, 1, .rw, 0x80FF0FFF, 0x0, false⟩,
   ⟨0xB0, 1, .rw, 0xFF, 0x0, false⟩, ⟨0xB4, 1, .rw, 0xFFFFFFFF, 0x0, false⟩,
   ⟨0xB8, 1, .ro, 0x0, 0x0, false⟩, ⟨0xBC, 1, .rw, 0x3FF03FF, 0x0, false⟩,
   ⟨0xC0, 1, .ro, 0x0, 0x0, false⟩, ⟨0xC4, 1, .ro, 0x0, 0x0, false⟩,
   ⟨0xC8, 1, .ro, 0x0, 0x0, false⟩, ⟨0xCC, 1, .wo, 0x1, 0x0, false⟩]

/-- The block-specific registers of the `ENC` page. -/
def rowsEnc : List RegRow :=
  [⟨0x80, 1, .rw, 0xFFFF1B, 0x40200, false⟩, ⟨0x84, 1, .rw, 0xFFFF, 0x0, false⟩,
   ⟨0x88, 1, .rw, 0x7FFFFFFF, 0x0, false⟩, ⟨0x8C, 1, .ro, 0x0, 0x0, false⟩,
   ⟨0x90, 1, .ro, 0x0, 0x0, false⟩, ⟨0x94, 1, .ro, 0x0, 0x0, false⟩,
   ⟨0x98, 1, .ro, 0x0, 0x0, false⟩, ⟨0x9C, 1, .ro, 0x0, 0x0, false⟩,
   ⟨0xA0, 1, .ro, 0x0, 0x0, false⟩, ⟨0xA4, 1, .ro, 0x0, 0x0, false⟩,
   ⟨0xA8, 1, .ro, 0x0, 0xFFFFFFFF, false⟩, ⟨0xAC, 1, .ro, 0x0, 0x0, false⟩,
   ⟨0xB0, 1, .ro, 0x0, 0x0, false⟩, ⟨0xB4, 1, .rw, 0xFFFFFF7F, 0x140A19, false⟩,
   ⟨0xB8, 1, .ro, 0x0, 0x0, false⟩, ⟨0xBC, 1, .ro, 0x0, 0x0, false⟩,
   ⟨0xC0, 1, .rw, 0x80FFFFFF, 0x1, false⟩, ⟨0xC4, 1, .rw, 0xFFFFFF, 0x1, false⟩,
   ⟨0xC8, 1, .rw, 0xFFFFFFFF, 0x0, false⟩, ⟨0xCC, 1, .wo, 0x7, 0x0, false⟩] ++
  [⟨0xD0, 1, .rw, 0xFFFFFFFF, 0x0, false⟩]

/-- The block-specific registers of the `FFY` page. -/
def rowsFfy : List RegRow :=
  [⟨0x80, 1, .rw, 0x7F1, 0x0, false⟩, ⟨0x84, 1, .rw, 0xFFFFF, 0x3E8, false⟩,
   ⟨0x88, 1, .rw, 0xFF, 0xFF, false⟩, ⟨0x8C, 1, .ro, 0x0, 0x0, false⟩,
   ⟨0x90, 1, .rw, 0xFF, 0x0, false⟩, ⟨0x94, 1, .rw, 0xFFFFFFFF, 0x0, false⟩,
   ⟨0x98, 1, .rw, 0xFFFFFFFF, 0x0, false⟩, ⟨0x9C, 1, .rw, 0x3, 0x3, false⟩,
   ⟨0xA0, 1, .rw, 0xFFFFFFFF, 0x0, false⟩, ⟨0xA4, 1, .rw, 0xFFFFFFFF, 0x0, false⟩,
   ⟨0xA8, 1, .ro, 0x0, 0x0, false⟩, ⟨0xAC, 1, .wo, 0x7, 0x0, false⟩,
   ⟨0xB0, 1, .rw, 0xFFFFFFFF, 0x0, false⟩]

/-- The block-specific registers of the `ADC` page. -/
def rowsAdc : List RegRow :=
  [⟨0x80, 1, .rw, 0xFFF, 0x0, false⟩, ⟨0x84, 2, .rw, 0x3FFFFFFF, 0x0, false⟩,
   ⟨0x8C, 1, .rw, 0xFFFFF, 0x0, false⟩, ⟨0x90, 1, .rw, 0x3F7, 0x0, false⟩,
   ⟨0x94, 1, .rw, 0x1F1F1F1F, 0x0, false⟩, ⟨0x98, 1, .rw, 0xFFFF, 0x64, false⟩,
   ⟨0x9C, 1, .wo, 0x7, 0x0, false⟩, ⟨0xA0, 1, .ro, 0x0, 0x0, false⟩,
   ⟨0xA4, 1, .rw, 0xFF, 0x8, false⟩, ⟨0xA8, 1, .rw, 0x1F, 0x0, false⟩,
   ⟨0xAC, 2, .ro, 0x0, 0x0, false⟩, ⟨0xC0, 8, .ro, 0x0, 0x0, false⟩,
   ⟨0xE0, 6, .rw, 0xFF0F, 0x0, false⟩, ⟨0x100, 16, .ro, 0x0, 0x0, false⟩]

/-- The block-specific registers of the `PRG` page. -/
def rowsPrg : List RegRow :=
  [⟨0x80, 1, .rw, 0x3, 0x0, false⟩, ⟨0x84, 1, .ro, 0x0, 0x3, false⟩,
   ⟨0x88, 1, .rw, 0xFFFFFFFF, 0x0, false⟩, ⟨0x8C, 1, .rw, 0xFFFFFFFF, 0x0, false⟩,
   ⟨0x90, 1, .rw, 0xFFFFFFFF, 0x447A0000, false⟩, ⟨0x94, 1, .rw, 0xFFFFFFFF, 0x461C4000, false⟩,
   ⟨0x98, 1, .rw, 0xFFFFFFFF, 0x49742400, false⟩, ⟨0x9C, 1, .wo, 0x7, 0x0, false⟩,
   ⟨0xA0, 1, .ro, 0x0, 0x0, false⟩, ⟨0xA4, 1, .ro, 0x0, 0x0, false⟩,
   ⟨0xA8, 1, .ro, 0x0, 0x0, false⟩, ⟨0xAC, 1, .ro, 0x0, 0x0, false⟩,
   ⟨0xB0, 1, .rw, 0xFFFFFFFF, 0x0, false⟩, ⟨0xB4, 1, .rw, 0xFFFFFFFF, 0x80000000, false⟩,
   ⟨0xB8, 1, .rw, 0xFFFFFFFF, 0xFFFFFFFF, false⟩, ⟨0xBC, 1, .rw, 0xFFFFFFFF, 0x7FFFFFFF, false⟩,
   ⟨0xC0, 1, .rw, 0xFFFFFFFF, 0x0, false⟩, ⟨0xC4, 1, .ro, 0x0, 0x0, false⟩,
   ⟨0xC8, 1, .rw, 0x1, 0x0, false⟩, ⟨0xCC, 1, .wo, 0xFFFFFFFF, 0x0, false⟩] ++
  [⟨0xD0, 1, .wo, 0xFFFFFFFF, 0x0, false⟩, ⟨0xD4, 1, .ro, 0x0, 0x0, false⟩]

/-- The block-specific registers of the `STP` page. -/
def rowsStp : List RegRow :=
  [⟨0x80, 1, .rw, 0x10F1F03, 0x40000, false⟩, ⟨0x84, 1, .rw, 0xFFF, 0xFFF, false⟩,
   ⟨0x88, 1, .ro, 0x0, 0x0, false⟩, ⟨0x8C, 1, .rw, 0xFF, 0x0, false⟩,
   ⟨0x90, 1, .rw, 0xFFF, 0x0, false⟩, ⟨0x94, 1, .rw, 0xF, 0xA, false⟩,
   ⟨0x98, 1, .ro, 0x0, 0x0, false⟩, ⟨0x9C, 1, .ro, 0x0, 0x0, false⟩,
   ⟨0xA0, 1, .wo, 0x1, 0x0, false⟩]

/-- The block-specific registers of the `SIO` page. -/
def rowsSio : List RegRow :=
  [⟨0x80, 1, .ro, 0x0, 0x0, false⟩, ⟨0x84, 1, .ro, 0x0, 0x0, false⟩,
   ⟨0x88, 1, .ro, 0x0, 0x0, false⟩, ⟨0x8C, 1, .ro, 0x0, 0x0, false⟩,
   ⟨0x90, 1, .rw, 0x3FF, 0x12C, false⟩, ⟨0x94, 1, .ro, 0x0, 0x0, false⟩,
   ⟨0x98, 1, .ro, 0x0, 0x0, false⟩, ⟨0x9C, 1, .ro, 0x0, 0x7080, false⟩,
   ⟨0x100, 16, .ro, 0x0, 0x0, true⟩, ⟨0x140, 4, .ro, 0x0, 0x0, true⟩,
   ⟨0x150, 1, .ro, 0x0, 0x0, true⟩]

/-- The block-specific registers of the `SPR` page. -/
def rowsSpr : List RegRow :=
  [⟨0x80, 1, .ro, 0x0, 0x0, false⟩, ⟨0x84, 1, .ro, 0x0, 0x0, false⟩,
   ⟨0x88, 1, .wo, 0xC000F00F, 0x0, false⟩]

/-- The block-specific registers of the `PLF` page. -/
def rowsPlf : List RegRow :=
  [⟨0x80, 1, .rw, 0x3FF0F0F, 0x3C0305, false⟩, ⟨0x84, 1, .rw, 0xFFFF, 0x0, false⟩,
   ⟨0x88, 1, .rw, 0xFFFFFFFF, 0xE2308C3A, false⟩, ⟨0x8C, 1, .rw, 0xFFFFFFFF, 0x3E45798E, false⟩,
   ⟨0x90, 1, .rw, 0xFFFFFFFF, 0x812DEA11, false⟩, ⟨0x94, 1, .rw, 0xFFFFFFFF, 0x3D719799, false⟩,
   ⟨0x98, 1, .rw, 0xFFFFFFFF, 0x42480000, false⟩, ⟨0x9C, 1, .rw, 0xFFFFFFFF, 0x49742400, false⟩,
   ⟨0xA0, 1, .ro, 0x0, 0x0, false⟩, ⟨0xA4, 1, .ro, 0x0, 0x0, false⟩,
   ⟨0xA8, 1, .ro, 0x0, 0x0, false⟩, ⟨0xAC, 1, .ro, 0x0, 0x0, false⟩,
   ⟨0xB0, 1, .ro, 0x0, 0x0, false⟩, ⟨0xB4, 1, .ro, 0x0, 0x0, false⟩,
   ⟨0xB8, 1, .ro, 0x0, 0x0, false⟩, ⟨0xBC, 1, .ro, 0x0, 0x0, false⟩,
   ⟨0xC0, 1, .ro, 0x0, 0x0, false⟩, ⟨0xC4, 1, .ro, 0x0, 0x0, false⟩,
   ⟨0xC8, 1, .wo, 0x1, 0x0, false⟩, ⟨0xCC, 1, .ro, 0x0, 0x0, false⟩] ++
  [⟨0xD0, 1, .ro, 0x0, 0x0, false⟩, ⟨0xD4, 1, .ro, 0x0, 0x0, false⟩,
   ⟨0xD8, 1, .ro, 0x0, 0x0, false⟩, ⟨0xDC, 1, .ro, 0x0, 0x0, false⟩,
   ⟨0xE0, 1, .ro, 0x0, 0x0, false⟩, ⟨0xE4, 1, .ro, 0x0, 0x0, false⟩]

/-- The block-specific registers of the `KIN` page. -/
def rowsKin : List RegRow :=
  [⟨0x80, 1, .rw, 0x1, 0x1, false⟩, ⟨0x84, 1, .rw, 0xFFFFFFFF, 0x418937, false⟩,
   ⟨0x88, 1, .rw, 0xFFFFFFFF, 0x447A0000, false⟩, ⟨0x8C, 1, .rw, 0xFFFFFFFF, 0x41200000, false⟩,
   ⟨0x90, 1, .rw, 0xFFFFFFFF, 0x358637BD, false⟩, ⟨0x94, 1, .rw, 0xFFFFFFFF, 0x41200000, false⟩,
   ⟨0x98, 1, .ro, 0x0, 0x0, false⟩, ⟨0x9C, 1, .ro, 0x0, 0x0, false⟩,
   ⟨0xA0, 1, .ro, 0x0, 0x0, false⟩, ⟨0xA4, 1, .ro, 0x0, 0x0, false⟩,
   ⟨0xA8, 1, .rw, 0xFFFF, 0x3E8, false⟩, ⟨0xB0, 10, .rw, 0xFFFFFFFF, 0x0, false⟩,
   ⟨0xD8, 10, .ro, 0x0, 0x0, true⟩, ⟨0x100, 10, .ro, 0x0, 0x0, true⟩]

/-- The block-specific registers of the `ARM` page. -/
def rowsArm : List RegRow :=
  [⟨0x80, 1, .rw, 0x3FF, 0x0, false⟩, ⟨0x84, 1, .ro, 0x0, 0x0, false⟩,
   ⟨0x88, 1, .ro, 0x0, 0x0, false⟩, ⟨0x8C, 1, .rw, 0x7FF, 0x0, false⟩,
   ⟨0x90, 1, .ro, 0x0, 0x1, false⟩, ⟨0x94, 1, .ro, 0x0, 0x0, false⟩,
   ⟨0x98, 1, .wo, 0x7, 0x0, false⟩, ⟨0x9C, 1, .rw, 0x1FFFF, 0x10000, false⟩,
   ⟨0xA0, 1, .rw, 0xFFFF, 0x0, false⟩, ⟨0xA4, 1, .ro, 0x0, 0x0, false⟩]

/-- The block-specific registers of the `SDP` page. -/
def rowsSdp : List RegRow :=
  [⟨0x80, 1, .rw, 0xFFFFFFFF, 0x2000400, false⟩, ⟨0x84, 1, .ro, 0x0, 0x0, false⟩,
   ⟨0x88, 1, .wo, 0x1, 0x0, false⟩, ⟨0x8C, 1, .rw, 0x7F3F, 0x0, false⟩,
   ⟨0x90, 1, .rw, 0xFFFFFFFF, 0x0, false⟩, ⟨0x94, 1, .wo, 0xFF, 0x0, false⟩,
   ⟨0x98, 1, .ro, 0x0, 0x0, false⟩, ⟨0x9C, 1, .ro, 0x0, 0x0, false⟩,
   ⟨0xA0, 1, .ro, 0x0, 0x0, false⟩, ⟨0xA4, 1, .ro, 0x0, 0x0, false⟩,
   ⟨0xA8, 1, .wo, 0xFFFFFFFF, 0x0, false⟩, ⟨0xAC, 1, .ro, 0x0, 0x0, false⟩,
   ⟨0xB0, 1, .ro, 0x0, 0x0, false⟩, ⟨0xB4, 1, .rw, 0x3F, 0x0, false⟩,
   ⟨0xB8, 1, .ro, 0x0, 0x0, false⟩, ⟨0xBC, 1, .ro, 0x0, 0x0, false⟩,
   ⟨0x100, 96, .ro, 0x0, 0x0, true⟩, ⟨0x280, 96, .rw, 0xFFFFFFFF, 0x0, false⟩]

/-- The block-specific registers of the `TDS` page. -/
def rowsTds : List RegRow :=
  [⟨0x80, 1, .rw, 0x3FF, 0x0, false⟩, ⟨0x84, 1, .ro, 0x0, 0x0, false⟩,
   ⟨0x88, 1, .ro, 0x0, 0x0, false⟩, ⟨0x8C, 1, .rw, 0x3F, 0x0, false⟩,
   ⟨0x90, 1, .ro, 0x0, 0x0, false⟩, ⟨0x94, 1, .ro, 0x0, 0x0, false⟩]

/-- The block-specific registers of the `MNT` page. -/
def rowsMnt : List RegRow :=
  [⟨0x80, 1, .ro, 0x0, 0x0, true⟩, ⟨0x84, 1, .ro, 0x0, 0x0, true⟩,
   ⟨0x88, 1, .ro, 0x0, 0x0, false⟩, ⟨0x8C, 1, .wo, 0x1, 0x0, false⟩,
   ⟨0x90, 1, .ro, 0x0, 0x0, false⟩, ⟨0x94, 1, .ro, 0x0, 0x0, false⟩,
   ⟨0x98, 1, .ro, 0x0, 0x0, true⟩, ⟨0x9C, 1, .rw, 0x1FFF, 0x0, false⟩,
   ⟨0xA0, 1, .ro, 0x0, 0x0, false⟩, ⟨0xA4, 1, .ro, 0x0, 0x0, false⟩,
   ⟨0xA8, 1, .ro, 0x0, 0x0, false⟩, ⟨0xAC, 1, .rw, 0xF, 0x0, false⟩,
   ⟨0xB0, 1, .ro, 0x0, 0x0, false⟩, ⟨0xB4, 1, .ro, 0x0, 0x0, false⟩,
   ⟨0xB8, 1, .ro, 0x0, 0x0, false⟩, ⟨0xBC, 1, .ro, 0x0, 0x0, false⟩,
   ⟨0xC0, 1, .rw, 0xF1F, 0x0, false⟩, ⟨0xC4, 1, .ro, 0x0, 0x0, true⟩,
   ⟨0xC8, 1, .ro, 0x0, 0x0, true⟩, ⟨0xD0, 1, .rw, 0xFFFFFFFF, 0x4E200008, false⟩] ++
  [⟨0xD4, 1, .rw, 0xF7, 0x0, false⟩, ⟨0xD8, 1, .rw, 0xFFFFFFFF, 0x0, false⟩,
   ⟨0xDC, 1, .wo, 0x1, 0x0, false⟩, ⟨0xE0, 1, .ro, 0x0, 0x0, false⟩,
   ⟨0x100, 12, .ro, 0x0, 0x10000, false⟩, ⟨0x130, 12, .ro, 0x0, 0x0, true⟩]

/-- The block-specific registers of the `SAF` page. -/
def rowsSaf : List RegRow :=
  [⟨0x80, 1, .ro, 0x0, 0x0, false⟩, ⟨0x84, 1, .rw, 0x1, 0x0, false⟩,
   ⟨0x88, 1, .ro, 0x0, 0x0, true⟩, ⟨0x8C, 1, .ro, 0x0, 0x0, false⟩,
   ⟨0x90, 1, .rw, 0xF, 0x0, false⟩, ⟨0x94, 1, .ro, 0x0, 0x0, true⟩,
   ⟨0x98, 1, .ro, 0x0, 0x0, true⟩, ⟨0x9C, 1, .ro, 0x0, 0x0, true⟩,
   ⟨0xA0, 1, .rw, 0x7F, 0x0, false⟩, ⟨0xA4, 1, .ro, 0x0, 0x0, true⟩,
   ⟨0xA8, 1, .ro, 0x0, 0x0, true⟩, ⟨0x100, 12, .ro, 0x0, 0xF004, false⟩,
   ⟨0x130, 12, .ro, 0x0, 0x0, false⟩]

/-- The block-specific registers of the `SEC` page. -/
def rowsSec : List RegRow :=
  [⟨0x80, 4, .wo, 0xFFFFFFFF, 0x0, false⟩, ⟨0x90, 1, .wo, 0x3, 0x0, false⟩,
   ⟨0x94, 1, .ro, 0x0, 0x500, false⟩, ⟨0x98, 1, .ro, 0x0, 0x0, false⟩,
   ⟨0x9C, 1, .ro, 0x0, 0x0, false⟩, ⟨0xA0, 1, .ro, 0x0, 0x0, false⟩,
   ⟨0xA4, 1, .wo, 0xFFFFFFFF, 0x0, false⟩, ⟨0xA8, 1, .rw, 0xFFFFFFFF, 0x0, false⟩,
   ⟨0xAC, 1, .rw, 0x7, 0x0, false⟩, ⟨0xB0, 1, .ro, 0x0, 0x0, false⟩,
   ⟨0xB4, 1, .ro, 0x0, 0x0, false⟩, ⟨0xB8, 1, .ro, 0x0, 0x0, false⟩]

/-- The block-specific registers of the `LSP` page. -/
def rowsLsp : List RegRow :=
  [⟨0x80, 1, .ro, 0x0, 0x0, false⟩, ⟨0x84, 1, .ro, 0x0, 0x0, false⟩,
   ⟨0x88, 1, .wo, 0xC000F03F, 0x0, false⟩]

/-- The block-specific registers of a page. -/
def pgRegs : Pg → List RegRow
  | .mod => rowsMod
  | .cus => rowsCus
  | .pwr => rowsPwr
  | .crt => rowsCrt
  | .tb => rowsTb
  | .ptp => rowsPtp
  | .eth => rowsEth
  | .wlc => rowsWlc
  | .wls => rowsWls
  | .enc => rowsEnc
  | .ffy => rowsFfy
  | .adc => rowsAdc
  | .prg => rowsPrg
  | .stp => rowsStp
  | .sio => rowsSio
  | .spr => rowsSpr
  | .plf => rowsPlf
  | .kin => rowsKin
  | .arm => rowsArm
  | .sdp => rowsSdp
  | .tds => rowsTds
  | .mnt => rowsMnt
  | .saf => rowsSaf
  | .sec => rowsSec
  | .lsp => rowsLsp

/-- Window base of the cell view (R48). -/
def cellBase : Nat := 0x400000
/-- Window base of the private window (R48). -/
def privateBase : Nat := 0x800000

/-- Page address (R60): window base + class × 0x2_0000 + instance × 0x1000. -/
def pageAddr (p : Pg) (i : Nat) : Nat :=
  (if (pgRow p).cell then cellBase else 0) + (pgRow p).cls * 0x20000 + i * 0x1000

/-- The page of a class in the hub view or the cell view (R61). -/
def pageOfClass (cell : Bool) (cls : Nat) : Option Pg :=
  allPages.find? fun p => (pgRow p).cell == cell && (pgRow p).cls == cls

/-- The register that an offset in a page names, with its index among equal registers. -/
def findReg (rows : List RegRow) (off : Nat) : Option (RegRow × Nat) :=
  match rows with
  | [] => none
  | r :: rs => if r.off ≤ off ∧ off < r.off + 4 * r.n then some (r, (off - r.off) / 4) else findReg rs off

/-- The row of register `off` of page `p`, block-specific or common (R62). -/
def regRow (p : Pg) (off : Nat) : Option RegRow :=
  ((findReg (if off < 0x80 then commonRows else pgRegs p) off).map (·.1))

/-- An implemented page address: its page, instance and the register offset inside it. -/
structure RegAddr where
  pg : Pg
  inst : Nat
  off : Nat
  deriving DecidableEq, Repr

/-- Decode an offset inside one window (R60, R61): none where the class or instance is not implemented. -/
def decodeWindow (cell : Bool) (o : Nat) : Option RegAddr :=
  match pageOfClass cell (o / 0x20000) with
  | none => none
  | some p =>
    let i := o / 0x1000 % 0x20
    if i < (pgRow p).count then some ⟨p, i, o % 0x1000⟩ else none

/-- The BAR0 offset at which the hub view or the cell view shows a register; the key of the register file. -/
def regKey (p : Pg) (i off : Nat) : Nat := pageAddr p i + off

/-- `ID` (R62): class, instance, version 1.0. -/
def pageId (p : Pg) (i : Nat) : Word := BitVec.ofNat 32 ((pgRow p).cls * 0x1000000 + i * 0x10000 + 0x100)

/-- The reset value of a register (R62 and the block chapters); 0 where the page defines none (R8). [DESIGN CHOICE, log 4] -/
def regReset (p : Pg) (i off : Nat) : Word :=
  if off = Reg.ID then pageId p i
  else if off = Reg.CAP then (pgRow p).cap
  else if off = Reg.CTRL then (pgRow p).ctrl
  else match regRow p off with
    | some r => r.reset
    | none => 0

/-- The reset value at a key of the register file. [DESIGN CHOICE, log 4] -/
def keyReset (k : Nat) : Word :=
  match decodeWindow (decide (cellBase ≤ k)) (k % 0x400000) with
  | some a => regReset a.pg a.inst a.off
  | none => 0

end Sys2Proof
end

