-- ==== Sys2Proof/Machine/State.lean ====
section
/-! DEFINITION. The state of the LZ-1296 as plain data. Every field's default value is its value after reset: the module at
power good with nothing loaded (R530, R566). Registers that are not shown from a field here live in the register file. -/

namespace Sys2Proof.Machine

/-- Why the module stops. -/
inductive Fault where
  /-- A BAR2 access that runs past the end of the 256 MiB BAR: no such address exists (R45). Raised by BAR2_WRITE and
  BAR2_READ. Safe: the model stops where the spec gives no address. -/
  | outsideBar
  deriving DecidableEq, Repr

/-- Why a command has no meaning. -/
inductive Refusal where
  /-- A command that the model does not cover yet. Raised by the dispatcher only. Safe. -/
  | notModelled (mnemonic : String)
  deriving DecidableEq, Repr

/-- A copy of the input bundle as a lane has taken it: its tag, the hub that sent it, its single-hub flag (R18). -/
structure BundleCopy where
  tag : BitVec 48
  hub : Hub
  single : Bool
  deriving DecidableEq, Repr

-- Cell time, bus cycles and the host link (chapters "Carrier, Hubs and Lanes", "Cell Time …", "Register Windows …")

/-- Cell time and the bus cycle (R33, R73, R74). -/
structure Clock where
  /-- False while the module is shut down (R546). -/
  on : Bool := true
  /-- Cell time, LSB 2⁻³² ns (R73). -/
  now : Nat := 0
  /-- Cell time of the first sync instant after bring-up, LSB 2⁻³² ns, and the tag that it carries (R74, R191). -/
  ts : Nat := 0
  tag0 : BitVec 48 := 0
  /-- Whether `ts` is placed: bus cycles run. -/
  running : Bool := false
  /-- Whether the first sync instant has been reached: its tag is 0 (R33). -/
  started : Bool := false
  /-- The cycle tag of the running bus cycle (R33). -/
  tag : BitVec 48 := 0
  /-- The rate word ρ, LSB 2⁻⁸ ppb (R84). -/
  rho : Int := 0
  /-- The reference hub (R23). -/
  refHub : Hub := 0
  /-- Whether each hub drives its pins and links (R15, R445). -/
  alive : Vector Bool 2 := Vector.replicate 2 true
  /-- The receivers, in the order of R58, that report each hub as silent on the backplane (R16). -/
  reported : Vector (BitVec 5) 2 := Vector.replicate 2 0
  /-- The single-hub flag of the running cycle's input bundle (R18, R19). -/
  single : Bool := false
  /-- The copy of the input bundle that each lane has taken (R18). -/
  taken : Vector (Option BundleCopy) 3 := Vector.replicate 3 none
  /-- The count of free values drawn (the model's own). -/
  free : Nat := 0
  deriving DecidableEq, Repr

/-- A posted register write: port, BAR0 offset, value (R53). -/
structure StagedWrite where
  port : Port
  off : Nat
  val : Word
  deriving DecidableEq, Repr

/-- A host write that a port withholds credits for (R55): to BAR0, with whether it is a whole DWORD, or to BAR2. -/
inductive PostedWrite where
  | bar0 (port : Port) (off : Nat) (val : Word) (whole : Bool)
  | bar2 (port : Port) (off : Nat) (data : List Byte)
  deriving DecidableEq, Repr

/-- One MSI-X table entry (R45, R66). [PRESUMED, log 29] -/
structure MsixEntry where
  addr : BitVec 64 := 0
  data : Word := 0
  masked : Bool := true
  pend : Bool := false
  deriving DecidableEq, Repr

/-- An MSI-X message that a port has sent (R66). -/
structure MsixMessage where
  port : Port
  vector : Nat
  addr : BitVec 64
  data : Word
  deriving DecidableEq, Repr

/-- The host link: staging, access flags per port, interrupts (R53 to R68). -/
structure HostLink where
  /-- The staging FIFO, oldest first, at most 256 entries (R53). -/
  fifo : List StagedWrite := []
  /-- Posted writes stalled while the FIFO is full, oldest first (R55). -/
  stalled : List PostedWrite := []
  /-- Entries cut off, awaiting the next sync instant (R54). -/
  bundle : List StagedWrite := []
  /-- `MOD.WINSEL.CART` per port (R68). -/
  winsel : Vector (BitVec 3) 2 := Vector.replicate 2 0
  /-- `MOD.ACCSTAT` per port (R68). -/
  accstat : Vector Word 2 := Vector.replicate 2 0
  /-- `MOD.ACCADDR` per port (R68). -/
  accaddr : Vector Word 2 := Vector.replicate 2 0
  /-- `TB.NOW_HI` per port (R76). -/
  nowHi : Vector Word 2 := Vector.replicate 2 0
  /-- `TB.LINE_HI` per port (R96). -/
  lineHi : Vector Word 2 := Vector.replicate 2 0
  /-- `PRG.POS_HI` per port and generator (R508). -/
  posHi : Vector (Vector Word 32) 2 := Vector.replicate 2 (Vector.replicate 32 0)
  /-- The value that the last completed read returned on each port. -/
  readData : Vector Word 2 := Vector.replicate 2 0
  /-- The bytes that the last BAR2 read returned on each port. -/
  bulkData : Vector (List Byte) 2 := Vector.replicate 2 []
  /-- Whether each port's link is up (R423, R533). -/
  portUp : Vector Bool 2 := Vector.replicate 2 true
  /-- MSI-X tables, by vector, per port; an absent entry is masked (R45, R66). -/
  msix : Vector (List (Nat × MsixEntry)) 2 := Vector.replicate 2 []
  /-- Messages sent, newest first (R66). -/
  sent : List MsixMessage := []
  /-- Voted `IRQ_STAT` of the cell-view pages, by register key; an absent one is 0 (R65). -/
  voted : List (Nat × Word) := []
  deriving DecidableEq, Repr

/-- The states of the PTP servo (R85). -/
inductive ServoState where
  | free | acquire | locked | holdover
  deriving DecidableEq, Repr

/-- The time servo (R78 to R93). Rates in ppb carry LSB 2⁻¹⁶. -/
structure TimeServo where
  st : ServoState := .free
  /-- The integrator i (R83). -/
  integ : Int := 0
  /-- The target rate (R83). -/
  target : Int := 0
  /-- The last 16 values of ρ, newest first (R85). -/
  hist : List Int := []
  /-- Whether the initial alignment has been made (R86). -/
  aligned : Bool := false
  /-- Consecutive accepted samples of at most 1 µs since the servo last entered ACQUIRE (R85, R569). -/
  okRun : Nat := 0
  /-- A refused step waits (R87). -/
  stepPend : Bool := false
  /-- Its offset, ns (R87). -/
  stepVal : BitVec 64 := 0
  /-- An acceptance awaits the next sync instant (R88). -/
  ackPend : Bool := false
  /-- Samples of the quarantine that remain (R91). -/
  quar : Nat := 0
  /-- Sample intervals left in which a refusal marks a suspected asymmetry (R92). -/
  asymWin : Nat := 0
  asym : Bool := false
  /-- `TB.PLANT_OFS` (R78). -/
  plantOfs : BitVec 64 := 0
  /-- `TB.STATE.SRC`. -/
  src : Hub := 0
  /-- Bus cycles since the last host-assisted sample (R93). -/
  haAge : Nat := 0
  deriving DecidableEq, Repr

/-- Line phase (R94 to R99). -/
structure LinePhase where
  /-- The line offset (R95). -/
  offset : Int := 0
  /-- The P of the last event, held until the next count edge (R95). -/
  hold : Option Int := none
  /-- Frozen by clearing `LINE_CFG.EN` (R95, R99). -/
  enFrozen : Bool := false
  /-- Frozen by a fault of the source (R99). -/
  faultFrozen : Bool := false
  /-- The phase at the last evaluation. -/
  last : Int := 0
  /-- An event set phase: the next evaluation is not compared (R97). -/
  noCompare : Bool := false
  /-- `LINE_STAT.REV` (R97). -/
  rev : Bool := false
  /-- `LINE_STAT.VALID` (R95, R99). -/
  valid : Bool := false
  /-- A `LOAD` awaits the next sync instant (R95). -/
  loadPend : Bool := false
  /-- The phase of the last sync instant, as `LINE_LO` and `LINE_HI` show it (R96). -/
  atSync : BitVec 64 := 0
  deriving DecidableEq, Repr

/-- One PTP port beyond its registers (R79 to R82, R91). -/
structure PtpPort where
  /-- The last mean path delay, ns. -/
  mpd : Option Int := none
  /-- The sequence number of a two-step Sync that awaits its Follow_Up. -/
  follow : Option (BitVec 16) := none
  /-- The datasets of the masters that the port hears, one for each sender (R80). -/
  heard : List PtpData := []
  /-- The port identity of the master that the port follows, in UNCALIBRATED or SLAVE state. -/
  master : Option (BitVec 80) := none
  /-- Cell time, ns, at which PRE_MASTER ends. -/
  qual : Option Nat := none
  /-- The last ingress or egress timestamp of an event message, ns of cell time (R81). -/
  stamp : Nat := 0
  /-- PTP messages sent, newest first: kind and plant time, ns (R75). -/
  sent : List (PtpKind × BitVec 64) := []
  deriving DecidableEq, Repr

-- Cartridges, custodians, images (chapters "Lanes, Custodians …", "Bring-up, Power …")

/-- The states of a cartridge (R440, R446, R462). -/
inductive CartState where
  | empty | power | selftest | cocoon | load | track | check | instep | faulted | off | lock | silent
  deriving DecidableEq, Repr

/-- The roles of a lane (R27). -/
inductive Role where
  | none | lead | second | reserve
  deriving DecidableEq, Repr

/-- One cartridge (R440 to R449, R462). -/
structure Cartridge where
  st : CartState := .power
  /-- `STAT.CAUSE`. -/
  cause : Nat := 0
  role : Role := .none
  /-- `STAT.LATCH`: the lever of a cartridge whose fence was refused is open, or the lever is open (R449). -/
  lever : Bool := false
  /-- A planned fence waits for its boundary; the value is its cause (R438, R445). -/
  fencePend : Option Nat := none
  /-- Inserted into a running module: `CFG.AUTO` re-admits it (R440). -/
  inserted : Bool := false
  /-- Re-admission asked for (`READMIT`), not begun. -/
  readmit : Bool := false
  /-- LOAD complete; TRACK awaits the next plan-cycle start, or sync instant for a hub (R442, R446). -/
  loaded : Bool := false
  /-- Plan cycles (lanes) or bus cycles (hubs) in TRACK and CHECK (`TRACK.CYCLES`). -/
  cycles : Nat := 0
  /-- Plan cycles of TRACK since the count of 64 last started (R442); for a hub, bus cycles without a mismatch (R447). -/
  run : Nat := 0
  /-- Journal bytes of the running plan cycle (R442). -/
  journal : Nat := 0
  /-- Recorded pages that remain (R442). -/
  pages : Nat := 0
  /-- Consecutive equal shadow digests (R443). -/
  equalRun : Nat := 0
  /-- Consecutive bus cycles whose results were all complete in time (R443). -/
  timelyRun : Nat := 0
  /-- CHECK passed; the lane joins at the next plan-cycle start (R443). -/
  passed : Bool := false
  /-- `TRACK.FAILS`. -/
  fails : Nat := 0
  /-- `XFER.TOTAL` and `XFER.DONE`, MiB. -/
  xferTotal : Nat := 0
  xferDone : Nat := 0
  /-- `FENCE_TAG`. -/
  fenceTag : Word := 0
  /-- Firmware running: version (`FW.VERSION`), `STEPCLASS`, `NEXTCLASS`. -/
  fwVersion : BitVec 16 := 0
  fwClass : BitVec 16 := 0
  fwNext : BitVec 16 := 0
  /-- A molt runs: version, `STEPCLASS` and `NEXTCLASS` of the image (R455). -/
  molt : Option (BitVec 16 × BitVec 16 × BitVec 16) := Option.none
  /-- Stopped on heat: returns only once below 100 °C (R548). -/
  hot : Bool := false
  /-- Withdrawn while in step, until its fence (R449). -/
  gone : Bool := false
  /-- The lane has stopped its digests (R31, R548). -/
  mute : Bool := false
  /-- Verified and loaded, ready for the admission (R534). -/
  ready : Bool := false
  /-- Exchanges of this bay's cartridge, which names its serial number (R462). -/
  serial : Nat := 0
  /-- `MAP`, `FAULTS` of its `SPR` or `LSP` page; the remap is held in non-volatile memory (R458, R463, R464). -/
  map : Word := 0
  faults : Word := 0
  deriving DecidableEq, Repr

/-- The states of a custodian (R461). -/
inductive CustState where
  | off | shadow | acting | selfFenced | silent
  deriving DecidableEq, Repr

/-- One custodian (R435 to R437, R461). -/
structure Custodian where
  st : CustState := .off
  /-- `VERDICT`: lanes named, lanes silent, no majority, equal to the peer's, equal to the lane vote, tag. -/
  named : BitVec 3 := 0
  quiet : BitVec 3 := 0
  noMaj : Bool := false
  agreePeer : Bool := false
  agreeVote : Bool := false
  vtag : BitVec 16 := 0
  /-- Consecutive cycles in which its verdict equals its peer's (R437). -/
  equalRun : Nat := 0
  /-- `READMIT` accepted: it acts after 64 equal verdicts (R437). -/
  readmit : Bool := false
  deriving DecidableEq, Repr

/-- The digests and the lane vote of the bus cycle (R38, R433, R434). -/
structure LaneVote where
  /-- The digest of each lane, accumulated since the window last closed (R38). -/
  acc : Vector (BitVec 64) 3 := Vector.replicate 3 0
  /-- The digest of each lane at the close, none where it sent none. -/
  digest : Vector (Option (BitVec 64)) 3 := Vector.replicate 3 none
  /-- Whether a digest window has closed since the last verdict. -/
  closed : Bool := false
  /-- The last lane vote: lanes named, possible or not, tag (`LANEVOTE`). -/
  named : BitVec 3 := 0
  valid : Bool := false
  vtag : BitVec 16 := 0
  /-- Lanes excluded from votes though not fenced (R437). -/
  excluded : BitVec 3 := 0
  deriving DecidableEq, Repr

/-- A load of sections in progress (R453): the mask, the container's bytes, and the refusal that the checks found: section kind,
`LOAD_STAT` code, the bank's own code on its page (0 for none). -/
structure LoadJob where
  sect : BitVec 8
  bytes : List Byte
  refusal : Option (Nat × Nat × Nat)
  deriving DecidableEq, Repr

/-- Images and step classes (R450 to R456). -/
structure Images where
  /-- `LOAD_STAT`: state 0 idle, 1 busy, 2 done, 3 refused; section; code. -/
  stat : Nat := 0
  statKind : Nat := 0
  statCode : Nat := 0
  job : Option LoadJob := none
  /-- The last image loaded and the bank kinds that it filled and that are not active yet: bit k−1 for kind k (R454). -/
  loadedId : Word := 0
  awaiting : BitVec 8 := 0
  /-- `IMG_STORED`, the identity of the stored image (R454). -/
  stored : Word := 0
  /-- The bytes of the stored image in non-volatile memory (R454). -/
  storedBytes : List Byte := []
  /-- The bytes of the last image loaded. -/
  loadedBytes : List Byte := []
  /-- `STEPCLASS.LANE`, `STEPCLASS.HUB`. -/
  laneClass : BitVec 16 := 0
  hubClass : BitVec 16 := 0
  /-- A step-class switch waits: hubs or lanes, class, first tag at which it may act (R456). -/
  switch : Option (Bool × BitVec 16 × Nat) := none
  deriving DecidableEq, Repr

/-- Bring-up (R530 to R538). -/
structure Boot where
  /-- `MOD.READY.PHASE` (R532). -/
  phase : Nat := 0
  /-- Custodians started, hub self-test passed, PLL locked, hub functions usable. -/
  custodians : Bool := false
  selfTest : Bool := false
  locked : Bool := false
  functions : Bool := false
  /-- The lanes have been admitted (R534). -/
  admitted : Bool := false
  /-- `MOD.BOOT.CAUSE` and `MOD.PWRON`, held in non-volatile memory (R550). -/
  cause : Nat := 0
  starts : Word := 0
  deriving DecidableEq, Repr

/-- What one hub measures (R541, R549). -/
structure Measured where
  vin : Word := 0
  iin : Word := 0
  pin : Word := 0
  tbase : Word := 0
  cart : Vector Word 5 := Vector.replicate 5 0
  vcore : Vector Word 3 := Vector.replicate 3 0
  deriving DecidableEq, Repr

/-- Supplies and heat (R541 to R548). -/
structure Power where
  low : Vector Bool 2 := Vector.replicate 2 false
  high : Vector Bool 2 := Vector.replicate 2 false
  /-- Since when both inputs are low, ns of cell time (R545, R546). -/
  lowAt : Option Nat := none
  meas : Vector Measured 2 := Vector.replicate 2 {}
  twarn : Bool := false
  deriving DecidableEq, Repr

-- Encoders and firefly outputs (chapter "Position Feedback and Firefly Compare Outputs")

/-- The index values that a read of `LATCH` freezes for one port (R474). -/
structure IndexView where
  time : Word
  seq : BitVec 16
  delta : Word
  deriving DecidableEq, Repr

/-- One encoder channel beyond its configuration registers (R465 to R481). -/
structure Encoder where
  /-- The signed 64-bit count (R467). -/
  count : BitVec 64 := 0
  /-- Filtered levels of `A`, `B` (R467). -/
  a : Bool := false
  b : Bool := false
  /-- Hall inputs, and the last valid state, the reference of R470 (0 before any). -/
  uvw : BitVec 3 := 0
  hall : BitVec 3 := 0
  /-- Cell time of the last count edge, ns; none before the first (R476). -/
  edgeAt : Option Nat := none
  /-- `INTERVAL`, `LASTEDGE`, `STAT.DIR`, `STAT.SAMEDIR` (R476). -/
  interval : Word := 0xFFFFFFFF
  lastEdge : Word := 0
  dir : Bool := false
  sameDir : Bool := false
  /-- The index latch (R474). -/
  latch : BitVec 64 := 0
  latchT : Word := 0
  latchSeq : BitVec 16 := 0
  idxDelta : Word := 0
  /-- The next latch is the first after bring-up, a load or a fault (R475). -/
  latchFresh : Bool := true
  /-- `STAT.DRIFT`. -/
  drift : Bool := false
  /-- What a read of `LATCH` froze, per port (R474). -/
  frozen : Vector (Option IndexView) 2 := Vector.replicate 2 none
  /-- `QERR.WIN`, the window of 1 ms that it counts in, `QERR.MAXWIN` and the errors of the last complete window (R469). -/
  errWin : Nat := 0
  errMs : Nat := 0
  errMax : Nat := 0
  errLast : Nat := 0
  /-- `STAT.FAULT` (R469). -/
  fault : Bool := false
  /-- Consecutive sync instants of disagreement, and `STAT.HDIS` (R477). -/
  disRun : Nat := 0
  hdis : Bool := false
  /-- SSI: a reading runs, the delay measurement runs, `SSI_DELAY`, `SSI_RAW`, r_prev (R471 to R473). -/
  reading : Bool := false
  measuring : Bool := false
  measured : Bool := false
  delay : Nat := 0
  raw : Word := 0
  rPrev : Option Nat := none
  /-- The next SSI reading only sets r_prev (R480). -/
  rebase : Bool := false
  /-- Emulation: accumulator, backlog oldest first (true forward), output pair A and B, time of the last emulated edge (R479). -/
  emuAcc : Int := 0
  emuQueue : List Bool := []
  emuA : Bool := false
  emuB : Bool := false
  emuAt : Option Nat := none
  /-- A `LOAD` awaits the next sync instant (R478). -/
  loadPend : Bool := false
  /-- `HA_POS` has been written since the last cut-off; the value taken at the cut-off (R480). -/
  haNew : Bool := false
  haTaken : Option Word := none
  deriving DecidableEq, Repr

/-- One firefly output beyond its configuration registers (R482 to R491). Entry e stands at `pos e + shift`. -/
structure Firefly where
  /-- Positions, qualifiers (unlisted: 3) and states (unlisted: 0) of the 256 entries, ascending. -/
  pos : List (Nat × BitVec 64) := []
  qual : List (Nat × Nat) := []
  state : List (Nat × Nat) := []
  /-- What the wraps have added to every position (R486). -/
  shift : BitVec 64 := 0
  ptr : BitVec 8 := 0
  done : Bool := false
  missIdx : BitVec 8 := 0
  srcInv : Bool := false
  lastT : Word := 0
  /-- Cell time, ns, at which the running pulse ends; none while no pulse runs (R484). -/
  pulse : Option Nat := none
  /-- The entry at the pointer is still to be tested as newly current (R485, R486). -/
  judge : Bool := false
  /-- The phase at the last step of a phase source (R482, R483). -/
  phase : Int := 0
  /-- A host pulse is armed (R489). -/
  haArmed : Bool := false
  deriving DecidableEq, Repr

-- Profile generators, steppers, analogue inputs

/-- A `GO` that awaits the next tick: the host's, or a `SET_OUTPUT` with its target (R494, R497). -/
inductive GoRequest where
  | host
  | output (target : BitVec 64)
  deriving DecidableEq, Repr

/-- One profile generator beyond its configuration registers (R492 to R501). -/
structure Generator where
  /-- Position, velocity, acceleration, binary64 counts (R492). -/
  p : F64 := 0
  v : F64 := 0
  a : F64 := 0
  /-- The target and the limits in force (R494). -/
  tgt : BitVec 64 := 0
  vmax : F32 := 0x447A0000
  amax : F32 := 0x461C4000
  jmax : F32 := 0x49742400
  /-- Requests that act at the next tick. -/
  go : Option GoRequest := none
  stop : Bool := false
  load : Bool := false
  /-- `STAT` flags. -/
  inpos : Bool := true
  overshoot : Bool := false
  reversal : Bool := false
  stopping : Bool := false
  ferr : Bool := false
  refused : Bool := false
  slim : Bool := false
  nodeFault : Bool := false
  /-- Host positions: the low half written, a commit since the last cut-off and its value, the value taken at the cut-off,
  the values at the previous and the next sync instant, the FIFO (R500). -/
  haLo : Word := 0
  haNew : Bool := false
  haCommit : BitVec 64 := 0
  haVal : BitVec 64 := 0
  haFrom : BitVec 64 := 0
  haTo : BitVec 64 := 0
  haFifo : List (BitVec 64) := []
  haEmpty : Bool := false
  haDry : Bool := false
  /-- Node position, integer counts sent for the last two latching instants (R499). -/
  fb : Word := 0
  sent : Word := 0
  sentPrev : Word := 0
  /-- Velocity and acceleration at the last sync instant (R498). -/
  syncV : F64 := 0
  syncA : F64 := 0
  deriving DecidableEq, Repr

/-- One stepper reference channel beyond its configuration registers (R502 to R507). -/
structure Stepper where
  /-- Table entries that differ from the default table, by index, ascending (R504). -/
  table : List (Nat × BitVec 12) := []
  /-- The microstep position at the last tick (R502). -/
  pos : Int := 0
  /-- Step pulses owed (R503). -/
  backlog : Int := 0
  lost : Bool := false
  /-- Level of the direction pin, true for reverse, and step pulses of the last tick (R503). -/
  dirPin : Bool := false
  pulses : Nat := 0
  /-- The last references (R504). -/
  refSin : Int := 0
  refCos : Int := 0
  /-- PWM duties, in 4096ths; none while the pins are held off (R505). -/
  duty : Option (Nat × Nat) := none
  nodeFault : Bool := false
  overTemp : Bool := false
  imeas : Word := 0
  deriving DecidableEq, Repr

/-- What a conversion serves (R524). -/
inductive ConvEntry where
  | regular (pos : Nat)
  | injected (j : Nat)
  | assisted
  deriving DecidableEq, Repr

/-- A conversion in progress: entry, input, start, whether a gain or filter change makes it invalid (R518), and its end, ns of cell time
(R512). -/
structure ConvJob where
  entry : ConvEntry
  input : Nat
  start : Word
  badGain : Bool
  badFilter : Bool
  ends : Nat
  deriving DecidableEq, Repr

/-- One SAR converter (R512, R519, R521, R522). -/
structure Converter where
  job : Option ConvJob := none
  /-- The input of the last conversion when it returned code 0 or 4,095 (R519). -/
  saturated : Option Nat := none
  calOk : Bool := false
  calDue : Bool := false
  calAct : Bool := false
  /-- The end of the calibration that runs, ns of cell time (R521). -/
  calEnd : Nat := 0
  fails : Nat := 0
  /-- Taken out of service (R522). -/
  out : Bool := false
  deriving DecidableEq, Repr

/-- An averaging window: conversions taken, sums of both hubs, timestamp of the first (R520). -/
structure Averager where
  n : Nat := 0
  sum : Nat := 0
  otherSum : Nat := 0
  start : Word := 0
  /-- The other hub's conversions hold an invalid one (R526). -/
  otherBad : Bool := false
  deriving DecidableEq, Repr

/-- One ADC pair beyond its configuration registers (R512 to R528). -/
structure AdcUnit where
  conv : Vector Converter 2 := Vector.replicate 2 {}
  /-- Next regular position, and whether position 0 has been converted since the sequence started. -/
  seqPos : Nat := 0
  seen0 : Bool := false
  /-- `CFG` and `SEQ0` to `SEQ2` in force, and whether a write awaits position 0 (R513). -/
  cfg : Word := 0
  seq : Vector Word 3 := Vector.replicate 3 0
  dirty : Bool := false
  avg : Vector Averager 16 := Vector.replicate 16 {}
  /-- The injected group: pending, running, entries in force, next entry, earliest start ns, conversions that remain (R515 to R517). -/
  pend : Bool := false
  running : Bool := false
  inj : List Nat := []
  injNext : Nat := 0
  injFrom : Nat := 0
  injLeft : Nat := 0
  /-- Results, oldest first, at most 128 (R525). -/
  fifo : List (Word × Word) := []
  /-- `RES_W1` as latched per port (R525). -/
  w1 : Vector Word 2 := Vector.replicate 2 0
  /-- `POS0` to `POS15` at the last feedback instant, as the bundle carries them (R525). -/
  posFb : Vector Word 16 := Vector.replicate 16 0
  deriving DecidableEq, Repr

/-- The ADC pairs and the conversions of each input that a front-end change still makes invalid (R518). -/
structure Adc where
  pair : Vector AdcUnit 4 := Vector.replicate 4 {}
  gainLeft : Vector Nat 24 := Vector.replicate 24 0
  filterLeft : Vector Nat 24 := Vector.replicate 24 0
  deriving DecidableEq, Repr

-- Wearline (chapters "Wearline Cabling …", "The Wearline Cycle …", "Wearline Clock Synchronisation …")

/-- One entry of a schedule: a static slot or a dynamic frame ID, its channel, owner, payload layout and stream (R154, R156). -/
structure SlotRow where
  fid : Nat
  ch : Chan
  node : Nat
  kind : Nat
  len : Nat
  stream : Nat
  deriving DecidableEq, Repr

/-- A schedule bank (R128, R154, R159): the cycle parameters in macroticks, both schedules, and each node's tables. -/
structure WlBank where
  epoch : BitVec 4
  rate : BitVec 2
  cycle : Nat
  slots : Nat
  slotLen : Nat
  apo : Nat
  minis : Nat
  miniLen : Nat
  miniApo : Nat
  symWin : Nat
  nit : Nat
  /-- Static slots of the two-channel and of the consolidated schedule. -/
  two : List SlotRow
  cons : List SlotRow
  /-- Dynamic frame IDs of both. -/
  dynTwo : List SlotRow
  dynCons : List SlotRow
  /-- The records bound to each auxiliary output frame: stream, then type and channel of each record (R498, R506). -/
  aux : List (Nat × List (Nat × Nat))
  /-- Node, two-channel table, consolidated table (R154). -/
  tables : List (Nat × List Byte × List Byte)
  deriving DecidableEq, Repr

/-- A coefficient entry of one hub's receiver for one node (R116, R119, R123, R174). -/
structure EqEntry where
  trained : Bool := false
  atlim : Bool := false
  eye : Nat := 0
  ctle : Int := 0
  h : Vector Int 3 := Vector.replicate 3 0
  /-- Centre of the drift window. -/
  ctleMid : Int := 0
  hMid : Vector Int 3 := Vector.replicate 3 0
  /-- Its 128 training slots have elapsed. -/
  done : Bool := false
  /-- Training slots elapsed, good training frames, sum of their deviations, learned arrival offset (ns). -/
  slots : Nat := 0
  good : Nat := 0
  devSum : Int := 0
  offset : Int := 0
  deriving DecidableEq, Repr

/-- The soldier's own copy of the committed windows of a hub on a channel (R193): the CRC-32 of the commit, the static slots of both
schedules and the dynamic frame IDs that it may enable. -/
structure SoldierTable where
  crc : Word
  slots : List SlotRow
  dyn : List SlotRow
  deriving DecidableEq, Repr

/-- A configuration request that awaits its response (R153); `ch` is the channel on which it was sent. -/
structure CfgReq where
  node : Nat
  op : Byte
  req : BitVec 16
  arg : Word
  data : List Byte
  /-- Sent, and repeats made. -/
  sent : Bool := false
  repeats : Nat := 0
  ch : Chan := 0
  /-- Bus cycles begun since it was sent. -/
  age : Nat := 0
  deriving DecidableEq, Repr

/-- A burst that a hub has sent in the running bus cycle: frame ID (0 for the collision-avoidance symbol), cell time of its start,
LSB 2⁻³² ns, its symbols in the order of the wire (R111, R112), and the hubs at which it counted as a good slot (R163). -/
structure WireFrame where
  hub : Hub
  ch : Chan
  fid : Nat
  start : Nat
  syms : List (BitVec 10)
  good : BitVec 2 := 0
  deriving DecidableEq, Repr

/-- A frame that a sender path holds for its slot: second path or lead path, `KIND`, stream, cell time of the hand-over ns,
payload (R27, R42). -/
structure Handover where
  second : Bool
  kind : Nat
  stream : Nat
  time : Nat
  payload : List Byte
  deriving DecidableEq, Repr

/-- A host buffer of the dynamic segment (R168). -/
structure HostBuffer where
  cfg : Word := 0
  data : List (Nat × Word) := []
  fresh : Bool := false
  /-- The payload that the last transmission carried; none before the first. -/
  last : Option (List Word) := none
  /-- Sent or to be sent in this cycle with its previous payload (R67). -/
  stale : Bool := false
  deriving DecidableEq, Repr

/-- A received dynamic frame (R168). -/
structure RxFrame where
  ch : Chan
  fid : Nat
  time : Word
  data : List Word
  deriving DecidableEq, Repr

/-- How far Wearline has come (R185 to R191). -/
inductive WlPhase where
  | off | listen | start | integrate | run
  deriving DecidableEq, Repr

/-- Wearline. A vector by hub holds a vector by channel; a mask has bit 2h + c for hub h and channel c. -/
structure Wearline where
  /-- The two schedule banks (R161). -/
  banks : Vector (Option WlBank) 2 := Vector.replicate 2 none
  /-- The active bank (R161). -/
  act : Fin 2 := 0
  /-- Where the start-up stands (R185 to R191). -/
  phase : WlPhase := .off
  /-- `WLS.STATE.OP` (R168). -/
  op : Nat := 0
  /-- Cycles since cycle 0 of the start-up (R186, R187). -/
  upCycles : Nat := 0
  /-- Cell time, LSB 2⁻³² ns, at which the listen timer expires (R185, R188). -/
  listenAt : Nat := 0
  /-- The soldiers' tables by hub, channel and bank (R193). -/
  soldier : Vector (Vector (Vector (Option SoldierTable) 2) 2) 2 := Vector.replicate 2 (Vector.replicate 2 (Vector.replicate 2 none))
  /-- `GO` accepted and waiting for CYC 56 (R161). -/
  goWait : Bool := false
  /-- An exit accepted and waiting for CYC 56; announced (R166). -/
  exitWait : Bool := false
  exitAnn : Bool := false
  /-- Countdowns `EP_CD` and `CONS_CD` of the sync frames, 0 while nothing is announced (R145, R161, R164). -/
  epCd : Nat := 0
  consCd : Nat := 0
  /-- A consolidation has been decided and is announced from the next cycle (R164). -/
  consPend : Bool := false
  /-- The channel kept, and whether the consolidated schedule is in force (R164). -/
  kept : Chan := 0
  consAct : Bool := false
  /-- Nodes that refused or failed to commit (R160). -/
  nack : BitVec 64 := 0
  /-- Configuration requests that wait or run, in order, and the next request number (R153). -/
  reqs : List CfgReq := []
  reqNo : BitVec 16 := 0
  /-- Good slots of the running cycle, of the last cycle, and filled slots of the last cycle (`CHHEALTH`, R168). -/
  good : Vector (Vector Nat 2) 2 := Vector.replicate 2 (Vector.replicate 2 0)
  lastGood : Vector (Vector Nat 2) 2 := Vector.replicate 2 (Vector.replicate 2 0)
  lastExp : Vector Nat 2 := Vector.replicate 2 0
  /-- Consecutive bad cycles (R163), cycles free of mismatch and fault (R166), cycles with a loop-back failure (R448). -/
  bad : Vector (Vector Nat 2) 2 := Vector.replicate 2 (Vector.replicate 2 0)
  clean : Vector (Vector Nat 2) 2 := Vector.replicate 2 (Vector.replicate 2 0)
  loopRun : Vector (Vector Nat 2) 2 := Vector.replicate 2 (Vector.replicate 2 0)
  /-- A mismatch or a transmitter fault in the running cycle; transmitters stopped (R448); held off by the soldier (R195). -/
  dirty : BitVec 4 := 0
  txFault : BitVec 4 := 0
  heldOff : BitVec 4 := 0
  /-- `STAT.SIGDET` of each receiver (R125). -/
  sigdet : BitVec 4 := 0
  /-- Coefficient tables by node; an unlisted node has the entry `EqEntry` of reset (R116). -/
  eq : Vector (Vector (List (Nat × EqEntry)) 2) 2 := Vector.replicate 2 (Vector.replicate 2 [])
  /-- Last accepted `SEQ` of each stream, key `KIND` × 64 + stream, with the cycles since (R141, R142). -/
  seqs : List (Nat × BitVec 16 × Nat) := []
  /-- Static slots that carried an accepted frame in the running cycle: channel × 256 + slot (R20). -/
  got : List Nat := []
  /-- Slots of the running cycle whose frame was taken from one hub only: channel × 1024 + frame ID (R21). -/
  oneHub : List Nat := []
  /-- Minislot counters of the last minislot started, 255 before the first, and the minislots spent (R151). -/
  mini : Vector Nat 2 := Vector.replicate 2 255
  spent : Vector Nat 2 := Vector.replicate 2 0
  /-- Frames handed over for the running cycle, and the hub that transmits the lead and the second slots (R32). -/
  handed : List Handover := []
  paths : Vector Hub 2 := ⟨#[0, 1], rfl⟩
  /-- Training cycles that remain to each hub's own transmissions (R118). -/
  train : Vector Nat 2 := Vector.replicate 2 0
  /-- Coefficients in force at each hub and channel, laid out as `EQ_DEF` (R117). -/
  eqUse : Vector (Vector Word 2) 2 := Vector.replicate 2 (Vector.replicate 2 0x00400000)
  /-- `TXFAULT` reported in the running cycle (R163). -/
  txNow : BitVec 4 := 0
  /-- Consolidation, epoch switch and return that are due at the present sync instant; STO of R167 that is due at the next. -/
  consDue : Bool := false
  epDue : Bool := false
  exitDue : Bool := false
  lost : Bool := false
  /-- Frames sent in the running bus cycle, newest first (R131). -/
  wire : List WireFrame := []
  /-- Host buffers, and the receive FIFO with the words of its oldest frame that were read (R168). -/
  buf : Vector HostBuffer 16 := Vector.replicate 16 {}
  rx : List RxFrame := []
  rxWord : Nat := 0
  deriving DecidableEq, Repr

-- Arms: rings, plans, servo, mantis, safety

/-- A record that the path sampler has taken (R204). -/
structure RingRec where
  idx : Nat
  seq : Word
  op : Byte
  flags : Byte
  frame : Byte
  res7 : Byte
  body : List Byte
  deriving DecidableEq, Repr

/-- The line frame of a tracking arm (R218, R220). -/
structure LineFrame where
  ph0 : BitVec 64
  origin : List F64
  dir : List F64
  mpc : F64
  frozen : Option Int
  deriving DecidableEq, Repr

/-- The coupling that an arm belongs to, and the pose of its TCP relative to the leader's TCP as it stood at the completion (R222). -/
structure Coupling where
  rid : BitVec 16
  mask : BitVec 12
  rel : Option (Transform F64)
  deriving DecidableEq, Repr

/-- The tool in force: volume set, mass, centre of mass, inertia, TCP pose (R217). -/
structure Tool where
  tset : Nat := 0
  mass : F32 := 0
  com : List F32 := []
  inertia : List F32 := []
  tcp : List F32 := []
  tquat : List F32 := []
  deriving DecidableEq, Repr

/-- A phase of a profile of constant second derivative: duration in seconds, value and rate at its start, second derivative: of α
(R298, R300, R568) or of the progress of a path piece (R207, R238). -/
structure Phase where
  dur : F64
  a : F64
  v : F64
  acc : F64
  deriving DecidableEq, Repr

/-- A point of a reference: joint positions in radians, or a TCP pose (R207). -/
inductive PathRef where
  | joints (q : List F64)
  | pose (p : V3 F64) (q : Q4 F64)
  deriving DecidableEq, Repr

/-- The curve of a path piece over its progress u from 0 to 1 (R207, R208): a line in joint space a + u·d; a straight TCP line p + u·d
or an arc c + cos(u·ang)·x + sin(u·ang)·y, with orientation q turned by u times the rotation vector r; a quintic join by its
coefficients per joint, or per coordinate of position and of the rotation vector from q. -/
inductive PathGeom where
  | joints (a d : List F64)
  | line (p d : V3 F64) (q : Q4 F64) (r : V3 F64)
  | arc (c x y : V3 F64) (ang : F64) (q : Q4 F64) (r : V3 F64)
  | joinJ (c : List (List F64))
  | joinC (c : List (List F64)) (q : Q4 F64)
  deriving DecidableEq, Repr

/-- An element of an arm's reference path: its curve from progress `ua` to `ub`, in the line frame or not, its length per unit of
progress (m or rad), nominal speed and acceleration, whether the path rests at its end, the ring index of the motion record whose end
point lies there (R209), and progress over nominal time in phases (R238). -/
structure PathEl where
  geom : PathGeom
  line : Bool
  ua : F64
  ub : F64
  len : F64
  vmax : F64
  amax : F64
  stop : Bool
  ends : Option Nat
  phases : List Phase
  deriving DecidableEq, Repr

/-- A completion report on its way through ordered flow 5 (R35, R228). -/
structure Report where
  seq : Word
  op : Byte
  status : Nat
  code : Nat
  time : Word
  tag : Word
  idx : Nat
  info : Nat
  phase : BitVec 64
  deriving DecidableEq, Repr

/-- One arm's ring and path sampler (R200 to R229). -/
structure ArmRing where
  /-- Taken records without a report, oldest first; the head is in progress. -/
  taken : List RingRec := []
  /-- Reports formed and not yet released by flow 5, oldest first (R35, R228). -/
  due : List Report := []
  /-- `STAT.HALTCAUSE`; 0 while the ring is not halted. -/
  halt : Nat := 0
  /-- A malformed record whose report waits until the arm is at rest, with its code (R223). -/
  bad : Option (RingRec × Nat) := none
  /-- The wait in progress: cell time of its start, ns, and the index latch sequence seen then (R212). -/
  wait : Option (Nat × BitVec 16) := none
  /-- Waiting at a rendezvous (R221). -/
  rdv : Bool := false
  /-- `STAT.STARVED`; it clears at the next take-in. -/
  starved : Bool := false
  /-- The via at whose point a stop at rest is committed (R211). -/
  stopAt : Option RingRec := none
  tracking : Option LineFrame := none
  coupled : Option Coupling := none
  /-- The override of the `SPEED` record in force (R216). -/
  ovr : F32 := 0x3F800000
  tool : Tool := {}
  /-- A tool that acts at the next plan-cycle start (R217). -/
  toolNext : Option Tool := none
  /-- `CTRL.SRST` runs (R567). -/
  srst : Bool := false
  /-- The reference path from progress `pathT` on, and the motion records placed on it, by ring index (R207, R238). -/
  path : List PathEl := []
  pathT : F64 := 0
  onPath : List Nat := []
  /-- Progress at the end points of placed records that lie before the path, by ring index (R209). -/
  ends : List (Nat × F64) := []
  /-- r of each blended via by ring index, and whether it lies below `RADIUS` (R208). -/
  blends : List (Nat × F64 × Bool) := []
  /-- The target of the last completed motion record, where the arm rests; none where it rests at its commanded joints. -/
  lastRef : Option PathRef := none
  /-- `RELEASE_LINE` has acted and the arm comes to rest in the cell frame (R219). -/
  release : Bool := false
  /-- Records taken at the last plan-cycle start (R202); the sync instant, cell time ns, from which outputs with `WHEN` 0 count (R215). -/
  took : Nat := 0
  mark : Nat := 0
  /-- The arm is to be brought to rest within its path from the next plan-cycle start on (R220, R223). -/
  cut : Bool := false
  deriving DecidableEq, Repr

/-- One step of an arm's plan: `dur` bus cycles, six coefficients per joint (LSB 2⁻⁴⁴ turn, R269), and the plan torque and
mass-matrix diagonal per joint at its two ends (R334). -/
structure Seg where
  dur : Nat
  c : List (List Int)
  tau0 : List Int
  tau1 : List Int
  m0 : List Int
  m1 : List Int
  /-- Progress at its start, and the progress rates at its two ends (R238); 0 for a direct segment. -/
  prog : F64 × F64 × F64 := (0, 0, 0)
  deriving DecidableEq, Repr

/-- A time-scale profile that runs: its phases, the seconds elapsed, and whether it raises α from the mirror image (R227). -/
structure Profile where
  phases : List Phase
  t : F64
  rising : Bool
  deriving DecidableEq, Repr

/-- What an arm plays (R296 to R303, R329 to R333). -/
structure ArmPlay where
  /-- The segments of the plan in force, the running step first. -/
  segs : List Seg := []
  /-- Segments that take over at the next plan-cycle start (R271). -/
  next : Option (List Seg) := none
  /-- Plan time in the running step, LSB 2⁻³² (R329). -/
  tau : Nat := 0
  /-- κ, and β at the present and the next sync instant, Q1.31 (R330). -/
  kappa : Nat := 2 ^ 31
  beta : Nat := 2 ^ 31
  betaNext : Nat := 2 ^ 31
  /-- β at the sync instant before the present one. -/
  betaPrev : Nat := 2 ^ 31
  profile : Option Profile := none
  /-- Played plan time has reached the end of the tail with α above 0. -/
  ended : Bool := false
  /-- Consecutive rejections (R296), held, in a time-scale stop (R301). -/
  rejects : Nat := 0
  held : Bool := false
  stopping : Bool := false
  /-- At rest (R233). -/
  rest : Bool := true
  /-- A coordinated stop plan is in force; plan-cycle starts since the SS1 demand (R404). -/
  csp : Bool := false
  cspWait : Nat := 0
  /-- Splice quintics of the running step, six coefficients per joint (R333). -/
  splice : List (List Int) := []
  /-- Direct-segment chain: the end state (position, velocity, acceleration) per joint of the last segment taken (R226). -/
  chain : List (Int × F32 × F32) := []
  /-- The commanded state of the arm at the next plan-cycle start per joint, as the plan in force at the last one gives it:
  position, h times velocity, h² times acceleration, LSB 2⁻⁴⁴ turn; empty for an arm that starts from rest (R233). -/
  stage0 : List (Int × Int × Int) := []
  deriving DecidableEq, Repr

/-- A joint's block, loop state and parameters (R326, R335 to R338). -/
structure Joint where
  posMeas : Int := 0
  velMeas : Int := 0
  trqMeas : Int := 0
  fbValid : Bool := false
  fbAbsent : Bool := false
  posNow : Int := 0
  posNext : Int := 0
  velNow : Int := 0
  velNext : Int := 0
  accNext : Int := 0
  tff : Int := 0
  /-- The plan's joint velocity q′/h, LSB 2⁻¹⁶ turn/s (R367). -/
  unitVel : Int := 0
  u : Int := 0
  dhat : Int := 0
  trqOut : Int := 0
  /-- Integrator, e_prev, vel_meas_prev; x₁, x₂, y₁, y₂ of each notch. -/
  integ : Int := 0
  ePrev : Int := 0
  velPrev : Int := 0
  notch : Vector (Vector Int 4) 4 := Vector.replicate 4 (Vector.replicate 4 0)
  /-- Parameter block and shadows, 64 words, unlisted 0 and unlisted as the block. -/
  par : List (Nat × Word) := []
  shadow : List (Nat × Word) := []
  /-- Consecutive bus cycles in which the chain faulted (R324); a fault in the running cycle. -/
  faults : Nat := 0
  faulted : Bool := false
  /-- Library kernels of the running phase that ended with `FLG.V` set (R314, R344). -/
  vEnds : Nat := 0
  /-- The record last sent: POS, VEL, TRQ as float32, and `ENABLE` (R146). -/
  sentVel : F32 := 0
  sentTrq : F32 := 0
  /-- Feedback of the running cycle: `VALID`, `ENABLED`, `FAULT`; POS of the previous sync instant where it was valid. -/
  rxPos : Int := 0
  rxVel : F32 := 0
  rxTrq : F32 := 0
  rxBits : Word := 0
  posLast : Option Int := none
  posPrev : Option Int := none
  deriving DecidableEq, Repr

/-- Feedback of an arm in the running bus cycle (R20, R405). -/
structure ArmFeedback where
  present : Bool := false
  aflags : BitVec 16 := 0
  /-- Consecutive cycles without valid feedback. -/
  lost : Nat := 0
  deriving DecidableEq, Repr

/-- A hardware loop: first and last instruction of its body, the remaining count of the loop around it, and whether a loop
has been started within it (R318). -/
structure HwLoop where
  start : Nat
  stop : Nat
  saved : BitVec 17
  outer : Bool
  deriving DecidableEq, Repr

/-- A MAC core (R310, R311). D and A registers and the rest as R311 names them; memories unlisted 0. -/
structure MacCore where
  d : Vector Word 16 := Vector.replicate 16 0
  acc : Vector (BitVec 72) 4 := Vector.replicate 4 0
  a : Vector (BitVec 16) 8 := Vector.replicate 8 0
  m : Vector Word 8 := Vector.replicate 8 0
  w : Vector (BitVec 16) 8 := Vector.replicate 8 0
  lc : BitVec 17 := 0
  rotb : BitVec 3 := 0
  rotOn : Bool := false
  flg : BitVec 4 := 0
  pmap : BitVec 24 := 0xF59D10
  /-- Program counter in P, hardware loops, innermost first (R318). -/
  pc : Nat := 0
  loops : List HwLoop := []
  /-- The memories: words that differ from 0, by address, ascending (R310). -/
  xMem : List (Nat × Word) := []
  yMem : List (Nat × Word) := []
  sMem : List (Nat × Word) := []
  pMem : List (Nat × Word) := []
  /-- Class of the running kernel (false loop, true stream), its index, first address and length, joint, running, cycles used. -/
  stream : Bool := false
  kernel : Nat := 0
  base : Nat := 0
  len : Nat := 4096
  joint : Nat := 0
  running : Bool := true
  cycles : Nat := 0
  deriving DecidableEq, Repr

/-- A result of a MAC instruction that its register shows only after the next instruction (R322). -/
inductive MacWrite where
  | d (i : Nat) (v : Word)
  | a (i : Nat) (v : BitVec 16)
  | m (i : Nat) (v : Word)
  | w (i : Nat) (v : BitVec 16)
  | acc (i : Nat) (v : BitVec 72)
  | pmap (v : BitVec 24)
  deriving DecidableEq, Repr

/-- A kernel of a bank (R339, R344). -/
structure Kernel where
  index : Nat
  stream : Bool
  code : List Word
  cycles : Nat
  stateId : Nat
  state : Nat
  params : Nat
  deriving DecidableEq, Repr

/-- A task template (R345): the fields that the host reads; the unit that its tasks are bound to (R350); the stream kernel, the bases of
its input and output areas and its item count (R341). [DEDUCED, log 88] -/
structure Template where
  index : Nat
  cls : Nat
  nops : Nat
  prio : Nat
  flow : Option Nat
  rank : Nat
  life : Nat
  unit : Option Nat
  kernel : Nat
  inBase : BitVec 16
  outBase : BitVec 16
  items : Word
  deriving DecidableEq, Repr

/-- An ordered flow's assignment: anchor and offset (R352, R355, R363). -/
structure FlowRow where
  flow : Nat
  anchor : Nat
  ofs : Nat
  deriving DecidableEq, Repr

/-- A kernel bank (R340, R342): identity, kernels, bindings `JCFG`, parameter blocks, templates and flows of stream kernels. -/
structure KernelBank where
  id : Word
  kernels : List Kernel
  jcfg : List Word
  params : List (List Word)
  templates : List Template
  flows : List FlowRow
  deriving DecidableEq, Repr

/-- The servo datapath (R310 to R344). -/
structure Servo where
  banks : Vector (Option KernelBank) 2 := Vector.replicate 2 none
  act : Fin 2 := 0
  /-- A switch accepted, with the first tag at which it may act (R306, R342). -/
  pend : Option Nat := none
  core : Vector MacCore 8 := Vector.replicate 8 {}
  /-- Results on their way per core: they appear after the next instruction (R322). -/
  late : Vector (List MacWrite) 8 := Vector.replicate 8 []
  joint : Vector Joint 96 := Vector.replicate 96 {}
  fb : Vector ArmFeedback 12 := Vector.replicate 12 {}
  /-- A fault of the running cycle is recorded in `SDP.FAULT`. -/
  faultSeen : Bool := false
  /-- `HA_SEQ` applied since the last cut-off; `HA_TRQ` values in force by joint (R343). -/
  haSeq : Bool := false
  haTrq : List (Nat × Word) := []
  /-- Cycles used on each core in phase A and phase B of the bus cycle (R344). -/
  usedA : Vector Nat 8 := Vector.replicate 8 0
  usedB : Vector Nat 8 := Vector.replicate 8 0
  deriving DecidableEq, Repr

/-- The identity of a row of the KKT system: the variables of R236 (arm, joint or row, stage or step), then the rows of R243; `csp`
names the rows that a coordinated stop plan adds (R404). -/
inductive KktId where
  | q (a j i : Nat)
  | v (a j i : Nat)
  | w (a j i : Nat)
  | jerk (a j i : Nat)
  | s (a i : Nat)
  | sd (a i : Nat)
  | e (a r i : Nat)
  | tau (a j i : Nat)
  | sigma (slot i : Nat)
  | init (a k : Nat)
  | dyn (a j k i : Nat)
  | prog (a k i : Nat)
  | track (a r i : Nat)
  | torque (a j i : Nat)
  | line (a r i : Nat)
  | couple (c r i : Nat)
  | sep (slot k i : Nat)
  | csp (a j k : Nat)
  deriving DecidableEq, Repr

/-- A variable of the linearised programme: bounds, and objective hess·(x − goal)²/2 + lin·x (R241, R244). -/
structure KktVar where
  lo : Option F64
  hi : Option F64
  hess : F64
  goal : F64
  lin : F64
  deriving DecidableEq, Repr

/-- A row of the linearised programme: coefficients by variable, its bounds (equal ones for an equality), active or not (R243). -/
structure KktRow where
  terms : List (KktId × F64)
  lo : Option F64
  hi : Option F64
  eqn : Bool
  active : Bool
  deriving DecidableEq, Repr

/-- The programme that a plan solves (R235): variables and rows, each in KKT row order. -/
structure Programme where
  vars : List (KktId × KktVar)
  rows : List (KktId × KktRow)
  deriving DecidableEq, Repr

/-- An iterate (R281): primal variables with their bound duals; row duals; row slacks with their bound duals; mean complementarity. -/
structure Iterate where
  x : List F64
  xlo : List F64
  xhi : List F64
  y : List F64
  w : List F64
  wlo : List F64
  whi : List F64
  mu : F64
  deriving DecidableEq, Repr

/-- What one kinematics unit gives of a volume: its index, end points, Jacobians there and their time derivatives (R257). -/
structure KinVol where
  vol : Nat
  link : Nat
  p1 : V3 F64
  p2 : V3 F64
  j1 : List (V3 F64 × V3 F64)
  j2 : List (V3 F64 × V3 F64)
  d1 : List (V3 F64 × V3 F64)
  d2 : List (V3 F64 × V3 F64)
  deriving DecidableEq, Repr

/-- What a kinematics unit computes for one configuration (R257); mass matrix and bias torques at the stages only. -/
structure KinConfig where
  q : List F64
  frames : List (Frame F64)
  tcp : Frame F64
  jac : List (V3 F64 × V3 F64)
  jacDot : List (V3 F64 × V3 F64)
  vols : List KinVol
  mass : List (List F64)
  bias : List F64
  deriving DecidableEq, Repr

/-- The solution of the plan in force: its horizon, the plan cycles that it has been in force, primal variables, row duals, and bound
duals of variables and rows (R234). -/
structure PlanSol where
  n : Nat
  age : Nat
  x : List (KktId × F64)
  y : List (KktId × F64)
  lo : List (KktId × F64)
  hi : List (KktId × F64)
  deriving DecidableEq, Repr

/-- What one interior-point step finds (R281 to R290): iterations, residual test and residual ratio, pivots substituted, Jacobi
fallback, subnormals flushed, the cap reached, non-finite value. -/
structure StepResult where
  iters : Nat
  passed : Bool
  resid : F64
  subst : Nat
  factFb : Bool
  flush : Nat
  capped : Bool
  fail : Bool
  deriving DecidableEq, Repr

/-- The header of a Plefin section (R276) with the flags of its checks against R275, R278 and R280. -/
structure Pattern where
  patid : Word
  rows : Nat
  primal : Nat
  nnz : Nat
  horizon : Nat
  plancyc : Nat
  slots : Nat
  tFact : Word
  tIter : Word
  pairid : Word
  fits : Bool
  signsOk : Bool
  /-- Regularisation δ_p and δ_d, centring factor σ_c, fraction to the boundary τ, interior push κ. -/
  deltaP : F64
  deltaD : F64
  sigmaC : F32
  tau : F32
  push : F32
  /-- Slot groups: arm, other arm or 12 for fixtures, slots (R246). -/
  groups : List (Nat × Nat × Nat)
  /-- The compiled row order, and the kept entries of L below the diagonal by row and column (R272, R274, R283). -/
  order : List KktId
  fill : List (Nat × Nat)
  deriving DecidableEq, Repr

/-- The Plefin engine (R274 to R309). -/
structure Plefin where
  banks : Vector (Option Pattern) 2 := Vector.replicate 2 none
  act : Fin 2 := 0
  /-- A switch accepted, with the first tag at which it may act (R306). -/
  pend : Option Nat := none
  /-- A plan is being computed: the tag of its start. -/
  busy : Bool := false
  startTag : BitVec 48 := 0
  /-- Step, position and fail bit of the lanes' shared progress, and the words last received from each lane (R292, R293). -/
  step : Nat := 0
  pos : Nat := 0
  fail : Bool := false
  words : Vector (Option (BitVec 15 × Bool)) 3 := Vector.replicate 3 none
  /-- What the steps of this plan have found, and whether a pivot was substituted or a step fell back to the Jacobi matrix. -/
  results : List StepResult := []
  pivSub : Bool := false
  factFb : Bool := false
  /-- The kinematics of the warm start: arm, stages 0 to N, midpoints (R258). -/
  kin : List (Nat × List KinConfig × List KinConfig) := []
  /-- The linearised programme, the iterate before the first step and those after each step (R235, R281, R286). -/
  prog : Option Programme := none
  iterates : List Iterate := []
  /-- The pairs in the separation slots of this plan, by slot, and the normals of its rows, by pair, row and step (R247 to R249). -/
  slots : List (Nat × Nat) := []
  normals : List ((Nat × Nat × Nat) × V3 F64) := []
  /-- Line phase of the input bundles of bus cycles 4k and 4k − 4, of the plan cycle's start and of four bus cycles before it (R251). -/
  phi : Int × Int := (0, 0)
  /-- The solution of the plan in force, and whether the bank has changed since (R234, R307). -/
  plan : Option PlanSol := none
  fresh : Bool := false
  /-- Progress s and rate ṡ of each arm at stage 0, and the target rate v_a, latched at the plan-cycle start (R233, R239). -/
  s0 : Vector (F64 × F64) 12 := Vector.replicate 12 (0, 0)
  /-- Arms that the plan moves, and of the others the joint positions at the stages and midpoints ahead, LSB 2⁻⁴⁴ turn (R255). -/
  moved : BitVec 12 := 0
  traj : Vector (List (List Int)) 12 := Vector.replicate 12 []
  rate : Vector F64 12 := Vector.replicate 12 0
  /-- Weights of `KIN[a]`, payload θ, `TOL` and `FLOOR` latched at the plan-cycle start (R241, R266, R309). -/
  weights : Vector (List F32) 12 := Vector.replicate 12 []
  theta : Vector (List F64) 12 := Vector.replicate 12 []
  tol : F64 := 0x3E45798EE2308C3A
  floor : F64 := 0x3D719799812DEA11
  /-- Line phase of the input bundles of the last five bus cycles, newest first (R251). -/
  phases : List Int := []
  /-- `TOL_LO` and `FLOOR_LO` held (R309). -/
  tolLo : Word := 0xE2308C3A
  floorLo : Word := 0x812DEA11
  /-- `IP_STEPS`, `ITER_CAP`, `K_HOLD` in force for this plan. -/
  cfg : Word := 0x003C0305
  /-- The distance list of mantis (R380): pair, distance float32. -/
  dist : List (Nat × F32) := []
  /-- Whether the speed scales and slots of this plan have been taken (52 µs). -/
  warm : Bool := false
  /-- Candidates without a slot per arm, slots used per arm (R249). -/
  missed : Vector Nat 12 := Vector.replicate 12 0
  used : Vector Nat 12 := Vector.replicate 12 0
  /-- Speed scales taken at 52 µs for this plan, LSB 2⁻¹⁶ (R250). -/
  scale : Vector Nat 12 := Vector.replicate 12 65536
  deriving DecidableEq, Repr

/-- The joint limits of the arms section (R244). -/
structure JointLimits where
  present : Bool
  posMin : Int
  posMax : Int
  vel : F64
  acc : F64
  jerk : F64
  trqMin : F64
  trqMax : F64
  deriving DecidableEq, Repr

/-- A link of the link model and the joint that moves it: fixed transform, inertial parameters in the order of R259 in its own frame,
Coulomb and viscous friction (R245, R257). -/
structure LinkModel where
  joint : ChainJoint F64
  inertial : List F64
  coulomb : F64
  viscous : F64
  deriving DecidableEq, Repr

/-- An arm of the arms section of the cell image (R451). -/
structure ArmModel where
  joints : List JointLimits
  lineCap : Bool
  /-- Base pose, links, flange frame in the last link, and reach sphere (centre and radius, cell frame), m (R210, R451). -/
  base : Transform F64
  links : List LinkModel
  flange : Transform F64
  reachC : List F64
  reach : F64
  /-- Tool volume sets present, initial tool (R217, R264). -/
  tsets : BitVec 8
  tool : Tool
  /-- The payload bounds LO0 to LO9 and HI0 to HI9, P₀ diagonal (R262, R264). -/
  lo : List F32
  hi : List F32
  p0 : List F64
  deriving DecidableEq, Repr

/-- The arms section: the arms and the coupling slots (leader, follower) (R253). -/
structure ArmsImage where
  arms : List (Nat × ArmModel)
  couplings : List (Nat × Nat)
  /-- Gravity in the cell frame, m/s² (R245). -/
  gravity : V3 F64
  /-- Separation: selection distance and planning offset, m (R247, R249); progress acceleration a_s (R238); separation penalties
  ρ₁ and ρ₂ (R241); acceptance tolerances tol_eq, tol_bnd and σ_tol (R267). -/
  selDist : F64
  dPlan : F64
  aS : F64
  rho1 : F64
  rho2 : F64
  tolEq : F64
  tolBnd : F64
  tolSig : F64
  deriving DecidableEq, Repr

/-- The payload identification of one arm (R259 to R266). -/
structure Ident where
  /-- θ, ten parameters; P by rows, binary64 (R259, R260). -/
  theta : List F64 := []
  p : List (List F64) := []
  /-- Plan cycles since a `PAY` write; the last host set that passed the consistency test. -/
  haAge : Nat := 0
  haGood : List F32 := []
  deriving DecidableEq, Repr

/-- A volume of the volume table (R365). -/
structure Volume where
  kind : Nat
  owner : Nat
  link : Nat
  tset : Nat
  rad : F32
  p1 : List F32
  p2 : List F32
  deriving DecidableEq, Repr

/-- A pair of the pair table (R374). -/
structure Pair where
  u : Nat
  v : Nat
  cls : Nat
  margin : Nat
  react : BitVec 12
  deriving DecidableEq, Repr

/-- A guard source's definition (R369). -/
structure GuardDef where
  slot : Nat
  ch : Chan
  src : BitVec 16
  conn : Word
  base : Nat
  wd : Nat
  ageMax : Nat
  zd : Nat
  dgrow : Nat
  zones : BitVec 64
  deriving DecidableEq, Repr

/-- A stop table: 8 speeds mm/s, 4 masses in 10 g, T_s in 0.1 ms and S_s in 0.1 mm by payload × 8 + speed (R382, R393). -/
structure StopTable where
  speed : List Nat
  mass : List Nat
  ts : List Nat
  ss : List Nat
  deriving DecidableEq, Repr

/-- The mantis section (R391). -/
structure MantisBank where
  id : Word
  vols : List (Nat × Volume)
  pairs : List (Nat × Pair)
  sources : List (Nat × GuardDef)
  /-- Sensor latency µs of input-mapped zones, by zone 0 to 63. -/
  zoneLat : List (Nat × Nat)
  stops : List (Nat × StopTable)
  ssmA : Word
  ssmB : Word
  armcfg : List Word
  deriving DecidableEq, Repr

/-- A human track as a guard frame gives it, lengths mm, speeds mm/s (R149, R371). -/
structure Track where
  capsule : Bool
  rad : Nat
  p1 : List Int
  p2 : List Int
  vel : List Int
  deriving DecidableEq, Repr

/-- A guard source at run time (R369 to R372). -/
structure GuardState where
  /-- Consecutive cycles without an accepted frame; lost; frames accepted in a row since the start (0 to 2). -/
  held : Nat := 0
  lost : Bool := true
  run : Nat := 0
  scnt : BitVec 16 := 0
  healthy : Bool := false
  degraded : Bool := false
  age : Nat := 0
  tracks : List (Nat × Track) := []
  /-- The frame of the running cycle, if one was received: payload bytes. -/
  rx : Option (List Byte) := none
  deriving DecidableEq, Repr

/-- The result of a pair in the last cycle (R384, R388, R393). -/
structure PairResult where
  pair : Nat
  trip : Bool
  d : F32
  k : Nat
  deriving DecidableEq, Repr

/-- Mantis (R364 to R393). -/
structure Mantis where
  banks : Vector (Option MantisBank) 2 := Vector.replicate 2 none
  act : Fin 2 := 0
  pend : Option Nat := none
  src : Vector GuardState 16 := Vector.replicate 16 {}
  results : List PairResult := []
  /-- Speed scale of each arm, its cause and pair, LSB 2⁻¹⁶; unit-rate speed and measured speed, m/s (R385, R406). -/
  k : Vector Nat 12 := Vector.replicate 12 65536
  /-- The speed scales as flow 0 last released them (R355, R385), and the distance list that it publishes next (R380). -/
  kOut : Vector Nat 12 := Vector.replicate 12 65536
  list : List (Nat × F32) := []
  cause : Vector Nat 12 := Vector.replicate 12 0
  pair : Vector Nat 12 := Vector.replicate 12 0
  v1 : Vector F32 12 := Vector.replicate 12 0
  vMeas : Vector F32 12 := Vector.replicate 12 0
  /-- Joint positions that the last pass used, LSB 2⁻²⁰ turn (R367). -/
  posUsed : Option (Vector Int 96) := none
  /-- Arms for which the pass demands SS1, by cause 3 (arm–human) and 4 (arm–arm, arm–fixture). -/
  trip3 : BitVec 12 := 0
  trip4 : BitVec 12 := 0
  /-- Host tracks: shadows and current, 96 words each by index, bus cycles since the commit, in force, expired (R390). -/
  htShadow : List (Nat × Word) := []
  ht : List (Nat × Word) := []
  htAge : Nat := 0
  htOn : Bool := false
  htExpired : Bool := false
  deriving DecidableEq, Repr

/-- An operand or result key: tag, template, instance (R346). -/
structure TaskKey where
  tag : BitVec 48
  tmpl : Nat
  inst : Nat
  deriving DecidableEq, Repr

/-- An entry of the matching store: operands present by index (R346). -/
structure MatchEntry where
  key : TaskKey
  ops : List (Nat × BitVec 64)
  deriving DecidableEq, Repr

/-- A ready task with its level and arrival stamp (R349). -/
structure ReadyTask where
  key : TaskKey
  cls : Nat
  prio : Nat
  stamp : Nat
  deriving DecidableEq, Repr

/-- A result held in a flow (R351). -/
structure FlowResult where
  flow : Nat
  rank : Nat
  key : TaskKey
  data : BitVec 64
  deriving DecidableEq, Repr

/-- What an entry of a delay list does: a timed output action of an arm's record (R215), or an operand. -/
inductive DelayAct where
  | output (arm : Nat) (rec : RingRec)
  | operand (inst : Nat) (index : Nat) (value : BitVec 64)
  deriving DecidableEq, Repr

/-- An entry of a delay list (R356 to R358). -/
structure DelayEntry where
  key : Int
  tag : BitVec 48
  tmpl : Nat
  act : DelayAct
  /-- Counted as late (`CNT4`). -/
  late : Bool := false
  deriving DecidableEq, Repr

/-- The task dispatcher (R345 to R361), as the lanes in step share it. -/
structure Dispatcher where
  templates : List Template := []
  flows : List FlowRow := []
  matching : List MatchEntry := []
  ready : List ReadyTask := []
  /-- Arrival stamps given (free-running; the model's own). -/
  stamps : Nat := 0
  /-- Running tasks by executor class and unit. -/
  running : List (Nat × Nat × TaskKey) := []
  /-- Results finished and held, and results owed that expiry has removed. -/
  held : List FlowResult := []
  expired : List TaskKey := []
  /-- Results released, newest first, for as long as a late result could follow: flow, key, void. -/
  released : List (Nat × TaskKey × Bool) := []
  timeList : List DelayEntry := []
  phaseList : List DelayEntry := []
  /-- Entries inserted by tasks, awaiting the insertion tick (tag of the insertion) (R357). -/
  inserts : List (Bool × DelayEntry) := []
  /-- Actions fired at the last tick, awaiting flow 3. -/
  fired : List DelayEntry := []
  /-- Entries of the matching store spilled to the comb, and of the ready store (R360). -/
  comb : List MatchEntry := []
  combReady : List ReadyTask := []
  /-- Entries of the delay lists spilled to the comb: those with the largest keys. -/
  combTime : List DelayEntry := []
  combPhase : List DelayEntry := []
  /-- The comb is full: the lane releases nothing (R361). -/
  choked : Bool := false
  /-- The lane-private register `LASTVOID`. -/
  lastVoid : Word := 0
  deriving DecidableEq, Repr

/-- One arm's safety state (R395 to R406, R430). -/
structure ArmSafety where
  /-- `ARMST.STATE`, `ARMST.CAUSE`, `NOSS1`. -/
  st : Nat := 4
  cause : Nat := 15
  noss1 : Bool := false
  /-- t₀: its cycle tag, its cell time ns, the speeds |q̇(t₀)| per joint (LSB 2⁻²⁰ turn per bus cycle). -/
  t0 : BitVec 48 := 0
  t0ns : Nat := 0
  v0 : List Nat := []
  /-- Consecutive still instants (R403); the delay of `SBC_DELAY` runs. -/
  still : Nat := 0
  /-- Cell time, ns, at which `SBC_DELAY` ends; none while it does not run (R403). -/
  sbcAt : Option Nat := none
  /-- The SS1 time scale begins at the next sync instant (R401). -/
  fallPend : Bool := false
  /-- SLS: consecutive cycles above the limit, limit and speed mm/s, `ARMST.SLS` (R406). -/
  slsRun : Nat := 0
  limit : Nat := 0
  speed : Nat := 0
  sls : Bool := false
  /-- κ of the previous sync instant (R406). -/
  kappaPrev : Nat := 2 ^ 31
  deriving DecidableEq, Repr

/-- The outputs: STO channel a (H0) and b (H1) per arm, SBC per arm; the SO pairs follow from R410. -/
structure SafeOutputs where
  stoA : BitVec 12 := 0
  stoB : BitVec 12 := 0
  sbc : BitVec 12 := 0
  /-- `SAF.READY` and `RSTSEEN` have both been 1 since power good: R410 decides the `SO` pairs (R536). -/
  soLive : Bool := false
  /-- Arms whose STO pair switches on at the next sync instant (R417). -/
  stoPend : BitVec 12 := 0
  /-- `OUT_FAULT`: 0 to 11 STO, 12 to 15 SO, 16 to 27 SBC. -/
  fault : BitVec 28 := 0
  deriving DecidableEq, Repr

/-- A safety section (R429, R430): the CRC-32 over it, the registers of `SAF` and `SIO` that it gives by BAR0 offset, `ACFG` by arm and
`JCFG` by joint. -/
structure SafetyBank where
  crc : Word
  regs : List (Nat × Word)
  acfg : Vector (Vector Word 3) 12
  jcfg : List (Nat × Word × Word)
  deriving DecidableEq, Repr

/-- Safety inputs, resets, tests, the service window and the safety sections (R394 to R420). -/
structure SafetyUnit where
  arm : Vector ArmSafety 12 := Vector.replicate 12 {}
  out : SafeOutputs := {}
  /-- Filtered channels a and b of each input as each hub reads them (R407). -/
  chanA : Vector (BitVec 16) 2 := Vector.replicate 2 0
  chanB : Vector (BitVec 16) 2 := Vector.replicate 2 0
  /-- The agreed states of the inputs in the input bundle of the last sync instant (R212). -/
  inSync : BitVec 16 := 0
  /-- Faulted inputs, and those whose channels have been off together since (R408). -/
  inFault : BitVec 16 := 0
  bothOff : BitVec 16 := 0
  /-- Cell time, ns, at which the channels of each input came to differ (R408). -/
  discAt : Vector Nat 16 := Vector.replicate 16 0
  /-- A test pulse runs: output, channel, and whether a demand came (R412, R414). -/
  test : Option (Nat × Nat × Bool) := none
  tpLast : Word := 0
  /-- Cell time, ns, at which each channel of an output was last seen off or last tested (R412). -/
  testAt : Vector (Vector Nat 2) 16 := Vector.replicate 16 (Vector.replicate 2 0)
  /-- Reset inputs: level, cell time of the rise ns, stuck (R415, R416). -/
  rstLvl : Vector Bool 2 := Vector.replicate 2 false
  rstRise : Vector Nat 2 := Vector.replicate 2 0
  rstStuck : Vector Bool 2 := Vector.replicate 2 false
  /-- Software reset: cell time of the set ns; stuck (R418). -/
  swRise : Option Nat := none
  swStuck : Bool := false
  rstSeen : Bool := false
  lastDem : Word := 0
  /-- Arms for which a demand was voted in the running bus cycle (R417). -/
  demanded : BitVec 12 := 0
  /-- Service window: running, remaining hub, cell time of its start ns, expired (R419, R420). -/
  svcOn : Bool := false
  svcHub : Hub := 0
  svcStart : Nat := 0
  svcOver : Bool := false
  /-- A safety section is active; `ACFG_A` to `ACFG_C` by arm, `JCFG_A` and `JCFG_B` by joint. -/
  loaded : Bool := false
  acfg : Vector (Vector Word 3) 12 := Vector.replicate 12 (Vector.replicate 3 0)
  jcfg : List (Nat × Word × Word) := []
  /-- The CRC-32 of the safety section in force (`SEC.CFG_CRC`). -/
  crc : Word := 0
  /-- The safety section in force and that of the next mantis bank (R451). -/
  bank : Option SafetyBank := none
  next : Option SafetyBank := none
  deriving DecidableEq, Repr

/-- An entry of the change log (R424, R431): time, word 3, words 4 and 5, kind. -/
structure LogEntry where
  seq : Word
  time : BitVec 64
  head : Word
  before : Word
  after : Word
  kind : Nat
  deriving DecidableEq, Repr

/-- An open session (R422, R423). -/
structure Session where
  limited : Bool
  src : Nat
  key : Word
  keyRead : Bool
  /-- Cell time (ns) of the last applied write to a protected page, at first of the opening (R423). -/
  last : Nat
  deriving DecidableEq, Repr

/-- Configuration security (R421 to R427). -/
structure Security where
  /-- The stored password: salt and hash; none in factory state. -/
  store : Option (BitVec 128 × BitVec 256) := none
  session : Option Session := none
  /-- `PWD_STAT.RESULT`, attempts left, lockout end (cell time ns). -/
  result : Nat := 0
  left : Nat := 5
  lockEnd : Option Nat := none
  /-- Entries of the change log that the ring holds, newest first; acknowledged up to. -/
  log : List LogEntry := []
  seq : Word := 0
  ack : Word := 0
  /-- `IMG_STAT`. -/
  imgStat : Word := 0
  /-- Protected pages unlocked: `SAF`, `SIO`. -/
  saf : Bool := false
  sio : Bool := false
  /-- Management connections open, by source. -/
  conns : List Nat := []
  /-- Protected cell-view pages written at this boundary whose change-log entry is due: class, source, CRC before (R424). -/
  touched : List (Nat × Nat × Word) := []
  /-- Integrator keys by slot, and the management certificate authority (R451, R452). -/
  keys : Vector (Option (List Byte)) 4 := Vector.replicate 4 none
  ca : List Byte := []
  deriving DecidableEq, Repr


/-- The whole machine. [DEDUCED, log 8; DESIGN CHOICE, log 104] -/
structure State where
  /-- Cell time, bus cycle, hubs. -/
  clk : Clock := {}
  /-- The register file: the registers that differ from their reset values, by BAR0 offset, ascending (R60, R62). -/
  regs : List (Nat × Word) := []
  /-- The register copies of fenced cartridges that the private window has written: key cartridge × 2²⁴ + offset (R59). -/
  priv : List (Nat × Word) := []
  /-- Lane-private counters, which every lane counts alike, by BAR0 offset (R59, R362). -/
  lanePriv : List (Nat × Word) := []
  /-- What each hub's own event counters of the hub view exceed the shared count by, by BAR0 offset (R50, R63). -/
  hubCnt : Vector (List (Nat × Word)) 2 := Vector.replicate 2 []
  /-- The bulk memory behind BAR2: the bytes that differ from 0, by offset, ascending (R69). -/
  mem : List Host.Cell := []
  /-- The host link. -/
  link : HostLink := {}
  /-- The time servo. -/
  servo : TimeServo := {}
  /-- Line phase. -/
  line : LinePhase := {}
  /-- The PTP ports. -/
  ptp : Vector PtpPort 2 := Vector.replicate 2 {}
  /-- The cartridges L0, L1, L2, H0, H1. -/
  carts : Vector Cartridge 5 := Vector.replicate 5 {}
  /-- The custodians CX and CY. -/
  cus : Vector Custodian 2 := Vector.replicate 2 {}
  /-- The lane vote. -/
  vote : LaneVote := {}
  /-- Images and step classes. -/
  img : Images := {}
  /-- Bring-up. -/
  boot : Boot := {}
  /-- Supplies and heat. -/
  pwr : Power := {}
  /-- The encoder channels. -/
  enc : Vector Encoder 16 := Vector.replicate 16 {}
  /-- The firefly outputs. -/
  ffy : Vector Firefly 16 := Vector.replicate 16 {}
  /-- The profile generators. -/
  prg : Vector Generator 32 := Vector.replicate 32 {}
  /-- The stepper channels. -/
  stp : Vector Stepper 16 := Vector.replicate 16 {}
  /-- The ADC pairs. -/
  adc : Adc := {}
  /-- Wearline. -/
  wl : Wearline := {}
  /-- The arms' rings. -/
  ring : Vector ArmRing 12 := Vector.replicate 12 {}
  /-- What the arms play. -/
  play : Vector ArmPlay 12 := Vector.replicate 12 {}
  /-- The servo datapath. -/
  sdp : Servo := {}
  /-- Plefin. -/
  plf : Plefin := {}
  /-- The arms section in force. -/
  arms : Option ArmsImage := none
  /-- The arms section of the next Plefin bank (R451). -/
  armsNext : Option ArmsImage := none
  /-- The payload identification of each arm. -/
  ident : Vector Ident 12 := Vector.replicate 12 {}
  /-- Mantis. -/
  mnt : Mantis := {}
  /-- The task dispatcher. -/
  tds : Dispatcher := {}
  /-- The safety functions. -/
  saf : SafetyUnit := {}
  /-- Configuration security. -/
  sec : Security := {}
  /-- The commands that wait, first in first out (the model's queue of the environment's commands). -/
  pending : List Instr := []
  deriving DecidableEq, Repr

/-- The machine at power good with nothing loaded and no command waiting (R530, R566). [DESIGN CHOICE, log 4] -/
def State.reset : State := {}

end Sys2Proof.Machine
end

