-- ==== Sys2Proof/Machine/Ops.lean ====
section
/-! DEFINITION. The named operations that every meaning is written with: sparse tables, the register file, bulk memory,
counters, errors and interrupts of a page, cell time, free values and the roll call of hubs and lanes. -/

namespace Sys2Proof.Machine

-- Sparse tables: ascending keys, no entry equal to what an unlisted key reads as

/-- What key `k` reads as; `d` is the value of an unlisted key. -/
def Sparse.get (d : α) (k : Nat) : List (Nat × α) → α
  | [] => d
  | (a, v) :: r => if k = a then v else if k < a then d else Sparse.get d k r

/-- Write `v` at `k`; writing the default removes the entry. -/
def Sparse.put [DecidableEq α] (d : α) (k : Nat) (v : α) : List (Nat × α) → List (Nat × α)
  | [] => if v = d then [] else [(k, v)]
  | (a, w) :: r =>
    if k < a then (if v = d then (a, w) :: r else (k, v) :: (a, w) :: r)
    else if k = a then (if v = d then r else (k, v) :: r)
    else (a, w) :: Sparse.put d k v r

/-- The canonical form above a bound: ascending keys from `lo`, no entry equal to its default. -/
def Sparse.wfFrom [DecidableEq α] (d : Nat → α) (lo : Nat) : List (Nat × α) → Bool
  | [] => true
  | (a, v) :: r => decide (lo ≤ a) && decide (v ≠ d a) && Sparse.wfFrom d (a + 1) r

/-- The canonical form of a sparse table. -/
def Sparse.wf [DecidableEq α] (d : Nat → α) (t : List (Nat × α)) : Bool := Sparse.wfFrom d 0 t

/-- Replace one element of a vector. -/
def vset (v : Vector α n) (i : Fin n) (x : α) : Vector α n := v.set i.val x i.isLt

/-- Change one element of a vector. -/
def vmod (v : Vector α n) (i : Fin n) (f : α → α) : Vector α n := vset v i (f v[i])

/-- Apply `f` for each element of a list, in order. -/
def forEach (l : List α) (f : α → State → State) (s : State) : State := l.foldl (fun s a => f a s) s

-- The register file

/-- A register's value in the register file. -/
def reg (s : State) (p : Pg) (i off : Nat) : Word :=
  Sparse.get (keyReset (regKey p i off)) (regKey p i off) s.regs

/-- Put a value into the register file. -/
def setReg (p : Pg) (i off : Nat) (v : Word) (s : State) : State :=
  { s with regs := Sparse.put (keyReset (regKey p i off)) (regKey p i off) v s.regs }

/-- Bits `hi:lo` of a register. -/
def fld (s : State) (p : Pg) (i off hi lo : Nat) : Nat := field (reg s p i off) hi lo

/-- Set bits `hi:lo` of a register. -/
def setFld (p : Pg) (i off hi lo v : Nat) (s : State) : State :=
  setReg p i off (setField (reg s p i off) hi lo v) s

/-- One bit of a register. -/
def flag (s : State) (p : Pg) (i off b : Nat) : Bool := bit (reg s p i off) b

/-- Set or clear one bit of a register. -/
def setFlag (p : Pg) (i off b : Nat) (x : Bool) (s : State) : State := setFld p i off b b x.toNat s

/-- `CTRL.EN` of a page (R62). -/
def enabled (s : State) (p : Pg) (i : Nat) : Bool := flag s p i Reg.CTRL 0

/-- Whether the page runs host-assisted (`MODE.SEL` = 0b01, R62). -/
def assisted (s : State) (p : Pg) (i : Nat) : Bool := fld s p i Reg.MODE 1 0 == 1

-- Cell time

/-- The integer part of cell time, ns (R73). -/
def nsOf (s : State) : Nat := s.clk.now / 2 ^ 32

/-- The timestamp of the present instant (R75). [DEDUCED, log 7] -/
def stamp (s : State) : Word := BitVec.ofNat 32 (nsOf s)

/-- What one cell-clock edge adds to cell time: 1 ns × (1 + ρ), LSB 2⁻³² ns (R73; the fraction below the LSB is dropped).
[DEDUCED, log 7] -/
def edgeStep (rho : Int) : Nat := (2 ^ 32 + rho * 2 ^ 24 / 10 ^ 9).toNat

/-- Draw the count of a free value. [DESIGN CHOICE, log 9] -/
def drawFree (s : State) : Nat × State := (s.clk.free, { s with clk := { s.clk with free := s.clk.free + 1 } })

/-- The bus cycle in ns: that of the active schedule bank (R127, R128); with no bank it is a free value.
[DESIGN CHOICE, log 103] -/
def busNs (s : State) : Nat :=
  match s.wl.banks[s.wl.act] with
  | some b => 20 * b.cycle
  | none => (Config.freeBus.toNat)

/-- Cell time, LSB 2⁻³² ns, of the sync instant of cycle tag `tag` (R74, R191). -/
def syncAt (s : State) (tag : BitVec 48) : Nat := s.clk.ts + (tag - s.clk.tag0).toNat * busNs s * 2 ^ 32

/-- Cell time, LSB 2⁻³² ns, `ns` after the sync instant of the running cycle (R74, R129). -/
def intoCycle (s : State) (ns : Nat) : Nat := syncAt s s.clk.tag + ns * 2 ^ 32

/-- The plan cycle p in bus cycles: that of the active pattern bank (R232); 1 while there is none. [DESIGN CHOICE, log 103] -/
def planBus (s : State) : Nat :=
  match s.plf.banks[s.plf.act] with
  | some b => b.plancyc
  | none => 1

-- Instance numbers

/-- An encoder, output, stepper channel or input by its number. -/
def fin16 (i : Nat) : Sixteen := ⟨i % 16, Nat.mod_lt _ (by decide)⟩
/-- A generator by its number. -/
def fin32 (i : Nat) : Prg := ⟨i % 32, Nat.mod_lt _ (by decide)⟩
/-- An arm by its number. -/
def fin12 (i : Nat) : Arm := ⟨i % 12, Nat.mod_lt _ (by decide)⟩
/-- A hub, port or channel by its number. -/
def fin2 (i : Nat) : Fin 2 := ⟨i % 2, Nat.mod_lt _ (by decide)⟩
/-- An ADC pair by its number. -/
def fin4 (i : Nat) : AdcPair := ⟨i % 4, Nat.mod_lt _ (by decide)⟩
/-- A cartridge by its number. -/
def fin5 (i : Nat) : Cart := ⟨i % 5, Nat.mod_lt _ (by decide)⟩

-- Hubs and lanes

/-- The cartridge number of a lane. -/
def laneCart (l : Lane) : Cart := ⟨l.val, by omega⟩

/-- The cartridge number of a hub. -/
def hubCart (h : Hub) : Cart := ⟨3 + h.val, by omega⟩

/-- The other hub, port or channel. -/
def other (h : Fin 2) : Fin 2 := if h = 0 then 1 else 0

/-- Whether a lane is in step (R38, R440) and not excluded from votes (R437). [DEDUCED, log 8] -/
def laneIn (s : State) (l : Lane) : Bool := (s.carts[laneCart l]).st == .instep && !s.vote.excluded.getLsbD l.val

/-- The lanes in step, ascending. -/
def lanesIn (s : State) : List Lane := allLanes.filter (laneIn s)

/-- How many lanes are in step. -/
def laneCount (s : State) : Nat := (lanesIn s).length

/-- The lane that holds a role (R27). -/
def laneOfRole (s : State) (r : Role) : Option Lane :=
  allLanes.find? fun l => laneIn s l && (s.carts[laneCart l]).role == r

/-- Whether both hubs drive. -/
def bothHubs (s : State) : Bool := s.clk.alive[(0 : Hub)] && s.clk.alive[(1 : Hub)]

/-- The hubs that drive, ascending. -/
def hubsAlive (s : State) : List Hub := [(0 : Hub), 1].filter fun h => s.clk.alive[h]

/-- A value that the hubs exchange goes into the input bundle; its single-hub flag sets where one hub alone contributes (R18, R19). -/
def exchanged (s : State) : State := if bothHubs s then s else { s with clk := { s.clk with single := true } }

/-- Change one cartridge. -/
def modCart (c : Cart) (f : Cartridge → Cartridge) (s : State) : State := { s with carts := vmod s.carts c f }

-- Interrupts (R65, R66)

/-- The vector of a page, if it has one (R65). -/
def vectorOf (p : Pg) (i : Nat) : Nat :=
  if p = .arm then 32 + i else if (pgRow p).cell then 16 + (pgRow p).cls else (pgRow p).cls

/-- The interrupt status that counts for the vector: the register in the hub view, its voted value in the cell view (R65). -/
def irqSource (s : State) (p : Pg) (i : Nat) : Word :=
  if (pgRow p).cell then Sparse.get 0 (regKey p i Reg.IRQ_STAT) s.link.voted else reg s p i Reg.IRQ_STAT

/-- Whether the source of the page's vector is 1: the OR over every instance that shares it (R65). -/
def vectorUp (s : State) (p : Pg) (i : Nat) : Bool :=
  (if p = .arm then [i] else List.range (pgRow p).count).any fun k =>
    (irqSource s p k &&& reg s p k Reg.IRQ_EN) != 0

/-- A port sends the message of vector `v`, or marks it pending while it is masked (R66). [DEDUCED, log 28] -/
def sendVector (v : Nat) (q : Port) (s : State) : State :=
  if s.clk.alive[q] then
    let t := s.link.msix[q]
    let e := Sparse.get {} v t
    if e.masked then
      { s with link := { s.link with msix := vset s.link.msix q (Sparse.put {} v { e with pend := true } t) } }
    else { s with link := { s.link with sent := ⟨q, v, e.addr, e.data⟩ :: s.link.sent } }
  else s

/-- Both ports send the message of vector `v` (R65). [DEDUCED, log 28] -/
def sendBoth (v : Nat) (s : State) : State := sendVector v 1 (sendVector v 0 s)

/-- Apply a change to a page's interrupt registers and send the message where the vector's source rises (R66).
[DEDUCED, log 28] -/
def withRise (p : Pg) (i : Nat) (f : State → State) (s : State) : State :=
  let t := f s
  if vectorUp t p i && !vectorUp s p i then sendBoth (vectorOf p i) t else t

/-- Hardware sets bits of `IRQ_STAT` (R62). -/
def irqMask (p : Pg) (i : Nat) (m : Word) (s : State) : State :=
  withRise p i (fun s => setReg p i Reg.IRQ_STAT (reg s p i Reg.IRQ_STAT ||| m) s) s

/-- Hardware sets one bit of `IRQ_STAT`. -/
def irq (p : Pg) (i b : Nat) (s : State) : State := irqMask p i (BitVec.ofNat 32 (2 ^ b)) s

/-- Set one bit of `IRQ_STAT` where the condition holds. -/
def irqIf (c : Bool) (p : Pg) (i b : Nat) (s : State) : State := if c then irq p i b s else s

/-- Bit of `IRQ_STAT` that `READY` changes set (R62). -/
def irqReadyChg : Nat := 0
/-- Bit of `IRQ_STAT` that a recorded error sets (R62). -/
def irqErr : Nat := 1
/-- Bit of `IRQ_STAT` that a counter wrap sets (R62). -/
def irqOvf : Nat := 2
/-- Bit of `IRQ_STAT` that late host-assisted data sets (R62, R67). -/
def irqHaLate : Nat := 3

/-- A page records an error: code, saturating count, `IRQ_STAT.ERR` (R62). -/
def recordErr (p : Pg) (i code : Nat) (s : State) : State :=
  let n := fld s p i Reg.ERR 31 16
  irq p i irqErr (setReg p i Reg.ERR (BitVec.ofNat 32 (min (n + 1) 0xFFFF * 2 ^ 16 + code % 2 ^ 16)) s)

/-- A counter of a page has wrapped: its `CNT_OVF` bit and `IRQ_STAT.OVF` set (R63). -/
def wrapped (p : Pg) (i n : Nat) (s : State) : State := irq p i irqOvf (setFlag p i Reg.CNT_OVF n true s)

/-- Counter `n` of a page as hub `h` holds it (R50). -/
def ownCount (s : State) (h : Hub) (p : Pg) (i n : Nat) : Word :=
  reg s p i (Reg.CNT + 4 * n) + Sparse.get 0 (regKey p i (Reg.CNT + 4 * n)) s.hubCnt[h]

/-- Counter `n` of a page counts `k` events; a wrap sets its `CNT_OVF` bit and `IRQ_STAT.OVF` (R63). -/
def countBy (p : Pg) (i n k : Nat) (s : State) : State :=
  let t := setReg p i (Reg.CNT + 4 * n) (BitVec.ofNat 32 ((reg s p i (Reg.CNT + 4 * n)).toNat + k)) s
  if (ownCount s 0 p i n).toNat + k < 2 ^ 32 ∧ (ownCount s 1 p i n).toNat + k < 2 ^ 32 then t else wrapped p i n t

/-- Counter `n` of a hub-view page counts one event that hub `h` alone has seen (R50, R63). -/
def countHub (h : Hub) (p : Pg) (i n : Nat) (s : State) : State :=
  let k := regKey p i (Reg.CNT + 4 * n)
  let t := { s with hubCnt := vmod s.hubCnt h fun l => Sparse.put 0 k (Sparse.get 0 k l + 1) l }
  if ownCount t h p i n = 0 then wrapped p i n t else t

/-- A lane-private counter (R59, R63) counts `k` events. -/
def countPriv (p : Pg) (n k : Nat) (s : State) : State :=
  let a := regKey p 0 (Reg.CNT + 4 * n)
  let v := Sparse.get 0 a s.lanePriv
  let t := { s with lanePriv := Sparse.put 0 a (v + BitVec.ofNat 32 k) s.lanePriv }
  if v.toNat + k < 2 ^ 32 then t else wrapped p 0 n t

/-- Counter `n` of a page counts one event (R63). -/
def count (p : Pg) (i n : Nat) (s : State) : State := countBy p i n 1 s

/-- Count one event where the condition holds. -/
def countIf (c : Bool) (p : Pg) (i n : Nat) (s : State) : State := if c then count p i n s else s

/-- The threshold counters of the dispatcher over `n` cell-clock edges (R63): matching-store entries above `CNT_THR_A`, ready tasks above
`CNT_THR_B`, and any entry in the comb. -/
def occupancy (n : Nat) (s : State) : State :=
  let d := s.tds
  let a := decide (fld s .tds 0 Reg.CNT_THR_A 23 0 < d.matching.length)
  let b := decide (fld s .tds 0 Reg.CNT_THR_B 23 0 < d.ready.length)
  let c := !(d.comb.isEmpty && d.combReady.isEmpty && d.combTime.isEmpty && d.combPhase.isEmpty)
  let s := if a then countPriv .tds 13 n s else s
  let s := if b then countPriv .tds 14 n s else s
  if c then countPriv .tds 15 n s else s

/-- `n` cell-clock edges pass (R73). [DEDUCED, log 7] -/
def advance (n : Nat) (s : State) : State :=
  occupancy n { s with clk := { s.clk with now := s.clk.now + n * edgeStep s.clk.rho } }

/-- Cell time moves to an instant, never back (R73). [DEDUCED, log 7] -/
def advanceTo (t : Nat) (s : State) : State :=
  occupancy ((t - s.clk.now) / max 1 (edgeStep s.clk.rho)) { s with clk := { s.clk with now := max s.clk.now t } }

/-- An accepted configuration write is counted (`CHG`, R62). -/
def chg (p : Pg) (i : Nat) (s : State) : State := setReg p i Reg.CHG (reg s p i Reg.CHG + 1) s

/-- Whether a write that acts as `f` is accepted: it records no error on its page (R62). [DEDUCED, log 23] -/
def accepts (p : Pg) (i : Nat) (f : State → State) (s : State) : Bool :=
  reg (f (setReg p i Reg.ERR 0 s)) p i Reg.ERR == 0

/-- A write applied from the staging FIFO counts in `CHG` unless it is refused (R62). [DEDUCED, log 23] -/
def staged (p : Pg) (i : Nat) (f : State → State) (s : State) : State :=
  if accepts p i f s then chg p i (f s) else f s

/-- Host-assisted data missed its cut-off: `IRQ_STAT.HALATE` and the page's counter (R67). -/
def haLate (p : Pg) (i n : Nat) (s : State) : State := count p i n (irq p i irqHaLate s)

/-- Store a page's `READY` word; a change of `READY` or `DEGRADED` sets `READYCHG` (R62). -/
def setReady (p : Pg) (i : Nat) (v : Word) (s : State) : State :=
  let o := reg s p i Reg.READY
  irqIf (field o 1 0 != field v 1 0) p i irqReadyChg (setReg p i Reg.READY v s)

/-- The registers of a page that `CTRL.SRST` returns to their reset values (R566): `CTRL`, `MODE`, `IRQ_EN`, `IRQ_STAT`, `ERR`, the
thresholds and every writable block-specific register that no image gives; `keep` names offsets that stay. -/
def resetRegs (p : Pg) (i : Nat) (keep : List Nat) (s : State) : State :=
  let offs := [Reg.CTRL, Reg.MODE, Reg.IRQ_EN, Reg.IRQ_STAT, Reg.ERR, Reg.CNT_THR_A, Reg.CNT_THR_B] ++
    (pgRegs p).flatMap fun r => if r.image then [] else (List.range r.n).map fun k => r.off + 4 * k
  forEach (offs.filter fun o => !keep.contains o) (fun o s => setReg p i o (regReset p i o) s) s

-- Bulk memory (R69)

/-- The size of BAR2 (R45). -/
def barSize : Nat := 2 ^ 28

/-- A byte of bulk memory. [DESIGN CHOICE, log 6] -/
def memByte (s : State) (a : Nat) : Byte := Sparse.get 0 a s.mem

/-- Write one byte of bulk memory. [DESIGN CHOICE, log 6] -/
def setByte (a : Nat) (b : Byte) (s : State) : State := { s with mem := Sparse.put 0 a b s.mem }

/-- `n` bytes from address `a`. -/
def memBytes (s : State) (a : Nat) : Nat → List Byte
  | 0 => []
  | n + 1 => memByte s a :: memBytes s (a + 1) n

/-- Write consecutive bytes from address `a`. -/
def setBytes (a : Nat) : List Byte → State → State
  | [], s => s
  | b :: r, s => setBytes (a + 1) r (setByte a b s)

/-- A number from bytes, least significant byte first (R7). -/
def leNat : List Byte → Nat
  | [] => 0
  | b :: r => b.toNat + 256 * leNat r

/-- `n` bytes of a number, least significant byte first (R7). -/
def leBytes : Nat → Nat → List Byte
  | 0, _ => []
  | n + 1, v => BitVec.ofNat 8 v :: leBytes n (v / 256)

/-- The number at byte `o`, `n` bytes long, least significant byte first (R7); bytes past the end are 0. -/
def leAt (b : List Byte) (o n : Nat) : Nat := leNat ((b.drop o).take n)

/-- The 32-bit word at address `a` of bulk memory. -/
def memWord (s : State) (a : Nat) : Word := BitVec.ofNat 32 (leNat (memBytes s a 4))

-- Small numbers

/-- A number as a two's-complement integer of `n` bits. -/
def sext (n v : Nat) : Int := if v % 2 ^ n < 2 ^ (n - 1) then (v % 2 ^ n : Nat) else (v % 2 ^ n : Nat) - (2 ^ n : Nat)

/-- Clamp to ±b. -/
def clampI (b x : Int) : Int := max (-b) (min b x)

/-- Absolute value. -/
def absI (x : Int) : Nat := x.natAbs

/-- The low half of a 64-bit value. -/
def lo32 (v : BitVec 64) : Word := v.setWidth 32

/-- The high half of a 64-bit value. -/
def hi32 (v : BitVec 64) : Word := (v >>> 32).setWidth 32

/-- A 64-bit value from its halves. -/
def join64 (h l : Word) : BitVec 64 := h ++ l

/-- Do `f` where the condition holds. -/
def doIf (c : Bool) (f : State → State) (s : State) : State := if c then f s else s

/-- The read of port `q` completes with value `v`. -/
def returnRead (q : Port) (v : Word) (s : State) : State :=
  { s with link := { s.link with readData := vset s.link.readData q v } }

/-- A port whose hub is silent does not respond (R47). -/
def atPort (q : Port) (f : State → State) (s : State) : State := if s.clk.alive[q] then f s else s

/-- A meaning: the module's effect while it has power; a module that is shut down does nothing (R546). [DESIGN CHOICE, log 3] -/
def run (f : State → State) (s : State) : Host.Outcome State Fault Refusal :=
  .next (if s.clk.on then f s else s)

end Sys2Proof.Machine
end

