-- ==== Sys2Proof/Machine/Adc.lean ====
section
/-! DEFINITION. The ADC pairs: grid, sequence, injected groups, invalid conversions, averaging, calibration, results
(R510 to R529). -/

namespace Sys2Proof.Machine

-- IRQ_STAT bits of the ADC page
def adcEos : Nat := 8
def adcInjDone : Nat := 9
def adcInjDrop : Nat := 10
def adcFifoOvf : Nat := 11
def adcCalDone : Nat := 12
def adcCalFail : Nat := 13

/-- Change one pair. -/
def modPair (p : AdcPair) (f : AdcUnit → AdcUnit) (s : State) : State :=
  { s with adc := { s.adc with pair := vmod s.adc.pair p f } }

/-- Change one converter. -/
def modConv (p : AdcPair) (c : Fin 2) (f : Converter → Converter) (s : State) : State :=
  modPair p (fun u => { u with conv := vmod u.conv c f }) s

/-- An input number. -/
def inputOf (n : Nat) : Fin 24 := ⟨n % 24, Nat.mod_lt _ (by decide)⟩

/-- The 5-bit field `i` of a word of inputs spaced `w` bits. -/
def inputField (v : Word) (w i : Nat) : Nat := v.toNat / 2 ^ (w * i) % 32

/-- The input of a regular position by the words in force (R513). -/
def seqInput (u : AdcUnit) (pos : Nat) : Nat :=
  let w := if pos < 6 then u.seq[(0 : Fin 3)] else if pos < 12 then u.seq[(1 : Fin 3)] else u.seq[(2 : Fin 3)]
  inputField w 5 (pos % 6)

/-- `EXTRA` of an input, ns (R512). -/
def extraNs (s : State) (input : Nat) : Nat :=
  10 * fld s .adc (input / 6) (Reg.ADC_INCFG + 4 * (input % 6)) 15 8

/-- Put the sequence words written into force and restart the averagers where a write waits (R513). -/
def latchSequence (p : AdcPair) (s : State) : State :=
  let i := p.val
  modPair p (fun u => if u.dirty then { u with
    dirty := false, cfg := reg s .adc i Reg.ADC_CFG, avg := Vector.replicate 16 {},
    seq := vset (vset (vset u.seq 0 (reg s .adc i Reg.ADC_SEQ)) 1 (reg s .adc i (Reg.ADC_SEQ + 4))) 2 (reg s .adc i Reg.ADC_SEQ2) }
    else u) s

/-- A group is pending or running (R517). -/
def groupActive (u : AdcUnit) : Bool := u.pend || u.running

/-- A trigger of kind `k` from instance `sel` (R515, R517): the group of every pair that selects it becomes pending, from
`delay` ns later on, or the trigger is dropped. [DEDUCED, log 41] -/
def adcTrigger (k sel delay : Nat) (s : State) : State :=
  forEach allPairs (fun p s =>
    let i := p.val
    let cfg := reg s .adc i Reg.ADC_INJ_CFG
    if enabled s .adc i && field cfg 2 0 == k && (k == 1 || field cfg 7 4 == sel) then
      let u := s.adc.pair[p]
      if groupActive u then count .adc i 4 (irq .adc i adcInjDrop s)
      else
        let w := reg s .adc i Reg.ADC_INJ_SEQ
        let len := field cfg 9 8 + 1
        modPair p (fun u => { u with
          pend := true, inj := (List.range len).map (inputField w 8), injNext := 0, injLeft := len, injFrom := nsOf s + delay }) s
    else s) s

/-- A conversion of `input` starts on converter `c` (R518: the counts of invalid conversions run down). -/
def startConv (p : AdcPair) (c : Fin 2) (e : ConvEntry) (input : Nat) (s : State) : State :=
  let m := inputOf input
  let g := s.adc.gainLeft[m]
  let f := s.adc.filterLeft[m]
  let t := modConv p c (fun v => { v with job := some ⟨e, m.val, stamp s, decide (0 < g), decide (0 < f), nsOf s + 1000 + extraNs s m.val⟩ }) s
  { t with adc := { t.adc with gainLeft := vset t.adc.gainLeft m (g - 1), filterLeft := vset t.adc.filterLeft m (f - 1) } }

/-- The instant, ns, of the next sync instant, if bus cycles run. -/
def nextSync (bus : Nat) (s : State) : Option Nat :=
  if s.clk.running then some ((s.clk.ts + (s.clk.tag + 1 - s.clk.tag0).toNat * bus * 2 ^ 32) / 2 ^ 32) else none

/-- Whether a conversion of `input` started now would end after the next sync instant (R512). [DEDUCED, log 41] -/
def overrunsCycle (bus input : Nat) (s : State) : Bool :=
  match nextSync bus s with
  | none => false
  | some t => s.clk.started && decide (t < nsOf s + 1000 + extraNs s input)

/-- A grid point of converter `c`: the first edge at or after the sync instant + k µs, 0.5 µs later for `C1` (R512); before the first
sync instant the grid has no origin. [DEDUCED, log 41] -/
def onGrid (c : Fin 2) (s : State) : Bool :=
  !s.clk.started || !s.clk.running ||
    decide ((s.clk.now + c.val * 500 * 2 ^ 32 - intoCycle s 0) % (1000 * 2 ^ 32) < max 1 (edgeStep s.clk.rho))

/-- The length of a calibration: 48 grid periods, ns (R521). -/
def calNs : Nat := 48000

/-- Start a calibration of converter `c` (R521). -/
def startCal (p : AdcPair) (c : Fin 2) (s : State) : State :=
  modConv p c (fun v => { v with calDue := false, calAct := true, calEnd := nsOf s + calNs }) s

/-- Whether converter `c` can start a calibration that is due (R521, R523). -/
def canCal (u : AdcUnit) (c : Fin 2) : Bool :=
  let v := u.conv[c]
  v.calDue && !v.out && !v.calAct && v.job.isNone && !(u.conv[other c]).calAct && !groupActive u

/-- CONVERSION (R512, R513, R516, R517, R523, R527): converter `c` reaches a grid point with bus cycles of `bus` ns.
[DEDUCED, log 41] -/
def conversion (bus : Nat) (p : AdcPair) (c : Fin 2) (s : State) : State :=
  let u := s.adc.pair[p]
  let v := u.conv[c]
  if !enabled s .adc p.val || v.out || v.calAct || v.job.isSome || !onGrid c s then s
  else if canCal u c then startCal p c s
  else if groupActive u && decide (u.injFrom ≤ nsOf s) && decide (u.injNext < u.inj.length) then
    let m := u.inj.getD u.injNext 0
    if overrunsCycle bus m s then s
    else startConv p c (.injected u.injNext) m
      (modPair p (fun u => { u with pend := false, running := true, injNext := u.injNext + 1 }) s)
  else if assisted s .adc p.val then
    let m := fld s .adc p.val Reg.ADC_HA_SEL 4 0
    if overrunsCycle bus m s then s else startConv p c .assisted m s
  else
    let t := if u.seqPos = 0 then latchSequence p s else s
    let u := t.adc.pair[p]
    let m := seqInput u u.seqPos
    if overrunsCycle bus m s then s
    else startConv p c (.regular u.seqPos) m
      (modPair p (fun u => { u with seqPos := if u.seqPos < field u.cfg 11 8 then u.seqPos + 1 else 0 }) t)

/-- The `TAG` of a conversion with raw code `code` (R519): the lowest code that applies, 0 for a valid result. -/
def convTag (v : Converter) (j : ConvJob) (code : BitVec 12) : Nat :=
  if j.badGain then 1
  else if j.badFilter then 2
  else if v.saturated.isSome && v.saturated != some j.input then 3
  else if !v.calOk then 4
  else if code = 0 ∨ code = 4095 then 5
  else 0

/-- Word 0 of a result (R524). -/
def resultWord (tag entry res : Nat) : Word :=
  BitVec.ofNat 32 ((if tag = 0 then 2 ^ 31 else 0) + tag * 2 ^ 28 + entry * 2 ^ 20 + res % 2 ^ 20)

/-- A regular or host-assisted result enters the FIFO, or is dropped (R525). -/
def pushResult (p : AdcPair) (w0 w1 : Word) (s : State) : State :=
  if (s.adc.pair[p]).fifo.length < 128 then modPair p (fun u => { u with fifo := u.fifo ++ [(w0, w1)] }) s
  else count .adc p.val 5 (irq .adc p.val adcFifoOvf s)

/-- The hubs agree a result (R17, R526). [DEDUCED, log 40] -/
def agreeResult (p : AdcPair) (tag tag' res res' : Nat) (s : State) : State :=
  let tol := fld s .adc p.val Reg.ADC_AGREE 7 0
  countIf (bothHubs s && (tag != tag' || decide (tol < (res : Int) - res' ∨ tol < (res' : Int) - res))) .adc p.val 7 s

/-- A regular result of position `pos` (R525). -/
def regularResult (p : AdcPair) (pos tag res : Nat) (t : Word) (s : State) : State :=
  let w := resultWord tag pos res
  pushResult p w t (setReg .adc p.val (Reg.ADC_POS + 4 * pos) w (count .adc p.val 0 s))

/-- The averager of a position takes a conversion (R520). -/
def average (p : AdcPair) (pos : Fin 16) (j : ConvJob) (tag tag' : Nat) (code code' : Nat) (s : State) : State :=
  let u := s.adc.pair[p]
  let k := field u.cfg 3 0
  if tag ≠ 0 then count .adc p.val 3 (modPair p (fun u => { u with avg := vset u.avg pos {} }) s)
  else
    let w := u.avg[pos]
    let w : Averager := ⟨w.n + 1, w.sum + code, w.otherSum + code', if w.n = 0 then j.start else w.start, w.otherBad || tag' != 0⟩
    if w.n < 2 ^ k then modPair p (fun u => { u with avg := vset u.avg pos w }) s
    else
      let d := 2 ^ field u.cfg 7 4
      regularResult p pos.val 0 (w.sum / d) w.start
        (agreeResult p 0 (b2n w.otherBad) (w.sum / d) (w.otherSum / d) (modPair p (fun u => { u with avg := vset u.avg pos {} }) s))

/-- An injected result of entry `j` (R525). -/
def injectedResult (p : AdcPair) (k tag code : Nat) (t : Word) (s : State) : State :=
  let o := Reg.ADC_INJ + 8 * k
  let s := setReg .adc p.val (o + 4) t (setReg .adc p.val o (resultWord tag (0x10 + k) code) s)
  let left := (s.adc.pair[p]).injLeft - 1
  let s := modPair p (fun u => { u with injLeft := left, running := u.running && decide (0 < left) }) s
  if left = 0 then count .adc p.val 1 (irq .adc p.val adcInjDone s) else s

/-- CONVERSION_COMPLETE (R511, R512, R519, R520, R524 to R526), once the conversion has ended: the raw codes of the reference hub and of
the other hub. [DEDUCED, log 40] -/
def conversionComplete (p : AdcPair) (c : Fin 2) (code code' : BitVec 12) (s : State) : State :=
  let v := (s.adc.pair[p]).conv[c]
  match v.job with
  | none => s
  | some j =>
    if nsOf s < j.ends then s
    else
    let tag := convTag v j code
    let tag' := convTag v j code'
    let edge := decide (code = 0 ∨ code = 4095)
    let s := modConv p c (fun v => { v with job := none, saturated := if edge then some j.input else none }) s
    let s := countIf edge .adc p.val 8 (countIf (tag != 0) .adc p.val 2 s)
    match j.entry with
    | .injected k => injectedResult p k tag code.toNat j.start (agreeResult p tag tag' code.toNat code'.toNat s)
    | .assisted =>
      pushResult p (resultWord tag (0x20 + j.input) code.toNat) j.start (agreeResult p tag tag' code.toNat code'.toNat s)
    | .regular pos =>
      let u := s.adc.pair[p]
      let s := irqIf (pos == 0 && u.seen0) .adc p.val adcEos s
      let s := if pos = 0 then modPair p (fun u => { u with seen0 := true }) s else s
      if field u.cfg 3 0 = 0 then
        regularResult p pos tag code.toNat j.start (agreeResult p tag tag' code.toNat code'.toNat s)
      else average p ⟨pos % 16, Nat.mod_lt _ (by decide)⟩ j tag tag' code.toNat code'.toNat s

/-- CALIBRATION (R521, R523): a calibration of converter `c` falls due; it starts at once on a grid point where nothing
holds it back. -/
def calibration (p : AdcPair) (c : Fin 2) (s : State) : State :=
  let t := modConv p c (fun v => { v with calDue := !v.out && !v.calAct }) s
  if enabled t .adc p.val && onGrid c t && canCal (t.adc.pair[p]) c then startCal p c t else t

/-- CALIBRATION_COMPLETE (R521, R522): `C1` follows `C0`; two failures in a row take the converter out of service. -/
def calibrationComplete (p : AdcPair) (c : Fin 2) (ok : Bool) (s : State) : State :=
  if !((s.adc.pair[p]).conv[c]).calAct || decide (nsOf s < ((s.adc.pair[p]).conv[c]).calEnd) then s
  else
    let s := modConv p c (fun v => { v with
      calAct := false, calOk := v.calOk || ok, fails := if ok then 0 else v.fails + 1, out := v.out || (!ok && decide (1 ≤ v.fails)) }) s
    let s := irqIf (!ok) .adc p.val adcCalFail (count .adc p.val 6 s)
    let next := c = 0 ∧ ((s.adc.pair[p]).conv[(1 : Fin 2)]).out = false
    if next then modConv p 1 (fun v => { v with calDue := true }) s else irq .adc p.val adcCalDone s

/-- `CMD.CAL` (R521, R529): refused while a calibration of the pair is due or running. -/
def writeCal (p : AdcPair) (s : State) : State :=
  let u := s.adc.pair[p]
  let c0 := u.conv[(0 : Fin 2)]
  let c1 := u.conv[(1 : Fin 2)]
  if c0.calDue || c0.calAct || c1.calDue || c1.calAct then recordErr .adc p.val 0x0100 s
  else calibration p (if c0.out then 1 else 0) s

/-- `CMD.FLUSH` (R529). -/
def writeAdcFlush (p : AdcPair) (s : State) : State := modPair p (fun u => { u with fifo := [] }) s

/-- `CMD.RESTART` (R529): the sequence returns to position 0, the averagers restart. -/
def writeRestart (p : AdcPair) (s : State) : State :=
  modPair p (fun u => { u with seqPos := 0, seen0 := false, avg := Vector.replicate 16 {} }) s

/-- The head of the FIFO as `RES_W0` shows it, 0 when it is empty. -/
def resHead (s : State) (p : AdcPair) : Word × Word := (s.adc.pair[p]).fifo.headD (0, 0)

/-- A read of `RES_W0` latches `RES_W1` for the port (R525). -/
def readResW0 (q : Port) (p : AdcPair) (s : State) : Word × State :=
  ((resHead s p).1, modPair p (fun u => { u with w1 := vset u.w1 q (resHead s p).2 }) s)

/-- A read of `RES_W1` returns the latched word and removes the head (R525). -/
def readResW1 (q : Port) (p : AdcPair) (s : State) : Word × State :=
  ((s.adc.pair[p]).w1[q], modPair p (fun u => { u with fifo := u.fifo.tail }) s)

/-- `STAT` of a pair (R529). -/
def adcStat (s : State) (p : AdcPair) : Word :=
  let u := s.adc.pair[p]
  let c0 := u.conv[(0 : Fin 2)]
  let c1 := u.conv[(1 : Fin 2)]
  BitVec.ofNat 32 (u.fifo.length * 2 ^ 16 + u.seqPos * 2 ^ 8 + b2n u.running * 2 ^ 6 + b2n u.pend * 2 ^ 5 +
    b2n c1.calOk * 2 ^ 3 + b2n c0.calOk * 2 ^ 2 + b2n c1.calAct * 2 + b2n c0.calAct)

/-- The inputs of six fields of a sequence word all exist (R529). -/
def inputsOk (v : Word) (w n : Nat) : Bool := (List.range n).all fun i => decide (inputField v w i < 24)

/-- Whether a write of `v` to register `off` of an ADC page lies in its range (R529). -/
def adcInRange (off : Nat) (v : Word) : Bool :=
  if off = Reg.ADC_CFG then decide (field v 7 4 ≤ 8) && decide (field v 3 0 ≤ 8)
  else if off = Reg.ADC_SEQ ∨ off = Reg.ADC_SEQ + 4 then inputsOk v 5 6
  else if off = Reg.ADC_SEQ2 then inputsOk v 5 4
  else if off = Reg.ADC_INJ_CFG then decide (field v 2 0 ≤ 4)
  else if off = Reg.ADC_INJ_SEQ then inputsOk v 8 4
  else if off = Reg.ADC_HA_SEL then decide (field v 4 0 < 24)
  else if Reg.ADC_INCFG ≤ off ∧ off < Reg.ADC_INCFG + 24 then decide (field v 3 2 ≤ 2)
  else true

/-- What a write of a configuration register of pair `p` does besides storing `v` (R513, R518); `old` is the value before. -/
def adcWritten (p : AdcPair) (off : Nat) (old v : Word) (s : State) : State :=
  if off = Reg.ADC_CFG ∨ (Reg.ADC_SEQ ≤ off ∧ off ≤ Reg.ADC_SEQ2) then modPair p (fun u => { u with dirty := true }) s
  else if Reg.ADC_INCFG ≤ off ∧ off < Reg.ADC_INCFG + 24 then
    let m := inputOf (6 * p.val + (off - Reg.ADC_INCFG) / 4)
    let g := if field old 1 0 ≠ field v 1 0 then max s.adc.gainLeft[m] 2 else s.adc.gainLeft[m]
    let n := if field v 3 2 = 1 then 8 else if field v 3 2 = 2 then 80 else 0
    let f := if field old 3 2 ≠ field v 3 2 then max s.adc.filterLeft[m] n else s.adc.filterLeft[m]
    { s with adc := { s.adc with gainLeft := vset s.adc.gainLeft m g, filterLeft := vset s.adc.filterLeft m f } }
  else s

/-- The pair as at power good (R566). -/
def resetPair (p : AdcPair) (s : State) : State := modPair p (fun _ => {}) s

/-- The bundle takes `POS0` to `POS15` at the feedback instant (R525). -/
def adcFeedback (s : State) : State :=
  forEach allPairs (fun p s => modPair p (fun u => { u with
    posFb := (allSixteen.foldl (fun v k => vset v k (reg s .adc p.val (Reg.ADC_POS + 4 * k.val))) u.posFb) }) s) s

/-- ADC_FLUSH. -/
def execAdcFlush (p : AdcPair) (s : State) : Host.Outcome State Fault Refusal := run (writeAdcFlush p) s
/-- RESTART. -/
def execRestart (p : AdcPair) (s : State) : Host.Outcome State Fault Refusal := run (writeRestart p) s
/-- RES_W0_READ. -/
def execResW0Read (port : Port) (p : AdcPair) (s : State) : Host.Outcome State Fault Refusal :=
  run (atPort port fun s => let r := readResW0 port p s; returnRead port r.1 r.2) s
/-- RES_W1_READ. -/
def execResW1Read (port : Port) (p : AdcPair) (s : State) : Host.Outcome State Fault Refusal :=
  run (atPort port fun s => let r := readResW1 port p s; returnRead port r.1 r.2) s

end Sys2Proof.Machine
end

