-- ==== Sys2Proof/Machine/Crc.lean ====
section
/-! DEFINITION. The checks of the spec's data: CRC-16 of the frame header (R134), CRC-32 (R135), CRC-32C (R149). -/

namespace Sys2Proof.Machine

/-- One bit step of a reflected CRC with polynomial `p` (bit-reversed). -/
def crcStep (p c : Word) : Word := if c.getLsbD 0 then (c >>> 1) ^^^ p else c >>> 1

/-- One byte of a reflected CRC. -/
def crcByte (p c : Word) (b : Byte) : Word :=
  let x := c ^^^ b.setWidth 32
  crcStep p (crcStep p (crcStep p (crcStep p (crcStep p (crcStep p (crcStep p (crcStep p x)))))))

/-- CRC-32 of R135: polynomial 0x04C1_1DB7 reflected, initial and final 0xFFFF_FFFF. -/
def crc32 (bs : List Byte) : Word := ~~~ (bs.foldl (crcByte 0xEDB88320) 0xFFFFFFFF)

/-- CRC-32C of R149: polynomial 0x1EDC_6F41 reflected, initial and final 0xFFFF_FFFF. -/
def crc32c (bs : List Byte) : Word := ~~~ (bs.foldl (crcByte 0x82F63B78) 0xFFFFFFFF)

/-- One bit step of the header CRC-16, most significant bit first (R134). -/
def crc16Step (c : BitVec 16) : BitVec 16 := if c.getLsbD 15 then (c <<< 1) ^^^ 0x1021 else c <<< 1

/-- One byte of the header CRC-16. -/
def crc16Byte (c : BitVec 16) (b : Byte) : BitVec 16 :=
  let x := c ^^^ (b.setWidth 16 <<< 8)
  crc16Step (crc16Step (crc16Step (crc16Step (crc16Step (crc16Step (crc16Step (crc16Step x)))))))

/-- CRC-16 of R134: polynomial 0x1021, initial value 0xFFFF, no reflection, no final XOR. -/
def crc16 (bs : List Byte) : BitVec 16 := bs.foldl crc16Byte 0xFFFF

end Sys2Proof.Machine
end

