-- ==== Sys2Proof/Machine/Security.lean ====
section
/-! DEFINITION. Configuration security: the change log, the safety password and its sessions, page locks (R421 to R431). -/

namespace Sys2Proof.Machine

-- IRQ_STAT bits of the SEC page
def secLogHigh : Nat := 8
def secLogFull : Nat := 9
def secPwFail : Nat := 10
def secPwLock : Nat := 11
def secSessEnd : Nat := 12

/-- Change the security unit. -/
def modSec (f : Security → Security) (s : State) : State := { s with sec := f s.sec }

/-- Entries not yet acknowledged (R425). -/
def unacked (s : State) : Nat := (s.sec.seq - s.sec.ack).toNat

/-- The log holds 4,096 unacknowledged entries: every change is refused (R425). -/
def logFull (s : State) : Bool := decide (4096 ≤ unacked s)

/-- The time of a log entry: plant time where it is locked, else cell time with `CELLT` (R431). -/
def logTime (s : State) : BitVec 64 × Bool :=
  if s.servo.st = .locked then (BitVec.ofNat 64 (nsOf s) + s.servo.plantOfs, false) else (BitVec.ofNat 64 (nsOf s), true)

/-- Word 3 of an entry (R431). [DEDUCED, log 34] -/
def logHead (s : State) (src : Nat) (cell : Bool) (cls inst : Nat) : Word :=
  BitVec.ofNat 32 (b2n (logTime s).2 * 2 ^ 31 + src % 8 * 2 ^ 24 + b2n cell * 2 ^ 15 + cls % 32 * 2 ^ 8 + inst % 32)

/-- An accepted change enters the change log (R424). While the log is full it takes no entry, and the change is counted (R425).
[DESIGN CHOICE, log 101] -/
def logChange (src : Nat) (cell : Bool) (cls inst : Nat) (before after : Word) (kind : Nat) (s : State) : State :=
  if logFull s then count .sec 0 4 s
  else
    let n := s.sec.seq + 1
    let e : LogEntry := ⟨n, (logTime s).1, logHead s src cell cls inst, before, after, kind⟩
    let t := count .sec 0 0 (modSec (fun x => { x with log := (e :: x.log).take 4096, seq := n }) s)
    let u := irqIf (unacked t == 3584) .sec 0 secLogHigh t
    irqIf (unacked u == 4096) .sec 0 secLogFull u

/-- A change refused because the log is full (R425): the page concerned records 0x0101. -/
def refuseForLog (p : Pg) (i : Nat) (s : State) : State := count .sec 0 4 (recordErr p i 0x0101 s)

/-- The registers of a page as bytes, for the CRC of a change-log entry: every register at its present value (R431). -/
def pageBytes (s : State) (p : Pg) (i : Nat) : List Byte :=
  (pgRegs p).flatMap fun r => (List.range r.n).flatMap fun k => leBytes 4 (reg s p i (r.off + 4 * k)).toNat

/-- CRC-32 over a page's registers (R431). [DEDUCED, log 34] -/
def pageCrc (s : State) (p : Pg) (i : Nat) : Word := crc32 (pageBytes s p i)

/-- A safety-protected page (R421). -/
def isProtected (p : Pg) : Bool := p == .saf || p == .sio

/-- Whether a write to the page is locked out (R421). -/
def locked (s : State) (p : Pg) : Bool :=
  match p with
  | .saf => !s.sec.saf
  | .sio => !s.sec.sio
  | _ => false

/-- The session ends: pages relock, the key goes (R421, R423). -/
def closeSession (s : State) : State :=
  if s.sec.session.isSome then
    irq .sec 0 secSessEnd (modSec (fun x => { x with session := none, saf := false, sio := false }) s)
  else s

/-- The time without an applied write to a protected page that ends a session: 15 min (R423). -/
def sessionIdleNs : Nat := 900000000000

/-- SESSION_TIMEOUT (R423): 15 min without an applied write to a protected page. -/
def sessionTimeout (s : State) : State :=
  if s.sec.session.any (fun x => x.last + sessionIdleNs ≤ nsOf s) then closeSession s else s

/-- An applied write to a protected page starts the 15 min of the session again (R423). -/
def protectedWrite (s : State) : State :=
  modSec (fun x => { x with session := x.session.map fun y => { y with last := nsOf s } }) s

/-- The session of source `src` ends, if it is the one open (R423). -/
def closeSessionOf (src : Nat) (s : State) : State :=
  match s.sec.session with
  | some x => if x.src = src then closeSession s else s
  | none => s

/-- The 16 bytes of `PWD0` to `PWD3` (R422). -/
def pwdBytes (s : State) : List Byte :=
  (List.range 4).flatMap fun k => leBytes 4 (reg s .sec 0 (Reg.SEC_PWD + 4 * k)).toNat

/-- Printable ASCII (R422). -/
def printable (b : Byte) : Bool := decide (0x20 ≤ b.toNat ∧ b.toNat ≤ 0x7E)

/-- The length of a valid password: 8 to 16 printable bytes followed by zero bytes only (R422). -/
def validPassword (bs : List Byte) : Bool :=
  let n := (bs.takeWhile (· != 0)).length
  decide (8 ≤ n) && (bs.take n).all printable && (bs.drop n).all (· == 0)

/-- `PWD_STAT.RESULT` of the last operation. -/
def pwdResult (r : Nat) (s : State) : State := modSec (fun x => { x with result := r }) s

/-- Seconds of refusal left (R422, `LOCKOUT`). -/
def lockoutLeft (s : State) : Nat :=
  match s.sec.lockEnd with
  | none => 0
  | some e => (e - nsOf s + 999999999) / 1000000000

/-- A wrong password; the fifth in a row locks `OP` 1 out for 60 s (R422). -/
def wrongPassword (s : State) : State :=
  let t := pwdResult 2 (irq .sec 0 secPwFail (count .sec 0 1 (modSec (fun x => { x with left := x.left - 1 }) s)))
  if t.sec.left = 0 then
    irq .sec 0 secPwLock (count .sec 0 2 (modSec (fun x => { x with lockEnd := some (nsOf s + 60000000000) }) t))
  else t

/-- PWLOCK_EXPIRY (R422): a lockout that is over gives five attempts again. -/
def pwlockExpiry (s : State) : State :=
  if s.sec.lockEnd.any (· ≤ nsOf s) then modSec (fun x => { x with lockEnd := none, left := 5 }) s else s

/-- A session opens (R423): a full session draws its key from the reference hub's random source. -/
def beginSession (limited : Bool) (src : Nat) (s : State) : State :=
  let k := drawFree s
  let key := if limited then 0 else Config.freeWord k.1
  pwdResult 1 (count .sec 0 3 (modSec (fun x => { x with session := some ⟨limited, src, key, false, nsOf s⟩, left := 5 })
    (if limited then s else k.2)))

/-- `PWD_CMD.OP` 1 with no lockout that is over (R422). [DEDUCED, log 99] -/
def askSession (src : Nat) (s : State) : State :=
  if s.sec.session.isSome ∨ s.sec.lockEnd.isSome then pwdResult 3 s
  else match s.sec.store with
    | none => if (pwdBytes s).all (· == 0) then beginSession true src s else pwdResult 3 s
    | some (salt, hash) =>
      if Config.passwordHash salt (pwdBytes s) = hash then beginSession false src s else wrongPassword s

/-- OPEN_SESSION (R422): a lockout lasts 60 s and not longer. -/
def openSession (src : Nat) (s : State) : State := askSession src (pwlockExpiry s)

/-- CHANGE_PASSWORD (R422, R424, R425): `PWD_CMD.OP` 2. [DEDUCED, log 99] -/
def changePassword (src : Nat) (s : State) : State :=
  if s.sec.session.isNone ∨ validPassword (pwdBytes s) = false then pwdResult 3 s
  else if logFull s then pwdResult 3 (refuseForLog .sec 0 s)
  else
    let k := drawFree s
    let salt := Config.salt k.1
    let t := modSec (fun x => { x with store := some (salt, Config.passwordHash salt (pwdBytes s)) }) k.2
    pwdResult 1 (logChange src true 7 0 0 0 4 t)

/-- END_SESSION (R422): `PWD_CMD.OP` 3. [DEDUCED, log 99] -/
def endSession (s : State) : State :=
  if s.sec.session.isSome then pwdResult 1 (closeSession s) else pwdResult 3 s

/-- SESS_KEY_READ (R423): the key at its first read, 0 after it. -/
def readSessKey (s : State) : Word × State :=
  match s.sec.session with
  | some x => if x.keyRead then (0, s) else (x.key, modSec (fun y => { y with session := some { x with keyRead := true } }) s)
  | none => (0, s)

/-- LOG_ACK (R425): acknowledges up to a sequence number that the log has reached and not yet acknowledged. [DEDUCED, log 99] -/
def logAck (v : Word) (s : State) : State :=
  if (v - s.sec.ack).toNat ≤ unacked s then modSec (fun x => { x with ack := v }) s else s

/-- The words 0 to 6 of an entry (R431). -/
def logWords (e : LogEntry) : List Word :=
  [e.seq, lo32 e.time, hi32 e.time, e.head, e.before, e.after, BitVec.ofNat 32 e.kind]

/-- A word of an entry; word 7 is the CRC-32 of the others (R431). -/
def logWord (e : LogEntry) (k : Nat) : Word :=
  if k = 7 then crc32 ((logWords e).flatMap fun w => leBytes 4 w.toNat) else (logWords e).getD k 0

/-- `LOG_DATA` (R431): 0 for an overwritten or future entry. -/
def logData (s : State) : Word :=
  match s.sec.log.find? (fun e => e.seq == reg s .sec 0 Reg.SEC_LOG_SEL) with
  | some e => logWord e (fld s .sec 0 Reg.SEC_LOG_WSEL 2 0)
  | none => 0

/-- LOG_DATA_READ (R431): the selected word, and `LOG_WSEL` advances. -/
def readLogData (s : State) : Word × State :=
  (logData s, setFld .sec 0 Reg.SEC_LOG_WSEL 2 0 (fld s .sec 0 Reg.SEC_LOG_WSEL 2 0 + 1) s)

/-- UNLOCK (R421): the session key unlocks a protected page while a full session is open. -/
def unlockPage (p : Pg) (key : Word) (s : State) : State :=
  match s.sec.session with
  | some x =>
    if x.limited = false ∧ key = x.key then
      modSec (fun y => { y with saf := y.saf || p == .saf, sio := y.sio || p == .sio }) s
    else s
  | none => s

/-- MANAGEMENT_CONNECTION (R427): counted as accepted or as a refused handshake. -/
def managementConnection (src : Nat) (ok : Bool) (s : State) : State :=
  if ok then count .sec 0 6 (modSec (fun x => { x with conns := src :: x.conns }) s) else count .sec 0 7 s

/-- MANAGEMENT_CONNECTION_CLOSED (R423). -/
def managementClosed (src : Nat) (s : State) : State :=
  closeSessionOf src (modSec (fun x => { x with conns := x.conns.erase src }) s)

/-- `PWD_STAT` (R431). -/
def pwdStat (s : State) : Word :=
  BitVec.ofNat 32 (min (lockoutLeft s) 0xFFFF * 2 ^ 16 + (pwlockExpiry s).sec.left * 2 ^ 8 + s.sec.result * 4 +
    b2n (s.sec.store.isNone && s.boot.admitted) * 2 + b2n s.sec.session.isSome)

/-- OPEN_SESSION. -/
def execOpenSession (src : BitVec 3) (s : State) : Host.Outcome State Fault Refusal := run (staged .sec 0 (openSession src.toNat)) s
/-- CHANGE_PASSWORD. -/
def execChangePassword (src : BitVec 3) (s : State) : Host.Outcome State Fault Refusal := run (staged .sec 0 (changePassword src.toNat)) s
/-- END_SESSION. -/
def execEndSession (s : State) : Host.Outcome State Fault Refusal := run (staged .sec 0 endSession) s
/-- PWLOCK_EXPIRY. -/
def execPwlockExpiry (s : State) : Host.Outcome State Fault Refusal := run pwlockExpiry s
/-- SESSION_TIMEOUT. -/
def execSessionTimeout (s : State) : Host.Outcome State Fault Refusal := run sessionTimeout s
/-- SESS_KEY_READ. -/
def execSessKeyRead (p : Port) (s : State) : Host.Outcome State Fault Refusal :=
  run (atPort p fun s => let r := readSessKey s; returnRead p r.1 r.2) s
/-- LOG_ACK. -/
def execLogAck (v : Word) (s : State) : Host.Outcome State Fault Refusal := run (staged .sec 0 (logAck v)) s
/-- LOG_DATA_READ. -/
def execLogDataRead (p : Port) (s : State) : Host.Outcome State Fault Refusal :=
  run (atPort p fun s => let r := readLogData s; returnRead p r.1 r.2) s
/-- MANAGEMENT_CONNECTION. -/
def execManagementConnection (src : BitVec 3) (authenticated : Bool) (s : State) : Host.Outcome State Fault Refusal :=
  run (managementConnection src.toNat authenticated) s
/-- MANAGEMENT_CONNECTION_CLOSED. -/
def execManagementConnectionClosed (src : BitVec 3) (s : State) : Host.Outcome State Fault Refusal :=
  run (managementClosed src.toNat) s

end Sys2Proof.Machine
end

