-- ==== Sys2Proof/Machine/Tasks.lean ====
section
/-! DEFINITION. The task dispatcher: matching store, ready store, comb, executors, delay lists (R345 to R361). -/

namespace Sys2Proof.Machine

-- IRQ_STAT bits of the TDS page
def tdsVoid : Nat := 8
def tdsLateFire : Nat := 9
def tdsExpire : Nat := 10

/-- Change the dispatcher. -/
def modTds (f : Dispatcher → Dispatcher) (s : State) : State := { s with tds := f s.tds }

/-- The template of a number, if the table holds it (R345). -/
def templateOf (s : State) (n : Nat) : Option Template := s.tds.templates.find? (fun t => t.index == n)

/-- Executors of each class (R350). -/
def executors (cls : Nat) : Nat := [4, 8, 4, 1, 12, 1].getD cls 0

/-- Capacities of the matching store, the ready store, a delay list and the comb (R346, R349, R356, R360). -/
def matchCap : Nat := 4096
def readyCap : Nat := 512
def delayCap : Nat := 1024
def combCap : Nat := 1048576

/-- Entries in the comb (R360). -/
def combLoad (t : Dispatcher) : Nat := t.comb.length + t.combReady.length + t.combTime.length + t.combPhase.length

/-- The private pages of the lanes in step record `ERR` code 0x0101 (R361). [DEDUCED, log 59] -/
def recordChoke (s : State) : State :=
  forEach (lanesIn s) (fun l s =>
    let k := fun (off : Nat) => (laneCart l).val * 2 ^ 24 + regKey .tds 0 off
    let n := (Sparse.get (reg s .tds 0 Reg.ERR) (k Reg.ERR) s.priv).toNat / 65536
    let q := Sparse.get (reg s .tds 0 Reg.IRQ_STAT) (k Reg.IRQ_STAT) s.priv
    let e := BitVec.ofNat 32 (min (n + 1) 0xFFFF * 65536 + 0x0101)
    { s with priv := Sparse.put 0 (k Reg.IRQ_STAT) (q ||| 2) (Sparse.put 0 (k Reg.ERR) e s.priv) }) s

/-- The comb takes `k` more entries: counted as spills; a full comb stops the lane's releases (R360, R361). [DEDUCED, log 59] -/
def spill (k : Nat) (s : State) : State :=
  let full := decide (combCap < combLoad s.tds)
  let s := if full && !s.tds.choked then recordChoke s else s
  countPriv .tds 9 k (modTds (fun t => { t with choked := t.choked || full }) s)

/-- A task becomes ready (R349, R360). -/
def makeReady (t : Template) (k : TaskKey) (s : State) : State :=
  let r : ReadyTask := ⟨k, t.cls, t.prio, s.tds.stamps⟩
  let s := modTds (fun x => { x with stamps := x.stamps + 1 }) s
  if s.tds.ready.length < readyCap then modTds (fun x => { x with ready := x.ready ++ [r] }) s
  else spill 1 (modTds (fun x => { x with combReady := x.combReady ++ [r] }) s)

/-- Replace or remove the entry of a key in a list of entries. -/
def putEntry (l : List MatchEntry) (k : TaskKey) (e : Option MatchEntry) : List MatchEntry :=
  match e with
  | none => l.filter (fun x => x.key != k)
  | some e => l.map fun x => if x.key = k then e else x

/-- The entry of a key, in the store or in the comb. -/
def entryOf (s : State) (k : TaskKey) : Option MatchEntry := (s.tds.matching ++ s.tds.comb).find? (fun e => e.key == k)

/-- Whether an entry of tag `tag` and lifetime `life` has been removed by now (R348). [DEDUCED, log 88] -/
def lifeOver (s : State) (t : Template) (tag : BitVec 48) : Bool := decide (tag.toNat + t.life ≤ s.clk.tag.toNat)

/-- OPERAND (R346, R347): an operand arrives at the matching store. [DEDUCED, log 88] -/
def operandArrives (n inst idx : Nat) (tag : BitVec 48) (v : BitVec 64) (s : State) : State :=
  match templateOf s n with
  | none => s
  | some t =>
    let k : TaskKey := ⟨tag, n, inst⟩
    if t.nops ≤ idx ∨ lifeOver s t tag then s
    else match entryOf s k with
      | some e =>
        if e.ops.any (fun o => o.1 == idx) then count .tds 0 5 (recordErr .tds 0 0x0100 s)
        else
          let ops := e.ops ++ [(idx, v)]
          let x := if ops.length = t.nops then none else some (⟨k, ops⟩ : MatchEntry)
          let s := modTds (fun d => { d with matching := putEntry d.matching k x, comb := putEntry d.comb k x }) s
          if x.isNone then makeReady t k s else s
      | none =>
        if t.nops = 1 then makeReady t k s
        else if s.tds.matching.length < matchCap then
          modTds (fun d => { d with matching := d.matching ++ [⟨k, [(idx, v)]⟩] }) s
        else spill 1 (modTds (fun d => { d with comb := d.comb ++ [⟨k, [(idx, v)]⟩] }) s)

/-- The instance that an entry names; 0 for an action of a record. -/
def actInstance : DelayAct → Nat
  | .operand inst _ _ => inst
  | .output _ _ => 0

/-- The order of delay entries: key, inserting tag, template, instance (R358). [DEDUCED, log 87] -/
def delayBefore (a b : DelayEntry) : Bool :=
  decide (a.key < b.key) || (a.key == b.key && (decide (a.tag.toNat < b.tag.toNat) || (a.tag == b.tag &&
    (decide (a.tmpl < b.tmpl) || (a.tmpl == b.tmpl && decide (actInstance a.act < actInstance b.act))))))

/-- Insert into a sorted delay list, after its equals. -/
def insertSorted (e : DelayEntry) : List DelayEntry → List DelayEntry
  | [] => [e]
  | x :: r => if delayBefore e x then e :: x :: r else x :: insertSorted e r

/-- Keep the 1,024 entries of smallest key in the list and the rest in the comb (R356, R360). [DEDUCED, log 87] -/
def settleDelay (l comb : List DelayEntry) (e : DelayEntry) : List DelayEntry × List DelayEntry :=
  let all := insertSorted e (l ++ comb)
  (all.take delayCap, all.drop delayCap)

/-- Put one entry into its list. -/
def placeDelay (phase : Bool) (e : DelayEntry) (s : State) : State :=
  let d := s.tds
  if phase then
    let r := settleDelay d.phaseList d.combPhase e
    let s := modTds (fun d => { d with phaseList := r.1, combPhase := r.2 }) s
    if d.combPhase.length < r.2.length then spill 1 s else s
  else
    let r := settleDelay d.timeList d.combTime e
    let s := modTds (fun d => { d with timeList := r.1, combTime := r.2 }) s
    if d.combTime.length < r.2.length then spill 1 s else s

/-- A task of the running bus cycle inserts a delay entry; it waits for its insertion tick (R357). -/
def insertDelay (phase : Bool) (e : DelayEntry) (s : State) : State :=
  modTds (fun d => { d with inserts := d.inserts ++ [(phase, e)] }) s

/-- DELAY_LIST_INSERTION at a tick: entries of earlier tags enter their lists (R357). -/
def insertionTick (s : State) : State :=
  let due := s.tds.inserts.filter fun x => decide (x.2.tag.toNat < s.clk.tag.toNat)
  let s := modTds (fun d => { d with inserts := d.inserts.filter fun x => !decide (x.2.tag.toNat < s.clk.tag.toNat) }) s
  forEach due (fun x s => placeDelay x.1 x.2 s) s

/-- Fire at most 64 due entries of a list: the fired, and the list that remains with its late entries marked (R358). -/
def fireDue (limit : Int) (l : List DelayEntry) : List DelayEntry × List DelayEntry × Nat :=
  let due := l.takeWhile fun e => decide (e.key ≤ limit)
  let late := (due.drop 64).filter fun e => !e.late
  (due.take 64, (due.drop 64).map (fun e => { e with late := true }) ++ l.drop due.length, late.length)

/-- Entries that fired are counted and wait for flow 3, or deliver their operands with the tag of the running cycle. -/
def deliverFired (fs : List DelayEntry) (late : Nat) (s : State) : State :=
  let s := irqIf (decide (0 < late)) .tds 0 tdsLateFire (countBy .tds 0 4 late (countBy .tds 0 2 fs.length s))
  forEach fs (fun e s => match e.act with
    | .operand inst index v => operandArrives e.tmpl inst index s.clk.tag v s
    | .output _ _ => modTds (fun d => { d with fired := d.fired ++ [e] }) s) s

/-- A list refills from the comb (R360). -/
def refillDelay (s : State) : State :=
  let d := s.tds
  let a := min (delayCap - d.timeList.length) d.combTime.length
  let b := min (delayCap - d.phaseList.length) d.combPhase.length
  countPriv .tds 10 (a + b) (modTds (fun d => { d with
    timeList := d.timeList ++ d.combTime.take a, combTime := d.combTime.drop a,
    phaseList := d.phaseList ++ d.combPhase.take b, combPhase := d.combPhase.drop b }) s)

/-- Cell time in nanoseconds of the last tick (R356). -/
def tickNs (s : State) : Nat := nsOf s / 1000 * 1000

/-- TIME_LIST_FIRE (R358). -/
def timeListFire (s : State) : State :=
  let r := fireDue (tickNs s : Int) s.tds.timeList
  refillDelay (deliverFired r.1 r.2.2 (modTds (fun d => { d with timeList := r.2.1 }) s))

/-- PHASE_LIST_FIRE (R358, R359) at line phase `p`; `held` while the line runs backward, is invalid or disabled. -/
def phaseListFire (p : Int) (held : Bool) (s : State) : State :=
  if held then
    countIf (s.tds.phaseList.any fun e => decide (e.key ≤ p)) .tds 0 3 s
  else
    let r := fireDue p s.tds.phaseList
    refillDelay (deliverFired r.1 r.2.2 (modTds (fun d => { d with phaseList := r.2.1 }) s))

/-- COMB_REFILL (R360): entries return from the comb as space frees. -/
def combRefill (s : State) : State :=
  let d := s.tds
  let a := min (matchCap - d.matching.length) d.comb.length
  let b := min (readyCap - d.ready.length) d.combReady.length
  refillDelay (countPriv .tds 10 (a + b) (modTds (fun d => { d with
    matching := d.matching ++ d.comb.take a, comb := d.comb.drop a,
    ready := d.ready ++ d.combReady.take b, combReady := d.combReady.drop b }) s))

/-- Whether flow `f` has passed the release of a task's result (R353). -/
def wasReleased (s : State) (f : Nat) (k : TaskKey) : Bool := s.tds.released.any fun x => x.1 == f && x.2.1 == k

/-- Whether a removed task still owes its flow a result (R348, R353). -/
def owesVoid (s : State) (t : Template) (k : TaskKey) : Bool :=
  match t.flow with
  | some f => !wasReleased s f k
  | none => false

/-- ENTRY_EXPIRY (R348): an incomplete entry past its life is removed; its results become voids. [DEDUCED, log 88] -/
def entryExpiry (n inst : Nat) (tag : BitVec 48) (s : State) : State :=
  let k : TaskKey := ⟨tag, n, inst⟩
  match templateOf s n, entryOf s k with
  | some t, some _ =>
    if lifeOver s t tag then
      let s := modTds (fun d => { d with
        matching := putEntry d.matching k none, comb := putEntry d.comb k none,
        expired := if owesVoid s t k then d.expired ++ [k] else d.expired }) s
      irq .tds 0 tdsExpire (count .tds 0 6 s)
    else s
  | _, _ => s

/-- Whether task `a` goes before task `b`: level, then arrival stamp (R349). -/
def taskBefore (a b : ReadyTask) : Bool := decide (b.prio < a.prio) || (a.prio == b.prio && decide (a.stamp < b.stamp))

/-- A task that is bound to a unit goes to no other (R350). -/
def unitOk (s : State) (unit : Nat) (t : ReadyTask) : Bool :=
  match (templateOf s t.key.tmpl).bind (·.unit) with
  | some u => u == unit
  | none => true

/-- The task that a free executor of a class takes (R349, R350). -/
def pickTask (s : State) (cls unit : Nat) : Option ReadyTask :=
  ((s.tds.ready ++ s.tds.combReady).filter fun t => t.cls == cls && unitOk s unit t).foldl (fun best t => match best with
    | none => some t
    | some b => if taskBefore t b then some t else some b) none

/-- TASK_DISPATCH (R349, R350). -/
def taskDispatch (cls unit : Nat) (s : State) : State :=
  if executors cls ≤ unit ∨ (s.tds.running.any fun r => r.1 == cls && r.2.1 == unit) then s
  else match pickTask s cls unit with
    | none => s
    | some t => count .tds 0 0 (modTds (fun d => { d with
        ready := d.ready.erase t, combReady := d.combReady.erase t, running := d.running ++ [(cls, unit, t.key)] }) s)

/-- TASK_COMPLETION (R351, R353): the result waits in its flow; one that comes after its release instant is discarded.
[DEDUCED, log 58; DESIGN CHOICE, log 105] -/
def taskCompletion (cls unit : Nat) (data : BitVec 64) (s : State) : State :=
  match s.tds.running.find? (fun r => r.1 == cls && r.2.1 == unit) with
  | none => s
  | some r =>
    let k := r.2.2
    let s := modTds (fun d => { d with running := d.running.erase r }) s
    match (templateOf s k.tmpl).bind (fun t => t.flow.map fun f => (f, t.rank)) with
    | none => s
    | some (f, rank) =>
      if wasReleased s f k then s
      else modTds (fun d => { d with held := d.held ++ [⟨f, rank, k, data⟩] }) s

/-- The release key below the tag: rank, then instance (R351). -/
def releaseKey (rank inst : Nat) : Nat := rank * 65536 + inst

-- Digests (R38, R354)

/-- The digest of a lane takes one result that it releases; none for a void. [DESIGN CHOICE, log 56] -/
def foldDigest (l : Lane) (flow key : Nat) (x : Option (BitVec 64)) (s : State) : State :=
  { s with vote := { s.vote with acc := vmod s.vote.acc l fun d => Config.digestStep d flow key x } }

/-- The lanes in step release a result that they share: their digests take it, and `CNT1` counts it. [DESIGN CHOICE, log 56] -/
def releaseShared (flow key : Nat) (v : BitVec 64) (s : State) : State :=
  count .tds 0 1 (forEach (lanesIn s) (fun l s => foldDigest l flow key (some v) s) s)

/-- OPERAND. -/
def execOperand (tmpl : BitVec 10) (inst : BitVec 16) (idx : BitVec 3) (tag : BitVec 48) (value : BitVec 64) (s : State) :
    Host.Outcome State Fault Refusal := run (operandArrives tmpl.toNat inst.toNat idx.toNat tag value) s
/-- COMB_REFILL. -/
def execCombRefill (s : State) : Host.Outcome State Fault Refusal := run combRefill s
/-- ENTRY_EXPIRY. -/
def execEntryExpiry (tmpl : BitVec 10) (inst : BitVec 16) (tag : BitVec 48) (s : State) : Host.Outcome State Fault Refusal :=
  run (entryExpiry tmpl.toNat inst.toNat tag) s
/-- TASK_COMPLETION. -/
def execTaskCompletion (cls : BitVec 3) (unit : BitVec 4) (data : BitVec 64) (s : State) : Host.Outcome State Fault Refusal :=
  run (taskCompletion cls.toNat unit.toNat data) s
/-- TIME_LIST_FIRE. -/
def execTimeListFire (s : State) : Host.Outcome State Fault Refusal := run timeListFire s

end Sys2Proof.Machine
end

