-- ==== Sys2Proof/Machine/Mac.lean ====
section
/-! DEFINITION. The MAC cores: registers, memories, addressing, hardware loops, rotation, the instruction set, result
latency and kernel faults (R310 to R323). -/

namespace Sys2Proof.Machine

-- IRQ_STAT bits of the SDP page
def sdpKFault : Nat := 8
def sdpSat : Nat := 9
def sdpBankSw : Nat := 10

/-- A core as an instruction finds it: the core, the results on their way, the code of a fault (0 none), the low word of the
cycle tag, the core's number. -/
structure MacCtx where
  core : MacCore
  late : List MacWrite
  fault : Nat
  tag : Word
  no : Nat
  clash : Nat
  deriving DecidableEq, Repr

/-- Write one element of a vector; an index past its end writes nothing. -/
def vput (v : Vector α n) (i : Nat) (x : α) : Vector α n := if h : i < n then v.set i x h else v

/-- Read one element of a vector; an index past its end reads `d`. -/
def vget (v : Vector α n) (i : Nat) (d : α) : α := if h : i < n then v[i] else d

/-- A result reaches its register. -/
def landWrite (c : MacCore) : MacWrite → MacCore
  | .d i v => { c with d := vput c.d i v }
  | .a i v => { c with a := vput c.a i v }
  | .m i v => { c with m := vput c.m i v }
  | .w i v => { c with w := vput c.w i v }
  | .acc i v => { c with acc := vput c.acc i v }
  | .pmap v => { c with pmap := v }

/-- The physical data register of a reference to Di (R319). -/
def physD (c : MacCore) (i : Nat) : Nat := if c.rotOn && decide (8 ≤ i) then 8 + (i - 8 + c.rotb.toNat) % 8 else i

/-- The data register Di (R319). -/
def getD (c : MacCore) (i : Nat) : Word := vget c.d (physD c i) 0

/-- The rotation base advances (R319). -/
def rotate (c : MacCore) : MacCore := { c with rotb := c.rotb + 7 }

/-- The program counter after the instruction at `pc`: the ends of hardware loops (R318, R319, R322). [DEDUCED, log 91] -/
def endPass (pc : Nat) : List HwLoop → MacCore → MacCore
  | [], c => { c with pc := pc + 1, loops := [] }
  | l :: r, c =>
    if pc ≠ l.stop then { c with pc := pc + 1, loops := l :: r }
    else
      let c := if l.outer then c else rotate c
      if 1 < c.lc.toNat then
        { c with pc := l.start, loops := l :: r, lc := c.lc - 1, cycles := c.cycles + if l.outer then 2 else 0 }
      else endPass pc r { c with lc := l.saved }

/-- An instruction retires: earlier results appear, then its own; `next` appears after the next instruction (R322). -/
def retire (f : MacCore → MacCore) (next : List MacWrite) (x : MacCtx) : MacCtx :=
  let c := f (x.late.foldl landWrite x.core)
  let c := endPass c.pc c.loops c
  { x with core := { c with cycles := c.cycles + 1 }, late := next }

/-- An instruction faults: none of its effects takes place (R323). -/
def faultWith (code : Nat) (x : MacCtx) : MacCtx := { x with fault := code }

-- Flags (R311, R314, R321)

/-- `N` and `Z` follow a result. -/
def setNZ (neg zero : Bool) (c : MacCore) : MacCore := { c with flg := setField c.flg 3 2 (b2n neg + 2 * b2n zero) }

/-- A saturation sets `V`. -/
def setV (v : Bool) (c : MacCore) : MacCore := if v then { c with flg := c.flg ||| 2 } else c

/-- A compare sets `T`. -/
def setT (t : Bool) (c : MacCore) : MacCore := { c with flg := setField c.flg 0 0 (b2n t) }

/-- Saturate to 32 bits: the value and whether it saturated (R314). -/
def sat32 (v : Int) : Word × Bool :=
  if v < -(2 ^ 31) then (0x80000000, true) else if 2 ^ 31 - 1 < v then (0x7FFFFFFF, true) else (BitVec.ofInt 32 v, false)

-- Addressing (R317)

/-- The low `k` bits of `x`, reversed. -/
def revBits (k x : Nat) : Nat := (List.range k).foldl (fun r i => 2 * r + x / 2 ^ i % 2) 0

/-- The smallest power of two at or above `w`. -/
def powerAbove (w : Nat) : Nat := if w ≤ 1 then 1 else 2 ^ ((w - 1).log2 + 1)

/-- The post-modified address (R317). -/
def postModify (a : BitVec 16) (m : Word) (w : BitVec 16) : BitVec 16 :=
  let ofs : Int := sext 16 (field m 15 0)
  let n := a.toNat
  if bit m 16 then
    let k := field m 20 17
    let low := revBits k (((revBits k (n % 2 ^ k) : Int) + ofs) % (2 ^ k : Nat)).toNat % 2 ^ k
    BitVec.ofNat 16 (n - n % 2 ^ k + low)
  else if w ≠ 0 then
    let base := n - n % powerAbove w.toNat
    BitVec.ofInt 16 ((base : Int) + (((n - base : Nat) : Int) + ofs) % (w.toNat : Int))
  else BitVec.ofInt 16 ((n : Int) + ofs)

/-- An offset register whose other bits are not 0 (R317). [DEDUCED, log 91] -/
def badOffset (m : Word) : Bool := field m 31 21 != 0

/-- Sizes of the memories in words: 0 X, 1 Y, 2 S (R310). -/
def memWords (k : Nat) : Nat := if k = 2 then 32768 else 16384

/-- A word of a memory. -/
def readMem (c : MacCore) (k a : Nat) : Word := Sparse.get 0 a (if k = 0 then c.xMem else if k = 1 then c.yMem else c.sMem)

/-- Store a word. -/
def writeMem (k a : Nat) (v : Word) (c : MacCore) : MacCore :=
  if k = 0 then { c with xMem := Sparse.put 0 a v c.xMem }
  else if k = 1 then { c with yMem := Sparse.put 0 a v c.yMem }
  else { c with sMem := Sparse.put 0 a v c.sMem }

-- Parallel moves (R316, R320)

/-- A parallel move: memory, address register, address, store or load, physical data register. -/
structure Move where
  mem : Nat
  an : Nat
  addr : Nat
  store : Bool
  reg : Nat
  deriving DecidableEq, Repr

/-- The move of one slot, if it is enabled. -/
def slotMove (c : MacCore) (y : Bool) (b : BitVec 7) : Option Move :=
  if bit b 6 then
    let s := field b 4 3
    let an := field c.pmap (3 * s + 2 + if y then 12 else 0) (3 * s + if y then 12 else 0)
    some ⟨if c.stream then 2 else if y then 1 else 0, an, (vget c.a an 0).toNat, bit b 5, physD c (field b 2 0 + if y then 8 else 0)⟩
  else none

/-- Post-modify the address registers of a list, each once, by the registers as the instruction found them in `c` (R311, R322). -/
def postAll (ans : List Nat) (c k : MacCore) : MacCore :=
  ans.eraseDups.foldl (fun k n => { k with a := vput k.a n (postModify (vget c.a n 0) (vget c.m n 0) (vget c.w n 0)) }) k

/-- The multiply operand `v` as signed or unsigned. -/
def mulOperand (signed : Bool) (v : Word) : Int := if signed then v.toInt else v.toNat

/-- The latest value of an accumulator, as the multiply group sees it (R322). -/
def accLatest (x : MacCtx) (a : Nat) : BitVec 72 :=
  x.late.foldl (fun v w => match w with
    | .acc i r => if i = a then r else v
    | _ => v) (vget x.core.acc a 0)

/-- The multiply group (R312, R316, R320 to R322): `f` joins the accumulator and the product; two stream ports at one word clash. -/
def opMul (f : BitVec 72 → BitVec 72 → BitVec 72) (sa sb : Bool) (p : MulArgs) (x : MacCtx) : MacCtx :=
  let c := x.core
  let ms := (slotMove c false p.xmove).toList ++ (slotMove c true p.ymove).toList
  if ms.any fun m => badOffset (vget c.m m.an 0) then faultWith 1 x
  else if ms.any fun m => decide (memWords m.mem ≤ m.addr) then faultWith 2 x
  else
    let prod := BitVec.ofInt 72 (mulOperand sa (getD c p.ds) * mulOperand sb (getD c p.dt))
    let loads := (ms.filter fun m => !m.store).map fun m => MacWrite.d m.reg (readMem c m.mem m.addr)
    let stores := ms.filter (·.store)
    let clash := c.stream && ms.length == 2 && (ms.map (·.addr)).eraseDups.length == 1
    retire (fun k => postAll (ms.map (·.an)) c (stores.foldl (fun k m => writeMem m.mem m.addr (vget c.d m.reg 0) k) k))
      (.acc p.acc (f (accLatest x p.acc) prod) :: loads) { x with clash := b2n clash }

-- ALU group (R320, R321)

/-- The second operand. -/
def aluB (c : MacCore) (p : AluArgs) : Word := if p.useImm then p.imm.signExtend 32 else getD c p.dt

/-- An ALU operation that writes Dd; `f` gives the result and whether it saturated. -/
def opAlu (f : Word → Word → Word × Bool) (p : AluArgs) (x : MacCtx) : MacCtx :=
  let c := x.core
  let r := f (getD c p.ds) (aluB c p)
  retire (fun k => setNZ r.1.msb (r.1 == 0) (setV r.2 { k with d := vput k.d (physD c p.dd) r.1 })) [] x

/-- An ALU operation that cannot saturate. -/
def opPlain (f : Word → Word → Word) (p : AluArgs) (x : MacCtx) : MacCtx := opAlu (fun a b => (f a b, false)) p x

/-- A compare. -/
def opCmp (f : Word → Word → Bool) (p : AluArgs) (x : MacCtx) : MacCtx :=
  let c := x.core
  retire (setT (f (getD c p.ds) (aluB c p))) [] x

/-- `SEL`: Dd = `T` ? Ds : Dt. -/
def opSel (p : AluArgs) (x : MacCtx) : MacCtx := opPlain (fun a b => if bit x.core.flg 0 then a else b) p x

-- Accumulator group

/-- An accumulator operation that writes ACC a. -/
def opAcc (f : BitVec 72 → BitVec 72 → Word → BitVec 72) (p : AccArgs) (x : MacCtx) : MacCtx :=
  let c := x.core
  let r := f (vget c.acc p.a 0) (vget c.acc p.b 0) (getD c p.d)
  retire (fun k => setNZ r.msb (r == 0) { k with acc := vput k.acc p.a r }) [] x

/-- `SH` must be 0 to 63 (R321). -/
def opShAcc (f : BitVec 72 → BitVec 72 → Word → BitVec 72) (p : AccArgs) (x : MacCtx) : MacCtx :=
  if 63 < p.sh.toNat then faultWith 1 x else opAcc f p x

/-- `ASH` (R313, R321). -/
def shiftAcc (sh : BitVec 7) (a : BitVec 72) : BitVec 72 :=
  if sh.msb then a.sshiftRight (-sh.toInt).toNat else a <<< sh.toNat

/-- `STA` (R313, R314, R321). -/
def opSta (p : AccArgs) (x : MacCtx) : MacCtx :=
  if 63 < p.sh.toNat then faultWith 1 x
  else
    let c := x.core
    let v := ((vget c.acc p.a 0).sshiftRight p.sh.toNat).toInt
    let r := if p.sat then sat32 v else (BitVec.ofInt 32 v, false)
    retire (fun k => setNZ r.1.msb (r.1 == 0) (setV r.2 k)) [.d (physD c p.d) r.1] x

-- Loads, stores and immediates

/-- A register of a class exists: D has 16, the others 8 (R311). -/
def classOk (cls reg : Nat) : Bool := cls == 0 || decide (reg < 8)

/-- The write of a class register. -/
def classWrite (c : MacCore) (cls reg : Nat) (v : Word) : MacWrite :=
  match cls with
  | 0 => .d (physD c reg) v
  | 1 => .a reg (v.setWidth 16)
  | 2 => .m reg v
  | _ => .w reg (v.setWidth 16)

/-- The value of a class register. -/
def classRead (c : MacCore) (cls reg : Nat) : Word :=
  match cls with
  | 0 => getD c reg
  | 1 => (vget c.a reg 0).setWidth 32
  | 2 => vget c.m reg 0
  | _ => (vget c.w reg 0).setWidth 32

/-- The first fault of a general load or store, 0 for none. -/
def lsFault (c : MacCore) (p : LsArgs) : Nat :=
  let m := vget c.m p.mm 0
  if p.mem = 3 ∨ classOk p.cls.toNat p.reg = false ∨ (p.noMod = false ∧ badOffset m = true) then 1
  else if c.stream != (p.mem == 2) then 3
  else if memWords p.mem.toNat ≤ (vget c.a p.an 0).toNat then 2
  else 0

/-- Post-modification of a general load or store. -/
def lsPost (c : MacCore) (p : LsArgs) (k : MacCore) : MacCore :=
  if p.noMod then k
  else { k with a := vput k.a p.an (postModify (vget c.a p.an 0) (vget c.m p.mm 0) (vget c.w p.an 0)) }

/-- `LD` (R315, R317, R320, R322). -/
def opLd (p : LsArgs) (x : MacCtx) : MacCtx :=
  let c := x.core
  if lsFault c p ≠ 0 then faultWith (lsFault c p) x
  else retire (lsPost c p) [classWrite c p.cls.toNat p.reg (readMem c p.mem.toNat (vget c.a p.an 0).toNat)] x

/-- `ST`. -/
def opSt (p : LsArgs) (x : MacCtx) : MacCtx :=
  let c := x.core
  if lsFault c p ≠ 0 then faultWith (lsFault c p) x
  else retire (fun k => lsPost c p (writeMem p.mem.toNat (vget c.a p.an 0).toNat (classRead c p.cls.toNat p.reg) k)) [] x

/-- `LDI` (R320). -/
def opLdi (p : LdiArgs) (x : MacCtx) : MacCtx :=
  let c := x.core
  if p.half = 3 ∨ classOk p.cls.toNat p.reg = false then faultWith 1 x
  else
    let v : Word :=
      if p.half = 0 then p.value.signExtend 32
      else if p.half = 1 then p.value.setWidth 32
      else setField (classRead c p.cls.toNat p.reg) 31 16 p.value.toNat
    retire (fun k => landWrite k (classWrite c p.cls.toNat p.reg v)) [] x

-- Conversions (R313, R314, R321)

/-- An integer times 2^e as binary32, truncated toward minus infinity. -/
def cvtfValue (v : Int) (e : Int) : F32 :=
  let k := v.natAbs.log2 + 1 - 24
  fOfScaled (v / (2 ^ k : Nat)) (e + k)

/-- The floor of a binary32 value times 2^e, saturated; NaN gives 0; and whether `V` sets. -/
def cvtiValue (b : F32) (e : Int) : Word × Bool :=
  match single.unpack b.toNat with
  | .nan => (0, true)
  | .inf neg => (if neg then 0x80000000 else 0x7FFFFFFF, true)
  | .fin _ _ _ => sat32 (fFloor e b)

/-- `CVTF`. -/
def opCvtf (p : CvtArgs) (x : MacCtx) : MacCtx :=
  let c := x.core
  retire id [.d (physD c p.dd) (cvtfValue (getD c p.ds).toInt p.e.toInt)] x

/-- `CVTI`. -/
def opCvti (p : CvtArgs) (x : MacCtx) : MacCtx :=
  let c := x.core
  let r := cvtiValue (getD c p.ds) p.e.toInt
  retire (setV r.2) [.d (physD c p.dd) r.1] x

-- Special registers (R320, R322)

/-- The special register of a code, if there is one. [DEDUCED, log 91] -/
def specialRead (x : MacCtx) (code : Nat) : Option Word :=
  let c := x.core
  match code with
  | 0 => some (c.lc.setWidth 32)
  | 1 => some (c.rotb.setWidth 32)
  | 2 => some (c.flg.setWidth 32)
  | 3 => some x.tag
  | 4 => some (BitVec.ofNat 32 x.no)
  | 5 => some (BitVec.ofNat 32 c.joint)
  | 6 => some (c.pmap.setWidth 32)
  | _ => none

/-- `MOVS` from a special register. [DEDUCED, log 91] -/
def opMovsFrom (d code : Nat) (x : MacCtx) : MacCtx :=
  match specialRead x code with
  | some v => retire (fun k => { k with d := vput k.d (physD x.core d) v }) [] x
  | none => faultWith 1 x

/-- `MOVS` to a special register; `TAG_LO`, `CORE` and `JOINT` are read-only. [DEDUCED, log 91] -/
def opMovsTo (d code : Nat) (x : MacCtx) : MacCtx :=
  let v := getD x.core d
  match code with
  | 0 => retire (fun k => { k with lc := v.setWidth 17 }) [] x
  | 1 => retire (fun k => { k with rotb := v.setWidth 3 }) [] x
  | 2 => retire (fun k => { k with flg := v.setWidth 4 }) [] x
  | 6 => retire id [.pmap (v.setWidth 24)] x
  | _ => faultWith 1 x

-- Control group (R318 to R322)

/-- `NOP`. -/
def opNop (x : MacCtx) : MacCtx := retire id [] x

/-- `END` ends the kernel. -/
def opEnd (x : MacCtx) : MacCtx := retire (fun k => { k with running := false }) [] x

/-- A taken branch: 3 cycles in all; within a loop body it is a fault. -/
def takeBranch (ofs : BitVec 16) (x : MacCtx) : MacCtx :=
  if x.core.loops.isEmpty then
    let t : Int := (x.core.pc : Int) + 1 + ofs.toInt
    let y := retire id [] x
    { y with core := { y.core with pc := if t < 0 then y.core.len else t.toNat, cycles := y.core.cycles + 2 } }
  else faultWith 4 x

/-- `BR`, `BRT`, `BRF`: branch where the condition holds. -/
def opBranch (cond : BitVec 4 → Bool) (ofs : BitVec 16) (x : MacCtx) : MacCtx :=
  if cond x.core.flg then takeBranch ofs x else retire id [] x

/-- `SETROT`. -/
def opSetrot (en : Bool) (x : MacCtx) : MacCtx := retire (fun k => { k with rotOn := en }) [] x

/-- `ROT`. -/
def opRot (x : MacCtx) : MacCtx := retire rotate [] x

/-- The pass count of a `LOOP`: the immediate, or bits 16:0 of D (R318). -/
def loopCount (c : MacCore) (p : LoopArgs) : BitVec 17 := if p.cr then (getD c (field p.count 3 0)).setWidth 17 else p.count

/-- `LOOP` (R318, R322). A count of 0 moves past the body, and past the end of an outer body that ends with it.
[DEDUCED, log 91] -/
def opLoop (p : LoopArgs) (x : MacCtx) : MacCtx :=
  let c := x.core
  let n := if p.len = 0 then 64 else p.len.toNat
  let stop := c.pc + n
  let within := match c.loops with
    | [] => true
    | l :: _ => decide (stop ≤ l.stop)
  if within = false then faultWith 4 x
  else if loopCount c p = 0 then
    let k := endPass stop c.loops (x.late.foldl landWrite c)
    { x with core := { k with cycles := k.cycles + 2 }, late := [] }
  else if 2 ≤ c.loops.length then faultWith 4 x
  else
    let y := retire id [] x
    let outer := match c.loops with
      | [] => []
      | l :: r => { l with outer := true } :: r
    { y with core := { y.core with
        pc := c.pc + 1, lc := loopCount c p, loops := ⟨c.pc + 1, stop, c.lc, false⟩ :: outer } }

-- Decoding (R320)

/-- The fields of a multiply word. -/
def mulArgs (w : Word) : MulArgs :=
  ⟨⟨field w 24 23 % 4, Nat.mod_lt _ (by decide)⟩, ⟨field w 22 19 % 16, Nat.mod_lt _ (by decide)⟩,
    ⟨field w 18 15 % 16, Nat.mod_lt _ (by decide)⟩, BitVec.ofNat 7 (field w 14 8), BitVec.ofNat 7 (field w 7 1)⟩

/-- The fields of an ALU word. [DEDUCED, log 91] -/
def aluArgs (w : Word) : AluArgs :=
  ⟨⟨field w 22 19 % 16, Nat.mod_lt _ (by decide)⟩, ⟨field w 18 15 % 16, Nat.mod_lt _ (by decide)⟩,
    ⟨field w 14 11 % 16, Nat.mod_lt _ (by decide)⟩, bit w 10, BitVec.ofNat 10 (field w 9 0)⟩

/-- The fields of an accumulator word. -/
def accArgs (w : Word) : AccArgs :=
  ⟨⟨field w 23 22 % 4, Nat.mod_lt _ (by decide)⟩, ⟨field w 21 20 % 4, Nat.mod_lt _ (by decide)⟩,
    ⟨field w 19 16 % 16, Nat.mod_lt _ (by decide)⟩, bit w 15, BitVec.ofNat 7 (field w 14 8)⟩

/-- The fields of a load or store word. -/
def lsArgs (w : Word) : LsArgs :=
  ⟨BitVec.ofNat 2 (field w 26 25), ⟨field w 24 22 % 8, Nat.mod_lt _ (by decide)⟩, ⟨field w 21 19 % 8, Nat.mod_lt _ (by decide)⟩,
    ⟨field w 18 15 % 16, Nat.mod_lt _ (by decide)⟩, BitVec.ofNat 2 (field w 14 13), bit w 12⟩

/-- The fields of an immediate word. -/
def ldiArgs (w : Word) : LdiArgs :=
  ⟨BitVec.ofNat 2 (field w 27 26), ⟨field w 25 22 % 16, Nat.mod_lt _ (by decide)⟩, BitVec.ofNat 2 (field w 21 20),
    BitVec.ofNat 16 (field w 15 0)⟩

/-- The fields of a convert word. -/
def cvtArgs (w : Word) : CvtArgs :=
  ⟨⟨field w 26 23 % 16, Nat.mod_lt _ (by decide)⟩, ⟨field w 22 19 % 16, Nat.mod_lt _ (by decide)⟩, BitVec.ofNat 6 (field w 18 13)⟩

/-- `ADDS`, `SUBS`, `ABS`, `NEG` (R314). -/
def addSat (a b : Word) : Word × Bool := sat32 (a.toInt + b.toInt)
def subSat (a b : Word) : Word × Bool := sat32 (a.toInt - b.toInt)
def absSat (a _b : Word) : Word × Bool := sat32 a.toInt.natAbs
def negSat (a _b : Word) : Word × Bool := sat32 (-a.toInt)

/-- Shifts take bits 4:0 of the count (R321). -/
def shl32 (a b : Word) : Word := a <<< (b.toNat % 32)
def shra32 (a b : Word) : Word := a.sshiftRight (b.toNat % 32)
def shrl32 (a b : Word) : Word := a >>> (b.toNat % 32)
def min32 (a b : Word) : Word := if a.toInt ≤ b.toInt then a else b
def max32 (a b : Word) : Word := if a.toInt ≤ b.toInt then b else a

/-- The ALU operation of a code. -/
def aluOp (code : Nat) : Option (AluArgs → MacCtx → MacCtx) :=
  match code with
  | 0x00 => some (opPlain fun a _ => a)
  | 0x01 => some (opPlain fun a b => a + b)
  | 0x02 => some (opPlain fun a b => a - b)
  | 0x03 => some (opAlu addSat)
  | 0x04 => some (opAlu subSat)
  | 0x05 => some (opPlain fun a b => a &&& b)
  | 0x06 => some (opPlain fun a b => a ||| b)
  | 0x07 => some (opPlain fun a b => a ^^^ b)
  | 0x08 => some (opPlain shl32)
  | 0x09 => some (opPlain shra32)
  | 0x0A => some (opPlain shrl32)
  | 0x0B => some (opPlain min32)
  | 0x0C => some (opPlain max32)
  | 0x0D => some (opAlu absSat)
  | 0x0E => some (opAlu negSat)
  | 0x0F => some (opCmp fun a b => decide (a.toInt < b.toInt))
  | 0x10 => some (opCmp fun a b => decide (a.toNat < b.toNat))
  | 0x11 => some (opCmp fun a b => a == b)
  | 0x12 => some opSel
  | _ => none

/-- The multiply operation of a code. -/
def mulOp (code : Nat) : Option (MulArgs → MacCtx → MacCtx) :=
  match code with
  | 0 => some (opMul (fun a p => a + p) true true)
  | 1 => some (opMul (fun a p => a + p) true false)
  | 2 => some (opMul (fun a p => a + p) false false)
  | 3 => some (opMul (fun a p => a - p) true true)
  | 4 => some (opMul (fun _ p => p) true true)
  | 5 => some (opMul (fun _ p => p) true false)
  | 6 => some (opMul (fun _ p => p) false false)
  | _ => none

/-- The accumulator operation of a code. -/
def accOp (code : Nat) (p : AccArgs) : Option (MacCtx → MacCtx) :=
  match code with
  | 0 => some (opAcc (fun _ _ _ => 0) p)
  | 1 => some (opShAcc (fun _ _ d => d.signExtend 72 <<< p.sh.toNat) p)
  | 2 => some (opShAcc (fun _ _ d => d.setWidth 72 <<< p.sh.toNat) p)
  | 3 => some (opAcc (fun a b _ => a + b) p)
  | 4 => some (opAcc (fun a b _ => a - b) p)
  | 5 => some (opAcc (fun _ b _ => b) p)
  | 6 => some (opAcc (fun a _ _ => shiftAcc p.sh a) p)
  | 7 => some (opSta p)
  | _ => none

/-- The control operation of a word. [DEDUCED, log 91] -/
def controlOp (w : Word) : Option (MacCtx → MacCtx) :=
  let ofs := BitVec.ofNat 16 (field w 15 0)
  match field w 27 24 with
  | 0 => some opNop
  | 1 => some opEnd
  | 2 => some (opLoop ⟨BitVec.ofNat 6 (field w 23 18), bit w 17, BitVec.ofNat 17 (field w 16 0)⟩)
  | 3 => some (opBranch (fun _ => true) ofs)
  | 4 => some (opBranch (fun f => bit f 0) ofs)
  | 5 => some (opBranch (fun f => !bit f 0) ofs)
  | 6 => some (opSetrot (bit w 0))
  | 7 => some opRot
  | _ => none

/-- The operation of an instruction word; none for an illegal word (R320). -/
def decodeMac (w : Word) : Option (MacCtx → MacCtx) :=
  match field w 31 28 with
  | 0 => controlOp w
  | 1 => if bit w 0 then none else (mulOp (field w 27 25)).map fun f => f (mulArgs w)
  | 2 => (aluOp (field w 27 23)).map fun f => f (aluArgs w)
  | 3 => if field w 7 0 ≠ 0 then none else accOp (field w 27 24) (accArgs w)
  | 4 => if field w 11 0 ≠ 0 then none else some (if bit w 27 then opSt (lsArgs w) else opLd (lsArgs w))
  | 5 => if field w 19 16 ≠ 0 then none else some (opLdi (ldiArgs w))
  | 6 => if field w 12 0 ≠ 0 then none else some (if bit w 27 then opCvti (cvtArgs w) else opCvtf (cvtArgs w))
  | 7 => if field w 18 0 ≠ 0 then none else
      some (if bit w 27 then opMovsTo (field w 26 23) (field w 22 19) else opMovsFrom (field w 26 23) (field w 22 19))
  | _ => none

/-- Run the kernel in the instruction memory until it ends, faults or has used its declared cycles (R322, R323).
[DEDUCED, log 91; DESIGN CHOICE, log 105] -/
def runKernel (limit : Nat) : Nat → MacCtx → MacCtx
  | 0, x => if x.core.running && x.fault == 0 then faultWith 5 x else x
  | k + 1, x =>
    if !x.core.running || x.fault != 0 then x
    else if x.core.len ≤ x.core.pc then faultWith 6 x
    else match decodeMac (Sparse.get 0 (x.core.base + x.core.pc) x.core.pMem) with
      | none => faultWith 1 x
      | some f =>
        let y := f x
        if y.fault == 0 && decide (limit < y.core.cycles) then faultWith 5 y else runKernel limit k y

-- Cores in the machine

/-- The servo datapath with one core changed. -/
def modCore (c : CoreNo) (f : MacCore → MacCore) (s : State) : State :=
  { s with sdp := { s.sdp with core := vmod s.sdp.core c f } }

/-- Change one joint. -/
def modJoint (j : Fin 96) (f : Joint → Joint) (s : State) : State :=
  { s with sdp := { s.sdp with joint := vmod s.sdp.joint j f } }

/-- The joint of a number. -/
def jointNo (n : Nat) : Fin 96 := ⟨n % 96, Nat.mod_lt _ (by decide)⟩

/-- A kernel of joint `j` faults: the first of a bus cycle is recorded, each is counted (R323). [DEDUCED, log 91] -/
def recordKernelFault (stream : Bool) (kernel core joint code : Nat) (s : State) : State :=
  let v := (if stream then 127 else joint) * 2 ^ 24 + kernel * 2 ^ 16 + core * 2 ^ 8 + code
  let s := if s.sdp.faultSeen then s else setReg .sdp 0 Reg.SDP_FAULT (BitVec.ofNat 32 v) s
  let s := { s with sdp := { s.sdp with faultSeen := true } }
  let s := if stream then s else modJoint (jointNo joint) (fun j => { j with faulted := true }) s
  count .sdp 0 0 (irq .sdp 0 sdpKFault s)

/-- KERNEL_FAULT (R323): the kernel that core `c` runs stops with a code. -/
def kernelFault (c : CoreNo) (code : Nat) (s : State) : State :=
  let k := s.sdp.core[c]
  if k.running then
    recordKernelFault k.stream k.kernel c.val k.joint code (modCore c (fun k => { k with running := false }) s)
  else s

/-- A kernel that ends with `V` set is counted (R314, R344). -/
def kernelEnded (v : Bool) (s : State) : State := if v then count .sdp 0 2 (irq .sdp 0 sdpSat s) else s

/-- The context of a core. -/
def macCtx (s : State) (c : CoreNo) : MacCtx := ⟨s.sdp.core[c], s.sdp.late[c], 0, lo32 (s.clk.tag.setWidth 64), c.val, 0⟩

/-- A core's state after an instruction or a kernel. -/
def putCtx (c : CoreNo) (x : MacCtx) (s : State) : State :=
  { s with sdp := { s.sdp with core := vset s.sdp.core c x.core, late := vset s.sdp.late c x.late } }

/-- Core `c` executes one instruction of the kernel that it runs; a stream-port conflict is counted (R344).
[DESIGN CHOICE, log 105] -/
def issue (c : CoreNo) (f : MacCtx → MacCtx) (s : State) : State :=
  if (s.sdp.core[c]).running then
    let y := f (macCtx s c)
    let s := if y.clash = 0 then s else countPriv .sdp 13 1 s
    if y.fault ≠ 0 then kernelFault c y.fault s
    else if y.core.running then putCtx c y s
    else
      let v := bit y.core.flg 1
      kernelEnded v (putCtx c { y with core := { y.core with flg := y.core.flg &&& 0xD, loops := [] } } s)
  else s

/-- The active kernel bank. -/
def kernelBank (s : State) : Option KernelBank := s.sdp.banks[s.sdp.act]

/-- A kernel of the active bank. -/
def bankKernel (s : State) (k : Nat) : Option Kernel := (kernelBank s).bind fun b => b.kernels.find? fun x => x.index == k

/-- The first address in P of a kernel of a bank: kernels lie in the order of the bank (R342). -/
def kernelBase (b : KernelBank) (k : Nat) : Nat :=
  ((b.kernels.takeWhile fun x => x.index != k).map fun x => x.code.length).foldl (· + ·) 0

/-- The registers at the start of a kernel (R311, R341); memories stay. -/
def startCore (stream : Bool) (kernel base len joint : Nat) (c : MacCore) : MacCore :=
  { xMem := c.xMem, yMem := c.yMem, sMem := c.sMem, pMem := c.pMem, stream := stream, kernel := kernel, base := base, len := len,
    joint := joint, running := true }

/-- A stream kernel starts on a MAC core with the values of its task template; the code of a kernel of the bank lies in P (R341, R345).
[DEDUCED, log 91] -/
def startStream (c : CoreNo) (t : Template) (s : State) : State :=
  let base := match kernelBank s with
    | some b => kernelBase b t.kernel
    | none => 0
  let len := match bankKernel s t.kernel with
    | some k => k.code.length
    | none => 0
  let s := { s with sdp := { s.sdp with late := vset s.sdp.late c [] } }
  modCore c (fun k =>
    let k := startCore true t.kernel base len 127 k
    { k with a := vput (vput k.a 0 t.inBase) 1 t.outBase, d := vput k.d 0 t.items }) s

/-- A task on a MAC core is a stream kernel where its template comes from the kernel bank (R345). -/
def dispatchTask (cls unit : Nat) (s : State) : State :=
  let t := taskDispatch cls unit s
  if cls = 1 ∧ s.tds.running.length < t.tds.running.length then
    match t.tds.running.getLast?.bind fun r => templateOf t r.2.2.tmpl with
    | some m => if 768 ≤ m.index then startStream ⟨unit % 8, Nat.mod_lt _ (by decide)⟩ m t else t
    | none => t
  else t

/-- NOP (R321). -/
def execNop (c : CoreNo) (s : State) : Host.Outcome State Fault Refusal := run (issue c (opNop)) s
/-- END (R321). -/
def execEndKernel (c : CoreNo) (s : State) : Host.Outcome State Fault Refusal := run (issue c (opEnd)) s
/-- LOOP (R318). -/
def execLoop (c : CoreNo) (x : LoopArgs) (s : State) : Host.Outcome State Fault Refusal := run (issue c (opLoop x)) s
/-- BR (R321). -/
def execBr (c : CoreNo) (ofs : BitVec 16) (s : State) : Host.Outcome State Fault Refusal := run (issue c (opBranch (fun _ => true) ofs)) s
/-- BRT (R321). -/
def execBrt (c : CoreNo) (ofs : BitVec 16) (s : State) : Host.Outcome State Fault Refusal := run (issue c (opBranch (fun f => bit f 0) ofs)) s
/-- BRF (R321). -/
def execBrf (c : CoreNo) (ofs : BitVec 16) (s : State) : Host.Outcome State Fault Refusal := run (issue c (opBranch (fun f => !bit f 0) ofs)) s
/-- SETROT (R319). -/
def execSetrot (c : CoreNo) (en : Bool) (s : State) : Host.Outcome State Fault Refusal := run (issue c (opSetrot en)) s
/-- ROT (R319). -/
def execRot (c : CoreNo) (s : State) : Host.Outcome State Fault Refusal := run (issue c (opRot)) s
/-- MacSS (R312, R321). -/
def execMacSS (c : CoreNo) (x : MulArgs) (s : State) : Host.Outcome State Fault Refusal := run (issue c (opMul (fun a p => a + p) true true x)) s
/-- MacSU (R312, R321). -/
def execMacSU (c : CoreNo) (x : MulArgs) (s : State) : Host.Outcome State Fault Refusal := run (issue c (opMul (fun a p => a + p) true false x)) s
/-- MacUU (R312, R321). -/
def execMacUU (c : CoreNo) (x : MulArgs) (s : State) : Host.Outcome State Fault Refusal := run (issue c (opMul (fun a p => a + p) false false x)) s
/-- MsuSS (R312, R321). -/
def execMsuSS (c : CoreNo) (x : MulArgs) (s : State) : Host.Outcome State Fault Refusal := run (issue c (opMul (fun a p => a - p) true true x)) s
/-- MpySS (R312, R321). -/
def execMpySS (c : CoreNo) (x : MulArgs) (s : State) : Host.Outcome State Fault Refusal := run (issue c (opMul (fun _ p => p) true true x)) s
/-- MpySU (R312, R321). -/
def execMpySU (c : CoreNo) (x : MulArgs) (s : State) : Host.Outcome State Fault Refusal := run (issue c (opMul (fun _ p => p) true false x)) s
/-- MpyUU (R312, R321). -/
def execMpyUU (c : CoreNo) (x : MulArgs) (s : State) : Host.Outcome State Fault Refusal := run (issue c (opMul (fun _ p => p) false false x)) s
/-- MOV (R321). -/
def execMov (c : CoreNo) (x : AluArgs) (s : State) : Host.Outcome State Fault Refusal := run (issue c (opPlain (fun a _ => a) x)) s
/-- ADD (R321). -/
def execAdd (c : CoreNo) (x : AluArgs) (s : State) : Host.Outcome State Fault Refusal := run (issue c (opPlain (fun a b => a + b) x)) s
/-- SUB (R321). -/
def execSub (c : CoreNo) (x : AluArgs) (s : State) : Host.Outcome State Fault Refusal := run (issue c (opPlain (fun a b => a - b) x)) s
/-- ADDS (R321). -/
def execAdds (c : CoreNo) (x : AluArgs) (s : State) : Host.Outcome State Fault Refusal := run (issue c (opAlu addSat x)) s
/-- SUBS (R321). -/
def execSubs (c : CoreNo) (x : AluArgs) (s : State) : Host.Outcome State Fault Refusal := run (issue c (opAlu subSat x)) s
/-- AND (R321). -/
def execAnd (c : CoreNo) (x : AluArgs) (s : State) : Host.Outcome State Fault Refusal := run (issue c (opPlain (fun a b => a &&& b) x)) s
/-- OR (R321). -/
def execOr (c : CoreNo) (x : AluArgs) (s : State) : Host.Outcome State Fault Refusal := run (issue c (opPlain (fun a b => a ||| b) x)) s
/-- XOR (R321). -/
def execXor (c : CoreNo) (x : AluArgs) (s : State) : Host.Outcome State Fault Refusal := run (issue c (opPlain (fun a b => a ^^^ b) x)) s
/-- SHL (R321). -/
def execShl (c : CoreNo) (x : AluArgs) (s : State) : Host.Outcome State Fault Refusal := run (issue c (opPlain shl32 x)) s
/-- SHRA (R321). -/
def execShra (c : CoreNo) (x : AluArgs) (s : State) : Host.Outcome State Fault Refusal := run (issue c (opPlain shra32 x)) s
/-- SHRL (R321). -/
def execShrl (c : CoreNo) (x : AluArgs) (s : State) : Host.Outcome State Fault Refusal := run (issue c (opPlain shrl32 x)) s
/-- MIN (R321). -/
def execMin (c : CoreNo) (x : AluArgs) (s : State) : Host.Outcome State Fault Refusal := run (issue c (opPlain min32 x)) s
/-- MAX (R321). -/
def execMax (c : CoreNo) (x : AluArgs) (s : State) : Host.Outcome State Fault Refusal := run (issue c (opPlain max32 x)) s
/-- ABS (R321). -/
def execAbs (c : CoreNo) (x : AluArgs) (s : State) : Host.Outcome State Fault Refusal := run (issue c (opAlu absSat x)) s
/-- NEG (R321). -/
def execNeg (c : CoreNo) (x : AluArgs) (s : State) : Host.Outcome State Fault Refusal := run (issue c (opAlu negSat x)) s
/-- CMPLT (R321). -/
def execCmplt (c : CoreNo) (x : AluArgs) (s : State) : Host.Outcome State Fault Refusal := run (issue c (opCmp (fun a b => decide (a.toInt < b.toInt)) x)) s
/-- CMPLTU (R321). -/
def execCmpltu (c : CoreNo) (x : AluArgs) (s : State) : Host.Outcome State Fault Refusal := run (issue c (opCmp (fun a b => decide (a.toNat < b.toNat)) x)) s
/-- CMPEQ (R321). -/
def execCmpeq (c : CoreNo) (x : AluArgs) (s : State) : Host.Outcome State Fault Refusal := run (issue c (opCmp (fun a b => a == b) x)) s
/-- SEL (R321). -/
def execSel (c : CoreNo) (x : AluArgs) (s : State) : Host.Outcome State Fault Refusal := run (issue c (opSel x)) s
/-- CLR (R321). -/
def execClr (c : CoreNo) (x : AccArgs) (s : State) : Host.Outcome State Fault Refusal := run (issue c (opAcc (fun _ _ _ => 0) x)) s
/-- LDA (R321). -/
def execLda (c : CoreNo) (x : AccArgs) (s : State) : Host.Outcome State Fault Refusal := run (issue c (opShAcc (fun _ _ d => d.signExtend 72 <<< x.sh.toNat) x)) s
/-- LDAU (R321). -/
def execLdau (c : CoreNo) (x : AccArgs) (s : State) : Host.Outcome State Fault Refusal := run (issue c (opShAcc (fun _ _ d => d.setWidth 72 <<< x.sh.toNat) x)) s
/-- AADD (R321). -/
def execAadd (c : CoreNo) (x : AccArgs) (s : State) : Host.Outcome State Fault Refusal := run (issue c (opAcc (fun a b _ => a + b) x)) s
/-- ASUB (R321). -/
def execAsub (c : CoreNo) (x : AccArgs) (s : State) : Host.Outcome State Fault Refusal := run (issue c (opAcc (fun a b _ => a - b) x)) s
/-- AMOV (R321). -/
def execAmov (c : CoreNo) (x : AccArgs) (s : State) : Host.Outcome State Fault Refusal := run (issue c (opAcc (fun _ b _ => b) x)) s
/-- ASH (R321). -/
def execAsh (c : CoreNo) (x : AccArgs) (s : State) : Host.Outcome State Fault Refusal := run (issue c (opAcc (fun a _ _ => shiftAcc x.sh a) x)) s
/-- STA (R321). -/
def execSta (c : CoreNo) (x : AccArgs) (s : State) : Host.Outcome State Fault Refusal := run (issue c (opSta x)) s
/-- LD (R320). -/
def execLd (c : CoreNo) (x : LsArgs) (s : State) : Host.Outcome State Fault Refusal := run (issue c (opLd x)) s
/-- ST (R320). -/
def execSt (c : CoreNo) (x : LsArgs) (s : State) : Host.Outcome State Fault Refusal := run (issue c (opSt x)) s
/-- LDI (R320). -/
def execLdi (c : CoreNo) (x : LdiArgs) (s : State) : Host.Outcome State Fault Refusal := run (issue c (opLdi x)) s
/-- CVTF (R321). -/
def execCvtf (c : CoreNo) (x : CvtArgs) (s : State) : Host.Outcome State Fault Refusal := run (issue c (opCvtf x)) s
/-- CVTI (R321). -/
def execCvti (c : CoreNo) (x : CvtArgs) (s : State) : Host.Outcome State Fault Refusal := run (issue c (opCvti x)) s
/-- MOVS from a special register (R320). -/
def execMovsFromSpecial (c : CoreNo) (d : Fin 16) (code : BitVec 4) (s : State) : Host.Outcome State Fault Refusal := run (issue c (opMovsFrom d code.toNat)) s
/-- MOVS to a special register (R320). -/
def execMovsToSpecial (c : CoreNo) (d : Fin 16) (code : BitVec 4) (s : State) : Host.Outcome State Fault Refusal := run (issue c (opMovsTo d code.toNat)) s
/-- KERNEL_CYCLE_LIMIT (R323). -/
def execKernelCycleLimit (c : CoreNo) (s : State) : Host.Outcome State Fault Refusal := run (kernelFault c 5) s
/-- ILLEGAL_INSTRUCTION (R320, R323): an illegal word, or execution past the last instruction. -/
def execIllegalInstruction (c : CoreNo) (word : Word) (pastEnd : Bool) (s : State) : Host.Outcome State Fault Refusal :=
  run (fun s => if pastEnd then kernelFault c 6 s else if (decodeMac word).isNone then kernelFault c 1 s else s) s
/-- TASK_DISPATCH (R349). [DESIGN CHOICE, log 105] -/
def execTaskDispatch (cls : BitVec 3) (unit : BitVec 4) (s : State) : Host.Outcome State Fault Refusal :=
  run (dispatchTask cls.toNat unit.toNat) s

end Sys2Proof.Machine
end

