-- ==== Sys2Proof/Machine/TimeBase.lean ====
section
/-! DEFINITION. The time servo and line phase (R78 to R99), and the commands of the `TB` page that act on them alone. -/

namespace Sys2Proof.Machine

-- IRQ_STAT bits of the TB page
def tbStep : Nat := 8
def tbAsym : Nat := 9
def tbHold : Nat := 10
def tbLock : Nat := 11
def tbRefChg : Nat := 12
def tbLineRev : Nat := 13
def tbLineInv : Nat := 14

/-- Change the servo. -/
def modServo (f : TimeServo → TimeServo) (s : State) : State := { s with servo := f s.servo }

/-- ±200 ppm in ppb with LSB 2⁻¹⁶ (R83). -/
def boundPpb : Int := 200000 * 65536
/-- ±200 ppm in the LSB of ρ, 2⁻⁸ ppb (R84). -/
def boundRho : Int := 51200000
/-- 0.5 ppm in the LSB of ρ (R84). -/
def slewRho : Int := 128000

/-- The mean of the last updates of ρ (R85). [DEDUCED, log 82] -/
def histMean (h : List Int) : Int := if h.isEmpty then 0 else h.sum / (h.length : Int)

/-- The servo enters HOLDOVER: ρ freezes at the mean of its last 16 updates, `HOLD` sets (R85). [DEDUCED, log 82] -/
def enterHoldover (s : State) : State :=
  if s.servo.st = .holdover then s
  else irq .tb 0 tbHold (modServo (fun v => { v with st := .holdover, target := histMean v.hist * 256, okRun := 0 }) s)

/-- The servo loses its source: it holds over unless it has no sample yet (R82, R85). [DEDUCED, log 83] -/
def sourceLost (s : State) : State :=
  if s.servo.st = .acquire ∨ s.servo.st = .locked then enterHoldover s else s

/-- The PI step of an accepted sample (R83). -/
def piStep (s : State) (off : Int) (v : TimeServo) : TimeServo :=
  let i := clampI boundPpb (v.integ + (fld s .tb 0 Reg.TB_KI 23 0 : Int) * off)
  { v with integ := i, target := (fld s .tb 0 Reg.TB_KP 23 0 : Int) * off + i }

/-- The servo takes a sample that the threshold accepts (R83, R85, R89, R569). -/
def acceptSample (off : Int) (s : State) : State :=
  let resumed := s.servo.stepPend || s.servo.st == .holdover || s.servo.st == .free
  let n := if resumed then 0 else if absI off ≤ 1000 then s.servo.okRun + 1 else 0
  let lock := s.servo.st == .acquire && !resumed && decide (16 ≤ n)
  let t := modServo (fun v => piStep s off { v with
    stepPend := false, stepVal := if v.stepPend then 0 else v.stepVal, asym := v.asym && !v.stepPend, okRun := n,
    st := if resumed then .acquire else if lock then .locked else v.st }) (count .tb 0 0 s)
  irqIf lock .tb 0 tbLock t

/-- A sample beyond `JUMP_THR` is refused (R87, R92). -/
def refuseSample (off : Int) (s : State) : State :=
  let suspect := decide (0 < s.servo.asymWin)
  let t := modServo (fun v => { v with stepPend := true, stepVal := BitVec.ofInt 64 off, asym := v.asym || suspect })
    (count .tb 0 1 s)
  enterHoldover (irqIf suspect .tb 0 tbAsym (irq .tb 0 tbStep t))

/-- The first sample after power good or `SRST` aligns plant time (R86). [DEDUCED, log 81] -/
def alignSample (off : Int) (s : State) : State :=
  modServo (fun v => { v with
    aligned := true, plantOfs := v.plantOfs + BitVec.ofInt 64 off, okRun := 0, target := v.integ,
    st := if v.st = .free ∨ (v.st = .holdover ∧ v.stepPend = false) then .acquire else v.st }) (count .tb 0 0 s)

/-- An offset sample reaches the servo (R83, R86, R87, R91). [DEDUCED, log 80] -/
def servoSample (off : Int) (s : State) : State :=
  if 0 < s.servo.quar then
    count .tb 0 2 (modServo (fun v => { v with quar := v.quar - 1, asymWin := if v.quar = 1 then 16 else v.asymWin }) s)
  else if !s.servo.aligned then alignSample off s
  else
    let t := if (fld s .tb 0 Reg.TB_JUMP_THR 29 0) < absI off then refuseSample off s else acceptSample off s
    modServo (fun v => { v with asymWin := v.asymWin - 1 }) t

/-- The mean path delay stepped: the sample at hand and the 7 after it are quarantined (R91). [DEDUCED, log 80] -/
def startQuarantine (s : State) : State :=
  let t := modServo (fun v => { v with quar := 8 }) s
  if t.servo.st = .free then t else enterHoldover t

/-- An acceptance acts at the sync instant (R88); during a quarantine too the servo returns to ACQUIRE (R91). [DEDUCED, log 86] -/
def acceptStep (s : State) : State :=
  if !s.servo.ackPend then s
  else if s.servo.stepPend then
    modServo (fun v => { v with
      ackPend := false, stepPend := false, asym := false, plantOfs := v.plantOfs + v.stepVal, st := .acquire, okRun := 0 }) s
  else recordErr .tb 0 0x0100 (modServo (fun v => { v with ackPend := false }) s)

/-- The host rate word is in force (R93, `KIND` 1). -/
def hostRate (s : State) : Bool := assisted s .tb 0 && flag s .tb 0 Reg.TB_HA_CFG 0

/-- The target of ρ, LSB 2⁻⁸ ppb (R83, R93). -/
def rateTarget (s : State) : Int :=
  if hostRate s && s.servo.st != .holdover then (reg s .tb 0 Reg.TB_HA_RATE).toInt else s.servo.target / 256

/-- ρ moves toward the target by at most 0.5 ppm, within ±200 ppm (R84). -/
def slewRate (s : State) : State :=
  let want := rateTarget s
  let d := clampI slewRho (want - s.clk.rho)
  let r := clampI boundRho (s.clk.rho + d)
  let limited := decide (d ≠ want - s.clk.rho)
  let bounded := decide (r ≠ s.clk.rho + d)
  let t := { s with clk := { s.clk with rho := r } }
  let t := if t.servo.st = .holdover then t else modServo (fun v => { v with hist := (r :: v.hist).take 16 }) t
  countIf bounded .tb 0 5 (countIf limited .tb 0 4 t)

/-- The servo at a sync instant (R84, R85, R88, R93, R569). [DEDUCED, log 82; DEDUCED, log 86] -/
def servoSync (s : State) : State :=
  let t := if hostRate s && (s.servo.st == .free || s.servo.st == .holdover) && !s.servo.stepPend
    then modServo (fun v => { v with st := .acquire, okRun := 0 }) s else s
  let t := modServo (fun v => { v with haAge := if assisted t .tb 0 then v.haAge + 1 else 0 }) t
  let t := match t.servo.st with
    | .free => { t with clk := { t.clk with rho := 0 } }
    | .holdover => count .tb 0 3 (slewRate t)
    | _ => slewRate t
  acceptStep t

/-- The servo and its flags as at power good (R85, R566). -/
def resetServo (s : State) : State := { s with servo := {}, clk := { s.clk with rho := 0 } }

-- Line phase

/-- Change line phase. -/
def modLine (f : LinePhase → LinePhase) (s : State) : State := { s with line := f s.line }

/-- The source channel of line phase (R94). -/
def lineSrc (s : State) : Sixteen := ⟨fld s .tb 0 Reg.TB_LINE_CFG 7 4 % 16, Nat.mod_lt _ (by decide)⟩

/-- `LINE_CFG.EN` (R94). -/
def lineEn (s : State) : Bool := flag s .tb 0 Reg.TB_LINE_CFG 0

/-- `LINE_CFG.INV` (R95). -/
def lineInv (s : State) : Bool := flag s .tb 0 Reg.TB_LINE_CFG 1

/-- Line phase is frozen by `EN` or by a fault of its source (R99). -/
def lineFrozen (s : State) : Bool := !lineEn s || s.line.faultFrozen

/-- The line count: the source channel's count, negated by `INV` (R95). -/
def lineCount (s : State) : Int :=
  let c := (s.enc[lineSrc s]).count.toInt
  if lineInv s then -c else c

/-- The interpolated fraction of R96 at `e` ns after the edge with edge interval `d`. [DEDUCED, log 85] -/
def lineFrac (e d : Nat) : Nat := if d = 0 then 65535 else min (e * 65536 / d) 65535

/-- The phase that the rule of R96 gives at the present instant. -/
def phaseByRule (s : State) : Int :=
  let c := s.enc[lineSrc s]
  let base := (lineCount s + s.line.offset) * 65536
  match c.edgeAt with
  | none => base
  | some t =>
    let f : Int := if c.sameDir then lineFrac (nsOf s - t) c.interval.toNat else 0
    if c.dir = lineInv s then base + f else base - f

/-- Line phase at the present instant (R95, R96, R99). -/
def linePhase (s : State) : Int :=
  match s.line.hold with
  | some p => p
  | none => if lineFrozen s then s.line.last else phaseByRule s

/-- An event of R95 sets phase to `p`. -/
def lineEvent (p : Int) (s : State) : State :=
  modLine (fun l => { l with offset := p / 65536 - lineCount s, hold := some p, last := p, noCompare := true }) s

/-- An evaluation of line phase, which updates `REV` (R96, R97). -/
def evalLine (s : State) : State :=
  let p := linePhase s
  let l := s.line
  if l.noCompare then modLine (fun l => { l with last := p, noCompare := false }) s
  else if p < l.last then
    let t := modLine (fun l => { l with last := p, rev := true }) s
    if l.rev then t else irq .tb 0 tbLineRev (count .tb 0 6 t)
  else if l.last < p then modLine (fun l => { l with last := p, rev := false }) s
  else s

/-- The source channel of line phase is declared faulted (R99). -/
def lineSourceFault (s : State) : State :=
  irq .tb 0 tbLineInv (modLine (fun l => { l with
    valid := false, faultFrozen := true, last := linePhase s, hold := none, loadPend := false }) s)

/-- A `LOAD` of line phase that acts at this sync instant (R95). -/
def lineLoadAct (s : State) : State :=
  if s.line.loadPend && !(s.enc[lineSrc s]).fault then
    let p := (join64 (reg s .tb 0 Reg.TB_LINE_SET_HI) (reg s .tb 0 Reg.TB_LINE_SET_LO)).toInt
    lineEvent p (modLine (fun l => { l with loadPend := false, valid := true, faultFrozen := false }) s)
  else modLine (fun l => { l with loadPend := false }) s

/-- The sync-instant value of line phase, agreed by the hubs (R17, R96); `dis` tells that the other hub's value differed. -/
def lineSample (dis : Bool) (s : State) : State :=
  let t := evalLine s
  countIf (dis && bothHubs t) .tb 0 8 (modLine (fun l => { l with atSync := BitVec.ofInt 64 l.last }) t)

/-- Line phase as at power good (R566). -/
def resetLine (s : State) : State := { s with line := {}, link := { s.link with lineHi := Vector.replicate 2 0 } }

-- Commands

/-- STEP_ACK (R88): a write of 1 to `ACCEPT` acts at the next sync instant. -/
def writeStepAck (v : Word) (s : State) : State :=
  if bit v 0 then modServo (fun x => { x with ackPend := true }) s else s

/-- HA_OFS (R93): one host offset sample, taken in host-assisted mode with `KIND` 0. [DEDUCED, log 80] -/
def writeHaOfs (v : Word) (s : State) : State :=
  if assisted s .tb 0 && !flag s .tb 0 Reg.TB_HA_CFG 0 then
    servoSample v.toInt (modServo (fun x => { x with haAge := 0 }) s)
  else s

/-- HA_RATE (R93, R100): the host rate word, within ±51,200,000. -/
def writeHaRate (v : Word) (s : State) : State :=
  if absI v.toInt ≤ 51200000 then chg .tb 0 (setReg .tb 0 Reg.TB_HA_RATE v s) else recordErr .tb 0 0x0004 s

/-- `LINE_CFG.LOAD` (R95): refused while the source channel is faulted. -/
def writeLineLoad (s : State) : State :=
  if (s.enc[lineSrc s]).fault then recordErr .tb 0 0x0102 s else modLine (fun l => { l with loadPend := true }) s

/-- `LINE_CFG.EN` has been set: phase that clearing it froze goes on from the frozen value, an event of R95; phase that was never
frozen follows the line count, with no evaluation before it to compare (R95, R97). [DEDUCED, log 85] -/
def lineStarted (s : State) : State :=
  let t := modLine (fun l => { l with enFrozen := false }) s
  if s.line.faultFrozen then t
  else if s.line.enFrozen then lineEvent t.line.last t
  else modLine (fun l => { l with last := linePhase t, noCompare := true }) t

/-- LINE_CFG (R94, R95): a change of `SRC` needs `EN` = 0 before the write; setting `EN` continues from the frozen phase.
[DEDUCED, log 85] -/
def writeLineCfg (v : Word) (s : State) : State :=
  let old := reg s .tb 0 Reg.TB_LINE_CFG
  let badSrc := bit old 0 && field v 7 4 != field old 7 4
  let new := (if badSrc then setField v 7 4 (field old 7 4) else v) &&& 0xF3
  let stopped := bit old 0 && !bit new 0
  let started := !bit old 0 && bit new 0
  let t := if stopped then modLine (fun l => { l with last := linePhase s, hold := none, enFrozen := true }) s else s
  let t := chg .tb 0 (setReg .tb 0 Reg.TB_LINE_CFG new t)
  let t := if started then lineStarted t else t
  let t := if badSrc then recordErr .tb 0 0x0101 t else t
  if bit v 8 then writeLineLoad t else t

/-- TB_HA_WINDOW_EXPIRY (R93): `WINDOW` bus cycles without a host sample. -/
def haWindowExpiry (s : State) : State :=
  if assisted s .tb 0 && !flag s .tb 0 Reg.TB_HA_CFG 0 && decide (fld s .tb 0 Reg.TB_HA_CFG 31 16 ≤ s.servo.haAge) then
    haLate .tb 0 7 (sourceLost (modServo (fun x => { x with haAge := 0 }) s))
  else s

/-- STEP_ACK. -/
def execStepAck (v : Word) (s : State) : Host.Outcome State Fault Refusal := run (writeStepAck v) s
/-- HA_OFS. -/
def execHaOfs (v : Word) (s : State) : Host.Outcome State Fault Refusal := run (writeHaOfs v) s
/-- HA_RATE. -/
def execHaRate (v : Word) (s : State) : Host.Outcome State Fault Refusal := run (writeHaRate v) s
/-- TB_HA_WINDOW_EXPIRY. -/
def execTbHaWindowExpiry (s : State) : Host.Outcome State Fault Refusal := run haWindowExpiry s

end Sys2Proof.Machine
end

