-- ==== Sys2Proof/Machine/Firefly.lean ====
section
/-! DEFINITION. The firefly compare outputs: lists, crossings, pulses (R482 to R491), and the commands of `LINE_CFG`,
whose events a list on line phase takes as loads (R485). -/

namespace Sys2Proof.Machine

-- IRQ_STAT bits of the FFY page
def ffyFire : Nat := 8
def ffyMissed : Nat := 9
def ffyDone : Nat := 10
def ffyMerge : Nat := 11
def ffySrcInv : Nat := 12

/-- Change one output. -/
def modFfy (n : Sixteen) (f : Firefly → Firefly) (s : State) : State := { s with ffy := vmod s.ffy n f }

/-- Whether the source is line phase (`CFG.SRC`, R482). -/
def ffyOnPhase (s : State) (n : Sixteen) : Bool := flag s .ffy n Reg.FFY_CFG 0

/-- The encoder channel of a count source (`CFG.CH`). -/
def ffyChannel (s : State) (n : Sixteen) : Sixteen := ⟨fld s .ffy n Reg.FFY_CFG 7 4 % 16, Nat.mod_lt _ (by decide)⟩

/-- The present value of the source (R482). -/
def ffySource (s : State) (n : Sixteen) : Int :=
  if ffyOnPhase s n then linePhase s else (s.enc[ffyChannel s n]).count.toInt

/-- The direction of the source's last count edge, true for reverse (R485). -/
def ffyReverse (s : State) (n : Sixteen) : Bool :=
  if ffyOnPhase s n then (s.enc[lineSrc s]).dir != lineInv s else (s.enc[ffyChannel s n]).dir

/-- Whether the source is invalid (R488). -/
def ffySourceBad (s : State) (n : Sixteen) : Bool :=
  if ffyOnPhase s n then !s.line.valid || !lineEn s
  else (s.enc[ffyChannel s n]).fault || assisted s .enc (ffyChannel s n)

/-- Whether the list fires (R485 to R489). -/
def ffyLive (s : State) (n : Sixteen) : Bool :=
  enabled s .ffy n && flag s .ffy n Reg.FFY_CFG 10 && !(s.ffy[n]).done && !assisted s .ffy n && !ffySourceBad s n

/-- Position, qualifier and state of an entry. -/
def entryPos (f : Firefly) (e : Nat) : Int := (Sparse.get 0 e f.pos + f.shift).toInt
def entryQual (f : Firefly) (e : Nat) : Nat := Sparse.get 3 e f.qual
def entryState (f : Firefly) (e : Nat) : Nat := Sparse.get 0 e f.state

/-- A step from `a` to `b` crosses `p` in a direction that qualifier `q` allows (R483). -/
def crosses (q : Nat) (a b p : Int) : Bool :=
  ((q == 0 || q == 2) && decide (a < p ∧ p ≤ b)) || ((q == 1 || q == 2) && decide (p < a ∧ b ≤ p))

/-- Whether a pulse runs at `t` ns (R484). -/
def pulseOn (f : Firefly) (t : Nat) : Bool :=
  match f.pulse with
  | some e => decide (t < e)
  | none => false

/-- A pulse starts or is extended (R484). -/
def startPulse (n : Sixteen) (s : State) : State :=
  let t := nsOf s
  let s := if pulseOn (s.ffy[n]) t then count .ffy n 2 (irq .ffy n ffyMerge s) else s
  modFfy n (fun f => { f with pulse := some (t + fld s .ffy n Reg.FFY_WIDTH 19 0) }) s

/-- A pulse from a source other than the list (R489). -/
def otherPulse (n : Sixteen) (s : State) : State :=
  if enabled s .ffy n then count .ffy n 4 (startPulse n s) else s

/-- The entry at the pointer is fired (R483); a fire is trigger 2 of the ADC pairs (R515). -/
def fireEntry (n : Sixteen) (s : State) : State :=
  let t := stamp s
  let s := modFfy n (fun f => { f with state := Sparse.put 0 f.ptr.toNat 1 f.state, lastT := t }) s
  adcTrigger 2 n 20 (count .ffy n 0 (irq .ffy n ffyFire (startPulse n s)))

/-- The entry at the pointer is missed (R485). -/
def missEntry (n : Sixteen) (s : State) : State :=
  let s := modFfy n (fun f => { f with state := Sparse.put 0 f.ptr.toNat 2 f.state, missIdx := f.ptr }) s
  count .ffy n 1 (irq .ffy n ffyMissed s)

/-- The pointer advances; after entry `END` the list ends or wraps (R486). The flag tells of a wrap. -/
def advancePtr (n : Sixteen) (s : State) : State × Bool :=
  let f := s.ffy[n]
  if f.ptr.toNat ≠ fld s .ffy n Reg.FFY_END 7 0 then (modFfy n (fun f => { f with ptr := f.ptr + 1 }) s, false)
  else if flag s .ffy n Reg.FFY_CFG 9 then
    let st := join64 (reg s .ffy n (Reg.FFY_STEP_LO + 4)) (reg s .ffy n Reg.FFY_STEP_LO)
    (count .ffy n 3 (modFfy n (fun f => { f with ptr := 0, state := [], shift := f.shift + st }) s), true)
  else (irq .ffy n ffyDone (modFfy n (fun f => { f with done := true }) s), false)

/-- A step in the same cycle crosses the entry (R485). -/
def stepHits (q : Nat) (p : Int) : Option (Int × Int) → Bool
  | some (a, b) => crosses q a b p
  | none => false

/-- The entry at the pointer has become current: test it, and every entry that becomes current in turn (R485, R486). A
wrap ends the step; a second wrap leaves the test to a later cycle. [DEDUCED, log 45] -/
def judgeEntries (n : Sixteen) : Nat → Option (Int × Int) → State → State
  | 0, _, s => modFfy n (fun f => { f with judge := true }) s
  | k + 1, step, s =>
    if !ffyLive s n then modFfy n (fun f => { f with judge := false }) s
    else
      let f := s.ffy[n]
      let e := f.ptr.toNat
      let q := entryQual f e
      let p := entryPos f e
      let hit := stepHits q p step
      let now := ffySource s n
      let behind := (q == 0 && decide (p ≤ now) && !ffyReverse s n) || (q == 1 && decide (now ≤ p) && ffyReverse s n)
      let skip := q == 3 || entryState f e != 0
      if !skip && !hit && !behind then modFfy n (fun f => { f with judge := false }) s
      else
        let s := if skip then s else if hit then fireEntry n s else missEntry n s
        let r := advancePtr n s
        if r.2 && step.isNone then modFfy n (fun f => { f with judge := true }) r.1
        else judgeEntries n k (if r.2 then none else step) r.1

/-- Enough tests for one pass over the list and one more after a wrap. -/
def judgeFuel : Nat := 600

/-- The entry at the pointer becomes current with no step in the same cycle (R485). -/
def becomeCurrent (n : Sixteen) (s : State) : State :=
  judgeEntries n judgeFuel none (modFfy n (fun f => { f with phase := linePhase s }) s)

/-- The source of a list makes a step from `a` to `b` (R483, R485). -/
def ffyStep (n : Sixteen) (a b : Int) (s : State) : State :=
  let s := if (s.ffy[n]).judge then judgeEntries n judgeFuel none s else s
  if !ffyLive s n then s
  else
    let f := s.ffy[n]
    let e := f.ptr.toNat
    if entryState f e == 0 && crosses (entryQual f e) a b (entryPos f e) then judgeEntries n judgeFuel (some (a, b)) s
    else s

/-- Every list on the count of channel `ch` takes the step. -/
def ffyCountStep (ch : Sixteen) (a b : Int) (s : State) : State :=
  forEach allSixteen (fun n s => if !ffyOnPhase s n && ffyChannel s n == ch then ffyStep n a b s else s) s

/-- A list on line phase takes the step from the phase last seen to the present phase (R482). [DEDUCED, log 46] -/
def ffyPhaseStep (n : Sixteen) (s : State) : State :=
  let a := (s.ffy[n]).phase
  let b := linePhase s
  ffyStep n a b (modFfy n (fun f => { f with phase := b }) s)

/-- Every list on line phase takes its step. -/
def ffyPhaseSteps (s : State) : State :=
  forEach allSixteen (fun n s => if ffyOnPhase s n then ffyPhaseStep n s else s) s

/-- A load of channel `ch`: the current entry of every list on its count is tested afresh (R478, R485). -/
def ffyCountLoad (ch : Sixteen) (s : State) : State :=
  forEach allSixteen (fun n s => if !ffyOnPhase s n && ffyChannel s n == ch then becomeCurrent n s else s) s

/-- An event of R95: the current entry of every list on line phase is tested afresh (R485). -/
def ffyLineEvent (s : State) : State :=
  forEach allSixteen (fun n s => if ffyOnPhase s n then becomeCurrent n s else s) s

/-- `STAT.SRCINV` of every output follows its source; a source valid again makes the entry current anew (R488).
[DEDUCED, log 46] -/
def ffyRefresh (s : State) : State :=
  forEach allSixteen (fun n s =>
    let bad := ffySourceBad s n
    let old := (s.ffy[n]).srcInv
    let s := modFfy n (fun f => { f with srcInv := bad }) s
    if bad && !old then irq .ffy n ffySrcInv s
    else if !bad && old then becomeCurrent n s
    else s) s

-- Commands

/-- LCTL (R487, R491): commits the entry at `LSEL`. -/
def writeLctl (n : Sixteen) (v : Word) (s : State) : State :=
  let e := fld s .ffy n Reg.FFY_LSEL 7 0
  let q := field v 1 0
  let p := join64 (reg s .ffy n (Reg.FFY_LPOS_LO + 4)) (reg s .ffy n Reg.FFY_LPOS_LO)
  let s := modFfy n (fun f => { f with
    pos := Sparse.put 0 e (p - f.shift) f.pos, qual := Sparse.put 3 e q f.qual, state := Sparse.put 0 e (if q = 3 then 3 else 0) f.state }) s
  let s := chg .ffy n (setReg .ffy n Reg.FFY_LSEL (BitVec.ofNat 32 ((e + 1) % 256)) s)
  if (s.ffy[n]).ptr.toNat = e then becomeCurrent n s else s

/-- What `LCTL` reads: the entry at `LSEL` (R491). -/
def readLctl (s : State) (n : Sixteen) : Word :=
  let e := fld s .ffy n Reg.FFY_LSEL 7 0
  BitVec.ofNat 32 (entryState (s.ffy[n]) e * 16 + entryQual (s.ffy[n]) e)

/-- `CMD.REARM` (R486). [DEDUCED, log 45] -/
def writeRearm (n : Sixteen) (s : State) : State := modFfy n (fun f => { f with state := [] }) s

/-- `CMD.REWIND` (R486). -/
def writeRewind (n : Sixteen) (s : State) : State :=
  becomeCurrent n (modFfy n (fun f => { f with ptr := 0, done := false }) s)

/-- HA_TIME (R489): each write arms one pulse. -/
def writeHaTime (n : Sixteen) (v : Word) (s : State) : State :=
  chg .ffy n (modFfy n (fun f => { f with haArmed := true }) (setReg .ffy n Reg.FFY_HA_TIME v s))

/-- HOST_PULSE (R489): cell time has reached `HA_TIME` in host-assisted mode. -/
def hostPulse (n : Sixteen) (s : State) : State :=
  if assisted s .ffy n && (s.ffy[n]).haArmed && decide (0 ≤ (stamp s - reg s .ffy n Reg.FFY_HA_TIME).toInt) then
    otherPulse n (modFfy n (fun f => { f with haArmed := false }) s)
  else s

/-- PULSE_END (R484): the width of the last fire has elapsed. -/
def endPulse (n : Sixteen) (s : State) : State :=
  modFfy n (fun f => { f with pulse := match f.pulse with
    | some e => if e ≤ nsOf s then none else some e
    | none => none }) s

/-- `STAT` of an output (R491). -/
def ffyStat (s : State) (n : Sixteen) : Word :=
  let f := s.ffy[n]
  BitVec.ofNat 32 (f.missIdx.toNat * 2 ^ 16 + b2n f.srcInv * 2 ^ 10 + b2n f.done * 2 ^ 9 + b2n (pulseOn f (nsOf s)) * 2 ^ 8 + f.ptr.toNat)

/-- What a write of `FFY.CFG` does besides storing it (R485, R488). [DEDUCED, log 45] -/
def ffyCfgWritten (n : Sixteen) (old v : Word) (s : State) : State :=
  let s := ffyRefresh s
  if bit v 10 && (!bit old 10 || bit v 0 != bit old 0 || field v 7 4 != field old 7 4) then becomeCurrent n s else s

/-- LINE_CFG with its effect on lists that watch line phase (R94, R95, R485, R488). -/
def lineCfgWritten (v : Word) (s : State) : State :=
  let t := ffyRefresh (writeLineCfg v s)
  if !lineEn s && lineEn t && s.line.enFrozen then ffyLineEvent t else t

/-- A `LOAD` of line phase at the sync instant, with its effect on lists that watch line phase (R95, R485, R488). -/
def lineLoadSync (s : State) : State :=
  let t := ffyRefresh (lineLoadAct s)
  if s.line.loadPend && !(s.enc[lineSrc s]).fault then ffyLineEvent t else t

/-- LINE_CFG. -/
def execLineCfg (v : Word) (s : State) : Host.Outcome State Fault Refusal := run (lineCfgWritten v) s
/-- LINE_LOAD: a write of `LINE_CFG` with `LOAD` set and the other fields as they stand. -/
def execLineLoad (s : State) : Host.Outcome State Fault Refusal :=
  run (fun s => lineCfgWritten (reg s .tb 0 Reg.TB_LINE_CFG ||| 0x100) s) s
/-- LCTL. -/
def execLctl (n : Sixteen) (v : Word) (s : State) : Host.Outcome State Fault Refusal := run (writeLctl n v) s
/-- REWIND. -/
def execRewind (n : Sixteen) (s : State) : Host.Outcome State Fault Refusal := run (writeRewind n) s
/-- REARM. -/
def execRearm (n : Sixteen) (s : State) : Host.Outcome State Fault Refusal := run (writeRearm n) s
/-- PULSE (R489): `CMD.PULSE` acts when it is applied. -/
def execPulse (dt : Nat) (n : Sixteen) (s : State) : Host.Outcome State Fault Refusal :=
  run (fun s => otherPulse n (advance dt s)) s
/-- HA_TIME. -/
def execHaTime (n : Sixteen) (v : Word) (s : State) : Host.Outcome State Fault Refusal := run (writeHaTime n v) s
/-- HOST_PULSE. -/
def execHostPulse (dt : Nat) (n : Sixteen) (s : State) : Host.Outcome State Fault Refusal :=
  run (fun s => hostPulse n (advance dt s)) s
/-- PULSE_END. -/
def execPulseEnd (dt : Nat) (n : Sixteen) (s : State) : Host.Outcome State Fault Refusal :=
  run (fun s => endPulse n (advance dt s)) s
/-- FIREFLY_PHASE_CROSSING. -/
def execFireflyPhaseCrossing (dt : Nat) (n : Sixteen) (s : State) : Host.Outcome State Fault Refusal :=
  run (fun s => let t := advance dt s; if ffyOnPhase t n then ffyPhaseStep n t else t) s

end Sys2Proof.Machine
end

