-- ==== Sys2Proof/Machine/Kin.lean ====
section
/-! DEFINITION. The binary64 kinematics units: link model, forward kinematics, Jacobians, mass matrix and bias torques, payload
regressor, and rotations as vectors (R210, R245, R257, R259, R260). -/

namespace Sys2Proof.Machine

/-- The arm's model in the arms section. -/
def armModel (s : State) (a : Arm) : Option ArmModel :=
  s.arms.bind fun x => (x.arms.find? fun p => p.1 == a.val).map (·.2)

/-- The joint limits of an arm. -/
def jointLimits (s : State) (a : Arm) : List JointLimits :=
  match armModel s a with
  | some m => m.joints
  | none => []

/-- The number of joints of an arm. -/
def armJoints (s : State) (a : Arm) : Nat := (jointLimits s a).length

/-- 2π in binary64. -/
def twoPi : F64 := 0x401921FB54442D18

/-- Turns of a position of LSB 2⁻²⁰ turn, and radians. -/
def turnsOf (p : Int) : F64 := dOfScaled p (-20)
def radOf (p : Int) : F64 := dMul (turnsOf p) twoPi

/-- Euclidean norm in binary64, terms in order. -/
def norm64 (v : List F64) : F64 := dSqrt (v.foldl (fun a x => dAdd a (dMul x x)) 0)

/-- Difference of two vectors, component by component. -/
def sub64 (a b : List F64) : List F64 := List.zipWith dSub a b

/-- 10⁻⁶ and 10⁻³ in binary64. -/
def micro : F64 := dDiv (dOfInt 1) (dOfInt 1000000)
def milli : F64 := dDiv (dOfInt 1) (dOfInt 1000)

-- Rotations

/-- A quaternion from four numbers w, x, y, z. -/
def quatOf (l : List F64) : Q4 F64 := ⟨l.getD 0 a64.one, a64.ofList (l.drop 1)⟩

/-- The unit quaternion of a rotation matrix, by its largest component. [DESIGN CHOICE, log 106] -/
def matQuat (m : M3 F64) : Q4 F64 :=
  let half := fun x => dDiv x (dOfInt 2)
  let root := fun x => dSqrt (dAdd (dOfInt 1) x)
  let xx := m.a.x
  let yy := m.b.y
  let zz := m.c.z
  if dLt 0 (dAdd (dAdd xx yy) zz) then
    let s := root (dAdd (dAdd xx yy) zz)
    let k := fun x => dDiv x (a64.two s)
    ⟨half s, ⟨k (dSub m.b.z m.c.y), k (dSub m.c.x m.a.z), k (dSub m.a.y m.b.x)⟩⟩
  else if dLe yy xx && dLe zz xx then
    let s := root (dSub (dSub xx yy) zz)
    let k := fun x => dDiv x (a64.two s)
    ⟨k (dSub m.b.z m.c.y), ⟨half s, k (dAdd m.b.x m.a.y), k (dAdd m.c.x m.a.z)⟩⟩
  else if dLe zz yy then
    let s := root (dSub (dSub yy xx) zz)
    let k := fun x => dDiv x (a64.two s)
    ⟨k (dSub m.c.x m.a.z), ⟨k (dAdd m.b.x m.a.y), half s, k (dAdd m.c.y m.b.z)⟩⟩
  else
    let s := root (dSub (dSub zz xx) yy)
    let k := fun x => dDiv x (a64.two s)
    ⟨k (dSub m.a.y m.b.x), ⟨k (dAdd m.c.x m.a.z), k (dAdd m.c.y m.b.z), half s⟩⟩

/-- The rotation vector of a unit quaternion, the shorter way round. [DESIGN CHOICE, log 106] -/
def rotVec (q : Q4 F64) : V3 F64 :=
  let q := if dLt q.w 0 then ⟨dNeg q.w, a64.vneg q.v⟩ else q
  let n := a64.norm q.v
  if dEq n 0 then a64.v0 else a64.scale (dDiv (a64.two (Config.atan64 n q.w)) n) q.v

/-- The unit quaternion of a rotation vector. [DESIGN CHOICE, log 106] -/
def vecRot (r : V3 F64) : Q4 F64 :=
  let n := a64.norm r
  let h := dDiv n (dOfInt 2)
  if dEq n 0 then ⟨dOfInt 1, a64.v0⟩ else ⟨Config.cos64 h, a64.scale (dDiv (Config.sin64 h) n) r⟩

/-- The rotation vector that takes one orientation to another, in the axes of the first. -/
def turnTo (p q : Q4 F64) : V3 F64 := rotVec (a64.qmul (a64.qconj p) q)

-- The link model (R210, R257)

/-- The base frame of an arm in the cell frame, and its joints. -/
def baseFrame (m : ArmModel) : Frame F64 := a64.place ⟨a64.ident, a64.v0⟩ m.base
def armChain (m : ArmModel) : List (ChainJoint F64) := m.links.map (·.joint)

/-- The frames of the links at joint positions in radians. -/
def armFrames (m : ArmModel) (q : List F64) : List (Frame F64) := a64.linkFrames (baseFrame m) (armChain m) q

/-- The frame of link `k`, the flange frame, and the TCP of a tool (R217). -/
def linkFrame (m : ArmModel) (fs : List (Frame F64)) (k : Nat) : Frame F64 := Arith.frameOf (baseFrame m) fs k
def flangeFrame (m : ArmModel) (fs : List (Frame F64)) : Frame F64 := a64.place (linkFrame m fs fs.length) m.flange
def tcpOf (t : Tool) : Transform F64 := ⟨a64.ofList (t.tcp.map dOfF), quatOf (t.tquat.map dOfF)⟩
def tcpFrame (m : ArmModel) (t : Tool) (fs : List (Frame F64)) : Frame F64 := a64.place (flangeFrame m fs) (tcpOf t)

/-- The TCP pose at joint positions. -/
def poseAt (m : ArmModel) (t : Tool) (q : List F64) : PathRef :=
  let f := tcpFrame m t (armFrames m q)
  .pose f.p (matQuat f.r)

/-- A position and an orientation in the arm base frame taken into the cell frame (R210). [DESIGN CHOICE, log 106] -/
def cellPoint (m : ArmModel) (p : V3 F64) : V3 F64 := a64.point (baseFrame m) p
def cellQuat (m : ArmModel) (q : Q4 F64) : Q4 F64 := a64.qmul m.base.q q

-- Dynamics (R245, R259, R260)

/-- The motion of a body: its frame, angular velocity and acceleration, acceleration of its origin less gravity. -/
structure BodyMotion where
  f : Frame F64
  om : V3 F64
  al : V3 F64
  acc : V3 F64
  deriving DecidableEq, Repr

/-- The acceleration of a point at `r` from the origin of a body. -/
def BodyMotion.at (b : BodyMotion) (r : V3 F64) : V3 F64 :=
  a64.vadd b.acc (a64.vadd (a64.cross b.al r) (a64.cross b.om (a64.cross b.om r)))

/-- The motion of the link that a joint moves. [DESIGN CHOICE, log 106] -/
def nextMotion (b : BodyMotion) (j : ChainJoint F64) (q qd qdd : F64) : BodyMotion :=
  let f := a64.jointFrame b.f j q
  let z := f.r.c
  let o := b.at (a64.vsub f.p b.f.p)
  match j.travel with
  | some t => ⟨f, b.om, b.al, a64.vadd o (a64.vadd (a64.scale (dMul t qdd) z) (a64.scale (a64.two (dMul t qd)) (a64.cross b.om z)))⟩
  | none =>
    ⟨f, a64.vadd b.om (a64.scale qd z), a64.vadd b.al (a64.vadd (a64.scale qdd z) (a64.scale qd (a64.cross b.om z))), o⟩

/-- The motions of the links, first to last. -/
def linkMotions (b : BodyMotion) : List (ChainJoint F64) → List F64 → List F64 → List F64 → List BodyMotion
  | [], _, _, _ => []
  | j :: r, q, qd, qdd =>
    let n := nextMotion b j (q.getD 0 0) (qd.getD 0 0) (qdd.getD 0 0)
    n :: linkMotions n r q.tail qd.tail qdd.tail

/-- Force and moment about its origin that a body of ten inertial parameters needs (R259). -/
def bodyWrench (b : BodyMotion) (par : List F64) : V3 F64 × V3 F64 :=
  let g := fun i => par.getD i 0
  let c := a64.mulV b.f.r ⟨g 1, g 2, g 3⟩
  let inertia := fun v =>
    let u := a64.mulTV b.f.r v
    a64.mulV b.f.r (a64.mulV ⟨⟨g 4, g 7, g 8⟩, ⟨g 7, g 5, g 9⟩, ⟨g 8, g 9, g 6⟩⟩ u)
  (a64.vadd (a64.scale (g 0) b.acc) (a64.vadd (a64.cross b.al c) (a64.cross b.om (a64.cross b.om c))),
    a64.vadd (a64.vadd (inertia b.al) (a64.cross b.om (inertia b.om))) (a64.cross c b.acc))

/-- Joint torques from the last link back to the first: the wrench that the links after carry, about the point `p`. -/
def jointTorques : List (ChainJoint F64 × BodyMotion × List F64) → V3 F64 × V3 F64 × V3 F64 → List F64 × (V3 F64 × V3 F64 × V3 F64)
  | [], w => ([], w)
  | (j, b, par) :: r, w =>
    let x := jointTorques r w
    let (f, n, p) := x.2
    let own := bodyWrench b par
    let f' := a64.vadd own.1 f
    let n' := a64.vadd own.2 (a64.vadd n (a64.cross (a64.vsub p b.f.p) f))
    ((match j.travel with | some t => dMul t (a64.dot b.f.r.c f') | none => a64.dot b.f.r.c n') :: x.1, (f', n', b.f.p))

/-- Inverse dynamics: joint torques for positions, velocities and accelerations, links and payload at the flange given by their
inertial parameters (R245, R259). [DESIGN CHOICE, log 106] -/
def inverseDynamics (m : ArmModel) (par : List (List F64)) (payload : List F64) (grav : V3 F64) (q qd qdd : List F64) : List F64 :=
  let b : BodyMotion := ⟨baseFrame m, a64.v0, a64.v0, a64.vneg grav⟩
  let ms := linkMotions b (armChain m) q qd qdd
  let last := ms.getLastD b
  let f := a64.place last.f m.flange
  let w := bodyWrench ⟨f, last.om, last.al, last.at (a64.vsub f.p last.f.p)⟩ payload
  (jointTorques ((armChain m).zip (ms.zip par)) (w.1, w.2, f.p)).1

/-- The inertial parameters of the links. -/
def linkPars (m : ArmModel) : List (List F64) := m.links.map (·.inertial)

/-- The `i`-th unit vector of `n` numbers. -/
def unitVec (n i : Nat) : List F64 := (List.range n).map fun k => if k = i then dOfInt 1 else 0

/-- The joint-space mass matrix by columns (R245). -/
def massMatrix (m : ArmModel) (payload : List F64) (q : List F64) : List (List F64) :=
  (List.range m.links.length).map fun i => inverseDynamics m (linkPars m) payload a64.v0 q [] (unitVec m.links.length i)

/-- Coulomb and viscous friction of a joint (R245). -/
def friction (l : LinkModel) (v : F64) : F64 :=
  dAdd (if dLt 0 v then l.coulomb else if dLt v 0 then dNeg l.coulomb else 0) (dMul l.viscous v)

def frictions (m : ArmModel) (qd : List F64) : List F64 := m.links.zipIdx.map fun x => friction x.1 (qd.getD x.2 0)

/-- The bias torques: Coriolis, centrifugal, gravity and friction (R245). -/
def biasTorques (m : ArmModel) (payload : List F64) (grav : V3 F64) (q qd : List F64) : List F64 :=
  List.zipWith dAdd (inverseDynamics m (linkPars m) payload grav q qd []) (frictions m qd)

/-- τ_arm of R260: the link model without payload, with friction. -/
def armTorques (m : ArmModel) (grav : V3 F64) (q qd qdd : List F64) : List F64 :=
  List.zipWith dAdd (inverseDynamics m (linkPars m) [] grav q qd qdd) (frictions m qd)

/-- The payload regressor by columns: the torques of each parameter alone (R260). -/
def regressor (m : ArmModel) (grav : V3 F64) (q qd qdd : List F64) : List (List F64) :=
  (List.range 10).map fun k => inverseDynamics m (m.links.map fun _ => []) (unitVec 10 k) grav q qd qdd

-- One configuration of a kinematics unit (R257)

/-- An end point of a volume in the cell frame. -/
def volPoint (m : ArmModel) (fs : List (Frame F64)) (v : Volume) (p : List F32) : V3 F64 :=
  a64.point (linkFrame m fs v.link) (a64.ofList (p.map dOfF))

/-- What the unit computes at joint positions and velocities, with the arm's volumes; mass and bias where `stage` (R257). -/
def kinConfig (m : ArmModel) (t : Tool) (payload : List F64) (grav : V3 F64) (vols : List (Nat × Volume)) (stage : Bool)
    (q qd : List F64) : KinConfig :=
  let js := armChain m
  let fs := armFrames m q
  let tcp := tcpFrame m t fs
  let jac := a64.jacobian js fs
  let dot := a64.jacobianDot js fs qd
  { q := q, frames := fs, tcp := tcp, jac := jac js.length tcp.p, jacDot := dot js.length tcp.p
    vols := vols.map fun x =>
      let p1 := volPoint m fs x.2 x.2.p1
      let p2 := volPoint m fs x.2 x.2.p2
      ⟨x.1, x.2.link, p1, p2, jac x.2.link p1, jac x.2.link p2, dot x.2.link p1, dot x.2.link p2⟩
    mass := if stage then massMatrix m payload q else []
    bias := if stage then biasTorques m payload grav q qd else [] }

-- Small dense systems (R260)

/-- A matrix by rows on a vector; the transpose of a matrix by rows. -/
def matVec (m : List (List F64)) (v : List F64) : List F64 := m.map fun r => a64.dotL r v
def matT (n : Nat) (m : List (List F64)) : List (List F64) := (List.range n).map fun i => m.map fun r => r.getD i 0

/-- One row of a Cholesky factor from the rows before it: row `i` of the matrix, entries below the diagonal in order. -/
def choleskyRow (l : List (List F64)) (row : List F64) : Nat → List F64 → List F64
  | 0, acc => acc
  | k + 1, acc =>
    let j := acc.length
    let lj := l.getD j []
    let x := dDiv (dSub (row.getD j 0) (a64.dotL acc lj)) (lj.getD j 0)
    choleskyRow l row k (acc ++ [x])

/-- The Cholesky factor of a symmetric matrix, row by row (R260). [DESIGN CHOICE, log 106] -/
def cholesky (m : List (List F64)) : List (List F64) :=
  m.foldl (fun l row =>
    let acc := choleskyRow l row l.length []
    l ++ [acc ++ [dSqrt (dSub (row.getD l.length 0) (a64.dotL acc acc))]]) []

/-- Forward substitution with a lower triangle by rows. -/
def lowerSolve (l : List (List F64)) (b : List F64) : List F64 :=
  (l.zip b).foldl (fun x r => x ++ [dDiv (dSub r.2 (a64.dotL r.1 x)) (r.1.getD x.length 0)]) []

/-- Back substitution with its transpose. -/
def upperSolve (l : List (List F64)) (b : List F64) : List F64 :=
  let n := l.length
  (List.range n).reverse.foldl (fun x i =>
    let col := ((l.drop (i + 1)).map fun r => r.getD i 0)
    dDiv (dSub (b.getD i 0) (a64.dotL col x)) ((l.getD i []).getD i 0) :: x) []

/-- One recursive least-squares update (R260): θ and P after it, and y − Yθ after it; `y` the measured torques less those of the arm,
`cols` the regressor by columns. [DESIGN CHOICE, log 106] -/
def rlsUpdate (lam : F64) (theta : List F64) (p : List (List F64)) (y : List F64) (cols : List (List F64)) :
    List F64 × List (List F64) × List F64 :=
  let n := y.length
  let rows := matT n cols
  let py := rows.map (matVec p)
  let m := (List.range n).map fun i => (List.range n).map fun j =>
    dAdd (a64.dotL (rows.getD i []) (py.getD j [])) (if i = j then lam else 0)
  let l := cholesky m
  let k := (List.range 10).map fun r => upperSolve l (lowerSolve l (py.map fun c => c.getD r 0))
  let err := sub64 y (matVec rows theta)
  let th := List.zipWith dAdd theta (matVec k err)
  let yp := rows.map fun r => matVec (matT 10 p) r
  let p' := (List.range 10).map fun i => (List.range 10).map fun j =>
    dDiv (dSub ((p.getD i []).getD j 0) (a64.dotL (k.getD i []) (yp.map fun r => r.getD j 0))) lam
  (th, p', sub64 y (matVec rows th))

end Sys2Proof.Machine
end

