-- ==== Sys2Proof/Machine/Path.lean ====
section
/-! DEFINITION. Records and reference paths: fields of a record, line frames, path pieces, blends, nominal time along a path, and the
references that Plefin tracks (R204 to R211, R218, R219, R223, R238, R240). -/

namespace Sys2Proof.Machine

/-- Cell time, ns, of the sync instant of the running bus cycle (R74); the present instant before the first. -/
def syncNs (s : State) : Nat := if s.clk.started then syncAt s s.clk.tag / 2 ^ 32 else nsOf s

/-- Change one arm's ring. -/
def modRing (a : Arm) (f : ArmRing → ArmRing) (s : State) : State := { s with ring := vmod s.ring a f }

-- Fields of a record, by the byte offsets of R206
def RingRec.n (r : RingRec) (o k : Nat) : Nat := leAt r.body (o - 8) k
def RingRec.f32 (r : RingRec) (o : Nat) : F32 := BitVec.ofNat 32 (r.n o 4)
def RingRec.f64 (r : RingRec) (o : Nat) : F64 := BitVec.ofNat 64 (r.n o 8)
def RingRec.i32 (r : RingRec) (o : Nat) : Int := sext 32 (r.n o 4)
def RingRec.i64 (r : RingRec) (o : Nat) : Int := sext 64 (r.n o 8)
def RingRec.vec (r : RingRec) (o k : Nat) : List F64 := (List.range k).map fun i => r.f64 (o + 8 * i)
def RingRec.vec32 (r : RingRec) (o k : Nat) : List F32 := (List.range k).map fun i => r.f32 (o + 4 * i)
def RingRec.code (r : RingRec) : Nat := r.op.toNat
def RingRec.fl (r : RingRec) : Nat := r.flags.toNat

-- Classes of R205
def RingRec.isMotion (r : RingRec) : Bool := decide (1 ≤ r.code ∧ r.code ≤ 4)
def RingRec.isWait (r : RingRec) : Bool := decide (0x10 ≤ r.code ∧ r.code ≤ 0x12)
def RingRec.isOutput (r : RingRec) : Bool := r.code == 0x20
def RingRec.isInline (r : RingRec) : Bool := r.code == 0x20 || r.code == 0x40
def RingRec.isRdv (r : RingRec) : Bool := r.code == 0x50
def RingRec.isStop (r : RingRec) : Bool := !r.isMotion && !r.isInline && r.code != 0x60
/-- A timed output action (`WHEN` 1 or 2). -/
def RingRec.timed (r : RingRec) : Bool := r.isOutput && r.fl % 4 != 0
/-- A via point. -/
def RingRec.isVia (r : RingRec) : Bool := r.code == 4
/-- A joint-space motion record. -/
def RingRec.joint (r : RingRec) : Bool := r.code == 1 || (r.code == 4 && r.fl % 2 == 1)
/-- A motion record with Cartesian targets. -/
def RingRec.cartesian (r : RingRec) : Bool := r.isMotion && !r.joint
/-- A Cartesian target in the line frame. -/
def RingRec.onLine (r : RingRec) : Bool := r.cartesian && r.frame == 2
/-- The offsets of the Cartesian target, of the joint target and of the four speeds. -/
def RingRec.posAt (r : RingRec) : Nat := if r.code = 3 then 48 else if r.code = 4 then 28 else 24
def RingRec.jointAt (r : RingRec) : Nat := if r.code = 1 then 16 else 28
def RingRec.speedAt (r : RingRec) : Nat := if r.code = 4 then 12 else 8

-- The line frame (R218, R220)

/-- The line frame's origin at a phase (R218). -/
def lineOrigin (f : LineFrame) (phase : Int) : V3 F64 :=
  let d := dMul f.mpc (dOfScaled (phase - f.ph0.toInt) (-16))
  a64.vadd (a64.ofList f.origin) (a64.scale d (a64.ofList f.dir))

/-- The line frame that a `TRACK_LINE` record defines (R218). -/
def frameOfRecord (r : RingRec) : LineFrame := ⟨BitVec.ofNat 64 (r.n 8 8), r.vec 16 3, r.vec 40 3, r.f64 64, none⟩

/-- The line frame that a record taken now will find: that of the last `TRACK_LINE` or `RELEASE_LINE` taken before it (R218). -/
def frameAhead (s : State) (a : Arm) : Option LineFrame :=
  match ((s.ring[a]).taken.filter fun r => r.code == 0x30 || r.code == 0x31).getLast? with
  | some r => if r.code = 0x30 then some (frameOfRecord r) else none
  | none => (s.ring[a]).tracking

/-- The origin of an arm's line frame at a phase, or where it is frozen (R218, R220); the cell origin without a line frame. -/
def originAt (f : Option LineFrame) (phase : Int) : V3 F64 :=
  match f with
  | some l => lineOrigin l (l.frozen.getD phase)
  | none => a64.v0

-- Curves (R207, R208)

/-- Value, first and second derivative of a polynomial. -/
def polyAt (c : List F64) (u : F64) : F64 := c.foldr (fun k acc => dAdd k (dMul u acc)) 0
def polyDerive (c : List F64) : List F64 := (c.zipIdx.map fun (x : F64 × Nat) => dMul (dOfInt (x.2 : Nat)) x.1).drop 1

/-- The quintic with given value, first and second derivative at 0 and at 1 (R208). -/
def quintic (p0 v0 a0 p1 v1 a1 : F64) : List F64 :=
  let half := fun x => dDiv x (dOfInt 2)
  let d := dSub (dSub (dSub p1 p0) v0) (half a0)
  let e := dSub (dSub v1 v0) a0
  let f := dSub a1 a0
  let k := fun (n : Int) x => dMul (dOfInt n) x
  [p0, v0, half a0, dAdd (dSub (k 10 d) (k 4 e)) (half f), dSub (dAdd (k (-15) d) (k 7 e)) f, dAdd (dSub (k 6 d) (k 3 e)) (half f)]

/-- The rotation rate that a rate of a rotation vector gives, in the axes that the vector starts from. [DESIGN CHOICE, log 106] -/
def turnRateOf (r v : V3 F64) : V3 F64 :=
  let n := a64.norm r
  if dEq n 0 then v
  else
    let n2 := dMul n n
    let k1 := dDiv (dSub (dOfInt 1) (Config.cos64 n)) n2
    let k2 := dDiv (dSub n (Config.sin64 n)) (dMul n2 n)
    let c := a64.cross r v
    a64.vadd v (a64.vadd (a64.scale k1 c) (a64.scale k2 (a64.cross r c)))

/-- A point of a reference and its rate: of each joint, or linear and angular in the frame of the curve. -/
structure RefPoint where
  ref : PathRef
  rate : List F64
  line : Bool
  deriving DecidableEq, Repr

/-- The coordinates of a curve: joint positions, or position with the rotation vector from the orientation of the curve. -/
def curveCoords (g : PathGeom) (u : F64) : List F64 :=
  let along := fun a d => List.zipWith (fun x y => dAdd x (dMul u y)) a d
  match g with
  | .joints a d => along a d
  | .line p d _ r => along p.toList d.toList ++ (a64.scale u r).toList
  | .arc c x y ang _ r =>
    let t := dMul u ang
    (a64.vadd c (a64.vadd (a64.scale (Config.cos64 t) x) (a64.scale (Config.sin64 t) y))).toList ++ (a64.scale u r).toList
  | .joinJ c => c.map fun k => polyAt k u
  | .joinC c _ => c.map fun k => polyAt k u

/-- The first derivative of the coordinates with respect to progress. -/
def curveRate (g : PathGeom) (u : F64) : List F64 :=
  match g with
  | .joints _ d => d
  | .line _ d _ r => d.toList ++ r.toList
  | .arc _ x y ang _ r =>
    let t := dMul u ang
    (a64.scale ang (a64.vsub (a64.scale (Config.cos64 t) y) (a64.scale (Config.sin64 t) x))).toList ++ r.toList
  | .joinJ c => c.map fun k => polyAt (polyDerive k) u
  | .joinC c _ => c.map fun k => polyAt (polyDerive k) u

/-- The second derivative. -/
def curveBend (g : PathGeom) (u : F64) : List F64 :=
  match g with
  | .joints _ d => d.map fun _ => 0
  | .line _ _ _ _ => List.replicate 6 0
  | .arc _ x y ang _ _ =>
    let t := dMul u ang
    (a64.scale (dNeg (dMul ang ang)) (a64.vadd (a64.scale (Config.cos64 t) x) (a64.scale (Config.sin64 t) y))).toList ++ [0, 0, 0]
  | .joinJ c => c.map fun k => polyAt (polyDerive (polyDerive k)) u
  | .joinC c _ => c.map fun k => polyAt (polyDerive (polyDerive k)) u

/-- The orientation that a Cartesian curve turns from; none for a joint-space curve. -/
def curveBase : PathGeom → Option (Q4 F64)
  | .line _ _ q _ => some q
  | .arc _ _ _ _ q _ => some q
  | .joinC _ q => some q
  | .joints _ _ => none
  | .joinJ _ => none

/-- A curve at progress u that advances at `rate` per second of nominal time. -/
def curveAt (g : PathGeom) (line : Bool) (u rate : F64) : RefPoint :=
  let x := curveCoords g u
  let d := (curveRate g u).map (dMul rate)
  match curveBase g with
  | none => ⟨.joints x, d, line⟩
  | some q =>
    let r := a64.ofList (x.drop 3)
    ⟨.pose (a64.ofList x) (a64.qmul q (vecRot r)), d.take 3 ++ (a64.mulV (a64.qmat q) (turnRateOf r (a64.ofList (d.drop 3)))).toList, line⟩

/-- The Euclidean length of a whole piece (R209). -/
def pieceLength : PathGeom → F64
  | .joints _ d => norm64 d
  | .line _ d _ _ => a64.norm d
  | .arc _ x _ ang _ _ => dMul (a64.norm x) ang
  | .joinJ _ => 0
  | .joinC _ _ => 0

-- Nominal time (R207, R238)

/-- Value and rate of a phase, `t` seconds after its start. -/
def phaseAt (p : Phase) (t : F64) : F64 × F64 :=
  (dAdd p.a (dMul t (dAdd p.v (dMul (dDiv p.acc (dOfInt 2)) t))), dAdd p.v (dMul p.acc t))

/-- Chain phases of given duration and second derivative from a start state, leaving out those of no length. -/
def chainPhases (a v : F64) : List (F64 × F64) → List Phase
  | [] => []
  | (d, acc) :: r =>
    if dLe d 0 then chainPhases a v r
    else
      let p : Phase := ⟨d, a, v, acc⟩
      let e := phaseAt p d
      p :: chainPhases e.1 e.2 r

/-- The duration of phases. -/
def phasesTime (l : List Phase) : F64 := l.foldl (fun t p => dAdd t p.dur) 0

/-- Progress and progress rate of an element `t` seconds of nominal time after its start: its end after its last phase. -/
def progressAt (ub : F64) : List Phase → F64 → F64 × F64
  | [], _ => (ub, 0)
  | p :: r, t => if dLt t p.dur then phaseAt p t else progressAt ub r (dSub t p.dur)

/-- The length that remains of an element, m or rad. -/
def PathEl.left (e : PathEl) : F64 := dMul e.len (dSub e.ub e.ua)

/-- The speed from which, and up to which, a speed changes over an element at its nominal acceleration. -/
def reachSpeed (e : PathEl) (v : F64) : F64 := dSqrt (dAdd (dMul v v) (dMul (a64.two e.amax) e.left))

/-- The highest speeds at the start and at the end of each element that let the rest of the path come to rest where it must. -/
def speedCaps : List PathEl → List (F64 × F64)
  | [] => []
  | e :: r =>
    let caps := speedCaps r
    let out := match r.head?, caps.head? with
      | some f, some c => if e.stop then 0 else dMin e.vmax (dMin f.vmax c.1)
      | _, _ => 0
    (dMin e.vmax (reachSpeed e out), out) :: caps

/-- The phases of one element from entry speed `b` to exit speed `x`: up to its nominal speed and down, at its nominal acceleration
(R207). [DESIGN CHOICE, log 107] -/
def elementPhases (e : PathEl) (b x : F64) : List Phase :=
  if dLe e.left 0 || dLe e.len 0 then []
  else
    let sq := fun v => dMul v v
    let top := dMax (dMax b x) (dMin e.vmax (dSqrt (dAdd (dDiv (dAdd (sq b) (sq x)) (dOfInt 2)) (dMul e.amax e.left))))
    let t1 := dDiv (dSub top b) e.amax
    let t3 := dDiv (dSub top x) e.amax
    let d := dAdd (dMul (dDiv (dAdd b top) (dOfInt 2)) t1) (dMul (dDiv (dAdd x top) (dOfInt 2)) t3)
    let acc := dDiv e.amax e.len
    chainPhases e.ua (dDiv b e.len) [(t1, acc), (dDiv (dSub e.left d) top, 0), (t3, dNeg acc)]

/-- Give every element its phases, from entry speed `b` (R238). [DESIGN CHOICE, log 107] -/
def timePath (b : F64) : List (PathEl × F64 × F64) → List PathEl
  | [] => []
  | (e, c) :: r =>
    let x := dMin c.2 (reachSpeed e b)
    { e with phases := elementPhases e b x } :: timePath x r

def schedule (b : F64) (l : List PathEl) : List PathEl := timePath b (l.zip (speedCaps l))

/-- The progress at which a path that starts at `t` ends, and at which each placed record's end point lies (R209). -/
def pathEnd (t : F64) (l : List PathEl) : F64 := l.foldl (fun t e => dAdd t (phasesTime e.phases)) t
def pathEnds (t : F64) : List PathEl → List (Nat × F64)
  | [] => []
  | e :: r =>
    let n := dAdd t (phasesTime e.phases)
    (match e.ends with | some i => [(i, n)] | none => []) ++ pathEnds n r

/-- The reference at progress `x` of a path that starts at `t`; beyond its end it holds the rest pose (R238); `none` on an empty path. -/
def pathAt (t x : F64) : List PathEl → Option RefPoint
  | [] => none
  | [e] => let u := progressAt e.ub e.phases (dMax 0 (dSub x t)); some (curveAt e.geom e.line u.1 u.2)
  | e :: r =>
    let n := dAdd t (phasesTime e.phases)
    if dLt x n then let u := progressAt e.ub e.phases (dMax 0 (dSub x t)); some (curveAt e.geom e.line u.1 u.2) else pathAt n x r

/-- The path from progress `x` on: elements passed leave it, the present one starts at its progress there; with the speed there, and the
end points passed. -/
def anchorPath (t x : F64) : List PathEl → List PathEl × F64 × List (Nat × F64)
  | [] => ([], 0, [])
  | e :: r =>
    let n := dAdd t (phasesTime e.phases)
    if dLt x n || r.isEmpty then
      let u := progressAt e.ub e.phases (dMax 0 (dSub x t))
      if dLt x n then ({ e with ua := u.1 } :: r, dMul u.2 e.len, [])
      else ([{ e with ua := e.ub, phases := [], ends := none }], 0, match e.ends with | some i => [(i, n)] | none => [])
    else
      let y := anchorPath n x r
      (y.1, y.2.1, (match e.ends with | some i => [(i, n)] | none => []) ++ y.2.2)

/-- The path cut where the arm comes to rest from speed `b` at the acceleration of each element (R223). -/
def cutPath (acc : PathEl → F64) (b2 : F64) : List PathEl → List PathEl
  | [] => []
  | e :: r =>
    let e := { e with amax := acc e, ends := none }
    let need := dDiv b2 (a64.two e.amax)
    if dLe need e.left then [{ e with ub := if dLe e.len 0 then e.ub else dAdd e.ua (dDiv need e.len), stop := true }]
    else e :: cutPath acc (dSub b2 (dMul (a64.two e.amax) e.left)) r

-- Pieces (R207 to R210)

/-- A Cartesian target of a record: position and orientation in its frame, the arm base frame taken into the cell frame (R210). -/
def targetPoint (s : State) (a : Arm) (r : RingRec) (o : Nat) : V3 F64 :=
  let p := a64.ofList (r.vec o 3)
  if r.frame = 0 then (match armModel s a with
    | some m => cellPoint m p
    | none => p) else p
def targetQuat (s : State) (a : Arm) (r : RingRec) : Q4 F64 :=
  let q := quatOf (r.vec (r.posAt + 24) 4)
  if r.frame = 0 then (match armModel s a with
    | some m => cellQuat m q
    | none => q) else q

/-- The target of a motion record in its space and frame. -/
def targetRef (s : State) (a : Arm) (r : RingRec) : PathRef :=
  if r.joint then .joints ((List.range (armJoints s a)).map fun j => radOf (r.i32 (r.jointAt + 4 * j)))
  else .pose (targetPoint s a r r.posAt) (targetQuat s a r)

/-- The commanded joint positions of an arm, rad. -/
def commandedJoints (s : State) (a : Arm) : List F64 :=
  (List.range (armJoints s a)).map fun k => radOf (s.sdp.joint[(⟨(a.val * 8 + k) % 96, Nat.mod_lt _ (by decide)⟩ : Fin 96)]).posNow

/-- A reference as a TCP pose (R207): the pose of joint positions with the tool in force. -/
def asPose (s : State) (a : Arm) : PathRef → V3 F64 × Q4 F64
  | .pose p q => (p, q)
  | .joints j => match armModel s a with
    | some m => (match poseAt m (s.ring[a]).tool j with
      | .pose p q => (p, q)
      | .joints _ => (a64.v0, ⟨dOfInt 1, a64.v0⟩))
    | none => (a64.v0, ⟨dOfInt 1, a64.v0⟩)

/-- A pose taken between the cell frame and the line frame with origin `o` (R218). -/
def reframe (o : V3 F64) (src dst : Bool) (p : V3 F64) : V3 F64 :=
  if src = dst then p else if dst then a64.vsub p o else a64.vadd p o

/-- The lesser of two rates, where each moves anything: (speed limit, extent). -/
def lowestRate (l : List (F64 × F64)) : Option F64 :=
  l.foldl (fun m x => if dEq x.2 0 then m else
    let k := dDiv x.1 (dAbs x.2)
    match m with
    | some y => some (dMin y k)
    | none => some k) none

/-- A whole piece from its curve and its rate limits: (speed, extent) and (acceleration, extent) pairs (R207). -/
def pieceOf (g : PathGeom) (line : Bool) (len : F64) (v acc : List (F64 × F64)) (idx : Nat) : PathEl :=
  ⟨g, line, 0, dOfInt 1, len, dMul len ((lowestRate v).getD 0), dMul len ((lowestRate acc).getD 0), true, some idx, []⟩

/-- The piece of a joint-space record from joint positions (R207). -/
def jointPiece (s : State) (a : Arm) (q0 q1 : List F64) (r : RingRec) : PathEl :=
  let d := sub64 q1 q0
  let o := r.speedAt
  let lim := fun (f : JointLimits → F64) k => ((jointLimits s a).map fun l => dMul (dOfF (r.f32 k)) (f l)).zip d
  pieceOf (.joints q0 d) false (norm64 d) (lim (·.vel) o) (lim (·.acc) (o + 4)) r.idx

/-- The arc from `p0` through `pm` to `p1`: centre, the two axes of its plane from the centre, of its radius, and its angle (R207).
[DESIGN CHOICE, log 107] -/
def arcOf (p0 pm p1 : V3 F64) : V3 F64 × V3 F64 × V3 F64 × F64 :=
  let a := a64.vsub pm p0
  let b := a64.vsub p1 p0
  let n := a64.cross a b
  let u := a64.vsub (a64.scale (a64.dot a a) b) (a64.scale (a64.dot b b) a)
  let c := a64.vadd p0 (a64.scale (dDiv (dOfInt 1) (a64.two (a64.dot n n))) (a64.cross u n))
  let x := a64.vsub p0 c
  let y := a64.cross (a64.dir n) x
  let e := a64.vsub p1 c
  let t := Config.atan64 (a64.dot e y) (a64.dot e x)
  (c, x, y, if dLe t 0 then dAdd t twoPi else t)

/-- The piece of a Cartesian record from a pose in its frame (R207). -/
def cartesianPiece (s : State) (a : Arm) (p0 : V3 F64) (q0 : Q4 F64) (r : RingRec) : PathEl :=
  let p1 := targetPoint s a r r.posAt
  let turn := turnTo q0 (targetQuat s a r)
  let g := if r.code = 3 then
      let x := arcOf p0 (targetPoint s a r 24) p1
      PathGeom.arc x.1 x.2.1 x.2.2.1 x.2.2.2 q0 turn
    else .line p0 (a64.vsub p1 p0) q0 turn
  let l := pieceLength g
  let th := a64.norm turn
  let o := r.speedAt
  let lim := fun k => [(dOfF (r.f32 k), l), (dOfF (r.f32 (k + 4)), th)]
  pieceOf g r.onLine (if dEq l 0 then th else l) (lim o) (lim (o + 8)) r.idx

/-- r of a via: the lowest of its radius and half the lengths of the two pieces (R208). -/
def blendRadius (radius inc out : F64) : F64 := dMin radius (dMin (dDiv inc (dOfInt 2)) (dDiv out (dOfInt 2)))

/-- The coordinates of a Cartesian curve with the rotation vector taken from the orientation at its end, or at its start. -/
def fromEnd (g : PathGeom) (x : List F64) : List F64 :=
  match g with
  | .line _ _ _ r => x.take 3 ++ (a64.vsub (a64.ofList (x.drop 3)) r).toList
  | .arc _ _ _ _ _ r => x.take 3 ++ (a64.vsub (a64.ofList (x.drop 3)) r).toList
  | _ => x

/-- The orientation at the end of a Cartesian piece. -/
def endQuat (g : PathGeom) : Option (Q4 F64) :=
  match g with
  | .line _ _ q r => some (a64.qmul q (vecRot r))
  | .arc _ _ _ _ q r => some (a64.qmul q (vecRot r))
  | _ => none

/-- The join of two pieces at radius `r`: it leaves the incoming piece r before the point and meets the outgoing piece r after it, with the
position and two derivatives of each there (R208). `shift` takes the incoming piece's positions into the outgoing piece's frame.
[DESIGN CHOICE, log 107] -/
def joinOf (shift : V3 F64) (inc out : PathEl) (r : F64) : PathGeom :=
  let li := pieceLength inc.geom
  let lo := pieceLength out.geom
  let ui := dSub (dOfInt 1) (dDiv r li)
  let uo := dDiv r lo
  let ki := dDiv (a64.two r) li
  let ko := dDiv (a64.two r) lo
  let p0 := fromEnd inc.geom (curveCoords inc.geom ui)
  let p0 := if inc.geom matches .joints _ _ then p0 else (a64.vadd (a64.ofList p0) shift).toList ++ p0.drop 3
  let scale := fun k l => (l : List F64).map (dMul k)
  let v0 := scale ki (curveRate inc.geom ui)
  let a0 := scale (dMul ki ki) (curveBend inc.geom ui)
  let p1 := curveCoords out.geom uo
  let v1 := scale ko (curveRate out.geom uo)
  let a1 := scale (dMul ko ko) (curveBend out.geom uo)
  let g := fun (l : List F64) i => l.getD i 0
  let c := (List.range p1.length).map fun i => quintic (g p0 i) (g v0 i) (g a0 i) (g p1 i) (g v1 i) (g a1 i)
  match endQuat inc.geom with
  | some q => .joinC c q
  | none => .joinJ c

/-- Blend the piece `inc` with the piece `out` at radius `r` (R208, R209). -/
def blendPieces (shift : V3 F64) (inc out : PathEl) (r : F64) : List PathEl :=
  if dLe r 0 then [{ inc with stop := false }, out]
  else
    let g := joinOf shift inc out r
    let half : PathEl := ⟨g, out.line, 0, dDiv (dOfInt 1) (dOfInt 2), a64.two r, dMin inc.vmax out.vmax, dMin inc.amax out.amax, false, inc.ends, []⟩
    [{ inc with ub := dSub (dOfInt 1) (dDiv r (pieceLength inc.geom)), stop := false, ends := none },
      half, { half with ua := half.ub, ub := dOfInt 1, ends := none },
      { out with ua := dDiv r (pieceLength out.geom) }]

-- The path of an arm (R208, R211, R213)

/-- The next motion record to place on the path: no stop point before it (R208, R213). -/
def nextToPlace (g : ArmRing) : Option RingRec :=
  ((g.taken.filter fun r => !r.isInline).takeWhile (·.isMotion)).find? fun r => !g.onPath.contains r.idx

/-- The last motion record placed that has not completed. -/
def lastPlaced (g : ArmRing) : Option RingRec :=
  (g.taken.filter fun r => g.onPath.contains r.idx).getLast?

/-- Where the piece of a record starts: the target before it with its frame; the rest pose, or the commanded joints where the arm rests.
`none` while a joint-space piece must wait for the arm to reach a Cartesian target. [DESIGN CHOICE, log 107] -/
def pieceStart (s : State) (a : Arm) (r : RingRec) : Option (PathRef × Bool) :=
  let g := s.ring[a]
  match lastPlaced g with
  | some v => if r.joint && v.cartesian then none else some (targetRef s a v, v.onLine)
  | none =>
    let line := (g.path.getLast?.map (·.line)).getD false
    match g.lastRef with
    | some (.pose p q) => some (if r.joint then (.joints (commandedJoints s a), false) else (.pose p q, line))
    | some (.joints q) => some (.joints q, false)
    | none => some (.joints (commandedJoints s a), false)

/-- The piece of a record from its start; `o` is the line frame's origin. -/
def pieceFrom (s : State) (a : Arm) (o : V3 F64) (st : PathRef × Bool) (r : RingRec) : PathEl :=
  match r.joint, st.1, targetRef s a r with
  | true, .joints q0, .joints q1 => jointPiece s a q0 q1 r
  | _, x, _ =>
    let p := asPose s a x
    cartesianPiece s a (reframe o st.2 r.onLine p.1) p.2 r

/-- Whether a via blends with the record placed after it: same space, no committed stop (R208, R211). -/
def blends (g : ArmRing) (v r : RingRec) : Bool := v.isVia && v.joint == r.joint && g.stopAt != some v

/-- Place one motion record on an arm's path, `x` the progress at stage 0 and `o` the line frame's origin (R207, R208). -/
def placeMotion (a : Arm) (x : F64) (o : V3 F64) (r : RingRec) (st : PathRef × Bool) (s : State) : State :=
  let e := pieceFrom s a o st r
  modRing a (fun g =>
    let g' := { g with onPath := g.onPath ++ [r.idx] }
    match lastPlaced g with
    | none => { g' with path := [e], pathT := x, lastRef := none }
    | some v =>
      match g.path.getLast? with
      | some l =>
        if blends g v r && l.ends == some v.idx then
          let rad := blendRadius (dOfF (v.f32 8)) (pieceLength l.geom) (pieceLength e.geom)
          let shift := if l.line = e.line then a64.v0 else reframe o l.line e.line a64.v0
          { g' with
            path := g.path.dropLast ++ blendPieces shift l e rad
            blends := g.blends ++ [(v.idx, rad, dLt rad (dOfF (v.f32 8)))] }
        else { g' with path := g.path ++ [e] }
      | none => { g' with path := [e], pathT := x }) s

/-- Place every record that can be placed. -/
def placeAll (a : Arm) (x : F64) (o : V3 F64) : Nat → State → State
  | 0, s => s
  | k + 1, s =>
    match nextToPlace s.ring[a] with
    | some r => match pieceStart s a r with
      | some st => placeAll a x o k (placeMotion a x o r st s)
      | none => s
    | none => s

/-- The acceleration at which an arm is brought to rest on an element: every joint of a joint-space piece within its limit, the nominal
acceleration of a Cartesian one (R223). [DESIGN CHOICE, log 107] -/
def stopAcc (s : State) (a : Arm) (e : PathEl) : F64 :=
  match e.geom with
  | .joints _ d => dMul e.len ((lowestRate (((jointLimits s a).map (·.acc)).zip d)).getD e.amax)
  | _ => e.amax

/-- Bring an arm's path from progress `x` on up to date: the part passed leaves it, a stop cuts it, new records join it (R207, R223). -/
def extendPath (a : Arm) (x : F64) (s : State) : State :=
  let g := s.ring[a]
  let y := anchorPath g.pathT x g.path
  let path := if g.cut then cutPath (stopAcc s a) (dMul y.2.1 y.2.1) y.1 else y.1
  let s := modRing a (fun g => { g with path := path, pathT := x, ends := g.ends ++ y.2.2, cut := false }) s
  let s := placeAll a x (originAt g.tracking (linePhase s)) 33 s
  modRing a (fun g => { g with path := schedule y.2.1 g.path }) s

/-- Progress at the end point of a placed record (R209); none while it is not placed. -/
def endProgress (g : ArmRing) (idx : Nat) : Option F64 :=
  ((g.ends ++ pathEnds g.pathT g.path).find? fun x => x.1 == idx).map (·.2)

/-- Progress that an arm has played, by the running step of its plan (R238). -/
def playedProgress (s : State) (a : Arm) : F64 :=
  match (s.play[a]).segs.head? with
  | some g =>
    let t := dOfScaled (s.play[a]).tau (-32)
    let h := dDiv (dOfInt (g.dur * busNs s : Nat)) (dOfInt 1000000000)
    let half := dDiv (dMul t (dSub g.prog.2.2 g.prog.2.1)) (dOfInt 2)
    dAdd g.prog.1 (dMul h (dMul t (dAdd g.prog.2.1 half)))
  | none => (s.ring[a]).pathT

/-- Whether the setpoint has reached the end point of a motion record (R229). -/
def reached (s : State) (a : Arm) (r : RingRec) : Bool :=
  match endProgress s.ring[a] r.idx with
  | some t => dLe t (playedProgress s a)
  | none => false

/-- Whether the setpoint has reached the end of the path. -/
def pathDone (s : State) (a : Arm) : Bool := dLe (pathEnd (s.ring[a]).pathT (s.ring[a]).path) (playedProgress s a)

/-- Whether an arm is at rest for a stop point: in the cell frame, or in the line frame while it tracks a line that moves (R205, R219).
[DESIGN CHOICE, log 107] -/
def restsAt (s : State) (a : Arm) : Bool :=
  let g := s.ring[a]
  let moving := !g.release && (match g.tracking with
    | some f => f.frozen.isNone
    | none => false)
  pathDone s a && (if moving then (g.path.getLast?.map (·.line)).getD false else (s.play[a]).rest)

/-- An arm that starts from rest starts a new path (R233). -/
def dropPath (a : Arm) (s : State) : State :=
  modRing a (fun g => { g with
    path := [], pathT := 0, onPath := [], ends := [], blends := [], lastRef := none, cut := false, release := false }) s

end Sys2Proof.Machine
end

