-- ==== Sys2Proof/Machine/Profile.lean ====
section
/-! DEFINITION. The profile generators: jerk-limited trajectories, commands, host positions (R492 to R501, R508). -/

namespace Sys2Proof.Machine

-- IRQ_STAT bits of the PRG page
def prgInpos : Nat := 8
def prgRefused : Nat := 9
def prgOvershoot : Nat := 10
def prgReversal : Nat := 11
def prgFerr : Nat := 12
def prgNodeFlt : Nat := 13

/-- Change one generator. -/
def modGen (n : Prg) (f : Generator → Generator) (s : State) : State := { s with prg := vmod s.prg n f }

/-- The limits of a profile, binary64. -/
structure Limits where
  v : F64
  a : F64
  j : F64
  deriving DecidableEq, Repr

/-- One microsecond, in seconds (R492). -/
def tickSeconds : F64 := dDiv (dOfInt 1) (dOfInt 1000000)

/-- A signed 64-bit position with LSB 2⁻¹⁶ count as binary64 counts. -/
def posOf (x : BitVec 64) : F64 := dOfScaled x.toInt (-16)

/-- A position as registers show it: LSB 2⁻¹⁶ count, rounded toward minus infinity (R492). -/
def posReg (p : F64) : BitVec 64 := BitVec.ofInt 64 (dFloor 16 p)

/-- The integer count of a position. -/
def posCount (p : F64) : Int := dFloor 0 p

/-- Square, half and cube of binary64 values. -/
def dSq (x : F64) : F64 := dMul x x
def dHalf (x : F64) : F64 := dDiv x (dOfInt 2)
def dCube (x : F64) : F64 := dMul (dSq x) x

/-- The length of the time-optimal stop from speed `v` ≥ 0 and a = 0 (R493). -/
def stopFromRestAcc (L : Limits) (v : F64) : F64 :=
  if dLe (dDiv (dSq L.a) L.j) v then
    dAdd (dDiv (dSq v) (dMul (dOfInt 2) L.a)) (dDiv (dMul v L.a) (dMul (dOfInt 2) L.j))
  else dMul v (dSqrt (dDiv v L.j))

/-- The length of the stop from speed `v` with a deceleration `m` already built, `m` ≤ `AMAX`. -/
def stopFromDec (L : Limits) (v m : F64) : F64 :=
  let v1 := dAdd v (dDiv (dSq m) (dMul (dOfInt 2) L.j))
  let t := dDiv m L.j
  dSub (stopFromRestAcc L v1) (dSub (dMul v1 t) (dDiv (dMul L.j (dCube t)) (dOfInt 6)))

/-- The length of the stop in the direction in which the state comes to rest. -/
def stopForward (L : Limits) (v a : F64) : F64 :=
  if dLe 0 a then
    let run := dAdd (dDiv (dMul v a) L.j) (dDiv (dCube a) (dMul (dOfInt 3) (dSq L.j)))
    dAdd run (stopFromRestAcc L (dAdd v (dDiv (dSq a) (dMul (dOfInt 2) L.j))))
  else
    let m := dAbs a
    if dLe m L.a then stopFromDec L v m
    else
      let t := dDiv (dSub m L.a) L.j
      let v2 := dAdd (dSub v (dMul m t)) (dHalf (dMul L.j (dSq t)))
      let x := dAdd (dSub (dMul v t) (dHalf (dMul m (dSq t)))) (dDiv (dMul L.j (dCube t)) (dOfInt 6))
      dAdd x (stopFromDec L v2 L.a)

/-- The speed once the acceleration has been brought to 0 at the jerk limit. -/
def speedAtZeroAcc (L : Limits) (v a : F64) : F64 := dAdd v (dDiv (dMul a (dAbs a)) (dMul (dOfInt 2) L.j))

/-- The displacement of the time-optimal stop from a state (R493). [DESIGN CHOICE, log 70] -/
def stopDistance (L : Limits) (v a : F64) : F64 :=
  let w := speedAtZeroAcc L v a
  if dLt w 0 ∨ (dEq w 0 ∧ dLt v 0) then dNeg (stopForward L (dNeg v) (dNeg a)) else stopForward L v a

/-- The stopping point of a generator under limits `L` (R493). -/
def stopPoint (L : Limits) (g : Generator) : F64 := dAdd g.p (stopDistance L g.v g.a)

/-- The limits in force. -/
def inForce (g : Generator) : Limits := ⟨dOfF g.vmax, dOfF g.amax, dOfF g.jmax⟩

/-- Acceleration, speed and displacement after one tick at constant jerk (R492). -/
def tickStep (v a j : F64) : F64 × F64 × F64 :=
  let t := tickSeconds
  (dAdd a (dMul j t), dAdd (dAdd v (dMul a t)) (dHalf (dMul j (dSq t))),
    dAdd (dAdd (dMul v t) (dHalf (dMul a (dSq t)))) (dDiv (dMul j (dCube t)) (dOfInt 6)))

/-- A jerk keeps the speed limit and does not carry the stopping point past `r` ahead. -/
def jerkFits (L : Limits) (v a j r : F64) : Bool :=
  let (a', v', x) := tickStep v a j
  dLe (speedAtZeroAcc L v' a') L.v && dLe (dAdd x (stopDistance L v' a')) r

/-- Halve `lo` to `hi`, where `lo` fits and `hi` does not, `fuel` times; answers the end that fits. -/
def bisectJerk (L : Limits) (v a r : F64) : Nat → F64 → F64 → F64
  | 0, lo, _ => lo
  | fuel + 1, lo, hi =>
    let m := dHalf (dAdd lo hi)
    if jerkFits L v a m r then bisectJerk L v a r fuel m hi else bisectJerk L v a r fuel lo m

/-- The jerk of the first tick toward a target `r` ahead (R493, R495).

DESIGN CHOICE (log 70): the greatest jerk of one tick that keeps the limits and does not carry the stopping point past `r`,
to 30 halvings; where none fits, the strongest braking that the limits allow. [DESIGN CHOICE, log 70] -/
def chooseJerk (L : Limits) (v a r : F64) : F64 :=
  let hi := dMax (dNeg L.j) (dMin L.j (dDiv (dSub L.a a) tickSeconds))
  let lo := dMin L.j (dMax (dNeg L.j) (dDiv (dSub (dNeg L.a) a) tickSeconds))
  if jerkFits L v a hi r then hi
  else if jerkFits L v a lo r then bisectJerk L v a r 30 lo hi
  else lo

/-- Whether the state lies within one tick's motion of rest at distance `d` from position `p` (R493).

DESIGN CHOICE (log 70): one tick's motion is what one tick at the limits makes from rest, and the motion that the rounding of
`p` in binary64 hides. [DESIGN CHOICE, log 70] -/
def withinTick (L : Limits) (p v a d : F64) : Bool :=
  let t := tickSeconds
  let m := dMin (dMul L.j t) L.a
  let vt := dMin (dMul m t) L.v
  let u := dMul (dAbs p) (dOfScaled 1 (-52))
  let tol := dAdd (dAdd (dMul vt t) u) (stopFromRestAcc L (dDiv u t))
  dLe (dAbs d) tol && (dLe (dAbs v) vt || dLe (stopFromRestAcc L (dAbs v)) tol) &&
    (dLe (dAbs a) m || dLe (dCube (dAbs a)) (dMul (dMul (dOfInt 6) (dSq L.j)) tol))

/-- One profile tick of the trajectory (R493). [DESIGN CHOICE, log 70] -/
def profileStep (g : Generator) : Generator :=
  let L := inForce g
  let target := posOf g.tgt
  let d := dSub target g.p
  if withinTick L g.p g.v g.a d then { g with p := target, v := 0, a := 0, inpos := true, stopping := false }
  else
    let back := dLt d (stopDistance L g.v g.a)
    let σ := fun x => if back then dNeg x else x
    let (a', v', x) := tickStep (σ g.v) (σ g.a) (chooseJerk L (σ g.v) (σ g.a) (σ d))
    { g with p := dAdd g.p (σ x), v := σ v', a := σ a', inpos := false }

/-- `STAT.ATREST` (R508). -/
def atRest (g : Generator) : Bool := dEq g.v 0 && dEq g.a 0

/-- The soft limits. -/
def softLo (s : State) (n : Prg) : BitVec 64 := join64 (reg s .prg n Reg.PRG_SLO_HI) (reg s .prg n Reg.PRG_SLO_LO)
def softHi (s : State) (n : Prg) : BitVec 64 := join64 (reg s .prg n Reg.PRG_SHI_HI) (reg s .prg n Reg.PRG_SHI_LO)

/-- The target shadow. -/
def targetShadow (s : State) (n : Prg) : BitVec 64 := join64 (reg s .prg n Reg.PRG_TGT_HI) (reg s .prg n Reg.PRG_TGT_LO)

/-- A step/direction channel in use follows the generator (R494). [DEDUCED, log 47] -/
def stepBound (s : State) (n : Prg) : Bool :=
  allSixteen.any fun k => enabled s .stp k && fld s .stp k Reg.STP_CFG 1 0 == 0 && fld s .stp k Reg.STP_CFG 12 8 == n.val

/-- The target and limits that a request asks for (R494, R497). -/
def goWants (s : State) (n : Prg) : GoRequest → BitVec 64 × F32 × F32 × F32
  | .host => (targetShadow s n, reg s .prg n Reg.PRG_VMAX, reg s .prg n Reg.PRG_AMAX, reg s .prg n Reg.PRG_JMAX)
  | .output t => (t, (s.prg[n]).vmax, (s.prg[n]).amax, (s.prg[n]).jmax)

/-- A limit is finite, above 0 and at most `top` (R494). -/
def limitOk (x : F32) (top : Int) : Bool := fFinite x && dLt 0 (dOfF x) && dLe (dOfF x) (dOfInt top)

/-- The first check that a request fails (R494), as its `ERR` code. -/
def goRefusal (s : State) (n : Prg) (r : GoRequest) : Option Nat :=
  let (t, v, a, j) := goWants s n r
  let lo := (softLo s n).toInt
  let hi := (softHi s n).toInt
  let sp := stopPoint ⟨dOfF v, dOfF a, dOfF j⟩ (s.prg[n])
  if fld s .prg n Reg.MODE 1 0 != 0 || !enabled s .prg n then some 0x0103
  else if !(limitOk v (10 ^ 9) && limitOk a (10 ^ 12) && limitOk j (10 ^ 15)) ||
    (stepBound s n && !limitOk v 5000000) then some 0x0102
  else if t.toInt < lo ∨ hi < t.toInt then some 0x0100
  else if dLt sp (dOfScaled lo (-16)) ∨ dLt (dOfScaled hi (-16)) sp then some 0x0101
  else none

/-- A refused request (R494). -/
def refuseGo (n : Prg) (code : Nat) (s : State) : State :=
  count .prg n 1 (irq .prg n prgRefused (recordErr .prg n code (modGen n (fun g => { g with refused := true }) s)))

/-- The stopping point lies beyond `t` in the direction of travel (R495, R496). -/
def beyond (g : Generator) (sp : F64) (t : BitVec 64) : Bool :=
  let fwd := dLt 0 g.v || (dEq g.v 0 && dLt 0 g.a)
  let rev := dLt g.v 0 || (dEq g.v 0 && dLt g.a 0)
  (fwd && dLt (posOf t) sp) || (rev && dLt sp (posOf t))

/-- An accepted request puts target and limits in force (R494 to R496). -/
def acceptGo (n : Prg) (r : GoRequest) (s : State) : State :=
  let (t, v, a, j) := goWants s n r
  let g := s.prg[n]
  let past := beyond g (stopPoint ⟨dOfF v, dOfF a, dOfF j⟩ g) t
  let rev := past && t != g.tgt
  let exceeds := past && t == g.tgt
  let s := modGen n (fun g => { g with
    tgt := t, vmax := v, amax := a, jmax := j, refused := false, slim := false, overshoot := exceeds, reversal := rev, stopping := false }) s
  let s := count .prg n 0 s
  let s := if exceeds then count .prg n 3 (irq .prg n prgOvershoot s) else s
  if rev then count .prg n 4 (irq .prg n prgReversal s) else s

/-- The request that waits is checked at the tick (R494). -/
def takeGo (n : Prg) (s : State) : State :=
  match (s.prg[n]).go with
  | none => s
  | some r =>
    let s := modGen n (fun g => { g with go := none }) s
    match goRefusal s n r with
    | some c => refuseGo n c s
    | none => acceptGo n r s

/-- A STOP acts at the tick: the stopping point becomes the target; a GO of the same tick is superseded (R497).
[DEDUCED, log 47] -/
def takeStop (n : Prg) (s : State) : State :=
  if !(s.prg[n]).stop then s
  else
    let s := countIf (s.prg[n]).go.isSome .prg n 2 s
    let s := modGen n (fun g => { g with stop := false, go := none }) s
    if assisted s .prg n then refuseGo n 0x0103 s
    else
      let g := s.prg[n]
      let sp := stopPoint (inForce g) g
      let up := dLt 0 g.v || (dEq g.v 0 && dLt 0 g.a)
      let t := if up then -(dFloor 16 (dNeg sp)) else dFloor 16 sp
      modGen n (fun g => { g with tgt := BitVec.ofInt 64 t, stopping := !atRest g }) s

/-- A `LOAD` acts at the tick (R497). -/
def takeLoad (n : Prg) (s : State) : State :=
  if (s.prg[n]).load then
    let t := targetShadow s n
    modGen n (fun g => { g with load := false, p := posOf t, tgt := t, v := 0, a := 0, inpos := true }) s
  else s

/-- A position that passes a soft limit during a stop sets `SLIM` (R497). -/
def watchStop (n : Prg) (s : State) : State :=
  let g := s.prg[n]
  let p := (posReg g.p).toInt
  if g.stopping && (decide (p < (softLo s n).toInt) || decide ((softHi s n).toInt < p)) then
    modGen n (fun g => { g with slim := true }) s
  else s

/-- A tick in hardware mode (R493, R497). -/
def hardwareTick (n : Prg) (s : State) : State :=
  let s := takeGo n (takeLoad n (takeStop n s))
  let g := s.prg[n]
  if g.inpos && g.tgt == posReg g.p && atRest g then s
  else
    let s := modGen n profileStep s
    let s := irqIf ((s.prg[n]).inpos && !g.inpos) .prg n prgInpos s
    watchStop n s

/-- A host position clamped to the soft limits; a clamp is recorded (R500). -/
def clampHost (n : Prg) (x : BitVec 64) (s : State) : BitVec 64 × State :=
  let lo := softLo s n
  let hi := softHi s n
  let y := if x.toInt < lo.toInt then lo else if hi.toInt < x.toInt then hi else x
  (y, if y = x then s else count .prg n 7 (modGen n (fun g => { g with slim := true }) s))

/-- A tick at host pace, one FIFO entry per tick (R500, `RATE` 1). [DEDUCED, log 47] -/
def hostFifoTick (n : Prg) (s : State) : State :=
  match (s.prg[n]).haFifo with
  | [] =>
    let s := if (s.prg[n]).haDry then s else haLate .prg n 6 s
    modGen n (fun g => { g with haEmpty := true, haDry := true, v := 0, a := 0 }) s
  | x :: r =>
    let (y, s) := clampHost n x (modGen n (fun g => { g with haFifo := r, haDry := false }) s)
    modGen n (fun g =>
      let v := dMul (dSub (posOf y) g.p) (dOfInt 1000000)
      { g with p := posOf y, v := v, a := dMul (dSub v g.v) (dOfInt 1000000) }) s

/-- A tick between host positions of two sync instants `bus` ns apart, `e` ns into the cycle (R500, `RATE` 0). -/
def hostLinearTick (n : Prg) (bus e : Nat) (s : State) : State :=
  modGen n (fun g =>
    let d := dSub (posOf g.haTo) (posOf g.haFrom)
    { g with
      p := dAdd (posOf g.haFrom) (dDiv (dMul d (dOfInt (min e bus))) (dOfInt bus))
      v := dDiv (dMul d (dOfInt (10 ^ 9))) (dOfInt bus), a := 0 }) s

/-- The requests of a tick in host-assisted mode, or while `CTRL.EN` = 0: a GO is refused (R494, R500), a `LOAD` acts (R497). -/
def hostRequests (n : Prg) (s : State) : State := takeGo n (takeLoad n (takeStop n s))

/-- One generator at a profile tick (R356, R492, R500). [DEDUCED, log 47] -/
def genTick (bus e : Nat) (n : Prg) (s : State) : State :=
  if !enabled s .prg n then hostRequests n s
  else if assisted s .prg n then
    let s := hostRequests n s
    if flag s .prg n Reg.PRG_HA_CFG 0 then hostFifoTick n s else hostLinearTick n bus e s
  else hardwareTick n s

/-- A sync instant: the state that the frame of this cycle carries (R498), and the host positions of the new cycle (R500). -/
def genSync (n : Prg) (s : State) : State :=
  modGen n (fun g => { g with
    sentPrev := g.sent, sent := BitVec.ofInt 32 (posCount g.p), syncV := g.v, syncA := g.a, haFrom := g.haTo, haTo := g.haVal }) s

/-- PRG_HA_CUT_OFF (R500): without a commit since the previous cut-off the position holds. -/
def genCutOff (n : Prg) (s : State) : State :=
  if !assisted s .prg n || flag s .prg n Reg.PRG_HA_CFG 0 then s
  else if (s.prg[n]).haNew then
    let (y, s) := clampHost n (s.prg[n]).haCommit s
    modGen n (fun g => { g with haNew := false, haVal := y }) s
  else haLate .prg n 6 (modGen n (fun g => { g with haVal := g.haTo }) s)

/-- Entering or leaving host-assisted mode (R500). -/
def genModeChanged (n : Prg) (s : State) : State :=
  modGen n (fun g =>
    let x := posReg g.p
    if assisted s .prg n then { g with haFrom := x, haTo := x, haVal := x } else { g with tgt := x, v := 0, a := 0 }) s

/-- The node position of an auxiliary input record (R499). -/
def genFeedback (n : Prg) (pos : Word) (fault : Bool) (s : State) : State :=
  let g := s.prg[n]
  let lim := (reg s .prg n Reg.PRG_FERR_LIM).toNat
  let bad := lim != 0 && decide (lim < (pos - g.sentPrev).toInt.natAbs)
  let s := modGen n (fun g => { g with fb := pos, ferr := bad, nodeFault := fault }) s
  let s := irqIf (fault && !g.nodeFault) .prg n prgNodeFlt s
  if bad then
    let s := count .prg n 5 (irq .prg n prgFerr s)
    if flag s .prg n Reg.PRG_CFG 1 then modGen n (fun g => { g with stop := true }) s else s
  else s

/-- A GO request is applied; one that waits already is superseded (R494, R497). -/
def requestGo (n : Prg) (r : GoRequest) (s : State) : State :=
  let s := countIf (s.prg[n]).go.isSome .prg n 2 s
  modGen n (fun g => { g with go := some r }) s

/-- `CMD.LOAD` (R497). -/
def writePrgLoad (n : Prg) (s : State) : State :=
  if atRest (s.prg[n]) then modGen n (fun g => { g with load := true }) s else recordErr .prg n 0x0104 s

/-- `CMD` of a generator (R494, R497). -/
def writePrgCmd (n : Prg) (v : Word) (s : State) : State :=
  let s := if bit v 2 then writePrgLoad n s else s
  let s := if bit v 0 then requestGo n .host s else s
  if bit v 1 then modGen n (fun g => { g with stop := true }) s else s

/-- HA_POS_HI (R500): commits the host position. -/
def writeHaPosHi (n : Prg) (v : Word) (s : State) : State :=
  let g := s.prg[n]
  let x := join64 v g.haLo
  if flag s .prg n Reg.PRG_HA_CFG 0 then
    if g.haFifo.length < 256 then modGen n (fun g => { g with haFifo := g.haFifo ++ [x], haEmpty := false }) s
    else recordErr .prg n 0x0105 s
  else modGen n (fun g => { g with haCommit := x, haNew := true }) s

/-- A block reset of a generator at rest keeps p and makes it the target in force (R497). -/
def resetGen (n : Prg) (s : State) : State := modGen n (fun g => { p := g.p, tgt := posReg g.p }) s

/-- `STAT` of a generator (R508). -/
def prgStat (s : State) (n : Prg) : Word :=
  let g := s.prg[n]
  BitVec.ofNat 32 (b2n g.nodeFault * 512 + b2n g.slim * 256 + b2n g.refused * 128 + b2n g.ferr * 64 + b2n g.stopping * 32 +
    b2n g.reversal * 16 + b2n g.overshoot * 8 + b2n (!atRest g) * 4 + b2n g.inpos * 2 + b2n (atRest g))

/-- `HA_STAT` of a generator (R508). -/
def prgHaStat (s : State) (n : Prg) : Word :=
  BitVec.ofNat 32 (b2n (s.prg[n]).haEmpty * 512 + (s.prg[n]).haFifo.length)

/-- A read of `POS_LO` latches `POS_HI` for the port (R508). -/
def readPosLo (q : Port) (n : Prg) (s : State) : Word × State :=
  let x := posReg (s.prg[n]).p
  (lo32 x, { s with link := { s.link with posHi := vmod s.link.posHi q (fun v => vset v n (hi32 x)) } })

/-- PRG_GO. -/
def execPrgGo (n : Prg) (s : State) : Host.Outcome State Fault Refusal := run (writePrgCmd n 1) s
/-- PRG_STOP. -/
def execPrgStop (n : Prg) (s : State) : Host.Outcome State Fault Refusal := run (writePrgCmd n 2) s
/-- PRG_LOAD. -/
def execPrgLoad (n : Prg) (s : State) : Host.Outcome State Fault Refusal := run (writePrgCmd n 4) s
/-- HA_POS_HI. -/
def execHaPosHi (n : Prg) (v : Word) (s : State) : Host.Outcome State Fault Refusal := run (writeHaPosHi n v) s
/-- PRG_HA_CUT_OFF. -/
def execPrgHaCutOff (n : Prg) (s : State) : Host.Outcome State Fault Refusal := run (genCutOff n) s
/-- PRG_POS_LO_READ. -/
def execPrgPosLoRead (p : Port) (n : Prg) (s : State) : Host.Outcome State Fault Refusal :=
  run (atPort p fun s => let r := readPosLo p n s; returnRead p r.1 r.2) s

end Sys2Proof.Machine
end

