-- ==== Sys2Proof/Machine/Stepper.lean ====
section
/-! DEFINITION. The stepper reference channels: step pulses, microstep table, references, PWM (R502 to R507, R509). -/

namespace Sys2Proof.Machine

/-- Change one channel. -/
def modStp (n : Sixteen) (f : Stepper → Stepper) (s : State) : State := { s with stp := vmod s.stp n f }

/-- The default table: floor(4095 × sin((i + 0.5) × π/512)) (R504). -/
def defaultTable : List Nat :=
  [12, 37, 62, 87, 113, 138, 163, 188, 213, 238, 263, 288, 313, 338, 363, 388,
   413, 438, 463, 488, 513, 538, 563, 588, 613, 638, 662, 687, 712, 737, 761, 786] ++
  [811, 835, 860, 884, 909, 933, 958, 982, 1007, 1031, 1055, 1080, 1104, 1128, 1152, 1176,
   1200, 1224, 1248, 1272, 1296, 1320, 1344, 1367, 1391, 1414, 1438, 1462, 1485, 1508, 1532, 1555] ++
  [1578, 1601, 1624, 1647, 1670, 1693, 1716, 1739, 1762, 1784, 1807, 1829, 1852, 1874, 1897, 1919,
   1941, 1963, 1985, 2007, 2029, 2051, 2072, 2094, 2116, 2137, 2158, 2180, 2201, 2222, 2243, 2264] ++
  [2285, 2306, 2327, 2347, 2368, 2388, 2409, 2429, 2449, 2469, 2489, 2509, 2529, 2548, 2568, 2588,
   2607, 2626, 2646, 2665, 2684, 2703, 2721, 2740, 2759, 2777, 2796, 2814, 2832, 2850, 2868, 2886] ++
  [2904, 2922, 2939, 2957, 2974, 2991, 3008, 3025, 3042, 3059, 3076, 3092, 3108, 3125, 3141, 3157,
   3173, 3189, 3204, 3220, 3235, 3251, 3266, 3281, 3296, 3311, 3326, 3340, 3355, 3369, 3383, 3397] ++
  [3411, 3425, 3439, 3452, 3466, 3479, 3492, 3505, 3518, 3531, 3544, 3556, 3569, 3581, 3593, 3605,
   3617, 3629, 3640, 3652, 3663, 3674, 3685, 3696, 3707, 3717, 3728, 3738, 3748, 3758, 3768, 3778] ++
  [3788, 3797, 3806, 3816, 3825, 3834, 3842, 3851, 3859, 3868, 3876, 3884, 3892, 3899, 3907, 3915,
   3922, 3929, 3936, 3943, 3949, 3956, 3962, 3969, 3975, 3981, 3987, 3992, 3998, 4003, 4008, 4013] ++
  [4018, 4023, 4028, 4032, 4036, 4040, 4044, 4048, 4052, 4056, 4059, 4062, 4065, 4068, 4071, 4074,
   4076, 4078, 4080, 4082, 4084, 4086, 4088, 4089, 4090, 4091, 4092, 4093, 4094, 4094, 4094, 4094]

/-- A table entry (R504). -/
def tableEntry (c : Stepper) (i : Nat) : BitVec 12 :=
  Sparse.get (BitVec.ofNat 12 (defaultTable.getD i 0)) i c.table

/-- The generator that a channel follows (R502). -/
def stpPrg (s : State) (n : Sixteen) : Prg := ⟨fld s .stp n Reg.STP_CFG 12 8 % 32, Nat.mod_lt _ (by decide)⟩

/-- The microstep position of a channel (R502). -/
def stpCount (s : State) (n : Sixteen) : Int := posCount (s.prg[stpPrg s n]).p

/-- `CFG.DRVEN` (R502). -/
def driverOn (s : State) (n : Sixteen) : Bool := flag s .stp n Reg.STP_CFG 24

/-- The magnitude of a reference from table entry `k` (R504). -/
def refMagnitude (s : State) (n : Sixteen) (k : Nat) : Int :=
  ((tableEntry (s.stp[n]) k).toNat * fld s .stp n Reg.STP_SCALE 11 0 * 2047 / 16769025 : Nat)

/-- The references formed from microstep position `c` (R504): sine, cosine. -/
def references (s : State) (n : Sixteen) (c : Int) : Int × Int :=
  let micro := fld s .stp n Reg.STP_CFG 19 16
  let e := (c * 2 ^ (8 - micro) % 1024).toNat
  let i := e % 256
  let x := refMagnitude s n i
  let y := refMagnitude s n (255 - i)
  match e / 256 with
  | 0 => (x, y)
  | 1 => (y, -x)
  | 2 => (-x, -y)
  | _ => (-y, x)

/-- Form and keep the references of the present position. -/
def formReferences (n : Sixteen) (s : State) : State :=
  let r := references s n (stpCount s n)
  modStp n (fun c => { c with refSin := r.1, refCos := r.2 }) s

/-- One channel at a tick (R503): step pulses for the counts changed, at most five. -/
def stpTick (n : Sixteen) (s : State) : State :=
  let c := stpCount s n
  let d := c - (s.stp[n]).pos
  let s := modStp n (fun x => { x with pos := c, pulses := 0 }) s
  if !enabled s .stp n || fld s .stp n Reg.STP_CFG 1 0 != 0 then s
  else if !driverOn s n then (if d = 0 then s else modStp n (fun x => { x with lost := true }) s)
  else
    let owed := (s.stp[n]).backlog + d
    let k := min owed.natAbs 5
    let rest := if owed < 0 then owed + k else owed - k
    let s := modStp n (fun x => { x with backlog := rest, pulses := k, dirPin := if owed = 0 then x.dirPin else decide (owed < 0) }) s
    if k = 0 then s else countBy .stp n 0 k s

/-- PWM_PERIOD (R505), at a cell time that is a whole multiple of 10 µs: the duties of the period are formed from the position at its start. -/
def pwmPeriod (n : Sixteen) (s : State) : State :=
  if !enabled s .stp n || fld s .stp n Reg.STP_CFG 1 0 != 1 || nsOf s % 10000 != 0 then s
  else
    let s := formReferences n s
    modStp n (fun c => { c with duty := if driverOn s n then some ((2048 + c.refSin).toNat, (2048 + c.refCos).toNat) else none }) s

/-- PWM_CENTRE (R505, R515): the centre of a period, 5 µs after its start, is trigger 4 of the ADC pairs. -/
def pwmCentre (n : Sixteen) (s : State) : State :=
  if enabled s .stp n && fld s .stp n Reg.STP_CFG 1 0 == 1 && nsOf s % 10000 == 5000 then adcTrigger 4 n 20 s else s

/-- The driver enable changes (R502, R503). [DEDUCED, log 47] -/
def driverChanged (n : Sixteen) (was now : Bool) (s : State) : State :=
  modStp n (fun c => { c with lost := c.lost && (was || !now), duty := if now then c.duty else none }) s

/-- A `SET_OUTPUT` with `TARGET` 3 sets the driver enable (R502). -/
def setDriver (n : Sixteen) (on : Bool) (s : State) : State :=
  driverChanged n (driverOn s n) on (setFlag .stp n Reg.STP_CFG 24 on s)

/-- TDATA (R504, R509): writes the entry at `TSEL`, which advances. -/
def writeTdata (n : Sixteen) (v : Word) (s : State) : State :=
  let i := fld s .stp n Reg.STP_TSEL 7 0
  let s := modStp n (fun c => { c with table := Sparse.put (BitVec.ofNat 12 (defaultTable.getD i 0)) i (v.setWidth 12) c.table }) s
  count .stp n 3 (chg .stp n (setReg .stp n Reg.STP_TSEL (BitVec.ofNat 32 ((i + 1) % 256)) s))

/-- `CMD.TDEFAULT` (R504). -/
def writeTdefault (n : Sixteen) (s : State) : State := modStp n (fun c => { c with table := [] }) s

/-- What `TDATA` reads: the entry at `TSEL`. -/
def readTdata (s : State) (n : Sixteen) : Word := (tableEntry (s.stp[n]) (fld s .stp n Reg.STP_TSEL 7 0)).setWidth 32

/-- The node's current and flags of an input record (R506). -/
def stpFeedback (n : Sixteen) (amps : Word) (fault hot : Bool) (s : State) : State :=
  let c := s.stp[n]
  let s := modStp n (fun c => { c with imeas := amps, nodeFault := fault, overTemp := hot }) s
  let s := if fault && !c.nodeFault then count .stp n 1 (irq .stp n 8 s) else s
  if hot && !c.overTemp then count .stp n 2 (irq .stp n 9 s) else s

/-- `STAT` of a channel (R509). -/
def stpStat (s : State) (n : Sixteen) : Word :=
  let c := s.stp[n]
  BitVec.ofNat 32 (b2n c.overTemp * 16 + b2n c.nodeFault * 8 + b2n c.lost * 4 + b2n (c.backlog != 0) * 2 +
    b2n (enabled s .stp n && driverOn s n))

/-- `REF` of a channel (R509). -/
def stpRef (s : State) (n : Sixteen) : Word :=
  BitVec.ofInt 16 (s.stp[n]).refCos ++ BitVec.ofInt 16 (s.stp[n]).refSin

/-- Whether a write of `v` to register `off` of an STP page lies in its range (R502, R509). -/
def stpInRange (s : State) (n : Sixteen) (off : Nat) (v : Word) : Bool :=
  if off = Reg.STP_CFG then
    decide (field v 19 16 ≤ 8) && decide (field v 1 0 ≤ 2) &&
      (!enabled s .stp n || field v 19 0 == fld s .stp n Reg.STP_CFG 19 0)
  else if off = Reg.STP_STEPCFG then decide (2 ≤ field v 3 0) && decide (field v 3 0 ≤ 10)
  else true

/-- PWM_PERIOD. -/
def execPwmPeriod (n : Sixteen) (s : State) : Host.Outcome State Fault Refusal := run (pwmPeriod n) s
/-- PWM_CENTRE. -/
def execPwmCentre (n : Sixteen) (s : State) : Host.Outcome State Fault Refusal := run (pwmCentre n) s
/-- TDATA. -/
def execTdata (n : Sixteen) (v : Word) (s : State) : Host.Outcome State Fault Refusal := run (writeTdata n v) s
/-- TDEFAULT. -/
def execTdefault (n : Sixteen) (s : State) : Host.Outcome State Fault Refusal := run (writeTdefault n) s

end Sys2Proof.Machine
end

