-- ==== Sys2Proof/Machine/Arms.lean ====
section
/-! DEFINITION. Arm command rings: take-in and its checks, completion reports, halts, waits, rendezvous, output actions
(R200 to R230, R567). -/

namespace Sys2Proof.Machine

-- IRQ_STAT bits of the ARM page
def armReport : Nat := 8
def armHalt : Nat := 9
def armEnd : Nat := 10
def armStarved : Nat := 11
def armRptHigh : Nat := 12

/-- Ring indices (R200, R228). -/
def wrIdx (s : State) (a : Arm) : Nat := fld s .arm a Reg.ARM_WR_IDX 9 0
def rdIdx (s : State) (a : Arm) : Nat := fld s .arm a Reg.ARM_RD_IDX 9 0
def rptWr (s : State) (a : Arm) : Nat := fld s .arm a Reg.ARM_RPT_WR 10 0
def rptRd (s : State) (a : Arm) : Nat := fld s .arm a Reg.ARM_RPT_RD 10 0

/-- Unconsumed records (R201). -/
def unconsumed (s : State) (a : Arm) : Nat := (wrIdx s a + 1024 - rdIdx s a) % 1024

/-- Unread reports, and free entries of the report area (R202, R228). -/
def unread (s : State) (a : Arm) : Nat := (rptWr s a + 2048 - rptRd s a) % 2048
def freeReports (s : State) (a : Arm) : Nat := 2047 - unread s a

/-- The address of a ring record and of a report in BAR2 (R200). -/
def ringAddr (a : Arm) (i : Nat) : Nat := a.val * 0x20000 + 128 * i
def reportAddr (a : Arm) (i : Nat) : Nat := 0x200000 + a.val * 0x10000 + 32 * i

/-- A record from its 128 bytes (R204). -/
def parseRecord (i : Nat) (b : List Byte) : RingRec :=
  ⟨i, BitVec.ofNat 32 (leAt b 0 4), b.getD 4 0, b.getD 5 0, b.getD 6 0, b.getD 7 0, b.drop 8⟩

/-- The record at ring index `i` (R200). -/
def readRecord (s : State) (a : Arm) (i : Nat) : RingRec := parseRecord i (memBytes s (ringAddr a i) 128)

/-- The bytes that the parameters of a record occupy (R206), `nj` joints. -/
def usedBytes (r : RingRec) (nj : Nat) : List (Nat × Nat) :=
  match r.code with
  | 0x01 => [(8, 8), (16, 4 * nj)]
  | 0x02 => [(8, 72)]
  | 0x03 => [(8, 96)]
  | 0x04 => if r.fl % 2 = 1 then [(8, 4), (12, 8), (28, 4 * nj)] else [(8, 76)]
  | 0x10 => [(8, 8)]
  | 0x11 => [(8, 16)]
  | 0x12 => [(8, 3), (16, 8)]
  | 0x20 => [(8, 14), (24, 8)]
  | 0x30 => [(8, 64)]
  | 0x31 => [(8, 4)]
  | 0x40 => [(8, 4)]
  | 0x41 => [(8, 1), (12, 68)]
  | 0x50 => [(8, 4), (16, 8)]
  | 0x60 => [(8, 4), (16, 12 * nj)]
  | _ => []

/-- The flags that a command defines (R206). -/
def flagMask (op : Nat) : Nat :=
  if op = 0x04 ∨ (0x10 ≤ op ∧ op ≤ 0x12) then 1 else if op = 0x20 ∨ op = 0x50 then 3 else 0

/-- Whether `FRAME` applies to the command (R204). -/
def framed (r : RingRec) : Bool := r.cartesian

/-- A byte offset that no field of the command covers. -/
def reservedAt (r : RingRec) (nj o : Nat) : Bool := (usedBytes r nj).all fun x => decide (o < x.1 ∨ x.1 + x.2 ≤ o)

/-- Code 0x02 (R204, R206, R224). [DEDUCED, log 95] -/
def reservedBad (r : RingRec) (nj : Nat) : Bool :=
  r.res7 != 0 || decide (r.fl / (flagMask r.code + 1) ≠ 0) || (!framed r && r.frame != 0) ||
  (List.range 120).any fun k => reservedAt r nj (k + 8) && r.body.getD k 0 != 0

/-- The float32 and float64 offsets of a command (R206). -/
def floats32 (r : RingRec) (nj : Nat) : List Nat :=
  match r.code with
  | 0x01 => [8, 12]
  | 0x02 => [8, 12, 16, 20]
  | 0x03 => [8, 12, 16, 20]
  | 0x04 => if r.fl % 2 = 1 then [8, 12, 16] else [8, 12, 16, 20, 24]
  | 0x31 => [8]
  | 0x40 => [8]
  | 0x41 => (List.range 17).map fun k => 12 + 4 * k
  | 0x60 => (List.range nj).flatMap fun j => [20 + 12 * j, 24 + 12 * j]
  | _ => []

def floats64 (r : RingRec) : List Nat :=
  match r.code with
  | 0x02 => (List.range 7).map fun k => 24 + 8 * k
  | 0x03 => (List.range 10).map fun k => 24 + 8 * k
  | 0x04 => if r.fl % 2 = 1 then [] else (List.range 7).map fun k => 28 + 8 * k
  | 0x30 => (List.range 7).map fun k => 16 + 8 * k
  | _ => []

/-- Code 0x03. -/
def floatBad (r : RingRec) (nj : Nat) : Bool :=
  (floats32 r nj).any (fun o => !fFinite (r.f32 o)) || (floats64 r).any (fun o => !dFinite (r.f64 o))

/-- A norm within 10⁻⁶ of 1 (R206). -/
def unitNorm (v : List F64) : Bool := dLe (dAbs (dSub (norm64 v) (dOfInt 1))) micro

/-- A float32 above 0. -/
def pos32 (x : F32) : Bool := fLt 0 x

/-- A float32 above 0, at most 1. -/
def fraction32 (x : F32) : Bool := fLt 0 x && fLe x 0x3F800000

-- Direct segments (R226)

/-- The segment length T in seconds. -/
def segSeconds (bus dur : Nat) : F64 := dDiv (dOfInt (dur * bus : Nat)) (dOfInt 1000000000)

/-- Round a binary64 number of turns to LSB 2⁻⁴⁴, ties to even (R270). -/
def roundTurns (x : F64) : Int :=
  let f := dFloor 45 x
  let q := f / 2
  if f % 2 = 0 then q else if dEq (dOfScaled f (-45)) x then (if q % 2 = 0 then q else q + 1) else q + 1

/-- The coefficients of one joint of a direct segment (R226): start state in turns, end state, length. [DEDUCED, log 95] -/
def segCoeffs (q0 v0 a0 q1 v1 a1 t : F64) : List Int :=
  let tv0 := dMul t v0
  let t2 := dMul t t
  let half := dMul (dDiv t2 (dOfInt 2)) a0
  let da := dSub (dSub (dSub q1 q0) tv0) half
  let db := dSub (dSub (dMul t v1) tv0) (dMul t2 a0)
  let dc := dSub (dMul t2 a1) (dMul t2 a0)
  let c0 := roundTurns q0
  let c1 := roundTurns tv0
  let c2 := roundTurns half
  let c3 := roundTurns (dAdd (dSub (dMul (dOfInt 10) da) (dMul (dOfInt 4) db)) (dDiv dc (dOfInt 2)))
  let c4 := roundTurns (dSub (dAdd (dMul (dOfInt (-15)) da) (dMul (dOfInt 7) db)) dc)
  [c0, c1, c2, c3, c4, roundTurns q1 - (c0 + c1 + c2 + c3 + c4)]

/-- Radians per second (or per second squared) as turns. -/
def turnRate (x : F32) : F64 := dDiv (dOfF x) twoPi

/-- The end state of joint `j` of a `SEGMENT`. -/
def segEnd (r : RingRec) (j : Nat) : Int × F32 × F32 := (r.i32 (16 + 12 * j), r.f32 (20 + 12 * j), r.f32 (24 + 12 * j))

/-- The state that the next segment starts from: the end of the last taken, or the arm at rest at its measured position (R226, R233).
[DEDUCED, log 95] -/
def chainStart (s : State) (a : Arm) (j : Nat) : Int × F32 × F32 :=
  (s.play[a]).chain.getD j ((s.sdp.joint[(⟨(a.val * 8 + j) % 96, Nat.mod_lt _ (by decide)⟩ : Fin 96)]).posMeas, 0, 0)

/-- Every joint's coefficients of a `SEGMENT` record. -/
def segOf (s : State) (a : Arm) (bus : Nat) (r : RingRec) : List (List Int) :=
  (List.range (armJoints s a)).map fun j =>
    let b := chainStart s a j
    let e := segEnd r j
    segCoeffs (turnsOf b.1) (turnRate b.2.1) (turnRate b.2.2) (turnsOf e.1) (turnRate e.2.1) (turnRate e.2.2) (segSeconds bus (r.n 8 4))

/-- Value, first and second derivative of a quintic at k/n of its length, in turns, turns and turns (R224, R226). -/
def quinticAt (c : List Int) (k n : Nat) : F64 × F64 × F64 :=
  let x := dDiv (dOfInt (k : Nat)) (dOfInt (n : Nat))
  let g := fun i => dOfScaled (c.getD i 0) (-44)
  let q := dAdd (g 0) (dMul x (dAdd (g 1) (dMul x (dAdd (g 2) (dMul x (dAdd (g 3) (dMul x (dAdd (g 4) (dMul x (g 5))))))))))
  let m := fun i k => dMul (dOfInt k) (g i)
  let v := dAdd (g 1) (dMul x (dAdd (m 2 2) (dMul x (dAdd (m 3 3) (dMul x (dAdd (m 4 4) (dMul x (m 5 5))))))))
  let w := dAdd (m 2 2) (dMul x (dAdd (m 3 6) (dMul x (dAdd (m 4 12) (dMul x (m 5 20))))))
  (q, v, w)

/-- Whether one joint's segment keeps the joint's limits at every sync instant within it: (velocity and acceleration ok, position ok). -/
def segWithin (l : JointLimits) (bus dur : Nat) (c : List Int) : Bool × Bool :=
  let t := segSeconds bus dur
  (List.range (dur + 1)).foldl (fun ok k =>
    let x := quinticAt c k dur
    (ok.1 && dLe (dAbs (dDiv x.2.1 t)) (dDiv l.vel twoPi) && dLe (dAbs (dDiv x.2.2 (dMul t t))) (dDiv l.acc twoPi),
     ok.2 && decide (l.posMin ≤ dFloor 20 x.1 ∧ dFloor 20 x.1 ≤ l.posMax))) (true, true)

/-- The checks of a whole `SEGMENT`. [DEDUCED, log 95] -/
def segChecks (s : State) (a : Arm) (bus : Nat) (r : RingRec) : Bool × Bool :=
  ((jointLimits s a).zip (segOf s a bus r)).foldl (fun ok x =>
    let w := segWithin x.1 bus (r.n 8 4) x.2
    (ok.1 && w.1, ok.2 && w.2)) (true, true)

/-- Code 0x04 (R206, R224). [DEDUCED, log 95] -/
def rangeBad (s : State) (a : Arm) (bus : Nat) (r : RingRec) : Bool :=
  let lin := fun o => !(pos32 (r.f32 o) && pos32 (r.f32 (o + 4)) && pos32 (r.f32 (o + 8)) && pos32 (r.f32 (o + 12)))
  let frame := decide (2 < r.frame.toNat)
  match r.code with
  | 0x01 => !(fraction32 (r.f32 8) && fraction32 (r.f32 12))
  | 0x02 => lin 8 || !unitNorm (r.vec 48 4) || frame
  | 0x03 => lin 8 || !unitNorm (r.vec 72 4) || frame
  | 0x04 =>
    fLt (r.f32 8) 0 ||
    (if r.fl % 2 = 1 then !(fraction32 (r.f32 12) && fraction32 (r.f32 16)) else lin 12 || !unitNorm (r.vec 52 4) || frame)
  | 0x12 => decide (2 < r.n 8 1) || decide (15 < r.n 9 1) || (r.n 8 1 != 1 && decide (1 < r.n 10 1))
  | 0x20 =>
    r.fl % 4 == 3 || r.n 20 1 == 0 || decide (4 < r.n 20 1) ||
    ((r.n 20 1 == 1 || r.n 20 1 == 3) && decide (15 < r.n 21 1)) || (r.n 20 1 == 2 && decide (31 < r.n 21 1))
  | 0x30 => !unitNorm (r.vec 40 3) || dLt (r.f64 64) (dDiv micro (dOfInt 1000)) || dLt (dOfInt 1) (r.f64 64)
  | 0x31 => !pos32 (r.f32 8)
  | 0x40 => fLt (r.f32 8) (fDiv (fOfInt 1) (fOfInt 100)) || fLt 0x3F800000 (r.f32 8)
  | 0x41 => decide (7 < r.n 8 1)
  | 0x50 => r.fl % 4 == 3 || decide (4095 < r.n 10 2)
  | 0x60 => decide (r.n 8 4 < 1 ∨ 64 < r.n 8 4) || !(segChecks s a bus r).1
  | _ => false

/-- Code 0x05. -/
def jointBad (s : State) (a : Arm) (bus : Nat) (r : RingRec) : Bool :=
  let off := if r.code = 0x01 then 16 else 28
  if r.joint then
    (jointLimits s a).zipIdx.any fun x => decide (r.i32 (off + 4 * x.2) < x.1.posMin ∨ x.1.posMax < r.i32 (off + 4 * x.2))
  else if r.code = 0x60 then !(segChecks s a bus r).2
  else false

/-- A Cartesian position of a record in the cell frame: line-frame targets by the line frame that the record will find, at the present
phase (R210, R218). [DEDUCED, log 95] -/
def targetInCell (s : State) (a : Arm) (r : RingRec) (o : Nat) : V3 F64 :=
  reframe (originAt (frameAhead s a) (linePhase s)) r.onLine false (targetPoint s a r o)

/-- Code 0x06. [DEDUCED, log 95] -/
def reachBad (s : State) (a : Arm) (r : RingRec) : Bool :=
  match armModel s a with
  | some m => r.cartesian && dLt m.reach (a64.norm (a64.vsub (targetInCell s a r r.posAt) (a64.ofList m.reachC)))
  | none => false

/-- Code 0x07 (R205): commands accepted in the arm's mode. -/
def modeBad (s : State) (a : Arm) (r : RingRec) : Bool :=
  if assisted s .arm a then !(r.timed || r.code == 0x60 || r.code == 0x7F) else r.code == 0x60

/-- The TCP position in the cell frame from which a record taken now starts: the target of the motion record before it, or the end of the
arm's path, or the pose of its commanded joints (R207, R224). [DEDUCED, log 95] -/
def startInCell (s : State) (a : Arm) : V3 F64 :=
  match ((s.ring[a]).taken.filter (·.isMotion)).getLast? with
  | some q => if q.cartesian then targetInCell s a q q.posAt else (asPose s a (targetRef s a q)).1
  | none => match (s.ring[a]).lastRef with
    | some x =>
      reframe (originAt (s.ring[a]).tracking (linePhase s)) (((s.ring[a]).path.getLast?.map (·.line)).getD false) false (asPose s a x).1
    | none => (asPose s a (.joints (commandedJoints s a))).1

/-- The distance of a point from a chord between two points. -/
def chordDistance (p a b : V3 F64) : F64 :=
  let c := a64.closest p p a b
  a64.norm (a64.vsub c.1 c.2)

/-- Code 0x09: the arc is degenerate. -/
def arcBad (s : State) (a : Arm) (r : RingRec) : Bool :=
  if r.code = 0x03 then
    let pm := targetInCell s a r 24
    let p := targetInCell s a r 48
    let start := startInCell s a
    let far := fun u v => a64.norm (a64.vsub u v)
    dLe (far pm start) milli || dLe (far pm p) milli || dLe (chordDistance pm start p) milli
  else false

/-- The leader of a coupling: its lowest arm (R222). -/
def isLeader (a : Arm) (m : BitVec 12) : Bool := m.toNat % 2 ^ a.val == 0

/-- The coupling that a record taken now will find, by its arms: that of the last coupling or releasing rendezvous taken before it
(R222). [DEDUCED, log 95] -/
def couplingAhead (s : State) (a : Arm) : Option (BitVec 12) :=
  match ((s.ring[a]).taken.filter fun r => r.isRdv && (r.fl % 4 == 1 || r.fl % 4 == 2)).getLast? with
  | some r =>
    let now := (s.ring[a]).coupled
    if r.fl % 4 = 1 then some (BitVec.ofNat 12 (r.n 10 2))
    else if now.any fun c => c.rid.toNat != r.n 8 2 then now.map (·.mask) else none
  | none => (s.ring[a]).coupled.map (·.mask)

/-- Code 0x0A (R222). -/
def coupledBad (s : State) (a : Arm) (r : RingRec) : Bool :=
  match couplingAhead s a with
  | none => false
  | some mask =>
    let release := r.isRdv && r.fl % 4 == 2
    !(r.isOutput || release || (isLeader a mask && (r.code == 2 || r.code == 3 || (r.code == 4 && r.cartesian) || r.code == 0x40)))

/-- θ of a `TOOL` record's nominal payload (R259): inertia taken to the flange origin. -/
def toolTheta (t : Tool) : List F64 :=
  let m := dOfF t.mass
  let c := fun i => dOfF (t.com.getD i 0)
  let i := fun k => dOfF (t.inertia.getD k 0)
  let sq := dAdd (dAdd (dMul (c 0) (c 0)) (dMul (c 1) (c 1))) (dMul (c 2) (c 2))
  let diag := fun k => dAdd (i k) (dMul m (dSub sq (dMul (c k) (c k))))
  let cross := fun k a b => dSub (i k) (dMul m (dMul (c a) (c b)))
  [m, dMul m (c 0), dMul m (c 1), dMul m (c 2), diag 0, diag 1, diag 2, cross 3 0 1, cross 4 0 2, cross 5 1 2]

/-- The tool that a `TOOL` record describes. -/
def recTool (r : RingRec) : Tool := ⟨r.n 8 1, r.f32 12, r.vec32 16 3, r.vec32 28 6, r.vec32 52 3, r.vec32 64 4⟩

/-- Code 0x0C. -/
def payloadBad (s : State) (a : Arm) (r : RingRec) : Bool :=
  if r.code = 0x41 then
    (toolTheta (recTool r)).zipIdx.any fun x =>
      dLt x.1 (dOfF (reg s .kin a (Reg.KIN_LO + 4 * x.2))) || dLt (dOfF (reg s .kin a (Reg.KIN_HI + 4 * x.2))) x.1
  else false

/-- Code 0x0D. -/
def tsetBad (s : State) (a : Arm) (r : RingRec) : Bool :=
  r.code == 0x41 && (match armModel s a with
    | some m => !m.tsets.getLsbD (r.n 8 1)
    | none => true)

/-- Code 0x0E (R254). -/
def couplingBad (s : State) (r : RingRec) : Bool :=
  if r.code = 0x50 ∧ r.fl % 4 = 1 then
    let m := BitVec.ofNat 12 (r.n 10 2)
    match allArms.find? fun (b : Arm) => m.getLsbD b.val with
    | none => false
    | some l => allArms.any fun (b : Arm) => m.getLsbD b.val && b != l &&
        !((match s.arms with | some x => x.couplings | none => []).any fun p => p.1 == l.val && p.2 == b.val)
  else false

/-- Known command codes (R205). -/
def knownOps : List Nat := [1, 2, 3, 4, 0x10, 0x11, 0x12, 0x20, 0x30, 0x31, 0x40, 0x41, 0x50, 0x60, 0x7F]

/-- The first code of R224 that applies to a record, 0 for none; bus cycles of `bus` ns. [DEDUCED, log 95] -/
def recordCode (bus : Nat) (s : State) (a : Arm) (r : RingRec) : Nat :=
  if !knownOps.contains r.code then 0x01
  else if reservedBad r (armJoints s a) then 0x02
  else if floatBad r (armJoints s a) then 0x03
  else if rangeBad s a bus r then 0x04
  else if jointBad s a bus r then 0x05
  else if reachBad s a r then 0x06
  else if modeBad s a r then 0x07
  else if framed r && r.frame == 2 && (frameAhead s a).isNone then 0x08
  else if arcBad s a r then 0x09
  else if coupledBad s a r then 0x0A
  else if r.isRdv && !(BitVec.ofNat 12 (r.n 10 2)).getLsbD a then 0x0B
  else if payloadBad s a r then 0x0C
  else if tsetBad s a r then 0x0D
  else if couplingBad s r then 0x0E
  else 0

-- Completion reports (R228)

/-- The statuses of a report. -/
inductive RptStatus where
  | done | clipped | starved | atRest | timeout | malformed | aborted | flushed
  deriving DecidableEq, Repr

/-- The code of a status. -/
def RptStatus.n : RptStatus → Nat
  | .done => 0 | .clipped => 1 | .starved => 2 | .atRest => 3 | .timeout => 4 | .malformed => 5 | .aborted => 6 | .flushed => 7

/-- The bytes of a report. -/
def reportBytes (r : Report) : List Byte :=
  leBytes 4 r.seq.toNat ++ [r.op, BitVec.ofNat 8 r.status] ++ leBytes 2 r.code ++ leBytes 4 r.time.toNat ++ leBytes 4 r.tag.toNat ++
  leBytes 4 r.idx ++ leBytes 4 r.info ++ leBytes 8 r.phase.toNat

/-- A report as it is formed at a completion (R228). -/
def newReport (s : State) (seq : Word) (op : Byte) (st : RptStatus) (code idx info : Nat) : Report :=
  { seq := seq, op := op, status := st.n, code := code, time := stamp s, tag := lo32 (s.clk.tag.setWidth 64), idx := idx, info := info
    phase := if lineEn s then BitVec.ofInt 64 (linePhase s) else 0 }

/-- A report is formed; it waits for flow 5 (R35, R228, R355). [DEDUCED, log 98] -/
def writeReport (a : Arm) (seq : Word) (op : Byte) (st : RptStatus) (code idx info : Nat) (s : State) : State :=
  modRing a (fun g => { g with due := g.due ++ [newReport s seq op st code idx info] }) s

/-- Flow 5 releases one report: it is written whole, then `RPT_WR` advances (R228). [DEDUCED, log 98] -/
def putReport (a : Arm) (r : Report) (s : State) : State :=
  let i := rptWr s a
  let s := setBytes (reportAddr a i) (reportBytes r) s
  let s := setReg .arm a Reg.ARM_RPT_WR (BitVec.ofNat 32 ((i + 1) % 2048)) s
  let s := irq .arm a armReport (count .arm a 1 s)
  irqIf (decide (1024 ≤ unread s a)) .arm a armRptHigh s

/-- Flow 5 releases the reports of an arm in order; the `FLUSHED` report of a page reset ends `SRST` (R567). [DEDUCED, log 98] -/
def releaseReports (a : Arm) (s : State) : State :=
  let s := modRing a (fun g => { g with due := [] }) (forEach (s.ring[a]).due (putReport a) s)
  if (s.ring[a]).srst && (s.ring[a]).halt == 0 then modRing a (fun g => { g with srst := false }) (setFlag .arm a Reg.CTRL 1 false s) else s

/-- Taken records whose reports are not yet written (R202, R230). -/
def unreported (s : State) (a : Arm) : Nat := (s.ring[a]).taken.length + ((s.ring[a]).due.filter fun r => r.status != 7).length

/-- Report a taken record, which leaves the list of taken records. [DEDUCED, log 98] -/
def report (a : Arm) (r : RingRec) (st : RptStatus) (code info : Nat) (s : State) : State :=
  writeReport a r.seq r.op st code r.idx info (modRing a (fun g => { g with taken := g.taken.erase r }) s)

-- Halts (R223)

/-- Every taken record is reported `ABORTED`, and its timed actions leave the delay lists (R223). -/
def abortTaken (a : Arm) (s : State) : State :=
  let mine := fun (e : DelayEntry) => match e.act with
    | .output b _ => b == a.val
    | .operand _ _ _ => false
  let drop := fun (l : List DelayEntry) => l.filter fun e => !mine e
  let s := modTds (fun d => { d with
    timeList := drop d.timeList, phaseList := drop d.phaseList, combTime := drop d.combTime,
    combPhase := drop d.combPhase, fired := drop d.fired, inserts := d.inserts.filter (fun x => !mine x.2) }) s
  forEach (s.ring[a]).taken (fun r s => count .arm a 5 (report a r .aborted 0 0 s)) (modRing a (fun g => { g with stopAt := none }) s)

/-- Whether a halt cause ends the records taken (R223). [DEDUCED, log 96] -/
def abortsTaken (cause : Nat) : Bool := cause == 3 || cause == 4 || cause == 5

/-- A stop or an abort ends the records that a ring holds; `ABORT` and `LINE` bring the arm to rest within its path (R220, R223). -/
def endRecords (cause : Nat) (a : Arm) (s : State) : State :=
  let s := modRing a (fun g => { g with
    wait := none, rdv := false, onPath := [], blends := [], ends := [], lastRef := none, release := false
    cut := g.cut || cause == 4 || cause == 5 }) s
  abortTaken a s

/-- One ring halts with a cause; a ring that is halted keeps its first cause, and a stop or an abort ends the records it still holds. After
a malformed record the records before it go on (R223). [DEDUCED, log 96] -/
def haltOne (cause : Nat) (a : Arm) (s : State) : State :=
  if (s.ring[a]).halt ≠ 0 then (if abortsTaken cause then endRecords cause a s else s)
  else
    let s := irq .arm a armHalt (modRing a (fun g => { g with halt := cause }) s)
    if abortsTaken cause then endRecords cause a s
    else if cause = 1 then s
    else modRing a (fun g => { g with wait := none, rdv := false }) s

/-- The arms of the coupling of `a`, with `a` itself, or `a` alone (R222). [DEDUCED, log 33] -/
def coupledArms (s : State) (a : Arm) : List Arm :=
  match (s.ring[a]).coupled with
  | some c => allArms.filter fun b => b == a || c.mask.getLsbD b
  | none => [a]

/-- A halt applies to every arm of the coupling (R222, R223). [DEDUCED, log 33] -/
def haltRing (cause : Nat) (a : Arm) (s : State) : State := forEach (coupledArms s a) (haltOne cause) s

/-- A malformed record is reported once the arm is at rest and the records before it are done (R223). [DEDUCED, log 96] -/
def settleBad (a : Arm) (s : State) : State :=
  match (s.ring[a]).bad with
  | some (r, c) =>
    if (s.ring[a]).taken.isEmpty && restsAt s a then
      writeReport a r.seq r.op .malformed c r.idx 0 (modRing a (fun g => { g with bad := none }) s)
    else s
  | none => s

-- Progress through the taken records

/-- The record in progress: the first that is not a timed output action. -/
def inProgress (s : State) (a : Arm) : Option RingRec := (s.ring[a]).taken.find? fun r => !r.timed

/-- Whether an output action already waits on a delay list. -/
def placed (s : State) (a : Arm) (r : RingRec) : Bool :=
  let d := s.tds
  (d.timeList ++ d.phaseList ++ d.combTime ++ d.combPhase ++ d.fired ++ d.inserts.map (·.2)).any fun e => match e.act with
    | .output b q => b == a.val && q == r
    | .operand _ _ _ => false

/-- Put an output action on its delay list (R215). [DEDUCED, log 87] -/
def placeOutput (a : Arm) (r : RingRec) (key : Int) (s : State) : State :=
  insertDelay (r.fl % 4 == 2) ⟨key, s.clk.tag, 0, .output a.val r, false⟩ s

/-- The records that act on the path point just reached or at rest: `SPEED`, `SET_OUTPUT` with `WHEN` 0 (R215, R216). -/
def actInline (a : Arm) : Nat → State → State
  | 0, s => s
  | k + 1, s =>
    match (s.ring[a]).taken.find? fun r => !r.timed && !(r.isOutput && placed s a r) with
    | some r =>
      if r.code = 0x40 then actInline a k (report a r .done 0 0 (modRing a (fun g => { g with ovr := r.f32 8 }) s))
      else if r.isOutput then actInline a k (placeOutput a r (((s.ring[a]).mark : Int) + (r.n 16 4 : Nat) * 1000) s)
      else s
    | none => s

/-- The first record that is neither an inline record under way nor timed. [DEDUCED, log 97] -/
def nextStop (s : State) (a : Arm) : Option RingRec := (s.ring[a]).taken.find? fun r => !r.isInline

/-- Whether the rendezvous records of two arms agree in `RID` (R221). -/
def sameRid (r q : RingRec) : Bool := r.n 8 2 == q.n 8 2
/-- Whether they agree in `RID`, `MODE` and `MASK`. -/
def sameRdv (r q : RingRec) : Bool := sameRid r q && r.fl % 4 == q.fl % 4 && r.n 10 2 == q.n 10 2

/-- The rendezvous at which an arm waits. -/
def waitingRdv (s : State) (a : Arm) : Option RingRec := if (s.ring[a]).rdv then nextStop s a else none

/-- An arm reaches a rendezvous (R221): it waits, or halts on a mismatch with one that waits. [DEDUCED, log 96] -/
def reachRdv (a : Arm) (r : RingRec) (s : State) : State :=
  let clash := allArms.any fun b => b != a && (match waitingRdv s b with
    | some q => sameRid r q && !sameRdv r q
    | none => false)
  if clash then
    let s := setReg .arm a Reg.ARM_LASTERR (BitVec.ofNat 32 (r.idx * 2 ^ 16 + 0x0B)) (count .arm a 2 s)
    report a r .malformed 0x0B 0 (haltRing 6 a (modRing a (fun g => { g with wait := none }) s))
  else modRing a (fun g => { g with rdv := true, wait := some (nsOf s, 0) }) s

/-- Whether a ring works on the records it has taken: not halted, or halted by a malformed record after them (R223). -/
def ringRuns (s : State) (a : Arm) : Bool := (s.ring[a]).halt == 0 || (s.ring[a]).bad.isSome

/-- At rest before a wait or a rendezvous, it begins (R212, R221); outputs after it count from this sync instant (R215). -/
def startWait (a : Arm) (s : State) : State :=
  if ringRuns s a = false ∨ restsAt s a = false ∨ (s.ring[a]).wait.isSome then s
  else match nextStop s a with
    | some r =>
      let s := if r.isRdv ∨ r.isWait then modRing a (fun g => { g with mark := syncNs s }) s else s
      if r.isRdv then reachRdv a r s
      else if r.isWait then modRing a (fun g => { g with wait := some (nsOf s, (s.enc[fin16 (r.n 9 1)]).latchSeq) }) s
      else s
    | none => s

/-- What follows a completion: inline records, the next wait, the report of a malformed record. -/
def afterCompletion (a : Arm) (s : State) : State :=
  settleBad a (startWait a (actInline a 33 s))

/-- Status and `INFO` of a `VIA` as it completes: starved, blended at r, or passed at rest (R208, R211). [DEDUCED, log 97] -/
def viaStatus (g : ArmRing) (r : RingRec) : RptStatus × Nat :=
  if g.stopAt = some r then (.starved, 0)
  else match g.blends.find? fun x => x.1 == r.idx with
    | some x => if x.2.2 then (.clipped, ((dFloor 1 (dMul x.2.1 (dOfInt 1000000)) + 1) / 2).toNat) else (.done, 0)
    | none => (.atRest, 0)

/-- The action of a stop point as it completes (R217, R218, R229). [DEDUCED, log 97] -/
def stopAction (a : Arm) (r : RingRec) (s : State) : State :=
  match r.code with
  | 0x30 => modRing a (fun g => { g with tracking := some (frameOfRecord r) }) s
  | 0x31 => modRing a (fun g => { g with release := false }) s
  | 0x41 => modRing a (fun g => { g with toolNext := some (recTool r) }) s
  | 0x7F => irq .arm a armEnd s
  | _ => s

/-- A record leaves the path sampler's hands: a motion record that ends at rest leaves its target as the rest pose; outputs that follow a
path point or a stop count from this sync instant (R207, R215). -/
def passRecord (a : Arm) (r : RingRec) (s : State) : State :=
  let rest := r.isMotion && !((s.ring[a]).blends.any fun x => x.1 == r.idx)
  modRing a (fun g => { g with
    wait := none, rdv := false, mark := if r.isRdv || r.isWait then g.mark else syncNs s
    onPath := g.onPath.erase r.idx, ends := g.ends.filter fun x => x.1 != r.idx, blends := g.blends.filter fun x => x.1 != r.idx
    lastRef := if rest then some (targetRef s a r) else g.lastRef
    stopAt := if r.isVia ∧ g.stopAt = some r then none else g.stopAt }) s

/-- The report and the action of a record that completes. -/
def finishRecord (a : Arm) (r : RingRec) (s : State) : State :=
  let v := if r.isVia then viaStatus s.ring[a] r else (.done, 0)
  passRecord a r (countIf (v.1 == .clipped) .arm a 7 (report a r v.1 0 v.2 (stopAction a r s)))

/-- A record completes (R229): its report, its action, and what follows it. -/
def completeRecord (a : Arm) (r : RingRec) (s : State) : State := afterCompletion a (finishRecord a r s)

/-- Whether the last `SEGMENT` taken but `n` others has been played: more taken than the plan still holds (R229). -/
def segmentPlayed (s : State) (a : Arm) : Bool :=
  let p := s.play[a]
  let left := p.segs.length + (p.next.getD []).length - b2n p.ended
  decide (left < ((s.ring[a]).taken.filter fun r => r.code == 0x60).length)

/-- Whether the record in progress has reached its completion (R229): the end point, the end of the segment, rest. -/
def completes (s : State) (a : Arm) (r : RingRec) : Bool :=
  if r.isMotion then reached s a r
  else if r.code = 0x60 then segmentPlayed s a
  else if r.code = 0x31 then (s.ring[a]).release && pathDone s a && (s.play[a]).rest
  else restsAt s a

/-- RECORD_COMPLETION (R229): the record in progress of an arm completes; a wait and a rendezvous complete by their own events.
[DEDUCED, log 98] -/
def recordCompletion (a : Arm) (s : State) : State :=
  if ringRuns s a then
    match nextStop s a with
    | some r => if r.isRdv ∨ r.isWait ∨ completes s a r = false then s else completeRecord a r s
    | none => afterCompletion a s
  else s

-- Take-in (R202, R203, R224)

/-- Whether the path sampler takes records of an arm (R202, R203, R223): none while a malformed record waits for its report.
[DEDUCED, log 95] -/
def canTake (s : State) (a : Arm) : Bool :=
  enabled s .arm a && flag s .arm a Reg.READY 0 && (s.ring[a]).halt == 0 && (s.ring[a]).bad.isNone && !(s.ring[a]).srst &&
  decide (unreported s a < 32) && decide ((s.ring[a]).taken.length + (s.ring[a]).due.length < freeReports s a)

/-- The payload parameters in force: identified, or the host's (R245, R265). -/
def payloadTheta (s : State) (a : Arm) : List F64 :=
  if assisted s .kin a then (s.ident[a]).haGood.map dOfF else (s.ident[a]).theta

/-- A torque in N·m, and a mass-matrix element in N·m per rad/s², as the feedforward takes them: LSB 2⁻¹⁶ N·m, and per turn/s² (R334).
[DESIGN CHOICE, log 92] -/
def torqueLsb (x : F64) : Int := clampI (2 ^ 31 - 1) ((dFloor 17 x + 1) / 2)
def massLsb (x : F64) : Int := torqueLsb (dMul x twoPi)

/-- Plan torque and mass diagonal that the kinematics unit gives for a joint state: positions, velocities, accelerations in rad (R334). -/
def unitTorque (s : State) (a : Arm) (q qd qdd : List F64) : List Int × List Int :=
  match armModel s a, s.arms with
  | some m, some im =>
    let p := payloadTheta s a
    let mass := massMatrix m p q
    let b := biasTorques m p im.gravity q qd
    ((b.zip (matVec (matT mass.length mass) qdd)).map fun x => torqueLsb (dAdd x.1 x.2),
      mass.zipIdx.map fun x => massLsb (x.1.getD x.2 0))
  | _, _ => ([], [])

/-- The unit's values at the end state of a segment, or at the start of the chain. -/
def segTorque (s : State) (a : Arm) (e : List (Int × F32 × F32)) : List Int × List Int :=
  unitTorque s a (e.map fun x => radOf x.1) (e.map fun x => dOfF x.2.1) (e.map fun x => dOfF x.2.2)

/-- A `SEGMENT` joins the arm's chain and is played from the next plan-cycle start on (R226, R227); torque and mass at its end
are the kinematics unit's (R334). -/
def takeSegment (bus : Nat) (a : Arm) (r : RingRec) (s : State) : State :=
  let nj := armJoints s a
  let c := segOf s a bus r
  let atStart := segTorque s a ((List.range nj).map (chainStart s a))
  let atEnd := segTorque s a ((List.range nj).map (segEnd r))
  let last := ((s.play[a]).segs ++ (s.play[a]).next.getD []).getLast?
  let g : Seg := ⟨r.n 8 4, c, (last.map (·.tau1)).getD atStart.1, atEnd.1, (last.map (·.m1)).getD atStart.2, atEnd.2, (0, 0, 0)⟩
  { s with play := vmod s.play a fun p => { p with
      next := some (p.next.getD [] ++ [g]), chain := (List.range nj).map (segEnd r) } }

/-- Take one record in (R202, R224): bus cycles of `bus` ns. -/
def takeRecord (bus : Nat) (a : Arm) (r : RingRec) (s : State) : State :=
  let s := setReg .arm a Reg.ARM_RD_IDX (BitVec.ofNat 32 ((r.idx + 1) % 1024)) (count .arm a 0 s)
  let s := modRing a (fun g => { g with starved := false }) s
  let c := recordCode bus s a r
  if c ≠ 0 then
    let s := setReg .arm a Reg.ARM_LASTERR (BitVec.ofNat 32 (r.idx * 2 ^ 16 + c)) (count .arm a 2 s)
    settleBad a (haltRing 1 a (modRing a (fun g => { g with bad := some (r, c) }) s))
  else
    let s := modRing a (fun g => { g with taken := g.taken ++ [r] }) s
    if r.timed then placeOutput a r (r.i64 8) s
    else if r.code = 0x60 then takeSegment bus a r s
    else if restsAt s a && (nextStop s a == some r || (nextStop s a).isNone) then afterCompletion a s
    else s

/-- Take up to `k` visible records of an arm (R202). -/
def takeVisible (bus : Nat) (a : Arm) : Nat → State → State
  | 0, s => s
  | k + 1, s =>
    if canTake s a && decide (0 < unconsumed s a) && decide ((s.ring[a]).took < 8) then
      takeVisible bus a k (takeRecord bus a (readRecord s a (rdIdx s a)) (modRing a (fun g => { g with took := g.took + 1 }) s))
    else s

/-- Progress of an arm at stage 0 of the plan that starts (R233, R240). -/
def progressAtStage0 (s : State) (a : Arm) : F64 := (s.plf.s0[a]).1

/-- The end of the reference that Plefin gets for the plan: N × h and 10 % beyond stage 0 (R240). -/
def referenceEnd (s : State) (a : Arm) : F64 :=
  match s.plf.banks[s.plf.act] with
  | some p =>
    let span := segSeconds (busNs s) (p.horizon * p.plancyc)
    dAdd (progressAtStage0 s a) (dAdd span (dDiv span (dOfInt 10)))
  | none => progressAtStage0 s a

/-- Progress at which the join of a via that is last on the path would begin, at its largest r (R208, R211). [DEDUCED, log 97] -/
def joinEntry (g : ArmRing) (v : RingRec) : Option F64 :=
  match g.path.getLast? with
  | some e =>
    if e.ends = some v.idx then
      let l := pieceLength e.geom
      let r := dMin (dOfF (v.f32 8)) (dDiv l (dOfInt 2))
      let u := if dLe l 0 then e.ub else dSub (dOfInt 1) (dDiv r l)
      let before := (e.phases.filter fun p => dLt (phaseAt p p.dur).1 u)
      let rest := (e.phases.filter fun p => dLe u (phaseAt p p.dur).1).head?
      -- within the phase that reaches u: at its start where u lies before it
      let within := match rest with
        | some p => if dLe u p.a then 0 else dMul p.dur (dDiv (dSub u p.a) (dSub (phaseAt p p.dur).1 p.a))
        | none => 0
      some (dAdd (dAdd (pathEnd g.pathT g.path.dropLast) (phasesTime before)) within)
    else none
  | none => none

/-- STARVED (R211): a via after which no motion record and no stop point is taken, and whose join would begin within the reference handed
to Plefin, gets a committed stop at rest. [DEDUCED, log 96] -/
def starve (a : Arm) (s : State) : State :=
  match ((s.ring[a]).taken.filter fun r => !r.isInline).getLast? with
  | some r =>
    if r.isVia ∧ (s.ring[a]).stopAt ≠ some r ∧ (s.ring[a]).halt = 0 then
      match joinEntry s.ring[a] r with
      | some x =>
        if dLe x (referenceEnd s a) then
          count .arm a 4 (irq .arm a armStarved (modRing a (fun g => { g with starved := true, stopAt := some r }) s))
        else s
      | none => s
    else s
  | none => s

/-- The line frame's origin at the predicted phase of stage `i`, or where it is frozen (R251). -/
def originAhead (s : State) (f : LineFrame) (i : Nat) : V3 F64 :=
  match f.frozen with
  | some x => lineOrigin f x
  | none =>
    let n := s.plf.phi.1 * 4 + (s.plf.phi.1 - s.plf.phi.2) * ((1 + i) * planBus s : Nat) - 4 * f.ph0.toInt
    a64.vadd (a64.ofList f.origin) (a64.scale (dMul f.mpc (dOfScaled n (-18))) (a64.ofList f.dir))

/-- The predicted line velocity, m/s, in the cell frame; 0 where the frame is frozen (R251, R252). -/
def lineVelocity (s : State) (f : LineFrame) : V3 F64 :=
  match f.frozen with
  | some _ => a64.v0
  | none =>
    let rate := dDiv (dOfScaled (s.plf.phi.1 - s.plf.phi.2) (-16)) (segSeconds (busNs s) 4)
    a64.scale (dMul f.mpc rate) (a64.ofList f.dir)

/-- Whether the path ends at a stop point: the first taken record that is neither inline nor placed on it (R205). -/
def stopAhead (g : ArmRing) : Bool := ((g.taken.filter fun r => !r.isInline).find? fun r => !g.onPath.contains r.idx).any (·.isStop)

/-- A path that is one pose of the line frame. -/
def restPath (p : V3 F64) (q : Q4 F64) (t : F64) (g : ArmRing) : ArmRing :=
  { g with path := [⟨.line p a64.v0 q a64.v0, true, dOfInt 1, dOfInt 1, 0, 0, 0, true, none, []⟩], pathT := t, lastRef := some (.pose p q) }

/-- An arm that tracks the line and reaches a stop point at rest in the cell frame rests in the line frame from then on: its path becomes
the pose there (R205, R219). [DESIGN CHOICE, log 107] -/
def restInLine (a : Arm) (s : State) : State :=
  let g := s.ring[a]
  match g.tracking, g.path.getLast? with
  | some f, some e =>
    if g.release || f.frozen.isSome || e.line || !g.onPath.isEmpty || !stopAhead g then s
    else
      let y := asPose s a (curveAt e.geom false e.ub 0).ref
      modRing a (restPath (a64.vsub y.1 (originAhead s f 0)) y.2 (progressAtStage0 s a)) s
  | some f, none =>
    if g.release || f.frozen.isSome || !stopAhead g then s
    else
      let y := asPose s a (g.lastRef.getD (.joints (commandedJoints s a)))
      modRing a (restPath (a64.vsub y.1 (originAhead s f 0)) y.2 (progressAtStage0 s a)) s
  | none, _ => s

/-- RELEASE_LINE acts at rest in the line frame (R219): the path becomes a straight line along the belt's motion that ends at rest at
deceleration `ALIN`; the record is reported at that rest. [DESIGN CHOICE, log 107] -/
def beginRelease (a : Arm) (s : State) : State :=
  match nextStop s a, (s.ring[a]).tracking with
  | some r, some f =>
    if r.code = 0x31 ∧ (s.ring[a]).release = false ∧ ringRuns s a = true ∧ restsAt s a = true then
      let x := progressAtStage0 s a
      let line := ((s.ring[a]).path.getLast?.map (·.line)).getD false
      let now := match (s.ring[a]).lastRef with
        | some y => asPose s a y
        | none => asPose s a (.joints (commandedJoints s a))
      let v := lineVelocity s f
      let n := a64.norm v
      let dec := dOfF (r.f32 8)
      let l := dDiv (dMul n n) (a64.two dec)
      let p := reframe (originAt (some f) (linePhase s)) line false now.1
      let d := if dEq n 0 then a64.v0 else a64.scale (dDiv l n) v
      let e : PathEl := ⟨.line p d now.2 a64.v0, false, 0, dOfInt 1, l, n, dec, true, none,
        if dEq n 0 then [] else [⟨dDiv n dec, 0, dDiv n l, dNeg (dDiv dec l)⟩]⟩
      modRing a (fun g => { g with tracking := none, release := true, path := [e], pathT := x, lastRef := none }) s
    else s
  | some r, none => if r.code = 0x31 then modRing a (fun g => { g with release := true }) s else s
  | none, _ => s

/-- After take-in inline records act, the path is brought up to date, and vias without a successor get a committed stop (R211, R213). -/
def samplePath (a : Arm) (s : State) : State :=
  let s := afterCompletion a s
  starve a (restInLine a (extendPath a (progressAtStage0 s a) (beginRelease a s)))

/-- Take-in at a plan-cycle start (R202). -/
def takeIn (a : Arm) (s : State) : State := samplePath a (takeVisible (busNs s) a 8 s)

/-- Whether a plan cycle starts at the running bus cycle (R232). -/
def planStarts (s : State) : Bool := s.clk.started && s.clk.tag.toNat % max 1 (planBus s) == 0

/-- Whether the present instant is the sync instant that starts a plan cycle (R202). -/
def atPlanStart (s : State) : Bool := planStarts s && nsOf s == syncNs s

/-- The 128 bytes of a record (R204). -/
def recordBytes (op : Byte) (x : RecArgs) : List Byte :=
  leBytes 4 x.seq.toNat ++ [op, x.flags, x.frame, x.res7] ++ (List.range 120).map fun i => x.body.getD i 0

/-- The host's record stands at `WR_IDX` and becomes visible (R200, R201). -/
def hostRecord (a : Arm) (op : Byte) (x : RecArgs) (s : State) : State :=
  let i := wrIdx s a
  setReg .arm a Reg.ARM_WR_IDX (BitVec.ofNat 32 ((i + 1) % 1024)) (setBytes (ringAddr a i) (recordBytes op x) s)

/-- A record command: the host makes the record visible; the path sampler takes it at the sync instant that starts a plan cycle, this one
or a later one (R200 to R202). A full ring takes none. -/
def recordCommand (a : Arm) (op : Byte) (x : RecArgs) (s : State) : State :=
  if unconsumed s a < 1023 then
    let s := hostRecord a op x s
    if atPlanStart s then takeIn a s else s
  else s

-- Waits (R212, R214)

/-- The wait in progress with the cell time of its start. -/
def waitOf (s : State) (a : Arm) : Option (RingRec × Nat × BitVec 16) :=
  match (s.ring[a]).wait, nextStop s a with
  | some (t, q), some r => some (r, t, q)
  | _, _ => none

/-- WAIT_TIME_END (R212). -/
def waitTimeEnd (a : Arm) (s : State) : State :=
  match waitOf s a with
  | some (r, t, _) =>
    let limit := if r.fl % 2 = 1 then r.n 8 8 else t + r.n 8 8
    if r.code = 0x10 ∧ limit ≤ nsOf s then completeRecord a r s else s
  | none => s

/-- WAIT_PHASE_END (R98, R212): at an evaluation, which `EN` = 0 and an invalid phase hold back (R99). -/
def waitPhaseEnd (a : Arm) (s : State) : State :=
  match waitOf s a with
  | some (r, _, _) =>
    if r.code = 0x11 ∧ r.i64 8 ≤ linePhase s ∧ s.line.rev = false ∧ s.line.valid ∧ lineEn s then completeRecord a r s else s
  | none => s

/-- The agreed state of a safety input (R407, R408): both channels on at the reference hub, and not faulted. -/
def inputOn (s : State) (i : Nat) : Bool :=
  (s.saf.chanA[s.clk.refHub]).getLsbD i && (s.saf.chanB[s.clk.refHub]).getLsbD i && !s.saf.inFault.getLsbD i

/-- WAIT_INPUT_END (R212): at a sync instant by the levels of its input bundle, or by an index latch since the wait began. -/
def waitInputEnd (a : Arm) (s : State) : State :=
  match waitOf s a with
  | some (r, _, q) =>
    let i := r.n 9 1 % 16
    let level := r.n 10 1 == 1
    let met := if r.n 8 1 = 0 then s.saf.inSync.getLsbD i == level
      else if r.n 8 1 = 1 then (s.enc[fin16 i]).latchSeq != q
      else flag s .arm a Reg.ARM_HFLAG i == level
    if r.code = 0x12 ∧ met then completeRecord a r s else s
  | none => s

/-- WAIT_TIMEOUT (R214, R221). -/
def waitTimeout (a : Arm) (s : State) : State :=
  match waitOf s a with
  | some (r, t, _) =>
    let lim := r.n 16 8
    if (r.code = 0x11 ∨ r.code = 0x12 ∨ r.isRdv) ∧ lim ≠ 0 ∧ t + lim ≤ nsOf s then
      let s := report a r .timeout 0 0 (count .arm a 3 (modRing a (fun g => { g with wait := none, rdv := false }) s))
      if !r.isRdv && r.fl % 2 = 1 then afterCompletion a s else haltRing 2 a s
    else s
  | none => s

/-- The pose of an arm's TCP relative to another's, at the commanded joints (R222). -/
def relativePose (s : State) (leader a : Arm) : Transform F64 :=
  let l := asPose s leader (.joints (commandedJoints s leader))
  let f := asPose s a (.joints (commandedJoints s a))
  ⟨a64.mulTV (a64.qmat l.2) (a64.vsub f.1 l.1), a64.qmul (a64.qconj l.2) f.2⟩

/-- The coupling after a completed rendezvous: begun by `MODE` 1, ended by `MODE` 2 with the same `RID` (R222). -/
def newCoupling (s : State) (b : Arm) (r : RingRec) (mask : BitVec 12) (old : Option Coupling) : Option Coupling :=
  let same := match old with
    | some c => c.rid.toNat == r.n 8 2
    | none => false
  if r.fl % 4 = 1 then
    let leader := allArms.find? fun (x : Arm) => mask.getLsbD x.val
    some ⟨BitVec.ofNat 16 (r.n 8 2), mask, match leader with
      | some l => if l = b then none else some (relativePose s l b)
      | none => none⟩
  else if r.fl % 4 = 2 && same then none
  else old

/-- RENDEZVOUS_COMPLETION (R221, R222): every arm of the mask completes and reports before any goes on. -/
def rdvCompletion (a : Arm) (s : State) : State :=
  match waitingRdv s a with
  | some r =>
    let mask := BitVec.ofNat 12 (r.n 10 2)
    let arms := allArms.filter fun (b : Arm) => mask.getLsbD b.val
    let all := arms.all fun b => match waitingRdv s b with
      | some q => sameRdv r q
      | none => false
    if all then
      forEach arms afterCompletion (forEach arms (fun b s =>
        match waitingRdv s b with
        | some q => finishRecord b q (modRing b (fun g => { g with coupled := newCoupling s b r mask g.coupled }) s)
        | none => s) s)
    else s
  | none => s

-- Ring commands (R201, R225, R567)

/-- A staged write of `WR_IDX` (R201). -/
def writeWrIdx (a : Arm) (v : Word) (s : State) : State :=
  let w := field v 9 0
  if (w + 1024 - rdIdx s a) % 1024 < unconsumed s a then recordErr .arm a 0x0004 s
  else chg .arm a (setReg .arm a Reg.ARM_WR_IDX (BitVec.ofNat 32 w) s)

/-- A staged write of `RPT_RD` (R228). -/
def writeRptRd (a : Arm) (v : Word) (s : State) : State :=
  let w := field v 10 0
  if unread s a < (rptWr s a + 2048 - w) % 2048 then recordErr .arm a 0x0004 s
  else chg .arm a (setReg .arm a Reg.ARM_RPT_RD (BitVec.ofNat 32 w) s)

/-- Discard every unconsumed record with one `FLUSHED` report (R225). -/
def flushRing (a : Arm) (s : State) : State :=
  let n := unconsumed s a
  let last := (wrIdx s a + 1023) % 1024
  let seq := if n = 0 then 0 else (readRecord s a last).seq
  writeReport a seq 0 .flushed 0 (if n = 0 then 0 else last) n (setReg .arm a Reg.ARM_RD_IDX (BitVec.ofNat 32 (wrIdx s a)) s)

/-- `CMD.FLUSH` on a halted ring (R225). -/
def cmdFlush (a : Arm) (s : State) : State := if (s.ring[a]).halt ≠ 0 then flushRing a s else s

/-- `CMD.RESUME` (R220, R225). -/
def cmdResume (a : Arm) (s : State) : State :=
  let g := s.ring[a]
  if g.halt = 0 then recordErr .arm a 0x0101 s
  else if g.halt = 5 ∧ s.line.valid = false then recordErr .arm a 0x0102 s
  else modRing a (fun g => { g with halt := 0, tracking := g.tracking.map fun f => { f with frozen := none } }) s

/-- `CMD.ABORT` (R223): the ring halts with `ABORT`. -/
def cmdAbort (a : Arm) (s : State) : State := haltRing 4 a s

/-- A write of `CMD`: `ABORT` prevails, `FLUSH` acts before `RESUME` (R225). -/
def writeArmCmd (a : Arm) (v : Word) (s : State) : State :=
  if bit v 2 then cmdAbort a s
  else
    let s := if bit v 1 then cmdFlush a s else s
    if bit v 0 then cmdResume a s else s

/-- A write of 1 to `CTRL.SRST` of an arm page (R567): first as `ABORT`. -/
def armReset (a : Arm) (s : State) : State :=
  modRing a (fun g => { g with srst := true }) (setFlag .arm a Reg.CTRL 1 true (cmdAbort a s))

/-- ARM_SRST_COMPLETION (R567): at rest with every taken record reported, the page is reset; `SRST` reads 1 until flow 5 has written the
`FLUSHED` report. [DEDUCED, log 96] -/
def armResetDone (a : Arm) (s : State) : State :=
  if (s.ring[a]).srst && (s.ring[a]).halt != 0 && restsAt s a && (s.ring[a]).taken.isEmpty then
    let s := flushRing a (settleBad a s)
    let s := setFlag .arm a Reg.CTRL 1 true (resetRegs .arm a [Reg.ARM_WR_IDX, Reg.ARM_RD_IDX, Reg.ARM_RPT_WR, Reg.ARM_RPT_RD] s)
    modRing a (fun g => { g with
      halt := 0, bad := none, ovr := 0x3F800000, starved := false, stopAt := none, wait := none, rdv := false }) s
  else s

/-- `STAT` (R230). -/
def armStat (s : State) (a : Arm) : Word :=
  let g := s.ring[a]
  let idle := (s.play[a]).rest && unreported s a == 0 && g.bad.isNone && (unconsumed s a == 0 || g.halt != 0)
  BitVec.ofNat 32 ((unreported s a + b2n g.bad.isSome) * 2 ^ 16 + g.halt * 2 ^ 8 + b2n g.rdv * 2 ^ 6 + b2n (g.wait.isSome && !g.rdv) * 2 ^ 5 +
    b2n g.coupled.isSome * 2 ^ 4 + b2n g.tracking.isSome * 2 ^ 3 + b2n g.starved * 2 ^ 2 + b2n (g.halt != 0) * 2 + b2n idle)

/-- `CUR_SEQ` (R230). -/
def armCurSeq (s : State) (a : Arm) : Word :=
  match inProgress s a with
  | some r => r.seq
  | none => 0

/-- The hubs apply a timed output action (R215), and it is reported. -/
def applyOutput (a : Arm) (r : RingRec) (s : State) : State :=
  let i := r.n 21 1
  let n : Sixteen := ⟨i % 16, Nat.mod_lt _ (by decide)⟩
  let g : Prg := ⟨i % 32, Nat.mod_lt _ (by decide)⟩
  let s := if r.n 20 1 = 1 then otherPulse n s
    else if r.n 20 1 = 2 then requestGo g (.output (BitVec.ofNat 64 (r.n 24 8))) s
    else if r.n 20 1 = 3 then setDriver n (r.n 24 1 % 2 == 1) s
    else s
  afterCompletion a (report a r .done 0 0 s)

/-- LINE_FRAME_FREEZE (R220): the line frame of every tracking arm freezes at the frozen phase; `halt` unless `EN` was cleared.
[DEDUCED, log 21] -/
def freezeLine (halt : Bool) (s : State) : State :=
  forEach allArms (fun a s =>
    match (s.ring[a]).tracking with
    | some f =>
      let s := modRing a (fun g => { g with tracking := some { f with frozen := some (f.frozen.getD s.line.last) } }) s
      if halt && (s.ring[a]).halt != 5 then haltRing 5 a s else s
    | none => s) s

/-- MOVE_J: the host makes this record visible to the path sampler (R200, R202, R205). [DEDUCED, log 2] -/
def execMoveJ (a : Arm) (r : RecArgs) (s : State) : Host.Outcome State Fault Refusal :=
  run (recordCommand a 0x01 r) s
/-- MOVE_L: the host makes this record visible to the path sampler (R200, R202, R205). -/
def execMoveL (a : Arm) (r : RecArgs) (s : State) : Host.Outcome State Fault Refusal :=
  run (recordCommand a 0x02 r) s
/-- MOVE_C: the host makes this record visible to the path sampler (R200, R202, R205). -/
def execMoveC (a : Arm) (r : RecArgs) (s : State) : Host.Outcome State Fault Refusal :=
  run (recordCommand a 0x03 r) s
/-- VIA: the host makes this record visible to the path sampler (R200, R202, R205). -/
def execVia (a : Arm) (r : RecArgs) (s : State) : Host.Outcome State Fault Refusal :=
  run (recordCommand a 0x04 r) s
/-- WAIT_TIME: the host makes this record visible to the path sampler (R200, R202, R205). -/
def execWaitTime (a : Arm) (r : RecArgs) (s : State) : Host.Outcome State Fault Refusal :=
  run (recordCommand a 0x10 r) s
/-- WAIT_PHASE: the host makes this record visible to the path sampler (R200, R202, R205). -/
def execWaitPhase (a : Arm) (r : RecArgs) (s : State) : Host.Outcome State Fault Refusal :=
  run (recordCommand a 0x11 r) s
/-- WAIT_INPUT: the host makes this record visible to the path sampler (R200, R202, R205). -/
def execWaitInput (a : Arm) (r : RecArgs) (s : State) : Host.Outcome State Fault Refusal :=
  run (recordCommand a 0x12 r) s
/-- SET_OUTPUT: the host makes this record visible to the path sampler (R200, R202, R205). -/
def execSetOutput (a : Arm) (r : RecArgs) (s : State) : Host.Outcome State Fault Refusal :=
  run (recordCommand a 0x20 r) s
/-- TRACK_LINE: the host makes this record visible to the path sampler (R200, R202, R205). -/
def execTrackLine (a : Arm) (r : RecArgs) (s : State) : Host.Outcome State Fault Refusal :=
  run (recordCommand a 0x30 r) s
/-- RELEASE_LINE: the host makes this record visible to the path sampler (R200, R202, R205). -/
def execReleaseLine (a : Arm) (r : RecArgs) (s : State) : Host.Outcome State Fault Refusal :=
  run (recordCommand a 0x31 r) s
/-- SPEED: the host makes this record visible to the path sampler (R200, R202, R205). -/
def execSpeed (a : Arm) (r : RecArgs) (s : State) : Host.Outcome State Fault Refusal :=
  run (recordCommand a 0x40 r) s
/-- TOOL: the host makes this record visible to the path sampler (R200, R202, R205). -/
def execTool (a : Arm) (r : RecArgs) (s : State) : Host.Outcome State Fault Refusal :=
  run (recordCommand a 0x41 r) s
/-- RENDEZVOUS: the host makes this record visible to the path sampler (R200, R202, R205). -/
def execRendezvous (a : Arm) (r : RecArgs) (s : State) : Host.Outcome State Fault Refusal :=
  run (recordCommand a 0x50 r) s
/-- SEGMENT: the host makes this record visible to the path sampler (R200, R202, R205). -/
def execSegment (a : Arm) (r : RecArgs) (s : State) : Host.Outcome State Fault Refusal :=
  run (recordCommand a 0x60 r) s
/-- END: the host makes this record visible to the path sampler (R200, R202, R205). -/
def execEndRec (a : Arm) (r : RecArgs) (s : State) : Host.Outcome State Fault Refusal :=
  run (recordCommand a 0x7f r) s
/-- RECORD_COMPLETION. -/
def execRecordCompletion (a : Arm) (s : State) : Host.Outcome State Fault Refusal := run (recordCompletion a) s
/-- WAIT_TIME_END. -/
def execWaitTimeEnd (a : Arm) (s : State) : Host.Outcome State Fault Refusal := run (waitTimeEnd a) s
/-- WAIT_PHASE_END. -/
def execWaitPhaseEnd (a : Arm) (s : State) : Host.Outcome State Fault Refusal := run (waitPhaseEnd a) s
/-- WAIT_INPUT_END. -/
def execWaitInputEnd (a : Arm) (s : State) : Host.Outcome State Fault Refusal := run (waitInputEnd a) s
/-- WAIT_TIMEOUT. -/
def execWaitTimeout (a : Arm) (s : State) : Host.Outcome State Fault Refusal := run (waitTimeout a) s
/-- RENDEZVOUS_COMPLETION. -/
def execRendezvousCompletion (a : Arm) (s : State) : Host.Outcome State Fault Refusal := run (rdvCompletion a) s
/-- FLUSH. -/
def execFlush (a : Arm) (s : State) : Host.Outcome State Fault Refusal := run (staged .arm a (writeArmCmd a 2)) s
/-- RESUME. -/
def execResume (a : Arm) (s : State) : Host.Outcome State Fault Refusal := run (staged .arm a (writeArmCmd a 1)) s
/-- ABORT. -/
def execAbort (a : Arm) (s : State) : Host.Outcome State Fault Refusal := run (staged .arm a (writeArmCmd a 4)) s
/-- ARM_SRST. -/
def execArmSrst (a : Arm) (s : State) : Host.Outcome State Fault Refusal := run (staged .arm a (armReset a)) s
/-- ARM_SRST_COMPLETION. -/
def execArmSrstCompletion (a : Arm) (s : State) : Host.Outcome State Fault Refusal := run (armResetDone a) s
/-- WR_IDX. -/
def execWrIdx (a : Arm) (v : Word) (s : State) : Host.Outcome State Fault Refusal := run (writeWrIdx a v) s
/-- RPT_RD. -/
def execRptRd (a : Arm) (v : Word) (s : State) : Host.Outcome State Fault Refusal := run (writeRptRd a v) s

end Sys2Proof.Machine
end

