-- ==== Sys2Proof/Machine/TimeScale.lean ====
section
/-! DEFINITION. The time-scale profiles of holds, time-scale stops and SS1 (R297 to R304, R568), in binary64. -/

namespace Sys2Proof.Machine

/-- Change what an arm plays. -/
def modPlay (a : Arm) (f : ArmPlay → ArmPlay) (s : State) : State := { s with play := vmod s.play a f }

/-- The plan time that a phase plays: the integral of α (R300). -/
def phaseUse (p : Phase) : F64 :=
  dMul p.dur (dAdd p.a (dMul p.dur (dAdd (dDiv p.v (dOfInt 2)) (dMul p.dur (dDiv p.acc (dOfInt 6))))))

/-- The plan time that a profile plays. -/
def profileUse (ps : List Phase) : F64 := ps.foldl (fun x p => dAdd x (phaseUse p)) 0

/-- α and α̇ of a profile at time `t`; 0 and 0 after its end. -/
def profileAt : List Phase → F64 → F64 × F64
  | [], _ => (0, 0)
  | p :: r, t => if dLt t p.dur then phaseAt p t else profileAt r (dSub t p.dur)

/-- The phases from α₀ and α̇₀ at rate `r` and jerk `j` (R298, R300, R568). -/
def profilePhases (a0 v0 r j : F64) : List Phase :=
  let sq := dMul v0 v0
  let lim := dMul (dMul (dOfInt 2) j) a0
  if dLt v0 0 && dLe lim sq then
    -- R568, and at equality the return alone
    [⟨dDiv (dMul (dOfInt 2) a0) (dAbs v0), a0, v0, if dEq lim sq then j else dDiv sq (dMul (dOfInt 2) a0)⟩]
  else
    let down := dLe (dNeg r) v0
    let t1 := dDiv (dAbs (dAdd r v0)) j
    let acc1 := if down then dNeg j else j
    let a1 := (phaseAt ⟨t1, a0, v0, acc1⟩ t1).1
    let back := dDiv (dMul r r) (dMul (dOfInt 2) j)
    if down && dLt a1 back then
      let w := dSqrt (dAdd (dMul j a0) (dDiv sq (dOfInt 2)))
      chainPhases a0 v0 [(dDiv (dAdd w v0) j, dNeg j), (dDiv w j, j)]
    else chainPhases a0 v0 [(t1, acc1), (dDiv (dSub a1 back) r, 0), (dDiv r j, j)]

/-- 64 steps of golden-section search for the rate of least consumption (R300). [DEDUCED, log 94] -/
def goldenSearch (c : F64 → F64) : Nat → F64 → F64 → F64
  | 0, lo, hi => dDiv (dAdd lo hi) (dOfInt 2)
  | k + 1, lo, hi =>
    let g := dDiv (dSub (dSqrt (dOfInt 5)) (dOfInt 1)) (dOfInt 2)
    let d := dMul g (dSub hi lo)
    if dLe (c (dSub hi d)) (c (dAdd lo d)) then goldenSearch c k lo (dAdd lo d) else goldenSearch c k (dSub hi d) hi

/-- 64 steps of bisection between a rate that consumes too much and one that fits; the fitting end is used (R300). -/
def bisectRate (c : F64 → F64) (tail : F64) : Nat → F64 → F64 → F64
  | 0, _, ok => ok
  | k + 1, bad, ok =>
    let m := dDiv (dAdd bad ok) (dOfInt 2)
    if dLe (c m) tail then bisectRate c tail k bad m else bisectRate c tail k m ok

/-- The profile of a fall from α₀ and α̇₀ on a tail of `tail` seconds, and whether the tail is short (R298, R300, R568). -/
def fallProfile (a0 v0 req j tail : F64) : List Phase × Bool :=
  let root := dSub (dMul tail tail) (dDiv (dMul (dMul a0 a0) a0) j)
  if dLe a0 0 then ([], false)
  else if dEq v0 0 && dLe 0 root then
    let lo := dDiv (dMul j (dSub tail (dSqrt root))) a0
    let hi := dDiv (dMul j (dAdd tail (dSqrt root))) a0
    (profilePhases a0 v0 (dMin (dMax req lo) hi) j, false)
  else
    let c := fun r => profileUse (profilePhases a0 v0 r j)
    if dLt v0 0 && dLt (dMul (dMul (dOfInt 2) j) a0) (dMul v0 v0) then
      (profilePhases a0 v0 req j, dLt tail (c req))
    else if dLe (c req) tail then (profilePhases a0 v0 req j, false)
    else
      let r := goldenSearch c 64 (dOfScaled 1 (-20)) (dOfInt 16384)
      if dLe (c r) tail then (profilePhases a0 v0 (bisectRate c tail 64 req r) j, false)
      else (profilePhases a0 v0 r j, true)

/-- α and α̇ that an arm plays, `dt` seconds after the present sync instant (R298, R227). -/
def alphaAt (p : ArmPlay) (dt : F64) : F64 × F64 :=
  match p.profile with
  | none => (dOfInt 1, 0)
  | some q =>
    let x := profileAt q.phases (dAdd q.t dt)
    if q.rising then (dSub (dOfInt 1) x.1, dNeg x.2) else x

/-- Seconds of a number of bus cycles. -/
def busSeconds (s : State) (n : Nat) : F64 := segSeconds (busNs s) n

/-- The plan time that remains in an arm's segments, in seconds. -/
def tailSeconds (s : State) (a : Arm) : F64 :=
  match (s.play[a]).segs with
  | [] => 0
  | g :: r =>
    let part := dMul (busSeconds s g.dur) (dSub (dOfInt 1) (dOfScaled (s.play[a]).tau (-32)))
    r.foldl (fun x g => dAdd x (busSeconds s g.dur)) part

/-- `PLF.TS_JERK` and `PLF.STOP_RATE` in binary64. -/
def tsJerk (s : State) : F64 := dOfF (reg s .plf 0 Reg.PLF_TS_JERK)
def stopRate (s : State) : F64 := dOfF (reg s .plf 0 Reg.PLF_STOP_RATE)

/-- IRQ_STAT bit `TAILSHORT` of the PLF page. -/
def plfTailShort : Nat := 15

/-- A fall of α begins for an arm, at requested rate `req` (R297, R300, R304, R401). -/
def startFall (req : F64) (a : Arm) (s : State) : State :=
  let now := alphaAt (s.play[a]) 0
  let f := fallProfile now.1 now.2 req (tsJerk s) (tailSeconds s a)
  irqIf f.2 .plf 0 plfTailShort (modPlay a (fun p => { p with profile := some ⟨f.1, 0, false⟩, ended := false }) s)

/-- α returns to 1 for a direct-segment arm whose hold ends (R227). -/
def startRise (a : Arm) (s : State) : State :=
  let now := alphaAt (s.play[a]) 0
  let ps := profilePhases (dSub (dOfInt 1) now.1) (dNeg now.2) (stopRate s) (tsJerk s)
  modPlay a (fun p => { p with profile := some ⟨ps, 0, true⟩ }) s

/-- A bus cycle passes for an arm's profile; one that has returned α to 1 ends. -/
def tickProfile (a : Arm) (s : State) : State :=
  modPlay a (fun p => { p with profile := match p.profile with
    | some q =>
      let t := dAdd q.t (busSeconds s 1)
      if q.rising && (profileAt q.phases t).1 == 0 && (profileAt q.phases t).2 == 0 then none else some { q with t := t }
    | none => none }) s

/-- α at an instant as the servo takes it: truncated to Q1.31 (R330). -/
def alphaQ31 (x : F64) : Nat := min (2 ^ 31) (dFloor 31 x).toNat

end Sys2Proof.Machine
end

