-- ==== Sys2Proof/Machine/Servo.lean ====
section
/-! DEFINITION. The servo datapath of a bus cycle: unpacking, position loops, notches, observer, plan time, interpolation,
feedforward and packing; parameters, host torques and kernel banks (R324 to R344). -/

namespace Sys2Proof.Machine

/-- The binding `JCFG` of a joint (R340). -/
def jcfg (s : State) (j : Nat) : Word :=
  match kernelBank s with
  | some b => b.jcfg.getD j 0
  | none => 0

/-- `JCFG.EN` (R344). -/
def jointBound (s : State) (j : Nat) : Bool := bit (jcfg s j) 0

/-- The joints in ascending order. -/
def allJoints : List (Fin 96) := (List.range 96).map jointNo

/-- The arm of a joint, and its number on the arm. -/
def jointArm (j : Fin 96) : Arm := ⟨j.val / 8, by omega⟩
def armJoint (a : Arm) (k : Nat) : Fin 96 := jointNo (a.val * 8 + k % 8)

/-- The joints of an arm that the active bank binds. -/
def armBound (s : State) (a : Arm) : List (Fin 96) := ((List.range 8).map (armJoint a)).filter fun j => jointBound s j

-- Numbers

/-- Saturate to a signed 32-bit value (R314). -/
def satI (x : Int) : Int := max (-(2 ^ 31)) (min (2 ^ 31 - 1) x)

/-- rad/s in LSB 2⁻¹⁶ turn/s before saturation: one turn is 2π rad. [DESIGN CHOICE, log 89] -/
def velWide (v : F32) : Int := fFloor 40 v * 733972625820500306 / 2 ^ 86

/-- rad/s as LSB 2⁻¹⁶ turn/s, truncated toward minus infinity (R313, R326): one turn is 2π rad. [DESIGN CHOICE, log 89] -/
def velOfRad (v : F32) : Int := satI (velWide v)

/-- LSB 2⁻¹⁶ turn/s as binary32 rad/s, truncated toward minus infinity. -/
def radOfVel (v : Int) : F32 := cvtfValue (v * 6908435304715) (-56)

/-- A torque as LSB 2⁻¹⁶ N·m, and back (R326, R327). -/
def trqOfF (v : F32) : Int := (cvtiValue v 16).1.toInt
/-- Whether `CVTI` sets `V` on such a value, whether a stored value saturates (R314). -/
def trqOver (v : F32) : Bool := (cvtiValue v 16).2
def overflows (x : Int) : Bool := satI x != x
def velOver (v : F32) : Bool := overflows (velWide v) || (cvtiValue v 0).2

/-- A library kernel of a joint ends, with `V` or without (R314). -/
def ended (v : Bool) (x : Joint) : Joint := { x with vEnds := x.vEnds + b2n v }
def fOfTrq (v : Int) : F32 := cvtfValue v (-16)

-- Parameters (R337, R338)

/-- A word of a joint's parameter block. -/
def param (j : Joint) (i : Nat) : Word := Sparse.get 0 i j.par
def paramI (j : Joint) (i : Nat) : Int := (param j i).toInt

/-- The shadow of a parameter word: the block's where it has not been written. -/
def shadowWord (j : Joint) (i : Nat) : Word :=
  match j.shadow.find? fun x => x.1 == i with
  | some x => x.2
  | none => param j i

/-- PDATA (R338): a write sets the shadow that `PSEL` names, and `INDEX` advances. -/
def writePdata (v : Word) (s : State) : State :=
  let j := jointNo (fld s .sdp 0 Reg.SDP_PSEL 14 8)
  let i := fld s .sdp 0 Reg.SDP_PSEL 5 0
  let s := modJoint j (fun x => { x with shadow := (i, v) :: x.shadow.filter fun y => y.1 != i }) s
  chg .sdp 0 (setFld .sdp 0 Reg.SDP_PSEL 5 0 (i + 1) s)

/-- A read of `PDATA`: the value in force (R344). -/
def readPdata (s : State) : Word := param s.sdp.joint[jointNo (fld s .sdp 0 Reg.SDP_PSEL 14 8)] (fld s .sdp 0 Reg.SDP_PSEL 5 0)

/-- Copy the shadow of a joint into its block (R338). -/
def commitJoint (j : Fin 96) (s : State) : State :=
  modJoint j (fun x => { x with par := x.shadow.foldl (fun p y => Sparse.put 0 y.1 y.2 p) x.par }) s

/-- PCOMMIT (R338). -/
def writePcommit (v : Word) (s : State) : State :=
  let n := field v 6 0
  if bit v 7 then count .sdp 0 5 (forEach allJoints commitJoint s)
  else if n < 96 then count .sdp 0 5 (commitJoint (jointNo n) s)
  else recordErr .sdp 0 0x0004 s

-- Phase A (R327, R335, R336)

/-- Unpack a joint's feedback record into its block (R326 to R328). -/
def unpackJoint (present : Bool) (x : Joint) : Joint :=
  if present && bit x.rxBits 0 then
    ended (velOver x.rxVel || trqOver x.rxTrq)
      { x with posMeas := x.rxPos, velMeas := velOfRad x.rxVel, trqMeas := trqOfF x.rxTrq, fbValid := true, fbAbsent := false }
  else { x with fbValid := false, fbAbsent := !present }

/-- The position error, signed 32 bits (R335). -/
def posError (x : Joint) : Int := (BitVec.ofInt 32 (x.posNow - x.posMeas)).toInt

/-- `PID` (R335). [DESIGN CHOICE, log 89] -/
def runPid (x : Joint) : Joint :=
  let e := posError x
  let w := x.integ + paramI x 1 * e / 2 ^ 12
  let i := clampI (paramI x 4) (satI w)
  let u := (paramI x 0 * e + i * 2 ^ 12 + paramI x 2 * (e - x.ePrev)) / 2 ^ 12
  ended (overflows w || overflows u) { x with integ := i, ePrev := e, u := clampI (paramI x 5) (satI u) }

/-- `PIV` (R335). [DESIGN CHOICE, log 89] -/
def runPiv (x : Joint) : Joint :=
  let ew := paramI x 0 * posError x / 2 ^ 20 + x.velNow - x.velMeas
  let ev := satI ew
  let w := x.integ + paramI x 1 * ev / 2 ^ 12
  let i := clampI (paramI x 4) (satI w)
  let u := paramI x 3 * ev / 2 ^ 12 + i
  ended (overflows ew || overflows w || overflows u) { x with integ := i, u := clampI (paramI x 5) (satI u) }

/-- One notch on `U` (R336). [DESIGN CHOICE, log 89] -/
def runNotch (x : Joint) (i : Fin 4) : Joint :=
  let z := x.notch[i]
  let p := fun k => paramI x (8 + 5 * i.val + k)
  let w := (p 0 * x.u + p 1 * z[(0 : Fin 4)] + p 2 * z[(1 : Fin 4)] - p 3 * z[(2 : Fin 4)] - p 4 * z[(3 : Fin 4)]) / 2 ^ 29
  ended (overflows w) { x with
    notch := vset x.notch i (vset (vset (vset (vset z 1 z[(0 : Fin 4)]) 0 x.u) 3 z[(2 : Fin 4)]) 2 (satI w))
    u := satI w }

/-- The disturbance observer (R336). [DESIGN CHOICE, log 89] -/
def runObserver (x : Joint) : Joint :=
  let ew := paramI x 28 * (x.velMeas - x.velPrev) / 2 ^ 12 - x.trqOut
  let dw := x.dhat + paramI x 29 * (satI ew - x.dhat) / 2 ^ 31
  ended (overflows ew || overflows dw) { x with dhat := clampI (paramI x 30) (satI dw), velPrev := x.velMeas }

/-- The joint block as words (R326); `beta` is the played rate. -/
def jointBlock (x : Joint) (beta : Nat) : List Int :=
  [x.posMeas, x.velMeas, x.trqMeas, (b2n x.fbValid : Nat) + 2 * (b2n x.fbAbsent : Nat), x.posNow, x.posNext, x.velNow, x.velNext,
    x.accNext, x.tff, x.u, x.dhat, x.trqOut, beta]

/-- Put words into a memory from an address on. -/
def putWords (a : Nat) (l : List Int) (m : List (Nat × Word)) : List (Nat × Word) :=
  (l.zipIdx).foldl (fun m x => Sparse.put 0 (a + x.2) (BitVec.ofInt 32 x.1) m) m

/-- Where a joint's blocks lie in the memories of its core: joint block and state blocks in X, parameter block in Y. -/
def blockAt (j : Fin 96) : Nat := 16 * j.val
def stateAt (ff : Bool) (j : Fin 96) : Nat := 2048 + 64 * j.val + if ff then 32 else 0
def paramAt (j : Fin 96) : Nat := 64 * j.val

/-- A fault of a joint's chain: the core's cycle of the phase, the core, the kernel, the joint, the code (R323). -/
structure ChainFault where
  edge : Nat
  core : Nat
  kernel : Nat
  joint : Nat
  code : Nat
  deriving DecidableEq, Repr

/-- A customer kernel runs for a joint on its core (R341). -/
def runCustomer (s : State) (k : Kernel) (b : KernelBank) (c : CoreNo) (j : Fin 96) (ff : Bool) (beta : Nat) :
    MacCtx :=
  let x := s.sdp.joint[j]
  let m := startCore false k.index (kernelBase b k.index) k.code.length j.val s.sdp.core[c]
  let m := { m with
    xMem := putWords (blockAt j) (jointBlock x beta) m.xMem
    yMem := putWords (paramAt j) ((List.range 64).map (paramI x)) m.yMem
    a := vput (vput (vput m.a 0 (BitVec.ofNat 16 (blockAt j))) 1 (BitVec.ofNat 16 (paramAt j))) 2 (BitVec.ofNat 16 (stateAt ff j))
    d := vput m.d 0 (BitVec.ofNat 32 j.val) }
  runKernel k.cycles (k.cycles + 1) ⟨m, [], 0, lo32 (s.clk.tag.setWidth 64), c.val, 0⟩

/-- A joint's core (R340). -/
def jointCore (s : State) (j : Nat) : CoreNo := ⟨field (jcfg s j) 3 1 % 8, Nat.mod_lt _ (by decide)⟩

/-- Cycles of the library kernels per call (R339). -/
def libCycles (k : Nat) : Nat := [28, 40, 52, 22, 36, 96, 48, 24].getD k 0

/-- Add to the cycles used on a core. -/
def useCycles (phaseB : Bool) (c : CoreNo) (n : Nat) (s : State) : State :=
  { s with sdp := if phaseB then { s.sdp with usedB := vmod s.sdp.usedB c (· + n) } else { s.sdp with usedA := vmod s.sdp.usedA c (· + n) } }

/-- A joint takes the words that a kernel has left in its joint block and its parameter block (R326, R337). [DEDUCED, log 91] -/
def putBlock (w : Nat → Int) (p : Nat → Word) (x : Joint) : Joint :=
  { x with
    posMeas := w 0, velMeas := w 1, trqMeas := w 2, fbValid := w 3 % 2 == 1, fbAbsent := w 3 / 2 % 2 == 1, posNow := w 4, posNext := w 5
    velNow := w 6, velNext := w 7, accNext := w 8, tff := w 9, u := w 10, dhat := w 11, trqOut := w 12
    par := (List.range 64).foldl (fun m i => Sparse.put 0 i (p i) m) x.par }

/-- A customer kernel of a joint's chain; a fault discards what it has written (R323). -/
def customerStage (ff : Bool) (idx : Nat) (beta : Nat) (j : Fin 96) (x : State × List ChainFault) : State × List ChainFault :=
  let s := x.1
  match kernelBank s, bankKernel s idx with
  | some b, some k =>
    let c := jointCore s j
    let r := runCustomer s k b c j ff beta
    let start := if ff then s.sdp.usedB[c] else s.sdp.usedA[c]
    let s := useCycles ff c r.core.cycles s
    if r.fault ≠ 0 then (modJoint j (fun x => { x with faulted := true }) s, x.2 ++ [⟨start + r.core.cycles, c.val, idx, j.val, r.fault⟩])
    else
      let s := modCore c (fun k => { k with xMem := r.core.xMem, yMem := r.core.yMem }) s
      let w := fun i => (Sparse.get 0 (blockAt j + i) r.core.xMem).toInt
      (kernelEnded (bit r.core.flg 1) (modJoint j (putBlock w fun i => Sparse.get 0 (paramAt j + i) r.core.yMem) s), x.2)
  | _, _ => x

/-- Phase A of one joint (R327, R328). -/
def phaseAJoint (j : Fin 96) (x : State × List ChainFault) : State × List ChainFault :=
  let s := x.1
  let cfg := jcfg s j.val
  let c := jointCore s j.val
  let s := modJoint j (unpackJoint (s.sdp.fb[jointArm j]).present) (useCycles false c (libCycles 0) s)
  let loop := field cfg 5 4
  let notches := min 4 (field cfg 9 7)
  let fixed := (if loop = 1 then libCycles 1 else if loop = 2 then libCycles 2 else 0)
  let tail := libCycles 3 * notches + if bit cfg 6 then libCycles 4 else 0
  if (s.sdp.joint[j]).fbValid then
    let r := if loop = 3 then customerStage false (field cfg 21 16) (s.play[jointArm j]).beta j (s, x.2)
      else (modJoint j (fun x => if loop = 1 then runPid x else if loop = 2 then runPiv x else { x with u := 0 }) (useCycles false c fixed s), x.2)
    let f := fun (x : Joint) =>
      let x := ((List.range notches).map fun i => (⟨i % 4, Nat.mod_lt _ (by decide)⟩ : Fin 4)).foldl runNotch x
      if bit cfg 6 then runObserver x else { x with dhat := 0 }
    (modJoint j (fun x => if x.faulted then x else f x) (useCycles false c tail r.1), r.2)
  else (count .sdp 0 1 (useCycles false c (fixed + tail) s), x.2)

/-- Whether fault `a` is recorded before fault `b` (R323). -/
def faultBefore (a b : ChainFault) : Bool := decide (a.edge < b.edge) || (a.edge == b.edge && decide (a.core < b.core))

/-- Put a fault among sorted faults. -/
def insertFault (f : ChainFault) : List ChainFault → List ChainFault
  | [] => [f]
  | x :: r => if faultBefore f x then f :: x :: r else x :: insertFault f r

/-- Record the faults of a phase, the earliest edge first. -/
def recordFaults (l : List ChainFault) (s : State) : State :=
  forEach (l.foldl (fun a f => insertFault f a) []) (fun f s => recordKernelFault false f.kernel f.core f.joint f.code s) s

/-- `PHASE_A` and `PHASE_B`: the core with the largest count (R344). -/
def largest (v : Vector Nat 8) : Word :=
  let m := allEight.foldl (fun b c => if v[b] < v[c] then c else b) (0 : Fin 8)
  BitVec.ofNat 32 (m.val * 65536 + min 65535 v[m])

/-- The `k`-th largest count of cycles, 0 where there are not so many cores. -/
def kthLargest (l : List Nat) (k : Nat) : Nat := (l.filter fun x => decide (k < l.countP fun y => decide (x ≤ y))).foldl max 0

/-- The occupancy of the cores in a phase of `n` cycles, by the cycles each has used (R63): more than `CNT_THR_A` busy, more than
`CNT_THR_B` idle. -/
def phaseOccupancy (used : Vector Nat 8) (n : Nat) (s : State) : State :=
  let l := used.toList
  let a := fld s .sdp 0 Reg.CNT_THR_A 23 0
  let b := fld s .sdp 0 Reg.CNT_THR_B 23 0
  let s := countPriv .sdp 14 (kthLargest l a) s
  if b < 8 then countPriv .sdp 15 (n - kthLargest l (7 - b)) s else s

/-- The library kernels of a phase that ended with `V` set are counted (R314, R344). -/
def noteSaturation (s : State) : State :=
  let n := ((s.sdp.joint.map fun x => x.vEnds).toList).foldl (· + ·) 0
  if n = 0 then s
  else countBy .sdp 0 2 n (irq .sdp 0 sdpSat { s with sdp := { s.sdp with joint := s.sdp.joint.map fun x => { x with vEnds := 0 } } })

/-- SERVO_PHASE_A (R325). -/
def servoPhaseA (s : State) : State :=
  if enabled s .sdp 0 then
    let r := (allJoints.filter fun (j : Fin 96) => jointBound s j.val).foldl (fun x j => phaseAJoint j x) (s, [])
    let s := noteSaturation (recordFaults r.2 r.1)
    phaseOccupancy s.sdp.usedA 11000 (setReg .sdp 0 Reg.SDP_PHASE_A (largest s.sdp.usedA) s)
  else s

-- Plan time and interpolation (R329 to R333)

/-- A polynomial in τ by Horner's rule, products truncated to LSB 2⁻⁴⁴ turn (R332); `t` has LSB 2⁻³². [DESIGN CHOICE, log 89] -/
def horner (c : List Int) (t : Nat) : Int := c.foldr (fun k acc => k + acc * (t : Int) / 2 ^ 32) 0

/-- First and second derivatives' coefficients. -/
def derive (c : List Int) : List Int := (c.zipIdx.map fun (x : Int × Nat) => x.1 * (x.2 : Int)).drop 1

/-- Sum of two polynomials of the same length, the second possibly absent. -/
def addPoly (c d : List Int) : List Int := if d.isEmpty then c else List.zipWith (· + ·) c d

/-- Position, q′ and q″ of a joint at an arm's plan time (R332). -/
structure PlanPoint where
  q : Int
  q1 : Int
  q2 : Int
  deriving DecidableEq, Repr

/-- The plan point of joint `k` of a running segment with its splice. -/
def planPoint (p : ArmPlay) (k : Nat) : Option PlanPoint :=
  p.segs.head?.map fun g =>
    let c := addPoly (g.c.getD k [0, 0, 0, 0, 0, 0]) (p.splice.getD k [])
    ⟨horner c p.tau, horner (derive c) p.tau, horner (derive (derive c)) p.tau⟩

/-- Played velocity, LSB 2⁻¹⁶ turn/s: β·q′/h (R332); `h` in ns; unsaturated and saturated. [DESIGN CHOICE, log 89] -/
def velPlay (beta : Nat) (h : Nat) (q1 : Int) : Int := (beta : Int) * q1 * 10 ^ 9 / ((2 ^ 59 * max 1 h : Nat) : Int)
def playedVel (beta : Nat) (h : Nat) (q1 : Int) : Int := satI (velPlay beta h q1)

/-- Played acceleration, LSB 2⁻¹² turn/s²: β²·q″/h² + β̇·q′/h (R332); `bus` in ns. [DESIGN CHOICE, log 89] -/
def accPlay (beta beta1 : Nat) (h bus : Nat) (q1 q2 : Int) : Int :=
  let h := max 1 h
  let bus := max 1 bus
  let num := (beta1 : Int) ^ 2 * q2 * (bus : Nat) + (((beta1 : Int) - beta) * q1 * (h : Nat)) * 2 ^ 31
  num * 10 ^ 18 / ((2 ^ 94 * h * h * bus : Nat) : Int)
def playedAcc (beta beta1 : Nat) (h bus : Nat) (q1 q2 : Int) : Int := satI (accPlay beta beta1 h bus q1 q2)

/-- The plan's own acceleration, LSB 2⁻¹² turn/s² (R334). -/
def planAcc (h : Nat) (q2 : Int) : Int := satI (q2 * 10 ^ 18 / ((2 ^ 32 * max 1 h * max 1 h : Nat) : Int))

/-- Plan time advances by `d`: the segments, τ, whether the step index advanced, and whether the end is reached (R329, R331). -/
def advancePlan (segs : List Seg) (tau d : Nat) : List Seg × Nat × Bool × Bool :=
  let t := tau + d
  if t < 2 ^ 32 then (segs, t, false, false)
  else match segs with
    | _ :: g :: r => (g :: r, t - 2 ^ 32, true, false)
    | l => (l, 2 ^ 32, false, true)

/-- SPEED_SCALE_FILTER (R330): κ moves toward the scale that flow 0 released last (R355, R385); the new κ and whether the limit held it back. -/
def filterScale (s : State) (a : Arm) : Nat × Bool :=
  let k := s.mnt.kOut[a] * 2 ^ 15
  let kappa := (s.play[a]).kappa
  let fall := fld s .sdp 0 Reg.SDP_SCALE 15 0 * 2 ^ 15
  let rise := fld s .sdp 0 Reg.SDP_SCALE 31 16 * 2 ^ 15
  if k < kappa then (max k (kappa - fall), decide (k < kappa - fall)) else (min k (kappa + rise), decide (kappa + rise < k))

/-- The played rate and plan time of an arm for the next sync instant (R330, R331). -/
def advanceArm (a : Arm) (s : State) : State :=
  let p := s.play[a]
  let f := filterScale s a
  let alpha := alphaQ31 (alphaAt p (busSeconds s 1)).1
  let beta1 := alpha * f.1 / 2 ^ 31
  let dur := match p.segs.head? with
    | some g => g.dur
    | none => 1
  let d := (p.beta + beta1) * (2 ^ 32 / max 1 dur) / 2 ^ 32
  let r := if p.segs.isEmpty then (p.segs, p.tau, false, false) else advancePlan p.segs p.tau d
  countIf f.2 .sdp 0 7 (modPlay a (fun p => { p with
    kappa := f.1, betaNext := beta1, segs := r.1, tau := r.2.1, splice := if r.2.2.1 then [] else p.splice,
    ended := p.ended || r.2.2.2 }) s)

/-- Linear interpolation in τ. -/
def lerp (x y : Int) (t : Nat) : Int := x + (y - x) * (t : Int) / 2 ^ 32

/-- The interpolation of one joint (R332): words 5, 7, 8. -/
def interpolate (s : State) (a : Arm) (k : Nat) (x : Joint) : Joint :=
  let p := s.play[a]
  match planPoint p k, p.segs.head? with
  | some w, some g =>
    let h := g.dur * busNs s
    let wide := overflows (velPlay p.betaNext h w.q1) || overflows (velPlay (2 ^ 31) h w.q1) || overflows (accPlay p.beta p.betaNext h (busNs s) w.q1 w.q2)
    ended wide { x with
      posNext := (BitVec.ofInt 32 (w.q / 2 ^ 24)).toInt
      velNext := playedVel p.betaNext h w.q1
      unitVel := playedVel (2 ^ 31) h w.q1
      accNext := playedAcc p.beta p.betaNext h (busNs s) w.q1 w.q2 }
  | _, _ => { x with posNext := x.posNow, velNext := 0, accNext := 0, unitVel := 0 }

/-- The computed feedforward before saturation (R334); without a plan it is the unit's torque at the commanded joints at rest.
[DESIGN CHOICE, log 89; DESIGN CHOICE, log 90] -/
def feedforward (s : State) (a : Arm) (k : Nat) (x : Joint) : Int :=
  let p := s.play[a]
  match planPoint p k, p.segs.head? with
  | some w, some g =>
    let tau := lerp (g.tau0.getD k 0) (g.tau1.getD k 0) p.tau
    let m := lerp (g.m0.getD k 0) (g.m1.getD k 0) p.tau
    tau + m * (x.accNext - planAcc (g.dur * busNs s) w.q2) / 2 ^ 12
  | _, _ => (unitTorque s a (commandedJoints s a) [] []).1.getD k 0

/-- Host torques serve an arm in host-assisted mode, but not under SS1, a time-scale stop or a hold (R343). -/
def hostTorque (s : State) (a : Arm) : Bool :=
  assisted s .sdp 0 && !((s.saf.arm[a]).st == 1 || (s.play[a]).stopping || (s.play[a]).held)

/-- The record that a drive would extrapolate, sent for a joint whose chain faults (R324, R148): `POS` LSB 2⁻²⁰ turn. -/
def extrapolated (s : State) (x : Joint) : Joint :=
  { x with
    posNext := (BitVec.ofInt 32 (x.posNow + velOfRad x.sentVel * 16 * (busNs s : Nat) / 10 ^ 9)).toInt
    velNext := x.velNow, trqOut := trqOfF x.sentTrq }

/-- Sum and pack (R327). [DESIGN CHOICE, log 90] -/
def packJoint (x : Joint) : Joint :=
  let w := x.tff + x.u - x.dhat
  let t := max (paramI x 6) (min (paramI x 7) (satI w))
  ended (overflows w) { x with trqOut := t, sentVel := radOfVel x.velNext, sentTrq := fOfTrq t }

/-- Phase B of one joint (R327, R334, R343, R324). [DESIGN CHOICE, log 90] -/
def phaseBJoint (j : Fin 96) (x : State × List ChainFault) : State × List ChainFault :=
  let s := x.1
  let a := jointArm j
  let k := j.val % 8
  let cfg := jcfg s j.val
  let c := jointCore s j.val
  let s := modJoint j (interpolate s a k) (useCycles true c (libCycles 5) s)
  let r := if bit cfg 10 && !hostTorque s a then
      customerStage true (field cfg 27 22) (s.play[a]).betaNext j (s, x.2)
    else
      let h := Sparse.get 0 j.val s.sdp.haTrq
      let w := feedforward s a k s.sdp.joint[j]
      let t := if hostTorque s a then (trqOfF h, trqOver h) else (satI w, overflows w)
      (modJoint j (fun x => ended t.2 { x with tff := t.1 }) (useCycles true c (libCycles 6) s), x.2)
  let s := useCycles true c (libCycles 7) r.1
  (modJoint j (fun x => if x.faulted then { extrapolated s x with faults := x.faults + 1 } else { packJoint x with faults := 0 }) s, r.2)

/-- The end of phase B: the new setpoints become those in force at the next sync instant (R327). -/
def endPhaseB (j : Fin 96) (s : State) : State := modJoint j (fun x => { x with posNow := x.posNext, velNow := x.velNext }) s

/-- An arm is at rest when no joint's played velocity or acceleration reaches one LSB (R233). [DESIGN CHOICE, log 107] -/
def judgeRest (a : Arm) (s : State) : State :=
  let zero := fun (x : Int) => x == 0 || x == -1
  let still := (armBound s a).all fun j => zero (s.sdp.joint[j]).velNext && zero (s.sdp.joint[j]).accNext
  modPlay a (fun p => { p with rest := still }) s

/-- SERVO_PHASE_B (R325). -/
def servoPhaseB (s : State) : State :=
  if enabled s .sdp 0 then
    let js := allJoints.filter fun (j : Fin 96) => jointBound s j.val
    let s := forEach allArms advanceArm s
    let r := js.foldl (fun x j => phaseBJoint j x) (s, [])
    let s := noteSaturation (recordFaults r.2 r.1)
    let s := forEach js endPhaseB (phaseOccupancy s.sdp.usedB 8000 (setReg .sdp 0 Reg.SDP_PHASE_B (largest s.sdp.usedB) s))
    forEach allArms judgeRest s
  else s

-- Host torques and the bus cycle (R343)

/-- A sync instant begins a new bus cycle of the datapath. -/
def datapathSync (s : State) : State :=
  { s with
    sdp := { s.sdp with
      faultSeen := false, usedA := Vector.replicate 8 0, usedB := Vector.replicate 8 0
      joint := s.sdp.joint.map fun x => { x with faulted := false, posPrev := x.posLast, posLast := none } }
    play := s.play.map fun p => { p with beta := p.betaNext, betaPrev := p.beta } }

/-- HA_SEQ (R343): marks the cycle. -/
def writeHaSeq (s : State) : State := { s with sdp := { s.sdp with haSeq := true } }

/-- The application at the sync instant: marked torques come into force, else those in force stay (R343). [DEDUCED, log 30] -/
def applyHostTorque (s : State) : State :=
  if s.sdp.haSeq then
    let t := (List.range 96).foldl (fun m j => Sparse.put 0 j (reg s .sdp 0 (Reg.SDP_HA_TRQ + 4 * j)) m) s.sdp.haTrq
    { s with sdp := { s.sdp with haSeq := false, haTrq := t } }
  else s

-- Kernel banks (R340, R342)

/-- The `STATE_ID` of a customer kernel of a bank; 0 where it is absent. -/
def stateIdOf (b : KernelBank) (k : Nat) : Nat :=
  match b.kernels.find? fun x => x.index == k with
  | some x => x.stateId
  | none => 0

/-- The identities of a joint's loop and feedforward kernel for the carry-over of their state (R342). [DEDUCED, log 91] -/
def ffIdentity (b : KernelBank) (cfg : Word) : Nat × Nat := if bit cfg 10 then (1, stateIdOf b (field cfg 27 22)) else (0, 0)
def loopIdentity (b : KernelBank) (cfg : Word) : Nat × Nat :=
  if field cfg 5 4 = 3 then
    (3, stateIdOf b (field cfg 21 16))
  else (field cfg 5 4, 0)

/-- The words of P under a bank. -/
def bankCode (b : KernelBank) : List (Nat × Word) :=
  ((b.kernels.flatMap fun k => k.code).zipIdx).foldl (fun m x => Sparse.put 0 x.2 x.1 m) []

/-- Whether a joint's kernel keeps its identity under the new bank. -/
def keepsState (identity : KernelBank → Word → Nat × Nat) (old : Option KernelBank) (b : KernelBank) (j : Nat) : Bool :=
  match old with
  | some o => identity o (o.jcfg.getD j 0) == identity b (b.jcfg.getD j 0)
  | none => false

/-- The state blocks of a joint's customer kernels start at 0 unless its kernel keeps its `STATE_ID` (R342). -/
def clearStates (old : Option KernelBank) (b : KernelBank) (m : List (Nat × Word)) : List (Nat × Word) :=
  allJoints.foldl (fun m j =>
    let m := if keepsState loopIdentity old b j.val then m else putWords (stateAt false j) (List.replicate 32 0) m
    if keepsState ffIdentity old b j.val then m else putWords (stateAt true j) (List.replicate 32 0) m) m

/-- A joint's parameter block as the bank gives it. -/
def bankParams (b : KernelBank) (j : Nat) : List (Nat × Word) :=
  ((b.params.getD j []).zipIdx).foldl (fun m y => Sparse.put 0 y.2 y.1 m) []

/-- A joint under the new bank: its state carries over where its kernels keep their identity; its parameters are the new bank's. -/
def rebindJoint (old : Option KernelBank) (b : KernelBank) (j : Fin 96) (x : Joint) : Joint :=
  let x := { x with par := bankParams b j.val, shadow := [] }
  if keepsState loopIdentity old b j.val then x
  else { x with integ := 0, ePrev := 0, notch := Vector.replicate 4 (Vector.replicate 4 0), velPrev := 0, dhat := 0 }

/-- The banks of the datapath change places (R342): P, X and Y take the new bank. -/
def switchKernelBank (s : State) : State :=
  let old := kernelBank s
  let act := other s.sdp.act
  match s.sdp.banks[act] with
  | none => { s with sdp := { s.sdp with pend := none } }
  | some b =>
    let code := bankCode b
    let s := { s with
      sdp := { s.sdp with
        act := act, pend := none
        core := s.sdp.core.map fun c => { c with pMem := code, xMem := clearStates old b c.xMem }
        joint := (Vector.range 96).map fun i => rebindJoint old b (jointNo i) s.sdp.joint[jointNo i] }
      tds := { s.tds with
        templates := (s.tds.templates.filter fun t => decide (t.index < 768)) ++ b.templates
        flows := (s.tds.flows.filter fun f => decide (f.flow < 16)) ++ b.flows } }
    count .sdp 0 6 (irq .sdp 0 sdpBankSw s)

/-- SDP_GO (R306, R342): the codes 0x0100 and 0x0101, and the first tag at which the switch may act. -/
def requestKernelSwitch (s : State) : State :=
  if (s.sdp.banks[other s.sdp.act]).isNone then recordErr .sdp 0 0x0100 s
  else if s.sdp.pend.isSome then recordErr .sdp 0 0x0101 s
  else { s with sdp := { s.sdp with pend := some (s.clk.tag.toNat + planBus s) } }

/-- Whether a switch accepted for tag `t` on is due in the running cycle: a plan-cycle start of `p` bus cycles (R306).
[DEDUCED, log 102] -/
def switchDue (s : State) (pend : Option Nat) (p : Nat) : Bool :=
  match pend with
  | some t => decide (t ≤ s.clk.tag.toNat) && s.clk.tag.toNat % max 1 p == 0
  | none => false

/-- `SDP.STAT` (R344). -/
def sdpStat (s : State) : Word :=
  BitVec.ofNat 32 (b2n (s.sdp.banks[other s.sdp.act]).isSome * 2 ^ 17 + s.sdp.act.val * 2 ^ 16 + b2n s.sdp.pend.isSome)

/-- `KBANK_ACT` and `KBANK_NEXT`. -/
def kernelBankId (s : State) (i : Fin 2) : Word :=
  match s.sdp.banks[i] with
  | some b => b.id
  | none => 0

/-- `KINFO_A` and `KINFO_B` of the kernel selected (R344). -/
def kernelInfo (s : State) : Word × Word :=
  match bankKernel s (fld s .sdp 0 Reg.SDP_KSEL 5 0) with
  | some k => (BitVec.ofNat 32 (2 ^ 31 + b2n k.stream * 2 ^ 30 + k.code.length % 4096 * 2 ^ 16 + k.cycles % 65536),
      BitVec.ofNat 32 (k.stateId % 65536 * 65536 + k.state % 256 * 256 + k.params % 256))
  | none => (0, 0)

/-- SERVO_PHASE_A. [DEDUCED, log 2] -/
def execServoPhaseA (s : State) : Host.Outcome State Fault Refusal := run servoPhaseA s
/-- SERVO_PHASE_B. -/
def execServoPhaseB (s : State) : Host.Outcome State Fault Refusal := run servoPhaseB s
/-- PDATA. -/
def execPdata (v : Word) (s : State) : Host.Outcome State Fault Refusal := run (writePdata v) s
/-- PCOMMIT. -/
def execPcommit (v : Word) (s : State) : Host.Outcome State Fault Refusal := run (staged .sdp 0 (writePcommit v)) s
/-- SDP_GO. -/
def execSdpGo (s : State) : Host.Outcome State Fault Refusal := run (staged .sdp 0 requestKernelSwitch) s
/-- HA_SEQ. -/
def execHaSeq (_v : Word) (s : State) : Host.Outcome State Fault Refusal := run (staged .sdp 0 writeHaSeq) s

end Sys2Proof.Machine
end

