-- ==== Sys2Proof/Machine/Mantis.lean ====
section
/-! DEFINITION. Mantis: guard sources, zones, volumes, pairs, the protective separation distance, speed scales, SLS values,
host tracks and pair-table banks (R364 to R393, R406). -/

namespace Sys2Proof.Machine

-- IRQ_STAT bits of the MNT page
def mntTrip : Nat := 8
def mntKlim : Nat := 9
def mntGHold : Nat := 10
def mntGLost : Nat := 11
def mntBankSw : Nat := 12
def mntHostZero : Nat := 13

/-- Change mantis. -/
def modMnt (f : Mantis → Mantis) (s : State) : State := { s with mnt := f s.mnt }

/-- The active bank of mantis. -/
def mantisBank (s : State) : Option MantisBank := s.mnt.banks[s.mnt.act]

/-- The value of a key in a list of pairs. -/
def assoc (l : List (Nat × α)) (k : Nat) : Option α := (l.find? fun x => x.1 == k).map (·.2)

-- Lengths in binary32

/-- Millimetres, and tenths, as metres. -/
def mm (x : Int) : F32 := fDiv (fOfInt x) (fOfInt 1000)
def mm10 (x : Int) : F32 := fDiv (fOfInt x) (fOfInt 10000)
/-- Nanoseconds as seconds. -/
def secondsOf (ns : Int) : F32 := fDiv (fOfInt ns) (fOfInt 1000000000)
/-- A dot product, terms in order. [DESIGN CHOICE, log 77] -/
def fDot (a b : List F32) : F32 := (List.zipWith fMul a b).foldl fAdd 0
/-- A magnitude. [DESIGN CHOICE, log 77] -/
def fNorm (a : List F32) : F32 := fSqrt (fDot a a)

-- Guard sources (R149, R369 to R372)

/-- A guard source's definition. -/
def guardDef (s : State) (i : Nat) : Option GuardDef := (mantisBank s).bind fun b => assoc b.sources i

/-- Change one guard source. -/
def modSrc (i : Sixteen) (f : GuardState → GuardState) (s : State) : State :=
  modMnt (fun m => { m with src := vmod m.src i f }) s

/-- The safety CRC of a guard payload (R149). -/
def guardCrcOk (conn : Word) (b : List Byte) : Bool :=
  crc32c (leBytes 4 conn.toNat ++ b.take 128) == BitVec.ofNat 32 (leAt b 128 4)

/-- A track of a guard payload (R149). -/
def guardTrack (b : List Byte) (i : Nat) : Bool × Track :=
  let o := 8 + 24 * i
  let f := leAt b (o + 1) 1
  let v := fun k => sext 16 (leAt b (o + k) 2)
  (f % 2 == 1, ⟨f / 2 % 2 == 1, leAt b (o + 2) 2, [v 4, v 6, v 8], [v 10, v 12, v 14], [v 16, v 18, v 20]⟩)

/-- The tracks of a guard payload that are present (R371). -/
def guardTracks (b : List Byte) : List (Nat × Track) :=
  ((List.range (min 5 (leAt b 4 1))).filter fun i => (guardTrack b i).1).map fun i => (i, (guardTrack b i).2)

/-- Every test of a guard frame but that of `SCNT` (R149, R369). -/
def guardFrameOk (d : GuardDef) (b : List Byte) : Bool :=
  leAt b 0 2 == d.src.toNat && guardCrcOk d.conn b && leAt b 5 1 % 2 == 1 && decide (leAt b 6 2 ≤ d.ageMax)

/-- A guard frame is accepted: `SCNT` is one ahead, or the source starts (R149, R370). [DEDUCED, log 78] -/
def guardAccepted (d : GuardDef) (g : GuardState) (b : List Byte) : Bool :=
  guardFrameOk d b && (leAt b 2 2 == (g.scnt + 1).toNat || (g.lost && g.run == 0))

/-- A source becomes lost (R372). -/
def loseSource (i : Sixteen) (s : State) : State :=
  count .mnt 0 4 (irq .mnt 0 mntGLost (modSrc i (fun g => { g with lost := true, run := 0, tracks := [] }) s))

/-- The frame of the bus cycle, or its lack, at one source (R369 to R372). [DEDUCED, log 78] -/
def guardStep (i : Sixteen) (s : State) : State :=
  match guardDef s i.val with
  | none => s
  | some d =>
    let g := s.mnt.src[i]
    match g.rx with
    | some b =>
      if guardAccepted d g b then
        let run := min 2 (g.run + 1)
        count .mnt 0 1 (modSrc i (fun g => { g with
          rx := none, held := 0, run := run, lost := g.lost && decide (run < 2), scnt := BitVec.ofNat 16 (leAt b 2 2)
          healthy := true, degraded := leAt b 5 1 / 2 % 2 == 1, age := leAt b 6 2, tracks := guardTracks b }) s)
      else
        let s := count .mnt 0 2 (modSrc i (fun g => { g with rx := none, run := 0, healthy := leAt b 5 1 % 2 == 1 }) s)
        guardMissing i d s
    | none =>
      guardMissing i d (modSrc i (fun g => { g with run := 0 }) s)
where
  /-- A cycle without an accepted frame: a source in use is held, and lost after `WD` such cycles. -/
  guardMissing (i : Sixteen) (d : GuardDef) (s : State) : State :=
    let s := modSrc i (fun g => { g with held := g.held + 1 }) s
    if (s.mnt.src[i]).lost then s
    else
      let s := count .mnt 0 3 (irq .mnt 0 mntGHold s)
      if d.wd ≤ (s.mnt.src[i]).held then loseSource i s else s

/-- GUARD_SOURCE_LOST (R372): after `WD` consecutive cycles without an accepted frame, this one included. [DEDUCED, log 78] -/
def guardSourceLost (i : Sixteen) (s : State) : State :=
  match guardDef s i.val with
  | some d =>
    let g := s.mnt.src[i]
    let missing := match g.rx with
      | some b => !guardAccepted d g b
      | none => true
    if g.lost = false ∧ missing = true ∧ d.wd ≤ g.held + 1 then
      loseSource i (count .mnt 0 3 (irq .mnt 0 mntGHold (modSrc i (fun g => { g with held := g.held + 1 }) s)))
    else s
  | none => s

-- Zones (R373)

/-- The lost sources that list a zone. -/
def lostFor (s : State) (b : MantisBank) (z : Nat) : List GuardDef :=
  (b.sources.filter fun x => (s.mnt.src[(⟨x.1 % 16, Nat.mod_lt _ (by decide)⟩ : Sixteen)]).lost && x.2.zones.getLsbD z).map (·.2)

/-- Whether zone `z` is occupied through its input. -/
def zoneByInput (s : State) (b : MantisBank) (z : Nat) : Bool :=
  match assoc b.vols (192 + z) with
  | some v => v.kind != 0 && !inputOn s v.link
  | none => false

/-- Whether zone `z` is occupied. -/
def zoneOccupied (s : State) (z : Nat) : Bool :=
  match mantisBank s with
  | some b => zoneByInput s b z || (((assoc b.vols (192 + z)).map fun v => v.kind != 0) == some true && !(lostFor s b z).isEmpty)
  | none => false

/-- Occupied zones from zone `lo`, as a word (R373). -/
def zoneWord (s : State) (lo : Nat) : Word :=
  BitVec.ofNat 32 (((List.range 32).filter fun i => zoneOccupied s (lo + i)).foldl (fun w i => w + 2 ^ i) 0)

/-- Largest of a list of numbers. -/
def maxNat (l : List Nat) : Nat := l.foldl max 0

/-- Sensor latency, µs, and Z_d, mm, of an occupied zone (R373, R381). [DEDUCED, log 78] -/
def zoneTerms (s : State) (b : MantisBank) (z : Nat) : Nat × Nat :=
  let lost := lostFor s b z
  let input := if zoneByInput s b z then (assoc b.zoneLat z).getD 0 else 0
  (max input (maxNat (lost.map (·.ageMax))), maxNat (lost.map (·.zd)))

-- Volumes

/-- The tool volume set in force for an arm (R366). -/
def toolSet (s : State) (a : Arm) : Nat := (s.ring[a]).tool.tset

/-- The arm of an arm volume. -/
def volArm (v : Volume) : Arm := ⟨v.owner % 12, Nat.mod_lt _ (by decide)⟩

/-- An arm volume is present (R366, R375). -/
def armVolume (s : State) (v : Volume) : Bool :=
  v.kind != 0 && decide (v.owner < 12) && (armModel s (volArm v)).isSome && (v.tset == 0xFF || v.tset == toolSet s (volArm v))

/-- The joint positions that mantis uses: measured, or the `POS` latched where the feedback is missing (R367, R368). -/
def mantisJoints (s : State) : Vector Int 96 :=
  (Vector.range 96).map fun i =>
    let j := jointNo i
    let x := s.sdp.joint[j]
    if (s.sdp.fb[jointArm j]).present && bit x.rxBits 0 then x.rxPos else x.posNow

/-- The positions of an arm's joints in a vector of all. -/
def armPart (v : Vector Int 96) (a : Arm) : List Int := (List.range 8).map fun k => v[armJoint a k]

/-- Growth of an arm's volumes without feedback (R368). -/
def armGrowth (s : State) (b : MantisBank) (a : Arm) : F32 := mm10 (field b.ssmB 15 0 * (s.sdp.fb[a]).lost : Nat)

/-- A volume as the pass places it: end points, radius, and for arm volumes measured and unit-rate velocities of its ends. -/
structure Placed where
  ends : List F32
  rad : F32
  meas : List F32
  unit : List F32
  deriving DecidableEq, Repr

-- Forward kinematics in binary32 (R367)

/-- Mantis's own copy of a transform, of an arm's base frame and of its joints. -/
def v32 (v : V3 F64) : V3 F32 := ⟨fOfD v.x, fOfD v.y, fOfD v.z⟩
def transform32 (t : Transform F64) : Transform F32 := ⟨v32 t.t, ⟨fOfD t.q.w, v32 t.q.v⟩⟩
def base32 (m : ArmModel) : Frame F32 := a32.place ⟨a32.ident, a32.v0⟩ (transform32 m.base)
def chain32 (m : ArmModel) : List (ChainJoint F32) := m.links.map fun l => ⟨l.joint.travel.map fOfD, transform32 l.joint.fix⟩

/-- Radians of a joint position of LSB 2⁻²⁰ turn, and rad/s of a velocity of LSB 2⁻¹⁶ turn/s. -/
def rad32 (x : Int) : F32 := fMul (fOfScaled x (-20)) (fOfD twoPi)
def radps32 (x : Int) : F32 := fMul (fOfScaled x (-16)) (fOfD twoPi)

/-- The two end points of an arm volume at joint positions, and their velocities at joint rates (R367). [DESIGN CHOICE, log 76] -/
def endPoints (m : ArmModel) (v : Volume) (q : List F32) : V3 F32 × V3 F32 :=
  let f := Arith.frameOf (base32 m) (a32.linkFrames (base32 m) (chain32 m) q) v.link
  (a32.point f (a32.ofList v.p1), a32.point f (a32.ofList v.p2))
def endRates (m : ArmModel) (v : Volume) (q qd : List F32) : List F32 :=
  let fs := a32.linkFrames (base32 m) (chain32 m) q
  let e := endPoints m v q
  let rate := fun p => (a32.jacRate (a32.jacobian (chain32 m) fs v.link p) qd).1.toList
  rate e.1 ++ rate e.2

/-- The end points of an arm volume as six numbers; none without a model. -/
def armEnds (s : State) (v : Volume) (q : List Int) : List F32 :=
  match armModel s (volArm v) with
  | some m => let e := endPoints m v (q.map rad32); e.1.toList ++ e.2.toList
  | none => []

/-- Place an arm volume (R367, R368); before the first pass no cycle n − 1 gives an earlier position, and the measured velocity is a free
value. [DESIGN CHOICE, log 76] -/
def placeArm (s : State) (b : MantisBank) (js : Vector Int 96) (v : Volume) : Placed :=
  let a := volArm v
  let e := armEnds s v (armPart js a)
  let rates := match armModel s a with
    | some m => endRates m v ((armPart js a).map rad32) ((List.range 8).map fun k => radps32 (s.sdp.joint[armJoint a k]).unitVel)
    | none => []
  let kappa := fOfScaled (s.play[a]).kappa (-31)
  let meas := if 0 < (s.sdp.fb[a]).lost then rates.map (fMul kappa)
    else match s.mnt.posUsed with
      | some p => (List.zipWith fSub e (armEnds s v (armPart p a))).map fun x => fDiv x (secondsOf (busNs s))
      | none => (List.range 6).map fun k => Config.freeVelocity s.clk.free e k
  ⟨e, fAdd v.rad (armGrowth s b a), meas, rates⟩

/-- Place a track with its growth, mm, and radius growth from a hold (R371, R372). -/
def placeTrack (t : Track) (grow : F32) : Placed :=
  let p1 := t.p1.map mm
  ⟨p1 ++ (if t.capsule then t.p2.map mm else p1), fAdd (mm t.rad) grow, [], []⟩

/-- A human as a pair sees it: placement, speed, sensor latency in ns, Z_d in mm (R371 to R373, R379, R381). -/
structure Human where
  vol : Placed
  vh : F32
  lat : Nat
  zd : Nat
  deriving DecidableEq, Repr

/-- `V_H` (R379). -/
def humanSpeed (b : MantisBank) : F32 := mm (field b.ssmA 15 0 : Nat)

/-- The human of a track volume, if it is present (R371, R372). -/
def trackHuman (s : State) (b : MantisBank) (v : Volume) : Option Human :=
  let g := s.mnt.src[(⟨v.link % 16, Nat.mod_lt _ (by decide)⟩ : Sixteen)]
  match assoc b.sources v.link, assoc g.tracks v.tset with
  | some d, some t =>
    if g.lost then none
    else
      let vh := fMax (humanSpeed b) (fNorm (t.vel.map mm))
      let e := g.held * busNs s
      let grow := fAdd (if g.degraded then mm d.dgrow else 0) (fMul vh (secondsOf e))
      some ⟨placeTrack t grow, vh, g.age * 1000 + e, d.zd⟩
  | _, _ => none

/-- The human of a zone volume, if the zone is occupied (R373). -/
def zoneHuman (s : State) (b : MantisBank) (z : Nat) (v : Volume) : Option Human :=
  if zoneOccupied s z then
    let w := zoneTerms s b z
    some ⟨⟨v.p1 ++ v.p2, v.rad, [], []⟩, humanSpeed b, w.1 * 1000, w.2⟩
  else none

/-- The human of volume `i`. -/
def humanOf (s : State) (b : MantisBank) (i : Nat) : Option Human :=
  match assoc b.vols i with
  | some v => if v.kind = 0 then none else if i < 192 then trackHuman s b v else zoneHuman s b (i - 192) v
  | none => none

-- Distance and approach (R377, R378)

/-- The closest points of two placed axes (R377). -/
def closestOf (u v : Placed) : V3 F32 × V3 F32 :=
  a32.closest (a32.ofList u.ends) (a32.ofList (u.ends.drop 3)) (a32.ofList v.ends) (a32.ofList (v.ends.drop 3))

/-- The distance of two placed volumes (R377). [DESIGN CHOICE, log 76] -/
def distance (u v : Placed) : F32 :=
  let c := closestOf u v
  fSub (fSub (a32.norm (a32.vsub c.2 c.1)) u.rad) v.rad

/-- 1 µm in binary32. -/
def micro32 : F32 := fDiv (fOfInt 1) (fOfInt 1000000)

/-- The midpoint of a placed axis. -/
def midOf (u : Placed) : V3 F32 :=
  a32.scale (fDiv (fOfInt 1) (fOfInt 2)) (a32.vadd (a32.ofList u.ends) (a32.ofList (u.ends.drop 3)))

/-- The approach direction of two placed axes (R377): between the closest points, the midpoints, or +z. -/
def approachDir (u v : Placed) : V3 F32 :=
  let c := closestOf u v
  let d := a32.vsub c.2 c.1
  let m := a32.vsub (midOf v) (midOf u)
  if !fLt (a32.norm d) micro32 then a32.dir d
  else if !fLt (a32.norm m) micro32 then a32.dir m
  else ⟨0, 0, fOfInt 1⟩

/-- The approach speed of the end points of `u` with velocities `vel`. -/
def approach (u v : Placed) (vel : List F32) : F32 :=
  let n := (approachDir u v).toList
  fMax 0 (fMax (fDot n (vel.take 3)) (fDot n ((vel.drop 3).take 3)))

-- The protective separation distance (R381 to R383)

/-- The conservative payload of an arm, kg (R383), with the θ latched at the start of the plan cycle (R266). -/
def payloadOf (s : State) (a : Arm) : F32 :=
  fMax (s.ring[a]).tool.mass (fOfD (s.plf.theta[a].getD 0 0))

/-- Linear interpolation between (x0, y0) and (x1, y1), also beyond them. [DESIGN CHOICE, log 77] -/
def lerpF (x0 y0 x1 y1 x : F32) : F32 := if fLe x1 x0 then y0 else fAdd y0 (fDiv (fMul (fSub y1 y0) (fSub x x0)) (fSub x1 x0))

/-- The first index i ≥ 0 with x below point i + 1; the last pair beyond the end. -/
def bracket (pts : List F32) (x : F32) : Nat := min (pts.length - 2) (((pts.drop 1).takeWhile fun p => fLe p x).length)

/-- T_s (s) or S_s (m) at a speed and a payload: payload first, then speed (R382). [DESIGN CHOICE, log 77] -/
def stopValue (t : StopTable) (tab : List F32) (speed mass : F32) : F32 :=
  let ms := t.mass.map fun (m : Nat) => fDiv (fOfInt (m : Int)) (fOfInt 100)
  let vs := t.speed.map fun (v : Nat) => mm (v : Int)
  let m := fMax mass (ms.getD 0 0)
  let i := bracket ms m
  let k := bracket vs speed
  let at_ := fun sp => lerpF (ms.getD i 0) (tab.getD (i * 8 + sp) 0) (ms.getD (i + 1) 0) (tab.getD ((i + 1) * 8 + sp) 0) m
  lerpF (vs.getD k 0) (at_ k) (vs.getD (k + 1) 0) (at_ (k + 1)) speed

/-- The terms of sp that do not depend on k: v_h, T_r + T_f, v_rm, v_r1, the fixed lengths, κ. -/
structure SpTerms where
  vh : F32
  time : F32
  vrm : F32
  vr1 : F32
  fixed : F32
  kappa : F32
  deriving DecidableEq, Repr

/-- The terms of a pair (R381); `margin` in tenths of a millimetre. [DESIGN CHOICE, log 77] -/
def spTerms (s : State) (b : MantisBank) (a : Arm) (u : Placed) (h : Human) (margin : Nat) : SpTerms :=
  let cfg := b.armcfg.getD a.val 0
  let kap := (s.play[a]).kappa
  let fall := max 1 (fld s .sdp 0 Reg.SDP_SCALE 15 0) * 2 ^ 31
  let tr := h.lat + 2 * busNs s + field cfg 31 16 * 1000
  let tf := busNs s * ((kap * 65536 + fall - 1) / fall)
  let lens := fAdd (fAdd (fAdd (mm (field b.ssmA 31 16 : Nat)) (mm h.zd)) (mm10 (field cfg 15 0 : Nat))) (mm10 margin)
  ⟨h.vh, fAdd (secondsOf tr) (secondsOf tf), approach u h.vol u.meas, approach u h.vol u.unit, lens, fOfScaled kap (-31)⟩

/-- sp(k) for k in LSB 2⁻¹⁶ (R381). [DESIGN CHOICE, log 77] -/
def spAt (t : StopTable) (x : SpTerms) (v1 mass : F32) (k : Nat) : F32 :=
  let kf := fOfScaled k (-16)
  let ts := stopValue t (t.ts.map fun (n : Nat) => fDiv (fOfInt (n : Int)) (fOfInt 10000)) (fMul kf v1) mass
  let ss := stopValue t (t.ss.map fun (n : Nat) => mm10 (n : Int)) (fMul kf v1) mass
  let vrob := fMax (fMul (fMax x.kappa kf) x.vr1) x.vrm
  fAdd (fAdd (fAdd (fMul x.vh (fAdd x.time ts)) (fMul vrob x.time)) ss) x.fixed

/-- 16 steps of bisection (R384). -/
def bisectScale (ok : Nat → Bool) : Nat → Nat → Nat → Nat
  | 0, lo, _ => lo
  | n + 1, lo, hi =>
    let mid := (lo + hi) / 2
    if ok mid then bisectScale ok n mid hi else bisectScale ok n lo mid

/-- The scale of an arm–human pair: k_p, whether it trips, whether it searched (R384). -/
def pairScale (ok : Nat → Bool) : Nat × Bool × Bool :=
  if ok 65536 then (65536, false, false) else if !ok 0 then (0, true, false) else (bisectScale ok 16 0 65536, false, true)

-- The pass (R376, R384 to R388)

/-- What the pass has found so far for the arms: k, cause, pair. -/
structure Reduced where
  k : Nat := 65536
  human : Option Nat := none
  trip3 : Option Nat := none
  trip4 : Option Nat := none
  deriving DecidableEq, Repr

/-- Add a pair's scale to an arm. -/
def reduceScale (idx k : Nat) (r : Reduced) : Reduced := if k < r.k then { r with k := k, human := some idx } else r

/-- Apply `f` to the arms of a reaction set. -/
def onArms (m : BitVec 12) (f : Reduced → Reduced) (v : Vector Reduced 12) : Vector Reduced 12 :=
  (allArms.filter fun (a : Arm) => m.getLsbD a.val).foldl (fun v a => vmod v a f) v

/-- Keep the first of two. -/
def firstOf (x : Option Nat) (y : Nat) : Option Nat := match x with
  | some a => some a
  | none => some y

/-- The largest magnitude of two end-point velocities. -/
def endSpeed (v : List F32) : F32 := fMax (fNorm (v.take 3)) (fNorm ((v.drop 3).take 3))

/-- Arms by the fastest end point of their present volumes: unit rate (true) or measured (R367, R406). -/
def armSpeed (s : State) (b : MantisBank) (js : Vector Int 96) (unit : Bool) (a : Arm) : F32 :=
  ((b.vols.filter fun x => decide (x.1 < 128) && x.2.owner == a.val && armVolume s x.2).map fun x =>
    let p := placeArm s b js x.2
    endSpeed (if unit then p.unit else p.meas)).foldl fMax 0

/-- One human against one arm volume: the pair's distance and scale. -/
def humanPair (s : State) (b : MantisBank) (v1 : Vector F32 12) (a : Arm) (u : Placed) (h : Human) (margin : Nat) :
    F32 × Nat × Bool × Bool :=
  let d := distance u h.vol
  let t := (assoc b.stops a.val).getD ⟨[], [], [], []⟩
  let x := spTerms s b a u h margin
  (d, pairScale fun k => fLe (spAt t x v1[a] (payloadOf s a) k) d)

/-- One pair of the pair table in the pass: counters, result, reduction (R375 to R388). -/
def passPair (b : MantisBank) (js : Vector Int 96) (v1 : Vector F32 12) (e : Nat × Pair)
    (x : State × List PairResult × Vector Reduced 12) : State × List PairResult × Vector Reduced 12 :=
  let (s, rs, red) := x
  let p := e.2
  match assoc b.vols p.u with
  | none => x
  | some vu =>
    if p.cls = 0 ∨ armVolume s vu = false then x
    else
      let u := placeArm s b js vu
      if p.cls = 1 then
        match humanOf s b p.v with
        | none => x
        | some h =>
          let (d, k, trip, search) := humanPair s b v1 (volArm vu) u h p.margin
          let s := countIf search .mnt 0 8 (countIf (fLt d 0) .mnt 0 12 s)
          let s := if trip then count .mnt 0 6 (irq .mnt 0 mntTrip s) else s
          (s, rs ++ [⟨e.1, trip, d, k⟩], onArms p.react (fun r =>
            let r := reduceScale e.1 k r
            if trip then { r with trip3 := firstOf r.trip3 e.1 } else r) red)
      else
        match assoc b.vols p.v with
        | none => x
        | some vv =>
          if vv.kind = 0 ∨ (p.cls = 2 ∧ armVolume s vv = false) then x
          else
            let v := if p.cls = 2 then placeArm s b js vv else ⟨vv.p1 ++ vv.p2, vv.rad, [], []⟩
            let d := distance u v
            let trip := fLt d (mm10 p.margin)
            let s := countIf (fLt d 0) .mnt 0 12 s
            let s := if trip then count .mnt 0 7 (irq .mnt 0 mntTrip s) else s
            (s, rs ++ [⟨e.1, trip, d, 65536⟩], if trip then onArms p.react (fun r => { r with trip4 := firstOf r.trip4 e.1 }) red else red)

/-- A word of the host tracks in force. -/
def htWord (s : State) (i : Nat) : Word := Sparse.get 0 i s.mnt.ht

/-- Whether host track `t` is in force with `VALID` = 1 (R390). -/
def htValid (s : State) (t : Nat) : Bool := s.mnt.htOn && bit (htWord s (6 * t)) 0

/-- A host track as a human (R389, R393). -/
def hostHuman (s : State) (b : MantisBank) (t : Nat) : Human :=
  let w := fun i => htWord s (6 * t + i)
  let lo := fun (x : Word) => sext 16 (field x 15 0)
  let hi := fun (x : Word) => sext 16 (field x 31 16)
  let v : Track := ⟨bit (w 0) 1, field (w 0) 31 16, [lo (w 1), hi (w 1), lo (w 2)], [hi (w 2), lo (w 3), hi (w 3)],
    [lo (w 4), hi (w 4), lo (w 5)]⟩
  ⟨placeTrack v 0, fMax (humanSpeed b) (fNorm (v.vel.map mm)), fld s .mnt 0 Reg.MNT_HT_CFG 31 16 * 1000, 0⟩

/-- One host track against one arm volume (R377, R389). [DEDUCED, log 79] -/
def passHost (b : MantisBank) (js : Vector Int 96) (v1 : Vector F32 12) (t : Nat) (vol : Nat × Volume)
    (x : State × Vector Reduced 12) : State × Vector Reduced 12 :=
  let (s, red) := x
  let a := volArm vol.2
  let (d, k, trip, search) := humanPair s b v1 a (placeArm s b js vol.2) (hostHuman s b t) 0
  let s := countIf search .mnt 0 8 (countIf (fLt d 0) .mnt 0 12 (irqIf trip .mnt 0 mntHostZero s))
  (s, vmod red a (reduceScale (8192 + t) k))

/-- The lower of two scales with its pair; at equal scales the lower pair index (R385). [DEDUCED, log 79] -/
def lowerScale (x y : Nat × Option Nat) : Nat × Option Nat :=
  if y.1 < x.1 ∨ (y.1 = x.1 ∧ y.2.getD 16384 < x.2.getD 16384) then y else x

/-- The lowest k of an arm's coupling with the pair that gave it (R385). [DEDUCED, log 79] -/
def coupledScale (s : State) (red : Vector Reduced 12) (a : Arm) : Nat × Option Nat :=
  (coupledArms s a).foldl (fun x b => lowerScale x (red[b].k, red[b].human)) (red[a].k, red[a].human)

/-- `CAUSE` and `PAIR` of `ARMK` (R385). -/
def armkCause (r : Reduced) (k : Nat) (human : Option Nat) : Nat × Nat :=
  match r.trip4, r.trip3 with
  | some p, _ => (3, p)
  | none, some p => (2, p)
  | none, none => if k < 65536 then (1, human.getD 0 % 8192) else (0, 0)

/-- Publish an arm's scale (R385, R386). -/
def publishScale (red : Vector Reduced 12) (a : Arm) (s : State) : State :=
  let k := coupledScale s red a
  let c := armkCause red[a] k.1 k.2
  let s := irqIf (decide (k.1 < 65536) && s.mnt.k[a] == 65536) .mnt 0 mntKlim (countIf (decide (k.1 < 65536)) .mnt 0 5 s)
  modMnt (fun m => { m with k := vset m.k a k.1, cause := vset m.cause a c.1, pair := vset m.pair a c.2 }) s

/-- The arms for which the reduction holds a trip. -/
def tripMask (f : Reduced → Option Nat) (red : Vector Reduced 12) : BitVec 12 :=
  BitVec.ofNat 12 ((allArms.filter fun a => (f red[a]).isSome).foldl (fun m a => m + 2 ^ a.val) 0)

-- SLS values (R406)

/-- A speed in m/s as mm/s, LSB 2⁻²⁰. [DESIGN CHOICE, log 77] -/
def mmps (v : F32) : Nat := (fFloor 20 v * 1000).toNat

/-- SLS limit and speed of an arm in state 0 (R406), LSB 2⁻²⁰ mm/s, and `ARMST.SLS`. -/
def slsValues (s : State) (a : Arm) : Nat × Nat × Bool :=
  let c := (s.saf.acfg[a])[(2 : Fin 3)]
  let cap := fun x => if field c 15 0 = 0 then x else min (field c 15 0 * 2 ^ 20) x
  let v1 := mmps s.mnt.v1[a]
  let kmax := max (s.saf.arm[a]).kappaPrev (s.play[a]).kappa
  let lim := cap (kmax * v1 / 2 ^ 31)
  (lim + field c 30 16 * 2 ^ 20, mmps s.mnt.vMeas[a], decide (lim < cap v1))

/-- The SLS values of one arm for the cycle. -/
def slsStep (a : Arm) (s : State) : State :=
  let x := slsValues s a
  let run := if x.1 < x.2.1 then (s.saf.arm[a]).slsRun + 1 else 0
  { s with saf := { s.saf with arm := vmod s.saf.arm a fun r =>
    if r.st = 0 then
      { r with limit := min 65535 (x.1 / 2 ^ 20), speed := min 65535 (x.2.1 / 2 ^ 20), sls := x.2.2, slsRun := run, kappaPrev := (s.play[a]).kappa }
    else { r with sls := false, slsRun := 0, kappaPrev := (s.play[a]).kappa } } }

/-- MANTIS_PASS (R376). -/
def mantisPass (s : State) : State :=
  match mantisBank s with
  | none => s
  | some b =>
    let s := forEach allSixteen guardStep s
    let s := forEach allArms (fun a s => countIf (decide (0 < (s.sdp.fb[a]).lost) && (armModel s a).isSome) .mnt 0 10 s) s
    let js := mantisJoints s
    let v1 := (Vector.range 12).map fun i => armSpeed s b js true ⟨i % 12, Nat.mod_lt _ (by decide)⟩
    let vm := (Vector.range 12).map fun i => armSpeed s b js false ⟨i % 12, Nat.mod_lt _ (by decide)⟩
    let r := b.pairs.foldl (fun x e => passPair b js v1 e x) (s, [], Vector.replicate 12 {})
    let hosts := if assisted s .mnt 0 then (List.range 16).filter fun t => htValid s t else []
    let vols := b.vols.filter fun x => decide (x.1 < 128) && armVolume s x.2
    let h := hosts.foldl (fun x t => vols.foldl (fun x v => passHost b js v1 t v x) x) (r.1, r.2.2)
    let s := modMnt (fun m => { m with
      results := r.2.1, v1 := v1, vMeas := vm, posUsed := some js, trip3 := tripMask (·.trip3) h.2, trip4 := tripMask (·.trip4) h.2 })
      (if s.mnt.posUsed.isNone then (drawFree h.1).2 else h.1)
    let s := forEach allArms (publishScale h.2) s
    let list := (r.2.1.filter fun x => match assoc b.pairs x.pair with
      | some p => p.cls == 2 || p.cls == 3
      | none => false).map fun x => (x.pair, x.d)
    count .mnt 0 0 (forEach allArms slsStep (modMnt (fun m => { m with list := list }) s))

-- Host tracks (R389, R390)

/-- The fields of a host-track word (R393): word 0 holds `RAD`, `CAPSULE` and `VALID`, word 5 one int16. -/
def htMask (w : Nat) : Word := if w = 0 then 0xFFFF0003 else if w = 5 then 0xFFFF else 0xFFFFFFFF

/-- HT_DATA (R390, R393). -/
def writeHtData (v : Word) (s : State) : State :=
  if assisted s .mnt 0 then
    let t := fld s .mnt 0 Reg.MNT_HT_SEL 7 4
    let w := fld s .mnt 0 Reg.MNT_HT_SEL 2 0
    let s := modMnt (fun m => { m with htShadow := Sparse.put 0 (6 * t + w) (v &&& htMask w) m.htShadow }) s
    let n := if w = 5 then (t + 1) % 16 * 16 else t * 16 + (w + 1)
    chg .mnt 0 (setReg .mnt 0 Reg.MNT_HT_SEL (BitVec.ofNat 32 n) s)
  else recordErr .mnt 0 0x0003 s

/-- HT_COMMIT (R390). -/
def writeHtCommit (s : State) : State :=
  if assisted s .mnt 0 then
    modMnt (fun m => { m with ht := m.htShadow, htAge := 0, htOn := true, htExpired := false }) s
  else recordErr .mnt 0 0x0003 s

/-- HT_LIFE_EXPIRY (R390): no commit within `LIFE` bus cycles. -/
def htLifeExpiry (s : State) : State :=
  if s.mnt.htOn ∧ fld s .mnt 0 Reg.MNT_HT_CFG 15 0 ≤ s.mnt.htAge then
    haLate .mnt 0 9 (modMnt (fun m => { m with htOn := false, htExpired := true }) s)
  else s

/-- A bus cycle passes for the host tracks. -/
def htSync (s : State) : State := modMnt (fun m => { m with htAge := m.htAge + b2n m.htOn }) s

-- Banks (R391, R392)

/-- MNT_GO (R392); refused too while the change log is full (R424, R425). [DEDUCED, log 79] -/
def requestMantisSwitch (s : State) : State :=
  if (s.mnt.banks[other s.mnt.act]).isNone then recordErr .mnt 0 0x0100 s
  else if s.mnt.pend.isSome then recordErr .mnt 0 0x0101 s
  else if s.sec.saf = false then recordErr .mnt 0 0x0102 s
  else if logFull s then refuseForLog .mnt 0 s
  else modMnt (fun m => { m with pend := some (s.clk.tag.toNat + planBus s) }) s

/-- The banks of mantis change places (R392): a source keeps its state where its definition is unchanged. [DEDUCED, log 79] -/
def switchMantisBank (s : State) : State :=
  let old := mantisBank s
  let act := other s.mnt.act
  match s.mnt.banks[act] with
  | none => modMnt (fun m => { m with pend := none }) s
  | some b =>
    let keep := fun (i : Nat) => (old.bind fun o => assoc o.sources i) == assoc b.sources i
    let src := (Vector.range 16).map fun i =>
      let n : Sixteen := ⟨i % 16, Nat.mod_lt _ (by decide)⟩
      if keep i then s.mnt.src[n] else {}
    count .mnt 0 11 (irq .mnt 0 mntBankSw (modMnt (fun m => { m with act := act, pend := none, src := src }) s))

/-- `MNT.STAT` (R393). -/
def mntStat (s : State) : Word :=
  BitVec.ofNat 32 (b2n (s.mnt.banks[other s.mnt.act]).isSome * 2 ^ 17 + s.mnt.act.val * 2 ^ 16 + b2n s.mnt.pend.isSome)

/-- The identity of a bank; 0 when empty. -/
def mantisBankId (s : State) (i : Fin 2) : Word :=
  match s.mnt.banks[i] with
  | some b => b.id
  | none => 0

/-- `COUNTS` (R393). -/
def mntCounts (s : State) : Word :=
  match mantisBank s with
  | some b => BitVec.ofNat 32 ((b.vols.filter fun x => x.2.kind != 0).length * 65536 + (b.pairs.filter fun x => x.2.cls != 0).length)
  | none => 0

/-- The selected pair and its result of the last cycle. -/
def selectedPair (s : State) : Option Pair × Option PairResult :=
  let i := fld s .mnt 0 Reg.MNT_PSEL 12 0
  ((mantisBank s).bind fun b => assoc b.pairs i, s.mnt.results.find? fun r => r.pair == i)

/-- `PINFO`, `PDIST` and `PK` (R393). [DEDUCED, log 79] -/
def pairWords (s : State) : Word × Word × Word :=
  match selectedPair s with
  | (some p, r) =>
    let trip := match r with
      | some x => x.trip
      | none => false
    (BitVec.ofNat 32 (p.cls * 2 ^ 30 + b2n r.isSome * 2 ^ 29 + b2n trip * 2 ^ 28 + p.react.toNat * 2 ^ 16 + p.v * 256 + p.u),
      match r with | some x => x.d | none => 0,
      match r with | some x => BitVec.ofNat 32 x.k | none => if p.cls = 1 then 0 else 65536)
  | (none, _) => (0, 0, 0)

/-- `GSTAT` of the selected source (R393). [DEDUCED, log 78] -/
def gstat (s : State) : Word :=
  let i := fld s .mnt 0 Reg.MNT_GSEL 3 0
  let g := s.mnt.src[(⟨i % 16, Nat.mod_lt _ (by decide)⟩ : Sixteen)]
  match guardDef s i with
  | some d =>
    let st := if g.lost then 3 else if g.held = 0 then 1 else 2
    BitVec.ofNat 32 (min 255 g.held * 2 ^ 24 + d.base * 2 ^ 16 + (if g.lost then 0 else g.tracks.length) * 2 ^ 8 + st * 4 + b2n g.degraded * 2 + b2n g.healthy)
  | none => 0

/-- `GLOST` (R393). -/
def glost (s : State) : Word :=
  BitVec.ofNat 32 ((allSixteen.filter fun (i : Sixteen) => (guardDef s i.val).isSome && (s.mnt.src[i]).lost).foldl (fun w i => w + 2 ^ i.val) 0)

/-- `STPT` and `STDATA` of the selected point (R393). -/
def stopPointWords (s : State) : Word × Word :=
  let m := fld s .mnt 0 Reg.MNT_STSEL 4 3
  let v := fld s .mnt 0 Reg.MNT_STSEL 2 0
  match (mantisBank s).bind fun b => assoc b.stops (fld s .mnt 0 Reg.MNT_STSEL 11 8) with
  | some t => (BitVec.ofNat 32 (t.speed.getD v 0 * 65536 + t.mass.getD m 0), BitVec.ofNat 32 (t.ts.getD (m * 8 + v) 0 * 65536 + t.ss.getD (m * 8 + v) 0))
  | none => (0, 0)

/-- `HT_STAT` (R393). -/
def htStat (s : State) : Word :=
  BitVec.ofNat 32 (b2n s.mnt.htExpired * 65536 + ((List.range 16).filter fun t => htValid s t).foldl (fun w t => w + 2 ^ t) 0)

/-- `ARMK` of an arm (R393). -/
def armkWord (s : State) (a : Arm) : Word := BitVec.ofNat 32 (s.mnt.cause[a] * 2 ^ 30 + s.mnt.pair[a] % 8192 * 2 ^ 17 + s.mnt.k[a])

/-- GUARD_SOURCE_LOST. -/
def execGuardSourceLost (src : Sixteen) (s : State) : Host.Outcome State Fault Refusal := run (guardSourceLost src) s
/-- MANTIS_PASS. -/
def execMantisPass (s : State) : Host.Outcome State Fault Refusal := run mantisPass s
/-- MNT_GO. -/
def execMntGo (s : State) : Host.Outcome State Fault Refusal := run (staged .mnt 0 requestMantisSwitch) s
/-- HT_DATA. -/
def execHtData (v : Word) (s : State) : Host.Outcome State Fault Refusal := run (writeHtData v) s
/-- HT_COMMIT. -/
def execHtCommit (s : State) : Host.Outcome State Fault Refusal := run (staged .mnt 0 writeHtCommit) s
/-- HT_LIFE_EXPIRY. -/
def execHtLifeExpiry (s : State) : Host.Outcome State Fault Refusal := run htLifeExpiry s

end Sys2Proof.Machine
end

