-- ==== Sys2Proof/Machine/Solver.lean ====
section
/-! DEFINITION. The sparse solver: one interior-point step on the linearised programme, its KKT matrix, the incomplete LDLᵀ, MINRES
and the update, in binary64 with fused multiply-adds and flushed subnormals (R279 to R290). Sums run in ascending order. -/

namespace Sys2Proof.Machine

-- Arithmetic (R290)

/-- A subnormal number. -/
def subnormal (x : F64) : Bool := field x 62 52 == 0 && field x 51 0 != 0

/-- An operand or a result: a subnormal one is zero of the same sign, and is counted (R290). -/
def flush (x : F64) : StateM Nat F64 := fun n => if subnormal x then (x &&& 0x8000000000000000, n + 1) else (x, n)

/-- An operation on flushed operands with a flushed result. -/
def op2 (f : F64 → F64 → F64) (a b : F64) : StateM Nat F64 := do flush (f (← flush a) (← flush b))
def sAdd (a b : F64) : StateM Nat F64 := op2 dAdd a b
def sSub (a b : F64) : StateM Nat F64 := op2 dSub a b
def sMul (a b : F64) : StateM Nat F64 := op2 dMul a b
def sDiv (a b : F64) : StateM Nat F64 := op2 dDiv a b
def sSqrt (a : F64) : StateM Nat F64 := do flush (dSqrt (← flush a))
/-- a·b + c with one rounding. -/
def sFma (a b c : F64) : StateM Nat F64 := do flush (dFma (← flush a) (← flush b) (← flush c))

/-- A dot product, and a 2-norm. [DESIGN CHOICE, log 92] -/
def sDot (u v : List F64) : StateM Nat F64 := (u.zip v).foldlM (fun acc x => sFma x.1 x.2 acc) 0
def sNorm (v : List F64) : StateM Nat F64 := do sSqrt (← sDot v v)
/-- k·x + y, and x / k, of vectors. -/
def sAxpy (k : F64) (x y : List F64) : StateM Nat (List F64) := (x.zip y).mapM fun p => sFma k p.1 p.2
def sOver (x : List F64) (k : F64) : StateM Nat (List F64) := x.mapM fun a => sDiv a k

/-- A sparse row: column and entry, ascending. -/
abbrev SparseRow := List (Nat × F64)

/-- An entry of a sparse row, 0 where it holds none. -/
def entry (r : SparseRow) (j : Nat) : F64 := ((r.find? fun x => x.1 == j).map (·.2)).getD 0

/-- A sparse row on a vector. -/
def rowTimes (r : SparseRow) (v : Array F64) (start : F64) : StateM Nat F64 :=
  r.foldlM (fun acc x => sFma x.2 (v.getD x.1 0) acc) start

-- The KKT system (R272, R280)

/-- The KKT system: full rows in KKT order, right side, whether the expected pivot sign is +. -/
structure Kkt where
  rows : List SparseRow
  b : List F64
  plus : List Bool

/-- Distances of a value to its bounds, and Σ of its bound duals (R280). -/
def sigmaOf (x zlo zhi : F64) (lo hi : Option F64) : StateM Nat F64 := do
  let l ← match lo with
    | some b => do sDiv zlo (← sSub x b)
    | none => pure 0
  let h ← match hi with
    | some b => do sDiv zhi (← sSub b x)
    | none => pure 0
  sAdd l h

/-- The barrier terms at the target complementarity: μ_t/(x − lo) − μ_t/(hi − x). -/
def barrier (mu x : F64) (lo hi : Option F64) : StateM Nat F64 := do
  let l ← match lo with
    | some b => do sDiv mu (← sSub x b)
    | none => pure 0
  let h ← match hi with
    | some b => do sDiv mu (← sSub b x)
    | none => pure 0
  sSub l h

/-- The index of an identity in a list. -/
def indexOf (l : List (KktId × α)) (k : KktId) : Option Nat := l.findIdx? fun x => x.1 == k

/-- The coefficients of a row by variable index, ascending; an inactive row has none (R242, R280). -/
def rowTerms (p : Programme) (r : KktRow) : SparseRow :=
  if r.active then
    (List.range p.vars.length).filterMap fun i => match p.vars[i]? with
      | some v => (r.terms.find? fun t => t.1 == v.1).map fun t => (i, t.2)
      | none => none
  else []

/-- The matrix A by rows. -/
def coefficients (p : Programme) : List SparseRow := p.rows.map fun r => rowTerms p r.2

/-- A column of A: the entries of a variable by row. -/
def columnOf (a : List SparseRow) (i : Nat) : SparseRow :=
  (a.zipIdx.filter fun r => r.1.any fun x => x.1 == i).map fun r => (r.2, entry r.1 i)

/-- Assemble K and b (R280). -/
def assemble (pat : Pattern) (p : Programme) (it : Iterate) (mu : F64) : StateM Nat Kkt := do
  let a := coefficients p
  let n := p.vars.length
  let x := it.x.toArray
  let y := it.y.toArray
  let prim ← p.vars.zipIdx.mapM fun v => do
    let i := v.2
    let k := v.1.2
    let xi := x.getD i 0
    let col := columnOf a i
    let d ← sAdd (← sAdd k.hess (← sigmaOf xi (it.xlo.getD i 0) (it.xhi.getD i 0) k.lo k.hi)) pat.deltaP
    let g ← sFma k.hess (← sSub xi k.goal) k.lin
    let g ← rowTimes col y g
    let b ← sSub (← barrier mu xi k.lo k.hi) g
    pure ((i, d) :: col.map (fun c => (n + c.1, c.2)), b)
  let dual ← p.rows.zipIdx.mapM fun r => do
    let i := r.2
    let k := r.1.2
    let terms := a.getD i []
    let ax ← rowTimes terms x 0
    if !k.active then pure (terms ++ [(n + i, dNeg pat.deltaD)], (0 : F64))
    else if k.eqn then do
      let b ← sSub (k.lo.getD 0) ax
      pure (terms ++ [(n + i, dNeg pat.deltaD)], b)
    else do
      let w := it.w.getD i 0
      let sg ← sigmaOf w (it.wlo.getD i 0) (it.whi.getD i 0) k.lo k.hi
      let d ← sAdd (← sDiv (dOfInt 1) sg) pat.deltaD
      let t ← sAdd (y.getD i 0) (← barrier mu w k.lo k.hi)
      let b ← sAdd (← sSub w ax) (← sDiv t sg)
      pure (terms ++ [(n + i, dNeg d)], b)
  pure ⟨prim.map (·.1) ++ dual.map (·.1), prim.map (·.2) ++ dual.map (·.2), p.vars.map (fun _ => true) ++ p.rows.map fun _ => false⟩

/-- K on a vector. -/
def timesK (k : Kkt) (v : List F64) : StateM Nat (List F64) :=
  let a := v.toArray
  k.rows.mapM fun r => rowTimes r a 0

-- Incomplete LDLᵀ (R283 to R285)

/-- floor_i of every row (R283). -/
def floorOf (f : F64) (r : SparseRow) : StateM Nat F64 := do
  let m := r.foldl (fun m x => dMax m (dAbs x.2)) 0
  pure (dMax (dOfScaled 1 (-960)) (← sMul f m))

/-- The pivot used, and whether it is a substitute (R284). -/
def pivotUsed (d fl : F64) (plus : Bool) : F64 × Bool :=
  let good := if plus then dLt 0 d else dLt d 0
  if good && dLe fl (dAbs d) then (d, false) else (if plus then fl else dNeg fl, true)

/-- A factor: rows of L below the diagonal, D, substitutions; whether it has been abandoned (R285). -/
structure Factor where
  l : List SparseRow
  d : List F64
  subst : Nat
  lost : Bool

/-- Whether a value of L or D ends the factorisation. -/
def tooLarge (x : F64) : Bool := !dFinite x || dLt (dOfScaled 1 512) (dAbs x)

/-- One row of L from the rows before it: the kept columns in order. -/
def factorRow (f : Factor) (r : SparseRow) : List Nat → SparseRow → StateM Nat SparseRow
  | [], acc => pure acc
  | j :: rest, acc => do
    let lj := f.l.getD j []
    let v ← acc.foldlM (fun v x => do
      let e := entry lj x.1
      if lj.any (fun y => y.1 == x.1) then sFma (dNeg (← sMul x.2 (f.d.getD x.1 0))) e v else pure v) (entry r j)
    let q ← sDiv v (f.d.getD j 0)
    factorRow f r rest (acc ++ [(j, q)])

/-- The kept columns of row `i` below the diagonal: those of K and the compiled fill (R274, R283). -/
def keptColumns (pat : Pattern) (r : SparseRow) (i : Nat) : List Nat :=
  (List.range i).filter fun j => r.any (fun x => x.1 == j) || pat.fill.contains (i, j)

/-- The factorisation K ≈ L D Lᵀ in row order (R283). -/
def factorise (pat : Pattern) (fl : F64) (k : Kkt) : StateM Nat Factor :=
  k.rows.zipIdx.foldlM (fun f x => do
    if f.lost then pure f
    else
      let row ← factorRow f x.1 (keptColumns pat x.1 x.2) []
      let d ← row.foldlM (fun d e => do sFma (dNeg (← sMul e.2 (f.d.getD e.1 0))) e.2 d) (entry x.1 x.2)
      if tooLarge d || row.any (fun e => tooLarge e.2) then pure { f with lost := true }
      else
        let p := pivotUsed d (← floorOf fl x.1) (k.plus.getD x.2 true)
        pure { f with l := f.l ++ [row], d := f.d ++ [p.1], subst := f.subst + if p.2 then 1 else 0 }) ⟨[], [], 0, false⟩

/-- The preconditioner L|D|Lᵀ; after an abandoned factorisation the Jacobi matrix |diag K| with floors (R285). -/
def preconditioner (f : Factor) (fl : F64) (k : Kkt) : StateM Nat (List SparseRow × List F64) := do
  if f.lost then
    let d ← k.rows.zipIdx.mapM fun x => do pure (dMax (dAbs (entry x.1 x.2)) (← floorOf fl x.1))
    pure (k.rows.map fun _ => [], d)
  else pure (f.l, f.d.map dAbs)

/-- Solve with the preconditioner. -/
def solveM (m : List SparseRow × List F64) (r : List F64) : StateM Nat (List F64) := do
  let y ← (m.1.zip r).foldlM (fun (y : Array F64) x => do
    let v ← x.1.foldlM (fun v e => sFma (dNeg e.2) (y.getD e.1 0) v) x.2
    pure (y.push v)) #[]
  let y ← (y.toList.zip m.2).mapM fun x => sDiv x.1 x.2
  let z ← m.1.zipIdx.reverse.foldlM (fun (z : Array F64) x => do
    x.1.foldlM (fun z e => do
      let v ← sFma (dNeg e.2) (z.getD x.2 0) (z.getD e.1 0)
      pure (z.setIfInBounds e.1 v)) z) y.toArray
  pure z.toList

-- MINRES (R286 to R289)

/-- The recurrences of MINRES after `m` iterations, with dx_m and dx_(m−1) (R286). -/
structure Minres where
  m : Nat
  v : List F64
  vOld : List F64
  z : List F64
  gam : F64
  gamOld : F64
  eta : F64
  c : F64
  cOld : F64
  s : F64
  sOld : F64
  w : List F64
  wOld : List F64
  kw : List F64
  kwOld : List F64
  dx : List F64
  dxOld : List F64
  r : List F64
  /-- The iteration of the last true residual. -/
  tested : Option Nat

/-- The start of MINRES: dx = 0. -/
def minresStart (m : List SparseRow × List F64) (b : List F64) : StateM Nat Minres := do
  let z ← solveM m b
  let g ← sSqrt (← sDot z b)
  let o := b.map fun _ => (0 : F64)
  pure { m := 0, v := b, vOld := o, z := z, gam := g, gamOld := dOfInt 1, eta := g, c := dOfInt 1, cOld := dOfInt 1, s := 0, sOld := 0
         w := o, wOld := o, kw := o, kwOld := o, dx := o, dxOld := o, r := b, tested := none }

/-- One iteration: one product with K, one solve with M, the recurrences (R286); none where a coefficient is exactly zero (R288). -/
def minresStep (k : Kkt) (pre : List SparseRow × List F64) (x : Minres) : StateM Nat (Option Minres) := do
  if dEq x.gam 0 then return none
  let zn ← sOver x.z x.gam
  let kz ← timesK k zn
  let del ← sDot kz zn
  let v ← sAxpy (dNeg (← sDiv del x.gam)) x.v kz
  let v ← sAxpy (dNeg (← sDiv x.gam x.gamOld)) x.vOld v
  let z ← solveM pre v
  let gam ← sSqrt (← sDot z v)
  let a0 ← sFma (dNeg (← sMul x.cOld x.s)) x.gam (← sMul x.c del)
  let a1 ← sSqrt (← sFma a0 a0 (← sMul gam gam))
  if dEq a1 0 then return none
  let a2 ← sFma (← sMul x.cOld x.c) x.gam (← sMul x.s del)
  let a3 ← sMul x.sOld x.gam
  let c ← sDiv a0 a1
  let s ← sDiv gam a1
  let w ← sOver (← sAxpy (dNeg a2) x.w (← sAxpy (dNeg a3) x.wOld zn)) a1
  let kw ← sOver (← sAxpy (dNeg a2) x.kw (← sAxpy (dNeg a3) x.kwOld kz)) a1
  let t ← sMul c x.eta
  let dx ← sAxpy t w x.dx
  let r ← sAxpy (dNeg t) kw x.r
  let eta ← sMul (dNeg s) x.eta
  return some { m := x.m + 1, v := v, vOld := x.v, z := z, gam := gam, gamOld := x.gam, eta := eta, c := c, cOld := x.c, s := s, sOld := x.s
                w := w, wOld := x.w, kw := kw, kwOld := x.kw, dx := dx, dxOld := x.dx, r := r, tested := x.tested }

/-- The true residual test of R287: passed, and the ratio of the norms; 0 for a right side of zero. -/
def trueResidual (k : Kkt) (tol nb : F64) (dx : List F64) : StateM Nat (Bool × F64) := do
  let kx ← timesK k dx
  let r ← (k.b.zip kx).mapM fun x => sSub x.1 x.2
  let n ← sNorm r
  let ok := dLe n (← sMul tol nb)
  let q ← sDiv n nb
  pure (ok, if dEq nb 0 then 0 else q)

/-- What MINRES ends with: iterations, dx, residual test, ratio, whether at the cap, whether a value is not finite. -/
structure MinresEnd where
  m : Nat
  dx : List F64
  passed : Bool
  ratio : F64
  capped : Bool
  bad : Bool

/-- MINRES for at most `fuel` further iterations (R286 to R289); `cap` tells that the end of the fuel is the cap. -/
def minresRun (k : Kkt) (pre : List SparseRow × List F64) (tol nb : F64) (cap : Bool) : Nat → Minres → StateM Nat MinresEnd
  | 0, x => do
    let t ← trueResidual k tol nb x.dx
    pure ⟨x.m, x.dx, t.1, t.2, cap, false⟩
  | fuel + 1, x => do
    match ← minresStep k pre x with
    | none =>
      let t ← trueResidual k tol nb x.dx
      pure ⟨x.m, x.dx, t.1, t.2, false, false⟩
    | some y =>
      if y.dx.any (fun v => !dFinite v) then pure ⟨y.m, y.dx, false, 0, false, true⟩
      else
        let n ← sNorm y.r
        let near := dLe n (← sMul tol nb)
        let due := match y.tested with
          | some i => (y.m - i) % 8 == 0
          | none => true
        if near && due then
          let t ← trueResidual k tol nb y.dx
          if t.1 then pure ⟨y.m, y.dx, true, t.2, false, false⟩
          else minresRun k pre tol nb cap fuel { y with tested := some (y.tested.getD y.m) }
        else minresRun k pre tol nb cap fuel y

-- The update (R281)

/-- The largest step not above `a` that keeps a distance at (1 − τ) times its present value or more (R281). -/
def keepAway (tau : F64) (a : F64) (x : F64 × F64) : StateM Nat F64 := do
  if dLt x.2 0 then pure (dMin a (← sDiv (← sMul tau x.1) (dNeg x.2))) else pure a

/-- A bounded value: value, step, bounds, bound duals. -/
structure Bounded where
  x : F64
  dx : F64
  lo : Option F64
  hi : Option F64
  zlo : F64
  zhi : F64

/-- Distances to the bounds with their steps, and bound duals with theirs (R281). -/
def Bounded.pairs (mu : F64) (v : Bounded) : StateM Nat (List (F64 × F64) × List (F64 × F64)) := do
  let one := fun (d step z : F64) => do
    let dz ← sSub (← sSub (← sDiv mu d) z) (← sMul (← sDiv z d) step)
    pure ((d, step), (z, dz))
  let l ← match v.lo with
    | some b => do let p ← one (← sSub v.x b) v.dx v.zlo; pure [p]
    | none => pure []
  let h ← match v.hi with
    | some b => do let p ← one (← sSub b v.x) (dNeg v.dx) v.zhi; pure [p]
    | none => pure []
  pure ((l ++ h).map (·.1), (l ++ h).map (·.2))

/-- Move a bounded value: the value by `ap`, its bound duals by `ad`. -/
def Bounded.move (mu ap ad : F64) (v : Bounded) : StateM Nat Bounded := do
  let p ← v.pairs mu
  let zs := p.2
  let zl ← match v.lo, zs.head? with
    | some _, some z => sFma ad z.2 z.1
    | _, _ => pure v.zlo
  let zh ← match v.hi, zs.getLast? with
    | some _, some z => sFma ad z.2 z.1
    | _, _ => pure v.zhi
  pure { v with x := ← sFma ap v.dx v.x, zlo := zl, zhi := zh }

/-- The mean complementarity over every bound (R279, R281); 0 without a bound. -/
def meanMu (l : List Bounded) : StateM Nat F64 := do
  let ps ← l.mapM fun v => do
    let a ← match v.lo with
      | some b => do pure [← sMul v.zlo (← sSub v.x b)]
      | none => pure []
    let h ← match v.hi with
      | some b => do pure [← sMul v.zhi (← sSub b v.x)]
      | none => pure []
    pure (a ++ h)
  let all := ps.flatten
  let sum ← all.foldlM sAdd 0
  if all.isEmpty then pure 0 else sDiv sum (dOfInt (all.length : Nat))

/-- Whether a row has a slack: active, no equality. -/
def KktRow.ranged (r : KktRow) : Bool := r.active && !r.eqn

/-- The bounded values of an iterate with their steps: variables, and the slacks of the ranged rows. -/
def boundedOf (p : Programme) (it : Iterate) (dx dw : List F64) : List Bounded × List Bounded :=
  (p.vars.zipIdx.map fun v => ⟨it.x.getD v.2 0, dx.getD v.2 0, v.1.2.lo, v.1.2.hi, it.xlo.getD v.2 0, it.xhi.getD v.2 0⟩,
    p.rows.zipIdx.map fun r =>
      let k := r.1.2
      ⟨it.w.getD r.2 0, dw.getD r.2 0, if k.ranged then k.lo else none, if k.ranged then k.hi else none, it.wlo.getD r.2 0, it.whi.getD r.2 0⟩)

/-- The steps of the row slacks from those of the row duals (R281). -/
def slackSteps (p : Programme) (it : Iterate) (mu : F64) (dy : List F64) : StateM Nat (List F64) :=
  p.rows.zipIdx.mapM fun r => do
    let k := r.1.2
    if k.ranged then
      let w := it.w.getD r.2 0
      let sg ← sigmaOf w (it.wlo.getD r.2 0) (it.whi.getD r.2 0) k.lo k.hi
      sDiv (← sAdd (← sAdd (dy.getD r.2 0) (it.y.getD r.2 0)) (← barrier mu w k.lo k.hi)) sg
    else pure 0

/-- The update of R281 with direction `d` at target complementarity `mu`. -/
def updateIterate (pat : Pattern) (p : Programme) (it : Iterate) (mu : F64) (d : List F64) : StateM Nat Iterate := do
  let n := p.vars.length
  let dw ← slackSteps p it mu (d.drop n)
  let bs := boundedOf p it (d.take n) dw
  let all := bs.1 ++ bs.2
  let pairs ← all.mapM (Bounded.pairs mu)
  let tau := dOfF pat.tau
  let ap ← (pairs.flatMap (·.1)).foldlM (keepAway tau) (dOfInt 1)
  let ad ← (pairs.flatMap (·.2)).foldlM (keepAway tau) (dOfInt 1)
  let xs ← bs.1.mapM (Bounded.move mu ap ad)
  let ws ← bs.2.mapM (Bounded.move mu ap ad)
  let y ← sAxpy ad (d.drop n) it.y
  let mean ← meanMu (xs ++ ws)
  pure ⟨xs.map (·.x), xs.map (·.zlo), xs.map (·.zhi), y, ws.map (·.x), ws.map (·.zlo), ws.map (·.zhi), mean⟩

/-- Every value of an iterate is finite (R267, R288). -/
def Iterate.finite (it : Iterate) : Bool :=
  [it.x, it.xlo, it.xhi, it.y, it.w, it.wlo, it.whi, [it.mu]].all fun l => l.all dFinite

/-- One interior-point step (R281) with at most `iters` MINRES iterations, which are the cap where `cap`: the iterate after it and what it
found. A step that fails leaves the iterate as it was (R288). -/
def solverStep (pat : Pattern) (tol fl : F64) (iters : Nat) (cap : Bool) (p : Programme) (it : Iterate) : Iterate × StepResult :=
  let go : StateM Nat (Iterate × StepResult) := do
    let mu ← sMul (dOfF pat.sigmaC) it.mu
    let k ← assemble pat p it mu
    if k.b.any (fun x => !dFinite x) || k.rows.any (fun r => r.any fun x => !dFinite x.2) then
      pure (it, ⟨0, false, 0, 0, false, 0, false, true⟩)
    else
      let f ← factorise pat fl k
      let pre ← preconditioner f fl k
      let nb ← sNorm k.b
      let e ← minresRun k pre tol nb cap iters (← minresStart pre k.b)
      if e.bad then pure (it, ⟨e.m, false, 0, f.subst, f.lost, 0, false, true⟩)
      else
        let y ← updateIterate pat p it mu e.dx
        if y.finite then pure (y, ⟨e.m, e.passed, e.ratio, f.subst, f.lost, 0, e.capped && !e.passed, false⟩)
        else pure (it, ⟨e.m, e.passed, e.ratio, f.subst, f.lost, 0, false, true⟩)
  let r := go 0
  (r.1.1, { r.1.2 with flush := r.2 })

-- The interior push (R279)

/-- Move a bounded value inside its bounds, and raise its bound duals to κ (R279). A one-sided bound has no width: its distance is that of
width 0. [DESIGN CHOICE, log 93] -/
def pushInside (kap : F64) (v : Bounded) : StateM Nat Bounded := do
  let width ← match v.lo, v.hi with
    | some l, some h => sSub h l
    | _, _ => pure 0
  let d ← sMul kap (dMax width (dOfScaled 1 (-20)))
  let both := v.lo.isSome && v.hi.isSome
  let x ← if both && dLe width 0 then pure v.x
    else do
      let x ← match v.lo with
        | some b => do pure (dMax v.x (← sAdd b d))
        | none => pure v.x
      match v.hi with
        | some b => do pure (dMin x (← sSub b d))
        | none => pure x
  pure { v with x := x, zlo := if v.lo.isSome then dMax v.zlo kap else 0, zhi := if v.hi.isSome then dMax v.zhi kap else 0 }

/-- The iterate before the first step: warm-start variables and duals pushed inside, row slacks at the rows' values (R279). -/
def pushedStart (pat : Pattern) (p : Programme) (it : Iterate) : Iterate × Nat :=
  let go : StateM Nat Iterate := do
    let a := coefficients p
    let x := it.x.toArray
    let w ← a.mapM fun r => rowTimes r x 0
    let bs := boundedOf p { it with w := w } [] []
    let kap := dOfF pat.push
    let xs ← bs.1.mapM (pushInside kap)
    let ws ← bs.2.mapM (pushInside kap)
    let mean ← meanMu (xs ++ ws)
    pure ⟨xs.map (·.x), xs.map (·.zlo), xs.map (·.zhi), it.y, ws.map (·.x), ws.map (·.zlo), ws.map (·.zhi), mean⟩
  go 0

end Sys2Proof.Machine
end

