-- ==== Sys2Proof/Machine/Stops.lean ====
section
/-! DEFINITION. Demands and the stops that answer them: STO, SS1, SBC and SLS of each arm, the envelope, the safety vote and the
resets of arms (R394 to R406, R417). -/

namespace Sys2Proof.Machine

-- IRQ_STAT bits of the SAF page
def safSs1 : Nat := 8
def safSto : Nat := 9
def safEnv : Nat := 10
def safTlimit : Nat := 11
def safReset : Nat := 12
def safSls : Nat := 13

/-- Change the safety unit, one arm's safety state, the outputs. -/
def modSaf (f : SafetyUnit → SafetyUnit) (s : State) : State := { s with saf := f s.saf }
def modArmSaf (a : Arm) (f : ArmSafety → ArmSafety) (s : State) : State := modSaf (fun u => { u with arm := vmod u.arm a f }) s
def modOut (f : SafeOutputs → SafeOutputs) (s : State) : State := modSaf (fun u => { u with out := f u.out }) s

/-- Set or clear bit `i` of a mask. -/
def putBit (m : BitVec n) (i : Nat) (x : Bool) : BitVec n := setBit m i x

-- Configuration of the stops (R430)

/-- `GCFG`: consecutive lost cycles for SS1 and for STO, still cycles. -/
def fbSs1 (s : State) : Nat := fld s .saf 0 Reg.SAF_GCFG 7 0
def fbSto (s : State) : Nat := fld s .saf 0 Reg.SAF_GCFG 15 8
def stillCyc (s : State) : Nat := fld s .saf 0 Reg.SAF_GCFG 23 16

/-- A word of `ACFG` of an arm: 0 `A`, 1 `B`, 2 `C`. -/
def acfg (s : State) (a : Arm) (k : Fin 3) : Word := (s.saf.acfg[a])[k]

/-- `JCFG_A` and `JCFG_B` of a joint. -/
def safJcfg (s : State) (j : Nat) : Word × Word :=
  match s.saf.jcfg.find? fun x => x.1 == j with
  | some x => x.2
  | none => (0, 0)

/-- The joints that the cell image gives an arm. -/
def presentJoints (s : State) (a : Arm) : List (Fin 96) := (List.range (armJoints s a)).map (armJoint a)

/-- Whether two-channel or consolidated operation runs (R538). -/
def wlUp (s : State) : Bool := s.wl.op == 1 || s.wl.op == 2

/-- `SAF.READY` (chapter "Safety Functions"): a safety section is active and at least two lanes are in step. -/
def safReady (s : State) : Bool := s.boot.admitted && s.saf.loaded && decide (2 ≤ laneCount s)

/-- `SAF.READY` has set since power good, or would have with two lanes in step (R537). [DEDUCED, log 72] -/
def safSeen (s : State) : Bool := s.boot.admitted && s.saf.loaded

/-- `SAF.MOTION.EN` (R538). -/
def motionEnabled (s : State) : Bool := decide (2 ≤ laneCount s) && wlUp s && safReady s && s.saf.rstSeen

/-- The `SO` pairs follow R410 once `SAF.READY` and `RSTSEEN` are both 1 (R536). [DEDUCED, log 72] -/
def releaseSo (s : State) : State := if safReady s && s.saf.rstSeen then modOut (fun o => { o with soLive := true }) s else s

/-- Whether cell output `i` is on (R410, R411, R536). -/
def soOn (s : State) (i : Nat) : Bool :=
  let c := reg s .sio 0 (Reg.SIO_SO_CFG + 4 * i)
  s.saf.out.soLive && !(hubsAlive s).isEmpty && !s.saf.out.fault.getLsbD (12 + i) &&
  (allArms.all fun (a : Arm) => !bit c a.val || decide ((s.saf.arm[a]).st ≤ 1)) &&
  (List.range 16).all fun k => !bit c (12 + k) || inputOn s k

/-- `ENABLE` in the arm's setpoint records (R399). -/
def armEnable (s : State) (a : Arm) : Bool := decide ((s.saf.arm[a]).st ≤ 1)

-- Demands (R395)

/-- A demand is shown in `LASTDEM`, and its arms count as demanded in the cycle. [DEDUCED, log 73] -/
def noteDemand (cause : Nat) (m : BitVec 12) (s : State) : State :=
  modSaf (fun u => { u with
    lastDem := BitVec.ofNat 32 (cause * 2 ^ 28 + m.toNat * 2 ^ 16 + s.clk.tag.toNat % 2 ^ 16), demanded := u.demanded ||| m }) s

/-- The mask of a list of arms. -/
def maskOf (l : List Arm) : BitVec 12 := BitVec.ofNat 12 (l.foldl (fun m a => m ||| 2 ^ a.val) 0)

/-- The cause that an arm of a coupling shows: its own, or 14 for the others (R222, R395). [DEDUCED, log 33] -/
def coupledCause (a b : Arm) (cause : Nat) : Nat := if a = b then cause else 14

/-- A demand that meets a test pulse on an output discards the test's result (R414). [DEDUCED, log 73] -/
def meetTest (o : Nat) (s : State) : State :=
  match s.saf.test with
  | some (x, c, _) => if x = o then modSaf (fun u => { u with test := some (x, c, true) }) s else s
  | none => s

/-- The STO pair of an arm is switched off in both channels. -/
def pairOff (a : Arm) (s : State) : State :=
  meetTest a.val (modOut (fun o => { o with stoA := putBit o.stoA a.val false, stoB := putBit o.stoB a.val false, stoPend := putBit o.stoPend a.val false }) s)

/-- The brake of an arm is applied. -/
def brakeOn (a : Arm) (s : State) : State := modOut (fun o => { o with sbc := putBit o.sbc a.val false }) s

/-- The plan of an arm is dropped: it rests, and moves again from rest on a new path (R233). -/
def dropPlan (a : Arm) (s : State) : State :=
  dropPath a <| forEach (presentJoints s a) (fun j s => modJoint j (fun x => { x with posNext := x.posNow, velNow := 0, velNext := 0, accNext := 0 }) s)
    (modPlay a (fun p => { p with
      segs := [], next := none, tau := 0, profile := none, ended := false, held := false, stopping := false, rest := true
      csp := false, cspWait := 0, splice := [], chain := [], stage0 := [] }) s)

/-- A ring halts with cause `STOP` unless it has already (R399, R401). -/
def stopRing (a : Arm) (s : State) : State := haltOne 3 a s

/-- STO of one arm (R399): brake at once; an arm that awaits a reset stays as it is. [DEDUCED, log 72] -/
def stoArm (cause : Nat) (a : Arm) (s : State) : State :=
  let x := s.saf.arm[a]
  if 3 ≤ x.st then s
  else
    let s := count .saf 0 1 (irq .saf 0 safSto (brakeOn a (pairOff a s)))
    let s := modArmSaf a (fun r => { r with
      st := 3, sbcAt := none, fallPend := false
      cause := if r.st = 0 then cause else r.cause
      noss1 := r.noss1 || r.st == 0 || (cause == 8) }) s
    dropPlan a (stopRing a s)

/-- An STO decision for an arm and the arms coupled to it (R222, R399). -/
def decideSto (cause : Nat) (a : Arm) (s : State) : State :=
  let l := coupledArms s a
  forEach l (fun b s => stoArm (coupledCause a b cause) b s) (noteDemand cause (maskOf l) s)

/-- The measured speed of a joint over the last bus cycle, LSB 2⁻²⁰ turn per bus cycle, where both feedbacks were valid (R402).
[DEDUCED, log 74] -/
def measuredSpeed (x : Joint) : Option Nat :=
  match x.posLast, x.posPrev with
  | some p, some q => some (BitVec.ofInt 32 (p - q)).toInt.natAbs
  | _, _ => none

/-- |q̇(t₀)| of every joint of an arm; a speed that cannot be formed is a free value. -/
def speedsAt (s : State) (a : Arm) : List Nat :=
  (presentJoints s a).map fun j => (measuredSpeed s.sdp.joint[j]).getD ((Config.freeWord (s.clk.free + j.val)).toNat % 2 ^ 20)

/-- SS1 of one arm (R401): t₀ is the sync instant of the running cycle; the time scale starts at the next. -/
def ss1Arm (cause : Nat) (a : Arm) (s : State) : State :=
  let x := s.saf.arm[a]
  if 2 ≤ x.st then s
  else
    let s := count .saf 0 0 (irq .saf 0 safSs1 s)
    if x.st = 1 then s
    else
      let s := modArmSaf a (fun r => { r with
        st := 1, cause := cause, t0 := s.clk.tag, t0ns := syncAt s s.clk.tag / 2 ^ 32, v0 := speedsAt s a, still := 0, fallPend := true }) s
      modPlay a (fun p => { p with csp := false, cspWait := 0, next := none }) (stopRing a s)

/-- An SS1 demand for an arm and the arms coupled to it. -/
def demandSs1 (cause : Nat) (a : Arm) (s : State) : State :=
  let l := coupledArms s a
  forEach l (fun b s => ss1Arm (coupledCause a b cause) b s) (noteDemand cause (maskOf l) (drawFree s).2)

/-- SS1 for every arm (R39, R40, R420). -/
def cellSs1 (cause : Nat) (s : State) : State :=
  forEach allArms (ss1Arm cause) (noteDemand cause (BitVec.allOnes 12) (drawFree s).2)

/-- STO for every arm (R167, R397). -/
def cellSto (cause : Nat) (s : State) : State := forEach allArms (stoArm cause) (noteDemand cause (BitVec.allOnes 12) s)

/-- `SS1_RATE` of an arm, s⁻¹. -/
def ss1Rate (s : State) (a : Arm) : F64 := dDiv (dOfInt (field (acfg s a 1) 15 0 : Nat)) (dOfInt 10)

/-- Whether an arm has a plan that a time scale can act on: an arm at the end of its chain or without a plan rests. -/
def hasTail (s : State) (a : Arm) : Bool :=
  let p := s.play[a]
  !p.segs.isEmpty && !(p.ended && p.rest)

/-- The SS1 time scale begins at the sync instant after the demand (R401); a fallback profile gives way to it (R304). -/
def startSs1 (a : Arm) (s : State) : State :=
  if (s.saf.arm[a]).fallPend then
    let s := modPlay a (fun p => { p with held := false, stopping := false, rejects := 0 }) (modArmSaf a (fun r => { r with fallPend := false }) s)
    if hasTail s a then startFall (ss1Rate s a) a s else s
  else s

-- Envelope and standstill (R402, R403)

/-- The travel of a prismatic joint, m per radian of joint position; none for a revolute joint (R332). -/
def jointTravel (s : State) (a : Arm) (k : Nat) : Option F64 := ((armModel s a).bind fun m => m.links[k]?).bind (·.joint.travel)

/-- Radians per second of a measured speed. -/
def speedRad (s : State) (n : Nat) : F64 := dDiv (dMul (dOfScaled n (-20)) twoPi) (busSeconds s 1)

/-- A measured speed in the unit of a joint's limits: rad/s, m/s for a prismatic joint (R332, R430). -/
def speedSi (s : State) (a : Arm) (k n : Nat) : F64 := match jointTravel s a k with
  | some t => dMul (speedRad s n) t
  | none => speedRad s n

/-- `V_TOL` or `V_STILL`, rad/s, or m/s for a prismatic joint. -/
def milliRad (n : Nat) : F64 := dDiv (dOfInt n) (dOfInt 1000)

/-- The limit of the envelope of joint `k` of an arm, `cycles` bus cycles after t₀ (R402). [DEDUCED, log 74] -/
def envelopeLimit (s : State) (a : Arm) (k v0 cycles : Nat) : F64 :=
  let c := safJcfg s (armJoint a k).val
  let late := dSub (busSeconds s cycles) (dDiv (dOfInt (field (acfg s a 0) 15 0 : Nat)) (dOfInt 10000))
  let drop := if dLt 0 late then dMul (dOfF c.1) late else 0
  dAdd (dSub (speedSi s a k v0) drop) (milliRad (field c.2 31 16))

/-- The envelope test of one joint (R402). [DEDUCED, log 74] -/
def withinEnvelope (s : State) (a : Arm) (j : Fin 96) (v0 v cycles : Nat) : Bool :=
  dLe (speedSi s a (j.val % 8) v) (envelopeLimit s a (j.val % 8) v0 cycles)

/-- ENVELOPE_TEST (R402): the feedback of the cycle that ends is tested for an arm under SS1. [DEDUCED, log 74] -/
def envelopeTest (a : Arm) (s : State) : State :=
  let x := s.saf.arm[a]
  let cycles := s.clk.tag.toNat - x.t0.toNat
  let bad := (presentJoints s a).any fun j => match measuredSpeed s.sdp.joint[j] with
    | some v => !withinEnvelope s a j (x.v0.getD (j.val % 8) 0) v cycles
    | none => false
  if x.st = 1 ∧ 0 < cycles ∧ bad then decideSto 10 a (count .saf 0 2 (irq .saf 0 safEnv s)) else s

/-- Whether every present joint is still in the running cycle (R403). [DEDUCED, log 74] -/
def stillNow (s : State) (a : Arm) : Bool :=
  (presentJoints s a).all fun j => match measuredSpeed s.sdp.joint[j] with
    | some v => dLe (speedSi s a (j.val % 8) v) (milliRad (field (safJcfg s j.val).2 15 0))
    | none => false

/-- The run of still instants at the end of a cycle. -/
def stillStep (a : Arm) (s : State) : State :=
  modArmSaf a (fun r => if r.st = 1 then { r with still := if stillNow s a then r.still + 1 else 0 } else r) s

/-- STANDSTILL (R403): STO with the brake `SBC_DELAY` later. [DESIGN CHOICE, log 100] -/
def standstill (a : Arm) (s : State) : State :=
  let x := s.saf.arm[a]
  if x.st = 1 ∧ stillCyc s ≤ x.still + b2n (stillNow s a) then
    let s := count .saf 0 1 (irq .saf 0 safSto (pairOff a s))
    dropPlan a (modArmSaf a (fun r => { r with st := 2, sbcAt := some (nsOf s + field (acfg s a 1) 31 16 * 10 ^ 6), fallPend := false }) s)
  else s

/-- SBC_DELAY_EXPIRY (R403). [DESIGN CHOICE, log 100] -/
def sbcDelayExpiry (a : Arm) (s : State) : State :=
  match (s.saf.arm[a]).sbcAt with
  | some t => if (s.saf.arm[a]).st = 2 ∧ t ≤ nsOf s then modArmSaf a (fun r => { r with st := 3, sbcAt := none }) (brakeOn a s) else s
  | none => s

/-- SS1_TIME_LIMIT (R403): `TMAX` after t₀ without standstill. -/
def ss1TimeLimit (a : Arm) (s : State) : State :=
  let x := s.saf.arm[a]
  if x.st = 1 ∧ x.t0ns + field (acfg s a 0) 31 16 * 10 ^ 6 ≤ nsOf s then decideSto 11 a (count .saf 0 3 (irq .saf 0 safTlimit s)) else s

-- Feedback loss and SLS (R405, R406)

/-- FEEDBACK_LOST_SS1 (R405). -/
def feedbackLostSs1 (a : Arm) (s : State) : State :=
  if 0 < fbSs1 s ∧ fbSs1 s ≤ (s.sdp.fb[a]).lost then demandSs1 6 a (count .saf 0 7 s) else s

/-- FEEDBACK_LOST_STO (R405). -/
def feedbackLostSto (a : Arm) (s : State) : State :=
  if 0 < fbSto s ∧ fbSto s ≤ (s.sdp.fb[a]).lost then decideSto 6 a (count .saf 0 7 s) else s

/-- SLS_VIOLATION (R406): above the limit in 2 consecutive cycles. -/
def slsViolation (a : Arm) (s : State) : State :=
  if (s.saf.arm[a]).st = 0 ∧ 2 ≤ (s.saf.arm[a]).slsRun then demandSs1 5 a (count .saf 0 6 (irq .saf 0 safSls s)) else s

-- The safety vote (R39, R396, R397)

/-- Arms that inputs of function `f` which read off map (R398, R409). -/
def inputArms (s : State) (f : Nat) : BitVec 12 :=
  (List.range 16).foldl (fun m i =>
    let c := reg s .sio 0 (Reg.SIO_SI_CFG + 4 * i)
    if field c 19 16 = f ∧ inputOn s i = false then m ||| BitVec.ofNat 12 (field c 31 20) else m) 0

/-- Arms with a joint whose chain faulted in 2 consecutive cycles (R324). -/
def chainArms (s : State) : BitVec 12 :=
  maskOf (allArms.filter fun a => (presentJoints s a).any fun j => decide (2 ≤ (s.sdp.joint[j]).faults))

/-- The demands that every lane forms from the shared state: SS1 and STO. -/
def laneDemands (s : State) : Decisions :=
  ⟨inputArms s 2 ||| s.mnt.trip3 ||| s.mnt.trip4 ||| chainArms s, inputArms s 1⟩

/-- The SS1 cause of an arm: the first of R395 that holds for it; 8 where only the lanes' own decisions ask. [DEDUCED, log 73] -/
def ss1Cause (s : State) (a : Arm) : Nat :=
  if (inputArms s 2).getLsbD a then 2 else if s.mnt.trip3.getLsbD a then 3 else if s.mnt.trip4.getLsbD a then 4
  else if (chainArms s).getLsbD a then 7 else 8

/-- The two-out-of-three of three masks. -/
def majority (x y z : BitVec n) : BitVec n := (x &&& y) ||| (y &&& z) ||| (x &&& z)

/-- The vote over the decisions of the lanes in step: what is decided, and whether two lanes disagree with no third (R39).
[DEDUCED, log 8; DEDUCED, log 71] -/
def voteDecisions : List Decisions → Decisions × Bool
  | [x, y, z] => (⟨majority x.ss1 y.ss1 z.ss1, majority x.sto y.sto z.sto⟩, false)
  | [x, y] => (⟨x.ss1 &&& y.ss1, x.sto &&& y.sto⟩, x != y)
  | [x] => (x, false)
  | _ => (⟨0, 0⟩, false)

/-- SAFETY_VOTE (R396): the release of the lanes' decisions in flow 0 and the hubs' vote; `d` holds what each lane decides beyond the
shared state. Lanes whose dispatcher is choked release nothing (R361), and each decision enters its lane's digest (R38). -/
def safetyVote (d : Vector Decisions 3) (s : State) : State :=
  if s.boot.admitted = false ∨ s.tds.choked = true then s
  else
    let base := laneDemands s
    let of := fun (l : Lane) => (⟨base.ss1 ||| (d[l]).ss1, base.sto ||| (d[l]).sto⟩ : Decisions)
    let v := voteDecisions ((lanesIn s).map of)
    let s1 := forEach (lanesIn s) (fun l t => foldDigest l 0 (releaseKey 0 0) (some ((of l).sto ++ (of l).ss1 |>.setWidth 64)) t) (count .tds 0 1 s)
    let s1 := forEach (allArms.filter fun (a : Arm) => v.1.sto.getLsbD a.val) (decideSto 1) s1
    let s1 := forEach (allArms.filter fun (a : Arm) => v.1.ss1.getLsbD a.val && !v.1.sto.getLsbD a.val) (fun a t => demandSs1 (ss1Cause s a) a t) s1
    if laneCount s = 0 then cellSto 8 s1
    else if v.2 || laneCount s == 1 then cellSs1 8 s1
    else s1

/-- The lanes in step have changed (R40, R397): fewer than two give SS1 for every arm, none gives STO. -/
def lanesLost (s : State) : State :=
  if s.boot.admitted = false then s
  else if laneCount s = 0 then cellSto 8 s
  else if laneCount s = 1 then cellSs1 8 s
  else s

-- Resets (R417)

/-- Whether a demand for an arm remains (R417); a latched fault's readback is a free value. [DEDUCED, log 73] -/
def demandRemains (s : State) (a : Arm) : Bool :=
  let lost := (s.sdp.fb[a]).lost
  let faulted := (s.saf.out.fault.getLsbD a.val || s.saf.out.fault.getLsbD (16 + a.val)) && Config.freeBit s.clk.free
  s.saf.demanded.getLsbD a || (inputArms s 1 ||| inputArms s 2).getLsbD a || faulted ||
  (decide (0 < fbSs1 s) && decide (fbSs1 s ≤ lost)) || decide (laneCount s < 2) || !wlUp s || s.saf.svcOver

/-- A reset acts on one arm and sets `RSTSEEN`, or is ignored (R417). [DEDUCED, log 72] -/
def resetArm (a : Arm) (s : State) : State :=
  if (s.saf.arm[a]).st < 2 then s
  else if demandRemains s a then count .saf 0 5 (drawFree s).2
  else
    let s := count .saf 0 4 (irq .saf 0 safReset (drawFree s).2)
    let s := if (s.saf.arm[a]).st = 2 then brakeOn a s else s
    let s := modOut (fun o => { o with stoPend := putBit o.stoPend a.val true, fault := putBit (putBit o.fault a.val false) (16 + a.val) false }) s
    let s := modSaf (fun u => { u with rstSeen := true }) s
    dropPlan a (modArmSaf a (fun r => { r with st := 0, cause := 0, noss1 := false, sbcAt := none, slsRun := 0 }) s)

/-- A valid reset clears faulted inputs whose channels have been off together (R408). [DEDUCED, log 75] -/
def clearInputFaults (s : State) : State := modSaf (fun u => { u with inFault := u.inFault &&& ~~~u.bothOff, bothOff := 0 }) s

/-- A valid reset of the arms of a mask (R408, R417, R537); the latched faults of the cell outputs clear where the readback agrees.
[DEDUCED, log 75] -/
def actReset (m : BitVec 12) (s : State) : State :=
  if safSeen s then
    let s := clearInputFaults (count .sio 0 5 s)
    let s := forEach [12, 13, 14, 15] (fun o s =>
      if s.saf.out.fault.getLsbD o then
        let k := drawFree s
        if Config.freeBit k.1 then k.2 else modOut (fun x => { x with fault := putBit x.fault o false }) k.2
      else s) s
    releaseSo (forEach (allArms.filter fun (a : Arm) => m.getLsbD a.val) resetArm s)
  else count .sio 0 6 s

/-- At a sync instant the STO pairs of reset arms switch on (R417, R538), and brakes release (R400). -/
def outputsSync (s : State) : State :=
  let s := releaseSo s
  let s := if motionEnabled s then
      modOut (fun o => { o with stoA := o.stoA ||| o.stoPend, stoB := o.stoB ||| o.stoPend, stoPend := 0 }) s
    else s
  forEach allArms (fun a s =>
    let joints := presentJoints s a
    let on := s.saf.out.stoA.getLsbD a && s.saf.out.stoB.getLsbD a
    let enabled := (s.sdp.fb[a]).present && joints.all fun j => field (s.sdp.joint[j]).rxBits 1 0 == 3
    if decide ((s.saf.arm[a]).st ≤ 1) && motionEnabled s && on && enabled && !joints.isEmpty then
      modOut (fun o => { o with sbc := putBit o.sbc a.val true }) s
    else s) s

/-- `ARMST` of an arm (R430). [DEDUCED, log 72] -/
def armstWord (s : State) (a : Arm) : Word :=
  let x := s.saf.arm[a]
  let ms := if x.t0ns = 0 then 0 else min 65535 ((nsOf s - x.t0ns) / 10 ^ 6)
  BitVec.ofNat 32 (ms * 2 ^ 16 + x.cause * 2 ^ 12 + b2n x.noss1 * 2 ^ 10 + b2n (s.play[a]).csp * 2 ^ 9 + b2n x.sls * 2 ^ 8 + x.st)

/-- `ARMV` of an arm (R430). -/
def armvWord (s : State) (a : Arm) : Word := BitVec.ofNat 32 ((s.saf.arm[a]).limit * 65536 + (s.saf.arm[a]).speed)

/-- `MOTION` (R430). -/
def motionWord (s : State) : Word :=
  BitVec.ofNat 32 (b2n s.saf.rstSeen * 8 + b2n (wlUp s) * 4 + b2n (decide (2 ≤ laneCount s)) * 2 + b2n (motionEnabled s))

/-- SAFETY_VOTE. -/
def execSafetyVote (d : Vector Decisions 3) (s : State) : Host.Outcome State Fault Refusal := run (safetyVote d) s
/-- STANDSTILL. -/
def execStandstill (a : Arm) (s : State) : Host.Outcome State Fault Refusal := run (standstill a) s
/-- SBC_DELAY_EXPIRY. -/
def execSbcDelayExpiry (a : Arm) (s : State) : Host.Outcome State Fault Refusal := run (sbcDelayExpiry a) s
/-- SS1_TIME_LIMIT. -/
def execSs1TimeLimit (a : Arm) (s : State) : Host.Outcome State Fault Refusal := run (ss1TimeLimit a) s
/-- FEEDBACK_LOST_SS1. -/
def execFeedbackLostSs1 (a : Arm) (s : State) : Host.Outcome State Fault Refusal := run (feedbackLostSs1 a) s
/-- FEEDBACK_LOST_STO. -/
def execFeedbackLostSto (a : Arm) (s : State) : Host.Outcome State Fault Refusal := run (feedbackLostSto a) s
/-- SLS_VIOLATION. -/
def execSlsViolation (a : Arm) (s : State) : Host.Outcome State Fault Refusal := run (slsViolation a) s

end Sys2Proof.Machine
end

