-- ==== Sys2Proof/Machine/Qp.lean ====
section
/-! DEFINITION. The programme of a plan: stage 0, warm start, kinematics of the warm start, separation slots and normals, bounds,
objective and rows (R231 to R258, R307, R404). -/

namespace Sys2Proof.Machine

/-- Change Plefin. -/
def modPlf (f : Plefin → Plefin) (s : State) : State := { s with plf := f s.plf }

/-- The active pattern bank. [DESIGN CHOICE, log 103] -/
def pattern (s : State) : Option Pattern := s.plf.banks[s.plf.act]

-- Which arms a plan moves (R255, R404)

/-- An arm under an SS1 stop for the pinning: with `CSP`, only once a coordinated stop plan is in force or two plan-cycle starts
have passed (R404). -/
def ss1Pinned (s : State) (a : Arm) : Bool :=
  (s.saf.arm[a]).st == 1 && (!bit (acfg s a 2) 31 || (s.play[a]).csp || decide (2 ≤ (s.play[a]).cspWait))

/-- A pinned arm (R255); an arm that is held may be moved again by the next plan accepted (R296, R303). -/
def pinned (s : State) (a : Arm) : Bool := assisted s .arm a || ss1Pinned s a || (s.play[a]).stopping

/-- The arms that a plan computed now would move. -/
def movableArms (s : State) : List Arm := allArms.filter fun a => (armModel s a).isSome && !pinned s a

/-- Whether the running plan moves an arm: as its plan-cycle start found it (R255). [DESIGN CHOICE, log 108] -/
def planMoves (s : State) (a : Nat) : Bool := s.plf.moved.getLsbD a

/-- A coordinated stop plan for an arm: under SS1 and not pinned (R404). -/
def cspPlan (s : State) (a : Arm) : Bool := planMoves s a.val && (s.saf.arm[a]).st == 1

-- The trajectory ahead (R233, R255, R303)

/-- The state that an arm plays, in the τ-derivatives of a step of `dur` bus cycles: position, first and second derivative,
LSB 2⁻⁴⁴ turn (R332). -/
def playedState (p : ArmPlay) (dur k : Nat) : Option (Int × Int × Int) :=
  match planPoint p k, p.segs.head? with
  | some w, some g =>
    let b := (p.beta : Int)
    let n := (dur : Int)
    let d := ((max 1 g.dur : Nat) : Int)
    let bend := (b - (p.betaPrev : Int)) * d * w.q1 * 2 ^ 31
    some (w.q, b * w.q1 * n / (2 ^ 31 * d), (b * b * w.q2 + bend) * n * n / (2 ^ 62 * d * d))
  | _, _ => none

/-- What an arm plays a bus cycle on, or half of one, `k` bus cycles after the present sync instant, with κ as it stands (R330, R331). -/
def playStep (s : State) (p : ArmPlay) (k : Nat) (half : Bool) : ArmPlay :=
  let beta := alphaQ31 (alphaAt p (busSeconds s (k + 1))).1 * p.kappa / 2 ^ 31
  let dur := match p.segs.head? with
    | some g => g.dur
    | none => 1
  let d := (p.beta + beta) * (2 ^ 32 / max 1 dur) / 2 ^ 32
  let r := advancePlan p.segs p.tau (if half then d / 2 else d)
  { p with segs := r.1, tau := r.2.1, beta := beta, betaPrev := p.beta, splice := if r.1.length = p.segs.length then p.splice else [] }

/-- What an arm plays `k` bus cycles on. -/
def playAhead (s : State) (p : ArmPlay) : Nat → ArmPlay
  | 0 => p
  | k + 1 => playStep s (playAhead s p k) k false

/-- What an arm plays `k` half bus cycles on. [DESIGN CHOICE, log 108] -/
def playHalf (s : State) (p : ArmPlay) (k : Nat) : ArmPlay :=
  let q := playAhead s p (k / 2)
  if k % 2 = 1 then playStep s q (k / 2) true else q

/-- The commanded position of a joint, LSB 2⁻⁴⁴ turn. -/
def heldPos (s : State) (a : Arm) (k : Nat) : Int := (s.sdp.joint[armJoint a k]).posNow * 2 ^ 24

/-- What an arm plays half a step `i` of plan k on: from the next plan-cycle start. Direct segments taken now follow the chain, or start
there (R227, R255). -/
def playedPoint (s : State) (a : Arm) (i : Nat) : ArmPlay :=
  let p := s.play[a]
  let more := if assisted s .arm a then p.next.getD [] else []
  if p.segs.isEmpty || p.ended then playHalf s { p with segs := more, tau := 0, ended := false } (planBus s * i)
  else playHalf s { p with segs := p.segs ++ more } (planBus s * (2 + i))

/-- The positions that an arm will play at the stages and midpoints of the plan, stage 0 first (R255). -/
def playedAhead (s : State) (a : Arm) (n : Nat) : List (List Int) :=
  (List.range (2 * n + 1)).map fun i =>
    (List.range (armJoints s a)).map fun k => ((planPoint (playedPoint s a i) k).map (·.q)).getD (heldPos s a k)

/-- Progress and progress rate of an arm that plays `q` (R238). -/
def playedRate (s : State) (a : Arm) (q : ArmPlay) : F64 × F64 :=
  match q.segs.head? with
  | some g =>
    let t := dOfScaled q.tau (-32)
    let slope := dSub g.prog.2.2 g.prog.2.1
    let mean := dAdd g.prog.2.1 (dDiv (dMul t slope) (dOfInt 2))
    (dAdd g.prog.1 (dMul (dMul (busSeconds s g.dur) t) mean), dMul (dOfScaled q.beta (-31)) (dAdd g.prog.2.1 (dMul t slope)))
  | none => ((s.ring[a]).pathT, 0)

/-- The commanded state and the progress at the next plan-cycle start, as the plan in force gives them now (R233, R238, R240).
[DEDUCED, log 93] -/
def predictStage0 (a : Arm) (s : State) : State :=
  let p := s.play[a]
  let q := playAhead s p (planBus s)
  let s := modPlf (fun x => { x with s0 := vset x.s0 a (playedRate s a q) }) s
  modPlay a (fun p => { p with stage0 := if p.segs.isEmpty then []
    else (List.range (armJoints s a)).map fun k => (playedState q (planBus s) k).getD (heldPos s a k, 0, 0) }) s

/-- Stage 0 of an arm that starts from rest is its measured joint positions in the bundle of bus cycle 4k; a pinned one rests at its
commanded joints (R233, R255). [DESIGN CHOICE, log 90] -/
def restStage0 (a : Arm) (s : State) : State :=
  if (s.play[a]).segs.isEmpty then
    let js := mantisJoints s
    modPlay a (fun p => { p with stage0 := (List.range (armJoints s a)).map fun k =>
      (if planMoves s a.val then js[armJoint a k] * 2 ^ 24 else heldPos s a k, 0, 0) }) s
  else s

/-- Stage 0 of a joint: position, h times velocity, h² times acceleration, LSB 2⁻⁴⁴ turn. -/
def stageZero (s : State) (a : Arm) (k : Nat) : Int × Int × Int := (s.play[a]).stage0.getD k (heldPos s a k, 0, 0)

/-- The length of a step, s (R232). -/
def stepSeconds (s : State) : F64 := busSeconds s (planBus s)

/-- Radians of a position of LSB 2⁻⁴⁴ turn. -/
def radFine (x : Int) : F64 := dMul (dOfScaled x (-44)) twoPi

/-- Stage 0 of a joint in rad, rad/s, rad/s². -/
def stageRad (s : State) (a : Arm) (k : Nat) : F64 × F64 × F64 :=
  let z := stageZero s a k
  let h := stepSeconds s
  (radFine z.1, dDiv (radFine z.2.1) h, dDiv (radFine z.2.2) (dMul h h))

-- Identities of rows (R236, R243, R272)

/-- Whether an identity is a variable. -/
def KktId.isVar : KktId → Bool
  | .q _ _ _ => true
  | .v _ _ _ => true
  | .w _ _ _ => true
  | .jerk _ _ _ => true
  | .s _ _ => true
  | .sd _ _ => true
  | .e _ _ _ => true
  | .tau _ _ _ => true
  | .sigma _ _ => true
  | .init _ _ => false
  | .dyn _ _ _ _ => false
  | .prog _ _ _ => false
  | .track _ _ _ => false
  | .torque _ _ _ => false
  | .line _ _ _ => false
  | .couple _ _ _ => false
  | .sep _ _ _ => false
  | .csp _ _ _ => false

/-- The stage of an identity (false) or its step (true); none for what stands at stage 0 only. -/
def KktId.time : KktId → Option (Nat × Bool)
  | .q _ _ i => some (i, false)
  | .v _ _ i => some (i, false)
  | .w _ _ i => some (i, false)
  | .jerk _ _ i => some (i, true)
  | .s _ i => some (i, false)
  | .sd _ i => some (i, false)
  | .e _ _ i => some (i, false)
  | .tau _ _ i => some (i, false)
  | .sigma _ i => some (i, true)
  | .init _ _ => none
  | .dyn _ _ _ i => some (i, true)
  | .prog _ _ i => some (i, true)
  | .track _ _ i => some (i, false)
  | .torque _ _ i => some (i, false)
  | .line _ _ i => some (i, false)
  | .couple _ _ i => some (i, false)
  | .sep _ _ i => some (i, true)
  | .csp _ _ _ => none

/-- The same identity at another stage or step. -/
def KktId.moveTo (i : Nat) : KktId → KktId
  | .q a j _ => .q a j i
  | .v a j _ => .v a j i
  | .w a j _ => .w a j i
  | .jerk a j _ => .jerk a j i
  | .s a _ => .s a i
  | .sd a _ => .sd a i
  | .e a r _ => .e a r i
  | .tau a j _ => .tau a j i
  | .sigma c _ => .sigma c i
  | .init a k => .init a k
  | .dyn a j k _ => .dyn a j k i
  | .prog a k _ => .prog a k i
  | .track a r _ => .track a r i
  | .torque a j _ => .torque a j i
  | .line a r _ => .line a r i
  | .couple c r _ => .couple c r i
  | .sep c k _ => .sep c k i
  | .csp a j k => .csp a j k

/-- The arm of a variable; none for a slack. -/
def KktId.arm : KktId → Option Nat
  | .q a _ _ => some a
  | .v a _ _ => some a
  | .w a _ _ => some a
  | .jerk a _ _ => some a
  | .s a _ => some a
  | .sd a _ => some a
  | .e a _ _ => some a
  | .tau a _ _ => some a
  | _ => none

/-- A value by identity; 0 where there is none. -/
def valueOf (l : List (KktId × F64)) (k : KktId) : F64 := ((l.find? fun x => x.1 == k).map (·.2)).getD 0
def holds (l : List (KktId × F64)) (k : KktId) : Bool := l.any fun x => x.1 == k

/-- The last stage or step of a plan for an identity. -/
def PlanSol.last (p : PlanSol) (step : Bool) : Nat := if step then p.n - 1 else p.n

/-- Where the plan in force holds what a new plan needs: shifted by its age, its last stage or step beyond its end; and whether it lies
beyond (R234). -/
def PlanSol.shifted (p : PlanSol) (k : KktId) : KktId × Bool :=
  match k.time with
  | some (i, step) => (k.moveTo (min (p.last step) (i + p.age)), decide (p.last step < i + p.age))
  | none => (k, false)

/-- An arm number. -/
def armNo (a : Nat) : Arm := ⟨a % 12, Nat.mod_lt _ (by decide)⟩

-- Bounds (R240, R244, R250, R255)

/-- The kinematic limits of a joint. -/
def limitOf (s : State) (a j : Nat) : Option JointLimits := (jointLimits s (armNo a))[j]?

/-- 2⁻²⁰ turn in rad. -/
def pinTol : F64 := dMul (dOfScaled 1 (-20)) twoPi

/-- The position of a pinned arm's joint at half step `i` of the plan, rad (R255). -/
def pinnedPos (s : State) (a j i : Nat) : F64 := radFine (((s.plf.traj[armNo a]).getD i []).getD j 0)

/-- Progress s at stage 0 and at the end of the interval that Plefin gets (R240). -/
def progressSpan (s : State) (p : Pattern) (a : Nat) : F64 × F64 :=
  let z := (s.plf.s0[armNo a]).1
  let span := busSeconds s (p.horizon * p.plancyc)
  (z, dAdd z (dAdd span (dDiv span (dOfInt 10))))

/-- The bounds of a variable (R244). -/
def boundsOf (s : State) (p : Pattern) (k : KktId) : Option F64 × Option F64 :=
  let joint := fun a j (f : JointLimits → F64 × F64) => match limitOf s a j with
    | some l => (some (f l).1, some (f l).2)
    | none => (none, none)
  match k with
  | .q a j i =>
    if planMoves s a then joint a j fun l => (radOf l.posMin, radOf l.posMax)
    else let x := pinnedPos s a j (2 * i); (some (dSub x pinTol), some (dAdd x pinTol))
  | .v a j _ => joint a j fun l => (dNeg l.vel, l.vel)
  | .w a j _ => joint a j fun l => (dNeg l.acc, l.acc)
  | .jerk a j _ => joint a j fun l => (dNeg l.jerk, l.jerk)
  | .tau a j _ => joint a j fun l => (l.trqMin, l.trqMax)
  | .s a _ => (some (progressSpan s p a).1, some (progressSpan s p a).2)
  | .sd a _ => (some 0, some (dMin (dOfInt 1) (dOfScaled s.plf.scale[armNo a] (-16))))
  | .sigma _ _ => (some 0, some (dDiv (dOfInt 1) (dOfInt 10)))
  | _ => (none, none)

/-- A value within bounds. -/
def clipTo (b : Option F64 × Option F64) (x : F64) : F64 :=
  let x := match b.1 with
    | some l => dMax l x
    | none => x
  match b.2 with
  | some h => dMin h x
  | none => x

-- The warm start (R234, R307)

/-- A variable at its arm's stage 0; jerk, tracking error and slack 0, torque that of the model at rest there (R234, R307).
[DESIGN CHOICE, log 108] -/
def stageValue (s : State) (k : KktId) : F64 :=
  match k with
  | .q a j _ => (stageRad s (armNo a) j).1
  | .v a j _ => (stageRad s (armNo a) j).2.1
  | .w a j _ => (stageRad s (armNo a) j).2.2
  | .s a _ => (s.plf.s0[armNo a]).1
  | .sd a _ => (s.plf.s0[armNo a]).2
  | .tau a j _ => match armModel s (armNo a), s.arms with
    | some m, some im =>
      let q := (List.range m.links.length).map fun k => (stageRad s (armNo a) k).1
      (biasTorques m s.plf.theta[armNo a] im.gravity q []).getD j 0
    | _, _ => 0
  | _ => 0

/-- A variable of a pinned arm: its trajectory, otherwise as at stage 0 (R255). [DESIGN CHOICE, log 108] -/
def pinnedValue (s : State) (k : KktId) : F64 :=
  match k with
  | .q a j i => pinnedPos s a j (2 * i)
  | .v _ _ _ => 0
  | .w _ _ _ => 0
  | .sd _ _ => 0
  | _ => stageValue s k

/-- A variable of the plan in force, shifted: stage N advanced with zero jerk for a shift of one step, the last stage at zero velocity,
acceleration and jerk for a longer one (R234). [DEDUCED, log 93] -/
def shiftedValue (s : State) (p : Pattern) (sol : PlanSol) (k : KktId) : F64 :=
  let h := stepSeconds s
  let old := sol.shifted k
  let x := valueOf sol.x old.1
  let at_ := fun k => valueOf sol.x (k : KktId)
  let poly := fun v w => dAdd x (dAdd (dMul h v) (dMul (dDiv (dMul h h) (dOfInt 2)) w))
  if !old.2 then x
  else if sol.age ≤ 1 then
    clipTo (boundsOf s p k) (match old.1 with
      | .q a j i => poly (at_ (.v a j i)) (at_ (.w a j i))
      | .v a j i => dAdd x (dMul h (at_ (.w a j i)))
      | .jerk _ _ _ => 0
      | .s a i => dAdd x (dMul h (at_ (.sd a i)))
      | _ => x)
  else match k with
    | .v _ _ _ => 0
    | .w _ _ _ => 0
    | .jerk _ _ _ => 0
    | .sd _ _ => 0
    | _ => x

/-- Whether the plan in force holds a counterpart of a variable under a new bank (R307). -/
def counterpart (sol : PlanSol) (k : KktId) : Bool := holds sol.x k && !(k matches .sigma _ _)

/-- The value of a variable at the warm start (R234, R255, R307). -/
def warmValue (s : State) (p : Pattern) (k : KktId) : F64 :=
  let fromPlan := match s.plf.plan with
    | some sol => if s.plf.fresh && !counterpart sol k then stageValue s k else shiftedValue s p sol k
    | none => stageValue s k
  match k.arm with
  | some a =>
    if !planMoves s a then pinnedValue s k
    else if (s.play[armNo a]).segs.isEmpty then stageValue s k
    else fromPlan
  | none => fromPlan

/-- A dual at the warm start: shifted; κ under a new bank; 0 without a plan (R234, R307). [DESIGN CHOICE, log 108] -/
def warmDual (s : State) (p : Pattern) (pick : PlanSol → List (KktId × F64)) (k : KktId) : F64 :=
  if s.plf.fresh then dOfF p.push
  else match s.plf.plan with
    | some sol => valueOf (pick sol) (sol.shifted k).1
    | none => 0

/-- The joint variables of an arm at a stage of the warm start. -/
def warmStage (s : State) (p : Pattern) (a i : Nat) : List F64 × List F64 × List F64 :=
  let js := List.range (armJoints s (armNo a))
  (js.map fun j => warmValue s p (.q a j i), js.map fun j => warmValue s p (.v a j i), js.map fun j => warmValue s p (.w a j i))

/-- The coefficients of a step midpoint: of position, velocity, acceleration and jerk at the start of the step (R247). -/
def midCoeffs (h : F64) : List F64 :=
  [dOfInt 1, dDiv h (dOfInt 2), dDiv (dMul h h) (dOfInt 8), dDiv (dMul (dMul h h) h) (dOfInt 48)]

/-- The variables of a joint that a midpoint takes. -/
def midVars (a j i : Nat) : List KktId := [.q a j i, .v a j i, .w a j i, .jerk a j i]

/-- The positions at a step midpoint of the warm start (R247, R255). -/
def warmMid (s : State) (p : Pattern) (a i : Nat) : List F64 :=
  (List.range (armJoints s (armNo a))).map fun j =>
    if planMoves s a then a64.dotL (midCoeffs (stepSeconds s)) ((midVars a j i).map (warmValue s p)) else pinnedPos s a j (2 * i + 1)

/-- The velocities there. -/
def warmMidRate (s : State) (p : Pattern) (a i : Nat) : List F64 :=
  let h := stepSeconds s
  (List.range (armJoints s (armNo a))).map fun j =>
    a64.dotL [dOfInt 1, dDiv h (dOfInt 2), dDiv (dMul h h) (dOfInt 8)]
      [warmValue s p (.v a j i), warmValue s p (.w a j i), warmValue s p (.jerk a j i)]

-- The kinematics of the warm start (R257, R258)

/-- The volumes of an arm that are present. -/
def armVols (s : State) (a : Arm) : List (Nat × Volume) :=
  match mantisBank s with
  | some b => b.vols.filter fun v => v.2.owner == a.val && armVolume s v.2
  | none => []

/-- The 2N + 1 configurations of one arm (R258). -/
def armConfigs (s : State) (p : Pattern) (m : ArmModel) (g : V3 F64) (a : Arm) : Nat × List KinConfig × List KinConfig :=
  let unit := kinConfig m (s.ring[a]).tool s.plf.theta[a] g (armVols s a)
  (a.val, (List.range (p.horizon + 1)).map (fun i => let w := warmStage s p a.val i; unit true w.1 w.2.1),
    (List.range p.horizon).map fun i => unit false (warmMid s p a.val i) (warmMidRate s p a.val i))

/-- The configurations of every arm. -/
def warmConfigs (s : State) (p : Pattern) (im : ArmsImage) : List (Nat × List KinConfig × List KinConfig) :=
  allArms.filterMap fun a => (armModel s a).map fun m => armConfigs s p m im.gravity a

/-- The configuration of an arm at a stage, and at a midpoint. -/
def kinStage (s : State) (a i : Nat) : Option KinConfig := (assoc s.plf.kin a).bind fun x => x.1[i]?
def kinMid (s : State) (a i : Nat) : Option KinConfig := (assoc s.plf.kin a).bind fun x => x.2[i]?

-- Separation slots (R246 to R249)

/-- The arms of a pair of the pair table: the first volume's and the second's, 12 for a fixture. -/
def pairArms (b : MantisBank) (p : Pair) : Nat × Nat :=
  let own := fun i => match assoc b.vols i with
    | some v => v.owner
    | none => 12
  (own p.u, if p.cls = 3 then 12 else own p.v)

/-- Put a candidate among sorted candidates: by distance minus margin, then by pair index (R249). -/
def insertPair (x : Nat × F32) : List (Nat × F32) → List (Nat × F32)
  | [] => [x]
  | y :: r => if fLt x.2 y.2 || (!fLt y.2 x.2 && decide (x.1 < y.1)) then x :: y :: r else y :: insertPair x r

/-- Candidates of a slot group in order: published pairs no farther than the selection distance (R249). -/
def candidates (s : State) (b : MantisBank) (g : Nat × Nat × Nat) : List (Nat × F32) :=
  s.plf.dist.foldl (fun l x => match assoc b.pairs x.1, s.arms with
    | some p, some im =>
      let w := pairArms b p
      let d := fSub x.2 (mm10 p.margin)
      if ((w.1 == g.1 && w.2 == g.2.1) || (w.1 == g.2.1 && w.2 == g.1)) && dLe (dOfF d) im.selDist then insertPair (x.1, d) l else l
    | _, _ => l) []

/-- Fill the slots of the groups in order, the first slot of a group after the last of the group before it (R246, R249). -/
def fillGroups (s : State) (b : MantisBank) : Nat → List (Nat × Nat × Nat) → List (Nat × Nat)
  | _, [] => []
  | n, g :: r => (((candidates s b g).take g.2.2).zipIdx n).map (fun x => (x.2, x.1.1)) ++ fillGroups s b (n + g.2.2) r

/-- Slots filled and candidates missed in the groups of an arm. -/
def slotCounts (s : State) (b : MantisBank) (p : Pattern) (a : Arm) : Nat × Nat :=
  (p.groups.filter fun g => g.1 == a.val || g.2.1 == a.val).foldl (fun x g =>
    let n := (candidates s b g).length
    (x.1 + min n g.2.2, x.2 + (n - g.2.2))) (0, 0)

/-- A volume at a configuration: its two end points, with the link that carries it; a fixture stands in the cell frame. -/
structure AxisAt where
  p1 : V3 F64
  p2 : V3 F64
  rad : F64
  arm : Option (Nat × Nat)
  deriving DecidableEq, Repr

/-- The axis of a volume with the configuration of its arm (R247). -/
def axisAt (cfg : Nat → Option KinConfig) (i : Nat) (v : Volume) : Option AxisAt :=
  if v.owner < 12 then
    (cfg v.owner).bind fun c => (c.vols.find? fun x => x.vol == i).map fun x => ⟨x.p1, x.p2, dOfF v.rad, some (v.owner, x.link)⟩
  else some ⟨a64.ofList (v.p1.map dOfF), a64.ofList (v.p2.map dOfF), dOfF v.rad, none⟩

/-- The configurations of separation row `k` of step `i`: stage i + 1, or the midpoint (R247). -/
def sepConfig (s : State) (k i : Nat) (a : Nat) : Option KinConfig := if k = 0 then kinStage s a (i + 1) else kinMid s a i

/-- The two axes of a pair for a separation row. -/
def sepAxes (s : State) (b : MantisBank) (pair k i : Nat) : Option (AxisAt × AxisAt × Pair) :=
  match assoc b.pairs pair with
  | some p => match assoc b.vols p.u, assoc b.vols p.v with
    | some u, some v => match axisAt (sepConfig s k i) p.u u, axisAt (sepConfig s k i) p.v v with
      | some x, some y => some (x, y, p)
      | _, _ => none
    | _, _ => none
  | none => none

/-- The normal of a separation row: from the closest point of v to that of u; where they lie closer than 1 µm, that of the same pair in
the previous plan, or +z (R247, R248). -/
def sepNormal (s : State) (pair k i : Nat) (c : V3 F64 × V3 F64) : V3 F64 :=
  let d := a64.vsub c.1 c.2
  if dLt (a64.norm d) micro then ((s.plf.normals.find? fun x => x.1 == (pair, k, i)).map (·.2)).getD ⟨0, 0, dOfInt 1⟩
  else a64.dir d

/-- The normals of every row of the filled slots. -/
def sepNormals (s : State) (b : MantisBank) (p : Pattern) (slots : List (Nat × Nat)) : List ((Nat × Nat × Nat) × V3 F64) :=
  slots.flatMap fun x => (List.range p.horizon).flatMap fun i => [0, 1].filterMap fun k =>
    (sepAxes s b x.2 k i).map fun y => ((x.2, k, i), sepNormal s x.2 k i (a64.closest y.1.p1 y.1.p2 y.2.1.p1 y.2.1.p2))

-- Rows (R237 to R254)

/-- An inactive row (R242). -/
def offRow : KktRow := ⟨[], some 0, some 0, true, false⟩

/-- An equality, a range, and a lower bound. -/
def eqRow (t : List (KktId × F64)) (x : F64) : KktRow := ⟨t, some x, some x, true, true⟩
def rangeRow (t : List (KktId × F64)) (lo hi : F64) : KktRow := ⟨t, some lo, some hi, false, true⟩
def lowRow (t : List (KktId × F64)) (lo : F64) : KktRow := ⟨t, some lo, none, false, true⟩

/-- The row that equals `x`, `terms` being the part that is linear about the warm start: Σ g·(k − k̄). -/
def aboutWarm (s : State) (p : Pattern) (g : List (KktId × F64)) : F64 := g.foldl (fun t k => dAdd t (dMul k.2 (warmValue s p k.1))) 0

/-- The initial-state row `k` of an arm: q, q̇, q̈ of joint k / 3, then s and ṡ (R233, R240, R243). -/
def initRow (s : State) (a k : Nat) : KktRow :=
  let z := stageRad s (armNo a) (k / 3)
  let one := fun (v : KktId) x => eqRow [(v, dOfInt 1)] x
  if k = 24 then one (.s a 0) (s.plf.s0[armNo a]).1
  else if k = 25 then one (.sd a 0) (s.plf.s0[armNo a]).2
  else if k % 3 = 0 then one (.q a (k / 3) 0) z.1
  else if k % 3 = 1 then one (.v a (k / 3) 0) z.2.1
  else one (.w a (k / 3) 0) z.2.2

/-- The joint dynamics of a step (R237). -/
def jointDynRow (h : F64) (a j k i : Nat) : KktRow :=
  let h2 := dDiv (dMul h h) (dOfInt 2)
  let h3 := dDiv (dMul (dMul h h) h) (dOfInt 6)
  let one := dOfInt 1
  let neg := fun x => dNeg x
  eqRow (if k = 0 then
      [(.q a j (i + 1), one), (.q a j i, neg one), (.v a j i, neg h), (.w a j i, neg h2), (.jerk a j i, neg h3)]
    else if k = 1 then [(.v a j (i + 1), one), (.v a j i, neg one), (.w a j i, neg h), (.jerk a j i, neg h2)]
    else [(.w a j (i + 1), one), (.w a j i, neg one), (.jerk a j i, neg h)]) 0

/-- The progress dynamics and acceleration of a step (R238). -/
def progRow (h aS : F64) (a k i : Nat) : KktRow :=
  let half := dDiv h (dOfInt 2)
  let one := dOfInt 1
  if k = 0 then eqRow [(.s a (i + 1), one), (.s a i, dNeg one), (.sd a i, dNeg half), (.sd a (i + 1), dNeg half)] 0
  else rangeRow [(.sd a (i + 1), one), (.sd a i, dNeg one)] (dNeg (dMul h aS)) (dMul h aS)

/-- The torque definition (R245). -/
def torqueRow (c : KinConfig) (a j i : Nat) : KktRow :=
  eqRow ((.tau a j i, dOfInt 1) :: c.mass.zipIdx.map fun m => (.w a m.2 i, dNeg (m.1.getD j 0))) (c.bias.getD j 0)

/-- Whether progress lies at the end of an arm's path, where it rests. -/
def atPathEnd (g : ArmRing) (x : F64) : Bool := g.path.isEmpty || dLe (pathEnd g.pathT g.path) x

/-- The reference of an arm at progress `x` and stage `i` in the cell frame: the piece there, or the rest pose as a TCP pose; a line-frame
target is placed by the predicted phase (R242, R251). [DEDUCED, log 108] -/
def referenceAt (s : State) (a : Arm) (x : F64) (i : Nat) : RefPoint :=
  let g := s.ring[a]
  let cell := fun (r : RefPoint) => match r.ref, r.line, g.tracking with
    | .pose o q, true, some f => { r with ref := .pose (a64.vadd o (originAhead s f i)) q, line := false }
    | _, _, _ => r
  let rest := fun (x : PathRef) line => let y := asPose s a x; cell ⟨.pose y.1 y.2, List.replicate 6 0, line⟩
  match pathAt g.pathT x g.path with
  | some r => if atPathEnd g x then rest r.ref r.line else cell r
  | none => rest (.joints ((List.range (armJoints s a)).map fun k => (stageRad s a k).1)) false

/-- Modified Gram–Schmidt: what is left of a vector after its parts along unit vectors. [DESIGN CHOICE, log 108] -/
def orthTo (basis : List (List F64)) (v : List F64) : List F64 :=
  basis.foldl (fun v b => let k := a64.dotL b v; List.zipWith (fun x y => dSub x (dMul k y)) v b) v

/-- Extend an orthonormal basis by a vector; one that leaves less than 2⁻²⁰ of its length is dropped. -/
def extendBasis (basis : List (List F64)) (v : List F64) : List (List F64) :=
  let r := orthTo basis v
  let n := norm64 r
  if dLe n (dMul (dOfScaled 1 (-20)) (norm64 v)) then basis else basis ++ [r.map fun x => dDiv x n]

/-- The rows of a Jacobian. -/
def jacRows (J : List (V3 F64 × V3 F64)) : List (List F64) :=
  let col := J.map fun c => c.1.toList ++ c.2.toList
  (List.range 6).map fun r => col.map fun c => c.getD r 0

/-- Unit vectors of the null space of the TCP Jacobian of a redundant arm, one for each joint beyond six (R242).
[DESIGN CHOICE, log 108] -/
def nullSpace (J : List (V3 F64 × V3 F64)) : List (List F64) :=
  let n := J.length
  let b := (jacRows J).foldl extendBasis []
  (((List.range n).map (unitVec n)).foldl extendBasis b).drop b.length |>.take (n - 6)

/-- A row that defines tracking error `r`: e = value + Σ g·(q − q̄) − d·(s − s̄) (R242). -/
def errorRow (s : State) (p : Pattern) (a r i : Nat) (g : List F64) (d value : F64) : KktRow :=
  let gq := g.zipIdx.map fun x => (KktId.q a x.2 i, x.1)
  let lin := gq ++ [(.s a i, dNeg d)]
  eqRow ((.e a r i, dOfInt 1) :: lin.map fun x => (x.1, dNeg x.2)) (dSub value (aboutWarm s p lin))

/-- The rotation vector that takes one orientation to another, in the axes of the cell. -/
def turnInCell (src dst : Q4 F64) : V3 F64 := a64.mulV (a64.qmat src) (turnTo src dst)

/-- Tracking row `r` of an arm at stage `i` (R242). [DEDUCED, log 108] -/
def trackRow (s : State) (p : Pattern) (c : KinConfig) (m : ArmModel) (a r i : Nat) : KktRow :=
  let x := warmValue s p (.s a i)
  let ref := referenceAt s (armNo a) x i
  match ref.ref with
  | .joints q =>
    if r < c.q.length then errorRow s p a r i (unitVec c.q.length r) (ref.rate.getD r 0) (dSub (c.q.getD r 0) (q.getD r 0)) else offRow
  | .pose o q =>
    if r < 3 then
      let g := ((jacRows c.jac).getD r []).map fun y => dDiv y m.reach
      errorRow s p a r i g (dDiv (ref.rate.getD r 0) m.reach) (dDiv ((a64.vsub c.tcp.p o).toList.getD r 0) m.reach)
    else if r < 6 then
      errorRow s p a r i ((jacRows c.jac).getD r []) (ref.rate.getD r 0) ((turnInCell q (matQuat c.tcp.r)).toList.getD (r - 3) 0)
    else match (nullSpace c.jac)[r - 6]? with
      | some v => errorRow s p a r i (v.map fun y => dMul (dOfScaled 1 (-5)) y) 0 0
      | none => offRow

/-- Whether an arm is the follower of an active coupling (R253). -/
def follows (s : State) (a : Nat) : Bool := (s.ring[armNo a]).coupled.any fun c => c.rel.isSome

/-- The derivative of the TCP velocity J q̇ with each joint position, linear and angular (R252): the linear part is the column of the
Jacobian's time derivative. [DEDUCED, log 108] -/
def rateSlope (c : KinConfig) (qd : List F64) : List (V3 F64 × V3 F64) :=
  c.jacDot.zipIdx.map fun x =>
    let later := ((c.jac.zip qd).drop (x.2 + 1)).foldl (fun v y => a64.vadd v (a64.scale y.2 y.1.2)) a64.v0
    (x.1.1, a64.cross ((c.jac.map (·.2)).getD x.2 a64.v0) later)

/-- Line-tracking row `r` of an arm at stage `i`: at a stop point of an arm that tracks the line (R252). [DEDUCED, log 108] -/
def lineRow (s : State) (p : Pattern) (c : KinConfig) (m : ArmModel) (a r i : Nat) : KktRow :=
  let g := s.ring[armNo a]
  let stops := atPathEnd g (warmValue s p (.s a i)) && (g.path.getLast?.map (·.line)).getD false
  match g.tracking with
  | some f =>
    if m.lineCap && stops then
      let w := warmStage s p a i
      let js := (jacRows c.jac).getD r []
      let slope := (jacRows (rateSlope c w.2.1)).getD r []
      let gv := js.zipIdx.map fun x => (KktId.v a x.2 i, x.1)
      let gq := slope.zipIdx.map fun x => (KktId.q a x.2 i, x.1)
      let want := (lineVelocity s f).toList.getD r 0
      eqRow (gv ++ gq) (dAdd want (aboutWarm s p gq))
    else offRow
  | none => offRow

/-- Coupling row `r` of a coupling slot at stage `i` (R253). [DEDUCED, log 108] -/
def coupleRow (s : State) (p : Pattern) (leader follower r i : Nat) : KktRow :=
  match kinStage s leader i, kinStage s follower i, (s.ring[armNo follower]).coupled with
  | some l, some f, some c => match c.rel with
    | some t =>
      if c.mask.getLsbD leader && c.mask.getLsbD follower && isLeader (armNo leader) c.mask then
        let off := a64.mulV l.tcp.r t.t
        let lq := matQuat l.tcp.r
        -- the target point moves with the leader's TCP
        let move := l.jac.map fun x => (a64.vadd x.1 (a64.cross x.2 off), x.2)
        let gf := ((jacRows f.jac).getD r []).zipIdx.map fun x => (KktId.q follower x.2 i, x.1)
        let gl := ((jacRows move).getD r []).zipIdx.map fun x => (KktId.q leader x.2 i, dNeg x.1)
        let err := (a64.vsub f.tcp.p (a64.vadd l.tcp.p off)).toList ++ (turnInCell (a64.qmul lq t.q) (matQuat f.tcp.r)).toList
        eqRow (gf ++ gl) (dSub (aboutWarm s p (gf ++ gl)) (err.getD r 0))
      else offRow
    | none => offRow
  | _, _, _ => offRow

/-- The part of a separation row that an arm's motion at one side gives: coefficients of its variables, and their value at the
warm start (R247, R255). -/
def sepSide (s : State) (k i : Nat) (n : V3 F64) (ax : AxisAt) (pt : V3 F64) (sign : F64 → F64) : List (KktId × F64) :=
  match ax.arm with
  | none => []
  | some (a, link) => match armModel s (armNo a), sepConfig s k i a with
    | some m, some c =>
      let g := (a64.jacobian (armChain m) c.frames link pt).map fun x => sign (a64.dot n x.1)
      if k = 0 then g.zipIdx.map fun x => (KktId.q a x.2 (i + 1), x.1)
      else if planMoves s a then
        g.zipIdx.flatMap fun x => ((midVars a x.2 i).zip (midCoeffs (stepSeconds s))).map fun y => (y.1, dMul x.1 y.2)
      else []
    | _, _ => []

/-- Separation row `k` of a slot at step `i` (R247). -/
def sepRow (s : State) (b : MantisBank) (p : Pattern) (dPlan : F64) (slot k i : Nat) : KktRow :=
  match (assoc s.plf.slots slot).bind fun pr => (sepAxes s b pr k i).map fun x => (pr, x) with
  | some (pr, u, v, e) =>
    let c := a64.closest u.p1 u.p2 v.p1 v.p2
    let n := ((s.plf.normals.find? fun x => x.1 == (pr, k, i)).map (·.2)).getD ⟨0, 0, dOfInt 1⟩
    let d := dSub (dSub (a64.norm (a64.vsub c.1 c.2)) u.rad) v.rad
    let g := sepSide s k i n u c.1 id ++ sepSide s k i n v c.2 dNeg
    lowRow (g ++ [(.sigma slot i, dOfInt 1)]) (dAdd (dSub (dAdd (dOfF (mm10 e.margin)) dPlan) d) (aboutWarm s p g))
  | none => offRow

/-- The envelope of R402 at a cell time `cycles` bus cycles after t₀ for a joint, rad/s of its position: the bound of its speed. -/
def envelopeAt (s : State) (a : Arm) (k cycles : Nat) : F64 :=
  let e := envelopeLimit s a k ((s.saf.arm[a]).v0.getD k 0) cycles
  match jointTravel s a k with
  | some t => dDiv e t
  | none => e

/-- The rows that a coordinated stop plan adds for a joint: zero velocity and acceleration at stage N, and each stage's speed within the
envelope (R404). -/
def cspRow (s : State) (p : Pattern) (a j k : Nat) : KktRow :=
  let one := dOfInt 1
  if k = 0 then eqRow [(.v a j p.horizon, one)] 0
  else if k = 1 then eqRow [(.w a j p.horizon, one)] 0
  else
    let i := k - 2
    let t := s.plf.startTag.toNat + (1 + i) * p.plancyc - (s.saf.arm[armNo a]).t0.toNat
    let e := dMax 0 (envelopeAt s (armNo a) j t)
    rangeRow [(.v a j i, one)] (dNeg e) e

/-- The rows of the coordinated stop plans, after the rows of the pattern (R404). [DESIGN CHOICE, log 108] -/
def cspIds (s : State) (p : Pattern) : List KktId :=
  (allArms.filter fun a => cspPlan s a).flatMap fun a => (List.range (armJoints s a)).flatMap fun j =>
    (List.range (p.horizon + 3)).map fun k => KktId.csp a.val j k

/-- A row of the programme (R243). -/
def rowOf (s : State) (p : Pattern) (im : ArmsImage) (k : KktId) : KktRow :=
  let h := stepSeconds s
  let unit := fun (a i : Nat) (f : KinConfig → ArmModel → KktRow) =>
    if planMoves s a then (match kinStage s a i, armModel s (armNo a) with
      | some c, some m => f c m
      | _, _ => offRow) else offRow
  match k with
  | .init a n => initRow s a n
  | .dyn a j n i => if planMoves s a then jointDynRow h a j n i else offRow
  | .prog a n i => if planMoves s a then progRow h im.aS a n i else offRow
  | .track a r i => if follows s a then offRow else unit a i fun c m => trackRow s p c m a r i
  | .torque a j i => unit a i fun c _ => if j < c.bias.length then torqueRow c a j i else offRow
  | .line a r i => unit a i fun c m => lineRow s p c m a r i
  | .couple n r i => match im.couplings[n]? with
    | some (l, f) => if planMoves s l && planMoves s f then coupleRow s p l f r i else offRow
    | none => offRow
  | .sep n r i => match mantisBank s with
    | some b => sepRow s b p im.dPlan n r i
    | none => offRow
  | .csp a j n => cspRow s p a j n
  | _ => offRow

-- The objective (R239, R241)

/-- A weight of an arm: `W_TRK`, `W_PROG`, `W_EFF`, `W_TERM`. -/
def weightOf (s : State) (a i : Nat) : F64 := dOfF ((s.plf.weights[armNo a]).getD i 0)

/-- w_i of a stage. -/
def stageWeight (s : State) (p : Pattern) (a i : Nat) : F64 := if i = p.horizon then weightOf s a 3 else dOfInt 1

/-- A variable of the programme: its bounds, and its part in half of the objective (R241, R280). [DEDUCED, log 108] -/
def varOf (s : State) (p : Pattern) (im : ArmsImage) (k : KktId) : KktVar :=
  let b := boundsOf s p k
  let obj : F64 × F64 × F64 := match k with
    | .e a _ i => (dMul (stageWeight s p a i) (weightOf s a 0), 0, 0)
    | .sd a i => if i = 0 then (0, 0, 0) else (dMul (stageWeight s p a i) (weightOf s a 1), s.plf.rate[armNo a], 0)
    | .jerk a _ _ => (weightOf s a 2, 0, 0)
    | .sigma _ _ => (im.rho2, 0, dDiv im.rho1 (dOfInt 2))
    | _ => (0, 0, 0)
  ⟨b.1, b.2, obj.1, obj.2.1, obj.2.2⟩

/-- The programme of the plan, in the compiled order (R235, R272). -/
def buildProgramme (s : State) (p : Pattern) (im : ArmsImage) : Programme :=
  ⟨(p.order.filter (·.isVar)).map fun k => (k, varOf s p im k),
    ((p.order.filter fun k => !k.isVar) ++ cspIds s p).map fun k => (k, rowOf s p im k)⟩

/-- The warm start before it is moved inside its bounds (R234). -/
def warmIterate (s : State) (p : Pattern) (g : Programme) : Iterate :=
  let vars := g.vars.map (·.1)
  let rows := g.rows.map (·.1)
  let lo := warmDual s p (·.lo)
  let hi := warmDual s p (·.hi)
  { x := vars.map (warmValue s p), xlo := vars.map lo, xhi := vars.map hi, y := rows.map (warmDual s p (·.y))
    w := rows.map fun _ => 0, wlo := rows.map lo, whi := rows.map hi, mu := 0 }

end Sys2Proof.Machine
end

