-- ==== Sys2Proof/Machine/Plefin.lean ====
section
/-! DEFINITION. Plefin: plan-cycle starts, warm start and slots, interior-point steps, the deadline agreement, acceptance and
hand-off, holds and time-scale stops, pattern banks, and the payload identification of the kinematics units (R231 to R309). -/

namespace Sys2Proof.Machine

-- IRQ_STAT bits of the PLF and KIN pages
def plfReject : Nat := 8
def plfHold : Nat := 9
def plfTsStop : Nat := 10
def plfFactFb : Nat := 11
def plfPivSub : Nat := 12
def plfBankSw : Nat := 13
def plfIterCap : Nat := 14
def kinClamp : Nat := 8
def kinPhys : Nat := 9
def kinPreset : Nat := 10
def kinSlotFull : Nat := 11

/-- Change one arm's payload identification. -/
def modIdent (a : Arm) (f : Ident → Ident) (s : State) : State := { s with ident := vmod s.ident a f }

-- Fields of `CFG` in force for the plan (R309)
def ipSteps (s : State) : Nat := field s.plf.cfg 3 0
def kHold (s : State) : Nat := field (reg s .plf 0 Reg.PLF_CFG) 11 8
def iterCap (s : State) : Nat := field s.plf.cfg 25 16

-- Taking over a plan (R271, R329, R333)

/-- The quintic that starts from a difference and reaches zero with zero derivatives (R333). -/
def spliceCoeffs (d0 d1 d2 : Int) : List Int :=
  let h := d2 / 2
  [d0, d1, h, -10 * d0 - 6 * d1 - 3 * h, 15 * d0 + 8 * d1 + 3 * h, -6 * d0 - 3 * d1 - h]

/-- The splice of one joint (R333); none needed where no plan was in force. -/
def spliceOf (p : ArmPlay) (g : Seg) (k : Nat) : List Int :=
  let c := g.c.getD k []
  match playedState p g.dur k with
  | some (q, v, w) => spliceCoeffs (q - c.getD 0 0) (v - c.getD 1 0) (w - 2 * c.getD 2 0)
  | none => [0, 0, 0, 0, 0, 0]

/-- `SDP.SPLICE` and `CNT4` at a plan switch: the largest position difference of the joints of an arm. -/
def recordSplice (a : Arm) (l : List (List Int)) (s : State) : State :=
  let big := (l.zipIdx).foldl (fun (b : Nat × Nat) x => let n := absI (x.1.getD 0 0) / 2 ^ 24; if b.1 < n then (n, x.2) else b) (0, 0)
  let any := l.any fun c => c.any (· != 0)
  let s := if any && decide (fld s .sdp 0 Reg.SDP_SPLICE 15 0 < min 65535 big.1) then
      setReg .sdp 0 Reg.SDP_SPLICE (BitVec.ofNat 32 ((a.val * 8 + big.2) * 65536 + min 65535 big.1)) s
    else s
  countIf any .sdp 0 4 s

/-- Plan torque and mass diagonal at the present instant (R334). -/
def presentTorque (p : ArmPlay) (g : Seg) (nj : Nat) : List Int × List Int :=
  match p.segs.head? with
  | some o => ((List.range nj).map (fun k => lerp (o.tau0.getD k 0) (o.tau1.getD k 0) p.tau),
      (List.range nj).map fun k => lerp (o.m0.getD k 0) (o.m1.getD k 0) p.tau)
  | none => (g.tau0, g.m0)

/-- The accepted segments of an arm replace those of the plan in force (R271). -/
def takeOver (a : Arm) (s : State) : State :=
  if assisted s .arm a then s
  else
    let p := s.play[a]
    match p.next with
    | some (g :: r) =>
      let sp := (List.range (armJoints s a)).map (spliceOf p g)
      let t := presentTorque p g (armJoints s a)
      recordSplice a sp (modPlay a (fun p => { p with
        segs := { g with tau0 := t.1, m0 := t.2 } :: r, next := none, tau := 0, profile := none, ended := false, held := false,
        stopping := false, csp := (s.saf.arm[a]).st == 1, splice := if p.segs.isEmpty then [] else sp }) s)
    | _ => modPlay a (fun p => { p with next := none }) s

-- Direct segments (R227)

/-- Segments taken since the last plan-cycle start join the chain. -/
def mergeDirect (a : Arm) (s : State) : State :=
  modPlay a (fun p => match p.next with
    | some l =>
      if p.ended || p.segs.isEmpty then { p with segs := l, next := none, tau := 0, ended := false }
      else { p with segs := p.segs ++ l, next := none }
    | none => p) s

/-- The plan time of segments, bus cycles with LSB 2⁻³². -/
def segsTime (l : List Seg) : Nat := (l.foldl (fun n g => n + g.dur) 0) * 2 ^ 32

/-- The plan time that remains in the chain, with the segments taken since. -/
def chainLeft (p : ArmPlay) : Nat :=
  (match p.segs with
  | [] => 0
  | g :: r => g.dur * (2 ^ 32 - p.tau) + segsTime r) + segsTime (p.next.getD [])

/-- The plan time that an arm plays in `k` bus cycles, with its time scale as it stands (R227, R331). -/
def timePlayed (s : State) (p : ArmPlay) : Nat → Nat
  | 0 => 0
  | k + 1 => timePlayed s p k + (playAhead s p k).beta + (playAhead s p (k + 1)).beta

/-- The plan time that the chain must hold: to the end of the following plan cycle; an arm at rest plays from the next plan-cycle start. -/
def chainNeed (s : State) (p : ArmPlay) : Nat :=
  let all := timePlayed s p (2 * planBus s)
  if p.segs.isEmpty || p.ended then all - timePlayed s p (planBus s) else all

/-- Whether the taken segments cover the following plan cycle or end at rest (R227). [DEDUCED, log 94] -/
def chainCovers (s : State) (a : Arm) : Bool :=
  let p := s.play[a]
  decide (chainNeed s p ≤ chainLeft p) ||
  p.chain.all fun e => e.2.1 &&& 0x7FFFFFFF == 0 && e.2.2 &&& 0x7FFFFFFF == 0

/-- LATE_SEGMENTS (R227): the condition at a plan-cycle start. [DEDUCED, log 94] -/
def directStart (a : Arm) (s : State) : State :=
  if assisted s .arm a = false ∨ (s.saf.arm[a]).st ≠ 0 ∨ (s.play[a]).stopping then s
  else
    if chainCovers s a then
      if 0 < (s.play[a]).rejects ∧ (s.play[a]).rejects < kHold s then
        let s := if (s.play[a]).held then startRise a s else s
        modPlay a (fun p => { p with rejects := 0, held := false }) s
      else s
    else haLate .arm a 6 (modPlay a (fun p => { p with rejects := p.rejects + 1 }) s)

-- Hold (R297)

/-- An arm enters the hold, or stays in it, at a plan-cycle start. -/
def holdStart (a : Arm) (s : State) : State :=
  let p := s.play[a]
  if 0 < p.rejects ∧ p.rejects < kHold s ∧ p.held = false ∧ p.stopping = false ∧ (s.saf.arm[a]).st = 0 then
    let s := irq .plf 0 plfHold (modPlay a (fun p => { p with held := true }) s)
    if hasTail s a then startFall (stopRate s) a s else s
  else s

/-- HOLD (R297): `CNT2` counts a plan cycle played under a hold. [DEDUCED, log 94] -/
def holdStep (s : State) : State :=
  let s := forEach allArms holdStart s
  countIf (allArms.any fun (a : Arm) => (s.play[a]).held && decide ((s.play[a]).rejects < kHold s)) .plf 0 2 s

-- Payload identification (R259 to R266)

/-- P₀ of an arm. -/
def p0Of (s : State) (a : Arm) : List F64 :=
  match armModel s a with
  | some m => m.p0
  | none => []

/-- A diagonal matrix by rows. -/
def diagonal (d : List F64) : List (List F64) := d.zipIdx.map fun x => (List.range d.length).map fun j => if j = x.2 then x.1 else 0

/-- Restart θ and P from the nominal payload (R264). -/
def restartIdent (a : Arm) (s : State) : State :=
  modIdent a (fun i => { i with theta := toolTheta (s.ring[a]).tool, p := diagonal (p0Of s a) }) s

/-- A tool takes effect at a plan-cycle start (R217, R264). -/
def toolStart (a : Arm) (s : State) : State :=
  match (s.ring[a]).toolNext with
  | some t => restartIdent a (modRing a (fun g => { g with tool := t, toolNext := none }) s)
  | none => s

/-- The consistency test of R262 on ten parameters: the inertia about the centre of mass by the parallel-axis rule of R259; a moment
m·c of 0 adds nothing, also where m is 0. [DEDUCED, log 93] -/
def consistent (t : List F64) : Bool :=
  let g := fun i => t.getD i 0
  let m := g 0
  let sq := fun i => if dEq (g i) 0 then 0 else dDiv (dMul (g i) (g i)) m
  let ixx := dSub (g 4) (dAdd (sq 2) (sq 3))
  let iyy := dSub (g 5) (dAdd (sq 1) (sq 3))
  let izz := dSub (g 6) (dAdd (sq 1) (sq 2))
  dLe 0 m && dLe 0 ixx && dLe 0 iyy && dLe 0 izz &&
  dLe ixx (dAdd iyy izz) && dLe iyy (dAdd ixx izz) && dLe izz (dAdd ixx iyy)

/-- The host's ten parameters. -/
def hostPay (s : State) (a : Arm) : List F32 := (List.range 10).map fun i => reg s .kin a (Reg.KIN_PAY + 4 * i)

/-- Host-assisted parameters at a plan-cycle start (R265). -/
def haStart (a : Arm) (s : State) : State :=
  if assisted s .kin a then
    let s := modIdent a (fun i => { i with haAge := i.haAge + 1 }) s
    if consistent ((hostPay s a).map dOfF) then modIdent a (fun i => { i with haGood := hostPay s a }) s
    else irq .kin a kinPhys s
  else s

/-- KIN_HA_WINDOW_EXPIRY (R265). -/
def kinHaExpiry (a : Arm) (s : State) : State :=
  if assisted s .kin a ∧ fld s .kin a Reg.KIN_HA_CFG 15 0 ≤ (s.ident[a]).haAge then
    haLate .kin a 5 (modIdent a (fun i => { i with haAge := 0 }) s)
  else s

/-- The case of R261 in which the update is skipped; 0 for none. -/
def skipCause (s : State) (a : Arm) : Nat :=
  let js := presentJoints s a
  let f := s.sdp.fb[a]
  if flag s .kin a Reg.KIN_ID_CFG 0 = false then 1
  else if f.present = false ∨ js.any (fun j => !bit (s.sdp.joint[j]).rxBits 0) then 2
  else if bit f.aflags 1 ∨ js.any (fun j => bit (s.sdp.joint[j]).rxBits 4) then 3
  else if js.any (fun j => !fFinite (s.sdp.joint[j]).rxVel || !fFinite (s.sdp.joint[j]).rxTrq) then 4
  else if (s.saf.arm[a]).st = 1 ∨ (s.play[a]).stopping then 5
  else if (s.ring[a]).coupled.isSome then 6
  else if assisted s .arm a ∨ assisted s .kin a then 7
  else 0

/-- Clamp a parameter to its bounds (R262). -/
def clampParam (s : State) (a : Arm) (i : Nat) (x : F64) : F64 :=
  dMax (dOfF (reg s .kin a (Reg.KIN_LO + 4 * i))) (dMin (dOfF (reg s .kin a (Reg.KIN_HI + 4 * i))) x)

/-- `ID_STAT`. -/
def setIdStat (a : Arm) (state : Nat) (s : State) : State := setFld .kin a Reg.KIN_ID_STAT 1 0 state s

/-- What the update takes of an arm's joints: positions, velocities, measured torques, and the commanded accelerations (R260). -/
def identInput (s : State) (a : Arm) : List F64 × List F64 × List F64 × List F64 :=
  let js := (presentJoints s a).map fun j => s.sdp.joint[j]
  (js.map fun x => radOf x.rxPos, js.map fun x => dOfF x.rxVel, js.map fun x => dOfF x.rxTrq,
    js.map fun x => dMul (dOfScaled x.accNext (-12)) twoPi)

/-- λ (R260, R273). -/
def lambdaOf (s : State) (a : Arm) : F64 := dOfScaled (2 ^ 32 - (reg s .kin a Reg.KIN_LAMBDA).toNat : Int) (-32)

/-- The recursive least-squares update of an arm: θ, P and y − Yθ after it (R260). -/
def identStep (s : State) (a : Arm) (m : ArmModel) (grav : V3 F64) : List F64 × List (List F64) × List F64 :=
  let (q, qd, trq, qdd) := identInput s a
  let i := s.ident[a]
  rlsUpdate (lambdaOf s a) i.theta i.p (sub64 trq (armTorques m grav q qd qdd)) (regressor m grav q qd qdd)

/-- The root mean square of a list. -/
def rmsOf (l : List F64) : F64 := dSqrt (dDiv (a64.dotL l l) (dOfInt (l.length : Nat)))

/-- IDENTIFICATION_UPDATE (R260 to R263): the update, or the reason why it is skipped. -/
def identUpdate (a : Arm) (s : State) : State :=
  let c := skipCause s a
  match armModel s a, s.arms with
  | some m, some im =>
    if c ≠ 0 then
      let st := if c = 1 then 0 else if assisted s .kin a then 3 else 2
      count .kin a 1 (setIdStat a st (setFld .kin a Reg.KIN_ID_STAT 15 8 c s))
    else
      let (raw, p, err) := identStep s a m im.gravity
      let th := raw.zipIdx.map fun x => clampParam s a x.2 x.1
      let clamped := th != raw
      let s := setReg .kin a Reg.KIN_RESID (fOfD (rmsOf err)) (setIdStat a 1 s)
      let s := setFlag .kin a Reg.KIN_ID_STAT 4 clamped s
      let s := if clamped then count .kin a 2 (irq .kin a kinClamp s) else s
      if consistent th then
        let exceeds := (m.p0.zipIdx).any fun x => dLt x.1 ((p.getD x.2 []).getD x.2 0)
        let s := count .kin a 0 (modIdent a (fun i => { i with theta := th, p := if exceeds then diagonal m.p0 else p }) s)
        if exceeds then count .kin a 4 (irq .kin a kinPreset s) else s
      else count .kin a 3 (irq .kin a kinPhys s)
  | _, _ => s

/-- `PAY` as read (R265, R273). -/
def payWord (s : State) (a : Arm) (i : Nat) : Word :=
  if assisted s .kin a then reg s .kin a (Reg.KIN_PAY + 4 * i) else fOfD ((s.ident[a]).theta.getD i 0)

-- Coordinated stop plans (R404)

/-- A plan-cycle start passes for an arm under SS1 with `CSP` whose coordinated stop plan is not in force. [DEDUCED, log 94] -/
def cspStart (a : Arm) (s : State) : State :=
  let p := s.play[a]
  if (s.saf.arm[a]).st = 1 ∧ bit (acfg s a 2) 31 ∧ p.csp = false ∧ p.cspWait < 2 then
    countIf (p.cspWait == 1) .saf 0 9 (modPlay a (fun p => { p with cspWait := p.cspWait + 1 }) s)
  else s

-- Plan-cycle start (R231, R232)

/-- The weights of an arm (R241). -/
def weightsOf (s : State) (a : Arm) : List F32 := [Reg.KIN_W_TRK, Reg.KIN_W_PROG, Reg.KIN_W_EFF, Reg.KIN_W_TERM].map fun r => reg s .kin a r

/-- v_a: the override of the `SPEED` record in force times `ARM[a].OVR` / 65,536 (R239). -/
def targetRate (s : State) (a : Arm) : F64 := dMul (dOfF (s.ring[a]).ovr) (dOfScaled (fld s .arm a Reg.ARM_OVR 16 0 : Nat) (-16))

/-- What the plan-cycle start latches for plan k: line phases, v_a, weights, θ, `TOL`, `FLOOR`, and which arms the plan moves
(R239, R241, R251, R255, R266, R309). -/
def latchPlan (s : State) : State :=
  let now := s.plf.phases.head?.getD (linePhase s)
  let moved := maskOf (movableArms s)
  modPlf (fun x => { x with
    phi := (now, (s.plf.phases[4]?).getD now), moved := moved
    rate := Vector.ofFn fun a => targetRate s a, weights := Vector.ofFn fun a => weightsOf s a, theta := Vector.ofFn fun a => payloadTheta s a
    tol := join64 (reg s .plf 0 Reg.PLF_TOL_HI) (reg s .plf 0 Reg.PLF_TOL_LO)
    floor := join64 (reg s .plf 0 Reg.PLF_FLOOR_HI) (reg s .plf 0 Reg.PLF_FLOOR_LO)
    plan := x.plan.map fun p => { p with age := p.age + 1 } }) s

/-- The plan of the plan cycle begins. -/
def beginPlan (s : State) : State :=
  if s.boot.admitted = true ∧ enabled s .plf 0 ∧ (pattern s).isSome then
    modPlf (fun x => { x with
      busy := true, startTag := s.clk.tag, step := 1, pos := 0, fail := false, words := Vector.replicate 3 none, results := []
      prog := none, iterates := [], pivSub := false, factFb := false, warm := false, cfg := reg s .plf 0 Reg.PLF_CFG }) s
  else modPlf (fun x => { x with busy := false }) s

/-- A pinned arm's trajectory ahead, with the segments just taken (R255). -/
def pinAhead (a : Arm) (s : State) : State :=
  match pattern s with
  | some b =>
    let traj := if planMoves s a.val then [] else playedAhead s a b.horizon
    modPlf (fun x => { x with traj := vset x.traj a traj }) s
  | none => s

/-- Direct segments at a plan-cycle start: those taken before join the chain, visible ones are taken, and the cover is judged (R227). -/
def directTake (a : Arm) (s : State) : State :=
  if assisted s .arm a then directStart a (takeIn a (mergeDirect a s)) else s

/-- Records of an arm that Plefin plans are taken at a plan-cycle start (R202). -/
def hardwareTake (a : Arm) (s : State) : State := if assisted s .arm a then s else takeIn a s

/-- PLAN_CYCLE_START for the arms and Plefin; cartridges have their own part. -/
def planStart (s : State) : State :=
  let s := forEach allArms takeOver (setReg .sdp 0 Reg.SDP_SPLICE 0 s)
  let s := { s with ring := s.ring.map fun g => { g with took := 0 } }
  let s := forEach allArms haStart (forEach allArms toolStart s)
  let s := forEach allArms cspStart (holdStep (forEach allArms directTake s))
  let s := forEach allArms predictStage0 (latchPlan s)
  beginPlan (forEach allArms pinAhead (forEach allArms hardwareTake s))

-- Warm start (R234, R249, R250, R258)

/-- SLOT_FILL for one arm (R249). -/
def fillSlots (b : MantisBank) (p : Pattern) (a : Arm) (s : State) : State :=
  let c := slotCounts s b p a
  let s := modPlf (fun x => { x with used := vset x.used a c.1, missed := vset x.missed a c.2 }) s
  let s := setReg .kin a Reg.KIN_SLOTS (BitVec.ofNat 32 (min 255 c.2 * 256 + min 255 c.1)) s
  if 0 < c.2 then count .kin a 7 (irq .kin a kinSlotFull s) else s

/-- Fill every slot group from the distance list of mantis (R249). -/
def fillAll (p : Pattern) (s : State) : State :=
  match mantisBank s with
  | some b => modPlf (fun x => { x with slots := fillGroups s b 0 p.groups }) (forEach allArms (fillSlots b p) s)
  | none => modPlf (fun x => { x with slots := [] }) s

/-- The normals of the filled slots (R247, R248). -/
def takeNormals (p : Pattern) (s : State) : State :=
  match mantisBank s with
  | some b => modPlf (fun x => { x with normals := sepNormals s b p s.plf.slots }) s
  | none => modPlf (fun x => { x with normals := [] }) s

/-- The linearised programme and the iterate before the first step (R235, R279). -/
def linearise (p : Pattern) (im : ArmsImage) (s : State) : State :=
  let g := buildProgramme s p im
  let r := pushedStart p g (warmIterate s p g)
  countBy .plf 0 7 r.2 (modPlf (fun x => { x with prog := some g, iterates := [r.1] }) s)

/-- WARM_START (R234, R235, R249, R250, R258, R279): 52 µs into the plan cycle. [DEDUCED, log 93] -/
def warmStart (s : State) : State :=
  match s.plf.busy && !s.plf.warm, pattern s, s.arms with
  | true, some p, some im =>
    let s := forEach allArms restStage0 (modPlf (fun x => { x with warm := true, scale := s.mnt.kOut }) s)
    let s := fillAll p s
    let s := modPlf (fun x => { x with kin := warmConfigs s p im }) s
    linearise p im (takeNormals p s)
  | _, _, _ => s

-- Interior-point steps (R281 to R290)

/-- What a step adds to the counters and flags of the page (R284, R285, R288 to R290). -/
def recordStep (r : StepResult) (s : State) : State :=
  let s := countBy .plf 0 7 r.flush s
  let s := setReg .plf 0 Reg.PLF_PIVOT_SUBST (reg s .plf 0 Reg.PLF_PIVOT_SUBST + BitVec.ofNat 32 r.subst) s
  let s := irqIf (decide (0 < r.subst)) .plf 0 plfPivSub s
  let s := if r.factFb then count .plf 0 4 (irq .plf 0 plfFactFb s) else s
  let s := if r.capped then count .plf 0 5 (irq .plf 0 plfIterCap s) else s
  let s := countIf r.fail .plf 0 10 s
  modPlf (fun x => { x with pivSub := x.pivSub || decide (0 < r.subst), factFb := x.factFb || r.factFb, results := x.results ++ [r] }) s

/-- INTERIOR_POINT_STEP: one step of the solver from the last iterate (R281). -/
def interiorPointStep (s : State) : State :=
  let x := s.plf
  let p := if x.pos = 2047 then x.step + 1 else x.step
  match pattern s, x.prog, x.iterates.getLast? with
  | some b, some g, some it =>
    if x.busy = true ∧ x.fail = false ∧ p ≤ ipSteps s then
      let r := solverStep b x.tol x.floor (iterCap s) true g it
      let s := recordStep r.2 s
      if r.2.fail then modPlf (fun x => { x with step := p, pos := 1 + r.2.iters, fail := true }) s
      else modPlf (fun x => { x with step := p, pos := 2047, iterates := x.iterates ++ [r.1] }) s
    else s
  | _, _, _ => s

/-- PROGRESS_WORD (R292, R293): a lane's word as the others receive it. [DESIGN CHOICE, log 92] -/
def progressWord (l : Lane) (word : BitVec 15) (fail : Bool) (s : State) : State :=
  if s.plf.busy = true ∧ laneIn s l = true then modPlf (fun x => { x with words := vset x.words l (some (word, fail)) }) s else s

-- Hand-off (R269, R270, R334)

/-- The segment coefficients of one step of a joint, from stage i, stage i + 1 and the jerk in rad; `c0` the rounded position at its start
(R270). -/
def stepCoeffs (h q1 v w j : F64) (c0 : Int) : List Int :=
  let h2 := dDiv (dMul h h) (dOfInt 2)
  let h3 := dDiv (dMul (dMul h h) h) (dOfInt 6)
  let turn := fun x => roundTurns (dDiv x twoPi)
  let c := [c0, turn (dMul h v), turn (dMul h2 w), turn (dMul h3 j), 0]
  c ++ [turn q1 - c.foldl (· + ·) 0]

/-- The coefficients of a joint's steps: each starts where the one before it ends (R270). -/
def jointSegs (h : F64) (x : KktId → F64) (a j : Nat) : Nat → Nat → Int → List (List Int)
  | 0, _, _ => []
  | n + 1, i, c0 =>
    let c := stepCoeffs h (x (.q a j (i + 1))) (x (.v a j i)) (x (.w a j i)) (x (.jerk a j i)) c0
    c :: jointSegs h x a j n (i + 1) (c.foldl (· + ·) 0)

/-- Plan torque and mass diagonal at a stage; stage 0, where no plan is in force, takes those of the model at rest (R334). -/
def stageTorque (s : State) (x : KktId → F64) (a i : Nat) : List Int × List Int :=
  match kinStage s a i with
  | some c =>
    ((List.range c.q.length).map fun j => torqueLsb (if i = 0 then c.bias.getD j 0 else x (.tau a j i)),
      c.mass.zipIdx.map fun m => massLsb (m.1.getD m.2 0))
  | none => ([], [])

/-- The segments of an arm: one per step (R269, R270, R334). -/
def armSegs (s : State) (p : Pattern) (x : KktId → F64) (a : Arm) : List Seg :=
  let cs := (List.range (armJoints s a)).map fun j =>
    jointSegs (stepSeconds s) x a.val j p.horizon 0 (roundTurns (dDiv (x (.q a.val j 0)) twoPi))
  (List.range p.horizon).map fun i =>
    let t0 := stageTorque s x a.val i
    let t1 := stageTorque s x a.val (i + 1)
    ⟨p.plancyc, cs.map fun c => c.getD i [], t0.1, t1.1, t0.2, t1.2, (x (.s a.val i), x (.sd a.val i), x (.sd a.val (i + 1)))⟩

-- The deadline agreement (R291 to R296)

/-- The progress word that the lanes share, and its fail bit (R292). -/
def sharedWord (s : State) : Nat × Bool := (s.plf.step * 2048 + s.plf.pos, s.plf.fail)

/-- The word that a lane sends at the deadline. -/
def laneWord (s : State) (l : Lane) : Nat × Bool :=
  match s.plf.words[l] with
  | some (w, f) => (w.toNat, f)
  | none => sharedWord s

/-- The lowest word, and whether the words differ. -/
def lowestWord : List (Nat × Bool) → Nat × Bool
  | [] => (0, false)
  | [x] => x
  | x :: r => let y := lowestWord r; if y.1 < x.1 then y else x

/-- What the agreement finds: the agreed word, its fail bit, step and position, the iterate of that position and what its step found. -/
structure Agreed where
  word : Nat
  fail : Bool
  step : Nat
  pos : Nat
  iterate : Option Iterate
  last : StepResult
  deriving DecidableEq, Repr

/-- A step not taken. -/
def noStep : StepResult := ⟨0, false, 0, 0, false, 0, false, false⟩

/-- The iterate after `n` complete steps of a plan, from the one before the first (R281). -/
def iterateAfter (s : State) (b : Pattern) (g : Programme) (start : Iterate) : Nat → Iterate × StepResult
  | 0 => (start, noStep)
  | n + 1 => solverStep b s.plf.tol s.plf.floor (iterCap s) true g (iterateAfter s b g start n).1

/-- The agreement over the words sent: the lowest word, and the iterate that every lane then uses: that after the step, or the step finished
with dx_m (R294). -/
def agree (s : State) (l : List (Nat × Bool)) : Agreed :=
  let w := lowestWord l
  let p := w.1 / 2048
  let c := w.1 % 2048
  let found := match pattern s, s.plf.prog, s.plf.iterates.head? with
    | some b, some g, some it =>
      if c = 0 ∨ p = 0 then none
      else if c = 2047 then some (iterateAfter s b g it p)
      else some (solverStep b s.plf.tol s.plf.floor (c - 1) false g (iterateAfter s b g it (p - 1)).1)
    | _, _, _ => none
  ⟨w.1, w.2, p, c, found.map (·.1), (found.map (·.2)).getD noStep⟩

-- Acceptance (R267)

/-- The arm of a row; none for one that names no single arm. -/
def rowArm : KktId → Option Nat
  | .init a _ => some a
  | .dyn a _ _ _ => some a
  | .prog a _ _ => some a
  | .track a _ _ => some a
  | .torque a _ _ => some a
  | .line a _ _ => some a
  | .csp a _ _ => some a
  | k => k.arm

/-- Whether what an identity names belongs to a pinned arm, which tests 3 and 4 leave out (R267). -/
def testSkips (s : State) (k : KktId) : Bool :=
  match rowArm k with
  | some a => !planMoves s a
  | none => false

/-- Test 3: active equality rows meet their right sides within tol_eq. -/
def equalitiesMet (s : State) (tol : F64) (g : Programme) (it : Iterate) : Bool :=
  let x := it.x.toArray
  (g.rows.zip (coefficients g)).all fun r =>
    testSkips s r.1.1 || !r.1.2.active || !r.1.2.eqn ||
      dLe (dAbs (dSub (r.2.foldl (fun t c => dAdd t (dMul c.2 (x.getD c.1 0))) 0) (r.1.2.lo.getD 0))) tol

/-- Test 4: a variable lies within its bounds by at most its tolerance. -/
def varWithin (tol : F64) (k : KktId) (v : KktVar) (x : F64) : Bool :=
  let slack := fun (b : F64) => match k with
    | .q _ _ _ => pinTol
    | .v _ _ _ => dMul tol (dAbs b)
    | .w _ _ _ => dMul tol (dAbs b)
    | .jerk _ _ _ => dMul tol (dAbs b)
    | .tau _ _ _ => dMul tol (dAbs b)
    | _ => 0
  (match v.lo with | some b => dLe (dSub b (slack b)) x | none => true) && (match v.hi with | some b => dLe x (dAdd b (slack b)) | none => true)

def boundsMet (s : State) (tol : F64) (g : Programme) (it : Iterate) : Bool :=
  (g.vars.zip it.x).all fun v => testSkips s v.1.1 || varWithin tol v.1.1 v.1.2 v.2

/-- Test 5: every separation slack is at most σ_tol. -/
def slacksMet (tol : F64) (g : Programme) (it : Iterate) : Bool :=
  (g.vars.zip it.x).all fun v => !(v.1.1 matches .sigma _ _) || dLe v.2 tol

/-- The rejection cause of a plan; 0 when it is accepted (R267, R288, R294, R308). [DEDUCED, log 93] -/
def rejectCause (s : State) (im : ArmsImage) (g : Agreed) : Nat :=
  let pair := match pattern s with
    | some p => p.pairid == mantisBankId s s.mnt.act
    | none => false
  if g.pos = 0 then 7
  else if g.fail || g.last.fail then 6
  else match s.plf.prog, g.iterate with
  | some q, some it =>
    if g.last.passed = false then 1
    else if it.finite = false then 2
    else if equalitiesMet s im.tolEq q it = false then 3
    else if boundsMet s im.tolBnd q it = false then 4
    else if slacksMet im.tolSig q it = false then 5
    else if pair = false then 8
    else 0
  | _, _ => 7

-- Status (R309)

/-- MINRES iterations of the steps used. -/
def stepIters (s : State) (g : Agreed) : List Nat := ((s.plf.results.take (g.step - 1)).map (·.iters)) ++ [g.last.iters]

/-- The solver time in µs: the first assembly ends with the kinematics units, then `T_FACT` and `T_ITER` (R277, R258).
[DEDUCED, log 93] -/
def solveUs (s : State) (g : Agreed) : Nat :=
  match pattern s with
  | some p => ((stepIters s g).foldl (fun n m => n + p.tFact.toNat + m * p.tIter.toNat) 20000) / 1000
  | none => 0

/-- The status registers of the plan (R309). [DEDUCED, log 93] -/
def planStatus (g : Agreed) (cause lanes : Nat) (spread cut : Bool) (s : State) : State :=
  let its := (stepIters s g).foldl (· + ·) 0
  let last := b2n s.plf.pivSub * 2 ^ 26 + b2n cut * 2 ^ 25 + b2n s.plf.factFb * 2 ^ 24 + g.last.iters % 1024 * 2 ^ 12 + g.step % 16 * 256 + cause * 16 + b2n (cause == 0)
  let s := setReg .plf 0 Reg.PLF_LAST (BitVec.ofNat 32 last) s
  let s := setReg .plf 0 Reg.PLF_LAST_TAG (s.plf.startTag.setWidth 32) s
  let s := setReg .plf 0 Reg.PLF_AGREED (BitVec.ofNat 32 (lanes % 4 * 65536 + b2n spread * 32768 + g.word % 32768)) s
  let s := setReg .plf 0 Reg.PLF_RESID (fOfD g.last.resid) s
  let s := setReg .plf 0 Reg.PLF_MU (fOfD ((g.iterate.map (·.mu)).getD 0)) s
  let s := setReg .plf 0 Reg.PLF_ITER_SUM (BitVec.ofNat 32 (its % 16384)) s
  setReg .plf 0 Reg.PLF_SOLVE_US (BitVec.ofNat 32 (solveUs s g % 65536)) s

/-- The arms that the plan moves at its hand-off: none that has come to be pinned since (R255). -/
def movedArms (s : State) : List Arm := allArms.filter fun a => planMoves s a.val && !pinned s a

/-- A rejected plan (R296). -/
def rejectPlan (s : State) : State :=
  let n := fld s .plf 0 Reg.PLF_STAT 27 24
  let moved := movedArms s
  let s := count .plf 0 1 (irq .plf 0 plfReject (setFld .plf 0 Reg.PLF_STAT 27 24 (min 15 (n + 1)) s))
  forEach moved (fun a s => modPlay a (fun p => { p with rejects := p.rejects + 1 }) s) s

/-- The joints whose torque lies within 1 % of a bound at some stage (R273). -/
def torqueActive (s : State) (p : Pattern) (x : KktId → F64) (a : Arm) : Nat :=
  let near := fun (b t : F64) => dLe (dAbs (dSub b t)) (dDiv (dAbs b) (dOfInt 100))
  ((jointLimits s a).zipIdx.filter fun l => (List.range p.horizon).any fun i =>
    let t := x (.tau a.val l.2 (i + 1))
    near l.1.trqMin t || near l.1.trqMax t).foldl (fun m l => m + 2 ^ l.2) 0

/-- The solution that a plan leaves for the warm start of the next (R234). -/
def planSolution (p : Pattern) (g : Programme) (it : Iterate) : PlanSol :=
  let vars := g.vars.map (·.1)
  let rows := g.rows.map (·.1)
  ⟨p.horizon, 0, vars.zip it.x, rows.zip it.y, vars.zip it.xlo ++ rows.zip it.wlo, vars.zip it.xhi ++ rows.zip it.whi⟩

/-- An accepted plan is handed off (R269): its segments take over at the next plan-cycle start. -/
def acceptPlan (p : Pattern) (g : Programme) (it : Iterate) (s : State) : State :=
  let sol := planSolution p g it
  let x := valueOf sol.x
  let moved := movedArms s
  let s := count .plf 0 0 (setFld .plf 0 Reg.PLF_STAT 27 24 0 (modPlf (fun y => { y with plan := some sol }) s))
  forEach moved (fun a s =>
    let act := torqueActive s p x a
    let s := countIf (act != 0) .kin a 6 (setReg .kin a Reg.KIN_TRQ_ACT (BitVec.ofNat 32 act) s)
    let s := countIf ((s.saf.arm[a]).st == 1) .saf 0 8 s
    modPlay a (fun q => { q with rejects := 0, next := some (armSegs s p x a) }) s) s

/-- DEADLINE_AGREEMENT (R294): the words of the lanes in step that send, the finish of a cut step, the tests of R267 and the hand-off. -/
def deadlineAgreement (s : State) : State :=
  let lanes := (lanesIn s).filter fun l => !(s.carts[laneCart l]).mute
  match s.plf.busy, pattern s, s.arms, lanes with
  | true, some p, some im, _ :: _ =>
    let words := lanes.map (laneWord s)
    let g := agree s words
    let cause := rejectCause s im g
    let cut := decide (g.word < ipSteps s * 2048 + 2047)
    -- a step that the deadline cut is recorded as it is finished
    let t := if s.plf.results.length < g.step && g.pos != 0 then recordStep g.last s else s
    let t := planStatus g cause lanes.length (words.any fun w => w.1 != g.word) cut t
    let t := countIf (cut && !g.fail) .plf 0 8 (countIf (cause == 7) .plf 0 6 t)
    let t := match cause, s.plf.prog, g.iterate with
      | 0, some q, some it => acceptPlan p q it t
      | _, _, _ => rejectPlan t
    modPlf (fun x => { x with busy := false, fresh := false }) t
  | _, _, _, _ => modPlf (fun x => { x with busy := false }) s

-- Time-scale stop (R301, R302) and the end of the tail (R300)

/-- One arm enters a time-scale stop; the profile of its hold goes on (R301). [DEDUCED, log 94] -/
def scaledStop (a : Arm) (s : State) : State :=
  let p := s.play[a]
  if p.stopping = false ∧ (s.saf.arm[a]).st = 0 then
    let s := count .plf 0 3 (irq .plf 0 plfTsStop (haltOne 3 a s))
    let s := if p.held = false ∧ hasTail s a then startFall (stopRate s) a s else s
    modPlay a (fun p => { p with stopping := true, held := false, next := none }) s
  else s

/-- TIME_SCALE_STOP (R301), which applies to every arm of the coupling (R222). [DEDUCED, log 94] -/
def timeScaleStop (a : Arm) (s : State) : State :=
  let p := s.play[a]
  if kHold s ≤ p.rejects ∧ p.stopping = false ∧ (s.saf.arm[a]).st = 0 then forEach (coupledArms s a) scaledStop s else s

/-- TIME_SCALE_STOP_END (R302): α has reached 0; the arm starts from rest. -/
def timeScaleStopEnd (a : Arm) (s : State) : State :=
  if (s.play[a]).stopping = true ∧ (hasTail s a = false ∨ alphaQ31 (alphaAt (s.play[a]) 0).1 = 0) then
    modPlay a (fun p => { p with rejects := 0 }) (dropPlan a s)
  else s

/-- TAIL_EXHAUSTED (R300): plan time has reached the end of the tail with α above 0. -/
def tailExhausted (a : Arm) (s : State) : State :=
  let p := s.play[a]
  let falling := match p.profile with
    | some q => !q.rising
    | none => false
  if p.ended = true ∧ falling = true ∧ 0 < alphaQ31 (alphaAt p 0).1 then decideSto 10 a s else s

-- Pattern banks (R305 to R309)

/-- The least `TS_JERK` that a bank allows (R299). -/
def jerkBound (s : State) (p : Pattern) : F64 :=
  let t := segSeconds (busNs s) ((p.horizon - 1) * p.plancyc)
  dDiv (dOfInt 1) (dMul t t)

/-- PLF_GO (R299, R306). [DEDUCED, log 102] -/
def requestPatternSwitch (s : State) : State :=
  match s.plf.banks[other s.plf.act] with
  | none => recordErr .plf 0 0x0100 s
  | some b =>
    if s.plf.pend.isSome then recordErr .plf 0 0x0101 s
    else if dLt (tsJerk s) (jerkBound s b) then recordErr .plf 0 0x0105 s
    else modPlf (fun x => { x with pend := some (s.clk.tag.toNat + planBus s) }) s

/-- Whether the pattern switch is due: a tag that is a multiple of both plan cycles (R306). [DEDUCED, log 102] -/
def patternDue (s : State) : Bool :=
  match s.plf.banks[other s.plf.act] with
  | some b => switchDue s s.plf.pend (planBus s) && s.clk.tag.toNat % max 1 b.plancyc == 0
  | none => false

/-- The pattern banks change places (R306). -/
def switchPattern (s : State) : State :=
  count .plf 0 9 (irq .plf 0 plfBankSw (modPlf (fun x => { x with act := other x.act, pend := none, fresh := true })
    { s with arms := s.armsNext, armsNext := s.arms }))

/-- A binary64 pair within bounds given as numerator and denominator powers of ten. -/
def pairWithin (v : F64) (lo hi : Nat) : Bool :=
  dLe (dDiv (dOfInt 1) (dOfInt ((10 ^ lo : Nat) : Int))) v && dLe v (dDiv (dOfInt 1) (dOfInt ((10 ^ hi : Nat) : Int)))

/-- A staged write of `TOL_HI` (R309). -/
def writeTolHi (v : Word) (s : State) : State :=
  if pairWithin (join64 v s.plf.tolLo) 15 2 then
    chg .plf 0 (setReg .plf 0 Reg.PLF_TOL_HI v (setReg .plf 0 Reg.PLF_TOL_LO s.plf.tolLo s))
  else recordErr .plf 0 0x0004 (modPlf (fun x => { x with tolLo := reg s .plf 0 Reg.PLF_TOL_LO }) s)

/-- A staged write of `FLOOR_HI` (R309). -/
def writeFloorHi (v : Word) (s : State) : State :=
  if pairWithin (join64 v s.plf.floorLo) 16 6 then
    chg .plf 0 (setReg .plf 0 Reg.PLF_FLOOR_HI v (setReg .plf 0 Reg.PLF_FLOOR_LO s.plf.floorLo s))
  else recordErr .plf 0 0x0004 (modPlf (fun x => { x with floorLo := reg s .plf 0 Reg.PLF_FLOOR_LO }) s)

/-- `STAT` (R309). -/
def plfStat (s : State) : Word :=
  reg s .plf 0 Reg.PLF_STAT ||| BitVec.ofNat 32 (b2n (s.plf.banks[other s.plf.act]).isSome * 2 ^ 17 + s.plf.act.val * 2 ^ 16 + b2n s.plf.pend.isSome)

/-- `ARMS` (R309). -/
def plfArms (s : State) : Word :=
  BitVec.ofNat 32 ((maskOf (allArms.filter fun (a : Arm) => (s.play[a]).stopping)).toNat * 65536 + (maskOf (allArms.filter fun (a : Arm) => (s.play[a]).held)).toNat)

/-- The pattern registers (R309): identity of a bank, `PAT_ROWS`, `PAT_NNZ`, `PAT_TFACT`, `PAT_TITER`. -/
def patternId (s : State) (i : Fin 2) : Word :=
  match s.plf.banks[i] with
  | some b => b.patid
  | none => 0
def patternWord (s : State) (k : Nat) : Word :=
  match pattern s with
  | some b =>
    if k = 0 then BitVec.ofNat 32 (b.plancyc % 32 * 2 ^ 24 + b.horizon % 32 * 2 ^ 16 + b.rows % 65536)
    else if k = 1 then BitVec.ofNat 32 (b.nnz % 2 ^ 20)
    else if k = 2 then b.tFact
    else b.tIter
  | none => 0

/-- WARM_START. -/
def execWarmStart (s : State) : Host.Outcome State Fault Refusal := run warmStart s
/-- INTERIOR_POINT_STEP. -/
def execInteriorPointStep (s : State) : Host.Outcome State Fault Refusal := run interiorPointStep s
/-- PROGRESS_WORD. -/
def execProgressWord (l : Lane) (word : BitVec 15) (fail : Bool) (s : State) : Host.Outcome State Fault Refusal :=
  run (progressWord l word fail) s
/-- DEADLINE_AGREEMENT. -/
def execDeadlineAgreement (s : State) : Host.Outcome State Fault Refusal := run deadlineAgreement s
/-- TIME_SCALE_STOP. -/
def execTimeScaleStop (a : Arm) (s : State) : Host.Outcome State Fault Refusal := run (timeScaleStop a) s
/-- TIME_SCALE_STOP_END. -/
def execTimeScaleStopEnd (a : Arm) (s : State) : Host.Outcome State Fault Refusal := run (timeScaleStopEnd a) s
/-- TAIL_EXHAUSTED. -/
def execTailExhausted (a : Arm) (s : State) : Host.Outcome State Fault Refusal := run (tailExhausted a) s
/-- IDENTIFICATION_UPDATE. -/
def execIdentificationUpdate (a : Arm) (s : State) : Host.Outcome State Fault Refusal := run (identUpdate a) s
/-- KIN_HA_WINDOW_EXPIRY. -/
def execKinHaWindowExpiry (a : Arm) (s : State) : Host.Outcome State Fault Refusal := run (kinHaExpiry a) s
/-- PRESET. -/
def execPreset (a : Arm) (s : State) : Host.Outcome State Fault Refusal := run (staged .kin a (restartIdent a)) s
/-- PLF_GO. -/
def execPlfGo (s : State) : Host.Outcome State Fault Refusal := run (staged .plf 0 requestPatternSwitch) s
/-- TOL_HI. -/
def execTolHi (v : Word) (s : State) : Host.Outcome State Fault Refusal := run (writeTolHi v) s
/-- FLOOR_HI. -/
def execFloorHi (v : Word) (s : State) : Host.Outcome State Fault Refusal := run (writeFloorHi v) s

end Sys2Proof.Machine
end

