-- ==== Sys2Proof/Machine/Codec.lean ====
section
/-! DEFINITION. What the compiler of an image fixes and the spec does not lay out (R274, R451): the contents of the sections, the
fit of a schedule, the firmware's templates, and the signature check. Each is a constant without a body. -/

namespace Sys2Proof

/-- The contents of an arms section (kind 1). [DESIGN CHOICE, log 66] -/
opaque Config.armsSection : List Byte → Option Machine.ArmsImage
/-- The task templates of lane firmware, by its version (R345). [DESIGN CHOICE, log 5] -/
opaque Config.fwTemplates : BitVec 16 → List Machine.Template
/-- The contents of a Wearline section (kind 2): the schedule bank and, if given, a second one. [DESIGN CHOICE, log 66] -/
opaque Config.wearlineSection : List Byte → Option (Machine.WlBank × Option Machine.WlBank)
/-- What follows the header of a Plefin section (kind 3, R276): the schedule fits solver SRAM, the expected pivot signs by row (true +),
the slot groups (R246), the order of the rows of the KKT system (R272), the kept fill (R274, R283). [DESIGN CHOICE, log 66] -/
opaque Config.plefinSchedule : List Byte → Bool × List Bool × List (Nat × Nat × Nat) × List Machine.KktId × List (Nat × Nat)
/-- The contents of a kernel-bank section (kind 4). [DESIGN CHOICE, log 66] -/
opaque Config.kernelSection : List Byte → Option Machine.KernelBank
/-- The contents of a mantis section (kind 5). [DESIGN CHOICE, log 66] -/
opaque Config.mantisSection : List Byte → Option Machine.MantisBank
/-- The contents of a safety section (kind 6). [DESIGN CHOICE, log 66] -/
opaque Config.safetySection : List Byte → Option Machine.SafetyBank
/-- Whether a 96-byte signature over bytes 0 to `SIGOFS` − 1 verifies against a 97-byte key (ECDSA P-384 over SHA-384, R452).
[DESIGN CHOICE, log 66] -/
opaque Config.imageSigned : List Byte → List Byte → List Byte → Bool
/-- Whether a firmware image's signature verifies against the Barziant key (R426). [DESIGN CHOICE, log 66] -/
opaque Config.firmwareSigned : List Byte → Bool

end Sys2Proof
end

