-- ==== Sys2Proof/Machine/Ptp.lean ====
section
/-! DEFINITION. The PTP ports and the Ethernet ports: messages, port states, offset samples, links (R79 to R82, R91, R570, R571). -/

namespace Sys2Proof.Machine

-- IRQ_STAT bits of the PTP page, and of the ETH page
def ptpStateChg : Nat := 8
def ptpPdStep : Nat := 9
def ptpAnnTo : Nat := 10
def ptpGmChg : Nat := 11
def ethLinkChg : Nat := 8

/-- Change one PTP port. -/
def modPtp (e : Hub) (f : PtpPort → PtpPort) (s : State) : State := { s with ptp := vmod s.ptp e f }

/-- `CFG.ROLE` (R79). -/
def ptpRole (s : State) (e : Hub) : Nat := fld s .ptp e Reg.PTP_CFG 2 0

/-- The engine of a port runs its role: enabled, and on both ports for a role that spans them (R570). -/
def ptpRuns (s : State) (e : Hub) : Bool :=
  s.clk.alive[e] && enabled s .ptp e && ptpRole s e != 0 && (decide (ptpRole s e ≤ 2) || enabled s .ptp (other e))

/-- A port that can be the servo's source: in SLAVE state with an ordinary or boundary clock role (R79). -/
def ptpSlave (s : State) (e : Hub) : Bool := ptpRuns s e && decide (ptpRole s e ≤ 3) && fld s .ptp e Reg.PTP_PSTATE 3 0 == 9

/-- The port state changes. -/
def setPstate (e : Hub) (v : Nat) (s : State) : State :=
  if fld s .ptp e Reg.PTP_PSTATE 3 0 = v then s else irq .ptp e ptpStateChg (setReg .ptp e Reg.PTP_PSTATE (BitVec.ofNat 32 v) s)

/-- The servo loses its source where the port that gave it, `was` in SLAVE state, has left that state (R79, R82, R85). -/
def keepSource (was : Bool) (s : State) : State :=
  if was && !ptpSlave s s.servo.src && !assisted s .tb 0 then sourceLost s else s

/-- Whether the port of the servo's source is in SLAVE state. -/
def sourceSlave (s : State) : Bool := ptpSlave s s.servo.src

/-- The port state after a change of `EN` or `ROLE`: 1 INITIALIZING while the engine does not run, 3 DISABLED, 4 LISTENING (R101, R570).
[DEDUCED, log 83] -/
def restartPort (e : Hub) (s : State) : State :=
  let v := if !enabled s .ptp e then 1 else if ptpRole s e = 0 then 3 else if ptpRuns s e then 4 else 1
  let s := modPtp e (fun p => { p with follow := none, heard := [], master := none, qual := none }) s
  if enabled s .ptp e then setPstate e v s else setReg .ptp e Reg.PTP_PSTATE 1 s

/-- The other port restarts with this one where its role spans both (R79, R570). [DEDUCED, log 83] -/
def restartPair (e : Hub) (s : State) : State :=
  let s := restartPort e s
  if 3 ≤ ptpRole s (other e) then restartPort (other e) s else s

-- The best master clock (R80)

/-- The MAC address of a port: individual and universally administered (R572). -/
def macOf (s : State) (e : Hub) : BitVec 48 := Config.mac e.val (s.carts[hubCart e]).serial &&& 0xFCFFFFFFFFFF

/-- The clock identity of a port's clock; a boundary clock has one for both ports. [PRESUMED, log 84] -/
def clockId (s : State) (e : Hub) : BitVec 64 :=
  let m := macOf s (if ptpRole s e = 3 then 0 else e)
  (m >>> 24).setWidth 24 ++ (0xFFFE : BitVec 16) ++ m.setWidth 24

/-- The module's own dataset (R101). [PRESUMED, log 84] -/
def ownData (s : State) (e : Hub) : PtpData :=
  let p := reg s .ptp e Reg.PTP_PRIO
  { prio1 := BitVec.ofNat 8 (field p 7 0), clockClass := BitVec.ofNat 8 (field p 23 16), accuracy := Config.clockQuality.1
    variance := Config.clockQuality.2, prio2 := BitVec.ofNat 8 (field p 15 8), gm := clockId s e, steps := 0
    sender := clockId s e ++ BitVec.ofNat 16 (e.val + 1) }

/-- The order of grandmasters, the best first: priority 1, class, accuracy, variance, priority 2, identity. [PRESUMED, log 84] -/
def gmRank (d : PtpData) : Nat :=
  ((((d.prio1.toNat * 2 ^ 8 + d.clockClass.toNat) * 2 ^ 8 + d.accuracy.toNat) * 2 ^ 16 + d.variance.toNat) * 2 ^ 8 + d.prio2.toNat) * 2 ^ 64 + d.gm.toNat

/-- The order of datasets: by grandmaster, then by steps removed and sender. [PRESUMED, log 84] -/
def dataRank (d : PtpData) : Nat := (gmRank d * 2 ^ 16 + d.steps.toNat) * 2 ^ 80 + d.sender.toNat

/-- The best of some datasets. [PRESUMED, log 84] -/
def bestData (l : List PtpData) : Option PtpData :=
  l.foldl (fun best d => match best with
    | some b => if dataRank d < dataRank b then some d else some b
    | none => some d) none

/-- The best master that a clock hears: on the port, or on both ports of a boundary clock. [PRESUMED, log 84] -/
def clockBest (s : State) (e : Hub) : Option PtpData :=
  bestData ((s.ptp[e]).heard ++ if ptpRole s e = 3 && ptpRuns s (other e) then (s.ptp[other e]).heard else [])

/-- What the best master clock algorithm recommends for a port. [PRESUMED, log 84] -/
inductive PtpDecision where
  | stay | listen | master | passive
  | slave (d : PtpData)
  /-- Master below a better clock on the other port, that many steps removed. -/
  | relay (d : PtpData)
  deriving DecidableEq, Repr

/-- The state decision of the best master clock algorithm; a port that hears no master waits for its announce receipt timeout.
[PRESUMED, log 84] -/
def ptpDecide (s : State) (e : Hub) : PtpDecision :=
  let own := ownData s e
  match bestData (s.ptp[e]).heard, clockBest s e with
  | none, _ => .stay
  | some p, best =>
    let c := best.getD p
    if ptpRole s e = 1 then .slave p
    else if own.clockClass.toNat < 128 then (if dataRank own < dataRank p then .master else .passive)
    else if dataRank own < dataRank c then .master
    else if c = p then .slave p
    else if gmRank c = gmRank p then .passive
    else .relay c

/-- The grandmaster that a port shows (R101). -/
def setGm (e : Hub) (g : BitVec 64) (s : State) : State :=
  let old := join64 (reg s .ptp e Reg.PTP_GM_HI) (reg s .ptp e Reg.PTP_GM_LO)
  irqIf (old != g) .ptp e ptpGmChg (setReg .ptp e Reg.PTP_GM_HI (hi32 g) (setReg .ptp e Reg.PTP_GM_LO (lo32 g) s))

/-- The announce interval, ns (R80, R101). -/
def announceNs (s : State) (e : Hub) : Nat := (10 ^ 9 * 2 ^ (sext 4 (fld s .ptp e Reg.PTP_INTV 11 8) + 3).toNat) / 8

/-- The port leaves the state of a slave or a passive port. -/
def noMaster (e : Hub) (s : State) : State := modPtp e (fun p => { p with master := none, qual := none }) s

/-- A recommendation acts: a new master is followed in UNCALIBRATED (8) until its first Sync, a port below another clock waits in
PRE_MASTER (5) for steps removed + 1 announce intervals. [PRESUMED, log 84] -/
def ptpApply (e : Hub) (x : PtpDecision) (s : State) : State :=
  let st := fld s .ptp e Reg.PTP_PSTATE 3 0
  match x with
  | .stay => s
  | .listen => setPstate e 4 (noMaster e s)
  | .master => setGm e (clockId s e) (setPstate e 6 (noMaster e s))
  | .passive => setPstate e 7 (noMaster e s)
  | .slave d =>
    let s := setGm e d.gm s
    if (s.ptp[e]).master = some d.sender ∧ 8 ≤ st then s
    else setPstate e 8 (modPtp e (fun p => { p with master := some d.sender, qual := none, follow := none }) s)
  | .relay d =>
    let s := setGm e d.gm s
    if st = 5 ∨ st = 6 then s
    else setPstate e 5 (modPtp e (fun p => { p with master := none, qual := some (nsOf s + (d.steps.toNat + 1) * announceNs s e) }) s)

/-- The ports of a clock take their states anew (R79, R80). [PRESUMED, log 84] -/
def ptpStates (e : Hub) (s : State) : State :=
  let was := sourceSlave s
  let s := if ptpRuns s e then ptpApply e (ptpDecide s e) s else s
  let o := other e
  keepSource was (if ptpRole s e = 3 && ptpRuns s o then ptpApply o (ptpDecide s o) s else s)

/-- PRE_MASTER ends (R101). [PRESUMED, log 84] -/
def ptpQualify (e : Hub) (s : State) : State :=
  match (s.ptp[e]).qual with
  | some t => if t ≤ nsOf s && fld s .ptp e Reg.PTP_PSTATE 3 0 == 5 then setPstate e 6 (noMaster e s) else s
  | none => s

/-- An Announce message (R80): the sender's dataset replaces the one heard from it before. [PRESUMED, log 84] -/
def announce (e : Hub) (d : PtpData) (s : State) : State :=
  ptpStates e (modPtp e (fun p => { p with heard := d :: p.heard.filter fun x => x.sender != d.sender }) s)

-- Messages (R80, R81, R101, R102)

/-- A port measures delay peer to peer (R79, R101). [DEDUCED, log 83] -/
def ptpPeer (s : State) (e : Hub) : Bool :=
  ptpRole s e == 5 || (ptpRole s e != 4 && (flag s .ptp e Reg.PTP_CFG 4 || flag s .ptp e Reg.PTP_CFG 5))

/-- A port uses UDP over IPv4; IEEE 802.1AS is Layer 2 only (R80, R101). [DEDUCED, log 83] -/
def ptpUdp (s : State) (e : Hub) : Bool := fld s .ptp e Reg.PTP_CFG 7 6 == 1 && !flag s .ptp e Reg.PTP_CFG 5

/-- A kind belongs to the delay mechanism of the port. -/
def ptpDelayKind (peer : Bool) (k : PtpKind) : Bool :=
  match k with
  | .delayReq => !peer | .delayResp => !peer
  | .pdelayReq => peer | .pdelayResp => peer | .pdelayRespFollowUp => peer
  | .management => false | .signalling => false
  | _ => true

/-- Whether a message lies within the options that R80 supports and that `CFG`, `ETH.VLAN` and `ETH.IPV4` select (R101, R102).
[DEDUCED, log 83] -/
def ptpAccepts (s : State) (e : Hub) (m : PtpMsg) : Bool :=
  (match m.transport with
    | .ethernet => !ptpUdp s e
    | .udp4 => ptpUdp s e && reg s .eth e Reg.ETH_IPV4 != 0
    | .udp6 => false) &&
  m.vlan == (if flag s .eth e Reg.ETH_VLAN 12 then some (BitVec.ofNat 12 (fld s .eth e Reg.ETH_VLAN 11 0)) else none) &&
  m.gptp == flag s .ptp e Reg.PTP_CFG 5 && m.domain.toNat == fld s .ptp e Reg.PTP_CFG 23 16 && !m.extra &&
  ptpDelayKind (ptpPeer s e) m.kind

/-- The event messages, which are timestamped (R81). -/
def ptpEvent (k : PtpKind) : Bool := k == .sync || k == .delayReq || k == .pdelayReq || k == .pdelayResp

/-- Plant time, ns (R78). -/
def plantTime (s : State) : BitVec 64 := BitVec.ofNat 64 (nsOf s) + s.servo.plantOfs

/-- A message leaves a port with plant time in it (R75); `CNT1` of `ETH`, and the count of its kind (R101). -/
def ptpSend (e : Hub) (k : PtpKind) (s : State) : State :=
  let s := modPtp e (fun p => { p with sent := (k, plantTime s) :: p.sent, stamp := if ptpEvent k then nsOf s else p.stamp }) (count .eth e 1 s)
  match k with
  | .sync => count .ptp e 1 s
  | .delayReq => count .ptp e 2 s
  | .pdelayReq => count .ptp e 2 s
  | _ => s

/-- A mean path delay differs from the last one by more than `PD_STEP` (R91). -/
def pathStep (s : State) (e : Hub) (d : BitVec 32) : Bool :=
  match (s.ptp[e]).mpd with
  | some x => decide ((reg s .tb 0 Reg.TB_PD_STEP).toNat < (d.toInt - x).natAbs)
  | none => false

/-- A mean path delay measured on a port (R91): a step beyond `PD_STEP` is reported, and quarantines the servo's samples. -/
def pathDelay (e : Hub) (d : BitVec 32) (s : State) : State :=
  let t := modPtp e (fun p => { p with mpd := some d.toInt }) (setReg .ptp e Reg.PTP_MPD d s)
  if pathStep s e d then
    let t := count .ptp e 6 (irq .ptp e ptpPdStep t)
    if ptpSlave t e && !assisted t .tb 0 then startQuarantine t else t
  else t

/-- The path delay that a message completes, if it completes one. -/
def delayOf (e : Hub) (m : PtpMsg) (s : State) : State :=
  match m.delay with
  | some d => pathDelay e d s
  | none => s

/-- A transparent clock forwards a message through its other port: the end-to-end clock all, the peer-to-peer clock none of the delay
mechanism (R79). [DEDUCED, log 83] -/
def ptpForward (e : Hub) (k : PtpKind) (s : State) : State :=
  let o := other e
  let keeps := ptpRole s e == 5 && (k == .pdelayReq || k == .pdelayResp || k == .pdelayRespFollowUp)
  if 4 ≤ ptpRole s e ∧ keeps = false ∧ ptpRuns s o = true then ptpSend o k s else s

/-- A Sync of the master that the port follows ends UNCALIBRATED; a two-step Sync awaits its Follow_Up (R80, R101).
[PRESUMED, log 84] -/
def takeSync (e : Hub) (m : PtpMsg) (s : State) : State :=
  let s := count .ptp e 0 (countIf (s.ptp[e]).follow.isSome .ptp e 7 s)
  let s := modPtp e (fun p => { p with follow := if m.twoStep then some m.seq else none }) s
  if (s.ptp[e]).master = some m.data.sender ∧ fld s .ptp e Reg.PTP_PSTATE 3 0 = 8 then setPstate e 9 s else s

/-- PTP_MESSAGE (R80, R570) received on port `e`. -/
def ptpMessage (e : Hub) (m : PtpMsg) (s : State) : State :=
  if s.clk.alive[e] then
    let s := count .eth e 5 (count .eth e 0 s)
    if !enabled s .ptp e then s
    else if !ptpAccepts s e m then count .ptp e 5 s
    else if !ptpRuns s e then s
    else
      let s := ptpQualify e (if ptpEvent m.kind then modPtp e (fun p => { p with stamp := nsOf s }) s else s)
      let s := ptpForward e m.kind s
      match m.kind with
      | .sync => takeSync e m s
      | .followUp => modPtp e (fun p => if p.follow = some m.seq then { p with follow := none } else p) s
      | .delayResp => delayOf e m (count .ptp e 3 s)
      | .pdelayResp => delayOf e m (count .ptp e 3 s)
      | .pdelayRespFollowUp => delayOf e m s
      | .announce => if ptpRole s e ≤ 3 then announce e m.data (count .ptp e 4 s) else count .ptp e 4 s
      | _ => s
  else s

/-- Whether a port sends a message of a kind (R79, R101): as MASTER its Sync, Announce and answers, as SLAVE its requests.
[DEDUCED, log 83] -/
def ptpSends (s : State) (e : Hub) (k : PtpKind) : Bool :=
  let st := fld s .ptp e Reg.PTP_PSTATE 3 0
  ptpRuns s e && !(ptpUdp s e && reg s .eth e Reg.ETH_IPV4 == 0) && ptpDelayKind (ptpPeer s e) k && match k with
    | .sync => st == 6
    | .announce => st == 6
    | .followUp => st == 6 && !flag s .ptp e Reg.PTP_CFG 8
    | .delayResp => st == 6
    | .delayReq => decide (8 ≤ st)
    | _ => true

/-- PTP_TRANSMIT (R80, R81) on port `e`. -/
def ptpTransmit (e : Hub) (k : PtpKind) (s : State) : State :=
  let s := ptpQualify e s
  if ptpSends s e k then ptpSend e k s else s

/-- ANNOUNCE_RECEIPT_TIMEOUT (R80): the port has lost its master; with no other it listens or becomes MASTER.
[PRESUMED, log 84] -/
def announceTimeout (e : Hub) (s : State) : State :=
  let st := fld s .ptp e Reg.PTP_PSTATE 3 0
  if ptpRuns s e = true ∧ ptpRole s e ≤ 3 ∧ (st = 4 ∨ 7 ≤ st) then
    let was := sourceSlave s
    let gone := (s.ptp[e]).master
    let s := irq .ptp e ptpAnnTo (modPtp e (fun p => { p with heard := if gone.isSome then p.heard.filter fun d => some d.sender != gone else [] }) s)
    let x := if !(s.ptp[e]).heard.isEmpty then ptpDecide s e
      else if ptpRole s e = 1 then .listen
      else match clockBest s e with
        | some c => if dataRank (ownData s e) < dataRank c then .master else .relay c
        | none => .master
    let s := ptpApply e x s
    keepSource was (if ptpRole s e = 3 && ptpRuns s (other e) then ptpApply (other e) (ptpDecide s (other e)) s else s)
  else s

/-- OFFSET_SAMPLE (R81, R83, R91, R93): the port in SLAVE state measured an offset, to which the link's asymmetry is added, and a mean
path delay. Samples of two ordinary clocks are both taken, the last names the source; `OFFSET` shows the low 32 bits.
[DEDUCED, log 80; DESIGN CHOICE, log 110] -/
def offsetSample (e : Hub) (ofs : BitVec 64) (mpd : BitVec 32) (s : State) : State :=
  if ptpSlave s e then
    let ofs := ofs + (reg s .ptp e Reg.PTP_ASYM_COR).signExtend 64
    let s := pathDelay e mpd (setReg .ptp e Reg.PTP_OFFSET (lo32 ofs) s)
    if assisted s .tb 0 then s else servoSample ofs.toInt (modServo (fun v => { v with src := e }) s)
  else s

/-- The link of a port comes up or is lost (R82, R423, R571): the port hears its masters no more. [DEDUCED, log 32] -/
def linkChange (e : Hub) (up master : Bool) (s : State) : State :=
  if s.clk.alive[e] then
    let was := flag s .eth e Reg.ETH_LINK 0
    let s := setReg .eth e Reg.ETH_LINK (if up then 1 + BitVec.ofNat 32 (2 * b2n master) else 0) s
    let s := irqIf (was != up) .eth e ethLinkChg s
    if was && !up then
      let slave := sourceSlave s
      let s := closeSessionOf (2 + e.val) (modSec (fun x => { x with conns := x.conns.filter fun c => c != 2 + e.val }) (count .eth e 4 s))
      let s := modPtp e (fun p => { p with heard := [], follow := none }) s
      let s := if 7 ≤ fld s .ptp e Reg.PTP_PSTATE 3 0 then setPstate e 4 (noMaster e s) else s
      let s := keepSource slave s
      if ptpRole s e = 3 then ptpStates (other e) s else s
    else s
  else s

/-- `ETH.READY.PHASE` (R571). -/
def ethPhase (s : State) (e : Hub) : Nat := if !s.boot.functions then 0 else if flag s .eth e Reg.ETH_LINK 0 then 15 else 1

/-- Whether a write to a PTP page lies in its range (R101). -/
def ptpInRange (off : Nat) (v : Word) : Bool :=
  if off = Reg.PTP_CFG then decide (field v 7 6 ≤ 1) && decide (field v 2 0 ≤ 5) && decide (field v 23 16 ≤ 127)
  else if off = Reg.PTP_INTV then
    let e := fun lo => sext 4 (field v (lo + 3) lo)
    decide (2 ≤ field v 15 12) && decide (field v 15 12 ≤ 10) && decide (-3 ≤ e 8) && decide (e 8 ≤ 4) &&
      decide (-7 ≤ e 4) && decide (e 4 ≤ 0) && decide (-7 ≤ e 0) && decide (e 0 ≤ 0)
  else true

/-- The value that `CFG` keeps: the domain is 0 with the 802.1AS profile (R101). -/
def ptpCfgValue (v : Word) : Word := if bit v 5 then setField v 23 16 0 else v

/-- `CFG` of a port has been written: a role that spans both ports goes to both (R79); the servo loses a source that is no longer in
SLAVE state (R85). -/
def ptpCfgWritten (e : Hub) (old v : Word) (s : State) : State :=
  let was := sourceSlave (setReg .ptp e Reg.PTP_CFG old s)
  let r := field v 2 0
  let o := other e
  let spans := decide (3 ≤ r) && ptpRole s o != r
  let s := if spans then setFld .ptp o Reg.PTP_CFG 2 0 r s else s
  let s := if spans || (decide (3 ≤ field old 2 0) && field old 2 0 != r) then restartPort o s else s
  keepSource was (if field old 2 0 ≠ r then restartPort e s else s)

/-- `CTRL.EN` of a port has been written (R570). -/
def ptpEnabled (e : Hub) (on : Bool) (s : State) : State :=
  let was := sourceSlave (setFlag .ptp e Reg.CTRL 0 (!on) s)
  keepSource was (restartPair e s)

/-- PTP_MESSAGE. -/
def execPtpMessage (dt : Nat) (e : Hub) (m : PtpMsg) (s : State) : Host.Outcome State Fault Refusal :=
  run (fun s => ptpMessage e m (advance dt s)) s
/-- PTP_TRANSMIT. -/
def execPtpTransmit (dt : Nat) (e : Hub) (kind : PtpKind) (s : State) : Host.Outcome State Fault Refusal :=
  run (fun s => ptpTransmit e kind (advance dt s)) s
/-- ANNOUNCE_RECEIPT_TIMEOUT. -/
def execAnnounceReceiptTimeout (e : Hub) (s : State) : Host.Outcome State Fault Refusal := run (announceTimeout e) s
/-- OFFSET_SAMPLE. -/
def execOffsetSample (e : Hub) (offset : BitVec 64) (mpd : BitVec 32) (s : State) : Host.Outcome State Fault Refusal :=
  run (offsetSample e offset mpd) s

end Sys2Proof.Machine
end

