-- ==== Sys2Proof/Machine/SafetyIo.lean ====
section
/-! DEFINITION. Safety inputs and the trip matrix, output faults, test pulses, reset inputs, the software reset and the hub
service window (R398, R407 to R420). -/

namespace Sys2Proof.Machine

-- IRQ_STAT bits of the SIO page
def sioInFault : Nat := 8
def sioOutFault : Nat := 9
def sioTpFail : Nat := 10
def sioRstStuck : Nat := 11
def sioSvcWin : Nat := 12
def sioSvcWarn : Nat := 13
def sioTrip : Nat := 14

/-- `SI_CFG` of an input. -/
def siCfg (s : State) (i : Nat) : Word := reg s .sio 0 (Reg.SIO_SI_CFG + 4 * i)

/-- The output fault of an output (R411): bit `o` of `OUT_FAULT`. -/
def outputFault (o : Nat) (s : State) : State :=
  let s := irq .sio 0 sioOutFault (modOut (fun x => { x with fault := putBit x.fault o true }) s)
  let arm : Arm := ⟨(if o < 12 then o else o - 16) % 12, Nat.mod_lt _ (by decide)⟩
  if o < 12 ∨ 16 ≤ o then decideSto 12 arm s else meetTest o s

/-- A hub switches its own channel of the pairs of a mask off, and both while it drives both (R398, R419). -/
def tripChannel (h : Hub) (m : BitVec 12) (s : State) : State :=
  let s := modOut (fun o => { o with
    stoA := if h = 0 ∨ s.clk.alive[other h] = false then o.stoA &&& ~~~m else o.stoA
    stoB := if h = 1 ∨ s.clk.alive[other h] = false then o.stoB &&& ~~~m else o.stoB
    stoPend := o.stoPend &&& ~~~m }) s
  forEach (allArms.filter fun (a : Arm) => m.getLsbD a.val) (fun a s => meetTest a.val s) s

/-- Put the level of a channel as one hub reads it. -/
def putChannel (i : Nat) (c : Fin 2) (x : Bool) (h : Hub) (s : State) : State :=
  modSaf (fun u => if c = 0 then { u with chanA := vmod u.chanA h fun m => putBit m i x } else { u with chanB := vmod u.chanB h fun m => putBit m i x }) s

/-- The agreed channels of an input differ. -/
def channelsDiffer (s : State) (i : Sixteen) : Bool :=
  (s.saf.chanA[s.clk.refHub]).getLsbD i.val != (s.saf.chanB[s.clk.refHub]).getLsbD i.val

/-- SAFETY_INPUT_FILTER (R407): the filtered level of a channel changes at the hubs of `hubs`; TRIP_MATRIX (R398).
[DESIGN CHOICE, log 3] -/
def inputFilter (i : Sixteen) (c : Fin 2) (level : Bool) (hubs : Vector Bool 2) (s : State) : State :=
  let hs := (hubsAlive s).filter fun h => hubs[h]
  let differed := channelsDiffer s i
  let s := exchanged (forEach hs (putChannel i.val c level) s)
  let s := if channelsDiffer s i && !differed then modSaf (fun u => { u with discAt := vset u.discAt i (nsOf s) }) s else s
  let s := countIf (decide (hs.length < (hubsAlive s).length)) .sio 0 7 s
  let cfg := siCfg s i.val
  let s := if field cfg 19 16 = 1 ∧ level = false ∧ hs ≠ [] then
      count .sio 0 0 (irq .sio 0 sioTrip (forEach hs (fun h s => tripChannel h (BitVec.ofNat 12 (field cfg 31 20)) s) s))
    else s
  let r := s.clk.refHub
  let off := !(s.saf.chanA[r]).getLsbD i.val && !(s.saf.chanB[r]).getLsbD i.val
  if s.saf.inFault.getLsbD i.val && off then modSaf (fun u => { u with bothOff := putBit u.bothOff i.val true }) s else s

/-- INPUT_FAULT (R408): one channel has stayed on and the other off for longer than `DISC`. [DEDUCED, log 75] -/
def inputFault (i : Sixteen) (s : State) : State :=
  if channelsDiffer s i = true ∧ s.saf.inFault.getLsbD i.val = false ∧ (s.saf.discAt[i]) + field (siCfg s i.val) 15 7 * 10 ^ 6 < nsOf s then
    count .sio 0 1 (irq .sio 0 sioInFault (modSaf (fun u => { u with
      inFault := putBit u.inFault i.val true, bothOff := putBit u.bothOff i.val false }) s))
  else s

-- Test pulses (R412 to R414)

/-- Whether a channel of an output is on: 0 to 11 the STO pairs, 12 to 15 the cell outputs. -/
def channelOn (s : State) (o : Nat) (c : Fin 2) : Bool :=
  if o < 12 then (if c = 0 then s.saf.out.stoA.getLsbD o else s.saf.out.stoB.getLsbD o) else soOn s (o - 12)

/-- A channel that is off is noted as seen off at the present instant (R412). [DEDUCED, log 75] -/
def noteChannel (o : Sixteen) (c : Fin 2) (s : State) : State :=
  if channelOn s o.val c then s else modSaf (fun u => { u with testAt := vmod u.testAt o fun l => vset l c (nsOf s) }) s

/-- Every channel that is off is noted (R412). -/
def noteChannels (s : State) : State := forEach allSixteen (fun o s => noteChannel o 1 (noteChannel o 0 s)) s

/-- The present instant is the test slot of a channel, within a tick (R412). -/
def testSlotNow (s : State) (o c : Nat) : Bool := decide ((nsOf s + 10 ^ 9 - (o * 25 + c * 500) * 10 ^ 6) % 10 ^ 9 < 1000)

/-- TEST_PULSE (R412): a channel that has been on and untested for 1 s is tested by an off-pulse in its slot. [DEDUCED, log 75] -/
def testPulse (o : Sixteen) (c : Fin 2) (s : State) : State :=
  if s.saf.test = none ∧ channelOn s o.val c = true ∧ testSlotNow s o.val c.val = true ∧ (s.saf.testAt[o])[c] + 10 ^ 9 ≤ nsOf s then
    modSaf (fun u => { u with test := some (o.val, c.val, false), testAt := vmod u.testAt o fun l => vset l c (nsOf s) }) s
  else s

/-- `TP_LAST`. -/
def tpLast (fail discarded : Bool) (c o : Nat) : Word :=
  BitVec.ofNat 32 (2 ^ 31 + b2n fail * 2 ^ 30 + b2n discarded * 2 ^ 29 + c * 32 + o)

/-- TEST_PULSE_RESULT (R412, R414), once `TP_CFG.WIDTH` has passed. -/
def testPulseResult (o : Sixteen) (c : Fin 2) (sawOff sawOn : Bool) (s : State) : State :=
  match s.saf.test with
  | some (x, y, demanded) =>
    if x = o.val ∧ y = c.val ∧ (s.saf.testAt[o])[c] + fld s .sio 0 Reg.SIO_TP_CFG 9 0 * 1000 ≤ nsOf s then
      let gone := demanded || !channelOn s o.val c
      let bad := !gone && !(sawOff && sawOn)
      let s := modSaf (fun u => { u with test := none, tpLast := tpLast bad gone c.val o.val }) s
      if gone then count .sio 0 4 s
      else if bad then outputFault o.val (count .sio 0 3 (irq .sio 0 sioTpFail s))
      else count .sio 0 2 s
    else s
  | none => s

-- Reset inputs (R415, R416, R537)

/-- The bounds of a reset pulse: 50 ms and 3 s, in ns. -/
def resetMin : Nat := 50 * 10 ^ 6
def resetMax : Nat := 3 * 10 ^ 9

/-- The level of a reset input as the hubs agree it: a hub that reads it otherwise is counted (R17). -/
def resetAgreed (differs : Bool) (s : State) : State := exchanged (countIf (differs && bothHubs s) .sio 0 7 s)

/-- RESET_INPUT_RISING_EDGE (R415). -/
def resetRise (i : Fin 2) (differs : Bool) (s : State) : State :=
  let s := resetAgreed differs s
  if s.saf.rstLvl[i] then s
  else modSaf (fun u => { u with rstLvl := vset u.rstLvl i true, rstRise := vset u.rstRise i (nsOf s) }) s

/-- STUCK_RESET (R416): high for longer than 3 s. -/
def resetStuck (i : Fin 2) (s : State) : State :=
  if s.saf.rstLvl[i] = true ∧ s.saf.rstStuck[i] = false ∧ s.saf.rstRise[i] + resetMax < nsOf s then
    irq .sio 0 sioRstStuck (modSaf (fun u => { u with rstStuck := vset u.rstStuck i true }) s)
  else s

/-- The arms that a reset input names. -/
def resetMask (s : State) (i : Fin 2) : BitVec 12 :=
  BitVec.ofNat 12 (if i = 0 then fld s .sio 0 Reg.SIO_RST_CFG 11 0 else fld s .sio 0 Reg.SIO_RST_CFG 27 16)

/-- RESET_PULSE (R415): the falling edge. [DEDUCED, log 75] -/
def resetFall (i : Fin 2) (differs : Bool) (s : State) : State :=
  let s := resetAgreed differs s
  if s.saf.rstLvl[i] then
    let high := nsOf s - s.saf.rstRise[i]
    let valid := !s.saf.rstStuck[i] && decide (resetMin ≤ high ∧ high ≤ resetMax)
    let s := modSaf (fun u => { u with rstLvl := vset u.rstLvl i false, rstStuck := vset u.rstStuck i false }) s
    if valid then actReset (resetMask s i) s else count .sio 0 6 s
  else s

/-- A staged write of `SWRST` (R418). [DEDUCED, log 75] -/
def writeSwrst (v : Word) (s : State) : State :=
  if fld s .saf 0 Reg.SAF_GCFG 31 31 = 0 then recordErr .saf 0 0x0100 s
  else
    let s := chg .saf 0 (setReg .saf 0 Reg.SAF_SWRST (v &&& 1) s)
    match bit v 0, s.saf.swRise with
    | true, none => modSaf (fun u => { u with swRise := some (nsOf s) }) s
    | true, some _ => s
    | false, none => s
    | false, some t =>
      let high := nsOf s - t
      let valid := !s.saf.swStuck && decide (resetMin ≤ high ∧ high ≤ resetMax)
      let s := modSaf (fun u => { u with swRise := none, swStuck := false }) s
      if valid then actReset (BitVec.allOnes 12) s else count .sio 0 6 s

/-- SWRST_STUCK (R418): a set held longer than 3 s. [DEDUCED, log 75] -/
def swrstStuck (s : State) : State :=
  match s.saf.swRise with
  | some t =>
    if s.saf.swStuck = false ∧ t + resetMax < nsOf s then irq .sio 0 sioRstStuck (modSaf (fun u => { u with swStuck := true }) s) else s
  | none => s

-- The hub service window (R419, R420)

/-- Its length, s. -/
def svcSeconds : Nat := 28800

/-- Seconds left (R420). -/
def svcLeft (s : State) : Nat := if s.saf.svcOn then svcSeconds - (nsOf s - s.saf.svcStart) / 10 ^ 9 else svcSeconds

/-- HUB_SERVICE_WINDOW_BEGIN (R419): hub `h` remains. [DESIGN CHOICE, log 101] -/
def beginWindow (h : Hub) (s : State) : State :=
  if s.saf.svcOn then s
  else
    let s := modSaf (fun u => { u with svcOn := true, svcHub := h, svcStart := nsOf s, svcOver := false }) s
    logChange 7 false 0x0E 0 0 0 5 (count .sio 0 8 (irq .sio 0 sioSvcWin s))

/-- The window ends (R419, R447). [DESIGN CHOICE, log 101] -/
def endWindow (s : State) : State :=
  if s.saf.svcOn then logChange 7 false 0x0E 0 0 0 6 (modSaf (fun u => { u with svcOn := false, svcOver := false }) s) else s

/-- SVCWARN (R420): 3,600 s remain. [DESIGN CHOICE, log 100] -/
def svcWarn (s : State) : State := irqIf (s.saf.svcOn && decide (svcLeft s ≤ 3600)) .sio 0 sioSvcWarn s

/-- SERVICE_WINDOW_EXPIRY (R420). -/
def svcExpiry (s : State) : State :=
  if s.saf.svcOn = true ∧ s.saf.svcOver = false ∧ svcLeft s = 0 then cellSs1 13 (modSaf (fun u => { u with svcOver := true }) s) else s

-- What the page shows (R429)

/-- `IN_STAT`. -/
def inStat (s : State) : Word :=
  BitVec.ofNat 32 (s.saf.inFault.toNat * 65536 + ((List.range 16).filter (inputOn s)).foldl (fun w i => w + 2 ^ i) 0)

/-- `IN_RAW` of a hub. -/
def inRaw (s : State) (h : Hub) : Word := BitVec.ofNat 32 ((s.saf.chanB[h]).toNat * 65536 + (s.saf.chanA[h]).toNat)

/-- `OUT_STAT`: an STO pair is on while both its channels are. -/
def outStat (s : State) : Word :=
  let so := ((List.range 4).filter (soOn s)).foldl (fun w i => w + 2 ^ i) 0
  BitVec.ofNat 32 (s.saf.out.sbc.toNat * 65536 + so * 4096 + (s.saf.out.stoA &&& s.saf.out.stoB).toNat)

/-- `RST_STAT`. -/
def rstStat (s : State) : Word :=
  let b := fun (x : Bool) k => b2n x * 2 ^ k
  BitVec.ofNat 32 (b s.saf.rstStuck[(1 : Fin 2)] 5 + b s.saf.rstStuck[(0 : Fin 2)] 4 + b s.saf.rstLvl[(1 : Fin 2)] 1 + b s.saf.rstLvl[(0 : Fin 2)] 0)

/-- `SVC`. -/
def svcWord (s : State) : Word := BitVec.ofNat 32 (b2n s.saf.svcOn * 2 ^ 31 + s.saf.svcHub.val * 2 ^ 30 + svcLeft s)

/-- SAFETY_INPUT_FILTER. -/
def execSafetyInputFilter (i : Sixteen) (channel : Fin 2) (level : Bool) (hubs : Vector Bool 2) (s : State) :
    Host.Outcome State Fault Refusal := run (inputFilter i channel level hubs) s
/-- INPUT_FAULT. -/
def execInputFault (i : Sixteen) (s : State) : Host.Outcome State Fault Refusal := run (inputFault i) s
/-- OUTPUT_FAULT. -/
def execOutputFault (o : Fin 28) (s : State) : Host.Outcome State Fault Refusal := run (outputFault o.val) s
/-- TEST_PULSE. -/
def execTestPulse (o : Sixteen) (channel : Fin 2) (s : State) : Host.Outcome State Fault Refusal := run (testPulse o channel) s
/-- TEST_PULSE_RESULT. -/
def execTestPulseResult (o : Sixteen) (channel : Fin 2) (sawOff sawOn : Bool) (s : State) : Host.Outcome State Fault Refusal :=
  run (testPulseResult o channel sawOff sawOn) s
/-- RESET_INPUT_RISING_EDGE. -/
def execResetInputRisingEdge (dt : Nat) (x : ResetEdge) (s : State) : Host.Outcome State Fault Refusal :=
  run (fun s => resetRise x.input x.differs (advance dt s)) s
/-- STUCK_RESET. -/
def execStuckReset (i : Fin 2) (s : State) : Host.Outcome State Fault Refusal := run (resetStuck i) s
/-- SWRST_STUCK. -/
def execSwrstStuck (s : State) : Host.Outcome State Fault Refusal := run swrstStuck s
/-- SVCWARN. -/
def execSvcwarn (s : State) : Host.Outcome State Fault Refusal := run svcWarn s

end Sys2Proof.Machine
end

