-- ==== Sys2Proof/Machine/Code.lean ====
section
/-! DEFINITION. The 8b/10b code of Wearline with its standard data and control characters (R111), the bursts of R112 and R113, and
what a receiver makes of a burst (R114). Bit 0 of a symbol is bit a, the first on the wire. -/

namespace Sys2Proof.Machine

/-- A character of the code: a data byte, or a control character by the byte of its name (y × 32 + x for Kx.y). -/
inductive Sym where
  | data (b : Byte)
  | ctrl (b : Byte)
  deriving DecidableEq, Repr

/-- Bits abcdei of D0.y to D31.y at negative running disparity, bit a lowest (R111). [PRESUMED, log 111] -/
def code6 : List (BitVec 6) :=
  [0b111001, 0b101110, 0b101101, 0b100011, 0b101011, 0b100101, 0b100110, 0b000111,
   0b100111, 0b101001, 0b101010, 0b001011, 0b101100, 0b001101, 0b001110, 0b111010,
   0b110110, 0b110001, 0b110010, 0b010011, 0b110100, 0b010101, 0b010110, 0b010111,
   0b110011, 0b011001, 0b011010, 0b011011, 0b011100, 0b011101, 0b011110, 0b110101]

/-- Bits fghj of Dx.0 to Dx.7 at negative running disparity, bit f lowest (R111). [PRESUMED, log 111] -/
def code4 : List (BitVec 4) := [0b1101, 0b1001, 0b1010, 0b0011, 0b1011, 0b0101, 0b0110, 0b0111]

/-- Bits fghj of K28.0 to K28.7 in a character that starts at negative running disparity. [PRESUMED, log 111] -/
def ctrl4 : List (BitVec 4) := [0b0010, 0b1001, 0b1010, 0b1100, 0b0100, 0b0101, 0b0110, 0b0001]

/-- The number of 1 bits. -/
def ones : Nat → Nat → Nat
  | 0, _ => 0
  | n + 1, v => v % 2 + ones n (v / 2)

/-- Running disparity after a group of bits: it changes where the group does not hold as many 1 bits as 0 bits. -/
def nextRd (rd : Bool) (n : Nat) (v : BitVec n) : Bool := if 2 * ones n v.toNat = n then rd else !rd

/-- Bits abcdei of a data byte; `rd` is true for positive running disparity. -/
def data6 (rd : Bool) (x : Nat) : BitVec 6 :=
  let v := code6.getD x 0
  if rd && (2 * ones 6 v.toNat != 6 || x == 7) then ~~~v else v

/-- Dx.7 takes its alternate bits 0111 after an x that would give five equal bits in a row. [PRESUMED, log 111] -/
def alternate (rd : Bool) (x : Nat) : Bool :=
  if rd then x == 11 || x == 13 || x == 14 else x == 17 || x == 18 || x == 20

/-- Bits fghj of a data byte, at the running disparity after its first six bits. -/
def data4 (rd : Bool) (x y : Nat) : BitVec 4 :=
  let v : BitVec 4 := if y = 7 && alternate rd x then 0b1110 else code4.getD y 0
  if rd && (2 * ones 4 v.toNat != 4 || y == 3) then ~~~v else v

/-- A data character (R111). -/
def dataSym (rd : Bool) (b : Byte) : BitVec 10 :=
  let x := b.toNat % 32
  let u := data6 rd x
  data4 (nextRd rd 6 u) x (b.toNat / 32) ++ u

/-- A control character K28.y, K23.7, K27.7, K29.7 or K30.7 (R111). [PRESUMED, log 111] -/
def ctrlSym (rd : Bool) (b : Byte) : BitVec 10 :=
  let x := b.toNat % 32
  let v : BitVec 10 := if x = 28 then ctrl4.getD (b.toNat / 32) 0 ++ (0b111100 : BitVec 6) else (0b0001 : BitVec 4) ++ code6.getD x 0
  if rd then ~~~v else v

/-- The symbol of a character. -/
def encSym (rd : Bool) : Sym → BitVec 10
  | .data b => dataSym rd b
  | .ctrl b => ctrlSym rd b

/-- The symbols of a row of characters. -/
def encode : Bool → List Sym → List (BitVec 10)
  | _, [] => []
  | rd, x :: r => encSym rd x :: encode (nextRd rd 10 (encSym rd x)) r

/-- The control characters of Wearline: K28.5, start-of-frame K27.7, end-of-frame K29.7, K23.7 (R112, R113). -/
def K28_5 : Byte := 0xBC
def K27_7 : Byte := 0xFB
def K29_7 : Byte := 0xFD
def K23_7 : Byte := 0xF7

/-- The preamble (R112). -/
def preamble : List Sym := List.replicate 8 (.ctrl K28_5)

/-- The symbols of a burst that carries a frame, from negative running disparity (R111, R112). -/
def burstSyms (frame : List Byte) : List (BitVec 10) :=
  encode false (preamble ++ .ctrl K27_7 :: frame.map .data ++ [.ctrl K29_7, .ctrl K28_5])

/-- The symbols of the collision-avoidance symbol (R113). -/
def casSyms : List (BitVec 10) := encode false (preamble ++ List.replicate 4 (.ctrl K23_7))

/-- The control characters of the code. -/
def ctrlBytes : List Byte := [0x1C, 0x3C, 0x5C, 0x7C, 0x9C, 0xBC, 0xDC, 0xFC, 0xF7, 0xFB, 0xFD, 0xFE]

/-- The x of six bits, and the y of four bits, whatever the running disparity. -/
def find6 (u : BitVec 6) : Option Nat := (List.range 32).find? fun x => data6 false x == u || data6 true x == u
def find4 (x : Nat) (u : BitVec 4) : Option Nat := (List.range 8).find? fun y => data4 false x y == u || data4 true x y == u

/-- The character of a symbol at a running disparity; none where the symbol is no valid code there. -/
def decSym (rd : Bool) (v : BitVec 10) : Option Sym :=
  let d := (find6 (v.setWidth 6)).bind fun x => (find4 x ((v >>> 6).setWidth 4)).bind fun y =>
    let b := BitVec.ofNat 8 (y * 32 + x)
    if dataSym rd b = v then some (Sym.data b) else none
  match d with
  | some x => some x
  | none => (ctrlBytes.find? fun b => ctrlSym rd b == v).map .ctrl

/-- What a receiver makes of a burst: the frame bytes, whether it met a code violation, whether it met the end-of-frame (R114). -/
structure Received where
  bytes : List Byte
  violation : Bool
  ended : Bool
  deriving DecidableEq, Repr

/-- The frame after its start-of-frame: at most `n` more bytes may come (R114); bytes are gathered newest first. -/
def readFrame : Nat → Bool → List Byte → List (BitVec 10) → Received
  | _, _, acc, [] => ⟨acc.reverse, false, false⟩
  | n, rd, acc, v :: r =>
    match decSym rd v with
    | some (.data b) =>
      match n with
      | 0 => ⟨acc.reverse, true, false⟩
      | n + 1 => readFrame n (nextRd rd 10 v) (b :: acc) r
    | some (.ctrl k) => if k = K29_7 then ⟨acc.reverse, decide (acc.length < 16), true⟩ else ⟨acc.reverse, true, false⟩
    | none => ⟨acc.reverse, true, false⟩

/-- Whether a symbol is a valid code at either running disparity. -/
def validCode (v : BitVec 10) : Bool := (decSym false v).isSome || (decSym true v).isSome

/-- From the first symbol after alignment to the start-of-frame: none where no frame starts; the flag tells of a symbol that is no
valid code, which counts as a frame with a code violation. -/
def seekFrame : Bool → List (BitVec 10) → Option Received
  | bad, [] => if bad then some ⟨[], true, false⟩ else none
  | bad, v :: r =>
    if v = ctrlSym false K27_7 then (let x := readFrame 1032 false [] r; some { x with violation := x.violation || bad })
    else if v = ctrlSym true K27_7 then some ⟨[], true, false⟩
    else seekFrame (bad || !validCode v) r

/-- RECEPTION (R114) of symbols: a receiver is aligned after 6 preamble symbols; a burst without start-of-frame carries no frame.
[DEDUCED, log 111] -/
def received (l : List (BitVec 10)) : Option Received := seekFrame false (l.drop 6)

/-- The frame bytes of a burst that the module has sent. -/
def sentBytes (l : List (BitVec 10)) : List Byte := ((received l).map (·.bytes)).getD []

end Sys2Proof.Machine
end

