-- ==== Sys2Proof/Machine/WlFrames.lean ====
section
/-! DEFINITION. Wearline frames and schedules: the frame layout and its checks, sync and training payloads, the schedule in
force, coefficient entries (R116, R118, R127 to R144, R154). -/

namespace Sys2Proof.Machine

-- IRQ_STAT bits of the WLC and WLS pages
def wlcTrainDone : Nat := 8
def wlcUntrained : Nat := 9
def wlcDrift : Nat := 10
def wlcLoopErr : Nat := 11
def wlcTxFault : Nat := 12
def wlsCons : Nat := 8
def wlsConsEnd : Nat := 9
def wlsEpoch : Nat := 10
def wlsEpAbort : Nat := 11
def wlsRxAvail : Nat := 12
def wlsNodeNack : Nat := 13
def wlsLate : Nat := 14
def wlsBothLost : Nat := 15

/-- Change Wearline. -/
def modWl (f : Wearline → Wearline) (s : State) : State := { s with wl := f s.wl }

/-- The two hubs, the two channels. -/
def bothOf : List (Fin 2) := [0, 1]

/-- The bit of a hub's transceiver on a channel in a mask. -/
def wlBit (h : Hub) (c : Chan) : Nat := 2 * h.val + c.val

/-- Set or clear that bit. -/
def putWl (m : BitVec 4) (h : Hub) (c : Chan) (x : Bool) : BitVec 4 := setBit m (wlBit h c) x

/-- A vector by hub of vectors by channel, changed at one place. -/
def hcMod (v : Vector (Vector α 2) 2) (h : Hub) (c : Chan) (f : α → α) : Vector (Vector α 2) 2 := vmod v h fun x => vmod x c f

/-- The active and the next schedule bank (R159). -/
def wlBank (s : State) : Option WlBank := s.wl.banks[s.wl.act]
def wlNext (s : State) : Option WlBank := s.wl.banks[other s.wl.act]

/-- The symbol time T, ns (R105). -/
def symbolNs (b : WlBank) : Nat := 20 * 2 ^ b.rate.toNat

/-- The cycle count CYC (R130). -/
def cycOf (s : State) : Nat := s.clk.tag.toNat % 64

/-- Start of static slot `k`, of the dynamic segment and of the symbol window, ns after the sync instant (R128, R129). -/
def slotStart (b : WlBank) (k : Nat) : Nat := 20 * ((k - 1) * b.slotLen)
def dynStart (b : WlBank) : Nat := 20 * (b.slots * b.slotLen)
def symStart (b : WlBank) : Nat := dynStart b + 20 * (b.minis * b.miniLen)

/-- Bus cycles run and Wearline takes part in them. -/
def wlRuns (s : State) : Bool := s.clk.started && (s.wl.phase == .start || s.wl.phase == .integrate || s.wl.phase == .run)

-- The schedule in force (R155, R164)

/-- The static rows of a channel: those of the consolidated schedule on the kept channel, with the hubs' own sync slots on the
other (R164). -/
def staticRows (s : State) (b : WlBank) (c : Chan) : List SlotRow :=
  if s.wl.consAct then
    if c = s.wl.kept then b.cons else b.cons.filter fun r => r.kind == 1 && decide (r.node ≤ 1)
  else b.two.filter fun r => r.ch == c

/-- The row of static slot `k`. -/
def rowAt (s : State) (b : WlBank) (c : Chan) (k : Nat) : Option SlotRow := (staticRows s b c).find? fun r => r.fid == k

/-- The row of a dynamic frame ID. -/
def dynRow (s : State) (b : WlBank) (c : Chan) (fid : Nat) : Option SlotRow :=
  if s.wl.consAct then (if c = s.wl.kept then b.dynCons.find? fun r => r.fid == fid else none)
  else b.dynTwo.find? fun r => r.fid == fid && r.ch == c

/-- Whether static slot `k` is the first one of its node on the channel (R118). -/
def firstSlot (s : State) (b : WlBank) (c : Chan) (r : SlotRow) : Bool :=
  (staticRows s b c).all fun x => x.node != r.node || decide (r.fid ≤ x.fid)

-- Frames (R133 to R138)

/-- The header fields of a frame. -/
structure Hdr where
  fid : Nat
  cyc : Nat
  len : Nat
  sync : Bool := false
  chirp : Bool := false
  null : Bool := false
  lane : Bool := false
  role : Bool := false
  seq : Nat
  node : Nat
  epoch : Nat
  kind : Nat
  deriving DecidableEq, Repr

/-- Header bytes 0 to 9 (R133). -/
def Hdr.bytes (x : Hdr) : List Byte :=
  leBytes 4 (x.fid + x.cyc * 2 ^ 10 + x.len * 2 ^ 16 + b2n x.sync * 2 ^ 24 + b2n x.chirp * 2 ^ 25 + b2n x.null * 2 ^ 26 +
    b2n x.lane * 2 ^ 27 + b2n x.role * 2 ^ 28) ++
  leBytes 4 (x.seq + x.node * 2 ^ 16 + x.epoch * 2 ^ 24) ++ leBytes 2 x.kind

/-- A whole frame (R133 to R135). -/
def frameBytes (x : Hdr) (payload : List Byte) : List Byte :=
  let head := x.bytes ++ leBytes 2 (crc16 x.bytes).toNat
  let body := head ++ payload
  body ++ leBytes 4 (crc32 body).toNat

/-- The header of a received frame (R133). -/
def readHdr (b : List Byte) : Hdr :=
  let w := leAt b 0 4
  let x := leAt b 4 4
  { fid := w % 2 ^ 10, cyc := w / 2 ^ 10 % 64, len := w / 2 ^ 16 % 256, sync := w / 2 ^ 24 % 2 == 1, chirp := w / 2 ^ 25 % 2 == 1
    null := w / 2 ^ 26 % 2 == 1, lane := w / 2 ^ 27 % 2 == 1, role := w / 2 ^ 28 % 2 == 1
    seq := x % 2 ^ 16, node := x / 2 ^ 16 % 64, epoch := x / 2 ^ 24 % 16, kind := leAt b 8 1 }

/-- The payload of a frame. -/
def framePayload (b : List Byte) : List Byte := (b.drop 12).take (4 * (readHdr b).len)

/-- Check 2 of R139 (R134). -/
def hcrcOk (b : List Byte) : Bool := decide (12 ≤ b.length) && leAt b 10 2 == (crc16 (b.take 10)).toNat

/-- Check 3 (R135). -/
def crcOk (b : List Byte) : Bool :=
  let n := 12 + 4 * (readHdr b).len
  b.length == n + 4 && leAt b n 4 == (crc32 (b.take n)).toNat

/-- The first of checks 1 to 3 of R139 that a frame fails; 0 where it passes them. A burst that ends before its end-of-frame fails its
CRC (R194). [DEDUCED, log 111] -/
def crcCheck (x : Received) : Nat :=
  if x.violation then 1 else if hcrcOk x.bytes = false then 2 else if (x.ended && crcOk x.bytes) = false then 3 else 0

/-- Checks 1 to 3. -/
def intact (x : Received) : Bool := crcCheck x == 0

/-- Whether a frame is a training frame (R118, R137). -/
def isTraining (x : Hdr) : Bool := x.null && x.len == 32

/-- The PRBS-7 sequence x⁷ + x⁶ + 1 from the last seven bits, oldest first (R118). -/
def prbs : Nat → List Bool → List Bool
  | 0, _ => []
  | n + 1, w => w.headD true :: prbs n (w.drop 1 ++ [(w.headD true) != (w.drop 1).headD true])

/-- Bits packed least significant first. -/
def packBits : Nat → List Bool → List Byte
  | 0, _ => []
  | n + 1, l => BitVec.ofNat 8 ((l.take 8).foldr (fun x m => 2 * m + b2n x) 0) :: packBits n (l.drop 8)

/-- The payload of a training frame (R118). -/
def trainingPayload : List Byte := packBits 128 (prbs 1024 (List.replicate 7 true))

/-- The payload of a sync frame (R144): the announced epoch reads 0 while none is announced. [DESIGN CHOICE, log 49] -/
def syncPayload (s : State) (b : WlBank) : List Byte :=
  let w := s.wl
  let next := match wlNext s with
    | some n => if 0 < w.epCd ∧ w.exitAnn = false then n.epoch.toNat else 0
    | none => 0
  let chan := if w.consAct ∨ 0 < w.consCd then w.kept.val else 0
  leBytes 6 s.clk.tag.toNat ++
    [BitVec.ofNat 8 (b.epoch.toNat + next * 16), BitVec.ofNat 8 w.epCd,
      BitVec.ofNat 8 (b2n (decide (0 < w.consCd)) + b2n w.consAct * 2 + chan * 4 + b2n w.exitAnn * 8 + w.consCd * 16),
      0, b.rate.setWidth 8, 0, 0, 0, 0, 0]

/-- The payload of a chirp frame (R186). -/
def chirpPayload (s : State) (b : WlBank) : List Byte :=
  leBytes 6 s.wl.upCycles ++ [b.epoch.setWidth 8, 0, 0, 0, b.rate.setWidth 8, 0, 0, 0, 0, 0]

/-- A header of the running cycle; `SEQ` is the cycle tag modulo 2¹⁶ (R140). -/
def headerOf (s : State) (b : WlBank) (h : Hub) (fid kind len : Nat) : Hdr :=
  { fid := fid, cyc := cycOf s, len := len, seq := s.clk.tag.toNat % 2 ^ 16, node := h.val, epoch := b.epoch.toNat, kind := kind }

-- Coefficient entries (R116, R117)

/-- The entry of a node at a hub on a channel. [DESIGN CHOICE, log 60] -/
def eqEntry (s : State) (h : Hub) (c : Chan) (n : Nat) : EqEntry := Sparse.get {} n (s.wl.eq[h])[c]

/-- Change an entry. -/
def modEq (h : Hub) (c : Chan) (n : Nat) (f : EqEntry → EqEntry) (s : State) : State :=
  modWl (fun w => { w with eq := hcMod w.eq h c fun t => Sparse.put {} n (f (Sparse.get {} n t)) t }) s

/-- A signed 6-bit tap as a field. -/
def tapBits (x : Int) : Nat := (x % 64).toNat

/-- Coefficients laid out as in `EQ_DATA` and `EQ_DEF` (R125). -/
def eqWord (e : EqEntry) : Word :=
  BitVec.ofInt 32 (e.ctle * 2 ^ 20 + (tapBits (e.h[(0 : Fin 3)]) * 2 ^ 12 + tapBits (e.h[(1 : Fin 3)]) * 2 ^ 6 + tapBits (e.h[(2 : Fin 3)]) : Nat))

/-- The coefficients of `EQ_DEF`. -/
def defCtle (s : State) (c : Chan) : Int := fld s .wlc c Reg.WLC_EQ_DEF 23 20
def defTaps (s : State) (c : Chan) : Vector Int 3 :=
  ⟨#[sext 6 (fld s .wlc c Reg.WLC_EQ_DEF 17 12), sext 6 (fld s .wlc c Reg.WLC_EQ_DEF 11 6), sext 6 (fld s .wlc c Reg.WLC_EQ_DEF 5 0)], rfl⟩

/-- An untrained entry at `EQ_DEF` (R119, R124). -/
def toDefault (s : State) (c : Chan) (e : EqEntry) : EqEntry :=
  { e with trained := false, atlim := false, ctle := defCtle s c, h := defTaps s c, ctleMid := defCtle s c, hMid := defTaps s c }

/-- The hubs load the coefficients for node `n`; `EQ_DEF` before the schedule is in force or for an untrained entry (R117). -/
def loadEq (c : Chan) (n : Option Nat) (s : State) : State :=
  forEach bothOf (fun h s =>
    let w := match n with
      | some n =>
        let e := eqEntry s h c n
        if e.trained ∧ s.wl.op ≠ 0 then eqWord e else reg s .wlc c Reg.WLC_EQ_DEF
      | none => reg s .wlc c Reg.WLC_EQ_DEF
    modWl (fun x => { x with eqUse := hcMod x.eqUse h c fun _ => w }) s) s

/-- RETRAIN on one entry (R124). -/
def retrainEntry (h : Hub) (c : Chan) (clear : Bool) (n : Nat) (s : State) : State :=
  modEq h c n (fun e =>
    if clear then { toDefault s c e with offset := 0, slots := 0, good := 0, devSum := 0, done := false }
    else { e with atlim := false, ctleMid := e.ctle, hMid := e.h }) s

/-- RETRAIN and RETRAIN_CLEAR (R124). -/
def retrain (c : Chan) (n : Nat) (all clear : Bool) (s : State) : State :=
  forEach bothOf (fun h s => forEach (if all then List.range 64 else [n % 64]) (retrainEntry h c clear) s) s

/-- Whether a coefficient stands at the limit of its drift window (R123). -/
def atLimit (mid lim x : Int) : Bool := decide (lim ≤ absI (x - mid))

/-- One adaptation step of a coefficient: −1, 0 or 1 as the free value says; one at its limit stays (R122, R123). -/
def stepCoeff (lo hi mid lim x : Int) (pick : Nat) : Int :=
  if atLimit mid lim x then x
  else
    let y := x + (if pick = 1 then 1 else if pick = 2 then -1 else 0)
    if y < lo ∨ hi < y then x else y

/-- The eye opening of a good frame, a free value (R125). [DESIGN CHOICE, log 60] -/
def noteEye (h : Hub) (c : Chan) (n : Nat) (s : State) : State :=
  let k := drawFree s
  modEq h c n (fun e => { e with eye := (Config.freeWord k.1).toNat % 64 }) k.2

/-- EQUALISER_ADAPTATION (R122, R123) of the entry of node `n` at one hub after a good frame. [DESIGN CHOICE, log 60] -/
def adapt (h : Hub) (c : Chan) (n : Nat) (s : State) : State :=
  let s := noteEye h c n s
  if bit (reg s .wlc c Reg.WLC_CFG) 0 then
    let k := drawFree s
    let w := (Config.freeWord k.1).toNat
    let s := k.2
    let e := eqEntry s h c n
    let lc : Int := fld s .wlc c Reg.WLC_DRIFT_LIM 3 0
    let ld : Int := fld s .wlc c Reg.WLC_DRIFT_LIM 13 8
    let ctle := stepCoeff 0 15 e.ctleMid lc e.ctle (w % 4)
    let tap := fun (i : Fin 3) => stepCoeff (-32) 31 (e.hMid[i]) ld (e.h[i]) (w / 4 ^ (i.val + 1) % 4)
    let taps : Vector Int 3 := ⟨#[tap 0, tap 1, tap 2], rfl⟩
    let three : List (Fin 3) := [0, 1, 2]
    let lim := atLimit e.ctleMid lc ctle || three.any fun i => atLimit (e.hMid[i]) ld taps[i]
    let reached := (atLimit e.ctleMid lc ctle && !atLimit e.ctleMid lc e.ctle) ||
      three.any fun i => atLimit (e.hMid[i]) ld taps[i] && !atLimit (e.hMid[i]) ld (e.h[i])
    let rise := lim && !e.atlim
    let s := modEq h c n (fun e => { e with ctle := ctle, h := taps, atlim := e.atlim || lim }) s
    let s := irqIf (reached || rise) .wlc c wlcDrift s
    if rise then countHub h .wlc c 4 s else s
  else s

-- Bursts in flight (R15, R32, R193, R194)

/-- A slot count of a hub goes back by one. -/
def ungood (h : Hub) (c : Chan) (s : State) : State := modWl (fun w => { w with good := hcMod w.good h c (· - 1) }) s

/-- A frame that counted at a hub as received with good CRCs counts as one with a CRC error, or not at all. -/
def recount (h : Hub) (c : Chan) (cut : Bool) (s : State) : State :=
  let k := regKey .wlc c Reg.CNT
  let s := { s with hubCnt := vmod s.hubCnt h fun l => Sparse.put 0 k (Sparse.get 0 k l - 1) l }
  if cut then countHub h .wlc c 1 s else s

/-- A burst of a hub is cut after `n` symbols: it no longer counts as a good slot, and the other hub receives a frame that fails its
CRC, if it receives its start-of-frame (R194). [DEDUCED, log 48] -/
def cutFrame (n : Nat) (x : WireFrame) (s : State) : State × WireFrame :=
  let y := { x with syms := x.syms.take n }
  let spoilt := match received y.syms with
    | some r => !intact r
    | none => true
  if spoilt then
    let s := forEach bothOf (fun g s => if x.good.getLsbD g.val then ungood g x.ch s else s) s
    (if s.clk.alive[other x.hub] && decide (0 < x.fid) then recount (other x.hub) x.ch (decide (9 ≤ n)) s else s, { y with good := 0 })
  else (s, y)

/-- The symbols of a burst that are on the wire at the present instant. -/
def sentSymbols (s : State) (x : WireFrame) : Nat :=
  match wlBank s with
  | some b => (s.clk.now - x.start) / (symbolNs b * 2 ^ 32)
  | none => x.syms.length

/-- Whether a burst is on the wire at the present instant. -/
def inFlight (s : State) (x : WireFrame) : Bool := decide (x.start ≤ s.clk.now) && decide (sentSymbols s x < x.syms.length)

/-- Cut the bursts of the running cycle that `pick` names after the symbols that it gives. -/
def cutWire (pick : WireFrame → Option Nat) (s : State) : State :=
  let r := s.wl.wire.foldr (fun x (a : State × List WireFrame) =>
    match pick x with
    | some n => let y := cutFrame n x a.1; (y.1, y.2 :: a.2)
    | none => (a.1, x :: a.2)) (s, [])
  modWl (fun w => { w with wire := r.2 }) r.1

/-- A hub stops transmitting at once: what it has not sent yet is cut off (R15, R32). -/
def cutHub (h : Hub) (s : State) : State :=
  cutWire (fun x => if x.hub = h ∧ sentSymbols s x < x.syms.length then some (sentSymbols s x) else none) s

-- The feedback instant (R132)

/-- The end of the last slot of feedback or guard frames, ns after the sync instant. -/
def feedbackEnd (b : WlBank) (rows : List SlotRow) : Nat :=
  rows.foldl (fun m r => if r.kind = 3 ∨ r.kind = 4 then max m (20 * (r.fid * b.slotLen)) else m) 0

/-- T_fb in µs (R132): of the schedule in force. -/
def feedbackUs (s : State) (b : WlBank) : Nat := (feedbackEnd b (if s.wl.consAct then b.cons else b.two) + 999) / 1000

-- The soldier's tables (R154, R193)

/-- `CYCLE`, `STATIC`, `DYN`, `TAIL` of a bank (R168). -/
def wlCycle (b : WlBank) : Word := BitVec.ofNat 32 b.cycle
def wlStatic (b : WlBank) : Word := BitVec.ofNat 32 (b.apo * 2 ^ 24 + b.slotLen * 256 + b.slots)
def wlDyn (b : WlBank) : Word := BitVec.ofNat 32 (b.miniApo * 2 ^ 24 + b.miniLen * 2 ^ 16 + b.minis)
def wlTail (b : WlBank) : Word := BitVec.ofNat 32 (b.nit * 2 ^ 15 + b.symWin)

/-- The rows that the hubs' transmitters serve. -/
def hubRows (l : List SlotRow) : List SlotRow := l.filter fun r => decide (r.node ≤ 1)

/-- A node table of the hubs (R154): every entry transmits. -/
def tableBytes (b : WlBank) (rows : List SlotRow) : List Byte :=
  leBytes 4 (b.epoch.toNat + rows.length * 256 + b.rate.toNat * 2 ^ 17) ++ leBytes 4 (wlCycle b).toNat ++ leBytes 4 (wlStatic b).toNat ++
    leBytes 4 (wlDyn b).toNat ++
    rows.flatMap fun r => leBytes 4 (r.fid + r.ch.val * 2 ^ 10 + 2 ^ 11 + r.kind * 2 ^ 16 + r.stream * 2 ^ 24) ++ leBytes 4 r.len

/-- What the soldier of a channel copies at a commit (R193), with the CRC-32 of both tables. [DEDUCED, log 48] -/
def soldierTable (b : WlBank) (c : Chan) : SoldierTable :=
  let two := hubRows (b.two ++ b.dynTwo)
  let cons := hubRows (b.cons ++ b.dynCons)
  { crc := crc32 (tableBytes b two ++ tableBytes b cons)
    slots := (hubRows b.two).filter (fun r => r.ch == c) ++ hubRows b.cons
    dyn := (hubRows b.dynTwo).filter (fun r => r.ch == c) ++ hubRows b.dynCons }

/-- Bank `i` is committed to the soldiers of both hubs (R193). -/
def commitSoldiers (i : Fin 2) (s : State) : State :=
  match s.wl.banks[i] with
  | some b => forEach bothOf (fun h s => forEach bothOf (fun c s =>
      modWl (fun w => { w with soldier := hcMod w.soldier h c fun t => vset t i (some (soldierTable b c)) }) s) s) s
  | none => s

/-- Whether the soldier of a hub on a channel opens a window for a row; for the symbol window and the collision-avoidance symbol (no row)
it opens one at the reference hub (R193). -/
def soldierOpens (s : State) (h : Hub) (c : Chan) (r : Option SlotRow) : Bool :=
  match ((s.wl.soldier[h])[c])[s.wl.act], r with
  | some t, some r => (if r.fid < 256 then t.slots else t.dyn).any fun x => x.fid == r.fid && x.node == r.node && x.kind == r.kind
  | some _, none => s.clk.refHub == h
  | none, _ => false

end Sys2Proof.Machine
end

