-- ==== Sys2Proof/Machine/Cartridge.lean ====
section
/-! DEFINITION. Cartridges, roles, fences, re-admission, custodians and their votes, spares (R15, R23, R29 to R32, R433 to R449,
R455 to R458). -/

namespace Sys2Proof.Machine

-- IRQ_STAT bits of the CRT and CUS pages
def crtStateChg : Nat := 8
def crtJoined : Nat := 9
def crtCheckFail : Nat := 10
def crtLever : Nat := 11
def crtWithdraw : Nat := 12
def cusFence : Nat := 8
def cusSelfFence : Nat := 9
def cusNoMaj : Nat := 10
def cusRoleChg : Nat := 11
def cusLoadDone : Nat := 12
def cusFwSw : Nat := 13

/-- The code of a cartridge state (R440, R462). -/
def CartState.code : CartState → Nat
  | .empty => 0 | .power => 1 | .selftest => 2 | .cocoon => 3 | .load => 4 | .track => 5 | .check => 6 | .instep => 7
  | .faulted => 8 | .off => 9 | .lock => 10 | .silent => 11

/-- The code of a role (R462). -/
def Role.code : Role → Nat
  | .none => 0 | .lead => 1 | .second => 2 | .reserve => 3

/-- The hub of a hub cartridge, the lane of a lane cartridge. -/
def cartHub (c : Cart) : Option Hub := if h : 3 ≤ c.val then some ⟨c.val - 3, by omega⟩ else none
def cartLane (c : Cart) : Option Lane := if h : c.val < 3 then some ⟨c.val, h⟩ else none

/-- A cartridge enters a state: `STATECHG` sets (R462). -/
def setState (c : Cart) (x : CartState) (s : State) : State :=
  if (s.carts[c]).st = x then s else irq .crt c crtStateChg (modCart c (fun k => { k with st := x }) s)

/-- Fenced: present and out of the step (R440, R462). -/
def fenced (s : State) (c : Cart) : Bool := (s.carts[c]).st != .instep && (s.carts[c]).st != .empty

/-- In re-admission (R440, R446). -/
def readmitting (k : Cartridge) : Bool := k.st == .lock || k.st == .load || k.st == .track || k.st == .check

/-- Whether another cartridge of the same kind is in re-admission. -/
def otherReadmits (s : State) (c : Cart) : Bool :=
  allCarts.any fun d => d != c && (decide (3 ≤ d.val) == decide (3 ≤ c.val)) && readmitting s.carts[d]

/-- The source of a re-admission: the second, or the lead where it alone remains (R440). -/
def sourceLane (s : State) : Option Lane :=
  match laneOfRole s .second with
  | some l => some l
  | none => laneOfRole s .lead

/-- An event of the acting custodians: counter `n` and one `IRQ_STAT` bit. -/
def cusEvent (b : Nat) (n : Option Nat) (s : State) : State :=
  forEach [(0 : Hub), 1] (fun h s =>
    if (s.cus[h]).st = .acting then
      let s := irq .cus h b s
      match n with
      | some k => count .cus h k s
      | none => s
    else s) s

-- Roles (R27, R29, R30, R32, R439)

/-- Give a lane a role. -/
def setRole (l : Lane) (r : Role) (s : State) : State :=
  if (s.carts[laneCart l]).role = r then s else modCart (laneCart l) (fun k => { k with role := r }) s

/-- A vacant role passes to the lane that holds another. -/
def passRole (fromRole toRole : Role) (s : State) : State :=
  if (laneOfRole s toRole).isNone then
    match laneOfRole s fromRole with
    | some l => setRole l toRole s
    | none => s
  else s

/-- ROLE_CHANGE (R32): roles of lanes out of the step pass on. -/
def roleSync (s : State) : State :=
  let t := forEach allLanes (fun l s => if laneIn s l then s else setRole l .none s) s
  let t := passRole .reserve .second (passRole .second .lead t)
  let t := passRole .reserve .lead t
  if allLanes.any (fun l => (s.carts[laneCart l]).role != (t.carts[laneCart l]).role) then cusEvent cusRoleChg (some 6) t else t

/-- Roles at a planned bring-up, in bay order (R29). -/
def bayRoles (s : State) : State :=
  forEach ((lanesIn s).zip [Role.lead, Role.second, Role.reserve]) (fun x s => setRole x.1 x.2 s) s

-- Fences (R436, R438, R445)

/-- Where a cartridge that leaves the step goes: its bay is empty, its lever is open, it is too hot, or its self-test runs.
[DEDUCED, log 68] -/
def afterFence (k : Cartridge) : CartState :=
  if k.gone then .empty else if k.lever then .off else if k.hot then .cocoon else .selftest

/-- The lanes in re-admission return to LOAD when their source has gone (R440). -/
def restartLoads (s : State) : State :=
  forEach allLanes (fun l s =>
    let k := s.carts[laneCart l]
    if k.st = .load ∨ k.st = .track ∨ k.st = .check then
      setState (laneCart l) .load (modCart (laneCart l) (fun k => { k with
        loaded := false, passed := false, cycles := 0, run := 0, journal := 0, pages := 0, equalRun := 0, timelyRun := 0, xferDone := 0 }) s)
    else s) s

/-- FENCE_LANE (R436). [DEDUCED, log 68] -/
def fenceLane (l : Lane) (cause : Nat) (s : State) : State :=
  let c := laneCart l
  if (s.carts[c]).st = .instep then
    let source := sourceLane s
    let s := count .crt c 0 (setState c (afterFence s.carts[c]) s)
    let s := modCart c (fun k => { k with
      cause := cause, fencePend := none, fenceTag := lo32 (s.clk.tag.setWidth 64), loaded := false, passed := false, gone := false }) s
    let s := { s with vote := { s.vote with excluded := putBit s.vote.excluded l.val false } }
    lanesLost (if source = some l then restartLoads s else s)
  else s

/-- Every output is off when no hub drives (R460). -/
def outputsDead (s : State) : State := modOut (fun o => { o with stoA := 0, stoB := 0, sbc := 0, stoPend := 0 }) s

/-- A hub stops driving: fenced, silent or withdrawn (R15, R19, R419, R445): what it was sending is cut off (R32), and its Ethernet port
has no link (R571). [DEDUCED, log 68] -/
def hubDown (h : Hub) (x : CartState) (cause : Nat) (s : State) : State :=
  let c := hubCart h
  let slave := sourceSlave s
  let s := if flag s .eth h Reg.ETH_LINK 0 then linkChange h false false (cutHub h s) else cutHub h s
  let s := { s with clk := { s.clk with alive := vset s.clk.alive h false }, link := { s.link with portUp := vset s.link.portUp h false } }
  let s := count .crt c 0 (setState c x s)
  let s := modCart c (fun k => { k with cause := cause, fencePend := none, fenceTag := lo32 (s.clk.tag.setWidth 64), loaded := false, gone := false }) s
  let s := { s with cus := vmod s.cus h fun u => { u with st := .silent, readmit := false } }
  let s := keepSource slave s
  let s := closeSessionOf (2 + h.val) (closeSessionOf h.val (modSec (fun x => { x with conns := x.conns.filter fun k => k != 2 + h.val }) s))
  if s.clk.alive[other h] then beginWindow (other h) s else outputsDead s

/-- Whether a hub cartridge runs though it does not drive: between its start and its join, or fenced. [DEDUCED, log 68] -/
def hubStandsBy (s : State) (h : Hub) : Bool :=
  match (s.carts[hubCart h]).st with
  | .selftest | .cocoon | .lock | .load | .track | .check | .faulted => true
  | _ => false

/-- SILENT (R15): the comparators of a hub find a mismatch; a hub that does not drive yet falls out of its re-admission.
[DEDUCED, log 68] -/
def silent (h : Hub) (s : State) : State :=
  if s.clk.alive[h] then hubDown h .silent 7 s
  else if hubStandsBy s h then
    setState (hubCart h) .silent (modCart (hubCart h) (fun k => { k with
      cause := 7, loaded := false, cycles := 0, run := 0, fenceTag := lo32 (s.clk.tag.setWidth 64) }) s)
  else s

/-- REFERENCE_TAKEOVER (R23, R24): H1 becomes the reference; H0 takes the role back only where H1 drives no more (R445).
[DEDUCED, log 109] -/
def takeover (s : State) : State :=
  let o := other s.clk.refHub
  if s.clk.alive[o] && (o == 1 || !s.clk.alive[(1 : Hub)]) then irq .tb 0 tbRefChg { s with clk := { s.clk with refHub := o } } else s

/-- Planned fences of hubs act at the sync instant (R445); fencing the reference moves it. -/
def fenceHubs (s : State) : State :=
  forEach [(0 : Hub), 1] (fun h s =>
    match (s.carts[hubCart h]).fencePend with
    | some cause =>
      let s := hubDown h (if (s.carts[hubCart h]).lever then .off else .cocoon) cause s
      if s.clk.refHub = h then takeover s else s
    | none => s) s

/-- Planned fences of lanes act at the plan-cycle start, with the roles (R438). -/
def fenceLanes (s : State) : State :=
  if allLanes.any fun l => (s.carts[laneCart l]).fencePend.isSome then
    roleSync (forEach allLanes (fun l s =>
      match (s.carts[laneCart l]).fencePend with
      | some cause => fenceLane l cause s
      | none => s) s)
  else s

/-- A fence is asked for by `FENCE` or by the lever (R438, R445, R449): accepted or not. [DEDUCED, log 68] -/
def askFence (c : Cart) (cause : Nat) (s : State) : State × Bool :=
  if (s.carts[c]).st ≠ .instep ∨ (s.carts[c]).fencePend.isSome then (s, true)
  else
    let refused : Bool := match cartHub c with
      | some h => (s.carts[hubCart (other h)]).st != .instep || s.saf.svcOn
      | none =>
        let left := (allLanes.filter fun l => laneIn s l && (s.carts[laneCart l]).fencePend.isNone && laneCart l != c).length
        otherReadmits s c || (decide (left < 2) && allArms.any fun (a : Arm) => decide ((s.saf.arm[a]).st ≤ 1))
    if refused then (recordErr .crt c 0x0100 s, false)
    else (modCart c (fun k => { k with fencePend := some cause }) s, true)

-- Re-admission (R440 to R447)

/-- The firmware of a cartridge runs the class that the module runs (R455). -/
def classFits (s : State) (c : Cart) : Bool :=
  (s.carts[c]).fwClass == if 3 ≤ c.val then s.img.hubClass else s.img.laneClass

/-- A re-admission begins: LOAD for a lane, LOCK for a hub (R440, R446). -/
def beginReadmit (c : Cart) (s : State) : State :=
  setState c (if 3 ≤ c.val then .lock else .load) (modCart c (fun k => { k with
    fails := 0, readmit := false, inserted := false, loaded := false, passed := false, cycles := 0, run := 0, journal := 0, pages := 0
    equalRun := 0, timelyRun := 0, xferTotal := Config.regionMiB.toNat, xferDone := 0 }) s)

/-- `READMIT` (R440, R462). [DEDUCED, log 69] -/
def writeReadmit (c : Cart) (s : State) : State :=
  let k := s.carts[c]
  if (k.st ≠ .cocoon ∧ k.st ≠ .faulted) ∨ otherReadmits s c then recordErr .crt c 0x0101 s else beginReadmit c s

/-- SOFT_START_COMPLETE (R440). -/
def softStart (c : Cart) (s : State) : State := if (s.carts[c]).st = .power then setState c .selftest s else s

/-- CARTRIDGE_INSERTED (R440, R449): its lever is still open. [DEDUCED, log 69] -/
def inserted (c : Cart) (s : State) : State :=
  if (s.carts[c]).st = .empty then
    count .crt c 5 (setState c .off (modCart c (fun k => { k with
      inserted := true, lever := true, gone := false, mute := false, hot := false, fails := 0, serial := k.serial + 1, map := 0, faults := 0
      fwVersion := BitVec.setWidth 16 (Config.freeWord s.clk.free), fwClass := BitVec.setWidth 16 (Config.freeWord (s.clk.free + 1))
      fwNext := BitVec.setWidth 16 (Config.freeWord (s.clk.free + 2)) }) (drawFree (drawFree (drawFree s).2).2).2))
  else s

/-- CARTRIDGE_REMOVED (R449): a cartridge removed in step is faulty; a lane is found silent, a hub falls silent at once.
[DEDUCED, log 68] -/
def removed (c : Cart) (s : State) : State :=
  let k := s.carts[c]
  if k.st = .empty ∨ k.gone = true then s
  else
    let s := irq .crt c crtWithdraw s
    if k.st = .instep then
      match cartHub c with
      | some h => hubDown h .empty 7 s
      | none => modCart c (fun k => { k with gone := true, mute := true }) s
    else setState c .empty (modCart c (fun k => { k with loaded := false, passed := false, molt := none }) s)

/-- LEVER_OPENED (R449). -/
def leverOpened (c : Cart) (s : State) : State :=
  if (s.carts[c]).st = .empty ∨ (s.carts[c]).lever = true then s
  else
    let s := count .crt c 4 (modCart c (fun k => { k with lever := true }) s)
    if (s.carts[c]).st = .instep then
      let r := askFence c 5 s
      if r.2 then r.1 else irq .crt c crtLever r.1
    else setState c .off (modCart c (fun k => { k with loaded := false, passed := false, molt := none }) s)

/-- LEVER_CLOSED (R440, R449). -/
def leverClosed (c : Cart) (s : State) : State :=
  let s := modCart c (fun k => { k with lever := false }) s
  if (s.carts[c]).st = .off then setState c .power s else s

/-- `POWEROFF` (R440, R462). -/
def powerOff (c : Cart) (s : State) : State :=
  if fenced s c then setState c .off (modCart c (fun k => { k with loaded := false, passed := false, molt := none }) s)
  else recordErr .crt c 0x0103 s

/-- STATE_REGION_COPY_COMPLETE (R441). -/
def copyComplete (l : Lane) (s : State) : State :=
  if (s.carts[laneCart l]).st = .load ∧ (sourceLane s).isSome then
    modCart (laneCart l) (fun k => { k with loaded := true, xferDone := k.xferTotal }) s
  else s

/-- JOURNAL (R442). -/
def journal (l : Lane) (bytes pages : Nat) (s : State) : State :=
  if (s.carts[laneCart l]).st = .track then modCart (laneCart l) (fun k => { k with journal := k.journal + bytes, pages := pages }) s else s

/-- A joining cartridge is in step: roles, counters, `JOINED` (R439, R443, R447). [DEDUCED, log 69] -/
def joinStep (c : Cart) (s : State) : State :=
  let s := modCart c (fun k => { k with passed := false, loaded := false, role := if 3 ≤ c.val then .none else .reserve }) (setState c .instep s)
  let s := { s with priv := s.priv.filter fun x => x.1 / 2 ^ 24 != c.val }
  count .crt c 1 (irq .crt c crtJoined s)

/-- One lane at a plan-cycle start (R442, R443). -/
def lanePlanStart (l : Lane) (s : State) : State :=
  let c := laneCart l
  let k := s.carts[c]
  match k.st with
  | .load => if k.loaded then setState c .track (modCart c (fun k => { k with loaded := false, cycles := 0, run := 0, journal := 0 }) s) else s
  | .track =>
    let exceeds := decide (3000000 < k.journal)
    let s := countIf exceeds .crt c 3 s
    modCart c (fun k => { k with cycles := min 65535 (k.cycles + 1), run := if exceeds then 0 else k.run + 1, journal := 0 }) s
  | .check =>
    if k.passed && classFits s c then roleSync (joinStep c s)
    else modCart c (fun k => { k with cycles := min 65535 (k.cycles + 1) }) s
  | _ => s

/-- TRACK_END (R442). -/
def trackEnd (l : Lane) (s : State) : State :=
  let k := s.carts[laneCart l]
  if k.st = .track ∧ 64 ≤ k.run ∧ k.pages = 0 ∧ s.clk.tag.toNat % max 1 (planBus s) = 0 then
    setState (laneCart l) .check (modCart (laneCart l) (fun k => { k with equalRun := 0, timelyRun := 0, passed := false }) s)
  else s

/-- SHADOW_DIGEST (R443, R444). -/
def shadowDigest (l : Lane) (equal complete : Bool) (s : State) : State :=
  let c := laneCart l
  let k := s.carts[c]
  if k.st = .check then
    if equal then modCart c (fun k => { k with equalRun := k.equalRun + 1, timelyRun := if complete then k.timelyRun + 1 else 0 }) s
    else
      let s := count .crt c 2 (irq .crt c crtCheckFail (modCart c (fun k => { k with fails := k.fails + 1, run := 0, journal := 0, passed := false }) s))
      if 3 ≤ k.fails + 1 then setState c .faulted (modCart c (fun k => { k with cause := 8 }) s) else setState c .track s
  else s

/-- CHECK_PASS (R443). -/
def checkPass (l : Lane) (s : State) : State :=
  let k := s.carts[laneCart l]
  if k.st = .check ∧ 16 ≤ k.equalRun ∧ 8 ≤ k.timelyRun then modCart (laneCart l) (fun k => { k with passed := true }) s else s

/-- HUB_LOCK_COMPLETE (R446). -/
def hubLock (h : Hub) (s : State) : State :=
  if (s.carts[hubCart h]).st = .lock ∧ s.clk.alive[other h] = true then setState (hubCart h) .load s else s

/-- HUB_LOAD_COMPLETE (R446): the equaliser tables come over as trained entries with their centres, the committed tables with their
soldiers' copies (R193). -/
def hubLoad (h : Hub) (s : State) : State :=
  if (s.carts[hubCart h]).st = .load ∧ s.clk.alive[other h] = true then
    let s := modCart (hubCart h) (fun k => { k with loaded := true, xferDone := k.xferTotal }) s
    { s with wl := { s.wl with
      eq := vset s.wl.eq h ((s.wl.eq[other h]).map fun t => t.map fun x => (x.1, { x.2 with trained := true }))
      soldier := vset s.wl.soldier h s.wl.soldier[other h] } }
  else s

/-- One hub at a sync instant (R446, R447). -/
def hubSync (h : Hub) (s : State) : State :=
  let c := hubCart h
  let k := s.carts[c]
  match k.st with
  | .load => if k.loaded then setState c .track (modCart c (fun k => { k with loaded := false, cycles := 0, run := 0 }) s) else s
  | .track => modCart c (fun k => { k with cycles := min 65535 (k.cycles + 1), run := k.run + 1 }) s
  | _ => s

/-- HUB_TRACK_MISMATCH (R447): back to LOAD; the third return faults the hub. -/
def hubMismatch (h : Hub) (s : State) : State :=
  let c := hubCart h
  let k := s.carts[c]
  if k.st = .track then
    let s := count .crt c 3 (modCart c (fun k => { k with fails := k.fails + 1, run := 0, loaded := false }) s)
    setState c (if 3 ≤ k.fails + 1 then .faulted else .load) s
  else s

/-- HUB_JOIN (R447). -/
def hubJoin (h : Hub) (s : State) : State :=
  let c := hubCart h
  if (s.carts[c]).st = .track ∧ 64 ≤ (s.carts[c]).run ∧ s.clk.alive[other h] = true ∧ classFits s c = true then
    let s := joinStep c { s with clk := { s.clk with alive := vset s.clk.alive h true, reported := vset s.clk.reported h 0 } }
    let s := { s with
      cus := vmod s.cus h fun u => { u with st := .shadow, equalRun := 0, readmit := false }
      wl := { s.wl with train := vset s.wl.train h 128, txFault := s.wl.txFault &&& ~~~(BitVec.ofNat 4 (3 * 4 ^ h.val)), heldOff := s.wl.heldOff &&& ~~~(BitVec.ofNat 4 (3 * 4 ^ h.val)), paths := ⟨#[0, 1], rfl⟩ } }
    endWindow s
  else s

-- Spares and self-test (R457, R458, R463, R464)

/-- The page of a cartridge's spares. -/
def sparePage (c : Cart) : Pg × Nat := if 3 ≤ c.val then (.spr, c.val - 3) else (.lsp, c.val)

/-- Where `MAP` holds a unit's spares: valid bit, top and bottom of the index, for each spare of the kind. -/
def spareSlots (hub : Bool) (unit : Nat) : List (Nat × Nat × Nat) :=
  if hub then
    (if unit = 1 then [(15, 3, 0)] else if unit = 2 then [(23, 18, 16)] else if unit = 3 then [(31, 27, 24)] else [])
  else (if unit = 1 then [(31, 29, 24), (23, 21, 16)] else if unit = 2 then [(15, 10, 8)] else if unit = 3 then [(7, 1, 0)] else [])

/-- SPARE_REMAP (R458): a unit is replaced by a free spare; false where none is free. -/
def remapUnit (c : Cart) (unit index : Nat) (s : State) : State × Bool :=
  let (p, i) := sparePage c
  let m := (s.carts[c]).map
  match (spareSlots (3 ≤ c.val) unit).find? fun x => !bit m x.1 with
  | some (v, hi, lo) =>
    (count p i 0 (irq p i 8 (modCart c (fun k => { k with map := setFld' (setField m hi lo index) v }) s)), true)
  | none =>
    let f := (s.carts[c]).faults
    let w := BitVec.ofNat 32 (unit % 256 * 2 ^ 24 + index % 256 * 2 ^ 16 + min 255 (field f 7 0 + 1))
    (count p i 1 (irq p i 9 (modCart c (fun k => { k with faults := w }) s)), false)
where
  /-- Set one bit. -/
  setFld' (w : Word) (b : Nat) : Word := setBit w b true

/-- The BIST of a cartridge found a unit bad. -/
def bistFault (c : Cart) (u : Nat × Nat) (x : State × Bool) : State × Bool :=
  let s := modCart c (fun k => { k with faults := BitVec.ofNat 32 (u.1 % 256 * 2 ^ 24 + u.2 % 256 * 2 ^ 16 + field k.faults 7 0) }) x.1
  let r := remapUnit c u.1 u.2 s
  (r.1, x.2 && r.2)

/-- SELFTEST_COMPLETE (R440, R458). -/
def selftest (c : Cart) (failed : List (Nat × Nat)) (fwOk : Bool) (s : State) : State :=
  if (s.carts[c]).st = .selftest then
    let (p, i) := sparePage c
    let r := failed.foldl (fun x u => bistFault c u x) (count p i 2 s, true)
    let s := modCart c (fun k => { k with mute := false }) r.1
    if r.2 && fwOk then
      let s := setState c .cocoon s
      let ready := if 3 ≤ c.val then s.clk.alive[other ((cartHub c).getD 0)] else s.boot.admitted
      if (s.carts[c]).inserted && flag s .crt c Reg.CRT_CFG 0 && ready && !otherReadmits s c then beginReadmit c s
      else modCart c (fun k => { k with inserted := false }) s
    else setState c .faulted (modCart c (fun k => { k with cause := 6, inserted := false }) s)
  else s

/-- SPARE_REMAP_COMMAND (R458): only on a fenced cartridge; a hub that is not fenced refuses. -/
def remapCommand (c : Cart) (unit index : Nat) (s : State) : State :=
  if fenced s c then (remapUnit c unit index s).1 else if 3 ≤ c.val then recordErr .spr (c.val - 3) 0x0100 s else s

/-- CLEAR_REMAP (R458). -/
def clearRemaps (c : Cart) (s : State) : State :=
  if fenced s c then modCart c (fun k => { k with map := 0 }) s else if 3 ≤ c.val then recordErr .spr (c.val - 3) 0x0100 s else s

-- Heat (R548)

/-- THERMAL_STOP (R548). -/
def thermalStop (c : Cart) (s : State) : State :=
  let s := modCart c (fun k => { k with hot := true, mute := true }) s
  match cartHub c with
  | some h => silent h s
  | none => s

/-- THERMAL_RECOVERY (R548). -/
def thermalRecovery (c : Cart) (s : State) : State :=
  if (s.carts[c]).hot then
    let s := modCart c (fun k => { k with hot := false }) s
    if (s.carts[c]).st = .silent ∨ (s.carts[c]).st = .cocoon then setState c .selftest s else s
  else s

-- Digests, votes and verdicts (R31, R433 to R437)

/-- DIGEST_WINDOW_CLOSE (R433): each lane in step sends its digest; `dev` alters it. -/
def windowClose (dev : Vector (BitVec 64) 3) (sent : Vector Bool 3) (s : State) : State :=
  { s with vote := { s.vote with
    acc := Vector.replicate 3 0, closed := true
    digest := (Vector.range 3).map fun i =>
      let l : Lane := ⟨i % 3, Nat.mod_lt _ (by decide)⟩
      if laneIn s l && sent[l] && !(s.carts[laneCart l]).mute && !s.tds.choked then some ((s.vote.acc[l]) ^^^ (dev[l])) else none } }

/-- A lane holds another to differ or to be silent (R434). -/
def objects (s : State) (y x : Lane) : Bool :=
  match s.vote.digest[y] with
  | some d => s.vote.digest[x] != some d
  | none => false

/-- The lanes that the lane vote names (R434). -/
def voteNames (s : State) : BitVec 3 :=
  (lanesIn s).foldl (fun m x => if 2 ≤ ((lanesIn s).filter fun y => y != x && objects s y x).length then putBit m x.val true else m) 0

/-- LANE_VOTE (R434): possible with three lanes in step. -/
def laneVote (s : State) : State :=
  if s.vote.closed then
    let ok := decide (3 ≤ laneCount s)
    { s with vote := { s.vote with named := if ok then voteNames s else 0, valid := ok, vtag := s.clk.tag.setWidth 16 } }
  else s

/-- The voted digest: the value held by at least two lanes in step (R435). -/
def votedDigest (s : State) : Option (BitVec 64) :=
  ((lanesIn s).filterMap fun l => s.vote.digest[l]).find? fun d => 2 ≤ ((lanesIn s).filter fun l => s.vote.digest[l] == some d).length

/-- The lanes in step whose digest is missing. -/
def missingLanes (s : State) : BitVec 3 :=
  (lanesIn s).foldl (fun m l => if (s.vote.digest[l]).isNone then putBit m l.val true else m) 0

/-- The lanes that a verdict names (R435). -/
def verdictNames (s : State) : BitVec 3 :=
  match votedDigest s with
  | some d => (lanesIn s).foldl (fun m l => if s.vote.digest[l] != some d then putBit m l.val true else m) 0
  | none => missingLanes s

/-- A custodian forms verdicts. -/
def judges (s : State) (h : Hub) : Bool := (s.cus[h]).st != .off && (s.cus[h]).st != .silent

/-- The verdict of one custodian; `wrong` flips what a faulty custodian names. [DEDUCED, log 71] -/
def formVerdict (h : Hub) (wrong : BitVec 3) (s : State) : State :=
  if judges s h then
    let mask := (lanesIn s).foldl (fun (m : BitVec 3) l => putBit m l.val true) 0
    let v := (verdictNames s ^^^ wrong) &&& mask
    let maj := (votedDigest s).isSome
    let s := if maj then s else count .cus h 4 (irq .cus h cusNoMaj s)
    { s with cus := vmod s.cus h fun u => { u with named := v, quiet := missingLanes s, noMaj := !maj, vtag := s.clk.tag.setWidth 16 } }
  else s

/-- The lane vote of the running cycle is valid. -/
def voteHolds (s : State) : Bool := s.vote.valid && s.vote.vtag == s.clk.tag.setWidth 16

/-- A custodian compares its verdict with its peer's and with the lane vote, and fences itself where it stands alone (R435).
[DEDUCED, log 71] -/
def compareVerdict (h : Hub) (s : State) : State :=
  if judges s h then
    let u := s.cus[h]
    let w := s.cus[other h]
    let peer := judges s (other h)
    let eq := peer && u.named == w.named
    let ev := voteHolds s && u.named == s.vote.named
    let s := countIf (peer && !eq) .cus h 2 (countIf (voteHolds s && !ev) .cus h 3 s)
    { s with cus := vmod s.cus h fun u => { u with agreePeer := eq, agreeVote := ev, equalRun := if eq then u.equalRun + 1 else 0 } }
  else s

/-- The custodian that differs from the lane vote and from its peer fences itself (R435). [DEDUCED, log 71] -/
def selfFence (h : Hub) (s : State) : State :=
  let u := s.cus[h]
  if u.st = .acting ∧ voteHolds s = true ∧ judges s (other h) = true ∧ u.agreePeer = false ∧ u.agreeVote = false then
    irq .cus h cusSelfFence { s with cus := vmod s.cus h fun u => { u with st := .selfFenced, readmit := false } }
  else s

/-- The lanes of a mask. -/
def lanesOf (m : BitVec 3) : List Lane := allLanes.filter fun l => m.getLsbD l.val

/-- What the custodians do (R435, R437): with fewer than three lanes in step no lane vote is possible, and a lane that is silent is fenced
on the verdict of both custodians, or excluded where one custodian alone acts. [DEDUCED, log 71] -/
def actVerdict (s : State) : State :=
  let both := (s.cus[(0 : Hub)]).st == .acting && (s.cus[(1 : Hub)]).st == .acting
  let any := (s.cus[(0 : Hub)]).st == .acting || (s.cus[(1 : Hub)]).st == .acting
  if !any then s
  else if voteHolds s then
    forEach (lanesOf s.vote.named) (fun l s =>
      fenceLane l (if (s.vote.digest[l]).isNone then 2 else 1) (cusEvent cusFence (some 0) s)) s
  else if laneCount s = 1 ∨ laneCount s = 2 then
    let quiet := missingLanes s
    let v0 := (s.cus[(0 : Hub)]).named
    let v1 := (s.cus[(1 : Hub)]).named
    if quiet = 0 ∧ (votedDigest s).isNone = true ∧ laneCount s = 2 then cellSs1 8 (cusEvent cusNoMaj (some 5) s)
    else if both then
      if v0 ≠ v1 then cellSs1 8 (cusEvent cusNoMaj (some 5) s)
      else if v0 ≠ 0 ∧ v0 = quiet then forEach (lanesOf quiet) (fun l s => fenceLane l 3 (cusEvent cusFence (some 1) s)) s
      else s
    else if quiet ≠ 0 then lanesLost { s with vote := { s.vote with excluded := s.vote.excluded ||| quiet } }
    else s
  else s

/-- IRQ_VOTE (R65): the voted `IRQ_STAT` of every cell-view page; a vector whose source rises sends its message (R66).
[DEDUCED, log 28] -/
def irqVote (s : State) : State :=
  let pages := (allPages.filter fun p => (pgRow p).cell).flatMap fun p => (List.range (pgRow p).count).map fun i => (p, i)
  if laneCount s = 0 then s
  else forEach pages (fun x s =>
    withRise x.1 x.2 (fun s => { s with
      link := { s.link with voted := Sparse.put 0 (regKey x.1 x.2 Reg.IRQ_STAT) (reg s x.1 x.2 Reg.IRQ_STAT) s.link.voted } }) s) s

/-- VERDICT (R435) at the end of the static segment. -/
def verdict (w0 w1 : BitVec 3) (s : State) : State :=
  let s := if s.boot.admitted && s.vote.closed then
      let s := formVerdict 1 w1 (formVerdict 0 w0 s)
      let s := compareVerdict 1 (compareVerdict 0 s)
      let s := actVerdict s
      selfFence 1 (selfFence 0 s)
    else s
  irqVote { s with vote := { s.vote with closed := false } }

/-- CUSTODIAN_READMIT (R437). -/
def custodianReadmit (h : Hub) (s : State) : State :=
  if (s.cus[other h]).st ≠ .acting then recordErr .cus h 0x0100 s
  else if (s.cus[h]).st = .selfFenced then { s with cus := vmod s.cus h fun u => { u with readmit := true, equalRun := 0 } }
  else s

/-- CUSTODIAN_RETURN (R437, R447): it acts after 64 equal verdicts. -/
def custodianReturn (h : Hub) (s : State) : State :=
  let u := s.cus[h]
  if 64 ≤ u.equalRun ∧ (u.st = .shadow ∨ (u.st = .selfFenced ∧ u.readmit = true)) then
    { s with cus := vmod s.cus h fun u => { u with st := .acting, readmit := false } }
  else s

-- What the pages show (R461 to R464)

/-- `CUS.STAT`, `VERDICT`, `LANEVOTE`. -/
def cusStat (s : State) (h : Hub) : Word :=
  match (s.cus[h]).st with
  | .off => 0 | .shadow => 1 | .acting => 2 | .selfFenced => 3 | .silent => 4
def cusVerdict (s : State) (h : Hub) : Word :=
  let u := s.cus[h]
  BitVec.ofNat 32 (u.vtag.toNat * 65536 + b2n u.noMaj * 1024 + b2n u.agreeVote * 512 + b2n u.agreePeer * 256 + u.quiet.toNat * 16 + u.named.toNat)
def cusLaneVote (s : State) : Word :=
  BitVec.ofNat 32 (s.vote.vtag.toNat * 65536 + b2n s.vote.valid * 8 + s.vote.named.toNat)

/-- `CRT.STAT.IND` (R449). -/
def indicator (k : Cartridge) : Nat :=
  match k.st with
  | .empty => 0 | .off => 0 | .instep => 1 | .faulted => 4 | .lock => 2 | .load => 2 | .track => 2 | .check => 2 | _ => 3

/-- `CRT.STAT`. [DEDUCED, log 69] -/
def crtStat (s : State) (c : Cart) : Word :=
  let k := s.carts[c]
  let here := k.st != .empty && !k.gone
  let kind := if !here then 0 else if 3 ≤ c.val then 2 else 1
  BitVec.ofNat 32 (kind * 2 ^ 28 + k.st.code * 2 ^ 24 + k.cause * 2 ^ 20 + k.role.code * 2 ^ 12 + indicator k * 256 +
    b2n (decide (3 ≤ c.val) && hubCart s.clk.refHub == c) * 16 + b2n k.lever * 8 + b2n (fenced s c) * 4 + b2n (k.st == .instep) * 2 + b2n here)

/-- `FW`, `XFER`, `TRACK`. -/
def crtFw (s : State) (c : Cart) : Word := (s.carts[c]).fwClass ++ (s.carts[c]).fwVersion
def crtXfer (s : State) (c : Cart) : Word := BitVec.ofNat 32 ((s.carts[c]).xferTotal * 65536 + (s.carts[c]).xferDone)
def crtTrack (s : State) (c : Cart) : Word := BitVec.ofNat 32 ((s.carts[c]).fails * 2 ^ 24 + (s.carts[c]).cycles)

/-- The serial number of a bay's cartridge; 0 while the bay is empty (R462). -/
def crtSerial (s : State) (c : Cart) : BitVec 64 := if (s.carts[c]).st = .empty then 0 else Config.serial c.val (s.carts[c]).serial

/-- A receiver of the backplane links has power. -/
def receives (s : State) (c : Cart) : Bool :=
  match (s.carts[c]).st with
  | .empty | .off | .power => false
  | _ => true

/-- A receiver's report of a hub, by its number (R16). -/
def setReport (h : Hub) (c : Cart) (x : Bool) (s : State) : State :=
  { s with clk := { s.clk with reported := vmod s.clk.reported h fun m => putBit m c.val x } }

/-- INPUT_BUNDLE (R13, R18): a lane uses the first copy with a good CRC, with its tag and its single-hub flag; a valid transfer ends the
lane's report of a silent hub (R16). -/
def inputBundle (l : Lane) (h : Hub) (tag : BitVec 48) (ok : Bool) (s : State) : State :=
  let valid := ok && s.clk.alive[h] && receives s (laneCart l)
  let takes := laneIn s l || (s.carts[laneCart l]).st == .track || (s.carts[laneCart l]).st == .check
  let have? := match s.clk.taken[l] with
    | some x => x.tag == tag
    | none => false
  let s := if valid then setReport h (laneCart l) false s else s
  if valid && takes && !have? then { s with clk := { s.clk with taken := vset s.clk.taken l (some ⟨tag, h, s.clk.single⟩) } } else s

/-- SILENT_HUB_DETECTED (R16): a receiver has had no valid transfer from the hub for 2 µs, whether the hub sends nothing or every
transfer fails its CRC (R13). -/
def silentDetected (h : Hub) (c : Cart) (s : State) : State :=
  if c ≠ hubCart h ∧ receives s c = true then setReport h c true s else s

/-- INPUT_BUNDLE. -/
def execInputBundle (l : Lane) (h : Hub) (tag : BitVec 48) (crcOk : Bool) (s : State) : Host.Outcome State Fault Refusal :=
  run (inputBundle l h tag crcOk) s
/-- DIGEST_WINDOW_CLOSE. -/
def execDigestWindowClose (dev : Vector (BitVec 64) 3) (sent : Vector Bool 3) (s : State) : Host.Outcome State Fault Refusal :=
  run (windowClose dev sent) s
/-- LANE_VOTE. -/
def execLaneVote (s : State) : Host.Outcome State Fault Refusal := run laneVote s
/-- FENCE. -/
def execFence (c : Cart) (s : State) : Host.Outcome State Fault Refusal := run (fun s => (askFence c 4 s).1) s
/-- READMIT. -/
def execReadmit (c : Cart) (s : State) : Host.Outcome State Fault Refusal := run (writeReadmit c) s
/-- SOFT_START_COMPLETE. -/
def execSoftStartComplete (c : Cart) (s : State) : Host.Outcome State Fault Refusal := run (softStart c) s
/-- STATE_REGION_COPY_COMPLETE. -/
def execStateRegionCopyComplete (l : Lane) (s : State) : Host.Outcome State Fault Refusal := run (copyComplete l) s
/-- JOURNAL. -/
def execJournal (l : Lane) (bytes pagesLeft : Nat) (s : State) : Host.Outcome State Fault Refusal := run (journal l bytes pagesLeft) s
/-- TRACK_END. -/
def execTrackEnd (l : Lane) (s : State) : Host.Outcome State Fault Refusal := run (trackEnd l) s
/-- SHADOW_DIGEST. -/
def execShadowDigest (l : Lane) (equal complete : Bool) (s : State) : Host.Outcome State Fault Refusal :=
  run (shadowDigest l equal complete) s
/-- CHECK_PASS. -/
def execCheckPass (l : Lane) (s : State) : Host.Outcome State Fault Refusal := run (checkPass l) s
/-- HUB_TRACK_MISMATCH. -/
def execHubTrackMismatch (h : Hub) (s : State) : Host.Outcome State Fault Refusal := run (hubMismatch h) s
/-- HUB_LOCK_COMPLETE. -/
def execHubLockComplete (h : Hub) (s : State) : Host.Outcome State Fault Refusal := run (hubLock h) s
/-- HUB_LOAD_COMPLETE. -/
def execHubLoadComplete (h : Hub) (s : State) : Host.Outcome State Fault Refusal := run (hubLoad h) s

end Sys2Proof.Machine
end

