-- ==== Sys2Proof/Machine/Wearline.lean ====
section
/-! DEFINITION. The Wearline cycle of the module: start-up, static and dynamic segments, receptions, training, epochs,
consolidation, the soldier and the configuration service (R103 to R198, R448). -/

namespace Sys2Proof.Machine

-- Transmission (R131, R155, R193)

/-- Whether a hub can transmit on a channel (R15, R195, R448) in the slot of a row, or in the symbol window and the collision-avoidance
symbol (no row), as its soldier allows (R193); its own sync slots on the lost channel go on (R164). [DEDUCED, log 48] -/
def canSend (s : State) (h : Hub) (c : Chan) (r : Option SlotRow) : Bool :=
  let sync := match r with
    | some r => r.kind == 1
    | none => false
  s.clk.alive[h] && !s.wl.heldOff.getLsbD (wlBit h c) && (!s.wl.txFault.getLsbD (wlBit h c) || (sync && s.wl.consAct)) && soldierOpens s h c r

/-- The hub of a row of node 0 or 1. -/
def rowHub (r : SlotRow) : Hub := if r.node = 0 then 0 else 1

/-- The hub that sends a row of node 0 or 1 on a channel: sync slots by their own hub only; the other slots by the other hub from the
sync instant after their hub fell silent, and on a channel on which their hub has stopped transmitting (R32, R155, R448).
[DEDUCED, log 48] -/
def senderOf (s : State) (c : Chan) (r : SlotRow) : Option Hub :=
  let h := if r.kind = 1 then rowHub r else s.wl.paths[rowHub r]
  if canSend s h c (some r) then some h
  else if r.kind ≠ 1 ∧ s.clk.alive[h] = true ∧ canSend s (other h) c (some r) = true then some (other h)
  else none

/-- A good slot of a channel at a hub in the running cycle (R163). [DEDUCED, log 50] -/
def goodSlot (h : Hub) (c : Chan) (s : State) : State := modWl (fun w => { w with good := hcMod w.good h c (· + 1) }) s

/-- The module listens (R185): its cycle position and the streams' numbers are discarded (R142, R188), the receivers use `EQ_DEF`
(R117), and the listen timer of 4 bus cycles runs from `t` (R185, R188). -/
def listenFrom (t : Nat) (s : State) : State :=
  let s := loadEq 1 none (loadEq 0 none s)
  modWl (fun w => { w with phase := .listen, upCycles := 0, op := 0, seqs := [], listenAt := t + 4 * busNs s * 2 ^ 32 })
    { s with clk := { s.clk with running := false, started := false, tag := 0, tag0 := 0 } }

/-- A hub's loop-back differs from what it sent (R115). -/
def loopError (h : Hub) (c : Chan) (s : State) : State :=
  countHub h .wlc c 5 (irq .wlc c wlcLoopErr (modWl (fun w => { w with dirty := putWl w.dirty h c true }) s))

/-- LOOPBACK_COMPARE (R115) of a burst that ends at `t`: during the chirp frames of a start-up a mismatch ends the attempt (R188). -/
def loopBack (h : Hub) (c : Chan) (t : Nat) (bad : Bool) (s : State) : State :=
  if bad then
    let s := loopError h c s
    if s.wl.phase = .start ∧ s.wl.upCycles < 4 then listenFrom t s else s
  else s

/-- A burst of a hub is on the wire from `start` on; both hubs' receivers detect it (R112, R125). -/
def putBurst (h : Hub) (c : Chan) (fid start : Nat) (syms : List (BitVec 10)) (good : BitVec 2) (s : State) : State :=
  modWl (fun w => { w with
    wire := ⟨h, c, fid, start, syms, good⟩ :: w.wire
    sigdet := bothOf.foldl (fun m g => if s.clk.alive[g] then putWl m g c true else m) w.sigdet }) s

/-- A good training frame at a hub (R119, R174): it adapts the entry against the known payload to coefficients that are free values; the
first one starts the count of the node's training slots. [DESIGN CHOICE, log 60] -/
def trainGood (h : Hub) (c : Chan) (n : Nat) (dev : Int) (s : State) : State :=
  let k := drawFree s
  let w := (Config.freeWord k.1).toNat
  let taps : Vector Int 3 := ⟨#[sext 6 (w / 16), sext 6 (w / 1024), sext 6 (w / 65536)], rfl⟩
  countHub h .wlc c 3 (modEq h c n (fun e =>
    let e := { e with ctle := (w % 16 : Nat), h := taps, eye := w / 2 ^ 22 % 64 }
    if e.slots = 0 ∨ e.done then { e with slots := 1, good := 1, devSum := dev, done := false }
    else { e with good := e.good + 1, devSum := e.devSum + dev }) k.2)

/-- The other hub receives a frame of node `n` that a hub sends: a training frame comes with deviation 0.
[DESIGN CHOICE, log 50] -/
def peerReception (g : Hub) (c : Chan) (n : Nat) (train : Bool) (s : State) : State :=
  let s := countHub g .wlc c 0 s
  if train then trainGood g c n 0 s else adapt g c n s

/-- A frame that a hub sends: its channel, the owner of its frame ID, its frame ID, the start of its burst, its bytes, whether it is a
training frame, whether it stands in a static slot. -/
structure Sending where
  hub : Hub
  ch : Chan
  owner : Nat
  fid : Nat
  start : Nat
  bytes : List Byte
  train : Bool := false
  slot : Bool := true
  deriving DecidableEq, Repr

/-- A hub sends a frame (R112, R115); every hub that receives it intact counts the slot (R163). [DEDUCED, log 50] -/
def sendFrame (b : WlBank) (x : Sending) (bad : Bool) (s : State) : State :=
  let syms := burstSyms x.bytes
  let peer := other x.hub
  let sees := fun (g : Hub) => x.slot && s.clk.alive[g] && !(bad && g == x.hub)
  let s := forEach bothOf (fun g s => if sees g then goodSlot g x.ch s else s)
    (putBurst x.hub x.ch x.fid x.start syms (bothOf.foldl (fun m g => setBit m g.val (sees g)) 0) s)
  let s := countHub x.hub .wlc x.ch 6 s
  let s := if s.clk.alive[peer] then peerReception peer x.ch x.owner x.train s else s
  loopBack x.hub x.ch (x.start + syms.length * symbolNs b * 2 ^ 32) bad s

/-- A null frame of a slot (R137). [DESIGN CHOICE, log 49] -/
def nullFrame (s : State) (b : WlBank) (h : Hub) (fid : Nat) : List Byte :=
  frameBytes { headerOf s b h fid 0 0 with null := true } []

/-- The frame that a sync slot carries: chirp or sync frame (R186, R187). [DESIGN CHOICE, log 49] -/
def syncFrame (s : State) (b : WlBank) (h : Hub) (r : SlotRow) : List Byte :=
  if s.wl.phase = .start ∧ s.wl.upCycles < 4 then
    frameBytes { headerOf s b h r.fid 9 4 with sync := true, chirp := true } (chirpPayload s b)
  else frameBytes { headerOf s b h r.fid 1 4 with sync := true } (syncPayload s b)

/-- Whether a hub's slot carries a training frame now (R118): the first slot of its own node, whatever its kind. -/
def sendsTraining (s : State) (b : WlBank) (h : Hub) (c : Chan) (r : SlotRow) : Bool :=
  h == rowHub r && decide (0 < s.wl.train[h]) && s.wl.op != 0 && firstSlot s b c r

/-- A training frame of a slot (R118, R137). [DESIGN CHOICE, log 49] -/
def trainingFrame (s : State) (b : WlBank) (h : Hub) (r : SlotRow) : List Byte :=
  frameBytes { headerOf s b h r.fid 0 32 with sync := r.kind == 1, null := true } trainingPayload

/-- The frame handed over for a row, if any (R27). -/
def handedFor (s : State) (r : SlotRow) : Option Handover :=
  s.wl.handed.find? fun x => x.second == (r.node == 1) && x.kind == r.kind && x.stream == r.stream

/-- The frame that a hub sends in the slot of a row: training, chirp or sync frame, the lane frame that was handed over in time, or a
null frame; none during start-up but in sync slots (R42, R131, R187). [DESIGN CHOICE, log 49] -/
def slotFrame (s : State) (b : WlBank) (h : Hub) (c : Chan) (r : SlotRow) : Option (List Byte) :=
  if sendsTraining s b h c r then some (trainingFrame s b h r)
  else if r.kind = 1 then some (syncFrame s b h r)
  else if s.wl.op = 0 then none
  else match handedFor s r with
    | none => some (nullFrame s b h r.fid)
    | some x => some (frameBytes { headerOf s b h r.fid r.kind r.len with lane := true, role := r.node == 1 } x.payload)

/-- The module sends in static slot `r.fid` at its action point (R131). -/
def sendSlot (b : WlBank) (c : Chan) (r : SlotRow) (loopBad : BitVec 4) (s : State) : State :=
  match senderOf s c r with
  | none => s
  | some h =>
    match slotFrame s b h c r with
    | none => s
    | some p => sendFrame b
        { hub := h, ch := c, owner := r.node, fid := r.fid, start := intoCycle s (slotStart b r.fid + 20 * b.apo), bytes := p
          train := sendsTraining s b h c r } (loopBad.getLsbD (wlBit h c)) s

/-- The training slots of a node elapse whether its frame comes or not (R120). [DEDUCED, log 50] -/
def elapseTraining (b : WlBank) (c : Chan) (r : SlotRow) (s : State) : State :=
  if s.wl.op ≠ 0 ∧ firstSlot s b c r = true then
    forEach bothOf (fun h s =>
      let e := eqEntry s h c r.node
      if 0 < e.slots ∧ e.done = false ∧ e.slots < 128 then modEq h c r.node (fun e => { e with slots := e.slots + 1 }) s else s) s
  else s

/-- ABSENT_MARKER (R20): a node's slot that has ended without an accepted frame at either hub. -/
def judgeSlot (b : WlBank) (k : Nat) (s : State) : State :=
  forEach bothOf (fun c s =>
    match rowAt s b c k with
    | some r => countIf (decide (1 < r.node) && s.wl.op != 0 && !s.wl.got.contains (c.val * 256 + k)) .wls 0 6 s
    | none => s) s

/-- STATIC_SLOT (R131). -/
def staticSlot (k : Nat) (loopBad : BitVec 4) (s : State) : State :=
  match wlBank s with
  | none => s
  | some b =>
    if wlRuns s = false ∨ k = 0 ∨ b.slots < k then s
    else
      let s := advanceTo (intoCycle s (slotStart b k)) s
      let s := if 1 < k then judgeSlot b (k - 1) s else s
      forEach bothOf (fun c s =>
        if wlRuns s = false then s
        else match rowAt s b c k with
        | none => loadEq c none s
        | some r =>
          let s := elapseTraining b c r (loadEq c (some r.node) s)
          if r.node ≤ 1 then sendSlot b c r loopBad s else s) s

-- Reception (R139 to R142, R171, R180)

/-- The last accepted `SEQ` of a stream. -/
def lastSeq (s : State) (key : Nat) : Option (BitVec 16) := (s.wl.seqs.find? fun x => x.1 == key).map fun x => x.2.1

/-- Whether `SEQ` is accepted (R141, R142): a stream that is not kept takes any. -/
def seqOk (s : State) (key : Nat) (seq : BitVec 16) : Bool :=
  match lastSeq s key with
  | some q => decide (1 ≤ (seq - q).toNat) && decide ((seq - q).toNat ≤ 32767)
  | none => true

/-- Keep an accepted `SEQ`. -/
def keepSeq (key : Nat) (seq : BitVec 16) (s : State) : State :=
  modWl (fun w => { w with seqs := (key, seq, 0) :: w.seqs.filter fun x => x.1 != key }) s

/-- The key of a row's stream (R140). -/
def streamKey (r : SlotRow) : Nat := r.kind * 64 + r.stream

/-- A stream that nodes send to the module: feedback, guard or auxiliary input. -/
def hasStream (r : SlotRow) : Bool := r.kind == 3 || r.kind == 4 || r.kind == 6

/-- What a hub makes of a reception: the frame, its deviation, the check that it fails. -/
structure Judged where
  frame : Received
  dev : Int
  outcome : Nat
  deriving DecidableEq, Repr

/-- The header of a judged frame. -/
def Judged.hdr (x : Judged) : Hdr := readHdr x.frame.bytes

/-- The first check of R139 that a hub's reception fails, in the static slot or minislot `fid` (0 for none); 0 where it passes. -/
def checkFrame (s : State) (b : WlBank) (r : Option SlotRow) (fid : Nat) (h : Hub) (c : Chan) (x : Received) (dev : Int) : Nat :=
  let hd := readHdr x.bytes
  let ofs := (eqEntry s h c ((r.map (·.node)).getD hd.node)).offset
  if crcCheck x ≠ 0 then crcCheck x
  else if hd.fid ≠ fid ∨ fid = 0 then 4
  else if hd.cyc ≠ cycOf s then 5
  else if hd.epoch ≠ b.epoch.toNat ∧ hd.sync = false then 6
  else if dev < ofs - 80 ∨ ofs + 80 < dev then 7
  else match r with
    | none => if hd.null then 0 else 8
    | some r =>
      if hd.null then 0
      else if hd.len ≠ r.len ∨ hd.kind ≠ r.kind then 8
      else if hasStream r = true ∧ seqOk s (streamKey r) (BitVec.ofNat 16 hd.seq) = false then 9
      else 0

/-- Checks 1 to 3 have passed. -/
def outcomeIntact (o : Nat) : Bool := o == 0 || decide (4 ≤ o)

/-- Where a hub counts a failed check (R139). [DEDUCED, log 54] -/
def countFailure (h : Hub) (c : Chan) (o : Nat) (s : State) : State :=
  match o with
  | 1 => countHub h .wlc c 2 s
  | 2 => countHub h .wlc c 1 s
  | 3 => countHub h .wlc c 1 s
  | 4 => countHub h .wls 0 1 s
  | 5 => countHub h .wls 0 2 s
  | 6 => countHub h .wls 0 3 s
  | 7 => countHub h .wls 0 1 s
  | 8 => countHub h .wls 0 4 s
  | 9 => countHub h .wls 0 5 s
  | _ => s

/-- A hub counts its reception: good CRCs, and the check that it fails (R50, R139). [DEDUCED, log 54] -/
def countOutcome (h : Hub) (c : Chan) (o : Nat) (s : State) : State :=
  countFailure h c o (if outcomeIntact o then countHub h .wlc c 0 s else s)

/-- Arm feedback (R146). -/
def takeFeedback (a : Arm) (p : List Byte) (s : State) : State :=
  let nj := leAt p 1 1
  let s := { s with sdp := { s.sdp with fb := vmod s.sdp.fb a fun f => { f with present := true, aflags := BitVec.ofNat 16 (leAt p 2 2) } } }
  forEach (List.range 8) (fun j s =>
    let o := 8 + 16 * j
    let bits := if j < nj then leAt p (o + 12) 4 else 0
    modJoint (armJoint a j) (fun x => { x with
      rxPos := sext 32 (leAt p o 4), rxVel := BitVec.ofNat 32 (leAt p (o + 4) 4), rxTrq := BitVec.ofNat 32 (leAt p (o + 8) 4)
      rxBits := BitVec.ofNat 32 bits, posLast := if bits % 2 = 1 then some (sext 32 (leAt p o 4)) else x.posLast }) s) s

/-- A guard frame waits for mantis (R149, R369). -/
def takeGuard (c : Chan) (fid : Nat) (node : Nat) (p : List Byte) (s : State) : State :=
  forEach allSixteen (fun i s =>
    match guardDef s i.val, wlBank s with
    | some d, some b =>
      let here := d.slot == fid && d.ch == c
      let same := b.two.any fun r => r.fid == d.slot && r.ch == d.ch && r.node == node
      if here && !s.wl.consAct || s.wl.consAct && same then modSrc i (fun g => { g with rx := some p }) s else s
    | _, _ => s) s

/-- Auxiliary input records (R150, R499, R506); a stepper record of channel 16 or more names none. [DEDUCED, log 54] -/
def takeAux (p : List Byte) (s : State) : State :=
  forEach (List.range (min 8 (leAt p 0 1))) (fun k s =>
    let o := 8 + 16 * k
    let ch := leAt p o 1
    let f := leAt p (o + 1) 1
    if ch / 32 = 2 then genFeedback ⟨ch % 32, Nat.mod_lt _ (by decide)⟩ (BitVec.ofNat 32 (leAt p (o + 4) 4)) (f / 2 % 2 == 1) s
    else if ch / 32 = 1 ∧ ch % 32 < 16 then
      stpFeedback ⟨ch % 16, Nat.mod_lt _ (by decide)⟩ (BitVec.ofNat 32 (leAt p (o + 8) 4)) (f / 2 % 2 == 1) (f / 4 % 2 == 1) s
    else s) s

/-- The data of an accepted static frame reaches its users. -/
def takeStatic (c : Chan) (r : SlotRow) (p : List Byte) (s : State) : State :=
  if r.kind = 3 then takeFeedback ⟨r.stream % 12, Nat.mod_lt _ (by decide)⟩ p s
  else if r.kind = 4 then takeGuard c r.fid r.node p s
  else if r.kind = 6 then takeAux p s
  else s

/-- Words of a payload. -/
def wordsOf : Nat → List Byte → List Word
  | 0, _ => []
  | n + 1, b => BitVec.ofNat 32 (leNat (b.take 4)) :: wordsOf n (b.drop 4)

/-- CONFIGURATION_RESPONSE (R153): it answers the request outstanding on the channel on which that was sent; an accepted commit clears the
node's bit (R160). [DEDUCED, log 61] -/
def configResponse (x : CfgResp) (s : State) : State :=
  match s.wl.reqs with
  | q :: rest =>
    if q.sent ∧ q.ch = x.ch ∧ q.node = x.node.val ∧ q.op = x.op ∧ q.req = x.req then
      modWl (fun w => { w with
        reqs := rest, nack := if x.op = 4 ∧ x.result = 0 then setBit w.nack x.node.val false else w.nack }) s
    else s
  | [] => s

/-- The response that a frame of ID 257 and `KIND` 8 carries (R153). -/
def responseOf (c : Chan) (p : List Byte) : CfgResp :=
  { ch := c, node := ⟨leAt p 0 1 % 64, Nat.mod_lt _ (by decide)⟩, op := BitVec.ofNat 8 (leAt p 1 1), req := BitVec.ofNat 16 (leAt p 2 2)
    result := BitVec.ofNat 8 (leAt p 4 1), data := p.drop 8 }

/-- An accepted dynamic frame (R168): counted, held in the receive FIFO where the filter takes it; a configuration response goes to its
service too (R153). `RX_TIME` is the start of the start-of-frame symbol. [DEDUCED, log 63] -/
def takeDynamic (b : WlBank) (c : Chan) (fid : Nat) (bytes : List Byte) (s : State) : State :=
  let s := count .wls 0 10 s
  let s := if fid = 257 ∧ (readHdr bytes).kind = 8 then configResponse (responseOf c (framePayload bytes)) s else s
  let lo := fld s .wls 0 Reg.WLS_RX_FILT 9 0
  let hi := fld s .wls 0 Reg.WLS_RX_FILT 25 16
  if (lo = 0 ∧ hi = 0) ∨ fid < lo ∨ hi < fid then s
  else if 16 ≤ s.wl.rx.length then count .wls 0 12 s
  else
    let t := nsOf s - (bytes.length + 3) * symbolNs b
    irq .wls 0 wlsRxAvail (modWl (fun w => { w with
      rx := w.rx ++ [⟨c, fid, BitVec.ofNat 32 t, wordsOf (readHdr bytes).len (framePayload bytes)⟩] }) s)

/-- What a node's first static slot says of its training at a hub (R119, R120): a training frame trains the entry, a spoilt frame of a
node that has not trained starts its slots, a frame with data shows that the node does not train. [DEDUCED, log 50] -/
def trainSlot (h : Hub) (c : Chan) (n : Nat) (x : Judged) (s : State) : State :=
  let e := eqEntry s h c n
  if outcomeIntact x.outcome then
    if isTraining x.hdr then trainGood h c n x.dev s
    else adapt h c n (if e.good = 0 ∧ e.done = false then modEq h c n (fun e => { e with slots := 0 }) s else s)
  else if e.slots = 0 ∧ e.done = false ∧ e.trained = false then modEq h c n (fun e => { e with slots := 1, good := 0, devSum := 0 }) s
  else s

/-- What one hub's own receiver draws from a reception: its counts, its slot count, its entry's adaptation and training (R119, R122,
R163). -/
def hubReception (b : WlBank) (c : Chan) (r : Option SlotRow) (h : Hub) (x : Judged) (s : State) : State :=
  let s := countOutcome h c x.outcome s
  match r with
  | none => s
  | some r =>
    if r.node ≤ 1 then s
    else
      let s := if outcomeIntact x.outcome && decide (r.fid < 256) then goodSlot h c s else s
      if decide (r.fid < 256) && firstSlot s b c r then trainSlot h c r.node x s
      else if outcomeIntact x.outcome then adapt h c r.node s
      else s

/-- A chirp or sync frame that the module can integrate on (R185). -/
def usable (b : WlBank) (x : Received) : Bool :=
  let hd := readHdr x.bytes
  intact x && hd.sync && !hd.null && (hd.kind == 1 || hd.kind == 9) && leAt (framePayload x.bytes) 10 1 % 4 == b.rate.toNat &&
    b.two.any fun r => r.kind == 1 && r.fid == hd.fid

/-- MODULE_INTEGRATION (R185, R190, R191): the usable frame of another coldstart node places the first sync instant.
[DEDUCED, log 51] -/
def integrate (b : WlBank) (x : Received) (s : State) : State :=
  let hd := readHdr x.bytes
  let back := (x.bytes.length + 2) * symbolNs b + slotStart b hd.fid + 20 * b.apo + 9 * symbolNs b
  let k := if hd.cyc % 2 = 0 then 2 else 1
  let tag := 64 + (hd.cyc + k) % 64
  modWl (fun w => { w with phase := .integrate, upCycles := 0, seqs := [] }) { s with
    clk := { s.clk with running := true, started := false, tag := BitVec.ofNat 48 tag, tag0 := BitVec.ofNat 48 tag
                        ts := s.clk.now + k * busNs s * 2 ^ 32 - back * 2 ^ 32 } }

/-- The reception that counts: a hub that is silent receives nothing. -/
def heard (s : State) (h : Hub) (x : Reception) : Reception := if s.clk.alive[h] then x else none

/-- The frame of a reception, if it carries one (R114). -/
def frameOf (x : Reception) : Option Received := x.bind fun y => received y.syms

/-- What a hub makes of a reception. -/
def judge (s : State) (b : WlBank) (r : Option SlotRow) (fid : Nat) (c : Chan) (h : Hub) (x : Reception) : Option Judged :=
  x.bind fun y => (received y.syms).map fun z => ⟨z, y.devNs, checkFrame s b r fid h c z y.devNs⟩

/-- INPUT_AGREEMENT of a frame (R17, R21): the agreed copy, whether the hubs disagree, whether one hub alone received it.
[DEDUCED, log 54] -/
def agreeFrame (ref oth : Option Judged) : Option (List Byte) × Bool × Bool :=
  let pass := fun (x : Option Judged) => x.bind fun y => if y.outcome = 0 then some y.frame.bytes else none
  match pass ref, pass oth with
  | some x, some y => (some x, x != y, false)
  | some x, none => (some x, true, true)
  | none, some y => (some y, true, true)
  | none, none => (none, false, false)

/-- An agreed frame reaches its users (R18). -/
def deliver (b : WlBank) (c : Chan) (r : SlotRow) (bytes : List Byte) (s : State) : State :=
  let hd := readHdr bytes
  if r.node ≤ 1 then s
  else
    let s := modWl (fun w => { w with got := (c.val * 256 + r.fid) :: w.got }) s
    if hd.null then s
    else if 256 ≤ r.fid then takeDynamic b c r.fid bytes s
    else
      let s := if hasStream r then keepSeq (streamKey r) (BitVec.ofNat 16 hd.seq) s else s
      takeStatic c r (framePayload bytes) s

/-- The static slot or minislot of a reception: the module's own minislot counter gives a dynamic one (R139, R151); 0 for none. -/
def slotOf (s : State) (c : Chan) (fid : Nat) : Nat := if fid < 256 then fid else if s.wl.mini[c] < 256 then 0 else s.wl.mini[c]

/-- A reception while the schedule runs (R139). -/
def receive (b : WlBank) (c : Chan) (fid : Nat) (x0 x1 : Reception) (s : State) : State :=
  let n := slotOf s c fid
  let r := if n < 256 then rowAt s b c n else dynRow s b c n
  let o0 := judge s b r n c 0 (heard s 0 x0)
  let o1 := judge s b r n c 1 (heard s 1 x1)
  let (agreed, differ, one) := if s.clk.refHub = 0 then agreeFrame o0 o1 else agreeFrame o1 o0
  let s := exchanged (countIf (differ && bothHubs s) .wlc c 8 s)
  let s := if one then modWl (fun w => { w with oneHub := (c.val * 1024 + n) :: w.oneHub }) s else s
  let s := match o0 with
    | some y => hubReception b c r 0 y s
    | none => s
  let s := match o1 with
    | some y => hubReception b c r 1 y s
    | none => s
  match agreed, r with
  | some p, some r => deliver b c r p s
  | _, _ => s

/-- The minislots that a burst of `n` symbols occupies (R151). [DEDUCED, log 48] -/
def minislotsOf (b : WlBank) (n : Nat) : Nat :=
  (20 * b.miniApo + n * symbolNs b + 100 + 20 * b.miniLen - 1) / max 1 (20 * b.miniLen)

/-- The hubs count frames that come while no schedule runs (R139, R185). -/
def countIntact (c : Chan) (x0 x1 : Reception) (s : State) : State :=
  forEach bothOf (fun h s =>
    match frameOf (heard s h (if h = 0 then x0 else x1)) with
    | some y => countOutcome h c (crcCheck y) s
    | none => s) s

/-- A reception while the module listens (R185): it integrates on a usable frame, the reference hub's first; a burst that it cannot use
restarts the listen timer. -/
def listenReception (b : WlBank) (c : Chan) (x0 x1 : Reception) (s : State) : State :=
  let s := countIntact c x0 x1 (loadEq c none s)
  let y0 := frameOf (heard s 0 x0)
  let y1 := frameOf (heard s 1 x1)
  let order := if s.clk.refHub = 0 then [y0, y1] else [y1, y0]
  match order.findSome? fun y => y.bind fun z => if usable b z then some z else none with
  | some z => integrate b z s
  | none =>
    if (heard s 0 x0).isSome || (heard s 1 x1).isSome then modWl (fun w => { w with listenAt := s.clk.now + 4 * busNs s * 2 ^ 32 }) s else s

/-- The symbols of a reception. -/
def burstLength (x : Reception) : Nat := (x.map fun y => y.syms.length).getD 0

/-- FRAME_RECEIVED (R139). [DESIGN CHOICE, log 3] -/
def frameReceived (dt : Nat) (c : Chan) (fid : Nat) (x0 x1 : Reception) (s : State) : State :=
  let s := advance dt s
  let s := forEach bothOf (fun h s =>
    if (heard s h (if h = 0 then x0 else x1)).isSome then modWl (fun w => { w with sigdet := putWl w.sigdet h c true }) s else s) s
  match wlBank s with
  | none => s
  | some b =>
    if s.wl.phase = .listen then listenReception b c x0 x1 s
    else if wlRuns s then
      let n := max (burstLength x0) (burstLength x1)
      let s := if 256 ≤ fid ∧ 256 ≤ s.wl.mini[c] ∧ 0 < n then
          modWl (fun w => { w with spent := vmod w.spent c (· + (minislotsOf b n - 1)) }) s
        else s
      receive b c fid x0 x1 s
    else countIntact c x0 x1 s

-- The dynamic segment (R151, R152, R168)

/-- The buffer that the configuration word of `HB_CFG` names. -/
def bufFid (x : HostBuffer) : Nat := field x.cfg 9 0
def bufOneShot (x : HostBuffer) : Bool := bit x.cfg 11
def bufLen (x : HostBuffer) : Nat := field x.cfg 23 16

/-- The payload that a buffer holds now. -/
def bufWords (x : HostBuffer) : List Word := (List.range (bufLen x)).map fun i => Sparse.get 0 i x.data

/-- Change one host buffer. -/
def modBuf (i : Sixteen) (f : HostBuffer → HostBuffer) (s : State) : State := modWl (fun w => { w with buf := vmod w.buf i f }) s

/-- What a buffer sends in this cycle: nothing, or its words (R67, R168). [DESIGN CHOICE, log 63] -/
def bufSends (x : HostBuffer) : Option (List Word) :=
  if x.fresh && !x.stale then some (bufWords x)
  else if bufOneShot x then none
  else x.last

/-- The buffer that sends frame ID `fid` on a channel. -/
def sendingBuf (s : State) (c : Chan) (fid : Nat) : Option Sixteen :=
  allSixteen.find? fun i =>
    let x := s.wl.buf[i]
    bufFid x == fid && (bit x.cfg 10).toNat == c.val && (bufSends x).isSome

/-- Bytes of words. -/
def bytesOf (l : List Word) : List Byte := l.flatMap fun w => leBytes 4 w.toNat

/-- Bytes brought to a length. -/
def padTo (n : Nat) (l : List Byte) : List Byte := (l ++ List.replicate (n - l.length) 0).take n

/-- The payload of a configuration request (R153). -/
def requestBytes (q : CfgReq) : List Byte :=
  leBytes 1 q.node ++ [q.op] ++ leBytes 2 q.req.toNat ++ leBytes 4 q.arg.toNat ++ q.data

/-- The first request that waits to be sent; one is outstanding at a time. [DEDUCED, log 61] -/
def dueRequest (s : State) : Option CfgReq :=
  match s.wl.reqs with
  | q :: _ => if q.sent then none else some q
  | [] => none

/-- What the module would send for a dynamic frame ID: kind, payload, and the effect of sending it. [DESIGN CHOICE, log 63] -/
def dynPayload (s : State) (c : Chan) (r : SlotRow) : Option (Nat × List Byte × (State → State)) :=
  if r.kind = 7 then
    if r.fid ≠ 256 then none
    else (dueRequest s).map fun q => (7, padTo (4 * r.len) (requestBytes q),
      modWl fun w => { w with reqs := match w.reqs with
        | x :: t => { x with sent := true, ch := c, age := 0 } :: t
        | [] => [] })
  else if assisted s .wls 0 then
    (sendingBuf s c r.fid).bind fun i => (bufSends s.wl.buf[i]).map fun l => (r.kind, bytesOf l,
      modBuf i fun x => { x with
        last := some l, fresh := x.fresh && x.stale, cfg := setBit x.cfg 31 (x.fresh && x.stale) })
  else
    some (r.kind, bytesOf ((List.range r.len).map fun k => Config.freeWord (s.clk.free + k)), fun s => { s with
      clk := { s.clk with free := s.clk.free + r.len } })

/-- Whether a frame of `n` bytes fits from the present minislot (R151). -/
def fitsDynamic (b : WlBank) (spent n : Nat) : Bool :=
  decide (20 * (spent * b.miniLen + b.miniApo) + (n + 11) * symbolNs b + 70 ≤ 20 * (b.minis * b.miniLen))

/-- MINISLOT (R151): the counter takes its next value; the receivers load its owner's entry (R117), and the reference hub sends the
module's frame of that ID. -/
def minislot (c : Chan) (loopBad : Bool) (s : State) : State :=
  match wlBank s with
  | none => s
  | some b =>
    let w := s.wl
    let off := wlRuns s = false ∨ (w.op ≠ 1 ∧ w.op ≠ 2) ∨ (w.consAct ∧ c ≠ w.kept) ∨ b.minis ≤ w.spent[c] ∨ 1023 ≤ w.mini[c]
    if off then s
    else
      let n := w.mini[c] + 1
      let at0 := w.spent[c]
      let s := advanceTo (intoCycle s (dynStart b + 20 * (at0 * b.miniLen + b.miniApo))) s
      let s := modWl (fun w => { w with mini := vset w.mini c n, spent := vset w.spent c (at0 + 1) }) s
      match dynRow s b c n with
      | none => loadEq c none s
      | some r =>
        let s := loadEq c (some r.node) s
        let h := s.clk.refHub
        if r.node ≠ 0 ∨ canSend s h c (some r) = false then s
        else match dynPayload s c r with
        | none => s
        | some (kind, p, after) =>
          let bytes := frameBytes (headerOf s b h n kind (p.length / 4)) p
          if fitsDynamic b at0 bytes.length then
            let x : Sending := { hub := h, ch := c, owner := r.node, fid := n, start := s.clk.now, bytes := bytes, slot := false }
            let s := after (count .wls 0 9 (sendFrame b x loopBad s))
            modWl (fun w => { w with spent := vset w.spent c (at0 + minislotsOf b (bytes.length + 11)) }) s
          else count .wls 0 13 s

/-- HOST_BUFFER_CUT_OFF (R67, R168): a cyclic buffer that is not fresh is sent with its previous payload.
[DESIGN CHOICE, log 63] -/
def bufferCutOff (s : State) : State :=
  match wlBank s with
  | none => s
  | some b =>
    if wlRuns s && assisted s .wls 0 then
      let s := advanceTo (intoCycle s (dynStart b - 2000)) s
      forEach allSixteen (fun i s =>
        let x := s.wl.buf[i]
        if !bufOneShot x && x.last.isSome && !x.fresh then haLate .wls 0 11 (modBuf i (fun x => { x with stale := true }) s) else s) s
    else s

/-- HB_CFG (R168). [DESIGN CHOICE, log 63] -/
def writeHbCfg (v : Word) (s : State) : State :=
  let i : Sixteen := ⟨fld s .wls 0 Reg.WLS_HB_SEL 3 0 % 16, Nat.mod_lt _ (by decide)⟩
  if field v 9 0 < 256 ∨ field v 23 16 = 255 then recordErr .wls 0 0x0004 s
  else chg .wls 0 (modBuf i (fun x => { x with
    cfg := setBit (v &&& 0x80FF0FFF) 31 (bit v 31 || x.fresh), fresh := bit v 31 || x.fresh }) s)

/-- What `HB_CFG`, `HB_DATA` and `HB_STAT` read. -/
def readHbCfg (s : State) : Word := (s.wl.buf[(⟨fld s .wls 0 Reg.WLS_HB_SEL 3 0 % 16, Nat.mod_lt _ (by decide)⟩ : Sixteen)]).cfg
def readHbData (s : State) : Word :=
  Sparse.get 0 (fld s .wls 0 Reg.WLS_HB_ADDR 7 0) (s.wl.buf[(⟨fld s .wls 0 Reg.WLS_HB_SEL 3 0 % 16, Nat.mod_lt _ (by decide)⟩ : Sixteen)]).data
def hbStat (s : State) : Word :=
  BitVec.ofNat 32 (allSixteen.foldl (fun m i => if (s.wl.buf[i]).fresh then m + 2 ^ i.val else m) 0)

/-- The payload word index advances, from 253 to 0 (R168). -/
def advanceHb (s : State) : State :=
  let w := fld s .wls 0 Reg.WLS_HB_ADDR 7 0
  setReg .wls 0 Reg.WLS_HB_ADDR (BitVec.ofNat 32 (if 253 ≤ w then 0 else w + 1)) s

/-- HB_DATA_WRITE (R168). -/
def writeHbData (v : Word) (s : State) : State :=
  let i : Sixteen := ⟨fld s .wls 0 Reg.WLS_HB_SEL 3 0 % 16, Nat.mod_lt _ (by decide)⟩
  let k := fld s .wls 0 Reg.WLS_HB_ADDR 7 0
  chg .wls 0 (modBuf i (fun x => { x with data := Sparse.put 0 k v x.data }) s)

/-- What `RX_STAT`, `RX_TIME` and `RX_DATA` read. -/
def rxStat (s : State) : Word :=
  match s.wl.rx with
  | x :: _ => BitVec.ofNat 32 (x.ch.val * 2 ^ 26 + x.fid * 2 ^ 16 + x.data.length * 256 + s.wl.rx.length)
  | [] => 0
def rxTime (s : State) : Word :=
  match s.wl.rx with
  | x :: _ => x.time
  | [] => 0
def rxData (s : State) : Word :=
  match s.wl.rx with
  | x :: _ => x.data.getD s.wl.rxWord 0
  | [] => 0

/-- A read of `RX_DATA` advances its word index (R168). -/
def advanceRx (s : State) : State := modWl (fun w => { w with rxWord := w.rxWord + 1 }) s

/-- RX_POP (R168). -/
def popRx (s : State) : State := modWl (fun w => { w with rx := w.rx.drop 1, rxWord := 0 }) s

-- Training, transmitter faults, the soldier (R119, R174, R194, R448)

/-- TRAINING_COMPLETE (R119, R174) of a node's entry at one hub: the trained coefficients become the centre of its drift window.
[DESIGN CHOICE, log 60] -/
def trainEntry (h : Hub) (c : Chan) (n : Nat) (s : State) : State :=
  let e := eqEntry s h c n
  if 128 ≤ e.slots ∧ e.done = false then
    if 96 ≤ e.good then
      irq .wlc c wlcTrainDone (modEq h c n (fun e => { e with
        trained := true, done := true, atlim := false, ctleMid := e.ctle, hMid := e.h
        offset := max 0 (min 500 (e.devSum / (max 1 e.good : Nat))) }) s)
    else irq .wlc c wlcUntrained (modEq h c n (fun e => { toDefault s c e with done := true, offset := 0 }) s)
  else s

/-- TRAINING_COMPLETE (R119): each hub judges its own entry. -/
def trainingComplete (c : Chan) (n : Nat) (s : State) : State :=
  forEach bothOf (fun h s => if s.clk.alive[h] then trainEntry h c n s else s) s

/-- TXFAULT (R448): a hub's driver reports a short or over-current. [DEDUCED, log 48] -/
def txFault (h : Hub) (c : Chan) (s : State) : State :=
  if s.clk.alive[h] then
    countHub h .wlc c 7 (irq .wlc c wlcTxFault (modWl (fun w => { w with dirty := putWl w.dirty h c true, txNow := putWl w.txNow h c true }) s))
  else s

/-- The newest burst of a hub on a channel in the running cycle. -/
def lastBurst (s : State) (h : Hub) (c : Chan) : Option WireFrame := s.wl.wire.find? fun x => x.hub == h && x.ch == c

/-- SOLDIER_BLOCK (R194, R196): the driver is not enabled for a burst that starts outside its limit, and the hub falls silent.
[DEDUCED, log 48] -/
def soldierBlock (h : Hub) (c : Chan) (s : State) : State :=
  let s := match lastBurst s h c with
    | some x => if sentSymbols s x < x.syms.length then cutWire (fun y => if y = x then some 0 else none) s else s
    | none => s
  silent h s

/-- SOLDIER_CUT (R194, R196): the driver is disabled within the burst, at the latest before its end-of-frame, and the hub falls silent.
[DEDUCED, log 48] -/
def soldierCut (h : Hub) (c : Chan) (s : State) : State :=
  let s := match lastBurst s h c with
    | some x => cutWire (fun y => if y = x then some (min (sentSymbols s x) (x.syms.length - 3)) else none) s
    | none => s
  silent h s

/-- SOLDIER_OSCILLATOR_FAILURE (R195, R196): the transmitter is held off until the hub's reset, and the hub falls silent. -/
def oscillatorFailure (h : Hub) (c : Chan) (s : State) : State :=
  silent h (modWl (fun w => { w with heldOff := putWl w.heldOff h c true }) s)

/-- RETRAIN through the register (R124). -/
def writeRetrain (c : Chan) (v : Word) (s : State) : State := retrain c (field v 5 0) (bit v 8) (bit v 9) s

-- Channel counts and consolidation (R163 to R167)

/-- The static slots that the schedule in force fills on a channel. -/
def filledSlots (s : State) (c : Chan) : Nat :=
  match wlBank s with
  | some b => (staticRows s b c).length
  | none => 0

/-- Whether the running cycle is bad for a channel at a hub (R163). -/
def badNow (s : State) (h : Hub) (c : Chan) : Bool :=
  decide (2 * (s.wl.good[h])[c] < filledSlots s c) || (bothOf.all fun g => s.wl.txNow.getLsbD (wlBit g c))

/-- Whether a channel is bad at both hubs in the running and the last cycle (R164, R167); where one hub is silent, at the remaining one,
and the last cycle counts whichever schedule it ran. [DEDUCED, log 50] -/
def lostChannel (s : State) (c : Chan) : Bool :=
  !(hubsAlive s).isEmpty && (hubsAlive s).all fun h => badNow s h c && decide (1 ≤ (s.wl.bad[h])[c])

/-- A consolidation onto channel `keep` is to be announced from the next cycle on (R164); a `GO` that waits for CYC 56 is dropped, an
announcement that runs is cancelled when the consolidation is announced (R161). [DESIGN CHOICE, log 62] -/
def decideCons (keep : Chan) (s : State) : State := modWl (fun w => { w with consPend := true, kept := keep, goWait := false }) s

/-- Nothing is being announced about consolidation. -/
def consIdle (s : State) : Bool := !s.wl.consPend && s.wl.consCd == 0 && !s.wl.consDue

/-- The end of the static segment, at which the slot counts of the cycle are complete (R163). -/
def staticEnd (s : State) : State :=
  match wlBank s with
  | some b => if wlRuns s then advanceTo (intoCycle s (dynStart b)) s else s
  | none => s

/-- CONSOLIDATION_DECISION (R164): the lead decides after the static segment; the decision is a result of flow 4 (R38, R355). -/
def consolidationDecision (s : State) : State :=
  let s := staticEnd s
  if s.wl.op = 1 ∧ consIdle s = true ∧ (laneOfRole s .lead).isSome = true ∧ s.tds.choked = false ∧ lostChannel s 0 ≠ lostChannel s 1 then
    let keep : Chan := if lostChannel s 0 then 1 else 0
    releaseShared 4 (releaseKey 0 0) (BitVec.ofNat 64 (2 + keep.val)) (decideCons keep s)
  else s

/-- CONS_ENTER (R166); outside two-channel operation, or while a consolidation is pending, it does nothing.
[DESIGN CHOICE, log 62] -/
def consEnter (keep : Chan) (s : State) : State := if s.wl.op = 1 ∧ consIdle s = true then decideCons keep s else s

/-- CONSOLIDATION (R164) at the sync instant of cycle k + 2. -/
def consolidation (s : State) : State :=
  if s.wl.consDue then
    count .wls 0 7 (irq .wls 0 wlsCons (modWl (fun w => { w with
      consDue := false, consAct := true, op := if w.op = 1 then 2 else w.op }) s))
  else s

/-- CONS_EXIT (R166); the same refusal where the module is not consolidated, and no second announcement.
[DESIGN CHOICE, log 62] -/
def consExit (s : State) : State :=
  let lost := other s.wl.kept
  if s.wl.op = 2 ∧ (bothOf.all fun h => decide (64 ≤ (s.wl.clean[h])[lost])) = true then
    if s.wl.exitAnn ∨ s.wl.exitDue then s else modWl (fun w => { w with exitWait := true }) s
  else recordErr .wls 0 0x0102 s

/-- CONSOLIDATION_EXIT (R166). -/
def consolidationExit (s : State) : State :=
  if s.wl.exitDue then
    irq .wls 0 wlsConsEnd (modWl (fun w => { w with
      exitDue := false, exitWait := false, consAct := false, txFault := 0, op := if w.op = 2 then 1 else w.op }) s)
  else s

/-- BOTHLOST (R167); the module keeps `OP` 3 until it listens anew. [DESIGN CHOICE, log 62] -/
def bothLost (s : State) : State :=
  let s := staticEnd s
  if (s.wl.op = 1 ∧ lostChannel s 0 = true ∧ lostChannel s 1 = true) ∨ (s.wl.op = 2 ∧ lostChannel s s.wl.kept = true) then
    irq .wls 0 wlsBothLost (modWl (fun w => { w with op := 3, lost := true }) s)
  else s

/-- WLS_GO (R161): refused while an announcement runs or is decided, and while the module is consolidated.
[DESIGN CHOICE, log 62] -/
def wlsGo (s : State) : State :=
  if s.wl.nack ≠ 0 ∨ (wlNext s).isNone then recordErr .wls 0 0x0100 s
  else if 0 < s.wl.epCd ∨ s.wl.epDue ∨ s.wl.consAct ∨ consIdle s = false then recordErr .wls 0 0x0101 s
  else modWl (fun w => { w with goWait := true }) s

/-- EPOCH_SWITCH (R161) at the sync instant with CYC 0: the banks swap. [DESIGN CHOICE, log 62] -/
def epochSwitch (s : State) : State :=
  if s.wl.epDue then count .wls 0 8 (irq .wls 0 wlsEpoch (modWl (fun w => { w with epDue := false, act := other w.act }) s)) else s

/-- `SWITCH` (R168). -/
def writeSwitch (v : Word) (s : State) : State :=
  let s := if bit v 0 then wlsGo s else s
  let s := if bit v 1 then consEnter (if bit v 2 then 1 else 0) s else s
  if bit v 3 then consExit s else s

-- Start-up (R185 to R188)

/-- LISTEN_TIMER_EXPIRY (R185, R186, R188): the reference hub sends the collision-avoidance symbol on both channels; cycle 0 follows 10 µs
after its end. A loop-back that differs, or a burst of another node meanwhile, ends the attempt: the module listens for 4 cycles more. -/
def listenExpiry (loopBad : BitVec 4) (foreign : Bool) (s : State) : State :=
  match wlBank s with
  | none => s
  | some b =>
    if s.wl.phase ≠ .listen then s
    else
      let s := advanceTo s.wl.listenAt s
      let h := s.clk.refHub
      let t := s.clk.now + 12 * symbolNs b * 2 ^ 32
      let on := bothOf.filter fun c => canSend s h c none
      let wrong := on.filter fun c => loopBad.getLsbD (wlBit h c)
      let s := forEach on (fun c s => putBurst h c 0 s.clk.now casSyms 0 s) (modWl (fun w => { w with wire := [] }) s)
      let s := forEach wrong (loopError h) s
      if on.isEmpty ∨ wrong.isEmpty = false ∨ foreign then listenFrom t s
      else modWl (fun w => { w with phase := .start, upCycles := 0 }) { s with
        clk := { s.clk with running := true, started := false, tag := 0, tag0 := 0, ts := t + 10000 * 2 ^ 32 } }

/-- NORMAL_OPERATION (R187) at the sync instant of cycle 8: the hubs begin their training. [DEDUCED, log 51] -/
def normalOperation (s : State) : State :=
  if s.wl.op = 0 ∧ 8 ≤ s.wl.upCycles ∧ wlRuns s = true then
    modWl (fun w => { w with op := 1, phase := .run, train := (Vector.range 2).map fun h => if s.clk.alive[h]?.getD false then 128 else w.train[h]?.getD 0 }) s
  else s

/-- SYMBOL_WINDOW (R192): the reference hub sends the collision-avoidance symbol in every cycle with CYC 0. -/
def symbolWindow (loopBad : BitVec 4) (s : State) : State :=
  match wlBank s with
  | none => s
  | some b =>
    if wlRuns s = true ∧ (s.wl.op = 1 ∨ s.wl.op = 2) ∧ cycOf s = 0 ∧ b.symWin ≠ 0 then
      let s := advanceTo (intoCycle s (symStart b)) s
      forEach bothOf (fun c s =>
        let h := s.clk.refHub
        if canSend s h c none then
          let t := s.clk.now
          loopBack h c (t + 12 * symbolNs b * 2 ^ 32) (loopBad.getLsbD (wlBit h c)) (putBurst h c 0 t casSyms 0 (loadEq c none s))
        else s) s
    else s

-- The configuration service (R153, R160)

/-- CONFIGURATION_TIMEOUT (R153) once the 4 bus cycles of an answer are over: 3 repeats, then the node counts as not committed.
[DEDUCED, log 61] -/
def configTimeout (s : State) : State :=
  match s.wl.reqs with
  | q :: rest =>
    if q.sent = false ∨ q.age < 4 then s
    else if q.repeats < 3 then modWl (fun w => { w with reqs := { q with sent := false, repeats := q.repeats + 1 } :: rest }) s
    else count .wls 0 15 (irq .wls 0 wlsNodeNack (modWl (fun w => { w with reqs := rest, nack := setBit w.nack q.node true }) s))
  | [] => s

-- The sync instant

/-- A bus cycle ends: its last slot is judged, counts close (R163, R166, R448), streams without a frame age (R142). -/
def wlCycleEnd (s : State) : State :=
  match wlBank s with
  | none => s
  | some b =>
    if wlRuns s then
      let s := judgeSlot b b.slots s
      let bad := fun (h : Hub) (c : Chan) => badNow s h c
      let next := fun (v : Vector (Vector Nat 2) 2) (hit : Hub → Chan → Bool) => forBoth v hit
      let w := s.wl
      let dirty := fun (h : Hub) (c : Chan) => w.dirty.getLsbD (wlBit h c) || w.txNow.getLsbD (wlBit h c)
      let runs := next w.loopRun dirty
      let fault := bothOf.foldl (fun m h => bothOf.foldl (fun m c => if 2 ≤ (runs[h])[c] then putWl m h c true else m) m) w.txFault
      modWl (fun w => { w with
        lastGood := w.good, lastExp := ⟨#[filledSlots s 0, filledSlots s 1], rfl⟩
        bad := next w.bad bad, clean := next w.clean (fun h c => !dirty h c), loopRun := runs, txFault := fault
        seqs := (w.seqs.map fun x => (x.1, x.2.1, x.2.2 + 1)).filter fun x => decide (x.2.2 ≤ 64) }) s
    else s
where
  /-- Each count rises where the condition holds and returns to 0 elsewhere. -/
  forBoth (v : Vector (Vector Nat 2) 2) (hit : Hub → Chan → Bool) : Vector (Vector Nat 2) 2 :=
    bothOf.foldl (fun v h => bothOf.foldl (fun v c => hcMod v h c fun n => if hit h c then n + 1 else 0) v) v

/-- A consolidation announcement begins: it cancels an epoch announcement that runs (R161); one that has reached 1 completes.
[DEDUCED, log 62] -/
def cancelEpoch (s : State) : State :=
  if s.wl.consPend ∧ 1 < s.wl.epCd ∧ s.wl.exitAnn = false then
    count .wls 0 14 (irq .wls 0 wlsEpAbort (modWl (fun w => { w with epCd := 0 }) s))
  else s

/-- The announcements of a new cycle (R161, R164, R166). -/
def announceStep (s : State) : State :=
  let s := cancelEpoch s
  let w := s.wl
  let w := if w.consPend then { w with consPend := false, consCd := 2 }
    else if w.consCd = 2 then { w with consCd := 1 }
    else if w.consCd = 1 then { w with consCd := 0, consDue := true }
    else w
  let w := if 1 < w.epCd then { w with epCd := w.epCd - 1 }
    else if w.epCd = 1 then
      if w.exitAnn then { w with epCd := 0, exitAnn := false, exitDue := true } else { w with epCd := 0, epDue := true }
    else if cycOf s = 56 ∧ w.goWait then { w with goWait := false, epCd := 8 }
    else if cycOf s = 56 ∧ w.exitWait then { w with exitWait := false, exitAnn := true, epCd := 8 }
    else w
  { s with wl := w }

/-- A bus cycle begins; the tag has been assigned, `first` where it is the first cycle. [DEDUCED, log 51] -/
def wlCycleBegin (first : Bool) (s : State) : State :=
  let s := if s.wl.lost then cellSto 9 (modWl (fun w => { w with lost := false }) s) else s
  let zero : Vector (Vector Nat 2) 2 := Vector.replicate 2 (Vector.replicate 2 0)
  let s := modWl (fun w => { w with
    upCycles := if first then 0 else w.upCycles + 1
    train := if first ∨ w.op = 0 then w.train else w.train.map (· - 1)
    paths := ⟨#[if s.clk.alive[(0 : Hub)] then 0 else 1, if s.clk.alive[(1 : Hub)] then 1 else 0], rfl⟩
    good := zero, dirty := 0, txNow := 0, got := [], oneHub := [], wire := [], handed := [], mini := Vector.replicate 2 255, spent := Vector.replicate 2 0
    reqs := w.reqs.map fun q => { q with age := q.age + 1 }
    buf := w.buf.map fun x => { x with stale := false } }) s
  announceStep s

-- What the pages show (R125, R168)

/-- `WLC.STAT`, `EQ_DATA` and `TRAIN_STAT` at a hub. [DEDUCED, log 20] -/
def wlcStat (s : State) (h : Hub) (c : Chan) : Word :=
  let rate := match wlBank s with
    | some b => b.rate.toNat
    | none => 0
  let active := s.clk.alive[h] && s.wl.wire.any fun x => x.ch == c && inFlight s x
  BitVec.ofNat 32 (b2n active * 16 + b2n (s.wl.sigdet.getLsbD (wlBit h c)) * 8 + rate)
def eqData (s : State) (h : Hub) (c : Chan) : Word :=
  let e := eqEntry s h c (fld s .wlc c Reg.WLC_EQ_SEL 5 0)
  BitVec.ofNat 32 ((eqWord e).toNat + e.eye * 2 ^ 24 + b2n e.atlim * 2 ^ 30 + b2n e.trained * 2 ^ 31)
def trainStat (s : State) (h : Hub) (c : Chan) : Word :=
  let t := (s.wl.eq[h])[c]
  BitVec.ofNat 32 ((t.filter fun x => x.2.atlim).length * 256 + (t.filter fun x => x.2.trained).length)

/-- `CYCLE`, `STATIC`, `DYN`, `TAIL`, `FB_END` of the active bank. -/
def wlWord (s : State) (off : Nat) : Word :=
  match wlBank s with
  | none => 0
  | some b =>
    if off = Reg.WLS_CYCLE then wlCycle b
    else if off = Reg.WLS_STATIC then wlStatic b
    else if off = Reg.WLS_DYN then wlDyn b
    else if off = Reg.WLS_TAIL then wlTail b
    else BitVec.ofNat 32 (feedbackUs s b)

/-- `STATE` (R168). -/
def wlState (s : State) : Word :=
  let w := s.wl
  let now := match wlBank s with
    | some b => b.epoch.toNat
    | none => 0
  let next := match wlNext s with
    | some b => b.epoch.toNat * 256 + 4096
    | none => 0
  BitVec.ofNat 32 ((if s.clk.started then cycOf s else 0) * 2 ^ 24 + w.consCd * 2 ^ 20 + w.epCd * 2 ^ 16 + next + now * 16 + b2n w.exitAnn * 8 +
    (if w.consAct ∨ 0 < w.consCd then w.kept.val else 0) * 4 + w.op)

/-- `CHHEALTH` of a hub (R168). -/
def chHealth (s : State) (h : Hub) : Word :=
  let g := s.wl.lastGood[h]
  let e := s.wl.lastExp
  BitVec.ofNat 32 (e[(1 : Chan)] * 2 ^ 24 + g[(1 : Chan)] * 2 ^ 16 + e[(0 : Chan)] * 256 + g[(0 : Chan)])

/-- MINISLOT. -/
def execMinislot (x : MinislotStart) (s : State) : Host.Outcome State Fault Refusal := run (minislot x.ch x.loopBad) s
/-- HOST_BUFFER_CUT_OFF. -/
def execHostBufferCutOff (s : State) : Host.Outcome State Fault Refusal := run bufferCutOff s
/-- SYMBOL_WINDOW. -/
def execSymbolWindow (loopBad : BitVec 4) (s : State) : Host.Outcome State Fault Refusal := run (symbolWindow loopBad) s
/-- CONSOLIDATION_DECISION. -/
def execConsolidationDecision (s : State) : Host.Outcome State Fault Refusal := run consolidationDecision s
/-- CONFIGURATION_RESPONSE. -/
def execConfigurationResponse (r : CfgResp) (s : State) : Host.Outcome State Fault Refusal := run (configResponse r) s
/-- CONFIGURATION_TIMEOUT. -/
def execConfigurationTimeout (s : State) : Host.Outcome State Fault Refusal := run configTimeout s
/-- RETRAIN. -/
def execRetrain (ch : Chan) (index : NodeNo) (all : Bool) (s : State) : Host.Outcome State Fault Refusal :=
  run (retrain ch index.val all false) s
/-- WLS_GO. -/
def execWlsGo (s : State) : Host.Outcome State Fault Refusal := run wlsGo s
/-- CONS_ENTER. -/
def execConsEnter (keep : Chan) (s : State) : Host.Outcome State Fault Refusal := run (consEnter keep) s
/-- CONS_EXIT. -/
def execConsExit (s : State) : Host.Outcome State Fault Refusal := run consExit s
/-- HB_CFG. -/
def execHbCfg (v : Word) (s : State) : Host.Outcome State Fault Refusal := run (writeHbCfg v) s
/-- HB_DATA_WRITE. -/
def execHbDataWrite (v : Word) (s : State) : Host.Outcome State Fault Refusal := run (writeHbData v) s
/-- HB_DATA_READ. -/
def execHbDataRead (p : Port) (s : State) : Host.Outcome State Fault Refusal :=
  run (atPort p fun s => advanceHb (returnRead p (readHbData s) s)) s
/-- RX_DATA_READ. -/
def execRxDataRead (p : Port) (s : State) : Host.Outcome State Fault Refusal :=
  run (atPort p fun s => advanceRx (returnRead p (rxData s) s)) s
/-- RX_POP. -/
def execRxPop (s : State) : Host.Outcome State Fault Refusal := run popRx s

end Sys2Proof.Machine
end

