-- ==== Sys2Proof/Machine/Images.lean ====
section
/-! DEFINITION. Images, their sections and banks, bank switches, the stored image, molt and step classes (R159, R160, R275 to R278,
R306, R340, R342, R382, R388, R391, R392, R421, R424, R426, R450 to R456). -/

namespace Sys2Proof.Machine

/-- Change what is held of images. -/
def modImg (f : Images → Images) (s : State) : State := { s with img := f s.img }

/-- Within a range. -/
def within (lo hi n : Nat) : Bool := decide (lo ≤ n) && decide (n ≤ hi)

-- The container (R450, R451)

/-- Where BAR2 holds the cell image and firmware image `i`, and how long each may be. -/
def cellImageAt : Nat := 0x04000000
def firmwareAt (i : Nat) : Nat := 0x08000000 + i * 0x800000
def firmwareRoom : Nat := 0x800000

/-- The fields of a container's header. -/
def imgLength (b : List Byte) : Nat := leAt b 8 4
def imgId (b : List Byte) : Word := BitVec.ofNat 32 (leAt b 12 4)
def imgKind (b : List Byte) : Nat := leAt b 16 4
def imgSigOfs (b : List Byte) : Nat := leAt b 48 4

/-- The bytes of a container in bulk memory: as many as its header gives, within its area. -/
def containerAt (s : State) (a room : Nat) : List Byte :=
  let n := imgLength (memBytes s a 64)
  memBytes s a (if n ≤ room then n else 64)

/-- An entry of the directory: kind, offset, length, CRC-32 (R451). -/
structure Section where
  kind : Nat
  ofs : Nat
  len : Nat
  crc : Word
  deriving DecidableEq, Repr

/-- The directory. -/
def directory (b : List Byte) : List Section :=
  (List.range (leAt b 6 2)).map fun i =>
    let o := 64 + 16 * i
    ⟨leAt b o 1, leAt b (o + 4) 4, leAt b (o + 8) 4, BitVec.ofNat 32 (leAt b (o + 12) 4)⟩

/-- The bytes of a section. -/
def sectionBytes (b : List Byte) (x : Section) : List Byte := (b.drop x.ofs).take x.len

/-- The section of a kind. -/
def sectionOf (b : List Byte) (k : Nat) : Option (List Byte) := ((directory b).find? fun x => x.kind == k).map (sectionBytes b)

/-- The section kinds of a container (R451): of a cell image 1 to 8; a firmware image holds one section, 0x10 or 0x11. -/
def kindsOk (kind : Nat) (d : List Section) : Bool :=
  if kind = 0 then d.all fun x => within 1 8 x.kind
  else d.map (·.kind) == [if kind = 1 then 0x10 else 0x11]

/-- Whether the container is formed as R450 and R451 say. -/
def containerOk (b : List Byte) (kind : Nat) : Bool :=
  let d := directory b
  leAt b 0 4 == 0x49435A4C && leAt b 4 2 == 1 && decide (1 ≤ leAt b 6 2) && decide (leAt b 6 2 ≤ 32) && imgKind b == kind &&
    imgLength b == imgSigOfs b + 96 && b.length == imgLength b && decide (64 + 16 * leAt b 6 2 ≤ imgSigOfs b) &&
    imgId b == crc32 ((b.take (imgSigOfs b)).drop 64) && kindsOk kind d &&
    d.all fun x => decide (64 + 16 * leAt b 6 2 ≤ x.ofs) && decide (x.ofs + x.len ≤ imgSigOfs b) && (d.filter fun y => y.kind == x.kind).length == 1

/-- A section whose CRC-32 fails (R451). -/
def badSection (b : List Byte) : Option Nat := ((directory b).find? fun x => crc32 (sectionBytes b x) != x.crc).map (·.kind)

/-- The enrolment that a kind 8 section asks for: slot 0 to 3 and key of 97 bytes (R451). [DESIGN CHOICE, log 66] -/
def enrolment (b : List Byte) : Option (Fin 4 × List Byte) :=
  (sectionOf b 8).bind fun x =>
    if h : leAt x 0 1 < 4 then (if x.length = 98 then some (⟨leAt x 0 1, h⟩, x.drop 1) else none) else none

/-- The key that an image must be signed by: that of `KEYSLOT`, or the one that it enrols into an empty slot (R452). -/
def verifyKey (s : State) (b : List Byte) : Option (List Byte) :=
  let slot := leAt b 28 2
  let k := if slot < 4 then s.sec.keys[(⟨slot % 4, Nat.mod_lt _ (by decide)⟩ : Fin 4)] else none
  match k, enrolment b with
  | some k, _ => some k
  | none, some e => if e.1.val = slot then some e.2 else none
  | none, none => none

/-- An enrolment is signed by the key that it replaces, or by the key that it enrols into an empty slot (R452). -/
def enrolmentSigned (s : State) (b : List Byte) : Bool :=
  match enrolment b with
  | some e => Config.imageSigned ((s.sec.keys[e.1]).getD e.2) (b.take (imgSigOfs b)) (b.drop (imgSigOfs b))
  | none => true

/-- `IMG_STAT.RESULT` of an image: 1 verified, 2 invalid, 3 key not enrolled (R431). [DEDUCED, log 64] -/
def signatureResult (s : State) (b : List Byte) : Nat :=
  match verifyKey s b with
  | none => 3
  | some k => if Config.imageSigned k (b.take (imgSigOfs b)) (b.drop (imgSigOfs b)) then 1 else 2

-- What the banks check

/-- A static frame ends 70 ns before its slot does, and its row names a slot and a length that a frame can have (R131, R133). -/
def slotFits (b : WlBank) (r : SlotRow) : Bool :=
  within 1 b.slots r.fid && decide (r.len ≤ 254) && decide (20 * b.apo + (4 * r.len + 27) * symbolNs b + 70 ≤ 20 * b.slotLen)

/-- The cycle parameters hold the ranges of R128, the parts sum to the bus cycle, the static frames fit their slots (R131).
[DESIGN CHOICE, log 112] -/
def bankFits (b : WlBank) : Bool :=
  within 6250 100000 b.cycle && within 4 255 b.slots && within 40 2047 b.slotLen && within 4 31 b.apo && decide (b.minis ≤ 4095) &&
    within 10 127 b.miniLen && within 2 7 b.miniApo && (b.symWin == 0 || within 80 255 b.symWin) && decide (500 ≤ b.nit) &&
    decide (b.slots * b.slotLen + b.minis * b.miniLen + b.symWin + b.nit = b.cycle) && decide (b.rate.toNat ≤ 2) &&
    (b.two ++ b.cons).all (slotFits b) && (b.dynTwo ++ b.dynCons).all fun r => within 256 1023 r.fid

/-- Equal cycle parameters, rates and sync slots with their sync nodes (R159). -/
def banksAgree (x y : WlBank) : Bool :=
  let sync := fun (l : List SlotRow) => l.filter fun r => r.kind == 1
  x.rate == y.rate && x.cycle == y.cycle && x.slots == y.slots && x.slotLen == y.slotLen && x.apo == y.apo && x.minis == y.minis &&
    x.miniLen == y.miniLen && x.miniApo == y.miniApo && x.symWin == y.symWin && x.nit == y.nit && sync x.two == sync y.two &&
    sync x.cons == sync y.cons

/-- Every static stream of both channels stands in the consolidated schedule (R159). -/
def consComplete (x : WlBank) : Bool := x.two.all fun r => x.cons.any fun q => q.node == r.node && q.kind == r.kind && q.stream == r.stream

/-- The refusal of a schedule bank beside the active one, if there is one: none, or its code on the `WLS` page (R107, R159), 0 where a
parameter is out of its range. [DESIGN CHOICE, log 112] -/
def scheduleCode (active : Option WlBank) (x : WlBank) : Option Nat :=
  if !bankFits x then some 0
  else if (match active with
    | some a => !banksAgree x a
    | none => false : Bool) then some 0x0103
  else if !consComplete x then some 0x0104
  else none

/-- The refusal of a schedule bank that is loaded. -/
def wlRefusal (s : State) (x : WlBank) : Option Nat := scheduleCode (wlBank s) x

/-- The header of a Plefin section (R276). -/
def readPattern (b : List Byte) : Pattern :=
  let r := Config.plefinSchedule b
  { patid := BitVec.ofNat 32 (leAt b 0 4), rows := leAt b 4 2, primal := leAt b 6 2, nnz := leAt b 8 4, horizon := leAt b 12 1
    plancyc := leAt b 13 1, slots := leAt b 14 2, tFact := BitVec.ofNat 32 (leAt b 24 4), tIter := BitVec.ofNat 32 (leAt b 28 4)
    pairid := BitVec.ofNat 32 (leAt b 32 4), deltaP := BitVec.ofNat 64 (leAt b 40 8), deltaD := BitVec.ofNat 64 (leAt b 48 8)
    sigmaC := BitVec.ofNat 32 (leAt b 56 4), tau := BitVec.ofNat 32 (leAt b 60 4), push := BitVec.ofNat 32 (leAt b 64 4), fits := r.1
    signsOk := r.2.1 == r.2.2.2.1.map (·.isVar), groups := r.2.2.1, order := r.2.2.2.1, fill := r.2.2.2.2 }

/-- The refusal of a pattern (R275, R278). -/
def patternRefusal (p : Pattern) : Option Nat :=
  if 32768 < p.rows ∨ 524288 < p.nnz ∨ p.plancyc < 2 ∨ 16 < p.plancyc then some 0x0102
  else if !p.fits then some 0x0103
  else if !p.signsOk then some 0x0104
  else none

/-- Cycles that a customer kernel declares. -/
def declared (b : KernelBank) (k : Nat) : Nat :=
  match b.kernels.find? fun x => x.index == k with
  | some x => x.cycles
  | none => 0

/-- The cycles of a joint in the two phases (R339, R340). -/
def jointCycles (b : KernelBank) (cfg : Word) : Nat × Nat :=
  let loop := field cfg 5 4
  let l := if loop = 1 then libCycles 1 else if loop = 2 then libCycles 2 else if loop = 3 then declared b (field cfg 21 16) else 0
  (libCycles 0 + l + libCycles 3 * field cfg 9 7 + (if bit cfg 6 then libCycles 4 else 0),
    libCycles 5 + (if bit cfg 10 then declared b (field cfg 27 22) else libCycles 6) + libCycles 7)

/-- A kernel that a joint may be bound to: present, of the loop class. -/
def bindable (b : KernelBank) (k : Nat) : Bool := b.kernels.any fun x => x.index == k && !x.stream

/-- A binding names at most four notches and only kernels that it may. -/
def jcfgOk (b : KernelBank) (cfg : Word) : Bool :=
  decide (field cfg 9 7 ≤ 4) && (field cfg 5 4 != 3 || bindable b (field cfg 21 16)) && (!bit cfg 10 || bindable b (field cfg 27 22))

/-- The refusal of a kernel bank (R340). -/
def kernelRefusal (b : KernelBank) : Option Nat :=
  let bound := b.jcfg.filter fun c => bit c 0
  let exceeds := allEight.any fun c =>
    let mine := bound.filter fun w => field w 3 1 == c.val
    decide (11000 < mine.foldl (fun n w => n + (jointCycles b w).1) 0) || decide (8000 < mine.foldl (fun n w => n + (jointCycles b w).2) 0)
  if bound.any fun c => !jcfgOk b c then some 0x0104
  else if exceeds then some 0x0102
  else if 4096 < (b.kernels.flatMap (·.code)).length ∨ b.kernels.any fun k => decide (32 < k.state) || decide (64 < k.params) then some 0x0103
  else none

/-- Never decreasing. -/
def rising : List Nat → Bool
  | x :: y :: r => decide (x ≤ y) && rising (y :: r)
  | _ => true

/-- A stop table that never decreases along speed or payload (R382). -/
def stopsRise (t : StopTable) : Bool :=
  let rows := fun (l : List Nat) => (List.range 4).all fun m => rising ((l.drop (8 * m)).take 8)
  let cols := fun (l : List Nat) => (List.range 8).all fun v => rising ((List.range 4).map fun m => l.getD (8 * m + v) 0)
  rows t.ts && rows t.ss && cols t.ts && cols t.ss

/-- Whether m3 reaches the mass bound of the arm (R382): masses in 10 g. -/
def massCovered (t : StopTable) (m : Option ArmModel) : Bool :=
  match m with
  | some x => dLe (dOfF (x.hi.getD 0 0)) (dDiv (dOfInt (t.mass.getD 3 0 : Nat)) (dOfInt 100))
  | none => true

/-- Owner codes of a volume (R365). -/
def ownerFixture : Nat := 0xFE
def ownerTrack : Nat := 0xFD
def ownerZone : Nat := 0xFC

/-- A volume stands in the index range of its kind (R364). -/
def volumePlaced (x : Nat × Volume) : Bool :=
  let o := x.2.owner
  x.2.kind == 0 || (if x.1 < 128 then decide (o < 12) || o == ownerFixture else if x.1 < 192 then o == ownerTrack else o == ownerZone && decide (x.1 < 256))

/-- The owner code of a volume; 0xFF where there is none. -/
def volumeOwner (b : MantisBank) (v : Nat) : Nat :=
  match assoc b.vols v with
  | some y => if y.kind = 0 then 0xFF else y.owner
  | none => 0xFF

/-- A pair names volumes as its class requires, and an arm–arm pair reacts on both arms (R374, R388). -/
def pairOk (b : MantisBank) (x : Nat × Pair) : Bool :=
  let u := volumeOwner b x.2.u
  let v := volumeOwner b x.2.v
  x.2.cls == 0 || (decide (u < 12) &&
    (if x.2.cls = 1 then v == ownerTrack || v == ownerZone
    else if x.2.cls = 2 then decide (v < 12) && u != v && x.2.react.getLsbD u && x.2.react.getLsbD v
    else x.2.cls == 3 && v == ownerFixture))

/-- The refusal of a mantis bank, with the arms that it is to run with (R391). [DEDUCED, log 79] -/
def mantisRefusal (arms : Option ArmsImage) (b : MantisBank) : Option Nat :=
  let tracks := (b.vols.filter fun x => x.2.kind != 0 && x.2.owner == ownerTrack).length
  let many := allArms.any fun (a : Arm) => decide (9 < (b.vols.filter fun x => x.2.kind != 0 && x.2.owner == a.val).length)
  if b.vols.any (fun x => !volumePlaced x) ∨ b.pairs.any (fun x => !pairOk b x || decide (8192 ≤ x.1)) ∨ many ∨ 64 < tracks then some 0x0104
  else if b.stops.any fun x => !stopsRise x.2 || !massCovered x.2 (arms.bind fun i => assoc i.arms x.1) then some 0x0103
  else none

-- Loading (R452, R453)

/-- Whether section kind `k` is selected and present. -/
def wants (sect : BitVec 8) (b : List Byte) (k : Nat) : Bool := sect.getLsbD (k - 1) && (sectionOf b k).isSome

/-- The CRC-32 over a section. -/
def sectionCrc (b : List Byte) (k : Nat) : Word := crc32 ((sectionOf b k).getD [])

/-- Whether a safety or mantis section differs from the one in force (R453). -/
def safetyDiffers (s : State) (sect : BitVec 8) (b : List Byte) : Bool :=
  (wants sect b 6 && (s.saf.bank.map (·.crc)) != some (sectionCrc b 6)) ||
    (wants sect b 5 && ((mantisBank s).map (·.id)) != some (sectionCrc b 5))

/-- Whether a load would enter the change log: a safety configuration that differs, or an enrolment (R424, R452). -/
def loadIsChange (s : State) (sect : BitVec 8) (b : List Byte) : Bool := safetyDiffers s sect b || wants sect b 8

/-- A kind that a pending switch keeps from loading. [DEDUCED, log 65] -/
def switchPends (s : State) (sect : BitVec 8) (b : List Byte) : Option Nat :=
  if wants sect b 2 && (s.wl.goWait || decide (0 < s.wl.epCd) || s.wl.epDue) then some 2
  else if (wants sect b 1 || wants sect b 3) && s.plf.pend.isSome then some (if wants sect b 3 then 3 else 1)
  else if wants sect b 4 && s.sdp.pend.isSome then some 4
  else if (wants sect b 5 || wants sect b 6) && s.mnt.pend.isSome then some (if wants sect b 5 then 5 else 6)
  else none

/-- The arms that a load leaves beside the next bank. -/
def armsAfter (s : State) (sect : BitVec 8) (b : List Byte) : Option ArmsImage :=
  if wants sect b 1 then (sectionOf b 1).bind Config.armsSection else s.arms

/-- What the bank of kind `k` says of its section: none, or its own code; 0 where the section cannot be read. -/
def bankRefusal (s : State) (sect : BitVec 8) (b : List Byte) (k : Nat) : Option Nat :=
  let x := (sectionOf b k).getD []
  if k = 1 then (if (Config.armsSection x).isNone then some 0 else none)
  else if k = 2 then
    match Config.wearlineSection x with
    | some w => wlRefusal s w.1
    | none => some 0
  else if k = 3 then patternRefusal (readPattern x)
  else if k = 4 then
    match Config.kernelSection x with
    | some w => kernelRefusal w
    | none => some 0
  else if k = 5 then
    match Config.mantisSection x with
    | some w => mantisRefusal (armsAfter s sect b) w
    | none => some 0
  else if k = 6 then (if (Config.safetySection x).isNone then some 0 else none)
  else if k = 8 then (if (enrolment b).isNone then some 0 else none)
  else none

/-- The first section that a bank refuses. -/
def firstRefusal (s : State) (sect : BitVec 8) (b : List Byte) : Option (Nat × Nat) :=
  ((List.range 8).map (· + 1)).findSome? fun k => if wants sect b k then (bankRefusal s sect b k).map fun c => (k, c) else none

/-- The outcome of the checks of a load: section kind, `LOAD_STAT` code, own code of the page (R453). [DEDUCED, log 64] -/
def loadRefusal (s : State) (sect : BitVec 8) (b : List Byte) : Option (Nat × Nat × Nat) :=
  if !containerOk b 0 then some (0, 2, 0)
  else match badSection b with
  | some k => some (k, 3, 0)
  | none =>
    if signatureResult s b ≠ 1 then some (0, 1, 0)
    else if wants sect b 8 && (match s.sec.session with
      | some x => x.limited
      | none => true) then some (8, 1, 0)
    else if wants sect b 8 && !enrolmentSigned s b then some (8, 1, 0)
    else if safetyDiffers s sect b && locked s .saf then some (if wants sect b 6 then 6 else 5, 5, 0)
    else match switchPends s sect b with
    | some k => some (k, 6, 0)
    | none =>
      if loadIsChange s sect b && logFull s then some (if wants sect b 6 then 6 else if wants sect b 5 then 5 else 8, 4, 0x0101)
      else (firstRefusal s sect b).map fun x => (x.1, 4, x.2)

/-- The page that a section kind belongs to. -/
def sectionPage (k : Nat) : Pg := if k = 1 then .plf else if k = 2 then .wls else if k = 3 then .plf else if k = 4 then .sdp else if k = 5 then .mnt else if k = 6 then .saf else .sec

/-- `IMG_STAT` after a signature check (R426): `CNT5` counts refusals. -/
def noteSignature (b : List Byte) (s : State) : State :=
  let r := signatureResult s b
  countIf (r != 1) .sec 0 5 (modSec (fun x => { x with imgStat := BitVec.ofNat 32 (leAt b 28 2 * 65536 + r) }) s)

/-- IMAGE_LOAD (R453): a write of `LOAD`. [DEDUCED, log 64] -/
def imageLoad (h : Hub) (v : Word) (s : State) : State :=
  if bit v 31 = false then s
  else if s.img.stat = 1 then recordErr .cus h 0x0103 s
  else
    let b := containerAt s cellImageAt 0x04000000
    let sect : BitVec 8 := v.setWidth 8
    let s := if containerOk b 0 && (badSection b).isNone then noteSignature b s else s
    modImg (fun x => { x with stat := 1, statKind := 0, statCode := 0, job := some ⟨sect, b, loadRefusal s sect b⟩ }) s

/-- Table bytes cut into the requests of one node (R153). -/
def chunks (n : Nat) (op : Byte) (ofs : Nat) : Nat → List Byte → List CfgReq
  | 0, _ => []
  | k + 1, b => if b.isEmpty then [] else { node := n, op := op, req := 0, arg := BitVec.ofNat 32 ofs, data := b.take 128 } :: chunks n op (ofs + 128) k (b.drop 128)

/-- The requests that give a node its tables and commit them (R153, R160). -/
def nodeRequests (b : WlBank) (x : Nat × List Byte × List Byte) : List CfgReq :=
  let two := x.2.1
  let cons := x.2.2
  chunks x.1 2 0 (two.length + 1) two ++ chunks x.1 3 0 (cons.length + 1) cons ++
    [{ node := x.1, op := 4, req := 0, arg := b.epoch.setWidth 32, data := leBytes 4 (crc32 (two ++ cons)).toNat }]

/-- Request numbers in order. -/
def numbered (n : BitVec 16) : List CfgReq → List CfgReq
  | [] => []
  | q :: r => { q with req := n } :: numbered (n + 1) r

/-- A schedule bank becomes next and the soldiers take their copy (R193); its nodes have not committed (R160). A module without a
schedule starts with it: it listens. [DEDUCED, log 61; DESIGN CHOICE, log 62] -/
def loadSchedule (b : WlBank) (s : State) : State :=
  let q := b.tables.flatMap (nodeRequests b)
  let first := (wlBank s).isNone
  let i := if first then s.wl.act else other s.wl.act
  let s := commitSoldiers i (modWl (fun w => { w with
    banks := vset w.banks i (some b), reqs := w.reqs ++ numbered w.reqNo q, reqNo := w.reqNo + BitVec.ofNat 16 q.length
    nack := b.tables.foldl (fun m x => setBit m x.1 true) 0 }) s)
  if first then listenFrom s.clk.now s else s

/-- A load or switch of a safety configuration enters the change log (R424). [DEDUCED, log 65] -/
def logSafety (before after : Word) (kind : Nat) (s : State) : State := logChange 6 true (pgRow .saf).cls 0 before after kind s

/-- Load one section into its next bank (R451). -/
def loadSection (b : List Byte) (k : Nat) (s : State) : State :=
  let x := (sectionOf b k).getD []
  if k = 1 then { s with armsNext := Config.armsSection x }
  else if k = 2 then
    match Config.wearlineSection x with
    | some w => loadSchedule w.1 s
    | none => s
  else if k = 3 then modPlf (fun p => { p with banks := vset p.banks (other p.act) (some (readPattern x)) }) s
  else if k = 4 then { s with sdp := { s.sdp with banks := vset s.sdp.banks (other s.sdp.act) (Config.kernelSection x) } }
  else if k = 5 then modMnt (fun m => { m with banks := vset m.banks (other m.act) (Config.mantisSection x) }) s
  else if k = 6 then modSaf (fun u => { u with next := Config.safetySection x }) s
  else if k = 7 then modSec (fun u => { u with ca := x }) s
  else match enrolment b with
    | some e => logChange 6 true (pgRow .sec).cls 0 0 (crc32 x) 2 (modSec (fun u => { u with
        keys := vset u.keys e.1 (if e.2.all (· == 0) then none else some e.2) }) s)
    | none => s

/-- The banks that a load fills: bit k−1 for kinds 2, 3, 4 and 5, which switch by themselves (R454). [DEDUCED, log 65] -/
def bankKinds (sect : BitVec 8) (b : List Byte) : BitVec 8 :=
  let m := [2, 3, 4, 5].foldl (fun m k => if wants sect b k then setBit m (k - 1) true else m) (0 : BitVec 8)
  let m := if wants sect b 1 then setBit m 2 true else m
  if wants sect b 6 then setBit m 4 true else m

/-- Arms and pattern load together, mantis and safety load together: what a load leaves out stays as it is in force (R451).
[DEDUCED, log 65] -/
def beforeLoad (sect : BitVec 8) (b : List Byte) (s : State) : State :=
  let s := if wants sect b 3 || wants sect b 1 then
      modPlf (fun p => { p with banks := vset p.banks (other p.act) p.banks[p.act] }) { s with armsNext := s.arms }
    else s
  if wants sect b 5 || wants sect b 6 then
    modMnt (fun m => { m with banks := vset m.banks (other m.act) m.banks[m.act] }) (modSaf (fun u => { u with next := u.bank }) s)
  else s

/-- IMAGE_LOAD_COMPLETE (R453): all selected sections load, or none. [DEDUCED, log 64] -/
def imageLoadComplete (s : State) : State :=
  match s.img.job with
  | none => s
  | some j =>
    match j.refusal with
    | some (k, code, own) =>
      let s := if own ≠ 0 then (if own = 0x0101 ∧ 5 ≤ k then refuseForLog (sectionPage k) 0 s else recordErr (sectionPage k) 0 own s) else s
      cusEvent cusLoadDone (some 8) (modImg (fun x => { x with stat := 3, statKind := k, statCode := code, job := none }) s)
    | none =>
      let before := (s.saf.bank.map (·.crc)).getD 0
      let differs := safetyDiffers s j.sect j.bytes
      let fresh := (wlBank s).isNone
      let kinds := ((List.range 8).map (· + 1)).filter fun k => wants j.sect j.bytes k
      let s := forEach kinds (loadSection j.bytes) (beforeLoad j.sect j.bytes s)
      let s := if differs then logSafety before (sectionCrc j.bytes 6) 2 s else s
      cusEvent cusLoadDone (some 7) (modImg (fun x => { x with
        stat := 2, statKind := 0, statCode := 0, job := none, loadedId := imgId j.bytes, loadedBytes := j.bytes
        awaiting := if fresh then setBit (bankKinds j.sect j.bytes) 1 false else bankKinds j.sect j.bytes }) s)

/-- `LOAD_STAT` (R461). -/
def loadStat (s : State) : Word := BitVec.ofNat 32 (s.img.stat * 2 ^ 30 + s.img.statKind * 65536 + s.img.statCode)

-- Bank switches and the stored image (R454)

/-- A bank of kind `k` becomes active: the image is stored once all of its banks are (R454). -/
def bankActive (k : Nat) (s : State) : State :=
  if s.img.awaiting.getLsbD (k - 1) then
    modImg (fun x =>
      let left := setBit x.awaiting (k - 1) false
      if left = 0 then { x with awaiting := 0, stored := x.loadedId, storedBytes := x.loadedBytes } else { x with awaiting := left }) s
  else s

/-- PATTERN_BANK_SWITCH (R306). -/
def patternSwitch (s : State) : State := if patternDue s then bankActive 3 (switchPattern s) else s

/-- KERNEL_BANK_SWITCH (R342). -/
def kernelSwitch (s : State) : State := if switchDue s s.sdp.pend (planBus s) then bankActive 4 (switchKernelBank s) else s

/-- The fields of a register that a safety section gives (R429, R430); none of any other register. -/
def imageMask (p : Pg) (off : Nat) : Word :=
  if p = .sio then
    if decide (Reg.SIO_SI_CFG ≤ off) && decide (off < Reg.SIO_SI_CFG + 64) then 0xFFFFFFFF
    else if decide (Reg.SIO_SO_CFG ≤ off) && decide (off < Reg.SIO_SO_CFG + 16) then 0x0FFFFFFF
    else if off = Reg.SIO_RST_CFG then 0x0FFF0FFF
    else 0
  else if p = .saf ∧ off = Reg.SAF_GCFG then 0x80FFFFFF
  else 0

/-- A page takes the registers that a safety section gives it: reserved fields stay 0 (R8). -/
def takeImageRegs (p : Pg) (l : List (Nat × Word)) (s : State) : State :=
  forEach l (fun x s =>
    let off := x.1 - pageAddr p 0
    if pageAddr p 0 ≤ x.1 ∧ off < 4096 ∧ imageMask p off ≠ 0 then setReg p 0 off (x.2 &&& imageMask p off) s else s) s

/-- A safety section comes into force: its registers, stops and identity (R421, R430). -/
def applySafety (s : State) : State :=
  match s.saf.bank with
  | none => s
  | some b =>
    takeImageRegs .saf b.regs (takeImageRegs .sio b.regs
      (modSaf (fun u => { u with loaded := true, acfg := b.acfg, jcfg := b.jcfg, crc := b.crc }) s))

/-- MANTIS_BANK_SWITCH (R392): the pair table and the safety section change places; the log notes it (R424). [DEDUCED, log 65] -/
def mantisSwitch (s : State) : State :=
  let due := if s.plf.pend.isSome && s.mnt.pend == s.plf.pend then patternDue s else switchDue s s.mnt.pend (planBus s)
  if due then
    let before := (s.saf.bank.map (·.crc)).getD 0
    let s := switchMantisBank s
    let s := if s.saf.next.isSome then applySafety (modSaf (fun u => { u with bank := u.next, next := u.bank }) s) else s
    bankActive 5 (logSafety before ((s.saf.bank.map (·.crc)).getD 0) 3 s)
  else s

/-- EPOCH_SWITCH (R161). -/
def epochBankSwitch (s : State) : State := if s.wl.epDue then bankActive 2 (epochSwitch s) else s

/-- The hubs take their part of the stored image at a planned bring-up (R532): both schedule banks, a second one only where it agrees
(R159), with the soldiers' copies, and the inputs' configuration; Wearline listens. [DEDUCED, log 18] -/
def startHubs (s : State) : State :=
  let s := match (sectionOf s.img.storedBytes 6).bind Config.safetySection with
    | some x => takeImageRegs .sio x.regs s
    | none => s
  match (sectionOf s.img.storedBytes 2).bind Config.wearlineSection with
  | some w =>
    if scheduleCode none w.1 = none then
      let next := match w.2 with
        | some b => if scheduleCode (some w.1) b = none then some b else none
        | none => none
      listenFrom s.clk.now (commitSoldiers 1 (commitSoldiers 0 (modWl (fun x => { x with banks := ⟨#[some w.1, next], rfl⟩, act := 0 }) s)))
    else s
  | none => s

/-- The lanes load their banks from the stored image at a planned bring-up (R534). [DEDUCED, log 18] -/
def startLanes (s : State) : State :=
  let b := s.img.storedBytes
  let s := { s with arms := (sectionOf b 1).bind Config.armsSection }
  let s := match sectionOf b 3 with
    | some x => modPlf (fun p => { p with banks := ⟨#[some (readPattern x), none], rfl⟩, act := 0 }) s
    | none => s
  let s := match (sectionOf b 4).bind Config.kernelSection with
    | some k =>
      let n := reg s .sdp 0 (Reg.CNT + 24)
      let i := reg s .sdp 0 Reg.IRQ_STAT
      setReg .sdp 0 Reg.IRQ_STAT i (setReg .sdp 0 (Reg.CNT + 24) n
        (switchKernelBank { s with sdp := { s.sdp with banks := ⟨#[none, some k], rfl⟩, act := 0 } }))
    | none => s
  let s := match (sectionOf b 5).bind Config.mantisSection with
    | some m => modMnt (fun x => { x with banks := ⟨#[some m, none], rfl⟩, act := 0 }) s
    | none => s
  match (sectionOf b 6).bind Config.safetySection with
  | some x => applySafety (modSaf (fun u => { u with bank := some x }) s)
  | none => s

-- Molt and step classes (R455, R456)

/-- MOLT (R455). [DEDUCED, log 67] -/
def molt (c : Cart) (i : Nat) (s : State) : State :=
  let kind := if 3 ≤ c.val then 2 else 1
  let b := containerAt s (firmwareAt i) firmwareRoom
  let good := decide (i < 8) && containerOk b kind && (badSection b).isNone && Config.firmwareSigned b
  if fenced s c && good then
    modCart c (fun k => { k with molt := some (BitVec.ofNat 16 (leAt b 22 2), BitVec.ofNat 16 (leAt b 24 2), BitVec.ofNat 16 (leAt b 26 2)) }) s
  else recordErr .crt c 0x0102 s

/-- MOLT_COMPLETE (R455): the cartridge restarts through SELFTEST with its new firmware. [DEDUCED, log 67] -/
def moltComplete (c : Cart) (s : State) : State :=
  match (s.carts[c]).molt with
  | none => s
  | some (v, x, n) =>
    let s := modCart c (fun k => { k with molt := none, fwVersion := v, fwClass := x, fwNext := n, cause := 9, loaded := false, passed := false }) s
    count .crt c 6 (setState c .selftest s)

/-- The cartridges of a kind that are in step. -/
def inStepOf (s : State) (hubs : Bool) : List Cart := allCarts.filter fun c => decide (3 ≤ c.val) == hubs && (s.carts[c]).st == .instep

/-- FW_GO (R456). [DEDUCED, log 67] -/
def fwGo (h : Hub) (v : Word) (s : State) : State :=
  let hubs := bit v 1
  let cls : BitVec 16 := BitVec.ofNat 16 (field v 31 16)
  if bit v 0 = false then s
  else if (inStepOf s hubs).any fun c => (s.carts[c]).fwNext != cls && (s.carts[c]).fwClass != cls then recordErr .cus h 0x0101 s
  else if (allCarts.any fun c => decide (3 ≤ c.val) == hubs && readmitting s.carts[c]) ∨ s.img.switch.isSome then recordErr .cus h 0x0102 s
  else modImg (fun x => { x with switch := some (hubs, cls, s.clk.tag.toNat + planBus s) }) s

/-- STEP_CLASS_SWITCH (R456) at a plan-cycle start. -/
def stepClassSwitch (s : State) : State :=
  match s.img.switch with
  | none => s
  | some (hubs, cls, t) =>
    if planStarts s && decide (t ≤ s.clk.tag.toNat) then
      let s := forEach (inStepOf s hubs) (fun c s => modCart c (fun k => { k with fwClass := cls }) s) s
      cusEvent cusFwSw none (modImg (fun x => if hubs then { x with switch := none, hubClass := cls } else { x with switch := none, laneClass := cls }) s)
    else s

/-- IMAGE_LOAD. -/
def execImageLoad (c : Hub) (v : Word) (s : State) : Host.Outcome State Fault Refusal := run (imageLoad c v) s
/-- MOLT. -/
def execMolt (c : Cart) (img : BitVec 8) (s : State) : Host.Outcome State Fault Refusal := run (molt c img.toNat) s
/-- FW_GO. -/
def execFwGo (c : Hub) (v : Word) (s : State) : Host.Outcome State Fault Refusal := run (fwGo c v) s
/-- STEP_CLASS_SWITCH. -/
def execStepClassSwitch (s : State) : Host.Outcome State Fault Refusal := run stepClassSwitch s

end Sys2Proof.Machine
end

