-- ==== Sys2Proof/Machine/Ready.lean ====
section
/-! DEFINITION. What every page's `READY` register shows (R62 and the block chapters), and its renewal after an event. -/

namespace Sys2Proof.Machine

/-- A cartridge of the same kind uses a spare named by bit `b` of its map (R457). -/
def spareUsed (s : State) (c : Cart) (b : Nat) : Bool := bit (s.carts[c]).map b

/-- A hub that drives serves instance `k` from the spare whose map has its valid bit at `v` and its index at `hi:lo` (R463). -/
def hubSpare (s : State) (v hi lo k : Nat) : Bool :=
  (hubsAlive s).any fun h => spareUsed s (hubCart h) v && field (s.carts[hubCart h]).map hi lo == k

/-- A lane in step uses the spare of map bit `v` (R464). -/
def laneSpare (s : State) (v : Nat) : Bool := (lanesIn s).any fun l => spareUsed s (laneCart l) v

/-- The word of `READY`: phase, degraded, ready. [DEDUCED, log 20] -/
def readyBits (phase : Nat) (degraded ready : Bool) : Word := BitVec.ofNat 32 (phase * 16 + b2n degraded * 2 + b2n ready)

/-- A page that is ready once `x` holds, with phase `before` until then. -/
def readyWhen (x : Bool) (before : Nat) (degraded : Bool) : Word := readyBits (if x then 15 else before) degraded x

/-- A cell-view page: phase 0xF once `x` holds, ready while at least two lanes are in step (block chapters). -/
def cellReady (s : State) (x degraded : Bool) : Word :=
  if s.boot.admitted then readyBits (if x then 15 else 1) degraded (x && decide (2 ≤ laneCount s)) else 0

/-- A page that `CTRL.EN` = 0 gates: those enabled at bring-up and not fixed (R539); `ETH` follows R571 alone.
[DEDUCED, log 12] -/
def gated (p : Pg) : Bool := (pgRow p).ctrl == 1 && !(pgRow p).ctrlFixed && p != .eth

/-- Every node that the schedule names on a channel has finished its training at the reference hub, which does not train itself. -/
def wlTrained (s : State) (c : Chan) : Bool :=
  match wlBank s with
  | some b => b.two.all fun r => r.ch != c || r.node == s.clk.refHub.val || (eqEntry s s.clk.refHub c r.node).done
  | none => false

/-- `WLC.READY.PHASE` before the training ends: 1 while the receivers wait for bus activity, 2 during training.
[DEDUCED, log 20] -/
def wlcPhase (s : State) (c : Chan) : Nat := if bothOf.any fun h => s.wl.sigdet.getLsbD (wlBit h c) then 2 else 1

/-- `READY` of a page other than `MOD`, before power gating. [DEDUCED, log 20] -/
def readyRaw (s : State) (p : Pg) (i : Nat) : Word :=
  let fn := s.boot.functions
  let h : Hub := ⟨i % 2, Nat.mod_lt _ (by decide)⟩
  match p with
  | .mod => readyBits s.boot.phase false (s.boot.phase == 15)
  | .cus => readyWhen ((s.cus[h]).st == .acting) 0 ((s.cus[other h]).st == .selfFenced || (s.cus[other h]).st == .silent)
  | .pwr => readyWhen s.boot.selfTest 0 false
  | .crt =>
    let c := s.carts[(⟨i % 5, Nat.mod_lt _ (by decide)⟩ : Cart)]
    readyWhen (c.st == .instep) 0 (bit c.map 31 || bit c.map 23 || bit c.map 15 || (decide (i < 3) && bit c.map 7))
  | .tb => if s.boot.selfTest then readyWhen s.boot.locked 1 false else 0
  | .ptp => readyWhen s.boot.locked 0 false
  | .eth => readyBits (ethPhase s h) false (ethPhase s h == 15)
  | .wlc => if fn then readyWhen (wlTrained s (if i = 0 then 0 else 1)) (wlcPhase s (if i = 0 then 0 else 1)) (!bothHubs s) else 0
  | .wls => if fn then readyWhen (wlUp s) (if s.wl.phase == .start || s.wl.phase == .integrate then 2 else 1) (s.wl.consAct || !bothHubs s) else 0
  | .enc =>
    let e := s.enc[(⟨i % 16, Nat.mod_lt _ (by decide)⟩ : Sixteen)]
    let ssi := fld s .enc i Reg.ENC_CFG 1 0 == 2
    if !fn then readyBits (if s.boot.custodians then 1 else 0) false false
    else if ssi && !e.measured then readyBits 2 (hubSpare s 15 3 0 i) false
    else readyBits 15 (hubSpare s 15 3 0 i) true
  | .ffy => readyWhen fn 0 (hubSpare s 31 27 24 i)
  | .adc =>
    let u := s.adc.pair[(⟨i % 4, Nat.mod_lt _ (by decide)⟩ : AdcPair)]
    let c0 := u.conv[(0 : Fin 2)]
    let c1 := u.conv[(1 : Fin 2)]
    let deg := c0.calAct || c1.calAct || c0.out || c1.out || hubSpare s 23 18 16 (2 * i) || hubSpare s 23 18 16 (2 * i + 1) || !bothHubs s
    readyWhen fn (if s.boot.locked then 2 else if s.boot.custodians then 1 else 0) (fn && deg)
  | .prg => readyWhen fn (if s.boot.custodians then 1 else 0) false
  | .stp => readyWhen fn 0 false
  | .sio => if fn then readyWhen (safReady s) 2 s.saf.svcOn else readyBits (if s.boot.selfTest then 1 else 0) false false
  | .spr => readyWhen s.boot.selfTest 0 false
  | .plf => cellReady s (pattern s).isSome (laneSpare s 31 || laneSpare s 23)
  | .kin => cellReady s ((armModel s (⟨i % 12, Nat.mod_lt _ (by decide)⟩ : Arm)).isSome) false
  | .arm => cellReady s ((armModel s (⟨i % 12, Nat.mod_lt _ (by decide)⟩ : Arm)).isSome) false
  | .sdp => cellReady s (kernelBank s).isSome (laneSpare s 15)
  | .tds => cellReady s s.boot.admitted false
  | .mnt => cellReady s (mantisBank s).isSome (laneSpare s 7)
  | .saf => cellReady s s.saf.loaded false
  | .sec => cellReady s s.boot.custodians false
  | .lsp => cellReady s s.boot.admitted false

/-- `READY` of a page other than `MOD`: a gated page reads 0 while `CTRL.EN` is 0 (R539). [DEDUCED, log 12] -/
def readyOf (s : State) (p : Pg) (i : Nat) : Word := if gated p && !enabled s p i then 0 else readyRaw s p i

/-- Every page but `MOD` with its instances. -/
def otherPages : List (Pg × Nat) := (allPages.filter fun p => p != .mod).flatMap fun p => (List.range (pgRow p).count).map fun i => (p, i)

/-- A cartridge is absent or fenced (`MOD.READY.DEGRADED`). -/
def cartMissing (s : State) : Bool := allCarts.any fun c => (s.carts[c]).st != .instep

/-- `MOD.READY` (R532): degraded while a cartridge is absent or fenced or any page is degraded. -/
def modReady (s : State) : Word :=
  readyBits s.boot.phase (cartMissing s || otherPages.any fun x => bit (readyOf s x.1 x.2) 1) (s.boot.phase == 15)

/-- `READY` of a page at the present instant. [DESIGN CHOICE, log 10] -/
def readyWord (s : State) (p : Pg) (i : Nat) : Word := if p = .mod then modReady s else readyOf s p i

/-- A page other than `MOD` notes its `READY`, then `MOD` does: a change of `READY` or `DEGRADED` sets `READYCHG` (R62).
[DESIGN CHOICE, log 10; DESIGN CHOICE, log 11] -/
def noteReady (p : Pg) (i : Nat) (s : State) : State :=
  let v := readyOf s p i
  if reg s p i Reg.READY = v then s
  else
    let s := setReady p i v s
    let m := modReady s
    if reg s .mod 0 Reg.READY = m then s else setReady .mod 0 m s

/-- `MOTION.EN` as last noted stands in bit 0 of the register file's `SUMMARY`; a change sets `MOTIONCHG` (R538, R550).
[DESIGN CHOICE, log 10] -/
def noteMotion (s : State) : State :=
  if flag s .mod 0 Reg.MOD_SUMMARY 0 = motionEnabled s then s
  else irq .mod 0 9 (setFlag .mod 0 Reg.MOD_SUMMARY 0 (motionEnabled s) s)

/-- Every page notes its `READY`, and `MOD` notes `MOTION.EN`. [DESIGN CHOICE, log 10] -/
def refreshReady (s : State) : State :=
  let s := noteMotion (forEach otherPages (fun x s => noteReady x.1 x.2 s) s)
  let m := modReady s
  if reg s .mod 0 Reg.READY = m then s else setReady .mod 0 m s

/-- The meaning of a command that can change what pages report in `READY`. [DESIGN CHOICE, log 10] -/
def runReady (f : State → State) (s : State) : Host.Outcome State Fault Refusal := run (fun s => refreshReady (f s)) s

/-- The bring-up phase moves (R532): `PHASECHG` sets. -/
def setPhase (k : Nat) (s : State) : State :=
  if s.boot.phase = k then s else irq .mod 0 8 { s with boot := { s.boot with phase := k } }

/-- LINK_CHANGE (R571). -/
def execLinkChange (e : Hub) (up master : Bool) (s : State) : Host.Outcome State Fault Refusal :=
  run (fun s => noteReady .eth e (linkChange e up master s)) s
/-- RENEG (R571): auto-negotiation restarts, which takes the link down. [DEDUCED, log 32] -/
def execReneg (e : Hub) (s : State) : Host.Outcome State Fault Refusal :=
  run (fun s => noteReady .eth e (linkChange e false false s)) s
/-- NORMAL_OPERATION (R187, R538): with it `WLS` becomes ready and `MOTION.WEARLINE` reads 1. -/
def execNormalOperation (s : State) : Host.Outcome State Fault Refusal :=
  run (fun s => noteReady .wls 0 (noteMotion (normalOperation s))) s

end Sys2Proof.Machine
end

