-- ==== Sys2Proof/Machine/BringUp.lean ====
section
/-! DEFINITION. Bring-up, supplies, heat measurements and the links of the host ports (R530 to R550, R66, R423, R533). -/

namespace Sys2Proof.Machine

-- IRQ_STAT bits of the MOD and PWR pages
def modPhaseChg : Nat := 8
def modMotionChg : Nat := 9
def modAdmit : Nat := 10
def pwrDip : Nat := 8
def pwrLow1 : Nat := 9
def pwrHigh : Nat := 11
def pwrTherm : Nat := 12

/-- Change the supplies' state. -/
def modPwr (f : Power → Power) (s : State) : State := { s with pwr := f s.pwr }

/-- Change the bring-up's state. -/
def modBoot (f : Boot → Boot) (s : State) : State := { s with boot := f s.boot }

/-- Cell time of a bring-up instant given in milliseconds from power good (R532), LSB 2⁻³² ns. -/
def msTime (ms : Nat) : Nat := ms * 10 ^ 6 * 2 ^ 32

-- Bring-up (R530 to R534)

/-- A cartridge at power good: what stands in its bay, its lever, firmware and remaps stay (R458, R530). [DEDUCED, log 17] -/
def cartAtPower (k : Cartridge) : Cartridge :=
  { ({} : Cartridge) with
    st := if k.st = .empty ∨ k.gone = true then .empty else if k.lever then .off else .power
    lever := k.lever, serial := k.serial, map := k.map, faults := k.faults
    fwVersion := k.fwVersion, fwClass := k.fwClass, fwNext := k.fwNext }

/-- Why the module starts (R550): 2 after a shutdown, 1 after both inputs were lost without one, 0 at first use.
[DEDUCED, log 15; DEDUCED, log 69] -/
def startCause (s : State) : Nat := if s.boot.starts = 0 then 0 else if s.clk.on then 1 else 2

/-- POWER_GOOD (R530, R550): every volatile part as at reset, cell time 0; the non-volatile memory and the bays keep theirs.
[DEDUCED, log 15] -/
def powerGood (s : State) : State :=
  let carts := s.carts.map cartAtPower
  let live : Vector Bool 2 := ⟨#[(carts[3]).st != .empty && (carts[3]).st != .off, (carts[4]).st != .empty && (carts[4]).st != .off], rfl⟩
  { State.reset with
    clk := { ({} : Clock) with alive := live, refHub := if live[0] then 0 else 1, free := s.clk.free }
    carts := carts
    img := { ({} : Images) with stored := s.img.stored, storedBytes := s.img.storedBytes, laneClass := s.img.laneClass, hubClass := s.img.hubClass }
    boot := { ({} : Boot) with phase := 1, cause := startCause s, starts := s.boot.starts + 1 }
    sec := { ({} : Security) with store := s.sec.store, log := s.sec.log, seq := s.sec.seq, ack := s.sec.ack, keys := s.sec.keys, ca := s.sec.ca }
    pending := s.pending }

/-- CUSTODIAN_START_COMPLETE (R532): the custodians have read their non-volatile memory; hub self-test begins.
[DEDUCED, log 17] -/
def custodianStart (s : State) : State :=
  if s.boot.custodians then s
  else
    let s := forEach bothOf (fun h s =>
      if s.clk.alive[h] then
        setState (hubCart h) .selftest { s with cus := vmod s.cus h fun u => { u with st := .acting } }
      else s) (advanceTo (msTime 2) (modBoot (fun b => { b with custodians := true }) s))
    refreshReady (setPhase 2 s)

/-- A hub whose self-test has not failed goes on to the lock of its time base; a hub that failed drives nothing (R440, R446).
[DEDUCED, log 17] -/
def hubTested (h : Hub) (s : State) : State :=
  let c := hubCart h
  let k := s.carts[c]
  if k.st = .selftest ∨ k.st = .cocoon ∨ k.st = .power then setState c .lock s
  else { s with clk := { s.clk with alive := vset s.clk.alive h false }, cus := vmod s.cus h fun u => { u with st := .silent } }

/-- HUB_SELF_TEST_COMPLETE (R532): the phases follow one another. -/
def hubSelfTest (s : State) : State :=
  if s.boot.selfTest || !s.boot.custodians then s
  else
    let s := forEach bothOf hubTested (advanceTo (msTime 42) (modBoot (fun b => { b with selfTest := true }) s))
    let s := { s with clk := { s.clk with refHub := if s.clk.alive[(0 : Hub)] then 0 else 1 } }
    refreshReady (setPhase 3 s)

/-- PLL_LOCK (R72, R532). [DEDUCED, log 17] -/
def pllLock (s : State) : State :=
  if s.boot.locked || !s.boot.selfTest then s
  else
    let s := forEach bothOf (fun h s => if (s.carts[hubCart h]).st = .lock then setState (hubCart h) .load s else s)
      (advanceTo (msTime 47) (modBoot (fun b => { b with locked := true }) s))
    refreshReady (setPhase 4 s)

/-- Every converter has made its first calibration (R528). -/
def firstCalibration (s : State) : State :=
  { s with adc := { s.adc with pair := s.adc.pair.map fun u => { u with conv := u.conv.map fun c => { c with calOk := true } } } }

/-- HUB_FUNCTIONS_READY (R481, R528, R532): the hub functions are usable, Wearline listens, Ethernet negotiates.
[DEDUCED, log 17] -/
def hubFunctions (s : State) : State :=
  if s.boot.functions || !s.boot.locked then s
  else
    let s := forEach bothOf (fun h s =>
        if (s.carts[hubCart h]).st = .load then modCart (hubCart h) (fun k => { k with inserted := false }) (setState (hubCart h) .instep s) else s)
      (advanceTo (msTime 60) (modBoot (fun b => { b with functions := true }) s))
    let s := firstCalibration (startHubs s)
    refreshReady (setPhase 5 s)

/-- LANE_READY (R534): the stored image is verified, the banks are loaded; after the admission the lane re-admits itself.
[DEDUCED, log 18] -/
def laneReady (l : Lane) (s : State) : State :=
  let c := laneCart l
  if (s.carts[c]).st = .cocoon then
    if s.boot.admitted then (if otherReadmits s c then s else beginReadmit c s)
    else
      let first := allLanes.all fun k => !(s.carts[laneCart k]).ready
      let s := modCart c (fun k => { k with ready := true }) s
      if first then startLanes s else s
  else s

/-- Lanes ready for the admission, ascending. -/
def readyLanes (s : State) : List Lane := allLanes.filter fun l => (s.carts[laneCart l]).ready && (s.carts[laneCart l]).st == .cocoon

/-- The ordered flows that the firmware image assigns (R355): anchors 0 sync instant, 1 feedback instant, 2 tick, 3 plan-cycle start,
4 end of the static segment, 5 end of the dynamic segment. -/
def firmwareFlows : List FlowRow := [⟨0, 1, 12⟩, ⟨1, 1, 20⟩, ⟨2, 1, 20⟩, ⟨3, 2, 1⟩, ⟨4, 4, 2⟩, ⟨5, 5, 0⟩]

/-- The task templates of the lanes' firmware; those of the kernel bank start at 768 (R345). -/
def firmwareTemplates (s : State) : List Template :=
  let v := match laneOfRole s .lead with
    | some l => (s.carts[laneCart l]).fwVersion
    | none => 0
  (Config.fwTemplates v).filter fun t => decide (t.index < 768)

/-- ADMISSION (R29, R534): at a plan-cycle start after 1,600 ms with at least two lanes ready. -/
def admission (s : State) : State :=
  if s.boot.admitted = false ∧ planStarts s = true ∧ msTime 1600 < s.clk.now ∧ 2 ≤ (readyLanes s).length then
    let s := forEach (readyLanes s) (fun l s => setState (laneCart l) .instep (modCart (laneCart l) (fun k => { k with ready := false }) s)) s
    let s := bayRoles (modBoot (fun b => { b with admitted := true }) s)
    let s := { s with tds := { s.tds with
      templates := firmwareTemplates s ++ s.tds.templates.filter fun t => decide (768 ≤ t.index)
      flows := firmwareFlows ++ s.tds.flows.filter fun f => decide (16 ≤ f.flow) } }
    refreshReady (irq .mod 0 modAdmit (setPhase 15 s))
  else s

-- Supplies and heat (R541 to R549)

/-- SUPPLY_THRESHOLD (R544). [DEDUCED, log 15] -/
def supplyThreshold (i : Fin 2) (mv : Nat) (s : State) : State :=
  let wasLow := s.pwr.low[i]
  let wasHigh := s.pwr.high[i]
  let low := decide (mv < 5600) || (wasLow && decide (mv ≤ 5900))
  let high := decide (61000 < mv) || (wasHigh && decide (60500 ≤ mv))
  let both := low && s.pwr.low[other i]
  let s := modPwr (fun p => { p with
    low := vset p.low i low, high := vset p.high i high
    lowAt := if both then some (p.lowAt.getD (nsOf s)) else none }) s
  let s := if low && !wasLow then count .pwr 0 (1 + i.val) (irq .pwr 0 (pwrLow1 + i.val) s) else s
  if high && !wasHigh then count .pwr 0 4 (irq .pwr 0 pwrHigh s) else s

/-- DIP (R545). [DEDUCED, log 15] -/
def dip (s : State) : State := count .pwr 0 0 (irq .pwr 0 pwrDip s)

/-- The time for which both inputs have been low before the module shuts down: 1.0 ms (R546). -/
def holdUpNs : Nat := 1000000

/-- SHUTDOWN (R546), once both inputs have been low for 1.0 ms: every safety output goes off and the module stops until the next power
good. [DEDUCED, log 15] -/
def shutDown (s : State) : State :=
  if (s.pwr.lowAt.any fun t => decide (t + holdUpNs ≤ nsOf s)) = false then s
  else { outputsDead (modOut (fun o => { o with soLive := false }) (modBoot (fun b => { b with cause := 2 }) s)) with
    clk := { s.clk with on := false } }

/-- The signed temperature of a register, LSB 0.1 °C (R549). -/
def tempOf (w : Word) : Int := sext 16 (field w 15 0)

/-- The baseplate is above `TWARN` by what a hub measures (R548). [DEDUCED, log 16] -/
def hubWarm (s : State) (h : Hub) : Bool := decide (tempOf (reg s .pwr 0 Reg.PWR_TWARN) < tempOf (s.pwr.meas[h]).tbase)

/-- SUPPLY_MEASUREMENT (R541, R548): the reference hub's measurement raises `THERM`. [DEDUCED, log 16] -/
def supplyMeasurement (h : Hub) (m : Measured) (s : State) : State :=
  if s.clk.alive[h] then
    let s := modPwr (fun p => { p with meas := vset p.meas h m }) s
    if h = s.clk.refHub then
      let warm := hubWarm s h
      let rise := warm && !s.pwr.twarn
      let s := modPwr (fun p => { p with twarn := warm }) s
      if rise then count .pwr 0 3 (irq .pwr 0 pwrTherm s) else s
    else s
  else s

/-- `PWR.STAT` of a hub (R549). [DEDUCED, log 16] -/
def pwrStat (s : State) (h : Hub) : Word :=
  let m := s.pwr.meas[h]
  BitVec.ofNat 32 (b2n (hubWarm s h) * 64 + b2n (decide (500 < field m.iin 31 16)) * 32 + b2n (decide (500 < field m.iin 15 0)) * 16 +
    b2n s.pwr.high[1] * 8 + b2n s.pwr.high[0] * 4 + b2n s.pwr.low[1] * 2 + b2n s.pwr.low[0])

/-- The measurement registers of a hub (R549). -/
def pwrWord (s : State) (h : Hub) (off : Nat) : Word :=
  let m := s.pwr.meas[h]
  if off = Reg.PWR_VIN then m.vin
  else if off = Reg.PWR_IIN then m.iin
  else if off = Reg.PWR_PIN then m.pin &&& 0x3FFFF
  else if off = Reg.PWR_STAT then pwrStat s h
  else if off = Reg.PWR_TBASE then m.tbase &&& 0xFFFF
  else if off < 0xAC then m.cart.toList.getD ((off - 0x98) / 4) 0
  else (m.vcore.toList.getD ((off - 0xAC) / 4) 0) &&& 0xFFFF

-- Host ports (R66, R423, R533)

/-- HOST_PORT_LINK_CHANGE (R423): a port that loses its link ends its safety session. [DEDUCED, log 19] -/
def hostLink (p : Port) (up : Bool) (s : State) : State :=
  if s.clk.alive[p] then
    let s := { s with link := { s.link with portUp := vset s.link.portUp p up } }
    if up then s else closeSessionOf p.val s
  else s

/-- PERST (R533): the port's link and its configuration space with the MSI-X table start afresh. [DEDUCED, log 19] -/
def perst (p : Port) (s : State) : State :=
  if s.clk.alive[p] then
    let s := hostLink p false s
    { s with link := { s.link with msix := vset s.link.msix p [] } }
  else s

/-- MSI_X_TABLE_WRITE (R66): unmasking a vector sends its pending message. [PRESUMED, log 29] -/
def msixWrite (p : Port) (v : Nat) (addr : BitVec 64) (data : Word) (masked : Bool) (s : State) : State :=
  if s.clk.alive[p] then
    let e := Sparse.get {} v s.link.msix[p]
    let put := fun (x : MsixEntry) (s : State) =>
      { s with link := { s.link with msix := vset s.link.msix p (Sparse.put {} v x (s.link.msix[p])) } }
    if e.pend && !masked then
      let s := put ⟨addr, data, false, false⟩ s
      { s with link := { s.link with sent := ⟨p, v, addr, data⟩ :: s.link.sent } }
    else put ⟨addr, data, masked, e.pend⟩ s
  else s

/-- POWER_GOOD: it acts whether the module ran or was shut down. -/
def execPowerGood (s : State) : Host.Outcome State Fault Refusal := .next (powerGood s)
/-- CUSTODIAN_START_COMPLETE. -/
def execCustodianStartComplete (s : State) : Host.Outcome State Fault Refusal := run custodianStart s
/-- HUB_SELF_TEST_COMPLETE. -/
def execHubSelfTestComplete (s : State) : Host.Outcome State Fault Refusal := run hubSelfTest s
/-- PLL_LOCK. -/
def execPllLock (s : State) : Host.Outcome State Fault Refusal := run pllLock s
/-- HUB_FUNCTIONS_READY. -/
def execHubFunctionsReady (s : State) : Host.Outcome State Fault Refusal := run hubFunctions s
/-- LANE_READY. -/
def execLaneReady (l : Lane) (s : State) : Host.Outcome State Fault Refusal := run (laneReady l) s
/-- ADMISSION. -/
def execAdmission (s : State) : Host.Outcome State Fault Refusal := run admission s
/-- SUPPLY_THRESHOLD. -/
def execSupplyThreshold (i : Fin 2) (mv : Nat) (s : State) : Host.Outcome State Fault Refusal := run (supplyThreshold i mv) s
/-- DIP. -/
def execDip (s : State) : Host.Outcome State Fault Refusal := run dip s
/-- SHUTDOWN. -/
def execShutdown (s : State) : Host.Outcome State Fault Refusal := run shutDown s
/-- SUPPLY_MEASUREMENT. -/
def execSupplyMeasurement (h : Hub) (vin iin pin tbase : Word) (cart : Vector Word 5) (vcore : Vector Word 3) (s : State) :
    Host.Outcome State Fault Refusal :=
  run (supplyMeasurement h ⟨vin, iin, pin, tbase, cart, vcore⟩) s
/-- PERST. -/
def execPerst (p : Port) (s : State) : Host.Outcome State Fault Refusal := run (perst p) s
/-- HOST_PORT_LINK_CHANGE. -/
def execHostPortLinkChange (p : Port) (up : Bool) (s : State) : Host.Outcome State Fault Refusal := run (hostLink p up) s
/-- MSI_X_TABLE_WRITE. -/
def execMsixTableWrite (p : Port) (vector : Fin 64) (addr : BitVec 64) (data : Word) (masked : Bool) (s : State) :
    Host.Outcome State Fault Refusal :=
  run (msixWrite p vector.val addr data masked) s

end Sys2Proof.Machine
end

