-- ==== Sys2Proof/Machine/Encoder.lean ====
section
/-! DEFINITION. The encoder channels: quadrature, Hall and SSI counting, errors, index, edge intervals, emulation, host
positions, and what happens to them at a sync instant (R465 to R481, R490). -/

namespace Sys2Proof.Machine

-- IRQ_STAT bits of the ENC page
def encIndex : Nat := 8
def encQerr : Nat := 9
def encFault : Nat := 10
def encSsiErr : Nat := 11
def encDrift : Nat := 12
def encEmuOvf : Nat := 13
def encHdis : Nat := 14

/-- Change one channel. -/
def modEnc (n : Sixteen) (f : Encoder → Encoder) (s : State) : State := { s with enc := vmod s.enc n f }

/-- `CFG.TYPE`: 0 quadrature, 1 Hall, 2 SSI (R465). -/
def encType (s : State) (n : Sixteen) : Nat := fld s .enc n Reg.ENC_CFG 1 0

/-- The channel counts its pins: enabled and not host-assisted (R480, R539). -/
def encOnPins (s : State) (n : Sixteen) : Bool := enabled s .enc n && !assisted s .enc n

/-- A declared fault (R469, R99). -/
def declareFault (n : Sixteen) (s : State) : State :=
  let s := modEnc n (fun e => { e with fault := true, latchFresh := true }) s
  let s := count .enc n 2 (irq .enc n encFault s)
  ffyRefresh (if lineSrc s = n then lineSourceFault s else s)

/-- The window of 1 ms that holds the present cell time, and what a channel holds in it: the errors of this window and of the last complete
one (R469). -/
def windowNow (s : State) : Nat := nsOf s / 1000000
def rolled (s : State) (e : Encoder) : Encoder :=
  let m := windowNow s
  if m = e.errMs then e
  else { e with errMs := m, errWin := 0, errLast := if m = e.errMs + 1 then e.errWin else 0 }

/-- One error in the window of 1 ms; beyond `ERR_LIM` the channel is declared faulted (R469). -/
def encError (n : Sixteen) (s : State) : State :=
  let s := modEnc n (fun e =>
    let e := rolled s e
    { e with errWin := e.errWin + 1, errMax := max e.errMax (e.errWin + 1) }) s
  if fld s .enc n Reg.ENC_CFG 23 16 < (s.enc[n]).errWin ∧ (s.enc[n]).fault = false then declareFault n s else s

/-- An illegal transition (R468, R470). -/
def encIllegal (n : Sixteen) (s : State) : State := encError n (count .enc n 1 (irq .enc n encQerr s))

/-- One emulated count leaves at the pins: 00, 01, 11, 10 forward (R479). -/
def emitEmulated (e : Encoder) (fwd : Bool) (t : Nat) : Encoder :=
  if fwd then { e with emuA := e.emuB, emuB := !e.emuA, emuAt := some t } else { e with emuA := !e.emuB, emuB := e.emuA, emuAt := some t }

/-- The emulated outputs may change: 40 ns have passed since their last edge (R479). -/
def emuFree (s : State) (e : Encoder) : Bool :=
  match e.emuAt with
  | none => true
  | some t => decide (t + 40 ≤ nsOf s)

/-- Emulated counts enter the backlog, at most 65,535; those beyond are dropped (R479). -/
def queueEmulated (n : Sixteen) (k : Nat) (fwd : Bool) (s : State) : State :=
  let e := s.enc[n]
  let free := decide (e.emuQueue = []) && emuFree s e
  let now := if free && decide (0 < k) then 1 else 0
  let room := 65535 - e.emuQueue.length
  let kept := min (k - now) room
  let lost := k - now - kept
  let s := modEnc n (fun e =>
    let e := if now = 1 then emitEmulated e fwd (nsOf s) else e
    { e with emuQueue := e.emuQueue ++ List.replicate kept fwd }) s
  if lost = 0 then s else countBy .enc n 6 lost (irq .enc n encEmuOvf s)

/-- The emulation takes a change of the count by `d` (R479). -/
def emulate (n : Sixteen) (d : Int) (s : State) : State :=
  if flag s .enc n Reg.ENC_EMU_N 31 then
    let m : Int := fld s .enc n Reg.ENC_EMU_M 23 0
    let acc := (s.enc[n]).emuAcc + (fld s .enc n Reg.ENC_EMU_N 23 0 : Int) * d
    let s := modEnc n (fun e => { e with emuAcc := acc % m }) s
    queueEmulated n (acc / m).natAbs (decide (0 < d)) s
  else s

/-- The edge timer takes a count edge; `div` divides the interval (R476). -/
def edgeTimed (e : Encoder) (rev : Bool) (t : Nat) (div : Nat) : Encoder :=
  let i : Word := match e.edgeAt with
    | none => e.interval
    | some u => if 0xFFFFFFFF ≤ t - u then 0xFFFFFFFF else BitVec.ofNat 32 ((t - u) / div)
  { e with interval := i, lastEdge := BitVec.ofNat 32 t, sameDir := e.edgeAt.isSome && e.dir == rev, dir := rev, edgeAt := some t }

/-- The count moves by `d` ≠ 0 in one edge: timer, line phase, emulation and firefly lists follow (R467, R476, R479, R483).
[DEDUCED, log 46] -/
def countMove (n : Sixteen) (d : Int) (div : Nat) (s : State) : State :=
  let a := (s.enc[n]).count
  let b := a + BitVec.ofInt 64 d
  let s := modEnc n (fun e => edgeTimed { e with count := b } (decide (d < 0)) (nsOf s) div) s
  let onLine := decide (lineSrc s = n) && lineEn s
  let s := if onLine then modLine (fun l => { l with hold := none }) s else s
  let s := ffyCountStep n a.toInt b.toInt (emulate n d s)
  if onLine then ffyPhaseSteps s else s

/-- INTERVAL_SATURATION (R476): 4,294,967,295 ns have passed since the last count edge. -/
def saturate (n : Sixteen) (s : State) : State :=
  modEnc n (fun e => match e.edgeAt with
    | some t => if t + 0xFFFFFFFF ≤ nsOf s then { e with interval := 0xFFFFFFFF } else e
    | none => e) s

/-- `INTERVAL` as it stands at the present instant (R476). -/
def intervalNow (s : State) (n : Sixteen) : Word :=
  match (s.enc[n]).edgeAt with
  | some t => if t + 0xFFFFFFFF ≤ nsOf s then 0xFFFFFFFF else (s.enc[n]).interval
  | none => (s.enc[n]).interval

/-- The direction that `CFG.INV` leaves of a change of ±1 (R467). -/
def signedStep (s : State) (n : Sixteen) (fwd : Bool) : Int :=
  if fwd != flag s .enc n Reg.ENC_CFG 3 then 1 else -1

/-- ENCODER_EDGE (R467, R468): the filtered levels after the edge. -/
def encoderEdge (n : Sixteen) (a b : Bool) (s : State) : State :=
  let e := s.enc[n]
  let t := modEnc n (fun e => { e with a := a, b := b }) s
  if !encOnPins s n || encType s n != 0 || (e.a == a && e.b == b) then t
  else if e.a != a && e.b != b then encIllegal n t
  else countMove n (signedStep s n (a == e.b && b != e.a)) 1 t

/-- The place of a Hall state in the forward order 100, 110, 010, 011, 001, 101; none for 000 and 111 (R470). -/
def hallIndex (u : BitVec 3) : Option Nat :=
  match u.toNat with
  | 4 => some 0
  | 6 => some 1
  | 2 => some 2
  | 3 => some 3
  | 1 => some 4
  | 5 => some 5
  | _ => none

/-- HALL_STATE_CHANGE (R470). [DEDUCED, log 43] -/
def hallChange (n : Sixteen) (u : BitVec 3) (s : State) : State :=
  let e := s.enc[n]
  let s := modEnc n (fun e => { e with uvw := u }) s
  if !encOnPins s n || encType s n != 1 then (if (hallIndex u).isSome then modEnc n (fun e => { e with hall := u }) s else s)
  else match hallIndex u, hallIndex e.hall with
    | none, _ => encIllegal n s
    | some _, none => modEnc n (fun e => { e with hall := u }) s
    | some i, some j =>
      let s := modEnc n (fun e => { e with hall := u }) s
      if i = j then s
      else if i = (j + 1) % 6 then countMove n (signedStep s n true) 1 s
      else if j = (i + 1) % 6 then countMove n (signedStep s n false) 1 s
      else encIllegal n s

/-- Gray code to binary, bit by bit from the top (R471). -/
def grayDecode : Nat → Nat → Nat
  | 0, v => v
  | k + 1, v => Nat.xor v (grayDecode k (v / 2))

/-- An SSI frame error (R473). -/
def ssiFrameError (n : Sixteen) (s : State) : State := encError n (count .enc n 3 (irq .enc n encSsiErr s))

/-- A good reading `r` of `bits` bits moves the count (R471, R473, R480). [DEDUCED, log 42] -/
def ssiReading (n : Sixteen) (bits r : Nat) (s : State) : State :=
  let e := s.enc[n]
  match e.rPrev with
  | none =>
    let s := modEnc n (fun e => { e with rPrev := some r, rebase := false, count := if e.rebase then e.count else BitVec.ofNat 64 r }) s
    if e.rebase then s else ffyCountLoad n s
  | some q =>
    let d := sext bits (r + 2 ^ bits - q % 2 ^ bits)
    if e.rebase then modEnc n (fun e => { e with rPrev := some r, rebase := false }) s
    else if 2 ^ (bits - 2) < d.natAbs then ssiFrameError n s
    else
      let s := modEnc n (fun e => { e with rPrev := some r }) s
      let d := if flag s .enc n Reg.ENC_CFG 3 then -d else d
      if d = 0 then s else countMove n d d.natAbs s

/-- SSI_READING (R471): a reading starts. -/
def ssiStart (n : Sixteen) (s : State) : State :=
  if encOnPins s n && encType s n == 2 && (s.enc[n]).measured then modEnc n (fun e => { e with reading := true }) s else s

/-- SSI_READING_COMPLETE (R471 to R473). -/
def ssiComplete (n : Sixteen) (raw : Word) (firstHigh returned : Bool) (s : State) : State :=
  if !(s.enc[n]).reading then s
  else
    let bits := fld s .enc n Reg.ENC_SSI_CFG 5 0
    let v := raw.toNat % 2 ^ bits
    let r := if flag s .enc n Reg.ENC_SSI_CFG 6 then grayDecode bits v else v
    let s := modEnc n (fun e => { e with reading := false, raw := BitVec.ofNat 32 r }) s
    if (s.enc[n]).measuring || !encOnPins s n then s
    else if firstHigh || !returned then ssiFrameError n s
    else ssiReading n bits r s

/-- The delay measurement starts (R472). -/
def startMeasure (n : Sixteen) (s : State) : State :=
  if enabled s .enc n && encType s n == 2 then modEnc n (fun e => { e with measuring := true, measured := false }) s else s

/-- SSI_DELAY_MEASUREMENT (R472): the sixteen delays have been taken. -/
def ssiMeasured (n : Sixteen) (ds : List (Option Nat)) (s : State) : State :=
  if !(s.enc[n]).measuring then s
  else
    let sum := ds.foldl (fun t d => t + d.getD 0) 0
    let bad := ds.any (·.isNone) || decide (5000 * ds.length < sum) || ds.isEmpty
    if bad then irq .enc n encSsiErr (modEnc n (fun e => { e with measuring := false, measured := false }) s)
    else modEnc n (fun e => { e with measuring := false, measured := true, delay := sum / ds.length }) s

/-- INDEX_LATCH (R474, R475): a filtered rising edge of `Z`. -/
def indexLatch (n : Sixteen) (s : State) : State :=
  if encOnPins s n && encType s n == 0 && flag s .enc n Reg.ENC_CFG 4 then
    let e := s.enc[n]
    let d := e.count - e.latch
    let cpr := fld s .enc n Reg.ENC_CPR 30 0
    let off : Int := ((lo32 d).toInt.natAbs : Int) - cpr
    let drift := !e.latchFresh && cpr != 0 && decide (fld s .enc n Reg.ENC_CFG2 15 0 < off.natAbs)
    let s := modEnc n (fun e => { e with
      latch := e.count, latchT := stamp s, latchSeq := e.latchSeq + 1, idxDelta := lo32 d, latchFresh := false, drift := drift }) s
    let s := count .enc n 0 (irq .enc n encIndex s)
    if drift then count .enc n 4 (irq .enc n encDrift s) else s
  else s

/-- The index values that a port sees: frozen, or live (R474). -/
def indexView (s : State) (q : Port) (n : Sixteen) : IndexView :=
  let e := s.enc[n]
  ((e.frozen)[q]).getD ⟨e.latchT, e.latchSeq, e.idxDelta⟩

/-- A read of `LATCH` freezes the index values for the port (R474). -/
def readLatch (q : Port) (n : Sixteen) (s : State) : Word × State :=
  let e := s.enc[n]
  (lo32 e.latch, modEnc n (fun e => { e with frozen := vset e.frozen q (some ⟨e.latchT, e.latchSeq, e.idxDelta⟩) }) s)

/-- A read of `LATCH_T` ends the freeze (R474). -/
def readLatchT (q : Port) (n : Sixteen) (s : State) : Word × State :=
  ((indexView s q n).time, modEnc n (fun e => { e with frozen := vset e.frozen q none }) s)

/-- `CMD.CLRFAULT` (R469). -/
def writeClrfault (n : Sixteen) (s : State) : State :=
  if (rolled s s.enc[n]).errLast ≠ 0 then recordErr .enc n 0x0101 s
  else ffyRefresh (modEnc n (fun e => { e with fault := false }) s)

/-- ERROR_WINDOW (R469): a window of 1 ms ends, where cell time has passed its end. [DEDUCED, log 43] -/
def errorWindow (n : Sixteen) (s : State) : State := modEnc n (rolled s) s

/-- EMULATED_COUNT (R479): the oldest waiting count leaves, where the spacing is kept. -/
def emulatedCount (n : Sixteen) (s : State) : State :=
  modEnc n (fun e => match e.emuQueue with
    | [] => e
    | f :: r => if emuFree s e then emitEmulated { e with emuQueue := r } f (nsOf s) else e) s

/-- ENC_HA_CUT_OFF (R480). -/
def encCutOff (n : Sixteen) (s : State) : State :=
  let new := (s.enc[n]).haNew
  let on := assisted s .enc n
  let s := modEnc n (fun e => { e with haNew := false, haTaken := if on && new then some (reg s .enc n Reg.ENC_HA_POS) else e.haTaken }) s
  if on && !new then haLate .enc n 7 s else s

/-- A load of the count to `v` is no motion: line phase holds, lists are tested afresh (R478, R481, R95, R485). -/
def countLoad (n : Sixteen) (v : BitVec 64) (s : State) : State :=
  let p := linePhase s
  let src := decide (lineSrc s = n)
  let s := modEnc n (fun e => { e with count := v, latchFresh := true }) s
  let s := if src then lineEvent p s else s
  let s := ffyCountLoad n s
  if src then ffyLineEvent s else s

/-- The host position taken at the cut-off sets the count (R480). -/
def hostCount (n : Sixteen) (s : State) : State :=
  match (s.enc[n]).haTaken with
  | none => s
  | some v =>
    let s := modEnc n (fun e => { e with haTaken := none }) s
    let d := (v - lo32 (s.enc[n]).count).toInt
    if assisted s .enc n ∧ d ≠ 0 then countMove n d 1 s else s

/-- A channel at a sync instant (R477, R478, R480); `dis` tells that the hubs' samples differed. [DEDUCED, log 44] -/
def encSync (n : Sixteen) (dis : Bool) (s : State) : State :=
  let s := hostCount n s
  let s := if (s.enc[n]).loadPend
    then countLoad n ((reg s .enc n Reg.ENC_PRESET).signExtend 64) (modEnc n (fun e => { e with loadPend := false }) s) else s
  let s := setReg .enc n Reg.ENC_SYNC_COUNT (lo32 (s.enc[n]).count) s
  if dis && bothHubs s then
    let r := (s.enc[n]).disRun + 1
    let new := decide (16 ≤ r) && !(s.enc[n]).hdis
    irqIf new .enc n encHdis (modEnc n (fun e => { e with disRun := r, hdis := e.hdis || decide (16 ≤ r) }) (count .enc n 5 s))
  else modEnc n (fun e => { e with disRun := 0, hdis := false }) s

/-- Every channel at a sync instant, where an SSI reading starts (R471, R477). -/
def encSyncAll (dis : BitVec 16) (s : State) : State :=
  forEach allSixteen (fun n s => ssiStart n (encSync n (bit dis n) s)) s

/-- A block reset of a channel: counts, latches and accumulators start at 0, the pins stay as they are (R481, R566).
[DEDUCED, log 44] -/
def resetEnc (n : Sixteen) (s : State) : State :=
  let e := s.enc[n]
  let s := countLoad n 0 s
  ffyRefresh (modEnc n (fun _ => { a := e.a, b := e.b, uvw := e.uvw, hall := e.hall }) s)

/-- `STAT` of a channel (R490). [DEDUCED, log 44] -/
def encStat (s : State) (n : Sixteen) : Word :=
  let e := s.enc[n]
  let valid := flag s .enc n Reg.READY 0 && !e.fault && !assisted s .enc n
  BitVec.ofNat 32 (b2n e.measured * 64 + b2n e.hdis * 32 + b2n e.drift * 16 + b2n e.sameDir * 8 + b2n e.dir * 4 + b2n e.fault * 2 + b2n valid)

/-- Whether a write of `v` to register `off` of an ENC page lies in its range (R465, R471, R479, R490). -/
def encInRange (s : State) (n : Sixteen) (off : Nat) (v : Word) : Bool :=
  if off = Reg.ENC_CFG then
    decide (1 ≤ field v 23 16) && decide (2 ≤ field v 15 8) && decide (field v 1 0 ≤ 2) &&
      (!enabled s .enc n || field v 1 0 == encType s n)
  else if off = Reg.ENC_SSI_CFG then
    let bits := field v 5 0
    decide (8 ≤ bits) && decide (bits ≤ 32) && decide (10 ≤ field v 15 8) && decide (1 ≤ field v 23 16) &&
      (field v 31 24 == 0 || decide ((bits + 1) * field v 15 8 * 10 + field v 23 16 * 1000 ≤ field v 31 24 * 1000))
  else if off = Reg.ENC_EMU_N then decide (1 ≤ field v 23 0) && decide (field v 23 0 ≤ fld s .enc n Reg.ENC_EMU_M 23 0)
  else if off = Reg.ENC_EMU_M then decide (1 ≤ field v 23 0) && decide (fld s .enc n Reg.ENC_EMU_N 23 0 ≤ field v 23 0)
  else true

/-- What a write of a configuration register does besides storing `v` (R479, R480). -/
def encWritten (n : Sixteen) (off : Nat) (old v : Word) (s : State) : State :=
  if off = Reg.ENC_EMU_N ∧ bit v 31 = true ∧ bit old 31 = false then
    modEnc n (fun e => { e with emuAcc := 0, emuQueue := [], emuA := false, emuB := false }) s
  else if off = Reg.ENC_HA_POS then modEnc n (fun e => { e with haNew := true }) s
  else s

/-- `CMD` of a channel (R469, R472, R478). -/
def writeEncCmd (n : Sixteen) (v : Word) (s : State) : State :=
  let s := if bit v 1 then writeClrfault n s else s
  let s := if bit v 2 then startMeasure n s else s
  if bit v 0 then modEnc n (fun e => { e with loadPend := true }) s else s

/-- ENCODER_EDGE. -/
def execEncoderEdge (dt : Nat) (n : Sixteen) (a b : Bool) (s : State) : Host.Outcome State Fault Refusal :=
  run (fun s => encoderEdge n a b (advance dt s)) s
/-- ERROR_WINDOW. -/
def execErrorWindow (n : Sixteen) (s : State) : Host.Outcome State Fault Refusal := run (errorWindow n) s
/-- HALL_STATE_CHANGE. -/
def execHallStateChange (dt : Nat) (n : Sixteen) (uvw : BitVec 3) (s : State) : Host.Outcome State Fault Refusal :=
  run (fun s => hallChange n uvw (advance dt s)) s
/-- SSI_READING. -/
def execSsiReading (n : Sixteen) (s : State) : Host.Outcome State Fault Refusal := run (ssiStart n) s
/-- SSI_READING_COMPLETE. -/
def execSsiReadingComplete (dt : Nat) (n : Sixteen) (raw : Word) (firstHigh returned : Bool) (s : State) :
    Host.Outcome State Fault Refusal :=
  run (fun s => ssiComplete n raw firstHigh returned (advance dt s)) s
/-- INDEX_LATCH. -/
def execIndexLatch (dt : Nat) (n : Sixteen) (s : State) : Host.Outcome State Fault Refusal :=
  run (fun s => indexLatch n (advance dt s)) s
/-- LATCH_READ. -/
def execLatchRead (p : Port) (n : Sixteen) (s : State) : Host.Outcome State Fault Refusal :=
  run (atPort p fun s => let r := readLatch p n s; returnRead p r.1 r.2) s
/-- LATCH_T_READ. -/
def execLatchTRead (p : Port) (n : Sixteen) (s : State) : Host.Outcome State Fault Refusal :=
  run (atPort p fun s => let r := readLatchT p n s; returnRead p r.1 r.2) s
/-- INTERVAL_SATURATION. -/
def execIntervalSaturation (n : Sixteen) (s : State) : Host.Outcome State Fault Refusal := run (saturate n) s
/-- ENC_LOAD. -/
def execEncLoad (n : Sixteen) (s : State) : Host.Outcome State Fault Refusal := run (writeEncCmd n 1) s
/-- CLRFAULT. -/
def execClrfault (n : Sixteen) (s : State) : Host.Outcome State Fault Refusal := run (writeEncCmd n 2) s
/-- EMULATED_COUNT. -/
def execEmulatedCount (n : Sixteen) (s : State) : Host.Outcome State Fault Refusal := run (emulatedCount n) s
/-- ENC_HA_CUT_OFF. -/
def execEncHaCutOff (n : Sixteen) (s : State) : Host.Outcome State Fault Refusal := run (encCutOff n) s

end Sys2Proof.Machine
end

