-- ==== Sys2Proof/Machine/Release.lean ====
section
/-! DEFINITION. The release instants of the ordered flows: voids, digests, the output vote, setpoint and auxiliary output frames,
timed output actions (R28, R35, R38, R42, R146, R150, R215, R351 to R355, R432, R498, R506). -/

namespace Sys2Proof.Machine

/-- A result due at a release instant: release key, the task that owes it, its value or a void (R351, R353). -/
structure Due where
  key : Nat
  task : TaskKey
  val : Option (BitVec 64)
  deriving DecidableEq, Repr

/-- Insertion by ascending release key (R351). -/
def insertDue (x : Due) : List Due → List Due
  | [] => [x]
  | y :: r => if x.key < y.key then x :: y :: r else y :: insertDue x r

/-- Ascending release keys. -/
def sortDue (l : List Due) : List Due := l.foldr insertDue []

/-- The row of a flow. -/
def flowRow (s : State) (f : Nat) : Option FlowRow := s.tds.flows.find? fun r => r.flow == f

/-- The rank of a task's result in flow `f`; none where the template does not route it there. -/
def routed (s : State) (f : Nat) (k : TaskKey) : Option Nat :=
  (templateOf s k.tmpl).bind fun t => if t.flow = some f then some t.rank else none

/-- The tasks of the running bus cycle that have not finished, and those that expiry removed (R348, R352). -/
def unfinished (s : State) : List TaskKey :=
  (((s.tds.matching ++ s.tds.comb).map (·.key)) ++ ((s.tds.ready ++ s.tds.combReady).map (·.key)) ++ s.tds.running.map (·.2.2)).filter
    (fun k => k.tag == s.clk.tag) ++ s.tds.expired

/-- What flow `f` owes at its release instant: the results held, and voids for what is missing and was not released before (R352, R353).
[DEDUCED, log 57; DEDUCED, log 58] -/
def dueResults (s : State) (f : Nat) : List Due :=
  let cut := match flowRow s f with
    | some r => r.anchor == 3
    | none => false
  let done := (s.tds.held.filter fun x => x.flow == f && (x.key.tag == s.clk.tag || cut)).map fun x => (⟨releaseKey x.rank x.key.inst, x.key, some x.data⟩ : Due)
  let missing := ((unfinished s).filter fun k => !wasReleased s f k).filterMap fun k => (routed s f k).map fun r => (⟨releaseKey r k.inst, k, none⟩ : Due)
  sortDue (done ++ missing)

/-- The release instant of a flow, LSB 2⁻³² ns (R352, R355). -/
def releaseInstant (s : State) (r : FlowRow) : Nat :=
  let us := 1000 * r.ofs
  match wlBank s with
  | none => s.clk.now
  | some b =>
    if r.anchor = 2 then (nsOf s / 1000 * 1000 + us) * 2 ^ 32
    else if r.anchor = 1 then intoCycle s (1000 * feedbackUs s b + us)
    else if r.anchor = 4 then intoCycle s (dynStart b + us)
    else if r.anchor = 5 then intoCycle s (symStart b + us)
    else if r.anchor = 3 then syncAt s (BitVec.ofNat 48 (s.clk.tag.toNat / max 1 (planBus s) * max 1 (planBus s))) + us * 2 ^ 32
    else intoCycle s us

-- The output vote (R432)

/-- What one lane releases under a key: a void, the shared value, or a wrong one. [DESIGN CHOICE, log 55] -/
inductive LaneValue where
  | void | shared | wrong (v : BitVec 64)
  deriving DecidableEq, Repr

/-- The value of a lane under a key, where the lanes share a value. [DESIGN CHOICE, log 55] -/
def laneValue (d : LaneDev) (key : Nat) : LaneValue :=
  if d.voids.contains key then .void
  else match d.wrong.find? fun x => x.1 == key with
    | some x => .wrong x.2
    | none => .shared

/-- Whether a lane's copy under a key is confirmed by another lane in step. [DEDUCED, log 52] -/
def confirmed (s : State) (dev : Vector LaneDev 3) (l : Lane) (key : Nat) : Bool :=
  laneValue dev[l] key != .void && (lanesIn s).any fun m => m != l && laneValue dev[m] key == laneValue dev[l] key

/-- The copy of a sender path under a key: none where it counts as a void. [DEDUCED, log 52] -/
def pathCopy (s : State) (dev : Vector LaneDev 3) (r : Role) (key : Nat) : Option LaneValue :=
  (laneOfRole s r).bind fun l => if confirmed s dev l key then some (laneValue dev[l] key) else none

/-- A payload as a lane released it: a wrong value stands in its first eight bytes. [DESIGN CHOICE, log 55] -/
def copyBytes (v : LaneValue) (p : List Byte) : List Byte :=
  match v with
  | .wrong w => leBytes 8 w.toNat ++ p.drop 8
  | _ => p

/-- The value that stands for a frame in the digest: the digest of its payload. [DESIGN CHOICE, log 56] -/
def frameValue (p : List Byte) : BitVec 64 :=
  (List.range ((p.length + 7) / 8)).foldl (fun d k => Config.digestStep d 0 k (some (BitVec.ofNat 64 (leAt p (8 * k) 8)))) 0

/-- The digest of every lane in step over one released result (R38, R354). [DESIGN CHOICE, log 56; DEDUCED, log 57] -/
def digestResult (f : Nat) (dev : Vector LaneDev 3) (key : Nat) (v : Option (BitVec 64)) (s : State) : State :=
  forEach (lanesIn s) (fun l s =>
    foldDigest l f key (match v, laneValue dev[l] key with
      | none, _ => none
      | some _, .void => none
      | some _, .wrong w => some w
      | some v, .shared => some v) s) s

/-- A void of every lane (R353): `LASTVOID`, `VOID`, `CNT8`. [DEDUCED, log 57] -/
def noteVoid (f : Nat) (k : TaskKey) (s : State) : State :=
  countPriv .tds 8 1 (irq .tds 0 tdsVoid (modTds (fun d => { d with
    lastVoid := BitVec.ofNat 32 (k.tmpl * 2 ^ 16 + f * 2 ^ 8 + k.tag.toNat % 256) }) s))

/-- The static slot of a path's frame in the schedule in force. -/
def slotOfFrame (s : State) (second : Bool) (kind stream : Nat) : Option Nat :=
  (wlBank s).bind fun b => ((staticRows s b 0 ++ staticRows s b 1).find? fun r =>
    r.kind == kind && r.stream == stream && r.node == b2n second).map fun r => slotStart b r.fid

/-- A path hands a frame to its hub (R27); one handed over less than 1 µs before its slot is late and is not sent (R42). -/
def handOver (second : Bool) (kind stream : Nat) (p : List Byte) (s : State) : State :=
  match slotOfFrame s second kind stream with
  | some t =>
    if intoCycle s t < s.clk.now + 1000 * 2 ^ 32 then count .wls 0 0 (irq .wls 0 wlsLate s)
    else modWl (fun w => { w with handed := w.handed ++ [⟨second, kind, stream, nsOf s, p⟩] }) s
  | none => s

/-- Both paths hand over the confirmed copies of a frame (R32, R432). -/
def releaseFrame (f : Nat) (dev : Vector LaneDev 3) (key kind stream : Nat) (p : List Byte) (s : State) : State :=
  let lead := pathCopy s dev .lead key
  let second := pathCopy s dev .second key
  let s := digestResult f dev key (some (frameValue p)) s
  let s := match lead with
    | some v => handOver false kind stream (copyBytes v p) s
    | none => s
  match second with
  | some v => handOver true kind stream (copyBytes v p) s
  | none => s

-- Frames

/-- The setpoint payload of an arm (R146). -/
def setpointPayload (s : State) (a : Arm) : List Byte :=
  let nj := armJoints s a
  let fl := b2n ((s.saf.arm[a]).st == 1) + b2n (s.play[a]).stopping * 2 + b2n (s.play[a]).held * 4 + b2n (decide (s.mnt.kOut[a] < 65536)) * 8
  let rec0 := fun (j : Nat) =>
    let x := s.sdp.joint[armJoint a j]
    if j < nj then
      let valid := jointBound s (armJoint a j).val
      leBytes 4 (BitVec.ofInt 32 x.posNow).toNat ++ leBytes 4 x.sentVel.toNat ++ leBytes 4 x.sentTrq.toNat ++
        leBytes 4 (b2n valid + b2n (armEnable s a) * 2 + b2n valid * 4)
    else List.replicate 16 0
  leBytes 1 a.val ++ leBytes 1 nj ++ leBytes 2 fl ++ leBytes 4 (s.clk.tag.toNat + 1) ++ (List.range 8).flatMap rec0

/-- A record of an auxiliary output frame: type 2 of a generator (R498), whose enable bit is always 1, type 1 of a stepper (R506).
[DESIGN CHOICE, log 49] -/
def auxRecord (s : State) (x : Nat × Nat) : List Byte :=
  if x.1 = 2 then
    let g := s.prg[(⟨x.2 % 32, Nat.mod_lt _ (by decide)⟩ : Prg)]
    leBytes 1 (x.2 % 32 + 64) ++ [1, 0, 0] ++ leBytes 4 g.sent.toNat ++ leBytes 4 (fOfD g.syncV).toNat ++ leBytes 4 (fOfD g.syncA).toNat
  else if x.1 = 1 then
    let n : Sixteen := ⟨x.2 % 16, Nat.mod_lt _ (by decide)⟩
    leBytes 1 (x.2 % 32 + 32) ++ [BitVec.ofNat 8 (b2n (driverOn s n)), 0, 0] ++ leBytes 4 (stpRef s n).toNat ++ List.replicate 8 0
  else List.replicate 16 0

/-- The payload of an auxiliary output frame (R150). -/
def auxPayload (s : State) (recs : List (Nat × Nat)) : List Byte :=
  padTo 136 (leBytes 1 recs.length ++ [0, 0, 0] ++ leBytes 4 (s.clk.tag.toNat + 1) ++ recs.flatMap (auxRecord s))

/-- The streams of a kind that the schedule in force gives the lead path. -/
def leadStreams (s : State) (kind : Nat) : List Nat :=
  match wlBank s with
  | none => []
  | some b => ((staticRows s b 0 ++ staticRows s b 1).filter fun r => r.kind == kind && r.node == 0).map (·.stream)

/-- Whether a task of the dispatcher owed the result of a key. [DESIGN CHOICE, log 53] -/
def owed (due : List Due) (key : Nat) : Bool := due.any fun x => x.key == key

/-- The setpoint frames that flow 1 releases (R28, R355): none for an arm whose own result is a void. [DESIGN CHOICE, log 53] -/
def releaseSetpoints (dev : Vector LaneDev 3) (due : List Due) (s : State) : State :=
  forEach allArms (fun a s =>
    let void := due.any fun x => x.key == releaseKey a.val 0 && x.val.isNone
    if (leadStreams s 2).contains a.val && (armModel s a).isSome && !void then
      countIf (!owed due (releaseKey a.val 0)) .tds 0 1 (releaseFrame 1 dev (releaseKey a.val 0) 2 a.val (setpointPayload s a) s)
    else s) s

/-- The auxiliary output frames that flow 2 releases (R355, R498, R506). [DESIGN CHOICE, log 53] -/
def releaseAux (dev : Vector LaneDev 3) (due : List Due) (s : State) : State :=
  match wlBank s with
  | none => s
  | some b =>
    forEach b.aux (fun x s =>
      if (leadStreams s 5).contains x.1 then
        countIf (!owed due (releaseKey x.1 0)) .tds 0 1 (releaseFrame 2 dev (releaseKey x.1 0) 5 x.1 (auxPayload s x.2) s)
      else s) s

/-- OUTPUT_ACTION (R215): the fired actions that a path's lane and another lane agree on are applied. [DESIGN CHOICE, log 53] -/
def releaseActions (dev : Vector LaneDev 3) (s : State) : State :=
  let l := s.tds.fired.zipIdx
  let s := modTds (fun d => { d with fired := [] }) s
  forEach l (fun x s =>
    let key := releaseKey 0 x.2
    let go := (pathCopy s dev .lead key).isSome || (pathCopy s dev .second key).isSome
    let s := count .tds 0 1 (digestResult 3 dev key (some (BitVec.ofNat 64 x.1.key.toNat)) s)
    match x.1.act with
    | .output a r => if go then applyOutput ⟨a % 12, Nat.mod_lt _ (by decide)⟩ r s else s
    | .operand _ _ _ => s) s

/-- The speed scales and the distance list that flow 0 releases (R355, R380, R385); the decisions of flow 0 are SAFETY_VOTE's. -/
def releaseScales (s : State) : State :=
  let s := forEach allArms (fun a s => releaseShared 0 (releaseKey 1 a.val) (BitVec.ofNat 64 s.mnt.k[a]) s) s
  modPlf (fun p => { p with dist := s.mnt.list }) (modMnt (fun m => { m with kOut := m.k }) s)

/-- The role decisions of flow 4 (R32, R355); its consolidation decision is CONSOLIDATION_DECISION's. -/
def releaseRoles (s : State) : State :=
  forEach (lanesIn s) (fun l s => releaseShared 4 (releaseKey 1 l.val) (BitVec.ofNat 64 (s.carts[laneCart l]).role.code) s) s

/-- The completion reports of flow 5 (R228, R355). -/
def releaseAllReports (s : State) : State :=
  forEach allArms (fun a s =>
    let s := forEach (s.ring[a]).due.zipIdx (fun x s => releaseShared 5 (releaseKey a.val x.2) (frameValue (reportBytes x.1)) s) s
    releaseReports a s) s

/-- ORDERED_FLOW_RELEASE (R352) of flow `f`; `CNT1` counts what is released, voids included. [DEDUCED, log 58; DEDUCED, log 98] -/
def flowRelease (f : Nat) (dev : Vector LaneDev 3) (s : State) : State :=
  match flowRow s f with
  | none => s
  | some row =>
    if s.boot.admitted = false ∨ s.tds.choked = true ∨ laneCount s = 0 then s
    else
      let s := advanceTo (releaseInstant s row) s
      let due := dueResults s f
      let s := forEach due (fun x s =>
        let s := digestResult f dev x.key x.val s
        if x.val.isNone then noteVoid f x.task s else s) s
      let s := countBy .tds 0 1 due.length s
      let s := modTds (fun d => { d with
        held := d.held.filter fun x => x.flow != f || (decide (s.clk.tag.toNat < x.key.tag.toNat) && row.anchor != 3)
        expired := d.expired.filter fun k => (routed s f k).isNone
        released := due.map (fun x => (f, x.task, x.val.isNone)) ++ d.released }) s
      if f = 0 then releaseScales s
      else if f = 1 then releaseSetpoints dev due s
      else if f = 2 then releaseAux dev due s
      else if f = 3 then releaseActions dev s
      else if f = 4 then releaseRoles s
      else if f = 5 then releaseAllReports s
      else s

/-- ORDERED_FLOW_RELEASE. -/
def execOrderedFlowRelease (flow : Fin 64) (dev : Vector LaneDev 3) (s : State) : Host.Outcome State Fault Refusal :=
  run (flowRelease flow.val dev) s

/-- PHASE_LIST_FIRE (R358, R359). -/
def execPhaseListFire (s : State) : Host.Outcome State Fault Refusal :=
  run (fun s => phaseListFire (linePhase s) (s.line.rev || !s.line.valid || !lineEn s) s) s

end Sys2Proof.Machine
end

