-- ==== Sys2Proof/Machine/RegRead.lean ====
section
/-! DEFINITION. What a read of a register returns: the stored value, or the value composed from the state it shows (R56, R62 and the
block chapters), and what a read changes (R76, R96, R168, R423, R431, R474, R508, R525). -/

namespace Sys2Proof.Machine

-- Common registers

/-- `KIN.CAP`: joints, line capability, follower of a coupling slot, host-assisted mode (KIN page). -/
def kinCap (s : State) (a : Arm) : Word :=
  let line := match armModel s a with
    | some m => m.lineCap
    | none => false
  let follower := match s.arms with
    | some im => im.couplings.any fun x => x.2 == a.val
    | none => false
  BitVec.ofNat 32 (2 ^ 8 + b2n follower * 2 ^ 5 + b2n line * 2 ^ 4 + armJoints s a % 16)

/-- What `HEALTH` shows of a cartridge's self-test (R62): number of the first failed test, running, passed. [DEDUCED, log 14] -/
def testWord (s : State) (c : Cart) : Word :=
  let st := (s.carts[c]).st
  let failed := st == .faulted && (s.carts[c]).cause == 6
  let tested := !failed && st != .empty && st != .off && st != .power && st != .selftest
  BitVec.ofNat 32 ((if failed then (Config.failedTest c.val).toNat * 256 else 0) + b2n (st == .selftest) * 2 + b2n tested)

/-- `HEALTH` of a page at hub `h`: a cartridge's page shows its self-test, another hub-view page that of the hub, a cell-view page that
of the lanes in step. [DEDUCED, log 14] -/
def healthWord (s : State) (h : Hub) (p : Pg) (i : Nat) : Word :=
  if p = .crt then testWord s (fin5 i)
  else if (pgRow p).cell then BitVec.ofNat 32 (b2n s.boot.admitted)
  else testWord s (hubCart h)

/-- Counter `n` of a page as hub `h` shows it (R50): lane-private counters read 0 in the cell view (R59). -/
def counterWord (s : State) (h : Hub) (p : Pg) (i n : Nat) : Word := if (pgRow p).cell then reg s p i (Reg.CNT + 4 * n) else ownCount s h p i n

/-- A register of the common page layout (R62). -/
def readCommon (s : State) (h : Hub) (p : Pg) (i off : Nat) : Word :=
  if off = Reg.ID then pageId p i
  else if off = Reg.CAP then (if p = .kin then kinCap s (fin12 i) else (pgRow p).cap)
  else if off = Reg.READY then readyWord s p i
  else if off = Reg.HEALTH then healthWord s h p i
  else if off = Reg.IRQ_SET ∨ off = Reg.UNLOCK then 0
  else if Reg.CNT ≤ off then counterWord s h p i ((off - Reg.CNT) / 4)
  else reg s p i off

-- MOD

/-- Cell time of the next staging cut-off, the start of the symbol window (R54, R68); 0 while no bus cycle runs.
[DEDUCED, log 22] -/
def nextCut (s : State) : Nat :=
  match wlBank s with
  | some b =>
    if s.clk.started then
      let t := intoCycle s (symStart b)
      if s.clk.now < t then t else t + busNs s * 2 ^ 32
    else 0
  | none => 0

/-- Entries of the staging FIFO that are not yet applied (R68). [DEDUCED, log 22] -/
def stagePend (s : State) : Word :=
  BitVec.ofNat 32 (b2n (decide (256 ≤ s.link.fifo.length)) * 2 ^ 16 + min 511 (s.link.fifo.length + s.link.bundle.length))

/-- `MOD.SUMMARY` (R550). -/
def summaryWord (s : State) : Word :=
  BitVec.ofNat 32 (s.boot.phase * 256 + s.wl.op % 4 * 64 + laneCount s * 16 + b2n s.saf.rstSeen * 8 +
    b2n (safReady s) * 4 + s.clk.refHub.val * 2 + b2n (motionEnabled s))

/-- A block-specific register of `MOD` for port `q` (R68, R550). [DEDUCED, log 22] -/
def readMod (s : State) (q : Port) (off : Nat) : Word :=
  if off = Reg.MOD_WINSEL then (s.link.winsel[q]).setWidth 32
  else if off = Reg.MOD_ACCSTAT then s.link.accstat[q]
  else if off = Reg.MOD_ACCADDR then s.link.accaddr[q]
  else if off = Reg.MOD_STAGE_PEND then stagePend s
  else if off = Reg.MOD_STAGE_CUT then BitVec.ofNat 32 (nextCut s / 2 ^ 32)
  else if off = Reg.MOD_STAGE_TAG then BitVec.ofNat 32 (if s.clk.started then s.clk.tag.toNat + 1 else s.clk.tag.toNat)
  else if off = Reg.MOD_BOOT then BitVec.ofNat 32 s.boot.cause
  else if off = Reg.MOD_PWRON then s.boot.starts
  else if off = Reg.MOD_SUMMARY then summaryWord s
  else if off = Reg.MOD_SERIAL_LO then lo32 (Config.serial 5 0)
  else if off = Reg.MOD_SERIAL_HI then hi32 (Config.serial 5 0)
  else 0

-- Custodians, cartridges, supplies

/-- A block-specific register of `CUS` (R461). -/
def readCus (s : State) (i off : Nat) : Word :=
  if off = Reg.CUS_STAT then cusStat s (fin2 i)
  else if off = Reg.CUS_VERDICT then cusVerdict s (fin2 i)
  else if off = Reg.CUS_LANEVOTE then cusLaneVote s
  else if off = Reg.CUS_STEPCLASS then s.img.hubClass ++ s.img.laneClass
  else if off = Reg.CUS_LOAD_STAT then loadStat s
  else if off = Reg.CUS_IMG_STORED then s.img.stored
  else 0

/-- A block-specific register of `CRT` (R462). -/
def readCrt (s : State) (i off : Nat) : Word :=
  let c := fin5 i
  if off = Reg.CRT_STAT then crtStat s c
  else if off = Reg.CRT_CFG then reg s .crt i off
  else if off = Reg.CRT_FW then crtFw s c
  else if off = Reg.CRT_SERIAL_LO then lo32 (crtSerial s c)
  else if off = Reg.CRT_SERIAL_HI then hi32 (crtSerial s c)
  else if off = Reg.CRT_XFER then crtXfer s c
  else if off = Reg.CRT_TRACK then crtTrack s c
  else if off = Reg.CRT_FENCE_TAG then (s.carts[c]).fenceTag
  else 0

/-- A register of `SPR` or `LSP` (R463, R464): the map and the faults of a cartridge. -/
def readSpare (s : State) (c : Cart) (off : Nat) : Word :=
  if off = Reg.SPR_MAP then (s.carts[c]).map
  else if off = Reg.SPR_FAULTS then (s.carts[c]).faults
  else 0

-- Time, Ethernet, Wearline

/-- `TB.STATE` (R100). -/
def tbState (s : State) : Word :=
  let v := s.servo
  let st := match v.st with
    | .free => 0
    | .acquire => 1
    | .locked => 2
    | .holdover => 3
  BitVec.ofNat 32 (v.src.val * 2 ^ 14 + s.clk.refHub.val * 2 ^ 13 + b2n (decide (0 < v.quar)) * 2 ^ 10 + b2n v.asym * 2 ^ 9 + b2n v.stepPend * 2 ^ 8 + st)

/-- A block-specific register of `TB` for port `q` (R76, R96, R100). -/
def readTb (s : State) (q : Port) (off : Nat) : Word :=
  if off = Reg.TB_NOW_LO then stamp s
  else if off = Reg.TB_NOW_HI then s.link.nowHi[q]
  else if off = Reg.TB_STATE then tbState s
  else if off = Reg.TB_RATE then BitVec.ofInt 32 s.clk.rho
  else if off = Reg.TB_STEP_VAL_LO then lo32 s.servo.stepVal
  else if off = Reg.TB_STEP_VAL_HI then hi32 s.servo.stepVal
  else if off = Reg.TB_PLANT_OFS_LO then lo32 s.servo.plantOfs
  else if off = Reg.TB_PLANT_OFS_HI then hi32 s.servo.plantOfs
  else if off = Reg.TB_LINE_STAT then BitVec.ofNat 32 (b2n s.line.rev * 2 + b2n s.line.valid)
  else if off = Reg.TB_LINE_LO then lo32 s.line.atSync
  else if off = Reg.TB_LINE_HI then s.link.lineHi[q]
  else if off = Reg.TB_STEP_ACK ∨ off = Reg.TB_HA_OFS then 0
  else reg s .tb 0 off

/-- A block-specific register of `ETH` (R102). -/
def readEth (s : State) (i off : Nat) : Word :=
  if off = Reg.ETH_MAC_LO then (macOf s (fin2 i)).setWidth 32
  else if off = Reg.ETH_MAC_HI then (macOf s (fin2 i) >>> 32).setWidth 32
  else reg s .eth i off

/-- A block-specific register of `WLC` at hub `h` (R125). -/
def readWlc (s : State) (h : Hub) (i off : Nat) : Word :=
  if off = Reg.WLC_STAT then wlcStat s h (fin2 i)
  else if off = Reg.WLC_EQ_DATA then eqData s h (fin2 i)
  else if off = Reg.WLC_TRAIN_STAT then trainStat s h (fin2 i)
  else if off = Reg.WLC_RETRAIN then 0
  else reg s .wlc i off

/-- A block-specific register of `WLS` at hub `h` (R168). -/
def readWls (s : State) (h : Hub) (off : Nat) : Word :=
  if off ≤ Reg.WLS_FB_END then wlWord s off
  else if off = Reg.WLS_STATE then wlState s
  else if off = Reg.WLS_SWITCH ∨ off = Reg.WLS_RX_POP then 0
  else if off = Reg.WLS_NACK_LO then lo32 s.wl.nack
  else if off = Reg.WLS_NACK_HI then hi32 s.wl.nack
  else if off = Reg.WLS_CHHEALTH then chHealth s h
  else if off = Reg.WLS_HB_CFG then readHbCfg s
  else if off = Reg.WLS_HB_DATA then readHbData s
  else if off = Reg.WLS_HB_STAT then hbStat s
  else if off = Reg.WLS_RX_STAT then rxStat s
  else if off = Reg.WLS_RX_TIME then rxTime s
  else if off = Reg.WLS_RX_DATA then rxData s
  else reg s .wls 0 off

-- Encoders, outputs, generators, steppers, converters

/-- A block-specific register of `ENC` for port `q` (R490). -/
def readEnc (s : State) (q : Port) (i off : Nat) : Word :=
  let n := fin16 i
  let e := s.enc[n]
  if off = Reg.ENC_COUNT then lo32 e.count
  else if off = Reg.ENC_STAT then encStat s n
  else if off = Reg.ENC_LATCH then lo32 e.latch
  else if off = Reg.ENC_LATCH_T then (indexView s q n).time
  else if off = Reg.ENC_LATCH_SEQ then ((indexView s q n).seq).setWidth 32
  else if off = Reg.ENC_IDX_DELTA then (indexView s q n).delta
  else if off = Reg.ENC_INTERVAL then intervalNow s n
  else if off = Reg.ENC_LASTEDGE then e.lastEdge
  else if off = Reg.ENC_QERR then BitVec.ofNat 32 (min 65535 e.errMax * 65536 + min 65535 (rolled s e).errWin)
  else if off = Reg.ENC_SSI_DELAY then BitVec.ofNat 32 (b2n e.measured * 2 ^ 31 + e.delay % 8192)
  else if off = Reg.ENC_SSI_RAW then e.raw
  else if off = Reg.ENC_CMD then 0
  else reg s .enc i off

/-- A block-specific register of `FFY` (R491). -/
def readFfy (s : State) (i off : Nat) : Word :=
  if off = Reg.FFY_STAT then ffyStat s (fin16 i)
  else if off = Reg.FFY_LCTL then readLctl s (fin16 i)
  else if off = Reg.FFY_LAST_T then (s.ffy[fin16 i]).lastT
  else if off = Reg.FFY_CMD then 0
  else reg s .ffy i off

/-- A block-specific register of `ADC` for port `q` (R529). -/
def readAdc (s : State) (q : Port) (i off : Nat) : Word :=
  if off = Reg.ADC_STAT then adcStat s (fin4 i)
  else if off = Reg.ADC_RES_W then (resHead s (fin4 i)).1
  else if off = Reg.ADC_RES_W + 4 then (s.adc.pair[fin4 i]).w1[q]
  else if off = Reg.ADC_CMD then 0
  else reg s .adc i off

/-- Whether an auxiliary output record carries the generator (R498): its stream is bound in the active schedule. -/
def onWearline (s : State) (n : Prg) : Bool :=
  match wlBank s with
  | some b => b.aux.any fun x => x.2.any fun r => r.1 == 2 && r.2 == n.val
  | none => false

/-- A block-specific register of `PRG` for port `q` (R508). -/
def readPrg (s : State) (q : Port) (i off : Nat) : Word :=
  let n := fin32 i
  let g := s.prg[n]
  if off = Reg.PRG_CFG then reg s .prg i off ||| BitVec.ofNat 32 (b2n (onWearline s n) * 2 ^ 31)
  else if off = Reg.PRG_STAT then prgStat s n
  else if off = Reg.PRG_POS_LO then lo32 (posReg g.p)
  else if off = Reg.PRG_POS_HI then (s.link.posHi[q])[n]
  else if off = Reg.PRG_VEL then fOfD g.v
  else if off = Reg.PRG_ACC then fOfD g.a
  else if off = Reg.PRG_FB then g.fb
  else if off = Reg.PRG_HA_STAT then prgHaStat s n
  else if off = Reg.PRG_CMD ∨ off = Reg.PRG_HA_POS_LO ∨ off = Reg.PRG_HA_POS_HI then 0
  else reg s .prg i off

/-- A block-specific register of `STP` (R509). -/
def readStp (s : State) (i off : Nat) : Word :=
  let n := fin16 i
  if off = Reg.STP_STAT then stpStat s n
  else if off = Reg.STP_TDATA then readTdata s n
  else if off = Reg.STP_REF then stpRef s n
  else if off = Reg.STP_IMEAS then (s.stp[n]).imeas
  else if off = Reg.STP_CMD then 0
  else reg s .stp i off

/-- A block-specific register of `SIO` at hub `h` (R420). -/
def readSio (s : State) (h : Hub) (off : Nat) : Word :=
  if off = Reg.SIO_IN_STAT then inStat s
  else if off = Reg.SIO_IN_RAW then inRaw s h
  else if off = Reg.SIO_OUT_STAT then outStat s
  else if off = Reg.SIO_OUT_FAULT then (s.saf.out.fault).setWidth 32
  else if off = Reg.SIO_TP_LAST then s.saf.tpLast
  else if off = Reg.SIO_RST_STAT then rstStat s
  else if off = Reg.SIO_SVC then svcWord s
  else reg s .sio 0 off

-- Cell view

/-- A block-specific register of `PLF` (R309). -/
def readPlf (s : State) (off : Nat) : Word :=
  if off = Reg.PLF_STAT then plfStat s
  else if off = Reg.PLF_ARMS then plfArms s
  else if off = Reg.PLF_SWITCH ∨ off = Reg.PLF_PROG then 0
  else if off = Reg.PLF_PATID_ACT then patternId s s.plf.act
  else if off = Reg.PLF_PATID_NEXT then patternId s (other s.plf.act)
  else if Reg.PLF_PAT_ROWS ≤ off ∧ off ≤ Reg.PLF_PAT_TITER then patternWord s ((off - Reg.PLF_PAT_ROWS) / 4)
  else reg s .plf 0 off

/-- A block-specific register of `KIN` (R273). -/
def readKin (s : State) (i off : Nat) : Word :=
  let a := fin12 i
  let bound := fun (f : ArmModel → List F32) (k : Nat) => match armModel s a with
    | some m => (f m).getD k 0
    | none => 0
  if Reg.KIN_PAY ≤ off ∧ off < Reg.KIN_LO then payWord s a ((off - Reg.KIN_PAY) / 4)
  else if Reg.KIN_LO ≤ off ∧ off < Reg.KIN_HI then bound (·.lo) ((off - Reg.KIN_LO) / 4)
  else if Reg.KIN_HI ≤ off then bound (·.hi) ((off - Reg.KIN_HI) / 4)
  else reg s .kin i off

/-- A block-specific register of `ARM` (R230). -/
def readArm (s : State) (i off : Nat) : Word :=
  if off = Reg.ARM_STAT then armStat s (fin12 i)
  else if off = Reg.ARM_CUR_SEQ then armCurSeq s (fin12 i)
  else if off = Reg.ARM_CMD then 0
  else reg s .arm i off

/-- A block-specific register of `SDP` (R344). -/
def readSdp (s : State) (off : Nat) : Word :=
  if off = Reg.SDP_STAT then sdpStat s
  else if off = Reg.SDP_PDATA then readPdata s
  else if off = Reg.SDP_SWITCH ∨ off = Reg.SDP_PCOMMIT ∨ off = Reg.SDP_HA_SEQ then 0
  else if off = Reg.SDP_KBANK_ACT then kernelBankId s s.sdp.act
  else if off = Reg.SDP_KBANK_NEXT then kernelBankId s (other s.sdp.act)
  else if off = Reg.SDP_KINFO_A then (kernelInfo s).1
  else if off = Reg.SDP_KINFO_B then (kernelInfo s).2
  else if Reg.SDP_JCFG ≤ off ∧ off < Reg.SDP_HA_TRQ then jcfg s ((off - Reg.SDP_JCFG) / 4) &&& 0x0FFF17FF
  else reg s .sdp 0 off

/-- `TINFO_A` and `TINFO_B` of the template selected (R363). -/
def templateWords (s : State) : Word × Word :=
  match templateOf s (fld s .tds 0 Reg.TDS_TSEL 9 0) with
  | some t => (BitVec.ofNat 32 (2 ^ 31 + t.cls % 8 * 2 ^ 28 + t.prio % 32 * 2 ^ 23 + t.nops % 16 * 2 ^ 19 + (t.flow.getD 127) % 128 * 2 ^ 12 + t.rank % 4096),
      BitVec.ofNat 32 (b2n (decide (768 ≤ t.index)) * 256 + t.life % 256))
  | none => (0, 0)

/-- `FINFO` of the flow selected (R363). -/
def flowWord (s : State) : Word :=
  let f := fld s .tds 0 Reg.TDS_FSEL 5 0
  match flowRow s f with
  | some r =>
    let expect := if r.anchor = 2 then 0 else (s.tds.templates.filter fun t => t.flow == some f).length
    BitVec.ofNat 32 (2 ^ 31 + r.anchor % 8 * 2 ^ 28 + r.ofs % 4096 * 2 ^ 16 + expect % 4096)
  | none => 0

/-- A block-specific register of `TDS` (R363). -/
def readTds (s : State) (off : Nat) : Word :=
  if off = Reg.TDS_TINFO_A then (templateWords s).1
  else if off = Reg.TDS_TINFO_B then (templateWords s).2
  else if off = Reg.TDS_FINFO then flowWord s
  else if off = Reg.TDS_LASTVOID then 0
  else reg s .tds 0 off

/-- A block-specific register of `MNT` (R393). -/
def readMnt (s : State) (off : Nat) : Word :=
  let ofBank := fun (f : MantisBank → Word) => match mantisBank s with
    | some b => f b
    | none => 0
  if off = Reg.MNT_SSM_A then ofBank (·.ssmA)
  else if off = Reg.MNT_SSM_B then ofBank (·.ssmB) &&& 0xFFFF
  else if off = Reg.MNT_STAT then mntStat s
  else if off = Reg.MNT_SWITCH ∨ off = Reg.MNT_HT_COMMIT then 0
  else if off = Reg.MNT_PAIRID_ACT then mantisBankId s s.mnt.act
  else if off = Reg.MNT_PAIRID_NEXT then mantisBankId s (other s.mnt.act)
  else if off = Reg.MNT_COUNTS then mntCounts s
  else if off = Reg.MNT_PINFO then (pairWords s).1
  else if off = Reg.MNT_PDIST then (pairWords s).2.1
  else if off = Reg.MNT_PK then (pairWords s).2.2
  else if off = Reg.MNT_GSTAT then gstat s
  else if off = Reg.MNT_GLOST then glost s
  else if off = Reg.MNT_ZOCC_LO then zoneWord s 0
  else if off = Reg.MNT_ZOCC_HI then zoneWord s 32
  else if off = Reg.MNT_STPT then (stopPointWords s).1
  else if off = Reg.MNT_STDATA then (stopPointWords s).2
  else if off = Reg.MNT_HT_DATA then htWord s (6 * fld s .mnt 0 Reg.MNT_HT_SEL 7 4 + fld s .mnt 0 Reg.MNT_HT_SEL 2 0)
  else if off = Reg.MNT_HT_STAT then htStat s
  else if Reg.MNT_ARMK ≤ off ∧ off < Reg.MNT_ARMCFG then armkWord s (fin12 ((off - Reg.MNT_ARMK) / 4))
  else if Reg.MNT_ARMCFG ≤ off then ofBank fun b => b.armcfg.getD ((off - Reg.MNT_ARMCFG) / 4) 0
  else reg s .mnt 0 off

/-- A block-specific register of `SAF` (R430). -/
def readSaf (s : State) (off : Nat) : Word :=
  let a := fin12 (fld s .saf 0 Reg.SAF_ASEL 3 0)
  let j := fld s .saf 0 Reg.SAF_JSEL 6 0
  if off = Reg.SAF_MOTION then motionWord s
  else if off = Reg.SAF_LASTDEM then s.saf.lastDem
  else if off = Reg.SAF_ACFG_A then acfg s a 0
  else if off = Reg.SAF_ACFG_B then acfg s a 1
  else if off = Reg.SAF_ACFG_C then acfg s a 2
  else if off = Reg.SAF_JCFG_A then (safJcfg s j).1
  else if off = Reg.SAF_JCFG_B then (safJcfg s j).2
  else if Reg.SAF_ARMST ≤ off ∧ off < Reg.SAF_ARMV then armstWord s (fin12 ((off - Reg.SAF_ARMST) / 4))
  else if Reg.SAF_ARMV ≤ off then armvWord s (fin12 ((off - Reg.SAF_ARMV) / 4))
  else reg s .saf 0 off

/-- A block-specific register of `SEC` (R431). -/
def readSec (s : State) (off : Nat) : Word :=
  if off ≤ Reg.SEC_PWD_CMD then 0
  else if off = Reg.SEC_PWD_STAT then pwdStat s
  else if off = Reg.SEC_SESS_KEY then (readSessKey s).1
  else if off = Reg.SEC_LOG_STAT then BitVec.ofNat 32 (unacked s)
  else if off = Reg.SEC_LOG_SEQ then s.sec.seq
  else if off = Reg.SEC_LOG_ACK then 0
  else if off = Reg.SEC_LOG_DATA then logData s
  else if off = Reg.SEC_IMG_STAT then s.sec.imgStat
  else if off = Reg.SEC_CFG_CRC then s.saf.crc
  else reg s .sec 0 off

/-- A block-specific register of a page, as hub `h` holds it and as port `q` reads it. -/
def readBlock (s : State) (q : Port) (h : Hub) (p : Pg) (i off : Nat) : Word :=
  match p with
  | .mod => readMod s q off
  | .cus => readCus s i off
  | .pwr => if off = Reg.PWR_TWARN then reg s .pwr 0 off else pwrWord s h off
  | .crt => readCrt s i off
  | .tb => readTb s q off
  | .ptp => reg s .ptp i off
  | .eth => readEth s i off
  | .wlc => readWlc s h i off
  | .wls => readWls s h off
  | .enc => readEnc s q i off
  | .ffy => readFfy s i off
  | .adc => readAdc s q i off
  | .prg => readPrg s q i off
  | .stp => readStp s i off
  | .sio => readSio s h off
  | .spr => readSpare s (hubCart (fin2 i)) off
  | .plf => readPlf s off
  | .kin => readKin s i off
  | .arm => readArm s i off
  | .sdp => readSdp s off
  | .tds => readTds s off
  | .mnt => readMnt s off
  | .saf => readSaf s off
  | .sec => readSec s off
  | .lsp => readSpare s (fin5 (i % 3)) off

/-- The value of a register; an offset that the page does not define reads 0 (R8). -/
def readReg (s : State) (q : Port) (h : Hub) (p : Pg) (i off : Nat) : Word :=
  if off < 0x80 then readCommon s h p i off
  else match regRow p off with
    | none => 0
    | some _ => readBlock s q h p i off

/-- What a read changes, as port `q` reads. -/
def readEffect (q : Port) (p : Pg) (i off : Nat) (s : State) : State :=
  match p with
  | .tb =>
    if off = Reg.TB_NOW_LO then { s with link := { s.link with nowHi := vset s.link.nowHi q (BitVec.ofNat 32 (nsOf s / 2 ^ 32)) } }
    else if off = Reg.TB_LINE_LO then { s with link := { s.link with lineHi := vset s.link.lineHi q (hi32 s.line.atSync) } }
    else s
  | .wls => if off = Reg.WLS_HB_DATA then advanceHb s else if off = Reg.WLS_RX_DATA then advanceRx s else s
  | .enc => if off = Reg.ENC_LATCH then (readLatch q (fin16 i) s).2 else if off = Reg.ENC_LATCH_T then (readLatchT q (fin16 i) s).2 else s
  | .adc => if off = Reg.ADC_RES_W then (readResW0 q (fin4 i) s).2 else if off = Reg.ADC_RES_W + 4 then (readResW1 q (fin4 i) s).2 else s
  | .prg => if off = Reg.PRG_POS_LO then (readPosLo q (fin32 i) s).2 else s
  | .sec => if off = Reg.SEC_SESS_KEY then (readSessKey s).2 else if off = Reg.SEC_LOG_DATA then (readLogData s).2 else s
  | _ => s

-- Per-hub registers (R50)

/-- Registers that a block chapter marks per hub; `HEALTH`, `ERR` and the counters of every hub-view page are exempt as well (R50). -/
def perHub (p : Pg) (off : Nat) : Bool :=
  off == Reg.HEALTH || off == Reg.ERR || (decide (Reg.CNT ≤ off) && decide (off < 0x80)) ||
  (decide (0x80 ≤ off) && match p with
    | .pwr => off != Reg.PWR_TWARN
    | .tb => off == Reg.TB_NOW_LO || off == Reg.TB_NOW_HI
    | .wlc => off == Reg.WLC_STAT || off == Reg.WLC_EQ_DATA || off == Reg.WLC_TRAIN_STAT
    | .wls => off == Reg.WLS_CHHEALTH
    | .enc => off == Reg.ENC_COUNT || off == Reg.ENC_INTERVAL || off == Reg.ENC_LASTEDGE || off == Reg.ENC_QERR || off == Reg.ENC_SSI_DELAY || off == Reg.ENC_SSI_RAW
    | .sio => off == Reg.SIO_IN_RAW
    | .spr => off == Reg.SPR_MAP || off == Reg.SPR_FAULTS
    | _ => false)

end Sys2Proof.Machine
end

