-- ==== Sys2Proof/Machine/RegWrite.lean ====
section
/-! DEFINITION. What a write to a register does: access types and refusals (R8, R9, R62), `CTRL`, `MODE` and the interrupt registers
of the common page layout, block reset (R566), the ranges that the block chapters state, and the registers whose write is a command. -/

namespace Sys2Proof.Machine

-- CTRL and the block reset (R62, R566)

/-- What a write of 1 to `CTRL.SRST` keeps of Plefin (R566): banks, the plan in force, and the inputs that others publish.
[DEDUCED, log 24] -/
def resetPlefin (s : State) : State :=
  modPlf (fun x => { banks := x.banks, act := x.act, plan := x.plan, fresh := x.fresh, phases := x.phases, dist := x.dist }) s

/-- A joint of the servo datapath after a block reset (R566): the trajectory played, the records sent and received stay; measurements,
loop states, parameters and shadows clear. [DEDUCED, log 24] -/
def resetJoint (par : List (Nat × Word)) (x : Joint) : Joint :=
  { x with
    posMeas := 0, velMeas := 0, trqMeas := 0, fbValid := false, fbAbsent := false, u := 0, dhat := 0, trqOut := 0
    integ := 0, ePrev := 0, velPrev := 0, notch := Vector.replicate 4 (Vector.replicate 4 0), par := par, shadow := []
    faults := 0, faulted := false, vEnds := 0 }

/-- A MAC core after a block reset (R311, R566): program memory, which the kernel bank fills, stays. [DEDUCED, log 24] -/
def resetCore (c : MacCore) : MacCore := { pMem := c.pMem }

/-- The servo datapath after a block reset (R566). [DEDUCED, log 24] -/
def resetServoPath (s : State) : State :=
  { s with sdp := { s.sdp with
    pend := none, core := s.sdp.core.map resetCore, late := Vector.replicate 8 [], joint := (Vector.range 96).map fun i => resetJoint ((kernelBank s).elim [] fun b => bankParams b i) s.sdp.joint[jointNo i]
    haSeq := false, haTrq := [], faultSeen := false, usedA := Vector.replicate 8 0, usedB := Vector.replicate 8 0 } }

/-- The internal state of a block returns to its power-good value; what R566, R259, R481 and R497 keep stays. [DEDUCED, log 24] -/
def resetInternal (p : Pg) (i : Nat) (s : State) : State :=
  match p with
  | .tb => ffyRefresh { resetLine (resetServo s) with link := { s.link with nowHi := Vector.replicate 2 0, lineHi := Vector.replicate 2 0 } }
  | .ptp => restartPair (fin2 i) (modPtp (fin2 i) (fun _ => {}) s)
  | .eth => s
  | .wlc => modWl (fun w => { w with sigdet := putWl (putWl w.sigdet 0 (fin2 i) false) 1 (fin2 i) false }) s
  | .wls => modWl (fun w => { w with buf := Vector.replicate 16 {}, rx := [], rxWord := 0, seqs := [] }) s
  | .enc => resetEnc (fin16 i) s
  | .ffy => ffyRefresh (modFfy (fin16 i) (fun _ => {}) s)
  | .adc => modPair (fin4 i) (fun u => { u with conv := u.conv.map fun c => { c with calOk := true } }) (resetPair (fin4 i) s)
  | .prg => resetGen (fin32 i) s
  | .stp => modStp (fin16 i) (fun _ => { pos := stpCount s (fin16 i) }) s
  | .plf => resetPlefin s
  | .kin => modIdent (fin12 i) (fun x => { x with haAge := 0, haGood := [] }) s
  | .sdp => resetServoPath s
  | _ => s

/-- A front-end change of the reset acts as a write does (R518, R566). -/
def resetInputs (i : Nat) (s : State) : State :=
  forEach (List.range 6) (fun k s =>
    let off := Reg.ADC_INCFG + 4 * k
    adcWritten (fin4 i) off (reg s .adc i off) (regReset .adc i off) s) s

/-- SRST on a page that accepts it (R566); the reset of an arm is a sequence of its own (R567). The reset completes at once; the page's
`READY` falls and rises again, which `READYCHG` shows. [DESIGN CHOICE, log 11; DEDUCED, log 32] -/
def blockReset (p : Pg) (i : Nat) (s : State) : State :=
  if p = .arm then armReset (fin12 i) s
  else
    let was := p == .ptp && sourceSlave s
    let s := if p = .eth then linkChange (fin2 i) false false s else s
    let s := if p = .adc then resetInputs i s else s
    let s := keepSource was (resetInternal p i (resetRegs p i [] s))
    let s := if flag s p i Reg.READY 0 then setReady p i 0 s else s
    noteReady p i s

/-- What a change of `CTRL.EN` starts or stops: `ARM` (R223), `PTP` (R570), `ENC` (R471, R472), `FFY` (R485), `STP` (R505).
[DEDUCED, log 42] -/
def enableChanged (p : Pg) (i : Nat) (on : Bool) (s : State) : State :=
  match p with
  | .arm => if on then s else cmdAbort (fin12 i) s
  | .ptp => ptpEnabled (fin2 i) on s
  | .enc =>
    ffyRefresh (if on then startMeasure (fin16 i) (modEnc (fin16 i) (fun e => { e with rPrev := none, rebase := false }) s) else s)
  | .ffy => if on then becomeCurrent (fin16 i) s else s
  | .stp => if on then s else modStp (fin16 i) (fun c => { c with duty := none }) s
  | _ => s

/-- CTRL_EN, SRST: a write to `CTRL` (R62, R497, R539, R566). [DESIGN CHOICE, log 11] -/
def writeCtrl (p : Pg) (i : Nat) (v : Word) (s : State) : State :=
  if (pgRow p).ctrlFixed && (!bit v 0 || bit v 1) then recordErr p i 0x0003 s
  else if p == .prg && (!bit v 0 || bit v 1) && !atRest (s.prg[fin32 i]) then recordErr .prg i 0x0104 s
  else if bit v 1 then blockReset p i s
  else if bit v 0 == enabled s p i then s
  else noteReady p i (enableChanged p i (bit v 0) (setFlag p i Reg.CTRL 0 (bit v 0) s))

-- MODE (R62)

/-- What the change of `MODE.SEL` does beside the register: the data that the mode starts from (R226, R265, R389, R480, R485, R500).
[DEDUCED, log 25; DEDUCED, log 83] -/
def modeChanged (p : Pg) (i : Nat) (sel : Nat) (s : State) : State :=
  match p with
  | .tb =>
    let s := modServo (fun x => { x with haAge := 0 }) s
    if sel = 0 && !ptpSlave s 0 && !ptpSlave s 1 then sourceLost s else s
  | .enc => ffyRefresh (if sel = 0 then modEnc (fin16 i) (fun e => { e with rebase := true }) s else s)
  | .ffy => if sel = 0 then becomeCurrent (fin16 i) s else s
  | .prg => genModeChanged (fin32 i) s
  | .arm => dropPlan (fin12 i) s
  | .mnt => if sel = 0 then modMnt (fun m => { m with htOn := false }) s else s
  | .kin => modIdent (fin12 i) (fun x => { x with haAge := 0, haGood := [] }) s
  | _ => s

/-- The `PAY` registers take the identified parameters as the host-assisted mode begins (R265). [DEDUCED, log 25] -/
def loadPay (i : Nat) (s : State) : State :=
  forEach (List.range 10) (fun k t => setReg .kin i (Reg.KIN_PAY + 4 * k) (payWord s (fin12 i) k) t) s

/-- MODE_SEL: a write to `MODE` (R62, R226). -/
def writeMode (p : Pg) (i : Nat) (v : Word) (s : State) : State :=
  let sel := field v 1 0
  if 2 ≤ sel ∨ (sel = 1 ∧ (pgRow p).assisted = false) then recordErr p i 0x0001 s
  else if p = .arm ∧ bit (armStat s (fin12 i)) 0 = false then recordErr .arm i 0x0100 s
  else if fld s p i Reg.MODE 1 0 = sel then s
  else
    let s := if p = .kin ∧ sel = 1 then loadPay i s else s
    modeChanged p i sel (setFld p i Reg.MODE 1 0 sel s)

-- Interrupt registers (R62, R64, R66)

/-- After a W1C write to a page whose vector's source is still 1 the ports send its message again (R66). -/
def resend (p : Pg) (i : Nat) (s : State) : State := if vectorUp s p i then sendBoth (vectorOf p i) s else s

/-- A W1C write to `IRQ_STAT` while hardware sets the bits `hwSet`: the set wins, and a source that is still 1 sends again (R64, R66). -/
def clearIrq (p : Pg) (i : Nat) (v hwSet : Word) (s : State) : State :=
  let m : Word := 0xFFFFFF0F
  resend p i (setReg p i Reg.IRQ_STAT ((reg s p i Reg.IRQ_STAT &&& ~~~ (v &&& m)) ||| (hwSet &&& m)) s)

/-- A write to a register of the common page layout (R62). -/
def writeCommon (p : Pg) (i off : Nat) (v : Word) (s : State) : State :=
  if off = Reg.CTRL then writeCtrl p i v s
  else if off = Reg.MODE then writeMode p i v s
  else if off = Reg.IRQ_STAT then clearIrq p i v 0 s
  else if off = Reg.IRQ_EN then withRise p i (setReg p i Reg.IRQ_EN (v &&& 0xFFFFFF0F)) s
  else if off = Reg.IRQ_SET then irqMask p i (v &&& 0xFFFFFF0F) s
  else if off = Reg.CNT_OVF then resend p i (setReg p i Reg.CNT_OVF (reg s p i Reg.CNT_OVF &&& ~~~ v) s)
  else setReg p i off (v &&& 0xFFFFFF) s

-- Ranges (ERR 0x0004)

/-- A float32 value between two bounds. -/
def fWithin (lo hi v : Word) : Bool := fLe lo v && fLe v hi

/-- The jerk of the time scale (R299, R309): within its range, and enough for the active pattern. -/
def tsJerkFits (s : State) (v : Word) : Bool :=
  fWithin 0x461C4000 0x4B189680 v && match pattern s with
    | some p => dLe (jerkBound s p) (dOfF v)
    | none => true

/-- Whether the chapters allow a value in a register (ERR code 0x0004 where not). [DEDUCED, log 39] -/
def inRange (s : State) (p : Pg) (i off : Nat) (v : Word) : Bool :=
  match p with
  | .pwr => decide (-250 ≤ sext 16 (field v 15 0)) && decide (sext 16 (field v 15 0) ≤ 700)
  | .tb =>
    if off = Reg.TB_JUMP_THR then decide (100 ≤ v.toNat) && decide (v.toNat ≤ 1000000000)
    else if off = Reg.TB_PD_STEP then decide (10 ≤ v.toNat) && decide (v.toNat ≤ 10000)
    else if off = Reg.TB_HA_CFG then decide (1 ≤ field v 31 16)
    else true
  | .ptp => ptpInRange off v
  | .wlc => if off = Reg.WLC_DRIFT_LIM then decide (1 ≤ field v 13 8) && decide (field v 13 8 ≤ 31) && decide (1 ≤ field v 3 0) else true
  | .wls => if off = Reg.WLS_HB_ADDR then decide (v.toNat ≤ 253) else true
  | .enc => encInRange s (fin16 i) off v
  | .ffy => if off = Reg.FFY_WIDTH then decide (10 ≤ v.toNat) && decide (v.toNat ≤ 1000000) else true
  | .adc => adcInRange off v
  | .stp => stpInRange s (fin16 i) off v
  | .sio => if off = Reg.SIO_TP_CFG then decide (100 ≤ v.toNat) && decide (v.toNat ≤ 1000) else true
  | .plf =>
    if off = Reg.PLF_CFG then
      decide (1 ≤ field v 25 16) && decide (1 ≤ field v 11 8) && decide (field v 11 8 ≤ 8) && decide (1 ≤ field v 3 0) && decide (field v 3 0 ≤ 8)
    else if off = Reg.PLF_STOP_RATE then fWithin 0x3F800000 0x447A0000 v
    else if off = Reg.PLF_TS_JERK then tsJerkFits s v
    else true
  | .kin =>
    if off = Reg.KIN_LAMBDA then decide (42950 ≤ v.toNat) && decide (v.toNat ≤ 42949673)
    else if Reg.KIN_W_TRK ≤ off ∧ off ≤ Reg.KIN_W_TERM then fFinite v && fLt 0 v
    else if off = Reg.KIN_HA_CFG then decide (1 ≤ v.toNat)
    else if Reg.KIN_PAY ≤ off ∧ off < Reg.KIN_LO then
      match armModel s (fin12 i) with
      | some m => fWithin (m.lo.getD ((off - Reg.KIN_PAY) / 4) 0) (m.hi.getD ((off - Reg.KIN_PAY) / 4) 0) v
      | none => fWithin 0 0 v
    else true
  | .arm => if off = Reg.ARM_OVR then decide (v.toNat ≤ 65536) else true
  | .sdp =>
    if off = Reg.SDP_SCALE then decide (1 ≤ field v 31 16) && decide (1 ≤ field v 15 0)
    else if off = Reg.SDP_PSEL then decide (field v 14 8 ≤ 95)
    else if Reg.SDP_HA_TRQ ≤ off then fFinite v
    else true
  | .mnt =>
    if off = Reg.MNT_STSEL then decide (field v 11 8 ≤ 11)
    else if off = Reg.MNT_HT_SEL then decide (field v 2 0 ≤ 5)
    else if off = Reg.MNT_HT_CFG then decide (1 ≤ field v 31 16) && decide (1 ≤ field v 15 0)
    else true
  | .saf =>
    if off = Reg.SAF_ASEL then decide (v.toNat ≤ 11) else if off = Reg.SAF_JSEL then decide (v.toNat ≤ 95) else true
  | _ => true

/-- The code with which a read-write register refuses a value, if it does. [DEDUCED, log 39] -/
def refusal (s : State) (p : Pg) (i off : Nat) (v : Word) : Option Nat :=
  if p = .kin ∧ Reg.KIN_PAY ≤ off ∧ off < Reg.KIN_LO ∧ assisted s .kin i = false then some 0x0003
  else if p = .mnt ∧ off = Reg.MNT_HT_SEL ∧ assisted s .mnt 0 = false then some 0x0003
  else if p = .prg ∧ off = Reg.PRG_CFG ∧ bit v 0 ≠ bit (reg s .prg i off) 0 ∧ atRest (s.prg[fin32 i]) = false then some 0x0104
  else if inRange s p i off v then none
  else some 0x0004

-- Registers that hold a value

/-- What the chapters attach to a new value of a read-write register. -/
def written (p : Pg) (i off : Nat) (old v : Word) (s : State) : State :=
  match p with
  | .ptp => if off = Reg.PTP_CFG then ptpCfgWritten (fin2 i) old v s else s
  | .enc => encWritten (fin16 i) off old v s
  | .ffy => if off = Reg.FFY_CFG then ffyCfgWritten (fin16 i) old v s else s
  | .adc => adcWritten (fin4 i) off old v s
  | .stp => if off = Reg.STP_CFG then driverChanged (fin16 i) (bit old 24) (bit v 24) s else s
  | .kin => if Reg.KIN_PAY ≤ off ∧ off < Reg.KIN_LO then modIdent (fin12 i) (fun x => { x with haAge := 0 }) s else s
  | _ => s

/-- The value that a register takes from the bits written. -/
def stored (p : Pg) (off : Nat) (v : Word) : Word := if p = .ptp ∧ off = Reg.PTP_CFG then ptpCfgValue v else v

/-- A write to a read-write register without a command of its own (R9, R62). -/
def writeValue (p : Pg) (i off : Nat) (mask v : Word) (s : State) : State :=
  let w := stored p off (v &&& mask)
  match refusal s p i off w with
  | some code => recordErr p i code s
  | none => written p i off (reg s p i off) w (setReg p i off w s)

-- Registers whose write is a command

/-- `ADC.CMD` (R529). -/
def writeAdcCmd (i : Nat) (v : Word) (s : State) : State :=
  let s := if bit v 1 then writeAdcFlush (fin4 i) s else s
  let s := if bit v 2 then writeRestart (fin4 i) s else s
  if bit v 0 then writeCal (fin4 i) s else s

/-- `FFY.CMD` (R489, R491). -/
def writeFfyCmd (i : Nat) (v : Word) (s : State) : State :=
  let s := if bit v 2 then writeRearm (fin16 i) s else s
  let s := if bit v 0 then writeRewind (fin16 i) s else s
  if bit v 1 then otherPulse (fin16 i) s else s

/-- `CRT.CMD` (R462): at most one of its four bits. -/
def writeCrtCmd (c : Cart) (v : Word) (s : State) : State :=
  match field v 3 0 with
  | 0 => s
  | 1 => (askFence c 4 s).1
  | 2 => writeReadmit c s
  | 4 => molt c (field v 15 8) s
  | 8 => powerOff c s
  | _ => recordErr .crt c 0x0004 s

/-- `SPR.CMD`, and `LSP.CMD` through the private window (R458, R463, R464). -/
def writeSpareCmd (c : Cart) (v : Word) (s : State) : State :=
  let s := if bit v 30 then clearRemaps c s else s
  if bit v 31 then remapCommand c (field v 15 12) (if 3 ≤ c.val then field v 3 0 else field v 5 0) s else s

/-- `SEC.PWD_CMD.OP` (R422). -/
def writePwdCmd (src : Nat) (v : Word) (s : State) : State :=
  match field v 1 0 with
  | 1 => openSession src s
  | 2 => changePassword src s
  | 3 => endSession s
  | _ => s

/-- `ETH.PHYCFG` (R102, R571): `RENEG` restarts auto-negotiation, which takes the link down. [DEDUCED, log 32] -/
def writePhycfg (e : Hub) (v : Word) (s : State) : State :=
  let s := setReg .eth e Reg.ETH_PHYCFG (v &&& 1) s
  if bit v 1 then noteReady .eth e (linkChange e false false s) else s

/-- `KIN.ID_CFG` (R264, R273). -/
def writeIdCfg (a : Arm) (v : Word) (s : State) : State :=
  let s := setReg .kin a Reg.KIN_ID_CFG (v &&& 1) s
  if bit v 1 then restartIdent a s else s

/-- `MOD.WINSEL` and `MOD.ACCSTAT` of the port that writes (R68). -/
def writeMod (q : Port) (off : Nat) (v : Word) (s : State) : State :=
  if off = Reg.MOD_WINSEL then { s with link := { s.link with winsel := vset s.link.winsel q (v.setWidth 3) } }
  else if off = Reg.MOD_ACCSTAT then
    resend .mod 0 { s with link := { s.link with accstat := vset s.link.accstat q (s.link.accstat[q] &&& ~~~ (v &&& 0x3F)) } }
  else s

/-- A hub-view register whose write is a command, written through port `q`. -/
def hubCommand (q : Port) (p : Pg) (i off : Nat) (v : Word) : Option (State → State) :=
  match p with
  | .mod => if off = Reg.MOD_WINSEL ∨ off = Reg.MOD_ACCSTAT then some (writeMod q off v) else none
  | .cus =>
    if off = Reg.CUS_CMD then some (fun s => if bit v 0 then custodianReadmit (fin2 i) s else s)
    else if off = Reg.CUS_FW_GO then some (fun s => if bit v 0 then fwGo (fin2 i) v s else s)
    else if off = Reg.CUS_LOAD then some (fun s => if bit v 31 then imageLoad (fin2 i) v s else s)
    else none
  | .crt => if off = Reg.CRT_CMD then some (writeCrtCmd (fin5 i) v) else none
  | .tb =>
    if off = Reg.TB_STEP_ACK then some (writeStepAck v)
    else if off = Reg.TB_HA_OFS then some (writeHaOfs v)
    else if off = Reg.TB_HA_RATE then some (writeHaRate v)
    else if off = Reg.TB_LINE_CFG then some (lineCfgWritten v)
    else none
  | .eth => if off = Reg.ETH_PHYCFG then some (writePhycfg (fin2 i) v) else none
  | .wlc => if off = Reg.WLC_RETRAIN then some (writeRetrain (fin2 i) v) else none
  | .wls =>
    if off = Reg.WLS_SWITCH then some (writeSwitch v)
    else if off = Reg.WLS_HB_CFG then some (writeHbCfg v)
    else if off = Reg.WLS_HB_DATA then some (writeHbData v)
    else if off = Reg.WLS_RX_POP then some (fun s => if bit v 0 then popRx s else s)
    else none
  | .enc => if off = Reg.ENC_CMD then some (writeEncCmd (fin16 i) v) else none
  | .ffy =>
    if off = Reg.FFY_LCTL then some (writeLctl (fin16 i) v)
    else if off = Reg.FFY_CMD then some (writeFfyCmd i v)
    else if off = Reg.FFY_HA_TIME then some (writeHaTime (fin16 i) v)
    else none
  | .adc => if off = Reg.ADC_CMD then some (writeAdcCmd i v) else none
  | .prg =>
    if off = Reg.PRG_CMD then some (writePrgCmd (fin32 i) v)
    else if off = Reg.PRG_HA_POS_LO then some (modGen (fin32 i) fun g => { g with haLo := v })
    else if off = Reg.PRG_HA_POS_HI then some (writeHaPosHi (fin32 i) v)
    else none
  | .stp =>
    if off = Reg.STP_TDATA then some (writeTdata (fin16 i) v)
    else if off = Reg.STP_CMD then some (fun s => if bit v 0 then writeTdefault (fin16 i) s else s)
    else none
  | .spr => if off = Reg.SPR_CMD then some (writeSpareCmd (hubCart (fin2 i)) v) else none
  | _ => none

/-- A cell-view register whose write is a command; `src` is the source of the write (R431). [DEDUCED, log 31] -/
def cellCommand (src : Nat) (p : Pg) (i off : Nat) (v : Word) : Option (State → State) :=
  match p with
  | .plf =>
    if off = Reg.PLF_SWITCH then some (fun s => if bit v 0 then requestPatternSwitch s else s)
    else if off = Reg.PLF_TOL_LO then some (modPlf fun x => { x with tolLo := v })
    else if off = Reg.PLF_FLOOR_LO then some (modPlf fun x => { x with floorLo := v })
    else if off = Reg.PLF_TOL_HI then some (writeTolHi v)
    else if off = Reg.PLF_FLOOR_HI then some (writeFloorHi v)
    else none
  | .kin => if off = Reg.KIN_ID_CFG then some (writeIdCfg (fin12 i) v) else none
  | .arm =>
    if off = Reg.ARM_WR_IDX then some (writeWrIdx (fin12 i) v)
    else if off = Reg.ARM_RPT_RD then some (writeRptRd (fin12 i) v)
    else if off = Reg.ARM_CMD then some (writeArmCmd (fin12 i) v)
    else none
  | .sdp =>
    if off = Reg.SDP_SWITCH then some (fun s => if bit v 0 then requestKernelSwitch s else s)
    else if off = Reg.SDP_PDATA then some (writePdata v)
    else if off = Reg.SDP_PCOMMIT then some (writePcommit v)
    else if off = Reg.SDP_HA_SEQ then some writeHaSeq
    else none
  | .mnt =>
    if off = Reg.MNT_SWITCH then some (fun s => if bit v 0 then requestMantisSwitch s else s)
    else if off = Reg.MNT_HT_DATA then some (writeHtData v)
    else if off = Reg.MNT_HT_COMMIT then some (fun s => if bit v 0 then writeHtCommit s else s)
    else none
  | .saf => if off = Reg.SAF_SWRST then some (writeSwrst v) else none
  | .sec =>
    if off = Reg.SEC_PWD_CMD then some (writePwdCmd src v)
    else if off = Reg.SEC_LOG_ACK then some (logAck v)
    else none
  | .lsp => if off = Reg.LSP_CMD then some id else none
  | _ => none

/-- A register whose own write counts in `CHG`. -/
def countsItself (p : Pg) (off : Nat) : Bool :=
  match p with
  | .mod => off == Reg.MOD_ACCSTAT
  | .tb => off == Reg.TB_HA_RATE || off == Reg.TB_LINE_CFG
  | .wls => off == Reg.WLS_HB_CFG || off == Reg.WLS_HB_DATA
  | .ffy => off == Reg.FFY_LCTL || off == Reg.FFY_HA_TIME
  | .stp => off == Reg.STP_TDATA
  | .plf => off == Reg.PLF_TOL_HI || off == Reg.PLF_FLOOR_HI
  | .arm => off == Reg.ARM_WR_IDX || off == Reg.ARM_RPT_RD
  | .sdp => off == Reg.SDP_PDATA
  | .mnt => off == Reg.MNT_HT_DATA
  | .saf => off == Reg.SAF_SWRST
  | .lsp => off == Reg.LSP_CMD
  | _ => false

/-- A block-specific register of a page. -/
def writeBlock (q : Port) (p : Pg) (i off : Nat) (mask v : Word) (s : State) : State :=
  match (if (pgRow p).cell then cellCommand q.val p i off v else hubCommand q p i off v) with
  | some f => f s
  | none => writeValue p i off mask v s

-- The write

/-- A write to a register that its page defines, allowed by the lock and the log. -/
def writeDefined (q : Port) (p : Pg) (i off : Nat) (r : RegRow) (v : Word) (s : State) : State :=
  if off < 0x80 then writeCommon p i off v s else writeBlock q p i off r.mask v s

/-- An accepted write counts in `CHG`: a read-write register of the hub view, every applied write of the cell view (R62).
[DEDUCED, log 23] -/
def countedWrite (p : Pg) (i off : Nat) (r : RegRow) (f : State → State) (s : State) : State :=
  if countsItself p off || (!(pgRow p).cell && r.acc != .rw) then f s else staged p i f s

/-- An accepted change of a protected page is logged (R424): at once in the hub view, with the others of its bus-cycle boundary in
the cell view. [DEDUCED, log 34] -/
def loggedWrite (q : Port) (p : Pg) (i : Nat) (f : State → State) (s : State) : State :=
  if isProtected p = true ∧ accepts p i f s = true then
    let before := pageCrc s p i
    let t := protectedWrite (f s)
    if (pgRow p).cell then
      if t.sec.touched.any (fun x => x.1 == (pgRow p).cls) then t
      else modSec (fun x => { x with touched := x.touched ++ [((pgRow p).cls, q.val, before)] }) t
    else logChange q.val false (pgRow p).cls i before (pageCrc t p i) 1 t
  else f s

/-- Whether a write to a register is turned away whatever its value: a locked page (R62, R421), a read-only register (R62), a full
change log (R425). -/
def turnsAway (s : State) (p : Pg) (r : RegRow) : Bool := locked s p || r.acc == .ro || (isProtected p && logFull s)

/-- What such a write records. -/
def turnAway (p : Pg) (i : Nat) (r : RegRow) (s : State) : State :=
  if locked s p then recordErr p i 0x0002 s
  else if r.acc = .ro then recordErr p i 0x0003 s
  else refuseForLog p i s

/-- A write that acts as `f` on a register. -/
def actWrite (q : Port) (p : Pg) (i off : Nat) (r : RegRow) (f : State → State) (s : State) : State :=
  if turnsAway s p r then turnAway p i r s else loggedWrite q p i (countedWrite p i off r f) s

/-- Whether a key unlocks: that of the full session that is open (R421). -/
def keyFits (s : State) (key : Word) : Bool :=
  match s.sec.session with
  | some x => !x.limited && key == x.key
  | none => false

/-- A write to `UNLOCK` (R62, R421): ignored on a page that is not protected. -/
def writeUnlock (p : Pg) (key : Word) (s : State) : State :=
  if isProtected p then doIf (p == .saf && keyFits s key) (chg .saf 0) (unlockPage p key s) else s

/-- A write to register `off` of page `p`, instance `i`, that reached the module through port `q`; an offset that the page does not
define is ignored (R8). -/
def writeReg (q : Port) (p : Pg) (i off : Nat) (v : Word) (s : State) : State :=
  match regRow p off with
  | none => s
  | some r => if off = Reg.UNLOCK then writeUnlock p v s else actWrite q p i off r (writeDefined q p i off r v) s

/-- A W1C write to `IRQ_STAT` in the cycle in which hardware sets the bits `hwSet` (R64): they set whatever becomes of the write. -/
def writeIrqStat (q : Port) (p : Pg) (i : Nat) (v hwSet : Word) (s : State) : State :=
  match regRow p Reg.IRQ_STAT with
  | none => s
  | some r =>
    if turnsAway s p r then irqMask p i (hwSet &&& 0xFFFFFF0F) (turnAway p i r s)
    else actWrite q p i Reg.IRQ_STAT r (clearIrq p i v hwSet) s

/-- The change-log entries of the protected pages written at one bus-cycle boundary (R424, R431). [DEDUCED, log 34] -/
def flushLog (s : State) : State :=
  forEach s.sec.touched (fun x s => logChange x.2.1 true x.1 0 x.2.2 (pageCrc s .saf 0) 1 s) (modSec (fun y => { y with touched := [] }) s)

/-- A write to a page address of the hub view or the cell view (R60); an address that is not implemented is ignored. -/
def writeAddr (q : Port) (off : Nat) (v : Word) (s : State) : State :=
  match decodeWindow (decide (cellBase ≤ off)) (off % 0x400000) with
  | some a => writeReg q a.pg a.inst a.off v s
  | none => s

end Sys2Proof.Machine
end

