-- ==== Sys2Proof/Machine/Access.lean ====
section
/-! DEFINITION. Host accesses: the windows of BAR0, the staging FIFO, the private window, the bulk window BAR2, and the page
commands of the common layout (R46 to R71, R535). -/

namespace Sys2Proof.Machine

-- Access flags (R68)

/-- Bit of `MOD.ACCSTAT`, and counter of `MOD`, of each event (R68, R550). -/
def accHcmp : Nat := 0
def accCvote : Nat := 1
def accNomaj : Nat := 2
def accB2cmp : Nat := 3
def accBadacc : Nat := 4
def accPwrej : Nat := 5

/-- Change the host link. -/
def modLink (f : HostLink → HostLink) (s : State) : State := { s with link := f s.link }

/-- An access through port `q` sets flag `b`; `addr` is `ACCADDR` of the access, kept while any flag is 1 (R68). -/
def flagAccess (q : Port) (b addr : Nat) (s : State) : State :=
  count .mod 0 b (modLink (fun l => { l with
    accaddr := if l.accstat[q] = 0 then vset l.accaddr q (BitVec.ofNat 32 addr) else l.accaddr
    accstat := vset l.accstat q (setBit l.accstat[q] b true) }) s)

-- The windows (R48)

/-- The windows of BAR0. -/
inductive Window where
  | hub | cell | priv | none
  deriving DecidableEq, Repr

/-- The window of an offset. -/
def windowOf (off : Nat) : Window :=
  if off < cellBase then .hub else if off < privateBase then .cell else if off < 0xC00000 then .priv else .none

/-- A single, aligned DWORD access with all byte enables (R46). -/
def wellShaped (off : Nat) (whole : Bool) : Bool := whole && off % 4 == 0

-- Writes

/-- Whether the ports withhold credits (R55): the FIFO is full, or writes that stalled before still wait. -/
def withheld (s : State) : Bool := decide (256 ≤ s.link.fifo.length) || !s.link.stalled.isEmpty

/-- A posted write stalls (R55, R550). -/
def stall (w : PostedWrite) (s : State) : State := count .mod 0 6 (modLink (fun l => { l with stalled := l.stalled ++ [w] }) s)

/-- A cell-view write enters the staging FIFO (R53); ignored before the admission (R535). [DEDUCED, log 36] -/
def stageWrite (q : Port) (off : Nat) (v : Word) (s : State) : State :=
  if s.boot.admitted = false then recordErr .mod 0 0x0100 s
  else modLink (fun l => { l with fifo := l.fifo ++ [⟨q, off, v⟩] }) s

/-- The cartridge that the private window of a port selects (R58, R68). -/
def selected (s : State) (q : Port) : Option Cart := if (s.link.winsel[q]).toNat < 5 then some (fin5 (s.link.winsel[q]).toNat) else none

/-- A private-window offset as the selected cartridge's page layout decodes it: hub-view classes for a hub, cell-view for a lane (R58). -/
def privateAddr (c : Cart) (off : Nat) : Option RegAddr := decodeWindow (decide (c.val < 3)) (off % 0x400000)

/-- The key of a cartridge's own copy of a register. -/
def privKey (c : Cart) (a : RegAddr) : Nat := c.val * 2 ^ 24 + regKey a.pg a.inst a.off

/-- Whether the page is that of the cartridge's own spares (R463, R464). [DEDUCED, log 35] -/
def ownSpare (c : Cart) (a : RegAddr) : Bool := (a.pg == .lsp && a.inst == c.val) || (a.pg == .spr && a.inst + 3 == c.val)

/-- A fenced cartridge's own copy of a register (R59). -/
def ownReg (s : State) (c : Cart) (a : RegAddr) (off : Nat) : Word :=
  Sparse.get (regReset a.pg a.inst off) (privKey c { a with off := off }) s.priv

/-- Set it. -/
def setOwn (c : Cart) (a : RegAddr) (off : Nat) (v : Word) (s : State) : State :=
  { s with priv := Sparse.put (regReset a.pg a.inst off) (privKey c { a with off := off }) v s.priv }

/-- A fenced cartridge records an error in its own `ERR` (R62). -/
def ownErr (c : Cart) (a : RegAddr) (code : Nat) (s : State) : State :=
  let n := field (ownReg s c a Reg.ERR) 31 16
  setOwn c a Reg.IRQ_STAT (setBit (ownReg s c a Reg.IRQ_STAT) irqErr true)
    (setOwn c a Reg.ERR (BitVec.ofNat 32 (min (n + 1) 0xFFFF * 2 ^ 16 + code)) s)

/-- An accepted write of a read-write register counts in the cartridge's own `CHG` (R62). -/
def ownSet (c : Cart) (a : RegAddr) (v : Word) (s : State) : State :=
  setOwn c a Reg.CHG (ownReg s c a Reg.CHG + 1) (setOwn c a a.off v s)

/-- A block reset of a fenced cartridge's page (R566): what the window has written goes, but for `CHG` and `CNT_OVF`. -/
def ownReset (c : Cart) (a : RegAddr) (s : State) : State :=
  let lo := privKey c { a with off := 0 }
  { s with priv := s.priv.filter fun x => decide (x.1 < lo ∨ lo + 4096 ≤ x.1) || x.1 == lo + Reg.CHG || x.1 == lo + Reg.CNT_OVF }

/-- A write to a common register of a fenced cartridge (R59, R62). [DEDUCED, log 35] -/
def ownCommon (c : Cart) (a : RegAddr) (v : Word) (s : State) : State :=
  let r := pgRow a.pg
  if a.off = Reg.CTRL then
    if r.ctrlFixed && (!bit v 0 || bit v 1) then ownErr c a 0x0003 s
    else if bit v 1 then ownReset c a s
    else ownSet c a (v &&& 1) s
  else if a.off = Reg.MODE then
    if decide (2 ≤ field v 1 0) || (field v 1 0 == 1 && !r.assisted) then ownErr c a 0x0001 s else ownSet c a (v &&& 3) s
  else if a.off = Reg.IRQ_STAT ∨ a.off = Reg.CNT_OVF then setOwn c a a.off (ownReg s c a a.off &&& ~~~ v) s
  else if a.off = Reg.IRQ_SET then setOwn c a Reg.IRQ_STAT (ownReg s c a Reg.IRQ_STAT ||| (v &&& 0xFFFFFF0F)) s
  else if a.off = Reg.IRQ_EN then ownSet c a (v &&& 0xFFFFFF0F) s
  else if a.off = Reg.UNLOCK then s
  else ownSet c a (v &&& 0xFFFFFF) s

/-- A write that reaches a fenced cartridge (R59): its spare commands act (R464), its registers take it as R8, R9 and R62 say, and a
command to a function that the cartridge does not run has no effect. [DEDUCED, log 35] -/
def privateApply (c : Cart) (a : RegAddr) (v : Word) (s : State) : State :=
  match regRow a.pg a.off with
  | none => s
  | some r =>
    if locked s a.pg ∧ a.off ≠ Reg.UNLOCK then ownErr c a 0x0002 s
    else if r.acc = .ro then ownErr c a 0x0003 s
    else if a.off < 0x80 then ownCommon c a v s
    else if ownSpare c a ∧ a.off = Reg.LSP_CMD then refreshReady (writeSpareCmd c v s)
    else if r.acc = .rw then
      let w := stored a.pg a.off (v &&& r.mask)
      if inRange s a.pg a.inst a.off w then ownSet c a w s else ownErr c a 0x0004 s
    else s

/-- PRIVATE_WINDOW_WRITE (R59). -/
def privateWrite (q : Port) (off : Nat) (v : Word) (s : State) : State :=
  match selected s q with
  | none => s
  | some c =>
    if fenced s c = false then flagAccess q accPwrej off s
    else match privateAddr c off with
      | some a => privateApply c a v s
      | none => s

/-- Pages that a hub-view write can make report another `READY` note it (R62). [DESIGN CHOICE, log 10] -/
def settleReady (off : Nat) (s : State) : State :=
  match decodeWindow false off with
  | some a =>
    if a.pg = .mod then s
    else if a.pg = .spr ∨ a.pg = .crt ∨ a.pg = .cus then refreshReady s
    else noteReady a.pg a.inst s
  | none => s

/-- A BAR0 write through port `q`, once the port takes it (R46, R48). [DESIGN CHOICE, log 13] -/
def bar0Write (q : Port) (off : Nat) (v : Word) (whole : Bool) (s : State) : State :=
  if wellShaped off whole then
    match windowOf off with
    | .hub => settleReady off (writeAddr q off v s)
    | .cell => stageWrite q off v s
    | .priv => privateWrite q off v s
    | .none => s
  else flagAccess q accBadacc off s

/-- A BAR0 write by the host: it stalls while the port withholds credits (R55). -/
def hostWrite (q : Port) (off : Nat) (v : Word) (whole : Bool) (s : State) : State :=
  atPort q (fun s => if withheld s then stall (.bar0 q off v whole) s else bar0Write q off v whole s) s

-- Reads

/-- A hub-view read (R50): the reference hub's value; a difference of the other hub sets `HCMP` but for per-hub registers.
[DESIGN CHOICE, log 13] -/
def hubRead (q : Port) (off : Nat) (differs : Bool) (s : State) : State :=
  match decodeWindow false off with
  | none => returnRead q 0 s
  | some a =>
    let t := returnRead q (readReg s q s.clk.refHub a.pg a.inst a.off) (readEffect q a.pg a.inst a.off s)
    if differs && bothHubs s && !perHub a.pg a.off then flagAccess q accHcmp off t else t

/-- The lead, or the first lane in step. [DEDUCED, log 38] -/
def leadLane (s : State) : Option Lane :=
  match laneOfRole s .lead with
  | some l => some l
  | none => (lanesIn s).head?

/-- The vote of R57 over the values of the lanes in step: the value returned, and the flag that it sets. [DEDUCED, log 38] -/
def voteRead (lead : Word) : List Word → Word × Option Nat
  | [a, b, c] =>
    if a = b then (a, if a = c then none else some accCvote)
    else if a = c then (a, some accCvote)
    else if b = c then (b, some accCvote)
    else (lead, some accNomaj)
  | [a, b] => if a = b then (a, none) else (lead, some accNomaj)
  | [a] => (a, none)
  | _ => (0, some accNomaj)

/-- A cell-view read (R57, R535); lane `l` reads the register xor its mask.
[DEDUCED, log 8; DESIGN CHOICE, log 37; DEDUCED, log 38] -/
def cellRead (q : Port) (off : Nat) (masks : Vector Word 3) (s : State) : State :=
  if s.boot.admitted = false then flagAccess q accNomaj off (returnRead q 0 s)
  else match decodeWindow true (off % 0x400000) with
    | none => returnRead q 0 s
    | some a =>
      let v := readReg s q s.clk.refHub a.pg a.inst a.off
      let lead := match leadLane s with
        | some l => v ^^^ masks[l]
        | none => 0
      let r := voteRead lead ((lanesIn s).map fun l => v ^^^ masks[l])
      let t := returnRead q r.1 (readEffect q a.pg a.inst a.off s)
      match r.2 with
      | some b => flagAccess q b off t
      | none => t

/-- Whether a counter is lane-private (R59, R363 and the pages of `PLF`, `SDP`, `MNT`). -/
def lanePrivate (p : Pg) (off : Nat) : Bool :=
  let n := (off - Reg.CNT) / 4
  decide (Reg.CNT ≤ off) && decide (off < 0x80) &&
    match p with
    | .tds => decide (8 ≤ n) && (decide (n ≤ 10) || decide (13 ≤ n))
    | .plf => decide (13 ≤ n)
    | .sdp => decide (13 ≤ n)
    | .mnt => n == 13
    | _ => false

/-- Whether a lane-private counter counts what only the lane's timing shows: solver memory and FMA units, pacing, mantis pipelines
(R63, R293). It is a free value. [DESIGN CHOICE, log 37] -/
def freeCounter (p : Pg) (off : Nat) : Bool :=
  lanePrivate p off && (p == .plf || p == .mnt)

/-- Whether a hub's own value is a free one: an encoder that the hubs read differently, at the hub that is not the reference (R17, R50).
[DESIGN CHOICE, log 37] -/
def hubDiffers (s : State) (c : Cart) (a : RegAddr) : Bool :=
  match cartHub c with
  | some h => a.pg == .enc && decide (0x80 ≤ a.off) && perHub .enc a.off && bothHubs s && h != s.clk.refHub && decide (0 < (s.enc[fin16 a.inst]).disRun)
  | none => false

/-- A cartridge in step, or one that follows it, shows its own value: the shared one, but for lane-private counters and registers
(R59, R292, R362), its own self-test, and its own hub's counters and measurements (R50). [DEDUCED, log 35] -/
def liveValue (s : State) (q : Port) (c : Cart) (a : RegAddr) : Word :=
  if freeCounter a.pg a.off || hubDiffers s c a then Config.freeWord s.clk.free
  else match cartHub c with
  | some h => readReg s q h a.pg a.inst a.off
  | none =>
    if lanePrivate a.pg a.off then Sparse.get 0 (regKey a.pg a.inst a.off) s.lanePriv
    else if a.off = Reg.HEALTH then testWord s c
    else if a.pg = .tds ∧ a.off = Reg.TDS_LASTVOID then s.tds.lastVoid
    else if a.pg = .plf ∧ a.off = Reg.PLF_PROG then BitVec.ofNat 32 (b2n s.plf.fail * 2 ^ 15 + (s.plf.step * 2048 + s.plf.pos) % 2 ^ 15)
    else readReg s q s.clk.refHub a.pg a.inst a.off

/-- What the private window shows of a cartridge: nothing where it is absent or dark, its live values in step and while it follows the
step, else the registers it came up with and what the window has written (R58, R59). [DEDUCED, log 35; DESIGN CHOICE, log 37] -/
def privateValue (s : State) (q : Port) (c : Cart) (a : RegAddr) : Word :=
  let st := (s.carts[c]).st
  if st = .empty ∨ st = .off ∨ st = .power ∨ st = .silent then 0
  else if st = .instep ∨ st = .track ∨ st = .check then Sparse.get (liveValue s q c a) (privKey c a) s.priv
  else if ownSpare c a ∧ 0x80 ≤ a.off then readSpare s c a.off
  else if a.off = Reg.HEALTH then testWord s c
  else ownReg s c a a.off

/-- A private-window read (R48, R58). -/
def privateRead (q : Port) (off : Nat) (s : State) : State :=
  match selected s q with
  | none => returnRead q 0 s
  | some c =>
    match privateAddr c off with
    | none => returnRead q 0 s
    | some a =>
      returnRead q (privateValue s q c a) (if freeCounter a.pg a.off || hubDiffers s c a then (drawFree s).2 else s)

/-- A BAR0 read through port `q` (R46, R48); what the other hub and the lanes read beside it is an input. -/
def hostRead (q : Port) (off : Nat) (whole differs : Bool) (masks : Vector Word 3) (s : State) : State :=
  atPort q (fun s =>
    if wellShaped off whole then
      match windowOf off with
      | .hub => hubRead q off differs s
      | .cell => cellRead q off masks s
      | .priv => privateRead q off s
      | .none => returnRead q 0 s
    else flagAccess q accBadacc off (returnRead q 0 s)) s

-- BAR2 (R69 to R71)

/-- The bytes of BAR2 that a host write reaches (R69). -/
def writable (a : Nat) : Bool := decide (a < 0x180000) || (decide (0x4000000 ≤ a) && decide (a < 0xC000000))

/-- Write the bytes that lie in writable ranges. -/
def storeBytes (a : Nat) : List Byte → State → State
  | [], s => s
  | b :: r, s => storeBytes (a + 1) r (if writable a then setByte a b s else s)

/-- A BAR2 write, once the port takes it (R69, R70, R535). [DESIGN CHOICE, log 27] -/
def bulkWrite (off : Nat) (data : List Byte) (s : State) : State :=
  if s.boot.admitted = false then recordErr .mod 0 0x0100 s
  else if laneCount s = 0 then s
  else storeBytes off data s

/-- BAR2_WRITE: it stalls while the port withholds credits (R55). -/
def bar2Write (q : Port) (off : Nat) (data : List Byte) (s : State) : State :=
  atPort q (fun s => if withheld s then stall (.bar2 q off data) s else bulkWrite off data s) s

/-- STALLED_WRITE (R55): the oldest stalled write is taken once the FIFO has room; that of a port that is gone is lost.
[DEDUCED, log 36] -/
def unstall (s : State) : State :=
  if s.link.fifo.length < 256 then
    match s.link.stalled with
    | [] => s
    | w :: r =>
      let s := modLink (fun l => { l with stalled := r }) s
      match w with
      | .bar0 q off v whole => atPort q (bar0Write q off v whole) s
      | .bar2 q off data => atPort q (bulkWrite off data) s
  else s

/-- BAR2_READ (R71): the lead's memory; a difference of the second sets `B2CMP`. [DEDUCED, log 8] -/
def bar2Read (q : Port) (off len : Nat) (differs : Bool) (s : State) : State :=
  atPort q (fun s =>
    let t := modLink (fun l => { l with bulkData := vset l.bulkData q (memBytes s off len) }) s
    if differs && (laneOfRole s .second).isSome then flagAccess q accB2cmp (2 ^ 31 + off) t else t) s

-- Commands of the common page layout

/-- A command on the page at a BAR0 offset, in the hub view or the cell view; a page that is not implemented ignores it (R60).
[DESIGN CHOICE, log 26] -/
def onPage (page : Nat) (f : Pg → Nat → State → State) (s : State) : State :=
  if page < privateBase then
    match decodeWindow (decide (cellBase ≤ page)) (page % 0x400000) with
    | some a => f a.pg a.inst s
    | none => s
  else s

/-- The port of the open session, from which a write to an unlocked page comes; `HOST0` where no session is open.
[DESIGN CHOICE, log 26] -/
def sessionPort (s : State) : Port :=
  match s.sec.session with
  | some x => if x.src = 1 then 1 else 0
  | none => 0

/-- A write of `v` to register `off` of the page, applied (R62), with its entry in the change log (R424).
[DESIGN CHOICE, log 26] -/
def pageWrite (page off : Nat) (v : Word) (s : State) : State :=
  onPage page (fun p i s => flushLog (writeReg (sessionPort s) p i off v s)) s

-- Meanings

/-- HUB_VIEW_WRITE. -/
def execHubViewWrite (p : Port) (off : BitVec 24) (v : Word) (whole : Bool) (s : State) : Host.Outcome State Fault Refusal :=
  run (hostWrite p off.toNat v whole) s
/-- CELL_VIEW_WRITE. -/
def execCellViewWrite (p : Port) (off : BitVec 24) (v : Word) (whole : Bool) (s : State) : Host.Outcome State Fault Refusal :=
  run (hostWrite p off.toNat v whole) s
/-- STALLED_WRITE. -/
def execStalledWrite (s : State) : Host.Outcome State Fault Refusal := run unstall s
/-- PRIVATE_WINDOW_WRITE. -/
def execPrivateWindowWrite (p : Port) (off : BitVec 24) (v : Word) (whole : Bool) (s : State) : Host.Outcome State Fault Refusal :=
  run (hostWrite p off.toNat v whole) s
/-- WRITE_TO_READ_ONLY. -/
def execWriteToReadOnly (p : Port) (off : BitVec 24) (v : Word) (s : State) : Host.Outcome State Fault Refusal :=
  run (hostWrite p off.toNat v true) s
/-- HUB_VIEW_READ. -/
def execHubViewRead (p : Port) (off : BitVec 24) (whole differs : Bool) (s : State) : Host.Outcome State Fault Refusal :=
  run (hostRead p off.toNat whole differs (Vector.replicate 3 0)) s
/-- CELL_VIEW_READ. -/
def execCellViewRead (p : Port) (off : BitVec 24) (whole : Bool) (masks : Vector Word 3) (s : State) :
    Host.Outcome State Fault Refusal :=
  run (hostRead p off.toNat whole false masks) s
/-- BAR2_WRITE: no address exists past the end of BAR2 (R45). [DESIGN CHOICE, log 27] -/
def execBar2Write (p : Port) (off : BitVec 28) (data : List Byte) (s : State) : Host.Outcome State Fault Refusal :=
  if off.toNat + data.length ≤ barSize then run (bar2Write p off.toNat data) s else .fault .outsideBar
/-- BAR2_READ: no address exists past the end of BAR2 (R45). [DESIGN CHOICE, log 27] -/
def execBar2Read (p : Port) (off : BitVec 28) (len : BitVec 13) (differs : Bool) (s : State) : Host.Outcome State Fault Refusal :=
  if off.toNat + len.toNat ≤ barSize then run (bar2Read p off.toNat len.toNat differs) s else .fault .outsideBar
/-- SRST: a write of 1 to `CTRL.SRST`. -/
def execSrst (page : BitVec 24) (s : State) : Host.Outcome State Fault Refusal := run (pageWrite page.toNat Reg.CTRL 3) s
/-- CTRL_EN. -/
def execCtrlEn (page : BitVec 24) (en : Bool) (s : State) : Host.Outcome State Fault Refusal :=
  run (pageWrite page.toNat Reg.CTRL (BitVec.ofNat 32 (b2n en))) s
/-- MODE_SEL. -/
def execModeSel (page : BitVec 24) (sel : BitVec 2) (s : State) : Host.Outcome State Fault Refusal :=
  run (pageWrite page.toNat Reg.MODE (sel.setWidth 32)) s
/-- IRQ_STAT_CLEAR. -/
def execIrqStatClear (page : BitVec 24) (v hwSet : Word) (s : State) : Host.Outcome State Fault Refusal :=
  run (onPage page.toNat fun p i s => flushLog (writeIrqStat (sessionPort s) p i v hwSet s)) s
/-- IRQ_SET. -/
def execIrqSet (page : BitVec 24) (v : Word) (s : State) : Host.Outcome State Fault Refusal :=
  run (pageWrite page.toNat Reg.IRQ_SET v) s
/-- UNLOCK. -/
def execUnlock (page : BitVec 24) (key : Word) (s : State) : Host.Outcome State Fault Refusal :=
  run (pageWrite page.toNat Reg.UNLOCK key) s
/-- NOW_LO_READ: `dt` cell-clock edges after the last event. -/
def execNowLoRead (dt : Nat) (p : Port) (s : State) : Host.Outcome State Fault Refusal :=
  run (fun s => hostRead p (regKey .tb 0 Reg.TB_NOW_LO) true false (Vector.replicate 3 0) (advance dt s)) s
/-- LINE_LO_READ. -/
def execLineLoRead (p : Port) (s : State) : Host.Outcome State Fault Refusal :=
  run (hostRead p (regKey .tb 0 Reg.TB_LINE_LO) true false (Vector.replicate 3 0)) s
/-- SWRST: an applied write to `SAF.SWRST` (R418). -/
def execSwrst (v : Word) (s : State) : Host.Outcome State Fault Refusal :=
  run (pageWrite (pageAddr .saf 0) Reg.SAF_SWRST v) s

end Sys2Proof.Machine
end

