-- ==== Sys2Proof/Machine/Cycle.lean ====
section
/-! DEFINITION. The bus cycle: the sync instant, the staging cut-off, the feedback instant, the plan-cycle start, the 1 µs tick, and
the events of the converters and the SSI channels that these grids place (R33, R54, R74, R132, R232, R356, R472, R512, R515). -/

namespace Sys2Proof.Machine

-- The sync instant (R74)

/-- CYCLE_TAG_ASSIGNMENT (R33, R74, R191): cell time reaches T_s + n × the bus cycle; the first sync instant carries the tag that its
start-up placed, 0 and T_s at the present instant where none did. The single-hub flag of the cycle's bundle starts anew (R18, R19).
[DEDUCED, log 102] -/
def assignTag (s : State) : State :=
  let c := s.clk
  let c := if c.running then c else { c with running := true, started := false, ts := c.now, tag := 0, tag0 := 0 }
  let tag := if c.started then c.tag + 1 else c.tag
  let s := { s with clk := { c with started := true, tag := tag, single := !bothHubs s } }
  advanceTo (syncAt s tag) s

/-- STAGED_WRITES_APPLIED (R54, R56): the entries of the bundle act in FIFO order, then their change-log entries follow (R424). -/
def applyBundle (s : State) : State :=
  flushLog (forEach s.link.bundle (fun w s => writeAddr w.port w.off w.val s) (modLink (fun l => { l with bundle := [] }) s))

/-- Line frames of tracking arms (R220): they freeze with the phase, and go on once `EN` is set again and no ring halted.
[DEDUCED, log 21] -/
def lineFrames (s : State) : State :=
  if s.line.valid = false then freezeLine true s
  else if lineEn s then
    forEach allArms (fun a s =>
      if (s.ring[a]).halt = 0 then modRing a (fun g => { g with tracking := g.tracking.map fun f => { f with frozen := none } }) s
      else s) s
  else freezeLine false s

/-- What is counted per bus cycle starts anew: feedback received, demands voted, results released long ago. -/
def beginCycle (s : State) : State :=
  let s := { s with sdp := { s.sdp with fb := s.sdp.fb.map fun f => { f with present := false } } }
  let s := modSaf (fun u => { u with demanded := 0 }) s
  modTds (fun d => { d with released := d.released.filter fun x => decide (s.clk.tag.toNat < x.2.1.tag.toNat + 256) }) s

/-- What the cycle that ends still owes: the last slot, the envelope and the still count of every arm (R163, R402, R403). -/
def endCycle (s : State) : State :=
  forEach allArms (fun a s => stillStep a (envelopeTest a s)) (wlCycleEnd s)

/-- The arms and the datapath at the sync instant (R330, R343, R401). -/
def armsSync (s : State) : State :=
  let s := datapathSync (applyHostTorque s)
  forEach allArms (fun a s => tickProfile a (startSs1 a s)) s

/-- The hubs sample and steer at the sync instant (R84, R95, R96, R477, R498, R506, R515). -/
def sampleSync (encDis : BitVec 16) (lineDis : Bool) (s : State) : State :=
  let s := lineSample lineDis (lineLoadSync (encSyncAll encDis (servoSync (ptpQualify 1 (ptpQualify 0 s)))))
  let s := forEach allPrg genSync s
  let s := forEach allSixteen (fun n s => if fld s .stp n Reg.STP_CFG 1 0 = 2 then formReferences n s else s) s
  adcTrigger 1 0 0 (lineFrames s)

/-- The cartridges at the sync instant (R32, R445, R446, R447). -/
def cartsSync (s : State) : State := hubSync 1 (hubSync 0 (fenceHubs (roleSync s)))

/-- What the input bundle of the sync instant holds for the path sampler and Plefin: the levels of the safety inputs (R212) and the line
phase (R251). -/
def latchBundle (s : State) : State :=
  let on := BitVec.ofNat 16 (((List.range 16).filter (inputOn s)).foldl (fun m i => m + 2 ^ i) 0)
  modPlf (fun x => { x with phases := (linePhase s :: x.phases).take 5 }) (modSaf (fun u => { u with inSync := on }) s)

/-- An arm that has come to rest begins the wait before it, or reports the malformed record (R212, R223). -/
def restStep (a : Arm) (s : State) : State := settleBad a (startWait a s)

/-- SYNC_INSTANT (R74). [DESIGN CHOICE, log 3; DEDUCED, log 22] -/
def syncInstant (encDis : BitVec 16) (lineDis : Bool) (s : State) : State :=
  let first := !s.clk.running || !s.clk.started
  let s := assignTag (if first then s else endCycle s)
  let s := applyBundle (wlCycleBegin first s)
  let s := htSync (armsSync (cartsSync s))
  let s := latchBundle (noteChannels (outputsSync (sampleSync encDis lineDis s)))
  refreshReady (beginCycle (forEach allArms restStep s))

-- Within the cycle

/-- SDP_HA_LATE (R343): an application without `HA_SEQ` in host-assisted mode. [DEDUCED, log 30] -/
def torqueLate (s : State) : State :=
  if assisted s .sdp 0 && !s.sdp.haSeq && !(s.link.bundle.any fun w => w.off == regKey .sdp 0 Reg.SDP_HA_SEQ) then haLate .sdp 0 3 s else s

/-- STAGING_CUT_OFF (R54): at the start of the symbol window the FIFO goes into the input bundle. -/
def stagingCutOff (s : State) : State :=
  let s := match wlBank s with
    | some b => if s.clk.started then advanceTo (intoCycle s (symStart b)) s else s
    | none => s
  torqueLate (modLink (fun l => { l with bundle := l.bundle ++ l.fifo, fifo := [] }) s)

/-- Whether an arm's feedback of this cycle counts as lost (R405): its frame absent, or a present joint with `VALID` = 0. -/
def feedbackLost (s : State) (a : Arm) : Bool :=
  !(s.sdp.fb[a]).present || (presentJoints s a).any fun j => !bit (s.sdp.joint[j]).rxBits 0

/-- FEEDBACK_INSTANT (R132, R405, R525). -/
def feedbackInstant (s : State) : State :=
  let s := match wlBank s with
    | some b => if s.clk.started then advanceTo (intoCycle s (1000 * feedbackUs s b)) s else s
    | none => s
  let s := forEach allArms (fun a s =>
    if (armModel s a).isSome then
      { s with sdp := { s.sdp with fb := vmod s.sdp.fb a fun f => { f with lost := if feedbackLost s a then f.lost + 1 else 0 } } }
    else s) s
  adcFeedback s

/-- PLAN_CYCLE_START (R232): at a sync instant whose tag is a multiple of p. -/
def planCycleStart (s : State) : State :=
  if planStarts s then lanePlanStart 2 (lanePlanStart 1 (lanePlanStart 0 (fenceLanes (planStart s)))) else s

/-- Nanoseconds of the running bus cycle that have passed; 0 before the first. -/
def elapsedNs (s : State) : Nat :=
  if s.clk.started then (s.clk.now - intoCycle s 0) / 2 ^ 32 else 0

/-- TICK (R356): the next whole microsecond of cell time. [DESIGN CHOICE, log 3] -/
def tick (s : State) : State :=
  let s := advanceTo ((nsOf s / 1000 + 1) * 1000 * 2 ^ 32) s
  let s := insertionTick (ffyPhaseSteps (evalLine s))
  let s := forEach allPrg (fun n s => genTick (busNs s) (elapsedNs s) n s) s
  forEach allSixteen stpTick s

/-- SYNC_INSTANT. -/
def execSyncInstant (encDis : BitVec 16) (lineDis : Bool) (s : State) : Host.Outcome State Fault Refusal :=
  run (syncInstant encDis lineDis) s
/-- STAGING_CUT_OFF. -/
def execStagingCutOff (s : State) : Host.Outcome State Fault Refusal := run stagingCutOff s
/-- FEEDBACK_INSTANT. -/
def execFeedbackInstant (s : State) : Host.Outcome State Fault Refusal := run feedbackInstant s
/-- PLAN_CYCLE_START. -/
def execPlanCycleStart (s : State) : Host.Outcome State Fault Refusal := runReady planCycleStart s
/-- TICK. -/
def execTick (s : State) : Host.Outcome State Fault Refusal := run tick s
/-- SSI_DELAY_MEASUREMENT. -/
def execSsiDelayMeasurement (n : Sixteen) (delays : List (Option Nat)) (s : State) : Host.Outcome State Fault Refusal :=
  runReady (ssiMeasured n delays) s
/-- REMEASURE. -/
def execRemeasure (n : Sixteen) (s : State) : Host.Outcome State Fault Refusal := runReady (writeEncCmd n 4) s
/-- CONVERSION, `dt` cell-clock edges after the last event. -/
def execConversion (dt : Nat) (p : AdcPair) (c : Fin 2) (s : State) : Host.Outcome State Fault Refusal :=
  run (fun s => conversion (busNs s) p c (advance dt s)) s
/-- TEST_PULSE_MIDPOINT (R515): of the pulse that runs. -/
def testMidpoint (o : Sixteen) (channel : Fin 2) (s : State) : State :=
  match s.saf.test with
  | some (x, y, _) => if x = o.val ∧ y = channel.val then adcTrigger 3 o 20 s else s
  | none => s
/-- TEST_PULSE_MIDPOINT. -/
def execTestPulseMidpoint (o : Sixteen) (channel : Fin 2) (s : State) : Host.Outcome State Fault Refusal := run (testMidpoint o channel) s

end Sys2Proof.Machine
end

