-- ==== Sys2Proof/Machine/Events.lean ====
section
/-! DEFINITION. The meanings of the commands after which pages may report another `READY`: cartridges, spares, banks, Wearline,
converters, resets (R62). -/

namespace Sys2Proof.Machine

/-- The meaning of a command that can end a node's training: the `WLC` pages note their `READY` (R62, R125).
[DESIGN CHOICE, log 10] -/
def runWlc (f : State → State) (s : State) : Host.Outcome State Fault Refusal :=
  run (fun s => noteReady .wlc 1 (noteReady .wlc 0 (f s))) s

/-- SILENT. -/
def execSilent (h : Hub) (s : State) : Host.Outcome State Fault Refusal := runReady (silent h) s
/-- SILENT_HUB_DETECTED. -/
def execSilentHubDetected (x : HubSilence) (s : State) : Host.Outcome State Fault Refusal := runReady (silentDetected x.hub x.receiver) s
/-- REFERENCE_TAKEOVER. -/
def execReferenceTakeover (s : State) : Host.Outcome State Fault Refusal := runReady takeover s
/-- VERDICT. -/
def execVerdict (wrong0 wrong1 : BitVec 3) (s : State) : Host.Outcome State Fault Refusal := runReady (verdict wrong0 wrong1) s
/-- CUSTODIAN_RETURN. -/
def execCustodianReturn (c : Hub) (s : State) : Host.Outcome State Fault Refusal := runReady (custodianReturn c) s
/-- CUSTODIAN_READMIT. -/
def execCustodianReadmit (c : Hub) (s : State) : Host.Outcome State Fault Refusal := runReady (custodianReadmit c) s
/-- HUB_JOIN. -/
def execHubJoin (h : Hub) (s : State) : Host.Outcome State Fault Refusal := runReady (hubJoin h) s
/-- MOLT_COMPLETE. -/
def execMoltComplete (c : Cart) (s : State) : Host.Outcome State Fault Refusal := runReady (moltComplete c) s
/-- POWEROFF. -/
def execPoweroff (c : Cart) (s : State) : Host.Outcome State Fault Refusal := runReady (powerOff c) s
/-- CARTRIDGE_INSERTED. -/
def execCartridgeInserted (c : Cart) (s : State) : Host.Outcome State Fault Refusal := runReady (inserted c) s
/-- CARTRIDGE_REMOVED. -/
def execCartridgeRemoved (c : Cart) (s : State) : Host.Outcome State Fault Refusal := runReady (removed c) s
/-- LEVER_OPENED. -/
def execLeverOpened (c : Cart) (s : State) : Host.Outcome State Fault Refusal := runReady (leverOpened c) s
/-- LEVER_CLOSED. -/
def execLeverClosed (c : Cart) (s : State) : Host.Outcome State Fault Refusal := runReady (leverClosed c) s
/-- SELFTEST_COMPLETE. -/
def execSelftestComplete (c : Cart) (failed : List (Nat × Nat)) (fwOk : Bool) (s : State) : Host.Outcome State Fault Refusal :=
  runReady (selftest c failed fwOk) s
/-- THERMAL_STOP. -/
def execThermalStop (c : Cart) (s : State) : Host.Outcome State Fault Refusal := runReady (thermalStop c) s
/-- THERMAL_RECOVERY. -/
def execThermalRecovery (c : Cart) (s : State) : Host.Outcome State Fault Refusal := runReady (thermalRecovery c) s
/-- SOLDIER_BLOCK. -/
def execSoldierBlock (h : Hub) (ch : Chan) (s : State) : Host.Outcome State Fault Refusal := runReady (soldierBlock h ch) s
/-- SOLDIER_CUT. -/
def execSoldierCut (h : Hub) (ch : Chan) (s : State) : Host.Outcome State Fault Refusal := runReady (soldierCut h ch) s
/-- SOLDIER_OSCILLATOR_FAILURE. -/
def execSoldierOscillatorFailure (h : Hub) (ch : Chan) (s : State) : Host.Outcome State Fault Refusal := runReady (oscillatorFailure h ch) s
/-- SPARE_REMAP_COMMAND. -/
def execSpareRemapCommand (c : Cart) (unit : BitVec 4) (index : BitVec 6) (s : State) : Host.Outcome State Fault Refusal :=
  runReady (remapCommand c unit.toNat index.toNat) s
/-- CLEAR_REMAP. -/
def execClearRemap (c : Cart) (s : State) : Host.Outcome State Fault Refusal := runReady (clearRemaps c) s
/-- IMAGE_LOAD_COMPLETE. -/
def execImageLoadComplete (s : State) : Host.Outcome State Fault Refusal := runReady imageLoadComplete s
/-- PATTERN_BANK_SWITCH. -/
def execPatternBankSwitch (s : State) : Host.Outcome State Fault Refusal := runReady patternSwitch s
/-- KERNEL_BANK_SWITCH. -/
def execKernelBankSwitch (s : State) : Host.Outcome State Fault Refusal := runReady kernelSwitch s
/-- MANTIS_BANK_SWITCH. -/
def execMantisBankSwitch (s : State) : Host.Outcome State Fault Refusal := runReady mantisSwitch s
/-- EPOCH_SWITCH. -/
def execEpochSwitch (s : State) : Host.Outcome State Fault Refusal := runReady epochBankSwitch s
/-- CONSOLIDATION. -/
def execConsolidation (s : State) : Host.Outcome State Fault Refusal := runReady consolidation s
/-- CONSOLIDATION_EXIT. -/
def execConsolidationExit (s : State) : Host.Outcome State Fault Refusal := runReady consolidationExit s
/-- BOTHLOST. -/
def execBothLost (s : State) : Host.Outcome State Fault Refusal := runReady bothLost s
/-- TXFAULT. -/
def execTxFault (h : Hub) (ch : Chan) (s : State) : Host.Outcome State Fault Refusal := runReady (txFault h ch) s
/-- TRAINING_COMPLETE. -/
def execTrainingComplete (ch : Chan) (n : NodeNo) (s : State) : Host.Outcome State Fault Refusal := runReady (trainingComplete ch n.val) s
/-- RETRAIN_CLEAR. -/
def execRetrainClear (ch : Chan) (index : NodeNo) (all : Bool) (s : State) : Host.Outcome State Fault Refusal :=
  runReady (retrain ch index.val all true) s
/-- CALIBRATION. -/
def execCalibration (p : AdcPair) (c : Fin 2) (s : State) : Host.Outcome State Fault Refusal := runReady (calibration p c) s
/-- CALIBRATION_COMPLETE. -/
def execCalibrationComplete (p : AdcPair) (c : Fin 2) (ok : Bool) (s : State) : Host.Outcome State Fault Refusal :=
  runReady (calibrationComplete p c ok) s
/-- CAL. -/
def execCal (p : AdcPair) (s : State) : Host.Outcome State Fault Refusal := runReady (writeCal p) s
/-- CONVERSION_COMPLETE. -/
def execConversionComplete (dt : Nat) (p : AdcPair) (c : Fin 2) (code other : BitVec 12) (s : State) :
    Host.Outcome State Fault Refusal :=
  runReady (fun s => conversionComplete p c code other (advance dt s)) s
/-- RESET_PULSE. -/
def execResetPulse (dt : Nat) (x : ResetEdge) (s : State) : Host.Outcome State Fault Refusal :=
  runReady (fun s => resetFall x.input x.differs (advance dt s)) s
/-- SERVICE_WINDOW_EXPIRY. -/
def execServiceWindowExpiry (s : State) : Host.Outcome State Fault Refusal := runReady svcExpiry s
/-- LISTEN_TIMER_EXPIRY. -/
def execListenTimerExpiry (x : ListenEnd) (s : State) : Host.Outcome State Fault Refusal := runReady (listenExpiry x.loopBad x.foreign) s
/-- FRAME_RECEIVED. -/
def execFrameReceived (dt : Nat) (ch : Chan) (fid : BitVec 10) (rx0 rx1 : Reception) (s : State) : Host.Outcome State Fault Refusal :=
  runWlc (frameReceived dt ch fid.toNat rx0 rx1) s
/-- STATIC_SLOT. -/
def execStaticSlot (k : BitVec 8) (loopBad : BitVec 4) (s : State) : Host.Outcome State Fault Refusal := runWlc (staticSlot k.toNat loopBad) s

end Sys2Proof.Machine
end

