-- ==== Sys2Proof/Machine/Dispatch.lean ====
section
/-! DEFINITION. One arm per command: each calls its meaning. -/

namespace Sys2Proof.Machine

/-- The effect of a command on everything but the queue. -/
def exec (i : Instr) (s : State) : Host.Outcome State Fault Refusal :=
  match i with
  | .syncInstant encDis lineDis => Sys2Proof.Machine.execSyncInstant encDis lineDis s
  | .silent h => Sys2Proof.Machine.execSilent h s
  | .silentHubDetected x => Sys2Proof.Machine.execSilentHubDetected x s
  | .referenceTakeover => Sys2Proof.Machine.execReferenceTakeover s
  | .frameReceived dt ch fid rx0 rx1 => Sys2Proof.Machine.execFrameReceived dt ch fid rx0 rx1 s
  | .inputBundle l h tag crcOk => Sys2Proof.Machine.execInputBundle l h tag crcOk s
  | .staticSlot slot loopBad => Sys2Proof.Machine.execStaticSlot slot loopBad s
  | .minislot x => Sys2Proof.Machine.execMinislot x s
  | .hostBufferCutOff => Sys2Proof.Machine.execHostBufferCutOff s
  | .symbolWindow loopBad => Sys2Proof.Machine.execSymbolWindow loopBad s
  | .stagingCutOff => Sys2Proof.Machine.execStagingCutOff s
  | .feedbackInstant => Sys2Proof.Machine.execFeedbackInstant s
  | .mantisPass => Sys2Proof.Machine.execMantisPass s
  | .guardSourceLost src => Sys2Proof.Machine.execGuardSourceLost src s
  | .servoPhaseA => Sys2Proof.Machine.execServoPhaseA s
  | .servoPhaseB => Sys2Proof.Machine.execServoPhaseB s
  | .kernelCycleLimit c => Sys2Proof.Machine.execKernelCycleLimit c s
  | .identificationUpdate a => Sys2Proof.Machine.execIdentificationUpdate a s
  | .planCycleStart => Sys2Proof.Machine.execPlanCycleStart s
  | .warmStart => Sys2Proof.Machine.execWarmStart s
  | .interiorPointStep => Sys2Proof.Machine.execInteriorPointStep s
  | .progressWord l word fail => Sys2Proof.Machine.execProgressWord l word fail s
  | .deadlineAgreement => Sys2Proof.Machine.execDeadlineAgreement s
  | .timeScaleStop a => Sys2Proof.Machine.execTimeScaleStop a s
  | .timeScaleStopEnd a => Sys2Proof.Machine.execTimeScaleStopEnd a s
  | .tailExhausted a => Sys2Proof.Machine.execTailExhausted a s
  | .patternBankSwitch => Sys2Proof.Machine.execPatternBankSwitch s
  | .kernelBankSwitch => Sys2Proof.Machine.execKernelBankSwitch s
  | .mantisBankSwitch => Sys2Proof.Machine.execMantisBankSwitch s
  | .epochSwitch => Sys2Proof.Machine.execEpochSwitch s
  | .consolidationDecision => Sys2Proof.Machine.execConsolidationDecision s
  | .consolidation => Sys2Proof.Machine.execConsolidation s
  | .consolidationExit => Sys2Proof.Machine.execConsolidationExit s
  | .bothLost => Sys2Proof.Machine.execBothLost s
  | .trainingComplete ch n => Sys2Proof.Machine.execTrainingComplete ch n s
  | .txFault h ch => Sys2Proof.Machine.execTxFault h ch s
  | .soldierBlock h ch => Sys2Proof.Machine.execSoldierBlock h ch s
  | .soldierCut h ch => Sys2Proof.Machine.execSoldierCut h ch s
  | .soldierOscillatorFailure h ch => Sys2Proof.Machine.execSoldierOscillatorFailure h ch s
  | .listenTimerExpiry x => Sys2Proof.Machine.execListenTimerExpiry x s
  | .normalOperation => Sys2Proof.Machine.execNormalOperation s
  | .configurationResponse r => Sys2Proof.Machine.execConfigurationResponse r s
  | .configurationTimeout => Sys2Proof.Machine.execConfigurationTimeout s
  | .tick => Sys2Proof.Machine.execTick s
  | .timeListFire => Sys2Proof.Machine.execTimeListFire s
  | .phaseListFire => Sys2Proof.Machine.execPhaseListFire s
  | .operand tmpl inst idx tag value => Sys2Proof.Machine.execOperand tmpl inst idx tag value s
  | .combRefill => Sys2Proof.Machine.execCombRefill s
  | .entryExpiry tmpl inst tag => Sys2Proof.Machine.execEntryExpiry tmpl inst tag s
  | .taskDispatch cls unit => Sys2Proof.Machine.execTaskDispatch cls unit s
  | .taskCompletion cls unit data => Sys2Proof.Machine.execTaskCompletion cls unit data s
  | .orderedFlowRelease flow dev => Sys2Proof.Machine.execOrderedFlowRelease flow dev s
  | .safetyVote d => Sys2Proof.Machine.execSafetyVote d s
  | .digestWindowClose dev sent => Sys2Proof.Machine.execDigestWindowClose dev sent s
  | .laneVote => Sys2Proof.Machine.execLaneVote s
  | .verdict wrong0 wrong1 => Sys2Proof.Machine.execVerdict wrong0 wrong1 s
  | .custodianReturn c => Sys2Proof.Machine.execCustodianReturn c s
  | .hubViewWrite p off v whole => Sys2Proof.Machine.execHubViewWrite p off v whole s
  | .cellViewWrite p off v whole => Sys2Proof.Machine.execCellViewWrite p off v whole s
  | .stalledWrite => Sys2Proof.Machine.execStalledWrite s
  | .privateWindowWrite p off v whole => Sys2Proof.Machine.execPrivateWindowWrite p off v whole s
  | .writeToReadOnly p off v => Sys2Proof.Machine.execWriteToReadOnly p off v s
  | .hubViewRead p off whole differs => Sys2Proof.Machine.execHubViewRead p off whole differs s
  | .cellViewRead p off whole masks => Sys2Proof.Machine.execCellViewRead p off whole masks s
  | .bar2Write p off data => Sys2Proof.Machine.execBar2Write p off data s
  | .bar2Read p off len differs => Sys2Proof.Machine.execBar2Read p off len differs s
  | .srst page => Sys2Proof.Machine.execSrst page s
  | .ctrlEn page en => Sys2Proof.Machine.execCtrlEn page en s
  | .modeSel page sel => Sys2Proof.Machine.execModeSel page sel s
  | .irqStatClear page v hwSet => Sys2Proof.Machine.execIrqStatClear page v hwSet s
  | .irqSet page v => Sys2Proof.Machine.execIrqSet page v s
  | .unlock page key => Sys2Proof.Machine.execUnlock page key s
  | .perst p => Sys2Proof.Machine.execPerst p s
  | .nowLoRead dt p => Sys2Proof.Machine.execNowLoRead dt p s
  | .lineLoRead p => Sys2Proof.Machine.execLineLoRead p s
  | .ptpMessage dt e m => Sys2Proof.Machine.execPtpMessage dt e m s
  | .ptpTransmit dt e kind => Sys2Proof.Machine.execPtpTransmit dt e kind s
  | .announceReceiptTimeout e => Sys2Proof.Machine.execAnnounceReceiptTimeout e s
  | .offsetSample e offset mpd => Sys2Proof.Machine.execOffsetSample e offset mpd s
  | .stepAck v => Sys2Proof.Machine.execStepAck v s
  | .haOfs v => Sys2Proof.Machine.execHaOfs v s
  | .haRate v => Sys2Proof.Machine.execHaRate v s
  | .tbHaWindowExpiry => Sys2Proof.Machine.execTbHaWindowExpiry s
  | .lineCfg v => Sys2Proof.Machine.execLineCfg v s
  | .lineLoad => Sys2Proof.Machine.execLineLoad s
  | .linkChange e up master => Sys2Proof.Machine.execLinkChange e up master s
  | .reneg e => Sys2Proof.Machine.execReneg e s
  | .managementConnection src authenticated => Sys2Proof.Machine.execManagementConnection src authenticated s
  | .retrain ch index all => Sys2Proof.Machine.execRetrain ch index all s
  | .retrainClear ch index all => Sys2Proof.Machine.execRetrainClear ch index all s
  | .wlsGo => Sys2Proof.Machine.execWlsGo s
  | .consEnter keep => Sys2Proof.Machine.execConsEnter keep s
  | .consExit => Sys2Proof.Machine.execConsExit s
  | .hbCfg v => Sys2Proof.Machine.execHbCfg v s
  | .hbDataWrite v => Sys2Proof.Machine.execHbDataWrite v s
  | .hbDataRead p => Sys2Proof.Machine.execHbDataRead p s
  | .rxDataRead p => Sys2Proof.Machine.execRxDataRead p s
  | .rxPop => Sys2Proof.Machine.execRxPop s
  | .moveJ a r => Sys2Proof.Machine.execMoveJ a r s
  | .moveL a r => Sys2Proof.Machine.execMoveL a r s
  | .moveC a r => Sys2Proof.Machine.execMoveC a r s
  | .via a r => Sys2Proof.Machine.execVia a r s
  | .waitTime a r => Sys2Proof.Machine.execWaitTime a r s
  | .waitPhase a r => Sys2Proof.Machine.execWaitPhase a r s
  | .waitInput a r => Sys2Proof.Machine.execWaitInput a r s
  | .setOutput a r => Sys2Proof.Machine.execSetOutput a r s
  | .trackLine a r => Sys2Proof.Machine.execTrackLine a r s
  | .releaseLine a r => Sys2Proof.Machine.execReleaseLine a r s
  | .speed a r => Sys2Proof.Machine.execSpeed a r s
  | .tool a r => Sys2Proof.Machine.execTool a r s
  | .rendezvous a r => Sys2Proof.Machine.execRendezvous a r s
  | .segment a r => Sys2Proof.Machine.execSegment a r s
  | .endRec a r => Sys2Proof.Machine.execEndRec a r s
  | .recordCompletion a => Sys2Proof.Machine.execRecordCompletion a s
  | .waitTimeEnd a => Sys2Proof.Machine.execWaitTimeEnd a s
  | .waitPhaseEnd a => Sys2Proof.Machine.execWaitPhaseEnd a s
  | .waitInputEnd a => Sys2Proof.Machine.execWaitInputEnd a s
  | .waitTimeout a => Sys2Proof.Machine.execWaitTimeout a s
  | .rendezvousCompletion a => Sys2Proof.Machine.execRendezvousCompletion a s
  | .wrIdx a v => Sys2Proof.Machine.execWrIdx a v s
  | .rptRd a v => Sys2Proof.Machine.execRptRd a v s
  | .flush a => Sys2Proof.Machine.execFlush a s
  | .resume a => Sys2Proof.Machine.execResume a s
  | .abort a => Sys2Proof.Machine.execAbort a s
  | .armSrst a => Sys2Proof.Machine.execArmSrst a s
  | .armSrstCompletion a => Sys2Proof.Machine.execArmSrstCompletion a s
  | .preset a => Sys2Proof.Machine.execPreset a s
  | .kinHaWindowExpiry a => Sys2Proof.Machine.execKinHaWindowExpiry a s
  | .plfGo => Sys2Proof.Machine.execPlfGo s
  | .tolHi v => Sys2Proof.Machine.execTolHi v s
  | .floorHi v => Sys2Proof.Machine.execFloorHi v s
  | .pdata v => Sys2Proof.Machine.execPdata v s
  | .pcommit v => Sys2Proof.Machine.execPcommit v s
  | .sdpGo => Sys2Proof.Machine.execSdpGo s
  | .haSeq v => Sys2Proof.Machine.execHaSeq v s
  | .nop c => Sys2Proof.Machine.execNop c s
  | .endKernel c => Sys2Proof.Machine.execEndKernel c s
  | .loop c x => Sys2Proof.Machine.execLoop c x s
  | .br c ofs => Sys2Proof.Machine.execBr c ofs s
  | .brt c ofs => Sys2Proof.Machine.execBrt c ofs s
  | .brf c ofs => Sys2Proof.Machine.execBrf c ofs s
  | .setrot c en => Sys2Proof.Machine.execSetrot c en s
  | .rot c => Sys2Proof.Machine.execRot c s
  | .macSS c x => Sys2Proof.Machine.execMacSS c x s
  | .macSU c x => Sys2Proof.Machine.execMacSU c x s
  | .macUU c x => Sys2Proof.Machine.execMacUU c x s
  | .msuSS c x => Sys2Proof.Machine.execMsuSS c x s
  | .mpySS c x => Sys2Proof.Machine.execMpySS c x s
  | .mpySU c x => Sys2Proof.Machine.execMpySU c x s
  | .mpyUU c x => Sys2Proof.Machine.execMpyUU c x s
  | .mov c x => Sys2Proof.Machine.execMov c x s
  | .add c x => Sys2Proof.Machine.execAdd c x s
  | .sub c x => Sys2Proof.Machine.execSub c x s
  | .adds c x => Sys2Proof.Machine.execAdds c x s
  | .subs c x => Sys2Proof.Machine.execSubs c x s
  | .and c x => Sys2Proof.Machine.execAnd c x s
  | .or c x => Sys2Proof.Machine.execOr c x s
  | .xor c x => Sys2Proof.Machine.execXor c x s
  | .shl c x => Sys2Proof.Machine.execShl c x s
  | .shra c x => Sys2Proof.Machine.execShra c x s
  | .shrl c x => Sys2Proof.Machine.execShrl c x s
  | .min c x => Sys2Proof.Machine.execMin c x s
  | .max c x => Sys2Proof.Machine.execMax c x s
  | .abs c x => Sys2Proof.Machine.execAbs c x s
  | .neg c x => Sys2Proof.Machine.execNeg c x s
  | .cmplt c x => Sys2Proof.Machine.execCmplt c x s
  | .cmpltu c x => Sys2Proof.Machine.execCmpltu c x s
  | .cmpeq c x => Sys2Proof.Machine.execCmpeq c x s
  | .sel c x => Sys2Proof.Machine.execSel c x s
  | .clr c x => Sys2Proof.Machine.execClr c x s
  | .lda c x => Sys2Proof.Machine.execLda c x s
  | .ldau c x => Sys2Proof.Machine.execLdau c x s
  | .aadd c x => Sys2Proof.Machine.execAadd c x s
  | .asub c x => Sys2Proof.Machine.execAsub c x s
  | .amov c x => Sys2Proof.Machine.execAmov c x s
  | .ash c x => Sys2Proof.Machine.execAsh c x s
  | .sta c x => Sys2Proof.Machine.execSta c x s
  | .ld c x => Sys2Proof.Machine.execLd c x s
  | .st c x => Sys2Proof.Machine.execSt c x s
  | .ldi c x => Sys2Proof.Machine.execLdi c x s
  | .cvtf c x => Sys2Proof.Machine.execCvtf c x s
  | .cvti c x => Sys2Proof.Machine.execCvti c x s
  | .movsFromSpecial c d code => Sys2Proof.Machine.execMovsFromSpecial c d code s
  | .movsToSpecial c d code => Sys2Proof.Machine.execMovsToSpecial c d code s
  | .mntGo => Sys2Proof.Machine.execMntGo s
  | .htData v => Sys2Proof.Machine.execHtData v s
  | .htCommit => Sys2Proof.Machine.execHtCommit s
  | .htLifeExpiry => Sys2Proof.Machine.execHtLifeExpiry s
  | .safetyInputFilter n channel level hubs => Sys2Proof.Machine.execSafetyInputFilter n channel level hubs s
  | .inputFault n => Sys2Proof.Machine.execInputFault n s
  | .standstill a => Sys2Proof.Machine.execStandstill a s
  | .sbcDelayExpiry a => Sys2Proof.Machine.execSbcDelayExpiry a s
  | .ss1TimeLimit a => Sys2Proof.Machine.execSs1TimeLimit a s
  | .feedbackLostSs1 a => Sys2Proof.Machine.execFeedbackLostSs1 a s
  | .feedbackLostSto a => Sys2Proof.Machine.execFeedbackLostSto a s
  | .slsViolation a => Sys2Proof.Machine.execSlsViolation a s
  | .outputFault o => Sys2Proof.Machine.execOutputFault o s
  | .testPulse o channel => Sys2Proof.Machine.execTestPulse o channel s
  | .testPulseResult o channel sawOff sawOn => Sys2Proof.Machine.execTestPulseResult o channel sawOff sawOn s
  | .resetPulse dt x => Sys2Proof.Machine.execResetPulse dt x s
  | .stuckReset n => Sys2Proof.Machine.execStuckReset n s
  | .swrst v => Sys2Proof.Machine.execSwrst v s
  | .swrstStuck => Sys2Proof.Machine.execSwrstStuck s
  | .svcwarn => Sys2Proof.Machine.execSvcwarn s
  | .serviceWindowExpiry => Sys2Proof.Machine.execServiceWindowExpiry s
  | .openSession src => Sys2Proof.Machine.execOpenSession src s
  | .changePassword src => Sys2Proof.Machine.execChangePassword src s
  | .endSession => Sys2Proof.Machine.execEndSession s
  | .pwlockExpiry => Sys2Proof.Machine.execPwlockExpiry s
  | .sessionTimeout => Sys2Proof.Machine.execSessionTimeout s
  | .sessKeyRead p => Sys2Proof.Machine.execSessKeyRead p s
  | .logAck v => Sys2Proof.Machine.execLogAck v s
  | .logDataRead p => Sys2Proof.Machine.execLogDataRead p s
  | .fence c => Sys2Proof.Machine.execFence c s
  | .readmit c => Sys2Proof.Machine.execReadmit c s
  | .molt c img => Sys2Proof.Machine.execMolt c img s
  | .moltComplete c => Sys2Proof.Machine.execMoltComplete c s
  | .poweroff c => Sys2Proof.Machine.execPoweroff c s
  | .custodianReadmit c => Sys2Proof.Machine.execCustodianReadmit c s
  | .fwGo c v => Sys2Proof.Machine.execFwGo c v s
  | .stepClassSwitch => Sys2Proof.Machine.execStepClassSwitch s
  | .imageLoad c v => Sys2Proof.Machine.execImageLoad c v s
  | .imageLoadComplete => Sys2Proof.Machine.execImageLoadComplete s
  | .cartridgeInserted c => Sys2Proof.Machine.execCartridgeInserted c s
  | .cartridgeRemoved c => Sys2Proof.Machine.execCartridgeRemoved c s
  | .leverOpened c => Sys2Proof.Machine.execLeverOpened c s
  | .leverClosed c => Sys2Proof.Machine.execLeverClosed c s
  | .selftestComplete c failed fwOk => Sys2Proof.Machine.execSelftestComplete c failed fwOk s
  | .stateRegionCopyComplete l => Sys2Proof.Machine.execStateRegionCopyComplete l s
  | .journal l bytes pagesLeft => Sys2Proof.Machine.execJournal l bytes pagesLeft s
  | .trackEnd l => Sys2Proof.Machine.execTrackEnd l s
  | .shadowDigest l equal complete => Sys2Proof.Machine.execShadowDigest l equal complete s
  | .checkPass l => Sys2Proof.Machine.execCheckPass l s
  | .hubTrackMismatch h => Sys2Proof.Machine.execHubTrackMismatch h s
  | .hubJoin h => Sys2Proof.Machine.execHubJoin h s
  | .hubLockComplete h => Sys2Proof.Machine.execHubLockComplete h s
  | .spareRemapCommand c unit index => Sys2Proof.Machine.execSpareRemapCommand c unit index s
  | .clearRemap c => Sys2Proof.Machine.execClearRemap c s
  | .encoderEdge dt n a b => Sys2Proof.Machine.execEncoderEdge dt n a b s
  | .errorWindow n => Sys2Proof.Machine.execErrorWindow n s
  | .hallStateChange dt n uvw => Sys2Proof.Machine.execHallStateChange dt n uvw s
  | .ssiReading n => Sys2Proof.Machine.execSsiReading n s
  | .ssiReadingComplete dt n raw firstHigh returned => Sys2Proof.Machine.execSsiReadingComplete dt n raw firstHigh returned s
  | .ssiDelayMeasurement n delays => Sys2Proof.Machine.execSsiDelayMeasurement n delays s
  | .remeasure n => Sys2Proof.Machine.execRemeasure n s
  | .indexLatch dt n => Sys2Proof.Machine.execIndexLatch dt n s
  | .latchRead p n => Sys2Proof.Machine.execLatchRead p n s
  | .latchTRead p n => Sys2Proof.Machine.execLatchTRead p n s
  | .intervalSaturation n => Sys2Proof.Machine.execIntervalSaturation n s
  | .encLoad n => Sys2Proof.Machine.execEncLoad n s
  | .clrfault n => Sys2Proof.Machine.execClrfault n s
  | .emulatedCount n => Sys2Proof.Machine.execEmulatedCount n s
  | .encHaCutOff n => Sys2Proof.Machine.execEncHaCutOff n s
  | .pulseEnd dt n => Sys2Proof.Machine.execPulseEnd dt n s
  | .lctl n v => Sys2Proof.Machine.execLctl n v s
  | .rewind n => Sys2Proof.Machine.execRewind n s
  | .rearm n => Sys2Proof.Machine.execRearm n s
  | .pulse dt n => Sys2Proof.Machine.execPulse dt n s
  | .haTime n v => Sys2Proof.Machine.execHaTime n v s
  | .hostPulse dt n => Sys2Proof.Machine.execHostPulse dt n s
  | .prgGo n => Sys2Proof.Machine.execPrgGo n s
  | .prgStop n => Sys2Proof.Machine.execPrgStop n s
  | .prgLoad n => Sys2Proof.Machine.execPrgLoad n s
  | .haPosHi n v => Sys2Proof.Machine.execHaPosHi n v s
  | .prgHaCutOff n => Sys2Proof.Machine.execPrgHaCutOff n s
  | .pwmPeriod n => Sys2Proof.Machine.execPwmPeriod n s
  | .pwmCentre n => Sys2Proof.Machine.execPwmCentre n s
  | .tdata n v => Sys2Proof.Machine.execTdata n v s
  | .tdefault n => Sys2Proof.Machine.execTdefault n s
  | .conversion dt p c => Sys2Proof.Machine.execConversion dt p c s
  | .conversionComplete dt p c code other => Sys2Proof.Machine.execConversionComplete dt p c code other s
  | .calibration p c => Sys2Proof.Machine.execCalibration p c s
  | .calibrationComplete p c ok => Sys2Proof.Machine.execCalibrationComplete p c ok s
  | .cal p => Sys2Proof.Machine.execCal p s
  | .adcFlush p => Sys2Proof.Machine.execAdcFlush p s
  | .restart p => Sys2Proof.Machine.execRestart p s
  | .resW0Read port p => Sys2Proof.Machine.execResW0Read port p s
  | .resW1Read port p => Sys2Proof.Machine.execResW1Read port p s
  | .prgPosLoRead p n => Sys2Proof.Machine.execPrgPosLoRead p n s
  | .powerGood => Sys2Proof.Machine.execPowerGood s
  | .hubSelfTestComplete => Sys2Proof.Machine.execHubSelfTestComplete s
  | .pllLock => Sys2Proof.Machine.execPllLock s
  | .hubFunctionsReady => Sys2Proof.Machine.execHubFunctionsReady s
  | .admission => Sys2Proof.Machine.execAdmission s
  | .supplyThreshold n mv => Sys2Proof.Machine.execSupplyThreshold n mv s
  | .dip => Sys2Proof.Machine.execDip s
  | .shutdown => Sys2Proof.Machine.execShutdown s
  | .supplyMeasurement h vin iin pin tbase cart vcore => Sys2Proof.Machine.execSupplyMeasurement h vin iin pin tbase cart vcore s
  | .thermalStop c => Sys2Proof.Machine.execThermalStop c s
  | .fireflyPhaseCrossing dt n => Sys2Proof.Machine.execFireflyPhaseCrossing dt n s
  | .testPulseMidpoint o channel => Sys2Proof.Machine.execTestPulseMidpoint o channel s
  | .illegalInstruction c word pastEnd => Sys2Proof.Machine.execIllegalInstruction c word pastEnd s
  | .softStartComplete c => Sys2Proof.Machine.execSoftStartComplete c s
  | .hubLoadComplete h => Sys2Proof.Machine.execHubLoadComplete h s
  | .laneReady l => Sys2Proof.Machine.execLaneReady l s
  | .custodianStartComplete => Sys2Proof.Machine.execCustodianStartComplete s
  | .resetInputRisingEdge dt x => Sys2Proof.Machine.execResetInputRisingEdge dt x s
  | .managementConnectionClosed src => Sys2Proof.Machine.execManagementConnectionClosed src s
  | .hostPortLinkChange p up => Sys2Proof.Machine.execHostPortLinkChange p up s
  | .msixTableWrite p vector addr data masked => Sys2Proof.Machine.execMsixTableWrite p vector addr data masked s
  | .thermalRecovery c => Sys2Proof.Machine.execThermalRecovery c s

end Sys2Proof.Machine
end

