-- ==== Sys2Proof/Safety.lean ====
section
/-! DEFINITION. What counts as a safe step and a safe run, and the terms of the statements: the canonical form of the tables, what
a register of the file reads at a key, and which registers an operation may touch. -/

namespace Sys2Proof

/-- A step that ends in a next state: no fault, no refusal. -/
def Safe (s : Machine.State) : Prop := ∃ t, Machine.step s = .next t

/-- A run of `n` steps, each of which ends in a next state. -/
def SafeRun : Nat → Machine.State → Prop
  | 0, _ => True
  | n + 1, s => ∃ t, Machine.step s = .next t ∧ SafeRun n t

namespace Machine

/-- The canonical form of a register file: ascending keys, no register listed at its reset value. -/
def regsWf (m : List (Nat × Word)) : Bool := Sparse.wf keyReset m

/-- The canonical form of bulk memory: ascending addresses, no byte listed that reads as 0. -/
def memWf (m : List Host.Cell) : Bool := Sparse.wf (fun _ => (0 : Byte)) m

/-- The invariant of the machine: canonical registers and memory, and a staging FIFO of at most 256 entries (R53). -/
def State.Inv (s : State) : Prop := regsWf s.regs = true ∧ memWf s.mem = true ∧ s.link.fifo.length ≤ 256

/-- What the register at BAR0 key `k` holds. -/
def regAt (s : State) (k : Nat) : Word := Sparse.get (keyReset k) k s.regs

/-- Every register but those at the keys given holds in `t` what it holds in `s`. -/
def RegsBut (keys : List Nat) (s t : State) : Prop := ∀ k, k ∉ keys → regAt t k = regAt s k

/-- The keys of a page's `IRQ_STAT`, of its counter `n` and of `CNT_OVF`: what counting an event with an interrupt touches. -/
def eventKeys (p : Pg) (i n : Nat) : List Nat := [regKey p i Reg.IRQ_STAT, regKey p i (Reg.CNT + 4 * n), regKey p i Reg.CNT_OVF]

/-- The keys of a page's `ERR` and `IRQ_STAT`: what recording an error touches. -/
def errKeys (p : Pg) (i : Nat) : List Nat := [regKey p i Reg.ERR, regKey p i Reg.IRQ_STAT]

/-- A counter of the dispatcher's page that every lane keeps for itself (R59, R363). -/
def privCount (s : State) (n : Nat) : Word := Sparse.get 0 (regKey .tds 0 (Reg.CNT + 4 * n)) s.lanePriv

-- Arms

/-- The state in which a record at `RD_IDX` is judged: the index advanced, the record counted, a starved via relieved (R202, R224). -/
def readOn (a : Arm) (s : State) : State :=
  modRing a (fun g => { g with starved := false })
    (setReg .arm a Reg.ARM_RD_IDX (BitVec.ofNat 32 ((rdIdx s a + 1) % 1024)) (count .arm a 0 s))

/-- One report is formed for a record and waits for flow 5 (R228): no byte of memory changes, and no register but those of `extra`. -/
def Reported (a : Arm) (seq : Word) (op : Byte) (st : RptStatus) (idx info : Nat) (extra : List Nat) (s t : State) : Prop :=
  (t.ring[a]).due = (s.ring[a]).due ++ [newReport s seq op st 0 idx info] ∧ t.mem = s.mem ∧ RegsBut extra s t

-- MAC cores

/-- Core `c` once the results on their way have reached their registers (R322). -/
def landed (s : State) (c : CoreNo) : MacCore := (s.sdp.late[c]).foldl landWrite s.sdp.core[c]

/-- A core whose instruction left `k`: the program counter moves on past the ends of hardware loops, and a cycle is used (R318, R322). -/
def stepped (k : MacCore) : MacCore := { endPass k.pc k.loops k with cycles := (endPass k.pc k.loops k).cycles + 1 }

/-- The state in which core `c` is `k` and the results `l` are on their way. -/
def withCore (s : State) (c : CoreNo) (k : MacCore) (l : List MacWrite) : State :=
  { s with sdp := { s.sdp with core := vset s.sdp.core c k, late := vset s.sdp.late c l } }

/-- The flags `N`, `Z`, `V`, `T` as `FLG` holds them (R311). -/
def macFlags (n z v t : Bool) : BitVec 4 := BitVec.ofNat 4 (8 * b2n z + 4 * b2n n + 2 * b2n v + b2n t)

/-- The kernel of core `c` stops with a fault code (R323): `SDP.FAULT` keeps the first of the bus cycle, counter 0 and `IRQ_STAT.KFAULT`
note each, the joint of a loop kernel is marked, and nothing else changes. -/
def KernelStops (c : CoreNo) (code : Nat) (s t : State) : Prop :=
  (t.sdp.core[c]).running = false ∧ (∀ d : CoreNo, d ≠ c → t.sdp.core[d] = s.sdp.core[d]) ∧ t.sdp.late = s.sdp.late ∧
  t.sdp.faultSeen = true ∧
  reg t .sdp 0 Reg.SDP_FAULT = (if s.sdp.faultSeen then reg s .sdp 0 Reg.SDP_FAULT else BitVec.ofNat 32
    ((if (s.sdp.core[c]).stream then 127 else (s.sdp.core[c]).joint) * 2 ^ 24 + (s.sdp.core[c]).kernel * 2 ^ 16 + c.val * 2 ^ 8 + code)) ∧
  ((s.sdp.core[c]).stream = false → (t.sdp.joint[jointNo (s.sdp.core[c]).joint]).faulted = true) ∧
  reg t .sdp 0 Reg.CNT = reg s .sdp 0 Reg.CNT + 1 ∧ bit (reg t .sdp 0 Reg.IRQ_STAT) sdpKFault = true ∧
  RegsBut (regKey .sdp 0 Reg.SDP_FAULT :: eventKeys .sdp 0 0) s t ∧ t = { s with sdp := t.sdp, regs := t.regs, link := t.link }

end Machine

end Sys2Proof
end

