-- ==== Sys2Proof/WellFormed.lean ====
section
/-! DEFINITION. Which commands an environment can give: sizes, windows and ranges that the operands' types do not hold. The machine
gives every command a meaning, well-formed or not. -/

namespace Sys2Proof

/-- A received burst is at most that of the longest frame: 12 header bytes, 254 words, the CRC-32 and 11 further symbols (R112, R134). -/
def receptionFits : Reception → Bool
  | none => true
  | some b => decide (b.syms.length ≤ 1043)

/-- An offset lies in the BAR0 window of 4 MiB that starts at `base` (R48). -/
def inWindow (base off : Nat) : Bool := decide (base ≤ off) && decide (off < base + 0x400000)

/-- An offset is that of a page of the hub view or the cell view (R60). -/
def isPage (off : Nat) : Bool := decide (off < 0x800000) && off % 4096 == 0

/-- A command that an environment can give. -/
def Instr.wf : Instr → Bool
  | .frameReceived _ _ _ x y => receptionFits x && receptionFits y
  | .staticSlot k _ => decide (1 ≤ k.toNat)
  | .progressWord _ w _ => decide (1 ≤ w.toNat / 2048) && decide (w.toNat / 2048 ≤ 8)
  | .configurationResponse r => decide (r.data.length ≤ 1016)
  | .hubViewWrite _ off _ _ => decide (off.toNat < 0x400000)
  | .cellViewWrite _ off _ _ => inWindow 0x400000 off.toNat
  | .privateWindowWrite _ off _ _ => inWindow 0x800000 off.toNat
  | .writeToReadOnly _ off _ => decide (off.toNat < 0x800000) && off.toNat % 4 == 0
  | .hubViewRead _ off _ _ => decide (off.toNat < 0x400000)
  | .cellViewRead _ off _ _ => inWindow 0x400000 off.toNat
  | .bar2Write _ off d => decide (d.length ≤ 512) && decide (off.toNat + d.length ≤ 2 ^ 28)
  | .bar2Read _ off n _ => decide (n.toNat ≤ 4096) && decide (off.toNat + n.toNat ≤ 2 ^ 28)
  | .srst g => isPage g.toNat
  | .ctrlEn g _ => isPage g.toNat
  | .modeSel g _ => isPage g.toNat
  | .irqStatClear g _ _ => isPage g.toNat
  | .irqSet g _ => isPage g.toNat
  | .unlock g _ => isPage g.toNat
  | .managementConnection src _ => decide (2 ≤ src.toNat) && decide (src.toNat ≤ 5)
  | .moveJ _ r => r.body.length == 120
  | .moveL _ r => r.body.length == 120
  | .moveC _ r => r.body.length == 120
  | .via _ r => r.body.length == 120
  | .waitTime _ r => r.body.length == 120
  | .waitPhase _ r => r.body.length == 120
  | .waitInput _ r => r.body.length == 120
  | .setOutput _ r => r.body.length == 120
  | .trackLine _ r => r.body.length == 120
  | .releaseLine _ r => r.body.length == 120
  | .speed _ r => r.body.length == 120
  | .tool _ r => r.body.length == 120
  | .rendezvous _ r => r.body.length == 120
  | .segment _ r => r.body.length == 120
  | .endRec _ r => r.body.length == 120
  | .openSession src => decide (src.toNat ≤ 5)
  | .changePassword src => decide (src.toNat ≤ 5)
  | .molt _ img => decide (img.toNat ≤ 7)
  | .spareRemapCommand _ u _ => decide (1 ≤ u.toNat) && decide (u.toNat ≤ 3)
  | .ssiDelayMeasurement _ d => d.length == 16
  | .managementConnectionClosed src => decide (2 ≤ src.toNat) && decide (src.toNat ≤ 5)
  | .syncInstant _ _ | .silent _ | .silentHubDetected _ | .referenceTakeover | .inputBundle _ _ _ _ | .minislot _
  | .hostBufferCutOff | .symbolWindow _ | .stagingCutOff | .feedbackInstant | .mantisPass | .guardSourceLost _ | .servoPhaseA
  | .servoPhaseB | .kernelCycleLimit _ | .identificationUpdate _ | .planCycleStart | .warmStart | .interiorPointStep
  | .deadlineAgreement | .timeScaleStop _ | .timeScaleStopEnd _ | .tailExhausted _ | .patternBankSwitch | .kernelBankSwitch
  | .mantisBankSwitch | .epochSwitch | .consolidationDecision | .consolidation | .consolidationExit | .bothLost
  | .trainingComplete _ _ | .txFault _ _ | .soldierBlock _ _ | .soldierCut _ _ | .soldierOscillatorFailure _ _
  | .listenTimerExpiry _ | .normalOperation | .configurationTimeout | .tick | .timeListFire | .phaseListFire
  | .operand _ _ _ _ _ | .combRefill | .entryExpiry _ _ _ | .taskDispatch _ _ | .taskCompletion _ _ _ | .orderedFlowRelease _ _
  | .safetyVote _ | .digestWindowClose _ _ | .laneVote | .verdict _ _ | .custodianReturn _ | .stalledWrite | .perst _
  | .nowLoRead _ _ | .lineLoRead _ | .ptpMessage _ _ _ | .ptpTransmit _ _ _ | .announceReceiptTimeout _ | .offsetSample _ _ _
  | .stepAck _ | .haOfs _ | .haRate _ | .tbHaWindowExpiry | .lineCfg _ | .lineLoad | .linkChange _ _ _ | .reneg _ | .retrain _ _ _
  | .retrainClear _ _ _ | .wlsGo | .consEnter _ | .consExit | .hbCfg _ | .hbDataWrite _ | .hbDataRead _ | .rxDataRead _ | .rxPop
  | .recordCompletion _ | .waitTimeEnd _ | .waitPhaseEnd _ | .waitInputEnd _ | .waitTimeout _ | .rendezvousCompletion _
  | .wrIdx _ _ | .rptRd _ _ | .flush _ | .resume _ | .abort _ | .armSrst _ | .armSrstCompletion _ | .preset _
  | .kinHaWindowExpiry _ | .plfGo | .tolHi _ | .floorHi _ | .pdata _ | .pcommit _ | .sdpGo | .haSeq _ | .nop _ | .endKernel _
  | .loop _ _ | .br _ _ | .brt _ _ | .brf _ _ | .setrot _ _ | .rot _ | .macSS _ _ | .macSU _ _ | .macUU _ _ | .msuSS _ _
  | .mpySS _ _ | .mpySU _ _ | .mpyUU _ _ | .mov _ _ | .add _ _ | .sub _ _ | .adds _ _ | .subs _ _ | .and _ _ | .or _ _ | .xor _ _
  | .shl _ _ | .shra _ _ | .shrl _ _ | .min _ _ | .max _ _ | .abs _ _ | .neg _ _ | .cmplt _ _ | .cmpltu _ _ | .cmpeq _ _
  | .sel _ _ | .clr _ _ | .lda _ _ | .ldau _ _ | .aadd _ _ | .asub _ _ | .amov _ _ | .ash _ _ | .sta _ _ | .ld _ _ | .st _ _
  | .ldi _ _ | .cvtf _ _ | .cvti _ _ | .movsFromSpecial _ _ _ | .movsToSpecial _ _ _ | .mntGo | .htData _ | .htCommit
  | .htLifeExpiry | .safetyInputFilter _ _ _ _ | .inputFault _ | .standstill _ | .sbcDelayExpiry _ | .ss1TimeLimit _
  | .feedbackLostSs1 _ | .feedbackLostSto _ | .slsViolation _ | .outputFault _ | .testPulse _ _ | .testPulseResult _ _ _ _
  | .resetPulse _ _ | .stuckReset _ | .swrst _ | .swrstStuck | .svcwarn | .serviceWindowExpiry | .endSession | .pwlockExpiry
  | .sessionTimeout | .sessKeyRead _ | .logAck _ | .logDataRead _ | .fence _ | .readmit _ | .moltComplete _ | .poweroff _
  | .custodianReadmit _ | .fwGo _ _ | .stepClassSwitch | .imageLoad _ _ | .imageLoadComplete | .cartridgeInserted _
  | .cartridgeRemoved _ | .leverOpened _ | .leverClosed _ | .selftestComplete _ _ _ | .stateRegionCopyComplete _ | .journal _ _ _
  | .trackEnd _ | .shadowDigest _ _ _ | .checkPass _ | .hubTrackMismatch _ | .hubJoin _ | .hubLockComplete _ | .clearRemap _
  | .encoderEdge _ _ _ _ | .errorWindow _ | .hallStateChange _ _ _ | .ssiReading _ | .ssiReadingComplete _ _ _ _ _ | .remeasure _
  | .indexLatch _ _ | .latchRead _ _ | .latchTRead _ _ | .intervalSaturation _ | .encLoad _ | .clrfault _ | .emulatedCount _
  | .encHaCutOff _ | .pulseEnd _ _ | .lctl _ _ | .rewind _ | .rearm _ | .pulse _ _ | .haTime _ _ | .hostPulse _ _ | .prgGo _
  | .prgStop _ | .prgLoad _ | .haPosHi _ _ | .prgHaCutOff _ | .pwmPeriod _ | .pwmCentre _ | .tdata _ _ | .tdefault _
  | .conversion _ _ _ | .conversionComplete _ _ _ _ _ | .calibration _ _ | .calibrationComplete _ _ _ | .cal _ | .adcFlush _
  | .restart _ | .resW0Read _ _ | .resW1Read _ _ | .prgPosLoRead _ _ | .powerGood | .hubSelfTestComplete | .pllLock
  | .hubFunctionsReady | .admission | .supplyThreshold _ _ | .dip | .shutdown | .supplyMeasurement _ _ _ _ _ _ _ | .thermalStop _
  | .fireflyPhaseCrossing _ _ | .testPulseMidpoint _ _ | .illegalInstruction _ _ _ | .softStartComplete _ | .hubLoadComplete _
  | .laneReady _ | .custodianStartComplete | .resetInputRisingEdge _ _ | .hostPortLinkChange _ _ | .msixTableWrite _ _ _ _ _
  | .thermalRecovery _ => true

end Sys2Proof
end

