-- ==== Sys2Proof/Certificates/Slice0/Obligations.lean ====
section
/-! DEFINITION. The statements for the provers. -/

section

open Sys2Proof Sys2Proof.Machine

-- Analogue inputs

/-- R525, R529: `FLUSH` empties the FIFO, `RESTART` returns the sequence to position 0 and restarts the averagers, a read of
`RES_W0` returns the head and latches its second word for the port, a read of `RES_W1` returns the latched word and removes the
head; nothing else changes.
Rests on the model's choices of log 68. -/
def Obligations.AdcFifoCommands : Prop :=
  ∀ (s : State) (p : AdcPair) (q : Port), s.clk.on = true →
    exec (.adcFlush p) s = .next { s with
      adc := { s.adc with pair := vset s.adc.pair p { s.adc.pair[p] with fifo := [] } } } ∧
    exec (.restart p) s = .next { s with
      adc := { s.adc with pair := vset s.adc.pair p { s.adc.pair[p] with
        seqPos := 0, seen0 := false, avg := Vector.replicate 16 {} } } } ∧
    (s.clk.alive[q] = true →
      exec (.resW0Read q p) s = .next { s with
        link := { s.link with readData := vset s.link.readData q ((s.adc.pair[p]).fifo.headD (0, 0)).1 }
        adc := { s.adc with pair := vset s.adc.pair p { s.adc.pair[p] with
          w1 := vset (s.adc.pair[p]).w1 q ((s.adc.pair[p]).fifo.headD (0, 0)).2 } } } ∧
      exec (.resW1Read q p) s = .next { s with
        link := { s.link with readData := vset s.link.readData q (s.adc.pair[p]).w1[q] }
        adc := { s.adc with pair := vset s.adc.pair p { s.adc.pair[p] with fifo := (s.adc.pair[p]).fifo.tail } } })

/-- R512, R513, R515, R525: a free converter of an enabled pair starts the conversion of the sequence's position at a grid point, where it
would end before the next sync instant, for 1 µs + `EXTRA`; off the grid nothing starts; a host-assisted conversion puts its tagged
result and start time at the end of the FIFO once it has ended, and not before; the midpoint of the running test pulse makes the
group of a pair with trigger 3 pending.
Rests on the model's choices of log 7, 10, 40, 41, 103. -/
def Obligations.AdcConversions : Prop :=
  ∀ (s : State) (p : AdcPair) (c : Fin 2) (dt : Nat), s.clk.on = true →
    ((s.adc.pair[p]).conv[c].job = none → (s.adc.pair[p]).conv[c].out = false → (s.adc.pair[p]).conv[c].calAct = false →
      (s.adc.pair[p]).conv[c].calDue = false → (s.adc.pair[p]).pend = false → (s.adc.pair[p]).running = false →
      (s.adc.pair[p]).seqPos ≠ 0 → enabled s .adc p.val = true → assisted s .adc p.val = false → onGrid c (advance dt s) = true →
      overrunsCycle (busNs s) (seqInput (s.adc.pair[p]) (s.adc.pair[p]).seqPos) (advance dt s) = false →
      ∃ t j, exec (.conversion dt p c) s = .next t ∧ (t.adc.pair[p]).conv[c].job = some j ∧
        j.entry = .regular (s.adc.pair[p]).seqPos ∧ j.input = seqInput (s.adc.pair[p]) (s.adc.pair[p]).seqPos % 24 ∧
        j.start = BitVec.ofNat 32 ((s.clk.now + dt * edgeStep s.clk.rho) / 2 ^ 32) ∧
        j.ends = (s.clk.now + dt * edgeStep s.clk.rho) / 2 ^ 32 + 1000 + extraNs s j.input ∧ t = { advance dt s with adc := t.adc }) ∧
    (onGrid c (advance dt s) = false → exec (.conversion dt p c) s = .next (advance dt s)) ∧
    (∀ (code other : BitVec 12) (j : ConvJob), (s.adc.pair[p]).conv[c].job = some j → j.entry = .assisted →
      (s.adc.pair[p]).fifo.length < 128 → j.ends ≤ (s.clk.now + dt * edgeStep s.clk.rho) / 2 ^ 32 →
      ∃ t, exec (.conversionComplete dt p c code other) s = .next (refreshReady t) ∧ (t.adc.pair[p]).conv[c].job = none ∧
        (t.adc.pair[p]).fifo = (s.adc.pair[p]).fifo ++
          [(resultWord (convTag (s.adc.pair[p]).conv[c] j code) (0x20 + j.input) code.toNat, j.start)] ∧
        t = { advance dt s with adc := t.adc, regs := t.regs, link := t.link }) ∧
    (∀ (code other : BitVec 12) (j : ConvJob), (s.adc.pair[p]).conv[c].job = some j →
      (s.clk.now + dt * edgeStep s.clk.rho) / 2 ^ 32 < j.ends →
      exec (.conversionComplete dt p c code other) s = .next (refreshReady (advance dt s))) ∧
    (∀ (o : Sixteen) (ch : Fin 2) (d : Bool), s.saf.test = some (o.val, ch.val, d) → (∀ m : AdcPair, groupActive s.adc.pair[m] = false) →
      enabled s .adc p.val = true → fld s .adc p.val Reg.ADC_INJ_CFG 2 0 = 3 → fld s .adc p.val Reg.ADC_INJ_CFG 7 4 = o.val →
      ∃ t, exec (.testPulseMidpoint o ch) s = .next t ∧ (t.adc.pair[p]).pend = true ∧
        (t.adc.pair[p]).injFrom = s.clk.now / 2 ^ 32 + 20 ∧ t = { s with adc := t.adc })

/-- R521, R522, R529: a calibration falls due on a converter in service or starts; one that ends, 48 µs later, keeps or gains its coefficients, and
two failures in a row take the converter out of service, and every page notes its `READY` anew; `CAL` starts with `C0`, and is refused with 0x0100 while one is due or
runs.
Rests on the model's choices of log 10, 41. -/
def Obligations.AdcCalibration : Prop :=
  ∀ (s : State) (p : AdcPair) (c : Fin 2), s.clk.on = true →
    ((s.adc.pair[p]).conv[c].out = false → (s.adc.pair[p]).conv[c].calAct = false →
      ∃ t, exec (.calibration p c) s = .next (refreshReady t) ∧ t = { s with adc := t.adc } ∧
        ((t.adc.pair[p]).conv[c].calDue = true ∨ (t.adc.pair[p]).conv[c].calAct = true)) ∧
    (∀ ok : Bool, (s.adc.pair[p]).conv[c].calAct = true → (s.adc.pair[p]).conv[c].calEnd ≤ s.clk.now / 2 ^ 32 →
      ∃ t, exec (.calibrationComplete p c ok) s = .next (refreshReady t) ∧ (t.adc.pair[p]).conv[c].calAct = false ∧
        (t.adc.pair[p]).conv[c].calOk = ((s.adc.pair[p]).conv[c].calOk || ok) ∧
        (t.adc.pair[p]).conv[c].fails = (if ok then 0 else (s.adc.pair[p]).conv[c].fails + 1) ∧
        (t.adc.pair[p]).conv[c].out = ((s.adc.pair[p]).conv[c].out || (!ok && decide (1 ≤ (s.adc.pair[p]).conv[c].fails))) ∧
        t = { s with adc := t.adc, regs := t.regs, link := t.link }) ∧
    ((s.adc.pair[p]).conv[(0 : Fin 2)].calDue = false → (s.adc.pair[p]).conv[(0 : Fin 2)].calAct = false →
      (s.adc.pair[p]).conv[(1 : Fin 2)].calDue = false → (s.adc.pair[p]).conv[(1 : Fin 2)].calAct = false →
      (s.adc.pair[p]).conv[(0 : Fin 2)].out = false →
      ∃ t, exec (.cal p) s = .next (refreshReady t) ∧ t = { s with adc := t.adc } ∧
        ((t.adc.pair[p]).conv[(0 : Fin 2)].calDue = true ∨ (t.adc.pair[p]).conv[(0 : Fin 2)].calAct = true)) ∧
    ((s.adc.pair[p]).conv[c].calAct = true → regsWf s.regs = true →
      ∃ t, exec (.cal p) s = .next (refreshReady t) ∧ field (reg t .adc p.val Reg.ERR) 15 0 = 0x0100 ∧ t.adc = s.adc ∧
        RegsBut (errKeys .adc p.val) s t)

-- Firefly compare outputs

/-- R486, R489: `REARM` and `HA_TIME`; R484, R489: `PULSE` and the armed host pulse start or extend a pulse of `WIDTH` ns, which ends
at its time.
Rests on the model's choices of log 7, 45. -/
def Obligations.FireflyPulses : Prop :=
  ∀ (s : State) (n : Sixteen), s.clk.on = true →
    exec (.rearm n) s = .next { s with ffy := vset s.ffy n { s.ffy[n] with state := [] } } ∧
    (∀ v : Word, regsWf s.regs = true → ∃ t, exec (.haTime n v) s = .next t ∧ (t.ffy[n]).haArmed = true ∧
      reg t .ffy n Reg.FFY_HA_TIME = v ∧ RegsBut [regKey .ffy n Reg.FFY_HA_TIME, regKey .ffy n Reg.CHG] s t ∧
      t = { s with ffy := t.ffy, regs := t.regs }) ∧
    (∀ dt : Nat, regsWf s.regs = true → enabled s .ffy n = true →
      ∃ t, exec (.pulse dt n) s = .next t ∧
        (t.ffy[n]).pulse = some ((s.clk.now + dt * edgeStep s.clk.rho) / 2 ^ 32 + fld s .ffy n Reg.FFY_WIDTH 19 0) ∧
        t = { advance dt s with ffy := t.ffy, regs := t.regs, link := t.link }) ∧
    (∀ dt : Nat, regsWf s.regs = true → enabled s .ffy n = true → assisted s .ffy n = true → (s.ffy[n]).haArmed = true →
      0 ≤ (BitVec.ofNat 32 ((s.clk.now + dt * edgeStep s.clk.rho) / 2 ^ 32) - reg s .ffy n Reg.FFY_HA_TIME).toInt →
      ∃ t, exec (.hostPulse dt n) s = .next t ∧ (t.ffy[n]).haArmed = false ∧
        (t.ffy[n]).pulse = some ((s.clk.now + dt * edgeStep s.clk.rho) / 2 ^ 32 + fld s .ffy n Reg.FFY_WIDTH 19 0) ∧
        t = { advance dt s with ffy := t.ffy, regs := t.regs, link := t.link }) ∧
    (∀ dt e : Nat, (s.ffy[n]).pulse = some e → e ≤ (s.clk.now + dt * edgeStep s.clk.rho) / 2 ^ 32 →
      ∃ t, exec (.pulseEnd dt n) s = .next t ∧ (t.ffy[n]).pulse = none ∧ t = { advance dt s with ffy := t.ffy })

/-- R486, R487, R491: `LCTL` commits position, qualifier and state of the entry at `LSEL` and advances `LSEL` modulo 256; `REWIND` of a
list that does not run sets the pointer to 0 and clears `DONE`; R482, R483, R486: a phase that crosses the last entry of a running list
fires it, starts the pulse and ends the list.
Rests on the model's choices of log 7, 46. -/
def Obligations.FireflyList : Prop :=
  ∀ (s : State) (n : Sixteen), s.clk.on = true → regsWf s.regs = true →
    Sparse.wf (fun _ => (3 : Nat)) (s.ffy[n]).qual = true → Sparse.wf (fun _ => (0 : Nat)) (s.ffy[n]).state = true →
    Sparse.wf (fun _ => (0 : BitVec 64)) (s.ffy[n]).pos = true →
    (∀ v : Word, (s.ffy[n]).ptr.toNat ≠ fld s .ffy n Reg.FFY_LSEL 7 0 →
      ∃ t, exec (.lctl n v) s = .next t ∧
        entryQual t.ffy[n] (fld s .ffy n Reg.FFY_LSEL 7 0) = field v 1 0 ∧
        entryState t.ffy[n] (fld s .ffy n Reg.FFY_LSEL 7 0) = (if field v 1 0 = 3 then 3 else 0) ∧
        entryPos t.ffy[n] (fld s .ffy n Reg.FFY_LSEL 7 0) =
          (join64 (reg s .ffy n (Reg.FFY_LPOS_LO + 4)) (reg s .ffy n Reg.FFY_LPOS_LO)).toInt ∧
        fld t .ffy n Reg.FFY_LSEL 7 0 = (fld s .ffy n Reg.FFY_LSEL 7 0 + 1) % 256 ∧
        RegsBut [regKey .ffy n Reg.FFY_LSEL, regKey .ffy n Reg.CHG] s t ∧ t = { s with ffy := t.ffy, regs := t.regs }) ∧
    (flag s .ffy n Reg.FFY_CFG 10 = false →
      ∃ t, exec (.rewind n) s = .next t ∧ (t.ffy[n]).ptr = 0 ∧ (t.ffy[n]).done = false ∧ (t.ffy[n]).state = (s.ffy[n]).state ∧
        t = { s with ffy := t.ffy }) ∧
    (∀ dt : Nat, ffyOnPhase s n = true → ffyLive s n = true → (s.ffy[n]).judge = false →
      (s.ffy[n]).ptr.toNat = fld s .ffy n Reg.FFY_END 7 0 → flag s .ffy n Reg.FFY_CFG 9 = false →
      entryState s.ffy[n] (s.ffy[n]).ptr.toNat = 0 →
      crosses (entryQual s.ffy[n] (s.ffy[n]).ptr.toNat) (s.ffy[n]).phase
        (linePhase (advance dt s))
        (entryPos s.ffy[n] (s.ffy[n]).ptr.toNat) = true →
      ∃ t, exec (.fireflyPhaseCrossing dt n) s = .next t ∧ entryState t.ffy[n] (s.ffy[n]).ptr.toNat = 1 ∧
        (t.ffy[n]).done = true ∧
        (t.ffy[n]).pulse = some ((s.clk.now + dt * edgeStep s.clk.rho) / 2 ^ 32 + fld s .ffy n Reg.FFY_WIDTH 19 0))
-- Encoders

/-- R467, R470, R471: an edge on one channel of an enabled quadrature channel moves the count by one in the direction that `INV` leaves;
a Hall state that follows in the forward order moves it too; the first good SSI reading loads it. The edge time, the pins and the
register file of other pages follow their own rules.
Rests on the model's choices of log 7, 42, 43, 46. -/
def Obligations.EncoderCounting : Prop :=
  ∀ (s : State) (n : Sixteen) (dt : Nat), s.clk.on = true → encOnPins s n = true →
    (∀ a b : Bool, encType s n = 0 → ((s.enc[n]).a != a) ≠ ((s.enc[n]).b != b) →
      ∃ t, exec (.encoderEdge dt n a b) s = .next t ∧ (t.enc[n]).a = a ∧ (t.enc[n]).b = b ∧
        (t.enc[n]).count = (s.enc[n]).count + BitVec.ofInt 64 (signedStep s n (a == (s.enc[n]).b && b != (s.enc[n]).a)) ∧
        (t.enc[n]).lastEdge = BitVec.ofNat 32 ((s.clk.now + dt * edgeStep s.clk.rho) / 2 ^ 32) ∧
        (∀ m : Sixteen, m ≠ n → t.enc[m] = s.enc[m]) ∧
        t = { advance dt s with enc := t.enc, line := t.line, ffy := t.ffy, adc := t.adc, regs := t.regs, link := t.link }) ∧
    (∀ (u : BitVec 3) (i : Nat), encType s n = 1 → hallIndex (s.enc[n]).hall = some i → hallIndex u = some ((i + 1) % 6) →
      ∃ t, exec (.hallStateChange dt n u) s = .next t ∧ (t.enc[n]).hall = u ∧
        (t.enc[n]).count = (s.enc[n]).count + BitVec.ofInt 64 (signedStep s n true)) ∧
    (encType s n = 2 → (s.enc[n]).measured = true →
      exec (.ssiReading n) s = .next { s with enc := vset s.enc n { s.enc[n] with reading := true } }) ∧
    (∀ raw : Word, encType s n = 2 → (s.enc[n]).reading = true → (s.enc[n]).measuring = false → (s.enc[n]).rPrev = none →
      (s.enc[n]).rebase = false → flag s .enc n Reg.ENC_SSI_CFG 6 = false →
      ∃ t, exec (.ssiReadingComplete dt n raw false true) s = .next t ∧ (t.enc[n]).reading = false ∧
        (t.enc[n]).raw = BitVec.ofNat 32 (raw.toNat % 2 ^ fld s .enc n Reg.ENC_SSI_CFG 5 0) ∧
        (t.enc[n]).count = BitVec.ofNat 64 (raw.toNat % 2 ^ fld s .enc n Reg.ENC_SSI_CFG 5 0))

/-- R472, R476, R479: the delay measurement of an enabled SSI channel starts on `REMEASURE`, and ends with the mean of its readings when
every reading has a delay and their mean is at most 5 µs; every page then notes its `READY` anew. 4,294,967,295 ns after the last count
edge the interval saturates; a waiting emulated count leaves once 40 ns have passed since the last edge of the pins.
Rests on the model's choices of log 10. -/
def Obligations.EncoderTiming : Prop :=
  ∀ (s : State) (n : Sixteen), s.clk.on = true →
    (enabled s .enc n = true → encType s n = 2 →
      exec (.remeasure n) s = .next (refreshReady { s with
        enc := vset s.enc n { s.enc[n] with measuring := true, measured := false } })) ∧
    (∀ ds : List Nat, (s.enc[n]).measuring = true → ds ≠ [] → ds.sum ≤ 5000 * ds.length →
      exec (.ssiDelayMeasurement n (ds.map some)) s = .next (refreshReady { s with
        enc := vset s.enc n { s.enc[n] with measuring := false, measured := true, delay := ds.sum / ds.length } })) ∧
    (∀ e : Nat, (s.enc[n]).edgeAt = some e →
      exec (.intervalSaturation n) s = .next (if e + 4294967295 ≤ s.clk.now / 2 ^ 32
        then { s with enc := vset s.enc n { s.enc[n] with interval := 0xFFFFFFFF } } else s)) ∧
    (∀ (f : Bool) (r : List Bool) (e : Nat), (s.enc[n]).emuQueue = f :: r → (s.enc[n]).emuAt = some e →
      s.clk.now / 2 ^ 32 < e + 40 → exec (.emulatedCount n) s = .next s) ∧
    (∀ (f : Bool) (r : List Bool), (s.enc[n]).emuQueue = f :: r → (∀ e, (s.enc[n]).emuAt = some e → e + 40 ≤ s.clk.now / 2 ^ 32) →
      ∃ t, exec (.emulatedCount n) s = .next t ∧ (t.enc[n]).emuQueue = r ∧ (t.enc[n]).emuAt = some (s.clk.now / 2 ^ 32) ∧
        (t.enc[n]).emuA = (if f then (s.enc[n]).emuB else !(s.enc[n]).emuB) ∧
        (t.enc[n]).emuB = (if f then !(s.enc[n]).emuA else (s.enc[n]).emuA) ∧ t = { s with enc := t.enc })

/-- R469, R474, R478, R480: the errors of a window of 1 ms count for the window after it alone; the index latch takes count and time; the reads of `LATCH` and `LATCH_T` freeze
and free the index values for their port; `LOAD` waits for the sync instant; `CLRFAULT` clears the fault unless the last window
held an error, when it is refused with 0x0101; the cut-off takes the host position.
Rests on the model's choices of log 7, 43, 68. -/
def Obligations.EncoderService : Prop :=
  ∀ (s : State) (n : Sixteen) (q : Port), s.clk.on = true → regsWf s.regs = true →
    (∀ m : Nat, m = s.clk.now / 2 ^ 32 / 1000000 →
      exec (.errorWindow n) s = .next (if m = (s.enc[n]).errMs then s else { s with enc := vset s.enc n { s.enc[n] with
        errMs := m, errWin := 0, errLast := if m = (s.enc[n]).errMs + 1 then (s.enc[n]).errWin else 0 } })) ∧
    (∀ dt : Nat, encOnPins s n = true → encType s n = 0 → flag s .enc n Reg.ENC_CFG 4 = true →
      ∃ t, exec (.indexLatch dt n) s = .next t ∧ (t.enc[n]).latch = (s.enc[n]).count ∧
        (t.enc[n]).latchT = BitVec.ofNat 32 ((s.clk.now + dt * edgeStep s.clk.rho) / 2 ^ 32) ∧
        (t.enc[n]).latchSeq = (s.enc[n]).latchSeq + 1 ∧ (t.enc[n]).idxDelta = lo32 ((s.enc[n]).count - (s.enc[n]).latch) ∧
        t = { advance dt s with enc := t.enc, regs := t.regs, link := t.link }) ∧
    (s.clk.alive[q] = true →
      exec (.latchRead q n) s = .next { s with
        link := { s.link with readData := vset s.link.readData q (lo32 (s.enc[n]).latch) }
        enc := vset s.enc n { s.enc[n] with
          frozen := vset (s.enc[n]).frozen q (some ⟨(s.enc[n]).latchT, (s.enc[n]).latchSeq, (s.enc[n]).idxDelta⟩) } } ∧
      exec (.latchTRead q n) s = .next { s with
        link := { s.link with readData := vset s.link.readData q (indexView s q n).time }
        enc := vset s.enc n { s.enc[n] with frozen := vset (s.enc[n]).frozen q none } }) ∧
    exec (.encLoad n) s = .next { s with enc := vset s.enc n { s.enc[n] with loadPend := true } } ∧
    ((rolled s s.enc[n]).errLast = 0 → ∃ t, exec (.clrfault n) s = .next t ∧ (t.enc[n]).fault = false ∧
      t = { s with enc := t.enc, ffy := t.ffy, adc := t.adc, regs := t.regs, link := t.link }) ∧
    ((rolled s s.enc[n]).errLast ≠ 0 → ∃ t, exec (.clrfault n) s = .next t ∧ t.enc = s.enc ∧
      field (reg t .enc n Reg.ERR) 15 0 = 0x0101 ∧ RegsBut (errKeys .enc n) s t) ∧
    (assisted s .enc n = true → (s.enc[n]).haNew = true →
      exec (.encHaCutOff n) s = .next { s with
        enc := vset s.enc n { s.enc[n] with haNew := false, haTaken := some (reg s .enc n Reg.ENC_HA_POS) } })

-- Profile generators and steppers

/-- R494, R497, R500, R508: `GO` and `STOP` wait for the next tick; `LOAD` does so for a generator at rest and is refused with 0x0104
otherwise; a host position is committed, or enters the FIFO with `RATE` 1 while it has room; the cut-off takes a committed position
that lies within the soft limits; a read of `POS_LO` latches the high half for its port.
Rests on the model's choices of log 68. -/
def Obligations.ProfileCommands : Prop :=
  ∀ (s : State) (n : Prg), s.clk.on = true → regsWf s.regs = true →
    (∃ t, exec (.prgGo n) s = .next t ∧ (t.prg[n]).go = some .host ∧ (t.prg[n]).p = (s.prg[n]).p ∧
      (t.prg[n]).tgt = (s.prg[n]).tgt ∧ RegsBut (eventKeys .prg n 2) s t ∧
      t = { s with prg := t.prg, regs := t.regs, link := t.link }) ∧
    exec (.prgStop n) s = .next { s with prg := vset s.prg n { s.prg[n] with stop := true } } ∧
    (atRest s.prg[n] = true → exec (.prgLoad n) s = .next { s with prg := vset s.prg n { s.prg[n] with load := true } }) ∧
    (atRest s.prg[n] = false → ∃ t, exec (.prgLoad n) s = .next t ∧ t.prg = s.prg ∧
      field (reg t .prg n Reg.ERR) 15 0 = 0x0104 ∧ RegsBut (errKeys .prg n) s t) ∧
    (∀ v : Word, flag s .prg n Reg.PRG_HA_CFG 0 = false → exec (.haPosHi n v) s = .next { s with
      prg := vset s.prg n { s.prg[n] with haCommit := join64 v (s.prg[n]).haLo, haNew := true } }) ∧
    (∀ v : Word, flag s .prg n Reg.PRG_HA_CFG 0 = true → (s.prg[n]).haFifo.length < 256 → exec (.haPosHi n v) s = .next { s with
      prg := vset s.prg n { s.prg[n] with haFifo := (s.prg[n]).haFifo ++ [join64 v (s.prg[n]).haLo], haEmpty := false } }) ∧
    (assisted s .prg n = true → flag s .prg n Reg.PRG_HA_CFG 0 = false → (s.prg[n]).haNew = true →
      (softLo s n).toInt ≤ (s.prg[n]).haCommit.toInt → (s.prg[n]).haCommit.toInt ≤ (softHi s n).toInt →
      exec (.prgHaCutOff n) s = .next { s with prg := vset s.prg n { s.prg[n] with haNew := false, haVal := (s.prg[n]).haCommit } }) ∧
    (∀ q : Port, s.clk.alive[q] = true → ∃ t, exec (.prgPosLoRead q n) s = .next t ∧
      t.link.readData[q] = lo32 (posReg (s.prg[n]).p) ∧ (t.link.posHi[q])[n] = hi32 (posReg (s.prg[n]).p) ∧
      t = { s with link := t.link })

/-- R504, R505, R509, R515: a table write sets the entry at `TSEL` and advances it modulo 256; `TDEFAULT` restores the table; at the
start of a PWM period, a whole multiple of 10 µs, the duties of an enabled driver are formed from the references; the centre of a
period, 5 µs later, triggers the injected groups that select it.
Rests on the model's choices of log 41. -/
def Obligations.StepperCommands : Prop :=
  ∀ (s : State) (n : Sixteen), s.clk.on = true →
    exec (.tdefault n) s = .next { s with stp := vset s.stp n { s.stp[n] with table := [] } } ∧
    (∀ v : Word, regsWf s.regs = true → Sparse.wf (fun i => BitVec.ofNat 12 (defaultTable.getD i 0)) (s.stp[n]).table = true →
      ∃ t, exec (.tdata n v) s = .next t ∧ tableEntry t.stp[n] (fld s .stp n Reg.STP_TSEL 7 0) = v.setWidth 12 ∧
        (∀ i, i ≠ fld s .stp n Reg.STP_TSEL 7 0 → tableEntry t.stp[n] i = tableEntry s.stp[n] i) ∧
        fld t .stp n Reg.STP_TSEL 7 0 = (fld s .stp n Reg.STP_TSEL 7 0 + 1) % 256 ∧
        RegsBut (regKey .stp n Reg.STP_TSEL :: regKey .stp n Reg.CHG :: eventKeys .stp n 3) s t ∧
        t = { s with stp := t.stp, regs := t.regs, link := t.link }) ∧
    (enabled s .stp n = true → fld s .stp n Reg.STP_CFG 1 0 = 1 → driverOn s n = true →
      s.clk.now / 2 ^ 32 % 10000 = 0 →
      ∃ t, exec (.pwmPeriod n) s = .next t ∧ (t.stp[n]).refSin = (references s n (stpCount s n)).1 ∧
        (t.stp[n]).refCos = (references s n (stpCount s n)).2 ∧
        (t.stp[n]).duty = some ((2048 + (references s n (stpCount s n)).1).toNat, (2048 + (references s n (stpCount s n)).2).toNat) ∧
        t = { s with stp := t.stp }) ∧
    (∀ p : AdcPair, enabled s .stp n = true → fld s .stp n Reg.STP_CFG 1 0 = 1 → (∀ m : AdcPair, groupActive s.adc.pair[m] = false) →
      enabled s .adc p.val = true → fld s .adc p.val Reg.ADC_INJ_CFG 2 0 = 4 → fld s .adc p.val Reg.ADC_INJ_CFG 7 4 = n.val →
      s.clk.now / 2 ^ 32 % 10000 = 5000 →
      ∃ t, exec (.pwmCentre n) s = .next t ∧ (t.adc.pair[p]).pend = true ∧
        (t.adc.pair[p]).injFrom = s.clk.now / 2 ^ 32 + 20 ∧ t = { s with adc := t.adc })
-- The block as a whole

/-- The model's queue (DESIGN CHOICE, log 1): a step takes the command at the front of the queue and runs its meaning on the state that
keeps the queue's rest; with an empty queue the block idles. -/
def Obligations.StepRunsFrontCommand : Prop :=
  (∀ (c : Instr) (r : List Instr) (s : State), s.pending = c :: r → step s = exec c { s with pending := r }) ∧
  (∀ s : State, s.pending = [] → step s = .next s)

/-- R45, R69: every command that an environment can give answers a next state, whatever the state; a BAR2 access that runs past the end
of the BAR faults.
Rests on the model's choices of log 8, 27. -/
def Obligations.EveryCommandAnswers : Prop :=
  (∀ (c : Instr) (s : State), c.wf = true → ∃ t, exec c s = .next t) ∧
  (∀ (s : State) (q : Port) (off : BitVec 28) (d : List Byte), 2 ^ 28 < off.toNat + d.length →
    exec (.bar2Write q off d) s = .fault .outsideBar) ∧
  (∀ (s : State) (q : Port) (off : BitVec 28) (n : BitVec 13) (x : Bool), 2 ^ 28 < off.toNat + n.toNat →
    exec (.bar2Read q off n x) s = .fault .outsideBar)

/-- A command's meaning leaves the queue of waiting commands as it is. -/
def Obligations.MeaningsLeaveTheQueue : Prop :=
  ∀ (c : Instr) (s t : State), exec c s = .next t → t.pending = s.pending

/-- R53, R69: every step keeps the register file and bulk memory in their canonical form, and the staging FIFO within 256 entries. -/
def Obligations.StepKeepsInv : Prop :=
  ∀ s t : State, s.Inv → step s = .next t → t.Inv

/-- The reset state has the invariant that every step keeps. -/
def Obligations.ResetInv : Prop := State.reset.Inv

/-- R73: no step but the one of a power good takes cell time back.
Rests on the model's choices of log 15, 17, 69. -/
def Obligations.CellTimeNeverRunsBack : Prop :=
  ∀ (s t : State) (c : Instr) (r : List Instr), s.pending = c :: r → c ≠ .powerGood → step s = .next t → s.clk.now ≤ t.clk.now

/-- R546: a module that is shut down answers every command but a power good with no effect.
Rests on the model's choices of log 15, 17, 69. -/
def Obligations.ShutDownIsInert : Prop :=
  ∀ (c : Instr) (s : State), s.clk.on = false → c ≠ .powerGood → c.wf = true → exec c s = .next s

/-- R33: only a sync instant, a power good and the events through which start-up places or leaves the cycle (a slot, a reception, the
listen timer, the commit of an image, the hub functions coming up) may change the cycle tag; every other command leaves the tag and
T_s.
Rests on the model's choices of log 3, 7, 10, 11, 15, 17, 18, 22, 48, 50, 51, 63, 64, 65, 69, 102. -/
def Obligations.TagKeptWithinCycle : Prop :=
  ∀ (c : Instr) (s t : State), exec c s = .next t →
    (match c with
      | .syncInstant _ _ | .powerGood | .staticSlot _ _ | .minislot _ | .symbolWindow _ | .frameReceived _ _ _ _ _
      | .listenTimerExpiry _ | .imageLoadComplete | .hubFunctionsReady => False
      | _ => True) →
    t.clk.tag = s.clk.tag ∧ t.clk.ts = s.clk.ts ∧ t.clk.running = s.clk.running ∧ t.clk.started = s.clk.started

/-- What the spec's tables give for reset: cell time 0 (R73), no write staged, `MODE`, `IRQ_STAT`, `IRQ_EN`, `ERR`, `CHG` and the
counters 0 on every page (R62), `CTRL` as its page says, and the reset values of block registers: the time servo's jump threshold
1,000 ns and path-delay step 50 ns (R87, R91), the fall rate 50.0 and jerk 10⁶ of the time scale, the test pulse width 300 µs. -/
def Obligations.ResetValues : Prop :=
  State.reset.clk.now = 0 ∧ State.reset.link.fifo = [] ∧ State.reset.pending = [] ∧
  (∀ (p : Pg) (i off : Nat), i < (pgRow p).count →
    off ∈ [Reg.MODE, Reg.IRQ_STAT, Reg.IRQ_EN, Reg.ERR, Reg.CHG, Reg.CNT_OVF, Reg.CNT, Reg.CNT + 60] →
    reg State.reset p i off = 0) ∧
  reg State.reset .tb 0 Reg.TB_JUMP_THR = 1000 ∧ reg State.reset .tb 0 Reg.TB_PD_STEP = 50 ∧
  reg State.reset .plf 0 Reg.PLF_STOP_RATE = 0x42480000 ∧ reg State.reset .plf 0 Reg.PLF_TS_JERK = 0x49742400 ∧
  reg State.reset .sio 0 Reg.SIO_TP_CFG = 300

-- Host accesses

/-- R46: an access to BAR0 that is not one aligned DWORD with all byte enables is not performed: a write is ignored, a read returns
0, and both set `BADACC` of the port; BAR2 takes an access of any size and alignment, and sets no `BADACC`.
Rests on the model's choices of log 8, 13, 27, 37, 38. -/
def Obligations.MalformedAccess : Prop :=
  ∀ (s : State) (q : Port) (off : BitVec 24) (v : Word) (whole : Bool) (m : Vector Word 3) (x : Bool),
    s.clk.on = true → s.clk.alive[q] = true → (whole = false ∨ off.toNat % 4 ≠ 0) →
    (∀ c ∈ [Instr.hubViewWrite q off v whole, .cellViewWrite q off v whole, .privateWindowWrite q off v whole],
      s.link.fifo.length < 256 → s.link.stalled = [] → ∃ t, exec c s = .next t ∧ (t.link.accstat[q]).getLsbD accBadacc = true ∧ t.link.fifo = s.link.fifo ∧
        t.link.stalled = s.link.stalled ∧ t.priv = s.priv ∧ (regsWf s.regs = true → RegsBut (eventKeys .mod 0 accBadacc) s t) ∧
        t = { s with link := t.link, regs := t.regs }) ∧
    (∀ c ∈ [Instr.hubViewRead q off whole x, .cellViewRead q off whole m],
      ∃ t, exec c s = .next t ∧ t.link.readData[q] = 0 ∧ (t.link.accstat[q]).getLsbD accBadacc = true ∧
        t = { s with link := t.link, regs := t.regs }) ∧
    (∀ (o : BitVec 28) (d : List Byte), o.toNat + d.length ≤ 2 ^ 28 → ∃ t, exec (.bar2Write q o d) s = .next t ∧
      t.link.accstat = s.link.accstat) ∧
    (∀ (o : BitVec 28) (n : BitVec 13), o.toNat + n.toNat ≤ 2 ^ 28 → ∃ t, exec (.bar2Read q o n x) s = .next t ∧
      (t.link.accstat[q]).getLsbD accBadacc = (s.link.accstat[q]).getLsbD accBadacc)

/-- R53, R54, R55, R535: a cell-view write of an admitted module enters the staging FIFO. While the FIFO holds 256 entries, or writes
that stalled before still wait, every posted write of a port waits in its order and nothing of it acts; once there is room the oldest
one does what it would have done unstalled. At the cut-off the whole FIFO goes into the input bundle, in order.
Rests on the model's choices of log 7, 13, 27, 30, 36. -/
def Obligations.StagedWrites : Prop :=
  ∀ (s : State), s.clk.on = true →
    (∀ (q : Port) (off : BitVec 24) (v : Word), s.clk.alive[q] = true → 0x400000 ≤ off.toNat → off.toNat < 0x800000 →
      off.toNat % 4 = 0 → s.boot.admitted = true → s.link.fifo.length < 256 → s.link.stalled = [] →
      exec (.cellViewWrite q off v true) s =
        .next { s with link := { s.link with fifo := s.link.fifo ++ [⟨q, off.toNat, v⟩] } }) ∧
    (∀ q : Port, s.clk.alive[q] = true → 256 ≤ s.link.fifo.length ∨ s.link.stalled ≠ [] →
      (∀ (off : BitVec 24) (v : Word) (whole : Bool),
        ∀ c ∈ [Instr.hubViewWrite q off v whole, .cellViewWrite q off v whole, .privateWindowWrite q off v whole],
        ∃ t, exec c s = .next t ∧ t.link.stalled = s.link.stalled ++ [.bar0 q off.toNat v whole] ∧
          t = { s with link := { t.link with fifo := s.link.fifo, bundle := s.link.bundle, accstat := s.link.accstat }, regs := t.regs }) ∧
      (∀ (off : BitVec 28) (d : List Byte), off.toNat + d.length ≤ 2 ^ 28 → ∃ t, exec (.bar2Write q off d) s = .next t ∧
        t.link.stalled = s.link.stalled ++ [.bar2 q off.toNat d] ∧
        t = { s with link := { t.link with fifo := s.link.fifo, bundle := s.link.bundle, accstat := s.link.accstat }, regs := t.regs })) ∧
    (s.link.fifo.length < 256 →
      (∀ (q : Port) (off : BitVec 24) (v : Word) (r : List PostedWrite), s.link.stalled = .bar0 q off.toNat v true :: r →
        s.clk.alive[q] = true → 0x400000 ≤ off.toNat → off.toNat < 0x800000 → off.toNat % 4 = 0 → s.boot.admitted = true →
        exec .stalledWrite s =
          .next { s with link := { s.link with fifo := s.link.fifo ++ [⟨q, off.toNat, v⟩], stalled := r } }) ∧
      (∀ (q : Port) (off : BitVec 24) (v : Word) (whole : Bool), s.link.stalled = [.bar0 q off.toNat v whole] →
        ∀ c ∈ [Instr.hubViewWrite q off v whole, .cellViewWrite q off v whole, .privateWindowWrite q off v whole],
        exec .stalledWrite s = exec c { s with link := { s.link with stalled := [] } }) ∧
      (∀ (q : Port) (off : BitVec 28) (d : List Byte), s.link.stalled = [.bar2 q off.toNat d] → off.toNat + d.length ≤ 2 ^ 28 →
        exec .stalledWrite s = exec (.bar2Write q off d) { s with link := { s.link with stalled := [] } })) ∧
    (256 ≤ s.link.fifo.length ∨ s.link.stalled = [] → exec .stalledWrite s = .next s) ∧
    (assisted s .sdp 0 = false → ∃ t, exec .stagingCutOff s = .next t ∧ t.link.fifo = [] ∧ t.link.bundle = s.link.bundle ++ s.link.fifo ∧
      t.link.stalled = s.link.stalled ∧ s.clk.now ≤ t.clk.now ∧
      t = { s with clk := { s.clk with now := t.clk.now }, link := t.link, regs := t.regs, lanePriv := t.lanePriv })

/-- R48, R49, R62: a hub-view write to a read-write register of a page whose chapter attaches nothing to the new value puts the
implemented bits into the register, counts in `CHG`, and changes nothing else; the register then reads as written. A value out of
range leaves the register and records `ERR` code 0x0004. R8: an offset that no page defines is ignored. R9: a write to a read-only
register records `ERR` code 0x0003 and changes nothing else. After each the page notes its `READY` (`settleReady`, log 10).
Rests on the model's choices of log 10, 13, 39. -/
def Obligations.HubViewWrites : Prop :=
  ∀ (s : State) (q : Port) (off : BitVec 24) (v : Word), s.clk.on = true → s.clk.alive[q] = true → regsWf s.regs = true →
    off.toNat < 0x400000 → off.toNat % 4 = 0 → s.link.fifo.length < 256 → s.link.stalled = [] →
    (∀ (a : RegAddr) (r : RegRow), decodeWindow false off.toNat = some a → regRow a.pg a.off = some r → r.acc = .rw →
      0x80 ≤ a.off → a.pg ∈ [Pg.pwr, .tb, .wlc, .prg, .crt] → hubCommand q a.pg a.inst a.off v = none →
      (refusal s a.pg a.inst a.off (v &&& r.mask) = none →
        ∃ t, exec (.hubViewWrite q off v true) s = .next (settleReady off.toNat t) ∧ reg t a.pg a.inst a.off = v &&& r.mask ∧
          reg t a.pg a.inst Reg.CHG = reg s a.pg a.inst Reg.CHG + 1 ∧
          RegsBut [regKey a.pg a.inst a.off, regKey a.pg a.inst Reg.CHG] s t ∧ t = { s with regs := t.regs }) ∧
      (refusal s a.pg a.inst a.off (v &&& r.mask) = some 4 →
        ∃ t, exec (.hubViewWrite q off v true) s = .next (settleReady off.toNat t) ∧ field (reg t a.pg a.inst Reg.ERR) 15 0 = 4 ∧
          RegsBut (errKeys a.pg a.inst) s t ∧ t = { s with regs := t.regs, link := t.link })) ∧
    (decodeWindow false off.toNat = none → exec (.hubViewWrite q off v true) s = .next s) ∧
    (∀ (a : RegAddr) (r : RegRow), decodeWindow false off.toNat = some a → regRow a.pg a.off = some r → r.acc = .ro →
      locked s a.pg = false → ∃ t, exec (.writeToReadOnly q off v) s = .next (settleReady off.toNat t) ∧
        field (reg t a.pg a.inst Reg.ERR) 15 0 = 3 ∧ RegsBut (errKeys a.pg a.inst) s t ∧ t = { s with regs := t.regs, link := t.link })

/-- R50, R76, R96: a hub-view read returns what the reference hub holds; `HCMP` sets where the other hub differs on a register that is
not per hub; a read of `NOW_LO` returns cell time at its edge and latches the high half for its port; a read of `LINE_LO` returns the
value of the last sync instant and latches its high half. R8: an offset that no page defines reads 0.
Rests on the model's choices of log 7, 8, 13, 37, 38. -/
def Obligations.HubViewReads : Prop :=
  ∀ (s : State) (q : Port), s.clk.on = true → s.clk.alive[q] = true →
    (∀ (off : BitVec 24) (x : Bool), off.toNat < 0x400000 → off.toNat % 4 = 0 →
      (∀ a : RegAddr, decodeWindow false off.toNat = some a →
        ∃ t, exec (.hubViewRead q off true x) s = .next t ∧ t.link.readData[q] = readReg s q s.clk.refHub a.pg a.inst a.off ∧
          (x = true → bothHubs s = true → perHub a.pg a.off = false → (t.link.accstat[q]).getLsbD accHcmp = true) ∧
          t.clk = s.clk ∧ t.mem = s.mem) ∧
      (decodeWindow false off.toNat = none →
        exec (.hubViewRead q off true x) s = .next { s with link := { s.link with readData := vset s.link.readData q 0 } })) ∧
    (∀ dt : Nat, ∃ t, exec (.nowLoRead dt q) s = .next t ∧
      t.link.readData[q] = BitVec.ofNat 32 ((s.clk.now + dt * edgeStep s.clk.rho) / 2 ^ 32) ∧
      t.link.nowHi[q] = BitVec.ofNat 32 ((s.clk.now + dt * edgeStep s.clk.rho) / 2 ^ 32 / 2 ^ 32) ∧
      t.link.nowHi[other q] = s.link.nowHi[other q] ∧ t = { advance dt s with link := t.link }) ∧
    (∃ t, exec (.lineLoRead q) s = .next t ∧ t.link.readData[q] = lo32 s.line.atSync ∧ t.link.lineHi[q] = hi32 s.line.atSync ∧
      t.link.lineHi[other q] = s.link.lineHi[other q] ∧ t = { s with link := t.link })

/-- R57: a cell-view read of three lanes in step returns the value that two of them share, and sets `CVOTE` where the third differs;
where all three differ, or two lanes differ, it returns the lead's value and sets `NOMAJ`; where all agree it returns the agreed value
and sets no flag. Each lane reads the register xor its mask.
Rests on the model's choices of log 8, 13, 37, 38. -/
def Obligations.CellViewReads : Prop :=
  ∀ (s : State) (q : Port) (off : BitVec 24) (m : Vector Word 3) (a : RegAddr) (l0 l1 l2 : Lane), s.clk.on = true →
    s.clk.alive[q] = true → s.boot.admitted = true → 0x400000 ≤ off.toNat → off.toNat < 0x800000 → off.toNat % 4 = 0 →
    decodeWindow true (off.toNat % 0x400000) = some a → laneOfRole s .lead = some l0 →
    (∀ w : Word, w = readReg s q s.clk.refHub a.pg a.inst a.off →
      (lanesIn s = [l0, l1, l2] ∨ lanesIn s = [l1, l0, l2] ∨ lanesIn s = [l1, l2, l0] →
        (m[l0] = m[l1] → m[l0] = m[l2] → ∃ t, exec (.cellViewRead q off true m) s = .next t ∧ t.link.readData[q] = w ^^^ m[l0] ∧
          t.link.accstat = s.link.accstat) ∧
        (m[l0] = m[l1] → m[l0] ≠ m[l2] → ∃ t, exec (.cellViewRead q off true m) s = .next t ∧ t.link.readData[q] = w ^^^ m[l0] ∧
          (t.link.accstat[q]).getLsbD accCvote = true) ∧
        (m[l0] = m[l2] → m[l0] ≠ m[l1] → ∃ t, exec (.cellViewRead q off true m) s = .next t ∧ t.link.readData[q] = w ^^^ m[l0] ∧
          (t.link.accstat[q]).getLsbD accCvote = true) ∧
        (m[l1] = m[l2] → m[l0] ≠ m[l1] → ∃ t, exec (.cellViewRead q off true m) s = .next t ∧ t.link.readData[q] = w ^^^ m[l1] ∧
          (t.link.accstat[q]).getLsbD accCvote = true) ∧
        (m[l0] ≠ m[l1] → m[l0] ≠ m[l2] → m[l1] ≠ m[l2] → ∃ t, exec (.cellViewRead q off true m) s = .next t ∧
          t.link.readData[q] = w ^^^ m[l0] ∧ (t.link.accstat[q]).getLsbD accNomaj = true)) ∧
      (lanesIn s = [l0, l1] ∨ lanesIn s = [l1, l0] →
        (m[l0] = m[l1] → ∃ t, exec (.cellViewRead q off true m) s = .next t ∧ t.link.readData[q] = w ^^^ m[l0] ∧
          t.link.accstat = s.link.accstat) ∧
        (m[l0] ≠ m[l1] → ∃ t, exec (.cellViewRead q off true m) s = .next t ∧ t.link.readData[q] = w ^^^ m[l0] ∧
          (t.link.accstat[q]).getLsbD accNomaj = true)))

/-- R48, R58, R59, R62: a write through the private window reaches a fenced cartridge's own copy of a read-write register and counts in
its own `CHG`; a value out of range, or a write to a read-only register, is recorded in its own `ERR` and leaves the register. The write
is ignored and sets `PWREJ` where the selected cartridge is not fenced; with no cartridge selected it is ignored.
Rests on the model's choices of log 4, 13, 35, 39. -/
def Obligations.PrivateWindow : Prop :=
  ∀ (s : State) (q : Port) (off : BitVec 24) (v : Word), s.clk.on = true → s.clk.alive[q] = true → 0x800000 ≤ off.toNat →
    off.toNat < 0xC00000 → off.toNat % 4 = 0 → s.link.fifo.length < 256 → s.link.stalled = [] →
    (5 ≤ (s.link.winsel[q]).toNat → exec (.privateWindowWrite q off v true) s = .next s) ∧
    (∀ c : Cart, (s.link.winsel[q]).toNat = c.val →
      (fenced s c = false → ∃ t, exec (.privateWindowWrite q off v true) s = .next t ∧
        (t.link.accstat[q]).getLsbD accPwrej = true ∧ t.priv = s.priv ∧ t = { s with link := t.link, regs := t.regs }) ∧
      (∀ (a : RegAddr) (r : RegRow) (w : Word), fenced s c = true → privateAddr c off.toNat = some a → regRow a.pg a.off = some r →
        locked s a.pg = false → w = stored a.pg a.off (v &&& r.mask) →
        (r.acc = .rw → 0x80 ≤ a.off → ownSpare c a = false → inRange s a.pg a.inst a.off w = true →
          exec (.privateWindowWrite q off v true) s = .next { s with
            priv := Sparse.put (regReset a.pg a.inst Reg.CHG) (privKey c { a with off := Reg.CHG }) (ownReg s c a Reg.CHG + 1)
              (Sparse.put (regReset a.pg a.inst a.off) (privKey c a) w s.priv) }) ∧
        (r.acc = .rw → 0x80 ≤ a.off → ownSpare c a = false → inRange s a.pg a.inst a.off w = false →
          exec (.privateWindowWrite q off v true) s = .next (ownErr c a 0x0004 s)) ∧
        (r.acc = .ro → exec (.privateWindowWrite q off v true) s = .next (ownErr c a 0x0003 s))))

/-- R69, R70, R535: a BAR2 write reaches the bytes of the writable ranges and no other byte; it is refused before the admission with
`ERR` code 0x0100. R71: a BAR2 read returns the lead's memory, and sets `B2CMP` where the second's differs.
Rests on the model's choices of log 6, 8, 27. -/
def Obligations.BulkWindow : Prop :=
  ∀ (s : State) (q : Port) (off : BitVec 28), s.clk.on = true → s.clk.alive[q] = true →
    (∀ d : List Byte, off.toNat + d.length ≤ 2 ^ 28 → memWf s.mem = true → s.link.fifo.length < 256 → s.link.stalled = [] →
      (s.boot.admitted = true → laneCount s ≠ 0 → ∃ t, exec (.bar2Write q off d) s = .next t ∧
        (∀ k, k < d.length → writable (off.toNat + k) = true → memByte t (off.toNat + k) = d.getD k 0) ∧
        (∀ a, a < off.toNat ∨ off.toNat + d.length ≤ a ∨ writable a = false → memByte t a = memByte s a) ∧
        t = { s with mem := t.mem }) ∧
      (s.boot.admitted = false → regsWf s.regs = true → ∃ t, exec (.bar2Write q off d) s = .next t ∧
        field (reg t .mod 0 Reg.ERR) 15 0 = 0x0100 ∧ RegsBut (errKeys .mod 0) s t ∧ t = { s with regs := t.regs, link := t.link })) ∧
    (∀ (n : BitVec 13) (x : Bool), off.toNat + n.toNat ≤ 2 ^ 28 → ∃ t, exec (.bar2Read q off n x) s = .next t ∧
      t.link.bulkData[q] = memBytes s off.toNat n.toNat ∧
      (x = true → (laneOfRole s .second).isSome = true → (t.link.accstat[q]).getLsbD accB2cmp = true) ∧
      t = { s with link := t.link, regs := t.regs })

/-- R64, R66: when hardware sets a flag of `IRQ_STAT` in the cycle in which a write of 1 clears it, the set wins and the flag reads 1
afterwards; a flag that is written 1 and not set reads 0, one written 0 is unchanged.
Rests on the model's choices of log 26, 34, 101. -/
def Obligations.SetWinsOverClear : Prop :=
  ∀ (s : State) (g : BitVec 24) (v h : Word) (a : RegAddr) (b : Nat), s.clk.on = true → regsWf s.regs = true → g.toNat < 0x800000 →
    decodeWindow (decide (cellBase ≤ g.toNat)) (g.toNat % 0x400000) = some a → locked s a.pg = false →
    isProtected a.pg = false → s.sec.touched = [] → b < 32 → b < 4 ∨ 8 ≤ b →
    ∃ t, exec (.irqStatClear g v h) s = .next t ∧
      bit (reg t a.pg a.inst Reg.IRQ_STAT) b = (bit h b || (bit (reg s a.pg a.inst Reg.IRQ_STAT) b && !bit v b)) ∧
      RegsBut [regKey a.pg a.inst Reg.IRQ_STAT, regKey a.pg a.inst Reg.CHG] s t ∧ t = { s with regs := t.regs, link := t.link }

/-- R62, R421: `IRQ_SET` sets the status bits written 1; `CTRL.EN` and `MODE.SEL` of a page with nothing attached take the value
written, and an unknown mode or one the page lacks records `ERR` code 0x0001; `UNLOCK` opens a protected page to the key of a full
session.
Rests on the model's choices of log 26, 34. -/
def Obligations.PageCommands : Prop :=
  ∀ (s : State) (g : BitVec 24) (a : RegAddr), s.clk.on = true → regsWf s.regs = true → g.toNat < 0x800000 →
    decodeWindow (decide (cellBase ≤ g.toNat)) (g.toNat % 0x400000) = some a → s.sec.touched = [] →
    (∀ v : Word, isProtected a.pg = false → ∃ t, exec (.irqSet g v) s = .next t ∧
      reg t a.pg a.inst Reg.IRQ_STAT = reg s a.pg a.inst Reg.IRQ_STAT ||| (v &&& 0xFFFFFF0F) ∧
      RegsBut [regKey a.pg a.inst Reg.IRQ_STAT, regKey a.pg a.inst Reg.CHG] s t ∧ t = { s with regs := t.regs, link := t.link }) ∧
    (∀ en : Bool, a.pg ∈ [Pg.tb, .eth, .wls, .adc, .stp, .plf, .kin, .sdp] → (pgRow a.pg).ctrlFixed = false →
      ∃ t, exec (.ctrlEn g en) s = .next t ∧ enabled t a.pg a.inst = en ∧ t.clk = s.clk) ∧
    (∀ sel : BitVec 2, isProtected a.pg = false → 2 ≤ sel.toNat ∨ (sel = 1 ∧ (pgRow a.pg).assisted = false) →
      ∃ t, exec (.modeSel g sel) s = .next t ∧ field (reg t a.pg a.inst Reg.ERR) 15 0 = 1 ∧
        RegsBut (errKeys a.pg a.inst) s t ∧ t = { s with regs := t.regs, link := t.link }) ∧
    (∀ sel : BitVec 2, a.pg ∈ [Pg.tb, .sdp, .mnt] → sel.toNat ≤ 1 →
      ∃ t, exec (.modeSel g sel) s = .next t ∧ fld t a.pg a.inst Reg.MODE 1 0 = sel.toNat ∧ t.clk = s.clk) ∧
    (∀ x : Session, s.sec.session = some x → x.limited = false → a.pg = .saf ∨ a.pg = .sio →
      ∃ t, exec (.unlock g x.key) s = .next t ∧ t.sec.saf = (s.sec.saf || a.pg == .saf) ∧ t.sec.sio = (s.sec.sio || a.pg == .sio) ∧
        t = { s with sec := t.sec, regs := t.regs })

/-- R566: a block reset of the time base puts the servo and line phase back as at power good, with the page's registers at their reset
values; cell time and the cycle tag stay.
Rests on the model's choices of log 26, 34. -/
def Obligations.TimeBaseReset : Prop :=
  ∀ (s : State) (g : BitVec 24), s.clk.on = true → regsWf s.regs = true → s.sec.touched = [] → g.toNat = pageAddr .tb 0 →
    ∃ t, exec (.srst g) s = .next t ∧ t.servo = {} ∧ t.line.offset = 0 ∧ t.line.valid = false ∧ t.clk.rho = 0 ∧
      t.clk.now = s.clk.now ∧ t.clk.tag = s.clk.tag ∧ fld t .tb 0 Reg.MODE 1 0 = 0 ∧ reg t .tb 0 Reg.IRQ_EN = 0 ∧
      reg t .tb 0 Reg.TB_JUMP_THR = 1000 ∧ reg t .tb 0 Reg.TB_PD_STEP = 50 ∧
      reg t .tb 0 Reg.CNT = reg s .tb 0 Reg.CNT ∧ t.mem = s.mem
-- Plant time, line phase and Ethernet

/-- R83, R86, R87, R89, R93: a host offset sample in host-assisted mode with `KIND` 0. The first one aligns plant time; a later one
within `JUMP_THR` enters the integrator, clamped to ±200 ppm, and sets the target rate; one beyond it is refused: `STEP_PEND` sets,
`STEP_VAL` holds the offset, the servo holds over. In hardware mode the write has no effect.
Rests on the model's choices of log 80. -/
def Obligations.HostOffsetSample : Prop :=
  ∀ (s : State) (v : Word), s.clk.on = true →
    (assisted s .tb 0 = false → exec (.haOfs v) s = .next s) ∧
    (assisted s .tb 0 = true → flag s .tb 0 Reg.TB_HA_CFG 0 = false → s.servo.quar = 0 →
      (s.servo.aligned = false → ∃ t, exec (.haOfs v) s = .next t ∧ t.servo.aligned = true ∧
        t.servo.plantOfs = s.servo.plantOfs + BitVec.ofInt 64 v.toInt ∧ t.servo.integ = s.servo.integ ∧
        t = { s with servo := t.servo, regs := t.regs, link := t.link }) ∧
      (s.servo.aligned = true → v.toInt.natAbs ≤ fld s .tb 0 Reg.TB_JUMP_THR 29 0 →
        ∃ t, exec (.haOfs v) s = .next t ∧
          t.servo.integ = max (-13107200000) (min 13107200000 (s.servo.integ + (fld s .tb 0 Reg.TB_KI 23 0 : Int) * v.toInt)) ∧
          t.servo.target = (fld s .tb 0 Reg.TB_KP 23 0 : Int) * v.toInt + t.servo.integ ∧
          t.servo.stepPend = false ∧ t.servo.plantOfs = s.servo.plantOfs ∧
          t = { s with servo := t.servo, regs := t.regs, link := t.link }) ∧
      (s.servo.aligned = true → fld s .tb 0 Reg.TB_JUMP_THR 29 0 < v.toInt.natAbs →
        ∃ t, exec (.haOfs v) s = .next t ∧ t.servo.st = .holdover ∧ t.servo.stepPend = true ∧
          t.servo.stepVal = BitVec.ofInt 64 v.toInt ∧ t.servo.integ = s.servo.integ ∧ t.servo.plantOfs = s.servo.plantOfs ∧
          (regsWf s.regs = true → bit (reg t .tb 0 Reg.IRQ_STAT) tbStep = true) ∧
          t = { s with servo := t.servo, regs := t.regs, link := t.link }))

/-- R81, R83, R86, R91: a PTP offset sample on the port in SLAVE state, corrected by the link's asymmetry, goes into `OFFSET` (its low
32 bits, the model's choice, log 110) and its path delay into `MPD` of its port; in hardware mode it reaches the servo, the first one to align plant time; a path delay that jumps by more than `PD_STEP` starts a quarantine whose first
sample it is. R88: `STEP_ACK` with `ACCEPT` waits for the next sync instant. R93, R100: `HA_RATE` takes a word within ±200 ppm and
records `ERR` code 0x0004 otherwise; `WINDOW` bus cycles without a host sample put the servo into HOLDOVER.
Rests on the model's choices of log 80, 83, 110. -/
def Obligations.TimeServoInputs : Prop :=
  ∀ (s : State), s.clk.on = true → regsWf s.regs = true →
    (∀ (e : Hub) (o x : BitVec 64) (d : Word), ptpSlave s e = true → x = o + (reg s .ptp e Reg.PTP_ASYM_COR).signExtend 64 →
      ∃ t, exec (.offsetSample e o d) s = .next t ∧ reg t .ptp e Reg.PTP_OFFSET = lo32 x ∧ reg t .ptp e Reg.PTP_MPD = d ∧
        (t.ptp[e]).mpd = some d.toInt ∧ (assisted s .tb 0 = true → t.servo = s.servo) ∧
        (assisted s .tb 0 = false → (s.ptp[e]).mpd = none → s.servo.quar = 0 → s.servo.aligned = false →
          t.servo.plantOfs = s.servo.plantOfs + x ∧ t.servo.aligned = true ∧ t.servo.src = e) ∧
        (∀ m : Int, assisted s .tb 0 = false → (s.ptp[e]).mpd = some m → (reg s .tb 0 Reg.TB_PD_STEP).toNat < (d.toInt - m).natAbs →
          t.servo.quar = 7 ∧ t.servo.plantOfs = s.servo.plantOfs ∧ bit (reg t .ptp e Reg.IRQ_STAT) ptpPdStep = true) ∧
        t = { s with ptp := t.ptp, servo := t.servo, regs := t.regs, link := t.link }) ∧
    (∀ v : Word, bit v 0 = true → exec (.stepAck v) s = .next { s with servo := { s.servo with ackPend := true } }) ∧
    (∀ v : Word, bit v 0 = false → exec (.stepAck v) s = .next s) ∧
    (∀ v : Word, v.toInt.natAbs ≤ 51200000 → ∃ t, exec (.haRate v) s = .next t ∧ reg t .tb 0 Reg.TB_HA_RATE = v ∧
      RegsBut [regKey .tb 0 Reg.TB_HA_RATE, regKey .tb 0 Reg.CHG] s t ∧ t = { s with regs := t.regs }) ∧
    (∀ v : Word, 51200000 < v.toInt.natAbs → ∃ t, exec (.haRate v) s = .next t ∧ field (reg t .tb 0 Reg.ERR) 15 0 = 4 ∧
      RegsBut (errKeys .tb 0) s t ∧ t = { s with regs := t.regs, link := t.link }) ∧
    (assisted s .tb 0 = true → flag s .tb 0 Reg.TB_HA_CFG 0 = false → fld s .tb 0 Reg.TB_HA_CFG 31 16 ≤ s.servo.haAge →
      ∃ t, exec .tbHaWindowExpiry s = .next t ∧ bit (reg t .tb 0 Reg.IRQ_STAT) irqHaLate = true ∧
        reg t .tb 0 (Reg.CNT + 28) = reg s .tb 0 (Reg.CNT + 28) + 1 ∧
        (s.servo.st = .acquire ∨ s.servo.st = .locked → t.servo.st = .holdover) ∧ t.servo.plantOfs = s.servo.plantOfs ∧
        t = { s with servo := t.servo, regs := t.regs, link := t.link })

/-- R94, R95: a write of `LINE_CFG` takes `EN`, `INV` and `SRC`; a change of `SRC` while `EN` = 1 leaves `SRC` and records `ERR` code
0x0101; a `LOAD` waits for the next sync instant, and is refused with 0x0102 while the source channel is faulted.
Rests on the model's choices of log 4, 46, 85. -/
def Obligations.LineCommands : Prop :=
  ∀ (s : State), s.clk.on = true → regsWf s.regs = true →
    (∀ v : Word, bit v 8 = false → lineEn s = false ∨ field v 7 4 = fld s .tb 0 Reg.TB_LINE_CFG 7 4 →
      ∃ t, exec (.lineCfg v) s = .next t ∧ reg t .tb 0 Reg.TB_LINE_CFG = v &&& 0xF3 ∧
        reg t .tb 0 Reg.ERR = reg s .tb 0 Reg.ERR ∧ t.line.valid = s.line.valid ∧ t.clk = s.clk ∧ t.enc = s.enc) ∧
    (∀ v : Word, bit v 8 = false → lineEn s = true → field v 7 4 ≠ fld s .tb 0 Reg.TB_LINE_CFG 7 4 →
      ∃ t, exec (.lineCfg v) s = .next t ∧ fld t .tb 0 Reg.TB_LINE_CFG 7 4 = fld s .tb 0 Reg.TB_LINE_CFG 7 4 ∧
        flag t .tb 0 Reg.TB_LINE_CFG 0 = bit v 0 ∧ field (reg t .tb 0 Reg.ERR) 15 0 = 0x0101 ∧ t.clk = s.clk ∧ t.enc = s.enc) ∧
    ((s.enc[lineSrc s]).fault = false → ∃ t, exec .lineLoad s = .next t ∧ t.line.loadPend = true ∧
      t.line.last = s.line.last ∧ t.line.valid = s.line.valid ∧ t.clk = s.clk ∧ t.enc = s.enc) ∧
    ((s.enc[lineSrc s]).fault = true → ∃ t, exec .lineLoad s = .next t ∧ t.line.loadPend = s.line.loadPend ∧
      field (reg t .tb 0 Reg.ERR) 15 0 = 0x0102 ∧ t.clk = s.clk ∧ t.enc = s.enc)

/-- R75, R80, R81, R101, R102, R570: a message outside the options that the port supports and selects counts in `CNT5` and has no other
effect on its port. A Sync counts in `CNT0`, is timestamped in cell time, and ends UNCALIBRATED where it comes from the master followed; a
Delay_Resp counts in `CNT3`; an Announce in `CNT4`, and the first one of an ordinary clock that only follows gives its port
UNCALIBRATED state and the grandmaster's identity. A transmission carries plant time and counts; an announce receipt timeout sets
`ANNTO` and leaves the master, for LISTENING on a clock that only follows.
Rests on the model's choices of log 7, 83, 84. -/
def Obligations.PtpMessages : Prop :=
  ∀ (s : State) (dt : Nat) (e : Hub), s.clk.on = true → regsWf s.regs = true →
    (∀ m : PtpMsg, ∃ t, exec (.ptpMessage dt e m) s = .next t ∧
      t = { advance dt s with ptp := t.ptp, servo := t.servo, regs := t.regs, link := t.link }) ∧
    (∀ m : PtpMsg, s.clk.alive[e] = true → enabled s .ptp e = true →
      ((m.kind = .management ∨ m.kind = .signalling ∨ m.transport = .udp6 ∨ m.extra = true ∨
        m.domain.toNat ≠ fld s .ptp e Reg.PTP_CFG 23 16 ∨ m.gptp ≠ flag s .ptp e Reg.PTP_CFG 5) ∨ ptpAccepts s e m = false) →
      ∃ t, exec (.ptpMessage dt e m) s = .next t ∧ t.ptp = s.ptp ∧
        reg t .ptp e (Reg.CNT + 20) = reg s .ptp e (Reg.CNT + 20) + 1 ∧ t = { advance dt s with regs := t.regs, link := t.link }) ∧
    (∀ m : PtpMsg, ptpRuns s e = true → ptpAccepts s e m = true → m.kind = .sync → ∃ t, exec (.ptpMessage dt e m) s = .next t ∧
      reg t .ptp e Reg.CNT = reg s .ptp e Reg.CNT + 1 ∧ (t.ptp[e]).stamp = (s.clk.now + dt * edgeStep s.clk.rho) / 2 ^ 32 ∧
      (t.ptp[e]).follow = (if m.twoStep then some m.seq else none) ∧
      (fld s .ptp e Reg.PTP_PSTATE 3 0 = 8 → (s.ptp[e]).master = some m.data.sender → fld t .ptp e Reg.PTP_PSTATE 3 0 = 9)) ∧
    (∀ m : PtpMsg, ptpRuns s e = true → ptpAccepts s e m = true → m.kind = .delayResp → ∃ t, exec (.ptpMessage dt e m) s = .next t ∧
      reg t .ptp e (Reg.CNT + 12) = reg s .ptp e (Reg.CNT + 12) + 1 ∧
      ∀ d, m.delay = some d → reg t .ptp e Reg.PTP_MPD = d ∧ (t.ptp[e]).mpd = some d.toInt) ∧
    (∀ m : PtpMsg, ptpRuns s e = true → ptpAccepts s e m = true → m.kind = .announce → ptpRole s e = 1 → (s.ptp[e]).heard = [] →
      (s.ptp[e]).master = none → ∃ t, exec (.ptpMessage dt e m) s = .next t ∧
        reg t .ptp e (Reg.CNT + 16) = reg s .ptp e (Reg.CNT + 16) + 1 ∧ fld t .ptp e Reg.PTP_PSTATE 3 0 = 8 ∧
        (t.ptp[e]).master = some m.data.sender ∧ (t.ptp[e]).heard = [m.data] ∧
        reg t .ptp e Reg.PTP_GM_HI = hi32 m.data.gm ∧ reg t .ptp e Reg.PTP_GM_LO = lo32 m.data.gm) ∧
    (∀ (k : PtpKind) (u : State), u = ptpQualify e (advance dt s) →
      (ptpSends u e k = true → ∃ t, exec (.ptpTransmit dt e k) s = .next t ∧
        (t.ptp[e]).sent = (k, plantTime u) :: (u.ptp[e]).sent ∧ (t.ptp[other e]) = u.ptp[other e] ∧
        (k = .sync → reg t .ptp e (Reg.CNT + 4) = reg s .ptp e (Reg.CNT + 4) + 1) ∧
        t = { u with ptp := t.ptp, regs := t.regs, link := t.link }) ∧
      (ptpSends u e k = false → exec (.ptpTransmit dt e k) s = .next u) ∧
      ((s.ptp[e]).qual = none → u = advance dt s)) ∧
    (ptpSlave s e = true → ptpRole s e ≤ 2 → (s.ptp[e]).master.isSome = true →
      (∀ d ∈ (s.ptp[e]).heard, some d.sender = (s.ptp[e]).master) → ∃ t, exec (.announceReceiptTimeout e) s = .next t ∧
      fld t .ptp e Reg.PTP_PSTATE 3 0 = (if ptpRole s e = 1 then 4 else 6) ∧ (t.ptp[e]).heard = [] ∧ (t.ptp[e]).master = none ∧
      bit (reg t .ptp e Reg.IRQ_STAT) ptpAnnTo = true ∧
      (s.servo.src = e → s.servo.st = .locked → assisted s .tb 0 = false → t.servo.st = .holdover) ∧
      t = { s with ptp := t.ptp, servo := t.servo, regs := t.regs, link := t.link })

/-- R66, R423, R533, R571: an Ethernet link change shows in `LINK` and, where it is one, in `LINKCHG`; `RENEG` takes the link down; a
lost link ends the management connections and the session of its port. After a link change the port notes its `READY` (`noteReady`, log 10). A host port's link loss ends its safety session, `PERST` clears its
MSI-X table, a table write sets the entry, and unmasking a pending vector sends its message.
Rests on the model's choices of log 10, 11, 12, 19, 29, 32, 84. -/
def Obligations.Links : Prop :=
  ∀ (s : State), s.clk.on = true → regsWf s.regs = true →
    (∀ (e : Hub) (up master : Bool), s.clk.alive[e] = true → ∃ t, exec (.linkChange e up master) s = .next (noteReady .eth e t) ∧
      flag t .eth e Reg.ETH_LINK 0 = up ∧ flag t .eth e Reg.ETH_LINK 1 = (up && master) ∧
      (flag s .eth e Reg.ETH_LINK 0 ≠ up → bit (reg t .eth e Reg.IRQ_STAT) ethLinkChg = true) ∧
      (flag s .eth e Reg.ETH_LINK 0 = true → up = false → 2 + e.val ∉ t.sec.conns ∧ ∀ x, t.sec.session = some x → x.src ≠ 2 + e.val)) ∧
    (∀ e : Hub, s.clk.alive[e] = true → ∃ t, exec (.reneg e) s = .next (noteReady .eth e t) ∧ flag t .eth e Reg.ETH_LINK 0 = false) ∧
    (∀ (q : Port) (up : Bool), s.clk.alive[q] = true → ∃ t, exec (.hostPortLinkChange q up) s = .next t ∧ t.link.portUp[q] = up ∧
      (up = true → t = { s with link := t.link }) ∧ (up = false → ∀ x, t.sec.session = some x → x.src ≠ q.val)) ∧
    (∀ q : Port, s.clk.alive[q] = true → ∃ t, exec (.perst q) s = .next t ∧ t.link.portUp[q] = false ∧ t.link.msix[q] = [] ∧
      ∀ x, t.sec.session = some x → x.src ≠ q.val) ∧
    (∀ (q : Port) (n : Fin 64) (x : BitVec 64) (d : Word) (mask : Bool), s.clk.alive[q] = true →
      Sparse.wf (fun _ => ({} : MsixEntry)) s.link.msix[q] = true →
      ∃ t, exec (.msixTableWrite q n x d mask) s = .next t ∧
        (∀ e : MsixEntry, Sparse.get {} n.val s.link.msix[q] = e →
          Sparse.get {} n.val t.link.msix[q] = ⟨x, d, mask, e.pend && mask⟩ ∧
          t.link.sent = (if e.pend && !mask then ⟨q, n.val, x, d⟩ :: s.link.sent else s.link.sent)) ∧
        t = { s with link := t.link })

/-- R422, R423, R425, R427, R431: sessions and the change log. With the default (empty) password a first session is limited; a second
`OP` 1 while a session is open ends with result 3; `OP` 3 closes the session and relocks the pages, as the time-out 15 min after the last applied write to a protected page does; `OP` 2 without a
session ends with result 3, and with one stores the new password under a log entry; the key reads once; `LOG_ACK` acknowledges; a log
word read advances `LOG_WSEL`; a management connection counts as accepted or refused, and its closing ends its session; a lockout
that is over gives five attempts again.
Rests on the model's choices of log 9, 23, 68, 99, 101. -/
def Obligations.SecurityCommands : Prop :=
  ∀ (s : State), s.clk.on = true → regsWf s.regs = true →
    (∀ src : BitVec 3, s.sec.session = none → (∀ e, s.sec.lockEnd = some e → e ≤ nsOf s) → s.sec.store = none → (pwdBytes s).all (· == 0) = true →
      ∃ t, exec (.openSession src) s = .next t ∧ t.sec.session = some ⟨true, src.toNat, 0, false, nsOf s⟩ ∧ t.sec.result = 1 ∧
        t = { s with sec := t.sec, regs := t.regs, link := t.link }) ∧
    (∀ (src : BitVec 3) (salt : BitVec 128) (h : BitVec 256), s.sec.session = none → (∀ e, s.sec.lockEnd = some e → e ≤ nsOf s) →
      s.sec.store = some (salt, h) → Config.passwordHash salt (pwdBytes s) = h →
      ∃ t, exec (.openSession src) s = .next t ∧ t.sec.session = some ⟨false, src.toNat, Config.freeWord s.clk.free, false, nsOf s⟩ ∧
        t.sec.result = 1 ∧ t.sec.left = 5 ∧ t = { s with clk := t.clk, sec := t.sec, regs := t.regs, link := t.link }) ∧
    (∀ (src : BitVec 3) (e : Nat), s.sec.session = none → s.sec.lockEnd = some e → nsOf s < e →
      ∃ t, exec (.openSession src) s = .next t ∧ t.sec.session = none ∧ t.sec.result = 3 ∧ t = { s with sec := t.sec, regs := t.regs }) ∧
    (∀ src : BitVec 3, s.sec.session.isSome = true → ∃ t, exec (.openSession src) s = .next t ∧ t.sec.session = s.sec.session ∧
      t.sec.result = 3 ∧ t = { s with sec := t.sec, regs := t.regs }) ∧
    (s.sec.session.isSome = true → ∃ t, exec .endSession s = .next t ∧ t.sec.session = none ∧ t.sec.saf = false ∧ t.sec.sio = false ∧
      t.sec.result = 1 ∧ bit (reg t .sec 0 Reg.IRQ_STAT) secSessEnd = true ∧ t = { s with sec := t.sec, regs := t.regs, link := t.link }) ∧
    (∀ x : Session, s.sec.session = some x → nsOf s < x.last + 900000000000 → exec .sessionTimeout s = .next s) ∧
    (∀ x : Session, s.sec.session = some x → x.last + 900000000000 ≤ nsOf s → ∃ t, exec .sessionTimeout s = .next t ∧ t.sec.session = none ∧ t.sec.saf = false ∧
      t.sec.sio = false ∧ bit (reg t .sec 0 Reg.IRQ_STAT) secSessEnd = true ∧ t = { s with sec := t.sec, regs := t.regs, link := t.link }) ∧
    (∀ src : BitVec 3, s.sec.session = none → ∃ t, exec (.changePassword src) s = .next t ∧ t.sec.store = s.sec.store ∧
      t.sec.result = 3 ∧ t = { s with sec := t.sec, regs := t.regs }) ∧
    (∀ src : BitVec 3, s.sec.session.isSome = true → validPassword (pwdBytes s) = true → logFull s = false →
      ∃ t, exec (.changePassword src) s = .next t ∧ t.sec.result = 1 ∧ t.sec.seq = s.sec.seq + 1 ∧
        t.sec.store = some (Config.salt s.clk.free, Config.passwordHash (Config.salt s.clk.free) (pwdBytes s)) ∧
        t = { s with clk := t.clk, sec := t.sec, regs := t.regs, link := t.link }) ∧
    (∀ x : Session, s.sec.session = some x → ∀ q : Port, s.clk.alive[q] = true → ∃ t, exec (.sessKeyRead q) s = .next t ∧
      t.link.readData[q] = (if x.keyRead then 0 else x.key) ∧ t.sec.session = some { x with keyRead := true } ∧
      t = { s with sec := t.sec, link := t.link }) ∧
    (∀ v : Word, (v - s.sec.ack).toNat ≤ (s.sec.seq - s.sec.ack).toNat → ∃ t, exec (.logAck v) s = .next t ∧ t.sec.ack = v ∧
      t = { s with sec := t.sec, regs := t.regs }) ∧
    (∀ q : Port, s.clk.alive[q] = true → ∃ t, exec (.logDataRead q) s = .next t ∧ t.link.readData[q] = logData s ∧
      fld t .sec 0 Reg.SEC_LOG_WSEL 2 0 = (fld s .sec 0 Reg.SEC_LOG_WSEL 2 0 + 1) % 8 ∧
      RegsBut [regKey .sec 0 Reg.SEC_LOG_WSEL] s t ∧ t = { s with regs := t.regs, link := t.link }) ∧
    (∀ src : BitVec 3, ∃ t, exec (.managementConnection src true) s = .next t ∧ t.sec.conns = src.toNat :: s.sec.conns ∧
      reg t .sec 0 (Reg.CNT + 24) = reg s .sec 0 (Reg.CNT + 24) + 1 ∧ t = { s with sec := t.sec, regs := t.regs, link := t.link }) ∧
    (∀ src : BitVec 3, ∃ t, exec (.managementConnection src false) s = .next t ∧ t.sec = s.sec ∧
      reg t .sec 0 (Reg.CNT + 28) = reg s .sec 0 (Reg.CNT + 28) + 1) ∧
    (∀ src : BitVec 3, ∃ t, exec (.managementConnectionClosed src) s = .next t ∧ t.sec.conns = s.sec.conns.erase src.toNat ∧
      (∀ x, t.sec.session = some x → x.src ≠ src.toNat) ∧ t = { s with sec := t.sec, regs := t.regs, link := t.link }) ∧
    (∀ e : Nat, s.sec.lockEnd = some e → exec .pwlockExpiry s =
      .next (if e ≤ nsOf s then { s with sec := { s.sec with lockEnd := none, left := 5 } } else s))
-- Bus cycle, hubs, cartridges, custodians

/-- R33, R74: the first sync instant places T_s and carries tag 0; each later one adds 1 to the cycle tag and falls no earlier than T_s +
tag × bus cycle. R132, R405: at the feedback instant the count of cycles without good feedback of every arm with a model goes on or
starts anew. R356: a tick advances cell time to the next whole microsecond at least. R232: a plan-cycle start at a tag that is no multiple
of p is none, and the pages note their `READY` (`refreshReady`, log 10). All leave bulk memory's canonical form and the tag within the cycle.
Rests on the model's choices of log 3, 7, 10, 22, 47, 51, 102, 103. -/
def Obligations.BusCycle : Prop :=
  ∀ (s : State), s.clk.on = true →
    (∀ (x : BitVec 16) (y : Bool), ∃ t, exec (.syncInstant x y) s = .next t ∧ t.clk.started = true ∧ t.clk.running = true ∧
      (s.clk.running = false → t.clk.tag = 0 ∧ t.clk.ts = s.clk.now) ∧
      (s.clk.running = true → t.clk.ts = s.clk.ts ∧ (s.clk.started = true → t.clk.tag = s.clk.tag + 1) ∧
        (s.clk.started = false → t.clk.tag = s.clk.tag ∧ s.clk.ts + s.clk.tag.toNat * busNs s * 2 ^ 32 ≤ t.clk.now))) ∧
    (∃ t, exec .feedbackInstant s = .next t ∧ t.clk.tag = s.clk.tag ∧
      (∀ a : Arm, (armModel s a).isSome = true → (t.sdp.fb[a]).lost = (if feedbackLost s a then (s.sdp.fb[a]).lost + 1 else 0)) ∧
      (∀ a : Arm, armModel s a = none → t.sdp.fb[a] = s.sdp.fb[a]) ∧ t = { s with
        clk := { s.clk with now := t.clk.now }, sdp := t.sdp, adc := t.adc, regs := t.regs, link := t.link, lanePriv := t.lanePriv }) ∧
    (∃ t, exec .tick s = .next t ∧ (s.clk.now / 2 ^ 32 / 1000 + 1) * 1000 * 2 ^ 32 ≤ t.clk.now ∧ t.clk.tag = s.clk.tag ∧
      t.pending = s.pending) ∧
    (planStarts s = false → exec .planCycleStart s = .next (refreshReady s))

/-- R15, R16, R18, R23: a hub whose comparators mismatch stops driving and is silent, or falls out of its re-admission; a receiver's
report of a hub that it does not hear is kept until a valid transfer comes; the reference moves to H1, or back to H0 where H1 drives no
more (log 109), and raises `REFCHG`; a lane in step takes the first good copy of its input bundle with the bundle's single-hub flag and
ignores the second. R446, R447: a hub in re-admission locks, loads the equaliser and soldier tables, returns to LOAD on a mismatch and
faults on the third, and joins after 64 equal cycles. R548: a hot lane falls mute, a hot hub silent; both recover.
Rests on the model's choices of log 8, 10, 48, 68, 69, 101, 109. -/
def Obligations.HubContinuity : Prop :=
  ∀ (s : State), s.clk.on = true →
    (∀ h : Hub, s.clk.alive[h] = true → ∃ t, exec (.silent h) s = .next (refreshReady t) ∧ t.clk.alive[h] = false ∧
      t.clk.alive[other h] = s.clk.alive[other h] ∧ (t.carts[hubCart h]).st = .silent ∧ (t.cus[h]).st = .silent ∧
      t.clk.now = s.clk.now ∧ t.clk.tag = s.clk.tag ∧ t.mem = s.mem) ∧
    (∀ h : Hub, s.clk.alive[h] = false →
      (hubStandsBy s h = true → ∃ t, exec (.silent h) s = .next (refreshReady t) ∧ (t.carts[hubCart h]).st = .silent ∧
        (t.carts[hubCart h]).run = 0 ∧ (∀ d : Cart, d ≠ hubCart h → t.carts[d] = s.carts[d]) ∧
        t = { s with carts := t.carts, regs := t.regs, link := t.link }) ∧
      (hubStandsBy s h = false → exec (.silent h) s = .next (refreshReady s))) ∧
    (∀ (h : Hub) (c : Cart), exec (.silentHubDetected ⟨h, c⟩) s = .next (refreshReady (if c ≠ hubCart h ∧ receives s c = true then
      { s with clk := { s.clk with reported := vset s.clk.reported h (putBit s.clk.reported[h] c.val true) } } else s))) ∧
    (s.clk.alive[other s.clk.refHub] = true → s.clk.refHub = 0 ∨ s.clk.alive[(1 : Hub)] = false → regsWf s.regs = true →
      ∃ t, exec .referenceTakeover s = .next (refreshReady t) ∧
      t.clk.refHub = other s.clk.refHub ∧ bit (reg t .tb 0 Reg.IRQ_STAT) tbRefChg = true ∧
      t = { s with clk := { s.clk with refHub := other s.clk.refHub }, regs := t.regs, link := t.link }) ∧
    (s.clk.alive[other s.clk.refHub] = false ∨ (s.clk.refHub = 1 ∧ s.clk.alive[(1 : Hub)] = true) →
      exec .referenceTakeover s = .next (refreshReady s)) ∧
    (∀ (l : Lane) (h : Hub) (tag : BitVec 48), laneIn s l = true → s.clk.alive[h] = true →
      exec (.inputBundle l h tag false) s = .next s ∧
      ((∀ x ∈ s.clk.taken[l], x.tag ≠ tag) →
        exec (.inputBundle l h tag true) s = .next { s with clk := { s.clk with
          reported := vset s.clk.reported h (putBit s.clk.reported[h] l.val false)
          taken := vset s.clk.taken l (some ⟨tag, h, s.clk.single⟩) } }) ∧
      (∀ x : BundleCopy, s.clk.taken[l] = some x → x.tag = tag → exec (.inputBundle l h tag true) s = .next { s with
        clk := { s.clk with reported := vset s.clk.reported h (putBit s.clk.reported[h] l.val false) } })) ∧
    (∀ h : Hub, s.clk.alive[other h] = true →
      ((s.carts[hubCart h]).st = .lock → ∃ t, exec (.hubLockComplete h) s = .next t ∧ (t.carts[hubCart h]).st = .load ∧
        t = { s with carts := t.carts, regs := t.regs, link := t.link }) ∧
      ((s.carts[hubCart h]).st = .load → ∃ t, exec (.hubLoadComplete h) s = .next t ∧ (t.carts[hubCart h]).loaded = true ∧
        (t.carts[hubCart h]).st = .load ∧
        (∀ c : Chan, (t.wl.eq[h])[c] = ((s.wl.eq[other h])[c]).map fun x => (x.1, { x.2 with trained := true })) ∧
        t.wl.soldier[h] = s.wl.soldier[other h] ∧
        t = { s with carts := t.carts, wl := t.wl }) ∧
      ((s.carts[hubCart h]).st = .track → 64 ≤ (s.carts[hubCart h]).run → classFits s (hubCart h) = true →
        ∃ t, exec (.hubJoin h) s = .next (refreshReady t) ∧ (t.carts[hubCart h]).st = .instep ∧ t.clk.alive[h] = true ∧ (t.cus[h]).st = .shadow ∧
          t.clk.now = s.clk.now ∧ t.clk.tag = s.clk.tag ∧ t.mem = s.mem)) ∧
    (∀ h : Hub, (s.carts[hubCart h]).st = .track → ∃ t, exec (.hubTrackMismatch h) s = .next t ∧
      (t.carts[hubCart h]).st = (if 3 ≤ (s.carts[hubCart h]).fails + 1 then .faulted else .load) ∧
      (t.carts[hubCart h]).fails = (s.carts[hubCart h]).fails + 1 ∧ t = { s with carts := t.carts, regs := t.regs, link := t.link }) ∧
    (∀ l : Lane, exec (.thermalStop (laneCart l)) s =
      .next (refreshReady { s with carts := vset s.carts (laneCart l) { s.carts[laneCart l] with hot := true, mute := true } })) ∧
    (∀ h : Hub, s.clk.alive[h] = true → ∃ t, exec (.thermalStop (hubCart h)) s = .next (refreshReady t) ∧
      (t.carts[hubCart h]).hot = true ∧ (t.carts[hubCart h]).st = .silent ∧ t.clk.alive[h] = false ∧ t.mem = s.mem) ∧
    (∀ c : Cart, (s.carts[c]).hot = true → ∃ t, exec (.thermalRecovery c) s = .next (refreshReady t) ∧ (t.carts[c]).hot = false ∧
      (t.carts[c]).st = (if (s.carts[c]).st = .silent ∨ (s.carts[c]).st = .cocoon then .selftest else (s.carts[c]).st) ∧
      t = { s with carts := t.carts, regs := t.regs, link := t.link })

/-- R438, R440, R449, R462: `FENCE` of a cartridge in step waits for its boundary, and is refused with `ERR` code 0x0100 while another
cartridge of its kind is in re-admission; `READMIT` takes a cartridge in cocoon to LOAD or LOCK; `POWEROFF` takes a fenced one to OFF and is refused with 0x0103
otherwise (where a state that `READY` shows may change, the pages note it, `refreshReady`, log 10); an inserted cartridge waits for its lever, a closed lever applies power, soft start ends in self-test, self-test ends in
cocoon or fault; a removed lane in step falls mute, a fenced one leaves its bay empty; an opened lever takes a fenced one to OFF.
Rests on the model's choices of log 8, 9, 10, 67, 68, 69. -/
def Obligations.CartridgeStates : Prop :=
  ∀ (s : State) (c : Cart), s.clk.on = true → regsWf s.regs = true →
    (∀ l : Lane, c = laneCart l → (s.carts[c]).st = .instep → (s.carts[c]).fencePend = none →
      (otherReadmits s c = true → ∃ t, exec (.fence c) s = .next t ∧ t.carts = s.carts ∧
        field (reg t .crt c Reg.ERR) 15 0 = 0x0100 ∧ RegsBut (errKeys .crt c) s t ∧ t = { s with regs := t.regs, link := t.link }) ∧
      (otherReadmits s c = false → 2 ≤ (allLanes.filter fun l =>
          laneIn s l && (s.carts[laneCart l]).fencePend.isNone && laneCart l != c).length →
        exec (.fence c) s = .next { s with carts := vset s.carts c { s.carts[c] with fencePend := some 4 } })) ∧
    ((s.carts[c]).st = .cocoon → otherReadmits s c = false → ∃ t, exec (.readmit c) s = .next t ∧
      (t.carts[c]).st = (if 3 ≤ c.val then .lock else .load) ∧ (∀ d : Cart, d ≠ c → t.carts[d] = s.carts[d]) ∧
      t = { s with carts := t.carts, regs := t.regs, link := t.link }) ∧
    (fenced s c = true → ∃ t, exec (.poweroff c) s = .next (refreshReady t) ∧ (t.carts[c]).st = .off ∧
      (∀ d : Cart, d ≠ c → t.carts[d] = s.carts[d]) ∧ t = { s with carts := t.carts, regs := t.regs, link := t.link }) ∧
    (fenced s c = false → ∃ t, exec (.poweroff c) s = .next (refreshReady t) ∧ t.carts = s.carts ∧ field (reg t .crt c Reg.ERR) 15 0 = 0x0103 ∧
      RegsBut (errKeys .crt c) s t) ∧
    ((s.carts[c]).st = .empty → ∃ t, exec (.cartridgeInserted c) s = .next (refreshReady t) ∧ (t.carts[c]).st = .off ∧ (t.carts[c]).lever = true ∧
      (t.carts[c]).serial = (s.carts[c]).serial + 1 ∧ t = { s with clk := t.clk, carts := t.carts, regs := t.regs, link := t.link }) ∧
    ((s.carts[c]).st ≠ .empty → (s.carts[c]).st ≠ .instep → (s.carts[c]).gone = false →
      ∃ t, exec (.cartridgeRemoved c) s = .next (refreshReady t) ∧ (t.carts[c]).st = .empty ∧ bit (reg t .crt c Reg.IRQ_STAT) crtWithdraw = true ∧
        t = { s with carts := t.carts, regs := t.regs, link := t.link }) ∧
    (∀ l : Lane, c = laneCart l → (s.carts[c]).st = .instep → (s.carts[c]).gone = false →
      ∃ t, exec (.cartridgeRemoved c) s = .next (refreshReady t) ∧ (t.carts[c]).st = .instep ∧ (t.carts[c]).mute = true ∧
        bit (reg t .crt c Reg.IRQ_STAT) crtWithdraw = true) ∧
    ((s.carts[c]).st ≠ .empty → (s.carts[c]).st ≠ .instep → (s.carts[c]).lever = false →
      ∃ t, exec (.leverOpened c) s = .next (refreshReady t) ∧ (t.carts[c]).st = .off ∧ (t.carts[c]).lever = true ∧
        t = { s with carts := t.carts, regs := t.regs, link := t.link }) ∧
    ((s.carts[c]).st = .off → ∃ t, exec (.leverClosed c) s = .next (refreshReady t) ∧ (t.carts[c]).st = .power ∧ (t.carts[c]).lever = false ∧
      t = { s with carts := t.carts, regs := t.regs, link := t.link }) ∧
    ((s.carts[c]).st = .power → ∃ t, exec (.softStartComplete c) s = .next t ∧ (t.carts[c]).st = .selftest ∧
      t = { s with carts := t.carts, regs := t.regs, link := t.link }) ∧
    ((s.carts[c]).st = .selftest → (s.carts[c]).inserted = false →
      ∃ t, exec (.selftestComplete c [] true) s = .next (refreshReady t) ∧ (t.carts[c]).st = .cocoon ∧ (t.carts[c]).mute = false ∧
        t = { s with carts := t.carts, regs := t.regs, link := t.link }) ∧
    ((s.carts[c]).st = .selftest → ∃ t, exec (.selftestComplete c [] false) s = .next (refreshReady t) ∧ (t.carts[c]).st = .faulted ∧
      (t.carts[c]).cause = 6 ∧ t = { s with carts := t.carts, regs := t.regs, link := t.link })

/-- R440 to R444, R534: a lane's state region is loaded once its copy is complete; in TRACK the journal accumulates, and TRACK ends at a
plan-cycle boundary after 64 cycles with no page left; in CHECK an equal digest counts, and one that differs returns to TRACK, the third
to FAULTED; 16 equal and 8 timely ones pass. R534: a lane in cocoon is ready before the admission and re-admits itself after it.
R458: a remap of a fenced cartridge puts the index of the unit into a free spare of its kind, or notes the unit where none is free; clearing returns `MAP` to 0; a hub that is not fenced refuses with 0x0100.
Rests on the model's choices of log 10, 18, 103. -/
def Obligations.LaneJoining : Prop :=
  ∀ (s : State) (l : Lane), s.clk.on = true → regsWf s.regs = true →
    ((s.carts[laneCart l]).st = .load → (sourceLane s).isSome = true → exec (.stateRegionCopyComplete l) s = .next { s with
      carts := vset s.carts (laneCart l) { s.carts[laneCart l] with loaded := true, xferDone := (s.carts[laneCart l]).xferTotal } }) ∧
    (∀ b p : Nat, (s.carts[laneCart l]).st = .track → exec (.journal l b p) s = .next { s with
      carts := vset s.carts (laneCart l) { s.carts[laneCart l] with journal := (s.carts[laneCart l]).journal + b, pages := p } }) ∧
    ((s.carts[laneCart l]).st = .track → 64 ≤ (s.carts[laneCart l]).run → (s.carts[laneCart l]).pages = 0 →
      s.clk.tag.toNat % max 1 (planBus s) = 0 → ∃ t, exec (.trackEnd l) s = .next t ∧ (t.carts[laneCart l]).st = .check ∧
        (t.carts[laneCart l]).equalRun = 0 ∧ t = { s with carts := t.carts, regs := t.regs, link := t.link }) ∧
    (∀ y : Bool, (s.carts[laneCart l]).st = .check →
      exec (.shadowDigest l true y) s = .next { s with carts := vset s.carts (laneCart l) { s.carts[laneCart l] with
        equalRun := (s.carts[laneCart l]).equalRun + 1, timelyRun := if y then (s.carts[laneCart l]).timelyRun + 1 else 0 } } ∧
      ∃ t, exec (.shadowDigest l false y) s = .next t ∧ (t.carts[laneCart l]).fails = (s.carts[laneCart l]).fails + 1 ∧
        (t.carts[laneCart l]).st = (if 3 ≤ (s.carts[laneCart l]).fails + 1 then .faulted else .track) ∧
        t = { s with carts := t.carts, regs := t.regs, link := t.link }) ∧
    ((s.carts[laneCart l]).st = .check → 16 ≤ (s.carts[laneCart l]).equalRun → 8 ≤ (s.carts[laneCart l]).timelyRun →
      exec (.checkPass l) s = .next { s with carts := vset s.carts (laneCart l) { s.carts[laneCart l] with passed := true } }) ∧
    ((s.carts[laneCart l]).st = .cocoon → s.boot.admitted = false → (∃ m : Lane, (s.carts[laneCart m]).ready = true) →
      exec (.laneReady l) s = .next { s with carts := vset s.carts (laneCart l) { s.carts[laneCart l] with ready := true } }) ∧
    ((s.carts[laneCart l]).st = .cocoon → s.boot.admitted = true → otherReadmits s (laneCart l) = false →
      ∃ t, exec (.laneReady l) s = .next t ∧ (t.carts[laneCart l]).st = .load ∧
        t = { s with carts := t.carts, regs := t.regs, link := t.link }) ∧
    (∀ c : Cart, fenced s c = true →
      exec (.clearRemap c) s = .next (refreshReady { s with carts := vset s.carts c { s.carts[c] with map := 0 } })) ∧
    (∀ h : Hub, fenced s (hubCart h) = false → ∃ t, exec (.clearRemap (hubCart h)) s = .next (refreshReady t) ∧ t.carts = s.carts ∧
      field (reg t .spr h Reg.ERR) 15 0 = 0x0100) ∧
    (∀ (c : Cart) (u : BitVec 4) (k : BitVec 6), fenced s c = true →
      (∀ x : Nat × Nat × Nat, (spareSlots (3 ≤ c.val) u.toNat).find? (fun x => !bit (s.carts[c]).map x.1) = some x →
        ∃ t, exec (.spareRemapCommand c u k) s = .next (refreshReady t) ∧
          (t.carts[c]).map = setBit (setField (s.carts[c]).map x.2.1 x.2.2 k.toNat) x.1 true ∧
          bit (reg t (sparePage c).1 (sparePage c).2 Reg.IRQ_STAT) 8 = true ∧
          t = { s with carts := t.carts, regs := t.regs, link := t.link }) ∧
      ((spareSlots (3 ≤ c.val) u.toNat).all (fun x => bit (s.carts[c]).map x.1) = true →
        ∃ t, exec (.spareRemapCommand c u k) s = .next (refreshReady t) ∧ (t.carts[c]).map = (s.carts[c]).map ∧
          field (t.carts[c]).faults 31 24 = u.toNat ∧ field (t.carts[c]).faults 23 16 = k.toNat ∧
          bit (reg t (sparePage c).1 (sparePage c).2 Reg.IRQ_STAT) 9 = true ∧
          t = { s with carts := t.carts, regs := t.regs, link := t.link }))

/-- R433: at the close of the window each lane in step that sends leaves its digest. R434: with three lanes in step the lane vote names each
lane to which both others object, and is valid; with two it is not. R435, R436: custodians that act fence the lane that a valid lane vote names, and no
other. R437: a custodian that fenced itself is re-admitted where its peer acts, and acts again after 64 equal verdicts.
Rests on the model's choices of log 8, 10, 28, 68, 69, 71. -/
def Obligations.Custodians : Prop :=
  ∀ (s : State), s.clk.on = true →
    (∀ (d : Vector (BitVec 64) 3) (x : Vector Bool 3), ∃ t, exec (.digestWindowClose d x) s = .next t ∧ t.vote.closed = true ∧
      (∀ l : Lane, t.vote.digest[l] = if laneIn s l && x[l] && !(s.carts[laneCart l]).mute && !s.tds.choked
        then some (s.vote.acc[l] ^^^ d[l]) else none) ∧ t = { s with vote := t.vote }) ∧
    (s.vote.closed = true → laneCount s = 3 → ∃ t, exec .laneVote s = .next t ∧ t.vote.valid = true ∧
      (∀ x : Lane, t.vote.named.getLsbD x.val = true ↔ ∀ y : Lane, y ≠ x → objects s y x = true) ∧ t = { s with vote := t.vote }) ∧
    (s.vote.closed = true → laneCount s < 3 → ∃ t, exec .laneVote s = .next t ∧ t.vote.valid = false ∧ t.vote.named = 0) ∧
    (∀ l : Lane, s.boot.admitted = true → s.vote.closed = true → voteHolds s = true → lanesOf s.vote.named = [l] → laneIn s l = true →
      ((s.cus[(0 : Hub)]).st = .acting ∨ (s.cus[(1 : Hub)]).st = .acting) →
      ∃ t, exec (.verdict 0 0) s = .next (refreshReady t) ∧ (t.carts[laneCart l]).st ≠ .instep ∧ t.vote.closed = false ∧
        (∀ m : Lane, m ≠ l → laneIn s m = true → (t.carts[laneCart m]).st = .instep)) ∧
    (∀ h : Hub, (s.cus[other h]).st = .acting → (s.cus[h]).st = .selfFenced → exec (.custodianReadmit h) s =
      .next (refreshReady { s with cus := vset s.cus h { s.cus[h] with readmit := true, equalRun := 0 } })) ∧
    (∀ h : Hub, 64 ≤ (s.cus[h]).equalRun → (s.cus[h]).st = .shadow ∨ ((s.cus[h]).st = .selfFenced ∧ (s.cus[h]).readmit = true) →
      exec (.custodianReturn h) s =
        .next (refreshReady { s with cus := vset s.cus h { s.cus[h] with st := .acting, readmit := false } }))

-- Bring-up, supplies

/-- R530, R532, R534, R550: a power good starts the module afresh: cell time 0, volatile state as at reset, phase 1, `PWRON` counted, the
non-volatile memory kept; the steps of bring-up raise the phase in order to 5 and take the hub cartridges from self-test to in step, no
earlier than the instants of R532, and never out of their order; the admission takes every lane ready into step, with phase 0xF, and does nothing before 1,600 ms.
Rests on the model's choices of log 7, 10, 15, 17, 18, 69. -/
def Obligations.BringUp : Prop :=
  (∀ s : State, ∃ t, exec .powerGood s = .next t ∧ t.clk.on = true ∧ t.clk.now = 0 ∧ t.clk.tag = 0 ∧ t.clk.running = false ∧
    t.regs = [] ∧ t.mem = [] ∧ t.link.fifo = [] ∧ t.boot.phase = 1 ∧ t.boot.starts = s.boot.starts + 1 ∧
    t.boot.cause = (if s.boot.starts = 0 then 0 else if s.clk.on then 1 else 2) ∧
    t.sec.log = s.sec.log ∧ t.sec.seq = s.sec.seq ∧ t.sec.store = s.sec.store ∧ t.img.storedBytes = s.img.storedBytes ∧
    t.pending = s.pending) ∧
  (∀ s : State, s.clk.on = true →
    (s.boot.custodians = false → ∃ t, exec .custodianStartComplete s = .next t ∧ t.boot.phase = 2 ∧ t.boot.custodians = true ∧
      2000000 * 2 ^ 32 ≤ t.clk.now ∧ ∀ h : Hub, s.clk.alive[h] = true → (t.carts[hubCart h]).st = .selftest ∧ (t.cus[h]).st = .acting) ∧
    (s.boot.custodians = true → s.boot.selfTest = false → ∃ t, exec .hubSelfTestComplete s = .next t ∧ t.boot.phase = 3 ∧ t.boot.selfTest = true ∧
      42000000 * 2 ^ 32 ≤ t.clk.now ∧ ∀ h : Hub, ((s.carts[hubCart h]).st = .selftest → (t.carts[hubCart h]).st = .lock ∧
        t.clk.alive[h] = s.clk.alive[h]) ∧ ((s.carts[hubCart h]).st = .faulted → t.clk.alive[h] = false)) ∧
    (s.boot.selfTest = true → s.boot.locked = false → ∃ t, exec .pllLock s = .next t ∧ t.boot.phase = 4 ∧ t.boot.locked = true ∧
      47000000 * 2 ^ 32 ≤ t.clk.now ∧ ∀ h : Hub, (s.carts[hubCart h]).st = .lock → (t.carts[hubCart h]).st = .load) ∧
    (s.boot.locked = true → s.boot.functions = false → ∃ t, exec .hubFunctionsReady s = .next t ∧ t.boot.phase = 5 ∧ t.boot.functions = true ∧
      60000000 * 2 ^ 32 ≤ t.clk.now ∧ (∀ h : Hub, (s.carts[hubCart h]).st = .load → (t.carts[hubCart h]).st = .instep) ∧
      ∀ (p : AdcPair) (c : Fin 2), (t.adc.pair[p]).conv[c].calOk = true) ∧
    (s.boot.custodians = false → exec .hubSelfTestComplete s = .next s) ∧ (s.boot.selfTest = false → exec .pllLock s = .next s) ∧
    (s.boot.locked = false → exec .hubFunctionsReady s = .next s) ∧
    (s.boot.admitted = false → planStarts s = true → 1600000000 * 2 ^ 32 < s.clk.now → 2 ≤ (readyLanes s).length →
      ∃ t, exec .admission s = .next t ∧ t.boot.admitted = true ∧ t.boot.phase = 15 ∧
        (∀ l ∈ readyLanes s, (t.carts[laneCart l]).st = .instep) ∧ t.clk = s.clk) ∧
    (s.clk.now ≤ 1600000000 * 2 ^ 32 ∨ (readyLanes s).length < 2 → exec .admission s = .next s))

/-- R541, R544, R545, R546, R548: an input falls low below 5.6 V and rises above 5.9 V again, and is high above 61.0 V until below 60.5 V; a dip
counts and raises `DIP`; a shutdown, once both inputs have been low for 1.0 ms and not before, switches every safety output off, records its cause and stops the module; a measurement goes into its hub's
registers, and one of the reference hub above `TWARN` raises `THERM` once.
Rests on the model's choices of log 15, 16. -/
def Obligations.Supplies : Prop :=
  ∀ (s : State), s.clk.on = true → regsWf s.regs = true →
    (∀ (i : Fin 2) (mv : Nat), ∃ t, exec (.supplyThreshold i mv) s = .next t ∧
      t.pwr.low[i] = (decide (mv < 5600) || (s.pwr.low[i] && decide (mv ≤ 5900))) ∧
      t.pwr.high[i] = (decide (61000 < mv) || (s.pwr.high[i] && decide (60500 ≤ mv))) ∧
      (mv < 5600 → s.pwr.low[i] = false → bit (reg t .pwr 0 Reg.IRQ_STAT) (pwrLow1 + i.val) = true) ∧
      t = { s with pwr := t.pwr, regs := t.regs, link := t.link }) ∧
    (∃ t, exec .dip s = .next t ∧ reg t .pwr 0 Reg.CNT = reg s .pwr 0 Reg.CNT + 1 ∧ bit (reg t .pwr 0 Reg.IRQ_STAT) pwrDip = true ∧
      RegsBut (eventKeys .pwr 0 0) s t ∧ t = { s with regs := t.regs, link := t.link }) ∧
    (∀ i : Fin 2, (∀ mv, 5600 ≤ mv → s.pwr.low[i] = false → ∃ t, exec (.supplyThreshold i mv) s = .next t ∧ t.pwr.lowAt = none) ∧
      (∀ mv, mv < 5600 → s.pwr.low[other i] = true → ∃ t, exec (.supplyThreshold i mv) s = .next t ∧
        t.pwr.lowAt = some (s.pwr.lowAt.getD (s.clk.now / 2 ^ 32)))) ∧
    (∀ u, s.pwr.lowAt = some u → s.clk.now / 2 ^ 32 < u + 1000000 → exec .shutdown s = .next s) ∧
    (∀ u, s.pwr.lowAt = some u → u + 1000000 ≤ s.clk.now / 2 ^ 32 → ∃ t, exec .shutdown s = .next t ∧ t.clk.on = false ∧ t.boot.cause = 2 ∧ t.saf.out.stoA = 0 ∧ t.saf.out.stoB = 0 ∧ t.saf.out.sbc = 0 ∧
      t.saf.out.soLive = false ∧ t = { s with clk := { s.clk with on := false }, boot := t.boot, saf := t.saf }) ∧
    (∀ (h : Hub) (vin iin pin tb : Word) (cart : Vector Word 5) (vc : Vector Word 3), s.clk.alive[h] = true →
      ∃ t, exec (.supplyMeasurement h vin iin pin tb cart vc) s = .next t ∧ t.pwr.meas[h] = ⟨vin, iin, pin, tb, cart, vc⟩ ∧
        (h = s.clk.refHub → s.pwr.twarn = false → tempOf (reg s .pwr 0 Reg.PWR_TWARN) < tempOf tb →
          bit (reg t .pwr 0 Reg.IRQ_STAT) pwrTherm = true ∧ t.pwr.twarn = true) ∧
        t = { s with pwr := t.pwr, regs := t.regs, link := t.link })
-- Wearline

/-- R42, R111, R112, R118, R131, R151, R168, R187, R192: while the schedule runs, a hub that owns a static slot puts at its action point
the 8b/10b burst of the slot's frame on the wire: its training frame, its sync frame, the lane frame handed over, or a null frame; the
minislot counter of a channel rises by 1 at each minislot in which no frame starts, and the module's own dynamic frame takes the
minislots that it needs and counts in `CNT9`; a cyclic buffer that is not fresh at its cut-off is marked stale, with `HALATE` and
`CNT11`; the reference hub sends the collision-avoidance symbol in the symbol window of a cycle with CYC 0.
Rests on the model's choices of log 7, 10, 11, 48, 49, 50, 63. -/
def Obligations.WearlineSending : Prop :=
  ∀ (s : State) (b : WlBank), s.clk.on = true → regsWf s.regs = true → wlBank s = some b → wlRuns s = true →
    (∀ (k : BitVec 8) (h : Hub) (c : Chan) (r : SlotRow) (p : List Byte), 1 ≤ k.toNat → k.toNat ≤ b.slots → rowAt s b c k.toNat = some r →
      r.node ≤ 1 → senderOf s c r = some h → slotFrame s b h c r = some p →
      (sendsTraining s b h c r = true → p = trainingFrame s b h r) ∧
      (sendsTraining s b h c r = false → r.kind = 1 → p = syncFrame s b h r) ∧
      (sendsTraining s b h c r = false → r.kind ≠ 1 → handedFor s r = none → p = nullFrame s b h r.fid) ∧
      ∃ (t : State) (g : BitVec 2), exec (.staticSlot k 0) s = .next (noteReady .wlc 1 (noteReady .wlc 0 t)) ∧
        ⟨h, c, r.fid, intoCycle s (slotStart b r.fid + 20 * b.apo), burstSyms p, g⟩ ∈ t.wl.wire ∧
        intoCycle s (slotStart b k.toNat) ≤ t.clk.now ∧ s.clk.now ≤ t.clk.now ∧ t.clk.tag = s.clk.tag) ∧
    (∀ c : Chan, (s.wl.op = 1 ∨ s.wl.op = 2) → (s.wl.consAct = true → c = s.wl.kept) → s.wl.spent[c] < b.minis → s.wl.mini[c] < 1023 →
      (dynRow s b c (s.wl.mini[c] + 1) = none →
        ∃ t, exec (.minislot ⟨c, false⟩) s = .next t ∧ t.wl.mini[c] = s.wl.mini[c] + 1 ∧ t.wl.spent[c] = s.wl.spent[c] + 1 ∧
          t.wl.mini[other c] = s.wl.mini[other c] ∧ t.wl.wire = s.wl.wire ∧ t = { s with
            clk := { s.clk with now := t.clk.now }, wl := t.wl, regs := t.regs, link := t.link, lanePriv := t.lanePriv }) ∧
      (∀ (r : SlotRow) (kind : Nat) (p : List Byte), dynRow s b c (s.wl.mini[c] + 1) = some r → r.node = 0 →
        canSend s s.clk.refHub c (some r) = true → (dynPayload s c r).map (fun x => (x.1, x.2.1)) = some (kind, p) →
        fitsDynamic b s.wl.spent[c] (p.length + 16) = true →
        ∃ t, exec (.minislot ⟨c, false⟩) s = .next t ∧ t.wl.mini[c] = s.wl.mini[c] + 1 ∧
          t.wl.spent[c] = s.wl.spent[c] + minislotsOf b (p.length + 27) ∧ reg t .wls 0 (Reg.CNT + 36) = reg s .wls 0 (Reg.CNT + 36) + 1 ∧
          ⟨s.clk.refHub, c, s.wl.mini[c] + 1, t.clk.now,
            burstSyms (frameBytes (headerOf s b s.clk.refHub (s.wl.mini[c] + 1) kind (p.length / 4)) p), 0⟩ ∈ t.wl.wire)) ∧
    (assisted s .wls 0 = true → ∃ t, exec .hostBufferCutOff s = .next t ∧
      (∀ i : Sixteen, (t.wl.buf[i]).stale =
        ((s.wl.buf[i]).stale || (!bufOneShot s.wl.buf[i] && (s.wl.buf[i]).last.isSome && !(s.wl.buf[i]).fresh))) ∧
      (∀ i : Sixteen, bufOneShot s.wl.buf[i] = false → (s.wl.buf[i]).last.isSome = true → (s.wl.buf[i]).fresh = false →
        bit (reg t .wls 0 Reg.IRQ_STAT) irqHaLate = true) ∧
      t = { s with clk := { s.clk with now := t.clk.now }, wl := t.wl, regs := t.regs, link := t.link, lanePriv := t.lanePriv }) ∧
    (s.wl.op = 1 ∨ s.wl.op = 2 → cycOf s = 0 → b.symWin ≠ 0 → ∃ t, exec (.symbolWindow 0) s = .next t ∧
      (∀ c : Chan, canSend s s.clk.refHub c none = true → ⟨s.clk.refHub, c, 0, t.clk.now, casSyms, 0⟩ ∈ t.wl.wire) ∧
      t = { s with clk := { s.clk with now := t.clk.now }, wl := t.wl, regs := t.regs, link := t.link, lanePriv := t.lanePriv })

/-- R111, R114, R139, R168, R185, R190: a listening module integrates on a usable sync frame, which places the first sync instant; a burst
that it cannot use restarts its listen timer; while the schedule runs, a dynamic frame of the present minislot that passes the checks at
both hubs counts in `CNT10` and enters the receive FIFO where the filter takes it, with `RXAVAIL`; a burst with a code violation changes
none of the data received. A burst is its 10-bit symbols.
Rests on the model's choices of log 3, 7, 10, 11, 48, 51, 103, 111. -/
def Obligations.WearlineReceiving : Prop :=
  ∀ (s : State) (b : WlBank) (dt : Nat) (c : Chan) (fid : BitVec 10) (x : Burst), s.clk.on = true → regsWf s.regs = true →
    wlBank s = some b → s.clk.alive[(0 : Hub)] = true → s.clk.alive[(1 : Hub)] = true →
    (s.wl.phase = .listen → (∀ z ∈ received x.syms, usable b z = false) →
      ∃ t, exec (.frameReceived dt c fid (some x) (some x)) s = .next (noteReady .wlc 1 (noteReady .wlc 0 t)) ∧ t.wl.phase = .listen ∧
        t.wl.listenAt = t.clk.now + 4 * busNs s * 2 ^ 32 ∧
        t.wl.sigdet.getLsbD c.val = true ∧ t.wl.sigdet.getLsbD (2 + c.val) = true ∧
        t = { advance dt s with wl := t.wl, regs := t.regs, link := t.link, hubCnt := t.hubCnt }) ∧
    (∀ (z : Received) (h : Hdr), s.wl.phase = .listen → received x.syms = some z → intact z = true → h = readHdr z.bytes → h.sync = true →
      h.null = false → h.kind = 1 ∨ h.kind = 9 → leAt (framePayload z.bytes) 10 1 % 4 = b.rate.toNat →
      (∃ r ∈ b.two, r.kind = 1 ∧ r.fid = h.fid) →
      ∃ t, exec (.frameReceived dt c fid (some x) (some x)) s = .next (noteReady .wlc 1 (noteReady .wlc 0 t)) ∧ t.wl.phase = .integrate ∧
        t.clk.running = true ∧ t.clk.started = false ∧ t.clk.tag.toNat % 64 = (h.cyc + (if h.cyc % 2 = 0 then 2 else 1)) % 64 ∧
        t = { advance dt s with clk := t.clk, wl := t.wl, regs := t.regs, link := t.link, hubCnt := t.hubCnt }) ∧
    (∀ (z : Received) (r : SlotRow) (n : Nat), wlRuns s = true → 256 ≤ fid.toNat → n = s.wl.mini[c] → 256 ≤ n →
      dynRow s b c n = some r → 2 ≤ r.node → received x.syms = some z →
      (∀ h : Hub, checkFrame s b (some r) n h c z x.devNs = 0) → (readHdr z.bytes).null = false →
      fld s .wls 0 Reg.WLS_RX_FILT 9 0 ≤ n → n ≤ fld s .wls 0 Reg.WLS_RX_FILT 25 16 → s.wl.rx.length < 16 →
      ∃ t, exec (.frameReceived dt c fid (some x) (some x)) s = .next (noteReady .wlc 1 (noteReady .wlc 0 t)) ∧
        (∃ w : Word, t.wl.rx = s.wl.rx ++ [⟨c, n, w, wordsOf (readHdr z.bytes).len (framePayload z.bytes)⟩]) ∧
        reg t .wls 0 (Reg.CNT + 40) = reg s .wls 0 (Reg.CNT + 40) + 1 ∧ bit (reg t .wls 0 Reg.IRQ_STAT) wlsRxAvail = true ∧
        t = { advance dt s with clk := { (advance dt s).clk with free := t.clk.free }, wl := t.wl, regs := t.regs, link := t.link, hubCnt := t.hubCnt }) ∧
    (∀ z : Received, wlRuns s = true → received x.syms = some z → z.violation = true →
      ∃ t, exec (.frameReceived dt c fid (some x) (some x)) s = .next (noteReady .wlc 1 (noteReady .wlc 0 t)) ∧
        t.wl.rx = s.wl.rx ∧ t.wl.seqs = s.wl.seqs ∧ t.wl.got = s.wl.got ∧ t.sdp = s.sdp ∧ t.mnt = s.mnt ∧ t.prg = s.prg ∧
        t = { advance dt s with clk := { (advance dt s).clk with free := t.clk.free }, wl := t.wl, regs := t.regs, link := t.link, hubCnt := t.hubCnt })

/-- R153, R160, R161, R164, R166, R167, R185, R187: `GO` is refused with 0x0100 without a next bank or with a node that has not
committed, and with 0x0101 during an announcement or a consolidation; an epoch due swaps the banks; consolidation is decided, entered, put in force and left as announced, and an exit that is not clean is
refused with 0x0102; both channels lost set `OP` 3; the listen timer starts the bus unless
the collision-avoidance symbol is disturbed, which starts the wait of 4 cycles again; cycle 8 brings normal operation with the hubs' training;
a configuration response on its channel answers the request outstanding, a commit clears the node's bit; the fourth time-out counts and marks the node.
Rests on the model's choices of log 7, 10, 11, 12, 39, 48, 50, 51, 56, 61, 62, 103. -/
def Obligations.WearlineSchedule : Prop :=
  ∀ (s : State), s.clk.on = true → regsWf s.regs = true →
    (s.wl.nack ≠ 0 ∨ wlNext s = none → ∃ t, exec .wlsGo s = .next t ∧ t.wl = s.wl ∧ field (reg t .wls 0 Reg.ERR) 15 0 = 0x0100 ∧
      RegsBut (errKeys .wls 0) s t ∧ t = { s with regs := t.regs, link := t.link }) ∧
    (s.wl.nack = 0 → (wlNext s).isSome = true →
      (s.wl.epCd = 0 → s.wl.epDue = false → s.wl.consAct = false → consIdle s = true →
        exec .wlsGo s = .next { s with wl := { s.wl with goWait := true } }) ∧
      (0 < s.wl.epCd ∨ s.wl.epDue = true ∨ s.wl.consAct = true ∨ consIdle s = false → ∃ t, exec .wlsGo s = .next t ∧ t.wl = s.wl ∧
        field (reg t .wls 0 Reg.ERR) 15 0 = 0x0101 ∧ RegsBut (errKeys .wls 0) s t ∧ t = { s with regs := t.regs, link := t.link })) ∧
    (s.wl.epDue = true → ∃ t, exec .epochSwitch s = .next (refreshReady t) ∧ t.wl.act = other s.wl.act ∧ t.wl.epDue = false ∧
      t.wl.banks = s.wl.banks ∧ bit (reg t .wls 0 Reg.IRQ_STAT) wlsEpoch = true ∧ reg t .wls 0 (Reg.CNT + 32) = reg s .wls 0 (Reg.CNT + 32) + 1 ∧
      t = { s with wl := t.wl, img := t.img, regs := t.regs, link := t.link }) ∧
    (∀ keep : Chan, (s.wl.op = 1 → consIdle s = true →
        exec (.consEnter keep) s = .next { s with wl := { s.wl with consPend := true, kept := keep, goWait := false } }) ∧
      (s.wl.op ≠ 1 ∨ consIdle s = false → exec (.consEnter keep) s = .next s)) ∧
    (∀ lost : Chan, s.wl.op = 1 → consIdle s = true → (laneOfRole s .lead).isSome = true → s.tds.choked = false → lostChannel s lost = true →
      lostChannel s (other lost) = false →
      ∃ t, exec .consolidationDecision s = .next t ∧ t.wl.consPend = true ∧ t.wl.kept = other lost ∧ t.clk.tag = s.clk.tag) ∧
    (s.wl.consDue = true → ∃ t, exec .consolidation s = .next (refreshReady t) ∧ t.wl.consAct = true ∧ t.wl.consDue = false ∧
      (s.wl.op = 1 → t.wl.op = 2) ∧ bit (reg t .wls 0 Reg.IRQ_STAT) wlsCons = true ∧ t = { s with wl := t.wl, regs := t.regs, link := t.link }) ∧
    (s.wl.op = 2 → s.wl.exitAnn = false → s.wl.exitDue = false → (∀ h : Hub, 64 ≤ (s.wl.clean[h])[other s.wl.kept]) → exec .consExit s = .next { s with wl := { s.wl with exitWait := true } }) ∧
    (∀ h : Hub, (s.wl.clean[h])[other s.wl.kept] < 64 ∨ s.wl.op ≠ 2 → ∃ t, exec .consExit s = .next t ∧ t.wl = s.wl ∧
      field (reg t .wls 0 Reg.ERR) 15 0 = 0x0102 ∧ t = { s with regs := t.regs, link := t.link }) ∧
    (s.wl.exitDue = true → ∃ t, exec .consolidationExit s = .next (refreshReady t) ∧ t.wl.consAct = false ∧ t.wl.exitDue = false ∧
      (s.wl.op = 2 → t.wl.op = 1) ∧ bit (reg t .wls 0 Reg.IRQ_STAT) wlsConsEnd = true ∧ t = { s with wl := t.wl, regs := t.regs, link := t.link }) ∧
    (s.wl.op = 1 → lostChannel s 0 = true → lostChannel s 1 = true → ∃ t, exec .bothLost s = .next (refreshReady t) ∧ t.wl.op = 3 ∧ t.wl.lost = true ∧
      bit (reg t .wls 0 Reg.IRQ_STAT) wlsBothLost = true ∧
      t = { s with clk := { s.clk with now := t.clk.now }, wl := t.wl, regs := t.regs, link := t.link, lanePriv := t.lanePriv }) ∧
    (∀ b : WlBank, wlBank s = some b → s.wl.phase = .listen → (∃ c : Chan, canSend s s.clk.refHub c none = true) →
      (∃ t, exec (.listenTimerExpiry ⟨0, false⟩) s = .next (refreshReady t) ∧ t.wl.phase = .start ∧
        t.wl.upCycles = 0 ∧ t.clk.running = true ∧ t.clk.started = false ∧ t.clk.tag = 0 ∧ s.wl.listenAt ≤ t.clk.now ∧
        t.clk.ts = t.clk.now + (12 * symbolNs b + 10000) * 2 ^ 32 ∧
        (∀ c : Chan, canSend s s.clk.refHub c none = true → ⟨s.clk.refHub, c, 0, t.clk.now, casSyms, 0⟩ ∈ t.wl.wire) ∧
        t = { s with clk := t.clk, wl := t.wl, regs := t.regs, link := t.link, lanePriv := t.lanePriv }) ∧
      ∃ t, exec (.listenTimerExpiry ⟨0, true⟩) s = .next (refreshReady t) ∧ t.wl.phase = .listen ∧ t.clk.running = false ∧
        t.wl.listenAt = t.clk.now + (12 * symbolNs b + 4 * busNs s) * 2 ^ 32) ∧
    (s.wl.op = 0 → 8 ≤ s.wl.upCycles → wlRuns s = true → ∃ t, exec .normalOperation s = .next (noteReady .wls 0 (noteMotion t)) ∧ t.wl.op = 1 ∧ t.wl.phase = .run ∧
      (∀ h : Hub, s.clk.alive[h] = true → t.wl.train[h] = 128) ∧ t = { s with wl := t.wl }) ∧
    (∀ (q : CfgReq) (rest : List CfgReq) (x : CfgResp), s.wl.reqs = q :: rest → q.sent = true → q.ch = x.ch → q.node = x.node.val → q.op = x.op →
      q.req = x.req → exec (.configurationResponse x) s = .next { s with wl := { s.wl with
        reqs := rest, nack := if x.op = 4 ∧ x.result = 0 then setBit s.wl.nack x.node.val false else s.wl.nack } }) ∧
    (∀ (q : CfgReq) (rest : List CfgReq), s.wl.reqs = q :: rest → q.sent = true → 4 ≤ q.age →
      (q.repeats < 3 → exec .configurationTimeout s = .next { s with wl := { s.wl with
        reqs := { q with sent := false, repeats := q.repeats + 1 } :: rest } }) ∧
      (3 ≤ q.repeats → ∃ t, exec .configurationTimeout s = .next t ∧ t.wl.reqs = rest ∧ t.wl.nack = setBit s.wl.nack q.node true ∧
        reg t .wls 0 (Reg.CNT + 60) = reg s .wls 0 (Reg.CNT + 60) + 1 ∧ bit (reg t .wls 0 Reg.IRQ_STAT) wlsNodeNack = true ∧
        t = { s with wl := t.wl, regs := t.regs, link := t.link }))

/-- R119, R120, R124, R194, R195, R448: a node's training ends trained with at least 96 good slots of 128 and untrained otherwise;
`RETRAIN` recentres the drift window of an entry, with `CLEAR` it returns the entry to the untrained default; a transmitter fault is noted
and counts at its hub; a soldier that blocks, cuts or loses its oscillator silences its hub, a cut leaving at least the burst's end off the wire, the last holding the transmitter off.
Rests on the model's choices of log 10, 48, 60, 68. -/
def Obligations.WearlinePhysical : Prop :=
  ∀ (s : State) (h : Hub) (c : Chan), s.clk.on = true → s.clk.alive[h] = true → regsWf s.regs = true →
    Sparse.wf (fun _ => ({} : EqEntry)) (s.wl.eq[h])[c] = true →
    (∀ n : NodeNo, 128 ≤ (eqEntry s h c n.val).slots → (eqEntry s h c n.val).done = false →
      ∃ t, exec (.trainingComplete c n) s = .next (refreshReady t) ∧ (eqEntry t h c n.val).done = true ∧
        (96 ≤ (eqEntry s h c n.val).good → (eqEntry t h c n.val).trained = true) ∧
        ((eqEntry s h c n.val).good < 96 → (eqEntry t h c n.val).trained = false ∧ (eqEntry t h c n.val).offset = 0 ∧
          (eqEntry t h c n.val).ctle = defCtle s c ∧ (eqEntry t h c n.val).h = defTaps s c) ∧
        (∀ m : NodeNo, m ≠ n → eqEntry t h c m.val = eqEntry s h c m.val) ∧
        t = { s with clk := t.clk, wl := t.wl, regs := t.regs, link := t.link }) ∧
    (∀ n : NodeNo, ∃ t, exec (.retrain c n false) s = .next t ∧ (eqEntry t h c n.val).ctleMid = (eqEntry s h c n.val).ctle ∧
      (eqEntry t h c n.val).hMid = (eqEntry s h c n.val).h ∧ (eqEntry t h c n.val).atlim = false ∧
      (eqEntry t h c n.val).trained = (eqEntry s h c n.val).trained ∧ (∀ m : NodeNo, m ≠ n → eqEntry t h c m.val = eqEntry s h c m.val) ∧
      t = { s with wl := t.wl }) ∧
    (∀ n : NodeNo, ∃ t, exec (.retrainClear c n false) s = .next (refreshReady t) ∧ (eqEntry t h c n.val).trained = false ∧
      (eqEntry t h c n.val).ctle = defCtle s c ∧ (eqEntry t h c n.val).offset = 0 ∧ (eqEntry t h c n.val).slots = 0 ∧
      t = { s with wl := t.wl }) ∧
    (∃ t, exec (.txFault h c) s = .next (refreshReady t) ∧ t.wl.txNow.getLsbD (wlBit h c) = true ∧
      t.wl.dirty.getLsbD (wlBit h c) = true ∧ bit (reg t .wlc c Reg.IRQ_STAT) wlcTxFault = true ∧
      (Sparse.wf (fun _ => (0 : Word)) s.hubCnt[h] = true → ownCount t h .wlc c 7 = ownCount s h .wlc c 7 + 1) ∧
      t.hubCnt[other h] = s.hubCnt[other h] ∧ t = { s with wl := t.wl, regs := t.regs, link := t.link, hubCnt := t.hubCnt }) ∧
    (∀ x ∈ [Instr.soldierBlock h c, .soldierCut h c], ∃ t, exec x s = .next (refreshReady t) ∧ t.clk.alive[h] = false ∧
      (t.carts[hubCart h]).st = .silent ∧ t.clk.now = s.clk.now ∧ t.wl.heldOff = s.wl.heldOff) ∧
    (∀ x : WireFrame, lastBurst s h c = some x → ∃ t, exec (.soldierCut h c) s = .next (refreshReady t) ∧
      ∃ y ∈ t.wl.wire, y.hub = h ∧ y.ch = c ∧ y.fid = x.fid ∧ y.start = x.start ∧ y.syms.length ≤ x.syms.length - 3 ∧ y.syms <+: x.syms) ∧
    (∃ t, exec (.soldierOscillatorFailure h c) s = .next (refreshReady t) ∧ t.clk.alive[h] = false ∧ (t.carts[hubCart h]).st = .silent ∧
      t.wl.heldOff.getLsbD (wlBit h c) = true ∧ t.clk.now = s.clk.now)

/-- R168: `HB_CFG` sets the configuration of the buffer selected, and refuses a frame ID below 256 or a length of 255 words with 0x0004; a write of `HB_DATA` goes to the
word at `HB_ADDR`; a read returns that word and advances `HB_ADDR`, from 253 to 0; a read of `RX_DATA` advances its word; `RX_POP` drops the oldest frame received.
Rests on the model's choices of log 63, 68. -/
def Obligations.HostBuffers : Prop :=
  ∀ (s : State) (i : Sixteen) (q : Port), s.clk.on = true → regsWf s.regs = true → s.clk.alive[q] = true →
    fld s .wls 0 Reg.WLS_HB_SEL 3 0 = i.val →
    (∀ v : Word, 256 ≤ field v 9 0 → field v 23 16 ≠ 255 → ∃ t, exec (.hbCfg v) s = .next t ∧ bufFid t.wl.buf[i] = field v 9 0 ∧
      bufLen t.wl.buf[i] = field v 23 16 ∧ bufOneShot t.wl.buf[i] = bit v 11 ∧
      (t.wl.buf[i]).fresh = (bit v 31 || (s.wl.buf[i]).fresh) ∧ (t.wl.buf[i]).data = (s.wl.buf[i]).data ∧
      (∀ j : Sixteen, j ≠ i → t.wl.buf[j] = s.wl.buf[j]) ∧ t = { s with wl := t.wl, regs := t.regs }) ∧
    (∀ v : Word, field v 9 0 < 256 ∨ field v 23 16 = 255 → ∃ t, exec (.hbCfg v) s = .next t ∧ t.wl = s.wl ∧ field (reg t .wls 0 Reg.ERR) 15 0 = 4 ∧
      t = { s with regs := t.regs, link := t.link }) ∧
    (∀ v : Word, Sparse.wf (fun _ => (0 : Word)) (s.wl.buf[i]).data = true → fld s .wls 0 Reg.WLS_HB_ADDR 7 0 ≤ 253 →
      ∃ t, exec (.hbDataWrite v) s = .next t ∧ Sparse.get 0 (fld s .wls 0 Reg.WLS_HB_ADDR 7 0) (t.wl.buf[i]).data = v ∧
        (∀ k, k ≠ fld s .wls 0 Reg.WLS_HB_ADDR 7 0 → Sparse.get 0 k (t.wl.buf[i]).data = Sparse.get 0 k (s.wl.buf[i]).data) ∧
        RegsBut [regKey .wls 0 Reg.CHG] s t ∧ t = { s with wl := t.wl, regs := t.regs }) ∧
    (fld s .wls 0 Reg.WLS_HB_ADDR 7 0 ≤ 253 → ∃ t, exec (.hbDataRead q) s = .next t ∧
      t.link.readData[q] = Sparse.get 0 (fld s .wls 0 Reg.WLS_HB_ADDR 7 0) (s.wl.buf[i]).data ∧
      fld t .wls 0 Reg.WLS_HB_ADDR 7 0 = (fld s .wls 0 Reg.WLS_HB_ADDR 7 0 + 1) % 254 ∧ t.wl = s.wl ∧
      t = { s with link := t.link, regs := t.regs }) ∧
    (∀ (x : RxFrame) (r : List RxFrame), s.wl.rx = x :: r →
      (∃ t, exec (.rxDataRead q) s = .next t ∧ t.link.readData[q] = x.data.getD s.wl.rxWord 0 ∧ t.wl.rxWord = s.wl.rxWord + 1 ∧
        t.wl.rx = s.wl.rx ∧ t = { s with link := t.link, wl := t.wl }) ∧
      exec .rxPop s = .next { s with wl := { s.wl with rx := r, rxWord := 0 } })
-- Arms

/-- R200 to R203, R205, R224: each of the fifteen record commands puts its record into the ring at `WR_IDX`, which advances; a full ring
takes none. At the sync instant that starts a plan cycle the path sampler takes it: the record joins the taken records, `RD_IDX` advances
and `CNT0` counts it; a timed output action goes to the insertions of the delay lists (R215), a `SEGMENT` to the arm's chain (R227); then
inline records act and the path is brought up to date (`samplePath`). A record with a fault of R224 halts the ring with cause 1, `LASTERR`
holds its index and code and `CNT2` counts it (R223).
Rests on the model's choices of log 6, 95, 97, 103, 107. -/
def Obligations.ArmRecordsTaken : Prop :=
  ∀ (s : State) (a : Arm) (x : RecArgs), s.clk.on = true → regsWf s.regs = true → memWf s.mem = true →
    ∀ p ∈ ([(.moveJ, 0x01), (.moveL, 0x02), (.moveC, 0x03), (.via, 0x04), (.waitTime, 0x10), (.waitPhase, 0x11), (.waitInput, 0x12),
      (.setOutput, 0x20), (.trackLine, 0x30), (.releaseLine, 0x31), (.speed, 0x40), (.tool, 0x41), (.rendezvous, 0x50),
      (.segment, 0x60), (.endRec, 0x7F)] : List ((Arm → RecArgs → Instr) × Byte)),
    ∀ (r : RingRec) (h o : State),
      r = ⟨wrIdx s a, x.seq, p.2, x.flags, x.frame, x.res7, (List.range 120).map fun i => x.body.getD i 0⟩ →
      h = hostRecord a p.2 x s → o = readOn a (modRing a (fun g => { g with took := g.took + 1 }) h) →
      (unconsumed s a = 1023 → exec (p.1 a x) s = .next s) ∧
      (unconsumed s a < 1023 → atPlanStart s = false → exec (p.1 a x) s = .next h ∧ readRecord h a (wrIdx s a) = r ∧
        wrIdx h a = (wrIdx s a + 1) % 1024 ∧ unconsumed h a = unconsumed s a + 1 ∧
        (∀ k : Nat, k < ringAddr a r.idx ∨ ringAddr a r.idx + 128 ≤ k → memByte h k = memByte s k) ∧
        RegsBut [regKey .arm a Reg.ARM_WR_IDX] s h ∧ h = { s with mem := h.mem, regs := h.regs }) ∧
      (unconsumed s a = 0 → atPlanStart s = true → (s.ring[a]).took < 8 →
        (canTake s a = false → exec (p.1 a x) s = .next (samplePath a h)) ∧
        (canTake s a = true → restsAt s a = true → nextStop s a = none →
          (recordCode (busNs s) o a r = 0 → r.timed = false → p.2 ≠ 0x60 → ∃ u, exec (p.1 a x) s = .next (samplePath a (afterCompletion a u)) ∧
            u.ring = vset o.ring a { o.ring[a] with taken := (s.ring[a]).taken ++ [r] } ∧ u = { o with ring := u.ring }) ∧
          (∀ c : Nat, recordCode (busNs s) o a r = c → c ≠ 0 → (s.ring[a]).coupled = none → (s.ring[a]).taken = [] →
            ∃ u, exec (p.1 a x) s = .next (samplePath a u) ∧ (u.ring[a]).halt = 1 ∧ (u.ring[a]).bad = none ∧
              (u.ring[a]).due = (s.ring[a]).due ++ [newReport o r.seq r.op .malformed c r.idx 0] ∧
              u = { o with ring := u.ring, regs := u.regs, link := u.link })) ∧
        (canTake s a = true → restsAt s a = false ∨ (∃ q, nextStop s a = some q ∧ q ≠ r) →
          rdIdx o a = wrIdx h a ∧ reg o .arm a Reg.CNT = reg s .arm a Reg.CNT + 1 ∧ o.mem = h.mem ∧
          RegsBut (regKey .arm a Reg.ARM_RD_IDX :: eventKeys .arm a 0) h o ∧
          (recordCode (busNs s) o a r = 0 → p.2 ≠ 0x60 → ∃ u, exec (p.1 a x) s = .next (samplePath a u) ∧
            u.ring = vset o.ring a { o.ring[a] with taken := (s.ring[a]).taken ++ [r] } ∧
            u.tds.inserts = (if r.timed then s.tds.inserts ++ [(r.fl % 4 == 2, ⟨r.i64 8, s.clk.tag, 0, .output a.val r, false⟩)]
              else s.tds.inserts) ∧ u = { o with ring := u.ring, tds := { o.tds with inserts := u.tds.inserts } }) ∧
          (recordCode (busNs s) o a r = 0 → p.2 = 0x60 → ∃ (u : State) (g : Seg), exec (p.1 a x) s = .next (samplePath a u) ∧
            u.ring = vset o.ring a { o.ring[a] with taken := (s.ring[a]).taken ++ [r] } ∧
            (u.play[a]).next = some ((s.play[a]).next.getD [] ++ [g]) ∧ g.dur = r.n 8 4 ∧ g.c = segOf s a (busNs s) r ∧
            (u.play[a]).chain = (List.range (armJoints s a)).map (segEnd r) ∧ (u.play[a]).segs = (s.play[a]).segs ∧
            (∀ b : Arm, b ≠ a → u.play[b] = s.play[b]) ∧ u = { o with ring := u.ring, play := u.play }) ∧
          (∀ c : Nat, recordCode (busNs s) o a r = c → c ≠ 0 → (s.ring[a]).coupled = none →
            ∃ u, exec (p.1 a x) s = .next (samplePath a u) ∧ (u.ring[a]).halt = 1 ∧ (u.ring[a]).bad = some (r, c) ∧
              (u.ring[a]).taken = (s.ring[a]).taken ∧ (∀ b : Arm, b ≠ a → u.ring[b] = s.ring[b]) ∧
              reg u .arm a Reg.ARM_LASTERR = BitVec.ofNat 32 (r.idx * 2 ^ 16 + c) ∧
              reg u .arm a (Reg.CNT + 8) = reg s .arm a (Reg.CNT + 8) + 1 ∧ bit (reg u .arm a Reg.IRQ_STAT) armHalt = true ∧
              RegsBut (regKey .arm a Reg.ARM_LASTERR :: eventKeys .arm a 2) o u ∧ u = { o with ring := u.ring, regs := u.regs, link := u.link })))

/-- R212, R214, R221, R222, R228, R229: a motion record in progress completes with a `DONE` report once the setpoint has reached its end
point; a wait ends with one once its time has passed, the line has reached its phase, or its input stands as asked in the bundle of the
sync instant; one that has run out of time is reported `TIMEOUT`, counted in `CNT3`, and halts the ring with cause 2 unless it continues;
a rendezvous completes for both its arms together, and begins a coupling with `MODE` 1. A report waits for flow 5 (log 98).
Rests on the model's choices of log 23, 33, 97, 98. -/
def Obligations.ArmProgress : Prop :=
  ∀ (s : State) (a : Arm) (r : RingRec), s.clk.on = true → regsWf s.regs = true →
    (s.ring[a]).taken = [r] → (s.ring[a]).bad = none →
    ((s.ring[a]).halt = 0 → r.isMotion = true → r.code ≠ 4 → (reached s a r = false → exec (.recordCompletion a) s = .next s) ∧
      (reached s a r = true → ∃ t, exec (.recordCompletion a) s = .next t ∧ (t.ring[a]).taken = [] ∧ (t.ring[a]).mark = syncNs s ∧
        (t.ring[a]).onPath = (s.ring[a]).onPath.erase r.idx ∧ (t.ring[a]).path = (s.ring[a]).path ∧
        (((s.ring[a]).blends.any fun x => x.1 == r.idx) = false → (t.ring[a]).lastRef = some (targetRef s a r)) ∧
        (∀ b : Arm, b ≠ a → t.ring[b] = s.ring[b]) ∧ Reported a r.seq r.op .done r.idx 0 [] s t ∧ t = { s with ring := t.ring })) ∧
    (∀ (t0 : Nat) (z : BitVec 16), (s.ring[a]).wait = some (t0, z) →
      (∀ c ∈ ([(Instr.waitTimeEnd a, r.code = 0x10 ∧ (if r.fl % 2 = 1 then r.n 8 8 else t0 + r.n 8 8) ≤ nsOf s),
          (Instr.waitPhaseEnd a, r.code = 0x11 ∧ r.i64 8 ≤ linePhase s ∧ s.line.rev = false ∧ s.line.valid = true ∧ lineEn s = true),
          (Instr.waitInputEnd a, r.code = 0x12 ∧ r.n 8 1 = 0 ∧ r.n 9 1 < 16 ∧ s.saf.inSync.getLsbD (r.n 9 1) = (r.n 10 1 == 1)),
          (Instr.waitInputEnd a, r.code = 0x12 ∧ r.n 8 1 = 1 ∧ (s.enc[fin16 (r.n 9 1)]).latchSeq ≠ z),
          (Instr.waitInputEnd a, r.code = 0x12 ∧ r.n 8 1 = 2 ∧ r.n 9 1 < 16 ∧
            flag s .arm a Reg.ARM_HFLAG (r.n 9 1) = (r.n 10 1 == 1))] : List (Instr × Prop)),
        c.2 → ∃ t, exec c.1 s = .next t ∧ (t.ring[a]).taken = [] ∧ (t.ring[a]).wait = none ∧ (t.ring[a]).rdv = false ∧
          (t.ring[a]).halt = (s.ring[a]).halt ∧ (t.ring[a]).lastRef = (s.ring[a]).lastRef ∧
          (∀ b : Arm, b ≠ a → t.ring[b] = s.ring[b]) ∧ Reported a r.seq r.op .done r.idx 0 [] s t ∧ t = { s with ring := t.ring }) ∧
      (r.code = 0x11 ∨ r.code = 0x12 ∨ r.code = 0x50 → r.n 16 8 ≠ 0 → t0 + r.n 16 8 ≤ nsOf s →
        ∃ t, exec (.waitTimeout a) s = .next t ∧ (t.ring[a]).taken = [] ∧ (t.ring[a]).wait = none ∧ (t.ring[a]).rdv = false ∧
          (r.code ≠ 0x50 → r.fl % 2 = 1 → (t.ring[a]).halt = (s.ring[a]).halt) ∧
          (r.code = 0x50 ∨ r.fl % 2 = 0 → (s.ring[a]).coupled = none → (s.ring[a]).halt = 0 → (t.ring[a]).halt = 2) ∧
          ((s.ring[a]).coupled = none → reg t .arm a (Reg.CNT + 12) = reg s .arm a (Reg.CNT + 12) + 1 ∧
            Reported a r.seq r.op .timeout r.idx 0 (eventKeys .arm a 3) s t) ∧
          t = { s with ring := t.ring, regs := t.regs, link := t.link })) ∧
    (∀ (b : Arm) (q : RingRec), b ≠ a → (s.ring[b]).taken = [q] → (s.ring[b]).bad = none → r.code = 0x50 → q.code = 0x50 →
      sameRdv r q = true → (s.ring[a]).rdv = true → (s.ring[b]).rdv = true →
      (∀ d : Arm, (BitVec.ofNat 12 (r.n 10 2)).getLsbD d.val = true ↔ d = a ∨ d = b) →
      ∃ t, exec (.rendezvousCompletion a) s = .next t ∧ Reported a r.seq r.op .done r.idx 0 [] s t ∧ Reported b q.seq q.op .done q.idx 0 [] s t ∧
        (∀ e : Arm, e = a ∨ e = b → (t.ring[e]).taken = [] ∧ (t.ring[e]).rdv = false ∧
          (r.fl % 4 = 1 → ∃ c, (t.ring[e]).coupled = some c ∧ c.rid = BitVec.ofNat 16 (r.n 8 2) ∧ c.mask = BitVec.ofNat 12 (r.n 10 2) ∧
            c.rel.isNone = isLeader e c.mask)) ∧
        (∀ d : Arm, d ≠ a → d ≠ b → t.ring[d] = s.ring[d]) ∧ t = { s with ring := t.ring })

/-- R201, R223, R225, R228, R567: a write of `WR_IDX` or `RPT_RD` within what is free is taken and counted in `CHG`, one that is not records
`ERR` code 0x0004; `FLUSH` of a halted ring discards the unconsumed records with one `FLUSHED` report; `RESUME` clears a halt, and is refused
with 0x0101 on a running ring and with 0x0102 while the line is invalid after a halt by the line frame; `ABORT` halts the ring with cause 4,
or keeps its cause, and reports the taken record `ABORTED`; a block reset halts as `ABORT` does, and at rest leaves an empty, running ring,
`SRST` reading 1 until flow 5 has written the `FLUSHED` report. Reports wait for flow 5 (log 98).
Rests on the model's choices of log 23, 26, 34, 96, 98, 107. -/
def Obligations.ArmCommands : Prop :=
  ∀ (s : State) (a : Arm), s.clk.on = true → regsWf s.regs = true → memWf s.mem = true →
    (∀ v : Word, unconsumed s a ≤ (field v 9 0 + 1024 - rdIdx s a) % 1024 → ∃ t, exec (.wrIdx a v) s = .next t ∧ wrIdx t a = field v 9 0 ∧
      reg t .arm a Reg.CHG = reg s .arm a Reg.CHG + 1 ∧ RegsBut [regKey .arm a Reg.ARM_WR_IDX, regKey .arm a Reg.CHG] s t ∧
      t = { s with regs := t.regs }) ∧
    (∀ v : Word, (field v 9 0 + 1024 - rdIdx s a) % 1024 < unconsumed s a → ∃ t, exec (.wrIdx a v) s = .next t ∧
      field (reg t .arm a Reg.ERR) 15 0 = 4 ∧ RegsBut (errKeys .arm a) s t ∧ t = { s with regs := t.regs, link := t.link }) ∧
    (∀ v : Word, (rptWr s a + 2048 - field v 10 0) % 2048 ≤ unread s a → ∃ t, exec (.rptRd a v) s = .next t ∧ rptRd t a = field v 10 0 ∧
      reg t .arm a Reg.CHG = reg s .arm a Reg.CHG + 1 ∧ RegsBut [regKey .arm a Reg.ARM_RPT_RD, regKey .arm a Reg.CHG] s t ∧
      t = { s with regs := t.regs }) ∧
    ((s.ring[a]).halt ≠ 0 → 0 < unconsumed s a → ∃ t, exec (.flush a) s = .next t ∧ rdIdx t a = wrIdx s a ∧ unconsumed t a = 0 ∧
      Reported a (readRecord s a ((wrIdx s a + 1023) % 1024)).seq 0 .flushed ((wrIdx s a + 1023) % 1024) (unconsumed s a)
        [regKey .arm a Reg.ARM_RD_IDX, regKey .arm a Reg.CHG] s t ∧ t = { s with ring := t.ring, regs := t.regs }) ∧
    ((s.ring[a]).halt = 0 → ∃ t, exec (.resume a) s = .next t ∧ field (reg t .arm a Reg.ERR) 15 0 = 0x0101 ∧
      RegsBut (errKeys .arm a) s t ∧ t = { s with regs := t.regs, link := t.link }) ∧
    ((s.ring[a]).halt = 5 → s.line.valid = false → ∃ t, exec (.resume a) s = .next t ∧ field (reg t .arm a Reg.ERR) 15 0 = 0x0102 ∧
      RegsBut (errKeys .arm a) s t ∧ t = { s with regs := t.regs, link := t.link }) ∧
    ((s.ring[a]).halt ≠ 0 → (s.ring[a]).halt ≠ 5 ∨ s.line.valid = true → ∃ t, exec (.resume a) s = .next t ∧ (t.ring[a]).halt = 0 ∧
      (t.ring[a]).taken = (s.ring[a]).taken ∧ (∀ b : Arm, b ≠ a → t.ring[b] = s.ring[b]) ∧ RegsBut [regKey .arm a Reg.CHG] s t ∧
      t = { s with ring := t.ring, regs := t.regs }) ∧
    (∀ r : RingRec, (s.ring[a]).halt = 0 → (s.ring[a]).coupled = none → (s.ring[a]).taken = [r] →
      ∃ t, exec (.abort a) s = .next t ∧ (t.ring[a]).halt = 4 ∧ (t.ring[a]).taken = [] ∧ (t.ring[a]).wait = none ∧
        (∀ b : Arm, b ≠ a → t.ring[b] = s.ring[b]) ∧ reg t .arm a (Reg.CNT + 20) = reg s .arm a (Reg.CNT + 20) + 1 ∧
        Reported a r.seq r.op .aborted r.idx 0 (regKey .arm a Reg.CHG :: eventKeys .arm a 5) s t ∧
        t = { s with ring := t.ring, tds := t.tds, regs := t.regs, link := t.link }) ∧
    (∀ r : RingRec, (s.ring[a]).halt ≠ 0 → (s.ring[a]).coupled = none → (s.ring[a]).taken = [r] →
      ∃ t, exec (.abort a) s = .next t ∧ (t.ring[a]).halt = (s.ring[a]).halt ∧ (t.ring[a]).taken = [] ∧ (t.ring[a]).wait = none ∧
        Reported a r.seq r.op .aborted r.idx 0 (regKey .arm a Reg.CHG :: eventKeys .arm a 5) s t ∧
        t = { s with ring := t.ring, tds := t.tds, regs := t.regs, link := t.link }) ∧
    ((s.ring[a]).coupled = none → (s.ring[a]).taken = [] → ∃ t, exec (.armSrst a) s = .next t ∧ (t.ring[a]).srst = true ∧
      (t.ring[a]).halt ≠ 0 ∧ ((s.ring[a]).halt = 0 → (t.ring[a]).halt = 4) ∧ t.mem = s.mem ∧
      t = { s with ring := t.ring, tds := t.tds, regs := t.regs, link := t.link }) ∧
    ((s.ring[a]).srst = true → (s.ring[a]).halt ≠ 0 → restsAt s a = true → (s.ring[a]).taken = [] →
      ∃ t, exec (.armSrstCompletion a) s = .next t ∧ (t.ring[a]).halt = 0 ∧ (t.ring[a]).bad = none ∧ (t.ring[a]).srst = true ∧
      flag t .arm a Reg.CTRL 1 = true ∧ (t.ring[a]).ovr = 0x3F800000 ∧ unconsumed t a = 0 ∧ rdIdx t a = wrIdx s a ∧
      (t.ring[a]).due.length = (s.ring[a]).due.length + b2n (s.ring[a]).bad.isSome + 1 ∧
      (∃ q : Report, (t.ring[a]).due.getLast? = some q ∧ q.status = 7 ∧ q.info = unconsumed s a) ∧
      fld t .arm a Reg.MODE 1 0 = 0 ∧ reg t .arm a Reg.IRQ_STAT = 0 ∧ t.mem = s.mem ∧ t = { s with ring := t.ring, regs := t.regs })
-- Plefin and the servo datapath

/-- R261, R262, R264, R265, R306, R309: `PRESET` restarts θ and P from the nominal payload; host parameters whose window has passed raise
`HALATE` and count in `CNT5`; an identification update that is skipped counts in `CNT1` and changes no parameter, any other leaves the
parameters as they were or puts the recursive least-squares step's, clamped and consistent, in force; `TOL_HI` and `FLOOR_HI` take a pair within bounds and refuse any other with 0x0004;
`PLF.GO` is refused with 0x0100 without a next bank, 0x0101 while a switch waits and 0x0105 for a jerk too low; a pattern switch that is
due swaps the banks of pattern and arms, with `BANKSW` and `CNT9`.
Rests on the model's choices of log 10, 23, 93, 102, 103. -/
def Obligations.PlefinSettings : Prop :=
  ∀ (s : State), s.clk.on = true → regsWf s.regs = true →
    (∀ a : Arm, ∃ t, exec (.preset a) s = .next t ∧ (t.ident[a]).theta = toolTheta (s.ring[a]).tool ∧ (t.ident[a]).p = diagonal (p0Of s a) ∧
      (∀ b : Arm, b ≠ a → t.ident[b] = s.ident[b]) ∧ reg t .kin a Reg.CHG = reg s .kin a Reg.CHG + 1 ∧
      RegsBut [regKey .kin a Reg.CHG] s t ∧ t = { s with ident := t.ident, regs := t.regs }) ∧
    (∀ a : Arm, assisted s .kin a = true → fld s .kin a Reg.KIN_HA_CFG 15 0 ≤ (s.ident[a]).haAge →
      ∃ t, exec (.kinHaWindowExpiry a) s = .next t ∧ t.ident = vset s.ident a { s.ident[a] with haAge := 0 } ∧
        bit (reg t .kin a Reg.IRQ_STAT) irqHaLate = true ∧ reg t .kin a (Reg.CNT + 20) = reg s .kin a (Reg.CNT + 20) + 1 ∧
        RegsBut (eventKeys .kin a 5) s t ∧ t = { s with ident := t.ident, regs := t.regs, link := t.link }) ∧
    (∀ (a : Arm) (m : ArmModel) (im : ArmsImage), armModel s a = some m → s.arms = some im →
      (skipCause s a ≠ 0 → ∃ t, exec (.identificationUpdate a) s = .next t ∧
        reg t .kin a (Reg.CNT + 4) = reg s .kin a (Reg.CNT + 4) + 1 ∧ fld t .kin a Reg.KIN_ID_STAT 15 8 = skipCause s a ∧
        RegsBut (regKey .kin a Reg.KIN_ID_STAT :: eventKeys .kin a 1) s t ∧ t = { s with regs := t.regs, link := t.link }) ∧
      (∀ th : List F64, skipCause s a = 0 → th = ((identStep s a m im.gravity).1.zipIdx.map fun x => clampParam s a x.2 x.1) →
        ∃ t, exec (.identificationUpdate a) s = .next t ∧
        (consistent th = true → (t.ident[a]).theta = th ∧
          ((t.ident[a]).p = (identStep s a m im.gravity).2.1 ∨ (t.ident[a]).p = diagonal m.p0) ∧
          reg t .kin a Reg.CNT = reg s .kin a Reg.CNT + 1) ∧
        (consistent th = false → t.ident = s.ident ∧ reg t .kin a (Reg.CNT + 12) = reg s .kin a (Reg.CNT + 12) + 1 ∧
          bit (reg t .kin a Reg.IRQ_STAT) kinPhys = true) ∧
        bit (reg t .kin a Reg.KIN_ID_STAT) 4 = (th != (identStep s a m im.gravity).1) ∧ fld t .kin a Reg.KIN_ID_STAT 1 0 = 1 ∧
        (∀ b : Arm, b ≠ a → t.ident[b] = s.ident[b]) ∧ t = { s with ident := t.ident, regs := t.regs, link := t.link })) ∧
    (∀ a : Arm, armModel s a = none ∨ s.arms = none → exec (.identificationUpdate a) s = .next s) ∧
    (∀ v : Word, (pairWithin (join64 v s.plf.tolLo) 15 2 = true → ∃ t, exec (.tolHi v) s = .next t ∧ reg t .plf 0 Reg.PLF_TOL_HI = v ∧
        reg t .plf 0 Reg.PLF_TOL_LO = s.plf.tolLo ∧ RegsBut [regKey .plf 0 Reg.PLF_TOL_HI, regKey .plf 0 Reg.PLF_TOL_LO, regKey .plf 0 Reg.CHG] s t ∧
        t = { s with regs := t.regs }) ∧
      (pairWithin (join64 v s.plf.tolLo) 15 2 = false → ∃ t, exec (.tolHi v) s = .next t ∧ field (reg t .plf 0 Reg.ERR) 15 0 = 4 ∧
        RegsBut (errKeys .plf 0) s t) ∧
      (pairWithin (join64 v s.plf.floorLo) 16 6 = true → ∃ t, exec (.floorHi v) s = .next t ∧ reg t .plf 0 Reg.PLF_FLOOR_HI = v ∧
        reg t .plf 0 Reg.PLF_FLOOR_LO = s.plf.floorLo ∧
        RegsBut [regKey .plf 0 Reg.PLF_FLOOR_HI, regKey .plf 0 Reg.PLF_FLOOR_LO, regKey .plf 0 Reg.CHG] s t ∧ t = { s with regs := t.regs })) ∧
    (s.plf.banks[other s.plf.act] = none → ∃ t, exec .plfGo s = .next t ∧ field (reg t .plf 0 Reg.ERR) 15 0 = 0x0100 ∧ t.plf = s.plf) ∧
    (∀ b : Pattern, s.plf.banks[other s.plf.act] = some b →
      (s.plf.pend.isSome = true → ∃ t, exec .plfGo s = .next t ∧ field (reg t .plf 0 Reg.ERR) 15 0 = 0x0101 ∧ t.plf = s.plf) ∧
      (s.plf.pend = none → dLt (tsJerk s) (jerkBound s b) = true → ∃ t, exec .plfGo s = .next t ∧
        field (reg t .plf 0 Reg.ERR) 15 0 = 0x0105 ∧ t.plf = s.plf) ∧
      (s.plf.pend = none → dLt (tsJerk s) (jerkBound s b) = false → ∃ t, exec .plfGo s = .next t ∧
        t.plf = { s.plf with pend := some (s.clk.tag.toNat + planBus s) } ∧ RegsBut [regKey .plf 0 Reg.CHG] s t ∧
        t = { s with plf := t.plf, regs := t.regs })) ∧
    (patternDue s = true → ∃ t, exec .patternBankSwitch s = .next (refreshReady t) ∧
      t.plf = { s.plf with act := other s.plf.act, pend := none, fresh := true } ∧
      t.arms = s.armsNext ∧ t.armsNext = s.arms ∧ bit (reg t .plf 0 Reg.IRQ_STAT) plfBankSw = true ∧
      reg t .plf 0 (Reg.CNT + 36) = reg s .plf 0 (Reg.CNT + 36) + 1 ∧ RegsBut (eventKeys .plf 0 9) s t ∧
      t = { s with plf := t.plf, arms := t.arms, armsNext := t.armsNext, img := t.img, regs := t.regs, link := t.link }) ∧
    (patternDue s = false → exec .patternBankSwitch s = .next (refreshReady s))

/-- R231, R232, R234, R279, R281, R284, R285, R288, R290, R292 to R296, R300 to R302: a plan-cycle start begins a plan where the module is
admitted, Plefin enabled and a pattern in force; the warm start takes the speed scales once, linearises, and forms the iterate before the
first step; an interior-point step carries the last iterate to position 2047, or ends with the fail bit, and counts its iterations'
caps, fallbacks, substituted pivots and flushed operands; a lane's progress word is kept; the deadline agreement ends the plan, counted as
accepted or as rejected, and a rejection counts for every arm that it would have moved; `K_HOLD` rejections stop the arm, and every arm
of its coupling, in time scale and halt the ring; at rest the stop ends; a tail exhausted ends in STO.
Rests on the model's choices of log 8, 10, 23, 33, 90, 92, 93, 94. -/
def Obligations.PlefinPlan : Prop :=
  ∀ (s : State), s.clk.on = true → regsWf s.regs = true →
    (planStarts s = true → ∃ t, exec .planCycleStart s = .next (refreshReady t) ∧
      t.plf.busy = (s.boot.admitted && enabled s .plf 0 && (pattern s).isSome) ∧
      (t.plf.busy = true → t.plf.startTag = s.clk.tag ∧ t.plf.step = 1 ∧ t.plf.pos = 0 ∧ t.plf.fail = false ∧ t.plf.warm = false ∧
        t.plf.words = Vector.replicate 3 none ∧ t.plf.prog = none ∧ t.plf.iterates = [] ∧ t.plf.results = [] ∧
        t.plf.cfg = reg s .plf 0 Reg.PLF_CFG) ∧ t.clk.tag = s.clk.tag ∧ t.clk.now = s.clk.now) ∧
    (∀ (b : Pattern) (im : ArmsImage), s.plf.busy = true → s.plf.warm = false → pattern s = some b → s.arms = some im →
      ∃ t, exec .warmStart s = .next t ∧ t.plf.warm = true ∧ t.plf.scale = s.mnt.kOut ∧ t.plf.prog.isSome = true ∧
        t.plf.iterates.length = 1 ∧ t.plf.step = s.plf.step ∧ t.plf.pos = s.plf.pos ∧ t.plf.words = s.plf.words ∧
        (∀ a : Arm, (s.play[a]).segs ≠ [] → t.play[a] = s.play[a]) ∧
        t = { s with plf := t.plf, play := t.play, regs := t.regs, link := t.link }) ∧
    (s.plf.busy = false ∨ s.plf.warm = true ∨ pattern s = none ∨ s.arms = none → exec .warmStart s = .next s) ∧
    (∀ p : Nat, p = (if s.plf.pos = 2047 then s.plf.step + 1 else s.plf.step) →
      (∀ (b : Pattern) (g : Programme) (it y : Iterate) (r : StepResult), pattern s = some b → s.plf.prog = some g →
        s.plf.iterates.getLast? = some it → s.plf.busy = true → s.plf.fail = false → p ≤ ipSteps s →
        solverStep b s.plf.tol s.plf.floor (iterCap s) true g it = (y, r) → ∃ t, exec .interiorPointStep s = .next t ∧
        t.plf.step = p ∧ t.plf.results = s.plf.results ++ [r] ∧ t.plf.prog = s.plf.prog ∧
        (r.fail = false → t.plf.pos = 2047 ∧ t.plf.fail = false ∧ t.plf.iterates = s.plf.iterates ++ [y] ∧
          reg t .plf 0 (Reg.CNT + 40) = reg s .plf 0 (Reg.CNT + 40)) ∧
        (r.fail = true → t.plf.pos = 1 + r.iters ∧ t.plf.fail = true ∧ t.plf.iterates = s.plf.iterates ∧
          reg t .plf 0 (Reg.CNT + 40) = reg s .plf 0 (Reg.CNT + 40) + 1) ∧
        reg t .plf 0 Reg.PLF_PIVOT_SUBST = reg s .plf 0 Reg.PLF_PIVOT_SUBST + BitVec.ofNat 32 r.subst ∧
        reg t .plf 0 (Reg.CNT + 28) = reg s .plf 0 (Reg.CNT + 28) + BitVec.ofNat 32 r.flush ∧
        (reg t .plf 0 (Reg.CNT + 16) = reg s .plf 0 (Reg.CNT + 16) + (if r.factFb then 1 else 0)) ∧
        (reg t .plf 0 (Reg.CNT + 20) = reg s .plf 0 (Reg.CNT + 20) + (if r.capped then 1 else 0)) ∧
        (0 < r.subst → bit (reg t .plf 0 Reg.IRQ_STAT) plfPivSub = true) ∧
        (r.factFb = true → bit (reg t .plf 0 Reg.IRQ_STAT) plfFactFb = true) ∧
        (r.capped = true → bit (reg t .plf 0 Reg.IRQ_STAT) plfIterCap = true) ∧
        t = { s with plf := t.plf, regs := t.regs, link := t.link }) ∧
      (s.plf.busy = false ∨ s.plf.fail = true ∨ ipSteps s < p ∨ pattern s = none ∨ s.plf.prog = none ∨ s.plf.iterates = [] →
        exec .interiorPointStep s = .next s)) ∧
    (∀ (l : Lane) (w : BitVec 15) (f : Bool), (s.plf.busy = true → laneIn s l = true → exec (.progressWord l w f) s =
      .next { s with plf := { s.plf with words := vset s.plf.words l (some (w, f)) } }) ∧
      (s.plf.busy = false ∨ laneIn s l = false → exec (.progressWord l w f) s = .next s)) ∧
    (∃ t, exec .deadlineAgreement s = .next t ∧ t.plf.busy = false ∧
      (s.plf.busy = true → (pattern s).isSome = true → s.arms.isSome = true →
        (∃ l : Lane, laneIn s l = true ∧ (s.carts[laneCart l]).mute = false) →
        reg t .plf 0 Reg.PLF_LAST_TAG = s.plf.startTag.setWidth 32 ∧
        ((reg t .plf 0 Reg.CNT = reg s .plf 0 Reg.CNT + 1 ∧ reg t .plf 0 (Reg.CNT + 4) = reg s .plf 0 (Reg.CNT + 4) ∧
            bit (reg t .plf 0 Reg.PLF_LAST) 0 = true ∧ t.plf.plan.isSome = true ∧
            ∀ a ∈ movedArms s, (t.play[a]).rejects = 0 ∧ (t.play[a]).next.isSome = true ∧ (t.play[a]).segs = (s.play[a]).segs) ∨
          (reg t .plf 0 Reg.CNT = reg s .plf 0 Reg.CNT ∧ reg t .plf 0 (Reg.CNT + 4) = reg s .plf 0 (Reg.CNT + 4) + 1 ∧
            bit (reg t .plf 0 Reg.PLF_LAST) 0 = false ∧ bit (reg t .plf 0 Reg.IRQ_STAT) plfReject = true ∧ t.plf.plan = s.plf.plan ∧
            ∀ a ∈ movedArms s, (t.play[a]).rejects = (s.play[a]).rejects + 1 ∧ (t.play[a]).next = (s.play[a]).next)) ∧
        (∀ a : Arm, a ∉ movedArms s → t.play[a] = s.play[a])) ∧
      t = { s with plf := t.plf, play := t.play, regs := t.regs, link := t.link }) ∧
    (∀ a : Arm,
      (kHold s ≤ (s.play[a]).rejects → (s.play[a]).stopping = false → (s.saf.arm[a]).st = 0 →
        ∃ t, exec (.timeScaleStop a) s = .next t ∧
          (∀ b ∈ coupledArms s a, (s.play[b]).stopping = false → (s.saf.arm[b]).st = 0 → (t.play[b]).stopping = true ∧
            (t.play[b]).held = false ∧ (t.play[b]).next = none ∧ (t.ring[b]).halt ≠ 0) ∧
          (∀ b : Arm, b ∉ coupledArms s a → t.play[b] = s.play[b]) ∧ bit (reg t .plf 0 Reg.IRQ_STAT) plfTsStop = true ∧
          ((s.ring[a]).coupled = none → reg t .plf 0 (Reg.CNT + 12) = reg s .plf 0 (Reg.CNT + 12) + 1 ∧
            ∀ b : Arm, b ≠ a → t.ring[b] = s.ring[b]) ∧
          t = { s with ring := t.ring, tds := t.tds, play := t.play, regs := t.regs, link := t.link }) ∧
      ((s.play[a]).rejects < kHold s ∨ (s.play[a]).stopping = true ∨ (s.saf.arm[a]).st ≠ 0 → exec (.timeScaleStop a) s = .next s) ∧
      ((s.play[a]).stopping = true → hasTail s a = false ∨ alphaQ31 (alphaAt (s.play[a]) 0).1 = 0 →
        ∃ t, exec (.timeScaleStopEnd a) s = .next t ∧ (t.play[a]).stopping = false ∧
        (t.play[a]).rest = true ∧ (t.play[a]).segs = [] ∧ (t.play[a]).rejects = 0 ∧ (t.ring[a]).path = [] ∧
        (∀ b : Arm, b ≠ a → t.play[b] = s.play[b] ∧ t.ring[b] = s.ring[b]) ∧
        t = { s with ring := t.ring, play := t.play, sdp := t.sdp }) ∧
      (∀ q : Profile, (s.play[a]).ended = true → (s.play[a]).profile = some q → q.rising = false →
        0 < alphaQ31 (alphaAt (s.play[a]) 0).1 → (s.ring[a]).coupled = none → ∃ t, exec (.tailExhausted a) s = .next t ∧
        3 ≤ (t.saf.arm[a]).st ∧ ((s.saf.arm[a]).st < 3 → t.saf.out.stoA.getLsbD a.val = false ∧ t.saf.out.stoB.getLsbD a.val = false ∧
          t.saf.out.sbc.getLsbD a.val = false) ∧ t.clk = s.clk))

/-- R325, R327, R330, R338, R342, R343: phase A unpacks the feedback of every joint bound: a present record with `VALID` = 1 gives the measured
position, no other does; phase B moves κ of every arm towards the published scale by no more than the limits, and makes the new setpoints
those in force; with `EN` = 0 neither does anything. `PDATA` sets a shadow and advances `INDEX`; `PCOMMIT` puts a joint's shadows in force;
`SDP.GO` and `HA_SEQ` are noted for their sync instant, `GO` refused with 0x0100 without a next bank and with 0x0101 while a switch waits; a kernel switch that is due swaps the banks.
Rests on the model's choices of log 10, 23, 90, 102, 103, 107. -/
def Obligations.ServoDatapath : Prop :=
  ∀ (s : State), s.clk.on = true → regsWf s.regs = true →
    (enabled s .sdp 0 = false → exec .servoPhaseA s = .next s ∧ exec .servoPhaseB s = .next s) ∧
    (enabled s .sdp 0 = true → ∃ t, exec .servoPhaseA s = .next t ∧
      (∀ j : Fin 96, jointBound s j.val = true → (t.sdp.joint[j]).fbValid =
          ((s.sdp.fb[jointArm j]).present && bit (s.sdp.joint[j]).rxBits 0) ∧
        (t.sdp.joint[j]).posMeas = (if (t.sdp.joint[j]).fbValid then (s.sdp.joint[j]).rxPos else (s.sdp.joint[j]).posMeas) ∧
        (t.sdp.joint[j]).posNow = (s.sdp.joint[j]).posNow) ∧
      (∀ j : Fin 96, jointBound s j.val = false → t.sdp.joint[j] = s.sdp.joint[j]) ∧
      t = { s with sdp := t.sdp, regs := t.regs, link := t.link, lanePriv := t.lanePriv }) ∧
    (enabled s .sdp 0 = true → ∃ t, exec .servoPhaseB s = .next t ∧
      (∀ a : Arm, (t.play[a]).kappa = (if s.mnt.kOut[a] * 2 ^ 15 < (s.play[a]).kappa
          then max (s.mnt.kOut[a] * 2 ^ 15) ((s.play[a]).kappa - fld s .sdp 0 Reg.SDP_SCALE 15 0 * 2 ^ 15)
          else min (s.mnt.kOut[a] * 2 ^ 15) ((s.play[a]).kappa + fld s .sdp 0 Reg.SDP_SCALE 31 16 * 2 ^ 15)) ∧
        ((t.play[a]).rest = true ↔ ∀ j ∈ armBound s a, (t.sdp.joint[j]).velNext ∈ [0, -1] ∧ (t.sdp.joint[j]).accNext ∈ [0, -1])) ∧
      (∀ j : Fin 96, jointBound s j.val = true → (t.sdp.joint[j]).posNow = (t.sdp.joint[j]).posNext ∧
        (t.sdp.joint[j]).velNow = (t.sdp.joint[j]).velNext) ∧
      (∀ j : Fin 96, jointBound s j.val = false → t.sdp.joint[j] = s.sdp.joint[j]) ∧
      t = { s with sdp := t.sdp, play := t.play, regs := t.regs, link := t.link, lanePriv := t.lanePriv }) ∧
    (∀ (v : Word) (n : Fin 96) (i : Nat), fld s .sdp 0 Reg.SDP_PSEL 14 8 = n.val → fld s .sdp 0 Reg.SDP_PSEL 5 0 = i →
      ∃ t, exec (.pdata v) s = .next t ∧ shadowWord t.sdp.joint[n] i = v ∧
        (∀ k, k ≠ i → shadowWord t.sdp.joint[n] k = shadowWord s.sdp.joint[n] k) ∧ (t.sdp.joint[n]).par = (s.sdp.joint[n]).par ∧
        (∀ m : Fin 96, m ≠ n → t.sdp.joint[m] = s.sdp.joint[m]) ∧ fld t .sdp 0 Reg.SDP_PSEL 5 0 = (i + 1) % 64 ∧
        RegsBut [regKey .sdp 0 Reg.SDP_PSEL, regKey .sdp 0 Reg.CHG] s t ∧ t = { s with sdp := t.sdp, regs := t.regs }) ∧
    (∀ (v : Word) (n : Fin 96), bit v 7 = false → field v 6 0 = n.val → ((s.sdp.joint[n]).shadow.map (·.1)).Nodup →
      Sparse.wf (fun _ => (0 : Word)) (s.sdp.joint[n]).par = true → ∃ t, exec (.pcommit v) s = .next t ∧
        (∀ i, param t.sdp.joint[n] i = shadowWord s.sdp.joint[n] i) ∧ (∀ m : Fin 96, m ≠ n → t.sdp.joint[m] = s.sdp.joint[m]) ∧
        reg t .sdp 0 (Reg.CNT + 20) = reg s .sdp 0 (Reg.CNT + 20) + 1 ∧
        RegsBut (regKey .sdp 0 Reg.CHG :: eventKeys .sdp 0 5) s t ∧ t = { s with sdp := t.sdp, regs := t.regs, link := t.link }) ∧
    (∀ v : Word, bit v 7 = false → 96 ≤ field v 6 0 → ∃ t, exec (.pcommit v) s = .next t ∧ field (reg t .sdp 0 Reg.ERR) 15 0 = 4 ∧
      RegsBut (errKeys .sdp 0) s t ∧ t = { s with regs := t.regs, link := t.link }) ∧
    (s.sdp.banks[other s.sdp.act] = none → ∃ t, exec .sdpGo s = .next t ∧ field (reg t .sdp 0 Reg.ERR) 15 0 = 0x0100 ∧ t.sdp = s.sdp) ∧
    ((s.sdp.banks[other s.sdp.act]).isSome = true → s.sdp.pend.isSome = true → ∃ t, exec .sdpGo s = .next t ∧
      field (reg t .sdp 0 Reg.ERR) 15 0 = 0x0101 ∧ t.sdp = s.sdp) ∧
    ((s.sdp.banks[other s.sdp.act]).isSome = true → s.sdp.pend = none → ∃ t, exec .sdpGo s = .next t ∧
      t.sdp = { s.sdp with pend := some (s.clk.tag.toNat + planBus s) } ∧ RegsBut [regKey .sdp 0 Reg.CHG] s t ∧
      t = { s with sdp := t.sdp, regs := t.regs }) ∧
    (∀ v : Word, ∃ t, exec (.haSeq v) s = .next t ∧ t.sdp = { s.sdp with haSeq := true } ∧ RegsBut [regKey .sdp 0 Reg.CHG] s t ∧
      t = { s with sdp := t.sdp, regs := t.regs }) ∧
    (∀ b : KernelBank, switchDue s s.sdp.pend (planBus s) = true → s.sdp.banks[other s.sdp.act] = some b →
      ∃ t, exec .kernelBankSwitch s = .next (refreshReady t) ∧ t.sdp.act = other s.sdp.act ∧ t.sdp.pend = none ∧ t.sdp.banks = s.sdp.banks ∧
        (∀ c : CoreNo, t.sdp.core[c] = { s.sdp.core[c] with pMem := bankCode b, xMem := clearStates (kernelBank s) b (s.sdp.core[c]).xMem }) ∧ (∀ j : Fin 96, (t.sdp.joint[j]).shadow = [] ∧
          (t.sdp.joint[j]).posNow = (s.sdp.joint[j]).posNow) ∧ bit (reg t .sdp 0 Reg.IRQ_STAT) sdpBankSw = true ∧
        reg t .sdp 0 (Reg.CNT + 24) = reg s .sdp 0 (Reg.CNT + 24) + 1 ∧
        t = { s with sdp := t.sdp, tds := t.tds, img := t.img, regs := t.regs, link := t.link }) ∧
    (switchDue s s.sdp.pend (planBus s) = false → exec .kernelBankSwitch s = .next (refreshReady s))

-- MAC cores

/-- R312 to R314, R319, R321, R322: the arithmetic of a running core. An ALU operation writes its result to Dd for the next instruction, `N` and
`Z` follow it, a saturation sets `V`; a compare sets `T` alone; `SEL` chooses by `T`. A multiply joins the 72-bit product to the latest ACC a;
it and a parallel load show after the next instruction, a parallel store is made at once, and the address registers are post-modified; two stream ports at one word count a conflict.
An accumulator operation writes ACC a at once; `STA` and the conversions write their D register after the next instruction.
Rests on the model's choices of log 91, 105. -/
def Obligations.MacArithmetic : Prop :=
  ∀ (s : State) (c : CoreNo) (k l : MacCore), s.clk.on = true → s.sdp.core[c] = k → k.running = true → landed s c = l →
    (∀ x : AluArgs,
      (∀ p ∈ ([(.mov, fun u _ => u), (.add, fun u v => u + v), (.sub, fun u v => u - v), (.and, fun u v => u &&& v),
          (.or, fun u v => u ||| v), (.xor, fun u v => u ^^^ v), (.shl, fun u v => u <<< (v.toNat % 32)),
          (.shra, fun u v => BitVec.ofInt 32 (u.toInt / 2 ^ (v.toNat % 32))), (.shrl, fun u v => BitVec.ofNat 32 (u.toNat / 2 ^ (v.toNat % 32))),
          (.min, fun u v => if v.toInt < u.toInt then v else u), (.max, fun u v => if u.toInt < v.toInt then v else u),
          (.sel, fun u v => if bit k.flg 0 then u else v)] : List ((CoreNo → AluArgs → Instr) × (Word → Word → Word))),
        ∀ r : Word, r = p.2 (getD k x.ds) (aluB k x) → exec (p.1 c x) s = .next (withCore s c (stepped { l with
          d := vput l.d (physD k x.dd) r, flg := macFlags r.msb (r == 0) (bit k.flg 1) (bit k.flg 0) }) [])) ∧
      (∀ p ∈ ([(.adds, fun u v => u.toInt + v.toInt), (.subs, fun u v => u.toInt - v.toInt), (.abs, fun u _ => (u.toInt.natAbs : Int)),
          (.neg, fun u _ => -u.toInt)] : List ((CoreNo → AluArgs → Instr) × (Word → Word → Int))),
        ∀ v : Int, v = p.2 (getD k x.ds) (aluB k x) → exec (p.1 c x) s = .next (withCore s c (stepped { l with
          d := vput l.d (physD k x.dd) (BitVec.ofInt 32 (satI v))
          flg := macFlags (decide (v < 0)) (decide (v = 0)) (bit k.flg 1 || decide (satI v ≠ v)) (bit k.flg 0) }) [])) ∧
      (∀ p ∈ ([(.cmplt, fun u v => decide (u.toInt < v.toInt)), (.cmpltu, fun u v => decide (u.toNat < v.toNat)),
          (.cmpeq, fun u v => decide (u = v))] : List ((CoreNo → AluArgs → Instr) × (Word → Word → Bool))),
        exec (p.1 c x) s = .next (withCore s c (stepped { l with
          flg := macFlags (bit k.flg 2) (bit k.flg 3) (bit k.flg 1) (p.2 (getD k x.ds) (aluB k x)) }) []))) ∧
    (∀ (x : MulArgs) (ms : List Move), ms = (slotMove k false x.xmove).toList ++ (slotMove k true x.ymove).toList →
      (∀ m ∈ ms, badOffset (vget k.m m.an 0) = false ∧ m.addr < memWords m.mem) →
      ∀ p ∈ ([(.macSS, true, true, fun u v => u + v), (.macSU, true, false, fun u v => u + v), (.macUU, false, false, fun u v => u + v),
          (.msuSS, true, true, fun u v => u - v), (.mpySS, true, true, fun _ v => v), (.mpySU, true, false, fun _ v => v),
          (.mpyUU, false, false, fun _ v => v)] : List ((CoreNo → MulArgs → Instr) × Bool × Bool × (BitVec 72 → BitVec 72 → BitVec 72))),
      ∀ v : Int, v = (if p.2.1 then (getD k x.ds).toInt else (getD k x.ds).toNat) * (if p.2.2.1 then (getD k x.dt).toInt else (getD k x.dt).toNat) →
        exec (p.1 c x) s = .next (withCore
          (if k.stream = true ∧ ms.length = 2 ∧ ∀ m ∈ ms, ∀ n ∈ ms, m.addr = n.addr then countPriv .sdp 13 1 s else s) c
          (stepped (postAll (ms.map (·.an)) k ((ms.filter (·.store)).foldl (fun j m => writeMem m.mem m.addr (vget k.d m.reg 0) j) l)))
          (.acc x.acc (p.2.2.2 (accLatest (macCtx s c) x.acc) (BitVec.ofInt 72 v)) ::
            (ms.filter fun m => !m.store).map fun m => .d m.reg (readMem k m.mem m.addr)))) ∧
    (∀ (x : MulArgs) (ms : List Move), ms = (slotMove k false x.xmove).toList ++ (slotMove k true x.ymove).toList →
      ∀ i ∈ [Instr.macSS c x, .macSU c x, .macUU c x, .msuSS c x, .mpySS c x, .mpySU c x, .mpyUU c x],
        ((∃ m ∈ ms, badOffset (vget k.m m.an 0) = true) → ∃ t, exec i s = .next t ∧ KernelStops c 1 s t) ∧
        ((∀ m ∈ ms, badOffset (vget k.m m.an 0) = false) → (∃ m ∈ ms, memWords m.mem ≤ m.addr) →
          ∃ t, exec i s = .next t ∧ KernelStops c 2 s t)) ∧
    (∀ x : AccArgs,
      (∀ p ∈ ([(.clr, fun _ _ => 0), (.aadd, fun u v => u + v), (.asub, fun u v => u - v), (.amov, fun _ v => v),
          (.ash, fun u _ => BitVec.ofInt 72 (if 0 ≤ x.sh.toInt then u.toInt * 2 ^ x.sh.toInt.toNat else u.toInt / 2 ^ (-x.sh.toInt).toNat))] :
          List ((CoreNo → AccArgs → Instr) × (BitVec 72 → BitVec 72 → BitVec 72))),
        ∀ r : BitVec 72, r = p.2 (vget k.acc x.a 0) (vget k.acc x.b 0) → exec (p.1 c x) s = .next (withCore s c (stepped { l with
          acc := vput l.acc x.a r, flg := macFlags r.msb (r == 0) (bit k.flg 1) (bit k.flg 0) }) [])) ∧
      (x.sh.toNat ≤ 63 →
        (∀ p ∈ ([(.lda, fun u => u.toInt), (.ldau, fun u => (u.toNat : Int))] : List ((CoreNo → AccArgs → Instr) × (Word → Int))),
          ∀ r : BitVec 72, r = BitVec.ofInt 72 (p.2 (getD k x.d) * 2 ^ x.sh.toNat) → exec (p.1 c x) s = .next (withCore s c (stepped { l with
            acc := vput l.acc x.a r, flg := macFlags r.msb (r == 0) (bit k.flg 1) (bit k.flg 0) }) [])) ∧
        (∀ (v : Int) (r : Word), v = (vget k.acc x.a 0).toInt / 2 ^ x.sh.toNat → r = BitVec.ofInt 32 (if x.sat then satI v else v) →
          exec (.sta c x) s = .next (withCore s c (stepped { l with
            flg := macFlags r.msb (r == 0) (bit k.flg 1 || (x.sat && decide (satI v ≠ v))) (bit k.flg 0) }) [.d (physD k x.d) r]))) ∧
      (63 < x.sh.toNat → ∀ i ∈ [Instr.lda c x, .ldau c x, .sta c x], ∃ t, exec i s = .next t ∧ KernelStops c 1 s t)) ∧
    (∀ x : CvtArgs, exec (.cvtf c x) s = .next (withCore s c (stepped l) [.d (physD k x.dd) (cvtfValue (getD k x.ds).toInt x.e.toInt)]) ∧
      exec (.cvti c x) s = .next (withCore s c (stepped { l with
        flg := macFlags (bit k.flg 2) (bit k.flg 3) (bit k.flg 1 || (cvtiValue (getD k x.ds) x.e.toInt).2) (bit k.flg 0) })
        [.d (physD k x.dd) (cvtiValue (getD k x.ds) x.e.toInt).1]))

/-- R310, R315, R317 to R323: control and data transfer of a running core. Outside loops the program counter moves on by one; at the end of a
loop's body it goes back while passes remain, rotating the registers, and leaves the loop after the last; a taken branch costs three cycles and
faults within a loop body; `LOOP` begins a body, skips it for a count of 0 and faults at a third level; `END` ends the kernel, and counts a `V`;
loads show after the next instruction, stores and immediates at once; a fault of R323 stops the kernel.
Rests on the model's choices of log 91, 105. -/
def Obligations.MacControl : Prop :=
  ∀ (s : State) (c : CoreNo) (k l : MacCore), s.clk.on = true → regsWf s.regs = true → s.sdp.core[c] = k → k.running = true →
    landed s c = l →
    (exec (.nop c) s = .next (withCore s c (stepped l) []) ∧
      exec (.rot c) s = .next (withCore s c (stepped { l with rotb := l.rotb - 1 }) []) ∧
      (∀ en : Bool, exec (.setrot c en) s = .next (withCore s c (stepped { l with rotOn := en }) []))) ∧
    (k.loops = [] → stepped l = { l with pc := k.pc + 1, cycles := k.cycles + 1, loops := [] }) ∧
    (∀ (h : HwLoop) (r : List HwLoop), k.loops = h :: r →
      (k.pc ≠ h.stop → stepped l = { l with pc := k.pc + 1, cycles := k.cycles + 1 }) ∧
      (k.pc = h.stop → 1 < k.lc.toNat → stepped l = { l with
        pc := h.start, lc := k.lc - 1, rotb := if h.outer then k.rotb else k.rotb - 1, cycles := k.cycles + if h.outer then 3 else 1 }) ∧
      (k.pc = h.stop → k.lc.toNat ≤ 1 → r = [] → stepped l = { l with
        pc := k.pc + 1, lc := h.saved, loops := [], rotb := if h.outer then k.rotb else k.rotb - 1, cycles := k.cycles + 1 })) ∧
    (∃ t, exec (.endKernel c) s = .next t ∧ (t.sdp.core[c]).running = false ∧ (t.sdp.core[c]).loops = [] ∧
      bit (t.sdp.core[c]).flg 1 = false ∧ (t.sdp.core[c]).d = l.d ∧ (t.sdp.core[c]).acc = l.acc ∧ (t.sdp.core[c]).xMem = l.xMem ∧
      (∀ e : CoreNo, e ≠ c → t.sdp.core[e] = s.sdp.core[e]) ∧
      (bit k.flg 1 = true → reg t .sdp 0 (Reg.CNT + 8) = reg s .sdp 0 (Reg.CNT + 8) + 1 ∧ bit (reg t .sdp 0 Reg.IRQ_STAT) sdpSat = true) ∧
      (bit k.flg 1 = false → t.regs = s.regs) ∧ RegsBut (eventKeys .sdp 0 2) s t ∧
      t = { s with sdp := t.sdp, regs := t.regs, link := t.link }) ∧
    (∀ (o : BitVec 16) (g : Bool), g = bit k.flg 0 →
      (∀ i ∈ [Instr.br c o, if g then .brt c o else .brf c o],
        (k.loops = [] → exec i s = .next (withCore s c { l with
          pc := if (k.pc : Int) + 1 + o.toInt < 0 then k.len else ((k.pc : Int) + 1 + o.toInt).toNat, cycles := k.cycles + 3, loops := [] } [])) ∧
        (k.loops ≠ [] → ∃ t, exec i s = .next t ∧ KernelStops c 4 s t)) ∧
      exec (if g then .brf c o else .brt c o) s = .next (withCore s c (stepped l) [])) ∧
    (∀ (x : LoopArgs) (n m : Nat), n = (if x.len = 0 then 64 else x.len.toNat) →
      m = (if x.cr then field (getD k (field x.count 3 0)) 16 0 else x.count.toNat) →
      (m = 0 → (∀ h ∈ k.loops.head?, k.pc + n ≤ h.stop) → exec (.loop c x) s = .next (withCore s c
        { endPass (k.pc + n) k.loops l with cycles := (endPass (k.pc + n) k.loops l).cycles + 2 } [])) ∧
      (m = 0 → (∀ h ∈ k.loops.head?, k.pc + n ≠ h.stop) →
        endPass (k.pc + n) k.loops l = { l with pc := k.pc + 1 + n }) ∧
      (∀ h ∈ k.loops.head?, h.stop < k.pc + n → ∃ t, exec (.loop c x) s = .next t ∧ KernelStops c 4 s t) ∧
      (m ≠ 0 → k.loops = [] → exec (.loop c x) s = .next (withCore s c { l with
        pc := k.pc + 1, cycles := k.cycles + 1, lc := BitVec.ofNat 17 m, loops := [⟨k.pc + 1, k.pc + n, k.lc, false⟩] } [])) ∧
      (m ≠ 0 → ∀ h : HwLoop, k.loops = [h] →
        (k.pc + n ≤ h.stop → exec (.loop c x) s = .next (withCore s c { l with
          pc := k.pc + 1, cycles := k.cycles + 1, lc := BitVec.ofNat 17 m
          loops := [⟨k.pc + 1, k.pc + n, k.lc, false⟩, { h with outer := true }] } []))) ∧
      (m ≠ 0 → 2 ≤ k.loops.length → ∃ t, exec (.loop c x) s = .next t ∧ KernelStops c 4 s t)) ∧
    (∀ (x : LsArgs) (a : Nat), a = (vget k.a x.an 0).toNat →
      (lsFault k x = 0 → exec (.ld c x) s = .next (withCore s c (stepped (lsPost k x l))
          [classWrite k x.cls.toNat x.reg (readMem k x.mem.toNat a)]) ∧
        exec (.st c x) s = .next (withCore s c (stepped (lsPost k x (writeMem x.mem.toNat a (classRead k x.cls.toNat x.reg) l))) [])) ∧
      (lsFault k x ≠ 0 → ∀ i ∈ [Instr.ld c x, .st c x], ∃ t, exec i s = .next t ∧ KernelStops c (lsFault k x) s t)) ∧
    (∀ (x : LdiArgs) (v : Word), v = (if x.half = 0 then x.value.signExtend 32 else if x.half = 1 then x.value.setWidth 32
        else x.value ++ (classRead k x.cls.toNat x.reg).setWidth 16) →
      (x.half ≠ 3 → classOk x.cls.toNat x.reg = true →
        exec (.ldi c x) s = .next (withCore s c (stepped (landWrite l (classWrite k x.cls.toNat x.reg v))) [])) ∧
      (x.half = 3 ∨ classOk x.cls.toNat x.reg = false → ∃ t, exec (.ldi c x) s = .next t ∧ KernelStops c 1 s t)) ∧
    (∀ d : Fin 16,
      (∀ p ∈ ([(0, k.lc.setWidth 32), (1, k.rotb.setWidth 32), (2, k.flg.setWidth 32), (3, s.clk.tag.setWidth 32), (4, BitVec.ofNat 32 c.val),
          (5, BitVec.ofNat 32 k.joint), (6, k.pmap.setWidth 32)] : List (BitVec 4 × Word)),
        exec (.movsFromSpecial c d p.1) s = .next (withCore s c (stepped { l with d := vput l.d (physD k d) p.2 }) [])) ∧
      exec (.movsToSpecial c d 0) s = .next (withCore s c (stepped { l with lc := (getD k d).setWidth 17 }) []) ∧
      exec (.movsToSpecial c d 1) s = .next (withCore s c (stepped { l with rotb := (getD k d).setWidth 3 }) []) ∧
      exec (.movsToSpecial c d 2) s = .next (withCore s c (stepped { l with flg := (getD k d).setWidth 4 }) []) ∧
      exec (.movsToSpecial c d 6) s = .next (withCore s c (stepped l) [.pmap ((getD k d).setWidth 24)]) ∧
      (∀ q : BitVec 4, q.toNat ∈ [3, 4, 5] ∨ 7 ≤ q.toNat → ∃ t, exec (.movsToSpecial c d q) s = .next t ∧ KernelStops c 1 s t) ∧
      (∀ q : BitVec 4, 7 ≤ q.toNat → ∃ t, exec (.movsFromSpecial c d q) s = .next t ∧ KernelStops c 1 s t)) ∧
    (∃ t, exec (.kernelCycleLimit c) s = .next t ∧ KernelStops c 5 s t) ∧
    (∀ w : Word, (∃ t, exec (.illegalInstruction c w true) s = .next t ∧ KernelStops c 6 s t) ∧
      (decodeMac w = none → ∃ t, exec (.illegalInstruction c w false) s = .next t ∧ KernelStops c 1 s t))

-- Mantis, tasks, safety, images

/-- R372, R376, R385, R389 to R392: the pass of a bus cycle counts once, leaves every speed scale at 1 or below and no stop state changed; a
source that has been without an accepted frame for its watchdog is lost with its tracks; a switch of the pair table that is due swaps
the banks and enters the change log unless it is full; `MNT.GO` needs a next bank, the session's key and room in the change log; host tracks are shadowed, committed and expire, and
are refused with 0x0003 outside host-assisted mode.
Rests on the model's choices of log 9, 10, 23, 65, 78, 79, 102, 103. -/
def Obligations.MantisCommands : Prop :=
  ∀ (s : State), s.clk.on = true → regsWf s.regs = true →
    (mantisBank s = none → exec .mantisPass s = .next s) ∧
    ((mantisBank s).isSome = true → ∃ t, exec .mantisPass s = .next t ∧ reg t .mnt 0 Reg.CNT = reg s .mnt 0 Reg.CNT + 1 ∧
      (∀ a : Arm, t.mnt.k[a] ≤ 65536 ∧ (t.saf.arm[a]).st = (s.saf.arm[a]).st) ∧ t.mnt.banks = s.mnt.banks ∧ t.mnt.act = s.mnt.act ∧
      t = { s with clk := { s.clk with free := t.clk.free }, mnt := t.mnt, saf := t.saf, regs := t.regs, link := t.link }) ∧
    (∀ (i : Sixteen) (d : GuardDef), guardDef s i.val = some d →
      ((s.mnt.src[i]).lost = false → (∀ b ∈ (s.mnt.src[i]).rx, guardAccepted d s.mnt.src[i] b = false) → d.wd ≤ (s.mnt.src[i]).held + 1 →
        ∃ t, exec (.guardSourceLost i) s = .next t ∧ (t.mnt.src[i]).lost = true ∧ (t.mnt.src[i]).tracks = [] ∧
          (∀ j : Sixteen, j ≠ i → t.mnt.src[j] = s.mnt.src[j]) ∧ bit (reg t .mnt 0 Reg.IRQ_STAT) mntGLost = true ∧
          bit (reg t .mnt 0 Reg.IRQ_STAT) mntGHold = true ∧ reg t .mnt 0 (Reg.CNT + 16) = reg s .mnt 0 (Reg.CNT + 16) + 1 ∧
          RegsBut (regKey .mnt 0 (Reg.CNT + 12) :: eventKeys .mnt 0 4) s t ∧ t = { s with mnt := t.mnt, regs := t.regs, link := t.link }) ∧
      ((s.mnt.src[i]).lost = true → exec (.guardSourceLost i) s = .next s)) ∧
    (∀ b : MantisBank, s.plf.pend = none → switchDue s s.mnt.pend (planBus s) = true → s.mnt.banks[other s.mnt.act] = some b →
      ∃ t, exec .mantisBankSwitch s = .next (refreshReady t) ∧ t.mnt.act = other s.mnt.act ∧ t.mnt.pend = none ∧
        (logFull s = false → t.sec.seq = s.sec.seq + 1) ∧ (logFull s = true → t.sec = s.sec) ∧
        (s.saf.next = none → t.saf = s.saf ∧ bit (reg t .mnt 0 Reg.IRQ_STAT) mntBankSw = true ∧
          reg t .mnt 0 (Reg.CNT + 44) = reg s .mnt 0 (Reg.CNT + 44) + 1) ∧
        (∀ x : SafetyBank, s.saf.next = some x → t.saf.bank = some x ∧ t.saf.next = s.saf.bank ∧ t.saf.acfg = x.acfg ∧
          t.saf.crc = x.crc ∧ t.saf.loaded = true) ∧
        t = { s with mnt := t.mnt, saf := t.saf, sec := t.sec, img := t.img, regs := t.regs, link := t.link }) ∧
    (s.plf.pend = none → switchDue s s.mnt.pend (planBus s) = false → exec .mantisBankSwitch s = .next (refreshReady s)) ∧
    (s.mnt.banks[other s.mnt.act] = none → ∃ t, exec .mntGo s = .next t ∧ field (reg t .mnt 0 Reg.ERR) 15 0 = 0x0100 ∧ t.mnt = s.mnt) ∧
    ((s.mnt.banks[other s.mnt.act]).isSome = true → s.mnt.pend.isSome = true → ∃ t, exec .mntGo s = .next t ∧
      field (reg t .mnt 0 Reg.ERR) 15 0 = 0x0101 ∧ t.mnt = s.mnt) ∧
    ((s.mnt.banks[other s.mnt.act]).isSome = true → s.mnt.pend = none →
      (s.sec.saf = false → ∃ t, exec .mntGo s = .next t ∧ field (reg t .mnt 0 Reg.ERR) 15 0 = 0x0102 ∧ t.mnt = s.mnt) ∧
      (s.sec.saf = true → logFull s = true → ∃ t, exec .mntGo s = .next t ∧ field (reg t .mnt 0 Reg.ERR) 15 0 = 0x0101 ∧ t.mnt = s.mnt) ∧
      (s.sec.saf = true → logFull s = false → ∃ t, exec .mntGo s = .next t ∧
        t.mnt = { s.mnt with pend := some (s.clk.tag.toNat + planBus s) } ∧
        RegsBut [regKey .mnt 0 Reg.CHG] s t ∧ t = { s with mnt := t.mnt, regs := t.regs })) ∧
    (∀ v : Word, assisted s .mnt 0 = true → ∃ t, exec (.htData v) s = .next t ∧ t.mnt = { s.mnt with
        htShadow := Sparse.put 0 (6 * fld s .mnt 0 Reg.MNT_HT_SEL 7 4 + fld s .mnt 0 Reg.MNT_HT_SEL 2 0)
          (v &&& htMask (fld s .mnt 0 Reg.MNT_HT_SEL 2 0)) s.mnt.htShadow } ∧
      RegsBut [regKey .mnt 0 Reg.MNT_HT_SEL, regKey .mnt 0 Reg.CHG] s t ∧ t = { s with mnt := t.mnt, regs := t.regs }) ∧
    (assisted s .mnt 0 = true → ∃ t, exec .htCommit s = .next t ∧ t.mnt = { s.mnt with
        ht := s.mnt.htShadow, htAge := 0, htOn := true, htExpired := false } ∧ RegsBut [regKey .mnt 0 Reg.CHG] s t ∧
      t = { s with mnt := t.mnt, regs := t.regs }) ∧
    (∀ v : Word, assisted s .mnt 0 = false → ∀ i ∈ [Instr.htData v, .htCommit], ∃ t, exec i s = .next t ∧
      field (reg t .mnt 0 Reg.ERR) 15 0 = 3 ∧ RegsBut (errKeys .mnt 0) s t ∧ t = { s with regs := t.regs, link := t.link }) ∧
    (s.mnt.htOn = true → fld s .mnt 0 Reg.MNT_HT_CFG 15 0 ≤ s.mnt.htAge → ∃ t, exec .htLifeExpiry s = .next t ∧
      t.mnt = { s.mnt with htOn := false, htExpired := true } ∧ bit (reg t .mnt 0 Reg.IRQ_STAT) irqHaLate = true ∧
      reg t .mnt 0 (Reg.CNT + 36) = reg s .mnt 0 (Reg.CNT + 36) + 1 ∧ RegsBut (eventKeys .mnt 0 9) s t ∧
      t = { s with mnt := t.mnt, regs := t.regs, link := t.link })

/-- R346 to R353, R356, R358 to R360: the first operand of a task opens an entry of the matching store, the last makes the task ready, a
second of the same index is discarded with `ERR` code 0x0100; an entry past its life is removed; a free executor takes the ready task that
comes first; a result waits in its flow until the flow's release, which owes a void for every result missing; flow 0 releases the speed
scales and the distance list, flow 5 writes the reports of every arm; the due entries of a delay list
fire in order, those of the phase list not while the line is held; what the comb holds returns as space frees.
Rests on the model's choices of log 6, 7, 53, 55, 56, 57, 58, 59, 68, 88, 91, 98, 105. -/
def Obligations.TaskDispatcher : Prop :=
  ∀ (s : State), s.clk.on = true → regsWf s.regs = true →
    (∀ (n : BitVec 10) (inst : BitVec 16) (idx : BitVec 3) (tag : BitVec 48) (v : BitVec 64) (p : Template) (k : TaskKey),
      templateOf s n.toNat = some p → k = ⟨tag, n.toNat, inst.toNat⟩ → idx.toNat < p.nops → lifeOver s p tag = false →
      (entryOf s k = none → 1 < p.nops → s.tds.matching.length < matchCap → exec (.operand n inst idx tag v) s =
        .next { s with tds := { s.tds with matching := s.tds.matching ++ [⟨k, [(idx.toNat, v)]⟩] } }) ∧
      (entryOf s k = none → 1 < p.nops → matchCap ≤ s.tds.matching.length → combLoad s.tds < combCap →
        exec (.operand n inst idx tag v) s = .next (countPriv .tds 9 1
          { s with tds := { s.tds with comb := s.tds.comb ++ [⟨k, [(idx.toNat, v)]⟩] } })) ∧
      (entryOf s k = none → p.nops = 1 → s.tds.ready.length < readyCap → exec (.operand n inst idx tag v) s =
        .next { s with tds := { s.tds with ready := s.tds.ready ++ [⟨k, p.cls, p.prio, s.tds.stamps⟩], stamps := s.tds.stamps + 1 } }) ∧
      (∀ e : MatchEntry, entryOf s k = some e → (∀ o ∈ e.ops, o.1 ≠ idx.toNat) → e.ops.length + 1 = p.nops → s.tds.ready.length < readyCap →
        ∃ t, exec (.operand n inst idx tag v) s = .next t ∧ entryOf t k = none ∧ (∀ x, x ≠ k → entryOf t x = entryOf s x) ∧
          t.tds.ready = s.tds.ready ++ [⟨k, p.cls, p.prio, s.tds.stamps⟩] ∧ t = { s with tds := t.tds }) ∧
      (∀ (e : MatchEntry) (o : Nat × BitVec 64), entryOf s k = some e → o ∈ e.ops → o.1 = idx.toNat →
        ∃ t, exec (.operand n inst idx tag v) s = .next t ∧ field (reg t .tds 0 Reg.ERR) 15 0 = 0x0100 ∧
          reg t .tds 0 (Reg.CNT + 20) = reg s .tds 0 (Reg.CNT + 20) + 1 ∧ t = { s with regs := t.regs, link := t.link })) ∧
    (∀ (n : BitVec 10) (inst : BitVec 16) (tag : BitVec 48) (p : Template) (e : MatchEntry), templateOf s n.toNat = some p →
      entryOf s ⟨tag, n.toNat, inst.toNat⟩ = some e → lifeOver s p tag = true → ∃ t, exec (.entryExpiry n inst tag) s = .next t ∧
        entryOf t ⟨tag, n.toNat, inst.toNat⟩ = none ∧ (∀ x, x ≠ ⟨tag, n.toNat, inst.toNat⟩ → entryOf t x = entryOf s x) ∧
        (p.flow.isSome = true → t.tds.expired = s.tds.expired ++ [⟨tag, n.toNat, inst.toNat⟩]) ∧
        bit (reg t .tds 0 Reg.IRQ_STAT) tdsExpire = true ∧ reg t .tds 0 (Reg.CNT + 24) = reg s .tds 0 (Reg.CNT + 24) + 1 ∧
        RegsBut (eventKeys .tds 0 6) s t ∧ t = { s with tds := t.tds, regs := t.regs, link := t.link }) ∧
    (∀ (cls : BitVec 3) (unit : BitVec 4) (r : ReadyTask), unit.toNat < executors cls.toNat →
      (∀ x ∈ s.tds.running, ¬ (x.1 = cls.toNat ∧ x.2.1 = unit.toNat)) → pickTask s cls.toNat unit.toNat = some r →
      r ∈ s.tds.ready ++ s.tds.combReady ∧ r.cls = cls.toNat ∧ unitOk s unit.toNat r = true ∧
      (∀ q ∈ s.tds.ready ++ s.tds.combReady, q.cls = cls.toNat → unitOk s unit.toNat q = true → taskBefore q r = false) ∧
      ∃ t, exec (.taskDispatch cls unit) s = .next t ∧ t.tds.running = s.tds.running ++ [(cls.toNat, unit.toNat, r.key)] ∧
        t.tds.ready = s.tds.ready.erase r ∧ t.tds.matching = s.tds.matching ∧ reg t .tds 0 Reg.CNT = reg s .tds 0 Reg.CNT + 1 ∧
        (cls.toNat ≠ 1 → t.sdp = s.sdp) ∧ RegsBut (eventKeys .tds 0 0) s t ∧
        t = { s with tds := t.tds, sdp := t.sdp, regs := t.regs, link := t.link }) ∧
    (∀ (cls : BitVec 3) (unit : BitVec 4) (data : BitVec 64) (k : TaskKey) (p : Template) (f : Nat) (l r : List (Nat × Nat × TaskKey)),
      s.tds.running = l ++ (cls.toNat, unit.toNat, k) :: r → (∀ x ∈ l, ¬ (x.1 = cls.toNat ∧ x.2.1 = unit.toNat)) →
      templateOf s k.tmpl = some p → p.flow = some f →
      ((∀ x ∈ s.tds.released, ¬ (x.1 = f ∧ x.2.1 = k)) → exec (.taskCompletion cls unit data) s =
        .next { s with tds := { s.tds with running := l ++ r, held := s.tds.held ++ [⟨f, p.rank, k, data⟩] } }) ∧
      (∀ y ∈ s.tds.released, y.1 = f → y.2.1 = k → exec (.taskCompletion cls unit data) s =
        .next { s with tds := { s.tds with running := l ++ r } })) ∧
    (∀ (f : Fin 64) (dev : Vector LaneDev 3) (row : FlowRow), flowRow s f.val = some row → s.boot.admitted = true → s.tds.choked = false →
      laneCount s ≠ 0 → Sparse.wf (fun _ => (0 : Word)) s.lanePriv = true → ∃ t, exec (.orderedFlowRelease f dev) s = .next t ∧
        t.tds.held = s.tds.held.filter (fun x => x.flow != f.val) ∧
        (∀ d ∈ dueResults s f.val, (f.val, d.task, d.val.isNone) ∈ t.tds.released) ∧
        (∀ d ∈ dueResults s f.val, d.val = none → bit (reg t .tds 0 Reg.IRQ_STAT) tdsVoid = true) ∧
        privCount t 8 = privCount s 8 + BitVec.ofNat 32 ((dueResults s f.val).filter (·.val.isNone)).length ∧
        s.clk.now ≤ t.clk.now ∧ releaseInstant s row ≤ t.clk.now ∧ t.clk.tag = s.clk.tag ∧
        (f = 0 → t.mnt.kOut = s.mnt.k ∧ t.plf.dist = s.mnt.list) ∧
        (f = 5 → (∀ a : Arm, (t.ring[a]).due = [] ∧ rptWr t a = (rptWr s a + (s.ring[a]).due.length) % 2048) ∧
          t = { s with clk := { s.clk with now := t.clk.now }, ring := t.ring, mem := t.mem, tds := t.tds, vote := t.vote, regs := t.regs
                       link := t.link, lanePriv := t.lanePriv }) ∧
        (5 < f.val → reg t .tds 0 (Reg.CNT + 4) = reg s .tds 0 (Reg.CNT + 4) + BitVec.ofNat 32 (dueResults s f.val).length ∧
          t = { s with clk := { s.clk with now := t.clk.now }, tds := t.tds, vote := t.vote, regs := t.regs, link := t.link
                       lanePriv := t.lanePriv })) ∧
    (∀ (f : Fin 64) (dev : Vector LaneDev 3) (row : FlowRow), f = 5 → flowRow s 5 = some row → s.boot.admitted = true →
      s.tds.choked = false → laneCount s ≠ 0 → memWf s.mem = true → ∃ t, exec (.orderedFlowRelease f dev) s = .next t ∧
        (∀ (a : Arm) (l m : List Report) (r : Report), (s.ring[a]).due = l ++ r :: m → m.length < 2048 →
          memBytes t (reportAddr a ((rptWr s a + l.length) % 2048)) 32 = reportBytes r) ∧
        (∀ x : Nat, (∀ (a : Arm) (i k : Nat), i < (s.ring[a]).due.length → k < 32 → x ≠ reportAddr a ((rptWr s a + i) % 2048) + k) →
          memByte t x = memByte s x)) ∧
    (s.tds.combTime = [] → s.tds.combPhase = [] →
      (∀ l r : List DelayEntry, s.tds.timeList = l ++ r → l.length ≤ 64 →
        (∀ e ∈ l, e.key ≤ (nsOf s : Int) ∧ (match e.act with | .output _ _ => true | _ => false) = true) → (∀ e ∈ r.head?, (nsOf s : Int) < e.key) →
        ∃ t, exec .timeListFire s = .next t ∧ t.tds.timeList = r ∧ t.tds.fired = s.tds.fired ++ l ∧ t.tds.phaseList = s.tds.phaseList ∧
          reg t .tds 0 (Reg.CNT + 8) = reg s .tds 0 (Reg.CNT + 8) + BitVec.ofNat 32 l.length ∧
          t = { s with tds := t.tds, regs := t.regs, link := t.link, lanePriv := t.lanePriv }) ∧
      (∀ l r : List DelayEntry, s.tds.phaseList = l ++ r → l.length ≤ 64 → s.line.rev = false → s.line.valid = true → lineEn s = true →
        (∀ e ∈ l, e.key ≤ linePhase s ∧ (match e.act with | .output _ _ => true | _ => false) = true) → (∀ e ∈ r.head?, linePhase s < e.key) →
        ∃ t, exec .phaseListFire s = .next t ∧ t.tds.phaseList = r ∧ t.tds.fired = s.tds.fired ++ l ∧ t.tds.timeList = s.tds.timeList ∧
          reg t .tds 0 (Reg.CNT + 8) = reg s .tds 0 (Reg.CNT + 8) + BitVec.ofNat 32 l.length ∧
          t = { s with tds := t.tds, regs := t.regs, link := t.link, lanePriv := t.lanePriv })) ∧
    (s.line.rev = true ∨ s.line.valid = false ∨ lineEn s = false → ∃ t, exec .phaseListFire s = .next t ∧ t.tds = s.tds ∧
      (∀ e ∈ s.tds.phaseList, e.key ≤ linePhase s → reg t .tds 0 (Reg.CNT + 12) = reg s .tds 0 (Reg.CNT + 12) + 1) ∧
      t = { s with regs := t.regs, link := t.link }) ∧
    (∃ t, exec .combRefill s = .next t ∧
      (s.tds.comb.length + s.tds.matching.length ≤ matchCap → t.tds.comb = [] ∧ t.tds.matching = s.tds.matching ++ s.tds.comb) ∧
      (s.tds.combReady.length + s.tds.ready.length ≤ readyCap → t.tds.combReady = [] ∧ t.tds.ready = s.tds.ready ++ s.tds.combReady) ∧
      t.tds.matching ++ t.tds.comb = s.tds.matching ++ s.tds.comb ∧ t.tds.timeList ++ t.tds.combTime = s.tds.timeList ++ s.tds.combTime ∧
      (Sparse.wf (fun _ => (0 : Word)) s.lanePriv = true →
        privCount t 10 + BitVec.ofNat 32 (combLoad t.tds) = privCount s 10 + BitVec.ofNat 32 (combLoad s.tds)) ∧
      t = { s with tds := t.tds, regs := t.regs, link := t.link, lanePriv := t.lanePriv })

/-- R398, R407, R408, R411 to R416, R418, R420: a filtered level reaches the hubs that see it; an input of trip function 1 that goes off switches the
STO pairs of its arms off; channels that disagree too long fault the input; an output fault is latched and stops its arm; a test pulse on a channel that
is on passes, or fails into an output fault; a reset input rises, falls, is stuck or too short; `SWRST` needs its enable; the service window warns, and
stops every arm as it expires.
Rests on the model's choices of log 3, 7, 10, 23, 26, 34, 72, 73, 75, 100. -/
def Obligations.SafetyInputsOutputs : Prop :=
  ∀ (s : State), s.clk.on = true → regsWf s.regs = true →
    (∀ (i : Sixteen) (c : Fin 2) (x : Bool) (hubs : Vector Bool 2), ∃ t, exec (.safetyInputFilter i c x hubs) s = .next t ∧
      (∀ h : Hub, (if c = 0 then t.saf.chanA[h] else t.saf.chanB[h]).getLsbD i.val =
        (if s.clk.alive[h] && hubs[h] then x else (if c = 0 then s.saf.chanA[h] else s.saf.chanB[h]).getLsbD i.val)) ∧
      (s.clk.alive[(0 : Hub)] = true → s.clk.alive[(1 : Hub)] = true → hubs[(0 : Hub)] = true → hubs[(1 : Hub)] = true → x = false →
        field (siCfg s i.val) 19 16 = 1 → ∀ a : Arm, bit (siCfg s i.val) (20 + a.val) = true →
          t.saf.out.stoA.getLsbD a.val = false ∧ t.saf.out.stoB.getLsbD a.val = false ∧
          bit (reg t .sio 0 Reg.IRQ_STAT) sioTrip = true ∧ reg t .sio 0 Reg.CNT = reg s .sio 0 Reg.CNT + 1) ∧
      (field (siCfg s i.val) 19 16 ≠ 1 → t.saf.out = s.saf.out) ∧ t.saf.arm = s.saf.arm ∧
      t = { s with clk := { s.clk with single := t.clk.single }, saf := t.saf, regs := t.regs, link := t.link }) ∧
    (∀ i : Sixteen, (s.saf.chanA[s.clk.refHub]).getLsbD i.val ≠ (s.saf.chanB[s.clk.refHub]).getLsbD i.val → s.saf.inFault.getLsbD i.val = false →
      (s.saf.discAt[i]) + field (siCfg s i.val) 15 7 * 10 ^ 6 < nsOf s →
      ∃ t, exec (.inputFault i) s = .next t ∧ t.saf.inFault.getLsbD i.val = true ∧ bit (reg t .sio 0 Reg.IRQ_STAT) sioInFault = true ∧
        reg t .sio 0 (Reg.CNT + 4) = reg s .sio 0 (Reg.CNT + 4) + 1 ∧ RegsBut (eventKeys .sio 0 1) s t ∧
        t = { s with saf := { s.saf with inFault := t.saf.inFault, bothOff := t.saf.bothOff }, regs := t.regs, link := t.link }) ∧
    (∀ i : Sixteen, (s.saf.chanA[s.clk.refHub]).getLsbD i.val = (s.saf.chanB[s.clk.refHub]).getLsbD i.val ∨ s.saf.inFault.getLsbD i.val = true ∨
      nsOf s ≤ (s.saf.discAt[i]) + field (siCfg s i.val) 15 7 * 10 ^ 6 → exec (.inputFault i) s = .next s) ∧
    (∀ o : Fin 28, 12 ≤ o.val → o.val < 16 → ∃ t, exec (.outputFault o) s = .next t ∧ t.saf.out.fault.getLsbD o.val = true ∧
      t.saf.arm = s.saf.arm ∧ bit (reg t .sio 0 Reg.IRQ_STAT) sioOutFault = true ∧ t = { s with saf := t.saf, regs := t.regs, link := t.link }) ∧
    (∀ (o : Fin 28) (a : Arm), o.val = a.val ∨ o.val = 16 + a.val → (s.ring[a]).coupled = none → (s.saf.arm[a]).st < 3 →
      ∃ t, exec (.outputFault o) s = .next t ∧ t.saf.out.fault.getLsbD o.val = true ∧ (t.saf.arm[a]).st = 3 ∧
        ((s.saf.arm[a]).st = 0 → (t.saf.arm[a]).cause = 12) ∧ t.saf.out.stoA.getLsbD a.val = false ∧
        t.saf.out.stoB.getLsbD a.val = false ∧ t.saf.out.sbc.getLsbD a.val = false ∧ (∀ b : Arm, b ≠ a → t.saf.arm[b] = s.saf.arm[b])) ∧
    (∀ (o : Sixteen) (c : Fin 2), channelOn s o.val c = true →
      (s.saf.test = none → testSlotNow s o.val c.val = true → (s.saf.testAt[o])[c] + 10 ^ 9 ≤ nsOf s →
        exec (.testPulse o c) s = .next { s with saf := { s.saf with
          test := some (o.val, c.val, false), testAt := vset s.saf.testAt o (vset s.saf.testAt[o] c (nsOf s)) } }) ∧
      (s.saf.test.isSome = true ∨ testSlotNow s o.val c.val = false ∨ nsOf s < (s.saf.testAt[o])[c] + 10 ^ 9 →
        exec (.testPulse o c) s = .next s) ∧
      (s.saf.test = some (o.val, c.val, false) → (s.saf.testAt[o])[c] + fld s .sio 0 Reg.SIO_TP_CFG 9 0 * 1000 ≤ nsOf s →
        ∃ t, exec (.testPulseResult o c true true) s = .next t ∧ t.saf.test = none ∧
        t.saf.out = s.saf.out ∧ reg t .sio 0 (Reg.CNT + 8) = reg s .sio 0 (Reg.CNT + 8) + 1 ∧
        t = { s with saf := { s.saf with test := none, tpLast := t.saf.tpLast }, regs := t.regs, link := t.link }) ∧
      (s.saf.test = some (o.val, c.val, false) → (s.saf.testAt[o])[c] + fld s .sio 0 Reg.SIO_TP_CFG 9 0 * 1000 ≤ nsOf s → ∀ x y : Bool, (x && y) = false → ∃ t, exec (.testPulseResult o c x y) s = .next t ∧
        t.saf.test = none ∧ t.saf.out.fault.getLsbD o.val = true ∧ bit (reg t .sio 0 Reg.IRQ_STAT) sioTpFail = true ∧
        reg t .sio 0 (Reg.CNT + 12) = reg s .sio 0 (Reg.CNT + 12) + 1)) ∧
    (∀ (dt : Nat) (i : Fin 2) (d : Bool), (s.saf.rstLvl[i] = false → ∃ t, exec (.resetInputRisingEdge dt ⟨i, d⟩) s = .next t ∧
        t.saf.rstLvl[i] = true ∧ t.saf.rstRise[i] = nsOf t ∧ t.clk.now = s.clk.now + dt * edgeStep s.clk.rho ∧
        reg t .sio 0 (Reg.CNT + 28) = reg s .sio 0 (Reg.CNT + 28) + (if d && bothHubs s then 1 else 0) ∧
        t = { advance dt s with clk := { (advance dt s).clk with single := t.clk.single }, saf := t.saf, regs := t.regs, link := t.link }) ∧
      (s.saf.rstLvl[i] = true → ∃ t, exec (.resetPulse dt ⟨i, d⟩) s = .next (refreshReady t) ∧ t.saf.rstLvl[i] = false ∧ t.saf.rstStuck[i] = false ∧
        (s.saf.rstStuck[i] = true ∨ nsOf t - s.saf.rstRise[i] < resetMin ∨ resetMax < nsOf t - s.saf.rstRise[i] →
          reg t .sio 0 (Reg.CNT + 24) = reg s .sio 0 (Reg.CNT + 24) + 1 ∧ t.saf.arm = s.saf.arm ∧ t.saf.out = s.saf.out) ∧
        (s.saf.rstStuck[i] = false → resetMin ≤ nsOf t - s.saf.rstRise[i] → nsOf t - s.saf.rstRise[i] ≤ resetMax → safSeen s = true →
          reg t .sio 0 (Reg.CNT + 20) = reg s .sio 0 (Reg.CNT + 20) + 1 ∧
          ∀ a : Arm, ((resetMask s i).getLsbD a.val = false ∨ (s.saf.arm[a]).st < 2 → t.saf.arm[a] = s.saf.arm[a]) ∧
            (2 ≤ (s.saf.arm[a]).st → t.saf.arm[a] = s.saf.arm[a] ∨ ((t.saf.arm[a]).st = 0 ∧ t.saf.rstSeen = true))))) ∧
    (∀ i : Fin 2, s.saf.rstLvl[i] = true → s.saf.rstStuck[i] = false → s.saf.rstRise[i] + resetMax < nsOf s → ∃ t, exec (.stuckReset i) s = .next t ∧
      t.saf = { s.saf with rstStuck := vset s.saf.rstStuck i true } ∧ bit (reg t .sio 0 Reg.IRQ_STAT) sioRstStuck = true ∧
      RegsBut [regKey .sio 0 Reg.IRQ_STAT] s t ∧ t = { s with saf := t.saf, regs := t.regs, link := t.link }) ∧
    (∀ v : Word, locked s .saf = false → logFull s = false →
      (fld s .saf 0 Reg.SAF_GCFG 31 31 = 0 → ∃ t, exec (.swrst v) s = .next t ∧ field (reg t .saf 0 Reg.ERR) 15 0 = 0x0100 ∧ t.saf = s.saf) ∧
      (fld s .saf 0 Reg.SAF_GCFG 31 31 = 1 → bit v 0 = true → s.saf.swRise = none → ∃ t, exec (.swrst v) s = .next t ∧
        t.saf = { s.saf with swRise := some (nsOf s) } ∧ reg t .saf 0 Reg.SAF_SWRST = 1)) ∧
    (∀ x : Nat, s.saf.swRise = some x → s.saf.swStuck = false → x + resetMax < nsOf s → ∃ t, exec .swrstStuck s = .next t ∧
      t.saf = { s.saf with swStuck := true } ∧ bit (reg t .sio 0 Reg.IRQ_STAT) sioRstStuck = true ∧
      RegsBut [regKey .sio 0 Reg.IRQ_STAT] s t ∧ t = { s with saf := t.saf, regs := t.regs, link := t.link }) ∧
    (s.saf.svcOn = true → svcLeft s ≤ 3600 → ∃ t, exec .svcwarn s = .next t ∧ bit (reg t .sio 0 Reg.IRQ_STAT) sioSvcWarn = true ∧
      RegsBut [regKey .sio 0 Reg.IRQ_STAT] s t ∧ t = { s with regs := t.regs, link := t.link }) ∧
    (s.saf.svcOn = true → s.saf.svcOver = false → svcLeft s = 0 → ∃ t, exec .serviceWindowExpiry s = .next (refreshReady t) ∧ t.saf.svcOver = true ∧
      ∀ a : Arm, ((s.saf.arm[a]).st = 0 → (t.saf.arm[a]).st = 1 ∧ (t.saf.arm[a]).cause = 13) ∧
        ((s.saf.arm[a]).st ≠ 0 → (t.saf.arm[a]).st = (s.saf.arm[a]).st))

/-- R39, R396, R397, R399, R401, R403, R405, R406: an STO or SS1 that two lanes in step decide is taken, and two lanes that disagree stop every arm; standstill
switches the torque off and the brake follows after its delay; an SS1 beyond its time limit ends in STO; lost feedback gives SS1, then STO; a speed
above the limit in two cycles gives SS1. Before the admission, and while a full comb stops the releases, nothing is voted.
Rests on the model's choices of log 8, 56, 71, 73, 74, 100. -/
def Obligations.StopFunctions : Prop :=
  ∀ (s : State), s.clk.on = true → regsWf s.regs = true →
    (∀ d : Vector Decisions 3, (s.boot.admitted = false ∨ s.tds.choked = true → exec (.safetyVote d) s = .next s) ∧
      (s.boot.admitted = true → s.tds.choked = false → ∃ t, exec (.safetyVote d) s = .next t ∧ t.clk.tag = s.clk.tag ∧ t.clk.now = s.clk.now ∧
        (∀ a : Arm, (s.saf.arm[a]).st ≤ (t.saf.arm[a]).st) ∧
        (∀ (l m : Lane) (a : Arm), l ≠ m → laneIn s l = true → laneIn s m = true →
          ((d[l]).sto.getLsbD a.val = true → (d[m]).sto.getLsbD a.val = true → 3 ≤ (t.saf.arm[a]).st) ∧
          ((d[l]).ss1.getLsbD a.val = true → (d[m]).ss1.getLsbD a.val = true → 1 ≤ (t.saf.arm[a]).st)) ∧
        (laneCount s = 1 → ∀ a : Arm, 1 ≤ (t.saf.arm[a]).st) ∧ (laneCount s = 0 → ∀ a : Arm, 3 ≤ (t.saf.arm[a]).st))) ∧
    (∀ a : Arm,
      ((s.saf.arm[a]).st = 1 → stillCyc s ≤ (s.saf.arm[a]).still + b2n (stillNow s a) → ∃ t, exec (.standstill a) s = .next t ∧ (t.saf.arm[a]).st = 2 ∧
        (t.saf.arm[a]).sbcAt = some (nsOf s + field (acfg s a 1) 31 16 * 10 ^ 6) ∧ t.saf.out.stoA.getLsbD a.val = false ∧
        t.saf.out.stoB.getLsbD a.val = false ∧ t.saf.out.sbc = s.saf.out.sbc ∧ (t.play[a]).rest = true ∧ (t.play[a]).segs = [] ∧
        reg t .saf 0 (Reg.CNT + 4) = reg s .saf 0 (Reg.CNT + 4) + 1 ∧ RegsBut (eventKeys .saf 0 1) s t ∧
        (∀ b : Arm, b ≠ a → t.saf.arm[b] = s.saf.arm[b] ∧ t.play[b] = s.play[b] ∧ t.ring[b] = s.ring[b]) ∧
        t = { s with saf := t.saf, sdp := t.sdp, play := t.play, ring := t.ring, regs := t.regs, link := t.link }) ∧
      ((s.saf.arm[a]).st ≠ 1 ∨ (s.saf.arm[a]).still + b2n (stillNow s a) < stillCyc s → exec (.standstill a) s = .next s) ∧
      (∀ x : Nat, (s.saf.arm[a]).sbcAt = some x → (s.saf.arm[a]).st = 2 →
        (x ≤ nsOf s → ∃ t, exec (.sbcDelayExpiry a) s = .next t ∧ (t.saf.arm[a]).st = 3 ∧ (t.saf.arm[a]).sbcAt = none ∧
          t.saf.out.sbc.getLsbD a.val = false ∧ t.saf.out.stoA = s.saf.out.stoA ∧ t = { s with saf := t.saf }) ∧
        (nsOf s < x → exec (.sbcDelayExpiry a) s = .next s)) ∧
      ((s.ring[a]).coupled = none →
        ((s.saf.arm[a]).st = 1 → (s.saf.arm[a]).t0ns + field (acfg s a 0) 31 16 * 10 ^ 6 ≤ nsOf s → ∃ t, exec (.ss1TimeLimit a) s = .next t ∧
          (t.saf.arm[a]).st = 3 ∧ t.saf.out.sbc.getLsbD a.val = false ∧ t.saf.out.stoA.getLsbD a.val = false ∧
          t.saf.out.stoB.getLsbD a.val = false ∧ bit (reg t .saf 0 Reg.IRQ_STAT) safTlimit = true ∧
          (∀ b : Arm, b ≠ a → t.saf.arm[b] = s.saf.arm[b])) ∧
        (0 < fbSs1 s → fbSs1 s ≤ (s.sdp.fb[a]).lost → (s.saf.arm[a]).st = 0 → ∃ t, exec (.feedbackLostSs1 a) s = .next t ∧
          (t.saf.arm[a]).st = 1 ∧ (t.saf.arm[a]).cause = 6 ∧ (t.saf.arm[a]).t0 = s.clk.tag ∧ t.saf.out = s.saf.out ∧ (t.ring[a]).halt ≠ 0 ∧
          (∀ b : Arm, b ≠ a → t.saf.arm[b] = s.saf.arm[b])) ∧
        (0 < fbSto s → fbSto s ≤ (s.sdp.fb[a]).lost → (s.saf.arm[a]).st ≤ 2 → ∃ t, exec (.feedbackLostSto a) s = .next t ∧
          (t.saf.arm[a]).st = 3 ∧ ((s.saf.arm[a]).st = 0 → (t.saf.arm[a]).cause = 6) ∧ (t.ring[a]).halt ≠ 0 ∧
          (∀ b : Arm, b ≠ a → t.saf.arm[b] = s.saf.arm[b])) ∧
        ((s.saf.arm[a]).st = 0 → 2 ≤ (s.saf.arm[a]).slsRun → ∃ t, exec (.slsViolation a) s = .next t ∧ (t.saf.arm[a]).st = 1 ∧
          (t.saf.arm[a]).cause = 5 ∧ bit (reg t .saf 0 Reg.IRQ_STAT) safSls = true ∧ t.saf.out = s.saf.out ∧
          (∀ b : Arm, b ≠ a → t.saf.arm[b] = s.saf.arm[b]))))

/-- R453 to R456: `LOAD` begins a load and is refused with 0x0103 while one runs; a load that is refused changes no bank, one that is not is done
whole; `MOLT` of a fenced cartridge takes a verified image, whose version it runs through a self-test; a module-wide class switch waits for
its plan-cycle start, then gives every cartridge of the kind in step the class.
Rests on the model's choices of log 10, 64, 65, 66, 67, 103. -/
def Obligations.ImagesAndFirmware : Prop :=
  ∀ (s : State), s.clk.on = true → regsWf s.regs = true →
    (∀ (h : Hub) (v : Word), (bit v 31 = false → exec (.imageLoad h v) s = .next s) ∧
      (bit v 31 = true → s.img.stat = 1 → ∃ t, exec (.imageLoad h v) s = .next t ∧ field (reg t .cus h Reg.ERR) 15 0 = 0x0103 ∧
        RegsBut (errKeys .cus h) s t ∧ t = { s with regs := t.regs, link := t.link }) ∧
      (bit v 31 = true → s.img.stat ≠ 1 → ∃ t, exec (.imageLoad h v) s = .next t ∧ t.img.stat = 1 ∧
        (∃ j : LoadJob, t.img.job = some j ∧ j.sect = v.setWidth 8 ∧ j.bytes = containerAt s cellImageAt 0x04000000) ∧ t.mem = s.mem ∧
        t = { s with img := t.img, sec := t.sec, regs := t.regs, link := t.link })) ∧
    (s.img.job = none → exec .imageLoadComplete s = .next (refreshReady s)) ∧
    (∀ (j : LoadJob) (k c : Nat), s.img.job = some j → j.refusal = some (k, c, 0) → ∃ t, exec .imageLoadComplete s = .next (refreshReady t) ∧
      t.img = { s.img with stat := 3, statKind := k, statCode := c, job := none } ∧ t = { s with img := t.img, regs := t.regs, link := t.link }) ∧
    (∀ j : LoadJob, s.img.job = some j → j.refusal = none → ∃ t, exec .imageLoadComplete s = .next (refreshReady t) ∧ t.img.stat = 2 ∧ t.img.job = none ∧
      t.img.loadedBytes = j.bytes ∧ t.img.loadedId = imgId j.bytes ∧ t.img.storedBytes = s.img.storedBytes ∧ t.mem = s.mem ∧
      t.clk = s.clk ∧ (∀ i : Fin 2, wants j.sect j.bytes 4 = false → t.sdp.banks[i] = s.sdp.banks[i]) ∧
      (wants j.sect j.bytes 4 = true → (sectionOf j.bytes 4).isSome = true ∧
        t.sdp.banks[other s.sdp.act] = Config.kernelSection ((sectionOf j.bytes 4).getD []) ∧ t.sdp.banks[s.sdp.act] = s.sdp.banks[s.sdp.act])) ∧
    (∀ (c : Cart) (i : BitVec 8) (b : List Byte), b = containerAt s (firmwareAt i.toNat) firmwareRoom →
      (fenced s c = true → i.toNat < 8 → containerOk b (if 3 ≤ c.val then 2 else 1) = true → badSection b = none →
        ∃ t, exec (.molt c i) s = .next t ∧ (Config.firmwareSigned b = true → t = { s with carts := vset s.carts c { s.carts[c] with
          molt := some (BitVec.ofNat 16 (leAt b 22 2), BitVec.ofNat 16 (leAt b 24 2), BitVec.ofNat 16 (leAt b 26 2)) } }) ∧
          (Config.firmwareSigned b = false → t.carts = s.carts ∧ field (reg t .crt c Reg.ERR) 15 0 = 0x0102)) ∧
      (fenced s c = false ∨ 8 ≤ i.toNat ∨ Config.firmwareSigned b = false → ∃ t, exec (.molt c i) s = .next t ∧ t.carts = s.carts ∧
        field (reg t .crt c Reg.ERR) 15 0 = 0x0102 ∧ RegsBut (errKeys .crt c) s t ∧ t = { s with regs := t.regs, link := t.link })) ∧
    (∀ (c : Cart) (v x n : BitVec 16), (s.carts[c]).molt = some (v, x, n) → ∃ t, exec (.moltComplete c) s = .next (refreshReady t) ∧ (t.carts[c]).fwVersion = v ∧
      (t.carts[c]).fwClass = x ∧ (t.carts[c]).fwNext = n ∧ (t.carts[c]).st = .selftest ∧ (t.carts[c]).cause = 9 ∧ (t.carts[c]).molt = none ∧
      (∀ d : Cart, d ≠ c → t.carts[d] = s.carts[d]) ∧ reg t .crt c (Reg.CNT + 24) = reg s .crt c (Reg.CNT + 24) + 1 ∧
      t = { s with carts := t.carts, regs := t.regs, link := t.link }) ∧
    (∀ (h : Hub) (v : Word) (cls : BitVec 16), cls = BitVec.ofNat 16 (field v 31 16) → bit v 0 = true →
      ((∀ c : Cart, decide (3 ≤ c.val) = bit v 1 → (s.carts[c]).st = .instep → (s.carts[c]).fwNext = cls ∨ (s.carts[c]).fwClass = cls) →
        (∀ c : Cart, decide (3 ≤ c.val) = bit v 1 → readmitting s.carts[c] = false) → s.img.switch = none →
        exec (.fwGo h v) s = .next { s with img := { s.img with switch := some (bit v 1, cls, s.clk.tag.toNat + planBus s) } }) ∧
      (∀ c : Cart, decide (3 ≤ c.val) = bit v 1 → (s.carts[c]).st = .instep → (s.carts[c]).fwNext ≠ cls → (s.carts[c]).fwClass ≠ cls →
        ∃ t, exec (.fwGo h v) s = .next t ∧ t.img = s.img ∧ field (reg t .cus h Reg.ERR) 15 0 = 0x0101 ∧ RegsBut (errKeys .cus h) s t)) ∧
    (∀ (hubs : Bool) (cls : BitVec 16) (n : Nat), s.img.switch = some (hubs, cls, n) →
      (planStarts s = true → n ≤ s.clk.tag.toNat → ∃ t, exec .stepClassSwitch s = .next t ∧ t.img.switch = none ∧
        (if hubs then t.img.hubClass else t.img.laneClass) = cls ∧ (if hubs then t.img.laneClass = s.img.laneClass else t.img.hubClass = s.img.hubClass) ∧
        (∀ c : Cart, (t.carts[c]).st = (s.carts[c]).st ∧ (t.carts[c]).fwClass =
          (if decide (3 ≤ c.val) == hubs && (s.carts[c]).st == .instep then cls else (s.carts[c]).fwClass)) ∧
        t = { s with carts := t.carts, img := t.img, regs := t.regs, link := t.link }) ∧
      (planStarts s = false ∨ s.clk.tag.toNat < n → exec .stepClassSwitch s = .next s))

end
end

