-- ==== Sys2Proof/Laws/Sparse.lean ====
section
/-! SUPPORT. Sparse tables: what a read gives after a write, and the canonical form that every write keeps. -/

namespace Sys2Proof.Machine

variable {α : Type} [DecidableEq α]

/-- A table in canonical form from a bound up reads as its default below the bound. -/
theorem Sparse.get_below {d : Nat → α} {lo k : Nat} (hk : k < lo) :
    ∀ {t : List (Nat × α)}, Sparse.wfFrom d lo t = true → Sparse.get (d k) k t = d k
  | [], _ => rfl
  | (a, v) :: r, h => by
    simp only [Sparse.wfFrom, Bool.and_eq_true, decide_eq_true_eq] at h
    have h1 : k ≠ a := by omega
    have h2 : k < a := by omega
    simp [Sparse.get, h1, h2]

/-- A smaller bound holds too. -/
theorem Sparse.wfFrom_mono {d : Nat → α} {lo lo' : Nat} (h : lo' ≤ lo) :
    ∀ {t : List (Nat × α)}, Sparse.wfFrom d lo t = true → Sparse.wfFrom d lo' t = true
  | [], _ => rfl
  | (a, v) :: r, w => by
    simp only [Sparse.wfFrom, Bool.and_eq_true, decide_eq_true_eq] at w ⊢
    exact ⟨⟨by omega, w.1.2⟩, w.2⟩

/-- A write keeps the canonical form from any bound at or below its key. -/
theorem Sparse.wfFrom_put {d : Nat → α} {k : Nat} {v : α} :
    ∀ {lo : Nat} {t : List (Nat × α)}, lo ≤ k → Sparse.wfFrom d lo t = true →
      Sparse.wfFrom d lo (Sparse.put (d k) k v t) = true
  | lo, [], hlo, _ => by
    unfold Sparse.put
    split <;> simp_all [Sparse.wfFrom]
  | lo, (a, w) :: r, hlo, h => by
    have h0 := h
    simp only [Sparse.wfFrom, Bool.and_eq_true, decide_eq_true_eq] at h
    unfold Sparse.put
    split
    · split
      · exact h0
      · simp only [Sparse.wfFrom, Bool.and_eq_true, decide_eq_true_eq]
        exact ⟨⟨hlo, ‹_›⟩, ⟨⟨by omega, h.1.2⟩, h.2⟩⟩
    · split
      · subst_vars
        split
        · exact Sparse.wfFrom_mono (by omega) h.2
        · simp only [Sparse.wfFrom, Bool.and_eq_true, decide_eq_true_eq]
          exact ⟨⟨h.1.1, ‹_›⟩, h.2⟩
      · simp only [Sparse.wfFrom, Bool.and_eq_true, decide_eq_true_eq]
        exact ⟨h.1, Sparse.wfFrom_put (by omega) h.2⟩

/-- Every write keeps the canonical form. -/
theorem Sparse.wf_put {d : Nat → α} {k : Nat} {v : α} {t : List (Nat × α)} (h : Sparse.wf d t = true) :
    Sparse.wf d (Sparse.put (d k) k v t) = true := Sparse.wfFrom_put (Nat.zero_le _) h

/-- The empty table is canonical. -/
@[simp] theorem Sparse.wf_nil {d : Nat → α} : Sparse.wf d ([] : List (Nat × α)) = true := rfl

/-- A read of the key just written gives the value written. -/
theorem Sparse.get_put_same {d : Nat → α} {k : Nat} {v : α} :
    ∀ {lo : Nat} {t : List (Nat × α)}, Sparse.wfFrom d lo t = true → Sparse.get (d k) k (Sparse.put (d k) k v t) = v
  | lo, [], _ => by
    unfold Sparse.put
    split <;> simp_all [Sparse.get]
  | lo, (a, w) :: r, h => by
    simp only [Sparse.wfFrom, Bool.and_eq_true, decide_eq_true_eq] at h
    unfold Sparse.put
    split
    · have : k ≠ a := by omega
      split <;> simp_all [Sparse.get]
    · split
      · subst_vars
        split
        · rw [Sparse.get_below (lo := a + 1) (by omega) h.2]; simp_all
        · simp [Sparse.get]
      · have h1 : ¬ k < a := ‹_›
        have h2 : ¬ k = a := ‹_›
        simp [Sparse.get, h1, h2, Sparse.get_put_same h.2]

/-- A write leaves the read of every other key as it was. -/
theorem Sparse.get_put_other {d : Nat → α} {k j : Nat} {v : α} (hne : j ≠ k) :
    ∀ {lo : Nat} {t : List (Nat × α)}, Sparse.wfFrom d lo t = true →
      Sparse.get (d j) j (Sparse.put (d k) k v t) = Sparse.get (d j) j t
  | lo, [], _ => by
    unfold Sparse.put
    split
    · rfl
    · simp [Sparse.get, hne]
  | lo, (a, w) :: r, h => by
    simp only [Sparse.wfFrom, Bool.and_eq_true, decide_eq_true_eq] at h
    unfold Sparse.put
    split
    · split
      · rfl
      · by_cases hja : j = a
        · subst hja
          simp [Sparse.get, show ¬ j = k from hne, show ¬ j < k by omega]
        · by_cases hjk : j < k
          · simp [Sparse.get, hne, hja, hjk, show j < a by omega]
          · simp [Sparse.get, hne, hja, hjk]
    · split
      · subst_vars
        split
        · simp only [Sparse.get, hne, if_false]
          split
          · exact Sparse.get_below (by omega) h.2
          · rfl
        · simp [Sparse.get, hne]
      · by_cases hja : j = a
        · simp [Sparse.get, hja]
        · by_cases hlt : j < a
          · simp [Sparse.get, hja, hlt]
          · simp [Sparse.get, hja, hlt, Sparse.get_put_other hne h.2]

end Sys2Proof.Machine
end

