-- ==== Sys2Proof/Laws/Keeps.lean ====
section
/-! SUPPORT. What every operation keeps: the queue, the canonical form of the register file and of bulk memory, the bound of the
staging FIFO (R54), and the count of free values drawn, which never falls. One relation, so that one lemma per operation says it. -/

namespace Sys2Proof.Machine


/-- What no operation breaks between a state `z` and a later state `t`, short of a restart. -/
structure Keeps (z t : State) : Prop where
  pending : t.pending = z.pending
  regs : regsWf z.regs = true → regsWf t.regs = true
  mem : memWf z.mem = true → memWf t.mem = true
  fifo : z.link.fifo.length ≤ 256 → t.link.fifo.length ≤ 256
  free : z.clk.free ≤ t.clk.free
  now : z.clk.now ≤ t.clk.now

/-- What no operation changes but those that begin a bus cycle, start or leave the bus, or switch the module: the cycle tag, the
placing of the bus cycles in cell time, and whether the module runs. -/
structure InCycle (z t : State) : Prop extends Keeps z t where
  tag : t.clk.tag = z.clk.tag
  started : t.clk.started = z.clk.started
  running : t.clk.running = z.clk.running
  ts : t.clk.ts = z.clk.ts
  on : t.clk.on = z.clk.on

variable {z s t : State}

theorem Keeps.refl : Keeps z z := ⟨rfl, id, id, id, le_rfl, le_rfl⟩

theorem Keeps.trans {u : State} (h : Keeps z s) (g : Keeps s u) : Keeps z u :=
  ⟨g.pending.trans h.pending, g.regs ∘ h.regs, g.mem ∘ h.mem, g.fifo ∘ h.fifo, h.free.trans g.free, h.now.trans g.now⟩

theorem InCycle.refl : InCycle z z := ⟨Keeps.refl, rfl, rfl, rfl, rfl, rfl⟩

theorem InCycle.trans {u : State} (h : InCycle z s) (g : InCycle s u) : InCycle z u :=
  ⟨h.toKeeps.trans g.toKeeps, g.tag.trans h.tag, g.started.trans h.started, g.running.trans h.running, g.ts.trans h.ts,
    g.on.trans h.on⟩

/-- An update that leaves registers, memory, queue, FIFO, cell time, tag and free count alone. -/
theorem InCycle.upd {c : Clock} {l : HostLink} 
    {f3 f4 f5 f8 f9 f10 f11 f12 f13 f14 f15 f16 f17 f18 f19 f20 f21 f22 f23 f24 f25 f26 f27 f28 f29 f30 f31 f32 f33} (h : InCycle z s) (hc : c = { s.clk with
      rho := c.rho, refHub := c.refHub, alive := c.alive, reported := c.reported, single := c.single, taken := c.taken }) (hl : l.fifo = s.link.fifo) :
    InCycle z ⟨c, s.regs, f3, f4, f5, s.mem, l, f8, f9, f10, f11, f12, f13, f14, f15, f16, f17, f18, f19, f20, f21, f22, f23, f24, f25,
      f26, f27, f28, f29, f30, f31, f32, f33, s.pending⟩ := by
  rw [hc]
  exact ⟨⟨h.pending, h.regs, h.mem, fun k => by simpa [hl] using h.fifo k, h.free, h.now⟩, h.tag, h.started, h.running, h.ts, h.on⟩

/-- The same for an update of the queue's and the tables' keeping alone. -/
theorem Keeps.upd {c : Clock} {l : HostLink} 
    {f3 f4 f5 f8 f9 f10 f11 f12 f13 f14 f15 f16 f17 f18 f19 f20 f21 f22 f23 f24 f25 f26 f27 f28 f29 f30 f31 f32 f33} (h : Keeps z s) (hc : c.free = s.clk.free ∧ c.now = s.clk.now) (hl : l.fifo = s.link.fifo) :
    Keeps z ⟨c, s.regs, f3, f4, f5, s.mem, l, f8, f9, f10, f11, f12, f13, f14, f15, f16, f17, f18, f19, f20, f21, f22, f23, f24, f25,
      f26, f27, f28, f29, f30, f31, f32, f33, s.pending⟩ :=
  ⟨h.pending, h.regs, h.mem, fun k => by simpa [hl] using h.fifo k, by simpa [hc.1] using h.free, by simpa [hc.2] using h.now⟩

theorem InCycle.ite {c : Prop} [Decidable c] (h : InCycle z s) (g : InCycle z t) : InCycle z (if c then s else t) := by
  split <;> assumption

theorem Keeps.ite {c : Prop} [Decidable c] (h : Keeps z s) (g : Keeps z t) : Keeps z (if c then s else t) := by
  split <;> assumption

theorem forEach_inCycle {α : Type} {f : α → State → State} {l : List α} (hf : ∀ a s, InCycle z s → InCycle z (f a s))
    (h : InCycle z s) : InCycle z (forEach l f s) := by
  unfold forEach
  induction l generalizing s with
  | nil => exact h
  | cons a l ih => exact ih (hf a s h)

theorem forEach_keeps {α : Type} {f : α → State → State} {l : List α} (hf : ∀ a s, Keeps z s → Keeps z (f a s))
    (h : Keeps z s) : Keeps z (forEach l f s) := by
  unfold forEach
  induction l generalizing s with
  | nil => exact h
  | cons a l ih => exact ih (hf a s h)

theorem setReg_inCycle {p : Pg} {i off : Nat} {v : Word} (h : InCycle z s) : InCycle z (setReg p i off v s) :=
  ⟨⟨h.pending, fun k => Sparse.wf_put (h.regs k), h.mem, h.fifo, h.free, h.now⟩, h.tag, h.started, h.running, h.ts, h.on⟩

theorem setByte_inCycle {a : Nat} {b : Byte} (h : InCycle z s) : InCycle z (setByte a b s) :=
  ⟨⟨h.pending, h.regs, fun k => Sparse.wf_put (d := fun _ => (0 : Byte)) (h.mem k), h.fifo, h.free, h.now⟩, h.tag, h.started,
    h.running, h.ts, h.on⟩

theorem drawFree_inCycle (h : InCycle z s) : InCycle z (drawFree s).2 :=
  ⟨⟨h.pending, h.regs, h.mem, h.fifo, Nat.le_succ_of_le h.free, h.now⟩, h.tag, h.started, h.running, h.ts, h.on⟩

theorem setBytes_inCycle {a : Nat} {l : List Byte} (h : InCycle z s) : InCycle z (setBytes a l s) := by
  induction l generalizing a s with
  | nil => exact h
  | cons b r ih => exact ih (setByte_inCycle h)

theorem doIf_inCycle {c : Bool} {f : State → State} (hf : ∀ s, InCycle z s → InCycle z (f s)) (h : InCycle z s) :
    InCycle z (doIf c f s) := by
  unfold doIf; split
  · exact hf s h
  · exact h

theorem doIf_keeps {c : Bool} {f : State → State} (hf : ∀ s, Keeps z s → Keeps z (f s)) (h : Keeps z s) : Keeps z (doIf c f s) := by
  unfold doIf; split
  · exact hf s h
  · exact h

theorem atPort_inCycle {q : Port} {f : State → State} (hf : ∀ s, InCycle z s → InCycle z (f s)) (h : InCycle z s) :
    InCycle z (atPort q f s) := by
  unfold atPort; split
  · exact hf s h
  · exact h

end Sys2Proof.Machine
end

