-- ==== Sys2Proof/Laws/InCycleOps.lean ====
section
/-! SUPPORT. What the operations of Machine/Ops.lean keep. -/

namespace Sys2Proof.Machine

variable {z s : State}

set_option linter.unusedTactic false
set_option linter.unreachableTactic false

theorem setFld_inCycle (h : InCycle z s) : InCycle z (setFld x1 x2 x3 x4 x5 x6 s) := by
  unfold setFld
  try dsimp only
  repeat' first
      | (intro _) | (with_reducible assumption) | (with_reducible apply setReg_inCycle)
      | (with_reducible exact InCycle.upd (by assumption) rfl rfl) | (with_reducible apply InCycle.ite)
      | (with_reducible refine InCycle.upd ?_ rfl rfl <;> first
          | (with_reducible apply setReg_inCycle))
      | split

theorem setFlag_inCycle (h : InCycle z s) : InCycle z (setFlag x1 x2 x3 x4 x5 s) := by
  unfold setFlag
  try dsimp only
  repeat' first
      | (intro _) | (with_reducible assumption) | (with_reducible apply setFld_inCycle)
      | (with_reducible exact InCycle.upd (by assumption) rfl rfl) | (with_reducible apply InCycle.ite)
      | (with_reducible refine InCycle.upd ?_ rfl rfl <;> first
          | (with_reducible apply setFld_inCycle))
      | split

theorem exchanged_inCycle (h : InCycle z s) : InCycle z (exchanged s) := by
  unfold exchanged
  try dsimp only
  repeat' first
      | (intro _) | (with_reducible assumption) | (with_reducible exact InCycle.upd (by assumption) rfl rfl)
      | (with_reducible apply InCycle.ite)
      | split

theorem modCart_inCycle (h : InCycle z s) : InCycle z (modCart x1 x2 s) := by
  unfold modCart
  try dsimp only
  repeat' first
      | (intro _) | (with_reducible assumption) | (with_reducible exact InCycle.upd (by assumption) rfl rfl)
      | (with_reducible apply InCycle.ite)
      | split

theorem sendVector_inCycle (h : InCycle z s) : InCycle z (sendVector x1 x2 s) := by
  unfold sendVector
  try dsimp only
  repeat' first
      | (intro _) | (with_reducible assumption) | (with_reducible exact InCycle.upd (by assumption) rfl rfl)
      | (with_reducible apply InCycle.ite)
      | split

theorem sendBoth_inCycle (h : InCycle z s) : InCycle z (sendBoth x1 s) := by
  unfold sendBoth
  try dsimp only
  repeat' first
      | (intro _) | (with_reducible assumption) | (with_reducible apply sendVector_inCycle)
      | (with_reducible exact InCycle.upd (by assumption) rfl rfl) | (with_reducible apply InCycle.ite)
      | (with_reducible refine InCycle.upd ?_ rfl rfl <;> first
          | (with_reducible apply sendVector_inCycle))
      | split

theorem withRise_inCycle {p : Pg} {i : Nat} {f : State → State} (hf : ∀ s, InCycle z s → InCycle z (f s)) (h : InCycle z s) :
    InCycle z (withRise p i f s) := by
  unfold withRise
  dsimp only
  split
  · exact sendBoth_inCycle (hf s h)
  · exact hf s h

theorem irqMask_inCycle (h : InCycle z s) : InCycle z (irqMask x1 x2 x3 s) := by
  unfold irqMask
  try dsimp only
  repeat' first
      | (intro _) | (with_reducible assumption) | (with_reducible apply withRise_inCycle)
      | (with_reducible apply setReg_inCycle) | (with_reducible exact InCycle.upd (by assumption) rfl rfl)
      | (with_reducible apply InCycle.ite)
      | (with_reducible refine InCycle.upd ?_ rfl rfl <;> first
          | (with_reducible apply withRise_inCycle) | (with_reducible apply setReg_inCycle))
      | split

theorem irq_inCycle (h : InCycle z s) : InCycle z (irq x1 x2 x3 s) := by
  unfold irq
  try dsimp only
  repeat' first
      | (intro _) | (with_reducible assumption) | (with_reducible apply irqMask_inCycle)
      | (with_reducible exact InCycle.upd (by assumption) rfl rfl) | (with_reducible apply InCycle.ite)
      | (with_reducible refine InCycle.upd ?_ rfl rfl <;> first
          | (with_reducible apply irqMask_inCycle))
      | split

theorem irqIf_inCycle (h : InCycle z s) : InCycle z (irqIf x1 x2 x3 x4 s) := by
  unfold irqIf
  try dsimp only
  repeat' first
      | (intro _) | (with_reducible assumption) | (with_reducible apply irq_inCycle)
      | (with_reducible exact InCycle.upd (by assumption) rfl rfl) | (with_reducible apply InCycle.ite)
      | (with_reducible refine InCycle.upd ?_ rfl rfl <;> first
          | (with_reducible apply irq_inCycle))
      | split

theorem recordErr_inCycle (h : InCycle z s) : InCycle z (recordErr x1 x2 x3 s) := by
  unfold recordErr
  try dsimp only
  repeat' first
      | (intro _) | (with_reducible assumption) | (with_reducible apply irq_inCycle) | (with_reducible apply setReg_inCycle)
      | (with_reducible exact InCycle.upd (by assumption) rfl rfl) | (with_reducible apply InCycle.ite)
      | (with_reducible refine InCycle.upd ?_ rfl rfl <;> first
          | (with_reducible apply irq_inCycle) | (with_reducible apply setReg_inCycle))
      | split

theorem wrapped_inCycle (h : InCycle z s) : InCycle z (wrapped x1 x2 x3 s) := by
  unfold wrapped
  try dsimp only
  repeat' first
      | (intro _) | (with_reducible assumption) | (with_reducible apply irq_inCycle) | (with_reducible apply setFlag_inCycle)
      | (with_reducible exact InCycle.upd (by assumption) rfl rfl) | (with_reducible apply InCycle.ite)
      | (with_reducible refine InCycle.upd ?_ rfl rfl <;> first
          | (with_reducible apply irq_inCycle) | (with_reducible apply setFlag_inCycle))
      | split

theorem countBy_inCycle (h : InCycle z s) : InCycle z (countBy x1 x2 x3 x4 s) := by
  unfold countBy
  try dsimp only
  repeat' first
      | (intro _) | (with_reducible assumption) | (with_reducible apply setReg_inCycle)
      | (with_reducible apply wrapped_inCycle) | (with_reducible exact InCycle.upd (by assumption) rfl rfl)
      | (with_reducible apply InCycle.ite)
      | (with_reducible refine InCycle.upd ?_ rfl rfl <;> first
          | (with_reducible apply setReg_inCycle) | (with_reducible apply wrapped_inCycle))
      | split

theorem countHub_inCycle (h : InCycle z s) : InCycle z (countHub x1 x2 x3 x4 s) := by
  unfold countHub
  try dsimp only
  repeat' first
      | (intro _) | (with_reducible assumption) | (with_reducible apply wrapped_inCycle)
      | (with_reducible exact InCycle.upd (by assumption) rfl rfl) | (with_reducible apply InCycle.ite)
      | (with_reducible refine InCycle.upd ?_ rfl rfl <;> first
          | (with_reducible apply wrapped_inCycle))
      | split

theorem countPriv_inCycle (h : InCycle z s) : InCycle z (countPriv x1 x2 x3 s) := by
  unfold countPriv
  try dsimp only
  repeat' first
      | (intro _) | (with_reducible assumption) | (with_reducible apply wrapped_inCycle)
      | (with_reducible exact InCycle.upd (by assumption) rfl rfl) | (with_reducible apply InCycle.ite)
      | (with_reducible refine InCycle.upd ?_ rfl rfl <;> first
          | (with_reducible apply wrapped_inCycle))
      | split

theorem count_inCycle (h : InCycle z s) : InCycle z (count x1 x2 x3 s) := by
  unfold count
  try dsimp only
  repeat' first
      | (intro _) | (with_reducible assumption) | (with_reducible apply countBy_inCycle)
      | (with_reducible exact InCycle.upd (by assumption) rfl rfl) | (with_reducible apply InCycle.ite)
      | (with_reducible refine InCycle.upd ?_ rfl rfl <;> first
          | (with_reducible apply countBy_inCycle))
      | split

theorem countIf_inCycle (h : InCycle z s) : InCycle z (countIf x1 x2 x3 x4 s) := by
  unfold countIf
  try dsimp only
  repeat' first
      | (intro _) | (with_reducible assumption) | (with_reducible apply count_inCycle)
      | (with_reducible exact InCycle.upd (by assumption) rfl rfl) | (with_reducible apply InCycle.ite)
      | (with_reducible refine InCycle.upd ?_ rfl rfl <;> first
          | (with_reducible apply count_inCycle))
      | split

theorem occupancy_inCycle (h : InCycle z s) : InCycle z (occupancy x1 s) := by
  unfold occupancy
  try dsimp only
  repeat' first
      | (intro _) | (with_reducible assumption) | (with_reducible apply countPriv_inCycle)
      | (with_reducible exact InCycle.upd (by assumption) rfl rfl) | (with_reducible apply InCycle.ite)
      | (with_reducible refine InCycle.upd ?_ rfl rfl <;> first
          | (with_reducible apply countPriv_inCycle))
      | split

theorem advance_inCycle (h : InCycle z s) : InCycle z (advance x1 s) :=
  occupancy_inCycle ⟨⟨h.pending, h.regs, h.mem, h.fifo, h.free, Nat.le_add_right_of_le h.now⟩, h.tag, h.started, h.running, h.ts, h.on⟩

theorem advanceTo_inCycle (h : InCycle z s) : InCycle z (advanceTo x1 s) :=
  occupancy_inCycle
    ⟨⟨h.pending, h.regs, h.mem, h.fifo, h.free, h.now.trans (Nat.le_max_left _ _)⟩, h.tag, h.started, h.running, h.ts, h.on⟩

theorem chg_inCycle (h : InCycle z s) : InCycle z (chg x1 x2 s) := by
  unfold chg
  try dsimp only
  repeat' first
      | (intro _) | (with_reducible assumption) | (with_reducible apply setReg_inCycle)
      | (with_reducible exact InCycle.upd (by assumption) rfl rfl) | (with_reducible apply InCycle.ite)
      | (with_reducible refine InCycle.upd ?_ rfl rfl <;> first
          | (with_reducible apply setReg_inCycle))
      | split

theorem staged_inCycle {p : Pg} {i : Nat} {f : State → State} (hf : ∀ s, InCycle z s → InCycle z (f s)) (h : InCycle z s) :
    InCycle z (staged p i f s) := by
  unfold staged
  split
  · exact chg_inCycle (hf s h)
  · exact hf s h

theorem haLate_inCycle (h : InCycle z s) : InCycle z (haLate x1 x2 x3 s) := by
  unfold haLate
  try dsimp only
  repeat' first
      | (intro _) | (with_reducible assumption) | (with_reducible apply count_inCycle) | (with_reducible apply irq_inCycle)
      | (with_reducible exact InCycle.upd (by assumption) rfl rfl) | (with_reducible apply InCycle.ite)
      | (with_reducible refine InCycle.upd ?_ rfl rfl <;> first
          | (with_reducible apply count_inCycle) | (with_reducible apply irq_inCycle))
      | split

theorem setReady_inCycle (h : InCycle z s) : InCycle z (setReady x1 x2 x3 s) := by
  unfold setReady
  try dsimp only
  repeat' first
      | (intro _) | (with_reducible assumption) | (with_reducible apply irqIf_inCycle) | (with_reducible apply setReg_inCycle)
      | (with_reducible exact InCycle.upd (by assumption) rfl rfl) | (with_reducible apply InCycle.ite)
      | (with_reducible refine InCycle.upd ?_ rfl rfl <;> first
          | (with_reducible apply irqIf_inCycle) | (with_reducible apply setReg_inCycle))
      | split

theorem resetRegs_inCycle (h : InCycle z s) : InCycle z (resetRegs x1 x2 x3 s) := by
  unfold resetRegs
  try dsimp only
  repeat' first
      | (intro _) | (with_reducible assumption) | (with_reducible apply forEach_inCycle)
      | (with_reducible apply setReg_inCycle) | (with_reducible exact InCycle.upd (by assumption) rfl rfl)
      | (with_reducible apply InCycle.ite)
      | (with_reducible refine InCycle.upd ?_ rfl rfl <;> first
          | (with_reducible apply forEach_inCycle) | (with_reducible apply setReg_inCycle))
      | split

theorem returnRead_inCycle (h : InCycle z s) : InCycle z (returnRead x1 x2 s) := by
  unfold returnRead
  try dsimp only
  repeat' first
      | (intro _) | (with_reducible assumption) | (with_reducible exact InCycle.upd (by assumption) rfl rfl)
      | (with_reducible apply InCycle.ite)
      | split

end Sys2Proof.Machine
end

