-- ==== Sys2Proof/Laws/InCycleTimeBase.lean ====
section
/-! SUPPORT. What the operations of Machine/TimeBase.lean keep. -/

namespace Sys2Proof.Machine

variable {z s : State}

set_option linter.unusedTactic false
set_option linter.unreachableTactic false

theorem modServo_inCycle (h : InCycle z s) : InCycle z (modServo x1 s) := by
  unfold modServo
  try dsimp only
  repeat' first
      | (intro _) | (with_reducible assumption) | (with_reducible exact InCycle.upd (by assumption) rfl rfl)
      | (with_reducible apply InCycle.ite)
      | split

theorem enterHoldover_inCycle (h : InCycle z s) : InCycle z (enterHoldover s) := by
  unfold enterHoldover
  try dsimp only
  repeat' first
      | (intro _) | (with_reducible assumption) | (with_reducible apply irq_inCycle) | (with_reducible apply modServo_inCycle)
      | (with_reducible exact InCycle.upd (by assumption) rfl rfl) | (with_reducible apply InCycle.ite)
      | (with_reducible refine InCycle.upd ?_ rfl rfl <;> first
          | (with_reducible apply irq_inCycle) | (with_reducible apply modServo_inCycle))
      | split

theorem sourceLost_inCycle (h : InCycle z s) : InCycle z (sourceLost s) := by
  unfold sourceLost
  try dsimp only
  repeat' first
      | (intro _) | (with_reducible assumption) | (with_reducible apply enterHoldover_inCycle)
      | (with_reducible exact InCycle.upd (by assumption) rfl rfl) | (with_reducible apply InCycle.ite)
      | (with_reducible refine InCycle.upd ?_ rfl rfl <;> first
          | (with_reducible apply enterHoldover_inCycle))
      | split

theorem acceptSample_inCycle (h : InCycle z s) : InCycle z (acceptSample x1 s) := by
  unfold acceptSample
  try dsimp only
  repeat' first
      | (intro _) | (with_reducible assumption) | (with_reducible apply modServo_inCycle)
      | (with_reducible apply count_inCycle) | (with_reducible apply irqIf_inCycle)
      | (with_reducible exact InCycle.upd (by assumption) rfl rfl) | (with_reducible apply InCycle.ite)
      | (with_reducible refine InCycle.upd ?_ rfl rfl <;> first
          | (with_reducible apply modServo_inCycle) | (with_reducible apply count_inCycle)
          | (with_reducible apply irqIf_inCycle))
      | split

theorem refuseSample_inCycle (h : InCycle z s) : InCycle z (refuseSample x1 s) := by
  unfold refuseSample
  try dsimp only
  repeat' first
      | (intro _) | (with_reducible assumption) | (with_reducible apply modServo_inCycle)
      | (with_reducible apply count_inCycle) | (with_reducible apply enterHoldover_inCycle)
      | (with_reducible apply irqIf_inCycle) | (with_reducible apply irq_inCycle)
      | (with_reducible exact InCycle.upd (by assumption) rfl rfl) | (with_reducible apply InCycle.ite)
      | (with_reducible refine InCycle.upd ?_ rfl rfl <;> first
          | (with_reducible apply modServo_inCycle) | (with_reducible apply count_inCycle)
          | (with_reducible apply enterHoldover_inCycle) | (with_reducible apply irqIf_inCycle)
          | (with_reducible apply irq_inCycle))
      | split

theorem alignSample_inCycle (h : InCycle z s) : InCycle z (alignSample x1 s) := by
  unfold alignSample
  try dsimp only
  repeat' first
      | (intro _) | (with_reducible assumption) | (with_reducible apply modServo_inCycle)
      | (with_reducible apply count_inCycle) | (with_reducible exact InCycle.upd (by assumption) rfl rfl)
      | (with_reducible apply InCycle.ite)
      | (with_reducible refine InCycle.upd ?_ rfl rfl <;> first
          | (with_reducible apply modServo_inCycle) | (with_reducible apply count_inCycle))
      | split

theorem servoSample_inCycle (h : InCycle z s) : InCycle z (servoSample x1 s) := by
  unfold servoSample
  try dsimp only
  repeat' first
      | (intro _) | (with_reducible assumption) | (with_reducible apply count_inCycle)
      | (with_reducible apply modServo_inCycle) | (with_reducible apply alignSample_inCycle)
      | (with_reducible apply refuseSample_inCycle) | (with_reducible apply acceptSample_inCycle)
      | (with_reducible exact InCycle.upd (by assumption) rfl rfl) | (with_reducible apply InCycle.ite)
      | (with_reducible refine InCycle.upd ?_ rfl rfl <;> first
          | (with_reducible apply count_inCycle) | (with_reducible apply modServo_inCycle)
          | (with_reducible apply alignSample_inCycle) | (with_reducible apply refuseSample_inCycle)
          | (with_reducible apply acceptSample_inCycle))
      | split

theorem startQuarantine_inCycle (h : InCycle z s) : InCycle z (startQuarantine s) := by
  unfold startQuarantine
  try dsimp only
  repeat' first
      | (intro _) | (with_reducible assumption) | (with_reducible apply modServo_inCycle)
      | (with_reducible apply enterHoldover_inCycle) | (with_reducible exact InCycle.upd (by assumption) rfl rfl)
      | (with_reducible apply InCycle.ite)
      | (with_reducible refine InCycle.upd ?_ rfl rfl <;> first
          | (with_reducible apply modServo_inCycle) | (with_reducible apply enterHoldover_inCycle))
      | split

theorem acceptStep_inCycle (h : InCycle z s) : InCycle z (acceptStep s) := by
  unfold acceptStep
  try dsimp only
  repeat' first
      | (intro _) | (with_reducible assumption) | (with_reducible apply modServo_inCycle)
      | (with_reducible apply recordErr_inCycle) | (with_reducible exact InCycle.upd (by assumption) rfl rfl)
      | (with_reducible apply InCycle.ite)
      | (with_reducible refine InCycle.upd ?_ rfl rfl <;> first
          | (with_reducible apply modServo_inCycle) | (with_reducible apply recordErr_inCycle))
      | split

theorem slewRate_inCycle (h : InCycle z s) : InCycle z (slewRate s) := by
  unfold slewRate
  try dsimp only
  repeat' first
      | (intro _) | (with_reducible assumption) | (with_reducible apply modServo_inCycle)
      | (with_reducible apply countIf_inCycle) | (with_reducible exact InCycle.upd (by assumption) rfl rfl)
      | (with_reducible apply InCycle.ite)
      | (with_reducible refine InCycle.upd ?_ rfl rfl <;> first
          | (with_reducible apply modServo_inCycle) | (with_reducible apply countIf_inCycle))
      | split

theorem servoSync_inCycle (h : InCycle z s) : InCycle z (servoSync s) := by
  unfold servoSync
  try dsimp only
  repeat' first
      | (intro _) | (with_reducible assumption) | (with_reducible apply modServo_inCycle)
      | (with_reducible apply count_inCycle) | (with_reducible apply slewRate_inCycle)
      | (with_reducible apply acceptStep_inCycle) | (with_reducible exact InCycle.upd (by assumption) rfl rfl)
      | (with_reducible apply InCycle.ite)
      | (with_reducible refine InCycle.upd ?_ rfl rfl <;> first
          | (with_reducible apply modServo_inCycle) | (with_reducible apply count_inCycle)
          | (with_reducible apply slewRate_inCycle) | (with_reducible apply acceptStep_inCycle))
      | split

theorem resetServo_inCycle (h : InCycle z s) : InCycle z (resetServo s) := by
  unfold resetServo
  try dsimp only
  repeat' first
      | (intro _) | (with_reducible assumption) | (with_reducible exact InCycle.upd (by assumption) rfl rfl)
      | (with_reducible apply InCycle.ite)
      | split

theorem modLine_inCycle (h : InCycle z s) : InCycle z (modLine x1 s) := by
  unfold modLine
  try dsimp only
  repeat' first
      | (intro _) | (with_reducible assumption) | (with_reducible exact InCycle.upd (by assumption) rfl rfl)
      | (with_reducible apply InCycle.ite)
      | split

theorem lineEvent_inCycle (h : InCycle z s) : InCycle z (lineEvent x1 s) := by
  unfold lineEvent
  try dsimp only
  repeat' first
      | (intro _) | (with_reducible assumption) | (with_reducible apply modLine_inCycle)
      | (with_reducible exact InCycle.upd (by assumption) rfl rfl) | (with_reducible apply InCycle.ite)
      | (with_reducible refine InCycle.upd ?_ rfl rfl <;> first
          | (with_reducible apply modLine_inCycle))
      | split

theorem evalLine_inCycle (h : InCycle z s) : InCycle z (evalLine s) := by
  unfold evalLine
  try dsimp only
  repeat' first
      | (intro _) | (with_reducible assumption) | (with_reducible apply modLine_inCycle) | (with_reducible apply irq_inCycle)
      | (with_reducible apply count_inCycle) | (with_reducible exact InCycle.upd (by assumption) rfl rfl)
      | (with_reducible apply InCycle.ite)
      | (with_reducible refine InCycle.upd ?_ rfl rfl <;> first
          | (with_reducible apply modLine_inCycle) | (with_reducible apply irq_inCycle) | (with_reducible apply count_inCycle))
      | split

theorem lineSourceFault_inCycle (h : InCycle z s) : InCycle z (lineSourceFault s) := by
  unfold lineSourceFault
  try dsimp only
  repeat' first
      | (intro _) | (with_reducible assumption) | (with_reducible apply irq_inCycle) | (with_reducible apply modLine_inCycle)
      | (with_reducible exact InCycle.upd (by assumption) rfl rfl) | (with_reducible apply InCycle.ite)
      | (with_reducible refine InCycle.upd ?_ rfl rfl <;> first
          | (with_reducible apply irq_inCycle) | (with_reducible apply modLine_inCycle))
      | split

theorem lineLoadAct_inCycle (h : InCycle z s) : InCycle z (lineLoadAct s) := by
  unfold lineLoadAct
  try dsimp only
  repeat' first
      | (intro _) | (with_reducible assumption) | (with_reducible apply lineEvent_inCycle)
      | (with_reducible apply modLine_inCycle) | (with_reducible exact InCycle.upd (by assumption) rfl rfl)
      | (with_reducible apply InCycle.ite)
      | (with_reducible refine InCycle.upd ?_ rfl rfl <;> first
          | (with_reducible apply lineEvent_inCycle) | (with_reducible apply modLine_inCycle))
      | split

theorem lineSample_inCycle (h : InCycle z s) : InCycle z (lineSample x1 s) := by
  unfold lineSample
  try dsimp only
  repeat' first
      | (intro _) | (with_reducible assumption) | (with_reducible apply evalLine_inCycle)
      | (with_reducible apply countIf_inCycle) | (with_reducible apply modLine_inCycle)
      | (with_reducible exact InCycle.upd (by assumption) rfl rfl) | (with_reducible apply InCycle.ite)
      | (with_reducible refine InCycle.upd ?_ rfl rfl <;> first
          | (with_reducible apply evalLine_inCycle) | (with_reducible apply countIf_inCycle)
          | (with_reducible apply modLine_inCycle))
      | split

theorem resetLine_inCycle (h : InCycle z s) : InCycle z (resetLine s) := by
  unfold resetLine
  try dsimp only
  repeat' first
      | (intro _) | (with_reducible assumption) | (with_reducible exact InCycle.upd (by assumption) rfl rfl)
      | (with_reducible apply InCycle.ite)
      | split

theorem writeStepAck_inCycle (h : InCycle z s) : InCycle z (writeStepAck x1 s) := by
  unfold writeStepAck
  try dsimp only
  repeat' first
      | (intro _) | (with_reducible assumption) | (with_reducible apply modServo_inCycle)
      | (with_reducible exact InCycle.upd (by assumption) rfl rfl) | (with_reducible apply InCycle.ite)
      | (with_reducible refine InCycle.upd ?_ rfl rfl <;> first
          | (with_reducible apply modServo_inCycle))
      | split

theorem writeHaOfs_inCycle (h : InCycle z s) : InCycle z (writeHaOfs x1 s) := by
  unfold writeHaOfs
  try dsimp only
  repeat' first
      | (intro _) | (with_reducible assumption) | (with_reducible apply servoSample_inCycle)
      | (with_reducible apply modServo_inCycle) | (with_reducible exact InCycle.upd (by assumption) rfl rfl)
      | (with_reducible apply InCycle.ite)
      | (with_reducible refine InCycle.upd ?_ rfl rfl <;> first
          | (with_reducible apply servoSample_inCycle) | (with_reducible apply modServo_inCycle))
      | split

theorem writeHaRate_inCycle (h : InCycle z s) : InCycle z (writeHaRate x1 s) := by
  unfold writeHaRate
  try dsimp only
  repeat' first
      | (intro _) | (with_reducible assumption) | (with_reducible apply chg_inCycle) | (with_reducible apply setReg_inCycle)
      | (with_reducible apply recordErr_inCycle) | (with_reducible exact InCycle.upd (by assumption) rfl rfl)
      | (with_reducible apply InCycle.ite)
      | (with_reducible refine InCycle.upd ?_ rfl rfl <;> first
          | (with_reducible apply chg_inCycle) | (with_reducible apply setReg_inCycle)
          | (with_reducible apply recordErr_inCycle))
      | split

theorem writeLineLoad_inCycle (h : InCycle z s) : InCycle z (writeLineLoad s) := by
  unfold writeLineLoad
  try dsimp only
  repeat' first
      | (intro _) | (with_reducible assumption) | (with_reducible apply recordErr_inCycle)
      | (with_reducible apply modLine_inCycle) | (with_reducible exact InCycle.upd (by assumption) rfl rfl)
      | (with_reducible apply InCycle.ite)
      | (with_reducible refine InCycle.upd ?_ rfl rfl <;> first
          | (with_reducible apply recordErr_inCycle) | (with_reducible apply modLine_inCycle))
      | split

theorem lineStarted_inCycle (h : InCycle z s) : InCycle z (lineStarted s) := by
  unfold lineStarted
  try dsimp only
  repeat' first
      | (intro _) | (with_reducible assumption) | (with_reducible apply modLine_inCycle)
      | (with_reducible apply lineEvent_inCycle) | (with_reducible exact InCycle.upd (by assumption) rfl rfl)
      | (with_reducible apply InCycle.ite)
      | (with_reducible refine InCycle.upd ?_ rfl rfl <;> first
          | (with_reducible apply modLine_inCycle) | (with_reducible apply lineEvent_inCycle))
      | split

theorem writeLineCfg_inCycle (h : InCycle z s) : InCycle z (writeLineCfg x1 s) := by
  unfold writeLineCfg
  try dsimp only
  repeat' first
      | (intro _) | (with_reducible assumption) | (with_reducible apply modLine_inCycle) | (with_reducible apply chg_inCycle)
      | (with_reducible apply setReg_inCycle) | (with_reducible apply lineStarted_inCycle)
      | (with_reducible apply recordErr_inCycle) | (with_reducible apply writeLineLoad_inCycle)
      | (with_reducible exact InCycle.upd (by assumption) rfl rfl) | (with_reducible apply InCycle.ite)
      | (with_reducible refine InCycle.upd ?_ rfl rfl <;> first
          | (with_reducible apply modLine_inCycle) | (with_reducible apply chg_inCycle) | (with_reducible apply setReg_inCycle)
          | (with_reducible apply lineStarted_inCycle) | (with_reducible apply recordErr_inCycle)
          | (with_reducible apply writeLineLoad_inCycle))
      | split

theorem haWindowExpiry_inCycle (h : InCycle z s) : InCycle z (haWindowExpiry s) := by
  unfold haWindowExpiry
  try dsimp only
  repeat' first
      | (intro _) | (with_reducible assumption) | (with_reducible apply haLate_inCycle)
      | (with_reducible apply sourceLost_inCycle) | (with_reducible apply modServo_inCycle)
      | (with_reducible exact InCycle.upd (by assumption) rfl rfl) | (with_reducible apply InCycle.ite)
      | (with_reducible refine InCycle.upd ?_ rfl rfl <;> first
          | (with_reducible apply haLate_inCycle) | (with_reducible apply sourceLost_inCycle)
          | (with_reducible apply modServo_inCycle))
      | split

end Sys2Proof.Machine
end

