-- ==== Sys2Proof/Laws/InCycleAdc.lean ====
section
/-! SUPPORT. What the operations of Machine/Adc.lean keep. -/

namespace Sys2Proof.Machine

variable {z s : State}

set_option linter.unusedTactic false
set_option linter.unreachableTactic false

theorem modPair_inCycle (h : InCycle z s) : InCycle z (modPair x1 x2 s) := by
  unfold modPair
  try dsimp only
  repeat' first
      | (intro _) | (with_reducible assumption) | (with_reducible exact InCycle.upd (by assumption) rfl rfl)
      | (with_reducible apply InCycle.ite)
      | split

theorem modConv_inCycle (h : InCycle z s) : InCycle z (modConv x1 x2 x3 s) := by
  unfold modConv
  try dsimp only
  repeat' first
      | (intro _) | (with_reducible assumption) | (with_reducible apply modPair_inCycle)
      | (with_reducible exact InCycle.upd (by assumption) rfl rfl) | (with_reducible apply InCycle.ite)
      | (with_reducible refine InCycle.upd ?_ rfl rfl <;> first
          | (with_reducible apply modPair_inCycle))
      | split

theorem latchSequence_inCycle (h : InCycle z s) : InCycle z (latchSequence x1 s) := by
  unfold latchSequence
  try dsimp only
  repeat' first
      | (intro _) | (with_reducible assumption) | (with_reducible apply modPair_inCycle)
      | (with_reducible exact InCycle.upd (by assumption) rfl rfl) | (with_reducible apply InCycle.ite)
      | (with_reducible refine InCycle.upd ?_ rfl rfl <;> first
          | (with_reducible apply modPair_inCycle))
      | split

theorem adcTrigger_inCycle (h : InCycle z s) : InCycle z (adcTrigger x1 x2 x3 s) := by
  unfold adcTrigger
  try dsimp only
  repeat' first
      | (intro _) | (with_reducible assumption) | (with_reducible apply forEach_inCycle) | (with_reducible apply count_inCycle)
      | (with_reducible apply irq_inCycle) | (with_reducible apply modPair_inCycle)
      | (with_reducible exact InCycle.upd (by assumption) rfl rfl) | (with_reducible apply InCycle.ite)
      | (with_reducible refine InCycle.upd ?_ rfl rfl <;> first
          | (with_reducible apply forEach_inCycle) | (with_reducible apply count_inCycle) | (with_reducible apply irq_inCycle)
          | (with_reducible apply modPair_inCycle))
      | split

theorem startConv_inCycle (h : InCycle z s) : InCycle z (startConv x1 x2 x3 x4 s) := by
  unfold startConv
  try dsimp only
  repeat' first
      | (intro _) | (with_reducible assumption) | (with_reducible apply modConv_inCycle)
      | (with_reducible exact InCycle.upd (by assumption) rfl rfl) | (with_reducible apply InCycle.ite)
      | (with_reducible refine InCycle.upd ?_ rfl rfl <;> first
          | (with_reducible apply modConv_inCycle))
      | split

theorem startCal_inCycle (h : InCycle z s) : InCycle z (startCal x1 x2 s) := by
  unfold startCal
  try dsimp only
  repeat' first
      | (intro _) | (with_reducible assumption) | (with_reducible apply modConv_inCycle)
      | (with_reducible exact InCycle.upd (by assumption) rfl rfl) | (with_reducible apply InCycle.ite)
      | (with_reducible refine InCycle.upd ?_ rfl rfl <;> first
          | (with_reducible apply modConv_inCycle))
      | split

theorem conversion_inCycle (h : InCycle z s) : InCycle z (conversion x1 x2 x3 s) := by
  unfold conversion
  try dsimp only
  repeat' first
      | (intro _) | (with_reducible assumption) | (with_reducible apply startCal_inCycle)
      | (with_reducible apply startConv_inCycle) | (with_reducible apply modPair_inCycle)
      | (with_reducible apply latchSequence_inCycle) | (with_reducible exact InCycle.upd (by assumption) rfl rfl)
      | (with_reducible apply InCycle.ite)
      | (with_reducible refine InCycle.upd ?_ rfl rfl <;> first
          | (with_reducible apply startCal_inCycle) | (with_reducible apply startConv_inCycle)
          | (with_reducible apply modPair_inCycle) | (with_reducible apply latchSequence_inCycle))
      | split

theorem pushResult_inCycle (h : InCycle z s) : InCycle z (pushResult x1 x2 x3 s) := by
  unfold pushResult
  try dsimp only
  repeat' first
      | (intro _) | (with_reducible assumption) | (with_reducible apply modPair_inCycle) | (with_reducible apply count_inCycle)
      | (with_reducible apply irq_inCycle) | (with_reducible exact InCycle.upd (by assumption) rfl rfl)
      | (with_reducible apply InCycle.ite)
      | (with_reducible refine InCycle.upd ?_ rfl rfl <;> first
          | (with_reducible apply modPair_inCycle) | (with_reducible apply count_inCycle) | (with_reducible apply irq_inCycle))
      | split

theorem agreeResult_inCycle (h : InCycle z s) : InCycle z (agreeResult x1 x2 x3 x4 x5 s) := by
  unfold agreeResult
  try dsimp only
  repeat' first
      | (intro _) | (with_reducible assumption) | (with_reducible apply countIf_inCycle)
      | (with_reducible exact InCycle.upd (by assumption) rfl rfl) | (with_reducible apply InCycle.ite)
      | (with_reducible refine InCycle.upd ?_ rfl rfl <;> first
          | (with_reducible apply countIf_inCycle))
      | split

theorem regularResult_inCycle (h : InCycle z s) : InCycle z (regularResult x1 x2 x3 x4 x5 s) := by
  unfold regularResult
  try dsimp only
  repeat' first
      | (intro _) | (with_reducible assumption) | (with_reducible apply pushResult_inCycle)
      | (with_reducible apply setReg_inCycle) | (with_reducible apply count_inCycle)
      | (with_reducible exact InCycle.upd (by assumption) rfl rfl) | (with_reducible apply InCycle.ite)
      | (with_reducible refine InCycle.upd ?_ rfl rfl <;> first
          | (with_reducible apply pushResult_inCycle) | (with_reducible apply setReg_inCycle)
          | (with_reducible apply count_inCycle))
      | split

theorem average_inCycle (h : InCycle z s) : InCycle z (average x1 x2 x3 x4 x5 x6 x7 s) := by
  unfold average
  try dsimp only
  repeat' first
      | (intro _) | (with_reducible assumption) | (with_reducible apply count_inCycle) | (with_reducible apply modPair_inCycle)
      | (with_reducible apply regularResult_inCycle) | (with_reducible apply agreeResult_inCycle)
      | (with_reducible exact InCycle.upd (by assumption) rfl rfl) | (with_reducible apply InCycle.ite)
      | (with_reducible refine InCycle.upd ?_ rfl rfl <;> first
          | (with_reducible apply count_inCycle) | (with_reducible apply modPair_inCycle)
          | (with_reducible apply regularResult_inCycle) | (with_reducible apply agreeResult_inCycle))
      | split

theorem injectedResult_inCycle (h : InCycle z s) : InCycle z (injectedResult x1 x2 x3 x4 x5 s) := by
  unfold injectedResult
  try dsimp only
  repeat' first
      | (intro _) | (with_reducible assumption) | (with_reducible apply setReg_inCycle)
      | (with_reducible apply modPair_inCycle) | (with_reducible apply count_inCycle) | (with_reducible apply irq_inCycle)
      | (with_reducible exact InCycle.upd (by assumption) rfl rfl) | (with_reducible apply InCycle.ite)
      | (with_reducible refine InCycle.upd ?_ rfl rfl <;> first
          | (with_reducible apply setReg_inCycle) | (with_reducible apply modPair_inCycle)
          | (with_reducible apply count_inCycle) | (with_reducible apply irq_inCycle))
      | split

theorem conversionComplete_inCycle (h : InCycle z s) : InCycle z (conversionComplete x1 x2 x3 x4 s) := by
  unfold conversionComplete
  try dsimp only
  repeat' first
      | (intro _) | (with_reducible assumption) | (with_reducible apply modConv_inCycle)
      | (with_reducible apply countIf_inCycle) | (with_reducible apply injectedResult_inCycle)
      | (with_reducible apply agreeResult_inCycle) | (with_reducible apply pushResult_inCycle)
      | (with_reducible apply irqIf_inCycle) | (with_reducible apply modPair_inCycle)
      | (with_reducible apply regularResult_inCycle) | (with_reducible apply average_inCycle)
      | (with_reducible exact InCycle.upd (by assumption) rfl rfl) | (with_reducible apply InCycle.ite)
      | (with_reducible refine InCycle.upd ?_ rfl rfl <;> first
          | (with_reducible apply modConv_inCycle) | (with_reducible apply countIf_inCycle)
          | (with_reducible apply injectedResult_inCycle) | (with_reducible apply agreeResult_inCycle)
          | (with_reducible apply pushResult_inCycle) | (with_reducible apply irqIf_inCycle)
          | (with_reducible apply modPair_inCycle) | (with_reducible apply regularResult_inCycle)
          | (with_reducible apply average_inCycle))
      | split

theorem calibration_inCycle (h : InCycle z s) : InCycle z (calibration x1 x2 s) := by
  unfold calibration
  try dsimp only
  repeat' first
      | (intro _) | (with_reducible assumption) | (with_reducible apply modConv_inCycle)
      | (with_reducible apply startCal_inCycle) | (with_reducible exact InCycle.upd (by assumption) rfl rfl)
      | (with_reducible apply InCycle.ite)
      | (with_reducible refine InCycle.upd ?_ rfl rfl <;> first
          | (with_reducible apply modConv_inCycle) | (with_reducible apply startCal_inCycle))
      | split

theorem calibrationComplete_inCycle (h : InCycle z s) : InCycle z (calibrationComplete x1 x2 x3 s) := by
  unfold calibrationComplete
  try dsimp only
  repeat' first
      | (intro _) | (with_reducible assumption) | (with_reducible apply modConv_inCycle) | (with_reducible apply irqIf_inCycle)
      | (with_reducible apply count_inCycle) | (with_reducible apply irq_inCycle)
      | (with_reducible exact InCycle.upd (by assumption) rfl rfl) | (with_reducible apply InCycle.ite)
      | (with_reducible refine InCycle.upd ?_ rfl rfl <;> first
          | (with_reducible apply modConv_inCycle) | (with_reducible apply irqIf_inCycle)
          | (with_reducible apply count_inCycle) | (with_reducible apply irq_inCycle))
      | split

theorem writeCal_inCycle (h : InCycle z s) : InCycle z (writeCal x1 s) := by
  unfold writeCal
  try dsimp only
  repeat' first
      | (intro _) | (with_reducible assumption) | (with_reducible apply recordErr_inCycle)
      | (with_reducible apply calibration_inCycle) | (with_reducible exact InCycle.upd (by assumption) rfl rfl)
      | (with_reducible apply InCycle.ite)
      | (with_reducible refine InCycle.upd ?_ rfl rfl <;> first
          | (with_reducible apply recordErr_inCycle) | (with_reducible apply calibration_inCycle))
      | split

theorem writeAdcFlush_inCycle (h : InCycle z s) : InCycle z (writeAdcFlush x1 s) := by
  unfold writeAdcFlush
  try dsimp only
  repeat' first
      | (intro _) | (with_reducible assumption) | (with_reducible apply modPair_inCycle)
      | (with_reducible exact InCycle.upd (by assumption) rfl rfl) | (with_reducible apply InCycle.ite)
      | (with_reducible refine InCycle.upd ?_ rfl rfl <;> first
          | (with_reducible apply modPair_inCycle))
      | split

theorem writeRestart_inCycle (h : InCycle z s) : InCycle z (writeRestart x1 s) := by
  unfold writeRestart
  try dsimp only
  repeat' first
      | (intro _) | (with_reducible assumption) | (with_reducible apply modPair_inCycle)
      | (with_reducible exact InCycle.upd (by assumption) rfl rfl) | (with_reducible apply InCycle.ite)
      | (with_reducible refine InCycle.upd ?_ rfl rfl <;> first
          | (with_reducible apply modPair_inCycle))
      | split

theorem readResW0_inCycle (h : InCycle z s) : InCycle z (readResW0 x1 x2 s).2 := by
  unfold readResW0
  try dsimp only
  repeat' first
      | (intro _) | (with_reducible assumption) | (with_reducible apply modPair_inCycle)
      | (with_reducible exact InCycle.upd (by assumption) rfl rfl) | (with_reducible apply InCycle.ite)
      | (with_reducible refine InCycle.upd ?_ rfl rfl <;> first
          | (with_reducible apply modPair_inCycle))
      | split

theorem readResW1_inCycle (h : InCycle z s) : InCycle z (readResW1 x1 x2 s).2 := by
  unfold readResW1
  try dsimp only
  repeat' first
      | (intro _) | (with_reducible assumption) | (with_reducible apply modPair_inCycle)
      | (with_reducible exact InCycle.upd (by assumption) rfl rfl) | (with_reducible apply InCycle.ite)
      | (with_reducible refine InCycle.upd ?_ rfl rfl <;> first
          | (with_reducible apply modPair_inCycle))
      | split

theorem adcWritten_inCycle (h : InCycle z s) : InCycle z (adcWritten x1 x2 x3 x4 s) := by
  unfold adcWritten
  try dsimp only
  repeat' first
      | (intro _) | (with_reducible assumption) | (with_reducible apply modPair_inCycle)
      | (with_reducible exact InCycle.upd (by assumption) rfl rfl) | (with_reducible apply InCycle.ite)
      | (with_reducible refine InCycle.upd ?_ rfl rfl <;> first
          | (with_reducible apply modPair_inCycle))
      | split

theorem resetPair_inCycle (h : InCycle z s) : InCycle z (resetPair x1 s) := by
  unfold resetPair
  try dsimp only
  repeat' first
      | (intro _) | (with_reducible assumption) | (with_reducible apply modPair_inCycle)
      | (with_reducible exact InCycle.upd (by assumption) rfl rfl) | (with_reducible apply InCycle.ite)
      | (with_reducible refine InCycle.upd ?_ rfl rfl <;> first
          | (with_reducible apply modPair_inCycle))
      | split

theorem adcFeedback_inCycle (h : InCycle z s) : InCycle z (adcFeedback s) := by
  unfold adcFeedback
  try dsimp only
  repeat' first
      | (intro _) | (with_reducible assumption) | (with_reducible apply forEach_inCycle)
      | (with_reducible apply modPair_inCycle) | (with_reducible exact InCycle.upd (by assumption) rfl rfl)
      | (with_reducible apply InCycle.ite)
      | (with_reducible refine InCycle.upd ?_ rfl rfl <;> first
          | (with_reducible apply forEach_inCycle) | (with_reducible apply modPair_inCycle))
      | split

end Sys2Proof.Machine
end

