-- ==== Sys2Proof/Laws/InCycleFirefly.lean ====
section
/-! SUPPORT. What the operations of Machine/Firefly.lean keep. -/

namespace Sys2Proof.Machine

variable {z s : State}

set_option linter.unusedTactic false
set_option linter.unreachableTactic false

theorem modFfy_inCycle (h : InCycle z s) : InCycle z (modFfy x1 x2 s) := by
  unfold modFfy
  try dsimp only
  repeat' first
      | (intro _) | (with_reducible assumption) | (with_reducible exact InCycle.upd (by assumption) rfl rfl)
      | (with_reducible apply InCycle.ite)
      | split

theorem startPulse_inCycle (h : InCycle z s) : InCycle z (startPulse x1 s) := by
  unfold startPulse
  try dsimp only
  repeat' first
      | (intro _) | (with_reducible assumption) | (with_reducible apply count_inCycle) | (with_reducible apply irq_inCycle)
      | (with_reducible apply modFfy_inCycle) | (with_reducible exact InCycle.upd (by assumption) rfl rfl)
      | (with_reducible apply InCycle.ite)
      | (with_reducible refine InCycle.upd ?_ rfl rfl <;> first
          | (with_reducible apply count_inCycle) | (with_reducible apply irq_inCycle) | (with_reducible apply modFfy_inCycle))
      | split

theorem otherPulse_inCycle (h : InCycle z s) : InCycle z (otherPulse x1 s) := by
  unfold otherPulse
  try dsimp only
  repeat' first
      | (intro _) | (with_reducible assumption) | (with_reducible apply count_inCycle)
      | (with_reducible apply startPulse_inCycle) | (with_reducible exact InCycle.upd (by assumption) rfl rfl)
      | (with_reducible apply InCycle.ite)
      | (with_reducible refine InCycle.upd ?_ rfl rfl <;> first
          | (with_reducible apply count_inCycle) | (with_reducible apply startPulse_inCycle))
      | split

theorem fireEntry_inCycle (h : InCycle z s) : InCycle z (fireEntry x1 s) := by
  unfold fireEntry
  try dsimp only
  repeat' first
      | (intro _) | (with_reducible assumption) | (with_reducible apply modFfy_inCycle)
      | (with_reducible apply adcTrigger_inCycle) | (with_reducible apply count_inCycle) | (with_reducible apply irq_inCycle)
      | (with_reducible apply startPulse_inCycle) | (with_reducible exact InCycle.upd (by assumption) rfl rfl)
      | (with_reducible apply InCycle.ite)
      | (with_reducible refine InCycle.upd ?_ rfl rfl <;> first
          | (with_reducible apply modFfy_inCycle) | (with_reducible apply adcTrigger_inCycle)
          | (with_reducible apply count_inCycle) | (with_reducible apply irq_inCycle)
          | (with_reducible apply startPulse_inCycle))
      | split

theorem missEntry_inCycle (h : InCycle z s) : InCycle z (missEntry x1 s) := by
  unfold missEntry
  try dsimp only
  repeat' first
      | (intro _) | (with_reducible assumption) | (with_reducible apply modFfy_inCycle) | (with_reducible apply count_inCycle)
      | (with_reducible apply irq_inCycle) | (with_reducible exact InCycle.upd (by assumption) rfl rfl)
      | (with_reducible apply InCycle.ite)
      | (with_reducible refine InCycle.upd ?_ rfl rfl <;> first
          | (with_reducible apply modFfy_inCycle) | (with_reducible apply count_inCycle) | (with_reducible apply irq_inCycle))
      | split

theorem advancePtr_inCycle (h : InCycle z s) : InCycle z (advancePtr x1 s).1 := by
  unfold advancePtr
  try dsimp only
  repeat' first
      | (intro _) | (with_reducible assumption) | (with_reducible apply modFfy_inCycle) | (with_reducible apply count_inCycle)
      | (with_reducible apply irq_inCycle) | (with_reducible exact InCycle.upd (by assumption) rfl rfl)
      | (with_reducible apply InCycle.ite)
      | (with_reducible refine InCycle.upd ?_ rfl rfl <;> first
          | (with_reducible apply modFfy_inCycle) | (with_reducible apply count_inCycle) | (with_reducible apply irq_inCycle))
      | split

theorem judgeEntries_inCycle {n : Sixteen} {k : Nat} {x : Option (Int × Int)} (h : InCycle z s) : InCycle z (judgeEntries n k x s) := by
  induction k generalizing s x with
  | zero => exact modFfy_inCycle h
  | succ k ih =>
    unfold judgeEntries
    dsimp only
    repeat' first
        | (intro _) | (with_reducible assumption) | (with_reducible apply ih) | (with_reducible apply modFfy_inCycle)
        | (with_reducible apply advancePtr_inCycle) | (with_reducible apply fireEntry_inCycle)
        | (with_reducible apply missEntry_inCycle) | (with_reducible exact InCycle.upd (by assumption) rfl rfl)
        | (with_reducible apply InCycle.ite) | split

theorem becomeCurrent_inCycle (h : InCycle z s) : InCycle z (becomeCurrent x1 s) := by
  unfold becomeCurrent
  try dsimp only
  repeat' first
      | (intro _) | (with_reducible assumption) | (with_reducible apply judgeEntries_inCycle)
      | (with_reducible apply modFfy_inCycle) | (with_reducible exact InCycle.upd (by assumption) rfl rfl)
      | (with_reducible apply InCycle.ite)
      | (with_reducible refine InCycle.upd ?_ rfl rfl <;> first
          | (with_reducible apply judgeEntries_inCycle) | (with_reducible apply modFfy_inCycle))
      | split

theorem ffyStep_inCycle (h : InCycle z s) : InCycle z (ffyStep x1 x2 x3 s) := by
  unfold ffyStep
  try dsimp only
  repeat' first
      | (intro _) | (with_reducible assumption) | (with_reducible apply judgeEntries_inCycle)
      | (with_reducible exact InCycle.upd (by assumption) rfl rfl) | (with_reducible apply InCycle.ite)
      | (with_reducible refine InCycle.upd ?_ rfl rfl <;> first
          | (with_reducible apply judgeEntries_inCycle))
      | split

theorem ffyCountStep_inCycle (h : InCycle z s) : InCycle z (ffyCountStep x1 x2 x3 s) := by
  unfold ffyCountStep
  try dsimp only
  repeat' first
      | (intro _) | (with_reducible assumption) | (with_reducible apply forEach_inCycle)
      | (with_reducible apply ffyStep_inCycle) | (with_reducible exact InCycle.upd (by assumption) rfl rfl)
      | (with_reducible apply InCycle.ite)
      | (with_reducible refine InCycle.upd ?_ rfl rfl <;> first
          | (with_reducible apply forEach_inCycle) | (with_reducible apply ffyStep_inCycle))
      | split

theorem ffyPhaseStep_inCycle (h : InCycle z s) : InCycle z (ffyPhaseStep x1 s) := by
  unfold ffyPhaseStep
  try dsimp only
  repeat' first
      | (intro _) | (with_reducible assumption) | (with_reducible apply ffyStep_inCycle)
      | (with_reducible apply modFfy_inCycle) | (with_reducible exact InCycle.upd (by assumption) rfl rfl)
      | (with_reducible apply InCycle.ite)
      | (with_reducible refine InCycle.upd ?_ rfl rfl <;> first
          | (with_reducible apply ffyStep_inCycle) | (with_reducible apply modFfy_inCycle))
      | split

theorem ffyPhaseSteps_inCycle (h : InCycle z s) : InCycle z (ffyPhaseSteps s) := by
  unfold ffyPhaseSteps
  try dsimp only
  repeat' first
      | (intro _) | (with_reducible assumption) | (with_reducible apply forEach_inCycle)
      | (with_reducible apply ffyPhaseStep_inCycle) | (with_reducible exact InCycle.upd (by assumption) rfl rfl)
      | (with_reducible apply InCycle.ite)
      | (with_reducible refine InCycle.upd ?_ rfl rfl <;> first
          | (with_reducible apply forEach_inCycle) | (with_reducible apply ffyPhaseStep_inCycle))
      | split

theorem ffyCountLoad_inCycle (h : InCycle z s) : InCycle z (ffyCountLoad x1 s) := by
  unfold ffyCountLoad
  try dsimp only
  repeat' first
      | (intro _) | (with_reducible assumption) | (with_reducible apply forEach_inCycle)
      | (with_reducible apply becomeCurrent_inCycle) | (with_reducible exact InCycle.upd (by assumption) rfl rfl)
      | (with_reducible apply InCycle.ite)
      | (with_reducible refine InCycle.upd ?_ rfl rfl <;> first
          | (with_reducible apply forEach_inCycle) | (with_reducible apply becomeCurrent_inCycle))
      | split

theorem ffyLineEvent_inCycle (h : InCycle z s) : InCycle z (ffyLineEvent s) := by
  unfold ffyLineEvent
  try dsimp only
  repeat' first
      | (intro _) | (with_reducible assumption) | (with_reducible apply forEach_inCycle)
      | (with_reducible apply becomeCurrent_inCycle) | (with_reducible exact InCycle.upd (by assumption) rfl rfl)
      | (with_reducible apply InCycle.ite)
      | (with_reducible refine InCycle.upd ?_ rfl rfl <;> first
          | (with_reducible apply forEach_inCycle) | (with_reducible apply becomeCurrent_inCycle))
      | split

theorem ffyRefresh_inCycle (h : InCycle z s) : InCycle z (ffyRefresh s) := by
  unfold ffyRefresh
  try dsimp only
  repeat' first
      | (intro _) | (with_reducible assumption) | (with_reducible apply forEach_inCycle)
      | (with_reducible apply modFfy_inCycle) | (with_reducible apply irq_inCycle)
      | (with_reducible apply becomeCurrent_inCycle) | (with_reducible exact InCycle.upd (by assumption) rfl rfl)
      | (with_reducible apply InCycle.ite)
      | (with_reducible refine InCycle.upd ?_ rfl rfl <;> first
          | (with_reducible apply forEach_inCycle) | (with_reducible apply modFfy_inCycle) | (with_reducible apply irq_inCycle)
          | (with_reducible apply becomeCurrent_inCycle))
      | split

theorem writeLctl_inCycle (h : InCycle z s) : InCycle z (writeLctl x1 x2 s) := by
  unfold writeLctl
  try dsimp only
  repeat' first
      | (intro _) | (with_reducible assumption) | (with_reducible apply modFfy_inCycle) | (with_reducible apply chg_inCycle)
      | (with_reducible apply setReg_inCycle) | (with_reducible apply becomeCurrent_inCycle)
      | (with_reducible exact InCycle.upd (by assumption) rfl rfl) | (with_reducible apply InCycle.ite)
      | (with_reducible refine InCycle.upd ?_ rfl rfl <;> first
          | (with_reducible apply modFfy_inCycle) | (with_reducible apply chg_inCycle) | (with_reducible apply setReg_inCycle)
          | (with_reducible apply becomeCurrent_inCycle))
      | split

theorem writeRearm_inCycle (h : InCycle z s) : InCycle z (writeRearm x1 s) := by
  unfold writeRearm
  try dsimp only
  repeat' first
      | (intro _) | (with_reducible assumption) | (with_reducible apply modFfy_inCycle)
      | (with_reducible exact InCycle.upd (by assumption) rfl rfl) | (with_reducible apply InCycle.ite)
      | (with_reducible refine InCycle.upd ?_ rfl rfl <;> first
          | (with_reducible apply modFfy_inCycle))
      | split

theorem writeRewind_inCycle (h : InCycle z s) : InCycle z (writeRewind x1 s) := by
  unfold writeRewind
  try dsimp only
  repeat' first
      | (intro _) | (with_reducible assumption) | (with_reducible apply becomeCurrent_inCycle)
      | (with_reducible apply modFfy_inCycle) | (with_reducible exact InCycle.upd (by assumption) rfl rfl)
      | (with_reducible apply InCycle.ite)
      | (with_reducible refine InCycle.upd ?_ rfl rfl <;> first
          | (with_reducible apply becomeCurrent_inCycle) | (with_reducible apply modFfy_inCycle))
      | split

theorem writeHaTime_inCycle (h : InCycle z s) : InCycle z (writeHaTime x1 x2 s) := by
  unfold writeHaTime
  try dsimp only
  repeat' first
      | (intro _) | (with_reducible assumption) | (with_reducible apply chg_inCycle) | (with_reducible apply modFfy_inCycle)
      | (with_reducible apply setReg_inCycle) | (with_reducible exact InCycle.upd (by assumption) rfl rfl)
      | (with_reducible apply InCycle.ite)
      | (with_reducible refine InCycle.upd ?_ rfl rfl <;> first
          | (with_reducible apply chg_inCycle) | (with_reducible apply modFfy_inCycle) | (with_reducible apply setReg_inCycle))
      | split

theorem hostPulse_inCycle (h : InCycle z s) : InCycle z (hostPulse x1 s) := by
  unfold hostPulse
  try dsimp only
  repeat' first
      | (intro _) | (with_reducible assumption) | (with_reducible apply otherPulse_inCycle)
      | (with_reducible apply modFfy_inCycle) | (with_reducible exact InCycle.upd (by assumption) rfl rfl)
      | (with_reducible apply InCycle.ite)
      | (with_reducible refine InCycle.upd ?_ rfl rfl <;> first
          | (with_reducible apply otherPulse_inCycle) | (with_reducible apply modFfy_inCycle))
      | split

theorem endPulse_inCycle (h : InCycle z s) : InCycle z (endPulse x1 s) := by
  unfold endPulse
  try dsimp only
  repeat' first
      | (intro _) | (with_reducible assumption) | (with_reducible apply modFfy_inCycle)
      | (with_reducible exact InCycle.upd (by assumption) rfl rfl) | (with_reducible apply InCycle.ite)
      | (with_reducible refine InCycle.upd ?_ rfl rfl <;> first
          | (with_reducible apply modFfy_inCycle))
      | split

theorem ffyCfgWritten_inCycle (h : InCycle z s) : InCycle z (ffyCfgWritten x1 x2 x3 s) := by
  unfold ffyCfgWritten
  try dsimp only
  repeat' first
      | (intro _) | (with_reducible assumption) | (with_reducible apply ffyRefresh_inCycle)
      | (with_reducible apply becomeCurrent_inCycle) | (with_reducible exact InCycle.upd (by assumption) rfl rfl)
      | (with_reducible apply InCycle.ite)
      | (with_reducible refine InCycle.upd ?_ rfl rfl <;> first
          | (with_reducible apply ffyRefresh_inCycle) | (with_reducible apply becomeCurrent_inCycle))
      | split

theorem lineCfgWritten_inCycle (h : InCycle z s) : InCycle z (lineCfgWritten x1 s) := by
  unfold lineCfgWritten
  try dsimp only
  repeat' first
      | (intro _) | (with_reducible assumption) | (with_reducible apply ffyRefresh_inCycle)
      | (with_reducible apply writeLineCfg_inCycle) | (with_reducible apply ffyLineEvent_inCycle)
      | (with_reducible exact InCycle.upd (by assumption) rfl rfl) | (with_reducible apply InCycle.ite)
      | (with_reducible refine InCycle.upd ?_ rfl rfl <;> first
          | (with_reducible apply ffyRefresh_inCycle) | (with_reducible apply writeLineCfg_inCycle)
          | (with_reducible apply ffyLineEvent_inCycle))
      | split

theorem lineLoadSync_inCycle (h : InCycle z s) : InCycle z (lineLoadSync s) := by
  unfold lineLoadSync
  try dsimp only
  repeat' first
      | (intro _) | (with_reducible assumption) | (with_reducible apply ffyRefresh_inCycle)
      | (with_reducible apply lineLoadAct_inCycle) | (with_reducible apply ffyLineEvent_inCycle)
      | (with_reducible exact InCycle.upd (by assumption) rfl rfl) | (with_reducible apply InCycle.ite)
      | (with_reducible refine InCycle.upd ?_ rfl rfl <;> first
          | (with_reducible apply ffyRefresh_inCycle) | (with_reducible apply lineLoadAct_inCycle)
          | (with_reducible apply ffyLineEvent_inCycle))
      | split

end Sys2Proof.Machine
end

