-- ==== Sys2Proof/Laws/InCycleEncoder.lean ====
section
/-! SUPPORT. What the operations of Machine/Encoder.lean keep. -/

namespace Sys2Proof.Machine

variable {z s : State}

set_option linter.unusedTactic false
set_option linter.unreachableTactic false

theorem modEnc_inCycle (h : InCycle z s) : InCycle z (modEnc x1 x2 s) := by
  unfold modEnc
  try dsimp only
  repeat' first
      | (intro _) | (with_reducible assumption) | (with_reducible exact InCycle.upd (by assumption) rfl rfl)
      | (with_reducible apply InCycle.ite)
      | split

theorem declareFault_inCycle (h : InCycle z s) : InCycle z (declareFault x1 s) := by
  unfold declareFault
  try dsimp only
  repeat' first
      | (intro _) | (with_reducible assumption) | (with_reducible apply modEnc_inCycle) | (with_reducible apply count_inCycle)
      | (with_reducible apply irq_inCycle) | (with_reducible apply ffyRefresh_inCycle)
      | (with_reducible apply lineSourceFault_inCycle) | (with_reducible exact InCycle.upd (by assumption) rfl rfl)
      | (with_reducible apply InCycle.ite)
      | (with_reducible refine InCycle.upd ?_ rfl rfl <;> first
          | (with_reducible apply modEnc_inCycle) | (with_reducible apply count_inCycle) | (with_reducible apply irq_inCycle)
          | (with_reducible apply ffyRefresh_inCycle) | (with_reducible apply lineSourceFault_inCycle))
      | split

theorem encError_inCycle (h : InCycle z s) : InCycle z (encError x1 s) := by
  unfold encError
  try dsimp only
  repeat' first
      | (intro _) | (with_reducible assumption) | (with_reducible apply modEnc_inCycle)
      | (with_reducible apply declareFault_inCycle) | (with_reducible exact InCycle.upd (by assumption) rfl rfl)
      | (with_reducible apply InCycle.ite)
      | (with_reducible refine InCycle.upd ?_ rfl rfl <;> first
          | (with_reducible apply modEnc_inCycle) | (with_reducible apply declareFault_inCycle))
      | split

theorem encIllegal_inCycle (h : InCycle z s) : InCycle z (encIllegal x1 s) := by
  unfold encIllegal
  try dsimp only
  repeat' first
      | (intro _) | (with_reducible assumption) | (with_reducible apply encError_inCycle)
      | (with_reducible apply count_inCycle) | (with_reducible apply irq_inCycle)
      | (with_reducible exact InCycle.upd (by assumption) rfl rfl) | (with_reducible apply InCycle.ite)
      | (with_reducible refine InCycle.upd ?_ rfl rfl <;> first
          | (with_reducible apply encError_inCycle) | (with_reducible apply count_inCycle) | (with_reducible apply irq_inCycle))
      | split

theorem queueEmulated_inCycle (h : InCycle z s) : InCycle z (queueEmulated x1 x2 x3 s) := by
  unfold queueEmulated
  try dsimp only
  repeat' first
      | (intro _) | (with_reducible assumption) | (with_reducible apply modEnc_inCycle)
      | (with_reducible apply countBy_inCycle) | (with_reducible apply irq_inCycle)
      | (with_reducible exact InCycle.upd (by assumption) rfl rfl) | (with_reducible apply InCycle.ite)
      | (with_reducible refine InCycle.upd ?_ rfl rfl <;> first
          | (with_reducible apply modEnc_inCycle) | (with_reducible apply countBy_inCycle) | (with_reducible apply irq_inCycle))
      | split

theorem emulate_inCycle (h : InCycle z s) : InCycle z (emulate x1 x2 s) := by
  unfold emulate
  try dsimp only
  repeat' first
      | (intro _) | (with_reducible assumption) | (with_reducible apply modEnc_inCycle)
      | (with_reducible apply queueEmulated_inCycle) | (with_reducible exact InCycle.upd (by assumption) rfl rfl)
      | (with_reducible apply InCycle.ite)
      | (with_reducible refine InCycle.upd ?_ rfl rfl <;> first
          | (with_reducible apply modEnc_inCycle) | (with_reducible apply queueEmulated_inCycle))
      | split

theorem countMove_inCycle (h : InCycle z s) : InCycle z (countMove x1 x2 x3 s) := by
  unfold countMove
  try dsimp only
  repeat' first
      | (intro _) | (with_reducible assumption) | (with_reducible apply count_inCycle) | (with_reducible apply modEnc_inCycle)
      | (with_reducible apply modLine_inCycle) | (with_reducible apply ffyCountStep_inCycle)
      | (with_reducible apply emulate_inCycle) | (with_reducible apply ffyPhaseSteps_inCycle)
      | (with_reducible exact InCycle.upd (by assumption) rfl rfl) | (with_reducible apply InCycle.ite)
      | (with_reducible refine InCycle.upd ?_ rfl rfl <;> first
          | (with_reducible apply count_inCycle) | (with_reducible apply modEnc_inCycle)
          | (with_reducible apply modLine_inCycle) | (with_reducible apply ffyCountStep_inCycle)
          | (with_reducible apply emulate_inCycle) | (with_reducible apply ffyPhaseSteps_inCycle))
      | split

theorem saturate_inCycle (h : InCycle z s) : InCycle z (saturate x1 s) := by
  unfold saturate
  try dsimp only
  repeat' first
      | (intro _) | (with_reducible assumption) | (with_reducible apply modEnc_inCycle)
      | (with_reducible exact InCycle.upd (by assumption) rfl rfl) | (with_reducible apply InCycle.ite)
      | (with_reducible refine InCycle.upd ?_ rfl rfl <;> first
          | (with_reducible apply modEnc_inCycle))
      | split

theorem encoderEdge_inCycle (h : InCycle z s) : InCycle z (encoderEdge x1 x2 x3 s) := by
  unfold encoderEdge
  try dsimp only
  repeat' first
      | (intro _) | (with_reducible assumption) | (with_reducible apply modEnc_inCycle)
      | (with_reducible apply encIllegal_inCycle) | (with_reducible apply countMove_inCycle)
      | (with_reducible exact InCycle.upd (by assumption) rfl rfl) | (with_reducible apply InCycle.ite)
      | (with_reducible refine InCycle.upd ?_ rfl rfl <;> first
          | (with_reducible apply modEnc_inCycle) | (with_reducible apply encIllegal_inCycle)
          | (with_reducible apply countMove_inCycle))
      | split

theorem hallChange_inCycle (h : InCycle z s) : InCycle z (hallChange x1 x2 s) := by
  unfold hallChange
  try dsimp only
  repeat' first
      | (intro _) | (with_reducible assumption) | (with_reducible apply modEnc_inCycle)
      | (with_reducible apply encIllegal_inCycle) | (with_reducible apply countMove_inCycle)
      | (with_reducible exact InCycle.upd (by assumption) rfl rfl) | (with_reducible apply InCycle.ite)
      | (with_reducible refine InCycle.upd ?_ rfl rfl <;> first
          | (with_reducible apply modEnc_inCycle) | (with_reducible apply encIllegal_inCycle)
          | (with_reducible apply countMove_inCycle))
      | split

theorem ssiFrameError_inCycle (h : InCycle z s) : InCycle z (ssiFrameError x1 s) := by
  unfold ssiFrameError
  try dsimp only
  repeat' first
      | (intro _) | (with_reducible assumption) | (with_reducible apply encError_inCycle)
      | (with_reducible apply count_inCycle) | (with_reducible apply irq_inCycle)
      | (with_reducible exact InCycle.upd (by assumption) rfl rfl) | (with_reducible apply InCycle.ite)
      | (with_reducible refine InCycle.upd ?_ rfl rfl <;> first
          | (with_reducible apply encError_inCycle) | (with_reducible apply count_inCycle) | (with_reducible apply irq_inCycle))
      | split

theorem ssiReading_inCycle (h : InCycle z s) : InCycle z (ssiReading x1 x2 x3 s) := by
  unfold ssiReading
  try dsimp only
  repeat' first
      | (intro _) | (with_reducible assumption) | (with_reducible apply modEnc_inCycle) | (with_reducible apply count_inCycle)
      | (with_reducible apply ffyCountLoad_inCycle) | (with_reducible apply ssiFrameError_inCycle)
      | (with_reducible apply countMove_inCycle) | (with_reducible exact InCycle.upd (by assumption) rfl rfl)
      | (with_reducible apply InCycle.ite)
      | (with_reducible refine InCycle.upd ?_ rfl rfl <;> first
          | (with_reducible apply modEnc_inCycle) | (with_reducible apply count_inCycle)
          | (with_reducible apply ffyCountLoad_inCycle) | (with_reducible apply ssiFrameError_inCycle)
          | (with_reducible apply countMove_inCycle))
      | split

theorem ssiStart_inCycle (h : InCycle z s) : InCycle z (ssiStart x1 s) := by
  unfold ssiStart
  try dsimp only
  repeat' first
      | (intro _) | (with_reducible assumption) | (with_reducible apply modEnc_inCycle)
      | (with_reducible exact InCycle.upd (by assumption) rfl rfl) | (with_reducible apply InCycle.ite)
      | (with_reducible refine InCycle.upd ?_ rfl rfl <;> first
          | (with_reducible apply modEnc_inCycle))
      | split

theorem ssiComplete_inCycle (h : InCycle z s) : InCycle z (ssiComplete x1 x2 x3 x4 s) := by
  unfold ssiComplete
  try dsimp only
  repeat' first
      | (intro _) | (with_reducible assumption) | (with_reducible apply modEnc_inCycle)
      | (with_reducible apply ssiFrameError_inCycle) | (with_reducible apply ssiReading_inCycle)
      | (with_reducible exact InCycle.upd (by assumption) rfl rfl) | (with_reducible apply InCycle.ite)
      | (with_reducible refine InCycle.upd ?_ rfl rfl <;> first
          | (with_reducible apply modEnc_inCycle) | (with_reducible apply ssiFrameError_inCycle)
          | (with_reducible apply ssiReading_inCycle))
      | split

theorem startMeasure_inCycle (h : InCycle z s) : InCycle z (startMeasure x1 s) := by
  unfold startMeasure
  try dsimp only
  repeat' first
      | (intro _) | (with_reducible assumption) | (with_reducible apply modEnc_inCycle)
      | (with_reducible exact InCycle.upd (by assumption) rfl rfl) | (with_reducible apply InCycle.ite)
      | (with_reducible refine InCycle.upd ?_ rfl rfl <;> first
          | (with_reducible apply modEnc_inCycle))
      | split

theorem ssiMeasured_inCycle (h : InCycle z s) : InCycle z (ssiMeasured x1 x2 s) := by
  unfold ssiMeasured
  try dsimp only
  repeat' first
      | (intro _) | (with_reducible assumption) | (with_reducible apply irq_inCycle) | (with_reducible apply modEnc_inCycle)
      | (with_reducible exact InCycle.upd (by assumption) rfl rfl) | (with_reducible apply InCycle.ite)
      | (with_reducible refine InCycle.upd ?_ rfl rfl <;> first
          | (with_reducible apply irq_inCycle) | (with_reducible apply modEnc_inCycle))
      | split

theorem indexLatch_inCycle (h : InCycle z s) : InCycle z (indexLatch x1 s) := by
  unfold indexLatch
  try dsimp only
  repeat' first
      | (intro _) | (with_reducible assumption) | (with_reducible apply modEnc_inCycle) | (with_reducible apply count_inCycle)
      | (with_reducible apply irq_inCycle) | (with_reducible exact InCycle.upd (by assumption) rfl rfl)
      | (with_reducible apply InCycle.ite)
      | (with_reducible refine InCycle.upd ?_ rfl rfl <;> first
          | (with_reducible apply modEnc_inCycle) | (with_reducible apply count_inCycle) | (with_reducible apply irq_inCycle))
      | split

theorem readLatch_inCycle (h : InCycle z s) : InCycle z (readLatch x1 x2 s).2 := by
  unfold readLatch
  try dsimp only
  repeat' first
      | (intro _) | (with_reducible assumption) | (with_reducible apply modEnc_inCycle)
      | (with_reducible exact InCycle.upd (by assumption) rfl rfl) | (with_reducible apply InCycle.ite)
      | (with_reducible refine InCycle.upd ?_ rfl rfl <;> first
          | (with_reducible apply modEnc_inCycle))
      | split

theorem readLatchT_inCycle (h : InCycle z s) : InCycle z (readLatchT x1 x2 s).2 := by
  unfold readLatchT
  try dsimp only
  repeat' first
      | (intro _) | (with_reducible assumption) | (with_reducible apply modEnc_inCycle)
      | (with_reducible exact InCycle.upd (by assumption) rfl rfl) | (with_reducible apply InCycle.ite)
      | (with_reducible refine InCycle.upd ?_ rfl rfl <;> first
          | (with_reducible apply modEnc_inCycle))
      | split

theorem writeClrfault_inCycle (h : InCycle z s) : InCycle z (writeClrfault x1 s) := by
  unfold writeClrfault
  try dsimp only
  repeat' first
      | (intro _) | (with_reducible assumption) | (with_reducible apply recordErr_inCycle)
      | (with_reducible apply ffyRefresh_inCycle) | (with_reducible apply modEnc_inCycle)
      | (with_reducible exact InCycle.upd (by assumption) rfl rfl) | (with_reducible apply InCycle.ite)
      | (with_reducible refine InCycle.upd ?_ rfl rfl <;> first
          | (with_reducible apply recordErr_inCycle) | (with_reducible apply ffyRefresh_inCycle)
          | (with_reducible apply modEnc_inCycle))
      | split

theorem errorWindow_inCycle (h : InCycle z s) : InCycle z (errorWindow x1 s) := by
  unfold errorWindow
  try dsimp only
  repeat' first
      | (intro _) | (with_reducible assumption) | (with_reducible apply modEnc_inCycle)
      | (with_reducible exact InCycle.upd (by assumption) rfl rfl) | (with_reducible apply InCycle.ite)
      | (with_reducible refine InCycle.upd ?_ rfl rfl <;> first
          | (with_reducible apply modEnc_inCycle))
      | split

theorem emulatedCount_inCycle (h : InCycle z s) : InCycle z (emulatedCount x1 s) := by
  unfold emulatedCount
  try dsimp only
  repeat' first
      | (intro _) | (with_reducible assumption) | (with_reducible apply modEnc_inCycle)
      | (with_reducible exact InCycle.upd (by assumption) rfl rfl) | (with_reducible apply InCycle.ite)
      | (with_reducible refine InCycle.upd ?_ rfl rfl <;> first
          | (with_reducible apply modEnc_inCycle))
      | split

theorem encCutOff_inCycle (h : InCycle z s) : InCycle z (encCutOff x1 s) := by
  unfold encCutOff
  try dsimp only
  repeat' first
      | (intro _) | (with_reducible assumption) | (with_reducible apply modEnc_inCycle) | (with_reducible apply haLate_inCycle)
      | (with_reducible exact InCycle.upd (by assumption) rfl rfl) | (with_reducible apply InCycle.ite)
      | (with_reducible refine InCycle.upd ?_ rfl rfl <;> first
          | (with_reducible apply modEnc_inCycle) | (with_reducible apply haLate_inCycle))
      | split

theorem countLoad_inCycle (h : InCycle z s) : InCycle z (countLoad x1 x2 s) := by
  unfold countLoad
  try dsimp only
  repeat' first
      | (intro _) | (with_reducible assumption) | (with_reducible apply modEnc_inCycle) | (with_reducible apply count_inCycle)
      | (with_reducible apply lineEvent_inCycle) | (with_reducible apply ffyCountLoad_inCycle)
      | (with_reducible apply ffyLineEvent_inCycle) | (with_reducible exact InCycle.upd (by assumption) rfl rfl)
      | (with_reducible apply InCycle.ite)
      | (with_reducible refine InCycle.upd ?_ rfl rfl <;> first
          | (with_reducible apply modEnc_inCycle) | (with_reducible apply count_inCycle)
          | (with_reducible apply lineEvent_inCycle) | (with_reducible apply ffyCountLoad_inCycle)
          | (with_reducible apply ffyLineEvent_inCycle))
      | split

theorem hostCount_inCycle (h : InCycle z s) : InCycle z (hostCount x1 s) := by
  unfold hostCount
  try dsimp only
  repeat' first
      | (intro _) | (with_reducible assumption) | (with_reducible apply modEnc_inCycle) | (with_reducible apply count_inCycle)
      | (with_reducible apply countMove_inCycle) | (with_reducible exact InCycle.upd (by assumption) rfl rfl)
      | (with_reducible apply InCycle.ite)
      | (with_reducible refine InCycle.upd ?_ rfl rfl <;> first
          | (with_reducible apply modEnc_inCycle) | (with_reducible apply count_inCycle)
          | (with_reducible apply countMove_inCycle))
      | split

theorem encSync_inCycle (h : InCycle z s) : InCycle z (encSync x1 x2 s) := by
  unfold encSync
  try dsimp only
  repeat' first
      | (intro _) | (with_reducible assumption) | (with_reducible apply hostCount_inCycle)
      | (with_reducible apply countLoad_inCycle) | (with_reducible apply modEnc_inCycle)
      | (with_reducible apply setReg_inCycle) | (with_reducible apply count_inCycle) | (with_reducible apply irqIf_inCycle)
      | (with_reducible exact InCycle.upd (by assumption) rfl rfl) | (with_reducible apply InCycle.ite)
      | (with_reducible refine InCycle.upd ?_ rfl rfl <;> first
          | (with_reducible apply hostCount_inCycle) | (with_reducible apply countLoad_inCycle)
          | (with_reducible apply modEnc_inCycle) | (with_reducible apply setReg_inCycle)
          | (with_reducible apply count_inCycle) | (with_reducible apply irqIf_inCycle))
      | split

theorem encSyncAll_inCycle (h : InCycle z s) : InCycle z (encSyncAll x1 s) := by
  unfold encSyncAll
  try dsimp only
  repeat' first
      | (with_reducible apply ssiStart_inCycle) | (intro _) | (with_reducible assumption) | (with_reducible apply forEach_inCycle)
      | (with_reducible apply encSync_inCycle) | (with_reducible exact InCycle.upd (by assumption) rfl rfl)
      | (with_reducible apply InCycle.ite)
      | (with_reducible refine InCycle.upd ?_ rfl rfl <;> first
          | (with_reducible apply ssiStart_inCycle)
          | (with_reducible apply forEach_inCycle) | (with_reducible apply encSync_inCycle))
      | split

theorem resetEnc_inCycle (h : InCycle z s) : InCycle z (resetEnc x1 s) := by
  unfold resetEnc
  try dsimp only
  repeat' first
      | (intro _) | (with_reducible assumption) | (with_reducible apply countLoad_inCycle)
      | (with_reducible apply ffyRefresh_inCycle) | (with_reducible apply modEnc_inCycle)
      | (with_reducible exact InCycle.upd (by assumption) rfl rfl) | (with_reducible apply InCycle.ite)
      | (with_reducible refine InCycle.upd ?_ rfl rfl <;> first
          | (with_reducible apply countLoad_inCycle) | (with_reducible apply ffyRefresh_inCycle)
          | (with_reducible apply modEnc_inCycle))
      | split

theorem encWritten_inCycle (h : InCycle z s) : InCycle z (encWritten x1 x2 x3 x4 s) := by
  unfold encWritten
  try dsimp only
  repeat' first
      | (intro _) | (with_reducible assumption) | (with_reducible apply modEnc_inCycle)
      | (with_reducible exact InCycle.upd (by assumption) rfl rfl) | (with_reducible apply InCycle.ite)
      | (with_reducible refine InCycle.upd ?_ rfl rfl <;> first
          | (with_reducible apply modEnc_inCycle))
      | split

theorem writeEncCmd_inCycle (h : InCycle z s) : InCycle z (writeEncCmd x1 x2 s) := by
  unfold writeEncCmd
  try dsimp only
  repeat' first
      | (intro _) | (with_reducible assumption) | (with_reducible apply writeClrfault_inCycle)
      | (with_reducible apply startMeasure_inCycle) | (with_reducible apply modEnc_inCycle)
      | (with_reducible exact InCycle.upd (by assumption) rfl rfl) | (with_reducible apply InCycle.ite)
      | (with_reducible refine InCycle.upd ?_ rfl rfl <;> first
          | (with_reducible apply writeClrfault_inCycle) | (with_reducible apply startMeasure_inCycle)
          | (with_reducible apply modEnc_inCycle))
      | split

end Sys2Proof.Machine
end

