-- ==== Sys2Proof/Laws/InCycleProfile.lean ====
section
/-! SUPPORT. What the operations of Machine/Profile.lean keep. -/

namespace Sys2Proof.Machine

variable {z s : State}

set_option linter.unusedTactic false
set_option linter.unreachableTactic false

theorem modGen_inCycle (h : InCycle z s) : InCycle z (modGen x1 x2 s) := by
  unfold modGen
  try dsimp only
  repeat' first
      | (intro _) | (with_reducible assumption) | (with_reducible exact InCycle.upd (by assumption) rfl rfl)
      | (with_reducible apply InCycle.ite)
      | split

theorem refuseGo_inCycle (h : InCycle z s) : InCycle z (refuseGo x1 x2 s) := by
  unfold refuseGo
  try dsimp only
  repeat' first
      | (intro _) | (with_reducible assumption) | (with_reducible apply count_inCycle) | (with_reducible apply irq_inCycle)
      | (with_reducible apply recordErr_inCycle) | (with_reducible apply modGen_inCycle)
      | (with_reducible exact InCycle.upd (by assumption) rfl rfl) | (with_reducible apply InCycle.ite)
      | (with_reducible refine InCycle.upd ?_ rfl rfl <;> first
          | (with_reducible apply count_inCycle) | (with_reducible apply irq_inCycle)
          | (with_reducible apply recordErr_inCycle) | (with_reducible apply modGen_inCycle))
      | split

theorem acceptGo_inCycle (h : InCycle z s) : InCycle z (acceptGo x1 x2 s) := by
  unfold acceptGo
  try dsimp only
  repeat' first
      | (intro _) | (with_reducible assumption) | (with_reducible apply modGen_inCycle) | (with_reducible apply count_inCycle)
      | (with_reducible apply irq_inCycle) | (with_reducible exact InCycle.upd (by assumption) rfl rfl)
      | (with_reducible apply InCycle.ite)
      | (with_reducible refine InCycle.upd ?_ rfl rfl <;> first
          | (with_reducible apply modGen_inCycle) | (with_reducible apply count_inCycle) | (with_reducible apply irq_inCycle))
      | split

theorem takeGo_inCycle (h : InCycle z s) : InCycle z (takeGo x1 s) := by
  unfold takeGo
  try dsimp only
  repeat' first
      | (intro _) | (with_reducible assumption) | (with_reducible apply modGen_inCycle)
      | (with_reducible apply refuseGo_inCycle) | (with_reducible apply acceptGo_inCycle)
      | (with_reducible exact InCycle.upd (by assumption) rfl rfl) | (with_reducible apply InCycle.ite)
      | (with_reducible refine InCycle.upd ?_ rfl rfl <;> first
          | (with_reducible apply modGen_inCycle) | (with_reducible apply refuseGo_inCycle)
          | (with_reducible apply acceptGo_inCycle))
      | split

theorem takeStop_inCycle (h : InCycle z s) : InCycle z (takeStop x1 s) := by
  unfold takeStop
  try dsimp only
  repeat' first
      | (intro _) | (with_reducible assumption) | (with_reducible apply countIf_inCycle)
      | (with_reducible apply modGen_inCycle) | (with_reducible apply refuseGo_inCycle)
      | (with_reducible exact InCycle.upd (by assumption) rfl rfl) | (with_reducible apply InCycle.ite)
      | (with_reducible refine InCycle.upd ?_ rfl rfl <;> first
          | (with_reducible apply countIf_inCycle) | (with_reducible apply modGen_inCycle)
          | (with_reducible apply refuseGo_inCycle))
      | split

theorem takeLoad_inCycle (h : InCycle z s) : InCycle z (takeLoad x1 s) := by
  unfold takeLoad
  try dsimp only
  repeat' first
      | (intro _) | (with_reducible assumption) | (with_reducible apply modGen_inCycle)
      | (with_reducible exact InCycle.upd (by assumption) rfl rfl) | (with_reducible apply InCycle.ite)
      | (with_reducible refine InCycle.upd ?_ rfl rfl <;> first
          | (with_reducible apply modGen_inCycle))
      | split

theorem watchStop_inCycle (h : InCycle z s) : InCycle z (watchStop x1 s) := by
  unfold watchStop
  try dsimp only
  repeat' first
      | (intro _) | (with_reducible assumption) | (with_reducible apply modGen_inCycle)
      | (with_reducible exact InCycle.upd (by assumption) rfl rfl) | (with_reducible apply InCycle.ite)
      | (with_reducible refine InCycle.upd ?_ rfl rfl <;> first
          | (with_reducible apply modGen_inCycle))
      | split

theorem hardwareTick_inCycle (h : InCycle z s) : InCycle z (hardwareTick x1 s) := by
  unfold hardwareTick
  try dsimp only
  repeat' first
      | (intro _) | (with_reducible assumption) | (with_reducible apply takeGo_inCycle)
      | (with_reducible apply takeLoad_inCycle) | (with_reducible apply takeStop_inCycle)
      | (with_reducible apply modGen_inCycle) | (with_reducible apply irqIf_inCycle) | (with_reducible apply watchStop_inCycle)
      | (with_reducible exact InCycle.upd (by assumption) rfl rfl) | (with_reducible apply InCycle.ite)
      | (with_reducible refine InCycle.upd ?_ rfl rfl <;> first
          | (with_reducible apply takeGo_inCycle) | (with_reducible apply takeLoad_inCycle)
          | (with_reducible apply takeStop_inCycle) | (with_reducible apply modGen_inCycle)
          | (with_reducible apply irqIf_inCycle) | (with_reducible apply watchStop_inCycle))
      | split

theorem clampHost_inCycle (h : InCycle z s) : InCycle z (clampHost x1 x2 s).2 := by
  unfold clampHost
  try dsimp only
  repeat' first
      | (intro _) | (with_reducible assumption) | (with_reducible apply count_inCycle) | (with_reducible apply modGen_inCycle)
      | (with_reducible exact InCycle.upd (by assumption) rfl rfl) | (with_reducible apply InCycle.ite)
      | (with_reducible refine InCycle.upd ?_ rfl rfl <;> first
          | (with_reducible apply count_inCycle) | (with_reducible apply modGen_inCycle))
      | split

theorem hostFifoTick_inCycle (h : InCycle z s) : InCycle z (hostFifoTick x1 s) := by
  unfold hostFifoTick
  try dsimp only
  repeat' first
      | (intro _) | (with_reducible assumption) | (with_reducible apply haLate_inCycle) | (with_reducible apply modGen_inCycle)
      | (with_reducible apply clampHost_inCycle) | (with_reducible exact InCycle.upd (by assumption) rfl rfl)
      | (with_reducible apply InCycle.ite)
      | (with_reducible refine InCycle.upd ?_ rfl rfl <;> first
          | (with_reducible apply haLate_inCycle) | (with_reducible apply modGen_inCycle)
          | (with_reducible apply clampHost_inCycle))
      | split

theorem hostLinearTick_inCycle (h : InCycle z s) : InCycle z (hostLinearTick x1 x2 x3 s) := by
  unfold hostLinearTick
  try dsimp only
  repeat' first
      | (intro _) | (with_reducible assumption) | (with_reducible apply modGen_inCycle)
      | (with_reducible exact InCycle.upd (by assumption) rfl rfl) | (with_reducible apply InCycle.ite)
      | (with_reducible refine InCycle.upd ?_ rfl rfl <;> first
          | (with_reducible apply modGen_inCycle))
      | split

theorem hostRequests_inCycle (h : InCycle z s) : InCycle z (hostRequests x1 s) := by
  unfold hostRequests
  try dsimp only
  repeat' first
      | (with_reducible apply takeLoad_inCycle) | (intro _) | (with_reducible assumption) | (with_reducible apply takeGo_inCycle)
      | (with_reducible apply takeStop_inCycle) | (with_reducible exact InCycle.upd (by assumption) rfl rfl)
      | (with_reducible apply InCycle.ite)
      | (with_reducible refine InCycle.upd ?_ rfl rfl <;> first
          | (with_reducible apply takeLoad_inCycle)
          | (with_reducible apply takeGo_inCycle) | (with_reducible apply takeStop_inCycle))
      | split

theorem genTick_inCycle (h : InCycle z s) : InCycle z (genTick x1 x2 x3 s) := by
  unfold genTick
  try dsimp only
  repeat' first
      | (intro _) | (with_reducible assumption) | (with_reducible apply hostRequests_inCycle)
      | (with_reducible apply hostFifoTick_inCycle) | (with_reducible apply hostLinearTick_inCycle)
      | (with_reducible apply hardwareTick_inCycle) | (with_reducible exact InCycle.upd (by assumption) rfl rfl)
      | (with_reducible apply InCycle.ite)
      | (with_reducible refine InCycle.upd ?_ rfl rfl <;> first
          | (with_reducible apply hostRequests_inCycle) | (with_reducible apply hostFifoTick_inCycle)
          | (with_reducible apply hostLinearTick_inCycle) | (with_reducible apply hardwareTick_inCycle))
      | split

theorem genSync_inCycle (h : InCycle z s) : InCycle z (genSync x1 s) := by
  unfold genSync
  try dsimp only
  repeat' first
      | (intro _) | (with_reducible assumption) | (with_reducible apply modGen_inCycle)
      | (with_reducible exact InCycle.upd (by assumption) rfl rfl) | (with_reducible apply InCycle.ite)
      | (with_reducible refine InCycle.upd ?_ rfl rfl <;> first
          | (with_reducible apply modGen_inCycle))
      | split

theorem genCutOff_inCycle (h : InCycle z s) : InCycle z (genCutOff x1 s) := by
  unfold genCutOff
  try dsimp only
  repeat' first
      | (intro _) | (with_reducible assumption) | (with_reducible apply clampHost_inCycle)
      | (with_reducible apply modGen_inCycle) | (with_reducible apply haLate_inCycle)
      | (with_reducible exact InCycle.upd (by assumption) rfl rfl) | (with_reducible apply InCycle.ite)
      | (with_reducible refine InCycle.upd ?_ rfl rfl <;> first
          | (with_reducible apply clampHost_inCycle) | (with_reducible apply modGen_inCycle)
          | (with_reducible apply haLate_inCycle))
      | split

theorem genModeChanged_inCycle (h : InCycle z s) : InCycle z (genModeChanged x1 s) := by
  unfold genModeChanged
  try dsimp only
  repeat' first
      | (intro _) | (with_reducible assumption) | (with_reducible apply modGen_inCycle)
      | (with_reducible exact InCycle.upd (by assumption) rfl rfl) | (with_reducible apply InCycle.ite)
      | (with_reducible refine InCycle.upd ?_ rfl rfl <;> first
          | (with_reducible apply modGen_inCycle))
      | split

theorem genFeedback_inCycle (h : InCycle z s) : InCycle z (genFeedback x1 x2 x3 s) := by
  unfold genFeedback
  try dsimp only
  repeat' first
      | (intro _) | (with_reducible assumption) | (with_reducible apply modGen_inCycle) | (with_reducible apply irqIf_inCycle)
      | (with_reducible apply count_inCycle) | (with_reducible apply irq_inCycle)
      | (with_reducible exact InCycle.upd (by assumption) rfl rfl) | (with_reducible apply InCycle.ite)
      | (with_reducible refine InCycle.upd ?_ rfl rfl <;> first
          | (with_reducible apply modGen_inCycle) | (with_reducible apply irqIf_inCycle) | (with_reducible apply count_inCycle)
          | (with_reducible apply irq_inCycle))
      | split

theorem requestGo_inCycle (h : InCycle z s) : InCycle z (requestGo x1 x2 s) := by
  unfold requestGo
  try dsimp only
  repeat' first
      | (intro _) | (with_reducible assumption) | (with_reducible apply countIf_inCycle)
      | (with_reducible apply modGen_inCycle) | (with_reducible exact InCycle.upd (by assumption) rfl rfl)
      | (with_reducible apply InCycle.ite)
      | (with_reducible refine InCycle.upd ?_ rfl rfl <;> first
          | (with_reducible apply countIf_inCycle) | (with_reducible apply modGen_inCycle))
      | split

theorem writePrgLoad_inCycle (h : InCycle z s) : InCycle z (writePrgLoad x1 s) := by
  unfold writePrgLoad
  try dsimp only
  repeat' first
      | (intro _) | (with_reducible assumption) | (with_reducible apply modGen_inCycle)
      | (with_reducible apply recordErr_inCycle) | (with_reducible exact InCycle.upd (by assumption) rfl rfl)
      | (with_reducible apply InCycle.ite)
      | (with_reducible refine InCycle.upd ?_ rfl rfl <;> first
          | (with_reducible apply modGen_inCycle) | (with_reducible apply recordErr_inCycle))
      | split

theorem writePrgCmd_inCycle (h : InCycle z s) : InCycle z (writePrgCmd x1 x2 s) := by
  unfold writePrgCmd
  try dsimp only
  repeat' first
      | (intro _) | (with_reducible assumption) | (with_reducible apply writePrgLoad_inCycle)
      | (with_reducible apply requestGo_inCycle) | (with_reducible apply modGen_inCycle)
      | (with_reducible exact InCycle.upd (by assumption) rfl rfl) | (with_reducible apply InCycle.ite)
      | (with_reducible refine InCycle.upd ?_ rfl rfl <;> first
          | (with_reducible apply writePrgLoad_inCycle) | (with_reducible apply requestGo_inCycle)
          | (with_reducible apply modGen_inCycle))
      | split

theorem writeHaPosHi_inCycle (h : InCycle z s) : InCycle z (writeHaPosHi x1 x2 s) := by
  unfold writeHaPosHi
  try dsimp only
  repeat' first
      | (intro _) | (with_reducible assumption) | (with_reducible apply modGen_inCycle)
      | (with_reducible apply recordErr_inCycle) | (with_reducible exact InCycle.upd (by assumption) rfl rfl)
      | (with_reducible apply InCycle.ite)
      | (with_reducible refine InCycle.upd ?_ rfl rfl <;> first
          | (with_reducible apply modGen_inCycle) | (with_reducible apply recordErr_inCycle))
      | split

theorem resetGen_inCycle (h : InCycle z s) : InCycle z (resetGen x1 s) := by
  unfold resetGen
  try dsimp only
  repeat' first
      | (intro _) | (with_reducible assumption) | (with_reducible apply modGen_inCycle)
      | (with_reducible exact InCycle.upd (by assumption) rfl rfl) | (with_reducible apply InCycle.ite)
      | (with_reducible refine InCycle.upd ?_ rfl rfl <;> first
          | (with_reducible apply modGen_inCycle))
      | split

theorem readPosLo_inCycle (h : InCycle z s) : InCycle z (readPosLo x1 x2 s).2 := by
  unfold readPosLo
  try dsimp only
  repeat' first
      | (intro _) | (with_reducible assumption) | (with_reducible exact InCycle.upd (by assumption) rfl rfl)
      | (with_reducible apply InCycle.ite)
      | split

end Sys2Proof.Machine
end

