-- ==== Sys2Proof/Laws/InCycleStepper.lean ====
section
/-! SUPPORT. What the operations of Machine/Stepper.lean keep. -/

namespace Sys2Proof.Machine

variable {z s : State}

set_option linter.unusedTactic false
set_option linter.unreachableTactic false

theorem modStp_inCycle (h : InCycle z s) : InCycle z (modStp x1 x2 s) := by
  unfold modStp
  try dsimp only
  repeat' first
      | (intro _) | (with_reducible assumption) | (with_reducible exact InCycle.upd (by assumption) rfl rfl)
      | (with_reducible apply InCycle.ite)
      | split

theorem formReferences_inCycle (h : InCycle z s) : InCycle z (formReferences x1 s) := by
  unfold formReferences
  try dsimp only
  repeat' first
      | (intro _) | (with_reducible assumption) | (with_reducible apply modStp_inCycle)
      | (with_reducible exact InCycle.upd (by assumption) rfl rfl) | (with_reducible apply InCycle.ite)
      | (with_reducible refine InCycle.upd ?_ rfl rfl <;> first
          | (with_reducible apply modStp_inCycle))
      | split

theorem stpTick_inCycle (h : InCycle z s) : InCycle z (stpTick x1 s) := by
  unfold stpTick
  try dsimp only
  repeat' first
      | (intro _) | (with_reducible assumption) | (with_reducible apply modStp_inCycle)
      | (with_reducible apply countBy_inCycle) | (with_reducible exact InCycle.upd (by assumption) rfl rfl)
      | (with_reducible apply InCycle.ite)
      | (with_reducible refine InCycle.upd ?_ rfl rfl <;> first
          | (with_reducible apply modStp_inCycle) | (with_reducible apply countBy_inCycle))
      | split

theorem pwmPeriod_inCycle (h : InCycle z s) : InCycle z (pwmPeriod x1 s) := by
  unfold pwmPeriod
  try dsimp only
  repeat' first
      | (intro _) | (with_reducible assumption) | (with_reducible apply formReferences_inCycle)
      | (with_reducible apply modStp_inCycle) | (with_reducible exact InCycle.upd (by assumption) rfl rfl)
      | (with_reducible apply InCycle.ite)
      | (with_reducible refine InCycle.upd ?_ rfl rfl <;> first
          | (with_reducible apply formReferences_inCycle) | (with_reducible apply modStp_inCycle))
      | split

theorem pwmCentre_inCycle (h : InCycle z s) : InCycle z (pwmCentre x1 s) := by
  unfold pwmCentre
  try dsimp only
  repeat' first
      | (intro _) | (with_reducible assumption) | (with_reducible apply adcTrigger_inCycle)
      | (with_reducible exact InCycle.upd (by assumption) rfl rfl) | (with_reducible apply InCycle.ite)
      | (with_reducible refine InCycle.upd ?_ rfl rfl <;> first
          | (with_reducible apply adcTrigger_inCycle))
      | split

theorem driverChanged_inCycle (h : InCycle z s) : InCycle z (driverChanged x1 x2 x3 s) := by
  unfold driverChanged
  try dsimp only
  repeat' first
      | (intro _) | (with_reducible assumption) | (with_reducible apply modStp_inCycle)
      | (with_reducible exact InCycle.upd (by assumption) rfl rfl) | (with_reducible apply InCycle.ite)
      | (with_reducible refine InCycle.upd ?_ rfl rfl <;> first
          | (with_reducible apply modStp_inCycle))
      | split

theorem setDriver_inCycle (h : InCycle z s) : InCycle z (setDriver x1 x2 s) := by
  unfold setDriver
  try dsimp only
  repeat' first
      | (intro _) | (with_reducible assumption) | (with_reducible apply driverChanged_inCycle)
      | (with_reducible apply setFlag_inCycle) | (with_reducible exact InCycle.upd (by assumption) rfl rfl)
      | (with_reducible apply InCycle.ite)
      | (with_reducible refine InCycle.upd ?_ rfl rfl <;> first
          | (with_reducible apply driverChanged_inCycle) | (with_reducible apply setFlag_inCycle))
      | split

theorem writeTdata_inCycle (h : InCycle z s) : InCycle z (writeTdata x1 x2 s) := by
  unfold writeTdata
  try dsimp only
  repeat' first
      | (intro _) | (with_reducible assumption) | (with_reducible apply modStp_inCycle) | (with_reducible apply count_inCycle)
      | (with_reducible apply chg_inCycle) | (with_reducible apply setReg_inCycle)
      | (with_reducible exact InCycle.upd (by assumption) rfl rfl) | (with_reducible apply InCycle.ite)
      | (with_reducible refine InCycle.upd ?_ rfl rfl <;> first
          | (with_reducible apply modStp_inCycle) | (with_reducible apply count_inCycle) | (with_reducible apply chg_inCycle)
          | (with_reducible apply setReg_inCycle))
      | split

theorem writeTdefault_inCycle (h : InCycle z s) : InCycle z (writeTdefault x1 s) := by
  unfold writeTdefault
  try dsimp only
  repeat' first
      | (intro _) | (with_reducible assumption) | (with_reducible apply modStp_inCycle)
      | (with_reducible exact InCycle.upd (by assumption) rfl rfl) | (with_reducible apply InCycle.ite)
      | (with_reducible refine InCycle.upd ?_ rfl rfl <;> first
          | (with_reducible apply modStp_inCycle))
      | split

theorem stpFeedback_inCycle (h : InCycle z s) : InCycle z (stpFeedback x1 x2 x3 x4 s) := by
  unfold stpFeedback
  try dsimp only
  repeat' first
      | (intro _) | (with_reducible assumption) | (with_reducible apply modStp_inCycle) | (with_reducible apply count_inCycle)
      | (with_reducible apply irq_inCycle) | (with_reducible exact InCycle.upd (by assumption) rfl rfl)
      | (with_reducible apply InCycle.ite)
      | (with_reducible refine InCycle.upd ?_ rfl rfl <;> first
          | (with_reducible apply modStp_inCycle) | (with_reducible apply count_inCycle) | (with_reducible apply irq_inCycle))
      | split

end Sys2Proof.Machine
end

