-- ==== Sys2Proof/Laws/InCycleTasks.lean ====
section
/-! SUPPORT. What the operations of Machine/Tasks.lean keep. -/

namespace Sys2Proof.Machine

variable {z s : State}

set_option linter.unusedTactic false
set_option linter.unreachableTactic false

theorem modTds_inCycle (h : InCycle z s) : InCycle z (modTds x1 s) := by
  unfold modTds
  try dsimp only
  repeat' first
      | (intro _) | (with_reducible assumption) | (with_reducible exact InCycle.upd (by assumption) rfl rfl)
      | (with_reducible apply InCycle.ite)
      | split

theorem recordChoke_inCycle (h : InCycle z s) : InCycle z (recordChoke s) := by
  unfold recordChoke
  exact forEach_inCycle (fun _ _ h => InCycle.upd h rfl rfl) h

theorem spill_inCycle (h : InCycle z s) : InCycle z (spill x1 s) := by
  unfold spill
  try dsimp only
  repeat' first
      | (intro _) | (with_reducible assumption) | (with_reducible apply recordChoke_inCycle)
      | (with_reducible apply countPriv_inCycle) | (with_reducible apply modTds_inCycle)
      | (with_reducible exact InCycle.upd (by assumption) rfl rfl) | (with_reducible apply InCycle.ite)
      | (with_reducible refine InCycle.upd ?_ rfl rfl <;> first
          | (with_reducible apply recordChoke_inCycle) | (with_reducible apply countPriv_inCycle)
          | (with_reducible apply modTds_inCycle))
      | split

theorem makeReady_inCycle (h : InCycle z s) : InCycle z (makeReady x1 x2 s) := by
  unfold makeReady
  try dsimp only
  repeat' first
      | (intro _) | (with_reducible assumption) | (with_reducible apply modTds_inCycle) | (with_reducible apply spill_inCycle)
      | (with_reducible exact InCycle.upd (by assumption) rfl rfl) | (with_reducible apply InCycle.ite)
      | (with_reducible refine InCycle.upd ?_ rfl rfl <;> first
          | (with_reducible apply modTds_inCycle) | (with_reducible apply spill_inCycle))
      | split

theorem operandArrives_inCycle (h : InCycle z s) : InCycle z (operandArrives x1 x2 x3 x4 x5 s) := by
  unfold operandArrives
  try dsimp only
  repeat' first
      | (intro _) | (with_reducible assumption) | (with_reducible apply count_inCycle)
      | (with_reducible apply recordErr_inCycle) | (with_reducible apply modTds_inCycle)
      | (with_reducible apply makeReady_inCycle) | (with_reducible apply spill_inCycle)
      | (with_reducible exact InCycle.upd (by assumption) rfl rfl) | (with_reducible apply InCycle.ite)
      | (with_reducible refine InCycle.upd ?_ rfl rfl <;> first
          | (with_reducible apply count_inCycle) | (with_reducible apply recordErr_inCycle)
          | (with_reducible apply modTds_inCycle) | (with_reducible apply makeReady_inCycle)
          | (with_reducible apply spill_inCycle))
      | split

theorem placeDelay_inCycle (h : InCycle z s) : InCycle z (placeDelay x1 x2 s) := by
  unfold placeDelay
  try dsimp only
  repeat' first
      | (intro _) | (with_reducible assumption) | (with_reducible apply modTds_inCycle) | (with_reducible apply spill_inCycle)
      | (with_reducible exact InCycle.upd (by assumption) rfl rfl) | (with_reducible apply InCycle.ite)
      | (with_reducible refine InCycle.upd ?_ rfl rfl <;> first
          | (with_reducible apply modTds_inCycle) | (with_reducible apply spill_inCycle))
      | split

theorem insertDelay_inCycle (h : InCycle z s) : InCycle z (insertDelay x1 x2 s) := by
  unfold insertDelay
  try dsimp only
  repeat' first
      | (intro _) | (with_reducible assumption) | (with_reducible apply modTds_inCycle)
      | (with_reducible exact InCycle.upd (by assumption) rfl rfl) | (with_reducible apply InCycle.ite)
      | (with_reducible refine InCycle.upd ?_ rfl rfl <;> first
          | (with_reducible apply modTds_inCycle))
      | split

theorem insertionTick_inCycle (h : InCycle z s) : InCycle z (insertionTick s) := by
  unfold insertionTick
  try dsimp only
  repeat' first
      | (intro _) | (with_reducible assumption) | (with_reducible apply modTds_inCycle)
      | (with_reducible apply forEach_inCycle) | (with_reducible apply placeDelay_inCycle)
      | (with_reducible exact InCycle.upd (by assumption) rfl rfl) | (with_reducible apply InCycle.ite)
      | (with_reducible refine InCycle.upd ?_ rfl rfl <;> first
          | (with_reducible apply modTds_inCycle) | (with_reducible apply forEach_inCycle)
          | (with_reducible apply placeDelay_inCycle))
      | split

theorem deliverFired_inCycle (h : InCycle z s) : InCycle z (deliverFired x1 x2 s) := by
  unfold deliverFired
  try dsimp only
  repeat' first
      | (intro _) | (with_reducible assumption) | (with_reducible apply irqIf_inCycle) | (with_reducible apply countBy_inCycle)
      | (with_reducible apply forEach_inCycle) | (with_reducible apply operandArrives_inCycle)
      | (with_reducible apply modTds_inCycle) | (with_reducible exact InCycle.upd (by assumption) rfl rfl)
      | (with_reducible apply InCycle.ite)
      | (with_reducible refine InCycle.upd ?_ rfl rfl <;> first
          | (with_reducible apply irqIf_inCycle) | (with_reducible apply countBy_inCycle)
          | (with_reducible apply forEach_inCycle) | (with_reducible apply operandArrives_inCycle)
          | (with_reducible apply modTds_inCycle))
      | split

theorem refillDelay_inCycle (h : InCycle z s) : InCycle z (refillDelay s) := by
  unfold refillDelay
  try dsimp only
  repeat' first
      | (intro _) | (with_reducible assumption) | (with_reducible apply countPriv_inCycle)
      | (with_reducible apply modTds_inCycle) | (with_reducible exact InCycle.upd (by assumption) rfl rfl)
      | (with_reducible apply InCycle.ite)
      | (with_reducible refine InCycle.upd ?_ rfl rfl <;> first
          | (with_reducible apply countPriv_inCycle) | (with_reducible apply modTds_inCycle))
      | split

theorem timeListFire_inCycle (h : InCycle z s) : InCycle z (timeListFire s) := by
  unfold timeListFire
  try dsimp only
  repeat' first
      | (intro _) | (with_reducible assumption) | (with_reducible apply refillDelay_inCycle)
      | (with_reducible apply deliverFired_inCycle) | (with_reducible apply modTds_inCycle)
      | (with_reducible exact InCycle.upd (by assumption) rfl rfl) | (with_reducible apply InCycle.ite)
      | (with_reducible refine InCycle.upd ?_ rfl rfl <;> first
          | (with_reducible apply refillDelay_inCycle) | (with_reducible apply deliverFired_inCycle)
          | (with_reducible apply modTds_inCycle))
      | split

theorem phaseListFire_inCycle (h : InCycle z s) : InCycle z (phaseListFire x1 x2 s) := by
  unfold phaseListFire
  try dsimp only
  repeat' first
      | (intro _) | (with_reducible assumption) | (with_reducible apply countIf_inCycle)
      | (with_reducible apply refillDelay_inCycle) | (with_reducible apply deliverFired_inCycle)
      | (with_reducible apply modTds_inCycle) | (with_reducible exact InCycle.upd (by assumption) rfl rfl)
      | (with_reducible apply InCycle.ite)
      | (with_reducible refine InCycle.upd ?_ rfl rfl <;> first
          | (with_reducible apply countIf_inCycle) | (with_reducible apply refillDelay_inCycle)
          | (with_reducible apply deliverFired_inCycle) | (with_reducible apply modTds_inCycle))
      | split

theorem combRefill_inCycle (h : InCycle z s) : InCycle z (combRefill s) := by
  unfold combRefill
  try dsimp only
  repeat' first
      | (intro _) | (with_reducible assumption) | (with_reducible apply refillDelay_inCycle)
      | (with_reducible apply countPriv_inCycle) | (with_reducible apply modTds_inCycle)
      | (with_reducible exact InCycle.upd (by assumption) rfl rfl) | (with_reducible apply InCycle.ite)
      | (with_reducible refine InCycle.upd ?_ rfl rfl <;> first
          | (with_reducible apply refillDelay_inCycle) | (with_reducible apply countPriv_inCycle)
          | (with_reducible apply modTds_inCycle))
      | split

theorem entryExpiry_inCycle (h : InCycle z s) : InCycle z (entryExpiry x1 x2 x3 s) := by
  unfold entryExpiry
  try dsimp only
  repeat' first
      | (intro _) | (with_reducible assumption) | (with_reducible apply modTds_inCycle) | (with_reducible apply irq_inCycle)
      | (with_reducible apply count_inCycle) | (with_reducible exact InCycle.upd (by assumption) rfl rfl)
      | (with_reducible apply InCycle.ite)
      | (with_reducible refine InCycle.upd ?_ rfl rfl <;> first
          | (with_reducible apply modTds_inCycle) | (with_reducible apply irq_inCycle) | (with_reducible apply count_inCycle))
      | split

theorem taskDispatch_inCycle (h : InCycle z s) : InCycle z (taskDispatch x1 x2 s) := by
  unfold taskDispatch
  try dsimp only
  repeat' first
      | (intro _) | (with_reducible assumption) | (with_reducible apply count_inCycle) | (with_reducible apply modTds_inCycle)
      | (with_reducible exact InCycle.upd (by assumption) rfl rfl) | (with_reducible apply InCycle.ite)
      | (with_reducible refine InCycle.upd ?_ rfl rfl <;> first
          | (with_reducible apply count_inCycle) | (with_reducible apply modTds_inCycle))
      | split

theorem taskCompletion_inCycle (h : InCycle z s) : InCycle z (taskCompletion x1 x2 x3 s) := by
  unfold taskCompletion
  try dsimp only
  repeat' first
      | (intro _) | (with_reducible assumption) | (with_reducible apply modTds_inCycle)
      | (with_reducible exact InCycle.upd (by assumption) rfl rfl) | (with_reducible apply InCycle.ite)
      | (with_reducible refine InCycle.upd ?_ rfl rfl <;> first
          | (with_reducible apply modTds_inCycle))
      | split

theorem foldDigest_inCycle (h : InCycle z s) : InCycle z (foldDigest x1 x2 x3 x4 s) := by
  unfold foldDigest
  try dsimp only
  repeat' first
      | (intro _) | (with_reducible assumption) | (with_reducible exact InCycle.upd (by assumption) rfl rfl)
      | (with_reducible apply InCycle.ite)
      | split

theorem releaseShared_inCycle (h : InCycle z s) : InCycle z (releaseShared x1 x2 x3 s) := by
  unfold releaseShared
  try dsimp only
  repeat' first
      | (intro _) | (with_reducible assumption) | (with_reducible apply count_inCycle) | (with_reducible apply forEach_inCycle)
      | (with_reducible apply foldDigest_inCycle) | (with_reducible exact InCycle.upd (by assumption) rfl rfl)
      | (with_reducible apply InCycle.ite)
      | (with_reducible refine InCycle.upd ?_ rfl rfl <;> first
          | (with_reducible apply count_inCycle) | (with_reducible apply forEach_inCycle)
          | (with_reducible apply foldDigest_inCycle))
      | split

end Sys2Proof.Machine
end

