-- ==== Sys2Proof/Laws/InCycleSecurity.lean ====
section
/-! SUPPORT. What the operations of Machine/Security.lean keep. -/

namespace Sys2Proof.Machine

variable {z s : State}

set_option linter.unusedTactic false
set_option linter.unreachableTactic false

theorem modSec_inCycle (h : InCycle z s) : InCycle z (modSec x1 s) := by
  unfold modSec
  try dsimp only
  repeat' first
      | (intro _) | (with_reducible assumption) | (with_reducible exact InCycle.upd (by assumption) rfl rfl)
      | (with_reducible apply InCycle.ite)
      | split

theorem logChange_inCycle (h : InCycle z s) : InCycle z (logChange x1 x2 x3 x4 x5 x6 x7 s) := by
  unfold logChange
  try dsimp only
  repeat' first
      | (intro _) | (with_reducible assumption) | (with_reducible apply count_inCycle) | (with_reducible apply modSec_inCycle)
      | (with_reducible apply irqIf_inCycle) | (with_reducible exact InCycle.upd (by assumption) rfl rfl)
      | (with_reducible apply InCycle.ite)
      | (with_reducible refine InCycle.upd ?_ rfl rfl <;> first
          | (with_reducible apply count_inCycle) | (with_reducible apply modSec_inCycle) | (with_reducible apply irqIf_inCycle))
      | split

theorem refuseForLog_inCycle (h : InCycle z s) : InCycle z (refuseForLog x1 x2 s) := by
  unfold refuseForLog
  try dsimp only
  repeat' first
      | (intro _) | (with_reducible assumption) | (with_reducible apply count_inCycle)
      | (with_reducible apply recordErr_inCycle) | (with_reducible exact InCycle.upd (by assumption) rfl rfl)
      | (with_reducible apply InCycle.ite)
      | (with_reducible refine InCycle.upd ?_ rfl rfl <;> first
          | (with_reducible apply count_inCycle) | (with_reducible apply recordErr_inCycle))
      | split

theorem closeSession_inCycle (h : InCycle z s) : InCycle z (closeSession s) := by
  unfold closeSession
  try dsimp only
  repeat' first
      | (intro _) | (with_reducible assumption) | (with_reducible apply irq_inCycle) | (with_reducible apply modSec_inCycle)
      | (with_reducible exact InCycle.upd (by assumption) rfl rfl) | (with_reducible apply InCycle.ite)
      | (with_reducible refine InCycle.upd ?_ rfl rfl <;> first
          | (with_reducible apply irq_inCycle) | (with_reducible apply modSec_inCycle))
      | split

theorem sessionTimeout_inCycle (h : InCycle z s) : InCycle z (sessionTimeout s) := by
  unfold sessionTimeout
  try dsimp only
  repeat' first
      | (intro _) | (with_reducible assumption) | (with_reducible apply closeSession_inCycle)
      | (with_reducible exact InCycle.upd (by assumption) rfl rfl) | (with_reducible apply InCycle.ite)
      | (with_reducible refine InCycle.upd ?_ rfl rfl <;> first
          | (with_reducible apply closeSession_inCycle))
      | split

theorem protectedWrite_inCycle (h : InCycle z s) : InCycle z (protectedWrite s) := by
  unfold protectedWrite
  try dsimp only
  repeat' first
      | (intro _) | (with_reducible assumption) | (with_reducible apply modSec_inCycle)
      | (with_reducible exact InCycle.upd (by assumption) rfl rfl) | (with_reducible apply InCycle.ite)
      | (with_reducible refine InCycle.upd ?_ rfl rfl <;> first
          | (with_reducible apply modSec_inCycle))
      | split

theorem closeSessionOf_inCycle (h : InCycle z s) : InCycle z (closeSessionOf x1 s) := by
  unfold closeSessionOf
  try dsimp only
  repeat' first
      | (intro _) | (with_reducible assumption) | (with_reducible apply closeSession_inCycle)
      | (with_reducible exact InCycle.upd (by assumption) rfl rfl) | (with_reducible apply InCycle.ite)
      | (with_reducible refine InCycle.upd ?_ rfl rfl <;> first
          | (with_reducible apply closeSession_inCycle))
      | split

theorem pwdResult_inCycle (h : InCycle z s) : InCycle z (pwdResult x1 s) := by
  unfold pwdResult
  try dsimp only
  repeat' first
      | (intro _) | (with_reducible assumption) | (with_reducible apply modSec_inCycle)
      | (with_reducible exact InCycle.upd (by assumption) rfl rfl) | (with_reducible apply InCycle.ite)
      | (with_reducible refine InCycle.upd ?_ rfl rfl <;> first
          | (with_reducible apply modSec_inCycle))
      | split

theorem wrongPassword_inCycle (h : InCycle z s) : InCycle z (wrongPassword s) := by
  unfold wrongPassword
  try dsimp only
  repeat' first
      | (intro _) | (with_reducible assumption) | (with_reducible apply pwdResult_inCycle) | (with_reducible apply irq_inCycle)
      | (with_reducible apply count_inCycle) | (with_reducible apply modSec_inCycle)
      | (with_reducible exact InCycle.upd (by assumption) rfl rfl) | (with_reducible apply InCycle.ite)
      | (with_reducible refine InCycle.upd ?_ rfl rfl <;> first
          | (with_reducible apply pwdResult_inCycle) | (with_reducible apply irq_inCycle)
          | (with_reducible apply count_inCycle) | (with_reducible apply modSec_inCycle))
      | split

theorem pwlockExpiry_inCycle (h : InCycle z s) : InCycle z (pwlockExpiry s) := by
  unfold pwlockExpiry
  try dsimp only
  repeat' first
      | (intro _) | (with_reducible assumption) | (with_reducible apply modSec_inCycle)
      | (with_reducible exact InCycle.upd (by assumption) rfl rfl) | (with_reducible apply InCycle.ite)
      | (with_reducible refine InCycle.upd ?_ rfl rfl <;> first
          | (with_reducible apply modSec_inCycle))
      | split

theorem beginSession_inCycle (h : InCycle z s) : InCycle z (beginSession x1 x2 s) := by
  unfold beginSession
  try dsimp only
  repeat' first
      | (intro _) | (with_reducible assumption) | (with_reducible apply drawFree_inCycle)
      | (with_reducible apply pwdResult_inCycle) | (with_reducible apply count_inCycle) | (with_reducible apply modSec_inCycle)
      | (with_reducible exact InCycle.upd (by assumption) rfl rfl) | (with_reducible apply InCycle.ite)
      | (with_reducible refine InCycle.upd ?_ rfl rfl <;> first
          | (with_reducible apply drawFree_inCycle) | (with_reducible apply pwdResult_inCycle)
          | (with_reducible apply count_inCycle) | (with_reducible apply modSec_inCycle))
      | split

theorem askSession_inCycle (h : InCycle z s) : InCycle z (askSession x1 s) := by
  unfold askSession
  try dsimp only
  repeat' first
      | (intro _) | (with_reducible assumption) | (with_reducible apply pwdResult_inCycle)
      | (with_reducible apply beginSession_inCycle) | (with_reducible apply wrongPassword_inCycle)
      | (with_reducible exact InCycle.upd (by assumption) rfl rfl) | (with_reducible apply InCycle.ite)
      | (with_reducible refine InCycle.upd ?_ rfl rfl <;> first
          | (with_reducible apply pwdResult_inCycle) | (with_reducible apply beginSession_inCycle)
          | (with_reducible apply wrongPassword_inCycle))
      | split

theorem openSession_inCycle (h : InCycle z s) : InCycle z (openSession x1 s) := by
  unfold openSession
  try dsimp only
  repeat' first
      | (intro _) | (with_reducible assumption) | (with_reducible apply askSession_inCycle)
      | (with_reducible apply pwlockExpiry_inCycle) | (with_reducible exact InCycle.upd (by assumption) rfl rfl)
      | (with_reducible apply InCycle.ite)
      | (with_reducible refine InCycle.upd ?_ rfl rfl <;> first
          | (with_reducible apply askSession_inCycle) | (with_reducible apply pwlockExpiry_inCycle))
      | split

theorem changePassword_inCycle (h : InCycle z s) : InCycle z (changePassword x1 s) := by
  unfold changePassword
  try dsimp only
  repeat' first
      | (intro _) | (with_reducible assumption) | (with_reducible apply pwdResult_inCycle)
      | (with_reducible apply refuseForLog_inCycle) | (with_reducible apply drawFree_inCycle)
      | (with_reducible apply modSec_inCycle) | (with_reducible apply logChange_inCycle)
      | (with_reducible exact InCycle.upd (by assumption) rfl rfl) | (with_reducible apply InCycle.ite)
      | (with_reducible refine InCycle.upd ?_ rfl rfl <;> first
          | (with_reducible apply pwdResult_inCycle) | (with_reducible apply refuseForLog_inCycle)
          | (with_reducible apply drawFree_inCycle) | (with_reducible apply modSec_inCycle)
          | (with_reducible apply logChange_inCycle))
      | split

theorem endSession_inCycle (h : InCycle z s) : InCycle z (endSession s) := by
  unfold endSession
  try dsimp only
  repeat' first
      | (intro _) | (with_reducible assumption) | (with_reducible apply pwdResult_inCycle)
      | (with_reducible apply closeSession_inCycle) | (with_reducible exact InCycle.upd (by assumption) rfl rfl)
      | (with_reducible apply InCycle.ite)
      | (with_reducible refine InCycle.upd ?_ rfl rfl <;> first
          | (with_reducible apply pwdResult_inCycle) | (with_reducible apply closeSession_inCycle))
      | split

theorem readSessKey_inCycle (h : InCycle z s) : InCycle z (readSessKey s).2 := by
  unfold readSessKey
  try dsimp only
  repeat' first
      | (intro _) | (with_reducible assumption) | (with_reducible apply modSec_inCycle)
      | (with_reducible exact InCycle.upd (by assumption) rfl rfl) | (with_reducible apply InCycle.ite)
      | (with_reducible refine InCycle.upd ?_ rfl rfl <;> first
          | (with_reducible apply modSec_inCycle))
      | split

theorem logAck_inCycle (h : InCycle z s) : InCycle z (logAck x1 s) := by
  unfold logAck
  try dsimp only
  repeat' first
      | (intro _) | (with_reducible assumption) | (with_reducible apply modSec_inCycle)
      | (with_reducible exact InCycle.upd (by assumption) rfl rfl) | (with_reducible apply InCycle.ite)
      | (with_reducible refine InCycle.upd ?_ rfl rfl <;> first
          | (with_reducible apply modSec_inCycle))
      | split

theorem readLogData_inCycle (h : InCycle z s) : InCycle z (readLogData s).2 := by
  unfold readLogData
  try dsimp only
  repeat' first
      | (intro _) | (with_reducible assumption) | (with_reducible apply setFld_inCycle)
      | (with_reducible exact InCycle.upd (by assumption) rfl rfl) | (with_reducible apply InCycle.ite)
      | (with_reducible refine InCycle.upd ?_ rfl rfl <;> first
          | (with_reducible apply setFld_inCycle))
      | split

theorem unlockPage_inCycle (h : InCycle z s) : InCycle z (unlockPage x1 x2 s) := by
  unfold unlockPage
  try dsimp only
  repeat' first
      | (intro _) | (with_reducible assumption) | (with_reducible apply modSec_inCycle)
      | (with_reducible exact InCycle.upd (by assumption) rfl rfl) | (with_reducible apply InCycle.ite)
      | (with_reducible refine InCycle.upd ?_ rfl rfl <;> first
          | (with_reducible apply modSec_inCycle))
      | split

theorem managementConnection_inCycle (h : InCycle z s) : InCycle z (managementConnection x1 x2 s) := by
  unfold managementConnection
  try dsimp only
  repeat' first
      | (intro _) | (with_reducible assumption) | (with_reducible apply count_inCycle) | (with_reducible apply modSec_inCycle)
      | (with_reducible exact InCycle.upd (by assumption) rfl rfl) | (with_reducible apply InCycle.ite)
      | (with_reducible refine InCycle.upd ?_ rfl rfl <;> first
          | (with_reducible apply count_inCycle) | (with_reducible apply modSec_inCycle))
      | split

theorem managementClosed_inCycle (h : InCycle z s) : InCycle z (managementClosed x1 s) := by
  unfold managementClosed
  try dsimp only
  repeat' first
      | (intro _) | (with_reducible assumption) | (with_reducible apply closeSessionOf_inCycle)
      | (with_reducible apply modSec_inCycle) | (with_reducible exact InCycle.upd (by assumption) rfl rfl)
      | (with_reducible apply InCycle.ite)
      | (with_reducible refine InCycle.upd ?_ rfl rfl <;> first
          | (with_reducible apply closeSessionOf_inCycle) | (with_reducible apply modSec_inCycle))
      | split

end Sys2Proof.Machine
end

