-- ==== Sys2Proof/Laws/InCyclePath.lean ====
section
/-! SUPPORT. What the operations of Machine/Path.lean keep. -/

namespace Sys2Proof.Machine

variable {z s : State}

set_option linter.unusedTactic false
set_option linter.unreachableTactic false

theorem modRing_inCycle (h : InCycle z s) : InCycle z (modRing x1 x2 s) := by
  unfold modRing
  try dsimp only
  repeat' first
      | (intro _) | (with_reducible assumption) | (with_reducible exact InCycle.upd (by assumption) rfl rfl)
      | (with_reducible apply InCycle.ite)
      | split

theorem placeMotion_inCycle (h : InCycle z s) : InCycle z (placeMotion x1 x2 x3 x4 x5 s) := by
  unfold placeMotion
  try dsimp only
  repeat' first
      | (intro _) | (with_reducible assumption) | (with_reducible apply modRing_inCycle)
      | (with_reducible exact InCycle.upd (by assumption) rfl rfl) | (with_reducible apply InCycle.ite)
      | (with_reducible refine InCycle.upd ?_ rfl rfl <;> first
          | (with_reducible apply modRing_inCycle))
      | split

theorem placeAll_inCycle {n : Nat} (h : InCycle z s) : InCycle z (placeAll x1 x2 x3 n s) := by
  induction n generalizing s with
  | zero => exact h
  | succ n ih =>
    unfold placeAll
    split
    · split
      · exact ih (placeMotion_inCycle h)
      · exact h
    · exact h

theorem extendPath_inCycle (h : InCycle z s) : InCycle z (extendPath x1 x2 s) := by
  unfold extendPath
  try dsimp only
  repeat' first
      | (intro _) | (with_reducible assumption) | (with_reducible apply modRing_inCycle)
      | (with_reducible apply placeAll_inCycle) | (with_reducible exact InCycle.upd (by assumption) rfl rfl)
      | (with_reducible apply InCycle.ite)
      | (with_reducible refine InCycle.upd ?_ rfl rfl <;> first
          | (with_reducible apply modRing_inCycle) | (with_reducible apply placeAll_inCycle))
      | split

theorem dropPath_inCycle (h : InCycle z s) : InCycle z (dropPath x1 s) := by
  unfold dropPath
  try dsimp only
  repeat' first
      | (intro _) | (with_reducible assumption) | (with_reducible apply modRing_inCycle)
      | (with_reducible exact InCycle.upd (by assumption) rfl rfl) | (with_reducible apply InCycle.ite)
      | (with_reducible refine InCycle.upd ?_ rfl rfl <;> first
          | (with_reducible apply modRing_inCycle))
      | split

end Sys2Proof.Machine
end

