-- ==== Sys2Proof/Laws/InCycleMac.lean ====
section
/-! SUPPORT. What the operations of Machine/Mac.lean keep. -/

namespace Sys2Proof.Machine

variable {z s : State}

set_option linter.unusedTactic false
set_option linter.unreachableTactic false

theorem modCore_inCycle (h : InCycle z s) : InCycle z (modCore x1 x2 s) := by
  unfold modCore
  try dsimp only
  repeat' first
      | (intro _) | (with_reducible assumption) | (with_reducible exact InCycle.upd (by assumption) rfl rfl)
      | (with_reducible apply InCycle.ite)
      | split

theorem modJoint_inCycle (h : InCycle z s) : InCycle z (modJoint x1 x2 s) := by
  unfold modJoint
  try dsimp only
  repeat' first
      | (intro _) | (with_reducible assumption) | (with_reducible exact InCycle.upd (by assumption) rfl rfl)
      | (with_reducible apply InCycle.ite)
      | split

theorem recordKernelFault_inCycle (h : InCycle z s) : InCycle z (recordKernelFault x1 x2 x3 x4 x5 s) := by
  unfold recordKernelFault
  try dsimp only
  repeat' first
      | (intro _) | (with_reducible assumption) | (with_reducible apply setReg_inCycle)
      | (with_reducible apply modJoint_inCycle) | (with_reducible apply count_inCycle) | (with_reducible apply irq_inCycle)
      | (with_reducible exact InCycle.upd (by assumption) rfl rfl) | (with_reducible apply InCycle.ite)
      | (with_reducible refine InCycle.upd ?_ rfl rfl <;> first
          | (with_reducible apply setReg_inCycle) | (with_reducible apply modJoint_inCycle)
          | (with_reducible apply count_inCycle) | (with_reducible apply irq_inCycle))
      | split

theorem kernelFault_inCycle (h : InCycle z s) : InCycle z (kernelFault x1 x2 s) := by
  unfold kernelFault
  try dsimp only
  repeat' first
      | (intro _) | (with_reducible assumption) | (with_reducible apply recordKernelFault_inCycle)
      | (with_reducible apply modCore_inCycle) | (with_reducible exact InCycle.upd (by assumption) rfl rfl)
      | (with_reducible apply InCycle.ite)
      | (with_reducible refine InCycle.upd ?_ rfl rfl <;> first
          | (with_reducible apply recordKernelFault_inCycle) | (with_reducible apply modCore_inCycle))
      | split

theorem kernelEnded_inCycle (h : InCycle z s) : InCycle z (kernelEnded x1 s) := by
  unfold kernelEnded
  try dsimp only
  repeat' first
      | (intro _) | (with_reducible assumption) | (with_reducible apply count_inCycle) | (with_reducible apply irq_inCycle)
      | (with_reducible exact InCycle.upd (by assumption) rfl rfl) | (with_reducible apply InCycle.ite)
      | (with_reducible refine InCycle.upd ?_ rfl rfl <;> first
          | (with_reducible apply count_inCycle) | (with_reducible apply irq_inCycle))
      | split

theorem putCtx_inCycle (h : InCycle z s) : InCycle z (putCtx x1 x2 s) := by
  unfold putCtx
  try dsimp only
  repeat' first
      | (intro _) | (with_reducible assumption) | (with_reducible exact InCycle.upd (by assumption) rfl rfl)
      | (with_reducible apply InCycle.ite)
      | split

theorem issue_inCycle (h : InCycle z s) : InCycle z (issue x1 x2 s) := by
  unfold issue
  try dsimp only
  repeat' first
      | (intro _) | (with_reducible assumption) | (with_reducible apply countPriv_inCycle)
      | (with_reducible apply kernelFault_inCycle) | (with_reducible apply putCtx_inCycle)
      | (with_reducible apply kernelEnded_inCycle) | (with_reducible exact InCycle.upd (by assumption) rfl rfl)
      | (with_reducible apply InCycle.ite)
      | (with_reducible refine InCycle.upd ?_ rfl rfl <;> first
          | (with_reducible apply countPriv_inCycle) | (with_reducible apply kernelFault_inCycle)
          | (with_reducible apply putCtx_inCycle) | (with_reducible apply kernelEnded_inCycle))
      | split

theorem startStream_inCycle (h : InCycle z s) : InCycle z (startStream x1 x2 s) := by
  unfold startStream
  try dsimp only
  repeat' first
      | (intro _) | (with_reducible assumption) | (with_reducible apply modCore_inCycle)
      | (with_reducible exact InCycle.upd (by assumption) rfl rfl) | (with_reducible apply InCycle.ite)
      | (with_reducible refine InCycle.upd ?_ rfl rfl <;> first
          | (with_reducible apply modCore_inCycle))
      | split

theorem dispatchTask_inCycle (h : InCycle z s) : InCycle z (dispatchTask x1 x2 s) := by
  unfold dispatchTask
  try dsimp only
  repeat' first
      | (intro _) | (with_reducible assumption) | (with_reducible apply taskDispatch_inCycle)
      | (with_reducible apply startStream_inCycle) | (with_reducible exact InCycle.upd (by assumption) rfl rfl)
      | (with_reducible apply InCycle.ite)
      | (with_reducible refine InCycle.upd ?_ rfl rfl <;> first
          | (with_reducible apply taskDispatch_inCycle) | (with_reducible apply startStream_inCycle))
      | split

end Sys2Proof.Machine
end

