-- ==== Sys2Proof/Laws/InCycleArms.lean ====
section
/-! SUPPORT. What the operations of Machine/Arms.lean keep. -/

namespace Sys2Proof.Machine

variable {z s : State}

set_option linter.unusedTactic false
set_option linter.unreachableTactic false

theorem writeReport_inCycle (h : InCycle z s) : InCycle z (writeReport x1 x2 x3 x4 x5 x6 x7 s) := by
  unfold writeReport
  try dsimp only
  repeat' first
      | (intro _) | (with_reducible assumption) | (with_reducible apply modRing_inCycle)
      | (with_reducible exact InCycle.upd (by assumption) rfl rfl) | (with_reducible apply InCycle.ite)
      | (with_reducible refine InCycle.upd ?_ rfl rfl <;> first
          | (with_reducible apply modRing_inCycle))
      | split

theorem putReport_inCycle (h : InCycle z s) : InCycle z (putReport x1 x2 s) := by
  unfold putReport
  try dsimp only
  repeat' first
      | (intro _) | (with_reducible assumption) | (with_reducible apply setBytes_inCycle)
      | (with_reducible apply setReg_inCycle) | (with_reducible apply irq_inCycle) | (with_reducible apply count_inCycle)
      | (with_reducible apply irqIf_inCycle) | (with_reducible exact InCycle.upd (by assumption) rfl rfl)
      | (with_reducible apply InCycle.ite)
      | (with_reducible refine InCycle.upd ?_ rfl rfl <;> first
          | (with_reducible apply setBytes_inCycle) | (with_reducible apply setReg_inCycle)
          | (with_reducible apply irq_inCycle) | (with_reducible apply count_inCycle) | (with_reducible apply irqIf_inCycle))
      | split

theorem releaseReports_inCycle (h : InCycle z s) : InCycle z (releaseReports x1 s) := by
  unfold releaseReports
  try dsimp only
  repeat' first
      | (intro _) | (with_reducible assumption) | (with_reducible apply modRing_inCycle)
      | (with_reducible apply forEach_inCycle) | (with_reducible apply putReport_inCycle)
      | (with_reducible apply setFlag_inCycle) | (with_reducible exact InCycle.upd (by assumption) rfl rfl)
      | (with_reducible apply InCycle.ite)
      | (with_reducible refine InCycle.upd ?_ rfl rfl <;> first
          | (with_reducible apply modRing_inCycle) | (with_reducible apply forEach_inCycle)
          | (with_reducible apply putReport_inCycle) | (with_reducible apply setFlag_inCycle))
      | split

theorem report_inCycle (h : InCycle z s) : InCycle z (report x1 x2 x3 x4 x5 s) := by
  unfold report
  try dsimp only
  repeat' first
      | (intro _) | (with_reducible assumption) | (with_reducible apply writeReport_inCycle)
      | (with_reducible apply modRing_inCycle) | (with_reducible exact InCycle.upd (by assumption) rfl rfl)
      | (with_reducible apply InCycle.ite)
      | (with_reducible refine InCycle.upd ?_ rfl rfl <;> first
          | (with_reducible apply writeReport_inCycle) | (with_reducible apply modRing_inCycle))
      | split

theorem abortTaken_inCycle (h : InCycle z s) : InCycle z (abortTaken x1 s) := by
  unfold abortTaken
  try dsimp only
  repeat' first
      | (intro _) | (with_reducible assumption) | (with_reducible apply modTds_inCycle)
      | (with_reducible apply forEach_inCycle) | (with_reducible apply count_inCycle) | (with_reducible apply report_inCycle)
      | (with_reducible apply modRing_inCycle) | (with_reducible exact InCycle.upd (by assumption) rfl rfl)
      | (with_reducible apply InCycle.ite)
      | (with_reducible refine InCycle.upd ?_ rfl rfl <;> first
          | (with_reducible apply modTds_inCycle) | (with_reducible apply forEach_inCycle)
          | (with_reducible apply count_inCycle) | (with_reducible apply report_inCycle)
          | (with_reducible apply modRing_inCycle))
      | split

theorem endRecords_inCycle (h : InCycle z s) : InCycle z (endRecords x1 x2 s) := by
  unfold endRecords
  try dsimp only
  repeat' first
      | (intro _) | (with_reducible assumption) | (with_reducible apply modRing_inCycle)
      | (with_reducible apply abortTaken_inCycle) | (with_reducible exact InCycle.upd (by assumption) rfl rfl)
      | (with_reducible apply InCycle.ite)
      | (with_reducible refine InCycle.upd ?_ rfl rfl <;> first
          | (with_reducible apply modRing_inCycle) | (with_reducible apply abortTaken_inCycle))
      | split

theorem haltOne_inCycle (h : InCycle z s) : InCycle z (haltOne x1 x2 s) := by
  unfold haltOne
  try dsimp only
  repeat' first
      | (intro _) | (with_reducible assumption) | (with_reducible apply endRecords_inCycle)
      | (with_reducible apply irq_inCycle) | (with_reducible apply modRing_inCycle)
      | (with_reducible exact InCycle.upd (by assumption) rfl rfl) | (with_reducible apply InCycle.ite)
      | (with_reducible refine InCycle.upd ?_ rfl rfl <;> first
          | (with_reducible apply endRecords_inCycle) | (with_reducible apply irq_inCycle)
          | (with_reducible apply modRing_inCycle))
      | split

theorem haltRing_inCycle (h : InCycle z s) : InCycle z (haltRing x1 x2 s) := by
  unfold haltRing
  try dsimp only
  repeat' first
      | (intro _) | (with_reducible assumption) | (with_reducible apply forEach_inCycle)
      | (with_reducible apply haltOne_inCycle) | (with_reducible exact InCycle.upd (by assumption) rfl rfl)
      | (with_reducible apply InCycle.ite)
      | (with_reducible refine InCycle.upd ?_ rfl rfl <;> first
          | (with_reducible apply forEach_inCycle) | (with_reducible apply haltOne_inCycle))
      | split

theorem settleBad_inCycle (h : InCycle z s) : InCycle z (settleBad x1 s) := by
  unfold settleBad
  try dsimp only
  repeat' first
      | (intro _) | (with_reducible assumption) | (with_reducible apply writeReport_inCycle)
      | (with_reducible apply modRing_inCycle) | (with_reducible exact InCycle.upd (by assumption) rfl rfl)
      | (with_reducible apply InCycle.ite)
      | (with_reducible refine InCycle.upd ?_ rfl rfl <;> first
          | (with_reducible apply writeReport_inCycle) | (with_reducible apply modRing_inCycle))
      | split

theorem placeOutput_inCycle (h : InCycle z s) : InCycle z (placeOutput x1 x2 x3 s) := by
  unfold placeOutput
  try dsimp only
  repeat' first
      | (intro _) | (with_reducible assumption) | (with_reducible apply insertDelay_inCycle)
      | (with_reducible exact InCycle.upd (by assumption) rfl rfl) | (with_reducible apply InCycle.ite)
      | (with_reducible refine InCycle.upd ?_ rfl rfl <;> first
          | (with_reducible apply insertDelay_inCycle))
      | split

theorem actInline_inCycle {a : Arm} {k : Nat} (h : InCycle z s) : InCycle z (actInline a k s) := by
  induction k generalizing s with
  | zero => exact h
  | succ k ih =>
    unfold actInline
    repeat' first
        | (intro _) | (with_reducible assumption) | (with_reducible apply ih) | (with_reducible apply report_inCycle)
        | (with_reducible apply modRing_inCycle) | (with_reducible apply placeOutput_inCycle)
        | (with_reducible exact InCycle.upd (by assumption) rfl rfl) | (with_reducible apply InCycle.ite) | split

theorem reachRdv_inCycle (h : InCycle z s) : InCycle z (reachRdv x1 x2 s) := by
  unfold reachRdv
  try dsimp only
  repeat' first
      | (intro _) | (with_reducible assumption) | (with_reducible apply setReg_inCycle) | (with_reducible apply count_inCycle)
      | (with_reducible apply report_inCycle) | (with_reducible apply haltRing_inCycle)
      | (with_reducible apply modRing_inCycle) | (with_reducible exact InCycle.upd (by assumption) rfl rfl)
      | (with_reducible apply InCycle.ite)
      | (with_reducible refine InCycle.upd ?_ rfl rfl <;> first
          | (with_reducible apply setReg_inCycle) | (with_reducible apply count_inCycle)
          | (with_reducible apply report_inCycle) | (with_reducible apply haltRing_inCycle)
          | (with_reducible apply modRing_inCycle))
      | split

theorem startWait_inCycle (h : InCycle z s) : InCycle z (startWait x1 s) := by
  unfold startWait
  try dsimp only
  repeat' first
      | (intro _) | (with_reducible assumption) | (with_reducible apply modRing_inCycle)
      | (with_reducible apply reachRdv_inCycle) | (with_reducible exact InCycle.upd (by assumption) rfl rfl)
      | (with_reducible apply InCycle.ite)
      | (with_reducible refine InCycle.upd ?_ rfl rfl <;> first
          | (with_reducible apply modRing_inCycle) | (with_reducible apply reachRdv_inCycle))
      | split

theorem afterCompletion_inCycle (h : InCycle z s) : InCycle z (afterCompletion x1 s) := by
  unfold afterCompletion
  try dsimp only
  repeat' first
      | (intro _) | (with_reducible assumption) | (with_reducible apply settleBad_inCycle)
      | (with_reducible apply startWait_inCycle) | (with_reducible apply actInline_inCycle)
      | (with_reducible exact InCycle.upd (by assumption) rfl rfl) | (with_reducible apply InCycle.ite)
      | (with_reducible refine InCycle.upd ?_ rfl rfl <;> first
          | (with_reducible apply settleBad_inCycle) | (with_reducible apply startWait_inCycle)
          | (with_reducible apply actInline_inCycle))
      | split

theorem stopAction_inCycle (h : InCycle z s) : InCycle z (stopAction x1 x2 s) := by
  unfold stopAction
  try dsimp only
  repeat' first
      | (intro _) | (with_reducible assumption) | (with_reducible apply modRing_inCycle) | (with_reducible apply irq_inCycle)
      | (with_reducible exact InCycle.upd (by assumption) rfl rfl) | (with_reducible apply InCycle.ite)
      | (with_reducible refine InCycle.upd ?_ rfl rfl <;> first
          | (with_reducible apply modRing_inCycle) | (with_reducible apply irq_inCycle))
      | split

theorem passRecord_inCycle (h : InCycle z s) : InCycle z (passRecord x1 x2 s) := by
  unfold passRecord
  try dsimp only
  repeat' first
      | (intro _) | (with_reducible assumption) | (with_reducible apply modRing_inCycle)
      | (with_reducible exact InCycle.upd (by assumption) rfl rfl) | (with_reducible apply InCycle.ite)
      | (with_reducible refine InCycle.upd ?_ rfl rfl <;> first
          | (with_reducible apply modRing_inCycle))
      | split

theorem finishRecord_inCycle (h : InCycle z s) : InCycle z (finishRecord x1 x2 s) := by
  unfold finishRecord
  try dsimp only
  repeat' first
      | (intro _) | (with_reducible assumption) | (with_reducible apply passRecord_inCycle)
      | (with_reducible apply countIf_inCycle) | (with_reducible apply report_inCycle)
      | (with_reducible apply stopAction_inCycle) | (with_reducible exact InCycle.upd (by assumption) rfl rfl)
      | (with_reducible apply InCycle.ite)
      | (with_reducible refine InCycle.upd ?_ rfl rfl <;> first
          | (with_reducible apply passRecord_inCycle) | (with_reducible apply countIf_inCycle)
          | (with_reducible apply report_inCycle) | (with_reducible apply stopAction_inCycle))
      | split

theorem completeRecord_inCycle (h : InCycle z s) : InCycle z (completeRecord x1 x2 s) := by
  unfold completeRecord
  try dsimp only
  repeat' first
      | (intro _) | (with_reducible assumption) | (with_reducible apply afterCompletion_inCycle)
      | (with_reducible apply finishRecord_inCycle) | (with_reducible exact InCycle.upd (by assumption) rfl rfl)
      | (with_reducible apply InCycle.ite)
      | (with_reducible refine InCycle.upd ?_ rfl rfl <;> first
          | (with_reducible apply afterCompletion_inCycle) | (with_reducible apply finishRecord_inCycle))
      | split

theorem recordCompletion_inCycle (h : InCycle z s) : InCycle z (recordCompletion x1 s) := by
  unfold recordCompletion
  try dsimp only
  repeat' first
      | (intro _) | (with_reducible assumption) | (with_reducible apply completeRecord_inCycle)
      | (with_reducible apply afterCompletion_inCycle) | (with_reducible exact InCycle.upd (by assumption) rfl rfl)
      | (with_reducible apply InCycle.ite)
      | (with_reducible refine InCycle.upd ?_ rfl rfl <;> first
          | (with_reducible apply completeRecord_inCycle) | (with_reducible apply afterCompletion_inCycle))
      | split

theorem takeSegment_inCycle (h : InCycle z s) : InCycle z (takeSegment x1 x2 x3 s) := by
  unfold takeSegment
  try dsimp only
  repeat' first
      | (intro _) | (with_reducible assumption) | (with_reducible exact InCycle.upd (by assumption) rfl rfl)
      | (with_reducible apply InCycle.ite)
      | split

theorem takeRecord_inCycle (h : InCycle z s) : InCycle z (takeRecord x1 x2 x3 s) := by
  unfold takeRecord
  try dsimp only
  repeat' first
      | (intro _) | (with_reducible assumption) | (with_reducible apply setReg_inCycle) | (with_reducible apply count_inCycle)
      | (with_reducible apply modRing_inCycle) | (with_reducible apply settleBad_inCycle)
      | (with_reducible apply haltRing_inCycle) | (with_reducible apply placeOutput_inCycle)
      | (with_reducible apply takeSegment_inCycle) | (with_reducible apply afterCompletion_inCycle)
      | (with_reducible exact InCycle.upd (by assumption) rfl rfl) | (with_reducible apply InCycle.ite)
      | (with_reducible refine InCycle.upd ?_ rfl rfl <;> first
          | (with_reducible apply setReg_inCycle) | (with_reducible apply count_inCycle)
          | (with_reducible apply modRing_inCycle) | (with_reducible apply settleBad_inCycle)
          | (with_reducible apply haltRing_inCycle) | (with_reducible apply placeOutput_inCycle)
          | (with_reducible apply takeSegment_inCycle) | (with_reducible apply afterCompletion_inCycle))
      | split

theorem takeVisible_inCycle {b : Nat} {a : Arm} {k : Nat} (h : InCycle z s) : InCycle z (takeVisible b a k s) := by
  induction k generalizing s with
  | zero => exact h
  | succ k ih =>
    unfold takeVisible
    repeat' first
        | (intro _) | (with_reducible assumption)
        | (with_reducible apply modRing_inCycle) | (with_reducible apply ih) | (with_reducible apply takeRecord_inCycle)
        | (with_reducible exact InCycle.upd (by assumption) rfl rfl) | (with_reducible apply InCycle.ite) | split

theorem starve_inCycle (h : InCycle z s) : InCycle z (starve x1 s) := by
  unfold starve
  try dsimp only
  repeat' first
      | (intro _) | (with_reducible assumption) | (with_reducible apply count_inCycle) | (with_reducible apply irq_inCycle)
      | (with_reducible apply modRing_inCycle) | (with_reducible exact InCycle.upd (by assumption) rfl rfl)
      | (with_reducible apply InCycle.ite)
      | (with_reducible refine InCycle.upd ?_ rfl rfl <;> first
          | (with_reducible apply count_inCycle) | (with_reducible apply irq_inCycle) | (with_reducible apply modRing_inCycle))
      | split

theorem restInLine_inCycle (h : InCycle z s) : InCycle z (restInLine x1 s) := by
  unfold restInLine
  try dsimp only
  repeat' first
      | (intro _) | (with_reducible assumption) | (with_reducible apply modRing_inCycle)
      | (with_reducible exact InCycle.upd (by assumption) rfl rfl) | (with_reducible apply InCycle.ite)
      | (with_reducible refine InCycle.upd ?_ rfl rfl <;> first
          | (with_reducible apply modRing_inCycle))
      | split

theorem beginRelease_inCycle (h : InCycle z s) : InCycle z (beginRelease x1 s) := by
  unfold beginRelease
  try dsimp only
  repeat' first
      | (intro _) | (with_reducible assumption) | (with_reducible apply modRing_inCycle)
      | (with_reducible exact InCycle.upd (by assumption) rfl rfl) | (with_reducible apply InCycle.ite)
      | (with_reducible refine InCycle.upd ?_ rfl rfl <;> first
          | (with_reducible apply modRing_inCycle))
      | split

theorem samplePath_inCycle (h : InCycle z s) : InCycle z (samplePath x1 s) := by
  unfold samplePath
  try dsimp only
  repeat' first
      | (intro _) | (with_reducible assumption) | (with_reducible apply afterCompletion_inCycle)
      | (with_reducible apply starve_inCycle) | (with_reducible apply restInLine_inCycle)
      | (with_reducible apply extendPath_inCycle) | (with_reducible apply beginRelease_inCycle)
      | (with_reducible exact InCycle.upd (by assumption) rfl rfl) | (with_reducible apply InCycle.ite)
      | (with_reducible refine InCycle.upd ?_ rfl rfl <;> first
          | (with_reducible apply afterCompletion_inCycle) | (with_reducible apply starve_inCycle)
          | (with_reducible apply restInLine_inCycle) | (with_reducible apply extendPath_inCycle)
          | (with_reducible apply beginRelease_inCycle))
      | split

theorem takeIn_inCycle (h : InCycle z s) : InCycle z (takeIn x1 s) := by
  unfold takeIn
  try dsimp only
  repeat' first
      | (intro _) | (with_reducible assumption) | (with_reducible apply samplePath_inCycle)
      | (with_reducible apply takeVisible_inCycle) | (with_reducible exact InCycle.upd (by assumption) rfl rfl)
      | (with_reducible apply InCycle.ite)
      | (with_reducible refine InCycle.upd ?_ rfl rfl <;> first
          | (with_reducible apply samplePath_inCycle) | (with_reducible apply takeVisible_inCycle))
      | split

theorem hostRecord_inCycle (h : InCycle z s) : InCycle z (hostRecord x1 x2 x3 s) := by
  unfold hostRecord
  try dsimp only
  repeat' first
      | (intro _) | (with_reducible assumption) | (with_reducible apply setReg_inCycle)
      | (with_reducible apply setBytes_inCycle) | (with_reducible exact InCycle.upd (by assumption) rfl rfl)
      | (with_reducible apply InCycle.ite)
      | (with_reducible refine InCycle.upd ?_ rfl rfl <;> first
          | (with_reducible apply setReg_inCycle) | (with_reducible apply setBytes_inCycle))
      | split

theorem recordCommand_inCycle (h : InCycle z s) : InCycle z (recordCommand x1 x2 x3 s) := by
  unfold recordCommand
  try dsimp only
  repeat' first
      | (intro _) | (with_reducible assumption) | (with_reducible apply hostRecord_inCycle)
      | (with_reducible apply takeIn_inCycle) | (with_reducible exact InCycle.upd (by assumption) rfl rfl)
      | (with_reducible apply InCycle.ite)
      | (with_reducible refine InCycle.upd ?_ rfl rfl <;> first
          | (with_reducible apply hostRecord_inCycle) | (with_reducible apply takeIn_inCycle))
      | split

theorem waitTimeEnd_inCycle (h : InCycle z s) : InCycle z (waitTimeEnd x1 s) := by
  unfold waitTimeEnd
  try dsimp only
  repeat' first
      | (intro _) | (with_reducible assumption) | (with_reducible apply completeRecord_inCycle)
      | (with_reducible exact InCycle.upd (by assumption) rfl rfl) | (with_reducible apply InCycle.ite)
      | (with_reducible refine InCycle.upd ?_ rfl rfl <;> first
          | (with_reducible apply completeRecord_inCycle))
      | split

theorem waitPhaseEnd_inCycle (h : InCycle z s) : InCycle z (waitPhaseEnd x1 s) := by
  unfold waitPhaseEnd
  try dsimp only
  repeat' first
      | (intro _) | (with_reducible assumption) | (with_reducible apply completeRecord_inCycle)
      | (with_reducible exact InCycle.upd (by assumption) rfl rfl) | (with_reducible apply InCycle.ite)
      | (with_reducible refine InCycle.upd ?_ rfl rfl <;> first
          | (with_reducible apply completeRecord_inCycle))
      | split

theorem waitInputEnd_inCycle (h : InCycle z s) : InCycle z (waitInputEnd x1 s) := by
  unfold waitInputEnd
  try dsimp only
  repeat' first
      | (intro _) | (with_reducible assumption) | (with_reducible apply completeRecord_inCycle)
      | (with_reducible exact InCycle.upd (by assumption) rfl rfl) | (with_reducible apply InCycle.ite)
      | (with_reducible refine InCycle.upd ?_ rfl rfl <;> first
          | (with_reducible apply completeRecord_inCycle))
      | split

theorem waitTimeout_inCycle (h : InCycle z s) : InCycle z (waitTimeout x1 s) := by
  unfold waitTimeout
  try dsimp only
  repeat' first
      | (intro _) | (with_reducible assumption) | (with_reducible apply report_inCycle) | (with_reducible apply count_inCycle)
      | (with_reducible apply modRing_inCycle) | (with_reducible apply afterCompletion_inCycle)
      | (with_reducible apply haltRing_inCycle) | (with_reducible exact InCycle.upd (by assumption) rfl rfl)
      | (with_reducible apply InCycle.ite)
      | (with_reducible refine InCycle.upd ?_ rfl rfl <;> first
          | (with_reducible apply report_inCycle) | (with_reducible apply count_inCycle)
          | (with_reducible apply modRing_inCycle) | (with_reducible apply afterCompletion_inCycle)
          | (with_reducible apply haltRing_inCycle))
      | split

theorem rdvCompletion_inCycle (h : InCycle z s) : InCycle z (rdvCompletion x1 s) := by
  unfold rdvCompletion
  try dsimp only
  repeat' first
      | (intro _) | (with_reducible assumption) | (with_reducible apply forEach_inCycle)
      | (with_reducible apply afterCompletion_inCycle) | (with_reducible apply finishRecord_inCycle)
      | (with_reducible apply modRing_inCycle) | (with_reducible exact InCycle.upd (by assumption) rfl rfl)
      | (with_reducible apply InCycle.ite)
      | (with_reducible refine InCycle.upd ?_ rfl rfl <;> first
          | (with_reducible apply forEach_inCycle) | (with_reducible apply afterCompletion_inCycle)
          | (with_reducible apply finishRecord_inCycle) | (with_reducible apply modRing_inCycle))
      | split

theorem writeWrIdx_inCycle (h : InCycle z s) : InCycle z (writeWrIdx x1 x2 s) := by
  unfold writeWrIdx
  try dsimp only
  repeat' first
      | (intro _) | (with_reducible assumption) | (with_reducible apply recordErr_inCycle) | (with_reducible apply chg_inCycle)
      | (with_reducible apply setReg_inCycle) | (with_reducible exact InCycle.upd (by assumption) rfl rfl)
      | (with_reducible apply InCycle.ite)
      | (with_reducible refine InCycle.upd ?_ rfl rfl <;> first
          | (with_reducible apply recordErr_inCycle) | (with_reducible apply chg_inCycle)
          | (with_reducible apply setReg_inCycle))
      | split

theorem writeRptRd_inCycle (h : InCycle z s) : InCycle z (writeRptRd x1 x2 s) := by
  unfold writeRptRd
  try dsimp only
  repeat' first
      | (intro _) | (with_reducible assumption) | (with_reducible apply recordErr_inCycle) | (with_reducible apply chg_inCycle)
      | (with_reducible apply setReg_inCycle) | (with_reducible exact InCycle.upd (by assumption) rfl rfl)
      | (with_reducible apply InCycle.ite)
      | (with_reducible refine InCycle.upd ?_ rfl rfl <;> first
          | (with_reducible apply recordErr_inCycle) | (with_reducible apply chg_inCycle)
          | (with_reducible apply setReg_inCycle))
      | split

theorem flushRing_inCycle (h : InCycle z s) : InCycle z (flushRing x1 s) := by
  unfold flushRing
  try dsimp only
  repeat' first
      | (intro _) | (with_reducible assumption) | (with_reducible apply writeReport_inCycle)
      | (with_reducible apply setReg_inCycle) | (with_reducible exact InCycle.upd (by assumption) rfl rfl)
      | (with_reducible apply InCycle.ite)
      | (with_reducible refine InCycle.upd ?_ rfl rfl <;> first
          | (with_reducible apply writeReport_inCycle) | (with_reducible apply setReg_inCycle))
      | split

theorem cmdFlush_inCycle (h : InCycle z s) : InCycle z (cmdFlush x1 s) := by
  unfold cmdFlush
  try dsimp only
  repeat' first
      | (intro _) | (with_reducible assumption) | (with_reducible apply flushRing_inCycle)
      | (with_reducible exact InCycle.upd (by assumption) rfl rfl) | (with_reducible apply InCycle.ite)
      | (with_reducible refine InCycle.upd ?_ rfl rfl <;> first
          | (with_reducible apply flushRing_inCycle))
      | split

theorem cmdResume_inCycle (h : InCycle z s) : InCycle z (cmdResume x1 s) := by
  unfold cmdResume
  try dsimp only
  repeat' first
      | (intro _) | (with_reducible assumption) | (with_reducible apply recordErr_inCycle)
      | (with_reducible apply modRing_inCycle) | (with_reducible exact InCycle.upd (by assumption) rfl rfl)
      | (with_reducible apply InCycle.ite)
      | (with_reducible refine InCycle.upd ?_ rfl rfl <;> first
          | (with_reducible apply recordErr_inCycle) | (with_reducible apply modRing_inCycle))
      | split

theorem cmdAbort_inCycle (h : InCycle z s) : InCycle z (cmdAbort x1 s) := by
  unfold cmdAbort
  try dsimp only
  repeat' first
      | (intro _) | (with_reducible assumption) | (with_reducible apply haltRing_inCycle)
      | (with_reducible exact InCycle.upd (by assumption) rfl rfl) | (with_reducible apply InCycle.ite)
      | (with_reducible refine InCycle.upd ?_ rfl rfl <;> first
          | (with_reducible apply haltRing_inCycle))
      | split

theorem writeArmCmd_inCycle (h : InCycle z s) : InCycle z (writeArmCmd x1 x2 s) := by
  unfold writeArmCmd
  try dsimp only
  repeat' first
      | (intro _) | (with_reducible assumption) | (with_reducible apply cmdAbort_inCycle)
      | (with_reducible apply cmdFlush_inCycle) | (with_reducible apply cmdResume_inCycle)
      | (with_reducible exact InCycle.upd (by assumption) rfl rfl) | (with_reducible apply InCycle.ite)
      | (with_reducible refine InCycle.upd ?_ rfl rfl <;> first
          | (with_reducible apply cmdAbort_inCycle) | (with_reducible apply cmdFlush_inCycle)
          | (with_reducible apply cmdResume_inCycle))
      | split

theorem armReset_inCycle (h : InCycle z s) : InCycle z (armReset x1 s) := by
  unfold armReset
  try dsimp only
  repeat' first
      | (intro _) | (with_reducible assumption) | (with_reducible apply modRing_inCycle)
      | (with_reducible apply setFlag_inCycle) | (with_reducible apply cmdAbort_inCycle)
      | (with_reducible exact InCycle.upd (by assumption) rfl rfl) | (with_reducible apply InCycle.ite)
      | (with_reducible refine InCycle.upd ?_ rfl rfl <;> first
          | (with_reducible apply modRing_inCycle) | (with_reducible apply setFlag_inCycle)
          | (with_reducible apply cmdAbort_inCycle))
      | split

theorem armResetDone_inCycle (h : InCycle z s) : InCycle z (armResetDone x1 s) := by
  unfold armResetDone
  try dsimp only
  repeat' first
      | (intro _) | (with_reducible assumption) | (with_reducible apply flushRing_inCycle)
      | (with_reducible apply settleBad_inCycle) | (with_reducible apply setFlag_inCycle)
      | (with_reducible apply resetRegs_inCycle) | (with_reducible apply modRing_inCycle)
      | (with_reducible exact InCycle.upd (by assumption) rfl rfl) | (with_reducible apply InCycle.ite)
      | (with_reducible refine InCycle.upd ?_ rfl rfl <;> first
          | (with_reducible apply flushRing_inCycle) | (with_reducible apply settleBad_inCycle)
          | (with_reducible apply setFlag_inCycle) | (with_reducible apply resetRegs_inCycle)
          | (with_reducible apply modRing_inCycle))
      | split

theorem applyOutput_inCycle (h : InCycle z s) : InCycle z (applyOutput x1 x2 s) := by
  unfold applyOutput
  try dsimp only
  repeat' first
      | (intro _) | (with_reducible assumption) | (with_reducible apply otherPulse_inCycle)
      | (with_reducible apply requestGo_inCycle) | (with_reducible apply setDriver_inCycle)
      | (with_reducible apply afterCompletion_inCycle) | (with_reducible apply report_inCycle)
      | (with_reducible exact InCycle.upd (by assumption) rfl rfl) | (with_reducible apply InCycle.ite)
      | (with_reducible refine InCycle.upd ?_ rfl rfl <;> first
          | (with_reducible apply otherPulse_inCycle) | (with_reducible apply requestGo_inCycle)
          | (with_reducible apply setDriver_inCycle) | (with_reducible apply afterCompletion_inCycle)
          | (with_reducible apply report_inCycle))
      | split

theorem freezeLine_inCycle (h : InCycle z s) : InCycle z (freezeLine x1 s) := by
  unfold freezeLine
  try dsimp only
  repeat' first
      | (intro _) | (with_reducible assumption) | (with_reducible apply forEach_inCycle)
      | (with_reducible apply modRing_inCycle) | (with_reducible apply haltRing_inCycle)
      | (with_reducible exact InCycle.upd (by assumption) rfl rfl) | (with_reducible apply InCycle.ite)
      | (with_reducible refine InCycle.upd ?_ rfl rfl <;> first
          | (with_reducible apply forEach_inCycle) | (with_reducible apply modRing_inCycle)
          | (with_reducible apply haltRing_inCycle))
      | split

end Sys2Proof.Machine
end

