-- ==== Sys2Proof/Laws/InCycleTimeScale.lean ====
section
/-! SUPPORT. What the operations of Machine/TimeScale.lean keep. -/

namespace Sys2Proof.Machine

variable {z s : State}

set_option linter.unusedTactic false
set_option linter.unreachableTactic false

theorem modPlay_inCycle (h : InCycle z s) : InCycle z (modPlay x1 x2 s) := by
  unfold modPlay
  try dsimp only
  repeat' first
      | (intro _) | (with_reducible assumption) | (with_reducible exact InCycle.upd (by assumption) rfl rfl)
      | (with_reducible apply InCycle.ite)
      | split

theorem startFall_inCycle (h : InCycle z s) : InCycle z (startFall x1 x2 s) := by
  unfold startFall
  try dsimp only
  repeat' first
      | (intro _) | (with_reducible assumption) | (with_reducible apply irqIf_inCycle) | (with_reducible apply modPlay_inCycle)
      | (with_reducible exact InCycle.upd (by assumption) rfl rfl) | (with_reducible apply InCycle.ite)
      | (with_reducible refine InCycle.upd ?_ rfl rfl <;> first
          | (with_reducible apply irqIf_inCycle) | (with_reducible apply modPlay_inCycle))
      | split

theorem startRise_inCycle (h : InCycle z s) : InCycle z (startRise x1 s) := by
  unfold startRise
  try dsimp only
  repeat' first
      | (intro _) | (with_reducible assumption) | (with_reducible apply modPlay_inCycle)
      | (with_reducible exact InCycle.upd (by assumption) rfl rfl) | (with_reducible apply InCycle.ite)
      | (with_reducible refine InCycle.upd ?_ rfl rfl <;> first
          | (with_reducible apply modPlay_inCycle))
      | split

theorem tickProfile_inCycle (h : InCycle z s) : InCycle z (tickProfile x1 s) := by
  unfold tickProfile
  try dsimp only
  repeat' first
      | (intro _) | (with_reducible assumption) | (with_reducible apply modPlay_inCycle)
      | (with_reducible exact InCycle.upd (by assumption) rfl rfl) | (with_reducible apply InCycle.ite)
      | (with_reducible refine InCycle.upd ?_ rfl rfl <;> first
          | (with_reducible apply modPlay_inCycle))
      | split

end Sys2Proof.Machine
end

