-- ==== Sys2Proof/Laws/InCycleServo.lean ====
section
/-! SUPPORT. What the operations of Machine/Servo.lean keep. -/

namespace Sys2Proof.Machine

variable {z s : State}

set_option linter.unusedTactic false
set_option linter.unreachableTactic false

theorem writePdata_inCycle (h : InCycle z s) : InCycle z (writePdata x1 s) := by
  unfold writePdata
  try dsimp only
  repeat' first
      | (intro _) | (with_reducible assumption) | (with_reducible apply modJoint_inCycle) | (with_reducible apply chg_inCycle)
      | (with_reducible apply setFld_inCycle) | (with_reducible exact InCycle.upd (by assumption) rfl rfl)
      | (with_reducible apply InCycle.ite)
      | (with_reducible refine InCycle.upd ?_ rfl rfl <;> first
          | (with_reducible apply modJoint_inCycle) | (with_reducible apply chg_inCycle)
          | (with_reducible apply setFld_inCycle))
      | split

theorem commitJoint_inCycle (h : InCycle z s) : InCycle z (commitJoint x1 s) := by
  unfold commitJoint
  try dsimp only
  repeat' first
      | (intro _) | (with_reducible assumption) | (with_reducible apply modJoint_inCycle)
      | (with_reducible exact InCycle.upd (by assumption) rfl rfl) | (with_reducible apply InCycle.ite)
      | (with_reducible refine InCycle.upd ?_ rfl rfl <;> first
          | (with_reducible apply modJoint_inCycle))
      | split

theorem writePcommit_inCycle (h : InCycle z s) : InCycle z (writePcommit x1 s) := by
  unfold writePcommit
  try dsimp only
  repeat' first
      | (intro _) | (with_reducible assumption) | (with_reducible apply count_inCycle) | (with_reducible apply forEach_inCycle)
      | (with_reducible apply commitJoint_inCycle) | (with_reducible apply recordErr_inCycle)
      | (with_reducible exact InCycle.upd (by assumption) rfl rfl) | (with_reducible apply InCycle.ite)
      | (with_reducible refine InCycle.upd ?_ rfl rfl <;> first
          | (with_reducible apply count_inCycle) | (with_reducible apply forEach_inCycle)
          | (with_reducible apply commitJoint_inCycle) | (with_reducible apply recordErr_inCycle))
      | split

theorem useCycles_inCycle (h : InCycle z s) : InCycle z (useCycles x1 x2 x3 s) := by
  unfold useCycles
  try dsimp only
  repeat' first
      | (intro _) | (with_reducible assumption) | (with_reducible exact InCycle.upd (by assumption) rfl rfl)
      | (with_reducible apply InCycle.ite)
      | split

theorem customerStage_inCycle {ff : Bool} {i b : Nat} {j : Fin 96} {x : State × List ChainFault}
    (h : InCycle z x.1) : InCycle z (customerStage ff i b j x).1 := by
  unfold customerStage
  dsimp only
  generalize kernelBank x.1 = o1
  generalize bankKernel x.1 i = o2
  cases o1 <;> cases o2 <;> dsimp only
  all_goals first
    | exact h
    | (split
       · exact modJoint_inCycle (useCycles_inCycle h)
       · exact kernelEnded_inCycle (modJoint_inCycle (modCore_inCycle (useCycles_inCycle h))))

theorem phaseAJoint_inCycle {j : Fin 96} {x : State × List ChainFault} (h : InCycle z x.1) : InCycle z (phaseAJoint j x).1 := by
  unfold phaseAJoint
  dsimp only
  have h1 : InCycle z (modJoint j (unpackJoint (x.1.sdp.fb[jointArm j]).present) (useCycles false (jointCore x.1 j.val) (libCycles 0) x.1)) :=
    modJoint_inCycle (useCycles_inCycle h)
  split
  · refine modJoint_inCycle (useCycles_inCycle ?_)
    split
    · exact customerStage_inCycle h1
    · exact modJoint_inCycle (useCycles_inCycle h1)
  · exact count_inCycle (useCycles_inCycle h1)

theorem recordFaults_inCycle (h : InCycle z s) : InCycle z (recordFaults x1 s) := by
  unfold recordFaults
  try dsimp only
  repeat' first
      | (intro _) | (with_reducible assumption) | (with_reducible apply forEach_inCycle)
      | (with_reducible apply recordKernelFault_inCycle) | (with_reducible exact InCycle.upd (by assumption) rfl rfl)
      | (with_reducible apply InCycle.ite)
      | (with_reducible refine InCycle.upd ?_ rfl rfl <;> first
          | (with_reducible apply forEach_inCycle) | (with_reducible apply recordKernelFault_inCycle))
      | split

theorem phaseOccupancy_inCycle (h : InCycle z s) : InCycle z (phaseOccupancy x1 x2 s) := by
  unfold phaseOccupancy
  try dsimp only
  repeat' first
      | (intro _) | (with_reducible assumption) | (with_reducible apply countPriv_inCycle)
      | (with_reducible exact InCycle.upd (by assumption) rfl rfl) | (with_reducible apply InCycle.ite)
      | (with_reducible refine InCycle.upd ?_ rfl rfl <;> first
          | (with_reducible apply countPriv_inCycle))
      | split

theorem noteSaturation_inCycle (h : InCycle z s) : InCycle z (noteSaturation s) := by
  unfold noteSaturation
  try dsimp only
  repeat' first
      | (intro _) | (with_reducible assumption) | (with_reducible apply countBy_inCycle) | (with_reducible apply irq_inCycle)
      | (with_reducible exact InCycle.upd (by assumption) rfl rfl) | (with_reducible apply InCycle.ite)
      | (with_reducible refine InCycle.upd ?_ rfl rfl <;> first
          | (with_reducible apply countBy_inCycle) | (with_reducible apply irq_inCycle))
      | split

theorem servoPhaseA_inCycle (h : InCycle z s) : InCycle z (servoPhaseA s) := by
  have fold : ∀ (l : List (Fin 96)) (x : State × List ChainFault), InCycle z x.1 →
      InCycle z (l.foldl (fun x j => phaseAJoint j x) x).1 := by
    intro l
    induction l with
    | nil => exact fun _ h => h
    | cons j l ih => exact fun x h => ih _ (phaseAJoint_inCycle h)
  unfold servoPhaseA
  dsimp only
  split
  · exact phaseOccupancy_inCycle (setReg_inCycle (noteSaturation_inCycle (recordFaults_inCycle (fold _ _ h))))
  · exact h

theorem advanceArm_inCycle (h : InCycle z s) : InCycle z (advanceArm x1 s) := by
  unfold advanceArm
  try dsimp only
  repeat' first
      | (intro _) | (with_reducible assumption) | (with_reducible apply countIf_inCycle)
      | (with_reducible apply modPlay_inCycle) | (with_reducible exact InCycle.upd (by assumption) rfl rfl)
      | (with_reducible apply InCycle.ite)
      | (with_reducible refine InCycle.upd ?_ rfl rfl <;> first
          | (with_reducible apply countIf_inCycle) | (with_reducible apply modPlay_inCycle))
      | split

theorem phaseBJoint_inCycle {j : Fin 96} {x : State × List ChainFault} (h : InCycle z x.1) : InCycle z (phaseBJoint j x).1 := by
  unfold phaseBJoint
  dsimp only
  refine modJoint_inCycle (useCycles_inCycle ?_)
  split
  · exact customerStage_inCycle (modJoint_inCycle (useCycles_inCycle h))
  · exact modJoint_inCycle (useCycles_inCycle (modJoint_inCycle (useCycles_inCycle h)))

theorem endPhaseB_inCycle (h : InCycle z s) : InCycle z (endPhaseB x1 s) := by
  unfold endPhaseB
  try dsimp only
  repeat' first
      | (intro _) | (with_reducible assumption) | (with_reducible apply modJoint_inCycle)
      | (with_reducible exact InCycle.upd (by assumption) rfl rfl) | (with_reducible apply InCycle.ite)
      | (with_reducible refine InCycle.upd ?_ rfl rfl <;> first
          | (with_reducible apply modJoint_inCycle))
      | split

theorem judgeRest_inCycle (h : InCycle z s) : InCycle z (judgeRest x1 s) := by
  unfold judgeRest
  try dsimp only
  repeat' first
      | (intro _) | (with_reducible assumption) | (with_reducible apply modPlay_inCycle)
      | (with_reducible exact InCycle.upd (by assumption) rfl rfl) | (with_reducible apply InCycle.ite)
      | (with_reducible refine InCycle.upd ?_ rfl rfl <;> first
          | (with_reducible apply modPlay_inCycle))
      | split

theorem servoPhaseB_inCycle (h : InCycle z s) : InCycle z (servoPhaseB s) := by
  have fold : ∀ (l : List (Fin 96)) (x : State × List ChainFault), InCycle z x.1 →
      InCycle z (l.foldl (fun x j => phaseBJoint j x) x).1 := by
    intro l
    induction l with
    | nil => exact fun _ h => h
    | cons j l ih => exact fun x h => ih _ (phaseBJoint_inCycle h)
  unfold servoPhaseB
  dsimp only
  split
  · generalize (allJoints.filter fun j => jointBound s j.val) = js
    have h0 : InCycle z (forEach allArms advanceArm s) := forEach_inCycle (fun a s k => advanceArm_inCycle k) h
    generalize forEach allArms advanceArm s = u at h0 ⊢
    have h1 := fold js (u, []) h0
    generalize hr : List.foldl _ _ _ = r at h1 ⊢
    with_reducible refine forEach_inCycle (fun a s k => judgeRest_inCycle k) (forEach_inCycle (fun a s k => endPhaseB_inCycle k) ?_)
    with_reducible exact phaseOccupancy_inCycle (setReg_inCycle (noteSaturation_inCycle (recordFaults_inCycle h1)))
  · exact h

theorem datapathSync_inCycle (h : InCycle z s) : InCycle z (datapathSync s) := by
  unfold datapathSync
  try dsimp only
  repeat' first
      | (intro _) | (with_reducible assumption) | (with_reducible exact InCycle.upd (by assumption) rfl rfl)
      | (with_reducible apply InCycle.ite)
      | split

theorem writeHaSeq_inCycle (h : InCycle z s) : InCycle z (writeHaSeq s) := by
  unfold writeHaSeq
  try dsimp only
  repeat' first
      | (intro _) | (with_reducible assumption) | (with_reducible exact InCycle.upd (by assumption) rfl rfl)
      | (with_reducible apply InCycle.ite)
      | split

theorem applyHostTorque_inCycle (h : InCycle z s) : InCycle z (applyHostTorque s) := by
  unfold applyHostTorque
  try dsimp only
  repeat' first
      | (intro _) | (with_reducible assumption) | (with_reducible exact InCycle.upd (by assumption) rfl rfl)
      | (with_reducible apply InCycle.ite)
      | split

theorem switchKernelBank_inCycle (h : InCycle z s) : InCycle z (switchKernelBank s) := by
  unfold switchKernelBank
  try dsimp only
  repeat' first
      | (intro _) | (with_reducible assumption) | (with_reducible apply count_inCycle) | (with_reducible apply irq_inCycle)
      | (with_reducible exact InCycle.upd (by assumption) rfl rfl) | (with_reducible apply InCycle.ite)
      | (with_reducible refine InCycle.upd ?_ rfl rfl <;> first
          | (with_reducible apply count_inCycle) | (with_reducible apply irq_inCycle))
      | split

theorem requestKernelSwitch_inCycle (h : InCycle z s) : InCycle z (requestKernelSwitch s) := by
  unfold requestKernelSwitch
  try dsimp only
  repeat' first
      | (intro _) | (with_reducible assumption) | (with_reducible apply recordErr_inCycle)
      | (with_reducible exact InCycle.upd (by assumption) rfl rfl) | (with_reducible apply InCycle.ite)
      | (with_reducible refine InCycle.upd ?_ rfl rfl <;> first
          | (with_reducible apply recordErr_inCycle))
      | split

end Sys2Proof.Machine
end

