-- ==== Sys2Proof/Laws/InCycleMantis.lean ====
section
/-! SUPPORT. What the operations of Machine/Mantis.lean keep. -/

namespace Sys2Proof.Machine

variable {z s : State}

set_option linter.unusedTactic false
set_option linter.unreachableTactic false

theorem modMnt_inCycle (h : InCycle z s) : InCycle z (modMnt x1 s) := by
  unfold modMnt
  try dsimp only
  repeat' first
      | (intro _) | (with_reducible assumption) | (with_reducible exact InCycle.upd (by assumption) rfl rfl)
      | (with_reducible apply InCycle.ite)
      | split

theorem modSrc_inCycle (h : InCycle z s) : InCycle z (modSrc x1 x2 s) := by
  unfold modSrc
  try dsimp only
  repeat' first
      | (intro _) | (with_reducible assumption) | (with_reducible apply modMnt_inCycle)
      | (with_reducible exact InCycle.upd (by assumption) rfl rfl) | (with_reducible apply InCycle.ite)
      | (with_reducible refine InCycle.upd ?_ rfl rfl <;> first
          | (with_reducible apply modMnt_inCycle))
      | split

theorem loseSource_inCycle (h : InCycle z s) : InCycle z (loseSource x1 s) := by
  unfold loseSource
  try dsimp only
  repeat' first
      | (intro _) | (with_reducible assumption) | (with_reducible apply count_inCycle) | (with_reducible apply irq_inCycle)
      | (with_reducible apply modSrc_inCycle) | (with_reducible exact InCycle.upd (by assumption) rfl rfl)
      | (with_reducible apply InCycle.ite)
      | (with_reducible refine InCycle.upd ?_ rfl rfl <;> first
          | (with_reducible apply count_inCycle) | (with_reducible apply irq_inCycle) | (with_reducible apply modSrc_inCycle))
      | split

theorem guardStep_guardMissing_inCycle {i : Sixteen} {d : GuardDef} (h : InCycle z s) :
    InCycle z (guardStep.guardMissing i d s) := by
  unfold guardStep.guardMissing
  dsimp only
  split
  · exact modSrc_inCycle h
  · split
    · exact loseSource_inCycle (count_inCycle (irq_inCycle (modSrc_inCycle h)))
    · exact count_inCycle (irq_inCycle (modSrc_inCycle h))

theorem guardStep_inCycle {i : Sixteen} (h : InCycle z s) : InCycle z (guardStep i s) := by
  unfold guardStep
  split
  · exact h
  · dsimp only
    split
    · split
      · exact count_inCycle (modSrc_inCycle h)
      · exact guardStep_guardMissing_inCycle (count_inCycle (modSrc_inCycle h))
    · exact guardStep_guardMissing_inCycle (modSrc_inCycle h)

theorem guardSourceLost_inCycle (h : InCycle z s) : InCycle z (guardSourceLost x1 s) := by
  unfold guardSourceLost
  try dsimp only
  repeat' first
      | (intro _) | (with_reducible assumption) | (with_reducible apply loseSource_inCycle)
      | (with_reducible apply count_inCycle) | (with_reducible apply irq_inCycle) | (with_reducible apply modSrc_inCycle)
      | (with_reducible exact InCycle.upd (by assumption) rfl rfl) | (with_reducible apply InCycle.ite)
      | (with_reducible refine InCycle.upd ?_ rfl rfl <;> first
          | (with_reducible apply loseSource_inCycle) | (with_reducible apply count_inCycle)
          | (with_reducible apply irq_inCycle) | (with_reducible apply modSrc_inCycle))
      | split

theorem passPair_inCycle {b : MantisBank} {js : Vector Int 96} {v1 : Vector F32 12} {e : Nat × Pair}
    {x : State × List PairResult × Vector Reduced 12} (h : InCycle z x.1) : InCycle z (passPair b js v1 e x).1 := by
  obtain ⟨s, rs, red⟩ := x
  unfold passPair
  dsimp only at h ⊢
  repeat' first
      | (with_reducible assumption) | (with_reducible apply countIf_inCycle) | (with_reducible apply count_inCycle)
      | (with_reducible apply irq_inCycle) | (with_reducible apply InCycle.ite) | split

theorem passHost_inCycle {b : MantisBank} {js : Vector Int 96} {v1 : Vector F32 12} {t : Nat} {v : Nat × Volume}
    {x : State × Vector Reduced 12} (h : InCycle z x.1) : InCycle z (passHost b js v1 t v x).1 := by
  unfold passHost
  exact countIf_inCycle (countIf_inCycle (irqIf_inCycle h))

theorem publishScale_inCycle (h : InCycle z s) : InCycle z (publishScale x1 x2 s) := by
  unfold publishScale
  try dsimp only
  repeat' first
      | (intro _) | (with_reducible assumption) | (with_reducible apply irqIf_inCycle) | (with_reducible apply countIf_inCycle)
      | (with_reducible apply modMnt_inCycle) | (with_reducible exact InCycle.upd (by assumption) rfl rfl)
      | (with_reducible apply InCycle.ite)
      | (with_reducible refine InCycle.upd ?_ rfl rfl <;> first
          | (with_reducible apply irqIf_inCycle) | (with_reducible apply countIf_inCycle)
          | (with_reducible apply modMnt_inCycle))
      | split

theorem slsStep_inCycle (h : InCycle z s) : InCycle z (slsStep x1 s) := by
  unfold slsStep
  try dsimp only
  repeat' first
      | (intro _) | (with_reducible assumption) | (with_reducible exact InCycle.upd (by assumption) rfl rfl)
      | (with_reducible apply InCycle.ite)
      | split

theorem foldl_inCycle {α β : Type} {f : State × β → α → State × β} (hf : ∀ x a, InCycle z x.1 → InCycle z (f x a).1) (l : List α)
    (x : State × β) (h : InCycle z x.1) : InCycle z (l.foldl f x).1 := by
  induction l generalizing x with
  | nil => exact h
  | cons a l ih => exact ih _ (hf x a h)

theorem mantisPass_inCycle (h : InCycle z s) : InCycle z (mantisPass s) := by
  unfold mantisPass
  split
  · exact h
  · dsimp only
    with_reducible apply count_inCycle
    with_reducible apply forEach_inCycle
    · intro a s k; exact slsStep_inCycle k
    with_reducible apply modMnt_inCycle
    with_reducible apply forEach_inCycle
    · intro a s k; exact publishScale_inCycle k
    with_reducible apply modMnt_inCycle
    generalize hs0 : forEach allArms _ (forEach allSixteen guardStep s) = s0
    have h0 : InCycle z s0 := by
      rw [← hs0]
      with_reducible apply forEach_inCycle
      · intro a s k; exact countIf_inCycle k
      with_reducible apply forEach_inCycle
      · intro a s k; exact guardStep_inCycle k
      exact h
    generalize hr : List.foldl (fun x e => passPair _ _ _ e x) _ _ = r
    have h1 : InCycle z r.1 := by
      rw [← hr]; exact foldl_inCycle (fun x e k => passPair_inCycle k) _ _ h0
    generalize hv : List.foldl _ (r.1, r.2.2) _ = v
    have h2 : InCycle z v.1 := by
      rw [← hv]
      exact foldl_inCycle (fun x t k => foldl_inCycle (fun x v k => passHost_inCycle k) _ _ k) _ _ h1
    split
    · exact drawFree_inCycle h2
    · exact h2

theorem writeHtData_inCycle (h : InCycle z s) : InCycle z (writeHtData x1 s) := by
  unfold writeHtData
  try dsimp only
  repeat' first
      | (intro _) | (with_reducible assumption) | (with_reducible apply modMnt_inCycle) | (with_reducible apply chg_inCycle)
      | (with_reducible apply setReg_inCycle) | (with_reducible apply recordErr_inCycle)
      | (with_reducible exact InCycle.upd (by assumption) rfl rfl) | (with_reducible apply InCycle.ite)
      | (with_reducible refine InCycle.upd ?_ rfl rfl <;> first
          | (with_reducible apply modMnt_inCycle) | (with_reducible apply chg_inCycle) | (with_reducible apply setReg_inCycle)
          | (with_reducible apply recordErr_inCycle))
      | split

theorem writeHtCommit_inCycle (h : InCycle z s) : InCycle z (writeHtCommit s) := by
  unfold writeHtCommit
  try dsimp only
  repeat' first
      | (intro _) | (with_reducible assumption) | (with_reducible apply modMnt_inCycle)
      | (with_reducible apply recordErr_inCycle) | (with_reducible exact InCycle.upd (by assumption) rfl rfl)
      | (with_reducible apply InCycle.ite)
      | (with_reducible refine InCycle.upd ?_ rfl rfl <;> first
          | (with_reducible apply modMnt_inCycle) | (with_reducible apply recordErr_inCycle))
      | split

theorem htLifeExpiry_inCycle (h : InCycle z s) : InCycle z (htLifeExpiry s) := by
  unfold htLifeExpiry
  try dsimp only
  repeat' first
      | (intro _) | (with_reducible assumption) | (with_reducible apply haLate_inCycle) | (with_reducible apply modMnt_inCycle)
      | (with_reducible exact InCycle.upd (by assumption) rfl rfl) | (with_reducible apply InCycle.ite)
      | (with_reducible refine InCycle.upd ?_ rfl rfl <;> first
          | (with_reducible apply haLate_inCycle) | (with_reducible apply modMnt_inCycle))
      | split

theorem htSync_inCycle (h : InCycle z s) : InCycle z (htSync s) := by
  unfold htSync
  try dsimp only
  repeat' first
      | (intro _) | (with_reducible assumption) | (with_reducible apply modMnt_inCycle)
      | (with_reducible exact InCycle.upd (by assumption) rfl rfl) | (with_reducible apply InCycle.ite)
      | (with_reducible refine InCycle.upd ?_ rfl rfl <;> first
          | (with_reducible apply modMnt_inCycle))
      | split

theorem requestMantisSwitch_inCycle (h : InCycle z s) : InCycle z (requestMantisSwitch s) := by
  unfold requestMantisSwitch
  try dsimp only
  repeat' first
      | (intro _) | (with_reducible assumption) | (with_reducible apply recordErr_inCycle)
      | (with_reducible apply refuseForLog_inCycle) | (with_reducible apply modMnt_inCycle)
      | (with_reducible exact InCycle.upd (by assumption) rfl rfl) | (with_reducible apply InCycle.ite)
      | (with_reducible refine InCycle.upd ?_ rfl rfl <;> first
          | (with_reducible apply recordErr_inCycle) | (with_reducible apply refuseForLog_inCycle)
          | (with_reducible apply modMnt_inCycle))
      | split

theorem switchMantisBank_inCycle (h : InCycle z s) : InCycle z (switchMantisBank s) := by
  unfold switchMantisBank
  try dsimp only
  repeat' first
      | (intro _) | (with_reducible assumption) | (with_reducible apply modMnt_inCycle) | (with_reducible apply count_inCycle)
      | (with_reducible apply irq_inCycle) | (with_reducible exact InCycle.upd (by assumption) rfl rfl)
      | (with_reducible apply InCycle.ite)
      | (with_reducible refine InCycle.upd ?_ rfl rfl <;> first
          | (with_reducible apply modMnt_inCycle) | (with_reducible apply count_inCycle) | (with_reducible apply irq_inCycle))
      | split

end Sys2Proof.Machine
end

