-- ==== Sys2Proof/Laws/InCycleStops.lean ====
section
/-! SUPPORT. What the operations of Machine/Stops.lean keep. -/

namespace Sys2Proof.Machine

variable {z s : State}

set_option linter.unusedTactic false
set_option linter.unreachableTactic false

theorem modSaf_inCycle (h : InCycle z s) : InCycle z (modSaf x1 s) := by
  unfold modSaf
  try dsimp only
  repeat' first
      | (intro _) | (with_reducible assumption) | (with_reducible exact InCycle.upd (by assumption) rfl rfl)
      | (with_reducible apply InCycle.ite)
      | split

theorem modArmSaf_inCycle (h : InCycle z s) : InCycle z (modArmSaf x1 x2 s) := by
  unfold modArmSaf
  try dsimp only
  repeat' first
      | (intro _) | (with_reducible assumption) | (with_reducible apply modSaf_inCycle)
      | (with_reducible exact InCycle.upd (by assumption) rfl rfl) | (with_reducible apply InCycle.ite)
      | (with_reducible refine InCycle.upd ?_ rfl rfl <;> first
          | (with_reducible apply modSaf_inCycle))
      | split

theorem modOut_inCycle (h : InCycle z s) : InCycle z (modOut x1 s) := by
  unfold modOut
  try dsimp only
  repeat' first
      | (intro _) | (with_reducible assumption) | (with_reducible apply modSaf_inCycle)
      | (with_reducible exact InCycle.upd (by assumption) rfl rfl) | (with_reducible apply InCycle.ite)
      | (with_reducible refine InCycle.upd ?_ rfl rfl <;> first
          | (with_reducible apply modSaf_inCycle))
      | split

theorem releaseSo_inCycle (h : InCycle z s) : InCycle z (releaseSo s) := by
  unfold releaseSo
  try dsimp only
  repeat' first
      | (intro _) | (with_reducible assumption) | (with_reducible apply modOut_inCycle)
      | (with_reducible exact InCycle.upd (by assumption) rfl rfl) | (with_reducible apply InCycle.ite)
      | (with_reducible refine InCycle.upd ?_ rfl rfl <;> first
          | (with_reducible apply modOut_inCycle))
      | split

theorem noteDemand_inCycle (h : InCycle z s) : InCycle z (noteDemand x1 x2 s) := by
  unfold noteDemand
  try dsimp only
  repeat' first
      | (intro _) | (with_reducible assumption) | (with_reducible apply modSaf_inCycle)
      | (with_reducible exact InCycle.upd (by assumption) rfl rfl) | (with_reducible apply InCycle.ite)
      | (with_reducible refine InCycle.upd ?_ rfl rfl <;> first
          | (with_reducible apply modSaf_inCycle))
      | split

theorem meetTest_inCycle (h : InCycle z s) : InCycle z (meetTest x1 s) := by
  unfold meetTest
  try dsimp only
  repeat' first
      | (intro _) | (with_reducible assumption) | (with_reducible apply modSaf_inCycle)
      | (with_reducible exact InCycle.upd (by assumption) rfl rfl) | (with_reducible apply InCycle.ite)
      | (with_reducible refine InCycle.upd ?_ rfl rfl <;> first
          | (with_reducible apply modSaf_inCycle))
      | split

theorem pairOff_inCycle (h : InCycle z s) : InCycle z (pairOff x1 s) := by
  unfold pairOff
  try dsimp only
  repeat' first
      | (intro _) | (with_reducible assumption) | (with_reducible apply meetTest_inCycle)
      | (with_reducible apply modOut_inCycle) | (with_reducible exact InCycle.upd (by assumption) rfl rfl)
      | (with_reducible apply InCycle.ite)
      | (with_reducible refine InCycle.upd ?_ rfl rfl <;> first
          | (with_reducible apply meetTest_inCycle) | (with_reducible apply modOut_inCycle))
      | split

theorem brakeOn_inCycle (h : InCycle z s) : InCycle z (brakeOn x1 s) := by
  unfold brakeOn
  try dsimp only
  repeat' first
      | (intro _) | (with_reducible assumption) | (with_reducible apply modOut_inCycle)
      | (with_reducible exact InCycle.upd (by assumption) rfl rfl) | (with_reducible apply InCycle.ite)
      | (with_reducible refine InCycle.upd ?_ rfl rfl <;> first
          | (with_reducible apply modOut_inCycle))
      | split

theorem dropPlan_inCycle (h : InCycle z s) : InCycle z (dropPlan x1 s) := by
  unfold dropPlan
  try dsimp only
  repeat' first
      | (intro _) | (with_reducible assumption) | (with_reducible apply dropPath_inCycle)
      | (with_reducible apply forEach_inCycle) | (with_reducible apply modJoint_inCycle)
      | (with_reducible apply modPlay_inCycle) | (with_reducible exact InCycle.upd (by assumption) rfl rfl)
      | (with_reducible apply InCycle.ite)
      | (with_reducible refine InCycle.upd ?_ rfl rfl <;> first
          | (with_reducible apply dropPath_inCycle) | (with_reducible apply forEach_inCycle)
          | (with_reducible apply modJoint_inCycle) | (with_reducible apply modPlay_inCycle))
      | split

theorem stopRing_inCycle (h : InCycle z s) : InCycle z (stopRing x1 s) := by
  unfold stopRing
  try dsimp only
  repeat' first
      | (intro _) | (with_reducible assumption) | (with_reducible apply haltOne_inCycle)
      | (with_reducible exact InCycle.upd (by assumption) rfl rfl) | (with_reducible apply InCycle.ite)
      | (with_reducible refine InCycle.upd ?_ rfl rfl <;> first
          | (with_reducible apply haltOne_inCycle))
      | split

theorem stoArm_inCycle (h : InCycle z s) : InCycle z (stoArm x1 x2 s) := by
  unfold stoArm
  try dsimp only
  repeat' first
      | (intro _) | (with_reducible assumption) | (with_reducible apply count_inCycle) | (with_reducible apply irq_inCycle)
      | (with_reducible apply brakeOn_inCycle) | (with_reducible apply pairOff_inCycle)
      | (with_reducible apply modArmSaf_inCycle) | (with_reducible apply dropPlan_inCycle)
      | (with_reducible apply stopRing_inCycle) | (with_reducible exact InCycle.upd (by assumption) rfl rfl)
      | (with_reducible apply InCycle.ite)
      | (with_reducible refine InCycle.upd ?_ rfl rfl <;> first
          | (with_reducible apply count_inCycle) | (with_reducible apply irq_inCycle) | (with_reducible apply brakeOn_inCycle)
          | (with_reducible apply pairOff_inCycle) | (with_reducible apply modArmSaf_inCycle)
          | (with_reducible apply dropPlan_inCycle) | (with_reducible apply stopRing_inCycle))
      | split

theorem decideSto_inCycle (h : InCycle z s) : InCycle z (decideSto x1 x2 s) := by
  unfold decideSto
  try dsimp only
  repeat' first
      | (intro _) | (with_reducible assumption) | (with_reducible apply forEach_inCycle)
      | (with_reducible apply stoArm_inCycle) | (with_reducible apply noteDemand_inCycle)
      | (with_reducible exact InCycle.upd (by assumption) rfl rfl) | (with_reducible apply InCycle.ite)
      | (with_reducible refine InCycle.upd ?_ rfl rfl <;> first
          | (with_reducible apply forEach_inCycle) | (with_reducible apply stoArm_inCycle)
          | (with_reducible apply noteDemand_inCycle))
      | split

theorem ss1Arm_inCycle (h : InCycle z s) : InCycle z (ss1Arm x1 x2 s) := by
  unfold ss1Arm
  try dsimp only
  repeat' first
      | (intro _) | (with_reducible assumption) | (with_reducible apply count_inCycle) | (with_reducible apply irq_inCycle)
      | (with_reducible apply modArmSaf_inCycle) | (with_reducible apply modPlay_inCycle)
      | (with_reducible apply stopRing_inCycle) | (with_reducible exact InCycle.upd (by assumption) rfl rfl)
      | (with_reducible apply InCycle.ite)
      | (with_reducible refine InCycle.upd ?_ rfl rfl <;> first
          | (with_reducible apply count_inCycle) | (with_reducible apply irq_inCycle)
          | (with_reducible apply modArmSaf_inCycle) | (with_reducible apply modPlay_inCycle)
          | (with_reducible apply stopRing_inCycle))
      | split

theorem demandSs1_inCycle (h : InCycle z s) : InCycle z (demandSs1 x1 x2 s) := by
  unfold demandSs1
  try dsimp only
  repeat' first
      | (intro _) | (with_reducible assumption) | (with_reducible apply forEach_inCycle)
      | (with_reducible apply ss1Arm_inCycle) | (with_reducible apply noteDemand_inCycle)
      | (with_reducible apply drawFree_inCycle) | (with_reducible exact InCycle.upd (by assumption) rfl rfl)
      | (with_reducible apply InCycle.ite)
      | (with_reducible refine InCycle.upd ?_ rfl rfl <;> first
          | (with_reducible apply forEach_inCycle) | (with_reducible apply ss1Arm_inCycle)
          | (with_reducible apply noteDemand_inCycle) | (with_reducible apply drawFree_inCycle))
      | split

theorem cellSs1_inCycle (h : InCycle z s) : InCycle z (cellSs1 x1 s) := by
  unfold cellSs1
  try dsimp only
  repeat' first
      | (intro _) | (with_reducible assumption) | (with_reducible apply forEach_inCycle)
      | (with_reducible apply ss1Arm_inCycle) | (with_reducible apply noteDemand_inCycle)
      | (with_reducible apply drawFree_inCycle) | (with_reducible exact InCycle.upd (by assumption) rfl rfl)
      | (with_reducible apply InCycle.ite)
      | (with_reducible refine InCycle.upd ?_ rfl rfl <;> first
          | (with_reducible apply forEach_inCycle) | (with_reducible apply ss1Arm_inCycle)
          | (with_reducible apply noteDemand_inCycle) | (with_reducible apply drawFree_inCycle))
      | split

theorem cellSto_inCycle (h : InCycle z s) : InCycle z (cellSto x1 s) := by
  unfold cellSto
  try dsimp only
  repeat' first
      | (intro _) | (with_reducible assumption) | (with_reducible apply forEach_inCycle)
      | (with_reducible apply stoArm_inCycle) | (with_reducible apply noteDemand_inCycle)
      | (with_reducible exact InCycle.upd (by assumption) rfl rfl) | (with_reducible apply InCycle.ite)
      | (with_reducible refine InCycle.upd ?_ rfl rfl <;> first
          | (with_reducible apply forEach_inCycle) | (with_reducible apply stoArm_inCycle)
          | (with_reducible apply noteDemand_inCycle))
      | split

theorem startSs1_inCycle (h : InCycle z s) : InCycle z (startSs1 x1 s) := by
  unfold startSs1
  try dsimp only
  repeat' first
      | (intro _) | (with_reducible assumption) | (with_reducible apply modPlay_inCycle)
      | (with_reducible apply modArmSaf_inCycle) | (with_reducible apply startFall_inCycle)
      | (with_reducible exact InCycle.upd (by assumption) rfl rfl) | (with_reducible apply InCycle.ite)
      | (with_reducible refine InCycle.upd ?_ rfl rfl <;> first
          | (with_reducible apply modPlay_inCycle) | (with_reducible apply modArmSaf_inCycle)
          | (with_reducible apply startFall_inCycle))
      | split

theorem envelopeTest_inCycle (h : InCycle z s) : InCycle z (envelopeTest x1 s) := by
  unfold envelopeTest
  try dsimp only
  repeat' first
      | (intro _) | (with_reducible assumption) | (with_reducible apply decideSto_inCycle)
      | (with_reducible apply count_inCycle) | (with_reducible apply irq_inCycle)
      | (with_reducible exact InCycle.upd (by assumption) rfl rfl) | (with_reducible apply InCycle.ite)
      | (with_reducible refine InCycle.upd ?_ rfl rfl <;> first
          | (with_reducible apply decideSto_inCycle) | (with_reducible apply count_inCycle)
          | (with_reducible apply irq_inCycle))
      | split

theorem stillStep_inCycle (h : InCycle z s) : InCycle z (stillStep x1 s) := by
  unfold stillStep
  try dsimp only
  repeat' first
      | (intro _) | (with_reducible assumption) | (with_reducible apply modArmSaf_inCycle)
      | (with_reducible exact InCycle.upd (by assumption) rfl rfl) | (with_reducible apply InCycle.ite)
      | (with_reducible refine InCycle.upd ?_ rfl rfl <;> first
          | (with_reducible apply modArmSaf_inCycle))
      | split

theorem standstill_inCycle (h : InCycle z s) : InCycle z (standstill x1 s) := by
  unfold standstill
  try dsimp only
  repeat' first
      | (intro _) | (with_reducible assumption) | (with_reducible apply count_inCycle) | (with_reducible apply irq_inCycle)
      | (with_reducible apply pairOff_inCycle) | (with_reducible apply dropPlan_inCycle)
      | (with_reducible apply modArmSaf_inCycle) | (with_reducible exact InCycle.upd (by assumption) rfl rfl)
      | (with_reducible apply InCycle.ite)
      | (with_reducible refine InCycle.upd ?_ rfl rfl <;> first
          | (with_reducible apply count_inCycle) | (with_reducible apply irq_inCycle) | (with_reducible apply pairOff_inCycle)
          | (with_reducible apply dropPlan_inCycle) | (with_reducible apply modArmSaf_inCycle))
      | split

theorem sbcDelayExpiry_inCycle (h : InCycle z s) : InCycle z (sbcDelayExpiry x1 s) := by
  unfold sbcDelayExpiry
  try dsimp only
  repeat' first
      | (intro _) | (with_reducible assumption) | (with_reducible apply modArmSaf_inCycle)
      | (with_reducible apply brakeOn_inCycle) | (with_reducible exact InCycle.upd (by assumption) rfl rfl)
      | (with_reducible apply InCycle.ite)
      | (with_reducible refine InCycle.upd ?_ rfl rfl <;> first
          | (with_reducible apply modArmSaf_inCycle) | (with_reducible apply brakeOn_inCycle))
      | split

theorem ss1TimeLimit_inCycle (h : InCycle z s) : InCycle z (ss1TimeLimit x1 s) := by
  unfold ss1TimeLimit
  try dsimp only
  repeat' first
      | (intro _) | (with_reducible assumption) | (with_reducible apply decideSto_inCycle)
      | (with_reducible apply count_inCycle) | (with_reducible apply irq_inCycle)
      | (with_reducible exact InCycle.upd (by assumption) rfl rfl) | (with_reducible apply InCycle.ite)
      | (with_reducible refine InCycle.upd ?_ rfl rfl <;> first
          | (with_reducible apply decideSto_inCycle) | (with_reducible apply count_inCycle)
          | (with_reducible apply irq_inCycle))
      | split

theorem feedbackLostSs1_inCycle (h : InCycle z s) : InCycle z (feedbackLostSs1 x1 s) := by
  unfold feedbackLostSs1
  try dsimp only
  repeat' first
      | (intro _) | (with_reducible assumption) | (with_reducible apply demandSs1_inCycle)
      | (with_reducible apply count_inCycle) | (with_reducible exact InCycle.upd (by assumption) rfl rfl)
      | (with_reducible apply InCycle.ite)
      | (with_reducible refine InCycle.upd ?_ rfl rfl <;> first
          | (with_reducible apply demandSs1_inCycle) | (with_reducible apply count_inCycle))
      | split

theorem feedbackLostSto_inCycle (h : InCycle z s) : InCycle z (feedbackLostSto x1 s) := by
  unfold feedbackLostSto
  try dsimp only
  repeat' first
      | (intro _) | (with_reducible assumption) | (with_reducible apply decideSto_inCycle)
      | (with_reducible apply count_inCycle) | (with_reducible exact InCycle.upd (by assumption) rfl rfl)
      | (with_reducible apply InCycle.ite)
      | (with_reducible refine InCycle.upd ?_ rfl rfl <;> first
          | (with_reducible apply decideSto_inCycle) | (with_reducible apply count_inCycle))
      | split

theorem slsViolation_inCycle (h : InCycle z s) : InCycle z (slsViolation x1 s) := by
  unfold slsViolation
  try dsimp only
  repeat' first
      | (intro _) | (with_reducible assumption) | (with_reducible apply demandSs1_inCycle)
      | (with_reducible apply count_inCycle) | (with_reducible apply irq_inCycle)
      | (with_reducible exact InCycle.upd (by assumption) rfl rfl) | (with_reducible apply InCycle.ite)
      | (with_reducible refine InCycle.upd ?_ rfl rfl <;> first
          | (with_reducible apply demandSs1_inCycle) | (with_reducible apply count_inCycle)
          | (with_reducible apply irq_inCycle))
      | split

theorem safetyVote_inCycle (h : InCycle z s) : InCycle z (safetyVote x1 s) := by
  unfold safetyVote
  try dsimp only
  repeat' first
      | (intro _) | (with_reducible assumption) | (with_reducible apply forEach_inCycle)
      | (with_reducible apply foldDigest_inCycle) | (with_reducible apply count_inCycle)
      | (with_reducible apply decideSto_inCycle) | (with_reducible apply demandSs1_inCycle)
      | (with_reducible apply cellSto_inCycle) | (with_reducible apply cellSs1_inCycle)
      | (with_reducible exact InCycle.upd (by assumption) rfl rfl) | (with_reducible apply InCycle.ite)
      | (with_reducible refine InCycle.upd ?_ rfl rfl <;> first
          | (with_reducible apply forEach_inCycle) | (with_reducible apply foldDigest_inCycle)
          | (with_reducible apply count_inCycle) | (with_reducible apply decideSto_inCycle)
          | (with_reducible apply demandSs1_inCycle) | (with_reducible apply cellSto_inCycle)
          | (with_reducible apply cellSs1_inCycle))
      | split

theorem lanesLost_inCycle (h : InCycle z s) : InCycle z (lanesLost s) := by
  unfold lanesLost
  try dsimp only
  repeat' first
      | (intro _) | (with_reducible assumption) | (with_reducible apply cellSto_inCycle)
      | (with_reducible apply cellSs1_inCycle) | (with_reducible exact InCycle.upd (by assumption) rfl rfl)
      | (with_reducible apply InCycle.ite)
      | (with_reducible refine InCycle.upd ?_ rfl rfl <;> first
          | (with_reducible apply cellSto_inCycle) | (with_reducible apply cellSs1_inCycle))
      | split

theorem resetArm_inCycle (h : InCycle z s) : InCycle z (resetArm x1 s) := by
  unfold resetArm
  try dsimp only
  repeat' first
      | (intro _) | (with_reducible assumption) | (with_reducible apply count_inCycle)
      | (with_reducible apply drawFree_inCycle) | (with_reducible apply irq_inCycle) | (with_reducible apply brakeOn_inCycle)
      | (with_reducible apply modOut_inCycle) | (with_reducible apply modSaf_inCycle) | (with_reducible apply dropPlan_inCycle)
      | (with_reducible apply modArmSaf_inCycle) | (with_reducible exact InCycle.upd (by assumption) rfl rfl)
      | (with_reducible apply InCycle.ite)
      | (with_reducible refine InCycle.upd ?_ rfl rfl <;> first
          | (with_reducible apply count_inCycle) | (with_reducible apply drawFree_inCycle) | (with_reducible apply irq_inCycle)
          | (with_reducible apply brakeOn_inCycle) | (with_reducible apply modOut_inCycle)
          | (with_reducible apply modSaf_inCycle) | (with_reducible apply dropPlan_inCycle)
          | (with_reducible apply modArmSaf_inCycle))
      | split

theorem clearInputFaults_inCycle (h : InCycle z s) : InCycle z (clearInputFaults s) := by
  unfold clearInputFaults
  try dsimp only
  repeat' first
      | (intro _) | (with_reducible assumption) | (with_reducible apply modSaf_inCycle)
      | (with_reducible exact InCycle.upd (by assumption) rfl rfl) | (with_reducible apply InCycle.ite)
      | (with_reducible refine InCycle.upd ?_ rfl rfl <;> first
          | (with_reducible apply modSaf_inCycle))
      | split

theorem actReset_inCycle (h : InCycle z s) : InCycle z (actReset x1 s) := by
  unfold actReset
  try dsimp only
  repeat' first
      | (intro _) | (with_reducible assumption) | (with_reducible apply clearInputFaults_inCycle)
      | (with_reducible apply count_inCycle) | (with_reducible apply forEach_inCycle) | (with_reducible apply drawFree_inCycle)
      | (with_reducible apply modOut_inCycle) | (with_reducible apply releaseSo_inCycle)
      | (with_reducible apply resetArm_inCycle) | (with_reducible exact InCycle.upd (by assumption) rfl rfl)
      | (with_reducible apply InCycle.ite)
      | (with_reducible refine InCycle.upd ?_ rfl rfl <;> first
          | (with_reducible apply clearInputFaults_inCycle) | (with_reducible apply count_inCycle)
          | (with_reducible apply forEach_inCycle) | (with_reducible apply drawFree_inCycle)
          | (with_reducible apply modOut_inCycle) | (with_reducible apply releaseSo_inCycle)
          | (with_reducible apply resetArm_inCycle))
      | split

theorem outputsSync_inCycle (h : InCycle z s) : InCycle z (outputsSync s) := by
  unfold outputsSync
  try dsimp only
  repeat' first
      | (intro _) | (with_reducible assumption) | (with_reducible apply releaseSo_inCycle)
      | (with_reducible apply modOut_inCycle) | (with_reducible apply forEach_inCycle)
      | (with_reducible exact InCycle.upd (by assumption) rfl rfl) | (with_reducible apply InCycle.ite)
      | (with_reducible refine InCycle.upd ?_ rfl rfl <;> first
          | (with_reducible apply releaseSo_inCycle) | (with_reducible apply modOut_inCycle)
          | (with_reducible apply forEach_inCycle))
      | split

end Sys2Proof.Machine
end

