-- ==== Sys2Proof/Laws/InCycleQp.lean ====
section
/-! SUPPORT. What the operations of Machine/Qp.lean keep. -/

namespace Sys2Proof.Machine

variable {z s : State}

set_option linter.unusedTactic false
set_option linter.unreachableTactic false

theorem modPlf_inCycle (h : InCycle z s) : InCycle z (modPlf x1 s) := by
  unfold modPlf
  try dsimp only
  repeat' first
      | (intro _) | (with_reducible assumption) | (with_reducible exact InCycle.upd (by assumption) rfl rfl)
      | (with_reducible apply InCycle.ite)
      | split

theorem predictStage0_inCycle (h : InCycle z s) : InCycle z (predictStage0 x1 s) := by
  unfold predictStage0
  try dsimp only
  repeat' first
      | (intro _) | (with_reducible assumption) | (with_reducible apply modPlf_inCycle)
      | (with_reducible apply modPlay_inCycle) | (with_reducible exact InCycle.upd (by assumption) rfl rfl)
      | (with_reducible apply InCycle.ite)
      | (with_reducible refine InCycle.upd ?_ rfl rfl <;> first
          | (with_reducible apply modPlf_inCycle) | (with_reducible apply modPlay_inCycle))
      | split

theorem restStage0_inCycle (h : InCycle z s) : InCycle z (restStage0 x1 s) := by
  unfold restStage0
  try dsimp only
  repeat' first
      | (intro _) | (with_reducible assumption) | (with_reducible apply modPlay_inCycle)
      | (with_reducible exact InCycle.upd (by assumption) rfl rfl) | (with_reducible apply InCycle.ite)
      | (with_reducible refine InCycle.upd ?_ rfl rfl <;> first
          | (with_reducible apply modPlay_inCycle))
      | split

end Sys2Proof.Machine
end

