-- ==== Sys2Proof/Laws/InCyclePlefin.lean ====
section
/-! SUPPORT. What the operations of Machine/Plefin.lean keep. -/

namespace Sys2Proof.Machine

variable {z s : State}

set_option linter.unusedTactic false
set_option linter.unreachableTactic false

theorem modIdent_inCycle (h : InCycle z s) : InCycle z (modIdent x1 x2 s) := by
  unfold modIdent
  try dsimp only
  repeat' first
      | (intro _) | (with_reducible assumption) | (with_reducible exact InCycle.upd (by assumption) rfl rfl)
      | (with_reducible apply InCycle.ite)
      | split

theorem recordSplice_inCycle (h : InCycle z s) : InCycle z (recordSplice x1 x2 s) := by
  unfold recordSplice
  try dsimp only
  repeat' first
      | (intro _) | (with_reducible assumption) | (with_reducible apply setReg_inCycle)
      | (with_reducible apply countIf_inCycle) | (with_reducible exact InCycle.upd (by assumption) rfl rfl)
      | (with_reducible apply InCycle.ite)
      | (with_reducible refine InCycle.upd ?_ rfl rfl <;> first
          | (with_reducible apply setReg_inCycle) | (with_reducible apply countIf_inCycle))
      | split

theorem takeOver_inCycle (h : InCycle z s) : InCycle z (takeOver x1 s) := by
  unfold takeOver
  try dsimp only
  repeat' first
      | (intro _) | (with_reducible assumption) | (with_reducible apply recordSplice_inCycle)
      | (with_reducible apply modPlay_inCycle) | (with_reducible exact InCycle.upd (by assumption) rfl rfl)
      | (with_reducible apply InCycle.ite)
      | (with_reducible refine InCycle.upd ?_ rfl rfl <;> first
          | (with_reducible apply recordSplice_inCycle) | (with_reducible apply modPlay_inCycle))
      | split

theorem mergeDirect_inCycle (h : InCycle z s) : InCycle z (mergeDirect x1 s) := by
  unfold mergeDirect
  try dsimp only
  repeat' first
      | (intro _) | (with_reducible assumption) | (with_reducible apply modPlay_inCycle)
      | (with_reducible exact InCycle.upd (by assumption) rfl rfl) | (with_reducible apply InCycle.ite)
      | (with_reducible refine InCycle.upd ?_ rfl rfl <;> first
          | (with_reducible apply modPlay_inCycle))
      | split

theorem directStart_inCycle (h : InCycle z s) : InCycle z (directStart x1 s) := by
  unfold directStart
  try dsimp only
  repeat' first
      | (intro _) | (with_reducible assumption) | (with_reducible apply startRise_inCycle)
      | (with_reducible apply modPlay_inCycle) | (with_reducible apply haLate_inCycle)
      | (with_reducible exact InCycle.upd (by assumption) rfl rfl) | (with_reducible apply InCycle.ite)
      | (with_reducible refine InCycle.upd ?_ rfl rfl <;> first
          | (with_reducible apply startRise_inCycle) | (with_reducible apply modPlay_inCycle)
          | (with_reducible apply haLate_inCycle))
      | split

theorem holdStart_inCycle (h : InCycle z s) : InCycle z (holdStart x1 s) := by
  unfold holdStart
  try dsimp only
  repeat' first
      | (intro _) | (with_reducible assumption) | (with_reducible apply irq_inCycle) | (with_reducible apply modPlay_inCycle)
      | (with_reducible apply startFall_inCycle) | (with_reducible exact InCycle.upd (by assumption) rfl rfl)
      | (with_reducible apply InCycle.ite)
      | (with_reducible refine InCycle.upd ?_ rfl rfl <;> first
          | (with_reducible apply irq_inCycle) | (with_reducible apply modPlay_inCycle)
          | (with_reducible apply startFall_inCycle))
      | split

theorem holdStep_inCycle (h : InCycle z s) : InCycle z (holdStep s) := by
  unfold holdStep
  try dsimp only
  repeat' first
      | (intro _) | (with_reducible assumption) | (with_reducible apply forEach_inCycle)
      | (with_reducible apply holdStart_inCycle) | (with_reducible apply countIf_inCycle)
      | (with_reducible exact InCycle.upd (by assumption) rfl rfl) | (with_reducible apply InCycle.ite)
      | (with_reducible refine InCycle.upd ?_ rfl rfl <;> first
          | (with_reducible apply forEach_inCycle) | (with_reducible apply holdStart_inCycle)
          | (with_reducible apply countIf_inCycle))
      | split

theorem restartIdent_inCycle (h : InCycle z s) : InCycle z (restartIdent x1 s) := by
  unfold restartIdent
  try dsimp only
  repeat' first
      | (intro _) | (with_reducible assumption) | (with_reducible apply modIdent_inCycle)
      | (with_reducible exact InCycle.upd (by assumption) rfl rfl) | (with_reducible apply InCycle.ite)
      | (with_reducible refine InCycle.upd ?_ rfl rfl <;> first
          | (with_reducible apply modIdent_inCycle))
      | split

theorem toolStart_inCycle (h : InCycle z s) : InCycle z (toolStart x1 s) := by
  unfold toolStart
  try dsimp only
  repeat' first
      | (intro _) | (with_reducible assumption) | (with_reducible apply restartIdent_inCycle)
      | (with_reducible apply modRing_inCycle) | (with_reducible exact InCycle.upd (by assumption) rfl rfl)
      | (with_reducible apply InCycle.ite)
      | (with_reducible refine InCycle.upd ?_ rfl rfl <;> first
          | (with_reducible apply restartIdent_inCycle) | (with_reducible apply modRing_inCycle))
      | split

theorem haStart_inCycle (h : InCycle z s) : InCycle z (haStart x1 s) := by
  unfold haStart
  try dsimp only
  repeat' first
      | (intro _) | (with_reducible assumption) | (with_reducible apply modIdent_inCycle) | (with_reducible apply irq_inCycle)
      | (with_reducible exact InCycle.upd (by assumption) rfl rfl) | (with_reducible apply InCycle.ite)
      | (with_reducible refine InCycle.upd ?_ rfl rfl <;> first
          | (with_reducible apply modIdent_inCycle) | (with_reducible apply irq_inCycle))
      | split

theorem kinHaExpiry_inCycle (h : InCycle z s) : InCycle z (kinHaExpiry x1 s) := by
  unfold kinHaExpiry
  try dsimp only
  repeat' first
      | (intro _) | (with_reducible assumption) | (with_reducible apply haLate_inCycle)
      | (with_reducible apply modIdent_inCycle) | (with_reducible exact InCycle.upd (by assumption) rfl rfl)
      | (with_reducible apply InCycle.ite)
      | (with_reducible refine InCycle.upd ?_ rfl rfl <;> first
          | (with_reducible apply haLate_inCycle) | (with_reducible apply modIdent_inCycle))
      | split

theorem setIdStat_inCycle (h : InCycle z s) : InCycle z (setIdStat x1 x2 s) := by
  unfold setIdStat
  try dsimp only
  repeat' first
      | (intro _) | (with_reducible assumption) | (with_reducible apply setFld_inCycle)
      | (with_reducible exact InCycle.upd (by assumption) rfl rfl) | (with_reducible apply InCycle.ite)
      | (with_reducible refine InCycle.upd ?_ rfl rfl <;> first
          | (with_reducible apply setFld_inCycle))
      | split

theorem identUpdate_inCycle (h : InCycle z s) : InCycle z (identUpdate x1 s) := by
  unfold identUpdate
  try dsimp only
  repeat' first
      | (intro _) | (with_reducible assumption) | (with_reducible apply count_inCycle)
      | (with_reducible apply setIdStat_inCycle) | (with_reducible apply setFld_inCycle)
      | (with_reducible apply setReg_inCycle) | (with_reducible apply setFlag_inCycle) | (with_reducible apply irq_inCycle)
      | (with_reducible apply modIdent_inCycle) | (with_reducible exact InCycle.upd (by assumption) rfl rfl)
      | (with_reducible apply InCycle.ite)
      | (with_reducible refine InCycle.upd ?_ rfl rfl <;> first
          | (with_reducible apply count_inCycle) | (with_reducible apply setIdStat_inCycle)
          | (with_reducible apply setFld_inCycle) | (with_reducible apply setReg_inCycle)
          | (with_reducible apply setFlag_inCycle) | (with_reducible apply irq_inCycle)
          | (with_reducible apply modIdent_inCycle))
      | split

theorem cspStart_inCycle (h : InCycle z s) : InCycle z (cspStart x1 s) := by
  unfold cspStart
  try dsimp only
  repeat' first
      | (intro _) | (with_reducible assumption) | (with_reducible apply countIf_inCycle)
      | (with_reducible apply modPlay_inCycle) | (with_reducible exact InCycle.upd (by assumption) rfl rfl)
      | (with_reducible apply InCycle.ite)
      | (with_reducible refine InCycle.upd ?_ rfl rfl <;> first
          | (with_reducible apply countIf_inCycle) | (with_reducible apply modPlay_inCycle))
      | split

theorem latchPlan_inCycle (h : InCycle z s) : InCycle z (latchPlan s) := by
  unfold latchPlan
  try dsimp only
  repeat' first
      | (intro _) | (with_reducible assumption) | (with_reducible apply modPlf_inCycle)
      | (with_reducible exact InCycle.upd (by assumption) rfl rfl) | (with_reducible apply InCycle.ite)
      | (with_reducible refine InCycle.upd ?_ rfl rfl <;> first
          | (with_reducible apply modPlf_inCycle))
      | split

theorem beginPlan_inCycle (h : InCycle z s) : InCycle z (beginPlan s) := by
  unfold beginPlan
  try dsimp only
  repeat' first
      | (intro _) | (with_reducible assumption) | (with_reducible apply modPlf_inCycle)
      | (with_reducible exact InCycle.upd (by assumption) rfl rfl) | (with_reducible apply InCycle.ite)
      | (with_reducible refine InCycle.upd ?_ rfl rfl <;> first
          | (with_reducible apply modPlf_inCycle))
      | split

theorem pinAhead_inCycle (h : InCycle z s) : InCycle z (pinAhead x1 s) := by
  unfold pinAhead
  try dsimp only
  repeat' first
      | (intro _) | (with_reducible assumption) | (with_reducible apply modPlf_inCycle)
      | (with_reducible exact InCycle.upd (by assumption) rfl rfl) | (with_reducible apply InCycle.ite)
      | (with_reducible refine InCycle.upd ?_ rfl rfl <;> first
          | (with_reducible apply modPlf_inCycle))
      | split

theorem directTake_inCycle (h : InCycle z s) : InCycle z (directTake x1 s) := by
  unfold directTake
  try dsimp only
  repeat' first
      | (intro _) | (with_reducible assumption) | (with_reducible apply directStart_inCycle)
      | (with_reducible apply takeIn_inCycle) | (with_reducible apply mergeDirect_inCycle)
      | (with_reducible exact InCycle.upd (by assumption) rfl rfl) | (with_reducible apply InCycle.ite)
      | (with_reducible refine InCycle.upd ?_ rfl rfl <;> first
          | (with_reducible apply directStart_inCycle) | (with_reducible apply takeIn_inCycle)
          | (with_reducible apply mergeDirect_inCycle))
      | split

theorem hardwareTake_inCycle (h : InCycle z s) : InCycle z (hardwareTake x1 s) := by
  unfold hardwareTake
  try dsimp only
  repeat' first
      | (intro _) | (with_reducible assumption) | (with_reducible apply takeIn_inCycle)
      | (with_reducible exact InCycle.upd (by assumption) rfl rfl) | (with_reducible apply InCycle.ite)
      | (with_reducible refine InCycle.upd ?_ rfl rfl <;> first
          | (with_reducible apply takeIn_inCycle))
      | split

theorem planStart_inCycle (h : InCycle z s) : InCycle z (planStart s) := by
  unfold planStart
  try dsimp only
  repeat' first
      | (intro _) | (with_reducible assumption) | (with_reducible apply forEach_inCycle)
      | (with_reducible apply takeOver_inCycle) | (with_reducible apply setReg_inCycle)
      | (with_reducible apply haStart_inCycle) | (with_reducible apply toolStart_inCycle)
      | (with_reducible apply cspStart_inCycle) | (with_reducible apply holdStep_inCycle)
      | (with_reducible apply directTake_inCycle) | (with_reducible apply predictStage0_inCycle)
      | (with_reducible apply latchPlan_inCycle) | (with_reducible apply beginPlan_inCycle)
      | (with_reducible apply pinAhead_inCycle) | (with_reducible apply hardwareTake_inCycle)
      | (with_reducible exact InCycle.upd (by assumption) rfl rfl) | (with_reducible apply InCycle.ite)
      | (with_reducible refine InCycle.upd ?_ rfl rfl <;> first
          | (with_reducible apply forEach_inCycle) | (with_reducible apply takeOver_inCycle)
          | (with_reducible apply setReg_inCycle) | (with_reducible apply haStart_inCycle)
          | (with_reducible apply toolStart_inCycle) | (with_reducible apply cspStart_inCycle)
          | (with_reducible apply holdStep_inCycle) | (with_reducible apply directTake_inCycle)
          | (with_reducible apply predictStage0_inCycle) | (with_reducible apply latchPlan_inCycle)
          | (with_reducible apply beginPlan_inCycle) | (with_reducible apply pinAhead_inCycle)
          | (with_reducible apply hardwareTake_inCycle))
      | split

theorem fillSlots_inCycle (h : InCycle z s) : InCycle z (fillSlots x1 x2 x3 s) := by
  unfold fillSlots
  try dsimp only
  repeat' first
      | (intro _) | (with_reducible assumption) | (with_reducible apply modPlf_inCycle) | (with_reducible apply setReg_inCycle)
      | (with_reducible apply count_inCycle) | (with_reducible apply irq_inCycle)
      | (with_reducible exact InCycle.upd (by assumption) rfl rfl) | (with_reducible apply InCycle.ite)
      | (with_reducible refine InCycle.upd ?_ rfl rfl <;> first
          | (with_reducible apply modPlf_inCycle) | (with_reducible apply setReg_inCycle)
          | (with_reducible apply count_inCycle) | (with_reducible apply irq_inCycle))
      | split

theorem fillAll_inCycle (h : InCycle z s) : InCycle z (fillAll x1 s) := by
  unfold fillAll
  try dsimp only
  repeat' first
      | (intro _) | (with_reducible assumption) | (with_reducible apply modPlf_inCycle)
      | (with_reducible apply forEach_inCycle) | (with_reducible apply fillSlots_inCycle)
      | (with_reducible exact InCycle.upd (by assumption) rfl rfl) | (with_reducible apply InCycle.ite)
      | (with_reducible refine InCycle.upd ?_ rfl rfl <;> first
          | (with_reducible apply modPlf_inCycle) | (with_reducible apply forEach_inCycle)
          | (with_reducible apply fillSlots_inCycle))
      | split

theorem takeNormals_inCycle (h : InCycle z s) : InCycle z (takeNormals x1 s) := by
  unfold takeNormals
  try dsimp only
  repeat' first
      | (intro _) | (with_reducible assumption) | (with_reducible apply modPlf_inCycle)
      | (with_reducible exact InCycle.upd (by assumption) rfl rfl) | (with_reducible apply InCycle.ite)
      | (with_reducible refine InCycle.upd ?_ rfl rfl <;> first
          | (with_reducible apply modPlf_inCycle))
      | split

theorem linearise_inCycle (h : InCycle z s) : InCycle z (linearise x1 x2 s) := by
  unfold linearise
  try dsimp only
  repeat' first
      | (intro _) | (with_reducible assumption) | (with_reducible apply countBy_inCycle)
      | (with_reducible apply modPlf_inCycle) | (with_reducible exact InCycle.upd (by assumption) rfl rfl)
      | (with_reducible apply InCycle.ite)
      | (with_reducible refine InCycle.upd ?_ rfl rfl <;> first
          | (with_reducible apply countBy_inCycle) | (with_reducible apply modPlf_inCycle))
      | split

theorem warmStart_inCycle (h : InCycle z s) : InCycle z (warmStart s) := by
  unfold warmStart
  try dsimp only
  repeat' first
      | (intro _) | (with_reducible assumption) | (with_reducible apply forEach_inCycle)
      | (with_reducible apply restStage0_inCycle) | (with_reducible apply modPlf_inCycle)
      | (with_reducible apply fillAll_inCycle) | (with_reducible apply linearise_inCycle)
      | (with_reducible apply takeNormals_inCycle) | (with_reducible exact InCycle.upd (by assumption) rfl rfl)
      | (with_reducible apply InCycle.ite)
      | (with_reducible refine InCycle.upd ?_ rfl rfl <;> first
          | (with_reducible apply forEach_inCycle) | (with_reducible apply restStage0_inCycle)
          | (with_reducible apply modPlf_inCycle) | (with_reducible apply fillAll_inCycle)
          | (with_reducible apply linearise_inCycle) | (with_reducible apply takeNormals_inCycle))
      | split

theorem recordStep_inCycle (h : InCycle z s) : InCycle z (recordStep x1 s) := by
  unfold recordStep
  try dsimp only
  repeat' first
      | (intro _) | (with_reducible assumption) | (with_reducible apply countBy_inCycle)
      | (with_reducible apply setReg_inCycle) | (with_reducible apply irqIf_inCycle) | (with_reducible apply count_inCycle)
      | (with_reducible apply irq_inCycle) | (with_reducible apply countIf_inCycle) | (with_reducible apply modPlf_inCycle)
      | (with_reducible exact InCycle.upd (by assumption) rfl rfl) | (with_reducible apply InCycle.ite)
      | (with_reducible refine InCycle.upd ?_ rfl rfl <;> first
          | (with_reducible apply countBy_inCycle) | (with_reducible apply setReg_inCycle)
          | (with_reducible apply irqIf_inCycle) | (with_reducible apply count_inCycle) | (with_reducible apply irq_inCycle)
          | (with_reducible apply countIf_inCycle) | (with_reducible apply modPlf_inCycle))
      | split

theorem interiorPointStep_inCycle (h : InCycle z s) : InCycle z (interiorPointStep s) := by
  unfold interiorPointStep
  try dsimp only
  repeat' first
      | (intro _) | (with_reducible assumption) | (with_reducible apply recordStep_inCycle)
      | (with_reducible apply modPlf_inCycle) | (with_reducible exact InCycle.upd (by assumption) rfl rfl)
      | (with_reducible apply InCycle.ite)
      | (with_reducible refine InCycle.upd ?_ rfl rfl <;> first
          | (with_reducible apply recordStep_inCycle) | (with_reducible apply modPlf_inCycle))
      | split

theorem progressWord_inCycle (h : InCycle z s) : InCycle z (progressWord x1 x2 x3 s) := by
  unfold progressWord
  try dsimp only
  repeat' first
      | (intro _) | (with_reducible assumption) | (with_reducible apply modPlf_inCycle)
      | (with_reducible exact InCycle.upd (by assumption) rfl rfl) | (with_reducible apply InCycle.ite)
      | (with_reducible refine InCycle.upd ?_ rfl rfl <;> first
          | (with_reducible apply modPlf_inCycle))
      | split

theorem planStatus_inCycle (h : InCycle z s) : InCycle z (planStatus x1 x2 x3 x4 x5 s) := by
  unfold planStatus
  try dsimp only
  repeat' first
      | (intro _) | (with_reducible assumption) | (with_reducible apply setReg_inCycle)
      | (with_reducible exact InCycle.upd (by assumption) rfl rfl) | (with_reducible apply InCycle.ite)
      | (with_reducible refine InCycle.upd ?_ rfl rfl <;> first
          | (with_reducible apply setReg_inCycle))
      | split

theorem rejectPlan_inCycle (h : InCycle z s) : InCycle z (rejectPlan s) := by
  unfold rejectPlan
  try dsimp only
  repeat' first
      | (intro _) | (with_reducible assumption) | (with_reducible apply count_inCycle) | (with_reducible apply irq_inCycle)
      | (with_reducible apply setFld_inCycle) | (with_reducible apply forEach_inCycle) | (with_reducible apply modPlay_inCycle)
      | (with_reducible exact InCycle.upd (by assumption) rfl rfl) | (with_reducible apply InCycle.ite)
      | (with_reducible refine InCycle.upd ?_ rfl rfl <;> first
          | (with_reducible apply count_inCycle) | (with_reducible apply irq_inCycle) | (with_reducible apply setFld_inCycle)
          | (with_reducible apply forEach_inCycle) | (with_reducible apply modPlay_inCycle))
      | split

theorem acceptPlan_inCycle (h : InCycle z s) : InCycle z (acceptPlan x1 x2 x3 s) := by
  unfold acceptPlan
  try dsimp only
  repeat' first
      | (intro _) | (with_reducible assumption) | (with_reducible apply count_inCycle) | (with_reducible apply setFld_inCycle)
      | (with_reducible apply modPlf_inCycle) | (with_reducible apply forEach_inCycle) | (with_reducible apply countIf_inCycle)
      | (with_reducible apply setReg_inCycle) | (with_reducible apply modPlay_inCycle)
      | (with_reducible exact InCycle.upd (by assumption) rfl rfl) | (with_reducible apply InCycle.ite)
      | (with_reducible refine InCycle.upd ?_ rfl rfl <;> first
          | (with_reducible apply count_inCycle) | (with_reducible apply setFld_inCycle)
          | (with_reducible apply modPlf_inCycle) | (with_reducible apply forEach_inCycle)
          | (with_reducible apply countIf_inCycle) | (with_reducible apply setReg_inCycle)
          | (with_reducible apply modPlay_inCycle))
      | split

theorem deadlineAgreement_inCycle (h : InCycle z s) : InCycle z (deadlineAgreement s) := by
  unfold deadlineAgreement
  try dsimp only
  repeat' first
      | (intro _) | (with_reducible assumption) | (with_reducible apply recordStep_inCycle)
      | (with_reducible apply planStatus_inCycle) | (with_reducible apply countIf_inCycle)
      | (with_reducible apply acceptPlan_inCycle) | (with_reducible apply rejectPlan_inCycle)
      | (with_reducible apply modPlf_inCycle) | (with_reducible exact InCycle.upd (by assumption) rfl rfl)
      | (with_reducible apply InCycle.ite)
      | (with_reducible refine InCycle.upd ?_ rfl rfl <;> first
          | (with_reducible apply recordStep_inCycle) | (with_reducible apply planStatus_inCycle)
          | (with_reducible apply countIf_inCycle) | (with_reducible apply acceptPlan_inCycle)
          | (with_reducible apply rejectPlan_inCycle) | (with_reducible apply modPlf_inCycle))
      | split

theorem scaledStop_inCycle (h : InCycle z s) : InCycle z (scaledStop x1 s) := by
  unfold scaledStop
  try dsimp only
  repeat' first
      | (intro _) | (with_reducible assumption) | (with_reducible apply count_inCycle) | (with_reducible apply irq_inCycle)
      | (with_reducible apply haltOne_inCycle) | (with_reducible apply startFall_inCycle)
      | (with_reducible apply modPlay_inCycle) | (with_reducible exact InCycle.upd (by assumption) rfl rfl)
      | (with_reducible apply InCycle.ite)
      | (with_reducible refine InCycle.upd ?_ rfl rfl <;> first
          | (with_reducible apply count_inCycle) | (with_reducible apply irq_inCycle) | (with_reducible apply haltOne_inCycle)
          | (with_reducible apply startFall_inCycle) | (with_reducible apply modPlay_inCycle))
      | split

theorem timeScaleStop_inCycle (h : InCycle z s) : InCycle z (timeScaleStop x1 s) := by
  unfold timeScaleStop
  dsimp only
  split
  · exact forEach_inCycle (fun _ _ k => scaledStop_inCycle k) h
  · exact h

theorem timeScaleStopEnd_inCycle (h : InCycle z s) : InCycle z (timeScaleStopEnd x1 s) := by
  unfold timeScaleStopEnd
  try dsimp only
  repeat' first
      | (intro _) | (with_reducible assumption) | (with_reducible apply modPlay_inCycle)
      | (with_reducible apply dropPlan_inCycle) | (with_reducible exact InCycle.upd (by assumption) rfl rfl)
      | (with_reducible apply InCycle.ite)
      | (with_reducible refine InCycle.upd ?_ rfl rfl <;> first
          | (with_reducible apply modPlay_inCycle) | (with_reducible apply dropPlan_inCycle))
      | split

theorem tailExhausted_inCycle (h : InCycle z s) : InCycle z (tailExhausted x1 s) := by
  unfold tailExhausted
  try dsimp only
  repeat' first
      | (intro _) | (with_reducible assumption) | (with_reducible apply decideSto_inCycle)
      | (with_reducible exact InCycle.upd (by assumption) rfl rfl) | (with_reducible apply InCycle.ite)
      | (with_reducible refine InCycle.upd ?_ rfl rfl <;> first
          | (with_reducible apply decideSto_inCycle))
      | split

theorem requestPatternSwitch_inCycle (h : InCycle z s) : InCycle z (requestPatternSwitch s) := by
  unfold requestPatternSwitch
  try dsimp only
  repeat' first
      | (intro _) | (with_reducible assumption) | (with_reducible apply recordErr_inCycle)
      | (with_reducible apply modPlf_inCycle) | (with_reducible exact InCycle.upd (by assumption) rfl rfl)
      | (with_reducible apply InCycle.ite)
      | (with_reducible refine InCycle.upd ?_ rfl rfl <;> first
          | (with_reducible apply recordErr_inCycle) | (with_reducible apply modPlf_inCycle))
      | split

theorem switchPattern_inCycle (h : InCycle z s) : InCycle z (switchPattern s) := by
  unfold switchPattern
  try dsimp only
  repeat' first
      | (intro _) | (with_reducible assumption) | (with_reducible apply count_inCycle) | (with_reducible apply irq_inCycle)
      | (with_reducible apply modPlf_inCycle) | (with_reducible exact InCycle.upd (by assumption) rfl rfl)
      | (with_reducible apply InCycle.ite)
      | (with_reducible refine InCycle.upd ?_ rfl rfl <;> first
          | (with_reducible apply count_inCycle) | (with_reducible apply irq_inCycle) | (with_reducible apply modPlf_inCycle))
      | split

theorem writeTolHi_inCycle (h : InCycle z s) : InCycle z (writeTolHi x1 s) := by
  unfold writeTolHi
  try dsimp only
  repeat' first
      | (intro _) | (with_reducible assumption) | (with_reducible apply chg_inCycle) | (with_reducible apply setReg_inCycle)
      | (with_reducible apply recordErr_inCycle) | (with_reducible apply modPlf_inCycle)
      | (with_reducible exact InCycle.upd (by assumption) rfl rfl) | (with_reducible apply InCycle.ite)
      | (with_reducible refine InCycle.upd ?_ rfl rfl <;> first
          | (with_reducible apply chg_inCycle) | (with_reducible apply setReg_inCycle)
          | (with_reducible apply recordErr_inCycle) | (with_reducible apply modPlf_inCycle))
      | split

theorem writeFloorHi_inCycle (h : InCycle z s) : InCycle z (writeFloorHi x1 s) := by
  unfold writeFloorHi
  try dsimp only
  repeat' first
      | (intro _) | (with_reducible assumption) | (with_reducible apply chg_inCycle) | (with_reducible apply setReg_inCycle)
      | (with_reducible apply recordErr_inCycle) | (with_reducible apply modPlf_inCycle)
      | (with_reducible exact InCycle.upd (by assumption) rfl rfl) | (with_reducible apply InCycle.ite)
      | (with_reducible refine InCycle.upd ?_ rfl rfl <;> first
          | (with_reducible apply chg_inCycle) | (with_reducible apply setReg_inCycle)
          | (with_reducible apply recordErr_inCycle) | (with_reducible apply modPlf_inCycle))
      | split

end Sys2Proof.Machine
end

