-- ==== Sys2Proof/Laws/InCycleSafetyIo.lean ====
section
/-! SUPPORT. What the operations of Machine/SafetyIo.lean keep. -/

namespace Sys2Proof.Machine

variable {z s : State}

set_option linter.unusedTactic false
set_option linter.unreachableTactic false

theorem outputFault_inCycle (h : InCycle z s) : InCycle z (outputFault x1 s) := by
  unfold outputFault
  try dsimp only
  repeat' first
      | (intro _) | (with_reducible assumption) | (with_reducible apply irq_inCycle) | (with_reducible apply modOut_inCycle)
      | (with_reducible apply decideSto_inCycle) | (with_reducible apply meetTest_inCycle)
      | (with_reducible exact InCycle.upd (by assumption) rfl rfl) | (with_reducible apply InCycle.ite)
      | (with_reducible refine InCycle.upd ?_ rfl rfl <;> first
          | (with_reducible apply irq_inCycle) | (with_reducible apply modOut_inCycle)
          | (with_reducible apply decideSto_inCycle) | (with_reducible apply meetTest_inCycle))
      | split

theorem tripChannel_inCycle (h : InCycle z s) : InCycle z (tripChannel x1 x2 s) := by
  unfold tripChannel
  try dsimp only
  repeat' first
      | (intro _) | (with_reducible assumption) | (with_reducible apply modOut_inCycle)
      | (with_reducible apply forEach_inCycle) | (with_reducible apply meetTest_inCycle)
      | (with_reducible exact InCycle.upd (by assumption) rfl rfl) | (with_reducible apply InCycle.ite)
      | (with_reducible refine InCycle.upd ?_ rfl rfl <;> first
          | (with_reducible apply modOut_inCycle) | (with_reducible apply forEach_inCycle)
          | (with_reducible apply meetTest_inCycle))
      | split

theorem putChannel_inCycle (h : InCycle z s) : InCycle z (putChannel x1 x2 x3 x4 s) := by
  unfold putChannel
  try dsimp only
  repeat' first
      | (intro _) | (with_reducible assumption) | (with_reducible apply modSaf_inCycle)
      | (with_reducible exact InCycle.upd (by assumption) rfl rfl) | (with_reducible apply InCycle.ite)
      | (with_reducible refine InCycle.upd ?_ rfl rfl <;> first
          | (with_reducible apply modSaf_inCycle))
      | split

theorem inputFilter_inCycle (h : InCycle z s) : InCycle z (inputFilter x1 x2 x3 x4 s) := by
  unfold inputFilter
  try dsimp only
  repeat' first
      | (intro _) | (with_reducible assumption) | (with_reducible apply exchanged_inCycle)
      | (with_reducible apply forEach_inCycle) | (with_reducible apply putChannel_inCycle)
      | (with_reducible apply modSaf_inCycle) | (with_reducible apply countIf_inCycle) | (with_reducible apply count_inCycle)
      | (with_reducible apply irq_inCycle) | (with_reducible apply tripChannel_inCycle)
      | (with_reducible exact InCycle.upd (by assumption) rfl rfl) | (with_reducible apply InCycle.ite)
      | (with_reducible refine InCycle.upd ?_ rfl rfl <;> first
          | (with_reducible apply exchanged_inCycle) | (with_reducible apply forEach_inCycle)
          | (with_reducible apply putChannel_inCycle) | (with_reducible apply modSaf_inCycle)
          | (with_reducible apply countIf_inCycle) | (with_reducible apply count_inCycle) | (with_reducible apply irq_inCycle)
          | (with_reducible apply tripChannel_inCycle))
      | split

theorem inputFault_inCycle (h : InCycle z s) : InCycle z (inputFault x1 s) := by
  unfold inputFault
  try dsimp only
  repeat' first
      | (intro _) | (with_reducible assumption) | (with_reducible apply count_inCycle) | (with_reducible apply irq_inCycle)
      | (with_reducible apply modSaf_inCycle) | (with_reducible exact InCycle.upd (by assumption) rfl rfl)
      | (with_reducible apply InCycle.ite)
      | (with_reducible refine InCycle.upd ?_ rfl rfl <;> first
          | (with_reducible apply count_inCycle) | (with_reducible apply irq_inCycle) | (with_reducible apply modSaf_inCycle))
      | split

theorem noteChannel_inCycle (h : InCycle z s) : InCycle z (noteChannel x1 x2 s) := by
  unfold noteChannel
  try dsimp only
  repeat' first
      | (intro _) | (with_reducible assumption) | (with_reducible apply modSaf_inCycle)
      | (with_reducible exact InCycle.upd (by assumption) rfl rfl) | (with_reducible apply InCycle.ite)
      | (with_reducible refine InCycle.upd ?_ rfl rfl <;> first
          | (with_reducible apply modSaf_inCycle))
      | split

theorem noteChannels_inCycle (h : InCycle z s) : InCycle z (noteChannels s) := by
  unfold noteChannels
  try dsimp only
  repeat' first
      | (intro _) | (with_reducible assumption) | (with_reducible apply forEach_inCycle)
      | (with_reducible apply noteChannel_inCycle) | (with_reducible exact InCycle.upd (by assumption) rfl rfl)
      | (with_reducible apply InCycle.ite)
      | (with_reducible refine InCycle.upd ?_ rfl rfl <;> first
          | (with_reducible apply forEach_inCycle) | (with_reducible apply noteChannel_inCycle))
      | split

theorem testPulse_inCycle (h : InCycle z s) : InCycle z (testPulse x1 x2 s) := by
  unfold testPulse
  try dsimp only
  repeat' first
      | (intro _) | (with_reducible assumption) | (with_reducible apply modSaf_inCycle)
      | (with_reducible exact InCycle.upd (by assumption) rfl rfl) | (with_reducible apply InCycle.ite)
      | (with_reducible refine InCycle.upd ?_ rfl rfl <;> first
          | (with_reducible apply modSaf_inCycle))
      | split

theorem testPulseResult_inCycle (h : InCycle z s) : InCycle z (testPulseResult x1 x2 x3 x4 s) := by
  unfold testPulseResult
  try dsimp only
  repeat' first
      | (intro _) | (with_reducible assumption) | (with_reducible apply modSaf_inCycle) | (with_reducible apply count_inCycle)
      | (with_reducible apply outputFault_inCycle) | (with_reducible apply irq_inCycle)
      | (with_reducible exact InCycle.upd (by assumption) rfl rfl) | (with_reducible apply InCycle.ite)
      | (with_reducible refine InCycle.upd ?_ rfl rfl <;> first
          | (with_reducible apply modSaf_inCycle) | (with_reducible apply count_inCycle)
          | (with_reducible apply outputFault_inCycle) | (with_reducible apply irq_inCycle))
      | split

theorem resetAgreed_inCycle (h : InCycle z s) : InCycle z (resetAgreed x1 s) := by
  unfold resetAgreed
  try dsimp only
  repeat' first
      | (intro _) | (with_reducible assumption) | (with_reducible apply exchanged_inCycle)
      | (with_reducible apply countIf_inCycle) | (with_reducible exact InCycle.upd (by assumption) rfl rfl)
      | (with_reducible apply InCycle.ite)
      | (with_reducible refine InCycle.upd ?_ rfl rfl <;> first
          | (with_reducible apply exchanged_inCycle) | (with_reducible apply countIf_inCycle))
      | split

theorem resetRise_inCycle (h : InCycle z s) : InCycle z (resetRise x1 x2 s) := by
  unfold resetRise
  try dsimp only
  repeat' first
      | (intro _) | (with_reducible assumption) | (with_reducible apply resetAgreed_inCycle)
      | (with_reducible apply modSaf_inCycle) | (with_reducible exact InCycle.upd (by assumption) rfl rfl)
      | (with_reducible apply InCycle.ite)
      | (with_reducible refine InCycle.upd ?_ rfl rfl <;> first
          | (with_reducible apply resetAgreed_inCycle) | (with_reducible apply modSaf_inCycle))
      | split

theorem resetStuck_inCycle (h : InCycle z s) : InCycle z (resetStuck x1 s) := by
  unfold resetStuck
  try dsimp only
  repeat' first
      | (intro _) | (with_reducible assumption) | (with_reducible apply irq_inCycle) | (with_reducible apply modSaf_inCycle)
      | (with_reducible exact InCycle.upd (by assumption) rfl rfl) | (with_reducible apply InCycle.ite)
      | (with_reducible refine InCycle.upd ?_ rfl rfl <;> first
          | (with_reducible apply irq_inCycle) | (with_reducible apply modSaf_inCycle))
      | split

theorem resetFall_inCycle (h : InCycle z s) : InCycle z (resetFall x1 x2 s) := by
  unfold resetFall
  try dsimp only
  repeat' first
      | (intro _) | (with_reducible assumption) | (with_reducible apply resetAgreed_inCycle)
      | (with_reducible apply modSaf_inCycle) | (with_reducible apply actReset_inCycle) | (with_reducible apply count_inCycle)
      | (with_reducible exact InCycle.upd (by assumption) rfl rfl) | (with_reducible apply InCycle.ite)
      | (with_reducible refine InCycle.upd ?_ rfl rfl <;> first
          | (with_reducible apply resetAgreed_inCycle) | (with_reducible apply modSaf_inCycle)
          | (with_reducible apply actReset_inCycle) | (with_reducible apply count_inCycle))
      | split

theorem writeSwrst_inCycle (h : InCycle z s) : InCycle z (writeSwrst x1 s) := by
  unfold writeSwrst
  try dsimp only
  repeat' first
      | (intro _) | (with_reducible assumption) | (with_reducible apply recordErr_inCycle) | (with_reducible apply chg_inCycle)
      | (with_reducible apply setReg_inCycle) | (with_reducible apply modSaf_inCycle) | (with_reducible apply actReset_inCycle)
      | (with_reducible apply count_inCycle) | (with_reducible exact InCycle.upd (by assumption) rfl rfl)
      | (with_reducible apply InCycle.ite)
      | (with_reducible refine InCycle.upd ?_ rfl rfl <;> first
          | (with_reducible apply recordErr_inCycle) | (with_reducible apply chg_inCycle)
          | (with_reducible apply setReg_inCycle) | (with_reducible apply modSaf_inCycle)
          | (with_reducible apply actReset_inCycle) | (with_reducible apply count_inCycle))
      | split

theorem swrstStuck_inCycle (h : InCycle z s) : InCycle z (swrstStuck s) := by
  unfold swrstStuck
  try dsimp only
  repeat' first
      | (intro _) | (with_reducible assumption) | (with_reducible apply irq_inCycle) | (with_reducible apply modSaf_inCycle)
      | (with_reducible exact InCycle.upd (by assumption) rfl rfl) | (with_reducible apply InCycle.ite)
      | (with_reducible refine InCycle.upd ?_ rfl rfl <;> first
          | (with_reducible apply irq_inCycle) | (with_reducible apply modSaf_inCycle))
      | split

theorem beginWindow_inCycle (h : InCycle z s) : InCycle z (beginWindow x1 s) := by
  unfold beginWindow
  try dsimp only
  repeat' first
      | (intro _) | (with_reducible assumption) | (with_reducible apply modSaf_inCycle)
      | (with_reducible apply logChange_inCycle) | (with_reducible apply count_inCycle) | (with_reducible apply irq_inCycle)
      | (with_reducible exact InCycle.upd (by assumption) rfl rfl) | (with_reducible apply InCycle.ite)
      | (with_reducible refine InCycle.upd ?_ rfl rfl <;> first
          | (with_reducible apply modSaf_inCycle) | (with_reducible apply logChange_inCycle)
          | (with_reducible apply count_inCycle) | (with_reducible apply irq_inCycle))
      | split

theorem endWindow_inCycle (h : InCycle z s) : InCycle z (endWindow s) := by
  unfold endWindow
  try dsimp only
  repeat' first
      | (intro _) | (with_reducible assumption) | (with_reducible apply logChange_inCycle)
      | (with_reducible apply modSaf_inCycle) | (with_reducible exact InCycle.upd (by assumption) rfl rfl)
      | (with_reducible apply InCycle.ite)
      | (with_reducible refine InCycle.upd ?_ rfl rfl <;> first
          | (with_reducible apply logChange_inCycle) | (with_reducible apply modSaf_inCycle))
      | split

theorem svcWarn_inCycle (h : InCycle z s) : InCycle z (svcWarn s) := by
  unfold svcWarn
  try dsimp only
  repeat' first
      | (intro _) | (with_reducible assumption) | (with_reducible apply irqIf_inCycle)
      | (with_reducible exact InCycle.upd (by assumption) rfl rfl) | (with_reducible apply InCycle.ite)
      | (with_reducible refine InCycle.upd ?_ rfl rfl <;> first
          | (with_reducible apply irqIf_inCycle))
      | split

theorem svcExpiry_inCycle (h : InCycle z s) : InCycle z (svcExpiry s) := by
  unfold svcExpiry
  try dsimp only
  repeat' first
      | (intro _) | (with_reducible assumption) | (with_reducible apply cellSs1_inCycle)
      | (with_reducible apply modSaf_inCycle) | (with_reducible exact InCycle.upd (by assumption) rfl rfl)
      | (with_reducible apply InCycle.ite)
      | (with_reducible refine InCycle.upd ?_ rfl rfl <;> first
          | (with_reducible apply cellSs1_inCycle) | (with_reducible apply modSaf_inCycle))
      | split

end Sys2Proof.Machine
end

