-- ==== Sys2Proof/Laws/InCyclePtp.lean ====
section
/-! SUPPORT. What the operations of Machine/Ptp.lean keep. -/

namespace Sys2Proof.Machine

variable {z s : State}

set_option linter.unusedTactic false
set_option linter.unreachableTactic false

theorem modPtp_inCycle (h : InCycle z s) : InCycle z (modPtp x1 x2 s) := by
  unfold modPtp
  try dsimp only
  repeat' first
      | (intro _) | (with_reducible assumption) | (with_reducible exact InCycle.upd (by assumption) rfl rfl)
      | (with_reducible apply InCycle.ite)
      | split

theorem setPstate_inCycle (h : InCycle z s) : InCycle z (setPstate x1 x2 s) := by
  unfold setPstate
  try dsimp only
  repeat' first
      | (intro _) | (with_reducible assumption) | (with_reducible apply irq_inCycle) | (with_reducible apply setReg_inCycle)
      | (with_reducible exact InCycle.upd (by assumption) rfl rfl) | (with_reducible apply InCycle.ite)
      | (with_reducible refine InCycle.upd ?_ rfl rfl <;> first
          | (with_reducible apply irq_inCycle) | (with_reducible apply setReg_inCycle))
      | split

theorem keepSource_inCycle (h : InCycle z s) : InCycle z (keepSource x1 s) := by
  unfold keepSource
  try dsimp only
  repeat' first
      | (intro _) | (with_reducible assumption) | (with_reducible apply sourceLost_inCycle)
      | (with_reducible exact InCycle.upd (by assumption) rfl rfl) | (with_reducible apply InCycle.ite)
      | (with_reducible refine InCycle.upd ?_ rfl rfl <;> first
          | (with_reducible apply sourceLost_inCycle))
      | split

theorem restartPort_inCycle (h : InCycle z s) : InCycle z (restartPort x1 s) := by
  unfold restartPort
  try dsimp only
  repeat' first
      | (intro _) | (with_reducible assumption) | (with_reducible apply modPtp_inCycle)
      | (with_reducible apply setPstate_inCycle) | (with_reducible apply setReg_inCycle)
      | (with_reducible exact InCycle.upd (by assumption) rfl rfl) | (with_reducible apply InCycle.ite)
      | (with_reducible refine InCycle.upd ?_ rfl rfl <;> first
          | (with_reducible apply modPtp_inCycle) | (with_reducible apply setPstate_inCycle)
          | (with_reducible apply setReg_inCycle))
      | split

theorem restartPair_inCycle (h : InCycle z s) : InCycle z (restartPair x1 s) := by
  unfold restartPair
  try dsimp only
  repeat' first
      | (intro _) | (with_reducible assumption) | (with_reducible apply restartPort_inCycle)
      | (with_reducible exact InCycle.upd (by assumption) rfl rfl) | (with_reducible apply InCycle.ite)
      | (with_reducible refine InCycle.upd ?_ rfl rfl <;> first
          | (with_reducible apply restartPort_inCycle))
      | split

theorem setGm_inCycle (h : InCycle z s) : InCycle z (setGm x1 x2 s) := by
  unfold setGm
  try dsimp only
  repeat' first
      | (intro _) | (with_reducible assumption) | (with_reducible apply irqIf_inCycle) | (with_reducible apply setReg_inCycle)
      | (with_reducible exact InCycle.upd (by assumption) rfl rfl) | (with_reducible apply InCycle.ite)
      | (with_reducible refine InCycle.upd ?_ rfl rfl <;> first
          | (with_reducible apply irqIf_inCycle) | (with_reducible apply setReg_inCycle))
      | split

theorem noMaster_inCycle (h : InCycle z s) : InCycle z (noMaster x1 s) := by
  unfold noMaster
  try dsimp only
  repeat' first
      | (intro _) | (with_reducible assumption) | (with_reducible apply modPtp_inCycle)
      | (with_reducible exact InCycle.upd (by assumption) rfl rfl) | (with_reducible apply InCycle.ite)
      | (with_reducible refine InCycle.upd ?_ rfl rfl <;> first
          | (with_reducible apply modPtp_inCycle))
      | split

theorem ptpApply_inCycle (h : InCycle z s) : InCycle z (ptpApply x1 x2 s) := by
  unfold ptpApply
  try dsimp only
  repeat' first
      | (intro _) | (with_reducible assumption) | (with_reducible apply setPstate_inCycle)
      | (with_reducible apply noMaster_inCycle) | (with_reducible apply setGm_inCycle) | (with_reducible apply modPtp_inCycle)
      | (with_reducible exact InCycle.upd (by assumption) rfl rfl) | (with_reducible apply InCycle.ite)
      | (with_reducible refine InCycle.upd ?_ rfl rfl <;> first
          | (with_reducible apply setPstate_inCycle) | (with_reducible apply noMaster_inCycle)
          | (with_reducible apply setGm_inCycle) | (with_reducible apply modPtp_inCycle))
      | split

theorem ptpStates_inCycle (h : InCycle z s) : InCycle z (ptpStates x1 s) := by
  unfold ptpStates
  try dsimp only
  repeat' first
      | (intro _) | (with_reducible assumption) | (with_reducible apply ptpApply_inCycle)
      | (with_reducible apply keepSource_inCycle) | (with_reducible exact InCycle.upd (by assumption) rfl rfl)
      | (with_reducible apply InCycle.ite)
      | (with_reducible refine InCycle.upd ?_ rfl rfl <;> first
          | (with_reducible apply ptpApply_inCycle) | (with_reducible apply keepSource_inCycle))
      | split

theorem ptpQualify_inCycle (h : InCycle z s) : InCycle z (ptpQualify x1 s) := by
  unfold ptpQualify
  try dsimp only
  repeat' first
      | (intro _) | (with_reducible assumption) | (with_reducible apply setPstate_inCycle)
      | (with_reducible apply noMaster_inCycle) | (with_reducible exact InCycle.upd (by assumption) rfl rfl)
      | (with_reducible apply InCycle.ite)
      | (with_reducible refine InCycle.upd ?_ rfl rfl <;> first
          | (with_reducible apply setPstate_inCycle) | (with_reducible apply noMaster_inCycle))
      | split

theorem announce_inCycle (h : InCycle z s) : InCycle z (announce x1 x2 s) := by
  unfold announce
  try dsimp only
  repeat' first
      | (intro _) | (with_reducible assumption) | (with_reducible apply ptpStates_inCycle)
      | (with_reducible apply modPtp_inCycle) | (with_reducible exact InCycle.upd (by assumption) rfl rfl)
      | (with_reducible apply InCycle.ite)
      | (with_reducible refine InCycle.upd ?_ rfl rfl <;> first
          | (with_reducible apply ptpStates_inCycle) | (with_reducible apply modPtp_inCycle))
      | split

theorem ptpSend_inCycle (h : InCycle z s) : InCycle z (ptpSend x1 x2 s) := by
  unfold ptpSend
  try dsimp only
  repeat' first
      | (intro _) | (with_reducible assumption) | (with_reducible apply modPtp_inCycle) | (with_reducible apply count_inCycle)
      | (with_reducible exact InCycle.upd (by assumption) rfl rfl) | (with_reducible apply InCycle.ite)
      | (with_reducible refine InCycle.upd ?_ rfl rfl <;> first
          | (with_reducible apply modPtp_inCycle) | (with_reducible apply count_inCycle))
      | split

theorem pathDelay_inCycle (h : InCycle z s) : InCycle z (pathDelay x1 x2 s) := by
  unfold pathDelay
  try dsimp only
  repeat' first
      | (intro _) | (with_reducible assumption) | (with_reducible apply modPtp_inCycle) | (with_reducible apply setReg_inCycle)
      | (with_reducible apply count_inCycle) | (with_reducible apply irq_inCycle)
      | (with_reducible apply startQuarantine_inCycle) | (with_reducible exact InCycle.upd (by assumption) rfl rfl)
      | (with_reducible apply InCycle.ite)
      | (with_reducible refine InCycle.upd ?_ rfl rfl <;> first
          | (with_reducible apply modPtp_inCycle) | (with_reducible apply setReg_inCycle)
          | (with_reducible apply count_inCycle) | (with_reducible apply irq_inCycle)
          | (with_reducible apply startQuarantine_inCycle))
      | split

theorem delayOf_inCycle (h : InCycle z s) : InCycle z (delayOf x1 x2 s) := by
  unfold delayOf
  try dsimp only
  repeat' first
      | (intro _) | (with_reducible assumption) | (with_reducible apply pathDelay_inCycle)
      | (with_reducible exact InCycle.upd (by assumption) rfl rfl) | (with_reducible apply InCycle.ite)
      | (with_reducible refine InCycle.upd ?_ rfl rfl <;> first
          | (with_reducible apply pathDelay_inCycle))
      | split

theorem ptpForward_inCycle (h : InCycle z s) : InCycle z (ptpForward x1 x2 s) := by
  unfold ptpForward
  try dsimp only
  repeat' first
      | (intro _) | (with_reducible assumption) | (with_reducible apply ptpSend_inCycle)
      | (with_reducible exact InCycle.upd (by assumption) rfl rfl) | (with_reducible apply InCycle.ite)
      | (with_reducible refine InCycle.upd ?_ rfl rfl <;> first
          | (with_reducible apply ptpSend_inCycle))
      | split

theorem takeSync_inCycle (h : InCycle z s) : InCycle z (takeSync x1 x2 s) := by
  unfold takeSync
  try dsimp only
  repeat' first
      | (intro _) | (with_reducible assumption) | (with_reducible apply count_inCycle) | (with_reducible apply countIf_inCycle)
      | (with_reducible apply modPtp_inCycle) | (with_reducible apply setPstate_inCycle)
      | (with_reducible exact InCycle.upd (by assumption) rfl rfl) | (with_reducible apply InCycle.ite)
      | (with_reducible refine InCycle.upd ?_ rfl rfl <;> first
          | (with_reducible apply count_inCycle) | (with_reducible apply countIf_inCycle)
          | (with_reducible apply modPtp_inCycle) | (with_reducible apply setPstate_inCycle))
      | split

theorem ptpMessage_inCycle (h : InCycle z s) : InCycle z (ptpMessage x1 x2 s) := by
  unfold ptpMessage
  try dsimp only
  repeat' first
      | (intro _) | (with_reducible assumption) | (with_reducible apply count_inCycle)
      | (with_reducible apply ptpQualify_inCycle) | (with_reducible apply modPtp_inCycle)
      | (with_reducible apply ptpForward_inCycle) | (with_reducible apply takeSync_inCycle)
      | (with_reducible apply delayOf_inCycle) | (with_reducible apply announce_inCycle)
      | (with_reducible exact InCycle.upd (by assumption) rfl rfl) | (with_reducible apply InCycle.ite)
      | (with_reducible refine InCycle.upd ?_ rfl rfl <;> first
          | (with_reducible apply count_inCycle) | (with_reducible apply ptpQualify_inCycle)
          | (with_reducible apply modPtp_inCycle) | (with_reducible apply ptpForward_inCycle)
          | (with_reducible apply takeSync_inCycle) | (with_reducible apply delayOf_inCycle)
          | (with_reducible apply announce_inCycle))
      | split

theorem ptpTransmit_inCycle (h : InCycle z s) : InCycle z (ptpTransmit x1 x2 s) := by
  unfold ptpTransmit
  try dsimp only
  repeat' first
      | (intro _) | (with_reducible assumption) | (with_reducible apply ptpQualify_inCycle)
      | (with_reducible apply ptpSend_inCycle) | (with_reducible exact InCycle.upd (by assumption) rfl rfl)
      | (with_reducible apply InCycle.ite)
      | (with_reducible refine InCycle.upd ?_ rfl rfl <;> first
          | (with_reducible apply ptpQualify_inCycle) | (with_reducible apply ptpSend_inCycle))
      | split

theorem announceTimeout_inCycle (h : InCycle z s) : InCycle z (announceTimeout x1 s) := by
  unfold announceTimeout
  try dsimp only
  repeat' first
      | (intro _) | (with_reducible assumption) | (with_reducible apply irq_inCycle) | (with_reducible apply modPtp_inCycle)
      | (with_reducible apply ptpApply_inCycle) | (with_reducible apply keepSource_inCycle)
      | (with_reducible exact InCycle.upd (by assumption) rfl rfl) | (with_reducible apply InCycle.ite)
      | (with_reducible refine InCycle.upd ?_ rfl rfl <;> first
          | (with_reducible apply irq_inCycle) | (with_reducible apply modPtp_inCycle)
          | (with_reducible apply ptpApply_inCycle) | (with_reducible apply keepSource_inCycle))
      | split

theorem offsetSample_inCycle (h : InCycle z s) : InCycle z (offsetSample x1 x2 x3 s) := by
  unfold offsetSample
  try dsimp only
  repeat' first
      | (intro _) | (with_reducible assumption) | (with_reducible apply pathDelay_inCycle)
      | (with_reducible apply setReg_inCycle) | (with_reducible apply servoSample_inCycle)
      | (with_reducible apply modServo_inCycle) | (with_reducible exact InCycle.upd (by assumption) rfl rfl)
      | (with_reducible apply InCycle.ite)
      | (with_reducible refine InCycle.upd ?_ rfl rfl <;> first
          | (with_reducible apply pathDelay_inCycle) | (with_reducible apply setReg_inCycle)
          | (with_reducible apply servoSample_inCycle) | (with_reducible apply modServo_inCycle))
      | split

theorem linkChange_inCycle (h : InCycle z s) : InCycle z (linkChange x1 x2 x3 s) := by
  unfold linkChange
  try dsimp only
  repeat' first
      | (intro _) | (with_reducible assumption) | (with_reducible apply setReg_inCycle) | (with_reducible apply irqIf_inCycle)
      | (with_reducible apply closeSessionOf_inCycle) | (with_reducible apply modSec_inCycle)
      | (with_reducible apply count_inCycle) | (with_reducible apply modPtp_inCycle) | (with_reducible apply setPstate_inCycle)
      | (with_reducible apply noMaster_inCycle) | (with_reducible apply keepSource_inCycle)
      | (with_reducible apply ptpStates_inCycle) | (with_reducible exact InCycle.upd (by assumption) rfl rfl)
      | (with_reducible apply InCycle.ite)
      | (with_reducible refine InCycle.upd ?_ rfl rfl <;> first
          | (with_reducible apply setReg_inCycle) | (with_reducible apply irqIf_inCycle)
          | (with_reducible apply closeSessionOf_inCycle) | (with_reducible apply modSec_inCycle)
          | (with_reducible apply count_inCycle) | (with_reducible apply modPtp_inCycle)
          | (with_reducible apply setPstate_inCycle) | (with_reducible apply noMaster_inCycle)
          | (with_reducible apply keepSource_inCycle) | (with_reducible apply ptpStates_inCycle))
      | split

theorem ptpCfgWritten_inCycle (h : InCycle z s) : InCycle z (ptpCfgWritten x1 x2 x3 s) := by
  unfold ptpCfgWritten
  try dsimp only
  repeat' first
      | (intro _) | (with_reducible assumption) | (with_reducible apply setReg_inCycle) | (with_reducible apply setFld_inCycle)
      | (with_reducible apply restartPort_inCycle) | (with_reducible apply keepSource_inCycle)
      | (with_reducible exact InCycle.upd (by assumption) rfl rfl) | (with_reducible apply InCycle.ite)
      | (with_reducible refine InCycle.upd ?_ rfl rfl <;> first
          | (with_reducible apply setReg_inCycle) | (with_reducible apply setFld_inCycle)
          | (with_reducible apply restartPort_inCycle) | (with_reducible apply keepSource_inCycle))
      | split

theorem ptpEnabled_inCycle (h : InCycle z s) : InCycle z (ptpEnabled x1 x2 s) := by
  unfold ptpEnabled
  try dsimp only
  repeat' first
      | (intro _) | (with_reducible assumption) | (with_reducible apply setFlag_inCycle)
      | (with_reducible apply keepSource_inCycle) | (with_reducible apply restartPair_inCycle)
      | (with_reducible exact InCycle.upd (by assumption) rfl rfl) | (with_reducible apply InCycle.ite)
      | (with_reducible refine InCycle.upd ?_ rfl rfl <;> first
          | (with_reducible apply setFlag_inCycle) | (with_reducible apply keepSource_inCycle)
          | (with_reducible apply restartPair_inCycle))
      | split

end Sys2Proof.Machine
end

