-- ==== Sys2Proof/Laws/InCycleWlFrames.lean ====
section
/-! SUPPORT. What the operations of Machine/WlFrames.lean keep. -/

namespace Sys2Proof.Machine

variable {z s : State}

set_option linter.unusedTactic false
set_option linter.unreachableTactic false

theorem modWl_inCycle (h : InCycle z s) : InCycle z (modWl x1 s) := by
  unfold modWl
  try dsimp only
  repeat' first
      | (intro _) | (with_reducible assumption) | (with_reducible exact InCycle.upd (by assumption) rfl rfl)
      | (with_reducible apply InCycle.ite)
      | split

theorem modEq_inCycle (h : InCycle z s) : InCycle z (modEq x1 x2 x3 x4 s) := by
  unfold modEq
  try dsimp only
  repeat' first
      | (intro _) | (with_reducible assumption) | (with_reducible apply modWl_inCycle)
      | (with_reducible exact InCycle.upd (by assumption) rfl rfl) | (with_reducible apply InCycle.ite)
      | (with_reducible refine InCycle.upd ?_ rfl rfl <;> first
          | (with_reducible apply modWl_inCycle))
      | split

theorem loadEq_inCycle (h : InCycle z s) : InCycle z (loadEq x1 x2 s) := by
  unfold loadEq
  try dsimp only
  repeat' first
      | (intro _) | (with_reducible assumption) | (with_reducible apply forEach_inCycle) | (with_reducible apply modWl_inCycle)
      | (with_reducible exact InCycle.upd (by assumption) rfl rfl) | (with_reducible apply InCycle.ite)
      | (with_reducible refine InCycle.upd ?_ rfl rfl <;> first
          | (with_reducible apply forEach_inCycle) | (with_reducible apply modWl_inCycle))
      | split

theorem retrainEntry_inCycle (h : InCycle z s) : InCycle z (retrainEntry x1 x2 x3 x4 s) := by
  unfold retrainEntry
  try dsimp only
  repeat' first
      | (intro _) | (with_reducible assumption) | (with_reducible apply modEq_inCycle)
      | (with_reducible exact InCycle.upd (by assumption) rfl rfl) | (with_reducible apply InCycle.ite)
      | (with_reducible refine InCycle.upd ?_ rfl rfl <;> first
          | (with_reducible apply modEq_inCycle))
      | split

theorem retrain_inCycle (h : InCycle z s) : InCycle z (retrain x1 x2 x3 x4 s) := by
  unfold retrain
  try dsimp only
  repeat' first
      | (intro _) | (with_reducible assumption) | (with_reducible apply forEach_inCycle)
      | (with_reducible apply retrainEntry_inCycle) | (with_reducible exact InCycle.upd (by assumption) rfl rfl)
      | (with_reducible apply InCycle.ite)
      | (with_reducible refine InCycle.upd ?_ rfl rfl <;> first
          | (with_reducible apply forEach_inCycle) | (with_reducible apply retrainEntry_inCycle))
      | split

theorem noteEye_inCycle (h : InCycle z s) : InCycle z (noteEye x1 x2 x3 s) := by
  unfold noteEye
  try dsimp only
  repeat' first
      | (intro _) | (with_reducible assumption) | (with_reducible apply drawFree_inCycle)
      | (with_reducible apply modEq_inCycle) | (with_reducible exact InCycle.upd (by assumption) rfl rfl)
      | (with_reducible apply InCycle.ite)
      | (with_reducible refine InCycle.upd ?_ rfl rfl <;> first
          | (with_reducible apply drawFree_inCycle) | (with_reducible apply modEq_inCycle))
      | split

theorem adapt_inCycle (h : InCycle z s) : InCycle z (adapt x1 x2 x3 s) := by
  unfold adapt
  try dsimp only
  repeat' first
      | (intro _) | (with_reducible assumption) | (with_reducible apply noteEye_inCycle)
      | (with_reducible apply drawFree_inCycle) | (with_reducible apply modEq_inCycle) | (with_reducible apply irqIf_inCycle)
      | (with_reducible apply countHub_inCycle) | (with_reducible exact InCycle.upd (by assumption) rfl rfl)
      | (with_reducible apply InCycle.ite)
      | (with_reducible refine InCycle.upd ?_ rfl rfl <;> first
          | (with_reducible apply noteEye_inCycle) | (with_reducible apply drawFree_inCycle)
          | (with_reducible apply modEq_inCycle) | (with_reducible apply irqIf_inCycle)
          | (with_reducible apply countHub_inCycle))
      | split

theorem ungood_inCycle (h : InCycle z s) : InCycle z (ungood x1 x2 s) := by
  unfold ungood
  try dsimp only
  repeat' first
      | (intro _) | (with_reducible assumption) | (with_reducible apply modWl_inCycle)
      | (with_reducible exact InCycle.upd (by assumption) rfl rfl) | (with_reducible apply InCycle.ite)
      | (with_reducible refine InCycle.upd ?_ rfl rfl <;> first
          | (with_reducible apply modWl_inCycle))
      | split

theorem recount_inCycle (h : InCycle z s) : InCycle z (recount x1 x2 x3 s) := by
  unfold recount
  try dsimp only
  repeat' first
      | (intro _) | (with_reducible assumption) | (with_reducible apply countHub_inCycle)
      | (with_reducible exact InCycle.upd (by assumption) rfl rfl) | (with_reducible apply InCycle.ite)
      | (with_reducible refine InCycle.upd ?_ rfl rfl <;> first
          | (with_reducible apply countHub_inCycle))
      | split

theorem cutFrame_inCycle (h : InCycle z s) : InCycle z (cutFrame x1 x2 s).1 := by
  unfold cutFrame
  try dsimp only
  repeat' first
      | (intro _) | (with_reducible assumption) | (with_reducible apply forEach_inCycle)
      | (with_reducible apply ungood_inCycle) | (with_reducible apply recount_inCycle)
      | (with_reducible exact InCycle.upd (by assumption) rfl rfl) | (with_reducible apply InCycle.ite)
      | (with_reducible refine InCycle.upd ?_ rfl rfl <;> first
          | (with_reducible apply forEach_inCycle) | (with_reducible apply ungood_inCycle)
          | (with_reducible apply recount_inCycle))
      | split

theorem cutWire_inCycle {pick : WireFrame → Option Nat} (h : InCycle z s) : InCycle z (cutWire pick s) := by
  unfold cutWire
  dsimp only
  refine modWl_inCycle ?_
  generalize s.wl.wire = l
  induction l with
  | nil => exact h
  | cons x l ih =>
    rw [List.foldr_cons]
    split
    · exact cutFrame_inCycle ih
    · exact ih

theorem cutHub_inCycle (h : InCycle z s) : InCycle z (cutHub x1 s) := by
  unfold cutHub
  try dsimp only
  repeat' first
      | (intro _) | (with_reducible assumption) | (with_reducible apply cutWire_inCycle)
      | (with_reducible exact InCycle.upd (by assumption) rfl rfl) | (with_reducible apply InCycle.ite)
      | (with_reducible refine InCycle.upd ?_ rfl rfl <;> first
          | (with_reducible apply cutWire_inCycle))
      | split

theorem commitSoldiers_inCycle (h : InCycle z s) : InCycle z (commitSoldiers x1 s) := by
  unfold commitSoldiers
  try dsimp only
  repeat' first
      | (intro _) | (with_reducible assumption) | (with_reducible apply forEach_inCycle) | (with_reducible apply modWl_inCycle)
      | (with_reducible exact InCycle.upd (by assumption) rfl rfl) | (with_reducible apply InCycle.ite)
      | (with_reducible refine InCycle.upd ?_ rfl rfl <;> first
          | (with_reducible apply forEach_inCycle) | (with_reducible apply modWl_inCycle))
      | split

end Sys2Proof.Machine
end

