-- ==== Sys2Proof/Laws/InCycleCartridge.lean ====
section
/-! SUPPORT. What the operations of Machine/Cartridge.lean keep. -/

namespace Sys2Proof.Machine

variable {z s : State}

set_option linter.unusedTactic false
set_option linter.unreachableTactic false

theorem setState_inCycle (h : InCycle z s) : InCycle z (setState x1 x2 s) := by
  unfold setState
  try dsimp only
  repeat' first
      | (intro _) | (with_reducible assumption) | (with_reducible apply irq_inCycle) | (with_reducible apply modCart_inCycle)
      | (with_reducible exact InCycle.upd (by assumption) rfl rfl) | (with_reducible apply InCycle.ite)
      | (with_reducible refine InCycle.upd ?_ rfl rfl <;> first
          | (with_reducible apply irq_inCycle) | (with_reducible apply modCart_inCycle))
      | split

theorem cusEvent_inCycle (h : InCycle z s) : InCycle z (cusEvent x1 x2 s) := by
  unfold cusEvent
  try dsimp only
  repeat' first
      | (intro _) | (with_reducible assumption) | (with_reducible apply forEach_inCycle) | (with_reducible apply irq_inCycle)
      | (with_reducible apply count_inCycle) | (with_reducible exact InCycle.upd (by assumption) rfl rfl)
      | (with_reducible apply InCycle.ite)
      | (with_reducible refine InCycle.upd ?_ rfl rfl <;> first
          | (with_reducible apply forEach_inCycle) | (with_reducible apply irq_inCycle) | (with_reducible apply count_inCycle))
      | split

theorem setRole_inCycle (h : InCycle z s) : InCycle z (setRole x1 x2 s) := by
  unfold setRole
  try dsimp only
  repeat' first
      | (intro _) | (with_reducible assumption) | (with_reducible apply modCart_inCycle)
      | (with_reducible exact InCycle.upd (by assumption) rfl rfl) | (with_reducible apply InCycle.ite)
      | (with_reducible refine InCycle.upd ?_ rfl rfl <;> first
          | (with_reducible apply modCart_inCycle))
      | split

theorem passRole_inCycle (h : InCycle z s) : InCycle z (passRole x1 x2 s) := by
  unfold passRole
  try dsimp only
  repeat' first
      | (intro _) | (with_reducible assumption) | (with_reducible apply setRole_inCycle)
      | (with_reducible exact InCycle.upd (by assumption) rfl rfl) | (with_reducible apply InCycle.ite)
      | (with_reducible refine InCycle.upd ?_ rfl rfl <;> first
          | (with_reducible apply setRole_inCycle))
      | split

theorem roleSync_inCycle (h : InCycle z s) : InCycle z (roleSync s) := by
  unfold roleSync
  try dsimp only
  repeat' first
      | (intro _) | (with_reducible assumption) | (with_reducible apply forEach_inCycle)
      | (with_reducible apply setRole_inCycle) | (with_reducible apply passRole_inCycle)
      | (with_reducible apply cusEvent_inCycle) | (with_reducible exact InCycle.upd (by assumption) rfl rfl)
      | (with_reducible apply InCycle.ite)
      | (with_reducible refine InCycle.upd ?_ rfl rfl <;> first
          | (with_reducible apply forEach_inCycle) | (with_reducible apply setRole_inCycle)
          | (with_reducible apply passRole_inCycle) | (with_reducible apply cusEvent_inCycle))
      | split

theorem bayRoles_inCycle (h : InCycle z s) : InCycle z (bayRoles s) := by
  unfold bayRoles
  try dsimp only
  repeat' first
      | (intro _) | (with_reducible assumption) | (with_reducible apply forEach_inCycle)
      | (with_reducible apply setRole_inCycle) | (with_reducible exact InCycle.upd (by assumption) rfl rfl)
      | (with_reducible apply InCycle.ite)
      | (with_reducible refine InCycle.upd ?_ rfl rfl <;> first
          | (with_reducible apply forEach_inCycle) | (with_reducible apply setRole_inCycle))
      | split

theorem restartLoads_inCycle (h : InCycle z s) : InCycle z (restartLoads s) := by
  unfold restartLoads
  try dsimp only
  repeat' first
      | (intro _) | (with_reducible assumption) | (with_reducible apply forEach_inCycle)
      | (with_reducible apply setState_inCycle) | (with_reducible apply modCart_inCycle)
      | (with_reducible exact InCycle.upd (by assumption) rfl rfl) | (with_reducible apply InCycle.ite)
      | (with_reducible refine InCycle.upd ?_ rfl rfl <;> first
          | (with_reducible apply forEach_inCycle) | (with_reducible apply setState_inCycle)
          | (with_reducible apply modCart_inCycle))
      | split

theorem fenceLane_inCycle (h : InCycle z s) : InCycle z (fenceLane x1 x2 s) := by
  unfold fenceLane
  try dsimp only
  repeat' first
      | (intro _) | (with_reducible assumption) | (with_reducible apply count_inCycle)
      | (with_reducible apply setState_inCycle) | (with_reducible apply modCart_inCycle)
      | (with_reducible apply lanesLost_inCycle) | (with_reducible apply restartLoads_inCycle)
      | (with_reducible exact InCycle.upd (by assumption) rfl rfl) | (with_reducible apply InCycle.ite)
      | (with_reducible refine InCycle.upd ?_ rfl rfl <;> first
          | (with_reducible apply count_inCycle) | (with_reducible apply setState_inCycle)
          | (with_reducible apply modCart_inCycle) | (with_reducible apply lanesLost_inCycle)
          | (with_reducible apply restartLoads_inCycle))
      | split

theorem outputsDead_inCycle (h : InCycle z s) : InCycle z (outputsDead s) := by
  unfold outputsDead
  try dsimp only
  repeat' first
      | (intro _) | (with_reducible assumption) | (with_reducible apply modOut_inCycle)
      | (with_reducible exact InCycle.upd (by assumption) rfl rfl) | (with_reducible apply InCycle.ite)
      | (with_reducible refine InCycle.upd ?_ rfl rfl <;> first
          | (with_reducible apply modOut_inCycle))
      | split

theorem hubDown_inCycle (h : InCycle z s) : InCycle z (hubDown x1 x2 x3 s) := by
  unfold hubDown
  try dsimp only
  repeat' first
      | (intro _) | (with_reducible assumption) | (with_reducible apply linkChange_inCycle)
      | (with_reducible apply cutHub_inCycle) | (with_reducible apply count_inCycle) | (with_reducible apply setState_inCycle)
      | (with_reducible apply modCart_inCycle) | (with_reducible apply keepSource_inCycle)
      | (with_reducible apply closeSessionOf_inCycle) | (with_reducible apply modSec_inCycle)
      | (with_reducible apply beginWindow_inCycle) | (with_reducible apply outputsDead_inCycle)
      | (with_reducible exact InCycle.upd (by assumption) rfl rfl) | (with_reducible apply InCycle.ite)
      | (with_reducible refine InCycle.upd ?_ rfl rfl <;> first
          | (with_reducible apply linkChange_inCycle) | (with_reducible apply cutHub_inCycle)
          | (with_reducible apply count_inCycle) | (with_reducible apply setState_inCycle)
          | (with_reducible apply modCart_inCycle) | (with_reducible apply keepSource_inCycle)
          | (with_reducible apply closeSessionOf_inCycle) | (with_reducible apply modSec_inCycle)
          | (with_reducible apply beginWindow_inCycle) | (with_reducible apply outputsDead_inCycle))
      | split

theorem silent_inCycle (h : InCycle z s) : InCycle z (silent x1 s) := by
  unfold silent
  try dsimp only
  repeat' first
      | (intro _) | (with_reducible assumption) | (with_reducible apply hubDown_inCycle)
      | (with_reducible apply setState_inCycle) | (with_reducible apply modCart_inCycle)
      | (with_reducible exact InCycle.upd (by assumption) rfl rfl) | (with_reducible apply InCycle.ite)
      | (with_reducible refine InCycle.upd ?_ rfl rfl <;> first
          | (with_reducible apply hubDown_inCycle) | (with_reducible apply setState_inCycle)
          | (with_reducible apply modCart_inCycle))
      | split

theorem takeover_inCycle (h : InCycle z s) : InCycle z (takeover s) := by
  unfold takeover
  try dsimp only
  repeat' first
      | (intro _) | (with_reducible assumption) | (with_reducible apply irq_inCycle)
      | (with_reducible exact InCycle.upd (by assumption) rfl rfl) | (with_reducible apply InCycle.ite)
      | (with_reducible refine InCycle.upd ?_ rfl rfl <;> first
          | (with_reducible apply irq_inCycle))
      | split

theorem fenceHubs_inCycle (h : InCycle z s) : InCycle z (fenceHubs s) := by
  unfold fenceHubs
  try dsimp only
  repeat' first
      | (intro _) | (with_reducible assumption) | (with_reducible apply forEach_inCycle)
      | (with_reducible apply hubDown_inCycle) | (with_reducible apply takeover_inCycle)
      | (with_reducible exact InCycle.upd (by assumption) rfl rfl) | (with_reducible apply InCycle.ite)
      | (with_reducible refine InCycle.upd ?_ rfl rfl <;> first
          | (with_reducible apply forEach_inCycle) | (with_reducible apply hubDown_inCycle)
          | (with_reducible apply takeover_inCycle))
      | split

theorem fenceLanes_inCycle (h : InCycle z s) : InCycle z (fenceLanes s) := by
  unfold fenceLanes
  try dsimp only
  repeat' first
      | (intro _) | (with_reducible assumption) | (with_reducible apply roleSync_inCycle)
      | (with_reducible apply forEach_inCycle) | (with_reducible apply fenceLane_inCycle)
      | (with_reducible exact InCycle.upd (by assumption) rfl rfl) | (with_reducible apply InCycle.ite)
      | (with_reducible refine InCycle.upd ?_ rfl rfl <;> first
          | (with_reducible apply roleSync_inCycle) | (with_reducible apply forEach_inCycle)
          | (with_reducible apply fenceLane_inCycle))
      | split

theorem askFence_inCycle (h : InCycle z s) : InCycle z (askFence x1 x2 s).1 := by
  unfold askFence
  try dsimp only
  repeat' first
      | (intro _) | (with_reducible assumption) | (with_reducible apply recordErr_inCycle)
      | (with_reducible apply modCart_inCycle) | (with_reducible exact InCycle.upd (by assumption) rfl rfl)
      | (with_reducible apply InCycle.ite)
      | (with_reducible refine InCycle.upd ?_ rfl rfl <;> first
          | (with_reducible apply recordErr_inCycle) | (with_reducible apply modCart_inCycle))
      | split

theorem beginReadmit_inCycle (h : InCycle z s) : InCycle z (beginReadmit x1 s) := by
  unfold beginReadmit
  try dsimp only
  repeat' first
      | (intro _) | (with_reducible assumption) | (with_reducible apply setState_inCycle)
      | (with_reducible apply modCart_inCycle) | (with_reducible exact InCycle.upd (by assumption) rfl rfl)
      | (with_reducible apply InCycle.ite)
      | (with_reducible refine InCycle.upd ?_ rfl rfl <;> first
          | (with_reducible apply setState_inCycle) | (with_reducible apply modCart_inCycle))
      | split

theorem writeReadmit_inCycle (h : InCycle z s) : InCycle z (writeReadmit x1 s) := by
  unfold writeReadmit
  try dsimp only
  repeat' first
      | (intro _) | (with_reducible assumption) | (with_reducible apply recordErr_inCycle)
      | (with_reducible apply beginReadmit_inCycle) | (with_reducible exact InCycle.upd (by assumption) rfl rfl)
      | (with_reducible apply InCycle.ite)
      | (with_reducible refine InCycle.upd ?_ rfl rfl <;> first
          | (with_reducible apply recordErr_inCycle) | (with_reducible apply beginReadmit_inCycle))
      | split

theorem softStart_inCycle (h : InCycle z s) : InCycle z (softStart x1 s) := by
  unfold softStart
  try dsimp only
  repeat' first
      | (intro _) | (with_reducible assumption) | (with_reducible apply setState_inCycle)
      | (with_reducible exact InCycle.upd (by assumption) rfl rfl) | (with_reducible apply InCycle.ite)
      | (with_reducible refine InCycle.upd ?_ rfl rfl <;> first
          | (with_reducible apply setState_inCycle))
      | split

theorem inserted_inCycle (h : InCycle z s) : InCycle z (inserted x1 s) := by
  unfold inserted
  try dsimp only
  repeat' first
      | (intro _) | (with_reducible assumption) | (with_reducible apply count_inCycle)
      | (with_reducible apply setState_inCycle) | (with_reducible apply modCart_inCycle)
      | (with_reducible apply drawFree_inCycle) | (with_reducible exact InCycle.upd (by assumption) rfl rfl)
      | (with_reducible apply InCycle.ite)
      | (with_reducible refine InCycle.upd ?_ rfl rfl <;> first
          | (with_reducible apply count_inCycle) | (with_reducible apply setState_inCycle)
          | (with_reducible apply modCart_inCycle) | (with_reducible apply drawFree_inCycle))
      | split

theorem removed_inCycle (h : InCycle z s) : InCycle z (removed x1 s) := by
  unfold removed
  try dsimp only
  repeat' first
      | (intro _) | (with_reducible assumption) | (with_reducible apply irq_inCycle) | (with_reducible apply hubDown_inCycle)
      | (with_reducible apply modCart_inCycle) | (with_reducible apply setState_inCycle)
      | (with_reducible exact InCycle.upd (by assumption) rfl rfl) | (with_reducible apply InCycle.ite)
      | (with_reducible refine InCycle.upd ?_ rfl rfl <;> first
          | (with_reducible apply irq_inCycle) | (with_reducible apply hubDown_inCycle)
          | (with_reducible apply modCart_inCycle) | (with_reducible apply setState_inCycle))
      | split

theorem leverOpened_inCycle (h : InCycle z s) : InCycle z (leverOpened x1 s) := by
  unfold leverOpened
  try dsimp only
  repeat' first
      | (intro _) | (with_reducible assumption) | (with_reducible apply count_inCycle) | (with_reducible apply modCart_inCycle)
      | (with_reducible apply askFence_inCycle) | (with_reducible apply irq_inCycle) | (with_reducible apply setState_inCycle)
      | (with_reducible exact InCycle.upd (by assumption) rfl rfl) | (with_reducible apply InCycle.ite)
      | (with_reducible refine InCycle.upd ?_ rfl rfl <;> first
          | (with_reducible apply count_inCycle) | (with_reducible apply modCart_inCycle)
          | (with_reducible apply askFence_inCycle) | (with_reducible apply irq_inCycle)
          | (with_reducible apply setState_inCycle))
      | split

theorem leverClosed_inCycle (h : InCycle z s) : InCycle z (leverClosed x1 s) := by
  unfold leverClosed
  try dsimp only
  repeat' first
      | (intro _) | (with_reducible assumption) | (with_reducible apply modCart_inCycle)
      | (with_reducible apply setState_inCycle) | (with_reducible exact InCycle.upd (by assumption) rfl rfl)
      | (with_reducible apply InCycle.ite)
      | (with_reducible refine InCycle.upd ?_ rfl rfl <;> first
          | (with_reducible apply modCart_inCycle) | (with_reducible apply setState_inCycle))
      | split

theorem powerOff_inCycle (h : InCycle z s) : InCycle z (powerOff x1 s) := by
  unfold powerOff
  try dsimp only
  repeat' first
      | (intro _) | (with_reducible assumption) | (with_reducible apply setState_inCycle)
      | (with_reducible apply modCart_inCycle) | (with_reducible apply recordErr_inCycle)
      | (with_reducible exact InCycle.upd (by assumption) rfl rfl) | (with_reducible apply InCycle.ite)
      | (with_reducible refine InCycle.upd ?_ rfl rfl <;> first
          | (with_reducible apply setState_inCycle) | (with_reducible apply modCart_inCycle)
          | (with_reducible apply recordErr_inCycle))
      | split

theorem copyComplete_inCycle (h : InCycle z s) : InCycle z (copyComplete x1 s) := by
  unfold copyComplete
  try dsimp only
  repeat' first
      | (intro _) | (with_reducible assumption) | (with_reducible apply modCart_inCycle)
      | (with_reducible exact InCycle.upd (by assumption) rfl rfl) | (with_reducible apply InCycle.ite)
      | (with_reducible refine InCycle.upd ?_ rfl rfl <;> first
          | (with_reducible apply modCart_inCycle))
      | split

theorem journal_inCycle (h : InCycle z s) : InCycle z (journal x1 x2 x3 s) := by
  unfold journal
  try dsimp only
  repeat' first
      | (intro _) | (with_reducible assumption) | (with_reducible apply modCart_inCycle)
      | (with_reducible exact InCycle.upd (by assumption) rfl rfl) | (with_reducible apply InCycle.ite)
      | (with_reducible refine InCycle.upd ?_ rfl rfl <;> first
          | (with_reducible apply modCart_inCycle))
      | split

theorem joinStep_inCycle (h : InCycle z s) : InCycle z (joinStep x1 s) := by
  unfold joinStep
  try dsimp only
  repeat' first
      | (intro _) | (with_reducible assumption) | (with_reducible apply modCart_inCycle)
      | (with_reducible apply setState_inCycle) | (with_reducible apply count_inCycle) | (with_reducible apply irq_inCycle)
      | (with_reducible exact InCycle.upd (by assumption) rfl rfl) | (with_reducible apply InCycle.ite)
      | (with_reducible refine InCycle.upd ?_ rfl rfl <;> first
          | (with_reducible apply modCart_inCycle) | (with_reducible apply setState_inCycle)
          | (with_reducible apply count_inCycle) | (with_reducible apply irq_inCycle))
      | split

theorem lanePlanStart_inCycle (h : InCycle z s) : InCycle z (lanePlanStart x1 s) := by
  unfold lanePlanStart
  try dsimp only
  repeat' first
      | (intro _) | (with_reducible assumption) | (with_reducible apply setState_inCycle)
      | (with_reducible apply modCart_inCycle) | (with_reducible apply journal_inCycle)
      | (with_reducible apply countIf_inCycle) | (with_reducible apply roleSync_inCycle)
      | (with_reducible apply joinStep_inCycle) | (with_reducible exact InCycle.upd (by assumption) rfl rfl)
      | (with_reducible apply InCycle.ite)
      | (with_reducible refine InCycle.upd ?_ rfl rfl <;> first
          | (with_reducible apply setState_inCycle) | (with_reducible apply modCart_inCycle)
          | (with_reducible apply journal_inCycle) | (with_reducible apply countIf_inCycle)
          | (with_reducible apply roleSync_inCycle) | (with_reducible apply joinStep_inCycle))
      | split

theorem trackEnd_inCycle (h : InCycle z s) : InCycle z (trackEnd x1 s) := by
  unfold trackEnd
  try dsimp only
  repeat' first
      | (intro _) | (with_reducible assumption) | (with_reducible apply setState_inCycle)
      | (with_reducible apply modCart_inCycle) | (with_reducible exact InCycle.upd (by assumption) rfl rfl)
      | (with_reducible apply InCycle.ite)
      | (with_reducible refine InCycle.upd ?_ rfl rfl <;> first
          | (with_reducible apply setState_inCycle) | (with_reducible apply modCart_inCycle))
      | split

theorem shadowDigest_inCycle (h : InCycle z s) : InCycle z (shadowDigest x1 x2 x3 s) := by
  unfold shadowDigest
  try dsimp only
  repeat' first
      | (intro _) | (with_reducible assumption) | (with_reducible apply modCart_inCycle) | (with_reducible apply count_inCycle)
      | (with_reducible apply irq_inCycle) | (with_reducible apply journal_inCycle) | (with_reducible apply setState_inCycle)
      | (with_reducible exact InCycle.upd (by assumption) rfl rfl) | (with_reducible apply InCycle.ite)
      | (with_reducible refine InCycle.upd ?_ rfl rfl <;> first
          | (with_reducible apply modCart_inCycle) | (with_reducible apply count_inCycle) | (with_reducible apply irq_inCycle)
          | (with_reducible apply journal_inCycle) | (with_reducible apply setState_inCycle))
      | split

theorem checkPass_inCycle (h : InCycle z s) : InCycle z (checkPass x1 s) := by
  unfold checkPass
  try dsimp only
  repeat' first
      | (intro _) | (with_reducible assumption) | (with_reducible apply modCart_inCycle)
      | (with_reducible exact InCycle.upd (by assumption) rfl rfl) | (with_reducible apply InCycle.ite)
      | (with_reducible refine InCycle.upd ?_ rfl rfl <;> first
          | (with_reducible apply modCart_inCycle))
      | split

theorem hubLock_inCycle (h : InCycle z s) : InCycle z (hubLock x1 s) := by
  unfold hubLock
  try dsimp only
  repeat' first
      | (intro _) | (with_reducible assumption) | (with_reducible apply setState_inCycle)
      | (with_reducible exact InCycle.upd (by assumption) rfl rfl) | (with_reducible apply InCycle.ite)
      | (with_reducible refine InCycle.upd ?_ rfl rfl <;> first
          | (with_reducible apply setState_inCycle))
      | split

theorem hubLoad_inCycle (h : InCycle z s) : InCycle z (hubLoad x1 s) := by
  unfold hubLoad
  try dsimp only
  repeat' first
      | (intro _) | (with_reducible assumption) | (with_reducible apply modCart_inCycle)
      | (with_reducible exact InCycle.upd (by assumption) rfl rfl) | (with_reducible apply InCycle.ite)
      | (with_reducible refine InCycle.upd ?_ rfl rfl <;> first
          | (with_reducible apply modCart_inCycle))
      | split

theorem hubSync_inCycle (h : InCycle z s) : InCycle z (hubSync x1 s) := by
  unfold hubSync
  try dsimp only
  repeat' first
      | (intro _) | (with_reducible assumption) | (with_reducible apply setState_inCycle)
      | (with_reducible apply modCart_inCycle) | (with_reducible exact InCycle.upd (by assumption) rfl rfl)
      | (with_reducible apply InCycle.ite)
      | (with_reducible refine InCycle.upd ?_ rfl rfl <;> first
          | (with_reducible apply setState_inCycle) | (with_reducible apply modCart_inCycle))
      | split

theorem hubMismatch_inCycle (h : InCycle z s) : InCycle z (hubMismatch x1 s) := by
  unfold hubMismatch
  try dsimp only
  repeat' first
      | (intro _) | (with_reducible assumption) | (with_reducible apply count_inCycle) | (with_reducible apply modCart_inCycle)
      | (with_reducible apply setState_inCycle) | (with_reducible exact InCycle.upd (by assumption) rfl rfl)
      | (with_reducible apply InCycle.ite)
      | (with_reducible refine InCycle.upd ?_ rfl rfl <;> first
          | (with_reducible apply count_inCycle) | (with_reducible apply modCart_inCycle)
          | (with_reducible apply setState_inCycle))
      | split

theorem hubJoin_inCycle (h : InCycle z s) : InCycle z (hubJoin x1 s) := by
  unfold hubJoin
  try dsimp only
  repeat' first
      | (intro _) | (with_reducible assumption) | (with_reducible apply joinStep_inCycle)
      | (with_reducible apply endWindow_inCycle) | (with_reducible exact InCycle.upd (by assumption) rfl rfl)
      | (with_reducible apply InCycle.ite)
      | (with_reducible refine InCycle.upd ?_ rfl rfl <;> first
          | (with_reducible apply joinStep_inCycle) | (with_reducible apply endWindow_inCycle))
      | split

theorem remapUnit_inCycle (h : InCycle z s) : InCycle z (remapUnit x1 x2 x3 s).1 := by
  unfold remapUnit
  try dsimp only
  repeat' first
      | (intro _) | (with_reducible assumption) | (with_reducible apply count_inCycle) | (with_reducible apply irq_inCycle)
      | (with_reducible apply modCart_inCycle) | (with_reducible exact InCycle.upd (by assumption) rfl rfl)
      | (with_reducible apply InCycle.ite)
      | (with_reducible refine InCycle.upd ?_ rfl rfl <;> first
          | (with_reducible apply count_inCycle) | (with_reducible apply irq_inCycle) | (with_reducible apply modCart_inCycle))
      | split

theorem bistFault_inCycle {c : Cart} {u : Nat × Nat} {x : State × Bool} (h : InCycle z x.1) : InCycle z (bistFault c u x).1 := by
  unfold bistFault
  exact remapUnit_inCycle (modCart_inCycle h)

theorem selftest_inCycle {c : Cart} {l : List (Nat × Nat)} {b : Bool} (h : InCycle z s) : InCycle z (selftest c l b s) := by
  have fold : ∀ (l : List (Nat × Nat)) (x : State × Bool), InCycle z x.1 → InCycle z (l.foldl (fun x u => bistFault c u x) x).1 := by
    intro l
    induction l with
    | nil => exact fun _ h => h
    | cons j l ih => exact fun x h => ih _ (bistFault_inCycle h)
  unfold selftest
  split
  · split
    rename_i p i _
    have g := fold l (count p i 2 s, true) (count_inCycle h)
    dsimp only
    generalize l.foldl (fun x u => bistFault c u x) (count p i 2 s, true) = r at g ⊢
    repeat' first
        | (intro _) | (with_reducible assumption)
        | (with_reducible apply inserted_inCycle) | (with_reducible apply beginReadmit_inCycle)
        | (with_reducible apply setState_inCycle) | (with_reducible apply modCart_inCycle)
        | (with_reducible exact InCycle.upd (by assumption) rfl rfl) | (with_reducible apply InCycle.ite) | split
  · exact h

theorem remapCommand_inCycle (h : InCycle z s) : InCycle z (remapCommand x1 x2 x3 s) := by
  unfold remapCommand
  try dsimp only
  repeat' first
      | (intro _) | (with_reducible assumption) | (with_reducible apply remapUnit_inCycle)
      | (with_reducible apply recordErr_inCycle) | (with_reducible exact InCycle.upd (by assumption) rfl rfl)
      | (with_reducible apply InCycle.ite)
      | (with_reducible refine InCycle.upd ?_ rfl rfl <;> first
          | (with_reducible apply remapUnit_inCycle) | (with_reducible apply recordErr_inCycle))
      | split

theorem clearRemaps_inCycle (h : InCycle z s) : InCycle z (clearRemaps x1 s) := by
  unfold clearRemaps
  try dsimp only
  repeat' first
      | (intro _) | (with_reducible assumption) | (with_reducible apply modCart_inCycle)
      | (with_reducible apply recordErr_inCycle) | (with_reducible exact InCycle.upd (by assumption) rfl rfl)
      | (with_reducible apply InCycle.ite)
      | (with_reducible refine InCycle.upd ?_ rfl rfl <;> first
          | (with_reducible apply modCart_inCycle) | (with_reducible apply recordErr_inCycle))
      | split

theorem thermalStop_inCycle (h : InCycle z s) : InCycle z (thermalStop x1 s) := by
  unfold thermalStop
  try dsimp only
  repeat' first
      | (intro _) | (with_reducible assumption) | (with_reducible apply modCart_inCycle)
      | (with_reducible apply silent_inCycle) | (with_reducible exact InCycle.upd (by assumption) rfl rfl)
      | (with_reducible apply InCycle.ite)
      | (with_reducible refine InCycle.upd ?_ rfl rfl <;> first
          | (with_reducible apply modCart_inCycle) | (with_reducible apply silent_inCycle))
      | split

theorem thermalRecovery_inCycle (h : InCycle z s) : InCycle z (thermalRecovery x1 s) := by
  unfold thermalRecovery
  try dsimp only
  repeat' first
      | (intro _) | (with_reducible assumption) | (with_reducible apply modCart_inCycle)
      | (with_reducible apply silent_inCycle) | (with_reducible apply setState_inCycle)
      | (with_reducible apply selftest_inCycle) | (with_reducible exact InCycle.upd (by assumption) rfl rfl)
      | (with_reducible apply InCycle.ite)
      | (with_reducible refine InCycle.upd ?_ rfl rfl <;> first
          | (with_reducible apply modCart_inCycle) | (with_reducible apply silent_inCycle)
          | (with_reducible apply setState_inCycle) | (with_reducible apply selftest_inCycle))
      | split

theorem windowClose_inCycle (h : InCycle z s) : InCycle z (windowClose x1 x2 s) := by
  unfold windowClose
  try dsimp only
  repeat' first
      | (intro _) | (with_reducible assumption) | (with_reducible exact InCycle.upd (by assumption) rfl rfl)
      | (with_reducible apply InCycle.ite)
      | split

theorem laneVote_inCycle (h : InCycle z s) : InCycle z (laneVote s) := by
  unfold laneVote
  try dsimp only
  repeat' first
      | (intro _) | (with_reducible assumption) | (with_reducible exact InCycle.upd (by assumption) rfl rfl)
      | (with_reducible apply InCycle.ite)
      | split

theorem formVerdict_inCycle (h : InCycle z s) : InCycle z (formVerdict x1 x2 s) := by
  unfold formVerdict
  try dsimp only
  repeat' first
      | (intro _) | (with_reducible assumption) | (with_reducible apply count_inCycle) | (with_reducible apply irq_inCycle)
      | (with_reducible exact InCycle.upd (by assumption) rfl rfl) | (with_reducible apply InCycle.ite)
      | (with_reducible refine InCycle.upd ?_ rfl rfl <;> first
          | (with_reducible apply count_inCycle) | (with_reducible apply irq_inCycle))
      | split

theorem compareVerdict_inCycle (h : InCycle z s) : InCycle z (compareVerdict x1 s) := by
  unfold compareVerdict
  try dsimp only
  repeat' first
      | (intro _) | (with_reducible assumption) | (with_reducible apply countIf_inCycle)
      | (with_reducible exact InCycle.upd (by assumption) rfl rfl) | (with_reducible apply InCycle.ite)
      | (with_reducible refine InCycle.upd ?_ rfl rfl <;> first
          | (with_reducible apply countIf_inCycle))
      | split

theorem selfFence_inCycle (h : InCycle z s) : InCycle z (selfFence x1 s) := by
  unfold selfFence
  try dsimp only
  repeat' first
      | (intro _) | (with_reducible assumption) | (with_reducible apply irq_inCycle)
      | (with_reducible exact InCycle.upd (by assumption) rfl rfl) | (with_reducible apply InCycle.ite)
      | (with_reducible refine InCycle.upd ?_ rfl rfl <;> first
          | (with_reducible apply irq_inCycle))
      | split

theorem actVerdict_inCycle (h : InCycle z s) : InCycle z (actVerdict s) := by
  unfold actVerdict
  try dsimp only
  repeat' first
      | (intro _) | (with_reducible assumption) | (with_reducible apply forEach_inCycle)
      | (with_reducible apply fenceLane_inCycle) | (with_reducible apply cusEvent_inCycle)
      | (with_reducible apply cellSs1_inCycle) | (with_reducible apply lanesLost_inCycle)
      | (with_reducible exact InCycle.upd (by assumption) rfl rfl) | (with_reducible apply InCycle.ite)
      | (with_reducible refine InCycle.upd ?_ rfl rfl <;> first
          | (with_reducible apply forEach_inCycle) | (with_reducible apply fenceLane_inCycle)
          | (with_reducible apply cusEvent_inCycle) | (with_reducible apply cellSs1_inCycle)
          | (with_reducible apply lanesLost_inCycle))
      | split

theorem irqVote_inCycle (h : InCycle z s) : InCycle z (irqVote s) := by
  unfold irqVote
  try dsimp only
  repeat' first
      | (intro _) | (with_reducible assumption) | (with_reducible apply count_inCycle) | (with_reducible apply forEach_inCycle)
      | (with_reducible apply withRise_inCycle) | (with_reducible exact InCycle.upd (by assumption) rfl rfl)
      | (with_reducible apply InCycle.ite)
      | (with_reducible refine InCycle.upd ?_ rfl rfl <;> first
          | (with_reducible apply count_inCycle) | (with_reducible apply forEach_inCycle)
          | (with_reducible apply withRise_inCycle))
      | split

theorem verdict_inCycle (h : InCycle z s) : InCycle z (verdict x1 x2 s) := by
  unfold verdict
  try dsimp only
  repeat' first
      | (intro _) | (with_reducible assumption) | (with_reducible apply formVerdict_inCycle)
      | (with_reducible apply compareVerdict_inCycle) | (with_reducible apply actVerdict_inCycle)
      | (with_reducible apply selfFence_inCycle) | (with_reducible apply irqVote_inCycle)
      | (with_reducible exact InCycle.upd (by assumption) rfl rfl) | (with_reducible apply InCycle.ite)
      | (with_reducible refine InCycle.upd ?_ rfl rfl <;> first
          | (with_reducible apply formVerdict_inCycle) | (with_reducible apply compareVerdict_inCycle)
          | (with_reducible apply actVerdict_inCycle) | (with_reducible apply selfFence_inCycle)
          | (with_reducible apply irqVote_inCycle))
      | split

theorem custodianReadmit_inCycle (h : InCycle z s) : InCycle z (custodianReadmit x1 s) := by
  unfold custodianReadmit
  try dsimp only
  repeat' first
      | (intro _) | (with_reducible assumption) | (with_reducible apply recordErr_inCycle)
      | (with_reducible exact InCycle.upd (by assumption) rfl rfl) | (with_reducible apply InCycle.ite)
      | (with_reducible refine InCycle.upd ?_ rfl rfl <;> first
          | (with_reducible apply recordErr_inCycle))
      | split

theorem custodianReturn_inCycle (h : InCycle z s) : InCycle z (custodianReturn x1 s) := by
  unfold custodianReturn
  try dsimp only
  repeat' first
      | (intro _) | (with_reducible assumption) | (with_reducible exact InCycle.upd (by assumption) rfl rfl)
      | (with_reducible apply InCycle.ite)
      | split

theorem setReport_inCycle (h : InCycle z s) : InCycle z (setReport x1 x2 x3 s) := by
  unfold setReport
  try dsimp only
  repeat' first
      | (intro _) | (with_reducible assumption) | (with_reducible exact InCycle.upd (by assumption) rfl rfl)
      | (with_reducible apply InCycle.ite)
      | split

theorem inputBundle_inCycle (h : InCycle z s) : InCycle z (inputBundle x1 x2 x3 x4 s) := by
  unfold inputBundle
  try dsimp only
  repeat' first
      | (intro _) | (with_reducible assumption) | (with_reducible apply setReport_inCycle)
      | (with_reducible exact InCycle.upd (by assumption) rfl rfl) | (with_reducible apply InCycle.ite)
      | (with_reducible refine InCycle.upd ?_ rfl rfl <;> first
          | (with_reducible apply setReport_inCycle))
      | split

theorem silentDetected_inCycle (h : InCycle z s) : InCycle z (silentDetected x1 x2 s) := by
  unfold silentDetected
  try dsimp only
  repeat' first
      | (intro _) | (with_reducible assumption) | (with_reducible apply setReport_inCycle)
      | (with_reducible exact InCycle.upd (by assumption) rfl rfl) | (with_reducible apply InCycle.ite)
      | (with_reducible refine InCycle.upd ?_ rfl rfl <;> first
          | (with_reducible apply setReport_inCycle))
      | split

end Sys2Proof.Machine
end

