-- ==== Sys2Proof/Laws/InCycleWearline.lean ====
section
/-! SUPPORT. What the operations of Machine/Wearline.lean keep. -/

namespace Sys2Proof.Machine

variable {z s : State}

set_option linter.unusedTactic false
set_option linter.unreachableTactic false

theorem goodSlot_inCycle (h : InCycle z s) : InCycle z (goodSlot x1 x2 s) := by
  unfold goodSlot
  try dsimp only
  repeat' first
      | (intro _) | (with_reducible assumption) | (with_reducible apply modWl_inCycle)
      | (with_reducible exact InCycle.upd (by assumption) rfl rfl) | (with_reducible apply InCycle.ite)
      | (with_reducible refine InCycle.upd ?_ rfl rfl <;> first
          | (with_reducible apply modWl_inCycle))
      | split

theorem loadEq_keeps (h : Keeps z s) : Keeps z (loadEq x1 x2 s) := h.trans (loadEq_inCycle InCycle.refl).toKeeps

theorem modWl_keeps (h : Keeps z s) : Keeps z (modWl x1 s) := h.trans (modWl_inCycle InCycle.refl).toKeeps

theorem listenFrom_keeps (h : Keeps z s) : Keeps z (listenFrom x1 s) := by
  unfold listenFrom
  try dsimp only
  repeat' first
      | (intro _) | (with_reducible assumption) | (with_reducible apply loadEq_keeps) | (with_reducible apply modWl_keeps)
      | (with_reducible exact Keeps.upd (by assumption) ⟨rfl, rfl⟩ rfl) | (with_reducible apply Keeps.ite)
      | (with_reducible refine Keeps.upd ?_ ⟨rfl, rfl⟩ rfl <;> first
          | (with_reducible apply loadEq_keeps) | (with_reducible apply modWl_keeps))
      | split

theorem loopError_inCycle (h : InCycle z s) : InCycle z (loopError x1 x2 s) := by
  unfold loopError
  try dsimp only
  repeat' first
      | (intro _) | (with_reducible assumption) | (with_reducible apply countHub_inCycle) | (with_reducible apply irq_inCycle)
      | (with_reducible apply modWl_inCycle) | (with_reducible exact InCycle.upd (by assumption) rfl rfl)
      | (with_reducible apply InCycle.ite)
      | (with_reducible refine InCycle.upd ?_ rfl rfl <;> first
          | (with_reducible apply countHub_inCycle) | (with_reducible apply irq_inCycle) | (with_reducible apply modWl_inCycle))
      | split

theorem loopError_keeps (h : Keeps z s) : Keeps z (loopError x1 x2 s) := h.trans (loopError_inCycle InCycle.refl).toKeeps

theorem loopBack_keeps (h : Keeps z s) : Keeps z (loopBack x1 x2 x3 x4 s) := by
  unfold loopBack
  try dsimp only
  repeat' first
      | (intro _) | (with_reducible assumption) | (with_reducible apply loopError_keeps)
      | (with_reducible apply listenFrom_keeps) | (with_reducible exact Keeps.upd (by assumption) ⟨rfl, rfl⟩ rfl)
      | (with_reducible apply Keeps.ite)
      | (with_reducible refine Keeps.upd ?_ ⟨rfl, rfl⟩ rfl <;> first
          | (with_reducible apply loopError_keeps) | (with_reducible apply listenFrom_keeps))
      | split

theorem putBurst_inCycle (h : InCycle z s) : InCycle z (putBurst x1 x2 x3 x4 x5 x6 s) := by
  unfold putBurst
  try dsimp only
  repeat' first
      | (intro _) | (with_reducible assumption) | (with_reducible apply modWl_inCycle)
      | (with_reducible exact InCycle.upd (by assumption) rfl rfl) | (with_reducible apply InCycle.ite)
      | (with_reducible refine InCycle.upd ?_ rfl rfl <;> first
          | (with_reducible apply modWl_inCycle))
      | split

theorem trainGood_inCycle (h : InCycle z s) : InCycle z (trainGood x1 x2 x3 x4 s) := by
  unfold trainGood
  try dsimp only
  repeat' first
      | (intro _) | (with_reducible assumption) | (with_reducible apply drawFree_inCycle)
      | (with_reducible apply countHub_inCycle) | (with_reducible apply modEq_inCycle)
      | (with_reducible exact InCycle.upd (by assumption) rfl rfl) | (with_reducible apply InCycle.ite)
      | (with_reducible refine InCycle.upd ?_ rfl rfl <;> first
          | (with_reducible apply drawFree_inCycle) | (with_reducible apply countHub_inCycle)
          | (with_reducible apply modEq_inCycle))
      | split

theorem peerReception_inCycle (h : InCycle z s) : InCycle z (peerReception x1 x2 x3 x4 s) := by
  unfold peerReception
  try dsimp only
  repeat' first
      | (intro _) | (with_reducible assumption) | (with_reducible apply countHub_inCycle)
      | (with_reducible apply trainGood_inCycle) | (with_reducible apply adapt_inCycle)
      | (with_reducible exact InCycle.upd (by assumption) rfl rfl) | (with_reducible apply InCycle.ite)
      | (with_reducible refine InCycle.upd ?_ rfl rfl <;> first
          | (with_reducible apply countHub_inCycle) | (with_reducible apply trainGood_inCycle)
          | (with_reducible apply adapt_inCycle))
      | split

theorem goodSlot_keeps (h : Keeps z s) : Keeps z (goodSlot x1 x2 s) := h.trans (goodSlot_inCycle InCycle.refl).toKeeps

theorem putBurst_keeps (h : Keeps z s) : Keeps z (putBurst x1 x2 x3 x4 x5 x6 s) :=
    h.trans (putBurst_inCycle InCycle.refl).toKeeps

theorem countHub_keeps (h : Keeps z s) : Keeps z (countHub x1 x2 x3 x4 s) := h.trans (countHub_inCycle InCycle.refl).toKeeps

theorem peerReception_keeps (h : Keeps z s) : Keeps z (peerReception x1 x2 x3 x4 s) :=
    h.trans (peerReception_inCycle InCycle.refl).toKeeps

theorem sendFrame_keeps (h : Keeps z s) : Keeps z (sendFrame x1 x2 x3 s) := by
  unfold sendFrame
  try dsimp only
  repeat' first
      | (intro _) | (with_reducible assumption) | (with_reducible apply forEach_keeps) | (with_reducible apply goodSlot_keeps)
      | (with_reducible apply putBurst_keeps) | (with_reducible apply countHub_keeps)
      | (with_reducible apply peerReception_keeps) | (with_reducible apply loopBack_keeps)
      | (with_reducible exact Keeps.upd (by assumption) ⟨rfl, rfl⟩ rfl) | (with_reducible apply Keeps.ite)
      | (with_reducible refine Keeps.upd ?_ ⟨rfl, rfl⟩ rfl <;> first
          | (with_reducible apply forEach_keeps) | (with_reducible apply goodSlot_keeps)
          | (with_reducible apply putBurst_keeps) | (with_reducible apply countHub_keeps)
          | (with_reducible apply peerReception_keeps) | (with_reducible apply loopBack_keeps))
      | split

theorem sendSlot_keeps (h : Keeps z s) : Keeps z (sendSlot x1 x2 x3 x4 s) := by
  unfold sendSlot
  try dsimp only
  repeat' first
      | (intro _) | (with_reducible assumption) | (with_reducible apply sendFrame_keeps)
      | (with_reducible exact Keeps.upd (by assumption) ⟨rfl, rfl⟩ rfl) | (with_reducible apply Keeps.ite)
      | (with_reducible refine Keeps.upd ?_ ⟨rfl, rfl⟩ rfl <;> first
          | (with_reducible apply sendFrame_keeps))
      | split

theorem elapseTraining_inCycle (h : InCycle z s) : InCycle z (elapseTraining x1 x2 x3 s) := by
  unfold elapseTraining
  try dsimp only
  repeat' first
      | (intro _) | (with_reducible assumption) | (with_reducible apply forEach_inCycle) | (with_reducible apply modEq_inCycle)
      | (with_reducible exact InCycle.upd (by assumption) rfl rfl) | (with_reducible apply InCycle.ite)
      | (with_reducible refine InCycle.upd ?_ rfl rfl <;> first
          | (with_reducible apply forEach_inCycle) | (with_reducible apply modEq_inCycle))
      | split

theorem judgeSlot_inCycle (h : InCycle z s) : InCycle z (judgeSlot x1 x2 s) := by
  unfold judgeSlot
  try dsimp only
  repeat' first
      | (intro _) | (with_reducible assumption) | (with_reducible apply forEach_inCycle)
      | (with_reducible apply countIf_inCycle) | (with_reducible exact InCycle.upd (by assumption) rfl rfl)
      | (with_reducible apply InCycle.ite)
      | (with_reducible refine InCycle.upd ?_ rfl rfl <;> first
          | (with_reducible apply forEach_inCycle) | (with_reducible apply countIf_inCycle))
      | split

theorem advanceTo_keeps (h : Keeps z s) : Keeps z (advanceTo x1 s) := h.trans (advanceTo_inCycle InCycle.refl).toKeeps

theorem judgeSlot_keeps (h : Keeps z s) : Keeps z (judgeSlot x1 x2 s) := h.trans (judgeSlot_inCycle InCycle.refl).toKeeps

theorem elapseTraining_keeps (h : Keeps z s) : Keeps z (elapseTraining x1 x2 x3 s) :=
    h.trans (elapseTraining_inCycle InCycle.refl).toKeeps

theorem staticSlot_keeps (h : Keeps z s) : Keeps z (staticSlot x1 x2 s) := by
  unfold staticSlot
  try dsimp only
  repeat' first
      | (intro _) | (with_reducible assumption) | (with_reducible apply advanceTo_keeps)
      | (with_reducible apply judgeSlot_keeps) | (with_reducible apply forEach_keeps) | (with_reducible apply loadEq_keeps)
      | (with_reducible apply elapseTraining_keeps) | (with_reducible apply sendSlot_keeps)
      | (with_reducible exact Keeps.upd (by assumption) ⟨rfl, rfl⟩ rfl) | (with_reducible apply Keeps.ite)
      | (with_reducible refine Keeps.upd ?_ ⟨rfl, rfl⟩ rfl <;> first
          | (with_reducible apply advanceTo_keeps) | (with_reducible apply judgeSlot_keeps)
          | (with_reducible apply forEach_keeps) | (with_reducible apply loadEq_keeps)
          | (with_reducible apply elapseTraining_keeps) | (with_reducible apply sendSlot_keeps))
      | split

theorem keepSeq_inCycle (h : InCycle z s) : InCycle z (keepSeq x1 x2 s) := by
  unfold keepSeq
  try dsimp only
  repeat' first
      | (intro _) | (with_reducible assumption) | (with_reducible apply modWl_inCycle)
      | (with_reducible exact InCycle.upd (by assumption) rfl rfl) | (with_reducible apply InCycle.ite)
      | (with_reducible refine InCycle.upd ?_ rfl rfl <;> first
          | (with_reducible apply modWl_inCycle))
      | split

theorem countFailure_inCycle (h : InCycle z s) : InCycle z (countFailure x1 x2 x3 s) := by
  unfold countFailure
  try dsimp only
  repeat' first
      | (intro _) | (with_reducible assumption) | (with_reducible apply countHub_inCycle)
      | (with_reducible exact InCycle.upd (by assumption) rfl rfl) | (with_reducible apply InCycle.ite)
      | (with_reducible refine InCycle.upd ?_ rfl rfl <;> first
          | (with_reducible apply countHub_inCycle))
      | split

theorem countOutcome_inCycle (h : InCycle z s) : InCycle z (countOutcome x1 x2 x3 s) := by
  unfold countOutcome
  try dsimp only
  repeat' first
      | (intro _) | (with_reducible assumption) | (with_reducible apply countFailure_inCycle)
      | (with_reducible apply countHub_inCycle) | (with_reducible exact InCycle.upd (by assumption) rfl rfl)
      | (with_reducible apply InCycle.ite)
      | (with_reducible refine InCycle.upd ?_ rfl rfl <;> first
          | (with_reducible apply countFailure_inCycle) | (with_reducible apply countHub_inCycle))
      | split

theorem takeFeedback_inCycle (h : InCycle z s) : InCycle z (takeFeedback x1 x2 s) := by
  unfold takeFeedback
  try dsimp only
  repeat' first
      | (intro _) | (with_reducible assumption) | (with_reducible apply forEach_inCycle)
      | (with_reducible apply modJoint_inCycle) | (with_reducible exact InCycle.upd (by assumption) rfl rfl)
      | (with_reducible apply InCycle.ite)
      | (with_reducible refine InCycle.upd ?_ rfl rfl <;> first
          | (with_reducible apply forEach_inCycle) | (with_reducible apply modJoint_inCycle))
      | split

theorem takeGuard_inCycle (h : InCycle z s) : InCycle z (takeGuard x1 x2 x3 x4 s) := by
  unfold takeGuard
  try dsimp only
  repeat' first
      | (intro _) | (with_reducible assumption) | (with_reducible apply forEach_inCycle)
      | (with_reducible apply modSrc_inCycle) | (with_reducible exact InCycle.upd (by assumption) rfl rfl)
      | (with_reducible apply InCycle.ite)
      | (with_reducible refine InCycle.upd ?_ rfl rfl <;> first
          | (with_reducible apply forEach_inCycle) | (with_reducible apply modSrc_inCycle))
      | split

theorem takeAux_inCycle (h : InCycle z s) : InCycle z (takeAux x1 s) := by
  unfold takeAux
  try dsimp only
  repeat' first
      | (intro _) | (with_reducible assumption) | (with_reducible apply forEach_inCycle)
      | (with_reducible apply genFeedback_inCycle) | (with_reducible apply stpFeedback_inCycle)
      | (with_reducible exact InCycle.upd (by assumption) rfl rfl) | (with_reducible apply InCycle.ite)
      | (with_reducible refine InCycle.upd ?_ rfl rfl <;> first
          | (with_reducible apply forEach_inCycle) | (with_reducible apply genFeedback_inCycle)
          | (with_reducible apply stpFeedback_inCycle))
      | split

theorem takeStatic_inCycle (h : InCycle z s) : InCycle z (takeStatic x1 x2 x3 s) := by
  unfold takeStatic
  try dsimp only
  repeat' first
      | (intro _) | (with_reducible assumption) | (with_reducible apply takeFeedback_inCycle)
      | (with_reducible apply takeGuard_inCycle) | (with_reducible apply takeAux_inCycle)
      | (with_reducible exact InCycle.upd (by assumption) rfl rfl) | (with_reducible apply InCycle.ite)
      | (with_reducible refine InCycle.upd ?_ rfl rfl <;> first
          | (with_reducible apply takeFeedback_inCycle) | (with_reducible apply takeGuard_inCycle)
          | (with_reducible apply takeAux_inCycle))
      | split

theorem configResponse_inCycle (h : InCycle z s) : InCycle z (configResponse x1 s) := by
  unfold configResponse
  try dsimp only
  repeat' first
      | (intro _) | (with_reducible assumption) | (with_reducible apply modWl_inCycle)
      | (with_reducible exact InCycle.upd (by assumption) rfl rfl) | (with_reducible apply InCycle.ite)
      | (with_reducible refine InCycle.upd ?_ rfl rfl <;> first
          | (with_reducible apply modWl_inCycle))
      | split

theorem takeDynamic_inCycle (h : InCycle z s) : InCycle z (takeDynamic x1 x2 x3 x4 s) := by
  unfold takeDynamic
  try dsimp only
  repeat' first
      | (intro _) | (with_reducible assumption) | (with_reducible apply count_inCycle)
      | (with_reducible apply configResponse_inCycle) | (with_reducible apply irq_inCycle)
      | (with_reducible apply modWl_inCycle) | (with_reducible exact InCycle.upd (by assumption) rfl rfl)
      | (with_reducible apply InCycle.ite)
      | (with_reducible refine InCycle.upd ?_ rfl rfl <;> first
          | (with_reducible apply count_inCycle) | (with_reducible apply configResponse_inCycle)
          | (with_reducible apply irq_inCycle) | (with_reducible apply modWl_inCycle))
      | split

theorem trainSlot_inCycle (h : InCycle z s) : InCycle z (trainSlot x1 x2 x3 x4 s) := by
  unfold trainSlot
  try dsimp only
  repeat' first
      | (intro _) | (with_reducible assumption) | (with_reducible apply trainGood_inCycle)
      | (with_reducible apply adapt_inCycle) | (with_reducible apply modEq_inCycle)
      | (with_reducible exact InCycle.upd (by assumption) rfl rfl) | (with_reducible apply InCycle.ite)
      | (with_reducible refine InCycle.upd ?_ rfl rfl <;> first
          | (with_reducible apply trainGood_inCycle) | (with_reducible apply adapt_inCycle)
          | (with_reducible apply modEq_inCycle))
      | split

theorem hubReception_inCycle (h : InCycle z s) : InCycle z (hubReception x1 x2 x3 x4 x5 s) := by
  unfold hubReception
  try dsimp only
  repeat' first
      | (intro _) | (with_reducible assumption) | (with_reducible apply countOutcome_inCycle)
      | (with_reducible apply goodSlot_inCycle) | (with_reducible apply trainSlot_inCycle)
      | (with_reducible apply adapt_inCycle) | (with_reducible exact InCycle.upd (by assumption) rfl rfl)
      | (with_reducible apply InCycle.ite)
      | (with_reducible refine InCycle.upd ?_ rfl rfl <;> first
          | (with_reducible apply countOutcome_inCycle) | (with_reducible apply goodSlot_inCycle)
          | (with_reducible apply trainSlot_inCycle) | (with_reducible apply adapt_inCycle))
      | split

theorem integrate_keeps (h : Keeps z s) : Keeps z (integrate x1 x2 s) := by
  unfold integrate
  try dsimp only
  repeat' first
      | (intro _) | (with_reducible assumption) | (with_reducible apply modWl_keeps)
      | (with_reducible exact Keeps.upd (by assumption) ⟨rfl, rfl⟩ rfl) | (with_reducible apply Keeps.ite)
      | (with_reducible refine Keeps.upd ?_ ⟨rfl, rfl⟩ rfl <;> first
          | (with_reducible apply modWl_keeps))
      | split

theorem deliver_inCycle (h : InCycle z s) : InCycle z (deliver x1 x2 x3 x4 s) := by
  unfold deliver
  try dsimp only
  repeat' first
      | (intro _) | (with_reducible assumption) | (with_reducible apply modWl_inCycle)
      | (with_reducible apply takeDynamic_inCycle) | (with_reducible apply keepSeq_inCycle)
      | (with_reducible apply takeStatic_inCycle) | (with_reducible exact InCycle.upd (by assumption) rfl rfl)
      | (with_reducible apply InCycle.ite)
      | (with_reducible refine InCycle.upd ?_ rfl rfl <;> first
          | (with_reducible apply modWl_inCycle) | (with_reducible apply takeDynamic_inCycle)
          | (with_reducible apply keepSeq_inCycle) | (with_reducible apply takeStatic_inCycle))
      | split

theorem receive_inCycle (h : InCycle z s) : InCycle z (receive x1 x2 x3 x4 x5 s) := by
  unfold receive
  try dsimp only
  repeat' first
      | (intro _) | (with_reducible assumption) | (with_reducible apply exchanged_inCycle)
      | (with_reducible apply countIf_inCycle) | (with_reducible apply modWl_inCycle)
      | (with_reducible apply hubReception_inCycle) | (with_reducible apply deliver_inCycle)
      | (with_reducible exact InCycle.upd (by assumption) rfl rfl) | (with_reducible apply InCycle.ite)
      | (with_reducible refine InCycle.upd ?_ rfl rfl <;> first
          | (with_reducible apply exchanged_inCycle) | (with_reducible apply countIf_inCycle)
          | (with_reducible apply modWl_inCycle) | (with_reducible apply hubReception_inCycle)
          | (with_reducible apply deliver_inCycle))
      | split

theorem countIntact_inCycle (h : InCycle z s) : InCycle z (countIntact x1 x2 x3 s) := by
  unfold countIntact
  try dsimp only
  repeat' first
      | (intro _) | (with_reducible assumption) | (with_reducible apply forEach_inCycle)
      | (with_reducible apply countOutcome_inCycle) | (with_reducible exact InCycle.upd (by assumption) rfl rfl)
      | (with_reducible apply InCycle.ite)
      | (with_reducible refine InCycle.upd ?_ rfl rfl <;> first
          | (with_reducible apply forEach_inCycle) | (with_reducible apply countOutcome_inCycle))
      | split

theorem countIntact_keeps (h : Keeps z s) : Keeps z (countIntact x1 x2 x3 s) :=
    h.trans (countIntact_inCycle InCycle.refl).toKeeps

theorem listenReception_keeps (h : Keeps z s) : Keeps z (listenReception x1 x2 x3 x4 s) := by
  unfold listenReception
  try dsimp only
  repeat' first
      | (intro _) | (with_reducible assumption) | (with_reducible apply countIntact_keeps)
      | (with_reducible apply loadEq_keeps) | (with_reducible apply integrate_keeps) | (with_reducible apply modWl_keeps)
      | (with_reducible exact Keeps.upd (by assumption) ⟨rfl, rfl⟩ rfl) | (with_reducible apply Keeps.ite)
      | (with_reducible refine Keeps.upd ?_ ⟨rfl, rfl⟩ rfl <;> first
          | (with_reducible apply countIntact_keeps) | (with_reducible apply loadEq_keeps)
          | (with_reducible apply integrate_keeps) | (with_reducible apply modWl_keeps))
      | split

theorem advance_keeps (h : Keeps z s) : Keeps z (advance x1 s) := h.trans (advance_inCycle InCycle.refl).toKeeps

theorem receive_keeps (h : Keeps z s) : Keeps z (receive x1 x2 x3 x4 x5 s) := h.trans (receive_inCycle InCycle.refl).toKeeps

theorem frameReceived_keeps (h : Keeps z s) : Keeps z (frameReceived x1 x2 x3 x4 x5 s) := by
  unfold frameReceived
  try dsimp only
  repeat' first
      | (intro _) | (with_reducible assumption) | (with_reducible apply advance_keeps) | (with_reducible apply forEach_keeps)
      | (with_reducible apply modWl_keeps) | (with_reducible apply listenReception_keeps)
      | (with_reducible apply receive_keeps) | (with_reducible apply countIntact_keeps)
      | (with_reducible exact Keeps.upd (by assumption) ⟨rfl, rfl⟩ rfl) | (with_reducible apply Keeps.ite)
      | (with_reducible refine Keeps.upd ?_ ⟨rfl, rfl⟩ rfl <;> first
          | (with_reducible apply advance_keeps) | (with_reducible apply forEach_keeps) | (with_reducible apply modWl_keeps)
          | (with_reducible apply listenReception_keeps) | (with_reducible apply receive_keeps)
          | (with_reducible apply countIntact_keeps))
      | split

theorem modBuf_inCycle (h : InCycle z s) : InCycle z (modBuf x1 x2 s) := by
  unfold modBuf
  try dsimp only
  repeat' first
      | (intro _) | (with_reducible assumption) | (with_reducible apply modWl_inCycle)
      | (with_reducible exact InCycle.upd (by assumption) rfl rfl) | (with_reducible apply InCycle.ite)
      | (with_reducible refine InCycle.upd ?_ rfl rfl <;> first
          | (with_reducible apply modWl_inCycle))
      | split

theorem afterDynamic_kept {t : State} {c : Chan} {r : SlotRow} {k : Nat} {p : List Byte} {f : State → State}
    (e : dynPayload t c r = some (k, p, f)) (g : Keeps z s) : Keeps z (f s) := by
  unfold dynPayload at e
  split at e
  · split at e
    · cases e
    · obtain ⟨q, -, hq⟩ := Option.map_eq_some_iff.mp e
      cases hq; exact modWl_keeps g
  · split at e
    · obtain ⟨i, -, hi⟩ := Option.bind_eq_some_iff.mp e
      obtain ⟨q, -, hq⟩ := Option.map_eq_some_iff.mp hi
      cases hq; exact g.trans (modBuf_inCycle InCycle.refl).toKeeps
    · cases e
      exact ⟨g.pending, g.regs, g.mem, g.fifo, Nat.le_add_right_of_le g.free, g.now⟩

theorem minislot_keeps {c : Chan} {b : Bool} (h : Keeps z s) : Keeps z (minislot c b s) := by
  unfold minislot
  split
  · exact h
  dsimp only
  split
  · exact h
  split
  · with_reducible exact loadEq_keeps (modWl_keeps (advanceTo_keeps h))
  split
  · with_reducible exact loadEq_keeps (modWl_keeps (advanceTo_keeps h))
  split
  · with_reducible exact loadEq_keeps (modWl_keeps (advanceTo_keeps h))
  rename_i e
  split
  · refine modWl_keeps (afterDynamic_kept e (Keeps.trans ?_ (count_inCycle InCycle.refl).toKeeps))
    with_reducible exact sendFrame_keeps (loadEq_keeps (modWl_keeps (advanceTo_keeps h)))
  · refine Keeps.trans ?_ (count_inCycle InCycle.refl).toKeeps
    with_reducible exact loadEq_keeps (modWl_keeps (advanceTo_keeps h))

theorem bufferCutOff_inCycle (h : InCycle z s) : InCycle z (bufferCutOff s) := by
  unfold bufferCutOff
  try dsimp only
  repeat' first
      | (intro _) | (with_reducible assumption) | (with_reducible apply advanceTo_inCycle)
      | (with_reducible apply forEach_inCycle) | (with_reducible apply haLate_inCycle) | (with_reducible apply modBuf_inCycle)
      | (with_reducible exact InCycle.upd (by assumption) rfl rfl) | (with_reducible apply InCycle.ite)
      | (with_reducible refine InCycle.upd ?_ rfl rfl <;> first
          | (with_reducible apply advanceTo_inCycle) | (with_reducible apply forEach_inCycle)
          | (with_reducible apply haLate_inCycle) | (with_reducible apply modBuf_inCycle))
      | split

theorem writeHbCfg_inCycle (h : InCycle z s) : InCycle z (writeHbCfg x1 s) := by
  unfold writeHbCfg
  try dsimp only
  repeat' first
      | (intro _) | (with_reducible assumption) | (with_reducible apply recordErr_inCycle) | (with_reducible apply chg_inCycle)
      | (with_reducible apply modBuf_inCycle) | (with_reducible exact InCycle.upd (by assumption) rfl rfl)
      | (with_reducible apply InCycle.ite)
      | (with_reducible refine InCycle.upd ?_ rfl rfl <;> first
          | (with_reducible apply recordErr_inCycle) | (with_reducible apply chg_inCycle)
          | (with_reducible apply modBuf_inCycle))
      | split

theorem advanceHb_inCycle (h : InCycle z s) : InCycle z (advanceHb s) := by
  unfold advanceHb
  try dsimp only
  repeat' first
      | (intro _) | (with_reducible assumption) | (with_reducible apply setReg_inCycle)
      | (with_reducible exact InCycle.upd (by assumption) rfl rfl) | (with_reducible apply InCycle.ite)
      | (with_reducible refine InCycle.upd ?_ rfl rfl <;> first
          | (with_reducible apply setReg_inCycle))
      | split

theorem writeHbData_inCycle (h : InCycle z s) : InCycle z (writeHbData x1 s) := by
  unfold writeHbData
  try dsimp only
  repeat' first
      | (intro _) | (with_reducible assumption) | (with_reducible apply chg_inCycle) | (with_reducible apply modBuf_inCycle)
      | (with_reducible exact InCycle.upd (by assumption) rfl rfl) | (with_reducible apply InCycle.ite)
      | (with_reducible refine InCycle.upd ?_ rfl rfl <;> first
          | (with_reducible apply chg_inCycle) | (with_reducible apply modBuf_inCycle))
      | split

theorem advanceRx_inCycle (h : InCycle z s) : InCycle z (advanceRx s) := by
  unfold advanceRx
  try dsimp only
  repeat' first
      | (intro _) | (with_reducible assumption) | (with_reducible apply modWl_inCycle)
      | (with_reducible exact InCycle.upd (by assumption) rfl rfl) | (with_reducible apply InCycle.ite)
      | (with_reducible refine InCycle.upd ?_ rfl rfl <;> first
          | (with_reducible apply modWl_inCycle))
      | split

theorem popRx_inCycle (h : InCycle z s) : InCycle z (popRx s) := by
  unfold popRx
  try dsimp only
  repeat' first
      | (intro _) | (with_reducible assumption) | (with_reducible apply modWl_inCycle)
      | (with_reducible exact InCycle.upd (by assumption) rfl rfl) | (with_reducible apply InCycle.ite)
      | (with_reducible refine InCycle.upd ?_ rfl rfl <;> first
          | (with_reducible apply modWl_inCycle))
      | split

theorem trainEntry_inCycle (h : InCycle z s) : InCycle z (trainEntry x1 x2 x3 s) := by
  unfold trainEntry
  try dsimp only
  repeat' first
      | (intro _) | (with_reducible assumption) | (with_reducible apply irq_inCycle) | (with_reducible apply modEq_inCycle)
      | (with_reducible exact InCycle.upd (by assumption) rfl rfl) | (with_reducible apply InCycle.ite)
      | (with_reducible refine InCycle.upd ?_ rfl rfl <;> first
          | (with_reducible apply irq_inCycle) | (with_reducible apply modEq_inCycle))
      | split

theorem trainingComplete_inCycle (h : InCycle z s) : InCycle z (trainingComplete x1 x2 s) := by
  unfold trainingComplete
  try dsimp only
  repeat' first
      | (intro _) | (with_reducible assumption) | (with_reducible apply forEach_inCycle)
      | (with_reducible apply trainEntry_inCycle) | (with_reducible exact InCycle.upd (by assumption) rfl rfl)
      | (with_reducible apply InCycle.ite)
      | (with_reducible refine InCycle.upd ?_ rfl rfl <;> first
          | (with_reducible apply forEach_inCycle) | (with_reducible apply trainEntry_inCycle))
      | split

theorem txFault_inCycle (h : InCycle z s) : InCycle z (txFault x1 x2 s) := by
  unfold txFault
  try dsimp only
  repeat' first
      | (intro _) | (with_reducible assumption) | (with_reducible apply countHub_inCycle) | (with_reducible apply irq_inCycle)
      | (with_reducible apply modWl_inCycle) | (with_reducible exact InCycle.upd (by assumption) rfl rfl)
      | (with_reducible apply InCycle.ite)
      | (with_reducible refine InCycle.upd ?_ rfl rfl <;> first
          | (with_reducible apply countHub_inCycle) | (with_reducible apply irq_inCycle) | (with_reducible apply modWl_inCycle))
      | split

theorem soldierBlock_inCycle (h : InCycle z s) : InCycle z (soldierBlock x1 x2 s) := by
  unfold soldierBlock
  try dsimp only
  repeat' first
      | (intro _) | (with_reducible assumption) | (with_reducible apply cutWire_inCycle)
      | (with_reducible apply silent_inCycle) | (with_reducible exact InCycle.upd (by assumption) rfl rfl)
      | (with_reducible apply InCycle.ite)
      | (with_reducible refine InCycle.upd ?_ rfl rfl <;> first
          | (with_reducible apply cutWire_inCycle) | (with_reducible apply silent_inCycle))
      | split

theorem soldierCut_inCycle (h : InCycle z s) : InCycle z (soldierCut x1 x2 s) := by
  unfold soldierCut
  try dsimp only
  repeat' first
      | (intro _) | (with_reducible assumption) | (with_reducible apply cutWire_inCycle)
      | (with_reducible apply silent_inCycle) | (with_reducible exact InCycle.upd (by assumption) rfl rfl)
      | (with_reducible apply InCycle.ite)
      | (with_reducible refine InCycle.upd ?_ rfl rfl <;> first
          | (with_reducible apply cutWire_inCycle) | (with_reducible apply silent_inCycle))
      | split

theorem oscillatorFailure_inCycle (h : InCycle z s) : InCycle z (oscillatorFailure x1 x2 s) := by
  unfold oscillatorFailure
  try dsimp only
  repeat' first
      | (intro _) | (with_reducible assumption) | (with_reducible apply silent_inCycle) | (with_reducible apply modWl_inCycle)
      | (with_reducible exact InCycle.upd (by assumption) rfl rfl) | (with_reducible apply InCycle.ite)
      | (with_reducible refine InCycle.upd ?_ rfl rfl <;> first
          | (with_reducible apply silent_inCycle) | (with_reducible apply modWl_inCycle))
      | split

theorem writeRetrain_inCycle (h : InCycle z s) : InCycle z (writeRetrain x1 x2 s) := by
  unfold writeRetrain
  try dsimp only
  repeat' first
      | (intro _) | (with_reducible assumption) | (with_reducible apply retrain_inCycle)
      | (with_reducible exact InCycle.upd (by assumption) rfl rfl) | (with_reducible apply InCycle.ite)
      | (with_reducible refine InCycle.upd ?_ rfl rfl <;> first
          | (with_reducible apply retrain_inCycle))
      | split

theorem decideCons_inCycle (h : InCycle z s) : InCycle z (decideCons x1 s) := by
  unfold decideCons
  try dsimp only
  repeat' first
      | (intro _) | (with_reducible assumption) | (with_reducible apply modWl_inCycle)
      | (with_reducible exact InCycle.upd (by assumption) rfl rfl) | (with_reducible apply InCycle.ite)
      | (with_reducible refine InCycle.upd ?_ rfl rfl <;> first
          | (with_reducible apply modWl_inCycle))
      | split

theorem staticEnd_inCycle (h : InCycle z s) : InCycle z (staticEnd s) := by
  unfold staticEnd
  try dsimp only
  repeat' first
      | (intro _) | (with_reducible assumption) | (with_reducible apply advanceTo_inCycle)
      | (with_reducible exact InCycle.upd (by assumption) rfl rfl) | (with_reducible apply InCycle.ite)
      | (with_reducible refine InCycle.upd ?_ rfl rfl <;> first
          | (with_reducible apply advanceTo_inCycle))
      | split

theorem consolidationDecision_inCycle (h : InCycle z s) : InCycle z (consolidationDecision s) := by
  unfold consolidationDecision
  try dsimp only
  repeat' first
      | (intro _) | (with_reducible assumption) | (with_reducible apply staticEnd_inCycle)
      | (with_reducible apply releaseShared_inCycle) | (with_reducible apply decideCons_inCycle)
      | (with_reducible exact InCycle.upd (by assumption) rfl rfl) | (with_reducible apply InCycle.ite)
      | (with_reducible refine InCycle.upd ?_ rfl rfl <;> first
          | (with_reducible apply staticEnd_inCycle) | (with_reducible apply releaseShared_inCycle)
          | (with_reducible apply decideCons_inCycle))
      | split

theorem consEnter_inCycle (h : InCycle z s) : InCycle z (consEnter x1 s) := by
  unfold consEnter
  try dsimp only
  repeat' first
      | (intro _) | (with_reducible assumption) | (with_reducible apply decideCons_inCycle)
      | (with_reducible exact InCycle.upd (by assumption) rfl rfl) | (with_reducible apply InCycle.ite)
      | (with_reducible refine InCycle.upd ?_ rfl rfl <;> first
          | (with_reducible apply decideCons_inCycle))
      | split

theorem consolidation_inCycle (h : InCycle z s) : InCycle z (consolidation s) := by
  unfold consolidation
  try dsimp only
  repeat' first
      | (intro _) | (with_reducible assumption) | (with_reducible apply count_inCycle) | (with_reducible apply irq_inCycle)
      | (with_reducible apply modWl_inCycle) | (with_reducible exact InCycle.upd (by assumption) rfl rfl)
      | (with_reducible apply InCycle.ite)
      | (with_reducible refine InCycle.upd ?_ rfl rfl <;> first
          | (with_reducible apply count_inCycle) | (with_reducible apply irq_inCycle) | (with_reducible apply modWl_inCycle))
      | split

theorem consExit_inCycle (h : InCycle z s) : InCycle z (consExit s) := by
  unfold consExit
  try dsimp only
  repeat' first
      | (intro _) | (with_reducible assumption) | (with_reducible apply modWl_inCycle)
      | (with_reducible apply recordErr_inCycle) | (with_reducible exact InCycle.upd (by assumption) rfl rfl)
      | (with_reducible apply InCycle.ite)
      | (with_reducible refine InCycle.upd ?_ rfl rfl <;> first
          | (with_reducible apply modWl_inCycle) | (with_reducible apply recordErr_inCycle))
      | split

theorem consolidationExit_inCycle (h : InCycle z s) : InCycle z (consolidationExit s) := by
  unfold consolidationExit
  try dsimp only
  repeat' first
      | (intro _) | (with_reducible assumption) | (with_reducible apply irq_inCycle) | (with_reducible apply modWl_inCycle)
      | (with_reducible apply txFault_inCycle) | (with_reducible exact InCycle.upd (by assumption) rfl rfl)
      | (with_reducible apply InCycle.ite)
      | (with_reducible refine InCycle.upd ?_ rfl rfl <;> first
          | (with_reducible apply irq_inCycle) | (with_reducible apply modWl_inCycle) | (with_reducible apply txFault_inCycle))
      | split

theorem bothLost_inCycle (h : InCycle z s) : InCycle z (bothLost s) := by
  unfold bothLost
  try dsimp only
  repeat' first
      | (intro _) | (with_reducible assumption) | (with_reducible apply staticEnd_inCycle) | (with_reducible apply irq_inCycle)
      | (with_reducible apply modWl_inCycle) | (with_reducible exact InCycle.upd (by assumption) rfl rfl)
      | (with_reducible apply InCycle.ite)
      | (with_reducible refine InCycle.upd ?_ rfl rfl <;> first
          | (with_reducible apply staticEnd_inCycle) | (with_reducible apply irq_inCycle)
          | (with_reducible apply modWl_inCycle))
      | split

theorem wlsGo_inCycle (h : InCycle z s) : InCycle z (wlsGo s) := by
  unfold wlsGo
  try dsimp only
  repeat' first
      | (intro _) | (with_reducible assumption) | (with_reducible apply recordErr_inCycle)
      | (with_reducible apply modWl_inCycle) | (with_reducible exact InCycle.upd (by assumption) rfl rfl)
      | (with_reducible apply InCycle.ite)
      | (with_reducible refine InCycle.upd ?_ rfl rfl <;> first
          | (with_reducible apply recordErr_inCycle) | (with_reducible apply modWl_inCycle))
      | split

theorem epochSwitch_inCycle (h : InCycle z s) : InCycle z (epochSwitch s) := by
  unfold epochSwitch
  try dsimp only
  repeat' first
      | (intro _) | (with_reducible assumption) | (with_reducible apply count_inCycle) | (with_reducible apply irq_inCycle)
      | (with_reducible apply modWl_inCycle) | (with_reducible exact InCycle.upd (by assumption) rfl rfl)
      | (with_reducible apply InCycle.ite)
      | (with_reducible refine InCycle.upd ?_ rfl rfl <;> first
          | (with_reducible apply count_inCycle) | (with_reducible apply irq_inCycle) | (with_reducible apply modWl_inCycle))
      | split

theorem writeSwitch_inCycle (h : InCycle z s) : InCycle z (writeSwitch x1 s) := by
  unfold writeSwitch
  try dsimp only
  repeat' first
      | (intro _) | (with_reducible assumption) | (with_reducible apply wlsGo_inCycle)
      | (with_reducible apply consEnter_inCycle) | (with_reducible apply consExit_inCycle)
      | (with_reducible exact InCycle.upd (by assumption) rfl rfl) | (with_reducible apply InCycle.ite)
      | (with_reducible refine InCycle.upd ?_ rfl rfl <;> first
          | (with_reducible apply wlsGo_inCycle) | (with_reducible apply consEnter_inCycle)
          | (with_reducible apply consExit_inCycle))
      | split

theorem listenExpiry_keeps (h : Keeps z s) : Keeps z (listenExpiry x1 x2 s) := by
  unfold listenExpiry
  try dsimp only
  repeat' first
      | (intro _) | (with_reducible assumption) | (with_reducible apply advanceTo_keeps) | (with_reducible apply forEach_keeps)
      | (with_reducible apply putBurst_keeps) | (with_reducible apply modWl_keeps) | (with_reducible apply loopError_keeps)
      | (with_reducible apply listenFrom_keeps) | (with_reducible exact Keeps.upd (by assumption) ⟨rfl, rfl⟩ rfl)
      | (with_reducible apply Keeps.ite)
      | (with_reducible refine Keeps.upd ?_ ⟨rfl, rfl⟩ rfl <;> first
          | (with_reducible apply advanceTo_keeps) | (with_reducible apply forEach_keeps)
          | (with_reducible apply putBurst_keeps) | (with_reducible apply modWl_keeps) | (with_reducible apply loopError_keeps)
          | (with_reducible apply listenFrom_keeps))
      | split

theorem normalOperation_inCycle (h : InCycle z s) : InCycle z (normalOperation s) := by
  unfold normalOperation
  try dsimp only
  repeat' first
      | (intro _) | (with_reducible assumption) | (with_reducible apply modWl_inCycle)
      | (with_reducible exact InCycle.upd (by assumption) rfl rfl) | (with_reducible apply InCycle.ite)
      | (with_reducible refine InCycle.upd ?_ rfl rfl <;> first
          | (with_reducible apply modWl_inCycle))
      | split

theorem symbolWindow_keeps (h : Keeps z s) : Keeps z (symbolWindow x1 s) := by
  unfold symbolWindow
  try dsimp only
  repeat' first
      | (intro _) | (with_reducible assumption) | (with_reducible apply advanceTo_keeps) | (with_reducible apply forEach_keeps)
      | (with_reducible apply loopBack_keeps) | (with_reducible apply putBurst_keeps) | (with_reducible apply loadEq_keeps)
      | (with_reducible exact Keeps.upd (by assumption) ⟨rfl, rfl⟩ rfl) | (with_reducible apply Keeps.ite)
      | (with_reducible refine Keeps.upd ?_ ⟨rfl, rfl⟩ rfl <;> first
          | (with_reducible apply advanceTo_keeps) | (with_reducible apply forEach_keeps)
          | (with_reducible apply loopBack_keeps) | (with_reducible apply putBurst_keeps) | (with_reducible apply loadEq_keeps))
      | split

theorem configTimeout_inCycle (h : InCycle z s) : InCycle z (configTimeout s) := by
  unfold configTimeout
  try dsimp only
  repeat' first
      | (intro _) | (with_reducible assumption) | (with_reducible apply modWl_inCycle) | (with_reducible apply count_inCycle)
      | (with_reducible apply irq_inCycle) | (with_reducible exact InCycle.upd (by assumption) rfl rfl)
      | (with_reducible apply InCycle.ite)
      | (with_reducible refine InCycle.upd ?_ rfl rfl <;> first
          | (with_reducible apply modWl_inCycle) | (with_reducible apply count_inCycle) | (with_reducible apply irq_inCycle))
      | split

theorem wlCycleEnd_inCycle (h : InCycle z s) : InCycle z (wlCycleEnd s) := by
  unfold wlCycleEnd
  try dsimp only
  repeat' first
      | (intro _) | (with_reducible assumption) | (with_reducible apply judgeSlot_inCycle)
      | (with_reducible apply modWl_inCycle) | (with_reducible apply txFault_inCycle)
      | (with_reducible exact InCycle.upd (by assumption) rfl rfl) | (with_reducible apply InCycle.ite)
      | (with_reducible refine InCycle.upd ?_ rfl rfl <;> first
          | (with_reducible apply judgeSlot_inCycle) | (with_reducible apply modWl_inCycle)
          | (with_reducible apply txFault_inCycle))
      | split

theorem cancelEpoch_inCycle (h : InCycle z s) : InCycle z (cancelEpoch s) := by
  unfold cancelEpoch
  try dsimp only
  repeat' first
      | (intro _) | (with_reducible assumption) | (with_reducible apply count_inCycle) | (with_reducible apply irq_inCycle)
      | (with_reducible apply modWl_inCycle) | (with_reducible exact InCycle.upd (by assumption) rfl rfl)
      | (with_reducible apply InCycle.ite)
      | (with_reducible refine InCycle.upd ?_ rfl rfl <;> first
          | (with_reducible apply count_inCycle) | (with_reducible apply irq_inCycle) | (with_reducible apply modWl_inCycle))
      | split

theorem announceStep_inCycle (h : InCycle z s) : InCycle z (announceStep s) := by
  unfold announceStep
  try dsimp only
  repeat' first
      | (intro _) | (with_reducible assumption) | (with_reducible apply cancelEpoch_inCycle)
      | (with_reducible exact InCycle.upd (by assumption) rfl rfl) | (with_reducible apply InCycle.ite)
      | (with_reducible refine InCycle.upd ?_ rfl rfl <;> first
          | (with_reducible apply cancelEpoch_inCycle))
      | split

theorem wlCycleBegin_inCycle (h : InCycle z s) : InCycle z (wlCycleBegin x1 s) := by
  unfold wlCycleBegin
  try dsimp only
  repeat' first
      | (intro _) | (with_reducible assumption) | (with_reducible apply cellSto_inCycle) | (with_reducible apply modWl_inCycle)
      | (with_reducible apply announceStep_inCycle) | (with_reducible exact InCycle.upd (by assumption) rfl rfl)
      | (with_reducible apply InCycle.ite)
      | (with_reducible refine InCycle.upd ?_ rfl rfl <;> first
          | (with_reducible apply cellSto_inCycle) | (with_reducible apply modWl_inCycle)
          | (with_reducible apply announceStep_inCycle))
      | split

end Sys2Proof.Machine
end

