-- ==== Sys2Proof/Laws/InCycleRelease.lean ====
section
/-! SUPPORT. What the operations of Machine/Release.lean keep. -/

namespace Sys2Proof.Machine

variable {z s : State}

set_option linter.unusedTactic false
set_option linter.unreachableTactic false

theorem digestResult_inCycle (h : InCycle z s) : InCycle z (digestResult x1 x2 x3 x4 s) := by
  unfold digestResult
  try dsimp only
  repeat' first
      | (intro _) | (with_reducible assumption) | (with_reducible apply forEach_inCycle)
      | (with_reducible apply foldDigest_inCycle) | (with_reducible exact InCycle.upd (by assumption) rfl rfl)
      | (with_reducible apply InCycle.ite)
      | (with_reducible refine InCycle.upd ?_ rfl rfl <;> first
          | (with_reducible apply forEach_inCycle) | (with_reducible apply foldDigest_inCycle))
      | split

theorem noteVoid_inCycle (h : InCycle z s) : InCycle z (noteVoid x1 x2 s) := by
  unfold noteVoid
  try dsimp only
  repeat' first
      | (intro _) | (with_reducible assumption) | (with_reducible apply countPriv_inCycle) | (with_reducible apply irq_inCycle)
      | (with_reducible apply modTds_inCycle) | (with_reducible exact InCycle.upd (by assumption) rfl rfl)
      | (with_reducible apply InCycle.ite)
      | (with_reducible refine InCycle.upd ?_ rfl rfl <;> first
          | (with_reducible apply countPriv_inCycle) | (with_reducible apply irq_inCycle)
          | (with_reducible apply modTds_inCycle))
      | split

theorem handOver_inCycle (h : InCycle z s) : InCycle z (handOver x1 x2 x3 x4 s) := by
  unfold handOver
  try dsimp only
  repeat' first
      | (intro _) | (with_reducible assumption) | (with_reducible apply count_inCycle) | (with_reducible apply irq_inCycle)
      | (with_reducible apply modWl_inCycle) | (with_reducible exact InCycle.upd (by assumption) rfl rfl)
      | (with_reducible apply InCycle.ite)
      | (with_reducible refine InCycle.upd ?_ rfl rfl <;> first
          | (with_reducible apply count_inCycle) | (with_reducible apply irq_inCycle) | (with_reducible apply modWl_inCycle))
      | split

theorem releaseFrame_inCycle (h : InCycle z s) : InCycle z (releaseFrame x1 x2 x3 x4 x5 x6 s) := by
  unfold releaseFrame
  try dsimp only
  repeat' first
      | (intro _) | (with_reducible assumption) | (with_reducible apply digestResult_inCycle)
      | (with_reducible apply handOver_inCycle) | (with_reducible exact InCycle.upd (by assumption) rfl rfl)
      | (with_reducible apply InCycle.ite)
      | (with_reducible refine InCycle.upd ?_ rfl rfl <;> first
          | (with_reducible apply digestResult_inCycle) | (with_reducible apply handOver_inCycle))
      | split

theorem releaseSetpoints_inCycle (h : InCycle z s) : InCycle z (releaseSetpoints x1 x2 s) := by
  unfold releaseSetpoints
  try dsimp only
  repeat' first
      | (intro _) | (with_reducible assumption) | (with_reducible apply forEach_inCycle)
      | (with_reducible apply countIf_inCycle) | (with_reducible apply releaseFrame_inCycle)
      | (with_reducible exact InCycle.upd (by assumption) rfl rfl) | (with_reducible apply InCycle.ite)
      | (with_reducible refine InCycle.upd ?_ rfl rfl <;> first
          | (with_reducible apply forEach_inCycle) | (with_reducible apply countIf_inCycle)
          | (with_reducible apply releaseFrame_inCycle))
      | split

theorem releaseAux_inCycle (h : InCycle z s) : InCycle z (releaseAux x1 x2 s) := by
  unfold releaseAux
  try dsimp only
  repeat' first
      | (intro _) | (with_reducible assumption) | (with_reducible apply forEach_inCycle)
      | (with_reducible apply countIf_inCycle) | (with_reducible apply releaseFrame_inCycle)
      | (with_reducible exact InCycle.upd (by assumption) rfl rfl) | (with_reducible apply InCycle.ite)
      | (with_reducible refine InCycle.upd ?_ rfl rfl <;> first
          | (with_reducible apply forEach_inCycle) | (with_reducible apply countIf_inCycle)
          | (with_reducible apply releaseFrame_inCycle))
      | split

theorem releaseActions_inCycle (h : InCycle z s) : InCycle z (releaseActions x1 s) := by
  unfold releaseActions
  try dsimp only
  repeat' first
      | (intro _) | (with_reducible assumption) | (with_reducible apply modTds_inCycle)
      | (with_reducible apply forEach_inCycle) | (with_reducible apply count_inCycle)
      | (with_reducible apply digestResult_inCycle) | (with_reducible apply applyOutput_inCycle)
      | (with_reducible exact InCycle.upd (by assumption) rfl rfl) | (with_reducible apply InCycle.ite)
      | (with_reducible refine InCycle.upd ?_ rfl rfl <;> first
          | (with_reducible apply modTds_inCycle) | (with_reducible apply forEach_inCycle)
          | (with_reducible apply count_inCycle) | (with_reducible apply digestResult_inCycle)
          | (with_reducible apply applyOutput_inCycle))
      | split

theorem releaseScales_inCycle (h : InCycle z s) : InCycle z (releaseScales s) := by
  unfold releaseScales
  try dsimp only
  repeat' first
      | (intro _) | (with_reducible assumption) | (with_reducible apply forEach_inCycle)
      | (with_reducible apply releaseShared_inCycle) | (with_reducible apply modPlf_inCycle)
      | (with_reducible apply modMnt_inCycle) | (with_reducible exact InCycle.upd (by assumption) rfl rfl)
      | (with_reducible apply InCycle.ite)
      | (with_reducible refine InCycle.upd ?_ rfl rfl <;> first
          | (with_reducible apply forEach_inCycle) | (with_reducible apply releaseShared_inCycle)
          | (with_reducible apply modPlf_inCycle) | (with_reducible apply modMnt_inCycle))
      | split

theorem releaseRoles_inCycle (h : InCycle z s) : InCycle z (releaseRoles s) := by
  unfold releaseRoles
  try dsimp only
  repeat' first
      | (intro _) | (with_reducible assumption) | (with_reducible apply forEach_inCycle)
      | (with_reducible apply releaseShared_inCycle) | (with_reducible exact InCycle.upd (by assumption) rfl rfl)
      | (with_reducible apply InCycle.ite)
      | (with_reducible refine InCycle.upd ?_ rfl rfl <;> first
          | (with_reducible apply forEach_inCycle) | (with_reducible apply releaseShared_inCycle))
      | split

theorem releaseAllReports_inCycle (h : InCycle z s) : InCycle z (releaseAllReports s) := by
  unfold releaseAllReports
  try dsimp only
  repeat' first
      | (intro _) | (with_reducible assumption) | (with_reducible apply forEach_inCycle)
      | (with_reducible apply releaseShared_inCycle) | (with_reducible apply releaseReports_inCycle)
      | (with_reducible exact InCycle.upd (by assumption) rfl rfl) | (with_reducible apply InCycle.ite)
      | (with_reducible refine InCycle.upd ?_ rfl rfl <;> first
          | (with_reducible apply forEach_inCycle) | (with_reducible apply releaseShared_inCycle)
          | (with_reducible apply releaseReports_inCycle))
      | split

theorem flowRelease_inCycle (h : InCycle z s) : InCycle z (flowRelease x1 x2 s) := by
  unfold flowRelease
  try dsimp only
  repeat' first
      | (intro _) | (with_reducible assumption) | (with_reducible apply advanceTo_inCycle)
      | (with_reducible apply forEach_inCycle) | (with_reducible apply digestResult_inCycle)
      | (with_reducible apply noteVoid_inCycle) | (with_reducible apply countBy_inCycle)
      | (with_reducible apply modTds_inCycle) | (with_reducible apply releaseScales_inCycle)
      | (with_reducible apply releaseSetpoints_inCycle) | (with_reducible apply releaseAux_inCycle)
      | (with_reducible apply releaseActions_inCycle) | (with_reducible apply releaseRoles_inCycle)
      | (with_reducible apply releaseAllReports_inCycle) | (with_reducible exact InCycle.upd (by assumption) rfl rfl)
      | (with_reducible apply InCycle.ite)
      | (with_reducible refine InCycle.upd ?_ rfl rfl <;> first
          | (with_reducible apply advanceTo_inCycle) | (with_reducible apply forEach_inCycle)
          | (with_reducible apply digestResult_inCycle) | (with_reducible apply noteVoid_inCycle)
          | (with_reducible apply countBy_inCycle) | (with_reducible apply modTds_inCycle)
          | (with_reducible apply releaseScales_inCycle) | (with_reducible apply releaseSetpoints_inCycle)
          | (with_reducible apply releaseAux_inCycle) | (with_reducible apply releaseActions_inCycle)
          | (with_reducible apply releaseRoles_inCycle) | (with_reducible apply releaseAllReports_inCycle))
      | split

end Sys2Proof.Machine
end

