-- ==== Sys2Proof/Laws/InCycleCodec.lean ====
section
/-! SUPPORT. What the operations of Machine/Codec.lean keep. -/

namespace Sys2Proof.Machine

variable {z s : State}

set_option linter.unusedTactic false
set_option linter.unreachableTactic false












end Sys2Proof.Machine
end

