-- ==== Sys2Proof/Laws/InCycleImages.lean ====
section
/-! SUPPORT. What the operations of Machine/Images.lean keep. -/

namespace Sys2Proof.Machine

variable {z s : State}

set_option linter.unusedTactic false
set_option linter.unreachableTactic false

theorem modImg_inCycle (h : InCycle z s) : InCycle z (modImg x1 s) := by
  unfold modImg
  try dsimp only
  repeat' first
      | (intro _) | (with_reducible assumption) | (with_reducible exact InCycle.upd (by assumption) rfl rfl)
      | (with_reducible apply InCycle.ite)
      | split

theorem noteSignature_inCycle (h : InCycle z s) : InCycle z (noteSignature x1 s) := by
  unfold noteSignature
  try dsimp only
  repeat' first
      | (intro _) | (with_reducible assumption) | (with_reducible apply countIf_inCycle)
      | (with_reducible apply modSec_inCycle) | (with_reducible exact InCycle.upd (by assumption) rfl rfl)
      | (with_reducible apply InCycle.ite)
      | (with_reducible refine InCycle.upd ?_ rfl rfl <;> first
          | (with_reducible apply countIf_inCycle) | (with_reducible apply modSec_inCycle))
      | split

theorem imageLoad_inCycle (h : InCycle z s) : InCycle z (imageLoad x1 x2 s) := by
  unfold imageLoad
  try dsimp only
  repeat' first
      | (intro _) | (with_reducible assumption) | (with_reducible apply recordErr_inCycle)
      | (with_reducible apply noteSignature_inCycle) | (with_reducible apply modImg_inCycle)
      | (with_reducible exact InCycle.upd (by assumption) rfl rfl) | (with_reducible apply InCycle.ite)
      | (with_reducible refine InCycle.upd ?_ rfl rfl <;> first
          | (with_reducible apply recordErr_inCycle) | (with_reducible apply noteSignature_inCycle)
          | (with_reducible apply modImg_inCycle))
      | split

theorem commitSoldiers_keeps (h : Keeps z s) : Keeps z (commitSoldiers x1 s) :=
    h.trans (commitSoldiers_inCycle InCycle.refl).toKeeps

theorem loadSchedule_keeps (h : Keeps z s) : Keeps z (loadSchedule x1 s) := by
  unfold loadSchedule
  try dsimp only
  repeat' first
      | (intro _) | (with_reducible assumption) | (with_reducible apply commitSoldiers_keeps)
      | (with_reducible apply modWl_keeps) | (with_reducible apply listenFrom_keeps)
      | (with_reducible exact Keeps.upd (by assumption) ⟨rfl, rfl⟩ rfl) | (with_reducible apply Keeps.ite)
      | (with_reducible refine Keeps.upd ?_ ⟨rfl, rfl⟩ rfl <;> first
          | (with_reducible apply commitSoldiers_keeps) | (with_reducible apply modWl_keeps)
          | (with_reducible apply listenFrom_keeps))
      | split

theorem logSafety_inCycle (h : InCycle z s) : InCycle z (logSafety x1 x2 x3 s) := by
  unfold logSafety
  try dsimp only
  repeat' first
      | (intro _) | (with_reducible assumption) | (with_reducible apply logChange_inCycle)
      | (with_reducible exact InCycle.upd (by assumption) rfl rfl) | (with_reducible apply InCycle.ite)
      | (with_reducible refine InCycle.upd ?_ rfl rfl <;> first
          | (with_reducible apply logChange_inCycle))
      | split

theorem modPlf_keeps (h : Keeps z s) : Keeps z (modPlf x1 s) := h.trans (modPlf_inCycle InCycle.refl).toKeeps

theorem modMnt_keeps (h : Keeps z s) : Keeps z (modMnt x1 s) := h.trans (modMnt_inCycle InCycle.refl).toKeeps

theorem modSaf_keeps (h : Keeps z s) : Keeps z (modSaf x1 s) := h.trans (modSaf_inCycle InCycle.refl).toKeeps

theorem modSec_keeps (h : Keeps z s) : Keeps z (modSec x1 s) := h.trans (modSec_inCycle InCycle.refl).toKeeps

theorem logChange_keeps (h : Keeps z s) : Keeps z (logChange x1 x2 x3 x4 x5 x6 x7 s) :=
    h.trans (logChange_inCycle InCycle.refl).toKeeps

theorem loadSection_keeps (h : Keeps z s) : Keeps z (loadSection x1 x2 s) := by
  unfold loadSection
  try dsimp only
  repeat' first
      | (intro _) | (with_reducible assumption) | (with_reducible apply loadSchedule_keeps)
      | (with_reducible apply modPlf_keeps) | (with_reducible apply modMnt_keeps) | (with_reducible apply modSaf_keeps)
      | (with_reducible apply modSec_keeps) | (with_reducible apply logChange_keeps)
      | (with_reducible exact Keeps.upd (by assumption) ⟨rfl, rfl⟩ rfl) | (with_reducible apply Keeps.ite)
      | (with_reducible refine Keeps.upd ?_ ⟨rfl, rfl⟩ rfl <;> first
          | (with_reducible apply loadSchedule_keeps) | (with_reducible apply modPlf_keeps)
          | (with_reducible apply modMnt_keeps) | (with_reducible apply modSaf_keeps) | (with_reducible apply modSec_keeps)
          | (with_reducible apply logChange_keeps))
      | split

theorem beforeLoad_inCycle (h : InCycle z s) : InCycle z (beforeLoad x1 x2 s) := by
  unfold beforeLoad
  try dsimp only
  repeat' first
      | (intro _) | (with_reducible assumption) | (with_reducible apply modPlf_inCycle) | (with_reducible apply modMnt_inCycle)
      | (with_reducible apply modSaf_inCycle) | (with_reducible exact InCycle.upd (by assumption) rfl rfl)
      | (with_reducible apply InCycle.ite)
      | (with_reducible refine InCycle.upd ?_ rfl rfl <;> first
          | (with_reducible apply modPlf_inCycle) | (with_reducible apply modMnt_inCycle)
          | (with_reducible apply modSaf_inCycle))
      | split

theorem refuseForLog_keeps (h : Keeps z s) : Keeps z (refuseForLog x1 x2 s) :=
    h.trans (refuseForLog_inCycle InCycle.refl).toKeeps

theorem recordErr_keeps (h : Keeps z s) : Keeps z (recordErr x1 x2 x3 s) := h.trans (recordErr_inCycle InCycle.refl).toKeeps

theorem cusEvent_keeps (h : Keeps z s) : Keeps z (cusEvent x1 x2 s) := h.trans (cusEvent_inCycle InCycle.refl).toKeeps

theorem modImg_keeps (h : Keeps z s) : Keeps z (modImg x1 s) := h.trans (modImg_inCycle InCycle.refl).toKeeps

theorem beforeLoad_keeps (h : Keeps z s) : Keeps z (beforeLoad x1 x2 s) := h.trans (beforeLoad_inCycle InCycle.refl).toKeeps

theorem logSafety_keeps (h : Keeps z s) : Keeps z (logSafety x1 x2 x3 s) := h.trans (logSafety_inCycle InCycle.refl).toKeeps

theorem imageLoadComplete_keeps (h : Keeps z s) : Keeps z (imageLoadComplete s) := by
  unfold imageLoadComplete
  try dsimp only
  repeat' first
      | (intro _) | (with_reducible assumption) | (with_reducible apply refuseForLog_keeps)
      | (with_reducible apply recordErr_keeps) | (with_reducible apply cusEvent_keeps) | (with_reducible apply modImg_keeps)
      | (with_reducible apply forEach_keeps) | (with_reducible apply loadSection_keeps)
      | (with_reducible apply beforeLoad_keeps) | (with_reducible apply logSafety_keeps)
      | (with_reducible exact Keeps.upd (by assumption) ⟨rfl, rfl⟩ rfl) | (with_reducible apply Keeps.ite)
      | (with_reducible refine Keeps.upd ?_ ⟨rfl, rfl⟩ rfl <;> first
          | (with_reducible apply refuseForLog_keeps) | (with_reducible apply recordErr_keeps)
          | (with_reducible apply cusEvent_keeps) | (with_reducible apply modImg_keeps) | (with_reducible apply forEach_keeps)
          | (with_reducible apply loadSection_keeps) | (with_reducible apply beforeLoad_keeps)
          | (with_reducible apply logSafety_keeps))
      | split

theorem bankActive_inCycle (h : InCycle z s) : InCycle z (bankActive x1 s) := by
  unfold bankActive
  try dsimp only
  repeat' first
      | (intro _) | (with_reducible assumption) | (with_reducible apply modImg_inCycle)
      | (with_reducible exact InCycle.upd (by assumption) rfl rfl) | (with_reducible apply InCycle.ite)
      | (with_reducible refine InCycle.upd ?_ rfl rfl <;> first
          | (with_reducible apply modImg_inCycle))
      | split

theorem patternSwitch_inCycle (h : InCycle z s) : InCycle z (patternSwitch s) := by
  unfold patternSwitch
  try dsimp only
  repeat' first
      | (intro _) | (with_reducible assumption) | (with_reducible apply bankActive_inCycle)
      | (with_reducible apply switchPattern_inCycle) | (with_reducible exact InCycle.upd (by assumption) rfl rfl)
      | (with_reducible apply InCycle.ite)
      | (with_reducible refine InCycle.upd ?_ rfl rfl <;> first
          | (with_reducible apply bankActive_inCycle) | (with_reducible apply switchPattern_inCycle))
      | split

theorem kernelSwitch_inCycle (h : InCycle z s) : InCycle z (kernelSwitch s) := by
  unfold kernelSwitch
  try dsimp only
  repeat' first
      | (intro _) | (with_reducible assumption) | (with_reducible apply bankActive_inCycle)
      | (with_reducible apply switchKernelBank_inCycle) | (with_reducible exact InCycle.upd (by assumption) rfl rfl)
      | (with_reducible apply InCycle.ite)
      | (with_reducible refine InCycle.upd ?_ rfl rfl <;> first
          | (with_reducible apply bankActive_inCycle) | (with_reducible apply switchKernelBank_inCycle))
      | split

theorem takeImageRegs_inCycle (h : InCycle z s) : InCycle z (takeImageRegs x1 x2 s) := by
  unfold takeImageRegs
  try dsimp only
  repeat' first
      | (intro _) | (with_reducible assumption) | (with_reducible apply forEach_inCycle)
      | (with_reducible apply setReg_inCycle) | (with_reducible exact InCycle.upd (by assumption) rfl rfl)
      | (with_reducible apply InCycle.ite)
      | (with_reducible refine InCycle.upd ?_ rfl rfl <;> first
          | (with_reducible apply forEach_inCycle) | (with_reducible apply setReg_inCycle))
      | split

theorem applySafety_inCycle (h : InCycle z s) : InCycle z (applySafety s) := by
  unfold applySafety
  split
  · exact h
  · exact takeImageRegs_inCycle (takeImageRegs_inCycle (modSaf_inCycle h))

theorem mantisSwitch_inCycle (h : InCycle z s) : InCycle z (mantisSwitch s) := by
  unfold mantisSwitch
  try dsimp only
  repeat' first
      | (intro _) | (with_reducible assumption) | (with_reducible apply switchMantisBank_inCycle)
      | (with_reducible apply applySafety_inCycle) | (with_reducible apply modSaf_inCycle)
      | (with_reducible apply bankActive_inCycle) | (with_reducible apply logSafety_inCycle)
      | (with_reducible exact InCycle.upd (by assumption) rfl rfl) | (with_reducible apply InCycle.ite)
      | (with_reducible refine InCycle.upd ?_ rfl rfl <;> first
          | (with_reducible apply switchMantisBank_inCycle) | (with_reducible apply applySafety_inCycle)
          | (with_reducible apply modSaf_inCycle) | (with_reducible apply bankActive_inCycle)
          | (with_reducible apply logSafety_inCycle))
      | split

theorem epochBankSwitch_inCycle (h : InCycle z s) : InCycle z (epochBankSwitch s) := by
  unfold epochBankSwitch
  try dsimp only
  repeat' first
      | (intro _) | (with_reducible assumption) | (with_reducible apply bankActive_inCycle)
      | (with_reducible apply epochSwitch_inCycle) | (with_reducible exact InCycle.upd (by assumption) rfl rfl)
      | (with_reducible apply InCycle.ite)
      | (with_reducible refine InCycle.upd ?_ rfl rfl <;> first
          | (with_reducible apply bankActive_inCycle) | (with_reducible apply epochSwitch_inCycle))
      | split

theorem takeImageRegs_keeps (h : Keeps z s) : Keeps z (takeImageRegs x1 x2 s) :=
    h.trans (takeImageRegs_inCycle InCycle.refl).toKeeps

theorem startHubs_keeps (h : Keeps z s) : Keeps z (startHubs s) := by
  unfold startHubs
  try dsimp only
  repeat' first
      | (intro _) | (with_reducible assumption) | (with_reducible apply takeImageRegs_keeps)
      | (with_reducible apply listenFrom_keeps) | (with_reducible apply commitSoldiers_keeps)
      | (with_reducible apply modWl_keeps) | (with_reducible exact Keeps.upd (by assumption) ⟨rfl, rfl⟩ rfl)
      | (with_reducible apply Keeps.ite)
      | (with_reducible refine Keeps.upd ?_ ⟨rfl, rfl⟩ rfl <;> first
          | (with_reducible apply takeImageRegs_keeps) | (with_reducible apply listenFrom_keeps)
          | (with_reducible apply commitSoldiers_keeps) | (with_reducible apply modWl_keeps))
      | split

theorem startLanes_inCycle (h : InCycle z s) : InCycle z (startLanes s) := by
  have h1 : InCycle z { s with arms := (sectionOf s.img.storedBytes 1).bind Config.armsSection } := InCycle.upd h rfl rfl
  have h2 : ∀ k, InCycle z s → InCycle z { s with sdp := { s.sdp with banks := ⟨#[none, some k], rfl⟩, act := 0 } } :=
    fun k h => InCycle.upd h rfl rfl
  unfold startLanes
  dsimp only
  generalize sectionOf s.img.storedBytes 3 = p3
  generalize (sectionOf s.img.storedBytes 4).bind Config.kernelSection = p4
  generalize (sectionOf s.img.storedBytes 5).bind Config.mantisSection = p5
  generalize (sectionOf s.img.storedBytes 6).bind Config.safetySection = p6
  cases p3 <;> cases p4 <;> cases p5 <;> cases p6 <;> dsimp only <;>
    repeat' first
        | (intro _) | (with_reducible assumption) | (with_reducible apply applySafety_inCycle)
        | (with_reducible apply modSaf_inCycle) | (with_reducible apply modMnt_inCycle) | (with_reducible apply setReg_inCycle)
        | (with_reducible apply switchKernelBank_inCycle) | (with_reducible apply modPlf_inCycle)
        | (with_reducible exact InCycle.upd (by assumption) rfl rfl) | (with_reducible apply InCycle.ite)
        | (with_reducible refine InCycle.upd ?_ rfl rfl <;> first
            | (with_reducible apply modPlf_inCycle) | (with_reducible exact h1))

theorem molt_inCycle (h : InCycle z s) : InCycle z (molt x1 x2 s) := by
  unfold molt
  try dsimp only
  repeat' first
      | (intro _) | (with_reducible assumption) | (with_reducible apply modCart_inCycle)
      | (with_reducible apply recordErr_inCycle) | (with_reducible exact InCycle.upd (by assumption) rfl rfl)
      | (with_reducible apply InCycle.ite)
      | (with_reducible refine InCycle.upd ?_ rfl rfl <;> first
          | (with_reducible apply modCart_inCycle) | (with_reducible apply recordErr_inCycle))
      | split

theorem moltComplete_inCycle (h : InCycle z s) : InCycle z (moltComplete x1 s) := by
  unfold moltComplete
  try dsimp only
  repeat' first
      | (intro _) | (with_reducible assumption) | (with_reducible apply molt_inCycle) | (with_reducible apply modCart_inCycle)
      | (with_reducible apply count_inCycle) | (with_reducible apply setState_inCycle)
      | (with_reducible apply selftest_inCycle) | (with_reducible exact InCycle.upd (by assumption) rfl rfl)
      | (with_reducible apply InCycle.ite)
      | (with_reducible refine InCycle.upd ?_ rfl rfl <;> first
          | (with_reducible apply molt_inCycle) | (with_reducible apply modCart_inCycle) | (with_reducible apply count_inCycle)
          | (with_reducible apply setState_inCycle) | (with_reducible apply selftest_inCycle))
      | split

theorem fwGo_inCycle (h : InCycle z s) : InCycle z (fwGo x1 x2 s) := by
  unfold fwGo
  try dsimp only
  repeat' first
      | (intro _) | (with_reducible assumption) | (with_reducible apply recordErr_inCycle)
      | (with_reducible apply modImg_inCycle) | (with_reducible exact InCycle.upd (by assumption) rfl rfl)
      | (with_reducible apply InCycle.ite)
      | (with_reducible refine InCycle.upd ?_ rfl rfl <;> first
          | (with_reducible apply recordErr_inCycle) | (with_reducible apply modImg_inCycle))
      | split

theorem stepClassSwitch_inCycle (h : InCycle z s) : InCycle z (stepClassSwitch s) := by
  unfold stepClassSwitch
  try dsimp only
  repeat' first
      | (intro _) | (with_reducible assumption) | (with_reducible apply forEach_inCycle)
      | (with_reducible apply modCart_inCycle) | (with_reducible apply cusEvent_inCycle)
      | (with_reducible apply modImg_inCycle) | (with_reducible exact InCycle.upd (by assumption) rfl rfl)
      | (with_reducible apply InCycle.ite)
      | (with_reducible refine InCycle.upd ?_ rfl rfl <;> first
          | (with_reducible apply forEach_inCycle) | (with_reducible apply modCart_inCycle)
          | (with_reducible apply cusEvent_inCycle) | (with_reducible apply modImg_inCycle))
      | split

end Sys2Proof.Machine
end

