-- ==== Sys2Proof/Laws/InCycleReady.lean ====
section
/-! SUPPORT. What the operations of Machine/Ready.lean keep. -/

namespace Sys2Proof.Machine

variable {z s : State}

set_option linter.unusedTactic false
set_option linter.unreachableTactic false

theorem noteReady_inCycle (h : InCycle z s) : InCycle z (noteReady x1 x2 s) := by
  unfold noteReady
  try dsimp only
  repeat' first
      | (intro _) | (with_reducible assumption) | (with_reducible apply setReady_inCycle)
      | (with_reducible exact InCycle.upd (by assumption) rfl rfl) | (with_reducible apply InCycle.ite)
      | (with_reducible refine InCycle.upd ?_ rfl rfl <;> first
          | (with_reducible apply setReady_inCycle))
      | split

theorem noteMotion_inCycle (h : InCycle z s) : InCycle z (noteMotion s) := by
  unfold noteMotion
  try dsimp only
  repeat' first
      | (intro _) | (with_reducible assumption) | (with_reducible apply irq_inCycle) | (with_reducible apply setFlag_inCycle)
      | (with_reducible exact InCycle.upd (by assumption) rfl rfl) | (with_reducible apply InCycle.ite)
      | (with_reducible refine InCycle.upd ?_ rfl rfl <;> first
          | (with_reducible apply irq_inCycle) | (with_reducible apply setFlag_inCycle))
      | split

theorem refreshReady_inCycle (h : InCycle z s) : InCycle z (refreshReady s) := by
  unfold refreshReady
  try dsimp only
  repeat' first
      | (intro _) | (with_reducible assumption) | (with_reducible apply noteMotion_inCycle)
      | (with_reducible apply forEach_inCycle) | (with_reducible apply noteReady_inCycle)
      | (with_reducible apply setReady_inCycle) | (with_reducible exact InCycle.upd (by assumption) rfl rfl)
      | (with_reducible apply InCycle.ite)
      | (with_reducible refine InCycle.upd ?_ rfl rfl <;> first
          | (with_reducible apply noteMotion_inCycle) | (with_reducible apply forEach_inCycle)
          | (with_reducible apply noteReady_inCycle) | (with_reducible apply setReady_inCycle))
      | split

theorem setPhase_inCycle (h : InCycle z s) : InCycle z (setPhase x1 s) := by
  unfold setPhase
  try dsimp only
  repeat' first
      | (intro _) | (with_reducible assumption) | (with_reducible apply irq_inCycle)
      | (with_reducible exact InCycle.upd (by assumption) rfl rfl) | (with_reducible apply InCycle.ite)
      | (with_reducible refine InCycle.upd ?_ rfl rfl <;> first
          | (with_reducible apply irq_inCycle))
      | split

end Sys2Proof.Machine
end

