-- ==== Sys2Proof/Laws/InCycleBringUp.lean ====
section
/-! SUPPORT. What the operations of Machine/BringUp.lean keep. -/

namespace Sys2Proof.Machine

variable {z s : State}

set_option linter.unusedTactic false
set_option linter.unreachableTactic false

theorem modPwr_inCycle (h : InCycle z s) : InCycle z (modPwr x1 s) := by
  unfold modPwr
  try dsimp only
  repeat' first
      | (intro _) | (with_reducible assumption) | (with_reducible exact InCycle.upd (by assumption) rfl rfl)
      | (with_reducible apply InCycle.ite)
      | split

theorem modBoot_inCycle (h : InCycle z s) : InCycle z (modBoot x1 s) := by
  unfold modBoot
  try dsimp only
  repeat' first
      | (intro _) | (with_reducible assumption) | (with_reducible exact InCycle.upd (by assumption) rfl rfl)
      | (with_reducible apply InCycle.ite)
      | split

theorem powerGood_pending : (powerGood s).pending = s.pending := rfl

theorem custodianStart_inCycle (h : InCycle z s) : InCycle z (custodianStart s) := by
  unfold custodianStart
  try dsimp only
  repeat' first
      | (intro _) | (with_reducible assumption) | (with_reducible apply forEach_inCycle)
      | (with_reducible apply setState_inCycle) | (with_reducible apply selftest_inCycle)
      | (with_reducible apply advanceTo_inCycle) | (with_reducible apply modBoot_inCycle)
      | (with_reducible apply refreshReady_inCycle) | (with_reducible apply setPhase_inCycle)
      | (with_reducible exact InCycle.upd (by assumption) rfl rfl) | (with_reducible apply InCycle.ite)
      | (with_reducible refine InCycle.upd ?_ rfl rfl <;> first
          | (with_reducible apply forEach_inCycle) | (with_reducible apply setState_inCycle)
          | (with_reducible apply selftest_inCycle) | (with_reducible apply advanceTo_inCycle)
          | (with_reducible apply modBoot_inCycle) | (with_reducible apply refreshReady_inCycle)
          | (with_reducible apply setPhase_inCycle))
      | split

theorem hubTested_inCycle (h : InCycle z s) : InCycle z (hubTested x1 s) := by
  unfold hubTested
  try dsimp only
  repeat' first
      | (intro _) | (with_reducible assumption) | (with_reducible apply selftest_inCycle)
      | (with_reducible apply setState_inCycle) | (with_reducible apply silent_inCycle)
      | (with_reducible exact InCycle.upd (by assumption) rfl rfl) | (with_reducible apply InCycle.ite)
      | (with_reducible refine InCycle.upd ?_ rfl rfl <;> first
          | (with_reducible apply selftest_inCycle) | (with_reducible apply setState_inCycle)
          | (with_reducible apply silent_inCycle))
      | split

theorem hubSelfTest_inCycle (h : InCycle z s) : InCycle z (hubSelfTest s) := by
  unfold hubSelfTest
  try dsimp only
  repeat' first
      | (intro _) | (with_reducible assumption) | (with_reducible apply forEach_inCycle)
      | (with_reducible apply hubTested_inCycle) | (with_reducible apply advanceTo_inCycle)
      | (with_reducible apply modBoot_inCycle) | (with_reducible apply refreshReady_inCycle)
      | (with_reducible apply setPhase_inCycle) | (with_reducible exact InCycle.upd (by assumption) rfl rfl)
      | (with_reducible apply InCycle.ite)
      | (with_reducible refine InCycle.upd ?_ rfl rfl <;> first
          | (with_reducible apply forEach_inCycle) | (with_reducible apply hubTested_inCycle)
          | (with_reducible apply advanceTo_inCycle) | (with_reducible apply modBoot_inCycle)
          | (with_reducible apply refreshReady_inCycle) | (with_reducible apply setPhase_inCycle))
      | split

theorem pllLock_inCycle (h : InCycle z s) : InCycle z (pllLock s) := by
  unfold pllLock
  try dsimp only
  repeat' first
      | (intro _) | (with_reducible assumption) | (with_reducible apply forEach_inCycle)
      | (with_reducible apply setState_inCycle) | (with_reducible apply advanceTo_inCycle)
      | (with_reducible apply modBoot_inCycle) | (with_reducible apply refreshReady_inCycle)
      | (with_reducible apply setPhase_inCycle) | (with_reducible exact InCycle.upd (by assumption) rfl rfl)
      | (with_reducible apply InCycle.ite)
      | (with_reducible refine InCycle.upd ?_ rfl rfl <;> first
          | (with_reducible apply forEach_inCycle) | (with_reducible apply setState_inCycle)
          | (with_reducible apply advanceTo_inCycle) | (with_reducible apply modBoot_inCycle)
          | (with_reducible apply refreshReady_inCycle) | (with_reducible apply setPhase_inCycle))
      | split

theorem firstCalibration_inCycle (h : InCycle z s) : InCycle z (firstCalibration s) := by
  unfold firstCalibration
  try dsimp only
  repeat' first
      | (intro _) | (with_reducible assumption) | (with_reducible exact InCycle.upd (by assumption) rfl rfl)
      | (with_reducible apply InCycle.ite)
      | split

theorem modCart_keeps (h : Keeps z s) : Keeps z (modCart x1 x2 s) := h.trans (modCart_inCycle InCycle.refl).toKeeps

theorem inserted_keeps (h : Keeps z s) : Keeps z (inserted x1 s) := h.trans (inserted_inCycle InCycle.refl).toKeeps

theorem setState_keeps (h : Keeps z s) : Keeps z (setState x1 x2 s) := h.trans (setState_inCycle InCycle.refl).toKeeps

theorem modBoot_keeps (h : Keeps z s) : Keeps z (modBoot x1 s) := h.trans (modBoot_inCycle InCycle.refl).toKeeps

theorem firstCalibration_keeps (h : Keeps z s) : Keeps z (firstCalibration s) :=
    h.trans (firstCalibration_inCycle InCycle.refl).toKeeps

theorem refreshReady_keeps (h : Keeps z s) : Keeps z (refreshReady s) := h.trans (refreshReady_inCycle InCycle.refl).toKeeps

theorem setPhase_keeps (h : Keeps z s) : Keeps z (setPhase x1 s) := h.trans (setPhase_inCycle InCycle.refl).toKeeps

theorem hubFunctions_keeps (h : Keeps z s) : Keeps z (hubFunctions s) := by
  unfold hubFunctions
  try dsimp only
  repeat' first
      | (intro _) | (with_reducible assumption) | (with_reducible apply forEach_keeps) | (with_reducible apply modCart_keeps)
      | (with_reducible apply inserted_keeps) | (with_reducible apply setState_keeps) | (with_reducible apply advanceTo_keeps)
      | (with_reducible apply modBoot_keeps) | (with_reducible apply firstCalibration_keeps)
      | (with_reducible apply startHubs_keeps) | (with_reducible apply refreshReady_keeps)
      | (with_reducible apply setPhase_keeps) | (with_reducible exact Keeps.upd (by assumption) ⟨rfl, rfl⟩ rfl)
      | (with_reducible apply Keeps.ite)
      | (with_reducible refine Keeps.upd ?_ ⟨rfl, rfl⟩ rfl <;> first
          | (with_reducible apply forEach_keeps) | (with_reducible apply modCart_keeps) | (with_reducible apply inserted_keeps)
          | (with_reducible apply setState_keeps) | (with_reducible apply advanceTo_keeps)
          | (with_reducible apply modBoot_keeps) | (with_reducible apply firstCalibration_keeps)
          | (with_reducible apply startHubs_keeps) | (with_reducible apply refreshReady_keeps)
          | (with_reducible apply setPhase_keeps))
      | split

theorem laneReady_inCycle (h : InCycle z s) : InCycle z (laneReady x1 s) := by
  unfold laneReady
  try dsimp only
  repeat' first
      | (intro _) | (with_reducible assumption) | (with_reducible apply beginReadmit_inCycle)
      | (with_reducible apply modCart_inCycle) | (with_reducible apply startLanes_inCycle)
      | (with_reducible exact InCycle.upd (by assumption) rfl rfl) | (with_reducible apply InCycle.ite)
      | (with_reducible refine InCycle.upd ?_ rfl rfl <;> first
          | (with_reducible apply beginReadmit_inCycle) | (with_reducible apply modCart_inCycle)
          | (with_reducible apply startLanes_inCycle))
      | split

theorem admission_inCycle (h : InCycle z s) : InCycle z (admission s) := by
  unfold admission
  try dsimp only
  repeat' first
      | (intro _) | (with_reducible assumption) | (with_reducible apply forEach_inCycle)
      | (with_reducible apply setState_inCycle) | (with_reducible apply modCart_inCycle)
      | (with_reducible apply bayRoles_inCycle) | (with_reducible apply modBoot_inCycle)
      | (with_reducible apply refreshReady_inCycle) | (with_reducible apply irq_inCycle)
      | (with_reducible apply setPhase_inCycle) | (with_reducible exact InCycle.upd (by assumption) rfl rfl)
      | (with_reducible apply InCycle.ite)
      | (with_reducible refine InCycle.upd ?_ rfl rfl <;> first
          | (with_reducible apply forEach_inCycle) | (with_reducible apply setState_inCycle)
          | (with_reducible apply modCart_inCycle) | (with_reducible apply bayRoles_inCycle)
          | (with_reducible apply modBoot_inCycle) | (with_reducible apply refreshReady_inCycle)
          | (with_reducible apply irq_inCycle) | (with_reducible apply setPhase_inCycle))
      | split

theorem supplyThreshold_inCycle (h : InCycle z s) : InCycle z (supplyThreshold x1 x2 s) := by
  unfold supplyThreshold
  try dsimp only
  repeat' first
      | (intro _) | (with_reducible assumption) | (with_reducible apply modPwr_inCycle) | (with_reducible apply count_inCycle)
      | (with_reducible apply irq_inCycle) | (with_reducible exact InCycle.upd (by assumption) rfl rfl)
      | (with_reducible apply InCycle.ite)
      | (with_reducible refine InCycle.upd ?_ rfl rfl <;> first
          | (with_reducible apply modPwr_inCycle) | (with_reducible apply count_inCycle) | (with_reducible apply irq_inCycle))
      | split

theorem dip_inCycle (h : InCycle z s) : InCycle z (dip s) := by
  unfold dip
  try dsimp only
  repeat' first
      | (intro _) | (with_reducible assumption) | (with_reducible apply count_inCycle) | (with_reducible apply irq_inCycle)
      | (with_reducible exact InCycle.upd (by assumption) rfl rfl) | (with_reducible apply InCycle.ite)
      | (with_reducible refine InCycle.upd ?_ rfl rfl <;> first
          | (with_reducible apply count_inCycle) | (with_reducible apply irq_inCycle))
      | split

theorem shutDown_keeps (h : Keeps z s) : Keeps z (shutDown s) := by
  unfold shutDown
  split
  · exact h
  have g := h.trans (outputsDead_inCycle (modOut_inCycle (x1 := fun o => { o with soLive := false }) (modBoot_inCycle
    (x1 := fun b => { b with cause := 2 }) (InCycle.refl (z := s))))).toKeeps
  exact Keeps.upd g ⟨rfl, rfl⟩ rfl

theorem supplyMeasurement_inCycle (h : InCycle z s) : InCycle z (supplyMeasurement x1 x2 s) := by
  unfold supplyMeasurement
  try dsimp only
  repeat' first
      | (intro _) | (with_reducible assumption) | (with_reducible apply modPwr_inCycle) | (with_reducible apply count_inCycle)
      | (with_reducible apply irq_inCycle) | (with_reducible exact InCycle.upd (by assumption) rfl rfl)
      | (with_reducible apply InCycle.ite)
      | (with_reducible refine InCycle.upd ?_ rfl rfl <;> first
          | (with_reducible apply modPwr_inCycle) | (with_reducible apply count_inCycle) | (with_reducible apply irq_inCycle))
      | split

theorem hostLink_inCycle (h : InCycle z s) : InCycle z (hostLink x1 x2 s) := by
  unfold hostLink
  try dsimp only
  repeat' first
      | (intro _) | (with_reducible assumption) | (with_reducible apply closeSessionOf_inCycle)
      | (with_reducible exact InCycle.upd (by assumption) rfl rfl) | (with_reducible apply InCycle.ite)
      | (with_reducible refine InCycle.upd ?_ rfl rfl <;> first
          | (with_reducible apply closeSessionOf_inCycle))
      | split

theorem perst_inCycle (h : InCycle z s) : InCycle z (perst x1 s) := by
  unfold perst
  try dsimp only
  repeat' first
      | (intro _) | (with_reducible assumption) | (with_reducible apply hostLink_inCycle)
      | (with_reducible exact InCycle.upd (by assumption) rfl rfl) | (with_reducible apply InCycle.ite)
      | (with_reducible refine InCycle.upd ?_ rfl rfl <;> first
          | (with_reducible apply hostLink_inCycle))
      | split

theorem msixWrite_inCycle (h : InCycle z s) : InCycle z (msixWrite x1 x2 x3 x4 x5 s) := by
  unfold msixWrite
  try dsimp only
  repeat' first
      | (intro _) | (with_reducible assumption) | (with_reducible exact InCycle.upd (by assumption) rfl rfl)
      | (with_reducible apply InCycle.ite)
      | split

end Sys2Proof.Machine
end

