-- ==== Sys2Proof/Laws/InCycleRegRead.lean ====
section
/-! SUPPORT. What the operations of Machine/RegRead.lean keep. -/

namespace Sys2Proof.Machine

variable {z s : State}

set_option linter.unusedTactic false
set_option linter.unreachableTactic false

theorem readEffect_inCycle (h : InCycle z s) : InCycle z (readEffect x1 x2 x3 x4 s) := by
  unfold readEffect
  try dsimp only
  repeat' first
      | (intro _) | (with_reducible assumption) | (with_reducible apply advanceHb_inCycle)
      | (with_reducible apply advanceRx_inCycle) | (with_reducible apply readLatch_inCycle)
      | (with_reducible apply readLatchT_inCycle) | (with_reducible apply readResW0_inCycle)
      | (with_reducible apply readResW1_inCycle) | (with_reducible apply readPosLo_inCycle)
      | (with_reducible apply readSessKey_inCycle) | (with_reducible apply readLogData_inCycle)
      | (with_reducible exact InCycle.upd (by assumption) rfl rfl) | (with_reducible apply InCycle.ite)
      | (with_reducible refine InCycle.upd ?_ rfl rfl <;> first
          | (with_reducible apply advanceHb_inCycle) | (with_reducible apply advanceRx_inCycle)
          | (with_reducible apply readLatch_inCycle) | (with_reducible apply readLatchT_inCycle)
          | (with_reducible apply readResW0_inCycle) | (with_reducible apply readResW1_inCycle)
          | (with_reducible apply readPosLo_inCycle) | (with_reducible apply readSessKey_inCycle)
          | (with_reducible apply readLogData_inCycle))
      | split

end Sys2Proof.Machine
end

