-- ==== Sys2Proof/Laws/InCycleRegWrite.lean ====
section
/-! SUPPORT. What the operations of Machine/RegWrite.lean keep. -/

namespace Sys2Proof.Machine

variable {z s : State}

set_option linter.unusedTactic false
set_option linter.unreachableTactic false

theorem resetPlefin_inCycle (h : InCycle z s) : InCycle z (resetPlefin s) := by
  unfold resetPlefin
  try dsimp only
  repeat' first
      | (intro _) | (with_reducible assumption) | (with_reducible apply modPlf_inCycle)
      | (with_reducible exact InCycle.upd (by assumption) rfl rfl) | (with_reducible apply InCycle.ite)
      | (with_reducible refine InCycle.upd ?_ rfl rfl <;> first
          | (with_reducible apply modPlf_inCycle))
      | split

theorem resetServoPath_inCycle (h : InCycle z s) : InCycle z (resetServoPath s) := by
  unfold resetServoPath
  try dsimp only
  repeat' first
      | (intro _) | (with_reducible assumption) | (with_reducible exact InCycle.upd (by assumption) rfl rfl)
      | (with_reducible apply InCycle.ite)
      | split

theorem resetInternal_inCycle (h : InCycle z s) : InCycle z (resetInternal x1 x2 s) := by
  unfold resetInternal
  try dsimp only
  repeat' first
      | (intro _) | (with_reducible assumption) | (with_reducible apply ffyRefresh_inCycle)
      | (with_reducible apply resetLine_inCycle) | (with_reducible apply resetServo_inCycle)
      | (with_reducible apply restartPair_inCycle) | (with_reducible apply modPtp_inCycle)
      | (with_reducible apply modWl_inCycle) | (with_reducible apply resetEnc_inCycle) | (with_reducible apply modFfy_inCycle)
      | (with_reducible apply modPair_inCycle) | (with_reducible apply resetPair_inCycle)
      | (with_reducible apply resetGen_inCycle) | (with_reducible apply modStp_inCycle)
      | (with_reducible apply resetPlefin_inCycle) | (with_reducible apply modIdent_inCycle)
      | (with_reducible apply resetServoPath_inCycle) | (with_reducible exact InCycle.upd (by assumption) rfl rfl)
      | (with_reducible apply InCycle.ite)
      | (with_reducible refine InCycle.upd ?_ rfl rfl <;> first
          | (with_reducible apply ffyRefresh_inCycle) | (with_reducible apply resetLine_inCycle)
          | (with_reducible apply resetServo_inCycle) | (with_reducible apply restartPair_inCycle)
          | (with_reducible apply modPtp_inCycle) | (with_reducible apply modWl_inCycle)
          | (with_reducible apply resetEnc_inCycle) | (with_reducible apply modFfy_inCycle)
          | (with_reducible apply modPair_inCycle) | (with_reducible apply resetPair_inCycle)
          | (with_reducible apply resetGen_inCycle) | (with_reducible apply modStp_inCycle)
          | (with_reducible apply resetPlefin_inCycle) | (with_reducible apply modIdent_inCycle)
          | (with_reducible apply resetServoPath_inCycle))
      | split

theorem resetInputs_inCycle (h : InCycle z s) : InCycle z (resetInputs x1 s) := by
  unfold resetInputs
  try dsimp only
  repeat' first
      | (intro _) | (with_reducible assumption) | (with_reducible apply forEach_inCycle)
      | (with_reducible apply adcWritten_inCycle) | (with_reducible exact InCycle.upd (by assumption) rfl rfl)
      | (with_reducible apply InCycle.ite)
      | (with_reducible refine InCycle.upd ?_ rfl rfl <;> first
          | (with_reducible apply forEach_inCycle) | (with_reducible apply adcWritten_inCycle))
      | split

theorem blockReset_inCycle (h : InCycle z s) : InCycle z (blockReset x1 x2 s) := by
  unfold blockReset
  try dsimp only
  repeat' first
      | (intro _) | (with_reducible assumption) | (with_reducible apply armReset_inCycle)
      | (with_reducible apply linkChange_inCycle) | (with_reducible apply resetInputs_inCycle)
      | (with_reducible apply keepSource_inCycle) | (with_reducible apply resetInternal_inCycle)
      | (with_reducible apply resetRegs_inCycle) | (with_reducible apply setReady_inCycle)
      | (with_reducible apply noteReady_inCycle) | (with_reducible exact InCycle.upd (by assumption) rfl rfl)
      | (with_reducible apply InCycle.ite)
      | (with_reducible refine InCycle.upd ?_ rfl rfl <;> first
          | (with_reducible apply armReset_inCycle) | (with_reducible apply linkChange_inCycle)
          | (with_reducible apply resetInputs_inCycle) | (with_reducible apply keepSource_inCycle)
          | (with_reducible apply resetInternal_inCycle) | (with_reducible apply resetRegs_inCycle)
          | (with_reducible apply setReady_inCycle) | (with_reducible apply noteReady_inCycle))
      | split

theorem enableChanged_inCycle (h : InCycle z s) : InCycle z (enableChanged x1 x2 x3 s) := by
  unfold enableChanged
  try dsimp only
  repeat' first
      | (with_reducible apply modStp_inCycle) | (intro _) | (with_reducible assumption) | (with_reducible apply cmdAbort_inCycle)
      | (with_reducible apply ptpEnabled_inCycle) | (with_reducible apply ffyRefresh_inCycle)
      | (with_reducible apply startMeasure_inCycle) | (with_reducible apply modEnc_inCycle)
      | (with_reducible apply becomeCurrent_inCycle) | (with_reducible exact InCycle.upd (by assumption) rfl rfl)
      | (with_reducible apply InCycle.ite)
      | (with_reducible refine InCycle.upd ?_ rfl rfl <;> first
          | (with_reducible apply modStp_inCycle)
          | (with_reducible apply cmdAbort_inCycle) | (with_reducible apply ptpEnabled_inCycle)
          | (with_reducible apply ffyRefresh_inCycle) | (with_reducible apply startMeasure_inCycle)
          | (with_reducible apply modEnc_inCycle) | (with_reducible apply becomeCurrent_inCycle))
      | split

theorem writeCtrl_inCycle (h : InCycle z s) : InCycle z (writeCtrl x1 x2 x3 s) := by
  unfold writeCtrl
  try dsimp only
  repeat' first
      | (intro _) | (with_reducible assumption) | (with_reducible apply recordErr_inCycle)
      | (with_reducible apply blockReset_inCycle) | (with_reducible apply noteReady_inCycle)
      | (with_reducible apply enableChanged_inCycle) | (with_reducible apply setFlag_inCycle)
      | (with_reducible exact InCycle.upd (by assumption) rfl rfl) | (with_reducible apply InCycle.ite)
      | (with_reducible refine InCycle.upd ?_ rfl rfl <;> first
          | (with_reducible apply recordErr_inCycle) | (with_reducible apply blockReset_inCycle)
          | (with_reducible apply noteReady_inCycle) | (with_reducible apply enableChanged_inCycle)
          | (with_reducible apply setFlag_inCycle))
      | split

theorem modeChanged_inCycle (h : InCycle z s) : InCycle z (modeChanged x1 x2 x3 s) := by
  unfold modeChanged
  try dsimp only
  repeat' first
      | (intro _) | (with_reducible assumption) | (with_reducible apply modServo_inCycle)
      | (with_reducible apply sourceLost_inCycle) | (with_reducible apply ffyRefresh_inCycle)
      | (with_reducible apply modEnc_inCycle) | (with_reducible apply becomeCurrent_inCycle)
      | (with_reducible apply genModeChanged_inCycle) | (with_reducible apply dropPlan_inCycle)
      | (with_reducible apply modMnt_inCycle) | (with_reducible apply modIdent_inCycle)
      | (with_reducible exact InCycle.upd (by assumption) rfl rfl) | (with_reducible apply InCycle.ite)
      | (with_reducible refine InCycle.upd ?_ rfl rfl <;> first
          | (with_reducible apply modServo_inCycle) | (with_reducible apply sourceLost_inCycle)
          | (with_reducible apply ffyRefresh_inCycle) | (with_reducible apply modEnc_inCycle)
          | (with_reducible apply becomeCurrent_inCycle) | (with_reducible apply genModeChanged_inCycle)
          | (with_reducible apply dropPlan_inCycle) | (with_reducible apply modMnt_inCycle)
          | (with_reducible apply modIdent_inCycle))
      | split

theorem loadPay_inCycle (h : InCycle z s) : InCycle z (loadPay x1 s) := by
  unfold loadPay
  try dsimp only
  repeat' first
      | (intro _) | (with_reducible assumption) | (with_reducible apply forEach_inCycle)
      | (with_reducible apply setReg_inCycle) | (with_reducible exact InCycle.upd (by assumption) rfl rfl)
      | (with_reducible apply InCycle.ite)
      | (with_reducible refine InCycle.upd ?_ rfl rfl <;> first
          | (with_reducible apply forEach_inCycle) | (with_reducible apply setReg_inCycle))
      | split

theorem writeMode_inCycle (h : InCycle z s) : InCycle z (writeMode x1 x2 x3 s) := by
  unfold writeMode
  try dsimp only
  repeat' first
      | (intro _) | (with_reducible assumption) | (with_reducible apply recordErr_inCycle)
      | (with_reducible apply loadPay_inCycle) | (with_reducible apply modeChanged_inCycle)
      | (with_reducible apply setFld_inCycle) | (with_reducible exact InCycle.upd (by assumption) rfl rfl)
      | (with_reducible apply InCycle.ite)
      | (with_reducible refine InCycle.upd ?_ rfl rfl <;> first
          | (with_reducible apply recordErr_inCycle) | (with_reducible apply loadPay_inCycle)
          | (with_reducible apply modeChanged_inCycle) | (with_reducible apply setFld_inCycle))
      | split

theorem resend_inCycle (h : InCycle z s) : InCycle z (resend x1 x2 s) := by
  unfold resend
  try dsimp only
  repeat' first
      | (intro _) | (with_reducible assumption) | (with_reducible apply sendBoth_inCycle)
      | (with_reducible exact InCycle.upd (by assumption) rfl rfl) | (with_reducible apply InCycle.ite)
      | (with_reducible refine InCycle.upd ?_ rfl rfl <;> first
          | (with_reducible apply sendBoth_inCycle))
      | split

theorem clearIrq_inCycle (h : InCycle z s) : InCycle z (clearIrq x1 x2 x3 x4 s) := by
  unfold clearIrq
  try dsimp only
  repeat' first
      | (intro _) | (with_reducible assumption) | (with_reducible apply resend_inCycle) | (with_reducible apply setReg_inCycle)
      | (with_reducible exact InCycle.upd (by assumption) rfl rfl) | (with_reducible apply InCycle.ite)
      | (with_reducible refine InCycle.upd ?_ rfl rfl <;> first
          | (with_reducible apply resend_inCycle) | (with_reducible apply setReg_inCycle))
      | split

theorem writeCommon_inCycle (h : InCycle z s) : InCycle z (writeCommon x1 x2 x3 x4 s) := by
  unfold writeCommon
  try dsimp only
  repeat' first
      | (intro _) | (with_reducible assumption) | (with_reducible apply writeCtrl_inCycle)
      | (with_reducible apply writeMode_inCycle) | (with_reducible apply clearIrq_inCycle)
      | (with_reducible apply withRise_inCycle) | (with_reducible apply setReg_inCycle)
      | (with_reducible apply irqMask_inCycle) | (with_reducible apply resend_inCycle)
      | (with_reducible exact InCycle.upd (by assumption) rfl rfl) | (with_reducible apply InCycle.ite)
      | (with_reducible refine InCycle.upd ?_ rfl rfl <;> first
          | (with_reducible apply writeCtrl_inCycle) | (with_reducible apply writeMode_inCycle)
          | (with_reducible apply clearIrq_inCycle) | (with_reducible apply withRise_inCycle)
          | (with_reducible apply setReg_inCycle) | (with_reducible apply irqMask_inCycle)
          | (with_reducible apply resend_inCycle))
      | split

theorem written_inCycle (h : InCycle z s) : InCycle z (written x1 x2 x3 x4 x5 s) := by
  unfold written
  try dsimp only
  repeat' first
      | (intro _) | (with_reducible assumption) | (with_reducible apply ptpCfgWritten_inCycle)
      | (with_reducible apply encWritten_inCycle) | (with_reducible apply ffyCfgWritten_inCycle)
      | (with_reducible apply adcWritten_inCycle) | (with_reducible apply driverChanged_inCycle)
      | (with_reducible apply modIdent_inCycle) | (with_reducible exact InCycle.upd (by assumption) rfl rfl)
      | (with_reducible apply InCycle.ite)
      | (with_reducible refine InCycle.upd ?_ rfl rfl <;> first
          | (with_reducible apply ptpCfgWritten_inCycle) | (with_reducible apply encWritten_inCycle)
          | (with_reducible apply ffyCfgWritten_inCycle) | (with_reducible apply adcWritten_inCycle)
          | (with_reducible apply driverChanged_inCycle) | (with_reducible apply modIdent_inCycle))
      | split

theorem writeValue_inCycle (h : InCycle z s) : InCycle z (writeValue x1 x2 x3 x4 x5 s) := by
  unfold writeValue
  try dsimp only
  repeat' first
      | (intro _) | (with_reducible assumption) | (with_reducible apply recordErr_inCycle)
      | (with_reducible apply written_inCycle) | (with_reducible apply setReg_inCycle)
      | (with_reducible exact InCycle.upd (by assumption) rfl rfl) | (with_reducible apply InCycle.ite)
      | (with_reducible refine InCycle.upd ?_ rfl rfl <;> first
          | (with_reducible apply recordErr_inCycle) | (with_reducible apply written_inCycle)
          | (with_reducible apply setReg_inCycle))
      | split

theorem writeAdcCmd_inCycle (h : InCycle z s) : InCycle z (writeAdcCmd x1 x2 s) := by
  unfold writeAdcCmd
  try dsimp only
  repeat' first
      | (intro _) | (with_reducible assumption) | (with_reducible apply writeAdcFlush_inCycle)
      | (with_reducible apply writeRestart_inCycle) | (with_reducible apply writeCal_inCycle)
      | (with_reducible exact InCycle.upd (by assumption) rfl rfl) | (with_reducible apply InCycle.ite)
      | (with_reducible refine InCycle.upd ?_ rfl rfl <;> first
          | (with_reducible apply writeAdcFlush_inCycle) | (with_reducible apply writeRestart_inCycle)
          | (with_reducible apply writeCal_inCycle))
      | split

theorem writeFfyCmd_inCycle (h : InCycle z s) : InCycle z (writeFfyCmd x1 x2 s) := by
  unfold writeFfyCmd
  try dsimp only
  repeat' first
      | (intro _) | (with_reducible assumption) | (with_reducible apply writeRearm_inCycle)
      | (with_reducible apply writeRewind_inCycle) | (with_reducible apply otherPulse_inCycle)
      | (with_reducible exact InCycle.upd (by assumption) rfl rfl) | (with_reducible apply InCycle.ite)
      | (with_reducible refine InCycle.upd ?_ rfl rfl <;> first
          | (with_reducible apply writeRearm_inCycle) | (with_reducible apply writeRewind_inCycle)
          | (with_reducible apply otherPulse_inCycle))
      | split

theorem writeCrtCmd_inCycle (h : InCycle z s) : InCycle z (writeCrtCmd x1 x2 s) := by
  unfold writeCrtCmd
  try dsimp only
  repeat' first
      | (intro _) | (with_reducible assumption) | (with_reducible apply askFence_inCycle)
      | (with_reducible apply writeReadmit_inCycle) | (with_reducible apply molt_inCycle)
      | (with_reducible apply powerOff_inCycle) | (with_reducible apply recordErr_inCycle)
      | (with_reducible exact InCycle.upd (by assumption) rfl rfl) | (with_reducible apply InCycle.ite)
      | (with_reducible refine InCycle.upd ?_ rfl rfl <;> first
          | (with_reducible apply askFence_inCycle) | (with_reducible apply writeReadmit_inCycle)
          | (with_reducible apply molt_inCycle) | (with_reducible apply powerOff_inCycle)
          | (with_reducible apply recordErr_inCycle))
      | split

theorem writeSpareCmd_inCycle (h : InCycle z s) : InCycle z (writeSpareCmd x1 x2 s) := by
  unfold writeSpareCmd
  try dsimp only
  repeat' first
      | (intro _) | (with_reducible assumption) | (with_reducible apply clearRemaps_inCycle)
      | (with_reducible apply remapCommand_inCycle) | (with_reducible exact InCycle.upd (by assumption) rfl rfl)
      | (with_reducible apply InCycle.ite)
      | (with_reducible refine InCycle.upd ?_ rfl rfl <;> first
          | (with_reducible apply clearRemaps_inCycle) | (with_reducible apply remapCommand_inCycle))
      | split

theorem writePwdCmd_inCycle (h : InCycle z s) : InCycle z (writePwdCmd x1 x2 s) := by
  unfold writePwdCmd
  try dsimp only
  repeat' first
      | (intro _) | (with_reducible assumption) | (with_reducible apply openSession_inCycle)
      | (with_reducible apply changePassword_inCycle) | (with_reducible apply endSession_inCycle)
      | (with_reducible exact InCycle.upd (by assumption) rfl rfl) | (with_reducible apply InCycle.ite)
      | (with_reducible refine InCycle.upd ?_ rfl rfl <;> first
          | (with_reducible apply openSession_inCycle) | (with_reducible apply changePassword_inCycle)
          | (with_reducible apply endSession_inCycle))
      | split

theorem writePhycfg_inCycle (h : InCycle z s) : InCycle z (writePhycfg x1 x2 s) := by
  unfold writePhycfg
  try dsimp only
  repeat' first
      | (intro _) | (with_reducible assumption) | (with_reducible apply setReg_inCycle)
      | (with_reducible apply noteReady_inCycle) | (with_reducible apply linkChange_inCycle)
      | (with_reducible exact InCycle.upd (by assumption) rfl rfl) | (with_reducible apply InCycle.ite)
      | (with_reducible refine InCycle.upd ?_ rfl rfl <;> first
          | (with_reducible apply setReg_inCycle) | (with_reducible apply noteReady_inCycle)
          | (with_reducible apply linkChange_inCycle))
      | split

theorem writeIdCfg_inCycle (h : InCycle z s) : InCycle z (writeIdCfg x1 x2 s) := by
  unfold writeIdCfg
  try dsimp only
  repeat' first
      | (intro _) | (with_reducible assumption) | (with_reducible apply setReg_inCycle)
      | (with_reducible apply restartIdent_inCycle) | (with_reducible exact InCycle.upd (by assumption) rfl rfl)
      | (with_reducible apply InCycle.ite)
      | (with_reducible refine InCycle.upd ?_ rfl rfl <;> first
          | (with_reducible apply setReg_inCycle) | (with_reducible apply restartIdent_inCycle))
      | split

theorem writeMod_inCycle (h : InCycle z s) : InCycle z (writeMod x1 x2 x3 s) := by
  unfold writeMod
  try dsimp only
  repeat' first
      | (intro _) | (with_reducible assumption) | (with_reducible apply resend_inCycle)
      | (with_reducible exact InCycle.upd (by assumption) rfl rfl) | (with_reducible apply InCycle.ite)
      | (with_reducible refine InCycle.upd ?_ rfl rfl <;> first
          | (with_reducible apply resend_inCycle))
      | split

theorem hubCommand_inCycle {q : Port} {p : Pg} {i off : Nat} {v : Word} {f : State → State} (e : hubCommand q p i off v = some f)
    (h : InCycle z s) : InCycle z (f s) := by
  unfold hubCommand at e
  cases p <;> simp only at e <;> (try split at e) <;> (try split at e) <;> (try split at e) <;> (try split at e) <;>
    first
    | (cases e; done)
    | (cases e; repeat' first
        | (with_reducible assumption) | (with_reducible apply writeMod_inCycle)
        | (with_reducible apply custodianReadmit_inCycle) | (with_reducible apply fwGo_inCycle)
        | (with_reducible apply imageLoad_inCycle) | (with_reducible apply writeCrtCmd_inCycle)
        | (with_reducible apply writeStepAck_inCycle) | (with_reducible apply writeHaOfs_inCycle)
        | (with_reducible apply writeHaRate_inCycle) | (with_reducible apply lineCfgWritten_inCycle)
        | (with_reducible apply writePhycfg_inCycle) | (with_reducible apply writeRetrain_inCycle)
        | (with_reducible apply writeSwitch_inCycle) | (with_reducible apply writeHbCfg_inCycle)
        | (with_reducible apply writeHbData_inCycle) | (with_reducible apply popRx_inCycle)
        | (with_reducible apply writeEncCmd_inCycle) | (with_reducible apply writeLctl_inCycle)
        | (with_reducible apply writeFfyCmd_inCycle) | (with_reducible apply writeHaTime_inCycle)
        | (with_reducible apply writeAdcCmd_inCycle) | (with_reducible apply writePrgCmd_inCycle)
        | (with_reducible apply modGen_inCycle) | (with_reducible apply writeHaPosHi_inCycle)
        | (with_reducible apply writeTdata_inCycle) | (with_reducible apply writeTdefault_inCycle)
        | (with_reducible apply writeSpareCmd_inCycle) | (with_reducible apply InCycle.ite))

theorem cellCommand_inCycle {src : Nat} {p : Pg} {i off : Nat} {v : Word} {f : State → State} (e : cellCommand src p i off v = some f)
    (h : InCycle z s) : InCycle z (f s) := by
  unfold cellCommand at e
  cases p <;> simp only at e <;> (try split at e) <;> (try split at e) <;> (try split at e) <;> (try split at e) <;> (try split at e) <;>
    first
    | (cases e; done)
    | (cases e; repeat' first
        | (with_reducible assumption) | exact h | (with_reducible apply requestPatternSwitch_inCycle)
        | (with_reducible apply modPlf_inCycle) | (with_reducible apply writeTolHi_inCycle)
        | (with_reducible apply writeFloorHi_inCycle) | (with_reducible apply writeIdCfg_inCycle)
        | (with_reducible apply writeWrIdx_inCycle) | (with_reducible apply writeRptRd_inCycle)
        | (with_reducible apply writeArmCmd_inCycle) | (with_reducible apply requestKernelSwitch_inCycle)
        | (with_reducible apply writePdata_inCycle) | (with_reducible apply writePcommit_inCycle)
        | (with_reducible apply writeHaSeq_inCycle) | (with_reducible apply requestMantisSwitch_inCycle)
        | (with_reducible apply writeHtData_inCycle) | (with_reducible apply writeHtCommit_inCycle)
        | (with_reducible apply writeSwrst_inCycle) | (with_reducible apply writePwdCmd_inCycle)
        | (with_reducible apply logAck_inCycle) | (with_reducible apply InCycle.ite))

theorem writeBlock_inCycle {q : Port} {p : Pg} {i off : Nat} {m v : Word} (h : InCycle z s) : InCycle z (writeBlock q p i off m v s) := by
  unfold writeBlock
  split
  · rename_i e
    split at e
    · exact cellCommand_inCycle e h
    · exact hubCommand_inCycle e h
  · exact writeValue_inCycle h

theorem writeDefined_inCycle (h : InCycle z s) : InCycle z (writeDefined x1 x2 x3 x4 x5 x6 s) := by
  unfold writeDefined
  try dsimp only
  repeat' first
      | (intro _) | (with_reducible assumption) | (with_reducible apply writeCommon_inCycle)
      | (with_reducible apply writeBlock_inCycle) | (with_reducible exact InCycle.upd (by assumption) rfl rfl)
      | (with_reducible apply InCycle.ite)
      | (with_reducible refine InCycle.upd ?_ rfl rfl <;> first
          | (with_reducible apply writeCommon_inCycle) | (with_reducible apply writeBlock_inCycle))
      | split

theorem countedWrite_inCycle {p : Pg} {i off : Nat} {r : RegRow} {f : State → State} (hf : ∀ s, InCycle z s → InCycle z (f s))
    (h : InCycle z s) : InCycle z (countedWrite p i off r f s) := by
  unfold countedWrite
  split
  · exact hf s h
  · exact staged_inCycle hf h

theorem loggedWrite_inCycle {q : Port} {p : Pg} {i : Nat} {f : State → State} (hf : ∀ s, InCycle z s → InCycle z (f s))
    (h : InCycle z s) : InCycle z (loggedWrite q p i f s) := by
  unfold loggedWrite
  dsimp only
  split
  · split
    · split
      · exact protectedWrite_inCycle (hf s h)
      · exact modSec_inCycle (protectedWrite_inCycle (hf s h))
    · exact logChange_inCycle (protectedWrite_inCycle (hf s h))
  · exact hf s h

theorem turnAway_inCycle (h : InCycle z s) : InCycle z (turnAway x1 x2 x3 s) := by
  unfold turnAway
  try dsimp only
  repeat' first
      | (intro _) | (with_reducible assumption) | (with_reducible apply recordErr_inCycle)
      | (with_reducible apply refuseForLog_inCycle) | (with_reducible exact InCycle.upd (by assumption) rfl rfl)
      | (with_reducible apply InCycle.ite)
      | (with_reducible refine InCycle.upd ?_ rfl rfl <;> first
          | (with_reducible apply recordErr_inCycle) | (with_reducible apply refuseForLog_inCycle))
      | split

theorem actWrite_inCycle {q : Port} {p : Pg} {i off : Nat} {r : RegRow} {f : State → State} (hf : ∀ s, InCycle z s → InCycle z (f s))
    (h : InCycle z s) : InCycle z (actWrite q p i off r f s) := by
  unfold actWrite
  split
  · exact turnAway_inCycle h
  · exact loggedWrite_inCycle (fun _ k => countedWrite_inCycle hf k) h

theorem writeUnlock_inCycle (h : InCycle z s) : InCycle z (writeUnlock x1 x2 s) := by
  unfold writeUnlock
  try dsimp only
  repeat' first
      | (intro _) | (with_reducible assumption) | (with_reducible apply doIf_inCycle) | (with_reducible apply chg_inCycle)
      | (with_reducible apply unlockPage_inCycle) | (with_reducible exact InCycle.upd (by assumption) rfl rfl)
      | (with_reducible apply InCycle.ite)
      | (with_reducible refine InCycle.upd ?_ rfl rfl <;> first
          | (with_reducible apply doIf_inCycle) | (with_reducible apply chg_inCycle)
          | (with_reducible apply unlockPage_inCycle))
      | split

theorem writeReg_inCycle (h : InCycle z s) : InCycle z (writeReg x1 x2 x3 x4 x5 s) := by
  unfold writeReg
  try dsimp only
  repeat' first
      | (intro _) | (with_reducible assumption) | (with_reducible apply writeUnlock_inCycle)
      | (with_reducible apply actWrite_inCycle) | (with_reducible apply writeDefined_inCycle)
      | (with_reducible exact InCycle.upd (by assumption) rfl rfl) | (with_reducible apply InCycle.ite)
      | (with_reducible refine InCycle.upd ?_ rfl rfl <;> first
          | (with_reducible apply writeUnlock_inCycle) | (with_reducible apply actWrite_inCycle)
          | (with_reducible apply writeDefined_inCycle))
      | split

theorem writeIrqStat_inCycle (h : InCycle z s) : InCycle z (writeIrqStat x1 x2 x3 x4 x5 s) := by
  unfold writeIrqStat
  try dsimp only
  repeat' first
      | (intro _) | (with_reducible assumption) | (with_reducible apply irqMask_inCycle)
      | (with_reducible apply turnAway_inCycle) | (with_reducible apply actWrite_inCycle)
      | (with_reducible apply clearIrq_inCycle) | (with_reducible exact InCycle.upd (by assumption) rfl rfl)
      | (with_reducible apply InCycle.ite)
      | (with_reducible refine InCycle.upd ?_ rfl rfl <;> first
          | (with_reducible apply irqMask_inCycle) | (with_reducible apply turnAway_inCycle)
          | (with_reducible apply actWrite_inCycle) | (with_reducible apply clearIrq_inCycle))
      | split

theorem flushLog_inCycle (h : InCycle z s) : InCycle z (flushLog s) := by
  unfold flushLog
  try dsimp only
  repeat' first
      | (intro _) | (with_reducible assumption) | (with_reducible apply forEach_inCycle)
      | (with_reducible apply logChange_inCycle) | (with_reducible apply modSec_inCycle)
      | (with_reducible exact InCycle.upd (by assumption) rfl rfl) | (with_reducible apply InCycle.ite)
      | (with_reducible refine InCycle.upd ?_ rfl rfl <;> first
          | (with_reducible apply forEach_inCycle) | (with_reducible apply logChange_inCycle)
          | (with_reducible apply modSec_inCycle))
      | split

theorem writeAddr_inCycle (h : InCycle z s) : InCycle z (writeAddr x1 x2 x3 s) := by
  unfold writeAddr
  try dsimp only
  repeat' first
      | (intro _) | (with_reducible assumption) | (with_reducible apply writeReg_inCycle)
      | (with_reducible exact InCycle.upd (by assumption) rfl rfl) | (with_reducible apply InCycle.ite)
      | (with_reducible refine InCycle.upd ?_ rfl rfl <;> first
          | (with_reducible apply writeReg_inCycle))
      | split

end Sys2Proof.Machine
end

