-- ==== Sys2Proof/Laws/InCycleAccess.lean ====
section
/-! SUPPORT. What the operations of Machine/Access.lean keep. -/

namespace Sys2Proof.Machine

variable {z s : State}

set_option linter.unusedTactic false
set_option linter.unreachableTactic false

theorem modLink_inCycle {f : HostLink → HostLink} (hf : (f s.link).fifo.length ≤ max s.link.fifo.length 256) (h : InCycle z s) :
    InCycle z (modLink f s) :=
  ⟨⟨h.pending, h.regs, h.mem, fun k => by have := h.fifo k; simp only [modLink]; omega, h.free, h.now⟩, h.tag, h.started, h.running, h.ts, h.on⟩

theorem modLink_inCycle_same {f : HostLink → HostLink} (hf : (f s.link).fifo = s.link.fifo) (h : InCycle z s) : InCycle z (modLink f s) :=
  InCycle.upd h rfl hf

theorem flagAccess_inCycle {q : Port} {b a : Nat} (h : InCycle z s) : InCycle z (flagAccess q b a s) :=
  count_inCycle (modLink_inCycle_same rfl h)

theorem stall_inCycle (h : InCycle z s) : InCycle z (stall x1 s) := count_inCycle (modLink_inCycle_same rfl h)

theorem stageWrite_inCycle {q : Port} {a : Nat} {v : Word} (hk : s.link.fifo.length < 256) (h : InCycle z s) :
    InCycle z (stageWrite q a v s) := by
  unfold stageWrite
  split
  · exact recordErr_inCycle h
  · exact modLink_inCycle (by simp only [List.length_append, List.length_cons, List.length_nil]; omega) h

theorem setOwn_inCycle (h : InCycle z s) : InCycle z (setOwn x1 x2 x3 x4 s) := by
  unfold setOwn
  try dsimp only
  repeat' first
      | (intro _) | (with_reducible assumption) | (with_reducible exact InCycle.upd (by assumption) rfl rfl)
      | (with_reducible apply InCycle.ite)
      | split

theorem ownErr_inCycle (h : InCycle z s) : InCycle z (ownErr x1 x2 x3 s) := by
  unfold ownErr
  try dsimp only
  repeat' first
      | (intro _) | (with_reducible assumption) | (with_reducible apply setOwn_inCycle)
      | (with_reducible exact InCycle.upd (by assumption) rfl rfl) | (with_reducible apply InCycle.ite)
      | (with_reducible refine InCycle.upd ?_ rfl rfl <;> first
          | (with_reducible apply setOwn_inCycle))
      | split

theorem ownSet_inCycle (h : InCycle z s) : InCycle z (ownSet x1 x2 x3 s) := by
  unfold ownSet
  try dsimp only
  repeat' first
      | (intro _) | (with_reducible assumption) | (with_reducible apply setOwn_inCycle)
      | (with_reducible exact InCycle.upd (by assumption) rfl rfl) | (with_reducible apply InCycle.ite)
      | (with_reducible refine InCycle.upd ?_ rfl rfl <;> first
          | (with_reducible apply setOwn_inCycle))
      | split

theorem ownReset_inCycle (h : InCycle z s) : InCycle z (ownReset x1 x2 s) := by
  unfold ownReset
  try dsimp only
  repeat' first
      | (intro _) | (with_reducible assumption) | (with_reducible exact InCycle.upd (by assumption) rfl rfl)
      | (with_reducible apply InCycle.ite)
      | split

theorem ownCommon_inCycle (h : InCycle z s) : InCycle z (ownCommon x1 x2 x3 s) := by
  unfold ownCommon
  try dsimp only
  repeat' first
      | (intro _) | (with_reducible assumption) | (with_reducible apply ownErr_inCycle)
      | (with_reducible apply ownReset_inCycle) | (with_reducible apply ownSet_inCycle) | (with_reducible apply setOwn_inCycle)
      | (with_reducible exact InCycle.upd (by assumption) rfl rfl) | (with_reducible apply InCycle.ite)
      | (with_reducible refine InCycle.upd ?_ rfl rfl <;> first
          | (with_reducible apply ownErr_inCycle) | (with_reducible apply ownReset_inCycle)
          | (with_reducible apply ownSet_inCycle) | (with_reducible apply setOwn_inCycle))
      | split

theorem privateApply_inCycle (h : InCycle z s) : InCycle z (privateApply x1 x2 x3 s) := by
  unfold privateApply
  try dsimp only
  repeat' first
      | (intro _) | (with_reducible assumption) | (with_reducible apply ownErr_inCycle)
      | (with_reducible apply ownCommon_inCycle) | (with_reducible apply refreshReady_inCycle)
      | (with_reducible apply writeSpareCmd_inCycle) | (with_reducible apply ownSet_inCycle)
      | (with_reducible exact InCycle.upd (by assumption) rfl rfl) | (with_reducible apply InCycle.ite)
      | (with_reducible refine InCycle.upd ?_ rfl rfl <;> first
          | (with_reducible apply ownErr_inCycle) | (with_reducible apply ownCommon_inCycle)
          | (with_reducible apply refreshReady_inCycle) | (with_reducible apply writeSpareCmd_inCycle)
          | (with_reducible apply ownSet_inCycle))
      | split

theorem privateWrite_inCycle (h : InCycle z s) : InCycle z (privateWrite x1 x2 x3 s) := by
  unfold privateWrite
  try dsimp only
  repeat' first
      | (intro _) | (with_reducible assumption) | (with_reducible apply flagAccess_inCycle)
      | (with_reducible apply privateApply_inCycle) | (with_reducible exact InCycle.upd (by assumption) rfl rfl)
      | (with_reducible apply InCycle.ite)
      | (with_reducible refine InCycle.upd ?_ rfl rfl <;> first
          | (with_reducible apply flagAccess_inCycle) | (with_reducible apply privateApply_inCycle))
      | split

theorem settleReady_inCycle (h : InCycle z s) : InCycle z (settleReady x1 s) := by
  unfold settleReady
  try dsimp only
  repeat' first
      | (intro _) | (with_reducible assumption) | (with_reducible apply refreshReady_inCycle)
      | (with_reducible apply noteReady_inCycle) | (with_reducible exact InCycle.upd (by assumption) rfl rfl)
      | (with_reducible apply InCycle.ite)
      | (with_reducible refine InCycle.upd ?_ rfl rfl <;> first
          | (with_reducible apply refreshReady_inCycle) | (with_reducible apply noteReady_inCycle))
      | split

theorem bar0Write_inCycle {q : Port} {a : Nat} {v : Word} {b : Bool} (hk : s.link.fifo.length < 256) (h : InCycle z s) :
    InCycle z (bar0Write q a v b s) := by
  unfold bar0Write
  split
  · split
    · exact settleReady_inCycle (writeAddr_inCycle h)
    · exact stageWrite_inCycle hk h
    · exact privateWrite_inCycle h
    · exact h
  · exact flagAccess_inCycle h

theorem hostWrite_inCycle {q : Port} {a : Nat} {v : Word} {b : Bool} (h : InCycle z s) : InCycle z (hostWrite q a v b s) := by
  refine atPort_inCycle (fun s h => ?_) h
  split
  · exact stall_inCycle h
  · rename_i k
    refine bar0Write_inCycle ?_ h
    simp [withheld] at k
    omega

theorem hubRead_inCycle (h : InCycle z s) : InCycle z (hubRead x1 x2 x3 s) := by
  unfold hubRead
  try dsimp only
  repeat' first
      | (intro _) | (with_reducible assumption) | (with_reducible apply returnRead_inCycle)
      | (with_reducible apply readEffect_inCycle) | (with_reducible apply flagAccess_inCycle)
      | (with_reducible exact InCycle.upd (by assumption) rfl rfl) | (with_reducible apply InCycle.ite)
      | (with_reducible refine InCycle.upd ?_ rfl rfl <;> first
          | (with_reducible apply returnRead_inCycle) | (with_reducible apply readEffect_inCycle)
          | (with_reducible apply flagAccess_inCycle))
      | split

theorem cellRead_inCycle (h : InCycle z s) : InCycle z (cellRead x1 x2 x3 s) := by
  unfold cellRead
  try dsimp only
  repeat' first
      | (intro _) | (with_reducible assumption) | (with_reducible apply flagAccess_inCycle)
      | (with_reducible apply returnRead_inCycle) | (with_reducible apply readEffect_inCycle)
      | (with_reducible exact InCycle.upd (by assumption) rfl rfl) | (with_reducible apply InCycle.ite)
      | (with_reducible refine InCycle.upd ?_ rfl rfl <;> first
          | (with_reducible apply flagAccess_inCycle) | (with_reducible apply returnRead_inCycle)
          | (with_reducible apply readEffect_inCycle))
      | split

theorem privateRead_inCycle (h : InCycle z s) : InCycle z (privateRead x1 x2 s) := by
  unfold privateRead
  try dsimp only
  repeat' first
      | (intro _) | (with_reducible assumption) | (with_reducible apply returnRead_inCycle)
      | (with_reducible apply drawFree_inCycle) | (with_reducible exact InCycle.upd (by assumption) rfl rfl)
      | (with_reducible apply InCycle.ite)
      | (with_reducible refine InCycle.upd ?_ rfl rfl <;> first
          | (with_reducible apply returnRead_inCycle) | (with_reducible apply drawFree_inCycle))
      | split

theorem hostRead_inCycle (h : InCycle z s) : InCycle z (hostRead x1 x2 x3 x4 x5 s) := by
  unfold hostRead
  try dsimp only
  repeat' first
      | (intro _) | (with_reducible assumption) | (with_reducible apply atPort_inCycle)
      | (with_reducible apply hubRead_inCycle) | (with_reducible apply cellRead_inCycle)
      | (with_reducible apply privateRead_inCycle) | (with_reducible apply returnRead_inCycle)
      | (with_reducible apply flagAccess_inCycle) | (with_reducible exact InCycle.upd (by assumption) rfl rfl)
      | (with_reducible apply InCycle.ite)
      | (with_reducible refine InCycle.upd ?_ rfl rfl <;> first
          | (with_reducible apply atPort_inCycle) | (with_reducible apply hubRead_inCycle)
          | (with_reducible apply cellRead_inCycle) | (with_reducible apply privateRead_inCycle)
          | (with_reducible apply returnRead_inCycle) | (with_reducible apply flagAccess_inCycle))
      | split

theorem storeBytes_inCycle {a : Nat} {l : List Byte} (h : InCycle z s) : InCycle z (storeBytes a l s) := by
  induction l generalizing a s with
  | nil => exact h
  | cons b r ih => exact ih (InCycle.ite (setByte_inCycle h) h)

theorem bulkWrite_inCycle (h : InCycle z s) : InCycle z (bulkWrite x1 x2 s) := by
  unfold bulkWrite
  try dsimp only
  repeat' first
      | (intro _) | (with_reducible assumption) | (with_reducible apply recordErr_inCycle)
      | (with_reducible apply storeBytes_inCycle) | (with_reducible exact InCycle.upd (by assumption) rfl rfl)
      | (with_reducible apply InCycle.ite)
      | (with_reducible refine InCycle.upd ?_ rfl rfl <;> first
          | (with_reducible apply recordErr_inCycle) | (with_reducible apply storeBytes_inCycle))
      | split

theorem bar2Write_inCycle (h : InCycle z s) : InCycle z (bar2Write x1 x2 x3 s) := by
  unfold bar2Write
  try dsimp only
  repeat' first
      | (intro _) | (with_reducible assumption) | (with_reducible apply atPort_inCycle) | (with_reducible apply stall_inCycle)
      | (with_reducible apply bulkWrite_inCycle) | (with_reducible exact InCycle.upd (by assumption) rfl rfl)
      | (with_reducible apply InCycle.ite)
      | (with_reducible refine InCycle.upd ?_ rfl rfl <;> first
          | (with_reducible apply atPort_inCycle) | (with_reducible apply stall_inCycle)
          | (with_reducible apply bulkWrite_inCycle))
      | split

theorem unstall_inCycle (h : InCycle z s) : InCycle z (unstall s) := by
  unfold unstall
  split
  · rename_i k
    split
    · exact h
    · dsimp only
      split
      · unfold atPort
        split
        · exact bar0Write_inCycle k (modLink_inCycle_same rfl h)
        · exact modLink_inCycle_same rfl h
      · exact atPort_inCycle (fun _ g => bulkWrite_inCycle g) (modLink_inCycle_same rfl h)
  · exact h

theorem bar2Read_inCycle {q : Port} {a n : Nat} {b : Bool} (h : InCycle z s) : InCycle z (bar2Read q a n b s) :=
  atPort_inCycle (fun _ k => InCycle.ite (flagAccess_inCycle (modLink_inCycle_same rfl k)) (modLink_inCycle_same rfl k)) h

theorem onPage_inCycle {a : Nat} {f : Pg → Nat → State → State} (hf : ∀ p i s, InCycle z s → InCycle z (f p i s)) (h : InCycle z s) :
    InCycle z (onPage a f s) := by
  unfold onPage
  split
  · split
    · exact hf _ _ s h
    · exact h
  · exact h

theorem pageWrite_inCycle (h : InCycle z s) : InCycle z (pageWrite x1 x2 x3 s) := by
  unfold pageWrite
  try dsimp only
  repeat' first
      | (intro _) | (with_reducible assumption) | (with_reducible apply onPage_inCycle)
      | (with_reducible apply flushLog_inCycle) | (with_reducible apply writeReg_inCycle)
      | (with_reducible exact InCycle.upd (by assumption) rfl rfl) | (with_reducible apply InCycle.ite)
      | (with_reducible refine InCycle.upd ?_ rfl rfl <;> first
          | (with_reducible apply onPage_inCycle) | (with_reducible apply flushLog_inCycle)
          | (with_reducible apply writeReg_inCycle))
      | split

end Sys2Proof.Machine
end

