-- ==== Sys2Proof/Laws/InCycleCycle.lean ====
section
/-! SUPPORT. What the operations of Machine/Cycle.lean keep. -/

namespace Sys2Proof.Machine

variable {z s : State}

set_option linter.unusedTactic false
set_option linter.unreachableTactic false

theorem assignTag_keeps (h : Keeps z s) : Keeps z (assignTag s) := by
  refine Keeps.trans (Keeps.upd h ⟨?_, ?_⟩ rfl) (advanceTo_inCycle InCycle.refl).toKeeps
  · dsimp only; split <;> rfl
  · dsimp only; split <;> rfl

theorem applyBundle_inCycle (h : InCycle z s) : InCycle z (applyBundle s) :=
  flushLog_inCycle (forEach_inCycle (fun _ _ k => writeAddr_inCycle k) (modLink_inCycle_same rfl h))

theorem lineFrames_inCycle (h : InCycle z s) : InCycle z (lineFrames s) := by
  unfold lineFrames
  try dsimp only
  repeat' first
      | (intro _) | (with_reducible assumption) | (with_reducible apply freezeLine_inCycle)
      | (with_reducible apply forEach_inCycle) | (with_reducible apply modRing_inCycle)
      | (with_reducible exact InCycle.upd (by assumption) rfl rfl) | (with_reducible apply InCycle.ite)
      | (with_reducible refine InCycle.upd ?_ rfl rfl <;> first
          | (with_reducible apply freezeLine_inCycle) | (with_reducible apply forEach_inCycle)
          | (with_reducible apply modRing_inCycle))
      | split

theorem beginCycle_inCycle (h : InCycle z s) : InCycle z (beginCycle s) := by
  unfold beginCycle
  try dsimp only
  repeat' first
      | (intro _) | (with_reducible assumption) | (with_reducible apply modSaf_inCycle) | (with_reducible apply modTds_inCycle)
      | (with_reducible exact InCycle.upd (by assumption) rfl rfl) | (with_reducible apply InCycle.ite)
      | (with_reducible refine InCycle.upd ?_ rfl rfl <;> first
          | (with_reducible apply modSaf_inCycle) | (with_reducible apply modTds_inCycle))
      | split

theorem endCycle_inCycle (h : InCycle z s) : InCycle z (endCycle s) := by
  unfold endCycle
  try dsimp only
  repeat' first
      | (intro _) | (with_reducible assumption) | (with_reducible apply forEach_inCycle)
      | (with_reducible apply stillStep_inCycle) | (with_reducible apply envelopeTest_inCycle)
      | (with_reducible apply wlCycleEnd_inCycle) | (with_reducible exact InCycle.upd (by assumption) rfl rfl)
      | (with_reducible apply InCycle.ite)
      | (with_reducible refine InCycle.upd ?_ rfl rfl <;> first
          | (with_reducible apply forEach_inCycle) | (with_reducible apply stillStep_inCycle)
          | (with_reducible apply envelopeTest_inCycle) | (with_reducible apply wlCycleEnd_inCycle))
      | split

theorem armsSync_inCycle (h : InCycle z s) : InCycle z (armsSync s) := by
  unfold armsSync
  try dsimp only
  repeat' first
      | (intro _) | (with_reducible assumption) | (with_reducible apply datapathSync_inCycle)
      | (with_reducible apply applyHostTorque_inCycle) | (with_reducible apply forEach_inCycle)
      | (with_reducible apply tickProfile_inCycle) | (with_reducible apply startSs1_inCycle)
      | (with_reducible exact InCycle.upd (by assumption) rfl rfl) | (with_reducible apply InCycle.ite)
      | (with_reducible refine InCycle.upd ?_ rfl rfl <;> first
          | (with_reducible apply datapathSync_inCycle) | (with_reducible apply applyHostTorque_inCycle)
          | (with_reducible apply forEach_inCycle) | (with_reducible apply tickProfile_inCycle)
          | (with_reducible apply startSs1_inCycle))
      | split

theorem sampleSync_inCycle (h : InCycle z s) : InCycle z (sampleSync x1 x2 s) := by
  unfold sampleSync
  try dsimp only
  repeat' first
      | (intro _) | (with_reducible assumption) | (with_reducible apply lineSample_inCycle)
      | (with_reducible apply lineLoadSync_inCycle) | (with_reducible apply encSyncAll_inCycle)
      | (with_reducible apply servoSync_inCycle) | (with_reducible apply ptpQualify_inCycle)
      | (with_reducible apply forEach_inCycle) | (with_reducible apply genSync_inCycle)
      | (with_reducible apply formReferences_inCycle) | (with_reducible apply adcTrigger_inCycle)
      | (with_reducible apply lineFrames_inCycle) | (with_reducible exact InCycle.upd (by assumption) rfl rfl)
      | (with_reducible apply InCycle.ite)
      | (with_reducible refine InCycle.upd ?_ rfl rfl <;> first
          | (with_reducible apply lineSample_inCycle) | (with_reducible apply lineLoadSync_inCycle)
          | (with_reducible apply encSyncAll_inCycle) | (with_reducible apply servoSync_inCycle)
          | (with_reducible apply ptpQualify_inCycle) | (with_reducible apply forEach_inCycle)
          | (with_reducible apply genSync_inCycle) | (with_reducible apply formReferences_inCycle)
          | (with_reducible apply adcTrigger_inCycle) | (with_reducible apply lineFrames_inCycle))
      | split

theorem cartsSync_inCycle (h : InCycle z s) : InCycle z (cartsSync s) := by
  unfold cartsSync
  try dsimp only
  repeat' first
      | (intro _) | (with_reducible assumption) | (with_reducible apply hubSync_inCycle)
      | (with_reducible apply fenceHubs_inCycle) | (with_reducible apply roleSync_inCycle)
      | (with_reducible exact InCycle.upd (by assumption) rfl rfl) | (with_reducible apply InCycle.ite)
      | (with_reducible refine InCycle.upd ?_ rfl rfl <;> first
          | (with_reducible apply hubSync_inCycle) | (with_reducible apply fenceHubs_inCycle)
          | (with_reducible apply roleSync_inCycle))
      | split

theorem latchBundle_inCycle (h : InCycle z s) : InCycle z (latchBundle s) := by
  unfold latchBundle
  try dsimp only
  repeat' first
      | (intro _) | (with_reducible assumption) | (with_reducible apply modPlf_inCycle) | (with_reducible apply modSaf_inCycle)
      | (with_reducible exact InCycle.upd (by assumption) rfl rfl) | (with_reducible apply InCycle.ite)
      | (with_reducible refine InCycle.upd ?_ rfl rfl <;> first
          | (with_reducible apply modPlf_inCycle) | (with_reducible apply modSaf_inCycle))
      | split

theorem restStep_inCycle (h : InCycle z s) : InCycle z (restStep x1 s) := by
  unfold restStep
  try dsimp only
  repeat' first
      | (intro _) | (with_reducible assumption) | (with_reducible apply settleBad_inCycle)
      | (with_reducible apply startWait_inCycle) | (with_reducible exact InCycle.upd (by assumption) rfl rfl)
      | (with_reducible apply InCycle.ite)
      | (with_reducible refine InCycle.upd ?_ rfl rfl <;> first
          | (with_reducible apply settleBad_inCycle) | (with_reducible apply startWait_inCycle))
      | split

theorem endCycle_keeps (h : Keeps z s) : Keeps z (endCycle s) := h.trans (endCycle_inCycle InCycle.refl).toKeeps

theorem applyBundle_keeps (h : Keeps z s) : Keeps z (applyBundle s) := h.trans (applyBundle_inCycle InCycle.refl).toKeeps

theorem wlCycleBegin_keeps (h : Keeps z s) : Keeps z (wlCycleBegin x1 s) := h.trans (wlCycleBegin_inCycle InCycle.refl).toKeeps

theorem htSync_keeps (h : Keeps z s) : Keeps z (htSync s) := h.trans (htSync_inCycle InCycle.refl).toKeeps

theorem armsSync_keeps (h : Keeps z s) : Keeps z (armsSync s) := h.trans (armsSync_inCycle InCycle.refl).toKeeps

theorem cartsSync_keeps (h : Keeps z s) : Keeps z (cartsSync s) := h.trans (cartsSync_inCycle InCycle.refl).toKeeps

theorem latchBundle_keeps (h : Keeps z s) : Keeps z (latchBundle s) := h.trans (latchBundle_inCycle InCycle.refl).toKeeps

theorem noteChannels_keeps (h : Keeps z s) : Keeps z (noteChannels s) := h.trans (noteChannels_inCycle InCycle.refl).toKeeps

theorem outputsSync_keeps (h : Keeps z s) : Keeps z (outputsSync s) := h.trans (outputsSync_inCycle InCycle.refl).toKeeps

theorem sampleSync_keeps (h : Keeps z s) : Keeps z (sampleSync x1 x2 s) := h.trans (sampleSync_inCycle InCycle.refl).toKeeps

theorem beginCycle_keeps (h : Keeps z s) : Keeps z (beginCycle s) := h.trans (beginCycle_inCycle InCycle.refl).toKeeps

theorem restStep_keeps (h : Keeps z s) : Keeps z (restStep x1 s) := h.trans (restStep_inCycle InCycle.refl).toKeeps

theorem syncInstant_keeps (h : Keeps z s) : Keeps z (syncInstant x1 x2 s) := by
  unfold syncInstant
  try dsimp only
  repeat' first
      | (intro _) | (with_reducible assumption) | (with_reducible apply assignTag_keeps)
      | (with_reducible apply endCycle_keeps) | (with_reducible apply applyBundle_keeps)
      | (with_reducible apply wlCycleBegin_keeps) | (with_reducible apply htSync_keeps) | (with_reducible apply armsSync_keeps)
      | (with_reducible apply cartsSync_keeps) | (with_reducible apply latchBundle_keeps)
      | (with_reducible apply noteChannels_keeps) | (with_reducible apply outputsSync_keeps)
      | (with_reducible apply sampleSync_keeps) | (with_reducible apply refreshReady_keeps)
      | (with_reducible apply beginCycle_keeps) | (with_reducible apply forEach_keeps) | (with_reducible apply restStep_keeps)
      | (with_reducible exact Keeps.upd (by assumption) ⟨rfl, rfl⟩ rfl) | (with_reducible apply Keeps.ite)
      | (with_reducible refine Keeps.upd ?_ ⟨rfl, rfl⟩ rfl <;> first
          | (with_reducible apply assignTag_keeps) | (with_reducible apply endCycle_keeps)
          | (with_reducible apply applyBundle_keeps) | (with_reducible apply wlCycleBegin_keeps)
          | (with_reducible apply htSync_keeps) | (with_reducible apply armsSync_keeps)
          | (with_reducible apply cartsSync_keeps) | (with_reducible apply latchBundle_keeps)
          | (with_reducible apply noteChannels_keeps) | (with_reducible apply outputsSync_keeps)
          | (with_reducible apply sampleSync_keeps) | (with_reducible apply refreshReady_keeps)
          | (with_reducible apply beginCycle_keeps) | (with_reducible apply forEach_keeps)
          | (with_reducible apply restStep_keeps))
      | split

theorem torqueLate_inCycle (h : InCycle z s) : InCycle z (torqueLate s) := by
  unfold torqueLate
  try dsimp only
  repeat' first
      | (intro _) | (with_reducible assumption) | (with_reducible apply haLate_inCycle)
      | (with_reducible exact InCycle.upd (by assumption) rfl rfl) | (with_reducible apply InCycle.ite)
      | (with_reducible refine InCycle.upd ?_ rfl rfl <;> first
          | (with_reducible apply haLate_inCycle))
      | split

theorem stagingCutOff_inCycle (h : InCycle z s) : InCycle z (stagingCutOff s) := by
  unfold stagingCutOff
  refine torqueLate_inCycle (modLink_inCycle (Nat.zero_le _) ?_)
  split
  · exact InCycle.ite (advanceTo_inCycle h) h
  · exact h

theorem feedbackInstant_inCycle (h : InCycle z s) : InCycle z (feedbackInstant s) := by
  unfold feedbackInstant
  try dsimp only
  repeat' first
      | (intro _) | (with_reducible assumption) | (with_reducible apply advanceTo_inCycle)
      | (with_reducible apply forEach_inCycle) | (with_reducible apply adcFeedback_inCycle)
      | (with_reducible exact InCycle.upd (by assumption) rfl rfl) | (with_reducible apply InCycle.ite)
      | (with_reducible refine InCycle.upd ?_ rfl rfl <;> first
          | (with_reducible apply advanceTo_inCycle) | (with_reducible apply forEach_inCycle)
          | (with_reducible apply adcFeedback_inCycle))
      | split

theorem planCycleStart_inCycle (h : InCycle z s) : InCycle z (planCycleStart s) := by
  unfold planCycleStart
  try dsimp only
  repeat' first
      | (intro _) | (with_reducible assumption) | (with_reducible apply lanePlanStart_inCycle)
      | (with_reducible apply fenceLanes_inCycle) | (with_reducible apply planStart_inCycle)
      | (with_reducible exact InCycle.upd (by assumption) rfl rfl) | (with_reducible apply InCycle.ite)
      | (with_reducible refine InCycle.upd ?_ rfl rfl <;> first
          | (with_reducible apply lanePlanStart_inCycle) | (with_reducible apply fenceLanes_inCycle)
          | (with_reducible apply planStart_inCycle))
      | split

theorem tick_inCycle (h : InCycle z s) : InCycle z (tick s) := by
  unfold tick
  try dsimp only
  repeat' first
      | (intro _) | (with_reducible assumption) | (with_reducible apply advanceTo_inCycle)
      | (with_reducible apply insertionTick_inCycle) | (with_reducible apply ffyPhaseSteps_inCycle)
      | (with_reducible apply evalLine_inCycle) | (with_reducible apply forEach_inCycle)
      | (with_reducible apply genTick_inCycle) | (with_reducible apply stpTick_inCycle)
      | (with_reducible exact InCycle.upd (by assumption) rfl rfl) | (with_reducible apply InCycle.ite)
      | (with_reducible refine InCycle.upd ?_ rfl rfl <;> first
          | (with_reducible apply advanceTo_inCycle) | (with_reducible apply insertionTick_inCycle)
          | (with_reducible apply ffyPhaseSteps_inCycle) | (with_reducible apply evalLine_inCycle)
          | (with_reducible apply forEach_inCycle) | (with_reducible apply genTick_inCycle)
          | (with_reducible apply stpTick_inCycle))
      | split

theorem testMidpoint_inCycle (h : InCycle z s) : InCycle z (testMidpoint x1 x2 s) := by
  unfold testMidpoint
  try dsimp only
  repeat' first
      | (intro _) | (with_reducible assumption) | (with_reducible apply adcTrigger_inCycle)
      | (with_reducible exact InCycle.upd (by assumption) rfl rfl) | (with_reducible apply InCycle.ite)
      | (with_reducible refine InCycle.upd ?_ rfl rfl <;> first
          | (with_reducible apply adcTrigger_inCycle))
      | split

end Sys2Proof.Machine
end

