-- ==== Sys2Proof/Laws/Exec.lean ====
section
/-! SUPPORT. What every meaning keeps: all but a power good keep the queue, the canonical forms and the bound of the FIFO and never
take cell time back; those that neither begin a bus cycle nor start or leave the bus keep the cycle tag as well. -/

namespace Sys2Proof.Machine

variable {s t : State}

set_option linter.unusedTactic false
set_option linter.unreachableTactic false

/-- What an effect keeps, its command keeps. -/
theorem run_inCycle {f : State → State} (hf : InCycle s (f s)) (h : run f s = .next t) : InCycle s t := by
  unfold run at h; cases h; split
  · exact hf
  · exact InCycle.refl

theorem run_keeps {f : State → State} (hf : Keeps s (f s)) (h : run f s = .next t) : Keeps s t := by
  unfold run at h; cases h; split
  · exact hf
  · exact Keeps.refl

theorem runReady_inCycle {f : State → State} (hf : InCycle s (f s)) (h : runReady f s = .next t) : InCycle s t :=
  run_inCycle (f := fun s => refreshReady (f s)) (refreshReady_inCycle hf) h

theorem runReady_keeps {f : State → State} (hf : Keeps s (f s)) (h : runReady f s = .next t) : Keeps s t :=
  run_keeps (f := fun s => refreshReady (f s)) (refreshReady_keeps hf) h

theorem runWlc_inCycle {f : State → State} (hf : InCycle s (f s)) (h : runWlc f s = .next t) : InCycle s t :=
  run_inCycle (f := fun s => noteReady .wlc 1 (noteReady .wlc 0 (f s))) (noteReady_inCycle (noteReady_inCycle hf)) h

theorem runWlc_keeps {f : State → State} (hf : Keeps s (f s)) (h : runWlc f s = .next t) : Keeps s t :=
  run_keeps (f := fun s => noteReady .wlc 1 (noteReady .wlc 0 (f s)))
    (hf.trans (noteReady_inCycle (noteReady_inCycle InCycle.refl)).toKeeps) h

/-- A module that is shut down stays as it is (R546). -/
theorem run_inert {f : State → State} (h : s.clk.on = false) : run f s = .next s := by simp [run, h]

theorem execSyncInstant_keeps (h : execSyncInstant x1 x2 s = .next t) : Keeps s t := by
  unfold execSyncInstant at h
  refine run_keeps ?_ h
  try dsimp only
  repeat' first
      | (with_reducible exact Keeps.refl) | (intro _) | (with_reducible assumption) | (with_reducible apply syncInstant_keeps)
      | split

theorem execSilent_inCycle (h : execSilent x1 s = .next t) : InCycle s t := by
  unfold execSilent at h
  refine runReady_inCycle ?_ h
  try dsimp only
  repeat' first
      | (with_reducible exact InCycle.refl) | (intro _) | (with_reducible assumption) | (with_reducible apply silent_inCycle)
      | split

theorem execSilentHubDetected_inCycle (h : execSilentHubDetected x1 s = .next t) : InCycle s t := by
  unfold execSilentHubDetected at h
  refine runReady_inCycle ?_ h
  try dsimp only
  repeat' first
      | (with_reducible exact InCycle.refl) | (intro _) | (with_reducible assumption)
      | (with_reducible apply silentDetected_inCycle) | split

theorem execReferenceTakeover_inCycle (h : execReferenceTakeover s = .next t) : InCycle s t := by
  unfold execReferenceTakeover at h
  refine runReady_inCycle ?_ h
  try dsimp only
  repeat' first
      | (with_reducible exact InCycle.refl) | (intro _) | (with_reducible assumption) | (with_reducible apply takeover_inCycle)
      | split

theorem execFrameReceived_keeps (h : execFrameReceived x1 x2 x3 x4 x5 s = .next t) : Keeps s t := by
  unfold execFrameReceived at h
  refine runWlc_keeps ?_ h
  try dsimp only
  repeat' first
      | (with_reducible exact Keeps.refl) | (intro _) | (with_reducible assumption)
      | (with_reducible apply frameReceived_keeps) | split

theorem execInputBundle_inCycle (h : execInputBundle x1 x2 x3 x4 s = .next t) : InCycle s t := by
  unfold execInputBundle at h
  refine run_inCycle ?_ h
  try dsimp only
  repeat' first
      | (with_reducible exact InCycle.refl) | (intro _) | (with_reducible assumption)
      | (with_reducible apply inputBundle_inCycle) | split

theorem execStaticSlot_keeps (h : execStaticSlot x1 x2 s = .next t) : Keeps s t := by
  unfold execStaticSlot at h
  refine runWlc_keeps ?_ h
  try dsimp only
  repeat' first
      | (with_reducible exact Keeps.refl) | (intro _) | (with_reducible assumption) | (with_reducible apply staticSlot_keeps)
      | split

theorem execMinislot_keeps (h : execMinislot x1 s = .next t) : Keeps s t := by
  unfold execMinislot at h
  refine run_keeps ?_ h
  try dsimp only
  repeat' first
      | (with_reducible exact Keeps.refl) | (intro _) | (with_reducible assumption) | (with_reducible apply minislot_keeps)
      | split

theorem execHostBufferCutOff_inCycle (h : execHostBufferCutOff s = .next t) : InCycle s t := by
  unfold execHostBufferCutOff at h
  refine run_inCycle ?_ h
  try dsimp only
  repeat' first
      | (with_reducible exact InCycle.refl) | (intro _) | (with_reducible assumption)
      | (with_reducible apply bufferCutOff_inCycle) | split

theorem execSymbolWindow_keeps (h : execSymbolWindow x1 s = .next t) : Keeps s t := by
  unfold execSymbolWindow at h
  refine run_keeps ?_ h
  try dsimp only
  repeat' first
      | (with_reducible exact Keeps.refl) | (intro _) | (with_reducible assumption) | (with_reducible apply symbolWindow_keeps)
      | split

theorem execStagingCutOff_inCycle (h : execStagingCutOff s = .next t) : InCycle s t := by
  unfold execStagingCutOff at h
  refine run_inCycle ?_ h
  try dsimp only
  repeat' first
      | (with_reducible exact InCycle.refl) | (intro _) | (with_reducible assumption)
      | (with_reducible apply stagingCutOff_inCycle) | split

theorem execFeedbackInstant_inCycle (h : execFeedbackInstant s = .next t) : InCycle s t := by
  unfold execFeedbackInstant at h
  refine run_inCycle ?_ h
  try dsimp only
  repeat' first
      | (with_reducible exact InCycle.refl) | (intro _) | (with_reducible assumption)
      | (with_reducible apply feedbackInstant_inCycle) | split

theorem execMantisPass_inCycle (h : execMantisPass s = .next t) : InCycle s t := by
  unfold execMantisPass at h
  refine run_inCycle ?_ h
  try dsimp only
  repeat' first
      | (with_reducible exact InCycle.refl) | (intro _) | (with_reducible assumption)
      | (with_reducible apply mantisPass_inCycle) | split

theorem execGuardSourceLost_inCycle (h : execGuardSourceLost x1 s = .next t) : InCycle s t := by
  unfold execGuardSourceLost at h
  refine run_inCycle ?_ h
  try dsimp only
  repeat' first
      | (with_reducible exact InCycle.refl) | (intro _) | (with_reducible assumption)
      | (with_reducible apply guardSourceLost_inCycle) | split

theorem execServoPhaseA_inCycle (h : execServoPhaseA s = .next t) : InCycle s t := by
  unfold execServoPhaseA at h
  refine run_inCycle ?_ h
  try dsimp only
  repeat' first
      | (with_reducible exact InCycle.refl) | (intro _) | (with_reducible assumption)
      | (with_reducible apply servoPhaseA_inCycle) | split

theorem execServoPhaseB_inCycle (h : execServoPhaseB s = .next t) : InCycle s t := by
  unfold execServoPhaseB at h
  refine run_inCycle ?_ h
  try dsimp only
  repeat' first
      | (with_reducible exact InCycle.refl) | (intro _) | (with_reducible assumption)
      | (with_reducible apply servoPhaseB_inCycle) | split

theorem execKernelCycleLimit_inCycle (h : execKernelCycleLimit x1 s = .next t) : InCycle s t := by
  unfold execKernelCycleLimit at h
  refine run_inCycle ?_ h
  try dsimp only
  repeat' first
      | (with_reducible exact InCycle.refl) | (intro _) | (with_reducible assumption)
      | (with_reducible apply kernelFault_inCycle) | split

theorem execIdentificationUpdate_inCycle (h : execIdentificationUpdate x1 s = .next t) : InCycle s t := by
  unfold execIdentificationUpdate at h
  refine run_inCycle ?_ h
  try dsimp only
  repeat' first
      | (with_reducible exact InCycle.refl) | (intro _) | (with_reducible assumption)
      | (with_reducible apply identUpdate_inCycle) | split

theorem execPlanCycleStart_inCycle (h : execPlanCycleStart s = .next t) : InCycle s t := by
  unfold execPlanCycleStart at h
  refine runReady_inCycle ?_ h
  try dsimp only
  repeat' first
      | (with_reducible exact InCycle.refl) | (intro _) | (with_reducible assumption)
      | (with_reducible apply planCycleStart_inCycle) | split

theorem execWarmStart_inCycle (h : execWarmStart s = .next t) : InCycle s t := by
  unfold execWarmStart at h
  refine run_inCycle ?_ h
  try dsimp only
  repeat' first
      | (with_reducible exact InCycle.refl) | (intro _) | (with_reducible assumption)
      | (with_reducible apply warmStart_inCycle) | split

theorem execInteriorPointStep_inCycle (h : execInteriorPointStep s = .next t) : InCycle s t := by
  unfold execInteriorPointStep at h
  refine run_inCycle ?_ h
  try dsimp only
  repeat' first
      | (with_reducible exact InCycle.refl) | (intro _) | (with_reducible assumption)
      | (with_reducible apply interiorPointStep_inCycle) | split

theorem execProgressWord_inCycle (h : execProgressWord x1 x2 x3 s = .next t) : InCycle s t := by
  unfold execProgressWord at h
  refine run_inCycle ?_ h
  try dsimp only
  repeat' first
      | (with_reducible exact InCycle.refl) | (intro _) | (with_reducible assumption)
      | (with_reducible apply progressWord_inCycle) | split

theorem execDeadlineAgreement_inCycle (h : execDeadlineAgreement s = .next t) : InCycle s t := by
  unfold execDeadlineAgreement at h
  refine run_inCycle ?_ h
  try dsimp only
  repeat' first
      | (with_reducible exact InCycle.refl) | (intro _) | (with_reducible assumption)
      | (with_reducible apply deadlineAgreement_inCycle) | split

theorem execTimeScaleStop_inCycle (h : execTimeScaleStop x1 s = .next t) : InCycle s t := by
  unfold execTimeScaleStop at h
  refine run_inCycle ?_ h
  try dsimp only
  repeat' first
      | (with_reducible exact InCycle.refl) | (intro _) | (with_reducible assumption)
      | (with_reducible apply timeScaleStop_inCycle) | split

theorem execTimeScaleStopEnd_inCycle (h : execTimeScaleStopEnd x1 s = .next t) : InCycle s t := by
  unfold execTimeScaleStopEnd at h
  refine run_inCycle ?_ h
  try dsimp only
  repeat' first
      | (with_reducible exact InCycle.refl) | (intro _) | (with_reducible assumption)
      | (with_reducible apply timeScaleStopEnd_inCycle) | split

theorem execTailExhausted_inCycle (h : execTailExhausted x1 s = .next t) : InCycle s t := by
  unfold execTailExhausted at h
  refine run_inCycle ?_ h
  try dsimp only
  repeat' first
      | (with_reducible exact InCycle.refl) | (intro _) | (with_reducible assumption)
      | (with_reducible apply tailExhausted_inCycle) | split

theorem execPatternBankSwitch_inCycle (h : execPatternBankSwitch s = .next t) : InCycle s t := by
  unfold execPatternBankSwitch at h
  refine runReady_inCycle ?_ h
  try dsimp only
  repeat' first
      | (with_reducible exact InCycle.refl) | (intro _) | (with_reducible assumption)
      | (with_reducible apply patternSwitch_inCycle) | split

theorem execKernelBankSwitch_inCycle (h : execKernelBankSwitch s = .next t) : InCycle s t := by
  unfold execKernelBankSwitch at h
  refine runReady_inCycle ?_ h
  try dsimp only
  repeat' first
      | (with_reducible exact InCycle.refl) | (intro _) | (with_reducible assumption)
      | (with_reducible apply kernelSwitch_inCycle) | split

theorem execMantisBankSwitch_inCycle (h : execMantisBankSwitch s = .next t) : InCycle s t := by
  unfold execMantisBankSwitch at h
  refine runReady_inCycle ?_ h
  try dsimp only
  repeat' first
      | (with_reducible exact InCycle.refl) | (intro _) | (with_reducible assumption)
      | (with_reducible apply mantisSwitch_inCycle) | split

theorem execEpochSwitch_inCycle (h : execEpochSwitch s = .next t) : InCycle s t := by
  unfold execEpochSwitch at h
  refine runReady_inCycle ?_ h
  try dsimp only
  repeat' first
      | (with_reducible exact InCycle.refl) | (intro _) | (with_reducible assumption)
      | (with_reducible apply epochBankSwitch_inCycle) | split

theorem execConsolidationDecision_inCycle (h : execConsolidationDecision s = .next t) : InCycle s t := by
  unfold execConsolidationDecision at h
  refine run_inCycle ?_ h
  try dsimp only
  repeat' first
      | (with_reducible exact InCycle.refl) | (intro _) | (with_reducible assumption)
      | (with_reducible apply consolidationDecision_inCycle) | split

theorem execConsolidation_inCycle (h : execConsolidation s = .next t) : InCycle s t := by
  unfold execConsolidation at h
  refine runReady_inCycle ?_ h
  try dsimp only
  repeat' first
      | (with_reducible exact InCycle.refl) | (intro _) | (with_reducible assumption)
      | (with_reducible apply consolidation_inCycle) | split

theorem execConsolidationExit_inCycle (h : execConsolidationExit s = .next t) : InCycle s t := by
  unfold execConsolidationExit at h
  refine runReady_inCycle ?_ h
  try dsimp only
  repeat' first
      | (with_reducible exact InCycle.refl) | (intro _) | (with_reducible assumption)
      | (with_reducible apply consolidationExit_inCycle) | split

theorem execBothLost_inCycle (h : execBothLost s = .next t) : InCycle s t := by
  unfold execBothLost at h
  refine runReady_inCycle ?_ h
  try dsimp only
  repeat' first
      | (with_reducible exact InCycle.refl) | (intro _) | (with_reducible assumption) | (with_reducible apply bothLost_inCycle)
      | split

theorem execTrainingComplete_inCycle (h : execTrainingComplete x1 x2 s = .next t) : InCycle s t := by
  unfold execTrainingComplete at h
  refine runReady_inCycle ?_ h
  try dsimp only
  repeat' first
      | (with_reducible exact InCycle.refl) | (intro _) | (with_reducible assumption)
      | (with_reducible apply trainingComplete_inCycle) | split

theorem execTxFault_inCycle (h : execTxFault x1 x2 s = .next t) : InCycle s t := by
  unfold execTxFault at h
  refine runReady_inCycle ?_ h
  try dsimp only
  repeat' first
      | (with_reducible exact InCycle.refl) | (intro _) | (with_reducible assumption) | (with_reducible apply txFault_inCycle)
      | split

theorem execSoldierBlock_inCycle (h : execSoldierBlock x1 x2 s = .next t) : InCycle s t := by
  unfold execSoldierBlock at h
  refine runReady_inCycle ?_ h
  try dsimp only
  repeat' first
      | (with_reducible exact InCycle.refl) | (intro _) | (with_reducible assumption)
      | (with_reducible apply soldierBlock_inCycle) | split

theorem execSoldierCut_inCycle (h : execSoldierCut x1 x2 s = .next t) : InCycle s t := by
  unfold execSoldierCut at h
  refine runReady_inCycle ?_ h
  try dsimp only
  repeat' first
      | (with_reducible exact InCycle.refl) | (intro _) | (with_reducible assumption)
      | (with_reducible apply soldierCut_inCycle) | split

theorem execSoldierOscillatorFailure_inCycle (h : execSoldierOscillatorFailure x1 x2 s = .next t) : InCycle s t := by
  unfold execSoldierOscillatorFailure at h
  refine runReady_inCycle ?_ h
  try dsimp only
  repeat' first
      | (with_reducible exact InCycle.refl) | (intro _) | (with_reducible assumption)
      | (with_reducible apply oscillatorFailure_inCycle) | split

theorem execListenTimerExpiry_keeps (h : execListenTimerExpiry x1 s = .next t) : Keeps s t := by
  unfold execListenTimerExpiry at h
  refine runReady_keeps ?_ h
  try dsimp only
  repeat' first
      | (with_reducible exact Keeps.refl) | (intro _) | (with_reducible assumption) | (with_reducible apply listenExpiry_keeps)
      | split

theorem execNormalOperation_inCycle (h : execNormalOperation s = .next t) : InCycle s t := by
  unfold execNormalOperation at h
  refine run_inCycle ?_ h
  try dsimp only
  repeat' first
      | (with_reducible exact InCycle.refl) | (intro _) | (with_reducible assumption)
      | (with_reducible apply noteReady_inCycle) | (with_reducible apply noteMotion_inCycle)
      | (with_reducible apply normalOperation_inCycle) | split

theorem execConfigurationResponse_inCycle (h : execConfigurationResponse x1 s = .next t) : InCycle s t := by
  unfold execConfigurationResponse at h
  refine run_inCycle ?_ h
  try dsimp only
  repeat' first
      | (with_reducible exact InCycle.refl) | (intro _) | (with_reducible assumption)
      | (with_reducible apply configResponse_inCycle) | split

theorem execConfigurationTimeout_inCycle (h : execConfigurationTimeout s = .next t) : InCycle s t := by
  unfold execConfigurationTimeout at h
  refine run_inCycle ?_ h
  try dsimp only
  repeat' first
      | (with_reducible exact InCycle.refl) | (intro _) | (with_reducible assumption)
      | (with_reducible apply configTimeout_inCycle) | split

theorem execTick_inCycle (h : execTick s = .next t) : InCycle s t := by
  unfold execTick at h
  refine run_inCycle ?_ h
  try dsimp only
  repeat' first
      | (with_reducible exact InCycle.refl) | (intro _) | (with_reducible assumption) | (with_reducible apply tick_inCycle)
      | split

theorem execTimeListFire_inCycle (h : execTimeListFire s = .next t) : InCycle s t := by
  unfold execTimeListFire at h
  refine run_inCycle ?_ h
  try dsimp only
  repeat' first
      | (with_reducible exact InCycle.refl) | (intro _) | (with_reducible assumption)
      | (with_reducible apply timeListFire_inCycle) | split

theorem execPhaseListFire_inCycle (h : execPhaseListFire s = .next t) : InCycle s t := by
  unfold execPhaseListFire at h
  refine run_inCycle ?_ h
  try dsimp only
  repeat' first
      | (with_reducible exact InCycle.refl) | (intro _) | (with_reducible assumption)
      | (with_reducible apply phaseListFire_inCycle) | split

theorem execOperand_inCycle (h : execOperand x1 x2 x3 x4 x5 s = .next t) : InCycle s t := by
  unfold execOperand at h
  refine run_inCycle ?_ h
  try dsimp only
  repeat' first
      | (with_reducible exact InCycle.refl) | (intro _) | (with_reducible assumption)
      | (with_reducible apply operandArrives_inCycle) | split

theorem execCombRefill_inCycle (h : execCombRefill s = .next t) : InCycle s t := by
  unfold execCombRefill at h
  refine run_inCycle ?_ h
  try dsimp only
  repeat' first
      | (with_reducible exact InCycle.refl) | (intro _) | (with_reducible assumption)
      | (with_reducible apply combRefill_inCycle) | split

theorem execEntryExpiry_inCycle (h : execEntryExpiry x1 x2 x3 s = .next t) : InCycle s t := by
  unfold execEntryExpiry at h
  refine run_inCycle ?_ h
  try dsimp only
  repeat' first
      | (with_reducible exact InCycle.refl) | (intro _) | (with_reducible assumption)
      | (with_reducible apply entryExpiry_inCycle) | split

theorem execTaskDispatch_inCycle (h : execTaskDispatch x1 x2 s = .next t) : InCycle s t := by
  unfold execTaskDispatch at h
  refine run_inCycle ?_ h
  try dsimp only
  repeat' first
      | (with_reducible exact InCycle.refl) | (intro _) | (with_reducible assumption)
      | (with_reducible apply dispatchTask_inCycle) | split

theorem execTaskCompletion_inCycle (h : execTaskCompletion x1 x2 x3 s = .next t) : InCycle s t := by
  unfold execTaskCompletion at h
  refine run_inCycle ?_ h
  try dsimp only
  repeat' first
      | (with_reducible exact InCycle.refl) | (intro _) | (with_reducible assumption)
      | (with_reducible apply taskCompletion_inCycle) | split

theorem execOrderedFlowRelease_inCycle (h : execOrderedFlowRelease x1 x2 s = .next t) : InCycle s t := by
  unfold execOrderedFlowRelease at h
  refine run_inCycle ?_ h
  try dsimp only
  repeat' first
      | (with_reducible exact InCycle.refl) | (intro _) | (with_reducible assumption)
      | (with_reducible apply flowRelease_inCycle) | split

theorem execSafetyVote_inCycle (h : execSafetyVote x1 s = .next t) : InCycle s t := by
  unfold execSafetyVote at h
  refine run_inCycle ?_ h
  try dsimp only
  repeat' first
      | (with_reducible exact InCycle.refl) | (intro _) | (with_reducible assumption)
      | (with_reducible apply safetyVote_inCycle) | split

theorem execDigestWindowClose_inCycle (h : execDigestWindowClose x1 x2 s = .next t) : InCycle s t := by
  unfold execDigestWindowClose at h
  refine run_inCycle ?_ h
  try dsimp only
  repeat' first
      | (with_reducible exact InCycle.refl) | (intro _) | (with_reducible assumption)
      | (with_reducible apply windowClose_inCycle) | split

theorem execLaneVote_inCycle (h : execLaneVote s = .next t) : InCycle s t := by
  unfold execLaneVote at h
  refine run_inCycle ?_ h
  try dsimp only
  repeat' first
      | (with_reducible exact InCycle.refl) | (intro _) | (with_reducible assumption) | (with_reducible apply laneVote_inCycle)
      | split

theorem execVerdict_inCycle (h : execVerdict x1 x2 s = .next t) : InCycle s t := by
  unfold execVerdict at h
  refine runReady_inCycle ?_ h
  try dsimp only
  repeat' first
      | (with_reducible exact InCycle.refl) | (intro _) | (with_reducible assumption) | (with_reducible apply verdict_inCycle)
      | split

theorem execCustodianReturn_inCycle (h : execCustodianReturn x1 s = .next t) : InCycle s t := by
  unfold execCustodianReturn at h
  refine runReady_inCycle ?_ h
  try dsimp only
  repeat' first
      | (with_reducible exact InCycle.refl) | (intro _) | (with_reducible assumption)
      | (with_reducible apply custodianReturn_inCycle) | split

theorem execHubViewWrite_inCycle (h : execHubViewWrite x1 x2 x3 x4 s = .next t) : InCycle s t := by
  unfold execHubViewWrite at h
  refine run_inCycle ?_ h
  try dsimp only
  repeat' first
      | (with_reducible exact InCycle.refl) | (intro _) | (with_reducible assumption)
      | (with_reducible apply hostWrite_inCycle) | split

theorem execCellViewWrite_inCycle (h : execCellViewWrite x1 x2 x3 x4 s = .next t) : InCycle s t := by
  unfold execCellViewWrite at h
  refine run_inCycle ?_ h
  try dsimp only
  repeat' first
      | (with_reducible exact InCycle.refl) | (intro _) | (with_reducible assumption)
      | (with_reducible apply hostWrite_inCycle) | split

theorem execStalledWrite_inCycle (h : execStalledWrite s = .next t) : InCycle s t := by
  unfold execStalledWrite at h
  refine run_inCycle ?_ h
  try dsimp only
  repeat' first
      | (with_reducible exact InCycle.refl) | (intro _) | (with_reducible assumption) | (with_reducible apply unstall_inCycle)
      | split

theorem execPrivateWindowWrite_inCycle (h : execPrivateWindowWrite x1 x2 x3 x4 s = .next t) : InCycle s t := by
  unfold execPrivateWindowWrite at h
  refine run_inCycle ?_ h
  try dsimp only
  repeat' first
      | (with_reducible exact InCycle.refl) | (intro _) | (with_reducible assumption)
      | (with_reducible apply hostWrite_inCycle) | split

theorem execWriteToReadOnly_inCycle (h : execWriteToReadOnly x1 x2 x3 s = .next t) : InCycle s t := by
  unfold execWriteToReadOnly at h
  refine run_inCycle ?_ h
  try dsimp only
  repeat' first
      | (with_reducible exact InCycle.refl) | (intro _) | (with_reducible assumption)
      | (with_reducible apply hostWrite_inCycle) | split

theorem execHubViewRead_inCycle (h : execHubViewRead x1 x2 x3 x4 s = .next t) : InCycle s t := by
  unfold execHubViewRead at h
  refine run_inCycle ?_ h
  try dsimp only
  repeat' first
      | (with_reducible exact InCycle.refl) | (intro _) | (with_reducible assumption) | (with_reducible apply hostRead_inCycle)
      | split

theorem execCellViewRead_inCycle (h : execCellViewRead x1 x2 x3 x4 s = .next t) : InCycle s t := by
  unfold execCellViewRead at h
  refine run_inCycle ?_ h
  try dsimp only
  repeat' first
      | (with_reducible exact InCycle.refl) | (intro _) | (with_reducible assumption) | (with_reducible apply hostRead_inCycle)
      | split

theorem execBar2Write_inCycle (h : execBar2Write x1 x2 x3 s = .next t) : InCycle s t := by
  unfold execBar2Write at h
  split at h
  · exact run_inCycle (bar2Write_inCycle InCycle.refl) h
  · cases h

theorem execBar2Read_inCycle (h : execBar2Read x1 x2 x3 x4 s = .next t) : InCycle s t := by
  unfold execBar2Read at h
  split at h
  · exact run_inCycle (bar2Read_inCycle InCycle.refl) h
  · cases h

theorem execSrst_inCycle (h : execSrst x1 s = .next t) : InCycle s t := by
  unfold execSrst at h
  refine run_inCycle ?_ h
  try dsimp only
  repeat' first
      | (with_reducible exact InCycle.refl) | (intro _) | (with_reducible assumption)
      | (with_reducible apply pageWrite_inCycle) | split

theorem execCtrlEn_inCycle (h : execCtrlEn x1 x2 s = .next t) : InCycle s t := by
  unfold execCtrlEn at h
  refine run_inCycle ?_ h
  try dsimp only
  repeat' first
      | (with_reducible exact InCycle.refl) | (intro _) | (with_reducible assumption)
      | (with_reducible apply pageWrite_inCycle) | split

theorem execModeSel_inCycle (h : execModeSel x1 x2 s = .next t) : InCycle s t := by
  unfold execModeSel at h
  refine run_inCycle ?_ h
  try dsimp only
  repeat' first
      | (with_reducible exact InCycle.refl) | (intro _) | (with_reducible assumption)
      | (with_reducible apply pageWrite_inCycle) | split

theorem execIrqStatClear_inCycle (h : execIrqStatClear x1 x2 x3 s = .next t) : InCycle s t := by
  unfold execIrqStatClear at h
  refine run_inCycle ?_ h
  try dsimp only
  repeat' first
      | (with_reducible exact InCycle.refl) | (intro _) | (with_reducible assumption) | (with_reducible apply onPage_inCycle)
      | (with_reducible apply flushLog_inCycle) | (with_reducible apply writeIrqStat_inCycle) | split

theorem execIrqSet_inCycle (h : execIrqSet x1 x2 s = .next t) : InCycle s t := by
  unfold execIrqSet at h
  refine run_inCycle ?_ h
  try dsimp only
  repeat' first
      | (with_reducible exact InCycle.refl) | (intro _) | (with_reducible assumption)
      | (with_reducible apply pageWrite_inCycle) | split

theorem execUnlock_inCycle (h : execUnlock x1 x2 s = .next t) : InCycle s t := by
  unfold execUnlock at h
  refine run_inCycle ?_ h
  try dsimp only
  repeat' first
      | (with_reducible exact InCycle.refl) | (intro _) | (with_reducible assumption)
      | (with_reducible apply pageWrite_inCycle) | split

theorem execPerst_inCycle (h : execPerst x1 s = .next t) : InCycle s t := by
  unfold execPerst at h
  refine run_inCycle ?_ h
  try dsimp only
  repeat' first
      | (with_reducible exact InCycle.refl) | (intro _) | (with_reducible assumption) | (with_reducible apply perst_inCycle)
      | split

theorem execNowLoRead_inCycle (h : execNowLoRead x1 x2 s = .next t) : InCycle s t := by
  unfold execNowLoRead at h
  refine run_inCycle ?_ h
  try dsimp only
  repeat' first
      | (with_reducible exact InCycle.refl) | (intro _) | (with_reducible assumption) | (with_reducible apply hostRead_inCycle)
      | (with_reducible apply advance_inCycle) | split

theorem execLineLoRead_inCycle (h : execLineLoRead x1 s = .next t) : InCycle s t := by
  unfold execLineLoRead at h
  refine run_inCycle ?_ h
  try dsimp only
  repeat' first
      | (with_reducible exact InCycle.refl) | (intro _) | (with_reducible assumption) | (with_reducible apply hostRead_inCycle)
      | split

theorem execPtpMessage_inCycle (h : execPtpMessage x1 x2 x3 s = .next t) : InCycle s t := by
  unfold execPtpMessage at h
  refine run_inCycle ?_ h
  try dsimp only
  repeat' first
      | (with_reducible exact InCycle.refl) | (intro _) | (with_reducible assumption)
      | (with_reducible apply ptpMessage_inCycle) | (with_reducible apply advance_inCycle) | split

theorem execPtpTransmit_inCycle (h : execPtpTransmit x1 x2 x3 s = .next t) : InCycle s t := by
  unfold execPtpTransmit at h
  refine run_inCycle ?_ h
  try dsimp only
  repeat' first
      | (with_reducible exact InCycle.refl) | (intro _) | (with_reducible assumption)
      | (with_reducible apply ptpTransmit_inCycle) | (with_reducible apply advance_inCycle) | split

theorem execAnnounceReceiptTimeout_inCycle (h : execAnnounceReceiptTimeout x1 s = .next t) : InCycle s t := by
  unfold execAnnounceReceiptTimeout at h
  refine run_inCycle ?_ h
  try dsimp only
  repeat' first
      | (with_reducible exact InCycle.refl) | (intro _) | (with_reducible assumption)
      | (with_reducible apply announceTimeout_inCycle) | split

theorem execOffsetSample_inCycle (h : execOffsetSample x1 x2 x3 s = .next t) : InCycle s t := by
  unfold execOffsetSample at h
  refine run_inCycle ?_ h
  try dsimp only
  repeat' first
      | (with_reducible exact InCycle.refl) | (intro _) | (with_reducible assumption)
      | (with_reducible apply offsetSample_inCycle) | split

theorem execStepAck_inCycle (h : execStepAck x1 s = .next t) : InCycle s t := by
  unfold execStepAck at h
  refine run_inCycle ?_ h
  try dsimp only
  repeat' first
      | (with_reducible exact InCycle.refl) | (intro _) | (with_reducible assumption)
      | (with_reducible apply writeStepAck_inCycle) | split

theorem execHaOfs_inCycle (h : execHaOfs x1 s = .next t) : InCycle s t := by
  unfold execHaOfs at h
  refine run_inCycle ?_ h
  try dsimp only
  repeat' first
      | (with_reducible exact InCycle.refl) | (intro _) | (with_reducible assumption)
      | (with_reducible apply writeHaOfs_inCycle) | split

theorem execHaRate_inCycle (h : execHaRate x1 s = .next t) : InCycle s t := by
  unfold execHaRate at h
  refine run_inCycle ?_ h
  try dsimp only
  repeat' first
      | (with_reducible exact InCycle.refl) | (intro _) | (with_reducible assumption)
      | (with_reducible apply writeHaRate_inCycle) | split

theorem execTbHaWindowExpiry_inCycle (h : execTbHaWindowExpiry s = .next t) : InCycle s t := by
  unfold execTbHaWindowExpiry at h
  refine run_inCycle ?_ h
  try dsimp only
  repeat' first
      | (with_reducible exact InCycle.refl) | (intro _) | (with_reducible assumption)
      | (with_reducible apply haWindowExpiry_inCycle) | split

theorem execLineCfg_inCycle (h : execLineCfg x1 s = .next t) : InCycle s t := by
  unfold execLineCfg at h
  refine run_inCycle ?_ h
  try dsimp only
  repeat' first
      | (with_reducible exact InCycle.refl) | (intro _) | (with_reducible assumption)
      | (with_reducible apply lineCfgWritten_inCycle) | split

theorem execLineLoad_inCycle (h : execLineLoad s = .next t) : InCycle s t := by
  unfold execLineLoad at h
  refine run_inCycle ?_ h
  try dsimp only
  repeat' first
      | (with_reducible exact InCycle.refl) | (intro _) | (with_reducible assumption)
      | (with_reducible apply lineCfgWritten_inCycle) | split

theorem execLinkChange_inCycle (h : execLinkChange x1 x2 x3 s = .next t) : InCycle s t := by
  unfold execLinkChange at h
  refine run_inCycle ?_ h
  try dsimp only
  repeat' first
      | (with_reducible exact InCycle.refl) | (intro _) | (with_reducible assumption)
      | (with_reducible apply noteReady_inCycle) | (with_reducible apply linkChange_inCycle) | split

theorem execReneg_inCycle (h : execReneg x1 s = .next t) : InCycle s t := by
  unfold execReneg at h
  refine run_inCycle ?_ h
  try dsimp only
  repeat' first
      | (with_reducible exact InCycle.refl) | (intro _) | (with_reducible assumption)
      | (with_reducible apply noteReady_inCycle) | (with_reducible apply linkChange_inCycle) | split

theorem execManagementConnection_inCycle (h : execManagementConnection x1 x2 s = .next t) : InCycle s t := by
  unfold execManagementConnection at h
  refine run_inCycle ?_ h
  try dsimp only
  repeat' first
      | (with_reducible exact InCycle.refl) | (intro _) | (with_reducible assumption)
      | (with_reducible apply managementConnection_inCycle) | split

theorem execRetrain_inCycle (h : execRetrain x1 x2 x3 s = .next t) : InCycle s t := by
  unfold execRetrain at h
  refine run_inCycle ?_ h
  try dsimp only
  repeat' first
      | (with_reducible exact InCycle.refl) | (intro _) | (with_reducible assumption) | (with_reducible apply retrain_inCycle)
      | split

theorem execRetrainClear_inCycle (h : execRetrainClear x1 x2 x3 s = .next t) : InCycle s t := by
  unfold execRetrainClear at h
  refine runReady_inCycle ?_ h
  try dsimp only
  repeat' first
      | (with_reducible exact InCycle.refl) | (intro _) | (with_reducible assumption) | (with_reducible apply retrain_inCycle)
      | split

theorem execWlsGo_inCycle (h : execWlsGo s = .next t) : InCycle s t := by
  unfold execWlsGo at h
  refine run_inCycle ?_ h
  try dsimp only
  repeat' first
      | (with_reducible exact InCycle.refl) | (intro _) | (with_reducible assumption) | (with_reducible apply wlsGo_inCycle)
      | split

theorem execConsEnter_inCycle (h : execConsEnter x1 s = .next t) : InCycle s t := by
  unfold execConsEnter at h
  refine run_inCycle ?_ h
  try dsimp only
  repeat' first
      | (with_reducible exact InCycle.refl) | (intro _) | (with_reducible assumption)
      | (with_reducible apply consEnter_inCycle) | split

theorem execConsExit_inCycle (h : execConsExit s = .next t) : InCycle s t := by
  unfold execConsExit at h
  refine run_inCycle ?_ h
  try dsimp only
  repeat' first
      | (with_reducible exact InCycle.refl) | (intro _) | (with_reducible assumption) | (with_reducible apply consExit_inCycle)
      | split

theorem execHbCfg_inCycle (h : execHbCfg x1 s = .next t) : InCycle s t := by
  unfold execHbCfg at h
  refine run_inCycle ?_ h
  try dsimp only
  repeat' first
      | (with_reducible exact InCycle.refl) | (intro _) | (with_reducible assumption)
      | (with_reducible apply writeHbCfg_inCycle) | split

theorem execHbDataWrite_inCycle (h : execHbDataWrite x1 s = .next t) : InCycle s t := by
  unfold execHbDataWrite at h
  refine run_inCycle ?_ h
  try dsimp only
  repeat' first
      | (with_reducible exact InCycle.refl) | (intro _) | (with_reducible assumption)
      | (with_reducible apply writeHbData_inCycle) | split

theorem execHbDataRead_inCycle (h : execHbDataRead x1 s = .next t) : InCycle s t := by
  unfold execHbDataRead at h
  refine run_inCycle ?_ h
  try dsimp only
  repeat' first
      | (with_reducible exact InCycle.refl) | (intro _) | (with_reducible assumption) | (with_reducible apply atPort_inCycle)
      | (with_reducible apply advanceHb_inCycle) | (with_reducible apply returnRead_inCycle) | split

theorem execRxDataRead_inCycle (h : execRxDataRead x1 s = .next t) : InCycle s t := by
  unfold execRxDataRead at h
  refine run_inCycle ?_ h
  try dsimp only
  repeat' first
      | (with_reducible exact InCycle.refl) | (intro _) | (with_reducible assumption) | (with_reducible apply atPort_inCycle)
      | (with_reducible apply advanceRx_inCycle) | (with_reducible apply returnRead_inCycle) | split

theorem execRxPop_inCycle (h : execRxPop s = .next t) : InCycle s t := by
  unfold execRxPop at h
  refine run_inCycle ?_ h
  try dsimp only
  repeat' first
      | (with_reducible exact InCycle.refl) | (intro _) | (with_reducible assumption) | (with_reducible apply popRx_inCycle)
      | split

theorem execMoveJ_inCycle (h : execMoveJ x1 x2 s = .next t) : InCycle s t := by
  unfold execMoveJ at h
  refine run_inCycle ?_ h
  try dsimp only
  repeat' first
      | (with_reducible exact InCycle.refl) | (intro _) | (with_reducible assumption)
      | (with_reducible apply recordCommand_inCycle) | split

theorem execMoveL_inCycle (h : execMoveL x1 x2 s = .next t) : InCycle s t := by
  unfold execMoveL at h
  refine run_inCycle ?_ h
  try dsimp only
  repeat' first
      | (with_reducible exact InCycle.refl) | (intro _) | (with_reducible assumption)
      | (with_reducible apply recordCommand_inCycle) | split

theorem execMoveC_inCycle (h : execMoveC x1 x2 s = .next t) : InCycle s t := by
  unfold execMoveC at h
  refine run_inCycle ?_ h
  try dsimp only
  repeat' first
      | (with_reducible exact InCycle.refl) | (intro _) | (with_reducible assumption)
      | (with_reducible apply recordCommand_inCycle) | split

theorem execVia_inCycle (h : execVia x1 x2 s = .next t) : InCycle s t := by
  unfold execVia at h
  refine run_inCycle ?_ h
  try dsimp only
  repeat' first
      | (with_reducible exact InCycle.refl) | (intro _) | (with_reducible assumption)
      | (with_reducible apply recordCommand_inCycle) | split

theorem execWaitTime_inCycle (h : execWaitTime x1 x2 s = .next t) : InCycle s t := by
  unfold execWaitTime at h
  refine run_inCycle ?_ h
  try dsimp only
  repeat' first
      | (with_reducible exact InCycle.refl) | (intro _) | (with_reducible assumption)
      | (with_reducible apply recordCommand_inCycle) | split

theorem execWaitPhase_inCycle (h : execWaitPhase x1 x2 s = .next t) : InCycle s t := by
  unfold execWaitPhase at h
  refine run_inCycle ?_ h
  try dsimp only
  repeat' first
      | (with_reducible exact InCycle.refl) | (intro _) | (with_reducible assumption)
      | (with_reducible apply recordCommand_inCycle) | split

theorem execWaitInput_inCycle (h : execWaitInput x1 x2 s = .next t) : InCycle s t := by
  unfold execWaitInput at h
  refine run_inCycle ?_ h
  try dsimp only
  repeat' first
      | (with_reducible exact InCycle.refl) | (intro _) | (with_reducible assumption)
      | (with_reducible apply recordCommand_inCycle) | split

theorem execSetOutput_inCycle (h : execSetOutput x1 x2 s = .next t) : InCycle s t := by
  unfold execSetOutput at h
  refine run_inCycle ?_ h
  try dsimp only
  repeat' first
      | (with_reducible exact InCycle.refl) | (intro _) | (with_reducible assumption)
      | (with_reducible apply recordCommand_inCycle) | split

theorem execTrackLine_inCycle (h : execTrackLine x1 x2 s = .next t) : InCycle s t := by
  unfold execTrackLine at h
  refine run_inCycle ?_ h
  try dsimp only
  repeat' first
      | (with_reducible exact InCycle.refl) | (intro _) | (with_reducible assumption)
      | (with_reducible apply recordCommand_inCycle) | split

theorem execReleaseLine_inCycle (h : execReleaseLine x1 x2 s = .next t) : InCycle s t := by
  unfold execReleaseLine at h
  refine run_inCycle ?_ h
  try dsimp only
  repeat' first
      | (with_reducible exact InCycle.refl) | (intro _) | (with_reducible assumption)
      | (with_reducible apply recordCommand_inCycle) | split

theorem execSpeed_inCycle (h : execSpeed x1 x2 s = .next t) : InCycle s t := by
  unfold execSpeed at h
  refine run_inCycle ?_ h
  try dsimp only
  repeat' first
      | (with_reducible exact InCycle.refl) | (intro _) | (with_reducible assumption)
      | (with_reducible apply recordCommand_inCycle) | split

theorem execTool_inCycle (h : execTool x1 x2 s = .next t) : InCycle s t := by
  unfold execTool at h
  refine run_inCycle ?_ h
  try dsimp only
  repeat' first
      | (with_reducible exact InCycle.refl) | (intro _) | (with_reducible assumption)
      | (with_reducible apply recordCommand_inCycle) | split

theorem execRendezvous_inCycle (h : execRendezvous x1 x2 s = .next t) : InCycle s t := by
  unfold execRendezvous at h
  refine run_inCycle ?_ h
  try dsimp only
  repeat' first
      | (with_reducible exact InCycle.refl) | (intro _) | (with_reducible assumption)
      | (with_reducible apply recordCommand_inCycle) | split

theorem execSegment_inCycle (h : execSegment x1 x2 s = .next t) : InCycle s t := by
  unfold execSegment at h
  refine run_inCycle ?_ h
  try dsimp only
  repeat' first
      | (with_reducible exact InCycle.refl) | (intro _) | (with_reducible assumption)
      | (with_reducible apply recordCommand_inCycle) | split

theorem execEndRec_inCycle (h : execEndRec x1 x2 s = .next t) : InCycle s t := by
  unfold execEndRec at h
  refine run_inCycle ?_ h
  try dsimp only
  repeat' first
      | (with_reducible exact InCycle.refl) | (intro _) | (with_reducible assumption)
      | (with_reducible apply recordCommand_inCycle) | split

theorem execRecordCompletion_inCycle (h : execRecordCompletion x1 s = .next t) : InCycle s t := by
  unfold execRecordCompletion at h
  refine run_inCycle ?_ h
  try dsimp only
  repeat' first
      | (with_reducible exact InCycle.refl) | (intro _) | (with_reducible assumption)
      | (with_reducible apply recordCompletion_inCycle) | split

theorem execWaitTimeEnd_inCycle (h : execWaitTimeEnd x1 s = .next t) : InCycle s t := by
  unfold execWaitTimeEnd at h
  refine run_inCycle ?_ h
  try dsimp only
  repeat' first
      | (with_reducible exact InCycle.refl) | (intro _) | (with_reducible assumption)
      | (with_reducible apply waitTimeEnd_inCycle) | split

theorem execWaitPhaseEnd_inCycle (h : execWaitPhaseEnd x1 s = .next t) : InCycle s t := by
  unfold execWaitPhaseEnd at h
  refine run_inCycle ?_ h
  try dsimp only
  repeat' first
      | (with_reducible exact InCycle.refl) | (intro _) | (with_reducible assumption)
      | (with_reducible apply waitPhaseEnd_inCycle) | split

theorem execWaitInputEnd_inCycle (h : execWaitInputEnd x1 s = .next t) : InCycle s t := by
  unfold execWaitInputEnd at h
  refine run_inCycle ?_ h
  try dsimp only
  repeat' first
      | (with_reducible exact InCycle.refl) | (intro _) | (with_reducible assumption)
      | (with_reducible apply waitInputEnd_inCycle) | split

theorem execWaitTimeout_inCycle (h : execWaitTimeout x1 s = .next t) : InCycle s t := by
  unfold execWaitTimeout at h
  refine run_inCycle ?_ h
  try dsimp only
  repeat' first
      | (with_reducible exact InCycle.refl) | (intro _) | (with_reducible assumption)
      | (with_reducible apply waitTimeout_inCycle) | split

theorem execRendezvousCompletion_inCycle (h : execRendezvousCompletion x1 s = .next t) : InCycle s t := by
  unfold execRendezvousCompletion at h
  refine run_inCycle ?_ h
  try dsimp only
  repeat' first
      | (with_reducible exact InCycle.refl) | (intro _) | (with_reducible assumption)
      | (with_reducible apply rdvCompletion_inCycle) | split

theorem execWrIdx_inCycle (h : execWrIdx x1 x2 s = .next t) : InCycle s t := by
  unfold execWrIdx at h
  refine run_inCycle ?_ h
  try dsimp only
  repeat' first
      | (with_reducible exact InCycle.refl) | (intro _) | (with_reducible assumption)
      | (with_reducible apply writeWrIdx_inCycle) | split

theorem execRptRd_inCycle (h : execRptRd x1 x2 s = .next t) : InCycle s t := by
  unfold execRptRd at h
  refine run_inCycle ?_ h
  try dsimp only
  repeat' first
      | (with_reducible exact InCycle.refl) | (intro _) | (with_reducible assumption)
      | (with_reducible apply writeRptRd_inCycle) | split

theorem execFlush_inCycle (h : execFlush x1 s = .next t) : InCycle s t := by
  unfold execFlush at h
  refine run_inCycle ?_ h
  try dsimp only
  repeat' first
      | (with_reducible exact InCycle.refl) | (intro _) | (with_reducible assumption) | (with_reducible apply staged_inCycle)
      | (with_reducible apply writeArmCmd_inCycle) | split

theorem execResume_inCycle (h : execResume x1 s = .next t) : InCycle s t := by
  unfold execResume at h
  refine run_inCycle ?_ h
  try dsimp only
  repeat' first
      | (with_reducible exact InCycle.refl) | (intro _) | (with_reducible assumption) | (with_reducible apply staged_inCycle)
      | (with_reducible apply writeArmCmd_inCycle) | split

theorem execAbort_inCycle (h : execAbort x1 s = .next t) : InCycle s t := by
  unfold execAbort at h
  refine run_inCycle ?_ h
  try dsimp only
  repeat' first
      | (with_reducible exact InCycle.refl) | (intro _) | (with_reducible assumption) | (with_reducible apply staged_inCycle)
      | (with_reducible apply writeArmCmd_inCycle) | split

theorem execArmSrst_inCycle (h : execArmSrst x1 s = .next t) : InCycle s t := by
  unfold execArmSrst at h
  refine run_inCycle ?_ h
  try dsimp only
  repeat' first
      | (with_reducible exact InCycle.refl) | (intro _) | (with_reducible assumption) | (with_reducible apply staged_inCycle)
      | (with_reducible apply armReset_inCycle) | split

theorem execArmSrstCompletion_inCycle (h : execArmSrstCompletion x1 s = .next t) : InCycle s t := by
  unfold execArmSrstCompletion at h
  refine run_inCycle ?_ h
  try dsimp only
  repeat' first
      | (with_reducible exact InCycle.refl) | (intro _) | (with_reducible assumption)
      | (with_reducible apply armResetDone_inCycle) | split

theorem execPreset_inCycle (h : execPreset x1 s = .next t) : InCycle s t := by
  unfold execPreset at h
  refine run_inCycle ?_ h
  try dsimp only
  repeat' first
      | (with_reducible exact InCycle.refl) | (intro _) | (with_reducible assumption) | (with_reducible apply staged_inCycle)
      | (with_reducible apply restartIdent_inCycle) | split

theorem execKinHaWindowExpiry_inCycle (h : execKinHaWindowExpiry x1 s = .next t) : InCycle s t := by
  unfold execKinHaWindowExpiry at h
  refine run_inCycle ?_ h
  try dsimp only
  repeat' first
      | (with_reducible exact InCycle.refl) | (intro _) | (with_reducible assumption)
      | (with_reducible apply kinHaExpiry_inCycle) | split

theorem execPlfGo_inCycle (h : execPlfGo s = .next t) : InCycle s t := by
  unfold execPlfGo at h
  refine run_inCycle ?_ h
  try dsimp only
  repeat' first
      | (with_reducible exact InCycle.refl) | (intro _) | (with_reducible assumption) | (with_reducible apply staged_inCycle)
      | (with_reducible apply requestPatternSwitch_inCycle) | split

theorem execTolHi_inCycle (h : execTolHi x1 s = .next t) : InCycle s t := by
  unfold execTolHi at h
  refine run_inCycle ?_ h
  try dsimp only
  repeat' first
      | (with_reducible exact InCycle.refl) | (intro _) | (with_reducible assumption)
      | (with_reducible apply writeTolHi_inCycle) | split

theorem execFloorHi_inCycle (h : execFloorHi x1 s = .next t) : InCycle s t := by
  unfold execFloorHi at h
  refine run_inCycle ?_ h
  try dsimp only
  repeat' first
      | (with_reducible exact InCycle.refl) | (intro _) | (with_reducible assumption)
      | (with_reducible apply writeFloorHi_inCycle) | split

theorem execPdata_inCycle (h : execPdata x1 s = .next t) : InCycle s t := by
  unfold execPdata at h
  refine run_inCycle ?_ h
  try dsimp only
  repeat' first
      | (with_reducible exact InCycle.refl) | (intro _) | (with_reducible assumption)
      | (with_reducible apply writePdata_inCycle) | split

theorem execPcommit_inCycle (h : execPcommit x1 s = .next t) : InCycle s t := by
  unfold execPcommit at h
  refine run_inCycle ?_ h
  try dsimp only
  repeat' first
      | (with_reducible exact InCycle.refl) | (intro _) | (with_reducible assumption) | (with_reducible apply staged_inCycle)
      | (with_reducible apply writePcommit_inCycle) | split

theorem execSdpGo_inCycle (h : execSdpGo s = .next t) : InCycle s t := by
  unfold execSdpGo at h
  refine run_inCycle ?_ h
  try dsimp only
  repeat' first
      | (with_reducible exact InCycle.refl) | (intro _) | (with_reducible assumption) | (with_reducible apply staged_inCycle)
      | (with_reducible apply requestKernelSwitch_inCycle) | split

theorem execHaSeq_inCycle (h : execHaSeq x1 s = .next t) : InCycle s t := by
  unfold execHaSeq at h
  refine run_inCycle ?_ h
  try dsimp only
  repeat' first
      | (with_reducible exact InCycle.refl) | (intro _) | (with_reducible assumption) | (with_reducible apply staged_inCycle)
      | (with_reducible apply writeHaSeq_inCycle) | split

theorem execNop_inCycle (h : execNop x1 s = .next t) : InCycle s t := by
  unfold execNop at h
  refine run_inCycle ?_ h
  try dsimp only
  repeat' first
      | (with_reducible exact InCycle.refl) | (intro _) | (with_reducible assumption) | (with_reducible apply issue_inCycle)
      | split

theorem execEndKernel_inCycle (h : execEndKernel x1 s = .next t) : InCycle s t := by
  unfold execEndKernel at h
  refine run_inCycle ?_ h
  try dsimp only
  repeat' first
      | (with_reducible exact InCycle.refl) | (intro _) | (with_reducible assumption) | (with_reducible apply issue_inCycle)
      | split

theorem execLoop_inCycle (h : execLoop x1 x2 s = .next t) : InCycle s t := by
  unfold execLoop at h
  refine run_inCycle ?_ h
  try dsimp only
  repeat' first
      | (with_reducible exact InCycle.refl) | (intro _) | (with_reducible assumption) | (with_reducible apply issue_inCycle)
      | split

theorem execBr_inCycle (h : execBr x1 x2 s = .next t) : InCycle s t := by
  unfold execBr at h
  refine run_inCycle ?_ h
  try dsimp only
  repeat' first
      | (with_reducible exact InCycle.refl) | (intro _) | (with_reducible assumption) | (with_reducible apply issue_inCycle)
      | split

theorem execBrt_inCycle (h : execBrt x1 x2 s = .next t) : InCycle s t := by
  unfold execBrt at h
  refine run_inCycle ?_ h
  try dsimp only
  repeat' first
      | (with_reducible exact InCycle.refl) | (intro _) | (with_reducible assumption) | (with_reducible apply issue_inCycle)
      | split

theorem execBrf_inCycle (h : execBrf x1 x2 s = .next t) : InCycle s t := by
  unfold execBrf at h
  refine run_inCycle ?_ h
  try dsimp only
  repeat' first
      | (with_reducible exact InCycle.refl) | (intro _) | (with_reducible assumption) | (with_reducible apply issue_inCycle)
      | split

theorem execSetrot_inCycle (h : execSetrot x1 x2 s = .next t) : InCycle s t := by
  unfold execSetrot at h
  refine run_inCycle ?_ h
  try dsimp only
  repeat' first
      | (with_reducible exact InCycle.refl) | (intro _) | (with_reducible assumption) | (with_reducible apply issue_inCycle)
      | split

theorem execRot_inCycle (h : execRot x1 s = .next t) : InCycle s t := by
  unfold execRot at h
  refine run_inCycle ?_ h
  try dsimp only
  repeat' first
      | (with_reducible exact InCycle.refl) | (intro _) | (with_reducible assumption) | (with_reducible apply issue_inCycle)
      | split

theorem execMacSS_inCycle (h : execMacSS x1 x2 s = .next t) : InCycle s t := by
  unfold execMacSS at h
  refine run_inCycle ?_ h
  try dsimp only
  repeat' first
      | (with_reducible exact InCycle.refl) | (intro _) | (with_reducible assumption) | (with_reducible apply issue_inCycle)
      | split

theorem execMacSU_inCycle (h : execMacSU x1 x2 s = .next t) : InCycle s t := by
  unfold execMacSU at h
  refine run_inCycle ?_ h
  try dsimp only
  repeat' first
      | (with_reducible exact InCycle.refl) | (intro _) | (with_reducible assumption) | (with_reducible apply issue_inCycle)
      | split

theorem execMacUU_inCycle (h : execMacUU x1 x2 s = .next t) : InCycle s t := by
  unfold execMacUU at h
  refine run_inCycle ?_ h
  try dsimp only
  repeat' first
      | (with_reducible exact InCycle.refl) | (intro _) | (with_reducible assumption) | (with_reducible apply issue_inCycle)
      | split

theorem execMsuSS_inCycle (h : execMsuSS x1 x2 s = .next t) : InCycle s t := by
  unfold execMsuSS at h
  refine run_inCycle ?_ h
  try dsimp only
  repeat' first
      | (with_reducible exact InCycle.refl) | (intro _) | (with_reducible assumption) | (with_reducible apply issue_inCycle)
      | split

theorem execMpySS_inCycle (h : execMpySS x1 x2 s = .next t) : InCycle s t := by
  unfold execMpySS at h
  refine run_inCycle ?_ h
  try dsimp only
  repeat' first
      | (with_reducible exact InCycle.refl) | (intro _) | (with_reducible assumption) | (with_reducible apply issue_inCycle)
      | split

theorem execMpySU_inCycle (h : execMpySU x1 x2 s = .next t) : InCycle s t := by
  unfold execMpySU at h
  refine run_inCycle ?_ h
  try dsimp only
  repeat' first
      | (with_reducible exact InCycle.refl) | (intro _) | (with_reducible assumption) | (with_reducible apply issue_inCycle)
      | split

theorem execMpyUU_inCycle (h : execMpyUU x1 x2 s = .next t) : InCycle s t := by
  unfold execMpyUU at h
  refine run_inCycle ?_ h
  try dsimp only
  repeat' first
      | (with_reducible exact InCycle.refl) | (intro _) | (with_reducible assumption) | (with_reducible apply issue_inCycle)
      | split

theorem execMov_inCycle (h : execMov x1 x2 s = .next t) : InCycle s t := by
  unfold execMov at h
  refine run_inCycle ?_ h
  try dsimp only
  repeat' first
      | (with_reducible exact InCycle.refl) | (intro _) | (with_reducible assumption) | (with_reducible apply issue_inCycle)
      | split

theorem execAdd_inCycle (h : execAdd x1 x2 s = .next t) : InCycle s t := by
  unfold execAdd at h
  refine run_inCycle ?_ h
  try dsimp only
  repeat' first
      | (with_reducible exact InCycle.refl) | (intro _) | (with_reducible assumption) | (with_reducible apply issue_inCycle)
      | split

theorem execSub_inCycle (h : execSub x1 x2 s = .next t) : InCycle s t := by
  unfold execSub at h
  refine run_inCycle ?_ h
  try dsimp only
  repeat' first
      | (with_reducible exact InCycle.refl) | (intro _) | (with_reducible assumption) | (with_reducible apply issue_inCycle)
      | split

theorem execAdds_inCycle (h : execAdds x1 x2 s = .next t) : InCycle s t := by
  unfold execAdds at h
  refine run_inCycle ?_ h
  try dsimp only
  repeat' first
      | (with_reducible exact InCycle.refl) | (intro _) | (with_reducible assumption) | (with_reducible apply issue_inCycle)
      | split

theorem execSubs_inCycle (h : execSubs x1 x2 s = .next t) : InCycle s t := by
  unfold execSubs at h
  refine run_inCycle ?_ h
  try dsimp only
  repeat' first
      | (with_reducible exact InCycle.refl) | (intro _) | (with_reducible assumption) | (with_reducible apply issue_inCycle)
      | split

theorem execAnd_inCycle (h : execAnd x1 x2 s = .next t) : InCycle s t := by
  unfold execAnd at h
  refine run_inCycle ?_ h
  try dsimp only
  repeat' first
      | (with_reducible exact InCycle.refl) | (intro _) | (with_reducible assumption) | (with_reducible apply issue_inCycle)
      | split

theorem execOr_inCycle (h : execOr x1 x2 s = .next t) : InCycle s t := by
  unfold execOr at h
  refine run_inCycle ?_ h
  try dsimp only
  repeat' first
      | (with_reducible exact InCycle.refl) | (intro _) | (with_reducible assumption) | (with_reducible apply issue_inCycle)
      | split

theorem execXor_inCycle (h : execXor x1 x2 s = .next t) : InCycle s t := by
  unfold execXor at h
  refine run_inCycle ?_ h
  try dsimp only
  repeat' first
      | (with_reducible exact InCycle.refl) | (intro _) | (with_reducible assumption) | (with_reducible apply issue_inCycle)
      | split

theorem execShl_inCycle (h : execShl x1 x2 s = .next t) : InCycle s t := by
  unfold execShl at h
  refine run_inCycle ?_ h
  try dsimp only
  repeat' first
      | (with_reducible exact InCycle.refl) | (intro _) | (with_reducible assumption) | (with_reducible apply issue_inCycle)
      | split

theorem execShra_inCycle (h : execShra x1 x2 s = .next t) : InCycle s t := by
  unfold execShra at h
  refine run_inCycle ?_ h
  try dsimp only
  repeat' first
      | (with_reducible exact InCycle.refl) | (intro _) | (with_reducible assumption) | (with_reducible apply issue_inCycle)
      | split

theorem execShrl_inCycle (h : execShrl x1 x2 s = .next t) : InCycle s t := by
  unfold execShrl at h
  refine run_inCycle ?_ h
  try dsimp only
  repeat' first
      | (with_reducible exact InCycle.refl) | (intro _) | (with_reducible assumption) | (with_reducible apply issue_inCycle)
      | split

theorem execMin_inCycle (h : execMin x1 x2 s = .next t) : InCycle s t := by
  unfold execMin at h
  refine run_inCycle ?_ h
  try dsimp only
  repeat' first
      | (with_reducible exact InCycle.refl) | (intro _) | (with_reducible assumption) | (with_reducible apply issue_inCycle)
      | split

theorem execMax_inCycle (h : execMax x1 x2 s = .next t) : InCycle s t := by
  unfold execMax at h
  refine run_inCycle ?_ h
  try dsimp only
  repeat' first
      | (with_reducible exact InCycle.refl) | (intro _) | (with_reducible assumption) | (with_reducible apply issue_inCycle)
      | split

theorem execAbs_inCycle (h : execAbs x1 x2 s = .next t) : InCycle s t := by
  unfold execAbs at h
  refine run_inCycle ?_ h
  try dsimp only
  repeat' first
      | (with_reducible exact InCycle.refl) | (intro _) | (with_reducible assumption) | (with_reducible apply issue_inCycle)
      | split

theorem execNeg_inCycle (h : execNeg x1 x2 s = .next t) : InCycle s t := by
  unfold execNeg at h
  refine run_inCycle ?_ h
  try dsimp only
  repeat' first
      | (with_reducible exact InCycle.refl) | (intro _) | (with_reducible assumption) | (with_reducible apply issue_inCycle)
      | split

theorem execCmplt_inCycle (h : execCmplt x1 x2 s = .next t) : InCycle s t := by
  unfold execCmplt at h
  refine run_inCycle ?_ h
  try dsimp only
  repeat' first
      | (with_reducible exact InCycle.refl) | (intro _) | (with_reducible assumption) | (with_reducible apply issue_inCycle)
      | split

theorem execCmpltu_inCycle (h : execCmpltu x1 x2 s = .next t) : InCycle s t := by
  unfold execCmpltu at h
  refine run_inCycle ?_ h
  try dsimp only
  repeat' first
      | (with_reducible exact InCycle.refl) | (intro _) | (with_reducible assumption) | (with_reducible apply issue_inCycle)
      | split

theorem execCmpeq_inCycle (h : execCmpeq x1 x2 s = .next t) : InCycle s t := by
  unfold execCmpeq at h
  refine run_inCycle ?_ h
  try dsimp only
  repeat' first
      | (with_reducible exact InCycle.refl) | (intro _) | (with_reducible assumption) | (with_reducible apply issue_inCycle)
      | split

theorem execSel_inCycle (h : execSel x1 x2 s = .next t) : InCycle s t := by
  unfold execSel at h
  refine run_inCycle ?_ h
  try dsimp only
  repeat' first
      | (with_reducible exact InCycle.refl) | (intro _) | (with_reducible assumption) | (with_reducible apply issue_inCycle)
      | split

theorem execClr_inCycle (h : execClr x1 x2 s = .next t) : InCycle s t := by
  unfold execClr at h
  refine run_inCycle ?_ h
  try dsimp only
  repeat' first
      | (with_reducible exact InCycle.refl) | (intro _) | (with_reducible assumption) | (with_reducible apply issue_inCycle)
      | split

theorem execLda_inCycle (h : execLda x1 x2 s = .next t) : InCycle s t := by
  unfold execLda at h
  refine run_inCycle ?_ h
  try dsimp only
  repeat' first
      | (with_reducible exact InCycle.refl) | (intro _) | (with_reducible assumption) | (with_reducible apply issue_inCycle)
      | split

theorem execLdau_inCycle (h : execLdau x1 x2 s = .next t) : InCycle s t := by
  unfold execLdau at h
  refine run_inCycle ?_ h
  try dsimp only
  repeat' first
      | (with_reducible exact InCycle.refl) | (intro _) | (with_reducible assumption) | (with_reducible apply issue_inCycle)
      | split

theorem execAadd_inCycle (h : execAadd x1 x2 s = .next t) : InCycle s t := by
  unfold execAadd at h
  refine run_inCycle ?_ h
  try dsimp only
  repeat' first
      | (with_reducible exact InCycle.refl) | (intro _) | (with_reducible assumption) | (with_reducible apply issue_inCycle)
      | split

theorem execAsub_inCycle (h : execAsub x1 x2 s = .next t) : InCycle s t := by
  unfold execAsub at h
  refine run_inCycle ?_ h
  try dsimp only
  repeat' first
      | (with_reducible exact InCycle.refl) | (intro _) | (with_reducible assumption) | (with_reducible apply issue_inCycle)
      | split

theorem execAmov_inCycle (h : execAmov x1 x2 s = .next t) : InCycle s t := by
  unfold execAmov at h
  refine run_inCycle ?_ h
  try dsimp only
  repeat' first
      | (with_reducible exact InCycle.refl) | (intro _) | (with_reducible assumption) | (with_reducible apply issue_inCycle)
      | split

theorem execAsh_inCycle (h : execAsh x1 x2 s = .next t) : InCycle s t := by
  unfold execAsh at h
  refine run_inCycle ?_ h
  try dsimp only
  repeat' first
      | (with_reducible exact InCycle.refl) | (intro _) | (with_reducible assumption) | (with_reducible apply issue_inCycle)
      | split

theorem execSta_inCycle (h : execSta x1 x2 s = .next t) : InCycle s t := by
  unfold execSta at h
  refine run_inCycle ?_ h
  try dsimp only
  repeat' first
      | (with_reducible exact InCycle.refl) | (intro _) | (with_reducible assumption) | (with_reducible apply issue_inCycle)
      | split

theorem execLd_inCycle (h : execLd x1 x2 s = .next t) : InCycle s t := by
  unfold execLd at h
  refine run_inCycle ?_ h
  try dsimp only
  repeat' first
      | (with_reducible exact InCycle.refl) | (intro _) | (with_reducible assumption) | (with_reducible apply issue_inCycle)
      | split

theorem execSt_inCycle (h : execSt x1 x2 s = .next t) : InCycle s t := by
  unfold execSt at h
  refine run_inCycle ?_ h
  try dsimp only
  repeat' first
      | (with_reducible exact InCycle.refl) | (intro _) | (with_reducible assumption) | (with_reducible apply issue_inCycle)
      | split

theorem execLdi_inCycle (h : execLdi x1 x2 s = .next t) : InCycle s t := by
  unfold execLdi at h
  refine run_inCycle ?_ h
  try dsimp only
  repeat' first
      | (with_reducible exact InCycle.refl) | (intro _) | (with_reducible assumption) | (with_reducible apply issue_inCycle)
      | split

theorem execCvtf_inCycle (h : execCvtf x1 x2 s = .next t) : InCycle s t := by
  unfold execCvtf at h
  refine run_inCycle ?_ h
  try dsimp only
  repeat' first
      | (with_reducible exact InCycle.refl) | (intro _) | (with_reducible assumption) | (with_reducible apply issue_inCycle)
      | split

theorem execCvti_inCycle (h : execCvti x1 x2 s = .next t) : InCycle s t := by
  unfold execCvti at h
  refine run_inCycle ?_ h
  try dsimp only
  repeat' first
      | (with_reducible exact InCycle.refl) | (intro _) | (with_reducible assumption) | (with_reducible apply issue_inCycle)
      | split

theorem execMovsFromSpecial_inCycle (h : execMovsFromSpecial x1 x2 x3 s = .next t) : InCycle s t := by
  unfold execMovsFromSpecial at h
  refine run_inCycle ?_ h
  try dsimp only
  repeat' first
      | (with_reducible exact InCycle.refl) | (intro _) | (with_reducible assumption) | (with_reducible apply issue_inCycle)
      | split

theorem execMovsToSpecial_inCycle (h : execMovsToSpecial x1 x2 x3 s = .next t) : InCycle s t := by
  unfold execMovsToSpecial at h
  refine run_inCycle ?_ h
  try dsimp only
  repeat' first
      | (with_reducible exact InCycle.refl) | (intro _) | (with_reducible assumption) | (with_reducible apply issue_inCycle)
      | split

theorem execMntGo_inCycle (h : execMntGo s = .next t) : InCycle s t := by
  unfold execMntGo at h
  refine run_inCycle ?_ h
  try dsimp only
  repeat' first
      | (with_reducible exact InCycle.refl) | (intro _) | (with_reducible assumption) | (with_reducible apply staged_inCycle)
      | (with_reducible apply requestMantisSwitch_inCycle) | split

theorem execHtData_inCycle (h : execHtData x1 s = .next t) : InCycle s t := by
  unfold execHtData at h
  refine run_inCycle ?_ h
  try dsimp only
  repeat' first
      | (with_reducible exact InCycle.refl) | (intro _) | (with_reducible assumption)
      | (with_reducible apply writeHtData_inCycle) | split

theorem execHtCommit_inCycle (h : execHtCommit s = .next t) : InCycle s t := by
  unfold execHtCommit at h
  refine run_inCycle ?_ h
  try dsimp only
  repeat' first
      | (with_reducible exact InCycle.refl) | (intro _) | (with_reducible assumption) | (with_reducible apply staged_inCycle)
      | (with_reducible apply writeHtCommit_inCycle) | split

theorem execHtLifeExpiry_inCycle (h : execHtLifeExpiry s = .next t) : InCycle s t := by
  unfold execHtLifeExpiry at h
  refine run_inCycle ?_ h
  try dsimp only
  repeat' first
      | (with_reducible exact InCycle.refl) | (intro _) | (with_reducible assumption)
      | (with_reducible apply htLifeExpiry_inCycle) | split

theorem execSafetyInputFilter_inCycle (h : execSafetyInputFilter x1 x2 x3 x4 s = .next t) : InCycle s t := by
  unfold execSafetyInputFilter at h
  refine run_inCycle ?_ h
  try dsimp only
  repeat' first
      | (with_reducible exact InCycle.refl) | (intro _) | (with_reducible assumption)
      | (with_reducible apply inputFilter_inCycle) | split

theorem execInputFault_inCycle (h : execInputFault x1 s = .next t) : InCycle s t := by
  unfold execInputFault at h
  refine run_inCycle ?_ h
  try dsimp only
  repeat' first
      | (with_reducible exact InCycle.refl) | (intro _) | (with_reducible assumption)
      | (with_reducible apply inputFault_inCycle) | split

theorem execStandstill_inCycle (h : execStandstill x1 s = .next t) : InCycle s t := by
  unfold execStandstill at h
  refine run_inCycle ?_ h
  try dsimp only
  repeat' first
      | (with_reducible exact InCycle.refl) | (intro _) | (with_reducible assumption)
      | (with_reducible apply standstill_inCycle) | split

theorem execSbcDelayExpiry_inCycle (h : execSbcDelayExpiry x1 s = .next t) : InCycle s t := by
  unfold execSbcDelayExpiry at h
  refine run_inCycle ?_ h
  try dsimp only
  repeat' first
      | (with_reducible exact InCycle.refl) | (intro _) | (with_reducible assumption)
      | (with_reducible apply sbcDelayExpiry_inCycle) | split

theorem execSs1TimeLimit_inCycle (h : execSs1TimeLimit x1 s = .next t) : InCycle s t := by
  unfold execSs1TimeLimit at h
  refine run_inCycle ?_ h
  try dsimp only
  repeat' first
      | (with_reducible exact InCycle.refl) | (intro _) | (with_reducible assumption)
      | (with_reducible apply ss1TimeLimit_inCycle) | split

theorem execFeedbackLostSs1_inCycle (h : execFeedbackLostSs1 x1 s = .next t) : InCycle s t := by
  unfold execFeedbackLostSs1 at h
  refine run_inCycle ?_ h
  try dsimp only
  repeat' first
      | (with_reducible exact InCycle.refl) | (intro _) | (with_reducible assumption)
      | (with_reducible apply feedbackLostSs1_inCycle) | split

theorem execFeedbackLostSto_inCycle (h : execFeedbackLostSto x1 s = .next t) : InCycle s t := by
  unfold execFeedbackLostSto at h
  refine run_inCycle ?_ h
  try dsimp only
  repeat' first
      | (with_reducible exact InCycle.refl) | (intro _) | (with_reducible assumption)
      | (with_reducible apply feedbackLostSto_inCycle) | split

theorem execSlsViolation_inCycle (h : execSlsViolation x1 s = .next t) : InCycle s t := by
  unfold execSlsViolation at h
  refine run_inCycle ?_ h
  try dsimp only
  repeat' first
      | (with_reducible exact InCycle.refl) | (intro _) | (with_reducible assumption)
      | (with_reducible apply slsViolation_inCycle) | split

theorem execOutputFault_inCycle (h : execOutputFault x1 s = .next t) : InCycle s t := by
  unfold execOutputFault at h
  refine run_inCycle ?_ h
  try dsimp only
  repeat' first
      | (with_reducible exact InCycle.refl) | (intro _) | (with_reducible assumption)
      | (with_reducible apply outputFault_inCycle) | split

theorem execTestPulse_inCycle (h : execTestPulse x1 x2 s = .next t) : InCycle s t := by
  unfold execTestPulse at h
  refine run_inCycle ?_ h
  try dsimp only
  repeat' first
      | (with_reducible exact InCycle.refl) | (intro _) | (with_reducible assumption)
      | (with_reducible apply testPulse_inCycle) | split

theorem execTestPulseResult_inCycle (h : execTestPulseResult x1 x2 x3 x4 s = .next t) : InCycle s t := by
  unfold execTestPulseResult at h
  refine run_inCycle ?_ h
  try dsimp only
  repeat' first
      | (with_reducible exact InCycle.refl) | (intro _) | (with_reducible assumption)
      | (with_reducible apply testPulseResult_inCycle) | split

theorem execResetPulse_inCycle (h : execResetPulse x1 x2 s = .next t) : InCycle s t := by
  unfold execResetPulse at h
  refine runReady_inCycle ?_ h
  try dsimp only
  repeat' first
      | (with_reducible exact InCycle.refl) | (intro _) | (with_reducible assumption)
      | (with_reducible apply resetFall_inCycle) | (with_reducible apply advance_inCycle) | split

theorem execStuckReset_inCycle (h : execStuckReset x1 s = .next t) : InCycle s t := by
  unfold execStuckReset at h
  refine run_inCycle ?_ h
  try dsimp only
  repeat' first
      | (with_reducible exact InCycle.refl) | (intro _) | (with_reducible assumption)
      | (with_reducible apply resetStuck_inCycle) | split

theorem execSwrst_inCycle (h : execSwrst x1 s = .next t) : InCycle s t := by
  unfold execSwrst at h
  refine run_inCycle ?_ h
  try dsimp only
  repeat' first
      | (with_reducible exact InCycle.refl) | (intro _) | (with_reducible assumption)
      | (with_reducible apply pageWrite_inCycle) | split

theorem execSwrstStuck_inCycle (h : execSwrstStuck s = .next t) : InCycle s t := by
  unfold execSwrstStuck at h
  refine run_inCycle ?_ h
  try dsimp only
  repeat' first
      | (with_reducible exact InCycle.refl) | (intro _) | (with_reducible assumption)
      | (with_reducible apply swrstStuck_inCycle) | split

theorem execSvcwarn_inCycle (h : execSvcwarn s = .next t) : InCycle s t := by
  unfold execSvcwarn at h
  refine run_inCycle ?_ h
  try dsimp only
  repeat' first
      | (with_reducible exact InCycle.refl) | (intro _) | (with_reducible assumption) | (with_reducible apply svcWarn_inCycle)
      | split

theorem execServiceWindowExpiry_inCycle (h : execServiceWindowExpiry s = .next t) : InCycle s t := by
  unfold execServiceWindowExpiry at h
  refine runReady_inCycle ?_ h
  try dsimp only
  repeat' first
      | (with_reducible exact InCycle.refl) | (intro _) | (with_reducible assumption)
      | (with_reducible apply svcExpiry_inCycle) | split

theorem execOpenSession_inCycle (h : execOpenSession x1 s = .next t) : InCycle s t := by
  unfold execOpenSession at h
  refine run_inCycle ?_ h
  try dsimp only
  repeat' first
      | (with_reducible exact InCycle.refl) | (intro _) | (with_reducible assumption) | (with_reducible apply staged_inCycle)
      | (with_reducible apply openSession_inCycle) | split

theorem execChangePassword_inCycle (h : execChangePassword x1 s = .next t) : InCycle s t := by
  unfold execChangePassword at h
  refine run_inCycle ?_ h
  try dsimp only
  repeat' first
      | (with_reducible exact InCycle.refl) | (intro _) | (with_reducible assumption) | (with_reducible apply staged_inCycle)
      | (with_reducible apply changePassword_inCycle) | split

theorem execEndSession_inCycle (h : execEndSession s = .next t) : InCycle s t := by
  unfold execEndSession at h
  refine run_inCycle ?_ h
  try dsimp only
  repeat' first
      | (with_reducible exact InCycle.refl) | (intro _) | (with_reducible assumption) | (with_reducible apply staged_inCycle)
      | (with_reducible apply endSession_inCycle) | split

theorem execPwlockExpiry_inCycle (h : execPwlockExpiry s = .next t) : InCycle s t := by
  unfold execPwlockExpiry at h
  refine run_inCycle ?_ h
  try dsimp only
  repeat' first
      | (with_reducible exact InCycle.refl) | (intro _) | (with_reducible assumption)
      | (with_reducible apply pwlockExpiry_inCycle) | split

theorem execSessionTimeout_inCycle (h : execSessionTimeout s = .next t) : InCycle s t := by
  unfold execSessionTimeout at h
  refine run_inCycle ?_ h
  try dsimp only
  repeat' first
      | (with_reducible exact InCycle.refl) | (intro _) | (with_reducible assumption)
      | (with_reducible apply sessionTimeout_inCycle) | split

theorem execSessKeyRead_inCycle (h : execSessKeyRead x1 s = .next t) : InCycle s t := by
  unfold execSessKeyRead at h
  refine run_inCycle ?_ h
  try dsimp only
  repeat' first
      | (with_reducible exact InCycle.refl) | (intro _) | (with_reducible assumption) | (with_reducible apply atPort_inCycle)
      | (with_reducible apply readSessKey_inCycle) | (with_reducible apply returnRead_inCycle) | split

theorem execLogAck_inCycle (h : execLogAck x1 s = .next t) : InCycle s t := by
  unfold execLogAck at h
  refine run_inCycle ?_ h
  try dsimp only
  repeat' first
      | (with_reducible exact InCycle.refl) | (intro _) | (with_reducible assumption) | (with_reducible apply staged_inCycle)
      | (with_reducible apply logAck_inCycle) | split

theorem execLogDataRead_inCycle (h : execLogDataRead x1 s = .next t) : InCycle s t := by
  unfold execLogDataRead at h
  refine run_inCycle ?_ h
  try dsimp only
  repeat' first
      | (with_reducible exact InCycle.refl) | (intro _) | (with_reducible assumption) | (with_reducible apply atPort_inCycle)
      | (with_reducible apply readLogData_inCycle) | (with_reducible apply returnRead_inCycle) | split

theorem execFence_inCycle (h : execFence x1 s = .next t) : InCycle s t := by
  unfold execFence at h
  refine run_inCycle ?_ h
  try dsimp only
  repeat' first
      | (with_reducible exact InCycle.refl) | (intro _) | (with_reducible assumption) | (with_reducible apply askFence_inCycle)
      | split

theorem execReadmit_inCycle (h : execReadmit x1 s = .next t) : InCycle s t := by
  unfold execReadmit at h
  refine run_inCycle ?_ h
  try dsimp only
  repeat' first
      | (with_reducible exact InCycle.refl) | (intro _) | (with_reducible assumption)
      | (with_reducible apply writeReadmit_inCycle) | split

theorem execMolt_inCycle (h : execMolt x1 x2 s = .next t) : InCycle s t := by
  unfold execMolt at h
  refine run_inCycle ?_ h
  try dsimp only
  repeat' first
      | (with_reducible exact InCycle.refl) | (intro _) | (with_reducible assumption) | (with_reducible apply molt_inCycle)
      | split

theorem execMoltComplete_inCycle (h : execMoltComplete x1 s = .next t) : InCycle s t := by
  unfold execMoltComplete at h
  refine runReady_inCycle ?_ h
  try dsimp only
  repeat' first
      | (with_reducible exact InCycle.refl) | (intro _) | (with_reducible assumption)
      | (with_reducible apply moltComplete_inCycle) | split

theorem execPoweroff_inCycle (h : execPoweroff x1 s = .next t) : InCycle s t := by
  unfold execPoweroff at h
  refine runReady_inCycle ?_ h
  try dsimp only
  repeat' first
      | (with_reducible exact InCycle.refl) | (intro _) | (with_reducible assumption) | (with_reducible apply powerOff_inCycle)
      | split

theorem execCustodianReadmit_inCycle (h : execCustodianReadmit x1 s = .next t) : InCycle s t := by
  unfold execCustodianReadmit at h
  refine runReady_inCycle ?_ h
  try dsimp only
  repeat' first
      | (with_reducible exact InCycle.refl) | (intro _) | (with_reducible assumption)
      | (with_reducible apply custodianReadmit_inCycle) | split

theorem execFwGo_inCycle (h : execFwGo x1 x2 s = .next t) : InCycle s t := by
  unfold execFwGo at h
  refine run_inCycle ?_ h
  try dsimp only
  repeat' first
      | (with_reducible exact InCycle.refl) | (intro _) | (with_reducible assumption) | (with_reducible apply fwGo_inCycle)
      | split

theorem execStepClassSwitch_inCycle (h : execStepClassSwitch s = .next t) : InCycle s t := by
  unfold execStepClassSwitch at h
  refine run_inCycle ?_ h
  try dsimp only
  repeat' first
      | (with_reducible exact InCycle.refl) | (intro _) | (with_reducible assumption)
      | (with_reducible apply stepClassSwitch_inCycle) | split

theorem execImageLoad_inCycle (h : execImageLoad x1 x2 s = .next t) : InCycle s t := by
  unfold execImageLoad at h
  refine run_inCycle ?_ h
  try dsimp only
  repeat' first
      | (with_reducible exact InCycle.refl) | (intro _) | (with_reducible assumption)
      | (with_reducible apply imageLoad_inCycle) | split

theorem execImageLoadComplete_keeps (h : execImageLoadComplete s = .next t) : Keeps s t := by
  unfold execImageLoadComplete at h
  refine runReady_keeps ?_ h
  try dsimp only
  repeat' first
      | (with_reducible exact Keeps.refl) | (intro _) | (with_reducible assumption)
      | (with_reducible apply imageLoadComplete_keeps) | split

theorem execCartridgeInserted_inCycle (h : execCartridgeInserted x1 s = .next t) : InCycle s t := by
  unfold execCartridgeInserted at h
  refine runReady_inCycle ?_ h
  try dsimp only
  repeat' first
      | (with_reducible exact InCycle.refl) | (intro _) | (with_reducible assumption) | (with_reducible apply inserted_inCycle)
      | split

theorem execCartridgeRemoved_inCycle (h : execCartridgeRemoved x1 s = .next t) : InCycle s t := by
  unfold execCartridgeRemoved at h
  refine runReady_inCycle ?_ h
  try dsimp only
  repeat' first
      | (with_reducible exact InCycle.refl) | (intro _) | (with_reducible assumption) | (with_reducible apply removed_inCycle)
      | split

theorem execLeverOpened_inCycle (h : execLeverOpened x1 s = .next t) : InCycle s t := by
  unfold execLeverOpened at h
  refine runReady_inCycle ?_ h
  try dsimp only
  repeat' first
      | (with_reducible exact InCycle.refl) | (intro _) | (with_reducible assumption)
      | (with_reducible apply leverOpened_inCycle) | split

theorem execLeverClosed_inCycle (h : execLeverClosed x1 s = .next t) : InCycle s t := by
  unfold execLeverClosed at h
  refine runReady_inCycle ?_ h
  try dsimp only
  repeat' first
      | (with_reducible exact InCycle.refl) | (intro _) | (with_reducible assumption)
      | (with_reducible apply leverClosed_inCycle) | split

theorem execSelftestComplete_inCycle (h : execSelftestComplete x1 x2 x3 s = .next t) : InCycle s t := by
  unfold execSelftestComplete at h
  refine runReady_inCycle ?_ h
  try dsimp only
  repeat' first
      | (with_reducible exact InCycle.refl) | (intro _) | (with_reducible assumption) | (with_reducible apply selftest_inCycle)
      | split

theorem execStateRegionCopyComplete_inCycle (h : execStateRegionCopyComplete x1 s = .next t) : InCycle s t := by
  unfold execStateRegionCopyComplete at h
  refine run_inCycle ?_ h
  try dsimp only
  repeat' first
      | (with_reducible exact InCycle.refl) | (intro _) | (with_reducible assumption)
      | (with_reducible apply copyComplete_inCycle) | split

theorem execJournal_inCycle (h : execJournal x1 x2 x3 s = .next t) : InCycle s t := by
  unfold execJournal at h
  refine run_inCycle ?_ h
  try dsimp only
  repeat' first
      | (with_reducible exact InCycle.refl) | (intro _) | (with_reducible assumption) | (with_reducible apply journal_inCycle)
      | split

theorem execTrackEnd_inCycle (h : execTrackEnd x1 s = .next t) : InCycle s t := by
  unfold execTrackEnd at h
  refine run_inCycle ?_ h
  try dsimp only
  repeat' first
      | (with_reducible exact InCycle.refl) | (intro _) | (with_reducible assumption) | (with_reducible apply trackEnd_inCycle)
      | split

theorem execShadowDigest_inCycle (h : execShadowDigest x1 x2 x3 s = .next t) : InCycle s t := by
  unfold execShadowDigest at h
  refine run_inCycle ?_ h
  try dsimp only
  repeat' first
      | (with_reducible exact InCycle.refl) | (intro _) | (with_reducible assumption)
      | (with_reducible apply shadowDigest_inCycle) | split

theorem execCheckPass_inCycle (h : execCheckPass x1 s = .next t) : InCycle s t := by
  unfold execCheckPass at h
  refine run_inCycle ?_ h
  try dsimp only
  repeat' first
      | (with_reducible exact InCycle.refl) | (intro _) | (with_reducible assumption)
      | (with_reducible apply checkPass_inCycle) | split

theorem execHubTrackMismatch_inCycle (h : execHubTrackMismatch x1 s = .next t) : InCycle s t := by
  unfold execHubTrackMismatch at h
  refine run_inCycle ?_ h
  try dsimp only
  repeat' first
      | (with_reducible exact InCycle.refl) | (intro _) | (with_reducible assumption)
      | (with_reducible apply hubMismatch_inCycle) | split

theorem execHubJoin_inCycle (h : execHubJoin x1 s = .next t) : InCycle s t := by
  unfold execHubJoin at h
  refine runReady_inCycle ?_ h
  try dsimp only
  repeat' first
      | (with_reducible exact InCycle.refl) | (intro _) | (with_reducible assumption) | (with_reducible apply hubJoin_inCycle)
      | split

theorem execHubLockComplete_inCycle (h : execHubLockComplete x1 s = .next t) : InCycle s t := by
  unfold execHubLockComplete at h
  refine run_inCycle ?_ h
  try dsimp only
  repeat' first
      | (with_reducible exact InCycle.refl) | (intro _) | (with_reducible assumption) | (with_reducible apply hubLock_inCycle)
      | split

theorem execSpareRemapCommand_inCycle (h : execSpareRemapCommand x1 x2 x3 s = .next t) : InCycle s t := by
  unfold execSpareRemapCommand at h
  refine runReady_inCycle ?_ h
  try dsimp only
  repeat' first
      | (with_reducible exact InCycle.refl) | (intro _) | (with_reducible assumption)
      | (with_reducible apply remapCommand_inCycle) | split

theorem execClearRemap_inCycle (h : execClearRemap x1 s = .next t) : InCycle s t := by
  unfold execClearRemap at h
  refine runReady_inCycle ?_ h
  try dsimp only
  repeat' first
      | (with_reducible exact InCycle.refl) | (intro _) | (with_reducible assumption)
      | (with_reducible apply clearRemaps_inCycle) | split

theorem execEncoderEdge_inCycle (h : execEncoderEdge x1 x2 x3 x4 s = .next t) : InCycle s t := by
  unfold execEncoderEdge at h
  refine run_inCycle ?_ h
  try dsimp only
  repeat' first
      | (with_reducible exact InCycle.refl) | (intro _) | (with_reducible assumption)
      | (with_reducible apply encoderEdge_inCycle) | (with_reducible apply advance_inCycle) | split

theorem execErrorWindow_inCycle (h : execErrorWindow x1 s = .next t) : InCycle s t := by
  unfold execErrorWindow at h
  refine run_inCycle ?_ h
  try dsimp only
  repeat' first
      | (with_reducible exact InCycle.refl) | (intro _) | (with_reducible assumption)
      | (with_reducible apply errorWindow_inCycle) | split

theorem execHallStateChange_inCycle (h : execHallStateChange x1 x2 x3 s = .next t) : InCycle s t := by
  unfold execHallStateChange at h
  refine run_inCycle ?_ h
  try dsimp only
  repeat' first
      | (with_reducible exact InCycle.refl) | (intro _) | (with_reducible assumption)
      | (with_reducible apply hallChange_inCycle) | (with_reducible apply advance_inCycle) | split

theorem execSsiReading_inCycle (h : execSsiReading x1 s = .next t) : InCycle s t := by
  unfold execSsiReading at h
  refine run_inCycle ?_ h
  try dsimp only
  repeat' first
      | (with_reducible exact InCycle.refl) | (intro _) | (with_reducible assumption) | (with_reducible apply ssiStart_inCycle)
      | split

theorem execSsiReadingComplete_inCycle (h : execSsiReadingComplete x1 x2 x3 x4 x5 s = .next t) : InCycle s t := by
  unfold execSsiReadingComplete at h
  refine run_inCycle ?_ h
  try dsimp only
  repeat' first
      | (with_reducible exact InCycle.refl) | (intro _) | (with_reducible assumption)
      | (with_reducible apply ssiComplete_inCycle) | (with_reducible apply advance_inCycle) | split

theorem execSsiDelayMeasurement_inCycle (h : execSsiDelayMeasurement x1 x2 s = .next t) : InCycle s t := by
  unfold execSsiDelayMeasurement at h
  refine runReady_inCycle ?_ h
  try dsimp only
  repeat' first
      | (with_reducible exact InCycle.refl) | (intro _) | (with_reducible assumption)
      | (with_reducible apply ssiMeasured_inCycle) | split

theorem execRemeasure_inCycle (h : execRemeasure x1 s = .next t) : InCycle s t := by
  unfold execRemeasure at h
  refine runReady_inCycle ?_ h
  try dsimp only
  repeat' first
      | (with_reducible exact InCycle.refl) | (intro _) | (with_reducible assumption)
      | (with_reducible apply writeEncCmd_inCycle) | split

theorem execIndexLatch_inCycle (h : execIndexLatch x1 x2 s = .next t) : InCycle s t := by
  unfold execIndexLatch at h
  refine run_inCycle ?_ h
  try dsimp only
  repeat' first
      | (with_reducible exact InCycle.refl) | (intro _) | (with_reducible assumption)
      | (with_reducible apply indexLatch_inCycle) | (with_reducible apply advance_inCycle) | split

theorem execLatchRead_inCycle (h : execLatchRead x1 x2 s = .next t) : InCycle s t := by
  unfold execLatchRead at h
  refine run_inCycle ?_ h
  try dsimp only
  repeat' first
      | (with_reducible exact InCycle.refl) | (intro _) | (with_reducible assumption) | (with_reducible apply atPort_inCycle)
      | (with_reducible apply readLatch_inCycle) | (with_reducible apply returnRead_inCycle) | split

theorem execLatchTRead_inCycle (h : execLatchTRead x1 x2 s = .next t) : InCycle s t := by
  unfold execLatchTRead at h
  refine run_inCycle ?_ h
  try dsimp only
  repeat' first
      | (with_reducible exact InCycle.refl) | (intro _) | (with_reducible assumption) | (with_reducible apply atPort_inCycle)
      | (with_reducible apply readLatchT_inCycle) | (with_reducible apply returnRead_inCycle) | split

theorem execIntervalSaturation_inCycle (h : execIntervalSaturation x1 s = .next t) : InCycle s t := by
  unfold execIntervalSaturation at h
  refine run_inCycle ?_ h
  try dsimp only
  repeat' first
      | (with_reducible exact InCycle.refl) | (intro _) | (with_reducible assumption) | (with_reducible apply saturate_inCycle)
      | split

theorem execEncLoad_inCycle (h : execEncLoad x1 s = .next t) : InCycle s t := by
  unfold execEncLoad at h
  refine run_inCycle ?_ h
  try dsimp only
  repeat' first
      | (with_reducible exact InCycle.refl) | (intro _) | (with_reducible assumption)
      | (with_reducible apply writeEncCmd_inCycle) | split

theorem execClrfault_inCycle (h : execClrfault x1 s = .next t) : InCycle s t := by
  unfold execClrfault at h
  refine run_inCycle ?_ h
  try dsimp only
  repeat' first
      | (with_reducible exact InCycle.refl) | (intro _) | (with_reducible assumption)
      | (with_reducible apply writeEncCmd_inCycle) | split

theorem execEmulatedCount_inCycle (h : execEmulatedCount x1 s = .next t) : InCycle s t := by
  unfold execEmulatedCount at h
  refine run_inCycle ?_ h
  try dsimp only
  repeat' first
      | (with_reducible exact InCycle.refl) | (intro _) | (with_reducible assumption)
      | (with_reducible apply emulatedCount_inCycle) | split

theorem execEncHaCutOff_inCycle (h : execEncHaCutOff x1 s = .next t) : InCycle s t := by
  unfold execEncHaCutOff at h
  refine run_inCycle ?_ h
  try dsimp only
  repeat' first
      | (with_reducible exact InCycle.refl) | (intro _) | (with_reducible assumption)
      | (with_reducible apply encCutOff_inCycle) | split

theorem execPulseEnd_inCycle (h : execPulseEnd x1 x2 s = .next t) : InCycle s t := by
  unfold execPulseEnd at h
  refine run_inCycle ?_ h
  try dsimp only
  repeat' first
      | (with_reducible exact InCycle.refl) | (intro _) | (with_reducible assumption) | (with_reducible apply endPulse_inCycle)
      | (with_reducible apply advance_inCycle) | split

theorem execLctl_inCycle (h : execLctl x1 x2 s = .next t) : InCycle s t := by
  unfold execLctl at h
  refine run_inCycle ?_ h
  try dsimp only
  repeat' first
      | (with_reducible exact InCycle.refl) | (intro _) | (with_reducible assumption)
      | (with_reducible apply writeLctl_inCycle) | split

theorem execRewind_inCycle (h : execRewind x1 s = .next t) : InCycle s t := by
  unfold execRewind at h
  refine run_inCycle ?_ h
  try dsimp only
  repeat' first
      | (with_reducible exact InCycle.refl) | (intro _) | (with_reducible assumption)
      | (with_reducible apply writeRewind_inCycle) | split

theorem execRearm_inCycle (h : execRearm x1 s = .next t) : InCycle s t := by
  unfold execRearm at h
  refine run_inCycle ?_ h
  try dsimp only
  repeat' first
      | (with_reducible exact InCycle.refl) | (intro _) | (with_reducible assumption)
      | (with_reducible apply writeRearm_inCycle) | split

theorem execPulse_inCycle (h : execPulse x1 x2 s = .next t) : InCycle s t := by
  unfold execPulse at h
  refine run_inCycle ?_ h
  try dsimp only
  repeat' first
      | (with_reducible exact InCycle.refl) | (intro _) | (with_reducible assumption)
      | (with_reducible apply otherPulse_inCycle) | (with_reducible apply advance_inCycle) | split

theorem execHaTime_inCycle (h : execHaTime x1 x2 s = .next t) : InCycle s t := by
  unfold execHaTime at h
  refine run_inCycle ?_ h
  try dsimp only
  repeat' first
      | (with_reducible exact InCycle.refl) | (intro _) | (with_reducible assumption)
      | (with_reducible apply writeHaTime_inCycle) | split

theorem execHostPulse_inCycle (h : execHostPulse x1 x2 s = .next t) : InCycle s t := by
  unfold execHostPulse at h
  refine run_inCycle ?_ h
  try dsimp only
  repeat' first
      | (with_reducible exact InCycle.refl) | (intro _) | (with_reducible assumption)
      | (with_reducible apply hostPulse_inCycle) | (with_reducible apply advance_inCycle) | split

theorem execPrgGo_inCycle (h : execPrgGo x1 s = .next t) : InCycle s t := by
  unfold execPrgGo at h
  refine run_inCycle ?_ h
  try dsimp only
  repeat' first
      | (with_reducible exact InCycle.refl) | (intro _) | (with_reducible assumption)
      | (with_reducible apply writePrgCmd_inCycle) | split

theorem execPrgStop_inCycle (h : execPrgStop x1 s = .next t) : InCycle s t := by
  unfold execPrgStop at h
  refine run_inCycle ?_ h
  try dsimp only
  repeat' first
      | (with_reducible exact InCycle.refl) | (intro _) | (with_reducible assumption)
      | (with_reducible apply writePrgCmd_inCycle) | split

theorem execPrgLoad_inCycle (h : execPrgLoad x1 s = .next t) : InCycle s t := by
  unfold execPrgLoad at h
  refine run_inCycle ?_ h
  try dsimp only
  repeat' first
      | (with_reducible exact InCycle.refl) | (intro _) | (with_reducible assumption)
      | (with_reducible apply writePrgCmd_inCycle) | split

theorem execHaPosHi_inCycle (h : execHaPosHi x1 x2 s = .next t) : InCycle s t := by
  unfold execHaPosHi at h
  refine run_inCycle ?_ h
  try dsimp only
  repeat' first
      | (with_reducible exact InCycle.refl) | (intro _) | (with_reducible assumption)
      | (with_reducible apply writeHaPosHi_inCycle) | split

theorem execPrgHaCutOff_inCycle (h : execPrgHaCutOff x1 s = .next t) : InCycle s t := by
  unfold execPrgHaCutOff at h
  refine run_inCycle ?_ h
  try dsimp only
  repeat' first
      | (with_reducible exact InCycle.refl) | (intro _) | (with_reducible assumption)
      | (with_reducible apply genCutOff_inCycle) | split

theorem execPwmPeriod_inCycle (h : execPwmPeriod x1 s = .next t) : InCycle s t := by
  unfold execPwmPeriod at h
  refine run_inCycle ?_ h
  try dsimp only
  repeat' first
      | (with_reducible exact InCycle.refl) | (intro _) | (with_reducible assumption)
      | (with_reducible apply pwmPeriod_inCycle) | split

theorem execPwmCentre_inCycle (h : execPwmCentre x1 s = .next t) : InCycle s t := by
  unfold execPwmCentre at h
  refine run_inCycle ?_ h
  try dsimp only
  repeat' first
      | (with_reducible exact InCycle.refl) | (intro _) | (with_reducible assumption)
      | (with_reducible apply pwmCentre_inCycle) | split

theorem execTdata_inCycle (h : execTdata x1 x2 s = .next t) : InCycle s t := by
  unfold execTdata at h
  refine run_inCycle ?_ h
  try dsimp only
  repeat' first
      | (with_reducible exact InCycle.refl) | (intro _) | (with_reducible assumption)
      | (with_reducible apply writeTdata_inCycle) | split

theorem execTdefault_inCycle (h : execTdefault x1 s = .next t) : InCycle s t := by
  unfold execTdefault at h
  refine run_inCycle ?_ h
  try dsimp only
  repeat' first
      | (with_reducible exact InCycle.refl) | (intro _) | (with_reducible assumption)
      | (with_reducible apply writeTdefault_inCycle) | split

theorem execConversion_inCycle (h : execConversion x1 x2 x3 s = .next t) : InCycle s t := by
  unfold execConversion at h
  refine run_inCycle ?_ h
  try dsimp only
  repeat' first
      | (with_reducible exact InCycle.refl) | (intro _) | (with_reducible assumption)
      | (with_reducible apply conversion_inCycle) | (with_reducible apply advance_inCycle) | split

theorem execConversionComplete_inCycle (h : execConversionComplete x1 x2 x3 x4 x5 s = .next t) : InCycle s t := by
  unfold execConversionComplete at h
  refine runReady_inCycle ?_ h
  try dsimp only
  repeat' first
      | (with_reducible exact InCycle.refl) | (intro _) | (with_reducible assumption)
      | (with_reducible apply conversionComplete_inCycle) | (with_reducible apply advance_inCycle) | split

theorem execCalibration_inCycle (h : execCalibration x1 x2 s = .next t) : InCycle s t := by
  unfold execCalibration at h
  refine runReady_inCycle ?_ h
  try dsimp only
  repeat' first
      | (with_reducible exact InCycle.refl) | (intro _) | (with_reducible assumption)
      | (with_reducible apply calibration_inCycle) | split

theorem execCalibrationComplete_inCycle (h : execCalibrationComplete x1 x2 x3 s = .next t) : InCycle s t := by
  unfold execCalibrationComplete at h
  refine runReady_inCycle ?_ h
  try dsimp only
  repeat' first
      | (with_reducible exact InCycle.refl) | (intro _) | (with_reducible assumption)
      | (with_reducible apply calibrationComplete_inCycle) | split

theorem execCal_inCycle (h : execCal x1 s = .next t) : InCycle s t := by
  unfold execCal at h
  refine runReady_inCycle ?_ h
  try dsimp only
  repeat' first
      | (with_reducible exact InCycle.refl) | (intro _) | (with_reducible assumption) | (with_reducible apply writeCal_inCycle)
      | split

theorem execAdcFlush_inCycle (h : execAdcFlush x1 s = .next t) : InCycle s t := by
  unfold execAdcFlush at h
  refine run_inCycle ?_ h
  try dsimp only
  repeat' first
      | (with_reducible exact InCycle.refl) | (intro _) | (with_reducible assumption)
      | (with_reducible apply writeAdcFlush_inCycle) | split

theorem execRestart_inCycle (h : execRestart x1 s = .next t) : InCycle s t := by
  unfold execRestart at h
  refine run_inCycle ?_ h
  try dsimp only
  repeat' first
      | (with_reducible exact InCycle.refl) | (intro _) | (with_reducible assumption)
      | (with_reducible apply writeRestart_inCycle) | split

theorem execResW0Read_inCycle (h : execResW0Read x1 x2 s = .next t) : InCycle s t := by
  unfold execResW0Read at h
  refine run_inCycle ?_ h
  try dsimp only
  repeat' first
      | (with_reducible exact InCycle.refl) | (intro _) | (with_reducible assumption) | (with_reducible apply atPort_inCycle)
      | (with_reducible apply readResW0_inCycle) | (with_reducible apply returnRead_inCycle) | split

theorem execResW1Read_inCycle (h : execResW1Read x1 x2 s = .next t) : InCycle s t := by
  unfold execResW1Read at h
  refine run_inCycle ?_ h
  try dsimp only
  repeat' first
      | (with_reducible exact InCycle.refl) | (intro _) | (with_reducible assumption) | (with_reducible apply atPort_inCycle)
      | (with_reducible apply readResW1_inCycle) | (with_reducible apply returnRead_inCycle) | split

theorem execPrgPosLoRead_inCycle (h : execPrgPosLoRead x1 x2 s = .next t) : InCycle s t := by
  unfold execPrgPosLoRead at h
  refine run_inCycle ?_ h
  try dsimp only
  repeat' first
      | (with_reducible exact InCycle.refl) | (intro _) | (with_reducible assumption) | (with_reducible apply atPort_inCycle)
      | (with_reducible apply readPosLo_inCycle) | (with_reducible apply returnRead_inCycle) | split

theorem execHubSelfTestComplete_inCycle (h : execHubSelfTestComplete s = .next t) : InCycle s t := by
  unfold execHubSelfTestComplete at h
  refine run_inCycle ?_ h
  try dsimp only
  repeat' first
      | (with_reducible exact InCycle.refl) | (intro _) | (with_reducible assumption)
      | (with_reducible apply hubSelfTest_inCycle) | split

theorem execPllLock_inCycle (h : execPllLock s = .next t) : InCycle s t := by
  unfold execPllLock at h
  refine run_inCycle ?_ h
  try dsimp only
  repeat' first
      | (with_reducible exact InCycle.refl) | (intro _) | (with_reducible assumption) | (with_reducible apply pllLock_inCycle)
      | split

theorem execHubFunctionsReady_keeps (h : execHubFunctionsReady s = .next t) : Keeps s t := by
  unfold execHubFunctionsReady at h
  refine run_keeps ?_ h
  try dsimp only
  repeat' first
      | (with_reducible exact Keeps.refl) | (intro _) | (with_reducible assumption) | (with_reducible apply hubFunctions_keeps)
      | split

theorem execAdmission_inCycle (h : execAdmission s = .next t) : InCycle s t := by
  unfold execAdmission at h
  refine run_inCycle ?_ h
  try dsimp only
  repeat' first
      | (with_reducible exact InCycle.refl) | (intro _) | (with_reducible assumption)
      | (with_reducible apply admission_inCycle) | split

theorem execSupplyThreshold_inCycle (h : execSupplyThreshold x1 x2 s = .next t) : InCycle s t := by
  unfold execSupplyThreshold at h
  refine run_inCycle ?_ h
  try dsimp only
  repeat' first
      | (with_reducible exact InCycle.refl) | (intro _) | (with_reducible assumption)
      | (with_reducible apply supplyThreshold_inCycle) | split

theorem execDip_inCycle (h : execDip s = .next t) : InCycle s t := by
  unfold execDip at h
  refine run_inCycle ?_ h
  try dsimp only
  repeat' first
      | (with_reducible exact InCycle.refl) | (intro _) | (with_reducible assumption) | (with_reducible apply dip_inCycle)
      | split

theorem execShutdown_keeps (h : execShutdown s = .next t) : Keeps s t := by
  unfold execShutdown at h
  refine run_keeps ?_ h
  try dsimp only
  repeat' first
      | (with_reducible exact Keeps.refl) | (intro _) | (with_reducible assumption) | (with_reducible apply shutDown_keeps)
      | split

theorem execSupplyMeasurement_inCycle (h : execSupplyMeasurement x1 x2 x3 x4 x5 x6 x7 s = .next t) : InCycle s t := by
  unfold execSupplyMeasurement at h
  refine run_inCycle ?_ h
  try dsimp only
  repeat' first
      | (with_reducible exact InCycle.refl) | (intro _) | (with_reducible assumption)
      | (with_reducible apply supplyMeasurement_inCycle) | split

theorem execThermalStop_inCycle (h : execThermalStop x1 s = .next t) : InCycle s t := by
  unfold execThermalStop at h
  refine runReady_inCycle ?_ h
  try dsimp only
  repeat' first
      | (with_reducible exact InCycle.refl) | (intro _) | (with_reducible assumption)
      | (with_reducible apply thermalStop_inCycle) | split

theorem execFireflyPhaseCrossing_inCycle (h : execFireflyPhaseCrossing x1 x2 s = .next t) : InCycle s t := by
  unfold execFireflyPhaseCrossing at h
  refine run_inCycle ?_ h
  try dsimp only
  repeat' first
      | (with_reducible exact InCycle.refl) | (intro _) | (with_reducible assumption) | (with_reducible apply advance_inCycle)
      | (with_reducible apply ffyPhaseStep_inCycle) | split

theorem execTestPulseMidpoint_inCycle (h : execTestPulseMidpoint x1 x2 s = .next t) : InCycle s t := by
  unfold execTestPulseMidpoint at h
  refine run_inCycle ?_ h
  try dsimp only
  repeat' first
      | (with_reducible exact InCycle.refl) | (intro _) | (with_reducible assumption)
      | (with_reducible apply testMidpoint_inCycle) | split

theorem execIllegalInstruction_inCycle (h : execIllegalInstruction x1 x2 x3 s = .next t) : InCycle s t := by
  unfold execIllegalInstruction at h
  refine run_inCycle ?_ h
  try dsimp only
  repeat' first
      | (with_reducible exact InCycle.refl) | (intro _) | (with_reducible assumption)
      | (with_reducible apply kernelFault_inCycle) | split

theorem execSoftStartComplete_inCycle (h : execSoftStartComplete x1 s = .next t) : InCycle s t := by
  unfold execSoftStartComplete at h
  refine run_inCycle ?_ h
  try dsimp only
  repeat' first
      | (with_reducible exact InCycle.refl) | (intro _) | (with_reducible assumption)
      | (with_reducible apply softStart_inCycle) | split

theorem execHubLoadComplete_inCycle (h : execHubLoadComplete x1 s = .next t) : InCycle s t := by
  unfold execHubLoadComplete at h
  refine run_inCycle ?_ h
  try dsimp only
  repeat' first
      | (with_reducible exact InCycle.refl) | (intro _) | (with_reducible assumption) | (with_reducible apply hubLoad_inCycle)
      | split

theorem execLaneReady_inCycle (h : execLaneReady x1 s = .next t) : InCycle s t := by
  unfold execLaneReady at h
  refine run_inCycle ?_ h
  try dsimp only
  repeat' first
      | (with_reducible exact InCycle.refl) | (intro _) | (with_reducible assumption)
      | (with_reducible apply laneReady_inCycle) | split

theorem execCustodianStartComplete_inCycle (h : execCustodianStartComplete s = .next t) : InCycle s t := by
  unfold execCustodianStartComplete at h
  refine run_inCycle ?_ h
  try dsimp only
  repeat' first
      | (with_reducible exact InCycle.refl) | (intro _) | (with_reducible assumption)
      | (with_reducible apply custodianStart_inCycle) | split

theorem execResetInputRisingEdge_inCycle (h : execResetInputRisingEdge x1 x2 s = .next t) : InCycle s t := by
  unfold execResetInputRisingEdge at h
  refine run_inCycle ?_ h
  try dsimp only
  repeat' first
      | (with_reducible exact InCycle.refl) | (intro _) | (with_reducible assumption)
      | (with_reducible apply resetRise_inCycle) | (with_reducible apply advance_inCycle) | split

theorem execManagementConnectionClosed_inCycle (h : execManagementConnectionClosed x1 s = .next t) : InCycle s t := by
  unfold execManagementConnectionClosed at h
  refine run_inCycle ?_ h
  try dsimp only
  repeat' first
      | (with_reducible exact InCycle.refl) | (intro _) | (with_reducible assumption)
      | (with_reducible apply managementClosed_inCycle) | split

theorem execHostPortLinkChange_inCycle (h : execHostPortLinkChange x1 x2 s = .next t) : InCycle s t := by
  unfold execHostPortLinkChange at h
  refine run_inCycle ?_ h
  try dsimp only
  repeat' first
      | (with_reducible exact InCycle.refl) | (intro _) | (with_reducible assumption) | (with_reducible apply hostLink_inCycle)
      | split

theorem execMsixTableWrite_inCycle (h : execMsixTableWrite x1 x2 x3 x4 x5 s = .next t) : InCycle s t := by
  unfold execMsixTableWrite at h
  refine run_inCycle ?_ h
  try dsimp only
  repeat' first
      | (with_reducible exact InCycle.refl) | (intro _) | (with_reducible assumption)
      | (with_reducible apply msixWrite_inCycle) | split

theorem execThermalRecovery_inCycle (h : execThermalRecovery x1 s = .next t) : InCycle s t := by
  unfold execThermalRecovery at h
  refine runReady_inCycle ?_ h
  try dsimp only
  repeat' first
      | (with_reducible exact InCycle.refl) | (intro _) | (with_reducible assumption)
      | (with_reducible apply thermalRecovery_inCycle) | split

end Sys2Proof.Machine
end

