-- ==== Sys2Proof/Laws/State.lean ====
section
/-! SUPPORT. What each update of State changes and leaves: one lemma per field and update, so that no proof unfolds a record. -/

namespace Sys2Proof.Machine

variable {s : State}

@[simp] theorem setReg_clk {p i off v} : (setReg p i off v s).clk = s.clk := rfl
@[simp] theorem setReg_regs {p i off v} : (setReg p i off v s).regs = Sparse.put (keyReset (regKey p i off)) (regKey p i off) v s.regs := rfl
@[simp] theorem setReg_priv {p i off v} : (setReg p i off v s).priv = s.priv := rfl
@[simp] theorem setReg_lanePriv {p i off v} : (setReg p i off v s).lanePriv = s.lanePriv := rfl
@[simp] theorem setReg_hubCnt {p i off v} : (setReg p i off v s).hubCnt = s.hubCnt := rfl
@[simp] theorem setReg_mem {p i off v} : (setReg p i off v s).mem = s.mem := rfl
@[simp] theorem setReg_link {p i off v} : (setReg p i off v s).link = s.link := rfl
@[simp] theorem setReg_servo {p i off v} : (setReg p i off v s).servo = s.servo := rfl
@[simp] theorem setReg_line {p i off v} : (setReg p i off v s).line = s.line := rfl
@[simp] theorem setReg_ptp {p i off v} : (setReg p i off v s).ptp = s.ptp := rfl
@[simp] theorem setReg_carts {p i off v} : (setReg p i off v s).carts = s.carts := rfl
@[simp] theorem setReg_cus {p i off v} : (setReg p i off v s).cus = s.cus := rfl
@[simp] theorem setReg_vote {p i off v} : (setReg p i off v s).vote = s.vote := rfl
@[simp] theorem setReg_img {p i off v} : (setReg p i off v s).img = s.img := rfl
@[simp] theorem setReg_boot {p i off v} : (setReg p i off v s).boot = s.boot := rfl
@[simp] theorem setReg_pwr {p i off v} : (setReg p i off v s).pwr = s.pwr := rfl
@[simp] theorem setReg_enc {p i off v} : (setReg p i off v s).enc = s.enc := rfl
@[simp] theorem setReg_ffy {p i off v} : (setReg p i off v s).ffy = s.ffy := rfl
@[simp] theorem setReg_prg {p i off v} : (setReg p i off v s).prg = s.prg := rfl
@[simp] theorem setReg_stp {p i off v} : (setReg p i off v s).stp = s.stp := rfl
@[simp] theorem setReg_adc {p i off v} : (setReg p i off v s).adc = s.adc := rfl
@[simp] theorem setReg_wl {p i off v} : (setReg p i off v s).wl = s.wl := rfl
@[simp] theorem setReg_ring {p i off v} : (setReg p i off v s).ring = s.ring := rfl
@[simp] theorem setReg_play {p i off v} : (setReg p i off v s).play = s.play := rfl
@[simp] theorem setReg_sdp {p i off v} : (setReg p i off v s).sdp = s.sdp := rfl
@[simp] theorem setReg_plf {p i off v} : (setReg p i off v s).plf = s.plf := rfl
@[simp] theorem setReg_arms {p i off v} : (setReg p i off v s).arms = s.arms := rfl
@[simp] theorem setReg_armsNext {p i off v} : (setReg p i off v s).armsNext = s.armsNext := rfl
@[simp] theorem setReg_ident {p i off v} : (setReg p i off v s).ident = s.ident := rfl
@[simp] theorem setReg_mnt {p i off v} : (setReg p i off v s).mnt = s.mnt := rfl
@[simp] theorem setReg_tds {p i off v} : (setReg p i off v s).tds = s.tds := rfl
@[simp] theorem setReg_saf {p i off v} : (setReg p i off v s).saf = s.saf := rfl
@[simp] theorem setReg_sec {p i off v} : (setReg p i off v s).sec = s.sec := rfl
@[simp] theorem setReg_pending {p i off v} : (setReg p i off v s).pending = s.pending := rfl

@[simp] theorem setFld_clk {p i off hi lo v} : (setFld p i off hi lo v s).clk = s.clk := rfl
@[simp] theorem setFld_priv {p i off hi lo v} : (setFld p i off hi lo v s).priv = s.priv := rfl
@[simp] theorem setFld_lanePriv {p i off hi lo v} : (setFld p i off hi lo v s).lanePriv = s.lanePriv := rfl
@[simp] theorem setFld_hubCnt {p i off hi lo v} : (setFld p i off hi lo v s).hubCnt = s.hubCnt := rfl
@[simp] theorem setFld_mem {p i off hi lo v} : (setFld p i off hi lo v s).mem = s.mem := rfl
@[simp] theorem setFld_link {p i off hi lo v} : (setFld p i off hi lo v s).link = s.link := rfl
@[simp] theorem setFld_servo {p i off hi lo v} : (setFld p i off hi lo v s).servo = s.servo := rfl
@[simp] theorem setFld_line {p i off hi lo v} : (setFld p i off hi lo v s).line = s.line := rfl
@[simp] theorem setFld_ptp {p i off hi lo v} : (setFld p i off hi lo v s).ptp = s.ptp := rfl
@[simp] theorem setFld_carts {p i off hi lo v} : (setFld p i off hi lo v s).carts = s.carts := rfl
@[simp] theorem setFld_cus {p i off hi lo v} : (setFld p i off hi lo v s).cus = s.cus := rfl
@[simp] theorem setFld_vote {p i off hi lo v} : (setFld p i off hi lo v s).vote = s.vote := rfl
@[simp] theorem setFld_img {p i off hi lo v} : (setFld p i off hi lo v s).img = s.img := rfl
@[simp] theorem setFld_boot {p i off hi lo v} : (setFld p i off hi lo v s).boot = s.boot := rfl
@[simp] theorem setFld_pwr {p i off hi lo v} : (setFld p i off hi lo v s).pwr = s.pwr := rfl
@[simp] theorem setFld_enc {p i off hi lo v} : (setFld p i off hi lo v s).enc = s.enc := rfl
@[simp] theorem setFld_ffy {p i off hi lo v} : (setFld p i off hi lo v s).ffy = s.ffy := rfl
@[simp] theorem setFld_prg {p i off hi lo v} : (setFld p i off hi lo v s).prg = s.prg := rfl
@[simp] theorem setFld_stp {p i off hi lo v} : (setFld p i off hi lo v s).stp = s.stp := rfl
@[simp] theorem setFld_adc {p i off hi lo v} : (setFld p i off hi lo v s).adc = s.adc := rfl
@[simp] theorem setFld_wl {p i off hi lo v} : (setFld p i off hi lo v s).wl = s.wl := rfl
@[simp] theorem setFld_ring {p i off hi lo v} : (setFld p i off hi lo v s).ring = s.ring := rfl
@[simp] theorem setFld_play {p i off hi lo v} : (setFld p i off hi lo v s).play = s.play := rfl
@[simp] theorem setFld_sdp {p i off hi lo v} : (setFld p i off hi lo v s).sdp = s.sdp := rfl
@[simp] theorem setFld_plf {p i off hi lo v} : (setFld p i off hi lo v s).plf = s.plf := rfl
@[simp] theorem setFld_arms {p i off hi lo v} : (setFld p i off hi lo v s).arms = s.arms := rfl
@[simp] theorem setFld_armsNext {p i off hi lo v} : (setFld p i off hi lo v s).armsNext = s.armsNext := rfl
@[simp] theorem setFld_ident {p i off hi lo v} : (setFld p i off hi lo v s).ident = s.ident := rfl
@[simp] theorem setFld_mnt {p i off hi lo v} : (setFld p i off hi lo v s).mnt = s.mnt := rfl
@[simp] theorem setFld_tds {p i off hi lo v} : (setFld p i off hi lo v s).tds = s.tds := rfl
@[simp] theorem setFld_saf {p i off hi lo v} : (setFld p i off hi lo v s).saf = s.saf := rfl
@[simp] theorem setFld_sec {p i off hi lo v} : (setFld p i off hi lo v s).sec = s.sec := rfl
@[simp] theorem setFld_pending {p i off hi lo v} : (setFld p i off hi lo v s).pending = s.pending := rfl

@[simp] theorem setFlag_clk {p i off b x} : (setFlag p i off b x s).clk = s.clk := rfl
@[simp] theorem setFlag_priv {p i off b x} : (setFlag p i off b x s).priv = s.priv := rfl
@[simp] theorem setFlag_lanePriv {p i off b x} : (setFlag p i off b x s).lanePriv = s.lanePriv := rfl
@[simp] theorem setFlag_hubCnt {p i off b x} : (setFlag p i off b x s).hubCnt = s.hubCnt := rfl
@[simp] theorem setFlag_mem {p i off b x} : (setFlag p i off b x s).mem = s.mem := rfl
@[simp] theorem setFlag_link {p i off b x} : (setFlag p i off b x s).link = s.link := rfl
@[simp] theorem setFlag_servo {p i off b x} : (setFlag p i off b x s).servo = s.servo := rfl
@[simp] theorem setFlag_line {p i off b x} : (setFlag p i off b x s).line = s.line := rfl
@[simp] theorem setFlag_ptp {p i off b x} : (setFlag p i off b x s).ptp = s.ptp := rfl
@[simp] theorem setFlag_carts {p i off b x} : (setFlag p i off b x s).carts = s.carts := rfl
@[simp] theorem setFlag_cus {p i off b x} : (setFlag p i off b x s).cus = s.cus := rfl
@[simp] theorem setFlag_vote {p i off b x} : (setFlag p i off b x s).vote = s.vote := rfl
@[simp] theorem setFlag_img {p i off b x} : (setFlag p i off b x s).img = s.img := rfl
@[simp] theorem setFlag_boot {p i off b x} : (setFlag p i off b x s).boot = s.boot := rfl
@[simp] theorem setFlag_pwr {p i off b x} : (setFlag p i off b x s).pwr = s.pwr := rfl
@[simp] theorem setFlag_enc {p i off b x} : (setFlag p i off b x s).enc = s.enc := rfl
@[simp] theorem setFlag_ffy {p i off b x} : (setFlag p i off b x s).ffy = s.ffy := rfl
@[simp] theorem setFlag_prg {p i off b x} : (setFlag p i off b x s).prg = s.prg := rfl
@[simp] theorem setFlag_stp {p i off b x} : (setFlag p i off b x s).stp = s.stp := rfl
@[simp] theorem setFlag_adc {p i off b x} : (setFlag p i off b x s).adc = s.adc := rfl
@[simp] theorem setFlag_wl {p i off b x} : (setFlag p i off b x s).wl = s.wl := rfl
@[simp] theorem setFlag_ring {p i off b x} : (setFlag p i off b x s).ring = s.ring := rfl
@[simp] theorem setFlag_play {p i off b x} : (setFlag p i off b x s).play = s.play := rfl
@[simp] theorem setFlag_sdp {p i off b x} : (setFlag p i off b x s).sdp = s.sdp := rfl
@[simp] theorem setFlag_plf {p i off b x} : (setFlag p i off b x s).plf = s.plf := rfl
@[simp] theorem setFlag_arms {p i off b x} : (setFlag p i off b x s).arms = s.arms := rfl
@[simp] theorem setFlag_armsNext {p i off b x} : (setFlag p i off b x s).armsNext = s.armsNext := rfl
@[simp] theorem setFlag_ident {p i off b x} : (setFlag p i off b x s).ident = s.ident := rfl
@[simp] theorem setFlag_mnt {p i off b x} : (setFlag p i off b x s).mnt = s.mnt := rfl
@[simp] theorem setFlag_tds {p i off b x} : (setFlag p i off b x s).tds = s.tds := rfl
@[simp] theorem setFlag_saf {p i off b x} : (setFlag p i off b x s).saf = s.saf := rfl
@[simp] theorem setFlag_sec {p i off b x} : (setFlag p i off b x s).sec = s.sec := rfl
@[simp] theorem setFlag_pending {p i off b x} : (setFlag p i off b x s).pending = s.pending := rfl

@[simp] theorem setByte_clk {a b} : (setByte a b s).clk = s.clk := rfl
@[simp] theorem setByte_regs {a b} : (setByte a b s).regs = s.regs := rfl
@[simp] theorem setByte_priv {a b} : (setByte a b s).priv = s.priv := rfl
@[simp] theorem setByte_lanePriv {a b} : (setByte a b s).lanePriv = s.lanePriv := rfl
@[simp] theorem setByte_hubCnt {a b} : (setByte a b s).hubCnt = s.hubCnt := rfl
@[simp] theorem setByte_mem {a b} : (setByte a b s).mem = Sparse.put 0 a b s.mem := rfl
@[simp] theorem setByte_link {a b} : (setByte a b s).link = s.link := rfl
@[simp] theorem setByte_servo {a b} : (setByte a b s).servo = s.servo := rfl
@[simp] theorem setByte_line {a b} : (setByte a b s).line = s.line := rfl
@[simp] theorem setByte_ptp {a b} : (setByte a b s).ptp = s.ptp := rfl
@[simp] theorem setByte_carts {a b} : (setByte a b s).carts = s.carts := rfl
@[simp] theorem setByte_cus {a b} : (setByte a b s).cus = s.cus := rfl
@[simp] theorem setByte_vote {a b} : (setByte a b s).vote = s.vote := rfl
@[simp] theorem setByte_img {a b} : (setByte a b s).img = s.img := rfl
@[simp] theorem setByte_boot {a b} : (setByte a b s).boot = s.boot := rfl
@[simp] theorem setByte_pwr {a b} : (setByte a b s).pwr = s.pwr := rfl
@[simp] theorem setByte_enc {a b} : (setByte a b s).enc = s.enc := rfl
@[simp] theorem setByte_ffy {a b} : (setByte a b s).ffy = s.ffy := rfl
@[simp] theorem setByte_prg {a b} : (setByte a b s).prg = s.prg := rfl
@[simp] theorem setByte_stp {a b} : (setByte a b s).stp = s.stp := rfl
@[simp] theorem setByte_adc {a b} : (setByte a b s).adc = s.adc := rfl
@[simp] theorem setByte_wl {a b} : (setByte a b s).wl = s.wl := rfl
@[simp] theorem setByte_ring {a b} : (setByte a b s).ring = s.ring := rfl
@[simp] theorem setByte_play {a b} : (setByte a b s).play = s.play := rfl
@[simp] theorem setByte_sdp {a b} : (setByte a b s).sdp = s.sdp := rfl
@[simp] theorem setByte_plf {a b} : (setByte a b s).plf = s.plf := rfl
@[simp] theorem setByte_arms {a b} : (setByte a b s).arms = s.arms := rfl
@[simp] theorem setByte_armsNext {a b} : (setByte a b s).armsNext = s.armsNext := rfl
@[simp] theorem setByte_ident {a b} : (setByte a b s).ident = s.ident := rfl
@[simp] theorem setByte_mnt {a b} : (setByte a b s).mnt = s.mnt := rfl
@[simp] theorem setByte_tds {a b} : (setByte a b s).tds = s.tds := rfl
@[simp] theorem setByte_saf {a b} : (setByte a b s).saf = s.saf := rfl
@[simp] theorem setByte_sec {a b} : (setByte a b s).sec = s.sec := rfl
@[simp] theorem setByte_pending {a b} : (setByte a b s).pending = s.pending := rfl

@[simp] theorem returnRead_clk {q v} : (returnRead q v s).clk = s.clk := rfl
@[simp] theorem returnRead_regs {q v} : (returnRead q v s).regs = s.regs := rfl
@[simp] theorem returnRead_priv {q v} : (returnRead q v s).priv = s.priv := rfl
@[simp] theorem returnRead_lanePriv {q v} : (returnRead q v s).lanePriv = s.lanePriv := rfl
@[simp] theorem returnRead_hubCnt {q v} : (returnRead q v s).hubCnt = s.hubCnt := rfl
@[simp] theorem returnRead_mem {q v} : (returnRead q v s).mem = s.mem := rfl
@[simp] theorem returnRead_link {q v} : (returnRead q v s).link = { s.link with readData := vset s.link.readData q v } := rfl
@[simp] theorem returnRead_servo {q v} : (returnRead q v s).servo = s.servo := rfl
@[simp] theorem returnRead_line {q v} : (returnRead q v s).line = s.line := rfl
@[simp] theorem returnRead_ptp {q v} : (returnRead q v s).ptp = s.ptp := rfl
@[simp] theorem returnRead_carts {q v} : (returnRead q v s).carts = s.carts := rfl
@[simp] theorem returnRead_cus {q v} : (returnRead q v s).cus = s.cus := rfl
@[simp] theorem returnRead_vote {q v} : (returnRead q v s).vote = s.vote := rfl
@[simp] theorem returnRead_img {q v} : (returnRead q v s).img = s.img := rfl
@[simp] theorem returnRead_boot {q v} : (returnRead q v s).boot = s.boot := rfl
@[simp] theorem returnRead_pwr {q v} : (returnRead q v s).pwr = s.pwr := rfl
@[simp] theorem returnRead_enc {q v} : (returnRead q v s).enc = s.enc := rfl
@[simp] theorem returnRead_ffy {q v} : (returnRead q v s).ffy = s.ffy := rfl
@[simp] theorem returnRead_prg {q v} : (returnRead q v s).prg = s.prg := rfl
@[simp] theorem returnRead_stp {q v} : (returnRead q v s).stp = s.stp := rfl
@[simp] theorem returnRead_adc {q v} : (returnRead q v s).adc = s.adc := rfl
@[simp] theorem returnRead_wl {q v} : (returnRead q v s).wl = s.wl := rfl
@[simp] theorem returnRead_ring {q v} : (returnRead q v s).ring = s.ring := rfl
@[simp] theorem returnRead_play {q v} : (returnRead q v s).play = s.play := rfl
@[simp] theorem returnRead_sdp {q v} : (returnRead q v s).sdp = s.sdp := rfl
@[simp] theorem returnRead_plf {q v} : (returnRead q v s).plf = s.plf := rfl
@[simp] theorem returnRead_arms {q v} : (returnRead q v s).arms = s.arms := rfl
@[simp] theorem returnRead_armsNext {q v} : (returnRead q v s).armsNext = s.armsNext := rfl
@[simp] theorem returnRead_ident {q v} : (returnRead q v s).ident = s.ident := rfl
@[simp] theorem returnRead_mnt {q v} : (returnRead q v s).mnt = s.mnt := rfl
@[simp] theorem returnRead_tds {q v} : (returnRead q v s).tds = s.tds := rfl
@[simp] theorem returnRead_saf {q v} : (returnRead q v s).saf = s.saf := rfl
@[simp] theorem returnRead_sec {q v} : (returnRead q v s).sec = s.sec := rfl
@[simp] theorem returnRead_pending {q v} : (returnRead q v s).pending = s.pending := rfl

@[simp] theorem modCart_clk {c f} : (modCart c f s).clk = s.clk := rfl
@[simp] theorem modCart_regs {c f} : (modCart c f s).regs = s.regs := rfl
@[simp] theorem modCart_priv {c f} : (modCart c f s).priv = s.priv := rfl
@[simp] theorem modCart_lanePriv {c f} : (modCart c f s).lanePriv = s.lanePriv := rfl
@[simp] theorem modCart_hubCnt {c f} : (modCart c f s).hubCnt = s.hubCnt := rfl
@[simp] theorem modCart_mem {c f} : (modCart c f s).mem = s.mem := rfl
@[simp] theorem modCart_link {c f} : (modCart c f s).link = s.link := rfl
@[simp] theorem modCart_servo {c f} : (modCart c f s).servo = s.servo := rfl
@[simp] theorem modCart_line {c f} : (modCart c f s).line = s.line := rfl
@[simp] theorem modCart_ptp {c f} : (modCart c f s).ptp = s.ptp := rfl
@[simp] theorem modCart_carts {c f} : (modCart c f s).carts = vmod s.carts c f := rfl
@[simp] theorem modCart_cus {c f} : (modCart c f s).cus = s.cus := rfl
@[simp] theorem modCart_vote {c f} : (modCart c f s).vote = s.vote := rfl
@[simp] theorem modCart_img {c f} : (modCart c f s).img = s.img := rfl
@[simp] theorem modCart_boot {c f} : (modCart c f s).boot = s.boot := rfl
@[simp] theorem modCart_pwr {c f} : (modCart c f s).pwr = s.pwr := rfl
@[simp] theorem modCart_enc {c f} : (modCart c f s).enc = s.enc := rfl
@[simp] theorem modCart_ffy {c f} : (modCart c f s).ffy = s.ffy := rfl
@[simp] theorem modCart_prg {c f} : (modCart c f s).prg = s.prg := rfl
@[simp] theorem modCart_stp {c f} : (modCart c f s).stp = s.stp := rfl
@[simp] theorem modCart_adc {c f} : (modCart c f s).adc = s.adc := rfl
@[simp] theorem modCart_wl {c f} : (modCart c f s).wl = s.wl := rfl
@[simp] theorem modCart_ring {c f} : (modCart c f s).ring = s.ring := rfl
@[simp] theorem modCart_play {c f} : (modCart c f s).play = s.play := rfl
@[simp] theorem modCart_sdp {c f} : (modCart c f s).sdp = s.sdp := rfl
@[simp] theorem modCart_plf {c f} : (modCart c f s).plf = s.plf := rfl
@[simp] theorem modCart_arms {c f} : (modCart c f s).arms = s.arms := rfl
@[simp] theorem modCart_armsNext {c f} : (modCart c f s).armsNext = s.armsNext := rfl
@[simp] theorem modCart_ident {c f} : (modCart c f s).ident = s.ident := rfl
@[simp] theorem modCart_mnt {c f} : (modCart c f s).mnt = s.mnt := rfl
@[simp] theorem modCart_tds {c f} : (modCart c f s).tds = s.tds := rfl
@[simp] theorem modCart_saf {c f} : (modCart c f s).saf = s.saf := rfl
@[simp] theorem modCart_sec {c f} : (modCart c f s).sec = s.sec := rfl
@[simp] theorem modCart_pending {c f} : (modCart c f s).pending = s.pending := rfl

@[simp] theorem modServo_clk {f} : (modServo f s).clk = s.clk := rfl
@[simp] theorem modServo_regs {f} : (modServo f s).regs = s.regs := rfl
@[simp] theorem modServo_priv {f} : (modServo f s).priv = s.priv := rfl
@[simp] theorem modServo_lanePriv {f} : (modServo f s).lanePriv = s.lanePriv := rfl
@[simp] theorem modServo_hubCnt {f} : (modServo f s).hubCnt = s.hubCnt := rfl
@[simp] theorem modServo_mem {f} : (modServo f s).mem = s.mem := rfl
@[simp] theorem modServo_link {f} : (modServo f s).link = s.link := rfl
@[simp] theorem modServo_servo {f} : (modServo f s).servo = f s.servo := rfl
@[simp] theorem modServo_line {f} : (modServo f s).line = s.line := rfl
@[simp] theorem modServo_ptp {f} : (modServo f s).ptp = s.ptp := rfl
@[simp] theorem modServo_carts {f} : (modServo f s).carts = s.carts := rfl
@[simp] theorem modServo_cus {f} : (modServo f s).cus = s.cus := rfl
@[simp] theorem modServo_vote {f} : (modServo f s).vote = s.vote := rfl
@[simp] theorem modServo_img {f} : (modServo f s).img = s.img := rfl
@[simp] theorem modServo_boot {f} : (modServo f s).boot = s.boot := rfl
@[simp] theorem modServo_pwr {f} : (modServo f s).pwr = s.pwr := rfl
@[simp] theorem modServo_enc {f} : (modServo f s).enc = s.enc := rfl
@[simp] theorem modServo_ffy {f} : (modServo f s).ffy = s.ffy := rfl
@[simp] theorem modServo_prg {f} : (modServo f s).prg = s.prg := rfl
@[simp] theorem modServo_stp {f} : (modServo f s).stp = s.stp := rfl
@[simp] theorem modServo_adc {f} : (modServo f s).adc = s.adc := rfl
@[simp] theorem modServo_wl {f} : (modServo f s).wl = s.wl := rfl
@[simp] theorem modServo_ring {f} : (modServo f s).ring = s.ring := rfl
@[simp] theorem modServo_play {f} : (modServo f s).play = s.play := rfl
@[simp] theorem modServo_sdp {f} : (modServo f s).sdp = s.sdp := rfl
@[simp] theorem modServo_plf {f} : (modServo f s).plf = s.plf := rfl
@[simp] theorem modServo_arms {f} : (modServo f s).arms = s.arms := rfl
@[simp] theorem modServo_armsNext {f} : (modServo f s).armsNext = s.armsNext := rfl
@[simp] theorem modServo_ident {f} : (modServo f s).ident = s.ident := rfl
@[simp] theorem modServo_mnt {f} : (modServo f s).mnt = s.mnt := rfl
@[simp] theorem modServo_tds {f} : (modServo f s).tds = s.tds := rfl
@[simp] theorem modServo_saf {f} : (modServo f s).saf = s.saf := rfl
@[simp] theorem modServo_sec {f} : (modServo f s).sec = s.sec := rfl
@[simp] theorem modServo_pending {f} : (modServo f s).pending = s.pending := rfl

@[simp] theorem modLine_clk {f} : (modLine f s).clk = s.clk := rfl
@[simp] theorem modLine_regs {f} : (modLine f s).regs = s.regs := rfl
@[simp] theorem modLine_priv {f} : (modLine f s).priv = s.priv := rfl
@[simp] theorem modLine_lanePriv {f} : (modLine f s).lanePriv = s.lanePriv := rfl
@[simp] theorem modLine_hubCnt {f} : (modLine f s).hubCnt = s.hubCnt := rfl
@[simp] theorem modLine_mem {f} : (modLine f s).mem = s.mem := rfl
@[simp] theorem modLine_link {f} : (modLine f s).link = s.link := rfl
@[simp] theorem modLine_servo {f} : (modLine f s).servo = s.servo := rfl
@[simp] theorem modLine_line {f} : (modLine f s).line = f s.line := rfl
@[simp] theorem modLine_ptp {f} : (modLine f s).ptp = s.ptp := rfl
@[simp] theorem modLine_carts {f} : (modLine f s).carts = s.carts := rfl
@[simp] theorem modLine_cus {f} : (modLine f s).cus = s.cus := rfl
@[simp] theorem modLine_vote {f} : (modLine f s).vote = s.vote := rfl
@[simp] theorem modLine_img {f} : (modLine f s).img = s.img := rfl
@[simp] theorem modLine_boot {f} : (modLine f s).boot = s.boot := rfl
@[simp] theorem modLine_pwr {f} : (modLine f s).pwr = s.pwr := rfl
@[simp] theorem modLine_enc {f} : (modLine f s).enc = s.enc := rfl
@[simp] theorem modLine_ffy {f} : (modLine f s).ffy = s.ffy := rfl
@[simp] theorem modLine_prg {f} : (modLine f s).prg = s.prg := rfl
@[simp] theorem modLine_stp {f} : (modLine f s).stp = s.stp := rfl
@[simp] theorem modLine_adc {f} : (modLine f s).adc = s.adc := rfl
@[simp] theorem modLine_wl {f} : (modLine f s).wl = s.wl := rfl
@[simp] theorem modLine_ring {f} : (modLine f s).ring = s.ring := rfl
@[simp] theorem modLine_play {f} : (modLine f s).play = s.play := rfl
@[simp] theorem modLine_sdp {f} : (modLine f s).sdp = s.sdp := rfl
@[simp] theorem modLine_plf {f} : (modLine f s).plf = s.plf := rfl
@[simp] theorem modLine_arms {f} : (modLine f s).arms = s.arms := rfl
@[simp] theorem modLine_armsNext {f} : (modLine f s).armsNext = s.armsNext := rfl
@[simp] theorem modLine_ident {f} : (modLine f s).ident = s.ident := rfl
@[simp] theorem modLine_mnt {f} : (modLine f s).mnt = s.mnt := rfl
@[simp] theorem modLine_tds {f} : (modLine f s).tds = s.tds := rfl
@[simp] theorem modLine_saf {f} : (modLine f s).saf = s.saf := rfl
@[simp] theorem modLine_sec {f} : (modLine f s).sec = s.sec := rfl
@[simp] theorem modLine_pending {f} : (modLine f s).pending = s.pending := rfl

@[simp] theorem modPair_clk {p f} : (modPair p f s).clk = s.clk := rfl
@[simp] theorem modPair_regs {p f} : (modPair p f s).regs = s.regs := rfl
@[simp] theorem modPair_priv {p f} : (modPair p f s).priv = s.priv := rfl
@[simp] theorem modPair_lanePriv {p f} : (modPair p f s).lanePriv = s.lanePriv := rfl
@[simp] theorem modPair_hubCnt {p f} : (modPair p f s).hubCnt = s.hubCnt := rfl
@[simp] theorem modPair_mem {p f} : (modPair p f s).mem = s.mem := rfl
@[simp] theorem modPair_link {p f} : (modPair p f s).link = s.link := rfl
@[simp] theorem modPair_servo {p f} : (modPair p f s).servo = s.servo := rfl
@[simp] theorem modPair_line {p f} : (modPair p f s).line = s.line := rfl
@[simp] theorem modPair_ptp {p f} : (modPair p f s).ptp = s.ptp := rfl
@[simp] theorem modPair_carts {p f} : (modPair p f s).carts = s.carts := rfl
@[simp] theorem modPair_cus {p f} : (modPair p f s).cus = s.cus := rfl
@[simp] theorem modPair_vote {p f} : (modPair p f s).vote = s.vote := rfl
@[simp] theorem modPair_img {p f} : (modPair p f s).img = s.img := rfl
@[simp] theorem modPair_boot {p f} : (modPair p f s).boot = s.boot := rfl
@[simp] theorem modPair_pwr {p f} : (modPair p f s).pwr = s.pwr := rfl
@[simp] theorem modPair_enc {p f} : (modPair p f s).enc = s.enc := rfl
@[simp] theorem modPair_ffy {p f} : (modPair p f s).ffy = s.ffy := rfl
@[simp] theorem modPair_prg {p f} : (modPair p f s).prg = s.prg := rfl
@[simp] theorem modPair_stp {p f} : (modPair p f s).stp = s.stp := rfl
@[simp] theorem modPair_adc {p f} : (modPair p f s).adc = { s.adc with pair := vmod s.adc.pair p f } := rfl
@[simp] theorem modPair_wl {p f} : (modPair p f s).wl = s.wl := rfl
@[simp] theorem modPair_ring {p f} : (modPair p f s).ring = s.ring := rfl
@[simp] theorem modPair_play {p f} : (modPair p f s).play = s.play := rfl
@[simp] theorem modPair_sdp {p f} : (modPair p f s).sdp = s.sdp := rfl
@[simp] theorem modPair_plf {p f} : (modPair p f s).plf = s.plf := rfl
@[simp] theorem modPair_arms {p f} : (modPair p f s).arms = s.arms := rfl
@[simp] theorem modPair_armsNext {p f} : (modPair p f s).armsNext = s.armsNext := rfl
@[simp] theorem modPair_ident {p f} : (modPair p f s).ident = s.ident := rfl
@[simp] theorem modPair_mnt {p f} : (modPair p f s).mnt = s.mnt := rfl
@[simp] theorem modPair_tds {p f} : (modPair p f s).tds = s.tds := rfl
@[simp] theorem modPair_saf {p f} : (modPair p f s).saf = s.saf := rfl
@[simp] theorem modPair_sec {p f} : (modPair p f s).sec = s.sec := rfl
@[simp] theorem modPair_pending {p f} : (modPair p f s).pending = s.pending := rfl

@[simp] theorem modConv_clk {p c f} : (modConv p c f s).clk = s.clk := rfl
@[simp] theorem modConv_regs {p c f} : (modConv p c f s).regs = s.regs := rfl
@[simp] theorem modConv_priv {p c f} : (modConv p c f s).priv = s.priv := rfl
@[simp] theorem modConv_lanePriv {p c f} : (modConv p c f s).lanePriv = s.lanePriv := rfl
@[simp] theorem modConv_hubCnt {p c f} : (modConv p c f s).hubCnt = s.hubCnt := rfl
@[simp] theorem modConv_mem {p c f} : (modConv p c f s).mem = s.mem := rfl
@[simp] theorem modConv_link {p c f} : (modConv p c f s).link = s.link := rfl
@[simp] theorem modConv_servo {p c f} : (modConv p c f s).servo = s.servo := rfl
@[simp] theorem modConv_line {p c f} : (modConv p c f s).line = s.line := rfl
@[simp] theorem modConv_ptp {p c f} : (modConv p c f s).ptp = s.ptp := rfl
@[simp] theorem modConv_carts {p c f} : (modConv p c f s).carts = s.carts := rfl
@[simp] theorem modConv_cus {p c f} : (modConv p c f s).cus = s.cus := rfl
@[simp] theorem modConv_vote {p c f} : (modConv p c f s).vote = s.vote := rfl
@[simp] theorem modConv_img {p c f} : (modConv p c f s).img = s.img := rfl
@[simp] theorem modConv_boot {p c f} : (modConv p c f s).boot = s.boot := rfl
@[simp] theorem modConv_pwr {p c f} : (modConv p c f s).pwr = s.pwr := rfl
@[simp] theorem modConv_enc {p c f} : (modConv p c f s).enc = s.enc := rfl
@[simp] theorem modConv_ffy {p c f} : (modConv p c f s).ffy = s.ffy := rfl
@[simp] theorem modConv_prg {p c f} : (modConv p c f s).prg = s.prg := rfl
@[simp] theorem modConv_stp {p c f} : (modConv p c f s).stp = s.stp := rfl
@[simp] theorem modConv_wl {p c f} : (modConv p c f s).wl = s.wl := rfl
@[simp] theorem modConv_ring {p c f} : (modConv p c f s).ring = s.ring := rfl
@[simp] theorem modConv_play {p c f} : (modConv p c f s).play = s.play := rfl
@[simp] theorem modConv_sdp {p c f} : (modConv p c f s).sdp = s.sdp := rfl
@[simp] theorem modConv_plf {p c f} : (modConv p c f s).plf = s.plf := rfl
@[simp] theorem modConv_arms {p c f} : (modConv p c f s).arms = s.arms := rfl
@[simp] theorem modConv_armsNext {p c f} : (modConv p c f s).armsNext = s.armsNext := rfl
@[simp] theorem modConv_ident {p c f} : (modConv p c f s).ident = s.ident := rfl
@[simp] theorem modConv_mnt {p c f} : (modConv p c f s).mnt = s.mnt := rfl
@[simp] theorem modConv_tds {p c f} : (modConv p c f s).tds = s.tds := rfl
@[simp] theorem modConv_saf {p c f} : (modConv p c f s).saf = s.saf := rfl
@[simp] theorem modConv_sec {p c f} : (modConv p c f s).sec = s.sec := rfl
@[simp] theorem modConv_pending {p c f} : (modConv p c f s).pending = s.pending := rfl

@[simp] theorem modFfy_clk {n f} : (modFfy n f s).clk = s.clk := rfl
@[simp] theorem modFfy_regs {n f} : (modFfy n f s).regs = s.regs := rfl
@[simp] theorem modFfy_priv {n f} : (modFfy n f s).priv = s.priv := rfl
@[simp] theorem modFfy_lanePriv {n f} : (modFfy n f s).lanePriv = s.lanePriv := rfl
@[simp] theorem modFfy_hubCnt {n f} : (modFfy n f s).hubCnt = s.hubCnt := rfl
@[simp] theorem modFfy_mem {n f} : (modFfy n f s).mem = s.mem := rfl
@[simp] theorem modFfy_link {n f} : (modFfy n f s).link = s.link := rfl
@[simp] theorem modFfy_servo {n f} : (modFfy n f s).servo = s.servo := rfl
@[simp] theorem modFfy_line {n f} : (modFfy n f s).line = s.line := rfl
@[simp] theorem modFfy_ptp {n f} : (modFfy n f s).ptp = s.ptp := rfl
@[simp] theorem modFfy_carts {n f} : (modFfy n f s).carts = s.carts := rfl
@[simp] theorem modFfy_cus {n f} : (modFfy n f s).cus = s.cus := rfl
@[simp] theorem modFfy_vote {n f} : (modFfy n f s).vote = s.vote := rfl
@[simp] theorem modFfy_img {n f} : (modFfy n f s).img = s.img := rfl
@[simp] theorem modFfy_boot {n f} : (modFfy n f s).boot = s.boot := rfl
@[simp] theorem modFfy_pwr {n f} : (modFfy n f s).pwr = s.pwr := rfl
@[simp] theorem modFfy_enc {n f} : (modFfy n f s).enc = s.enc := rfl
@[simp] theorem modFfy_ffy {n f} : (modFfy n f s).ffy = vmod s.ffy n f := rfl
@[simp] theorem modFfy_prg {n f} : (modFfy n f s).prg = s.prg := rfl
@[simp] theorem modFfy_stp {n f} : (modFfy n f s).stp = s.stp := rfl
@[simp] theorem modFfy_adc {n f} : (modFfy n f s).adc = s.adc := rfl
@[simp] theorem modFfy_wl {n f} : (modFfy n f s).wl = s.wl := rfl
@[simp] theorem modFfy_ring {n f} : (modFfy n f s).ring = s.ring := rfl
@[simp] theorem modFfy_play {n f} : (modFfy n f s).play = s.play := rfl
@[simp] theorem modFfy_sdp {n f} : (modFfy n f s).sdp = s.sdp := rfl
@[simp] theorem modFfy_plf {n f} : (modFfy n f s).plf = s.plf := rfl
@[simp] theorem modFfy_arms {n f} : (modFfy n f s).arms = s.arms := rfl
@[simp] theorem modFfy_armsNext {n f} : (modFfy n f s).armsNext = s.armsNext := rfl
@[simp] theorem modFfy_ident {n f} : (modFfy n f s).ident = s.ident := rfl
@[simp] theorem modFfy_mnt {n f} : (modFfy n f s).mnt = s.mnt := rfl
@[simp] theorem modFfy_tds {n f} : (modFfy n f s).tds = s.tds := rfl
@[simp] theorem modFfy_saf {n f} : (modFfy n f s).saf = s.saf := rfl
@[simp] theorem modFfy_sec {n f} : (modFfy n f s).sec = s.sec := rfl
@[simp] theorem modFfy_pending {n f} : (modFfy n f s).pending = s.pending := rfl

@[simp] theorem modEnc_clk {n f} : (modEnc n f s).clk = s.clk := rfl
@[simp] theorem modEnc_regs {n f} : (modEnc n f s).regs = s.regs := rfl
@[simp] theorem modEnc_priv {n f} : (modEnc n f s).priv = s.priv := rfl
@[simp] theorem modEnc_lanePriv {n f} : (modEnc n f s).lanePriv = s.lanePriv := rfl
@[simp] theorem modEnc_hubCnt {n f} : (modEnc n f s).hubCnt = s.hubCnt := rfl
@[simp] theorem modEnc_mem {n f} : (modEnc n f s).mem = s.mem := rfl
@[simp] theorem modEnc_link {n f} : (modEnc n f s).link = s.link := rfl
@[simp] theorem modEnc_servo {n f} : (modEnc n f s).servo = s.servo := rfl
@[simp] theorem modEnc_line {n f} : (modEnc n f s).line = s.line := rfl
@[simp] theorem modEnc_ptp {n f} : (modEnc n f s).ptp = s.ptp := rfl
@[simp] theorem modEnc_carts {n f} : (modEnc n f s).carts = s.carts := rfl
@[simp] theorem modEnc_cus {n f} : (modEnc n f s).cus = s.cus := rfl
@[simp] theorem modEnc_vote {n f} : (modEnc n f s).vote = s.vote := rfl
@[simp] theorem modEnc_img {n f} : (modEnc n f s).img = s.img := rfl
@[simp] theorem modEnc_boot {n f} : (modEnc n f s).boot = s.boot := rfl
@[simp] theorem modEnc_pwr {n f} : (modEnc n f s).pwr = s.pwr := rfl
@[simp] theorem modEnc_enc {n f} : (modEnc n f s).enc = vmod s.enc n f := rfl
@[simp] theorem modEnc_ffy {n f} : (modEnc n f s).ffy = s.ffy := rfl
@[simp] theorem modEnc_prg {n f} : (modEnc n f s).prg = s.prg := rfl
@[simp] theorem modEnc_stp {n f} : (modEnc n f s).stp = s.stp := rfl
@[simp] theorem modEnc_adc {n f} : (modEnc n f s).adc = s.adc := rfl
@[simp] theorem modEnc_wl {n f} : (modEnc n f s).wl = s.wl := rfl
@[simp] theorem modEnc_ring {n f} : (modEnc n f s).ring = s.ring := rfl
@[simp] theorem modEnc_play {n f} : (modEnc n f s).play = s.play := rfl
@[simp] theorem modEnc_sdp {n f} : (modEnc n f s).sdp = s.sdp := rfl
@[simp] theorem modEnc_plf {n f} : (modEnc n f s).plf = s.plf := rfl
@[simp] theorem modEnc_arms {n f} : (modEnc n f s).arms = s.arms := rfl
@[simp] theorem modEnc_armsNext {n f} : (modEnc n f s).armsNext = s.armsNext := rfl
@[simp] theorem modEnc_ident {n f} : (modEnc n f s).ident = s.ident := rfl
@[simp] theorem modEnc_mnt {n f} : (modEnc n f s).mnt = s.mnt := rfl
@[simp] theorem modEnc_tds {n f} : (modEnc n f s).tds = s.tds := rfl
@[simp] theorem modEnc_saf {n f} : (modEnc n f s).saf = s.saf := rfl
@[simp] theorem modEnc_sec {n f} : (modEnc n f s).sec = s.sec := rfl
@[simp] theorem modEnc_pending {n f} : (modEnc n f s).pending = s.pending := rfl

@[simp] theorem modGen_clk {n f} : (modGen n f s).clk = s.clk := rfl
@[simp] theorem modGen_regs {n f} : (modGen n f s).regs = s.regs := rfl
@[simp] theorem modGen_priv {n f} : (modGen n f s).priv = s.priv := rfl
@[simp] theorem modGen_lanePriv {n f} : (modGen n f s).lanePriv = s.lanePriv := rfl
@[simp] theorem modGen_hubCnt {n f} : (modGen n f s).hubCnt = s.hubCnt := rfl
@[simp] theorem modGen_mem {n f} : (modGen n f s).mem = s.mem := rfl
@[simp] theorem modGen_link {n f} : (modGen n f s).link = s.link := rfl
@[simp] theorem modGen_servo {n f} : (modGen n f s).servo = s.servo := rfl
@[simp] theorem modGen_line {n f} : (modGen n f s).line = s.line := rfl
@[simp] theorem modGen_ptp {n f} : (modGen n f s).ptp = s.ptp := rfl
@[simp] theorem modGen_carts {n f} : (modGen n f s).carts = s.carts := rfl
@[simp] theorem modGen_cus {n f} : (modGen n f s).cus = s.cus := rfl
@[simp] theorem modGen_vote {n f} : (modGen n f s).vote = s.vote := rfl
@[simp] theorem modGen_img {n f} : (modGen n f s).img = s.img := rfl
@[simp] theorem modGen_boot {n f} : (modGen n f s).boot = s.boot := rfl
@[simp] theorem modGen_pwr {n f} : (modGen n f s).pwr = s.pwr := rfl
@[simp] theorem modGen_enc {n f} : (modGen n f s).enc = s.enc := rfl
@[simp] theorem modGen_ffy {n f} : (modGen n f s).ffy = s.ffy := rfl
@[simp] theorem modGen_prg {n f} : (modGen n f s).prg = vmod s.prg n f := rfl
@[simp] theorem modGen_stp {n f} : (modGen n f s).stp = s.stp := rfl
@[simp] theorem modGen_adc {n f} : (modGen n f s).adc = s.adc := rfl
@[simp] theorem modGen_wl {n f} : (modGen n f s).wl = s.wl := rfl
@[simp] theorem modGen_ring {n f} : (modGen n f s).ring = s.ring := rfl
@[simp] theorem modGen_play {n f} : (modGen n f s).play = s.play := rfl
@[simp] theorem modGen_sdp {n f} : (modGen n f s).sdp = s.sdp := rfl
@[simp] theorem modGen_plf {n f} : (modGen n f s).plf = s.plf := rfl
@[simp] theorem modGen_arms {n f} : (modGen n f s).arms = s.arms := rfl
@[simp] theorem modGen_armsNext {n f} : (modGen n f s).armsNext = s.armsNext := rfl
@[simp] theorem modGen_ident {n f} : (modGen n f s).ident = s.ident := rfl
@[simp] theorem modGen_mnt {n f} : (modGen n f s).mnt = s.mnt := rfl
@[simp] theorem modGen_tds {n f} : (modGen n f s).tds = s.tds := rfl
@[simp] theorem modGen_saf {n f} : (modGen n f s).saf = s.saf := rfl
@[simp] theorem modGen_sec {n f} : (modGen n f s).sec = s.sec := rfl
@[simp] theorem modGen_pending {n f} : (modGen n f s).pending = s.pending := rfl

@[simp] theorem modStp_clk {n f} : (modStp n f s).clk = s.clk := rfl
@[simp] theorem modStp_regs {n f} : (modStp n f s).regs = s.regs := rfl
@[simp] theorem modStp_priv {n f} : (modStp n f s).priv = s.priv := rfl
@[simp] theorem modStp_lanePriv {n f} : (modStp n f s).lanePriv = s.lanePriv := rfl
@[simp] theorem modStp_hubCnt {n f} : (modStp n f s).hubCnt = s.hubCnt := rfl
@[simp] theorem modStp_mem {n f} : (modStp n f s).mem = s.mem := rfl
@[simp] theorem modStp_link {n f} : (modStp n f s).link = s.link := rfl
@[simp] theorem modStp_servo {n f} : (modStp n f s).servo = s.servo := rfl
@[simp] theorem modStp_line {n f} : (modStp n f s).line = s.line := rfl
@[simp] theorem modStp_ptp {n f} : (modStp n f s).ptp = s.ptp := rfl
@[simp] theorem modStp_carts {n f} : (modStp n f s).carts = s.carts := rfl
@[simp] theorem modStp_cus {n f} : (modStp n f s).cus = s.cus := rfl
@[simp] theorem modStp_vote {n f} : (modStp n f s).vote = s.vote := rfl
@[simp] theorem modStp_img {n f} : (modStp n f s).img = s.img := rfl
@[simp] theorem modStp_boot {n f} : (modStp n f s).boot = s.boot := rfl
@[simp] theorem modStp_pwr {n f} : (modStp n f s).pwr = s.pwr := rfl
@[simp] theorem modStp_enc {n f} : (modStp n f s).enc = s.enc := rfl
@[simp] theorem modStp_ffy {n f} : (modStp n f s).ffy = s.ffy := rfl
@[simp] theorem modStp_prg {n f} : (modStp n f s).prg = s.prg := rfl
@[simp] theorem modStp_stp {n f} : (modStp n f s).stp = vmod s.stp n f := rfl
@[simp] theorem modStp_adc {n f} : (modStp n f s).adc = s.adc := rfl
@[simp] theorem modStp_wl {n f} : (modStp n f s).wl = s.wl := rfl
@[simp] theorem modStp_ring {n f} : (modStp n f s).ring = s.ring := rfl
@[simp] theorem modStp_play {n f} : (modStp n f s).play = s.play := rfl
@[simp] theorem modStp_sdp {n f} : (modStp n f s).sdp = s.sdp := rfl
@[simp] theorem modStp_plf {n f} : (modStp n f s).plf = s.plf := rfl
@[simp] theorem modStp_arms {n f} : (modStp n f s).arms = s.arms := rfl
@[simp] theorem modStp_armsNext {n f} : (modStp n f s).armsNext = s.armsNext := rfl
@[simp] theorem modStp_ident {n f} : (modStp n f s).ident = s.ident := rfl
@[simp] theorem modStp_mnt {n f} : (modStp n f s).mnt = s.mnt := rfl
@[simp] theorem modStp_tds {n f} : (modStp n f s).tds = s.tds := rfl
@[simp] theorem modStp_saf {n f} : (modStp n f s).saf = s.saf := rfl
@[simp] theorem modStp_sec {n f} : (modStp n f s).sec = s.sec := rfl
@[simp] theorem modStp_pending {n f} : (modStp n f s).pending = s.pending := rfl

@[simp] theorem modTds_clk {f} : (modTds f s).clk = s.clk := rfl
@[simp] theorem modTds_regs {f} : (modTds f s).regs = s.regs := rfl
@[simp] theorem modTds_priv {f} : (modTds f s).priv = s.priv := rfl
@[simp] theorem modTds_lanePriv {f} : (modTds f s).lanePriv = s.lanePriv := rfl
@[simp] theorem modTds_hubCnt {f} : (modTds f s).hubCnt = s.hubCnt := rfl
@[simp] theorem modTds_mem {f} : (modTds f s).mem = s.mem := rfl
@[simp] theorem modTds_link {f} : (modTds f s).link = s.link := rfl
@[simp] theorem modTds_servo {f} : (modTds f s).servo = s.servo := rfl
@[simp] theorem modTds_line {f} : (modTds f s).line = s.line := rfl
@[simp] theorem modTds_ptp {f} : (modTds f s).ptp = s.ptp := rfl
@[simp] theorem modTds_carts {f} : (modTds f s).carts = s.carts := rfl
@[simp] theorem modTds_cus {f} : (modTds f s).cus = s.cus := rfl
@[simp] theorem modTds_vote {f} : (modTds f s).vote = s.vote := rfl
@[simp] theorem modTds_img {f} : (modTds f s).img = s.img := rfl
@[simp] theorem modTds_boot {f} : (modTds f s).boot = s.boot := rfl
@[simp] theorem modTds_pwr {f} : (modTds f s).pwr = s.pwr := rfl
@[simp] theorem modTds_enc {f} : (modTds f s).enc = s.enc := rfl
@[simp] theorem modTds_ffy {f} : (modTds f s).ffy = s.ffy := rfl
@[simp] theorem modTds_prg {f} : (modTds f s).prg = s.prg := rfl
@[simp] theorem modTds_stp {f} : (modTds f s).stp = s.stp := rfl
@[simp] theorem modTds_adc {f} : (modTds f s).adc = s.adc := rfl
@[simp] theorem modTds_wl {f} : (modTds f s).wl = s.wl := rfl
@[simp] theorem modTds_ring {f} : (modTds f s).ring = s.ring := rfl
@[simp] theorem modTds_play {f} : (modTds f s).play = s.play := rfl
@[simp] theorem modTds_sdp {f} : (modTds f s).sdp = s.sdp := rfl
@[simp] theorem modTds_plf {f} : (modTds f s).plf = s.plf := rfl
@[simp] theorem modTds_arms {f} : (modTds f s).arms = s.arms := rfl
@[simp] theorem modTds_armsNext {f} : (modTds f s).armsNext = s.armsNext := rfl
@[simp] theorem modTds_ident {f} : (modTds f s).ident = s.ident := rfl
@[simp] theorem modTds_mnt {f} : (modTds f s).mnt = s.mnt := rfl
@[simp] theorem modTds_tds {f} : (modTds f s).tds = f s.tds := rfl
@[simp] theorem modTds_saf {f} : (modTds f s).saf = s.saf := rfl
@[simp] theorem modTds_sec {f} : (modTds f s).sec = s.sec := rfl
@[simp] theorem modTds_pending {f} : (modTds f s).pending = s.pending := rfl

@[simp] theorem modSec_clk {f} : (modSec f s).clk = s.clk := rfl
@[simp] theorem modSec_regs {f} : (modSec f s).regs = s.regs := rfl
@[simp] theorem modSec_priv {f} : (modSec f s).priv = s.priv := rfl
@[simp] theorem modSec_lanePriv {f} : (modSec f s).lanePriv = s.lanePriv := rfl
@[simp] theorem modSec_hubCnt {f} : (modSec f s).hubCnt = s.hubCnt := rfl
@[simp] theorem modSec_mem {f} : (modSec f s).mem = s.mem := rfl
@[simp] theorem modSec_link {f} : (modSec f s).link = s.link := rfl
@[simp] theorem modSec_servo {f} : (modSec f s).servo = s.servo := rfl
@[simp] theorem modSec_line {f} : (modSec f s).line = s.line := rfl
@[simp] theorem modSec_ptp {f} : (modSec f s).ptp = s.ptp := rfl
@[simp] theorem modSec_carts {f} : (modSec f s).carts = s.carts := rfl
@[simp] theorem modSec_cus {f} : (modSec f s).cus = s.cus := rfl
@[simp] theorem modSec_vote {f} : (modSec f s).vote = s.vote := rfl
@[simp] theorem modSec_img {f} : (modSec f s).img = s.img := rfl
@[simp] theorem modSec_boot {f} : (modSec f s).boot = s.boot := rfl
@[simp] theorem modSec_pwr {f} : (modSec f s).pwr = s.pwr := rfl
@[simp] theorem modSec_enc {f} : (modSec f s).enc = s.enc := rfl
@[simp] theorem modSec_ffy {f} : (modSec f s).ffy = s.ffy := rfl
@[simp] theorem modSec_prg {f} : (modSec f s).prg = s.prg := rfl
@[simp] theorem modSec_stp {f} : (modSec f s).stp = s.stp := rfl
@[simp] theorem modSec_adc {f} : (modSec f s).adc = s.adc := rfl
@[simp] theorem modSec_wl {f} : (modSec f s).wl = s.wl := rfl
@[simp] theorem modSec_ring {f} : (modSec f s).ring = s.ring := rfl
@[simp] theorem modSec_play {f} : (modSec f s).play = s.play := rfl
@[simp] theorem modSec_sdp {f} : (modSec f s).sdp = s.sdp := rfl
@[simp] theorem modSec_plf {f} : (modSec f s).plf = s.plf := rfl
@[simp] theorem modSec_arms {f} : (modSec f s).arms = s.arms := rfl
@[simp] theorem modSec_armsNext {f} : (modSec f s).armsNext = s.armsNext := rfl
@[simp] theorem modSec_ident {f} : (modSec f s).ident = s.ident := rfl
@[simp] theorem modSec_mnt {f} : (modSec f s).mnt = s.mnt := rfl
@[simp] theorem modSec_tds {f} : (modSec f s).tds = s.tds := rfl
@[simp] theorem modSec_saf {f} : (modSec f s).saf = s.saf := rfl
@[simp] theorem modSec_sec {f} : (modSec f s).sec = f s.sec := rfl
@[simp] theorem modSec_pending {f} : (modSec f s).pending = s.pending := rfl

@[simp] theorem modCore_clk {c f} : (modCore c f s).clk = s.clk := rfl
@[simp] theorem modCore_regs {c f} : (modCore c f s).regs = s.regs := rfl
@[simp] theorem modCore_priv {c f} : (modCore c f s).priv = s.priv := rfl
@[simp] theorem modCore_lanePriv {c f} : (modCore c f s).lanePriv = s.lanePriv := rfl
@[simp] theorem modCore_hubCnt {c f} : (modCore c f s).hubCnt = s.hubCnt := rfl
@[simp] theorem modCore_mem {c f} : (modCore c f s).mem = s.mem := rfl
@[simp] theorem modCore_link {c f} : (modCore c f s).link = s.link := rfl
@[simp] theorem modCore_servo {c f} : (modCore c f s).servo = s.servo := rfl
@[simp] theorem modCore_line {c f} : (modCore c f s).line = s.line := rfl
@[simp] theorem modCore_ptp {c f} : (modCore c f s).ptp = s.ptp := rfl
@[simp] theorem modCore_carts {c f} : (modCore c f s).carts = s.carts := rfl
@[simp] theorem modCore_cus {c f} : (modCore c f s).cus = s.cus := rfl
@[simp] theorem modCore_vote {c f} : (modCore c f s).vote = s.vote := rfl
@[simp] theorem modCore_img {c f} : (modCore c f s).img = s.img := rfl
@[simp] theorem modCore_boot {c f} : (modCore c f s).boot = s.boot := rfl
@[simp] theorem modCore_pwr {c f} : (modCore c f s).pwr = s.pwr := rfl
@[simp] theorem modCore_enc {c f} : (modCore c f s).enc = s.enc := rfl
@[simp] theorem modCore_ffy {c f} : (modCore c f s).ffy = s.ffy := rfl
@[simp] theorem modCore_prg {c f} : (modCore c f s).prg = s.prg := rfl
@[simp] theorem modCore_stp {c f} : (modCore c f s).stp = s.stp := rfl
@[simp] theorem modCore_adc {c f} : (modCore c f s).adc = s.adc := rfl
@[simp] theorem modCore_wl {c f} : (modCore c f s).wl = s.wl := rfl
@[simp] theorem modCore_ring {c f} : (modCore c f s).ring = s.ring := rfl
@[simp] theorem modCore_play {c f} : (modCore c f s).play = s.play := rfl
@[simp] theorem modCore_sdp {c f} : (modCore c f s).sdp = { s.sdp with core := vmod s.sdp.core c f } := rfl
@[simp] theorem modCore_plf {c f} : (modCore c f s).plf = s.plf := rfl
@[simp] theorem modCore_arms {c f} : (modCore c f s).arms = s.arms := rfl
@[simp] theorem modCore_armsNext {c f} : (modCore c f s).armsNext = s.armsNext := rfl
@[simp] theorem modCore_ident {c f} : (modCore c f s).ident = s.ident := rfl
@[simp] theorem modCore_mnt {c f} : (modCore c f s).mnt = s.mnt := rfl
@[simp] theorem modCore_tds {c f} : (modCore c f s).tds = s.tds := rfl
@[simp] theorem modCore_saf {c f} : (modCore c f s).saf = s.saf := rfl
@[simp] theorem modCore_sec {c f} : (modCore c f s).sec = s.sec := rfl
@[simp] theorem modCore_pending {c f} : (modCore c f s).pending = s.pending := rfl

@[simp] theorem modJoint_clk {j f} : (modJoint j f s).clk = s.clk := rfl
@[simp] theorem modJoint_regs {j f} : (modJoint j f s).regs = s.regs := rfl
@[simp] theorem modJoint_priv {j f} : (modJoint j f s).priv = s.priv := rfl
@[simp] theorem modJoint_lanePriv {j f} : (modJoint j f s).lanePriv = s.lanePriv := rfl
@[simp] theorem modJoint_hubCnt {j f} : (modJoint j f s).hubCnt = s.hubCnt := rfl
@[simp] theorem modJoint_mem {j f} : (modJoint j f s).mem = s.mem := rfl
@[simp] theorem modJoint_link {j f} : (modJoint j f s).link = s.link := rfl
@[simp] theorem modJoint_servo {j f} : (modJoint j f s).servo = s.servo := rfl
@[simp] theorem modJoint_line {j f} : (modJoint j f s).line = s.line := rfl
@[simp] theorem modJoint_ptp {j f} : (modJoint j f s).ptp = s.ptp := rfl
@[simp] theorem modJoint_carts {j f} : (modJoint j f s).carts = s.carts := rfl
@[simp] theorem modJoint_cus {j f} : (modJoint j f s).cus = s.cus := rfl
@[simp] theorem modJoint_vote {j f} : (modJoint j f s).vote = s.vote := rfl
@[simp] theorem modJoint_img {j f} : (modJoint j f s).img = s.img := rfl
@[simp] theorem modJoint_boot {j f} : (modJoint j f s).boot = s.boot := rfl
@[simp] theorem modJoint_pwr {j f} : (modJoint j f s).pwr = s.pwr := rfl
@[simp] theorem modJoint_enc {j f} : (modJoint j f s).enc = s.enc := rfl
@[simp] theorem modJoint_ffy {j f} : (modJoint j f s).ffy = s.ffy := rfl
@[simp] theorem modJoint_prg {j f} : (modJoint j f s).prg = s.prg := rfl
@[simp] theorem modJoint_stp {j f} : (modJoint j f s).stp = s.stp := rfl
@[simp] theorem modJoint_adc {j f} : (modJoint j f s).adc = s.adc := rfl
@[simp] theorem modJoint_wl {j f} : (modJoint j f s).wl = s.wl := rfl
@[simp] theorem modJoint_ring {j f} : (modJoint j f s).ring = s.ring := rfl
@[simp] theorem modJoint_play {j f} : (modJoint j f s).play = s.play := rfl
@[simp] theorem modJoint_sdp {j f} : (modJoint j f s).sdp = { s.sdp with joint := vmod s.sdp.joint j f } := rfl
@[simp] theorem modJoint_plf {j f} : (modJoint j f s).plf = s.plf := rfl
@[simp] theorem modJoint_arms {j f} : (modJoint j f s).arms = s.arms := rfl
@[simp] theorem modJoint_armsNext {j f} : (modJoint j f s).armsNext = s.armsNext := rfl
@[simp] theorem modJoint_ident {j f} : (modJoint j f s).ident = s.ident := rfl
@[simp] theorem modJoint_mnt {j f} : (modJoint j f s).mnt = s.mnt := rfl
@[simp] theorem modJoint_tds {j f} : (modJoint j f s).tds = s.tds := rfl
@[simp] theorem modJoint_saf {j f} : (modJoint j f s).saf = s.saf := rfl
@[simp] theorem modJoint_sec {j f} : (modJoint j f s).sec = s.sec := rfl
@[simp] theorem modJoint_pending {j f} : (modJoint j f s).pending = s.pending := rfl

@[simp] theorem modRing_clk {a f} : (modRing a f s).clk = s.clk := rfl
@[simp] theorem modRing_regs {a f} : (modRing a f s).regs = s.regs := rfl
@[simp] theorem modRing_priv {a f} : (modRing a f s).priv = s.priv := rfl
@[simp] theorem modRing_lanePriv {a f} : (modRing a f s).lanePriv = s.lanePriv := rfl
@[simp] theorem modRing_hubCnt {a f} : (modRing a f s).hubCnt = s.hubCnt := rfl
@[simp] theorem modRing_mem {a f} : (modRing a f s).mem = s.mem := rfl
@[simp] theorem modRing_link {a f} : (modRing a f s).link = s.link := rfl
@[simp] theorem modRing_servo {a f} : (modRing a f s).servo = s.servo := rfl
@[simp] theorem modRing_line {a f} : (modRing a f s).line = s.line := rfl
@[simp] theorem modRing_ptp {a f} : (modRing a f s).ptp = s.ptp := rfl
@[simp] theorem modRing_carts {a f} : (modRing a f s).carts = s.carts := rfl
@[simp] theorem modRing_cus {a f} : (modRing a f s).cus = s.cus := rfl
@[simp] theorem modRing_vote {a f} : (modRing a f s).vote = s.vote := rfl
@[simp] theorem modRing_img {a f} : (modRing a f s).img = s.img := rfl
@[simp] theorem modRing_boot {a f} : (modRing a f s).boot = s.boot := rfl
@[simp] theorem modRing_pwr {a f} : (modRing a f s).pwr = s.pwr := rfl
@[simp] theorem modRing_enc {a f} : (modRing a f s).enc = s.enc := rfl
@[simp] theorem modRing_ffy {a f} : (modRing a f s).ffy = s.ffy := rfl
@[simp] theorem modRing_prg {a f} : (modRing a f s).prg = s.prg := rfl
@[simp] theorem modRing_stp {a f} : (modRing a f s).stp = s.stp := rfl
@[simp] theorem modRing_adc {a f} : (modRing a f s).adc = s.adc := rfl
@[simp] theorem modRing_wl {a f} : (modRing a f s).wl = s.wl := rfl
@[simp] theorem modRing_ring {a f} : (modRing a f s).ring = vmod s.ring a f := rfl
@[simp] theorem modRing_play {a f} : (modRing a f s).play = s.play := rfl
@[simp] theorem modRing_sdp {a f} : (modRing a f s).sdp = s.sdp := rfl
@[simp] theorem modRing_plf {a f} : (modRing a f s).plf = s.plf := rfl
@[simp] theorem modRing_arms {a f} : (modRing a f s).arms = s.arms := rfl
@[simp] theorem modRing_armsNext {a f} : (modRing a f s).armsNext = s.armsNext := rfl
@[simp] theorem modRing_ident {a f} : (modRing a f s).ident = s.ident := rfl
@[simp] theorem modRing_mnt {a f} : (modRing a f s).mnt = s.mnt := rfl
@[simp] theorem modRing_tds {a f} : (modRing a f s).tds = s.tds := rfl
@[simp] theorem modRing_saf {a f} : (modRing a f s).saf = s.saf := rfl
@[simp] theorem modRing_sec {a f} : (modRing a f s).sec = s.sec := rfl
@[simp] theorem modRing_pending {a f} : (modRing a f s).pending = s.pending := rfl

@[simp] theorem modPlay_clk {a f} : (modPlay a f s).clk = s.clk := rfl
@[simp] theorem modPlay_regs {a f} : (modPlay a f s).regs = s.regs := rfl
@[simp] theorem modPlay_priv {a f} : (modPlay a f s).priv = s.priv := rfl
@[simp] theorem modPlay_lanePriv {a f} : (modPlay a f s).lanePriv = s.lanePriv := rfl
@[simp] theorem modPlay_hubCnt {a f} : (modPlay a f s).hubCnt = s.hubCnt := rfl
@[simp] theorem modPlay_mem {a f} : (modPlay a f s).mem = s.mem := rfl
@[simp] theorem modPlay_link {a f} : (modPlay a f s).link = s.link := rfl
@[simp] theorem modPlay_servo {a f} : (modPlay a f s).servo = s.servo := rfl
@[simp] theorem modPlay_line {a f} : (modPlay a f s).line = s.line := rfl
@[simp] theorem modPlay_ptp {a f} : (modPlay a f s).ptp = s.ptp := rfl
@[simp] theorem modPlay_carts {a f} : (modPlay a f s).carts = s.carts := rfl
@[simp] theorem modPlay_cus {a f} : (modPlay a f s).cus = s.cus := rfl
@[simp] theorem modPlay_vote {a f} : (modPlay a f s).vote = s.vote := rfl
@[simp] theorem modPlay_img {a f} : (modPlay a f s).img = s.img := rfl
@[simp] theorem modPlay_boot {a f} : (modPlay a f s).boot = s.boot := rfl
@[simp] theorem modPlay_pwr {a f} : (modPlay a f s).pwr = s.pwr := rfl
@[simp] theorem modPlay_enc {a f} : (modPlay a f s).enc = s.enc := rfl
@[simp] theorem modPlay_ffy {a f} : (modPlay a f s).ffy = s.ffy := rfl
@[simp] theorem modPlay_prg {a f} : (modPlay a f s).prg = s.prg := rfl
@[simp] theorem modPlay_stp {a f} : (modPlay a f s).stp = s.stp := rfl
@[simp] theorem modPlay_adc {a f} : (modPlay a f s).adc = s.adc := rfl
@[simp] theorem modPlay_wl {a f} : (modPlay a f s).wl = s.wl := rfl
@[simp] theorem modPlay_ring {a f} : (modPlay a f s).ring = s.ring := rfl
@[simp] theorem modPlay_play {a f} : (modPlay a f s).play = vmod s.play a f := rfl
@[simp] theorem modPlay_sdp {a f} : (modPlay a f s).sdp = s.sdp := rfl
@[simp] theorem modPlay_plf {a f} : (modPlay a f s).plf = s.plf := rfl
@[simp] theorem modPlay_arms {a f} : (modPlay a f s).arms = s.arms := rfl
@[simp] theorem modPlay_armsNext {a f} : (modPlay a f s).armsNext = s.armsNext := rfl
@[simp] theorem modPlay_ident {a f} : (modPlay a f s).ident = s.ident := rfl
@[simp] theorem modPlay_mnt {a f} : (modPlay a f s).mnt = s.mnt := rfl
@[simp] theorem modPlay_tds {a f} : (modPlay a f s).tds = s.tds := rfl
@[simp] theorem modPlay_saf {a f} : (modPlay a f s).saf = s.saf := rfl
@[simp] theorem modPlay_sec {a f} : (modPlay a f s).sec = s.sec := rfl
@[simp] theorem modPlay_pending {a f} : (modPlay a f s).pending = s.pending := rfl

@[simp] theorem modMnt_clk {f} : (modMnt f s).clk = s.clk := rfl
@[simp] theorem modMnt_regs {f} : (modMnt f s).regs = s.regs := rfl
@[simp] theorem modMnt_priv {f} : (modMnt f s).priv = s.priv := rfl
@[simp] theorem modMnt_lanePriv {f} : (modMnt f s).lanePriv = s.lanePriv := rfl
@[simp] theorem modMnt_hubCnt {f} : (modMnt f s).hubCnt = s.hubCnt := rfl
@[simp] theorem modMnt_mem {f} : (modMnt f s).mem = s.mem := rfl
@[simp] theorem modMnt_link {f} : (modMnt f s).link = s.link := rfl
@[simp] theorem modMnt_servo {f} : (modMnt f s).servo = s.servo := rfl
@[simp] theorem modMnt_line {f} : (modMnt f s).line = s.line := rfl
@[simp] theorem modMnt_ptp {f} : (modMnt f s).ptp = s.ptp := rfl
@[simp] theorem modMnt_carts {f} : (modMnt f s).carts = s.carts := rfl
@[simp] theorem modMnt_cus {f} : (modMnt f s).cus = s.cus := rfl
@[simp] theorem modMnt_vote {f} : (modMnt f s).vote = s.vote := rfl
@[simp] theorem modMnt_img {f} : (modMnt f s).img = s.img := rfl
@[simp] theorem modMnt_boot {f} : (modMnt f s).boot = s.boot := rfl
@[simp] theorem modMnt_pwr {f} : (modMnt f s).pwr = s.pwr := rfl
@[simp] theorem modMnt_enc {f} : (modMnt f s).enc = s.enc := rfl
@[simp] theorem modMnt_ffy {f} : (modMnt f s).ffy = s.ffy := rfl
@[simp] theorem modMnt_prg {f} : (modMnt f s).prg = s.prg := rfl
@[simp] theorem modMnt_stp {f} : (modMnt f s).stp = s.stp := rfl
@[simp] theorem modMnt_adc {f} : (modMnt f s).adc = s.adc := rfl
@[simp] theorem modMnt_wl {f} : (modMnt f s).wl = s.wl := rfl
@[simp] theorem modMnt_ring {f} : (modMnt f s).ring = s.ring := rfl
@[simp] theorem modMnt_play {f} : (modMnt f s).play = s.play := rfl
@[simp] theorem modMnt_sdp {f} : (modMnt f s).sdp = s.sdp := rfl
@[simp] theorem modMnt_plf {f} : (modMnt f s).plf = s.plf := rfl
@[simp] theorem modMnt_arms {f} : (modMnt f s).arms = s.arms := rfl
@[simp] theorem modMnt_armsNext {f} : (modMnt f s).armsNext = s.armsNext := rfl
@[simp] theorem modMnt_ident {f} : (modMnt f s).ident = s.ident := rfl
@[simp] theorem modMnt_mnt {f} : (modMnt f s).mnt = f s.mnt := rfl
@[simp] theorem modMnt_tds {f} : (modMnt f s).tds = s.tds := rfl
@[simp] theorem modMnt_saf {f} : (modMnt f s).saf = s.saf := rfl
@[simp] theorem modMnt_sec {f} : (modMnt f s).sec = s.sec := rfl
@[simp] theorem modMnt_pending {f} : (modMnt f s).pending = s.pending := rfl

@[simp] theorem modSrc_clk {i f} : (modSrc i f s).clk = s.clk := rfl
@[simp] theorem modSrc_regs {i f} : (modSrc i f s).regs = s.regs := rfl
@[simp] theorem modSrc_priv {i f} : (modSrc i f s).priv = s.priv := rfl
@[simp] theorem modSrc_lanePriv {i f} : (modSrc i f s).lanePriv = s.lanePriv := rfl
@[simp] theorem modSrc_hubCnt {i f} : (modSrc i f s).hubCnt = s.hubCnt := rfl
@[simp] theorem modSrc_mem {i f} : (modSrc i f s).mem = s.mem := rfl
@[simp] theorem modSrc_link {i f} : (modSrc i f s).link = s.link := rfl
@[simp] theorem modSrc_servo {i f} : (modSrc i f s).servo = s.servo := rfl
@[simp] theorem modSrc_line {i f} : (modSrc i f s).line = s.line := rfl
@[simp] theorem modSrc_ptp {i f} : (modSrc i f s).ptp = s.ptp := rfl
@[simp] theorem modSrc_carts {i f} : (modSrc i f s).carts = s.carts := rfl
@[simp] theorem modSrc_cus {i f} : (modSrc i f s).cus = s.cus := rfl
@[simp] theorem modSrc_vote {i f} : (modSrc i f s).vote = s.vote := rfl
@[simp] theorem modSrc_img {i f} : (modSrc i f s).img = s.img := rfl
@[simp] theorem modSrc_boot {i f} : (modSrc i f s).boot = s.boot := rfl
@[simp] theorem modSrc_pwr {i f} : (modSrc i f s).pwr = s.pwr := rfl
@[simp] theorem modSrc_enc {i f} : (modSrc i f s).enc = s.enc := rfl
@[simp] theorem modSrc_ffy {i f} : (modSrc i f s).ffy = s.ffy := rfl
@[simp] theorem modSrc_prg {i f} : (modSrc i f s).prg = s.prg := rfl
@[simp] theorem modSrc_stp {i f} : (modSrc i f s).stp = s.stp := rfl
@[simp] theorem modSrc_adc {i f} : (modSrc i f s).adc = s.adc := rfl
@[simp] theorem modSrc_wl {i f} : (modSrc i f s).wl = s.wl := rfl
@[simp] theorem modSrc_ring {i f} : (modSrc i f s).ring = s.ring := rfl
@[simp] theorem modSrc_play {i f} : (modSrc i f s).play = s.play := rfl
@[simp] theorem modSrc_sdp {i f} : (modSrc i f s).sdp = s.sdp := rfl
@[simp] theorem modSrc_plf {i f} : (modSrc i f s).plf = s.plf := rfl
@[simp] theorem modSrc_arms {i f} : (modSrc i f s).arms = s.arms := rfl
@[simp] theorem modSrc_armsNext {i f} : (modSrc i f s).armsNext = s.armsNext := rfl
@[simp] theorem modSrc_ident {i f} : (modSrc i f s).ident = s.ident := rfl
@[simp] theorem modSrc_tds {i f} : (modSrc i f s).tds = s.tds := rfl
@[simp] theorem modSrc_saf {i f} : (modSrc i f s).saf = s.saf := rfl
@[simp] theorem modSrc_sec {i f} : (modSrc i f s).sec = s.sec := rfl
@[simp] theorem modSrc_pending {i f} : (modSrc i f s).pending = s.pending := rfl

@[simp] theorem modSaf_clk {f} : (modSaf f s).clk = s.clk := rfl
@[simp] theorem modSaf_regs {f} : (modSaf f s).regs = s.regs := rfl
@[simp] theorem modSaf_priv {f} : (modSaf f s).priv = s.priv := rfl
@[simp] theorem modSaf_lanePriv {f} : (modSaf f s).lanePriv = s.lanePriv := rfl
@[simp] theorem modSaf_hubCnt {f} : (modSaf f s).hubCnt = s.hubCnt := rfl
@[simp] theorem modSaf_mem {f} : (modSaf f s).mem = s.mem := rfl
@[simp] theorem modSaf_link {f} : (modSaf f s).link = s.link := rfl
@[simp] theorem modSaf_servo {f} : (modSaf f s).servo = s.servo := rfl
@[simp] theorem modSaf_line {f} : (modSaf f s).line = s.line := rfl
@[simp] theorem modSaf_ptp {f} : (modSaf f s).ptp = s.ptp := rfl
@[simp] theorem modSaf_carts {f} : (modSaf f s).carts = s.carts := rfl
@[simp] theorem modSaf_cus {f} : (modSaf f s).cus = s.cus := rfl
@[simp] theorem modSaf_vote {f} : (modSaf f s).vote = s.vote := rfl
@[simp] theorem modSaf_img {f} : (modSaf f s).img = s.img := rfl
@[simp] theorem modSaf_boot {f} : (modSaf f s).boot = s.boot := rfl
@[simp] theorem modSaf_pwr {f} : (modSaf f s).pwr = s.pwr := rfl
@[simp] theorem modSaf_enc {f} : (modSaf f s).enc = s.enc := rfl
@[simp] theorem modSaf_ffy {f} : (modSaf f s).ffy = s.ffy := rfl
@[simp] theorem modSaf_prg {f} : (modSaf f s).prg = s.prg := rfl
@[simp] theorem modSaf_stp {f} : (modSaf f s).stp = s.stp := rfl
@[simp] theorem modSaf_adc {f} : (modSaf f s).adc = s.adc := rfl
@[simp] theorem modSaf_wl {f} : (modSaf f s).wl = s.wl := rfl
@[simp] theorem modSaf_ring {f} : (modSaf f s).ring = s.ring := rfl
@[simp] theorem modSaf_play {f} : (modSaf f s).play = s.play := rfl
@[simp] theorem modSaf_sdp {f} : (modSaf f s).sdp = s.sdp := rfl
@[simp] theorem modSaf_plf {f} : (modSaf f s).plf = s.plf := rfl
@[simp] theorem modSaf_arms {f} : (modSaf f s).arms = s.arms := rfl
@[simp] theorem modSaf_armsNext {f} : (modSaf f s).armsNext = s.armsNext := rfl
@[simp] theorem modSaf_ident {f} : (modSaf f s).ident = s.ident := rfl
@[simp] theorem modSaf_mnt {f} : (modSaf f s).mnt = s.mnt := rfl
@[simp] theorem modSaf_tds {f} : (modSaf f s).tds = s.tds := rfl
@[simp] theorem modSaf_saf {f} : (modSaf f s).saf = f s.saf := rfl
@[simp] theorem modSaf_sec {f} : (modSaf f s).sec = s.sec := rfl
@[simp] theorem modSaf_pending {f} : (modSaf f s).pending = s.pending := rfl

@[simp] theorem modArmSaf_clk {a f} : (modArmSaf a f s).clk = s.clk := rfl
@[simp] theorem modArmSaf_regs {a f} : (modArmSaf a f s).regs = s.regs := rfl
@[simp] theorem modArmSaf_priv {a f} : (modArmSaf a f s).priv = s.priv := rfl
@[simp] theorem modArmSaf_lanePriv {a f} : (modArmSaf a f s).lanePriv = s.lanePriv := rfl
@[simp] theorem modArmSaf_hubCnt {a f} : (modArmSaf a f s).hubCnt = s.hubCnt := rfl
@[simp] theorem modArmSaf_mem {a f} : (modArmSaf a f s).mem = s.mem := rfl
@[simp] theorem modArmSaf_link {a f} : (modArmSaf a f s).link = s.link := rfl
@[simp] theorem modArmSaf_servo {a f} : (modArmSaf a f s).servo = s.servo := rfl
@[simp] theorem modArmSaf_line {a f} : (modArmSaf a f s).line = s.line := rfl
@[simp] theorem modArmSaf_ptp {a f} : (modArmSaf a f s).ptp = s.ptp := rfl
@[simp] theorem modArmSaf_carts {a f} : (modArmSaf a f s).carts = s.carts := rfl
@[simp] theorem modArmSaf_cus {a f} : (modArmSaf a f s).cus = s.cus := rfl
@[simp] theorem modArmSaf_vote {a f} : (modArmSaf a f s).vote = s.vote := rfl
@[simp] theorem modArmSaf_img {a f} : (modArmSaf a f s).img = s.img := rfl
@[simp] theorem modArmSaf_boot {a f} : (modArmSaf a f s).boot = s.boot := rfl
@[simp] theorem modArmSaf_pwr {a f} : (modArmSaf a f s).pwr = s.pwr := rfl
@[simp] theorem modArmSaf_enc {a f} : (modArmSaf a f s).enc = s.enc := rfl
@[simp] theorem modArmSaf_ffy {a f} : (modArmSaf a f s).ffy = s.ffy := rfl
@[simp] theorem modArmSaf_prg {a f} : (modArmSaf a f s).prg = s.prg := rfl
@[simp] theorem modArmSaf_stp {a f} : (modArmSaf a f s).stp = s.stp := rfl
@[simp] theorem modArmSaf_adc {a f} : (modArmSaf a f s).adc = s.adc := rfl
@[simp] theorem modArmSaf_wl {a f} : (modArmSaf a f s).wl = s.wl := rfl
@[simp] theorem modArmSaf_ring {a f} : (modArmSaf a f s).ring = s.ring := rfl
@[simp] theorem modArmSaf_play {a f} : (modArmSaf a f s).play = s.play := rfl
@[simp] theorem modArmSaf_sdp {a f} : (modArmSaf a f s).sdp = s.sdp := rfl
@[simp] theorem modArmSaf_plf {a f} : (modArmSaf a f s).plf = s.plf := rfl
@[simp] theorem modArmSaf_arms {a f} : (modArmSaf a f s).arms = s.arms := rfl
@[simp] theorem modArmSaf_armsNext {a f} : (modArmSaf a f s).armsNext = s.armsNext := rfl
@[simp] theorem modArmSaf_ident {a f} : (modArmSaf a f s).ident = s.ident := rfl
@[simp] theorem modArmSaf_mnt {a f} : (modArmSaf a f s).mnt = s.mnt := rfl
@[simp] theorem modArmSaf_tds {a f} : (modArmSaf a f s).tds = s.tds := rfl
@[simp] theorem modArmSaf_sec {a f} : (modArmSaf a f s).sec = s.sec := rfl
@[simp] theorem modArmSaf_pending {a f} : (modArmSaf a f s).pending = s.pending := rfl

@[simp] theorem modOut_clk {f} : (modOut f s).clk = s.clk := rfl
@[simp] theorem modOut_regs {f} : (modOut f s).regs = s.regs := rfl
@[simp] theorem modOut_priv {f} : (modOut f s).priv = s.priv := rfl
@[simp] theorem modOut_lanePriv {f} : (modOut f s).lanePriv = s.lanePriv := rfl
@[simp] theorem modOut_hubCnt {f} : (modOut f s).hubCnt = s.hubCnt := rfl
@[simp] theorem modOut_mem {f} : (modOut f s).mem = s.mem := rfl
@[simp] theorem modOut_link {f} : (modOut f s).link = s.link := rfl
@[simp] theorem modOut_servo {f} : (modOut f s).servo = s.servo := rfl
@[simp] theorem modOut_line {f} : (modOut f s).line = s.line := rfl
@[simp] theorem modOut_ptp {f} : (modOut f s).ptp = s.ptp := rfl
@[simp] theorem modOut_carts {f} : (modOut f s).carts = s.carts := rfl
@[simp] theorem modOut_cus {f} : (modOut f s).cus = s.cus := rfl
@[simp] theorem modOut_vote {f} : (modOut f s).vote = s.vote := rfl
@[simp] theorem modOut_img {f} : (modOut f s).img = s.img := rfl
@[simp] theorem modOut_boot {f} : (modOut f s).boot = s.boot := rfl
@[simp] theorem modOut_pwr {f} : (modOut f s).pwr = s.pwr := rfl
@[simp] theorem modOut_enc {f} : (modOut f s).enc = s.enc := rfl
@[simp] theorem modOut_ffy {f} : (modOut f s).ffy = s.ffy := rfl
@[simp] theorem modOut_prg {f} : (modOut f s).prg = s.prg := rfl
@[simp] theorem modOut_stp {f} : (modOut f s).stp = s.stp := rfl
@[simp] theorem modOut_adc {f} : (modOut f s).adc = s.adc := rfl
@[simp] theorem modOut_wl {f} : (modOut f s).wl = s.wl := rfl
@[simp] theorem modOut_ring {f} : (modOut f s).ring = s.ring := rfl
@[simp] theorem modOut_play {f} : (modOut f s).play = s.play := rfl
@[simp] theorem modOut_sdp {f} : (modOut f s).sdp = s.sdp := rfl
@[simp] theorem modOut_plf {f} : (modOut f s).plf = s.plf := rfl
@[simp] theorem modOut_arms {f} : (modOut f s).arms = s.arms := rfl
@[simp] theorem modOut_armsNext {f} : (modOut f s).armsNext = s.armsNext := rfl
@[simp] theorem modOut_ident {f} : (modOut f s).ident = s.ident := rfl
@[simp] theorem modOut_mnt {f} : (modOut f s).mnt = s.mnt := rfl
@[simp] theorem modOut_tds {f} : (modOut f s).tds = s.tds := rfl
@[simp] theorem modOut_sec {f} : (modOut f s).sec = s.sec := rfl
@[simp] theorem modOut_pending {f} : (modOut f s).pending = s.pending := rfl

@[simp] theorem modPlf_clk {f} : (modPlf f s).clk = s.clk := rfl
@[simp] theorem modPlf_regs {f} : (modPlf f s).regs = s.regs := rfl
@[simp] theorem modPlf_priv {f} : (modPlf f s).priv = s.priv := rfl
@[simp] theorem modPlf_lanePriv {f} : (modPlf f s).lanePriv = s.lanePriv := rfl
@[simp] theorem modPlf_hubCnt {f} : (modPlf f s).hubCnt = s.hubCnt := rfl
@[simp] theorem modPlf_mem {f} : (modPlf f s).mem = s.mem := rfl
@[simp] theorem modPlf_link {f} : (modPlf f s).link = s.link := rfl
@[simp] theorem modPlf_servo {f} : (modPlf f s).servo = s.servo := rfl
@[simp] theorem modPlf_line {f} : (modPlf f s).line = s.line := rfl
@[simp] theorem modPlf_ptp {f} : (modPlf f s).ptp = s.ptp := rfl
@[simp] theorem modPlf_carts {f} : (modPlf f s).carts = s.carts := rfl
@[simp] theorem modPlf_cus {f} : (modPlf f s).cus = s.cus := rfl
@[simp] theorem modPlf_vote {f} : (modPlf f s).vote = s.vote := rfl
@[simp] theorem modPlf_img {f} : (modPlf f s).img = s.img := rfl
@[simp] theorem modPlf_boot {f} : (modPlf f s).boot = s.boot := rfl
@[simp] theorem modPlf_pwr {f} : (modPlf f s).pwr = s.pwr := rfl
@[simp] theorem modPlf_enc {f} : (modPlf f s).enc = s.enc := rfl
@[simp] theorem modPlf_ffy {f} : (modPlf f s).ffy = s.ffy := rfl
@[simp] theorem modPlf_prg {f} : (modPlf f s).prg = s.prg := rfl
@[simp] theorem modPlf_stp {f} : (modPlf f s).stp = s.stp := rfl
@[simp] theorem modPlf_adc {f} : (modPlf f s).adc = s.adc := rfl
@[simp] theorem modPlf_wl {f} : (modPlf f s).wl = s.wl := rfl
@[simp] theorem modPlf_ring {f} : (modPlf f s).ring = s.ring := rfl
@[simp] theorem modPlf_play {f} : (modPlf f s).play = s.play := rfl
@[simp] theorem modPlf_sdp {f} : (modPlf f s).sdp = s.sdp := rfl
@[simp] theorem modPlf_plf {f} : (modPlf f s).plf = f s.plf := rfl
@[simp] theorem modPlf_arms {f} : (modPlf f s).arms = s.arms := rfl
@[simp] theorem modPlf_armsNext {f} : (modPlf f s).armsNext = s.armsNext := rfl
@[simp] theorem modPlf_ident {f} : (modPlf f s).ident = s.ident := rfl
@[simp] theorem modPlf_mnt {f} : (modPlf f s).mnt = s.mnt := rfl
@[simp] theorem modPlf_tds {f} : (modPlf f s).tds = s.tds := rfl
@[simp] theorem modPlf_saf {f} : (modPlf f s).saf = s.saf := rfl
@[simp] theorem modPlf_sec {f} : (modPlf f s).sec = s.sec := rfl
@[simp] theorem modPlf_pending {f} : (modPlf f s).pending = s.pending := rfl

@[simp] theorem modIdent_clk {a f} : (modIdent a f s).clk = s.clk := rfl
@[simp] theorem modIdent_regs {a f} : (modIdent a f s).regs = s.regs := rfl
@[simp] theorem modIdent_priv {a f} : (modIdent a f s).priv = s.priv := rfl
@[simp] theorem modIdent_lanePriv {a f} : (modIdent a f s).lanePriv = s.lanePriv := rfl
@[simp] theorem modIdent_hubCnt {a f} : (modIdent a f s).hubCnt = s.hubCnt := rfl
@[simp] theorem modIdent_mem {a f} : (modIdent a f s).mem = s.mem := rfl
@[simp] theorem modIdent_link {a f} : (modIdent a f s).link = s.link := rfl
@[simp] theorem modIdent_servo {a f} : (modIdent a f s).servo = s.servo := rfl
@[simp] theorem modIdent_line {a f} : (modIdent a f s).line = s.line := rfl
@[simp] theorem modIdent_ptp {a f} : (modIdent a f s).ptp = s.ptp := rfl
@[simp] theorem modIdent_carts {a f} : (modIdent a f s).carts = s.carts := rfl
@[simp] theorem modIdent_cus {a f} : (modIdent a f s).cus = s.cus := rfl
@[simp] theorem modIdent_vote {a f} : (modIdent a f s).vote = s.vote := rfl
@[simp] theorem modIdent_img {a f} : (modIdent a f s).img = s.img := rfl
@[simp] theorem modIdent_boot {a f} : (modIdent a f s).boot = s.boot := rfl
@[simp] theorem modIdent_pwr {a f} : (modIdent a f s).pwr = s.pwr := rfl
@[simp] theorem modIdent_enc {a f} : (modIdent a f s).enc = s.enc := rfl
@[simp] theorem modIdent_ffy {a f} : (modIdent a f s).ffy = s.ffy := rfl
@[simp] theorem modIdent_prg {a f} : (modIdent a f s).prg = s.prg := rfl
@[simp] theorem modIdent_stp {a f} : (modIdent a f s).stp = s.stp := rfl
@[simp] theorem modIdent_adc {a f} : (modIdent a f s).adc = s.adc := rfl
@[simp] theorem modIdent_wl {a f} : (modIdent a f s).wl = s.wl := rfl
@[simp] theorem modIdent_ring {a f} : (modIdent a f s).ring = s.ring := rfl
@[simp] theorem modIdent_play {a f} : (modIdent a f s).play = s.play := rfl
@[simp] theorem modIdent_sdp {a f} : (modIdent a f s).sdp = s.sdp := rfl
@[simp] theorem modIdent_plf {a f} : (modIdent a f s).plf = s.plf := rfl
@[simp] theorem modIdent_arms {a f} : (modIdent a f s).arms = s.arms := rfl
@[simp] theorem modIdent_armsNext {a f} : (modIdent a f s).armsNext = s.armsNext := rfl
@[simp] theorem modIdent_ident {a f} : (modIdent a f s).ident = vmod s.ident a f := rfl
@[simp] theorem modIdent_mnt {a f} : (modIdent a f s).mnt = s.mnt := rfl
@[simp] theorem modIdent_tds {a f} : (modIdent a f s).tds = s.tds := rfl
@[simp] theorem modIdent_saf {a f} : (modIdent a f s).saf = s.saf := rfl
@[simp] theorem modIdent_sec {a f} : (modIdent a f s).sec = s.sec := rfl
@[simp] theorem modIdent_pending {a f} : (modIdent a f s).pending = s.pending := rfl

@[simp] theorem modPtp_clk {e f} : (modPtp e f s).clk = s.clk := rfl
@[simp] theorem modPtp_regs {e f} : (modPtp e f s).regs = s.regs := rfl
@[simp] theorem modPtp_priv {e f} : (modPtp e f s).priv = s.priv := rfl
@[simp] theorem modPtp_lanePriv {e f} : (modPtp e f s).lanePriv = s.lanePriv := rfl
@[simp] theorem modPtp_hubCnt {e f} : (modPtp e f s).hubCnt = s.hubCnt := rfl
@[simp] theorem modPtp_mem {e f} : (modPtp e f s).mem = s.mem := rfl
@[simp] theorem modPtp_link {e f} : (modPtp e f s).link = s.link := rfl
@[simp] theorem modPtp_servo {e f} : (modPtp e f s).servo = s.servo := rfl
@[simp] theorem modPtp_line {e f} : (modPtp e f s).line = s.line := rfl
@[simp] theorem modPtp_ptp {e f} : (modPtp e f s).ptp = vmod s.ptp e f := rfl
@[simp] theorem modPtp_carts {e f} : (modPtp e f s).carts = s.carts := rfl
@[simp] theorem modPtp_cus {e f} : (modPtp e f s).cus = s.cus := rfl
@[simp] theorem modPtp_vote {e f} : (modPtp e f s).vote = s.vote := rfl
@[simp] theorem modPtp_img {e f} : (modPtp e f s).img = s.img := rfl
@[simp] theorem modPtp_boot {e f} : (modPtp e f s).boot = s.boot := rfl
@[simp] theorem modPtp_pwr {e f} : (modPtp e f s).pwr = s.pwr := rfl
@[simp] theorem modPtp_enc {e f} : (modPtp e f s).enc = s.enc := rfl
@[simp] theorem modPtp_ffy {e f} : (modPtp e f s).ffy = s.ffy := rfl
@[simp] theorem modPtp_prg {e f} : (modPtp e f s).prg = s.prg := rfl
@[simp] theorem modPtp_stp {e f} : (modPtp e f s).stp = s.stp := rfl
@[simp] theorem modPtp_adc {e f} : (modPtp e f s).adc = s.adc := rfl
@[simp] theorem modPtp_wl {e f} : (modPtp e f s).wl = s.wl := rfl
@[simp] theorem modPtp_ring {e f} : (modPtp e f s).ring = s.ring := rfl
@[simp] theorem modPtp_play {e f} : (modPtp e f s).play = s.play := rfl
@[simp] theorem modPtp_sdp {e f} : (modPtp e f s).sdp = s.sdp := rfl
@[simp] theorem modPtp_plf {e f} : (modPtp e f s).plf = s.plf := rfl
@[simp] theorem modPtp_arms {e f} : (modPtp e f s).arms = s.arms := rfl
@[simp] theorem modPtp_armsNext {e f} : (modPtp e f s).armsNext = s.armsNext := rfl
@[simp] theorem modPtp_ident {e f} : (modPtp e f s).ident = s.ident := rfl
@[simp] theorem modPtp_mnt {e f} : (modPtp e f s).mnt = s.mnt := rfl
@[simp] theorem modPtp_tds {e f} : (modPtp e f s).tds = s.tds := rfl
@[simp] theorem modPtp_saf {e f} : (modPtp e f s).saf = s.saf := rfl
@[simp] theorem modPtp_sec {e f} : (modPtp e f s).sec = s.sec := rfl
@[simp] theorem modPtp_pending {e f} : (modPtp e f s).pending = s.pending := rfl

@[simp] theorem modWl_clk {f} : (modWl f s).clk = s.clk := rfl
@[simp] theorem modWl_regs {f} : (modWl f s).regs = s.regs := rfl
@[simp] theorem modWl_priv {f} : (modWl f s).priv = s.priv := rfl
@[simp] theorem modWl_lanePriv {f} : (modWl f s).lanePriv = s.lanePriv := rfl
@[simp] theorem modWl_hubCnt {f} : (modWl f s).hubCnt = s.hubCnt := rfl
@[simp] theorem modWl_mem {f} : (modWl f s).mem = s.mem := rfl
@[simp] theorem modWl_link {f} : (modWl f s).link = s.link := rfl
@[simp] theorem modWl_servo {f} : (modWl f s).servo = s.servo := rfl
@[simp] theorem modWl_line {f} : (modWl f s).line = s.line := rfl
@[simp] theorem modWl_ptp {f} : (modWl f s).ptp = s.ptp := rfl
@[simp] theorem modWl_carts {f} : (modWl f s).carts = s.carts := rfl
@[simp] theorem modWl_cus {f} : (modWl f s).cus = s.cus := rfl
@[simp] theorem modWl_vote {f} : (modWl f s).vote = s.vote := rfl
@[simp] theorem modWl_img {f} : (modWl f s).img = s.img := rfl
@[simp] theorem modWl_boot {f} : (modWl f s).boot = s.boot := rfl
@[simp] theorem modWl_pwr {f} : (modWl f s).pwr = s.pwr := rfl
@[simp] theorem modWl_enc {f} : (modWl f s).enc = s.enc := rfl
@[simp] theorem modWl_ffy {f} : (modWl f s).ffy = s.ffy := rfl
@[simp] theorem modWl_prg {f} : (modWl f s).prg = s.prg := rfl
@[simp] theorem modWl_stp {f} : (modWl f s).stp = s.stp := rfl
@[simp] theorem modWl_adc {f} : (modWl f s).adc = s.adc := rfl
@[simp] theorem modWl_wl {f} : (modWl f s).wl = f s.wl := rfl
@[simp] theorem modWl_ring {f} : (modWl f s).ring = s.ring := rfl
@[simp] theorem modWl_play {f} : (modWl f s).play = s.play := rfl
@[simp] theorem modWl_sdp {f} : (modWl f s).sdp = s.sdp := rfl
@[simp] theorem modWl_plf {f} : (modWl f s).plf = s.plf := rfl
@[simp] theorem modWl_arms {f} : (modWl f s).arms = s.arms := rfl
@[simp] theorem modWl_armsNext {f} : (modWl f s).armsNext = s.armsNext := rfl
@[simp] theorem modWl_ident {f} : (modWl f s).ident = s.ident := rfl
@[simp] theorem modWl_mnt {f} : (modWl f s).mnt = s.mnt := rfl
@[simp] theorem modWl_tds {f} : (modWl f s).tds = s.tds := rfl
@[simp] theorem modWl_saf {f} : (modWl f s).saf = s.saf := rfl
@[simp] theorem modWl_sec {f} : (modWl f s).sec = s.sec := rfl
@[simp] theorem modWl_pending {f} : (modWl f s).pending = s.pending := rfl

@[simp] theorem modBuf_clk {i f} : (modBuf i f s).clk = s.clk := rfl
@[simp] theorem modBuf_regs {i f} : (modBuf i f s).regs = s.regs := rfl
@[simp] theorem modBuf_priv {i f} : (modBuf i f s).priv = s.priv := rfl
@[simp] theorem modBuf_lanePriv {i f} : (modBuf i f s).lanePriv = s.lanePriv := rfl
@[simp] theorem modBuf_hubCnt {i f} : (modBuf i f s).hubCnt = s.hubCnt := rfl
@[simp] theorem modBuf_mem {i f} : (modBuf i f s).mem = s.mem := rfl
@[simp] theorem modBuf_link {i f} : (modBuf i f s).link = s.link := rfl
@[simp] theorem modBuf_servo {i f} : (modBuf i f s).servo = s.servo := rfl
@[simp] theorem modBuf_line {i f} : (modBuf i f s).line = s.line := rfl
@[simp] theorem modBuf_ptp {i f} : (modBuf i f s).ptp = s.ptp := rfl
@[simp] theorem modBuf_carts {i f} : (modBuf i f s).carts = s.carts := rfl
@[simp] theorem modBuf_cus {i f} : (modBuf i f s).cus = s.cus := rfl
@[simp] theorem modBuf_vote {i f} : (modBuf i f s).vote = s.vote := rfl
@[simp] theorem modBuf_img {i f} : (modBuf i f s).img = s.img := rfl
@[simp] theorem modBuf_boot {i f} : (modBuf i f s).boot = s.boot := rfl
@[simp] theorem modBuf_pwr {i f} : (modBuf i f s).pwr = s.pwr := rfl
@[simp] theorem modBuf_enc {i f} : (modBuf i f s).enc = s.enc := rfl
@[simp] theorem modBuf_ffy {i f} : (modBuf i f s).ffy = s.ffy := rfl
@[simp] theorem modBuf_prg {i f} : (modBuf i f s).prg = s.prg := rfl
@[simp] theorem modBuf_stp {i f} : (modBuf i f s).stp = s.stp := rfl
@[simp] theorem modBuf_adc {i f} : (modBuf i f s).adc = s.adc := rfl
@[simp] theorem modBuf_ring {i f} : (modBuf i f s).ring = s.ring := rfl
@[simp] theorem modBuf_play {i f} : (modBuf i f s).play = s.play := rfl
@[simp] theorem modBuf_sdp {i f} : (modBuf i f s).sdp = s.sdp := rfl
@[simp] theorem modBuf_plf {i f} : (modBuf i f s).plf = s.plf := rfl
@[simp] theorem modBuf_arms {i f} : (modBuf i f s).arms = s.arms := rfl
@[simp] theorem modBuf_armsNext {i f} : (modBuf i f s).armsNext = s.armsNext := rfl
@[simp] theorem modBuf_ident {i f} : (modBuf i f s).ident = s.ident := rfl
@[simp] theorem modBuf_mnt {i f} : (modBuf i f s).mnt = s.mnt := rfl
@[simp] theorem modBuf_tds {i f} : (modBuf i f s).tds = s.tds := rfl
@[simp] theorem modBuf_saf {i f} : (modBuf i f s).saf = s.saf := rfl
@[simp] theorem modBuf_sec {i f} : (modBuf i f s).sec = s.sec := rfl
@[simp] theorem modBuf_pending {i f} : (modBuf i f s).pending = s.pending := rfl

@[simp] theorem modImg_clk {f} : (modImg f s).clk = s.clk := rfl
@[simp] theorem modImg_regs {f} : (modImg f s).regs = s.regs := rfl
@[simp] theorem modImg_priv {f} : (modImg f s).priv = s.priv := rfl
@[simp] theorem modImg_lanePriv {f} : (modImg f s).lanePriv = s.lanePriv := rfl
@[simp] theorem modImg_hubCnt {f} : (modImg f s).hubCnt = s.hubCnt := rfl
@[simp] theorem modImg_mem {f} : (modImg f s).mem = s.mem := rfl
@[simp] theorem modImg_link {f} : (modImg f s).link = s.link := rfl
@[simp] theorem modImg_servo {f} : (modImg f s).servo = s.servo := rfl
@[simp] theorem modImg_line {f} : (modImg f s).line = s.line := rfl
@[simp] theorem modImg_ptp {f} : (modImg f s).ptp = s.ptp := rfl
@[simp] theorem modImg_carts {f} : (modImg f s).carts = s.carts := rfl
@[simp] theorem modImg_cus {f} : (modImg f s).cus = s.cus := rfl
@[simp] theorem modImg_vote {f} : (modImg f s).vote = s.vote := rfl
@[simp] theorem modImg_img {f} : (modImg f s).img = f s.img := rfl
@[simp] theorem modImg_boot {f} : (modImg f s).boot = s.boot := rfl
@[simp] theorem modImg_pwr {f} : (modImg f s).pwr = s.pwr := rfl
@[simp] theorem modImg_enc {f} : (modImg f s).enc = s.enc := rfl
@[simp] theorem modImg_ffy {f} : (modImg f s).ffy = s.ffy := rfl
@[simp] theorem modImg_prg {f} : (modImg f s).prg = s.prg := rfl
@[simp] theorem modImg_stp {f} : (modImg f s).stp = s.stp := rfl
@[simp] theorem modImg_adc {f} : (modImg f s).adc = s.adc := rfl
@[simp] theorem modImg_wl {f} : (modImg f s).wl = s.wl := rfl
@[simp] theorem modImg_ring {f} : (modImg f s).ring = s.ring := rfl
@[simp] theorem modImg_play {f} : (modImg f s).play = s.play := rfl
@[simp] theorem modImg_sdp {f} : (modImg f s).sdp = s.sdp := rfl
@[simp] theorem modImg_plf {f} : (modImg f s).plf = s.plf := rfl
@[simp] theorem modImg_arms {f} : (modImg f s).arms = s.arms := rfl
@[simp] theorem modImg_armsNext {f} : (modImg f s).armsNext = s.armsNext := rfl
@[simp] theorem modImg_ident {f} : (modImg f s).ident = s.ident := rfl
@[simp] theorem modImg_mnt {f} : (modImg f s).mnt = s.mnt := rfl
@[simp] theorem modImg_tds {f} : (modImg f s).tds = s.tds := rfl
@[simp] theorem modImg_saf {f} : (modImg f s).saf = s.saf := rfl
@[simp] theorem modImg_sec {f} : (modImg f s).sec = s.sec := rfl
@[simp] theorem modImg_pending {f} : (modImg f s).pending = s.pending := rfl

@[simp] theorem modPwr_clk {f} : (modPwr f s).clk = s.clk := rfl
@[simp] theorem modPwr_regs {f} : (modPwr f s).regs = s.regs := rfl
@[simp] theorem modPwr_priv {f} : (modPwr f s).priv = s.priv := rfl
@[simp] theorem modPwr_lanePriv {f} : (modPwr f s).lanePriv = s.lanePriv := rfl
@[simp] theorem modPwr_hubCnt {f} : (modPwr f s).hubCnt = s.hubCnt := rfl
@[simp] theorem modPwr_mem {f} : (modPwr f s).mem = s.mem := rfl
@[simp] theorem modPwr_link {f} : (modPwr f s).link = s.link := rfl
@[simp] theorem modPwr_servo {f} : (modPwr f s).servo = s.servo := rfl
@[simp] theorem modPwr_line {f} : (modPwr f s).line = s.line := rfl
@[simp] theorem modPwr_ptp {f} : (modPwr f s).ptp = s.ptp := rfl
@[simp] theorem modPwr_carts {f} : (modPwr f s).carts = s.carts := rfl
@[simp] theorem modPwr_cus {f} : (modPwr f s).cus = s.cus := rfl
@[simp] theorem modPwr_vote {f} : (modPwr f s).vote = s.vote := rfl
@[simp] theorem modPwr_img {f} : (modPwr f s).img = s.img := rfl
@[simp] theorem modPwr_boot {f} : (modPwr f s).boot = s.boot := rfl
@[simp] theorem modPwr_pwr {f} : (modPwr f s).pwr = f s.pwr := rfl
@[simp] theorem modPwr_enc {f} : (modPwr f s).enc = s.enc := rfl
@[simp] theorem modPwr_ffy {f} : (modPwr f s).ffy = s.ffy := rfl
@[simp] theorem modPwr_prg {f} : (modPwr f s).prg = s.prg := rfl
@[simp] theorem modPwr_stp {f} : (modPwr f s).stp = s.stp := rfl
@[simp] theorem modPwr_adc {f} : (modPwr f s).adc = s.adc := rfl
@[simp] theorem modPwr_wl {f} : (modPwr f s).wl = s.wl := rfl
@[simp] theorem modPwr_ring {f} : (modPwr f s).ring = s.ring := rfl
@[simp] theorem modPwr_play {f} : (modPwr f s).play = s.play := rfl
@[simp] theorem modPwr_sdp {f} : (modPwr f s).sdp = s.sdp := rfl
@[simp] theorem modPwr_plf {f} : (modPwr f s).plf = s.plf := rfl
@[simp] theorem modPwr_arms {f} : (modPwr f s).arms = s.arms := rfl
@[simp] theorem modPwr_armsNext {f} : (modPwr f s).armsNext = s.armsNext := rfl
@[simp] theorem modPwr_ident {f} : (modPwr f s).ident = s.ident := rfl
@[simp] theorem modPwr_mnt {f} : (modPwr f s).mnt = s.mnt := rfl
@[simp] theorem modPwr_tds {f} : (modPwr f s).tds = s.tds := rfl
@[simp] theorem modPwr_saf {f} : (modPwr f s).saf = s.saf := rfl
@[simp] theorem modPwr_sec {f} : (modPwr f s).sec = s.sec := rfl
@[simp] theorem modPwr_pending {f} : (modPwr f s).pending = s.pending := rfl

@[simp] theorem modBoot_clk {f} : (modBoot f s).clk = s.clk := rfl
@[simp] theorem modBoot_regs {f} : (modBoot f s).regs = s.regs := rfl
@[simp] theorem modBoot_priv {f} : (modBoot f s).priv = s.priv := rfl
@[simp] theorem modBoot_lanePriv {f} : (modBoot f s).lanePriv = s.lanePriv := rfl
@[simp] theorem modBoot_hubCnt {f} : (modBoot f s).hubCnt = s.hubCnt := rfl
@[simp] theorem modBoot_mem {f} : (modBoot f s).mem = s.mem := rfl
@[simp] theorem modBoot_link {f} : (modBoot f s).link = s.link := rfl
@[simp] theorem modBoot_servo {f} : (modBoot f s).servo = s.servo := rfl
@[simp] theorem modBoot_line {f} : (modBoot f s).line = s.line := rfl
@[simp] theorem modBoot_ptp {f} : (modBoot f s).ptp = s.ptp := rfl
@[simp] theorem modBoot_carts {f} : (modBoot f s).carts = s.carts := rfl
@[simp] theorem modBoot_cus {f} : (modBoot f s).cus = s.cus := rfl
@[simp] theorem modBoot_vote {f} : (modBoot f s).vote = s.vote := rfl
@[simp] theorem modBoot_img {f} : (modBoot f s).img = s.img := rfl
@[simp] theorem modBoot_boot {f} : (modBoot f s).boot = f s.boot := rfl
@[simp] theorem modBoot_pwr {f} : (modBoot f s).pwr = s.pwr := rfl
@[simp] theorem modBoot_enc {f} : (modBoot f s).enc = s.enc := rfl
@[simp] theorem modBoot_ffy {f} : (modBoot f s).ffy = s.ffy := rfl
@[simp] theorem modBoot_prg {f} : (modBoot f s).prg = s.prg := rfl
@[simp] theorem modBoot_stp {f} : (modBoot f s).stp = s.stp := rfl
@[simp] theorem modBoot_adc {f} : (modBoot f s).adc = s.adc := rfl
@[simp] theorem modBoot_wl {f} : (modBoot f s).wl = s.wl := rfl
@[simp] theorem modBoot_ring {f} : (modBoot f s).ring = s.ring := rfl
@[simp] theorem modBoot_play {f} : (modBoot f s).play = s.play := rfl
@[simp] theorem modBoot_sdp {f} : (modBoot f s).sdp = s.sdp := rfl
@[simp] theorem modBoot_plf {f} : (modBoot f s).plf = s.plf := rfl
@[simp] theorem modBoot_arms {f} : (modBoot f s).arms = s.arms := rfl
@[simp] theorem modBoot_armsNext {f} : (modBoot f s).armsNext = s.armsNext := rfl
@[simp] theorem modBoot_ident {f} : (modBoot f s).ident = s.ident := rfl
@[simp] theorem modBoot_mnt {f} : (modBoot f s).mnt = s.mnt := rfl
@[simp] theorem modBoot_tds {f} : (modBoot f s).tds = s.tds := rfl
@[simp] theorem modBoot_saf {f} : (modBoot f s).saf = s.saf := rfl
@[simp] theorem modBoot_sec {f} : (modBoot f s).sec = s.sec := rfl
@[simp] theorem modBoot_pending {f} : (modBoot f s).pending = s.pending := rfl

@[simp] theorem modLink_clk {f} : (modLink f s).clk = s.clk := rfl
@[simp] theorem modLink_regs {f} : (modLink f s).regs = s.regs := rfl
@[simp] theorem modLink_priv {f} : (modLink f s).priv = s.priv := rfl
@[simp] theorem modLink_lanePriv {f} : (modLink f s).lanePriv = s.lanePriv := rfl
@[simp] theorem modLink_hubCnt {f} : (modLink f s).hubCnt = s.hubCnt := rfl
@[simp] theorem modLink_mem {f} : (modLink f s).mem = s.mem := rfl
@[simp] theorem modLink_link {f} : (modLink f s).link = f s.link := rfl
@[simp] theorem modLink_servo {f} : (modLink f s).servo = s.servo := rfl
@[simp] theorem modLink_line {f} : (modLink f s).line = s.line := rfl
@[simp] theorem modLink_ptp {f} : (modLink f s).ptp = s.ptp := rfl
@[simp] theorem modLink_carts {f} : (modLink f s).carts = s.carts := rfl
@[simp] theorem modLink_cus {f} : (modLink f s).cus = s.cus := rfl
@[simp] theorem modLink_vote {f} : (modLink f s).vote = s.vote := rfl
@[simp] theorem modLink_img {f} : (modLink f s).img = s.img := rfl
@[simp] theorem modLink_boot {f} : (modLink f s).boot = s.boot := rfl
@[simp] theorem modLink_pwr {f} : (modLink f s).pwr = s.pwr := rfl
@[simp] theorem modLink_enc {f} : (modLink f s).enc = s.enc := rfl
@[simp] theorem modLink_ffy {f} : (modLink f s).ffy = s.ffy := rfl
@[simp] theorem modLink_prg {f} : (modLink f s).prg = s.prg := rfl
@[simp] theorem modLink_stp {f} : (modLink f s).stp = s.stp := rfl
@[simp] theorem modLink_adc {f} : (modLink f s).adc = s.adc := rfl
@[simp] theorem modLink_wl {f} : (modLink f s).wl = s.wl := rfl
@[simp] theorem modLink_ring {f} : (modLink f s).ring = s.ring := rfl
@[simp] theorem modLink_play {f} : (modLink f s).play = s.play := rfl
@[simp] theorem modLink_sdp {f} : (modLink f s).sdp = s.sdp := rfl
@[simp] theorem modLink_plf {f} : (modLink f s).plf = s.plf := rfl
@[simp] theorem modLink_arms {f} : (modLink f s).arms = s.arms := rfl
@[simp] theorem modLink_armsNext {f} : (modLink f s).armsNext = s.armsNext := rfl
@[simp] theorem modLink_ident {f} : (modLink f s).ident = s.ident := rfl
@[simp] theorem modLink_mnt {f} : (modLink f s).mnt = s.mnt := rfl
@[simp] theorem modLink_tds {f} : (modLink f s).tds = s.tds := rfl
@[simp] theorem modLink_saf {f} : (modLink f s).saf = s.saf := rfl
@[simp] theorem modLink_sec {f} : (modLink f s).sec = s.sec := rfl
@[simp] theorem modLink_pending {f} : (modLink f s).pending = s.pending := rfl

@[simp] theorem sendVector_clk {v q} : (sendVector v q s).clk = s.clk := by unfold sendVector; repeat (first | rfl | (split; try dsimp only))
@[simp] theorem sendVector_regs {v q} : (sendVector v q s).regs = s.regs := by unfold sendVector; repeat (first | rfl | (split; try dsimp only))
@[simp] theorem sendVector_priv {v q} : (sendVector v q s).priv = s.priv := by unfold sendVector; repeat (first | rfl | (split; try dsimp only))
@[simp] theorem sendVector_lanePriv {v q} : (sendVector v q s).lanePriv = s.lanePriv := by unfold sendVector; repeat (first | rfl | (split; try dsimp only))
@[simp] theorem sendVector_hubCnt {v q} : (sendVector v q s).hubCnt = s.hubCnt := by unfold sendVector; repeat (first | rfl | (split; try dsimp only))
@[simp] theorem sendVector_mem {v q} : (sendVector v q s).mem = s.mem := by unfold sendVector; repeat (first | rfl | (split; try dsimp only))
@[simp] theorem sendVector_servo {v q} : (sendVector v q s).servo = s.servo := by unfold sendVector; repeat (first | rfl | (split; try dsimp only))
@[simp] theorem sendVector_line {v q} : (sendVector v q s).line = s.line := by unfold sendVector; repeat (first | rfl | (split; try dsimp only))
@[simp] theorem sendVector_ptp {v q} : (sendVector v q s).ptp = s.ptp := by unfold sendVector; repeat (first | rfl | (split; try dsimp only))
@[simp] theorem sendVector_carts {v q} : (sendVector v q s).carts = s.carts := by unfold sendVector; repeat (first | rfl | (split; try dsimp only))
@[simp] theorem sendVector_cus {v q} : (sendVector v q s).cus = s.cus := by unfold sendVector; repeat (first | rfl | (split; try dsimp only))
@[simp] theorem sendVector_vote {v q} : (sendVector v q s).vote = s.vote := by unfold sendVector; repeat (first | rfl | (split; try dsimp only))
@[simp] theorem sendVector_img {v q} : (sendVector v q s).img = s.img := by unfold sendVector; repeat (first | rfl | (split; try dsimp only))
@[simp] theorem sendVector_boot {v q} : (sendVector v q s).boot = s.boot := by unfold sendVector; repeat (first | rfl | (split; try dsimp only))
@[simp] theorem sendVector_pwr {v q} : (sendVector v q s).pwr = s.pwr := by unfold sendVector; repeat (first | rfl | (split; try dsimp only))
@[simp] theorem sendVector_enc {v q} : (sendVector v q s).enc = s.enc := by unfold sendVector; repeat (first | rfl | (split; try dsimp only))
@[simp] theorem sendVector_ffy {v q} : (sendVector v q s).ffy = s.ffy := by unfold sendVector; repeat (first | rfl | (split; try dsimp only))
@[simp] theorem sendVector_prg {v q} : (sendVector v q s).prg = s.prg := by unfold sendVector; repeat (first | rfl | (split; try dsimp only))
@[simp] theorem sendVector_stp {v q} : (sendVector v q s).stp = s.stp := by unfold sendVector; repeat (first | rfl | (split; try dsimp only))
@[simp] theorem sendVector_adc {v q} : (sendVector v q s).adc = s.adc := by unfold sendVector; repeat (first | rfl | (split; try dsimp only))
@[simp] theorem sendVector_wl {v q} : (sendVector v q s).wl = s.wl := by unfold sendVector; repeat (first | rfl | (split; try dsimp only))
@[simp] theorem sendVector_ring {v q} : (sendVector v q s).ring = s.ring := by unfold sendVector; repeat (first | rfl | (split; try dsimp only))
@[simp] theorem sendVector_play {v q} : (sendVector v q s).play = s.play := by unfold sendVector; repeat (first | rfl | (split; try dsimp only))
@[simp] theorem sendVector_sdp {v q} : (sendVector v q s).sdp = s.sdp := by unfold sendVector; repeat (first | rfl | (split; try dsimp only))
@[simp] theorem sendVector_plf {v q} : (sendVector v q s).plf = s.plf := by unfold sendVector; repeat (first | rfl | (split; try dsimp only))
@[simp] theorem sendVector_arms {v q} : (sendVector v q s).arms = s.arms := by unfold sendVector; repeat (first | rfl | (split; try dsimp only))
@[simp] theorem sendVector_armsNext {v q} : (sendVector v q s).armsNext = s.armsNext := by unfold sendVector; repeat (first | rfl | (split; try dsimp only))
@[simp] theorem sendVector_ident {v q} : (sendVector v q s).ident = s.ident := by unfold sendVector; repeat (first | rfl | (split; try dsimp only))
@[simp] theorem sendVector_mnt {v q} : (sendVector v q s).mnt = s.mnt := by unfold sendVector; repeat (first | rfl | (split; try dsimp only))
@[simp] theorem sendVector_tds {v q} : (sendVector v q s).tds = s.tds := by unfold sendVector; repeat (first | rfl | (split; try dsimp only))
@[simp] theorem sendVector_saf {v q} : (sendVector v q s).saf = s.saf := by unfold sendVector; repeat (first | rfl | (split; try dsimp only))
@[simp] theorem sendVector_sec {v q} : (sendVector v q s).sec = s.sec := by unfold sendVector; repeat (first | rfl | (split; try dsimp only))
@[simp] theorem sendVector_pending {v q} : (sendVector v q s).pending = s.pending := by unfold sendVector; repeat (first | rfl | (split; try dsimp only))

@[simp] theorem sendBoth_clk {v} : (sendBoth v s).clk = s.clk := by simp [sendBoth]
@[simp] theorem sendBoth_regs {v} : (sendBoth v s).regs = s.regs := by simp [sendBoth]
@[simp] theorem sendBoth_priv {v} : (sendBoth v s).priv = s.priv := by simp [sendBoth]
@[simp] theorem sendBoth_lanePriv {v} : (sendBoth v s).lanePriv = s.lanePriv := by simp [sendBoth]
@[simp] theorem sendBoth_hubCnt {v} : (sendBoth v s).hubCnt = s.hubCnt := by simp [sendBoth]
@[simp] theorem sendBoth_mem {v} : (sendBoth v s).mem = s.mem := by simp [sendBoth]
@[simp] theorem sendBoth_servo {v} : (sendBoth v s).servo = s.servo := by simp [sendBoth]
@[simp] theorem sendBoth_line {v} : (sendBoth v s).line = s.line := by simp [sendBoth]
@[simp] theorem sendBoth_ptp {v} : (sendBoth v s).ptp = s.ptp := by simp [sendBoth]
@[simp] theorem sendBoth_carts {v} : (sendBoth v s).carts = s.carts := by simp [sendBoth]
@[simp] theorem sendBoth_cus {v} : (sendBoth v s).cus = s.cus := by simp [sendBoth]
@[simp] theorem sendBoth_vote {v} : (sendBoth v s).vote = s.vote := by simp [sendBoth]
@[simp] theorem sendBoth_img {v} : (sendBoth v s).img = s.img := by simp [sendBoth]
@[simp] theorem sendBoth_boot {v} : (sendBoth v s).boot = s.boot := by simp [sendBoth]
@[simp] theorem sendBoth_pwr {v} : (sendBoth v s).pwr = s.pwr := by simp [sendBoth]
@[simp] theorem sendBoth_enc {v} : (sendBoth v s).enc = s.enc := by simp [sendBoth]
@[simp] theorem sendBoth_ffy {v} : (sendBoth v s).ffy = s.ffy := by simp [sendBoth]
@[simp] theorem sendBoth_prg {v} : (sendBoth v s).prg = s.prg := by simp [sendBoth]
@[simp] theorem sendBoth_stp {v} : (sendBoth v s).stp = s.stp := by simp [sendBoth]
@[simp] theorem sendBoth_adc {v} : (sendBoth v s).adc = s.adc := by simp [sendBoth]
@[simp] theorem sendBoth_wl {v} : (sendBoth v s).wl = s.wl := by simp [sendBoth]
@[simp] theorem sendBoth_ring {v} : (sendBoth v s).ring = s.ring := by simp [sendBoth]
@[simp] theorem sendBoth_play {v} : (sendBoth v s).play = s.play := by simp [sendBoth]
@[simp] theorem sendBoth_sdp {v} : (sendBoth v s).sdp = s.sdp := by simp [sendBoth]
@[simp] theorem sendBoth_plf {v} : (sendBoth v s).plf = s.plf := by simp [sendBoth]
@[simp] theorem sendBoth_arms {v} : (sendBoth v s).arms = s.arms := by simp [sendBoth]
@[simp] theorem sendBoth_armsNext {v} : (sendBoth v s).armsNext = s.armsNext := by simp [sendBoth]
@[simp] theorem sendBoth_ident {v} : (sendBoth v s).ident = s.ident := by simp [sendBoth]
@[simp] theorem sendBoth_mnt {v} : (sendBoth v s).mnt = s.mnt := by simp [sendBoth]
@[simp] theorem sendBoth_tds {v} : (sendBoth v s).tds = s.tds := by simp [sendBoth]
@[simp] theorem sendBoth_saf {v} : (sendBoth v s).saf = s.saf := by simp [sendBoth]
@[simp] theorem sendBoth_sec {v} : (sendBoth v s).sec = s.sec := by simp [sendBoth]
@[simp] theorem sendBoth_pending {v} : (sendBoth v s).pending = s.pending := by simp [sendBoth]

@[simp] theorem irqMask_clk {p i m} : (irqMask p i m s).clk = s.clk := by unfold irqMask withRise; dsimp only; split <;> simp
@[simp] theorem irqMask_priv {p i m} : (irqMask p i m s).priv = s.priv := by unfold irqMask withRise; dsimp only; split <;> simp
@[simp] theorem irqMask_lanePriv {p i m} : (irqMask p i m s).lanePriv = s.lanePriv := by unfold irqMask withRise; dsimp only; split <;> simp
@[simp] theorem irqMask_hubCnt {p i m} : (irqMask p i m s).hubCnt = s.hubCnt := by unfold irqMask withRise; dsimp only; split <;> simp
@[simp] theorem irqMask_mem {p i m} : (irqMask p i m s).mem = s.mem := by unfold irqMask withRise; dsimp only; split <;> simp
@[simp] theorem irqMask_servo {p i m} : (irqMask p i m s).servo = s.servo := by unfold irqMask withRise; dsimp only; split <;> simp
@[simp] theorem irqMask_line {p i m} : (irqMask p i m s).line = s.line := by unfold irqMask withRise; dsimp only; split <;> simp
@[simp] theorem irqMask_ptp {p i m} : (irqMask p i m s).ptp = s.ptp := by unfold irqMask withRise; dsimp only; split <;> simp
@[simp] theorem irqMask_carts {p i m} : (irqMask p i m s).carts = s.carts := by unfold irqMask withRise; dsimp only; split <;> simp
@[simp] theorem irqMask_cus {p i m} : (irqMask p i m s).cus = s.cus := by unfold irqMask withRise; dsimp only; split <;> simp
@[simp] theorem irqMask_vote {p i m} : (irqMask p i m s).vote = s.vote := by unfold irqMask withRise; dsimp only; split <;> simp
@[simp] theorem irqMask_img {p i m} : (irqMask p i m s).img = s.img := by unfold irqMask withRise; dsimp only; split <;> simp
@[simp] theorem irqMask_boot {p i m} : (irqMask p i m s).boot = s.boot := by unfold irqMask withRise; dsimp only; split <;> simp
@[simp] theorem irqMask_pwr {p i m} : (irqMask p i m s).pwr = s.pwr := by unfold irqMask withRise; dsimp only; split <;> simp
@[simp] theorem irqMask_enc {p i m} : (irqMask p i m s).enc = s.enc := by unfold irqMask withRise; dsimp only; split <;> simp
@[simp] theorem irqMask_ffy {p i m} : (irqMask p i m s).ffy = s.ffy := by unfold irqMask withRise; dsimp only; split <;> simp
@[simp] theorem irqMask_prg {p i m} : (irqMask p i m s).prg = s.prg := by unfold irqMask withRise; dsimp only; split <;> simp
@[simp] theorem irqMask_stp {p i m} : (irqMask p i m s).stp = s.stp := by unfold irqMask withRise; dsimp only; split <;> simp
@[simp] theorem irqMask_adc {p i m} : (irqMask p i m s).adc = s.adc := by unfold irqMask withRise; dsimp only; split <;> simp
@[simp] theorem irqMask_wl {p i m} : (irqMask p i m s).wl = s.wl := by unfold irqMask withRise; dsimp only; split <;> simp
@[simp] theorem irqMask_ring {p i m} : (irqMask p i m s).ring = s.ring := by unfold irqMask withRise; dsimp only; split <;> simp
@[simp] theorem irqMask_play {p i m} : (irqMask p i m s).play = s.play := by unfold irqMask withRise; dsimp only; split <;> simp
@[simp] theorem irqMask_sdp {p i m} : (irqMask p i m s).sdp = s.sdp := by unfold irqMask withRise; dsimp only; split <;> simp
@[simp] theorem irqMask_plf {p i m} : (irqMask p i m s).plf = s.plf := by unfold irqMask withRise; dsimp only; split <;> simp
@[simp] theorem irqMask_arms {p i m} : (irqMask p i m s).arms = s.arms := by unfold irqMask withRise; dsimp only; split <;> simp
@[simp] theorem irqMask_armsNext {p i m} : (irqMask p i m s).armsNext = s.armsNext := by unfold irqMask withRise; dsimp only; split <;> simp
@[simp] theorem irqMask_ident {p i m} : (irqMask p i m s).ident = s.ident := by unfold irqMask withRise; dsimp only; split <;> simp
@[simp] theorem irqMask_mnt {p i m} : (irqMask p i m s).mnt = s.mnt := by unfold irqMask withRise; dsimp only; split <;> simp
@[simp] theorem irqMask_tds {p i m} : (irqMask p i m s).tds = s.tds := by unfold irqMask withRise; dsimp only; split <;> simp
@[simp] theorem irqMask_saf {p i m} : (irqMask p i m s).saf = s.saf := by unfold irqMask withRise; dsimp only; split <;> simp
@[simp] theorem irqMask_sec {p i m} : (irqMask p i m s).sec = s.sec := by unfold irqMask withRise; dsimp only; split <;> simp
@[simp] theorem irqMask_pending {p i m} : (irqMask p i m s).pending = s.pending := by unfold irqMask withRise; dsimp only; split <;> simp

@[simp] theorem irq_clk {p i b} : (irq p i b s).clk = s.clk := by simp [irq]
@[simp] theorem irq_priv {p i b} : (irq p i b s).priv = s.priv := by simp [irq]
@[simp] theorem irq_lanePriv {p i b} : (irq p i b s).lanePriv = s.lanePriv := by simp [irq]
@[simp] theorem irq_hubCnt {p i b} : (irq p i b s).hubCnt = s.hubCnt := by simp [irq]
@[simp] theorem irq_mem {p i b} : (irq p i b s).mem = s.mem := by simp [irq]
@[simp] theorem irq_servo {p i b} : (irq p i b s).servo = s.servo := by simp [irq]
@[simp] theorem irq_line {p i b} : (irq p i b s).line = s.line := by simp [irq]
@[simp] theorem irq_ptp {p i b} : (irq p i b s).ptp = s.ptp := by simp [irq]
@[simp] theorem irq_carts {p i b} : (irq p i b s).carts = s.carts := by simp [irq]
@[simp] theorem irq_cus {p i b} : (irq p i b s).cus = s.cus := by simp [irq]
@[simp] theorem irq_vote {p i b} : (irq p i b s).vote = s.vote := by simp [irq]
@[simp] theorem irq_img {p i b} : (irq p i b s).img = s.img := by simp [irq]
@[simp] theorem irq_boot {p i b} : (irq p i b s).boot = s.boot := by simp [irq]
@[simp] theorem irq_pwr {p i b} : (irq p i b s).pwr = s.pwr := by simp [irq]
@[simp] theorem irq_enc {p i b} : (irq p i b s).enc = s.enc := by simp [irq]
@[simp] theorem irq_ffy {p i b} : (irq p i b s).ffy = s.ffy := by simp [irq]
@[simp] theorem irq_prg {p i b} : (irq p i b s).prg = s.prg := by simp [irq]
@[simp] theorem irq_stp {p i b} : (irq p i b s).stp = s.stp := by simp [irq]
@[simp] theorem irq_adc {p i b} : (irq p i b s).adc = s.adc := by simp [irq]
@[simp] theorem irq_wl {p i b} : (irq p i b s).wl = s.wl := by simp [irq]
@[simp] theorem irq_ring {p i b} : (irq p i b s).ring = s.ring := by simp [irq]
@[simp] theorem irq_play {p i b} : (irq p i b s).play = s.play := by simp [irq]
@[simp] theorem irq_sdp {p i b} : (irq p i b s).sdp = s.sdp := by simp [irq]
@[simp] theorem irq_plf {p i b} : (irq p i b s).plf = s.plf := by simp [irq]
@[simp] theorem irq_arms {p i b} : (irq p i b s).arms = s.arms := by simp [irq]
@[simp] theorem irq_armsNext {p i b} : (irq p i b s).armsNext = s.armsNext := by simp [irq]
@[simp] theorem irq_ident {p i b} : (irq p i b s).ident = s.ident := by simp [irq]
@[simp] theorem irq_mnt {p i b} : (irq p i b s).mnt = s.mnt := by simp [irq]
@[simp] theorem irq_tds {p i b} : (irq p i b s).tds = s.tds := by simp [irq]
@[simp] theorem irq_saf {p i b} : (irq p i b s).saf = s.saf := by simp [irq]
@[simp] theorem irq_sec {p i b} : (irq p i b s).sec = s.sec := by simp [irq]
@[simp] theorem irq_pending {p i b} : (irq p i b s).pending = s.pending := by simp [irq]

@[simp] theorem irqIf_clk {c p i b} : (irqIf c p i b s).clk = s.clk := by unfold irqIf; split <;> simp
@[simp] theorem irqIf_priv {c p i b} : (irqIf c p i b s).priv = s.priv := by unfold irqIf; split <;> simp
@[simp] theorem irqIf_lanePriv {c p i b} : (irqIf c p i b s).lanePriv = s.lanePriv := by unfold irqIf; split <;> simp
@[simp] theorem irqIf_hubCnt {c p i b} : (irqIf c p i b s).hubCnt = s.hubCnt := by unfold irqIf; split <;> simp
@[simp] theorem irqIf_mem {c p i b} : (irqIf c p i b s).mem = s.mem := by unfold irqIf; split <;> simp
@[simp] theorem irqIf_servo {c p i b} : (irqIf c p i b s).servo = s.servo := by unfold irqIf; split <;> simp
@[simp] theorem irqIf_line {c p i b} : (irqIf c p i b s).line = s.line := by unfold irqIf; split <;> simp
@[simp] theorem irqIf_ptp {c p i b} : (irqIf c p i b s).ptp = s.ptp := by unfold irqIf; split <;> simp
@[simp] theorem irqIf_carts {c p i b} : (irqIf c p i b s).carts = s.carts := by unfold irqIf; split <;> simp
@[simp] theorem irqIf_cus {c p i b} : (irqIf c p i b s).cus = s.cus := by unfold irqIf; split <;> simp
@[simp] theorem irqIf_vote {c p i b} : (irqIf c p i b s).vote = s.vote := by unfold irqIf; split <;> simp
@[simp] theorem irqIf_img {c p i b} : (irqIf c p i b s).img = s.img := by unfold irqIf; split <;> simp
@[simp] theorem irqIf_boot {c p i b} : (irqIf c p i b s).boot = s.boot := by unfold irqIf; split <;> simp
@[simp] theorem irqIf_pwr {c p i b} : (irqIf c p i b s).pwr = s.pwr := by unfold irqIf; split <;> simp
@[simp] theorem irqIf_enc {c p i b} : (irqIf c p i b s).enc = s.enc := by unfold irqIf; split <;> simp
@[simp] theorem irqIf_ffy {c p i b} : (irqIf c p i b s).ffy = s.ffy := by unfold irqIf; split <;> simp
@[simp] theorem irqIf_prg {c p i b} : (irqIf c p i b s).prg = s.prg := by unfold irqIf; split <;> simp
@[simp] theorem irqIf_stp {c p i b} : (irqIf c p i b s).stp = s.stp := by unfold irqIf; split <;> simp
@[simp] theorem irqIf_adc {c p i b} : (irqIf c p i b s).adc = s.adc := by unfold irqIf; split <;> simp
@[simp] theorem irqIf_wl {c p i b} : (irqIf c p i b s).wl = s.wl := by unfold irqIf; split <;> simp
@[simp] theorem irqIf_ring {c p i b} : (irqIf c p i b s).ring = s.ring := by unfold irqIf; split <;> simp
@[simp] theorem irqIf_play {c p i b} : (irqIf c p i b s).play = s.play := by unfold irqIf; split <;> simp
@[simp] theorem irqIf_sdp {c p i b} : (irqIf c p i b s).sdp = s.sdp := by unfold irqIf; split <;> simp
@[simp] theorem irqIf_plf {c p i b} : (irqIf c p i b s).plf = s.plf := by unfold irqIf; split <;> simp
@[simp] theorem irqIf_arms {c p i b} : (irqIf c p i b s).arms = s.arms := by unfold irqIf; split <;> simp
@[simp] theorem irqIf_armsNext {c p i b} : (irqIf c p i b s).armsNext = s.armsNext := by unfold irqIf; split <;> simp
@[simp] theorem irqIf_ident {c p i b} : (irqIf c p i b s).ident = s.ident := by unfold irqIf; split <;> simp
@[simp] theorem irqIf_mnt {c p i b} : (irqIf c p i b s).mnt = s.mnt := by unfold irqIf; split <;> simp
@[simp] theorem irqIf_tds {c p i b} : (irqIf c p i b s).tds = s.tds := by unfold irqIf; split <;> simp
@[simp] theorem irqIf_saf {c p i b} : (irqIf c p i b s).saf = s.saf := by unfold irqIf; split <;> simp
@[simp] theorem irqIf_sec {c p i b} : (irqIf c p i b s).sec = s.sec := by unfold irqIf; split <;> simp
@[simp] theorem irqIf_pending {c p i b} : (irqIf c p i b s).pending = s.pending := by unfold irqIf; split <;> simp

@[simp] theorem recordErr_clk {p i c} : (recordErr p i c s).clk = s.clk := by simp [recordErr]
@[simp] theorem recordErr_priv {p i c} : (recordErr p i c s).priv = s.priv := by simp [recordErr]
@[simp] theorem recordErr_lanePriv {p i c} : (recordErr p i c s).lanePriv = s.lanePriv := by simp [recordErr]
@[simp] theorem recordErr_hubCnt {p i c} : (recordErr p i c s).hubCnt = s.hubCnt := by simp [recordErr]
@[simp] theorem recordErr_mem {p i c} : (recordErr p i c s).mem = s.mem := by simp [recordErr]
@[simp] theorem recordErr_servo {p i c} : (recordErr p i c s).servo = s.servo := by simp [recordErr]
@[simp] theorem recordErr_line {p i c} : (recordErr p i c s).line = s.line := by simp [recordErr]
@[simp] theorem recordErr_ptp {p i c} : (recordErr p i c s).ptp = s.ptp := by simp [recordErr]
@[simp] theorem recordErr_carts {p i c} : (recordErr p i c s).carts = s.carts := by simp [recordErr]
@[simp] theorem recordErr_cus {p i c} : (recordErr p i c s).cus = s.cus := by simp [recordErr]
@[simp] theorem recordErr_vote {p i c} : (recordErr p i c s).vote = s.vote := by simp [recordErr]
@[simp] theorem recordErr_img {p i c} : (recordErr p i c s).img = s.img := by simp [recordErr]
@[simp] theorem recordErr_boot {p i c} : (recordErr p i c s).boot = s.boot := by simp [recordErr]
@[simp] theorem recordErr_pwr {p i c} : (recordErr p i c s).pwr = s.pwr := by simp [recordErr]
@[simp] theorem recordErr_enc {p i c} : (recordErr p i c s).enc = s.enc := by simp [recordErr]
@[simp] theorem recordErr_ffy {p i c} : (recordErr p i c s).ffy = s.ffy := by simp [recordErr]
@[simp] theorem recordErr_prg {p i c} : (recordErr p i c s).prg = s.prg := by simp [recordErr]
@[simp] theorem recordErr_stp {p i c} : (recordErr p i c s).stp = s.stp := by simp [recordErr]
@[simp] theorem recordErr_adc {p i c} : (recordErr p i c s).adc = s.adc := by simp [recordErr]
@[simp] theorem recordErr_wl {p i c} : (recordErr p i c s).wl = s.wl := by simp [recordErr]
@[simp] theorem recordErr_ring {p i c} : (recordErr p i c s).ring = s.ring := by simp [recordErr]
@[simp] theorem recordErr_play {p i c} : (recordErr p i c s).play = s.play := by simp [recordErr]
@[simp] theorem recordErr_sdp {p i c} : (recordErr p i c s).sdp = s.sdp := by simp [recordErr]
@[simp] theorem recordErr_plf {p i c} : (recordErr p i c s).plf = s.plf := by simp [recordErr]
@[simp] theorem recordErr_arms {p i c} : (recordErr p i c s).arms = s.arms := by simp [recordErr]
@[simp] theorem recordErr_armsNext {p i c} : (recordErr p i c s).armsNext = s.armsNext := by simp [recordErr]
@[simp] theorem recordErr_ident {p i c} : (recordErr p i c s).ident = s.ident := by simp [recordErr]
@[simp] theorem recordErr_mnt {p i c} : (recordErr p i c s).mnt = s.mnt := by simp [recordErr]
@[simp] theorem recordErr_tds {p i c} : (recordErr p i c s).tds = s.tds := by simp [recordErr]
@[simp] theorem recordErr_saf {p i c} : (recordErr p i c s).saf = s.saf := by simp [recordErr]
@[simp] theorem recordErr_sec {p i c} : (recordErr p i c s).sec = s.sec := by simp [recordErr]
@[simp] theorem recordErr_pending {p i c} : (recordErr p i c s).pending = s.pending := by simp [recordErr]

@[simp] theorem wrapped_clk {p i n} : (wrapped p i n s).clk = s.clk := by simp [wrapped]
@[simp] theorem wrapped_priv {p i n} : (wrapped p i n s).priv = s.priv := by simp [wrapped]
@[simp] theorem wrapped_lanePriv {p i n} : (wrapped p i n s).lanePriv = s.lanePriv := by simp [wrapped]
@[simp] theorem wrapped_hubCnt {p i n} : (wrapped p i n s).hubCnt = s.hubCnt := by simp [wrapped]
@[simp] theorem wrapped_mem {p i n} : (wrapped p i n s).mem = s.mem := by simp [wrapped]
@[simp] theorem wrapped_servo {p i n} : (wrapped p i n s).servo = s.servo := by simp [wrapped]
@[simp] theorem wrapped_line {p i n} : (wrapped p i n s).line = s.line := by simp [wrapped]
@[simp] theorem wrapped_ptp {p i n} : (wrapped p i n s).ptp = s.ptp := by simp [wrapped]
@[simp] theorem wrapped_carts {p i n} : (wrapped p i n s).carts = s.carts := by simp [wrapped]
@[simp] theorem wrapped_cus {p i n} : (wrapped p i n s).cus = s.cus := by simp [wrapped]
@[simp] theorem wrapped_vote {p i n} : (wrapped p i n s).vote = s.vote := by simp [wrapped]
@[simp] theorem wrapped_img {p i n} : (wrapped p i n s).img = s.img := by simp [wrapped]
@[simp] theorem wrapped_boot {p i n} : (wrapped p i n s).boot = s.boot := by simp [wrapped]
@[simp] theorem wrapped_pwr {p i n} : (wrapped p i n s).pwr = s.pwr := by simp [wrapped]
@[simp] theorem wrapped_enc {p i n} : (wrapped p i n s).enc = s.enc := by simp [wrapped]
@[simp] theorem wrapped_ffy {p i n} : (wrapped p i n s).ffy = s.ffy := by simp [wrapped]
@[simp] theorem wrapped_prg {p i n} : (wrapped p i n s).prg = s.prg := by simp [wrapped]
@[simp] theorem wrapped_stp {p i n} : (wrapped p i n s).stp = s.stp := by simp [wrapped]
@[simp] theorem wrapped_adc {p i n} : (wrapped p i n s).adc = s.adc := by simp [wrapped]
@[simp] theorem wrapped_wl {p i n} : (wrapped p i n s).wl = s.wl := by simp [wrapped]
@[simp] theorem wrapped_ring {p i n} : (wrapped p i n s).ring = s.ring := by simp [wrapped]
@[simp] theorem wrapped_play {p i n} : (wrapped p i n s).play = s.play := by simp [wrapped]
@[simp] theorem wrapped_sdp {p i n} : (wrapped p i n s).sdp = s.sdp := by simp [wrapped]
@[simp] theorem wrapped_plf {p i n} : (wrapped p i n s).plf = s.plf := by simp [wrapped]
@[simp] theorem wrapped_arms {p i n} : (wrapped p i n s).arms = s.arms := by simp [wrapped]
@[simp] theorem wrapped_armsNext {p i n} : (wrapped p i n s).armsNext = s.armsNext := by simp [wrapped]
@[simp] theorem wrapped_ident {p i n} : (wrapped p i n s).ident = s.ident := by simp [wrapped]
@[simp] theorem wrapped_mnt {p i n} : (wrapped p i n s).mnt = s.mnt := by simp [wrapped]
@[simp] theorem wrapped_tds {p i n} : (wrapped p i n s).tds = s.tds := by simp [wrapped]
@[simp] theorem wrapped_saf {p i n} : (wrapped p i n s).saf = s.saf := by simp [wrapped]
@[simp] theorem wrapped_sec {p i n} : (wrapped p i n s).sec = s.sec := by simp [wrapped]
@[simp] theorem wrapped_pending {p i n} : (wrapped p i n s).pending = s.pending := by simp [wrapped]

@[simp] theorem countHub_clk {h p i n} : (countHub h p i n s).clk = s.clk := by unfold countHub; dsimp only; split <;> simp
@[simp] theorem countHub_priv {h p i n} : (countHub h p i n s).priv = s.priv := by unfold countHub; dsimp only; split <;> simp
@[simp] theorem countHub_lanePriv {h p i n} : (countHub h p i n s).lanePriv = s.lanePriv := by unfold countHub; dsimp only; split <;> simp
@[simp] theorem countHub_mem {h p i n} : (countHub h p i n s).mem = s.mem := by unfold countHub; dsimp only; split <;> simp
@[simp] theorem countHub_servo {h p i n} : (countHub h p i n s).servo = s.servo := by unfold countHub; dsimp only; split <;> simp
@[simp] theorem countHub_line {h p i n} : (countHub h p i n s).line = s.line := by unfold countHub; dsimp only; split <;> simp
@[simp] theorem countHub_ptp {h p i n} : (countHub h p i n s).ptp = s.ptp := by unfold countHub; dsimp only; split <;> simp
@[simp] theorem countHub_carts {h p i n} : (countHub h p i n s).carts = s.carts := by unfold countHub; dsimp only; split <;> simp
@[simp] theorem countHub_cus {h p i n} : (countHub h p i n s).cus = s.cus := by unfold countHub; dsimp only; split <;> simp
@[simp] theorem countHub_vote {h p i n} : (countHub h p i n s).vote = s.vote := by unfold countHub; dsimp only; split <;> simp
@[simp] theorem countHub_img {h p i n} : (countHub h p i n s).img = s.img := by unfold countHub; dsimp only; split <;> simp
@[simp] theorem countHub_boot {h p i n} : (countHub h p i n s).boot = s.boot := by unfold countHub; dsimp only; split <;> simp
@[simp] theorem countHub_pwr {h p i n} : (countHub h p i n s).pwr = s.pwr := by unfold countHub; dsimp only; split <;> simp
@[simp] theorem countHub_enc {h p i n} : (countHub h p i n s).enc = s.enc := by unfold countHub; dsimp only; split <;> simp
@[simp] theorem countHub_ffy {h p i n} : (countHub h p i n s).ffy = s.ffy := by unfold countHub; dsimp only; split <;> simp
@[simp] theorem countHub_prg {h p i n} : (countHub h p i n s).prg = s.prg := by unfold countHub; dsimp only; split <;> simp
@[simp] theorem countHub_stp {h p i n} : (countHub h p i n s).stp = s.stp := by unfold countHub; dsimp only; split <;> simp
@[simp] theorem countHub_adc {h p i n} : (countHub h p i n s).adc = s.adc := by unfold countHub; dsimp only; split <;> simp
@[simp] theorem countHub_wl {h p i n} : (countHub h p i n s).wl = s.wl := by unfold countHub; dsimp only; split <;> simp
@[simp] theorem countHub_ring {h p i n} : (countHub h p i n s).ring = s.ring := by unfold countHub; dsimp only; split <;> simp
@[simp] theorem countHub_play {h p i n} : (countHub h p i n s).play = s.play := by unfold countHub; dsimp only; split <;> simp
@[simp] theorem countHub_sdp {h p i n} : (countHub h p i n s).sdp = s.sdp := by unfold countHub; dsimp only; split <;> simp
@[simp] theorem countHub_plf {h p i n} : (countHub h p i n s).plf = s.plf := by unfold countHub; dsimp only; split <;> simp
@[simp] theorem countHub_arms {h p i n} : (countHub h p i n s).arms = s.arms := by unfold countHub; dsimp only; split <;> simp
@[simp] theorem countHub_armsNext {h p i n} : (countHub h p i n s).armsNext = s.armsNext := by unfold countHub; dsimp only; split <;> simp
@[simp] theorem countHub_ident {h p i n} : (countHub h p i n s).ident = s.ident := by unfold countHub; dsimp only; split <;> simp
@[simp] theorem countHub_mnt {h p i n} : (countHub h p i n s).mnt = s.mnt := by unfold countHub; dsimp only; split <;> simp
@[simp] theorem countHub_tds {h p i n} : (countHub h p i n s).tds = s.tds := by unfold countHub; dsimp only; split <;> simp
@[simp] theorem countHub_saf {h p i n} : (countHub h p i n s).saf = s.saf := by unfold countHub; dsimp only; split <;> simp
@[simp] theorem countHub_sec {h p i n} : (countHub h p i n s).sec = s.sec := by unfold countHub; dsimp only; split <;> simp
@[simp] theorem countHub_pending {h p i n} : (countHub h p i n s).pending = s.pending := by unfold countHub; dsimp only; split <;> simp

@[simp] theorem countPriv_clk {p n k} : (countPriv p n k s).clk = s.clk := by unfold countPriv; dsimp only; split <;> simp
@[simp] theorem countPriv_priv {p n k} : (countPriv p n k s).priv = s.priv := by unfold countPriv; dsimp only; split <;> simp
@[simp] theorem countPriv_hubCnt {p n k} : (countPriv p n k s).hubCnt = s.hubCnt := by unfold countPriv; dsimp only; split <;> simp
@[simp] theorem countPriv_mem {p n k} : (countPriv p n k s).mem = s.mem := by unfold countPriv; dsimp only; split <;> simp
@[simp] theorem countPriv_servo {p n k} : (countPriv p n k s).servo = s.servo := by unfold countPriv; dsimp only; split <;> simp
@[simp] theorem countPriv_line {p n k} : (countPriv p n k s).line = s.line := by unfold countPriv; dsimp only; split <;> simp
@[simp] theorem countPriv_ptp {p n k} : (countPriv p n k s).ptp = s.ptp := by unfold countPriv; dsimp only; split <;> simp
@[simp] theorem countPriv_carts {p n k} : (countPriv p n k s).carts = s.carts := by unfold countPriv; dsimp only; split <;> simp
@[simp] theorem countPriv_cus {p n k} : (countPriv p n k s).cus = s.cus := by unfold countPriv; dsimp only; split <;> simp
@[simp] theorem countPriv_vote {p n k} : (countPriv p n k s).vote = s.vote := by unfold countPriv; dsimp only; split <;> simp
@[simp] theorem countPriv_img {p n k} : (countPriv p n k s).img = s.img := by unfold countPriv; dsimp only; split <;> simp
@[simp] theorem countPriv_boot {p n k} : (countPriv p n k s).boot = s.boot := by unfold countPriv; dsimp only; split <;> simp
@[simp] theorem countPriv_pwr {p n k} : (countPriv p n k s).pwr = s.pwr := by unfold countPriv; dsimp only; split <;> simp
@[simp] theorem countPriv_enc {p n k} : (countPriv p n k s).enc = s.enc := by unfold countPriv; dsimp only; split <;> simp
@[simp] theorem countPriv_ffy {p n k} : (countPriv p n k s).ffy = s.ffy := by unfold countPriv; dsimp only; split <;> simp
@[simp] theorem countPriv_prg {p n k} : (countPriv p n k s).prg = s.prg := by unfold countPriv; dsimp only; split <;> simp
@[simp] theorem countPriv_stp {p n k} : (countPriv p n k s).stp = s.stp := by unfold countPriv; dsimp only; split <;> simp
@[simp] theorem countPriv_adc {p n k} : (countPriv p n k s).adc = s.adc := by unfold countPriv; dsimp only; split <;> simp
@[simp] theorem countPriv_wl {p n k} : (countPriv p n k s).wl = s.wl := by unfold countPriv; dsimp only; split <;> simp
@[simp] theorem countPriv_ring {p n k} : (countPriv p n k s).ring = s.ring := by unfold countPriv; dsimp only; split <;> simp
@[simp] theorem countPriv_play {p n k} : (countPriv p n k s).play = s.play := by unfold countPriv; dsimp only; split <;> simp
@[simp] theorem countPriv_sdp {p n k} : (countPriv p n k s).sdp = s.sdp := by unfold countPriv; dsimp only; split <;> simp
@[simp] theorem countPriv_plf {p n k} : (countPriv p n k s).plf = s.plf := by unfold countPriv; dsimp only; split <;> simp
@[simp] theorem countPriv_arms {p n k} : (countPriv p n k s).arms = s.arms := by unfold countPriv; dsimp only; split <;> simp
@[simp] theorem countPriv_armsNext {p n k} : (countPriv p n k s).armsNext = s.armsNext := by unfold countPriv; dsimp only; split <;> simp
@[simp] theorem countPriv_ident {p n k} : (countPriv p n k s).ident = s.ident := by unfold countPriv; dsimp only; split <;> simp
@[simp] theorem countPriv_mnt {p n k} : (countPriv p n k s).mnt = s.mnt := by unfold countPriv; dsimp only; split <;> simp
@[simp] theorem countPriv_tds {p n k} : (countPriv p n k s).tds = s.tds := by unfold countPriv; dsimp only; split <;> simp
@[simp] theorem countPriv_saf {p n k} : (countPriv p n k s).saf = s.saf := by unfold countPriv; dsimp only; split <;> simp
@[simp] theorem countPriv_sec {p n k} : (countPriv p n k s).sec = s.sec := by unfold countPriv; dsimp only; split <;> simp
@[simp] theorem countPriv_pending {p n k} : (countPriv p n k s).pending = s.pending := by unfold countPriv; dsimp only; split <;> simp

@[simp] theorem countBy_clk {p i n k} : (countBy p i n k s).clk = s.clk := by unfold countBy; dsimp only; split <;> simp
@[simp] theorem countBy_priv {p i n k} : (countBy p i n k s).priv = s.priv := by unfold countBy; dsimp only; split <;> simp
@[simp] theorem countBy_lanePriv {p i n k} : (countBy p i n k s).lanePriv = s.lanePriv := by unfold countBy; dsimp only; split <;> simp
@[simp] theorem countBy_hubCnt {p i n k} : (countBy p i n k s).hubCnt = s.hubCnt := by unfold countBy; dsimp only; split <;> simp
@[simp] theorem countBy_mem {p i n k} : (countBy p i n k s).mem = s.mem := by unfold countBy; dsimp only; split <;> simp
@[simp] theorem countBy_servo {p i n k} : (countBy p i n k s).servo = s.servo := by unfold countBy; dsimp only; split <;> simp
@[simp] theorem countBy_line {p i n k} : (countBy p i n k s).line = s.line := by unfold countBy; dsimp only; split <;> simp
@[simp] theorem countBy_ptp {p i n k} : (countBy p i n k s).ptp = s.ptp := by unfold countBy; dsimp only; split <;> simp
@[simp] theorem countBy_carts {p i n k} : (countBy p i n k s).carts = s.carts := by unfold countBy; dsimp only; split <;> simp
@[simp] theorem countBy_cus {p i n k} : (countBy p i n k s).cus = s.cus := by unfold countBy; dsimp only; split <;> simp
@[simp] theorem countBy_vote {p i n k} : (countBy p i n k s).vote = s.vote := by unfold countBy; dsimp only; split <;> simp
@[simp] theorem countBy_img {p i n k} : (countBy p i n k s).img = s.img := by unfold countBy; dsimp only; split <;> simp
@[simp] theorem countBy_boot {p i n k} : (countBy p i n k s).boot = s.boot := by unfold countBy; dsimp only; split <;> simp
@[simp] theorem countBy_pwr {p i n k} : (countBy p i n k s).pwr = s.pwr := by unfold countBy; dsimp only; split <;> simp
@[simp] theorem countBy_enc {p i n k} : (countBy p i n k s).enc = s.enc := by unfold countBy; dsimp only; split <;> simp
@[simp] theorem countBy_ffy {p i n k} : (countBy p i n k s).ffy = s.ffy := by unfold countBy; dsimp only; split <;> simp
@[simp] theorem countBy_prg {p i n k} : (countBy p i n k s).prg = s.prg := by unfold countBy; dsimp only; split <;> simp
@[simp] theorem countBy_stp {p i n k} : (countBy p i n k s).stp = s.stp := by unfold countBy; dsimp only; split <;> simp
@[simp] theorem countBy_adc {p i n k} : (countBy p i n k s).adc = s.adc := by unfold countBy; dsimp only; split <;> simp
@[simp] theorem countBy_wl {p i n k} : (countBy p i n k s).wl = s.wl := by unfold countBy; dsimp only; split <;> simp
@[simp] theorem countBy_ring {p i n k} : (countBy p i n k s).ring = s.ring := by unfold countBy; dsimp only; split <;> simp
@[simp] theorem countBy_play {p i n k} : (countBy p i n k s).play = s.play := by unfold countBy; dsimp only; split <;> simp
@[simp] theorem countBy_sdp {p i n k} : (countBy p i n k s).sdp = s.sdp := by unfold countBy; dsimp only; split <;> simp
@[simp] theorem countBy_plf {p i n k} : (countBy p i n k s).plf = s.plf := by unfold countBy; dsimp only; split <;> simp
@[simp] theorem countBy_arms {p i n k} : (countBy p i n k s).arms = s.arms := by unfold countBy; dsimp only; split <;> simp
@[simp] theorem countBy_armsNext {p i n k} : (countBy p i n k s).armsNext = s.armsNext := by unfold countBy; dsimp only; split <;> simp
@[simp] theorem countBy_ident {p i n k} : (countBy p i n k s).ident = s.ident := by unfold countBy; dsimp only; split <;> simp
@[simp] theorem countBy_mnt {p i n k} : (countBy p i n k s).mnt = s.mnt := by unfold countBy; dsimp only; split <;> simp
@[simp] theorem countBy_tds {p i n k} : (countBy p i n k s).tds = s.tds := by unfold countBy; dsimp only; split <;> simp
@[simp] theorem countBy_saf {p i n k} : (countBy p i n k s).saf = s.saf := by unfold countBy; dsimp only; split <;> simp
@[simp] theorem countBy_sec {p i n k} : (countBy p i n k s).sec = s.sec := by unfold countBy; dsimp only; split <;> simp
@[simp] theorem countBy_pending {p i n k} : (countBy p i n k s).pending = s.pending := by unfold countBy; dsimp only; split <;> simp

@[simp] theorem count_clk {p i n} : (count p i n s).clk = s.clk := by simp [count]
@[simp] theorem count_priv {p i n} : (count p i n s).priv = s.priv := by simp [count]
@[simp] theorem count_lanePriv {p i n} : (count p i n s).lanePriv = s.lanePriv := by simp [count]
@[simp] theorem count_hubCnt {p i n} : (count p i n s).hubCnt = s.hubCnt := by simp [count]
@[simp] theorem count_mem {p i n} : (count p i n s).mem = s.mem := by simp [count]
@[simp] theorem count_servo {p i n} : (count p i n s).servo = s.servo := by simp [count]
@[simp] theorem count_line {p i n} : (count p i n s).line = s.line := by simp [count]
@[simp] theorem count_ptp {p i n} : (count p i n s).ptp = s.ptp := by simp [count]
@[simp] theorem count_carts {p i n} : (count p i n s).carts = s.carts := by simp [count]
@[simp] theorem count_cus {p i n} : (count p i n s).cus = s.cus := by simp [count]
@[simp] theorem count_vote {p i n} : (count p i n s).vote = s.vote := by simp [count]
@[simp] theorem count_img {p i n} : (count p i n s).img = s.img := by simp [count]
@[simp] theorem count_boot {p i n} : (count p i n s).boot = s.boot := by simp [count]
@[simp] theorem count_pwr {p i n} : (count p i n s).pwr = s.pwr := by simp [count]
@[simp] theorem count_enc {p i n} : (count p i n s).enc = s.enc := by simp [count]
@[simp] theorem count_ffy {p i n} : (count p i n s).ffy = s.ffy := by simp [count]
@[simp] theorem count_prg {p i n} : (count p i n s).prg = s.prg := by simp [count]
@[simp] theorem count_stp {p i n} : (count p i n s).stp = s.stp := by simp [count]
@[simp] theorem count_adc {p i n} : (count p i n s).adc = s.adc := by simp [count]
@[simp] theorem count_wl {p i n} : (count p i n s).wl = s.wl := by simp [count]
@[simp] theorem count_ring {p i n} : (count p i n s).ring = s.ring := by simp [count]
@[simp] theorem count_play {p i n} : (count p i n s).play = s.play := by simp [count]
@[simp] theorem count_sdp {p i n} : (count p i n s).sdp = s.sdp := by simp [count]
@[simp] theorem count_plf {p i n} : (count p i n s).plf = s.plf := by simp [count]
@[simp] theorem count_arms {p i n} : (count p i n s).arms = s.arms := by simp [count]
@[simp] theorem count_armsNext {p i n} : (count p i n s).armsNext = s.armsNext := by simp [count]
@[simp] theorem count_ident {p i n} : (count p i n s).ident = s.ident := by simp [count]
@[simp] theorem count_mnt {p i n} : (count p i n s).mnt = s.mnt := by simp [count]
@[simp] theorem count_tds {p i n} : (count p i n s).tds = s.tds := by simp [count]
@[simp] theorem count_saf {p i n} : (count p i n s).saf = s.saf := by simp [count]
@[simp] theorem count_sec {p i n} : (count p i n s).sec = s.sec := by simp [count]
@[simp] theorem count_pending {p i n} : (count p i n s).pending = s.pending := by simp [count]

@[simp] theorem countIf_clk {c p i n} : (countIf c p i n s).clk = s.clk := by unfold countIf; split <;> simp
@[simp] theorem countIf_priv {c p i n} : (countIf c p i n s).priv = s.priv := by unfold countIf; split <;> simp
@[simp] theorem countIf_lanePriv {c p i n} : (countIf c p i n s).lanePriv = s.lanePriv := by unfold countIf; split <;> simp
@[simp] theorem countIf_hubCnt {c p i n} : (countIf c p i n s).hubCnt = s.hubCnt := by unfold countIf; split <;> simp
@[simp] theorem countIf_mem {c p i n} : (countIf c p i n s).mem = s.mem := by unfold countIf; split <;> simp
@[simp] theorem countIf_servo {c p i n} : (countIf c p i n s).servo = s.servo := by unfold countIf; split <;> simp
@[simp] theorem countIf_line {c p i n} : (countIf c p i n s).line = s.line := by unfold countIf; split <;> simp
@[simp] theorem countIf_ptp {c p i n} : (countIf c p i n s).ptp = s.ptp := by unfold countIf; split <;> simp
@[simp] theorem countIf_carts {c p i n} : (countIf c p i n s).carts = s.carts := by unfold countIf; split <;> simp
@[simp] theorem countIf_cus {c p i n} : (countIf c p i n s).cus = s.cus := by unfold countIf; split <;> simp
@[simp] theorem countIf_vote {c p i n} : (countIf c p i n s).vote = s.vote := by unfold countIf; split <;> simp
@[simp] theorem countIf_img {c p i n} : (countIf c p i n s).img = s.img := by unfold countIf; split <;> simp
@[simp] theorem countIf_boot {c p i n} : (countIf c p i n s).boot = s.boot := by unfold countIf; split <;> simp
@[simp] theorem countIf_pwr {c p i n} : (countIf c p i n s).pwr = s.pwr := by unfold countIf; split <;> simp
@[simp] theorem countIf_enc {c p i n} : (countIf c p i n s).enc = s.enc := by unfold countIf; split <;> simp
@[simp] theorem countIf_ffy {c p i n} : (countIf c p i n s).ffy = s.ffy := by unfold countIf; split <;> simp
@[simp] theorem countIf_prg {c p i n} : (countIf c p i n s).prg = s.prg := by unfold countIf; split <;> simp
@[simp] theorem countIf_stp {c p i n} : (countIf c p i n s).stp = s.stp := by unfold countIf; split <;> simp
@[simp] theorem countIf_adc {c p i n} : (countIf c p i n s).adc = s.adc := by unfold countIf; split <;> simp
@[simp] theorem countIf_wl {c p i n} : (countIf c p i n s).wl = s.wl := by unfold countIf; split <;> simp
@[simp] theorem countIf_ring {c p i n} : (countIf c p i n s).ring = s.ring := by unfold countIf; split <;> simp
@[simp] theorem countIf_play {c p i n} : (countIf c p i n s).play = s.play := by unfold countIf; split <;> simp
@[simp] theorem countIf_sdp {c p i n} : (countIf c p i n s).sdp = s.sdp := by unfold countIf; split <;> simp
@[simp] theorem countIf_plf {c p i n} : (countIf c p i n s).plf = s.plf := by unfold countIf; split <;> simp
@[simp] theorem countIf_arms {c p i n} : (countIf c p i n s).arms = s.arms := by unfold countIf; split <;> simp
@[simp] theorem countIf_armsNext {c p i n} : (countIf c p i n s).armsNext = s.armsNext := by unfold countIf; split <;> simp
@[simp] theorem countIf_ident {c p i n} : (countIf c p i n s).ident = s.ident := by unfold countIf; split <;> simp
@[simp] theorem countIf_mnt {c p i n} : (countIf c p i n s).mnt = s.mnt := by unfold countIf; split <;> simp
@[simp] theorem countIf_tds {c p i n} : (countIf c p i n s).tds = s.tds := by unfold countIf; split <;> simp
@[simp] theorem countIf_saf {c p i n} : (countIf c p i n s).saf = s.saf := by unfold countIf; split <;> simp
@[simp] theorem countIf_sec {c p i n} : (countIf c p i n s).sec = s.sec := by unfold countIf; split <;> simp
@[simp] theorem countIf_pending {c p i n} : (countIf c p i n s).pending = s.pending := by unfold countIf; split <;> simp

@[simp] theorem occupancy_clk {n} : (occupancy n s).clk = s.clk := by unfold occupancy; dsimp only; split <;> split <;> split <;> simp
@[simp] theorem occupancy_priv {n} : (occupancy n s).priv = s.priv := by unfold occupancy; dsimp only; split <;> split <;> split <;> simp
@[simp] theorem occupancy_hubCnt {n} : (occupancy n s).hubCnt = s.hubCnt := by unfold occupancy; dsimp only; split <;> split <;> split <;> simp
@[simp] theorem occupancy_mem {n} : (occupancy n s).mem = s.mem := by unfold occupancy; dsimp only; split <;> split <;> split <;> simp
@[simp] theorem occupancy_servo {n} : (occupancy n s).servo = s.servo := by unfold occupancy; dsimp only; split <;> split <;> split <;> simp
@[simp] theorem occupancy_line {n} : (occupancy n s).line = s.line := by unfold occupancy; dsimp only; split <;> split <;> split <;> simp
@[simp] theorem occupancy_ptp {n} : (occupancy n s).ptp = s.ptp := by unfold occupancy; dsimp only; split <;> split <;> split <;> simp
@[simp] theorem occupancy_carts {n} : (occupancy n s).carts = s.carts := by unfold occupancy; dsimp only; split <;> split <;> split <;> simp
@[simp] theorem occupancy_cus {n} : (occupancy n s).cus = s.cus := by unfold occupancy; dsimp only; split <;> split <;> split <;> simp
@[simp] theorem occupancy_vote {n} : (occupancy n s).vote = s.vote := by unfold occupancy; dsimp only; split <;> split <;> split <;> simp
@[simp] theorem occupancy_img {n} : (occupancy n s).img = s.img := by unfold occupancy; dsimp only; split <;> split <;> split <;> simp
@[simp] theorem occupancy_boot {n} : (occupancy n s).boot = s.boot := by unfold occupancy; dsimp only; split <;> split <;> split <;> simp
@[simp] theorem occupancy_pwr {n} : (occupancy n s).pwr = s.pwr := by unfold occupancy; dsimp only; split <;> split <;> split <;> simp
@[simp] theorem occupancy_enc {n} : (occupancy n s).enc = s.enc := by unfold occupancy; dsimp only; split <;> split <;> split <;> simp
@[simp] theorem occupancy_ffy {n} : (occupancy n s).ffy = s.ffy := by unfold occupancy; dsimp only; split <;> split <;> split <;> simp
@[simp] theorem occupancy_prg {n} : (occupancy n s).prg = s.prg := by unfold occupancy; dsimp only; split <;> split <;> split <;> simp
@[simp] theorem occupancy_stp {n} : (occupancy n s).stp = s.stp := by unfold occupancy; dsimp only; split <;> split <;> split <;> simp
@[simp] theorem occupancy_adc {n} : (occupancy n s).adc = s.adc := by unfold occupancy; dsimp only; split <;> split <;> split <;> simp
@[simp] theorem occupancy_wl {n} : (occupancy n s).wl = s.wl := by unfold occupancy; dsimp only; split <;> split <;> split <;> simp
@[simp] theorem occupancy_ring {n} : (occupancy n s).ring = s.ring := by unfold occupancy; dsimp only; split <;> split <;> split <;> simp
@[simp] theorem occupancy_play {n} : (occupancy n s).play = s.play := by unfold occupancy; dsimp only; split <;> split <;> split <;> simp
@[simp] theorem occupancy_sdp {n} : (occupancy n s).sdp = s.sdp := by unfold occupancy; dsimp only; split <;> split <;> split <;> simp
@[simp] theorem occupancy_plf {n} : (occupancy n s).plf = s.plf := by unfold occupancy; dsimp only; split <;> split <;> split <;> simp
@[simp] theorem occupancy_arms {n} : (occupancy n s).arms = s.arms := by unfold occupancy; dsimp only; split <;> split <;> split <;> simp
@[simp] theorem occupancy_armsNext {n} : (occupancy n s).armsNext = s.armsNext := by unfold occupancy; dsimp only; split <;> split <;> split <;> simp
@[simp] theorem occupancy_ident {n} : (occupancy n s).ident = s.ident := by unfold occupancy; dsimp only; split <;> split <;> split <;> simp
@[simp] theorem occupancy_mnt {n} : (occupancy n s).mnt = s.mnt := by unfold occupancy; dsimp only; split <;> split <;> split <;> simp
@[simp] theorem occupancy_tds {n} : (occupancy n s).tds = s.tds := by unfold occupancy; dsimp only; split <;> split <;> split <;> simp
@[simp] theorem occupancy_saf {n} : (occupancy n s).saf = s.saf := by unfold occupancy; dsimp only; split <;> split <;> split <;> simp
@[simp] theorem occupancy_sec {n} : (occupancy n s).sec = s.sec := by unfold occupancy; dsimp only; split <;> split <;> split <;> simp
@[simp] theorem occupancy_pending {n} : (occupancy n s).pending = s.pending := by unfold occupancy; dsimp only; split <;> split <;> split <;> simp

@[simp] theorem advance_clk {n} : (advance n s).clk = { s.clk with now := s.clk.now + n * edgeStep s.clk.rho } := by simp [advance]
@[simp] theorem advance_priv {n} : (advance n s).priv = s.priv := by simp [advance]
@[simp] theorem advance_hubCnt {n} : (advance n s).hubCnt = s.hubCnt := by simp [advance]
@[simp] theorem advance_mem {n} : (advance n s).mem = s.mem := by simp [advance]
@[simp] theorem advance_servo {n} : (advance n s).servo = s.servo := by simp [advance]
@[simp] theorem advance_line {n} : (advance n s).line = s.line := by simp [advance]
@[simp] theorem advance_ptp {n} : (advance n s).ptp = s.ptp := by simp [advance]
@[simp] theorem advance_carts {n} : (advance n s).carts = s.carts := by simp [advance]
@[simp] theorem advance_cus {n} : (advance n s).cus = s.cus := by simp [advance]
@[simp] theorem advance_vote {n} : (advance n s).vote = s.vote := by simp [advance]
@[simp] theorem advance_img {n} : (advance n s).img = s.img := by simp [advance]
@[simp] theorem advance_boot {n} : (advance n s).boot = s.boot := by simp [advance]
@[simp] theorem advance_pwr {n} : (advance n s).pwr = s.pwr := by simp [advance]
@[simp] theorem advance_enc {n} : (advance n s).enc = s.enc := by simp [advance]
@[simp] theorem advance_ffy {n} : (advance n s).ffy = s.ffy := by simp [advance]
@[simp] theorem advance_prg {n} : (advance n s).prg = s.prg := by simp [advance]
@[simp] theorem advance_stp {n} : (advance n s).stp = s.stp := by simp [advance]
@[simp] theorem advance_adc {n} : (advance n s).adc = s.adc := by simp [advance]
@[simp] theorem advance_wl {n} : (advance n s).wl = s.wl := by simp [advance]
@[simp] theorem advance_ring {n} : (advance n s).ring = s.ring := by simp [advance]
@[simp] theorem advance_play {n} : (advance n s).play = s.play := by simp [advance]
@[simp] theorem advance_sdp {n} : (advance n s).sdp = s.sdp := by simp [advance]
@[simp] theorem advance_plf {n} : (advance n s).plf = s.plf := by simp [advance]
@[simp] theorem advance_arms {n} : (advance n s).arms = s.arms := by simp [advance]
@[simp] theorem advance_armsNext {n} : (advance n s).armsNext = s.armsNext := by simp [advance]
@[simp] theorem advance_ident {n} : (advance n s).ident = s.ident := by simp [advance]
@[simp] theorem advance_mnt {n} : (advance n s).mnt = s.mnt := by simp [advance]
@[simp] theorem advance_tds {n} : (advance n s).tds = s.tds := by simp [advance]
@[simp] theorem advance_saf {n} : (advance n s).saf = s.saf := by simp [advance]
@[simp] theorem advance_sec {n} : (advance n s).sec = s.sec := by simp [advance]
@[simp] theorem advance_pending {n} : (advance n s).pending = s.pending := by simp [advance]

@[simp] theorem advanceTo_clk {t} : (advanceTo t s).clk = { s.clk with now := max s.clk.now t } := by simp [advanceTo]
@[simp] theorem advanceTo_priv {t} : (advanceTo t s).priv = s.priv := by simp [advanceTo]
@[simp] theorem advanceTo_hubCnt {t} : (advanceTo t s).hubCnt = s.hubCnt := by simp [advanceTo]
@[simp] theorem advanceTo_mem {t} : (advanceTo t s).mem = s.mem := by simp [advanceTo]
@[simp] theorem advanceTo_servo {t} : (advanceTo t s).servo = s.servo := by simp [advanceTo]
@[simp] theorem advanceTo_line {t} : (advanceTo t s).line = s.line := by simp [advanceTo]
@[simp] theorem advanceTo_ptp {t} : (advanceTo t s).ptp = s.ptp := by simp [advanceTo]
@[simp] theorem advanceTo_carts {t} : (advanceTo t s).carts = s.carts := by simp [advanceTo]
@[simp] theorem advanceTo_cus {t} : (advanceTo t s).cus = s.cus := by simp [advanceTo]
@[simp] theorem advanceTo_vote {t} : (advanceTo t s).vote = s.vote := by simp [advanceTo]
@[simp] theorem advanceTo_img {t} : (advanceTo t s).img = s.img := by simp [advanceTo]
@[simp] theorem advanceTo_boot {t} : (advanceTo t s).boot = s.boot := by simp [advanceTo]
@[simp] theorem advanceTo_pwr {t} : (advanceTo t s).pwr = s.pwr := by simp [advanceTo]
@[simp] theorem advanceTo_enc {t} : (advanceTo t s).enc = s.enc := by simp [advanceTo]
@[simp] theorem advanceTo_ffy {t} : (advanceTo t s).ffy = s.ffy := by simp [advanceTo]
@[simp] theorem advanceTo_prg {t} : (advanceTo t s).prg = s.prg := by simp [advanceTo]
@[simp] theorem advanceTo_stp {t} : (advanceTo t s).stp = s.stp := by simp [advanceTo]
@[simp] theorem advanceTo_adc {t} : (advanceTo t s).adc = s.adc := by simp [advanceTo]
@[simp] theorem advanceTo_wl {t} : (advanceTo t s).wl = s.wl := by simp [advanceTo]
@[simp] theorem advanceTo_ring {t} : (advanceTo t s).ring = s.ring := by simp [advanceTo]
@[simp] theorem advanceTo_play {t} : (advanceTo t s).play = s.play := by simp [advanceTo]
@[simp] theorem advanceTo_sdp {t} : (advanceTo t s).sdp = s.sdp := by simp [advanceTo]
@[simp] theorem advanceTo_plf {t} : (advanceTo t s).plf = s.plf := by simp [advanceTo]
@[simp] theorem advanceTo_arms {t} : (advanceTo t s).arms = s.arms := by simp [advanceTo]
@[simp] theorem advanceTo_armsNext {t} : (advanceTo t s).armsNext = s.armsNext := by simp [advanceTo]
@[simp] theorem advanceTo_ident {t} : (advanceTo t s).ident = s.ident := by simp [advanceTo]
@[simp] theorem advanceTo_mnt {t} : (advanceTo t s).mnt = s.mnt := by simp [advanceTo]
@[simp] theorem advanceTo_tds {t} : (advanceTo t s).tds = s.tds := by simp [advanceTo]
@[simp] theorem advanceTo_saf {t} : (advanceTo t s).saf = s.saf := by simp [advanceTo]
@[simp] theorem advanceTo_sec {t} : (advanceTo t s).sec = s.sec := by simp [advanceTo]
@[simp] theorem advanceTo_pending {t} : (advanceTo t s).pending = s.pending := by simp [advanceTo]

@[simp] theorem chg_clk {p i} : (chg p i s).clk = s.clk := by simp [chg]
@[simp] theorem chg_priv {p i} : (chg p i s).priv = s.priv := by simp [chg]
@[simp] theorem chg_lanePriv {p i} : (chg p i s).lanePriv = s.lanePriv := by simp [chg]
@[simp] theorem chg_hubCnt {p i} : (chg p i s).hubCnt = s.hubCnt := by simp [chg]
@[simp] theorem chg_mem {p i} : (chg p i s).mem = s.mem := by simp [chg]
@[simp] theorem chg_servo {p i} : (chg p i s).servo = s.servo := by simp [chg]
@[simp] theorem chg_line {p i} : (chg p i s).line = s.line := by simp [chg]
@[simp] theorem chg_ptp {p i} : (chg p i s).ptp = s.ptp := by simp [chg]
@[simp] theorem chg_carts {p i} : (chg p i s).carts = s.carts := by simp [chg]
@[simp] theorem chg_cus {p i} : (chg p i s).cus = s.cus := by simp [chg]
@[simp] theorem chg_vote {p i} : (chg p i s).vote = s.vote := by simp [chg]
@[simp] theorem chg_img {p i} : (chg p i s).img = s.img := by simp [chg]
@[simp] theorem chg_boot {p i} : (chg p i s).boot = s.boot := by simp [chg]
@[simp] theorem chg_pwr {p i} : (chg p i s).pwr = s.pwr := by simp [chg]
@[simp] theorem chg_enc {p i} : (chg p i s).enc = s.enc := by simp [chg]
@[simp] theorem chg_ffy {p i} : (chg p i s).ffy = s.ffy := by simp [chg]
@[simp] theorem chg_prg {p i} : (chg p i s).prg = s.prg := by simp [chg]
@[simp] theorem chg_stp {p i} : (chg p i s).stp = s.stp := by simp [chg]
@[simp] theorem chg_adc {p i} : (chg p i s).adc = s.adc := by simp [chg]
@[simp] theorem chg_wl {p i} : (chg p i s).wl = s.wl := by simp [chg]
@[simp] theorem chg_ring {p i} : (chg p i s).ring = s.ring := by simp [chg]
@[simp] theorem chg_play {p i} : (chg p i s).play = s.play := by simp [chg]
@[simp] theorem chg_sdp {p i} : (chg p i s).sdp = s.sdp := by simp [chg]
@[simp] theorem chg_plf {p i} : (chg p i s).plf = s.plf := by simp [chg]
@[simp] theorem chg_arms {p i} : (chg p i s).arms = s.arms := by simp [chg]
@[simp] theorem chg_armsNext {p i} : (chg p i s).armsNext = s.armsNext := by simp [chg]
@[simp] theorem chg_ident {p i} : (chg p i s).ident = s.ident := by simp [chg]
@[simp] theorem chg_mnt {p i} : (chg p i s).mnt = s.mnt := by simp [chg]
@[simp] theorem chg_tds {p i} : (chg p i s).tds = s.tds := by simp [chg]
@[simp] theorem chg_saf {p i} : (chg p i s).saf = s.saf := by simp [chg]
@[simp] theorem chg_sec {p i} : (chg p i s).sec = s.sec := by simp [chg]
@[simp] theorem chg_pending {p i} : (chg p i s).pending = s.pending := by simp [chg]

@[simp] theorem haLate_clk {p i n} : (haLate p i n s).clk = s.clk := by simp [haLate]
@[simp] theorem haLate_priv {p i n} : (haLate p i n s).priv = s.priv := by simp [haLate]
@[simp] theorem haLate_lanePriv {p i n} : (haLate p i n s).lanePriv = s.lanePriv := by simp [haLate]
@[simp] theorem haLate_hubCnt {p i n} : (haLate p i n s).hubCnt = s.hubCnt := by simp [haLate]
@[simp] theorem haLate_mem {p i n} : (haLate p i n s).mem = s.mem := by simp [haLate]
@[simp] theorem haLate_servo {p i n} : (haLate p i n s).servo = s.servo := by simp [haLate]
@[simp] theorem haLate_line {p i n} : (haLate p i n s).line = s.line := by simp [haLate]
@[simp] theorem haLate_ptp {p i n} : (haLate p i n s).ptp = s.ptp := by simp [haLate]
@[simp] theorem haLate_carts {p i n} : (haLate p i n s).carts = s.carts := by simp [haLate]
@[simp] theorem haLate_cus {p i n} : (haLate p i n s).cus = s.cus := by simp [haLate]
@[simp] theorem haLate_vote {p i n} : (haLate p i n s).vote = s.vote := by simp [haLate]
@[simp] theorem haLate_img {p i n} : (haLate p i n s).img = s.img := by simp [haLate]
@[simp] theorem haLate_boot {p i n} : (haLate p i n s).boot = s.boot := by simp [haLate]
@[simp] theorem haLate_pwr {p i n} : (haLate p i n s).pwr = s.pwr := by simp [haLate]
@[simp] theorem haLate_enc {p i n} : (haLate p i n s).enc = s.enc := by simp [haLate]
@[simp] theorem haLate_ffy {p i n} : (haLate p i n s).ffy = s.ffy := by simp [haLate]
@[simp] theorem haLate_prg {p i n} : (haLate p i n s).prg = s.prg := by simp [haLate]
@[simp] theorem haLate_stp {p i n} : (haLate p i n s).stp = s.stp := by simp [haLate]
@[simp] theorem haLate_adc {p i n} : (haLate p i n s).adc = s.adc := by simp [haLate]
@[simp] theorem haLate_wl {p i n} : (haLate p i n s).wl = s.wl := by simp [haLate]
@[simp] theorem haLate_ring {p i n} : (haLate p i n s).ring = s.ring := by simp [haLate]
@[simp] theorem haLate_play {p i n} : (haLate p i n s).play = s.play := by simp [haLate]
@[simp] theorem haLate_sdp {p i n} : (haLate p i n s).sdp = s.sdp := by simp [haLate]
@[simp] theorem haLate_plf {p i n} : (haLate p i n s).plf = s.plf := by simp [haLate]
@[simp] theorem haLate_arms {p i n} : (haLate p i n s).arms = s.arms := by simp [haLate]
@[simp] theorem haLate_armsNext {p i n} : (haLate p i n s).armsNext = s.armsNext := by simp [haLate]
@[simp] theorem haLate_ident {p i n} : (haLate p i n s).ident = s.ident := by simp [haLate]
@[simp] theorem haLate_mnt {p i n} : (haLate p i n s).mnt = s.mnt := by simp [haLate]
@[simp] theorem haLate_tds {p i n} : (haLate p i n s).tds = s.tds := by simp [haLate]
@[simp] theorem haLate_saf {p i n} : (haLate p i n s).saf = s.saf := by simp [haLate]
@[simp] theorem haLate_sec {p i n} : (haLate p i n s).sec = s.sec := by simp [haLate]
@[simp] theorem haLate_pending {p i n} : (haLate p i n s).pending = s.pending := by simp [haLate]

end Sys2Proof.Machine
end

