-- ==== Sys2Proof/Laws/Regs.lean ====
section
/-! SUPPORT. The register file: a register read after it is written, registers left alone, and what a count, an interrupt and an
error do to the registers of their page. -/

namespace Sys2Proof.Machine

variable {s : State} {p : Pg} {i off : Nat} {v : Word} {k : Nat}

theorem reg_eq_regAt : reg s p i off = regAt s (regKey p i off) := rfl

@[simp] theorem regKey_inj {a b : Nat} : regKey p i a = regKey p i b ↔ a = b := by simp [regKey]

theorem regsWf_setReg (h : regsWf s.regs = true) : regsWf (setReg p i off v s).regs = true := Sparse.wf_put h

/-- A register reads as the value just written. -/
theorem regAt_setReg_same (h : regsWf s.regs = true) : regAt (setReg p i off v s) (regKey p i off) = v :=
  Sparse.get_put_same h

/-- A write leaves every other register alone. -/
theorem regAt_setReg_other (h : regsWf s.regs = true) (hk : k ≠ regKey p i off) : regAt (setReg p i off v s) k = regAt s k :=
  Sparse.get_put_other hk h

theorem reg_setReg_same (h : regsWf s.regs = true) : reg (setReg p i off v s) p i off = v := regAt_setReg_same h

theorem reg_setReg_other {b : Nat} (h : regsWf s.regs = true) (hb : b ≠ off) : reg (setReg p i off v s) p i b = reg s p i b :=
  regAt_setReg_other h (by simpa using hb)

/-- Setting interrupt bits writes `IRQ_STAT` and nothing else of the file. -/
theorem irqMask_regs {m : Word} : (irqMask p i m s).regs = (setReg p i Reg.IRQ_STAT (reg s p i Reg.IRQ_STAT ||| m) s).regs := by
  unfold irqMask withRise
  dsimp only
  split <;> simp

theorem irqMask_regAt {m : Word} (k : Nat) : regAt (irqMask p i m s) k =
    regAt (setReg p i Reg.IRQ_STAT (reg s p i Reg.IRQ_STAT ||| m) s) k := by
  unfold regAt; rw [irqMask_regs]

theorem irq_regAt_other {b : Nat} (h : regsWf s.regs = true) (hk : k ≠ regKey p i Reg.IRQ_STAT) :
    regAt (irq p i b s) k = regAt s k := by
  unfold irq; rw [irqMask_regAt, regAt_setReg_other h hk]

theorem irq_regAt_same {b : Nat} (h : regsWf s.regs = true) :
    regAt (irq p i b s) (regKey p i Reg.IRQ_STAT) = reg s p i Reg.IRQ_STAT ||| BitVec.ofNat 32 (2 ^ b) := by
  unfold irq; rw [irqMask_regAt, regAt_setReg_same h]

theorem regsWf_irq {b : Nat} (h : regsWf s.regs = true) : regsWf (irq p i b s).regs = true := by
  unfold irq; rw [irqMask_regs]; exact regsWf_setReg h

/-- The bit of `IRQ_STAT` that an interrupt sets reads 1. -/
theorem irq_bit {b : Nat} (h : regsWf s.regs = true) (hb : b < 32) : bit (reg (irq p i b s) p i Reg.IRQ_STAT) b = true := by
  have e : (BitVec.ofNat 32 (2 ^ b)).getLsbD b = true := by
    rw [BitVec.getLsbD_ofNat]; simp [hb, Nat.testBit_two_pow_self]
  rw [reg_eq_regAt, irq_regAt_same h, bit, BitVec.getLsbD_or, e, Bool.or_true]

theorem regsWf_setFlag {b : Nat} {x : Bool} (h : regsWf s.regs = true) : regsWf (setFlag p i off b x s).regs = true :=
  regsWf_setReg h

theorem regsWf_wrapped {n : Nat} (h : regsWf s.regs = true) : regsWf (wrapped p i n s).regs = true :=
  regsWf_irq (regsWf_setFlag h)

/-- A wrap touches `CNT_OVF` and `IRQ_STAT` of its page only (R63). -/
theorem wrapped_regAt_other {n : Nat} (h : regsWf s.regs = true) (ho : k ≠ regKey p i Reg.CNT_OVF) (hi : k ≠ regKey p i Reg.IRQ_STAT) :
    regAt (wrapped p i n s) k = regAt s k := by
  unfold wrapped
  rw [irq_regAt_other (regsWf_setFlag h) hi]
  unfold setFlag setFld
  exact regAt_setReg_other h ho

/-- A lane-private counter touches the register file only in a wrap (R59, R63). -/
theorem regsWf_countPriv {n c : Nat} (h : regsWf s.regs = true) : regsWf (countPriv p n c s).regs = true := by
  unfold countPriv
  dsimp only
  split
  · exact h
  · exact regsWf_wrapped h

theorem countPriv_regAt_other {n c : Nat} (h : regsWf s.regs = true) (ho : k ≠ regKey p 0 Reg.CNT_OVF)
    (hi : k ≠ regKey p 0 Reg.IRQ_STAT) : regAt (countPriv p n c s) k = regAt s k := by
  unfold countPriv
  dsimp only
  split
  · rfl
  · exact wrapped_regAt_other (s := { s with lanePriv := _ }) h ho hi

/-- Edges of the cell clock keep the register file's form, and touch the registers of the dispatcher's page only (R63). -/
theorem regsWf_occupancy {n : Nat} (h : regsWf s.regs = true) : regsWf (occupancy n s).regs = true := by
  unfold occupancy
  dsimp only
  repeat' (first | exact h | (with_reducible apply regsWf_countPriv) | split)

theorem occupancy_regAt_other {n : Nat} (h : regsWf s.regs = true) (ho : k ≠ regKey .tds 0 Reg.CNT_OVF)
    (hi : k ≠ regKey .tds 0 Reg.IRQ_STAT) : regAt (occupancy n s) k = regAt s k := by
  have w : ∀ {t : State} {m : Nat}, regsWf t.regs = true → ∀ {b : Bool},
      regsWf (if b then countPriv .tds m n t else t).regs = true ∧ regAt (if b then countPriv .tds m n t else t) k = regAt t k := by
    intro t m ht b
    cases b
    · exact ⟨ht, rfl⟩
    · exact ⟨regsWf_countPriv ht, countPriv_regAt_other ht ho hi⟩
  unfold occupancy
  dsimp only
  rw [(w (w (w h).1).1).2, (w (w h).1).2, (w h).2]

theorem advance_regAt_other {n : Nat} (h : regsWf s.regs = true) (ho : k ≠ regKey .tds 0 Reg.CNT_OVF)
    (hi : k ≠ regKey .tds 0 Reg.IRQ_STAT) : regAt (advance n s) k = regAt s k :=
  occupancy_regAt_other (s := { s with clk := _ }) h ho hi

theorem regsWf_countBy {n c : Nat} (h : regsWf s.regs = true) : regsWf (countBy p i n c s).regs = true := by
  unfold countBy
  dsimp only
  split
  · exact regsWf_setReg h
  · exact regsWf_wrapped (regsWf_setReg h)

theorem regsWf_count {n : Nat} (h : regsWf s.regs = true) : regsWf (count p i n s).regs = true := regsWf_countBy h

/-- Counting touches the counter, `CNT_OVF` and `IRQ_STAT` of its page only. -/
theorem countBy_regAt_other {n c : Nat} (h : regsWf s.regs = true) (hk : k ∉ eventKeys p i n) :
    regAt (countBy p i n c s) k = regAt s k := by
  simp only [eventKeys, List.mem_cons, List.not_mem_nil, or_false, not_or] at hk
  unfold countBy
  dsimp only
  split
  · exact regAt_setReg_other h hk.2.1
  · rw [wrapped_regAt_other (regsWf_setReg h) hk.2.2 hk.1, regAt_setReg_other h hk.2.1]

theorem count_regAt_other {n : Nat} (h : regsWf s.regs = true) (hk : k ∉ eventKeys p i n) :
    regAt (count p i n s) k = regAt s k := countBy_regAt_other h hk

/-- A counter counts on modulo 2³². -/
theorem countBy_reg {n c : Nat} (h : regsWf s.regs = true) (hn : n < 16) :
    reg (countBy p i n c s) p i (Reg.CNT + 4 * n) = reg s p i (Reg.CNT + 4 * n) + BitVec.ofNat 32 c := by
  have e : BitVec.ofNat 32 ((reg s p i (Reg.CNT + 4 * n)).toNat + c) = reg s p i (Reg.CNT + 4 * n) + BitVec.ofNat 32 c := by
    apply BitVec.eq_of_toNat_eq; simp
  rw [← e]
  unfold countBy
  dsimp only
  split
  · exact reg_setReg_same h
  · rw [reg_eq_regAt, wrapped_regAt_other (regsWf_setReg h) (by simp [Reg.CNT, Reg.CNT_OVF]; omega)
      (by simp [Reg.CNT, Reg.IRQ_STAT]; omega), regAt_setReg_same h]

theorem count_reg {n : Nat} (h : regsWf s.regs = true) (hn : n < 16) :
    reg (count p i n s) p i (Reg.CNT + 4 * n) = reg s p i (Reg.CNT + 4 * n) + 1 := countBy_reg h hn

theorem regsWf_recordErr {c : Nat} (h : regsWf s.regs = true) : regsWf (recordErr p i c s).regs = true :=
  regsWf_irq (regsWf_setReg h)

/-- Recording an error touches `ERR` and `IRQ_STAT` of its page only. -/
theorem recordErr_regAt_other {c : Nat} (h : regsWf s.regs = true) (hk : k ∉ errKeys p i) : regAt (recordErr p i c s) k = regAt s k := by
  simp only [errKeys, List.mem_cons, List.not_mem_nil, or_false, not_or] at hk
  unfold recordErr
  dsimp only
  rw [irq_regAt_other (regsWf_setReg h) hk.2, regAt_setReg_other h hk.1]

/-- The error code that `ERR` shows after an error is recorded. -/
theorem recordErr_reg {c : Nat} (h : regsWf s.regs = true) :
    reg (recordErr p i c s) p i Reg.ERR = BitVec.ofNat 32 (min (fld s p i Reg.ERR 31 16 + 1) 0xFFFF * 2 ^ 16 + c % 2 ^ 16) := by
  unfold recordErr
  dsimp only
  rw [reg_eq_regAt, irq_regAt_other (regsWf_setReg h) (by simp [Reg.ERR, Reg.IRQ_STAT]), regAt_setReg_same h]

/-- With power, a meaning answers the next state that its effect gives. -/
theorem run_on {f : State → State} (h : s.clk.on = true) : run f s = .next (f s) := by simp [run, h]

/-- Without power nothing happens. -/
theorem run_off {f : State → State} (h : s.clk.on = false) : run f s = .next s := by simp [run, h]

/-- One element of a vector after it is set. -/
@[simp] theorem vset_same {α : Type} {n : Nat} {w : Vector α n} {j : Fin n} {x : α} : (vset w j x)[j] = x := by
  simp [vset]

theorem vset_other {α : Type} {n : Nat} {w : Vector α n} {j m : Fin n} {x : α} (h : m ≠ j) : (vset w j x)[m] = w[m] := by
  have : j.val ≠ m.val := fun e => h (Fin.ext e.symm)
  simp [vset, this]

@[simp] theorem vmod_same {α : Type} {n : Nat} {w : Vector α n} {j : Fin n} {f : α → α} : (vmod w j f)[j] = f w[j] :=
  vset_same

theorem vmod_other {α : Type} {n : Nat} {w : Vector α n} {j m : Fin n} {f : α → α} (h : m ≠ j) : (vmod w j f)[m] = w[m] :=
  vset_other h

end Sys2Proof.Machine
end

