-- ==== Sys2Proof/Tests/Slice0.lean ====
section
/-! SUPPORT. The model's own tests: states, operands that meet the hypotheses of every statement, examples of the spec, and commands
that well-formedness refuses. -/

namespace Sys2Proof.Tests

set_option Elab.async false

open Sys2Proof Sys2Proof.Machine

-- States

/-- Put registers. -/
def put (p : Pg) (i : Nat) (l : List (Nat × Word)) (s : State) : State := l.foldl (fun s r => setReg p i r.1 r.2 s) s
/-- A running module: cell time 1 ms after the sync instant of the bus cycle with tag 7. -/
def up : State := { State.reset with clk := { State.reset.clk with now := 5000000 * 2 ^ 32, ts := 4000000 * 2 ^ 32, running := true, started := true, tag := 7 } }
/-- One analogue pair enabled, its position 2 next. -/
def wAdc : State := put .adc 1 [(Reg.CTRL, 1), (Reg.ADC_INJ_CFG, 0x33)] { State.reset with
  adc := { State.reset.adc with pair := vset State.reset.adc.pair 1 { seqPos := 2, fifo := [(1, 2), (3, 4)] } }
  saf := { State.reset.saf with test := some (3, 1, true) } }
/-- The pair with a conversion of each kind under way. -/
def wAdcBusy : State := { wAdc with adc := { wAdc.adc with pair := vset wAdc.adc.pair 1 { conv := ⟨#[{ job := some ⟨.assisted, 5, 9, false, false, 0⟩ }, { calAct := true, fails := 1 }], rfl⟩, fifo := [(1, 2)] } } }
def wBusBank : WlBank := { epoch := 3, rate := 1, cycle := 12500, slots := 3, slotLen := 1000, apo := 1, minis := 10, miniLen := 50, miniApo := 1, symWin := 30, nit := 50, two := [], cons := [], dynTwo := [], dynCons := [], aux := [], tables := [] }
def wAdcLate : State := { wAdc with adc := { wAdc.adc with pair := vset wAdc.adc.pair 1 { conv := ⟨#[{ job := some ⟨.assisted, 5, 9, false, false, 1⟩ }, {}], rfl⟩ } } }
def wAdcRun : State := { wAdc with clk := { up.clk with now := 4100000 * 2 ^ 32, tag0 := 7 }, wl := { up.wl with banks := ⟨#[some wBusBank, none], rfl⟩ } }
def wFfy : State := put .ffy 3 [(Reg.CTRL, 1), (Reg.MODE, 1), (Reg.FFY_WIDTH, 50), (Reg.FFY_HA_TIME, 4999999), (Reg.FFY_CFG, 0)] { up with
  ffy := vset up.ffy 3 { haArmed := true, pulse := some 5000001, ptr := 2, qual := [(1, 2)], state := [(2, 1)], done := true } }
def wFfyList : State := put .tb 0 [(Reg.TB_LINE_CFG, 0x31)] <| put .ffy 3 [(Reg.CTRL, 1), (Reg.FFY_WIDTH, 50), (Reg.FFY_CFG, 0x401), (Reg.FFY_END, 2)] { up with
  line := { up.line with offset := 5 * 2 ^ 60, valid := true, last := 1000 }
  ffy := vset up.ffy 3 { ptr := 2, pos := [(2, 100)], qual := [(2, 2)], phase := -5 } }
def wEnc : State := put .enc 3 [(Reg.CTRL, 1), (Reg.ENC_CFG, 0x10)] { up with enc := vset up.enc 3 { count := 10, emuQueue := [true, false] } }
def wHall : State := put .enc 3 [(Reg.CTRL, 1), (Reg.ENC_CFG, 1)] { up with enc := vset up.enc 3 { hall := 1, count := 10, errLast := 2 } }
def wSsi : State := put .enc 3 [(Reg.CTRL, 1), (Reg.ENC_CFG, 2), (Reg.ENC_SSI_CFG, 0x18)] { up with enc := vset up.enc 3 { measured := true, reading := true } }
def wSsiMeas : State := put .enc 3 [(Reg.CTRL, 1), (Reg.ENC_CFG, 2), (Reg.MODE, 1)] { up with enc := vset up.enc 3 { measuring := true, haNew := true } }
def wEncT (x : Nat) : State := { wEnc with clk := { wEnc.clk with now := x * 2 ^ 32 }, enc := vset up.enc 3 { edgeAt := some (x - 4294967296), interval := 9 } }
def wEmu (x : Nat) : State := { wEnc with enc := vset up.enc 3 { emuQueue := [true, false], emuAt := some x } }
def wErr (x : Nat) : State := { wEnc with enc := vset up.enc 3 { errLast := 2, errWin := 3, errMs := x } }
def wPrg : State := put .prg 5 [(Reg.CTRL, 1), (Reg.MODE, 1)] { up with prg := vset up.prg 5 { haNew := true, haCommit := 100, haLo := 3 } }
def wPrgMove : State := put .prg 5 [(Reg.CTRL, 1), (Reg.PRG_HA_CFG, 1)] { up with prg := vset up.prg 5 { v := 0x4059000000000000, haFifo := [4] } }
def wStp : State := put .adc 1 [(Reg.CTRL, 1), (Reg.ADC_INJ_CFG, 0x34)] (put .stp 3 [(Reg.CTRL, 1), (Reg.STP_CFG, 0x01000001), (Reg.STP_TSEL, 255)] { up with
  stp := vset up.stp 3 { table := [(4, 7)] } })
def wStpMid : State := { wStp with clk := { wStp.clk with now := 5005000 * 2 ^ 32 } }
/-- The running module with its three lanes in step, lane 0 the lead. -/
def cell : State := { up with
  boot := { up.boot with admitted := true }
  carts := vset (vset (vset up.carts 0 { st := .instep, role := .lead }) 1 { st := .instep, role := .second }) 2 { st := .instep, role := .reserve } }
/-- Two lanes in step, lane 1 the lead, lane 2 in its cocoon. -/
def cell2 : State := { cell with carts := vset (vset (vset cell.carts 0 { st := .instep, role := .second }) 1 { st := .instep, role := .lead }) 2 { st := .cocoon } }
def wFull : State := { cell with link := { cell.link with fifo := List.replicate 256 ⟨0, 0x400080, 1⟩, stalled := [.bar0 1 0x400084 2 true] } }
def wStall : State := { cell with link := { cell.link with fifo := List.replicate 255 ⟨0, 0x400080, 1⟩, stalled := [.bar0 1 0x400084 2 true] } }
def wPriv : State := { cell2 with link := { cell2.link with winsel := ⟨#[2, 0], rfl⟩ } }
def wUnlock : State := { up with sec := { up.sec with session := some ⟨false, 0, 0x55AA55AA, true, 5⟩ } }
def wStallB : State := { cell with link := { cell.link with stalled := [.bar0 1 0x3C0000 5 false] } }
def wStallM : State := { cell with link := { cell.link with stalled := [.bar2 1 0x200000 [1, 2]] } }
def dead : State := { cell with clk := { cell.clk with on := false } }
/-- The time base host-assisted, its window 10 bus cycles. -/
def wTb : State := put .tb 0 [(Reg.MODE, 1), (Reg.TB_KP, 100), (Reg.TB_KI, 10), (Reg.TB_HA_CFG, 0xA0000)] { up with servo := { up.servo with haAge := 10, st := .locked } }
/-- The same, aligned. -/
def wTbAl : State := { wTb with servo := { wTb.servo with aligned := true } }
def lineOn : State := put .tb 0 [(Reg.TB_LINE_CFG, 0x31)] up
def lineBad : State := { lineOn with enc := vset up.enc 3 { fault := true } }
/-- Port 0 an ordinary clock that follows, enabled. -/
def wPtp : State := put .ptp 0 [(Reg.CTRL, 1), (Reg.PTP_CFG, 1), (Reg.PTP_PSTATE, 4)] up
def wMaster : State := put .ptp 0 [(Reg.CTRL, 1), (Reg.PTP_CFG, 2), (Reg.PTP_PSTATE, 6)] up
def wQual : State := put .ptp 0 [(Reg.CTRL, 1), (Reg.PTP_CFG, 2), (Reg.PTP_PSTATE, 5)] { up with ptp := vset up.ptp 0 { qual := some 5000000 } }
def wUncal : State := put .ptp 0 [(Reg.CTRL, 1), (Reg.PTP_CFG, 1), (Reg.PTP_PSTATE, 8)] { up with ptp := vset up.ptp 0 { master := some 77 } }
/-- Port 0 in SLAVE state, the servo locked to it. -/
def wSlave : State := put .ptp 0 [(Reg.CTRL, 1), (Reg.PTP_CFG, 1), (Reg.PTP_PSTATE, 9)] { up with ptp := vset up.ptp 0 { mpd := some 300 }, servo := { up.servo with st := .locked, src := 0, aligned := true } }
def wSlaveM : State := { wSlave with ptp := vset wSlave.ptp 0 { mpd := some 300, master := some 77, heard := [⟨100, 6, 0x20, 0x4E5D, 128, 5, 1, 77⟩] } }
/-- Port 0 in SLAVE state before its first sample. -/
def wSlave0 : State := put .ptp 0 [(Reg.CTRL, 1), (Reg.PTP_CFG, 2), (Reg.PTP_PSTATE, 9)] up
/-- Sessions and links up; vector 5 of port 0 is masked with a message pending. -/
def wSess : State := put .eth 0 [(Reg.ETH_LINK, 1)] { cell with
  sec := { cell.sec with session := some ⟨false, 2, 0x1234, false, 5⟩, conns := [2, 3], saf := true, seq := 8, ack := 4 }
  link := { cell.link with msix := vset cell.link.msix 0 [(5, ⟨0, 0, true, true⟩)] } }
def wSessHost : State := { wSess with sec := { wSess.sec with session := some ⟨false, 0, 0x1234, true, 5⟩ } }
/-- A full session, a valid new password in `PWD`. -/
def wPwd : State := put .sec 0 [(Reg.SEC_PWD, 0x41414141), (Reg.SEC_PWD + 4, 0x42424242), (Reg.SEC_LOG_WSEL, 7)] wSess
def wLock (e : Nat) : State := { cell with sec := { cell.sec with lockEnd := some e, left := 0 } }
/-- A password is stored and stands in `PWD`. -/
def wStored0 : State := put .sec 0 [(Reg.SEC_PWD, 0x41414141), (Reg.SEC_PWD + 4, 0x42424242)] cell
def wStored : State := { wStored0 with sec := { wStored0.sec with store := some (5, Config.passwordHash 5 (pwdBytes wStored0)) } }
def wAge (n : Nat) : State := { wSess with sec := { wSess.sec with session := some ⟨false, 2, 0x1234, false, n⟩ } }
def wAge2 (n : Nat) : State := { wAge n with clk := { wSess.clk with now := 900100000000 * 2 ^ 32 } }
/-- Give a cartridge a state. -/
def cart (c : Cart) (k : Cartridge) (s : State) : State := { s with carts := vset s.carts c k }
/-- Three lanes and both hubs in step, custodians acting, closed window of a lane vote that names lane 2. -/
def full : State := { cart 3 { st := .instep } (cart 4 { st := .instep } cell) with
  cus := ⟨#[{ st := .acting }, { st := .acting }], rfl⟩
  vote := { cell.vote with closed := true, digest := ⟨#[some 5, some 5, some 6], rfl⟩, named := 4, valid := true, vtag := 7 } }
/-- One hub silent. -/
def oneHub : State := { cart 4 { st := .silent } full with clk := { full.clk with alive := ⟨#[true, false], rfl⟩ } }
def wTaken : State := { full with clk := { full.clk with taken := ⟨#[none, some ⟨5, 0, false⟩, none], rfl⟩ } }
def refH1 : State := { full with clk := { full.clk with refHub := 1, alive := ⟨#[true, false], rfl⟩ } }
def refBoth : State := { full with clk := { full.clk with refHub := 1 } }
def hubLocks : State := cart 4 { st := .lock } { oneHub with wl := { oneHub.wl with eq := vset oneHub.wl.eq 0 ⟨#[[(4, {})], []], rfl⟩ } }
def hubLoads : State := cart 4 { st := .load } hubLocks
def hubTracks : State := cart 4 { st := .track, run := 64, fails := 2 } hubLocks
def hubTracks1 : State := cart 4 { st := .track, run := 63, fails := 0 } hubLocks
def hotOnes : State := cart 4 { st := .silent, hot := true } (cart 2 { st := .cocoon, hot := true } (cart 1 { st := .instep, hot := true, mute := true } full))
def c0 (k : Cartridge) : State := cart 2 k full
def noMaj : State := { cart 2 { st := .cocoon } full with vote := { full.vote with digest := ⟨#[some 5, some 5, none], rfl⟩, named := 0 } }
def fencedCus : State := { full with cus := ⟨#[{ st := .acting }, { st := .selfFenced, readmit := true, equalRun := 64 }], rfl⟩ }
/-- Bring-up at its start: nothing has happened since the power good. -/
def wBoot : State := cart 3 { st := .selftest } (cart 4 { st := .faulted } { State.reset with boot := { State.reset.boot with custodians := true } })
def wBoot1 : State := cart 3 { st := .lock } (cart 4 { st := .load } { State.reset with boot := { State.reset.boot with custodians := true, selfTest := true } })
def wBoot3 : State := cart 3 { st := .lock } (cart 4 { st := .load } { State.reset with boot := { State.reset.boot with custodians := true, selfTest := true, locked := true } })
def wBoot2 : State := cart 3 { st := .lock } (cart 4 { st := .load } State.reset)
def wReady : State := cart 0 { st := .cocoon, ready := true } (cart 2 { st := .cocoon, ready := true } { up with clk := { up.clk with now := 1600010000 * 2 ^ 32, tag := 0 } })
/-- A schedule of two static slots and ten minislots in a bus cycle of 1 ms: hub 0 sends slot 1, node 5 slot 2 and frame 300. -/
def bank : WlBank := { epoch := 3, rate := 1, cycle := 50000, slots := 3, slotLen := 1000, apo := 1, minis := 100, miniLen := 50, miniApo := 1, symWin := 30, nit := 50, two := [⟨1, 0, 0, 1, 4, 0⟩, ⟨1, 1, 0, 1, 4, 0⟩, ⟨2, 0, 5, 3, 34, 1⟩, ⟨3, 0, 0, 2, 34, 0⟩], cons := [⟨1, 0, 0, 1, 4, 0⟩], dynTwo := [⟨256, 0, 0, 7, 16, 0⟩, ⟨300, 0, 5, 8, 2, 0⟩], dynCons := [], aux := [], tables := [] }
/-- The schedule runs in the bus cycle with tag 64. -/
def wRun : State := commitSoldiers 0 { full with
  clk := { full.clk with ts := 0, tag := 64, now := 64000000 * 2 ^ 32 }
  wl := { full.wl with banks := ⟨#[some bank, none], rfl⟩, phase := .run, op := 1 } }
/-- The hubs' training cycles run. -/
def wTrains : State := { wRun with wl := { wRun.wl with train := ⟨#[5, 5], rfl⟩ } }
/-- Host-assisted, buffer 2 cyclic and not fresh, frames waiting in the receive FIFO. -/
def wBuf : State := put .wls 0 [(Reg.MODE, 1), (Reg.WLS_RX_FILT, 0x03FF0100), (Reg.WLS_HB_SEL, 2), (Reg.WLS_HB_ADDR, 253)] { wRun with
  wl := { wRun.wl with buf := vset wRun.wl.buf 2 { cfg := 300, data := [(5, 7)], last := some [1] }, rx := [⟨0, 300, 9, [1, 2]⟩], rxWord := 1, mini := ⟨#[300, 300], rfl⟩ } }
/-- A module that listens. -/
def wListen : State := { wRun with clk := { wRun.clk with running := false, started := false }, wl := { wRun.wl with phase := .listen, op := 0 } }
/-- A sync frame of hub 0 in cycle 5. -/
def syncBurst : Burst := ⟨burstSyms (frameBytes { fid := 1, cyc := 5, len := 4, sync := true, seq := 5, node := 0, epoch := 3, kind := 1 } [5, 0, 0, 0, 0, 0, 3, 0, 0, 0, 1, 0, 0, 0, 0, 0]), 0⟩
/-- A dynamic frame of node 5. -/
def dynBurst : Burst := ⟨burstSyms (frameBytes { fid := 300, cyc := 0, len := 2, seq := 1, node := 5, epoch := 3, kind := 8 } [1, 2, 3, 4, 5, 6, 7, 8]), 80⟩
def badBurst : Burst := ⟨[], 0⟩
/-- The same cut in its payload, so that no end-of-frame follows. -/
def cutBurst : Burst := { dynBurst with syms := dynBurst.syms.take 20 ++ [0] }
def wNext : State := commitSoldiers 1 { wRun with wl := { wRun.wl with banks := ⟨#[some bank, some { bank with epoch := 4 }], rfl⟩, epDue := true, consDue := true } }
def wNext0 : State := { wNext with wl := { wNext.wl with epDue := false, consDue := false } }
/-- Consolidated on channel 1, with the lost channel clean for 64 cycles. -/
def wCons : State := { wNext0 with wl := { wNext0.wl with op := 2, consAct := true, kept := 1, exitDue := true, clean := ⟨#[⟨#[64, 9], rfl⟩, ⟨#[64, 9], rfl⟩], rfl⟩ } }
/-- Channel 0 has failed at both hubs for long. -/
def wLost : State := { wNext0 with wl := { wNext0.wl with bad := ⟨#[⟨#[9, 0], rfl⟩, ⟨#[9, 0], rfl⟩], rfl⟩ } }
def wLost2 : State := { wNext0 with wl := { wNext0.wl with bad := ⟨#[⟨#[9, 9], rfl⟩, ⟨#[9, 9], rfl⟩], rfl⟩ } }
def wUp : State := { wRun with wl := { wRun.wl with op := 0, upCycles := 8, phase := .start } }
def wReq (r : Nat) : State := { wRun with wl := { wRun.wl with nack := 0x20, reqs := [⟨5, 4, 9, 0, [], true, r, 0, 5⟩, ⟨6, 1, 10, 0, [], false, 0, 0, 0⟩] } }
/-- A request of the configuration service waits for its frame. -/
def wDue : State := { wRun with wl := { wRun.wl with reqs := [⟨6, 1, 10, 0, [], false, 0, 0, 0⟩] } }
def wWire : State := { wRun with wl := { wRun.wl with wire := [⟨1, 1, 2, wRun.clk.now, burstSyms (frameBytes { fid := 1, cyc := 0, len := 0, seq := 0, node := 1, epoch := 3, kind := 1 } []), 3⟩] } }
def wEq (g : Nat) : State := { wRun with wl := { wRun.wl with eq := hcMod wRun.wl.eq 0 0 fun _ => [(4, { trained := true, slots := 128, good := g, done := false, ctle := 3, offset := 5, atlim := true })] } }
/-- A record body of 120 bytes from fields (offset in the record, bytes, value). -/
def recBody (l : List (Nat × Nat × Nat)) : List Byte :=
  (List.range 120).map fun k => BitVec.ofNat 8 ((l.foldl (fun m f => m + f.2.2 * 256 ^ (f.1 - 8)) 0) / 256 ^ k)
def args (fl : Byte) (l : List (Nat × Nat × Nat)) : RecArgs := ⟨77, fl, 0, 0, recBody l⟩
/-- Arm 1 moves and takes records at the start of a plan cycle. -/
def wArm : State := put .arm 1 [(Reg.CTRL, 1), (Reg.READY, 1), (Reg.ARM_WR_IDX, 1023), (Reg.ARM_RD_IDX, 1023)] { full with
  clk := { full.clk with now := 4000000 * 2 ^ 32, tag0 := 7 }, play := vset full.play 1 { rest := false }
  wl := { full.wl with banks := ⟨#[some bank, none], rfl⟩ } }
def wArmHa : State := put .arm 1 [(Reg.MODE, 1)] wArm
def wArmRest : State := { wArm with play := full.play }
/-- Within the plan cycle. -/
def wArmMid : State := { wArm with clk := full.clk }
def wArmFull : State := put .arm 1 [(Reg.ARM_WR_IDX, 1022)] wArmMid
/-- Arm 1 with one taken record, at rest. -/
def wTakenRec (r : RingRec) : State := put .tb 0 [(Reg.TB_LINE_CFG, 1)] <| put .arm 1 [(Reg.READY, 1), (Reg.ARM_RPT_WR, 2047), (Reg.ARM_RPT_RD, 2047), (Reg.ARM_HFLAG, 4), (Reg.ARM_WR_IDX, 9), (Reg.ARM_RD_IDX, 5)] { full with
  line := { full.line with valid := true }
  saf := { full.saf with inSync := 0 }
  ring := vset full.ring 1 { taken := [r], wait := some (1000, 6), starved := false } }
def moveRec : RingRec := ⟨3, 77, 1, 0, 0, 0, recBody [(8, 4, 0x3F800000), (12, 4, 0x3F800000)]⟩
def waitT (t : Nat) : RingRec := ⟨3, 78, 0x10, 0, 0, 0, recBody [(8, 8, t)]⟩
def waitAbs (t : Nat) : RingRec := ⟨3, 78, 0x10, 1, 0, 0, recBody [(8, 8, t)]⟩
def waitPh : RingRec := ⟨3, 79, 0x11, 0, 0, 0, recBody [(8, 8, 0), (16, 8, 1)]⟩
def waitIn (kind ch lvl : Nat) (fl : Byte) : RingRec := ⟨3, 80, 0x12, fl, 0, 0, recBody [(8, 1, kind), (9, 1, ch), (10, 1, lvl), (16, 8, 4000000)]⟩
def rdvRec : RingRec := ⟨3, 81, 0x50, 1, 0, 0, recBody [(8, 2, 55), (10, 2, 6), (16, 8, 4000000)]⟩
def wRdv : State := { wTakenRec rdvRec with ring := vset (vset full.ring 1 { taken := [rdvRec], wait := some (1000, 0), rdv := true }) 2 { taken := [rdvRec], wait := some (1000, 0), rdv := true } }
/-- Its motion record has reached its end point. -/
def wReached : State := { wTakenRec moveRec with ring := vset full.ring 1 { taken := [moveRec], ends := [(3, 0)], onPath := [3, 4] } }
def wHaltMove : State := { wTakenRec moveRec with ring := vset full.ring 1 { taken := [moveRec], halt := 2, wait := some (1, 2) } }
def wHalt (h : Nat) : State := { wTakenRec moveRec with ring := vset full.ring 1 { taken := [], halt := h } }
/-- A pattern of horizon 5 and plan cycle 4. -/
def pat : Pattern := { patid := 9, rows := 10, primal := 10, nnz := 10, horizon := 5, plancyc := 4, slots := 0, tFact := 100, tIter := 10, pairid := 7, fits := true, signsOk := true, deltaP := 0x3E112E0BE826D695, deltaD := 0x3E112E0BE826D695, sigmaC := 0x3DCCCCCD, tau := 0x3F7EB852, push := 0x3C23D70A, groups := [], order := [], fill := [] }
/-- A programme of one variable between 0 and 1. -/
def small : Programme := ⟨[(.track 1 0 1, ⟨some 0, some 0x3FF0000000000000, 0x3FF0000000000000, 0, 0⟩)], []⟩
def smallIt : Iterate := ⟨[0x3FE0000000000000], [0x3FF0000000000000], [0x3FF0000000000000], [], [], [], [], 0x3FE0000000000000⟩
/-- An arm of one joint. -/
def model : ArmModel := { joints := [⟨true, -1048576, 1048576, 0x400921FB54442D18, 0x4024000000000000, 0x4059000000000000, 0xC059000000000000, 0x4059000000000000⟩], lineCap := false, base := ⟨⟨0, 0, 0⟩, ⟨0x3FF0000000000000, 0, 0, 0⟩⟩, links := [], flange := ⟨⟨0, 0, 0⟩, ⟨0x3FF0000000000000, 0, 0, 0⟩⟩, reachC := [0, 0, 0], reach := 0x4000000000000000, tsets := 1, tool := {}, lo := List.replicate 10 0, hi := List.replicate 10 0x3F800000, p0 := List.replicate 10 0x3FF0000000000000 }
/-- A kernel bank that binds joint 0 of arm 1 to core 0. -/
def kbank : KernelBank := ⟨5, [], (List.replicate 8 0) ++ [1], [], [⟨770, 2, 1, 3, none, 4, 2, none, 0, 0, 0, 0⟩], [⟨20, 1, 5⟩]⟩
/-- A plan under way for arm 1 in a cycle that starts a plan cycle. -/
def wPlan : State := put .plf 0 [(Reg.PLF_CFG, 0x003C0302)] { wRun with
  plf := { wRun.plf with banks := ⟨#[some pat, some { pat with plancyc := 2 }], rfl⟩, busy := true, step := 1, pos := 0, cfg := 0x003C0302, prog := some small, iterates := [smallIt], startTag := 60, words := ⟨#[some (4095, false), some (4095, false), some (4000, false)], rfl⟩ }
  arms := some { arms := [(1, model)], couplings := [], gravity := ⟨0, 0, 0⟩, selDist := 0, dPlan := 0, aS := 0, rho1 := 0, rho2 := 0, tolEq := 0, tolBnd := 0, tolSig := 0 }
  sdp := { wRun.sdp with banks := ⟨#[some kbank, none], rfl⟩, fb := vset wRun.sdp.fb 1 { present := true }, joint := vset wRun.sdp.joint 8 { rxPos := 1000, rxBits := 1, posNow := 900 } }
  play := vset wRun.play 1 { segs := [⟨4, [[10, 0, 0, 0, 0, 0]], [0], [0], [0], [0], (0, 0, 0)⟩], rejects := 2, rest := false } }
def wIdle : State := { wPlan with plf := { wPlan.plf with busy := false } }
def wPlan2 : State := { wPlan with plf := { wPlan.plf with step := 2, pos := 2047 } }
def wPlan1 : State := { wPlan with plf := { wPlan.plf with step := 1, pos := 2047 } }
def wStopArm : State := { wPlan with
  saf := { wPlan.saf with arm := vset wPlan.saf.arm 1 { st := 0, cause := 0 }, out := { wPlan.saf.out with stoA := 0xFFF, stoB := 0xFFF, sbc := 0xFFF, soLive := true } }
  play := vset wPlan.play 1 { wPlan.play[(1 : Arm)] with rejects := 3 } }
/-- A fall that the tail cannot finish. -/
def wTail : State := { wStopArm with play := vset wPlan.play 1 { ended := true, profile := some ⟨[⟨0x4024000000000000, 0x3FF0000000000000, 0, 0⟩], 0, false⟩ } }
def wStopEnd : State := { wStopArm with play := vset wPlan.play 1 { stopping := true, rejects := 3, ended := true } }
def wKin : State := put .kin 1 [(Reg.MODE, 1), (Reg.KIN_HA_CFG, 9)] { wPlan with ident := vset wPlan.ident 1 { haAge := 9 } }
/-- Identification can run: a frame with every joint valid. -/
def wIdent : State := put .kin 1 [(Reg.KIN_ID_CFG, 1)] { wStopArm with play := vset wPlan.play 1 {} }
def wPlfDue : State := { wIdle with plf := { wIdle.plf with pend := some 64 }, armsNext := none }
def wSdp : State := put .sdp 0 [(Reg.CTRL, 0)] wPlan
def wPar : State := put .sdp 0 [(Reg.SDP_PSEL, 0x5F3F)] { wPlan with sdp := { wPlan.sdp with joint := vset wPlan.sdp.joint 95 { par := [(1, 5)], shadow := [(3, 9), (1, 0)] } } }
def wKNext : State := { wPlan with sdp := { wPlan.sdp with banks := ⟨#[some kbank, some { kbank with id := 6, kernels := [⟨8, false, [1, 2], 10, 3, 4, 5⟩] }], rfl⟩ } }
def wKDue : State := { wKNext with sdp := { wKNext.sdp with pend := some 60 } }
/-- Core 2 runs with results on their way. -/
def macOf (k : MacCore) : State := { full with sdp := { full.sdp with core := vset full.sdp.core 2 k, late := vset full.sdp.late 2 [.acc 1 5, .d 3 7, .a 2 9] } }
/-- Registers with the extremes of their range, rotation on, T and V set. -/
def mk : MacCore := { d := ⟨#[5, 0x80000000, 0x7FFFFFFF, 0xFFFFFFFF, 0, 1, 0x4B000000, 0xC2F70000, 8, 9, 10, 11, 12, 13, 14, 15], rfl⟩, acc := ⟨#[7, 0x800000000000000000, 0xFFFFFFFFFFFFFFFFFF, 0x123456789ABCDEF], rfl⟩, a := ⟨#[0, 16383, 16384, 5, 6, 7, 8, 9], rfl⟩, m := ⟨#[1, 0x200000, 0xFFFF, 0x10001, 0, 0, 0, 0], rfl⟩, w := ⟨#[0, 0, 0, 6, 0, 0, 0, 0], rfl⟩, rotb := 3, rotOn := true, flg := 3, pc := 10, lc := 2, xMem := [(0, 21)], yMem := [(5, 23), (6, 24)], joint := 17, kernel := 9, pmap := 0xF59D18 }
def mk0 : MacCore := { mk with flg := 0, rotOn := false, lc := 1, stream := true, sMem := [(0, 77)] }
def in1 (k : MacCore) : MacCore := { k with loops := [⟨8, 10, 4, false⟩] }
def in1o (k : MacCore) : MacCore := { k with loops := [⟨8, 20, 4, false⟩] }
def in2 (k : MacCore) : MacCore := { k with loops := [⟨8, 10, 4, true⟩] }
def in3 (k : MacCore) : MacCore := { k with loops := [⟨8, 12, 4, false⟩, ⟨7, 20, 4, true⟩] }
/-- A mantis section with one guard source of watchdog 4. -/
def mbank : MantisBank := ⟨21, [], [], [(3, ⟨2, 0, 9, 0, 0, 4, 10, 0, 0, 0⟩)], [], [], 0, 0, []⟩
/-- The mantis section in force and another for the next, the session with the safety key, host-assisted. -/
def wMnt : State := put .mnt 0 [(Reg.MODE, 1), (Reg.MNT_HT_SEL, 0xF5), (Reg.MNT_HT_CFG, 9)] { wRun with
  mnt := { wRun.mnt with banks := ⟨#[some mbank, some { mbank with id := 22 }], rfl⟩, src := vset wRun.mnt.src 3 { lost := false, held := 3, run := 2, tracks := [(1, ⟨false, 1, [], [], []⟩)] }, htOn := true, htAge := 9, htShadow := [(3, 4)] }
  sec := { wRun.sec with saf := true }
  plf := { wRun.plf with banks := ⟨#[some pat, none], rfl⟩ } }
def wMntDue : State := { wMnt with mnt := { wMnt.mnt with pend := some 64 } }
def wMntSaf : State := { wMntDue with saf := { wMnt.saf with next := some ⟨5, [(0x4A0088, 3)], Vector.replicate 12 (Vector.replicate 3 6), [(1, 2, 3)]⟩ } }
def wMnt0 : State := { wMnt with mnt := { wMnt.mnt with banks := ⟨#[some mbank, none], rfl⟩, src := vset wMnt.mnt.src 3 { lost := true } }, sec := { wMnt.sec with saf := false } }
def wMntN : State := { wMnt with sec := { wMnt.sec with saf := false } }
/-- Templates 20 (two operands, flow 5), 21 (one operand, no flow) and 22; an entry of the matching store. -/
def wTds : State := put .tb 0 [(Reg.TB_LINE_CFG, 0x31)] { wRun with
  tds := { wRun.tds with templates := [⟨20, 2, 2, 3, some 5, 1, 4, none, 0, 0, 0, 0⟩, ⟨21, 1, 1, 0, none, 0, 1, none, 0, 0, 0, 0⟩, ⟨22, 2, 3, 7, some 5, 2, 0, some 0, 0, 0, 0, 0⟩], flows := [⟨5, 0, 100⟩, ⟨6, 3, 0⟩], matching := [⟨⟨64, 20, 3⟩, [(0, 7)]⟩, ⟨⟨60, 20, 3⟩, [(0, 7)]⟩], ready := [⟨⟨64, 20, 1⟩, 2, 3, 5⟩, ⟨⟨64, 22, 2⟩, 2, 7, 6⟩, ⟨⟨64, 22, 1⟩, 2, 7, 4⟩], stamps := 7, running := [(1, 2, ⟨64, 20, 9⟩), (2, 1, ⟨64, 20, 8⟩), (2, 2, ⟨64, 20, 7⟩)], held := [⟨5, 1, ⟨64, 20, 0⟩, 9⟩], released := [(5, ⟨64, 20, 7⟩, true)], expired := [⟨60, 22, 1⟩], timeList := [⟨5, 1, 20, .output 1 ⟨3, 77, 1, 0, 0, 0, []⟩, false⟩, ⟨2 ^ 70, 1, 20, .operand 0 0 0, false⟩], phaseList := [⟨-3, 1, 20, .output 1 ⟨3, 77, 1, 0, 0, 0, []⟩, false⟩, ⟨2 ^ 70, 1, 20, .operand 0 0 0, false⟩] }, line := { wRun.line with valid := true } }
def wTdsFull : State := { wTds with tds := { wTds.tds with matching := List.replicate matchCap ⟨⟨1, 20, 3⟩, [(0, 7)]⟩ } }
/-- Two reports of arm 1 are due. -/
def wTdsRep : State := { wTds with ring := vset wTds.ring 1 { due := [newReport wTds 5 1 .done 0 3 0, newReport wTds 6 2 .malformed 4 4 0] } }
def wTdsRev : State := { wTds with line := { wTds.line with rev := true } }
def wTdsBad : State := { wTds with line := { wTds.line with valid := false, hold := some 7 } }
def wComb : State := { wTds with tds := { wTds.tds with comb := [⟨⟨64, 20, 5⟩, [(1, 1)]⟩], combReady := [⟨⟨64, 20, 6⟩, 2, 7, 3⟩], combTime := [⟨1, 1, 20, .operand 0 0 0, false⟩] } }
/-- Safety input 3 is of trip function 1 for arms 1 and 3. -/
def wSio : State := put .saf 0 [(Reg.SAF_GCFG, 0x80052814)] (put .sio 0 [(Reg.SIO_SI_CFG + 12, 0x00A10000), (Reg.SIO_RST_CFG, 0x00F00001)] { wRun with
  sec := { wRun.sec with saf := true, sio := true }, saf := { wRun.saf with loaded := true, out := { wRun.saf.out with stoA := 0xFFF, stoB := 0xFFF, sbc := 0xFFF, soLive := true }, chanA := ⟨#[8, 8], rfl⟩, chanB := ⟨#[0, 0], rfl⟩, arm := Vector.replicate 12 { st := 0, cause := 0 } } })
def wTest : State := { wSio with saf := { wSio.saf with test := some (3, 1, false) } }
def wSlot : State := { wSio with clk := { wSio.clk with now := 1575000000 * 2 ^ 32 } }
def wTestWait : State := { wSio with saf := { wSio.saf with testAt := vset wSio.saf.testAt 3 (vset wSio.saf.testAt[(3 : Sixteen)] 1 63000000) } }
def wRst (r : Nat) (stuck : Bool) : State := { wSio with saf := { wSio.saf with rstLvl := vset wSio.saf.rstLvl 1 true, rstRise := vset wSio.saf.rstRise 1 r, rstStuck := vset wSio.saf.rstStuck 1 stuck }, clk := { wSio.clk with now := 5000000000 * 2 ^ 32 } }
def wRstS (k : Nat) (r : Nat) : State := { wRst r false with saf := { (wRst r false).saf with arm := Vector.replicate 12 { st := k, cause := 6, noss1 := true } } }
def wSwOff : State := put .saf 0 [(Reg.SAF_GCFG, 0x52814)] wSio
def wSw (r : Nat) : State := { wRst 0 false with saf := { wSio.saf with swRise := some r } }
def wSvc (x : Nat) : State := { wSio with saf := { wSio.saf with svcOn := true, svcStart := 0, arm := vset wSio.saf.arm 4 { st := 2, cause := 5 } }, clk := { wSio.clk with now := x * 10 ^ 9 * 2 ^ 32 } }
def wArmSt (k : ArmSafety) : State := { wSio with saf := { wSio.saf with arm := vset wSio.saf.arm 1 k, acfg := vset wSio.saf.acfg 1 ⟨#[0x00320000, 0x00640000, 0], rfl⟩ } }
def wFb (k l : Nat) : State := { wArmSt { st := k, cause := 0 } with sdp := { wSio.sdp with fb := vset wSio.sdp.fb 1 { lost := l } } }
def hubOne (s : State) : State := { s with clk := { s.clk with alive := oneHub.clk.alive } }
def noAdm (s : State) : State := { s with boot := { s.boot with admitted := false } }
def one (s : State) : State := cart 1 { st := .cocoon } (cart 2 { st := .faulted } s)
def none3 (s : State) : State := cart 0 { st := .silent } (one s)
/-- A load that is under way. -/
def wImg (j : LoadJob) : State := { wRun with img := { wRun.img with stat := 1, job := some j } }
def fwHead : List Byte := leBytes 4 0x49435A4C ++ leBytes 2 1 ++ leBytes 2 1 ++ leBytes 4 178 ++ leBytes 4 0x1286b7e5 ++ leBytes 4 1 ++ leBytes 2 0 ++ leBytes 2 5 ++ leBytes 2 6 ++ leBytes 2 7 ++ leBytes 2 0 ++ leBytes 18 0 ++ leBytes 4 82 ++ leBytes 12 0 ++ [16, 0, 0, 0] ++ leBytes 4 80 ++ leBytes 4 2 ++ leBytes 4 0xb6cc4292 ++ [1, 2]
def wMolt : State := { cart 2 { st := .cocoon } wRun with mem := (List.range fwHead.length).foldl (fun m k => Sparse.put 0 (0x08800000 + k) (fwHead.getD k 0) m) [] }
def cls (c n : BitVec 16) (s : State) : State := cart 0 { st := .instep, fwClass := c, fwNext := n } (cart 1 { st := .instep, fwClass := c, fwNext := n } (cart 2 { st := .cocoon, fwClass := 1 } s))
def wSwitch (h : Bool) (n : Nat) : State := { wMnt with img := { wMnt.img with switch := some (h, 7, n) } }

/-- The module is on and its register file is in canonical form. -/
def fine (s : State) : Bool := s.clk.on && regsWf s.regs

-- Examples of the spec

/-- The nine ASCII digits "123456789" over which R134, R135 and R149 give their check values. -/
def nine : List Byte := [0x31, 0x32, 0x33, 0x34, 0x35, 0x36, 0x37, 0x38, 0x39]

/-- R134: the check value of `HCRC`. -/
theorem test_crc16 : crc16 nine = 0x29B1 := by decide +kernel

/-- R135, R149: the check values of the IEEE 802.3 frame check sequence and of CRC-32C. -/
theorem test_crc32 : crc32 nine = 0xCBF43926 ∧ crc32c nine = 0xE3069283 := by decide +kernel

/-- Chapter 02, "locating registers": `ENC[3].CNT0` and `KIN[7].IRQ_STAT`. -/
theorem test_addresses : regKey .enc 3 Reg.CNT = 0x123040 ∧ regKey .kin 7 Reg.IRQ_STAT = 0x427018 ∧ pageAddr .arm 4 = 0x444000 := by decide +kernel

/-- Chapter 02: the two addresses decode to their registers. -/
theorem test_window : decodeWindow false 0x123040 = some ⟨.enc, 3, Reg.CNT⟩ ∧ decodeWindow true 0x27018 = some ⟨.kin, 7, Reg.IRQ_STAT⟩ := by
  decide +kernel

/-- Chapter 03, "phase at a sync instant": 40 µs after the edge of count 1,000,000. -/
def wPhase : State := { put .tb 0 [(Reg.TB_LINE_CFG, 0x31)] up with
  clk := { up.clk with now := 5040000 * 2 ^ 32 }
  enc := vset up.enc 3 { count := 1000000, edgeAt := some 5000000, interval := 97656, sameDir := true } }
theorem test_line_phase : lineFrac 40000 97656 = 0x68DB ∧ linePhase wPhase = 65536026843 := by decide +kernel

/-- Chapter 15: half a count is reached 48,828 ns after the edge and not before. -/
theorem test_half_count : lineFrac 48828 97656 = 32768 ∧ lineFrac 48827 97656 = 32767 := by decide +kernel

/-- Chapter 05, R141: with 65,530 kept, 4 is ahead by 10; a second copy is not ahead. -/
theorem test_seq : ((4 : BitVec 16) - 65530).toNat = 10 ∧ ((4 : BitVec 16) - 4).toNat = 0 := by decide

/-- Chapter 16, "one reference at 16 microsteps": c = 37 at full scale. -/
theorem test_reference : references (put .stp 3 [(Reg.STP_CFG, 0x00040001), (Reg.STP_SCALE, 4095)] up) 3 37 = (-970, -1802) := by
  decide +kernel

/-- Chapter 16, "a turntable sent back": a cruise at 10⁵ counts/s stops in 5,500 counts. -/
theorem test_stop_point : stopPoint ⟨dOfInt 100000, dOfInt 1000000, dOfInt 100000000⟩ { p := dOfInt 200000, v := dOfInt 100000 } =
    dOfInt 205500 := by decide +kernel

/-- A played rate in ten thousandths, rounded. -/
def tenThousandths (x : F64) : Int := (dFloor 31 x * 100000 / 2 ^ 31 + 5) / 10

/-- Chapter 09, "three rejected plans": α one and two plan cycles after a hold on a tail of 9 ms begins. -/
def holdOf9ms : List Phase := (fallProfile (dOfInt 1) 0 (dOfInt 50) (dOfInt 1000000) (dDiv (dOfInt 9) (dOfInt 1000))).1
theorem test_hold : tenThousandths (profileAt holdOf9ms (dDiv (dOfInt 1) (dOfInt 1000))).1 = 9458 ∧
    tenThousandths (profileAt holdOf9ms (dDiv (dOfInt 2) (dOfInt 1000))).1 = 8901 := by decide +kernel

/-- Chapter 10, "joint 5 of arm 3 as the scale falls": arm 1 stands for arm 3, joint 0 for joint 5. -/
def wFall : State := { State.reset with
  mnt := { State.reset.mnt with kOut := vset State.reset.mnt.kOut 1 52429 }
  play := vset State.reset.play 1 { rest := false, segs := [⟨4, [[4398046511104, 8796093022, 0, 0, 0, 0]], [262144], [262144], [0], [0], (0, 0, 0)⟩], tau := 1073741824, beta := 2147483648, kappa := 2147483648 } }
/-- Steps 3 and 4 of the example: κ, β and τ of the next instant. -/
theorem test_scale_filter : (filterScale wFall 1).1 = 2113929216 ∧
    (2147483648 + 2113929216) * (2 ^ 32 / 4) / 2 ^ 32 = 1065353216 := by decide +kernel
/-- Step 5: `POS_NEXT`. -/
theorem test_interpolation : (interpolate { wFall with play := vset wFall.play 1 { wFall.play[(1 : Arm)] with tau := 2139095040, betaNext := 2113929216 } } 1 0 {}).posNext =
    262405 := by decide +kernel

/-- Chapter 08, "one segment of one joint": the coefficients in LSB of 2⁻⁴⁴ turn, c0 to c3 in the spec's digits; c4 = 0 and |c5| ≤ 2. -/
def segExample : List Int :=
  let h := dDiv (dOfInt 1) (dOfInt 1000)
  let q := dDiv (dOfInt 1) (dOfInt 2)
  let q1 := dDiv (dOfInt 15036059) (dOfInt 30000000)
  stepCoeffs h q1 (dDiv (dOfInt 12) (dOfInt 10)) (dOfInt 4) (dOfInt (-200)) (roundTurns (dDiv q twoPi))
theorem test_segment : segExample.map (fun c => c.tdiv 1000) = [1399941684, 3359860, 5599, -93, 0, 0] := by decide +kernel
/-- Chapter 07, "a clipped blend on arm 4": r = min(0.050, 0.150, 0.010). -/
theorem test_blend : (dFloor 40 (blendRadius (dDiv (dOfInt 5) (dOfInt 100)) (dDiv (dOfInt 3) (dOfInt 10)) (dDiv (dOfInt 2) (dOfInt 100))) * 10000 / 2 ^ 40 + 5) / 10 = 10 := by
  decide +kernel
/-- R111, R112: K28.5 and a balanced data character; a burst gives back the frame it carries. -/
theorem test_code : encSym false (.ctrl 0xBC) = 0x17C ∧ encSym true (.ctrl 0xBC) = 0x283 ∧ encSym false (.data 0xB5) = 0x155 ∧
    (received (burstSyms nine)).map (·.bytes) = some nine := by decide +kernel

/-- Chapter 12, "a person approaches arm 3": the stop table between its points of 2 kg and 5 kg, and the terms of the pair. -/
def stopTab : StopTable := ⟨[0, 500, 1000], [200, 500], [0, 900, 1500, 0, 0, 0, 0, 0, 0, 1050, 1950], [0, 240, 760, 0, 0, 0, 0, 0, 0, 330, 1120]⟩
def spExample : SpTerms := ⟨mm 1600, fDiv (fOfInt 445) (fOfInt 10000), mm 790, mm 800, mm 70, fOfInt 1⟩
/-- Lengths in tenths of a millimetre, rounded. -/
def tenthsOf (x : F32) : Int := (fFloor 20 x * 100000 / 2 ^ 20 + 5) / 10
/-- Steps 5 and 6: sp(1) = 0.5648 m, sp(0) = 0.1768 m. -/
theorem test_separation : tenthsOf (spAt stopTab spExample (fOfInt 1) (fOfInt 4) 65536) = 5648 ∧
    tenthsOf (spAt stopTab spExample (fOfInt 1) (fOfInt 4) 0) = 1768 := by decide +kernel
/-- Step 7: the search ends with lo = 49,847. -/
theorem test_speed_scale : pairScale (fun k => fLe (spAt stopTab spExample (fOfInt 1) (fOfInt 4) k) (mm 470)) = (49847, false, true) := by
  decide +kernel

-- The queue and the frame around it

/-- The front command runs; the rest waits. -/
theorem test_step_front : step { up with pending := [.irqSet 0x4000 8, .combRefill] } = execIrqSet 0x4000 8 { up with pending := [.combRefill] } := by
  rfl
/-- An empty queue idles. -/
theorem test_step_idle : step State.reset = .next State.reset := by rfl
/-- No row of the table has bits. -/
theorem test_decode : Sys2Proof.decodeTableWord 32 0x12345678 = none := by rfl

-- What no environment gives: one ill-formed command for each check

theorem test_ill_formed :
    [Instr.frameReceived 0 0 1 (some ⟨List.replicate 1044 0, 0⟩) none, .staticSlot 0 0,
      .progressWord 0 0x7FF false, .configurationResponse ⟨0, 5, 1, 0, 0, List.replicate 1017 0⟩, .hubViewWrite 0 0x400000 0 true,
      .cellViewWrite 0 0x3FFFFF 0 true, .privateWindowWrite 0 0xC00000 0 true, .writeToReadOnly 0 2 0, .hubViewRead 0 0x400000 true true,
      .cellViewRead 0 0x800000 true (Vector.replicate 3 0), .bar2Write 0 0 (List.replicate 513 0), .bar2Read 0 0xFFFFFFF 2 true,
      .srst 0x4004, .ctrlEn 0x800000 true, .modeSel 1 0, .irqStatClear 2 0 0, .irqSet 3 0, .unlock 4 0, .managementConnection 1 true,
      .managementConnectionClosed 6, .moveJ 1 ⟨0, 0, 0, 0, []⟩, .openSession 6, .changePassword 7, .molt 0 8,
      .ssiDelayMeasurement 0 []].all (fun c => !c.wf) = true := by decide +kernel

-- Reset and the queue under the statements about every state

theorem witness_StepRunsFrontCommand : (∃ (c : Instr) (r : List Instr) (s : State), s.pending = c :: r) ∧ (∃ s : State, s.pending = []) :=
  ⟨⟨.combRefill, [.tick], { up with pending := [.combRefill, .tick] }, rfl⟩, ⟨State.reset, rfl⟩⟩
theorem witness_MeaningsLeaveTheQueue : ∃ (c : Instr) (s t : State), exec c s = .next t := ⟨.combRefill, State.reset, _, rfl⟩
theorem witness_StepKeepsInv : ∃ s t : State, s.Inv ∧ step s = .next t := ⟨State.reset, State.reset, ⟨by decide, by decide, by decide⟩, rfl⟩
theorem witness_CellTimeNeverRunsBack : ∃ (s t : State) (c : Instr) (r : List Instr), s.pending = c :: r ∧ c ≠ .powerGood ∧ step s = .next t :=
  ⟨{ up with pending := [.combRefill] }, _, .combRefill, [], rfl, by decide, rfl⟩
theorem witness_ShutDownIsInert : ∃ (c : Instr) (s : State), s.clk.on = false ∧ c ≠ .powerGood ∧ c.wf = true :=
  ⟨.tick, dead, by decide +kernel, by decide, by decide⟩
theorem witness_TagKeptWithinCycle : ∃ (c : Instr) (s t : State), exec c s = .next t ∧
    (match c with
      | .syncInstant _ _ | .powerGood | .staticSlot _ _ | .minislot _ | .symbolWindow _ | .frameReceived _ _ _ _ _
      | .listenTimerExpiry _ | .imageLoadComplete | .hubFunctionsReady => False
      | _ => True) := ⟨.combRefill, up, _, rfl, trivial⟩
theorem witness_ResetValues : ∃ (p : Pg) (i off : Nat), i < (pgRow p).count ∧
    off ∈ [Reg.MODE, Reg.IRQ_STAT, Reg.IRQ_EN, Reg.ERR, Reg.CHG, Reg.CNT_OVF, Reg.CNT, Reg.CNT + 60] := ⟨.arm, 11, Reg.CNT + 60, by decide⟩

-- A state and operands that meet all hypotheses of each clause of each statement, at the edge of their ranges

theorem witness_AdcFifoCommands :
    (∃ (s : State), s.clk.on = true) ∧
    (∃ (s : State) (q : Port), s.clk.on = true ∧ s.clk.alive[q] = true) :=
  ⟨⟨wAdc, by decide +kernel⟩,
    ⟨wAdc, 0, by decide +kernel⟩⟩

theorem witness_AdcConversions :
    (∃ (s : State) (p : AdcPair) (c : Fin 2) (dt : Nat), s.clk.on = true ∧ (s.adc.pair[p]).conv[c].job = none ∧ (s.adc.pair[p]).conv[c].out = false ∧ (s.adc.pair[p]).conv[c].calAct = false ∧ (s.adc.pair[p]).conv[c].calDue = false ∧ (s.adc.pair[p]).pend = false ∧ (s.adc.pair[p]).running = false ∧ (s.adc.pair[p]).seqPos ≠ 0 ∧ enabled s .adc p.val = true ∧ assisted s .adc p.val = false ∧ onGrid c (advance dt s) = true ∧ overrunsCycle (busNs s) (seqInput (s.adc.pair[p]) (s.adc.pair[p]).seqPos) (advance dt s) = false) ∧
    (∃ (s : State) (c : Fin 2) (dt : Nat), s.clk.on = true ∧ onGrid c (advance dt s) = false) ∧
    (∃ (s : State) (p : AdcPair) (c : Fin 2) (dt : Nat) (j : ConvJob), s.clk.on = true ∧ (s.adc.pair[p]).conv[c].job = some j ∧ j.entry = .assisted ∧ (s.adc.pair[p]).fifo.length < 128 ∧ j.ends ≤ (s.clk.now + dt * edgeStep s.clk.rho) / 2 ^ 32) ∧
    (∃ (s : State) (p : AdcPair) (c : Fin 2) (dt : Nat) (j : ConvJob), s.clk.on = true ∧ (s.adc.pair[p]).conv[c].job = some j ∧ (s.clk.now + dt * edgeStep s.clk.rho) / 2 ^ 32 < j.ends) ∧
    (∃ (s : State) (p : AdcPair) (o : Sixteen) (ch : Fin 2) (d : Bool), s.clk.on = true ∧ s.saf.test = some (o.val, ch.val, d) ∧ ((∀ m : AdcPair, groupActive s.adc.pair[m] = false)) ∧ enabled s .adc p.val = true ∧ fld s .adc p.val Reg.ADC_INJ_CFG 2 0 = 3 ∧ fld s .adc p.val Reg.ADC_INJ_CFG 7 4 = o.val) :=
  ⟨⟨wAdc, 1, 1, 7, by decide +kernel⟩,
    ⟨wAdcRun, 1, 0, by decide +kernel⟩,
    ⟨wAdcBusy, 1, 0, 7, ⟨.assisted, 5, 9, false, false, 0⟩, by decide +kernel⟩,
    ⟨wAdcLate, 1, 0, 0, ⟨.assisted, 5, 9, false, false, 1⟩, by decide +kernel⟩,
    ⟨wAdc, 1, 3, 1, true, by decide +kernel⟩⟩

theorem witness_AdcCalibration :
    (∃ (s : State) (p : AdcPair) (c : Fin 2), s.clk.on = true ∧ (s.adc.pair[p]).conv[c].out = false ∧ (s.adc.pair[p]).conv[c].calAct = false) ∧
    (∃ (s : State) (p : AdcPair) (c : Fin 2), s.clk.on = true ∧ (s.adc.pair[p]).conv[c].calAct = true ∧ (s.adc.pair[p]).conv[c].calEnd ≤ s.clk.now / 2 ^ 32) ∧
    (∃ (s : State) (p : AdcPair), s.clk.on = true ∧ (s.adc.pair[p]).conv[(0 : Fin 2)].calDue = false ∧ (s.adc.pair[p]).conv[(0 : Fin 2)].calAct = false ∧ (s.adc.pair[p]).conv[(1 : Fin 2)].calDue = false ∧ (s.adc.pair[p]).conv[(1 : Fin 2)].calAct = false ∧ (s.adc.pair[p]).conv[(0 : Fin 2)].out = false) ∧
    (∃ (s : State) (p : AdcPair) (c : Fin 2), fine s = true ∧ (s.adc.pair[p]).conv[c].calAct = true) :=
  ⟨⟨wAdc, 1, 1, by decide +kernel⟩,
    ⟨wAdcBusy, 1, 1, by decide +kernel⟩,
    ⟨wAdc, 1, by decide +kernel⟩,
    ⟨wAdcBusy, 1, 1, by decide +kernel⟩⟩

theorem witness_FireflyPulses :
    (∃ (s : State), s.clk.on = true) ∧
    (∃ (s : State) (n : Sixteen), fine s = true ∧ enabled s .ffy n = true) ∧
    (∃ (s : State) (n : Sixteen) (dt : Nat), fine s = true ∧ enabled s .ffy n = true ∧ assisted s .ffy n = true ∧ (s.ffy[n]).haArmed = true ∧ 0 ≤ (BitVec.ofNat 32 ((s.clk.now + dt * edgeStep s.clk.rho) / 2 ^ 32) - reg s .ffy n Reg.FFY_HA_TIME).toInt) ∧
    (∃ (s : State) (n : Sixteen) (dt : Nat) (e : Nat), s.clk.on = true ∧ (s.ffy[n]).pulse = some e ∧ e ≤ (s.clk.now + dt * edgeStep s.clk.rho) / 2 ^ 32) :=
  ⟨⟨wFfy, by decide +kernel⟩,
    ⟨wFfy, 3, by decide +kernel⟩,
    ⟨wFfy, 3, 0, by decide +kernel⟩,
    ⟨wFfy, 3, 1, 5000001, by decide +kernel⟩⟩

theorem witness_FireflyList :
    (∃ (s : State) (n : Sixteen), fine s = true ∧ Sparse.wf (fun _ => (3 : Nat)) (s.ffy[n]).qual = true ∧ Sparse.wf (fun _ => (0 : Nat)) (s.ffy[n]).state = true ∧ Sparse.wf (fun _ => (0 : BitVec 64)) (s.ffy[n]).pos = true ∧ (s.ffy[n]).ptr.toNat ≠ fld s .ffy n Reg.FFY_LSEL 7 0) ∧
    (∃ (s : State) (n : Sixteen), fine s = true ∧ Sparse.wf (fun _ => (3 : Nat)) (s.ffy[n]).qual = true ∧ Sparse.wf (fun _ => (0 : Nat)) (s.ffy[n]).state = true ∧ Sparse.wf (fun _ => (0 : BitVec 64)) (s.ffy[n]).pos = true ∧ flag s .ffy n Reg.FFY_CFG 10 = false) ∧
    (∃ (s : State) (n : Sixteen) (dt : Nat), fine s = true ∧ Sparse.wf (fun _ => (3 : Nat)) (s.ffy[n]).qual = true ∧ Sparse.wf (fun _ => (0 : Nat)) (s.ffy[n]).state = true ∧ Sparse.wf (fun _ => (0 : BitVec 64)) (s.ffy[n]).pos = true ∧ ffyOnPhase s n = true ∧ ffyLive s n = true ∧ (s.ffy[n]).judge = false ∧ (s.ffy[n]).ptr.toNat = fld s .ffy n Reg.FFY_END 7 0 ∧ flag s .ffy n Reg.FFY_CFG 9 = false ∧ entryState s.ffy[n] (s.ffy[n]).ptr.toNat = 0 ∧ crosses (entryQual s.ffy[n] (s.ffy[n]).ptr.toNat) (s.ffy[n]).phase (linePhase (advance dt s)) (entryPos s.ffy[n] (s.ffy[n]).ptr.toNat) = true) :=
  ⟨⟨wFfyList, 3, by decide +kernel⟩,
    ⟨wFfy, 3, by decide +kernel⟩,
    ⟨wFfyList, 3, 3, by decide +kernel⟩⟩

theorem witness_EncoderCounting :
    (∃ (s : State) (n : Sixteen) (a : Bool) (b : Bool), s.clk.on = true ∧ encOnPins s n = true ∧ encType s n = 0 ∧ ((s.enc[n]).a != a) ≠ ((s.enc[n]).b != b)) ∧
    (∃ (s : State) (n : Sixteen) (u : BitVec 3) (i : Nat), s.clk.on = true ∧ encOnPins s n = true ∧ encType s n = 1 ∧ hallIndex (s.enc[n]).hall = some i ∧ hallIndex u = some ((i + 1) % 6)) ∧
    (∃ (s : State) (n : Sixteen), s.clk.on = true ∧ encOnPins s n = true ∧ encType s n = 2 ∧ (s.enc[n]).measured = true) ∧
    (∃ (s : State) (n : Sixteen), s.clk.on = true ∧ encOnPins s n = true ∧ encType s n = 2 ∧ (s.enc[n]).reading = true ∧ (s.enc[n]).measuring = false ∧ (s.enc[n]).rPrev = none ∧ (s.enc[n]).rebase = false ∧ flag s .enc n Reg.ENC_SSI_CFG 6 = false) :=
  ⟨⟨wEnc, 3, true, false, by decide +kernel⟩,
    ⟨wHall, 3, 5, 4, by decide +kernel⟩,
    ⟨wSsi, 3, by decide +kernel⟩,
    ⟨wSsi, 3, by decide +kernel⟩⟩

theorem witness_EncoderTiming :
    (∃ (s : State) (n : Sixteen), s.clk.on = true ∧ enabled s .enc n = true ∧ encType s n = 2) ∧
    (∃ (s : State) (n : Sixteen) (ds : List Nat), s.clk.on = true ∧ (s.enc[n]).measuring = true ∧ ds ≠ [] ∧ ds.sum ≤ 5000 * ds.length) ∧
    (∃ (s : State) (n : Sixteen) (e : Nat), s.clk.on = true ∧ (s.enc[n]).edgeAt = some e) ∧
    (∃ (s : State) (n : Sixteen) (f : Bool) (r : List Bool) (e : Nat), s.clk.on = true ∧ (s.enc[n]).emuQueue = f :: r ∧ (s.enc[n]).emuAt = some e ∧ s.clk.now / 2 ^ 32 < e + 40) ∧
    (∃ (s : State) (n : Sixteen) (f : Bool) (r : List Bool), s.clk.on = true ∧ (s.enc[n]).emuQueue = f :: r ∧ ((∀ e, (s.enc[n]).emuAt = some e → e + 40 ≤ s.clk.now / 2 ^ 32))) :=
  ⟨⟨wSsi, 3, by decide +kernel⟩,
    ⟨wSsiMeas, 3, [5000, 5000], by decide +kernel⟩,
    ⟨wEncT 0, 3, 0, by decide +kernel⟩,
    ⟨wEmu 4999961, 3, true, [false], 4999961, by decide +kernel⟩,
    ⟨wEnc, 3, true, [false], by decide +kernel⟩⟩

theorem witness_EncoderService :
    (∃ (s : State) (n : Sixteen), fine s = true ∧ encOnPins s n = true ∧ encType s n = 0 ∧ flag s .enc n Reg.ENC_CFG 4 = true) ∧
    (∃ (s : State) (q : Port), fine s = true ∧ s.clk.alive[q] = true) ∧
    (∃ (s : State) (n : Sixteen), fine s = true ∧ (rolled s s.enc[n]).errLast = 0) ∧
    (∃ (s : State) (n : Sixteen), fine s = true ∧ (rolled s s.enc[n]).errLast ≠ 0) ∧
    (∃ (s : State) (n : Sixteen), fine s = true ∧ assisted s .enc n = true ∧ (s.enc[n]).haNew = true) :=
  ⟨⟨wEnc, 3, by decide +kernel⟩,
    ⟨wEnc, 0, by decide +kernel⟩,
    ⟨wEnc, 3, by decide +kernel⟩,
    ⟨wErr 5, 3, by decide +kernel⟩,
    ⟨wSsiMeas, 3, by decide +kernel⟩⟩

theorem witness_ProfileCommands :
    (∃ (s : State) (n : Prg), fine s = true ∧ atRest s.prg[n] = true) ∧
    (∃ (s : State) (n : Prg), fine s = true ∧ atRest s.prg[n] = false) ∧
    (∃ (s : State) (n : Prg), fine s = true ∧ flag s .prg n Reg.PRG_HA_CFG 0 = false) ∧
    (∃ (s : State) (n : Prg), fine s = true ∧ flag s .prg n Reg.PRG_HA_CFG 0 = true ∧ (s.prg[n]).haFifo.length < 256) ∧
    (∃ (s : State) (n : Prg), fine s = true ∧ assisted s .prg n = true ∧ flag s .prg n Reg.PRG_HA_CFG 0 = false ∧ (s.prg[n]).haNew = true ∧ (softLo s n).toInt ≤ (s.prg[n]).haCommit.toInt ∧ (s.prg[n]).haCommit.toInt ≤ (softHi s n).toInt) ∧
    (∃ (s : State) (q : Port), fine s = true ∧ s.clk.alive[q] = true) :=
  ⟨⟨wPrg, 5, by decide +kernel⟩,
    ⟨wPrgMove, 5, by decide +kernel⟩,
    ⟨wPrg, 5, by decide +kernel⟩,
    ⟨wPrgMove, 5, by decide +kernel⟩,
    ⟨wPrg, 5, by decide +kernel⟩,
    ⟨wPrg, 0, by decide +kernel⟩⟩

theorem witness_StepperCommands :
    (∃ (s : State), s.clk.on = true) ∧
    (∃ (s : State) (n : Sixteen), fine s = true ∧ Sparse.wf (fun i => BitVec.ofNat 12 (defaultTable.getD i 0)) (s.stp[n]).table = true) ∧
    (∃ (s : State) (n : Sixteen), s.clk.on = true ∧ enabled s .stp n = true ∧ fld s .stp n Reg.STP_CFG 1 0 = 1 ∧ driverOn s n = true ∧ s.clk.now / 2 ^ 32 % 10000 = 0) ∧
    (∃ (s : State) (n : Sixteen) (p : AdcPair), s.clk.on = true ∧ enabled s .stp n = true ∧ fld s .stp n Reg.STP_CFG 1 0 = 1 ∧ ((∀ m : AdcPair, groupActive s.adc.pair[m] = false)) ∧ enabled s .adc p.val = true ∧ fld s .adc p.val Reg.ADC_INJ_CFG 2 0 = 4 ∧ fld s .adc p.val Reg.ADC_INJ_CFG 7 4 = n.val ∧ s.clk.now / 2 ^ 32 % 10000 = 5000) :=
  ⟨⟨wStp, by decide +kernel⟩,
    ⟨wStp, 3, by decide +kernel⟩,
    ⟨wStp, 3, by decide +kernel⟩,
    ⟨wStpMid, 3, 1, by decide +kernel⟩⟩

theorem witness_EveryCommandAnswers :
    (∃ (c : Instr), c.wf = true) ∧
    (∃ (off : BitVec 28) (d : List Byte), 2 ^ 28 < off.toNat + d.length) ∧
    (∃ (off : BitVec 28) (n : BitVec 13), 2 ^ 28 < off.toNat + n.toNat) :=
  ⟨⟨.stalledWrite, by decide +kernel⟩,
    ⟨0xFFFFFFF, [1, 2], by decide +kernel⟩,
    ⟨0xFFFFFFF, 2, by decide +kernel⟩⟩

theorem witness_MalformedAccess :
    (∃ (s : State) (q : Port) (off : BitVec 24) (whole : Bool), s.clk.on = true ∧ s.clk.alive[q] = true ∧ ((whole = false ∨ off.toNat % 4 ≠ 0)) ∧ s.link.fifo.length < 256 ∧ s.link.stalled = []) ∧
    (∃ (s : State) (q : Port) (off : BitVec 24) (whole : Bool), s.clk.on = true ∧ s.clk.alive[q] = true ∧ ((whole = false ∨ off.toNat % 4 ≠ 0))) ∧
    (∃ (s : State) (q : Port) (off : BitVec 24) (whole : Bool) (o : BitVec 28) (d : List Byte), s.clk.on = true ∧ s.clk.alive[q] = true ∧ ((whole = false ∨ off.toNat % 4 ≠ 0)) ∧ o.toNat + d.length ≤ 2 ^ 28) ∧
    (∃ (s : State) (q : Port) (off : BitVec 24) (whole : Bool) (o : BitVec 28) (n : BitVec 13), s.clk.on = true ∧ s.clk.alive[q] = true ∧ ((whole = false ∨ off.toNat % 4 ≠ 0)) ∧ o.toNat + n.toNat ≤ 2 ^ 28) :=
  ⟨⟨up, 0, 0x000080, false, by decide +kernel⟩,
    ⟨up, 0, 0x000001, true, by decide +kernel⟩,
    ⟨up, 0, 0, false, 0xFFFFFFD, [1, 2, 3], by decide +kernel⟩,
    ⟨up, 0, 0, false, 0xFFFFFFD, 3, by decide +kernel⟩⟩

theorem witness_StagedWrites :
    (∃ (s : State) (q : Port) (off : BitVec 24), s.clk.on = true ∧ s.clk.alive[q] = true ∧ 0x400000 ≤ off.toNat ∧ off.toNat < 0x800000 ∧ off.toNat % 4 = 0 ∧ s.boot.admitted = true ∧ s.link.fifo.length < 256 ∧ s.link.stalled = []) ∧
    (∃ (s : State) (q : Port), s.clk.on = true ∧ s.clk.alive[q] = true ∧ (256 ≤ s.link.fifo.length ∨ s.link.stalled ≠ [])) ∧
    (∃ (s : State) (q : Port) (off : BitVec 28) (d : List Byte), s.clk.on = true ∧ s.clk.alive[q] = true ∧ (256 ≤ s.link.fifo.length ∨ s.link.stalled ≠ []) ∧ off.toNat + d.length ≤ 2 ^ 28) ∧
    (∃ (s : State) (q : Port) (off : BitVec 24) (v : Word) (r : List PostedWrite), s.clk.on = true ∧ s.link.fifo.length < 256 ∧ s.link.stalled = .bar0 q off.toNat v true :: r ∧ s.clk.alive[q] = true ∧ 0x400000 ≤ off.toNat ∧ off.toNat < 0x800000 ∧ off.toNat % 4 = 0 ∧ s.boot.admitted = true) ∧
    (∃ (s : State) (q : Port) (off : BitVec 24) (v : Word) (whole : Bool), s.clk.on = true ∧ s.link.fifo.length < 256 ∧ s.link.stalled = [.bar0 q off.toNat v whole]) ∧
    (∃ (s : State) (q : Port) (off : BitVec 28) (d : List Byte), s.clk.on = true ∧ s.link.fifo.length < 256 ∧ s.link.stalled = [.bar2 q off.toNat d] ∧ off.toNat + d.length ≤ 2 ^ 28) ∧
    (∃ (s : State), s.clk.on = true ∧ (256 ≤ s.link.fifo.length ∨ s.link.stalled = [])) ∧
    (∃ (s : State), s.clk.on = true ∧ assisted s .sdp 0 = false) :=
  ⟨⟨cell, 0, 0x400000, by decide +kernel⟩,
    ⟨wFull, 0, by decide +kernel⟩,
    ⟨wFull, 0, 0x200000, [1, 2, 3], by decide +kernel⟩,
    ⟨wStall, 1, 0x400084, 2, [], by decide +kernel⟩,
    ⟨wStallB, 1, 0x3C0000, 5, false, by decide +kernel⟩,
    ⟨wStallM, 1, 0x200000, [1, 2], by decide +kernel⟩,
    ⟨wFull, by decide +kernel⟩,
    ⟨wFull, by decide +kernel⟩⟩

theorem witness_HubViewWrites :
    (∃ (s : State) (q : Port) (off : BitVec 24) (v : Word) (a : RegAddr) (r : RegRow), fine s = true ∧ s.clk.alive[q] = true ∧ off.toNat < 0x400000 ∧ off.toNat % 4 = 0 ∧ s.link.fifo.length < 256 ∧ s.link.stalled = [] ∧ decodeWindow false off.toNat = some a ∧ regRow a.pg a.off = some r ∧ r.acc = .rw ∧ 0x80 ≤ a.off ∧ a.pg ∈ [Pg.pwr, .tb, .wlc, .prg, .crt] ∧ hubCommand q a.pg a.inst a.off v = none ∧ refusal s a.pg a.inst a.off (v &&& r.mask) = none) ∧
    (∃ (s : State) (q : Port) (off : BitVec 24) (v : Word) (a : RegAddr) (r : RegRow), fine s = true ∧ s.clk.alive[q] = true ∧ off.toNat < 0x400000 ∧ off.toNat % 4 = 0 ∧ s.link.fifo.length < 256 ∧ s.link.stalled = [] ∧ decodeWindow false off.toNat = some a ∧ regRow a.pg a.off = some r ∧ r.acc = .rw ∧ 0x80 ≤ a.off ∧ a.pg ∈ [Pg.pwr, .tb, .wlc, .prg, .crt] ∧ hubCommand q a.pg a.inst a.off v = none ∧ refusal s a.pg a.inst a.off (v &&& r.mask) = some 4) ∧
    (∃ (s : State) (q : Port) (off : BitVec 24), fine s = true ∧ s.clk.alive[q] = true ∧ off.toNat < 0x400000 ∧ off.toNat % 4 = 0 ∧ s.link.fifo.length < 256 ∧ s.link.stalled = [] ∧ decodeWindow false off.toNat = none) ∧
    (∃ (s : State) (q : Port) (off : BitVec 24) (a : RegAddr) (r : RegRow), fine s = true ∧ s.clk.alive[q] = true ∧ off.toNat < 0x400000 ∧ off.toNat % 4 = 0 ∧ s.link.fifo.length < 256 ∧ s.link.stalled = [] ∧ decodeWindow false off.toNat = some a ∧ regRow a.pg a.off = some r ∧ r.acc = .ro ∧ locked s a.pg = false) :=
  ⟨⟨up, 0, BitVec.ofNat 24 (regKey .tb 0 Reg.TB_JUMP_THR), 100, ⟨.tb, 0, Reg.TB_JUMP_THR⟩, (regRow .tb Reg.TB_JUMP_THR).getD ⟨0, 0, .ro, 0, 0, false⟩, by decide +kernel⟩,
    ⟨up, 0, BitVec.ofNat 24 (regKey .tb 0 Reg.TB_JUMP_THR), 99, ⟨.tb, 0, Reg.TB_JUMP_THR⟩, (regRow .tb Reg.TB_JUMP_THR).getD ⟨0, 0, .ro, 0, 0, false⟩, by decide +kernel⟩,
    ⟨up, 0, 0x3FFFFC, by decide +kernel⟩,
    ⟨up, 0, BitVec.ofNat 24 (regKey .tb 0 Reg.TB_NOW_HI), ⟨.tb, 0, Reg.TB_NOW_HI⟩, (regRow .tb Reg.TB_NOW_HI).getD ⟨0, 0, .ro, 0, 0, false⟩, by decide +kernel⟩⟩

theorem witness_HubViewReads :
    (∃ (s : State) (q : Port) (off : BitVec 24) (a : RegAddr), s.clk.on = true ∧ s.clk.alive[q] = true ∧ off.toNat < 0x400000 ∧ off.toNat % 4 = 0 ∧ decodeWindow false off.toNat = some a) ∧
    (∃ (s : State) (q : Port) (off : BitVec 24), s.clk.on = true ∧ s.clk.alive[q] = true ∧ off.toNat < 0x400000 ∧ off.toNat % 4 = 0 ∧ decodeWindow false off.toNat = none) ∧
    (∃ (s : State) (q : Port), s.clk.on = true ∧ s.clk.alive[q] = true) ∧
    (∃ (s : State) (q : Port), s.clk.on = true ∧ s.clk.alive[q] = true) :=
  ⟨⟨up, 0, BitVec.ofNat 24 (regKey .tb 0 Reg.TB_JUMP_THR), ⟨.tb, 0, Reg.TB_JUMP_THR⟩, by decide +kernel⟩,
    ⟨up, 0, 0x3FFFFC, by decide +kernel⟩,
    ⟨up, 0, by decide +kernel⟩,
    ⟨up, 0, by decide +kernel⟩⟩

theorem witness_CellViewReads :
    (∃ (s : State) (q : Port) (off : BitVec 24) (m : Vector Word 3) (a : RegAddr) (l0 : Lane) (l1 : Lane) (l2 : Lane), s.clk.on = true ∧ s.clk.alive[q] = true ∧ s.boot.admitted = true ∧ 0x400000 ≤ off.toNat ∧ off.toNat < 0x800000 ∧ off.toNat % 4 = 0 ∧ decodeWindow true (off.toNat % 0x400000) = some a ∧ laneOfRole s .lead = some l0 ∧ (lanesIn s = [l0, l1, l2] ∨ lanesIn s = [l1, l0, l2] ∨ lanesIn s = [l1, l2, l0]) ∧ m[l0] = m[l1] ∧ m[l0] = m[l2]) ∧
    (∃ (s : State) (q : Port) (off : BitVec 24) (m : Vector Word 3) (a : RegAddr) (l0 : Lane) (l1 : Lane) (l2 : Lane), s.clk.on = true ∧ s.clk.alive[q] = true ∧ s.boot.admitted = true ∧ 0x400000 ≤ off.toNat ∧ off.toNat < 0x800000 ∧ off.toNat % 4 = 0 ∧ decodeWindow true (off.toNat % 0x400000) = some a ∧ laneOfRole s .lead = some l0 ∧ (lanesIn s = [l0, l1, l2] ∨ lanesIn s = [l1, l0, l2] ∨ lanesIn s = [l1, l2, l0]) ∧ m[l0] = m[l1] ∧ m[l0] ≠ m[l2]) ∧
    (∃ (s : State) (q : Port) (off : BitVec 24) (m : Vector Word 3) (a : RegAddr) (l0 : Lane) (l1 : Lane) (l2 : Lane), s.clk.on = true ∧ s.clk.alive[q] = true ∧ s.boot.admitted = true ∧ 0x400000 ≤ off.toNat ∧ off.toNat < 0x800000 ∧ off.toNat % 4 = 0 ∧ decodeWindow true (off.toNat % 0x400000) = some a ∧ laneOfRole s .lead = some l0 ∧ (lanesIn s = [l0, l1, l2] ∨ lanesIn s = [l1, l0, l2] ∨ lanesIn s = [l1, l2, l0]) ∧ m[l0] = m[l2] ∧ m[l0] ≠ m[l1]) ∧
    (∃ (s : State) (q : Port) (off : BitVec 24) (m : Vector Word 3) (a : RegAddr) (l0 : Lane) (l1 : Lane) (l2 : Lane), s.clk.on = true ∧ s.clk.alive[q] = true ∧ s.boot.admitted = true ∧ 0x400000 ≤ off.toNat ∧ off.toNat < 0x800000 ∧ off.toNat % 4 = 0 ∧ decodeWindow true (off.toNat % 0x400000) = some a ∧ laneOfRole s .lead = some l0 ∧ (lanesIn s = [l0, l1, l2] ∨ lanesIn s = [l1, l0, l2] ∨ lanesIn s = [l1, l2, l0]) ∧ m[l1] = m[l2] ∧ m[l0] ≠ m[l1]) ∧
    (∃ (s : State) (q : Port) (off : BitVec 24) (m : Vector Word 3) (a : RegAddr) (l0 : Lane) (l1 : Lane) (l2 : Lane), s.clk.on = true ∧ s.clk.alive[q] = true ∧ s.boot.admitted = true ∧ 0x400000 ≤ off.toNat ∧ off.toNat < 0x800000 ∧ off.toNat % 4 = 0 ∧ decodeWindow true (off.toNat % 0x400000) = some a ∧ laneOfRole s .lead = some l0 ∧ (lanesIn s = [l0, l1, l2] ∨ lanesIn s = [l1, l0, l2] ∨ lanesIn s = [l1, l2, l0]) ∧ m[l0] ≠ m[l1] ∧ m[l0] ≠ m[l2] ∧ m[l1] ≠ m[l2]) ∧
    (∃ (s : State) (q : Port) (off : BitVec 24) (m : Vector Word 3) (a : RegAddr) (l0 : Lane) (l1 : Lane), s.clk.on = true ∧ s.clk.alive[q] = true ∧ s.boot.admitted = true ∧ 0x400000 ≤ off.toNat ∧ off.toNat < 0x800000 ∧ off.toNat % 4 = 0 ∧ decodeWindow true (off.toNat % 0x400000) = some a ∧ laneOfRole s .lead = some l0 ∧ (lanesIn s = [l0, l1] ∨ lanesIn s = [l1, l0]) ∧ m[l0] = m[l1]) ∧
    (∃ (s : State) (q : Port) (off : BitVec 24) (m : Vector Word 3) (a : RegAddr) (l0 : Lane) (l1 : Lane), s.clk.on = true ∧ s.clk.alive[q] = true ∧ s.boot.admitted = true ∧ 0x400000 ≤ off.toNat ∧ off.toNat < 0x800000 ∧ off.toNat % 4 = 0 ∧ decodeWindow true (off.toNat % 0x400000) = some a ∧ laneOfRole s .lead = some l0 ∧ (lanesIn s = [l0, l1] ∨ lanesIn s = [l1, l0]) ∧ m[l0] ≠ m[l1]) :=
  ⟨⟨cell, 0, BitVec.ofNat 24 (regKey .plf 0 Reg.CHG), ⟨#[4, 4, 4], rfl⟩, ⟨.plf, 0, Reg.CHG⟩, 0, 1, 2, by decide +kernel⟩,
    ⟨cell, 0, BitVec.ofNat 24 (regKey .plf 0 Reg.CHG), ⟨#[4, 4, 5], rfl⟩, ⟨.plf, 0, Reg.CHG⟩, 0, 1, 2, by decide +kernel⟩,
    ⟨cell, 0, BitVec.ofNat 24 (regKey .plf 0 Reg.CHG), ⟨#[4, 5, 4], rfl⟩, ⟨.plf, 0, Reg.CHG⟩, 0, 1, 2, by decide +kernel⟩,
    ⟨cell, 0, BitVec.ofNat 24 (regKey .plf 0 Reg.CHG), ⟨#[4, 5, 5], rfl⟩, ⟨.plf, 0, Reg.CHG⟩, 0, 1, 2, by decide +kernel⟩,
    ⟨cell, 0, BitVec.ofNat 24 (regKey .plf 0 Reg.CHG), ⟨#[4, 5, 6], rfl⟩, ⟨.plf, 0, Reg.CHG⟩, 0, 1, 2, by decide +kernel⟩,
    ⟨cell2, 0, BitVec.ofNat 24 (regKey .plf 0 Reg.CHG), ⟨#[4, 4, 5], rfl⟩, ⟨.plf, 0, Reg.CHG⟩, 1, 0, by decide +kernel⟩,
    ⟨cell2, 0, BitVec.ofNat 24 (regKey .plf 0 Reg.CHG), ⟨#[4, 5, 5], rfl⟩, ⟨.plf, 0, Reg.CHG⟩, 1, 0, by decide +kernel⟩⟩

theorem witness_PrivateWindow :
    (∃ (s : State) (q : Port) (off : BitVec 24), s.clk.on = true ∧ s.clk.alive[q] = true ∧ 0x800000 ≤ off.toNat ∧ off.toNat < 0xC00000 ∧ off.toNat % 4 = 0 ∧ s.link.fifo.length < 256 ∧ s.link.stalled = [] ∧ 5 ≤ (s.link.winsel[q]).toNat) ∧
    (∃ (s : State) (q : Port) (off : BitVec 24) (c : Cart), s.clk.on = true ∧ s.clk.alive[q] = true ∧ 0x800000 ≤ off.toNat ∧ off.toNat < 0xC00000 ∧ off.toNat % 4 = 0 ∧ s.link.fifo.length < 256 ∧ s.link.stalled = [] ∧ (s.link.winsel[q]).toNat = c.val ∧ fenced s c = false) ∧
    (∃ (s : State) (q : Port) (off : BitVec 24) (v : Word) (c : Cart) (a : RegAddr) (r : RegRow), s.clk.on = true ∧ s.clk.alive[q] = true ∧ 0x800000 ≤ off.toNat ∧ off.toNat < 0xC00000 ∧ off.toNat % 4 = 0 ∧ s.link.fifo.length < 256 ∧ s.link.stalled = [] ∧ (s.link.winsel[q]).toNat = c.val ∧ fenced s c = true ∧ privateAddr c off.toNat = some a ∧ regRow a.pg a.off = some r ∧ locked s a.pg = false ∧ r.acc = .rw ∧ 0x80 ≤ a.off ∧ ownSpare c a = false ∧ inRange s a.pg a.inst a.off (stored a.pg a.off (v &&& r.mask) : Word) = true) ∧
    (∃ (s : State) (q : Port) (off : BitVec 24) (v : Word) (c : Cart) (a : RegAddr) (r : RegRow), s.clk.on = true ∧ s.clk.alive[q] = true ∧ 0x800000 ≤ off.toNat ∧ off.toNat < 0xC00000 ∧ off.toNat % 4 = 0 ∧ s.link.fifo.length < 256 ∧ s.link.stalled = [] ∧ (s.link.winsel[q]).toNat = c.val ∧ fenced s c = true ∧ privateAddr c off.toNat = some a ∧ regRow a.pg a.off = some r ∧ locked s a.pg = false ∧ r.acc = .rw ∧ 0x80 ≤ a.off ∧ ownSpare c a = false ∧ inRange s a.pg a.inst a.off (stored a.pg a.off (v &&& r.mask) : Word) = false) ∧
    (∃ (s : State) (q : Port) (off : BitVec 24) (c : Cart) (a : RegAddr) (r : RegRow), s.clk.on = true ∧ s.clk.alive[q] = true ∧ 0x800000 ≤ off.toNat ∧ off.toNat < 0xC00000 ∧ off.toNat % 4 = 0 ∧ s.link.fifo.length < 256 ∧ s.link.stalled = [] ∧ (s.link.winsel[q]).toNat = c.val ∧ fenced s c = true ∧ privateAddr c off.toNat = some a ∧ regRow a.pg a.off = some r ∧ locked s a.pg = false ∧ r.acc = .ro) :=
  ⟨⟨{ cell2 with link := { cell2.link with winsel := ⟨#[5, 7], rfl⟩ } }, 0, 0x800000, by decide +kernel⟩,
    ⟨wPriv, 1, 0xBFFFFC, 0, by decide +kernel⟩,
    ⟨wPriv, 0, BitVec.ofNat 24 (0x400000 + regKey .plf 0 Reg.PLF_CFG), 0x003C0305, 2, ⟨.plf, 0, Reg.PLF_CFG⟩, (regRow .plf Reg.PLF_CFG).getD ⟨0, 0, .ro, 0, 0, false⟩, by decide +kernel⟩,
    ⟨wPriv, 0, BitVec.ofNat 24 (0x400000 + regKey .plf 0 Reg.PLF_CFG), 0xFFFFFFFF, 2, ⟨.plf, 0, Reg.PLF_CFG⟩, (regRow .plf Reg.PLF_CFG).getD ⟨0, 0, .ro, 0, 0, false⟩, by decide +kernel⟩,
    ⟨wPriv, 0, BitVec.ofNat 24 (0x400000 + regKey .plf 0 Reg.PLF_LAST), 2, ⟨.plf, 0, Reg.PLF_LAST⟩, (regRow .plf Reg.PLF_LAST).getD ⟨0, 0, .ro, 0, 0, false⟩, by decide +kernel⟩⟩

theorem witness_BulkWindow :
    (∃ (s : State) (q : Port) (off : BitVec 28) (d : List Byte), s.clk.on = true ∧ s.clk.alive[q] = true ∧ off.toNat + d.length ≤ 2 ^ 28 ∧ memWf s.mem = true ∧ s.link.fifo.length < 256 ∧ s.link.stalled = [] ∧ s.boot.admitted = true ∧ laneCount s ≠ 0) ∧
    (∃ (s : State) (q : Port) (off : BitVec 28) (d : List Byte), fine s = true ∧ s.clk.alive[q] = true ∧ off.toNat + d.length ≤ 2 ^ 28 ∧ memWf s.mem = true ∧ s.link.fifo.length < 256 ∧ s.link.stalled = [] ∧ s.boot.admitted = false) ∧
    (∃ (s : State) (q : Port) (off : BitVec 28) (n : BitVec 13), s.clk.on = true ∧ s.clk.alive[q] = true ∧ off.toNat + n.toNat ≤ 2 ^ 28) :=
  ⟨⟨cell, 0, 0x17FFFE, [1, 2, 3, 4], by decide +kernel⟩,
    ⟨up, 0, 0x17FFFE, [1, 2, 3, 4], by decide +kernel⟩,
    ⟨cell, 0, 0x17FFFE, 5, by decide +kernel⟩⟩

theorem witness_SetWinsOverClear :
    (∃ (s : State) (g : BitVec 24) (a : RegAddr) (b : Nat), fine s = true ∧ g.toNat < 0x800000 ∧ decodeWindow (decide (cellBase ≤ g.toNat)) (g.toNat % 0x400000) = some a ∧ locked s a.pg = false ∧ isProtected a.pg = false ∧ s.sec.touched = [] ∧ b < 32 ∧ (b < 4 ∨ 8 ≤ b)) :=
  ⟨up, BitVec.ofNat 24 (pageAddr .enc 3), ⟨.enc, 3, 0⟩, 3, by decide +kernel⟩

theorem witness_PageCommands :
    (∃ (s : State) (g : BitVec 24) (a : RegAddr), fine s = true ∧ g.toNat < 0x800000 ∧ decodeWindow (decide (cellBase ≤ g.toNat)) (g.toNat % 0x400000) = some a ∧ s.sec.touched = [] ∧ isProtected a.pg = false) ∧
    (∃ (s : State) (g : BitVec 24) (a : RegAddr), fine s = true ∧ g.toNat < 0x800000 ∧ decodeWindow (decide (cellBase ≤ g.toNat)) (g.toNat % 0x400000) = some a ∧ s.sec.touched = [] ∧ a.pg ∈ [Pg.tb, .eth, .wls, .adc, .stp, .plf, .kin, .sdp] ∧ (pgRow a.pg).ctrlFixed = false) ∧
    (∃ (s : State) (g : BitVec 24) (a : RegAddr) (sel : BitVec 2), fine s = true ∧ g.toNat < 0x800000 ∧ decodeWindow (decide (cellBase ≤ g.toNat)) (g.toNat % 0x400000) = some a ∧ s.sec.touched = [] ∧ isProtected a.pg = false ∧ (2 ≤ sel.toNat ∨ (sel = 1 ∧ (pgRow a.pg).assisted = false))) ∧
    (∃ (s : State) (g : BitVec 24) (a : RegAddr) (sel : BitVec 2), fine s = true ∧ g.toNat < 0x800000 ∧ decodeWindow (decide (cellBase ≤ g.toNat)) (g.toNat % 0x400000) = some a ∧ s.sec.touched = [] ∧ a.pg ∈ [Pg.tb, .sdp, .mnt] ∧ sel.toNat ≤ 1) ∧
    (∃ (s : State) (g : BitVec 24) (a : RegAddr) (x : Session), fine s = true ∧ g.toNat < 0x800000 ∧ decodeWindow (decide (cellBase ≤ g.toNat)) (g.toNat % 0x400000) = some a ∧ s.sec.touched = [] ∧ s.sec.session = some x ∧ x.limited = false ∧ (a.pg = .saf ∨ a.pg = .sio)) :=
  ⟨⟨up, BitVec.ofNat 24 (pageAddr .enc 3), ⟨.enc, 3, 0⟩, by decide +kernel⟩,
    ⟨up, BitVec.ofNat 24 (pageAddr .tb 0), ⟨.tb, 0, 0⟩, by decide +kernel⟩,
    ⟨up, BitVec.ofNat 24 (pageAddr .stp 3), ⟨.stp, 3, 0⟩, 1, by decide +kernel⟩,
    ⟨up, BitVec.ofNat 24 (pageAddr .tb 0), ⟨.tb, 0, 0⟩, 1, by decide +kernel⟩,
    ⟨wUnlock, BitVec.ofNat 24 (pageAddr .saf 0), ⟨.saf, 0, 0⟩, ⟨false, 0, 0x55AA55AA, true, 5⟩, by decide +kernel⟩⟩

theorem witness_TimeBaseReset :
    (∃ (s : State) (g : BitVec 24), fine s = true ∧ s.sec.touched = [] ∧ g.toNat = pageAddr .tb 0) :=
  ⟨wFfyList, BitVec.ofNat 24 (pageAddr .tb 0), by decide +kernel⟩

theorem witness_HostOffsetSample :
    (∃ (s : State), s.clk.on = true ∧ assisted s .tb 0 = false) ∧
    (∃ (s : State), s.clk.on = true ∧ assisted s .tb 0 = true ∧ flag s .tb 0 Reg.TB_HA_CFG 0 = false ∧ s.servo.quar = 0 ∧ s.servo.aligned = false) ∧
    (∃ (s : State) (v : Word), s.clk.on = true ∧ assisted s .tb 0 = true ∧ flag s .tb 0 Reg.TB_HA_CFG 0 = false ∧ s.servo.quar = 0 ∧ s.servo.aligned = true ∧ v.toInt.natAbs ≤ fld s .tb 0 Reg.TB_JUMP_THR 29 0) ∧
    (∃ (s : State) (v : Word), s.clk.on = true ∧ assisted s .tb 0 = true ∧ flag s .tb 0 Reg.TB_HA_CFG 0 = false ∧ s.servo.quar = 0 ∧ s.servo.aligned = true ∧ fld s .tb 0 Reg.TB_JUMP_THR 29 0 < v.toInt.natAbs) :=
  ⟨⟨up, by decide +kernel⟩,
    ⟨wTb, by decide +kernel⟩,
    ⟨wTbAl, 1000, by decide +kernel⟩,
    ⟨wTbAl, 1001, by decide +kernel⟩⟩

theorem witness_TimeServoInputs :
    (∃ (s : State) (e : Hub), fine s = true ∧ ptpSlave s e = true) ∧
    (∃ (s : State) (v : Word), fine s = true ∧ bit v 0 = true) ∧
    (∃ (s : State) (v : Word), fine s = true ∧ bit v 0 = false) ∧
    (∃ (s : State) (v : Word), fine s = true ∧ v.toInt.natAbs ≤ 51200000) ∧
    (∃ (s : State) (v : Word), fine s = true ∧ 51200000 < v.toInt.natAbs) ∧
    (∃ (s : State), fine s = true ∧ assisted s .tb 0 = true ∧ flag s .tb 0 Reg.TB_HA_CFG 0 = false ∧ fld s .tb 0 Reg.TB_HA_CFG 31 16 ≤ s.servo.haAge) :=
  ⟨⟨wSlave, 0, by decide +kernel⟩,
    ⟨up, 1, by decide +kernel⟩,
    ⟨up, 0xFFFFFFFE, by decide +kernel⟩,
    ⟨up, 51200000, by decide +kernel⟩,
    ⟨up, 51200001, by decide +kernel⟩,
    ⟨wTb, by decide +kernel⟩⟩

theorem witness_LineCommands :
    (∃ (s : State) (v : Word), fine s = true ∧ bit v 8 = false ∧ (lineEn s = false ∨ field v 7 4 = fld s .tb 0 Reg.TB_LINE_CFG 7 4)) ∧
    (∃ (s : State) (v : Word), fine s = true ∧ bit v 8 = false ∧ lineEn s = true ∧ field v 7 4 ≠ fld s .tb 0 Reg.TB_LINE_CFG 7 4) ∧
    (∃ (s : State), fine s = true ∧ (s.enc[lineSrc s]).fault = false) ∧
    (∃ (s : State), fine s = true ∧ (s.enc[lineSrc s]).fault = true) :=
  ⟨⟨up, 0xF3, by decide +kernel⟩,
    ⟨lineOn, 0x23, by decide +kernel⟩,
    ⟨lineOn, by decide +kernel⟩,
    ⟨lineBad, by decide +kernel⟩⟩

theorem witness_PtpMessages :
    (∃ (s : State) (e : Hub) (m : PtpMsg), fine s = true ∧ s.clk.alive[e] = true ∧ enabled s .ptp e = true ∧ (((m.kind = .management ∨ m.kind = .signalling ∨ m.transport = .udp6 ∨ m.extra = true ∨ m.domain.toNat ≠ fld s .ptp e Reg.PTP_CFG 23 16 ∨ m.gptp ≠ flag s .ptp e Reg.PTP_CFG 5) ∨ ptpAccepts s e m = false))) ∧
    (∃ (s : State) (e : Hub) (m : PtpMsg), fine s = true ∧ ptpRuns s e = true ∧ ptpAccepts s e m = true ∧ m.kind = .sync) ∧
    (∃ (s : State) (e : Hub) (m : PtpMsg), fine s = true ∧ ptpRuns s e = true ∧ ptpAccepts s e m = true ∧ m.kind = .delayResp) ∧
    (∃ (s : State) (e : Hub) (m : PtpMsg), fine s = true ∧ ptpRuns s e = true ∧ ptpAccepts s e m = true ∧ m.kind = .announce ∧ ptpRole s e = 1 ∧ (s.ptp[e]).heard = [] ∧ (s.ptp[e]).master = none) ∧
    (∃ (s : State) (dt : Nat) (e : Hub) (k : PtpKind), fine s = true ∧ ptpSends (ptpQualify e (advance dt s) : State) e k = true) ∧
    (∃ (s : State) (dt : Nat) (e : Hub) (k : PtpKind), fine s = true ∧ ptpSends (ptpQualify e (advance dt s) : State) e k = false) ∧
    (∃ (s : State) (e : Hub), fine s = true ∧ (s.ptp[e]).qual = none) ∧
    (∃ (s : State) (e : Hub), fine s = true ∧ ptpSlave s e = true ∧ ptpRole s e ≤ 2 ∧ (s.ptp[e]).master.isSome = true ∧ ((∀ d ∈ (s.ptp[e]).heard, some d.sender = (s.ptp[e]).master))) :=
  ⟨⟨wPtp, 0, ⟨.management, .ethernet, none, false, 0, false, 9, true, ⟨100, 6, 0x20, 0x4E5D, 128, 0x1122334455667788, 1, 77⟩, some 1000⟩, by decide +kernel⟩,
    ⟨wPtp, 0, ⟨.sync, .ethernet, none, false, 0, false, 9, true, ⟨100, 6, 0x20, 0x4E5D, 128, 0x1122334455667788, 1, 77⟩, some 1000⟩, by decide +kernel⟩,
    ⟨wPtp, 0, ⟨.delayResp, .ethernet, none, false, 0, false, 9, true, ⟨100, 6, 0x20, 0x4E5D, 128, 0x1122334455667788, 1, 77⟩, some 1000⟩, by decide +kernel⟩,
    ⟨wPtp, 0, ⟨.announce, .ethernet, none, false, 0, false, 9, true, ⟨100, 6, 0x20, 0x4E5D, 128, 0x1122334455667788, 1, 77⟩, some 1000⟩, by decide +kernel⟩,
    ⟨wMaster, 7, 0, .sync, by decide +kernel⟩,
    ⟨wMaster, 7, 0, .pdelayReq, by decide +kernel⟩,
    ⟨wSlave, 0, by decide +kernel⟩,
    ⟨wSlaveM, 0, by decide +kernel⟩⟩

theorem witness_Links :
    (∃ (s : State) (e : Hub), fine s = true ∧ s.clk.alive[e] = true) ∧
    (∃ (s : State) (e : Hub), fine s = true ∧ s.clk.alive[e] = true) ∧
    (∃ (s : State) (q : Port), fine s = true ∧ s.clk.alive[q] = true) ∧
    (∃ (s : State) (q : Port), fine s = true ∧ s.clk.alive[q] = true) ∧
    (∃ (s : State) (q : Port), fine s = true ∧ s.clk.alive[q] = true ∧ Sparse.wf (fun _ => ({} : MsixEntry)) s.link.msix[q] = true) :=
  ⟨⟨wSess, 0, by decide +kernel⟩,
    ⟨wSess, 0, by decide +kernel⟩,
    ⟨wSessHost, 0, by decide +kernel⟩,
    ⟨wSessHost, 0, by decide +kernel⟩,
    ⟨wSess, 0, by decide +kernel⟩⟩

theorem witness_SecurityCommands :
    (∃ (s : State), fine s = true ∧ s.sec.session = none ∧ ((∀ e, s.sec.lockEnd = some e → e ≤ nsOf s)) ∧ s.sec.store = none ∧ (pwdBytes s).all (· == 0) = true) ∧
    (∃ (s : State) (salt : BitVec 128), fine s = true ∧ s.sec.session = none ∧ ((∀ e, s.sec.lockEnd = some e → e ≤ nsOf s)) ∧ s.sec.store = some (salt, ((Config.passwordHash 5 (pwdBytes wStored0) : BitVec 256))) ∧ Config.passwordHash salt (pwdBytes s) = ((Config.passwordHash 5 (pwdBytes wStored0) : BitVec 256))) ∧
    (∃ (s : State) (e : Nat), fine s = true ∧ s.sec.session = none ∧ s.sec.lockEnd = some e ∧ nsOf s < e) ∧
    (∃ (s : State), fine s = true ∧ s.sec.session.isSome = true) ∧
    (∃ (s : State), fine s = true ∧ s.sec.session.isSome = true) ∧
    (∃ (s : State) (x : Session), fine s = true ∧ s.sec.session = some x ∧ nsOf s < x.last + 900000000000) ∧
    (∃ (s : State) (x : Session), fine s = true ∧ s.sec.session = some x ∧ x.last + 900000000000 ≤ nsOf s) ∧
    (∃ (s : State), fine s = true ∧ s.sec.session = none) ∧
    (∃ (s : State), fine s = true ∧ s.sec.session.isSome = true ∧ validPassword (pwdBytes s) = true ∧ logFull s = false) ∧
    (∃ (s : State) (x : Session) (q : Port), fine s = true ∧ s.sec.session = some x ∧ s.clk.alive[q] = true) ∧
    (∃ (s : State) (v : Word), fine s = true ∧ (v - s.sec.ack).toNat ≤ (s.sec.seq - s.sec.ack).toNat) ∧
    (∃ (s : State) (q : Port), fine s = true ∧ s.clk.alive[q] = true) ∧
    (∃ (s : State) (e : Nat), fine s = true ∧ s.sec.lockEnd = some e) :=
  ⟨⟨cell, by decide +kernel⟩,
    ⟨wStored, 5, by decide +kernel, by decide +kernel, nofun, rfl, congrArg (Config.passwordHash 5) (by decide +kernel)⟩,
    ⟨wLock 6000000, 6000000, by decide +kernel⟩,
    ⟨wSess, by decide +kernel⟩,
    ⟨wSess, by decide +kernel⟩,
    ⟨wAge 64000000, ⟨false, 2, 0x1234, false, 64000000⟩, by decide +kernel⟩,
    ⟨wAge2 99999999, ⟨false, 2, 0x1234, false, 99999999⟩, by decide +kernel⟩,
    ⟨cell, by decide +kernel⟩,
    ⟨wPwd, by decide +kernel⟩,
    ⟨wSess, ⟨false, 2, 0x1234, false, 5⟩, 0, by decide +kernel⟩,
    ⟨wSess, 8, by decide +kernel⟩,
    ⟨wPwd, 0, by decide +kernel⟩,
    ⟨wLock 100, 100, by decide +kernel⟩⟩

theorem witness_BusCycle :
    (∃ (s : State), s.clk.on = true) ∧
    (∃ (s : State), s.clk.on = true) ∧
    (∃ (s : State), s.clk.on = true ∧ planStarts s = false) :=
  ⟨⟨State.reset, by decide +kernel⟩,
    ⟨up, by decide +kernel⟩,
    ⟨State.reset, by decide +kernel⟩⟩

theorem witness_HubContinuity :
    (∃ (s : State) (h : Hub), s.clk.on = true ∧ s.clk.alive[h] = true) ∧
    (∃ (s : State) (h : Hub), s.clk.on = true ∧ s.clk.alive[h] = false ∧ hubStandsBy s h = true) ∧
    (∃ (s : State) (h : Hub), s.clk.on = true ∧ s.clk.alive[h] = false ∧ hubStandsBy s h = false) ∧
    (∃ (s : State), s.clk.on = true) ∧
    (∃ (s : State), fine s = true ∧ s.clk.alive[other s.clk.refHub] = true ∧ (s.clk.refHub = 0 ∨ s.clk.alive[(1 : Hub)] = false)) ∧
    (∃ (s : State), s.clk.on = true ∧ (s.clk.alive[other s.clk.refHub] = false ∨ (s.clk.refHub = 1 ∧ s.clk.alive[(1 : Hub)] = true))) ∧
    (∃ (s : State) (l : Lane) (h : Hub), s.clk.on = true ∧ laneIn s l = true ∧ s.clk.alive[h] = true) ∧
    (∃ (s : State) (l : Lane) (h : Hub) (tag : BitVec 48), s.clk.on = true ∧ laneIn s l = true ∧ s.clk.alive[h] = true ∧ ((∀ x ∈ s.clk.taken[l], x.tag ≠ tag))) ∧
    (∃ (s : State) (l : Lane) (h : Hub) (tag : BitVec 48) (x : BundleCopy), s.clk.on = true ∧ laneIn s l = true ∧ s.clk.alive[h] = true ∧ s.clk.taken[l] = some x ∧ x.tag = tag) ∧
    (∃ (s : State) (h : Hub), s.clk.on = true ∧ s.clk.alive[other h] = true ∧ (s.carts[hubCart h]).st = .lock) ∧
    (∃ (s : State) (h : Hub), s.clk.on = true ∧ s.clk.alive[other h] = true ∧ (s.carts[hubCart h]).st = .load) ∧
    (∃ (s : State) (h : Hub), s.clk.on = true ∧ s.clk.alive[other h] = true ∧ (s.carts[hubCart h]).st = .track ∧ 64 ≤ (s.carts[hubCart h]).run ∧ classFits s (hubCart h) = true) ∧
    (∃ (s : State) (h : Hub), s.clk.on = true ∧ (s.carts[hubCart h]).st = .track) ∧
    (∃ (s : State), s.clk.on = true) ∧
    (∃ (s : State) (c : Cart), s.clk.on = true ∧ (s.carts[c]).hot = true) :=
  ⟨⟨full, 0, by decide +kernel⟩,
    ⟨hubTracks, 1, by decide +kernel⟩,
    ⟨oneHub, 1, by decide +kernel⟩,
    ⟨full, by decide +kernel⟩,
    ⟨full, by decide +kernel⟩,
    ⟨oneHub, by decide +kernel⟩,
    ⟨full, 1, 0, by decide +kernel⟩,
    ⟨wTaken, 1, 0, 6, by decide +kernel⟩,
    ⟨wTaken, 1, 0, 5, ⟨5, 0, false⟩, by decide +kernel⟩,
    ⟨hubLocks, 1, by decide +kernel⟩,
    ⟨hubLoads, 1, by decide +kernel⟩,
    ⟨hubTracks, 1, by decide +kernel⟩,
    ⟨hubTracks, 1, by decide +kernel⟩,
    ⟨full, by decide +kernel⟩,
    ⟨hotOnes, 1, by decide +kernel⟩⟩

theorem witness_CartridgeStates :
    (∃ (s : State) (c : Cart) (l : Lane), fine s = true ∧ c = laneCart l ∧ (s.carts[c]).st = .instep ∧ (s.carts[c]).fencePend = none ∧ otherReadmits s c = true) ∧
    (∃ (s : State) (c : Cart) (l : Lane), fine s = true ∧ c = laneCart l ∧ (s.carts[c]).st = .instep ∧ (s.carts[c]).fencePend = none ∧ otherReadmits s c = false ∧ 2 ≤ (allLanes.filter fun l => laneIn s l && (s.carts[laneCart l]).fencePend.isNone && laneCart l != c).length) ∧
    (∃ (s : State) (c : Cart), fine s = true ∧ (s.carts[c]).st = .cocoon ∧ otherReadmits s c = false) ∧
    (∃ (s : State) (c : Cart), fine s = true ∧ fenced s c = true) ∧
    (∃ (s : State) (c : Cart), fine s = true ∧ fenced s c = false) ∧
    (∃ (s : State) (c : Cart), fine s = true ∧ (s.carts[c]).st = .empty) ∧
    (∃ (s : State) (c : Cart), fine s = true ∧ (s.carts[c]).st ≠ .empty ∧ (s.carts[c]).st ≠ .instep ∧ (s.carts[c]).gone = false) ∧
    (∃ (s : State) (c : Cart) (l : Lane), fine s = true ∧ c = laneCart l ∧ (s.carts[c]).st = .instep ∧ (s.carts[c]).gone = false) ∧
    (∃ (s : State) (c : Cart), fine s = true ∧ (s.carts[c]).st ≠ .empty ∧ (s.carts[c]).st ≠ .instep ∧ (s.carts[c]).lever = false) ∧
    (∃ (s : State) (c : Cart), fine s = true ∧ (s.carts[c]).st = .off) ∧
    (∃ (s : State) (c : Cart), fine s = true ∧ (s.carts[c]).st = .power) ∧
    (∃ (s : State) (c : Cart), fine s = true ∧ (s.carts[c]).st = .selftest ∧ (s.carts[c]).inserted = false) ∧
    (∃ (s : State) (c : Cart), fine s = true ∧ (s.carts[c]).st = .selftest) :=
  ⟨⟨c0 { st := .track }, 1, 1, by decide +kernel⟩,
    ⟨full, 1, 1, by decide +kernel⟩,
    ⟨noMaj, 2, by decide +kernel⟩,
    ⟨noMaj, 2, by decide +kernel⟩,
    ⟨full, 2, by decide +kernel⟩,
    ⟨c0 { st := .empty }, 2, by decide +kernel⟩,
    ⟨noMaj, 2, by decide +kernel⟩,
    ⟨full, 1, 1, by decide +kernel⟩,
    ⟨noMaj, 2, by decide +kernel⟩,
    ⟨c0 { st := .off, lever := true }, 2, by decide +kernel⟩,
    ⟨c0 { st := .power }, 2, by decide +kernel⟩,
    ⟨c0 { st := .selftest }, 2, by decide +kernel⟩,
    ⟨c0 { st := .selftest, inserted := true }, 2, by decide +kernel⟩⟩

theorem witness_LaneJoining :
    (∃ (s : State) (l : Lane), fine s = true ∧ (s.carts[laneCart l]).st = .load ∧ (sourceLane s).isSome = true) ∧
    (∃ (s : State) (l : Lane), fine s = true ∧ (s.carts[laneCart l]).st = .track) ∧
    (∃ (s : State) (l : Lane), fine s = true ∧ (s.carts[laneCart l]).st = .track ∧ 64 ≤ (s.carts[laneCart l]).run ∧ (s.carts[laneCart l]).pages = 0 ∧ s.clk.tag.toNat % max 1 (planBus s) = 0) ∧
    (∃ (s : State) (l : Lane), fine s = true ∧ (s.carts[laneCart l]).st = .check) ∧
    (∃ (s : State) (l : Lane), fine s = true ∧ (s.carts[laneCart l]).st = .check ∧ 16 ≤ (s.carts[laneCart l]).equalRun ∧ 8 ≤ (s.carts[laneCart l]).timelyRun) ∧
    (∃ (s : State) (l : Lane), fine s = true ∧ (s.carts[laneCart l]).st = .cocoon ∧ s.boot.admitted = false ∧ ((∃ m : Lane, (s.carts[laneCart m]).ready = true))) ∧
    (∃ (s : State) (l : Lane), fine s = true ∧ (s.carts[laneCart l]).st = .cocoon ∧ s.boot.admitted = true ∧ otherReadmits s (laneCart l) = false) ∧
    (∃ (s : State) (c : Cart), fine s = true ∧ fenced s c = true) ∧
    (∃ (s : State) (h : Hub), fine s = true ∧ fenced s (hubCart h) = false) ∧
    (∃ (s : State) (c : Cart) (u : BitVec 4) (x : Nat × Nat × Nat), fine s = true ∧ fenced s c = true ∧ (spareSlots (3 ≤ c.val) u.toNat).find? (fun x => !bit (s.carts[c]).map x.1) = some x) ∧
    (∃ (s : State) (c : Cart) (u : BitVec 4), fine s = true ∧ fenced s c = true ∧ (spareSlots (3 ≤ c.val) u.toNat).all (fun x => bit (s.carts[c]).map x.1) = true) :=
  ⟨⟨c0 { st := .load, xferTotal := 9 }, 2, by decide +kernel⟩,
    ⟨c0 { st := .track, journal := 3 }, 2, by decide +kernel⟩,
    ⟨c0 { st := .track, run := 64 }, 2, by decide +kernel⟩,
    ⟨c0 { st := .check, equalRun := 15, timelyRun := 7 }, 2, by decide +kernel⟩,
    ⟨c0 { st := .check, equalRun := 16, timelyRun := 8 }, 2, by decide +kernel⟩,
    ⟨cart 1 { st := .cocoon } wReady, 1, by decide +kernel⟩,
    ⟨noMaj, 2, by decide +kernel⟩,
    ⟨cart 2 { st := .off, map := 0x8003 } full, 2, by decide +kernel⟩,
    ⟨full, 1, by decide +kernel⟩,
    ⟨oneHub, 4, 1, (15, 3, 0), by decide +kernel⟩,
    ⟨cart 2 { st := .off, map := 0xFFFFFFFF } full, 2, 3, by decide +kernel⟩⟩

theorem witness_Custodians :
    (∃ (s : State), s.clk.on = true) ∧
    (∃ (s : State), s.clk.on = true ∧ s.vote.closed = true ∧ laneCount s = 3) ∧
    (∃ (s : State), s.clk.on = true ∧ s.vote.closed = true ∧ laneCount s < 3) ∧
    (∃ (s : State) (l : Lane), s.clk.on = true ∧ s.boot.admitted = true ∧ s.vote.closed = true ∧ voteHolds s = true ∧ lanesOf s.vote.named = [l] ∧ laneIn s l = true ∧ (((s.cus[(0 : Hub)]).st = .acting ∨ (s.cus[(1 : Hub)]).st = .acting))) ∧
    (∃ (s : State) (h : Hub), s.clk.on = true ∧ (s.cus[other h]).st = .acting ∧ (s.cus[h]).st = .selfFenced) ∧
    (∃ (s : State) (h : Hub), s.clk.on = true ∧ 64 ≤ (s.cus[h]).equalRun ∧ ((s.cus[h]).st = .shadow ∨ ((s.cus[h]).st = .selfFenced ∧ (s.cus[h]).readmit = true))) :=
  ⟨⟨full, by decide +kernel⟩,
    ⟨full, by decide +kernel⟩,
    ⟨noMaj, by decide +kernel⟩,
    ⟨full, 2, by decide +kernel⟩,
    ⟨fencedCus, 1, by decide +kernel⟩,
    ⟨fencedCus, 1, by decide +kernel⟩⟩

theorem witness_BringUp :
    (∃ (s : State), s.clk.on = true ∧ s.boot.custodians = false) ∧
    (∃ (s : State), s.clk.on = true ∧ s.boot.custodians = true ∧ s.boot.selfTest = false) ∧
    (∃ (s : State), s.clk.on = true ∧ s.boot.selfTest = true ∧ s.boot.locked = false) ∧
    (∃ (s : State), s.clk.on = true ∧ s.boot.locked = true ∧ s.boot.functions = false) ∧
    (∃ (s : State), s.clk.on = true ∧ s.boot.selfTest = false) ∧
    (∃ (s : State), s.clk.on = true ∧ s.boot.locked = false) ∧
    (∃ (s : State), s.clk.on = true ∧ s.boot.admitted = false ∧ planStarts s = true ∧ 1600000000 * 2 ^ 32 < s.clk.now ∧ 2 ≤ (readyLanes s).length) ∧
    (∃ (s : State), s.clk.on = true ∧ (s.clk.now ≤ 1600000000 * 2 ^ 32 ∨ (readyLanes s).length < 2)) :=
  ⟨⟨State.reset, by decide +kernel⟩,
    ⟨wBoot, by decide +kernel⟩,
    ⟨wBoot1, by decide +kernel⟩,
    ⟨wBoot3, by decide +kernel⟩,
    ⟨wBoot, by decide +kernel⟩,
    ⟨wBoot, by decide +kernel⟩,
    ⟨wReady, by decide +kernel⟩,
    ⟨State.reset, by decide +kernel⟩⟩

theorem witness_Supplies :
    (∃ (s : State) (i : Fin 2), fine s = true ∧ 5600 ≤ (5600) ∧ s.pwr.low[i] = false) ∧
    (∃ (s : State) (i : Fin 2), fine s = true ∧ (5599) < 5600 ∧ s.pwr.low[other i] = true) ∧
    (∃ (s : State), fine s = true ∧ s.pwr.lowAt = some (4000001) ∧ s.clk.now / 2 ^ 32 < (4000001) + 1000000) ∧
    (∃ (s : State), fine s = true ∧ s.pwr.lowAt = some (4000000) ∧ (4000000) + 1000000 ≤ s.clk.now / 2 ^ 32) ∧
    (∃ (s : State) (h : Hub), fine s = true ∧ s.clk.alive[h] = true) :=
  ⟨⟨up, 0, by decide +kernel⟩,
    ⟨{ up with pwr := { up.pwr with low := ⟨#[true, true], rfl⟩, lowAt := some 4000000 } }, 0, by decide +kernel⟩,
    ⟨{ up with pwr := { up.pwr with lowAt := some 4000001 } }, by decide +kernel⟩,
    ⟨{ up with pwr := { up.pwr with low := ⟨#[true, true], rfl⟩, lowAt := some 4000000 } }, by decide +kernel⟩,
    ⟨put .pwr 0 [(Reg.PWR_TWARN, 100)] full, 0, by decide +kernel⟩⟩

set_option maxRecDepth 100000 in
theorem witness_WearlineSending :
    (∃ (s : State) (b : WlBank) (k : BitVec 8) (h : Hub) (c : Chan) (r : SlotRow) (p : List Byte), fine s = true ∧ wlBank s = some b ∧ wlRuns s = true ∧ 1 ≤ k.toNat ∧ k.toNat ≤ b.slots ∧ rowAt s b c k.toNat = some r ∧ r.node ≤ 1 ∧ senderOf s c r = some h ∧ slotFrame s b h c r = some p ∧ sendsTraining s b h c r = true) ∧
    (∃ (s : State) (b : WlBank) (k : BitVec 8) (h : Hub) (c : Chan) (r : SlotRow) (p : List Byte), fine s = true ∧ wlBank s = some b ∧ wlRuns s = true ∧ 1 ≤ k.toNat ∧ k.toNat ≤ b.slots ∧ rowAt s b c k.toNat = some r ∧ r.node ≤ 1 ∧ senderOf s c r = some h ∧ slotFrame s b h c r = some p ∧ sendsTraining s b h c r = false ∧ r.kind = 1) ∧
    (∃ (s : State) (b : WlBank) (k : BitVec 8) (h : Hub) (c : Chan) (r : SlotRow) (p : List Byte), fine s = true ∧ wlBank s = some b ∧ wlRuns s = true ∧ 1 ≤ k.toNat ∧ k.toNat ≤ b.slots ∧ rowAt s b c k.toNat = some r ∧ r.node ≤ 1 ∧ senderOf s c r = some h ∧ slotFrame s b h c r = some p ∧ sendsTraining s b h c r = false ∧ r.kind ≠ 1 ∧ handedFor s r = none) ∧
    (∃ (s : State) (b : WlBank) (k : BitVec 8) (h : Hub) (c : Chan) (r : SlotRow) (p : List Byte), fine s = true ∧ wlBank s = some b ∧ wlRuns s = true ∧ 1 ≤ k.toNat ∧ k.toNat ≤ b.slots ∧ rowAt s b c k.toNat = some r ∧ r.node ≤ 1 ∧ senderOf s c r = some h ∧ slotFrame s b h c r = some p) ∧
    (∃ (s : State) (b : WlBank) (c : Chan), fine s = true ∧ wlBank s = some b ∧ wlRuns s = true ∧ ((s.wl.op = 1 ∨ s.wl.op = 2)) ∧ ((s.wl.consAct = true → c = s.wl.kept)) ∧ s.wl.spent[c] < b.minis ∧ s.wl.mini[c] < 1023 ∧ dynRow s b c (s.wl.mini[c] + 1) = none) ∧
    (∃ (s : State) (b : WlBank) (c : Chan) (r : SlotRow) (kind : Nat) (p : List Byte), fine s = true ∧ wlBank s = some b ∧ wlRuns s = true ∧ ((s.wl.op = 1 ∨ s.wl.op = 2)) ∧ ((s.wl.consAct = true → c = s.wl.kept)) ∧ s.wl.spent[c] < b.minis ∧ s.wl.mini[c] < 1023 ∧ dynRow s b c (s.wl.mini[c] + 1) = some r ∧ r.node = 0 ∧ canSend s s.clk.refHub c (some r) = true ∧ (dynPayload s c r).map (fun x => (x.1, x.2.1)) = some (kind, p) ∧ fitsDynamic b s.wl.spent[c] (p.length + 16) = true) ∧
    (∃ (s : State) (b : WlBank), fine s = true ∧ wlBank s = some b ∧ wlRuns s = true ∧ assisted s .wls 0 = true) ∧
    (∃ (s : State) (b : WlBank), fine s = true ∧ wlBank s = some b ∧ wlRuns s = true ∧ (s.wl.op = 1 ∨ s.wl.op = 2) ∧ cycOf s = 0 ∧ b.symWin ≠ 0) :=
  ⟨⟨wTrains, bank, 1, 0, 0, ⟨1, 0, 0, 1, 4, 0⟩, trainingFrame wTrains bank 0 ⟨1, 0, 0, 1, 4, 0⟩, by decide +kernel⟩,
    ⟨wRun, bank, 1, 0, 0, ⟨1, 0, 0, 1, 4, 0⟩, syncFrame wRun bank 0 ⟨1, 0, 0, 1, 4, 0⟩, by decide +kernel⟩,
    ⟨wRun, bank, 3, 0, 0, ⟨3, 0, 0, 2, 34, 0⟩, nullFrame wRun bank 0 3, by decide +kernel⟩,
    ⟨wTrains, bank, 1, 0, 0, ⟨1, 0, 0, 1, 4, 0⟩, trainingFrame wTrains bank 0 ⟨1, 0, 0, 1, 4, 0⟩, by decide +kernel⟩,
    ⟨wRun, bank, 1, by decide +kernel⟩,
    ⟨wDue, bank, 0, ⟨256, 0, 0, 7, 16, 0⟩, 7, padTo 64 (requestBytes ⟨6, 1, 10, 0, [], false, 0, 0, 0⟩), by decide +kernel⟩,
    ⟨wBuf, bank, by decide +kernel⟩,
    ⟨wRun, bank, by decide +kernel⟩⟩

theorem witness_WearlineReceiving :
    (∃ (s : State) (b : WlBank) (x : Burst), fine s = true ∧ wlBank s = some b ∧ s.clk.alive[(0 : Hub)] = true ∧ s.clk.alive[(1 : Hub)] = true ∧ s.wl.phase = .listen ∧ ((∀ z ∈ received x.syms, usable b z = false))) ∧
    (∃ (s : State) (b : WlBank) (x : Burst) (z : Received), fine s = true ∧ wlBank s = some b ∧ s.clk.alive[(0 : Hub)] = true ∧ s.clk.alive[(1 : Hub)] = true ∧ s.wl.phase = .listen ∧ received x.syms = some z ∧ intact z = true ∧ (readHdr z.bytes : Hdr).sync = true ∧ (readHdr z.bytes : Hdr).null = false ∧ ((readHdr z.bytes : Hdr).kind = 1 ∨ (readHdr z.bytes : Hdr).kind = 9) ∧ leAt (framePayload z.bytes) 10 1 % 4 = b.rate.toNat ∧ ((∃ r ∈ b.two, r.kind = 1 ∧ r.fid = (readHdr z.bytes : Hdr).fid))) ∧
    (∃ (s : State) (b : WlBank) (c : Chan) (fid : BitVec 10) (x : Burst) (z : Received) (r : SlotRow) (n : Nat), fine s = true ∧ wlBank s = some b ∧ s.clk.alive[(0 : Hub)] = true ∧ s.clk.alive[(1 : Hub)] = true ∧ wlRuns s = true ∧ 256 ≤ fid.toNat ∧ n = s.wl.mini[c] ∧ 256 ≤ n ∧ dynRow s b c n = some r ∧ 2 ≤ r.node ∧ received x.syms = some z ∧ ((∀ h : Hub, checkFrame s b (some r) n h c z x.devNs = 0)) ∧ (readHdr z.bytes).null = false ∧ fld s .wls 0 Reg.WLS_RX_FILT 9 0 ≤ n ∧ n ≤ fld s .wls 0 Reg.WLS_RX_FILT 25 16 ∧ s.wl.rx.length < 16) ∧
    (∃ (s : State) (b : WlBank) (x : Burst) (z : Received), fine s = true ∧ wlBank s = some b ∧ s.clk.alive[(0 : Hub)] = true ∧ s.clk.alive[(1 : Hub)] = true ∧ wlRuns s = true ∧ received x.syms = some z ∧ z.violation = true) :=
  ⟨⟨wListen, bank, badBurst, by decide +kernel⟩,
    ⟨wListen, bank, syncBurst, ((received syncBurst.syms).getD ⟨[], false, false⟩), by decide +kernel⟩,
    ⟨wBuf, bank, 0, 300, dynBurst, ((received dynBurst.syms).getD ⟨[], false, false⟩), ⟨300, 0, 5, 8, 2, 0⟩, 300, by decide +kernel⟩,
    ⟨wBuf, bank, cutBurst, ((received cutBurst.syms).getD ⟨[], false, false⟩), by decide +kernel⟩⟩

theorem witness_WearlineSchedule :
    (∃ (s : State), fine s = true ∧ (s.wl.nack ≠ 0 ∨ wlNext s = none)) ∧
    (∃ (s : State), fine s = true ∧ s.wl.nack = 0 ∧ (wlNext s).isSome = true ∧ s.wl.epCd = 0 ∧ s.wl.epDue = false ∧ s.wl.consAct = false ∧ consIdle s = true) ∧
    (∃ (s : State), fine s = true ∧ s.wl.nack = 0 ∧ (wlNext s).isSome = true ∧ (0 < s.wl.epCd ∨ s.wl.epDue = true ∨ s.wl.consAct = true ∨ consIdle s = false)) ∧
    (∃ (s : State), fine s = true ∧ s.wl.epDue = true) ∧
    (∃ (s : State), fine s = true ∧ s.wl.op = 1 ∧ consIdle s = true) ∧
    (∃ (s : State), fine s = true ∧ (s.wl.op ≠ 1 ∨ consIdle s = false)) ∧
    (∃ (s : State) (lost : Chan), fine s = true ∧ s.wl.op = 1 ∧ consIdle s = true ∧ (laneOfRole s .lead).isSome = true ∧ s.tds.choked = false ∧ lostChannel s lost = true ∧ lostChannel s (other lost) = false) ∧
    (∃ (s : State), fine s = true ∧ s.wl.consDue = true) ∧
    (∃ (s : State), fine s = true ∧ s.wl.op = 2 ∧ s.wl.exitAnn = false ∧ s.wl.exitDue = false ∧ ((∀ h : Hub, 64 ≤ (s.wl.clean[h])[other s.wl.kept]))) ∧
    (∃ (s : State) (h : Hub), fine s = true ∧ ((s.wl.clean[h])[other s.wl.kept] < 64 ∨ s.wl.op ≠ 2)) ∧
    (∃ (s : State), fine s = true ∧ s.wl.exitDue = true) ∧
    (∃ (s : State), fine s = true ∧ s.wl.op = 1 ∧ lostChannel s 0 = true ∧ lostChannel s 1 = true) ∧
    (∃ (s : State) (b : WlBank), fine s = true ∧ wlBank s = some b ∧ s.wl.phase = .listen ∧ ((∃ c : Chan, canSend s s.clk.refHub c none = true))) ∧
    (∃ (s : State), fine s = true ∧ s.wl.op = 0 ∧ 8 ≤ s.wl.upCycles ∧ wlRuns s = true) ∧
    (∃ (s : State) (q : CfgReq) (rest : List CfgReq) (x : CfgResp), fine s = true ∧ s.wl.reqs = q :: rest ∧ q.sent = true ∧ q.ch = x.ch ∧ q.node = x.node.val ∧ q.op = x.op ∧ q.req = x.req) ∧
    (∃ (s : State) (q : CfgReq) (rest : List CfgReq), fine s = true ∧ s.wl.reqs = q :: rest ∧ q.sent = true ∧ 4 ≤ q.age ∧ q.repeats < 3) ∧
    (∃ (s : State) (q : CfgReq) (rest : List CfgReq), fine s = true ∧ s.wl.reqs = q :: rest ∧ q.sent = true ∧ 4 ≤ q.age ∧ 3 ≤ q.repeats) :=
  ⟨⟨wRun, by decide +kernel⟩,
    ⟨wNext0, by decide +kernel⟩,
    ⟨wNext, by decide +kernel⟩,
    ⟨wNext, by decide +kernel⟩,
    ⟨wNext0, by decide +kernel⟩,
    ⟨wCons, by decide +kernel⟩,
    ⟨wLost, 0, by decide +kernel⟩,
    ⟨wNext, by decide +kernel⟩,
    ⟨{ wCons with wl := { wCons.wl with exitDue := false } }, by decide +kernel⟩,
    ⟨wRun, 1, by decide +kernel⟩,
    ⟨wCons, by decide +kernel⟩,
    ⟨wLost2, by decide +kernel⟩,
    ⟨wListen, bank, by decide +kernel⟩,
    ⟨wUp, by decide +kernel⟩,
    ⟨wReq 3, ⟨5, 4, 9, 0, [], true, 3, 0, 5⟩, [⟨6, 1, 10, 0, [], false, 0, 0, 0⟩], ⟨0, 5, 4, 9, 0, []⟩, by decide +kernel⟩,
    ⟨wReq 2, ⟨5, 4, 9, 0, [], true, 2, 0, 5⟩, [⟨6, 1, 10, 0, [], false, 0, 0, 0⟩], by decide +kernel⟩,
    ⟨wReq 3, ⟨5, 4, 9, 0, [], true, 3, 0, 5⟩, [⟨6, 1, 10, 0, [], false, 0, 0, 0⟩], by decide +kernel⟩⟩

theorem witness_WearlinePhysical :
    (∃ (s : State) (h : Hub) (c : Chan) (n : NodeNo), fine s = true ∧ s.clk.alive[h] = true ∧ Sparse.wf (fun _ => ({} : EqEntry)) (s.wl.eq[h])[c] = true ∧ 128 ≤ (eqEntry s h c n.val).slots ∧ (eqEntry s h c n.val).done = false) ∧
    (∃ (s : State) (h : Hub) (c : Chan), fine s = true ∧ s.clk.alive[h] = true ∧ Sparse.wf (fun _ => ({} : EqEntry)) (s.wl.eq[h])[c] = true) ∧
    (∃ (s : State) (h : Hub) (c : Chan), fine s = true ∧ s.clk.alive[h] = true ∧ Sparse.wf (fun _ => ({} : EqEntry)) (s.wl.eq[h])[c] = true) ∧
    (∃ (s : State) (h : Hub) (c : Chan) (x : WireFrame), fine s = true ∧ s.clk.alive[h] = true ∧ Sparse.wf (fun _ => ({} : EqEntry)) (s.wl.eq[h])[c] = true ∧ lastBurst s h c = some x) ∧
    (∃ (s : State) (h : Hub) (c : Chan), fine s = true ∧ s.clk.alive[h] = true ∧ Sparse.wf (fun _ => ({} : EqEntry)) (s.wl.eq[h])[c] = true) :=
  ⟨⟨wEq 96, 0, 0, 4, by decide +kernel⟩,
    ⟨wEq 3, 0, 0, by decide +kernel⟩,
    ⟨wRun, 1, 1, by decide +kernel⟩,
    ⟨wWire, 1, 1, ⟨1, 1, 2, wRun.clk.now, burstSyms (frameBytes { fid := 1, cyc := 0, len := 0, seq := 0, node := 1, epoch := 3, kind := 1 } []), 3⟩, by decide +kernel⟩,
    ⟨wRun, 0, 0, by decide +kernel⟩⟩

theorem witness_HostBuffers :
    (∃ (s : State) (i : Sixteen) (q : Port) (v : Word), fine s = true ∧ s.clk.alive[q] = true ∧ fld s .wls 0 Reg.WLS_HB_SEL 3 0 = i.val ∧ 256 ≤ field v 9 0 ∧ field v 23 16 ≠ 255) ∧
    (∃ (s : State) (i : Sixteen) (q : Port) (v : Word), fine s = true ∧ s.clk.alive[q] = true ∧ fld s .wls 0 Reg.WLS_HB_SEL 3 0 = i.val ∧ (field v 9 0 < 256 ∨ field v 23 16 = 255)) ∧
    (∃ (s : State) (i : Sixteen) (q : Port), fine s = true ∧ s.clk.alive[q] = true ∧ fld s .wls 0 Reg.WLS_HB_SEL 3 0 = i.val ∧ Sparse.wf (fun _ => (0 : Word)) (s.wl.buf[i]).data = true ∧ fld s .wls 0 Reg.WLS_HB_ADDR 7 0 ≤ 253) ∧
    (∃ (s : State) (i : Sixteen) (q : Port), fine s = true ∧ s.clk.alive[q] = true ∧ fld s .wls 0 Reg.WLS_HB_SEL 3 0 = i.val ∧ fld s .wls 0 Reg.WLS_HB_ADDR 7 0 ≤ 253) ∧
    (∃ (s : State) (i : Sixteen) (q : Port) (x : RxFrame) (r : List RxFrame), fine s = true ∧ s.clk.alive[q] = true ∧ fld s .wls 0 Reg.WLS_HB_SEL 3 0 = i.val ∧ s.wl.rx = x :: r) :=
  ⟨⟨wBuf, 2, 0, 0x80FE0900, by decide +kernel⟩,
    ⟨wBuf, 2, 0, 0xFF, by decide +kernel⟩,
    ⟨wBuf, 2, 0, by decide +kernel⟩,
    ⟨wBuf, 2, 0, by decide +kernel⟩,
    ⟨wBuf, 2, 0, ⟨0, 300, 9, [1, 2]⟩, [], by decide +kernel⟩⟩

theorem witness_ArmRecordsTaken_a :
    (∃ (s : State) (a : Arm), fine s = true ∧ memWf s.mem = true ∧ unconsumed s a = 1023) ∧
    (∃ (s : State) (a : Arm), fine s = true ∧ memWf s.mem = true ∧ unconsumed s a < 1023 ∧ atPlanStart s = false) ∧
    (∃ (s : State) (a : Arm) (x : RecArgs) (k : Nat), fine s = true ∧ memWf s.mem = true ∧ unconsumed s a < 1023 ∧ atPlanStart s = false ∧ (k < ringAddr a (⟨wrIdx s a, x.seq, (0x01 : Byte), x.flags, x.frame, x.res7, (List.range 120).map fun i => x.body.getD i 0⟩ : RingRec).idx ∨ ringAddr a (⟨wrIdx s a, x.seq, (0x01 : Byte), x.flags, x.frame, x.res7, (List.range 120).map fun i => x.body.getD i 0⟩ : RingRec).idx + 128 ≤ k)) ∧
    (∃ (s : State) (a : Arm), fine s = true ∧ memWf s.mem = true ∧ unconsumed s a = 0 ∧ atPlanStart s = true ∧ (s.ring[a]).took < 8 ∧ canTake s a = false) :=
  ⟨⟨wArmFull, 1, by decide +kernel⟩,
    ⟨wArmMid, 1, by decide +kernel⟩,
    ⟨wArmMid, 1, args 0 [(8, 4, 0x3F800000), (12, 4, 0x3F800000)], ringAddr 1 1023 - 1, by decide +kernel⟩,
    ⟨{ wArm with ring := vset wArm.ring 1 { halt := 1 } }, 1, by decide +kernel⟩⟩

theorem witness_ArmRecordsTaken_b :
    (∃ (s : State) (a : Arm) (x : RecArgs), fine s = true ∧ memWf s.mem = true ∧ unconsumed s a = 0 ∧ atPlanStart s = true ∧ (s.ring[a]).took < 8 ∧ canTake s a = true ∧ restsAt s a = true ∧ nextStop s a = none ∧ recordCode (busNs s) (readOn a (modRing a (fun g => { g with took := g.took + 1 }) (hostRecord a (0x01 : Byte) x s : State)) : State) a (⟨wrIdx s a, x.seq, (0x01 : Byte), x.flags, x.frame, x.res7, (List.range 120).map fun i => x.body.getD i 0⟩ : RingRec) = 0 ∧ (⟨wrIdx s a, x.seq, (0x01 : Byte), x.flags, x.frame, x.res7, (List.range 120).map fun i => x.body.getD i 0⟩ : RingRec).timed = false ∧ (0x01 : Byte) ≠ 0x60) ∧
    (∃ (s : State) (a : Arm) (x : RecArgs) (c : Nat), fine s = true ∧ memWf s.mem = true ∧ unconsumed s a = 0 ∧ atPlanStart s = true ∧ (s.ring[a]).took < 8 ∧ canTake s a = true ∧ restsAt s a = true ∧ nextStop s a = none ∧ recordCode (busNs s) (readOn a (modRing a (fun g => { g with took := g.took + 1 }) (hostRecord a (0x01 : Byte) x s : State)) : State) a (⟨wrIdx s a, x.seq, (0x01 : Byte), x.flags, x.frame, x.res7, (List.range 120).map fun i => x.body.getD i 0⟩ : RingRec) = c ∧ c ≠ 0 ∧ (s.ring[a]).coupled = none ∧ (s.ring[a]).taken = []) ∧
    (∃ (s : State) (a : Arm) (x : RecArgs), fine s = true ∧ memWf s.mem = true ∧ unconsumed s a = 0 ∧ atPlanStart s = true ∧ (s.ring[a]).took < 8 ∧ canTake s a = true ∧ (restsAt s a = false ∨ (∃ q, nextStop s a = some q ∧ q ≠ (⟨wrIdx s a, x.seq, (0x01 : Byte), x.flags, x.frame, x.res7, (List.range 120).map fun i => x.body.getD i 0⟩ : RingRec)))) ∧
    (∃ (s : State) (a : Arm) (x : RecArgs), fine s = true ∧ memWf s.mem = true ∧ unconsumed s a = 0 ∧ atPlanStart s = true ∧ (s.ring[a]).took < 8 ∧ canTake s a = true ∧ (restsAt s a = false ∨ (∃ q, nextStop s a = some q ∧ q ≠ (⟨wrIdx s a, x.seq, (0x01 : Byte), x.flags, x.frame, x.res7, (List.range 120).map fun i => x.body.getD i 0⟩ : RingRec))) ∧ recordCode (busNs s) (readOn a (modRing a (fun g => { g with took := g.took + 1 }) (hostRecord a (0x01 : Byte) x s : State)) : State) a (⟨wrIdx s a, x.seq, (0x01 : Byte), x.flags, x.frame, x.res7, (List.range 120).map fun i => x.body.getD i 0⟩ : RingRec) = 0 ∧ (0x01 : Byte) ≠ 0x60) :=
  ⟨⟨wArmRest, 1, args 0 [(8, 4, 0x3F800000), (12, 4, 0x3F800000)], by decide +kernel⟩,
    ⟨wArmRest, 1, args 0 [], 4, by decide +kernel⟩,
    ⟨wArm, 1, args 0 [(8, 4, 0x3F800000), (12, 4, 0x3F800000)], by decide +kernel⟩,
    ⟨wArm, 1, args 0 [(8, 4, 0x3F800000), (12, 4, 0x3F800000)], by decide +kernel⟩⟩

theorem witness_ArmRecordsTaken_c :
    (∃ (s : State) (a : Arm) (x : RecArgs), fine s = true ∧ memWf s.mem = true ∧ unconsumed s a = 0 ∧ atPlanStart s = true ∧ (s.ring[a]).took < 8 ∧ canTake s a = true ∧ (restsAt s a = false ∨ (∃ q, nextStop s a = some q ∧ q ≠ (⟨wrIdx s a, x.seq, (0x60 : Byte), x.flags, x.frame, x.res7, (List.range 120).map fun i => x.body.getD i 0⟩ : RingRec))) ∧ recordCode (busNs s) (readOn a (modRing a (fun g => { g with took := g.took + 1 }) (hostRecord a (0x60 : Byte) x s : State)) : State) a (⟨wrIdx s a, x.seq, (0x60 : Byte), x.flags, x.frame, x.res7, (List.range 120).map fun i => x.body.getD i 0⟩ : RingRec) = 0 ∧ (0x60 : Byte) = 0x60) ∧
    (∃ (s : State) (a : Arm) (x : RecArgs) (c : Nat), fine s = true ∧ memWf s.mem = true ∧ unconsumed s a = 0 ∧ atPlanStart s = true ∧ (s.ring[a]).took < 8 ∧ canTake s a = true ∧ (restsAt s a = false ∨ (∃ q, nextStop s a = some q ∧ q ≠ (⟨wrIdx s a, x.seq, (0x01 : Byte), x.flags, x.frame, x.res7, (List.range 120).map fun i => x.body.getD i 0⟩ : RingRec))) ∧ recordCode (busNs s) (readOn a (modRing a (fun g => { g with took := g.took + 1 }) (hostRecord a (0x01 : Byte) x s : State)) : State) a (⟨wrIdx s a, x.seq, (0x01 : Byte), x.flags, x.frame, x.res7, (List.range 120).map fun i => x.body.getD i 0⟩ : RingRec) = c ∧ c ≠ 0 ∧ (s.ring[a]).coupled = none) :=
  ⟨⟨wArmHa, 1, args 0 [(8, 4, 1)], by decide +kernel⟩,
    ⟨wArm, 1, args 0 [], 4, by decide +kernel⟩⟩

theorem witness_ArmProgress :
    (∃ (s : State) (a : Arm) (r : RingRec), fine s = true ∧ (s.ring[a]).taken = [r] ∧ (s.ring[a]).bad = none ∧ (s.ring[a]).halt = 0 ∧ r.isMotion = true ∧ r.code ≠ 4 ∧ reached s a r = false) ∧
    (∃ (s : State) (a : Arm) (r : RingRec), fine s = true ∧ (s.ring[a]).taken = [r] ∧ (s.ring[a]).bad = none ∧ (s.ring[a]).halt = 0 ∧ r.isMotion = true ∧ r.code ≠ 4 ∧ reached s a r = true) ∧
    (∃ (s : State) (a : Arm) (r : RingRec) (t0 : Nat) (z : BitVec 16), fine s = true ∧ (s.ring[a]).taken = [r] ∧ (s.ring[a]).bad = none ∧ (s.ring[a]).wait = some (t0, z) ∧ (((Instr.waitTimeEnd a, decide (r.code = 0x10 ∧ (if r.fl % 2 = 1 then r.n 8 8 else t0 + r.n 8 8) ≤ nsOf s))).2)) ∧
    (∃ (s : State) (a : Arm) (r : RingRec) (t0 : Nat) (z : BitVec 16), fine s = true ∧ (s.ring[a]).taken = [r] ∧ (s.ring[a]).bad = none ∧ (s.ring[a]).wait = some (t0, z) ∧ (r.code = 0x11 ∨ r.code = 0x12 ∨ r.code = 0x50) ∧ r.n 16 8 ≠ 0 ∧ t0 + r.n 16 8 ≤ nsOf s) ∧
    (∃ (s : State) (a : Arm) (r : RingRec) (b : Arm) (q : RingRec), fine s = true ∧ (s.ring[a]).taken = [r] ∧ (s.ring[a]).bad = none ∧ b ≠ a ∧ (s.ring[b]).taken = [q] ∧ (s.ring[b]).bad = none ∧ r.code = 0x50 ∧ q.code = 0x50 ∧ sameRdv r q = true ∧ (s.ring[a]).rdv = true ∧ (s.ring[b]).rdv = true ∧ ((∀ d : Arm, (BitVec.ofNat 12 (r.n 10 2)).getLsbD d.val = true ↔ d = a ∨ d = b))) :=
  ⟨⟨wTakenRec moveRec, 1, moveRec, by decide +kernel⟩,
    ⟨wReached, 1, moveRec, by decide +kernel⟩,
    ⟨wTakenRec (waitT 4999000), 1, waitT 4999000, 1000, 6, by decide +kernel⟩,
    ⟨wTakenRec (waitPh), 1, waitPh, 1000, 6, by decide +kernel⟩,
    ⟨wRdv, 1, rdvRec, 2, rdvRec, by decide +kernel⟩⟩

theorem witness_ArmCommands :
    (∃ (s : State) (a : Arm) (v : Word), fine s = true ∧ memWf s.mem = true ∧ unconsumed s a ≤ (field v 9 0 + 1024 - rdIdx s a) % 1024) ∧
    (∃ (s : State) (a : Arm) (v : Word), fine s = true ∧ memWf s.mem = true ∧ (field v 9 0 + 1024 - rdIdx s a) % 1024 < unconsumed s a) ∧
    (∃ (s : State) (a : Arm) (v : Word), fine s = true ∧ memWf s.mem = true ∧ (rptWr s a + 2048 - field v 10 0) % 2048 ≤ unread s a) ∧
    (∃ (s : State) (a : Arm), fine s = true ∧ memWf s.mem = true ∧ (s.ring[a]).halt ≠ 0 ∧ 0 < unconsumed s a) ∧
    (∃ (s : State) (a : Arm), fine s = true ∧ memWf s.mem = true ∧ (s.ring[a]).halt = 0) ∧
    (∃ (s : State) (a : Arm), fine s = true ∧ memWf s.mem = true ∧ (s.ring[a]).halt = 5 ∧ s.line.valid = false) ∧
    (∃ (s : State) (a : Arm), fine s = true ∧ memWf s.mem = true ∧ (s.ring[a]).halt ≠ 0 ∧ ((s.ring[a]).halt ≠ 5 ∨ s.line.valid = true)) ∧
    (∃ (s : State) (a : Arm) (r : RingRec), fine s = true ∧ memWf s.mem = true ∧ (s.ring[a]).halt = 0 ∧ (s.ring[a]).coupled = none ∧ (s.ring[a]).taken = [r]) ∧
    (∃ (s : State) (a : Arm) (r : RingRec), fine s = true ∧ memWf s.mem = true ∧ (s.ring[a]).halt ≠ 0 ∧ (s.ring[a]).coupled = none ∧ (s.ring[a]).taken = [r]) ∧
    (∃ (s : State) (a : Arm), fine s = true ∧ memWf s.mem = true ∧ (s.ring[a]).coupled = none ∧ (s.ring[a]).taken = []) ∧
    (∃ (s : State) (a : Arm), fine s = true ∧ memWf s.mem = true ∧ (s.ring[a]).srst = true ∧ (s.ring[a]).halt ≠ 0 ∧ restsAt s a = true ∧ (s.ring[a]).taken = []) :=
  ⟨⟨wTakenRec moveRec, 1, 9, by decide +kernel⟩,
    ⟨wTakenRec moveRec, 1, 8, by decide +kernel⟩,
    ⟨wTakenRec moveRec, 1, 2047, by decide +kernel⟩,
    ⟨wHalt 1, 1, by decide +kernel⟩,
    ⟨wTakenRec moveRec, 1, by decide +kernel⟩,
    ⟨{ wHalt 5 with line := {} }, 1, by decide +kernel⟩,
    ⟨wHalt 5, 1, by decide +kernel⟩,
    ⟨wTakenRec moveRec, 1, moveRec, by decide +kernel⟩,
    ⟨wHaltMove, 1, moveRec, by decide +kernel⟩,
    ⟨wHalt 0, 1, by decide +kernel⟩,
    ⟨{ wHalt 4 with ring := vset full.ring 1 { halt := 4, srst := true } }, 1, by decide +kernel⟩⟩

theorem witness_PlefinSettings :
    (∃ (s : State) (a : Arm), fine s = true ∧ assisted s .kin a = true ∧ fld s .kin a Reg.KIN_HA_CFG 15 0 ≤ (s.ident[a]).haAge) ∧
    (∃ (s : State) (a : Arm) (m : ArmModel) (im : ArmsImage), fine s = true ∧ armModel s a = some m ∧ s.arms = some im ∧ skipCause s a ≠ 0) ∧
    (∃ (s : State) (a : Arm) (m : ArmModel) (im : ArmsImage), fine s = true ∧ armModel s a = some m ∧ s.arms = some im ∧ skipCause s a = 0) ∧
    (∃ (s : State) (a : Arm), fine s = true ∧ (armModel s a = none ∨ s.arms = none)) ∧
    (∃ (s : State) (v : Word), fine s = true ∧ pairWithin (join64 v s.plf.tolLo) 15 2 = true) ∧
    (∃ (s : State) (v : Word), fine s = true ∧ pairWithin (join64 v s.plf.tolLo) 15 2 = false) ∧
    (∃ (s : State) (v : Word), fine s = true ∧ pairWithin (join64 v s.plf.floorLo) 16 6 = true) ∧
    (∃ (s : State), fine s = true ∧ s.plf.banks[other s.plf.act] = none) ∧
    (∃ (s : State) (b : Pattern), fine s = true ∧ s.plf.banks[other s.plf.act] = some b ∧ s.plf.pend.isSome = true) ∧
    (∃ (s : State) (b : Pattern), fine s = true ∧ s.plf.banks[other s.plf.act] = some b ∧ s.plf.pend = none ∧ dLt (tsJerk s) (jerkBound s b) = true) ∧
    (∃ (s : State) (b : Pattern), fine s = true ∧ s.plf.banks[other s.plf.act] = some b ∧ s.plf.pend = none ∧ dLt (tsJerk s) (jerkBound s b) = false) ∧
    (∃ (s : State), fine s = true ∧ patternDue s = true) ∧
    (∃ (s : State), fine s = true ∧ patternDue s = false) :=
  ⟨⟨wKin, 1, by decide +kernel⟩,
    ⟨wKin, 1, model, { arms := [(1, model)], couplings := [], gravity := ⟨0, 0, 0⟩, selDist := 0, dPlan := 0, aS := 0, rho1 := 0, rho2 := 0, tolEq := 0, tolBnd := 0, tolSig := 0 }, by decide +kernel⟩,
    ⟨wIdent, 1, model, { arms := [(1, model)], couplings := [], gravity := ⟨0, 0, 0⟩, selDist := 0, dPlan := 0, aS := 0, rho1 := 0, rho2 := 0, tolEq := 0, tolBnd := 0, tolSig := 0 }, by decide +kernel⟩,
    ⟨full, 1, by decide +kernel⟩,
    ⟨wPlan, 0x3F50624D, by decide +kernel⟩,
    ⟨wPlan, 0x3FF00000, by decide +kernel⟩,
    ⟨wPlan, 0x3D719799, by decide +kernel⟩,
    ⟨full, by decide +kernel⟩,
    ⟨wPlfDue, { pat with plancyc := 2 }, by decide +kernel⟩,
    ⟨put .plf 0 [(Reg.PLF_TS_JERK, 0x3F800000)] wPlan, { pat with plancyc := 2 }, by decide +kernel⟩,
    ⟨wPlan, { pat with plancyc := 2 }, by decide +kernel⟩,
    ⟨wPlfDue, by decide +kernel⟩,
    ⟨wPlan, by decide +kernel⟩⟩

theorem witness_PlefinPlan :
    (∃ (s : State), fine s = true ∧ planStarts s = true) ∧
    (∃ (s : State) (b : Pattern) (im : ArmsImage), fine s = true ∧ s.plf.busy = true ∧ s.plf.warm = false ∧ pattern s = some b ∧ s.arms = some im) ∧
    (∃ (s : State), fine s = true ∧ (s.plf.busy = false ∨ s.plf.warm = true ∨ pattern s = none ∨ s.arms = none)) ∧
    (∃ (s : State) (b : Pattern) (g : Programme) (it : Iterate) (y : Iterate) (r : StepResult), fine s = true ∧ ((1 : Nat)) = (if s.plf.pos = 2047 then s.plf.step + 1 else s.plf.step) ∧ pattern s = some b ∧ s.plf.prog = some g ∧ s.plf.iterates.getLast? = some it ∧ s.plf.busy = true ∧ s.plf.fail = false ∧ ((1 : Nat)) ≤ ipSteps s ∧ solverStep b s.plf.tol s.plf.floor (iterCap s) true g it = (y, r)) ∧
    (∃ (s : State), fine s = true ∧ ((3 : Nat)) = (if s.plf.pos = 2047 then s.plf.step + 1 else s.plf.step) ∧ (s.plf.busy = false ∨ s.plf.fail = true ∨ ipSteps s < ((3 : Nat)) ∨ pattern s = none ∨ s.plf.prog = none ∨ s.plf.iterates = [])) ∧
    (∃ (s : State) (l : Lane), fine s = true ∧ s.plf.busy = true ∧ laneIn s l = true) ∧
    (∃ (s : State) (l : Lane), fine s = true ∧ (s.plf.busy = false ∨ laneIn s l = false)) ∧
    (∃ (s : State) (a : Arm), fine s = true ∧ kHold s ≤ (s.play[a]).rejects ∧ (s.play[a]).stopping = false ∧ (s.saf.arm[a]).st = 0) ∧
    (∃ (s : State) (a : Arm), fine s = true ∧ ((s.play[a]).rejects < kHold s ∨ (s.play[a]).stopping = true ∨ (s.saf.arm[a]).st ≠ 0)) ∧
    (∃ (s : State) (a : Arm), fine s = true ∧ (s.play[a]).stopping = true ∧ (hasTail s a = false ∨ alphaQ31 (alphaAt (s.play[a]) 0).1 = 0)) ∧
    (∃ (s : State) (a : Arm) (q : Profile), fine s = true ∧ (s.play[a]).ended = true ∧ (s.play[a]).profile = some q ∧ q.rising = false ∧ 0 < alphaQ31 (alphaAt (s.play[a]) 0).1 ∧ (s.ring[a]).coupled = none) :=
  ⟨⟨wIdle, by decide +kernel⟩,
    ⟨wPlan, pat, { arms := [(1, model)], couplings := [], gravity := ⟨0, 0, 0⟩, selDist := 0, dPlan := 0, aS := 0, rho1 := 0, rho2 := 0, tolEq := 0, tolBnd := 0, tolSig := 0 }, by decide +kernel⟩,
    ⟨wIdle, by decide +kernel⟩,
    ⟨wPlan, pat, small, smallIt, (solverStep pat wPlan.plf.tol wPlan.plf.floor (iterCap wPlan) true small smallIt).1, (solverStep pat wPlan.plf.tol wPlan.plf.floor (iterCap wPlan) true small smallIt).2, by decide +kernel⟩,
    ⟨wPlan2, by decide +kernel⟩,
    ⟨wPlan, 2, by decide +kernel⟩,
    ⟨wIdle, 2, by decide +kernel⟩,
    ⟨wStopArm, 1, by decide +kernel⟩,
    ⟨wPlan, 1, by decide +kernel⟩,
    ⟨wStopEnd, 1, by decide +kernel⟩,
    ⟨wTail, 1, ⟨[⟨0x4024000000000000, 0x3FF0000000000000, 0, 0⟩], 0, false⟩, by decide +kernel⟩⟩

theorem witness_ServoDatapath :
    (∃ (s : State), fine s = true ∧ enabled s .sdp 0 = false) ∧
    (∃ (s : State), fine s = true ∧ enabled s .sdp 0 = true) ∧
    (∃ (s : State) (n : Fin 96), fine s = true ∧ fld s .sdp 0 Reg.SDP_PSEL 14 8 = n.val ∧ fld s .sdp 0 Reg.SDP_PSEL 5 0 = ((63 : Nat))) ∧
    (∃ (s : State) (v : Word) (n : Fin 96), fine s = true ∧ bit v 7 = false ∧ field v 6 0 = n.val ∧ ((s.sdp.joint[n]).shadow.map (·.1)).Nodup ∧ Sparse.wf (fun _ => (0 : Word)) (s.sdp.joint[n]).par = true) ∧
    (∃ (s : State) (v : Word), fine s = true ∧ bit v 7 = false ∧ 96 ≤ field v 6 0) ∧
    (∃ (s : State), fine s = true ∧ s.sdp.banks[other s.sdp.act] = none) ∧
    (∃ (s : State), fine s = true ∧ (s.sdp.banks[other s.sdp.act]).isSome = true ∧ s.sdp.pend.isSome = true) ∧
    (∃ (s : State), fine s = true ∧ (s.sdp.banks[other s.sdp.act]).isSome = true ∧ s.sdp.pend = none) ∧
    (∃ (s : State) (b : KernelBank), fine s = true ∧ switchDue s s.sdp.pend (planBus s) = true ∧ s.sdp.banks[other s.sdp.act] = some b) ∧
    (∃ (s : State), fine s = true ∧ switchDue s s.sdp.pend (planBus s) = false) :=
  ⟨⟨wSdp, by decide +kernel⟩,
    ⟨wPlan, by decide +kernel⟩,
    ⟨wPar, 95, by decide +kernel⟩,
    ⟨wPar, 0x5F, 95, by decide +kernel⟩,
    ⟨wPar, 0x60, by decide +kernel⟩,
    ⟨wPlan, by decide +kernel⟩,
    ⟨wKDue, by decide +kernel⟩,
    ⟨wKNext, by decide +kernel⟩,
    ⟨wKDue, { kbank with id := 6, kernels := [⟨8, false, [1, 2], 10, 3, 4, 5⟩] }, by decide +kernel⟩,
    ⟨wPlan, by decide +kernel⟩⟩

theorem witness_MacArithmetic :
    (∃ (s : State) (c : CoreNo) (k : MacCore) (l : MacCore), s.clk.on = true ∧ s.sdp.core[c] = k ∧ k.running = true ∧ landed s c = l) ∧
    (∃ (s : State) (c : CoreNo) (k : MacCore) (l : MacCore) (x : MulArgs), s.clk.on = true ∧ s.sdp.core[c] = k ∧ k.running = true ∧ landed s c = l ∧ ((∀ m ∈ ((slotMove k false x.xmove).toList ++ (slotMove k true x.ymove).toList : List Move), badOffset (vget k.m m.an 0) = false ∧ m.addr < memWords m.mem))) ∧
    (∃ (s : State) (c : CoreNo) (k : MacCore) (l : MacCore) (x : MulArgs), s.clk.on = true ∧ s.sdp.core[c] = k ∧ k.running = true ∧ landed s c = l ∧ ((∃ m ∈ ((slotMove k false x.xmove).toList ++ (slotMove k true x.ymove).toList : List Move), badOffset (vget k.m m.an 0) = true))) ∧
    (∃ (s : State) (c : CoreNo) (k : MacCore) (l : MacCore) (x : MulArgs), s.clk.on = true ∧ s.sdp.core[c] = k ∧ k.running = true ∧ landed s c = l ∧ ((∀ m ∈ ((slotMove k false x.xmove).toList ++ (slotMove k true x.ymove).toList : List Move), badOffset (vget k.m m.an 0) = false)) ∧ ((∃ m ∈ ((slotMove k false x.xmove).toList ++ (slotMove k true x.ymove).toList : List Move), memWords m.mem ≤ m.addr))) ∧
    (∃ (s : State) (c : CoreNo) (k : MacCore) (l : MacCore), s.clk.on = true ∧ s.sdp.core[c] = k ∧ k.running = true ∧ landed s c = l) ∧
    (∃ (s : State) (c : CoreNo) (k : MacCore) (l : MacCore) (x : AccArgs), s.clk.on = true ∧ s.sdp.core[c] = k ∧ k.running = true ∧ landed s c = l ∧ x.sh.toNat ≤ 63) ∧
    (∃ (s : State) (c : CoreNo) (k : MacCore) (l : MacCore) (x : AccArgs), s.clk.on = true ∧ s.sdp.core[c] = k ∧ k.running = true ∧ landed s c = l ∧ 63 < x.sh.toNat) ∧
    (∃ (s : State) (c : CoreNo) (k : MacCore) (l : MacCore), s.clk.on = true ∧ s.sdp.core[c] = k ∧ k.running = true ∧ landed s c = l) :=
  ⟨⟨macOf (mk), 2, mk, landed (macOf (mk)) 2, by decide +kernel⟩,
    ⟨macOf (mk), 2, mk, landed (macOf (mk)) 2, ⟨0, 1, 2, 0, 0⟩, by decide +kernel⟩,
    ⟨macOf (mk), 2, mk, landed (macOf (mk)) 2, ⟨3, 3, 3, 0x60, 0x40⟩, by decide +kernel⟩,
    ⟨macOf ({ mk with a := Vector.replicate 8 0xFFFF, m := Vector.replicate 8 0 }), 2, { mk with a := Vector.replicate 8 0xFFFF, m := Vector.replicate 8 0 }, landed (macOf ({ mk with a := Vector.replicate 8 0xFFFF, m := Vector.replicate 8 0 })) 2, ⟨3, 3, 3, 0x60, 0x40⟩, by decide +kernel⟩,
    ⟨macOf (mk), 2, mk, landed (macOf (mk)) 2, by decide +kernel⟩,
    ⟨macOf (mk), 2, mk, landed (macOf (mk)) 2, ⟨0, 1, 2, true, 0⟩, by decide +kernel⟩,
    ⟨macOf (mk), 2, mk, landed (macOf (mk)) 2, ⟨3, 3, 1, true, 127⟩, by decide +kernel⟩,
    ⟨macOf (mk), 2, mk, landed (macOf (mk)) 2, by decide +kernel⟩⟩

theorem witness_MacControl :
    (∃ (s : State) (c : CoreNo) (k : MacCore) (l : MacCore), fine s = true ∧ s.sdp.core[c] = k ∧ k.running = true ∧ landed s c = l) ∧
    (∃ (s : State) (c : CoreNo) (k : MacCore) (l : MacCore), fine s = true ∧ s.sdp.core[c] = k ∧ k.running = true ∧ landed s c = l) ∧
    (∃ (s : State) (c : CoreNo) (k : MacCore) (l : MacCore), fine s = true ∧ s.sdp.core[c] = k ∧ k.running = true ∧ landed s c = l ∧ k.loops = []) ∧
    (∃ (s : State) (c : CoreNo) (k : MacCore) (l : MacCore) (h : HwLoop) (r : List HwLoop), fine s = true ∧ s.sdp.core[c] = k ∧ k.running = true ∧ landed s c = l ∧ k.loops = h :: r ∧ k.pc ≠ h.stop) ∧
    (∃ (s : State) (c : CoreNo) (k : MacCore) (l : MacCore) (h : HwLoop) (r : List HwLoop), fine s = true ∧ s.sdp.core[c] = k ∧ k.running = true ∧ landed s c = l ∧ k.loops = h :: r ∧ k.pc = h.stop ∧ 1 < k.lc.toNat) ∧
    (∃ (s : State) (c : CoreNo) (k : MacCore) (l : MacCore) (h : HwLoop) (r : List HwLoop), fine s = true ∧ s.sdp.core[c] = k ∧ k.running = true ∧ landed s c = l ∧ k.loops = h :: r ∧ k.pc = h.stop ∧ k.lc.toNat ≤ 1 ∧ r = []) ∧
    (∃ (s : State) (c : CoreNo) (k : MacCore) (l : MacCore), fine s = true ∧ s.sdp.core[c] = k ∧ k.running = true ∧ landed s c = l ∧ k.loops = []) ∧
    (∃ (s : State) (c : CoreNo) (k : MacCore) (l : MacCore), fine s = true ∧ s.sdp.core[c] = k ∧ k.running = true ∧ landed s c = l ∧ k.loops ≠ []) ∧
    (∃ (s : State) (c : CoreNo) (k : MacCore) (l : MacCore), fine s = true ∧ s.sdp.core[c] = k ∧ k.running = true ∧ landed s c = l) ∧
    (∃ (s : State) (c : CoreNo) (k : MacCore) (l : MacCore) (x : LoopArgs), fine s = true ∧ s.sdp.core[c] = k ∧ k.running = true ∧ landed s c = l ∧ ((if x.cr then field (getD k (field x.count 3 0)) 16 0 else x.count.toNat) : Nat) = 0 ∧ ((∀ h ∈ k.loops.head?, k.pc + ((if x.len = 0 then 64 else x.len.toNat) : Nat) ≤ h.stop))) ∧
    (∃ (s : State) (c : CoreNo) (k : MacCore) (l : MacCore) (x : LoopArgs), fine s = true ∧ s.sdp.core[c] = k ∧ k.running = true ∧ landed s c = l ∧ ((if x.cr then field (getD k (field x.count 3 0)) 16 0 else x.count.toNat) : Nat) = 0 ∧ ((∀ h ∈ k.loops.head?, k.pc + ((if x.len = 0 then 64 else x.len.toNat) : Nat) ≠ h.stop))) ∧
    (∃ (s : State) (c : CoreNo) (k : MacCore) (l : MacCore) (x : LoopArgs), fine s = true ∧ s.sdp.core[c] = k ∧ k.running = true ∧ landed s c = l ∧ ((⟨8, 20, 4, false⟩ : HwLoop)).stop < k.pc + ((if x.len = 0 then 64 else x.len.toNat) : Nat)) ∧
    (∃ (s : State) (c : CoreNo) (k : MacCore) (l : MacCore) (x : LoopArgs), fine s = true ∧ s.sdp.core[c] = k ∧ k.running = true ∧ landed s c = l ∧ ((if x.cr then field (getD k (field x.count 3 0)) 16 0 else x.count.toNat) : Nat) ≠ 0 ∧ k.loops = []) ∧
    (∃ (s : State) (c : CoreNo) (k : MacCore) (l : MacCore) (x : LoopArgs) (h : HwLoop), fine s = true ∧ s.sdp.core[c] = k ∧ k.running = true ∧ landed s c = l ∧ ((if x.cr then field (getD k (field x.count 3 0)) 16 0 else x.count.toNat) : Nat) ≠ 0 ∧ k.loops = [h] ∧ k.pc + ((if x.len = 0 then 64 else x.len.toNat) : Nat) ≤ h.stop) ∧
    (∃ (s : State) (c : CoreNo) (k : MacCore) (l : MacCore) (x : LoopArgs), fine s = true ∧ s.sdp.core[c] = k ∧ k.running = true ∧ landed s c = l ∧ ((if x.cr then field (getD k (field x.count 3 0)) 16 0 else x.count.toNat) : Nat) ≠ 0 ∧ 2 ≤ k.loops.length) ∧
    (∃ (s : State) (c : CoreNo) (k : MacCore) (l : MacCore) (x : LsArgs), fine s = true ∧ s.sdp.core[c] = k ∧ k.running = true ∧ landed s c = l ∧ lsFault k x = 0) ∧
    (∃ (s : State) (c : CoreNo) (k : MacCore) (l : MacCore) (x : LsArgs), fine s = true ∧ s.sdp.core[c] = k ∧ k.running = true ∧ landed s c = l ∧ lsFault k x ≠ 0) ∧
    (∃ (s : State) (c : CoreNo) (k : MacCore) (l : MacCore) (x : LdiArgs), fine s = true ∧ s.sdp.core[c] = k ∧ k.running = true ∧ landed s c = l ∧ x.half ≠ 3 ∧ classOk x.cls.toNat x.reg = true) ∧
    (∃ (s : State) (c : CoreNo) (k : MacCore) (l : MacCore) (x : LdiArgs), fine s = true ∧ s.sdp.core[c] = k ∧ k.running = true ∧ landed s c = l ∧ (x.half = 3 ∨ classOk x.cls.toNat x.reg = false)) ∧
    (∃ (s : State) (c : CoreNo) (k : MacCore) (l : MacCore), fine s = true ∧ s.sdp.core[c] = k ∧ k.running = true ∧ landed s c = l) ∧
    (∃ (s : State) (c : CoreNo) (k : MacCore) (l : MacCore) (q : BitVec 4), fine s = true ∧ s.sdp.core[c] = k ∧ k.running = true ∧ landed s c = l ∧ (q.toNat ∈ [3, 4, 5] ∨ 7 ≤ q.toNat)) ∧
    (∃ (s : State) (c : CoreNo) (k : MacCore) (l : MacCore) (q : BitVec 4), fine s = true ∧ s.sdp.core[c] = k ∧ k.running = true ∧ landed s c = l ∧ 7 ≤ q.toNat) ∧
    (∃ (s : State) (c : CoreNo) (k : MacCore) (l : MacCore), fine s = true ∧ s.sdp.core[c] = k ∧ k.running = true ∧ landed s c = l) ∧
    (∃ (s : State) (c : CoreNo) (k : MacCore) (l : MacCore) (w : Word), fine s = true ∧ s.sdp.core[c] = k ∧ k.running = true ∧ landed s c = l ∧ decodeMac w = none) :=
  ⟨⟨macOf (mk), 2, mk, landed (macOf (mk)) 2, by decide +kernel⟩,
    ⟨macOf (mk), 2, mk, landed (macOf (mk)) 2, by decide +kernel⟩,
    ⟨macOf (mk), 2, mk, landed (macOf (mk)) 2, by decide +kernel⟩,
    ⟨macOf (in1o mk), 2, in1o mk, landed (macOf (in1o mk)) 2, ⟨8, 20, 4, false⟩, [], by decide +kernel⟩,
    ⟨macOf (in1 mk), 2, in1 mk, landed (macOf (in1 mk)) 2, ⟨8, 10, 4, false⟩, [], by decide +kernel⟩,
    ⟨macOf (in1 mk0), 2, in1 mk0, landed (macOf (in1 mk0)) 2, ⟨8, 10, 4, false⟩, [], by decide +kernel⟩,
    ⟨macOf (mk), 2, mk, landed (macOf (mk)) 2, by decide +kernel⟩,
    ⟨macOf (in1 mk), 2, in1 mk, landed (macOf (in1 mk)) 2, by decide +kernel⟩,
    ⟨macOf (mk), 2, mk, landed (macOf (mk)) 2, by decide +kernel⟩,
    ⟨macOf (mk), 2, mk, landed (macOf (mk)) 2, ⟨0, false, 0⟩, by decide +kernel⟩,
    ⟨macOf (mk), 2, mk, landed (macOf (mk)) 2, ⟨0, false, 0⟩, by decide +kernel⟩,
    ⟨macOf (in1o mk), 2, in1o mk, landed (macOf (in1o mk)) 2, ⟨11, false, 1⟩, by decide +kernel⟩,
    ⟨macOf (mk), 2, mk, landed (macOf (mk)) 2, ⟨0, false, 1⟩, by decide +kernel⟩,
    ⟨macOf (in1o mk), 2, in1o mk, landed (macOf (in1o mk)) 2, ⟨10, false, 1⟩, (⟨8, 20, 4, false⟩ : HwLoop), by decide +kernel⟩,
    ⟨macOf (in3 mk), 2, in3 mk, landed (macOf (in3 mk)) 2, ⟨1, false, 9⟩, by decide +kernel⟩,
    ⟨macOf (mk), 2, mk, landed (macOf (mk)) 2, ⟨0, 0, 0, 9, 0, false⟩, by decide +kernel⟩,
    ⟨macOf (mk), 2, mk, landed (macOf (mk)) 2, ⟨3, 0, 0, 9, 0, false⟩, by decide +kernel⟩,
    ⟨macOf (mk), 2, mk, landed (macOf (mk)) 2, ⟨0, 9, 0, 0x8001⟩, by decide +kernel⟩,
    ⟨macOf (mk), 2, mk, landed (macOf (mk)) 2, ⟨3, 9, 0, 0x8001⟩, by decide +kernel⟩,
    ⟨macOf (mk), 2, mk, landed (macOf (mk)) 2, by decide +kernel⟩,
    ⟨macOf (mk), 2, mk, landed (macOf (mk)) 2, 3, by decide +kernel⟩,
    ⟨macOf (mk), 2, mk, landed (macOf (mk)) 2, 7, by decide +kernel⟩,
    ⟨macOf (mk), 2, mk, landed (macOf (mk)) 2, by decide +kernel⟩,
    ⟨macOf (mk), 2, mk, landed (macOf (mk)) 2, 0xFFFFFFFF, by decide +kernel⟩⟩

theorem witness_MantisCommands :
    (∃ (s : State), fine s = true ∧ mantisBank s = none) ∧
    (∃ (s : State), fine s = true ∧ (mantisBank s).isSome = true) ∧
    (∃ (s : State) (i : Sixteen) (d : GuardDef), fine s = true ∧ guardDef s i.val = some d ∧ (s.mnt.src[i]).lost = false ∧ ((∀ b ∈ (s.mnt.src[i]).rx, guardAccepted d s.mnt.src[i] b = false)) ∧ d.wd ≤ (s.mnt.src[i]).held + 1) ∧
    (∃ (s : State) (i : Sixteen) (d : GuardDef), fine s = true ∧ guardDef s i.val = some d ∧ (s.mnt.src[i]).lost = true) ∧
    (∃ (s : State) (b : MantisBank), fine s = true ∧ s.plf.pend = none ∧ switchDue s s.mnt.pend (planBus s) = true ∧ s.mnt.banks[other s.mnt.act] = some b) ∧
    (∃ (s : State), fine s = true ∧ s.plf.pend = none ∧ switchDue s s.mnt.pend (planBus s) = false) ∧
    (∃ (s : State), fine s = true ∧ s.mnt.banks[other s.mnt.act] = none) ∧
    (∃ (s : State), fine s = true ∧ (s.mnt.banks[other s.mnt.act]).isSome = true ∧ s.mnt.pend.isSome = true) ∧
    (∃ (s : State), fine s = true ∧ (s.mnt.banks[other s.mnt.act]).isSome = true ∧ s.mnt.pend = none ∧ s.sec.saf = false) ∧
    (∃ (s : State), fine s = true ∧ (s.mnt.banks[other s.mnt.act]).isSome = true ∧ s.mnt.pend = none ∧ s.sec.saf = true ∧ logFull s = true) ∧
    (∃ (s : State), fine s = true ∧ (s.mnt.banks[other s.mnt.act]).isSome = true ∧ s.mnt.pend = none ∧ s.sec.saf = true ∧ logFull s = false) ∧
    (∃ (s : State), fine s = true ∧ assisted s .mnt 0 = true) ∧
    (∃ (s : State), fine s = true ∧ assisted s .mnt 0 = true) ∧
    (∃ (s : State), fine s = true ∧ assisted s .mnt 0 = false) ∧
    (∃ (s : State), fine s = true ∧ s.mnt.htOn = true ∧ fld s .mnt 0 Reg.MNT_HT_CFG 15 0 ≤ s.mnt.htAge) :=
  ⟨⟨wRun, by decide +kernel⟩,
    ⟨wMnt, by decide +kernel⟩,
    ⟨wMnt, 3, ⟨2, 0, 9, 0, 0, 4, 10, 0, 0, 0⟩, by decide +kernel⟩,
    ⟨wMnt0, 3, ⟨2, 0, 9, 0, 0, 4, 10, 0, 0, 0⟩, by decide +kernel⟩,
    ⟨wMntDue, { mbank with id := 22 }, by decide +kernel⟩,
    ⟨wMnt, by decide +kernel⟩,
    ⟨wMnt0, by decide +kernel⟩,
    ⟨wMntDue, by decide +kernel⟩,
    ⟨wMntN, by decide +kernel⟩,
    ⟨{ wMnt with sec := { wMnt.sec with seq := 5000, ack := 1 } }, by decide +kernel⟩,
    ⟨wMnt, by decide +kernel⟩,
    ⟨wMnt, by decide +kernel⟩,
    ⟨wMnt, by decide +kernel⟩,
    ⟨wRun, by decide +kernel⟩,
    ⟨wMnt, by decide +kernel⟩⟩

theorem witness_TaskDispatcher :
    (∃ (s : State) (n : BitVec 10) (inst : BitVec 16) (idx : BitVec 3) (tag : BitVec 48) (p : Template), fine s = true ∧ templateOf s n.toNat = some p ∧ idx.toNat < p.nops ∧ lifeOver s p tag = false ∧ entryOf s (⟨tag, n.toNat, inst.toNat⟩ : TaskKey) = none ∧ 1 < p.nops ∧ s.tds.matching.length < matchCap) ∧
    (∃ (s : State) (n : BitVec 10) (inst : BitVec 16) (idx : BitVec 3) (tag : BitVec 48) (p : Template), fine s = true ∧ templateOf s n.toNat = some p ∧ idx.toNat < p.nops ∧ lifeOver s p tag = false ∧ entryOf s (⟨tag, n.toNat, inst.toNat⟩ : TaskKey) = none ∧ 1 < p.nops ∧ matchCap ≤ s.tds.matching.length ∧ combLoad s.tds < combCap) ∧
    (∃ (s : State) (n : BitVec 10) (inst : BitVec 16) (idx : BitVec 3) (tag : BitVec 48) (p : Template), fine s = true ∧ templateOf s n.toNat = some p ∧ idx.toNat < p.nops ∧ lifeOver s p tag = false ∧ entryOf s (⟨tag, n.toNat, inst.toNat⟩ : TaskKey) = none ∧ p.nops = 1 ∧ s.tds.ready.length < readyCap) ∧
    (∃ (s : State) (n : BitVec 10) (inst : BitVec 16) (idx : BitVec 3) (tag : BitVec 48) (p : Template) (e : MatchEntry), fine s = true ∧ templateOf s n.toNat = some p ∧ idx.toNat < p.nops ∧ lifeOver s p tag = false ∧ entryOf s (⟨tag, n.toNat, inst.toNat⟩ : TaskKey) = some e ∧ ((∀ o ∈ e.ops, o.1 ≠ idx.toNat)) ∧ e.ops.length + 1 = p.nops ∧ s.tds.ready.length < readyCap) ∧
    (∃ (s : State) (n : BitVec 10) (inst : BitVec 16) (idx : BitVec 3) (tag : BitVec 48) (p : Template) (e : MatchEntry) (o : Nat × BitVec 64), fine s = true ∧ templateOf s n.toNat = some p ∧ idx.toNat < p.nops ∧ lifeOver s p tag = false ∧ entryOf s (⟨tag, n.toNat, inst.toNat⟩ : TaskKey) = some e ∧ o ∈ e.ops ∧ o.1 = idx.toNat) ∧
    (∃ (s : State) (n : BitVec 10) (inst : BitVec 16) (tag : BitVec 48) (p : Template) (e : MatchEntry), fine s = true ∧ templateOf s n.toNat = some p ∧ entryOf s ⟨tag, n.toNat, inst.toNat⟩ = some e ∧ lifeOver s p tag = true) ∧
    (∃ (s : State) (cls : BitVec 3) (unit : BitVec 4) (r : ReadyTask), fine s = true ∧ unit.toNat < executors cls.toNat ∧ ((∀ x ∈ s.tds.running, ¬ (x.1 = cls.toNat ∧ x.2.1 = unit.toNat))) ∧ pickTask s cls.toNat unit.toNat = some r) ∧
    (∃ (s : State) (cls : BitVec 3) (unit : BitVec 4) (r : ReadyTask), fine s = true ∧ unit.toNat < executors cls.toNat ∧ ((∀ x ∈ s.tds.running, ¬ (x.1 = cls.toNat ∧ x.2.1 = unit.toNat))) ∧ pickTask s cls.toNat unit.toNat = some r ∧ ((⟨⟨64, 22, 2⟩, 2, 7, 6⟩ : ReadyTask)).cls = cls.toNat ∧ unitOk s unit.toNat ((⟨⟨64, 22, 2⟩, 2, 7, 6⟩ : ReadyTask)) = true) ∧
    (∃ (s : State) (cls : BitVec 3) (unit : BitVec 4) (k : TaskKey) (p : Template) (f : Nat) (l : List (Nat × Nat × TaskKey)) (r : List (Nat × Nat × TaskKey)), fine s = true ∧ s.tds.running = l ++ (cls.toNat, unit.toNat, k) :: r ∧ ((∀ x ∈ l, ¬ (x.1 = cls.toNat ∧ x.2.1 = unit.toNat))) ∧ templateOf s k.tmpl = some p ∧ p.flow = some f ∧ ((∀ x ∈ s.tds.released, ¬ (x.1 = f ∧ x.2.1 = k)))) ∧
    (∃ (s : State) (cls : BitVec 3) (unit : BitVec 4) (k : TaskKey) (p : Template) (f : Nat) (l : List (Nat × Nat × TaskKey)) (r : List (Nat × Nat × TaskKey)), fine s = true ∧ s.tds.running = l ++ (cls.toNat, unit.toNat, k) :: r ∧ ((∀ x ∈ l, ¬ (x.1 = cls.toNat ∧ x.2.1 = unit.toNat))) ∧ templateOf s k.tmpl = some p ∧ p.flow = some f ∧ (((5, ⟨64, 20, 7⟩, true) : Nat × TaskKey × Bool)).1 = f ∧ (((5, ⟨64, 20, 7⟩, true) : Nat × TaskKey × Bool)).2.1 = k) ∧
    (∃ (s : State) (f : Fin 64) (row : FlowRow), fine s = true ∧ flowRow s f.val = some row ∧ s.boot.admitted = true ∧ s.tds.choked = false ∧ laneCount s ≠ 0 ∧ Sparse.wf (fun _ => (0 : Word)) s.lanePriv = true) ∧
    (∃ (s : State) (f : Fin 64) (row : FlowRow), fine s = true ∧ f = 5 ∧ flowRow s 5 = some row ∧ s.boot.admitted = true ∧ s.tds.choked = false ∧ laneCount s ≠ 0 ∧ memWf s.mem = true) ∧
    (∃ (s : State) (l : List DelayEntry) (r : List DelayEntry), fine s = true ∧ s.tds.combTime = [] ∧ s.tds.combPhase = [] ∧ s.tds.timeList = l ++ r ∧ l.length ≤ 64 ∧ ((∀ e ∈ l, e.key ≤ (nsOf s : Int) ∧ (match e.act with | .output _ _ => true | _ => false) = true)) ∧ ((∀ e ∈ r.head?, (nsOf s : Int) < e.key))) ∧
    (∃ (s : State) (l : List DelayEntry) (r : List DelayEntry), fine s = true ∧ s.tds.combTime = [] ∧ s.tds.combPhase = [] ∧ s.tds.phaseList = l ++ r ∧ l.length ≤ 64 ∧ s.line.rev = false ∧ s.line.valid = true ∧ lineEn s = true ∧ ((∀ e ∈ l, e.key ≤ linePhase s ∧ (match e.act with | .output _ _ => true | _ => false) = true)) ∧ ((∀ e ∈ r.head?, linePhase s < e.key))) ∧
    (∃ (s : State), fine s = true ∧ (s.line.rev = true ∨ s.line.valid = false ∨ lineEn s = false)) :=
  ⟨⟨wTds, 20, 77, 1, 64, ⟨20, 2, 2, 3, some 5, 1, 4, none, 0, 0, 0, 0⟩, by decide +kernel⟩,
    ⟨wTdsFull, 20, 77, 1, 64, ⟨20, 2, 2, 3, some 5, 1, 4, none, 0, 0, 0, 0⟩, by decide +kernel⟩,
    ⟨wTds, 21, 77, 0, 64, ⟨21, 1, 1, 0, none, 0, 1, none, 0, 0, 0, 0⟩, by decide +kernel⟩,
    ⟨wTds, 20, 3, 1, 64, ⟨20, 2, 2, 3, some 5, 1, 4, none, 0, 0, 0, 0⟩, ⟨⟨64, 20, 3⟩, [(0, 7)]⟩, by decide +kernel⟩,
    ⟨wTds, 20, 3, 0, 64, ⟨20, 2, 2, 3, some 5, 1, 4, none, 0, 0, 0, 0⟩, ⟨⟨64, 20, 3⟩, [(0, 7)]⟩, (0, 7), by decide +kernel⟩,
    ⟨wTds, 20, 3, 60, ⟨20, 2, 2, 3, some 5, 1, 4, none, 0, 0, 0, 0⟩, ⟨⟨60, 20, 3⟩, [(0, 7)]⟩, by decide +kernel⟩,
    ⟨wTds, 2, 0, ⟨⟨64, 22, 1⟩, 2, 7, 4⟩, by decide +kernel⟩,
    ⟨wTds, 2, 0, ⟨⟨64, 22, 1⟩, 2, 7, 4⟩, by decide +kernel⟩,
    ⟨wTds, 2, 1, ⟨64, 20, 8⟩, ⟨20, 2, 2, 3, some 5, 1, 4, none, 0, 0, 0, 0⟩, 5, [(1, 2, ⟨64, 20, 9⟩)], [(2, 2, ⟨64, 20, 7⟩)], by decide +kernel⟩,
    ⟨wTds, 2, 2, ⟨64, 20, 7⟩, ⟨20, 2, 2, 3, some 5, 1, 4, none, 0, 0, 0, 0⟩, 5, [(1, 2, ⟨64, 20, 9⟩), (2, 1, ⟨64, 20, 8⟩)], [], by decide +kernel⟩,
    ⟨wTds, 5, ⟨5, 0, 100⟩, by decide +kernel⟩,
    ⟨wTds, 5, ⟨5, 0, 100⟩, by decide +kernel⟩,
    ⟨wTds, [⟨5, 1, 20, .output 1 ⟨3, 77, 1, 0, 0, 0, []⟩, false⟩], [⟨2 ^ 70, 1, 20, .operand 0 0 0, false⟩], by decide +kernel⟩,
    ⟨wTds, [⟨-3, 1, 20, .output 1 ⟨3, 77, 1, 0, 0, 0, []⟩, false⟩], [⟨2 ^ 70, 1, 20, .operand 0 0 0, false⟩], by decide +kernel⟩,
    ⟨wTdsRev, by decide +kernel⟩⟩

theorem witness_SafetyInputsOutputs :
    (∃ (s : State) (i : Sixteen), fine s = true ∧ (s.saf.chanA[s.clk.refHub]).getLsbD i.val ≠ (s.saf.chanB[s.clk.refHub]).getLsbD i.val ∧ s.saf.inFault.getLsbD i.val = false ∧ (s.saf.discAt[i]) + field (siCfg s i.val) 15 7 * 10 ^ 6 < nsOf s) ∧
    (∃ (s : State) (i : Sixteen), fine s = true ∧ ((s.saf.chanA[s.clk.refHub]).getLsbD i.val = (s.saf.chanB[s.clk.refHub]).getLsbD i.val ∨ s.saf.inFault.getLsbD i.val = true ∨ nsOf s ≤ (s.saf.discAt[i]) + field (siCfg s i.val) 15 7 * 10 ^ 6)) ∧
    (∃ (s : State) (o : Fin 28), fine s = true ∧ 12 ≤ o.val ∧ o.val < 16) ∧
    (∃ (s : State) (o : Fin 28) (a : Arm), fine s = true ∧ (o.val = a.val ∨ o.val = 16 + a.val) ∧ (s.ring[a]).coupled = none ∧ (s.saf.arm[a]).st < 3) ∧
    (∃ (s : State) (o : Sixteen) (c : Fin 2), fine s = true ∧ channelOn s o.val c = true ∧ s.saf.test = none ∧ testSlotNow s o.val c.val = true ∧ (s.saf.testAt[o])[c] + 10 ^ 9 ≤ nsOf s) ∧
    (∃ (s : State) (o : Sixteen) (c : Fin 2), fine s = true ∧ channelOn s o.val c = true ∧ (s.saf.test.isSome = true ∨ testSlotNow s o.val c.val = false ∨ nsOf s < (s.saf.testAt[o])[c] + 10 ^ 9)) ∧
    (∃ (s : State) (o : Sixteen) (c : Fin 2), fine s = true ∧ channelOn s o.val c = true ∧ s.saf.test = some (o.val, c.val, false) ∧ (s.saf.testAt[o])[c] + fld s .sio 0 Reg.SIO_TP_CFG 9 0 * 1000 ≤ nsOf s) ∧
    (∃ (s : State) (o : Sixteen) (c : Fin 2) (x : Bool) (y : Bool), fine s = true ∧ channelOn s o.val c = true ∧ s.saf.test = some (o.val, c.val, false) ∧ (s.saf.testAt[o])[c] + fld s .sio 0 Reg.SIO_TP_CFG 9 0 * 1000 ≤ nsOf s ∧ (x && y) = false) ∧
    (∃ (s : State) (i : Fin 2), fine s = true ∧ s.saf.rstLvl[i] = false) ∧
    (∃ (s : State) (i : Fin 2), fine s = true ∧ s.saf.rstLvl[i] = true) ∧
    (∃ (s : State) (i : Fin 2), fine s = true ∧ s.saf.rstLvl[i] = true ∧ s.saf.rstStuck[i] = false ∧ s.saf.rstRise[i] + resetMax < nsOf s) ∧
    (∃ (s : State), fine s = true ∧ locked s .saf = false ∧ logFull s = false ∧ fld s .saf 0 Reg.SAF_GCFG 31 31 = 0) ∧
    (∃ (s : State) (v : Word), fine s = true ∧ locked s .saf = false ∧ logFull s = false ∧ fld s .saf 0 Reg.SAF_GCFG 31 31 = 1 ∧ bit v 0 = true ∧ s.saf.swRise = none) ∧
    (∃ (s : State) (x : Nat), fine s = true ∧ s.saf.swRise = some x ∧ s.saf.swStuck = false ∧ x + resetMax < nsOf s) ∧
    (∃ (s : State), fine s = true ∧ s.saf.svcOn = true ∧ svcLeft s ≤ 3600) ∧
    (∃ (s : State), fine s = true ∧ s.saf.svcOn = true ∧ s.saf.svcOver = false ∧ svcLeft s = 0) :=
  ⟨⟨wSio, 3, by decide +kernel⟩,
    ⟨wRun, 3, by decide +kernel⟩,
    ⟨wSio, 12, by decide +kernel⟩,
    ⟨wSio, 1, 1, by decide +kernel⟩,
    ⟨wSlot, 3, 1, by decide +kernel⟩,
    ⟨wTest, 3, 1, by decide +kernel⟩,
    ⟨wTest, 3, 1, by decide +kernel⟩,
    ⟨wTest, 3, 1, true, false, by decide +kernel⟩,
    ⟨wSio, 0, by decide +kernel⟩,
    ⟨wRst 0 true, 1, by decide +kernel⟩,
    ⟨wRst 1999999999 false, 1, by decide +kernel⟩,
    ⟨wSwOff, by decide +kernel⟩,
    ⟨wSio, 1, by decide +kernel⟩,
    ⟨wSw 1999999999, 1999999999, by decide +kernel⟩,
    ⟨wSvc 25200, by decide +kernel⟩,
    ⟨wSvc 28800, by decide +kernel⟩⟩

theorem witness_StopFunctions :
    (∃ (s : State), fine s = true ∧ (s.boot.admitted = false ∨ s.tds.choked = true)) ∧
    (∃ (s : State), fine s = true ∧ s.boot.admitted = true ∧ s.tds.choked = false) ∧
    (∃ (s : State) (a : Arm), fine s = true ∧ (s.saf.arm[a]).st = 1 ∧ stillCyc s ≤ (s.saf.arm[a]).still + b2n (stillNow s a)) ∧
    (∃ (s : State) (a : Arm), fine s = true ∧ ((s.saf.arm[a]).st ≠ 1 ∨ (s.saf.arm[a]).still + b2n (stillNow s a) < stillCyc s)) ∧
    (∃ (s : State) (a : Arm) (x : Nat), fine s = true ∧ (s.saf.arm[a]).sbcAt = some x ∧ (s.saf.arm[a]).st = 2 ∧ x ≤ nsOf s) ∧
    (∃ (s : State) (a : Arm) (x : Nat), fine s = true ∧ (s.saf.arm[a]).sbcAt = some x ∧ (s.saf.arm[a]).st = 2 ∧ nsOf s < x) ∧
    (∃ (s : State) (a : Arm), fine s = true ∧ (s.ring[a]).coupled = none ∧ (s.saf.arm[a]).st = 1 ∧ (s.saf.arm[a]).t0ns + field (acfg s a 0) 31 16 * 10 ^ 6 ≤ nsOf s) ∧
    (∃ (s : State) (a : Arm), fine s = true ∧ (s.ring[a]).coupled = none ∧ 0 < fbSs1 s ∧ fbSs1 s ≤ (s.sdp.fb[a]).lost ∧ (s.saf.arm[a]).st = 0) ∧
    (∃ (s : State) (a : Arm), fine s = true ∧ (s.ring[a]).coupled = none ∧ 0 < fbSto s ∧ fbSto s ≤ (s.sdp.fb[a]).lost ∧ (s.saf.arm[a]).st ≤ 2) ∧
    (∃ (s : State) (a : Arm), fine s = true ∧ (s.ring[a]).coupled = none ∧ (s.saf.arm[a]).st = 0 ∧ 2 ≤ (s.saf.arm[a]).slsRun) :=
  ⟨⟨noAdm wSio, by decide +kernel⟩,
    ⟨wSio, by decide +kernel⟩,
    ⟨wArmSt { st := 1, still := 5 }, 1, by decide +kernel⟩,
    ⟨wArmSt { st := 1, still := 2 }, 1, by decide +kernel⟩,
    ⟨wArmSt { st := 2, sbcAt := some 64000000 }, 1, 64000000, by decide +kernel⟩,
    ⟨wArmSt { st := 2, sbcAt := some 64000001 }, 1, 64000001, by decide +kernel⟩,
    ⟨wArmSt { st := 1, t0ns := 14000000 }, 1, by decide +kernel⟩,
    ⟨wFb 0 20, 1, by decide +kernel⟩,
    ⟨wFb 0 40, 1, by decide +kernel⟩,
    ⟨wArmSt { st := 0, slsRun := 2 }, 1, by decide +kernel⟩⟩

theorem witness_ImagesAndFirmware :
    (∃ (s : State) (v : Word), fine s = true ∧ bit v 31 = false) ∧
    (∃ (s : State) (v : Word), fine s = true ∧ bit v 31 = true ∧ s.img.stat = 1) ∧
    (∃ (s : State) (v : Word), fine s = true ∧ bit v 31 = true ∧ s.img.stat ≠ 1) ∧
    (∃ (s : State), fine s = true ∧ s.img.job = none) ∧
    (∃ (s : State) (j : LoadJob) (k : Nat) (c : Nat), fine s = true ∧ s.img.job = some j ∧ j.refusal = some (k, c, 0)) ∧
    (∃ (s : State) (j : LoadJob), fine s = true ∧ s.img.job = some j ∧ j.refusal = none) ∧
    (∃ (s : State) (c : Cart) (i : BitVec 8), fine s = true ∧ fenced s c = true ∧ i.toNat < 8 ∧ containerOk (containerAt s (firmwareAt i.toNat) firmwareRoom : List Byte) (if 3 ≤ c.val then 2 else 1) = true ∧ badSection (containerAt s (firmwareAt i.toNat) firmwareRoom : List Byte) = none) ∧
    (∃ (s : State) (c : Cart) (i : BitVec 8), fine s = true ∧ (fenced s c = false ∨ 8 ≤ i.toNat ∨ Config.firmwareSigned (containerAt s (firmwareAt i.toNat) firmwareRoom : List Byte) = false)) ∧
    (∃ (s : State) (c : Cart) (v : BitVec 16) (x : BitVec 16) (n : BitVec 16), fine s = true ∧ (s.carts[c]).molt = some (v, x, n)) ∧
    (∃ (s : State) (v : Word), fine s = true ∧ bit v 0 = true ∧ ((∀ c : Cart, decide (3 ≤ c.val) = bit v 1 → (s.carts[c]).st = .instep → (s.carts[c]).fwNext = (BitVec.ofNat 16 (field v 31 16) : BitVec 16) ∨ (s.carts[c]).fwClass = (BitVec.ofNat 16 (field v 31 16) : BitVec 16))) ∧ ((∀ c : Cart, decide (3 ≤ c.val) = bit v 1 → readmitting s.carts[c] = false)) ∧ s.img.switch = none) ∧
    (∃ (s : State) (v : Word) (c : Cart), fine s = true ∧ bit v 0 = true ∧ decide (3 ≤ c.val) = bit v 1 ∧ (s.carts[c]).st = .instep ∧ (s.carts[c]).fwNext ≠ (BitVec.ofNat 16 (field v 31 16) : BitVec 16) ∧ (s.carts[c]).fwClass ≠ (BitVec.ofNat 16 (field v 31 16) : BitVec 16)) ∧
    (∃ (s : State) (hubs : Bool) (cls : BitVec 16) (n : Nat), fine s = true ∧ s.img.switch = some (hubs, cls, n) ∧ planStarts s = true ∧ n ≤ s.clk.tag.toNat) ∧
    (∃ (s : State) (hubs : Bool) (cls : BitVec 16) (n : Nat), fine s = true ∧ s.img.switch = some (hubs, cls, n) ∧ (planStarts s = false ∨ s.clk.tag.toNat < n)) :=
  ⟨⟨wRun, 0x7FFFFFFF, by decide +kernel⟩,
    ⟨wImg ⟨0, [], none⟩, 0x80000000, by decide +kernel⟩,
    ⟨wRun, 0x80000000, by decide +kernel⟩,
    ⟨wRun, by decide +kernel⟩,
    ⟨wImg ⟨0, [], some (3, 1, 0)⟩, ⟨0, [], some (3, 1, 0)⟩, 3, 1, by decide +kernel⟩,
    ⟨wImg ⟨0, [], none⟩, ⟨0, [], none⟩, by decide +kernel⟩,
    ⟨wMolt, 2, 1, by decide +kernel⟩,
    ⟨wMolt, 1, 1, by decide +kernel⟩,
    ⟨cart 2 { st := .cocoon, molt := some (5, 6, 7) } wRun, 2, 5, 6, 7, by decide +kernel⟩,
    ⟨cls 5 9 wMnt, 0x00090001, by decide +kernel⟩,
    ⟨cls 5 8 wMnt, 0x00090001, 1, by decide +kernel⟩,
    ⟨wSwitch true 64, true, 7, 64, by decide +kernel⟩,
    ⟨wSwitch true 65, true, 7, 65, by decide +kernel⟩⟩

end Sys2Proof.Tests
end

/-! SUPPORT. Which commands keep the running bus cycle (R33). -/

namespace Sys2Proof.Machine

variable {s t : State} {c : Instr}

/-- The commands that begin a bus cycle, through which start-up places or leaves the cycle, or that switch the module on or off. -/
def movesCycle : Instr → Bool
  | .syncInstant _ _ | .powerGood | .staticSlot _ _ | .minislot _ | .symbolWindow _ | .frameReceived _ _ _ _ _
  | .listenTimerExpiry _ | .imageLoadComplete | .hubFunctionsReady | .shutdown => true
  | _ => false

/-- Every other command keeps the running bus cycle. -/
theorem exec_inCycle (hc : movesCycle c = false) (h : exec c s = .next t) : InCycle s t := by
  cases c with
  | syncInstant => exact nomatch hc
  | silent => exact execSilent_inCycle h
  | silentHubDetected => exact execSilentHubDetected_inCycle h
  | referenceTakeover => exact execReferenceTakeover_inCycle h
  | frameReceived => exact nomatch hc
  | inputBundle => exact execInputBundle_inCycle h
  | staticSlot => exact nomatch hc
  | minislot => exact nomatch hc
  | hostBufferCutOff => exact execHostBufferCutOff_inCycle h
  | symbolWindow => exact nomatch hc
  | stagingCutOff => exact execStagingCutOff_inCycle h
  | feedbackInstant => exact execFeedbackInstant_inCycle h
  | mantisPass => exact execMantisPass_inCycle h
  | guardSourceLost => exact execGuardSourceLost_inCycle h
  | servoPhaseA => exact execServoPhaseA_inCycle h
  | servoPhaseB => exact execServoPhaseB_inCycle h
  | kernelCycleLimit => exact execKernelCycleLimit_inCycle h
  | identificationUpdate => exact execIdentificationUpdate_inCycle h
  | planCycleStart => exact execPlanCycleStart_inCycle h
  | warmStart => exact execWarmStart_inCycle h
  | interiorPointStep => exact execInteriorPointStep_inCycle h
  | progressWord => exact execProgressWord_inCycle h
  | deadlineAgreement => exact execDeadlineAgreement_inCycle h
  | timeScaleStop => exact execTimeScaleStop_inCycle h
  | timeScaleStopEnd => exact execTimeScaleStopEnd_inCycle h
  | tailExhausted => exact execTailExhausted_inCycle h
  | patternBankSwitch => exact execPatternBankSwitch_inCycle h
  | kernelBankSwitch => exact execKernelBankSwitch_inCycle h
  | mantisBankSwitch => exact execMantisBankSwitch_inCycle h
  | epochSwitch => exact execEpochSwitch_inCycle h
  | consolidationDecision => exact execConsolidationDecision_inCycle h
  | consolidation => exact execConsolidation_inCycle h
  | consolidationExit => exact execConsolidationExit_inCycle h
  | bothLost => exact execBothLost_inCycle h
  | trainingComplete => exact execTrainingComplete_inCycle h
  | txFault => exact execTxFault_inCycle h
  | soldierBlock => exact execSoldierBlock_inCycle h
  | soldierCut => exact execSoldierCut_inCycle h
  | soldierOscillatorFailure => exact execSoldierOscillatorFailure_inCycle h
  | listenTimerExpiry => exact nomatch hc
  | normalOperation => exact execNormalOperation_inCycle h
  | configurationResponse => exact execConfigurationResponse_inCycle h
  | configurationTimeout => exact execConfigurationTimeout_inCycle h
  | tick => exact execTick_inCycle h
  | timeListFire => exact execTimeListFire_inCycle h
  | phaseListFire => exact execPhaseListFire_inCycle h
  | operand => exact execOperand_inCycle h
  | combRefill => exact execCombRefill_inCycle h
  | entryExpiry => exact execEntryExpiry_inCycle h
  | taskDispatch => exact execTaskDispatch_inCycle h
  | taskCompletion => exact execTaskCompletion_inCycle h
  | orderedFlowRelease => exact execOrderedFlowRelease_inCycle h
  | safetyVote => exact execSafetyVote_inCycle h
  | digestWindowClose => exact execDigestWindowClose_inCycle h
  | laneVote => exact execLaneVote_inCycle h
  | verdict => exact execVerdict_inCycle h
  | custodianReturn => exact execCustodianReturn_inCycle h
  | hubViewWrite => exact execHubViewWrite_inCycle h
  | cellViewWrite => exact execCellViewWrite_inCycle h
  | stalledWrite => exact execStalledWrite_inCycle h
  | privateWindowWrite => exact execPrivateWindowWrite_inCycle h
  | writeToReadOnly => exact execWriteToReadOnly_inCycle h
  | hubViewRead => exact execHubViewRead_inCycle h
  | cellViewRead => exact execCellViewRead_inCycle h
  | bar2Write => exact execBar2Write_inCycle h
  | bar2Read => exact execBar2Read_inCycle h
  | srst => exact execSrst_inCycle h
  | ctrlEn => exact execCtrlEn_inCycle h
  | modeSel => exact execModeSel_inCycle h
  | irqStatClear => exact execIrqStatClear_inCycle h
  | irqSet => exact execIrqSet_inCycle h
  | unlock => exact execUnlock_inCycle h
  | perst => exact execPerst_inCycle h
  | nowLoRead => exact execNowLoRead_inCycle h
  | lineLoRead => exact execLineLoRead_inCycle h
  | ptpMessage => exact execPtpMessage_inCycle h
  | ptpTransmit => exact execPtpTransmit_inCycle h
  | announceReceiptTimeout => exact execAnnounceReceiptTimeout_inCycle h
  | offsetSample => exact execOffsetSample_inCycle h
  | stepAck => exact execStepAck_inCycle h
  | haOfs => exact execHaOfs_inCycle h
  | haRate => exact execHaRate_inCycle h
  | tbHaWindowExpiry => exact execTbHaWindowExpiry_inCycle h
  | lineCfg => exact execLineCfg_inCycle h
  | lineLoad => exact execLineLoad_inCycle h
  | linkChange => exact execLinkChange_inCycle h
  | reneg => exact execReneg_inCycle h
  | managementConnection => exact execManagementConnection_inCycle h
  | retrain => exact execRetrain_inCycle h
  | retrainClear => exact execRetrainClear_inCycle h
  | wlsGo => exact execWlsGo_inCycle h
  | consEnter => exact execConsEnter_inCycle h
  | consExit => exact execConsExit_inCycle h
  | hbCfg => exact execHbCfg_inCycle h
  | hbDataWrite => exact execHbDataWrite_inCycle h
  | hbDataRead => exact execHbDataRead_inCycle h
  | rxDataRead => exact execRxDataRead_inCycle h
  | rxPop => exact execRxPop_inCycle h
  | moveJ => exact execMoveJ_inCycle h
  | moveL => exact execMoveL_inCycle h
  | moveC => exact execMoveC_inCycle h
  | via => exact execVia_inCycle h
  | waitTime => exact execWaitTime_inCycle h
  | waitPhase => exact execWaitPhase_inCycle h
  | waitInput => exact execWaitInput_inCycle h
  | setOutput => exact execSetOutput_inCycle h
  | trackLine => exact execTrackLine_inCycle h
  | releaseLine => exact execReleaseLine_inCycle h
  | speed => exact execSpeed_inCycle h
  | tool => exact execTool_inCycle h
  | rendezvous => exact execRendezvous_inCycle h
  | segment => exact execSegment_inCycle h
  | endRec => exact execEndRec_inCycle h
  | recordCompletion => exact execRecordCompletion_inCycle h
  | waitTimeEnd => exact execWaitTimeEnd_inCycle h
  | waitPhaseEnd => exact execWaitPhaseEnd_inCycle h
  | waitInputEnd => exact execWaitInputEnd_inCycle h
  | waitTimeout => exact execWaitTimeout_inCycle h
  | rendezvousCompletion => exact execRendezvousCompletion_inCycle h
  | wrIdx => exact execWrIdx_inCycle h
  | rptRd => exact execRptRd_inCycle h
  | flush => exact execFlush_inCycle h
  | resume => exact execResume_inCycle h
  | abort => exact execAbort_inCycle h
  | armSrst => exact execArmSrst_inCycle h
  | armSrstCompletion => exact execArmSrstCompletion_inCycle h
  | preset => exact execPreset_inCycle h
  | kinHaWindowExpiry => exact execKinHaWindowExpiry_inCycle h
  | plfGo => exact execPlfGo_inCycle h
  | tolHi => exact execTolHi_inCycle h
  | floorHi => exact execFloorHi_inCycle h
  | pdata => exact execPdata_inCycle h
  | pcommit => exact execPcommit_inCycle h
  | sdpGo => exact execSdpGo_inCycle h
  | haSeq v => exact execHaSeq_inCycle (x1 := v) h
  | nop => exact execNop_inCycle h
  | endKernel => exact execEndKernel_inCycle h
  | loop => exact execLoop_inCycle h
  | br => exact execBr_inCycle h
  | brt => exact execBrt_inCycle h
  | brf => exact execBrf_inCycle h
  | setrot => exact execSetrot_inCycle h
  | rot => exact execRot_inCycle h
  | macSS => exact execMacSS_inCycle h
  | macSU => exact execMacSU_inCycle h
  | macUU => exact execMacUU_inCycle h
  | msuSS => exact execMsuSS_inCycle h
  | mpySS => exact execMpySS_inCycle h
  | mpySU => exact execMpySU_inCycle h
  | mpyUU => exact execMpyUU_inCycle h
  | mov => exact execMov_inCycle h
  | add => exact execAdd_inCycle h
  | sub => exact execSub_inCycle h
  | adds => exact execAdds_inCycle h
  | subs => exact execSubs_inCycle h
  | and => exact execAnd_inCycle h
  | or => exact execOr_inCycle h
  | xor => exact execXor_inCycle h
  | shl => exact execShl_inCycle h
  | shra => exact execShra_inCycle h
  | shrl => exact execShrl_inCycle h
  | min => exact execMin_inCycle h
  | max => exact execMax_inCycle h
  | abs => exact execAbs_inCycle h
  | neg => exact execNeg_inCycle h
  | cmplt => exact execCmplt_inCycle h
  | cmpltu => exact execCmpltu_inCycle h
  | cmpeq => exact execCmpeq_inCycle h
  | sel => exact execSel_inCycle h
  | clr => exact execClr_inCycle h
  | lda => exact execLda_inCycle h
  | ldau => exact execLdau_inCycle h
  | aadd => exact execAadd_inCycle h
  | asub => exact execAsub_inCycle h
  | amov => exact execAmov_inCycle h
  | ash => exact execAsh_inCycle h
  | sta => exact execSta_inCycle h
  | ld => exact execLd_inCycle h
  | st => exact execSt_inCycle h
  | ldi => exact execLdi_inCycle h
  | cvtf => exact execCvtf_inCycle h
  | cvti => exact execCvti_inCycle h
  | movsFromSpecial => exact execMovsFromSpecial_inCycle h
  | movsToSpecial => exact execMovsToSpecial_inCycle h
  | mntGo => exact execMntGo_inCycle h
  | htData => exact execHtData_inCycle h
  | htCommit => exact execHtCommit_inCycle h
  | htLifeExpiry => exact execHtLifeExpiry_inCycle h
  | safetyInputFilter => exact execSafetyInputFilter_inCycle h
  | inputFault => exact execInputFault_inCycle h
  | standstill => exact execStandstill_inCycle h
  | sbcDelayExpiry => exact execSbcDelayExpiry_inCycle h
  | ss1TimeLimit => exact execSs1TimeLimit_inCycle h
  | feedbackLostSs1 => exact execFeedbackLostSs1_inCycle h
  | feedbackLostSto => exact execFeedbackLostSto_inCycle h
  | slsViolation => exact execSlsViolation_inCycle h
  | outputFault => exact execOutputFault_inCycle h
  | testPulse => exact execTestPulse_inCycle h
  | testPulseResult => exact execTestPulseResult_inCycle h
  | resetPulse => exact execResetPulse_inCycle h
  | stuckReset => exact execStuckReset_inCycle h
  | swrst => exact execSwrst_inCycle h
  | swrstStuck => exact execSwrstStuck_inCycle h
  | svcwarn => exact execSvcwarn_inCycle h
  | serviceWindowExpiry => exact execServiceWindowExpiry_inCycle h
  | openSession => exact execOpenSession_inCycle h
  | changePassword => exact execChangePassword_inCycle h
  | endSession => exact execEndSession_inCycle h
  | pwlockExpiry => exact execPwlockExpiry_inCycle h
  | sessionTimeout => exact execSessionTimeout_inCycle h
  | sessKeyRead => exact execSessKeyRead_inCycle h
  | logAck => exact execLogAck_inCycle h
  | logDataRead => exact execLogDataRead_inCycle h
  | fence => exact execFence_inCycle h
  | readmit => exact execReadmit_inCycle h
  | molt => exact execMolt_inCycle h
  | moltComplete => exact execMoltComplete_inCycle h
  | poweroff => exact execPoweroff_inCycle h
  | custodianReadmit => exact execCustodianReadmit_inCycle h
  | fwGo => exact execFwGo_inCycle h
  | stepClassSwitch => exact execStepClassSwitch_inCycle h
  | imageLoad => exact execImageLoad_inCycle h
  | imageLoadComplete => exact nomatch hc
  | cartridgeInserted => exact execCartridgeInserted_inCycle h
  | cartridgeRemoved => exact execCartridgeRemoved_inCycle h
  | leverOpened => exact execLeverOpened_inCycle h
  | leverClosed => exact execLeverClosed_inCycle h
  | selftestComplete => exact execSelftestComplete_inCycle h
  | stateRegionCopyComplete => exact execStateRegionCopyComplete_inCycle h
  | journal => exact execJournal_inCycle h
  | trackEnd => exact execTrackEnd_inCycle h
  | shadowDigest => exact execShadowDigest_inCycle h
  | checkPass => exact execCheckPass_inCycle h
  | hubTrackMismatch => exact execHubTrackMismatch_inCycle h
  | hubJoin => exact execHubJoin_inCycle h
  | hubLockComplete => exact execHubLockComplete_inCycle h
  | spareRemapCommand => exact execSpareRemapCommand_inCycle h
  | clearRemap => exact execClearRemap_inCycle h
  | encoderEdge => exact execEncoderEdge_inCycle h
  | errorWindow => exact execErrorWindow_inCycle h
  | hallStateChange => exact execHallStateChange_inCycle h
  | ssiReading => exact execSsiReading_inCycle h
  | ssiReadingComplete => exact execSsiReadingComplete_inCycle h
  | ssiDelayMeasurement => exact execSsiDelayMeasurement_inCycle h
  | remeasure => exact execRemeasure_inCycle h
  | indexLatch => exact execIndexLatch_inCycle h
  | latchRead => exact execLatchRead_inCycle h
  | latchTRead => exact execLatchTRead_inCycle h
  | intervalSaturation => exact execIntervalSaturation_inCycle h
  | encLoad => exact execEncLoad_inCycle h
  | clrfault => exact execClrfault_inCycle h
  | emulatedCount => exact execEmulatedCount_inCycle h
  | encHaCutOff => exact execEncHaCutOff_inCycle h
  | pulseEnd => exact execPulseEnd_inCycle h
  | lctl => exact execLctl_inCycle h
  | rewind => exact execRewind_inCycle h
  | rearm => exact execRearm_inCycle h
  | pulse => exact execPulse_inCycle h
  | haTime => exact execHaTime_inCycle h
  | hostPulse => exact execHostPulse_inCycle h
  | prgGo => exact execPrgGo_inCycle h
  | prgStop => exact execPrgStop_inCycle h
  | prgLoad => exact execPrgLoad_inCycle h
  | haPosHi => exact execHaPosHi_inCycle h
  | prgHaCutOff => exact execPrgHaCutOff_inCycle h
  | pwmPeriod => exact execPwmPeriod_inCycle h
  | pwmCentre => exact execPwmCentre_inCycle h
  | tdata => exact execTdata_inCycle h
  | tdefault => exact execTdefault_inCycle h
  | conversion => exact execConversion_inCycle h
  | conversionComplete => exact execConversionComplete_inCycle h
  | calibration => exact execCalibration_inCycle h
  | calibrationComplete => exact execCalibrationComplete_inCycle h
  | cal => exact execCal_inCycle h
  | adcFlush => exact execAdcFlush_inCycle h
  | restart => exact execRestart_inCycle h
  | resW0Read => exact execResW0Read_inCycle h
  | resW1Read => exact execResW1Read_inCycle h
  | prgPosLoRead => exact execPrgPosLoRead_inCycle h
  | powerGood => exact nomatch hc
  | hubSelfTestComplete => exact execHubSelfTestComplete_inCycle h
  | pllLock => exact execPllLock_inCycle h
  | hubFunctionsReady => exact nomatch hc
  | admission => exact execAdmission_inCycle h
  | supplyThreshold => exact execSupplyThreshold_inCycle h
  | dip => exact execDip_inCycle h
  | shutdown => exact nomatch hc
  | supplyMeasurement => exact execSupplyMeasurement_inCycle h
  | thermalStop => exact execThermalStop_inCycle h
  | fireflyPhaseCrossing => exact execFireflyPhaseCrossing_inCycle h
  | testPulseMidpoint => exact execTestPulseMidpoint_inCycle h
  | illegalInstruction => exact execIllegalInstruction_inCycle h
  | softStartComplete => exact execSoftStartComplete_inCycle h
  | hubLoadComplete => exact execHubLoadComplete_inCycle h
  | laneReady => exact execLaneReady_inCycle h
  | custodianStartComplete => exact execCustodianStartComplete_inCycle h
  | resetInputRisingEdge => exact execResetInputRisingEdge_inCycle h
  | managementConnectionClosed => exact execManagementConnectionClosed_inCycle h
  | hostPortLinkChange => exact execHostPortLinkChange_inCycle h
  | msixTableWrite => exact execMsixTableWrite_inCycle h
  | thermalRecovery => exact execThermalRecovery_inCycle h

/-- A shutdown leaves the clock but for the power (R546). -/
theorem shutDown_clk : (shutDown s).clk = s.clk ∨ (shutDown s).clk = { s.clk with on := false } := by
  unfold shutDown
  split
  · exact .inl rfl
  · exact .inr rfl

/-- A shutdown leaves the tag, T_s and the placing of the cycle as they stand. -/
theorem execShutdown_cycle (h : execShutdown s = .next t) :
    t.clk.tag = s.clk.tag ∧ t.clk.ts = s.clk.ts ∧ t.clk.running = s.clk.running ∧ t.clk.started = s.clk.started := by
  unfold execShutdown run at h
  cases h
  split
  · obtain e | e := shutDown_clk (s := s) <;> simp [e]
  · simp

/-- Settles O18: a command that the statement admits keeps the whole bus cycle, or is a shutdown, which leaves the clock but for the
power. -/
theorem tagKeptWithinCycle : Obligations.TagKeptWithinCycle := by
  intro c s t h hc
  have kind : movesCycle c = false ∨ c = .shutdown := by
    cases c <;> first | exact .inl rfl | exact .inr rfl | exact hc.elim
  obtain hm | rfl := kind
  · have k := exec_inCycle hm h
    exact ⟨k.tag, k.ts, k.running, k.started⟩
  · exact execShutdown_cycle h

end Sys2Proof.Machine

/-! SUPPORT. What the operations behind the hubs' continuity change and leave (R15, R23, R446, R447, R548). -/

namespace Sys2Proof.Machine

variable {s t : State}

-- Frames: what a state holds besides the parts that an operation may touch

/-- A state without its register file and host link. -/
def quiet (s : State) : State := { s with regs := [], link := {} }

/-- A state without its cartridges, register file and host link. -/
def cartless (s : State) : State := { s with carts := Vector.replicate 5 {}, regs := [], link := {} }

/-- The clock, bulk memory, the cartridges and the custodians. -/
def drive (s : State) : Clock × List Host.Cell × Vector Cartridge 5 × Vector Custodian 2 := (s.clk, s.mem, s.carts, s.cus)

/-- What every step of a loop leaves as it is, the loop does. -/
theorem forEach_preserves {α β : Type} {g : State → β} {f : α → State → State} (hf : ∀ a s, g (f a s) = g s) (l : List α) (s : State) :
    g (forEach l f s) = g s := by
  unfold forEach
  induction l generalizing s with
  | nil => rfl
  | cons a l ih => exact (ih (f a s)).trans (hf a s)

theorem eq_of_quiet (h : quiet t = quiet s) : t = { s with regs := t.regs, link := t.link } := by
  cases t; cases s; cases h; rfl

theorem eq_of_cartless (h : cartless t = cartless s) : t = { s with carts := t.carts, regs := t.regs, link := t.link } := by
  cases t; cases s; cases h; rfl

@[simp] theorem quiet_irq {p : Pg} {i b : Nat} : quiet (irq p i b s) = quiet s := by simp [quiet]
@[simp] theorem quiet_count {p : Pg} {i n : Nat} : quiet (count p i n s) = quiet s := by simp [quiet]

@[simp] theorem cartless_irq {p : Pg} {i b : Nat} : cartless (irq p i b s) = cartless s := by simp [cartless]
@[simp] theorem cartless_count {p : Pg} {i n : Nat} : cartless (count p i n s) = cartless s := by simp [cartless]
@[simp] theorem cartless_modCart {c : Cart} {f : Cartridge → Cartridge} : cartless (modCart c f s) = cartless s := rfl

@[simp] theorem drive_ite {p : Prop} [Decidable p] : drive (if p then s else t) = if p then drive s else drive t := apply_ite _ _ _ _
@[simp] theorem drive_setReg {p : Pg} {i off : Nat} {v : Word} : drive (setReg p i off v s) = drive s := rfl
@[simp] theorem drive_irq {p : Pg} {i b : Nat} : drive (irq p i b s) = drive s := by simp [drive]
@[simp] theorem drive_irqIf {x : Bool} {p : Pg} {i b : Nat} : drive (irqIf x p i b s) = drive s := by simp [drive]
@[simp] theorem drive_count {p : Pg} {i n : Nat} : drive (count p i n s) = drive s := by simp [drive]
@[simp] theorem drive_countHub {h : Hub} {p : Pg} {i n : Nat} : drive (countHub h p i n s) = drive s := by simp [drive]
@[simp] theorem drive_modPtp {e : Hub} {f : PtpPort → PtpPort} : drive (modPtp e f s) = drive s := rfl
@[simp] theorem drive_modServo {f : TimeServo → TimeServo} : drive (modServo f s) = drive s := rfl
@[simp] theorem drive_modSec {f : Security → Security} : drive (modSec f s) = drive s := rfl
@[simp] theorem drive_modSaf {f : SafetyUnit → SafetyUnit} : drive (modSaf f s) = drive s := rfl
@[simp] theorem drive_modWl {f : Wearline → Wearline} : drive (modWl f s) = drive s := rfl

-- The PTP ports and the time servo

@[simp] theorem drive_sourceLost : drive (sourceLost s) = drive s := by
  simp [sourceLost, enterHoldover]

@[simp] theorem drive_keepSource {was : Bool} : drive (keepSource was s) = drive s := by simp [keepSource]

@[simp] theorem drive_setPstate {e : Hub} {v : Nat} : drive (setPstate e v s) = drive s := by simp [setPstate]

@[simp] theorem drive_setGm {e : Hub} {g : BitVec 64} : drive (setGm e g s) = drive s := by simp [setGm]

@[simp] theorem drive_noMaster {e : Hub} : drive (noMaster e s) = drive s := rfl

@[simp] theorem drive_ptpApply {e : Hub} {x : PtpDecision} : drive (ptpApply e x s) = drive s := by
  unfold ptpApply
  cases x with
  | stay | listen | master | passive | slave | relay => simp

@[simp] theorem drive_ptpStates {e : Hub} : drive (ptpStates e s) = drive s := by simp [ptpStates]

@[simp] theorem drive_closeSession : drive (closeSession s) = drive s := by simp [closeSession]

@[simp] theorem drive_closeSessionOf {src : Nat} : drive (closeSessionOf src s) = drive s := by
  unfold closeSessionOf
  split <;> simp

/-- A link that comes up or is lost touches neither the clock nor a cartridge. -/
@[simp] theorem drive_linkChange {e : Hub} {up master : Bool} : drive (linkChange e up master s) = drive s := by
  unfold linkChange
  simp

-- Bursts that are cut off

@[simp] theorem drive_ungood {h : Hub} {c : Chan} : drive (ungood h c s) = drive s := rfl

@[simp] theorem drive_recount {h : Hub} {c : Chan} {cut : Bool} : drive (recount h c cut s) = drive s := by
  simp only [recount, drive_ite, drive_countHub]
  exact ite_self _

@[simp] theorem drive_cutFrame {n : Nat} {x : WireFrame} : drive (cutFrame n x s).1 = drive s := by
  have each : drive (forEach bothOf (fun g s => if x.good.getLsbD g.val then ungood g x.ch s else s) s) = drive s :=
    forEach_preserves (fun g s => by split <;> simp) _ _
  unfold cutFrame
  dsimp only
  split
  · split <;> simp [each]
  · rfl

@[simp] theorem drive_cutHub {h : Hub} : drive (cutHub h s) = drive s := by
  unfold cutHub cutWire
  simp only [drive_modWl]
  induction s.wl.wire with
  | nil => rfl
  | cons x l ih =>
    simp only [List.foldr_cons]
    split
    · simpa using ih
    · exact ih

-- The service window and the outputs

@[simp] theorem drive_logChange {src : Nat} {cell : Bool} {cls inst : Nat} {before after : Word} {kind : Nat} :
    drive (logChange src cell cls inst before after kind s) = drive s := by simp [logChange]

@[simp] theorem drive_beginWindow {h : Hub} : drive (beginWindow h s) = drive s := by simp [beginWindow]

@[simp] theorem drive_endWindow : drive (endWindow s) = drive s := by simp [endWindow]

@[simp] theorem drive_outputsDead : drive (outputsDead s) = drive s := rfl

-- Cartridges

theorem vset_self {α : Type} {n : Nat} (v : Vector α n) (i : Fin n) : vset v i v[i] = v := by simp [vset]

/-- Two changes of one element are one. -/
@[simp] theorem vmod_vmod {α : Type} {n : Nat} (v : Vector α n) (i : Fin n) (f g : α → α) :
    vmod (vmod v i f) i g = vmod v i fun x => g (f x) := by simp [vmod, vset]

theorem vmod_congr {α : Type} {n : Nat} {v : Vector α n} {i : Fin n} {f g : α → α} (h : f v[i] = g v[i]) : vmod v i f = vmod v i g :=
  congrArg (vset v i) h

/-- A cartridge that enters a state has it; nothing else of the cartridges moves. -/
@[simp] theorem setState_carts {c : Cart} {x : CartState} : (setState c x s).carts = vmod s.carts c fun k => { k with st := x } := by
  unfold setState
  split
  · next h => subst h; exact (vset_self _ _).symm
  · simp

@[simp] theorem cartless_setState {c : Cart} {x : CartState} : cartless (setState c x s) = cartless s := by
  unfold setState
  split <;> simp

@[simp] theorem setState_clk {c : Cart} {x : CartState} : (setState c x s).clk = s.clk := 
  (congrArg State.clk (cartless_setState (c := c) (x := x) (s := s)) :)
@[simp] theorem setState_mem {c : Cart} {x : CartState} : (setState c x s).mem = s.mem := 
  (congrArg State.mem (cartless_setState (c := c) (x := x) (s := s)) :)
@[simp] theorem setState_cus {c : Cart} {x : CartState} : (setState c x s).cus = s.cus := 
  (congrArg State.cus (cartless_setState (c := c) (x := x) (s := s)) :)

-- A hub that falls silent, and one that stands by

/-- A hub that stops driving: the other hub, cell time and the tag go on as they were (R15, R32). -/
theorem hubDown_drive {h : Hub} {x : CartState} {cause : Nat} : drive (hubDown h x cause s) =
    ({ s.clk with alive := vset s.clk.alive h false }, s.mem,
      vmod s.carts (hubCart h) fun k => { k with
        st := x, cause := cause, fencePend := none, fenceTag := lo32 (s.clk.tag.setWidth 64), loaded := false, gone := false },
      vmod s.cus h fun u => { u with st := .silent, readmit := false }) := by
  unfold hubDown
  have cut : drive (if flag s .eth h Reg.ETH_LINK 0 then linkChange h false false (cutHub h s) else cutHub h s) = drive s := by simp
  generalize (if flag s .eth h Reg.ETH_LINK 0 then linkChange h false false (cutHub h s) else cutHub h s) = u at cut
  simp only [drive, Prod.mk.injEq] at cut
  obtain ⟨hclk, hmem, hcarts, hcus⟩ := cut
  simp only [drive_ite, drive_beginWindow, drive_outputsDead, ite_self, drive_closeSessionOf, drive_modSec, drive_keepSource]
  simp [drive, hclk, hmem, hcarts, hcus]

theorem hubDown_clk {h : Hub} {x : CartState} {cause : Nat} :
    (hubDown h x cause s).clk = { s.clk with alive := vset s.clk.alive h false } := congrArg (·.1) hubDown_drive
theorem hubDown_mem {h : Hub} {x : CartState} {cause : Nat} : (hubDown h x cause s).mem = s.mem := congrArg (·.2.1) hubDown_drive
theorem hubDown_carts {h : Hub} {x : CartState} {cause : Nat} : (hubDown h x cause s).carts =
    vmod s.carts (hubCart h) fun k => { k with
      st := x, cause := cause, fencePend := none, fenceTag := lo32 (s.clk.tag.setWidth 64), loaded := false, gone := false } :=
  congrArg (·.2.2.1) hubDown_drive
theorem hubDown_cus {h : Hub} {x : CartState} {cause : Nat} :
    (hubDown h x cause s).cus = vmod s.cus h fun u => { u with st := .silent, readmit := false } := congrArg (·.2.2.2) hubDown_drive

theorem other_ne (h : Fin 2) : other h ≠ h := by
  unfold other
  split
  · next e => subst e; decide
  · next e => exact fun k => e k.symm

/-- A mismatch in a hub that drives takes it down (R15). -/
theorem silent_of_alive {h : Hub} (ha : s.clk.alive[h] = true) : silent h s = hubDown h .silent 7 s := if_pos ha

/-- A mismatch in a hub that stands by changes its cartridge only. -/
theorem silent_of_standsBy {h : Hub} (ha : s.clk.alive[h] = false) (hb : hubStandsBy s h = true) :
    silent h s = setState (hubCart h) .silent (modCart (hubCart h) (fun k => { k with
      cause := 7, loaded := false, cycles := 0, run := 0, fenceTag := lo32 (s.clk.tag.setWidth 64) }) s) := by
  simp only [silent, ha, hb, if_true, Bool.false_eq_true, if_false]

/-- A mismatch is nothing to a hub that neither drives nor stands by. -/
theorem silent_of_out {h : Hub} (ha : s.clk.alive[h] = false) (hb : hubStandsBy s h = false) : silent h s = s := by
  simp only [silent, ha, hb, Bool.false_eq_true, if_false]

-- The reference

/-- The reference moves to a hub that drives: to H1, or back to H0 where H1 drives no more (R23). -/
theorem takeover_moves (ho : s.clk.alive[other s.clk.refHub] = true) (hr : s.clk.refHub = 0 ∨ s.clk.alive[(1 : Hub)] = false) :
    takeover s = irq .tb 0 tbRefChg { s with clk := { s.clk with refHub := other s.clk.refHub } } := by
  have may : (other s.clk.refHub == 1 || !s.clk.alive[(1 : Hub)]) = true := by
    obtain e | e := hr
    · simp [e, other]
    · simp only [e, Bool.not_false, Bool.or_true]
  simp only [takeover, ho, may, Bool.and_true, if_true]

/-- The reference stays where the other hub does not drive, and at an H1 that drives. -/
theorem takeover_stays (ho : s.clk.alive[other s.clk.refHub] = false ∨ (s.clk.refHub = 1 ∧ s.clk.alive[(1 : Hub)] = true)) :
    takeover s = s := by
  have mayNot : (s.clk.alive[other s.clk.refHub] && (other s.clk.refHub == 1 || !s.clk.alive[(1 : Hub)])) = false := by
    obtain e | ⟨e, e1⟩ := ho
    · simp only [e, Bool.false_and]
    · have h0 : (other s.clk.refHub == 1) = false := by simp [e, other]
      simp only [h0, e1, Bool.not_true, Bool.or_false, Bool.and_false]
  simp only [takeover, mayNot, Bool.false_eq_true, if_false]

-- The input bundle

theorem receives_of_laneIn {l : Lane} (hl : laneIn s l = true) : receives s (laneCart l) = true := by
  simp only [laneIn, Bool.and_eq_true, beq_iff_eq] at hl
  simp only [receives, hl.1]

/-- A copy with a bad CRC is no transfer (R13). -/
theorem inputBundle_bad {l : Lane} {h : Hub} {tag : BitVec 48} : inputBundle l h tag false s = s := by
  simp [inputBundle]

/-- A lane in step uses the first good copy of a tag (R18). -/
theorem inputBundle_first {l : Lane} {h : Hub} {tag : BitVec 48} (hl : laneIn s l = true) (ha : s.clk.alive[h] = true)
    (hn : ∀ x ∈ s.clk.taken[l], x.tag ≠ tag) : inputBundle l h tag true s = { s with clk := { s.clk with
      reported := vset s.clk.reported h (putBit s.clk.reported[h] l.val false), taken := vset s.clk.taken l (some ⟨tag, h, s.clk.single⟩) } } := by
  unfold inputBundle
  simp only [ha, hl, receives_of_laneIn hl]
  cases e : s.clk.taken[l] with
  | none => rfl
  | some x =>
    have : (x.tag == tag) = false := by simpa using hn x (by rw [e]; rfl)
    simp only [this]
    rfl

/-- The second copy only ends the lane's report of a silent hub (R16, R18). -/
theorem inputBundle_second {l : Lane} {h : Hub} {tag : BitVec 48} {x : BundleCopy} (hl : laneIn s l = true) (ha : s.clk.alive[h] = true)
    (hx : s.clk.taken[l] = some x) (ht : x.tag = tag) : inputBundle l h tag true s = { s with clk := { s.clk with
      reported := vset s.clk.reported h (putBit s.clk.reported[h] l.val false) } } := by
  unfold inputBundle
  simp only [ha, hl, receives_of_laneIn hl, hx, ht, beq_self_eq_true]
  rfl

-- Re-admission of a hub

theorem hubLock_of_lock {h : Hub} (ho : s.clk.alive[other h] = true) (hs : (s.carts[hubCart h]).st = .lock) :
    hubLock h s = setState (hubCart h) .load s := if_pos ⟨hs, ho⟩

/-- The third mismatch faults the hub, the others take it back to LOAD (R447). -/
theorem hubMismatch_of_track {h : Hub} (hs : (s.carts[hubCart h]).st = .track) : hubMismatch h s =
    setState (hubCart h) (if 3 ≤ (s.carts[hubCart h]).fails + 1 then .faulted else .load)
      (count .crt (hubCart h) 3 (modCart (hubCart h) (fun k => { k with fails := k.fails + 1, run := 0, loaded := false }) s)) := if_pos hs

/-- A hub that joins drives again and stands in the step; its custodian shadows (R447). -/
theorem hubJoin_drive {h : Hub} (ho : s.clk.alive[other h] = true) (hs : (s.carts[hubCart h]).st = .track)
    (hr : 64 ≤ (s.carts[hubCart h]).run) (hc : classFits s (hubCart h) = true) : drive (hubJoin h s) =
      ({ s.clk with alive := vset s.clk.alive h true, reported := vset s.clk.reported h 0 }, s.mem,
        vmod s.carts (hubCart h) fun k => { k with
          st := .instep, passed := false, loaded := false, role := if 3 ≤ (hubCart h).val then .none else .reserve },
        vmod s.cus h fun u => { u with st := .shadow, equalRun := 0, readmit := false }) := by
  simp only [hubJoin, hs, hr, ho, hc, and_self, if_true, drive_endWindow]
  simp [drive, joinStep]

-- Heat

theorem cartHub_laneCart (l : Lane) : cartHub (laneCart l) = none := dif_neg (by simp [laneCart])

theorem cartHub_hubCart (h : Hub) : cartHub (hubCart h) = some h := by simp [cartHub, hubCart]

/-- A cartridge that has cooled down leaves SILENT or COCOON for its self-test; another one keeps its state (R548). -/
theorem thermalRecovery_carts {c : Cart} (hh : (s.carts[c]).hot = true) : (thermalRecovery c s).carts = vmod s.carts c fun k => { k with
    hot := false, st := if k.st = .silent ∨ k.st = .cocoon then .selftest else k.st } := by
  unfold thermalRecovery
  simp only [hh, if_true, modCart_carts, vmod_same]
  split
  · next h =>
    rw [setState_carts, modCart_carts, vmod_vmod]
    exact vmod_congr (by rw [if_pos h])
  · next h =>
    rw [modCart_carts]
    exact vmod_congr (by rw [if_neg h])

theorem cartless_thermalRecovery {c : Cart} : cartless (thermalRecovery c s) = cartless s := by
  unfold thermalRecovery
  split
  · dsimp only
    split <;> simp
  · rfl

-- The commands

theorem runReady_on {f : State → State} (on : s.clk.on = true) : runReady f s = .next (refreshReady (f s)) := run_on on

/-- R15: SILENT at a hub that drives. -/
theorem exec_silent_alive (on : s.clk.on = true) {h : Hub} (ha : s.clk.alive[h] = true) :
    ∃ t, exec (.silent h) s = .next (refreshReady t) ∧ t.clk.alive[h] = false ∧
      t.clk.alive[other h] = s.clk.alive[other h] ∧ (t.carts[hubCart h]).st = .silent ∧ (t.cus[h]).st = .silent ∧
      t.clk.now = s.clk.now ∧ t.clk.tag = s.clk.tag ∧ t.mem = s.mem := by
  refine ⟨silent h s, runReady_on on, ?_⟩
  rw [silent_of_alive ha, hubDown_clk, hubDown_carts, hubDown_cus, hubDown_mem, vmod_same, vmod_same]
  exact ⟨vset_same, vset_other (other_ne h), rfl, rfl, rfl, rfl, rfl⟩

/-- R15: SILENT at a hub that stands by. -/
theorem exec_silent_standsBy (on : s.clk.on = true) {h : Hub} (ha : s.clk.alive[h] = false) (hb : hubStandsBy s h = true) :
    ∃ t, exec (.silent h) s = .next (refreshReady t) ∧ (t.carts[hubCart h]).st = .silent ∧
      (t.carts[hubCart h]).run = 0 ∧ (∀ d : Cart, d ≠ hubCart h → t.carts[d] = s.carts[d]) ∧
      t = { s with carts := t.carts, regs := t.regs, link := t.link } := by
  refine ⟨silent h s, runReady_on on, ?_⟩
  rw [silent_of_standsBy ha hb]
  refine ⟨?_, ?_, fun d hd => ?_, eq_of_cartless (cartless_setState.trans cartless_modCart)⟩ <;>
    rw [setState_carts, modCart_carts, vmod_vmod]
  · rw [vmod_same]
  · rw [vmod_same]
  · exact vmod_other hd

/-- R23: the reference moves, and the time base tells. -/
theorem exec_takeover (on : s.clk.on = true) (ho : s.clk.alive[other s.clk.refHub] = true)
    (hr : s.clk.refHub = 0 ∨ s.clk.alive[(1 : Hub)] = false) (wf : regsWf s.regs = true) :
    ∃ t, exec .referenceTakeover s = .next (refreshReady t) ∧
      t.clk.refHub = other s.clk.refHub ∧ bit (reg t .tb 0 Reg.IRQ_STAT) tbRefChg = true ∧
      t = { s with clk := { s.clk with refHub := other s.clk.refHub }, regs := t.regs, link := t.link } := by
  refine ⟨takeover s, runReady_on on, ?_⟩
  rw [takeover_moves ho hr]
  exact ⟨by rw [irq_clk], irq_bit wf (by decide), eq_of_quiet quiet_irq⟩

/-- R446: a hub that has locked loads. -/
theorem exec_hubLock (on : s.clk.on = true) {h : Hub} (ho : s.clk.alive[other h] = true) (hs : (s.carts[hubCart h]).st = .lock) :
    ∃ t, exec (.hubLockComplete h) s = .next t ∧ (t.carts[hubCart h]).st = .load ∧
      t = { s with carts := t.carts, regs := t.regs, link := t.link } := by
  refine ⟨hubLock h s, run_on on, ?_⟩
  rw [hubLock_of_lock ho hs]
  exact ⟨by rw [setState_carts, vmod_same], eq_of_cartless cartless_setState⟩

/-- R446: the tables of the hub in step come over as trained entries and as the soldiers' copies. -/
theorem exec_hubLoad (on : s.clk.on = true) {h : Hub} (ho : s.clk.alive[other h] = true) (hs : (s.carts[hubCart h]).st = .load) :
    ∃ t, exec (.hubLoadComplete h) s = .next t ∧ (t.carts[hubCart h]).loaded = true ∧
      (t.carts[hubCart h]).st = .load ∧
      (∀ c : Chan, (t.wl.eq[h])[c] = ((s.wl.eq[other h])[c]).map fun x => (x.1, { x.2 with trained := true })) ∧
      t.wl.soldier[h] = s.wl.soldier[other h] ∧
      t = { s with carts := t.carts, wl := t.wl } := by
  refine ⟨_, run_on on, ?_⟩
  rw [hubLoad, if_pos ⟨hs, ho⟩]
  refine ⟨?_, ?_, fun c => ?_, vset_same, rfl⟩
  · simp only [modCart_carts, vmod_same]
  · simpa only [modCart_carts, vmod_same] using hs
  · simp only [modCart_wl, vset_same]
    exact Vector.getElem_map ..

/-- R447: a hub joins after 64 equal cycles. -/
theorem exec_hubJoin (on : s.clk.on = true) {h : Hub} (ho : s.clk.alive[other h] = true) (hs : (s.carts[hubCart h]).st = .track)
    (hr : 64 ≤ (s.carts[hubCart h]).run) (hc : classFits s (hubCart h) = true) :
    ∃ t, exec (.hubJoin h) s = .next (refreshReady t) ∧ (t.carts[hubCart h]).st = .instep ∧ t.clk.alive[h] = true ∧
      (t.cus[h]).st = .shadow ∧ t.clk.now = s.clk.now ∧ t.clk.tag = s.clk.tag ∧ t.mem = s.mem := by
  have joined := hubJoin_drive ho hs hr hc
  simp only [drive, Prod.mk.injEq] at joined
  obtain ⟨hclk, hmem, hcarts, hcus⟩ := joined
  refine ⟨hubJoin h s, runReady_on on, ?_⟩
  rw [hclk, hmem, hcarts, hcus, vmod_same, vmod_same]
  exact ⟨rfl, vset_same, rfl, rfl, rfl, rfl⟩

/-- R447: a hub in TRACK meets a mismatch. -/
theorem exec_hubMismatch (on : s.clk.on = true) {h : Hub} (hs : (s.carts[hubCart h]).st = .track) :
    ∃ t, exec (.hubTrackMismatch h) s = .next t ∧
      (t.carts[hubCart h]).st = (if 3 ≤ (s.carts[hubCart h]).fails + 1 then .faulted else .load) ∧
      (t.carts[hubCart h]).fails = (s.carts[hubCart h]).fails + 1 ∧ t = { s with carts := t.carts, regs := t.regs, link := t.link } := by
  refine ⟨hubMismatch h s, run_on on, ?_⟩
  rw [hubMismatch_of_track hs]
  refine ⟨?_, ?_, eq_of_cartless (by simp)⟩ <;> rw [setState_carts, count_carts, modCart_carts, vmod_vmod, vmod_same]

/-- R548: a lane that is too hot stops its digests. -/
theorem thermalStop_lane {l : Lane} : thermalStop (laneCart l) s =
    { s with carts := vset s.carts (laneCart l) { s.carts[laneCart l] with hot := true, mute := true } } := by
  simp only [thermalStop, cartHub_laneCart]
  rfl

/-- R548: a hub that is too hot falls silent. -/
theorem thermalStop_hub {h : Hub} :
    thermalStop (hubCart h) s = silent h (modCart (hubCart h) (fun k => { k with hot := true, mute := true }) s) := by
  simp only [thermalStop, cartHub_hubCart]

theorem exec_thermalStop_hub (on : s.clk.on = true) {h : Hub} (ha : s.clk.alive[h] = true) :
    ∃ t, exec (.thermalStop (hubCart h)) s = .next (refreshReady t) ∧
      (t.carts[hubCart h]).hot = true ∧ (t.carts[hubCart h]).st = .silent ∧ t.clk.alive[h] = false ∧ t.mem = s.mem := by
  refine ⟨thermalStop (hubCart h) s, runReady_on on, ?_⟩
  rw [thermalStop_hub, silent_of_alive (s := modCart _ _ s) ha, hubDown_clk, hubDown_carts, hubDown_mem, modCart_carts, vmod_vmod, vmod_same]
  exact ⟨rfl, rfl, vset_same, rfl⟩

/-- R548: a cartridge has cooled down. -/
theorem exec_thermalRecovery (on : s.clk.on = true) {c : Cart} (hh : (s.carts[c]).hot = true) :
    ∃ t, exec (.thermalRecovery c) s = .next (refreshReady t) ∧ (t.carts[c]).hot = false ∧
      (t.carts[c]).st = (if (s.carts[c]).st = .silent ∨ (s.carts[c]).st = .cocoon then .selftest else (s.carts[c]).st) ∧
      t = { s with carts := t.carts, regs := t.regs, link := t.link } := by
  refine ⟨thermalRecovery c s, runReady_on on, ?_, ?_, eq_of_cartless cartless_thermalRecovery⟩ <;>
    rw [thermalRecovery_carts hh, vmod_same]

/-- Settles O37, clause by clause: each command's effect is one of the equations above. -/
theorem hubContinuity : Obligations.HubContinuity := by
  intro s on
  refine ⟨fun h ha => exec_silent_alive on ha,
    fun h ha => ⟨fun hb => exec_silent_standsBy on ha hb, fun hb => ?_⟩,
    fun h c => runReady_on on,
    fun ho hr wf => exec_takeover on ho hr wf,
    fun ho => ?_,
    fun l h tag hl ha => ⟨?_, fun hn => ?_, fun x hx ht => ?_⟩,
    fun h ho => ⟨fun hs => exec_hubLock on ho hs, fun hs => exec_hubLoad on ho hs, fun hs hr hc => exec_hubJoin on ho hs hr hc⟩,
    fun h hs => exec_hubMismatch on hs,
    fun l => ?_,
    fun h ha => exec_thermalStop_hub on ha,
    fun c hh => exec_thermalRecovery on hh⟩
  · exact (runReady_on on).trans (by rw [silent_of_out ha hb])
  · exact (runReady_on on).trans (by rw [takeover_stays ho])
  · exact (run_on on).trans (by rw [inputBundle_bad])
  · exact (run_on on).trans (by rw [inputBundle_first hl ha hn])
  · exact (run_on on).trans (by rw [inputBundle_second hl ha hx ht])
  · exact (runReady_on on).trans (by rw [thermalStop_lane])

end Sys2Proof.Machine

/-! SUPPORT. What Wearline puts on the wire in slots, minislots and the symbol window (R112, R131, R151, R168, R192). -/

namespace Sys2Proof.Machine

variable {s t : State} {b : WlBank}

-- Frames: what a transmission leaves as it is

/-- A state without what time, Wearline and the registers hold. -/
def untimed (s : State) : State := { s with clk := { s.clk with now := 0 }, wl := {}, regs := [], link := {}, lanePriv := [] }

/-- A state without what the receivers hold: coefficients, slot counts, detected signals, counters, registers, free values drawn. -/
def offAir (s : State) : State := { s with
  clk := { s.clk with free := 0 }
  wl := { s.wl with eq := Vector.replicate 2 (Vector.replicate 2 []), eqUse := Vector.replicate 2 (Vector.replicate 2 0), sigdet := 0
                    good := Vector.replicate 2 (Vector.replicate 2 0) }
  regs := [], link := {}, hubCnt := Vector.replicate 2 [], lanePriv := [] }

/-- What stays all through a bus cycle: a state off the air, without cell time, the wire and the minislot counters too. -/
def sched (s : State) : State :=
  let u := offAir s
  { u with clk := { u.clk with now := 0 }, wl := { u.wl with wire := [], mini := Vector.replicate 2 0, spent := Vector.replicate 2 0 } }

theorem eq_of_untimed (h : untimed t = untimed s) : t = { s with
    clk := { s.clk with now := t.clk.now }, wl := t.wl, regs := t.regs, link := t.link, lanePriv := t.lanePriv } := by
  obtain ⟨c, _⟩ := t; obtain ⟨d, _⟩ := s; cases c; cases d; cases h; rfl

theorem sched_of_offAir (h : offAir t = offAir s) : sched t = sched s := by simp only [sched, h]

theorem now_of_offAir (h : offAir t = offAir s) : t.clk.now = s.clk.now := (congrArg (·.clk.now) h :)
theorem wire_of_offAir (h : offAir t = offAir s) : t.wl.wire = s.wl.wire := (congrArg (·.wl.wire) h :)
theorem mini_of_offAir (h : offAir t = offAir s) : t.wl.mini = s.wl.mini := (congrArg (·.wl.mini) h :)
theorem spent_of_offAir (h : offAir t = offAir s) : t.wl.spent = s.wl.spent := (congrArg (·.wl.spent) h :)

/-- What reads nothing but the schedule's part reads the same in states that agree in it. -/
theorem eq_of_sched {α : Type} (g : State → α) (hg : ∀ u, g (sched u) = g u) (h : sched t = sched s) : g t = g s :=
  (hg t).symm.trans ((congrArg g h).trans (hg s))

theorem intoCycle_of_sched (h : sched t = sched s) (n : Nat) : intoCycle t n = intoCycle s n :=
  eq_of_sched (intoCycle · n) (fun _ => rfl) h
theorem wlRuns_of_sched (h : sched t = sched s) : wlRuns t = wlRuns s := eq_of_sched wlRuns (fun _ => rfl) h
theorem rowAt_of_sched (h : sched t = sched s) (c : Chan) (k : Nat) : rowAt t b c k = rowAt s b c k :=
  eq_of_sched (rowAt · b c k) (fun _ => rfl) h
theorem dynRow_of_sched (h : sched t = sched s) (c : Chan) (k : Nat) : dynRow t b c k = dynRow s b c k :=
  eq_of_sched (dynRow · b c k) (fun _ => rfl) h
theorem canSend_of_sched (h : sched t = sched s) (g : Hub) (c : Chan) (r : Option SlotRow) : canSend t g c r = canSend s g c r :=
  eq_of_sched (canSend · g c r) (fun _ => rfl) h
theorem senderOf_of_sched (h : sched t = sched s) (c : Chan) (r : SlotRow) : senderOf t c r = senderOf s c r :=
  eq_of_sched (senderOf · c r) (fun _ => rfl) h
theorem slotFrame_of_sched (h : sched t = sched s) (g : Hub) (c : Chan) (r : SlotRow) : slotFrame t b g c r = slotFrame s b g c r :=
  eq_of_sched (slotFrame · b g c r) (fun _ => rfl) h
theorem headerOf_of_sched (h : sched t = sched s) (g : Hub) (fid kind len : Nat) :
    headerOf t b g fid kind len = headerOf s b g fid kind len := eq_of_sched (headerOf · b g fid kind len) (fun _ => rfl) h
theorem tag_of_sched (h : sched t = sched s) : t.clk.tag = s.clk.tag := (congrArg (·.clk.tag) h :)
theorem refHub_of_sched (h : sched t = sched s) : t.clk.refHub = s.clk.refHub := (congrArg (·.clk.refHub) h :)

-- Small operations

@[simp] theorem untimed_modWl {f : Wearline → Wearline} : untimed (modWl f s) = untimed s := rfl
@[simp] theorem untimed_modBuf {i : Sixteen} {f : HostBuffer → HostBuffer} : untimed (modBuf i f s) = untimed s := rfl
@[simp] theorem untimed_irq {p : Pg} {i n : Nat} : untimed (irq p i n s) = untimed s := by simp [untimed]
@[simp] theorem untimed_count {p : Pg} {i n : Nat} : untimed (count p i n s) = untimed s := by simp [untimed]
@[simp] theorem untimed_advanceTo {n : Nat} : untimed (advanceTo n s) = untimed s := by simp [untimed]
@[simp] theorem untimed_loadEq {c : Chan} {n : Option Nat} : untimed (loadEq c n s) = untimed s := rfl
@[simp] theorem untimed_putBurst {h : Hub} {c : Chan} {fid start : Nat} {l : List (BitVec 10)} {g : BitVec 2} :
    untimed (putBurst h c fid start l g s) = untimed s := rfl

@[simp] theorem offAir_ite {p : Prop} [Decidable p] : offAir (if p then s else t) = if p then offAir s else offAir t :=
  apply_ite _ _ _ _
@[simp] theorem offAir_irq {p : Pg} {i n : Nat} : offAir (irq p i n s) = offAir s := by simp [offAir]
@[simp] theorem offAir_irqIf {x : Bool} {p : Pg} {i n : Nat} : offAir (irqIf x p i n s) = offAir s := by simp [offAir]
@[simp] theorem offAir_count {p : Pg} {i n : Nat} : offAir (count p i n s) = offAir s := by simp [offAir]
@[simp] theorem offAir_countIf {x : Bool} {p : Pg} {i n : Nat} : offAir (countIf x p i n s) = offAir s := by simp [offAir]
@[simp] theorem offAir_countHub {h : Hub} {p : Pg} {i n : Nat} : offAir (countHub h p i n s) = offAir s := by simp [offAir]
@[simp] theorem offAir_drawFree : offAir (drawFree s).2 = offAir s := rfl
@[simp] theorem offAir_modEq {h : Hub} {c : Chan} {n : Nat} {f : EqEntry → EqEntry} : offAir (modEq h c n f s) = offAir s := rfl
@[simp] theorem offAir_goodSlot {h : Hub} {c : Chan} : offAir (goodSlot h c s) = offAir s := rfl
@[simp] theorem offAir_loadEq {c : Chan} {n : Option Nat} : offAir (loadEq c n s) = offAir s := rfl
@[simp] theorem offAir_noteEye {h : Hub} {c : Chan} {n : Nat} : offAir (noteEye h c n s) = offAir s := rfl
@[simp] theorem offAir_trainGood {h : Hub} {c : Chan} {n : Nat} {d : Int} : offAir (trainGood h c n d s) = offAir s := by
  simp [trainGood]

@[simp] theorem offAir_adapt {h : Hub} {c : Chan} {n : Nat} : offAir (adapt h c n s) = offAir s := by
  simp [adapt]

@[simp] theorem offAir_peerReception {g : Hub} {c : Chan} {n : Nat} {train : Bool} :
    offAir (peerReception g c n train s) = offAir s := by simp [peerReception]

theorem offAir_judgeSlot {k : Nat} : offAir (judgeSlot b k s) = offAir s := by
  refine forEach_preserves (fun c s => ?_) _ _
  split <;> simp

theorem offAir_elapseTraining {c : Chan} {r : SlotRow} : offAir (elapseTraining b c r s) = offAir s := by
  unfold elapseTraining
  split
  · exact forEach_preserves (fun h s => by simp) _ _
  · rfl

@[simp] theorem sched_advanceTo {n : Nat} : sched (advanceTo n s) = sched s := by simp [sched, offAir]

-- A frame that a hub sends

/-- A loop-back that agrees changes nothing (R115). -/
@[simp] theorem loopBack_agrees {h : Hub} {c : Chan} {n : Nat} : loopBack h c n false s = s := rfl

/-- The hubs that count a burst as a good slot. -/
def seenBy (x : Sending) (s : State) : BitVec 2 :=
  bothOf.foldl (fun m g => setBit m g.val (x.slot && s.clk.alive[g])) 0

/-- The burst of a frame that a hub sends. -/
def burstOf (x : Sending) (s : State) : WireFrame := ⟨x.hub, x.ch, x.fid, x.start, burstSyms x.bytes, seenBy x s⟩

/-- A frame whose loop-back agrees: its burst is on the wire, the rest is done at the receivers (R112, R115). -/
theorem offAir_sendFrame {x : Sending} : offAir (sendFrame b x false s) =
    offAir (putBurst x.hub x.ch x.fid x.start (burstSyms x.bytes) (seenBy x s) s) := by
  have seen : ∀ u, offAir (forEach bothOf (fun g v => if x.slot && s.clk.alive[g] then goodSlot g x.ch v else v) u) = offAir u :=
    fun u => forEach_preserves (fun g v => by simp) _ _
  simp only [sendFrame, loopBack_agrees, Bool.false_and, Bool.not_false, Bool.and_true, offAir_ite, offAir_peerReception, ite_self,
    offAir_countHub]
  exact seen _

theorem sched_sendFrame {x : Sending} : sched (sendFrame b x false s) = sched s :=
  (sched_of_offAir offAir_sendFrame).trans rfl

theorem now_sendFrame {x : Sending} : (sendFrame b x false s).clk.now = s.clk.now :=
  (now_of_offAir offAir_sendFrame).trans rfl

theorem wire_sendFrame {x : Sending} : (sendFrame b x false s).wl.wire = burstOf x s :: s.wl.wire := wire_of_offAir offAir_sendFrame

theorem mini_sendFrame {x : Sending} : (sendFrame b x false s).wl.mini = s.wl.mini :=
  (mini_of_offAir offAir_sendFrame).trans rfl

-- Static slots

/-- What one channel does in static slot `k` while every loop-back agrees (R131). -/
def channelSlot (b : WlBank) (k : Nat) (c : Chan) (s : State) : State :=
  if wlRuns s = false then s
  else match rowAt s b c k with
  | none => loadEq c none s
  | some r =>
    let s := elapseTraining b c r (loadEq c (some r.node) s)
    if r.node ≤ 1 then sendSlot b c r 0 s else s

/-- The state in which the hubs act in static slot `k`: its start has come and the slot before it is judged. -/
def slotBegun (b : WlBank) (k : Nat) (s : State) : State :=
  let s := advanceTo (intoCycle s (slotStart b k)) s
  if 1 < k then judgeSlot b (k - 1) s else s

theorem staticSlot_eq {k : Nat} (hb : wlBank s = some b) (hr : wlRuns s = true) (h1 : 1 ≤ k) (hk : k ≤ b.slots) :
    staticSlot k 0 s = channelSlot b k 1 (channelSlot b k 0 (slotBegun b k s)) := by
  have go : ¬ (wlRuns s = false ∨ k = 0 ∨ b.slots < k) := by simp only [hr, Bool.true_eq_false, false_or]; omega
  simp only [staticSlot, hb, if_neg go]
  rfl

theorem sched_slotBegun {k : Nat} : sched (slotBegun b k s) = sched s := by
  unfold slotBegun
  dsimp only
  split
  · exact (sched_of_offAir offAir_judgeSlot).trans sched_advanceTo
  · exact sched_advanceTo

theorem now_slotBegun {k : Nat} : (slotBegun b k s).clk.now = max s.clk.now (intoCycle s (slotStart b k)) := by
  unfold slotBegun
  dsimp only
  split
  · rw [now_of_offAir offAir_judgeSlot, advanceTo_clk]
  · rw [advanceTo_clk]

/-- What a transmission with agreeing loop-backs does to the state: the schedule's part and cell time stay, the wire grows. -/
structure OnAir (s t : State) : Prop where
  sched : sched t = sched s
  now : t.clk.now = s.clk.now
  wire : ∀ x ∈ s.wl.wire, x ∈ t.wl.wire

theorem OnAir.refl : OnAir s s := ⟨rfl, rfl, fun _ h => h⟩

theorem OnAir.trans {u : State} (h : OnAir s t) (g : OnAir t u) : OnAir s u :=
  ⟨g.sched.trans h.sched, g.now.trans h.now, fun x hx => g.wire x (h.wire x hx)⟩

theorem onAir_of_offAir (h : offAir t = offAir s) : OnAir s t :=
  ⟨sched_of_offAir h, now_of_offAir h, fun _ hx => wire_of_offAir h ▸ hx⟩

theorem onAir_sendFrame {x : Sending} : OnAir s (sendFrame b x false s) :=
  ⟨sched_sendFrame, now_sendFrame, fun y hy => by rw [wire_sendFrame]; exact List.mem_cons_of_mem _ hy⟩

theorem zero_getLsbD (n : Nat) : (0 : BitVec 4).getLsbD n = false := BitVec.getLsbD_zero

/-- The frame of a slot that has a sender and a payload. -/
theorem sendSlot_eq {c : Chan} {r : SlotRow} {h : Hub} {p : List Byte} (hs : senderOf s c r = some h) (hp : slotFrame s b h c r = some p) :
    sendSlot b c r 0 s = sendFrame b
      { hub := h, ch := c, owner := r.node, fid := r.fid, start := intoCycle s (slotStart b r.fid + 20 * b.apo), bytes := p
        train := sendsTraining s b h c r } false s := by
  simp only [sendSlot, hs, hp, zero_getLsbD]

theorem onAir_sendSlot {c : Chan} {r : SlotRow} : OnAir s (sendSlot b c r 0 s) := by
  unfold sendSlot
  split
  · exact .refl
  · split
    · exact .refl
    · rw [zero_getLsbD]; exact onAir_sendFrame

theorem onAir_channelSlot {k : Nat} {c : Chan} : OnAir s (channelSlot b k c s) := by
  unfold channelSlot
  split
  · exact .refl
  · split
    · exact onAir_of_offAir offAir_loadEq
    · next r _ =>
      have trained : OnAir s (elapseTraining b c r (loadEq c (some r.node) s)) :=
        onAir_of_offAir (offAir_elapseTraining.trans offAir_loadEq)
      dsimp only
      split
      · exact trained.trans onAir_sendSlot
      · exact trained

/-- A channel whose slot has a sender and a payload puts the burst on the wire. -/
theorem channelSlot_sends {k : Nat} {h : Hub} {c : Chan} {r : SlotRow} {p : List Byte} (hr : wlRuns s = true)
    (hrow : rowAt s b c k = some r) (hn : r.node ≤ 1) (hs : senderOf s c r = some h) (hp : slotFrame s b h c r = some p) :
    ∃ g, ⟨h, c, r.fid, intoCycle s (slotStart b r.fid + 20 * b.apo), burstSyms p, g⟩ ∈ (channelSlot b k c s).wl.wire := by
  have same : sched (elapseTraining b c r (loadEq c (some r.node) s)) = sched s :=
    sched_of_offAir (offAir_elapseTraining.trans offAir_loadEq)
  have go : ¬ wlRuns s = false := by simp [hr]
  simp only [channelSlot, if_neg go, hrow, if_pos hn]
  rw [sendSlot_eq ((senderOf_of_sched same c r).trans hs) ((slotFrame_of_sched same h c r).trans hp), wire_sendFrame,
    intoCycle_of_sched same]
  exact ⟨_, List.mem_cons_self⟩

/-- R112, R131: the burst of a static slot, in the slot's time. -/
theorem staticSlot_sends {k : Nat} {h : Hub} {c : Chan} {r : SlotRow} {p : List Byte} (hb : wlBank s = some b) (hr : wlRuns s = true)
    (h1 : 1 ≤ k) (hk : k ≤ b.slots) (hrow : rowAt s b c k = some r) (hn : r.node ≤ 1) (hs : senderOf s c r = some h)
    (hp : slotFrame s b h c r = some p) :
    ∃ g, ⟨h, c, r.fid, intoCycle s (slotStart b r.fid + 20 * b.apo), burstSyms p, g⟩ ∈ (staticSlot k 0 s).wl.wire := by
  have sends : ∀ u, sched u = sched s →
      ∃ g, ⟨h, c, r.fid, intoCycle s (slotStart b r.fid + 20 * b.apo), burstSyms p, g⟩ ∈ (channelSlot b k c u).wl.wire := by
    intro u same
    rw [← intoCycle_of_sched same]
    exact channelSlot_sends ((wlRuns_of_sched same).trans hr) ((rowAt_of_sched same c k).trans hrow) hn
      ((senderOf_of_sched same c r).trans hs) ((slotFrame_of_sched same h c r).trans hp)
  rw [staticSlot_eq hb hr h1 hk]
  match c, sends with
  | 0, sends =>
    obtain ⟨g, hg⟩ := sends _ sched_slotBegun
    exact ⟨g, onAir_channelSlot.wire _ hg⟩
  | 1, sends => exact sends _ (onAir_channelSlot.sched.trans sched_slotBegun)

theorem onAir_staticSlot {k : Nat} (hb : wlBank s = some b) (hr : wlRuns s = true) (h1 : 1 ≤ k) (hk : k ≤ b.slots) :
    OnAir (slotBegun b k s) (staticSlot k 0 s) := by
  rw [staticSlot_eq hb hr h1 hk]
  exact onAir_channelSlot.trans onAir_channelSlot

-- The frame of a slot

theorem slotFrame_training {h : Hub} {c : Chan} {r : SlotRow} (ht : sendsTraining s b h c r = true) :
    slotFrame s b h c r = some (trainingFrame s b h r) := if_pos ht

theorem slotFrame_sync {h : Hub} {c : Chan} {r : SlotRow} (ht : sendsTraining s b h c r = false) (hk : r.kind = 1) :
    slotFrame s b h c r = some (syncFrame s b h r) := by
  simp only [slotFrame, ht, Bool.false_eq_true, if_false, if_pos hk]

/-- A slot for which no lane has handed over a frame carries a null frame, if any (R42, R131). -/
theorem slotFrame_null {h : Hub} {c : Chan} {r : SlotRow} {p : List Byte} (ht : sendsTraining s b h c r = false) (hk : r.kind ≠ 1)
    (hn : handedFor s r = none) (hp : slotFrame s b h c r = some p) : p = nullFrame s b h r.fid := by
  simp only [slotFrame, ht, Bool.false_eq_true, if_false, if_neg hk, hn] at hp
  split at hp
  · exact nomatch hp
  · exact (Option.some.inj hp).symm

-- Minislots

/-- The state in which the next minislot of a channel has begun (R151). -/
def minislotBegun (b : WlBank) (c : Chan) (s : State) : State :=
  modWl (fun w => { w with mini := vset w.mini c (s.wl.mini[c] + 1), spent := vset w.spent c (s.wl.spent[c] + 1) })
    (advanceTo (intoCycle s (dynStart b + 20 * (s.wl.spent[c] * b.miniLen + b.miniApo))) s)

/-- Whether the minislots of a channel run: the schedule does, on this channel, and the dynamic segment has minislots left (R151). -/
structure MinislotRuns (s : State) (b : WlBank) (c : Chan) : Prop where
  bank : wlBank s = some b
  runs : wlRuns s = true
  op : s.wl.op = 1 ∨ s.wl.op = 2
  kept : s.wl.consAct = true → c = s.wl.kept
  left : s.wl.spent[c] < b.minis
  count : s.wl.mini[c] < 1023

theorem MinislotRuns.not_off {c : Chan} (h : MinislotRuns s b c) : ¬ (wlRuns s = false ∨ (s.wl.op ≠ 1 ∧ s.wl.op ≠ 2) ∨
    (s.wl.consAct = true ∧ c ≠ s.wl.kept) ∨ b.minis ≤ s.wl.spent[c] ∨ 1023 ≤ s.wl.mini[c]) := by
  obtain ⟨-, runs, op, kept, left, count⟩ := h
  rintro (h | h | h | h | h)
  · simp [runs] at h
  · omega
  · exact h.2 (kept h.1)
  · omega
  · omega

theorem sched_minislotBegun {c : Chan} : sched (minislotBegun b c s) = sched s := sched_advanceTo (s := s)

theorem untimed_minislotBegun {c : Chan} : untimed (minislotBegun b c s) = untimed s := untimed_advanceTo (s := s)

/-- A minislot in which no row of the schedule names the module or a node (R117, R151). -/
theorem minislot_noRow {c : Chan} (h : MinislotRuns s b c) (hr : dynRow s b c (s.wl.mini[c] + 1) = none) :
    minislot c false s = loadEq c none (minislotBegun b c s) := by
  have row := (dynRow_of_sched (b := b) (sched_minislotBegun (b := b) (c := c) (s := s)) c (s.wl.mini[c] + 1)).trans hr
  simp only [minislotBegun] at row ⊢
  simp only [minislot, h.bank, if_neg h.not_off, row]

/-- A frame has its header of 12 bytes and its CRC of 4 (R133 to R135). -/
theorem frameBytes_length (x : Hdr) (p : List Byte) : (frameBytes x p).length = p.length + 16 := by
  have le : ∀ n v, (leBytes n v).length = n := fun n => by
    induction n with
    | zero => intro v; rfl
    | succ n ih => intro v; simp [leBytes, ih]
  simp only [frameBytes, Hdr.bytes, List.length_append, le]
  omega

/-- The frame that the reference hub sends in a minislot. -/
def dynSending (s : State) (b : WlBank) (c : Chan) (r : SlotRow) (n kind : Nat) (p : List Byte) : Sending :=
  { hub := s.clk.refHub, ch := c, owner := r.node, fid := n, start := s.clk.now
    bytes := frameBytes (headerOf s b s.clk.refHub n kind (p.length / 4)) p, slot := false }

/-- The state in which the frame of a minislot's row is sent: the receivers hold the entry of its owner (R117). -/
def rowLoaded (b : WlBank) (c : Chan) (r : SlotRow) (s : State) : State := loadEq c (some r.node) (minislotBegun b c s)

theorem sched_rowLoaded {c : Chan} {r : SlotRow} : sched (rowLoaded b c r s) = sched s :=
  (sched_of_offAir offAir_loadEq).trans sched_minislotBegun

/-- R151: the module's own frame goes out in its minislot and takes the minislots that it needs. -/
theorem minislot_sends {c : Chan} {r : SlotRow} {kind : Nat} {p : List Byte} {after : State → State} (h : MinislotRuns s b c)
    (hr : dynRow s b c (s.wl.mini[c] + 1) = some r) (hn : r.node = 0) (hc : canSend s s.clk.refHub c (some r) = true)
    (hp : dynPayload (rowLoaded b c r s) c r = some (kind, p, after)) (hf : fitsDynamic b s.wl.spent[c] (p.length + 16) = true) :
    minislot c false s =
      modWl (fun w => { w with spent := vset w.spent c (s.wl.spent[c] + minislotsOf b (p.length + 27)) })
        (after (count .wls 0 9 (sendFrame b (dynSending (rowLoaded b c r s) b c r (s.wl.mini[c] + 1) kind p) false (rowLoaded b c r s)))) := by
  have row := (dynRow_of_sched (b := b) (sched_minislotBegun (b := b) (c := c) (s := s)) c (s.wl.mini[c] + 1)).trans hr
  have may : ¬ (r.node ≠ 0 ∨ canSend (rowLoaded b c r s) (rowLoaded b c r s).clk.refHub c (some r) = false) := by
    rw [refHub_of_sched sched_rowLoaded, canSend_of_sched sched_rowLoaded, hc]
    simp [hn]
  have fits := hf
  rw [← frameBytes_length (headerOf (rowLoaded b c r s) b (rowLoaded b c r s).clk.refHub (s.wl.mini[c] + 1) kind (p.length / 4))] at fits
  simp only [rowLoaded, minislotBegun] at row may hp fits ⊢
  simp only [minislot, h.bank, if_neg h.not_off, row, if_neg may, hp, if_pos fits, dynSending]
  simp only [frameBytes_length, Nat.add_assoc, Nat.reduceAdd]

-- Registers

/-- Register `k` holds what it held. -/
structure RegKept (k : Nat) (s t : State) : Prop where
  wf : regsWf s.regs = true → regsWf t.regs = true
  same : regsWf s.regs = true → regAt t k = regAt s k

theorem RegKept.trans {u : State} {k : Nat} (h : RegKept k s t) (g : RegKept k t u) : RegKept k s u :=
  ⟨fun w => g.wf (h.wf w), fun w => (g.same (h.wf w)).trans (h.same w)⟩

theorem regKept_of_regs {k : Nat} (h : t.regs = s.regs) : RegKept k s t :=
  ⟨fun w => h ▸ w, fun _ => by unfold regAt; rw [h]⟩

/-- Cell time moves on: no register changes but those of the dispatcher's page (R63). -/
theorem regKept_advanceTo {k n : Nat} (ho : k ≠ regKey .tds 0 Reg.CNT_OVF) (hi : k ≠ regKey .tds 0 Reg.IRQ_STAT) :
    RegKept k s (advanceTo n s) := by
  unfold advanceTo
  generalize e : { s with clk := { s.clk with now := max s.clk.now n } } = u
  have moved : RegKept k s u := regKept_of_regs (by rw [← e])
  exact moved.trans ⟨regsWf_occupancy, fun w => occupancy_regAt_other w ho hi⟩

section Wlc
variable {k : Nat} (hk : ∀ c : Chan, k ≠ regKey .wlc c Reg.CNT_OVF ∧ k ≠ regKey .wlc c Reg.IRQ_STAT)
include hk

/-- A hub's own count on a channel's page touches the register file only in a wrap (R50, R63). -/
theorem regKept_countHub {h : Hub} {c : Chan} {n : Nat} : RegKept k s (countHub h .wlc c n s) := by
  unfold countHub
  dsimp only
  split
  · exact ⟨fun w => regsWf_wrapped (s := { s with hubCnt := _ }) w,
      fun w => wrapped_regAt_other (s := { s with hubCnt := _ }) w (hk c).1 (hk c).2⟩
  · exact regKept_of_regs rfl

theorem regKept_irqIf {x : Bool} {c : Chan} {n : Nat} : RegKept k s (irqIf x .wlc c n s) := by
  unfold irqIf
  split
  · exact ⟨regsWf_irq, fun w => irq_regAt_other w (hk c).2⟩
  · exact regKept_of_regs rfl

theorem regKept_trainGood {h : Hub} {c : Chan} {n : Nat} {d : Int} : RegKept k s (trainGood h c n d s) :=
  RegKept.trans (t := modEq h c n _ (drawFree s).2) (regKept_of_regs rfl) (regKept_countHub hk)

theorem regKept_adapt {h : Hub} {c : Chan} {n : Nat} : RegKept k s (adapt h c n s) := by
  have adapted : ∀ (x : Bool) (f : EqEntry → EqEntry),
      RegKept k s (irqIf x .wlc c wlcDrift (modEq h c n f (drawFree (noteEye h c n s)).2)) := fun x f =>
    RegKept.trans (t := modEq h c n f (drawFree (noteEye h c n s)).2) (regKept_of_regs rfl) (regKept_irqIf hk)
  unfold adapt
  extract_lets
  split
  · split
    · exact (adapted _ _).trans (regKept_countHub hk)
    · exact adapted _ _
  · exact regKept_of_regs rfl

theorem regKept_peerReception {g : Hub} {c : Chan} {n : Nat} {train : Bool} : RegKept k s (peerReception g c n train s) := by
  unfold peerReception
  dsimp only
  split
  · exact (regKept_countHub hk).trans (regKept_trainGood hk)
  · exact (regKept_countHub hk).trans (regKept_adapt hk)

/-- A frame that is sent leaves every register beyond the channels' pages alone. -/
theorem regKept_sendFrame {x : Sending} : RegKept k s (sendFrame b x false s) := by
  have good : ∀ (p : Hub → Bool) (u : State), (forEach bothOf (fun g v => if p g then goodSlot g x.ch v else v) u).regs = u.regs :=
    fun p => forEach_preserves (fun g v => by split <;> rfl) _
  have counted : ∀ (p : Hub → Bool) (u : State), u.regs = s.regs → RegKept k s
      (countHub x.hub .wlc x.ch 6 (forEach bothOf (fun g v => if p g then goodSlot g x.ch v else v) u)) :=
    fun p u e => (regKept_of_regs ((good p u).trans e)).trans (regKept_countHub hk)
  simp only [sendFrame, loopBack_agrees]
  split
  · refine (counted _ _ ?_).trans (regKept_peerReception hk)
    rfl
  · refine counted _ _ ?_
    rfl

end Wlc

-- The payload of a dynamic frame

/-- What a dynamic frame carries hangs on the requests, the host buffers, the mode of the page and the next free value (R168). -/
theorem dynPayload_congr {c : Chan} {r : SlotRow} (hr : t.wl.reqs = s.wl.reqs) (hb : t.wl.buf = s.wl.buf) (hf : t.clk.free = s.clk.free)
    (ha : assisted t .wls 0 = assisted s .wls 0) : dynPayload t c r = dynPayload s c r := by
  simp only [dynPayload, dueRequest, sendingBuf, hr, hb, hf, ha]

/-- Handing a dynamic frame over changes the requests, a buffer or the count of free values only. -/
theorem dynPayload_after {c : Chan} {r : SlotRow} {kind : Nat} {p : List Byte} {after : State → State}
    (h : dynPayload s c r = some (kind, p, after)) (u : State) :
    (after u).regs = u.regs ∧ (after u).clk.now = u.clk.now ∧ (after u).wl.mini = u.wl.mini ∧ (after u).wl.wire = u.wl.wire := by
  unfold dynPayload at h
  split at h
  · split at h
    · exact nomatch h
    · obtain ⟨q, -, e⟩ := Option.map_eq_some_iff.mp h
      cases e
      exact ⟨rfl, rfl, rfl, rfl⟩
  · split at h
    · obtain ⟨i, -, e⟩ := Option.bind_eq_some_iff.mp h
      obtain ⟨l, -, e⟩ := Option.map_eq_some_iff.mp e
      cases e
      exact ⟨rfl, rfl, rfl, rfl⟩
    · cases h
      exact ⟨rfl, rfl, rfl, rfl⟩

@[simp] theorem loadEq_clk {c : Chan} {n : Option Nat} : (loadEq c n s).clk = s.clk := rfl
@[simp] theorem loadEq_regs {c : Chan} {n : Option Nat} : (loadEq c n s).regs = s.regs := rfl

/-- A minislot that begins touches no register but those of the dispatcher's page. -/
theorem regKept_rowLoaded {k : Nat} {c : Chan} {r : SlotRow} (ho : k ≠ regKey .tds 0 Reg.CNT_OVF) (hi : k ≠ regKey .tds 0 Reg.IRQ_STAT) :
    RegKept k s (rowLoaded b c r s) := by
  unfold rowLoaded minislotBegun
  exact (regKept_advanceTo ho hi).trans (regKept_of_regs (by rw [loadEq_regs, modWl_regs]))

/-- A minislot that begins leaves the payload of its frame as it was. -/
theorem dynPayload_rowLoaded {c : Chan} {r : SlotRow} (wf : regsWf s.regs = true) :
    dynPayload (rowLoaded b c r s) c r = dynPayload s c r := by
  have same := sched_rowLoaded (b := b) (c := c) (r := r) (s := s)
  have mode := (regKept_rowLoaded (b := b) (c := c) (r := r) (s := s) (k := regKey .wls 0 Reg.MODE) (by decide) (by decide)).same wf
  refine dynPayload_congr (congrArg (·.wl.reqs) same :) (congrArg (·.wl.buf) same :) ?_ ?_
  · simp [rowLoaded, minislotBegun]
  · simp only [assisted, fld, reg_eq_regAt, mode]

/-- A dynamic frame is no good slot of a hub, and its header reads the schedule's part of the state only. -/
theorem burstOf_dynSending {u : State} (same : sched u = sched s) {c : Chan} {r : SlotRow} {n kind : Nat} {p : List Byte} :
    burstOf (dynSending u b c r n kind p) u = ⟨s.clk.refHub, c, n, u.clk.now,
      burstSyms (frameBytes (headerOf s b s.clk.refHub n kind (p.length / 4)) p), 0⟩ := by
  have unseen : seenBy (dynSending u b c r n kind p) u = 0 := by
    simp only [seenBy, dynSending, Bool.false_and]
    decide
  rw [burstOf, unseen, dynSending, refHub_of_sched same, headerOf_of_sched same]

/-- The minislot counter of a channel rises by 1 as a minislot begins (R151). -/
theorem rowLoaded_mini {c : Chan} {r : SlotRow} : (rowLoaded b c r s).wl.mini = vset s.wl.mini c (s.wl.mini[c] + 1) := by
  rw [rowLoaded, mini_of_offAir offAir_loadEq, minislotBegun, modWl_wl, advanceTo_wl]

/-- R151, R168: the reference hub sends the module's own frame, which `CNT9` counts. -/
theorem minislot_own {c : Chan} {r : SlotRow} {kind : Nat} {p : List Byte} (wf : regsWf s.regs = true) (h : MinislotRuns s b c)
    (hr : dynRow s b c (s.wl.mini[c] + 1) = some r) (hn : r.node = 0) (hc : canSend s s.clk.refHub c (some r) = true)
    (hp : (dynPayload s c r).map (fun x => (x.1, x.2.1)) = some (kind, p)) (hf : fitsDynamic b s.wl.spent[c] (p.length + 16) = true) :
    (minislot c false s).wl.mini[c] = s.wl.mini[c] + 1 ∧
      (minislot c false s).wl.spent[c] = s.wl.spent[c] + minislotsOf b (p.length + 27) ∧
      reg (minislot c false s) .wls 0 (Reg.CNT + 36) = reg s .wls 0 (Reg.CNT + 36) + 1 ∧
      ⟨s.clk.refHub, c, s.wl.mini[c] + 1, (minislot c false s).clk.now,
        burstSyms (frameBytes (headerOf s b s.clk.refHub (s.wl.mini[c] + 1) kind (p.length / 4)) p), 0⟩ ∈ (minislot c false s).wl.wire := by
  obtain ⟨⟨kind, p, after⟩, hpay, e⟩ := Option.map_eq_some_iff.mp hp
  cases e
  have payload := (dynPayload_rowLoaded (b := b) wf).trans hpay
  rw [minislot_sends h hr hn hc payload hf]
  have burst := burstOf_dynSending (b := b) (c := c) (r := r) (n := s.wl.mini[c] + 1) (kind := kind) (p := p)
    (sched_rowLoaded (b := b) (c := c) (r := r) (s := s))
  generalize dynSending (rowLoaded b c r s) b c r (s.wl.mini[c] + 1) kind p = x at burst
  obtain ⟨regs, now, mini, wire⟩ := dynPayload_after hpay (count .wls 0 9 (sendFrame b x false (rowLoaded b c r s)))
  have kept : RegKept (regKey .wls 0 (Reg.CNT + 36)) s (sendFrame b x false (rowLoaded b c r s)) :=
    (regKept_rowLoaded (by decide) (by decide)).trans (regKept_sendFrame (by decide))
  refine ⟨?_, vset_same, ?_, ?_⟩
  · rw [modWl_wl]
    dsimp only
    rw [mini, count_wl, mini_sendFrame, rowLoaded_mini, vset_same]
  · have counted := count_reg (p := .wls) (i := 0) (n := 9) (kept.wf wf) (by decide)
    rw [reg_eq_regAt, regAt, modWl_regs, regs]
    exact counted.trans (congrArg (· + 1) (kept.same wf))
  · rw [modWl_wl, modWl_clk]
    dsimp only
    rw [wire, now, count_wl, count_clk, wire_sendFrame, now_sendFrame, burst]
    exact List.mem_cons_self

-- Host buffers at their cut-off

/-- A cyclic buffer that has been sent before and is not fresh (R67, R168). -/
def lateBuf (x : HostBuffer) : Bool := !bufOneShot x && x.last.isSome && !x.fresh

/-- A buffer after its cut-off. -/
def cutOff (x : HostBuffer) : HostBuffer := { x with stale := x.stale || lateBuf x }

/-- The cut-off of one buffer. -/
def cutBuf (i : Sixteen) (s : State) : State :=
  if lateBuf s.wl.buf[i] then haLate .wls 0 11 (modBuf i (fun x => { x with stale := true }) s) else s

theorem bufferCutOff_eq (hb : wlBank s = some b) (hr : wlRuns s = true) (ha : assisted s .wls 0 = true) :
    bufferCutOff s = forEach allSixteen cutBuf (advanceTo (intoCycle s (dynStart b - 2000)) s) := by
  simp only [bufferCutOff, hb, hr, ha, Bool.and_self, if_true]
  rfl

theorem untimed_cutBuf {i : Sixteen} : untimed (cutBuf i s) = untimed s := by
  unfold cutBuf haLate
  split <;> simp

theorem cutOff_late {x : HostBuffer} (h : lateBuf x = true) : cutOff x = { x with stale := true } := by
  rw [cutOff, h, Bool.or_true]

theorem cutOff_notLate {x : HostBuffer} (h : lateBuf x = false) : cutOff x = x := by
  rw [cutOff, h, Bool.or_false]

theorem cutBuf_buf {i : Sixteen} : (cutBuf i s).wl.buf = vmod s.wl.buf i cutOff := by
  unfold cutBuf
  split
  · next h =>
    rw [haLate, count_wl, irq_wl]
    change vmod s.wl.buf i (fun x => { x with stale := true }) = _
    exact vmod_congr (cutOff_late h).symm
  · next h =>
    exact ((congrArg (vset s.wl.buf i) (cutOff_notLate (Bool.eq_false_iff.mpr h))).trans (vset_self _ _)).symm

theorem cutOff_cutOff (x : HostBuffer) : cutOff (cutOff x) = cutOff x := by
  simp [cutOff, lateBuf, bufOneShot]

theorem cutBufs_buf (l : List Sixteen) (j : Sixteen) (s : State) :
    (forEach l cutBuf s).wl.buf[j] = if j ∈ l then cutOff s.wl.buf[j] else s.wl.buf[j] := by
  unfold forEach
  induction l generalizing s with
  | nil => rfl
  | cons i l ih =>
    rw [List.foldl_cons, ih, cutBuf_buf]
    by_cases hj : j = i
    · subst hj
      simp only [vmod_same, cutOff_cutOff, List.mem_cons_self, if_true, ite_self]
    · simp only [vmod_other hj, List.mem_cons, hj, false_or]

-- Flags of `IRQ_STAT` stay set

theorem irq_keepsFlag {p : Pg} {i n k : Nat} (wf : regsWf s.regs = true) (h : bit (reg s p i Reg.IRQ_STAT) k = true) :
    bit (reg (irq p i n s) p i Reg.IRQ_STAT) k = true := by
  rw [bit] at h
  rw [reg_eq_regAt, irq_regAt_same wf, bit, BitVec.getLsbD_or, h, Bool.true_or]

theorem count_keepsFlag {p : Pg} {i n k : Nat} (wf : regsWf s.regs = true) (h : bit (reg s p i Reg.IRQ_STAT) k = true) :
    bit (reg (count p i n s) p i Reg.IRQ_STAT) k = true := by
  have written : ∀ v, bit (reg (setReg p i (Reg.CNT + 4 * n) v s) p i Reg.IRQ_STAT) k = true := fun v => by
    rwa [reg_setReg_other wf (by simp [Reg.CNT, Reg.IRQ_STAT]; omega)]
  unfold count countBy
  dsimp only
  split
  · exact written _
  · refine irq_keepsFlag (regsWf_setFlag (regsWf_setReg wf)) ?_
    rw [setFlag, setFld, reg_setReg_other (regsWf_setReg wf) (by decide)]
    exact written _

theorem regsWf_cutBuf {i : Sixteen} (wf : regsWf s.regs = true) : regsWf (cutBuf i s).regs = true := by
  unfold cutBuf haLate
  split
  · exact regsWf_count (regsWf_irq (s := modBuf i _ s) wf)
  · exact wf

theorem cutBuf_keepsFlag {i : Sixteen} {k : Nat} (wf : regsWf s.regs = true) (h : bit (reg s .wls 0 Reg.IRQ_STAT) k = true) :
    bit (reg (cutBuf i s) .wls 0 Reg.IRQ_STAT) k = true := by
  unfold cutBuf haLate
  split
  · exact count_keepsFlag (regsWf_irq (s := modBuf i _ s) wf) (irq_keepsFlag (s := modBuf i _ s) wf h)
  · exact h

/-- A buffer that is late at its cut-off raises `HALATE` (R67). -/
theorem cutBuf_haLate {i : Sixteen} (wf : regsWf s.regs = true) (h : lateBuf s.wl.buf[i] = true) :
    bit (reg (cutBuf i s) .wls 0 Reg.IRQ_STAT) irqHaLate = true := by
  simp only [cutBuf, h, if_true, haLate]
  exact count_keepsFlag (regsWf_irq (s := modBuf i _ s) wf) (irq_bit (s := modBuf i _ s) wf (by decide))

theorem cutBufs_keepFlag {k : Nat} (l : List Sixteen) (s : State) (wf : regsWf s.regs = true)
    (h : bit (reg s .wls 0 Reg.IRQ_STAT) k = true) : bit (reg (forEach l cutBuf s) .wls 0 Reg.IRQ_STAT) k = true := by
  unfold forEach
  induction l generalizing s with
  | nil => exact h
  | cons i l ih => exact ih (cutBuf i s) (regsWf_cutBuf wf) (cutBuf_keepsFlag wf h)

theorem cutBufs_haLate {j : Sixteen} (l : List Sixteen) (s : State) (wf : regsWf s.regs = true) (hj : j ∈ l)
    (h : lateBuf s.wl.buf[j] = true) : bit (reg (forEach l cutBuf s) .wls 0 Reg.IRQ_STAT) irqHaLate = true := by
  induction l generalizing s with
  | nil => exact nomatch hj
  | cons i l ih =>
    by_cases e : j = i
    · subst e
      exact cutBufs_keepFlag l (cutBuf j s) (regsWf_cutBuf wf) (cutBuf_haLate wf h)
    · refine ih (cutBuf i s) (regsWf_cutBuf wf) ((List.mem_cons.mp hj).resolve_left e) ?_
      rw [cutBuf_buf, vmod_other e]
      exact h

-- The symbol window

/-- What one channel does in the symbol window while every loop-back agrees (R192). -/
def symbolChannel (c : Chan) (s : State) : State :=
  if canSend s s.clk.refHub c none then putBurst s.clk.refHub c 0 s.clk.now casSyms 0 (loadEq c none s) else s

theorem symbolWindow_eq (hb : wlBank s = some b) (hr : wlRuns s = true) (ho : s.wl.op = 1 ∨ s.wl.op = 2) (hc : cycOf s = 0)
    (hw : b.symWin ≠ 0) :
    symbolWindow 0 s = symbolChannel 1 (symbolChannel 0 (advanceTo (intoCycle s (symStart b)) s)) := by
  have go : wlRuns s = true ∧ (s.wl.op = 1 ∨ s.wl.op = 2) ∧ cycOf s = 0 ∧ b.symWin ≠ 0 := ⟨hr, ho, hc, hw⟩
  simp only [symbolWindow, hb, if_pos go, zero_getLsbD, loopBack_agrees]
  rfl

theorem untimed_symbolChannel {c : Chan} : untimed (symbolChannel c s) = untimed s := by
  unfold symbolChannel
  split <;> simp

theorem onAir_symbolChannel {c : Chan} : OnAir s (symbolChannel c s) := by
  unfold symbolChannel
  split
  · exact ⟨(sched_of_offAir (offAir_loadEq (c := c) (n := none)) :), rfl, fun x hx => List.mem_cons_of_mem _ hx⟩
  · exact .refl

theorem symbolChannel_sends {c : Chan} (h : canSend s s.clk.refHub c none = true) :
    ⟨s.clk.refHub, c, 0, s.clk.now, casSyms, 0⟩ ∈ (symbolChannel c s).wl.wire := by
  rw [symbolChannel, if_pos h]
  exact List.mem_cons_self

/-- R192: the collision-avoidance symbol is on the wire of every channel on which the reference hub can send. -/
theorem symbolChannels_send {u : State} (same : sched u = sched s) (c : Chan) (h : canSend s s.clk.refHub c none = true) :
    ⟨s.clk.refHub, c, 0, (symbolChannel 1 (symbolChannel 0 u)).clk.now, casSyms, 0⟩ ∈ (symbolChannel 1 (symbolChannel 0 u)).wl.wire := by
  have sends : ∀ v, sched v = sched s → ⟨s.clk.refHub, c, 0, v.clk.now, casSyms, 0⟩ ∈ (symbolChannel c v).wl.wire := fun v e => by
    rw [← refHub_of_sched e] at h ⊢
    exact symbolChannel_sends ((canSend_of_sched e v.clk.refHub c none).trans h)
  rw [onAir_symbolChannel.now, onAir_symbolChannel.now]
  match c, sends with
  | 0, sends => exact onAir_symbolChannel.wire _ (sends u same)
  | 1, sends =>
    have last := sends (symbolChannel 0 u) (onAir_symbolChannel.sched.trans same)
    rwa [onAir_symbolChannel.now] at last

-- The commands

theorem runWlc_on {f : State → State} (on : s.clk.on = true) :
    runWlc f s = .next (noteReady .wlc 1 (noteReady .wlc 0 (f s))) := run_on (f := fun s => noteReady .wlc 1 (noteReady .wlc 0 (f s))) on

/-- R151: the minislot counter of a channel rises by 1 in a minislot in which no frame starts. -/
theorem exec_minislot_noRow (on : s.clk.on = true) {c : Chan} (h : MinislotRuns s b c) (hr : dynRow s b c (s.wl.mini[c] + 1) = none) :
    ∃ t, exec (.minislot ⟨c, false⟩) s = .next t ∧ t.wl.mini[c] = s.wl.mini[c] + 1 ∧ t.wl.spent[c] = s.wl.spent[c] + 1 ∧
      t.wl.mini[other c] = s.wl.mini[other c] ∧ t.wl.wire = s.wl.wire ∧ t = { s with
        clk := { s.clk with now := t.clk.now }, wl := t.wl, regs := t.regs, link := t.link, lanePriv := t.lanePriv } := by
  refine ⟨minislot c false s, run_on on, ?_⟩
  rw [minislot_noRow h hr]
  refine ⟨?_, ?_, ?_, ?_, eq_of_untimed (untimed_loadEq.trans untimed_minislotBegun)⟩
  · rw [mini_of_offAir offAir_loadEq]
    exact vset_same
  · rw [spent_of_offAir offAir_loadEq]
    exact vset_same
  · rw [mini_of_offAir offAir_loadEq, minislotBegun, modWl_wl, advanceTo_wl]
    exact vset_other (other_ne c)
  · rw [wire_of_offAir offAir_loadEq, minislotBegun, modWl_wl, advanceTo_wl]

/-- R67, R168: every cyclic buffer that is not fresh is stale from its cut-off on, with `HALATE`. -/
theorem exec_hostBufferCutOff (on : s.clk.on = true) (wf : regsWf s.regs = true) (hb : wlBank s = some b) (hr : wlRuns s = true)
    (ha : assisted s .wls 0 = true) : ∃ t, exec .hostBufferCutOff s = .next t ∧
      (∀ i : Sixteen, (t.wl.buf[i]).stale =
        ((s.wl.buf[i]).stale || (!bufOneShot s.wl.buf[i] && (s.wl.buf[i]).last.isSome && !(s.wl.buf[i]).fresh))) ∧
      (∀ i : Sixteen, bufOneShot s.wl.buf[i] = false → (s.wl.buf[i]).last.isSome = true → (s.wl.buf[i]).fresh = false →
        bit (reg t .wls 0 Reg.IRQ_STAT) irqHaLate = true) ∧
      t = { s with clk := { s.clk with now := t.clk.now }, wl := t.wl, regs := t.regs, link := t.link, lanePriv := t.lanePriv } := by
  have every : ∀ i : Sixteen, i ∈ allSixteen := by decide
  have wf' : regsWf (advanceTo (intoCycle s (dynStart b - 2000)) s).regs = true :=
    (regKept_advanceTo (k := regKey .wls 0 Reg.MODE) (by decide) (by decide)).wf wf
  refine ⟨bufferCutOff s, run_on on, ?_⟩
  rw [bufferCutOff_eq hb hr ha]
  refine ⟨fun i => ?_, fun i h1 hl hf => ?_, eq_of_untimed ((forEach_preserves (fun _ _ => untimed_cutBuf) _ _).trans untimed_advanceTo)⟩
  · rw [cutBufs_buf, if_pos (every i), advanceTo_wl]
    rfl
  · refine cutBufs_haLate _ _ wf' (every i) ?_
    rw [advanceTo_wl, lateBuf, h1, hl, hf]
    rfl

/-- Settles O43: each command's effect on the wire, the counters and the buffers, from the equations of its meaning. -/
theorem wearlineSending : Obligations.WearlineSending := by
  intro s b on wf hb hr
  refine ⟨fun k h c r p h1 hk hrow hn hs hp => ⟨fun ht => ?_, fun ht hk => ?_, fun ht hk hn => slotFrame_null ht hk hn hp, ?_⟩,
    fun c ho hkept hl hm => ?_, fun ha => ?_, fun ho hc hw => ?_⟩
  · exact Option.some.inj (hp.symm.trans (slotFrame_training ht))
  · exact Option.some.inj (hp.symm.trans (slotFrame_sync ht hk))
  · obtain ⟨g, hg⟩ := staticSlot_sends hb hr h1 hk hrow hn hs hp
    have sent := onAir_staticSlot hb hr h1 hk
    refine ⟨staticSlot k.toNat 0 s, g, runWlc_on on, hg, ?_, ?_, (tag_of_sched sent.sched).trans (tag_of_sched sched_slotBegun)⟩
    · rw [sent.now, now_slotBegun]; exact le_max_right _ _
    · rw [sent.now, now_slotBegun]; exact le_max_left _ _
  · have runs : MinislotRuns s b c := ⟨hb, hr, ho, hkept, hl, hm⟩
    exact ⟨fun hrow => exec_minislot_noRow on runs hrow,
      fun r kind p hrow hn hc hp hf => ⟨minislot c false s, run_on on, minislot_own wf runs hrow hn hc hp hf⟩⟩
  · exact exec_hostBufferCutOff on wf hb hr ha
  · refine ⟨symbolWindow 0 s, run_on on, ?_⟩
    rw [symbolWindow_eq hb hr ho hc hw]
    exact ⟨symbolChannels_send sched_advanceTo,
      eq_of_untimed (untimed_symbolChannel.trans (untimed_symbolChannel.trans untimed_advanceTo))⟩

end Sys2Proof.Machine

/-! SUPPORT. The invariant of the machine (R53, R62, R69): reset has it, and every command keeps it. -/

namespace Sys2Proof.Machine

variable {s t : State} {c : Instr}

/-- What keeps the canonical forms and the bound of the FIFO keeps the invariant. -/
theorem Keeps.inv (h : Keeps s t) (i : s.Inv) : t.Inv := by
  obtain ⟨hregs, hmem, hfifo⟩ := i
  exact ⟨h.regs hregs, h.mem hmem, h.fifo hfifo⟩

/-- A power good starts from an empty register file, empty memory and an empty FIFO (R530). -/
theorem powerGood_inv : (powerGood s).Inv := ⟨rfl, rfl, Nat.zero_le _⟩

/-- Every command keeps the invariant: a power good restores it, the others keep its three parts. -/
theorem exec_inv (i : s.Inv) (h : exec c s = .next t) : t.Inv := by
  by_cases moves : movesCycle c = false
  · exact (exec_inCycle moves h).toKeeps.inv i
  · cases c with
    | syncInstant => exact (execSyncInstant_keeps h).inv i
    | powerGood => cases h; exact powerGood_inv
    | staticSlot => exact (execStaticSlot_keeps h).inv i
    | minislot => exact (execMinislot_keeps h).inv i
    | symbolWindow => exact (execSymbolWindow_keeps h).inv i
    | frameReceived => exact (execFrameReceived_keeps h).inv i
    | listenTimerExpiry => exact (execListenTimerExpiry_keeps h).inv i
    | imageLoadComplete => exact (execImageLoadComplete_keeps h).inv i
    | hubFunctionsReady => exact (execHubFunctionsReady_keeps h).inv i
    | shutdown => exact (execShutdown_keeps h).inv i
    | _ => exact (moves rfl).elim

/-- Settles O14: a step idles, or runs one command on the state that keeps the rest of the queue. -/
theorem stepKeepsInv : Obligations.StepKeepsInv := by
  intro s t i h
  unfold step at h
  split at h
  · cases h; exact i
  · refine exec_inv ?_ h
    obtain ⟨hregs, hmem, hfifo⟩ := i
    exact ⟨hregs, hmem, hfifo⟩

/-- Settles O15: at reset no register differs from its reset value, no byte from 0, and no write is staged. -/
theorem resetInv : Obligations.ResetInv := ⟨rfl, rfl, Nat.zero_le _⟩

-- BAR2 accesses, within the BAR and past its end (R45)

theorem exec_bar2Write_within {q : Port} {off : BitVec 28} {d : List Byte} (h : off.toNat + d.length ≤ 2 ^ 28) :
    exec (.bar2Write q off d) s = run (bar2Write q off.toNat d) s := if_pos h

theorem exec_bar2Write_past {q : Port} {off : BitVec 28} {d : List Byte} (h : 2 ^ 28 < off.toNat + d.length) :
    exec (.bar2Write q off d) s = .fault .outsideBar := if_neg (Nat.not_le_of_gt h)

theorem exec_bar2Read_within {q : Port} {off : BitVec 28} {n : BitVec 13} {x : Bool} (h : off.toNat + n.toNat ≤ 2 ^ 28) :
    exec (.bar2Read q off n x) s = run (bar2Read q off.toNat n.toNat x) s := if_pos h

theorem exec_bar2Read_past {q : Port} {off : BitVec 28} {n : BitVec 13} {x : Bool} (h : 2 ^ 28 < off.toNat + n.toNat) :
    exec (.bar2Read q off n x) s = .fault .outsideBar := if_neg (Nat.not_le_of_gt h)

/-- Settles O12: a BAR2 access within the BAR runs, and every other command's meaning is a run by its form. -/
theorem everyCommandAnswers : Obligations.EveryCommandAnswers := by
  refine ⟨fun c s wf => ?_, fun s q off d => exec_bar2Write_past, fun s q off n x => exec_bar2Read_past⟩
  cases c with
  | bar2Write q off d =>
    simp only [Instr.wf, Bool.and_eq_true, decide_eq_true_eq] at wf
    exact ⟨_, exec_bar2Write_within wf.2⟩
  | bar2Read q off n x =>
    simp only [Instr.wf, Bool.and_eq_true, decide_eq_true_eq] at wf
    exact ⟨_, exec_bar2Read_within wf.2⟩
  | _ => exact ⟨_, rfl⟩

end Sys2Proof.Machine

/-! SUPPORT. Bits and fields of a word, and what an event of a page leaves of the host link (R62, R66). -/

namespace Sys2Proof.Machine

variable {s t : State}

-- Bits and fields

/-- A field that is set, bit by bit. -/
theorem getLsbD_setField {n hi lo v j : Nat} {w : BitVec n} (h : lo ≤ hi) (hj : j < n) : (setField w hi lo v).getLsbD j =
    if lo ≤ j ∧ j ≤ hi then v.testBit (j - lo) else w.getLsbD j := by
  have mask : ∀ x, (x % 2 ^ (hi + 1 - lo) * 2 ^ lo).testBit j = (decide (lo ≤ j ∧ j ≤ hi) && x.testBit (j - lo)) := fun x => by
    rw [Nat.testBit_mul_two_pow, Nat.testBit_mod_two_pow]
    grind
  have ones : ((2 ^ (hi + 1 - lo) - 1) * 2 ^ lo).testBit j = decide (lo ≤ j ∧ j ≤ hi) := by
    rw [Nat.testBit_mul_two_pow, Nat.testBit_two_pow_sub_one]
    grind
  simp only [setField, BitVec.getLsbD_or, BitVec.getLsbD_and, BitVec.getLsbD_not, BitVec.getLsbD_ofNat, hj, decide_true, Bool.true_and,
    mask, ones]
  split <;> simp [*]

theorem getLsbD_setBit_same {n i : Nat} {w : BitVec n} {x : Bool} (h : i < n) : (setBit w i x).getLsbD i = x := by
  rw [setBit, getLsbD_setField (Nat.le_refl i) h, if_pos ⟨Nat.le_refl i, Nat.le_refl i⟩, Nat.sub_self]
  cases x <;> rfl

theorem getLsbD_setBit_other {n i j : Nat} {w : BitVec n} {x : Bool} (h : j ≠ i) : (setBit w i x).getLsbD j = w.getLsbD j := by
  by_cases hj : j < n
  · rw [setBit, getLsbD_setField (Nat.le_refl i) hj, if_neg (by omega)]
  · rw [BitVec.getLsbD_of_ge _ _ (Nat.not_lt.mp hj), BitVec.getLsbD_of_ge _ _ (Nat.not_lt.mp hj)]

theorem testBit_field {n hi lo j : Nat} {w : BitVec n} (h : lo ≤ hi) :
    (field w hi lo).testBit j = (decide (j ≤ hi - lo) && w.getLsbD (lo + j)) := by
  rw [field, Nat.testBit_mod_two_pow, Nat.testBit_div_two_pow, ← BitVec.testBit_toNat, Nat.add_comm j lo]
  congr 1
  exact decide_eq_decide.mpr (by omega)

/-- A field reads as it was set, as far as it holds the value. -/
theorem field_setField {n hi lo v : Nat} {w : BitVec n} (h : lo ≤ hi) (hn : hi < n) :
    field (setField w hi lo v) hi lo = v % 2 ^ (hi + 1 - lo) := by
  refine Nat.eq_of_testBit_eq fun j => ?_
  rw [testBit_field h, Nat.testBit_mod_two_pow]
  by_cases hj : j ≤ hi - lo
  · rw [getLsbD_setField h (by omega), if_pos (by omega), Nat.add_sub_cancel_left, decide_eq_true hj, decide_eq_true (by omega : j < hi + 1 - lo)]
  · rw [decide_eq_false hj, decide_eq_false (by omega : ¬ j < hi + 1 - lo), Bool.false_and, Bool.false_and]

/-- The code that `ERR` shows after an error is recorded (R62). -/
theorem recordErr_code {p : Pg} {i c : Nat} (wf : regsWf s.regs = true) (hc : c < 2 ^ 16) :
    field (reg (recordErr p i c s) p i Reg.ERR) 15 0 = c := by
  rw [recordErr_reg wf, field, BitVec.toNat_ofNat]
  omega

/-- An error that is recorded leaves `ERR` other than 0 (R62). -/
theorem recordErr_ne_zero {p : Pg} {i c : Nat} (wf : regsWf s.regs = true) : reg (recordErr p i c s) p i Reg.ERR ≠ 0 := by
  rw [recordErr_reg wf]
  intro h
  have := congrArg BitVec.toNat h
  rw [BitVec.toNat_ofNat] at this
  simp at this
  omega

-- The host link

/-- A host link without its MSI-X tables and messages: what an interrupt leaves of it (R66). -/
def calm (l : HostLink) : HostLink := { l with msix := Vector.replicate 2 [], sent := [] }

@[simp] theorem calm_sendVector {v : Nat} {q : Port} : calm (sendVector v q s).link = calm s.link := by
  unfold sendVector
  split
  · dsimp only
    split <;> rfl
  · rfl

@[simp] theorem calm_sendBoth {v : Nat} : calm (sendBoth v s).link = calm s.link := by simp [sendBoth]

@[simp] theorem calm_irqMask {p : Pg} {i : Nat} {m : Word} : calm (irqMask p i m s).link = calm s.link := by
  unfold irqMask withRise
  dsimp only
  split <;> simp

@[simp] theorem calm_irq {p : Pg} {i b : Nat} : calm (irq p i b s).link = calm s.link := calm_irqMask

@[simp] theorem calm_irqIf {x : Bool} {p : Pg} {i b : Nat} : calm (irqIf x p i b s).link = calm s.link := by
  unfold irqIf
  split <;> simp

@[simp] theorem calm_recordErr {p : Pg} {i c : Nat} : calm (recordErr p i c s).link = calm s.link := by simp [recordErr]

@[simp] theorem calm_wrapped {p : Pg} {i n : Nat} : calm (wrapped p i n s).link = calm s.link := by simp [wrapped]

@[simp] theorem calm_count {p : Pg} {i n : Nat} : calm (count p i n s).link = calm s.link := by
  unfold count countBy
  dsimp only
  split <;> simp

@[simp] theorem calm_countPriv {p : Pg} {n k : Nat} : calm (countPriv p n k s).link = calm s.link := by
  unfold countPriv
  dsimp only
  split <;> simp

@[simp] theorem calm_occupancy {n : Nat} : calm (occupancy n s).link = calm s.link := by
  unfold occupancy
  dsimp only
  split <;> split <;> split <;> simp

@[simp] theorem calm_advance {n : Nat} : calm (advance n s).link = calm s.link := by simp [advance]

@[simp] theorem calm_advanceTo {n : Nat} : calm (advanceTo n s).link = calm s.link := by simp [advanceTo]

@[simp] theorem calm_haLate {p : Pg} {i n : Nat} : calm (haLate p i n s).link = calm s.link := by simp [haLate]

section
variable {l m : HostLink} (h : calm l = calm m)
include h

theorem fifo_of_calm : l.fifo = m.fifo := (congrArg HostLink.fifo h :)
theorem stalled_of_calm : l.stalled = m.stalled := (congrArg HostLink.stalled h :)
theorem bundle_of_calm : l.bundle = m.bundle := (congrArg HostLink.bundle h :)
theorem accstat_of_calm : l.accstat = m.accstat := (congrArg HostLink.accstat h :)
theorem readData_of_calm : l.readData = m.readData := (congrArg HostLink.readData h :)
theorem bulkData_of_calm : l.bulkData = m.bulkData := (congrArg HostLink.bulkData h :)
theorem nowHi_of_calm : l.nowHi = m.nowHi := (congrArg HostLink.nowHi h :)
theorem portUp_of_calm : l.portUp = m.portUp := (congrArg HostLink.portUp h :)

end

-- Frames

@[simp] theorem quiet_setReg {p : Pg} {i off : Nat} {v : Word} : quiet (setReg p i off v s) = quiet s := rfl
@[simp] theorem quiet_modLink {f : HostLink → HostLink} : quiet (modLink f s) = quiet s := rfl
@[simp] theorem quiet_returnRead {q : Port} {v : Word} : quiet (returnRead q v s) = quiet s := rfl
@[simp] theorem quiet_recordErr {p : Pg} {i c : Nat} : quiet (recordErr p i c s) = quiet s := by simp [quiet]
@[simp] theorem quiet_irqMask {p : Pg} {i : Nat} {m : Word} : quiet (irqMask p i m s) = quiet s := by simp [quiet]
@[simp] theorem quiet_sendBoth {v : Nat} : quiet (sendBoth v s) = quiet s := by simp [quiet]
@[simp] theorem quiet_chg {p : Pg} {i : Nat} : quiet (chg p i s) = quiet s := rfl

end Sys2Proof.Machine

/-! SUPPORT. Accesses of the host, case by case: which window takes an access, and what a write does there (R46, R48, R53 to R55, R69
to R71). -/

namespace Sys2Proof.Machine

variable {s t : State} {q : Port} {off b : Nat} {v : Word} {whole : Bool} {w : PostedWrite}

-- Access flags (R68)

@[simp] theorem quiet_flagAccess : quiet (flagAccess q b off s) = quiet s := by simp [flagAccess]

theorem flagAccess_accstat : (flagAccess q b off s).link.accstat = vset s.link.accstat q (setBit s.link.accstat[q] b true) :=
  accstat_of_calm calm_count

theorem flagAccess_fifo : (flagAccess q b off s).link.fifo = s.link.fifo := (fifo_of_calm calm_count).trans rfl
theorem flagAccess_stalled : (flagAccess q b off s).link.stalled = s.link.stalled := (stalled_of_calm calm_count).trans rfl
theorem flagAccess_readData : (flagAccess q b off s).link.readData = s.link.readData := (readData_of_calm calm_count).trans rfl
theorem flagAccess_bulkData : (flagAccess q b off s).link.bulkData = s.link.bulkData := (bulkData_of_calm calm_count).trans rfl

/-- An access sets its flag at its port. -/
theorem flagAccess_sets (hb : b < 32) : ((flagAccess q b off s).link.accstat[q]).getLsbD b = true := by
  rw [flagAccess_accstat, vset_same, getLsbD_setBit_same hb]

/-- It leaves the port's other flags. -/
theorem flagAccess_keeps {k : Nat} (hk : k ≠ b) :
    ((flagAccess q b off s).link.accstat[q]).getLsbD k = (s.link.accstat[q]).getLsbD k := by
  rw [flagAccess_accstat, vset_same, getLsbD_setBit_other hk]

theorem flagAccess_regsBut (wf : regsWf s.regs = true) : RegsBut (eventKeys .mod 0 b) s (flagAccess q b off s) :=
  fun _ hk => count_regAt_other (s := modLink _ s) wf hk

-- Windows (R46, R48)

theorem wellShaped_of_aligned (h : off % 4 = 0) : wellShaped off true = true := by simp [wellShaped, h]

theorem not_wellShaped (h : whole = false ∨ off % 4 ≠ 0) : wellShaped off whole = false := by
  obtain h | h := h <;> simp [wellShaped, h]

theorem windowOf_hub (h : off < 0x400000) : windowOf off = .hub := if_pos h

theorem windowOf_cell (h : 0x400000 ≤ off) (h' : off < 0x800000) : windowOf off = .cell := by
  simp [windowOf, cellBase, privateBase, Nat.not_lt.mpr h, h']

theorem windowOf_priv (h : 0x800000 ≤ off) (h' : off < 0xC00000) : windowOf off = .priv := by
  have notCell : ¬ off < 0x400000 := by omega
  simp [windowOf, cellBase, privateBase, notCell, Nat.not_lt.mpr h, h']

-- Posted writes

theorem atPort_alive {f : State → State} (ha : s.clk.alive[q] = true) : atPort q f s = f s := if_pos ha

/-- Room in the FIFO and no write that stalled before: the ports take a write (R55). -/
theorem withheld_of_room (hf : s.link.fifo.length < 256) (hs : s.link.stalled = []) : withheld s = false := by
  simp [withheld, hs, hf]

theorem withheld_of_full (h : 256 ≤ s.link.fifo.length ∨ s.link.stalled ≠ []) : withheld s = true := by
  obtain h | h := h <;> simp [withheld, h]

/-- The commands that post a BAR0 write differ in the window that an environment chooses; their meaning is one. -/
theorem exec_posted {o : BitVec 24} {c : Instr} (on : s.clk.on = true)
    (hc : c ∈ [Instr.hubViewWrite q o v whole, .cellViewWrite q o v whole, .privateWindowWrite q o v whole]) :
    exec c s = .next (hostWrite q o.toNat v whole s) := by
  simp only [List.mem_cons, List.not_mem_nil, or_false] at hc
  obtain rfl | rfl | rfl := hc <;> exact run_on on

/-- With room, a port takes a write or, with its hub silent, does not (R47). -/
theorem hostWrite_room (hf : s.link.fifo.length < 256) (hs : s.link.stalled = []) :
    hostWrite q off v whole s = atPort q (bar0Write q off v whole) s := by
  simp only [hostWrite, atPort, withheld_of_room hf hs, Bool.false_eq_true, if_false]

theorem hostWrite_taken (ha : s.clk.alive[q] = true) (hf : s.link.fifo.length < 256) (hs : s.link.stalled = []) :
    hostWrite q off v whole s = bar0Write q off v whole s := (hostWrite_room hf hs).trans (atPort_alive ha)

theorem hostWrite_stalls (ha : s.clk.alive[q] = true) (h : 256 ≤ s.link.fifo.length ∨ s.link.stalled ≠ []) :
    hostWrite q off v whole s = stall (.bar0 q off v whole) s := by
  simp only [hostWrite, atPort_alive ha, withheld_of_full h, if_true]

theorem bar2Write_room {d : List Byte} (hf : s.link.fifo.length < 256) (hs : s.link.stalled = []) :
    bar2Write q off d s = atPort q (bulkWrite off d) s := by
  simp only [bar2Write, atPort, withheld_of_room hf hs, Bool.false_eq_true, if_false]

theorem bar2Write_taken {d : List Byte} (ha : s.clk.alive[q] = true) (hf : s.link.fifo.length < 256) (hs : s.link.stalled = []) :
    bar2Write q off d s = bulkWrite off d s := (bar2Write_room hf hs).trans (atPort_alive ha)

theorem bar2Write_stalls {d : List Byte} (ha : s.clk.alive[q] = true) (h : 256 ≤ s.link.fifo.length ∨ s.link.stalled ≠ []) :
    bar2Write q off d s = stall (.bar2 q off d) s := by
  simp only [bar2Write, atPort_alive ha, withheld_of_full h, if_true]

-- The windows' writes

theorem bar0Write_malformed (h : whole = false ∨ off % 4 ≠ 0) : bar0Write q off v whole s = flagAccess q accBadacc off s := by
  simp only [bar0Write, not_wellShaped h, Bool.false_eq_true, if_false]

theorem bar0Write_hub (ho : off < 0x400000) (h4 : off % 4 = 0) :
    bar0Write q off v true s = settleReady off (writeAddr q off v s) := by
  simp only [bar0Write, wellShaped_of_aligned h4, windowOf_hub ho, if_true]

/-- A cell-view write of an admitted module enters the staging FIFO (R53). -/
theorem bar0Write_cell (lo : 0x400000 ≤ off) (hi : off < 0x800000) (h4 : off % 4 = 0) (ad : s.boot.admitted = true) :
    bar0Write q off v true s = modLink (fun l => { l with fifo := l.fifo ++ [⟨q, off, v⟩] }) s := by
  simp only [bar0Write, wellShaped_of_aligned h4, windowOf_cell lo hi, if_true, stageWrite, ad, Bool.true_eq_false, if_false]

theorem bar0Write_priv (lo : 0x800000 ≤ off) (hi : off < 0xC00000) (h4 : off % 4 = 0) :
    bar0Write q off v true s = privateWrite q off v s := by
  simp only [bar0Write, wellShaped_of_aligned h4, windowOf_priv lo hi, if_true]

theorem bulkWrite_refused {d : List Byte} (ad : s.boot.admitted = false) : bulkWrite off d s = recordErr .mod 0 0x0100 s := if_pos ad

theorem bulkWrite_admitted {d : List Byte} (ad : s.boot.admitted = true) (hl : laneCount s ≠ 0) : bulkWrite off d s = storeBytes off d s := by
  simp only [bulkWrite, ad, Bool.true_eq_false, if_false, if_neg hl]

-- Stalled writes (R55)

@[simp] theorem quiet_stall : quiet (stall w s) = quiet s := by simp [stall]

theorem stall_stalled : (stall w s).link.stalled = s.link.stalled ++ [w] := (stalled_of_calm calm_count).trans rfl
theorem stall_fifo : (stall w s).link.fifo = s.link.fifo := (fifo_of_calm calm_count).trans rfl
theorem stall_bundle : (stall w s).link.bundle = s.link.bundle := (bundle_of_calm calm_count).trans rfl
theorem stall_accstat : (stall w s).link.accstat = s.link.accstat := (accstat_of_calm calm_count).trans rfl

/-- A write that stalls waits behind those that stalled before, and nothing of it acts. -/
theorem stall_waits : (stall w s).link.stalled = s.link.stalled ++ [w] ∧ stall w s = { s with
    link := { (stall w s).link with fifo := s.link.fifo, bundle := s.link.bundle, accstat := s.link.accstat }, regs := (stall w s).regs } := by
  refine ⟨stall_stalled, (eq_of_quiet quiet_stall).trans ?_⟩
  rw [← stall_fifo (w := w), ← stall_bundle (w := w), ← stall_accstat (w := w)]

/-- The state in which the writes `r` are those that still wait. -/
def waiting (r : List PostedWrite) (s : State) : State := { s with link := { s.link with stalled := r } }

/-- The oldest stalled write is taken once the FIFO has room. -/
theorem unstall_bar0 {r : List PostedWrite} (hf : s.link.fifo.length < 256) (hs : s.link.stalled = .bar0 q off v whole :: r) :
    unstall s = atPort q (bar0Write q off v whole) (waiting r s) := by
  simp only [unstall, if_pos hf, hs]
  rfl

theorem unstall_bar2 {r : List PostedWrite} {d : List Byte} (hf : s.link.fifo.length < 256) (hs : s.link.stalled = .bar2 q off d :: r) :
    unstall s = atPort q (bulkWrite off d) (waiting r s) := by
  simp only [unstall, if_pos hf, hs]
  rfl

theorem unstall_waits (h : 256 ≤ s.link.fifo.length ∨ s.link.stalled = []) : unstall s = s := by
  unfold unstall
  split
  · next room =>
    obtain h | h := h
    · omega
    · rw [h]
  · rfl

end Sys2Proof.Machine

/-! SUPPORT. The bulk window, malformed accesses and stalled writes (R46, R53 to R55, R69 to R71, R535). -/

namespace Sys2Proof.Machine

variable {s t : State} {q : Port} {off : Nat} {d : List Byte}

-- Bulk memory

/-- A state without its bulk memory. -/
def memless (s : State) : State := { s with mem := [] }

theorem eq_of_memless (h : memless t = memless s) : t = { s with mem := t.mem } := by
  cases t; cases s; cases h; rfl

theorem memless_storeBytes {a : Nat} : memless (storeBytes a d s) = memless s := by
  induction d generalizing a s with
  | nil => rfl
  | cons b r ih => exact ih.trans (by split <;> rfl)

theorem memWf_setByte {a : Nat} {b : Byte} (wf : memWf s.mem = true) : memWf (setByte a b s).mem = true :=
  Sparse.wf_put (d := fun _ => (0 : Byte)) wf

theorem memByte_setByte {a x : Nat} {b : Byte} (wf : memWf s.mem = true) :
    memByte (setByte a b s) x = if x = a then b else memByte s x := by
  split
  · next h => subst h; exact Sparse.get_put_same (d := fun _ => (0 : Byte)) wf
  · next h => exact Sparse.get_put_other (d := fun _ => (0 : Byte)) h wf

/-- What a byte reads after consecutive bytes were stored: the one stored there, if it lies in a writable range (R69). -/
theorem memByte_storeBytes {a x : Nat} (wf : memWf s.mem = true) : memByte (storeBytes a d s) x =
    if a ≤ x ∧ x < a + d.length ∧ writable x = true then d.getD (x - a) 0 else memByte s x := by
  induction d generalizing a s with
  | nil => rw [if_neg (by simp only [List.length_nil]; omega)]; rfl
  | cons b r ih =>
    have first : memByte (if writable a then setByte a b s else s) x = if x = a ∧ writable a = true then b else memByte s x := by
      by_cases hw : writable a = true <;> simp [hw, memByte_setByte wf]
    have wf' : memWf (if writable a then setByte a b s else s).mem = true := by
      split
      · exact memWf_setByte wf
      · exact wf
    rw [storeBytes, ih wf', first, List.length_cons]
    obtain hx | rfl | hx := Nat.lt_trichotomy x a
    · rw [if_neg (by omega), if_neg (by omega), if_neg (by omega)]
    · rw [if_neg (by omega), Nat.sub_self]
      exact if_congr (by simp) rfl rfl
    · obtain ⟨k, rfl⟩ := Nat.exists_eq_add_of_lt hx
      rw [if_neg (by omega : ¬ (a + k + 1 = a ∧ _)), show a + k + 1 - a = k + 1 by omega, show a + k + 1 - (a + 1) = k by omega]
      exact if_congr ⟨fun ⟨_, h, hw⟩ => ⟨by omega, by omega, hw⟩, fun ⟨_, h, hw⟩ => ⟨by omega, by omega, hw⟩⟩ rfl rfl

theorem storeBytes_at {k : Nat} (wf : memWf s.mem = true) (hk : k < d.length) (hw : writable (off + k) = true) :
    memByte (storeBytes off d s) (off + k) = d.getD k 0 := by
  rw [memByte_storeBytes wf, if_pos ⟨Nat.le_add_right .., Nat.add_lt_add_left hk _, hw⟩, Nat.add_sub_cancel_left]

theorem storeBytes_elsewhere {a : Nat} (wf : memWf s.mem = true) (h : a < off ∨ off + d.length ≤ a ∨ writable a = false) :
    memByte (storeBytes off d s) a = memByte s a := by
  rw [memByte_storeBytes wf, if_neg]
  rintro ⟨lo, hi, hw⟩
  obtain h | h | h := h
  · omega
  · omega
  · exact absurd hw (by simp [h])

/-- The state in which a BAR2 read has returned its bytes. -/
def bulkRead (q : Port) (off n : Nat) (s : State) : State :=
  modLink (fun l => { l with bulkData := vset l.bulkData q (memBytes s off n) }) s

theorem bar2Read_eq {n : Nat} {x : Bool} (ha : s.clk.alive[q] = true) : bar2Read q off n x s =
    if x && (laneOfRole s .second).isSome then flagAccess q accB2cmp (2 ^ 31 + off) (bulkRead q off n s) else bulkRead q off n s := by
  rw [bar2Read, atPort_alive ha]
  rfl

theorem quiet_bar2Read {n : Nat} {x : Bool} (ha : s.clk.alive[q] = true) : quiet (bar2Read q off n x s) = quiet s := by
  rw [bar2Read_eq ha]
  split
  · exact quiet_flagAccess
  · rfl

theorem bar2Read_bulkData {n : Nat} {x : Bool} (ha : s.clk.alive[q] = true) :
    (bar2Read q off n x s).link.bulkData[q] = memBytes s off n := by
  rw [bar2Read_eq ha]
  split
  · exact (congrArg (·[q]) flagAccess_bulkData).trans vset_same
  · exact vset_same

/-- A BAR2 read sets no flag of its port but `B2CMP` (R46, R71). -/
theorem bar2Read_keepsFlag {n k : Nat} {x : Bool} (ha : s.clk.alive[q] = true) (hk : k ≠ accB2cmp) :
    ((bar2Read q off n x s).link.accstat[q]).getLsbD k = (s.link.accstat[q]).getLsbD k := by
  rw [bar2Read_eq ha]
  split
  · exact flagAccess_keeps hk
  · rfl

/-- A BAR2 write sets no access flag (R46). -/
theorem bar2Write_accstat : (bar2Write q off d s).link.accstat = s.link.accstat := by
  unfold bar2Write atPort bulkWrite
  split
  · dsimp only
    split
    · exact stall_accstat
    · split
      · exact accstat_of_calm calm_recordErr
      · split
        · rfl
        · exact (congrArg (·.link.accstat) memless_storeBytes :)
  · rfl

theorem bulkWrite_error (wf : regsWf s.regs = true) (ad : s.boot.admitted = false) :
    field (reg (bulkWrite off d s) .mod 0 Reg.ERR) 15 0 = 0x0100 ∧ RegsBut (errKeys .mod 0) s (bulkWrite off d s) ∧
      bulkWrite off d s = { s with regs := (bulkWrite off d s).regs, link := (bulkWrite off d s).link } := by
  rw [bulkWrite_refused ad]
  exact ⟨recordErr_code wf (by decide), fun _ => recordErr_regAt_other wf, eq_of_quiet quiet_recordErr⟩

/-- Settles O26: a write stores its bytes one by one, a read copies them out and compares. -/
theorem bulkWindow : Obligations.BulkWindow := by
  intro s q off on ha
  refine ⟨fun d fits wf hf hs => ⟨fun ad hl => ⟨_, (exec_bar2Write_within fits).trans (run_on on), ?_⟩,
    fun ad wfr => ⟨_, (exec_bar2Write_within fits).trans (run_on on), ?_⟩⟩,
    fun n x fits => ⟨_, (exec_bar2Read_within fits).trans (run_on on), bar2Read_bulkData ha, fun hx h2 => ?_,
      eq_of_quiet (quiet_bar2Read ha)⟩⟩
  · rw [bar2Write_taken ha hf hs, bulkWrite_admitted ad hl]
    exact ⟨fun k => storeBytes_at wf, fun a => storeBytes_elsewhere wf, eq_of_memless memless_storeBytes⟩
  · rw [bar2Write_taken ha hf hs]
    exact bulkWrite_error wfr ad
  · rw [bar2Read_eq ha, hx, h2]
    exact flagAccess_sets (by decide)

-- Malformed accesses (R46)

/-- The commands that read BAR0 differ in what the other hub and the lanes read beside the register. -/
theorem exec_reads {o : BitVec 24} {whole x : Bool} {m : Vector Word 3} {c : Instr} (on : s.clk.on = true)
    (hc : c ∈ [Instr.hubViewRead q o whole x, .cellViewRead q o whole m]) :
    ∃ y n, exec c s = .next (hostRead q o.toNat whole y n s) := by
  simp only [List.mem_cons, List.not_mem_nil, or_false] at hc
  obtain rfl | rfl := hc
  · exact ⟨x, _, run_on on⟩
  · exact ⟨false, m, run_on on⟩

theorem hostRead_malformed {whole x : Bool} {m : Vector Word 3} (ha : s.clk.alive[q] = true) (h : whole = false ∨ off % 4 ≠ 0) :
    hostRead q off whole x m s = flagAccess q accBadacc off (returnRead q 0 s) := by
  simp only [hostRead, atPort_alive ha, not_wellShaped h, Bool.false_eq_true, if_false]

/-- Settles O20: each malformed access sets `BADACC` and does nothing else; BAR2 sets at most `B2CMP`. -/
theorem malformedAccess : Obligations.MalformedAccess := by
  intro s q off v whole m x on ha bad
  refine ⟨fun c hc hf hs => ⟨_, exec_posted on hc, ?_⟩, fun c hc => ?_,
    fun o d fits => ⟨_, (exec_bar2Write_within fits).trans (run_on on), bar2Write_accstat⟩,
    fun o n fits => ⟨_, (exec_bar2Read_within fits).trans (run_on on), bar2Read_keepsFlag ha (by decide)⟩⟩
  · rw [hostWrite_taken ha hf hs, bar0Write_malformed bad]
    exact ⟨flagAccess_sets (by decide), flagAccess_fifo, flagAccess_stalled, (congrArg State.priv quiet_flagAccess :),
      flagAccess_regsBut, eq_of_quiet quiet_flagAccess⟩
  · obtain ⟨y, n, e⟩ := exec_reads on hc
    refine ⟨_, e, ?_⟩
    rw [hostRead_malformed ha bad]
    exact ⟨by rw [flagAccess_readData, returnRead_link, vset_same], flagAccess_sets (by decide),
      eq_of_quiet (quiet_flagAccess.trans quiet_returnRead)⟩

-- The staging cut-off (R54)

/-- The state at a cut-off: cell time has come to it. -/
def atCutOff (s : State) : State :=
  match wlBank s with
  | some b => if s.clk.started then advanceTo (intoCycle s (symStart b)) s else s
  | none => s

theorem stagingCutOff_eq : stagingCutOff s = torqueLate (modLink (fun l => { l with bundle := l.bundle ++ l.fifo, fifo := [] }) (atCutOff s)) := by
  unfold stagingCutOff atCutOff
  rfl

theorem calm_atCutOff : calm (atCutOff s).link = calm s.link := by
  unfold atCutOff
  split
  · split <;> simp
  · rfl

theorem now_atCutOff : s.clk.now ≤ (atCutOff s).clk.now := by
  unfold atCutOff
  split
  · split <;> simp
  · exact Nat.le_refl _

/-- A state without cell time, registers, host link and the lanes' own counters. -/
def timeless (s : State) : State := { s with clk := { s.clk with now := 0 }, regs := [], link := {}, lanePriv := [] }

theorem eq_of_timeless (h : timeless t = timeless s) : t = { s with
    clk := { s.clk with now := t.clk.now }, link := t.link, regs := t.regs, lanePriv := t.lanePriv } := by
  obtain ⟨c, _⟩ := t; obtain ⟨k, _⟩ := s; cases c; cases k; cases h; rfl

theorem timeless_atCutOff : timeless (atCutOff s) = timeless s := by
  unfold atCutOff
  split
  · split <;> simp [timeless]
  · rfl

theorem timeless_torqueLate : timeless (torqueLate s) = timeless s := by
  unfold torqueLate
  split <;> simp [timeless]

theorem calm_torqueLate : calm (torqueLate s).link = calm s.link := by
  unfold torqueLate
  split <;> simp

theorem torqueLate_clk : (torqueLate s).clk = s.clk := by
  unfold torqueLate
  split <;> simp

/-- R54: at the cut-off the whole FIFO goes into the input bundle, in order. -/
theorem stagingCutOff_spec : (stagingCutOff s).link.fifo = [] ∧ (stagingCutOff s).link.bundle = s.link.bundle ++ s.link.fifo ∧
    (stagingCutOff s).link.stalled = s.link.stalled ∧ s.clk.now ≤ (stagingCutOff s).clk.now ∧ timeless (stagingCutOff s) = timeless s := by
  rw [stagingCutOff_eq]
  refine ⟨fifo_of_calm calm_torqueLate, (bundle_of_calm calm_torqueLate).trans ?_,
    (stalled_of_calm calm_torqueLate).trans (stalled_of_calm calm_atCutOff :), ?_, timeless_torqueLate.trans timeless_atCutOff⟩
  · exact congrArg₂ (· ++ ·) (bundle_of_calm calm_atCutOff) (fifo_of_calm calm_atCutOff)
  · rw [torqueLate_clk]
    exact now_atCutOff

/-- Settles O21, clause by clause. -/
theorem stagedWrites : Obligations.StagedWrites := by
  intro s on
  refine ⟨fun q off v ha lo hi h4 ad hf hs => (run_on on).trans ?_,
    fun q ha full => ⟨fun off v whole c hc => ⟨_, exec_posted on hc, ?_⟩,
      fun off d fits => ⟨_, (exec_bar2Write_within fits).trans (run_on on), ?_⟩⟩,
    fun room => ⟨fun q off v r hs ha lo hi h4 ad => (run_on on).trans ?_, fun q off v whole hs c hc => (run_on on).trans ?_,
      fun q off d hs fits => (run_on on).trans ?_⟩,
    fun h => (run_on on).trans (congrArg _ (unstall_waits h)),
    fun _ => ⟨_, run_on on, ?_⟩⟩
  · rw [hostWrite_taken ha hf hs, bar0Write_cell lo hi h4 ad]
    rfl
  · rw [hostWrite_stalls ha full]
    exact stall_waits
  · rw [bar2Write_stalls ha full]
    exact stall_waits
  · rw [unstall_bar0 room hs, atPort_alive (s := waiting r s) ha, bar0Write_cell (s := waiting r s) lo hi h4 ad]
    rfl
  · rw [unstall_bar0 room hs, ← hostWrite_room (s := waiting [] s) room rfl]
    exact (exec_posted (s := waiting [] s) on hc).symm
  · rw [unstall_bar2 room hs, ← bar2Write_room (s := waiting [] s) room rfl]
    exact ((exec_bar2Write_within fits).trans (run_on (s := waiting [] s) on)).symm
  · obtain ⟨fifo, bundle, stalled, now, frame⟩ := stagingCutOff_spec (s := s)
    exact ⟨fifo, bundle, stalled, now, eq_of_timeless frame⟩

end Sys2Proof.Machine

/-! SUPPORT. Reads of BAR0, and writes to the copies of a fenced cartridge (R48, R50, R57 to R59, R62, R76, R96). -/

namespace Sys2Proof.Machine

variable {s t : State} {q : Port} {off : Nat} {v : Word} {a : RegAddr} {m : Vector Word 3} {x : Bool}

-- What a read changes beside the value that it returns

theorem drive_readEffect {p : Pg} {i : Nat} : drive (readEffect q p i off s) = drive s := by
  unfold readEffect readSessKey
  repeat' split
  all_goals rfl

theorem accstat_readEffect {p : Pg} {i : Nat} : (readEffect q p i off s).link.accstat = s.link.accstat := by
  unfold readEffect readSessKey
  repeat' split
  all_goals rfl

/-- The state in which a read of register `a` through port `q` has returned `v`. -/
def answered (q : Port) (a : RegAddr) (v : Word) (s : State) : State := returnRead q v (readEffect q a.pg a.inst a.off s)

theorem answered_readData : (answered q a v s).link.readData[q] = v := vset_same

theorem drive_answered : drive (answered q a v s) = drive s := drive_readEffect

theorem accstat_answered : (answered q a v s).link.accstat = s.link.accstat := accstat_readEffect

theorem drive_flagAccess {b : Nat} : drive (flagAccess q b off s) = drive s := by
  rw [flagAccess, drive_count]
  rfl

-- Hub view (R50)

theorem hostRead_hub (ha : s.clk.alive[q] = true) (ho : off < 0x400000) (h4 : off % 4 = 0) :
    hostRead q off true x m s = hubRead q off x s := by
  simp only [hostRead, atPort_alive ha, wellShaped_of_aligned h4, windowOf_hub ho, if_true]

theorem hubRead_none (h : decodeWindow false off = none) : hubRead q off x s = returnRead q 0 s := by
  simp only [hubRead, h]

theorem hubRead_some (h : decodeWindow false off = some a) : hubRead q off x s =
    if x && bothHubs s && !perHub a.pg a.off then
      flagAccess q accHcmp off (answered q a (readReg s q s.clk.refHub a.pg a.inst a.off) s)
    else answered q a (readReg s q s.clk.refHub a.pg a.inst a.off) s := by
  simp only [hubRead, h]
  rfl

theorem hubRead_readData (h : decodeWindow false off = some a) :
    (hubRead q off x s).link.readData[q] = readReg s q s.clk.refHub a.pg a.inst a.off := by
  rw [hubRead_some h]
  split
  · exact (congrArg (·[q]) flagAccess_readData).trans answered_readData
  · exact answered_readData

/-- A difference of the other hub on a register that is not per hub sets `HCMP`. -/
theorem hubRead_hcmp (h : decodeWindow false off = some a) (both : bothHubs s = true) (shared : perHub a.pg a.off = false) :
    ((hubRead q off true s).link.accstat[q]).getLsbD accHcmp = true := by
  rw [hubRead_some h, both, shared]
  exact flagAccess_sets (by decide)

theorem drive_hubRead (h : decodeWindow false off = some a) : drive (hubRead q off x s) = drive s := by
  rw [hubRead_some h]
  split
  · exact drive_flagAccess.trans drive_answered
  · exact drive_answered

/-- R76: a read of `NOW_LO` returns the low half of cell time and latches the high half for its port. -/
theorem hostRead_nowLo (ha : s.clk.alive[q] = true) : hostRead q (regKey .tb 0 Reg.TB_NOW_LO) true false m s =
    returnRead q (stamp s) (modLink (fun l => { l with nowHi := vset l.nowHi q (BitVec.ofNat 32 (nsOf s / 2 ^ 32)) }) s) := by
  rw [hostRead_hub ha (by decide) (by decide), hubRead_some (a := ⟨.tb, 0, Reg.TB_NOW_LO⟩) (by decide)]
  rfl

/-- R96: a read of `LINE_LO` returns the low half of the last sync instant's phase and latches the high half for its port. -/
theorem hostRead_lineLo (ha : s.clk.alive[q] = true) : hostRead q (regKey .tb 0 Reg.TB_LINE_LO) true false m s =
    returnRead q (lo32 s.line.atSync) (modLink (fun l => { l with lineHi := vset l.lineHi q (hi32 s.line.atSync) }) s) := by
  rw [hostRead_hub ha (by decide) (by decide), hubRead_some (a := ⟨.tb, 0, Reg.TB_LINE_LO⟩) (by decide)]
  rfl

/-- NOW_LO_READ reads once cell time has moved on by its edges. -/
theorem exec_nowLoRead {dt : Nat} (on : s.clk.on = true) : exec (.nowLoRead dt q) s =
    .next (hostRead q (regKey .tb 0 Reg.TB_NOW_LO) true false (Vector.replicate 3 0) (advance dt s)) :=
  run_on (f := fun s => hostRead q (regKey .tb 0 Reg.TB_NOW_LO) true false (Vector.replicate 3 0) (advance dt s)) on

/-- Settles O23. -/
theorem hubViewReads : Obligations.HubViewReads := by
  intro s q on ha
  refine ⟨fun off x ho h4 => ⟨fun a h => ⟨_, run_on on, ?_⟩, fun h => (run_on on).trans ?_⟩, fun dt => ⟨_, exec_nowLoRead on, ?_⟩,
    ⟨_, run_on on, ?_⟩⟩
  · rw [hostRead_hub ha ho h4]
    refine ⟨hubRead_readData h, fun hx both shared => ?_, (congrArg Prod.fst (drive_hubRead h) :),
      (congrArg (·.2.1) (drive_hubRead h) :)⟩
    subst hx
    exact hubRead_hcmp h both shared
  · rw [hostRead_hub ha ho h4, hubRead_none h]
    rfl
  · have alive : (advance dt s).clk.alive[q] = true := by rw [advance_clk]; exact ha
    have ns : nsOf (advance dt s) = (s.clk.now + dt * edgeStep s.clk.rho) / 2 ^ 32 := by rw [nsOf, advance_clk]
    rw [hostRead_nowLo alive, stamp, ns]
    exact ⟨vset_same, vset_same, (vset_other (other_ne q)).trans (congrArg (·[other q]) (nowHi_of_calm calm_advance)), rfl⟩
  · rw [hostRead_lineLo ha]
    exact ⟨vset_same, vset_same, vset_other (other_ne q), rfl⟩

-- The vote of the lanes (R57)

section Vote
variable {x0 x1 x2 lead : Word} {l : List Word} (hl : l = [x0, x1, x2] ∨ l = [x1, x0, x2] ∨ l = [x1, x2, x0])
include hl

theorem voteRead_agreed (h1 : x0 = x1) (h2 : x0 = x2) : voteRead lead l = (x0, none) := by
  subst h1 h2
  obtain rfl | rfl | rfl := hl <;> simp [voteRead]

theorem voteRead_without2 (h1 : x0 = x1) (h2 : x0 ≠ x2) : voteRead lead l = (x0, some accCvote) := by
  subst h1
  obtain rfl | rfl | rfl := hl <;> simp [voteRead, h2]

theorem voteRead_without1 (h2 : x0 = x2) (h1 : x0 ≠ x1) : voteRead lead l = (x0, some accCvote) := by
  subst h2
  obtain rfl | rfl | rfl := hl <;> simp [voteRead, h1, h1.symm]

theorem voteRead_without0 (h2 : x1 = x2) (h1 : x0 ≠ x1) : voteRead lead l = (x1, some accCvote) := by
  subst h2
  obtain rfl | rfl | rfl := hl <;> simp [voteRead, h1, h1.symm]

theorem voteRead_scattered (h1 : x0 ≠ x1) (h2 : x0 ≠ x2) (h3 : x1 ≠ x2) : voteRead lead l = (lead, some accNomaj) := by
  obtain rfl | rfl | rfl := hl <;> simp [voteRead, h1, h1.symm, h2, h2.symm, h3]

end Vote

section Pair
variable {x0 x1 lead : Word} {l : List Word} (hl : l = [x0, x1] ∨ l = [x1, x0])
include hl

theorem voteRead_pair_agreed (h : x0 = x1) : voteRead lead l = (x0, none) := by
  subst h
  obtain rfl | rfl := hl <;> simp [voteRead]

theorem voteRead_pair_differs (h : x0 ≠ x1) : voteRead lead l = (lead, some accNomaj) := by
  obtain rfl | rfl := hl <;> simp [voteRead, h, h.symm]

end Pair

/-- What lane `l` reads of register `a`: its value xor the lane's mask. -/
def laneReads (s : State) (q : Port) (a : RegAddr) (m : Vector Word 3) (l : Lane) : Word :=
  readReg s q s.clk.refHub a.pg a.inst a.off ^^^ m[l]

theorem laneReads_inj {l k : Lane} : laneReads s q a m l = laneReads s q a m k ↔ m[l] = m[k] := BitVec.xor_right_inj _

theorem hostRead_cell (ha : s.clk.alive[q] = true) (lo : 0x400000 ≤ off) (hi : off < 0x800000) (h4 : off % 4 = 0) :
    hostRead q off true x m s = cellRead q off m s := by
  simp only [hostRead, atPort_alive ha, wellShaped_of_aligned h4, windowOf_cell lo hi, if_true]

section CellRead
variable {l : Lane} {w : Word} (ad : s.boot.admitted = true) (hd : decodeWindow true (off % 0x400000) = some a)
  (hl : laneOfRole s .lead = some l)
include ad hd hl

/-- A vote without a flag returns its value. -/
theorem cellRead_agreed (hv : voteRead (laneReads s q a m l) ((lanesIn s).map (laneReads s q a m)) = (w, none)) :
    cellRead q off m s = answered q a w s := by
  unfold laneReads at hv
  simp only [cellRead, ad, hd, leadLane, hl, Bool.true_eq_false, if_false, hv]
  rfl

/-- A vote with a flag sets it. -/
theorem cellRead_flagged {b : Nat} (hv : voteRead (laneReads s q a m l) ((lanesIn s).map (laneReads s q a m)) = (w, some b)) :
    cellRead q off m s = flagAccess q b off (answered q a w s) := by
  unfold laneReads at hv
  simp only [cellRead, ad, hd, leadLane, hl, Bool.true_eq_false, if_false, hv]
  rfl

end CellRead

section CellViewRead
variable {o : BitVec 24} {l : Lane} {w : Word} (on : s.clk.on = true) (ha : s.clk.alive[q] = true) (ad : s.boot.admitted = true)
  (lo : 0x400000 ≤ o.toNat) (hi : o.toNat < 0x800000) (h4 : o.toNat % 4 = 0) (hd : decodeWindow true (o.toNat % 0x400000) = some a)
  (hl : laneOfRole s .lead = some l)
include on ha ad lo hi h4 hd hl

theorem exec_cellViewRead_agreed (hv : voteRead (laneReads s q a m l) ((lanesIn s).map (laneReads s q a m)) = (w, none)) :
    ∃ t, exec (.cellViewRead q o true m) s = .next t ∧ t.link.readData[q] = w ∧ t.link.accstat = s.link.accstat := by
  refine ⟨_, run_on on, ?_⟩
  rw [hostRead_cell ha lo hi h4, cellRead_agreed ad hd hl hv]
  exact ⟨answered_readData, accstat_answered⟩

theorem exec_cellViewRead_flagged {b : Nat} (hb : b < 32)
    (hv : voteRead (laneReads s q a m l) ((lanesIn s).map (laneReads s q a m)) = (w, some b)) :
    ∃ t, exec (.cellViewRead q o true m) s = .next t ∧ t.link.readData[q] = w ∧ (t.link.accstat[q]).getLsbD b = true := by
  refine ⟨_, run_on on, ?_⟩
  rw [hostRead_cell ha lo hi h4, cellRead_flagged ad hd hl hv]
  exact ⟨(congrArg (·[q]) flagAccess_readData).trans answered_readData, flagAccess_sets hb⟩

end CellViewRead

/-- Settles O24: what the lanes read differs exactly where their masks do, and the vote is over what they read. -/
theorem cellViewReads : Obligations.CellViewReads := by
  intro s q off m a l0 l1 l2 on ha ad lo hi h4 hd hl w hw
  subst hw
  have eq {k j : Lane} (h : m[k] = m[j]) : laneReads s q a m k = laneReads s q a m j := laneReads_inj.mpr h
  have ne {k j : Lane} (h : m[k] ≠ m[j]) : laneReads s q a m k ≠ laneReads s q a m j := fun e => h (laneReads_inj.mp e)
  refine ⟨fun lanes => ?_, fun lanes => ?_⟩
  · have votes : (lanesIn s).map (laneReads s q a m) = [laneReads s q a m l0, laneReads s q a m l1, laneReads s q a m l2] ∨
        (lanesIn s).map (laneReads s q a m) = [laneReads s q a m l1, laneReads s q a m l0, laneReads s q a m l2] ∨
        (lanesIn s).map (laneReads s q a m) = [laneReads s q a m l1, laneReads s q a m l2, laneReads s q a m l0] := by
      obtain e | e | e := lanes <;> simp [e]
    exact ⟨fun h1 h2 => exec_cellViewRead_agreed on ha ad lo hi h4 hd hl (voteRead_agreed votes (eq h1) (eq h2)),
      fun h1 h2 => exec_cellViewRead_flagged on ha ad lo hi h4 hd hl (by decide) (voteRead_without2 votes (eq h1) (ne h2)),
      fun h2 h1 => exec_cellViewRead_flagged on ha ad lo hi h4 hd hl (by decide) (voteRead_without1 votes (eq h2) (ne h1)),
      fun h2 h1 => exec_cellViewRead_flagged on ha ad lo hi h4 hd hl (by decide) (voteRead_without0 votes (eq h2) (ne h1)),
      fun h1 h2 h3 => exec_cellViewRead_flagged on ha ad lo hi h4 hd hl (by decide) (voteRead_scattered votes (ne h1) (ne h2) (ne h3))⟩
  · have votes : (lanesIn s).map (laneReads s q a m) = [laneReads s q a m l0, laneReads s q a m l1] ∨
        (lanesIn s).map (laneReads s q a m) = [laneReads s q a m l1, laneReads s q a m l0] := by
      obtain e | e := lanes <;> simp [e]
    exact ⟨fun h => exec_cellViewRead_agreed on ha ad lo hi h4 hd hl (voteRead_pair_agreed votes (eq h)),
      fun h => exec_cellViewRead_flagged on ha ad lo hi h4 hd hl (by decide) (voteRead_pair_differs votes (ne h))⟩

-- The window onto one fenced cartridge (R58, R59)

theorem selected_none (h : 5 ≤ (s.link.winsel[q]).toNat) : selected s q = none := if_neg (by omega)

theorem selected_some {c : Cart} (h : (s.link.winsel[q]).toNat = c.val) : selected s q = some c := by
  rw [selected, h, if_pos c.isLt]
  exact congrArg some (Fin.ext (Nat.mod_eq_of_lt c.isLt))

theorem privateWrite_unselected (h : selected s q = none) : privateWrite q off v s = s := by
  simp only [privateWrite, h]

theorem privateWrite_rejected {c : Cart} (h : selected s q = some c) (hf : fenced s c = false) :
    privateWrite q off v s = flagAccess q accPwrej off s := by
  simp only [privateWrite, h, hf, if_true]

theorem privateWrite_applied {c : Cart} (h : selected s q = some c) (hf : fenced s c = true) (ha : privateAddr c off = some a) :
    privateWrite q off v s = privateApply c a v s := by
  simp only [privateWrite, h, hf, ha, Bool.true_eq_false, if_false]

section Apply
variable {c : Cart} {r : RegRow} (hr : regRow a.pg a.off = some r) (hl : locked s a.pg = false)
include hr hl

theorem privateApply_ro (acc : r.acc = .ro) : privateApply c a v s = ownErr c a 0x0003 s := by
  simp only [privateApply, hr, hl, acc, Bool.false_eq_true, false_and, if_false, if_true]

theorem privateApply_rw (acc : r.acc = .rw) (ho : 0x80 ≤ a.off) (spare : ownSpare c a = false) : privateApply c a v s =
    if inRange s a.pg a.inst a.off (stored a.pg a.off (v &&& r.mask)) then ownSet c a (stored a.pg a.off (v &&& r.mask)) s
    else ownErr c a 0x0004 s := by
  simp only [privateApply, hr, hl, acc, spare, Nat.not_lt.mpr ho, Bool.false_eq_true, false_and, if_false, if_true, reduceCtorEq]

end Apply

/-- Settles O25. -/
theorem privateWindow : Obligations.PrivateWindow := by
  intro s q off v on ha lo hi h4 hf hs
  have acts : exec (.privateWindowWrite q off v true) s = .next (privateWrite q off.toNat v s) :=
    (run_on on).trans (congrArg _ ((hostWrite_taken ha hf hs).trans (bar0Write_priv lo hi h4)))
  rw [acts]
  refine ⟨fun h => congrArg _ (privateWrite_unselected (selected_none h)), fun c hc => ⟨fun out => ⟨_, rfl, ?_⟩, ?_⟩⟩
  · rw [privateWrite_rejected (selected_some hc) out]
    exact ⟨flagAccess_sets (by decide), (congrArg State.priv quiet_flagAccess :), eq_of_quiet quiet_flagAccess⟩
  · intro a r w fen addr hr hl hw
    rw [privateWrite_applied (selected_some hc) fen addr]
    subst hw
    refine ⟨fun acc ho spare ok => ?_, fun acc ho spare bad => ?_, fun acc => by rw [privateApply_ro hr hl acc]⟩
    · rw [privateApply_rw hr hl acc ho spare, if_pos ok]
      rfl
    · rw [privateApply_rw hr hl acc ho spare, if_neg (by simp [bad])]

end Sys2Proof.Machine

/-! SUPPORT. Writes to registers: how a write reaches its page, when it counts in `CHG`, and what the common page layout does with it
(R8, R9, R48, R49, R62, R64, R66, R421). -/

namespace Sys2Proof.Machine

variable {s t : State} {q : Port} {p : Pg} {i off : Nat} {v : Word} {r : RegRow} {f : State → State}

-- Keys

/-- The offset in its page of a key of the register file. -/
theorem regKey_mod (h : off < 4096) : regKey p i off % 4096 = off := by
  simp only [regKey, pageAddr, cellBase]
  split <;> omega

theorem regKey_ne {p' : Pg} {i' b : Nat} (h : off < 4096) (hb : b < 4096) (ne : off ≠ b) : regKey p i off ≠ regKey p' i' b := fun e =>
  ne ((regKey_mod h).symm.trans ((congrArg (· % 4096) e).trans (regKey_mod hb)))

-- Counted and logged writes

theorem regsWf_chg (wf : regsWf s.regs = true) : regsWf (chg p i s).regs = true := regsWf_setReg wf

theorem chg_regAt_other {k : Nat} (wf : regsWf s.regs = true) (hk : k ≠ regKey p i Reg.CHG) : regAt (chg p i s) k = regAt s k :=
  regAt_setReg_other wf hk

theorem locked_of_unprotected (h : isProtected p = false) : locked s p = false := by
  cases p with
  | saf | sio => exact nomatch h
  | _ => rfl

/-- A write to an unprotected page's register that takes writes is not turned away. -/
theorem turnsAway_unprotected (hp : isProtected p = false) (acc : r.acc ≠ .ro) : turnsAway s p r = false := by
  simp [turnsAway, locked_of_unprotected hp, acc, hp]

theorem actWrite_unprotected (hp : isProtected p = false) (acc : r.acc ≠ .ro) : actWrite q p i off r f s = countedWrite p i off r f s := by
  simp only [actWrite, turnsAway_unprotected hp acc, loggedWrite, hp, Bool.false_eq_true, false_and, if_false]

theorem writeReg_unprotected (hp : isProtected p = false) (hr : regRow p off = some r) (acc : r.acc ≠ .ro) (ho : off ≠ Reg.UNLOCK) :
    writeReg q p i off v s = countedWrite p i off r (writeDefined q p i off r v) s := by
  simp only [writeReg, hr, if_neg ho, actWrite_unprotected hp acc]

/-- A write that leaves `ERR` at 0 where it stood at 0 is accepted (R62). -/
theorem staged_accepted (h : reg (f (setReg p i Reg.ERR 0 s)) p i Reg.ERR = 0) : staged p i f s = chg p i (f s) := by
  simp only [staged, accepts, h, beq_self_eq_true, if_true]

theorem staged_refused (h : reg (f (setReg p i Reg.ERR 0 s)) p i Reg.ERR ≠ 0) : staged p i f s = f s := by
  simp only [staged, accepts, beq_eq_false_iff_ne.mpr h, Bool.false_eq_true, if_false]

/-- Counting a write is all that acceptance adds. -/
theorem countedWrite_eq : countedWrite p i off r f s = f s ∨ countedWrite p i off r f s = chg p i (f s) := by
  unfold countedWrite staged
  split
  · exact .inl rfl
  · split
    · exact .inr rfl
    · exact .inl rfl

/-- A refused write does not count. -/
theorem countedWrite_refused (h : reg (f (setReg p i Reg.ERR 0 s)) p i Reg.ERR ≠ 0) : countedWrite p i off r f s = f s := by
  unfold countedWrite
  split
  · rfl
  · exact staged_refused h

theorem quiet_countedWrite (hf : quiet (f s) = quiet s) : quiet (countedWrite p i off r f s) = quiet s := by
  obtain e | e := countedWrite_eq (p := p) (i := i) (off := off) (r := r) (f := f) (s := s) <;> rw [e]
  · exact hf
  · exact hf

theorem countedWrite_regAt {k : Nat} (wf : regsWf (f s).regs = true) (hk : k ≠ regKey p i Reg.CHG) :
    regAt (countedWrite p i off r f s) k = regAt (f s) k := by
  obtain e | e := countedWrite_eq (p := p) (i := i) (off := off) (r := r) (f := f) (s := s) <;> rw [e]
  exact chg_regAt_other wf hk

theorem countedWrite_clk : (countedWrite p i off r f s).clk = (f s).clk := by
  obtain e | e := countedWrite_eq (p := p) (i := i) (off := off) (r := r) (f := f) (s := s) <;> rw [e]
  rfl

theorem countedWrite_sec : (countedWrite p i off r f s).sec = (f s).sec := by
  obtain e | e := countedWrite_eq (p := p) (i := i) (off := off) (r := r) (f := f) (s := s) <;> rw [e]
  rfl

-- Commands on a page (R60, R62)

theorem onPage_some {g : Nat} {a : RegAddr} {f : Pg → Nat → State → State} (hg : g < 0x800000)
    (hd : decodeWindow (decide (cellBase ≤ g)) (g % 0x400000) = some a) : onPage g f s = f a.pg a.inst s := by
  simp only [onPage, hd]
  exact if_pos hg

/-- With no entry due the change log stays as it is. -/
theorem flushLog_untouched (h : s.sec.touched = []) : flushLog s = s := by
  simp only [flushLog, h, forEach, List.foldl_nil, modSec]
  rw [← h]

/-- A write to an unprotected page by a command of the common page layout. -/
theorem pageWrite_unprotected {g : Nat} {a : RegAddr} (hg : g < 0x800000)
    (hd : decodeWindow (decide (cellBase ≤ g)) (g % 0x400000) = some a) (hp : isProtected a.pg = false)
    (hr : regRow a.pg off = some r) (acc : r.acc ≠ .ro) (ho : off ≠ Reg.UNLOCK)
    (ht : (writeDefined (sessionPort s) a.pg a.inst off r v s).sec.touched = []) :
    pageWrite g off v s = countedWrite a.pg a.inst off r (writeDefined (sessionPort s) a.pg a.inst off r v) s := by
  rw [pageWrite, onPage_some hg hd, writeReg_unprotected hp hr acc ho]
  exact flushLog_untouched (by rw [countedWrite_sec]; exact ht)

-- Interrupt registers

@[simp] theorem quiet_resend : quiet (resend p i s) = quiet s := by
  unfold resend
  split <;> simp

theorem resend_regs : (resend p i s).regs = s.regs := by
  unfold resend
  split <;> simp

@[simp] theorem quiet_clearIrq {h : Word} : quiet (clearIrq p i v h s) = quiet s := by simp [clearIrq]

theorem clearIrq_regs {h : Word} : (clearIrq p i v h s).regs =
    (setReg p i Reg.IRQ_STAT ((reg s p i Reg.IRQ_STAT &&& ~~~ (v &&& 0xFFFFFF0F)) ||| (h &&& 0xFFFFFF0F)) s).regs := resend_regs

theorem clearIrq_regAt_other {h : Word} {k : Nat} (wf : regsWf s.regs = true) (hk : k ≠ regKey p i Reg.IRQ_STAT) :
    regAt (clearIrq p i v h s) k = regAt s k := by
  unfold regAt
  rw [clearIrq_regs]
  exact regAt_setReg_other wf hk

/-- The bits that the common page layout implements in `IRQ_STAT`. -/
theorem irqBits_getLsbD {b : Nat} (hb : b < 32) (h : b < 4 ∨ 8 ≤ b) : (0xFFFFFF0F : Word).getLsbD b = true := by
  have every : ∀ k : Fin 32, k.val < 4 ∨ 8 ≤ k.val → (0xFFFFFF0F : Word).getLsbD k.val = true := by decide
  exact every ⟨b, hb⟩ h

/-- R64: a set wins over a clear of the same flag. -/
theorem clearIrq_bit {h : Word} {b : Nat} (wf : regsWf s.regs = true) (hb : b < 32) (hi : b < 4 ∨ 8 ≤ b) :
    bit (reg (clearIrq p i v h s) p i Reg.IRQ_STAT) b = (bit h b || (bit (reg s p i Reg.IRQ_STAT) b && !bit v b)) := by
  have held : reg (clearIrq p i v h s) p i Reg.IRQ_STAT =
      (reg s p i Reg.IRQ_STAT &&& ~~~ (v &&& 0xFFFFFF0F)) ||| (h &&& 0xFFFFFF0F) := by
    rw [reg, clearIrq_regs]
    exact reg_setReg_same wf
  simp only [held, bit, BitVec.getLsbD_or, BitVec.getLsbD_and, BitVec.getLsbD_not, irqBits_getLsbD hb hi, hb, decide_true,
    Bool.true_and, Bool.and_true, Bool.or_comm]

theorem regsWf_clearIrq {h : Word} (wf : regsWf s.regs = true) : regsWf (clearIrq p i v h s).regs = true := by
  rw [clearIrq_regs]
  exact regsWf_setReg wf

/-- Settles O27: a W1C write of `IRQ_STAT` is the clear, counted at most. -/
theorem setWinsOverClear : Obligations.SetWinsOverClear := by
  intro s g v h a b on wf hg hd _ hp ht hb hi
  have acts : onPage g.toNat (fun p i s => flushLog (writeIrqStat (sessionPort s) p i v h s)) s =
      countedWrite a.pg a.inst Reg.IRQ_STAT ⟨0x18, 1, .w1c, 0xFFFFFF0F, 0x0, false⟩ (clearIrq a.pg a.inst v h) s := by
    have row : regRow a.pg Reg.IRQ_STAT = some ⟨0x18, 1, .w1c, 0xFFFFFF0F, 0x0, false⟩ := rfl
    have taken := turnsAway_unprotected (s := s) (r := ⟨0x18, 1, .w1c, 0xFFFFFF0F, 0x0, false⟩) hp (by decide)
    rw [onPage_some hg hd]
    simp only [writeIrqStat, row, taken, Bool.false_eq_true, if_false]
    rw [actWrite_unprotected hp (by decide)]
    refine flushLog_untouched ?_
    rw [countedWrite_sec]
    exact (congrArg (·.sec.touched) quiet_clearIrq).trans ht
  refine ⟨_, run_on on, ?_⟩
  rw [acts]
  refine ⟨?_, fun k hk => ?_, eq_of_quiet (quiet_countedWrite quiet_clearIrq)⟩
  · rw [reg_eq_regAt, countedWrite_regAt (regsWf_clearIrq wf) (by simp [Reg.IRQ_STAT, Reg.CHG])]
    exact clearIrq_bit wf hb hi
  · simp only [List.mem_cons, List.not_mem_nil, or_false, not_or] at hk
    rw [countedWrite_regAt (regsWf_clearIrq wf) hk.2, clearIrq_regAt_other wf hk.1]

-- Hub-view writes (R48, R49, R62)

theorem decodeWindow_hub (ho : off < 0x400000) : decodeWindow (decide (cellBase ≤ off)) (off % 0x400000) = decodeWindow false off := by
  have notCell : ¬ cellBase ≤ off := Nat.not_le.mpr ho
  simp only [notCell, decide_false, Nat.mod_eq_of_lt ho]

theorem writeAddr_some {a : RegAddr} (ho : off < 0x400000) (hd : decodeWindow false off = some a) :
    writeAddr q off v s = writeReg q a.pg a.inst a.off v s := by
  simp only [writeAddr, decodeWindow_hub ho, hd]

theorem writeAddr_none (ho : off < 0x400000) (hd : decodeWindow false off = none) : writeAddr q off v s = s := by
  simp only [writeAddr, decodeWindow_hub ho, hd]

theorem settleReady_none (hd : decodeWindow false off = none) : settleReady off s = s := by
  simp only [settleReady, hd]

/-- The pages whose chapters attach nothing to a new value of a read-write register. -/
def plainPages : List Pg := [.pwr, .tb, .wlc, .prg, .crt]

section Plain
variable (hp : p ∈ plainPages)
include hp

theorem isProtected_plain : isProtected p = false := by
  revert p; decide

theorem cell_plain : (pgRow p).cell = false := by
  revert p; decide

theorem written_plain {old : Word} : written p i off old v s = s := by
  simp only [plainPages, List.mem_cons, List.not_mem_nil, or_false] at hp
  obtain rfl | rfl | rfl | rfl | rfl := hp <;> rfl

theorem stored_plain : stored p off v = v := if_neg fun h => by
  rw [h.1] at hp
  exact absurd hp (by decide)

/-- A register without a command of its own leaves the counting of its writes to `CHG` alone. -/
theorem countsItself_plain (hc : hubCommand q p i off v = none) : countsItself p off = false := by
  simp only [plainPages, List.mem_cons, List.not_mem_nil, or_false] at hp
  obtain rfl | rfl | rfl | rfl | rfl := hp
  · rfl
  · by_contra h
    simp only [countsItself, Bool.not_eq_false, Bool.or_eq_true, beq_iff_eq] at h
    obtain rfl | rfl := h <;> simp [hubCommand, Reg.TB_STEP_ACK, Reg.TB_HA_OFS, Reg.TB_HA_RATE, Reg.TB_LINE_CFG] at hc
  · rfl
  · rfl
  · rfl

/-- An error that the page shows does not bear on what it refuses. -/
theorem refusal_setErr (wf : regsWf s.regs = true) : refusal (setReg p i Reg.ERR 0 s) p i off v = refusal s p i off v := by
  simp only [plainPages, List.mem_cons, List.not_mem_nil, or_false] at hp
  obtain rfl | rfl | rfl | rfl | rfl := hp
  · rfl
  · rfl
  · rfl
  · by_cases h : off = Reg.PRG_CFG
    · subst h
      simp only [refusal, reg_setReg_other wf (by decide : Reg.PRG_CFG ≠ Reg.ERR)]
      rfl
    · simp only [refusal, h, false_and, and_false, if_false]
      rfl
  · rfl

theorem writeDefined_plain (ho : 0x80 ≤ off) (hc : hubCommand q p i off v = none) :
    writeDefined q p i off r v s = writeValue p i off r.mask v s := by
  simp only [writeDefined, if_neg (Nat.not_lt.mpr ho), writeBlock, cell_plain hp, Bool.false_eq_true, if_false, hc]

theorem writeValue_taken {mask : Word} (hv : refusal s p i off (v &&& mask) = none) :
    writeValue p i off mask v s = setReg p i off (v &&& mask) s := by
  simp only [writeValue, stored_plain hp, hv, written_plain hp]

theorem writeValue_refused {mask : Word} {c : Nat} (hv : refusal s p i off (v &&& mask) = some c) :
    writeValue p i off mask v s = recordErr p i c s := by
  simp only [writeValue, stored_plain hp, hv]

section Write
variable (hr : regRow p off = some r) (acc : r.acc = .rw) (ho : 0x80 ≤ off) (hc : hubCommand q p i off v = none)
include hr acc ho hc

theorem writeReg_plain : writeReg q p i off v s = staged p i (writeDefined q p i off r v) s := by
  rw [writeReg_unprotected (isProtected_plain hp) hr (by simp [acc]) (by simp only [Reg.UNLOCK]; omega), countedWrite,
    countsItself_plain hp hc, cell_plain hp, acc]
  rfl

/-- R49, R62: the implemented bits go into the register, and the write counts. -/
theorem writeReg_plain_taken (wf : regsWf s.regs = true) (hv : refusal s p i off (v &&& r.mask) = none) :
    writeReg q p i off v s = chg p i (setReg p i off (v &&& r.mask) s) := by
  have keepsErr : Reg.ERR ≠ off := by simp only [Reg.ERR]; omega
  rw [writeReg_plain hp hr acc ho hc, staged_accepted, writeDefined_plain hp ho hc, writeValue_taken hp hv]
  rw [writeDefined_plain hp ho hc, writeValue_taken hp (refusal_setErr hp wf ▸ hv), reg_setReg_other (regsWf_setReg wf) keepsErr]
  exact reg_setReg_same wf

theorem writeReg_plain_refused {c : Nat} (wf : regsWf s.regs = true) (hv : refusal s p i off (v &&& r.mask) = some c) :
    writeReg q p i off v s = recordErr p i c s := by
  rw [writeReg_plain hp hr acc ho hc, staged_refused, writeDefined_plain hp ho hc, writeValue_refused hp hv]
  rw [writeDefined_plain hp ho hc, writeValue_refused hp (refusal_setErr hp wf ▸ hv)]
  exact recordErr_ne_zero (regsWf_setReg wf)

end Write

end Plain

theorem acc_unlock (hr : regRow p Reg.UNLOCK = some r) : r.acc = .wo := by
  cases hr
  rfl

/-- R9: a write to a read-only register records the error. -/
theorem writeReg_readOnly (hr : regRow p off = some r) (acc : r.acc = .ro) (hl : locked s p = false) :
    writeReg q p i off v s = recordErr p i 0x0003 s := by
  have ho : off ≠ Reg.UNLOCK := fun e => by
    subst e
    rw [acc_unlock hr] at acc
    exact nomatch acc
  have away : turnsAway s p r = true := by simp [turnsAway, acc]
  simp only [writeReg, hr, if_neg ho, actWrite, away, if_true, turnAway, hl, acc, Bool.false_eq_true, if_false]

theorem chg_counts (wf : regsWf s.regs = true) : reg (chg p i s) p i Reg.CHG = reg s p i Reg.CHG + 1 := reg_setReg_same wf

/-- Settles O22. -/
theorem hubViewWrites : Obligations.HubViewWrites := by
  intro s q off v on ha wf ho h4 hf hs
  have acts : exec (.hubViewWrite q off v true) s = .next (settleReady off.toNat (writeAddr q off.toNat v s)) :=
    (run_on on).trans (congrArg _ ((hostWrite_taken ha hf hs).trans (bar0Write_hub ho h4)))
  have actsRo : exec (.writeToReadOnly q off v) s = exec (.hubViewWrite q off v true) s := rfl
  rw [actsRo, acts]
  refine ⟨fun a r hd hr acc hlo hp hc => ⟨fun hv => ⟨_, rfl, ?_⟩, fun hv => ⟨_, rfl, ?_⟩⟩, fun hd => ?_, fun a r hd hr acc hl => ⟨_, rfl, ?_⟩⟩
  · have notChg : a.off ≠ Reg.CHG := by simp only [Reg.CHG]; omega
    rw [writeAddr_some ho hd, writeReg_plain_taken hp hr acc hlo hc wf hv]
    refine ⟨?_, ?_, fun k hk => ?_, rfl⟩
    · rw [reg_eq_regAt, chg_regAt_other (regsWf_setReg wf) (by simpa using notChg), regAt_setReg_same wf]
    · rw [chg_counts (regsWf_setReg wf), reg_setReg_other wf notChg.symm]
    · simp only [List.mem_cons, List.not_mem_nil, or_false, not_or] at hk
      rw [chg_regAt_other (regsWf_setReg wf) hk.2, regAt_setReg_other wf hk.1]
  · rw [writeAddr_some ho hd, writeReg_plain_refused hp hr acc hlo hc wf hv]
    exact ⟨recordErr_code wf (by decide), fun _ => recordErr_regAt_other wf, eq_of_quiet quiet_recordErr⟩
  · rw [writeAddr_none ho hd, settleReady_none hd]
  · rw [writeAddr_some ho hd, writeReg_readOnly hr acc hl]
    exact ⟨recordErr_code wf (by decide), fun _ => recordErr_regAt_other wf, eq_of_quiet quiet_recordErr⟩

end Sys2Proof.Machine

/-! SUPPORT. Commands of the common page layout: `IRQ_SET`, `CTRL.EN`, `MODE.SEL`, `UNLOCK` (R62, R421). -/

namespace Sys2Proof.Machine

variable {s t : State} {p : Pg} {i off k : Nat} {v : Word}

-- Registers that an operation leaves

theorem RegKept.refl : RegKept k s s := regKept_of_regs rfl

theorem regKept_setReg (h : k ≠ regKey p i off) : RegKept k s (setReg p i off v s) :=
  ⟨regsWf_setReg, fun wf => regAt_setReg_other wf h⟩

theorem regKept_irq {b : Nat} (h : k ≠ regKey p i Reg.IRQ_STAT) : RegKept k s (irq p i b s) :=
  ⟨regsWf_irq, fun wf => irq_regAt_other wf h⟩

theorem regKept_sourceLost (h : k ≠ regKey .tb 0 Reg.IRQ_STAT) : RegKept k s (sourceLost s) := by
  unfold sourceLost enterHoldover
  split
  · split
    · exact .refl
    · refine RegKept.trans ?_ (regKept_irq h)
      exact regKept_of_regs rfl
  · exact .refl

theorem regKept_setReady (hr : k ≠ regKey p i Reg.READY) (hi : k ≠ regKey p i Reg.IRQ_STAT) : RegKept k s (setReady p i v s) := by
  unfold setReady irqIf
  dsimp only
  split
  · exact (regKept_setReg hr).trans (regKept_irq hi)
  · exact regKept_setReg hr

/-- A page that notes its `READY` touches `READY` and `IRQ_STAT` registers only (R62). -/
theorem regKept_noteReady (hr : k % 4096 ≠ Reg.READY) (hi : k % 4096 ≠ Reg.IRQ_STAT) : RegKept k s (noteReady p i s) := by
  have noReady : ∀ p' i', k ≠ regKey p' i' Reg.READY := fun p' i' e => hr (e ▸ regKey_mod (by decide))
  have noIrq : ∀ p' i', k ≠ regKey p' i' Reg.IRQ_STAT := fun p' i' e => hi (e ▸ regKey_mod (by decide))
  unfold noteReady
  dsimp only
  split
  · exact .refl
  · split
    · exact regKept_setReady (noReady _ _) (noIrq _ _)
    · exact (regKept_setReady (noReady _ _) (noIrq _ _)).trans (regKept_setReady (noReady _ _) (noIrq _ _))

@[simp] theorem quiet_irqIf {x : Bool} {b : Nat} : quiet (irqIf x p i b s) = quiet s := by simp [quiet]

@[simp] theorem quiet_setReady : quiet (setReady p i v s) = quiet s := quiet_irqIf

@[simp] theorem quiet_noteReady : quiet (noteReady p i s) = quiet s := by
  unfold noteReady
  dsimp only
  split
  · rfl
  · split <;> simp

theorem noteReady_clk : (noteReady p i s).clk = s.clk := (congrArg State.clk quiet_noteReady :)
theorem noteReady_sec : (noteReady p i s).sec = s.sec := (congrArg State.sec quiet_noteReady :)

theorem sourceLost_sec : (sourceLost s).sec = s.sec := by
  unfold sourceLost enterHoldover
  split
  · split
    · rfl
    · exact irq_sec
  · rfl

theorem sourceLost_clk : (sourceLost s).clk = s.clk := (congrArg Prod.fst drive_sourceLost :)

-- `CTRL.EN`

/-- The pages whose function a change of `CTRL.EN` neither starts nor stops, but for a stepper's duty cycle (R505). -/
def enablePages : List Pg := [.tb, .eth, .wls, .adc, .stp, .plf, .kin, .sdp]

section Enable
variable (hp : p ∈ enablePages)
include hp

theorem isProtected_enable : isProtected p = false := by
  revert p; decide

/-- What a change of `CTRL.EN` does on these pages stays off the registers, the clock and the security unit. -/
theorem enableChanged_apart {en : Bool} : (enableChanged p i en s).regs = s.regs ∧ (enableChanged p i en s).clk = s.clk ∧
    (enableChanged p i en s).sec = s.sec := by
  simp only [enablePages, List.mem_cons, List.not_mem_nil, or_false] at hp
  obtain rfl | rfl | rfl | rfl | rfl | rfl | rfl | rfl := hp
  case inr.inr.inr.inr.inl =>
    unfold enableChanged
    cases en <;> exact ⟨rfl, rfl, rfl⟩
  all_goals exact ⟨rfl, rfl, rfl⟩

theorem writeCtrl_enable {en : Bool} (hf : (pgRow p).ctrlFixed = false) : writeCtrl p i (BitVec.ofNat 32 (b2n en)) s =
    if en = enabled s p i then s else noteReady p i (enableChanged p i en (setFlag p i Reg.CTRL 0 en s)) := by
  have en0 : bit (BitVec.ofNat 32 (b2n en)) 0 = en := by cases en <;> rfl
  have en1 : bit (BitVec.ofNat 32 (b2n en)) 1 = false := by cases en <;> rfl
  have notPrg : (p == .prg) = false := beq_eq_false_iff_ne.mpr fun e => absurd hp (by rw [e]; decide)
  simp only [writeCtrl, hf, notPrg, en0, en1, Bool.false_and, Bool.false_eq_true, if_false, beq_iff_eq]

end Enable

/-- A bit of a register that is set or cleared reads so. -/
theorem flag_setFlag {b : Nat} {x : Bool} (wf : regsWf s.regs = true) (hb : b < 32) : flag (setFlag p i off b x s) p i off b = x := by
  rw [flag, setFlag, setFld, reg_setReg_same wf]
  exact getLsbD_setBit_same hb

/-- `CTRL.EN` takes the value written; the clock and the security unit stay. -/
theorem writeCtrl_enabled {en : Bool} (hp : p ∈ enablePages) (hf : (pgRow p).ctrlFixed = false) (wf : regsWf s.regs = true) :
    enabled (writeCtrl p i (BitVec.ofNat 32 (b2n en)) s) p i = en ∧
      regsWf (writeCtrl p i (BitVec.ofNat 32 (b2n en)) s).regs = true ∧
      (writeCtrl p i (BitVec.ofNat 32 (b2n en)) s).clk = s.clk ∧ (writeCtrl p i (BitVec.ofNat 32 (b2n en)) s).sec = s.sec := by
  rw [writeCtrl_enable hp hf]
  split
  · next h => exact ⟨h.symm, wf, rfl, rfl⟩
  · obtain ⟨regs, clk, sec⟩ := enableChanged_apart (i := i) (en := en) (s := setFlag p i Reg.CTRL 0 en s) hp
    have kept : RegKept (regKey p i Reg.CTRL) (setFlag p i Reg.CTRL 0 en s)
        (noteReady p i (enableChanged p i en (setFlag p i Reg.CTRL 0 en s))) :=
      (regKept_of_regs regs).trans (regKept_noteReady (by rw [regKey_mod] <;> decide) (by rw [regKey_mod] <;> decide))
    refine ⟨?_, kept.wf (regsWf_setFlag wf), noteReady_clk.trans clk, noteReady_sec.trans sec⟩
    rw [enabled, flag, reg_eq_regAt, kept.same (regsWf_setFlag wf)]
    exact flag_setFlag wf (by decide)

-- `MODE.SEL`

theorem field_sel {sel : BitVec 2} : field (sel.setWidth 32) 1 0 = sel.toNat := by
  simp only [field, BitVec.toNat_setWidth]
  omega

theorem writeMode_refused {sel : BitVec 2} (h : 2 ≤ sel.toNat ∨ (sel = 1 ∧ (pgRow p).assisted = false)) :
    writeMode p i (sel.setWidth 32) s = recordErr p i 0x0001 s := by
  have refused : 2 ≤ sel.toNat ∨ (sel.toNat = 1 ∧ (pgRow p).assisted = false) := h.imp_right fun ⟨e, a⟩ => ⟨by rw [e]; rfl, a⟩
  simp only [writeMode, field_sel, if_pos refused]

/-- The pages whose change of `MODE.SEL` leaves the clock as it is, whatever the state of their block. -/
def modePages : List Pg := [.tb, .sdp, .mnt]

section Mode
variable (hp : p ∈ modePages)
include hp

theorem isProtected_mode : isProtected p = false := by
  revert p; decide

theorem writeMode_taken {sel : BitVec 2} (h : sel.toNat ≤ 1) : writeMode p i (sel.setWidth 32) s =
    if fld s p i Reg.MODE 1 0 = sel.toNat then s else modeChanged p i sel.toNat (setFld p i Reg.MODE 1 0 sel.toNat s) := by
  have assisted : (pgRow p).assisted = true := by
    revert p; decide
  have taken : ¬ (2 ≤ sel.toNat ∨ (sel.toNat = 1 ∧ (pgRow p).assisted = false)) := by
    rw [assisted]
    simp only [Bool.true_eq_false, and_false, or_false]
    omega
  have notArm : p ≠ .arm := fun e => absurd hp (by rw [e]; decide)
  have notKin : p ≠ .kin := fun e => absurd hp (by rw [e]; decide)
  simp only [writeMode, field_sel, if_neg taken, notArm, notKin, false_and, if_false]

/-- What a change of mode does on these pages leaves `MODE`, the clock and the security unit. -/
theorem modeChanged_apart {sel : Nat} : RegKept (regKey p i Reg.MODE) s (modeChanged p i sel s) ∧
    (modeChanged p i sel s).clk = s.clk ∧ (modeChanged p i sel s).sec = s.sec := by
  simp only [modePages, List.mem_cons, List.not_mem_nil, or_false] at hp
  unfold modeChanged
  obtain rfl | rfl | rfl := hp
  · dsimp only
    split
    · refine ⟨RegKept.trans ?_ (regKept_sourceLost ?_), sourceLost_clk, sourceLost_sec⟩
      · exact regKept_of_regs rfl
      · exact regKey_ne (off := Reg.MODE) (b := Reg.IRQ_STAT) (by decide) (by decide) (by decide)
    · exact ⟨regKept_of_regs rfl, rfl, rfl⟩
  · exact ⟨.refl, rfl, rfl⟩
  · dsimp only
    split
    · exact ⟨regKept_of_regs rfl, rfl, rfl⟩
    · exact ⟨.refl, rfl, rfl⟩

theorem writeMode_selected {sel : BitVec 2} (h : sel.toNat ≤ 1) (wf : regsWf s.regs = true) :
    fld (writeMode p i (sel.setWidth 32) s) p i Reg.MODE 1 0 = sel.toNat ∧
      regsWf (writeMode p i (sel.setWidth 32) s).regs = true ∧
      (writeMode p i (sel.setWidth 32) s).clk = s.clk ∧ (writeMode p i (sel.setWidth 32) s).sec = s.sec := by
  rw [writeMode_taken hp h]
  split
  · next e => exact ⟨e, wf, rfl, rfl⟩
  · obtain ⟨kept, clk, sec⟩ := modeChanged_apart (i := i) (sel := sel.toNat) (s := setFld p i Reg.MODE 1 0 sel.toNat s) hp
    have wf' : regsWf (setFld p i Reg.MODE 1 0 sel.toNat s).regs = true := regsWf_setReg wf
    refine ⟨?_, kept.wf wf', clk, sec⟩
    rw [fld, reg_eq_regAt, kept.same wf', setFld, regAt_setReg_same wf, field_setField (by decide) (by decide)]
    exact Nat.mod_eq_of_lt (by omega)

end Mode

-- The commands

section Command
variable {r : RegRow} {g : BitVec 24} {a : RegAddr} (on : s.clk.on = true) (wf : regsWf s.regs = true) (hg : g.toNat < 0x800000)
  (hd : decodeWindow (decide (cellBase ≤ g.toNat)) (g.toNat % 0x400000) = some a) (ht : s.sec.touched = [])
include on wf hg hd ht

omit on wf in
/-- A write to a register of the common page layout on an unprotected page that acts as `f`. -/
theorem pageWrite_common {f : State → State} (hp : isProtected a.pg = false) (hr : regRow a.pg off = some r) (acc : r.acc ≠ .ro)
    (ho : off ≠ Reg.UNLOCK) (common : off < 0x80) (acts : writeCommon a.pg a.inst off v = f) (sec : (f s).sec = s.sec) :
    pageWrite g.toNat off v s = countedWrite a.pg a.inst off r f s := by
  have defined : writeDefined (sessionPort s) a.pg a.inst off r v = f := by
    funext u
    rw [writeDefined, if_pos common, acts]
  rw [pageWrite_unprotected hg hd hp hr acc ho (by rw [defined, sec, ht]), defined]

/-- R62: `IRQ_SET` sets the status bits written 1. -/
theorem exec_irqSet (hp : isProtected a.pg = false) : ∃ t, exec (.irqSet g v) s = .next t ∧
    reg t a.pg a.inst Reg.IRQ_STAT = reg s a.pg a.inst Reg.IRQ_STAT ||| (v &&& 0xFFFFFF0F) ∧
    RegsBut [regKey a.pg a.inst Reg.IRQ_STAT, regKey a.pg a.inst Reg.CHG] s t ∧ t = { s with regs := t.regs, link := t.link } := by
  have acts := pageWrite_common (s := s) (v := v) hg hd ht hp (off := Reg.IRQ_SET) rfl (by decide) (by decide) (by decide)
    (f := irqMask a.pg a.inst (v &&& 0xFFFFFF0F)) rfl (congrArg (·.sec) quiet_irqMask :)
  refine ⟨_, (run_on on).trans (congrArg Host.Outcome.next acts), ?_⟩
  have wf' : regsWf (irqMask a.pg a.inst (v &&& 0xFFFFFF0F) s).regs = true := by
    rw [irqMask_regs]
    exact regsWf_setReg wf
  refine ⟨?_, fun k hk => ?_, eq_of_quiet (quiet_countedWrite quiet_irqMask)⟩
  · rw [reg_eq_regAt, countedWrite_regAt wf' (by simp [Reg.IRQ_STAT, Reg.CHG])]
    exact (irqMask_regAt _).trans (regAt_setReg_same wf)
  · simp only [List.mem_cons, List.not_mem_nil, or_false, not_or] at hk
    rw [countedWrite_regAt wf' hk.2]
    exact (irqMask_regAt _).trans (regAt_setReg_other wf hk.1)

/-- R62: `CTRL.EN` takes the value written. -/
theorem exec_ctrlEn {en : Bool} (hp : a.pg ∈ enablePages) (hf : (pgRow a.pg).ctrlFixed = false) :
    ∃ t, exec (.ctrlEn g en) s = .next t ∧ enabled t a.pg a.inst = en ∧ t.clk = s.clk := by
  obtain ⟨enabled_eq, wf', clk, sec⟩ := writeCtrl_enabled (i := a.inst) (en := en) hp hf wf
  have acts := pageWrite_common (s := s) (v := BitVec.ofNat 32 (b2n en)) hg hd ht (isProtected_enable hp) (off := Reg.CTRL) rfl
    (by decide) (by decide) (by decide) (f := writeCtrl a.pg a.inst (BitVec.ofNat 32 (b2n en))) rfl sec
  refine ⟨_, (run_on on).trans (congrArg Host.Outcome.next acts), ?_, countedWrite_clk.trans clk⟩
  rw [enabled, flag, reg_eq_regAt, countedWrite_regAt wf' (by simp [Reg.CTRL, Reg.CHG])]
  exact enabled_eq

/-- R62: a mode that does not exist, or that the page lacks, is refused. -/
theorem exec_modeSel_refused {sel : BitVec 2} (hp : isProtected a.pg = false)
    (h : 2 ≤ sel.toNat ∨ (sel = 1 ∧ (pgRow a.pg).assisted = false)) : ∃ t, exec (.modeSel g sel) s = .next t ∧
      field (reg t a.pg a.inst Reg.ERR) 15 0 = 1 ∧ RegsBut (errKeys a.pg a.inst) s t ∧
      t = { s with regs := t.regs, link := t.link } := by
  have acts := pageWrite_common (s := s) (v := sel.setWidth 32) hg hd ht hp (off := Reg.MODE) rfl (by decide) (by decide) (by decide)
    (f := recordErr a.pg a.inst 0x0001) (funext fun _ => writeMode_refused h) (congrArg (·.sec) quiet_recordErr :)
  rw [countedWrite_refused (recordErr_ne_zero (regsWf_setReg wf))] at acts
  exact ⟨_, (run_on on).trans (congrArg Host.Outcome.next acts), recordErr_code wf (by decide), fun _ => recordErr_regAt_other wf, eq_of_quiet quiet_recordErr⟩

/-- R62: `MODE.SEL` takes a mode that the page has. -/
theorem exec_modeSel {sel : BitVec 2} (hp : a.pg ∈ modePages) (h : sel.toNat ≤ 1) :
    ∃ t, exec (.modeSel g sel) s = .next t ∧ fld t a.pg a.inst Reg.MODE 1 0 = sel.toNat ∧ t.clk = s.clk := by
  obtain ⟨mode, wf', clk, sec⟩ := writeMode_selected (i := a.inst) hp h wf
  have acts := pageWrite_common (s := s) (v := sel.setWidth 32) hg hd ht (isProtected_mode hp) (off := Reg.MODE) rfl
    (by decide) (by decide) (by decide) (f := writeMode a.pg a.inst (sel.setWidth 32)) rfl sec
  refine ⟨_, (run_on on).trans (congrArg Host.Outcome.next acts), ?_, countedWrite_clk.trans clk⟩
  rw [fld, reg_eq_regAt, countedWrite_regAt wf' (by simp [Reg.MODE, Reg.CHG])]
  exact mode

omit wf in
/-- R421: the key of a full session unlocks a protected page. -/
theorem exec_unlock {x : Session} (hs : s.sec.session = some x) (full : x.limited = false) (hp : a.pg = .saf ∨ a.pg = .sio) :
    ∃ t, exec (.unlock g x.key) s = .next t ∧ t.sec.saf = (s.sec.saf || a.pg == .saf) ∧ t.sec.sio = (s.sec.sio || a.pg == .sio) ∧
      t = { s with sec := t.sec, regs := t.regs } := by
  have unlocks : unlockPage a.pg x.key s =
      modSec (fun y => { y with saf := y.saf || a.pg == .saf, sio := y.sio || a.pg == .sio }) s := by
    simp only [unlockPage, hs, full, and_self, if_true]
  have row : regRow a.pg Reg.UNLOCK = some ⟨0x28, 1, .wo, 0xFFFFFFFF, 0x0, false⟩ := rfl
  have prot : isProtected a.pg = true := by obtain e | e := hp <;> rw [e] <;> rfl
  refine ⟨_, run_on on, ?_⟩
  rw [pageWrite, onPage_some hg hd]
  simp only [writeReg, row, if_true, writeUnlock, prot, unlocks, doIf]
  split
  · rw [flushLog_untouched (by exact ht)]
    exact ⟨rfl, rfl, rfl⟩
  · rw [flushLog_untouched (by exact ht)]
    exact ⟨rfl, rfl, rfl⟩

end Command

/-- Settles O28. -/
theorem pageCommands : Obligations.PageCommands := by
  intro s g a on wf hg hd ht
  exact ⟨fun v hp => exec_irqSet on wf hg hd ht hp, fun en hp hf => exec_ctrlEn on wf hg hd ht hp hf,
    fun sel hp h => exec_modeSel_refused on wf hg hd ht hp h, fun sel hp h => exec_modeSel on wf hg hd ht hp h,
    fun x hs full hp => exec_unlock on hg hd ht hs full hp⟩

end Sys2Proof.Machine

/-! SUPPORT. A block reset of the time base (R566): the firefly outputs follow their source, the page's registers return to their reset
values. -/

namespace Sys2Proof.Machine

variable {s t u : State} {p : Pg} {i off k : Nat} {v : Word} {n : Sixteen}

-- What the firefly outputs leave alone

/-- What no firefly output and no converter touches: the clock, bulk memory, the servo, line phase and the security unit. -/
def paced (s : State) : Clock × List Host.Cell × TimeServo × LinePhase × Security := (s.clk, s.mem, s.servo, s.line, s.sec)

theorem paced_of_quiet (h : quiet t = quiet s) : paced t = paced s := (congrArg paced h :)

/-- A step of a firefly output: the registers below the pages of the encoders stay, and so does what paces the machine. -/
structure FfyStep (s t : State) : Prop where
  kept : ∀ k < pageAddr .ffy 0, RegKept k s t
  paced : paced t = paced s

theorem FfyStep.refl : FfyStep s s := ⟨fun _ _ => .refl, rfl⟩

theorem FfyStep.trans (h : FfyStep s t) (g : FfyStep t u) : FfyStep s u :=
  ⟨fun k hk => (h.kept k hk).trans (g.kept k hk), g.paced.trans h.paced⟩

theorem FfyStep.forEach {α : Type} {f : α → State → State} (hf : ∀ a s, FfyStep s (f a s)) (l : List α) (s : State) :
    FfyStep s (forEach l f s) := by
  unfold Machine.forEach
  induction l generalizing s with
  | nil => exact .refl
  | cons a l ih => exact (hf a s).trans (ih (f a s))

/-- The firefly and the converter pages lie above all other pages that the time base reaches (R60, R61). -/
theorem lt_regKey (hk : k < pageAddr .ffy 0) (hp : p = .ffy ∨ p = .adc) : k < regKey p i off := by
  obtain rfl | rfl := hp <;>
  · simp only [regKey, pageAddr, pgRow, Bool.false_eq_true, if_false] at hk ⊢
    omega

section Pages
variable (hp : p = .ffy ∨ p = .adc)
include hp

theorem ffyStep_irq {b : Nat} : FfyStep s (irq p i b s) :=
  ⟨fun _ hk => regKept_irq (lt_regKey hk hp).ne, paced_of_quiet quiet_irq⟩

theorem ffyStep_count {c : Nat} : FfyStep s (count p i c s) := by
  refine ⟨fun k hk => ⟨regsWf_count, fun wf => count_regAt_other wf ?_⟩, paced_of_quiet quiet_count⟩
  have below (off : Nat) : k ≠ regKey p i off := (lt_regKey hk hp).ne
  simp only [eventKeys, List.mem_cons, List.not_mem_nil, below, or_self, not_false_eq_true]

end Pages

theorem ffyStep_modFfy {f : Firefly → Firefly} : FfyStep s (modFfy n f s) := ⟨fun _ _ => regKept_of_regs rfl, rfl⟩

theorem ffyStep_adcTrigger {sel delay : Nat} : FfyStep s (adcTrigger k sel delay s) := by
  refine FfyStep.forEach (fun q s => ?_) _ _
  dsimp only
  split
  · split
    · exact (ffyStep_irq (.inr rfl)).trans (ffyStep_count (.inr rfl))
    · exact ⟨fun _ _ => regKept_of_regs rfl, rfl⟩
  · exact .refl

theorem ffyStep_startPulse : FfyStep s (startPulse n s) := by
  unfold startPulse
  dsimp only
  split
  · exact ((ffyStep_irq (.inl rfl)).trans (ffyStep_count (.inl rfl))).trans ffyStep_modFfy
  · exact ffyStep_modFfy

theorem ffyStep_fireEntry : FfyStep s (fireEntry n s) := by
  unfold fireEntry
  dsimp only
  refine FfyStep.trans ?_ ffyStep_adcTrigger
  refine FfyStep.trans ?_ (ffyStep_count (.inl rfl))
  refine FfyStep.trans ?_ (ffyStep_irq (.inl rfl))
  exact FfyStep.trans ffyStep_modFfy ffyStep_startPulse

theorem ffyStep_missEntry : FfyStep s (missEntry n s) := by
  unfold missEntry
  dsimp only
  refine FfyStep.trans ?_ (ffyStep_count (.inl rfl))
  exact FfyStep.trans ffyStep_modFfy (ffyStep_irq (.inl rfl))

theorem ffyStep_advancePtr : FfyStep s (advancePtr n s).1 := by
  unfold advancePtr
  dsimp only
  split
  · exact ffyStep_modFfy
  · split
    · exact ffyStep_modFfy.trans (ffyStep_count (.inl rfl))
    · exact ffyStep_modFfy.trans (ffyStep_irq (.inl rfl))

/-- The current entry is passed over, fired or missed. -/
theorem ffyStep_tested (skip hit : Bool) : FfyStep s (if skip then s else if hit then fireEntry n s else missEntry n s) := by
  split
  · exact .refl
  · split
    · exact ffyStep_fireEntry
    · exact ffyStep_missEntry

theorem ffyStep_judgeEntries {step : Option (Int × Int)} : FfyStep s (judgeEntries n k step s) := by
  induction k generalizing s step with
  | zero => exact ffyStep_modFfy
  | succ k ih =>
    have advanced (u : State) (h : FfyStep s u) : FfyStep s (if (advancePtr n u).2 && step.isNone then
        modFfy n (fun f => { f with judge := true }) (advancePtr n u).1
        else judgeEntries n k (if (advancePtr n u).2 then none else step) (advancePtr n u).1) := by
      split
      · exact (h.trans ffyStep_advancePtr).trans ffyStep_modFfy
      · exact (h.trans ffyStep_advancePtr).trans ih
    unfold judgeEntries
    split
    · exact ffyStep_modFfy
    · dsimp only
      split
      · exact ffyStep_modFfy
      · exact advanced _ (ffyStep_tested _ _)

theorem ffyStep_becomeCurrent : FfyStep s (becomeCurrent n s) := FfyStep.trans ffyStep_modFfy ffyStep_judgeEntries

/-- The outputs' `SRCINV` follows its source: registers of the time base, its servo and its phase stay (R488). -/
theorem ffyStep_ffyRefresh : FfyStep s (ffyRefresh s) := by
  refine FfyStep.forEach (fun n s => ?_) _ _
  dsimp only
  refine FfyStep.trans (ffyStep_modFfy (n := n) (f := fun f => { f with srcInv := ffySourceBad s n })) ?_
  split
  · exact ffyStep_irq (.inl rfl)
  · split
    · exact ffyStep_becomeCurrent
    · exact .refl

-- The registers of a reset page

theorem forEach_setReg_reg {g : Nat → Word} (l : List Nat) (wf : regsWf s.regs = true) :
    regsWf (forEach l (fun o s => setReg p i o (g o) s) s).regs = true ∧
      reg (forEach l (fun o s => setReg p i o (g o) s) s) p i off = if off ∈ l then g off else reg s p i off := by
  unfold forEach
  induction l generalizing s with
  | nil => exact ⟨wf, rfl⟩
  | cons o l ih =>
    obtain ⟨wf', later⟩ := ih (regsWf_setReg (p := p) (i := i) (off := o) (v := g o) wf)
    refine ⟨wf', later.trans ?_⟩
    by_cases e : off = o
    · subst e
      simp only [reg_setReg_same wf, List.mem_cons_self, if_true, ite_self]
    · have apart : regKey p i off ≠ regKey p i o := fun h => e (Nat.add_left_cancel h)
      simp only [List.mem_cons, e, false_or]
      rw [reg_eq_regAt, regAt_setReg_other wf apart, ← reg_eq_regAt]

/-- The offsets that a block reset returns to their reset values (R566). -/
def resetOffs (p : Pg) : List Nat :=
  [Reg.CTRL, Reg.MODE, Reg.IRQ_EN, Reg.IRQ_STAT, Reg.ERR, Reg.CNT_THR_A, Reg.CNT_THR_B] ++
    (pgRegs p).flatMap fun r => if r.image then [] else (List.range r.n).map fun k => r.off + 4 * k

theorem resetRegs_eq : resetRegs p i [] s = forEach (resetOffs p) (fun o s => setReg p i o (regReset p i o) s) s := by
  simp only [resetRegs, List.contains_nil, Bool.not_false, List.filter_true, resetOffs]

theorem resetRegs_reg (wf : regsWf s.regs = true) :
    reg (resetRegs p i [] s) p i off = if off ∈ resetOffs p then regReset p i off else reg s p i off := by
  rw [resetRegs_eq]
  exact (forEach_setReg_reg _ wf).2

theorem regsWf_resetRegs (wf : regsWf s.regs = true) : regsWf (resetRegs p i [] s).regs = true := by
  rw [resetRegs_eq]
  exact (forEach_setReg_reg (off := 0) _ wf).1

theorem quiet_resetRegs {keep : List Nat} : quiet (resetRegs p i keep s) = quiet s :=
  forEach_preserves (fun _ _ => quiet_setReg) _ _

theorem resetRegs_clk {keep : List Nat} : (resetRegs p i keep s).clk = s.clk := (congrArg State.clk quiet_resetRegs :)
theorem resetRegs_mem {keep : List Nat} : (resetRegs p i keep s).mem = s.mem := (congrArg State.mem quiet_resetRegs :)
theorem resetRegs_sec {keep : List Nat} : (resetRegs p i keep s).sec = s.sec := (congrArg State.sec quiet_resetRegs :)

-- The block reset

/-- The servo, its rate and line phase as at power good, the latched halves of the ports cleared (R566). -/
def timeReset (s : State) : State :=
  { resetLine (resetServo s) with link := { s.link with nowHi := Vector.replicate 2 0, lineHi := Vector.replicate 2 0 } }

/-- `READY` falls, where it stands, and the page notes it again (R62, R566). -/
def readyAgain (p : Pg) (i : Nat) (s : State) : State := noteReady p i (if flag s p i Reg.READY 0 then setReady p i 0 s else s)

theorem quiet_readyAgain : quiet (readyAgain p i s) = quiet s := by
  unfold readyAgain
  split <;> simp

theorem regKept_readyAgain (hr : k % 4096 ≠ Reg.READY) (hi : k % 4096 ≠ Reg.IRQ_STAT) : RegKept k s (readyAgain p i s) := by
  unfold readyAgain
  split
  · refine RegKept.trans (regKept_setReady ?_ ?_) (regKept_noteReady hr hi)
    · exact fun e => hr (e ▸ regKey_mod (by decide))
    · exact fun e => hi (e ▸ regKey_mod (by decide))
  · exact regKept_noteReady hr hi

/-- What follows the reset of the time base's registers: its state as at power good, what depends on it brought up to date. -/
def timeRestart (s : State) : State := readyAgain .tb 0 (ffyRefresh (timeReset s))

theorem paced_timeRestart : paced (timeRestart s) = ({ s.clk with rho := 0 }, s.mem, {}, {}, s.sec) :=
  (paced_of_quiet quiet_readyAgain).trans ffyStep_ffyRefresh.paced

theorem regKept_timeRestart (hk : k < pageAddr .ffy 0) (hr : k % 4096 ≠ Reg.READY) (hi : k % 4096 ≠ Reg.IRQ_STAT) :
    RegKept k s (timeRestart s) := by
  have reset : RegKept k s (timeReset s) := regKept_of_regs rfl
  exact (reset.trans (ffyStep_ffyRefresh.kept _ hk)).trans (regKept_readyAgain hr hi)

theorem blockReset_tb : blockReset .tb 0 s = timeRestart (resetRegs .tb 0 [] s) := rfl

theorem blockReset_tb_paced : paced (blockReset .tb 0 s) = ({ s.clk with rho := 0 }, s.mem, {}, {}, s.sec) := by
  rw [blockReset_tb, paced_timeRestart, resetRegs_clk, resetRegs_mem, resetRegs_sec]

theorem regsWf_blockReset_tb (wf : regsWf s.regs = true) : regsWf (blockReset .tb 0 s).regs = true := by
  rw [blockReset_tb]
  exact (regKept_timeRestart (k := 0) (by decide) (by decide) (by decide)).wf (regsWf_resetRegs wf)

/-- Every register of the page but `READY` and `IRQ_STAT` (R566). -/
theorem blockReset_tb_reg (wf : regsWf s.regs = true) (h : off < 4096) (hr : off ≠ Reg.READY) (hi : off ≠ Reg.IRQ_STAT) :
    reg (blockReset .tb 0 s) .tb 0 off = if off ∈ resetOffs .tb then regReset .tb 0 off else reg s .tb 0 off := by
  have mod : regKey .tb 0 off % 4096 = off := regKey_mod h
  have below : regKey .tb 0 off < pageAddr .ffy 0 := by
    simp only [regKey, pageAddr, pgRow, Bool.false_eq_true, if_false]
    omega
  rw [blockReset_tb, reg_eq_regAt, (regKept_timeRestart below (by rwa [mod]) (by rwa [mod])).same (regsWf_resetRegs wf), ← reg_eq_regAt,
    resetRegs_reg wf]

theorem writeCtrl_srst_tb : writeCommon .tb 0 Reg.CTRL 3 = blockReset .tb 0 := rfl

theorem paced_countedWrite {r : RegRow} {f : State → State} : paced (countedWrite p i off r f s) = paced (f s) := by
  obtain e | e := countedWrite_eq (p := p) (i := i) (off := off) (r := r) (f := f) (s := s) <;> rw [e]
  rfl

/-- Settles O29. -/
theorem timeBaseReset : Obligations.TimeBaseReset := by
  intro s g on wf ht hg
  have hd : decodeWindow (decide (cellBase ≤ g.toNat)) (g.toNat % 0x400000) = some ⟨.tb, 0, 0⟩ := by rw [hg]; decide
  have sec : (blockReset .tb 0 s).sec = s.sec := congrArg (fun x => x.2.2.2.2) blockReset_tb_paced
  obtain ⟨r, acts⟩ : ∃ r, pageWrite g.toNat Reg.CTRL 3 s = countedWrite .tb 0 Reg.CTRL r (blockReset .tb 0) s :=
    ⟨_, pageWrite_common (by rw [hg]; decide) hd ht rfl rfl (by decide) (by decide) (by decide) writeCtrl_srst_tb sec⟩
  have wf' := regsWf_blockReset_tb wf
  have kept {off : Nat} (h : regKey .tb 0 off ≠ regKey .tb 0 Reg.CHG) :
      reg (countedWrite .tb 0 Reg.CTRL r (blockReset .tb 0) s) .tb 0 off = reg (blockReset .tb 0 s) .tb 0 off :=
    countedWrite_regAt wf' h
  have atReset {off : Nat} (h : off < 4096 ∧ off ≠ Reg.READY ∧ off ≠ Reg.IRQ_STAT) (hc : regKey .tb 0 off ≠ regKey .tb 0 Reg.CHG)
      (ho : off ∈ resetOffs .tb) {v : Word} (hv : regReset .tb 0 off = v) :
      reg (countedWrite .tb 0 Reg.CTRL r (blockReset .tb 0) s) .tb 0 off = v := by
    rw [kept hc, blockReset_tb_reg wf h.1 h.2.1 h.2.2, if_pos ho, hv]
  have same := paced_countedWrite (p := .tb) (i := 0) (off := Reg.CTRL) (r := r) (f := blockReset .tb 0) (s := s)
  rw [blockReset_tb_paced] at same
  simp only [paced, Prod.mk.injEq] at same
  obtain ⟨clk, mem, servo, line, -⟩ := same
  refine ⟨_, (run_on on).trans (congrArg Host.Outcome.next acts), servo, by rw [line], by rw [line], by rw [clk], by rw [clk],
    by rw [clk], ?_, ?_, ?_, ?_, ?_, mem⟩
  · exact congrArg (field · 1 0) (atReset (off := Reg.MODE) (v := 0) (by decide) (by decide) (by decide) (by decide))
  · exact atReset (by decide) (by decide) (by decide) (by decide)
  · exact atReset (by decide) (by decide) (by decide) (by decide)
  · exact atReset (by decide) (by decide) (by decide) (by decide)
  · rw [kept (by decide), blockReset_tb_reg wf (by decide) (by decide) (by decide), if_neg (by decide)]

end Sys2Proof.Machine

/-! SUPPORT. The Ethernet links, the host ports and their MSI-X tables (R66, R423, R533, R571). -/

namespace Sys2Proof.Machine

variable {s t u : State} {e : Hub} {k off : Nat}

-- What the PTP ports leave alone

/-- A step of the PTP ports: the registers of the Ethernet pages and above stay, and so does the security unit. -/
structure PtpStep (s t : State) : Prop where
  kept : ∀ k, pageAddr .eth 0 ≤ k → RegKept k s t
  sec : t.sec = s.sec

theorem PtpStep.refl : PtpStep s s := ⟨fun _ _ => .refl, rfl⟩

theorem PtpStep.trans (h : PtpStep s t) (g : PtpStep t u) : PtpStep s u :=
  ⟨fun k hk => (h.kept k hk).trans (g.kept k hk), g.sec.trans h.sec⟩

/-- The PTP pages lie below the Ethernet pages (R60, R61). -/
theorem regKey_ptp_lt (ho : off < 4096) (hk : pageAddr .eth 0 ≤ k) : regKey .ptp e off < k := by
  simp only [regKey, pageAddr, pgRow, Bool.false_eq_true, if_false] at hk ⊢
  omega

theorem ptpStep_setReg {v : Word} (ho : off < 4096) : PtpStep s (setReg .ptp e off v s) :=
  ⟨fun _ hk => regKept_setReg (regKey_ptp_lt ho hk).ne', rfl⟩

theorem ptpStep_irq {b : Nat} : PtpStep s (irq .ptp e b s) :=
  ⟨fun _ hk => regKept_irq (regKey_ptp_lt (by decide) hk).ne', irq_sec⟩

theorem ptpStep_modPtp {f : PtpPort → PtpPort} : PtpStep s (modPtp e f s) := ⟨fun _ _ => regKept_of_regs rfl, rfl⟩

theorem ptpStep_noMaster : PtpStep s (noMaster e s) := ptpStep_modPtp

theorem ptpStep_setPstate {v : Nat} : PtpStep s (setPstate e v s) := by
  unfold setPstate
  split
  · exact .refl
  · exact (ptpStep_setReg (by decide)).trans ptpStep_irq

theorem ptpStep_setGm {g : BitVec 64} : PtpStep s (setGm e g s) := by
  have shown : PtpStep s (setReg .ptp e Reg.PTP_GM_HI (hi32 g) (setReg .ptp e Reg.PTP_GM_LO (lo32 g) s)) :=
    (ptpStep_setReg (by decide)).trans (ptpStep_setReg (by decide))
  unfold setGm irqIf
  dsimp only
  split
  · exact shown.trans ptpStep_irq
  · exact shown

theorem ptpStep_keepSource {was : Bool} : PtpStep s (keepSource was s) := by
  unfold keepSource
  split
  · refine ⟨fun k hk => regKept_sourceLost fun e => ?_, sourceLost_sec⟩
    rw [e] at hk
    exact absurd hk (by decide)
  · exact .refl

theorem ptpStep_ptpApply {x : PtpDecision} : PtpStep s (ptpApply e x s) := by
  unfold ptpApply
  dsimp only
  cases x with
  | stay => exact .refl
  | listen => exact ptpStep_noMaster.trans ptpStep_setPstate
  | master => exact (ptpStep_noMaster.trans ptpStep_setPstate).trans ptpStep_setGm
  | passive => exact ptpStep_noMaster.trans ptpStep_setPstate
  | slave d =>
    dsimp only
    split
    · exact ptpStep_setGm
    · exact (ptpStep_setGm.trans ptpStep_modPtp).trans ptpStep_setPstate
  | relay d =>
    dsimp only
    split
    · exact ptpStep_setGm
    · exact (ptpStep_setGm.trans ptpStep_modPtp).trans ptpStep_setPstate

theorem ptpStep_ptpApply_if {c : Bool} {x : PtpDecision} : PtpStep s (if c then ptpApply e x s else s) := by
  split
  · exact ptpStep_ptpApply
  · exact .refl

theorem ptpStep_ptpStates : PtpStep s (ptpStates e s) :=
  (ptpStep_ptpApply_if.trans ptpStep_ptpApply_if).trans ptpStep_keepSource

-- Sessions

theorem closeSession_session : (closeSession s).sec.session = none := by
  unfold closeSession
  split
  · exact congrArg Security.session irq_sec
  · next h => simpa using h

/-- A session of another source stays. -/
theorem closeSessionOf_src {src : Nat} {x : Session} (h : (closeSessionOf src s).sec.session = some x) : x.src ≠ src := by
  unfold closeSessionOf at h
  split at h
  · split at h
    · rw [closeSession_session] at h
      cases h
    · next y hy ne =>
      obtain rfl : y = x := Option.some.inj (hy.symm.trans h)
      exact ne
  · next hs =>
    rw [hs] at h
    cases h

theorem closeSession_conns : (closeSession s).sec.conns = s.sec.conns := by
  unfold closeSession
  split
  · rw [irq_sec]
    rfl
  · rfl

theorem closeSession_portUp : (closeSession s).link.portUp = s.link.portUp := by
  unfold closeSession
  split
  · exact portUp_of_calm calm_irq
  · rfl

theorem regKept_closeSession (hk : k ≠ regKey .sec 0 Reg.IRQ_STAT) : RegKept k s (closeSession s) := by
  unfold closeSession
  split
  · refine RegKept.trans ?_ (regKept_irq hk)
    exact regKept_of_regs rfl
  · exact .refl

/-- The session of a source either stays open or closes. -/
theorem closeSessionOf_eq {src : Nat} : closeSessionOf src s = s ∨ closeSessionOf src s = closeSession s := by
  unfold closeSessionOf
  split
  · split
    · exact .inr rfl
    · exact .inl rfl
  · exact .inl rfl

theorem closeSessionOf_conns {src : Nat} : (closeSessionOf src s).sec.conns = s.sec.conns := by
  obtain e | e := closeSessionOf_eq (s := s) (src := src) <;> rw [e]
  exact closeSession_conns

theorem closeSessionOf_portUp {src : Nat} : (closeSessionOf src s).link.portUp = s.link.portUp := by
  obtain e | e := closeSessionOf_eq (s := s) (src := src) <;> rw [e]
  exact closeSession_portUp

theorem regKept_closeSessionOf {src : Nat} (hk : k ≠ regKey .sec 0 Reg.IRQ_STAT) : RegKept k s (closeSessionOf src s) := by
  obtain e | e := closeSessionOf_eq (s := s) (src := src) <;> rw [e]
  · exact .refl
  · exact regKept_closeSession hk

-- Ethernet links

/-- What `LINK` reads (R571). -/
def linkWord (up master : Bool) : Word := if up then 1 + BitVec.ofNat 32 (2 * b2n master) else 0

/-- The link of a port shows in `LINK`, and in `LINKCHG` where it changes (R571). -/
def linkShown (e : Hub) (up master : Bool) (s : State) : State :=
  irqIf (flag s .eth e Reg.ETH_LINK 0 != up) .eth e ethLinkChg (setReg .eth e Reg.ETH_LINK (linkWord up master) s)

/-- The management connections and the session of a port end with its link (R423). -/
def linkClosed (e : Hub) (s : State) : State :=
  closeSessionOf (2 + e.val) (modSec (fun x => { x with conns := x.conns.filter fun c => c != 2 + e.val }) (count .eth e 4 s))

/-- A port without its link hears its masters no more (R82). -/
def linkUnheard (e : Hub) (slave : Bool) (s : State) : State :=
  let s := modPtp e (fun p => { p with heard := [], follow := none }) s
  let s := if 7 ≤ fld s .ptp e Reg.PTP_PSTATE 3 0 then setPstate e 4 (noMaster e s) else s
  let s := keepSource slave s
  if ptpRole s e = 3 then ptpStates (other e) s else s

section Link
variable {up master : Bool} (alive : s.clk.alive[e] = true)
include alive

theorem linkChange_lost (was : flag s .eth e Reg.ETH_LINK 0 = true) (down : up = false) :
    linkChange e up master s = linkUnheard e (sourceSlave (linkShown e up master s)) (linkClosed e (linkShown e up master s)) := by
  unfold linkChange
  rw [if_pos alive]
  exact if_pos (by rw [was, down]; rfl)

theorem linkChange_stays (h : flag s .eth e Reg.ETH_LINK 0 = true → up = true) : linkChange e up master s = linkShown e up master s := by
  unfold linkChange
  rw [if_pos alive]
  refine if_neg fun lost => ?_
  simp only [Bool.and_eq_true, Bool.not_eq_true'] at lost
  rw [h lost.1] at lost
  exact nomatch lost.2

end Link

section Shown
variable {up master : Bool} (wf : regsWf s.regs = true)
include wf

theorem regsWf_linkShown : regsWf (linkShown e up master s).regs = true := by
  unfold linkShown irqIf
  split
  · exact regsWf_irq (regsWf_setReg wf)
  · exact regsWf_setReg wf

theorem linkShown_link : reg (linkShown e up master s) .eth e Reg.ETH_LINK = linkWord up master := by
  unfold linkShown irqIf
  split
  · have apart : regKey .eth e Reg.ETH_LINK ≠ regKey .eth e Reg.IRQ_STAT := regKey_ne (by decide) (by decide) (by decide)
    rw [reg_eq_regAt, irq_regAt_other (regsWf_setReg wf) apart]
    exact regAt_setReg_same wf
  · exact reg_setReg_same wf

theorem linkShown_changed (h : flag s .eth e Reg.ETH_LINK 0 ≠ up) :
    bit (reg (linkShown e up master s) .eth e Reg.IRQ_STAT) ethLinkChg = true := by
  have changed : (flag s .eth e Reg.ETH_LINK 0 != up) = true := bne_iff_ne.mpr h
  rw [linkShown, irqIf, if_pos changed]
  exact irq_bit (regsWf_setReg wf) (by decide)

end Shown

theorem ptpStep_linkUnheard {slave : Bool} : PtpStep s (linkUnheard e slave s) := by
  have listening (u : State) : PtpStep u (if 7 ≤ fld u .ptp e Reg.PTP_PSTATE 3 0 then setPstate e 4 (noMaster e u) else u) := by
    split
    · exact ptpStep_noMaster.trans ptpStep_setPstate
    · exact .refl
  have spanning (u : State) : PtpStep u (if ptpRole u e = 3 then ptpStates (other e) u else u) := by
    split
    · exact ptpStep_ptpStates
    · exact .refl
  exact ((ptpStep_modPtp.trans (listening _)).trans ptpStep_keepSource).trans (spanning _)

/-- The Ethernet pages lie below the pages of the cell view (R60, R61). -/
theorem regKey_eth_ne_sec (ho : off < 4096) {off' : Nat} : regKey .eth e off ≠ regKey .sec 0 off' := by
  simp only [regKey, pageAddr, pgRow, cellBase, Bool.false_eq_true, if_false, if_true]
  omega

theorem le_regKey_eth : pageAddr .eth 0 ≤ regKey .eth e off := by
  simp only [regKey, pageAddr]
  omega

/-- What follows the count of a lost link leaves the registers of the Ethernet pages. -/
theorem regKept_lost {slave : Bool} (ho : off < 4096) :
    RegKept (regKey .eth e off) (count .eth e 4 s) (linkUnheard e slave (linkClosed e s)) := by
  refine RegKept.trans (RegKept.trans ?_ (regKept_closeSessionOf (regKey_eth_ne_sec ho))) (ptpStep_linkUnheard.kept _ le_regKey_eth)
  exact regKept_of_regs rfl

theorem lost_link {slave : Bool} (wf : regsWf s.regs = true) :
    reg (linkUnheard e slave (linkClosed e s)) .eth e Reg.ETH_LINK = reg s .eth e Reg.ETH_LINK := by
  have apart : regKey .eth e Reg.ETH_LINK ∉ eventKeys .eth e 4 := by
    simp [eventKeys, regKey, Reg.ETH_LINK, Reg.IRQ_STAT, Reg.CNT, Reg.CNT_OVF]
  rw [reg_eq_regAt, (regKept_lost (by decide)).same (regsWf_count wf), count_regAt_other wf apart, reg_eq_regAt]

theorem lost_keepsFlag {slave : Bool} {b : Nat} (wf : regsWf s.regs = true) (h : bit (reg s .eth e Reg.IRQ_STAT) b = true) :
    bit (reg (linkUnheard e slave (linkClosed e s)) .eth e Reg.IRQ_STAT) b = true := by
  rw [reg_eq_regAt, (regKept_lost (by decide)).same (regsWf_count wf), ← reg_eq_regAt]
  exact count_keepsFlag wf h

theorem linkClosed_conns : 2 + e.val ∉ (linkClosed e s).sec.conns := by
  rw [linkClosed, closeSessionOf_conns]
  simp [modSec]

/-- R571: a link change shows in `LINK` and `LINKCHG`; R423: a lost link ends the port's connections and session. -/
theorem linkChange_shows {up master : Bool} (alive : s.clk.alive[e] = true) (wf : regsWf s.regs = true) :
    reg (linkChange e up master s) .eth e Reg.ETH_LINK = linkWord up master ∧
      (flag s .eth e Reg.ETH_LINK 0 ≠ up → bit (reg (linkChange e up master s) .eth e Reg.IRQ_STAT) ethLinkChg = true) ∧
      (flag s .eth e Reg.ETH_LINK 0 = true → up = false → 2 + e.val ∉ (linkChange e up master s).sec.conns ∧
        ∀ x, (linkChange e up master s).sec.session = some x → x.src ≠ 2 + e.val) := by
  by_cases lost : flag s .eth e Reg.ETH_LINK 0 = true ∧ up = false
  · obtain ⟨was, down⟩ := lost
    rw [linkChange_lost alive was down, lost_link (regsWf_linkShown wf), linkShown_link wf, ptpStep_linkUnheard.sec]
    exact ⟨rfl, fun h => lost_keepsFlag (regsWf_linkShown wf) (linkShown_changed wf h),
      fun _ _ => ⟨linkClosed_conns, fun _ => closeSessionOf_src⟩⟩
  · rw [linkChange_stays alive fun was => by simpa using fun down => lost ⟨was, down⟩]
    exact ⟨linkShown_link wf, linkShown_changed wf, fun was down => absurd ⟨was, down⟩ lost⟩

theorem linkWord_up {up master : Bool} : bit (linkWord up master) 0 = up := by
  cases up <;> cases master <;> rfl

theorem linkWord_master {up master : Bool} : bit (linkWord up master) 1 = (up && master) := by
  cases up <;> cases master <;> rfl

-- Host ports

section Port
variable {q : Port} (alive : s.clk.alive[q] = true)
include alive

theorem hostLink_up : hostLink q true s = { s with link := { s.link with portUp := vset s.link.portUp q true } } := by
  unfold hostLink
  rw [if_pos alive]
  rfl

theorem hostLink_down : hostLink q false s = closeSessionOf q.val { s with link := { s.link with portUp := vset s.link.portUp q false } } := by
  unfold hostLink
  rw [if_pos alive]
  rfl

/-- R423: a host port's link loss ends its session. -/
theorem hostLink_portUp {up : Bool} : (hostLink q up s).link.portUp[q] = up ∧ (up = true → hostLink q up s =
    { s with link := (hostLink q up s).link }) ∧ (up = false → ∀ x, (hostLink q up s).sec.session = some x → x.src ≠ q.val) := by
  cases up with
  | true =>
    rw [hostLink_up alive]
    exact ⟨vset_same, fun _ => rfl, nofun⟩
  | false =>
    rw [hostLink_down alive, closeSessionOf_portUp]
    exact ⟨vset_same, nofun, fun _ _ => closeSessionOf_src⟩

/-- R533: the MSI-X table starts afresh with the port's configuration space. -/
theorem perst_port : (perst q s).link.portUp[q] = false ∧ (perst q s).link.msix[q] = [] ∧
    ∀ x, (perst q s).sec.session = some x → x.src ≠ q.val := by
  obtain ⟨down, -, session⟩ := hostLink_portUp (up := false) alive
  rw [perst, if_pos alive]
  exact ⟨down, vset_same, session rfl⟩

/-- R66: a table write sets the entry; unmasking a pending vector sends its message. -/
theorem msixWrite_entry {n : Nat} {x : BitVec 64} {d : Word} {mask : Bool} {m : MsixEntry}
    (wf : Sparse.wf (fun _ => ({} : MsixEntry)) s.link.msix[q] = true) (hm : Sparse.get {} n s.link.msix[q] = m) :
    Sparse.get {} n (msixWrite q n x d mask s).link.msix[q] = ⟨x, d, mask, m.pend && mask⟩ ∧
      (msixWrite q n x d mask s).link.sent = (if m.pend && !mask then ⟨q, n, x, d⟩ :: s.link.sent else s.link.sent) := by
  have set (w : MsixEntry) : Sparse.get ({} : MsixEntry) n (vset s.link.msix q (Sparse.put {} n w s.link.msix[q]))[q] = w :=
    (congrArg (Sparse.get ({} : MsixEntry) n) vset_same).trans (Sparse.get_put_same wf)
  unfold msixWrite
  dsimp only
  rw [if_pos alive, hm]
  cases hp : m.pend <;> cases mask <;> exact ⟨set _, rfl⟩

end Port

theorem msixWrite_link {q : Port} {n : Nat} {x : BitVec 64} {d : Word} {mask : Bool} :
    msixWrite q n x d mask s = { s with link := (msixWrite q n x d mask s).link } := by
  unfold msixWrite
  dsimp only
  split
  · split <;> rfl
  · rfl

/-- Settles O34. -/
theorem links : Obligations.Links := by
  intro s on wf
  refine ⟨fun e up master alive => ?_, fun e alive => ?_, fun q up alive => ⟨_, run_on on, hostLink_portUp alive⟩,
    fun q alive => ⟨_, run_on on, perst_port alive⟩, fun q n x d mask alive table => ⟨_, run_on on, ?_, msixWrite_link⟩⟩
  · obtain ⟨link, change, lost⟩ := linkChange_shows (up := up) (master := master) alive wf
    exact ⟨_, run_on (f := fun s => noteReady .eth e (linkChange e up master s)) on, by rw [flag, link]; exact linkWord_up, by rw [flag, link]; exact linkWord_master, change, lost⟩
  · obtain ⟨link, -⟩ := linkChange_shows (up := false) (master := false) alive wf
    exact ⟨_, run_on (f := fun s => noteReady .eth e (linkChange e false false s)) on, by rw [flag, link]; exact linkWord_up⟩
  · exact fun m hm => msixWrite_entry alive table hm

end Sys2Proof.Machine

/-! SUPPORT. Cell time along the steps of the machine (R73). -/

namespace Sys2Proof.Machine

variable {s t : State} {c : Instr}

/-- Cell time runs on in every command but a power good (R73). -/
theorem exec_keeps (hc : c ≠ .powerGood) (h : exec c s = .next t) : Keeps s t := by
  by_cases moves : movesCycle c = false
  · exact (exec_inCycle moves h).toKeeps
  · cases c with
    | syncInstant => exact execSyncInstant_keeps h
    | powerGood => exact (hc rfl).elim
    | staticSlot => exact execStaticSlot_keeps h
    | minislot => exact execMinislot_keeps h
    | symbolWindow => exact execSymbolWindow_keeps h
    | frameReceived => exact execFrameReceived_keeps h
    | listenTimerExpiry => exact execListenTimerExpiry_keeps h
    | imageLoadComplete => exact execImageLoadComplete_keeps h
    | hubFunctionsReady => exact execHubFunctionsReady_keeps h
    | shutdown => exact execShutdown_keeps h
    | _ => exact (moves rfl).elim

theorem step_of_pending {r : List Instr} (h : s.pending = c :: r) : step s = exec c { s with pending := r } := by
  simp only [step, h]

/-- Settles O16: a step runs the front command, and a command other than a power good keeps cell time from running back. -/
theorem cellTimeNeverRunsBack : Obligations.CellTimeNeverRunsBack := by
  intro s t c r front hc h
  rw [step_of_pending front] at h
  exact (exec_keeps hc h).now

end Sys2Proof.Machine

/-! SUPPORT. Which registers an operation may write, and what the time servo and the PTP ports leave alone (R62, R78, R79). -/

namespace Sys2Proof.Machine

variable {s t u : State} {p : Pg} {i n b off : Nat} {l m : List Nat}

/-- An operation writes registers at the offsets `l` of their pages only, and clears no flag of an `IRQ_STAT` (R62). -/
structure Writes (l : List Nat) (s t : State) : Prop where
  wf : regsWf s.regs = true → regsWf t.regs = true
  same : regsWf s.regs = true → ∀ k, k % 4096 ∉ l → regAt t k = regAt s k
  flags : regsWf s.regs = true → ∀ k b, k % 4096 = Reg.IRQ_STAT → bit (regAt s k) b = true → bit (regAt t k) b = true

theorem Writes.refl : Writes l s s := ⟨id, fun _ _ _ => rfl, fun _ _ _ _ => id⟩

theorem Writes.trans (h : Writes l s t) (g : Writes l t u) : Writes l s u :=
  ⟨fun wf => g.wf (h.wf wf), fun wf k hk => (g.same (h.wf wf) k hk).trans (h.same wf k hk),
    fun wf k b hk hb => g.flags (h.wf wf) k b hk (h.flags wf k b hk hb)⟩

theorem Writes.mono (h : Writes l s t) (hl : ∀ o ∈ l, o ∈ m) : Writes m s t :=
  ⟨h.wf, fun wf k hk => h.same wf k fun hm => hk (hl _ hm), h.flags⟩

theorem writes_of_regs (h : t.regs = s.regs) : Writes l s t := by
  have same (k : Nat) : regAt t k = regAt s k := by rw [regAt, h, regAt]
  exact ⟨fun wf => h ▸ wf, fun _ k _ => same k, fun _ k b _ hb => (congrArg (bit · b) (same k)).trans hb⟩

/-- A register at an offset that is not written reads as before. -/
theorem Writes.reg (h : Writes l s t) (wf : regsWf s.regs = true) (ho : off < 4096 ∧ off ∉ l) : reg t p i off = reg s p i off :=
  h.same wf _ (by rw [regKey_mod ho.1]; exact ho.2)

theorem Writes.flag (h : Writes l s t) (wf : regsWf s.regs = true) (hb : bit (Machine.reg s p i Reg.IRQ_STAT) b = true) :
    bit (Machine.reg t p i Reg.IRQ_STAT) b = true :=
  h.flags wf _ _ (regKey_mod (by decide)) hb

theorem writes_setReg {v : Word} (ho : off < 4096) (hi : off ≠ Reg.IRQ_STAT) : Writes [off] s (setReg p i off v s) := by
  have other (wf : regsWf s.regs = true) (k : Nat) (hk : k % 4096 ≠ off) : regAt (setReg p i off v s) k = regAt s k :=
    regAt_setReg_other wf fun e => hk (e ▸ regKey_mod ho)
  refine ⟨regsWf_setReg, fun wf k hk => other wf k (by simpa using hk), fun wf k b hk hb => ?_⟩
  rw [other wf k fun e => hi (e.symm.trans hk)]
  exact hb

theorem writes_irq : Writes [Reg.IRQ_STAT] s (irq p i b s) := by
  refine ⟨regsWf_irq, fun wf k hk => irq_regAt_other wf fun e => hk ?_, fun wf k c _ hc => ?_⟩
  · rw [e, regKey_mod (by decide)]
    exact List.mem_cons_self
  · by_cases e : k = regKey p i Reg.IRQ_STAT
    · subst e
      exact irq_keepsFlag wf hc
    · rw [irq_regAt_other wf e]
      exact hc

theorem writes_irqIf {x : Bool} : Writes [Reg.IRQ_STAT] s (irqIf x p i b s) := by
  unfold irqIf
  split
  · exact writes_irq
  · exact .refl

theorem writes_wrapped : Writes [Reg.CNT_OVF, Reg.IRQ_STAT] s (wrapped p i n s) :=
  ((writes_setReg (by decide) (by decide)).mono (by decide)).trans (writes_irq.mono (by decide))

theorem writes_count (hn : n < 16) : Writes [Reg.CNT + 4 * n, Reg.CNT_OVF, Reg.IRQ_STAT] s (count p i n s) := by
  have counted (v : Word) : Writes [Reg.CNT + 4 * n, Reg.CNT_OVF, Reg.IRQ_STAT] s (setReg p i (Reg.CNT + 4 * n) v s) :=
    (writes_setReg (by simp only [Reg.CNT]; omega) (by simp only [Reg.CNT, Reg.IRQ_STAT]; omega)).mono
      (by simp)
  unfold count countBy
  dsimp only
  split
  · exact counted _
  · exact (counted _).trans (writes_wrapped.mono fun _ => List.mem_cons_of_mem _)

theorem writes_countPriv {c : Nat} : Writes [Reg.CNT_OVF, Reg.IRQ_STAT] s (countPriv p n c s) := by
  unfold countPriv
  dsimp only
  split
  · exact writes_of_regs rfl
  · refine Writes.trans ?_ writes_wrapped
    exact writes_of_regs rfl

/-- Cell time runs on: the dispatcher's counters may wrap (R63). -/
theorem writes_occupancy : Writes [Reg.CNT_OVF, Reg.IRQ_STAT] s (occupancy n s) := by
  have counted (x : Bool) (k : Nat) (u : State) : Writes [Reg.CNT_OVF, Reg.IRQ_STAT] u (if x then countPriv .tds k n u else u) := by
    split
    · exact writes_countPriv
    · exact .refl
  unfold occupancy
  dsimp only
  exact ((counted _ _ _).trans (counted _ _ _)).trans (counted _ _ _)

theorem writes_advance : Writes [Reg.CNT_OVF, Reg.IRQ_STAT] s (advance n s) := by
  refine Writes.trans ?_ writes_occupancy
  exact writes_of_regs rfl

end Sys2Proof.Machine

/-! SUPPORT. The time servo: what a sample, a loss of the source and a quarantine do to it (R82 to R93). -/

namespace Sys2Proof.Machine

variable {s t u : State} {off : Int} {l m : List Nat} {p : Pg} {i n b : Nat}

-- Frames

/-- A state without its time servo, register file and host link. -/
def servoless (s : State) : State := { s with servo := {}, regs := [], link := {} }

theorem eq_of_servoless (h : servoless t = servoless s) : t = { s with servo := t.servo, regs := t.regs, link := t.link } := by
  cases t; cases s; cases h; rfl

/-- A step of the time servo: registers at the offsets `l` and the servo itself, nothing else. -/
structure ServoStep (l : List Nat) (s t : State) : Prop extends Writes l s t where
  rest : servoless t = servoless s

theorem ServoStep.refl : ServoStep l s s := ⟨.refl, rfl⟩

theorem ServoStep.trans (h : ServoStep l s t) (g : ServoStep l t u) : ServoStep l s u :=
  ⟨h.toWrites.trans g.toWrites, g.rest.trans h.rest⟩

theorem ServoStep.mono (h : ServoStep l s t) (hl : ∀ o ∈ l, o ∈ m) : ServoStep m s t := ⟨h.toWrites.mono hl, h.rest⟩

theorem ServoStep.ptp (h : ServoStep l s t) : t.ptp = s.ptp := (congrArg State.ptp h.rest :)

theorem servoless_of_quiet (h : quiet t = quiet s) : servoless t = servoless s := (congrArg servoless h :)

theorem servoStep_modServo {f : TimeServo → TimeServo} : ServoStep l s (modServo f s) := ⟨writes_of_regs rfl, rfl⟩

theorem servoStep_irq : ServoStep [Reg.IRQ_STAT] s (irq p i b s) := ⟨writes_irq, servoless_of_quiet quiet_irq⟩

theorem servoStep_irqIf {x : Bool} : ServoStep [Reg.IRQ_STAT] s (irqIf x p i b s) := ⟨writes_irqIf, servoless_of_quiet quiet_irqIf⟩

theorem servoStep_count (hn : n < 16) : ServoStep [Reg.CNT + 4 * n, Reg.CNT_OVF, Reg.IRQ_STAT] s (count p i n s) :=
  ⟨writes_count hn, servoless_of_quiet quiet_count⟩

-- HOLDOVER (R85)

/-- The servo in HOLDOVER: its target is the mean of its last updates (R85). -/
def heldOver (v : TimeServo) : TimeServo :=
  if v.st = .holdover then v else { v with st := .holdover, target := histMean v.hist * 256, okRun := 0 }

section
variable {v : TimeServo}

@[simp] theorem heldOver_st : (heldOver v).st = .holdover := by
  unfold heldOver
  split
  · assumption
  · rfl

@[simp] theorem heldOver_integ : (heldOver v).integ = v.integ := by unfold heldOver; split <;> rfl
@[simp] theorem heldOver_stepPend : (heldOver v).stepPend = v.stepPend := by unfold heldOver; split <;> rfl
@[simp] theorem heldOver_stepVal : (heldOver v).stepVal = v.stepVal := by unfold heldOver; split <;> rfl
@[simp] theorem heldOver_quar : (heldOver v).quar = v.quar := by unfold heldOver; split <;> rfl
@[simp] theorem heldOver_plantOfs : (heldOver v).plantOfs = v.plantOfs := by unfold heldOver; split <;> rfl

end

theorem enterHoldover_servo : (enterHoldover s).servo = heldOver s.servo := by
  unfold enterHoldover heldOver
  split <;> simp

theorem servoStep_enterHoldover : ServoStep [Reg.IRQ_STAT] s (enterHoldover s) := by
  unfold enterHoldover
  split
  · exact .refl
  · exact servoStep_modServo.trans servoStep_irq

theorem servoStep_sourceLost : ServoStep [Reg.IRQ_STAT] s (sourceLost s) := by
  unfold sourceLost
  split
  · exact servoStep_enterHoldover
  · exact .refl

theorem sourceLost_servo : (sourceLost s).servo =
    if s.servo.st = .acquire ∨ s.servo.st = .locked then heldOver s.servo else s.servo := by
  rw [sourceLost, apply_ite State.servo, enterHoldover_servo]

-- Samples (R83, R86, R87, R91)

/-- What the servo writes as it takes a sample: its counters and its flags. -/
def sampleOffs : List Nat := [Reg.CNT, Reg.CNT + 4, Reg.CNT + 8, Reg.CNT_OVF, Reg.IRQ_STAT]

theorem servoStep_alignSample : ServoStep sampleOffs s (alignSample off s) :=
  ((servoStep_count (by decide)).mono (by decide)).trans servoStep_modServo

theorem servoStep_acceptSample : ServoStep sampleOffs s (acceptSample off s) :=
  (((servoStep_count (by decide)).mono (by decide)).trans servoStep_modServo).trans (servoStep_irqIf.mono (by decide))

theorem servoStep_refuseSample : ServoStep sampleOffs s (refuseSample off s) :=
  ((((servoStep_count (by decide)).mono (by decide)).trans servoStep_modServo).trans
    (servoStep_irq.mono (by decide))).trans ((servoStep_irqIf.trans servoStep_enterHoldover).mono (by decide))

theorem servoStep_servoSample : ServoStep sampleOffs s (servoSample off s) := by
  unfold servoSample
  split
  · exact servoStep_modServo.trans ((servoStep_count (by decide)).mono (by decide))
  · split
    · exact servoStep_alignSample
    · refine ServoStep.trans ?_ servoStep_modServo
      split
      · exact servoStep_refuseSample
      · exact servoStep_acceptSample

theorem servoStep_startQuarantine : ServoStep [Reg.IRQ_STAT] s (startQuarantine s) := by
  unfold startQuarantine
  dsimp only
  split
  · exact servoStep_modServo
  · exact servoStep_modServo.trans servoStep_enterHoldover

theorem startQuarantine_servo : (startQuarantine s).servo =
    if s.servo.st = .free then { s.servo with quar := 8 } else heldOver { s.servo with quar := 8 } := by
  unfold startQuarantine
  dsimp only
  rw [apply_ite State.servo, enterHoldover_servo]
  rfl

/-- The first sample aligns plant time (R86). -/
theorem servoSample_aligns (hq : s.servo.quar = 0) (ha : s.servo.aligned = false) : servoSample off s = alignSample off s := by
  simp [servoSample, hq, ha]

theorem alignSample_servo : (alignSample off s).servo.aligned = true ∧
    (alignSample off s).servo.plantOfs = s.servo.plantOfs + BitVec.ofInt 64 off ∧ (alignSample off s).servo.integ = s.servo.integ ∧
    (alignSample off s).servo.src = s.servo.src := by
  simp [alignSample]

section Aligned
variable (hq : s.servo.quar = 0) (ha : s.servo.aligned = true)
include hq ha

theorem servoSample_accepts (h : off.natAbs ≤ fld s .tb 0 Reg.TB_JUMP_THR 29 0) :
    servoSample off s = modServo (fun v => { v with asymWin := v.asymWin - 1 }) (acceptSample off s) := by
  simp [servoSample, absI, hq, ha, Nat.not_lt.mpr h]

theorem servoSample_refuses (h : fld s .tb 0 Reg.TB_JUMP_THR 29 0 < off.natAbs) :
    servoSample off s = modServo (fun v => { v with asymWin := v.asymWin - 1 }) (refuseSample off s) := by
  simp [servoSample, absI, hq, ha, h]

end Aligned

/-- A sample in a quarantine uses it up and does nothing else to the servo (R91). -/
theorem servoSample_quarantined (hq : 0 < s.servo.quar) : (servoSample off s).servo.quar = s.servo.quar - 1 ∧
    (servoSample off s).servo.plantOfs = s.servo.plantOfs := by
  simp [servoSample, hq]

/-- R83: the integrator takes the sample, clamped to ±200 ppm, and the target rate follows. -/
theorem acceptSample_servo : (acceptSample off s).servo.integ = clampI boundPpb (s.servo.integ + (fld s .tb 0 Reg.TB_KI 23 0 : Int) * off) ∧
    (acceptSample off s).servo.target = (fld s .tb 0 Reg.TB_KP 23 0 : Int) * off + (acceptSample off s).servo.integ ∧
    (acceptSample off s).servo.stepPend = false ∧ (acceptSample off s).servo.plantOfs = s.servo.plantOfs := by
  simp [acceptSample, piStep]

/-- R87: a refused step waits, and the servo holds over. -/
theorem refuseSample_servo : (refuseSample off s).servo.st = .holdover ∧ (refuseSample off s).servo.stepPend = true ∧
    (refuseSample off s).servo.stepVal = BitVec.ofInt 64 off ∧ (refuseSample off s).servo.integ = s.servo.integ ∧
    (refuseSample off s).servo.plantOfs = s.servo.plantOfs := by
  simp [refuseSample, enterHoldover_servo]

theorem refuseSample_flag (wf : regsWf s.regs = true) : bit (reg (refuseSample off s) .tb 0 Reg.IRQ_STAT) tbStep = true := by
  unfold refuseSample
  dsimp only
  refine (servoStep_irqIf.trans servoStep_enterHoldover).flag (regsWf_irq ?_) (irq_bit ?_ (by decide))
  · exact regsWf_count wf
  · exact regsWf_count wf

-- Host samples (R93)

theorem writeHaOfs_off (h : assisted s .tb 0 = false) {v : Word} : writeHaOfs v s = s := by
  simp [writeHaOfs, h]

/-- The state in which a host sample has come: its window begins anew. -/
def sampled (s : State) : State := modServo (fun x => { x with haAge := 0 }) s

theorem writeHaOfs_on {v : Word} (h : assisted s .tb 0 = true) (hk : flag s .tb 0 Reg.TB_HA_CFG 0 = false) :
    writeHaOfs v s = servoSample v.toInt (sampled s) := by
  simp [writeHaOfs, h, hk, sampled]

theorem servoStep_writeHaOfs {v : Word} : ServoStep sampleOffs s (writeHaOfs v s) := by
  unfold writeHaOfs
  split
  · exact servoStep_modServo.trans servoStep_servoSample
  · exact .refl

/-- Settles O30: a host sample goes to the servo, which aligns to it, accepts it or refuses it. -/
theorem hostOffsetSample : Obligations.HostOffsetSample := by
  intro s v on
  have frame := eq_of_servoless (servoStep_writeHaOfs (v := v) (s := s)).rest
  refine ⟨fun h => (run_on on).trans (by rw [writeHaOfs_off h]), fun ha hk hq => ?_⟩
  have acts : exec (.haOfs v) s = .next (servoSample v.toInt (sampled s)) := (run_on on).trans (by rw [writeHaOfs_on ha hk])
  rw [writeHaOfs_on ha hk] at frame
  refine ⟨fun first => ⟨_, acts, ?_⟩, fun al within => ⟨_, acts, ?_⟩, fun al beyond => ⟨_, acts, ?_⟩⟩
  · rw [servoSample_aligns (s := sampled s) hq first] at frame ⊢
    obtain ⟨aligned, plant, integ, -⟩ := alignSample_servo (off := v.toInt) (s := sampled s)
    exact ⟨aligned, plant, integ, frame⟩
  · rw [servoSample_accepts (s := sampled s) hq al within] at frame ⊢
    obtain ⟨integ, target, pend, plant⟩ := acceptSample_servo (off := v.toInt) (s := sampled s)
    exact ⟨integ, target, pend, plant, frame⟩
  · rw [servoSample_refuses (s := sampled s) hq al beyond] at frame ⊢
    obtain ⟨st, pend, val, integ, plant⟩ := refuseSample_servo (off := v.toInt) (s := sampled s)
    exact ⟨st, pend, val, integ, plant, refuseSample_flag (s := sampled s), frame⟩

end Sys2Proof.Machine

/-! SUPPORT. Samples of the PTP ports, and the other inputs of the time servo (R81, R83, R86, R88, R91, R93, R100). -/

namespace Sys2Proof.Machine

variable {s t u : State} {l m : List Nat} {p : Pg} {i off n b : Nat} {e : Hub} {v : Word}

-- Frames

/-- A state without its PTP ports, time servo, register file and host link. -/
def portless (s : State) : State := { s with ptp := Vector.replicate 2 {}, servo := {}, regs := [], link := {} }

theorem eq_of_portless (h : portless t = portless s) :
    t = { s with ptp := t.ptp, servo := t.servo, regs := t.regs, link := t.link } := by
  cases t; cases s; cases h; rfl

/-- A step of the PTP ports: registers at the offsets `l`, the ports and the time servo, nothing else. -/
structure PortStep (l : List Nat) (s t : State) : Prop extends Writes l s t where
  rest : portless t = portless s

theorem PortStep.refl : PortStep l s s := ⟨.refl, rfl⟩

theorem PortStep.trans (h : PortStep l s t) (g : PortStep l t u) : PortStep l s u :=
  ⟨h.toWrites.trans g.toWrites, g.rest.trans h.rest⟩

theorem PortStep.mono (h : PortStep l s t) (hl : ∀ o ∈ l, o ∈ m) : PortStep m s t := ⟨h.toWrites.mono hl, h.rest⟩

theorem PortStep.clk (h : PortStep l s t) : t.clk = s.clk := (congrArg State.clk h.rest :)
theorem PortStep.alive (h : PortStep l s t) : t.clk.alive = s.clk.alive := congrArg Clock.alive h.clk

theorem ServoStep.port (h : ServoStep l s t) : PortStep l s t := ⟨h.toWrites, (congrArg portless h.rest :)⟩

theorem portStep_irq : PortStep [Reg.IRQ_STAT] s (irq p i b s) := servoStep_irq.port
theorem portStep_irqIf {x : Bool} : PortStep [Reg.IRQ_STAT] s (irqIf x p i b s) := servoStep_irqIf.port
theorem portStep_count (hn : n < 16) : PortStep [Reg.CNT + 4 * n, Reg.CNT_OVF, Reg.IRQ_STAT] s (count p i n s) := (servoStep_count hn).port

theorem portStep_setReg (ho : off < 4096) (hi : off ≠ Reg.IRQ_STAT) : PortStep [off] s (setReg p i off v s) := ⟨writes_setReg ho hi, rfl⟩

theorem portStep_modPtp {f : PtpPort → PtpPort} : PortStep l s (modPtp e f s) := ⟨writes_of_regs rfl, rfl⟩

-- What a port reads of its settings

section Settings
variable (h : Writes l s t) (wf : regsWf s.regs = true)
include h wf

theorem Writes.fld {hi lo : Nat} (ho : off < 4096 ∧ off ∉ l) : fld t p i off hi lo = fld s p i off hi lo :=
  congrArg (field · hi lo) (h.reg wf ho)

theorem Writes.assisted (hl : Reg.MODE ∉ l) : assisted t p i = assisted s p i := by
  rw [Machine.assisted, h.fld wf ⟨by decide, hl⟩, Machine.assisted]

theorem Writes.enabled (hl : Reg.CTRL ∉ l) : enabled t p i = enabled s p i := congrArg (bit · 0) (h.reg wf ⟨by decide, hl⟩)

theorem Writes.ptpRole (hl : Reg.PTP_CFG ∉ l) : ptpRole t e = ptpRole s e := h.fld wf ⟨by decide, hl⟩

variable (alive : t.clk.alive = s.clk.alive)
include alive

theorem Writes.ptpRuns (hl : ∀ o ∈ [Reg.CTRL, Reg.PTP_CFG], o ∉ l) : ptpRuns t e = ptpRuns s e := by
  simp only [Machine.ptpRuns, alive, h.enabled wf (hl _ (by decide)), h.ptpRole wf (hl _ (by decide))]

theorem Writes.ptpSlave (hl : ∀ o ∈ [Reg.CTRL, Reg.PTP_CFG, Reg.PTP_PSTATE], o ∉ l) : ptpSlave t e = ptpSlave s e := by
  have runs : ∀ o ∈ [Reg.CTRL, Reg.PTP_CFG], o ∉ l := fun o ho => hl o (by simp at ho ⊢; omega)
  simp only [Machine.ptpSlave, h.ptpRuns wf alive runs, h.ptpRole wf (hl _ (by decide)), h.fld wf ⟨by decide, hl Reg.PTP_PSTATE (by decide)⟩]

end Settings

-- Path delays (R91)

section Delay
variable {d : Word}

/-- A mean path delay shows in `MPD` and becomes the port's last one. -/
def delayNoted (e : Hub) (d : Word) (s : State) : State :=
  modPtp e (fun p => { p with mpd := some d.toInt }) (setReg .ptp e Reg.PTP_MPD d s)

/-- A path delay that jumps is reported. -/
def delayStepped (e : Hub) (d : Word) (s : State) : State := count .ptp e 6 (irq .ptp e ptpPdStep (delayNoted e d s))

theorem portStep_delayNoted : PortStep [Reg.PTP_MPD] s (delayNoted e d s) :=
  (portStep_setReg (by decide) (by decide)).trans portStep_modPtp

/-- What a path delay writes on its port's page. -/
def delayOffs : List Nat := [Reg.PTP_MPD, Reg.CNT + 24, Reg.CNT_OVF, Reg.IRQ_STAT]

theorem portStep_delayStepped : PortStep delayOffs s (delayStepped e d s) :=
  ((portStep_delayNoted.mono (by decide)).trans (portStep_irq.mono (by decide))).trans ((portStep_count (by decide)).mono (by decide))

theorem pathStep_unmeasured (h : (s.ptp[e]).mpd = none) : pathStep s e d = false := by
  simp only [pathStep, h]

theorem pathDelay_steady (h : pathStep s e d = false) : pathDelay e d s = delayNoted e d s := by
  simp only [pathDelay, h, Bool.false_eq_true, if_false, delayNoted]

/-- A jump on the port that feeds the servo starts a quarantine (R91). -/
theorem pathDelay_jumps (wf : regsWf s.regs = true) (h : pathStep s e d = true) : pathDelay e d s =
    if ptpSlave s e && !assisted s .tb 0 then startQuarantine (delayStepped e d s) else delayStepped e d s := by
  have step := portStep_delayStepped (e := e) (d := d) (s := s)
  rw [← step.ptpSlave wf step.alive (by decide), ← step.assisted wf (by decide)]
  exact if_pos h

theorem portStep_pathDelay : PortStep delayOffs s (pathDelay e d s) := by
  unfold pathDelay
  dsimp only
  split
  · split
    · exact portStep_delayStepped.trans (servoStep_startQuarantine.port.mono (by decide))
    · exact portStep_delayStepped
  · exact portStep_delayNoted.mono (by decide)

theorem delayStepped_ptp : (delayStepped e d s).ptp = vmod s.ptp e fun p => { p with mpd := some d.toInt } := by
  rw [delayStepped, count_ptp, irq_ptp]
  rfl

theorem delayStepped_servo : (delayStepped e d s).servo = s.servo := by
  rw [delayStepped, count_servo, irq_servo]
  rfl

theorem pathDelay_ptp : (pathDelay e d s).ptp = vmod s.ptp e fun p => { p with mpd := some d.toInt } := by
  unfold pathDelay
  dsimp only
  split
  · split
    · exact servoStep_startQuarantine.ptp.trans delayStepped_ptp
    · exact delayStepped_ptp
  · rfl

theorem pathDelay_mpd (wf : regsWf s.regs = true) : reg (pathDelay e d s) .ptp e Reg.PTP_MPD = d := by
  have noted : reg (delayNoted e d s) .ptp e Reg.PTP_MPD = d := reg_setReg_same wf
  have stepped : Writes [Reg.CNT + 24, Reg.CNT_OVF, Reg.IRQ_STAT] (delayNoted e d s) (delayStepped e d s) :=
    (writes_irq.mono (by decide)).trans (writes_count (n := 6) (by decide))
  have wf' := (portStep_delayNoted (e := e) (d := d)).wf wf
  cases h : pathStep s e d with
  | false => rw [pathDelay_steady h, noted]
  | true =>
    rw [pathDelay_jumps wf h]
    split
    · rw [(stepped.trans (servoStep_startQuarantine.toWrites.mono (by decide))).reg wf' (by decide), noted]
    · rw [stepped.reg wf' (by decide), noted]

theorem delayStepped_flag (wf : regsWf s.regs = true) : bit (reg (delayStepped e d s) .ptp e Reg.IRQ_STAT) ptpPdStep = true :=
  (writes_count (n := 6) (by decide)).flag (regsWf_irq (portStep_delayNoted.wf wf)) (irq_bit (portStep_delayNoted.wf wf) (by decide))

end Delay

-- OFFSET_SAMPLE (R81, R83, R86, R91)

/-- The state in which an offset sample shows in `OFFSET` and its path delay is noted. -/
def offsetNoted (e : Hub) (x : BitVec 64) (d : Word) (s : State) : State := pathDelay e d (setReg .ptp e Reg.PTP_OFFSET (lo32 x) s)

section Offset
variable {x : BitVec 64} {d : Word}

/-- What an offset sample writes on its port's page. -/
def offsetOffs : List Nat := Reg.PTP_OFFSET :: delayOffs

theorem portStep_offsetNoted : PortStep offsetOffs s (offsetNoted e x d s) :=
  ((portStep_setReg (by decide) (by decide)).mono (by decide)).trans (portStep_pathDelay.mono (by decide))

theorem offsetSample_eq {o : BitVec 64} (wf : regsWf s.regs = true) (h : ptpSlave s e = true)
    (hx : x = o + (reg s .ptp e Reg.PTP_ASYM_COR).signExtend 64) : offsetSample e o d s =
      if assisted s .tb 0 then offsetNoted e x d s
      else servoSample x.toInt (modServo (fun v => { v with src := e }) (offsetNoted e x d s)) := by
  subst hx
  rw [← portStep_offsetNoted.assisted wf (by decide)]
  exact if_pos h

/-- What an offset sample may write. -/
theorem portStep_offsetSample {o : BitVec 64} : PortStep (offsetOffs ++ sampleOffs) s (offsetSample e o d s) := by
  unfold offsetSample
  dsimp only
  split
  · split
    · exact portStep_offsetNoted.mono (by decide)
    · exact ((portStep_offsetNoted.mono (by decide)).trans servoStep_modServo.port).trans (servoStep_servoSample.port.mono (by decide))
  · exact .refl

/-- The servo's part of an offset sample leaves the port and the registers that show it. -/
theorem servoStep_offsetSample {o : BitVec 64} (wf : regsWf s.regs = true) (h : ptpSlave s e = true)
    (hx : x = o + (reg s .ptp e Reg.PTP_ASYM_COR).signExtend 64) :
    ServoStep sampleOffs (offsetNoted e x d s) (offsetSample e o d s) := by
  rw [offsetSample_eq wf h hx]
  split
  · exact .refl
  · exact servoStep_modServo.trans servoStep_servoSample

theorem offsetNoted_regs (wf : regsWf s.regs = true) : reg (offsetNoted e x d s) .ptp e Reg.PTP_OFFSET = lo32 x ∧
    reg (offsetNoted e x d s) .ptp e Reg.PTP_MPD = d ∧ ((offsetNoted e x d s).ptp[e]).mpd = some d.toInt := by
  have wf' : regsWf (setReg .ptp e Reg.PTP_OFFSET (lo32 x) s).regs = true := regsWf_setReg wf
  refine ⟨?_, pathDelay_mpd wf', ?_⟩
  · rw [offsetNoted, portStep_pathDelay.reg wf' (by decide), reg_setReg_same wf]
  · rw [offsetNoted, pathDelay_ptp, vmod_same]

/-- A sample in host-assisted mode, or with a steady path delay, leaves the servo as it is until it reaches it. -/
theorem offsetNoted_servo (wf : regsWf s.regs = true) (h : assisted s .tb 0 = true ∨ (s.ptp[e]).mpd = none) :
    (offsetNoted e x d s).servo = s.servo := by
  have wf' : regsWf (setReg .ptp e Reg.PTP_OFFSET (lo32 x) s).regs = true := regsWf_setReg wf
  unfold offsetNoted
  cases hp : pathStep (setReg .ptp e Reg.PTP_OFFSET (lo32 x) s) e d with
  | false => rw [pathDelay_steady hp]; rfl
  | true =>
    obtain h | h := h
    · have host : assisted (setReg .ptp e Reg.PTP_OFFSET (lo32 x) s) .tb 0 = true :=
        ((writes_setReg (by decide) (by decide)).assisted wf (by decide)).trans h
      rw [pathDelay_jumps wf' hp, host, Bool.not_true, Bool.and_false, if_neg Bool.false_ne_true, delayStepped_servo]
      rfl
    · rw [pathStep_unmeasured (by exact h)] at hp
      exact nomatch hp

/-- A path delay that jumps in hardware mode: the servo is in quarantine before the sample reaches it (R91). -/
theorem offsetNoted_jumps {m : Int} (wf : regsWf s.regs = true) (slave : ptpSlave s e = true) (hw : assisted s .tb 0 = false)
    (hm : (s.ptp[e]).mpd = some m) (jump : (reg s .tb 0 Reg.TB_PD_STEP).toNat < (d.toInt - m).natAbs) :
    offsetNoted e x d s = startQuarantine (delayStepped e d (setReg .ptp e Reg.PTP_OFFSET (lo32 x) s)) := by
  have step : PortStep [Reg.PTP_OFFSET] s (setReg .ptp e Reg.PTP_OFFSET (lo32 x) s) := portStep_setReg (by decide) (by decide)
  have hp : pathStep (setReg .ptp e Reg.PTP_OFFSET (lo32 x) s) e d = true := by
    simp only [pathStep, setReg_ptp, hm, step.reg wf (by decide : Reg.TB_PD_STEP < 4096 ∧ Reg.TB_PD_STEP ∉ [Reg.PTP_OFFSET])]
    exact decide_eq_true jump
  rw [offsetNoted, pathDelay_jumps (step.wf wf) hp, step.ptpSlave wf rfl (by decide), step.assisted wf (by decide), slave, hw]
  rfl

theorem startQuarantine_quar : (startQuarantine s).servo.quar = 8 ∧ (startQuarantine s).servo.plantOfs = s.servo.plantOfs := by
  rw [startQuarantine_servo]
  split <;> simp

end Offset

/-- R81, R83, R86, R91: an offset sample of the port in SLAVE state. -/
theorem exec_offsetSample (on : s.clk.on = true) (wf : regsWf s.regs = true) {o x : BitVec 64} {d : Word} (slave : ptpSlave s e = true)
    (hx : x = o + (reg s .ptp e Reg.PTP_ASYM_COR).signExtend 64) :
    ∃ t, exec (.offsetSample e o d) s = .next t ∧ reg t .ptp e Reg.PTP_OFFSET = lo32 x ∧ reg t .ptp e Reg.PTP_MPD = d ∧
      (t.ptp[e]).mpd = some d.toInt ∧ (assisted s .tb 0 = true → t.servo = s.servo) ∧
      (assisted s .tb 0 = false → (s.ptp[e]).mpd = none → s.servo.quar = 0 → s.servo.aligned = false →
        t.servo.plantOfs = s.servo.plantOfs + x ∧ t.servo.aligned = true ∧ t.servo.src = e) ∧
      (∀ m : Int, assisted s .tb 0 = false → (s.ptp[e]).mpd = some m → (reg s .tb 0 Reg.TB_PD_STEP).toNat < (d.toInt - m).natAbs →
        t.servo.quar = 7 ∧ t.servo.plantOfs = s.servo.plantOfs ∧ bit (reg t .ptp e Reg.IRQ_STAT) ptpPdStep = true) ∧
      t = { s with ptp := t.ptp, servo := t.servo, regs := t.regs, link := t.link } := by
  have acts := offsetSample_eq (d := d) wf slave hx
  have later := servoStep_offsetSample (d := d) wf slave hx
  have wf' : regsWf (offsetNoted e x d s).regs = true := portStep_offsetNoted.wf wf
  obtain ⟨offset, mpd, last⟩ := offsetNoted_regs (e := e) (x := x) (d := d) wf
  refine ⟨_, run_on on, ?_, ?_, ?_, fun host => ?_, fun hw fresh hq first => ?_, fun m hw hm jump => ?_,
    eq_of_portless portStep_offsetSample.rest⟩
  · rw [later.reg wf' (by decide), offset]
  · rw [later.reg wf' (by decide), mpd]
  · rw [later.ptp, last]
  · rw [acts, if_pos host, offsetNoted_servo wf (.inl host)]
  · have servo := offsetNoted_servo (d := d) (x := x) wf (.inr fresh)
    rw [acts, hw, if_neg Bool.false_ne_true, servoSample_aligns (by simp [servo, hq]) (by simp [servo, first])]
    obtain ⟨aligned, plant, -, src⟩ :=
      alignSample_servo (off := x.toInt) (s := modServo (fun v => { v with src := e }) (offsetNoted e x d s))
    refine ⟨?_, aligned, src⟩
    rw [plant, modServo_servo, servo, BitVec.ofInt_toInt]
  · have noted := offsetNoted_jumps (x := x) wf slave hw hm jump
    obtain ⟨quar, plant⟩ := startQuarantine_quar (s := delayStepped e d (setReg .ptp e Reg.PTP_OFFSET (lo32 x) s))
    have flagged : bit (reg (offsetNoted e x d s) .ptp e Reg.IRQ_STAT) ptpPdStep = true := by
      have wfo : regsWf (setReg .ptp e Reg.PTP_OFFSET (lo32 x) s).regs = true := regsWf_setReg wf
      rw [noted]
      exact servoStep_startQuarantine.flag (portStep_delayStepped.wf wfo) (delayStepped_flag wfo)
    obtain ⟨quar', plant'⟩ := servoSample_quarantined (off := x.toInt)
      (s := modServo (fun v => { v with src := e }) (offsetNoted e x d s)) (by simp [noted, quar])
    rw [modServo_servo, noted] at quar' plant'
    refine ⟨?_, ?_, later.flag wf' flagged⟩
    · rw [acts, hw, if_neg Bool.false_ne_true, noted, quar', quar]
    · rw [acts, hw, if_neg Bool.false_ne_true, noted, plant', plant, delayStepped_servo]
      rfl

-- HA_RATE and the host window (R93, R100)

theorem writeHaRate_taken (h : v.toInt.natAbs ≤ 51200000) : writeHaRate v s = chg .tb 0 (setReg .tb 0 Reg.TB_HA_RATE v s) := if_pos h

theorem writeHaRate_refused (h : 51200000 < v.toInt.natAbs) : writeHaRate v s = recordErr .tb 0 0x0004 s := if_neg (Nat.not_le.mpr h)

/-- R93: the host rate word within ±200 ppm is taken. -/
theorem exec_haRate_taken (on : s.clk.on = true) (wf : regsWf s.regs = true) (h : v.toInt.natAbs ≤ 51200000) :
    ∃ t, exec (.haRate v) s = .next t ∧ reg t .tb 0 Reg.TB_HA_RATE = v ∧
      RegsBut [regKey .tb 0 Reg.TB_HA_RATE, regKey .tb 0 Reg.CHG] s t ∧ t = { s with regs := t.regs } := by
  refine ⟨_, run_on on, ?_⟩
  rw [writeHaRate_taken h]
  refine ⟨?_, fun k hk => ?_, rfl⟩
  · rw [reg_eq_regAt, chg_regAt_other (regsWf_setReg wf) (by decide), regAt_setReg_same wf]
  · simp only [List.mem_cons, List.not_mem_nil, or_false, not_or] at hk
    rw [chg_regAt_other (regsWf_setReg wf) hk.2, regAt_setReg_other wf hk.1]

/-- R100: one beyond is refused. -/
theorem exec_haRate_refused (on : s.clk.on = true) (wf : regsWf s.regs = true) (h : 51200000 < v.toInt.natAbs) :
    ∃ t, exec (.haRate v) s = .next t ∧ field (reg t .tb 0 Reg.ERR) 15 0 = 4 ∧
      RegsBut (errKeys .tb 0) s t ∧ t = { s with regs := t.regs, link := t.link } := by
  refine ⟨_, run_on on, ?_⟩
  rw [writeHaRate_refused h]
  exact ⟨recordErr_code wf (by decide), fun _ => recordErr_regAt_other wf, eq_of_quiet quiet_recordErr⟩

theorem haWindowExpiry_eq (host : assisted s .tb 0 = true) (kind : flag s .tb 0 Reg.TB_HA_CFG 0 = false)
    (late : fld s .tb 0 Reg.TB_HA_CFG 31 16 ≤ s.servo.haAge) : haWindowExpiry s = haLate .tb 0 7 (sourceLost (sampled s)) := by
  simp only [haWindowExpiry, host, kind, late, Bool.not_false, Bool.and_self, decide_true, if_true, sampled]

/-- R93: `WINDOW` bus cycles without a host sample. -/
theorem exec_haWindowExpiry (on : s.clk.on = true) (wf : regsWf s.regs = true) (host : assisted s .tb 0 = true)
    (kind : flag s .tb 0 Reg.TB_HA_CFG 0 = false) (late : fld s .tb 0 Reg.TB_HA_CFG 31 16 ≤ s.servo.haAge) :
    ∃ t, exec .tbHaWindowExpiry s = .next t ∧ bit (reg t .tb 0 Reg.IRQ_STAT) irqHaLate = true ∧
      reg t .tb 0 (Reg.CNT + 28) = reg s .tb 0 (Reg.CNT + 28) + 1 ∧
      (s.servo.st = .acquire ∨ s.servo.st = .locked → t.servo.st = .holdover) ∧ t.servo.plantOfs = s.servo.plantOfs ∧
      t = { s with servo := t.servo, regs := t.regs, link := t.link } := by
  have lost : ServoStep [Reg.IRQ_STAT] s (sourceLost (sampled s)) := servoStep_modServo.trans servoStep_sourceLost
  have noted : ServoStep [Reg.IRQ_STAT] s (irq .tb 0 irqHaLate (sourceLost (sampled s))) := lost.trans servoStep_irq
  have counted : ServoStep [Reg.CNT + 28, Reg.CNT_OVF, Reg.IRQ_STAT] (irq .tb 0 irqHaLate (sourceLost (sampled s)))
      (haLate .tb 0 7 (sourceLost (sampled s))) := servoStep_count (n := 7) (by decide)
  have servo : (haLate .tb 0 7 (sourceLost (sampled s))).servo = (sourceLost (sampled s)).servo := haLate_servo
  refine ⟨_, run_on on, ?_⟩
  rw [haWindowExpiry_eq host kind late]
  refine ⟨counted.flag (noted.wf wf) (irq_bit (lost.wf wf) (by decide)), ?_, fun running => ?_, ?_,
    eq_of_servoless (counted.rest.trans noted.rest)⟩
  · exact (count_reg (n := 7) (noted.wf wf) (by decide)).trans (congrArg (· + 1) (noted.reg wf (by decide)))
  · rw [servo, sourceLost_servo, if_pos (by exact running), heldOver_st]
  · rw [servo, sourceLost_servo]
    split
    · rw [heldOver_plantOfs]; rfl
    · rfl

/-- Settles O31, one command after the other. -/
theorem timeServoInputs : Obligations.TimeServoInputs := by
  intro s on wf
  refine ⟨fun e o x d slave hx => exec_offsetSample on wf slave hx, fun v h => (run_on on).trans ?_, fun v h => (run_on on).trans ?_,
    fun v h => exec_haRate_taken on wf h, fun v h => exec_haRate_refused on wf h,
    fun host kind late => exec_haWindowExpiry on wf host kind late⟩
  · rw [writeStepAck, if_pos h]
    rfl
  · rw [writeStepAck, if_neg (by simp [h])]

end Sys2Proof.Machine

/-! SUPPORT. `LINE_CFG` and `LOAD` of line phase, and the firefly lists that follow it (R94, R95, R488). -/

namespace Sys2Proof.Machine

variable {s t u : State} {n : Sixteen} {k off : Nat} {v w : Word} {l : List Nat}

-- The lists leave the encoder channels

@[simp] theorem adcTrigger_enc {sel delay : Nat} : (adcTrigger k sel delay s).enc = s.enc := by
  refine forEach_preserves (fun q s => ?_) _ _
  dsimp only
  split
  · split <;> simp
  · rfl

@[simp] theorem startPulse_enc : (startPulse n s).enc = s.enc := by
  unfold startPulse
  dsimp only
  split <;> simp

@[simp] theorem fireEntry_enc : (fireEntry n s).enc = s.enc := by simp [fireEntry]

@[simp] theorem missEntry_enc : (missEntry n s).enc = s.enc := by simp [missEntry]

@[simp] theorem advancePtr_enc : (advancePtr n s).1.enc = s.enc := by
  unfold advancePtr
  dsimp only
  split
  · rfl
  · split <;> simp

theorem judgeEntries_enc {step : Option (Int × Int)} : (judgeEntries n k step s).enc = s.enc := by
  induction k generalizing s step with
  | zero => rfl
  | succ k ih =>
    have tested (skip hit : Bool) : (if skip then s else if hit then fireEntry n s else missEntry n s).enc = s.enc := by
      split
      · rfl
      · split <;> simp
    have advanced (u : State) (h : u.enc = s.enc) : (if (advancePtr n u).2 && step.isNone then
        modFfy n (fun f => { f with judge := true }) (advancePtr n u).1
        else judgeEntries n k (if (advancePtr n u).2 then none else step) (advancePtr n u).1).enc = s.enc := by
      split
      · rw [modFfy_enc, advancePtr_enc, h]
      · rw [ih, advancePtr_enc, h]
    unfold judgeEntries
    split
    · rfl
    · dsimp only
      split
      · rfl
      · exact advanced _ (tested _ _)

@[simp] theorem becomeCurrent_enc : (becomeCurrent n s).enc = s.enc := judgeEntries_enc

theorem ffyRefresh_enc : (ffyRefresh s).enc = s.enc := by
  refine forEach_preserves (fun q s => ?_) _ _
  dsimp only
  split
  · simp
  · split <;> simp

theorem ffyLineEvent_enc : (ffyLineEvent s).enc = s.enc := by
  refine forEach_preserves (fun q s => ?_) _ _
  split <;> simp

theorem ffyStep_ffyLineEvent : FfyStep s (ffyLineEvent s) := by
  refine FfyStep.forEach (fun q s => ?_) _ _
  split
  · exact ffyStep_becomeCurrent
  · exact .refl

/-- After `LINE_CFG` is written the lists follow: registers of the time base, line phase, the clock and the channels stay (R488). -/
theorem lineCfgWritten_follows : FfyStep (writeLineCfg v s) (lineCfgWritten v s) ∧ (lineCfgWritten v s).enc = (writeLineCfg v s).enc := by
  unfold lineCfgWritten
  dsimp only
  split
  · exact ⟨ffyStep_ffyRefresh.trans ffyStep_ffyLineEvent, ffyLineEvent_enc.trans ffyRefresh_enc⟩
  · exact ⟨ffyStep_ffyRefresh, ffyRefresh_enc⟩

theorem FfyStep.reg (h : FfyStep s t) (wf : regsWf s.regs = true) (ho : off < 4096) : reg t .tb 0 off = reg s .tb 0 off := by
  refine (h.kept _ ?_).same wf
  simp only [regKey, pageAddr, pgRow, Bool.false_eq_true, if_false]
  omega

theorem FfyStep.clk (h : FfyStep s t) : t.clk = s.clk := congrArg Prod.fst h.paced
theorem FfyStep.line (h : FfyStep s t) : t.line = s.line := congrArg (fun x => x.2.2.2.1) h.paced

-- LINE_CFG (R94, R95)

/-- A step of line phase: registers at the offsets `l` and line phase, but not its validity; the clock and the channels stay. -/
structure LineStep (l : List Nat) (s t : State) : Prop extends Writes l s t where
  clk : t.clk = s.clk
  enc : t.enc = s.enc
  valid : t.line.valid = s.line.valid

theorem LineStep.refl : LineStep l s s := ⟨.refl, rfl, rfl, rfl⟩

theorem LineStep.trans (h : LineStep l s t) (g : LineStep l t u) : LineStep l s u :=
  ⟨h.toWrites.trans g.toWrites, g.clk.trans h.clk, g.enc.trans h.enc, g.valid.trans h.valid⟩

theorem lineStep_modLine {f : LinePhase → LinePhase} (h : (f s.line).valid = s.line.valid) : LineStep l s (modLine f s) :=
  ⟨writes_of_regs rfl, rfl, rfl, h⟩

theorem lineStep_lineEvent {p : Int} : LineStep l s (lineEvent p s) := ⟨writes_of_regs rfl, rfl, rfl, rfl⟩

theorem lineStep_lineStarted : LineStep l s (lineStarted s) := by
  have thawed : LineStep l s (modLine (fun x => { x with enFrozen := false }) s) := lineStep_modLine rfl
  unfold lineStarted
  dsimp only
  split
  · exact thawed
  · split
    · exact thawed.trans lineStep_lineEvent
    · exact ⟨writes_of_regs rfl, rfl, rfl, rfl⟩

/-- `LINE_CFG` with a new value: clearing `EN` freezes phase, setting it lets phase go on (R95). -/
def lineSwitched (new : Word) (s : State) : State :=
  let old := reg s .tb 0 Reg.TB_LINE_CFG
  let t := if bit old 0 && !bit new 0 then modLine (fun l => { l with last := linePhase s, hold := none, enFrozen := true }) s else s
  let t := chg .tb 0 (setReg .tb 0 Reg.TB_LINE_CFG new t)
  if !bit old 0 && bit new 0 then lineStarted t else t

/-- What a write of `LINE_CFG` writes beside errors. -/
def lineOffs : List Nat := [Reg.TB_LINE_CFG, Reg.CHG]

theorem lineStep_stored : LineStep lineOffs s (chg .tb 0 (setReg .tb 0 Reg.TB_LINE_CFG w s)) := by
  refine LineStep.trans (t := setReg .tb 0 Reg.TB_LINE_CFG w s) ⟨?_, rfl, rfl, rfl⟩ ⟨?_, rfl, rfl, rfl⟩
  · exact (writes_setReg (by decide) (by decide)).mono (by decide)
  · exact (writes_setReg (by decide) (by decide)).mono (by decide)

theorem lineStep_stopped {x : Bool} : LineStep l s
    (if x then modLine (fun l => { l with last := linePhase s, hold := none, enFrozen := true }) s else s) := by
  split
  · exact lineStep_modLine rfl
  · exact .refl

theorem lineStep_started {x : Bool} : LineStep l s (if x then lineStarted s else s) := by
  split
  · exact lineStep_lineStarted
  · exact .refl

theorem lineStep_lineSwitched : LineStep lineOffs s (lineSwitched w s) :=
  (lineStep_stopped.trans lineStep_stored).trans lineStep_started

theorem lineSwitched_cfg (wf : regsWf s.regs = true) : reg (lineSwitched w s) .tb 0 Reg.TB_LINE_CFG = w := by
  have stored (u : State) (wf : regsWf u.regs = true) :
      reg (chg .tb 0 (setReg .tb 0 Reg.TB_LINE_CFG w u)) .tb 0 Reg.TB_LINE_CFG = w := by
    rw [reg_eq_regAt, chg_regAt_other (regsWf_setReg wf) (by decide)]
    exact reg_setReg_same wf
  have stopped (x : Bool) := (lineStep_stopped (l := []) (s := s) (x := x)).wf wf
  exact (lineStep_started.reg (l := []) (lineStep_stored.wf (stopped _)) (by decide)).trans (stored _ (stopped _))

/-- A value that leaves `EN` as it stands neither freezes phase nor lets it go on. -/
theorem lineSwitched_sameEn (h : bit w 0 = lineEn s) : lineSwitched w s = chg .tb 0 (setReg .tb 0 Reg.TB_LINE_CFG w s) := by
  have en : bit (reg s .tb 0 Reg.TB_LINE_CFG) 0 = lineEn s := rfl
  simp only [lineSwitched, en, h, Bool.and_not_self, Bool.not_and_self, Bool.false_eq_true, if_false]

/-- A write that leaves the source, or finds `EN` = 0, is taken whole (R94). -/
theorem writeLineCfg_taken (same : lineEn s = false ∨ field v 7 4 = fld s .tb 0 Reg.TB_LINE_CFG 7 4) : writeLineCfg v s =
    if bit v 8 then writeLineLoad (lineSwitched (v &&& 0xF3) s) else lineSwitched (v &&& 0xF3) s := by
  have good : (bit (reg s .tb 0 Reg.TB_LINE_CFG) 0 && field v 7 4 != field (reg s .tb 0 Reg.TB_LINE_CFG) 7 4) = false := by
    obtain h | h := same
    · exact Bool.and_eq_false_imp.mpr fun e => nomatch e.symm.trans h
    · exact Bool.and_eq_false_imp.mpr fun _ => bne_eq_false_iff_eq.mpr h
  simp only [writeLineCfg, good, Bool.false_eq_true, if_false, lineSwitched]

/-- A change of the source while `EN` = 1 is refused; the other fields are taken (R94). -/
theorem writeLineCfg_badSource (load : bit v 8 = false) (on : lineEn s = true) (h : field v 7 4 ≠ fld s .tb 0 Reg.TB_LINE_CFG 7 4) :
    writeLineCfg v s =
      recordErr .tb 0 0x0101 (lineSwitched (setField v 7 4 (field (reg s .tb 0 Reg.TB_LINE_CFG) 7 4) &&& 0xF3) s) := by
  have bad : (bit (reg s .tb 0 Reg.TB_LINE_CFG) 0 && field v 7 4 != field (reg s .tb 0 Reg.TB_LINE_CFG) 7 4) = true :=
    Bool.and_eq_true_iff.mpr ⟨on, bne_iff_ne.mpr h⟩
  simp only [writeLineCfg, bad, load, Bool.false_eq_true, if_true, if_false, lineSwitched]

/-- The implemented bits of `LINE_CFG` (R94). -/
theorem lineMask_getLsbD {j : Nat} : (0xF3 : Word).getLsbD j = decide (j ∈ [0, 1, 4, 5, 6, 7]) := by
  by_cases h : j < 32
  · have every : ∀ j : Fin 32, (0xF3 : Word).getLsbD j.val = decide (j.val ∈ [0, 1, 4, 5, 6, 7]) := by decide
    exact every ⟨j, h⟩
  · rw [BitVec.getLsbD_of_ge _ _ (Nat.not_lt.mp h)]
    simp
    omega

theorem field_lineMask : field (w &&& 0xF3) 7 4 = field w 7 4 := by
  refine Nat.eq_of_testBit_eq fun j => ?_
  rw [testBit_field (by decide), testBit_field (by decide), BitVec.getLsbD_and, lineMask_getLsbD]
  by_cases h : j ≤ 7 - 4
  · have implemented : 4 + j ∈ [0, 1, 4, 5, 6, 7] := by
      simp only [List.mem_cons, List.not_mem_nil, or_false]
      omega
    rw [decide_eq_true implemented, Bool.and_true]
  · rw [decide_eq_false h, Bool.false_and, Bool.false_and]

theorem bit_lineMask : bit (w &&& 0xF3) 0 = bit w 0 := by
  rw [bit, BitVec.getLsbD_and, lineMask_getLsbD]
  exact Bool.and_true _

/-- `LINE_CFG` as it stands with `LOAD` set: the source and `EN` are those in force. -/
theorem lineCfg_withLoad : bit (w ||| 0x100) 8 = true ∧ bit (w ||| 0x100) 0 = bit w 0 ∧ field (w ||| 0x100) 7 4 = field w 7 4 := by
  have load {j : Nat} (h : j < 8) : (w ||| 0x100).getLsbD j = w.getLsbD j := by
    have clear : ∀ j : Fin 8, (0x100 : Word).getLsbD j.val = false := by decide
    rw [BitVec.getLsbD_or, clear ⟨j, h⟩, Bool.or_false]
  refine ⟨?_, load (by decide), Nat.eq_of_testBit_eq fun j => ?_⟩
  · rw [bit, BitVec.getLsbD_or]
    exact Bool.or_true _
  · rw [testBit_field (by decide), testBit_field (by decide)]
    by_cases h : j ≤ 7 - 4
    · rw [load (by omega)]
    · rw [decide_eq_false h, Bool.false_and, Bool.false_and]

/-- The value that a refused change of the source leaves: the old source, the other fields as written (R94). -/
theorem lineCfg_keptSource : field (setField v 7 4 (field w 7 4) &&& 0xF3) 7 4 = field w 7 4 ∧
    bit (setField v 7 4 (field w 7 4) &&& 0xF3) 0 = bit v 0 := by
  constructor
  · rw [field_lineMask, field_setField (by decide) (by decide)]
    exact Nat.mod_eq_of_lt (Nat.mod_lt _ (by decide))
  · rw [bit_lineMask, bit, getLsbD_setField (by decide) (by decide)]
    rfl

-- The commands

/-- R94, R95: `LINE_CFG` takes `EN`, `INV` and `SRC`. -/
theorem exec_lineCfg_taken (on : s.clk.on = true) (wf : regsWf s.regs = true) (load : bit v 8 = false)
    (same : lineEn s = false ∨ field v 7 4 = fld s .tb 0 Reg.TB_LINE_CFG 7 4) :
    ∃ t, exec (.lineCfg v) s = .next t ∧ reg t .tb 0 Reg.TB_LINE_CFG = v &&& 0xF3 ∧
      reg t .tb 0 Reg.ERR = reg s .tb 0 Reg.ERR ∧ t.line.valid = s.line.valid ∧ t.clk = s.clk ∧ t.enc = s.enc := by
  obtain ⟨follows, enc⟩ := lineCfgWritten_follows (v := v) (s := s)
  rw [writeLineCfg_taken same, load, if_neg Bool.false_ne_true] at follows enc
  have step := lineStep_lineSwitched (w := v &&& 0xF3) (s := s)
  refine ⟨_, run_on on, ?_, ?_, ?_, follows.clk.trans step.clk, enc.trans step.enc⟩
  · rw [follows.reg (step.wf wf) (by decide), lineSwitched_cfg wf]
  · rw [follows.reg (step.wf wf) (by decide), step.reg wf (by decide)]
  · rw [follows.line, step.valid]

/-- R94: a change of `SRC` while `EN` = 1 is refused. -/
theorem exec_lineCfg_badSource (on : s.clk.on = true) (wf : regsWf s.regs = true) (load : bit v 8 = false) (en : lineEn s = true)
    (differs : field v 7 4 ≠ fld s .tb 0 Reg.TB_LINE_CFG 7 4) :
    ∃ t, exec (.lineCfg v) s = .next t ∧ fld t .tb 0 Reg.TB_LINE_CFG 7 4 = fld s .tb 0 Reg.TB_LINE_CFG 7 4 ∧
      flag t .tb 0 Reg.TB_LINE_CFG 0 = bit v 0 ∧ field (reg t .tb 0 Reg.ERR) 15 0 = 0x0101 ∧ t.clk = s.clk ∧ t.enc = s.enc := by
  obtain ⟨follows, enc⟩ := lineCfgWritten_follows (v := v) (s := s)
  rw [writeLineCfg_badSource load en differs] at follows enc
  have step := lineStep_lineSwitched (w := setField v 7 4 (field (reg s .tb 0 Reg.TB_LINE_CFG) 7 4) &&& 0xF3) (s := s)
  have cfg := lineSwitched_cfg (w := setField v 7 4 (field (reg s .tb 0 Reg.TB_LINE_CFG) 7 4) &&& 0xF3) wf
  generalize lineSwitched (setField v 7 4 (field (reg s .tb 0 Reg.TB_LINE_CFG) 7 4) &&& 0xF3) s = u at follows enc step cfg
  obtain ⟨source, en'⟩ := lineCfg_keptSource (v := v) (w := reg s .tb 0 Reg.TB_LINE_CFG)
  have kept : reg (lineCfgWritten v s) .tb 0 Reg.TB_LINE_CFG = reg u .tb 0 Reg.TB_LINE_CFG := by
    rw [follows.reg (regsWf_recordErr (step.wf wf)) (by decide)]
    exact recordErr_regAt_other (step.wf wf) (by decide)
  refine ⟨_, run_on on, ?_, ?_, ?_, follows.clk.trans (recordErr_clk.trans step.clk), enc.trans (recordErr_enc.trans step.enc)⟩
  · rw [fld, kept, cfg, source, fld]
  · rw [flag, kept, cfg, en']
  · rw [follows.reg (regsWf_recordErr (step.wf wf)) (by decide)]
    exact recordErr_code (step.wf wf) (by decide)

/-- `LINE_CFG` as it stands, its write counted. -/
def lineRestated (s : State) : State :=
  chg .tb 0 (setReg .tb 0 Reg.TB_LINE_CFG ((reg s .tb 0 Reg.TB_LINE_CFG ||| 0x100) &&& 0xF3) s)

theorem lineRestated_fault (wf : regsWf s.regs = true) :
    ((lineRestated s).enc[lineSrc (lineRestated s)]).fault = (s.enc[lineSrc s]).fault := by
  have cfg : reg (lineRestated s) .tb 0 Reg.TB_LINE_CFG = (reg s .tb 0 Reg.TB_LINE_CFG ||| 0x100) &&& 0xF3 := by
    rw [lineRestated, reg_eq_regAt, chg_regAt_other (regsWf_setReg wf) (by decide)]
    exact reg_setReg_same wf
  have source : lineSrc (lineRestated s) = lineSrc s := by
    simp only [lineSrc, fld, cfg, field_lineMask, lineCfg_withLoad.2.2]
  simp only [source]
  rfl

/-- `LINE_LOAD` is the write of `LOAD` beside the settings as they stand (R95). -/
theorem writeLineCfg_load : writeLineCfg (reg s .tb 0 Reg.TB_LINE_CFG ||| 0x100) s = writeLineLoad (lineRestated s) := by
  obtain ⟨load, en, source⟩ := lineCfg_withLoad (w := reg s .tb 0 Reg.TB_LINE_CFG)
  rw [writeLineCfg_taken (.inr source), if_pos load, lineSwitched_sameEn (bit_lineMask.trans en)]
  rfl

theorem exec_lineLoad_taken (on : s.clk.on = true) (wf : regsWf s.regs = true) (ok : (s.enc[lineSrc s]).fault = false) :
    ∃ t, exec .lineLoad s = .next t ∧ t.line.loadPend = true ∧
      t.line.last = s.line.last ∧ t.line.valid = s.line.valid ∧ t.clk = s.clk ∧ t.enc = s.enc := by
  have loads : writeLineLoad (lineRestated s) = modLine (fun l => { l with loadPend := true }) (lineRestated s) :=
    if_neg (Bool.eq_false_iff.mp ((lineRestated_fault wf).trans ok))
  obtain ⟨follows, enc⟩ := lineCfgWritten_follows (v := reg s .tb 0 Reg.TB_LINE_CFG ||| 0x100) (s := s)
  rw [writeLineCfg_load, loads] at follows enc
  exact ⟨_, run_on (f := fun s => lineCfgWritten (reg s .tb 0 Reg.TB_LINE_CFG ||| 0x100) s) on, by rw [follows.line]; rfl,
    by rw [follows.line]; rfl, by rw [follows.line]; rfl, follows.clk, enc⟩

theorem exec_lineLoad_refused (on : s.clk.on = true) (wf : regsWf s.regs = true) (bad : (s.enc[lineSrc s]).fault = true) :
    ∃ t, exec .lineLoad s = .next t ∧ t.line.loadPend = s.line.loadPend ∧
      field (reg t .tb 0 Reg.ERR) 15 0 = 0x0102 ∧ t.clk = s.clk ∧ t.enc = s.enc := by
  have refuses : writeLineLoad (lineRestated s) = recordErr .tb 0 0x0102 (lineRestated s) :=
    if_pos ((lineRestated_fault wf).trans bad)
  have wf' : regsWf (lineRestated s).regs = true := regsWf_chg (regsWf_setReg wf)
  obtain ⟨follows, enc⟩ := lineCfgWritten_follows (v := reg s .tb 0 Reg.TB_LINE_CFG ||| 0x100) (s := s)
  rw [writeLineCfg_load, refuses] at follows enc
  refine ⟨_, run_on (f := fun s => lineCfgWritten (reg s .tb 0 Reg.TB_LINE_CFG ||| 0x100) s) on, ?_, ?_,
    follows.clk.trans recordErr_clk, enc.trans recordErr_enc⟩
  · rw [follows.line, recordErr_line]
    rfl
  · rw [follows.reg (regsWf_recordErr wf') (by decide)]
    exact recordErr_code wf' (by decide)

/-- Settles O32: the write of `LINE_CFG`, and then the lists that follow line phase, which leave what it has set. -/
theorem lineCommands : Obligations.LineCommands := by
  intro s on wf
  exact ⟨fun v load same => exec_lineCfg_taken on wf load same, fun v load en differs => exec_lineCfg_badSource on wf load en differs,
    exec_lineLoad_taken on wf, exec_lineLoad_refused on wf⟩

end Sys2Proof.Machine

/-! SUPPORT. PTP messages received, sent and missed (R75, R80, R81, R101, R102, R570). -/

namespace Sys2Proof.Machine

variable {s t u : State} {l : List Nat} {off : Nat} {e : Hub} {m : PtpMsg} {k : PtpKind}

-- Which messages a port takes

/-- What a port reads of its settings to judge a message. -/
theorem Writes.ptpAccepts (h : Writes l s t) (wf : regsWf s.regs = true)
    (hl : ∀ o ∈ [Reg.PTP_CFG, Reg.ETH_VLAN, Reg.ETH_IPV4], o ∉ l) : ptpAccepts t e m = ptpAccepts s e m := by
  have cfg : Machine.reg t .ptp e Reg.PTP_CFG = Machine.reg s .ptp e Reg.PTP_CFG := h.reg wf ⟨by decide, hl _ (by decide)⟩
  have vlan : Machine.reg t .eth e Reg.ETH_VLAN = Machine.reg s .eth e Reg.ETH_VLAN := h.reg wf ⟨by decide, hl _ (by decide)⟩
  have ipv4 : Machine.reg t .eth e Reg.ETH_IPV4 = Machine.reg s .eth e Reg.ETH_IPV4 := h.reg wf ⟨by decide, hl _ (by decide)⟩
  unfold Machine.ptpAccepts ptpUdp ptpPeer Machine.ptpRole Machine.fld Machine.flag
  rw [cfg, vlan, ipv4]

/-- A message outside the options of R80 or the settings of the port is not taken. -/
theorem ptpAccepts_outside (h : m.kind = .management ∨ m.kind = .signalling ∨ m.transport = .udp6 ∨ m.extra = true ∨
    m.domain.toNat ≠ fld s .ptp e Reg.PTP_CFG 23 16 ∨ m.gptp ≠ flag s .ptp e Reg.PTP_CFG 5) : ptpAccepts s e m = false := by
  unfold ptpAccepts
  obtain h | h | h | h | h | h := h
  · simp [h, ptpDelayKind]
  · simp [h, ptpDelayKind]
  · simp [h]
  · simp [h]
  · simp [beq_eq_false_iff_ne.mpr h]
  · simp [beq_eq_false_iff_ne.mpr h]

theorem runs_parts (h : ptpRuns s e = true) : s.clk.alive[e] = true ∧ enabled s .ptp e = true ∧ ptpRole s e ≠ 0 := by
  simp only [ptpRuns, Bool.and_eq_true, bne_iff_ne] at h
  obtain ⟨⟨⟨alive, en⟩, role⟩, -⟩ := h
  exact ⟨alive, en, role⟩

theorem slave_parts (h : ptpSlave s e = true) : ptpRuns s e = true ∧ ptpRole s e ≤ 3 ∧ fld s .ptp e Reg.PTP_PSTATE 3 0 = 9 := by
  simp only [ptpSlave, Bool.and_eq_true, decide_eq_true_eq, beq_iff_eq] at h
  obtain ⟨⟨runs, role⟩, state⟩ := h
  exact ⟨runs, role, state⟩

-- Port states

theorem portStep_setPstate {v : Nat} : PortStep [Reg.PTP_PSTATE, Reg.IRQ_STAT] s (setPstate e v s) := by
  unfold setPstate
  split
  · exact .refl
  · exact ((portStep_setReg (by decide) (by decide)).mono (by decide)).trans (portStep_irq.mono (by decide))

@[simp] theorem setPstate_ptp {v : Nat} : (setPstate e v s).ptp = s.ptp := by
  unfold setPstate
  split <;> simp

@[simp] theorem setPstate_servo {v : Nat} : (setPstate e v s).servo = s.servo := by
  unfold setPstate
  split <;> simp

theorem setPstate_fld {v : Nat} (wf : regsWf s.regs = true) (hv : v < 16) : fld (setPstate e v s) .ptp e Reg.PTP_PSTATE 3 0 = v := by
  unfold setPstate
  split
  · assumption
  · rw [writes_irq.fld (regsWf_setReg wf) (by decide), fld, reg_setReg_same wf, field, BitVec.toNat_ofNat]
    omega

theorem portStep_noMaster : PortStep l s (noMaster e s) := portStep_modPtp

theorem noMaster_ptp : (noMaster e s).ptp = vmod s.ptp e fun p => { p with master := none, qual := none } := rfl

/-- What a port writes as it shows a grandmaster. -/
def gmOffs : List Nat := [Reg.PTP_GM_HI, Reg.PTP_GM_LO, Reg.IRQ_STAT]

section Gm
variable {g : BitVec 64}

theorem portStep_gmShown : PortStep gmOffs s (setReg .ptp e Reg.PTP_GM_HI (hi32 g) (setReg .ptp e Reg.PTP_GM_LO (lo32 g) s)) :=
  ((portStep_setReg (by decide) (by decide)).mono (by decide)).trans ((portStep_setReg (by decide) (by decide)).mono (by decide))

theorem portStep_setGm : PortStep gmOffs s (setGm e g s) :=
  portStep_gmShown.trans (portStep_irqIf.mono (by decide))

@[simp] theorem setGm_ptp : (setGm e g s).ptp = s.ptp := by simp [setGm]
@[simp] theorem setGm_servo : (setGm e g s).servo = s.servo := by simp [setGm]

theorem setGm_regs (wf : regsWf s.regs = true) : reg (setGm e g s) .ptp e Reg.PTP_GM_HI = hi32 g ∧
    reg (setGm e g s) .ptp e Reg.PTP_GM_LO = lo32 g := by
  have wf' : regsWf (setReg .ptp e Reg.PTP_GM_LO (lo32 g) s).regs = true := regsWf_setReg wf
  constructor
  · exact (writes_irqIf.reg (regsWf_setReg wf') (by decide)).trans (reg_setReg_same wf')
  · refine (writes_irqIf.reg (regsWf_setReg wf') (by decide)).trans ?_
    rw [reg_setReg_other wf' (by decide), reg_setReg_same wf]

end Gm

theorem servoStep_keepSource {was : Bool} : ServoStep [Reg.IRQ_STAT] s (keepSource was s) := by
  unfold keepSource
  split
  · exact servoStep_sourceLost
  · exact .refl

/-- What a change of a port's state writes. -/
def stateOffs : List Nat := [Reg.PTP_PSTATE, Reg.PTP_GM_HI, Reg.PTP_GM_LO, Reg.IRQ_STAT]

theorem portStep_ptpApply {x : PtpDecision} : PortStep stateOffs s (ptpApply e x s) := by
  have state {u : State} {v : Nat} : PortStep stateOffs u (setPstate e v u) := portStep_setPstate.mono (by decide)
  have gm {u : State} {g : BitVec 64} : PortStep stateOffs u (setGm e g u) := portStep_setGm.mono (by decide)
  unfold ptpApply
  dsimp only
  cases x with
  | stay => exact .refl
  | listen => exact portStep_noMaster.trans state
  | master => exact (portStep_noMaster.trans state).trans gm
  | passive => exact portStep_noMaster.trans state
  | slave d =>
    dsimp only
    split
    · exact gm
    · exact (gm.trans portStep_modPtp).trans state
  | relay d =>
    dsimp only
    split
    · exact gm
    · exact (gm.trans portStep_modPtp).trans state

theorem portStep_ptpApply_if {c : Bool} {x : PtpDecision} : PortStep stateOffs s (if c then ptpApply e x s else s) := by
  split
  · exact portStep_ptpApply
  · exact .refl

theorem portStep_ptpStates : PortStep stateOffs s (ptpStates e s) :=
  (portStep_ptpApply_if.trans portStep_ptpApply_if).trans (servoStep_keepSource.port.mono (by decide))

/-- PRE_MASTER ends, or the port stays as it is. -/
theorem ptpQualify_eq : ptpQualify e s = s ∨
    (fld s .ptp e Reg.PTP_PSTATE 3 0 = 5 ∧ ptpQualify e s = setPstate e 6 (noMaster e s)) := by
  unfold ptpQualify
  split
  · split
    · next h => exact .inr ⟨by simp only [Bool.and_eq_true, beq_iff_eq] at h; exact h.2, rfl⟩
    · exact .inl rfl
  · exact .inl rfl

theorem portStep_ptpQualify : PortStep [Reg.PTP_PSTATE, Reg.IRQ_STAT] s (ptpQualify e s) := by
  obtain h | ⟨-, h⟩ := ptpQualify_eq (e := e) (s := s) <;> rw [h]
  · exact .refl
  · exact portStep_noMaster.trans portStep_setPstate

/-- The end of PRE_MASTER leaves a port with no master it did not have, and all that it has heard. -/
theorem ptpQualify_port : ((ptpQualify e s).ptp[e]).heard = (s.ptp[e]).heard ∧ ((ptpQualify e s).ptp[e]).stamp = (s.ptp[e]).stamp ∧
    ((s.ptp[e]).master = none → ((ptpQualify e s).ptp[e]).master = none) := by
  obtain h | ⟨-, h⟩ := ptpQualify_eq (e := e) (s := s) <;> rw [h]
  · exact ⟨rfl, rfl, id⟩
  · rw [setPstate_ptp, noMaster_ptp, vmod_same]
    exact ⟨rfl, rfl, fun _ => rfl⟩

-- Messages that leave a port (R75, R81, R101)

/-- What a message that a port sends leaves of it: the message, newest first, and the timestamp of an event message. -/
def withSent (s : State) (k : PtpKind) (p : PtpPort) : PtpPort :=
  { p with sent := (k, plantTime s) :: p.sent, stamp := if ptpEvent k then nsOf s else p.stamp }

/-- A message is noted on its port and counts on the Ethernet port. -/
def sentNoted (e : Hub) (k : PtpKind) (s : State) : State := modPtp e (withSent s k) (count .eth e 1 s)

/-- What sending a message writes. -/
def sendOffs : List Nat := [Reg.CNT + 4, Reg.CNT + 8, Reg.CNT_OVF, Reg.IRQ_STAT]

theorem portStep_sentNoted : PortStep sendOffs s (sentNoted e k s) :=
  ((portStep_count (by decide)).mono (by decide)).trans portStep_modPtp

theorem ptpSend_cases : ptpSend e k s = sentNoted e k s ∨ ptpSend e k s = count .ptp e 1 (sentNoted e k s) ∨
    ptpSend e k s = count .ptp e 2 (sentNoted e k s) := by
  cases k with
  | sync => exact .inr (.inl rfl)
  | delayReq | pdelayReq => exact .inr (.inr rfl)
  | _ => exact .inl rfl

theorem portStep_ptpSend : PortStep sendOffs s (ptpSend e k s) := by
  obtain h | h | h := ptpSend_cases (e := e) (k := k) (s := s) <;> rw [h]
  · exact portStep_sentNoted
  · exact portStep_sentNoted.trans ((portStep_count (by decide)).mono (by decide))
  · exact portStep_sentNoted.trans ((portStep_count (by decide)).mono (by decide))

theorem sentNoted_ptp : (sentNoted e k s).ptp = vmod s.ptp e (withSent s k) := by
  rw [sentNoted, modPtp_ptp, count_ptp]

theorem ptpSend_ptp : (ptpSend e k s).ptp = vmod s.ptp e (withSent s k) := by
  obtain h | h | h := ptpSend_cases (e := e) (k := k) (s := s) <;> rw [h]
  · exact sentNoted_ptp
  · rw [count_ptp, sentNoted_ptp]
  · rw [count_ptp, sentNoted_ptp]

theorem ptpSend_servo : (ptpSend e k s).servo = s.servo := by
  obtain h | h | h := ptpSend_cases (e := e) (k := k) (s := s) <;> rw [h] <;> simp [sentNoted]

-- A message received (R80, R101, R102)

/-- A frame has come in: it counts on the Ethernet port. -/
def frameIn (e : Hub) (s : State) : State := count .eth e 5 (count .eth e 0 s)

/-- What a frame that comes in writes. -/
def frameOffs : List Nat := [Reg.CNT, Reg.CNT + 20, Reg.CNT_OVF, Reg.IRQ_STAT]

theorem portStep_frameIn : PortStep frameOffs s (frameIn e s) :=
  ((portStep_count (by decide)).mono (by decide)).trans ((portStep_count (by decide)).mono (by decide))

theorem frameIn_ptp : (frameIn e s).ptp = s.ptp := by rw [frameIn, count_ptp, count_ptp]

theorem quiet_frameIn : quiet (frameIn e s) = quiet s := quiet_count.trans quiet_count

/-- A count on an Ethernet page leaves every PTP page (R60, R61). -/
theorem count_eth_ptpReg {n : Nat} {f : Hub} (wf : regsWf s.regs = true) (ho : off < 4096) :
    reg (count .eth e n s) .ptp f off = reg s .ptp f off := by
  refine count_regAt_other wf fun h => ?_
  have apart (o : Nat) : regKey .ptp f off ≠ regKey .eth e o := (regKey_ptp_lt ho le_regKey_eth).ne
  simp only [eventKeys, List.mem_cons, apart, List.not_mem_nil, or_false] at h

theorem frameIn_ptpReg {f : Hub} (wf : regsWf s.regs = true) (ho : off < 4096) : reg (frameIn e s) .ptp f off = reg s .ptp f off :=
  (count_eth_ptpReg (regsWf_count wf) ho).trans (count_eth_ptpReg wf ho)

/-- An event message is timestamped as it comes in (R81). -/
def stamped (e : Hub) (k : PtpKind) (s : State) : State :=
  if ptpEvent k then modPtp e (fun p => { p with stamp := nsOf s }) s else s

/-- The port before a message that it takes acts: PRE_MASTER may have ended, a transparent clock has forwarded the message. -/
def ready (e : Hub) (k : PtpKind) (s : State) : State := ptpForward e k (ptpQualify e (stamped e k (frameIn e s)))

/-- What a message that the port takes does there (R80). -/
def messageActs (e : Hub) (m : PtpMsg) (s : State) : State :=
  match m.kind with
  | .sync => takeSync e m s
  | .followUp => modPtp e (fun p => if p.follow = some m.seq then { p with follow := none } else p) s
  | .delayResp => delayOf e m (count .ptp e 3 s)
  | .pdelayResp => delayOf e m (count .ptp e 3 s)
  | .pdelayRespFollowUp => delayOf e m s
  | .announce => if ptpRole s e ≤ 3 then announce e m.data (count .ptp e 4 s) else count .ptp e 4 s
  | _ => s

theorem ptpMessage_eq : ptpMessage e m s =
    if s.clk.alive[e] then
      if !enabled (frameIn e s) .ptp e then frameIn e s
      else if !ptpAccepts (frameIn e s) e m then count .ptp e 5 (frameIn e s)
      else if !ptpRuns (frameIn e s) e then frameIn e s
      else messageActs e m (ready e m.kind s)
    else s := rfl

theorem ptpMessage_ignored (alive : s.clk.alive[e] = true) (en : enabled (frameIn e s) .ptp e = true)
    (outside : ptpAccepts (frameIn e s) e m = false) : ptpMessage e m s = count .ptp e 5 (frameIn e s) := by
  rw [ptpMessage_eq, if_pos alive, en, outside]
  simp only [Bool.not_true, Bool.not_false, Bool.false_eq_true, if_false, if_true]

theorem ptpMessage_taken (runs : ptpRuns (frameIn e s) e = true) (inside : ptpAccepts (frameIn e s) e m = true) :
    ptpMessage e m s = messageActs e m (ready e m.kind s) := by
  obtain ⟨alive, en, -⟩ := runs_parts runs
  rw [portStep_frameIn.alive] at alive
  rw [ptpMessage_eq, if_pos alive, en, inside, runs]
  simp only [Bool.not_true, Bool.false_eq_true, if_false]

theorem portStep_stamped : PortStep l s (stamped e k s) := by
  unfold stamped
  split
  · exact portStep_modPtp
  · exact .refl

theorem ptpForward_eq : ptpForward e k s = s ∨ ptpForward e k s = ptpSend (other e) k s := by
  unfold ptpForward
  dsimp only
  split
  · exact .inr rfl
  · exact .inl rfl

theorem portStep_ptpForward : PortStep sendOffs s (ptpForward e k s) := by
  obtain h | h := ptpForward_eq (e := e) (k := k) (s := s) <;> rw [h]
  · exact .refl
  · exact portStep_ptpSend

/-- A message that is forwarded leaves the port that received it. -/
theorem ptpForward_port : (ptpForward e k s).ptp[e] = s.ptp[e] := by
  obtain h | h := ptpForward_eq (e := e) (k := k) (s := s) <;> rw [h]
  rw [ptpSend_ptp]
  exact vmod_other (other_ne e).symm

/-- What the port may write before a message acts. -/
def readyOffs : List Nat := Reg.PTP_PSTATE :: sendOffs

theorem portStep_ready : PortStep readyOffs (frameIn e s) (ready e k s) :=
  (portStep_stamped.trans (portStep_ptpQualify.mono (by decide))).trans (portStep_ptpForward.mono (by decide))

/-- The port of a message that has come in, timestamped where it is an event message. -/
theorem stamped_port : (stamped e k (frameIn e s)).ptp[e] =
    { s.ptp[e] with stamp := if ptpEvent k then nsOf s else (s.ptp[e]).stamp } := by
  have ns : nsOf (frameIn e s) = nsOf s := congrArg (fun c => c.now / 2 ^ 32) portStep_frameIn.clk
  cases h : ptpEvent k with
  | true =>
    have noted : stamped e k (frameIn e s) = modPtp e (fun p => { p with stamp := nsOf (frameIn e s) }) (frameIn e s) := if_pos h
    rw [noted, modPtp_ptp, vmod_same, frameIn_ptp, ns]
    rfl
  | false =>
    have same : stamped e k (frameIn e s) = frameIn e s := if_neg (Bool.eq_false_iff.mp h)
    rw [same, frameIn_ptp]
    rfl

/-- What a message finds at its port: what the port has heard, its timestamp, and no master that it did not have. -/
theorem ready_port : ((ready e k s).ptp[e]).heard = (s.ptp[e]).heard ∧
    ((ready e k s).ptp[e]).stamp = (if ptpEvent k then nsOf s else (s.ptp[e]).stamp) ∧
    ((s.ptp[e]).master = none → ((ready e k s).ptp[e]).master = none) := by
  obtain ⟨heard, stamp, master⟩ := ptpQualify_port (e := e) (s := stamped e k (frameIn e s))
  rw [ready, ptpForward_port, heard, stamp]
  rw [stamped_port] at master ⊢
  exact ⟨rfl, rfl, master⟩

/-- A port in any state but PRE_MASTER keeps it, and its master. -/
theorem ready_settled (wf : regsWf s.regs = true) (h : fld s .ptp e Reg.PTP_PSTATE 3 0 ≠ 5) :
    fld (ready e k s) .ptp e Reg.PTP_PSTATE 3 0 = fld s .ptp e Reg.PTP_PSTATE 3 0 ∧
      ((ready e k s).ptp[e]).master = (s.ptp[e]).master := by
  have stamping : PortStep frameOffs s (stamped e k (frameIn e s)) := portStep_frameIn.trans portStep_stamped
  have state := stamping.fld wf (p := .ptp) (i := e) (off := Reg.PTP_PSTATE) (hi := 3) (lo := 0) (by decide)
  have settled : ptpQualify e (stamped e k (frameIn e s)) = stamped e k (frameIn e s) :=
    ptpQualify_eq.resolve_right fun x => h (state.symm.trans x.1)
  rw [ready, ptpForward_port, portStep_ptpForward.fld (by rw [settled]; exact stamping.wf wf) (by decide), settled, state, stamped_port]
  exact ⟨rfl, rfl⟩

-- Sync (R80, R81, R101)

/-- What a Sync writes. -/
def syncOffs : List Nat := [Reg.PTP_PSTATE, Reg.CNT, Reg.CNT + 28, Reg.CNT_OVF, Reg.IRQ_STAT]

/-- A Sync counts; one that comes before the Follow_Up of the last counts that as missed. -/
def syncCounted (e : Hub) (s : State) : State := count .ptp e 0 (countIf (s.ptp[e]).follow.isSome .ptp e 7 s)

theorem portStep_countIf {x : Bool} {p : Pg} {i n : Nat} (hn : n < 16) :
    PortStep [Reg.CNT + 4 * n, Reg.CNT_OVF, Reg.IRQ_STAT] s (countIf x p i n s) := by
  unfold countIf
  split
  · exact portStep_count hn
  · exact .refl

theorem portStep_syncCounted : PortStep [Reg.CNT, Reg.CNT + 28, Reg.CNT_OVF, Reg.IRQ_STAT] s (syncCounted e s) :=
  ((portStep_countIf (by decide)).mono (by decide)).trans ((portStep_count (by decide)).mono (by decide))

theorem syncCounted_ptp : (syncCounted e s).ptp = s.ptp := by simp [syncCounted]

theorem syncCounted_count (wf : regsWf s.regs = true) :
    reg (syncCounted e s) .ptp e Reg.CNT = reg s .ptp e Reg.CNT + 1 := by
  have missed := portStep_countIf (s := s) (x := (s.ptp[e]).follow.isSome) (p := .ptp) (i := e) (n := 7) (by decide)
  exact (count_reg (n := 0) (missed.wf wf) (by decide)).trans (congrArg (· + 1) (missed.reg wf (by decide)))

/-- The port after a Sync that counts. -/
def syncNoted (e : Hub) (m : PtpMsg) (s : State) : State :=
  modPtp e (fun p => { p with follow := if m.twoStep then some m.seq else none }) (syncCounted e s)

theorem portStep_syncNoted : PortStep [Reg.CNT, Reg.CNT + 28, Reg.CNT_OVF, Reg.IRQ_STAT] s (syncNoted e m s) :=
  portStep_syncCounted.trans portStep_modPtp

theorem syncNoted_port : (syncNoted e m s).ptp[e] = { s.ptp[e] with follow := if m.twoStep then some m.seq else none } := by
  rw [syncNoted, modPtp_ptp, vmod_same, syncCounted_ptp]

theorem syncNoted_count (wf : regsWf s.regs = true) : reg (syncNoted e m s) .ptp e Reg.CNT = reg s .ptp e Reg.CNT + 1 := by
  rw [syncNoted, reg, modPtp_regs]
  exact syncCounted_count wf

theorem takeSync_eq : takeSync e m s =
    if ((syncNoted e m s).ptp[e]).master = some m.data.sender ∧ fld (syncNoted e m s) .ptp e Reg.PTP_PSTATE 3 0 = 8 then
      setPstate e 9 (syncNoted e m s)
    else syncNoted e m s := rfl

theorem portStep_takeSync : PortStep syncOffs s (takeSync e m s) := by
  rw [takeSync_eq]
  split
  · exact (portStep_syncNoted.mono (by decide)).trans (portStep_setPstate.mono (by decide))
  · exact portStep_syncNoted.mono (by decide)

theorem takeSync_ptp : (takeSync e m s).ptp = (syncNoted e m s).ptp := by
  rw [takeSync_eq]
  split
  · exact setPstate_ptp
  · rfl

theorem takeSync_count (wf : regsWf s.regs = true) : reg (takeSync e m s) .ptp e Reg.CNT = reg s .ptp e Reg.CNT + 1 := by
  rw [takeSync_eq]
  split
  · exact (portStep_setPstate.reg (portStep_syncNoted.wf wf) (by decide)).trans (syncNoted_count wf)
  · exact syncNoted_count wf

/-- A Sync of the master followed ends UNCALIBRATED. -/
theorem takeSync_slave (wf : regsWf s.regs = true) (state : fld s .ptp e Reg.PTP_PSTATE 3 0 = 8)
    (master : (s.ptp[e]).master = some m.data.sender) : fld (takeSync e m s) .ptp e Reg.PTP_PSTATE 3 0 = 9 := by
  have follows : ((syncNoted e m s).ptp[e]).master = some m.data.sender ∧ fld (syncNoted e m s) .ptp e Reg.PTP_PSTATE 3 0 = 8 := by
    rw [syncNoted_port, portStep_syncNoted.fld wf (by decide)]
    exact ⟨master, state⟩
  rw [takeSync_eq, if_pos follows]
  exact setPstate_fld (portStep_syncNoted.wf wf) (by decide)

-- Announce (R80, R101)

/-- The port has heard a master's dataset. -/
def heardFrom (e : Hub) (d : PtpData) (s : State) : State :=
  modPtp e (fun p => { p with heard := d :: p.heard.filter fun x => x.sender != d.sender }) s

theorem portStep_announce {d : PtpData} : PortStep stateOffs s (announce e d s) :=
  portStep_modPtp.trans portStep_ptpStates

/-- A clock that only follows recommends the one master that it hears. -/
theorem ptpDecide_only {d : PtpData} (role : ptpRole s e = 1) (heard : (s.ptp[e]).heard = [d]) : ptpDecide s e = .slave d := by
  have best : bestData (s.ptp[e]).heard = some d := by rw [heard]; rfl
  simp only [ptpDecide, best, role, if_true]

/-- A port that has no master follows one in UNCALIBRATED state. -/
theorem ptpApply_slave {d : PtpData} (master : (s.ptp[e]).master = none) : ptpApply e (.slave d) s =
    setPstate e 8 (modPtp e (fun p => { p with master := some d.sender, qual := none, follow := none }) (setGm e d.gm s)) := by
  refine if_neg fun h => ?_
  rw [setGm_ptp, master] at h
  exact nomatch h.1

theorem ptpStates_single (runs : ptpRuns s e = true) (role : ptpRole (ptpApply e (ptpDecide s e) s) e = 1) :
    ptpStates e s = keepSource (sourceSlave s) (ptpApply e (ptpDecide s e) s) := by
  simp only [ptpStates, runs, if_true, role]
  rfl

/-- The first Announce that such a port hears: it follows the sender, in UNCALIBRATED state, and shows its grandmaster. -/
theorem announce_first {d : PtpData} (wf : regsWf s.regs = true) (runs : ptpRuns s e = true) (role : ptpRole s e = 1)
    (heard : (s.ptp[e]).heard = []) (master : (s.ptp[e]).master = none) :
    fld (announce e d s) .ptp e Reg.PTP_PSTATE 3 0 = 8 ∧ ((announce e d s).ptp[e]).master = some d.sender ∧
      ((announce e d s).ptp[e]).heard = [d] ∧ reg (announce e d s) .ptp e Reg.PTP_GM_HI = hi32 d.gm ∧
      reg (announce e d s) .ptp e Reg.PTP_GM_LO = lo32 d.gm := by
  have heard' : ((heardFrom e d s).ptp[e]).heard = [d] := by
    rw [heardFrom, modPtp_ptp, vmod_same, heard]
    rfl
  have master' : ((heardFrom e d s).ptp[e]).master = none := by
    rw [heardFrom, modPtp_ptp, vmod_same, master]
  have listening : PortStep stateOffs s (ptpApply e (ptpDecide (heardFrom e d s) e) (heardFrom e d s)) :=
    PortStep.trans portStep_modPtp portStep_ptpApply
  have shown : announce e d s = keepSource (sourceSlave (heardFrom e d s)) (setPstate e 8
      (modPtp e (fun p => { p with master := some d.sender, qual := none, follow := none }) (setGm e d.gm (heardFrom e d s)))) := by
    refine (ptpStates_single (s := heardFrom e d s) runs ((listening.ptpRole wf (by decide)).trans role)).trans ?_
    rw [ptpDecide_only (s := heardFrom e d s) role heard', ptpApply_slave master']
  obtain ⟨hi, lo⟩ := setGm_regs (e := e) (g := d.gm) (s := heardFrom e d s) wf
  have gm : regsWf (setGm e d.gm (heardFrom e d s)).regs = true := portStep_setGm.wf wf
  have followed : Writes [Reg.PTP_PSTATE, Reg.IRQ_STAT] (setGm e d.gm (heardFrom e d s)) (announce e d s) := by
    rw [shown]
    refine Writes.trans ?_ (servoStep_keepSource.toWrites.mono (by decide))
    exact ((portStep_modPtp (l := [Reg.PTP_PSTATE, Reg.IRQ_STAT])).trans portStep_setPstate).toWrites
  have port : (announce e d s).ptp[e] = { (heardFrom e d s).ptp[e] with master := some d.sender, qual := none, follow := none } := by
    rw [shown, servoStep_keepSource.ptp, setPstate_ptp, modPtp_ptp, vmod_same, setGm_ptp]
  refine ⟨?_, by rw [port], by rw [port, heard'], (followed.reg gm (by decide)).trans hi, (followed.reg gm (by decide)).trans lo⟩
  have stated (u : State) (wf : regsWf u.regs = true) (was : Bool) : fld (keepSource was (setPstate e 8 u)) .ptp e Reg.PTP_PSTATE 3 0 = 8 :=
    (servoStep_keepSource.fld (portStep_setPstate.wf wf) (by decide)).trans (setPstate_fld wf (by decide))
  rw [shown]
  exact stated (modPtp e _ _) gm _

-- All messages

theorem delayOf_some {d : Word} (h : m.delay = some d) : delayOf e m s = pathDelay e d s := by
  simp only [delayOf, h]

theorem portStep_delayOf : PortStep delayOffs s (delayOf e m s) := by
  unfold delayOf
  split
  · exact portStep_pathDelay
  · exact .refl

/-- What a message received may write. -/
def messageOffs : List Nat := [Reg.PTP_PSTATE, Reg.PTP_GM_HI, Reg.PTP_GM_LO, Reg.PTP_MPD, Reg.CNT, Reg.CNT + 4, Reg.CNT + 8, Reg.CNT + 12,
  Reg.CNT + 16, Reg.CNT + 20, Reg.CNT + 24, Reg.CNT + 28, Reg.CNT_OVF, Reg.IRQ_STAT]

theorem portStep_messageActs : PortStep messageOffs s (messageActs e m s) := by
  have delay : PortStep messageOffs s (delayOf e m (count .ptp e 3 s)) :=
    ((portStep_count (n := 3) (by decide)).mono (by decide)).trans (portStep_delayOf.mono (by decide))
  have counted : PortStep messageOffs s (count .ptp e 4 s) := (portStep_count (n := 4) (by decide)).mono (by decide)
  unfold messageActs
  cases m.kind with
  | sync => exact portStep_takeSync.mono (by decide)
  | followUp => exact portStep_modPtp
  | delayResp | pdelayResp => exact delay
  | pdelayRespFollowUp => exact portStep_delayOf.mono (by decide)
  | announce =>
    dsimp only
    split
    · exact counted.trans (portStep_announce.mono (by decide))
    · exact counted
  | delayReq | pdelayReq | management | signalling => exact .refl

theorem portStep_ptpMessage : PortStep messageOffs s (ptpMessage e m s) := by
  have came : PortStep messageOffs s (frameIn e s) := portStep_frameIn.mono (by decide)
  rw [ptpMessage_eq]
  split
  · split
    · exact came
    · split
      · exact came.trans ((portStep_count (n := 5) (by decide)).mono (by decide))
      · split
        · exact came
        · exact (came.trans (portStep_ready.mono (by decide))).trans portStep_messageActs
  · exact .refl

-- The announce receipt timeout (R80)

/-- A port that has lost its master: it has heard nothing but other masters, and says so. -/
def masterLost (e : Hub) (s : State) : State :=
  irq .ptp e ptpAnnTo (modPtp e (fun p => { p with
    heard := if (s.ptp[e]).master.isSome then p.heard.filter fun d => some d.sender != (s.ptp[e]).master else [] }) s)

theorem portStep_masterLost : PortStep [Reg.IRQ_STAT] s (masterLost e s) := portStep_modPtp.trans portStep_irq

theorem masterLost_servo : (masterLost e s).servo = s.servo := by rw [masterLost, irq_servo, modPtp_servo]

theorem masterLost_heard (master : (s.ptp[e]).master.isSome = true)
    (only : ∀ d ∈ (s.ptp[e]).heard, some d.sender = (s.ptp[e]).master) : ((masterLost e s).ptp[e]).heard = [] := by
  rw [masterLost, irq_ptp, modPtp_ptp, vmod_same, if_pos master, List.filter_eq_nil_iff]
  exact fun d hd => by simp [only d hd]

/-- A clock that hears no other master listens, where it only follows, and is MASTER otherwise. -/
def leaves (s : State) (e : Hub) : PtpDecision := if ptpRole s e = 1 then .listen else .master

theorem announceTimeout_eq (wf : regsWf s.regs = true) (slave : ptpSlave s e = true) (role : ptpRole s e ≤ 2)
    (heard : ((masterLost e s).ptp[e]).heard = []) :
    announceTimeout e s = keepSource (sourceSlave s) (ptpApply e (leaves s e) (masterLost e s)) := by
  obtain ⟨runs, -, state⟩ := slave_parts slave
  have acts : ptpRuns s e = true ∧ ptpRole s e ≤ 3 ∧ (fld s .ptp e Reg.PTP_PSTATE 3 0 = 4 ∨ 7 ≤ fld s .ptp e Reg.PTP_PSTATE 3 0) :=
    ⟨runs, by omega, by omega⟩
  have lost : ptpRole (masterLost e s) e = ptpRole s e := portStep_masterLost.ptpRole wf (by decide)
  have alone (x : PtpDecision) : (ptpRole (ptpApply e x (masterLost e s)) e = 3 && ptpRuns (ptpApply e x (masterLost e s)) (other e)) = false := by
    rw [portStep_ptpApply.ptpRole (portStep_masterLost.wf wf) (by decide), lost, decide_eq_false (by omega), Bool.false_and]
  have best : clockBest (masterLost e s) e = none := by
    have spans : (decide (ptpRole (masterLost e s) e = 3) && ptpRuns (masterLost e s) (other e)) = false := by
      rw [lost, decide_eq_false (by omega), Bool.false_and]
    rw [clockBest, heard, spans]
    rfl
  unfold masterLost at lost alone best heard
  simp only [announceTimeout, if_pos acts, heard, List.isEmpty_nil, Bool.not_true, Bool.false_eq_true, if_false, lost, best, alone,
    leaves, masterLost]

/-- A port that leaves its master: LISTENING or MASTER, with no master. -/
theorem ptpApply_leaves (wf : regsWf s.regs = true) {v : Nat} {x : PtpDecision} (h : (x = .listen ∧ v = 4) ∨ (x = .master ∧ v = 6)) :
    fld (ptpApply e x s) .ptp e Reg.PTP_PSTATE 3 0 = v ∧
      (ptpApply e x s).ptp = vmod s.ptp e (fun p => { p with master := none, qual := none }) ∧ (ptpApply e x s).servo = s.servo := by
  have wf' : regsWf (noMaster e s).regs = true := wf
  obtain ⟨rfl, rfl⟩ | ⟨rfl, rfl⟩ := h
  · exact ⟨setPstate_fld wf' (by decide), setPstate_ptp, setPstate_servo⟩
  · refine ⟨?_, setGm_ptp.trans setPstate_ptp, setGm_servo.trans setPstate_servo⟩
    exact (portStep_setGm.fld (portStep_setPstate.wf wf') (by decide)).trans (setPstate_fld wf' (by decide))

/-- The servo loses the source that left SLAVE state (R82, R85). -/
theorem keepSource_left (hw : assisted s .tb 0 = false) (src : s.servo.src = e) (left : ptpSlave s e = false) (locked : s.servo.st = .locked) :
    (keepSource true s).servo.st = .holdover := by
  have lost : keepSource true s = sourceLost s := by
    refine if_pos ?_
    rw [src, left, hw]
    rfl
  rw [lost, sourceLost_servo, if_pos (.inr locked), heldOver_st]

end Sys2Proof.Machine

/-! SUPPORT. The commands of the PTP ports (R75, R80, R81, R101, R102, R570). -/

namespace Sys2Proof.Machine

variable {s : State} {dt : Nat} {e : Hub} {m : PtpMsg} {k : PtpKind}

theorem advance_alive : (advance dt s).clk.alive = s.clk.alive := by rw [advance_clk]

/-- A frame that comes in after some edges: the port's settings read as before. -/
theorem writes_arrived : Writes frameOffs s (frameIn e (advance dt s)) :=
  (writes_advance.mono (by decide)).trans portStep_frameIn.toWrites

theorem arrived_alive : (frameIn e (advance dt s)).clk.alive = s.clk.alive := portStep_frameIn.alive.trans advance_alive

section Received
variable (on : s.clk.on = true) (wf : regsWf s.regs = true)
include on

theorem exec_ptpMessage : exec (.ptpMessage dt e m) s = .next (ptpMessage e m (advance dt s)) :=
  run_on (f := fun s => ptpMessage e m (advance dt s)) on

include wf

/-- R570: a message that the port does not take counts in `CNT5`, and nothing else of the port changes. -/
theorem exec_ptpMessage_ignored (alive : s.clk.alive[e] = true) (en : enabled s .ptp e = true) (outside : ptpAccepts s e m = false) :
    ∃ t, exec (.ptpMessage dt e m) s = .next t ∧ t.ptp = s.ptp ∧
      reg t .ptp e (Reg.CNT + 20) = reg s .ptp e (Reg.CNT + 20) + 1 ∧ t = { advance dt s with regs := t.regs, link := t.link } := by
  have arrived := writes_arrived (s := s) (e := e) (dt := dt)
  have ignored : ptpMessage e m (advance dt s) = count .ptp e 5 (frameIn e (advance dt s)) :=
    ptpMessage_ignored (by rw [advance_alive]; exact alive) ((arrived.enabled wf (by decide)).trans en)
      ((arrived.ptpAccepts wf (by decide)).trans outside)
  refine ⟨_, exec_ptpMessage on, ?_⟩
  rw [ignored]
  refine ⟨by rw [count_ptp, frameIn_ptp, advance_ptp], ?_, eq_of_quiet (quiet_count.trans quiet_frameIn)⟩
  refine (count_reg (n := 5) (arrived.wf wf) (by decide)).trans (congrArg (· + 1) ?_)
  rw [frameIn_ptpReg (writes_advance.wf wf) (by decide), writes_advance.reg wf (by decide)]

section Taken
variable (runs : ptpRuns s e = true) (inside : ptpAccepts s e m = true)
include runs inside

theorem exec_ptpMessage_taken : exec (.ptpMessage dt e m) s = .next (messageActs e m (ready e m.kind (advance dt s))) := by
  have arrived := writes_arrived (s := s) (e := e) (dt := dt)
  rw [exec_ptpMessage on, ptpMessage_taken ((arrived.ptpRuns wf arrived_alive (by decide)).trans runs)
    ((arrived.ptpAccepts wf (by decide)).trans inside)]

end Taken

omit on in
theorem regsWf_ready : regsWf (ready e k (advance dt s)).regs = true := portStep_ready.wf (writes_arrived.wf wf)

omit on in
/-- The counters of received messages stand as they were when a message acts. -/
theorem ready_counter {off : Nat} (ho : off < 4096 ∧ off ∉ readyOffs) (ha : off ∉ [Reg.CNT_OVF, Reg.IRQ_STAT]) :
    reg (ready e k (advance dt s)) .ptp e off = reg s .ptp e off := by
  rw [portStep_ready.reg (writes_arrived.wf wf) ho, frameIn_ptpReg (writes_advance.wf wf) ho.1, writes_advance.reg wf ⟨ho.1, ha⟩]

/-- R80, R81: a Sync. -/
theorem exec_sync (runs : ptpRuns s e = true) (inside : ptpAccepts s e m = true) (hk : m.kind = .sync) :
    ∃ t, exec (.ptpMessage dt e m) s = .next t ∧
      reg t .ptp e Reg.CNT = reg s .ptp e Reg.CNT + 1 ∧ (t.ptp[e]).stamp = (s.clk.now + dt * edgeStep s.clk.rho) / 2 ^ 32 ∧
      (t.ptp[e]).follow = (if m.twoStep then some m.seq else none) ∧
      (fld s .ptp e Reg.PTP_PSTATE 3 0 = 8 → (s.ptp[e]).master = some m.data.sender → fld t .ptp e Reg.PTP_PSTATE 3 0 = 9) := by
  have acts : messageActs e m (ready e m.kind (advance dt s)) = takeSync e m (ready e .sync (advance dt s)) := by
    simp only [messageActs, hk]
  have wf' : regsWf (ready e .sync (advance dt s)).regs = true := regsWf_ready wf
  obtain ⟨-, stamp, -⟩ := ready_port (e := e) (k := .sync) (s := advance dt s)
  refine ⟨_, exec_ptpMessage_taken on wf runs inside, ?_⟩
  rw [acts, takeSync_ptp, syncNoted_port]
  refine ⟨?_, ?_, rfl, fun state master => ?_⟩
  · rw [takeSync_count wf', ready_counter wf (by decide) (by decide)]
  · rw [stamp, if_pos (by rfl : ptpEvent .sync = true), nsOf, advance_clk]
  · have state' : fld (advance dt s) .ptp e Reg.PTP_PSTATE 3 0 = 8 := (writes_advance.fld wf (by decide)).trans state
    obtain ⟨settled, kept⟩ := ready_settled (e := e) (k := .sync) (writes_advance.wf wf) (by rw [state']; decide)
    exact takeSync_slave wf' (settled.trans state') (by rw [kept, advance_ptp, master])

/-- R80, R91: a Delay_Resp. -/
theorem exec_delayResp (runs : ptpRuns s e = true) (inside : ptpAccepts s e m = true) (hk : m.kind = .delayResp) :
    ∃ t, exec (.ptpMessage dt e m) s = .next t ∧
      reg t .ptp e (Reg.CNT + 12) = reg s .ptp e (Reg.CNT + 12) + 1 ∧
      ∀ d, m.delay = some d → reg t .ptp e Reg.PTP_MPD = d ∧ (t.ptp[e]).mpd = some d.toInt := by
  have acts : messageActs e m (ready e m.kind (advance dt s)) = delayOf e m (count .ptp e 3 (ready e .delayResp (advance dt s))) := by
    simp only [messageActs, hk]
  have wf' : regsWf (ready e .delayResp (advance dt s)).regs = true := regsWf_ready wf
  refine ⟨_, exec_ptpMessage_taken on wf runs inside, ?_⟩
  rw [acts]
  refine ⟨?_, fun d hd => ?_⟩
  · rw [portStep_delayOf.reg (regsWf_count wf') (by decide)]
    refine (count_reg (n := 3) wf' (by decide)).trans (congrArg (· + 1) ?_)
    exact ready_counter wf (by decide) (by decide)
  · have counted : regsWf (count .ptp e 3 (ready e .delayResp (advance dt s))).regs = true := regsWf_count wf'
    rw [delayOf_some hd]
    exact ⟨pathDelay_mpd counted, by rw [pathDelay_ptp, vmod_same]⟩

/-- R80, R101: the first Announce of an ordinary clock that only follows. -/
theorem exec_announce_first (runs : ptpRuns s e = true) (inside : ptpAccepts s e m = true) (hk : m.kind = .announce)
    (role : ptpRole s e = 1) (heard : (s.ptp[e]).heard = []) (master : (s.ptp[e]).master = none) :
    ∃ t, exec (.ptpMessage dt e m) s = .next t ∧
      reg t .ptp e (Reg.CNT + 16) = reg s .ptp e (Reg.CNT + 16) + 1 ∧ fld t .ptp e Reg.PTP_PSTATE 3 0 = 8 ∧
      (t.ptp[e]).master = some m.data.sender ∧ (t.ptp[e]).heard = [m.data] ∧
      reg t .ptp e Reg.PTP_GM_HI = hi32 m.data.gm ∧ reg t .ptp e Reg.PTP_GM_LO = lo32 m.data.gm := by
  have wf' : regsWf (ready e .announce (advance dt s)).regs = true := regsWf_ready wf
  have readied : Writes (frameOffs ++ readyOffs) s (ready e .announce (advance dt s)) :=
    (writes_arrived.mono (by decide)).trans (portStep_ready.toWrites.mono (by decide))
  have alive : (ready e .announce (advance dt s)).clk.alive = s.clk.alive := portStep_ready.alive.trans arrived_alive
  have role' : ptpRole (ready e .announce (advance dt s)) e = 1 := (readied.ptpRole wf (by decide)).trans role
  have runs' : ptpRuns (ready e .announce (advance dt s)) e = true := (readied.ptpRuns wf alive (by decide)).trans runs
  have acts : messageActs e m (ready e m.kind (advance dt s)) =
      announce e m.data (count .ptp e 4 (ready e .announce (advance dt s))) := by
    simp only [messageActs, hk, role', Nat.one_le_ofNat, if_true]
  have counted := portStep_count (s := ready e .announce (advance dt s)) (p := .ptp) (i := e) (n := 4) (by decide)
  obtain ⟨heard', -, master'⟩ := ready_port (e := e) (k := .announce) (s := advance dt s)
  rw [advance_ptp] at heard' master'
  refine ⟨_, exec_ptpMessage_taken on wf runs inside, ?_⟩
  rw [acts]
  refine ⟨?_, announce_first (counted.wf wf') ((counted.ptpRuns wf' counted.alive (by decide)).trans runs')
    ((counted.ptpRole wf' (by decide)).trans role') (by rw [count_ptp, heard', heard]) (by rw [count_ptp, master' master])⟩
  rw [portStep_announce.reg (counted.wf wf') (by decide)]
  refine (count_reg (n := 4) wf' (by decide)).trans (congrArg (· + 1) ?_)
  exact ready_counter wf (by decide) (by decide)

end Received

-- Transmission (R75, R101)

section Sent
variable (on : s.clk.on = true)
include on

theorem exec_ptpTransmit : exec (.ptpTransmit dt e k) s = .next (ptpTransmit e k (advance dt s)) :=
  run_on (f := fun s => ptpTransmit e k (advance dt s)) on

/-- R75: a message that the port sends carries plant time, and counts. -/
theorem exec_ptpTransmit_sends (wf : regsWf s.regs = true) (sends : ptpSends (ptpQualify e (advance dt s)) e k = true) :
    ∃ t, exec (.ptpTransmit dt e k) s = .next t ∧
      (t.ptp[e]).sent = (k, plantTime (ptpQualify e (advance dt s))) :: ((ptpQualify e (advance dt s)).ptp[e]).sent ∧
      (t.ptp[other e]) = (ptpQualify e (advance dt s)).ptp[other e] ∧
      (k = .sync → reg t .ptp e (Reg.CNT + 4) = reg s .ptp e (Reg.CNT + 4) + 1) ∧
      t = { ptpQualify e (advance dt s) with ptp := t.ptp, regs := t.regs, link := t.link } := by
  have acts : ptpTransmit e k (advance dt s) = ptpSend e k (ptpQualify e (advance dt s)) := if_pos sends
  have wf' : regsWf (ptpQualify e (advance dt s)).regs = true := portStep_ptpQualify.wf (writes_advance.wf wf)
  refine ⟨_, exec_ptpTransmit on, ?_⟩
  rw [acts]
  refine ⟨?_, ?_, fun hk => ?_, ?_⟩
  · rw [ptpSend_ptp, vmod_same]
    rfl
  · rw [ptpSend_ptp, vmod_other (other_ne e)]
  · subst hk
    refine (count_reg (n := 1) (portStep_sentNoted.wf wf') (by decide)).trans (congrArg (· + 1) ?_)
    rw [sentNoted, reg, modPtp_regs, ← reg, count_eth_ptpReg wf' (by decide),
      portStep_ptpQualify.reg (writes_advance.wf wf) (by decide), writes_advance.reg wf (by decide)]
  · have frame := eq_of_portless (portStep_ptpSend (e := e) (k := k) (s := ptpQualify e (advance dt s))).rest
    rwa [ptpSend_servo] at frame

theorem exec_ptpTransmit_silent (silent : ptpSends (ptpQualify e (advance dt s)) e k = false) :
    exec (.ptpTransmit dt e k) s = .next (ptpQualify e (advance dt s)) := by
  rw [exec_ptpTransmit on, ptpTransmit, if_neg (Bool.eq_false_iff.mp silent)]

omit on in
theorem ptpQualify_none (h : (s.ptp[e]).qual = none) : ptpQualify e s = s := by
  simp only [ptpQualify, h]

/-- R80, R82: the announce receipt timeout of a port in SLAVE state that hears no other master. -/
theorem exec_announceTimeout (wf : regsWf s.regs = true) (slave : ptpSlave s e = true) (role : ptpRole s e ≤ 2)
    (master : (s.ptp[e]).master.isSome = true) (only : ∀ d ∈ (s.ptp[e]).heard, some d.sender = (s.ptp[e]).master) :
    ∃ t, exec (.announceReceiptTimeout e) s = .next t ∧
      fld t .ptp e Reg.PTP_PSTATE 3 0 = (if ptpRole s e = 1 then 4 else 6) ∧ (t.ptp[e]).heard = [] ∧ (t.ptp[e]).master = none ∧
      bit (reg t .ptp e Reg.IRQ_STAT) ptpAnnTo = true ∧
      (s.servo.src = e → s.servo.st = .locked → assisted s .tb 0 = false → t.servo.st = .holdover) ∧
      t = { s with ptp := t.ptp, servo := t.servo, regs := t.regs, link := t.link } := by
  have heard := masterLost_heard master only
  have lost := portStep_masterLost (e := e) (s := s)
  have decided : (leaves s e = .listen ∧ (if ptpRole s e = 1 then 4 else 6) = 4) ∨
      (leaves s e = .master ∧ (if ptpRole s e = 1 then 4 else 6) = 6) := by
    unfold leaves
    split
    · exact .inl ⟨rfl, rfl⟩
    · exact .inr ⟨rfl, rfl⟩
  obtain ⟨state, port, servo⟩ := ptpApply_leaves (e := e) (lost.wf wf) decided
  have left := portStep_ptpApply (e := e) (x := leaves s e) (s := masterLost e s)
  have both : PortStep stateOffs s (ptpApply e (leaves s e) (masterLost e s)) := (lost.mono (by decide)).trans left
  refine ⟨announceTimeout e s, run_on on, ?_⟩
  rw [announceTimeout_eq wf slave role heard]
  generalize ptpApply e (leaves s e) (masterLost e s) = u at state port servo left both
  have kept := servoStep_keepSource (was := sourceSlave s) (s := u)
  refine ⟨?_, ?_, ?_, ?_, fun src locked hw => ?_, eq_of_portless (kept.port.rest.trans both.rest)⟩
  · rw [kept.fld (both.wf wf) (by decide), state]
  · rw [kept.ptp, port, vmod_same, heard]
  · rw [kept.ptp, port, vmod_same]
  · exact kept.flag (both.wf wf) (left.flag (lost.wf wf) (irq_bit (s := modPtp e _ s) wf (by decide)))
  · have source : sourceSlave s = true := by rw [sourceSlave, src, slave]
    have notSlave : ptpSlave u e = false := by
      refine Bool.eq_false_iff.mpr fun h => ?_
      have nine := state.symm.trans (slave_parts h).2.2
      split at nine <;> exact nomatch nine
    rw [masterLost_servo] at servo
    rw [source]
    exact keepSource_left ((both.assisted wf (by decide)).trans hw) (by rw [servo, src]) notSlave (by rw [servo, locked])

end Sent

/-- Settles O33, clause by clause: each message acts on a port that the frame's arrival has left as it was. -/
theorem ptpMessages : Obligations.PtpMessages := by
  intro s dt e on wf
  refine ⟨fun m => ⟨_, exec_ptpMessage on, eq_of_portless portStep_ptpMessage.rest⟩,
    fun m alive en outside => exec_ptpMessage_ignored on wf alive en (outside.elim ptpAccepts_outside id),
    fun m runs inside hk => exec_sync on wf runs inside hk, fun m runs inside hk => exec_delayResp on wf runs inside hk,
    fun m runs inside hk role heard master => exec_announce_first on wf runs inside hk role heard master,
    fun k u hu => ?_,
    fun slave role master only => exec_announceTimeout on wf slave role master only⟩
  subst hu
  exact ⟨fun sends => exec_ptpTransmit_sends on wf sends, fun silent => exec_ptpTransmit_silent on silent,
    fun none => ptpQualify_none (by rw [advance_ptp, none])⟩

end Sys2Proof.Machine

/-! SUPPORT. What the receivers of a channel and the silence of a hub leave of the state: coefficient entries, own counts, bursts cut
off (R15, R50, R116, R139, R194). -/

namespace Sys2Proof.Machine

variable {s t u : State} {h g : Hub} {c : Chan} {n m : Nat}

-- Frames: what a reception may touch

/-- A state without its clock, Wearline, registers, host link and the hubs' own counts: all that a receiver may touch. -/
def unheard (s : State) : State := { s with clk := {}, wl := {}, regs := [], link := {}, hubCnt := Vector.replicate 2 [] }

theorem eq_of_unheard (e : unheard t = unheard s) :
    t = { s with clk := t.clk, wl := t.wl, regs := t.regs, link := t.link, hubCnt := t.hubCnt } := by
  cases t; cases s; cases e; rfl

@[simp] theorem unheard_ite {p : Prop} [Decidable p] : unheard (if p then s else t) = if p then unheard s else unheard t :=
  apply_ite _ _ _ _
@[simp] theorem unheard_modWl {f : Wearline → Wearline} : unheard (modWl f s) = unheard s := rfl
@[simp] theorem unheard_irq {p : Pg} {i b : Nat} : unheard (irq p i b s) = unheard s := by simp [unheard]
@[simp] theorem unheard_irqIf {x : Bool} {p : Pg} {i b : Nat} : unheard (irqIf x p i b s) = unheard s := by simp [unheard]
@[simp] theorem unheard_count {p : Pg} {i k : Nat} : unheard (count p i k s) = unheard s := by simp [unheard]
@[simp] theorem unheard_countHub {p : Pg} {i k : Nat} : unheard (countHub h p i k s) = unheard s := by simp [unheard]

-- A hub's own counts (R50)

/-- A hub's own count touches the register file only in a wrap, which flags it (R63). -/
theorem writes_countHub {p : Pg} {i k : Nat} : Writes [Reg.CNT_OVF, Reg.IRQ_STAT] s (countHub h p i k s) := by
  unfold countHub
  dsimp only
  split
  · refine Writes.trans ?_ writes_wrapped
    exact writes_of_regs rfl
  · exact writes_of_regs rfl

/-- The counts that a hub keeps above the shared ones, after it has counted. -/
@[simp] theorem countHub_hubCnt {p : Pg} {i k : Nat} : (countHub h p i k s).hubCnt = vmod s.hubCnt h fun l =>
    Sparse.put 0 (regKey p i (Reg.CNT + 4 * k)) (Sparse.get 0 (regKey p i (Reg.CNT + 4 * k)) l + 1) l := by
  unfold countHub
  dsimp only
  split
  · exact wrapped_hubCnt
  · rfl

/-- A hub that counts reads one more (R50). -/
theorem countHub_ownCount {p : Pg} {i k : Nat} (wf : regsWf s.regs = true) (own : Sparse.wf (fun _ => (0 : Word)) s.hubCnt[h] = true)
    (hk : k < 16) : ownCount (countHub h p i k s) h p i k = ownCount s h p i k + 1 := by
  have shared : reg (countHub h p i k s) p i (Reg.CNT + 4 * k) = reg s p i (Reg.CNT + 4 * k) :=
    writes_countHub.reg wf (by simp [Reg.CNT, Reg.CNT_OVF, Reg.IRQ_STAT]; omega)
  rw [ownCount, shared, countHub_hubCnt, vmod_same, Sparse.get_put_same (d := fun _ => (0 : Word)) own, ownCount, BitVec.add_assoc]

-- Coefficient entries (R116)

/-- The table of a hub's channel after one entry is changed. -/
theorem modEq_table {f : EqEntry → EqEntry} : ((modEq h c n f s).wl.eq[h])[c] =
    Sparse.put {} n (f (eqEntry s h c n)) (s.wl.eq[h])[c] := by
  simp only [modEq, modWl_wl, hcMod, vmod_same, eqEntry]

/-- A change of an entry leaves the other hub's tables alone. -/
theorem modEq_otherHub {f : EqEntry → EqEntry} (ne : h ≠ g) : (modEq g c n f s).wl.eq[h] = s.wl.eq[h] := vmod_other ne

section
variable (wf : Sparse.wf (fun _ => ({} : EqEntry)) (s.wl.eq[h])[c] = true)
include wf

theorem eqEntry_modEq_same {f : EqEntry → EqEntry} : eqEntry (modEq h c n f s) h c n = f (eqEntry s h c n) := by
  rw [eqEntry, modEq_table]
  exact Sparse.get_put_same (d := fun _ => ({} : EqEntry)) wf

theorem eqEntry_modEq_other {f : EqEntry → EqEntry} (ne : m ≠ n) : eqEntry (modEq h c n f s) h c m = eqEntry s h c m := by
  rw [eqEntry, modEq_table]
  exact Sparse.get_put_other (d := fun _ => ({} : EqEntry)) ne wf

end

theorem eqEntry_congr (e : t.wl.eq[h] = s.wl.eq[h]) : eqEntry t h c n = eqEntry s h c n := by
  rw [eqEntry, e, eqEntry]

/-- What a hub's own step on its entries reads: its tables, which hubs drive, and the default coefficients of the channel. -/
structure SameEntries (h : Hub) (c : Chan) (s t : State) : Prop where
  eq : t.wl.eq[h] = s.wl.eq[h]
  alive : t.clk.alive = s.clk.alive
  dflt : regsWf s.regs = true → reg t .wlc c Reg.WLC_EQ_DEF = reg s .wlc c Reg.WLC_EQ_DEF

theorem SameEntries.refl : SameEntries h c s s := ⟨rfl, rfl, fun _ => rfl⟩

theorem SameEntries.entry (e : SameEntries h c s t) : eqEntry t h c n = eqEntry s h c n := eqEntry_congr e.eq

theorem SameEntries.ctle (e : SameEntries h c s t) (wf : regsWf s.regs = true) : defCtle t c = defCtle s c := by
  rw [defCtle, fld, e.dflt wf, defCtle, fld]

theorem SameEntries.taps (e : SameEntries h c s t) (wf : regsWf s.regs = true) : defTaps t c = defTaps s c := by
  simp only [defTaps, fld, e.dflt wf]

/-- Where the hubs act in turn, each on its own tables, a hub finds its tables as they were and leaves them as they end. -/
theorem bothOf_own {f : Hub → State → State} (away : ∀ g u, g ≠ h → SameEntries h c u (f g u)) :
    ∃ u, SameEntries h c s u ∧ SameEntries h c (f h u) (forEach bothOf f s) := by
  match h, away with
  | 0, away => exact ⟨s, .refl, away 1 _ (by decide)⟩
  | 1, away => exact ⟨f 0 s, away 0 s (by decide), .refl⟩

end Sys2Proof.Machine

/-! SUPPORT. Training, `RETRAIN`, transmitter faults and the soldier (R119, R120, R124, R194, R195, R448). -/

namespace Sys2Proof.Machine

variable {s t u : State} {h : Hub} {c : Chan} {n : Nat}

-- A hub that stops driving leaves Wearline but for what it was sending

@[simp] theorem setState_wl {k : Cart} {x : CartState} : (setState k x s).wl = s.wl :=
  (congrArg State.wl (cartless_setState (c := k) (x := x) (s := s)) :)
@[simp] theorem keepSource_wl {was : Bool} : (keepSource was s).wl = s.wl := (congrArg State.wl servoStep_keepSource.rest :)
@[simp] theorem setPstate_wl {e : Hub} {v : Nat} : (setPstate e v s).wl = s.wl := (congrArg State.wl portStep_setPstate.rest :)
@[simp] theorem ptpStates_wl {e : Hub} : (ptpStates e s).wl = s.wl := (congrArg State.wl portStep_ptpStates.rest :)
@[simp] theorem noMaster_wl {e : Hub} : (noMaster e s).wl = s.wl := rfl

theorem ite_wl {p : Prop} [Decidable p] : (if p then s else t).wl = if p then s.wl else t.wl := apply_ite _ _ _ _

@[simp] theorem closeSession_wl : (closeSession s).wl = s.wl := by simp [closeSession, ite_wl]

@[simp] theorem closeSessionOf_wl {src : Nat} : (closeSessionOf src s).wl = s.wl := by
  unfold closeSessionOf
  split <;> simp [ite_wl]

@[simp] theorem linkChange_wl {e : Hub} {up master : Bool} : (linkChange e up master s).wl = s.wl := by simp [linkChange, ite_wl]

@[simp] theorem logChange_wl {src : Nat} {cell : Bool} {cls inst : Nat} {before after : Word} {kind : Nat} :
    (logChange src cell cls inst before after kind s).wl = s.wl := by simp [logChange, ite_wl]

@[simp] theorem beginWindow_wl : (beginWindow h s).wl = s.wl := by simp [beginWindow, ite_wl]

@[simp] theorem outputsDead_wl : (outputsDead s).wl = s.wl := rfl

theorem hubDown_wl {x : CartState} {cause : Nat} : (hubDown h x cause s).wl = (cutHub h s).wl := by simp [hubDown, ite_wl]

-- Bursts that are cut off

/-- A burst cut after `n` symbols, as the wire then carries it (R194). -/
def burstCutAt (n : Nat) (x : WireFrame) : WireFrame := (cutFrame n x {}).2

theorem cutFrame_burst {x : WireFrame} : (cutFrame n x s).2 = burstCutAt n x := by
  simp only [burstCutAt, cutFrame, apply_ite Prod.snd]

/-- What stays of a burst: its place on the wire, and the beginning of its symbols. -/
structure Shortened (x y : WireFrame) : Prop where
  hub : y.hub = x.hub
  ch : y.ch = x.ch
  fid : y.fid = x.fid
  start : y.start = x.start
  syms : y.syms <+: x.syms

theorem Shortened.refl (x : WireFrame) : Shortened x x := ⟨rfl, rfl, rfl, rfl, List.prefix_rfl⟩

theorem Shortened.trans {x y z : WireFrame} (e : Shortened x y) (f : Shortened y z) : Shortened x z :=
  ⟨f.hub.trans e.hub, f.ch.trans e.ch, f.fid.trans e.fid, f.start.trans e.start, f.syms.trans e.syms⟩

theorem burstCutAt_shortened {x : WireFrame} : Shortened x (burstCutAt n x) ∧ (burstCutAt n x).syms = x.syms.take n := by
  unfold burstCutAt cutFrame
  dsimp only
  split <;> exact ⟨⟨rfl, rfl, rfl, rfl, List.take_prefix n x.syms⟩, rfl⟩

/-- What no cut of a single burst and no exchange of the wire touches, no cut of the wire touches. -/
theorem cutWire_preserves {β : Type} {view : State → β} {pick : WireFrame → Option Nat}
    (cut : ∀ n x s, view (cutFrame n x s).1 = view s) (wire : ∀ l s, view (modWl (fun w => { w with wire := l }) s) = view s) :
    view (cutWire pick s) = view s := by
  unfold cutWire
  refine (wire _ _).trans ?_
  induction s.wl.wire with
  | nil => rfl
  | cons x l ih =>
    rw [List.foldr_cons]
    split
    · exact (cut _ _ _).trans ih
    · exact ih

theorem drive_cutWire {pick : WireFrame → Option Nat} : drive (cutWire pick s) = drive s :=
  cutWire_preserves (fun _ _ _ => drive_cutFrame) fun _ _ => drive_modWl

theorem cutFrame_heldOff (n : Nat) (x : WireFrame) (s : State) : (cutFrame n x s).1.wl.heldOff = s.wl.heldOff := by
  have each (u : State) :
      (forEach bothOf (fun g s => if x.good.getLsbD g.val then ungood g x.ch s else s) u).wl.heldOff = u.wl.heldOff :=
    forEach_preserves (g := fun u => u.wl.heldOff) (fun g s => by split <;> rfl) _ _
  have recounted (g : Hub) (cut : Bool) (u : State) : (recount g x.ch cut u).wl = u.wl := by simp [recount, ite_wl]
  unfold cutFrame
  dsimp only
  split
  · split
    · rw [recounted]
      exact each s
    · exact each s
  · rfl

theorem cutWire_heldOff {pick : WireFrame → Option Nat} : (cutWire pick s).wl.heldOff = s.wl.heldOff :=
  cutWire_preserves (view := fun s => s.wl.heldOff) cutFrame_heldOff fun _ _ => rfl

/-- The wire after a cut: the bursts picked are shortened, in their places. -/
theorem cutWire_wire {pick : WireFrame → Option Nat} : (cutWire pick s).wl.wire =
    s.wl.wire.map fun x => match pick x with
      | some n => burstCutAt n x
      | none => x := by
  unfold cutWire
  rw [modWl_wl]
  dsimp only
  generalize s.wl.wire = l
  induction l with
  | nil => rfl
  | cons x l ih =>
    rw [List.foldr_cons, List.map_cons, ← ih]
    cases pick x with
    | some n => simp only [cutFrame_burst]
    | none => rfl

theorem mem_cutWire {pick : WireFrame → Option Nat} {x : WireFrame} {k : Nat} (hx : x ∈ s.wl.wire) (hk : pick x = some k) :
    burstCutAt k x ∈ (cutWire pick s).wl.wire := by
  rw [cutWire_wire]
  exact List.mem_map.mpr ⟨x, hx, by rw [hk]⟩

/-- Every burst stays on the wire, if shortened, when a hub is cut off. -/
theorem cutHub_keeps {x : WireFrame} (hx : x ∈ s.wl.wire) : ∃ y ∈ (cutHub h s).wl.wire, Shortened x y := by
  unfold cutHub
  rw [cutWire_wire]
  refine ⟨_, List.mem_map_of_mem hx, ?_⟩
  split
  · exact burstCutAt_shortened.1
  · exact .refl x

theorem wlBit_lt : wlBit h c < 4 := by simp only [wlBit]; omega

/-- A hub that falls silent while its soldier acts: it drives no more, its transmitters stay held off as they are. -/
theorem silent_after {s' : State} (alive : s.clk.alive[h] = true) (same : drive s' = drive s) :
    (silent h s').clk.alive[h] = false ∧ ((silent h s').carts[hubCart h]).st = .silent ∧ (silent h s').clk.now = s.clk.now ∧
      (silent h s').wl.heldOff = s'.wl.heldOff ∧ (silent h s').wl = (cutHub h s').wl := by
  have clk : s'.clk = s.clk := (congrArg (·.1) same :)
  have wl : (silent h s').wl = (cutHub h s').wl := by rw [silent_of_alive (clk ▸ alive), hubDown_wl]
  refine ⟨?_, ?_, ?_, ?_, wl⟩
  · rw [silent_of_alive (clk ▸ alive), hubDown_clk]
    exact vset_same
  · rw [silent_of_alive (clk ▸ alive), hubDown_carts, vmod_same]
  · rw [silent_of_alive (clk ▸ alive), hubDown_clk, clk]
  · rw [wl]
    exact cutWire_heldOff

/-- Where the soldier cuts the newest burst: what is sent goes out, at most up to its end-of-frame (R194). -/
def soldierPick (s : State) (x y : WireFrame) : Option Nat :=
  if y = x then some (min (sentSymbols s x) (x.syms.length - 3)) else none

theorem soldierCut_some {x : WireFrame} (hx : lastBurst s h c = some x) :
    soldierCut h c s = silent h (cutWire (soldierPick s x) s) := by
  simp only [soldierCut, hx]
  rfl

/-- A soldier that cuts changes nothing but the wire before its hub falls silent. -/
theorem soldierCut_silences : ∃ s', soldierCut h c s = silent h s' ∧ drive s' = drive s ∧ s'.wl.heldOff = s.wl.heldOff := by
  cases hx : lastBurst s h c with
  | some x => exact ⟨_, soldierCut_some hx, drive_cutWire, cutWire_heldOff⟩
  | none => exact ⟨s, by simp only [soldierCut, hx], rfl, rfl⟩

/-- So does one that blocks. -/
theorem soldierBlock_silences : ∃ s', soldierBlock h c s = silent h s' ∧ drive s' = drive s ∧ s'.wl.heldOff = s.wl.heldOff := by
  unfold soldierBlock
  split
  · split
    · exact ⟨_, rfl, drive_cutWire, cutWire_heldOff⟩
    · exact ⟨s, rfl, rfl, rfl⟩
  · exact ⟨s, rfl, rfl, rfl⟩

section Soldier
variable (on : s.clk.on = true) (alive : s.clk.alive[h] = true)
include on alive

/-- R194: the soldier blocks or cuts a burst, and the hub falls silent. -/
theorem exec_soldier : ∀ x ∈ [Instr.soldierBlock h c, .soldierCut h c], ∃ t, exec x s = .next (refreshReady t) ∧
    t.clk.alive[h] = false ∧ (t.carts[hubCart h]).st = .silent ∧ t.clk.now = s.clk.now ∧ t.wl.heldOff = s.wl.heldOff := by
  have falls (x : Instr) (f : State → State) (hx : exec x s = .next (refreshReady (f s)))
      (silences : ∃ s', f s = silent h s' ∧ drive s' = drive s ∧ s'.wl.heldOff = s.wl.heldOff) :
      ∃ t, exec x s = .next (refreshReady t) ∧ t.clk.alive[h] = false ∧ (t.carts[hubCart h]).st = .silent ∧
        t.clk.now = s.clk.now ∧ t.wl.heldOff = s.wl.heldOff := by
    obtain ⟨s', e, same, held⟩ := silences
    obtain ⟨drives, st, now, off, -⟩ := silent_after alive same
    exact ⟨silent h s', e ▸ hx, drives, st, now, off.trans held⟩
  intro x hx
  obtain rfl | rfl : x = .soldierBlock h c ∨ x = .soldierCut h c := by simpa using hx
  · exact falls _ (soldierBlock h c) (runReady_on on) soldierBlock_silences
  · exact falls _ (soldierCut h c) (runReady_on on) soldierCut_silences

/-- R194: a cut takes at least the end of the burst off the wire. -/
theorem exec_soldierCut {x : WireFrame} (hx : lastBurst s h c = some x) :
    ∃ t, exec (.soldierCut h c) s = .next (refreshReady t) ∧
      ∃ y ∈ t.wl.wire, y.hub = h ∧ y.ch = c ∧ y.fid = x.fid ∧ y.start = x.start ∧
        y.syms.length ≤ x.syms.length - 3 ∧ y.syms <+: x.syms := by
  obtain ⟨hub, ch⟩ : x.hub = h ∧ x.ch = c := by simpa using List.find?_some hx
  have onWire : x ∈ s.wl.wire := List.mem_of_find?_eq_some hx
  obtain ⟨-, -, -, -, wl⟩ := silent_after alive (drive_cutWire (s := s) (pick := soldierPick s x))
  obtain ⟨y, hy, short⟩ := cutHub_keeps (h := h) (mem_cutWire (pick := soldierPick s x) onWire (if_pos rfl))
  obtain ⟨first, syms⟩ := burstCutAt_shortened (n := min (sentSymbols s x) (x.syms.length - 3)) (x := x)
  have whole := first.trans short
  refine ⟨soldierCut h c s, runReady_on on, y, by rw [soldierCut_some hx, wl]; exact hy,
    whole.hub.trans hub, whole.ch.trans ch, whole.fid, whole.start, ?_, whole.syms⟩
  calc y.syms.length ≤ (x.syms.take (min (sentSymbols s x) (x.syms.length - 3))).length := syms ▸ short.syms.length_le
    _ ≤ x.syms.length - 3 := by rw [List.length_take]; omega

/-- R195: a failed oscillator holds the transmitter off. -/
theorem exec_oscillatorFailure : ∃ t, exec (.soldierOscillatorFailure h c) s = .next (refreshReady t) ∧ t.clk.alive[h] = false ∧
    (t.carts[hubCart h]).st = .silent ∧ t.wl.heldOff.getLsbD (wlBit h c) = true ∧ t.clk.now = s.clk.now := by
  obtain ⟨a, st, now, off, -⟩ := silent_after (s' := modWl (fun w => { w with heldOff := putWl w.heldOff h c true }) s) alive rfl
  refine ⟨oscillatorFailure h c s, runReady_on on, a, st, ?_, now⟩
  rw [oscillatorFailure, off]
  exact getLsbD_setBit_same wlBit_lt

end Soldier

-- Transmitter faults (R448)

/-- The fault stands in the masks of the running cycle. -/
def txNoted (h : Hub) (c : Chan) (s : State) : State :=
  modWl (fun w => { w with dirty := putWl w.dirty h c true, txNow := putWl w.txNow h c true }) s

theorem txFault_alive (alive : s.clk.alive[h] = true) :
    txFault h c s = countHub h .wlc c 7 (irq .wlc c wlcTxFault (txNoted h c s)) := if_pos alive

/-- R448: a transmitter fault is noted for its hub, whose own counter counts it. -/
theorem exec_txFault (on : s.clk.on = true) (alive : s.clk.alive[h] = true) (wf : regsWf s.regs = true) :
    ∃ t, exec (.txFault h c) s = .next (refreshReady t) ∧ t.wl.txNow.getLsbD (wlBit h c) = true ∧
      t.wl.dirty.getLsbD (wlBit h c) = true ∧ bit (reg t .wlc c Reg.IRQ_STAT) wlcTxFault = true ∧
      (Sparse.wf (fun _ => (0 : Word)) s.hubCnt[h] = true → ownCount t h .wlc c 7 = ownCount s h .wlc c 7 + 1) ∧
      t.hubCnt[other h] = s.hubCnt[other h] ∧ t = { s with wl := t.wl, regs := t.regs, link := t.link, hubCnt := t.hubCnt } := by
  refine ⟨txFault h c s, runReady_on on, ?_⟩
  have noted : regsWf (irq .wlc c wlcTxFault (txNoted h c s)).regs = true := regsWf_irq (s := txNoted h c s) wf
  have counter : ownCount (irq .wlc c wlcTxFault (txNoted h c s)) h .wlc c 7 = ownCount s h .wlc c 7 := by
    rw [ownCount, writes_irq.reg (s := txNoted h c s) wf (by decide), irq_hubCnt]
    rfl
  have frame := eq_of_unheard (t := countHub h .wlc c 7 (irq .wlc c wlcTxFault (txNoted h c s))) (s := s)
    (by rw [unheard_countHub, unheard_irq]; rfl)
  have clk : (countHub h .wlc c 7 (irq .wlc c wlcTxFault (txNoted h c s))).clk = s.clk := by rw [countHub_clk, irq_clk]; rfl
  rw [clk] at frame
  rw [txFault_alive alive]
  refine ⟨?_, ?_, writes_countHub.flag noted (irq_bit (s := txNoted h c s) wf (by decide)), fun own => ?_, ?_, frame⟩
  · rw [countHub_wl, irq_wl]
    exact getLsbD_setBit_same wlBit_lt
  · rw [countHub_wl, irq_wl]
    exact getLsbD_setBit_same wlBit_lt
  · rw [countHub_ownCount noted (by rw [irq_hubCnt]; exact own) (by decide), counter]
  · rw [countHub_hubCnt, irq_hubCnt, vmod_other (other_ne h)]
    rfl

-- Training (R119, R120)

/-- What a hub does with its own entry leaves the other hub's tables alone. -/
theorem sameEntries_modEq {g : Hub} {f : EqEntry → EqEntry} (ne : h ≠ g) : SameEntries h c s (modEq g c n f s) :=
  ⟨modEq_otherHub ne, rfl, fun _ => rfl⟩

theorem SameEntries.irq {i b : Nat} (e : SameEntries h c s t) (wf : regsWf s.regs = true → regsWf t.regs = true) :
    SameEntries h c s (irq .wlc i b t) :=
  ⟨by rw [irq_wl, e.eq], by rw [irq_clk, e.alive], fun w => (writes_irq.reg (wf w) (by decide)).trans (e.dflt w)⟩

theorem sameEntries_trainEntry {g : Hub} (ne : h ≠ g) : SameEntries h c s (trainEntry g c n s) := by
  unfold trainEntry
  dsimp only
  split
  · split <;> exact (sameEntries_modEq ne).irq id
  · exact .refl

/-- The entry of a training that ends at one hub (R119): trained with at least 96 good slots, else the untrained default. -/
def trained (s : State) (c : Chan) (e : EqEntry) : EqEntry :=
  if 96 ≤ e.good then { e with
    trained := true, done := true, atlim := false, ctleMid := e.ctle, hMid := e.h
    offset := max 0 (min 500 (e.devSum / (max 1 e.good : Nat))) }
  else { toDefault s c e with done := true, offset := 0 }

/-- A training whose 128 slots have elapsed ends: one entry changes, and an interrupt tells. -/
theorem trainEntry_ends (h128 : 128 ≤ (eqEntry s h c n).slots) (hd : (eqEntry s h c n).done = false) :
    (trainEntry h c n s).wl = (modEq h c n (fun _ => trained s c (eqEntry s h c n)) s).wl := by
  simp only [trainEntry, if_pos (And.intro h128 hd), trained]
  split <;> rw [irq_wl] <;> rfl

theorem trainEntry_frame : unheard (trainEntry h c n s) = unheard s ∧ (trainEntry h c n s).clk = s.clk ∧
    (trainEntry h c n s).hubCnt = s.hubCnt := by
  unfold trainEntry
  dsimp only
  split
  · split <;> simp [modEq]
  · exact ⟨rfl, rfl, rfl⟩

theorem trainingComplete_frame : trainingComplete c n s = { s with
    clk := (trainingComplete c n s).clk, wl := (trainingComplete c n s).wl
    regs := (trainingComplete c n s).regs, link := (trainingComplete c n s).link } := by
  have rest : unheard (trainingComplete c n s) = unheard s :=
    forEach_preserves (fun g u => by rw [unheard_ite, trainEntry_frame.1, ite_self]) _ _
  have counts : (trainingComplete c n s).hubCnt = s.hubCnt :=
    forEach_preserves (g := State.hubCnt) (fun g u => by split; exacts [trainEntry_frame.2.2, rfl]) _ _
  have frame := eq_of_unheard rest
  rwa [counts] at frame

section Entries
variable (table : Sparse.wf (fun _ => ({} : EqEntry)) (s.wl.eq[h])[c] = true)
include table

/-- The entries of a hub after a training has ended: the node's own is settled, the others stay. -/
theorem trainingComplete_entry (alive : s.clk.alive[h] = true) (wf : regsWf s.regs = true)
    (h128 : 128 ≤ (eqEntry s h c n).slots) (hd : (eqEntry s h c n).done = false) :
    eqEntry (trainingComplete c n s) h c n = trained s c (eqEntry s h c n) ∧
      ∀ m, m ≠ n → eqEntry (trainingComplete c n s) h c m = eqEntry s h c m := by
  obtain ⟨u, before, after⟩ := bothOf_own (s := s) (h := h) (c := c) (f := fun g s => if s.clk.alive[g] then trainEntry g c n s else s)
    fun g u ne => by split; exacts [sameEntries_trainEntry ne.symm, .refl]
  have drives : u.clk.alive[h] = true := by rw [before.alive]; exact alive
  have table' : Sparse.wf (fun _ => ({} : EqEntry)) (u.wl.eq[h])[c] = true := by rw [before.eq]; exact table
  have same : trained u c (eqEntry u h c n) = trained s c (eqEntry s h c n) := by
    rw [before.entry, trained, toDefault, before.ctle wf, before.taps wf, trained, toDefault]
  rw [← before.entry] at h128 hd
  have own : (if u.clk.alive[h] then trainEntry h c n u else u).wl =
      (modEq h c n (fun _ => trained u c (eqEntry u h c n)) u).wl := by rw [if_pos drives, trainEntry_ends h128 hd]
  have entry (m : Nat) : eqEntry (trainingComplete c n s) h c m =
      eqEntry (modEq h c n (fun _ => trained u c (eqEntry u h c n)) u) h c m :=
    after.entry.trans (eqEntry_congr (congrArg (·.eq[h]) own))
  exact ⟨by rw [entry, eqEntry_modEq_same table', same], fun m ne => by rw [entry, eqEntry_modEq_other table' ne, before.entry]⟩

/-- R119, R120: TRAINING_COMPLETE at a hub that drives. -/
theorem exec_trainingComplete (on : s.clk.on = true) (alive : s.clk.alive[h] = true) (wf : regsWf s.regs = true) (k : NodeNo)
    (h128 : 128 ≤ (eqEntry s h c k.val).slots) (hd : (eqEntry s h c k.val).done = false) :
    ∃ t, exec (.trainingComplete c k) s = .next (refreshReady t) ∧ (eqEntry t h c k.val).done = true ∧
      (96 ≤ (eqEntry s h c k.val).good → (eqEntry t h c k.val).trained = true) ∧
      ((eqEntry s h c k.val).good < 96 → (eqEntry t h c k.val).trained = false ∧ (eqEntry t h c k.val).offset = 0 ∧
        (eqEntry t h c k.val).ctle = defCtle s c ∧ (eqEntry t h c k.val).h = defTaps s c) ∧
      (∀ m : NodeNo, m ≠ k → eqEntry t h c m.val = eqEntry s h c m.val) ∧
      t = { s with clk := t.clk, wl := t.wl, regs := t.regs, link := t.link } := by
  obtain ⟨own, others⟩ := trainingComplete_entry table alive wf h128 hd
  refine ⟨trainingComplete c k.val s, runReady_on on, ?_, fun good => ?_, fun bad => ?_,
    fun m ne => others m.val fun e => ne (Fin.ext e), trainingComplete_frame⟩
  · rw [own, trained]
    split <;> rfl
  · rw [own, trained, if_pos good]
  · rw [own, trained, if_neg (Nat.not_le.mpr bad)]
    exact ⟨rfl, rfl, rfl, rfl⟩

-- RETRAIN (R124)

/-- What `RETRAIN` makes of an entry. -/
def retrained (s : State) (c : Chan) (clear : Bool) (e : EqEntry) : EqEntry :=
  if clear then { toDefault s c e with offset := 0, slots := 0, good := 0, devSum := 0, done := false }
  else { e with atlim := false, ctleMid := e.ctle, hMid := e.h }

/-- The entries of a hub after `RETRAIN` of one node. -/
theorem retrain_entry (k : NodeNo) (clear : Bool) :
    eqEntry (retrain c k.val false clear s) h c k.val = retrained s c clear (eqEntry s h c k.val) ∧
      ∀ m : NodeNo, m ≠ k → eqEntry (retrain c k.val false clear s) h c m.val = eqEntry s h c m.val := by
  obtain ⟨u, before, after⟩ := bothOf_own (s := s) (h := h) (c := c)
    (f := fun g => modEq g c (k.val % 64) fun e => retrained s c clear e) fun g u ne => sameEntries_modEq ne.symm
  have table' : Sparse.wf (fun _ => ({} : EqEntry)) (u.wl.eq[h])[c] = true := by rw [before.eq]; exact table
  have steps : retrain c k.val false clear s = forEach bothOf (fun g => modEq g c (k.val % 64) fun e => retrained s c clear e) s := rfl
  rw [Nat.mod_eq_of_lt k.isLt] at after steps
  rw [steps]
  exact ⟨by rw [after.entry, eqEntry_modEq_same table', before.entry],
    fun m ne => by rw [after.entry, eqEntry_modEq_other table' fun e => ne (Fin.ext e), before.entry]⟩

/-- R124: `RETRAIN` recentres the drift window. -/
theorem exec_retrain (on : s.clk.on = true) (k : NodeNo) :
    ∃ t, exec (.retrain c k false) s = .next t ∧ (eqEntry t h c k.val).ctleMid = (eqEntry s h c k.val).ctle ∧
      (eqEntry t h c k.val).hMid = (eqEntry s h c k.val).h ∧ (eqEntry t h c k.val).atlim = false ∧
      (eqEntry t h c k.val).trained = (eqEntry s h c k.val).trained ∧
      (∀ m : NodeNo, m ≠ k → eqEntry t h c m.val = eqEntry s h c m.val) ∧ t = { s with wl := t.wl } := by
  obtain ⟨own, others⟩ := retrain_entry table k false
  refine ⟨retrain c k.val false false s, run_on on, ?_⟩
  rw [own]
  exact ⟨rfl, rfl, rfl, rfl, others, rfl⟩

/-- R124: with `CLEAR` the entry is the untrained default again. -/
theorem exec_retrainClear (on : s.clk.on = true) (k : NodeNo) :
    ∃ t, exec (.retrainClear c k false) s = .next (refreshReady t) ∧ (eqEntry t h c k.val).trained = false ∧
      (eqEntry t h c k.val).ctle = defCtle s c ∧ (eqEntry t h c k.val).offset = 0 ∧ (eqEntry t h c k.val).slots = 0 ∧
      t = { s with wl := t.wl } := by
  obtain ⟨own, -⟩ := retrain_entry table k true
  refine ⟨retrain c k.val false true s, runReady_on on, ?_⟩
  rw [own]
  exact ⟨rfl, rfl, rfl, rfl, rfl⟩

end Entries

/-- Settles O46, clause by clause: each command's effect on the entries, the counts and the wire is one of the lemmas above. -/
theorem wearlinePhysical : Obligations.WearlinePhysical := by
  intro s h c on alive wf table
  exact ⟨exec_trainingComplete table on alive wf, exec_retrain table on, exec_retrainClear table on, exec_txFault on alive wf,
    exec_soldier on alive, fun x hx => exec_soldierCut on alive hx, exec_oscillatorFailure on alive⟩

end Sys2Proof.Machine

/-! SUPPORT. What both hubs make of one burst, while listening and while the schedule runs (R111, R114, R139, R168, R185, R190). -/

namespace Sys2Proof.Machine

variable {s t u v : State} {b : WlBank} {c : Chan} {h : Hub} {n fid dt : Nat} {x : Burst} {z : Received} {j : Judged} {r : SlotRow}
  {row : Option SlotRow}

-- What a hub's own receiver does (R119, R122, R139, R163)

/-- A step of a hub's receiver: its entries, its counts, free values drawn, and of the registers only flags. -/
structure Receives (s t : State) : Prop extends Writes [Reg.CNT_OVF, Reg.IRQ_STAT] s t where
  rest : unheard t = unheard s
  air : offAir t = offAir s

theorem Receives.refl : Receives s s := ⟨.refl, rfl, rfl⟩

theorem Receives.trans (e : Receives s t) (f : Receives t u) : Receives s u :=
  ⟨e.toWrites.trans f.toWrites, f.rest.trans e.rest, f.air.trans e.air⟩

theorem Receives.rx (e : Receives s t) : t.wl.rx = s.wl.rx := (congrArg (·.wl.rx) e.air :)
theorem Receives.seqs (e : Receives s t) : t.wl.seqs = s.wl.seqs := (congrArg (·.wl.seqs) e.air :)
theorem Receives.got (e : Receives s t) : t.wl.got = s.wl.got := (congrArg (·.wl.got) e.air :)

/-- Receivers draw free values and leave the clock else as it is. -/
theorem Receives.clk (e : Receives s t) : t.clk = { s.clk with free := t.clk.free } := by
  have clk : { t.clk with free := 0 } = { s.clk with free := 0 } := (congrArg State.clk e.air :)
  calc t.clk = { ({ t.clk with free := 0 } : Clock) with free := t.clk.free } := rfl
    _ = { s.clk with free := t.clk.free } := by rw [clk]

theorem receives_countHub {p : Pg} {i k : Nat} : Receives s (countHub h p i k s) := ⟨writes_countHub, unheard_countHub, offAir_countHub⟩

theorem receives_irqIf {q : Bool} {p : Pg} {i k : Nat} : Receives s (irqIf q p i k s) :=
  ⟨writes_irqIf.mono (by decide), unheard_irqIf, offAir_irqIf⟩

theorem receives_modEq {f : EqEntry → EqEntry} : Receives s (modEq h c n f s) := ⟨writes_of_regs rfl, rfl, rfl⟩

theorem receives_drawFree : Receives s (drawFree s).2 := ⟨writes_of_regs rfl, rfl, rfl⟩

theorem receives_goodSlot : Receives s (goodSlot h c s) := ⟨writes_of_regs rfl, rfl, rfl⟩

theorem receives_noteEye : Receives s (noteEye h c n s) := ⟨writes_of_regs rfl, rfl, rfl⟩

theorem receives_trainGood {d : Int} : Receives s (trainGood h c n d s) :=
  (receives_drawFree.trans receives_modEq).trans receives_countHub

theorem receives_adapt : Receives s (adapt h c n s) := by
  have stepped (q : Bool) (f : EqEntry → EqEntry) :
      Receives s (irqIf q .wlc c wlcDrift (modEq h c n f (drawFree (noteEye h c n s)).2)) :=
    ((receives_noteEye.trans receives_drawFree).trans receives_modEq).trans receives_irqIf
  unfold adapt
  extract_lets
  split
  · split
    · exact (stepped _ _).trans receives_countHub
    · exact stepped _ _
  · exact receives_noteEye

/-- A failed check counts in one of the hub's own counters; a frame that passes counts in none (R139). -/
theorem countFailure_counts (h : Hub) (c : Chan) (o : Nat) (s : State) :
    countFailure h c o s = s ∨ ∃ p i k, countFailure h c o s = countHub h p i k s := by
  unfold countFailure
  split <;> first | exact .inl rfl | exact .inr ⟨_, _, _, rfl⟩

theorem receives_countFailure {o : Nat} : Receives s (countFailure h c o s) := by
  obtain e | ⟨p, i, k, e⟩ := countFailure_counts h c o s <;> rw [e]
  · exact .refl
  · exact receives_countHub

theorem receives_countOutcome {o : Nat} : Receives s (countOutcome h c o s) := by
  unfold countOutcome
  split
  · exact receives_countHub.trans receives_countFailure
  · exact receives_countFailure

theorem receives_trainSlot : Receives s (trainSlot h c n j s) := by
  unfold trainSlot
  dsimp only
  split
  · split
    · exact receives_trainGood
    · split
      · exact receives_modEq.trans receives_adapt
      · exact receives_adapt
  · split
    · exact receives_modEq
    · exact .refl

theorem receives_hubReception : Receives s (hubReception b c row h j s) := by
  have slot (q : Bool) (u : State) : Receives u (if q then goodSlot h c u else u) := by
    split
    · exact receives_goodSlot
    · exact .refl
  unfold hubReception
  dsimp only
  split
  · exact receives_countOutcome
  · split
    · exact receives_countOutcome
    · next r _ =>
      have counted : Receives s (if outcomeIntact j.outcome && decide (r.fid < 256) then goodSlot h c (countOutcome h c j.outcome s)
          else countOutcome h c j.outcome s) := receives_countOutcome.trans (slot _ _)
      generalize (if outcomeIntact j.outcome && decide (r.fid < 256) then goodSlot h c (countOutcome h c j.outcome s)
          else countOutcome h c j.outcome s) = v at counted ⊢
      split
      · exact counted.trans receives_trainSlot
      · split
        · exact counted.trans receives_adapt
        · exact counted

/-- Both hubs' receivers take the same burst. -/
def bothReceive (b : WlBank) (c : Chan) (row : Option SlotRow) (j : Judged) (s : State) : State :=
  hubReception b c row 1 j (hubReception b c row 0 j s)

theorem receives_bothReceive : Receives s (bothReceive b c row j s) := receives_hubReception.trans receives_hubReception

theorem eq_of_heard (rest : unheard t = unheard s) (clk : t.clk = { s.clk with free := t.clk.free }) : t = { s with
    clk := { s.clk with free := t.clk.free }, wl := t.wl, regs := t.regs, link := t.link, hubCnt := t.hubCnt } :=
  (eq_of_unheard rest).trans (congrArg (fun k => { s with clk := k, wl := t.wl, regs := t.regs, link := t.link, hubCnt := t.hubCnt }) clk)

-- A burst comes in

/-- Both hubs' receivers detect a burst (R125). -/
def sensed (c : Chan) (s : State) : State := modWl (fun w => { w with sigdet := putWl (putWl w.sigdet 0 c true) 1 c true }) s

/-- A burst in the dynamic segment takes the minislots that it occupies (R151). -/
def minisTaken (b : WlBank) (c : Chan) (fid : Nat) (x : Burst) (s : State) : State :=
  if 256 ≤ fid ∧ 256 ≤ s.wl.mini[c] ∧ 0 < x.syms.length then
    modWl (fun w => { w with spent := vmod w.spent c (· + (minislotsOf b x.syms.length - 1)) }) s
  else s

theorem heard_of_alive {y : Reception} (alive : s.clk.alive[h] = true) : heard s h y = y := if_pos alive

/-- What a burst is judged by: the cycle, and Wearline without detected signals, minislots taken and coefficients in use. -/
def judging (s : State) : State :=
  { clk := { tag := s.clk.tag, started := s.clk.started }
    wl := { s.wl with sigdet := 0, spent := Vector.replicate 2 0, eqUse := Vector.replicate 2 (Vector.replicate 2 0) } }

/-- A burst that has come in after some edges: cell time has moved, the receivers have detected it, minislots may be taken. -/
structure Arrived (dt : Nat) (s u : State) : Prop where
  rest : unheard u = unheard (advance dt s)
  clk : u.clk = (advance dt s).clk
  regs : u.regs = (advance dt s).regs
  same : judging u = judging s

theorem arrived_sensed : Arrived dt s (sensed c (advance dt s)) := by
  refine ⟨rfl, rfl, rfl, ?_⟩
  simp only [judging, sensed, modWl_clk, modWl_wl, advance_clk, advance_wl]

theorem arrived_minisTaken : Arrived dt s (minisTaken b c fid x (sensed c (advance dt s))) := by
  have detected := arrived_sensed (dt := dt) (c := c) (s := s)
  unfold minisTaken
  split
  · exact ⟨detected.rest, detected.clk, detected.regs, detected.same⟩
  · exact detected

theorem Arrived.drives (a : Arrived dt s u) (drives : ∀ g : Hub, s.clk.alive[g] = true) (g : Hub) : u.clk.alive[g] = true := by
  rw [a.clk, advance_clk]
  exact drives g

theorem Arrived.writes (a : Arrived dt s u) : Writes [Reg.CNT_OVF, Reg.IRQ_STAT] s u := writes_advance.trans (writes_of_regs a.regs)

/-- What reads nothing but what a burst is judged by reads the same after the arrival. -/
theorem eq_of_judging {α : Type} (f : State → α) (hf : ∀ v, f (judging v) = f v) (e : judging u = judging s) : f u = f s :=
  (hf u).symm.trans ((congrArg f e).trans (hf s))

theorem Arrived.checkFrame (a : Arrived dt s u) {d : Int} : checkFrame u b row n h c z d = checkFrame s b row n h c z d :=
  eq_of_judging (Machine.checkFrame · b row n h c z d) (fun _ => rfl) a.same

theorem Arrived.rx (a : Arrived dt s u) : u.wl.rx = s.wl.rx := eq_of_judging (·.wl.rx) (fun _ => rfl) a.same

theorem Arrived.dynRow (a : Arrived dt s u) : dynRow u b c n = dynRow s b c n :=
  eq_of_judging (Machine.dynRow · b c n) (fun _ => rfl) a.same

section Incoming
variable (bank : wlBank s = some b) (drives : ∀ g : Hub, s.clk.alive[g] = true)
include bank drives

/-- A burst that reaches both hubs is detected by both, before anything else is done with it. -/
theorem frameReceived_sensed : frameReceived dt c fid (some x) (some x) s =
    if s.wl.phase = .listen then listenReception b c (some x) (some x) (sensed c (advance dt s))
    else if wlRuns s then receive b c fid (some x) (some x) (minisTaken b c fid x (sensed c (advance dt s)))
    else countIntact c (some x) (some x) (sensed c (advance dt s)) := by
  have detected : forEach bothOf (fun h s => if (heard s h (if h = 0 then some x else some x)).isSome then
      modWl (fun w => { w with sigdet := putWl w.sigdet h c true }) s else s) (advance dt s) = sensed c (advance dt s) := by
    have first : (heard (advance dt s) 0 (some x)).isSome = true := by
      rw [heard_of_alive (by rw [advance_clk]; exact drives 0)]; rfl
    have second (f : Wearline → Wearline) : (heard (modWl f (advance dt s)) 1 (some x)).isSome = true := by
      rw [heard_of_alive (by rw [modWl_clk, advance_clk]; exact drives 1)]; rfl
    simp only [forEach, bothOf, List.foldl_cons, List.foldl_nil, ite_self, first, second, if_true]
    rfl
  have same := (arrived_sensed (dt := dt) (c := c) (s := s)).same
  have bank' : wlBank (sensed c (advance dt s)) = some b := (eq_of_judging wlBank (fun _ => rfl) same).trans bank
  have phase : (sensed c (advance dt s)).wl.phase = s.wl.phase := eq_of_judging (·.wl.phase) (fun _ => rfl) same
  have runs : wlRuns (sensed c (advance dt s)) = wlRuns s := eq_of_judging wlRuns (fun _ => rfl) same
  have length : max (burstLength (some x)) (burstLength (some x)) = x.syms.length := Nat.max_self _
  simp only [frameReceived, detected, bank', phase, runs, length]
  rfl

theorem frameReceived_listen (listens : s.wl.phase = .listen) : frameReceived dt c fid (some x) (some x) s =
    listenReception b c (some x) (some x) (sensed c (advance dt s)) := by
  rw [frameReceived_sensed bank drives, if_pos listens]

theorem frameReceived_runs (runs : wlRuns s = true) : frameReceived dt c fid (some x) (some x) s =
    receive b c fid (some x) (some x) (minisTaken b c fid x (sensed c (advance dt s))) := by
  have notListen : s.wl.phase ≠ .listen := fun e => by simp [wlRuns, e] at runs
  rw [frameReceived_sensed bank drives, if_neg notListen, if_pos runs]

end Incoming

-- Listening (R185, R190)

/-- Counting leaves the clock and Wearline alone. -/
theorem countIntact_kept : unheard (countIntact c (some x) (some x) s) = unheard s ∧
    (countIntact c (some x) (some x) s).wl = s.wl ∧ (countIntact c (some x) (some x) s).clk = s.clk := by
  have failure (g : Hub) (o : Nat) (v : State) : (countFailure g c o v).wl = v.wl ∧ (countFailure g c o v).clk = v.clk := by
    obtain e | ⟨p, i, k, e⟩ := countFailure_counts g c o v <;> rw [e]
    · exact ⟨rfl, rfl⟩
    · exact ⟨countHub_wl, countHub_clk⟩
  have outcome (g : Hub) (o : Nat) (v : State) : (countOutcome g c o v).wl = v.wl ∧ (countOutcome g c o v).clk = v.clk := by
    unfold countOutcome
    rw [(failure _ _ _).1, (failure _ _ _).2]
    split
    · exact ⟨countHub_wl, countHub_clk⟩
    · exact ⟨rfl, rfl⟩
  refine ⟨forEach_preserves (fun g v => ?_) _ _, forEach_preserves (g := State.wl) (fun g v => ?_) _ _,
    forEach_preserves (g := State.clk) (fun g v => ?_) _ _⟩ <;> split
  · exact receives_countOutcome.rest
  · rfl
  · exact (outcome _ _ _).1
  · rfl
  · exact (outcome _ _ _).2
  · rfl

/-- What the hubs have noted of a burst when the module decides what to do with it. -/
def listened (c : Chan) (x : Burst) (s : State) : State := countIntact c (some x) (some x) (loadEq c none s)

theorem listened_kept : unheard (listened c x s) = unheard s ∧ (listened c x s).wl = (loadEq c none s).wl ∧
    (listened c x s).clk = s.clk :=
  countIntact_kept

theorem listened_same : judging (listened c x s) = judging s := by
  obtain ⟨-, wl, clk⟩ := listened_kept (c := c) (x := x) (s := s)
  simp only [judging, wl, clk]
  rfl

/-- The listen timer starts again, to end at `t` (R185). -/
def relisten (t : Nat) (s : State) : State := modWl (fun w => { w with listenAt := t }) s

section Listen
variable (drives : ∀ g : Hub, s.clk.alive[g] = true)
include drives

/-- While the module listens, what it does with a burst hangs on whether it can integrate on its frame. -/
theorem listenReception_eq : listenReception b c (some x) (some x) s =
    ((received x.syms).filter (usable b)).elim (relisten ((listened c x s).clk.now + 4 * busNs (listened c x s) * 2 ^ 32) (listened c x s))
      (integrate b · (listened c x s)) := by
  have both (g : Hub) : heard (listened c x s) g (some x) = some x := heard_of_alive (by rw [listened_kept.2.2]; exact drives g)
  have frame : frameOf (some x) = received x.syms := rfl
  have order : (if (listened c x s).clk.refHub = 0 then [received x.syms, received x.syms] else [received x.syms, received x.syms]) =
      [received x.syms, received x.syms] := ite_self _
  unfold relisten
  unfold listened at both order ⊢
  simp only [listenReception, both, frame, order]
  cases received x.syms with
  | none => rfl
  | some z => rw [Option.filter_some]; cases e : usable b z <;> simp [e]

/-- A burst that the module cannot use restarts the listen timer. -/
theorem listenReception_unusable (unusable : ∀ z ∈ received x.syms, usable b z = false) : listenReception b c (some x) (some x) s =
    relisten ((listened c x s).clk.now + 4 * busNs (listened c x s) * 2 ^ 32) (listened c x s) := by
  have none : (received x.syms).filter (usable b) = none := Option.filter_eq_none_iff.mpr fun z hz => by simp [unusable z hz]
  rw [listenReception_eq drives, none]
  rfl

/-- The module integrates on a usable frame. -/
theorem listenReception_usable (hz : received x.syms = some z) (use : usable b z = true) :
    listenReception b c (some x) (some x) s = integrate b z (listened c x s) := by
  rw [listenReception_eq drives, hz, Option.filter_some, if_pos use]
  rfl

end Listen

/-- A sync or chirp frame of the schedule, whole and at its rate, can be integrated on (R185). -/
theorem usable_of_sync {hd : Hdr} (whole : intact z = true) (e : hd = readHdr z.bytes) (sync : hd.sync = true) (null : hd.null = false)
    (kind : hd.kind = 1 ∨ hd.kind = 9) (rate : leAt (framePayload z.bytes) 10 1 % 4 = b.rate.toNat)
    (slot : ∃ r ∈ b.two, r.kind = 1 ∧ r.fid = hd.fid) : usable b z = true := by
  subst e
  simp only [usable, whole, sync, null, rate, Bool.and_eq_true, Bool.or_eq_true, beq_iff_eq, List.any_eq_true]
  exact ⟨⟨⟨⟨⟨trivial, trivial⟩, rfl⟩, kind⟩, trivial⟩, slot⟩

theorem relisten_clk : (relisten n s).clk = s.clk := rfl
theorem relisten_listenAt : (relisten n s).wl.listenAt = n := rfl
theorem relisten_sigdet : (relisten n s).wl.sigdet = s.wl.sigdet := rfl
theorem relisten_phase : (relisten n s).wl.phase = s.wl.phase := rfl
theorem unheard_relisten : unheard (relisten n s) = unheard s := rfl
theorem loadEq_sigdet {k : Option Nat} : (loadEq c k s).wl.sigdet = s.wl.sigdet := rfl
theorem sensed_sigdet : (sensed c s).wl.sigdet = putWl (putWl s.wl.sigdet 0 c true) 1 c true := rfl

/-- The module integrates: its first sync instant stands at `ts`, with the tag `tag` (R185, R190). -/
def cyclePlaced (tag : BitVec 48) (ts : Nat) (s : State) : State :=
  modWl (fun w => { w with phase := .integrate, upCycles := 0, seqs := [] })
    { s with clk := { s.clk with running := true, started := false, tag := tag, tag0 := tag, ts := ts } }

/-- Where integration places the first sync instant: the frame's cycle count goes on with the instant's cycle (R190). -/
theorem integrate_cyclePlaced : ∃ ts, integrate b z s = cyclePlaced
    (BitVec.ofNat 48 (64 + ((readHdr z.bytes).cyc + (if (readHdr z.bytes).cyc % 2 = 0 then 2 else 1)) % 64)) ts s := ⟨_, rfl⟩

theorem cyclePlaced_spec {tag : BitVec 48} {ts : Nat} : (cyclePlaced tag ts s).wl.phase = .integrate ∧
    (cyclePlaced tag ts s).clk.running = true ∧ (cyclePlaced tag ts s).clk.started = false ∧
    (cyclePlaced tag ts s).clk.tag = tag ∧ unheard (cyclePlaced tag ts s) = unheard s :=
  ⟨rfl, rfl, rfl, rfl, rfl⟩

/-- Integration places the first sync instant, at the cycle count that the frame announces (R190). -/
theorem integrate_spec : (integrate b z s).wl.phase = .integrate ∧ (integrate b z s).clk.running = true ∧
    (integrate b z s).clk.started = false ∧
    (integrate b z s).clk.tag.toNat % 64 = ((readHdr z.bytes).cyc + (if (readHdr z.bytes).cyc % 2 = 0 then 2 else 1)) % 64 ∧
    unheard (integrate b z s) = unheard s := by
  obtain ⟨ts, e⟩ := integrate_cyclePlaced (b := b) (z := z) (s := s)
  obtain ⟨phase, running, started, tag, rest⟩ := cyclePlaced_spec (s := s) (ts := ts)
    (tag := BitVec.ofNat 48 (64 + ((readHdr z.bytes).cyc + (if (readHdr z.bytes).cyc % 2 = 0 then 2 else 1)) % 64))
  rw [e]
  refine ⟨phase, running, started, ?_, rest⟩
  rw [tag, BitVec.toNat_ofNat]
  omega

/-- The bits of both hubs on a channel once both have detected a signal. -/
theorem putWl_both {w : BitVec 4} : (putWl (putWl w 0 c true) 1 c true).getLsbD c.val = true ∧
    (putWl (putWl w 0 c true) 1 c true).getLsbD (2 + c.val) = true := by
  have first : wlBit 0 c = c.val := by simp [wlBit]
  have second : wlBit 1 c = 2 + c.val := by simp [wlBit]
  simp only [putWl, first, second]
  exact ⟨(getLsbD_setBit_other (by omega)).trans (getLsbD_setBit_same (by omega)), getLsbD_setBit_same (by omega)⟩

section Integration
variable (on : s.clk.on = true) (bank : wlBank s = some b) (drives : ∀ g : Hub, s.clk.alive[g] = true) (listens : s.wl.phase = .listen)
include on bank drives listens

/-- R185: a burst of no use to a listening module. -/
theorem exec_frameReceived_unusable (f : BitVec 10) (unusable : ∀ z ∈ received x.syms, usable b z = false) :
    ∃ t, exec (.frameReceived dt c f (some x) (some x)) s = .next (noteReady .wlc 1 (noteReady .wlc 0 t)) ∧ t.wl.phase = .listen ∧
      t.wl.listenAt = t.clk.now + 4 * busNs s * 2 ^ 32 ∧
      t.wl.sigdet.getLsbD c.val = true ∧ t.wl.sigdet.getLsbD (2 + c.val) = true ∧
      t = { advance dt s with wl := t.wl, regs := t.regs, link := t.link, hubCnt := t.hubCnt } := by
  have arrived := arrived_sensed (dt := dt) (c := c) (s := s)
  obtain ⟨rest, wl, clk⟩ := listened_kept (c := c) (x := x) (s := sensed c (advance dt s))
  have same := (listened_same (c := c) (x := x) (s := sensed c (advance dt s))).trans arrived.same
  have run : exec (.frameReceived dt c f (some x) (some x)) s = .next (noteReady .wlc 1 (noteReady .wlc 0
      (frameReceived dt c f.toNat (some x) (some x) s))) := runWlc_on on
  rw [frameReceived_listen bank drives listens, listenReception_unusable (arrived.drives drives) unusable] at run
  have sigdet : (listened c x (sensed c (advance dt s))).wl.sigdet = putWl (putWl s.wl.sigdet 0 c true) 1 c true := by
    rw [wl, loadEq_sigdet, sensed_sigdet, advance_wl]
  have bus : busNs (listened c x (sensed c (advance dt s))) = busNs s := eq_of_judging busNs (fun _ => rfl) same
  have phase : (listened c x (sensed c (advance dt s))).wl.phase = .listen :=
    (eq_of_judging (·.wl.phase) (fun _ => rfl) same).trans listens
  rw [bus] at run
  generalize listened c x (sensed c (advance dt s)) = u at rest clk run sigdet phase
  generalize e : u.clk.now + 4 * busNs s * 2 ^ 32 = n at run
  have frame := eq_of_unheard (unheard_relisten (n := n) |>.trans (rest.trans arrived.rest))
  rw [relisten_clk, clk, arrived.clk] at frame
  refine ⟨relisten n u, run, by rw [relisten_phase, phase], by rw [relisten_listenAt, relisten_clk, e], ?_, ?_, frame⟩
  · rw [relisten_sigdet, sigdet]
    exact putWl_both.1
  · rw [relisten_sigdet, sigdet]
    exact putWl_both.2

/-- R185, R190: a usable sync frame. -/
theorem exec_frameReceived_usable (f : BitVec 10) (hz : received x.syms = some z) (use : usable b z = true) :
    ∃ t, exec (.frameReceived dt c f (some x) (some x)) s = .next (noteReady .wlc 1 (noteReady .wlc 0 t)) ∧ t.wl.phase = .integrate ∧
      t.clk.running = true ∧ t.clk.started = false ∧
      t.clk.tag.toNat % 64 = ((readHdr z.bytes).cyc + (if (readHdr z.bytes).cyc % 2 = 0 then 2 else 1)) % 64 ∧
      t = { advance dt s with clk := t.clk, wl := t.wl, regs := t.regs, link := t.link, hubCnt := t.hubCnt } := by
  have arrived := arrived_sensed (dt := dt) (c := c) (s := s)
  have rest := (listened_kept (c := c) (x := x) (s := sensed c (advance dt s))).1.trans arrived.rest
  have run : exec (.frameReceived dt c f (some x) (some x)) s = .next (noteReady .wlc 1 (noteReady .wlc 0
      (frameReceived dt c f.toNat (some x) (some x) s))) := runWlc_on on
  rw [frameReceived_listen bank drives listens, listenReception_usable (arrived.drives drives) hz use] at run
  generalize listened c x (sensed c (advance dt s)) = u at rest run
  obtain ⟨phase, running, started, cyc, kept⟩ := integrate_spec (b := b) (z := z) (s := u)
  exact ⟨integrate b z u, run, phase, running, started, cyc, eq_of_unheard (kept.trans rest)⟩

end Integration

-- While the schedule runs (R139, R168)

/-- What a hub makes of a burst. -/
def judged (z : Received) (x : Burst) (o : Nat) : Judged := ⟨z, x.devNs, o⟩

section Receive
variable {o : Nat} (drives : ∀ g : Hub, s.clk.alive[g] = true) (hz : received x.syms = some z)
include drives hz

/-- A burst that both hubs judge alike: the agreed frame is what passes, and the hubs do not differ (R17, R18). -/
theorem receive_alike (slot : slotOf s c fid = n) (hrow : (if n < 256 then rowAt s b c n else dynRow s b c n) = row)
    (check : ∀ g : Hub, checkFrame s b row n g c z x.devNs = o) : receive b c fid (some x) (some x) s =
      if o = 0 then row.elim (bothReceive b c row (judged z x o) s)
        fun r => deliver b c r z.bytes (bothReceive b c row (judged z x o) s)
      else bothReceive b c row (judged z x o) s := by
  have both (g : Hub) : heard s g (some x) = some x := heard_of_alive (drives g)
  have sees (g : Hub) : judge s b row n c g (some x) = some (judged z x o) := by
    simp only [judge, Option.bind_some, hz, Option.map_some, check, judged]
  have agree : agreeFrame (some (judged z x o)) (some (judged z x o)) = (if o = 0 then some z.bytes else none, false, false) := by
    by_cases e : o = 0 <;> simp [agreeFrame, judged, e]
  have order : (if s.clk.refHub = 0 then agreeFrame (some (judged z x o)) (some (judged z x o))
      else agreeFrame (some (judged z x o)) (some (judged z x o))) = (if o = 0 then some z.bytes else none, false, false) := by
    rw [ite_self, agree]
  have driven : exchanged s = s := if_pos (by rw [bothHubs, drives 0, drives 1]; rfl)
  simp only [receive, slot, hrow, both, sees, order, Bool.false_and, countIf, Bool.false_eq_true, if_false, driven]
  by_cases e : o = 0
  · cases row <;> simp [e, bothReceive]
  · simp [e, bothReceive]

end Receive

/-- A code violation fails the first check, whatever the slot (R114, R139). -/
theorem checkFrame_violation (bad : z.violation = true) : checkFrame s b row n h c z x.devNs = 1 := by
  simp [checkFrame, crcCheck, bad]

/-- R139: a burst with a code violation gives no data. -/
theorem exec_frameReceived_violation (on : s.clk.on = true) (bank : wlBank s = some b) (drives : ∀ g : Hub, s.clk.alive[g] = true)
    (f : BitVec 10) (runs : wlRuns s = true) (hz : received x.syms = some z) (bad : z.violation = true) :
    ∃ t, exec (.frameReceived dt c f (some x) (some x)) s = .next (noteReady .wlc 1 (noteReady .wlc 0 t)) ∧
      t.wl.rx = s.wl.rx ∧ t.wl.seqs = s.wl.seqs ∧ t.wl.got = s.wl.got ∧ t.sdp = s.sdp ∧ t.mnt = s.mnt ∧ t.prg = s.prg ∧
      t = { advance dt s with
        clk := { (advance dt s).clk with free := t.clk.free }, wl := t.wl, regs := t.regs, link := t.link, hubCnt := t.hubCnt } := by
  have arrived := arrived_minisTaken (dt := dt) (b := b) (c := c) (fid := f.toNat) (x := x) (s := s)
  have run : exec (.frameReceived dt c f (some x) (some x)) s = .next (noteReady .wlc 1 (noteReady .wlc 0
      (frameReceived dt c f.toNat (some x) (some x) s))) := runWlc_on on
  rw [frameReceived_runs bank drives runs, receive_alike (arrived.drives drives) hz rfl rfl fun _ => checkFrame_violation bad,
    if_neg (by decide)] at run
  generalize minisTaken b c f.toNat x (sensed c (advance dt s)) = u at arrived run
  have taken := receives_bothReceive (b := b) (c := c) (j := judged z x 1) (s := u)
    (row := if slotOf u c f.toNat < 256 then rowAt u b c (slotOf u c f.toNat) else dynRow u b c (slotOf u c f.toNat))
  generalize bothReceive b c _ (judged z x 1) u = t at taken run
  have rest := taken.rest.trans arrived.rest
  refine ⟨t, run, ?_, ?_, ?_, ?_, ?_, ?_, ?_⟩
  · exact taken.rx.trans arrived.rx
  · exact taken.seqs.trans (eq_of_judging (·.wl.seqs) (fun _ => rfl) arrived.same)
  · exact taken.got.trans (eq_of_judging (·.wl.got) (fun _ => rfl) arrived.same)
  · exact ((congrArg State.sdp rest :)).trans advance_sdp
  · exact ((congrArg State.mnt rest :)).trans advance_mnt
  · exact ((congrArg State.prg rest :)).trans advance_prg
  · exact eq_of_heard rest (taken.clk.trans (by rw [arrived.clk]))

-- An accepted dynamic frame (R168)

/-- A frame that is agreed is noted as received (R163). -/
def gotNoted (c : Chan) (fid : Nat) (s : State) : State := modWl (fun w => { w with got := (c.val * 256 + fid) :: w.got }) s

theorem deliver_dynamic {p : List Byte} (node : 2 ≤ r.node) (null : (readHdr p).null = false) (dyn : 256 ≤ r.fid) :
    deliver b c r p s = takeDynamic b c r.fid p (gotNoted c r.fid s) := by
  simp only [deliver, if_neg (Nat.not_le.mpr node), null, if_pos dyn, Bool.false_eq_true, if_false, gotNoted]

/-- A configuration response touches the requests and the nodes' bits only (R153, R160). -/
theorem configResponse_eq {y : CfgResp} : configResponse y s = modWl (fun w => { w with
    reqs := (configResponse y s).wl.reqs, nack := (configResponse y s).wl.nack }) s := by
  unfold configResponse
  split
  · split <;> rfl
  · rfl

/-- An accepted dynamic frame is counted, and a configuration response goes to its service (R153, R168). -/
def dynAccepted (c : Chan) (fid : Nat) (p : List Byte) (s : State) : State :=
  if fid = 257 ∧ (readHdr p).kind = 8 then configResponse (responseOf c (framePayload p)) (count .wls 0 10 s) else count .wls 0 10 s

theorem dynAccepted_kept {p : List Byte} : unheard (dynAccepted c fid p s) = unheard s ∧ (dynAccepted c fid p s).clk = s.clk ∧
    (dynAccepted c fid p s).wl.rx = s.wl.rx ∧ (dynAccepted c fid p s).regs = (count .wls 0 10 s).regs := by
  unfold dynAccepted
  split
  · rw [configResponse_eq]
    simp only [unheard_modWl, unheard_count, modWl_clk, count_clk, modWl_wl, count_wl, modWl_regs, and_self]
  · simp only [unheard_count, count_clk, count_wl, and_self]

/-- The row of a dynamic frame ID holds that ID. -/
theorem dynRow_fid (e : dynRow s b c n = some r) : r.fid = n := by
  unfold dynRow at e
  split at e
  · split at e
    · simpa using List.find?_some e
    · exact nomatch e
  · have named := List.find?_some e
    simp only [Bool.and_eq_true, beq_iff_eq] at named
    exact named.1

/-- A frame enters the receive FIFO, and an interrupt tells. -/
def rxEntered (y : RxFrame) (s : State) : State := irq .wls 0 wlsRxAvail (modWl (fun w => { w with rx := w.rx ++ [y] }) s)

theorem rxEntered_kept {y : RxFrame} : unheard (rxEntered y s) = unheard s ∧ (rxEntered y s).clk = s.clk ∧
    (rxEntered y s).wl.rx = s.wl.rx ++ [y] := by
  unfold rxEntered
  rw [unheard_irq, irq_clk, irq_wl]
  exact ⟨rfl, rfl, rfl⟩

theorem writes_rxEntered {y : RxFrame} : Writes [Reg.IRQ_STAT] s (rxEntered y s) := by
  refine Writes.trans ?_ writes_irq
  exact writes_of_regs rfl

/-- A frame that the filter takes and that finds room enters the receive FIFO (R168). -/
theorem takeDynamic_taken {p : List Byte} (lo : fld s .wls 0 Reg.WLS_RX_FILT 9 0 ≤ fid) (hi : fid ≤ fld s .wls 0 Reg.WLS_RX_FILT 25 16)
    (pos : 0 < fid) (room : s.wl.rx.length < 16) (wf : regsWf s.regs = true) : ∃ w : Word, takeDynamic b c fid p s =
      rxEntered ⟨c, fid, w, wordsOf (readHdr p).len (framePayload p)⟩ (dynAccepted c fid p s) := by
  obtain ⟨-, -, rx, regs⟩ := dynAccepted_kept (c := c) (fid := fid) (p := p) (s := s)
  have filter (a d : Nat) : fld (dynAccepted c fid p s) .wls 0 Reg.WLS_RX_FILT a d = fld s .wls 0 Reg.WLS_RX_FILT a d := by
    have kept : Writes [Reg.CNT + 4 * 10, Reg.CNT_OVF, Reg.IRQ_STAT] s (dynAccepted c fid p s) :=
      (writes_count (n := 10) (by decide)).trans (writes_of_regs regs)
    exact congrArg (field · a d) (kept.reg wf (by decide))
  have takes : ¬ ((fld (dynAccepted c fid p s) .wls 0 Reg.WLS_RX_FILT 9 0 = 0 ∧
        fld (dynAccepted c fid p s) .wls 0 Reg.WLS_RX_FILT 25 16 = 0) ∨
      fid < fld (dynAccepted c fid p s) .wls 0 Reg.WLS_RX_FILT 9 0 ∨ fld (dynAccepted c fid p s) .wls 0 Reg.WLS_RX_FILT 25 16 < fid) := by
    rw [filter, filter]
    omega
  have free : ¬ 16 ≤ (dynAccepted c fid p s).wl.rx.length := by rw [rx]; omega
  exact ⟨BitVec.ofNat 32 (nsOf (dynAccepted c fid p s) - (p.length + 3) * symbolNs b), (if_neg takes).trans (if_neg free)⟩

/-- R139, R168: a dynamic frame of the present minislot that both hubs accept and the filter takes. -/
theorem exec_frameReceived_dynamic (on : s.clk.on = true) (wf : regsWf s.regs = true) (bank : wlBank s = some b)
    (drives : ∀ g : Hub, s.clk.alive[g] = true) (f : BitVec 10) (runs : wlRuns s = true) (dyn : 256 ≤ f.toNat) (mini : n = s.wl.mini[c])
    (hn : 256 ≤ n) (hrow : dynRow s b c n = some r) (node : 2 ≤ r.node) (hz : received x.syms = some z)
    (check : ∀ g : Hub, checkFrame s b (some r) n g c z x.devNs = 0) (null : (readHdr z.bytes).null = false)
    (lo : fld s .wls 0 Reg.WLS_RX_FILT 9 0 ≤ n) (hi : n ≤ fld s .wls 0 Reg.WLS_RX_FILT 25 16) (room : s.wl.rx.length < 16) :
    ∃ t, exec (.frameReceived dt c f (some x) (some x)) s = .next (noteReady .wlc 1 (noteReady .wlc 0 t)) ∧
      (∃ w : Word, t.wl.rx = s.wl.rx ++ [⟨c, n, w, wordsOf (readHdr z.bytes).len (framePayload z.bytes)⟩]) ∧
      reg t .wls 0 (Reg.CNT + 40) = reg s .wls 0 (Reg.CNT + 40) + 1 ∧ bit (reg t .wls 0 Reg.IRQ_STAT) wlsRxAvail = true ∧
      t = { advance dt s with
        clk := { (advance dt s).clk with free := t.clk.free }, wl := t.wl, regs := t.regs, link := t.link, hubCnt := t.hubCnt } := by
  have arrived := arrived_minisTaken (dt := dt) (b := b) (c := c) (fid := f.toNat) (x := x) (s := s)
  have run : exec (.frameReceived dt c f (some x) (some x)) s = .next (noteReady .wlc 1 (noteReady .wlc 0
      (frameReceived dt c f.toNat (some x) (some x) s))) := runWlc_on on
  rw [frameReceived_runs bank drives runs] at run
  generalize minisTaken b c f.toNat x (sensed c (advance dt s)) = u at arrived run
  have slot : slotOf u c f.toNat = n := by
    have counter : u.wl.mini[c] = n := (eq_of_judging (·.wl.mini[c]) (fun _ => rfl) arrived.same).trans mini.symm
    rw [slotOf, if_neg (Nat.not_lt.mpr dyn), counter, if_neg (Nat.not_lt.mpr hn)]
  have row : (if n < 256 then rowAt u b c n else dynRow u b c n) = some r := by
    rw [if_neg (Nat.not_lt.mpr hn), arrived.dynRow, hrow]
  have rfid : r.fid = n := dynRow_fid hrow
  rw [receive_alike (arrived.drives drives) hz slot row fun g => arrived.checkFrame.trans (check g), if_pos rfl, Option.elim_some,
    deliver_dynamic node null (rfid ▸ hn), rfid] at run
  have taken := receives_bothReceive (b := b) (c := c) (j := judged z x 0) (s := u) (row := some r)
  generalize bothReceive b c (some r) (judged z x 0) u = v at taken run
  have writes : Writes [Reg.CNT_OVF, Reg.IRQ_STAT] s v := arrived.writes.trans taken.toWrites
  have wf' : regsWf (gotNoted c n v).regs = true := writes.wf wf
  have rx : v.wl.rx = s.wl.rx := taken.rx.trans arrived.rx
  have filter : reg (gotNoted c n v) .wls 0 Reg.WLS_RX_FILT = reg s .wls 0 Reg.WLS_RX_FILT := writes.reg wf (by decide)
  obtain ⟨w, e⟩ := takeDynamic_taken (b := b) (c := c) (fid := n) (p := z.bytes) (s := gotNoted c n v)
    (by rw [fld, filter]; exact lo) (by rw [fld, filter]; exact hi) (by omega) (by rw [gotNoted, modWl_wl, rx]; exact room) wf'
  obtain ⟨rest, clk, rx', regs⟩ := dynAccepted_kept (c := c) (fid := n) (p := z.bytes) (s := gotNoted c n v)
  rw [e] at run
  generalize dynAccepted c n z.bytes (gotNoted c n v) = y at run rest clk rx' regs
  have wfy : regsWf y.regs = true := regs ▸ regsWf_count wf'
  obtain ⟨restE, clkE, rxE⟩ := rxEntered_kept (s := y) (y := ⟨c, n, w, wordsOf (readHdr z.bytes).len (framePayload z.bytes)⟩)
  refine ⟨_, run, ⟨w, ?_⟩, ?_, irq_bit (s := modWl _ y) wfy (by decide), eq_of_heard ?_ ?_⟩
  · rw [rxE, rx', gotNoted, modWl_wl, rx]
  · calc reg (rxEntered _ y) .wls 0 (Reg.CNT + 40)
      _ = reg y .wls 0 (Reg.CNT + 40) := writes_rxEntered.reg wfy (by decide)
      _ = reg (count .wls 0 10 (gotNoted c n v)) .wls 0 (Reg.CNT + 4 * 10) := by rw [reg, regs, ← reg]
      _ = reg v .wls 0 (Reg.CNT + 40) + 1 := count_reg (n := 10) wf' (by decide)
      _ = reg s .wls 0 (Reg.CNT + 40) + 1 := by rw [writes.reg wf (by decide)]
  · rw [restE, rest, gotNoted, unheard_modWl, taken.rest, arrived.rest]
  · rw [clkE, clk, gotNoted, modWl_clk]
    exact taken.clk.trans (by rw [arrived.clk])

/-- Settles O44, clause by clause: while the module listens by whether it can use the frame, while the schedule runs by what both hubs
make of it. -/
theorem wearlineReceiving : Obligations.WearlineReceiving := by
  intro s b dt c f x on wf bank alive0 alive1
  have drives : ∀ g : Hub, s.clk.alive[g] = true := Fin.forall_fin_two.mpr ⟨alive0, alive1⟩
  refine ⟨fun listens unusable => exec_frameReceived_unusable on bank drives listens f unusable,
    fun z h listens hz whole e sync null kind rate slot => ?_,
    fun z r n runs dyn mini hn hrow node hz check null lo hi room =>
      exec_frameReceived_dynamic on wf bank drives f runs dyn mini hn hrow node hz check null lo hi room,
    fun z runs hz bad => exec_frameReceived_violation on bank drives f runs hz bad⟩
  have use := usable_of_sync whole e sync null kind rate slot
  subst e
  exact exec_frameReceived_usable on bank drives listens f hz use

end Sys2Proof.Machine

/-! SUPPORT. The host buffers and the receive FIFO through their registers (R168). -/

namespace Sys2Proof.Machine

variable {s t : State} {i : Sixteen} {q : Port} {v w w' : Word}

-- Fields of `HB_CFG`

/-- A field reads the same in words that agree in its bits. -/
theorem field_congr {hi lo : Nat} (h : lo ≤ hi) (same : ∀ j, lo ≤ j → j ≤ hi → w.getLsbD j = w'.getLsbD j) :
    field w hi lo = field w' hi lo := by
  refine Nat.eq_of_testBit_eq fun j => ?_
  rw [testBit_field h, testBit_field h]
  by_cases hj : j ≤ hi - lo
  · rw [same (lo + j) (by omega) (by omega)]
  · rw [decide_eq_false hj, Bool.false_and, Bool.false_and]

/-- The implemented bits of `HB_CFG` beside `ARM` (R168): frame ID, channel, one-shot, length. -/
theorem hbMask_getLsbD {j : Nat} (h : j ≤ 11 ∨ 16 ≤ j ∧ j ≤ 23) : (0x80FF0FFF : Word).getLsbD j = true := by
  have every : ∀ j < 24, j ≤ 11 ∨ 16 ≤ j → (0x80FF0FFF : Word).getLsbD j = true := by decide
  exact every j (by omega) (by omega)

/-- A buffer after a write of `HB_CFG` that is taken. -/
def hbConfigured (v : Word) (x : HostBuffer) : HostBuffer :=
  { x with cfg := setBit (v &&& 0x80FF0FFF) 31 (bit v 31 || x.fresh), fresh := bit v 31 || x.fresh }

theorem hbConfigured_getLsbD {x : HostBuffer} {j : Nat} (h : j ≤ 11 ∨ 16 ≤ j ∧ j ≤ 23) :
    (hbConfigured v x).cfg.getLsbD j = v.getLsbD j := by
  rw [hbConfigured, getLsbD_setBit_other (by omega), BitVec.getLsbD_and, hbMask_getLsbD h, Bool.and_true]

theorem bufFid_hbConfigured {x : HostBuffer} : bufFid (hbConfigured v x) = field v 9 0 :=
  field_congr (by decide) fun _ _ _ => hbConfigured_getLsbD (by omega)

theorem bufLen_hbConfigured {x : HostBuffer} : bufLen (hbConfigured v x) = field v 23 16 :=
  field_congr (by decide) fun _ _ _ => hbConfigured_getLsbD (by omega)

theorem bufOneShot_hbConfigured {x : HostBuffer} : bufOneShot (hbConfigured v x) = bit v 11 := hbConfigured_getLsbD (by decide)

-- The registers, through the buffer that `HB_SEL` names

section
variable (sel : fld s .wls 0 Reg.WLS_HB_SEL 3 0 = i.val)
include sel

/-- The buffer that `HB_SEL` names. -/
theorem hbSelected : (⟨fld s .wls 0 Reg.WLS_HB_SEL 3 0 % 16, Nat.mod_lt _ (by decide)⟩ : Sixteen) = i :=
  Fin.ext ((congrArg (· % 16) sel).trans (Nat.mod_eq_of_lt i.isLt))

theorem writeHbCfg_taken (fid : 256 ≤ field v 9 0) (len : field v 23 16 ≠ 255) :
    writeHbCfg v s = chg .wls 0 (modBuf i (hbConfigured v) s) := by
  have good : ¬ (field v 9 0 < 256 ∨ field v 23 16 = 255) := by omega
  rw [writeHbCfg, if_neg good, hbSelected sel]
  rfl

theorem writeHbData_eq : writeHbData v s =
    chg .wls 0 (modBuf i (fun x => { x with data := Sparse.put 0 (fld s .wls 0 Reg.WLS_HB_ADDR 7 0) v x.data }) s) := by
  rw [writeHbData, hbSelected sel]

theorem readHbData_eq : readHbData s = Sparse.get 0 (fld s .wls 0 Reg.WLS_HB_ADDR 7 0) (s.wl.buf[i]).data :=
  congrArg (fun j : Sixteen => Sparse.get 0 (fld s .wls 0 Reg.WLS_HB_ADDR 7 0) (s.wl.buf[j]).data) (hbSelected sel)

end

theorem writeHbCfg_refused (bad : field v 9 0 < 256 ∨ field v 23 16 = 255) : writeHbCfg v s = recordErr .wls 0 0x0004 s := if_pos bad

/-- The payload word index advances, from 253 to 0 (R168). -/
theorem advanceHb_addr (wf : regsWf s.regs = true) (inside : fld s .wls 0 Reg.WLS_HB_ADDR 7 0 ≤ 253) :
    fld (advanceHb s) .wls 0 Reg.WLS_HB_ADDR 7 0 = (fld s .wls 0 Reg.WLS_HB_ADDR 7 0 + 1) % 254 := by
  have next : ∀ k ≤ 253, field (BitVec.ofNat 32 (if 253 ≤ k then 0 else k + 1)) 7 0 = (k + 1) % 254 := by
    intro k hk
    rw [field, BitVec.toNat_ofNat]
    split <;> omega
  rw [fld, advanceHb, reg_setReg_same wf]
  exact next _ inside

theorem rxData_oldest {x : RxFrame} {r : List RxFrame} (e : s.wl.rx = x :: r) : rxData s = x.data.getD s.wl.rxWord 0 := by
  rw [rxData, e]

theorem popRx_oldest {x : RxFrame} {r : List RxFrame} (e : s.wl.rx = x :: r) :
    popRx s = { s with wl := { s.wl with rx := r, rxWord := 0 } } := by
  rw [popRx, modWl, e]
  rfl

-- The commands

/-- R168: `HB_CFG` configures the buffer selected, and leaves its words. -/
theorem exec_hbCfg_taken (on : s.clk.on = true) (sel : fld s .wls 0 Reg.WLS_HB_SEL 3 0 = i.val) (fid : 256 ≤ field v 9 0)
    (len : field v 23 16 ≠ 255) : ∃ t, exec (.hbCfg v) s = .next t ∧ bufFid t.wl.buf[i] = field v 9 0 ∧
      bufLen t.wl.buf[i] = field v 23 16 ∧ bufOneShot t.wl.buf[i] = bit v 11 ∧
      (t.wl.buf[i]).fresh = (bit v 31 || (s.wl.buf[i]).fresh) ∧ (t.wl.buf[i]).data = (s.wl.buf[i]).data ∧
      (∀ j : Sixteen, j ≠ i → t.wl.buf[j] = s.wl.buf[j]) ∧ t = { s with wl := t.wl, regs := t.regs } := by
  refine ⟨_, run_on on, ?_⟩
  rw [writeHbCfg_taken sel fid len]
  have here : (chg .wls 0 (modBuf i (hbConfigured v) s)).wl.buf[i] = hbConfigured v s.wl.buf[i] := vmod_same
  rw [here]
  exact ⟨bufFid_hbConfigured, bufLen_hbConfigured, bufOneShot_hbConfigured, rfl, rfl, fun _ => vmod_other, rfl⟩

/-- R168: a frame ID below 256 or a length of 255 words is refused. -/
theorem exec_hbCfg_refused (on : s.clk.on = true) (wf : regsWf s.regs = true) (bad : field v 9 0 < 256 ∨ field v 23 16 = 255) :
    ∃ t, exec (.hbCfg v) s = .next t ∧ t.wl = s.wl ∧ field (reg t .wls 0 Reg.ERR) 15 0 = 4 ∧
      t = { s with regs := t.regs, link := t.link } := by
  refine ⟨_, run_on on, ?_⟩
  rw [writeHbCfg_refused bad]
  exact ⟨recordErr_wl, recordErr_code wf (by decide), eq_of_quiet quiet_recordErr⟩

/-- R168: a write of `HB_DATA` goes to the word at `HB_ADDR`. -/
theorem exec_hbDataWrite (on : s.clk.on = true) (wf : regsWf s.regs = true) (sel : fld s .wls 0 Reg.WLS_HB_SEL 3 0 = i.val)
    (canonical : Sparse.wf (fun _ => (0 : Word)) (s.wl.buf[i]).data = true) :
    ∃ t, exec (.hbDataWrite v) s = .next t ∧ Sparse.get 0 (fld s .wls 0 Reg.WLS_HB_ADDR 7 0) (t.wl.buf[i]).data = v ∧
      (∀ k, k ≠ fld s .wls 0 Reg.WLS_HB_ADDR 7 0 → Sparse.get 0 k (t.wl.buf[i]).data = Sparse.get 0 k (s.wl.buf[i]).data) ∧
      RegsBut [regKey .wls 0 Reg.CHG] s t ∧ t = { s with wl := t.wl, regs := t.regs } := by
  refine ⟨_, run_on on, ?_⟩
  rw [writeHbData_eq sel]
  generalize fld s .wls 0 Reg.WLS_HB_ADDR 7 0 = a
  have here : ((chg .wls 0 (modBuf i (fun x => { x with data := Sparse.put 0 a v x.data }) s)).wl.buf[i]).data =
      Sparse.put 0 a v (s.wl.buf[i]).data := congrArg HostBuffer.data vmod_same
  rw [here]
  refine ⟨Sparse.get_put_same canonical, fun k hk => Sparse.get_put_other (d := fun _ => 0) hk canonical, fun k hk => ?_, rfl⟩
  exact chg_regAt_other (s := modBuf i _ s) wf fun e => hk (List.mem_singleton.mpr e)

/-- R168: a read of `HB_DATA` returns the word at `HB_ADDR`, which advances. -/
theorem exec_hbDataRead (on : s.clk.on = true) (wf : regsWf s.regs = true) (alive : s.clk.alive[q] = true)
    (sel : fld s .wls 0 Reg.WLS_HB_SEL 3 0 = i.val) (inside : fld s .wls 0 Reg.WLS_HB_ADDR 7 0 ≤ 253) :
    ∃ t, exec (.hbDataRead q) s = .next t ∧
      t.link.readData[q] = Sparse.get 0 (fld s .wls 0 Reg.WLS_HB_ADDR 7 0) (s.wl.buf[i]).data ∧
      fld t .wls 0 Reg.WLS_HB_ADDR 7 0 = (fld s .wls 0 Reg.WLS_HB_ADDR 7 0 + 1) % 254 ∧ t.wl = s.wl ∧
      t = { s with link := t.link, regs := t.regs } := by
  refine ⟨_, run_on on, ?_⟩
  rw [atPort_alive alive, readHbData_eq sel]
  exact ⟨vset_same, advanceHb_addr (s := returnRead q _ s) wf inside, rfl, rfl⟩

/-- R168: a read of `RX_DATA` returns the next word of the oldest frame received. -/
theorem exec_rxDataRead (on : s.clk.on = true) (alive : s.clk.alive[q] = true) {x : RxFrame} {r : List RxFrame}
    (e : s.wl.rx = x :: r) : ∃ t, exec (.rxDataRead q) s = .next t ∧ t.link.readData[q] = x.data.getD s.wl.rxWord 0 ∧
      t.wl.rxWord = s.wl.rxWord + 1 ∧ t.wl.rx = s.wl.rx ∧ t = { s with link := t.link, wl := t.wl } := by
  refine ⟨_, run_on on, ?_⟩
  rw [atPort_alive alive, rxData_oldest e]
  exact ⟨vset_same, rfl, rfl, rfl⟩

/-- Settles O47, command by command. -/
theorem hostBuffers : Obligations.HostBuffers := by
  intro s i q on wf alive sel
  exact ⟨fun _ => exec_hbCfg_taken on sel, fun _ => exec_hbCfg_refused on wf, fun _ canonical _ => exec_hbDataWrite on wf sel canonical,
    exec_hbDataRead on wf alive sel,
    fun _ _ e => ⟨exec_rxDataRead on alive e, (run_on on).trans (congrArg Host.Outcome.next (popRx_oldest e))⟩⟩

end Sys2Proof.Machine

/-! SUPPORT. The Wearline schedule: epochs, consolidation, start-up and the configuration service (R153, R160, R161, R164, R166, R167,
R185, R187). -/

namespace Sys2Proof.Machine

variable {s t u : State} {b : WlBank} {c keep lost : Chan}

-- Commands that change Wearline and raise an interrupt

/-- A change of Wearline with what a page then records in registers and sends to the host. -/
theorem eq_of_quiet_modWl {f : Wearline → Wearline} (h : quiet t = quiet (modWl f s)) :
    t = { s with wl := t.wl, regs := t.regs, link := t.link } := by
  cases t; cases s; cases h; rfl

theorem wl_of_quiet_modWl {f : Wearline → Wearline} (h : quiet t = quiet (modWl f s)) : t.wl = f s.wl := (congrArg State.wl h :)

/-- A refusal of a Wearline command: its code, and what stays. -/
theorem recordErr_wls {k : Nat} (wf : regsWf s.regs = true) (hk : k < 2 ^ 16) :
    (recordErr .wls 0 k s).wl = s.wl ∧ field (reg (recordErr .wls 0 k s) .wls 0 Reg.ERR) 15 0 = k ∧
      RegsBut (errKeys .wls 0) s (recordErr .wls 0 k s) ∧
      recordErr .wls 0 k s = { s with regs := (recordErr .wls 0 k s).regs, link := (recordErr .wls 0 k s).link } :=
  ⟨recordErr_wl, recordErr_code wf hk, fun _ => recordErr_regAt_other wf, eq_of_quiet quiet_recordErr⟩

/-- An interrupt that is counted with it: its flag stands, and the counter counts on. -/
theorem count_irq {p : Pg} {i n k : Nat} (wf : regsWf s.regs = true) (hk : k < 32) (hn : n < 16) :
    bit (reg (count p i n (irq p i k s)) p i Reg.IRQ_STAT) k = true ∧
      reg (count p i n (irq p i k s)) p i (Reg.CNT + 4 * n) = reg s p i (Reg.CNT + 4 * n) + 1 := by
  refine ⟨count_keepsFlag (regsWf_irq wf) (irq_bit wf hk), ?_⟩
  rw [count_reg (regsWf_irq wf) hn, writes_irq.reg wf ⟨by simp only [Reg.CNT]; omega, ?_⟩]
  simp only [List.mem_singleton, Reg.CNT, Reg.IRQ_STAT]
  omega

-- Epochs (R160, R161)

theorem wlsGo_unprepared (h : s.wl.nack ≠ 0 ∨ wlNext s = none) : wlsGo s = recordErr .wls 0 0x0100 s :=
  if_pos (h.imp_right Option.isNone_iff_eq_none.mpr)

/-- An epoch is announced or due, or a consolidation is announced or in force. -/
def announcing (s : State) : Prop := 0 < s.wl.epCd ∨ s.wl.epDue = true ∨ s.wl.consAct = true ∨ consIdle s = false

theorem prepared (nack : s.wl.nack = 0) (next : (wlNext s).isSome = true) : ¬ (s.wl.nack ≠ 0 ∨ (wlNext s).isNone = true) := by
  rw [Option.isNone_eq_false_iff.mpr next]
  simpa using nack

theorem wlsGo_busy (nack : s.wl.nack = 0) (next : (wlNext s).isSome = true) (busy : announcing s) :
    wlsGo s = recordErr .wls 0 0x0101 s :=
  (if_neg (prepared nack next)).trans (if_pos busy)

theorem wlsGo_taken (nack : s.wl.nack = 0) (next : (wlNext s).isSome = true) (free : ¬ announcing s) :
    wlsGo s = modWl (fun w => { w with goWait := true }) s :=
  (if_neg (prepared nack next)).trans (if_neg free)

theorem not_announcing (cd : s.wl.epCd = 0) (due : s.wl.epDue = false) (act : s.wl.consAct = false) (idle : consIdle s = true) :
    ¬ announcing s := by
  simp [announcing, cd, due, act, idle]

/-- The banks change places. -/
def swapped (w : Wearline) : Wearline := { w with epDue := false, act := other w.act }

theorem epochBankSwitch_due (due : s.wl.epDue = true) :
    epochBankSwitch s = bankActive 2 (count .wls 0 8 (irq .wls 0 wlsEpoch (modWl swapped s))) := by
  rw [epochBankSwitch, if_pos due, epochSwitch, if_pos due]
  rfl

/-- A bank that becomes active touches the images' state only. -/
theorem bankActive_eq {k : Nat} : bankActive k s = { s with img := (bankActive k s).img } := by
  unfold bankActive
  split <;> rfl

/-- R161: an epoch that is due swaps the banks, with `EPOCH` and `CNT8`. -/
theorem exec_epochSwitch (on : s.clk.on = true) (wf : regsWf s.regs = true) (due : s.wl.epDue = true) :
    ∃ t, exec .epochSwitch s = .next (refreshReady t) ∧ t.wl.act = other s.wl.act ∧ t.wl.epDue = false ∧
      t.wl.banks = s.wl.banks ∧ bit (reg t .wls 0 Reg.IRQ_STAT) wlsEpoch = true ∧
      reg t .wls 0 (Reg.CNT + 32) = reg s .wls 0 (Reg.CNT + 32) + 1 ∧
      t = { s with wl := t.wl, img := t.img, regs := t.regs, link := t.link } := by
  refine ⟨_, runReady_on on, ?_⟩
  obtain ⟨flag, counted⟩ := count_irq (s := modWl swapped s) (p := .wls) (i := 0) (n := 8) (k := wlsEpoch) wf (by decide) (by decide)
  have same : quiet (count .wls 0 8 (irq .wls 0 wlsEpoch (modWl swapped s))) = quiet (modWl swapped s) :=
    quiet_count.trans quiet_irq
  rw [epochBankSwitch_due due, bankActive_eq]
  generalize count .wls 0 8 (irq .wls 0 wlsEpoch (modWl swapped s)) = v at flag counted same
  have wl := wl_of_quiet_modWl same
  refine ⟨congrArg (·.act) wl, congrArg (·.epDue) wl, congrArg (·.banks) wl, flag, counted, ?_⟩
  exact congrArg (fun y => { y with img := (bankActive 2 v).img }) (eq_of_quiet_modWl same)

-- Consolidation (R164, R166, R167)

/-- R166: `CONS` announces a consolidation in two-channel operation. -/
theorem consEnter_taken (two : s.wl.op = 1) (idle : consIdle s = true) : consEnter keep s = decideCons keep s := if_pos ⟨two, idle⟩

theorem consEnter_ignored (h : s.wl.op ≠ 1 ∨ consIdle s = false) : consEnter keep s = s := by
  refine if_neg fun ⟨two, idle⟩ => ?_
  simp [two, idle] at h

/-- What reads neither cell time nor registers nor the host link reads the same in states that agree in the rest. -/
theorem congr_of_timeless {α : Type} (g : State → α) (hg : ∀ v, g (timeless v) = g v) (h : timeless t = timeless s) : g t = g s :=
  (hg t).symm.trans ((congrArg g h).trans (hg s))

/-- Cell time comes to the end of the static segment, and no more (R163). -/
theorem timeless_staticEnd : timeless (staticEnd s) = timeless s := by
  unfold staticEnd
  split
  · split <;> simp [timeless]
  · rfl

theorem lostChannel_staticEnd : lostChannel (staticEnd s) c = lostChannel s c :=
  congr_of_timeless (lostChannel · c) (fun _ => rfl) timeless_staticEnd

theorem staticEnd_wl : (staticEnd s).wl = s.wl := congr_of_timeless State.wl (fun _ => rfl) timeless_staticEnd

/-- With one channel lost, the other is kept (R164). -/
theorem kept_of_lost (gone : lostChannel s lost = true) (left : lostChannel s (other lost) = false) :
    lostChannel s 0 ≠ lostChannel s 1 ∧ (if lostChannel s 0 then 1 else 0 : Chan) = other lost := by
  match lost, gone, left with
  | 0, gone, left => exact ⟨fun e => Bool.false_ne_true (left.symm.trans (e.symm.trans gone)), if_pos gone⟩
  | 1, gone, left => exact ⟨fun e => Bool.false_ne_true (left.symm.trans (e.trans gone)), if_neg (Bool.eq_false_iff.mp left)⟩

/-- R164: the lead decides for the channel that is left. -/
theorem consolidationDecision_lost (two : s.wl.op = 1) (idle : consIdle s = true) (lead : (laneOfRole s .lead).isSome = true)
    (free : s.tds.choked = false) (gone : lostChannel s lost = true) (left : lostChannel s (other lost) = false) :
    consolidationDecision s =
      releaseShared 4 (releaseKey 0 0) (BitVec.ofNat 64 (2 + (other lost).val)) (decideCons (other lost) (staticEnd s)) := by
  have after {α : Type} (g : State → α) (hg : ∀ v, g (timeless v) = g v) : g (staticEnd s) = g s :=
    congr_of_timeless g hg timeless_staticEnd
  obtain ⟨differ, keep⟩ := kept_of_lost (lostChannel_staticEnd.trans gone) (lostChannel_staticEnd.trans left)
  refine (if_pos ⟨(after (·.wl.op) fun _ => rfl).trans two, (after consIdle fun _ => rfl).trans idle,
    (after (fun v => (laneOfRole v .lead).isSome) fun _ => rfl).trans lead, (after (·.tds.choked) fun _ => rfl).trans free,
    differ⟩).trans ?_
  rw [keep]

theorem releaseShared_wl {flow key : Nat} {v : BitVec 64} : (releaseShared flow key v s).wl = s.wl := by
  rw [releaseShared, count_wl]
  refine forEach_preserves (g := State.wl) (fun _ _ => ?_) _ _
  rfl

/-- The consolidated schedule comes into force. -/
def consolidated (w : Wearline) : Wearline := { w with consDue := false, consAct := true, op := if w.op = 1 then 2 else w.op }

theorem consolidation_due (due : s.wl.consDue = true) :
    consolidation s = count .wls 0 7 (irq .wls 0 wlsCons (modWl consolidated s)) := if_pos due

/-- R164: the consolidated schedule comes into force, with `CONS`. -/
theorem exec_consolidation (on : s.clk.on = true) (wf : regsWf s.regs = true) (due : s.wl.consDue = true) :
    ∃ t, exec .consolidation s = .next (refreshReady t) ∧ t.wl.consAct = true ∧ t.wl.consDue = false ∧
      (s.wl.op = 1 → t.wl.op = 2) ∧ bit (reg t .wls 0 Reg.IRQ_STAT) wlsCons = true ∧
      t = { s with wl := t.wl, regs := t.regs, link := t.link } := by
  have same : quiet (consolidation s) = quiet (modWl consolidated s) := by
    rw [consolidation_due due, quiet_count, quiet_irq]
  have wl := wl_of_quiet_modWl same
  refine ⟨consolidation s, runReady_on on, congrArg (·.consAct) wl, congrArg (·.consDue) wl,
    fun two => (congrArg (·.op) wl).trans (if_pos two), ?_, eq_of_quiet_modWl same⟩
  rw [consolidation_due due]
  exact (count_irq (s := modWl consolidated s) wf (by decide) (by decide)).1

/-- R166: the exit from a consolidation waits for its announcement once the lost channel is clean at both hubs. -/
theorem consExit_taken (cons : s.wl.op = 2) (ann : s.wl.exitAnn = false) (due : s.wl.exitDue = false)
    (clean : ∀ h : Hub, 64 ≤ (s.wl.clean[h])[other s.wl.kept]) : consExit s = modWl (fun w => { w with exitWait := true }) s := by
  have both : (bothOf.all fun h => decide (64 ≤ (s.wl.clean[h])[other s.wl.kept])) = true :=
    List.all_eq_true.mpr fun h _ => decide_eq_true (clean h)
  rw [consExit, if_pos ⟨cons, both⟩, ann, due]
  rfl

theorem consExit_refused {h : Hub} (bad : (s.wl.clean[h])[other s.wl.kept] < 64 ∨ s.wl.op ≠ 2) :
    consExit s = recordErr .wls 0 0x0102 s := by
  refine if_neg fun ⟨cons, both⟩ => ?_
  have every : ∀ g : Hub, g ∈ bothOf := by decide
  have clean := of_decide_eq_true (List.all_eq_true.mp both h (every h))
  omega

/-- Both channels carry the schedule again. -/
def returned (w : Wearline) : Wearline :=
  { w with exitDue := false, exitWait := false, consAct := false, txFault := 0, op := if w.op = 2 then 1 else w.op }

theorem consolidationExit_due (due : s.wl.exitDue = true) :
    consolidationExit s = irq .wls 0 wlsConsEnd (modWl returned s) := if_pos due

/-- R166: an exit that is due returns to two channels, with `CONSEND`. -/
theorem exec_consolidationExit (on : s.clk.on = true) (wf : regsWf s.regs = true) (due : s.wl.exitDue = true) :
    ∃ t, exec .consolidationExit s = .next (refreshReady t) ∧ t.wl.consAct = false ∧ t.wl.exitDue = false ∧
      (s.wl.op = 2 → t.wl.op = 1) ∧ bit (reg t .wls 0 Reg.IRQ_STAT) wlsConsEnd = true ∧
      t = { s with wl := t.wl, regs := t.regs, link := t.link } := by
  have same : quiet (consolidationExit s) = quiet (modWl returned s) := by
    rw [consolidationExit_due due, quiet_irq]
  have wl := wl_of_quiet_modWl same
  refine ⟨consolidationExit s, runReady_on on, congrArg (·.consAct) wl, congrArg (·.exitDue) wl,
    fun cons => (congrArg (·.op) wl).trans (if_pos cons), ?_, eq_of_quiet_modWl same⟩
  rw [consolidationExit_due due]
  exact irq_bit (s := modWl returned s) wf (by decide)

theorem bothLost_two (two : s.wl.op = 1) (l0 : lostChannel s 0 = true) (l1 : lostChannel s 1 = true) :
    bothLost s = irq .wls 0 wlsBothLost (modWl (fun w => { w with op := 3, lost := true }) (staticEnd s)) := by
  refine if_pos (Or.inl ⟨?_, lostChannel_staticEnd.trans l0, lostChannel_staticEnd.trans l1⟩)
  rw [staticEnd_wl, two]

theorem regsWf_staticEnd (wf : regsWf s.regs = true) : regsWf (staticEnd s).regs = true := by
  unfold staticEnd
  split
  · split
    · exact regsWf_occupancy (s := { s with clk := _ }) wf
    · exact wf
  · exact wf

theorem untimed_staticEnd : untimed (staticEnd s) = untimed s := congr_of_timeless untimed (fun _ => rfl) timeless_staticEnd

/-- R167: with both channels lost `OP` is 3, with `BOTHLOST`. -/
theorem exec_bothLost (on : s.clk.on = true) (wf : regsWf s.regs = true) (two : s.wl.op = 1) (l0 : lostChannel s 0 = true)
    (l1 : lostChannel s 1 = true) : ∃ t, exec .bothLost s = .next (refreshReady t) ∧ t.wl.op = 3 ∧ t.wl.lost = true ∧
      bit (reg t .wls 0 Reg.IRQ_STAT) wlsBothLost = true ∧
      t = { s with clk := { s.clk with now := t.clk.now }, wl := t.wl, regs := t.regs, link := t.link, lanePriv := t.lanePriv } := by
  refine ⟨bothLost s, runReady_on on, ?_⟩
  rw [bothLost_two two l0 l1]
  exact ⟨by rw [irq_wl, modWl_wl], by rw [irq_wl, modWl_wl],
    irq_bit (s := modWl _ (staticEnd s)) (regsWf_staticEnd wf) (by decide), eq_of_untimed (untimed_irq.trans untimed_staticEnd)⟩

-- Start-up (R185, R186, R187)

/-- A hub's collision-avoidance symbol on a channel. -/
def casBurst (h : Hub) (c : Chan) (s : State) : State := putBurst h c 0 s.clk.now casSyms 0 s

theorem onAir_casBurst {h : Hub} : OnAir s (casBurst h c s) := ⟨rfl, rfl, fun _ hx => List.mem_cons_of_mem _ hx⟩

theorem onAir_casBursts {h : Hub} (l : List Chan) (s : State) : OnAir s (forEach l (casBurst h) s) := by
  induction l generalizing s with
  | nil => exact .refl
  | cons c l ih => exact onAir_casBurst.trans (ih (casBurst h c s))

theorem casBursts_wire {h : Hub} {l : List Chan} (s : State) (hc : c ∈ l) :
    ⟨h, c, 0, s.clk.now, casSyms, 0⟩ ∈ (forEach l (casBurst h) s).wl.wire := by
  induction l generalizing s with
  | nil => exact nomatch hc
  | cons d l ih =>
    by_cases e : c = d
    · subst e
      exact (onAir_casBursts l (casBurst h c s)).wire _ List.mem_cons_self
    · exact ih (casBurst h d s) ((List.mem_cons.mp hc).resolve_left e)

/-- The channels on which the reference hub can send the collision-avoidance symbol. -/
def casChannels (s : State) : List Chan := bothOf.filter fun c => canSend s s.clk.refHub c none

/-- The listen timer has expired, and the bursts of the bus cycle before it are off the wire (R185). -/
def timerExpired (s : State) : State := modWl (fun w => { w with wire := [] }) (advanceTo s.wl.listenAt s)

/-- The reference hub's collision-avoidance symbol is on the wire (R186). -/
def casSent (s : State) : State := forEach (casChannels s) (casBurst s.clk.refHub) s

/-- The channels on which the loop-back of the symbol differs from it (R115). -/
def casWrong (loopBad : BitVec 4) (s : State) : List Chan := (casChannels s).filter fun c => loopBad.getLsbD (wlBit s.clk.refHub c)

/-- Cell time at the end of a symbol that is sent now. -/
def casEnd (b : WlBank) (s : State) : Nat := s.clk.now + 12 * symbolNs b * 2 ^ 32

/-- Cycle 0 of the start-up follows 10 µs after the end of a symbol that lasts to `n` (R186). -/
def startPlaced (n : Nat) (s : State) : State :=
  modWl (fun w => { w with phase := .start, upCycles := 0 }) { s with
    clk := { s.clk with running := true, started := false, tag := 0, tag0 := 0, ts := n + 10000 * 2 ^ 32 } }

theorem startPlaced_clk {n : Nat} : (startPlaced n s).clk =
    { s.clk with running := true, started := false, tag := 0, tag0 := 0, ts := n + 10000 * 2 ^ 32 } := rfl

theorem onAir_casSent : OnAir s (casSent s) := onAir_casBursts _ _

theorem casSent_wire (hc : canSend s s.clk.refHub c none = true) :
    ⟨s.clk.refHub, c, 0, (casSent s).clk.now, casSyms, 0⟩ ∈ (casSent s).wl.wire := by
  have every : ∀ d : Chan, d ∈ bothOf := by decide
  rw [onAir_casSent.now]
  exact casBursts_wire s (List.mem_filter.mpr ⟨every c, hc⟩)

theorem sched_timerExpired : sched (timerExpired s) = sched s := (rfl : _ = sched (advanceTo s.wl.listenAt s)).trans sched_advanceTo

theorem timerExpired_now : (timerExpired s).clk.now = max s.clk.now s.wl.listenAt := by
  rw [timerExpired, modWl_clk, advanceTo_clk]

theorem untimed_started : untimed (casSent (timerExpired s)) = untimed s :=
  (forEach_preserves (g := untimed) (f := casBurst _) (fun _ _ => rfl) _ _).trans untimed_advanceTo

theorem listenExpiry_listens {x : BitVec 4} {foreign : Bool} (bank : wlBank s = some b) (listens : s.wl.phase = .listen) :
    listenExpiry x foreign s =
      if (casChannels (timerExpired s)).isEmpty ∨ (casWrong x (timerExpired s)).isEmpty = false ∨ foreign then
        listenFrom (casEnd b (timerExpired s))
          (forEach (casWrong x (timerExpired s)) (loopError (timerExpired s).clk.refHub) (casSent (timerExpired s)))
      else startPlaced (casEnd b (timerExpired s))
          (forEach (casWrong x (timerExpired s)) (loopError (timerExpired s).clk.refHub) (casSent (timerExpired s))) := by
  rw [listenExpiry, bank]
  exact if_neg (not_not.mpr listens)

/-- The listen timer expires while every loop-back agrees: the module starts the bus, or listens anew where another node has sent
meanwhile (R185, R186). -/
theorem listenExpiry_agrees {foreign : Bool} (bank : wlBank s = some b) (listens : s.wl.phase = .listen)
    (sends : ∃ c : Chan, canSend s s.clk.refHub c none = true) : listenExpiry 0 foreign s =
      if foreign then listenFrom (casEnd b (timerExpired s)) (casSent (timerExpired s))
      else startPlaced (casEnd b (timerExpired s)) (casSent (timerExpired s)) := by
  have sending : (casChannels (timerExpired s)).isEmpty = false := by
    obtain ⟨c, hc⟩ := sends
    have every : ∀ d : Chan, d ∈ bothOf := by decide
    rw [← refHub_of_sched sched_timerExpired, ← canSend_of_sched sched_timerExpired] at hc
    exact List.isEmpty_eq_false_iff_exists_mem.mpr ⟨c, List.mem_filter.mpr ⟨every c, hc⟩⟩
  have agreeing : casWrong 0 (timerExpired s) = [] := by simp only [casWrong, zero_getLsbD, List.filter_false]
  rw [listenExpiry_listens bank listens, sending, agreeing]
  simp only [List.isEmpty_nil, Bool.false_eq_true, Bool.true_eq_false, false_or]
  rfl

theorem listenFrom_phase {n : Nat} : (listenFrom n s).wl.phase = .listen := rfl
theorem listenFrom_clk {n : Nat} : (listenFrom n s).clk = { s.clk with running := false, started := false, tag := 0, tag0 := 0 } := rfl
theorem listenFrom_listenAt {n : Nat} : (listenFrom n s).wl.listenAt = n + 4 * busNs s * 2 ^ 32 := by
  have bus : busNs (loadEq 1 none (loadEq 0 none s)) = busNs s :=
    eq_of_sched busNs (fun _ => rfl) (sched_of_offAir (offAir_loadEq.trans offAir_loadEq))
  rw [listenFrom, modWl_wl, bus]

/-- The start of the bus touches the clock and Wearline. -/
theorem startPlaced_frame {n : Nat} (h : untimed u = untimed s) : startPlaced n u = { s with
    clk := (startPlaced n u).clk, wl := (startPlaced n u).wl, regs := (startPlaced n u).regs, link := (startPlaced n u).link,
    lanePriv := (startPlaced n u).lanePriv } := by
  obtain ⟨k, _⟩ := u; obtain ⟨d, _⟩ := s; cases k; cases d; cases h; rfl

/-- R185, R186: the module starts the bus with the collision-avoidance symbol on every channel on which it can send. -/
theorem exec_listenTimerExpiry_starts (on : s.clk.on = true) (bank : wlBank s = some b) (listens : s.wl.phase = .listen)
    (sends : ∃ c : Chan, canSend s s.clk.refHub c none = true) :
    ∃ t, exec (.listenTimerExpiry ⟨0, false⟩) s = .next (refreshReady t) ∧ t.wl.phase = .start ∧
      t.wl.upCycles = 0 ∧ t.clk.running = true ∧ t.clk.started = false ∧ t.clk.tag = 0 ∧ s.wl.listenAt ≤ t.clk.now ∧
      t.clk.ts = t.clk.now + (12 * symbolNs b + 10000) * 2 ^ 32 ∧
      (∀ c : Chan, canSend s s.clk.refHub c none = true → ⟨s.clk.refHub, c, 0, t.clk.now, casSyms, 0⟩ ∈ t.wl.wire) ∧
      t = { s with clk := t.clk, wl := t.wl, regs := t.regs, link := t.link, lanePriv := t.lanePriv } := by
  refine ⟨listenExpiry 0 false s, runReady_on on, ?_⟩
  rw [listenExpiry_agrees bank listens sends, if_neg Bool.false_ne_true]
  refine ⟨rfl, rfl, rfl, rfl, rfl, ?_, ?_, fun c hc => ?_, startPlaced_frame untimed_started⟩
  · rw [startPlaced_clk, onAir_casSent.now, timerExpired_now]
    exact le_max_right _ _
  · rw [startPlaced_clk, casEnd]
    dsimp only
    rw [onAir_casSent.now]
    omega
  · rw [← refHub_of_sched sched_timerExpired] at hc ⊢
    rw [← canSend_of_sched sched_timerExpired] at hc
    exact casSent_wire hc

/-- R185: a disturbed collision-avoidance symbol starts the wait of 4 bus cycles again. -/
theorem exec_listenTimerExpiry_disturbed (on : s.clk.on = true) (bank : wlBank s = some b) (listens : s.wl.phase = .listen)
    (sends : ∃ c : Chan, canSend s s.clk.refHub c none = true) :
    ∃ t, exec (.listenTimerExpiry ⟨0, true⟩) s = .next (refreshReady t) ∧ t.wl.phase = .listen ∧ t.clk.running = false ∧
      t.wl.listenAt = t.clk.now + (12 * symbolNs b + 4 * busNs s) * 2 ^ 32 := by
  refine ⟨listenExpiry 0 true s, runReady_on on, ?_⟩
  rw [listenExpiry_agrees bank listens sends, if_pos rfl]
  have bus : busNs (casSent (timerExpired s)) = busNs s :=
    eq_of_sched busNs (fun _ => rfl) (onAir_casSent.sched.trans sched_timerExpired)
  refine ⟨listenFrom_phase, by rw [listenFrom_clk], ?_⟩
  rw [listenFrom_listenAt, listenFrom_clk, bus, casEnd, onAir_casSent.now]
  omega

/-- R187: cycle 8 brings normal operation, and the training of the hubs that drive. -/
theorem exec_normalOperation (on : s.clk.on = true) (starting : s.wl.op = 0) (cycles : 8 ≤ s.wl.upCycles) (runs : wlRuns s = true) :
    ∃ t, exec .normalOperation s = .next (noteReady .wls 0 (noteMotion t)) ∧ t.wl.op = 1 ∧ t.wl.phase = .run ∧
      (∀ h : Hub, s.clk.alive[h] = true → t.wl.train[h] = 128) ∧ t = { s with wl := t.wl } := by
  refine ⟨normalOperation s, run_on (f := fun s => noteReady .wls 0 (noteMotion (normalOperation s))) on, ?_⟩
  rw [normalOperation, if_pos ⟨starting, cycles, runs⟩]
  refine ⟨rfl, rfl, fun h alive => ?_, rfl⟩
  have drives : s.clk.alive[h.val]? = some true := (Vector.getElem?_eq_getElem h.isLt).trans (congrArg some alive)
  simp [modWl, drives]

-- The configuration service (R153, R160)

section
variable {q : CfgReq} {rest : List CfgReq} (out : s.wl.reqs = q :: rest) (sent : q.sent = true)
include out sent

/-- R153, R160: the response to the request outstanding ends it; an accepted commit clears the node's bit. -/
theorem configResponse_answers {x : CfgResp} (ch : q.ch = x.ch) (node : q.node = x.node.val) (op : q.op = x.op) (req : q.req = x.req) :
    configResponse x s = { s with wl := { s.wl with
      reqs := rest, nack := if x.op = 4 ∧ x.result = 0 then setBit s.wl.nack x.node.val false else s.wl.nack } } := by
  rw [configResponse, out]
  exact if_pos ⟨sent, ch, node, op, req⟩

theorem configTimeout_repeats (age : 4 ≤ q.age) (few : q.repeats < 3) : configTimeout s = { s with wl := { s.wl with
    reqs := { q with sent := false, repeats := q.repeats + 1 } :: rest } } := by
  have ended : ¬ (q.sent = false ∨ q.age < 4) := by simp [sent, age]
  rw [configTimeout, out]
  exact (if_neg ended).trans (if_pos few)

/-- The request is given up, and its node counts as not committed. -/
theorem configTimeout_givesUp (age : 4 ≤ q.age) (many : 3 ≤ q.repeats) : configTimeout s = count .wls 0 15 (irq .wls 0 wlsNodeNack
    (modWl (fun w => { w with reqs := rest, nack := setBit w.nack q.node true }) s)) := by
  have ended : ¬ (q.sent = false ∨ q.age < 4) := by simp [sent, age]
  rw [configTimeout, out]
  exact (if_neg ended).trans (if_neg (Nat.not_lt.mpr many))

/-- R153: the fourth time-out counts and marks the node. -/
theorem exec_configurationTimeout_givesUp (on : s.clk.on = true) (wf : regsWf s.regs = true) (age : 4 ≤ q.age) (many : 3 ≤ q.repeats) :
    ∃ t, exec .configurationTimeout s = .next t ∧ t.wl.reqs = rest ∧ t.wl.nack = setBit s.wl.nack q.node true ∧
      reg t .wls 0 (Reg.CNT + 60) = reg s .wls 0 (Reg.CNT + 60) + 1 ∧ bit (reg t .wls 0 Reg.IRQ_STAT) wlsNodeNack = true ∧
      t = { s with wl := t.wl, regs := t.regs, link := t.link } := by
  refine ⟨configTimeout s, run_on on, ?_⟩
  rw [configTimeout_givesUp out sent age many]
  obtain ⟨flag, counted⟩ := count_irq (s := modWl (fun w => { w with reqs := rest, nack := setBit w.nack q.node true }) s) (p := .wls)
    (i := 0) (n := 15) (k := wlsNodeNack) wf (by decide) (by decide)
  exact ⟨by rw [count_wl, irq_wl, modWl_wl], by rw [count_wl, irq_wl, modWl_wl], counted, flag,
    eq_of_quiet_modWl (quiet_count.trans quiet_irq)⟩

end

/-- Settles O45, clause by clause. -/
theorem wearlineSchedule : Obligations.WearlineSchedule := by
  intro s on wf
  refine ⟨fun h => ⟨_, (run_on on).trans (congrArg _ (wlsGo_unprepared h)), recordErr_wls wf (by decide)⟩,
    fun nack next => ⟨fun cd due act idle => ?_, fun busy => ?_⟩,
    exec_epochSwitch on wf,
    fun keep => ⟨fun two idle => ?_, fun h => ?_⟩,
    fun lost two idle lead free gone left => ?_,
    exec_consolidation on wf,
    fun cons ann due clean => ?_,
    fun h bad => ?_,
    exec_consolidationExit on wf,
    exec_bothLost on wf,
    fun b bank listens sends =>
      ⟨exec_listenTimerExpiry_starts on bank listens sends, exec_listenTimerExpiry_disturbed on bank listens sends⟩,
    exec_normalOperation on,
    fun q rest x out sent ch node op req => ?_,
    fun q rest out sent age => ⟨fun few => ?_, exec_configurationTimeout_givesUp out sent on wf age⟩⟩
  · exact (run_on on).trans (congrArg _ (wlsGo_taken nack next (not_announcing cd due act idle)))
  · exact ⟨_, (run_on on).trans (congrArg _ (wlsGo_busy nack next busy)), recordErr_wls wf (by decide)⟩
  · exact (run_on on).trans (congrArg _ (consEnter_taken two idle))
  · exact (run_on on).trans (congrArg _ (consEnter_ignored h))
  · refine ⟨consolidationDecision s, run_on on, ?_, ?_, (consolidationDecision_inCycle .refl).tag⟩
    · rw [consolidationDecision_lost two idle lead free gone left, releaseShared_wl]
      rfl
    · rw [consolidationDecision_lost two idle lead free gone left, releaseShared_wl]
      rfl
  · exact (run_on on).trans (congrArg _ (consExit_taken cons ann due clean))
  · obtain ⟨wl, code, _, frame⟩ := recordErr_wls (s := s) (k := 0x0102) wf (by decide)
    exact ⟨_, (run_on on).trans (congrArg _ (consExit_refused bad)), wl, code, frame⟩
  · exact (run_on on).trans (congrArg _ (configResponse_answers out sent ch node op req))
  · exact (run_on on).trans (congrArg _ (configTimeout_repeats out sent age few))

end Sys2Proof.Machine

/-! SUPPORT. Arm rings: what a state holds besides the rings, and what the small operations on a ring change and leave (R200, R201, R223,
R228). -/

namespace Sys2Proof.Machine

variable {s t u : State} {a b : Arm} {p : Pg} {i n off hi k w : Nat} {v : Word} {keys : List Nat} {f : ArmRing → ArmRing}

-- Frames

/-- A state without its rings. -/
def ringFree (s : State) : State := { s with ring := Vector.replicate 12 {} }

/-- A state without its rings, register file and host link. -/
def ringless (s : State) : State := ringFree (quiet s)

theorem eq_of_ringFree (h : ringFree t = ringFree s) : t = { s with ring := t.ring } := by
  cases t; cases s; cases h; rfl

theorem eq_of_ringless (h : ringless t = ringless s) : t = { s with ring := t.ring, regs := t.regs, link := t.link } := by
  cases t; cases s; cases h; rfl

/-- A state without its rings and register file. -/
def unlogged (s : State) : State := ringFree { s with regs := [] }

theorem eq_of_unlogged (h : unlogged t = unlogged s) : t = { s with ring := t.ring, regs := t.regs } := by
  cases t; cases s; cases h; rfl

theorem unlogged_setReg : unlogged (setReg p i off v s) = unlogged s := rfl

theorem ringless_of_quiet (h : quiet t = quiet s) : ringless t = ringless s := congrArg ringFree h

theorem mem_of_ringless (h : ringless t = ringless s) : t.mem = s.mem := (congrArg State.mem h :)

@[simp] theorem ringFree_modRing : ringFree (modRing a f s) = ringFree s := rfl
@[simp] theorem ringless_modRing : ringless (modRing a f s) = ringless s := rfl
@[simp] theorem ringless_setReg : ringless (setReg p i off v s) = ringless s := rfl
@[simp] theorem ringless_chg : ringless (chg p i s) = ringless s := rfl
@[simp] theorem ringless_irq : ringless (irq p i n s) = ringless s := ringless_of_quiet quiet_irq
@[simp] theorem ringless_count : ringless (count p i n s) = ringless s := ringless_of_quiet quiet_count

/-- Two changes of one ring are one. -/
theorem modRing_modRing {g : ArmRing → ArmRing} : modRing a g (modRing a f s) = modRing a (fun x => g (f x)) s := by
  simp [modRing]

theorem modRing_at : (modRing a f s).ring[a] = f s.ring[a] := vmod_same

theorem modRing_apart (h : b ≠ a) : (modRing a f s).ring[b] = s.ring[b] := vmod_other h

-- Registers

theorem regKept_modRing : RegKept k s (modRing a f s) := regKept_of_regs rfl

theorem regKept_count (h : k ∉ eventKeys p i n) : RegKept k s (count p i n s) := ⟨regsWf_count, fun wf => count_regAt_other wf h⟩

theorem regsBut_of_kept (wf : regsWf s.regs = true) (h : ∀ k ∉ keys, RegKept k s t) : RegsBut keys s t := fun k hk => (h k hk).same wf

theorem regsBut_of_regs (h : t.regs = s.regs) : RegsBut keys s t := fun _ _ => by rw [regAt, h, regAt]

theorem RegKept.reg (h : RegKept (regKey p i off) s t) (wf : regsWf s.regs = true) : reg t p i off = reg s p i off := h.same wf

/-- The pages of the cell view lie above those of the hub view (R48). -/
theorem regKey_tb_ne_arm {off' : Nat} (h : off < 4096) : regKey .tb 0 off ≠ regKey .arm i off' := by
  simp only [regKey, pageAddr, pgRow, cellBase, if_true, Bool.false_eq_true, if_false]
  omega

theorem regKey_tb_notMem (h : off < 4096) : regKey .tb 0 off ∉ eventKeys .arm i n := by
  simp [eventKeys, regKey_tb_ne_arm h]

theorem regKey_apart {off' : Nat} (h : off ≠ off') : regKey p i off ≠ regKey p i off' := by simpa using h

theorem regKey_notMem {l : List Nat} (h : off ∉ l) : regKey p i off ∉ l.map (regKey p i) := by simpa using h

/-- Counting an event touches three registers of each page. -/
theorem eventKeys_notMem (h : k % 4096 ∉ [Reg.IRQ_STAT, Reg.CNT + 4 * n, Reg.CNT_OVF]) (hn : n < 16) : k ∉ eventKeys p i n := by
  intro hk
  refine h ?_
  simp only [eventKeys, List.mem_cons, List.not_mem_nil, or_false] at hk
  obtain rfl | rfl | rfl := hk
  · rw [regKey_mod (by decide)]
    exact List.mem_cons_self
  · rw [regKey_mod (by simp only [Reg.CNT]; omega)]
    simp
  · rw [regKey_mod (by decide)]
    simp

/-- A field from bit 0 up of a word that holds a number within it. -/
theorem field_ofNat (hw : w < 2 ^ (hi + 1)) (h : hi < 32) : field (BitVec.ofNat 32 w) hi 0 = w := by
  have le : 2 ^ (hi + 1) ≤ 2 ^ 32 := Nat.pow_le_pow_right (by decide) h
  rw [field, BitVec.toNat_ofNat, pow_zero, Nat.div_one, Nat.sub_zero, Nat.mod_eq_of_lt (hw.trans_le le), Nat.mod_eq_of_lt hw]

theorem field_lt : field v hi 0 < 2 ^ (hi + 1) := Nat.mod_lt _ (Nat.two_pow_pos _)

theorem wrIdx_lt : wrIdx s a < 1024 := field_lt
theorem rdIdx_lt : rdIdx s a < 1024 := field_lt

/-- An index that is stored reads as stored. -/
theorem fld_setReg_same (wf : regsWf s.regs = true) (hw : w < 2 ^ (hi + 1)) (h : hi < 32) :
    fld (setReg p i off (BitVec.ofNat 32 w) s) p i off hi 0 = w := by
  rw [fld, reg_setReg_same wf, field_ofNat hw h]

-- Staged writes (R62)

/-- A write that leaves `ERR` of its page alone is accepted. -/
theorem staged_kept {g : State → State} (wf : regsWf s.regs = true) (h : ∀ u, RegKept (regKey p i Reg.ERR) u (g u)) :
    staged p i g s = chg p i (g s) := by
  refine staged_accepted ?_
  rw [(h _).reg (regsWf_setReg wf), reg_setReg_same wf]

theorem staged_recordErr {c : Nat} {g : State → State} (wf : regsWf s.regs = true)
    (h : g (setReg p i Reg.ERR 0 s) = recordErr p i c (setReg p i Reg.ERR 0 s)) : staged p i g s = g s := by
  refine staged_refused ?_
  rw [h]
  exact recordErr_ne_zero (regsWf_setReg wf)

-- Reports (R228)

/-- Line phase hangs on cell time, the phase unit, the encoders and `LINE_CFG`. -/
theorem linePhase_congr (clk : t.clk = s.clk) (line : t.line = s.line) (enc : t.enc = s.enc)
    (cfg : reg t .tb 0 Reg.TB_LINE_CFG = reg s .tb 0 Reg.TB_LINE_CFG) : linePhase t = linePhase s := by
  simp only [linePhase, lineFrozen, lineEn, phaseByRule, lineCount, lineInv, lineSrc, nsOf, flag, fld, clk, line, enc, cfg]
  rfl

/-- What a report holds of the state it is formed in. -/
theorem newReport_congr (clk : t.clk = s.clk) (line : t.line = s.line) (enc : t.enc = s.enc)
    (cfg : reg t .tb 0 Reg.TB_LINE_CFG = reg s .tb 0 Reg.TB_LINE_CFG) : newReport t = newReport s := by
  funext seq op st code idx info
  simp only [newReport, stamp, nsOf, lineEn, flag, linePhase_congr clk line enc cfg, clk, cfg]
  rfl

theorem newReport_ringless (h : ringless t = ringless s) (cfg : reg t .tb 0 Reg.TB_LINE_CFG = reg s .tb 0 Reg.TB_LINE_CFG) :
    newReport t = newReport s :=
  newReport_congr (congrArg State.clk h :) (congrArg State.line h :) (congrArg State.enc h :) cfg

/-- A taken record that is reported leaves the list of taken records; its report waits. -/
theorem report_eq {r : RingRec} {st : RptStatus} {c m : Nat} : report a r st c m s =
    modRing a (fun g => { g with taken := g.taken.erase r, due := g.due ++ [newReport s r.seq r.op st c r.idx m] }) s :=
  modRing_modRing

-- Malformed records (R223)

theorem settleBad_none (h : (s.ring[a]).bad = none) : settleBad a s = s := by
  simp only [settleBad, h]

/-- A malformed record is reported once the records before it are done and the arm rests. -/
theorem settleBad_atRest {r : RingRec} {c : Nat} (bad : (s.ring[a]).bad = some (r, c)) (taken : (s.ring[a]).taken = [])
    (rests : restsAt s a = true) : settleBad a s =
      modRing a (fun g => { g with bad := none, due := g.due ++ [newReport s r.seq r.op .malformed c r.idx 0] }) s := by
  simp only [settleBad, bad]
  rw [if_pos (by rw [taken, rests]; rfl)]
  exact modRing_modRing

/-- Until then it waits. -/
theorem settleBad_waits (h : (s.ring[a]).taken ≠ [] ∨ restsAt s a = false) : settleBad a s = s := by
  have not : ¬ ((s.ring[a]).taken.isEmpty && restsAt s a) = true := by
    rw [Bool.and_eq_true, List.isEmpty_iff]
    rintro ⟨taken, rests⟩
    exact h.elim (· taken) fun moving => by rw [moving] at rests; exact nomatch rests
  unfold settleBad
  split
  · exact if_neg not
  · rfl

-- One report more (R228)

section Reported
variable {seq : Word} {op : Byte} {st : RptStatus} {idx info : Nat}

/-- A report that is formed after a state has changed otherwise. -/
theorem Reported.after (h : Reported a seq op st idx info keys u t) (due : (u.ring[a]).due = (s.ring[a]).due) (mem : u.mem = s.mem)
    (same : newReport u = newReport s) (regs : RegsBut keys s u) : Reported a seq op st idx info keys s t := by
  obtain ⟨due', mem', regs'⟩ := h
  exact ⟨by rw [due', due, same], mem'.trans mem, fun k hk => (regs' k hk).trans (regs k hk)⟩

/-- The command that has led to a report counts in `CHG`. -/
theorem Reported.chg (h : Reported a seq op st idx info keys s t) (wf : regsWf t.regs = true) :
    Reported a seq op st idx info (regKey p i Reg.CHG :: keys) s (chg p i t) := by
  obtain ⟨due, mem, regs⟩ := h
  refine ⟨due, mem, fun k hk => ?_⟩
  rw [List.mem_cons, not_or] at hk
  rw [chg_regAt_other wf hk.1, regs k hk.2]

end Reported

end Sys2Proof.Machine

/-! SUPPORT. Arm rings: indices that the host writes, flushes and halts (R201, R222, R223, R225). -/

namespace Sys2Proof.Machine

variable {s t : State} {a b : Arm} {p : Pg} {i off hi k w cause : Nat} {v : Word} {r : RingRec}

-- Indices that the host writes (R201, R228)

theorem regKept_chg (h : k ≠ regKey p i Reg.CHG) : RegKept k s (chg p i s) := regKept_setReg h

/-- An index that the host writes is taken and counted. -/
theorem chg_setReg_index (wf : regsWf s.regs = true) (ho : off ≠ Reg.CHG) (hw : w < 2 ^ (hi + 1)) (h32 : hi < 32) :
    fld (chg p i (setReg p i off (BitVec.ofNat 32 w) s)) p i off hi 0 = w ∧
      reg (chg p i (setReg p i off (BitVec.ofNat 32 w) s)) p i Reg.CHG = reg s p i Reg.CHG + 1 ∧
      RegsBut [regKey p i off, regKey p i Reg.CHG] s (chg p i (setReg p i off (BitVec.ofNat 32 w) s)) := by
  have wf' : regsWf (setReg p i off (BitVec.ofNat 32 w) s).regs = true := regsWf_setReg wf
  refine ⟨?_, ?_, regsBut_of_kept wf fun k hk => ?_⟩
  · rw [fld, (regKept_chg (by simpa using ho)).reg wf', ← fld, fld_setReg_same wf hw h32]
  · rw [chg_counts wf', reg_setReg_other wf ho.symm]
  · simp only [List.mem_cons, List.not_mem_nil, or_false, not_or] at hk
    exact (regKept_setReg hk.1).trans (regKept_chg hk.2)

theorem writeWrIdx_taken (h : unconsumed s a ≤ (field v 9 0 + 1024 - rdIdx s a) % 1024) :
    writeWrIdx a v s = chg .arm a (setReg .arm a Reg.ARM_WR_IDX (BitVec.ofNat 32 (field v 9 0)) s) := if_neg (Nat.not_lt.mpr h)

theorem writeWrIdx_refused (h : (field v 9 0 + 1024 - rdIdx s a) % 1024 < unconsumed s a) :
    writeWrIdx a v s = recordErr .arm a 0x0004 s := if_pos h

theorem writeRptRd_taken (h : (rptWr s a + 2048 - field v 10 0) % 2048 ≤ unread s a) :
    writeRptRd a v s = chg .arm a (setReg .arm a Reg.ARM_RPT_RD (BitVec.ofNat 32 (field v 10 0)) s) := if_neg (Nat.not_lt.mpr h)

/-- An error of an arm's page: its code, and what stays. -/
theorem recordErr_arm {c : Nat} (wf : regsWf s.regs = true) (hc : c < 2 ^ 16) :
    field (reg (recordErr .arm a c s) .arm a Reg.ERR) 15 0 = c ∧ RegsBut (errKeys .arm a) s (recordErr .arm a c s) ∧
      recordErr .arm a c s = { s with regs := (recordErr .arm a c s).regs, link := (recordErr .arm a c s).link } :=
  ⟨recordErr_code wf hc, fun _ => recordErr_regAt_other wf, eq_of_quiet quiet_recordErr⟩

-- `CMD` (R225): one command at a time

theorem writeArmCmd_flush : writeArmCmd a 2 = cmdFlush a := rfl
theorem writeArmCmd_resume : writeArmCmd a 1 = cmdResume a := rfl
theorem writeArmCmd_abort : writeArmCmd a 4 = cmdAbort a := rfl

-- FLUSH

theorem regKept_flushRing (h : k ≠ regKey .arm a Reg.ARM_RD_IDX) : RegKept k s (flushRing a s) :=
  (regKept_setReg h).trans (regKept_of_regs rfl)

/-- The indices of a flushed ring meet. -/
theorem flushRing_indices (wf : regsWf s.regs = true) :
    wrIdx (flushRing a s) a = wrIdx s a ∧ rdIdx (flushRing a s) a = wrIdx s a := by
  constructor
  · rw [wrIdx, fld, (regKept_flushRing (regKey_apart (by decide))).reg wf, ← fld, wrIdx]
  · exact fld_setReg_same (s := s) wf wrIdx_lt (by decide)

/-- The report of a flush: of the last record discarded, with the number of them (R225). -/
def flushReport (s : State) (a : Arm) : Report :=
  newReport s (if unconsumed s a = 0 then 0 else (readRecord s a ((wrIdx s a + 1023) % 1024)).seq) 0 .flushed 0
    (if unconsumed s a = 0 then 0 else (wrIdx s a + 1023) % 1024) (unconsumed s a)

theorem flushRing_ring (wf : regsWf s.regs = true) :
    (flushRing a s).ring = vmod s.ring a fun g => { g with due := g.due ++ [flushReport s a] } := by
  have same : newReport (setReg .arm a Reg.ARM_RD_IDX (BitVec.ofNat 32 (wrIdx s a)) s) = newReport s :=
    newReport_ringless rfl ((regKept_setReg (regKey_tb_ne_arm (by decide))).reg wf)
  rw [flushReport, ← same]
  rfl

/-- With the indices together nothing is unconsumed. -/
theorem unconsumed_eq_zero (h : rdIdx s a = wrIdx s a) : unconsumed s a = 0 := by
  rw [unconsumed, h, Nat.add_sub_cancel_left]

-- Halts (R222, R223)

theorem haltRing_alone (h : (s.ring[a]).coupled = none) : haltRing cause a s = haltOne cause a s := by
  simp only [haltRing, coupledArms, h, forEach, List.foldl_cons, List.foldl_nil]

theorem haltOne_halted (h : (s.ring[a]).halt ≠ 0) (ends : abortsTaken cause = true) : haltOne cause a s = endRecords cause a s := by
  rw [haltOne, if_pos h, if_pos ends]

/-- A ring that a stop or an abort halts. -/
theorem haltOne_running (h : (s.ring[a]).halt = 0) (ends : abortsTaken cause = true) :
    haltOne cause a s = endRecords cause a (irq .arm a armHalt (modRing a (fun g => { g with halt := cause }) s)) := by
  rw [haltOne, if_neg (not_not.mpr h), if_pos ends]

/-- A ring that works on no record any more (R223). -/
def stoppedRing (cause : Nat) (g : ArmRing) : ArmRing := { g with
  wait := none, rdv := false, onPath := [], blends := [], ends := [], lastRef := none, release := false
  cut := g.cut || cause == 4 || cause == 5, stopAt := none }

/-- A taken record is given up (R223). -/
def abortRecord (a : Arm) (r : RingRec) (s : State) : State := count .arm a 5 (report a r .aborted 0 0 s)

theorem modTds_modRing {d : Dispatcher → Dispatcher} {f : ArmRing → ArmRing} : modTds d (modRing a f s) = modRing a f (modTds d s) := rfl

/-- Of the dispatcher only the delay lists change (R223). -/
theorem abortTaken_eq : ∃ d, abortTaken a s =
    forEach (s.ring[a]).taken (abortRecord a) (modRing a (fun g => { g with stopAt := none }) (modTds d s)) := ⟨_, rfl⟩

/-- A halt that ends the records reports each of them in turn (R223). -/
theorem endRecords_eq : ∃ d, endRecords cause a s =
    forEach (s.ring[a]).taken (abortRecord a) (modRing a (stoppedRing cause) (modTds d s)) := by
  obtain ⟨d, e⟩ := abortTaken_eq (a := a) (s := modRing a (fun g => { g with
    wait := none, rdv := false, onPath := [], blends := [], ends := [], lastRef := none, release := false
    cut := g.cut || cause == 4 || cause == 5 }) s)
  rw [modRing_at, modTds_modRing, modRing_modRing] at e
  exact ⟨d, e⟩

@[simp] theorem ringless_report {st : RptStatus} {c m : Nat} : ringless (report a r st c m s) = ringless s := rfl

theorem ringless_abortRecord : ringless (abortRecord a r s) = ringless s := ringless_count.trans ringless_report

/-- Whatever a halt ends, the ring keeps its cause. -/
theorem endRecords_halt : ((endRecords cause a s).ring[a]).halt = (s.ring[a]).halt := by
  obtain ⟨d, e⟩ := endRecords_eq (cause := cause) (a := a) (s := s)
  have each (r : RingRec) (u : State) : ((abortRecord a r u).ring[a]).halt = (u.ring[a]).halt := by
    rw [abortRecord, count_ring, report_eq, modRing_at]
  rw [e, forEach_preserves (g := fun u => (u.ring[a]).halt) each, modRing_at, modTds_ring]
  rfl

theorem regKept_report {st : RptStatus} {c m : Nat} : RegKept k s (report a r st c m s) := regKept_of_regs rfl

theorem regKept_forEach {α : Type} {f : α → State → State} (hf : ∀ x u, RegKept k u (f x u)) (l : List α) : RegKept k s (forEach l f s) := by
  unfold forEach
  induction l generalizing s with
  | nil => exact .refl
  | cons x l ih => exact (hf x s).trans ih

theorem regKept_endRecords (h : k ∉ eventKeys .arm a 5) : RegKept k s (endRecords cause a s) := by
  obtain ⟨d, e⟩ := endRecords_eq (cause := cause) (a := a) (s := s)
  rw [e]
  refine RegKept.trans ?_ (regKept_forEach (fun r u => regKept_report.trans (regKept_count h)) _)
  exact regKept_of_regs rfl

/-- A stop or an abort touches the interrupts and the counter of aborted records of its page (R223). -/
theorem regKept_haltOne (h : k ∉ eventKeys .arm a 5) : RegKept k s (haltOne cause a s) := by
  have irq (u : State) : RegKept k u (irq .arm a armHalt u) := regKept_irq fun e => h (by simp [e, eventKeys])
  have started (f : ArmRing → ArmRing) : RegKept k s (Machine.irq .arm a armHalt (modRing a f s)) := regKept_modRing.trans (irq _)
  unfold haltOne
  dsimp only
  split
  · split
    · exact regKept_endRecords h
    · exact .refl
  · split
    · exact (started _).trans (regKept_endRecords h)
    · split
      · exact started _
      · exact (started _).trans regKept_modRing

/-- What an aborted ring may have touched: rings, the dispatcher, registers and the host link. -/
def aborting (s : State) : State := { ringless s with tds := {} }

theorem eq_of_aborting (h : aborting t = aborting s) : t = { s with ring := t.ring, tds := t.tds, regs := t.regs, link := t.link } := by
  cases t; cases s; cases h; rfl

theorem mem_of_aborting (h : aborting t = aborting s) : t.mem = s.mem := (congrArg State.mem h :)

theorem aborting_of_ringless (h : ringless t = ringless s) : aborting t = aborting s := congrArg (fun x => { x with tds := {} }) h

theorem aborting_modTds {d : Dispatcher → Dispatcher} : aborting (modTds d s) = aborting s := rfl

theorem aborting_endRecords : aborting (endRecords cause a s) = aborting s := by
  obtain ⟨d, e⟩ := endRecords_eq (cause := cause) (a := a) (s := s)
  rw [e]
  refine (forEach_preserves (g := aborting) (fun r u => aborting_of_ringless ringless_abortRecord) _ _).trans ?_
  exact (aborting_of_ringless ringless_modRing).trans aborting_modTds

theorem aborting_haltOne : aborting (haltOne cause a s) = aborting s := by
  have started (f : ArmRing → ArmRing) : aborting (irq .arm a armHalt (modRing a f s)) = aborting s :=
    aborting_of_ringless ringless_irq
  unfold haltOne
  dsimp only
  split
  · split
    · exact aborting_endRecords
    · rfl
  · split
    · exact aborting_endRecords.trans (started _)
    · split
      · exact started _
      · exact (aborting_of_ringless ringless_modRing).trans (started _)

-- ABORT of a ring that has taken one record (R223)

section One
variable (one : (s.ring[a]).taken = [r])
include one

theorem endRecords_one : ∃ d, endRecords cause a s = abortRecord a r (modRing a (stoppedRing cause) (modTds d s)) := by
  obtain ⟨d, e⟩ := endRecords_eq (cause := cause) (a := a) (s := s)
  rw [one] at e
  exact ⟨d, e⟩

theorem endRecords_ring : (endRecords cause a s).ring = vmod s.ring a fun g => { stoppedRing cause g with
    taken := [], due := g.due ++ [newReport s r.seq r.op .aborted 0 r.idx 0] } := by
  obtain ⟨d, e⟩ := endRecords_one (cause := cause) one
  rw [e, abortRecord, count_ring, report_eq, modRing_modRing, modRing_ring, modTds_ring]
  refine vmod_congr ?_
  have gone : (stoppedRing cause s.ring[a]).taken.erase r = [] := by
    rw [stoppedRing, one, List.erase_cons_head]
  rw [gone]
  rfl

theorem endRecords_at : ((endRecords cause a s).ring[a]).taken = [] ∧ ((endRecords cause a s).ring[a]).wait = none ∧
    ∀ b : Arm, b ≠ a → (endRecords cause a s).ring[b] = s.ring[b] := by
  rw [endRecords_ring one, vmod_same]
  exact ⟨rfl, rfl, fun b hb => vmod_other hb⟩

theorem endRecords_reported (wf : regsWf s.regs = true) :
    Reported a r.seq r.op .aborted r.idx 0 (eventKeys .arm a 5) s (endRecords cause a s) := by
  refine ⟨?_, mem_of_aborting aborting_endRecords, regsBut_of_kept wf fun k => regKept_endRecords⟩
  rw [endRecords_ring one, vmod_same]

theorem endRecords_counts (wf : regsWf s.regs = true) :
    reg (endRecords cause a s) .arm a (Reg.CNT + 20) = reg s .arm a (Reg.CNT + 20) + 1 := by
  obtain ⟨d, e⟩ := endRecords_one (cause := cause) one
  have before : RegKept (regKey .arm a (Reg.CNT + 4 * 5)) s (report a r .aborted 0 0 (modRing a (stoppedRing cause) (modTds d s))) :=
    regKept_of_regs rfl
  rw [e, abortRecord, show Reg.CNT + 20 = Reg.CNT + 4 * 5 from rfl, count_reg (before.wf wf) (by decide), before.reg wf]

end One

end Sys2Proof.Machine

/-! The commands of an arm ring page (R201, R223, R225, R228, R567): O50. -/

namespace Sys2Proof.Machine

variable {s t : State} {a b : Arm} {off k cause : Nat} {v : Word} {r : RingRec}

-- WR_IDX and RPT_RD (R201, R228)

theorem exec_wrIdx_taken (on : s.clk.on = true) (wf : regsWf s.regs = true)
    (h : unconsumed s a ≤ (field v 9 0 + 1024 - rdIdx s a) % 1024) : ∃ t, exec (.wrIdx a v) s = .next t ∧ wrIdx t a = field v 9 0 ∧
      reg t .arm a Reg.CHG = reg s .arm a Reg.CHG + 1 ∧ RegsBut [regKey .arm a Reg.ARM_WR_IDX, regKey .arm a Reg.CHG] s t ∧
      t = { s with regs := t.regs } := by
  obtain ⟨idx, counted, but⟩ :=
    chg_setReg_index (p := .arm) (i := a) (off := Reg.ARM_WR_IDX) wf (by decide) (field_lt (v := v) (hi := 9)) (by decide)
  exact ⟨_, (run_on on).trans (congrArg _ (writeWrIdx_taken h)), idx, counted, but, rfl⟩

theorem exec_wrIdx_refused (on : s.clk.on = true) (wf : regsWf s.regs = true)
    (h : (field v 9 0 + 1024 - rdIdx s a) % 1024 < unconsumed s a) : ∃ t, exec (.wrIdx a v) s = .next t ∧
      field (reg t .arm a Reg.ERR) 15 0 = 4 ∧ RegsBut (errKeys .arm a) s t ∧ t = { s with regs := t.regs, link := t.link } :=
  ⟨_, (run_on on).trans (congrArg _ (writeWrIdx_refused h)), recordErr_arm wf (by decide)⟩

theorem exec_rptRd_taken (on : s.clk.on = true) (wf : regsWf s.regs = true)
    (h : (rptWr s a + 2048 - field v 10 0) % 2048 ≤ unread s a) : ∃ t, exec (.rptRd a v) s = .next t ∧ rptRd t a = field v 10 0 ∧
      reg t .arm a Reg.CHG = reg s .arm a Reg.CHG + 1 ∧ RegsBut [regKey .arm a Reg.ARM_RPT_RD, regKey .arm a Reg.CHG] s t ∧
      t = { s with regs := t.regs } := by
  obtain ⟨idx, counted, but⟩ :=
    chg_setReg_index (p := .arm) (i := a) (off := Reg.ARM_RPT_RD) wf (by decide) (field_lt (v := v) (hi := 10)) (by decide)
  exact ⟨_, (run_on on).trans (congrArg _ (writeRptRd_taken h)), idx, counted, but, rfl⟩

-- FLUSH and RESUME (R225)

theorem regKept_cmdFlush (h : k ≠ regKey .arm a Reg.ARM_RD_IDX) : RegKept k s (cmdFlush a s) := by
  unfold cmdFlush
  split
  · exact regKept_flushRing h
  · exact .refl

theorem exec_flush (on : s.clk.on = true) (wf : regsWf s.regs = true) (halted : (s.ring[a]).halt ≠ 0) (some : 0 < unconsumed s a) :
    ∃ t, exec (.flush a) s = .next t ∧ rdIdx t a = wrIdx s a ∧ unconsumed t a = 0 ∧
      Reported a (readRecord s a ((wrIdx s a + 1023) % 1024)).seq 0 .flushed ((wrIdx s a + 1023) % 1024) (unconsumed s a)
        [regKey .arm a Reg.ARM_RD_IDX, regKey .arm a Reg.CHG] s t ∧ t = { s with ring := t.ring, regs := t.regs } := by
  have acts : staged .arm a (writeArmCmd a 2) s = chg .arm a (flushRing a s) := by
    rw [writeArmCmd_flush, staged_kept wf fun _ => regKept_cmdFlush (regKey_apart (by decide)), cmdFlush, if_pos halted]
  have wf' : regsWf (flushRing a s).regs = true := regsWf_setReg wf
  obtain ⟨wr, rd⟩ := flushRing_indices (a := a) wf
  have wr' : wrIdx (chg .arm a (flushRing a s)) a = wrIdx s a := by
    rw [wrIdx, fld, (regKept_chg (regKey_apart (by decide))).reg wf', ← fld, ← wrIdx, wr]
  have rd' : rdIdx (chg .arm a (flushRing a s)) a = wrIdx s a := by
    rw [rdIdx, fld, (regKept_chg (regKey_apart (by decide))).reg wf', ← fld, ← rdIdx, rd]
  refine ⟨_, (run_on on).trans (congrArg _ acts), rd', unconsumed_eq_zero (rd'.trans wr'.symm), ⟨?_, rfl, ?_⟩, eq_of_unlogged rfl⟩
  · have ne : unconsumed s a ≠ 0 := some.ne'
    rw [show (chg .arm a (flushRing a s)).ring = (flushRing a s).ring from rfl, flushRing_ring wf, vmod_same, flushReport, if_neg ne, if_neg ne]
  · refine regsBut_of_kept wf fun k hk => ?_
    simp only [List.mem_cons, List.not_mem_nil, or_false, not_or] at hk
    exact (regKept_flushRing hk.1).trans (regKept_chg hk.2)

/-- A ring that goes on, its line frame no longer frozen (R220). -/
def resumed (g : ArmRing) : ArmRing := { g with halt := 0, tracking := g.tracking.map fun f => { f with frozen := none } }

theorem cmdResume_running (h : (s.ring[a]).halt = 0) : cmdResume a s = recordErr .arm a 0x0101 s := if_pos h

theorem cmdResume_noLine (h : (s.ring[a]).halt = 5) (line : s.line.valid = false) : cmdResume a s = recordErr .arm a 0x0102 s := by
  rw [cmdResume, if_neg (by rw [h]; decide), if_pos ⟨h, line⟩]

theorem cmdResume_halted (h : (s.ring[a]).halt ≠ 0) (line : (s.ring[a]).halt ≠ 5 ∨ s.line.valid = true) :
    cmdResume a s = modRing a resumed s := by
  rw [cmdResume, if_neg h, if_neg fun ⟨five, invalid⟩ => line.elim (· five) (by simp [invalid])]
  rfl

/-- A refused write of `CMD` with `RESUME`. -/
theorem exec_resume_refused {c : Nat} (on : s.clk.on = true) (wf : regsWf s.regs = true) (hc : c < 2 ^ 16)
    (h : ∀ u : State, u.ring = s.ring → u.line = s.line → cmdResume a u = recordErr .arm a c u) :
    ∃ t, exec (.resume a) s = .next t ∧ field (reg t .arm a Reg.ERR) 15 0 = c ∧
      RegsBut (errKeys .arm a) s t ∧ t = { s with regs := t.regs, link := t.link } := by
  have acts : staged .arm a (writeArmCmd a 1) s = recordErr .arm a c s := by
    rw [writeArmCmd_resume, staged_recordErr wf (h _ rfl rfl), h s rfl rfl]
  exact ⟨_, (run_on on).trans (congrArg _ acts), recordErr_arm wf hc⟩

theorem exec_resume (on : s.clk.on = true) (wf : regsWf s.regs = true) (h : (s.ring[a]).halt ≠ 0)
    (line : (s.ring[a]).halt ≠ 5 ∨ s.line.valid = true) : ∃ t, exec (.resume a) s = .next t ∧ (t.ring[a]).halt = 0 ∧
      (t.ring[a]).taken = (s.ring[a]).taken ∧ (∀ b : Arm, b ≠ a → t.ring[b] = s.ring[b]) ∧ RegsBut [regKey .arm a Reg.CHG] s t ∧
      t = { s with ring := t.ring, regs := t.regs } := by
  have taken : staged .arm a (cmdResume a) s = chg .arm a (cmdResume a s) := by
    refine staged_accepted ?_
    rw [cmdResume_halted (s := setReg .arm a Reg.ERR 0 s) h line]
    exact reg_setReg_same wf
  have acts : staged .arm a (writeArmCmd a 1) s = chg .arm a (modRing a resumed s) := by
    rw [writeArmCmd_resume, taken, cmdResume_halted h line]
  refine ⟨_, (run_on on).trans (congrArg _ acts), ?_, ?_, fun b hb => modRing_apart hb, ?_, eq_of_unlogged rfl⟩
  · exact congrArg ArmRing.halt (modRing_at (a := a) (f := resumed) (s := s))
  · exact (congrArg ArmRing.taken (modRing_at (a := a) (f := resumed) (s := s))).trans rfl
  · exact regsBut_of_kept wf fun k hk => regKept_modRing.trans (regKept_chg (by simpa using hk))

-- ABORT (R223)

theorem regKept_cmdAbort (h : k % 4096 ∉ [Reg.IRQ_STAT, Reg.CNT + 4 * 5, Reg.CNT_OVF]) : RegKept k s (cmdAbort a s) :=
  regKept_forEach (fun _ _ => regKept_haltOne (eventKeys_notMem h (by decide))) _

theorem staged_cmdAbort (wf : regsWf s.regs = true) (alone : (s.ring[a]).coupled = none) :
    staged .arm a (writeArmCmd a 4) s = chg .arm a (haltOne 4 a s) := by
  rw [writeArmCmd_abort, staged_kept wf fun _ => regKept_cmdAbort (by rw [regKey_mod (by decide)]; decide), cmdAbort, haltRing_alone alone]

/-- The ring has halted, and its page has noted it. -/
def haltNoted (cause : Nat) (a : Arm) (s : State) : State := irq .arm a armHalt (modRing a (fun g => { g with halt := cause }) s)

theorem haltNoted_ring : (haltNoted cause a s).ring = vmod s.ring a fun g => { g with halt := cause } := irq_ring

theorem haltNoted_at : (haltNoted cause a s).ring[a] = { s.ring[a] with halt := cause } := by rw [haltNoted_ring, vmod_same]

theorem regKept_haltNoted (h : k ≠ regKey .arm a Reg.IRQ_STAT) : RegKept k s (haltNoted cause a s) := regKept_modRing.trans (regKept_irq h)

theorem ringless_haltNoted : ringless (haltNoted cause a s) = ringless s := ringless_irq

theorem newReport_haltNoted (wf : regsWf s.regs = true) : newReport (haltNoted cause a s) = newReport s :=
  newReport_ringless ringless_haltNoted ((regKept_haltNoted (regKey_tb_ne_arm (by decide))).reg wf)

section Abort
variable (on : s.clk.on = true) (wf : regsWf s.regs = true) (alone : (s.ring[a]).coupled = none) (one : (s.ring[a]).taken = [r])
include on wf alone one

/-- `ABORT` of a ring that is halted: it keeps its cause. -/
theorem exec_abort_halted (halted : (s.ring[a]).halt ≠ 0) : ∃ t, exec (.abort a) s = .next t ∧ (t.ring[a]).halt = (s.ring[a]).halt ∧
    (t.ring[a]).taken = [] ∧ (t.ring[a]).wait = none ∧
    Reported a r.seq r.op .aborted r.idx 0 (regKey .arm a Reg.CHG :: eventKeys .arm a 5) s t ∧
    t = { s with ring := t.ring, tds := t.tds, regs := t.regs, link := t.link } := by
  have acts := staged_cmdAbort wf alone
  rw [haltOne_halted halted rfl] at acts
  obtain ⟨taken, wait, -⟩ := endRecords_at (cause := 4) one
  have reported := endRecords_reported (cause := 4) one wf
  have wf' : regsWf (endRecords 4 a s).regs = true := (endRecords_inCycle .refl).regs wf
  exact ⟨_, (run_on on).trans (congrArg _ acts), endRecords_halt, taken, wait, reported.chg wf',
    eq_of_aborting ((aborting_of_ringless ringless_chg).trans aborting_endRecords)⟩

/-- `ABORT` of a running ring: it halts with cause 4. -/
theorem exec_abort_running (running : (s.ring[a]).halt = 0) : ∃ t, exec (.abort a) s = .next t ∧ (t.ring[a]).halt = 4 ∧
    (t.ring[a]).taken = [] ∧ (t.ring[a]).wait = none ∧ (∀ b : Arm, b ≠ a → t.ring[b] = s.ring[b]) ∧
    reg t .arm a (Reg.CNT + 20) = reg s .arm a (Reg.CNT + 20) + 1 ∧
    Reported a r.seq r.op .aborted r.idx 0 (regKey .arm a Reg.CHG :: eventKeys .arm a 5) s t ∧
    t = { s with ring := t.ring, tds := t.tds, regs := t.regs, link := t.link } := by
  have acts : staged .arm a (writeArmCmd a 4) s = chg .arm a (endRecords 4 a (haltNoted 4 a s)) := by
    rw [staged_cmdAbort wf alone, haltOne_running running rfl, haltNoted]
  have wfHalt : regsWf (haltNoted 4 a s).regs = true := regsWf_irq wf
  have wf' : regsWf (endRecords 4 a (haltNoted 4 a s)).regs = true := (endRecords_inCycle .refl).regs wfHalt
  have one' : ((haltNoted 4 a s).ring[a]).taken = [r] := by rw [haltNoted_at]; exact one
  obtain ⟨taken, wait, others⟩ := endRecords_at (cause := 4) one'
  have counts := endRecords_counts (cause := 4) one' wfHalt
  have reported : Reported a r.seq r.op .aborted r.idx 0 (eventKeys .arm a 5) s (endRecords 4 a (haltNoted 4 a s)) := by
    refine (endRecords_reported (cause := 4) one' wfHalt).after ?_ (mem_of_ringless ringless_haltNoted) (newReport_haltNoted wf) ?_
    · rw [haltNoted_at]
    · exact regsBut_of_kept wf fun k hk => regKept_haltNoted fun e => hk (by simp [e, eventKeys])
  refine ⟨_, (run_on on).trans (congrArg _ acts), ?_, taken, wait, fun b hb => (others b hb).trans ?_, ?_, reported.chg wf',
    eq_of_aborting ((aborting_of_ringless ringless_chg).trans (aborting_endRecords.trans (aborting_of_ringless ringless_haltNoted)))⟩
  · exact endRecords_halt.trans (congrArg ArmRing.halt haltNoted_at)
  · rw [haltNoted_ring, vmod_other hb]
  · rw [(regKept_chg (regKey_apart (by decide))).reg wf', counts, (regKept_haltNoted (regKey_apart (by decide))).reg wf]

end Abort

-- A block reset of the page (R567)

/-- A halt by `ABORT` keeps the cause of a ring that is halted (R223). -/
theorem haltOne_abort_halt : ((haltOne 4 a s).ring[a]).halt = if (s.ring[a]).halt = 0 then 4 else (s.ring[a]).halt := by
  split
  · next h => rw [haltOne_running h rfl, endRecords_halt, ← haltNoted, haltNoted_at]
  · next h => rw [haltOne_halted h rfl, endRecords_halt]

theorem aborting_setFlag {b : Nat} {x : Bool} : aborting (setFlag .arm a off b x s) = aborting s := rfl

theorem staged_eq {p : Pg} {i : Nat} {f : State → State} : staged p i f s = f s ∨ staged p i f s = chg p i (f s) := by
  unfold staged
  split
  · exact .inr rfl
  · exact .inl rfl

theorem exec_armSrst (on : s.clk.on = true) (alone : (s.ring[a]).coupled = none) : ∃ t, exec (.armSrst a) s = .next t ∧
    (t.ring[a]).srst = true ∧ (t.ring[a]).halt ≠ 0 ∧ ((s.ring[a]).halt = 0 → (t.ring[a]).halt = 4) ∧ t.mem = s.mem ∧
    t = { s with ring := t.ring, tds := t.tds, regs := t.regs, link := t.link } := by
  have ring : (armReset a s).ring[a] = { (haltOne 4 a s).ring[a] with srst := true } := by
    rw [armReset, modRing_at, setFlag_ring, cmdAbort, haltRing_alone alone]
  have frame : aborting (armReset a s) = aborting s := by
    rw [armReset, cmdAbort, haltRing_alone alone]
    exact (aborting_of_ringless ringless_modRing).trans (aborting_setFlag.trans aborting_haltOne)
  obtain ⟨t, acts, same⟩ : ∃ t, exec (.armSrst a) s = .next t ∧ (t.ring = (armReset a s).ring ∧ aborting t = aborting (armReset a s)) := by
    obtain e | e := staged_eq (p := .arm) (i := a) (f := armReset a) (s := s)
    · exact ⟨_, (run_on on).trans (congrArg _ e), rfl, rfl⟩
    · exact ⟨_, (run_on on).trans (congrArg _ e), rfl, aborting_of_ringless ringless_chg⟩
  obtain ⟨sameRing, sameRest⟩ := same
  have rest := sameRest.trans frame
  refine ⟨t, acts, ?_, ?_, fun running => ?_, mem_of_aborting rest, eq_of_aborting rest⟩
  · rw [sameRing, ring]
  · rw [sameRing, ring, haltOne_abort_halt]
    split
    · decide
    · next h => exact h
  · rw [sameRing, ring, haltOne_abort_halt, if_pos running]

/-- A malformed record of an arm at rest is reported with the reset; nothing of it stays in registers (R223). -/
theorem settleBad_apart : (settleBad a s).regs = s.regs ∧ unlogged (settleBad a s) = unlogged s ∧
    ((settleBad a s).ring[a]).srst = (s.ring[a]).srst := by
  unfold settleBad
  split
  · split
    · refine ⟨rfl, rfl, ?_⟩
      rw [writeReport, modRing_at, modRing_at]
    · exact ⟨rfl, rfl, rfl⟩
  · exact ⟨rfl, rfl, rfl⟩

theorem settleBad_reports (taken : (s.ring[a]).taken = []) (rests : restsAt s a = true) :
    ((settleBad a s).ring[a]).due.length = (s.ring[a]).due.length + b2n (s.ring[a]).bad.isSome := by
  match bad : (s.ring[a]).bad with
  | some (r, c) =>
    rw [settleBad_atRest bad taken rests, modRing_at, List.length_append]
    rfl
  | none =>
    rw [settleBad_none bad]
    rfl

/-- The offsets of an arm's page that its reset leaves alone: its indices (R567). -/
def ringIndices : List Nat := [Reg.ARM_WR_IDX, Reg.ARM_RD_IDX, Reg.ARM_RPT_WR, Reg.ARM_RPT_RD]

/-- The offsets that it returns to their reset values. -/
def armResetOffs : List Nat := (resetOffs .arm).filter fun o => !ringIndices.contains o

/-- The page's registers at their reset values, but for `SRST`, which reads 1 (R567). -/
def armPageReset (a : Arm) (s : State) : State := setFlag .arm a Reg.CTRL 1 true (resetRegs .arm a ringIndices s)

theorem resetRegs_arm (wf : regsWf s.regs = true) : regsWf (resetRegs .arm a ringIndices s).regs = true ∧
    reg (resetRegs .arm a ringIndices s) .arm a off = if off ∈ armResetOffs then regReset .arm a off else reg s .arm a off :=
  forEach_setReg_reg _ wf

theorem armPageReset_srst (wf : regsWf s.regs = true) : flag (armPageReset a s) .arm a Reg.CTRL 1 = true :=
  flag_setFlag (resetRegs_arm (off := 0) wf).1 (by decide)

theorem armPageReset_reg (wf : regsWf s.regs = true) (h : off ≠ Reg.CTRL) :
    reg (armPageReset a s) .arm a off = if off ∈ armResetOffs then regReset .arm a off else reg s .arm a off := by
  obtain ⟨wf', same⟩ := resetRegs_arm (a := a) (off := off) wf
  rw [armPageReset, setFlag, setFld, reg_setReg_other wf' h, same]

theorem armPageReset_indices (wf : regsWf s.regs = true) : wrIdx (armPageReset a s) a = wrIdx s a ∧ rdIdx (armPageReset a s) a = rdIdx s a := by
  simp only [wrIdx, rdIdx, fld]
  rw [armPageReset_reg wf (by decide), armPageReset_reg wf (by decide), if_neg (by decide), if_neg (by decide)]
  exact ⟨rfl, rfl⟩

theorem unlogged_resetRegs {keep : List Nat} : unlogged (resetRegs .arm a keep s) = unlogged s :=
  forEach_preserves (fun _ _ => unlogged_setReg) _ _

theorem unlogged_armPageReset : unlogged (armPageReset a s) = unlogged s := by
  rw [armPageReset, setFlag, setFld, unlogged_setReg, unlogged_resetRegs]

theorem resetRegs_ring {p : Pg} {i : Nat} {keep : List Nat} : (resetRegs p i keep s).ring = s.ring := (congrArg State.ring quiet_resetRegs :)

theorem armPageReset_ring : (armPageReset a s).ring = s.ring := by
  rw [armPageReset, setFlag_ring, resetRegs_ring]

/-- The ring after a reset of its page: empty and running (R567). -/
def freshRing (g : ArmRing) : ArmRing := { g with
  halt := 0, bad := none, ovr := 0x3F800000, starved := false, stopAt := none, wait := none, rdv := false }

theorem armResetDone_done (srst : (s.ring[a]).srst = true) (halted : (s.ring[a]).halt ≠ 0) (rests : restsAt s a = true)
    (taken : (s.ring[a]).taken = []) :
    armResetDone a s = modRing a freshRing (armPageReset a (flushRing a (settleBad a s))) := by
  refine if_pos ?_
  rw [srst, rests, taken, bne_iff_ne.mpr halted]
  rfl

theorem exec_armSrstCompletion (on : s.clk.on = true) (wf : regsWf s.regs = true) (srst : (s.ring[a]).srst = true)
    (halted : (s.ring[a]).halt ≠ 0) (rests : restsAt s a = true) (taken : (s.ring[a]).taken = []) :
    ∃ t, exec (.armSrstCompletion a) s = .next t ∧ (t.ring[a]).halt = 0 ∧ (t.ring[a]).bad = none ∧ (t.ring[a]).srst = true ∧
      flag t .arm a Reg.CTRL 1 = true ∧ (t.ring[a]).ovr = 0x3F800000 ∧ unconsumed t a = 0 ∧ rdIdx t a = wrIdx s a ∧
      (t.ring[a]).due.length = (s.ring[a]).due.length + b2n (s.ring[a]).bad.isSome + 1 ∧
      (∃ q : Report, (t.ring[a]).due.getLast? = some q ∧ q.status = 7 ∧ q.info = unconsumed s a) ∧
      fld t .arm a Reg.MODE 1 0 = 0 ∧ reg t .arm a Reg.IRQ_STAT = 0 ∧ t.mem = s.mem ∧ t = { s with ring := t.ring, regs := t.regs } := by
  obtain ⟨regs, rest, kept⟩ := settleBad_apart (a := a) (s := s)
  have reports := settleBad_reports taken rests
  have acts := armResetDone_done srst halted rests taken
  generalize settleBad a s = u at regs rest kept reports acts
  have wfU : regsWf u.regs = true := regs ▸ wf
  have wfF : regsWf (flushRing a u).regs = true := regsWf_setReg wfU
  have wrU : wrIdx u a = wrIdx s a := by rw [wrIdx, fld, reg, regs]; rfl
  have rdU : rdIdx u a = rdIdx s a := by rw [rdIdx, fld, reg, regs]; rfl
  obtain ⟨wrF, rdF⟩ := flushRing_indices (a := a) wfU
  obtain ⟨wrP, rdP⟩ := armPageReset_indices (a := a) wfF
  have ringP : (armPageReset a (flushRing a u)).ring[a] = { u.ring[a] with due := (u.ring[a]).due ++ [flushReport u a] } := by
    rw [armPageReset_ring, flushRing_ring wfU, vmod_same]
  have frameP : unlogged (armPageReset a (flushRing a u)) = unlogged s := unlogged_armPageReset.trans rest
  have srstP := armPageReset_srst (a := a) wfF
  have modeP := armPageReset_reg (a := a) (off := Reg.MODE) wfF (by decide)
  have irqP := armPageReset_reg (a := a) (off := Reg.IRQ_STAT) wfF (by decide)
  rw [if_pos (by decide), show regReset .arm a Reg.MODE = 0 from rfl] at modeP
  rw [if_pos (by decide), show regReset .arm a Reg.IRQ_STAT = 0 from rfl] at irqP
  generalize armPageReset a (flushRing a u) = w at wrP rdP ringP frameP srstP modeP irqP acts
  have ring : (modRing a freshRing w).ring[a] = freshRing { u.ring[a] with due := (u.ring[a]).due ++ [flushReport u a] } := by
    rw [modRing_at, ringP]
  refine ⟨_, (run_on on).trans (congrArg _ acts), ?_, ?_, ?_, srstP, ?_, unconsumed_eq_zero ?_, ?_, ?_, ?_, congrArg (field · 1 0) modeP,
    irqP, (congrArg State.mem frameP :), eq_of_unlogged frameP⟩
  · rw [ring]; rfl
  · rw [ring]; rfl
  · rw [ring]; exact kept.trans srst
  · rw [ring]; rfl
  · exact rdP.trans (rdF.trans (wrP.trans wrF).symm)
  · exact rdP.trans (rdF.trans wrU)
  · rw [ring, ← reports]; exact List.length_append
  · refine ⟨flushReport u a, ?_, rfl, ?_⟩
    · rw [ring]; exact List.getLast?_concat
    · rw [unconsumed, ← wrU, ← rdU]; rfl

/-- Settles O50, command by command. -/
theorem armCommands : Obligations.ArmCommands := by
  intro s a on wf _
  refine ⟨fun v => exec_wrIdx_taken on wf, fun v => exec_wrIdx_refused on wf, fun v => exec_rptRd_taken on wf,
    fun halted some => exec_flush on wf halted some, fun running => ?_, fun five noLine => ?_, fun halted line => exec_resume on wf halted line,
    fun r running alone one => exec_abort_running on wf alone one running, fun r halted alone one => exec_abort_halted on wf alone one halted,
    fun alone _ => exec_armSrst on alone, fun srst halted rests taken => exec_armSrstCompletion on wf srst halted rests taken⟩
  · exact exec_resume_refused on wf (by decide) fun u ring _ => cmdResume_running (by rw [ring]; exact running)
  · exact exec_resume_refused on wf (by decide) fun u ring line => cmdResume_noLine (by rw [ring]; exact five) (by rw [line]; exact noLine)

end Sys2Proof.Machine

/-! SUPPORT. Records that complete: motion records and waits (R212, R229). -/

namespace Sys2Proof.Machine

variable {s : State} {a b : Arm} {k : Nat} {r : RingRec}

-- A ring without taken records

theorem actInline_none (taken : (s.ring[a]).taken = []) : actInline a k s = s := by
  cases k with
  | zero => rfl
  | succ k => rw [actInline, taken]; rfl

theorem startWait_none (taken : (s.ring[a]).taken = []) : startWait a s = s := by
  have none : nextStop s a = none := by rw [nextStop, taken]; rfl
  unfold startWait
  rw [none]
  exact ite_self s

/-- Nothing follows a completion after which no record is left. -/
theorem afterCompletion_none (taken : (s.ring[a]).taken = []) (bad : (s.ring[a]).bad = none) : afterCompletion a s = s := by
  rw [afterCompletion, actInline_none taken, startWait_none taken, settleBad_none bad]

-- A record that completes (R229)

/-- The ring after a record is done that is neither a via nor a stop point with an action of its own. -/
def doneRing (s : State) (a : Arm) (r : RingRec) (g : ArmRing) : ArmRing := { g with
  taken := g.taken.erase r, due := g.due ++ [newReport s r.seq r.op .done 0 r.idx 0], wait := none, rdv := false
  mark := if r.isRdv || r.isWait then g.mark else syncNs s
  onPath := g.onPath.erase r.idx, ends := g.ends.filter fun x => x.1 != r.idx, blends := g.blends.filter fun x => x.1 != r.idx
  lastRef := if r.isMotion && !(g.blends.any fun x => x.1 == r.idx) then some (targetRef s a r) else g.lastRef
  stopAt := if r.isVia ∧ g.stopAt = some r then none else g.stopAt }

theorem modRing_congr {f g : ArmRing → ArmRing} (h : f s.ring[a] = g s.ring[a]) : modRing a f s = modRing a g s :=
  congrArg (fun v => { s with ring := v }) (vmod_congr h)

/-- Motion records, waits and rendezvous act on nothing but the ring as they complete. -/
theorem finishRecord_done (via : r.isVia = false) (plain : stopAction a r s = s) :
    finishRecord a r s = modRing a (doneRing s a r) s := by
  simp only [finishRecord, via, Bool.false_eq_true, if_false, plain]
  rw [show countIf (RptStatus.done == RptStatus.clipped) .arm a 7 (report a r .done 0 0 s) = report a r .done 0 0 s from rfl,
    passRecord, report_eq, modRing_modRing, modRing_at]
  exact modRing_congr rfl

section Done
variable (one : (s.ring[a]).taken = [r]) (bad : (s.ring[a]).bad = none)
include one

theorem doneRing_taken : (doneRing s a r s.ring[a]).taken = [] := by
  rw [doneRing, one, List.erase_cons_head]

omit one in
theorem doneRing_reported : Reported a r.seq r.op .done r.idx 0 [] s (modRing a (doneRing s a r) s) :=
  ⟨by rw [modRing_at]; rfl, rfl, fun _ _ => rfl⟩

include bad

theorem completeRecord_one (via : r.isVia = false) (plain : stopAction a r s = s) :
    completeRecord a r s = modRing a (doneRing s a r) s := by
  rw [completeRecord, finishRecord_done via plain, afterCompletion_none]
  · rw [modRing_at, doneRing_taken one]
  · rw [modRing_at]
    exact bad

end Done

-- The record in progress (R205)

theorem nextStop_one (one : (s.ring[a]).taken = [r]) (stops : r.isInline = false) : nextStop s a = some r := by
  rw [nextStop, one, List.find?_cons_of_pos (by rw [stops]; rfl)]

/-- A motion record is neither inline nor waits, and acts on nothing as it completes. -/
theorem motion_plain (h : r.isMotion = true) : r.isInline = false ∧ r.isRdv = false ∧ r.isWait = false ∧ stopAction a r s = s := by
  simp only [RingRec.isMotion, decide_eq_true_eq] at h
  have codes : r.code = 1 ∨ r.code = 2 ∨ r.code = 3 ∨ r.code = 4 := by omega
  obtain h | h | h | h := codes <;> simp [RingRec.isInline, RingRec.isRdv, RingRec.isWait, stopAction, h]

theorem recordCompletion_motion (one : (s.ring[a]).taken = [r]) (running : (s.ring[a]).halt = 0) (motion : r.isMotion = true) :
    recordCompletion a s = if reached s a r = false then s else completeRecord a r s := by
  obtain ⟨stops, rdv, wait, -⟩ := motion_plain (a := a) (s := s) motion
  have runs : ringRuns s a = true := by rw [ringRuns, running]; rfl
  have ends : completes s a r = reached s a r := if_pos motion
  rw [recordCompletion, if_pos runs, nextStop_one one stops]
  simp only [rdv, wait, ends, Bool.false_eq_true, false_or]

/-- R229: a motion record completes at its end point. -/
theorem exec_recordCompletion (on : s.clk.on = true) (one : (s.ring[a]).taken = [r]) (bad : (s.ring[a]).bad = none)
    (running : (s.ring[a]).halt = 0) (motion : r.isMotion = true) (via : r.code ≠ 4) (h : reached s a r = true) :
    ∃ t, exec (.recordCompletion a) s = .next t ∧ (t.ring[a]).taken = [] ∧ (t.ring[a]).mark = syncNs s ∧
      (t.ring[a]).onPath = (s.ring[a]).onPath.erase r.idx ∧ (t.ring[a]).path = (s.ring[a]).path ∧
      (((s.ring[a]).blends.any fun x => x.1 == r.idx) = false → (t.ring[a]).lastRef = some (targetRef s a r)) ∧
      (∀ b : Arm, b ≠ a → t.ring[b] = s.ring[b]) ∧ Reported a r.seq r.op .done r.idx 0 [] s t ∧ t = { s with ring := t.ring } := by
  obtain ⟨-, rdv, wait, plain⟩ := motion_plain (a := a) (s := s) motion
  have acts : recordCompletion a s = modRing a (doneRing s a r) s := by
    rw [recordCompletion_motion one running motion, h, if_neg (by decide), completeRecord_one one bad (beq_eq_false_iff_ne.mpr via) plain]
  refine ⟨_, (run_on on).trans (congrArg _ acts), ?_, ?_, ?_, ?_, fun ends => ?_, fun b hb => modRing_apart hb, doneRing_reported, rfl⟩
  · rw [modRing_at, doneRing_taken one]
  · rw [modRing_at, doneRing, rdv, wait]; rfl
  · rw [modRing_at]; rfl
  · rw [modRing_at]; rfl
  · rw [modRing_at, doneRing, motion, ends]; rfl

-- Waits (R212)

theorem waitOf_one {t0 : Nat} {z : BitVec 16} (one : (s.ring[a]).taken = [r]) (stops : r.isInline = false)
    (wait : (s.ring[a]).wait = some (t0, z)) : waitOf s a = some (r, t0, z) := by
  simp only [waitOf, wait, nextStop_one one stops]

theorem wait_plain (h : r.code = 0x10 ∨ r.code = 0x11 ∨ r.code = 0x12) :
    r.isInline = false ∧ r.isVia = false ∧ r.isMotion = false ∧ r.isWait = true ∧ stopAction a r s = s := by
  obtain h | h | h := h <;> simp [RingRec.isInline, RingRec.isVia, RingRec.isMotion, RingRec.isWait, stopAction, h]

/-- What a wait leaves as it ends: its report, and the ring without it. -/
theorem exec_waitEnd {x : Instr} (acts : exec x s = .next (completeRecord a r s)) (h : r.code = 0x10 ∨ r.code = 0x11 ∨ r.code = 0x12)
    (one : (s.ring[a]).taken = [r]) (bad : (s.ring[a]).bad = none) : ∃ t, exec x s = .next t ∧ (t.ring[a]).taken = [] ∧
      (t.ring[a]).wait = none ∧ (t.ring[a]).rdv = false ∧ (t.ring[a]).halt = (s.ring[a]).halt ∧
      (t.ring[a]).lastRef = (s.ring[a]).lastRef ∧ (∀ b : Arm, b ≠ a → t.ring[b] = s.ring[b]) ∧
      Reported a r.seq r.op .done r.idx 0 [] s t ∧ t = { s with ring := t.ring } := by
  obtain ⟨-, via, motion, -, plain⟩ := wait_plain (a := a) (s := s) h
  rw [completeRecord_one one bad via plain] at acts
  refine ⟨_, acts, ?_, ?_, ?_, ?_, ?_, fun b hb => modRing_apart hb, doneRing_reported, rfl⟩
  · rw [modRing_at, doneRing_taken one]
  · rw [modRing_at]; rfl
  · rw [modRing_at]; rfl
  · rw [modRing_at]; rfl
  · rw [modRing_at, doneRing, motion]; rfl

section Ends
variable {t0 : Nat} {z : BitVec 16} (wait : waitOf s a = some (r, t0, z))
include wait

theorem waitTimeEnd_ends (code : r.code = 0x10) (passed : (if r.fl % 2 = 1 then r.n 8 8 else t0 + r.n 8 8) ≤ nsOf s) :
    waitTimeEnd a s = completeRecord a r s := by
  simp only [waitTimeEnd, wait]
  exact if_pos ⟨code, passed⟩

theorem waitPhaseEnd_ends (h : r.code = 0x11 ∧ r.i64 8 ≤ linePhase s ∧ s.line.rev = false ∧ s.line.valid = true ∧ lineEn s = true) :
    waitPhaseEnd a s = completeRecord a r s := by
  simp only [waitPhaseEnd, wait]
  exact if_pos h

theorem waitInputEnd_input (code : r.code = 0x12) (kind : r.n 8 1 = 0) (lt : r.n 9 1 < 16)
    (on : s.saf.inSync.getLsbD (r.n 9 1) = (r.n 10 1 == 1)) : waitInputEnd a s = completeRecord a r s := by
  simp only [waitInputEnd, wait, kind, if_true, Nat.mod_eq_of_lt lt]
  exact if_pos ⟨code, beq_iff_eq.mpr on⟩

theorem waitInputEnd_latch (code : r.code = 0x12) (kind : r.n 8 1 = 1) (latched : (s.enc[fin16 (r.n 9 1)]).latchSeq ≠ z) :
    waitInputEnd a s = completeRecord a r s := by
  have same : fin16 (r.n 9 1 % 16) = fin16 (r.n 9 1) := Fin.ext (Nat.mod_mod _ _)
  simp only [waitInputEnd, wait, kind, same, one_ne_zero, if_false, if_true]
  exact if_pos ⟨code, bne_iff_ne.mpr latched⟩

theorem waitInputEnd_flag (code : r.code = 0x12) (kind : r.n 8 1 = 2) (lt : r.n 9 1 < 16)
    (on : flag s .arm a Reg.ARM_HFLAG (r.n 9 1) = (r.n 10 1 == 1)) : waitInputEnd a s = completeRecord a r s := by
  simp only [waitInputEnd, wait, kind, Nat.mod_eq_of_lt lt, OfNat.ofNat_ne_zero, OfNat.ofNat_ne_one, if_false]
  exact if_pos ⟨code, beq_iff_eq.mpr on⟩

end Ends

end Sys2Proof.Machine

/-! SUPPORT. Halts that leave the records taken as they are, and waits that run out of time (R214, R222, R223). -/

namespace Sys2Proof.Machine

variable {s t u : State} {a b : Arm} {k cause : Nat} {r : RingRec}

-- Halts for a malformed record or a time-out (R223)

/-- What holds before a loop and outlasts each of its steps holds after it. -/
theorem forEach_holds {α : Type} {P : State → Prop} {f : α → State → State} (hf : ∀ x u, P u → P (f x u)) (l : List α) (h : P s) :
    P (forEach l f s) := by
  unfold forEach
  induction l generalizing s with
  | nil => exact h
  | cons x l ih => exact ih (hf x s h)

/-- A ring that halts with its records taken, or keeps its cause. -/
def pausedRing (cause : Nat) (g : ArmRing) : ArmRing :=
  if g.halt ≠ 0 then g else if cause = 1 then { g with halt := cause } else { g with halt := cause, wait := none, rdv := false }

theorem modRing_self {f : ArmRing → ArmRing} (h : f s.ring[a] = s.ring[a]) : modRing a f s = s := by
  have same : vmod s.ring a f = s.ring := by rw [vmod, h, vset_self]
  rw [modRing, same]

section Pause
variable (pauses : abortsTaken cause = false)
include pauses

theorem haltOne_kept (h : (s.ring[a]).halt ≠ 0) : haltOne cause a s = s := by
  rw [haltOne, if_pos h, if_neg (by rw [pauses]; decide)]

theorem haltOne_malformed (h : (s.ring[a]).halt = 0) (one : cause = 1) : haltOne cause a s = haltNoted cause a s := by
  rw [haltOne, if_neg (not_not.mpr h), if_neg (by rw [pauses]; decide), if_pos one, haltNoted]

theorem haltOne_paused (h : (s.ring[a]).halt = 0) (ne : cause ≠ 1) :
    haltOne cause a s = modRing a (fun g => { g with wait := none, rdv := false }) (haltNoted cause a s) := by
  rw [haltOne, if_neg (not_not.mpr h), if_neg (by rw [pauses]; decide), if_neg ne, haltNoted]

theorem haltOne_ring : (haltOne cause a s).ring = vmod s.ring a (pausedRing cause) := by
  by_cases h : (s.ring[a]).halt = 0
  · by_cases one : cause = 1
    · rw [haltOne_malformed pauses h one, haltNoted_ring]
      exact vmod_congr (by rw [pausedRing, if_neg (not_not.mpr h), if_pos one])
    · rw [haltOne_paused pauses h one, modRing_ring, haltNoted_ring, vmod_vmod]
      exact vmod_congr (by rw [pausedRing, if_neg (not_not.mpr h), if_neg one])
  · rw [haltOne_kept pauses h]
    exact (congrArg State.ring (modRing_self (f := pausedRing cause) (if_pos h))).symm

theorem ringless_haltOne : ringless (haltOne cause a s) = ringless s := by
  by_cases h : (s.ring[a]).halt = 0
  · by_cases one : cause = 1
    · rw [haltOne_malformed pauses h one, ringless_haltNoted]
    · rw [haltOne_paused pauses h one, ringless_modRing, ringless_haltNoted]
  · rw [haltOne_kept pauses h]

theorem regKept_haltOne_pauses (hk : k ≠ regKey .arm a Reg.IRQ_STAT) : RegKept k s (haltOne cause a s) := by
  by_cases h : (s.ring[a]).halt = 0
  · by_cases one : cause = 1
    · rw [haltOne_malformed pauses h one]
      exact regKept_haltNoted hk
    · rw [haltOne_paused pauses h one]
      exact (regKept_haltNoted hk).trans regKept_modRing
  · rw [haltOne_kept pauses h]
    exact .refl

theorem ringless_haltRing : ringless (haltRing cause a s) = ringless s :=
  forEach_preserves (fun _ _ => ringless_haltOne pauses) _ _

/-- A ring without records that does not wait stays so as its coupling halts. -/
theorem haltRing_emptied (h : (s.ring[b]).taken = [] ∧ (s.ring[b]).wait = none ∧ (s.ring[b]).rdv = false) :
    ((haltRing cause a s).ring[b]).taken = [] ∧ ((haltRing cause a s).ring[b]).wait = none ∧ ((haltRing cause a s).ring[b]).rdv = false := by
  refine forEach_holds (P := fun u => (u.ring[b]).taken = [] ∧ (u.ring[b]).wait = none ∧ (u.ring[b]).rdv = false)
    (fun x u hu => ?_) _ h
  rw [haltOne_ring pauses]
  by_cases e : b = x
  · subst e
    rw [vmod_same, pausedRing]
    split
    · exact hu
    · split
      · exact hu
      · exact ⟨hu.1, rfl, rfl⟩
  · rw [vmod_other e]
    exact hu

end Pause

-- WAIT_TIMEOUT (R214)

/-- The wait is over, counted and reported. -/
def timedOut (a : Arm) (r : RingRec) (s : State) : State :=
  report a r .timeout 0 0 (count .arm a 3 (modRing a (fun g => { g with wait := none, rdv := false }) s))

theorem waitTimeout_runsOut {t0 : Nat} {z : BitVec 16} (wait : waitOf s a = some (r, t0, z))
    (code : r.code = 0x11 ∨ r.code = 0x12 ∨ r.code = 0x50) (limit : r.n 16 8 ≠ 0) (passed : t0 + r.n 16 8 ≤ nsOf s) :
    waitTimeout a s = if r.code ≠ 0x50 ∧ r.fl % 2 = 1 then afterCompletion a (timedOut a r s) else haltRing 2 a (timedOut a r s) := by
  have runsOut : (r.code = 0x11 ∨ r.code = 0x12 ∨ r.isRdv = true) ∧ r.n 16 8 ≠ 0 ∧ t0 + r.n 16 8 ≤ nsOf s := by
    simp only [RingRec.isRdv, beq_iff_eq]
    exact ⟨code, limit, passed⟩
  simp only [waitTimeout, wait, if_pos runsOut]
  refine if_congr ?_ rfl rfl
  simp [RingRec.isRdv]

theorem timedOut_ring (wf : regsWf s.regs = true) : (timedOut a r s).ring = vmod s.ring a fun g => { g with
    wait := none, rdv := false, taken := g.taken.erase r, due := g.due ++ [newReport s r.seq r.op .timeout 0 r.idx 0] } := by
  have same : newReport (count .arm a 3 (modRing a (fun g => { g with wait := none, rdv := false }) s)) = newReport s :=
    newReport_ringless ringless_count ((regKept_count (regKey_tb_notMem (by decide))).reg wf)
  rw [timedOut, report_eq, modRing_ring, count_ring, modRing_ring, vmod_vmod, same]

theorem ringless_timedOut : ringless (timedOut a r s) = ringless s := ringless_report.trans (ringless_count.trans ringless_modRing)

theorem regKept_timedOut (h : k ∉ eventKeys .arm a 3) : RegKept k s (timedOut a r s) :=
  (regKept_modRing.trans (regKept_count h)).trans regKept_report

theorem timedOut_counts (wf : regsWf s.regs = true) :
    reg (timedOut a r s) .arm a (Reg.CNT + 12) = reg s .arm a (Reg.CNT + 12) + 1 := by
  have before : RegKept (regKey .arm a (Reg.CNT + 4 * 3)) s (modRing a (fun g => { g with wait := none, rdv := false }) s) := regKept_modRing
  rw [timedOut, regKept_report.reg (regsWf_count (before.wf wf)), show Reg.CNT + 12 = Reg.CNT + 4 * 3 from rfl,
    count_reg (before.wf wf) (by decide), before.reg wf]

section TimedOut
variable (one : (s.ring[a]).taken = [r]) (wf : regsWf s.regs = true)
include one wf

theorem timedOut_at : (timedOut a r s).ring[a] = { s.ring[a] with
    wait := none, rdv := false, taken := [], due := (s.ring[a]).due ++ [newReport s r.seq r.op .timeout 0 r.idx 0] } := by
  rw [timedOut_ring wf, vmod_same, one, List.erase_cons_head]

omit one in
theorem timedOut_reported : Reported a r.seq r.op .timeout r.idx 0 (eventKeys .arm a 3) s (timedOut a r s) := by
  refine ⟨?_, mem_of_ringless ringless_timedOut, regsBut_of_kept wf fun k => regKept_timedOut⟩
  rw [timedOut_ring wf, vmod_same]

/-- A lone arm that halts for a time-out: its report and its count stand. -/
theorem haltOne_timedOut : reg (haltOne 2 a (timedOut a r s)) .arm a (Reg.CNT + 12) = reg s .arm a (Reg.CNT + 12) + 1 ∧
    Reported a r.seq r.op .timeout r.idx 0 (eventKeys .arm a 3) s (haltOne 2 a (timedOut a r s)) ∧
    ((s.ring[a]).halt = 0 → ((haltOne 2 a (timedOut a r s)).ring[a]).halt = 2) := by
  have wf' : regsWf (timedOut a r s).regs = true := (regKept_timedOut (k := regKey .tb 0 0) (regKey_tb_notMem (by decide))).wf wf
  obtain ⟨due, mem, regs⟩ := timedOut_reported (a := a) (r := r) wf
  have ring : (haltOne 2 a (timedOut a r s)).ring[a] = pausedRing 2 (timedOut a r s).ring[a] := by rw [haltOne_ring rfl, vmod_same]
  have kept {k : Nat} (h : k ≠ regKey .arm a Reg.IRQ_STAT) := regKept_haltOne_pauses (cause := 2) (a := a) (s := timedOut a r s) rfl h
  refine ⟨?_, ⟨?_, ?_, fun k hk => ?_⟩, fun running => ?_⟩
  · rw [(kept (regKey_apart (by decide))).reg wf', timedOut_counts wf]
  · rw [ring, pausedRing, ← due]
    split
    · rfl
    · rfl
  · exact (mem_of_ringless (ringless_haltOne rfl)).trans mem
  · rw [(kept fun e => hk (by simp [e, eventKeys])).same wf', regs k hk]
  · have still : ((timedOut a r s).ring[a]).halt = 0 := by rw [timedOut_at one wf]; exact running
    rw [ring, pausedRing, if_neg (not_not.mpr still)]
    rfl

end TimedOut

/-- R214: a wait that has run out of time. -/
theorem exec_waitTimeout (on : s.clk.on = true) (wf : regsWf s.regs = true) (one : (s.ring[a]).taken = [r])
    (bad : (s.ring[a]).bad = none) {t0 : Nat} {z : BitVec 16} (wait : (s.ring[a]).wait = some (t0, z))
    (code : r.code = 0x11 ∨ r.code = 0x12 ∨ r.code = 0x50) (limit : r.n 16 8 ≠ 0) (passed : t0 + r.n 16 8 ≤ nsOf s) :
    ∃ t, exec (.waitTimeout a) s = .next t ∧ (t.ring[a]).taken = [] ∧ (t.ring[a]).wait = none ∧ (t.ring[a]).rdv = false ∧
      (r.code ≠ 0x50 → r.fl % 2 = 1 → (t.ring[a]).halt = (s.ring[a]).halt) ∧
      (r.code = 0x50 ∨ r.fl % 2 = 0 → (s.ring[a]).coupled = none → (s.ring[a]).halt = 0 → (t.ring[a]).halt = 2) ∧
      ((s.ring[a]).coupled = none → reg t .arm a (Reg.CNT + 12) = reg s .arm a (Reg.CNT + 12) + 1 ∧
        Reported a r.seq r.op .timeout r.idx 0 (eventKeys .arm a 3) s t) ∧
      t = { s with ring := t.ring, regs := t.regs, link := t.link } := by
  have stops : r.isInline = false := by obtain h | h | h := code <;> simp [RingRec.isInline, h]
  have acts := waitTimeout_runsOut (waitOf_one one stops wait) code limit passed
  have ring := timedOut_at one wf
  by_cases goesOn : r.code ≠ 0x50 ∧ r.fl % 2 = 1
  · rw [if_pos goesOn, afterCompletion_none (by rw [ring]) (by rw [ring]; exact bad)] at acts
    refine ⟨_, (run_on on).trans (congrArg _ acts), ?_, ?_, ?_, fun _ _ => ?_, fun halts => ?_,
      fun _ => ⟨timedOut_counts wf, timedOut_reported wf⟩, eq_of_ringless ringless_timedOut⟩
    · rw [ring]
    · rw [ring]
    · rw [ring]
    · rw [ring]
    · exact absurd goesOn (by omega)
  · rw [if_neg goesOn] at acts
    have alone (h : (s.ring[a]).coupled = none) : haltRing 2 a (timedOut a r s) = haltOne 2 a (timedOut a r s) :=
      haltRing_alone (by rw [ring]; exact h)
    obtain ⟨taken, noWait, noRdv⟩ :=
      haltRing_emptied (cause := 2) (a := a) (b := a) (s := timedOut a r s) rfl (by rw [ring]; exact ⟨rfl, rfl, rfl⟩)
    obtain ⟨counts, reported, halts⟩ := haltOne_timedOut one wf
    refine ⟨_, (run_on on).trans (congrArg _ acts), taken, noWait, noRdv, fun code continues => absurd ⟨code, continues⟩ goesOn,
      fun _ single running => ?_, fun single => ?_, eq_of_ringless ((ringless_haltRing rfl).trans ringless_timedOut)⟩
    · rw [alone single]
      exact halts running
    · rw [alone single]
      exact ⟨counts, reported⟩

end Sys2Proof.Machine

/-! Rendezvous of two arms, and the couplings that they begin (R221, R222); the progress of an arm (O49). -/

namespace Sys2Proof.Machine

variable {s t u : State} {a b x y : Arm} {r q : RingRec} {m : BitVec 12}

-- The leader of a coupling (R222)

theorem allArms_pairwise : allArms.Pairwise (· < ·) := by decide

theorem mem_allArms : a ∈ allArms := by decide +revert

/-- The arms below the first of a mask are not in it. -/
theorem leader_le {l : Arm} (h : allArms.find? (fun d : Arm => m.getLsbD d.val) = some l) (ha : m.getLsbD a.val = true) : l ≤ a := by
  obtain ⟨_, before, after, split, none⟩ := List.find?_eq_some_iff_append.mp h
  have pw := allArms_pairwise
  have mem := mem_allArms (a := a)
  rw [split] at pw mem
  rw [List.mem_append, List.mem_cons] at mem
  obtain mem | rfl | mem := mem
  · exact absurd ha (by simpa using none a mem)
  · exact le_rfl
  · exact ((List.pairwise_cons.mp (List.pairwise_append.mp pw).2.1).1 a mem).le

/-- The leader is the arm of the coupling below which no bit is set. -/
theorem isLeader_iff : isLeader a m = true ↔ ∀ d : Arm, d < a → m.getLsbD d.val = false := by
  rw [isLeader, beq_iff_eq]
  constructor
  · intro h d hd
    have := congrArg (Nat.testBit · d.val) h
    simp only [Nat.testBit_mod_two_pow, Nat.zero_testBit, Fin.lt_def.mp hd, decide_true, Bool.true_and] at this
    rw [← BitVec.testBit_toNat, this]
  · intro h
    refine Nat.eq_of_testBit_eq fun j => ?_
    rw [Nat.testBit_mod_two_pow, Nat.zero_testBit]
    by_cases hj : j < a.val
    · rw [BitVec.testBit_toNat, h ⟨j, hj.trans a.isLt⟩ hj, Bool.and_false]
    · rw [decide_eq_false hj, Bool.false_and]

theorem find_leader (ha : m.getLsbD a.val = true) : ∃ l, allArms.find? (fun d : Arm => m.getLsbD d.val) = some l ∧
    (l = a ↔ isLeader a m = true) := by
  obtain ⟨l, found⟩ := Option.isSome_iff_exists.mp (List.find?_isSome (p := fun d : Arm => m.getLsbD d.val).mpr ⟨a, mem_allArms, ha⟩)
  refine ⟨l, found, ?_⟩
  rw [isLeader_iff]
  constructor
  · rintro rfl d hd
    exact Bool.eq_false_iff.mpr fun set => (leader_le found set).not_gt hd
  · intro lowest
    refine le_antisymm (leader_le found ha) (not_lt.mp fun lt => ?_)
    have set : m.getLsbD l.val = true := List.find?_some (p := fun d : Arm => m.getLsbD d.val) found
    rw [lowest l lt] at set
    exact nomatch set

/-- R222: `MODE` 1 begins a coupling, in which every arm but the leader keeps its pose relative to the leader's. -/
theorem newCoupling_begins {old : Option Coupling} (mode : r.fl % 4 = 1) (ha : m.getLsbD a.val = true) :
    ∃ c, newCoupling s a r m old = some c ∧ c.rid = BitVec.ofNat 16 (r.n 8 2) ∧ c.mask = m ∧ c.rel.isNone = isLeader a c.mask := by
  obtain ⟨l, found, leads⟩ := find_leader ha
  refine ⟨_, if_pos mode, rfl, rfl, ?_⟩
  simp only [found]
  split
  · next same => exact (leads.mp same).symm
  · next apart => exact (Bool.eq_false_iff.mpr fun h => apart (leads.mpr h)).symm

-- Two arms that meet (R221)

theorem sameRdv_self : sameRdv r r = true := by simp [sameRdv, sameRid]

theorem rdv_plain (h : r.code = 0x50) : r.isInline = false ∧ r.isVia = false ∧ stopAction a r s = s := by
  simp [RingRec.isInline, RingRec.isVia, stopAction, h]

theorem waitingRdv_one (rdv : (s.ring[a]).rdv = true) (one : (s.ring[a]).taken = [r]) (code : r.code = 0x50) : waitingRdv s a = some r := by
  rw [waitingRdv, rdv, if_pos rfl, nextStop_one one (rdv_plain (a := a) (s := s) code).1]

/-- What an arm does as the rendezvous of `r` is complete. -/
def meetRdv (r : RingRec) (m : BitVec 12) (b : Arm) (s : State) : State :=
  match waitingRdv s b with
  | some q => finishRecord b q (modRing b (fun g => { g with coupled := newCoupling s b r m g.coupled }) s)
  | none => s

/-- Its ring then. -/
def metRing (s : State) (r : RingRec) (m : BitVec 12) (b : Arm) (q : RingRec) (g : ArmRing) : ArmRing :=
  doneRing s b q { g with coupled := newCoupling s b r m g.coupled }

theorem meetRdv_one (rdv : (s.ring[b]).rdv = true) (one : (s.ring[b]).taken = [q]) (code : q.code = 0x50) :
    meetRdv r m b s = modRing b (metRing s r m b q) s := by
  obtain ⟨-, via, -⟩ := rdv_plain (a := b) (s := s) code
  simp only [meetRdv, waitingRdv_one rdv one code]
  rw [finishRecord_done via (rdv_plain code).2.2, modRing_modRing]
  rfl

/-- A report, no record left, and the coupling that `MODE` 1 begins. -/
structure Met (r : RingRec) (s t : State) (e : Arm) (q : RingRec) : Prop where
  reported : Reported e q.seq q.op .done q.idx 0 [] s t
  taken : (t.ring[e]).taken = []
  bad : (t.ring[e]).bad = none
  rdv : (t.ring[e]).rdv = false
  coupled : r.fl % 4 = 1 → ∃ c, (t.ring[e]).coupled = some c ∧ c.rid = BitVec.ofNat 16 (r.n 8 2) ∧ c.mask = BitVec.ofNat 12 (r.n 10 2) ∧
    c.rel.isNone = isLeader e c.mask

/-- The arm's ring as it meets: `u` is the state in which its turn comes. -/
theorem met_of_ring {e : Arm} (one : (s.ring[e]).taken = [q]) (bad : (s.ring[e]).bad = none) (same : ringFree u = ringFree s)
    (frame : ringFree t = ringFree s) (mask : (BitVec.ofNat 12 (r.n 10 2)).getLsbD e.val = true)
    (ring : t.ring[e] = metRing u r (BitVec.ofNat 12 (r.n 10 2)) e q s.ring[e]) : Met r s t e q where
  reported := by
    have report : newReport u = newReport s := (congrArg newReport same :)
    refine ⟨?_, (congrArg State.mem frame :), regsBut_of_regs (congrArg State.regs frame :)⟩
    rw [ring, ← report]
    rfl
  taken := by rw [ring, metRing, doneRing, one, List.erase_cons_head]
  bad := by rw [ring]; exact bad
  rdv := by rw [ring]; rfl
  coupled mode := by
    rw [ring]
    exact newCoupling_begins mode mask

/-- The arms of a mask that holds two, ascending. -/
theorem filter_pair (lt : x < y) (mask : ∀ d : Arm, m.getLsbD d.val = true ↔ d = x ∨ d = y) :
    allArms.filter (fun d : Arm => m.getLsbD d.val) = [x, y] := by
  refine (allArms_pairwise.filter _).eq_of_mem_iff (List.pairwise_pair.mpr lt) fun d => ?_
  simp only [List.mem_filter, mem_allArms, true_and, List.mem_cons, List.not_mem_nil, or_false]
  exact mask d

/-- An arm that waits at a rendezvous with the one record it has taken. -/
structure AtRdv (s : State) (e : Arm) (q : RingRec) : Prop where
  one : (s.ring[e]).taken = [q]
  bad : (s.ring[e]).bad = none
  rdv : (s.ring[e]).rdv = true
  code : q.code = 0x50

/-- Two arms of a mask meet, one after the other, and then go on. -/
theorem meet_pair {qx qy : RingRec} (ne : y ≠ x) (hx : AtRdv s x qx) (hy : AtRdv s y qy)
    (mx : (BitVec.ofNat 12 (r.n 10 2)).getLsbD x.val = true) (my : (BitVec.ofNat 12 (r.n 10 2)).getLsbD y.val = true) :
    ∃ t, forEach [x, y] afterCompletion (forEach [x, y] (meetRdv r (BitVec.ofNat 12 (r.n 10 2))) s) = t ∧ Met r s t x qx ∧ Met r s t y qy ∧
      (∀ d : Arm, d ≠ x → d ≠ y → t.ring[d] = s.ring[d]) ∧ t = { s with ring := t.ring } := by
  have first := meetRdv_one (r := r) (m := BitVec.ofNat 12 (r.n 10 2)) hx.rdv hx.one hx.code
  generalize eu : modRing x (metRing s r (BitVec.ofNat 12 (r.n 10 2)) x qx) s = u at first
  have atU : u.ring[y] = s.ring[y] := by rw [← eu, modRing_apart ne]
  have second := meetRdv_one (s := u) (b := y) (q := qy) (r := r) (m := BitVec.ofNat 12 (r.n 10 2)) (by rw [atU]; exact hy.rdv)
    (by rw [atU]; exact hy.one) hy.code
  have frameU : ringFree u = ringFree s := by rw [← eu, ringFree_modRing]
  generalize et : modRing y (metRing u r (BitVec.ofNat 12 (r.n 10 2)) y qy) u = t at second
  have frame : ringFree t = ringFree s := by rw [← et, ringFree_modRing, frameU]
  have ringX : t.ring[x] = metRing s r (BitVec.ofNat 12 (r.n 10 2)) x qx s.ring[x] := by
    rw [← et, modRing_apart ne.symm, ← eu, modRing_at]
  have ringY : t.ring[y] = metRing u r (BitVec.ofNat 12 (r.n 10 2)) y qy s.ring[y] := by
    rw [← et, modRing_at, atU]
  have metX : Met r s t x qx := met_of_ring hx.one hx.bad rfl frame mx ringX
  have metY : Met r s t y qy := met_of_ring hy.one hy.bad frameU frame my ringY
  refine ⟨t, ?_, metX, metY, fun d dx dy => ?_, eq_of_ringFree frame⟩
  · simp only [forEach, List.foldl_cons, List.foldl_nil, first, second, afterCompletion_none metX.taken metX.bad,
      afterCompletion_none metY.taken metY.bad]
  · rw [← et, modRing_apart dy, ← eu, modRing_apart dx]

/-- R221: the arms of a mask complete together once each waits at the same rendezvous. -/
theorem rdvCompletion_all {arms : List Arm} (waits : waitingRdv s a = some r)
    (mask : allArms.filter (fun d : Arm => (BitVec.ofNat 12 (r.n 10 2)).getLsbD d.val) = arms)
    (all : ∀ d ∈ arms, ∃ q, waitingRdv s d = some q ∧ sameRdv r q = true) :
    rdvCompletion a s = forEach arms afterCompletion (forEach arms (meetRdv r (BitVec.ofNat 12 (r.n 10 2))) s) := by
  simp only [rdvCompletion, waits, mask]
  refine if_pos (List.all_eq_true.mpr fun d hd => ?_)
  obtain ⟨q, wait, same⟩ := all d hd
  simp only [wait, same]

/-- R221, R222: a rendezvous of two arms. -/
theorem exec_rendezvousCompletion (on : s.clk.on = true) (ne : b ≠ a) (ha : AtRdv s a r) (hb : AtRdv s b q) (same : sameRdv r q = true)
    (mask : ∀ d : Arm, (BitVec.ofNat 12 (r.n 10 2)).getLsbD d.val = true ↔ d = a ∨ d = b) :
    ∃ t, exec (.rendezvousCompletion a) s = .next t ∧ Met r s t a r ∧ Met r s t b q ∧
      (∀ d : Arm, d ≠ a → d ≠ b → t.ring[d] = s.ring[d]) ∧ t = { s with ring := t.ring } := by
  have waitA := waitingRdv_one ha.rdv ha.one ha.code
  have waitB := waitingRdv_one hb.rdv hb.one hb.code
  have all : ∀ d, d = a ∨ d = b → ∃ q, waitingRdv s d = some q ∧ sameRdv r q = true := by
    rintro d (rfl | rfl)
    · exact ⟨r, waitA, sameRdv_self⟩
    · exact ⟨q, waitB, same⟩
  have ma := (mask a).mpr (.inl rfl)
  have mb := (mask b).mpr (.inr rfl)
  obtain lt | lt := lt_or_gt_of_ne ne.symm
  · have acts := rdvCompletion_all waitA (filter_pair lt mask) fun d hd => all d (by simpa using hd)
    obtain ⟨t, e, metA, metB, others, frame⟩ := meet_pair ne ha hb ma mb
    exact ⟨t, (run_on on).trans (congrArg _ (acts.trans e)), metA, metB, others, frame⟩
  · have acts := rdvCompletion_all waitA (filter_pair lt fun d => (mask d).trans or_comm) fun d hd => all d (by simpa [or_comm] using hd)
    obtain ⟨t, e, metB, metA, others, frame⟩ := meet_pair ne.symm hb ha mb ma
    exact ⟨t, (run_on on).trans (congrArg _ (acts.trans e)), metA, metB, fun d da db => others d db da, frame⟩

/-- Settles O49, clause by clause. -/
theorem armProgress : Obligations.ArmProgress := by
  intro s a r on wf one bad
  refine ⟨fun running motion via => ⟨fun far => ?_, exec_recordCompletion on one bad running motion via⟩, fun t0 z wait => ⟨?_, ?_⟩, ?_⟩
  · exact (run_on on).trans (congrArg _ ((recordCompletion_motion one running motion).trans (if_pos far)))
  · have waiting (h : r.code = 0x10 ∨ r.code = 0x11 ∨ r.code = 0x12) := waitOf_one one (wait_plain (a := a) (s := s) h).1 wait
    have ends {x : Instr} {f : State → State} (acts : exec x s = run f s) (h : r.code = 0x10 ∨ r.code = 0x11 ∨ r.code = 0x12)
        (done : f s = completeRecord a r s) := exec_waitEnd (acts.trans ((run_on on).trans (congrArg _ done))) h one bad
    intro c hc
    simp only [List.mem_cons, List.not_mem_nil, or_false] at hc
    obtain rfl | rfl | rfl | rfl | rfl := hc
    · rintro ⟨code, passed⟩
      exact ends rfl (.inl code) (waitTimeEnd_ends (waiting (.inl code)) code passed)
    · intro h
      exact ends rfl (.inr (.inl h.1)) (waitPhaseEnd_ends (waiting (.inr (.inl h.1))) h)
    · rintro ⟨code, kind, lt, stands⟩
      exact ends rfl (.inr (.inr code)) (waitInputEnd_input (waiting (.inr (.inr code))) code kind lt stands)
    · rintro ⟨code, kind, latched⟩
      exact ends rfl (.inr (.inr code)) (waitInputEnd_latch (waiting (.inr (.inr code))) code kind latched)
    · rintro ⟨code, kind, lt, stands⟩
      exact ends rfl (.inr (.inr code)) (waitInputEnd_flag (waiting (.inr (.inr code))) code kind lt stands)
  · exact exec_waitTimeout on wf one bad wait
  · intro b q ne oneB badB codeA codeB same rdvA rdvB mask
    obtain ⟨t, acts, metA, metB, others, frame⟩ :=
      exec_rendezvousCompletion on ne ⟨one, bad, rdvA, codeA⟩ ⟨oneB, badB, rdvB, codeB⟩ same mask
    refine ⟨t, acts, metA.reported, metB.reported, ?_, others, frame⟩
    rintro e (rfl | rfl)
    · exact ⟨metA.taken, metA.rdv, metA.coupled⟩
    · exact ⟨metB.taken, metB.rdv, metB.coupled⟩

end Sys2Proof.Machine

/-! SUPPORT. A record that the host makes visible: its bytes in the ring, and what they leave alone (R200, R201, R204). -/

namespace Sys2Proof.Machine

variable {s t u : State} {a b : Arm} {k n m i : Nat} {l : List Byte} {op : Byte} {x : RecArgs}

-- Bytes of bulk memory

theorem memless_setBytes : memless (setBytes k l s) = memless s := by
  induction l generalizing k s with
  | nil => rfl
  | cons b l ih => exact ih.trans rfl

/-- What a byte reads after consecutive bytes were written. -/
theorem memByte_setBytes (wf : memWf s.mem = true) :
    memByte (setBytes k l s) m = if k ≤ m ∧ m < k + l.length then l.getD (m - k) 0 else memByte s m := by
  induction l generalizing k s with
  | nil => rw [if_neg (by simp only [List.length_nil]; omega)]; rfl
  | cons b l ih =>
    rw [setBytes, ih (memWf_setByte wf), memByte_setByte wf, List.length_cons]
    obtain lt | rfl | gt := Nat.lt_trichotomy m k
    · rw [if_neg (by omega), if_neg (by omega), if_neg (by omega)]
    · rw [if_neg (by omega), if_pos rfl, if_pos (by omega), Nat.sub_self]
      rfl
    · obtain ⟨j, rfl⟩ := Nat.exists_eq_add_of_lt gt
      rw [if_neg (by omega : k + j + 1 ≠ k), show k + j + 1 - k = j + 1 by omega, show k + j + 1 - (k + 1) = j by omega]
      exact if_congr (by omega) rfl rfl

theorem memBytes_eq (h : ∀ j < l.length, memByte s (k + j) = l.getD j 0) : memBytes s k l.length = l := by
  induction l generalizing k with
  | nil => rfl
  | cons b l ih =>
    have rest := ih (k := k + 1) fun j hj => by
      have := h (j + 1) (Nat.succ_lt_succ hj)
      rwa [show k + (j + 1) = k + 1 + j by omega] at this
    have first : memByte s k = b := h 0 (Nat.succ_pos _)
    rw [List.length_cons, memBytes, rest, first]

theorem memBytes_congr (h : t.mem = s.mem) : memBytes t k n = memBytes s k n := by
  induction n generalizing k with
  | zero => rfl
  | succ n ih => rw [memBytes, memBytes, ih, memByte, memByte, h]

/-- Bytes that are written read back. -/
theorem memBytes_setBytes (wf : memWf s.mem = true) : memBytes (setBytes k l s) k l.length = l := by
  refine memBytes_eq fun j hj => ?_
  rw [memByte_setBytes wf, if_pos ⟨Nat.le_add_right .., Nat.add_lt_add_left hj _⟩, Nat.add_sub_cancel_left]

theorem leNat_leBytes : leNat (leBytes n m) = m % 256 ^ n := by
  induction n generalizing m with
  | zero => rw [pow_zero, Nat.mod_one]; rfl
  | succ n ih =>
    rw [pow_succ', Nat.mod_mul, leBytes, leNat, ih, BitVec.toNat_ofNat]

-- Records (R204)

/-- The record that a command names, at ring index `i`. -/
def recordOf (i : Nat) (op : Byte) (x : RecArgs) : RingRec :=
  ⟨i, x.seq, op, x.flags, x.frame, x.res7, (List.range 120).map fun i => x.body.getD i 0⟩

theorem recordBytes_length : (recordBytes op x).length = 128 := by
  simp [recordBytes, leBytes]

theorem parseRecord_recordBytes : parseRecord i (recordBytes op x) = recordOf i op x := by
  have seq : BitVec.ofNat 32 (leAt (recordBytes op x) 0 4) = x.seq := by
    have le : leAt (recordBytes op x) 0 4 = leNat (leBytes 4 x.seq.toNat) := rfl
    rw [le, leNat_leBytes, show 256 ^ 4 = 2 ^ 32 from rfl, Nat.mod_eq_of_lt x.seq.isLt, BitVec.ofNat_toNat, BitVec.setWidth_eq]
  rw [parseRecord, seq]
  rfl

-- The host's record (R200, R201)

/-- A state without bulk memory, rings, register file and host link. -/
def taking (s : State) : State := { ringless s with mem := [] }

theorem taking_of_ringless (h : ringless t = ringless s) : taking t = taking s := congrArg (fun x => { x with mem := [] }) h

theorem hostRecord_regs : (hostRecord a op x s).regs =
    (setReg .arm a Reg.ARM_WR_IDX (BitVec.ofNat 32 ((wrIdx s a + 1) % 1024)) s).regs := by
  have bytes (k : Nat) (l : List Byte) : (setBytes k l s).regs = s.regs := (congrArg State.regs memless_setBytes :)
  unfold hostRecord
  rw [setReg_regs, setReg_regs, bytes]

theorem hostRecord_mem : (hostRecord a op x s).mem = (setBytes (ringAddr a (wrIdx s a)) (recordBytes op x) s).mem := by
  unfold hostRecord
  exact setReg_mem

/-- A state without bulk memory and register file. -/
def unstored (s : State) : State := { s with mem := [], regs := [] }

theorem eq_of_unstored (h : unstored t = unstored s) : t = { s with mem := t.mem, regs := t.regs } := by
  cases t; cases s; cases h; rfl

theorem unstored_hostRecord : unstored (hostRecord a op x s) = unstored s := by
  have bytes (k : Nat) (l : List Byte) : unstored (setBytes k l s) = unstored s :=
    (congrArg (fun u => { u with regs := [] }) memless_setBytes :)
  have reg (u : State) (v : Word) : unstored (setReg .arm a Reg.ARM_WR_IDX v u) = unstored u := rfl
  unfold hostRecord
  rw [reg, bytes]

theorem regKept_hostRecord (h : k ≠ regKey .arm a Reg.ARM_WR_IDX) : RegKept k s (hostRecord a op x s) :=
  (regKept_setReg h).trans (regKept_of_regs hostRecord_regs)

theorem hostRecord_wrIdx (wf : regsWf s.regs = true) : wrIdx (hostRecord a op x s) a = (wrIdx s a + 1) % 1024 := by
  rw [wrIdx, fld, reg, hostRecord_regs]
  exact fld_setReg_same wf (Nat.mod_lt _ (by decide)) (by decide)

theorem hostRecord_rdIdx (wf : regsWf s.regs = true) : rdIdx (hostRecord a op x s) a = rdIdx s a := by
  rw [rdIdx, fld, (regKept_hostRecord (regKey_apart (by decide))).reg wf]
  rfl

theorem hostRecord_unconsumed (wf : regsWf s.regs = true) (room : unconsumed s a < 1023) :
    unconsumed (hostRecord a op x s) a = unconsumed s a + 1 := by
  have wr := wrIdx_lt (s := s) (a := a)
  have rd := rdIdx_lt (s := s) (a := a)
  rw [unconsumed] at room
  rw [unconsumed, hostRecord_wrIdx wf, hostRecord_rdIdx wf, unconsumed]
  omega

/-- The host's record stands in the ring as it was given. -/
theorem hostRecord_reads (wf : memWf s.mem = true) : readRecord (hostRecord a op x s) a (wrIdx s a) = recordOf (wrIdx s a) op x := by
  have bytes := memBytes_setBytes (k := ringAddr a (wrIdx s a)) (l := recordBytes op x) wf
  rw [recordBytes_length] at bytes
  rw [readRecord, memBytes_congr hostRecord_mem, bytes, parseRecord_recordBytes]

theorem hostRecord_elsewhere (wf : memWf s.mem = true) (h : m < ringAddr a (wrIdx s a) ∨ ringAddr a (wrIdx s a) + 128 ≤ m) :
    memByte (hostRecord a op x s) m = memByte s m := by
  rw [memByte, hostRecord_mem, ← memByte]
  refine (memByte_setBytes wf).trans (if_neg ?_)
  rw [recordBytes_length]
  omega

end Sys2Proof.Machine

/-! SUPPORT. Take-in: the record that the path sampler reads, and the registers that it then touches (R202, R223, R224). -/

namespace Sys2Proof.Machine

variable {s u : State} {a : Arm} {k bus cause : Nat} {r : RingRec}

-- Registers that a record's take-in and what follows it may touch

/-- The offsets of `LASTERR`, of the counters of malformed and of aborted records, and of their flags. -/
def takeOffs : List Nat := [Reg.ARM_LASTERR, Reg.CNT + 4 * 2, Reg.CNT + 4 * 5, Reg.CNT_OVF, Reg.IRQ_STAT]

theorem writes_modRing {l : List Nat} {f : ArmRing → ArmRing} : Writes l s (modRing a f s) := writes_of_regs rfl

theorem writes_report {l : List Nat} {st : RptStatus} {c x : Nat} : Writes l s (report a r st c x s) := writes_of_regs rfl

theorem writes_forEach {α : Type} {l : List Nat} {f : α → State → State} (hf : ∀ x u, Writes l u (f x u)) (xs : List α) :
    Writes l s (forEach xs f s) := by
  unfold forEach
  induction xs generalizing s with
  | nil => exact .refl
  | cons x xs ih => exact (hf x s).trans ih

theorem writes_endRecords : Writes takeOffs s (endRecords cause a s) := by
  obtain ⟨d, e⟩ := endRecords_eq (cause := cause) (a := a) (s := s)
  rw [e]
  refine Writes.trans ?_ (writes_forEach (fun x u => writes_report.trans ((writes_count (by decide)).mono (by decide))) _)
  exact writes_of_regs rfl

theorem writes_haltOne : Writes takeOffs s (haltOne cause a s) := by
  have started (f : ArmRing → ArmRing) : Writes takeOffs s (irq .arm a armHalt (modRing a f s)) :=
    writes_modRing.trans (writes_irq.mono (by decide))
  unfold haltOne
  dsimp only
  split
  · split
    · exact writes_endRecords
    · exact .refl
  · split
    · exact (started _).trans writes_endRecords
    · split
      · exact started _
      · exact (started _).trans writes_modRing

theorem writes_haltRing : Writes takeOffs s (haltRing cause a s) := writes_forEach (fun _ _ => writes_haltOne) _

/-- The index and code of a malformed record go into `LASTERR`, and the record is counted. -/
def noteMalformed (a : Arm) (r : RingRec) (c : Nat) (s : State) : State :=
  setReg .arm a Reg.ARM_LASTERR (BitVec.ofNat 32 (r.idx * 2 ^ 16 + c)) (count .arm a 2 s)

theorem writes_noteMalformed {c : Nat} : Writes takeOffs s (noteMalformed a r c s) :=
  ((writes_count (by decide)).mono (by decide)).trans ((writes_setReg (by decide) (by decide)).mono (by decide))

theorem writes_settleBad : Writes takeOffs s (settleBad a s) := writes_of_regs settleBad_apart.1

theorem writes_actInline : Writes takeOffs s (actInline a k s) := by
  induction k generalizing s with
  | zero => exact .refl
  | succ k ih =>
    unfold actInline
    split
    · split
      · exact (writes_modRing.trans writes_report).trans ih
      · split
        · refine Writes.trans ?_ ih
          exact writes_of_regs rfl
        · exact .refl
    · exact .refl

theorem writes_reachRdv : Writes takeOffs s (reachRdv a r s) := by
  unfold reachRdv
  dsimp only
  split
  · exact (((writes_noteMalformed (c := 0x0B)).trans writes_modRing).trans writes_haltRing).trans writes_report
  · exact writes_modRing

theorem writes_startWait : Writes takeOffs s (startWait a s) := by
  have marked (c : Prop) [Decidable c] (f : ArmRing → ArmRing) : Writes takeOffs s (if c then modRing a f s else s) := by
    split
    · exact writes_modRing
    · exact .refl
  unfold startWait
  split
  · exact .refl
  · split
    · dsimp only
      split
      · exact (marked _ _).trans writes_reachRdv
      · split
        · exact (marked _ _).trans writes_modRing
        · exact marked _ _
    · exact .refl

theorem writes_afterCompletion : Writes takeOffs s (afterCompletion a s) :=
  (writes_actInline.trans writes_startWait).trans writes_settleBad

-- One record (R202, R224)

/-- A record whose checks have found nothing joins the taken ones. -/
def joined (a : Arm) (r : RingRec) (s : State) : State := modRing a (fun g => { g with taken := g.taken ++ [r] }) s

/-- A record with a fault of R224 waits to be reported. -/
def refused (a : Arm) (r : RingRec) (c : Nat) (s : State) : State :=
  modRing a (fun g => { g with bad := some (r, c) }) (noteMalformed a r c s)

theorem takeRecord_eq (idx : rdIdx s a = r.idx) : takeRecord bus a r s =
    if recordCode bus (readOn a s) a r ≠ 0 then
      settleBad a (haltRing 1 a (refused a r (recordCode bus (readOn a s) a r) (readOn a s)))
    else if r.timed then placeOutput a r (r.i64 8) (joined a r (readOn a s))
    else if r.code = 0x60 then takeSegment bus a r (joined a r (readOn a s))
    else if restsAt (joined a r (readOn a s)) a &&
        (nextStop (joined a r (readOn a s)) a == some r || (nextStop (joined a r (readOn a s)) a).isNone) then
      afterCompletion a (joined a r (readOn a s))
    else joined a r (readOn a s) := by
  rw [readOn, idx]
  rfl

theorem writes_takeRecord (idx : rdIdx s a = r.idx) : Writes takeOffs (readOn a s) (takeRecord bus a r s) := by
  have joins : Writes takeOffs (readOn a s) (joined a r (readOn a s)) := writes_modRing
  rw [takeRecord_eq idx]
  split
  · exact ((writes_noteMalformed.trans writes_modRing).trans writes_haltRing).trans writes_settleBad
  · split
    · exact joins.trans (writes_of_regs rfl)
    · split
      · exact joins.trans (writes_of_regs rfl)
      · split
        · exact joins.trans writes_afterCompletion
        · exact joins

-- The indices (R200, R201)

theorem regsWf_readOn (wf : regsWf s.regs = true) : regsWf (readOn a s).regs = true := regsWf_setReg (regsWf_count wf)

theorem regKept_readOn (h : k ∉ regKey .arm a Reg.ARM_RD_IDX :: eventKeys .arm a 0) : RegKept k s (readOn a s) := by
  rw [List.mem_cons, not_or] at h
  exact ((regKept_count h.2).trans (regKept_setReg h.1)).trans regKept_modRing

theorem readOn_indices (wf : regsWf s.regs = true) : wrIdx (readOn a s) a = wrIdx s a ∧ rdIdx (readOn a s) a = (rdIdx s a + 1) % 1024 := by
  constructor
  · rw [wrIdx, fld, (regKept_readOn _).reg wf, ← fld, wrIdx]
    exact regKey_notMem (l := [Reg.ARM_RD_IDX, Reg.IRQ_STAT, Reg.CNT + 4 * 0, Reg.CNT_OVF]) (by decide)
  · exact fld_setReg_same (s := count .arm a 0 s) (regsWf_count wf) (Nat.mod_lt _ (by decide)) (by decide)

/-- After the last visible record nothing is unconsumed, whatever its take-in does. -/
theorem takeRecord_unconsumed (wf : regsWf s.regs = true) (idx : rdIdx s a = r.idx) (last : (rdIdx s a + 1) % 1024 = wrIdx s a) :
    unconsumed (takeRecord bus a r s) a = 0 := by
  have taken := writes_takeRecord (bus := bus) idx
  obtain ⟨wr, rd⟩ := readOn_indices (a := a) wf
  have wf' := regsWf_readOn (a := a) wf
  refine unconsumed_eq_zero ?_
  rw [wrIdx, rdIdx, fld, fld, taken.reg wf' ⟨by decide, by decide⟩, taken.reg wf' ⟨by decide, by decide⟩, ← fld, ← fld, ← wrIdx, ← rdIdx,
    wr, rd, last]

-- Visible records (R202)

theorem takeVisible_stops (h : canTake s a = false ∨ unconsumed s a = 0) : takeVisible bus a k s = s := by
  cases k with
  | zero => rfl
  | succ k =>
    rw [takeVisible, if_neg]
    obtain h | h := h
    · rw [h]; exact Bool.false_ne_true
    · rw [h, Bool.and_eq_true, Bool.and_eq_true, decide_eq_true_iff]
      exact fun c => absurd c.1.2 (Nat.lt_irrefl 0)

theorem takeVisible_takes (can : canTake s a = true) (some : 0 < unconsumed s a) (few : (s.ring[a]).took < 8) :
    takeVisible bus a (k + 1) s = takeVisible bus a k
      (takeRecord bus a (readRecord s a (rdIdx s a)) (modRing a (fun g => { g with took := g.took + 1 }) s)) := by
  rw [takeVisible, if_pos]
  rw [can, decide_eq_true some, decide_eq_true few]
  rfl

end Sys2Proof.Machine

/-! SUPPORT. The fifteen record commands: a record that is visible at a plan-cycle start is taken or halts the ring (R200 to R203, R223,
R224). -/

namespace Sys2Proof.Machine

variable {s t : State} {a b : Arm} {bus : Nat} {op : Byte} {x : RecArgs} {r : RingRec}

-- What take-in reads of the state

theorem busNs_taking (h : taking t = taking s) : busNs t = busNs s := (congrArg busNs h :)
theorem atPlanStart_taking (h : taking t = taking s) : atPlanStart t = atPlanStart s := (congrArg atPlanStart h :)
theorem segOf_taking (h : taking t = taking s) : segOf t a bus r = segOf s a bus r := (congrArg (segOf · a bus r) h :)
theorem armJoints_taking (h : taking t = taking s) : armJoints t a = armJoints s a := (congrArg (armJoints · a) h :)

/-- Where an arm's path stands, and in which frame. -/
def course (g : ArmRing) : List PathEl × F64 × Bool × Option LineFrame := (g.path, g.pathT, g.release, g.tracking)

/-- Whether an arm is at rest hangs on its plan and its path. -/
theorem restsAt_congr (h : taking t = taking s) (ring : course t.ring[a] = course s.ring[a]) : restsAt t a = restsAt s a := by
  have play : t.play = s.play := (congrArg State.play h :)
  simp only [course, Prod.mk.injEq] at ring
  obtain ⟨path, pathT, release, tracking⟩ := ring
  simp only [restsAt, pathDone, playedProgress, busNs_taking h, play, path, pathT, release, tracking]

theorem canTake_congr (ring : t.ring = s.ring) (regs : ∀ off ∈ [Reg.CTRL, Reg.READY, Reg.ARM_RPT_WR, Reg.ARM_RPT_RD],
    reg t .arm a off = reg s .arm a off) : canTake t a = canTake s a := by
  simp only [List.mem_cons, List.not_mem_nil, or_false, forall_eq_or_imp, forall_eq] at regs
  obtain ⟨ctrl, ready, wr, rd⟩ := regs
  simp only [canTake, enabled, flag, unreported, freeReports, unread, rptWr, rptRd, fld, ring, ctrl, ready, wr, rd]
  rfl

theorem rdIdx_modRing {f : ArmRing → ArmRing} : rdIdx (modRing b f s) a = rdIdx s a := rfl
theorem wrIdx_modRing {f : ArmRing → ArmRing} : wrIdx (modRing b f s) a = wrIdx s a := rfl

-- The host's record at a plan-cycle start

theorem taking_of_unstored (h : unstored t = unstored s) : taking t = taking s := (congrArg taking h :)
theorem ring_of_unstored (h : unstored t = unstored s) : t.ring = s.ring := (congrArg State.ring h :)

theorem taking_hostRecord : taking (hostRecord a op x s) = taking s := taking_of_unstored unstored_hostRecord
theorem hostRecord_ring : (hostRecord a op x s).ring = s.ring := ring_of_unstored unstored_hostRecord

theorem canTake_hostRecord (wf : regsWf s.regs = true) : canTake (hostRecord a op x s) a = canTake s a := by
  refine canTake_congr hostRecord_ring fun off h => (regKept_hostRecord ?_).reg wf
  refine regKey_apart fun e => ?_
  subst e
  exact absurd h (by decide)

theorem recordCommand_full (h : unconsumed s a = 1023) : recordCommand a op x s = s := if_neg (by rw [h]; decide)

theorem recordCommand_between (room : unconsumed s a < 1023) (start : atPlanStart s = false) :
    recordCommand a op x s = hostRecord a op x s := by
  have still : ¬ atPlanStart (hostRecord a op x s) = true := by rw [atPlanStart_taking taking_hostRecord, start]; decide
  rw [recordCommand, if_pos room]
  exact if_neg still

theorem recordCommand_atStart (room : unconsumed s a < 1023) (start : atPlanStart s = true) :
    recordCommand a op x s = samplePath a (takeVisible (busNs s) a 8 (hostRecord a op x s)) := by
  have still : atPlanStart (hostRecord a op x s) = true := by rw [atPlanStart_taking taking_hostRecord, start]
  rw [recordCommand, if_pos room, ← busNs_taking taking_hostRecord]
  exact if_pos still

/-- One more record of this plan cycle (R202). -/
def counting (a : Arm) (s : State) : State := modRing a (fun g => { g with took := g.took + 1 }) s

/-- The state in which the host's record is judged. -/
def opened (a : Arm) (op : Byte) (x : RecArgs) (s : State) : State := readOn a (counting a (hostRecord a op x s))

section Start
variable (wf : regsWf s.regs = true) (mem : memWf s.mem = true) (empty : unconsumed s a = 0) (start : atPlanStart s = true)
include wf empty

omit wf in
theorem indices_meet : rdIdx s a = wrIdx s a := by
  have wr := wrIdx_lt (s := s) (a := a)
  have rd := rdIdx_lt (s := s) (a := a)
  rw [unconsumed] at empty
  omega

include start

theorem recordCommand_untaken (can : canTake s a = false) : recordCommand a op x s = samplePath a (hostRecord a op x s) := by
  rw [recordCommand_atStart (by rw [empty]; decide) start, takeVisible_stops (.inl ((canTake_hostRecord wf).trans can))]

include mem

/-- The one record that is visible is taken. -/
theorem recordCommand_taken (can : canTake s a = true) (few : (s.ring[a]).took < 8) : recordCommand a op x s =
    samplePath a (takeRecord (busNs s) a (recordOf (wrIdx s a) op x) (counting a (hostRecord a op x s))) := by
  have one : unconsumed (hostRecord a op x s) a = 1 := by rw [hostRecord_unconsumed wf (by rw [empty]; decide), empty]
  have rd : rdIdx (hostRecord a op x s) a = wrIdx s a := (hostRecord_rdIdx wf).trans (indices_meet empty)
  have reads : readRecord (hostRecord a op x s) a (rdIdx (hostRecord a op x s) a) = recordOf (wrIdx s a) op x := by
    rw [rd, hostRecord_reads mem]
  have wf' : regsWf (hostRecord a op x s).regs = true := (hostRecord_inCycle .refl).regs wf
  have last : (rdIdx (hostRecord a op x s) a + 1) % 1024 = wrIdx (hostRecord a op x s) a := by rw [rd, hostRecord_wrIdx wf]
  have can' := (canTake_hostRecord (op := op) (x := x) wf).trans can
  have few' : ((hostRecord a op x s).ring[a]).took < 8 := by rw [hostRecord_ring]; exact few
  have idx : (recordOf (wrIdx s a) op x).idx = wrIdx s a := rfl
  rw [recordCommand_atStart (by rw [empty]; decide) start]
  generalize hostRecord a op x s = h at one rd reads wf' last can' few'
  generalize recordOf (wrIdx s a) op x = r at reads idx
  rw [takeVisible_takes can' (by rw [one]; decide) few', reads, ← counting,
    takeVisible_stops (.inr (takeRecord_unconsumed (s := counting a h) wf' _ _))]
  · rw [counting, rdIdx_modRing, rd, idx]
  · rw [counting, rdIdx_modRing, wrIdx_modRing, last]

end Start

end Sys2Proof.Machine

/-! SUPPORT. What take-in makes of the host's record: it joins the taken ones, is placed or chained, or halts its ring (R202, R215, R223,
R227). -/

namespace Sys2Proof.Machine

variable {s t w : State} {a : Arm} {bus c : Nat} {op : Byte} {x : RecArgs} {r : RingRec}

-- The state in which a record is judged

theorem readOn_ring : (readOn a s).ring = vmod s.ring a fun g => { g with starved := false } := by
  rw [readOn, modRing_ring, setReg_ring, count_ring]

theorem ringless_readOn : ringless (readOn a s) = ringless s := by
  rw [readOn, ringless_modRing, ringless_setReg, ringless_count]

theorem ringless_opened : ringless (opened a op x s) = ringless (hostRecord a op x s) := ringless_readOn.trans ringless_modRing

theorem taking_opened : taking (opened a op x s) = taking s := (taking_of_ringless ringless_opened).trans taking_hostRecord

theorem opened_ring : (opened a op x s).ring = vmod s.ring a fun g => { g with took := g.took + 1, starved := false } := by
  rw [opened, readOn_ring, counting, modRing_ring, hostRecord_ring, vmod_vmod]

theorem opened_at : (opened a op x s).ring[a] = { s.ring[a] with took := (s.ring[a]).took + 1, starved := false } := by
  rw [opened_ring, vmod_same]

theorem nextStop_congr (h : (t.ring[a]).taken = (s.ring[a]).taken) : nextStop t a = nextStop s a := by rw [nextStop, h, nextStop]

theorem regsWf_counting (wf : regsWf s.regs = true) : regsWf (counting a s).regs = true := wf

theorem regsWf_hostRecord (wf : regsWf s.regs = true) : regsWf (hostRecord a op x s).regs = true := (hostRecord_inCycle .refl).regs wf

theorem regsWf_opened (wf : regsWf s.regs = true) : regsWf (opened a op x s).regs = true :=
  regsWf_readOn (regsWf_counting (regsWf_hostRecord wf))

theorem regsBut_opened (wf : regsWf s.regs = true) :
    RegsBut (regKey .arm a Reg.ARM_RD_IDX :: eventKeys .arm a 0) (hostRecord a op x s) (opened a op x s) :=
  regsBut_of_kept (regsWf_hostRecord wf) fun _ hk => regKept_modRing.trans (regKept_readOn hk)

theorem opened_rdIdx (wf : regsWf s.regs = true) (empty : unconsumed s a = 0) :
    rdIdx (opened a op x s) a = wrIdx (hostRecord a op x s) a := by
  rw [opened, (readOn_indices (regsWf_counting (regsWf_hostRecord wf))).2, counting, rdIdx_modRing,
    hostRecord_rdIdx wf, indices_meet empty, hostRecord_wrIdx wf]

/-- A register of the ring's page that neither the host's record nor its reading touches. -/
theorem opened_reg {off : Nat} (wf : regsWf s.regs = true)
    (h : off ∉ [Reg.ARM_WR_IDX, Reg.ARM_RD_IDX, Reg.IRQ_STAT, Reg.CNT + 4 * 0, Reg.CNT_OVF]) :
    reg (opened a op x s) .arm a off = reg s .arm a off := by
  rw [List.mem_cons, not_or] at h
  exact (((regKept_hostRecord (regKey_apart h.1)).trans regKept_modRing).trans (regKept_readOn (regKey_notMem (l := _ :: _) h.2))).reg wf

theorem opened_counts (wf : regsWf s.regs = true) : reg (opened a op x s) .arm a Reg.CNT = reg s .arm a Reg.CNT + 1 := by
  have wf' : regsWf (counting a (hostRecord a op x s)).regs = true := regsWf_counting (regsWf_hostRecord wf)
  have kept : RegKept (regKey .arm a Reg.CNT) s (counting a (hostRecord a op x s)) :=
    (regKept_hostRecord (regKey_apart (by decide))).trans regKept_modRing
  rw [opened, readOn, regKept_modRing.reg (regsWf_setReg (regsWf_count wf')), (regKept_setReg (regKey_apart (by decide))).reg (regsWf_count wf'),
    show Reg.CNT = Reg.CNT + 4 * 0 from rfl, count_reg wf' (by decide)]
  exact congrArg (· + 1) (kept.reg wf)

-- A record that joins the taken ones

theorem ringFree_joined : ringFree (joined a r s) = ringFree s := ringFree_modRing

theorem joined_ring (h : (s.ring[a]).taken = (t.ring[a]).taken) :
    (joined a r s).ring = vset s.ring a { s.ring[a] with taken := (t.ring[a]).taken ++ [r] } := by
  rw [← h]
  rfl

theorem restsAt_joined : restsAt (joined a r s) a = restsAt s a :=
  restsAt_congr (taking_of_ringless ringless_modRing) (by rw [joined, modRing_at]; rfl)

theorem nextStop_joined : nextStop (joined a r s) a = (nextStop s a).or (if r.isInline then none else some r) := by
  rw [nextStop, joined, modRing_at, List.find?_append, ← nextStop, List.find?_singleton]
  cases r.isInline <;> rfl

-- A malformed record (R223)

theorem refused_at : (refused a r c s).ring[a] = { s.ring[a] with bad := some (r, c) } := by
  rw [refused, modRing_at, noteMalformed, setReg_ring, count_ring]

/-- The ring halts with cause 1; the malformed record waits to be reported. -/
def malformedHalt (a : Arm) (r : RingRec) (c : Nat) (s : State) : State := haltNoted 1 a (refused a r c s)

theorem malformedHalt_ring : (malformedHalt a r c s).ring = vmod s.ring a fun g => { g with halt := 1, bad := some (r, c) } := by
  rw [malformedHalt, haltNoted_ring, refused, modRing_ring, noteMalformed, setReg_ring, count_ring, vmod_vmod]

theorem malformedHalt_at : (malformedHalt a r c s).ring[a] = { s.ring[a] with halt := 1, bad := some (r, c) } := by
  rw [malformedHalt_ring, vmod_same]

theorem ringless_malformedHalt : ringless (malformedHalt a r c s) = ringless s := by
  rw [malformedHalt, ringless_haltNoted, refused, ringless_modRing, noteMalformed, ringless_setReg, ringless_count]

theorem restsAt_malformedHalt : restsAt (malformedHalt a r c s) a = restsAt s a :=
  restsAt_congr (taking_of_ringless ringless_malformedHalt) (by rw [malformedHalt_at]; rfl)

theorem regKept_malformedHalt {k : Nat} (h : k ∉ regKey .arm a Reg.ARM_LASTERR :: eventKeys .arm a 2) : RegKept k s (malformedHalt a r c s) := by
  rw [List.mem_cons, not_or] at h
  obtain ⟨index, event⟩ := h
  have noted : RegKept k s (noteMalformed a r c s) := (regKept_count event).trans (regKept_setReg index)
  exact (noted.trans regKept_modRing).trans (regKept_haltNoted fun e => event (e ▸ List.mem_cons_self))

theorem newReport_malformedHalt (wf : regsWf s.regs = true) : newReport (malformedHalt a r c s) = newReport s := by
  refine newReport_ringless ringless_malformedHalt ((regKept_malformedHalt ?_).reg wf)
  rw [List.mem_cons, not_or]
  exact ⟨regKey_tb_ne_arm (by decide), regKey_tb_notMem (by decide)⟩

/-- The registers that tell of a malformed record. -/
theorem malformedHalt_regs (wf : regsWf s.regs = true) :
    reg (malformedHalt a r c s) .arm a Reg.ARM_LASTERR = BitVec.ofNat 32 (r.idx * 2 ^ 16 + c) ∧
    reg (malformedHalt a r c s) .arm a (Reg.CNT + 8) = reg s .arm a (Reg.CNT + 8) + 1 ∧
    bit (reg (malformedHalt a r c s) .arm a Reg.IRQ_STAT) armHalt = true := by
  have wfCount : regsWf (count .arm a 2 s).regs = true := regsWf_count wf
  have wfNote : regsWf (noteMalformed a r c s).regs = true := regsWf_setReg wfCount
  have wfRefused : regsWf (refused a r c s).regs = true := wfNote
  have kept {off : Nat} (h : off ≠ Reg.IRQ_STAT) :
      reg (malformedHalt a r c s) .arm a off = reg (noteMalformed a r c s) .arm a off :=
    (regKept_modRing.trans (regKept_haltNoted (regKey_apart h))).reg wfNote
  refine ⟨?_, ?_, irq_bit wfRefused (by decide)⟩
  · rw [kept (by decide)]
    exact reg_setReg_same wfCount
  · rw [kept (by decide), noteMalformed, reg_setReg_other wfCount (by decide), show Reg.CNT + 8 = Reg.CNT + 4 * 2 from rfl,
      count_reg wf (by decide)]

section Outcomes
variable (idx : rdIdx w a = r.idx) (code : recordCode bus (readOn a w) a r = c)
include idx code

/-- A record that finds its arm at rest and nothing before it acts at once. -/
theorem takeRecord_acts (fine : c = 0) (untimed : r.timed = false) (plain : r.code ≠ 0x60) (rests : restsAt (readOn a w) a = true)
    (first : nextStop (readOn a w) a = none) : takeRecord bus a r w = afterCompletion a (joined a r (readOn a w)) := by
  rw [takeRecord_eq idx, if_neg (not_not.mpr (code.trans fine)), untimed, if_neg Bool.false_ne_true, if_neg plain, if_pos]
  rw [restsAt_joined, rests, nextStop_joined, first]
  cases r.isInline
  · simp
  · rfl

/-- Another one waits its turn. -/
theorem takeRecord_joins (fine : c = 0) (untimed : r.timed = false) (plain : r.code ≠ 0x60)
    (later : restsAt (readOn a w) a = false ∨ ∃ q, nextStop (readOn a w) a = some q ∧ q ≠ r) :
    takeRecord bus a r w = joined a r (readOn a w) := by
  rw [takeRecord_eq idx, if_neg (not_not.mpr (code.trans fine)), untimed, if_neg Bool.false_ne_true, if_neg plain, if_neg]
  obtain moving | ⟨q, next, ne⟩ := later
  · rw [restsAt_joined, moving, Bool.false_and]
    exact Bool.false_ne_true
  · rw [nextStop_joined, next]
    simp [ne]

theorem takeRecord_places (fine : c = 0) (timed : r.timed = true) :
    takeRecord bus a r w = placeOutput a r (r.i64 8) (joined a r (readOn a w)) := by
  rw [takeRecord_eq idx, if_neg (not_not.mpr (code.trans fine)), timed, if_pos rfl]

theorem takeRecord_chains (fine : c = 0) (segment : r.code = 0x60) :
    takeRecord bus a r w = takeSegment bus a r (joined a r (readOn a w)) := by
  have untimed : r.timed = false := by rw [RingRec.timed, RingRec.isOutput, segment]; rfl
  rw [takeRecord_eq idx, if_neg (not_not.mpr (code.trans fine)), untimed, if_neg Bool.false_ne_true, if_pos segment]

/-- A malformed record halts a ring that is not coupled. -/
theorem takeRecord_halts (bad : c ≠ 0) (alone : ((readOn a w).ring[a]).coupled = none) (running : ((readOn a w).ring[a]).halt = 0) :
    takeRecord bus a r w = settleBad a (malformedHalt a r c (readOn a w)) := by
  have alone' : ((refused a r c (readOn a w)).ring[a]).coupled = none := by rw [refused_at]; exact alone
  have running' : ((refused a r c (readOn a w)).ring[a]).halt = 0 := by rw [refused_at]; exact running
  rw [takeRecord_eq idx, code, if_pos bad, haltRing_alone alone', haltOne_malformed rfl running' rfl, malformedHalt]

end Outcomes

end Sys2Proof.Machine

/-! SUPPORT. A record that is judged at a plan-cycle start: where it goes, and what tells of its faults (R202, R215, R223, R224, R227). -/

namespace Sys2Proof.Machine

variable {s o w : State} {a b : Arm} {bus c : Nat} {op : Byte} {x : RecArgs} {r : RingRec}

-- What judging a record has changed of the state at a plan-cycle start

/-- `o` is `s` with one more record read: apart from memory, registers and the host link, one ring has counted it. -/
structure Judges (a : Arm) (s o : State) : Prop where
  frame : taking o = taking s
  ring : o.ring[a] = { s.ring[a] with took := (s.ring[a]).took + 1, starved := false }
  others : ∀ b : Arm, b ≠ a → o.ring[b] = s.ring[b]

theorem judges_opened : Judges a s (opened a op x s) :=
  ⟨taking_opened, opened_at, fun _ hb => by rw [opened_ring, vmod_other hb]⟩

namespace Judges
variable (h : Judges a s o)
include h

theorem taken : (o.ring[a]).taken = (s.ring[a]).taken := by rw [h.ring]
theorem rests : restsAt o a = restsAt s a := restsAt_congr h.frame (by rw [h.ring]; rfl)
theorem next : nextStop o a = nextStop s a := nextStop_congr h.taken
theorem tag : o.clk.tag = s.clk.tag := (congrArg (fun u => u.clk.tag) h.frame :)
theorem inserts : o.tds.inserts = s.tds.inserts := (congrArg (fun u => u.tds.inserts) h.frame :)
theorem play : o.play = s.play := (congrArg State.play h.frame :)

end Judges

theorem canTake_running (h : canTake s a = true) : (s.ring[a]).halt = 0 ∧ (s.ring[a]).bad = none := by
  simp only [canTake, Bool.and_eq_true, beq_iff_eq, Option.isNone_iff_eq_none] at h
  obtain ⟨⟨⟨⟨⟨-, halt⟩, bad⟩, -⟩, -⟩, -⟩ := h
  exact ⟨halt, bad⟩

theorem code_ne (h : r.op ≠ 0x60) : r.code ≠ 0x60 := fun e => h (BitVec.eq_of_toNat_eq e)

section Outcomes
variable (opens : readOn a w = o) (idx : rdIdx w a = r.idx) (code : recordCode bus o a r = c) (judged : Judges a s o)
include opens idx code judged

/-- At rest, with nothing before it, a record acts. -/
theorem first_acts (rests : restsAt s a = true) (first : nextStop s a = none) (fine : c = 0) (untimed : r.timed = false) (plain : r.op ≠ 0x60) :
    ∃ u, takeRecord bus a r w = afterCompletion a u ∧ u.ring = vset o.ring a { o.ring[a] with taken := (s.ring[a]).taken ++ [r] } ∧
      u = { o with ring := u.ring } := by
  subst opens
  exact ⟨_, takeRecord_acts idx code fine untimed (code_ne plain) (judged.rests.trans rests) (judged.next.trans first),
    joined_ring judged.taken, eq_of_ringFree ringFree_joined⟩

/-- A malformed record that finds its arm at rest and nothing before it is reported at once. -/
theorem first_malformed (wf : regsWf o.regs = true) (can : canTake s a = true) (rests : restsAt s a = true) (bad : c ≠ 0)
    (alone : (s.ring[a]).coupled = none) (none : (s.ring[a]).taken = []) :
    ∃ u, takeRecord bus a r w = u ∧ (u.ring[a]).halt = 1 ∧ (u.ring[a]).bad = .none ∧
      (u.ring[a]).due = (s.ring[a]).due ++ [newReport o r.seq r.op .malformed c r.idx 0] ∧
      u = { o with ring := u.ring, regs := u.regs, link := u.link } := by
  have running := (canTake_running can).1
  have halts : takeRecord bus a r w = settleBad a (malformedHalt a r c o) := by
    subst opens
    exact takeRecord_halts idx code bad (by rw [judged.ring]; exact alone) (by rw [judged.ring]; exact running)
  rw [halts, settleBad_atRest (r := r) (c := c) (by rw [malformedHalt_at]) (by rw [malformedHalt_at]; exact judged.taken.trans none)
    (by rw [restsAt_malformedHalt, judged.rests, rests]), newReport_malformedHalt wf]
  refine ⟨_, rfl, ?_, ?_, ?_, eq_of_ringless (ringless_modRing.trans ringless_malformedHalt)⟩
  · rw [modRing_at, malformedHalt_at]
  · rw [modRing_at]
  · rw [modRing_at, malformedHalt_at, judged.ring]

/-- While the arm moves or another record stands before it, a record joins; a timed one is placed. -/
theorem later_joins (later : restsAt s a = false ∨ ∃ q, nextStop s a = some q ∧ q ≠ r) (fine : c = 0) (plain : r.op ≠ 0x60) :
    ∃ u, takeRecord bus a r w = u ∧ u.ring = vset o.ring a { o.ring[a] with taken := (s.ring[a]).taken ++ [r] } ∧
      u.tds.inserts = (if r.timed then s.tds.inserts ++ [(r.fl % 4 == 2, ⟨r.i64 8, s.clk.tag, 0, .output a.val r, false⟩)]
        else s.tds.inserts) ∧ u = { o with ring := u.ring, tds := { o.tds with inserts := u.tds.inserts } } := by
  have joins := joined_ring (r := r) judged.taken
  cases timed : r.timed with
  | true =>
    have places : takeRecord bus a r w = placeOutput a r (r.i64 8) (joined a r o) := by
      subst opens
      exact takeRecord_places idx code fine timed
    refine ⟨_, places, joins, ?_, rfl⟩
    rw [if_pos rfl, ← judged.inserts, ← judged.tag]
    rfl
  | false =>
    have waits : takeRecord bus a r w = joined a r o := by
      subst opens
      exact takeRecord_joins idx code fine timed (code_ne plain) (by rw [judged.rests, judged.next]; exact later)
    exact ⟨_, waits, joins, judged.inserts, rfl⟩

/-- A segment joins and is added to the chain that its arm plays next. -/
theorem segment_chains (fine : c = 0) (segment : r.op = 0x60) :
    ∃ (u : State) (g : Seg), takeRecord bus a r w = u ∧
      u.ring = vset o.ring a { o.ring[a] with taken := (s.ring[a]).taken ++ [r] } ∧
      (u.play[a]).next = some ((s.play[a]).next.getD [] ++ [g]) ∧ g.dur = r.n 8 4 ∧ g.c = segOf s a bus r ∧
      (u.play[a]).chain = (List.range (armJoints s a)).map (segEnd r) ∧ (u.play[a]).segs = (s.play[a]).segs ∧
      (∀ b : Arm, b ≠ a → u.play[b] = s.play[b]) ∧ u = { o with ring := u.ring, play := u.play } := by
  have chains : takeRecord bus a r w = takeSegment bus a r (joined a r o) := by
    subst opens
    exact takeRecord_chains idx code fine (by rw [RingRec.code, segment]; rfl)
  have frame : taking (joined a r o) = taking s := (taking_of_ringless ringless_modRing).trans judged.frame
  have play : (joined a r o).play = s.play := judged.play
  obtain ⟨g, dur, seg, plays⟩ : ∃ g : Seg, g.dur = r.n 8 4 ∧ g.c = segOf (joined a r o) a bus r ∧
      takeSegment bus a r (joined a r o) = modPlay a (fun p => { p with
        next := some (p.next.getD [] ++ [g]), chain := (List.range (armJoints (joined a r o) a)).map (segEnd r) }) (joined a r o) :=
    ⟨_, rfl, rfl, rfl⟩
  rw [armJoints_taking frame] at plays
  refine ⟨_, g, chains.trans plays, joined_ring judged.taken, ?_, dur, seg.trans (segOf_taking frame), ?_, ?_, fun b hb => ?_, rfl⟩
  all_goals rw [modPlay, play]
  · rw [vmod_same]
  · rw [vmod_same]
  · rw [vmod_same]
  · rw [vmod_other hb]

/-- A malformed record that must wait to be reported halts its ring at once. -/
theorem later_malformed (wf : regsWf o.regs = true) (can : canTake s a = true)
    (counter : reg o .arm a (Reg.CNT + 8) = reg s .arm a (Reg.CNT + 8)) (bad : c ≠ 0) (alone : (s.ring[a]).coupled = none)
    (later : restsAt s a = false ∨ (s.ring[a]).taken ≠ []) :
    ∃ u, takeRecord bus a r w = u ∧ (u.ring[a]).halt = 1 ∧ (u.ring[a]).bad = some (r, c) ∧
      (u.ring[a]).taken = (s.ring[a]).taken ∧ (∀ b : Arm, b ≠ a → u.ring[b] = s.ring[b]) ∧
      reg u .arm a Reg.ARM_LASTERR = BitVec.ofNat 32 (r.idx * 2 ^ 16 + c) ∧
      reg u .arm a (Reg.CNT + 8) = reg s .arm a (Reg.CNT + 8) + 1 ∧ bit (reg u .arm a Reg.IRQ_STAT) armHalt = true ∧
      RegsBut (regKey .arm a Reg.ARM_LASTERR :: eventKeys .arm a 2) o u ∧ u = { o with ring := u.ring, regs := u.regs, link := u.link } := by
  have running := (canTake_running can).1
  have halts : takeRecord bus a r w = settleBad a (malformedHalt a r c o) := by
    subst opens
    exact takeRecord_halts idx code bad (by rw [judged.ring]; exact alone) (by rw [judged.ring]; exact running)
  have waits : settleBad a (malformedHalt a r c o) = malformedHalt a r c o := by
    refine settleBad_waits (later.symm.imp (fun some => ?_) fun moving => ?_)
    · rw [malformedHalt_at]
      exact judged.taken ▸ some
    · rw [restsAt_malformedHalt, judged.rests, moving]
  obtain ⟨index, counts, flag⟩ := malformedHalt_regs (a := a) (r := r) (c := c) wf
  refine ⟨_, halts.trans waits, ?_, ?_, ?_, fun b hb => ?_, index, by rw [counts, counter], flag,
    regsBut_of_kept wf fun _ => regKept_malformedHalt, eq_of_ringless ringless_malformedHalt⟩
  · rw [malformedHalt_at]
  · rw [malformedHalt_at]
  · rw [malformedHalt_at]
    exact judged.taken
  · rw [malformedHalt_ring, vmod_other hb, judged.others b hb]

end Outcomes

end Sys2Proof.Machine

/-! The fifteen record commands (O48). -/

namespace Sys2Proof.Machine

variable {s : State} {a : Arm} {op : Byte} {x : RecArgs} {r : RingRec}

/-- The record commands with their codes (R205). -/
def recordCommands : List ((Arm → RecArgs → Instr) × Byte) :=
  [(.moveJ, 0x01), (.moveL, 0x02), (.moveC, 0x03), (.via, 0x04), (.waitTime, 0x10), (.waitPhase, 0x11), (.waitInput, 0x12),
    (.setOutput, 0x20), (.trackLine, 0x30), (.releaseLine, 0x31), (.speed, 0x40), (.tool, 0x41), (.rendezvous, 0x50),
    (.segment, 0x60), (.endRec, 0x7F)]

theorem exec_recordCommands (on : s.clk.on = true) : ∀ p ∈ recordCommands, exec (p.1 a x) s = .next (recordCommand a p.2 x s) := by
  simp only [recordCommands, List.forall_mem_cons]
  refine ⟨?_, ?_, ?_, ?_, ?_, ?_, ?_, ?_, ?_, ?_, ?_, ?_, ?_, ?_, ?_, nofun⟩ <;> exact run_on on

theorem taken_of_nextStop (h : ∃ q, nextStop s a = some q ∧ q ≠ r) : (s.ring[a]).taken ≠ [] := by
  obtain ⟨q, next, -⟩ := h
  intro none
  rw [nextStop, none] at next
  exact nomatch next

/-- A record that is written between plan-cycle starts stands in the ring and is visible; nothing else has changed (R200, R201). -/
theorem hostRecord_placed (wf : regsWf s.regs = true) (mem : memWf s.mem = true) (room : unconsumed s a < 1023) :
    readRecord (hostRecord a op x s) a (wrIdx s a) = recordOf (wrIdx s a) op x ∧
    wrIdx (hostRecord a op x s) a = (wrIdx s a + 1) % 1024 ∧ unconsumed (hostRecord a op x s) a = unconsumed s a + 1 ∧
    (∀ k : Nat, k < ringAddr a (wrIdx s a) ∨ ringAddr a (wrIdx s a) + 128 ≤ k → memByte (hostRecord a op x s) k = memByte s k) ∧
    RegsBut [regKey .arm a Reg.ARM_WR_IDX] s (hostRecord a op x s) ∧
    hostRecord a op x s = { s with mem := (hostRecord a op x s).mem, regs := (hostRecord a op x s).regs } :=
  ⟨hostRecord_reads mem, hostRecord_wrIdx wf, hostRecord_unconsumed wf room, fun _ => hostRecord_elsewhere mem,
    regsBut_of_kept wf fun _ hk => regKept_hostRecord (by simpa using hk), eq_of_unstored unstored_hostRecord⟩

/-- Settles O48: the command writes its record into the ring; at a plan-cycle start the path sampler judges it, and what it makes of it
follows from its code, from its checks and from what stands before it. -/
theorem armRecordsTaken : Obligations.ArmRecordsTaken := by
  unfold Obligations.ArmRecordsTaken
  rintro s a x on wf mem p hp r h o hr hh ho
  have acts : exec (p.1 a x) s = .next (recordCommand a p.2 x s) := exec_recordCommands on p hp
  replace hr : r = recordOf (wrIdx s a) p.2 x := hr
  replace ho : o = readOn a (counting a h) := ho
  have sampled {u : State} (e : recordCommand a p.2 x s = u) : exec (p.1 a x) s = .next u := acts.trans (congrArg _ e)
  have idx : r.idx = wrIdx s a := by rw [hr]; rfl
  have code : r.op = p.2 := by rw [hr]; rfl
  clear acts hp
  refine ⟨fun full => sampled (recordCommand_full full), fun room between => ?_, fun empty start few => ?_⟩
  · have placed := hostRecord_placed (a := a) (op := p.2) (x := x) wf mem room
    rw [← hh, ← hr, ← idx] at placed
    rw [← idx]
    exact ⟨hh ▸ sampled (recordCommand_between room between), placed⟩
  have judged : Judges a s o := by rw [ho, hh]; exact judges_opened
  have wf' : regsWf o.regs = true := by rw [ho, hh]; exact regsWf_opened wf
  have counter : reg o .arm a (Reg.CNT + 8) = reg s .arm a (Reg.CNT + 8) := by rw [ho, hh]; exact opened_reg wf (by decide)
  have index : rdIdx (counting a h) a = r.idx := by rw [counting, rdIdx_modRing, idx, hh, hostRecord_rdIdx wf, indices_meet empty]
  have takes (can : canTake s a = true) {u : State} (e : takeRecord (busNs s) a r (counting a h) = u) :
      exec (p.1 a x) s = .next (samplePath a u) := by
    rw [← e, hr, hh]
    exact sampled (recordCommand_taken wf mem empty start can few)
  rw [← code]
  refine ⟨fun can => hh ▸ sampled (recordCommand_untaken wf empty start can), fun can rests first => ⟨fun fine untimed plain => ?_,
    fun c fault bad alone none => ?_⟩, fun can later => ⟨?_, ?_, ?_, ?_, fun fine plain => ?_, fun fine segment => ?_,
    fun c fault bad alone => ?_⟩⟩
  · obtain ⟨u, e, rest⟩ := first_acts ho.symm index fine judged rests first rfl untimed plain
    exact ⟨u, takes can e, rest⟩
  · obtain ⟨u, e, rest⟩ := first_malformed ho.symm index fault judged wf' can rests bad alone none
    exact ⟨u, takes can e, rest⟩
  · rw [ho, hh]
    exact opened_rdIdx wf empty
  · rw [ho, hh]
    exact opened_counts wf
  · rw [ho]
    exact mem_of_ringless (ringless_readOn.trans ringless_modRing)
  · rw [ho, hh]
    exact regsBut_opened wf
  · obtain ⟨u, e, rest⟩ := later_joins ho.symm index fine judged later rfl plain
    exact ⟨u, takes can e, rest⟩
  · obtain ⟨u, g, e, rest⟩ := segment_chains ho.symm index fine judged rfl segment
    exact ⟨u, g, takes can e, rest⟩
  · obtain ⟨u, e, rest⟩ := later_malformed ho.symm index fault judged wf' can counter bad alone (later.imp_right taken_of_nextStop)
    exact ⟨u, takes can e, rest⟩

end Sys2Proof.Machine

/-! SUPPORT. Events of a page, and the settings of the kinematics units: payload identification and the host's parameters (R62, R261, R262,
R264, R265). -/

namespace Sys2Proof.Machine

variable {s t : State} {a b : Arm} {p : Pg} {i n m k off : Nat} {v : Word}

-- An event that interrupts and counts (R62, R63)

theorem event_flag (wf : regsWf s.regs = true) (hm : m < 32) :
    bit (reg (count p i n (irq p i m s)) p i Reg.IRQ_STAT) m = true := count_keepsFlag (regsWf_irq wf) (irq_bit wf hm)

theorem event_counts (wf : regsWf s.regs = true) (hn : n < 16) :
    reg (count p i n (irq p i m s)) p i (Reg.CNT + 4 * n) = reg s p i (Reg.CNT + 4 * n) + 1 := by
  have before : RegKept (regKey p i (Reg.CNT + 4 * n)) s (irq p i m s) := regKept_irq (regKey_apart (by simp only [Reg.CNT, Reg.IRQ_STAT]; omega))
  rw [count_reg (before.wf wf) hn, before.reg wf]

theorem regKept_event (h : k ∉ eventKeys p i n) : RegKept k s (count p i n (irq p i m s)) :=
  (regKept_irq fun e => h (by simp [e, eventKeys])).trans (regKept_count h)

theorem writes_event (hn : n < 16) : Writes [Reg.CNT + 4 * n, Reg.CNT_OVF, Reg.IRQ_STAT] s (count p i n (irq p i m s)) :=
  (writes_irq.mono (by simp)).trans (writes_count hn)

@[simp] theorem quiet_event : quiet (count p i n (irq p i m s)) = quiet s := quiet_count.trans quiet_irq

-- Fields

/-- A field above the one that is set reads as it was. -/
theorem field_setField_above {w hi lo hi' lo' x : Nat} {c : BitVec w} (h : lo ≤ hi) (above : hi < lo') (h' : lo' ≤ hi') (hw : hi' < w) :
    field (setField c hi lo x) hi' lo' = field c hi' lo' := by
  refine Nat.eq_of_testBit_eq fun j => ?_
  rw [testBit_field h', testBit_field h']
  by_cases hj : j ≤ hi' - lo'
  · rw [getLsbD_setField h (by omega), if_neg (by omega)]
  · rw [decide_eq_false hj, Bool.false_and, Bool.false_and]

/-- A field below the one that is set reads as it was. -/
theorem field_setField_below {w hi lo hi' lo' x : Nat} {c : BitVec w} (h : lo ≤ hi) (hw : hi < w) (below : hi' < lo) (h' : lo' ≤ hi') :
    field (setField c hi lo x) hi' lo' = field c hi' lo' := by
  refine Nat.eq_of_testBit_eq fun j => ?_
  rw [testBit_field h', testBit_field h']
  by_cases hj : j ≤ hi' - lo'
  · rw [getLsbD_setField h (by omega), if_neg (by omega)]
  · rw [decide_eq_false hj, Bool.false_and, Bool.false_and]

theorem fld_setFld_same {hi lo x : Nat} (wf : regsWf s.regs = true) (h : lo ≤ hi) (hi32 : hi < 32) :
    fld (setFld p i off hi lo x s) p i off hi lo = x % 2 ^ (hi + 1 - lo) := by
  rw [fld, setFld, reg_setReg_same wf, field_setField h hi32]

-- Frames

/-- A state without its payload identification, register file and host link. -/
def identless (s : State) : State := { quiet s with ident := Vector.replicate 12 {} }

theorem eq_of_identless (h : identless t = identless s) : t = { s with ident := t.ident, regs := t.regs, link := t.link } := by
  cases t; cases s; cases h; rfl

theorem identless_of_quiet (h : quiet t = quiet s) : identless t = identless s :=
  congrArg (fun x => { x with ident := Vector.replicate 12 {} }) h

theorem ident_of_quiet (h : quiet t = quiet s) : t.ident = s.ident := (congrArg State.ident h :)

theorem identless_modIdent {f : Ident → Ident} : identless (modIdent a f s) = identless s := rfl

theorem writes_modIdent {l : List Nat} {f : Ident → Ident} : Writes l s (modIdent a f s) := writes_of_regs rfl

-- PRESET (R264)

theorem exec_preset (on : s.clk.on = true) (wf : regsWf s.regs = true) :
    ∃ t, exec (.preset a) s = .next t ∧ (t.ident[a]).theta = toolTheta (s.ring[a]).tool ∧ (t.ident[a]).p = diagonal (p0Of s a) ∧
      (∀ b : Arm, b ≠ a → t.ident[b] = s.ident[b]) ∧ reg t .kin a Reg.CHG = reg s .kin a Reg.CHG + 1 ∧
      RegsBut [regKey .kin a Reg.CHG] s t ∧ t = { s with ident := t.ident, regs := t.regs } := by
  have acts : staged .kin a (restartIdent a) s = chg .kin a (restartIdent a s) := staged_kept wf fun u => regKept_of_regs rfl
  have ident : (restartIdent a s).ident =
      vmod s.ident a fun i => { i with theta := toolTheta (s.ring[a]).tool, p := diagonal (p0Of s a) } := rfl
  refine ⟨_, (run_on on).trans (congrArg _ acts), ?_, ?_, fun b hb => ?_, chg_counts wf, fun k hk => ?_, rfl⟩
  · rw [chg_ident, ident, vmod_same]
  · rw [chg_ident, ident, vmod_same]
  · rw [chg_ident, ident, vmod_other hb]
  · exact chg_regAt_other (s := restartIdent a s) wf (by simpa using hk)

-- The host's parameters (R265)

theorem exec_kinHaWindowExpiry (on : s.clk.on = true) (wf : regsWf s.regs = true) (ha : assisted s .kin a = true)
    (passed : fld s .kin a Reg.KIN_HA_CFG 15 0 ≤ (s.ident[a]).haAge) :
    ∃ t, exec (.kinHaWindowExpiry a) s = .next t ∧ t.ident = vset s.ident a { s.ident[a] with haAge := 0 } ∧
      bit (reg t .kin a Reg.IRQ_STAT) irqHaLate = true ∧ reg t .kin a (Reg.CNT + 20) = reg s .kin a (Reg.CNT + 20) + 1 ∧
      RegsBut (eventKeys .kin a 5) s t ∧ t = { s with ident := t.ident, regs := t.regs, link := t.link } := by
  have acts : kinHaExpiry a s = count .kin a 5 (irq .kin a irqHaLate (modIdent a (fun i => { i with haAge := 0 }) s)) :=
    if_pos ⟨ha, passed⟩
  refine ⟨_, (run_on on).trans (congrArg _ acts), ?_, event_flag wf (by decide), event_counts wf (by decide),
    regsBut_of_kept wf fun k hk => ?_, eq_of_identless ((identless_of_quiet quiet_event).trans identless_modIdent)⟩
  · rw [count_ident, irq_ident]
    rfl
  · exact RegKept.trans (t := modIdent a _ s) (regKept_of_regs rfl) (regKept_event hk)

-- Identification updates (R260 to R263)

theorem skipCause_lt : skipCause s a < 8 := by
  unfold skipCause
  dsimp only
  repeat' split
  all_goals decide

/-- An update without the image's model or gravity does nothing. -/
theorem identUpdate_none (h : armModel s a = none ∨ s.arms = none) : identUpdate a s = s := by
  unfold identUpdate
  dsimp only
  split
  · next m im hm him => exact absurd h (by simp [hm, him])
  · rfl

section Update
variable {mo : ArmModel} {im : ArmsImage} (model : armModel s a = some mo) (arms : s.arms = some im)
include model arms

theorem identUpdate_skipped (skips : skipCause s a ≠ 0) : ∃ st, identUpdate a s =
    count .kin a 1 (setIdStat a st (setFld .kin a Reg.KIN_ID_STAT 15 8 (skipCause s a) s)) := by
  unfold identUpdate
  simp only [model, arms, if_pos skips]
  exact ⟨_, rfl⟩

theorem exec_identificationUpdate_skipped (on : s.clk.on = true) (wf : regsWf s.regs = true) (skips : skipCause s a ≠ 0) :
    ∃ t, exec (.identificationUpdate a) s = .next t ∧
      reg t .kin a (Reg.CNT + 4) = reg s .kin a (Reg.CNT + 4) + 1 ∧ fld t .kin a Reg.KIN_ID_STAT 15 8 = skipCause s a ∧
      RegsBut (regKey .kin a Reg.KIN_ID_STAT :: eventKeys .kin a 1) s t ∧ t = { s with regs := t.regs, link := t.link } := by
  obtain ⟨st, acts⟩ := identUpdate_skipped model arms skips
  have wf1 : regsWf (setFld .kin a Reg.KIN_ID_STAT 15 8 (skipCause s a) s).regs = true := regsWf_setReg wf
  have wf2 : regsWf (setIdStat a st (setFld .kin a Reg.KIN_ID_STAT 15 8 (skipCause s a) s)).regs = true := regsWf_setReg wf1
  have noted (k : Nat) (hk : k ≠ regKey .kin a Reg.KIN_ID_STAT) :
      RegKept k s (setIdStat a st (setFld .kin a Reg.KIN_ID_STAT 15 8 (skipCause s a) s)) := (regKept_setReg hk).trans (regKept_setReg hk)
  refine ⟨_, (run_on on).trans (congrArg _ acts), ?_, ?_, regsBut_of_kept wf fun k hk => ?_, eq_of_quiet (quiet_count.trans rfl)⟩
  · rw [show Reg.CNT + 4 = Reg.CNT + 4 * 1 from rfl, count_reg wf2 (by decide), (noted _ (regKey_apart (by decide))).reg wf]
  · have kept : RegKept (regKey .kin a Reg.KIN_ID_STAT) _ (count .kin a 1 (setIdStat a st (setFld .kin a Reg.KIN_ID_STAT 15 8 (skipCause s a) s))) :=
      regKept_count (eventKeys_notMem (by rw [regKey_mod (by decide)]; decide) (by decide))
    rw [fld, kept.reg wf2, setIdStat, setFld, reg_setReg_same wf1, field_setField_above (by decide) (by decide) (by decide) (by decide),
      ← fld, fld_setFld_same wf (by decide) (by decide)]
    exact Nat.mod_eq_of_lt (skipCause_lt.trans (by decide))
  · rw [List.mem_cons, not_or] at hk
    exact (noted k hk.1).trans (regKept_count hk.2)

/-- What an update notes before it judges its result: `ID_STAT`, `RESID`, and a clamped parameter (R262, R263). -/
def identNoted (a : Arm) (raw th err : List F64) (s : State) : State :=
  let u := setFlag .kin a Reg.KIN_ID_STAT 4 (th != raw) (setReg .kin a Reg.KIN_RESID (fOfD (rmsOf err)) (setIdStat a 1 s))
  if (th != raw) = true then count .kin a 2 (irq .kin a kinClamp u) else u

/-- Consistent parameters come into force; an element of P above its start restarts P (R262). -/
def identTaken (a : Arm) (p0 th : List F64) (p : List (List F64)) (s : State) : State :=
  let exceeds := p0.zipIdx.any fun x => dLt x.1 ((p.getD x.2 []).getD x.2 0)
  let u := count .kin a 0 (modIdent a (fun i => { i with theta := th, p := if exceeds then diagonal p0 else p }) s)
  if exceeds then count .kin a 4 (irq .kin a kinPreset u) else u

theorem identUpdate_runs {th : List F64} (runs : skipCause s a = 0)
    (clamps : th = ((identStep s a mo im.gravity).1.zipIdx.map fun x => clampParam s a x.2 x.1)) :
    identUpdate a s =
      (let u := identNoted a (identStep s a mo im.gravity).1 th (identStep s a mo im.gravity).2.2 s
       if consistent th then identTaken a mo.p0 th (identStep s a mo im.gravity).2.1 u else count .kin a 3 (irq .kin a kinPhys u)) := by
  unfold identUpdate
  simp only [model, arms, if_neg (not_not.mpr runs), ← clamps]
  rfl

end Update

section Judged
variable {raw th err p0 : List F64} {q : List (List F64)}

theorem writes_identNoted : Writes [Reg.KIN_ID_STAT, Reg.KIN_RESID, Reg.CNT + 4 * 2, Reg.CNT_OVF, Reg.IRQ_STAT] s (identNoted a raw th err s) := by
  have noted : Writes [Reg.KIN_ID_STAT, Reg.KIN_RESID, Reg.CNT + 4 * 2, Reg.CNT_OVF, Reg.IRQ_STAT] s
      (setFlag .kin a Reg.KIN_ID_STAT 4 (th != raw) (setReg .kin a Reg.KIN_RESID (fOfD (rmsOf err)) (setIdStat a 1 s))) :=
    (((writes_setReg (by decide) (by decide)).mono (by decide)).trans ((writes_setReg (by decide) (by decide)).mono (by decide))).trans
      ((writes_setReg (by decide) (by decide)).mono (by decide))
  unfold identNoted
  dsimp only
  split
  · exact noted.trans ((writes_event (by decide)).mono (by decide))
  · exact noted

theorem quiet_identNoted : quiet (identNoted a raw th err s) = quiet s := by
  unfold identNoted
  dsimp only
  split
  · exact quiet_event.trans rfl
  · rfl

theorem identNoted_stat (wf : regsWf s.regs = true) : bit (reg (identNoted a raw th err s) .kin a Reg.KIN_ID_STAT) 4 = (th != raw) ∧
    fld (identNoted a raw th err s) .kin a Reg.KIN_ID_STAT 1 0 = 1 := by
  have wf1 : regsWf (setIdStat a 1 s).regs = true := regsWf_setReg wf
  have wf2 : regsWf (setReg .kin a Reg.KIN_RESID (fOfD (rmsOf err)) (setIdStat a 1 s)).regs = true := regsWf_setReg wf1
  have set : bit (reg (setFlag .kin a Reg.KIN_ID_STAT 4 (th != raw) (setReg .kin a Reg.KIN_RESID (fOfD (rmsOf err)) (setIdStat a 1 s)))
      .kin a Reg.KIN_ID_STAT) 4 = (th != raw) := flag_setFlag wf2 (by decide)
  have state : fld (setFlag .kin a Reg.KIN_ID_STAT 4 (th != raw) (setReg .kin a Reg.KIN_RESID (fOfD (rmsOf err)) (setIdStat a 1 s)))
      .kin a Reg.KIN_ID_STAT 1 0 = 1 := by
    rw [fld, setFlag, setFld, reg_setReg_same wf2, field_setField_below (by decide) (by decide) (by decide) (by decide),
      reg_setReg_other wf1 (by decide), ← fld, setIdStat, fld_setFld_same wf (by decide) (by decide)]
    rfl
  have wf3 := regsWf_setFlag (p := .kin) (i := a) (off := Reg.KIN_ID_STAT) (b := 4) (x := th != raw) wf2
  unfold identNoted
  dsimp only
  generalize setFlag .kin a Reg.KIN_ID_STAT 4 (th != raw) _ = u at set state wf3 ⊢
  split
  · rw [fld, (writes_event (by decide)).reg wf3 (by decide)]
    exact ⟨set, state⟩
  · exact ⟨set, state⟩

theorem writes_identTaken : Writes [Reg.CNT + 4 * 0, Reg.CNT + 4 * 4, Reg.CNT_OVF, Reg.IRQ_STAT] s (identTaken a p0 th q s) := by
  unfold identTaken
  dsimp only
  split
  · exact (writes_modIdent.trans ((writes_count (by decide)).mono (by decide))).trans ((writes_event (by decide)).mono (by decide))
  · exact writes_modIdent.trans ((writes_count (by decide)).mono (by decide))

theorem identless_identTaken : identless (identTaken a p0 th q s) = identless s := by
  have counted {f : Ident → Ident} : identless (count .kin a 0 (modIdent a f s)) = identless s :=
    (identless_of_quiet quiet_count).trans identless_modIdent
  unfold identTaken
  dsimp only
  split
  · exact (identless_of_quiet quiet_event).trans counted
  · exact counted

/-- The identification of the arm after it, and of no other. -/
theorem identTaken_ident : ∃ x, (identTaken a p0 th q s).ident = vmod s.ident a (fun i => { i with theta := th, p := x }) ∧
    (x = q ∨ x = diagonal p0) := by
  unfold identTaken
  dsimp only
  split
  · exact ⟨_, by rw [count_ident, irq_ident, count_ident]; rfl, .inr rfl⟩
  · exact ⟨_, by rw [count_ident]; rfl, .inl rfl⟩

theorem identTaken_counts (wf : regsWf s.regs = true) :
    reg (identTaken a p0 th q s) .kin a Reg.CNT = reg s .kin a Reg.CNT + 1 := by
  have counted {f : Ident → Ident} : reg (count .kin a 0 (modIdent a f s)) .kin a Reg.CNT = reg s .kin a Reg.CNT + 1 :=
    count_reg (s := modIdent a f s) (n := 0) wf (by decide)
  have wf1 {f : Ident → Ident} : regsWf (count .kin a 0 (modIdent a f s)).regs = true := regsWf_count (s := modIdent a f s) wf
  unfold identTaken
  dsimp only
  split
  · exact ((writes_event (by decide)).reg wf1 (by decide)).trans counted
  · exact counted

end Judged

/-- R260 to R263: an update that runs. -/
theorem exec_identificationUpdate_runs {mo : ArmModel} {im : ArmsImage} (model : armModel s a = some mo) (arms : s.arms = some im)
    (on : s.clk.on = true) (wf : regsWf s.regs = true) {th : List F64} (runs : skipCause s a = 0)
    (clamps : th = ((identStep s a mo im.gravity).1.zipIdx.map fun x => clampParam s a x.2 x.1)) :
    ∃ t, exec (.identificationUpdate a) s = .next t ∧
      (consistent th = true → (t.ident[a]).theta = th ∧
        ((t.ident[a]).p = (identStep s a mo im.gravity).2.1 ∨ (t.ident[a]).p = diagonal mo.p0) ∧
        reg t .kin a Reg.CNT = reg s .kin a Reg.CNT + 1) ∧
      (consistent th = false → t.ident = s.ident ∧ reg t .kin a (Reg.CNT + 12) = reg s .kin a (Reg.CNT + 12) + 1 ∧
        bit (reg t .kin a Reg.IRQ_STAT) kinPhys = true) ∧
      bit (reg t .kin a Reg.KIN_ID_STAT) 4 = (th != (identStep s a mo im.gravity).1) ∧ fld t .kin a Reg.KIN_ID_STAT 1 0 = 1 ∧
      (∀ b : Arm, b ≠ a → t.ident[b] = s.ident[b]) ∧ t = { s with ident := t.ident, regs := t.regs, link := t.link } := by
  have acts := identUpdate_runs model arms runs clamps
  generalize identStep s a mo im.gravity = x at acts ⊢
  have noted := writes_identNoted (s := s) (a := a) (raw := x.1) (th := th) (err := x.2.2)
  have same := quiet_identNoted (s := s) (a := a) (raw := x.1) (th := th) (err := x.2.2)
  obtain ⟨clamped, state⟩ := identNoted_stat (a := a) (raw := x.1) (th := th) (err := x.2.2) wf
  dsimp only at acts
  generalize identNoted a x.1 th x.2.2 s = u at acts noted same clamped state
  have wfu := noted.wf wf
  have ident : u.ident = s.ident := ident_of_quiet same
  refine ⟨_, run_on on, ?_⟩
  rw [acts]
  by_cases fits : consistent th = true
  · rw [if_pos fits]
    have taken := writes_identTaken (s := u) (a := a) (p0 := mo.p0) (th := th) (q := x.2.1)
    have stat := taken.reg (p := .kin) (i := a) (off := Reg.KIN_ID_STAT) wfu (by decide)
    obtain ⟨y, after, hy⟩ := identTaken_ident (s := u) (a := a) (p0 := mo.p0) (th := th) (q := x.2.1)
    rw [fld, stat, after, vmod_same]
    refine ⟨fun _ => ⟨rfl, hy, ?_⟩, fun h => (by rw [fits] at h; exact nomatch h), clamped, state, fun b hb => ?_,
      after ▸ eq_of_identless (identless_identTaken.trans (identless_of_quiet same))⟩
    · rw [identTaken_counts wfu, noted.reg wf (by decide)]
    · rw [vmod_other hb, ident]
  · rw [if_neg fits]
    have stat := (writes_event (n := 3) (m := kinPhys) (s := u) (p := .kin) (i := a) (by decide)).reg
      (p := .kin) (i := a) (off := Reg.KIN_ID_STAT) wfu (by decide)
    have after : (count .kin a 3 (irq .kin a kinPhys u)).ident = s.ident := by rw [count_ident, irq_ident, ident]
    rw [fld, stat]
    refine ⟨fun h => absurd h fits, fun _ => ⟨after, ?_, event_flag wfu (by decide)⟩, clamped, state, fun b _ => by rw [after],
      eq_of_identless (identless_of_quiet (quiet_event.trans same))⟩
    rw [show Reg.CNT + 12 = Reg.CNT + 4 * 3 from rfl, event_counts wfu (by decide), noted.reg wf (by decide)]

end Sys2Proof.Machine

/-! SUPPORT. The settings of Plefin and the pattern switch (R299, R306, R309). -/

namespace Sys2Proof.Machine

variable {s t u : State} {k c : Nat} {v : Word} {b : Pattern}

-- TOL and FLOOR (R309)

/-- A pair of registers that a write sets together, and counts once. -/
theorem chg_setPair {p : Pg} {i high low : Nat} {x y : Word} (wf : regsWf s.regs = true) (apart : low ≠ high) (hc : high ≠ Reg.CHG)
    (lc : low ≠ Reg.CHG) : reg (chg p i (setReg p i high x (setReg p i low y s))) p i high = x ∧
      reg (chg p i (setReg p i high x (setReg p i low y s))) p i low = y ∧
      RegsBut [regKey p i high, regKey p i low, regKey p i Reg.CHG] s (chg p i (setReg p i high x (setReg p i low y s))) := by
  have wf1 : regsWf (setReg p i low y s).regs = true := regsWf_setReg wf
  have wf2 : regsWf (setReg p i high x (setReg p i low y s)).regs = true := regsWf_setReg wf1
  refine ⟨?_, ?_, regsBut_of_kept wf fun k hk => ?_⟩
  · rw [(regKept_chg (regKey_apart hc)).reg wf2, reg_setReg_same wf1]
  · rw [(regKept_chg (regKey_apart lc)).reg wf2, reg_setReg_other wf1 apart, reg_setReg_same wf]
  · simp only [List.mem_cons, List.not_mem_nil, or_false, not_or] at hk
    obtain ⟨notHigh, notLow, notChg⟩ := hk
    exact ((regKept_setReg notLow).trans (regKept_setReg notHigh)).trans (regKept_chg notChg)

theorem exec_tolHi_taken (on : s.clk.on = true) (wf : regsWf s.regs = true) (fits : pairWithin (join64 v s.plf.tolLo) 15 2 = true) :
    ∃ t, exec (.tolHi v) s = .next t ∧ reg t .plf 0 Reg.PLF_TOL_HI = v ∧ reg t .plf 0 Reg.PLF_TOL_LO = s.plf.tolLo ∧
      RegsBut [regKey .plf 0 Reg.PLF_TOL_HI, regKey .plf 0 Reg.PLF_TOL_LO, regKey .plf 0 Reg.CHG] s t ∧ t = { s with regs := t.regs } := by
  have acts : writeTolHi v s = chg .plf 0 (setReg .plf 0 Reg.PLF_TOL_HI v (setReg .plf 0 Reg.PLF_TOL_LO s.plf.tolLo s)) := if_pos fits
  obtain ⟨high, low, regs⟩ := chg_setPair (p := .plf) (i := 0) (x := v) (y := s.plf.tolLo) wf (by decide : Reg.PLF_TOL_LO ≠ Reg.PLF_TOL_HI)
    (by decide) (by decide)
  exact ⟨_, (run_on on).trans (congrArg _ acts), high, low, regs, rfl⟩

theorem exec_tolHi_refused (on : s.clk.on = true) (wf : regsWf s.regs = true) (out : pairWithin (join64 v s.plf.tolLo) 15 2 = false) :
    ∃ t, exec (.tolHi v) s = .next t ∧ field (reg t .plf 0 Reg.ERR) 15 0 = 4 ∧ RegsBut (errKeys .plf 0) s t := by
  have acts : writeTolHi v s = recordErr .plf 0 0x0004 (modPlf (fun x => { x with tolLo := reg s .plf 0 Reg.PLF_TOL_LO }) s) :=
    if_neg (by rw [out]; decide)
  exact ⟨_, (run_on on).trans (congrArg _ acts), recordErr_code wf (by decide), fun k hk => recordErr_regAt_other (s := modPlf _ s) wf hk⟩

theorem exec_floorHi_taken (on : s.clk.on = true) (wf : regsWf s.regs = true) (fits : pairWithin (join64 v s.plf.floorLo) 16 6 = true) :
    ∃ t, exec (.floorHi v) s = .next t ∧ reg t .plf 0 Reg.PLF_FLOOR_HI = v ∧ reg t .plf 0 Reg.PLF_FLOOR_LO = s.plf.floorLo ∧
      RegsBut [regKey .plf 0 Reg.PLF_FLOOR_HI, regKey .plf 0 Reg.PLF_FLOOR_LO, regKey .plf 0 Reg.CHG] s t ∧ t = { s with regs := t.regs } := by
  have acts : writeFloorHi v s = chg .plf 0 (setReg .plf 0 Reg.PLF_FLOOR_HI v (setReg .plf 0 Reg.PLF_FLOOR_LO s.plf.floorLo s)) := if_pos fits
  obtain ⟨high, low, regs⟩ := chg_setPair (p := .plf) (i := 0) (x := v) (y := s.plf.floorLo) wf (by decide : Reg.PLF_FLOOR_LO ≠ Reg.PLF_FLOOR_HI)
    (by decide) (by decide)
  exact ⟨_, (run_on on).trans (congrArg _ acts), high, low, regs, rfl⟩

-- PLF.GO (R299, R306)

theorem requestPatternSwitch_empty (h : s.plf.banks[other s.plf.act] = none) :
    requestPatternSwitch s = recordErr .plf 0 0x0100 s := by
  simp only [requestPatternSwitch, h]

section Bank
variable (bank : s.plf.banks[other s.plf.act] = some b)
include bank

theorem requestPatternSwitch_waits (h : s.plf.pend.isSome = true) : requestPatternSwitch s = recordErr .plf 0 0x0101 s := by
  simp only [requestPatternSwitch, bank, h, if_true]

theorem requestPatternSwitch_jerk (h : s.plf.pend = none) (low : dLt (tsJerk s) (jerkBound s b) = true) :
    requestPatternSwitch s = recordErr .plf 0 0x0105 s := by
  simp only [requestPatternSwitch, bank, h, low, Option.isSome_none, Bool.false_eq_true, if_false, if_true]

theorem requestPatternSwitch_taken (h : s.plf.pend = none) (enough : dLt (tsJerk s) (jerkBound s b) = false) :
    requestPatternSwitch s = modPlf (fun x => { x with pend := some (s.clk.tag.toNat + planBus s) }) s := by
  simp only [requestPatternSwitch, bank, h, enough, Option.isSome_none, Bool.false_eq_true, if_false]

end Bank

theorem tsJerk_setErr (wf : regsWf s.regs = true) : tsJerk (setReg .plf 0 Reg.ERR v s) = tsJerk s := by
  rw [tsJerk, reg_setReg_other wf (by decide), tsJerk]

/-- A request that is refused, by a reason that `ERR` does not touch. -/
theorem exec_plfGo_refused (on : s.clk.on = true) (wf : regsWf s.regs = true) (hc : c < 2 ^ 16)
    (refuses : requestPatternSwitch s = recordErr .plf 0 c s)
    (still : requestPatternSwitch (setReg .plf 0 Reg.ERR 0 s) = recordErr .plf 0 c (setReg .plf 0 Reg.ERR 0 s)) :
    ∃ t, exec .plfGo s = .next t ∧ field (reg t .plf 0 Reg.ERR) 15 0 = c ∧ t.plf = s.plf :=
  ⟨_, (run_on on).trans (congrArg _ ((staged_recordErr wf still).trans refuses)), recordErr_code wf hc, recordErr_plf⟩

theorem exec_plfGo_taken (on : s.clk.on = true) (wf : regsWf s.regs = true) (bank : s.plf.banks[other s.plf.act] = some b)
    (free : s.plf.pend = none) (enough : dLt (tsJerk s) (jerkBound s b) = false) : ∃ t, exec .plfGo s = .next t ∧
      t.plf = { s.plf with pend := some (s.clk.tag.toNat + planBus s) } ∧ RegsBut [regKey .plf 0 Reg.CHG] s t ∧
      t = { s with plf := t.plf, regs := t.regs } := by
  have first : requestPatternSwitch (setReg .plf 0 Reg.ERR 0 s) = modPlf _ (setReg .plf 0 Reg.ERR 0 s) :=
    requestPatternSwitch_taken (s := setReg .plf 0 Reg.ERR 0 s) bank free (by rw [tsJerk_setErr wf]; exact enough)
  have clear : reg (requestPatternSwitch (setReg .plf 0 Reg.ERR 0 s)) .plf 0 Reg.ERR = 0 := by
    rw [first]
    exact reg_setReg_same wf
  have acts := (staged_accepted clear).trans (congrArg (chg .plf 0) (requestPatternSwitch_taken bank free enough))
  exact ⟨_, (run_on on).trans (congrArg _ acts), rfl, fun k hk => chg_regAt_other (s := modPlf _ s) wf (by simpa using hk), rfl⟩

-- The pattern switch (R306)

theorem exec_patternBankSwitch (on : s.clk.on = true) (wf : regsWf s.regs = true) (due : patternDue s = true) :
    ∃ t, exec .patternBankSwitch s = .next (refreshReady t) ∧
      t.plf = { s.plf with act := other s.plf.act, pend := none, fresh := true } ∧
      t.arms = s.armsNext ∧ t.armsNext = s.arms ∧ bit (reg t .plf 0 Reg.IRQ_STAT) plfBankSw = true ∧
      reg t .plf 0 (Reg.CNT + 36) = reg s .plf 0 (Reg.CNT + 36) + 1 ∧ RegsBut (eventKeys .plf 0 9) s t ∧
      t = { s with plf := t.plf, arms := t.arms, armsNext := t.armsNext, img := t.img, regs := t.regs, link := t.link } := by
  generalize hu : modPlf (fun x => { x with act := other x.act, pend := none, fresh := true })
    { s with arms := s.armsNext, armsNext := s.arms } = u
  have swaps : switchPattern s = count .plf 0 9 (irq .plf 0 plfBankSw u) := by rw [← hu]; rfl
  have same : RegsBut [] s u := regsBut_of_regs (by rw [← hu]; rfl)
  have wfu : regsWf u.regs = true := by rw [← hu]; exact wf
  have flag := event_flag (p := .plf) (i := 0) (n := 9) (m := plfBankSw) wfu (by decide)
  have counts := (event_counts (p := .plf) (i := 0) (n := 9) (m := plfBankSw) wfu (by decide)).trans (congrArg (· + 1) (same _ (by simp)))
  have regs : RegsBut (eventKeys .plf 0 9) s (count .plf 0 9 (irq .plf 0 plfBankSw u)) :=
    fun k hk => ((regKept_event hk).same wfu).trans (same k (by simp))
  have frame := quiet_event (s := u) (p := .plf) (i := 0) (n := 9) (m := plfBankSw)
  generalize count .plf 0 9 (irq .plf 0 plfBankSw u) = w at swaps flag counts regs frame
  have told := bankActive_eq (k := 3) (s := w)
  generalize (bankActive 3 w).img = x at told
  have acts : patternSwitch s = { w with img := x } := by rw [patternSwitch, if_pos due, swaps, told]
  have after := eq_of_quiet frame
  have plf : w.plf = u.plf := (congrArg State.plf frame :)
  have arms : w.arms = u.arms := (congrArg State.arms frame :)
  have next : w.armsNext = u.armsNext := (congrArg State.armsNext frame :)
  refine ⟨_, runReady_on on, ?_⟩
  rw [acts]
  refine ⟨plf.trans (by rw [← hu]; rfl), arms.trans (by rw [← hu]; rfl), next.trans (by rw [← hu]; rfl), flag, counts, regs, ?_⟩
  rw [after, ← hu]
  rfl

/-- Settles O51, command by command. -/
theorem plefinSettings : Obligations.PlefinSettings := by
  intro s on wf
  refine ⟨fun a => exec_preset on wf, fun a ha passed => exec_kinHaWindowExpiry on wf ha passed, fun a m im model arms =>
      ⟨exec_identificationUpdate_skipped model arms on wf, fun th runs clamps => exec_identificationUpdate_runs model arms on wf runs clamps⟩,
    fun a none => (run_on on).trans (congrArg _ (identUpdate_none none)),
    fun v => ⟨exec_tolHi_taken on wf, exec_tolHi_refused on wf, exec_floorHi_taken on wf⟩, fun empty => ?_, fun b bank => ⟨fun waits => ?_,
      fun free low => ?_, exec_plfGo_taken on wf bank⟩, exec_patternBankSwitch on wf, fun notDue => ?_⟩
  · exact exec_plfGo_refused on wf (by decide) (requestPatternSwitch_empty empty)
      (requestPatternSwitch_empty (s := setReg .plf 0 Reg.ERR 0 s) empty)
  · exact exec_plfGo_refused on wf (by decide) (requestPatternSwitch_waits bank waits)
      (requestPatternSwitch_waits (s := setReg .plf 0 Reg.ERR 0 s) bank waits)
  · exact exec_plfGo_refused on wf (by decide) (requestPatternSwitch_jerk bank free low)
      (requestPatternSwitch_jerk (s := setReg .plf 0 Reg.ERR 0 s) bank free (by rw [tsJerk_setErr wf]; exact low))
  · exact (runReady_on on).trans (by rw [patternSwitch, notDue, if_neg Bool.false_ne_true])

end Sys2Proof.Machine

/-! SUPPORT. A plan while it is computed: the warm start and the interior-point steps (R234, R279, R281, R284, R285, R288 to R290). -/

namespace Sys2Proof.Machine

variable {s t u : State} {a b : Arm} {p : Pg} {i m n k off : Nat} {x : Bool} {l : List Nat}

-- Counters and flags that may stay as they are

theorem writes_countBy (hn : n < 16) : Writes [Reg.CNT + 4 * n, Reg.CNT_OVF, Reg.IRQ_STAT] s (countBy p i n k s) := by
  have counted (v : Word) : Writes [Reg.CNT + 4 * n, Reg.CNT_OVF, Reg.IRQ_STAT] s (setReg p i (Reg.CNT + 4 * n) v s) :=
    (writes_setReg (by simp only [Reg.CNT]; omega) (by simp only [Reg.CNT, Reg.IRQ_STAT]; omega)).mono (by simp)
  unfold countBy
  dsimp only
  split
  · exact counted _
  · exact (counted _).trans (writes_wrapped.mono fun _ => List.mem_cons_of_mem _)

theorem writes_countIf (hn : n < 16) : Writes [Reg.CNT + 4 * n, Reg.CNT_OVF, Reg.IRQ_STAT] s (countIf x p i n s) := by
  cases x with
  | false => exact .refl
  | true => exact writes_count hn

theorem countIf_counts (wf : regsWf s.regs = true) (hn : n < 16) :
    reg (countIf x p i n s) p i (Reg.CNT + 4 * n) = reg s p i (Reg.CNT + 4 * n) + (if x then 1 else 0) := by
  cases x with
  | false => exact (BitVec.add_zero _).symm
  | true => exact count_reg wf hn

/-- An event that interrupts and counts, where it occurs. -/
def eventIf (x : Bool) (p : Pg) (i m n : Nat) (s : State) : State := if x then count p i n (irq p i m s) else s

theorem writes_eventIf (hn : n < 16) : Writes [Reg.CNT + 4 * n, Reg.CNT_OVF, Reg.IRQ_STAT] s (eventIf x p i m n s) := by
  cases x with
  | false => exact .refl
  | true => exact writes_event hn

theorem eventIf_counts (wf : regsWf s.regs = true) (hn : n < 16) :
    reg (eventIf x p i m n s) p i (Reg.CNT + 4 * n) = reg s p i (Reg.CNT + 4 * n) + (if x then 1 else 0) := by
  cases x with
  | false => exact (BitVec.add_zero _).symm
  | true => exact event_counts wf hn

theorem eventIf_flag (wf : regsWf s.regs = true) (hm : m < 32) (hx : x = true) :
    bit (reg (eventIf x p i m n s) p i Reg.IRQ_STAT) m = true := by
  rw [eventIf, if_pos hx]
  exact event_flag wf hm

@[simp] theorem quiet_countBy : quiet (countBy p i n k s) = quiet s := by simp [quiet]
@[simp] theorem quiet_countIf : quiet (countIf x p i n s) = quiet s := by simp [quiet]
@[simp] theorem quiet_eventIf : quiet (eventIf x p i m n s) = quiet s := by
  cases x with
  | false => rfl
  | true => exact quiet_event

-- Frames

/-- A state without Plefin, what the arms play, the register file and the host link. -/
def planless (s : State) : State := { quiet s with plf := {}, play := Vector.replicate 12 {} }

theorem eq_of_planless (h : planless t = planless s) :
    t = { s with plf := t.plf, play := t.play, regs := t.regs, link := t.link } := by
  cases t; cases s; cases h; rfl

theorem planless_of_quiet (h : quiet t = quiet s) : planless t = planless s :=
  congrArg (fun x => { x with plf := {}, play := Vector.replicate 12 {} }) h

theorem plf_of_quiet (h : quiet t = quiet s) : t.plf = s.plf := (congrArg State.plf h :)
theorem play_of_quiet (h : quiet t = quiet s) : t.play = s.play := (congrArg State.play h :)

theorem planless_modPlf {f : Plefin → Plefin} : planless (modPlf f s) = planless s := rfl
theorem planless_modPlay {f : ArmPlay → ArmPlay} : planless (modPlay a f s) = planless s := rfl

theorem writes_modPlay {f : ArmPlay → ArmPlay} : Writes l s (modPlay a f s) := writes_of_regs rfl

theorem modPlay_apart {f : ArmPlay → ArmPlay} (h : b ≠ a) : (modPlay a f s).play[b] = s.play[b] := vmod_other h
theorem modPlay_at {f : ArmPlay → ArmPlay} : (modPlay a f s).play[a] = f s.play[a] := vmod_same

-- WARM_START (R234, R249, R250, R258, R279)

/-- What the warm start leaves of Plefin once it has begun: the scales taken, and the lanes' progress. -/
def progress (s : State) : Bool × Vector Nat 12 × Nat × Nat × Vector (Option (BitVec 15 × Bool)) 3 :=
  (s.plf.warm, s.plf.scale, s.plf.step, s.plf.pos, s.plf.words)

/-- A part of the warm start: registers, and of Plefin neither scales nor progress. -/
structure Prepares (s t : State) : Prop where
  rest : planless t = planless s
  play : t.play = s.play
  progress : progress t = progress s

theorem Prepares.trans (h : Prepares s t) (g : Prepares t u) : Prepares s u :=
  ⟨g.rest.trans h.rest, g.play.trans h.play, g.progress.trans h.progress⟩

theorem prepares_of_quiet (h : quiet t = quiet s) : Prepares s t :=
  ⟨planless_of_quiet h, play_of_quiet h, by rw [progress, plf_of_quiet h, progress]⟩

theorem prepares_forEach {α : Type} {f : α → State → State} (hf : ∀ x u, Prepares u (f x u)) (xs : List α) : Prepares s (forEach xs f s) :=
  ⟨forEach_preserves (fun x u => (hf x u).rest) xs s, forEach_preserves (fun x u => (hf x u).play) xs s,
    forEach_preserves (fun x u => (hf x u).progress) xs s⟩

theorem prepares_modPlf {f : Plefin → Plefin} (h : Machine.progress (modPlf f s) = Machine.progress s) : Prepares s (modPlf f s) := ⟨rfl, rfl, h⟩

theorem prepares_setReg {v : Word} : Prepares s (setReg p i off v s) := ⟨rfl, rfl, rfl⟩

theorem prepares_fillSlots {m : MantisBank} {q : Pattern} : Prepares s (fillSlots m q a s) := by
  unfold fillSlots
  dsimp only
  generalize slotCounts s m q a = c
  have filled : Prepares s (modPlf (fun x => { x with used := vset x.used a c.1, missed := vset x.missed a c.2 }) s) := prepares_modPlf rfl
  split
  · exact (filled.trans prepares_setReg).trans (prepares_of_quiet quiet_event)
  · exact filled.trans prepares_setReg

theorem prepares_fillAll {q : Pattern} : Prepares s (fillAll q s) := by
  unfold fillAll
  split
  · next m _ =>
    have filled := prepares_forEach (s := s) (f := fillSlots m q) (fun a u => prepares_fillSlots) allArms
    generalize forEach allArms (fillSlots m q) s = u at filled
    exact filled.trans (prepares_modPlf rfl)
  · exact prepares_modPlf rfl

theorem prepares_takeNormals {q : Pattern} : Prepares s (takeNormals q s) := by
  unfold takeNormals
  split
  · exact prepares_modPlf rfl
  · exact prepares_modPlf rfl

/-- Slots, kinematics and normals of the warm start, for the programme (R249, R258). -/
def warmParts (q : Pattern) (im : ArmsImage) (s : State) : State :=
  let u := fillAll q s
  takeNormals q (modPlf (fun x => { x with kin := warmConfigs u q im }) u)

theorem prepares_warmParts {q : Pattern} {im : ArmsImage} : Prepares s (warmParts q im s) := by
  have filled := prepares_fillAll (q := q) (s := s)
  unfold warmParts
  dsimp only
  generalize fillAll q s = u at filled
  exact (filled.trans (prepares_modPlf rfl)).trans prepares_takeNormals

theorem linearise_eq {q : Pattern} {im : ArmsImage} : ∃ g it n, linearise q im s =
    countBy .plf 0 7 n (modPlf (fun x => { x with prog := some g, iterates := [it] }) s) := ⟨_, _, _, rfl⟩

/-- The linearised programme stands, with the iterate before the first step. -/
theorem linearise_plf {q : Pattern} {im : ArmsImage} :
    (linearise q im s).plf.prog.isSome = true ∧ (linearise q im s).plf.iterates.length = 1 := by
  obtain ⟨g, it, n, e⟩ := linearise_eq (q := q) (im := im) (s := s)
  rw [e, countBy_plf]
  exact ⟨rfl, rfl⟩

theorem prepares_linearise {q : Pattern} {im : ArmsImage} : Prepares s (linearise q im s) := by
  obtain ⟨g, it, n, e⟩ := linearise_eq (q := q) (im := im) (s := s)
  rw [e]
  exact (prepares_modPlf rfl).trans (prepares_of_quiet quiet_countBy)

/-- Stage 0 of an arm at rest; of a moving arm nothing changes (R233). -/
theorem restStage0_play (h : (s.play[b]).segs ≠ []) : (restStage0 a s).play[b] = s.play[b] := by
  unfold restStage0
  dsimp only
  split
  · next empty =>
    refine modPlay_apart fun e => h ?_
    rw [e]
    exact List.isEmpty_iff.mp empty
  · rfl

theorem restStage0_rest : planless (restStage0 a s) = planless s ∧ (restStage0 a s).plf = s.plf := by
  unfold restStage0
  dsimp only
  split
  · exact ⟨planless_modPlay, rfl⟩
  · exact ⟨rfl, rfl⟩

theorem restStages_play (l : List Arm) (h : (s.play[b]).segs ≠ []) : (forEach l restStage0 s).play[b] = s.play[b] :=
  forEach_holds (P := fun u => u.play[b] = s.play[b]) (fun a u hu => (restStage0_play (by rw [hu]; exact h)).trans hu) l rfl

theorem warmStart_begins {q : Pattern} {im : ArmsImage} (busy : s.plf.busy = true) (cold : s.plf.warm = false)
    (bank : pattern s = some q) (arms : s.arms = some im) : warmStart s = linearise q im (warmParts q im
      (forEach allArms restStage0 (modPlf (fun x => { x with warm := true, scale := s.mnt.kOut }) s))) := by
  simp only [warmStart, busy, cold, bank, arms, Bool.not_false, Bool.and_true]
  rfl

theorem warmStart_idle (h : s.plf.busy = false ∨ s.plf.warm = true ∨ pattern s = none ∨ s.arms = none) : warmStart s = s := by
  unfold warmStart
  split
  · next q im begins bank arms =>
    obtain ⟨busy, cold⟩ := Bool.and_eq_true_iff.mp begins
    obtain h | h | h | h := h
    · exact absurd busy (by rw [h]; decide)
    · exact absurd cold (by rw [h]; decide)
    · exact absurd bank (by rw [h]; exact nofun)
    · exact absurd arms (by rw [h]; exact nofun)
  · rfl

theorem exec_warmStart {q : Pattern} {im : ArmsImage} (on : s.clk.on = true) (busy : s.plf.busy = true) (cold : s.plf.warm = false)
    (bank : pattern s = some q) (arms : s.arms = some im) :
    ∃ t, exec .warmStart s = .next t ∧ t.plf.warm = true ∧ t.plf.scale = s.mnt.kOut ∧ t.plf.prog.isSome = true ∧
      t.plf.iterates.length = 1 ∧ t.plf.step = s.plf.step ∧ t.plf.pos = s.plf.pos ∧ t.plf.words = s.plf.words ∧
      (∀ a : Arm, (s.play[a]).segs ≠ [] → t.play[a] = s.play[a]) ∧
      t = { s with plf := t.plf, play := t.play, regs := t.regs, link := t.link } := by
  have acts := warmStart_begins busy cold bank arms
  generalize hw : forEach allArms restStage0 (modPlf (fun x => { x with warm := true, scale := s.mnt.kOut }) s) = w at acts
  have whole := (prepares_warmParts (q := q) (im := im) (s := w)).trans (prepares_linearise (q := q) (im := im))
  obtain ⟨prog, iterates⟩ := linearise_plf (q := q) (im := im) (s := warmParts q im w)
  have plf : w.plf = { s.plf with warm := true, scale := s.mnt.kOut } := by
    rw [← hw]
    exact forEach_preserves (g := State.plf) (fun a v => restStage0_rest.2) allArms _
  have rest : planless w = planless s := by
    rw [← hw]
    exact forEach_preserves (fun a v => restStage0_rest.1) allArms _
  have course := whole.progress
  simp only [progress, plf, Prod.mk.injEq] at course
  obtain ⟨warm, scale, step, pos, words⟩ := course
  refine ⟨_, (run_on on).trans (congrArg _ acts), warm, scale, prog, iterates, step, pos, words, fun a moves => ?_,
    eq_of_planless (whole.rest.trans rest)⟩
  rw [whole.play, ← hw]
  exact restStages_play allArms (s := modPlf _ s) moves

-- INTERIOR_POINT_STEP (R281, R284, R285, R288 to R290)

/-- Flushed operands and substituted pivots are noted (R284, R290). -/
def stepCounted (r : StepResult) (s : State) : State :=
  let u := countBy .plf 0 7 r.flush s
  irqIf (decide (0 < r.subst)) .plf 0 plfPivSub
    (setReg .plf 0 Reg.PLF_PIVOT_SUBST (reg u .plf 0 Reg.PLF_PIVOT_SUBST + BitVec.ofNat 32 r.subst) u)

/-- All that a step adds to the registers of the page. -/
def stepNoted (r : StepResult) (s : State) : State :=
  countIf r.fail .plf 0 10 (eventIf r.capped .plf 0 plfIterCap 5 (eventIf r.factFb .plf 0 plfFactFb 4 (stepCounted r s)))

theorem recordStep_eq {r : StepResult} : recordStep r s = modPlf (fun x => { x with
    pivSub := x.pivSub || decide (0 < r.subst), factFb := x.factFb || r.factFb, results := x.results ++ [r] }) (stepNoted r s) := rfl

/-- The registers that a step of the solver touches. -/
def stepOffs : List Nat := [Reg.PLF_PIVOT_SUBST, Reg.CNT + 4 * 7, Reg.CNT + 4 * 4, Reg.CNT + 4 * 5, Reg.CNT + 4 * 10, Reg.CNT_OVF, Reg.IRQ_STAT]

/-- What the registers tell of a step (R284, R285, R288 to R290). -/
structure TellsStep (r : StepResult) (s t : State) : Prop where
  pivots : reg t .plf 0 Reg.PLF_PIVOT_SUBST = reg s .plf 0 Reg.PLF_PIVOT_SUBST + BitVec.ofNat 32 r.subst
  flushed : reg t .plf 0 (Reg.CNT + 28) = reg s .plf 0 (Reg.CNT + 28) + BitVec.ofNat 32 r.flush
  fallbacks : reg t .plf 0 (Reg.CNT + 16) = reg s .plf 0 (Reg.CNT + 16) + (if r.factFb then 1 else 0)
  caps : reg t .plf 0 (Reg.CNT + 20) = reg s .plf 0 (Reg.CNT + 20) + (if r.capped then 1 else 0)
  fails : reg t .plf 0 (Reg.CNT + 40) = reg s .plf 0 (Reg.CNT + 40) + (if r.fail then 1 else 0)
  pivSub : 0 < r.subst → bit (reg t .plf 0 Reg.IRQ_STAT) plfPivSub = true
  factFb : r.factFb = true → bit (reg t .plf 0 Reg.IRQ_STAT) plfFactFb = true
  iterCap : r.capped = true → bit (reg t .plf 0 Reg.IRQ_STAT) plfIterCap = true

section Step
variable {r : StepResult}

theorem TellsStep.congr (h : TellsStep r s u) (regs : t.regs = u.regs) : TellsStep r s t := by
  have same (off : Nat) : reg t .plf 0 off = reg u .plf 0 off := by rw [reg, regs, reg]
  exact ⟨(same _).trans h.pivots, (same _).trans h.flushed, (same _).trans h.fallbacks, (same _).trans h.caps, (same _).trans h.fails,
    fun x => (congrArg (bit · _) (same _)).trans (h.pivSub x), fun x => (congrArg (bit · _) (same _)).trans (h.factFb x),
    fun x => (congrArg (bit · _) (same _)).trans (h.iterCap x)⟩

theorem writes_stepCounted : Writes [Reg.PLF_PIVOT_SUBST, Reg.CNT + 4 * 7, Reg.CNT_OVF, Reg.IRQ_STAT] s (stepCounted r s) :=
  (((writes_countBy (by decide)).mono (by decide)).trans ((writes_setReg (by decide) (by decide)).mono (by decide))).trans
    (writes_irqIf.mono (by decide))

theorem quiet_stepNoted : quiet (stepNoted r s) = quiet s := by
  rw [stepNoted, quiet_countIf, quiet_eventIf, quiet_eventIf]
  exact quiet_irqIf.trans quiet_countBy

theorem writes_stepNoted : Writes stepOffs s (stepNoted r s) :=
  (((writes_stepCounted.mono (by decide)).trans ((writes_eventIf (by decide)).mono (by decide))).trans
    ((writes_eventIf (by decide)).mono (by decide))).trans ((writes_countIf (by decide)).mono (by decide))

theorem stepCounted_regs (wf : regsWf s.regs = true) :
    reg (stepCounted r s) .plf 0 Reg.PLF_PIVOT_SUBST = reg s .plf 0 Reg.PLF_PIVOT_SUBST + BitVec.ofNat 32 r.subst ∧
    reg (stepCounted r s) .plf 0 (Reg.CNT + 28) = reg s .plf 0 (Reg.CNT + 28) + BitVec.ofNat 32 r.flush ∧
    (0 < r.subst → bit (reg (stepCounted r s) .plf 0 Reg.IRQ_STAT) plfPivSub = true) := by
  have wf1 : regsWf (countBy .plf 0 7 r.flush s).regs = true := regsWf_countBy wf
  have before := (writes_countBy (s := s) (p := .plf) (i := 0) (n := 7) (k := r.flush) (by decide)).reg (p := .plf) (i := 0)
    (off := Reg.PLF_PIVOT_SUBST) wf (by decide)
  unfold stepCounted
  dsimp only
  generalize hw : setReg .plf 0 Reg.PLF_PIVOT_SUBST _ (countBy .plf 0 7 r.flush s) = w
  have wfw : regsWf w.regs = true := by rw [← hw]; exact regsWf_setReg wf1
  refine ⟨?_, ?_, fun some => ?_⟩
  · rw [writes_irqIf.reg wfw (by decide), ← hw, reg_setReg_same wf1, before]
  · rw [writes_irqIf.reg wfw (by decide), ← hw, reg_setReg_other wf1 (by decide)]
    exact countBy_reg (n := 7) wf (by decide)
  · rw [irqIf, if_pos (decide_eq_true some)]
    exact irq_bit wfw (by decide)

theorem stepNoted_tells (wf : regsWf s.regs = true) : TellsStep r s (stepNoted r s) := by
  have first := writes_stepCounted (r := r) (s := s)
  obtain ⟨pivots, flushed, subst⟩ := stepCounted_regs (r := r) wf
  unfold stepNoted
  generalize stepCounted r s = s1 at first pivots flushed subst ⊢
  have wf1 := first.wf wf
  have second := writes_eventIf (s := s1) (x := r.factFb) (p := .plf) (i := 0) (m := plfFactFb) (n := 4) (by decide)
  have count4 := eventIf_counts (x := r.factFb) (p := .plf) (i := 0) (m := plfFactFb) (n := 4) wf1 (by decide)
  have flag4 := eventIf_flag (x := r.factFb) (p := .plf) (i := 0) (m := plfFactFb) (n := 4) wf1 (by decide)
  generalize eventIf r.factFb .plf 0 plfFactFb 4 s1 = s2 at second count4 flag4 ⊢
  have wf2 := second.wf wf1
  have third := writes_eventIf (s := s2) (x := r.capped) (p := .plf) (i := 0) (m := plfIterCap) (n := 5) (by decide)
  have count5 := eventIf_counts (x := r.capped) (p := .plf) (i := 0) (m := plfIterCap) (n := 5) wf2 (by decide)
  have flag5 := eventIf_flag (x := r.capped) (p := .plf) (i := 0) (m := plfIterCap) (n := 5) wf2 (by decide)
  generalize eventIf r.capped .plf 0 plfIterCap 5 s2 = s3 at third count5 flag5 ⊢
  have wf3 := third.wf wf2
  have fourth := writes_countIf (s := s3) (x := r.fail) (p := .plf) (i := 0) (n := 10) (by decide)
  refine ⟨?_, ?_, ?_, ?_, ?_, fun h => ?_, fun h => ?_, fun h => ?_⟩
  · rw [fourth.reg wf3 (by decide), third.reg wf2 (by decide), second.reg wf1 (by decide), pivots]
  · rw [fourth.reg wf3 (by decide), third.reg wf2 (by decide), second.reg wf1 (by decide), flushed]
  · rw [fourth.reg wf3 (by decide), third.reg wf2 (by decide), ← first.reg wf (by decide)]
    exact count4
  · rw [fourth.reg wf3 (by decide), ← first.reg wf (by decide), ← second.reg wf1 (by decide)]
    exact count5
  · rw [← first.reg wf (by decide), ← second.reg wf1 (by decide), ← third.reg wf2 (by decide)]
    exact countIf_counts (n := 10) wf3 (by decide)
  · exact fourth.flag wf3 (third.flag wf2 (second.flag wf1 (subst h)))
  · exact fourth.flag wf3 (third.flag wf2 (flag4 h))
  · exact fourth.flag wf3 (flag5 h)

variable {q : Pattern} {g : Programme} {it y : Iterate}

/-- The state after a step: the next iterate and position 2047, or the position that the step failed at (R281, R292). -/
def steppedPlan (c : Nat) (y : Iterate) (r : StepResult) (s : State) : State :=
  if r.fail then modPlf (fun x => { x with step := c, pos := 1 + r.iters, fail := true }) (recordStep r s)
  else modPlf (fun x => { x with step := c, pos := 2047, iterates := x.iterates ++ [y] }) (recordStep r s)

theorem interiorPointStep_runs {c : Nat} (hc : c = if s.plf.pos = 2047 then s.plf.step + 1 else s.plf.step) (bank : pattern s = some q)
    (prog : s.plf.prog = some g) (last : s.plf.iterates.getLast? = some it) (busy : s.plf.busy = true) (sound : s.plf.fail = false)
    (few : c ≤ ipSteps s) (step : solverStep q s.plf.tol s.plf.floor (iterCap s) true g it = (y, r)) :
    interiorPointStep s = steppedPlan c y r s := by
  unfold interiorPointStep
  dsimp only
  simp only [← hc, bank, prog, last, if_pos (And.intro busy (And.intro sound few)), step]
  rfl

theorem interiorPointStep_idle {c : Nat} (hc : c = if s.plf.pos = 2047 then s.plf.step + 1 else s.plf.step)
    (h : s.plf.busy = false ∨ s.plf.fail = true ∨ ipSteps s < c ∨ pattern s = none ∨ s.plf.prog = none ∨ s.plf.iterates = []) :
    interiorPointStep s = s := by
  unfold interiorPointStep
  dsimp only
  rw [← hc]
  split
  · next q g it bank prog last =>
    refine if_neg ?_
    rintro ⟨busy, sound, few⟩
    obtain h | h | h | h | h | h := h
    · exact absurd busy (by rw [h]; decide)
    · exact absurd sound (by rw [h]; decide)
    · exact absurd few (Nat.not_le.mpr h)
    · exact absurd bank (by rw [h]; exact nofun)
    · exact absurd prog (by rw [h]; exact nofun)
    · exact absurd last (by rw [h]; exact nofun)
  · rfl

theorem exec_interiorPointStep {c : Nat} (on : s.clk.on = true) (wf : regsWf s.regs = true)
    (hc : c = if s.plf.pos = 2047 then s.plf.step + 1 else s.plf.step) (bank : pattern s = some q)
    (prog : s.plf.prog = some g) (last : s.plf.iterates.getLast? = some it) (busy : s.plf.busy = true) (sound : s.plf.fail = false)
    (few : c ≤ ipSteps s) (step : solverStep q s.plf.tol s.plf.floor (iterCap s) true g it = (y, r)) :
    ∃ t, exec .interiorPointStep s = .next t ∧ TellsStep r s t ∧
      t.plf.step = c ∧ t.plf.results = s.plf.results ++ [r] ∧ t.plf.prog = s.plf.prog ∧
      (r.fail = false → t.plf.pos = 2047 ∧ t.plf.fail = false ∧ t.plf.iterates = s.plf.iterates ++ [y]) ∧
      (r.fail = true → t.plf.pos = 1 + r.iters ∧ t.plf.fail = true ∧ t.plf.iterates = s.plf.iterates) ∧
      t = { s with plf := t.plf, regs := t.regs, link := t.link } := by
  have acts := interiorPointStep_runs hc bank prog last busy sound few step
  have tells : TellsStep r s (stepNoted r s) := stepNoted_tells wf
  have after := eq_of_quiet (quiet_stepNoted (r := r) (s := s))
  rw [steppedPlan, recordStep_eq] at acts
  generalize stepNoted r s = u at acts tells after
  have plf : u.plf = s.plf := by rw [after]
  refine ⟨_, (run_on on).trans (congrArg _ acts), ?_⟩
  by_cases fails : r.fail = true
  · rw [if_pos fails]
    refine ⟨tells.congr rfl, rfl, ?_, ?_, fun h => ?_, fun _ => ⟨rfl, rfl, ?_⟩, ?_⟩
    · exact (congrArg (·.results ++ [r]) plf :)
    · exact (congrArg Plefin.prog plf :)
    · rw [fails] at h
      exact nomatch h
    · exact (congrArg Plefin.iterates plf :)
    · rw [after]
      rfl
  · rw [if_neg fails]
    refine ⟨tells.congr rfl, rfl, ?_, ?_, fun _ => ⟨rfl, ?_, ?_⟩, fun h => absurd h fails, ?_⟩
    · exact (congrArg (·.results ++ [r]) plf :)
    · exact (congrArg Plefin.prog plf :)
    · exact (congrArg Plefin.fail plf :).trans sound
    · exact (congrArg (·.iterates ++ [y]) plf :)
    · rw [after]
      rfl

end Step

-- PROGRESS_WORD (R292, R293)

theorem exec_progressWord {h : Lane} {w : BitVec 15} {f : Bool} (on : s.clk.on = true) (busy : s.plf.busy = true) (member : laneIn s h = true) :
    exec (.progressWord h w f) s = .next { s with plf := { s.plf with words := vset s.plf.words h (some (w, f)) } } :=
  (run_on on).trans (congrArg _ (if_pos ⟨busy, member⟩))

theorem exec_progressWord_ignored {h : Lane} {w : BitVec 15} {f : Bool} (on : s.clk.on = true)
    (out : s.plf.busy = false ∨ laneIn s h = false) : exec (.progressWord h w f) s = .next s := by
  refine (run_on on).trans (congrArg _ (if_neg ?_))
  rintro ⟨busy, member⟩
  obtain out | out := out
  · exact absurd busy (by rw [out]; decide)
  · exact absurd member (by rw [out]; decide)

end Sys2Proof.Machine

/-! SUPPORT. The deadline agreement: what is noted of a plan, and what its acceptance or its rejection does (R267, R288, R293 to R296,
R309). -/

namespace Sys2Proof.Machine

variable {s t u : State} {a b : Arm} {n cause : Nat} {q : Pattern} {g : Programme} {it : Iterate} {d : Agreed}

-- Each arm of a list in turn

/-- Where each arm of a list changes its own part only, each part of the list has changed once and every other is as it was. -/
theorem forEach_each {α : Type} {part : State → Arm → α} {f : Arm → State → State} {Q : α → α → Prop}
    (acts : ∀ a u, Q (part u a) (part (f a u) a)) (apart : ∀ a b u, b ≠ a → part (f a u) b = part u b) :
    ∀ (l : List Arm) (s : State), l.Nodup →
      (∀ a ∈ l, Q (part s a) (part (forEach l f s) a)) ∧ ∀ b ∉ l, part (forEach l f s) b = part s b
  | [], _, _ => ⟨nofun, fun _ _ => rfl⟩
  | x :: l, s, distinct => by
    obtain ⟨fresh, distinct⟩ := List.nodup_cons.mp distinct
    obtain ⟨each, others⟩ := forEach_each acts apart l (f x s) distinct
    refine ⟨fun a ha => ?_, fun b hb => ?_⟩
    · obtain rfl | ha := List.mem_cons.mp ha
      · exact (others a fresh).symm ▸ acts a s
      · exact apart x a s (fun e => fresh (e ▸ ha)) ▸ each a ha
    · rw [List.mem_cons, not_or] at hb
      exact (others b hb.2).trans (apart x b s hb.1)

theorem allArms_nodup : allArms.Nodup := allArms_pairwise.imp fun h => ne_of_lt h

-- What the agreement notes of a plan (R309)

/-- The state in which a plan is accepted or rejected: its status registers stand, and what it cost is counted. -/
def notedPlan (d : Agreed) (cause lanes : Nat) (spread cut : Bool) (s : State) : State :=
  countIf (cut && !d.fail) .plf 0 8 (countIf (cause == 7) .plf 0 6 (planStatus d cause lanes spread cut
    (if s.plf.results.length < d.step && d.pos != 0 then recordStep d.last s else s)))

/-- The registers that it touches. -/
def judgeOffs : List Nat := stepOffs ++ [Reg.PLF_LAST, Reg.PLF_LAST_TAG, Reg.PLF_AGREED, Reg.PLF_RESID, Reg.PLF_MU, Reg.PLF_ITER_SUM,
  Reg.PLF_SOLVE_US, Reg.CNT + 4 * 6, Reg.CNT + 4 * 8]

/-- What of Plefin a verdict still looks at: the start of the plan, the arms that it moves, and the plan in force. -/
def verdictOn (s : State) : BitVec 48 × BitVec 12 × Option PlanSol := (s.plf.startTag, s.plf.moved, s.plf.plan)

/-- A plan is noted: registers, and of Plefin only what its steps have found. -/
structure Notes (s t : State) : Prop extends Writes judgeOffs s t where
  rest : planless t = planless s
  play : t.play = s.play
  verdict : verdictOn t = verdictOn s

theorem Notes.refl : Notes s s := ⟨.refl, rfl, rfl, rfl⟩

theorem Notes.trans (h : Notes s t) (k : Notes t u) : Notes s u :=
  ⟨h.toWrites.trans k.toWrites, k.rest.trans h.rest, k.play.trans h.play, k.verdict.trans h.verdict⟩

theorem notes_of_quiet (h : quiet t = quiet s) (w : Writes judgeOffs s t) : Notes s t :=
  ⟨w, planless_of_quiet h, play_of_quiet h, by rw [verdictOn, plf_of_quiet h, verdictOn]⟩

theorem notes_recordStep {r : StepResult} : Notes s (recordStep r s) := by
  have noted : Notes s (stepNoted r s) := notes_of_quiet quiet_stepNoted (writes_stepNoted.mono (by decide))
  rw [recordStep_eq]
  exact noted.trans ⟨writes_of_regs rfl, rfl, rfl, rfl⟩

theorem notes_setReg {off : Nat} {v : Word} (h : off ∈ judgeOffs) (ho : off < 4096) (hi : off ≠ Reg.IRQ_STAT) :
    Notes s (setReg .plf 0 off v s) :=
  ⟨(writes_setReg ho hi).mono (by simpa using h), rfl, rfl, rfl⟩

theorem notes_countIf {x : Bool} (h : n ∈ [6, 8]) : Notes s (countIf x .plf 0 n s) := by
  simp only [List.mem_cons, List.not_mem_nil, or_false] at h
  obtain rfl | rfl := h
  · exact notes_of_quiet quiet_countIf ((writes_countIf (by decide)).mono (by decide))
  · exact notes_of_quiet quiet_countIf ((writes_countIf (by decide)).mono (by decide))

/-- The status of a plan by register; bit 0 of `LAST` tells whether it was accepted. -/
theorem planStatus_eq {lanes : Nat} {spread cut : Bool} : ∃ w v3 v4 v5 v6 v7, planStatus d cause lanes spread cut s =
    setReg .plf 0 Reg.PLF_SOLVE_US v7 (setReg .plf 0 Reg.PLF_ITER_SUM v6 (setReg .plf 0 Reg.PLF_MU v5 (setReg .plf 0 Reg.PLF_RESID v4
      (setReg .plf 0 Reg.PLF_AGREED v3 (setReg .plf 0 Reg.PLF_LAST_TAG (s.plf.startTag.setWidth 32)
        (setReg .plf 0 Reg.PLF_LAST (BitVec.ofNat 32 w) s)))))) ∧ w % 2 = b2n (cause == 0) := by
  refine ⟨_, _, _, _, _, _, rfl, ?_⟩
  have small : b2n (cause == 0) < 2 := Bool.toNat_lt _
  omega

theorem bit_zero_ofNat {w : Nat} {x : Bool} (h : w % 2 = b2n x) : bit (BitVec.ofNat 32 w) 0 = x := by
  rw [bit, BitVec.getLsbD_ofNat, Nat.testBit_zero, h]
  cases x <;> rfl

section Status
variable {lanes : Nat} {spread cut : Bool}

theorem notes_planStatus : Notes s (planStatus d cause lanes spread cut s) := by
  obtain ⟨w, v3, v4, v5, v6, v7, e, parity⟩ := planStatus_eq (d := d) (cause := cause) (s := s) (lanes := lanes) (spread := spread) (cut := cut)
  have put {off : Nat} {v : Word} {u : State} (h : off ∈ judgeOffs) (ho : off < 4096) (hi : off ≠ Reg.IRQ_STAT) :
      Notes u (setReg .plf 0 off v u) := notes_setReg h ho hi
  rw [e]
  exact ((((((put (by decide) (by decide) (by decide)).trans (put (by decide) (by decide) (by decide))).trans
    (put (by decide) (by decide) (by decide))).trans (put (by decide) (by decide) (by decide))).trans
    (put (by decide) (by decide) (by decide))).trans (put (by decide) (by decide) (by decide))).trans (put (by decide) (by decide) (by decide))

theorem planStatus_regs (wf : regsWf s.regs = true) :
    reg (planStatus d cause lanes spread cut s) .plf 0 Reg.PLF_LAST_TAG = s.plf.startTag.setWidth 32 ∧
    bit (reg (planStatus d cause lanes spread cut s) .plf 0 Reg.PLF_LAST) 0 = (cause == 0) := by
  obtain ⟨w, v3, v4, v5, v6, v7, e, parity⟩ := planStatus_eq (d := d) (cause := cause) (s := s) (lanes := lanes) (spread := spread) (cut := cut)
  have put {off o : Nat} {v : Word} (u : State) (h : regKey .plf 0 o ≠ regKey .plf 0 off) : RegKept (regKey .plf 0 o) u (setReg .plf 0 off v u) :=
    regKept_setReg h
  rw [e]
  generalize hu : setReg .plf 0 Reg.PLF_LAST (BitVec.ofNat 32 w) s = u
  have wfu : regsWf u.regs = true := by rw [← hu]; exact regsWf_setReg wf
  have later (o : Nat) (h3 : o ≠ Reg.PLF_AGREED) (h4 : o ≠ Reg.PLF_RESID) (h5 : o ≠ Reg.PLF_MU) (h6 : o ≠ Reg.PLF_ITER_SUM)
      (h7 : o ≠ Reg.PLF_SOLVE_US) (x : State) : RegKept (regKey .plf 0 o) x (setReg .plf 0 Reg.PLF_SOLVE_US v7
        (setReg .plf 0 Reg.PLF_ITER_SUM v6 (setReg .plf 0 Reg.PLF_MU v5 (setReg .plf 0 Reg.PLF_RESID v4 (setReg .plf 0 Reg.PLF_AGREED v3 x))))) :=
    ((((put _ (regKey_apart h3)).trans (put _ (regKey_apart h4))).trans (put _ (regKey_apart h5))).trans (put _ (regKey_apart h6))).trans
      (put _ (regKey_apart h7))
  constructor
  · rw [(later Reg.PLF_LAST_TAG (by decide) (by decide) (by decide) (by decide) (by decide) _).reg (regsWf_setReg wfu), reg_setReg_same wfu]
  · rw [((put u (regKey_apart (by decide))).trans (later Reg.PLF_LAST (by decide) (by decide) (by decide) (by decide) (by decide) _)).reg wfu,
      ← hu, reg_setReg_same wf, bit_zero_ofNat parity]

theorem notes_notedPlan : Notes s (notedPlan d cause lanes spread cut s) := by
  have step : Notes s (if s.plf.results.length < d.step && d.pos != 0 then recordStep d.last s else s) := by
    split
    · exact notes_recordStep
    · exact .refl
  exact ((step.trans notes_planStatus).trans (notes_countIf (by decide))).trans (notes_countIf (by decide))

theorem notedPlan_regs (wf : regsWf s.regs = true) :
    reg (notedPlan d cause lanes spread cut s) .plf 0 Reg.PLF_LAST_TAG = s.plf.startTag.setWidth 32 ∧
    bit (reg (notedPlan d cause lanes spread cut s) .plf 0 Reg.PLF_LAST) 0 = (cause == 0) := by
  have step : Notes s (if s.plf.results.length < d.step && d.pos != 0 then recordStep d.last s else s) := by
    split
    · exact notes_recordStep
    · exact .refl
  unfold notedPlan
  generalize (if s.plf.results.length < d.step && d.pos != 0 then recordStep d.last s else s) = u at step ⊢
  have wfu := step.wf wf
  have start : u.plf.startTag = s.plf.startTag := (congrArg Prod.fst step.verdict :)
  obtain ⟨tag, last⟩ := planStatus_regs (d := d) (cause := cause) (lanes := lanes) (spread := spread) (cut := cut) wfu
  have wfv := (notes_planStatus (d := d) (cause := cause) (lanes := lanes) (spread := spread) (cut := cut)).wf wfu
  generalize planStatus d cause lanes spread cut u = v at tag last wfv ⊢
  have counted : Writes [Reg.CNT + 4 * 6, Reg.CNT + 4 * 8, Reg.CNT_OVF, Reg.IRQ_STAT] v
      (countIf (cut && !d.fail) .plf 0 8 (countIf (cause == 7) .plf 0 6 v)) :=
    ((writes_countIf (by decide)).mono (by decide)).trans ((writes_countIf (by decide)).mono (by decide))
  rw [counted.reg wfv (by decide), counted.reg wfv (by decide), tag, start, last]
  exact ⟨rfl, rfl⟩

end Status

/-- The arms that a plan moves stay the same while it is noted. -/
theorem Notes.moved (h : Notes s t) (wf : regsWf s.regs = true) : movedArms t = movedArms s := by
  have moved : t.plf.moved = s.plf.moved := (congrArg (·.2.1) h.verdict :)
  have saf : t.saf = s.saf := (congrArg State.saf h.rest :)
  refine List.filter_congr fun a _ => ?_
  simp only [planMoves, moved, pinned, assisted, fld, h.reg wf (show Reg.MODE < 4096 ∧ Reg.MODE ∉ judgeOffs by decide), ss1Pinned, saf,
    acfg, h.play]

-- Acceptance and rejection (R269, R296)

/-- An accepted plan is handed to one arm. -/
def handPlan (q : Pattern) (x : KktId → F64) (a : Arm) (s : State) : State :=
  let act := torqueActive s q x a
  let u := countIf (act != 0) .kin a 6 (setReg .kin a Reg.KIN_TRQ_ACT (BitVec.ofNat 32 act) s)
  let u := countIf ((u.saf.arm[a]).st == 1) .saf 0 8 u
  modPlay a (fun y => { y with rejects := 0, next := some (armSegs u q x a) }) u

/-- A rejected plan counts for one arm. -/
def turnDown (a : Arm) (s : State) : State := modPlay a (fun y => { y with rejects := y.rejects + 1 }) s

theorem turnDown_at : ((turnDown a s).play[a]).rejects = (s.play[a]).rejects + 1 ∧ ((turnDown a s).play[a]).next = (s.play[a]).next := by
  rw [turnDown, modPlay_at]
  exact ⟨rfl, rfl⟩

theorem turnDowns_regs {l : List Arm} : (forEach l turnDown s).regs = s.regs := forEach_preserves (g := State.regs) (f := turnDown) (fun _ _ => rfl) l s
theorem turnDowns_plf {l : List Arm} : (forEach l turnDown s).plf = s.plf := forEach_preserves (g := State.plf) (f := turnDown) (fun _ _ => rfl) l s

theorem acceptPlan_eq : acceptPlan q g it s = forEach (movedArms s) (handPlan q (valueOf (planSolution q g it).x))
    (count .plf 0 0 (setFld .plf 0 Reg.PLF_STAT 27 24 0 (modPlf (fun y => { y with plan := some (planSolution q g it) }) s))) := rfl

theorem rejectPlan_eq : ∃ k, rejectPlan s = forEach (movedArms s) turnDown
    (count .plf 0 1 (irq .plf 0 plfReject (setFld .plf 0 Reg.PLF_STAT 27 24 k s))) := ⟨_, rfl⟩

section HandPlan
variable {x : KktId → F64}

theorem handPlan_eq : ∃ v y z c, handPlan q x a s = modPlay a (fun y => { y with rejects := 0, next := some c })
    (countIf z .saf 0 8 (countIf y .kin a 6 (setReg .kin a Reg.KIN_TRQ_ACT v s))) := ⟨_, _, _, _, rfl⟩

theorem writes_handPlan : Writes [Reg.KIN_TRQ_ACT, Reg.CNT + 4 * 6, Reg.CNT + 4 * 8, Reg.CNT_OVF, Reg.IRQ_STAT] s (handPlan q x a s) := by
  obtain ⟨v, y, z, c, e⟩ := handPlan_eq (q := q) (x := x) (a := a) (s := s)
  rw [e]
  exact ((((writes_setReg (by decide) (by decide)).mono (by decide)).trans ((writes_countIf (by decide)).mono (by decide))).trans
    ((writes_countIf (by decide)).mono (by decide))).trans writes_modPlay

theorem handPlan_rest : planless (handPlan q x a s) = planless s ∧ (handPlan q x a s).plf = s.plf := by
  obtain ⟨v, y, z, c, e⟩ := handPlan_eq (q := q) (x := x) (a := a) (s := s)
  have noted : quiet (countIf z .saf 0 8 (countIf y .kin a 6 (setReg .kin a Reg.KIN_TRQ_ACT v s))) = quiet s := by
    rw [quiet_countIf, quiet_countIf, quiet_setReg]
  rw [e]
  exact ⟨planless_modPlay.trans (planless_of_quiet noted), (plf_of_quiet noted :)⟩

theorem handPlan_at : ((handPlan q x a s).play[a]).rejects = 0 ∧ ((handPlan q x a s).play[a]).next.isSome = true ∧
    ((handPlan q x a s).play[a]).segs = (s.play[a]).segs := by
  obtain ⟨v, y, z, c, e⟩ := handPlan_eq (q := q) (x := x) (a := a) (s := s)
  rw [e, modPlay_at, countIf_play, countIf_play, setReg_play]
  exact ⟨rfl, rfl, rfl⟩

theorem handPlan_apart (h : b ≠ a) : (handPlan q x a s).play[b] = s.play[b] := by
  obtain ⟨v, y, z, c, e⟩ := handPlan_eq (q := q) (x := x) (a := a) (s := s)
  rw [e, modPlay_apart h, countIf_play, countIf_play, setReg_play]

end HandPlan

/-- The end of a plan that is judged: what the registers and the arms tell (R269, R296). -/
structure Ended (moved : List Arm) (s t : State) : Prop where
  rest : planless t = planless s
  start : reg t .plf 0 Reg.PLF_LAST_TAG = reg s .plf 0 Reg.PLF_LAST_TAG
  last : reg t .plf 0 Reg.PLF_LAST = reg s .plf 0 Reg.PLF_LAST
  others : ∀ a : Arm, a ∉ moved → t.play[a] = s.play[a]

theorem movedArms_nodup : (movedArms s).Nodup := allArms_nodup.filter _

theorem acceptPlan_ends (wf : regsWf s.regs = true) : Ended (movedArms s) s (acceptPlan q g it s) ∧
    reg (acceptPlan q g it s) .plf 0 Reg.CNT = reg s .plf 0 Reg.CNT + 1 ∧
    reg (acceptPlan q g it s) .plf 0 (Reg.CNT + 4) = reg s .plf 0 (Reg.CNT + 4) ∧
    (acceptPlan q g it s).plf.plan.isSome = true ∧
    ∀ a ∈ movedArms s, ((acceptPlan q g it s).play[a]).rejects = 0 ∧ ((acceptPlan q g it s).play[a]).next.isSome = true ∧
      ((acceptPlan q g it s).play[a]).segs = (s.play[a]).segs := by
  rw [acceptPlan_eq]
  generalize valueOf (planSolution q g it).x = x
  generalize hu : setFld .plf 0 Reg.PLF_STAT 27 24 0 (modPlf (fun y => { y with plan := some (planSolution q g it) }) s) = u
  have wfu : regsWf u.regs = true := by rw [← hu]; exact regsWf_setReg wf
  have put : Writes [Reg.PLF_STAT] s u := by
    rw [← hu]
    exact Writes.trans (t := modPlf _ s) (writes_of_regs rfl) (writes_setReg (off := Reg.PLF_STAT) (by decide) (by decide))
  have first := writes_count (s := u) (p := .plf) (i := 0) (n := 0) (by decide)
  have counts := count_reg (p := .plf) (i := 0) (n := 0) wfu (by decide)
  have play : (count .plf 0 0 u).play = s.play := by rw [count_play, ← hu]; rfl
  have plan : (count .plf 0 0 u).plf.plan.isSome = true := by rw [count_plf, ← hu]; rfl
  have frame : planless (count .plf 0 0 u) = planless s := by rw [planless_of_quiet quiet_count, ← hu]; rfl
  generalize count .plf 0 0 u = w at first counts play plan frame ⊢
  have handed := writes_forEach (l := [Reg.KIN_TRQ_ACT, Reg.CNT + 4 * 6, Reg.CNT + 4 * 8, Reg.CNT_OVF, Reg.IRQ_STAT]) (s := w)
    (f := handPlan q x) (fun a v => writes_handPlan) (movedArms s)
  have wfw := first.wf wfu
  obtain ⟨each, others⟩ := forEach_each (part := fun v c => v.play[c]) (f := handPlan q x)
    (Q := fun y z => z.rejects = 0 ∧ z.next.isSome = true ∧ z.segs = y.segs) (fun c v => handPlan_at) (fun c e v => handPlan_apart)
    (movedArms s) w movedArms_nodup
  simp only [play] at each others
  refine ⟨⟨?_, ?_, ?_, others⟩, ?_, ?_, ?_, each⟩
  · exact (forEach_preserves (fun c v => handPlan_rest.1) _ _).trans frame
  · rw [handed.reg wfw (by decide), first.reg wfu (by decide), put.reg wf (by decide)]
  · rw [handed.reg wfw (by decide), first.reg wfu (by decide), put.reg wf (by decide)]
  · rw [handed.reg wfw (by decide), ← put.reg wf (by decide)]
    exact counts
  · rw [handed.reg wfw (by decide), first.reg wfu (by decide), put.reg wf (by decide)]
  · rw [forEach_preserves (g := State.plf) (fun c v => handPlan_rest.2)]
    exact plan

theorem rejectPlan_ends (wf : regsWf s.regs = true) : Ended (movedArms s) s (rejectPlan s) ∧
    reg (rejectPlan s) .plf 0 Reg.CNT = reg s .plf 0 Reg.CNT ∧
    reg (rejectPlan s) .plf 0 (Reg.CNT + 4) = reg s .plf 0 (Reg.CNT + 4) + 1 ∧
    bit (reg (rejectPlan s) .plf 0 Reg.IRQ_STAT) plfReject = true ∧ (rejectPlan s).plf.plan = s.plf.plan ∧
    ∀ a ∈ movedArms s, ((rejectPlan s).play[a]).rejects = (s.play[a]).rejects + 1 ∧ ((rejectPlan s).play[a]).next = (s.play[a]).next := by
  obtain ⟨k, e⟩ := rejectPlan_eq (s := s)
  rw [e]
  have put : Writes [Reg.PLF_STAT] s (setFld .plf 0 Reg.PLF_STAT 27 24 k s) := writes_setReg (by decide) (by decide)
  have same : quiet (setFld .plf 0 Reg.PLF_STAT 27 24 k s) = quiet s := rfl
  generalize setFld .plf 0 Reg.PLF_STAT 27 24 k s = u at put same ⊢
  have wfu := put.wf wf
  have first := writes_event (s := u) (p := .plf) (i := 0) (n := 1) (m := plfReject) (by decide)
  have counts := event_counts (p := .plf) (i := 0) (n := 1) (m := plfReject) wfu (by decide)
  have flag := event_flag (p := .plf) (i := 0) (n := 1) (m := plfReject) wfu (by decide)
  have frame := (quiet_event (s := u) (p := .plf) (i := 0) (n := 1) (m := plfReject)).trans same
  generalize count .plf 0 1 (irq .plf 0 plfReject u) = w at first counts flag frame ⊢
  have kept (off : Nat) : reg (forEach (movedArms s) turnDown w) .plf 0 off = reg w .plf 0 off := by rw [reg, turnDowns_regs, reg]
  have play := play_of_quiet frame
  obtain ⟨each, others⟩ := forEach_each (part := fun v c => v.play[c]) (f := turnDown)
    (Q := fun y z => z.rejects = y.rejects + 1 ∧ z.next = y.next)
    (fun c v => turnDown_at) (fun c e v => modPlay_apart) (movedArms s) w movedArms_nodup
  simp only [play] at each others
  refine ⟨⟨?_, ?_, ?_, others⟩, ?_, ?_, ?_, ?_, each⟩
  · exact (forEach_preserves (fun c v => planless_modPlay) _ _).trans (planless_of_quiet frame)
  · rw [kept, first.reg wfu (by decide), put.reg wf (by decide)]
  · rw [kept, first.reg wfu (by decide), put.reg wf (by decide)]
  · rw [kept, first.reg wfu (by decide), put.reg wf (by decide)]
  · rw [kept, ← put.reg wf (by decide)]
    exact counts
  · rw [kept]
    exact flag
  · rw [turnDowns_plf, plf_of_quiet frame]

-- DEADLINE_AGREEMENT (R294 to R296)

/-- The plan is no longer computed. -/
def endPlan (s : State) : State := modPlf (fun x => { x with busy := false, fresh := false }) s

/-- A plan without a cause of rejection has a programme and an iterate. -/
theorem rejectCause_zero {im : ArmsImage} (h : rejectCause s im d = 0) : ∃ g it, s.plf.prog = some g ∧ d.iterate = some it := by
  unfold rejectCause at h
  dsimp only at h
  split at h
  · exact absurd h (by decide)
  · split at h
    · exact absurd h (by decide)
    · split at h
      · next g it prog iterate => exact ⟨g, it, prog, iterate⟩
      · exact absurd h (by decide)

/-- Every lane is one of the list. -/
theorem allLanes_all (l : Lane) : l ∈ allLanes := by decide +revert

/-- How an agreement ends: a plan is accepted, or rejected, or there is none to agree on. -/
theorem deadlineAgreement_cases : (∃ d lanes spread cut q g it, deadlineAgreement s = endPlan (acceptPlan q g it (notedPlan d 0 lanes spread cut s))) ∨
    (∃ d lanes spread cut cause, cause ≠ 0 ∧ deadlineAgreement s = endPlan (rejectPlan (notedPlan d cause lanes spread cut s))) ∨
    (deadlineAgreement s = modPlf (fun x => { x with busy := false }) s ∧ (s.plf.busy = true → (pattern s).isSome = true →
      s.arms.isSome = true → ¬ ∃ l : Lane, laneIn s l = true ∧ (s.carts[laneCart l]).mute = false)) := by
  unfold deadlineAgreement
  dsimp only
  split
  · next q im l0 rest busy bank arms lanes =>
    rw [lanes]
    generalize agree s ((l0 :: rest).map (laneWord s)) = d
    by_cases sound : rejectCause s im d = 0
    · obtain ⟨g, it, prog, iterate⟩ := rejectCause_zero sound
      refine .inl ⟨d, (l0 :: rest).length, ((l0 :: rest).map (laneWord s)).any fun w => w.1 != d.word,
        decide (d.word < ipSteps s * 2048 + 2047), q, g, it, ?_⟩
      simp only [sound, prog, iterate]
      rfl
    · refine .inr (.inl ⟨d, (l0 :: rest).length, ((l0 :: rest).map (laneWord s)).any fun w => w.1 != d.word,
        decide (d.word < ipSteps s * 2048 + 2047), rejectCause s im d, sound, ?_⟩)
      split
      · next h _ _ => exact absurd h sound
      · rfl
  · next none =>
    refine .inr (.inr ⟨rfl, fun busy bank arms => ?_⟩)
    rintro ⟨l, member, sends⟩
    obtain ⟨q, bank⟩ := Option.isSome_iff_exists.mp bank
    obtain ⟨im, arms⟩ := Option.isSome_iff_exists.mp arms
    have sender : l ∈ (lanesIn s).filter fun l => !(s.carts[laneCart l]).mute := by
      simp only [lanesIn, List.mem_filter, member, sends, and_true, Bool.not_false]
      exact allLanes_all l
    obtain ⟨l0, rest, lanes⟩ := List.exists_cons_of_ne_nil (List.ne_nil_of_mem sender)
    exact none q im l0 rest busy bank arms lanes

/-- R294 to R296: the deadline agreement ends the plan, accepted or rejected. -/
theorem exec_deadlineAgreement (on : s.clk.on = true) (wf : regsWf s.regs = true) :
    ∃ t, exec .deadlineAgreement s = .next t ∧ t.plf.busy = false ∧
      (s.plf.busy = true → (pattern s).isSome = true → s.arms.isSome = true →
        (∃ l : Lane, laneIn s l = true ∧ (s.carts[laneCart l]).mute = false) →
        reg t .plf 0 Reg.PLF_LAST_TAG = s.plf.startTag.setWidth 32 ∧
        ((reg t .plf 0 Reg.CNT = reg s .plf 0 Reg.CNT + 1 ∧ reg t .plf 0 (Reg.CNT + 4) = reg s .plf 0 (Reg.CNT + 4) ∧
            bit (reg t .plf 0 Reg.PLF_LAST) 0 = true ∧ t.plf.plan.isSome = true ∧
            ∀ a ∈ movedArms s, (t.play[a]).rejects = 0 ∧ (t.play[a]).next.isSome = true ∧ (t.play[a]).segs = (s.play[a]).segs) ∨
          (reg t .plf 0 Reg.CNT = reg s .plf 0 Reg.CNT ∧ reg t .plf 0 (Reg.CNT + 4) = reg s .plf 0 (Reg.CNT + 4) + 1 ∧
            bit (reg t .plf 0 Reg.PLF_LAST) 0 = false ∧ bit (reg t .plf 0 Reg.IRQ_STAT) plfReject = true ∧ t.plf.plan = s.plf.plan ∧
            ∀ a ∈ movedArms s, (t.play[a]).rejects = (s.play[a]).rejects + 1 ∧ (t.play[a]).next = (s.play[a]).next)) ∧
        (∀ a : Arm, a ∉ movedArms s → t.play[a] = s.play[a])) ∧
      t = { s with plf := t.plf, play := t.play, regs := t.regs, link := t.link } := by
  refine ⟨_, run_on on, ?_⟩
  obtain ⟨d, lanes, spread, cut, q, g, it, e⟩ | ⟨d, lanes, spread, cut, cause, unsound, e⟩ | ⟨e, silent⟩ := deadlineAgreement_cases (s := s)
  · have notes := notes_notedPlan (d := d) (cause := 0) (lanes := lanes) (spread := spread) (cut := cut) (s := s)
    obtain ⟨tag, last⟩ := notedPlan_regs (d := d) (cause := 0) (lanes := lanes) (spread := spread) (cut := cut) wf
    have moved := notes.moved wf
    rw [e]
    generalize notedPlan d 0 lanes spread cut s = u at notes tag last moved ⊢
    obtain ⟨ends, accepts, rejects, plan, each⟩ := acceptPlan_ends (q := q) (g := g) (it := it) (notes.wf wf)
    rw [moved] at ends each
    refine ⟨rfl, fun _ _ _ _ => ⟨ends.start.trans tag, .inl ⟨accepts.trans (congrArg (· + 1) (notes.reg wf (by decide))),
      rejects.trans (notes.reg wf (by decide)), (congrArg (bit · 0) ends.last).trans last, plan, fun a ha => notes.play ▸ each a ha⟩,
      fun a ha => (ends.others a ha).trans (congrArg (·[a]) notes.play)⟩, eq_of_planless (planless_modPlf.trans (ends.rest.trans notes.rest))⟩
  · have notes := notes_notedPlan (d := d) (cause := cause) (lanes := lanes) (spread := spread) (cut := cut) (s := s)
    obtain ⟨tag, last⟩ := notedPlan_regs (d := d) (cause := cause) (lanes := lanes) (spread := spread) (cut := cut) wf
    have moved := notes.moved wf
    rw [e]
    generalize notedPlan d cause lanes spread cut s = u at notes tag last moved ⊢
    obtain ⟨ends, accepts, rejects, flag, plan, each⟩ := rejectPlan_ends (notes.wf wf)
    rw [moved] at ends each
    refine ⟨rfl, fun _ _ _ _ => ⟨ends.start.trans tag, .inr ⟨accepts.trans (notes.reg wf (by decide)),
      rejects.trans (congrArg (· + 1) (notes.reg wf (by decide))), (congrArg (bit · 0) ends.last).trans (last.trans (beq_eq_false_iff_ne.mpr unsound)),
      flag, plan.trans (congrArg (·.2.2) notes.verdict :), fun a ha => notes.play ▸ each a ha⟩,
      fun a ha => (ends.others a ha).trans (congrArg (·[a]) notes.play)⟩, eq_of_planless (planless_modPlf.trans (ends.rest.trans notes.rest))⟩
  · rw [e]
    exact ⟨rfl, fun busy bank arms lane => absurd lane (silent busy bank arms), rfl⟩

end Sys2Proof.Machine

/-! SUPPORT. The time-scale stop, its end, and the end of the tail (R222, R300 to R302, R399). -/

namespace Sys2Proof.Machine

variable {s t u : State} {a b : Arm} {cause : Nat}

theorem forEach_append {α : Type} {f : α → State → State} (l m : List α) : forEach (l ++ m) f s = forEach m f (forEach l f s) := List.foldl_append

-- A ring that halts, and the others (R223)

theorem endRecords_apart (h : b ≠ a) : (endRecords cause a s).ring[b] = s.ring[b] := by
  obtain ⟨d, e⟩ := endRecords_eq (cause := cause) (a := a) (s := s)
  have each (r : RingRec) (u : State) : (abortRecord a r u).ring[b] = u.ring[b] := by
    rw [abortRecord, count_ring, report_eq, modRing_apart h]
  rw [e, forEach_preserves (g := fun u => u.ring[b]) each, modRing_apart h, modTds_ring]

/-- A stop halts one ring only. -/
theorem stopRing_apart (h : b ≠ a) : (stopRing a s).ring[b] = s.ring[b] := by
  by_cases running : (s.ring[a]).halt = 0
  · rw [stopRing, haltOne_running running rfl, endRecords_apart h, irq_ring, modRing_apart h]
  · rw [stopRing, haltOne_halted running rfl, endRecords_apart h]

/-- After a stop the ring is halted. -/
theorem stopRing_halts : ((stopRing a s).ring[a]).halt ≠ 0 := by
  by_cases running : (s.ring[a]).halt = 0
  · rw [stopRing, haltOne_running running rfl, endRecords_halt, irq_ring, modRing_at]
    exact Nat.succ_ne_zero 2
  · rw [stopRing, haltOne_halted running rfl, endRecords_halt]
    exact running

theorem stopRing_play : (stopRing a s).play = s.play := (congrArg State.play aborting_haltOne :)
theorem stopRing_saf : (stopRing a s).saf = s.saf := (congrArg State.saf aborting_haltOne :)
theorem stopRing_clk : (stopRing a s).clk = s.clk := (congrArg State.clk aborting_haltOne :)

-- TIME_SCALE_STOP (R301)

/-- A state without its rings, the dispatcher, what the arms play, the register file and the host link. -/
def scaling (s : State) : State := { aborting s with play := Vector.replicate 12 {} }

theorem eq_of_scaling (h : scaling t = scaling s) :
    t = { s with ring := t.ring, tds := t.tds, play := t.play, regs := t.regs, link := t.link } := by
  cases t; cases s; cases h; rfl

theorem scaling_of_aborting (h : aborting t = aborting s) : scaling t = scaling s :=
  congrArg (fun x => { x with play := Vector.replicate 12 {} }) h

theorem scaling_of_quiet (h : quiet t = quiet s) : scaling t = scaling s := scaling_of_aborting (aborting_of_ringless (ringless_of_quiet h))

/-- What the stop of one arm does to an arm's play. -/
def stoppedPlay (p : ArmPlay) : ArmPlay := { p with stopping := true, held := false, next := none }

/-- The ring of an arm in a time-scale stop halts, and the stop is noted. -/
def stopNoted (a : Arm) (s : State) : State := count .plf 0 3 (irq .plf 0 plfTsStop (stopRing a s))

/-- A fall of α, or none: the interrupts, and what one arm plays. -/
structure Falls (a : Arm) (s t : State) : Prop extends Writes [Reg.IRQ_STAT] s t where
  rest : scaling t = scaling s
  ring : t.ring = s.ring
  others : ∀ b : Arm, b ≠ a → t.play[b] = s.play[b]

theorem falls_startFall {req : F64} : Falls a s (startFall req a s) :=
  ⟨Writes.trans writes_modPlay writes_irqIf, (scaling_of_quiet quiet_irqIf).trans rfl, irqIf_ring,
    fun _ hb => (congrArg (·[_]) irqIf_play).trans (modPlay_apart hb)⟩

/-- The registers that a time-scale stop touches. -/
def scaleOffs : List Nat := (Reg.CNT + 4 * 3) :: takeOffs

theorem writes_stopNoted : Writes scaleOffs s (stopNoted a s) :=
  (writes_haltOne.mono (by decide)).trans ((writes_event (by decide)).mono (by decide))

theorem scaling_stopNoted : scaling (stopNoted a s) = scaling s :=
  (scaling_of_quiet quiet_event).trans (scaling_of_aborting aborting_haltOne)

theorem stopNoted_ring : (stopNoted a s).ring = (stopRing a s).ring := by rw [stopNoted, count_ring, irq_ring]
theorem stopNoted_play : (stopNoted a s).play = s.play := by rw [stopNoted, count_play, irq_play, stopRing_play]

/-- The stop of an arm is noted, lets α fall where a plan goes on, and forgets what was to follow (R301). -/
theorem scaledStop_runs (moves : (s.play[a]).stopping = false) (free : (s.saf.arm[a]).st = 0) :
    ∃ u, Falls a (stopNoted a s) u ∧ scaledStop a s = modPlay a stoppedPlay u := by
  have acts : scaledStop a s = modPlay a stoppedPlay (if (s.play[a]).held = false ∧ hasTail (stopNoted a s) a
      then startFall (stopRate (stopNoted a s)) a (stopNoted a s) else stopNoted a s) := if_pos ⟨moves, free⟩
  by_cases tail : (s.play[a]).held = false ∧ hasTail (stopNoted a s) a
  · exact ⟨_, falls_startFall, acts.trans (by rw [if_pos tail])⟩
  · exact ⟨_, ⟨.refl, rfl, rfl, fun _ _ => rfl⟩, acts.trans (by rw [if_neg tail])⟩

/-- An arm that already stops, or that Safety holds, stays as it is. -/
theorem scaledStop_idle (h : ¬ ((s.play[a]).stopping = false ∧ (s.saf.arm[a]).st = 0)) : scaledStop a s = s := if_neg h

/-- What a time-scale stop of one arm keeps: all but its page's counter, its ring and its play. -/
structure StopsOne (a : Arm) (s t : State) : Prop extends Writes scaleOffs s t where
  rest : scaling t = scaling s
  rings : ∀ b : Arm, b ≠ a → t.ring[b] = s.ring[b]
  plays : ∀ b : Arm, b ≠ a → t.play[b] = s.play[b]

theorem scaledStop_one : StopsOne a s (scaledStop a s) := by
  by_cases h : (s.play[a]).stopping = false ∧ (s.saf.arm[a]).st = 0
  · obtain ⟨u, falls, e⟩ := scaledStop_runs h.1 h.2
    rw [e]
    refine ⟨(writes_stopNoted.trans (falls.toWrites.mono (by decide))).trans writes_modPlay, ?_, fun b hb => ?_, fun b hb => ?_⟩
    · exact Eq.trans (b := scaling u) rfl (falls.rest.trans scaling_stopNoted)
    · rw [modPlay_ring, falls.ring, stopNoted_ring, stopRing_apart hb]
    · rw [modPlay_apart hb, falls.others b hb, stopNoted_play]
  · rw [scaledStop_idle h]
    exact ⟨.refl, rfl, fun _ _ => rfl, fun _ _ => rfl⟩

/-- The stop of an arm that moves and that Safety does not hold (R301). -/
theorem scaledStop_stops (moves : (s.play[a]).stopping = false) (free : (s.saf.arm[a]).st = 0) :
    ((scaledStop a s).play[a]).stopping = true ∧ ((scaledStop a s).play[a]).held = false ∧ ((scaledStop a s).play[a]).next = none ∧
      ((scaledStop a s).ring[a]).halt ≠ 0 := by
  obtain ⟨u, falls, e⟩ := scaledStop_runs moves free
  rw [e, modPlay_at, modPlay_ring, falls.ring, stopNoted_ring]
  exact ⟨rfl, rfl, rfl, stopRing_halts⟩

theorem scaledStop_noted (wf : regsWf s.regs = true) (moves : (s.play[a]).stopping = false) (free : (s.saf.arm[a]).st = 0) :
    bit (reg (scaledStop a s) .plf 0 Reg.IRQ_STAT) plfTsStop = true ∧
      reg (scaledStop a s) .plf 0 (Reg.CNT + 12) = reg s .plf 0 (Reg.CNT + 12) + 1 := by
  obtain ⟨u, falls, e⟩ := scaledStop_runs moves free
  have halted := writes_haltOne (cause := 3) (a := a) (s := s)
  have flag := event_flag (s := stopRing a s) (p := .plf) (i := 0) (n := 3) (m := plfTsStop) (halted.wf wf) (by decide)
  have counts := event_counts (s := stopRing a s) (p := .plf) (i := 0) (n := 3) (m := plfTsStop) (halted.wf wf) (by decide)
  have wfn : regsWf (stopNoted a s).regs = true := writes_stopNoted.wf wf
  have kept (off : Nat) : reg (modPlay a stoppedPlay u) .plf 0 off = reg u .plf 0 off := rfl
  rw [e, kept, kept]
  refine ⟨falls.flag wfn flag, ?_⟩
  rw [falls.reg wfn (by decide), ← halted.reg wf (p := .plf) (i := 0) (off := Reg.CNT + 12) (by decide)]
  exact counts

-- The arms of a coupling (R222)

theorem coupledArms_self : a ∈ coupledArms s a := by
  unfold coupledArms
  split
  · exact List.mem_filter.mpr ⟨mem_allArms, by rw [beq_self_eq_true, Bool.true_or]⟩
  · exact List.mem_singleton_self a

theorem coupledArms_nodup : (coupledArms s a).Nodup := by
  unfold coupledArms
  split
  · exact allArms_nodup.filter _
  · exact List.nodup_singleton a

theorem coupledArms_alone (h : (s.ring[a]).coupled = none) : coupledArms s a = [a] := by rw [coupledArms, h]

/-- What the stop of a coupling looks at and changes of one arm. -/
def scaledPart (s : State) (a : Arm) : ArmPlay × ArmRing × ArmSafety := (s.play[a], s.ring[a], s.saf.arm[a])

theorem scaledStop_saf : (scaledStop a s).saf = s.saf := (congrArg State.saf scaledStop_one.rest :)

theorem scaledPart_apart (h : b ≠ a) : scaledPart (scaledStop a s) b = scaledPart s b := by
  rw [scaledPart, scaledStop_one.plays b h, scaledStop_one.rings b h, scaledStop_saf, scaledPart]

/-- The stop of a list of arms stops each of them once (R222, R301). -/
theorem scaledStops_each (l : List Arm) (distinct : l.Nodup) :
    (∀ b ∈ l, (s.play[b]).stopping = false → (s.saf.arm[b]).st = 0 → ((forEach l scaledStop s).play[b]).stopping = true ∧
      ((forEach l scaledStop s).play[b]).held = false ∧ ((forEach l scaledStop s).play[b]).next = none ∧
      ((forEach l scaledStop s).ring[b]).halt ≠ 0) ∧
    (∀ b ∉ l, scaledPart (forEach l scaledStop s) b = scaledPart s b) :=
  forEach_each (part := scaledPart) (f := scaledStop)
    (Q := fun x y => x.1.stopping = false → x.2.2.st = 0 → y.1.stopping = true ∧ y.1.held = false ∧ y.1.next = none ∧ y.2.1.halt ≠ 0)
    (fun _ _ => scaledStop_stops) (fun _ _ _ => scaledPart_apart) l s distinct

theorem writes_scaledStops (l : List Arm) : Writes scaleOffs s (forEach l scaledStop s) := writes_forEach (fun _ _ => scaledStop_one.toWrites) l

/-- A list of distinct arms that holds one that stops raises `TSSTOP`. -/
theorem scaledStops_flag {l : List Arm} (wf : regsWf s.regs = true) (distinct : l.Nodup) (member : a ∈ l)
    (moves : (s.play[a]).stopping = false) (free : (s.saf.arm[a]).st = 0) :
    bit (reg (forEach l scaledStop s) .plf 0 Reg.IRQ_STAT) plfTsStop = true := by
  obtain ⟨l1, l2, rfl⟩ := List.append_of_mem member
  obtain ⟨distinct1, -, apart⟩ := List.nodup_append.mp distinct
  have fresh : a ∉ l1 := fun ha => apart a ha a List.mem_cons_self rfl
  have same := (scaledStops_each (s := s) l1 distinct1).2 a fresh
  have wf1 := (writes_scaledStops (s := s) l1).wf wf
  rw [forEach_append, show forEach (a :: l2) scaledStop (forEach l1 scaledStop s) =
    forEach l2 scaledStop (scaledStop a (forEach l1 scaledStop s)) from rfl]
  generalize forEach l1 scaledStop s = w at same wf1 ⊢
  have moves1 : (w.play[a]).stopping = false := (congrArg (·.1.stopping) same :).trans moves
  have free1 : (w.saf.arm[a]).st = 0 := (congrArg (·.2.2.st) same :).trans free
  exact (writes_scaledStops l2).flag (scaledStop_one.wf wf1) (scaledStop_noted wf1 moves1 free1).1

theorem timeScaleStop_stays (h : (s.play[a]).rejects < kHold s ∨ (s.play[a]).stopping = true ∨ (s.saf.arm[a]).st ≠ 0) :
    timeScaleStop a s = s := by
  refine if_neg ?_
  rintro ⟨many, moves, free⟩
  obtain h | h | h := h
  · exact absurd many (Nat.not_le.mpr h)
  · exact absurd moves (by rw [h]; decide)
  · exact absurd free h

theorem exec_timeScaleStop (on : s.clk.on = true) (wf : regsWf s.regs = true) (many : kHold s ≤ (s.play[a]).rejects)
    (moves : (s.play[a]).stopping = false) (free : (s.saf.arm[a]).st = 0) :
    ∃ t, exec (.timeScaleStop a) s = .next t ∧
      (∀ b ∈ coupledArms s a, (s.play[b]).stopping = false → (s.saf.arm[b]).st = 0 → (t.play[b]).stopping = true ∧
        (t.play[b]).held = false ∧ (t.play[b]).next = none ∧ (t.ring[b]).halt ≠ 0) ∧
      (∀ b : Arm, b ∉ coupledArms s a → t.play[b] = s.play[b]) ∧ bit (reg t .plf 0 Reg.IRQ_STAT) plfTsStop = true ∧
      ((s.ring[a]).coupled = none → reg t .plf 0 (Reg.CNT + 12) = reg s .plf 0 (Reg.CNT + 12) + 1 ∧
        ∀ b : Arm, b ≠ a → t.ring[b] = s.ring[b]) ∧
      t = { s with ring := t.ring, tds := t.tds, play := t.play, regs := t.regs, link := t.link } := by
  have acts : timeScaleStop a s = forEach (coupledArms s a) scaledStop s := if_pos ⟨many, moves, free⟩
  obtain ⟨stops, others⟩ := scaledStops_each (s := s) (coupledArms s a) coupledArms_nodup
  refine ⟨_, (run_on on).trans (congrArg _ acts), stops, fun b hb => (congrArg (·.1) (others b hb) :),
    scaledStops_flag wf coupledArms_nodup coupledArms_self moves free, fun alone => ?_,
    eq_of_scaling (forEach_preserves (fun _ _ => scaledStop_one.rest) _ _)⟩
  rw [coupledArms_alone alone]
  exact ⟨(scaledStop_noted wf moves free).2, scaledStop_one.rings⟩

-- TIME_SCALE_STOP_END (R302)

/-- An arm that rests without a plan (R233). -/
def restedPlay (p : ArmPlay) : ArmPlay := { p with
  segs := [], next := none, tau := 0, profile := none, ended := false, held := false, stopping := false, rest := true
  csp := false, cspWait := 0, splice := [], chain := [], stage0 := [] }

/-- A ring whose path is dropped (R220). -/
def pathlessRing (g : ArmRing) : ArmRing :=
  { g with path := [], pathT := 0, onPath := [], ends := [], blends := [], lastRef := none, cut := false, release := false }

/-- A state without its rings, what the arms play, and the servo datapath. -/
def motionless (s : State) : State := { s with ring := Vector.replicate 12 {}, play := Vector.replicate 12 {}, sdp := {} }

theorem eq_of_motionless (h : motionless t = motionless s) : t = { s with ring := t.ring, play := t.play, sdp := t.sdp } := by
  cases t; cases s; cases h; rfl

/-- A dropped plan: one arm's play and path, and its joints (R233). -/
theorem dropPlan_eq : (dropPlan a s).play = vmod s.play a restedPlay ∧ (dropPlan a s).ring = vmod s.ring a pathlessRing ∧
    motionless (dropPlan a s) = motionless s := by
  have still {l : List (Fin 96)} {f : Fin 96 → Joint → Joint} (u : State) :
      (fun v : State => (v.play, v.ring, motionless v)) (forEach l (fun j => modJoint j (f j)) u) = (u.play, u.ring, motionless u) :=
    forEach_preserves (g := fun v : State => (v.play, v.ring, motionless v)) (f := fun j => modJoint j (f j)) (fun _ _ => rfl) l u
  have whole := still (l := presentJoints s a) (f := fun _ x => { x with posNext := x.posNow, velNow := 0, velNext := 0, accNext := 0 })
    (modPlay a restedPlay s)
  simp only [Prod.mk.injEq] at whole
  obtain ⟨play, ring, rest⟩ := whole
  exact ⟨play, congrArg (fun v => vmod v a pathlessRing) ring, rest⟩

theorem exec_timeScaleStopEnd (on : s.clk.on = true) (stops : (s.play[a]).stopping = true)
    (ended : hasTail s a = false ∨ alphaQ31 (alphaAt (s.play[a]) 0).1 = 0) :
    ∃ t, exec (.timeScaleStopEnd a) s = .next t ∧ (t.play[a]).stopping = false ∧
      (t.play[a]).rest = true ∧ (t.play[a]).segs = [] ∧ (t.play[a]).rejects = 0 ∧ (t.ring[a]).path = [] ∧
      (∀ b : Arm, b ≠ a → t.play[b] = s.play[b] ∧ t.ring[b] = s.ring[b]) ∧
      t = { s with ring := t.ring, play := t.play, sdp := t.sdp } := by
  have acts : timeScaleStopEnd a s = modPlay a (fun p => { p with rejects := 0 }) (dropPlan a s) := if_pos ⟨stops, ended⟩
  obtain ⟨play, ring, rest⟩ := dropPlan_eq (a := a) (s := s)
  have whole : motionless (modPlay a (fun p => { p with rejects := 0 }) (dropPlan a s)) = motionless s := rest
  refine ⟨_, (run_on on).trans (congrArg _ acts), ?_, ?_, ?_, ?_, ?_, fun b hb => ⟨?_, ?_⟩, eq_of_motionless whole⟩
  · rw [modPlay_at, play, vmod_same]; rfl
  · rw [modPlay_at, play, vmod_same]; rfl
  · rw [modPlay_at, play, vmod_same]; rfl
  · rw [modPlay_at]
  · rw [modPlay_ring, ring, vmod_same]; rfl
  · rw [modPlay_apart hb, play, vmod_other hb]
  · rw [modPlay_ring, ring, vmod_other hb]

-- TAIL_EXHAUSTED (R300, R399)

/-- A test pulse met changes neither outputs nor states of the arms, nor the clock. -/
theorem meetTest_apart {o : Nat} : (meetTest o s).saf.out = s.saf.out ∧ (meetTest o s).saf.arm = s.saf.arm ∧ (meetTest o s).clk = s.clk := by
  unfold meetTest
  split
  · split
    · exact ⟨rfl, rfl, rfl⟩
    · exact ⟨rfl, rfl, rfl⟩
  · exact ⟨rfl, rfl, rfl⟩

/-- The outputs of an arm in STO: pair and brake off (R399). -/
def torqueOff (a : Arm) (o : SafeOutputs) : Prop := o.stoA.getLsbD a.val = false ∧ o.stoB.getLsbD a.val = false ∧ o.sbc.getLsbD a.val = false

theorem brakeOn_pairOff : torqueOff a (brakeOn a (pairOff a s)).saf.out ∧ (brakeOn a (pairOff a s)).clk = s.clk := by
  obtain ⟨out, -, clk⟩ := meetTest_apart (o := a.val) (s := modOut (fun o => { o with
    stoA := putBit o.stoA a.val false, stoB := putBit o.stoB a.val false, stoPend := putBit o.stoPend a.val false }) s)
  refine ⟨⟨?_, ?_, getLsbD_setBit_same a.isLt⟩, clk⟩
  · exact (congrArg (·.stoA.getLsbD a.val) out :).trans (getLsbD_setBit_same a.isLt)
  · exact (congrArg (·.stoB.getLsbD a.val) out :).trans (getLsbD_setBit_same a.isLt)

theorem modArmSaf_at {f : ArmSafety → ArmSafety} : (modArmSaf a f s).saf.arm[a] = f s.saf.arm[a] := vmod_same
theorem modArmSaf_apart {f : ArmSafety → ArmSafety} : (modArmSaf a f s).saf.out = s.saf.out ∧ (modArmSaf a f s).clk = s.clk := ⟨rfl, rfl⟩

/-- STO of one arm: it is in state 3 or stays where it was, its outputs off, and time stands still (R399). -/
theorem stoArm_sto : 3 ≤ ((stoArm cause a s).saf.arm[a]).st ∧
    ((s.saf.arm[a]).st < 3 → torqueOff a (stoArm cause a s).saf.out) ∧ (stoArm cause a s).clk = s.clk := by
  by_cases h : 3 ≤ (s.saf.arm[a]).st
  · rw [show stoArm cause a s = s from if_pos h]
    exact ⟨h, fun low => absurd h (Nat.not_le.mpr low), rfl⟩
  · obtain ⟨off, clk⟩ := brakeOn_pairOff (a := a) (s := s)
    have acts : stoArm cause a s = dropPlan a (stopRing a (modArmSaf a (fun r => { r with
        st := 3, sbcAt := none, fallPend := false
        cause := if r.st = 0 then cause else r.cause
        noss1 := r.noss1 || r.st == 0 || (cause == 8) }) (count .saf 0 1 (irq .saf 0 safSto (brakeOn a (pairOff a s)))))) := if_neg h
    rw [acts]
    generalize brakeOn a (pairOff a s) = u at off clk ⊢
    generalize hv : modArmSaf a _ (count .saf 0 1 (irq .saf 0 safSto u)) = v
    obtain ⟨-, -, rest⟩ := dropPlan_eq (a := a) (s := stopRing a v)
    have saf : (dropPlan a (stopRing a v)).saf = v.saf := (congrArg State.saf rest :).trans stopRing_saf
    have time : (dropPlan a (stopRing a v)).clk = v.clk := (congrArg State.clk rest :).trans stopRing_clk
    rw [saf, time, ← hv, modArmSaf_at, modArmSaf_apart.1, modArmSaf_apart.2, count_saf, irq_saf, count_clk, irq_clk]
    exact ⟨le_rfl, fun _ => off, clk⟩

theorem exec_tailExhausted {q : Profile} (on : s.clk.on = true) (ended : (s.play[a]).ended = true) (falls : (s.play[a]).profile = some q)
    (falling : q.rising = false) (above : 0 < alphaQ31 (alphaAt (s.play[a]) 0).1) (alone : (s.ring[a]).coupled = none) :
    ∃ t, exec (.tailExhausted a) s = .next t ∧ 3 ≤ (t.saf.arm[a]).st ∧
      ((s.saf.arm[a]).st < 3 → t.saf.out.stoA.getLsbD a.val = false ∧ t.saf.out.stoB.getLsbD a.val = false ∧
        t.saf.out.sbc.getLsbD a.val = false) ∧ t.clk = s.clk := by
  have acts : tailExhausted a s = stoArm 10 a (noteDemand 10 (maskOf [a]) s) := by
    have due : tailExhausted a s = decideSto 10 a s := by
      unfold tailExhausted
      simp only [ended, falls, falling, above, Bool.not_false, and_self, if_true]
    rw [due, decideSto, coupledArms_alone alone]
    exact congrArg (fun c => stoArm c a (noteDemand 10 (maskOf [a]) s)) (if_pos rfl)
  exact ⟨_, (run_on on).trans (congrArg _ acts), stoArm_sto⟩

end Sys2Proof.Machine

/-! SUPPORT. What a plan-cycle start does for the arms before the plan begins: it keeps time, admission, the pattern banks, and every
register that Plefin's start looks at (R202, R217, R227, R265, R271, R297, R404). -/

namespace Sys2Proof.Machine

variable {s t u : State} {a : Arm} {p : Pg} {i k n off bus cause : Nat} {x : Bool} {r : RingRec} {v : Word}

/-- The registers that the arms' part may touch: the splice, the rings' indices and errors, counters and interrupts. -/
def armOffs : List Nat :=
  [Reg.SDP_SPLICE, Reg.ARM_RD_IDX, Reg.ARM_LASTERR, Reg.CNT_OVF, Reg.IRQ_STAT] ++ (List.range 16).map (Reg.CNT + 4 * ·)

/-- What the start of a plan hangs on besides registers: the bus cycle, cell time, admission and the pattern banks (R231, R306). -/
def planBase (s : State) : BitVec 48 × Nat × Boot × Vector (Option Pattern) 2 × Fin 2 :=
  (s.clk.tag, s.clk.now, s.boot, s.plf.banks, s.plf.act)

/-- A part of the arms' work at a plan-cycle start. -/
structure Works (s t : State) : Prop extends Writes armOffs s t where
  base : planBase t = planBase s

theorem Works.refl : Works s s := ⟨.refl, rfl⟩

theorem Works.trans (h : Works s t) (g : Works t u) : Works s u := ⟨h.toWrites.trans g.toWrites, g.base.trans h.base⟩

theorem works_of_quiet (h : quiet t = quiet s) (w : Writes armOffs s t) : Works s t := ⟨w, (congrArg planBase h :)⟩

/-- A change outside registers and base. -/
theorem works_of_regs (regs : t.regs = s.regs) (base : planBase t = planBase s) : Works s t := ⟨writes_of_regs regs, base⟩

theorem works_forEach {α : Type} {f : α → State → State} (hf : ∀ x u, Works u (f x u)) (l : List α) : Works s (forEach l f s) :=
  ⟨writes_forEach (fun x u => (hf x u).toWrites) l, forEach_preserves (fun x u => (hf x u).base) l s⟩

theorem counter_mem_armOffs (hn : n < 16) : Reg.CNT + 4 * n ∈ armOffs :=
  List.mem_append_right _ (List.mem_map.mpr ⟨n, List.mem_range.mpr hn, rfl⟩)

theorem works_count (hn : n < 16) : Works s (count p i n s) := by
  refine works_of_quiet quiet_count ((writes_count hn).mono fun o ho => ?_)
  simp only [List.mem_cons, List.not_mem_nil, or_false] at ho
  obtain rfl | rfl | rfl := ho
  · exact counter_mem_armOffs hn
  · decide
  · decide

theorem works_irq : Works s (irq p i n s) := works_of_quiet quiet_irq (writes_irq.mono (by decide))
theorem works_irqIf : Works s (irqIf x p i n s) := works_of_quiet quiet_irqIf (writes_irqIf.mono (by decide))

theorem works_countIf (hn : n < 16) : Works s (countIf x p i n s) := by
  cases x with
  | false => exact .refl
  | true => exact works_count hn

theorem works_setReg (h : off ∈ [Reg.SDP_SPLICE, Reg.ARM_RD_IDX, Reg.ARM_LASTERR]) : Works s (setReg p i off v s) := by
  simp only [List.mem_cons, List.not_mem_nil, or_false] at h
  obtain rfl | rfl | rfl := h
  · exact works_of_quiet quiet_setReg ((writes_setReg (by decide) (by decide)).mono (by decide))
  · exact works_of_quiet quiet_setReg ((writes_setReg (by decide) (by decide)).mono (by decide))
  · exact works_of_quiet quiet_setReg ((writes_setReg (by decide) (by decide)).mono (by decide))

theorem works_modRing {f : ArmRing → ArmRing} : Works s (modRing a f s) := works_of_regs rfl rfl
theorem works_modPlay {f : ArmPlay → ArmPlay} : Works s (modPlay a f s) := works_of_regs rfl rfl
theorem works_modIdent {f : Ident → Ident} : Works s (modIdent a f s) := works_of_regs rfl rfl

-- Taking over a plan, direct segments, the hold, tools and payloads

theorem works_recordSplice {l : List (List Int)} : Works s (recordSplice a l s) := by
  unfold recordSplice
  dsimp only
  split
  · exact (works_setReg (by decide)).trans (works_countIf (by decide))
  · exact works_countIf (by decide)

theorem works_takeOver : Works s (takeOver a s) := by
  unfold takeOver
  split
  · exact .refl
  · dsimp only
    split
    · exact works_modPlay.trans works_recordSplice
    · exact works_modPlay

theorem works_toolStart : Works s (toolStart a s) := by
  unfold toolStart
  split
  · exact works_modRing.trans works_modIdent
  · exact .refl

theorem works_haStart : Works s (haStart a s) := by
  unfold haStart
  split
  · dsimp only
    split
    · exact works_modIdent.trans works_modIdent
    · exact works_modIdent.trans works_irq
  · exact .refl

theorem works_startFall {req : F64} : Works s (startFall req a s) := works_modPlay.trans works_irqIf

theorem works_directStart : Works s (directStart a s) := by
  unfold directStart
  split
  · exact .refl
  · split
    · split
      · dsimp only
        split
        · exact Works.trans (t := startRise a s) works_modPlay works_modPlay
        · exact works_modPlay
      · exact .refl
    · exact (works_modPlay.trans works_irq).trans (works_count (by decide))

theorem works_holdStart : Works s (holdStart a s) := by
  unfold holdStart
  dsimp only
  split
  · split
    · exact (works_modPlay.trans works_irq).trans works_startFall
    · exact works_modPlay.trans works_irq
  · exact .refl

theorem works_holdStep : Works s (holdStep s) := (works_forEach (fun _ _ => works_holdStart) _).trans (works_countIf (by decide))

theorem works_cspStart : Works s (cspStart a s) := by
  unfold cspStart
  dsimp only
  split
  · exact works_modPlay.trans (works_countIf (by decide))
  · exact .refl

theorem works_predictStage0 : Works s (predictStage0 a s) := works_of_regs rfl rfl

theorem works_pinAhead : Works s (pinAhead a s) := by
  unfold pinAhead
  split
  · exact works_of_regs rfl rfl
  · exact .refl

-- Take-in (R202, R203, R224)

theorem works_of_take (w : Writes takeOffs s t) (base : planBase t = planBase s) : Works s t := ⟨w.mono (by decide), base⟩

theorem works_report {st : RptStatus} {c m : Nat} : Works s (report a r st c m s) := works_of_regs rfl rfl

theorem works_haltOne : Works s (haltOne cause a s) := works_of_take writes_haltOne (congrArg planBase aborting_haltOne :)

theorem works_haltRing : Works s (haltRing cause a s) := works_forEach (fun _ _ => works_haltOne) _

theorem works_noteMalformed : Works s (noteMalformed a r n s) := (works_count (by decide)).trans (works_setReg (by decide))

theorem works_settleBad : Works s (settleBad a s) := by
  obtain ⟨regs, rest, -⟩ := settleBad_apart (a := a) (s := s)
  exact works_of_regs regs (congrArg planBase rest :)

theorem works_placeOutput {key : Int} : Works s (placeOutput a r key s) := works_of_regs rfl rfl

theorem works_actInline : Works s (actInline a k s) := by
  induction k generalizing s with
  | zero => exact .refl
  | succ k ih =>
    unfold actInline
    split
    · split
      · exact (works_modRing.trans works_report).trans ih
      · split
        · exact Works.trans works_placeOutput ih
        · exact .refl
    · exact .refl

theorem works_reachRdv : Works s (reachRdv a r s) := by
  unfold reachRdv
  dsimp only
  split
  · exact (((works_noteMalformed (n := 0x0B)).trans works_modRing).trans works_haltRing).trans works_report
  · exact works_modRing

theorem works_startWait : Works s (startWait a s) := by
  have marked (c : Prop) [Decidable c] (f : ArmRing → ArmRing) : Works s (if c then modRing a f s else s) := by
    split
    · exact works_modRing
    · exact .refl
  unfold startWait
  split
  · exact .refl
  · split
    · dsimp only
      split
      · exact (marked _ _).trans works_reachRdv
      · split
        · exact (marked _ _).trans works_modRing
        · exact marked _ _
    · exact .refl

theorem works_afterCompletion : Works s (afterCompletion a s) := (works_actInline.trans works_startWait).trans works_settleBad

theorem works_takeRecord : Works s (takeRecord bus a r s) := by
  have read : Works s (modRing a (fun g => { g with starved := false })
      (setReg .arm a Reg.ARM_RD_IDX (BitVec.ofNat 32 ((r.idx + 1) % 1024)) (count .arm a 0 s))) :=
    ((works_count (by decide)).trans (works_setReg (by decide))).trans works_modRing
  unfold takeRecord
  dsimp only
  generalize modRing a (fun g => { g with starved := false }) _ = u at read ⊢
  have joins : Works u (joined a r u) := works_modRing
  split
  · exact read.trans (((works_noteMalformed.trans works_modRing).trans works_haltRing).trans works_settleBad)
  · split
    · exact (read.trans joins).trans works_placeOutput
    · split
      · exact (read.trans joins).trans (works_of_regs rfl rfl)
      · split
        · exact (read.trans joins).trans works_afterCompletion
        · exact read.trans joins

theorem works_takeVisible : Works s (takeVisible bus a k s) := by
  induction k generalizing s with
  | zero => exact .refl
  | succ k ih =>
    unfold takeVisible
    split
    · exact (works_modRing.trans works_takeRecord).trans ih
    · exact .refl

-- The path sampler (R205, R207, R211, R219)

theorem works_placeAll {y : F64} {o : V3 F64} : Works s (placeAll a y o k s) := by
  induction k generalizing s with
  | zero => exact .refl
  | succ k ih =>
    unfold placeAll
    split
    · split
      · exact Works.trans works_modRing ih
      · exact .refl
    · exact .refl

theorem works_extendPath {y : F64} : Works s (extendPath a y s) := (works_modRing.trans works_placeAll).trans works_modRing

theorem works_beginRelease : Works s (beginRelease a s) := by
  unfold beginRelease
  split
  · split
    · exact works_modRing
    · exact .refl
  · split
    · exact works_modRing
    · exact .refl
  · exact .refl

theorem works_restInLine : Works s (restInLine a s) := by
  unfold restInLine
  dsimp only
  split
  · split
    · exact .refl
    · exact works_modRing
  · split
    · exact .refl
    · exact works_modRing
  · exact .refl

theorem works_starve : Works s (starve a s) := by
  unfold starve
  split
  · split
    · split
      · split
        · exact (works_modRing.trans works_irq).trans (works_count (by decide))
        · exact .refl
      · exact .refl
    · exact .refl
  · exact .refl

theorem works_samplePath : Works s (samplePath a s) := by
  have after := works_afterCompletion (s := s) (a := a)
  unfold samplePath
  dsimp only
  generalize afterCompletion a s = u at after ⊢
  have released := works_beginRelease (s := u) (a := a)
  generalize beginRelease a u = v at released ⊢
  exact (after.trans released).trans ((works_extendPath.trans works_restInLine).trans works_starve)

theorem works_takeIn : Works s (takeIn a s) := works_takeVisible.trans works_samplePath

theorem works_directTake : Works s (directTake a s) := by
  unfold directTake
  split
  · exact ((works_modPlay.trans works_takeIn).trans works_directStart)
  · exact .refl

theorem works_hardwareTake : Works s (hardwareTake a s) := by
  unfold hardwareTake
  split
  · exact .refl
  · exact works_takeIn

-- PLAN_CYCLE_START, first part (R231, R232)

/-- All that a plan-cycle start does for the arms, before the plan begins. -/
def armsStart (s : State) : State :=
  let u := forEach allArms takeOver (setReg .sdp 0 Reg.SDP_SPLICE 0 s)
  let u := forEach allArms haStart (forEach allArms toolStart { u with ring := u.ring.map fun g => { g with took := 0 } })
  let u := forEach allArms cspStart (holdStep (forEach allArms directTake u))
  forEach allArms pinAhead (forEach allArms hardwareTake (forEach allArms predictStage0 (latchPlan u)))

theorem planStart_eq : planStart s = beginPlan (armsStart s) := rfl

theorem works_armsStart : Works s (armsStart s) := by
  unfold armsStart
  dsimp only
  have taken : Works s (forEach allArms takeOver (setReg .sdp 0 Reg.SDP_SPLICE 0 s)) :=
    (works_setReg (by decide)).trans (works_forEach (fun _ _ => works_takeOver) _)
  generalize forEach allArms takeOver (setReg .sdp 0 Reg.SDP_SPLICE 0 s) = u1 at taken ⊢
  have fresh : Works u1 { u1 with ring := u1.ring.map fun g => { g with took := 0 } } := works_of_regs rfl rfl
  generalize ({ u1 with ring := u1.ring.map fun g => { g with took := 0 } } : State) = u2 at fresh ⊢
  have tools : Works u2 (forEach allArms haStart (forEach allArms toolStart u2)) :=
    (works_forEach (fun _ _ => works_toolStart) _).trans (works_forEach (fun _ _ => works_haStart) _)
  generalize forEach allArms haStart (forEach allArms toolStart u2) = u3 at tools ⊢
  have holds : Works u3 (forEach allArms cspStart (holdStep (forEach allArms directTake u3))) :=
    ((works_forEach (fun _ _ => works_directTake) _).trans works_holdStep).trans (works_forEach (fun _ _ => works_cspStart) _)
  generalize forEach allArms cspStart (holdStep (forEach allArms directTake u3)) = u4 at holds ⊢
  have latches : Works u4 (latchPlan u4) := works_of_regs rfl rfl
  have takes : Works (latchPlan u4) (forEach allArms pinAhead (forEach allArms hardwareTake (forEach allArms predictStage0 (latchPlan u4)))) :=
    ((works_forEach (fun _ _ => works_predictStage0) _).trans (works_forEach (fun _ _ => works_hardwareTake) _)).trans
      (works_forEach (fun _ _ => works_pinAhead) _)
  exact (((taken.trans fresh).trans tools).trans holds).trans (latches.trans takes)

/-- The plan that a plan-cycle start begins, or not (R231). -/
structure Begins (s t : State) : Prop where
  busy : t.plf.busy = (s.boot.admitted && enabled s .plf 0 && (pattern s).isSome)
  fresh : t.plf.busy = true → t.plf.startTag = s.clk.tag ∧ t.plf.step = 1 ∧ t.plf.pos = 0 ∧ t.plf.fail = false ∧ t.plf.warm = false ∧
    t.plf.words = Vector.replicate 3 none ∧ t.plf.prog = none ∧ t.plf.iterates = [] ∧ t.plf.results = [] ∧
    t.plf.cfg = reg s .plf 0 Reg.PLF_CFG
  tag : t.clk.tag = s.clk.tag
  now : t.clk.now = s.clk.now

theorem begins_beginPlan : Begins s (beginPlan s) := by
  unfold beginPlan
  split
  · next h =>
    obtain ⟨admitted, page, bank⟩ := h
    refine ⟨?_, fun _ => ⟨rfl, rfl, rfl, rfl, rfl, rfl, rfl, rfl, rfl, rfl⟩, rfl, rfl⟩
    rw [admitted, page, bank]
    rfl
  · next h =>
    refine ⟨(Bool.eq_false_iff.mpr fun all => h ?_).symm, nofun, rfl, rfl⟩
    rw [Bool.and_eq_true, Bool.and_eq_true, and_assoc] at all
    exact all

/-- The start hangs on nothing that the arms' work changes. -/
theorem Begins.of_works (h : Begins u t) (w : Works s u) (wf : regsWf s.regs = true) : Begins s t := by
  have base := w.base
  simp only [planBase, Prod.mk.injEq] at base
  obtain ⟨tag, now, boot, -, -⟩ := base
  have page : enabled u .plf 0 = enabled s .plf 0 := w.enabled wf (by decide)
  have cfg : reg u .plf 0 Reg.PLF_CFG = reg s .plf 0 Reg.PLF_CFG := w.reg wf (by decide)
  have bank : pattern u = pattern s := congrArg (fun b => b.2.2.2.1[b.2.2.2.2]) w.base
  obtain ⟨busy, fresh, tag', now'⟩ := h
  rw [boot, page, bank] at busy
  rw [tag, cfg] at fresh
  exact ⟨busy, fresh, tag'.trans tag, now'.trans now⟩

theorem begins_planStart (wf : regsWf s.regs = true) : Begins s (planStart s) := by
  rw [planStart_eq]
  exact begins_beginPlan.of_works works_armsStart wf

end Sys2Proof.Machine

/-! SUPPORT. What a plan-cycle start does for the lanes once the plan has begun: Plefin, the bus cycle and cell time stay as they are (R29,
R399, R401, R436, R438, R440, R442, R443). -/

namespace Sys2Proof.Machine

variable {s t u : State} {a : Arm} {l : Lane} {c : Cart} {cause : Nat}

/-- Plefin, the tag of the running bus cycle, and cell time. -/
def planTime (s : State) : Plefin × BitVec 48 × Nat := (s.plf, s.clk.tag, s.clk.now)

theorem planTime_of_quiet (h : quiet t = quiet s) : planTime t = planTime s := (congrArg planTime h :)

@[simp] theorem planTime_count {p : Pg} {i n : Nat} : planTime (count p i n s) = planTime s := planTime_of_quiet quiet_count
@[simp] theorem planTime_irq {p : Pg} {i n : Nat} : planTime (irq p i n s) = planTime s := planTime_of_quiet quiet_irq
@[simp] theorem planTime_countIf {x : Bool} {p : Pg} {i n : Nat} : planTime (countIf x p i n s) = planTime s := planTime_of_quiet quiet_countIf
@[simp] theorem planTime_modCart {f : Cartridge → Cartridge} : planTime (modCart c f s) = planTime s := rfl
@[simp] theorem planTime_modSaf {f : SafetyUnit → SafetyUnit} : planTime (modSaf f s) = planTime s := rfl
@[simp] theorem planTime_modArmSaf {f : ArmSafety → ArmSafety} : planTime (modArmSaf a f s) = planTime s := rfl
@[simp] theorem planTime_modPlay {f : ArmPlay → ArmPlay} : planTime (modPlay a f s) = planTime s := rfl

@[simp] theorem planTime_stopRing : planTime (stopRing a s) = planTime s := (congrArg planTime aborting_haltOne :)
@[simp] theorem planTime_dropPlan : planTime (dropPlan a s) = planTime s := (congrArg planTime (dropPlan_eq (a := a)).2.2 :)

-- STO and SS1 of the arms (R399, R401)

theorem planTime_pairOff : planTime (brakeOn a (pairOff a s)) = planTime s := by
  have met (o : Nat) (u : State) : planTime (meetTest o u) = planTime u := by
    unfold meetTest
    split
    · split
      · rfl
      · rfl
    · rfl
  exact Eq.trans (b := planTime (pairOff a s)) rfl (met _ _)

theorem planTime_stoArm : planTime (stoArm cause a s) = planTime s := by
  unfold stoArm
  dsimp only
  split
  · rfl
  · rw [planTime_dropPlan, planTime_stopRing, planTime_modArmSaf, planTime_count, planTime_irq, planTime_pairOff]

theorem planTime_ss1Arm : planTime (ss1Arm cause a s) = planTime s := by
  unfold ss1Arm
  dsimp only
  split
  · rfl
  · split
    · rw [planTime_count, planTime_irq]
    · rw [planTime_modPlay, planTime_stopRing, planTime_modArmSaf, planTime_count, planTime_irq]

@[simp] theorem planTime_noteDemand {m : BitVec 12} : planTime (noteDemand cause m s) = planTime s := planTime_modSaf

theorem planTime_cellSto : planTime (cellSto cause s) = planTime s := by
  rw [cellSto, forEach_preserves (g := planTime) (fun _ _ => planTime_stoArm), planTime_noteDemand]

theorem planTime_cellSs1 : planTime (cellSs1 cause s) = planTime s := by
  rw [cellSs1, forEach_preserves (g := planTime) (fun _ _ => planTime_ss1Arm), planTime_noteDemand]
  rfl

theorem planTime_lanesLost : planTime (lanesLost s) = planTime s := by
  unfold lanesLost
  split
  · rfl
  · split
    · exact planTime_cellSto
    · split
      · exact planTime_cellSs1
      · rfl

-- Roles and states of the lanes (R29, R32, R439, R462)

@[simp] theorem planTime_setState {x : CartState} : planTime (setState c x s) = planTime s := by
  unfold setState
  split
  · rfl
  · rw [planTime_irq, planTime_modCart]

theorem planTime_cusEvent {b : Nat} {n : Option Nat} : planTime (cusEvent b n s) = planTime s := by
  refine forEach_preserves (fun h u => ?_) _ s
  split
  · cases n with
    | none => exact planTime_irq
    | some k => exact planTime_count.trans planTime_irq
  · rfl

theorem planTime_setRole {r : Role} : planTime (setRole l r s) = planTime s := by
  unfold setRole
  split
  · rfl
  · exact planTime_modCart

theorem planTime_passRole {r q : Role} : planTime (passRole r q s) = planTime s := by
  unfold passRole
  split
  · split
    · exact planTime_setRole
    · rfl
  · rfl

theorem planTime_roleSync : planTime (roleSync s) = planTime s := by
  have vacated : planTime (forEach allLanes (fun l u => if laneIn u l then u else setRole l .none u) s) = planTime s := by
    refine forEach_preserves (fun l u => ?_) _ s
    split
    · rfl
    · exact planTime_setRole
  have passed : planTime (passRole .reserve .lead (passRole .reserve .second (passRole .second .lead
      (forEach allLanes (fun l u => if laneIn u l then u else setRole l .none u) s)))) = planTime s := by
    rw [planTime_passRole, planTime_passRole, planTime_passRole, vacated]
  unfold roleSync
  dsimp only
  split
  · rw [planTime_cusEvent, passed]
  · exact passed

-- Fences and re-admission (R436, R438, R440, R442, R443)

theorem planTime_restartLoads : planTime (restartLoads s) = planTime s := by
  refine forEach_preserves (fun l u => ?_) _ s
  dsimp only
  split
  · rw [planTime_setState, planTime_modCart]
  · rfl

/-- A lane has left the step, and the voter excludes it (R436). -/
def laneLeft (l : Lane) (cause : Nat) (s : State) : State :=
  let s := count .crt (laneCart l) 0 (setState (laneCart l) (afterFence s.carts[laneCart l]) s)
  let s := modCart (laneCart l) (fun k => { k with
    cause := cause, fencePend := none, fenceTag := lo32 (s.clk.tag.setWidth 64), loaded := false, passed := false, gone := false }) s
  { s with vote := { s.vote with excluded := putBit s.vote.excluded l.val false } }

theorem fenceLane_instep (h : (s.carts[laneCart l]).st = .instep) : fenceLane l cause s =
    lanesLost (if sourceLane s = some l then restartLoads (laneLeft l cause s) else laneLeft l cause s) := if_pos h

theorem planTime_laneLeft : planTime (laneLeft l cause s) = planTime s := by
  have left : planTime (count .crt (laneCart l) 0 (setState (laneCart l) (afterFence s.carts[laneCart l]) s)) = planTime s := by
    rw [planTime_count, planTime_setState]
  unfold laneLeft
  generalize count .crt (laneCart l) 0 (setState (laneCart l) (afterFence s.carts[laneCart l]) s) = u at left
  exact Eq.trans (b := planTime u) rfl left

theorem planTime_fenceLane : planTime (fenceLane l cause s) = planTime s := by
  by_cases h : (s.carts[laneCart l]).st = .instep
  · rw [fenceLane_instep h, planTime_lanesLost]
    split
    · rw [planTime_restartLoads, planTime_laneLeft]
    · exact planTime_laneLeft
  · rw [fenceLane, if_neg h]

theorem planTime_fenceLanes : planTime (fenceLanes s) = planTime s := by
  unfold fenceLanes
  split
  · rw [planTime_roleSync]
    refine forEach_preserves (fun l u => ?_) _ s
    split
    · exact planTime_fenceLane
    · rfl
  · rfl

theorem planTime_joinStep : planTime (joinStep c s) = planTime s := by
  unfold joinStep
  dsimp only
  rw [planTime_count, planTime_irq]
  exact Eq.trans (b := planTime (setState c .instep s)) rfl planTime_setState

theorem planTime_lanePlanStart : planTime (lanePlanStart l s) = planTime s := by
  unfold lanePlanStart
  dsimp only
  split
  · split
    · rw [planTime_setState, planTime_modCart]
    · rfl
  · rw [planTime_modCart, planTime_countIf]
  · split
    · rw [planTime_roleSync, planTime_joinStep]
    · exact planTime_modCart
  · rfl

-- PLAN_CYCLE_START (R231, R232)

/-- The lanes' part leaves the plan that begins as it is. -/
theorem Begins.congr (h : Begins s u) (same : planTime t = planTime u) : Begins s t := by
  simp only [planTime, Prod.mk.injEq] at same
  obtain ⟨plf, tag, now⟩ := same
  obtain ⟨busy, fresh, tag', now'⟩ := h
  rw [← plf] at busy fresh
  exact ⟨busy, fresh, tag.trans tag', now.trans now'⟩

theorem exec_planCycleStart (on : s.clk.on = true) (wf : regsWf s.regs = true) (starts : planStarts s = true) :
    ∃ t, exec .planCycleStart s = .next (refreshReady t) ∧ Begins s t := by
  have acts : planCycleStart s = lanePlanStart 2 (lanePlanStart 1 (lanePlanStart 0 (fenceLanes (planStart s)))) := if_pos starts
  refine ⟨planCycleStart s, runReady_on on, (begins_planStart wf).congr ?_⟩
  rw [acts, planTime_lanePlanStart, planTime_lanePlanStart, planTime_lanePlanStart, planTime_fenceLanes]

end Sys2Proof.Machine

/-! The course of one plan (R231, R232, R234, R279 to R302): O52. -/

namespace Sys2Proof.Machine

variable {s : State} {q : Pattern} {g : Programme} {it y : Iterate} {r : StepResult} {c : Nat}

/-- R281, R284, R285, R288 to R290: a step of the solver, told with its fault as the outcome. -/
theorem exec_interiorPointStep_told (on : s.clk.on = true) (wf : regsWf s.regs = true)
    (hc : c = if s.plf.pos = 2047 then s.plf.step + 1 else s.plf.step) (bank : pattern s = some q)
    (prog : s.plf.prog = some g) (last : s.plf.iterates.getLast? = some it) (busy : s.plf.busy = true) (sound : s.plf.fail = false)
    (few : c ≤ ipSteps s) (step : solverStep q s.plf.tol s.plf.floor (iterCap s) true g it = (y, r)) :
    ∃ t, exec .interiorPointStep s = .next t ∧
      t.plf.step = c ∧ t.plf.results = s.plf.results ++ [r] ∧ t.plf.prog = s.plf.prog ∧
      (r.fail = false → t.plf.pos = 2047 ∧ t.plf.fail = false ∧ t.plf.iterates = s.plf.iterates ++ [y] ∧
        reg t .plf 0 (Reg.CNT + 40) = reg s .plf 0 (Reg.CNT + 40)) ∧
      (r.fail = true → t.plf.pos = 1 + r.iters ∧ t.plf.fail = true ∧ t.plf.iterates = s.plf.iterates ∧
        reg t .plf 0 (Reg.CNT + 40) = reg s .plf 0 (Reg.CNT + 40) + 1) ∧
      reg t .plf 0 Reg.PLF_PIVOT_SUBST = reg s .plf 0 Reg.PLF_PIVOT_SUBST + BitVec.ofNat 32 r.subst ∧
      reg t .plf 0 (Reg.CNT + 28) = reg s .plf 0 (Reg.CNT + 28) + BitVec.ofNat 32 r.flush ∧
      (reg t .plf 0 (Reg.CNT + 16) = reg s .plf 0 (Reg.CNT + 16) + (if r.factFb then 1 else 0)) ∧
      (reg t .plf 0 (Reg.CNT + 20) = reg s .plf 0 (Reg.CNT + 20) + (if r.capped then 1 else 0)) ∧
      (0 < r.subst → bit (reg t .plf 0 Reg.IRQ_STAT) plfPivSub = true) ∧
      (r.factFb = true → bit (reg t .plf 0 Reg.IRQ_STAT) plfFactFb = true) ∧
      (r.capped = true → bit (reg t .plf 0 Reg.IRQ_STAT) plfIterCap = true) ∧
      t = { s with plf := t.plf, regs := t.regs, link := t.link } := by
  obtain ⟨t, acts, tells, next, results, kept, goes, ends, frame⟩ := exec_interiorPointStep on wf hc bank prog last busy sound few step
  have fails := tells.fails
  refine ⟨t, acts, next, results, kept, fun h => ?_, fun h => ?_, tells.pivots, tells.flushed, tells.fallbacks, tells.caps,
    tells.pivSub, tells.factFb, tells.iterCap, frame⟩
  · obtain ⟨pos, fail, iterates⟩ := goes h
    rw [h, if_neg Bool.false_ne_true] at fails
    exact ⟨pos, fail, iterates, fails.trans (BitVec.add_zero _)⟩
  · obtain ⟨pos, fail, iterates⟩ := ends h
    rw [h, if_pos rfl] at fails
    exact ⟨pos, fail, iterates, fails⟩

/-- Settles O52, command by command. -/
theorem plefinPlan : Obligations.PlefinPlan := by
  intro s on wf
  refine ⟨fun starts => ?_, fun b im busy cold bank arms => exec_warmStart on busy cold bank arms,
    fun idle => (run_on on).trans (congrArg _ (warmStart_idle idle)),
    fun p hp => ⟨fun b g it y r bank prog last busy sound few step => exec_interiorPointStep_told on wf hp bank prog last busy sound few step,
      fun idle => (run_on on).trans (congrArg _ (interiorPointStep_idle hp idle))⟩,
    fun l w f => ⟨exec_progressWord on, exec_progressWord_ignored on⟩, exec_deadlineAgreement on wf,
    fun a => ⟨exec_timeScaleStop on wf, fun stays => (run_on on).trans (congrArg _ (timeScaleStop_stays stays)),
      exec_timeScaleStopEnd on, fun q ended falls falling above alone => exec_tailExhausted on ended falls falling above alone⟩⟩
  obtain ⟨t, acts, begins⟩ := exec_planCycleStart on wf starts
  exact ⟨t, acts, begins.busy, begins.fresh, begins.tag, begins.now⟩

end Sys2Proof.Machine

/-! SUPPORT. A core that executes one instruction: what retires, and what a fault stops (R318, R322, R323, R344). -/

namespace Sys2Proof.Machine

variable {s : State} {c : CoreNo} {k : MacCore} {w : MacWrite} {op : MacCtx → MacCtx} {f : MacCore → MacCore} {next : List MacWrite}
  {code n : Nat} {ls : List HwLoop}

-- Results that reach their registers (R322)

/-- A core without the registers that a result on its way may reach. -/
def unlanded (k : MacCore) : MacCore :=
  { k with d := Vector.replicate 16 0, acc := Vector.replicate 4 0, a := Vector.replicate 8 0, m := Vector.replicate 8 0
           w := Vector.replicate 8 0, pmap := 0 }

theorem unlanded_landWrite : unlanded (landWrite k w) = unlanded k := by cases w <;> rfl

theorem unlanded_landed : unlanded (landed s c) = unlanded s.sdp.core[c] := by
  unfold landed
  generalize s.sdp.core[c] = k
  induction s.sdp.late[c] generalizing k with
  | nil => rfl
  | cons w l ih => exact (ih _).trans unlanded_landWrite

@[simp] theorem landed_pc : (landed s c).pc = (s.sdp.core[c]).pc := (congrArg MacCore.pc unlanded_landed :)
@[simp] theorem landed_loops : (landed s c).loops = (s.sdp.core[c]).loops := (congrArg MacCore.loops unlanded_landed :)
@[simp] theorem landed_lc : (landed s c).lc = (s.sdp.core[c]).lc := (congrArg MacCore.lc unlanded_landed :)
@[simp] theorem landed_rotb : (landed s c).rotb = (s.sdp.core[c]).rotb := (congrArg MacCore.rotb unlanded_landed :)
@[simp] theorem landed_flg : (landed s c).flg = (s.sdp.core[c]).flg := (congrArg MacCore.flg unlanded_landed :)
@[simp] theorem landed_len : (landed s c).len = (s.sdp.core[c]).len := (congrArg MacCore.len unlanded_landed :)
@[simp] theorem landed_cycles : (landed s c).cycles = (s.sdp.core[c]).cycles := (congrArg MacCore.cycles unlanded_landed :)
@[simp] theorem landed_running : (landed s c).running = (s.sdp.core[c]).running := (congrArg MacCore.running unlanded_landed :)

-- The end of a loop's body (R318, R319)

/-- What the end of a loop's body may change: the program counter, the loops, the loop count, the rotation base and the cycles. -/
def offLoop (k : MacCore) : MacCore := { k with pc := 0, loops := [], lc := 0, rotb := 0, cycles := 0 }

theorem offLoop_endPass : offLoop (endPass n ls k) = offLoop k := by
  induction ls generalizing k with
  | nil => rfl
  | cons h r ih =>
    have rotated : offLoop (if h.outer then k else rotate k) = offLoop k := by split <;> rfl
    rw [endPass]
    dsimp only
    generalize (if h.outer then k else rotate k) = k' at rotated
    split
    · rfl
    · split
      · exact rotated
      · exact ih.trans rotated

theorem offLoop_stepped : offLoop (stepped k) = offLoop k := Eq.trans rfl offLoop_endPass

@[simp] theorem stepped_running : (stepped k).running = k.running := (congrArg MacCore.running offLoop_stepped :)

-- One instruction of a running core

section Runs
variable (runs : (s.sdp.core[c]).running = true)
include runs

/-- An instruction without a fault and without a conflict leaves the core that it gives. -/
theorem issue_core (acts : op (macCtx s c) = { macCtx s c with core := k, late := next }) (keeps : k.running = true) :
    issue c op s = withCore s c k next := by
  unfold issue
  rw [if_pos runs, acts]
  dsimp only [macCtx]
  rw [if_pos rfl, if_neg (by decide), if_pos keeps]
  rfl

theorem issue_retire (acts : op (macCtx s c) = retire f next (macCtx s c)) (keeps : (f (landed s c)).running = true) :
    issue c op s = withCore s c (stepped (f (landed s c))) next :=
  issue_core runs acts (stepped_running.trans keeps)

theorem issue_fault (faults : op (macCtx s c) = faultWith code (macCtx s c)) (hc : code ≠ 0) : issue c op s = kernelFault c code s := by
  unfold issue
  rw [if_pos runs, faults]
  dsimp only [faultWith, macCtx]
  rw [if_pos rfl, if_pos hc]

end Runs

/-- The same, where the instruction is given by what it does to this core. -/
theorem issue_congr {op' : MacCtx → MacCtx} (same : op (macCtx s c) = op' (macCtx s c)) : issue c op s = issue c op' s := by
  unfold issue
  rw [same]

-- A kernel's fault (R323)

/-- The core stops, its fault stands in `SDP.FAULT` and with its joint; it is not counted yet. -/
def faultNoted (c : CoreNo) (code : Nat) (s : State) : State :=
  let k := s.sdp.core[c]
  let v := (if k.stream then 127 else k.joint) * 2 ^ 24 + k.kernel * 2 ^ 16 + c.val * 2 ^ 8 + code
  let s := modCore c (fun k => { k with running := false }) s
  let s := if s.sdp.faultSeen then s else setReg .sdp 0 Reg.SDP_FAULT (BitVec.ofNat 32 v) s
  let s := { s with sdp := { s.sdp with faultSeen := true } }
  if k.stream then s else modJoint (jointNo k.joint) (fun j => { j with faulted := true }) s

theorem kernelFault_running (runs : (s.sdp.core[c]).running = true) :
    kernelFault c code s = count .sdp 0 0 (irq .sdp 0 sdpKFault (faultNoted c code s)) := if_pos runs

/-- Of the cores and the results on their way, a fault changes the one core alone. -/
theorem faultNoted_sdp : (faultNoted c code s).sdp.core = vmod s.sdp.core c (fun k => { k with running := false }) ∧
    (faultNoted c code s).sdp.late = s.sdp.late ∧ (faultNoted c code s).sdp.faultSeen = true := by
  unfold faultNoted
  dsimp only
  split <;> split <;> exact ⟨rfl, rfl, rfl⟩

theorem faultNoted_joint (loop : (s.sdp.core[c]).stream = false) :
    ((faultNoted c code s).sdp.joint[jointNo (s.sdp.core[c]).joint]).faulted = true := by
  unfold faultNoted
  dsimp only
  rw [loop, if_neg Bool.false_ne_true]
  exact (congrArg Joint.faulted (vmod_same (w := _)) :)

theorem faultNoted_regs : (faultNoted c code s).regs = if s.sdp.faultSeen then s.regs else (setReg .sdp 0 Reg.SDP_FAULT (BitVec.ofNat 32
    ((if (s.sdp.core[c]).stream then 127 else (s.sdp.core[c]).joint) * 2 ^ 24 + (s.sdp.core[c]).kernel * 2 ^ 16 + c.val * 2 ^ 8 + code))
    s).regs := by
  have bare : (modCore c (fun k => { k with running := false }) s).sdp.faultSeen = s.sdp.faultSeen := rfl
  unfold faultNoted
  dsimp only
  rw [bare]
  split <;> split <;> rfl

theorem faultNoted_frame : faultNoted c code s = { s with sdp := (faultNoted c code s).sdp, regs := (faultNoted c code s).regs } := by
  unfold faultNoted
  dsimp only
  split <;> split <;> rfl

theorem regKept_faultNoted {k : Nat} (hk : k ≠ regKey .sdp 0 Reg.SDP_FAULT) : RegKept k s (faultNoted c code s) := by
  by_cases seen : s.sdp.faultSeen = true
  · exact regKept_of_regs (by rw [faultNoted_regs, if_pos seen])
  · exact (regKept_setReg hk).trans (regKept_of_regs (by rw [faultNoted_regs, if_neg seen]))

theorem kernelFault_stops (wf : regsWf s.regs = true) (runs : (s.sdp.core[c]).running = true) : KernelStops c code s (kernelFault c code s) := by
  have wfu : regsWf (faultNoted c code s).regs = true := by
    rw [faultNoted_regs]
    split
    · exact wf
    · exact regsWf_setReg wf
  have noted : reg (faultNoted c code s) .sdp 0 Reg.SDP_FAULT = (if s.sdp.faultSeen then reg s .sdp 0 Reg.SDP_FAULT else BitVec.ofNat 32
      ((if (s.sdp.core[c]).stream then 127 else (s.sdp.core[c]).joint) * 2 ^ 24 + (s.sdp.core[c]).kernel * 2 ^ 16 + c.val * 2 ^ 8 + code)) := by
    by_cases seen : s.sdp.faultSeen = true
    · rw [if_pos seen, reg, reg, faultNoted_regs, if_pos seen]
    · rw [if_neg seen, reg, faultNoted_regs, if_neg seen]
      exact reg_setReg_same wf
  obtain ⟨core, late, seen⟩ := faultNoted_sdp (s := s) (c := c) (code := code)
  have joint := faultNoted_joint (s := s) (c := c) (code := code)
  have frame := faultNoted_frame (s := s) (c := c) (code := code)
  have kept {k : Nat} (hk : k ≠ regKey .sdp 0 Reg.SDP_FAULT) := regKept_faultNoted (s := s) (c := c) (code := code) hk
  rw [kernelFault_running runs]
  generalize faultNoted c code s = u at *
  have told := eq_of_quiet (quiet_event (s := u) (p := .sdp) (i := 0) (n := 0) (m := sdpKFault))
  have sdp : (count .sdp 0 0 (irq .sdp 0 sdpKFault u)).sdp = u.sdp := by simp
  unfold KernelStops
  rw [sdp, core]
  refine ⟨by rw [vmod_same], fun d hd => vmod_other hd, late, seen, ?_, joint, ?_, event_flag wfu (by decide), ?_, ?_⟩
  · exact ((regKept_event (by decide)).reg wfu).trans noted
  · exact (event_counts wfu (by decide)).trans (congrArg (· + 1) ((kept (by decide)).reg wf))
  · intro k hk
    rw [List.mem_cons, not_or] at hk
    exact ((kept hk.1).trans (regKept_event hk.2)).same wf
  · rw [told, frame]

-- The command of an instruction (R321)

section Command
variable (on : s.clk.on = true) (runs : (s.sdp.core[c]).running = true)
include on runs

theorem run_core (acts : op (macCtx s c) = { macCtx s c with core := k, late := next }) (keeps : k.running = true) :
    run (issue c op) s = .next (withCore s c k next) :=
  (run_on on).trans (congrArg _ (issue_core runs acts keeps))

theorem run_retire (acts : op (macCtx s c) = retire f next (macCtx s c)) (keeps : (f (landed s c)).running = true) :
    run (issue c op) s = .next (withCore s c (stepped (f (landed s c))) next) :=
  (run_on on).trans (congrArg _ (issue_retire runs acts keeps))

theorem run_fault (wf : regsWf s.regs = true) (faults : op (macCtx s c) = faultWith code (macCtx s c)) (hc : code ≠ 0) :
    ∃ t, run (issue c op) s = .next t ∧ KernelStops c code s t :=
  ⟨_, (run_on on).trans (congrArg _ (issue_fault runs faults hc)), kernelFault_stops wf runs⟩

end Command

end Sys2Proof.Machine

/-! SUPPORT. The program counter of a MAC core, rotation, the end of a kernel and branches (R314, R318, R319, R321). -/

namespace Sys2Proof.Machine

variable {s : State} {c : CoreNo} {k : MacCore} {h : HwLoop} {r : List HwLoop} {i : Instr} {o : BitVec 16} {n m : Nat}

-- The program counter (R318, R319)

theorem rotate_eq : rotate k = { k with rotb := k.rotb - 1 } := by
  have step : ∀ b : BitVec 3, b + 7 = b - 1 := by decide
  rw [rotate, step]

/-- Away from the end of a loop's body, the program counter moves on by one. -/
theorem endPass_apart (apart : ∀ h ∈ k.loops.head?, n ≠ h.stop) : endPass n k.loops k = { k with pc := n + 1 } := by
  cases loops : k.loops with
  | nil => rw [endPass, ← loops]
  | cons h r => rw [endPass, if_pos (apart h (by rw [loops]; rfl)), ← loops]

theorem stepped_apart (apart : ∀ h ∈ k.loops.head?, k.pc ≠ h.stop) : stepped k = { k with pc := k.pc + 1, cycles := k.cycles + 1 } := by
  rw [stepped, endPass_apart apart]

theorem stepped_straight (straight : k.loops = []) : stepped k = { k with pc := k.pc + 1, cycles := k.cycles + 1, loops := [] } := by
  rw [stepped_apart (by rw [straight]; nofun), straight]

theorem stepped_within (body : k.loops = h :: r) (inside : k.pc ≠ h.stop) :
    stepped k = { k with pc := k.pc + 1, cycles := k.cycles + 1 } := by
  refine stepped_apart ?_
  rw [body]
  rintro _ ⟨⟩
  exact inside

theorem stepped_again (body : k.loops = h :: r) (last : k.pc = h.stop) (more : 1 < k.lc.toNat) : stepped k = { k with
    pc := h.start, lc := k.lc - 1, rotb := if h.outer then k.rotb else k.rotb - 1, cycles := k.cycles + if h.outer then 3 else 1 } := by
  rw [stepped, body, endPass, if_neg (not_not.mpr last)]
  cases outer : h.outer <;> simp [more, rotate_eq, ← body]

theorem stepped_leaves (body : k.loops = [h]) (last : k.pc = h.stop) (done : k.lc.toNat ≤ 1) : stepped k = { k with
    pc := k.pc + 1, lc := h.saved, loops := [], rotb := if h.outer then k.rotb else k.rotb - 1, cycles := k.cycles + 1 } := by
  rw [stepped, body, endPass, if_neg (not_not.mpr last)]
  cases outer : h.outer <;> simp [done.not_gt, rotate_eq, endPass]

-- `NOP`, `ROT`, `SETROT`, `END` (R319, R321)

section Command
variable (on : s.clk.on = true) (runs : (s.sdp.core[c]).running = true)
include on runs

theorem exec_nop : exec (.nop c) s = .next (withCore s c (stepped (landed s c)) []) :=
  run_retire (f := id) on runs rfl (landed_running.trans runs)

theorem exec_rot : exec (.rot c) s = .next (withCore s c (stepped { landed s c with rotb := (landed s c).rotb - 1 }) []) := by
  rw [← rotate_eq]
  exact run_retire (f := rotate) on runs rfl (landed_running.trans runs)

theorem exec_setrot (en : Bool) : exec (.setrot c en) s = .next (withCore s c (stepped { landed s c with rotOn := en }) []) :=
  run_retire (f := fun k => { k with rotOn := en }) on runs rfl (landed_running.trans runs)

end Command

/-- A core whose kernel has ended: `V` is taken out of `FLG` (R314). -/
def endedCore (k : MacCore) : MacCore := { stepped { k with running := false } with flg := k.flg &&& 0xD, loops := [] }

/-- Beyond the program counter and the loops, the flags alone change. -/
theorem endedCore_keeps : (endedCore k).d = k.d ∧ (endedCore k).acc = k.acc ∧ (endedCore k).xMem = k.xMem ∧ (endedCore k).running = false := by
  have kept := offLoop_stepped (k := { k with running := false })
  exact ⟨(congrArg MacCore.d kept :), (congrArg MacCore.acc kept :), (congrArg MacCore.xMem kept :), (congrArg MacCore.running kept :)⟩

theorem endedCore_clears : bit (endedCore k).flg 1 = false := by
  have clears : ∀ f : BitVec 4, bit (f &&& 0xD) 1 = false := by decide
  exact clears k.flg

theorem issue_end (runs : (s.sdp.core[c]).running = true) : issue c opEnd s =
    eventIf (bit (s.sdp.core[c]).flg 1) .sdp 0 sdpSat 2 (withCore s c (endedCore (landed s c)) []) := by
  have kept := offLoop_stepped (k := { landed s c with running := false })
  have acts : opEnd (macCtx s c) = { macCtx s c with core := stepped { landed s c with running := false }, late := [] } := rfl
  unfold issue endedCore
  rw [if_pos runs, acts]
  generalize stepped { landed s c with running := false } = y at kept
  have flg : y.flg = (landed s c).flg := (congrArg MacCore.flg kept :)
  have stopped : y.running = false := (congrArg MacCore.running kept :)
  dsimp only [macCtx]
  rw [if_pos rfl, if_neg (by decide), stopped, if_neg Bool.false_ne_true, flg, ← landed_flg]
  rfl

theorem exec_endKernel (on : s.clk.on = true) (wf : regsWf s.regs = true) (runs : (s.sdp.core[c]).running = true) :
    ∃ t, exec (.endKernel c) s = .next t ∧ t.sdp.core = vset s.sdp.core c (endedCore (landed s c)) ∧
      (bit (s.sdp.core[c]).flg 1 = true → reg t .sdp 0 (Reg.CNT + 8) = reg s .sdp 0 (Reg.CNT + 8) + 1 ∧
        bit (reg t .sdp 0 Reg.IRQ_STAT) sdpSat = true) ∧
      (bit (s.sdp.core[c]).flg 1 = false → t.regs = s.regs) ∧ RegsBut (eventKeys .sdp 0 2) s t ∧
      t = { s with sdp := t.sdp, regs := t.regs, link := t.link } := by
  generalize hu : withCore s c (endedCore (landed s c)) [] = u
  have core : u.sdp.core = vset s.sdp.core c (endedCore (landed s c)) := by rw [← hu]; rfl
  have regs : u.regs = s.regs := by rw [← hu]; rfl
  have frame : u = { s with sdp := u.sdp, regs := u.regs, link := u.link } := by rw [← hu]; rfl
  have wfu : regsWf u.regs = true := regs ▸ wf
  have same : RegKept (regKey .sdp 0 (Reg.CNT + 8)) s u := regKept_of_regs regs
  refine ⟨_, (run_on on).trans (congrArg _ (issue_end runs)), ?_⟩
  rw [hu]
  cases v : bit (s.sdp.core[c]).flg 1 with
  | false => exact ⟨core, nofun, fun _ => regs, regsBut_of_regs regs, frame⟩
  | true =>
    refine ⟨?_, fun _ => ⟨?_, event_flag wfu (by decide)⟩, nofun, ?_, ?_⟩
    · exact (congrArg (fun u => u.sdp.core) (quiet_event (s := u) (p := .sdp) (i := 0) (n := 2) (m := sdpSat)) :).trans core
    · exact (event_counts (n := 2) wfu (by decide)).trans (congrArg (· + 1) (same.reg wf))
    · exact regsBut_of_kept wf fun k hk => (regKept_of_regs regs).trans (regKept_event hk)
    · rw [eventIf, if_pos rfl, eq_of_quiet (quiet_event (s := u) (p := .sdp) (i := 0) (n := 2) (m := sdpSat)), frame]

-- Branches (R318, R321)

/-- The branches that are taken under the core's `T`, and the one that is not. -/
theorem exec_taken (hi : i ∈ [Instr.br c o, if bit (s.sdp.core[c]).flg 0 then .brt c o else .brf c o])
    (on : s.clk.on = true) : exec i s = .next (issue c (takeBranch o) s) := by
  simp only [List.mem_cons, List.not_mem_nil, or_false] at hi
  have taken {cond : BitVec 4 → Bool} (holds : cond (s.sdp.core[c]).flg = true) :
      run (issue c (opBranch cond o)) s = .next (issue c (takeBranch o) s) :=
    (run_on on).trans (congrArg _ (issue_congr (if_pos holds)))
  obtain rfl | rfl := hi
  · exact taken rfl
  · cases g : bit (s.sdp.core[c]).flg 0 with
    | true => exact taken g
    | false => exact taken (congrArg not g)

/-- The branch that is not taken retires as any instruction. -/
theorem exec_notTaken (on : s.clk.on = true) (runs : (s.sdp.core[c]).running = true) :
    exec (if bit (s.sdp.core[c]).flg 0 then .brf c o else .brt c o) s = .next (withCore s c (stepped (landed s c)) []) := by
  have passed {cond : BitVec 4 → Bool} (fails : cond (s.sdp.core[c]).flg = false) :
      run (issue c (opBranch cond o)) s = .next (withCore s c (stepped (landed s c)) []) :=
    run_retire (f := id) on runs (if_neg (Bool.not_eq_true _ ▸ fails)) (landed_running.trans runs)
  cases g : bit (s.sdp.core[c]).flg 0 with
  | true => exact passed (congrArg not g)
  | false => exact passed g

theorem takeBranch_straight {x : MacCtx} (straight : x.core.loops = []) : takeBranch o x = { retire id [] x with core := { (retire id [] x).core with
    pc := if (x.core.pc : Int) + 1 + o.toInt < 0 then (retire id [] x).core.len else ((x.core.pc : Int) + 1 + o.toInt).toNat
    cycles := (retire id [] x).core.cycles + 2 } } := if_pos (by rw [straight]; rfl)

theorem takeBranch_body {x : MacCtx} (body : x.core.loops ≠ []) : takeBranch o x = faultWith 4 x := if_neg (by simpa using body)

theorem issue_takeBranch (runs : (s.sdp.core[c]).running = true) (straight : (s.sdp.core[c]).loops = []) :
    issue c (takeBranch o) s = withCore s c { landed s c with
      pc := if ((s.sdp.core[c]).pc : Int) + 1 + o.toInt < 0 then (s.sdp.core[c]).len else (((s.sdp.core[c]).pc : Int) + 1 + o.toInt).toNat
      cycles := (s.sdp.core[c]).cycles + 3, loops := [] } [] := by
  refine issue_core runs ?_ (landed_running.trans runs)
  have steps : stepped (landed s c) = _ := stepped_straight (landed_loops.trans straight)
  have retires : retire id [] (macCtx s c) = { macCtx s c with core := stepped (landed s c), late := [] } := rfl
  rw [takeBranch_straight straight, retires, steps, ← landed_len, ← landed_cycles]
  rfl

end Sys2Proof.Machine

/-! SUPPORT. `LOOP`, loads, stores, immediates and the special registers of a MAC core (R310, R315, R317 to R320, R322). -/

namespace Sys2Proof.Machine

variable {s : State} {c : CoreNo} {k l : MacCore} {h : HwLoop} {r : List HwLoop} {x : MacCtx} {i : Instr} {n m : Nat}

-- `LOOP` (R318)

section Loop
variable {p : LoopArgs} (hn : n = if p.len = 0 then 64 else p.len.toNat)
include hn

theorem loopLen_pos : 0 < n := by
  rw [hn]
  split
  · decide
  · rename_i h
    exact Nat.pos_of_ne_zero fun e => h (BitVec.eq_of_toNat_eq e)

theorem opLoop_past (body : x.core.loops = h :: r) (past : h.stop < x.core.pc + n) : opLoop p x = faultWith 4 x := by
  rw [opLoop, ← hn, body]
  exact if_pos (decide_eq_false past.not_ge)

/-- The cases of a loop that lies within the loop around it. -/
theorem opLoop_fits (fits : ∀ h ∈ x.core.loops.head?, x.core.pc + n ≤ h.stop) :
    opLoop p x = if loopCount x.core p = 0 then
        { x with
          core := { endPass (x.core.pc + n) x.core.loops (x.late.foldl landWrite x.core) with
            cycles := (endPass (x.core.pc + n) x.core.loops (x.late.foldl landWrite x.core)).cycles + 2 }
          late := [] }
      else if 2 ≤ x.core.loops.length then faultWith 4 x
      else { retire id [] x with core := { (retire id [] x).core with
        pc := x.core.pc + 1, lc := loopCount x.core p
        loops := ⟨x.core.pc + 1, x.core.pc + n, x.core.lc, false⟩ ::
          (x.core.loops.head?.map fun h => { h with outer := true }).toList ++ x.core.loops.tail } } := by
  rw [opLoop, ← hn]
  cases loops : x.core.loops with
  | nil => rfl
  | cons h r =>
    have inside : x.core.pc + n ≤ h.stop := fits h (by rw [loops]; rfl)
    exact if_neg (by simpa using inside)

end Loop

theorem loopCount_eq {p : LoopArgs} (hm : m = if p.cr then field (getD k (field p.count 3 0)) 16 0 else p.count.toNat) :
    loopCount k p = BitVec.ofNat 17 m ∧ (loopCount k p = 0 ↔ m = 0) := by
  have count : m = (loopCount k p).toNat := by
    rw [hm, loopCount]
    split
    · simp [field]
    · rfl
  rw [count]
  exact ⟨(BitVec.ofNat_toNat _ _).symm ▸ (BitVec.setWidth_eq _).symm, (BitVec.toNat_eq (y := 0)).trans Iff.rfl⟩

section Command
variable {p : LoopArgs} (on : s.clk.on = true) (runs : (s.sdp.core[c]).running = true)
  (hn : n = if p.len = 0 then 64 else p.len.toNat)
include on runs hn

theorem exec_loop_past (wf : regsWf s.regs = true) (body : (s.sdp.core[c]).loops = h :: r) (past : h.stop < (s.sdp.core[c]).pc + n) :
    ∃ t, exec (.loop c p) s = .next t ∧ KernelStops c 4 s t :=
  run_fault on runs wf (opLoop_past (x := macCtx s c) hn body past) (by decide)

variable (hm : m = if p.cr then field (getD s.sdp.core[c] (field p.count 3 0)) 16 0 else p.count.toNat)
include hm

theorem exec_loop_skips (noPass : m = 0) (fits : ∀ h ∈ (s.sdp.core[c]).loops.head?, (s.sdp.core[c]).pc + n ≤ h.stop) :
    exec (.loop c p) s = .next (withCore s c { endPass ((s.sdp.core[c]).pc + n) (s.sdp.core[c]).loops (landed s c) with
      cycles := (endPass ((s.sdp.core[c]).pc + n) (s.sdp.core[c]).loops (landed s c)).cycles + 2 } []) := by
  refine run_core on runs ((opLoop_fits (x := macCtx s c) hn fits).trans (if_pos ((loopCount_eq hm).2.mpr noPass))) ?_
  exact (congrArg MacCore.running offLoop_endPass :).trans (landed_running.trans runs)

theorem exec_loop_begins (passes : m ≠ 0) (fits : ∀ h ∈ (s.sdp.core[c]).loops.head?, (s.sdp.core[c]).pc + n ≤ h.stop)
    (shallow : (s.sdp.core[c]).loops.length < 2) : exec (.loop c p) s = .next (withCore s c { landed s c with
      pc := (s.sdp.core[c]).pc + 1, cycles := (s.sdp.core[c]).cycles + 1, lc := BitVec.ofNat 17 m
      loops := ⟨(s.sdp.core[c]).pc + 1, (s.sdp.core[c]).pc + n, (s.sdp.core[c]).lc, false⟩ ::
        ((s.sdp.core[c]).loops.head?.map fun h => { h with outer := true }).toList ++ (s.sdp.core[c]).loops.tail } []) := by
  have apart : ∀ h ∈ (landed s c).loops.head?, (landed s c).pc ≠ h.stop := by
    rw [landed_loops, landed_pc]
    intro h first
    have := fits h first
    have := loopLen_pos hn
    omega
  have steps : stepped (landed s c) = _ := stepped_apart apart
  have retires : retire id [] (macCtx s c) = { macCtx s c with core := stepped (landed s c), late := [] } := rfl
  obtain ⟨count, zero⟩ := loopCount_eq (k := (macCtx s c).core) hm
  have free : ¬2 ≤ (macCtx s c).core.loops.length := not_le.mpr shallow
  refine run_core on runs ?_ (landed_running.trans runs)
  rw [opLoop_fits hn fits, if_neg (zero.not.mpr passes), if_neg free, retires, steps, count, ← landed_cycles]
  rfl

/-- A third level faults, whether or not it fits (R318). -/
theorem exec_loop_third (wf : regsWf s.regs = true) (passes : m ≠ 0) (deep : 2 ≤ (s.sdp.core[c]).loops.length) :
    ∃ t, exec (.loop c p) s = .next t ∧ KernelStops c 4 s t := by
  by_cases fits : ∀ h ∈ (s.sdp.core[c]).loops.head?, (s.sdp.core[c]).pc + n ≤ h.stop
  · refine run_fault on runs wf ((opLoop_fits (x := macCtx s c) hn fits).trans ?_) (by decide)
    rw [if_neg ((loopCount_eq (k := (macCtx s c).core) hm).2.not.mpr passes)]
    exact if_pos deep
  · push Not at fits
    obtain ⟨h, first, past⟩ := fits
    obtain ⟨r, body⟩ := List.head?_eq_some_iff.mp first
    exact exec_loop_past on runs hn wf body past

end Command

-- Loads and stores (R315, R317, R320, R322)

theorem lsPost_running {p : LsArgs} : (lsPost k p l).running = l.running := by
  unfold lsPost
  split <;> rfl

theorem writeMem_running {a : Nat} {v : Word} : (writeMem n a v k).running = k.running := by
  unfold writeMem
  split
  · rfl
  · split <;> rfl

theorem exec_ld {p : LsArgs} (on : s.clk.on = true) (runs : (s.sdp.core[c]).running = true) (ok : lsFault s.sdp.core[c] p = 0) :
    exec (.ld c p) s = .next (withCore s c (stepped (lsPost s.sdp.core[c] p (landed s c)))
      [classWrite s.sdp.core[c] p.cls.toNat p.reg (readMem s.sdp.core[c] p.mem.toNat (vget (s.sdp.core[c]).a p.an 0).toNat)]) :=
  run_retire (f := lsPost s.sdp.core[c] p) on runs (if_neg (not_not.mpr ok)) (lsPost_running.trans (landed_running.trans runs))

theorem exec_st {p : LsArgs} (on : s.clk.on = true) (runs : (s.sdp.core[c]).running = true) (ok : lsFault s.sdp.core[c] p = 0) :
    exec (.st c p) s = .next (withCore s c (stepped (lsPost s.sdp.core[c] p (writeMem p.mem.toNat (vget (s.sdp.core[c]).a p.an 0).toNat
      (classRead s.sdp.core[c] p.cls.toNat p.reg) (landed s c)))) []) :=
  run_retire (f := fun k => lsPost s.sdp.core[c] p (writeMem p.mem.toNat (vget (s.sdp.core[c]).a p.an 0).toNat
      (classRead s.sdp.core[c] p.cls.toNat p.reg) k)) on runs (if_neg (not_not.mpr ok))
    (lsPost_running.trans (writeMem_running.trans (landed_running.trans runs)))

theorem exec_ls_faults {p : LsArgs} (hi : i ∈ [Instr.ld c p, .st c p]) (on : s.clk.on = true) (wf : regsWf s.regs = true)
    (runs : (s.sdp.core[c]).running = true) (bad : lsFault s.sdp.core[c] p ≠ 0) :
    ∃ t, exec i s = .next t ∧ KernelStops c (lsFault s.sdp.core[c] p) s t := by
  simp only [List.mem_cons, List.not_mem_nil, or_false] at hi
  obtain rfl | rfl := hi
  · exact run_fault (op := opLd p) on runs wf (if_pos bad) bad
  · exact run_fault (op := opSt p) on runs wf (if_pos bad) bad

-- `LDI` (R320)

theorem setField_high (w : Word) (v : BitVec 16) : setField w 31 16 v.toNat = v ++ w.setWidth 16 := by
  apply BitVec.eq_of_getLsbD_eq
  intro j hj
  rw [getLsbD_setField (by decide) hj, BitVec.getLsbD_append, BitVec.getLsbD_setWidth]
  by_cases low : j < 16
  · simp [low, low.not_ge]
  · simp [low, not_lt.mp low, Nat.le_of_lt_succ hj, BitVec.testBit_toNat]

section Ldi
variable {p : LdiArgs} {v : Word} (on : s.clk.on = true) (runs : (s.sdp.core[c]).running = true)
include on runs

theorem exec_ldi (hv : v = if p.half = 0 then p.value.signExtend 32 else if p.half = 1 then p.value.setWidth 32
      else p.value ++ (classRead s.sdp.core[c] p.cls.toNat p.reg).setWidth 16) (half : p.half ≠ 3) (ok : classOk p.cls.toNat p.reg = true) :
    exec (.ldi c p) s = .next (withCore s c (stepped (landWrite (landed s c) (classWrite s.sdp.core[c] p.cls.toNat p.reg v))) []) := by
  have good : ¬(p.half = 3 ∨ classOk p.cls.toNat p.reg = false) := by rw [ok]; simpa using half
  have acts : opLdi p (macCtx s c) = retire (fun k => landWrite k (classWrite s.sdp.core[c] p.cls.toNat p.reg v)) [] (macCtx s c) := by
    rw [hv, ← setField_high]
    exact if_neg good
  exact run_retire on runs acts ((congrArg MacCore.running unlanded_landWrite :).trans (landed_running.trans runs))

theorem exec_ldi_faults (wf : regsWf s.regs = true) (bad : p.half = 3 ∨ classOk p.cls.toNat p.reg = false) :
    ∃ t, exec (.ldi c p) s = .next t ∧ KernelStops c 1 s t := run_fault (op := opLdi p) on runs wf (if_pos bad) (by decide)

end Ldi

-- Special registers (R320, R322)

section Special
variable {d : Fin 16} {q : BitVec 4} {v : Word} (on : s.clk.on = true) (runs : (s.sdp.core[c]).running = true)
include on runs

theorem exec_movsFromSpecial (read : specialRead (macCtx s c) q.toNat = some v) : exec (.movsFromSpecial c d q) s =
    .next (withCore s c (stepped { landed s c with d := vput (landed s c).d (physD s.sdp.core[c] d) v }) []) := by
  refine run_retire (f := fun k => { k with d := vput k.d (physD s.sdp.core[c] d) v }) on runs ?_ (landed_running.trans runs)
  rw [opMovsFrom, read]
  rfl

theorem exec_movsFromSpecial_faults (wf : regsWf s.regs = true) (unknown : 7 ≤ q.toNat) :
    ∃ t, exec (.movsFromSpecial c d q) s = .next t ∧ KernelStops c 1 s t := by
  refine run_fault (op := opMovsFrom d q.toNat) on runs wf ?_ (by decide)
  obtain ⟨n, hn⟩ := Nat.exists_eq_add_of_le' unknown
  rw [hn]
  rfl

theorem exec_movsToSpecial_faults (wf : regsWf s.regs = true) (fixed : q.toNat ∈ [3, 4, 5] ∨ 7 ≤ q.toNat) :
    ∃ t, exec (.movsToSpecial c d q) s = .next t ∧ KernelStops c 1 s t := by
  refine run_fault (op := opMovsTo d q.toNat) on runs wf ?_ (by decide)
  obtain readOnly | unknown := fixed
  · simp only [List.mem_cons, List.not_mem_nil, or_false] at readOnly
    obtain hq | hq | hq := readOnly <;> rw [hq] <;> rfl
  · obtain ⟨n, hn⟩ := Nat.exists_eq_add_of_le' unknown
    rw [hn]
    rfl

end Special

end Sys2Proof.Machine

/-! Control and data transfer of a MAC core (R310, R315, R317 to R323): O55. -/

namespace Sys2Proof.Machine

variable {s : State} {c : CoreNo}

/-- R320: the special registers read as the core, the cycle tag and the core's number give them. -/
theorem specialRead_macCtx : ∀ p ∈ ([(0, (s.sdp.core[c]).lc.setWidth 32), (1, (s.sdp.core[c]).rotb.setWidth 32),
    (2, (s.sdp.core[c]).flg.setWidth 32), (3, s.clk.tag.setWidth 32), (4, BitVec.ofNat 32 c.val),
    (5, BitVec.ofNat 32 (s.sdp.core[c]).joint), (6, (s.sdp.core[c]).pmap.setWidth 32)] :
      List (BitVec 4 × Word)), specialRead (macCtx s c) p.1.toNat = some p.2 := by
  have tag : lo32 (s.clk.tag.setWidth 64) = s.clk.tag.setWidth 32 := BitVec.setWidth_setWidth_of_le _ (by decide)
  simp only [List.forall_mem_cons]
  exact ⟨rfl, rfl, rfl, congrArg some tag, rfl, rfl, rfl, nofun⟩

theorem exec_illegalInstruction {w : Word} {past : Bool} (on : s.clk.on = true) : exec (.illegalInstruction c w past) s =
    .next (if past then kernelFault c 6 s else if (decodeMac w).isNone then kernelFault c 1 s else s) :=
  run_on (f := fun s => if past then kernelFault c 6 s else if (decodeMac w).isNone then kernelFault c 1 s else s) on

section Moves
variable {d : Fin 16} (on : s.clk.on = true) (runs : (s.sdp.core[c]).running = true)
include on runs

/-- R320, R322: the special registers that can be written; `PMAP` is there after the next instruction. -/
theorem exec_movsToSpecial :
    exec (.movsToSpecial c d 0) s = .next (withCore s c (stepped { landed s c with lc := (getD s.sdp.core[c] d).setWidth 17 }) []) ∧
    exec (.movsToSpecial c d 1) s = .next (withCore s c (stepped { landed s c with rotb := (getD s.sdp.core[c] d).setWidth 3 }) []) ∧
    exec (.movsToSpecial c d 2) s = .next (withCore s c (stepped { landed s c with flg := (getD s.sdp.core[c] d).setWidth 4 }) []) ∧
    exec (.movsToSpecial c d 6) s = .next (withCore s c (stepped (landed s c)) [.pmap ((getD s.sdp.core[c] d).setWidth 24)]) := by
  have kept := landed_running.trans runs
  exact ⟨run_retire (f := fun k => { k with lc := (getD s.sdp.core[c] d).setWidth 17 }) on runs rfl kept,
    run_retire (f := fun k => { k with rotb := (getD s.sdp.core[c] d).setWidth 3 }) on runs rfl kept,
    run_retire (f := fun k => { k with flg := (getD s.sdp.core[c] d).setWidth 4 }) on runs rfl kept,
    run_retire (f := id) on runs rfl kept⟩

end Moves

/-- Settles O55, command by command. -/
theorem macControl : Obligations.MacControl := by
  rintro s c _ _ on wf rfl runs rfl
  refine ⟨⟨exec_nop on runs, exec_rot on runs, exec_setrot on runs⟩, fun straight => ?_, fun h r body => ?_, ?_, fun o g hg => ?_,
    fun x n m hn hm => ?_, fun x a ha => ?_, fun x v hv => ⟨exec_ldi on runs hv, exec_ldi_faults on runs wf⟩, fun d => ?_,
    ⟨_, run_on on, kernelFault_stops wf runs⟩, fun w => ?_⟩
  · have steps := stepped_straight (landed_loops.trans straight)
    rwa [landed_pc, landed_cycles] at steps
  · have body' := landed_loops.trans body
    refine ⟨fun apart => ?_, fun last more => ?_, fun last done only => ?_⟩
    · have steps := stepped_within body' (landed_pc.symm ▸ apart)
      rwa [landed_pc, landed_cycles] at steps
    · have steps := stepped_again body' (landed_pc.trans last) (landed_lc.symm ▸ more)
      rwa [landed_lc, landed_rotb, landed_cycles] at steps
    · subst only
      have steps := stepped_leaves body' (landed_pc.trans last) (landed_lc.symm ▸ done)
      rwa [landed_pc, landed_rotb, landed_cycles] at steps
  · obtain ⟨t, acts, core, saturated, sound, regs, frame⟩ := exec_endKernel on wf runs
    have own : t.sdp.core[c] = endedCore (landed s c) := by rw [core, vset_same]
    obtain ⟨d, acc, xMem, stopped⟩ := endedCore_keeps (k := landed s c)
    rw [← own] at d acc xMem stopped
    refine ⟨t, acts, stopped, own ▸ rfl, own ▸ endedCore_clears, d, acc, xMem, fun e he => ?_, saturated, sound, regs, frame⟩
    rw [core, vset_other he]
  · subst hg
    refine ⟨fun i hi => ⟨fun straight => (exec_taken hi on).trans (congrArg _ (issue_takeBranch runs straight)), fun body => ?_⟩, ?_⟩
    · obtain ⟨t, acts, stops⟩ := run_fault on runs wf (takeBranch_body (x := macCtx s c) (o := o) body) (by decide)
      exact ⟨t, (exec_taken hi on).trans ((run_on on).symm.trans acts), stops⟩
    · exact exec_notTaken on runs
  · refine ⟨exec_loop_skips on runs hn hm, fun _ apart => ?_, fun h first past => ?_, fun passes straight => ?_, fun passes h body inside => ?_,
      exec_loop_third on runs hn hm wf⟩
    · rw [← landed_loops (s := s) (c := c)] at apart ⊢
      rw [endPass_apart apart, Nat.add_right_comm]
    · obtain ⟨r, body⟩ := List.head?_eq_some_iff.mp first
      exact exec_loop_past on runs hn wf body past
    · have begins := exec_loop_begins on runs hn hm passes (by rw [straight]; nofun) (by rw [straight]; decide)
      rwa [straight] at begins
    · have begins := exec_loop_begins on runs hn hm passes (by rw [body]; rintro _ ⟨⟩; exact inside) (by rw [body]; exact Nat.one_lt_two)
      rwa [body] at begins
  · subst ha
    exact ⟨fun ok => ⟨exec_ld on runs ok, exec_st on runs ok⟩, fun bad i hi => exec_ls_faults hi on wf runs bad⟩
  · obtain ⟨lc, rotb, flg, pmap⟩ := exec_movsToSpecial (d := d) on runs
    exact ⟨fun p hp => exec_movsFromSpecial on runs (specialRead_macCtx p hp), lc, rotb, flg, pmap,
      fun q => exec_movsToSpecial_faults on runs wf, fun q => exec_movsFromSpecial_faults on runs wf⟩
  · refine ⟨⟨_, exec_illegalInstruction on, kernelFault_stops wf runs⟩, fun undecoded => ⟨_, exec_illegalInstruction on, ?_⟩⟩
    have illegal : (decodeMac w).isNone = true := by rw [undecoded]; rfl
    rw [if_neg Bool.false_ne_true, if_pos illegal]
    exact kernelFault_stops wf runs

end Sys2Proof.Machine

/-! A kernel of the bank may write the measured position of its joint (R326, R337, R341): O53. -/

namespace Sys2Proof.Machine

/-- A bank whose kernel stores `D0`, the number of its joint, in word 0 of the joint block, the measured position, and ends; it is the
position loop of joint 0 (R326, R339, R341). -/
def storingBank : KernelBank :=
  { id := 1, kernels := [⟨0, false, [0x48001000, 0x01000000], 10, 0, 0, 0⟩], jcfg := [0x31], params := [], templates := [], flows := [] }

/-- The bank is active, and the record of joint 0 is present with `VALID` = 1 and position 5. -/
def storingState : State := { State.reset with
  sdp := { State.reset.sdp with
    banks := ⟨#[some storingBank, none], rfl⟩
    core := vset State.reset.sdp.core 0 { pMem := bankCode storingBank }
    fb := vset State.reset.sdp.fb 0 { present := true }
    joint := vset State.reset.sdp.joint 0 { rxPos := 5, rxBits := 1 } } }

theorem storingState_binds : regsWf storingState.regs = true ∧ enabled storingState .sdp 0 = true ∧ jointBound storingState 0 = true := by
  decide +kernel

/-- The kernel runs without a fault, and leaves 0 as the measured position. -/
theorem servoPhaseA_storingState : ((servoPhaseA storingState).sdp.joint[(0 : Fin 96)]).fbValid = true ∧
    ((servoPhaseA storingState).sdp.joint[(0 : Fin 96)]).faulted = false ∧ ((servoPhaseA storingState).sdp.joint[(0 : Fin 96)]).posMeas = 0 := by
  decide +kernel

/-- Refutes O53: in phase A a kernel of the bank runs as the joint's loop after its feedback is unpacked, and the measured position that
it stores in its joint block, here 0, replaces that of the record, here 5. -/
theorem not_servoDatapath : ¬Obligations.ServoDatapath := by
  intro h
  obtain ⟨wf, en, bound⟩ := storingState_binds
  obtain ⟨-, phaseA, -⟩ := h storingState rfl wf
  obtain ⟨t, acts, joints, -⟩ := phaseA en
  have runs : exec .servoPhaseA storingState = .next (servoPhaseA storingState) := run_on rfl
  cases runs.symm.trans acts
  obtain ⟨-, position, -⟩ := joints 0 bound
  obtain ⟨valid, -, stored⟩ := servoPhaseA_storingState
  rw [valid, if_pos rfl, stored] at position
  exact absurd position (by decide)

end Sys2Proof.Machine

/-! A counter in a register file that is not canonical (R323, log 6): O54. -/

namespace Sys2Proof.Machine

/-- `SDP.CNT0` stands twice in the register file, before its wrap and with 5; core 0 holds offset registers whose upper bits are not 0. -/
def doubledState : State := { State.reset with
  regs := [(regKey .sdp 0 Reg.CNT, 0xFFFFFFFF), (regKey .sdp 0 Reg.CNT, 5)]
  sdp := { State.reset.sdp with core := vset State.reset.sdp.core 0 { m := Vector.replicate 8 0x00200000 } } }

/-- A multiply with a parallel load over port X. -/
def loadingMul : MulArgs := ⟨0, 0, 0, 0x40, 0⟩

theorem loadingMul_faults : opMul (fun a p => a + p) true true loadingMul (macCtx doubledState 0) = faultWith 1 (macCtx doubledState 0) := by
  decide +kernel

/-- The fault is counted: the entry at its reset value 0 is dropped, and the second one shows. -/
theorem kernelFault_doubledState : reg (kernelFault 0 1 doubledState) .sdp 0 Reg.CNT = 5 ∧ reg doubledState .sdp 0 Reg.CNT + 1 = 0 := by
  decide +kernel

/-- Refutes O54: the statement admits a register file that lists a counter twice, and there the count of a kernel fault, which wraps to 0,
uncovers the second entry. -/
theorem not_macArithmetic : ¬Obligations.MacArithmetic := by
  intro h
  have runs : (doubledState.sdp.core[(0 : CoreNo)]).running = true := rfl
  obtain ⟨-, -, faults, -⟩ := h doubledState 0 _ _ rfl rfl runs rfl
  have bad : ∃ m ∈ (slotMove doubledState.sdp.core[(0 : CoreNo)] false loadingMul.xmove).toList ++
      (slotMove doubledState.sdp.core[(0 : CoreNo)] true loadingMul.ymove).toList,
      badOffset (vget (doubledState.sdp.core[(0 : CoreNo)]).m m.an 0) = true := by decide +kernel
  obtain ⟨t, acts, -, -, -, -, -, -, counted, -⟩ := (faults loadingMul _ rfl (.macSS 0 loadingMul) List.mem_cons_self).1 bad
  have stops : exec (.macSS 0 loadingMul) doubledState = .next (kernelFault 0 1 doubledState) :=
    (run_on rfl).trans (congrArg _ (issue_fault runs loadingMul_faults (by decide)))
  cases stops.symm.trans acts
  obtain ⟨shown, due⟩ := kernelFault_doubledState
  rw [shown, due] at counted
  exact absurd counted (by decide)

end Sys2Proof.Machine

/-! The removal of an entry whose flow has already released its void (R348, R353): O57. -/

namespace Sys2Proof.Machine

/-- The removal of a task whose flow has released its result or its void leaves what the flows are owed. -/
theorem expired_entryExpiry {s : State} {n inst : Nat} {tag : BitVec 48} {p : Template} {e : MatchEntry} (found : templateOf s n = some p)
    (waits : entryOf s ⟨tag, n, inst⟩ = some e) (lapsed : lifeOver s p tag = true) (settled : owesVoid s p ⟨tag, n, inst⟩ = false) :
    (entryExpiry n inst tag s).tds.expired = s.tds.expired := by
  rw [entryExpiry, found, waits]
  simp [lapsed, settled, modTds]

/-- A task of two operands for flow 6, which waits one bus cycle. -/
def lateTemplate : Template :=
  { index := 20, cls := 0, nops := 2, prio := 0, flow := some 6, rank := 0, life := 1, unit := none, kernel := 0, inBase := 0, outBase := 0
    items := 0 }

/-- Bus cycle 0 of an admitted module with one lane in step: task instance 0 lacks its second operand. -/
def lackingState : State := { State.reset with
  boot := { State.reset.boot with admitted := true }
  carts := vset State.reset.carts (laneCart 0) { st := .instep }
  tds := { State.reset.tds with
    templates := [lateTemplate], flows := [⟨6, 0, 0⟩], matching := [⟨⟨0, 20, 0⟩, [(0, 0)]⟩] } }

/-- Flow 6 releases, and bus cycle 1 begins. -/
def voidedState : State :=
  let s := flowRelease 6 (Vector.replicate 3 ⟨[], []⟩) lackingState
  { s with clk := { s.clk with tag := 1 } }

/-- R353: the flow has released a void in the task's place; the task still waits in the matching store (R348). -/
theorem voidedState_settled : voidedState.tds.released = [(6, ⟨0, 20, 0⟩, true)] ∧ voidedState.tds.expired = [] ∧
    voidedState.clk.on = true ∧ regsWf voidedState.regs = true ∧ templateOf voidedState 20 = some lateTemplate ∧
    entryOf voidedState ⟨0, 20, 0⟩ = some ⟨⟨0, 20, 0⟩, [(0, 0)]⟩ ∧ lifeOver voidedState lateTemplate 0 = true := by
  decide +kernel

/-- Refutes O57: an incomplete task of cycle 0 is removed in cycle 1, after its flow has released a void in its place; the statement has the
removal owe the flow a result again, where by R353 the flow has advanced past the task and is owed nothing. -/
theorem not_taskDispatcher : ¬Obligations.TaskDispatcher := by
  intro h
  obtain ⟨released, unowed, on, wf, found, waits, lapsed⟩ := voidedState_settled
  have settled : owesVoid voidedState lateTemplate ⟨0, 20, 0⟩ = false := by
    simp [owesVoid, lateTemplate, wasReleased, released]
  obtain ⟨-, expires, -⟩ := h voidedState on wf
  obtain ⟨t, acts, -, -, owed, -⟩ := expires 20 0 0 lateTemplate _ found waits lapsed
  have removes : exec (.entryExpiry 20 0 0) voidedState = .next (entryExpiry 20 0 0 voidedState) := run_on on
  cases removes.symm.trans acts
  have kept : (entryExpiry 20 0 0 voidedState).tds.expired = voidedState.tds.expired := expired_entryExpiry found waits lapsed settled
  have grown := kept.symm.trans (owed rfl)
  rw [unowed] at grown
  exact absurd grown (by decide)

end Sys2Proof.Machine

/-! SUPPORT. Guard sources, host tracks and requests for a switch of the pair table (R372, R389, R390, R392). -/

namespace Sys2Proof.Machine

variable {s t u : State} {p : Pg} {i n c k : Nat} {l : List Nat} {f : Mantis → Mantis} {j : Sixteen} {d : GuardDef} {v : Word}

-- Frames

/-- A state without mantis, the register file and the host link. -/
def mntless (s : State) : State := { quiet s with mnt := {} }

theorem eq_of_mntless (h : mntless t = mntless s) : t = { s with mnt := t.mnt, regs := t.regs, link := t.link } :=
  (congrArg (fun x : State => { x with mnt := t.mnt, regs := t.regs, link := t.link }) h :)

theorem mntless_of_quiet (h : quiet t = quiet s) : mntless t = mntless s := congrArg (fun x : State => { x with mnt := {} }) h

theorem mnt_of_quiet (h : quiet t = quiet s) : t.mnt = s.mnt := (congrArg State.mnt h :)

theorem mntless_modMnt : mntless (modMnt f s) = mntless s := rfl

theorem writes_modMnt : Writes l s (modMnt f s) := writes_of_regs rfl

-- Guard sources (R372)

/-- The source without an accepted frame for one cycle more. -/
def heldOn (j : Sixteen) (s : State) : State := modSrc j (fun g => { g with held := g.held + 1 }) s

/-- The source lost, and its tracks with it. -/
def cutOffSource (j : Sixteen) (s : State) : State := modSrc j (fun g => { g with lost := true, run := 0, tracks := [] }) s

theorem heldOn_src : (heldOn j s).mnt.src = vmod s.mnt.src j fun g => { g with held := g.held + 1 } := rfl

theorem cutOffSource_src : (cutOffSource j s).mnt.src = vmod s.mnt.src j fun g => { g with lost := true, run := 0, tracks := [] } := rfl

theorem loseSource_eq : loseSource j s = count .mnt 0 4 (irq .mnt 0 mntGLost (cutOffSource j s)) := rfl

theorem regKept_modSrc {g : GuardState → GuardState} : RegKept k s (modSrc j g s) := regKept_of_regs rfl

theorem guardSourceLost_kept (h : (s.mnt.src[j]).lost = true) : guardSourceLost j s = s := by
  unfold guardSourceLost
  split
  · simp only [h, Bool.true_eq_false, false_and, if_false]
  · rfl

theorem guardSourceLost_loses (row : guardDef s j.val = some d) (fresh : (s.mnt.src[j]).lost = false)
    (missing : ∀ b ∈ (s.mnt.src[j]).rx, guardAccepted d s.mnt.src[j] b = false) (due : d.wd ≤ (s.mnt.src[j]).held + 1) :
    guardSourceLost j s = loseSource j (count .mnt 0 3 (irq .mnt 0 mntGHold (heldOn j s))) := by
  unfold guardSourceLost
  simp only [row]
  refine if_pos ⟨fresh, ?_, due⟩
  split
  · next b hb => rw [missing b hb]; rfl
  · rfl

theorem exec_guardSourceLost (on : s.clk.on = true) (wf : regsWf s.regs = true) (row : guardDef s j.val = some d)
    (fresh : (s.mnt.src[j]).lost = false) (missing : ∀ b ∈ (s.mnt.src[j]).rx, guardAccepted d s.mnt.src[j] b = false)
    (due : d.wd ≤ (s.mnt.src[j]).held + 1) :
    ∃ t, exec (.guardSourceLost j) s = .next t ∧ (t.mnt.src[j]).lost = true ∧ (t.mnt.src[j]).tracks = [] ∧
      (∀ m : Sixteen, m ≠ j → t.mnt.src[m] = s.mnt.src[m]) ∧ bit (reg t .mnt 0 Reg.IRQ_STAT) mntGLost = true ∧
      bit (reg t .mnt 0 Reg.IRQ_STAT) mntGHold = true ∧ reg t .mnt 0 (Reg.CNT + 16) = reg s .mnt 0 (Reg.CNT + 16) + 1 ∧
      RegsBut (regKey .mnt 0 (Reg.CNT + 12) :: eventKeys .mnt 0 4) s t ∧ t = { s with mnt := t.mnt, regs := t.regs, link := t.link } := by
  have acts := guardSourceLost_loses row fresh missing due
  have held : quiet (count .mnt 0 3 (irq .mnt 0 mntGHold (heldOn j s))) = quiet (heldOn j s) := quiet_event
  have noted : Writes [Reg.CNT + 4 * 3, Reg.CNT_OVF, Reg.IRQ_STAT] s (count .mnt 0 3 (irq .mnt 0 mntGHold (heldOn j s))) :=
    writes_modMnt.trans (writes_event (by decide))
  have hold : bit (reg (count .mnt 0 3 (irq .mnt 0 mntGHold (heldOn j s))) .mnt 0 Reg.IRQ_STAT) mntGHold = true :=
    event_flag (s := heldOn j s) wf (by decide)
  have kept (k : Nat) (hk : k ∉ regKey .mnt 0 (Reg.CNT + 12) :: eventKeys .mnt 0 4) :
      RegKept k s (count .mnt 0 3 (irq .mnt 0 mntGHold (heldOn j s))) := by
    simp only [eventKeys, List.mem_cons, List.not_mem_nil, or_false, not_or] at hk
    obtain ⟨notHolds, notIrq, -, notOvf⟩ := hk
    exact regKept_modSrc.trans (regKept_event (by simp [eventKeys, notIrq, notOvf, notHolds]))
  generalize count .mnt 0 3 (irq .mnt 0 mntGHold (heldOn j s)) = u at acts held noted hold kept
  have wfu := noted.wf wf
  have src : (count .mnt 0 4 (irq .mnt 0 mntGLost (cutOffSource j u))).mnt.src =
      vmod s.mnt.src j fun g => { g with held := g.held + 1, lost := true, run := 0, tracks := [] } := by
    rw [mnt_of_quiet quiet_event, cutOffSource_src, mnt_of_quiet held, heldOn_src, vmod_vmod]
  refine ⟨_, (run_on on).trans (congrArg _ (acts.trans loseSource_eq)), ?_, ?_, fun m hm => ?_,
    event_flag (s := cutOffSource j u) wfu (by decide), (writes_event (by decide)).flag (s := cutOffSource j u) wfu hold, ?_,
    regsBut_of_kept wf fun k hk => ?_,
    eq_of_mntless ((mntless_of_quiet quiet_event).trans (mntless_modMnt.trans ((mntless_of_quiet held).trans mntless_modMnt)))⟩
  · rw [src, vmod_same]
  · rw [src, vmod_same]
  · rw [src, vmod_other hm]
  · exact (event_counts (n := 4) (s := cutOffSource j u) wfu (by decide)).trans (congrArg (· + 1) (noted.reg wf (by decide)))
  · exact (kept k hk).trans (regKept_modSrc.trans (regKept_event fun h => hk (List.mem_cons_of_mem _ h)))

-- Host tracks (R389, R390)

theorem assisted_setErr (wf : regsWf s.regs = true) : assisted (setReg .mnt 0 Reg.ERR v s) .mnt 0 = assisted s .mnt 0 := by
  rw [assisted, fld, reg_setReg_other wf (by decide), assisted, fld]

theorem writeHtCommit_taken (ha : assisted s .mnt 0 = true) :
    writeHtCommit s = modMnt (fun m => { m with ht := m.htShadow, htAge := 0, htOn := true, htExpired := false }) s := if_pos ha

theorem writeHtCommit_refused (ha : assisted s .mnt 0 = false) : writeHtCommit s = recordErr .mnt 0 0x0003 s :=
  if_neg (by rw [ha]; decide)

theorem writeHtData_refused (ha : assisted s .mnt 0 = false) : writeHtData v s = recordErr .mnt 0 0x0003 s :=
  if_neg (by rw [ha]; decide)

theorem exec_htData (on : s.clk.on = true) (wf : regsWf s.regs = true) (ha : assisted s .mnt 0 = true) :
    ∃ t, exec (.htData v) s = .next t ∧ t.mnt = { s.mnt with
        htShadow := Sparse.put 0 (6 * fld s .mnt 0 Reg.MNT_HT_SEL 7 4 + fld s .mnt 0 Reg.MNT_HT_SEL 2 0)
          (v &&& htMask (fld s .mnt 0 Reg.MNT_HT_SEL 2 0)) s.mnt.htShadow } ∧
      RegsBut [regKey .mnt 0 Reg.MNT_HT_SEL, regKey .mnt 0 Reg.CHG] s t ∧ t = { s with mnt := t.mnt, regs := t.regs } := by
  have acts : ∃ f x, writeHtData v s = chg .mnt 0 (setReg .mnt 0 Reg.MNT_HT_SEL x (modMnt f s)) ∧ f s.mnt = { s.mnt with
      htShadow := Sparse.put 0 (6 * fld s .mnt 0 Reg.MNT_HT_SEL 7 4 + fld s .mnt 0 Reg.MNT_HT_SEL 2 0)
        (v &&& htMask (fld s .mnt 0 Reg.MNT_HT_SEL 2 0)) s.mnt.htShadow } := ⟨_, _, if_pos ha, rfl⟩
  obtain ⟨f, x, acts, puts⟩ := acts
  refine ⟨_, (run_on on).trans (congrArg _ acts), puts, regsBut_of_kept wf fun k hk => ?_, rfl⟩
  simp only [List.mem_cons, List.not_mem_nil, or_false, not_or] at hk
  obtain ⟨notSel, notChg⟩ := hk
  exact RegKept.trans (t := modMnt f s) (regKept_of_regs rfl) ((regKept_setReg notSel).trans (regKept_chg notChg))

/-- A staged write to mantis that changes mantis alone is accepted. -/
theorem exec_staged_modMnt {g : State → State} (on : s.clk.on = true) (wf : regsWf s.regs = true)
    (acts : g s = modMnt f s) (first : (g (setReg .mnt 0 Reg.ERR 0 s)).regs = (setReg .mnt 0 Reg.ERR 0 s).regs) :
    ∃ t, run (staged .mnt 0 g) s = .next t ∧ t.mnt = f s.mnt ∧ RegsBut [regKey .mnt 0 Reg.CHG] s t ∧
      t = { s with mnt := t.mnt, regs := t.regs } := by
  have clear : reg (g (setReg .mnt 0 Reg.ERR 0 s)) .mnt 0 Reg.ERR = 0 := by
    rw [reg, first]
    exact reg_setReg_same wf
  exact ⟨_, (run_on on).trans (congrArg _ ((staged_accepted clear).trans (congrArg _ acts))), rfl,
    fun k hk => chg_regAt_other (s := modMnt f s) wf (by simpa using hk), rfl⟩

theorem exec_htCommit (on : s.clk.on = true) (wf : regsWf s.regs = true) (ha : assisted s .mnt 0 = true) :
    ∃ t, exec .htCommit s = .next t ∧ t.mnt = { s.mnt with ht := s.mnt.htShadow, htAge := 0, htOn := true, htExpired := false } ∧
      RegsBut [regKey .mnt 0 Reg.CHG] s t ∧ t = { s with mnt := t.mnt, regs := t.regs } :=
  exec_staged_modMnt on wf (writeHtCommit_taken ha) (by rw [writeHtCommit_taken ((assisted_setErr wf).trans ha)]; rfl)

/-- Outside host-assisted mode a host track is refused (R389). -/
theorem exec_ht_refused (on : s.clk.on = true) (wf : regsWf s.regs = true) (ha : assisted s .mnt 0 = false) :
    ∀ i ∈ [Instr.htData v, .htCommit], ∃ t, exec i s = .next t ∧ field (reg t .mnt 0 Reg.ERR) 15 0 = 3 ∧
      RegsBut (errKeys .mnt 0) s t ∧ t = { s with regs := t.regs, link := t.link } := by
  have refused : field (reg (recordErr .mnt 0 0x0003 s) .mnt 0 Reg.ERR) 15 0 = 3 ∧
      RegsBut (errKeys .mnt 0) s (recordErr .mnt 0 0x0003 s) ∧
      recordErr .mnt 0 0x0003 s = { s with regs := (recordErr .mnt 0 0x0003 s).regs, link := (recordErr .mnt 0 0x0003 s).link } :=
    ⟨recordErr_code wf (by decide), fun k hk => recordErr_regAt_other wf hk, eq_of_quiet quiet_recordErr⟩
  have commit : staged .mnt 0 writeHtCommit s = recordErr .mnt 0 0x0003 s :=
    (staged_recordErr wf (writeHtCommit_refused ((assisted_setErr wf).trans ha))).trans (writeHtCommit_refused ha)
  simp only [List.mem_cons, List.not_mem_nil, or_false, forall_eq_or_imp, forall_eq]
  exact ⟨⟨_, (run_on on).trans (congrArg _ (writeHtData_refused ha)), refused⟩,
    ⟨_, (run_on on).trans (congrArg _ commit), refused⟩⟩

theorem exec_htLifeExpiry (on : s.clk.on = true) (wf : regsWf s.regs = true) (live : s.mnt.htOn = true)
    (passed : fld s .mnt 0 Reg.MNT_HT_CFG 15 0 ≤ s.mnt.htAge) :
    ∃ t, exec .htLifeExpiry s = .next t ∧ t.mnt = { s.mnt with htOn := false, htExpired := true } ∧
      bit (reg t .mnt 0 Reg.IRQ_STAT) irqHaLate = true ∧ reg t .mnt 0 (Reg.CNT + 36) = reg s .mnt 0 (Reg.CNT + 36) + 1 ∧
      RegsBut (eventKeys .mnt 0 9) s t ∧ t = { s with mnt := t.mnt, regs := t.regs, link := t.link } := by
  generalize hu : modMnt (fun m => { m with htOn := false, htExpired := true }) s = u
  have acts : htLifeExpiry s = count .mnt 0 9 (irq .mnt 0 irqHaLate u) := hu ▸ if_pos ⟨live, passed⟩
  have wfu : regsWf u.regs = true := hu ▸ wf
  have same (k : Nat) : RegKept k s u := regKept_of_regs (hu ▸ rfl)
  refine ⟨_, (run_on on).trans (congrArg _ acts), ?_, event_flag wfu (by decide), ?_, regsBut_of_kept wf fun k hk =>
    (same k).trans (regKept_event hk), eq_of_mntless ((mntless_of_quiet quiet_event).trans (hu ▸ mntless_modMnt))⟩
  · rw [mnt_of_quiet quiet_event, ← hu]
    rfl
  · exact (event_counts (n := 9) wfu (by decide)).trans (congrArg (· + 1) ((same _).reg wf))

-- MNT.GO (R392, R424)

theorem requestMantisSwitch_empty (h : s.mnt.banks[other s.mnt.act] = none) : requestMantisSwitch s = recordErr .mnt 0 0x0100 s := by
  simp only [requestMantisSwitch, h, Option.isNone_none, if_true]

section Bank
variable (bank : (s.mnt.banks[other s.mnt.act]).isSome = true)
include bank

theorem requestMantisSwitch_waits (h : s.mnt.pend.isSome = true) : requestMantisSwitch s = recordErr .mnt 0 0x0101 s := by
  simp only [requestMantisSwitch, Option.isNone_eq_false_iff.mpr bank, h, Bool.false_eq_true, if_false, if_true]

variable (free : s.mnt.pend = none)
include free

theorem requestMantisSwitch_locked (h : s.sec.saf = false) : requestMantisSwitch s = recordErr .mnt 0 0x0102 s := by
  simp only [requestMantisSwitch, Option.isNone_eq_false_iff.mpr bank, free, h, Option.isSome_none, Bool.false_eq_true, if_false, if_true]

variable (key : s.sec.saf = true)
include key

theorem requestMantisSwitch_full (h : logFull s = true) : requestMantisSwitch s = refuseForLog .mnt 0 s := by
  simp only [requestMantisSwitch, Option.isNone_eq_false_iff.mpr bank, free, key, h, Option.isSome_none, Bool.false_eq_true,
    Bool.true_eq_false, if_false, if_true]

theorem requestMantisSwitch_taken (h : logFull s = false) :
    requestMantisSwitch s = modMnt (fun m => { m with pend := some (s.clk.tag.toNat + planBus s) }) s := by
  simp only [requestMantisSwitch, Option.isNone_eq_false_iff.mpr bank, free, key, h, Option.isSome_none, Bool.false_eq_true,
    Bool.true_eq_false, if_false]

end Bank

/-- A request that is refused, by a reason that `ERR` does not touch. -/
theorem exec_mntGo_refused (on : s.clk.on = true) (wf : regsWf s.regs = true) (hc : c < 2 ^ 16)
    (refuses : requestMantisSwitch s = recordErr .mnt 0 c s)
    (still : requestMantisSwitch (setReg .mnt 0 Reg.ERR 0 s) = recordErr .mnt 0 c (setReg .mnt 0 Reg.ERR 0 s)) :
    ∃ t, exec .mntGo s = .next t ∧ field (reg t .mnt 0 Reg.ERR) 15 0 = c ∧ t.mnt = s.mnt :=
  ⟨_, (run_on on).trans (congrArg _ ((staged_recordErr wf still).trans refuses)), recordErr_code wf hc, recordErr_mnt⟩

/-- The error that a full change log leaves on the page concerned (R425). -/
theorem refuseForLog_reg (wf : regsWf s.regs = true) :
    reg (refuseForLog p i s) p i Reg.ERR = reg (recordErr p i 0x0101 s) p i Reg.ERR :=
  (writes_count (n := 4) (by decide)).reg (regsWf_recordErr wf) (by decide)

theorem exec_mntGo_full (on : s.clk.on = true) (wf : regsWf s.regs = true) (bank : (s.mnt.banks[other s.mnt.act]).isSome = true)
    (free : s.mnt.pend = none) (key : s.sec.saf = true) (full : logFull s = true) :
    ∃ t, exec .mntGo s = .next t ∧ field (reg t .mnt 0 Reg.ERR) 15 0 = 0x0101 ∧ t.mnt = s.mnt := by
  have refused : reg (requestMantisSwitch (setReg .mnt 0 Reg.ERR 0 s)) .mnt 0 Reg.ERR ≠ 0 := by
    rw [requestMantisSwitch_full (s := setReg .mnt 0 Reg.ERR 0 s) bank free key full, refuseForLog_reg (regsWf_setReg wf)]
    exact recordErr_ne_zero (regsWf_setReg wf)
  refine ⟨_, (run_on on).trans (congrArg _ ((staged_refused refused).trans (requestMantisSwitch_full bank free key full))), ?_, ?_⟩
  · rw [refuseForLog_reg wf]
    exact recordErr_code wf (by decide)
  · rw [refuseForLog, count_mnt, recordErr_mnt]

theorem exec_mntGo_taken (on : s.clk.on = true) (wf : regsWf s.regs = true) (bank : (s.mnt.banks[other s.mnt.act]).isSome = true)
    (free : s.mnt.pend = none) (key : s.sec.saf = true) (room : logFull s = false) :
    ∃ t, exec .mntGo s = .next t ∧ t.mnt = { s.mnt with pend := some (s.clk.tag.toNat + planBus s) } ∧
      RegsBut [regKey .mnt 0 Reg.CHG] s t ∧ t = { s with mnt := t.mnt, regs := t.regs } :=
  exec_staged_modMnt on wf (requestMantisSwitch_taken bank free key room)
    (by rw [requestMantisSwitch_taken (s := setReg .mnt 0 Reg.ERR 0 s) bank free key room]; rfl)

end Sys2Proof.Machine

/-! SUPPORT. The switch of the pair table and of the safety section beside it (R391, R392, R424, R425). -/

namespace Sys2Proof.Machine

variable {s t : State} {b : MantisBank} {x : SafetyBank}

-- The change log (R424, R425)

/-- A state without the security unit, the register file and the host link. -/
def secless (s : State) : State := { quiet s with sec := {} }

theorem secless_of_quiet (h : quiet t = quiet s) : secless t = secless s := congrArg (fun x : State => { x with sec := {} }) h

theorem eq_of_secless (h : secless t = secless s) : t = { s with sec := t.sec, regs := t.regs, link := t.link } :=
  (congrArg (fun x : State => { x with sec := t.sec, regs := t.regs, link := t.link }) h :)

/-- The registers of `SEC` that a change which enters the log, or finds it full, may touch. -/
def logOffs : List Nat := [Reg.CNT + 4 * 0, Reg.CNT + 4 * 4, Reg.CNT_OVF, Reg.IRQ_STAT]

section Change
variable (src : Nat) (cell : Bool) (cls inst : Nat) (before after : Word) (kind : Nat) (s : State)

/-- The log is full, and the change is counted; or the change takes the next number, counts, and interrupts as the log fills. -/
theorem logChange_cases : (logFull s = true ∧ logChange src cell cls inst before after kind s = count .sec 0 4 s) ∨
    (logFull s = false ∧ ∃ f m n, logChange src cell cls inst before after kind s =
      irqIf m .sec 0 secLogFull (irqIf n .sec 0 secLogHigh (count .sec 0 0 (modSec f s))) ∧ (f s.sec).seq = s.sec.seq + 1) := by
  cases full : logFull s with
  | true => exact .inl ⟨rfl, if_pos full⟩
  | false => exact .inr ⟨rfl, _, _, _, if_neg (by rw [full]; decide), rfl⟩

theorem writes_logChange : Writes logOffs s (logChange src cell cls inst before after kind s) := by
  obtain ⟨-, acts⟩ | ⟨-, f, m, n, acts, -⟩ := logChange_cases src cell cls inst before after kind s <;> rw [acts]
  · exact (writes_count (by decide)).mono (by decide)
  · have entered : Writes logOffs s (modSec f s) := writes_of_regs rfl
    exact ((entered.trans ((writes_count (by decide)).mono (by decide))).trans (writes_irqIf.mono (by decide))).trans
      (writes_irqIf.mono (by decide))

theorem secless_logChange : secless (logChange src cell cls inst before after kind s) = secless s := by
  obtain ⟨-, acts⟩ | ⟨-, f, m, n, acts, -⟩ := logChange_cases src cell cls inst before after kind s <;> rw [acts]
  · exact secless_of_quiet quiet_count
  · exact (secless_of_quiet ((quiet_irqIf.trans quiet_irqIf).trans quiet_count)).trans rfl

/-- What the change leaves in the security unit: the next number, or all of it as it was. -/
theorem logChange_sec : (logFull s = false → (logChange src cell cls inst before after kind s).sec.seq = s.sec.seq + 1) ∧
    (logFull s = true → (logChange src cell cls inst before after kind s).sec = s.sec) := by
  obtain ⟨full, acts⟩ | ⟨room, f, m, n, acts, next⟩ := logChange_cases src cell cls inst before after kind s <;> rw [acts]
  · exact ⟨fun h => absurd (full.symm.trans h) (by decide), fun _ => count_sec⟩
  · rw [irqIf_sec, irqIf_sec, count_sec]
    exact ⟨fun _ => next, fun h => absurd (room.symm.trans h) (by decide)⟩

end Change

-- The safety section (R421, R430)

theorem quiet_takeImageRegs {p : Pg} {l : List (Nat × Word)} : quiet (takeImageRegs p l s) = quiet s :=
  forEach_preserves (fun x s => by dsimp only; split <;> rfl) l s

/-- The safety section that waits comes into force, where one waits. -/
def swapSafety (s : State) : State :=
  if s.saf.next.isSome then applySafety (modSaf (fun u => { u with bank := u.next, next := u.bank }) s) else s

theorem swapSafety_none (h : s.saf.next = none) : swapSafety s = s := by
  simp only [swapSafety, h, Option.isSome_none, Bool.false_eq_true, if_false]

/-- The safety unit once section `x` is in force and the one before it waits. -/
def underSection (x : SafetyBank) (u : SafetyUnit) : SafetyUnit :=
  { u with bank := some x, next := u.bank, loaded := true, acfg := x.acfg, jcfg := x.jcfg, crc := x.crc }

theorem quiet_swapSafety (h : s.saf.next = some x) : quiet (swapSafety s) = quiet (modSaf (underSection x) s) := by
  simp only [swapSafety, h, Option.isSome_some, if_true, applySafety, modSaf, quiet_takeImageRegs]
  rfl

theorem saf_swapSafety (h : s.saf.next = some x) : (swapSafety s).saf = underSection x s.saf :=
  (congrArg State.saf (quiet_swapSafety h) :)

-- MANTIS_BANK_SWITCH (R392)

/-- A state without mantis, the safety unit, the register file and the host link. -/
def sectionless (s : State) : State := { mntless s with saf := {} }

theorem sectionless_of_mntless (h : mntless t = mntless s) : sectionless t = sectionless s :=
  congrArg (fun x : State => { x with saf := {} }) h

theorem eq_of_sectionless (h : sectionless t = sectionless s) : t = { s with mnt := t.mnt, saf := t.saf, regs := t.regs, link := t.link } :=
  (congrArg (fun x : State => { x with mnt := t.mnt, saf := t.saf, regs := t.regs, link := t.link }) h :)

theorem sectionless_swapSafety : sectionless (swapSafety s) = sectionless s := by
  cases h : s.saf.next with
  | none => rw [swapSafety_none h]
  | some x => exact (sectionless_of_mntless (mntless_of_quiet (quiet_swapSafety h))).trans rfl

theorem mnt_swapSafety : (swapSafety s).mnt = s.mnt := by
  cases h : s.saf.next with
  | none => rw [swapSafety_none h]
  | some x => exact (mnt_of_quiet (quiet_swapSafety h)).trans rfl

/-- The pair tables change places, which interrupts and counts. -/
theorem switchMantisBank_some (wf : regsWf s.regs = true) (bank : s.mnt.banks[other s.mnt.act] = some b) :
    regsWf (switchMantisBank s).regs = true ∧ bit (reg (switchMantisBank s) .mnt 0 Reg.IRQ_STAT) mntBankSw = true ∧
    reg (switchMantisBank s) .mnt 0 (Reg.CNT + 44) = reg s .mnt 0 (Reg.CNT + 44) + 1 ∧ mntless (switchMantisBank s) = mntless s ∧
    (switchMantisBank s).mnt.act = other s.mnt.act ∧ (switchMantisBank s).mnt.pend = none := by
  have acts : ∃ f, switchMantisBank s = count .mnt 0 11 (irq .mnt 0 mntBankSw (modMnt f s)) ∧
      (f s.mnt).act = other s.mnt.act ∧ (f s.mnt).pend = none := by
    simp only [switchMantisBank, bank]
    exact ⟨_, rfl, rfl, rfl⟩
  obtain ⟨f, acts, act, pend⟩ := acts
  rw [acts, count_mnt, irq_mnt]
  exact ⟨regsWf_count (regsWf_irq (s := modMnt f s) wf), event_flag (s := modMnt f s) wf (by decide),
    event_counts (n := 11) (s := modMnt f s) wf (by decide), (mntless_of_quiet quiet_event).trans mntless_modMnt, act, pend⟩

section Alone
variable (alone : s.plf.pend = none)
include alone

theorem mantisSwitch_due (due : switchDue s s.mnt.pend (planBus s) = true) : ∃ before after, mantisSwitch s =
    bankActive 5 (logSafety before after 3 (swapSafety (switchMantisBank s))) := by
  simp only [mantisSwitch, alone, due, Option.isSome_none, Bool.false_and, Bool.false_eq_true, if_false, if_true]
  exact ⟨_, _, rfl⟩

theorem mantisSwitch_notDue (notDue : switchDue s s.mnt.pend (planBus s) = false) : mantisSwitch s = s := by
  simp only [mantisSwitch, alone, notDue, Option.isSome_none, Bool.false_and, Bool.false_eq_true, if_false]

end Alone

theorem exec_mantisBankSwitch (on : s.clk.on = true) (wf : regsWf s.regs = true) (alone : s.plf.pend = none)
    (due : switchDue s s.mnt.pend (planBus s) = true) (bank : s.mnt.banks[other s.mnt.act] = some b) :
    ∃ t, exec .mantisBankSwitch s = .next (refreshReady t) ∧ t.mnt.act = other s.mnt.act ∧ t.mnt.pend = none ∧
      (logFull s = false → t.sec.seq = s.sec.seq + 1) ∧ (logFull s = true → t.sec = s.sec) ∧
      (s.saf.next = none → t.saf = s.saf ∧ bit (reg t .mnt 0 Reg.IRQ_STAT) mntBankSw = true ∧
        reg t .mnt 0 (Reg.CNT + 44) = reg s .mnt 0 (Reg.CNT + 44) + 1) ∧
      (∀ x : SafetyBank, s.saf.next = some x → t.saf.bank = some x ∧ t.saf.next = s.saf.bank ∧ t.saf.acfg = x.acfg ∧
        t.saf.crc = x.crc ∧ t.saf.loaded = true) ∧
      t = { s with mnt := t.mnt, saf := t.saf, sec := t.sec, img := t.img, regs := t.regs, link := t.link } := by
  obtain ⟨before, after, acts⟩ := mantisSwitch_due alone due
  -- the pair tables change places
  obtain ⟨wfu, flag, counts, switched, act, pend⟩ := switchMantisBank_some wf bank
  generalize switchMantisBank s = u at wfu flag counts switched act pend acts
  have saf : u.saf = s.saf := (congrArg State.saf switched :)
  -- the safety sections change places where one waits
  have mnt : (swapSafety u).mnt = u.mnt := mnt_swapSafety
  have rest : sectionless (swapSafety u) = sectionless s := sectionless_swapSafety.trans (sectionless_of_mntless switched)
  have still (none : s.saf.next = none) : swapSafety u = u := swapSafety_none (saf ▸ none)
  have taken (x : SafetyBank) (h : s.saf.next = some x) : (swapSafety u).saf = underSection x s.saf :=
    (saf_swapSafety (saf ▸ h)).trans (congrArg _ saf)
  generalize swapSafety u = v at acts mnt rest still taken
  have sec : v.sec = s.sec := (congrArg State.sec rest :)
  have full : logFull v = logFull s := by rw [logFull, unacked, sec, logFull, unacked]
  -- the change enters the log
  have logged : Writes logOffs v (logSafety before after 3 v) := writes_logChange ..
  have frame : secless (logSafety before after 3 v) = secless v := secless_logChange ..
  obtain ⟨entry, noEntry⟩ := logChange_sec 6 true (pgRow .saf).cls 0 before after 3 v
  rw [← logSafety, full, sec] at entry noEntry
  generalize logSafety before after 3 v = w at acts logged frame entry noEntry
  have active := bankActive_eq (k := 5) (s := w)
  generalize (bankActive 5 w).img = y at active
  have wmnt : w.mnt = u.mnt := (congrArg State.mnt frame :).trans mnt
  have wsaf : w.saf = v.saf := (congrArg State.saf frame :)
  refine ⟨_, (runReady_on on).trans (congrArg (fun z => Host.Outcome.next (refreshReady z)) (acts.trans active)), wmnt ▸ act,
    wmnt ▸ pend, entry, noEntry, fun none => ?_, fun x h => ?_, ?_⟩
  · obtain rfl := still none
    exact ⟨wsaf.trans saf, logged.flag wfu flag, (logged.reg wfu (by decide)).trans counts⟩
  · have safety : w.saf = underSection x s.saf := wsaf.trans (taken x h)
    exact safety ▸ ⟨rfl, rfl, rfl, rfl, rfl⟩
  · rw [eq_of_secless frame, eq_of_sectionless rest]

end Sys2Proof.Machine

/-! SUPPORT. The mantis pass: what it may touch, and why it leaves every speed scale at 1 or below (R376, R385). -/

namespace Sys2Proof.Machine

variable {s t u : State} {p : Pg} {i m n idx k : Nat} {x : Bool} {b : MantisBank} {js : Vector Int 96} {v1 : Vector F32 12}
  {red red' red'' : Vector Reduced 12} {a : Arm} {j : Sixteen} {f : Mantis → Mantis}

-- What the pass may touch

/-- A state without what the pass may change: the count of free values, mantis but for its banks, the safety unit, the register file and
the host link. -/
def passless (s : State) : State :=
  { quiet s with clk := { s.clk with free := 0 }, mnt := { banks := s.mnt.banks, act := s.mnt.act }, saf := {} }

theorem passless_of_quiet (h : quiet t = quiet s) : passless t = passless s :=
  congrArg (fun x : State => { x with clk := { x.clk with free := 0 }, mnt := { banks := x.mnt.banks, act := x.mnt.act }, saf := {} }) h

theorem eq_of_passless (h : passless t = passless s) :
    t = { s with clk := { s.clk with free := t.clk.free }, mnt := t.mnt, saf := t.saf, regs := t.regs, link := t.link } :=
  (congrArg (fun x : State => { x with
    clk := { x.clk with free := t.clk.free }, mnt := t.mnt, saf := t.saf, regs := t.regs, link := t.link }) h :)

/-- The counters but the first, with what their wraps touch. -/
def passOffs : List Nat := (List.range 15).map (fun n => Reg.CNT + 4 * (n + 1)) ++ [Reg.CNT_OVF, Reg.IRQ_STAT]

/-- A part of the pass: it counts in the counters after the first, moves no arm's stop, and touches nothing else but what the pass may. -/
structure Passes (s t : State) : Prop extends Writes passOffs s t where
  rest : passless t = passless s
  stops : ∀ a : Arm, (t.saf.arm[a]).st = (s.saf.arm[a]).st

theorem Passes.refl : Passes s s := ⟨.refl, rfl, fun _ => rfl⟩

theorem Passes.trans (h : Passes s t) (g : Passes t u) : Passes s u :=
  ⟨h.toWrites.trans g.toWrites, g.rest.trans h.rest, fun a => (g.stops a).trans (h.stops a)⟩

theorem passes_of_quiet (w : Writes passOffs s t) (h : quiet t = quiet s) : Passes s t :=
  ⟨w, passless_of_quiet h, fun a => (congrArg (fun x : State => (x.saf.arm[a]).st) h :)⟩

theorem passes_modMnt (banks : (f s.mnt).banks = s.mnt.banks) (act : (f s.mnt).act = s.mnt.act) : Passes s (modMnt f s) :=
  ⟨writes_modMnt, by simp only [passless, modMnt, banks, act]; rfl, fun _ => rfl⟩

theorem passes_modSrc {g : GuardState → GuardState} : Passes s (modSrc j g s) := passes_modMnt rfl rfl

theorem passes_drawFree : Passes s (drawFree s).2 := ⟨writes_of_regs rfl, rfl, fun _ => rfl⟩

theorem passes_irq : Passes s (irq p i m s) := passes_of_quiet (writes_irq.mono (by decide)) quiet_irq

theorem passes_irqIf : Passes s (irqIf x p i m s) := passes_of_quiet (writes_irqIf.mono (by decide)) quiet_irqIf

theorem mem_passOffs (n : Nat) (hn : n < 15) : ∀ o ∈ [Reg.CNT + 4 * (n + 1), Reg.CNT_OVF, Reg.IRQ_STAT], o ∈ passOffs := by
  have counter : Reg.CNT + 4 * (n + 1) ∈ passOffs := List.mem_append_left _ (List.mem_map.mpr ⟨n, List.mem_range.mpr hn, rfl⟩)
  simp only [List.mem_cons, List.not_mem_nil, or_false, forall_eq_or_imp, forall_eq]
  exact ⟨counter, by decide, by decide⟩

theorem passes_count (hn : n < 15) : Passes s (count p i (n + 1) s) :=
  passes_of_quiet ((writes_count (by omega)).mono (mem_passOffs n hn)) quiet_count

theorem passes_countIf (hn : n < 15) : Passes s (countIf x p i (n + 1) s) :=
  passes_of_quiet ((writes_countIf (by omega)).mono (mem_passOffs n hn)) quiet_countIf

/-- An event of the pass, where it occurs. -/
theorem passes_event (hn : n < 15) : Passes s (if x then count p i (n + 1) (irq p i m s) else s) := by
  cases x with
  | false => exact .refl
  | true => exact passes_irq.trans (passes_count hn)

theorem passes_forEach {α : Type} {g : α → State → State} (hg : ∀ x u, Passes u (g x u)) (l : List α) : Passes s (forEach l g s) :=
  forEach_holds (P := Passes s) (fun x u h => h.trans (hg x u)) l .refl

-- Guard sources (R369 to R372)

theorem passes_loseSource : Passes s (loseSource j s) := (passes_modSrc.trans passes_irq).trans (passes_count (n := 3) (by decide))

theorem passes_guardMissing {d : GuardDef} : Passes s (guardStep.guardMissing j d s) := by
  have held (u : State) : Passes u (count .mnt 0 3 (irq .mnt 0 mntGHold u)) := passes_irq.trans (passes_count (n := 2) (by decide))
  unfold guardStep.guardMissing
  dsimp only
  split
  · exact passes_modSrc
  · split
    · exact (passes_modSrc.trans (held _)).trans passes_loseSource
    · exact passes_modSrc.trans (held _)

theorem passes_guardStep : Passes s (guardStep j s) := by
  unfold guardStep
  split
  · exact .refl
  · dsimp only
    split
    · split
      · exact passes_modSrc.trans (passes_count (n := 0) (by decide))
      · exact (passes_modSrc.trans (passes_count (n := 1) (by decide))).trans passes_guardMissing
    · exact passes_modSrc.trans passes_guardMissing

-- Scales only fall (R384, R385)

/-- No arm's scale has risen. -/
def Lowers (red red' : Vector Reduced 12) : Prop := ∀ a : Arm, (red'[a]).k ≤ (red[a]).k

theorem Lowers.refl : Lowers red red := fun _ => le_rfl

theorem Lowers.trans (h : Lowers red red') (g : Lowers red' red'') : Lowers red red'' := fun a => (g a).trans (h a)

theorem reduceScale_le (r : Reduced) : (reduceScale idx k r).k ≤ r.k := by
  unfold reduceScale
  split
  · next h => exact h.le
  · exact le_rfl

theorem lowers_vmod {g : Reduced → Reduced} (hg : ∀ r, (g r).k ≤ r.k) : Lowers red (vmod red a g) := fun c => by
  by_cases h : c = a
  · subst h
    rw [vmod_same]
    exact hg _
  · rw [vmod_other h]

theorem lowers_onArms {react : BitVec 12} {g : Reduced → Reduced} (hg : ∀ r, (g r).k ≤ r.k) : Lowers red (onArms react g red) :=
  List.foldlRecOn _ _ Lowers.refl fun _ h _ _ => h.trans (lowers_vmod hg)

theorem lowers_ite {c : Prop} [Decidable c] (h : Lowers red red') : Lowers red (if c then red' else red) := by
  split
  · exact h
  · exact .refl

theorem lowerScale_le (y z : Nat × Option Nat) : (lowerScale y z).1 ≤ y.1 := by
  unfold lowerScale
  split
  · next h => omega
  · exact le_rfl

/-- The scale of a coupling is no higher than that of any arm alone. -/
theorem coupledScale_le : (coupledScale s red a).1 ≤ (red[a]).k :=
  List.foldlRecOn (motive := fun y : Nat × Option Nat => y.1 ≤ (red[a]).k) _ _ le_rfl fun _ h _ _ => (lowerScale_le _ _).trans h

-- Pairs and host tracks (R375 to R389)

theorem passPair_keeps {e : Nat × Pair} {y : State × List PairResult × Vector Reduced 12} :
    Passes y.1 (passPair b js v1 e y).1 ∧ Lowers y.2.2 (passPair b js v1 e y).2.2 := by
  obtain ⟨s, rs, red⟩ := y
  have none : Passes s s ∧ Lowers red red := ⟨.refl, .refl⟩
  unfold passPair
  dsimp only
  split
  · exact none
  · split
    · exact none
    · split
      · split
        · exact none
        · refine ⟨((passes_countIf (n := 11) (by decide)).trans (passes_countIf (n := 7) (by decide))).trans
            (passes_event (n := 5) (by decide)), lowers_onArms fun r => ?_⟩
          split <;> exact reduceScale_le r
      · split
        · exact none
        · split
          · exact none
          · exact ⟨(passes_countIf (n := 11) (by decide)).trans (passes_event (n := 6) (by decide)),
              lowers_ite (lowers_onArms fun _ => le_rfl)⟩

theorem passHost_keeps {h : Nat} {v : Nat × Volume} {y : State × Vector Reduced 12} :
    Passes y.1 (passHost b js v1 h v y).1 ∧ Lowers y.2 (passHost b js v1 h v y).2 :=
  ⟨(passes_irqIf.trans (passes_countIf (n := 11) (by decide))).trans (passes_countIf (n := 7) (by decide)), lowers_vmod reduceScale_le⟩

/-- What the pass finds of the pairs: their results, and the scale of each arm. -/
def passPairs (b : MantisBank) (js : Vector Int 96) (v1 : Vector F32 12) (s : State) : State × List PairResult × Vector Reduced 12 :=
  b.pairs.foldl (fun x e => passPair b js v1 e x) (s, [], Vector.replicate 12 {})

/-- The host's tracks against the arms' volumes. -/
def passHosts (b : MantisBank) (js : Vector Int 96) (v1 : Vector F32 12) (hosts : List Nat) (vols : List (Nat × Volume))
    (x : State × Vector Reduced 12) : State × Vector Reduced 12 :=
  hosts.foldl (fun x t => vols.foldl (fun x v => passHost b js v1 t v x) x) x

theorem passPairs_keeps : Passes s (passPairs b js v1 s).1 ∧ ∀ a : Arm, ((passPairs b js v1 s).2.2[a]).k ≤ 65536 := by
  refine List.foldlRecOn
    (motive := fun y : State × List PairResult × Vector Reduced 12 => Passes s y.1 ∧ ∀ a : Arm, (y.2.2[a]).k ≤ 65536) _ _
    ⟨.refl, fun a => by simp⟩ fun y h e _ => ?_
  obtain ⟨part, lowers⟩ := passPair_keeps (b := b) (js := js) (v1 := v1) (e := e) (y := y)
  exact ⟨h.1.trans part, fun a => (lowers a).trans (h.2 a)⟩

theorem passHosts_keeps {hosts : List Nat} {vols : List (Nat × Volume)} {y : State × Vector Reduced 12} :
    Passes y.1 (passHosts b js v1 hosts vols y).1 ∧ Lowers y.2 (passHosts b js v1 hosts vols y).2 :=
  List.foldlRecOn (motive := fun z : State × Vector Reduced 12 => Passes y.1 z.1 ∧ Lowers y.2 z.2) _ _ ⟨.refl, .refl⟩ fun _ h _ _ =>
    List.foldlRecOn (motive := fun z : State × Vector Reduced 12 => Passes y.1 z.1 ∧ Lowers y.2 z.2) _ _ h fun _ h _ _ =>
      ⟨h.1.trans passHost_keeps.1, h.2.trans passHost_keeps.2⟩

-- Published scales and SLS values (R385, R386, R406)

theorem passes_publishScale : Passes s (publishScale red a s) :=
  ((passes_countIf (n := 4) (by decide)).trans passes_irqIf).trans
    (passes_modMnt (f := fun m => { m with
      k := vset m.k a (coupledScale s red a).1
      cause := vset m.cause a (armkCause red[a] (coupledScale s red a).1 (coupledScale s red a).2).1
      pair := vset m.pair a (armkCause red[a] (coupledScale s red a).1 (coupledScale s red a).2).2 }) rfl rfl)

theorem publishScale_k : (publishScale red a s).mnt.k = vset s.mnt.k a (coupledScale s red a).1 := by
  unfold publishScale
  simp

/-- Every arm's published scale is one that the pass found. -/
theorem published_le (low : ∀ a : Arm, (red[a]).k ≤ 65536) (a : Arm) : (forEach allArms (publishScale red) s).mnt.k[a] ≤ 65536 := by
  refine (forEach_each (part := fun u a => u.mnt.k[a]) (f := publishScale red) (Q := fun _ y => y ≤ 65536)
    (fun a u => ?_) (fun a c u hc => ?_) allArms s allArms_nodup).1 a mem_allArms
  · rw [publishScale_k, vset_same]
    exact coupledScale_le.trans (low a)
  · rw [publishScale_k, vset_other hc]

theorem passes_slsStep : Passes s (slsStep a s) := by
  refine ⟨writes_of_regs rfl, rfl, fun c => ?_⟩
  by_cases h : c = a
  · subst h
    simp only [slsStep, vmod_same]
    split <;> rfl
  · simp only [slsStep, vmod_other h]

theorem mnt_slsSteps (l : List Arm) (s : State) : (forEach l slsStep s).mnt = s.mnt :=
  forEach_preserves (g := State.mnt) (f := slsStep) (fun _ _ => rfl) l s

-- MANTIS_PASS (R376)

theorem mantisPass_none (h : mantisBank s = none) : mantisPass s = s := by
  unfold mantisPass
  rw [h]

/-- The pass publishes scales that are 1 or below after all that it counts and finds, and then judges the speeds and counts itself. -/
theorem mantisPass_some (bank : mantisBank s = some b) : ∃ u red l, Passes s u ∧ (∀ a : Arm, (red[a]).k ≤ 65536) ∧ mantisPass s =
    count .mnt 0 0 (forEach allArms slsStep (modMnt (fun m => { m with list := l }) (forEach allArms (publishScale red) u))) := by
  have sensed : Passes s (forEach allArms (fun a s => countIf (decide (0 < (s.sdp.fb[a]).lost) && (armModel s a).isSome) .mnt 0 10 s)
      (forEach allSixteen guardStep s)) :=
    (passes_forEach (fun _ _ => passes_guardStep) _).trans (passes_forEach (fun _ _ => passes_countIf (n := 9) (by decide)) _)
  unfold mantisPass
  rw [bank]
  dsimp only
  generalize forEach allArms _ (forEach allSixteen guardStep s) = s1 at sensed ⊢
  generalize mantisJoints s1 = js
  generalize (Vector.range 12).map (fun i => armSpeed s1 b js true _) = v1
  obtain ⟨pairs, low⟩ := passPairs_keeps (b := b) (js := js) (v1 := v1) (s := s1)
  rw [← passPairs]
  generalize passPairs b js v1 s1 = r at pairs low ⊢
  rw [← passHosts]
  obtain ⟨hosts, lowers⟩ := passHosts_keeps (b := b) (js := js) (v1 := v1)
    (hosts := if assisted s1 .mnt 0 then (List.range 16).filter fun t => htValid s1 t else [])
    (vols := b.vols.filter fun x => decide (x.1 < 128) && armVolume s1 x.2) (y := (r.1, r.2.2))
  generalize passHosts b js v1 _ _ (r.1, r.2.2) = h at hosts lowers ⊢
  refine ⟨_, h.2, _, ((sensed.trans pairs).trans hosts).trans ?_, fun a => (lowers a).trans (low a), rfl⟩
  refine Passes.trans ?_ (passes_modMnt rfl rfl)
  split
  · exact passes_drawFree
  · exact .refl

theorem exec_mantisPass (on : s.clk.on = true) (wf : regsWf s.regs = true) (bank : (mantisBank s).isSome = true) :
    ∃ t, exec .mantisPass s = .next t ∧ reg t .mnt 0 Reg.CNT = reg s .mnt 0 Reg.CNT + 1 ∧
      (∀ a : Arm, t.mnt.k[a] ≤ 65536 ∧ (t.saf.arm[a]).st = (s.saf.arm[a]).st) ∧ t.mnt.banks = s.mnt.banks ∧ t.mnt.act = s.mnt.act ∧
      t = { s with clk := { s.clk with free := t.clk.free }, mnt := t.mnt, saf := t.saf, regs := t.regs, link := t.link } := by
  obtain ⟨b, hb⟩ := Option.isSome_iff_exists.mp bank
  obtain ⟨u, red, l, found, low, acts⟩ := mantisPass_some hb
  have published := found.trans (passes_forEach (fun a _ => passes_publishScale (red := red) (a := a)) allArms)
  have scales := published_le (s := u) low
  generalize forEach allArms (publishScale red) u = v at published scales acts
  have judged : Passes s (forEach allArms slsStep (modMnt (fun m => { m with list := l }) v)) :=
    (published.trans (passes_modMnt (f := fun m => { m with list := l }) rfl rfl)).trans (passes_forEach (fun _ _ => passes_slsStep) _)
  have mnt : (forEach allArms slsStep (modMnt (fun m => { m with list := l }) v)).mnt = { v.mnt with list := l } :=
    mnt_slsSteps allArms (modMnt _ v)
  generalize forEach allArms slsStep (modMnt (fun m => { m with list := l }) v) = w at judged mnt acts
  have before : reg w .mnt 0 Reg.CNT = reg s .mnt 0 Reg.CNT := judged.reg wf (by decide)
  have counts : reg (count .mnt 0 0 w) .mnt 0 Reg.CNT = reg s .mnt 0 Reg.CNT + 1 :=
    (count_reg (s := w) (n := 0) (judged.wf wf) (by decide)).trans (congrArg (· + 1) before)
  have same : quiet (count .mnt 0 0 w) = quiet w := quiet_count
  generalize count .mnt 0 0 w = t at counts same acts
  have rest := (passless_of_quiet same).trans judged.rest
  have tmnt : t.mnt = { v.mnt with list := l } := (mnt_of_quiet same).trans mnt
  have saf : t.saf = w.saf := (congrArg State.saf same :)
  exact ⟨t, (run_on on).trans (congrArg _ acts), counts, fun a => ⟨tmnt ▸ scales a, saf ▸ judged.stops a⟩,
    (congrArg (fun x : State => x.mnt.banks) rest :), (congrArg (fun x : State => x.mnt.act) rest :), eq_of_passless rest⟩

end Sys2Proof.Machine

/-! Mantis: the pass, guard sources, the switch of the pair table and host tracks (R372, R376, R385, R389 to R392): O56. -/

namespace Sys2Proof.Machine

/-- Settles O56, command by command. -/
theorem mantisCommands : Obligations.MantisCommands := by
  intro s on wf
  refine ⟨fun none => (run_on on).trans (congrArg _ (mantisPass_none none)), exec_mantisPass on wf,
    fun j d row => ⟨exec_guardSourceLost on wf row, fun lost => (run_on on).trans (congrArg _ (guardSourceLost_kept lost))⟩,
    fun b alone due bank => exec_mantisBankSwitch on wf alone due bank, fun alone notDue => ?_, fun empty => ?_, fun bank waits => ?_,
    fun bank free => ⟨fun shut => ?_, exec_mntGo_full on wf bank free, exec_mntGo_taken on wf bank free⟩, fun v => exec_htData on wf,
    exec_htCommit on wf, fun v => exec_ht_refused on wf, exec_htLifeExpiry on wf⟩
  · exact (runReady_on on).trans (by rw [mantisSwitch_notDue alone notDue])
  · exact exec_mntGo_refused on wf (by decide) (requestMantisSwitch_empty empty)
      (requestMantisSwitch_empty (s := setReg .mnt 0 Reg.ERR 0 s) empty)
  · exact exec_mntGo_refused on wf (by decide) (requestMantisSwitch_waits bank waits)
      (requestMantisSwitch_waits (s := setReg .mnt 0 Reg.ERR 0 s) bank waits)
  · exact exec_mntGo_refused on wf (by decide) (requestMantisSwitch_locked bank free shut)
      (requestMantisSwitch_locked (s := setReg .mnt 0 Reg.ERR 0 s) bank free shut)

end Sys2Proof.Machine

/-! SUPPORT. Sessions, passwords, management connections and the change log (R422, R423, R425, R427, R431). -/

namespace Sys2Proof.Machine

variable {s t : State} {p : Pg} {i src e : Nat} {q : Port} {v : Word} {x : Session} {f : State → State} {g : Security → Security}

-- Commands staged for the security unit

theorem secless_modSec : secless (modSec g s) = secless s := rfl

/-- A state that a free value has been drawn for. -/
theorem eq_of_secless_draw (h : secless t = secless (drawFree s).2) :
    t = { s with clk := t.clk, sec := t.sec, regs := t.regs, link := t.link } :=
  (congrArg (fun x : State => { x with clk := t.clk, sec := t.sec, regs := t.regs, link := t.link }) h :)

/-- Besides the command's own effect, a staged write may count in `CHG` (R62). -/
theorem writes_staged : Writes [Reg.CHG] (f s) (staged p i f s) := by
  obtain acts | acts := staged_eq (p := p) (i := i) (f := f) (s := s) <;> rw [acts]
  · exact .refl
  · exact writes_setReg (by decide) (by decide)

theorem quiet_staged : quiet (staged p i f s) = quiet (f s) := by
  obtain acts | acts := staged_eq (p := p) (i := i) (f := f) (s := s) <;> rw [acts]
  exact quiet_chg

theorem sec_staged : (staged p i f s).sec = (f s).sec := (congrArg State.sec quiet_staged :)

/-- A staged command that changes the security unit alone. -/
theorem exec_staged_modSec (on : s.clk.on = true) (acts : f s = modSec g s) :
    ∃ t, run (staged p i f) s = .next t ∧ t.sec = g s.sec ∧ t = { s with sec := t.sec, regs := t.regs } := by
  refine ⟨_, run_on on, ?_⟩
  obtain h | h := staged_eq (p := p) (i := i) (f := f) (s := s) <;> rw [h, acts]
  · exact ⟨rfl, rfl⟩
  · exact ⟨rfl, rfl⟩

-- Lockouts (R422)

theorem pwlockExpiry_locked (lock : s.sec.lockEnd = some e) :
    pwlockExpiry s = if e ≤ nsOf s then modSec (fun x => { x with lockEnd := none, left := 5 }) s else s := by
  simp only [pwlockExpiry, lock, Option.any_some, decide_eq_true_eq]

/-- Only the lockout and the attempts left may change. -/
theorem pwlockExpiry_eq : ∃ l n, pwlockExpiry s = modSec (fun x => { x with lockEnd := l, left := n }) s := by
  unfold pwlockExpiry
  split
  · exact ⟨none, 5, rfl⟩
  · exact ⟨s.sec.lockEnd, s.sec.left, rfl⟩

/-- Once every lockout is over, none is left. -/
theorem pwlockExpiry_past (past : ∀ e, s.sec.lockEnd = some e → e ≤ nsOf s) :
    ∃ n, pwlockExpiry s = modSec (fun x => { x with lockEnd := none, left := n }) s := by
  cases lock : s.sec.lockEnd with
  | none =>
    have kept : pwlockExpiry s = s := by simp only [pwlockExpiry, lock, Option.any_none, Bool.false_eq_true, if_false]
    exact ⟨s.sec.left, kept.trans (by rw [← lock]; rfl)⟩
  | some e => exact ⟨5, (pwlockExpiry_locked lock).trans (if_pos (past e lock))⟩

-- OPEN_SESSION (R422, R423)

/-- The security unit with the session that begins. -/
def begunSession (limited : Bool) (src : Nat) (s : State) : Security :=
  { s.sec with session := some ⟨limited, src, if limited then 0 else Config.freeWord s.clk.free, false, nsOf s⟩, left := 5, result := 1 }

theorem beginSession_sec {limited : Bool} : (beginSession limited src s).sec = begunSession limited src s := by
  rw [beginSession, pwdResult, modSec_sec, count_sec, modSec_sec]
  cases limited <;> rfl

/-- The key of a full session is drawn from the hub's random source; a limited session has none. -/
theorem secless_beginSession {limited : Bool} :
    secless (beginSession limited src s) = secless (if limited then s else (drawFree s).2) :=
  secless_modSec.trans ((secless_of_quiet quiet_count).trans secless_modSec)

/-- While a session or a lockout stands, `OP` 1 ends with result 3. -/
theorem askSession_shut (h : s.sec.session.isSome = true ∨ s.sec.lockEnd.isSome = true) : askSession src s = pwdResult 3 s := if_pos h

section Open
variable (closed : s.sec.session = none) (past : ∀ e, s.sec.lockEnd = some e → e ≤ nsOf s)
include closed past

theorem openSession_limited (factory : s.sec.store = none) (empty : (pwdBytes s).all (· == 0) = true) :
    ∃ n, openSession src s = beginSession true src (modSec (fun x => { x with lockEnd := none, left := n }) s) := by
  obtain ⟨n, free⟩ := pwlockExpiry_past past
  have kept : pwdBytes (modSec (fun x => { x with lockEnd := none, left := n }) s) = pwdBytes s := rfl
  refine ⟨n, ?_⟩
  rw [openSession, free]
  simp only [askSession, modSec_sec, closed, factory, kept, empty, Option.isSome_none, Bool.false_eq_true, or_self, if_false, if_true]

theorem openSession_full {salt : BitVec 128} {h : BitVec 256} (stored : s.sec.store = some (salt, h))
    (fits : Config.passwordHash salt (pwdBytes s) = h) :
    ∃ n, openSession src s = beginSession false src (modSec (fun x => { x with lockEnd := none, left := n }) s) := by
  obtain ⟨n, free⟩ := pwlockExpiry_past past
  have kept : pwdBytes (modSec (fun x => { x with lockEnd := none, left := n }) s) = pwdBytes s := rfl
  refine ⟨n, ?_⟩
  rw [openSession, free]
  simp only [askSession, modSec_sec, closed, stored, kept, fits, Option.isSome_none, Bool.false_eq_true, or_self, if_false, if_true]

end Open

section OpenCommand
variable {src : BitVec 3} (on : s.clk.on = true)
include on

theorem exec_openSession_limited (closed : s.sec.session = none) (past : ∀ e, s.sec.lockEnd = some e → e ≤ nsOf s)
    (factory : s.sec.store = none) (empty : (pwdBytes s).all (· == 0) = true) :
    ∃ t, exec (.openSession src) s = .next t ∧ t.sec.session = some ⟨true, src.toNat, 0, false, nsOf s⟩ ∧ t.sec.result = 1 ∧
      t = { s with sec := t.sec, regs := t.regs, link := t.link } := by
  obtain ⟨n, acts⟩ := openSession_limited (src := src.toNat) closed past factory empty
  have sec : (staged .sec 0 (openSession src.toNat) s).sec = _ := sec_staged.trans ((congrArg State.sec acts).trans beginSession_sec)
  have frame : secless (staged .sec 0 (openSession src.toNat) s) = secless s :=
    (secless_of_quiet quiet_staged).trans ((congrArg secless acts).trans (secless_beginSession.trans secless_modSec))
  exact ⟨_, run_on on, congrArg Security.session sec, congrArg Security.result sec, eq_of_secless frame⟩

theorem exec_openSession_full (closed : s.sec.session = none) (past : ∀ e, s.sec.lockEnd = some e → e ≤ nsOf s)
    {salt : BitVec 128} {h : BitVec 256} (stored : s.sec.store = some (salt, h)) (fits : Config.passwordHash salt (pwdBytes s) = h) :
    ∃ t, exec (.openSession src) s = .next t ∧ t.sec.session = some ⟨false, src.toNat, Config.freeWord s.clk.free, false, nsOf s⟩ ∧
      t.sec.result = 1 ∧ t.sec.left = 5 ∧ t = { s with clk := t.clk, sec := t.sec, regs := t.regs, link := t.link } := by
  obtain ⟨n, acts⟩ := openSession_full (src := src.toNat) closed past stored fits
  have sec : (staged .sec 0 (openSession src.toNat) s).sec = _ := sec_staged.trans ((congrArg State.sec acts).trans beginSession_sec)
  have frame : secless (staged .sec 0 (openSession src.toNat) s) = secless (drawFree s).2 :=
    (secless_of_quiet quiet_staged).trans ((congrArg secless acts).trans secless_beginSession)
  exact ⟨_, run_on on, congrArg Security.session sec, congrArg Security.result sec, congrArg Security.left sec,
    eq_of_secless_draw frame⟩

theorem exec_openSession_lockedOut (closed : s.sec.session = none) (lock : s.sec.lockEnd = some e) (runs : nsOf s < e) :
    ∃ t, exec (.openSession src) s = .next t ∧ t.sec.session = none ∧ t.sec.result = 3 ∧ t = { s with sec := t.sec, regs := t.regs } := by
  have acts : openSession src.toNat s = modSec (fun x => { x with result := 3 }) s := by
    rw [openSession, pwlockExpiry_locked lock, if_neg (Nat.not_le.mpr runs), askSession_shut (.inr (by rw [lock]; rfl)), pwdResult]
  obtain ⟨t, ends, sec, frame⟩ := exec_staged_modSec (p := .sec) (i := 0) on acts
  exact ⟨t, ends, by rw [sec, closed], by rw [sec], frame⟩

theorem exec_openSession_again (stands : s.sec.session.isSome = true) :
    ∃ t, exec (.openSession src) s = .next t ∧ t.sec.session = s.sec.session ∧ t.sec.result = 3 ∧
      t = { s with sec := t.sec, regs := t.regs } := by
  obtain ⟨l, n, waits⟩ := pwlockExpiry_eq (s := s)
  have shut : openSession src.toNat s = pwdResult 3 (pwlockExpiry s) := askSession_shut (.inl (by rw [waits]; exact stands))
  have acts : openSession src.toNat s = modSec (fun x => { x with lockEnd := l, left := n, result := 3 }) s := by
    rw [shut, waits]
    rfl
  obtain ⟨t, ends, sec, frame⟩ := exec_staged_modSec (p := .sec) (i := 0) on acts
  exact ⟨t, ends, by rw [sec], by rw [sec], frame⟩

end OpenCommand

-- The end of a session (R421, R423)

/-- The security unit once its session has ended: pages relocked, the key gone. -/
def sessionClosed (x : Security) : Security := { x with session := none, saf := false, sio := false }

theorem closeSession_open (h : s.sec.session.isSome = true) : closeSession s = irq .sec 0 secSessEnd (modSec sessionClosed s) := if_pos h

theorem closeSession_sec (h : s.sec.session.isSome = true) : (closeSession s).sec = sessionClosed s.sec := by
  rw [closeSession_open h, irq_sec, modSec_sec]

theorem secless_closeSession : secless (closeSession s) = secless s := by
  unfold closeSession
  split
  · exact (secless_of_quiet quiet_irq).trans secless_modSec
  · rfl

theorem closeSession_flag (wf : regsWf s.regs = true) (h : s.sec.session.isSome = true) :
    regsWf (closeSession s).regs = true ∧ bit (reg (closeSession s) .sec 0 Reg.IRQ_STAT) secSessEnd = true := by
  rw [closeSession_open h]
  exact ⟨regsWf_irq (s := modSec sessionClosed s) wf, irq_bit (s := modSec sessionClosed s) wf (by decide)⟩

theorem exec_endSession (on : s.clk.on = true) (wf : regsWf s.regs = true) (h : s.sec.session.isSome = true) :
    ∃ t, exec .endSession s = .next t ∧ t.sec.session = none ∧ t.sec.saf = false ∧ t.sec.sio = false ∧
      t.sec.result = 1 ∧ bit (reg t .sec 0 Reg.IRQ_STAT) secSessEnd = true ∧ t = { s with sec := t.sec, regs := t.regs, link := t.link } := by
  have acts : endSession s = modSec (fun x => { x with result := 1 }) (closeSession s) := if_pos h
  have sec : (staged .sec 0 endSession s).sec = { sessionClosed s.sec with result := 1 } := by
    rw [sec_staged, acts, modSec_sec, closeSession_sec h]
  have frame : secless (staged .sec 0 endSession s) = secless s :=
    (secless_of_quiet quiet_staged).trans ((congrArg secless acts).trans (secless_modSec.trans secless_closeSession))
  obtain ⟨wfc, told⟩ := closeSession_flag wf h
  have counted : Writes [Reg.CHG] (modSec (fun x => { x with result := 1 }) (closeSession s)) (staged .sec 0 endSession s) :=
    acts ▸ writes_staged
  exact ⟨_, run_on on, congrArg Security.session sec, congrArg Security.saf sec, congrArg Security.sio sec, congrArg Security.result sec,
    counted.flag wfc told, eq_of_secless frame⟩

theorem sessionTimeout_idle (session : s.sec.session = some x) :
    sessionTimeout s = if x.last + sessionIdleNs ≤ nsOf s then closeSession s else s := by
  by_cases idle : x.last + sessionIdleNs ≤ nsOf s
  · rw [if_pos idle]
    exact if_pos (by rw [session, Option.any_some]; exact decide_eq_true idle)
  · rw [if_neg idle]
    exact if_neg (by rw [session, Option.any_some]; exact fun h => idle (of_decide_eq_true h))

theorem exec_sessionTimeout (on : s.clk.on = true) (wf : regsWf s.regs = true) (session : s.sec.session = some x)
    (idle : x.last + 900000000000 ≤ nsOf s) :
    ∃ t, exec .sessionTimeout s = .next t ∧ t.sec.session = none ∧ t.sec.saf = false ∧ t.sec.sio = false ∧
      bit (reg t .sec 0 Reg.IRQ_STAT) secSessEnd = true ∧ t = { s with sec := t.sec, regs := t.regs, link := t.link } := by
  have stands : s.sec.session.isSome = true := by rw [session]; rfl
  have acts : sessionTimeout s = closeSession s := (sessionTimeout_idle session).trans (if_pos idle)
  have sec := closeSession_sec stands
  exact ⟨_, (run_on on).trans (congrArg _ acts), congrArg Security.session sec, congrArg Security.saf sec, congrArg Security.sio sec,
    (closeSession_flag wf stands).2, eq_of_secless secless_closeSession⟩

-- CHANGE_PASSWORD (R422, R424)

/-- An entry of the change log leaves the stored password. -/
theorem logChange_store {cell : Bool} {cls inst : Nat} {before after : Word} {kind : Nat} :
    (logChange src cell cls inst before after kind s).sec.store = s.sec.store := by
  unfold logChange
  split
  · rw [count_sec]
  · rw [irqIf_sec, irqIf_sec, count_sec, modSec_sec]

/-- The new password, salted and hashed (R422). -/
def passwordStored (s : State) : State :=
  modSec (fun x => { x with store := some (Config.salt s.clk.free, Config.passwordHash (Config.salt s.clk.free) (pwdBytes s)) }) (drawFree s).2

theorem changePassword_taken (stands : s.sec.session.isSome = true) (valid : validPassword (pwdBytes s) = true) (room : logFull s = false) :
    changePassword src s = pwdResult 1 (logChange src true 7 0 0 0 4 (passwordStored s)) := by
  have session : s.sec.session.isNone = false := by rw [← Option.not_isSome, stands]; rfl
  simp only [changePassword, session, valid, room, Bool.false_eq_true, Bool.true_eq_false, or_self, if_false]
  rfl

theorem exec_changePassword {src : BitVec 3} (on : s.clk.on = true) (stands : s.sec.session.isSome = true)
    (valid : validPassword (pwdBytes s) = true) (room : logFull s = false) :
    ∃ t, exec (.changePassword src) s = .next t ∧ t.sec.result = 1 ∧ t.sec.seq = s.sec.seq + 1 ∧
      t.sec.store = some (Config.salt s.clk.free, Config.passwordHash (Config.salt s.clk.free) (pwdBytes s)) ∧
      t = { s with clk := t.clk, sec := t.sec, regs := t.regs, link := t.link } := by
  have acts := changePassword_taken (src := src.toNat) stands valid room
  obtain ⟨entry, -⟩ := logChange_sec src.toNat true 7 0 0 0 4 (passwordStored s)
  have sec : (staged .sec 0 (changePassword src.toNat) s).sec = (pwdResult 1 (logChange src.toNat true 7 0 0 0 4 (passwordStored s))).sec :=
    sec_staged.trans (congrArg State.sec acts)
  have frame : secless (staged .sec 0 (changePassword src.toNat) s) = secless (drawFree s).2 :=
    (secless_of_quiet quiet_staged).trans ((congrArg secless acts).trans (secless_modSec.trans ((secless_logChange ..).trans secless_modSec)))
  exact ⟨_, run_on on, congrArg Security.result sec, (congrArg Security.seq sec).trans (entry room),
    (congrArg Security.store sec).trans logChange_store, eq_of_secless_draw frame⟩

-- SESS_KEY_READ (R423)

theorem readSessKey_open (session : s.sec.session = some x) :
    readSessKey s = (if x.keyRead then 0 else x.key, modSec (fun y => { y with session := some { x with keyRead := true } }) s) := by
  simp only [readSessKey, session]
  split
  · next read =>
    have same : some { x with keyRead := true } = s.sec.session := by rw [← read, session]
    rw [same]
    rfl
  · rfl

theorem exec_sessKeyRead (on : s.clk.on = true) (session : s.sec.session = some x) (alive : s.clk.alive[q] = true) :
    ∃ t, exec (.sessKeyRead q) s = .next t ∧ t.link.readData[q] = (if x.keyRead then 0 else x.key) ∧
      t.sec.session = some { x with keyRead := true } ∧ t = { s with sec := t.sec, link := t.link } :=
  ⟨_, (run_on on).trans (congrArg _ ((atPort_alive alive).trans
    (congrArg (fun r : Word × State => returnRead q r.1 r.2) (readSessKey_open session)))), vset_same, rfl, rfl⟩

-- Management connections (R423, R427)

theorem secless_closeSessionOf : secless (closeSessionOf src s) = secless s := by
  obtain acts | acts := closeSessionOf_eq (s := s) (src := src) <;> rw [acts]
  exact secless_closeSession

/-- An accepted connection is noted beside those that stand, and counted. -/
theorem exec_managementConnection {src : BitVec 3} (on : s.clk.on = true) (wf : regsWf s.regs = true) :
    ∃ t, exec (.managementConnection src true) s = .next t ∧ t.sec.conns = src.toNat :: s.sec.conns ∧
      reg t .sec 0 (Reg.CNT + 24) = reg s .sec 0 (Reg.CNT + 24) + 1 ∧ t = { s with sec := t.sec, regs := t.regs, link := t.link } := by
  refine ⟨_, run_on on, ?_, count_reg (n := 6) (s := modSec (fun x => { x with conns := src.toNat :: x.conns }) s) wf (by decide),
    eq_of_secless ((secless_of_quiet quiet_count).trans secless_modSec)⟩
  exact congrArg Security.conns count_sec

theorem exec_managementConnectionClosed {src : BitVec 3} (on : s.clk.on = true) :
    ∃ t, exec (.managementConnectionClosed src) s = .next t ∧ t.sec.conns = s.sec.conns.erase src.toNat ∧
      (∀ x, t.sec.session = some x → x.src ≠ src.toNat) ∧ t = { s with sec := t.sec, regs := t.regs, link := t.link } :=
  ⟨_, run_on on, closeSessionOf_conns, fun _ => closeSessionOf_src, eq_of_secless (secless_closeSessionOf.trans secless_modSec)⟩

-- LOG_DATA_READ (R431)

theorem exec_logDataRead (on : s.clk.on = true) (wf : regsWf s.regs = true) (alive : s.clk.alive[q] = true) :
    ∃ t, exec (.logDataRead q) s = .next t ∧ t.link.readData[q] = logData s ∧
      fld t .sec 0 Reg.SEC_LOG_WSEL 2 0 = (fld s .sec 0 Reg.SEC_LOG_WSEL 2 0 + 1) % 8 ∧
      RegsBut [regKey .sec 0 Reg.SEC_LOG_WSEL] s t ∧ t = { s with regs := t.regs, link := t.link } := by
  have acts : exec (.logDataRead q) s = .next (returnRead q (logData s)
      (setFld .sec 0 Reg.SEC_LOG_WSEL 2 0 (fld s .sec 0 Reg.SEC_LOG_WSEL 2 0 + 1) s)) :=
    (run_on on).trans (congrArg _ (atPort_alive alive))
  refine ⟨_, acts, vset_same, fld_setFld_same wf (by decide) (by decide), regsBut_of_kept wf fun k hk => ?_, rfl⟩
  refine RegKept.trans (t := setFld .sec 0 Reg.SEC_LOG_WSEL 2 0 _ s) ?_ (regKept_of_regs rfl)
  exact regKept_setReg (by simpa using hk)

end Sys2Proof.Machine

/-! Sessions, passwords, management connections and the change log (R422, R423, R425, R427, R431): O35. -/

namespace Sys2Proof.Machine

/-- Settles O35, command by command. -/
theorem securityCommands : Obligations.SecurityCommands := by
  intro s on wf
  refine ⟨fun src closed past factory empty => exec_openSession_limited on closed past factory empty,
    fun src salt h closed past stored fits => exec_openSession_full on closed past stored fits,
    fun src e closed lock runs => exec_openSession_lockedOut on closed lock runs,
    fun src stands => exec_openSession_again on stands, fun stands => exec_endSession on wf stands,
    fun x session busy => (run_on on).trans (congrArg _ ((sessionTimeout_idle session).trans (if_neg (Nat.not_le.mpr busy)))),
    fun x session idle => exec_sessionTimeout on wf session idle, fun src closed => ?_,
    fun src stands valid room => exec_changePassword on stands valid room, fun x session q alive => exec_sessKeyRead on session alive,
    fun v reached => ?_,
    fun q alive => exec_logDataRead on wf alive, fun src => exec_managementConnection on wf,
    fun src => ⟨_, run_on on, count_sec, count_reg (n := 7) wf (by decide)⟩,
    fun src => exec_managementConnectionClosed on, fun e lock => (run_on on).trans (congrArg _ (pwlockExpiry_locked lock))⟩
  · have acts : changePassword src.toNat s = modSec (fun x => { x with result := 3 }) s := if_pos (.inl (by rw [closed]; rfl))
    obtain ⟨t, ends, sec, frame⟩ := exec_staged_modSec (p := .sec) (i := 0) on acts
    exact ⟨t, ends, by rw [sec], by rw [sec], frame⟩
  · have acts : logAck v s = modSec (fun x => { x with ack := v }) s := if_pos reached
    obtain ⟨t, ends, sec, frame⟩ := exec_staged_modSec (p := .sec) (i := 0) on acts
    exact ⟨t, ends, by rw [sec], frame⟩

end Sys2Proof.Machine

/-! SUPPORT. Output faults and test pulses: the stop of an arm whose output fails, and the test of a channel that is on (R399, R411 to
R414). -/

namespace Sys2Proof.Machine

variable {s t u : State} {a b : Arm} {p : Pg} {i m n cause : Nat} {c : Fin 2} {f : SafetyUnit → SafetyUnit}

-- Frames

/-- A state without the safety unit, the register file and the host link. -/
def safless (s : State) : State := { quiet s with saf := {} }

theorem safless_of_quiet (h : quiet t = quiet s) : safless t = safless s := congrArg (fun x : State => { x with saf := {} }) h

theorem eq_of_safless (h : safless t = safless s) : t = { s with saf := t.saf, regs := t.regs, link := t.link } :=
  (congrArg (fun x : State => { x with saf := t.saf, regs := t.regs, link := t.link }) h :)

theorem safless_modSaf : safless (modSaf f s) = safless s := rfl

theorem writes_modSaf {l : List Nat} : Writes l s (modSaf f s) := writes_of_regs rfl

theorem reg_modSaf {off : Nat} : reg (modSaf f s) p i off = reg s p i off := rfl

theorem regKept_modSaf {k : Nat} : RegKept k s (modSaf f s) := regKept_of_regs rfl

/-- An event that the safety unit's change brings with it. -/
theorem saf_event : (count p i n (irq p i m (modSaf f s))).saf = f s.saf := by rw [count_saf, irq_saf, modSaf_saf]

-- Demands that meet a test pulse (R414)

/-- A demand changes at most the test pulse that runs, and begins none. -/
theorem meetTest_eq {o : Nat} : ∃ x, meetTest o s = modSaf (fun u => { u with test := x }) s ∧ (s.saf.test = none → x = none) := by
  unfold meetTest
  split
  · next x c d test =>
    split
    · exact ⟨_, rfl, fun none => nomatch test.symm.trans none⟩
    · exact ⟨s.saf.test, rfl, id⟩
  · exact ⟨s.saf.test, rfl, id⟩

-- STO of an arm (R399)

/-- The outputs with the pair and the brake of an arm off. -/
def armOff (a : Arm) (o : SafeOutputs) : SafeOutputs := { o with
  stoA := putBit o.stoA a.val false, stoB := putBit o.stoB a.val false, stoPend := putBit o.stoPend a.val false
  sbc := putBit o.sbc a.val false }

/-- An arm's safety state in STO. -/
def stoppedArm (cause : Nat) (r : ArmSafety) : ArmSafety := { r with
  st := 3, sbcAt := none, fallPend := false
  cause := if r.st = 0 then cause else r.cause
  noss1 := r.noss1 || r.st == 0 || (cause == 8) }

theorem torqueOff_armOff {o : SafeOutputs} : torqueOff a (armOff a o) :=
  ⟨getLsbD_setBit_same a.isLt, getLsbD_setBit_same a.isLt, getLsbD_setBit_same a.isLt⟩

theorem brakeOn_pairOff_eq : ∃ x, brakeOn a (pairOff a s) = modSaf (fun u => { u with out := armOff a u.out, test := x }) s ∧
    (s.saf.test = none → x = none) := by
  obtain ⟨x, met, none⟩ := meetTest_eq (o := a.val) (s := modOut (fun o => { o with
    stoA := putBit o.stoA a.val false, stoB := putBit o.stoB a.val false, stoPend := putBit o.stoPend a.val false }) s)
  exact ⟨x, by rw [pairOff, met]; rfl, none⟩

theorem dropPlan_saf : (dropPlan a s).saf = s.saf := (congrArg State.saf (dropPlan_eq (a := a) (s := s)).2.2 :)
theorem dropPlan_regs : (dropPlan a s).regs = s.regs := (congrArg State.regs (dropPlan_eq (a := a) (s := s)).2.2 :)
theorem dropPlan_clk : (dropPlan a s).clk = s.clk := (congrArg State.clk (dropPlan_eq (a := a) (s := s)).2.2 :)

theorem stoArm_kept (h : 3 ≤ (s.saf.arm[a]).st) : stoArm cause a s = s := if_pos h

theorem stoArm_acts (h : (s.saf.arm[a]).st < 3) : stoArm cause a s =
    dropPlan a (stopRing a (modArmSaf a (stoppedArm cause) (count .saf 0 1 (irq .saf 0 safSto (brakeOn a (pairOff a s)))))) :=
  if_neg (Nat.not_le.mpr h)

/-- The safety unit after the STO of one arm. -/
theorem stoArm_saf (h : (s.saf.arm[a]).st < 3) : ∃ x, (stoArm cause a s).saf =
    { s.saf with arm := vmod s.saf.arm a (stoppedArm cause), out := armOff a s.saf.out, test := x } ∧ (s.saf.test = none → x = none) := by
  obtain ⟨x, off, none⟩ := brakeOn_pairOff_eq (a := a) (s := s)
  refine ⟨x, ?_, none⟩
  rw [stoArm_acts h, dropPlan_saf, stopRing_saf, modArmSaf, modSaf_saf, count_saf, irq_saf, off, modSaf_saf]

/-- The registers that an STO may touch. -/
def stoOffs : List Nat := (Reg.CNT + 4 * 1) :: takeOffs

theorem writes_stoArm : Writes stoOffs s (stoArm cause a s) := by
  by_cases h : 3 ≤ (s.saf.arm[a]).st
  · rw [stoArm_kept h]
    exact .refl
  · obtain ⟨x, off, -⟩ := brakeOn_pairOff_eq (a := a) (s := s)
    rw [stoArm_acts (Nat.not_le.mp h), off]
    have told (g : SafetyUnit → SafetyUnit) : Writes stoOffs s (count .saf 0 1 (irq .saf 0 safSto (modSaf g s))) :=
      writes_modSaf.trans ((writes_event (by decide)).mono (by decide))
    have stopped (u : State) : Writes stoOffs u (dropPlan a (stopRing a (modArmSaf a (stoppedArm cause) u))) :=
      Writes.trans (Writes.trans (t := modArmSaf a (stoppedArm cause) u) writes_modSaf (writes_haltOne.mono (by decide)))
        (writes_of_regs dropPlan_regs)
    exact (told _).trans (stopped _)

theorem writes_decideSto : Writes stoOffs s (decideSto cause a s) := by
  have noted : Writes stoOffs s (noteDemand cause (maskOf (coupledArms s a)) s) := writes_modSaf
  exact noted.trans (writes_forEach (fun _ _ => writes_stoArm) _)

/-- An STO decision for an arm that is not coupled. -/
theorem decideSto_alone (alone : (s.ring[a]).coupled = none) :
    decideSto cause a s = stoArm cause a (noteDemand cause (maskOf [a]) s) := by
  rw [decideSto, coupledArms_alone alone]
  exact congrArg (fun c => stoArm c a (noteDemand cause (maskOf [a]) s)) (if_pos rfl)

/-- Latched output faults stay, and no test pulse begins. -/
theorem decideSto_latched : (decideSto cause a s).saf.out.fault = s.saf.out.fault ∧ (s.saf.test = none → (decideSto cause a s).saf.test = none) := by
  rw [decideSto]
  refine forEach_holds (P := fun u => u.saf.out.fault = s.saf.out.fault ∧ (s.saf.test = none → u.saf.test = none)) (fun b u h => ?_) _
    (by rw [noteDemand, modSaf_saf]; exact ⟨rfl, id⟩)
  by_cases low : (u.saf.arm[b]).st < 3
  · obtain ⟨x, saf, none⟩ := stoArm_saf (cause := coupledCause a b cause) low
    rw [saf]
    exact ⟨h.1, fun e => none (h.2 e)⟩
  · rw [stoArm_kept (Nat.not_lt.mp low)]
    exact h

-- OUTPUT_FAULT (R411)

/-- The fault of an output is latched, which interrupts. -/
def faultLatched (o : Nat) (s : State) : State :=
  irq .sio 0 sioOutFault (modSaf (fun u => { u with out := { u.out with fault := putBit u.out.fault o true } }) s)

theorem faultLatched_saf {o : Nat} : (faultLatched o s).saf = { s.saf with out := { s.saf.out with fault := putBit s.saf.out.fault o true } } :=
  irq_saf

theorem faultLatched_arm {o : Nat} : (faultLatched o s).saf.arm = s.saf.arm := by rw [faultLatched_saf]

theorem faultLatched_fault {o : Nat} (ho : o < 28) : (faultLatched o s).saf.out.fault.getLsbD o = true := by
  rw [faultLatched_saf]
  exact getLsbD_setBit_same ho

theorem writes_faultLatched {o : Nat} : Writes [Reg.IRQ_STAT] s (faultLatched o s) := writes_modSaf.trans writes_irq

theorem outputFault_cell {o : Nat} (h : ¬ (o < 12 ∨ 16 ≤ o)) : outputFault o s = meetTest o (faultLatched o s) := if_neg h

theorem outputFault_arm {o : Nat} (h : o = a.val ∨ o = 16 + a.val) : outputFault o s = decideSto 12 a (faultLatched o s) := by
  have ha := a.isLt
  have named : (⟨(if o < 12 then o else o - 16) % 12, Nat.mod_lt _ (by decide)⟩ : Arm) = a := Fin.ext <| by
    show (if o < 12 then o else o - 16) % 12 = a.val
    split <;> omega
  have acts : outputFault o s = decideSto 12 ⟨(if o < 12 then o else o - 16) % 12, Nat.mod_lt _ (by decide)⟩ (faultLatched o s) :=
    if_pos (by omega)
  rw [acts, named]

/-- Whichever output fails, its fault is latched, no test pulse begins, and no register but those of a stop is touched. -/
theorem outputFault_latched {o : Nat} (ho : o < 28) : (outputFault o s).saf.out.fault.getLsbD o = true ∧
    (s.saf.test = none → (outputFault o s).saf.test = none) ∧ Writes stoOffs s (outputFault o s) := by
  have latched : Writes stoOffs s (faultLatched o s) := writes_faultLatched.mono (by decide)
  have test : (faultLatched o s).saf.test = s.saf.test := by rw [faultLatched_saf]
  by_cases h : o < 12 ∨ 16 ≤ o
  · have acts : outputFault o s = decideSto 12 ⟨(if o < 12 then o else o - 16) % 12, Nat.mod_lt _ (by decide)⟩ (faultLatched o s) := if_pos h
    rw [acts, decideSto_latched.1, ← test]
    exact ⟨faultLatched_fault ho, decideSto_latched.2, latched.trans writes_decideSto⟩
  · obtain ⟨x, met, none⟩ := meetTest_eq (o := o) (s := faultLatched o s)
    rw [outputFault_cell h, met, ← test]
    exact ⟨faultLatched_fault ho, none, latched.trans writes_modSaf⟩

theorem exec_outputFault_cell {o : Fin 28} (on : s.clk.on = true) (wf : regsWf s.regs = true) (h : 12 ≤ o.val) (h' : o.val < 16) :
    ∃ t, exec (.outputFault o) s = .next t ∧ t.saf.out.fault.getLsbD o.val = true ∧ t.saf.arm = s.saf.arm ∧
      bit (reg t .sio 0 Reg.IRQ_STAT) sioOutFault = true ∧ t = { s with saf := t.saf, regs := t.regs, link := t.link } := by
  obtain ⟨x, met, -⟩ := meetTest_eq (o := o.val) (s := faultLatched o.val s)
  have acts : outputFault o.val s = modSaf (fun u => { u with test := x }) (faultLatched o.val s) := (outputFault_cell (by omega)).trans met
  exact ⟨_, (run_on on).trans (congrArg _ acts), faultLatched_fault o.isLt, faultLatched_arm, irq_bit (s := modSaf _ s) wf (by decide),
    eq_of_safless (safless_modSaf.trans ((safless_of_quiet quiet_irq).trans safless_modSaf))⟩

theorem exec_outputFault_arm {o : Fin 28} (on : s.clk.on = true) (h : o.val = a.val ∨ o.val = 16 + a.val)
    (alone : (s.ring[a]).coupled = none) (low : (s.saf.arm[a]).st < 3) :
    ∃ t, exec (.outputFault o) s = .next t ∧ t.saf.out.fault.getLsbD o.val = true ∧ (t.saf.arm[a]).st = 3 ∧
      ((s.saf.arm[a]).st = 0 → (t.saf.arm[a]).cause = 12) ∧ t.saf.out.stoA.getLsbD a.val = false ∧
      t.saf.out.stoB.getLsbD a.val = false ∧ t.saf.out.sbc.getLsbD a.val = false ∧ (∀ b : Arm, b ≠ a → t.saf.arm[b] = s.saf.arm[b]) := by
  have ring : (faultLatched o.val s).ring = s.ring := by rw [faultLatched, irq_ring, modSaf_ring]
  have acts := (outputFault_arm (s := s) h).trans (decideSto_alone (by rw [ring]; exact alone))
  have arm : (faultLatched o.val s).saf.arm = s.saf.arm := faultLatched_arm
  obtain ⟨x, saf, -⟩ := stoArm_saf (cause := 12) (a := a) (s := noteDemand 12 (maskOf [a]) (faultLatched o.val s))
    (by rw [noteDemand, modSaf_saf, arm]; exact low)
  refine ⟨_, (run_on on).trans (congrArg _ acts), ?_⟩
  rw [saf, noteDemand, modSaf_saf]
  dsimp only
  rw [arm, vmod_same]
  obtain ⟨stoA, stoB, sbc⟩ := torqueOff_armOff (a := a) (o := (faultLatched o.val s).saf.out)
  exact ⟨faultLatched_fault o.isLt, rfl, fun free => if_pos free, stoA, stoB, sbc, fun b hb => vmod_other hb⟩

-- TEST_PULSE, TEST_PULSE_RESULT (R412, R414)

theorem testPulse_idle {o : Sixteen}
    (h : s.saf.test.isSome = true ∨ testSlotNow s o.val c.val = false ∨ nsOf s < (s.saf.testAt[o])[c] + 10 ^ 9) : testPulse o c s = s := by
  refine if_neg ?_
  rintro ⟨free, -, slot, due⟩
  obtain h | h | h := h
  · rw [free] at h
    exact nomatch h
  · exact nomatch h.symm.trans slot
  · exact absurd due (Nat.not_le.mpr h)

section Result
variable {o : Sixteen} (lit : channelOn s o.val c = true) (test : s.saf.test = some (o.val, c.val, false))
  (due : (s.saf.testAt[o])[c] + fld s .sio 0 Reg.SIO_TP_CFG 9 0 * 1000 ≤ nsOf s)
include lit test due

/-- The test that ran has ended with the result `bad`. -/
def testEnded (o : Sixteen) (c : Fin 2) (bad : Bool) (s : State) : State :=
  modSaf (fun u => { u with test := none, tpLast := tpLast bad false c.val o.val }) s

theorem testPulseResult_passed : testPulseResult o c true true s = count .sio 0 2 (testEnded o c false s) := by
  simp only [testPulseResult, test, due, lit, and_self, if_true, Bool.false_or, Bool.not_true, Bool.false_eq_true, if_false]
  rfl

theorem testPulseResult_failed {x y : Bool} (bad : (x && y) = false) : testPulseResult o c x y s =
    outputFault o.val (count .sio 0 3 (irq .sio 0 sioTpFail (testEnded o c true s))) := by
  simp only [testPulseResult, test, due, lit, bad, and_self, if_true, Bool.false_or, Bool.not_true, Bool.not_false, Bool.and_self,
    Bool.false_eq_true, if_false]
  rfl

theorem exec_testPulseResult_passed (on : s.clk.on = true) (wf : regsWf s.regs = true) :
    ∃ t, exec (.testPulseResult o c true true) s = .next t ∧ t.saf.test = none ∧
      t.saf.out = s.saf.out ∧ reg t .sio 0 (Reg.CNT + 8) = reg s .sio 0 (Reg.CNT + 8) + 1 ∧
      t = { s with saf := { s.saf with test := none, tpLast := t.saf.tpLast }, regs := t.regs, link := t.link } := by
  have saf : (count .sio 0 2 (testEnded o c false s)).saf = { s.saf with test := none, tpLast := tpLast false false c.val o.val } := count_saf
  refine ⟨_, (run_on on).trans (congrArg _ (testPulseResult_passed lit test due)), by rw [saf], by rw [saf],
    count_reg (n := 2) (s := testEnded o c false s) wf (by decide), ?_⟩
  rw [saf]
  exact eq_of_quiet (quiet_count (s := testEnded o c false s))

theorem exec_testPulseResult_failed {x y : Bool} (on : s.clk.on = true) (wf : regsWf s.regs = true) (bad : (x && y) = false) :
    ∃ t, exec (.testPulseResult o c x y) s = .next t ∧
      t.saf.test = none ∧ t.saf.out.fault.getLsbD o.val = true ∧ bit (reg t .sio 0 Reg.IRQ_STAT) sioTpFail = true ∧
      reg t .sio 0 (Reg.CNT + 12) = reg s .sio 0 (Reg.CNT + 12) + 1 := by
  have ended : (count .sio 0 3 (irq .sio 0 sioTpFail (testEnded o c true s))).saf.test = none := congrArg SafetyUnit.test saf_event
  have told := event_flag (p := .sio) (i := 0) (n := 3) (m := sioTpFail) (s := testEnded o c true s) wf (by decide)
  have counts := event_counts (p := .sio) (i := 0) (n := 3) (m := sioTpFail) (s := testEnded o c true s) wf (by decide)
  have wfu : regsWf (count .sio 0 3 (irq .sio 0 sioTpFail (testEnded o c true s))).regs = true :=
    regsWf_count (regsWf_irq (s := testEnded o c true s) wf)
  have acts := testPulseResult_failed lit test due bad
  generalize count .sio 0 3 (irq .sio 0 sioTpFail (testEnded o c true s)) = u at ended told counts wfu acts
  obtain ⟨latched, none, stops⟩ := outputFault_latched (s := u) (o := o.val) (by omega)
  exact ⟨_, (run_on on).trans (congrArg _ acts), none ended, latched, stops.flag wfu told, (stops.reg wfu (by decide)).trans counts⟩

end Result

end Sys2Proof.Machine

/-! SUPPORT. Safety inputs: the levels that the hubs read, what an input of trip function 1 switches off, and channels that disagree too
long (R398, R407, R408). -/

namespace Sys2Proof.Machine

variable {s t u : State} {i : Sixteen} {a : Arm} {c : Fin 2} {h g : Hub} {x : Bool} {m : BitVec 12} {hs : List Hub} {f : SafetyUnit → SafetyUnit}
  {hubs : Vector Bool 2}

-- Frames

/-- A state without the single-hub flag, the safety unit, the register file and the host link. -/
def agreeless (s : State) : State := { safless s with clk := { s.clk with single := false } }

theorem agreeless_of_safless (h : safless t = safless s) : agreeless t = agreeless s :=
  congrArg (fun x : State => { x with clk := { x.clk with single := false } }) h

theorem eq_of_agreeless (h : agreeless t = agreeless s) :
    t = { s with clk := { s.clk with single := t.clk.single }, saf := t.saf, regs := t.regs, link := t.link } :=
  (congrArg (fun x : State => { x with clk := { x.clk with single := t.clk.single }, saf := t.saf, regs := t.regs, link := t.link }) h :)

theorem exchanged_eq : ∃ x, exchanged s = { s with clk := { s.clk with single := x } } := by
  unfold exchanged
  split
  · exact ⟨s.clk.single, rfl⟩
  · exact ⟨true, rfl⟩

-- Levels of the channels (R407)

/-- The channels `c` of the inputs as a hub reads them. -/
def levels (s : State) (c : Fin 2) (h : Hub) : BitVec 16 := if c = 0 then s.saf.chanA[h] else s.saf.chanB[h]

theorem levels_congr (chanA : t.saf.chanA = s.saf.chanA) (chanB : t.saf.chanB = s.saf.chanB) : levels t c h = levels s c h := by
  rw [levels, levels, chanA, chanB]

theorem levels_putChannel {n : Nat} : levels (putChannel n c x h s) c g = if g = h then putBit (levels s c h) n x else levels s c g := by
  by_cases e : g = h
  · subst e
    by_cases first : c = 0
    · simp only [levels, putChannel, modSaf_saf, if_pos first, vmod_same, if_true]
    · simp only [levels, putChannel, modSaf_saf, if_neg first, vmod_same, if_true]
  · by_cases first : c = 0
    · simp only [levels, putChannel, modSaf_saf, if_pos first, vmod_other e, if_neg e]
    · simp only [levels, putChannel, modSaf_saf, if_neg first, vmod_other e, if_neg e]

/-- The hubs of a list read the new level, the others what they read before. -/
theorem levels_putChannels : (levels (forEach hs (putChannel i.val c x) s) c g).getLsbD i.val =
    if g ∈ hs then x else (levels s c g).getLsbD i.val := by
  induction hs generalizing s with
  | nil => exact (if_neg List.not_mem_nil).symm
  | cons h hs ih =>
    have first : (levels (putChannel i.val c x h s) c g).getLsbD i.val = if g = h then x else (levels s c g).getLsbD i.val := by
      rw [levels_putChannel]
      split
      · exact getLsbD_setBit_same i.isLt
      · rfl
    refine ih.trans ?_
    rw [first]
    simp only [List.mem_cons]
    by_cases rest : g ∈ hs
    · rw [if_pos rest, if_pos (.inr rest)]
    · simp only [rest, or_false, if_false]

theorem putChannel_apart {n : Nat} : safless (putChannel n c x h s) = safless s ∧ (putChannel n c x h s).regs = s.regs ∧
    (putChannel n c x h s).saf.out = s.saf.out ∧ (putChannel n c x h s).saf.arm = s.saf.arm := by
  unfold putChannel
  refine ⟨rfl, rfl, ?_⟩
  rw [modSaf_saf]
  split
  · exact ⟨rfl, rfl⟩
  · exact ⟨rfl, rfl⟩

/-- The hubs that drive and see the change. -/
def hubsSeeing (s : State) (hubs : Vector Bool 2) : List Hub := (hubsAlive s).filter fun h => hubs[h]

theorem mem_hubsAlive : h ∈ hubsAlive s ↔ s.clk.alive[h] = true := by
  have listed : h ∈ [(0 : Hub), 1] := by
    revert h
    decide
  rw [hubsAlive, List.mem_filter, and_iff_right listed]

theorem mem_hubsSeeing : h ∈ hubsSeeing s hubs ↔ (s.clk.alive[h] && hubs[h]) = true := by
  rw [hubsSeeing, List.mem_filter, mem_hubsAlive, Bool.and_eq_true]

theorem hubsSeeing_both (alive0 : s.clk.alive[(0 : Hub)] = true) (alive1 : s.clk.alive[(1 : Hub)] = true) (sees0 : hubs[(0 : Hub)] = true)
    (sees1 : hubs[(1 : Hub)] = true) : hubsSeeing s hubs = [0, 1] := by
  simp only [hubsSeeing, hubsAlive, List.filter_cons, List.filter_nil, alive0, alive1, sees0, sees1, if_true]

-- SAFETY_INPUT_FILTER, part by part (R398, R407, R408)

/-- The level changes at the hubs that see it. -/
def levelPut (i : Sixteen) (c : Fin 2) (x : Bool) (hubs : Vector Bool 2) (s : State) : State :=
  exchanged (forEach (hubsSeeing s hubs) (putChannel i.val c x) s)

/-- Channels that come to differ are noted. -/
def differenceNoted (i : Sixteen) (differed : Bool) (s : State) : State :=
  if channelsDiffer s i && !differed then modSaf (fun u => { u with discAt := vset u.discAt i (nsOf s) }) s else s

/-- The hubs have read the level, and one that has not is counted. -/
def levelRead (i : Sixteen) (c : Fin 2) (x : Bool) (hubs : Vector Bool 2) (s : State) : State :=
  let u := differenceNoted i (channelsDiffer s i) (levelPut i c x hubs s)
  countIf (decide ((hubsSeeing s hubs).length < (hubsAlive u).length)) .sio 0 7 u

/-- The hubs of a list trip the arms of a mask. -/
def armsTripped (hs : List Hub) (m : BitVec 12) (s : State) : State :=
  count .sio 0 0 (irq .sio 0 sioTrip (forEach hs (fun h => tripChannel h m) s))

/-- A faulted input whose channels are off together is noted. -/
def bothOffNoted (i : Sixteen) (s : State) : State :=
  if s.saf.inFault.getLsbD i.val && (!(s.saf.chanA[s.clk.refHub]).getLsbD i.val && !(s.saf.chanB[s.clk.refHub]).getLsbD i.val) then
    modSaf (fun u => { u with bothOff := putBit u.bothOff i.val true }) s
  else s

/-- The arms that an input maps (R398). -/
def inputMask (s : State) (i : Nat) : BitVec 12 := BitVec.ofNat 12 (field (siCfg s i) 31 20)

theorem inputFilter_eq : inputFilter i c x hubs s = bothOffNoted i
    (if field (siCfg (levelRead i c x hubs s) i.val) 19 16 = 1 ∧ x = false ∧ hubsSeeing s hubs ≠ [] then
      armsTripped (hubsSeeing s hubs) (inputMask (levelRead i c x hubs s) i.val) (levelRead i c x hubs s)
    else levelRead i c x hubs s) := rfl

/-- The registers that the filter may touch before an input trips. -/
def readOffs : List Nat := [Reg.CNT + 4 * 7, Reg.CNT_OVF, Reg.IRQ_STAT]

/-- What the filter keeps of a state while it reads a level. -/
structure LevelStep (s t : State) : Prop extends Writes readOffs s t where
  rest : agreeless t = agreeless s
  out : t.saf.out = s.saf.out
  arm : t.saf.arm = s.saf.arm

theorem levelStep_levelPut : LevelStep s (levelPut i c x hubs s) := by
  obtain ⟨y, single⟩ := exchanged_eq (s := forEach (hubsSeeing s hubs) (putChannel i.val c x) s)
  have put := forEach_preserves (g := fun u : State => (safless u, u.regs, u.saf.out, u.saf.arm)) (f := putChannel i.val c x)
    (fun h u => by
      obtain ⟨rest, regs, out, arm⟩ := putChannel_apart (n := i.val) (c := c) (x := x) (h := h) (s := u)
      simp only [rest, regs, out, arm]) (hubsSeeing s hubs) s
  simp only [Prod.mk.injEq] at put
  obtain ⟨rest, regs, out, arm⟩ := put
  have frame : agreeless (exchanged (forEach (hubsSeeing s hubs) (putChannel i.val c x) s)) =
      agreeless (forEach (hubsSeeing s hubs) (putChannel i.val c x) s) := by rw [single]; rfl
  refine ⟨?_, frame.trans (agreeless_of_safless rest), ?_, ?_⟩ <;> rw [levelPut, single]
  · exact writes_of_regs regs
  · exact out
  · exact arm

theorem levelStep_levelRead : LevelStep s (levelRead i c x hubs s) := by
  have put := levelStep_levelPut (i := i) (c := c) (x := x) (hubs := hubs) (s := s)
  have noted : LevelStep s (differenceNoted i (channelsDiffer s i) (levelPut i c x hubs s)) := by
    unfold differenceNoted
    split
    · exact ⟨put.toWrites.trans writes_modSaf, put.rest, put.out, put.arm⟩
    · exact put
  refine ⟨noted.toWrites.trans (writes_countIf (by decide)),
    (agreeless_of_safless (safless_of_quiet quiet_countIf)).trans noted.rest, ?_, ?_⟩
  · rw [levelRead, countIf_saf, noted.out]
  · rw [levelRead, countIf_saf, noted.arm]

theorem levels_levelRead : (levels (levelRead i c x hubs s) c h).getLsbD i.val =
    if s.clk.alive[h] && hubs[h] then x else (levels s c h).getLsbD i.val := by
  have noted (b : Bool) (u : State) : levels (differenceNoted i b u) c h = levels u c h := by
    unfold differenceNoted
    split
    · rfl
    · rfl
  have counted (b : Bool) (u : State) : levels (countIf b .sio 0 7 u) c h = levels u c h :=
    levels_congr (congrArg SafetyUnit.chanA countIf_saf) (congrArg SafetyUnit.chanB countIf_saf)
  obtain ⟨y, single⟩ := exchanged_eq (s := forEach (hubsSeeing s hubs) (putChannel i.val c x) s)
  rw [levelRead, counted, noted, levelPut, single]
  refine (levels_putChannels (s := s)).trans ?_
  simp only [mem_hubsSeeing]

/-- The configuration of an input is none of the registers that the filter touches. -/
theorem siCfg_levelRead (wf : regsWf s.regs = true) : siCfg (levelRead i c x hubs s) i.val = siCfg s i.val := by
  have hi := i.isLt
  refine levelStep_levelRead.toWrites.reg wf ⟨by simp only [Reg.SIO_SI_CFG]; omega, ?_⟩
  simp only [readOffs, Reg.SIO_SI_CFG, Reg.CNT, Reg.CNT_OVF, Reg.IRQ_STAT, List.mem_cons, List.not_mem_nil, or_false]
  omega

-- The trip (R398)

/-- The outputs once a hub has switched its channel of the pairs of a mask off, and both where it drives alone. -/
def tripped (h : Hub) (alone : Bool) (m : BitVec 12) (o : SafeOutputs) : SafeOutputs := { o with
  stoA := if h = 0 ∨ alone = true then o.stoA &&& ~~~m else o.stoA
  stoB := if h = 1 ∨ alone = true then o.stoB &&& ~~~m else o.stoB
  stoPend := o.stoPend &&& ~~~m }

theorem meetTests_eq (l : List Arm) :
    ∃ y, forEach l (fun a => meetTest a.val) s = modSaf (fun u => { u with test := y }) s := by
  refine forEach_holds (P := fun u => ∃ y, u = modSaf (fun u => { u with test := y }) s) (fun a u hu => ?_) l ⟨s.saf.test, rfl⟩
  obtain ⟨y, rfl⟩ := hu
  obtain ⟨z, met, -⟩ := meetTest_eq (o := a.val) (s := modSaf (fun u => { u with test := y }) s)
  exact ⟨z, met⟩

theorem tripChannel_eq : ∃ b y, tripChannel h m s = modSaf (fun u => { u with out := tripped h b m u.out, test := y }) s := by
  have acts : ∃ b, tripChannel h m s = forEach (allArms.filter fun (a : Arm) => m.getLsbD a.val) (fun a => meetTest a.val)
      (modSaf (fun u => { u with out := tripped h b m u.out }) s) := by
    refine ⟨!s.clk.alive[other h], ?_⟩
    simp only [tripped, Bool.not_eq_true']
    rfl
  obtain ⟨b, acts⟩ := acts
  obtain ⟨y, met⟩ := meetTests_eq (s := modSaf (fun u => { u with out := tripped h b m u.out }) s)
    (allArms.filter fun (a : Arm) => m.getLsbD a.val)
  exact ⟨b, y, acts.trans met⟩

theorem getLsbD_cut {w : BitVec 12} {n : Nat} : (w &&& ~~~m).getLsbD n = (w.getLsbD n && !m.getLsbD n) := by
  by_cases hn : n < 12
  · simp only [BitVec.getLsbD_and, BitVec.getLsbD_not, hn, decide_true, Bool.true_and]
  · rw [BitVec.getLsbD_of_ge _ _ (Nat.not_lt.mp hn), BitVec.getLsbD_of_ge w _ (Nat.not_lt.mp hn), Bool.false_and]

/-- Hub 0 switches channel a of the arm's pair off, and hub 1 does not switch it on. -/
theorem tripped_stoA {n : Nat} {b d : Bool} {o : SafeOutputs} (named : m.getLsbD n = true) :
    (tripped 1 d m (tripped 0 b m o)).stoA.getLsbD n = false := by
  have off : (o.stoA &&& ~~~m).getLsbD n = false := by rw [getLsbD_cut, named, Bool.not_true, Bool.and_false]
  cases d with
  | false => exact off
  | true => exact getLsbD_cut.trans (by rw [named, Bool.not_true, Bool.and_false])

/-- Hub 1 switches channel b of the arm's pair off. -/
theorem tripped_stoB {n : Nat} {b d : Bool} {o : SafeOutputs} (named : m.getLsbD n = true) :
    (tripped 1 d m (tripped 0 b m o)).stoB.getLsbD n = false := by
  refine Eq.trans (b := (_ &&& ~~~m).getLsbD n) rfl ?_
  rw [getLsbD_cut, named, Bool.not_true, Bool.and_false]

/-- Both hubs trip: the pairs of the mask's arms are off in both channels. -/
theorem armsTripped_both {n : Nat} (named : m.getLsbD n = true) :
    (armsTripped [0, 1] m s).saf.out.stoA.getLsbD n = false ∧ (armsTripped [0, 1] m s).saf.out.stoB.getLsbD n = false := by
  obtain ⟨b, y, first⟩ := tripChannel_eq (h := 0) (m := m) (s := s)
  obtain ⟨d, z, second⟩ := tripChannel_eq (h := 1) (m := m) (s := tripChannel 0 m s)
  have out : (armsTripped [0, 1] m s).saf.out = tripped 1 d m (tripped 0 b m s.saf.out) := by
    rw [armsTripped, count_saf, irq_saf, show forEach [0, 1] (fun h => tripChannel h m) s = tripChannel 1 m (tripChannel 0 m s) from rfl,
      second, modSaf_saf, first, modSaf_saf]
  rw [out]
  exact ⟨tripped_stoA named, tripped_stoB named⟩

/-- The arms' states, the channels, and everything else outside the outputs and the test that runs stay through a trip. -/
theorem trips_apart : ∃ o y, forEach hs (fun h => tripChannel h m) s = modSaf (fun u => { u with out := o, test := y }) s := by
  refine forEach_holds (P := fun u => ∃ o y, u = modSaf (fun u => { u with out := o, test := y }) s) (fun h u hu => ?_) hs
    ⟨s.saf.out, s.saf.test, rfl⟩
  obtain ⟨o, y, rfl⟩ := hu
  obtain ⟨b, z, acts⟩ := tripChannel_eq (h := h) (m := m) (s := modSaf (fun u => { u with out := o, test := y }) s)
  exact ⟨_, z, acts⟩

theorem armsTripped_saf : ∃ o y, (armsTripped hs m s).saf = { s.saf with out := o, test := y } ∧ safless (armsTripped hs m s) = safless s := by
  obtain ⟨o, y, trips⟩ := trips_apart (hs := hs) (m := m) (s := s)
  refine ⟨o, y, ?_, ?_⟩
  · rw [armsTripped, trips, saf_event]
  · rw [armsTripped, trips, safless_of_quiet quiet_event, safless_modSaf]

theorem armsTripped_told (wf : regsWf s.regs = true) : bit (reg (armsTripped hs m s) .sio 0 Reg.IRQ_STAT) sioTrip = true ∧
    reg (armsTripped hs m s) .sio 0 Reg.CNT = reg s .sio 0 Reg.CNT + 1 := by
  obtain ⟨o, y, trips⟩ := trips_apart (hs := hs) (m := m) (s := s)
  rw [armsTripped, trips]
  exact ⟨event_flag (s := modSaf _ s) wf (by decide), event_counts (n := 0) (s := modSaf _ s) wf (by decide)⟩

/-- A note on a faulted input leaves outputs, arms and channels, the registers, and everything outside the safety unit. -/
theorem bothOffNoted_eq : ∃ y, bothOffNoted i s = modSaf (fun u => { u with bothOff := y }) s := by
  unfold bothOffNoted
  split
  · exact ⟨_, rfl⟩
  · exact ⟨s.saf.bothOff, rfl⟩

theorem inputMask_getLsbD {n : Nat} : (inputMask s n).getLsbD a.val = bit (siCfg s n) (20 + a.val) := by
  have ha := a.isLt
  rw [inputMask, BitVec.getLsbD_ofNat, testBit_field (by decide), decide_eq_true ha, decide_eq_true (by omega : a.val ≤ 31 - 20)]
  rfl

/-- What the filter does after the level is read: it trips, or it does not. -/
theorem inputFilter_cases (wf : regsWf s.regs = true) :
    ∃ y, (field (siCfg s i.val) 19 16 = 1 ∧ x = false ∧ hubsSeeing s hubs ≠ [] ∧ inputFilter i c x hubs s =
        modSaf (fun u => { u with bothOff := y }) (armsTripped (hubsSeeing s hubs) (inputMask s i.val) (levelRead i c x hubs s))) ∨
      (¬ (field (siCfg s i.val) 19 16 = 1 ∧ x = false ∧ hubsSeeing s hubs ≠ []) ∧
        inputFilter i c x hubs s = modSaf (fun u => { u with bothOff := y }) (levelRead i c x hubs s)) := by
  rw [inputFilter_eq, inputMask, siCfg_levelRead wf, ← inputMask]
  by_cases trips : field (siCfg s i.val) 19 16 = 1 ∧ x = false ∧ hubsSeeing s hubs ≠ []
  · rw [if_pos trips]
    obtain ⟨y, noted⟩ := bothOffNoted_eq (i := i) (s := armsTripped (hubsSeeing s hubs) (inputMask s i.val) (levelRead i c x hubs s))
    exact ⟨y, .inl ⟨trips.1, trips.2.1, trips.2.2, noted⟩⟩
  · rw [if_neg trips]
    obtain ⟨y, noted⟩ := bothOffNoted_eq (i := i) (s := levelRead i c x hubs s)
    exact ⟨y, .inr ⟨trips, noted⟩⟩

/-- Levels, arms and the rest of the state do not hang on whether the input trips. -/
theorem inputFilter_read (wf : regsWf s.regs = true) : levels (inputFilter i c x hubs s) c h = levels (levelRead i c x hubs s) c h ∧
    (inputFilter i c x hubs s).saf.arm = s.saf.arm ∧ agreeless (inputFilter i c x hubs s) = agreeless s := by
  have read := levelStep_levelRead (i := i) (c := c) (x := x) (hubs := hubs) (s := s)
  obtain ⟨y, ⟨-, -, -, acts⟩ | ⟨-, acts⟩⟩ := inputFilter_cases (i := i) (c := c) (x := x) (hubs := hubs) (s := s) wf <;> rw [acts]
  · obtain ⟨o, z, saf, rest⟩ := armsTripped_saf (hs := hubsSeeing s hubs) (m := inputMask s i.val) (s := levelRead i c x hubs s)
    refine ⟨levels_congr ?_ ?_, ?_, (agreeless_of_safless (safless_modSaf.trans rest)).trans read.rest⟩ <;> rw [modSaf_saf, saf]
    exact read.arm
  · exact ⟨rfl, read.arm, read.rest⟩

theorem inputFilter_untripped (wf : regsWf s.regs = true) (other : field (siCfg s i.val) 19 16 ≠ 1) :
    (inputFilter i c x hubs s).saf.out = s.saf.out := by
  obtain ⟨y, ⟨trip, -⟩ | ⟨-, acts⟩⟩ := inputFilter_cases (i := i) (c := c) (x := x) (hubs := hubs) (s := s) wf
  · exact absurd trip other
  · rw [acts, modSaf_saf]
    exact levelStep_levelRead.out

/-- An input of trip function 1 goes off at both hubs: the pairs of its arms are off in both channels. -/
theorem inputFilter_trips (wf : regsWf s.regs = true) (sees : hubsSeeing s hubs = [0, 1]) (off : x = false)
    (trip : field (siCfg s i.val) 19 16 = 1) (named : bit (siCfg s i.val) (20 + a.val) = true) :
    (inputFilter i c x hubs s).saf.out.stoA.getLsbD a.val = false ∧ (inputFilter i c x hubs s).saf.out.stoB.getLsbD a.val = false ∧
      bit (reg (inputFilter i c x hubs s) .sio 0 Reg.IRQ_STAT) sioTrip = true ∧
      reg (inputFilter i c x hubs s) .sio 0 Reg.CNT = reg s .sio 0 Reg.CNT + 1 := by
  obtain ⟨y, ⟨-, -, -, acts⟩ | ⟨still, -⟩⟩ := inputFilter_cases (i := i) (c := c) (x := x) (hubs := hubs) (s := s) wf
  · have read := levelStep_levelRead (i := i) (c := c) (x := x) (hubs := hubs) (s := s)
    obtain ⟨stoA, stoB⟩ := armsTripped_both (s := levelRead i c x hubs s) (inputMask_getLsbD.trans named)
    obtain ⟨told, counts⟩ := armsTripped_told (hs := [0, 1]) (m := inputMask s i.val) (read.wf wf)
    rw [acts, sees, modSaf_saf, reg_modSaf, reg_modSaf]
    exact ⟨stoA, stoB, told, counts.trans (congrArg (· + 1) (read.toWrites.reg wf (by decide)))⟩
  · exact absurd ⟨trip, off, by rw [sees]; exact List.cons_ne_nil _ _⟩ still

theorem exec_safetyInputFilter (on : s.clk.on = true) (wf : regsWf s.regs = true) :
    ∃ t, exec (.safetyInputFilter i c x hubs) s = .next t ∧
      (∀ h : Hub, (if c = 0 then t.saf.chanA[h] else t.saf.chanB[h]).getLsbD i.val =
        (if s.clk.alive[h] && hubs[h] then x else (if c = 0 then s.saf.chanA[h] else s.saf.chanB[h]).getLsbD i.val)) ∧
      (s.clk.alive[(0 : Hub)] = true → s.clk.alive[(1 : Hub)] = true → hubs[(0 : Hub)] = true → hubs[(1 : Hub)] = true → x = false →
        field (siCfg s i.val) 19 16 = 1 → ∀ a : Arm, bit (siCfg s i.val) (20 + a.val) = true →
          t.saf.out.stoA.getLsbD a.val = false ∧ t.saf.out.stoB.getLsbD a.val = false ∧
          bit (reg t .sio 0 Reg.IRQ_STAT) sioTrip = true ∧ reg t .sio 0 Reg.CNT = reg s .sio 0 Reg.CNT + 1) ∧
      (field (siCfg s i.val) 19 16 ≠ 1 → t.saf.out = s.saf.out) ∧ t.saf.arm = s.saf.arm ∧
      t = { s with clk := { s.clk with single := t.clk.single }, saf := t.saf, regs := t.regs, link := t.link } := by
  refine ⟨inputFilter i c x hubs s, run_on on, fun h => ?_, fun alive0 alive1 sees0 sees1 off trip a named =>
    inputFilter_trips wf (hubsSeeing_both alive0 alive1 sees0 sees1) off trip named, inputFilter_untripped wf,
    (inputFilter_read (h := 0) wf).2.1, eq_of_agreeless (inputFilter_read (h := 0) wf).2.2⟩
  exact (congrArg (·.getLsbD i.val) (inputFilter_read wf).1 :).trans levels_levelRead

-- INPUT_FAULT (R408)

theorem channelsDiffer_iff : channelsDiffer s i = true ↔
    (s.saf.chanA[s.clk.refHub]).getLsbD i.val ≠ (s.saf.chanB[s.clk.refHub]).getLsbD i.val := bne_iff_ne

/-- The safety unit with an input faulted. -/
def faultedInput (i : Sixteen) (u : SafetyUnit) : SafetyUnit :=
  { u with inFault := putBit u.inFault i.val true, bothOff := putBit u.bothOff i.val false }

theorem exec_inputFault (on : s.clk.on = true) (wf : regsWf s.regs = true)
    (differ : (s.saf.chanA[s.clk.refHub]).getLsbD i.val ≠ (s.saf.chanB[s.clk.refHub]).getLsbD i.val)
    (sound : s.saf.inFault.getLsbD i.val = false) (long : (s.saf.discAt[i]) + field (siCfg s i.val) 15 7 * 10 ^ 6 < nsOf s) :
    ∃ t, exec (.inputFault i) s = .next t ∧ t.saf.inFault.getLsbD i.val = true ∧ bit (reg t .sio 0 Reg.IRQ_STAT) sioInFault = true ∧
      reg t .sio 0 (Reg.CNT + 4) = reg s .sio 0 (Reg.CNT + 4) + 1 ∧ RegsBut (eventKeys .sio 0 1) s t ∧
      t = { s with saf := { s.saf with inFault := t.saf.inFault, bothOff := t.saf.bothOff }, regs := t.regs, link := t.link } := by
  have acts : inputFault i s = count .sio 0 1 (irq .sio 0 sioInFault (modSaf (faultedInput i) s)) :=
    if_pos ⟨channelsDiffer_iff.mpr differ, sound, long⟩
  refine ⟨_, (run_on on).trans (congrArg _ acts), ?_, event_flag (s := modSaf _ s) wf (by decide),
    event_counts (n := 1) (s := modSaf _ s) wf (by decide), regsBut_of_kept wf fun k hk => regKept_modSaf.trans (regKept_event hk), ?_⟩
  · rw [saf_event]
    exact getLsbD_setBit_same i.isLt
  · rw [saf_event]
    exact eq_of_quiet (quiet_event (s := modSaf (faultedInput i) s))

theorem inputFault_idle (h : (s.saf.chanA[s.clk.refHub]).getLsbD i.val = (s.saf.chanB[s.clk.refHub]).getLsbD i.val ∨
    s.saf.inFault.getLsbD i.val = true ∨ nsOf s ≤ (s.saf.discAt[i]) + field (siCfg s i.val) 15 7 * 10 ^ 6) : inputFault i s = s := by
  refine if_neg ?_
  rintro ⟨differ, sound, long⟩
  obtain h | h | h := h
  · exact channelsDiffer_iff.mp differ h
  · exact nomatch h.symm.trans sound
  · exact absurd long (Nat.not_lt.mpr h)

end Sys2Proof.Machine

/-! SUPPORT. Reset inputs, and what a valid pulse of one does to the arms (R17, R408, R415, R417, R537). -/

namespace Sys2Proof.Machine

variable {s t u : State} {a b : Arm} {i : Fin 2} {d : Bool} {k dt cause : Nat} {m : BitVec 12} {v : Word} {f : SafetyUnit → SafetyUnit}

-- What the hubs agree of a reset input (R17, R415)

theorem resetAgreed_eq : ∃ x, resetAgreed d s =
    { countIf (d && bothHubs s) .sio 0 7 s with clk := { (countIf (d && bothHubs s) .sio 0 7 s).clk with single := x } } :=
  exchanged_eq

theorem writes_resetAgreed : Writes [Reg.CNT + 4 * 7, Reg.CNT_OVF, Reg.IRQ_STAT] s (resetAgreed d s) := by
  obtain ⟨x, agreed⟩ := resetAgreed_eq (d := d) (s := s)
  rw [agreed]
  exact (writes_countIf (by decide)).trans (writes_of_regs rfl)

theorem agreeless_resetAgreed : agreeless (resetAgreed d s) = agreeless s := by
  obtain ⟨x, agreed⟩ := resetAgreed_eq (d := d) (s := s)
  rw [agreed]
  exact Eq.trans (b := agreeless (countIf (d && bothHubs s) .sio 0 7 s)) rfl (agreeless_of_safless (safless_of_quiet quiet_countIf))

theorem resetAgreed_saf : (resetAgreed d s).saf = s.saf := by
  obtain ⟨x, agreed⟩ := resetAgreed_eq (d := d) (s := s)
  rw [agreed]
  exact countIf_saf

theorem now_of_agreeless (h : agreeless t = agreeless s) : t.clk.now = s.clk.now := (congrArg (fun x : State => x.clk.now) h :)

theorem nsOf_congr (h : t.clk.now = s.clk.now) : nsOf t = nsOf s := congrArg (· / 2 ^ 32) h

theorem resetAgreed_nsOf : nsOf (resetAgreed d s) = nsOf s := nsOf_congr (now_of_agreeless agreeless_resetAgreed)

/-- A hub that reads the input otherwise is counted (R17). -/
theorem resetAgreed_counts (wf : regsWf s.regs = true) :
    reg (resetAgreed d s) .sio 0 (Reg.CNT + 28) = reg s .sio 0 (Reg.CNT + 28) + (if d && bothHubs s then 1 else 0) := by
  obtain ⟨x, agreed⟩ := resetAgreed_eq (d := d) (s := s)
  have counted : reg (resetAgreed d s) .sio 0 (Reg.CNT + 28) = reg (countIf (d && bothHubs s) .sio 0 7 s) .sio 0 (Reg.CNT + 28) := by
    rw [agreed]
    rfl
  rw [counted]
  cases d && bothHubs s with
  | false => exact (BitVec.add_zero _).symm
  | true => exact count_reg (n := 7) wf (by decide)

/-- Cell time runs on; the registers of the safety inputs stay. -/
theorem advance_reg {p : Pg} {n off : Nat} (wf : regsWf s.regs = true) (ho : off < 4096 ∧ off ∉ [Reg.CNT_OVF, Reg.IRQ_STAT]) :
    reg (advance dt s) p n off = reg s p n off := writes_advance.reg wf ho

-- RESET_INPUT_RISING_EDGE (R415)

/-- A reset input that has risen at the present instant. -/
def risenInput (i : Fin 2) (ns : Nat) (u : SafetyUnit) : SafetyUnit :=
  { u with rstLvl := vset u.rstLvl i true, rstRise := vset u.rstRise i ns }

theorem resetRise_low (low : s.saf.rstLvl[i] = false) :
    resetRise i d s = modSaf (risenInput i (nsOf (resetAgreed d s))) (resetAgreed d s) :=
  if_neg (by rw [resetAgreed_saf, low]; exact Bool.false_ne_true)

theorem exec_resetInputRisingEdge (on : s.clk.on = true) (wf : regsWf s.regs = true) (low : s.saf.rstLvl[i] = false) :
    ∃ t, exec (.resetInputRisingEdge dt ⟨i, d⟩) s = .next t ∧
      t.saf.rstLvl[i] = true ∧ t.saf.rstRise[i] = nsOf t ∧ t.clk.now = s.clk.now + dt * edgeStep s.clk.rho ∧
      reg t .sio 0 (Reg.CNT + 28) = reg s .sio 0 (Reg.CNT + 28) + (if d && bothHubs s then 1 else 0) ∧
      t = { advance dt s with clk := { (advance dt s).clk with single := t.clk.single }, saf := t.saf, regs := t.regs, link := t.link } := by
  have rises : resetRise i d (advance dt s) = modSaf (risenInput i (nsOf (resetAgreed d (advance dt s)))) (resetAgreed d (advance dt s)) :=
    resetRise_low (by rw [advance_saf]; exact low)
  have acts : exec (.resetInputRisingEdge dt ⟨i, d⟩) s = .next (resetRise i d (advance dt s)) :=
    run_on (f := fun s => resetRise i d (advance dt s)) on
  have hubs : bothHubs (advance dt s) = bothHubs s := by rw [bothHubs, bothHubs, advance_clk]
  have counts := resetAgreed_counts (d := d) (writes_advance (n := dt).wf wf)
  rw [hubs, advance_reg wf (by decide)] at counts
  have frame := agreeless_resetAgreed (d := d) (s := advance dt s)
  rw [rises] at acts
  generalize resetAgreed d (advance dt s) = u at acts counts frame
  refine ⟨_, acts, vset_same, vset_same, (now_of_agreeless frame).trans ?_, counts, eq_of_agreeless frame⟩
  rw [advance_clk]

-- Resets of arms (R417)

/-- What each part of a valid reset keeps: counter 5 of the safety inputs, cell time, the reset inputs, and `RSTSEEN` once it is set. -/
structure Resets (s t : State) : Prop where
  counter : RegKept (regKey .sio 0 (Reg.CNT + 4 * 5)) s t
  now : t.clk.now = s.clk.now
  inputs : (t.saf.rstLvl, t.saf.rstStuck) = (s.saf.rstLvl, s.saf.rstStuck)
  seen : s.saf.rstSeen = true → t.saf.rstSeen = true

theorem Resets.refl : Resets s s := ⟨.refl, rfl, rfl, id⟩

theorem Resets.trans (h : Resets s t) (g : Resets t u) : Resets s u :=
  ⟨h.counter.trans g.counter, g.now.trans h.now, g.inputs.trans h.inputs, fun e => g.seen (h.seen e)⟩

theorem resets_dropPlan : Resets s (dropPlan a s) :=
  ⟨regKept_of_regs dropPlan_regs, by rw [dropPlan_clk], by rw [dropPlan_saf], by rw [dropPlan_saf]; exact id⟩

theorem resets_drawFree : Resets s (drawFree s).2 := ⟨regKept_of_regs rfl, rfl, rfl, id⟩

theorem resets_modOut {g : SafeOutputs → SafeOutputs} : Resets s (modOut g s) := ⟨regKept_of_regs rfl, rfl, rfl, id⟩

/-- The pages of the hub view lie below those of the cell view (R48). -/
theorem sioCounter_ne {off : Nat} : regKey .sio 0 (Reg.CNT + 4 * 5) ≠ regKey .saf 0 off := by
  simp only [regKey, pageAddr, pgRow, cellBase, Reg.CNT, if_true, Bool.false_eq_true, if_false]
  omega

theorem resets_of_quiet (h : quiet t = quiet s) (kept : RegKept (regKey .sio 0 (Reg.CNT + 4 * 5)) s t) : Resets s t := by
  have saf : t.saf = s.saf := (congrArg State.saf h :)
  exact ⟨kept, (congrArg (fun x : State => x.clk.now) h :), by rw [saf], fun e => by rw [saf]; exact e⟩

theorem resets_irq : Resets s (irq .saf 0 k s) := resets_of_quiet quiet_irq (regKept_irq sioCounter_ne)

theorem resets_count : Resets s (count .saf 0 k s) := by
  refine resets_of_quiet quiet_count (regKept_count fun h => ?_)
  simp only [eventKeys, List.mem_cons, List.not_mem_nil, or_false] at h
  obtain h | h | h := h
  all_goals exact sioCounter_ne h

/-- The safety unit once a reset has acted on an arm. -/
def resetUnit (a : Arm) (u : SafetyUnit) : SafetyUnit := { u with
  out := { u.out with
    sbc := if (u.arm[a]).st = 2 then putBit u.out.sbc a.val false else u.out.sbc
    stoPend := putBit u.out.stoPend a.val true, fault := putBit (putBit u.out.fault a.val false) (16 + a.val) false }
  rstSeen := true
  arm := vmod u.arm a fun r => { r with st := 0, cause := 0, noss1 := false, sbcAt := none, slsRun := 0 } }

theorem resets_resetUnit : Resets s (modSaf (resetUnit a) s) := ⟨regKept_modSaf, rfl, rfl, fun _ => rfl⟩

/-- The reset of one arm is noted. -/
def resetNoted (s : State) : State := count .saf 0 4 (irq .saf 0 safReset (drawFree s).2)

theorem resetNoted_saf : (resetNoted s).saf = s.saf := by rw [resetNoted, count_saf, irq_saf]; rfl

theorem resets_resetNoted : Resets s (resetNoted s) := (resets_drawFree.trans resets_irq).trans resets_count

/-- A reset of an arm that awaits none does nothing; one that meets a demand is counted; any other takes the arm to state 0. -/
theorem resetArm_cases : ((s.saf.arm[a]).st < 2 ∧ resetArm a s = s) ∨ (2 ≤ (s.saf.arm[a]).st ∧ resetArm a s = count .saf 0 5 (drawFree s).2) ∨
    (2 ≤ (s.saf.arm[a]).st ∧ resetArm a s = dropPlan a (modSaf (resetUnit a) (resetNoted s))) := by
  unfold resetArm
  by_cases idle : (s.saf.arm[a]).st < 2
  · exact .inl ⟨idle, if_pos idle⟩
  rw [if_neg idle]
  by_cases demand : demandRemains s a = true
  · exact .inr (.inl ⟨Nat.not_lt.mp idle, if_pos demand⟩)
  rw [if_neg demand]
  refine .inr (.inr ⟨Nat.not_lt.mp idle, congrArg (dropPlan a) ?_⟩)
  have saf := resetNoted_saf (s := s)
  unfold resetNoted at saf ⊢
  generalize count .saf 0 4 (irq .saf 0 safReset (drawFree s).2) = u at saf ⊢
  by_cases brake : (u.saf.arm[a]).st = 2
  · simp only [if_pos brake, resetUnit, modSaf]
    rfl
  · simp only [if_neg brake, resetUnit, modSaf]
    rfl

theorem resetArm_acts_saf : (dropPlan a (modSaf (resetUnit a) (resetNoted s))).saf = resetUnit a s.saf := by
  rw [dropPlan_saf, modSaf_saf, resetNoted_saf]

theorem resets_resetArm : Resets s (resetArm a s) := by
  obtain ⟨-, acts⟩ | ⟨-, acts⟩ | ⟨-, acts⟩ := resetArm_cases (a := a) (s := s) <;> rw [acts]
  · exact .refl
  · exact resets_drawFree.trans resets_count
  · exact (resets_resetNoted.trans resets_resetUnit).trans resets_dropPlan

/-- The part of an arm in a reset: it stays as it is, or it awaited a reset and stands in state 0, and `RSTSEEN` is set. -/
def resetPart (s t : State) (a : Arm) : Prop :=
  t.saf.arm[a] = s.saf.arm[a] ∨ (2 ≤ (s.saf.arm[a]).st ∧ (t.saf.arm[a]).st = 0 ∧ t.saf.rstSeen = true)

theorem resetArm_apart (h : b ≠ a) : (resetArm a s).saf.arm[b] = s.saf.arm[b] := by
  obtain ⟨-, acts⟩ | ⟨-, acts⟩ | ⟨-, acts⟩ := resetArm_cases (a := a) (s := s) <;> rw [acts]
  · rw [count_saf]
    rfl
  · rw [resetArm_acts_saf]
    exact vmod_other h

theorem resetArm_part : resetPart s (resetArm a s) a := by
  obtain ⟨-, acts⟩ | ⟨-, acts⟩ | ⟨awaits, acts⟩ := resetArm_cases (a := a) (s := s) <;> rw [acts]
  · exact .inl rfl
  · exact .inl (by rw [count_saf]; rfl)
  · refine .inr ⟨awaits, ?_, ?_⟩
    · rw [resetArm_acts_saf, resetUnit, vmod_same]
    · rw [resetArm_acts_saf, resetUnit]

/-- The resets of a list of arms: each arm has its part, and an arm outside the list none. -/
theorem resetArms_each (l : List Arm) (distinct : l.Nodup) : (∀ a, resetPart s (forEach l resetArm s) a) ∧
    ∀ a ∉ l, (forEach l resetArm s).saf.arm[a] = s.saf.arm[a] := by
  refine ⟨fun a => ?_, (forEach_each (part := fun u a => u.saf.arm[a]) (f := resetArm) (Q := fun _ _ => True)
    (fun _ _ => trivial) (fun _ _ _ => resetArm_apart) l s distinct).2⟩
  refine forEach_holds (P := fun u => resetPart s u a) (fun c u h => ?_) l (.inl rfl)
  have seen := (resets_resetArm (a := c) (s := u)).seen
  by_cases e : a = c
  · subst e
    obtain same | ⟨awaits, free, noted⟩ := h
    · obtain again | ⟨awaits, free, noted⟩ := resetArm_part (a := a) (s := u)
      · exact .inl (again.trans same)
      · exact .inr ⟨same ▸ awaits, free, noted⟩
    · obtain again | ⟨awaits', -⟩ := resetArm_part (a := a) (s := u)
      · exact .inr ⟨awaits, by rw [again]; exact free, seen noted⟩
      · omega
  · obtain same | ⟨awaits, free, noted⟩ := h
    · exact .inl ((resetArm_apart e).trans same)
    · exact .inr ⟨awaits, by rw [resetArm_apart e]; exact free, seen noted⟩

-- A valid reset (R408, R417, R537)

/-- The latched fault of an output clears where its readback agrees. -/
def clearOutput (o : Nat) (s : State) : State :=
  if s.saf.out.fault.getLsbD o then
    let k := drawFree s
    if Config.freeBit k.1 then k.2 else modOut (fun x => { x with fault := putBit x.fault o false }) k.2
  else s

/-- What a valid reset does before it acts on arms. -/
def resetBegun (s : State) : State := forEach [12, 13, 14, 15] clearOutput (clearInputFaults (count .sio 0 5 s))

theorem actReset_seen (seen : safSeen s = true) :
    actReset m s = releaseSo (forEach (allArms.filter fun (a : Arm) => m.getLsbD a.val) resetArm (resetBegun s)) := if_pos seen

theorem clearOutput_keeps {o : Nat} : Resets s (clearOutput o s) ∧ (clearOutput o s).saf.arm = s.saf.arm := by
  unfold clearOutput
  dsimp only
  split
  · split
    · exact ⟨resets_drawFree, rfl⟩
    · exact ⟨resets_drawFree.trans resets_modOut, rfl⟩
  · exact ⟨.refl, rfl⟩

theorem releaseSo_keeps : Resets s (releaseSo s) ∧ (releaseSo s).saf.arm = s.saf.arm := by
  unfold releaseSo
  split
  · exact ⟨resets_modOut, rfl⟩
  · exact ⟨.refl, rfl⟩

theorem resetBegun_keeps : Resets (count .sio 0 5 s) (resetBegun s) ∧ (resetBegun s).saf.arm = s.saf.arm := by
  have cleared : Resets (count .sio 0 5 s) (clearInputFaults (count .sio 0 5 s)) := ⟨regKept_of_regs rfl, rfl, rfl, id⟩
  have arm : (clearInputFaults (count .sio 0 5 s)).saf.arm = s.saf.arm := by
    rw [clearInputFaults, modSaf_saf, count_saf]
  exact forEach_holds (P := fun u => Resets (count .sio 0 5 s) u ∧ u.saf.arm = s.saf.arm)
    (fun o u h => ⟨h.1.trans clearOutput_keeps.1, clearOutput_keeps.2.trans h.2⟩) _ ⟨cleared, arm⟩

theorem actReset_keeps (seen : safSeen s = true) : Resets (count .sio 0 5 s) (actReset m s) := by
  rw [actReset_seen seen]
  exact (forEach_holds (P := Resets (count .sio 0 5 s)) (fun _ _ h => h.trans resets_resetArm) _ resetBegun_keeps.1).trans releaseSo_keeps.1

/-- Every arm has its part in a valid reset, and an arm that the mask does not name stays as it is. -/
theorem actReset_each (seen : safSeen s = true) : (∀ a, resetPart s (actReset m s) a) ∧
    ∀ a : Arm, m.getLsbD a.val = false → (actReset m s).saf.arm[a] = s.saf.arm[a] := by
  obtain ⟨parts, others⟩ := resetArms_each (s := resetBegun s) (allArms.filter fun (a : Arm) => m.getLsbD a.val) (allArms_nodup.filter _)
  have begun := (resetBegun_keeps (s := s)).2
  rw [actReset_seen seen]
  generalize forEach (allArms.filter fun (a : Arm) => m.getLsbD a.val) resetArm (resetBegun s) = u at parts others ⊢
  obtain ⟨keeps, arm⟩ := releaseSo_keeps (s := u)
  refine ⟨fun a => ?_, fun a unnamed => ?_⟩
  · have part := parts a
    rw [resetPart, begun] at part
    rw [resetPart, arm]
    exact part.imp id fun ⟨awaits, free, noted⟩ => ⟨awaits, free, keeps.seen noted⟩
  · rw [arm, others a fun h => by rw [(List.mem_filter.mp h).2] at unnamed; exact (nomatch unnamed), begun]

-- RESET_PULSE (R415)

/-- A reset input that has fallen. -/
def fallenInput (i : Fin 2) (u : SafetyUnit) : SafetyUnit := { u with rstLvl := vset u.rstLvl i false, rstStuck := vset u.rstStuck i false }

/-- The state in which the pulse of a reset input is judged. -/
def resetFallen (i : Fin 2) (d : Bool) (s : State) : State := modSaf (fallenInput i) (resetAgreed d s)

theorem writes_resetFallen : Writes [Reg.CNT + 4 * 7, Reg.CNT_OVF, Reg.IRQ_STAT] s (resetFallen i d s) := writes_resetAgreed.trans writes_modSaf

theorem resetFallen_saf : (resetFallen i d s).saf = fallenInput i s.saf := by rw [resetFallen, modSaf_saf, resetAgreed_saf]

theorem agreeless_resetFallen : agreeless (resetFallen i d s) = agreeless s :=
  Eq.trans (b := agreeless (resetAgreed d s)) rfl agreeless_resetAgreed

theorem resetMask_congr (h : reg t .sio 0 Reg.SIO_RST_CFG = reg s .sio 0 Reg.SIO_RST_CFG) : resetMask t i = resetMask s i := by
  rw [resetMask, resetMask, fld, fld, fld, fld, h]

/-- Whether the pulse of a reset input is valid: not stuck, and neither too short nor too long (R415). -/
def pulseValid (s : State) (i : Fin 2) : Prop :=
  s.saf.rstStuck[i] = false ∧ resetMin ≤ nsOf s - s.saf.rstRise[i] ∧ nsOf s - s.saf.rstRise[i] ≤ resetMax

section Fall
variable (wf : regsWf s.regs = true) (high : s.saf.rstLvl[i] = true)
include high

theorem resetFall_eq : resetFall i d s = if (!s.saf.rstStuck[i] && decide (resetMin ≤ nsOf s - s.saf.rstRise[i] ∧
    nsOf s - s.saf.rstRise[i] ≤ resetMax)) = true then actReset (resetMask (resetFallen i d s) i) (resetFallen i d s)
    else count .sio 0 6 (resetFallen i d s) := by
  rw [← resetAgreed_nsOf (d := d), ← resetAgreed_saf (d := d) (s := s)]
  exact if_pos (by rw [resetAgreed_saf]; exact high)

theorem resetFall_invalid (bad : ¬ pulseValid s i) : resetFall i d s = count .sio 0 6 (resetFallen i d s) := by
  refine (resetFall_eq high).trans (if_neg fun valid => bad ?_)
  rw [Bool.and_eq_true, Bool.not_eq_true', decide_eq_true_eq] at valid
  exact valid

include wf in
theorem resetFall_valid (good : pulseValid s i) : resetFall i d s = actReset (resetMask s i) (resetFallen i d s) := by
  obtain ⟨free, long, short⟩ := good
  have mask : resetMask (resetFallen i d s) i = resetMask s i := resetMask_congr (writes_resetFallen.reg wf (by decide))
  rw [resetFall_eq high, mask]
  exact if_pos (by rw [free, decide_eq_true ⟨long, short⟩]; rfl)

end Fall

theorem actReset_unseen (unseen : safSeen s = false) : actReset m s = count .sio 0 6 s := if_neg (by rw [unseen]; exact Bool.false_ne_true)

theorem safSeen_resetFallen : safSeen (resetFallen i d s) = safSeen s := by
  have admitted : (resetFallen i d s).boot.admitted = s.boot.admitted :=
    (congrArg (fun x : State => x.boot.admitted) (agreeless_resetFallen (i := i) (d := d) (s := s)) :)
  rw [safSeen, admitted, resetFallen_saf]
  rfl

section Judged
variable (wf : regsWf s.regs = true) (high : s.saf.rstLvl[i] = true)
include wf high

/-- A pulse acts on arms, or is only counted. -/
theorem resetFall_cases : resetFall i d s = count .sio 0 6 (resetFallen i d s) ∨
    (safSeen (resetFallen i d s) = true ∧ resetFall i d s = actReset (resetMask s i) (resetFallen i d s)) := by
  by_cases good : pulseValid s i
  · cases seen : safSeen (resetFallen i d s) with
    | false => exact .inl ((resetFall_valid wf high good).trans (actReset_unseen seen))
    | true => exact .inr ⟨rfl, resetFall_valid wf high good⟩
  · exact .inl (resetFall_invalid high good)

/-- However the pulse is judged, the input has fallen, and no time has passed. -/
theorem resetFall_falls : (resetFall i d s).clk.now = s.clk.now ∧ (resetFall i d s).saf.rstLvl[i] = false ∧
    (resetFall i d s).saf.rstStuck[i] = false := by
  have fallen : (resetFallen i d s).clk.now = s.clk.now := now_of_agreeless agreeless_resetFallen
  have saf := resetFallen_saf (i := i) (d := d) (s := s)
  obtain acts | ⟨seen, acts⟩ := resetFall_cases (d := d) wf high <;> rw [acts]
  · rw [count_clk, count_saf, saf]
    exact ⟨fallen, vset_same, vset_same⟩
  · obtain ⟨-, now, inputs, -⟩ := actReset_keeps (m := resetMask s i) seen
    rw [count_saf, saf, Prod.mk.injEq] at inputs
    rw [count_clk] at now
    rw [inputs.1, inputs.2]
    exact ⟨now.trans fallen, vset_same, vset_same⟩

/-- A pulse that is not valid is counted, and does nothing else to outputs and arms (R415). -/
theorem resetFall_counted (bad : ¬ pulseValid s i) :
    reg (resetFall i d s) .sio 0 (Reg.CNT + 24) = reg s .sio 0 (Reg.CNT + 24) + 1 ∧ (resetFall i d s).saf.arm = s.saf.arm ∧
      (resetFall i d s).saf.out = s.saf.out := by
  have fallen := writes_resetFallen (i := i) (d := d) (s := s)
  rw [resetFall_invalid high bad, count_saf, resetFallen_saf]
  exact ⟨(count_reg (n := 6) (fallen.wf wf) (by decide)).trans (congrArg (· + 1) (fallen.reg wf (by decide))), rfl, rfl⟩

/-- A valid pulse is counted, and resets arms that its mask names (R417). -/
theorem resetFall_resets (good : pulseValid s i) (seen : safSeen s = true) :
    reg (resetFall i d s) .sio 0 (Reg.CNT + 20) = reg s .sio 0 (Reg.CNT + 20) + 1 ∧ (∀ a, resetPart s (resetFall i d s) a) ∧
      ∀ a : Arm, (resetMask s i).getLsbD a.val = false → (resetFall i d s).saf.arm[a] = s.saf.arm[a] := by
  have fallen := writes_resetFallen (i := i) (d := d) (s := s)
  have arm : (resetFallen i d s).saf.arm = s.saf.arm := by rw [resetFallen_saf, fallenInput]
  have seen' : safSeen (resetFallen i d s) = true := safSeen_resetFallen.trans seen
  obtain ⟨parts, others⟩ := actReset_each (m := resetMask s i) seen'
  have counter := (actReset_keeps (m := resetMask s i) seen').counter.reg (regsWf_count (fallen.wf wf))
  rw [resetFall_valid wf high good]
  rw [arm] at others
  refine ⟨counter.trans ((count_reg (n := 5) (fallen.wf wf) (by decide)).trans (congrArg (· + 1) (fallen.reg wf (by decide)))),
    fun a => ?_, others⟩
  have part := parts a
  rwa [resetPart, arm] at part

end Judged

theorem pulseValid_congr (saf : t.saf = s.saf) : pulseValid t i ↔
    s.saf.rstStuck[i] = false ∧ resetMin ≤ nsOf t - s.saf.rstRise[i] ∧ nsOf t - s.saf.rstRise[i] ≤ resetMax := by
  rw [pulseValid, saf]

theorem exec_resetPulse (on : s.clk.on = true) (wf : regsWf s.regs = true) (high : s.saf.rstLvl[i] = true) :
    ∃ t, exec (.resetPulse dt ⟨i, d⟩) s = .next (refreshReady t) ∧ t.saf.rstLvl[i] = false ∧ t.saf.rstStuck[i] = false ∧
      (s.saf.rstStuck[i] = true ∨ nsOf t - s.saf.rstRise[i] < resetMin ∨ resetMax < nsOf t - s.saf.rstRise[i] →
        reg t .sio 0 (Reg.CNT + 24) = reg s .sio 0 (Reg.CNT + 24) + 1 ∧ t.saf.arm = s.saf.arm ∧ t.saf.out = s.saf.out) ∧
      (s.saf.rstStuck[i] = false → resetMin ≤ nsOf t - s.saf.rstRise[i] → nsOf t - s.saf.rstRise[i] ≤ resetMax → safSeen s = true →
        reg t .sio 0 (Reg.CNT + 20) = reg s .sio 0 (Reg.CNT + 20) + 1 ∧
        ∀ a : Arm, ((resetMask s i).getLsbD a.val = false ∨ (s.saf.arm[a]).st < 2 → t.saf.arm[a] = s.saf.arm[a]) ∧
          (2 ≤ (s.saf.arm[a]).st → t.saf.arm[a] = s.saf.arm[a] ∨ ((t.saf.arm[a]).st = 0 ∧ t.saf.rstSeen = true))) := by
  have acts : exec (.resetPulse dt ⟨i, d⟩) s = .next (refreshReady (resetFall i d (advance dt s))) :=
    runReady_on (f := fun s => resetFall i d (advance dt s)) on
  have saf : (advance dt s).saf = s.saf := advance_saf
  have boot : safSeen (advance dt s) = safSeen s := by rw [safSeen, safSeen, saf, advance_boot]
  have mask : resetMask (advance dt s) i = resetMask s i := resetMask_congr (advance_reg wf (by decide))
  have shorts : reg (advance dt s) .sio 0 (Reg.CNT + 24) = reg s .sio 0 (Reg.CNT + 24) := advance_reg wf (by decide)
  have valids : reg (advance dt s) .sio 0 (Reg.CNT + 20) = reg s .sio 0 (Reg.CNT + 20) := advance_reg wf (by decide)
  have wfu : regsWf (advance dt s).regs = true := writes_advance.wf wf
  generalize advance dt s = u at acts saf boot mask shorts valids wfu
  have highu : u.saf.rstLvl[i] = true := saf ▸ high
  obtain ⟨now, fallen, freed⟩ := resetFall_falls (d := d) wfu highu
  refine ⟨_, acts, fallen, freed, ?_, ?_⟩ <;> rw [nsOf_congr now]
  · intro bad
    have counted := resetFall_counted (d := d) wfu highu fun good => by
      obtain ⟨free, long, short⟩ := (pulseValid_congr saf).mp good
      obtain h | h | h := bad
      · exact nomatch free.symm.trans h
      · exact absurd long (Nat.not_le.mpr h)
      · exact absurd short (Nat.not_le.mpr h)
    rwa [shorts, saf] at counted
  · intro free long short seen
    obtain ⟨counted, parts, others⟩ := resetFall_resets (d := d) wfu highu ((pulseValid_congr saf).mpr ⟨free, long, short⟩) (boot.trans seen)
    rw [mask] at others
    rw [← valids, ← saf]
    refine ⟨counted, fun a => ⟨fun h => ?_, fun _ => (parts a).imp id fun ⟨_, at0, noted⟩ => ⟨at0, noted⟩⟩⟩
    obtain unnamed | idle := h
    · exact others a unnamed
    · exact (parts a).resolve_right fun ⟨awaits, _⟩ => absurd awaits (Nat.not_le.mpr idle)

end Sys2Proof.Machine

/-! SUPPORT. Resets that are stuck, the software reset, and the end of the hub service window (R401, R416, R418, R420, R424). -/

namespace Sys2Proof.Machine

variable {s t u : State} {a b : Arm} {i : Fin 2} {k cause : Nat} {v : Word} {f : SafetyUnit → SafetyUnit}

-- Resets that are stuck (R416, R418)

/-- An interrupt that a change of the safety unit brings with it, and nothing else. -/
theorem irq_modSaf_told (wf : regsWf s.regs = true) (hk : k < 32) : (irq .sio 0 k (modSaf f s)).saf = f s.saf ∧
    bit (reg (irq .sio 0 k (modSaf f s)) .sio 0 Reg.IRQ_STAT) k = true ∧
    RegsBut [regKey .sio 0 Reg.IRQ_STAT] s (irq .sio 0 k (modSaf f s)) ∧
    irq .sio 0 k (modSaf f s) = { s with saf := (irq .sio 0 k (modSaf f s)).saf, regs := (irq .sio 0 k (modSaf f s)).regs,
                                         link := (irq .sio 0 k (modSaf f s)).link } :=
  ⟨irq_saf, irq_bit (s := modSaf f s) wf hk,
    regsBut_of_kept wf fun _ hn => regKept_modSaf.trans (regKept_irq (by simpa using hn)),
    eq_of_safless ((safless_of_quiet quiet_irq).trans safless_modSaf)⟩

theorem exec_stuckReset (on : s.clk.on = true) (wf : regsWf s.regs = true) (high : s.saf.rstLvl[i] = true) (free : s.saf.rstStuck[i] = false)
    (long : s.saf.rstRise[i] + resetMax < nsOf s) :
    ∃ t, exec (.stuckReset i) s = .next t ∧
      t.saf = { s.saf with rstStuck := vset s.saf.rstStuck i true } ∧ bit (reg t .sio 0 Reg.IRQ_STAT) sioRstStuck = true ∧
      RegsBut [regKey .sio 0 Reg.IRQ_STAT] s t ∧ t = { s with saf := t.saf, regs := t.regs, link := t.link } :=
  ⟨_, (run_on on).trans (congrArg _ (if_pos ⟨high, free, long⟩)), irq_modSaf_told wf (by decide)⟩

theorem exec_swrstStuck (on : s.clk.on = true) (wf : regsWf s.regs = true) (risen : s.saf.swRise = some k) (free : s.saf.swStuck = false)
    (long : k + resetMax < nsOf s) :
    ∃ t, exec .swrstStuck s = .next t ∧
      t.saf = { s.saf with swStuck := true } ∧ bit (reg t .sio 0 Reg.IRQ_STAT) sioRstStuck = true ∧
      RegsBut [regKey .sio 0 Reg.IRQ_STAT] s t ∧ t = { s with saf := t.saf, regs := t.regs, link := t.link } := by
  have acts : swrstStuck s = irq .sio 0 sioRstStuck (modSaf (fun u => { u with swStuck := true }) s) := by
    simp only [swrstStuck, risen]
    exact if_pos ⟨free, long⟩
  exact ⟨_, (run_on on).trans (congrArg _ acts), irq_modSaf_told wf (by decide)⟩

-- SWRST (R418, R424)

/-- The entries of the change log that are due touch the security unit and its page only (R424). -/
theorem flushLog_keeps : Writes logOffs s (flushLog s) ∧ secless (flushLog s) = secless s := by
  refine forEach_holds (P := fun u => Writes logOffs s u ∧ secless u = secless s) (fun x u h => ?_) _ ⟨writes_of_regs rfl, rfl⟩
  exact ⟨h.1.trans (writes_logChange ..), (secless_logChange ..).trans h.2⟩

theorem modSec_modSec {g h : Security → Security} : modSec g (modSec h s) = modSec (fun x => g (h x)) s := rfl

/-- A write to a protected page of the cell view does what it does; besides that only the security unit may note it. -/
theorem loggedWrite_cell {q : Port} {p : Pg} {n : Nat} {g : State → State} (cell : (pgRow p).cell = true) :
    ∃ y, loggedWrite q p n g s = modSec y (g s) := by
  simp only [loggedWrite, cell, if_true]
  split
  · split
    · exact ⟨_, rfl⟩
    · exact ⟨_, modSec_modSec (s := g s)⟩
  · exact ⟨id, rfl⟩

theorem pageWrite_swrst (unlocked : locked s .saf = false) (room : logFull s = false) :
    ∃ y, pageWrite (pageAddr .saf 0) Reg.SAF_SWRST v s = flushLog (modSec y (writeSwrst v s)) := by
  have row : regRow .saf Reg.SAF_SWRST = some ⟨Reg.SAF_SWRST, 1, .rw, 1, 0, false⟩ := by decide
  have taken : turnsAway s .saf ⟨Reg.SAF_SWRST, 1, .rw, 1, 0, false⟩ = false := by
    rw [turnsAway, unlocked, room]
    rfl
  obtain ⟨y, logged⟩ := loggedWrite_cell (s := s) (q := sessionPort s) (p := .saf) (n := 0) (g := writeSwrst v) rfl
  refine ⟨y, ?_⟩
  rw [pageWrite, onPage_some (a := ⟨.saf, 0, 0⟩) (by decide) (by decide), ← logged]
  simp only [writeReg, row, actWrite, taken, Bool.false_eq_true, if_false]
  rfl

/-- What the write of `SWRST` leaves in the safety unit and on its page, it leaves after the entries of the log too. -/
theorem exec_swrst_acts (on : s.clk.on = true) (unlocked : locked s .saf = false) (room : logFull s = false)
    (wf : regsWf (writeSwrst v s).regs = true) :
    ∃ t, exec (.swrst v) s = .next t ∧ t.saf = (writeSwrst v s).saf ∧
      reg t .saf 0 Reg.ERR = reg (writeSwrst v s) .saf 0 Reg.ERR ∧ reg t .saf 0 Reg.SAF_SWRST = reg (writeSwrst v s) .saf 0 Reg.SAF_SWRST := by
  obtain ⟨y, acts⟩ := pageWrite_swrst (v := v) unlocked room
  obtain ⟨writes, frame⟩ := flushLog_keeps (s := modSec y (writeSwrst v s))
  exact ⟨_, (run_on on).trans (congrArg _ acts), (congrArg State.saf frame :), writes.reg wf (by decide), writes.reg wf (by decide)⟩

theorem and_one_of_bit (raised : bit v 0 = true) : v &&& 1 = 1 := by
  refine BitVec.eq_of_getLsbD_eq fun j hj => ?_
  rw [BitVec.getLsbD_and]
  by_cases first : j = 0
  · subst first
    exact (congrArg (· && _) raised).trans (Bool.true_and _)
  · have clear : Nat.testBit 1 j = false := Bool.eq_false_iff.mpr fun h => first (Nat.testBit_one_eq_true_iff_self_eq_zero.mp h)
    rw [show (1 : Word) = BitVec.ofNat 32 1 from rfl, BitVec.getLsbD_ofNat, clear, Bool.and_false, Bool.and_false]

theorem writeSwrst_disabled (off : fld s .saf 0 Reg.SAF_GCFG 31 31 = 0) : writeSwrst v s = recordErr .saf 0 0x0100 s := if_pos off

theorem writeSwrst_set (enabled : fld s .saf 0 Reg.SAF_GCFG 31 31 = 1) (raised : bit v 0 = true) (low : s.saf.swRise = none) :
    writeSwrst v s = modSaf (fun u => { u with swRise := some (nsOf s) }) (chg .saf 0 (setReg .saf 0 Reg.SAF_SWRST 1 s)) := by
  have released : (chg .saf 0 (setReg .saf 0 Reg.SAF_SWRST 1 s)).saf.swRise = none := low
  simp only [writeSwrst, enabled, one_ne_zero, if_false, and_one_of_bit raised, raised, released]
  rfl

theorem exec_swrst_disabled (on : s.clk.on = true) (wf : regsWf s.regs = true) (unlocked : locked s .saf = false) (room : logFull s = false)
    (off : fld s .saf 0 Reg.SAF_GCFG 31 31 = 0) :
    ∃ t, exec (.swrst v) s = .next t ∧ field (reg t .saf 0 Reg.ERR) 15 0 = 0x0100 ∧ t.saf = s.saf := by
  have refused := writeSwrst_disabled (v := v) off
  obtain ⟨t, acts, saf, err, -⟩ := exec_swrst_acts (v := v) on unlocked room (by rw [refused]; exact regsWf_recordErr wf)
  refine ⟨t, acts, ?_, ?_⟩
  · rw [err, refused]
    exact recordErr_code wf (by decide)
  · rw [saf, refused, recordErr_saf]

theorem exec_swrst_set (on : s.clk.on = true) (wf : regsWf s.regs = true) (unlocked : locked s .saf = false) (room : logFull s = false)
    (enabled : fld s .saf 0 Reg.SAF_GCFG 31 31 = 1) (raised : bit v 0 = true) (low : s.saf.swRise = none) :
    ∃ t, exec (.swrst v) s = .next t ∧ t.saf = { s.saf with swRise := some (nsOf s) } ∧ reg t .saf 0 Reg.SAF_SWRST = 1 := by
  have taken := writeSwrst_set enabled raised low
  have wf' : regsWf (setReg .saf 0 Reg.SAF_SWRST 1 s).regs = true := regsWf_setReg wf
  obtain ⟨t, acts, saf, -, shown⟩ := exec_swrst_acts (v := v) on unlocked room (by rw [taken, modSaf_regs]; exact regsWf_chg wf')
  refine ⟨t, acts, ?_, ?_⟩
  · rw [saf, taken]
    rfl
  · rw [shown, taken, reg_modSaf, (regKept_chg (regKey_apart (by decide))).reg wf', reg_setReg_same wf]

-- The hub service window (R420)

theorem exec_svcwarn (on : s.clk.on = true) (wf : regsWf s.regs = true) (runs : s.saf.svcOn = true) (last : svcLeft s ≤ 3600) :
    ∃ t, exec .svcwarn s = .next t ∧ bit (reg t .sio 0 Reg.IRQ_STAT) sioSvcWarn = true ∧
      RegsBut [regKey .sio 0 Reg.IRQ_STAT] s t ∧ t = { s with regs := t.regs, link := t.link } := by
  have acts : svcWarn s = irq .sio 0 sioSvcWarn s := if_pos (by rw [runs, decide_eq_true last]; rfl)
  exact ⟨_, (run_on on).trans (congrArg _ acts), irq_bit wf (by decide), regsBut_of_kept wf fun _ hn => regKept_irq (by simpa using hn),
    eq_of_quiet quiet_irq⟩

/-- SS1 of one arm (R401): an arm without a demand takes it; any other keeps its state. -/
theorem ss1Arm_saf : ((s.saf.arm[a]).st ≠ 0 ∧ (ss1Arm cause a s).saf = s.saf) ∨
    ((s.saf.arm[a]).st = 0 ∧ ∃ g : ArmSafety → ArmSafety, (ss1Arm cause a s).saf = { s.saf with arm := vmod s.saf.arm a g } ∧
      ∀ r, (g r).st = 1 ∧ (g r).cause = cause) := by
  unfold ss1Arm
  dsimp only
  by_cases stops : 2 ≤ (s.saf.arm[a]).st
  · exact .inl ⟨by omega, by rw [if_pos stops]⟩
  rw [if_neg stops]
  by_cases slows : (s.saf.arm[a]).st = 1
  · exact .inl ⟨by omega, by rw [if_pos slows, count_saf, irq_saf]⟩
  rw [if_neg slows, modPlay_saf, stopRing_saf, modArmSaf, modSaf_saf, count_saf, irq_saf]
  exact .inr ⟨by omega, _, rfl, fun _ => ⟨rfl, rfl⟩⟩

theorem cellSs1_svcOver : (cellSs1 cause s).saf.svcOver = s.saf.svcOver := by
  have noted : (noteDemand cause (BitVec.allOnes 12) (drawFree s).2).saf.svcOver = s.saf.svcOver := by
    rw [noteDemand, modSaf_saf]
    rfl
  rw [cellSs1, ← noted]
  refine forEach_preserves (g := fun u : State => u.saf.svcOver) (fun a u => ?_) allArms _
  obtain ⟨-, saf⟩ | ⟨-, g, saf, -⟩ := ss1Arm_saf (cause := cause) (a := a) (s := u) <;> rw [saf]

/-- SS1 of every arm (R420): an arm without a demand takes it, and any other keeps its state. -/
theorem cellSs1_each (a : Arm) :
    ((s.saf.arm[a]).st = 0 → ((cellSs1 cause s).saf.arm[a]).st = 1 ∧ ((cellSs1 cause s).saf.arm[a]).cause = cause) ∧
      ((s.saf.arm[a]).st ≠ 0 → ((cellSs1 cause s).saf.arm[a]).st = (s.saf.arm[a]).st) := by
  have noted : (noteDemand cause (BitVec.allOnes 12) (drawFree s).2).saf.arm = s.saf.arm := by
    rw [noteDemand, modSaf_saf]
    rfl
  rw [cellSs1, ← noted]
  generalize noteDemand cause (BitVec.allOnes 12) (drawFree s).2 = w
  refine (forEach_each (part := fun u a => u.saf.arm[a]) (f := ss1Arm cause)
    (Q := fun x y => (x.st = 0 → y.st = 1 ∧ y.cause = cause) ∧ (x.st ≠ 0 → y.st = x.st)) (fun b u => ?_) (fun b c u apart => ?_)
    allArms w allArms_nodup).1 a mem_allArms
  · obtain ⟨stands, saf⟩ | ⟨free, g, saf, demanded⟩ := ss1Arm_saf (cause := cause) (a := b) (s := u) <;> rw [saf]
    · exact ⟨fun free => absurd free stands, fun _ => rfl⟩
    · rw [vmod_same]
      exact ⟨fun _ => demanded _, fun stands => absurd free stands⟩
  · obtain ⟨-, saf⟩ | ⟨-, g, saf, -⟩ := ss1Arm_saf (cause := cause) (a := b) (s := u) <;> rw [saf]
    exact vmod_other apart

theorem exec_serviceWindowExpiry (on : s.clk.on = true) (runs : s.saf.svcOn = true) (before : s.saf.svcOver = false) (last : svcLeft s = 0) :
    ∃ t, exec .serviceWindowExpiry s = .next (refreshReady t) ∧ t.saf.svcOver = true ∧
      ∀ a : Arm, ((s.saf.arm[a]).st = 0 → (t.saf.arm[a]).st = 1 ∧ (t.saf.arm[a]).cause = 13) ∧
        ((s.saf.arm[a]).st ≠ 0 → (t.saf.arm[a]).st = (s.saf.arm[a]).st) := by
  have acts : svcExpiry s = cellSs1 13 (modSaf (fun u => { u with svcOver := true }) s) := if_pos ⟨runs, before, last⟩
  exact ⟨_, (runReady_on on).trans (congrArg (fun u => Host.Outcome.next (refreshReady u)) acts), cellSs1_svcOver,
    cellSs1_each (s := modSaf (fun u => { u with svcOver := true }) s)⟩

end Sys2Proof.Machine

/-! Safety inputs, outputs, test pulses, resets and the service window (R398, R407, R408, R411 to R418, R420): O58. -/

namespace Sys2Proof.Machine

/-- Settles O58, command by command. -/
theorem safetyInputsOutputs : Obligations.SafetyInputsOutputs := by
  intro s on wf
  refine ⟨fun i c x hubs => exec_safetyInputFilter on wf, fun i differ sound long => exec_inputFault on wf differ sound long,
    fun i h => (run_on on).trans (congrArg _ (inputFault_idle h)), fun o lo hi => exec_outputFault_cell on wf lo hi,
    fun o a named alone low => exec_outputFault_arm on named alone low, fun o c lit => ⟨fun free slot due => ?_, fun h => ?_,
      fun test due => exec_testPulseResult_passed lit test due on wf, fun test due x y bad => exec_testPulseResult_failed lit test due on wf bad⟩,
    fun dt i d => ⟨fun low => exec_resetInputRisingEdge on wf low, fun high => exec_resetPulse on wf high⟩,
    fun i high free long => exec_stuckReset on wf high free long,
    fun v unlocked room => ⟨fun off => exec_swrst_disabled on wf unlocked room off,
      fun enabled raised low => exec_swrst_set on wf unlocked room enabled raised low⟩,
    fun x risen free long => exec_swrstStuck on wf risen free long, fun runs last => exec_svcwarn on wf runs last,
    fun runs before last => exec_serviceWindowExpiry on runs before last⟩
  · exact (run_on on).trans (congrArg _ (if_pos ⟨free, lit, slot, due⟩))
  · exact (run_on on).trans (congrArg _ (testPulse_idle h))

end Sys2Proof.Machine
